-- ==== Sys2Proof/Word.lean ====
section
/-! DEFINITION. Word.lean: the word types of the Keeper and their plainest arithmetic (00_scope.md, R7, R16). -/
namespace Sys2Proof

/-- A 32-bit word, the unit of registers, descriptors, packets and records (R7, R16). -/
abbrev Word := BitVec 32

/-- A byte. -/
abbrev Byte := BitVec 8

/-- A coordinate address: kind[15:14], rx[13:11], ry[10:8], index[7:0] (R47). -/
abbrev Addr := BitVec 16

/-- A 64-byte digest, byte 0 in bits [7:0] (R69, R90). -/
abbrev Digest := BitVec 512

/-- A set of slices, bit n for slice n (R137). -/
abbrev SliceSet := BitVec 256

/-- A word from a natural number, truncated. -/
abbrev w32 (n : Nat) : Word := BitVec.ofNat 32 n

/-- Bits [lo + width - 1 : lo] of a word, as a number. -/
def bitsOf (w : Word) (lo width : Nat) : Nat := (w.toNat / 2 ^ lo) % 2 ^ width

/-- One bit of a word. -/
def bitAt (w : Word) (i : Nat) : Bool := w.getLsbD i

/-- The word with bits [lo + width - 1 : lo] replaced by v, which is truncated to the width. -/
def putBits (w : Word) (lo width v : Nat) : Word :=
  (w &&& ~~~ (BitVec.ofNat 32 ((2 ^ width - 1) * 2 ^ lo))) ||| BitVec.ofNat 32 ((v % 2 ^ width) * 2 ^ lo)

/-- A word with v in bits [lo + width - 1 : lo] and zero elsewhere. -/
def fieldAt (lo width v : Nat) : Word := BitVec.ofNat 32 ((v % 2 ^ width) * 2 ^ lo)

/-- 1 for true, 0 for false. -/
def b2n (b : Bool) : Nat := if b then 1 else 0

/-- The low half of a 64-bit quantity (R7). -/
def loHalf (n : Nat) : Word := BitVec.ofNat 32 n

/-- The high half of a 64-bit quantity (R7). -/
def hiHalf (n : Nat) : Word := BitVec.ofNat 32 (n / 2 ^ 32)

/-- The four bytes of a word, least significant first (R16). -/
def bytesOfWord (w : Word) : List Byte :=
  [w.extractLsb' 0 8, w.extractLsb' 8 8, w.extractLsb' 16 8, w.extractLsb' 24 8]

/-- The bytes of a list of words in stored order (R16). -/
def bytesOfWords (ws : List Word) : List Byte := ws.flatMap bytesOfWord

/-- A word from four bytes, least significant first (R16). -/
def wordOfBytes (b0 b1 b2 b3 : Byte) : Word := b3 ++ b2 ++ b1 ++ b0

/-- Whole words from bytes; a tail shorter than a word is dropped. -/
def wordsOfBytes : List Byte → List Word
  | b0 :: b1 :: b2 :: b3 :: rest => wordOfBytes b0 b1 b2 b3 :: wordsOfBytes rest
  | _ => []

/-- The word at an index, 0 beyond the end. -/
def wordAt (ws : List Word) (i : Nat) : Word := ws.getD i 0

/-- The halfword at a halfword index, the even ones in the low half (R16). -/
def halfAt (ws : List Word) (i : Nat) : Nat := bitsOf (wordAt ws (i / 2)) (16 * (i % 2)) 16

/-- The byte at a byte index (R16). -/
def byteAt (ws : List Word) (i : Nat) : Nat := bitsOf (wordAt ws (i / 4)) (8 * (i % 4)) 8

/-- A 64-bit quantity from its two words, low half first (R7). -/
def pairAt (ws : List Word) (i : Nat) : Nat := (wordAt ws i).toNat + (wordAt ws (i + 1)).toNat * 2 ^ 32

/-- The 16 words of a digest, byte 0 in word 0 [7:0]. -/
def wordsOfDigest (d : Digest) : List Word := (List.range 16).map fun i => d.extractLsb' (32 * i) 32

/-- A digest from 16 words. -/
def digestOfWords (ws : List Word) : Digest :=
  BitVec.ofNat 512 ((List.range 16).foldl (fun acc i => acc + (wordAt ws i).toNat * 2 ^ (32 * i)) 0)

/-- The indices below n whose bit is set in a number. -/
def bitIndices (v n : Nat) : List Nat := (List.range n).filter fun i => v.testBit i

/-- How many of the low n bits are set. -/
def popCount (v n : Nat) : Nat := (bitIndices v n).length

/-- The number whose set bits are the given indices. -/
def maskOf (is : List Nat) : Nat := is.foldl (fun acc i => acc ||| (1 <<< i)) 0

/-- A signed field of a word: bits [lo + width - 1 : lo] in two's complement. -/
def signedField (w : Word) (lo width : Nat) : Int :=
  let v := bitsOf w lo width
  if v < 2 ^ (width - 1) then (v : Int) else (v : Int) - (2 ^ width : Nat)

/-- A signed quantity in two's complement of a width. -/
def toTwos (width : Nat) (i : Int) : Nat := (i % ((2 ^ width : Nat) : Int)).toNat

/-- Sum that holds at a maximum instead of wrapping (R15). -/
def satAdd (max a b : Nat) : Nat := if a + b ≤ max then a + b else max

/-- The list with the element at an index rewritten; the list itself beyond its end. -/
def modifyAt {α : Type} (f : α → α) : Nat → List α → List α
  | _, [] => []
  | 0, x :: xs => f x :: xs
  | n + 1, x :: xs => x :: modifyAt f n xs

/-- Association list: the value of the first entry with the key. -/
def lookupNat {α : Type} (k : Nat) : List (Nat × α) → Option α
  | [] => none
  | (k', v) :: rest => if k' = k then some v else lookupNat k rest

/-- Association list kept in ascending keys: the entry written or replaced. -/
def insertNat {α : Type} (k : Nat) (v : α) : List (Nat × α) → List (Nat × α)
  | [] => [(k, v)]
  | (k', v') :: rest =>
    if k < k' then (k, v) :: (k', v') :: rest
    else if k = k' then (k, v) :: rest
    else (k', v') :: insertNat k v rest

/-- Association list: every entry with the key removed. -/
def eraseNat {α : Type} (k : Nat) : List (Nat × α) → List (Nat × α)
  | [] => []
  | (k', v) :: rest => if k' = k then eraseNat k rest else (k', v) :: eraseNat k rest

end Sys2Proof
end

