-- ==== Sys2Proof/Syntax.lean ====
section
/-! DEFINITION. Syntax.lean: the commands the block takes, one constructor per row of spec/opcode_table.json, and the types of their
operands (packets by R53, Keeper messages by R137, agent registers by R439, host commands by R467). -/
namespace Sys2Proof

/-! ### Operand types shared by the commands -/

/-- What a port of the Keeper measures over a flash: its capacity in bytes over the time it was LIT, the time in units of 2^-8 ns in which a
packet waited with too few credits (R316), the symbols each lane carried, and per lane, 0 to 8, the symbols corrected and the uncorrectable
codewords (R108, R121). -/
structure PortMeas where
  port     : Nat
  capacity : Nat
  stall    : Nat
  symbols  : Nat
  cor      : List Nat
  uncor    : List Nat
deriving DecidableEq, Repr

/-- What the module's sensors and units show at a flash boundary: its ports, the sweep lanes' cycles spent building trees per pool (R327), the
16 junction sensors and the cold plate in degrees, VIN in units of 10 mV, the input current in mA, the mean power in W (R499, R509), and the
whole joules by which the energy count moved on. -/
structure FlashMeas where
  ports  : List PortMeas
  sweep  : List (Nat × Nat)
  temps  : List Nat
  plate  : Nat
  vin    : Nat
  iin    : Nat
  watts  : Nat
  joules : Nat
deriving DecidableEq, Repr

/-- The packet header of R53, field by field. -/
structure Hdr where
  dest   : Addr
  src    : Addr
  slice  : Byte
  vc     : BitVec 3
  svc    : BitVec 3
  gen    : BitVec 6
  wseq   : BitVec 12
  opkind : Byte
  len    : BitVec 6
  amode  : Bool
  rsv    : Bool
  optag  : BitVec 16
  tstx   : BitVec 16
  hcrc   : BitVec 16
deriving DecidableEq, Repr

/-- A packet: its header and its payload words (R53). -/
structure Packet where
  hdr     : Hdr
  payload : List Word
deriving DecidableEq, Repr

/-- A packet as a frame on the wire (R93, R113): the header, the payload as it is carried, the frame check, the tag of an encrypted port. -/
structure WireFrame where
  hdr     : Hdr
  payload : List Word
  check   : Word
  tag     : List Byte
deriving DecidableEq, Repr

/-- A KEEPER_MSG (R137, R138): words 0 to 31 field by field, then the words from 32 on. -/
structure KMsg where
  mtype    : Byte
  subject  : Bool
  full     : Bool
  litEpoch : Word
  epoch    : Word
  flash    : BitVec 48
  part     : BitVec 16
  parts    : BitVec 16
  count    : Word
  set      : SliceSet
  digest   : Digest
  words    : List Word
deriving DecidableEq, Repr

/-- A flash stage (R18): the blocks that work in batches. -/
inductive StageId where
  | cht | dsc | slv | wdn | clp | tim | tel | mor | rst
deriving DecidableEq, Repr

/-- What a Pilot core proposes (R31): slice placement, plan heuristics, a parking depth, an operator policy. -/
inductive PropBody where
  | placement (slice : Byte) (members : List Nat)
  | heuristics (ctx : BitVec 11) (q : Nat) (inFlight : Nat) (ring : List Nat)
  | park (slice : Byte) (depth : Nat)
  | policy (words : List Word)
deriving DecidableEq, Repr

/-- A proposal as it arrives: its core, the request it answers, whether a reserved field or encoding in it is non-zero (R30). -/
structure Proposal where
  stage    : StageId
  core     : BitVec 8
  request  : Nat
  reserved : Bool
  body     : PropBody
deriving DecidableEq, Repr

/-- A host command as the host writes it in a window (R467, R468): the window, the SEQ written, IRQ, and the words 1 to 31
of the command block. -/
structure HostCmd where
  win  : BitVec 4
  seq  : BitVec 16
  irq  : Bool
  args : List Word
deriving DecidableEq, Repr

/-- An event to be logged (R421, R424): its code, the party and the stamp, the slice and the engine of the subject word, the
body words from word 1 on. -/
structure LogEvt where
  code   : BitVec 10
  party  : Addr
  fa2    : Bool
  flash  : BitVec 48
  offset : BitVec 25
  slice  : Byte
  engine : Byte
  body   : List Word
deriving DecidableEq, Repr

/-- An agent's event (R445): its agent, CLASS, SEQ, PART and part count, stamp, SUBJECT_FLASH, ARG and the words of its body. -/
structure AgentEvent where
  agent  : Addr
  cls    : Nat
  seq    : Nat
  part   : Nat
  parts  : Nat
  flash  : BitVec 48
  offset : BitVec 25
  subject : Nat
  arg    : Word
  body   : List Word
deriving DecidableEq, Repr

/-- A verdict of the Sector Verifier (R141, R169, R177). -/
structure Verdict where
  invariant : BitVec 4
  slice     : Byte
  rack      : Nat
  switch    : Nat
  port      : Nat
  digest    : BitVec 512
deriving DecidableEq, Repr

/-- What the Warden core finds at a start (R33, R336): the firmware image, its length in bytes, whether its Strelward signature verifies, its
security version, the Pilot image, whether DBG0 is tied to GND. -/
structure WardenImage where
  size  : Nat
  bytes : List Byte
  pilot : List Byte
  svn   : Nat
  signed : Bool
  debug : Bool
deriving DecidableEq, Repr

/-- A load report (R313, R314): its agent, the flash of its stamp, the flash it concerns, and its sections as words in their order: a
switch's 134 entries of two words, 134 discard words, 134 link time records and five words a programme with lag; an endpoint's 16
entries, 16 link time records and two counter words. -/
structure LoadReport where
  agent : Addr
  stamp : BitVec 48
  flash : BitVec 48
  words : List Word
deriving DecidableEq, Repr

/-- What a row of SRAM holds that has no spare left in its macro (R415). -/
inductive RowUnit where
  | lampStore (n : Nat)
  | context (n : Nat)
  | tableLine (n : Nat)
  /-- no withdrawable unit, in an engine -/
  | engine (id : Nat)
  /-- a row of Warden SRAM -/
  | warden
deriving DecidableEq, Repr

/-- Where an item that failed its detection code lay (R409, R414, R415): a row of an SRAM macro, whether the macro has a spare left and what the
row belongs to; or a page of a pseudo-channel of a stack. -/
inductive DetLoc where
  | row (macro_ row : Nat) (spare : Bool) (unit : RowUnit)
  | page (stack channel page : Nat)
deriving DecidableEq, Repr

/-- The item that failed its detection code, by its source (R410). -/
inductive DetItem where
  | place (ctx launch piece : Nat)
  | lanternBuffer (ctx launch : Nat)
  | portBuffer (port index : Nat)
  | batch (stage : StageId)
  | agentTable (agent : Addr)
  | shadow (slot : Nat)
  | litChart
  | graph
  | image
  | warden
  | logRecord (seq : Nat) (header : Bool) (words : List Nat)
  | frame (coarse : Bool) (slot : Nat)
  | other
deriving DecidableEq, Repr

/-- The head of a management request at an agent (R441): the port it came on, its source, tag and GEN, its CLASS, whether it is addressed to the
rack broadcast, whether a reserved field of its prefix or its header is not 0. -/
structure MgmtHead where
  port      : Nat
  src       : Addr
  tag       : BitVec 12
  gen       : BitVec 6
  cls       : BitVec 4
  broadcast : Bool
  reserved  : Bool
deriving DecidableEq, Repr

/-- What a port of an agent shows at a flash boundary (R294, R314, R316, R440): its state and lanes, the found neighbour, the lane sets, the
errors counted in the flash, the capacity in bytes, the time in 2^-8 ns in which a packet waited for credits, the valid samples and their sum in 2^-8 ns,
whether the flash was clean. -/
structure AgPortMeas where
  port     : Nat
  st       : Nat
  lanes    : Nat
  found    : BitVec 32
  active   : Nat
  failed   : Nat
  parked   : Nat
  hcrc     : Nat
  fcs      : Nat
  capacity : Nat
  stall    : Nat
  samples  : Nat
  sum      : Nat
  clean    : Bool
deriving DecidableEq, Repr

/-- The commands (the rows of spec/opcode_table.json). -/
inductive Instr where
  /-- REGISTER_WRITE (R10): Host write to a BAR0 register that has no row of its own; each field changes according to its access code. -/
  | registerWrite (off : Nat) (bytes : Nat) (value : BitVec 64) (same : Bool)
  /-- LOW_HALF_READ (R8): A read of the low half of a 64-bit register (or of TIM_NOW_LO) latches the high half for the next access. -/
  | lowHalfRead (off : Nat) (bytes : Nat)
  /-- UNALIGNED_READ (R9): An unaligned read returns 0, has no effect on any latch, and is recorded in the error status. -/
  | unalignedRead (off : Nat) (bytes : Nat)
  /-- FLASH_BOUNDARY (R22): At each flash boundary the flash stages publish their closed batches and take their batch inputs. -/
  | flashBoundary (m : FlashMeas)
  /-- BATCH_CLOSE (R23): A flash stage finishes its batch work and holds the results in shadow outputs. -/
  | batchClose (stage : StageId) (failedLanes : List Nat)
  /-- PROPOSAL_ARRIVAL (R30): A Pilot core proposal arrives; the stage checks it and uses it, keeps it, or discards it. -/
  | proposalArrival (p : Proposal)
  /-- PROPOSAL_FALLBACK (R31): The proposal budget runs out with no proposal held, so the stage applies its built-in default and counts the fallback. -/
  | proposalFallback (request : Nat)
  /-- PILOT_CORE_STOP (R32): A Pilot core stops or is reset; the stages that need its decisions run on their defaults. -/
  | pilotCoreStop (core : BitVec 8)
  /-- WARDEN_START (R33): The Warden core starts from ROM, measures its firmware, the Pilot firmware and the chart, then releases the Pilot cores. -/
  | wardenStart (m : WardenImage)
  /-- HCRC_ERROR (R54): A received packet whose HCRC is wrong, or whose header is cut short, is discarded without returning credit and counted. -/
  | hcrcError (port : Nat) (header : List Word) (lanes : Nat)
  /-- FRAME_CHECK_ERROR (R93): A packet whose frame check fails is discarded, its credits are returned, and the error is counted against the port and its lanes. -/
  | frameCheckError (port : Nat) (f : WireFrame) (lanes : Nat)
  /-- EGRESS_PACKET_BOUNDARY (R59): At a packet boundary an egress port chooses its next packet by strict priority, token buckets and the weighted round. -/
  | egressPacketBoundary (party : Option Addr) (port : Nat)
  /-- WINDOW_ACK (R64): A WINDOW_ACK arrives and releases window space for its flow, or is discarded when it names no open flow. -/
  | windowAck (port : Nat) (p : Packet)
  /-- RESYNC_MARK (R95): A RESYNC_MARK link control block arrives; once earlier packets are taken in, the receiver replies RESYNC_GRANT. -/
  | resyncMark (party : Option Addr) (port : Nat)
  /-- RESYNC_GRANT (R95): A RESYNC_GRANT arrives; the sender sets its credit counts per VC to the granted values and resumes. -/
  | resyncGrant (party : Option Addr) (port : Nat) (units : List Nat)
  /-- MGMT_REPLY (R408): A MGMT_REPLY arrives at the Keeper and completes its management operation, or is dropped on a stale GEN. -/
  | mgmtReply (port : Nat) (p : Packet)
  /-- MGMT_RESEND (R395): A management request's resend interval expires; it is sent again, or fails after MGMT_SENDS sends. -/
  | mgmtResend (tag : BitVec 12)
  /-- LOAD_REPORT (R315): An agent's LOAD_REPORT event arrives and is kept for telemetry intake, or is discarded as late. -/
  | loadReport (port : Nat) (p : Packet)
  /-- PORT_CHANGE_EVENT (R99): An agent's PORT_CHANGE event arrives; the Keeper acknowledges it and reads again the records it names. -/
  | portChangeEvent (port : Nat) (p : Packet)
  /-- AGENT_RESET_EVENT (R277): An agent's RESET event arrives; the Keeper rewrites the agent, sets its slots to LOADED and requests the abort exchange. -/
  | agentResetEvent (port : Nat) (p : Packet)
  /-- GO_MISSING_EVENT (R144): An agent reports GO_MISSING and the Keeper sends it GO again. -/
  | goMissingEvent (port : Nat) (p : Packet)
  /-- FLOW_BROKEN_EVENT (R264): An agent reports a broken flow; the Keeper declares the plane lost or requests an abort. -/
  | flowBrokenEvent (port : Nat) (p : Packet)
  /-- PLACE_DISCARDED_EVENT (R273): A switch agent reports a discarded piece place; the Keeper requests a replay from the head. -/
  | placeDiscardedEvent (port : Nat) (p : Packet)
  /-- DRAIN_EMPTY_EVENT (R166): An agent reports an empty window for a draining slice, counting toward DRAIN_REPORT. -/
  | drainEmptyEvent (port : Nat) (p : Packet)
  /-- OVERFLOW_EVENT (R201): An agent reports bytes dropped; the Keeper adds them to the member's overflow count and logs EV_OVERFLOW_DROP. -/
  | overflowEvent (port : Nat) (p : Packet)
  /-- LOAD_CHART (R80): Host command: read an image by DMA into a slot's shadow and check it. -/
  | loadChart (c : HostCmd)
  /-- CHART_CHECK_DONE (R70): The check of a loaded image ends; the shadow becomes CHECKED or REFUSED with a reason. -/
  | chartCheckDone (slot : Nat)
  /-- STORE (R478): Host command: write the named chart slots, the pending key changes and the persistent settings to NVM. -/
  | store (c : HostCmd)
  /-- STORE_WRITE_DONE (R82): An NVM write of STORE completes; the header is written last, blocks are retired as needed, and the command completes. -/
  | storeWriteDone (failedBlocks : Nat)
  /-- BOOT_CHART_LIGHT (R83): After a chip reset the boot or fallback slot is checked and lit locally, or the Keeper stays in state NONE. -/
  | bootChartLight
  /-- LIGHT_CHART (R85): Host command: check and arm a slot to light cluster-wide, replacing an earlier arming. -/
  | lightChart (c : HostCmd)
  /-- CHART_LIGHT (R88): At the confirmed flash F the chart is lit; its period, parameters, pools, templates and rotation take effect. -/
  | chartLight
  /-- CHART_ANNOUNCE_WITHDRAWAL (R87): After eight postponements or 64 × LIGHT_LEAD flashes, the head floods WITHDRAW for the chart digest. -/
  | chartAnnounceWithdrawal
  /-- SERIAL_FLOOR_WRITE (R84): A host write to CHT_SERIAL_FLOOR is applied only if it does not lower the floor. -/
  | serialFloorWrite (value : Word)
  /-- ACTING_HEAD_ENTRY (R73): The deputy becomes acting head when HEAD_LOSS flashes pass in silence, or when the head is absent or its digest differs. -/
  | actingHeadEntry
  /-- HANDBACK_FLASH (R73): At the announced handback flash, head duty passes back to the head rack. -/
  | handbackFlash
  /-- HANDBACK (R387): A HANDBACK message arrives and names the flash at which head duty returns. -/
  | handback (port : Nat) (p : Packet)
  /-- HEAD_BEAT (R383): The deputy receives the head's per-flash HEAD_BEAT, which resets the HEAD_LOSS count. -/
  | headBeat (port : Nat) (p : Packet)
  /-- LASERS_READY (R97): The lasers reach operating power after a chart lights, and port training starts in order. -/
  | lasersReady
  /-- PORT_TRAIN_DONE (R96): Training of a port ends, and the port moves to SECURE, VERIFY, DARK or OFF by its lane count. -/
  | portTrainDone (port : Nat) (failed : Nat) (loopbackOk : Bool)
  /-- HELLO (R344): The partner's HELLO arrives in SECURE; its daymark is verified. -/
  | hello (port : Nat) (bytes : List Byte)
  /-- LINK_CONFIRM (R344): The partner's CONFIRM arrives; the Keeper verifies it, derives the link keys, and accepts the identity or quarantines the port. -/
  | linkConfirm (port : Nat) (bytes : List Byte)
  /-- BEACON (R103): A beacon arrives; a VERIFY port runs its beacon check, and a LIT port compares it with its found neighbour. -/
  | beacon (port : Nat) (p : Packet)
  /-- BEACON_SEND (R102): A port's beacon timer expires (every 1 µs in VERIFY, once per flash in LIT or HELD) and it sends a beacon. -/
  | beaconSend (port : Nat)
  /-- VERIFY_TIMEOUT (R96): No beacon check passes within 100 µs, so the port goes DARK and MISSING. -/
  | verifyTimeout (port : Nat)
  /-- BEACON_LOSS (R102): BEACON_LOSS flashes pass without a valid beacon, so the port goes DARK. -/
  | beaconLoss (port : Nat)
  /-- DARK_RETRY (R96): The RETRY_MS interval of a DARK port expires and it retrains. -/
  | darkRetry (port : Nat)
  /-- SPARE_POSITION_MOVE_DONE (R112): The fibre selector finishes moving a logical port to a spare position, and the port retrains there. -/
  | sparePositionMoveDone (port : Nat)
  /-- LANE_SIGNAL_LOSS (R108): A lane loses signal or lock and is held failed at once; a LANE_CHANGE is sent. -/
  | laneSignalLoss (port : Nat) (lane : Nat)
  /-- LANE_CHANGE (R109): A LANE_CHANGE block arrives; both ends compute the union lane map, apply it, resync, and spare, drop or go DARK. -/
  | laneChange (port : Nat) (failed : Nat)
  /-- LASER_FAULT (R111): A laser's output falls below its limit; the position moves to a spare laser and the port retrains at once. -/
  | laserFault (position : Nat)
  /-- REKEY_DUE (R114): The packet or flash limit for a key epoch approaches; the end sends REKEY and changes key. -/
  | rekeyDue (port : Nat)
  /-- REKEY (R114): A REKEY block arrives and the receiver uses the new key epoch from the next packet. -/
  | rekey (port : Nat) (epoch : Word)
  /-- PARK_ENTRY (R117): After PARK_IDLE idle flashes, or under a low load, a link or some of its lanes are parked at the allowed depth. -/
  | parkEntry (port : Nat) (lanes : Option Nat)
  /-- PARK (R118): A PARK block arrives and the far end enters the given depth. -/
  | park (port : Nat) (depth : Nat)
  /-- LINK_WAKE_REQUEST (R118): A packet waits at a parked link, so its end sends WAKE or powers its laser. -/
  | linkWakeRequest (port : Nat)
  /-- WAKE (R118): A WAKE block or detected light arrives and the far end starts to wake. -/
  | wake (port : Nat)
  /-- WAKE_COMPLETE (R96): A wake completes; the port returns to LIT, or goes DARK with fewer than 4 healthy lanes. -/
  | wakeComplete (port : Nat) (failed : Nat)
  /-- FABRIC_TEST_START (R119): A host write of DSC_TEST_CTRL.START begins a PRBS31 test of an eligible port. -/
  | fabricTestStart (value : Word)
  /-- FABRIC_TEST_END (R119): The FLASHES count ends, or the far Keeper is absent after 4 flashes; the result is posted and START clears. -/
  | fabricTestEnd (bits : Nat) (errors : List Nat)
  /-- CLEAR_QUAR (R121): A host write of DSC_CLEAR.CLEAR_QUAR sends the port and its position from QUARANTINED to TRAIN. -/
  | clearQuar (value : Word)
  /-- RACK_REPORT (R136): The head receives a RACK_REPORT and gathers its link changes into the next epoch; a dark link triggers LINK_NOTICE. -/
  | rackReport (port : Nat) (p : Packet)
  /-- EPOCH (R140): A Keeper takes an EPOCH together with its SLICE_TABLE at batch intake and starts solving. -/
  | epoch (port : Nat) (p : Packet)
  /-- EPOCH_REQ (R139): The head receives EPOCH_REQ for a missing epoch and sends it again. -/
  | epochReq (port : Nat) (p : Packet)
  /-- LINK_NOTICE (R147): A LINK_NOTICE arrives; each Keeper sets PLANE_VETO for the lit trees that cross the dark uplink. -/
  | linkNotice (port : Nat) (p : Packet)
  /-- SECTOR_VERDICT (R141): The Sector Verifier returns its verdict on a bank; a pass records the digest, and a refusal re-solves or reports NOT_READY. -/
  | sectorVerdict (v : Verdict)
  /-- BANK_LOAD_DONE (R135): Every agent's dark bank is written and its check value matches, or the agent is counted out; BANK_READY is sent. -/
  | bankLoadDone
  /-- BANK_READY (R142): The head receives BANK_READY; once it holds all of them, it announces at the next boundary. -/
  | bankReady (port : Nat) (p : Packet)
  /-- ANNOUNCE (R140): An ANNOUNCE for a bank or chart arrives; the Keeper arms its agents and replies READY or NOT_READY. -/
  | announce (port : Nat) (p : Packet)
  /-- READY (R142): The head receives READY; when every Keeper is ready by F − 2, it confirms at F − 1. -/
  | ready (port : Nat) (p : Packet)
  /-- NOT_READY (R142): The head receives NOT_READY and postpones F, or withdraws the epoch on reason 0x04. -/
  | notReady (port : Nat) (p : Packet)
  /-- READY_DEADLINE (R142): A READY is missing at the close point of F − 2, so the head postpones. -/
  | readyDeadline
  /-- POSTPONE (R140): A POSTPONE arrives and agents are re-armed for the new F. -/
  | postpone (port : Nat) (p : Packet)
  /-- CONFIRM (R144): A CONFIRM arrives; the Keeper sends GO to its rack as a rack broadcast. -/
  | confirm (port : Nat) (p : Packet)
  /-- GO_REPEAT (R144): 1 µs after the first GO, the Keeper sends GO a second time. -/
  | goRepeat
  /-- BANK_LIGHT (R140): At F, or the next boundary when late, the Keeper sets LIT_EPOCH, sends LIT_REPORT and logs EV_BANK_LIT. -/
  | bankLight
  /-- LIT_REPORT (R138): The head receives LIT_REPORT with F and the rack's lit bank digest. -/
  | litReport (port : Nat) (p : Packet)
  /-- WITHDRAW (R140): A WITHDRAW for an epoch or chart digest arrives; the Keeper disarms and discards the dark image or the arming. -/
  | withdraw (port : Nat) (p : Packet)
  /-- RACK_FENCE (R148): A rack silent for ABANDON_FLASHES makes the head withdraw the epoch and fence that rack. -/
  | rackFence (rack : Nat)
  /-- AGENT_PAUSE (R143): At the boundary of F − 1 an armed endpoint agent stops starting packets of the slices in D. -/
  | agentPause (agent : Addr)
  /-- AGENT_BANK_LIGHT (R448): At F an armed agent holding GO lights its dark bank, clears its vetoes and discards packets; without GO it holds. -/
  | agentBankLight (agent : Addr)
  /-- DRAIN_GUARD_END (R145): At F + DRAIN_GUARD_NS the switches stop discarding and the endpoints resume the slices in D. -/
  | drainGuardEnd (agent : Addr)
  /-- SLICE_CREATE (R165): Host command: fetch a slice descriptor and forward it to the head for admission. -/
  | sliceCreate (c : HostCmd)
  /-- SLICE_RESEAL (R165): Host command: re-lay a slice's members and claims through the head. -/
  | sliceReseal (c : HostCmd)
  /-- SLICE_DRAIN (R166): Host command: drain a LIVE slice through the head. -/
  | sliceDrain (c : HostCmd)
  /-- SLICE_DESTROY (R167): Host command: destroy a DRAINED slice through the head. -/
  | sliceDestroy (c : HostCmd)
  /-- SLICE_REQ (R162): The head receives SLICE_REQ and checks it in order, up to the admission solve. -/
  | sliceReq (port : Nat) (p : Packet)
  /-- ADMISSION_SOLVE_DONE (R162): The admission solve ends; the head admits the request into the next epoch or refuses it, and replies. -/
  | admissionSolveDone
  /-- SLICE_REPLY (R162): The issuing Keeper receives SLICE_REPLY with the reason and epoch. -/
  | sliceReply (port : Nat) (p : Packet)
  /-- SLICE_REQ_TIMEOUT (R162): 64 flashes pass without SLICE_REPLY, so the command completes with 0x11. -/
  | sliceReqTimeout
  /-- SLICE_TABLE (R168): A SLICE_TABLE of admitted descriptors arrives together with its epoch. -/
  | sliceTable (port : Nat) (p : Packet)
  /-- DRAIN_NOTICE (R166): A DRAIN_NOTICE arrives; the Keeper stops new collectives and pauses the member agents, or aborts on FORCE. -/
  | drainNotice (port : Nat) (p : Packet)
  /-- DRAIN_REPORT (R166): The head receives DRAIN_REPORT; once every rack has reported, it floods SLICE_DONE. -/
  | drainReport (port : Nat) (p : Packet)
  /-- SLICE_DONE (R166): SLICE_DONE arrives and the slice becomes DRAINED. -/
  | sliceDone (port : Nat) (p : Packet)
  /-- DRAIN_LIMIT_EXPIRY (R166): DRAIN_LIMIT flashes pass without DRAINED, so the head floods DRAIN_NOTICE with FORCE. -/
  | drainLimitExpiry
  /-- PLAN_COLLECTIVE (R183): Host command: fetch a plan descriptor and forward PLAN_REQ to the head. -/
  | planCollective (c : HostCmd)
  /-- PLAN_REQ (R186): The head queues PLAN_REQ in its domain and checks it when it is the domain's turn. -/
  | planReq (port : Nat) (p : Packet)
  /-- PLAN_ORDER (R187): A member Keeper takes a context, computes Q2 and Q1, reserves tentatively, and offers. -/
  | planOrder (port : Nat) (p : Packet)
  /-- PLAN_OFFER (R188): The head gathers offers and, with all of them held, sets q and IN_FLIGHT and commits or refuses. -/
  | planOffer (port : Nat) (p : Packet)
  /-- PLAN_COMMIT (R188): A member Keeper trims its reservation, installs slots, chains and programmes, and reports PLAN_READY. -/
  | planCommit (port : Nat) (p : Packet)
  /-- PLAN_READY (R186): The head gathers PLAN_READY and publishes PLAN_DONE with E. -/
  | planReady (port : Nat) (p : Packet)
  /-- PLAN_DONE (R189): PLAN_DONE arrives; member Keepers write ENABLE_FLASH, or release on a refusal. -/
  | planDone (port : Nat) (p : Packet)
  /-- PLAN_MEMBER_SILENT (R186): An offer or ready report is missing 32 flashes after it was asked for, so the head refuses with 0x11. -/
  | planMemberSilent
  /-- PLAN_REQ_TIMEOUT (R186): 64 flashes pass without PLAN_DONE, so the command completes with 0x0C. -/
  | planReqTimeout
  /-- RELEASE_LIMIT_EXPIRY (R210): A RELEASE whose launch is still in progress after RELEASE_LIMIT flashes is aborted. -/
  | releaseLimitExpiry
  /-- RS_CONTRIB (R199): An RS_CONTRIB reaches the Keeper root and is taken into its piece place under the contribution map. -/
  | rsContrib (port : Nat) (p : Packet)
  /-- RS_RESULT (R198): An RS_RESULT or release reaches the Keeper, returning a piece credit. -/
  | rsResult (port : Nat) (p : Packet)
  /-- AG_DATA (R192): AG_DATA reaches the Keeper and is forwarded along the gather path. -/
  | agData (port : Nat) (p : Packet)
  /-- BARRIER (R216): A BARRIER arrival is counted in the Keeper root's piece place. -/
  | barrier (port : Nat) (p : Packet)
  /-- LAMP_UNIT_DONE (R217): A lamp unit finishes; its residue checks are evaluated and it writes back its results. -/
  | lampUnitDone (lamp : Nat) (unit : Nat) (first : Option (Nat × Nat)) (second : Bool) (line : Option Bool)
  /-- SPILL_WRITE_DONE (R221): The spill path writes a packet to HBM and its credits are returned. -/
  | spillWriteDone
  /-- LMP_INJECT_ARM (R241): A host write of LMP_INJECT.ARM makes the named lane produce a residue mismatch in its next unit. -/
  | lmpInjectArm (value : Word)
  /-- LANTERN_CONTRIB (R249): A Lantern CONTRIB arrives; it is checked, bitmapped, and completes the rack partial when all members are in. -/
  | lanternContrib (port : Nat) (p : Packet) (fault : Option (Word × Bool))
  /-- LANTERN_PARTIAL (R250): A Lantern PARTIAL arrives; it is taken and relayed, and completes the result once every partial is held. -/
  | lanternPartial (port : Nat) (p : Packet) (fault : Option (Word × Bool))
  /-- LANTERN_NEED (R258): A NEED arrives; a member holding its rack partial floods it again, and the NEED is relayed. -/
  | lanternNeed (port : Nat) (p : Packet)
  /-- NEED_TIMER (R258): NEED_NS passes with the rack partial held and the launch incomplete, so the Keeper floods NEED. -/
  | needTimer (ctx : Nat)
  /-- COLLECTIVE_RETRANSMIT (R264): A collective packet is still unacknowledged after RETX_US; it is resent, or its flow is broken after RETX_MAX sends. -/
  | collectiveRetransmit (dest : Addr) (svc : Nat) (wseq : Nat)
  /-- RECOVER_REQ (R270): The head receives RECOVER_REQ, chooses substitutes, and sends RECOVER_CLEAR or runs the abort exchange. -/
  | recoverReq (port : Nat) (p : Packet)
  /-- RECOVER_CLEAR (R272): A member Keeper clears the named places and maps, writes the remap, and replies RECOVER_CLEARED. -/
  | recoverClear (port : Nat) (p : Packet)
  /-- RECOVER_CLEARED (R270): The head gathers replies; with all of them held it sends RECOVER_GO. -/
  | recoverCleared (port : Nat) (p : Packet)
  /-- RECOVER_GO (R272): Member Keepers start the replay of the named pieces at their agents. -/
  | recoverGo (port : Nat) (p : Packet)
  /-- RECOVERY_REPLY_TIMEOUT (R270): A member Keeper has not replied within 32 flashes, so the launches are aborted as UNREACHABLE. -/
  | recoveryReplyTimeout
  /-- ABORT_COLLECTIVE (R284): Host command: abort a plan through the head's abort exchange. -/
  | abortCollective (c : HostCmd)
  /-- ABORT_REQ (R284): The head receives ABORT_REQ and runs or merges the abort exchange. -/
  | abortReq (port : Nat) (p : Packet)
  /-- FREEZE (R281): A member Keeper freezes the plan at its agents and points, and replies FROZEN. -/
  | freeze (port : Nat) (p : Packet)
  /-- FROZEN (R282): The head gathers FROZEN replies and, with all of them held, decides NONE or ABORT and sends THAW. -/
  | frozen (port : Nat) (p : Packet)
  /-- THAW (R283): Member Keepers thaw the plan and, on ABORT, clear its state, set the new GEN and enable at E. -/
  | thaw (port : Nat) (p : Packet)
  /-- GEN_SPACING_ELAPSED (R279): The 4-flash spacing since the last GEN advance ends, so a waiting abort goes on. -/
  | genSpacingElapsed
  /-- STALL_DETECT (R276): No piece completes for STALL_LIMIT flashes, so the member Keeper reports STALL. -/
  | stallDetect
  /-- STRAGGLER_DETECT (R275): The same member is the straggler for STRAG_RUN flashes, so EV_STRAGGLER is logged. -/
  | stragglerDetect
  /-- TIME_EXCHANGE_REQUEST (R296): A TIME_EXCHANGE REQUEST arrives and is answered with a REPLY within 2 µs. -/
  | timeExchangeRequest (port : Nat) (p : Packet)
  /-- TIME_EXCHANGE_REPLY (R300): A TIME_EXCHANGE REPLY arrives and yields an offset estimate toward a parent. -/
  | timeExchangeReply (port : Nat) (p : Packet)
  /-- TIME_FILL (R295): 8 µs before the boundary, a direction short of samples is filled with TIME_EXCHANGE FILL packets. -/
  | timeFill (port : Nat) (samples : Nat)
  /-- TIME_ACQUISITION_STEP (R303): After 8 exchanges the Keeper steps forward to the source's time at its next boundary, or enters FLOOR. -/
  | timeAcquisitionStep
  /-- ACQUISITION_TIMEOUT (R303): 16 flashes pass without an exchange, so ACQUIRING returns to UNALIGNED. -/
  | acquisitionTimeout
  /-- COLD_START (R304): ACQ_FLASHES pass with no source, so the root-rack Keeper declares T0 and becomes ROOT. -/
  | coldStart
  /-- DEGRADED_ENTRY (R303): HOLDOVER lasts HOLDOVER_FLASHES, so DEGRADED is set. -/
  | degradedEntry
  /-- AGENT_HOLDOVER (R298): An agent has had no valid record for 16 flashes and is marked in holdover. -/
  | agentHoldover (agent : Addr)
  /-- FLOOR_CLEAR (R303): A host write of TIM_CTRL.FLOOR_CLEAR sets the floor to 0, logs it, and leaves FLOOR for ACQUIRING. -/
  | floorClear (value : Word)
  /-- WALL_APPLY (R310): A host write of TIM_WALL_CTRL.APPLY takes the new wall time, logs EV_TIMESTEP and opens a wall-table entry. -/
  | wallApply (value : Word)
  /-- SATURATION_WARN (R328): A gauge at or above WARN_PM for WARN_RUN flashes sets its warning bit and raises SAT. -/
  | saturationWarn
  /-- READ_LOADMAP (R322): Host command: copy selected load-map frames, filtered as asked, to host memory. -/
  | readLoadmap (c : HostCmd)
  /-- TEL_PEAK_CLEAR (R330): A host write of TEL_CTRL.PEAK_CLEAR sets every gauge PEAK to 0. -/
  | telPeakClear (value : Word)
  /-- ENROL_GO (R338): A host write of WDN_ENROL_CTRL.GO makes the Warden core fetch and verify an endorsement. -/
  | enrolGo (value : Word)
  /-- ENROL_VERIFY_DONE (R338): Verification ends; WDN_ENROL_STATUS shows pending or refused at the next boundary. -/
  | enrolVerifyDone
  /-- KEY_ROTATE (R343): A host write of WDN_ROTATE.GO starts a key rotation for a slice, or holds it pending. -/
  | keyRotate (value : Word)
  /-- ATTEST (R345): Host command: take report content at the next intake, sign it, and write it by DMA. -/
  | attest (c : HostCmd)
  /-- ISSUE_SEAL (R354): Host command: return the newest seal of a slice, or queue a renewal and return it. -/
  | issueSeal (c : HostCmd)
  /-- SIGNATURE_DONE (R351): The Warden core finishes signing a queued statement and takes the next by priority. -/
  | signatureDone
  /-- SEAL_RENEWAL (R351): Half a seal's life has passed, so a renewal request is queued. -/
  | sealRenewal
  /-- SEAL_PUBLISH (R353): At the boundary after signing, a seal is published (or discarded when stale) and broadcast to the rack. -/
  | sealPublish
  /-- SEAL_DIRECT_WRITE (R353): An agent still lacks the seal after DELIVER_MAX broadcasts, so it is logged and written directly. -/
  | sealDirectWrite
  /-- GRANT_ASSERT (R378): ARB_GNT_N asserts; a standby drives LIT_N, writes its active-Keeper port, logs EV_TAKEOVER and advances MGEN. -/
  | grantAssert (lineFree : Bool)
  /-- GRANT_WITHDRAW (R365): ARB_GNT_N deasserts; the LIT driver releases, active work stops, and the unit becomes a STALE standby. -/
  | grantWithdraw
  /-- TAKEOVER_ADOPT (R378): At G+1 the new active takes its committed or selective image and replays the agents' journals. -/
  | takeoverAdopt
  /-- SMBUS_IDENT (R367): SMBus IDENT block read returns serial, role, rack and fuse revision. -/
  | smbusIdent (pecOk : Bool)
  /-- SMBUS_HEALTH (R367): SMBus HEALTH block read returns fitness, LIT, image and time state. -/
  | smbusHealth (pecOk : Bool)
  /-- SMBUS_NOTE (R367): SMBus NOTE write logs an arbiter decision code as EV_ARB_NOTE. -/
  | smbusNote (code : Byte) (pecOk : Bool)
  /-- MOOR_DELTA (R372): The standby stages a MOOR_DELTA packet's items for its flash. -/
  | moorDelta (p : Packet)
  /-- MOOR_COMMIT (R372): The standby checks the staged delta against COMMIT and replies ACK, or NACK and marks itself STALE. -/
  | moorCommit (p : Packet) (image : Nat)
  /-- MOOR_ACK (R28): The active receives ACK for a flash; the completions of commands that waited on it are reported. -/
  | moorAck (p : Packet)
  /-- MOOR_NACK (R372): The active receives NACK, so the partner is STALE. -/
  | moorNack (p : Packet)
  /-- MOOR_STATUS (R374): The active receives the standby's per-flash STATUS, including its CHECKED slots. -/
  | moorStatus (p : Packet) (image : Nat)
  /-- COMMIT_ACK_TIMEOUT (R373): A commit is unacknowledged by the close point of F+3, so the partner is STALE and mirroring turns selective. -/
  | commitAckTimeout
  /-- COMMIT_LOSS (R374): COMMIT_LOSS flashes pass without ACK, STATUS or COMMIT, so the mooring link is marked down. -/
  | commitLoss
  /-- DELTA_APPLY (R372): The standby applies a committed delta and checks one region digest. -/
  | deltaApply
  /-- MIRROR_SELECT (R376): The partner receives a MIRROR_SELECT entry, applies it and acknowledges it. -/
  | mirrorSelect (port : Nat) (p : Packet)
  /-- MIRROR_SELECT_ACK (R376): The active receives a MIRROR_SELECT ACK and counts a flash as mirrored once all of it is acknowledged. -/
  | mirrorSelectAck (port : Nat) (p : Packet)
  /-- MIRROR_RESEND (R376): A MIRROR_SELECT is unacknowledged after 8 µs and is sent again by the next switch. -/
  | mirrorResend (tag : Nat)
  /-- HANDOVER (R380): A host write of MOR_CTRL.HANDOVER sets the HANDOVER unfit reason and starts a planned handover. -/
  | handover (value : Word)
  /-- FINAL_COMMIT_TIMEOUT (R380): The new active has waited one flash for the FINAL commit and goes on from its image. -/
  | finalCommitTimeout
  /-- RESYNC_REQ (R384): A host write of MOR_CTRL.RESYNC_REQ starts a resynchronisation of the standby. -/
  | resyncReq (value : Word)
  /-- STATE_QUERY (R150): A Keeper receives STATE_QUERY from the acting head and replies STATE_REPLY. -/
  | stateQuery (port : Nat) (p : Packet)
  /-- STATE_REPLY (R150): The acting head gathers states and re-announces unconfirmed epochs with a new F. -/
  | stateReply (port : Nat) (p : Packet)
  /-- GRAPH_REQ (R382): The head or deputy receives GRAPH_REQ and replies with the cluster graph in parts. -/
  | graphReq (port : Nat) (p : Packet)
  /-- GRAPH (R382): A STALE new active receives the graph and rebuilds its dark bank. -/
  | graph (port : Nat) (p : Packet)
  /-- SELFTEST_RESULT (R386): A standby self-test ends; a failed unit is retired and the SELFTEST unfit reason is set or cleared. -/
  | selftestResult (test : Nat) (units : List Nat)
  /-- ENGINE_HANG (R394): An engine has shown no progress with pending work for HANG_WINDOW boundaries, so a reset is decided by escalation. -/
  | engineHang (engine : Nat) (slice : Byte) (item : Word)
  /-- ENGINE_RESET_DONE (R392): A level-2 reset completes and the engine restarts with its returned inputs. -/
  | engineResetDone (engine : Nat)
  /-- CONTEXT_HANG (R395): A lamp or row unit has not written back within 2 µs, so the context is reset at level 1. -/
  | contextHang (kind : Nat) (ctx : Nat)
  /-- HOST_DMA_TIMEOUT (R395): A host DMA makes no progress for 100 µs, so the command completes with DMA REASON 4. -/
  | hostDmaTimeout (slot : Nat)
  /-- AON_WATCHDOG (R396): No heartbeat for 100 µs, so ARB_HEALTHY_N is deasserted and a level-5 reset follows. -/
  | aonWatchdog
  /-- ESCALATE_RESET (R405): Host command: reset at the given level and target on this unit. -/
  | escalateReset (c : HostCmd)
  /-- DEFERRED_RESET_START (R398): A deferred level 4 to 6 reset starts in the first flash in which a partner is present. -/
  | deferredResetStart
  /-- PART_RESET_START (R399): Once LIT_N is released, a level-4, 5 or 6 reset starts. -/
  | partResetStart
  /-- PART_RESET_END (R402): The on-die engines restart after a level-4 reset and the unit joins as standby. -/
  | partResetEnd
  /-- PART_FIT_TIMEOUT (R397): The unit is not fit within 1 s of a level-4 reset, so it escalates to level 5. -/
  | partFitTimeout
  /-- CHIP_RESET (R403): A level-5 reset: LOG copies to NVM, then everything outside the always-on domain restarts. -/
  | chipReset
  /-- CHIP_FIT_TIMEOUT (R397): The unit is not fit within CHIP_FIT, or a second level 5 occurs, so it escalates to level 6 or defers. -/
  | chipFitTimeout
  /-- SAMPLE_ROOM_TIMEOUT (R406): A sample waits 10 µs without staging room and is dropped whole. -/
  | sampleRoomTimeout
  /-- DETECTION_ERROR (R409): An item fails its detection code, is discarded and taken again from its source, and rows or channels may retire. -/
  | detectionError (item : DetItem) (loc : DetLoc)
  /-- PSEUDO_CHANNEL_COPY_DONE (R414): The copy of a retired HBM pseudo-channel to its spare completes. -/
  | pseudoChannelCopyDone (channel : Nat)
  /-- RST_TEST_STALL (R418): A host write of RST_TEST.STALL holds an engine's PROGRESS to inject a hang. -/
  | rstTestStall (value : Word)
  /-- LOG_EVENT (R421): LOG takes an event, stamps and flags it, and writes a record or counts a repeat. -/
  | logEvent (e : LogEvt)
  /-- PILOT_LOG_SUBMIT (R425): A Pilot core submits a record through its queue, and LOG fills in the header or discards it. -/
  | pilotLogSubmit (core : BitVec 8) (code : BitVec 10) (slice : Byte) (body : List Word)
  /-- LOG_RING_MOVE (R429): LOG moves a committed record from staging to the ring and adds its length to LOG_HEAD. -/
  | logRingMove
  /-- LOG_COPY_DONE (R431): An NVM log copy finishes with its header written last. -/
  | logCopyDone
  /-- BAR4_READ (R435): A host read through the BAR4 aperture returns the selected content, or 0xFFFF_FFFF for a failing line. -/
  | bar4Read (off : Nat) (bytes : Nat) (fails : Bool)
  /-- BAR4_WRITE (R433): A write to BAR4 is ignored and recorded as BAR4_WRITE. -/
  | bar4Write (off : Nat) (value : BitVec 64)
  /-- AGENT_MGMT_READ (R442): An agent receives MGMT_READ and replies with the words read or an error STATUS. -/
  | agentMgmtRead (agent : Addr) (h : MgmtHead) (addr : Nat) (count : Nat)
  /-- AGENT_MGMT_WRITE (R442): An agent receives MGMT_WRITE to a register with no row of its own, applies it whole and replies. -/
  | agentMgmtWrite (agent : Addr) (h : MgmtHead) (addr : Nat) (words : List Word)
  /-- AGENT_BROADCAST_WRITE (R444): An agent takes a rack-broadcast MGMT_WRITE to an allowed address without replying. -/
  | agentBroadcastWrite (agent : Addr) (h : MgmtHead) (addr : Nat) (words : List Word)
  /-- AGENT_EVENT_RESEND (R446): An unacknowledged event is resent every 8 µs and dropped after 16 sends. -/
  | agentEventResend (agent : Addr) (seq : Nat)
  /-- AGENT_ARM (R448): A write of FA_ARM_CTRL.ARM arms the dark bank for FA_ARM_F and D, or is refused. -/
  | agentArm (agent : Addr) (h : MgmtHead) (value : Word)
  /-- AGENT_DISARM (R448): A write of FA_ARM_CTRL.DISARM disarms the bank and ends any pause of D. -/
  | agentDisarm (agent : Addr) (h : MgmtHead) (value : Word)
  /-- AGENT_SET_LIT (R448): In INIT, a write of FA_ARM_CTRL.SET_LIT makes the named bank lit at once. -/
  | agentSetLit (agent : Addr) (h : MgmtHead) (bank : Nat)
  /-- AGENT_GO (R448): A write of FA_GO holds GO for F, or lights at once when F has passed. -/
  | agentGo (agent : Addr) (h : MgmtHead) (value : Word)
  /-- AGENT_FREEZE (R452): A write of FA_FREEZE.FREEZE stops a slot or programme and replies COMPLETE, IDLE or PENDING. -/
  | agentFreeze (agent : Addr) (h : MgmtHead) (index : Nat)
  /-- AGENT_THAW (R452): A write of FA_FREEZE.THAW ends the freeze. -/
  | agentThaw (agent : Addr) (h : MgmtHead) (index : Nat)
  /-- AGENT_CHECK_VALUE (R449): A write of FA_CHECK_CTRL.GO starts computing the CRC-64 check value of a structure. -/
  | agentCheckValue (agent : Addr) (h : MgmtHead) (value : Word)
  /-- AGENT_CHECK_VALUE_DONE (R449): The check value stands in FA_CHECK and GO clears. -/
  | agentCheckValueDone (agent : Addr)
  /-- AGENT_SEAL_COMMIT (R459): A write of FA_SEAL_COMMIT starts verifying the staged seal, ending any earlier verification. -/
  | agentSealCommit (agent : Addr) (h : MgmtHead) (len : Nat)
  /-- AGENT_SEAL_VERIFY_DONE (R356): Seal verification ends; the seal is held or refused, and weight keys are released or withdrawn. -/
  | agentSealVerifyDone (agent : Addr) (envelopes : List (List Byte))
  /-- AGENT_SEAL_EXPIRY (R357): The held seal reaches EXPIRY_FLASH, so released keys are withdrawn within 10 µs. -/
  | agentSealExpiry (agent : Addr)
  /-- AGENT_GRACE_END (R358): SUPERSEDE_FLASHES after F, a superseded seal ceases to be usable. -/
  | agentGraceEnd (agent : Addr)
  /-- AGENT_TRIM (R456): A write of FA_TRIM adds to the phase the agent slews over the next flash. -/
  | agentTrim (agent : Addr) (h : MgmtHead) (value : Word)
  /-- AGENT_RATE (R456): A write of FA_RATE sets the rate from the next boundary. -/
  | agentRate (agent : Addr) (h : MgmtHead) (value : Word)
  /-- AGENT_STEP (R456): A write of FA_STEP_OFF steps the agent's count forward at its next boundary, or is refused. -/
  | agentStep (agent : Addr) (h : MgmtHead) (value : Word)
  /-- AGENT_PERIOD_CHANGE (R457): At the flash FA_PERIOD_F, the agent takes NEXT_US as its period. -/
  | agentPeriodChange (agent : Addr)
  /-- AGENT_SERVE (R460): A write of FA_STATE.SERVE puts the agent into SERVE or back to INIT. -/
  | agentServe (agent : Addr) (h : MgmtHead) (value : Word)
  /-- AGENT_RESET (R460): An agent resets into INIT with zeroed structures, and sends RESET once a link is LIT. -/
  | agentReset (agent : Addr) (cause : Nat)
  /-- AGENT_LAUNCH (R205): A fused instruction names a slot; the agent starts or queues a launch, or writes NOT_LIVE. -/
  | agentLaunch (agent : Addr) (slot : Nat)
  /-- AGENT_TILE_DONE (R206): A tile completes and the agent fires the chain entries now due. -/
  | agentTileDone (agent : Addr) (slot : Nat)
  /-- AGENT_LANTERN_DEADLINE (R257): 4 µs pass without a RESULT; the agent retries on the next plane or times out after RETRY_LIMIT. -/
  | agentLanternDeadline (agent : Addr) (slot : Nat)
  /-- SET_WAKE_LATENCY (R480): Host command: state a slice's wake latency for parking decisions. -/
  | setWakeLatency (c : HostCmd)
  /-- AGENT_READ (R481): Host command: read words from an agent by MGMT_READ into host memory. -/
  | agentRead (c : HostCmd)
  /-- AGENT_WRITE (R482): Host command: write FA_CHECK_CTRL or a port record's HOLD at an agent of the rack. -/
  | agentWrite (c : HostCmd)
  /-- RESERVED_OPCODE (R471): A committed command with a reserved opcode completes with BAD_OPCODE. -/
  | reservedOpcode (opcode : Byte) (c : HostCmd)
  /-- MSIX_SPACING_EXPIRY (R473): The 1 µs spacing of a vector ends and a message due meanwhile is sent if the vector is still asserted. -/
  | msixSpacingExpiry (vector : Nat)
  /-- FUNCTION_LEVEL_RESET (R466): An FLR resets HIF at level 2, idles every window and clears MSI-X. -/
  | functionLevelReset
  /-- PERST_ASSERT (R496): PERST_N holds the PCIe interface in reset, with no fabric effect. -/
  | perstAssert
  /-- D3HOT_ENTRY (R465): The function enters D3hot; the fabric continues and MSI-X messages are held. -/
  | d3hotEntry
  /-- D0_RETURN (R465): The function returns to D0 and the MSI-X messages owed are sent. -/
  | d0Return
  /-- MOD_RESET (R497): MOD_RESET_N asserts; LIT is released at once and a level-5 reset follows the log copy. -/
  | modReset
  /-- POWER_UP (R493): VIN stands at 54 V for 1 ms and the rails come up in sequence, with the straps latched. -/
  | powerUp (role x y : Nat) (fail : Option Nat)
  /-- RAIL_FAIL_RETRY (R493): 100 ms after a rail failed to reach tolerance, the power stage retries once. -/
  | railFailRetry (fail : Option Nat)
  /-- VIN_DIP (R491): VIN dips between 48 V and 54 V; VIN_LOW is raised and ride-through begins. -/
  | vinDip
  /-- VIN_LOSS (R491): VIN falls below 48 V, so every rail drops within 50 µs and LIT is released. -/
  | vinLoss
  /-- SHUTDOWN_LIMIT (R501): 105 °C, PWR_WARN_N or a dip over 10 ms sets POWER unfit, releases LIT, copies the log and powers down. -/
  | shutdownLimit (cause : Nat)
  /-- SHUTDOWN_RELEASE_TIMEOUT (R501): 10 ms pass without the LIT driver releasing, so the Keeper releases it itself. -/
  | shutdownReleaseTimeout
  /-- THERMAL_TRIP (R502): A sensor reaches 112 °C; every non-AON rail drops at once and TRIPPED is held. -/
  | thermalTrip
  /-- THROTTLE_STEP (R500): The throttle condition held for 10 ms, or clear for 100 ms, so the throttle level rises or falls by 1. -/
  | throttleStep
  /-- FREF_LOSS (R507): FREF is lost; the clocks move to the internal oscillator and REF_LOST is raised. -/
  | frefLoss
  /-- FREF_RESTORE (R507): FREF has been valid for 10 ms; the clocks move back and REF_BACK is raised. -/
  | frefRestore
  /-- PWR_PEAK_CLEAR (R509): A host write of PWR_CTRL.PEAK_CLEAR sets PEAK to 0. -/
  | pwrPeakClear (value : Word)
  /-- HOST_DMA_COMPLETION (R475): A PCIe completion for a Keeper DMA read arrives; data advances the transfer, and an unsuccessful status ends the command with DMA REASON 1 to 3. -/
  | hostDmaCompletion (slot : Nat) (status : Nat) (words : List Word)
  /-- PCIE_LINK_TRAINED (R463): The PCIe link finishes training or retraining at some rate and width, updating HIF_LINK, SLOW and the LINK interrupt. -/
  | pcieLinkTrained (rate : Nat) (width : Nat)
  /-- MOD_RESET_DEASSERT (R497): MOD_RESET_N deasserts, from which (or from the reset start, whichever is later) recovery of the level-5 reset runs. -/
  | modResetDeassert
  /-- COMMAND_WINDOW_WRITE (R468): A host write to a window's WIN_SEQ or command block that does not commit: equal SEQ has no effect, and writes while BUSY are ignored and recorded as WINDOW_BUSY or CMD_LOCKED. -/
  | commandWindowWrite (off : Nat) (bytes : Nat) (value : BitVec 64)
  /-- KEY_AGREEMENT_TIMEOUT (R96): Key agreement in SECURE does not finish within 2 ms, so the port goes back to TRAIN or, on a second failure in a row, to QUARANTINED. -/
  | keyAgreementTimeout (port : Nat)
  /-- TEST_HOLD_REQUEST (R119): A far Keeper receives over the overlay the request to hold its end of ports 16 to 19 in test. -/
  | testHoldRequest (port : Nat) (hold : Bool)
  /-- TEST_HOLD_AGREE (R119): The testing Keeper receives the far Keeper's agreement and the PRBS31 test of the port proceeds. -/
  | testHoldAgree (port : Nat) (agrees : Bool)
  /-- RESERVED_OPKIND_PACKET (R55): A packet with a reserved OPKIND, or a kind not allowed on its port, VC or AMODE (such as a mooring kind off port 20), arrives and is discarded, counted and logged. -/
  | reservedOpkindPacket (port : Nat) (p : Packet)
  /-- LINK_CONTROL_BLOCK_INVALID (R94): A link control block with a reserved TYPE or a non-zero reserved bit arrives; it is ignored and counted as a link error. -/
  | linkControlBlockInvalid (port : Nat) (block : BitVec 128)
  /-- CREDIT_RETURN (R62): Credits for a VC come back from the receiver, and a packet waiting for credits may start. -/
  | creditReturn (party : Option Addr) (port : Nat) (vc : Nat) (units : Nat)
  /-- TOKEN_BUCKET_REFILL (R60): A VC0 or VC1 token bucket refills to hold a waiting packet, which becomes eligible. -/
  | tokenBucketRefill (party : Option Addr) (port : Nat) (vc : Nat)
  /-- AGENT_EVENT_ACK (R446): An agent receives a MGMT_REPLY of KIND ACK for an event and stops resending it. -/
  | agentEventAck (agent : Addr) (port : Nat) (seq : Nat)
  /-- AGENT_FLASH_BOUNDARY (R313): At each flash boundary an agent forms its link time records and sends its load report for the flash just ended within 2 µs. -/
  | agentFlashBoundary (agent : Addr) (ports : List AgPortMeas)
  /-- SWITCH_PACKET_INGRESS (R160): A packet arrives at a switch agent port and is checked at ingress, then forwarded by coordinate or EN tables, intercepted by a reduction programme, or discarded and counted. -/
  | switchPacketIngress (agent : Addr) (port : Nat) (p : Packet) (fault : Nat)
  /-- ENDPOINT_PACKET_ARRIVAL (R458): A packet arrives at an endpoint agent; it is slice-checked and taken as window data or acknowledgement, result, release or Lantern RESULT, and may complete a launch. -/
  | endpointPacketArrival (agent : Addr) (port : Nat) (p : Packet)
  /-- SEAL_LOW (R351): A seal reaches a quarter of its life left, so SEAL_LOW is raised and its renewal moves ahead in the signing queue. -/
  | sealLow
  /-- PILOT_FIRMWARE_REPLACE (R35): The host replaces the Pilot firmware, and the Pilot cores restart and are measured again so that PILOT_FW changes. -/
  | pilotFirmwareReplace (image : List Byte)
  /-- FILL_PACKET_RECEIVED (R296): A TIME_EXCHANGE FILL packet arrives and yields only a hop-delay sample from its TSTX. -/
  | fillPacketReceived (port : Nat) (p : Packet)
  /-- LOG_COPY_CUT_SHORT (R431): An NVM log copy is still running after 20 ms; the always-on domain proceeds and the area is left invalid. -/
  | logCopyCutShort
  /-- AUTO_SPARE (R412): The host sets LMP_CTRL.AUTO_SPARE or RST_CTRL.AUTO_SPARE, which brings in the spares withheld for already retired units. -/
  | autoSpare (rst : Bool) (value : Word)
  /-- CONTEXT_RESET_DONE (R390): A level-1 reset of a context ends about 20 µs after it began, the context serves again, and RESET_DONE is raised. -/
  | contextResetDone (kind : Nat) (ctx : Nat)
deriving DecidableEq, Repr

end Sys2Proof
end

