-- ==== Sys2Proof/Config.lean ====
section
/-! DEFINITION. Config.lean: what an implementation fixes and what the spec names without defining. Every constant here is
opaque or built from an opaque one: nothing can evaluate it, so a statement about it holds whatever it is. -/
namespace Sys2Proof.Config

/-- Byte i of the SHAKE256 output over bytes in stored order (R69, R331); the function itself is not written out in the spec. -/
opaque shakeByte : List Byte → Nat → Byte

/-- The first n bytes of the SHAKE256 output (R69, R339, R341, R344). -/
def shake (n : Nat) (bs : List Byte) : List Byte := (List.range n).map (shakeByte bs)

/-- SHAKE256 with a 64-byte output, byte 0 in bits [7:0] (R69). -/
def shake256 (bs : List Byte) : Digest :=
  BitVec.ofNat 512 ((List.range 64).foldl (fun acc i => acc + (shakeByte bs i).toNat * 2 ^ (8 * i)) 0)

/-- The first 8 bytes of SHAKE256 over a public key's bytes: KEY_ID, MFG_KEY_ID (R335, R337), byte 0 in bits [7:0]. -/
def keyId (key : List Byte) : BitVec 64 := (shake256 key).extractLsb' 0 64

/-- Whether an Ed448 signature verifies: public key, context, signed bytes, signature (R331, R332). -/
opaque ed448Verify : List Byte → String → List Byte → List Byte → Bool

/-- Byte i of the Ed448 signature the identity key makes under a context over some bytes (R331, R332, R334). -/
opaque ed448Sign : String → List Byte → Nat → Byte

/-- Byte i of the X448 public key of a scalar (R331, R341). -/
opaque x448Public : List Byte → Nat → Byte

/-- Byte i of the X448 shared secret of a scalar and a public key (R344). -/
opaque x448Shared : List Byte → List Byte → Nat → Byte

/-- Byte i of the identity public key (R334). -/
opaque idKeyByte : Nat → Byte

/-- Byte i of manufacturing public key k, 0 to 3, in the Warden ROM (R335). -/
opaque mfgKeyByte : Nat → Nat → Byte

/-- The manufacturing key, 0 to 3, that signed this part's daymark, and byte i of its signature (R335). -/
opaque daymarkMfg : Fin 4
/-- Byte i of the daymark's signature. -/
opaque daymarkSig : Nat → Byte

/-- Byte i of the memory root key (R341). -/
opaque memRoot : Nat → Byte
/-- Byte i of the link root key (R341). -/
opaque linkRoot : Nat → Byte

/-- The Strelward firmware public key, byte i (R332). -/
opaque firmwareKeyByte : Nat → Byte

/-- FA_ID, FA_CAPS0 and FA_CAPS1 of the agent at a coordinate address, as its chip declares them (R438, R440, log entry 4). -/
opaque agentId : Addr → Word
/-- FA_CAPS0. -/
opaque agentCaps0 : Addr → Word
/-- FA_CAPS1. -/
opaque agentCaps1 : Addr → Word

/-- A word of an endpoint chip's own memory, as a launch of a slot reads it: agent, slot, launch, byte address (R183, R201, R268). -/
opaque chipWord : Addr → Nat → Nat → Nat → Word

/-- Whether a weight envelope opens under the key an endpoint chip holds: the AEAD check of R355. -/
opaque envelopeOpens : Addr → List Byte → Bool

/-- The start value of the frame check, which R93 does not give. -/
opaque fcsInit : Word
/-- The value the frame check's remainder is combined with at the end, which R93 does not give. -/
opaque fcsXor : Word
/-- Whether the frame check takes each byte least significant bit first and reflects its remainder, which R93 does not say. -/
opaque fcsReflected : Bool

/-- A byte of the AES-256-GCM ciphertext under a key, a direction bit and a packet counter, of a payload with its additional data (R113). -/
opaque gcmByte : List Byte → Nat → Nat → List Byte → List Byte → Nat → Byte
/-- A byte of the AES-256-GCM tag under a key, a direction bit and a packet counter, of a ciphertext with its additional data (R113). -/
opaque gcmTagByte : List Byte → Nat → Nat → List Byte → List Byte → Nat → Byte

/-- AES-256-XTS of a 4 KiB page, byte 0 in bits [7:0], under a key and the page's number as the tweak; its inverse decrypts (R342). -/
opaque xtsPage : List Byte → Nat → Equiv.Perm (BitVec 32768)

/-- The detection code of a 64-byte line (R222), which the spec does not write out. -/
opaque lineCode : BitVec 512 → Nat

/-- The slice that the image page of a region and an offset belongs to, 0 to 255 (R342, R369): the spec does not say where a block's state lies. -/
opaque imageSlice : Nat → Nat → Nat

/-- A fresh free value: the n-th value the spec leaves open. -/
opaque freeWord : Nat → Word

/-- Whether the proposal queue of a Pilot core serves a slice: the spec says that cores serve slices (R30, R35) and not which (log entry 58). -/
opaque coreServes : Nat → Nat → Bool

/-- The part's serial number, fused (R335). -/
opaque serial : BitVec 64

/-- The fuse word: FUSE_REV, DIE_REV, SVN_MIN (R361). -/
opaque fuses : Word

/-- Whether the part's debug fuse is blown (R336). -/
opaque debugFused : Bool

end Sys2Proof.Config
end

