-- ==== Sys2Proof/Machine/RegMap.lean ====
section
/-! DEFINITION. Machine/RegMap.lean: the registers of BAR0 (20_register_map.md and the register tables of each chapter): offsets,
reset values, the bits of each access code (R10), the ranges that are not reserved encodings (R14), and the fields. -/
namespace Sys2Proof.Machine

/-- One field of a BAR0 register: the BAR0 offset of its register, its lowest bit, its width. -/
structure Fld where
  off : Nat
  lo : Nat
  width : Nat
deriving DecidableEq, Repr

/-- The values of a writable field that are not reserved encodings (R14): min to max. -/
structure Lim where
  lo : Nat
  width : Nat
  min : Nat
  max : Nat
deriving DecidableEq, Repr

/-- One row of the register index (R511): a run of registers, their reset value, the bits the host may write by access code. -/
structure RegRow where
  off : Nat
  count : Nat
  stride : Nat
  reset : Word
  rw : Word
  w1c : Word
  w1s : Word
  wo : Word
  lims : List Lim
deriving DecidableEq, Repr

namespace Reg
/-- R484. -/ abbrev HIF_CAPS : Nat := 0x000000
/-- R484. -/ abbrev HIF_CTRL : Nat := 0x000004
/-- R484. -/ abbrev HIF_INT_STATUS : Nat := 0x000008
/-- R484. -/ abbrev HIF_INT_ENABLE : Nat := 0x00000C
/-- R484. -/ abbrev HIF_LINK : Nat := 0x000010
/-- R484. -/ abbrev HIF_ERR_STATUS : Nat := 0x000014
/-- R484. -/ abbrev HIF_ERR_WHERE : Nat := 0x000018
/-- R484. -/ abbrev HIF_ERR_COUNT : Nat := 0x00001C
/-- R484. -/ abbrev HIF_WIN_STATE : Nat := 0x000020
/-- R484. -/ abbrev HIF_COMMANDS : Nat := 0x000024
/-- R484. -/ abbrev HIF_DMA_ERR : Nat := 0x000028
/-- R90. -/ abbrev CHT_CAPS : Nat := 0x010000
/-- R90. -/ abbrev CHT_STATE : Nat := 0x010004
/-- R90. -/ abbrev CHT_INT_STATUS : Nat := 0x010008
/-- R90. -/ abbrev CHT_INT_ENABLE : Nat := 0x01000C
/-- R90; 4 registers. -/ abbrev CHT_SLOT_STATUS (n : Nat) : Nat := 0x010010 + 4 * n
/-- R90. -/ abbrev CHT_BOOT : Nat := 0x010020
/-- R90. -/ abbrev CHT_SERIAL_FLOOR : Nat := 0x010024
/-- R90. -/ abbrev CHT_LIT_SERIAL : Nat := 0x010028
/-- R90. -/ abbrev CHT_REFUSE_OFFSET : Nat := 0x01002C
/-- R90. -/ abbrev CHT_LIT_FLASH_LO : Nat := 0x010030
/-- R90. -/ abbrev CHT_LIT_FLASH_HI : Nat := 0x010034
/-- R90. -/ abbrev CHT_ARM_FLASH_LO : Nat := 0x010038
/-- R90. -/ abbrev CHT_ARM_FLASH_HI : Nat := 0x01003C
/-- R90. -/ abbrev CHT_INSTALL : Nat := 0x010040
/-- R90. -/ abbrev CHT_REFUSE_COUNT : Nat := 0x010044
/-- R90; 16 registers. -/ abbrev CHT_LIT_DIGEST (n : Nat) : Nat := 0x010080 + 4 * n
/-- R90; 16 registers. -/ abbrev CHT_ARM_DIGEST (n : Nat) : Nat := 0x0100C0 + 4 * n
/-- R120. -/ abbrev DSC_CAPS : Nat := 0x020000
/-- R120. -/ abbrev DSC_CTRL : Nat := 0x020004
/-- R120. -/ abbrev DSC_INT_STATUS : Nat := 0x020008
/-- R120. -/ abbrev DSC_INT_ENABLE : Nat := 0x02000C
/-- R120. -/ abbrev DSC_HEALTH : Nat := 0x020010
/-- R120. -/ abbrev DSC_TIMING : Nat := 0x020014
/-- R120. -/ abbrev DSC_PARK : Nat := 0x020018
/-- R120. -/ abbrev DSC_TEST_CTRL : Nat := 0x02001C
/-- R120. -/ abbrev DSC_TEST_STATUS : Nat := 0x020020
/-- R120. -/ abbrev DSC_CLEAR : Nat := 0x020024
/-- R120. -/ abbrev DSC_RACK_SUMMARY : Nat := 0x020028
/-- R120. -/ abbrev DSC_RESERVE : Nat := 0x02002C
/-- R120. -/ abbrev DSC_LIVE_EPOCH : Nat := 0x020030
/-- R120; 21 registers. -/ abbrev DSC_PORT_STATUS (n : Nat) : Nat := 0x020100 + 32 * n
/-- R120; 21 registers. -/ abbrev DSC_PORT_NEIGHBOUR (n : Nat) : Nat := 0x020104 + 32 * n
/-- R120; 21 registers. -/ abbrev DSC_PORT_LANEMAP (n : Nat) : Nat := 0x020108 + 32 * n
/-- R120; 21 registers. -/ abbrev DSC_PORT_HCRC_ERR (n : Nat) : Nat := 0x02010C + 32 * n
/-- R120; 21 registers. -/ abbrev DSC_PORT_FCS_ERR (n : Nat) : Nat := 0x020110 + 32 * n
/-- R120; 21 registers. -/ abbrev DSC_PORT_FEC_CORR (n : Nat) : Nat := 0x020114 + 32 * n
/-- R120; 21 registers. -/ abbrev DSC_PORT_AUTH_ERR (n : Nat) : Nat := 0x020118 + 32 * n
/-- R120; 21 registers. -/ abbrev DSC_PORT_RETRAINS (n : Nat) : Nat := 0x02011C + 32 * n
/-- R120; 24 registers. -/ abbrev DSC_POS_STATUS (n : Nat) : Nat := 0x020400 + 4 * n
/-- R151. -/ abbrev SLV_CAPS : Nat := 0x040000
/-- R151. -/ abbrev SLV_CTRL : Nat := 0x040004
/-- R151. -/ abbrev SLV_INT_STATUS : Nat := 0x040008
/-- R151. -/ abbrev SLV_INT_ENABLE : Nat := 0x04000C
/-- R151. -/ abbrev SLV_STATE : Nat := 0x040010
/-- R151. -/ abbrev SLV_PARAMS : Nat := 0x040014
/-- R151. -/ abbrev SLV_LIT_EPOCH : Nat := 0x040018
/-- R151. -/ abbrev SLV_WORK_EPOCH : Nat := 0x04001C
/-- R151. -/ abbrev SLV_LIGHT_FLASH_LO : Nat := 0x040020
/-- R151. -/ abbrev SLV_LIGHT_FLASH_HI : Nat := 0x040024
/-- R151. -/ abbrev SLV_LIT_FLASH_LO : Nat := 0x040028
/-- R151. -/ abbrev SLV_LIT_FLASH_HI : Nat := 0x04002C
/-- R151. -/ abbrev SLV_TREES_TOTAL : Nat := 0x040030
/-- R151. -/ abbrev SLV_TREES_DONE : Nat := 0x040034
/-- R151. -/ abbrev SLV_LANES : Nat := 0x040038
/-- R151. -/ abbrev SLV_SOLVES : Nat := 0x04003C
/-- R151. -/ abbrev SLV_UNREACH : Nat := 0x040040
/-- R151. -/ abbrev SLV_DRAIN_DISCARD : Nat := 0x040044
/-- R151. -/ abbrev SLV_POSTPONES : Nat := 0x040048
/-- R151. -/ abbrev SLV_REFUSALS : Nat := 0x04004C
/-- R151. -/ abbrev SLV_VETOES : Nat := 0x040050
/-- R151. -/ abbrev SLV_LOAD_MAX : Nat := 0x040054
/-- R151. -/ abbrev SLV_BACKLOG : Nat := 0x040058
/-- R151; 16 registers. -/ abbrev SLV_LIT_DIGEST (n : Nat) : Nat := 0x040080 + 4 * n
/-- R151; 16 registers. -/ abbrev SLV_WORK_DIGEST (n : Nat) : Nat := 0x0400C0 + 4 * n
/-- R151; 8 registers. -/ abbrev SLV_DRAIN_SET (n : Nat) : Nat := 0x040100 + 4 * n
/-- R151. -/ abbrev SLV_HEAD_STATE : Nat := 0x040200
/-- R151. -/ abbrev SLV_HEAD_EPOCH : Nat := 0x040204
/-- R151. -/ abbrev SLV_HEAD_WAIT_LO : Nat := 0x040208
/-- R151. -/ abbrev SLV_HEAD_WAIT_HI : Nat := 0x04020C
/-- R176. -/ abbrev WDN_CAPS : Nat := 0x060000
/-- R176. -/ abbrev WDN_CTRL : Nat := 0x060004
/-- R176. -/ abbrev WDN_INT_STATUS : Nat := 0x060008
/-- R176. -/ abbrev WDN_INT_ENABLE : Nat := 0x06000C
/-- R176. -/ abbrev WDN_VERDICT : Nat := 0x060010
/-- R176. -/ abbrev WDN_VERDICT_EPOCH : Nat := 0x060014
/-- R176. -/ abbrev WDN_REFUSE_WHERE : Nat := 0x060018
/-- R176. -/ abbrev WDN_VERDICT_COUNT : Nat := 0x06001C
/-- R176. -/ abbrev WDN_SLICES_LIVE : Nat := 0x060020
/-- R176. -/ abbrev WDN_SOURCE_DISCARD : Nat := 0x060024
/-- R176. -/ abbrev WDN_SLICE_SEL : Nat := 0x060030
/-- R176. -/ abbrev WDN_SLICE_INFO : Nat := 0x060034
/-- R176. -/ abbrev WDN_SLICE_TENANT : Nat := 0x060038
/-- R176. -/ abbrev WDN_SLICE_EPOCH : Nat := 0x06003C
/-- R176. -/ abbrev WDN_SLICE_LMP_LO : Nat := 0x060040
/-- R176. -/ abbrev WDN_SLICE_LMP_HI : Nat := 0x060044
/-- R176. -/ abbrev WDN_SLICE_LNT_LO : Nat := 0x060048
/-- R176. -/ abbrev WDN_SLICE_LNT_HI : Nat := 0x06004C
/-- R176. -/ abbrev WDN_SLICE_CLP_LO : Nat := 0x060050
/-- R176. -/ abbrev WDN_SLICE_CLP_HI : Nat := 0x060054
/-- R176. -/ abbrev WDN_SLICE_CLAIMS : Nat := 0x060058
/-- R176. -/ abbrev WDN_SEATS_FREE : Nat := 0x060060
/-- R176; 8 registers. -/ abbrev WDN_RACK_SET (n : Nat) : Nat := 0x060080 + 4 * n
/-- R360. -/ abbrev WDN_SEC_CAPS : Nat := 0x060800
/-- R360. -/ abbrev WDN_SEC_STATE : Nat := 0x060804
/-- R360. -/ abbrev WDN_SEC_INT_STATUS : Nat := 0x060808
/-- R360. -/ abbrev WDN_SEC_INT_ENABLE : Nat := 0x06080C
/-- R360. -/ abbrev WDN_FUSE : Nat := 0x060810
/-- R360. -/ abbrev WDN_SERIAL_LO : Nat := 0x060814
/-- R360. -/ abbrev WDN_SERIAL_HI : Nat := 0x060818
/-- R360. -/ abbrev WDN_SEALS : Nat := 0x060820
/-- R360. -/ abbrev WDN_ATTESTS : Nat := 0x060824
/-- R360. -/ abbrev WDN_SCRUB : Nat := 0x060828
/-- R360. -/ abbrev WDN_SEAL_CTRL : Nat := 0x06082C
/-- R360. -/ abbrev WDN_SLICE_KEYGEN : Nat := 0x060830
/-- R360. -/ abbrev WDN_SLICE_OLDPAGES : Nat := 0x060834
/-- R360. -/ abbrev WDN_SLICE_ISSUE_LO : Nat := 0x060838
/-- R360. -/ abbrev WDN_SLICE_ISSUE_HI : Nat := 0x06083C
/-- R360. -/ abbrev WDN_SLICE_EXPIRY_LO : Nat := 0x060840
/-- R360. -/ abbrev WDN_SLICE_EXPIRY_HI : Nat := 0x060844
/-- R360. -/ abbrev WDN_ROTATE : Nat := 0x060848
/-- R360. -/ abbrev WDN_ENROL_CTRL : Nat := 0x060850
/-- R360. -/ abbrev WDN_ENROL_STATUS : Nat := 0x060854
/-- R360. -/ abbrev WDN_ENROL_ADDR_LO : Nat := 0x060858
/-- R360. -/ abbrev WDN_ENROL_ADDR_HI : Nat := 0x06085C
/-- R360; 8 registers. -/ abbrev WDN_KEY_ID (n : Nat) : Nat := 0x060880 + 4 * n
/-- R360; 16 registers. -/ abbrev WDN_WARDEN_DIGEST (n : Nat) : Nat := 0x060900 + 4 * n
/-- R360; 16 registers. -/ abbrev WDN_PILOT_DIGEST (n : Nat) : Nat := 0x060940 + 4 * n
/-- R212. -/ abbrev CLP_CAPS : Nat := 0x080000
/-- R212. -/ abbrev CLP_CTRL : Nat := 0x080004
/-- R212. -/ abbrev CLP_INT_STATUS : Nat := 0x080008
/-- R212. -/ abbrev CLP_INT_ENABLE : Nat := 0x08000C
/-- R212. -/ abbrev CLP_CTX_USED : Nat := 0x080010
/-- R212. -/ abbrev CLP_HEAD_QUEUE : Nat := 0x080014
/-- R212. -/ abbrev CLP_PLANS : Nat := 0x080018
/-- R212. -/ abbrev CLP_REFUSALS : Nat := 0x08001C
/-- R212. -/ abbrev CLP_FALLBACKS : Nat := 0x080020
/-- R212. -/ abbrev CLP_LAST_REFUSE : Nat := 0x080024
/-- R212. -/ abbrev CLP_OVERFLOW_LO : Nat := 0x080028
/-- R212. -/ abbrev CLP_OVERFLOW_HI : Nat := 0x08002C
/-- R212. -/ abbrev CLP_PLAN_SEL : Nat := 0x080030
/-- R212. -/ abbrev CLP_PLAN_INFO : Nat := 0x080034
/-- R212. -/ abbrev CLP_PLAN_GROUP : Nat := 0x080038
/-- R212. -/ abbrev CLP_PLAN_ORDINAL : Nat := 0x08003C
/-- R212. -/ abbrev CLP_PLAN_PIECE : Nat := 0x080040
/-- R212. -/ abbrev CLP_PLAN_STRETCH : Nat := 0x080044
/-- R212. -/ abbrev CLP_PLAN_LAUNCHES : Nat := 0x080048
/-- R212. -/ abbrev CLP_PLAN_MEM : Nat := 0x08004C
/-- R212. -/ abbrev CLP_PLAN_ROOT : Nat := 0x080050
/-- R212. -/ abbrev CLP_PLAN_OVER : Nat := 0x080054
/-- R287. -/ abbrev CLP_FAULT_CTRL : Nat := 0x080060
/-- R287. -/ abbrev CLP_STRAG_CTRL : Nat := 0x080064
/-- R287. -/ abbrev CLP_FAULT_STATUS : Nat := 0x080068
/-- R287. -/ abbrev CLP_FAULT_ENABLE : Nat := 0x08006C
/-- R287. -/ abbrev CLP_DUPLICATES : Nat := 0x080070
/-- R287. -/ abbrev CLP_RETRANSMITS : Nat := 0x080074
/-- R287. -/ abbrev CLP_RECOVERIES : Nat := 0x080078
/-- R287. -/ abbrev CLP_ABORTS : Nat := 0x08007C
/-- R287. -/ abbrev CLP_LAST_ABORT : Nat := 0x080080
/-- R287. -/ abbrev CLP_STRAG_LAST : Nat := 0x080084
/-- R287. -/ abbrev CLP_PLAN_LOST : Nat := 0x080088
/-- R287. -/ abbrev CLP_PLAN_STRAG : Nat := 0x08008C
/-- R244. -/ abbrev LMP_CAPS : Nat := 0x0A0000
/-- R244. -/ abbrev LMP_CTRL : Nat := 0x0A0004
/-- R244. -/ abbrev LMP_INT_STATUS : Nat := 0x0A0008
/-- R244. -/ abbrev LMP_INT_ENABLE : Nat := 0x0A000C
/-- R244. -/ abbrev LMP_LAMPS_LO : Nat := 0x0A0010
/-- R244. -/ abbrev LMP_LAMPS_HI : Nat := 0x0A0014
/-- R244. -/ abbrev LMP_RESERVE : Nat := 0x0A0018
/-- R244. -/ abbrev LMP_RECOMPUTES : Nat := 0x0A001C
/-- R244. -/ abbrev LMP_LAST_RESIDUE : Nat := 0x0A0020
/-- R244. -/ abbrev LMP_STORE_ERR : Nat := 0x0A0024
/-- R244. -/ abbrev LMP_SPILL_ERR : Nat := 0x0A0028
/-- R244. -/ abbrev LMP_SHARED_USED : Nat := 0x0A002C
/-- R244. -/ abbrev LMP_SPILL_USED : Nat := 0x0A0030
/-- R244. -/ abbrev LMP_SPILL_FLASH : Nat := 0x0A0034
/-- R244. -/ abbrev LMP_SPILL_SATS : Nat := 0x0A0038
/-- R244. -/ abbrev LMP_SAT_COUNT : Nat := 0x0A003C
/-- R244. -/ abbrev LMP_NAN_COUNT : Nat := 0x0A0040
/-- R244. -/ abbrev LMP_UNITS : Nat := 0x0A0044
/-- R244. -/ abbrev LMP_FORMATS : Nat := 0x0A0048
/-- R244. -/ abbrev LMP_INJECT : Nat := 0x0A0050
/-- R244; 8 registers. -/ abbrev LMP_POOL (n : Nat) : Nat := 0x0A0080 + 4 * n
/-- R262. -/ abbrev LNT_CAPS : Nat := 0x0B0000
/-- R262. -/ abbrev LNT_CTRL : Nat := 0x0B0004
/-- R262. -/ abbrev LNT_INT_STATUS : Nat := 0x0B0008
/-- R262. -/ abbrev LNT_INT_ENABLE : Nat := 0x0B000C
/-- R262. -/ abbrev LNT_CTX_USED : Nat := 0x0B0010
/-- R262. -/ abbrev LNT_LAUNCHES : Nat := 0x0B0014
/-- R262. -/ abbrev LNT_DUPLICATES : Nat := 0x0B0018
/-- R262. -/ abbrev LNT_STALE : Nat := 0x0B001C
/-- R262. -/ abbrev LNT_NEEDS : Nat := 0x0B0020
/-- R262. -/ abbrev LNT_RELAYED : Nat := 0x0B0024
/-- R262. -/ abbrev LNT_LATE : Nat := 0x0B0028
/-- R262. -/ abbrev LNT_LAT_MAX : Nat := 0x0B002C
/-- R262. -/ abbrev LNT_CTX_SEL : Nat := 0x0B0030
/-- R262. -/ abbrev LNT_CTX_INFO : Nat := 0x0B0034
/-- R262. -/ abbrev LNT_CTX_ORDINAL : Nat := 0x0B0038
/-- R262. -/ abbrev LNT_CTX_LAUNCH : Nat := 0x0B003C
/-- R262. -/ abbrev LNT_CTX_LEGS : Nat := 0x0B0040
/-- R262; 8 registers. -/ abbrev LNT_POOL (n : Nat) : Nat := 0x0B0080 + 4 * n
/-- R311. -/ abbrev TIM_CAPS : Nat := 0x0C0000
/-- R311. -/ abbrev TIM_CTRL : Nat := 0x0C0004
/-- R311. -/ abbrev TIM_INT_STATUS : Nat := 0x0C0008
/-- R311. -/ abbrev TIM_INT_ENABLE : Nat := 0x0C000C
/-- R311. -/ abbrev TIM_STATE : Nat := 0x0C0010
/-- R311. -/ abbrev TIM_PARAMS : Nat := 0x0C0014
/-- R311. -/ abbrev TIM_HOLD : Nat := 0x0C0018
/-- R311. -/ abbrev TIM_RATE : Nat := 0x0C001C
/-- R311. -/ abbrev TIM_NOW_LO : Nat := 0x0C0020
/-- R311. -/ abbrev TIM_NOW_HI : Nat := 0x0C0024
/-- R311. -/ abbrev TIM_NOW_OFF : Nat := 0x0C0028
/-- R311. -/ abbrev TIM_ERR : Nat := 0x0C002C
/-- R311. -/ abbrev TIM_PATHS : Nat := 0x0C0030
/-- R311. -/ abbrev TIM_SEED_LO : Nat := 0x0C0034
/-- R311. -/ abbrev TIM_SEED_HI : Nat := 0x0C0038
/-- R311. -/ abbrev TIM_FLOOR_LO : Nat := 0x0C003C
/-- R311. -/ abbrev TIM_FLOOR_HI : Nat := 0x0C0040
/-- R311. -/ abbrev TIM_STEPS : Nat := 0x0C0044
/-- R311. -/ abbrev TIM_OUTLIERS : Nat := 0x0C0048
/-- R311. -/ abbrev TIM_WALL_SET_LO : Nat := 0x0C0050
/-- R311. -/ abbrev TIM_WALL_SET_HI : Nat := 0x0C0054
/-- R311. -/ abbrev TIM_WALL_CTRL : Nat := 0x0C0058
/-- R311. -/ abbrev TIM_WALL_NOW_LO : Nat := 0x0C0060
/-- R311. -/ abbrev TIM_WALL_NOW_HI : Nat := 0x0C0064
/-- R311. -/ abbrev TIM_AGENTS : Nat := 0x0C0068
/-- R311. -/ abbrev TIM_WORST : Nat := 0x0C006C
/-- R329. -/ abbrev TEL_CAPS : Nat := 0x0D0000
/-- R329. -/ abbrev TEL_CTRL : Nat := 0x0D0004
/-- R329. -/ abbrev TEL_INT_STATUS : Nat := 0x0D0008
/-- R329. -/ abbrev TEL_INT_ENABLE : Nat := 0x0D000C
/-- R329. -/ abbrev TEL_LAST_FLASH_LO : Nat := 0x0D0010
/-- R329. -/ abbrev TEL_LAST_FLASH_HI : Nat := 0x0D0014
/-- R329. -/ abbrev TEL_FINE_INDEX : Nat := 0x0D0018
/-- R329. -/ abbrev TEL_COARSE_INDEX : Nat := 0x0D001C
/-- R329. -/ abbrev TEL_NOREP : Nat := 0x0D0020
/-- R329. -/ abbrev TEL_LATE : Nat := 0x0D0024
/-- R329. -/ abbrev TEL_UNROUTABLE : Nat := 0x0D0028
/-- R329. -/ abbrev TEL_MISMATCH : Nat := 0x0D002C
/-- R329. -/ abbrev TEL_SAT_CTRL : Nat := 0x0D0030
/-- R329. -/ abbrev TEL_SAT_STATUS : Nat := 0x0D0034
/-- R329; 9 registers. -/ abbrev TEL_GAUGE (n : Nat) : Nat := 0x0D0040 + 4 * n
/-- R329. -/ abbrev TEL_LAST_READ : Nat := 0x0D0064
/-- R388. -/ abbrev MOR_CAPS : Nat := 0x0E0000
/-- R388. -/ abbrev MOR_CTRL : Nat := 0x0E0004
/-- R388. -/ abbrev MOR_INT_STATUS : Nat := 0x0E0008
/-- R388. -/ abbrev MOR_INT_ENABLE : Nat := 0x0E000C
/-- R388. -/ abbrev MOR_STATE : Nat := 0x0E0010
/-- R388. -/ abbrev MOR_HEALTH : Nat := 0x0E0014
/-- R388. -/ abbrev MOR_COMMIT_FLASH_LO : Nat := 0x0E0018
/-- R388. -/ abbrev MOR_COMMIT_FLASH_HI : Nat := 0x0E001C
/-- R388. -/ abbrev MOR_LAG : Nat := 0x0E0020
/-- R388. -/ abbrev MOR_DELTA_MAX : Nat := 0x0E0024
/-- R388. -/ abbrev MOR_CARRIES : Nat := 0x0E0028
/-- R388. -/ abbrev MOR_TAKEOVERS : Nat := 0x0E002C
/-- R388. -/ abbrev MOR_RESYNC : Nat := 0x0E0030
/-- R388. -/ abbrev MOR_SELFTEST : Nat := 0x0E0034
/-- R388. -/ abbrev MOR_CHECKS : Nat := 0x0E0038
/-- R388. -/ abbrev MOR_PARAMS : Nat := 0x0E003C
/-- R388. -/ abbrev MOR_SEL_CTRL : Nat := 0x0E0040
/-- R388. -/ abbrev MOR_JOURNAL : Nat := 0x0E0044
/-- R388. -/ abbrev MOR_GRANT_FLASH_LO : Nat := 0x0E0048
/-- R388. -/ abbrev MOR_GRANT_FLASH_HI : Nat := 0x0E004C
/-- R388. -/ abbrev MOR_IMAGE_SIZE : Nat := 0x0E0050
/-- R388. -/ abbrev MOR_PINS : Nat := 0x0E0054
/-- R417. -/ abbrev RST_CAPS : Nat := 0x0F0000
/-- R417. -/ abbrev RST_CTRL : Nat := 0x0F0004
/-- R417. -/ abbrev RST_INT_STATUS : Nat := 0x0F0008
/-- R417. -/ abbrev RST_INT_ENABLE : Nat := 0x0F000C
/-- R417. -/ abbrev RST_STATE : Nat := 0x0F0010
/-- R417. -/ abbrev RST_ESC_PARAMS : Nat := 0x0F0014
/-- R417. -/ abbrev RST_MGMT : Nat := 0x0F0018
/-- R417. -/ abbrev RST_LAST_RESET : Nat := 0x0F001C
/-- R417. -/ abbrev RST_LAST_FLASH_LO : Nat := 0x0F0020
/-- R417. -/ abbrev RST_LAST_FLASH_HI : Nat := 0x0F0024
/-- R417. -/ abbrev RST_COUNT_A : Nat := 0x0F0028
/-- R417. -/ abbrev RST_COUNT_B : Nat := 0x0F002C
/-- R417. -/ abbrev RST_HUNG_LO : Nat := 0x0F0030
/-- R417. -/ abbrev RST_HUNG_HI : Nat := 0x0F0034
/-- R417. -/ abbrev RST_ENGINE_SEL : Nat := 0x0F0038
/-- R417. -/ abbrev RST_ENGINE_STATUS : Nat := 0x0F003C
/-- R417. -/ abbrev RST_RESERVE0 : Nat := 0x0F0040
/-- R417. -/ abbrev RST_RESERVE1 : Nat := 0x0F0044
/-- R417. -/ abbrev RST_RESERVE2 : Nat := 0x0F0048
/-- R417. -/ abbrev RST_RESERVE3 : Nat := 0x0F004C
/-- R417. -/ abbrev RST_RESERVE4 : Nat := 0x0F0050
/-- R417. -/ abbrev RST_RESERVE5 : Nat := 0x0F0054
/-- R417. -/ abbrev RST_RESERVE6 : Nat := 0x0F0058
/-- R417. -/ abbrev RST_RESERVE7 : Nat := 0x0F005C
/-- R417. -/ abbrev RST_RESERVE8 : Nat := 0x0F0060
/-- R417. -/ abbrev RST_SAMPLES : Nat := 0x0F0064
/-- R417. -/ abbrev RST_DETECT : Nat := 0x0F0068
/-- R417. -/ abbrev RST_TEST : Nat := 0x0F006C
/-- R436. -/ abbrev LOG_CAPS : Nat := 0x100000
/-- R436. -/ abbrev LOG_CTRL : Nat := 0x100004
/-- R436. -/ abbrev LOG_INT_STATUS : Nat := 0x100008
/-- R436. -/ abbrev LOG_INT_ENABLE : Nat := 0x10000C
/-- R436. -/ abbrev LOG_HEAD_LO : Nat := 0x100010
/-- R436. -/ abbrev LOG_HEAD_HI : Nat := 0x100014
/-- R436. -/ abbrev LOG_WRAPS : Nat := 0x100018
/-- R436. -/ abbrev LOG_DROPPED : Nat := 0x10001C
/-- R436. -/ abbrev LOG_REPEATS : Nat := 0x100020
/-- R436. -/ abbrev LOG_STAGE : Nat := 0x100024
/-- R436. -/ abbrev LOG_NOTIFY : Nat := 0x100028
/-- R436. -/ abbrev LOG_BAR4 : Nat := 0x10002C
/-- R436. -/ abbrev LOG_WALL_CHANGE : Nat := 0x100030
/-- R436. -/ abbrev LOG_COPY : Nat := 0x100034
/-- R436. -/ abbrev LOG_COPY_FLASH_LO : Nat := 0x100038
/-- R436. -/ abbrev LOG_COPY_FLASH_HI : Nat := 0x10003C
/-- R508. -/ abbrev PWR_CAPS : Nat := 0x110000
/-- R508. -/ abbrev PWR_CTRL : Nat := 0x110004
/-- R508. -/ abbrev PWR_INT_STATUS : Nat := 0x110008
/-- R508. -/ abbrev PWR_INT_ENABLE : Nat := 0x11000C
/-- R508. -/ abbrev PWR_STATE : Nat := 0x110010
/-- R508. -/ abbrev PWR_INPUT : Nat := 0x110014
/-- R508. -/ abbrev PWR_POWER : Nat := 0x110018
/-- R508. -/ abbrev PWR_TEMP : Nat := 0x11001C
/-- R508. -/ abbrev PWR_TLIMIT : Nat := 0x110020
/-- R508. -/ abbrev PWR_ENERGY : Nat := 0x110024
/-- R508. -/ abbrev PWR_RAILS : Nat := 0x110028
/-- R508. -/ abbrev PWR_STRAPS : Nat := 0x11002C
/-- R508. -/ abbrev PWR_THROTTLED : Nat := 0x110030
end Reg

namespace Fld
/-- R91, RO. -/ abbrev CHT_CAPS_FORMATS : Fld := ⟨0x010000, 0, 4⟩
/-- R91, RO. -/ abbrev CHT_CAPS_SLOTS : Fld := ⟨0x010000, 4, 4⟩
/-- R91, RO. -/ abbrev CHT_CAPS_MAX_MIB : Fld := ⟨0x010000, 8, 8⟩
/-- R91, RO. -/ abbrev CHT_STATE_STATE : Fld := ⟨0x010004, 0, 2⟩
/-- R91, RO. -/ abbrev CHT_STATE_LIT_SLOT : Fld := ⟨0x010004, 2, 2⟩
/-- R91, RO. -/ abbrev CHT_STATE_ARM_SLOT : Fld := ⟨0x010004, 4, 2⟩
/-- R91, RO. -/ abbrev CHT_STATE_HEAD_MISMATCH : Fld := ⟨0x010004, 6, 1⟩
/-- R91, RO. -/ abbrev CHT_STATE_ARM_UNMIRRORED : Fld := ⟨0x010004, 7, 1⟩
/-- R91, RO. -/ abbrev CHT_STATE_ACTING_HEAD : Fld := ⟨0x010004, 8, 1⟩
/-- R91, W1C. -/ abbrev CHT_INT_STATUS_LIT : Fld := ⟨0x010008, 0, 1⟩
/-- R91, W1C. -/ abbrev CHT_INT_STATUS_REFUSED : Fld := ⟨0x010008, 1, 1⟩
/-- R91, W1C. -/ abbrev CHT_INT_STATUS_POSTPONED : Fld := ⟨0x010008, 2, 1⟩
/-- R91, W1C. -/ abbrev CHT_INT_STATUS_HEAD_MISMATCH : Fld := ⟨0x010008, 3, 1⟩
/-- R91, W1C. -/ abbrev CHT_INT_STATUS_SLOT_CORRUPT : Fld := ⟨0x010008, 4, 1⟩
/-- R91, W1C. -/ abbrev CHT_INT_STATUS_ARM_WITHDRAWN : Fld := ⟨0x010008, 5, 1⟩
/-- R92, RW. -/ abbrev CHT_BOOT_BOOT_SLOT : Fld := ⟨0x010020, 0, 2⟩
/-- R92, RW. -/ abbrev CHT_BOOT_FALLBACK_SLOT : Fld := ⟨0x010020, 2, 2⟩
/-- R92, RW. -/ abbrev CHT_BOOT_FALLBACK_EN : Fld := ⟨0x010020, 4, 1⟩
/-- R92, RW. -/ abbrev CHT_SERIAL_FLOOR_FLOOR : Fld := ⟨0x010024, 0, 32⟩
/-- R121, RO. -/ abbrev DSC_CAPS_PORTS : Fld := ⟨0x020000, 0, 8⟩
/-- R121, RO. -/ abbrev DSC_CAPS_POSITIONS : Fld := ⟨0x020000, 8, 8⟩
/-- R121, RO. -/ abbrev DSC_CAPS_ENGINES : Fld := ⟨0x020000, 16, 4⟩
/-- R121, RO. -/ abbrev DSC_CAPS_SPARE_LASERS : Fld := ⟨0x020000, 20, 4⟩
/-- R121, RO. -/ abbrev DSC_CAPS_LANES : Fld := ⟨0x020000, 24, 4⟩
/-- R121, RW. -/ abbrev DSC_CTRL_PARK_EN : Fld := ⟨0x020004, 0, 1⟩
/-- R121, RW. -/ abbrev DSC_CTRL_RETRY_EN : Fld := ⟨0x020004, 1, 1⟩
/-- R121, RW. -/ abbrev DSC_CTRL_AUTO_SPARE_PORT : Fld := ⟨0x020004, 2, 1⟩
/-- R121, W1C. -/ abbrev DSC_INT_STATUS_LINK_CHANGE : Fld := ⟨0x020008, 0, 1⟩
/-- R121, W1C. -/ abbrev DSC_INT_STATUS_LANE_CHANGE : Fld := ⟨0x020008, 1, 1⟩
/-- R121, W1C. -/ abbrev DSC_INT_STATUS_NEIGHBOUR : Fld := ⟨0x020008, 2, 1⟩
/-- R121, W1C. -/ abbrev DSC_INT_STATUS_QUARANTINE : Fld := ⟨0x020008, 3, 1⟩
/-- R121, W1C. -/ abbrev DSC_INT_STATUS_SPARE_PORT : Fld := ⟨0x020008, 4, 1⟩
/-- R121, W1C. -/ abbrev DSC_INT_STATUS_TEST_DONE : Fld := ⟨0x020008, 5, 1⟩
/-- R121, W1C. -/ abbrev DSC_INT_STATUS_AUTH : Fld := ⟨0x020008, 6, 1⟩
/-- R121, RW. -/ abbrev DSC_HEALTH_COR_EXP : Fld := ⟨0x020010, 0, 4⟩
/-- R121, RW. -/ abbrev DSC_HEALTH_WEAK_FLASHES : Fld := ⟨0x020010, 4, 8⟩
/-- R121, RW. -/ abbrev DSC_HEALTH_UNCOR_LIMIT : Fld := ⟨0x020010, 12, 8⟩
/-- R121, RW. -/ abbrev DSC_HEALTH_AUTH_LIMIT : Fld := ⟨0x020010, 20, 4⟩
/-- R121, RW. -/ abbrev DSC_TIMING_BEACON_LOSS : Fld := ⟨0x020014, 0, 4⟩
/-- R121, RW. -/ abbrev DSC_TIMING_RETRY_MS : Fld := ⟨0x020014, 4, 12⟩
/-- R121, RW. -/ abbrev DSC_TIMING_RETRAIN_LIMIT : Fld := ⟨0x020014, 16, 4⟩
/-- R121, RW. -/ abbrev DSC_PARK_PARK_IDLE : Fld := ⟨0x020018, 0, 16⟩
/-- R121, RW. -/ abbrev DSC_PARK_P1_LOAD_PCT : Fld := ⟨0x020018, 16, 7⟩
/-- R121, RW. -/ abbrev DSC_TEST_CTRL_PORT : Fld := ⟨0x02001C, 0, 5⟩
/-- R121, W1S. -/ abbrev DSC_TEST_CTRL_START : Fld := ⟨0x02001C, 8, 1⟩
/-- R121, RW. -/ abbrev DSC_TEST_CTRL_FLASHES : Fld := ⟨0x02001C, 16, 16⟩
/-- R121, RO. -/ abbrev DSC_TEST_STATUS_STATE : Fld := ⟨0x020020, 0, 2⟩
/-- R121, RO. -/ abbrev DSC_TEST_STATUS_RESULT : Fld := ⟨0x020020, 2, 4⟩
/-- R121, RO. -/ abbrev DSC_TEST_STATUS_LANE_FAIL : Fld := ⟨0x020020, 6, 9⟩
/-- R121, WO. -/ abbrev DSC_CLEAR_PORT : Fld := ⟨0x020024, 0, 5⟩
/-- R121, WO. -/ abbrev DSC_CLEAR_CLEAR_QUAR : Fld := ⟨0x020024, 8, 1⟩
/-- R121, RO. -/ abbrev DSC_RACK_SUMMARY_MISSING : Fld := ⟨0x020028, 0, 12⟩
/-- R121, RO. -/ abbrev DSC_RACK_SUMMARY_EXTRA : Fld := ⟨0x020028, 12, 10⟩
/-- R121, RO. -/ abbrev DSC_RACK_SUMMARY_MISWIRED : Fld := ⟨0x020028, 22, 10⟩
/-- R121, RO. -/ abbrev DSC_RESERVE_LANES_SPARED : Fld := ⟨0x02002C, 0, 8⟩
/-- R121, RO. -/ abbrev DSC_RESERVE_PORTS_SPARED : Fld := ⟨0x02002C, 8, 4⟩
/-- R121, RO. -/ abbrev DSC_RESERVE_LASERS_SPARED : Fld := ⟨0x02002C, 12, 4⟩
/-- R121, RO. -/ abbrev DSC_RESERVE_POS_QUAR : Fld := ⟨0x02002C, 16, 8⟩
/-- R152, RO. -/ abbrev SLV_CAPS_LANES : Fld := ⟨0x040000, 0, 8⟩
/-- R152, RO. -/ abbrev SLV_CAPS_SPARE_LANES : Fld := ⟨0x040000, 8, 4⟩
/-- R152, RO. -/ abbrev SLV_CAPS_BANKS : Fld := ⟨0x040000, 12, 4⟩
/-- R152, RO. -/ abbrev SLV_CAPS_RACK_SLICES : Fld := ⟨0x040000, 16, 8⟩
/-- R152, RW. -/ abbrev SLV_CTRL_VETO_EN : Fld := ⟨0x040004, 0, 1⟩
/-- R152, W1S. -/ abbrev SLV_CTRL_FULL_REQ : Fld := ⟨0x040004, 1, 1⟩
/-- R152, RW. -/ abbrev SLV_CTRL_REPAIR_MAX_PCT : Fld := ⟨0x040004, 8, 8⟩
/-- R152, W1C. -/ abbrev SLV_INT_STATUS_BANK_LIT : Fld := ⟨0x040008, 0, 1⟩
/-- R152, W1C. -/ abbrev SLV_INT_STATUS_BANK_REFUSED : Fld := ⟨0x040008, 1, 1⟩
/-- R152, W1C. -/ abbrev SLV_INT_STATUS_POSTPONED : Fld := ⟨0x040008, 2, 1⟩
/-- R152, W1C. -/ abbrev SLV_INT_STATUS_WITHDRAWN : Fld := ⟨0x040008, 3, 1⟩
/-- R152, W1C. -/ abbrev SLV_INT_STATUS_UNREACH : Fld := ⟨0x040008, 4, 1⟩
/-- R152, W1C. -/ abbrev SLV_INT_STATUS_LANE_RETIRED : Fld := ⟨0x040008, 5, 1⟩
/-- R152, W1C. -/ abbrev SLV_INT_STATUS_LATE_LIGHT : Fld := ⟨0x040008, 6, 1⟩
/-- R152, W1C. -/ abbrev SLV_INT_STATUS_VETO : Fld := ⟨0x040008, 7, 1⟩
/-- R152, RO. -/ abbrev SLV_STATE_PHASE : Fld := ⟨0x040010, 0, 4⟩
/-- R152, RO. -/ abbrev SLV_STATE_KIND : Fld := ⟨0x040010, 4, 1⟩
/-- R152, RO. -/ abbrev SLV_STATE_HOLD : Fld := ⟨0x040010, 5, 1⟩
/-- R152, RO. -/ abbrev SLV_STATE_LATE : Fld := ⟨0x040010, 6, 1⟩
/-- R152, RW. -/ abbrev SLV_PARAMS_DRAIN_GUARD_NS : Fld := ⟨0x040014, 0, 13⟩
/-- R152, RW. -/ abbrev SLV_PARAMS_ABANDON_FLASHES : Fld := ⟨0x040014, 16, 8⟩
/-- R152, RO. -/ abbrev SLV_LIT_EPOCH_EPOCH : Fld := ⟨0x040018, 0, 32⟩
/-- R152, RO. -/ abbrev SLV_WORK_EPOCH_EPOCH : Fld := ⟨0x04001C, 0, 32⟩
/-- R152, RO. -/ abbrev SLV_TREES_TOTAL_TREES : Fld := ⟨0x040030, 0, 17⟩
/-- R152, RO. -/ abbrev SLV_TREES_DONE_TREES : Fld := ⟨0x040034, 0, 17⟩
/-- R152, RO. -/ abbrev SLV_LANES_IN_SERVICE : Fld := ⟨0x040038, 0, 7⟩
/-- R152, RO. -/ abbrev SLV_LANES_SPARES_USED : Fld := ⟨0x040038, 8, 3⟩
/-- R152, RO. -/ abbrev SLV_SOLVES_REPAIRS : Fld := ⟨0x04003C, 0, 16⟩
/-- R152, RO. -/ abbrev SLV_SOLVES_FULLS : Fld := ⟨0x04003C, 16, 16⟩
/-- R152, RO. -/ abbrev SLV_UNREACH_TREES : Fld := ⟨0x040040, 0, 16⟩
/-- R152, RO. -/ abbrev SLV_UNREACH_SLICE : Fld := ⟨0x040040, 16, 8⟩
/-- R152, RO. -/ abbrev SLV_DRAIN_DISCARD_COUNT : Fld := ⟨0x040044, 0, 32⟩
/-- R152, RO. -/ abbrev SLV_POSTPONES_COUNT : Fld := ⟨0x040048, 0, 32⟩
/-- R152, RO. -/ abbrev SLV_REFUSALS_COUNT : Fld := ⟨0x04004C, 0, 32⟩
/-- R152, RO. -/ abbrev SLV_VETOES_COUNT : Fld := ⟨0x040050, 0, 16⟩
/-- R152, RO. -/ abbrev SLV_LOAD_MAX_LOAD : Fld := ⟨0x040054, 0, 16⟩
/-- R152, RO. -/ abbrev SLV_LOAD_MAX_PLANE : Fld := ⟨0x040054, 16, 4⟩
/-- R152, RO. -/ abbrev SLV_LOAD_MAX_DIR : Fld := ⟨0x040054, 20, 2⟩
/-- R152, RO. -/ abbrev SLV_BACKLOG_CHANGES : Fld := ⟨0x040058, 0, 16⟩
/-- R152, RO. -/ abbrev SLV_HEAD_STATE_CYCLE : Fld := ⟨0x040200, 0, 2⟩
/-- R152, RO. -/ abbrev SLV_HEAD_STATE_ACTIVE : Fld := ⟨0x040200, 8, 1⟩
/-- R152, RO. -/ abbrev SLV_HEAD_EPOCH_EPOCH : Fld := ⟨0x040204, 0, 32⟩
/-- R177, RO. -/ abbrev WDN_CAPS_SLICES : Fld := ⟨0x060000, 0, 9⟩
/-- R177, RO. -/ abbrev WDN_CAPS_RACK_SLICES : Fld := ⟨0x060000, 16, 7⟩
/-- R177, RO. -/ abbrev WDN_CAPS_SEATS : Fld := ⟨0x060000, 24, 7⟩
/-- R177, RW. -/ abbrev WDN_CTRL_DRAIN_LIMIT : Fld := ⟨0x060004, 0, 16⟩
/-- R177, W1C. -/ abbrev WDN_INT_STATUS_REFUSED : Fld := ⟨0x060008, 0, 1⟩
/-- R177, W1C. -/ abbrev WDN_INT_STATUS_SLICE_CHANGE : Fld := ⟨0x060008, 1, 1⟩
/-- R177, W1C. -/ abbrev WDN_INT_STATUS_DRAINED : Fld := ⟨0x060008, 2, 1⟩
/-- R177, W1C. -/ abbrev WDN_INT_STATUS_DRAIN_FORCED : Fld := ⟨0x060008, 3, 1⟩
/-- R177, W1C. -/ abbrev WDN_INT_STATUS_SOURCE : Fld := ⟨0x060008, 4, 1⟩
/-- R177, W1C. -/ abbrev WDN_INT_STATUS_ADMIT_REFUSED : Fld := ⟨0x060008, 5, 1⟩
/-- R177, RO. -/ abbrev WDN_VERDICT_RESULT : Fld := ⟨0x060010, 0, 2⟩
/-- R177, RO. -/ abbrev WDN_VERDICT_INVARIANT : Fld := ⟨0x060010, 4, 4⟩
/-- R177, RO. -/ abbrev WDN_VERDICT_KIND : Fld := ⟨0x060010, 8, 1⟩
/-- R177, RO. -/ abbrev WDN_VERDICT_EPOCH_EPOCH : Fld := ⟨0x060014, 0, 32⟩
/-- R177, RO. -/ abbrev WDN_REFUSE_WHERE_SLICE : Fld := ⟨0x060018, 0, 8⟩
/-- R177, RO. -/ abbrev WDN_REFUSE_WHERE_RACK : Fld := ⟨0x060018, 8, 6⟩
/-- R177, RO. -/ abbrev WDN_REFUSE_WHERE_SWITCH : Fld := ⟨0x060018, 16, 4⟩
/-- R177, RO. -/ abbrev WDN_REFUSE_WHERE_PORT : Fld := ⟨0x060018, 20, 8⟩
/-- R177, RO. -/ abbrev WDN_VERDICT_COUNT_PASSES : Fld := ⟨0x06001C, 0, 16⟩
/-- R177, RO. -/ abbrev WDN_VERDICT_COUNT_REFUSALS : Fld := ⟨0x06001C, 16, 16⟩
/-- R177, RO. -/ abbrev WDN_SLICES_LIVE_CLUSTER : Fld := ⟨0x060020, 0, 9⟩
/-- R177, RO. -/ abbrev WDN_SLICES_LIVE_RACK : Fld := ⟨0x060020, 16, 7⟩
/-- R177, RO. -/ abbrev WDN_SOURCE_DISCARD_COUNT : Fld := ⟨0x060024, 0, 32⟩
/-- R177, RW. -/ abbrev WDN_SLICE_SEL_SLICE : Fld := ⟨0x060030, 0, 8⟩
/-- R177, RO. -/ abbrev WDN_SLICE_INFO_STATE : Fld := ⟨0x060034, 0, 3⟩
/-- R177, RO. -/ abbrev WDN_SLICE_INFO_CLASS : Fld := ⟨0x060034, 3, 2⟩
/-- R177, RO. -/ abbrev WDN_SLICE_INFO_FORCED : Fld := ⟨0x060034, 5, 1⟩
/-- R177, RO. -/ abbrev WDN_SLICE_INFO_TEMPLATE : Fld := ⟨0x060034, 8, 8⟩
/-- R177, RO. -/ abbrev WDN_SLICE_INFO_MEMBERS : Fld := ⟨0x060034, 16, 8⟩
/-- R177, RO. -/ abbrev WDN_SLICE_INFO_TOUCHES : Fld := ⟨0x060034, 24, 1⟩
/-- R177, RO. -/ abbrev WDN_SLICE_TENANT_TENANT : Fld := ⟨0x060038, 0, 16⟩
/-- R177, RO. -/ abbrev WDN_SLICE_EPOCH_EPOCH : Fld := ⟨0x06003C, 0, 32⟩
/-- R177, RO. -/ abbrev WDN_SLICE_CLAIMS_CABLES : Fld := ⟨0x060058, 0, 12⟩
/-- R177, RO. -/ abbrev WDN_SEATS_FREE_LMP : Fld := ⟨0x060060, 0, 7⟩
/-- R177, RO. -/ abbrev WDN_SEATS_FREE_LNT : Fld := ⟨0x060060, 8, 7⟩
/-- R177, RO. -/ abbrev WDN_SEATS_FREE_CLP : Fld := ⟨0x060060, 16, 7⟩
/-- R213, RO. -/ abbrev CLP_CAPS_CONTEXTS : Fld := ⟨0x080000, 0, 12⟩
/-- R213, RO. -/ abbrev CLP_CAPS_LANTERN : Fld := ⟨0x080000, 12, 9⟩
/-- R213, RO. -/ abbrev CLP_CAPS_ALGS : Fld := ⟨0x080000, 24, 4⟩
/-- R213, RW. -/ abbrev CLP_CTRL_PLAN_EN : Fld := ⟨0x080004, 0, 1⟩
/-- R213, RW. -/ abbrev CLP_CTRL_FORCE_EN : Fld := ⟨0x080004, 1, 1⟩
/-- R213, RW. -/ abbrev CLP_CTRL_RELEASE_LIMIT : Fld := ⟨0x080004, 16, 8⟩
/-- R213, W1C. -/ abbrev CLP_INT_STATUS_ADMITTED : Fld := ⟨0x080008, 0, 1⟩
/-- R213, W1C. -/ abbrev CLP_INT_STATUS_REFUSED : Fld := ⟨0x080008, 1, 1⟩
/-- R213, W1C. -/ abbrev CLP_INT_STATUS_STRETCHED : Fld := ⟨0x080008, 2, 1⟩
/-- R213, W1C. -/ abbrev CLP_INT_STATUS_SPILL : Fld := ⟨0x080008, 3, 1⟩
/-- R213, W1C. -/ abbrev CLP_INT_STATUS_FALLBACK : Fld := ⟨0x080008, 4, 1⟩
/-- R213, W1C. -/ abbrev CLP_INT_STATUS_RELEASED : Fld := ⟨0x080008, 5, 1⟩
/-- R213, W1C. -/ abbrev CLP_INT_STATUS_OVERFLOW : Fld := ⟨0x080008, 6, 1⟩
/-- R213, W1C. -/ abbrev CLP_INT_STATUS_LNT_FALLBACK : Fld := ⟨0x080008, 7, 1⟩
/-- R213, RO. -/ abbrev CLP_CTX_USED_USED : Fld := ⟨0x080010, 0, 12⟩
/-- R213, RO. -/ abbrev CLP_CTX_USED_RESERVED : Fld := ⟨0x080010, 16, 12⟩
/-- R213, RO. -/ abbrev CLP_HEAD_QUEUE_WAITING : Fld := ⟨0x080014, 0, 16⟩
/-- R213, RO. -/ abbrev CLP_HEAD_QUEUE_BUSY : Fld := ⟨0x080014, 16, 8⟩
/-- R213, RO. -/ abbrev CLP_PLANS_COUNT : Fld := ⟨0x080018, 0, 12⟩
/-- R213, RO. -/ abbrev CLP_REFUSALS_COUNT : Fld := ⟨0x08001C, 0, 32⟩
/-- R213, RO. -/ abbrev CLP_FALLBACKS_COUNT : Fld := ⟨0x080020, 0, 32⟩
/-- R213, RO. -/ abbrev CLP_LAST_REFUSE_REASON : Fld := ⟨0x080024, 0, 8⟩
/-- R213, RO. -/ abbrev CLP_LAST_REFUSE_SLICE : Fld := ⟨0x080024, 8, 8⟩
/-- R213, RO. -/ abbrev CLP_LAST_REFUSE_GROUP : Fld := ⟨0x080024, 16, 12⟩
/-- R213, RW. -/ abbrev CLP_PLAN_SEL_CTX : Fld := ⟨0x080030, 0, 11⟩
/-- R213, RO. -/ abbrev CLP_PLAN_INFO_STATE : Fld := ⟨0x080034, 0, 3⟩
/-- R213, RO. -/ abbrev CLP_PLAN_INFO_OPER : Fld := ⟨0x080034, 3, 4⟩
/-- R213, RO. -/ abbrev CLP_PLAN_INFO_ALG : Fld := ⟨0x080034, 7, 3⟩
/-- R213, RO. -/ abbrev CLP_PLAN_INFO_IN_FLIGHT : Fld := ⟨0x080034, 10, 2⟩
/-- R213, RO. -/ abbrev CLP_PLAN_INFO_SPILL : Fld := ⟨0x080034, 12, 1⟩
/-- R213, RO. -/ abbrev CLP_PLAN_INFO_SLICE : Fld := ⟨0x080034, 16, 8⟩
/-- R213, RO. -/ abbrev CLP_PLAN_INFO_SLOT : Fld := ⟨0x080034, 24, 8⟩
/-- R213, RO. -/ abbrev CLP_PLAN_GROUP_GROUP : Fld := ⟨0x080038, 0, 12⟩
/-- R213, RO. -/ abbrev CLP_PLAN_GROUP_M : Fld := ⟨0x080038, 16, 14⟩
/-- R213, RO. -/ abbrev CLP_PLAN_ORDINAL_ORDINAL : Fld := ⟨0x08003C, 0, 32⟩
/-- R213, RO. -/ abbrev CLP_PLAN_PIECE_PIECE_PKTS : Fld := ⟨0x080040, 0, 16⟩
/-- R213, RO. -/ abbrev CLP_PLAN_PIECE_MAX_PIECES : Fld := ⟨0x080040, 16, 16⟩
/-- R213, RO. -/ abbrev CLP_PLAN_STRETCH_STRETCH : Fld := ⟨0x080044, 0, 16⟩
/-- R213, RO. -/ abbrev CLP_PLAN_STRETCH_PLANES : Fld := ⟨0x080044, 16, 16⟩
/-- R213, RO. -/ abbrev CLP_PLAN_LAUNCHES_COUNT : Fld := ⟨0x080048, 0, 32⟩
/-- R213, RO. -/ abbrev CLP_PLAN_MEM_UNITS : Fld := ⟨0x08004C, 0, 24⟩
/-- R213, RO. -/ abbrev CLP_PLAN_ROOT_UNITS : Fld := ⟨0x080050, 0, 24⟩
/-- R213, RO. -/ abbrev CLP_PLAN_OVER_COUNT : Fld := ⟨0x080054, 0, 32⟩
/-- R245, RO. -/ abbrev LMP_CAPS_LAMPS : Fld := ⟨0x0A0000, 0, 8⟩
/-- R245, RO. -/ abbrev LMP_CAPS_SPARE_LAMPS : Fld := ⟨0x0A0000, 8, 4⟩
/-- R245, RO. -/ abbrev LMP_CAPS_LANES : Fld := ⟨0x0A0000, 16, 5⟩
/-- R245, RO. -/ abbrev LMP_CAPS_STORE_MIB : Fld := ⟨0x0A0000, 24, 8⟩
/-- R245, RW. -/ abbrev LMP_CTRL_AUTO_SPARE : Fld := ⟨0x0A0004, 0, 1⟩
/-- R245, RW. -/ abbrev LMP_CTRL_SOFT_LIMIT : Fld := ⟨0x0A0004, 8, 4⟩
/-- R245, RW. -/ abbrev LMP_CTRL_SOFT_WINDOW : Fld := ⟨0x0A0004, 16, 16⟩
/-- R245, W1C. -/ abbrev LMP_INT_STATUS_RECOMPUTE : Fld := ⟨0x0A0008, 0, 1⟩
/-- R245, W1C. -/ abbrev LMP_INT_STATUS_LAMP_RETIRED : Fld := ⟨0x0A0008, 1, 1⟩
/-- R245, W1C. -/ abbrev LMP_INT_STATUS_NO_SPARE : Fld := ⟨0x0A0008, 2, 1⟩
/-- R245, W1C. -/ abbrev LMP_INT_STATUS_POOL_EMPTY : Fld := ⟨0x0A0008, 3, 1⟩
/-- R245, W1C. -/ abbrev LMP_INT_STATUS_STORE_ERR : Fld := ⟨0x0A0008, 4, 1⟩
/-- R245, W1C. -/ abbrev LMP_INT_STATUS_SPILL_ERR : Fld := ⟨0x0A0008, 5, 1⟩
/-- R245, W1C. -/ abbrev LMP_INT_STATUS_SPILL_SAT : Fld := ⟨0x0A0008, 6, 1⟩
/-- R245, W1C. -/ abbrev LMP_INT_STATUS_INJECT_DONE : Fld := ⟨0x0A0008, 7, 1⟩
/-- R245, RO. -/ abbrev LMP_LAMPS_LO_IN_SERVICE : Fld := ⟨0x0A0010, 0, 32⟩
/-- R245, RO. -/ abbrev LMP_LAMPS_HI_IN_SERVICE : Fld := ⟨0x0A0014, 0, 2⟩
/-- R245, RO. -/ abbrev LMP_RESERVE_SPARES_USED : Fld := ⟨0x0A0018, 0, 2⟩
/-- R245, RO. -/ abbrev LMP_RESERVE_RETIRED : Fld := ⟨0x0A0018, 8, 6⟩
/-- R245, RO. -/ abbrev LMP_RECOMPUTES_COUNT : Fld := ⟨0x0A001C, 0, 32⟩
/-- R245, RO. -/ abbrev LMP_LAST_RESIDUE_LAMP : Fld := ⟨0x0A0020, 0, 6⟩
/-- R245, RO. -/ abbrev LMP_LAST_RESIDUE_LANE : Fld := ⟨0x0A0020, 8, 4⟩
/-- R245, RO. -/ abbrev LMP_LAST_RESIDUE_PATH : Fld := ⟨0x0A0020, 12, 1⟩
/-- R245, RO. -/ abbrev LMP_LAST_RESIDUE_SECOND : Fld := ⟨0x0A0020, 13, 1⟩
/-- R245, RO. -/ abbrev LMP_LAST_RESIDUE_CTX : Fld := ⟨0x0A0020, 16, 11⟩
/-- R245, RO. -/ abbrev LMP_STORE_ERR_COUNT : Fld := ⟨0x0A0024, 0, 32⟩
/-- R245, RO. -/ abbrev LMP_SPILL_ERR_COUNT : Fld := ⟨0x0A0028, 0, 32⟩
/-- R245, RO. -/ abbrev LMP_SHARED_USED_UNITS : Fld := ⟨0x0A002C, 0, 22⟩
/-- R245, RO. -/ abbrev LMP_SPILL_USED_MIB : Fld := ⟨0x0A0030, 0, 16⟩
/-- R245, RO. -/ abbrev LMP_SPILL_FLASH_UNITS : Fld := ⟨0x0A0034, 0, 32⟩
/-- R245, RO. -/ abbrev LMP_SPILL_SATS_COUNT : Fld := ⟨0x0A0038, 0, 32⟩
/-- R245, RO. -/ abbrev LMP_SAT_COUNT_COUNT : Fld := ⟨0x0A003C, 0, 32⟩
/-- R245, RO. -/ abbrev LMP_NAN_COUNT_COUNT : Fld := ⟨0x0A0040, 0, 32⟩
/-- R245, RO. -/ abbrev LMP_UNITS_COUNT : Fld := ⟨0x0A0044, 0, 24⟩
/-- R245, RO. -/ abbrev LMP_FORMATS_FORMATS : Fld := ⟨0x0A0048, 0, 16⟩
/-- R245, RW. -/ abbrev LMP_INJECT_LAMP : Fld := ⟨0x0A0050, 0, 6⟩
/-- R245, RW. -/ abbrev LMP_INJECT_LANE : Fld := ⟨0x0A0050, 8, 4⟩
/-- R245, RW. -/ abbrev LMP_INJECT_PATH : Fld := ⟨0x0A0050, 12, 1⟩
/-- R245, RW. -/ abbrev LMP_INJECT_BOTH : Fld := ⟨0x0A0050, 13, 1⟩
/-- R245, W1S. -/ abbrev LMP_INJECT_ARM : Fld := ⟨0x0A0050, 16, 1⟩
/-- R263, RO. -/ abbrev LNT_CAPS_CONTEXTS : Fld := ⟨0x0B0000, 0, 9⟩
/-- R263, RO. -/ abbrev LNT_CAPS_ROWS : Fld := ⟨0x0B0000, 12, 4⟩
/-- R263, RO. -/ abbrev LNT_CAPS_RESULT_64 : Fld := ⟨0x0B0000, 16, 8⟩
/-- R263, RW. -/ abbrev LNT_CTRL_NEED_NS : Fld := ⟨0x0B0004, 0, 13⟩
/-- R263, RW. -/ abbrev LNT_CTRL_RETRY_LIMIT : Fld := ⟨0x0B0004, 16, 8⟩
/-- R263, RW. -/ abbrev LNT_CTRL_LNT_EN : Fld := ⟨0x0B0004, 24, 1⟩
/-- R263, W1C. -/ abbrev LNT_INT_STATUS_RESIDUE : Fld := ⟨0x0B0008, 0, 1⟩
/-- R263, W1C. -/ abbrev LNT_INT_STATUS_BUFFER_DISCARD : Fld := ⟨0x0B0008, 1, 1⟩
/-- R263, W1C. -/ abbrev LNT_INT_STATUS_NEED : Fld := ⟨0x0B0008, 2, 1⟩
/-- R263, W1C. -/ abbrev LNT_INT_STATUS_LATE : Fld := ⟨0x0B0008, 3, 1⟩
/-- R263, W1C. -/ abbrev LNT_INT_STATUS_CTX_SHORT : Fld := ⟨0x0B0008, 4, 1⟩
/-- R263, W1C. -/ abbrev LNT_INT_STATUS_PLANE_MOVED : Fld := ⟨0x0B0008, 5, 1⟩
/-- R263, W1C. -/ abbrev LNT_INT_STATUS_HOP_LOST : Fld := ⟨0x0B0008, 6, 1⟩
/-- R263, RO. -/ abbrev LNT_CTX_USED_USED : Fld := ⟨0x0B0010, 0, 9⟩
/-- R263, RO. -/ abbrev LNT_CTX_USED_RESERVED : Fld := ⟨0x0B0010, 16, 9⟩
/-- R263, RO. -/ abbrev LNT_LAT_MAX_NS : Fld := ⟨0x0B002C, 0, 16⟩
/-- R263, RW. -/ abbrev LNT_CTX_SEL_CTX : Fld := ⟨0x0B0030, 0, 8⟩
/-- R263, RO. -/ abbrev LNT_CTX_INFO_STATE : Fld := ⟨0x0B0034, 0, 2⟩
/-- R263, RO. -/ abbrev LNT_CTX_INFO_OPER : Fld := ⟨0x0B0034, 2, 4⟩
/-- R263, RO. -/ abbrev LNT_CTX_INFO_DISC : Fld := ⟨0x0B0034, 6, 1⟩
/-- R263, RO. -/ abbrev LNT_CTX_INFO_FORMAT : Fld := ⟨0x0B0034, 8, 4⟩
/-- R263, RO. -/ abbrev LNT_CTX_INFO_GEN : Fld := ⟨0x0B0034, 16, 6⟩
/-- R263, RO. -/ abbrev LNT_CTX_INFO_RACKS_M1 : Fld := ⟨0x0B0034, 24, 6⟩
/-- R263, RO. -/ abbrev LNT_CTX_ORDINAL_ORDINAL : Fld := ⟨0x0B0038, 0, 32⟩
/-- R263, RO. -/ abbrev LNT_CTX_LAUNCH_DONE : Fld := ⟨0x0B003C, 0, 16⟩
/-- R263, RO. -/ abbrev LNT_CTX_LAUNCH_WAIT_MEMBERS : Fld := ⟨0x0B003C, 16, 8⟩
/-- R263, RO. -/ abbrev LNT_CTX_LAUNCH_WAIT_RACKS : Fld := ⟨0x0B003C, 24, 7⟩
/-- R288, RW. -/ abbrev CLP_FAULT_CTRL_RETX_US : Fld := ⟨0x080060, 0, 8⟩
/-- R288, RW. -/ abbrev CLP_FAULT_CTRL_RETX_MAX : Fld := ⟨0x080060, 8, 4⟩
/-- R288, RW. -/ abbrev CLP_FAULT_CTRL_STALL_LIMIT : Fld := ⟨0x080060, 16, 16⟩
/-- R288, RW. -/ abbrev CLP_STRAG_CTRL_STRAG_RUN : Fld := ⟨0x080064, 0, 8⟩
/-- R288, RW. -/ abbrev CLP_STRAG_CTRL_STRAG_NS : Fld := ⟨0x080064, 16, 16⟩
/-- R288, W1C. -/ abbrev CLP_FAULT_STATUS_FLOW_BROKEN : Fld := ⟨0x080068, 0, 1⟩
/-- R288, W1C. -/ abbrev CLP_FAULT_STATUS_PLANE_LOST : Fld := ⟨0x080068, 1, 1⟩
/-- R288, W1C. -/ abbrev CLP_FAULT_STATUS_REPLAY : Fld := ⟨0x080068, 2, 1⟩
/-- R288, W1C. -/ abbrev CLP_FAULT_STATUS_ABORTED : Fld := ⟨0x080068, 3, 1⟩
/-- R288, W1C. -/ abbrev CLP_FAULT_STATUS_ALREADY_COMPLETE : Fld := ⟨0x080068, 4, 1⟩
/-- R288, W1C. -/ abbrev CLP_FAULT_STATUS_STRAGGLER : Fld := ⟨0x080068, 5, 1⟩
/-- R288, W1C. -/ abbrev CLP_FAULT_STATUS_STALL : Fld := ⟨0x080068, 6, 1⟩
/-- R288, W1C. -/ abbrev CLP_FAULT_STATUS_NO_PLANE : Fld := ⟨0x080068, 7, 1⟩
/-- R288, RO. -/ abbrev CLP_DUPLICATES_COUNT : Fld := ⟨0x080070, 0, 32⟩
/-- R288, RO. -/ abbrev CLP_RETRANSMITS_COUNT : Fld := ⟨0x080074, 0, 32⟩
/-- R288, RO. -/ abbrev CLP_RECOVERIES_COUNT : Fld := ⟨0x080078, 0, 32⟩
/-- R288, RO. -/ abbrev CLP_ABORTS_COUNT : Fld := ⟨0x08007C, 0, 32⟩
/-- R288, RO. -/ abbrev CLP_LAST_ABORT_LAUNCH : Fld := ⟨0x080080, 0, 16⟩
/-- R288, RO. -/ abbrev CLP_LAST_ABORT_SLICE : Fld := ⟨0x080080, 16, 8⟩
/-- R288, RO. -/ abbrev CLP_LAST_ABORT_STATUS : Fld := ⟨0x080080, 24, 8⟩
/-- R288, RO. -/ abbrev CLP_STRAG_LAST_CTX : Fld := ⟨0x080084, 0, 11⟩
/-- R288, RO. -/ abbrev CLP_STRAG_LAST_MEMBER : Fld := ⟨0x080084, 16, 14⟩
/-- R288, RO. -/ abbrev CLP_PLAN_LOST_LOST : Fld := ⟨0x080088, 0, 16⟩
/-- R288, RO. -/ abbrev CLP_PLAN_STRAG_MEMBER : Fld := ⟨0x08008C, 0, 14⟩
/-- R288, RO. -/ abbrev CLP_PLAN_STRAG_LAG : Fld := ⟨0x08008C, 16, 16⟩
/-- R312, RO. -/ abbrev TIM_CAPS_FRAC_BITS : Fld := ⟨0x0C0000, 0, 4⟩
/-- R312, RO. -/ abbrev TIM_CAPS_ALIGN_PS : Fld := ⟨0x0C0000, 8, 8⟩
/-- R312, RO. -/ abbrev TIM_CAPS_WINDOW_PS : Fld := ⟨0x0C0000, 16, 8⟩
/-- R312, RW. -/ abbrev TIM_CTRL_CAL_EN : Fld := ⟨0x0C0004, 0, 1⟩
/-- R312, RW. -/ abbrev TIM_CTRL_EQ_TRIM_EN : Fld := ⟨0x0C0004, 1, 1⟩
/-- R312, RW. -/ abbrev TIM_CTRL_FILL_EN : Fld := ⟨0x0C0004, 2, 1⟩
/-- R312, W1S. -/ abbrev TIM_CTRL_FLOOR_CLEAR : Fld := ⟨0x0C0004, 3, 1⟩
/-- R312, RW. -/ abbrev TIM_CTRL_COLD_EN : Fld := ⟨0x0C0004, 4, 1⟩
/-- R312, W1C. -/ abbrev TIM_INT_STATUS_ALIGNED : Fld := ⟨0x0C0008, 0, 1⟩
/-- R312, W1C. -/ abbrev TIM_INT_STATUS_HOLDOVER : Fld := ⟨0x0C0008, 1, 1⟩
/-- R312, W1C. -/ abbrev TIM_INT_STATUS_DEGRADED : Fld := ⟨0x0C0008, 2, 1⟩
/-- R312, W1C. -/ abbrev TIM_INT_STATUS_OUTLIER : Fld := ⟨0x0C0008, 3, 1⟩
/-- R312, W1C. -/ abbrev TIM_INT_STATUS_STEP : Fld := ⟨0x0C0008, 4, 1⟩
/-- R312, W1C. -/ abbrev TIM_INT_STATUS_WALL_STEP : Fld := ⟨0x0C0008, 5, 1⟩
/-- R312, W1C. -/ abbrev TIM_INT_STATUS_FLOOR : Fld := ⟨0x0C0008, 6, 1⟩
/-- R312, W1C. -/ abbrev TIM_INT_STATUS_AGENT_HOLD : Fld := ⟨0x0C0008, 7, 1⟩
/-- R312, RO. -/ abbrev TIM_STATE_STATE : Fld := ⟨0x0C0010, 0, 3⟩
/-- R312, RO. -/ abbrev TIM_STATE_DEGRADED : Fld := ⟨0x0C0010, 3, 1⟩
/-- R312, RO. -/ abbrev TIM_STATE_COLD : Fld := ⟨0x0C0010, 4, 1⟩
/-- R312, RO. -/ abbrev TIM_STATE_DEPTH : Fld := ⟨0x0C0010, 8, 4⟩
/-- R312, RO. -/ abbrev TIM_STATE_ROOT_RACK : Fld := ⟨0x0C0010, 16, 6⟩
/-- R312, RW. -/ abbrev TIM_PARAMS_MAX_SLEW_PPM : Fld := ⟨0x0C0014, 0, 8⟩
/-- R312, RW. -/ abbrev TIM_PARAMS_OUTLIER_PS : Fld := ⟨0x0C0014, 8, 8⟩
/-- R312, RW. -/ abbrev TIM_PARAMS_MIN_PATHS : Fld := ⟨0x0C0014, 16, 4⟩
/-- R312, RW. -/ abbrev TIM_PARAMS_FILL_SAMPLES : Fld := ⟨0x0C0014, 24, 8⟩
/-- R312, RW. -/ abbrev TIM_HOLD_HOLDOVER_FLASHES : Fld := ⟨0x0C0018, 0, 16⟩
/-- R312, RW. -/ abbrev TIM_HOLD_ACQ_FLASHES : Fld := ⟨0x0C0018, 16, 16⟩
/-- R312, RO. -/ abbrev TIM_RATE_RATE : Fld := ⟨0x0C001C, 0, 32⟩
/-- R312, RO. -/ abbrev TIM_ERR_ERR : Fld := ⟨0x0C002C, 0, 20⟩
/-- R312, RO. -/ abbrev TIM_ERR_BOUND_PS : Fld := ⟨0x0C002C, 24, 8⟩
/-- R312, RO. -/ abbrev TIM_PATHS_VALID : Fld := ⟨0x0C0030, 0, 6⟩
/-- R312, RO. -/ abbrev TIM_PATHS_EXCLUDED : Fld := ⟨0x0C0030, 8, 6⟩
/-- R312, RO. -/ abbrev TIM_PATHS_PARENT_X : Fld := ⟨0x0C0030, 16, 6⟩
/-- R312, RO. -/ abbrev TIM_PATHS_PARENT_Y : Fld := ⟨0x0C0030, 24, 6⟩
/-- R312, as register. -/ abbrev TIM_SEED_LO_FLASH : Fld := ⟨0x0C0034, 0, 32⟩
/-- R312, as register. -/ abbrev TIM_FLOOR_LO_FLASH : Fld := ⟨0x0C003C, 0, 32⟩
/-- R312, RO. -/ abbrev TIM_STEPS_COUNT : Fld := ⟨0x0C0044, 0, 32⟩
/-- R312, RO. -/ abbrev TIM_OUTLIERS_COUNT : Fld := ⟨0x0C0048, 0, 32⟩
/-- R312, W1S. -/ abbrev TIM_WALL_CTRL_APPLY : Fld := ⟨0x0C0058, 0, 1⟩
/-- R312, RW. -/ abbrev TIM_WALL_CTRL_WALL_PPB : Fld := ⟨0x0C0058, 8, 24⟩
/-- R312, RO. -/ abbrev TIM_AGENTS_ALIGNED : Fld := ⟨0x0C0068, 0, 8⟩
/-- R312, RO. -/ abbrev TIM_AGENTS_HOLDOVER : Fld := ⟨0x0C0068, 8, 8⟩
/-- R312, RO. -/ abbrev TIM_AGENTS_UNALIGNED : Fld := ⟨0x0C0068, 16, 8⟩
/-- R312, RO. -/ abbrev TIM_WORST_ERR : Fld := ⟨0x0C006C, 0, 20⟩
/-- R312, RO. -/ abbrev TIM_WORST_AGENT : Fld := ⟨0x0C006C, 24, 8⟩
/-- R330, RO. -/ abbrev TEL_CAPS_GAUGES : Fld := ⟨0x0D0000, 0, 4⟩
/-- R330, RO. -/ abbrev TEL_CAPS_FRAME_KIB : Fld := ⟨0x0D0000, 8, 8⟩
/-- R330, RO. -/ abbrev TEL_CAPS_FINE_K : Fld := ⟨0x0D0000, 16, 16⟩
/-- R330, RW. -/ abbrev TEL_CTRL_HIST_EN : Fld := ⟨0x0D0004, 0, 1⟩
/-- R330, RW. -/ abbrev TEL_CTRL_COARSE_EN : Fld := ⟨0x0D0004, 1, 1⟩
/-- R330, W1S. -/ abbrev TEL_CTRL_PEAK_CLEAR : Fld := ⟨0x0D0004, 2, 1⟩
/-- R330, W1C. -/ abbrev TEL_INT_STATUS_SAT : Fld := ⟨0x0D0008, 0, 1⟩
/-- R330, W1C. -/ abbrev TEL_INT_STATUS_NOREP : Fld := ⟨0x0D0008, 1, 1⟩
/-- R330, W1C. -/ abbrev TEL_INT_STATUS_LATE : Fld := ⟨0x0D0008, 2, 1⟩
/-- R330, W1C. -/ abbrev TEL_INT_STATUS_STRAG_TRUNC : Fld := ⟨0x0D0008, 3, 1⟩
/-- R330, W1C. -/ abbrev TEL_INT_STATUS_READ_MISSED : Fld := ⟨0x0D0008, 4, 1⟩
/-- R330, RO. -/ abbrev TEL_LAST_FLASH_LO_FLASH : Fld := ⟨0x0D0010, 0, 32⟩
/-- R330, RO. -/ abbrev TEL_FINE_INDEX_SLOT : Fld := ⟨0x0D0018, 0, 17⟩
/-- R330, RO. -/ abbrev TEL_COARSE_INDEX_SLOT : Fld := ⟨0x0D001C, 0, 16⟩
/-- R330, RO. -/ abbrev TEL_NOREP_COUNT : Fld := ⟨0x0D0020, 0, 8⟩
/-- R330, RO. -/ abbrev TEL_LATE_COUNT : Fld := ⟨0x0D0024, 0, 32⟩
/-- R330, RO. -/ abbrev TEL_UNROUTABLE_COUNT : Fld := ⟨0x0D0028, 0, 32⟩
/-- R330, RO. -/ abbrev TEL_MISMATCH_COUNT : Fld := ⟨0x0D002C, 0, 32⟩
/-- R330, RW. -/ abbrev TEL_SAT_CTRL_WARN_PM : Fld := ⟨0x0D0030, 0, 10⟩
/-- R330, RW. -/ abbrev TEL_SAT_CTRL_WARN_RUN : Fld := ⟨0x0D0030, 16, 8⟩
/-- R330, RO. -/ abbrev TEL_SAT_STATUS_WARN : Fld := ⟨0x0D0034, 0, 9⟩
/-- R330, RO. -/ abbrev TEL_LAST_READ_FRAMES : Fld := ⟨0x0D0064, 0, 16⟩
/-- R330, RO. -/ abbrev TEL_LAST_READ_MISSED : Fld := ⟨0x0D0064, 16, 16⟩
/-- R361, RO. -/ abbrev WDN_SEC_CAPS_MFG_KEYS : Fld := ⟨0x060800, 0, 4⟩
/-- R361, RO. -/ abbrev WDN_SEC_CAPS_KEY_SLOTS : Fld := ⟨0x060800, 4, 4⟩
/-- R361, RO. -/ abbrev WDN_SEC_CAPS_SIGN_US : Fld := ⟨0x060800, 8, 8⟩
/-- R361, RO. -/ abbrev WDN_SEC_CAPS_VERIFY_US : Fld := ⟨0x060800, 16, 8⟩
/-- R361, RO. -/ abbrev WDN_SEC_STATE_SERVING : Fld := ⟨0x060804, 0, 1⟩
/-- R361, RO. -/ abbrev WDN_SEC_STATE_DEBUG_LOCKED : Fld := ⟨0x060804, 1, 1⟩
/-- R361, RO. -/ abbrev WDN_SEC_STATE_DEBUG_FUSED : Fld := ⟨0x060804, 2, 1⟩
/-- R361, RO. -/ abbrev WDN_SEC_STATE_KEYS : Fld := ⟨0x060804, 4, 4⟩
/-- R361, RO. -/ abbrev WDN_SEC_STATE_PENDING : Fld := ⟨0x060804, 8, 4⟩
/-- R361, RO. -/ abbrev WDN_SEC_STATE_QUEUE : Fld := ⟨0x060804, 16, 8⟩
/-- R361, W1C. -/ abbrev WDN_SEC_INT_STATUS_SEAL_ISSUED : Fld := ⟨0x060808, 0, 1⟩
/-- R361, W1C. -/ abbrev WDN_SEC_INT_STATUS_SEAL_LOW : Fld := ⟨0x060808, 1, 1⟩
/-- R361, W1C. -/ abbrev WDN_SEC_INT_STATUS_KEYGEN_RETIRED : Fld := ⟨0x060808, 2, 1⟩
/-- R361, W1C. -/ abbrev WDN_SEC_INT_STATUS_ENROL_DONE : Fld := ⟨0x060808, 3, 1⟩
/-- R361, W1C. -/ abbrev WDN_SEC_INT_STATUS_ENROL_REFUSED : Fld := ⟨0x060808, 4, 1⟩
/-- R361, W1C. -/ abbrev WDN_SEC_INT_STATUS_QUEUE_FULL : Fld := ⟨0x060808, 5, 1⟩
/-- R361, W1C. -/ abbrev WDN_SEC_INT_STATUS_IDENTITY : Fld := ⟨0x060808, 6, 1⟩
/-- R361, W1C. -/ abbrev WDN_SEC_INT_STATUS_SEAL_DIRECT : Fld := ⟨0x060808, 7, 1⟩
/-- R361, RO. -/ abbrev WDN_FUSE_FUSE_REV : Fld := ⟨0x060810, 0, 16⟩
/-- R361, RO. -/ abbrev WDN_FUSE_DIE_REV : Fld := ⟨0x060810, 16, 8⟩
/-- R361, RO. -/ abbrev WDN_FUSE_SVN_MIN : Fld := ⟨0x060810, 24, 8⟩
/-- R361, RO. -/ abbrev WDN_SERIAL_LO_SERIAL : Fld := ⟨0x060814, 0, 32⟩
/-- R361, RO. -/ abbrev WDN_SERIAL_HI_SERIAL : Fld := ⟨0x060818, 0, 32⟩
/-- R361, RO. -/ abbrev WDN_SEALS_COUNT : Fld := ⟨0x060820, 0, 32⟩
/-- R361, RO. -/ abbrev WDN_ATTESTS_COUNT : Fld := ⟨0x060824, 0, 32⟩
/-- R361, RW. -/ abbrev WDN_SCRUB_PAGES_PER_FLASH : Fld := ⟨0x060828, 0, 16⟩
/-- R361, RW. -/ abbrev WDN_SCRUB_SCRUB_EN : Fld := ⟨0x060828, 16, 1⟩
/-- R361, RW. -/ abbrev WDN_SEAL_CTRL_SUPERSEDE_FLASHES : Fld := ⟨0x06082C, 0, 8⟩
/-- R361, RW. -/ abbrev WDN_SEAL_CTRL_DELIVER_MAX : Fld := ⟨0x06082C, 8, 5⟩
/-- R361, RO. -/ abbrev WDN_SLICE_KEYGEN_KEYGEN : Fld := ⟨0x060830, 0, 16⟩
/-- R361, RO. -/ abbrev WDN_SLICE_KEYGEN_OLD_LIVE : Fld := ⟨0x060830, 16, 1⟩
/-- R361, RO. -/ abbrev WDN_SLICE_KEYGEN_ROTATE_PENDING : Fld := ⟨0x060830, 17, 1⟩
/-- R361, RO. -/ abbrev WDN_SLICE_OLDPAGES_PAGES : Fld := ⟨0x060834, 0, 24⟩
/-- R361, RO. -/ abbrev WDN_SLICE_ISSUE_LO_FLASH : Fld := ⟨0x060838, 0, 32⟩
/-- R361, RO. -/ abbrev WDN_SLICE_EXPIRY_LO_FLASH : Fld := ⟨0x060840, 0, 32⟩
/-- R361, RW. -/ abbrev WDN_ROTATE_SLICE : Fld := ⟨0x060848, 0, 8⟩
/-- R361, W1S. -/ abbrev WDN_ROTATE_GO : Fld := ⟨0x060848, 8, 1⟩
/-- R361, RW. -/ abbrev WDN_ENROL_CTRL_SLOT : Fld := ⟨0x060850, 0, 2⟩
/-- R361, RW. -/ abbrev WDN_ENROL_CTRL_ACTION : Fld := ⟨0x060850, 2, 2⟩
/-- R361, W1S. -/ abbrev WDN_ENROL_CTRL_GO : Fld := ⟨0x060850, 4, 1⟩
/-- R361, RW. -/ abbrev WDN_ENROL_CTRL_LEN : Fld := ⟨0x060850, 16, 16⟩
/-- R361, RO. -/ abbrev WDN_ENROL_STATUS_STATE : Fld := ⟨0x060854, 0, 2⟩
/-- R361, RO. -/ abbrev WDN_ENROL_STATUS_REASON : Fld := ⟨0x060854, 4, 4⟩
/-- R361, RW. -/ abbrev WDN_ENROL_ADDR_LO_ADDR : Fld := ⟨0x060858, 0, 32⟩
/-- R361, RW. -/ abbrev WDN_ENROL_ADDR_HI_ADDR : Fld := ⟨0x06085C, 0, 32⟩
/-- R389, RO. -/ abbrev MOR_CAPS_JOURNAL_FLASHES : Fld := ⟨0x0E0000, 0, 4⟩
/-- R389, RO. -/ abbrev MOR_CAPS_CARRY_MAX : Fld := ⟨0x0E0000, 4, 4⟩
/-- R389, RO. -/ abbrev MOR_CAPS_SEL_LINKS_MAX : Fld := ⟨0x0E0000, 8, 8⟩
/-- R389, RO. -/ abbrev MOR_CAPS_IMAGE_MAX_MIB : Fld := ⟨0x0E0000, 16, 16⟩
/-- R389, RW. -/ abbrev MOR_CTRL_MIRROR_EN : Fld := ⟨0x0E0004, 0, 1⟩
/-- R389, RW. -/ abbrev MOR_CTRL_SELECT_EN : Fld := ⟨0x0E0004, 1, 1⟩
/-- R389, RW. -/ abbrev MOR_CTRL_SELFTEST_EN : Fld := ⟨0x0E0004, 2, 1⟩
/-- R389, W1S. -/ abbrev MOR_CTRL_HANDOVER : Fld := ⟨0x0E0004, 3, 1⟩
/-- R389, W1S. -/ abbrev MOR_CTRL_RESYNC_REQ : Fld := ⟨0x0E0004, 4, 1⟩
/-- R389, W1C. -/ abbrev MOR_INT_STATUS_TAKEOVER : Fld := ⟨0x0E0008, 0, 1⟩
/-- R389, W1C. -/ abbrev MOR_INT_STATUS_RELINQUISHED : Fld := ⟨0x0E0008, 1, 1⟩
/-- R389, W1C. -/ abbrev MOR_INT_STATUS_STALE : Fld := ⟨0x0E0008, 2, 1⟩
/-- R389, W1C. -/ abbrev MOR_INT_STATUS_MOORING_DOWN : Fld := ⟨0x0E0008, 3, 1⟩
/-- R389, W1C. -/ abbrev MOR_INT_STATUS_RESYNC_DONE : Fld := ⟨0x0E0008, 4, 1⟩
/-- R389, W1C. -/ abbrev MOR_INT_STATUS_CHECK_FAIL : Fld := ⟨0x0E0008, 5, 1⟩
/-- R389, W1C. -/ abbrev MOR_INT_STATUS_SELFTEST_FAIL : Fld := ⟨0x0E0008, 6, 1⟩
/-- R389, W1C. -/ abbrev MOR_INT_STATUS_CARRY : Fld := ⟨0x0E0008, 7, 1⟩
/-- R389, W1C. -/ abbrev MOR_INT_STATUS_HEALTH_CHANGE : Fld := ⟨0x0E0008, 8, 1⟩
/-- R389, RO. -/ abbrev MOR_STATE_ROLE : Fld := ⟨0x0E0010, 0, 1⟩
/-- R389, RO. -/ abbrev MOR_STATE_LIT : Fld := ⟨0x0E0010, 1, 1⟩
/-- R389, RO. -/ abbrev MOR_STATE_GRANT : Fld := ⟨0x0E0010, 2, 1⟩
/-- R389, RO. -/ abbrev MOR_STATE_FIT : Fld := ⟨0x0E0010, 3, 1⟩
/-- R389, RO. -/ abbrev MOR_STATE_IMAGE : Fld := ⟨0x0E0010, 4, 3⟩
/-- R389, RO. -/ abbrev MOR_STATE_PARTNER : Fld := ⟨0x0E0010, 8, 3⟩
/-- R389, RO. -/ abbrev MOR_STATE_MODE : Fld := ⟨0x0E0010, 12, 2⟩
/-- R389, RO. -/ abbrev MOR_HEALTH_UNFIT : Fld := ⟨0x0E0014, 0, 8⟩
/-- R389, RO. -/ abbrev MOR_HEALTH_STALE : Fld := ⟨0x0E0014, 8, 1⟩
/-- R389, RO. -/ abbrev MOR_HEALTH_MOORING_DOWN : Fld := ⟨0x0E0014, 9, 1⟩
/-- R389, RO. -/ abbrev MOR_HEALTH_RESYNCING : Fld := ⟨0x0E0014, 10, 1⟩
/-- R389, RO. -/ abbrev MOR_COMMIT_FLASH_LO_FLASH : Fld := ⟨0x0E0018, 0, 32⟩
/-- R389, RO. -/ abbrev MOR_LAG_UNCOMMITTED : Fld := ⟨0x0E0020, 0, 3⟩
/-- R389, RO. -/ abbrev MOR_LAG_LAST_KIB : Fld := ⟨0x0E0020, 8, 16⟩
/-- R389, RO. -/ abbrev MOR_DELTA_MAX_KIB : Fld := ⟨0x0E0024, 0, 16⟩
/-- R389, RO. -/ abbrev MOR_CARRIES_COUNT : Fld := ⟨0x0E0028, 0, 32⟩
/-- R389, RO. -/ abbrev MOR_TAKEOVERS_TAKEN : Fld := ⟨0x0E002C, 0, 16⟩
/-- R389, RO. -/ abbrev MOR_TAKEOVERS_LOST : Fld := ⟨0x0E002C, 16, 16⟩
/-- R389, RO. -/ abbrev MOR_RESYNC_PROGRESS : Fld := ⟨0x0E0030, 0, 10⟩
/-- R389, RO. -/ abbrev MOR_RESYNC_COUNT : Fld := ⟨0x0E0030, 16, 16⟩
/-- R389, RO. -/ abbrev MOR_SELFTEST_FAILED : Fld := ⟨0x0E0034, 0, 7⟩
/-- R389, RO. -/ abbrev MOR_SELFTEST_CYCLES : Fld := ⟨0x0E0034, 16, 16⟩
/-- R389, RO. -/ abbrev MOR_CHECKS_PASSED : Fld := ⟨0x0E0038, 0, 16⟩
/-- R389, RO. -/ abbrev MOR_CHECKS_FAILED : Fld := ⟨0x0E0038, 16, 16⟩
/-- R389, RW. -/ abbrev MOR_PARAMS_COMMIT_LOSS : Fld := ⟨0x0E003C, 0, 4⟩
/-- R389, RW. -/ abbrev MOR_PARAMS_MIN_SWITCH_PORTS : Fld := ⟨0x0E003C, 8, 8⟩
/-- R389, RW. -/ abbrev MOR_PARAMS_SELFTEST_FLASHES : Fld := ⟨0x0E003C, 16, 16⟩
/-- R389, RW. -/ abbrev MOR_SEL_CTRL_SEL_LINKS : Fld := ⟨0x0E0040, 0, 3⟩
/-- R389, RW. -/ abbrev MOR_SEL_CTRL_SEL_SHARE_PCT : Fld := ⟨0x0E0040, 8, 8⟩
/-- R389, RO. -/ abbrev MOR_JOURNAL_ADOPTED : Fld := ⟨0x0E0044, 0, 16⟩
/-- R389, RO. -/ abbrev MOR_JOURNAL_SHORT : Fld := ⟨0x0E0044, 16, 8⟩
/-- R389, RO. -/ abbrev MOR_JOURNAL_FLASHES : Fld := ⟨0x0E0044, 24, 3⟩
/-- R389, RO. -/ abbrev MOR_GRANT_FLASH_LO_FLASH : Fld := ⟨0x0E0048, 0, 32⟩
/-- R389, RO. -/ abbrev MOR_IMAGE_SIZE_MIB : Fld := ⟨0x0E0050, 0, 16⟩
/-- R389, RO. -/ abbrev MOR_PINS_GRANT : Fld := ⟨0x0E0054, 0, 1⟩
/-- R389, RO. -/ abbrev MOR_PINS_LIT_LINE : Fld := ⟨0x0E0054, 1, 1⟩
/-- R389, RO. -/ abbrev MOR_PINS_HEALTHY : Fld := ⟨0x0E0054, 2, 1⟩
/-- R389, RO. -/ abbrev MOR_PINS_PWR_CYC : Fld := ⟨0x0E0054, 3, 1⟩
/-- R418, RO. -/ abbrev RST_CAPS_MAX_ENGINE : Fld := ⟨0x0F0000, 0, 8⟩
/-- R418, RO. -/ abbrev RST_CAPS_LEVELS : Fld := ⟨0x0F0000, 8, 4⟩
/-- R418, RO. -/ abbrev RST_CAPS_CLASSES : Fld := ⟨0x0F0000, 12, 4⟩
/-- R418, RO. -/ abbrev RST_CAPS_SAMPLE_KIB : Fld := ⟨0x0F0000, 16, 8⟩
/-- R418, RW. -/ abbrev RST_CTRL_HANG_EN : Fld := ⟨0x0F0004, 0, 1⟩
/-- R418, RW. -/ abbrev RST_CTRL_ESC_EN : Fld := ⟨0x0F0004, 1, 1⟩
/-- R418, RW. -/ abbrev RST_CTRL_ESC_ALONE : Fld := ⟨0x0F0004, 2, 1⟩
/-- R418, RW. -/ abbrev RST_CTRL_PWR_CYC_EN : Fld := ⟨0x0F0004, 3, 1⟩
/-- R418, RW. -/ abbrev RST_CTRL_SAMPLE_EN : Fld := ⟨0x0F0004, 4, 1⟩
/-- R418, RW. -/ abbrev RST_CTRL_AUTO_SPARE : Fld := ⟨0x0F0004, 5, 1⟩
/-- R418, W1C. -/ abbrev RST_INT_STATUS_HANG : Fld := ⟨0x0F0008, 0, 1⟩
/-- R418, W1C. -/ abbrev RST_INT_STATUS_RESET_DONE : Fld := ⟨0x0F0008, 1, 1⟩
/-- R418, W1C. -/ abbrev RST_INT_STATUS_ESCALATED : Fld := ⟨0x0F0008, 2, 1⟩
/-- R418, W1C. -/ abbrev RST_INT_STATUS_DEFERRED : Fld := ⟨0x0F0008, 3, 1⟩
/-- R418, W1C. -/ abbrev RST_INT_STATUS_RESERVE : Fld := ⟨0x0F0008, 4, 1⟩
/-- R418, W1C. -/ abbrev RST_INT_STATUS_RESERVE_OUT : Fld := ⟨0x0F0008, 5, 1⟩
/-- R418, W1C. -/ abbrev RST_INT_STATUS_SAMPLE_DROP : Fld := ⟨0x0F0008, 6, 1⟩
/-- R418, W1C. -/ abbrev RST_INT_STATUS_DETECT : Fld := ⟨0x0F0008, 7, 1⟩
/-- R418, RO. -/ abbrev RST_STATE_LEVEL : Fld := ⟨0x0F0010, 0, 3⟩
/-- R418, RO. -/ abbrev RST_STATE_DEFERRED : Fld := ⟨0x0F0010, 3, 1⟩
/-- R418, RO. -/ abbrev RST_STATE_HANG_WINDOW : Fld := ⟨0x0F0010, 8, 8⟩
/-- R418, RO. -/ abbrev RST_STATE_MGEN : Fld := ⟨0x0F0010, 16, 6⟩
/-- R418, RW. -/ abbrev RST_ESC_PARAMS_ESC_WINDOW : Fld := ⟨0x0F0014, 0, 16⟩
/-- R418, RW. -/ abbrev RST_ESC_PARAMS_CHIP_FIT : Fld := ⟨0x0F0014, 16, 8⟩
/-- R418, RW. -/ abbrev RST_MGMT_MGMT_RETRY_US : Fld := ⟨0x0F0018, 0, 8⟩
/-- R418, RW. -/ abbrev RST_MGMT_MGMT_SENDS : Fld := ⟨0x0F0018, 8, 4⟩
/-- R418, RO. -/ abbrev RST_LAST_RESET_LEVEL : Fld := ⟨0x0F001C, 0, 3⟩
/-- R418, RO. -/ abbrev RST_LAST_RESET_ENGINE : Fld := ⟨0x0F001C, 8, 8⟩
/-- R418, RO. -/ abbrev RST_LAST_RESET_SLICE : Fld := ⟨0x0F001C, 16, 8⟩
/-- R418, RO. -/ abbrev RST_LAST_RESET_CAUSE : Fld := ⟨0x0F001C, 24, 4⟩
/-- R418, RO. -/ abbrev RST_LAST_FLASH_LO_FLASH : Fld := ⟨0x0F0020, 0, 32⟩
/-- R418, RO. -/ abbrev RST_COUNT_A_CONTEXT : Fld := ⟨0x0F0028, 0, 16⟩
/-- R418, RO. -/ abbrev RST_COUNT_A_ENGINE : Fld := ⟨0x0F0028, 16, 16⟩
/-- R418, RO. -/ abbrev RST_COUNT_B_SLICE : Fld := ⟨0x0F002C, 0, 8⟩
/-- R418, RO. -/ abbrev RST_COUNT_B_PART : Fld := ⟨0x0F002C, 8, 8⟩
/-- R418, RO. -/ abbrev RST_COUNT_B_CHIP : Fld := ⟨0x0F002C, 16, 8⟩
/-- R418, RW. -/ abbrev RST_ENGINE_SEL_ENGINE : Fld := ⟨0x0F0038, 0, 8⟩
/-- R418, RO. -/ abbrev RST_ENGINE_STATUS_PROGRESS : Fld := ⟨0x0F003C, 0, 16⟩
/-- R418, RO. -/ abbrev RST_ENGINE_STATUS_PENDING : Fld := ⟨0x0F003C, 16, 1⟩
/-- R418, RO. -/ abbrev RST_ENGINE_STATUS_HUNG : Fld := ⟨0x0F003C, 17, 1⟩
/-- R418, RO. -/ abbrev RST_ENGINE_STATUS_IN_RESET : Fld := ⟨0x0F003C, 18, 1⟩
/-- R418, RO. -/ abbrev RST_ENGINE_STATUS_RESETTABLE : Fld := ⟨0x0F003C, 19, 1⟩
/-- R418, RO. -/ abbrev RST_ENGINE_STATUS_STILL : Fld := ⟨0x0F003C, 20, 4⟩
/-- R418, RO. -/ abbrev RST_ENGINE_STATUS_RESETS : Fld := ⟨0x0F003C, 24, 8⟩
/-- R418, RO. -/ abbrev RST_SAMPLES_TAKEN : Fld := ⟨0x0F0064, 0, 16⟩
/-- R418, RO. -/ abbrev RST_SAMPLES_DROPPED : Fld := ⟨0x0F0064, 16, 16⟩
/-- R418, RO. -/ abbrev RST_DETECT_SRAM : Fld := ⟨0x0F0068, 0, 16⟩
/-- R418, RO. -/ abbrev RST_DETECT_HBM : Fld := ⟨0x0F0068, 16, 16⟩
/-- R418, RW. -/ abbrev RST_TEST_ENGINE : Fld := ⟨0x0F006C, 0, 8⟩
/-- R418, W1S. -/ abbrev RST_TEST_STALL : Fld := ⟨0x0F006C, 8, 1⟩
/-- R437, RO. -/ abbrev LOG_CAPS_RING_MIB : Fld := ⟨0x100000, 0, 12⟩
/-- R437, RO. -/ abbrev LOG_CAPS_STAGE_KIB : Fld := ⟨0x100000, 12, 10⟩
/-- R437, RO. -/ abbrev LOG_CAPS_COPY_MIB : Fld := ⟨0x100000, 24, 4⟩
/-- R437, RW. -/ abbrev LOG_CTRL_REPEAT_EN : Fld := ⟨0x100004, 0, 1⟩
/-- R437, RW. -/ abbrev LOG_CTRL_PILOT_EN : Fld := ⟨0x100004, 1, 1⟩
/-- R437, RW. -/ abbrev LOG_CTRL_REPEAT_WINDOW : Fld := ⟨0x100004, 16, 16⟩
/-- R437, W1C. -/ abbrev LOG_INT_STATUS_WRAP : Fld := ⟨0x100008, 0, 1⟩
/-- R437, W1C. -/ abbrev LOG_INT_STATUS_DROPPED : Fld := ⟨0x100008, 1, 1⟩
/-- R437, W1C. -/ abbrev LOG_INT_STATUS_COPY_DONE : Fld := ⟨0x100008, 2, 1⟩
/-- R437, W1C. -/ abbrev LOG_INT_STATUS_COPY_INVALID : Fld := ⟨0x100008, 3, 1⟩
/-- R437, W1C. -/ abbrev LOG_INT_STATUS_LOST : Fld := ⟨0x100008, 4, 1⟩
/-- R437, W1C. -/ abbrev LOG_INT_STATUS_NOTIFY : Fld := ⟨0x100008, 5, 1⟩
/-- R437, RO. -/ abbrev LOG_HEAD_LO_HEAD : Fld := ⟨0x100010, 0, 32⟩
/-- R437, RO. -/ abbrev LOG_HEAD_HI_HEAD : Fld := ⟨0x100014, 0, 32⟩
/-- R437, RO. -/ abbrev LOG_WRAPS_COUNT : Fld := ⟨0x100018, 0, 32⟩
/-- R437, RO. -/ abbrev LOG_DROPPED_RECORDS : Fld := ⟨0x10001C, 0, 16⟩
/-- R437, RO. -/ abbrev LOG_DROPPED_PILOT : Fld := ⟨0x10001C, 16, 16⟩
/-- R437, RO. -/ abbrev LOG_REPEATS_COUNT : Fld := ⟨0x100020, 0, 32⟩
/-- R437, RO. -/ abbrev LOG_STAGE_USED : Fld := ⟨0x100024, 0, 19⟩
/-- R437, RW. -/ abbrev LOG_NOTIFY_AREAS : Fld := ⟨0x100028, 0, 16⟩
/-- R437, RW. -/ abbrev LOG_BAR4_SELECT : Fld := ⟨0x10002C, 0, 4⟩
/-- R437, RO. -/ abbrev LOG_WALL_CHANGE_CHANGE : Fld := ⟨0x100030, 0, 32⟩
/-- R437, RO. -/ abbrev LOG_COPY_VALID : Fld := ⟨0x100034, 0, 2⟩
/-- R437, RO. -/ abbrev LOG_COPY_NEWEST : Fld := ⟨0x100034, 2, 1⟩
/-- R437, RO. -/ abbrev LOG_COPY_WRITING : Fld := ⟨0x100034, 3, 1⟩
/-- R437, RO. -/ abbrev LOG_COPY_COPIES : Fld := ⟨0x100034, 16, 16⟩
/-- R437, RO. -/ abbrev LOG_COPY_FLASH_LO_FLASH : Fld := ⟨0x100038, 0, 32⟩
/-- R485, RO. -/ abbrev HIF_CAPS_WINDOWS : Fld := ⟨0x000000, 0, 8⟩
/-- R485, RO. -/ abbrev HIF_CAPS_VECTORS : Fld := ⟨0x000000, 8, 8⟩
/-- R485, RO. -/ abbrev HIF_CAPS_MAX_OPCODE : Fld := ⟨0x000000, 16, 8⟩
/-- R485, RW. -/ abbrev HIF_CTRL_DMA_EN : Fld := ⟨0x000004, 0, 1⟩
/-- R485, RW. -/ abbrev HIF_CTRL_MAX_SPEED : Fld := ⟨0x000004, 4, 2⟩
/-- R485, W1C. -/ abbrev HIF_INT_STATUS_ERROR : Fld := ⟨0x000008, 0, 1⟩
/-- R485, W1C. -/ abbrev HIF_INT_STATUS_LINK : Fld := ⟨0x000008, 1, 1⟩
/-- R485, RO. -/ abbrev HIF_LINK_SPEED : Fld := ⟨0x000010, 0, 4⟩
/-- R485, RO. -/ abbrev HIF_LINK_WIDTH : Fld := ⟨0x000010, 4, 6⟩
/-- R485, RO. -/ abbrev HIF_LINK_SLOW : Fld := ⟨0x000010, 12, 1⟩
/-- R485, W1C. -/ abbrev HIF_ERR_STATUS_ACCESS : Fld := ⟨0x000014, 0, 1⟩
/-- R485, W1C. -/ abbrev HIF_ERR_STATUS_ENCODING : Fld := ⟨0x000014, 1, 1⟩
/-- R485, W1C. -/ abbrev HIF_ERR_STATUS_IGNORED : Fld := ⟨0x000014, 2, 1⟩
/-- R485, W1C. -/ abbrev HIF_ERR_STATUS_BAR4_WRITE : Fld := ⟨0x000014, 3, 1⟩
/-- R485, W1C. -/ abbrev HIF_ERR_STATUS_WINDOW_BUSY : Fld := ⟨0x000014, 4, 1⟩
/-- R485, W1C. -/ abbrev HIF_ERR_STATUS_CMD_LOCKED : Fld := ⟨0x000014, 5, 1⟩
/-- R485, W1C. -/ abbrev HIF_ERR_STATUS_DMA : Fld := ⟨0x000014, 6, 1⟩
/-- R485, RO. -/ abbrev HIF_ERR_WHERE_BAR : Fld := ⟨0x000018, 0, 2⟩
/-- R485, RO. -/ abbrev HIF_ERR_WHERE_OFFSET : Fld := ⟨0x000018, 2, 30⟩
/-- R485, RO. -/ abbrev HIF_ERR_COUNT_COUNT : Fld := ⟨0x00001C, 0, 32⟩
/-- R485, RO. -/ abbrev HIF_COMMANDS_COUNT : Fld := ⟨0x000024, 0, 32⟩
/-- R485, RO. -/ abbrev HIF_DMA_ERR_WINDOW : Fld := ⟨0x000028, 0, 4⟩
/-- R485, RO. -/ abbrev HIF_DMA_ERR_KIND : Fld := ⟨0x000028, 8, 4⟩
/-- R509, RO. -/ abbrev PWR_CAPS_SENSORS : Fld := ⟨0x110000, 0, 8⟩
/-- R509, RO. -/ abbrev PWR_CAPS_VIN_MAX_V : Fld := ⟨0x110000, 8, 8⟩
/-- R509, RO. -/ abbrev PWR_CAPS_LIMIT_W : Fld := ⟨0x110000, 16, 10⟩
/-- R509, RW. -/ abbrev PWR_CTRL_POWER_CAP_W : Fld := ⟨0x110004, 0, 10⟩
/-- R509, RW. -/ abbrev PWR_CTRL_THROTTLE_EN : Fld := ⟨0x110004, 12, 1⟩
/-- R509, RW. -/ abbrev PWR_CTRL_REF_AUTO : Fld := ⟨0x110004, 13, 1⟩
/-- R509, W1S. -/ abbrev PWR_CTRL_PEAK_CLEAR : Fld := ⟨0x110004, 14, 1⟩
/-- R509, W1C. -/ abbrev PWR_INT_STATUS_WARN : Fld := ⟨0x110008, 0, 1⟩
/-- R509, W1C. -/ abbrev PWR_INT_STATUS_THROTTLE : Fld := ⟨0x110008, 1, 1⟩
/-- R509, W1C. -/ abbrev PWR_INT_STATUS_POWER_CAP : Fld := ⟨0x110008, 2, 1⟩
/-- R509, W1C. -/ abbrev PWR_INT_STATUS_REF_LOST : Fld := ⟨0x110008, 3, 1⟩
/-- R509, W1C. -/ abbrev PWR_INT_STATUS_REF_BACK : Fld := ⟨0x110008, 4, 1⟩
/-- R509, W1C. -/ abbrev PWR_INT_STATUS_VIN_LOW : Fld := ⟨0x110008, 5, 1⟩
/-- R509, RO. -/ abbrev PWR_STATE_LEVEL : Fld := ⟨0x110010, 0, 2⟩
/-- R509, RO. -/ abbrev PWR_STATE_REF : Fld := ⟨0x110010, 2, 1⟩
/-- R509, RO. -/ abbrev PWR_STATE_SHUT_CAUSE : Fld := ⟨0x110010, 4, 2⟩
/-- R509, RO. -/ abbrev PWR_STATE_TRIPPED : Fld := ⟨0x110010, 6, 1⟩
/-- R509, RO. -/ abbrev PWR_INPUT_VIN : Fld := ⟨0x110014, 0, 14⟩
/-- R509, RO. -/ abbrev PWR_INPUT_IIN : Fld := ⟨0x110014, 16, 16⟩
/-- R509, RO. -/ abbrev PWR_POWER_NOW : Fld := ⟨0x110018, 0, 10⟩
/-- R509, RO. -/ abbrev PWR_POWER_PEAK : Fld := ⟨0x110018, 16, 10⟩
/-- R509, RO. -/ abbrev PWR_TEMP_TJ_MAX : Fld := ⟨0x11001C, 0, 8⟩
/-- R509, RO. -/ abbrev PWR_TEMP_SENSOR : Fld := ⟨0x11001C, 8, 4⟩
/-- R509, RO. -/ abbrev PWR_TEMP_PLATE : Fld := ⟨0x11001C, 16, 8⟩
/-- R509, RW. -/ abbrev PWR_TLIMIT_TJ_WARN : Fld := ⟨0x110020, 0, 8⟩
/-- R509, RW. -/ abbrev PWR_TLIMIT_TJ_THROTTLE : Fld := ⟨0x110020, 8, 8⟩
/-- R509, RO. -/ abbrev PWR_ENERGY_JOULES : Fld := ⟨0x110024, 0, 32⟩
/-- R509, RO. -/ abbrev PWR_RAILS_GOOD : Fld := ⟨0x110028, 0, 9⟩
/-- R509, RO. -/ abbrev PWR_STRAPS_ROLE : Fld := ⟨0x11002C, 0, 1⟩
/-- R509, RO. -/ abbrev PWR_STRAPS_POS_X : Fld := ⟨0x11002C, 4, 3⟩
/-- R509, RO. -/ abbrev PWR_STRAPS_POS_Y : Fld := ⟨0x11002C, 8, 3⟩
/-- R509, RO. -/ abbrev PWR_THROTTLED_COUNT : Fld := ⟨0x110030, 0, 32⟩
end Fld

/-- The HIF rows of the register index. -/
def regRowsHif : List RegRow := [
  ⟨0x000000, 1, 4, 0x00104010, 0x00000000, 0x00000000, 0x00000000, 0x00000000, []⟩,
  ⟨0x000004, 1, 4, 0x00000001, 0x00000031, 0x00000000, 0x00000000, 0x00000000, [⟨4, 2, 0, 2⟩]⟩,
  ⟨0x000008, 1, 4, 0x00000000, 0x00000000, 0x00000003, 0x00000000, 0x00000000, []⟩,
  ⟨0x00000C, 1, 4, 0x00000000, 0x00000003, 0x00000000, 0x00000000, 0x00000000, []⟩,
  ⟨0x000010, 1, 4, 0x00000000, 0x00000000, 0x00000000, 0x00000000, 0x00000000, []⟩,
  ⟨0x000014, 1, 4, 0x00000000, 0x00000000, 0x0000007F, 0x00000000, 0x00000000, []⟩,
  ⟨0x000018, 1, 4, 0x00000000, 0x00000000, 0x00000000, 0x00000000, 0x00000000, []⟩,
  ⟨0x00001C, 1, 4, 0x00000000, 0x00000000, 0x00000000, 0x00000000, 0x00000000, []⟩,
  ⟨0x000020, 1, 4, 0x00000000, 0x00000000, 0x00000000, 0x00000000, 0x00000000, []⟩,
  ⟨0x000024, 1, 4, 0x00000000, 0x00000000, 0x00000000, 0x00000000, 0x00000000, []⟩,
  ⟨0x000028, 1, 4, 0x00000000, 0x00000000, 0x00000000, 0x00000000, 0x00000000, []⟩]

/-- The CHT rows of the register index. -/
def regRowsCht : List RegRow := [
  ⟨0x010000, 1, 4, 0x0000044C, 0x00000000, 0x00000000, 0x00000000, 0x00000000, []⟩,
  ⟨0x010004, 1, 4, 0x00000000, 0x00000000, 0x00000000, 0x00000000, 0x00000000, []⟩,
  ⟨0x010008, 1, 4, 0x00000000, 0x00000000, 0x0000003F, 0x00000000, 0x00000000, []⟩,
  ⟨0x01000C, 1, 4, 0x00000000, 0x0000003F, 0x00000000, 0x00000000, 0x00000000, []⟩,
  ⟨0x010010, 4, 4, 0x00000000, 0x00000000, 0x00000000, 0x00000000, 0x00000000, []⟩,
  ⟨0x010020, 1, 4, 0x00000000, 0x0000001F, 0x00000000, 0x00000000, 0x00000000, []⟩,
  ⟨0x010024, 1, 4, 0x00000000, 0xFFFFFFFF, 0x00000000, 0x00000000, 0x00000000, []⟩,
  ⟨0x010028, 1, 4, 0x00000000, 0x00000000, 0x00000000, 0x00000000, 0x00000000, []⟩,
  ⟨0x01002C, 1, 4, 0x00000000, 0x00000000, 0x00000000, 0x00000000, 0x00000000, []⟩,
  ⟨0x010030, 1, 4, 0x00000000, 0x00000000, 0x00000000, 0x00000000, 0x00000000, []⟩,
  ⟨0x010034, 1, 4, 0x00000000, 0x00000000, 0x00000000, 0x00000000, 0x00000000, []⟩,
  ⟨0x010038, 1, 4, 0x00000000, 0x00000000, 0x00000000, 0x00000000, 0x00000000, []⟩,
  ⟨0x01003C, 1, 4, 0x00000000, 0x00000000, 0x00000000, 0x00000000, 0x00000000, []⟩,
  ⟨0x010040, 1, 4, 0x00000000, 0x00000000, 0x00000000, 0x00000000, 0x00000000, []⟩,
  ⟨0x010044, 1, 4, 0x00000000, 0x00000000, 0x00000000, 0x00000000, 0x00000000, []⟩,
  ⟨0x010080, 16, 4, 0x00000000, 0x00000000, 0x00000000, 0x00000000, 0x00000000, []⟩,
  ⟨0x0100C0, 16, 4, 0x00000000, 0x00000000, 0x00000000, 0x00000000, 0x00000000, []⟩]

/-- The DSC rows of the register index. -/
def regRowsDsc : List RegRow := [
  ⟨0x020000, 1, 4, 0x09241815, 0x00000000, 0x00000000, 0x00000000, 0x00000000, []⟩,
  ⟨0x020004, 1, 4, 0x00000007, 0x00000007, 0x00000000, 0x00000000, 0x00000000, []⟩,
  ⟨0x020008, 1, 4, 0x00000000, 0x00000000, 0x0000007F, 0x00000000, 0x00000000, []⟩,
  ⟨0x02000C, 1, 4, 0x00000000, 0x0000007F, 0x00000000, 0x00000000, 0x00000000, []⟩,
  ⟨0x020010, 1, 4, 0x00104085, 0x00FFFFFF, 0x00000000, 0x00000000, 0x00000000, [⟨0, 4, 3, 9⟩, ⟨4, 8, 1, 255⟩, ⟨12, 8, 1, 255⟩, ⟨20, 4, 1, 15⟩]⟩,
  ⟨0x020014, 1, 4, 0x00080644, 0x000FFFFF, 0x00000000, 0x00000000, 0x00000000, [⟨0, 4, 2, 15⟩, ⟨4, 12, 1, 4095⟩, ⟨16, 4, 1, 15⟩]⟩,
  ⟨0x020018, 1, 4, 0x00460064, 0x007FFFFF, 0x00000000, 0x00000000, 0x00000000, [⟨0, 16, 1, 65535⟩, ⟨16, 7, 10, 90⟩]⟩,
  ⟨0x02001C, 1, 4, 0x00000000, 0xFFFF001F, 0x00000000, 0x00000100, 0x00000000, [⟨16, 16, 1, 65535⟩]⟩,
  ⟨0x020020, 1, 4, 0x00000000, 0x00000000, 0x00000000, 0x00000000, 0x00000000, []⟩,
  ⟨0x020024, 1, 4, 0x00000000, 0x00000000, 0x00000000, 0x00000000, 0x0000011F, []⟩,
  ⟨0x020028, 1, 4, 0x00000000, 0x00000000, 0x00000000, 0x00000000, 0x00000000, []⟩,
  ⟨0x02002C, 1, 4, 0x00000000, 0x00000000, 0x00000000, 0x00000000, 0x00000000, []⟩,
  ⟨0x020030, 1, 4, 0x00000000, 0x00000000, 0x00000000, 0x00000000, 0x00000000, []⟩,
  ⟨0x020100, 21, 32, 0x00000000, 0x00000000, 0x00000000, 0x00000000, 0x00000000, []⟩,
  ⟨0x020104, 21, 32, 0x00000000, 0x00000000, 0x00000000, 0x00000000, 0x00000000, []⟩,
  ⟨0x020108, 21, 32, 0x00000000, 0x00000000, 0x00000000, 0x00000000, 0x00000000, []⟩,
  ⟨0x02010C, 21, 32, 0x00000000, 0x00000000, 0x00000000, 0x00000000, 0x00000000, []⟩,
  ⟨0x020110, 21, 32, 0x00000000, 0x00000000, 0x00000000, 0x00000000, 0x00000000, []⟩,
  ⟨0x020114, 21, 32, 0x00000000, 0x00000000, 0x00000000, 0x00000000, 0x00000000, []⟩,
  ⟨0x020118, 21, 32, 0x00000000, 0x00000000, 0x00000000, 0x00000000, 0x00000000, []⟩,
  ⟨0x02011C, 21, 32, 0x00000000, 0x00000000, 0x00000000, 0x00000000, 0x00000000, []⟩,
  ⟨0x020400, 24, 4, 0x00000000, 0x00000000, 0x00000000, 0x00000000, 0x00000000, []⟩]

/-- The SLV rows of the register index. -/
def regRowsSlv : List RegRow := [
  ⟨0x040000, 1, 4, 0x00402440, 0x00000000, 0x00000000, 0x00000000, 0x00000000, []⟩,
  ⟨0x040004, 1, 4, 0x00001901, 0x0000FF01, 0x00000000, 0x00000002, 0x00000000, [⟨8, 8, 1, 100⟩]⟩,
  ⟨0x040008, 1, 4, 0x00000000, 0x00000000, 0x000000FF, 0x00000000, 0x00000000, []⟩,
  ⟨0x04000C, 1, 4, 0x00000000, 0x000000FF, 0x00000000, 0x00000000, 0x00000000, []⟩,
  ⟨0x040010, 1, 4, 0x00000000, 0x00000000, 0x00000000, 0x00000000, 0x00000000, []⟩,
  ⟨0x040014, 1, 4, 0x002007D0, 0x00FF1FFF, 0x00000000, 0x00000000, 0x00000000, [⟨0, 13, 500, 8000⟩, ⟨16, 8, 8, 255⟩]⟩,
  ⟨0x040018, 1, 4, 0x00000000, 0x00000000, 0x00000000, 0x00000000, 0x00000000, []⟩,
  ⟨0x04001C, 1, 4, 0x00000000, 0x00000000, 0x00000000, 0x00000000, 0x00000000, []⟩,
  ⟨0x040020, 1, 4, 0x00000000, 0x00000000, 0x00000000, 0x00000000, 0x00000000, []⟩,
  ⟨0x040024, 1, 4, 0x00000000, 0x00000000, 0x00000000, 0x00000000, 0x00000000, []⟩,
  ⟨0x040028, 1, 4, 0x00000000, 0x00000000, 0x00000000, 0x00000000, 0x00000000, []⟩,
  ⟨0x04002C, 1, 4, 0x00000000, 0x00000000, 0x00000000, 0x00000000, 0x00000000, []⟩,
  ⟨0x040030, 1, 4, 0x00000000, 0x00000000, 0x00000000, 0x00000000, 0x00000000, []⟩,
  ⟨0x040034, 1, 4, 0x00000000, 0x00000000, 0x00000000, 0x00000000, 0x00000000, []⟩,
  ⟨0x040038, 1, 4, 0x00000040, 0x00000000, 0x00000000, 0x00000000, 0x00000000, []⟩,
  ⟨0x04003C, 1, 4, 0x00000000, 0x00000000, 0x00000000, 0x00000000, 0x00000000, []⟩,
  ⟨0x040040, 1, 4, 0x00000000, 0x00000000, 0x00000000, 0x00000000, 0x00000000, []⟩,
  ⟨0x040044, 1, 4, 0x00000000, 0x00000000, 0x00000000, 0x00000000, 0x00000000, []⟩,
  ⟨0x040048, 1, 4, 0x00000000, 0x00000000, 0x00000000, 0x00000000, 0x00000000, []⟩,
  ⟨0x04004C, 1, 4, 0x00000000, 0x00000000, 0x00000000, 0x00000000, 0x00000000, []⟩,
  ⟨0x040050, 1, 4, 0x00000000, 0x00000000, 0x00000000, 0x00000000, 0x00000000, []⟩,
  ⟨0x040054, 1, 4, 0x00000000, 0x00000000, 0x00000000, 0x00000000, 0x00000000, []⟩,
  ⟨0x040058, 1, 4, 0x00000000, 0x00000000, 0x00000000, 0x00000000, 0x00000000, []⟩,
  ⟨0x040080, 16, 4, 0x00000000, 0x00000000, 0x00000000, 0x00000000, 0x00000000, []⟩,
  ⟨0x0400C0, 16, 4, 0x00000000, 0x00000000, 0x00000000, 0x00000000, 0x00000000, []⟩,
  ⟨0x040100, 8, 4, 0x00000000, 0x00000000, 0x00000000, 0x00000000, 0x00000000, []⟩,
  ⟨0x040200, 1, 4, 0x00000000, 0x00000000, 0x00000000, 0x00000000, 0x00000000, []⟩,
  ⟨0x040204, 1, 4, 0x00000000, 0x00000000, 0x00000000, 0x00000000, 0x00000000, []⟩,
  ⟨0x040208, 1, 4, 0x00000000, 0x00000000, 0x00000000, 0x00000000, 0x00000000, []⟩,
  ⟨0x04020C, 1, 4, 0x00000000, 0x00000000, 0x00000000, 0x00000000, 0x00000000, []⟩]

/-- The WDN rows of the register index. -/
def regRowsWdn : List RegRow := [
  ⟨0x060000, 1, 4, 0x40400100, 0x00000000, 0x00000000, 0x00000000, 0x00000000, []⟩,
  ⟨0x060004, 1, 4, 0x000001F4, 0x0000FFFF, 0x00000000, 0x00000000, 0x00000000, [⟨0, 16, 16, 65535⟩]⟩,
  ⟨0x060008, 1, 4, 0x00000000, 0x00000000, 0x0000003F, 0x00000000, 0x00000000, []⟩,
  ⟨0x06000C, 1, 4, 0x00000000, 0x0000003F, 0x00000000, 0x00000000, 0x00000000, []⟩,
  ⟨0x060010, 1, 4, 0x00000000, 0x00000000, 0x00000000, 0x00000000, 0x00000000, []⟩,
  ⟨0x060014, 1, 4, 0x00000000, 0x00000000, 0x00000000, 0x00000000, 0x00000000, []⟩,
  ⟨0x060018, 1, 4, 0x00000000, 0x00000000, 0x00000000, 0x00000000, 0x00000000, []⟩,
  ⟨0x06001C, 1, 4, 0x00000000, 0x00000000, 0x00000000, 0x00000000, 0x00000000, []⟩,
  ⟨0x060020, 1, 4, 0x00000000, 0x00000000, 0x00000000, 0x00000000, 0x00000000, []⟩,
  ⟨0x060024, 1, 4, 0x00000000, 0x00000000, 0x00000000, 0x00000000, 0x00000000, []⟩,
  ⟨0x060030, 1, 4, 0x00000000, 0x000000FF, 0x00000000, 0x00000000, 0x00000000, []⟩,
  ⟨0x060034, 1, 4, 0x00000000, 0x00000000, 0x00000000, 0x00000000, 0x00000000, []⟩,
  ⟨0x060038, 1, 4, 0x00000000, 0x00000000, 0x00000000, 0x00000000, 0x00000000, []⟩,
  ⟨0x06003C, 1, 4, 0x00000000, 0x00000000, 0x00000000, 0x00000000, 0x00000000, []⟩,
  ⟨0x060040, 1, 4, 0x00000000, 0x00000000, 0x00000000, 0x00000000, 0x00000000, []⟩,
  ⟨0x060044, 1, 4, 0x00000000, 0x00000000, 0x00000000, 0x00000000, 0x00000000, []⟩,
  ⟨0x060048, 1, 4, 0x00000000, 0x00000000, 0x00000000, 0x00000000, 0x00000000, []⟩,
  ⟨0x06004C, 1, 4, 0x00000000, 0x00000000, 0x00000000, 0x00000000, 0x00000000, []⟩,
  ⟨0x060050, 1, 4, 0x00000000, 0x00000000, 0x00000000, 0x00000000, 0x00000000, []⟩,
  ⟨0x060054, 1, 4, 0x00000000, 0x00000000, 0x00000000, 0x00000000, 0x00000000, []⟩,
  ⟨0x060058, 1, 4, 0x00000000, 0x00000000, 0x00000000, 0x00000000, 0x00000000, []⟩,
  ⟨0x060060, 1, 4, 0x00000000, 0x00000000, 0x00000000, 0x00000000, 0x00000000, []⟩,
  ⟨0x060080, 8, 4, 0x00000000, 0x00000000, 0x00000000, 0x00000000, 0x00000000, []⟩,
  ⟨0x060800, 1, 4, 0x003C3244, 0x00000000, 0x00000000, 0x00000000, 0x00000000, []⟩,
  ⟨0x060804, 1, 4, 0x00000000, 0x00000000, 0x00000000, 0x00000000, 0x00000000, []⟩,
  ⟨0x060808, 1, 4, 0x00000000, 0x00000000, 0x000000FF, 0x00000000, 0x00000000, []⟩,
  ⟨0x06080C, 1, 4, 0x00000000, 0x000000FF, 0x00000000, 0x00000000, 0x00000000, []⟩,
  ⟨0x060810, 1, 4, 0x00000000, 0x00000000, 0x00000000, 0x00000000, 0x00000000, []⟩,
  ⟨0x060814, 1, 4, 0x00000000, 0x00000000, 0x00000000, 0x00000000, 0x00000000, []⟩,
  ⟨0x060818, 1, 4, 0x00000000, 0x00000000, 0x00000000, 0x00000000, 0x00000000, []⟩,
  ⟨0x060820, 1, 4, 0x00000000, 0x00000000, 0x00000000, 0x00000000, 0x00000000, []⟩,
  ⟨0x060824, 1, 4, 0x00000000, 0x00000000, 0x00000000, 0x00000000, 0x00000000, []⟩,
  ⟨0x060828, 1, 4, 0x00010040, 0x0001FFFF, 0x00000000, 0x00000000, 0x00000000, [⟨0, 16, 1, 65535⟩]⟩,
  ⟨0x06082C, 1, 4, 0x00001040, 0x00001FFF, 0x00000000, 0x00000000, 0x00000000, [⟨0, 8, 8, 255⟩, ⟨8, 5, 1, 31⟩]⟩,
  ⟨0x060830, 1, 4, 0x00000000, 0x00000000, 0x00000000, 0x00000000, 0x00000000, []⟩,
  ⟨0x060834, 1, 4, 0x00000000, 0x00000000, 0x00000000, 0x00000000, 0x00000000, []⟩,
  ⟨0x060838, 1, 4, 0x00000000, 0x00000000, 0x00000000, 0x00000000, 0x00000000, []⟩,
  ⟨0x06083C, 1, 4, 0x00000000, 0x00000000, 0x00000000, 0x00000000, 0x00000000, []⟩,
  ⟨0x060840, 1, 4, 0x00000000, 0x00000000, 0x00000000, 0x00000000, 0x00000000, []⟩,
  ⟨0x060844, 1, 4, 0x00000000, 0x00000000, 0x00000000, 0x00000000, 0x00000000, []⟩,
  ⟨0x060848, 1, 4, 0x00000000, 0x000000FF, 0x00000000, 0x00000100, 0x00000000, [⟨0, 8, 1, 255⟩]⟩,
  ⟨0x060850, 1, 4, 0x00000000, 0xFFFF000F, 0x00000000, 0x00000010, 0x00000000, [⟨2, 2, 1, 2⟩]⟩,
  ⟨0x060854, 1, 4, 0x00000000, 0x00000000, 0x00000000, 0x00000000, 0x00000000, []⟩,
  ⟨0x060858, 1, 4, 0x00000000, 0xFFFFFFFF, 0x00000000, 0x00000000, 0x00000000, []⟩,
  ⟨0x06085C, 1, 4, 0x00000000, 0xFFFFFFFF, 0x00000000, 0x00000000, 0x00000000, []⟩,
  ⟨0x060880, 8, 4, 0x00000000, 0x00000000, 0x00000000, 0x00000000, 0x00000000, []⟩,
  ⟨0x060900, 16, 4, 0x00000000, 0x00000000, 0x00000000, 0x00000000, 0x00000000, []⟩,
  ⟨0x060940, 16, 4, 0x00000000, 0x00000000, 0x00000000, 0x00000000, 0x00000000, []⟩]

/-- The CLP rows of the register index. -/
def regRowsClp : List RegRow := [
  ⟨0x080000, 1, 4, 0x0F100800, 0x00000000, 0x00000000, 0x00000000, 0x00000000, []⟩,
  ⟨0x080004, 1, 4, 0x00400003, 0x00FF0003, 0x00000000, 0x00000000, 0x00000000, [⟨16, 8, 16, 255⟩]⟩,
  ⟨0x080008, 1, 4, 0x00000000, 0x00000000, 0x000000FF, 0x00000000, 0x00000000, []⟩,
  ⟨0x08000C, 1, 4, 0x00000000, 0x000000FF, 0x00000000, 0x00000000, 0x00000000, []⟩,
  ⟨0x080010, 1, 4, 0x00000000, 0x00000000, 0x00000000, 0x00000000, 0x00000000, []⟩,
  ⟨0x080014, 1, 4, 0x00000000, 0x00000000, 0x00000000, 0x00000000, 0x00000000, []⟩,
  ⟨0x080018, 1, 4, 0x00000000, 0x00000000, 0x00000000, 0x00000000, 0x00000000, []⟩,
  ⟨0x08001C, 1, 4, 0x00000000, 0x00000000, 0x00000000, 0x00000000, 0x00000000, []⟩,
  ⟨0x080020, 1, 4, 0x00000000, 0x00000000, 0x00000000, 0x00000000, 0x00000000, []⟩,
  ⟨0x080024, 1, 4, 0x00000000, 0x00000000, 0x00000000, 0x00000000, 0x00000000, []⟩,
  ⟨0x080028, 1, 4, 0x00000000, 0x00000000, 0x00000000, 0x00000000, 0x00000000, []⟩,
  ⟨0x08002C, 1, 4, 0x00000000, 0x00000000, 0x00000000, 0x00000000, 0x00000000, []⟩,
  ⟨0x080030, 1, 4, 0x00000000, 0x000007FF, 0x00000000, 0x00000000, 0x00000000, []⟩,
  ⟨0x080034, 1, 4, 0x00000000, 0x00000000, 0x00000000, 0x00000000, 0x00000000, []⟩,
  ⟨0x080038, 1, 4, 0x00000000, 0x00000000, 0x00000000, 0x00000000, 0x00000000, []⟩,
  ⟨0x08003C, 1, 4, 0x00000000, 0x00000000, 0x00000000, 0x00000000, 0x00000000, []⟩,
  ⟨0x080040, 1, 4, 0x00000000, 0x00000000, 0x00000000, 0x00000000, 0x00000000, []⟩,
  ⟨0x080044, 1, 4, 0x00000000, 0x00000000, 0x00000000, 0x00000000, 0x00000000, []⟩,
  ⟨0x080048, 1, 4, 0x00000000, 0x00000000, 0x00000000, 0x00000000, 0x00000000, []⟩,
  ⟨0x08004C, 1, 4, 0x00000000, 0x00000000, 0x00000000, 0x00000000, 0x00000000, []⟩,
  ⟨0x080050, 1, 4, 0x00000000, 0x00000000, 0x00000000, 0x00000000, 0x00000000, []⟩,
  ⟨0x080054, 1, 4, 0x00000000, 0x00000000, 0x00000000, 0x00000000, 0x00000000, []⟩,
  ⟨0x080060, 1, 4, 0x00000814, 0xFFFF0FFF, 0x00000000, 0x00000000, 0x00000000, [⟨0, 8, 4, 255⟩, ⟨8, 4, 2, 15⟩]⟩,
  ⟨0x080064, 1, 4, 0x07D00010, 0xFFFF00FF, 0x00000000, 0x00000000, 0x00000000, [⟨0, 8, 1, 255⟩, ⟨16, 16, 100, 65535⟩]⟩,
  ⟨0x080068, 1, 4, 0x00000000, 0x00000000, 0x000000FF, 0x00000000, 0x00000000, []⟩,
  ⟨0x08006C, 1, 4, 0x00000000, 0x000000FF, 0x00000000, 0x00000000, 0x00000000, []⟩,
  ⟨0x080070, 1, 4, 0x00000000, 0x00000000, 0x00000000, 0x00000000, 0x00000000, []⟩,
  ⟨0x080074, 1, 4, 0x00000000, 0x00000000, 0x00000000, 0x00000000, 0x00000000, []⟩,
  ⟨0x080078, 1, 4, 0x00000000, 0x00000000, 0x00000000, 0x00000000, 0x00000000, []⟩,
  ⟨0x08007C, 1, 4, 0x00000000, 0x00000000, 0x00000000, 0x00000000, 0x00000000, []⟩,
  ⟨0x080080, 1, 4, 0x00000000, 0x00000000, 0x00000000, 0x00000000, 0x00000000, []⟩,
  ⟨0x080084, 1, 4, 0x00000000, 0x00000000, 0x00000000, 0x00000000, 0x00000000, []⟩,
  ⟨0x080088, 1, 4, 0x00000000, 0x00000000, 0x00000000, 0x00000000, 0x00000000, []⟩,
  ⟨0x08008C, 1, 4, 0x00000000, 0x00000000, 0x00000000, 0x00000000, 0x00000000, []⟩]

/-- The LMP rows of the register index. -/
def regRowsLmp : List RegRow := [
  ⟨0x0A0000, 1, 4, 0xC0100220, 0x00000000, 0x00000000, 0x00000000, 0x00000000, []⟩,
  ⟨0x0A0004, 1, 4, 0x00400301, 0xFFFF0F01, 0x00000000, 0x00000000, 0x00000000, [⟨8, 4, 1, 15⟩, ⟨16, 16, 1, 65535⟩]⟩,
  ⟨0x0A0008, 1, 4, 0x00000000, 0x00000000, 0x000000FF, 0x00000000, 0x00000000, []⟩,
  ⟨0x0A000C, 1, 4, 0x00000000, 0x000000FF, 0x00000000, 0x00000000, 0x00000000, []⟩,
  ⟨0x0A0010, 1, 4, 0xFFFFFFFF, 0x00000000, 0x00000000, 0x00000000, 0x00000000, []⟩,
  ⟨0x0A0014, 1, 4, 0x00000000, 0x00000000, 0x00000000, 0x00000000, 0x00000000, []⟩,
  ⟨0x0A0018, 1, 4, 0x00000000, 0x00000000, 0x00000000, 0x00000000, 0x00000000, []⟩,
  ⟨0x0A001C, 1, 4, 0x00000000, 0x00000000, 0x00000000, 0x00000000, 0x00000000, []⟩,
  ⟨0x0A0020, 1, 4, 0x00000000, 0x00000000, 0x00000000, 0x00000000, 0x00000000, []⟩,
  ⟨0x0A0024, 1, 4, 0x00000000, 0x00000000, 0x00000000, 0x00000000, 0x00000000, []⟩,
  ⟨0x0A0028, 1, 4, 0x00000000, 0x00000000, 0x00000000, 0x00000000, 0x00000000, []⟩,
  ⟨0x0A002C, 1, 4, 0x00000000, 0x00000000, 0x00000000, 0x00000000, 0x00000000, []⟩,
  ⟨0x0A0030, 1, 4, 0x00000000, 0x00000000, 0x00000000, 0x00000000, 0x00000000, []⟩,
  ⟨0x0A0034, 1, 4, 0x00000000, 0x00000000, 0x00000000, 0x00000000, 0x00000000, []⟩,
  ⟨0x0A0038, 1, 4, 0x00000000, 0x00000000, 0x00000000, 0x00000000, 0x00000000, []⟩,
  ⟨0x0A003C, 1, 4, 0x00000000, 0x00000000, 0x00000000, 0x00000000, 0x00000000, []⟩,
  ⟨0x0A0040, 1, 4, 0x00000000, 0x00000000, 0x00000000, 0x00000000, 0x00000000, []⟩,
  ⟨0x0A0044, 1, 4, 0x00000000, 0x00000000, 0x00000000, 0x00000000, 0x00000000, []⟩,
  ⟨0x0A0048, 1, 4, 0x00000FFE, 0x00000000, 0x00000000, 0x00000000, 0x00000000, []⟩,
  ⟨0x0A0050, 1, 4, 0x00000000, 0x00003F3F, 0x00000000, 0x00010000, 0x00000000, [⟨0, 6, 0, 33⟩]⟩,
  ⟨0x0A0080, 8, 4, 0x00000000, 0x00000000, 0x00000000, 0x00000000, 0x00000000, []⟩]

/-- The LNT rows of the register index. -/
def regRowsLnt : List RegRow := [
  ⟨0x0B0000, 1, 4, 0x00104100, 0x00000000, 0x00000000, 0x00000000, 0x00000000, []⟩,
  ⟨0x0B0004, 1, 4, 0x014007D0, 0x01FF1FFF, 0x00000000, 0x00000000, 0x00000000, [⟨0, 13, 500, 8000⟩, ⟨16, 8, 8, 255⟩]⟩,
  ⟨0x0B0008, 1, 4, 0x00000000, 0x00000000, 0x0000007F, 0x00000000, 0x00000000, []⟩,
  ⟨0x0B000C, 1, 4, 0x00000000, 0x0000007F, 0x00000000, 0x00000000, 0x00000000, []⟩,
  ⟨0x0B0010, 1, 4, 0x00000000, 0x00000000, 0x00000000, 0x00000000, 0x00000000, []⟩,
  ⟨0x0B0014, 1, 4, 0x00000000, 0x00000000, 0x00000000, 0x00000000, 0x00000000, []⟩,
  ⟨0x0B0018, 1, 4, 0x00000000, 0x00000000, 0x00000000, 0x00000000, 0x00000000, []⟩,
  ⟨0x0B001C, 1, 4, 0x00000000, 0x00000000, 0x00000000, 0x00000000, 0x00000000, []⟩,
  ⟨0x0B0020, 1, 4, 0x00000000, 0x00000000, 0x00000000, 0x00000000, 0x00000000, []⟩,
  ⟨0x0B0024, 1, 4, 0x00000000, 0x00000000, 0x00000000, 0x00000000, 0x00000000, []⟩,
  ⟨0x0B0028, 1, 4, 0x00000000, 0x00000000, 0x00000000, 0x00000000, 0x00000000, []⟩,
  ⟨0x0B002C, 1, 4, 0x00000000, 0x00000000, 0x00000000, 0x00000000, 0x00000000, []⟩,
  ⟨0x0B0030, 1, 4, 0x00000000, 0x000000FF, 0x00000000, 0x00000000, 0x00000000, []⟩,
  ⟨0x0B0034, 1, 4, 0x00000000, 0x00000000, 0x00000000, 0x00000000, 0x00000000, []⟩,
  ⟨0x0B0038, 1, 4, 0x00000000, 0x00000000, 0x00000000, 0x00000000, 0x00000000, []⟩,
  ⟨0x0B003C, 1, 4, 0x00000000, 0x00000000, 0x00000000, 0x00000000, 0x00000000, []⟩,
  ⟨0x0B0040, 1, 4, 0x00000000, 0x00000000, 0x00000000, 0x00000000, 0x00000000, []⟩,
  ⟨0x0B0080, 8, 4, 0x00000000, 0x00000000, 0x00000000, 0x00000000, 0x00000000, []⟩]

/-- The TIM rows of the register index. -/
def regRowsTim : List RegRow := [
  ⟨0x0C0000, 1, 4, 0x00321908, 0x00000000, 0x00000000, 0x00000000, 0x00000000, []⟩,
  ⟨0x0C0004, 1, 4, 0x00000017, 0x00000017, 0x00000000, 0x00000008, 0x00000000, []⟩,
  ⟨0x0C0008, 1, 4, 0x00000000, 0x00000000, 0x000000FF, 0x00000000, 0x00000000, []⟩,
  ⟨0x0C000C, 1, 4, 0x00000000, 0x000000FF, 0x00000000, 0x00000000, 0x00000000, []⟩,
  ⟨0x0C0010, 1, 4, 0x00000000, 0x00000000, 0x00000000, 0x00000000, 0x00000000, []⟩,
  ⟨0x0C0014, 1, 4, 0x1004140A, 0xFF0FFFFF, 0x00000000, 0x00000000, 0x00000000, [⟨0, 8, 1, 100⟩, ⟨8, 8, 5, 255⟩, ⟨16, 4, 1, 15⟩, ⟨24, 8, 1, 255⟩]⟩,
  ⟨0x0C0018, 1, 4, 0x03E82710, 0xFFFFFFFF, 0x00000000, 0x00000000, 0x00000000, [⟨0, 16, 16, 65535⟩, ⟨16, 16, 64, 65535⟩]⟩,
  ⟨0x0C001C, 1, 4, 0x00000000, 0x00000000, 0x00000000, 0x00000000, 0x00000000, []⟩,
  ⟨0x0C0020, 1, 4, 0x00000000, 0x00000000, 0x00000000, 0x00000000, 0x00000000, []⟩,
  ⟨0x0C0024, 1, 4, 0x00000000, 0x00000000, 0x00000000, 0x00000000, 0x00000000, []⟩,
  ⟨0x0C0028, 1, 4, 0x00000000, 0x00000000, 0x00000000, 0x00000000, 0x00000000, []⟩,
  ⟨0x0C002C, 1, 4, 0x00000000, 0x00000000, 0x00000000, 0x00000000, 0x00000000, []⟩,
  ⟨0x0C0030, 1, 4, 0x3F3F0000, 0x00000000, 0x00000000, 0x00000000, 0x00000000, []⟩,
  ⟨0x0C0034, 1, 4, 0x00000000, 0xFFFFFFFF, 0x00000000, 0x00000000, 0x00000000, []⟩,
  ⟨0x0C0038, 1, 4, 0x00000000, 0x0000FFFF, 0x00000000, 0x00000000, 0x00000000, []⟩,
  ⟨0x0C003C, 1, 4, 0x00000000, 0x00000000, 0x00000000, 0x00000000, 0x00000000, []⟩,
  ⟨0x0C0040, 1, 4, 0x00000000, 0x00000000, 0x00000000, 0x00000000, 0x00000000, []⟩,
  ⟨0x0C0044, 1, 4, 0x00000000, 0x00000000, 0x00000000, 0x00000000, 0x00000000, []⟩,
  ⟨0x0C0048, 1, 4, 0x00000000, 0x00000000, 0x00000000, 0x00000000, 0x00000000, []⟩,
  ⟨0x0C0050, 1, 4, 0x00000000, 0xFFFFFFFF, 0x00000000, 0x00000000, 0x00000000, []⟩,
  ⟨0x0C0054, 1, 4, 0x00000000, 0xFFFFFFFF, 0x00000000, 0x00000000, 0x00000000, []⟩,
  ⟨0x0C0058, 1, 4, 0x00000000, 0xFFFFFF00, 0x00000000, 0x00000001, 0x00000000, []⟩,
  ⟨0x0C0060, 1, 4, 0x00000000, 0x00000000, 0x00000000, 0x00000000, 0x00000000, []⟩,
  ⟨0x0C0064, 1, 4, 0x00000000, 0x00000000, 0x00000000, 0x00000000, 0x00000000, []⟩,
  ⟨0x0C0068, 1, 4, 0x00000000, 0x00000000, 0x00000000, 0x00000000, 0x00000000, []⟩,
  ⟨0x0C006C, 1, 4, 0x00000000, 0x00000000, 0x00000000, 0x00000000, 0x00000000, []⟩]

/-- The TEL rows of the register index. -/
def regRowsTel : List RegRow := [
  ⟨0x0D0000, 1, 4, 0x00602809, 0x00000000, 0x00000000, 0x00000000, 0x00000000, []⟩,
  ⟨0x0D0004, 1, 4, 0x00000003, 0x00000003, 0x00000000, 0x00000004, 0x00000000, []⟩,
  ⟨0x0D0008, 1, 4, 0x00000000, 0x00000000, 0x0000001F, 0x00000000, 0x00000000, []⟩,
  ⟨0x0D000C, 1, 4, 0x00000000, 0x0000001F, 0x00000000, 0x00000000, 0x00000000, []⟩,
  ⟨0x0D0010, 1, 4, 0x00000000, 0x00000000, 0x00000000, 0x00000000, 0x00000000, []⟩,
  ⟨0x0D0014, 1, 4, 0x00000000, 0x00000000, 0x00000000, 0x00000000, 0x00000000, []⟩,
  ⟨0x0D0018, 1, 4, 0x00000000, 0x00000000, 0x00000000, 0x00000000, 0x00000000, []⟩,
  ⟨0x0D001C, 1, 4, 0x00000000, 0x00000000, 0x00000000, 0x00000000, 0x00000000, []⟩,
  ⟨0x0D0020, 1, 4, 0x00000000, 0x00000000, 0x00000000, 0x00000000, 0x00000000, []⟩,
  ⟨0x0D0024, 1, 4, 0x00000000, 0x00000000, 0x00000000, 0x00000000, 0x00000000, []⟩,
  ⟨0x0D0028, 1, 4, 0x00000000, 0x00000000, 0x00000000, 0x00000000, 0x00000000, []⟩,
  ⟨0x0D002C, 1, 4, 0x00000000, 0x00000000, 0x00000000, 0x00000000, 0x00000000, []⟩,
  ⟨0x0D0030, 1, 4, 0x00100384, 0x00FF03FF, 0x00000000, 0x00000000, 0x00000000, [⟨0, 10, 100, 1000⟩, ⟨16, 8, 1, 255⟩]⟩,
  ⟨0x0D0034, 1, 4, 0x00000000, 0x00000000, 0x00000000, 0x00000000, 0x00000000, []⟩,
  ⟨0x0D0040, 9, 4, 0x00000000, 0x00000000, 0x00000000, 0x00000000, 0x00000000, []⟩,
  ⟨0x0D0064, 1, 4, 0x00000000, 0x00000000, 0x00000000, 0x00000000, 0x00000000, []⟩]

/-- The MOR rows of the register index. -/
def regRowsMor : List RegRow := [
  ⟨0x0E0000, 1, 4, 0x20000424, 0x00000000, 0x00000000, 0x00000000, 0x00000000, []⟩,
  ⟨0x0E0004, 1, 4, 0x00000007, 0x00000007, 0x00000000, 0x00000018, 0x00000000, []⟩,
  ⟨0x0E0008, 1, 4, 0x00000000, 0x00000000, 0x000001FF, 0x00000000, 0x00000000, []⟩,
  ⟨0x0E000C, 1, 4, 0x00000000, 0x000001FF, 0x00000000, 0x00000000, 0x00000000, []⟩,
  ⟨0x0E0010, 1, 4, 0x00000000, 0x00000000, 0x00000000, 0x00000000, 0x00000000, []⟩,
  ⟨0x0E0014, 1, 4, 0x00000007, 0x00000000, 0x00000000, 0x00000000, 0x00000000, []⟩,
  ⟨0x0E0018, 1, 4, 0x00000000, 0x00000000, 0x00000000, 0x00000000, 0x00000000, []⟩,
  ⟨0x0E001C, 1, 4, 0x00000000, 0x00000000, 0x00000000, 0x00000000, 0x00000000, []⟩,
  ⟨0x0E0020, 1, 4, 0x00000000, 0x00000000, 0x00000000, 0x00000000, 0x00000000, []⟩,
  ⟨0x0E0024, 1, 4, 0x00000000, 0x00000000, 0x00000000, 0x00000000, 0x00000000, []⟩,
  ⟨0x0E0028, 1, 4, 0x00000000, 0x00000000, 0x00000000, 0x00000000, 0x00000000, []⟩,
  ⟨0x0E002C, 1, 4, 0x00000000, 0x00000000, 0x00000000, 0x00000000, 0x00000000, []⟩,
  ⟨0x0E0030, 1, 4, 0x00000000, 0x00000000, 0x00000000, 0x00000000, 0x00000000, []⟩,
  ⟨0x0E0034, 1, 4, 0x00000000, 0x00000000, 0x00000000, 0x00000000, 0x00000000, []⟩,
  ⟨0x0E0038, 1, 4, 0x00000000, 0x00000000, 0x00000000, 0x00000000, 0x00000000, []⟩,
  ⟨0x0E003C, 1, 4, 0x10000803, 0xFFFFFF0F, 0x00000000, 0x00000000, 0x00000000, [⟨0, 4, 2, 15⟩, ⟨8, 8, 1, 16⟩, ⟨16, 16, 1024, 65535⟩]⟩,
  ⟨0x0E0040, 1, 4, 0x00003204, 0x0000FF07, 0x00000000, 0x00000000, 0x00000000, [⟨0, 3, 1, 4⟩, ⟨8, 8, 10, 90⟩]⟩,
  ⟨0x0E0044, 1, 4, 0x00000000, 0x00000000, 0x00000000, 0x00000000, 0x00000000, []⟩,
  ⟨0x0E0048, 1, 4, 0x00000000, 0x00000000, 0x00000000, 0x00000000, 0x00000000, []⟩,
  ⟨0x0E004C, 1, 4, 0x00000000, 0x00000000, 0x00000000, 0x00000000, 0x00000000, []⟩,
  ⟨0x0E0050, 1, 4, 0x00000000, 0x00000000, 0x00000000, 0x00000000, 0x00000000, []⟩,
  ⟨0x0E0054, 1, 4, 0x00000000, 0x00000000, 0x00000000, 0x00000000, 0x00000000, []⟩]

/-- The RST rows of the register index. -/
def regRowsRst : List RegRow := [
  ⟨0x0F0000, 1, 4, 0x00409622, 0x00000000, 0x00000000, 0x00000000, 0x00000000, []⟩,
  ⟨0x0F0004, 1, 4, 0x0000003B, 0x0000003F, 0x00000000, 0x00000000, 0x00000000, []⟩,
  ⟨0x0F0008, 1, 4, 0x00000000, 0x00000000, 0x000000FF, 0x00000000, 0x00000000, []⟩,
  ⟨0x0F000C, 1, 4, 0x00000000, 0x000000FF, 0x00000000, 0x00000000, 0x00000000, []⟩,
  ⟨0x0F0010, 1, 4, 0x00000400, 0x00000000, 0x00000000, 0x00000000, 0x00000000, []⟩,
  ⟨0x0F0014, 1, 4, 0x006403E8, 0x00FFFFFF, 0x00000000, 0x00000000, 0x00000000, [⟨0, 16, 16, 65535⟩, ⟨16, 8, 40, 255⟩]⟩,
  ⟨0x0F0018, 1, 4, 0x00000410, 0x00000FFF, 0x00000000, 0x00000000, 0x00000000, [⟨0, 8, 8, 255⟩, ⟨8, 4, 2, 15⟩]⟩,
  ⟨0x0F001C, 1, 4, 0x00000000, 0x00000000, 0x00000000, 0x00000000, 0x00000000, []⟩,
  ⟨0x0F0020, 1, 4, 0x00000000, 0x00000000, 0x00000000, 0x00000000, 0x00000000, []⟩,
  ⟨0x0F0024, 1, 4, 0x00000000, 0x00000000, 0x00000000, 0x00000000, 0x00000000, []⟩,
  ⟨0x0F0028, 1, 4, 0x00000000, 0x00000000, 0x00000000, 0x00000000, 0x00000000, []⟩,
  ⟨0x0F002C, 1, 4, 0x00000000, 0x00000000, 0x00000000, 0x00000000, 0x00000000, []⟩,
  ⟨0x0F0030, 1, 4, 0x00000000, 0x00000000, 0x00000000, 0x00000000, 0x00000000, []⟩,
  ⟨0x0F0034, 1, 4, 0x00000000, 0x00000000, 0x00000000, 0x00000000, 0x00000000, []⟩,
  ⟨0x0F0038, 1, 4, 0x00000000, 0x000000FF, 0x00000000, 0x00000000, 0x00000000, []⟩,
  ⟨0x0F003C, 1, 4, 0x00000000, 0x00000000, 0x00000000, 0x00000000, 0x00000000, []⟩,
  ⟨0x0F0040, 1, 4, 0x00000018, 0x00000000, 0x00000000, 0x00000000, 0x00000000, []⟩,
  ⟨0x0F0044, 1, 4, 0x00000003, 0x00000000, 0x00000000, 0x00000000, 0x00000000, []⟩,
  ⟨0x0F0048, 1, 4, 0x00000008, 0x00000000, 0x00000000, 0x00000000, 0x00000000, []⟩,
  ⟨0x0F004C, 1, 4, 0x00000002, 0x00000000, 0x00000000, 0x00000000, 0x00000000, []⟩,
  ⟨0x0F0050, 1, 4, 0x00000004, 0x00000000, 0x00000000, 0x00000000, 0x00000000, []⟩,
  ⟨0x0F0054, 1, 4, 0x00000002, 0x00000000, 0x00000000, 0x00000000, 0x00000000, []⟩,
  ⟨0x0F0058, 1, 4, 0x00000004, 0x00000000, 0x00000000, 0x00000000, 0x00000000, []⟩,
  ⟨0x0F005C, 1, 4, 0x00000800, 0x00000000, 0x00000000, 0x00000000, 0x00000000, []⟩,
  ⟨0x0F0060, 1, 4, 0x00000040, 0x00000000, 0x00000000, 0x00000000, 0x00000000, []⟩,
  ⟨0x0F0064, 1, 4, 0x00000000, 0x00000000, 0x00000000, 0x00000000, 0x00000000, []⟩,
  ⟨0x0F0068, 1, 4, 0x00000000, 0x00000000, 0x00000000, 0x00000000, 0x00000000, []⟩,
  ⟨0x0F006C, 1, 4, 0x00000000, 0x000000FF, 0x00000000, 0x00000100, 0x00000000, []⟩]

/-- The LOG rows of the register index. -/
def regRowsLog : List RegRow := [
  ⟨0x100000, 1, 4, 0x08100400, 0x00000000, 0x00000000, 0x00000000, 0x00000000, []⟩,
  ⟨0x100004, 1, 4, 0x00640003, 0xFFFF0003, 0x00000000, 0x00000000, 0x00000000, [⟨16, 16, 1, 65535⟩]⟩,
  ⟨0x100008, 1, 4, 0x00000000, 0x00000000, 0x0000003F, 0x00000000, 0x00000000, []⟩,
  ⟨0x10000C, 1, 4, 0x00000000, 0x0000003F, 0x00000000, 0x00000000, 0x00000000, []⟩,
  ⟨0x100010, 1, 4, 0x00000000, 0x00000000, 0x00000000, 0x00000000, 0x00000000, []⟩,
  ⟨0x100014, 1, 4, 0x00000000, 0x00000000, 0x00000000, 0x00000000, 0x00000000, []⟩,
  ⟨0x100018, 1, 4, 0x00000000, 0x00000000, 0x00000000, 0x00000000, 0x00000000, []⟩,
  ⟨0x10001C, 1, 4, 0x00000000, 0x00000000, 0x00000000, 0x00000000, 0x00000000, []⟩,
  ⟨0x100020, 1, 4, 0x00000000, 0x00000000, 0x00000000, 0x00000000, 0x00000000, []⟩,
  ⟨0x100024, 1, 4, 0x00000000, 0x00000000, 0x00000000, 0x00000000, 0x00000000, []⟩,
  ⟨0x100028, 1, 4, 0x00000000, 0x0000FFFF, 0x00000000, 0x00000000, 0x00000000, []⟩,
  ⟨0x10002C, 1, 4, 0x00000000, 0x0000000F, 0x00000000, 0x00000000, 0x00000000, [⟨0, 4, 0, 10⟩]⟩,
  ⟨0x100030, 1, 4, 0x00000000, 0x00000000, 0x00000000, 0x00000000, 0x00000000, []⟩,
  ⟨0x100034, 1, 4, 0x00000000, 0x00000000, 0x00000000, 0x00000000, 0x00000000, []⟩,
  ⟨0x100038, 1, 4, 0x00000000, 0x00000000, 0x00000000, 0x00000000, 0x00000000, []⟩,
  ⟨0x10003C, 1, 4, 0x00000000, 0x00000000, 0x00000000, 0x00000000, 0x00000000, []⟩]

/-- The PWR rows of the register index. -/
def regRowsPwr : List RegRow := [
  ⟨0x110000, 1, 4, 0x03D44610, 0x00000000, 0x00000000, 0x00000000, 0x00000000, []⟩,
  ⟨0x110004, 1, 4, 0x000033D4, 0x000033FF, 0x00000000, 0x00004000, 0x00000000, [⟨0, 10, 600, 980⟩]⟩,
  ⟨0x110008, 1, 4, 0x00000000, 0x00000000, 0x0000003F, 0x00000000, 0x00000000, []⟩,
  ⟨0x11000C, 1, 4, 0x00000000, 0x0000003F, 0x00000000, 0x00000000, 0x00000000, []⟩,
  ⟨0x110010, 1, 4, 0x00000000, 0x00000000, 0x00000000, 0x00000000, 0x00000000, []⟩,
  ⟨0x110014, 1, 4, 0x00000000, 0x00000000, 0x00000000, 0x00000000, 0x00000000, []⟩,
  ⟨0x110018, 1, 4, 0x00000000, 0x00000000, 0x00000000, 0x00000000, 0x00000000, []⟩,
  ⟨0x11001C, 1, 4, 0x00000000, 0x00000000, 0x00000000, 0x00000000, 0x00000000, []⟩,
  ⟨0x110020, 1, 4, 0x0000645F, 0x0000FFFF, 0x00000000, 0x00000000, 0x00000000, [⟨0, 8, 60, 104⟩, ⟨8, 8, 80, 104⟩]⟩,
  ⟨0x110024, 1, 4, 0x00000000, 0x00000000, 0x00000000, 0x00000000, 0x00000000, []⟩,
  ⟨0x110028, 1, 4, 0x000001FF, 0x00000000, 0x00000000, 0x00000000, 0x00000000, []⟩,
  ⟨0x11002C, 1, 4, 0x00000000, 0x00000000, 0x00000000, 0x00000000, 0x00000000, []⟩,
  ⟨0x110030, 1, 4, 0x00000000, 0x00000000, 0x00000000, 0x00000000, 0x00000000, []⟩]

/-- The register rows of the block a BAR0 offset lies in (R510). -/
def regRowsAt (off : Nat) : List RegRow :=
  if off < 0x010000 then regRowsHif
  else if off < 0x020000 then regRowsCht
  else if off < 0x040000 then regRowsDsc
  else if off < 0x060000 then regRowsSlv
  else if off < 0x080000 then regRowsWdn
  else if off < 0x0A0000 then regRowsClp
  else if off < 0x0B0000 then regRowsLmp
  else if off < 0x0C0000 then regRowsLnt
  else if off < 0x0D0000 then regRowsTim
  else if off < 0x0E0000 then regRowsTel
  else if off < 0x0F0000 then regRowsMor
  else if off < 0x100000 then regRowsRst
  else if off < 0x110000 then regRowsLog
  else regRowsPwr

/-- The low halves of the 64-bit pairs that follow R8 (the TIM_NOW group follows R311). -/
def pairLows : List Nat := [0x010030, 0x010038, 0x040020, 0x040028, 0x040208, 0x060040, 0x060048, 0x060050, 0x060814, 0x060838, 0x060840, 0x060858, 0x060880, 0x060888, 0x060890, 0x060898, 0x080028, 0x0A0010, 0x0C0034, 0x0C003C, 0x0C0050, 0x0C0060, 0x0D0010, 0x0E0018, 0x0E0048, 0x0F0020, 0x0F0030, 0x100010, 0x100038]

end Sys2Proof.Machine
end

