-- ==== Sys2Proof/Machine/State.lean ====
section
/-! DEFINITION. Machine/State.lean: the state of the block as plain data, its reset, and the reasons a step can stop. Registers
the spec lays out in BAR0 stand in `State.regs`; what no register holds stands in the records below, block by block. -/
namespace Sys2Proof.Machine

/-! ### Host interface -/

/-- STATE of a command window (R467). -/
inductive WinState where
  | idle | busy | done
deriving DecidableEq, Repr

/-- One command window (R467, R468). -/
structure Window where
  seqReg     : BitVec 16      -- WIN_SEQ as last written
  block      : List Word      -- WIN_CMD0 to WIN_CMD31
  copy       : List Word      -- the committed copy
  st         : WinState
  unmirrored : Bool
  opcode     : Byte
  error      : Byte
  reason     : Byte
  lastSeq    : BitVec 16
  stamp      : Nat
  doneFlash  : Nat
  results    : List Word
deriving DecidableEq, Repr

/-- A window after reset (R467). -/
def Window.reset : Window :=
  { seqReg := 0, block := List.replicate 32 0, copy := List.replicate 32 0, st := .idle, unmirrored := false, opcode := 0,
    error := 0, reason := 0, lastSeq := 0, stamp := 0, doneFlash := 0, results := List.replicate 16 0 }

/-- One MSI-X vector: its table entry, pending bit, and the 1 µs spacing of R473. -/
structure Vec where
  addr    : BitVec 64
  data    : Word
  ctrl    : Word         -- vector control; bit 0 masks
  pending : Bool
  spacing : Bool         -- a message was sent less than 1 µs ago
  due     : Bool         -- a message fell due inside the spacing
deriving DecidableEq, Repr

/-- A vector at its PCIe reset value: masked, nothing pending. -/
def Vec.reset : Vec := { addr := 0, data := 0, ctrl := 1, pending := false, spacing := false, due := false }

/-- What a DMA read fetches. -/
inductive DmaFor where
  /-- a chart image for a slot (R80) -/
  | chart (slot : Nat)
  /-- a slice descriptor, for SLICE_RESEAL when reseal is set (R161) -/
  | slice (reseal : Bool)
  /-- a plan descriptor (R183) -/
  | plan
  /-- an endorsement (R338) -/
  | endorsement
deriving DecidableEq, Repr

/-- A DMA read in progress: the window that waits on it (16 for none), its purpose, the words received so far (R475). -/
structure Dma where
  win     : Nat
  purpose : DmaFor
  addr    : BitVec 64
  len     : Nat
  got     : List Word
deriving DecidableEq, Repr

/-- A completion that waits for the commit of a flash's delta (R28). -/
structure Wait where
  win     : Nat
  delta   : Nat          -- the flash whose delta carries the change
  mirrored : Bool        -- a standby will acknowledge that delta
  sel     : Bool         -- the change lies in the selective set (R375)
  error   : Byte
  reason  : Byte
  results : List Word
deriving DecidableEq, Repr

/-- The host interface beyond its registers (18_host_interface.md). -/
structure Hif where
  windows : List Window
  vecs    : List Vec
  latches : List (Nat × Word)            -- low offset of a pair, its latched high half (R8)
  nowLatch : Option (Word × Word × Nat)  -- TIM_NOW_HI, TIM_NOW_OFF, bit 0 HI and bit 1 OFF still to be read (R311)
  d3hot   : Bool
  owed    : List Nat                     -- vectors whose messages are owed at D0 (R465)
  perst   : Bool
  linkUp  : Bool
  trained : Option (Nat × Nat)           -- rate code and width of the trained link (R463)
  dma     : List Dma
  waits   : List Wait
  sets    : List (Nat × Nat)             -- status bits (register, bit) the Keeper has set in this core cycle (R12)
  seen    : Bool                         -- HIF_ERR_WHERE holds an access recorded since HIF_ERR_STATUS was last 0 (R484)
  again   : List (Nat × Nat)             -- request bits the host has set again, while set, in this core cycle (R13)
deriving DecidableEq, Repr

/-- The host interface after reset. -/
def Hif.reset : Hif :=
  { windows := List.replicate 16 Window.reset, vecs := List.replicate 64 Vec.reset, latches := [], nowLatch := none,
    d3hot := false, owed := [], perst := false, linkUp := false, trained := none, dma := [], waits := [], sets := [], seen := false, again := [] }

/-! ### Flash stages, proposals, processors -/

/-- What an input asks of a flash stage's batch (R22, R23, log entry 10). -/
inductive Job where
  /-- the input acted as it came -/
  | acted
  /-- LIGHT_CHART of a slot, for a window (R85) -/
  | light (win slot : Nat)
  /-- SET_WAKE_LATENCY of a slice in ns, for a window (R480) -/
  | wake (win slice ns : Nat)
  /-- a message of another Keeper, and its source -/
  | message (src : Addr) (m : KMsg)
  /-- the check of a slot's image has ended: the batch publishes its result (R80) -/
  | checked (slot : Nat)
  /-- the Sector Verifier has judged the dark bank: the batch publishes the verdict (R141) -/
  | judged (v : Verdict)
  /-- an open proposal request has its proposal, or its budget is spent (R31) -/
  | answer (request : Nat)
deriving DecidableEq, Repr

/-- A flash stage's batches (R22 to R24): inputs waiting, each with its stamp; the batch in progress; whether it is closed. -/
structure Stage where
  id      : StageId
  waiting : List (Nat × Job)
  batch   : List (Nat × Job)
  closed  : Bool
  late    : Nat
  published : Nat
  run     : Nat                -- boundaries in a row at which it was late (R394)
deriving DecidableEq, Repr

/-- An open proposal request (R31): its number, its stage and decision, the flash it was issued in, what it concerns; the proposal held for the next
intake, the one the batch uses, whether its budget is spent. -/
structure PropReq where
  request : Nat
  stage   : StageId
  decision : Nat         -- 1 placement, 2 plan heuristics, 3 parking depth, 4 policy
  subject : Nat          -- the slice or context concerned
  bound   : Nat          -- members asked for, the offered q, or the deepest depth allowed
  flash   : Nat
  held    : Option Proposal
  answer  : Option Proposal
  fell    : Bool
deriving DecidableEq, Repr

/-- A Pilot core (R32, R33, R413). -/
structure Pilot where
  running : Bool
  retired : Bool
  hangs   : Nat
  queues  : List Nat     -- the cores whose proposal queues it serves (R413)
deriving DecidableEq, Repr

/-- The flash stages, the proposal requests and the processors (01_architecture.md). -/
structure Work where
  stages   : List Stage
  requests : List PropReq
  nextReq  : Nat
  discarded : Nat            -- proposals discarded (R30)
  fallbacks : Nat            -- fallbacks of stages without a counter register (R31)
  pilots   : List Pilot
  policies : List (List Word)   -- operator policy proposals used (R31)
  opening  : Bool               -- this core cycle is the one in which a flash boundary falls (R21)
deriving DecidableEq, Repr

/-- A stage with nothing in it. -/
def Stage.empty (id : StageId) : Stage := { id := id, waiting := [], batch := [], closed := true, late := 0, published := 0, run := 0 }

/-- After reset: no batch, no request, Pilot cores 0 to 17 held in reset until the Warden has measured (R33). -/
def Work.reset : Work :=
  { stages := [.cht, .dsc, .slv, .wdn, .clp, .tim, .tel, .mor, .rst].map Stage.empty, requests := [], nextReq := 0, discarded := 0, fallbacks := 0,
    pilots := (List.range 18).map fun n => { running := false, retired := false, hangs := 0, queues := if n < 16 then [n] else [] }, policies := [], opening := false }

/-! ### The log book (16_log_book.md) -/

/-- A log record (R420): header fields and body, with the number LOG gives it. -/
structure LogRec where
  seq      : Nat
  code     : Nat
  conc     : Bool
  outorder : Bool
  isLocal  : Bool
  wallback : Bool
  lost     : Bool
  submitted : Bool
  wgen     : Nat
  flash    : Nat
  offset   : Nat
  rep      : Nat         -- REPEAT
  body     : List Word   -- subject word first; empty for PAD
  length   : Nat         -- bytes, in whole 16-byte units
  fa2      : Bool        -- an FA2 agent's clock gave the stamp (R309)
  bad      : List Nat    -- body words in lines whose detection code failed (R435)
  badHead  : Bool        -- its header line failed (R435)
deriving DecidableEq, Repr

/-- A repeat-cache entry (R426): the key words, none once its record has left the cache; the stamp; the record's number. -/
structure LogKey where
  key    : List Word
  flash  : Nat
  offset : Nat
  seq    : Nat
deriving DecidableEq, Repr

/-- A wall-table entry (R423). -/
structure WallEnt where
  flash  : Nat
  offset : Nat
  change : Nat
  wall   : Nat
  ppb    : Int
  back   : Bool
deriving DecidableEq, Repr

/-- An NVM copy area (R431): validity, whether it reads WRITING, its records and wall table. -/
structure LogArea where
  valid   : Bool
  writing : Bool
  recs    : List LogRec
  walls   : List (Nat × WallEnt)
deriving DecidableEq, Repr

/-- Why a log copy is made, which says what follows it (R431). -/
inductive CopyFor where
  | chipReset | powerCycle | shutdown
deriving DecidableEq, Repr

/-- The stamp of the preceding record (R309, R421): its fabric time, its party, whether an FA2 agent took it, whether it is LOCAL. -/
structure LogStamp where
  flash  : Nat
  offset : Nat
  party  : Addr
  fa2    : Bool
  loc    : Bool
deriving DecidableEq, Repr

/-- An event that has arrived and is taken with the others of its core cycle (R421): whether a Pilot core submitted it, whether it is of a sample,
whether it can only add to the repeat count of a record, whether its stamp is LOCAL. -/
structure LogIn where
  evt       : LogEvt
  submitted : Bool
  sample    : Bool
  again     : Bool
  loc       : Bool
deriving DecidableEq, Repr

/-- LOG: staging, ring, caches, wall table, copies. -/
structure LogState where
  nextSeq : Nat
  staging : List LogRec          -- oldest first, committed records not yet in the ring
  pilotStaged : List Nat         -- numbers of the Pilot records in staging
  sampleStaged : List Nat        -- numbers of the sample records in staging
  ring    : List (Nat × LogRec)  -- absolute position of the first byte, oldest first
  head    : Nat                  -- LOG_HEAD
  last    : Option LogStamp      -- the preceding record's stamp (R421)
  cache   : List LogKey          -- newest first, at most 64
  arriving : Option (List LogIn) -- events of the core cycle of a flash boundary, while its work lasts (R421)
  dropRoom : Nat                 -- dropped for lack of room since the last EV_LOG_DROPPED (R428)
  dropPilot : Nat
  walls   : List (Nat × WallEnt) -- place, entry
  areaA   : LogArea
  areaB   : LogArea
  copying : Option (Bool × CopyFor)   -- area being written (true: B), why
deriving DecidableEq, Repr

/-- An area never written. -/
def LogArea.empty : LogArea := { valid := false, writing := false, recs := [], walls := [] }

/-- LOG after reset (R432): ring, staging and wall table empty. -/
def LogState.reset : LogState :=
  { nextSeq := 0, staging := [], pilotStaged := [], sampleStaged := [], ring := [], head := 0, last := none, cache := [], arriving := none, dropRoom := 0,
    dropPilot := 0, walls := [], areaA := LogArea.empty, areaB := LogArea.empty, copying := none }

/-! ### The chart (03_chart.md) -/

/-- INSTALL (R72). -/
structure Install where
  sx : Nat
  sy : Nat
  headX : Nat
  headY : Nat
  depX : Nat
  depY : Nat
  flashUs : Nat
  weights : List Nat     -- W2 to W6
  word0 : Word
deriving DecidableEq, Repr

/-- One CABLING record (R74). -/
structure RackRec where
  x : Nat
  y : Nat
  epCount : Nat
  epPresent : Nat        -- 128 bits
  uplinks : Nat          -- 64 bits
  kportA : Nat
  kportB : Nat
  links : List Nat       -- LINKS of endpoint index 0 to 127
  resv : List Nat        -- RESV_LINKS of endpoint index 0 to 127
deriving DecidableEq, Repr

/-- One POOLS word (R76). -/
structure Pool where
  resource : Nat
  pool : Nat
  classes : Nat
  count : Nat
deriving DecidableEq, Repr

/-- One ROTATION record (R77). -/
structure Rotation where
  engine : Nat
  cycles : Nat
  owners : List Nat
deriving DecidableEq, Repr

/-- One TEMPLATES record (R78). -/
structure Template where
  num : Nat
  cls : Nat
  maxEp : Nat
  slvPool : Nat
  lmpPool : Nat
  lntPool : Nat
  ctxPool : Nat
  maxCtx : Nat
  lmpSeats : Nat
  lntSeats : Nat
  clpSeats : Nat
  ownVcs : Nat
  sealLifeMs : Nat
deriving DecidableEq, Repr

/-- The stage parameters (R79). -/
structure StageParams where
  budget : Nat
  hangWindow : Nat
  lightLead : Nat
  headLoss : Nat
  lanternMax : Nat
  innetMax : Nat
  pieceMax : Nat
  stochRound : Nat
deriving DecidableEq, Repr

/-- The defaults of R79. -/
def StageParams.default : StageParams :=
  { budget := 2, hangWindow := 4, lightLead := 3, headLoss := 8, lanternMax := 256, innetMax := 4 * 1024 * 1024,
    pieceMax := 4 * 1024 * 1024, stochRound := 1 }

/-- A chart image that passed its check, section by section (R66 to R79). -/
structure Chart where
  format : Nat
  serial : Nat
  keyId : BitVec 64
  installId : BitVec 64
  digest : Digest
  install : Install
  racks : List RackRec
  enMap : List Nat         -- halfwords, 128 a rack
  pools : List Pool
  rotations : List Rotation
  templates : List Template
  params : StageParams
deriving DecidableEq, Repr

/-- SHADOW of a slot (R92). -/
inductive ShadowState where
  | empty | loading | checked | refused
deriving DecidableEq, Repr

/-- NVM of a slot (R92). -/
inductive NvmState where
  | empty | valid | corrupt | writing
deriving DecidableEq, Repr

/-- One chart slot: the shadow with its image and, once checked, its chart; the NVM copy (R80, R82). -/
structure Slot where
  shadow : ShadowState
  image  : List Word
  format : Nat
  reason : Nat
  chart  : Option Chart
  nvm    : NvmState
  nvmImage : List Word
  prev   : ShadowState     -- the shadow's state before the load in progress
  loadLen : Nat            -- LEN of the load in progress
  loadWin : Nat            -- window whose LOAD_CHART is in progress; 16 none
deriving DecidableEq, Repr

/-- A slot never loaded. -/
def Slot.empty : Slot :=
  { shadow := .empty, image := [], format := 0, reason := 0, chart := none, nvm := .empty, nvmImage := [], prev := .empty, loadLen := 0, loadWin := 16 }

/-- An arming (R85): slot, digest, whether arming is complete, the announced F, whether CONFIRM came, the window of its command. -/
structure Arming where
  slot : Nat
  digest : Digest
  complete : Bool
  flash : Nat              -- announced F; 0 none
  confirmed : Bool
  win : Nat                -- 16 none
deriving DecidableEq, Repr

/-- A chart announcement as a Keeper heard it (R86): digest, F, flash of its arrival, whether the Keeper has answered it at a close point. -/
structure ChartHeard where
  digest : Digest
  f : Nat
  flash : Nat
  answered : Bool
deriving DecidableEq, Repr

/-- The head's announcement of a chart (R86, R87). -/
structure ChartAnnounce where
  digest : Digest
  first : Nat              -- flash of the first announcement
  f : Nat                  -- announced F
  postponed : Nat
  ready : List Nat         -- racks that reported READY
  confirmed : Bool
deriving DecidableEq, Repr

/-- A STORE in progress (R478): its window, the slots still to write, whether keys are written, what has been written. -/
structure StoreJob where
  win : Nat
  slots : List Nat
  keys : Bool
  written : Nat
  retired : Nat
  settings : Option (Word × Word × Nat)   -- CHT_BOOT, floor and MAX_SPEED as they stood when the settings' write started (R513)
deriving DecidableEq, Repr

/-- A settings block (R479). -/
structure Settings where
  age : Nat                -- store count; the newest valid block has the greatest
  boot : Word
  floor : Word
  maxSpeed : Nat
deriving DecidableEq, Repr

/-- An installation key slot (R338): the 57 bytes of the key in NVM and a pending change (some none revokes). -/
structure KeySlot where
  nvm : Option (List Byte)
  pend : Option (Option (List Byte))
deriving DecidableEq, Repr

/-- The chart engine (R19): slots, lit chart, arming, announcement, NVM stores, head duty. -/
structure ChartState where
  slots : List Slot
  lit : Option Chart
  arm : Option Arming
  held : List (Nat × Nat)  -- LIGHT_CHARTs held until the lighting: window, slot (R85)
  announce : Option ChartAnnounce
  heard : Option ChartHeard
  headNext : Option (Digest × Nat)   -- digest and F of the chart the head has confirmed (R86, R89)
  store : Option StoreJob
  storeQueue : List StoreJob
  settingsA : Option Settings
  settingsB : Option Settings
  keys : List KeySlot
  acting : Bool            -- acting head (R73)
  silence : Nat            -- flashes without a message from the head rack
  deputyActs : Bool        -- head duty is known to lie with the acting head
  headDigest : Option Digest   -- lit-chart digest the head last declared
  handback : Option Nat    -- announced handback flash
deriving DecidableEq, Repr

/-- After reset: nothing in any slot, no chart lit (R83, log entry 7). -/
def ChartState.reset : ChartState :=
  { slots := List.replicate 4 Slot.empty, lit := none, arm := none, held := [], announce := none, heard := none, headNext := none, store := none, storeQueue := [],
    settingsA := none, settingsB := none, keys := List.replicate 4 { nvm := none, pend := none }, acting := false, silence := 0,
    deputyActs := false, headDigest := none, handback := none }

/-! ### Discovery and links (02_topology_addressing.md, 04_discovery_links.md) -/

/-- The states of a port, in the order of their codes 0 to 9 (R96). -/
inductive PortState where
  | off | train | secure | verify | lit | held | parked | dark | extra | quarantined
deriving DecidableEq, Repr

/-- The code of a port state (R96). -/
def PortState.code : PortState → Nat
  | .off => 0 | .train => 1 | .secure => 2 | .verify => 3 | .lit => 4 | .held => 5 | .parked => 6 | .dark => 7 | .extra => 8
  | .quarantined => 9

/-- Words 0, 4 and 5 of a neighbour's beacon (R103). -/
structure Found where
  w0 : Word
  w4 : Word
  w5 : Word
deriving DecidableEq, Repr

/-- A packet waiting at an egress, under its virtual channel and, on VC2 and VC3, its group (R59, R61, R202); at a switch, the ingress port and the VC in
whose buffer it stands (R62), none for a packet formed here. -/
structure Waiting where
  vc    : Nat
  group : Nat
  came  : Option (Nat × Nat)
  pkt   : Packet
deriving DecidableEq, Repr

/-- The keys of an encrypted port (R344): the key of each direction, the ratchet, whether this end has the lower ID_KEY. -/
structure LinkKeys where
  tx      : List Byte
  rx      : List Byte
  ratchet : List Byte
  low     : Bool
deriving DecidableEq, Repr

/-- A token bucket (R60): the bytes it holds, the part of a byte beyond them in 1/25,600, the flash and the offset it was last filled at. -/
structure Bucket where
  bytes  : Nat
  part   : Nat
  filled : Nat × Nat
deriving DecidableEq, Repr

/-- A full bucket: 8,224 bytes (R60). -/
def Bucket.full : Bucket := { bytes := 8224, part := 0, filled := (0, 0) }

/-- An egress (R58 to R62, R202): what a switch port, an endpoint fabric link and a Keeper port send by. -/
structure Egress where
  credits   : List Nat     -- per VC (R62)
  resyncing : Bool         -- RESYNC_MARK sent, no new packet until the grant (R95)
  bucket0   : Bucket       -- the VC0 token bucket (R60)
  bucket1   : Bucket
  deficits  : List Nat     -- VC2 to VC7 (R61)
  turn      : Nat          -- the VC whose turn it is, 2 to 7
  granted   : Bool         -- that VC has its quantum of this turn (R61)
  groupTurn : List Nat     -- last group served on VC2 and VC3 (R202)
  inTurn    : List (Nat × Nat)  -- per VC and group, the last input served (R202)
  queue     : List Waiting -- oldest first
deriving DecidableEq, Repr

/-- An egress after reset: full buckets, so many credits for each VC (R60). The spec gives no credits that a sender holds before the first RESYNC_GRANT:
what the receiver is sure to provide, 130 units a VC of a Keeper and 65 of an agent, is the model's choice (DESIGN CHOICE, log entry 101). -/
def Egress.reset (units : Nat) : Egress :=
  { credits := List.replicate 8 units, resyncing := false, bucket0 := Bucket.full, bucket1 := Bucket.full, deficits := List.replicate 6 0, turn := 2,
    granted := false, groupTurn := [0, 0], inTurn := [], queue := [] }

/-- One logical port of the Keeper, 0 to 20 (R39, R96). Lane sets are 9-bit masks. -/
structure Port where
  id        : Nat
  st        : PortState
  position  : Nat
  active    : Nat
  failed    : Nat          -- the own failed set
  farFailed : Nat          -- the last set received (R109)
  parked    : Nat
  cls       : Nat          -- CLASS of R121
  clsBody   : List Word    -- body of the class event recorded at the transition into the class (R106)
  failReason : Nat
  found     : Option Found
  lastBeacon : Option (Found × Nat × Nat)  -- words, run of equal beacons, LSTATE of the last (R103)
  missing   : Nat          -- flashes without a valid beacon (R102)
  litHolder : Bool         -- the last beacon shows LIT_HOLDER (R101)
  farOverlay : Bool        -- the last beacon shows OVERLAY
  farEpochHeld : Nat       -- graph epoch in the last beacon
  heard     : Bool         -- a valid beacon arrived in this flash
  trainFails : Nat
  secureFails : Nat
  depth     : Nat          -- park depth (R115)
  waking    : Bool
  idle      : Nat          -- flashes without a packet (R117)
  busy      : Bool         -- a packet other than a beacon in this flash
  load      : Nat          -- bytes sent in the last flash (R117)
  testHold  : Bool         -- held in test for the far Keeper (R119)
  hcrc      : Nat
  fcs       : Nat
  fecCount  : Nat
  fecWorst  : Nat
  auth      : Nat
  retrains  : Nat
  weak      : List Nat     -- per lane, flashes in a row above 10^-COR_EXP (R108)
  uncor     : List Nat     -- per lane, uncorrectable codewords in this flash (R108)
  tagFails  : Nat          -- in this flash (R114)
  samples   : Nat          -- valid hop-delay samples of this flash (R292, R294)
  sampleSum : Nat          -- their sum, in units of 2^-8 ns
  unclean   : Bool         -- this flash is not clean for the link (R294)
  eg        : Egress
  resyncDue : Bool         -- a wrong HCRC came in this flash (R95)
  lcbSeq    : Nat          -- sequence number of the next link control block (R94)
  refused   : Nat          -- packets refused under R17
  sent      : List Nat     -- bytes sent in this flash: all, SVC 2 and 3, VC1, VC0 (R316)
  discards  : Nat          -- packets discarded in this flash under R17 and R54 (R316)
  lcbErrors : Nat          -- link control blocks ignored (R94)
  keys      : Option LinkKeys       -- (R113, R344)
  scalar    : List Byte             -- ephemeral X448 scalar of the agreement in progress (R341, R344)
  keyEpoch  : Nat
  farEpoch  : Nat
  txPackets : Nat          -- packet counter of the key epoch (R114)
  rxPackets : Nat          -- packet counter of the key epoch received under (R113)
  keyFlash  : Nat          -- flash of the last key change
  ownHello  : List Byte             -- the HELLO sent in this SECURE (R344)
  hello     : Option (List Byte)    -- the partner's verified HELLO (R344)
  peer      : Option (BitVec 64)    -- serial of the partner accepted (R344)
deriving DecidableEq, Repr

/-- Port n after reset: OFF at position n (R121). The credits toward a far receiver before its first RESYNC_GRANT are not given: 130 units a VC are the
model's choice (DESIGN CHOICE, log entry 101). -/
def Port.reset (n : Nat) : Port :=
  { id := n, st := .off, position := n, active := 0, failed := 0, farFailed := 0, parked := 0, cls := 0, clsBody := [], failReason := 0, found := none,
    lastBeacon := none, missing := 0, litHolder := false, farOverlay := false, farEpochHeld := 0, heard := false, trainFails := 0, secureFails := 0, depth := 0, waking := false, idle := 0,
    busy := false, load := 0, testHold := false, hcrc := 0, fcs := 0, fecCount := 0, fecWorst := 0, auth := 0, retrains := 0,
    weak := List.replicate 9 0, uncor := List.replicate 9 0, tagFails := 0, samples := 0, sampleSum := 0, unclean := false, eg := Egress.reset 130, resyncDue := false,
    lcbSeq := 0, refused := 0, sent := [0, 0, 0, 0], discards := 0, lcbErrors := 0, keys := none, scalar := [], keyEpoch := 0, farEpoch := 0, txPackets := 0, rxPackets := 0, keyFlash := 0, ownHello := [], hello := none,
    peer := none }

/-- One port position, 0 to 23 (R39, R111, R121). -/
structure Position where
  logical  : Nat           -- 0x1F none
  laser    : Nat           -- 0 own, 1 and 2 spare lasers
  quar     : Bool
  loopbackFail : Bool
deriving DecidableEq, Repr

/-- Position p after reset (R121). -/
def Position.reset (p : Nat) : Position := { logical := if p < 21 then p else 0x1F, laser := 0, quar := false, loopbackFail := false }

/-- A packet of a source flow (R64, R264): its WSEQ, the packet, how often it was sent, and the plan's context, launch and piece it
belongs to. -/
structure SentPkt where
  wseq   : Nat
  pkt    : Packet
  sends  : Nat
  ctx    : Nat
  launch : Nat
  piece  : Nat
  stamp  : Nat              -- time of its last send, 2^-8 ns
deriving DecidableEq, Repr

/-- A flow of the Keeper and its window (R64, R65). -/
structure Flow where
  src      : Addr
  dest     : Addr
  svc      : Nat
  slice    : Byte
  gen      : BitVec 6
  isSource : Bool
  next     : Nat            -- source: next WSEQ to send; destination: next expected WSEQ
  map      : Nat            -- destination: bit i, WSEQ next + 1 + i received
  sent     : List SentPkt   -- source: unacknowledged, oldest first
  wait     : List SentPkt   -- source: waiting for window room
  ackFlash : Nat            -- flash of the latest re-sent acknowledgement + 1; 0 none
  port     : Nat
deriving DecidableEq, Repr

/-- A port record as the Keeper has read it from an agent, with its judgement (R99, R104, R107). -/
structure Nbr where
  agent : Addr
  port  : Nat
  state : Nat              -- state code of R96
  lanes : Nat              -- 4 to 8 while LIT or PARKED, else 0
  found : Option Word
  cls   : Nat
  parkMax : Nat            -- PARK_MAX last written (R116)
  clsBody : List Word      -- body of the class event recorded at the transition into the class (R106)
  hold  : Nat              -- HOLD last written by the Keeper or the host
  hostHold : Bool          -- the host set that hold (R482)
deriving DecidableEq, Repr

/-- A fabric test in progress (R119): port, flashes left, flashes waited for the far Keeper, whether it agreed. -/
structure FabTest where
  port   : Nat
  left   : Nat
  waited : Nat
  agreed : Bool
deriving DecidableEq, Repr

/-- Discovery and links. -/
structure LinkState where
  ports     : List Port
  positions : List Position
  moving    : List (Nat × Nat)      -- logical port, spare position the selector moves it to (R112)
  lasersUp  : Bool
  toTrain   : List Nat              -- ports waiting for a training place, in order (R97)
  training  : List Nat              -- ports in training, at most 8
  test      : Option FabTest
  flows     : List Flow
  nbrs      : List Nbr
  published : List (Addr × Nat × Nat)   -- the rack record as published: agent, port, lanes (R107)
  wake      : List (Nat × Nat)      -- wake latency in ns stated per slice (R480)
  parkAt    : List (Nat × Nat)      -- depth a Pilot core proposed per slice, at most the allowed one (R116)
  overlay   : Bool                  -- overlay state (R44)
  seen      : List (Nat × KMsg)     -- flooded messages already forwarded, with the flash of their arrival (R139)
  noFlow    : Nat                   -- window acknowledgements that name no open flow, duplicates, out of range (R64, R65)
  staleGen  : Nat                   -- packets with a stale GEN (R57)
  spentLasers : List (Nat × Nat)    -- optical engine, spare laser brought in (R111)
  litRole   : List (Nat × Nat)      -- role index the Keeper of a rack last wrote from (R48)
  lastTag   : Option (Word × Word × Word)   -- beacon words 4 to 6 as they last stood, while a level-4 reset lasts (R402)
deriving DecidableEq, Repr

/-- Links after reset: every port OFF, overlay state until an epoch is held (R44). -/
def LinkState.reset : LinkState :=
  { ports := (List.range 21).map Port.reset, positions := (List.range 24).map Position.reset, moving := [], lasersUp := false,
    toTrain := [], training := [], test := none, flows := [], nbrs := [], published := [], wake := [],
    parkAt := [], overlay := true, seen := [], noFlow := 0, staleGen := 0, spentLasers := [], litRole := [], lastTag := none }

/-! ### Management operations (R395, R407, R408, R441) -/

/-- What a management operation is for, which says what its reply does. -/
inductive MgmtFor where
  /-- neighbour record of a port (R99) -/
  | nbr (port : Nat)
  /-- dark bank written (R135) -/
  | bank (epoch : Nat)
  /-- check value of a dark bank (R135) -/
  | check (epoch : Nat)
  /-- arming (R143) -/
  | arm (epoch : Nat)
  /-- GO sent to an agent again (R144) -/
  | go
  /-- a plan's slot, chain, programme or its enable (R188, R189) -/
  | plan (ctx : Nat)
  /-- a freeze or a thaw (R281, R283) -/
  | freeze (ctx : Nat)
  /-- a pause of a slice for a drain (R166) -/
  | pause (slice : Nat)
  /-- AGENT_READ of a window, with its host address (R481) -/
  | hostRead (win : Nat) (addr : BitVec 64)
  /-- AGENT_WRITE of a window (R482) -/
  | hostWrite (win : Nat)
  /-- a seal written directly (R353) -/
  | seal (slice : Nat)
  /-- seal state read (R353) -/
  | sealRead (slice : Nat)
  /-- a check value of an agent's lit or dark bank, compared with the image after a takeover (R379, R382) -/
  | audit (bank : Nat)
  /-- a check value of a plan's structures at an agent, compared after a takeover or a level-3 reset (R379, R401) -/
  | auditPlan (ctx : Nat)
  /-- a plan's slot, read back from an agent whose journal cannot serve (R379) -/
  | slotBack (ctx : Nat)
  /-- an agent's journal (R379) -/
  | journal
  /-- any other write of the Keeper's upkeep (holds, vetoes, trims, planes, periods, parameters) -/
  | upkeep
deriving DecidableEq, Repr

/-- A management operation in flight. -/
structure MgmtOp where
  tag    : Nat
  agent  : Addr
  write  : Bool
  addr   : Nat
  words  : List Word      -- data of a write
  count  : Nat            -- words of a read
  cls    : Nat            -- CLASS (R379)
  slice  : Nat
  engine : Nat
  gen    : Nat            -- MGEN it was sent under (R407)
  sends  : Nat
  sent   : Nat × Nat      -- flash and offset of its last send
  wait   : Nat            -- time after it from which it may be sent again, in units of 2^-8 ns (R118, R395)
  purpose : MgmtFor
deriving DecidableEq, Repr

/-- Management operations and agents' events. -/
structure MgmtState where
  ops     : List MgmtOp
  nextTag : Nat
  acked   : List (Addr × Nat)     -- event SEQs acknowledged (R446)
  cool    : List (Nat × Nat)      -- tags of reset operations, with the flash until which none is used again (R395)
deriving DecidableEq, Repr

/-- Nothing in flight. -/
def MgmtState.reset : MgmtState := { ops := [], nextTag := 0, acked := [], cool := [] }

/-! ### Route solver (05_route_solver.md) -/

/-- The cluster graph (R107, R136): lanes of each uplink (rack × 64 + 4 × switch + direction), of each endpoint link
(rack × 2048 + 16 × index + link) and of each Keeper switch link (rack × 32 + 2 × switch + role); unlisted is 0. -/
structure Graph where
  uplinks : List (Nat × Nat)
  eps     : List (Nat × Nat)
  keepers : List (Nat × Nat)
deriving DecidableEq, Repr

/-- One hop of a tree: at a rack, the direction a packet leaves by (0 +X, 1 −X, 2 +Y, 3 −Y) and ESC (R122, R123). -/
structure Hop where
  rack : Nat
  dir  : Nat
  esc  : Bool
deriving DecidableEq, Repr

/-- The tree of a slice, plane and destination rack (R122, R124): the cuts it was built with (none where a ring is split), the hops
at the racks on the path of a member source, the member source racks it leaves without a route. -/
structure Tree where
  slice  : Nat
  plane  : Nat
  target : Nat
  col    : Option Nat
  rows   : List (Nat × Option Nat)
  hops   : List Hop
  lost   : List Nat
deriving DecidableEq, Repr

/-- What the solver and the Sector Verifier read of a slice: its class and tenant, OWN_VCS (bit v − 2), members per rack (rack,
128-bit mask), claimed cables. -/
structure SliceView where
  id       : Nat
  cls      : Nat
  template : Nat
  tenant   : Nat
  vcs      : Nat
  members  : List (Nat × Nat)
  claims   : List Nat
deriving DecidableEq, Repr

/-- What determines a bank of the cluster (R134): the trees, the slice table, the cluster graph, EN_MAP. -/
structure BankSrc where
  trees  : List Tree
  slices : List SliceView
  graph  : Graph
  enMap  : List Nat
deriving DecidableEq, Repr

/-- The bank with nothing in it. -/
def BankSrc.empty : BankSrc := { trees := [], slices := [], graph := { uplinks := [], eps := [], keepers := [] }, enMap := [] }

/-- An epoch as published (R136): its number, its kind, its link records. -/
structure EpochRec where
  epoch : Nat
  full  : Bool
  recs  : List Word
deriving DecidableEq, Repr

/-- PHASE of the bank cycle (R140, R152). -/
inductive Phase where
  | idle | solving | verifying | loading | solved | armed | confirmed | refused
deriving DecidableEq, Repr

/-- The code of a phase (R152). -/
def Phase.code : Phase → Nat
  | .idle => 0 | .solving => 1 | .verifying => 2 | .loading => 3 | .solved => 4 | .armed => 5 | .confirmed => 6 | .refused => 7

/-- A Keeper's bank cycle (R140). -/
structure Cycle where
  phase  : Phase
  epoch  : Nat
  full   : Bool
  left   : Nat             -- solve flashes still to run (R129)
  refusals : Nat
  src    : BankSrc         -- the dark bank's content, of the whole cluster
  total  : Nat             -- trees to build
  own    : SliceSet        -- own drain set (R142)
  dset   : SliceSet        -- D as announced
  digest : Digest
  changed : Nat            -- entries changed in the own rack
  verified : Bool
  toLoad : List Addr       -- agents whose dark bank does not yet match
  rewrites : List (Addr × Nat)
  f      : Nat             -- announced flash; 0 none
  late   : Bool
  notArmed : List Addr
  go     : Bool            -- the first GO was sent
  told   : Bool            -- the announcement in hand has been answered (R140, R142)
  ready    : Bool          -- READY was sent and is sent again each flash (R139)
deriving DecidableEq, Repr

/-- No cycle. -/
def Cycle.idle : Cycle :=
  { phase := .idle, epoch := 0, full := false, left := 0, refusals := 0, src := BankSrc.empty, total := 0, own := 0, dset := 0, digest := 0, changed := 0,
    verified := false, toLoad := [], rewrites := [], f := 0, late := false, notArmed := [], go := false, told := false,
    ready := false }

/-- The head's side of the cycle (R142, R148, R149). -/
structure HeadCycle where
  epoch   : Nat            -- latest epoch published
  active  : Bool           -- a cycle is in progress
  content : List Word      -- link records of the cycle
  slices  : List Nat       -- slices whose table changes with the cycle
  full    : Bool
  published : Nat          -- flash of publication
  announced : Bool
  confirmed : Bool
  f       : Nat
  dset    : SliceSet
  ready1  : List Nat       -- racks whose BANK_READY is held
  ready2  : List Nat       -- racks whose READY is held
  litRacks : List Nat      -- racks whose LIT_REPORT is held
  changes : List Word      -- link records waiting for the next epoch
  sliceChanges : List Nat  -- slices whose tables change with the next epoch
  heldChanges : Bool       -- held until FULL_REQ (R149)
  refusedRun : Nat         -- refusals in a row of the same content
  refusedContent : List Word
  fullNext : Bool          -- the next epoch is full (R128)
  solve    : Bool          -- a chart with another plan or EN map was lit, and no epoch followed (R88)
  fenced  : List Nat
  reported : Graph         -- lanes as last reported, fenced racks included
  states   : List (Nat × List Word)   -- STATE_REPLYs held: rack, records (R150)
  sent     : List (EpochRec × SliceSet × List Word)  -- epochs published, newest first, with their SLICE_TABLE (R139)
deriving DecidableEq, Repr

/-- The head side with nothing in progress. -/
def HeadCycle.reset : HeadCycle :=
  { epoch := 0, active := false, content := [], slices := [], full := false, published := 0, announced := false, confirmed := false,
    f := 0, dset := 0, ready1 := [], ready2 := [], litRacks := [], changes := [], sliceChanges := [], heldChanges := false,
    refusedRun := 0, refusedContent := [], fullNext := true, solve := false, fenced := [],
    reported := { uplinks := [], eps := [], keepers := [] }, states := [], sent := [] }

/-- The route solver. -/
structure SlvState where
  graph    : Graph
  epoch    : Nat           -- epoch held (DSC_LIVE_EPOCH)
  waiting  : List EpochRec -- epochs received and not yet taken
  parts    : List (Nat × Nat × Nat × List Word)  -- MTYPE, epoch, part, records of a message whose parts are not all in
  cycle    : Cycle
  lit      : BankSrc       -- the lit bank
  dark     : BankSrc       -- what the agents' dark bank holds
  litBank  : Nat           -- 0 or 1
  litEpoch : Nat
  litFull  : Bool
  laneFails : List (Nat × Nat)   -- sweep lane, flash of its failure (R130)
  retiredLanes : List Nat
  spareLanes : Nat
  head     : HeadCycle
  vetoes   : List (Nat × Nat × Nat)   -- slice, destination rack, plane (R147)
  epVetoes : List (Addr × Nat)        -- endpoint, plane vetoed for every destination
  holds    : List Addr                -- agents of the rack that hold D for want of GO (R144)
  out      : List Addr                -- agents counted out of the bank cycle (R135)
  top      : Nat                      -- highest epoch learnt of (R139)
  heard    : Option (Nat × Nat × SliceSet)   -- epoch, F and D of an announcement whose epoch is not in work (R139, R140)
deriving DecidableEq, Repr

/-- The solver after reset. -/
def SlvState.reset : SlvState :=
  { graph := { uplinks := [], eps := [], keepers := [] }, epoch := 0, waiting := [], parts := [], cycle := Cycle.idle, lit := BankSrc.empty,
    dark := BankSrc.empty, litBank := 0,
    litEpoch := 0, litFull := false, laneFails := [], retiredLanes := [], spareLanes := 0, head := HeadCycle.reset, vetoes := [],
    epVetoes := [], holds := [], out := [], top := 0, heard := none }

/-! ### Slices (06_slices_isolation.md) -/

/-- A layout of a slice: its view and its admitted descriptor (R161). -/
structure Layout where
  view : SliceView
  desc : List Word
deriving DecidableEq, Repr

/-- Seats bound in one rack: Lamp, Lantern, intake (R172). -/
structure RackSeats where
  rack : Nat
  lmp  : List Nat
  lnt  : List Nat
  clp  : List Nat
deriving DecidableEq, Repr

/-- One entry of the slice table (R153, R165): state as WDN_SLICE_INFO.STATE codes it, the lit layout, the change an epoch
carries (its epoch and the new layout; none destroys), the state before the command in progress, and the rack and TAG that issued
it. -/
structure SliceRec where
  id     : Nat
  state  : Nat
  forced : Bool
  epoch  : Nat
  lay    : Option Layout
  chg    : Option (Nat × Option Layout)
  prior  : Nat
  issuer : Option (Nat × Nat)
  born   : Nat             -- flash of the lighting that created the slice (R326)
  bornEpoch : Nat          -- its epoch (R341)
  seats  : List RackSeats
deriving DecidableEq, Repr

/-- A slice request at the head (R162): its issuing rack and TAG, the FLASH it was stamped with there, OP, the slice, the descriptor, the flash it
arrived in, the members a placement gave it (endpoints by rack × 128 + index), whether a placement was asked for. -/
structure SliceReq where
  rack   : Nat
  tag    : Nat
  origin : Nat
  op     : Nat
  slice  : Nat
  words  : List Word
  flash  : Nat
  placed : Option (List Nat)
  asked  : Bool
deriving DecidableEq, Repr

/-- A slice command issued by this Keeper: its window, TAG, OP, slice, descriptor, flash of issue, and after SLICE_REPLY the
epoch that completes it (R162, R165). -/
structure SliceIssued where
  win    : Nat
  tag    : Nat
  op     : Nat
  slice  : Nat
  words  : List Word
  flash  : Nat
  epoch  : Option Nat
deriving DecidableEq, Repr

/-- A drain at the head: the slice, the flash of DRAIN_NOTICE, the racks that reported, whether FORCE was sent (R166). -/
structure HeadDrain where
  slice   : Nat
  flash   : Nat
  reports : List Nat
  forced  : Bool
deriving DecidableEq, Repr

/-- A drain at a member rack: agents whose window is empty, whether FORCE came, whether DRAIN_REPORT was sent (R166). -/
structure RackDrain where
  slice    : Nat
  empty    : List Addr
  forced   : Bool
  reported : Bool
deriving DecidableEq, Repr

/-- The Sector Verifier's state and the head's admission (R153, R162). -/
structure SliceState where
  table    : List SliceRec
  tables   : List (Nat × SliceSet × List Word)   -- SLICE_TABLE of an epoch not yet taken
  reqs     : List SliceReq
  solving  : Option (SliceReq × Layout × Nat)     -- admission solve: request, admitted layout, flashes left
  answered : List (Nat × Nat × Nat × Nat × Nat)   -- rack, TAG, the request's FLASH, reason, epoch
  issued   : List SliceIssued
  nextTag  : Nat
  drains   : List HeadDrain
  rackDrains : List RackDrain
  order    : List Nat                             -- the slices of the SLICE_TABLE taken last, in admission order (R168, R172)
deriving DecidableEq, Repr

/-- No slice: every tenant slice FREE. -/
def SliceState.reset : SliceState :=
  { table := [], tables := [], reqs := [], solving := none, answered := [], issued := [], nextTag := 0, drains := [], rackDrains := [],
    order := [] }

/-! ### Collective plans (07_collective_plans.md, 10_collective_faults.md) -/

/-- Where the data of a piece place stand: on the die, or on HBM pages of the spill area, a number of words over them in order (R220, R342). -/
inductive Datum where
  | words (ws : List Word)
  | pages (ns : List Nat) (len : Nat)
deriving DecidableEq, Repr

/-- The data, when they stand on the die. -/
def Datum.plain : Datum → List Word
  | .words ws => ws
  | .pages _ _ => []

/-- A 4 KiB page of the HBM's encrypted areas: its number, the slice it belongs to, its tag, the ciphertext, the detection codes of its 64 lines, which
cover the plaintext (R222, R342). -/
structure HbmPage where
  number : Nat
  slice  : Nat
  tag    : Bool
  cipher : BitVec 32768
  codes  : List Nat
deriving DecidableEq, Repr

/-- An input packet of a piece place: its input (R265), its packet index, its data words. -/
structure PlaceIn where
  input : Nat
  idx   : Nat
  data  : Datum
deriving DecidableEq, Repr

/-- What a piece place does: gathering its inputs, waiting for a piece credit, sending (R198, R266). -/
inductive PlacePhase where
  | gather | credit | send
deriving DecidableEq, Repr

/-- A piece place of a Keeper root (R199, R265): its number in the plan's memory, whether it lies in the spill area, the packets
taken, in order of arrival, the sums that stand, the contribution map (input × 65,536 + packet index), the time of the first and
latest last packet per input (R274). -/
structure Place where
  slot    : Nat
  spill   : Bool
  base    : Nat                      -- its lamp-store offset in 64-byte units, when it does not lie in the spill area (R219)
  units   : Nat                      -- its length in 64-byte units
  launch  : Nat
  piece   : Nat
  plane   : Nat
  step    : Nat
  ins     : List PlaceIn
  sums    : List (Nat × Datum)       -- packet index, sum; only its input when it needs no addition
  map     : List Nat
  lasts   : List (Nat × Nat)         -- input, time of its LAST packet
  senders : List (Addr × Nat)        -- senders to release, with the context at each
  phase   : PlacePhase
  out     : List Nat               -- the parts of its sums already sent on
deriving DecidableEq, Repr

/-- A lamp unit that waits for a lamp (R217): its kind (0 ADD, 1 ACCUMULATE, 2 ROUND, 3 ENCODE), the context, launch, piece and
packet index or part it covers, whether it is a new run after a retirement (R238). -/
structure LampUnit where
  kind   : Nat
  ctx    : Nat
  launch : Nat
  piece  : Nat
  idx    : Nat
  rerun  : Bool
deriving DecidableEq, Repr

/-- A plan as a member Keeper holds it (R181, R187, R188, R212). -/
structure Plan where
  ctx     : Nat
  slice   : Nat
  ordinal : Nat
  desc    : List Word          -- descriptor, member list filled in
  alg     : Nat
  planes  : Nat                -- 16-bit mask
  lnt     : Option Nat         -- Lantern context number
  fallback : Bool              -- LNT_FALLBACK (R191)
  qnom    : Nat
  q       : Nat
  inFlight : Nat
  stretch : Nat
  st      : Nat                -- CLP_PLAN_INFO.STATE
  q2      : Nat
  q1      : Nat
  reason  : Nat                -- the reason of its offer or ready report
  ctxs    : List (Nat × Nat)   -- member rack, context there
  ring    : List Nat           -- INNET ring order of the member racks
  spill   : Bool
  switchUnits : Nat            -- reserved per switch, 64-byte units
  storeUnits  : Nat            -- reserved at the root, lamp store
  spillUnits  : Nat            -- reserved at the root, spill area
  memBase : Nat                -- piece places in reduction memory, 64-byte units
  groupBase : Nat              -- 64-byte units of group memory
  chainBase : Nat
  rewritten : List Addr        -- agents rewritten once (R188)
  toCheck : List Addr          -- agents whose check value does not yet match
  enable  : Nat                -- E; 0 none
  gen     : Nat
  launches : Nat               -- launches seen started
  newest  : Nat                -- newest launch number seen
  overs   : List (Nat × Nat)   -- member index, bytes dropped
  overLogged : List Nat        -- members whose EV_OVERFLOW_DROP is logged (R201)
  lost    : Nat                -- planes lost
  remap   : List Nat           -- 16 entries
  loaded  : Bool               -- slots set to LOADED (R210, R211, R271, R273)
  asked   : Nat                -- flash of PLAN_ORDER, PLAN_COMMIT or the RELEASE's PLAN_ORDER
  replied : Bool               -- its offer or ready report is out and is sent again (R186)
  places  : List Place
  done    : List (Nat × List Nat)   -- launch, pieces done; at most four launches (R266)
  credits : List (Nat × Nat × Nat)  -- piece credits held for the next Keeper: plane, launch, piece (R198)
  arrivals : List Nat          -- inputs of a barrier that have arrived
  frozen  : Option Nat         -- cause of the abort exchange in progress at this rack
  answers : List (Addr × Nat × Nat)  -- agent, ANSWER, launch
  frozenSent : Bool
  recovery : Nat               -- number of the recovery exchange being cleared; 0 none
  clearing : Bool              -- RECOVER_CLEARED is owed
  recovered : List Nat         -- launches that a RECOVER_GO touched
  namedPieces : List Nat       -- pieces named by the exchange in progress
  gone    : Bool               -- RECOVER_GO of that exchange has come
  abortCause : Nat             -- status of the latest ABORT outcome (R281)
  lags    : List (Nat × Nat)   -- member rack blamed by the own Keeper steps, lag sum of this flash in 16 ns units (R274)
  prevLags : List (Nat × Nat)  -- the same for the flash before
  straggler : Nat              -- member of the last flash
  stragLag : Nat
  stragRun : Nat
  quiet   : Nat                -- flashes without a completed piece while a launch is in progress (R276)
  stallSent : Bool
  reqs    : List (List Word)   -- records of RECOVER_REQs sent again each flash until the exchange goes on (R286)
deriving DecidableEq, Repr

/-- A request or an admitted plan at the head (R185, R186). -/
structure HeadReq where
  rack    : Nat
  tag     : Nat
  flash   : Nat
  slice   : Nat
  words   : List Word          -- descriptor as received
  noLnt   : Bool               -- the issuing Keeper's LNT_EN is 0
deriving DecidableEq, Repr

/-- Where an admission stands at the head (R186). -/
inductive AdmPhase where
  | ordered | deciding | committed | releasing
deriving DecidableEq, Repr

/-- An admission in progress at the head (R186 to R189). -/
structure Admission where
  req     : HeadReq
  ordinal : Nat
  desc    : List Word          -- with its member list
  racks   : List Nat           -- member racks, ascending
  alg     : Nat
  planes  : Nat
  qnom    : Nat
  lnt     : Option Nat
  fallback : Bool              -- LNT_FALLBACK
  phase   : AdmPhase
  refused : Nat                -- reason an offer or a ready report gave, 0 none; the batch that gathered it refuses the plan
  asked   : Nat                -- flash in which the message that asks was sent
  offers  : List (Nat × Nat × Nat × Nat)   -- rack, context, Q2, Q1
  readies : List Nat
  q       : Nat
  inFlight : Nat
  stretch : Nat
  ring    : List Nat
  request : Nat                -- number of its proposal request
deriving DecidableEq, Repr

/-- A plan admitted and not released, at the head (R180, R185, R271, R279). -/
structure HeadPlan where
  slice   : Nat
  ordinal : Nat
  desc    : List Word
  racks   : List Nat
  alg     : Nat
  planes  : Nat
  qnom    : Nat
  q       : Nat
  inFlight : Nat
  lnt     : Option Nat
  gen     : Nat
  genFlash : Nat               -- flash of the latest GEN advance; 0 none
  lost    : Nat
  remap   : List Nat
  stalled : List Nat           -- racks that reported STALL
  gone    : Nat                -- number of the recovery whose RECOVER_GO was sent last, 0 none: sent again to a rack that asks (R286)
  thaw    : Option KMsg        -- the THAW sent last, sent again to a rack that asks (R286)
deriving DecidableEq, Repr

/-- A recovery exchange at the head (R270): the plan, its number, the planes newly lost, the pieces named, the launch range, the
racks that replied, whether RECOVER_CLEAR and RECOVER_GO were sent. -/
structure Recovery where
  slice   : Nat
  ordinal : Nat
  number  : Nat
  planes  : Nat
  pieces  : List Nat
  launch  : Nat
  cleared : List Nat
  flash   : Nat
  gone    : Bool
deriving DecidableEq, Repr

/-- An abort exchange at the head (R281, R282): its cause coded as its status, the racks' FROZEN counts, whether it waits for the
GEN spacing, the hosts that asked (rack, TAG). -/
structure AbortEx where
  slice   : Nat
  ordinal : Nat
  cause   : Nat
  replies : List (Nat × Nat × Nat × Nat × Nat)   -- rack, COMPLETE, IDLE, PENDING, highest launch
  flash   : Nat
  waiting : Bool
  memberReset : Bool
deriving DecidableEq, Repr

/-- A PLAN_COLLECTIVE or ABORT_COLLECTIVE issued by this Keeper and not complete (R186, R284). -/
structure PlanIssued where
  win     : Nat
  tag     : Nat
  abort   : Bool
  slice   : Nat
  ordinal : Nat                -- of an abort
  words   : List Word
  flash   : Nat
deriving DecidableEq, Repr

/-- A shared discard count of a piece of a launch (R273). -/
structure DiscardCount where
  slice   : Nat
  ordinal : Nat
  launch  : Nat
  piece   : Nat
  count   : Nat
deriving DecidableEq, Repr

/-- The Collective Planner's state. -/
structure ClpState where
  plans   : List Plan
  issued  : List PlanIssued
  nextTag : Nat
  queue   : List HeadReq
  adms    : List Admission
  live    : List HeadPlan
  ordinals : List (Nat × Nat)  -- slice, last ordinal
  answered : List (Nat × Nat × Nat × Nat × Nat × Nat)   -- rack, TAG, reason, ordinal, E, flash of the answer
  recoveries : List Recovery
  nextRecovery : Nat
  aborts  : List AbortEx
  discards : List DiscardCount
  lntSlices : List (Nat × List Nat)   -- Lantern contexts reserved for GUARDED and SEALED slices (R247)
deriving DecidableEq, Repr

/-- Nothing planned. -/
def ClpState.reset : ClpState :=
  { plans := [], issued := [], nextTag := 0, queue := [], adms := [], live := [], ordinals := [], answered := [], recoveries := [],
    nextRecovery := 1, aborts := [], discards := [], lntSlices := [] }

/-! ### The Lamp array (08_reduction_arithmetic.md) -/

/-- A packet taken for a spilled place and not yet written to the HBM (R221): its port, VC and units, whose credits are owed; the slice, context,
launch, piece and input, and the packet indices it gives data of. -/
structure SpillIn where
  port   : Nat
  vc     : Nat
  units  : Nat
  slice  : Nat
  ctx    : Nat
  launch : Nat
  piece  : Nat
  input  : Nat
  idxs   : List Nat
deriving DecidableEq, Repr

/-- The Lamp array's state: units that wait, retired lamps, spares brought in (spare, the lamp it replaces), first mismatches counted
for soft retirement (lamp, lane, flash), spares withheld. -/
structure LmpState where
  units   : List LampUnit
  retired : List Nat
  spares  : List (Nat × Nat)
  soft    : List (Nat × Nat × Nat)
  spillUnits : Nat             -- spill traffic of this flash, 64-byte units
  unitCount : Nat              -- units completed in this flash
  spillQueue : List SpillIn    -- packets taken for spilled places and not yet written (R221)
  spillHeld : Bool             -- in this flash spill traffic has waited at its cap (R221)
deriving DecidableEq, Repr

/-- The Lamp array after reset: lamps 0 to 31 in service. -/
def LmpState.reset : LmpState :=
  { units := [], retired := [], spares := [], soft := [], spillUnits := 0, unitCount := 0, spillQueue := [], spillHeld := false }

/-! ### The Lantern (09_lantern.md) -/

/-- A contribution or a partial in a launch buffer: the member index or origin rack, its data, members included, bytes dropped, the
plane it came on (R249, R252). -/
structure LntIn where
  who     : Nat
  words   : List Word
  bytes   : Nat
  count   : Nat
  dropped : Nat
  plane   : Nat
deriving DecidableEq, Repr

/-- A launch buffer (R254): contributions in order of arrival, partials of other racks, the own partial and the result once formed,
the time of the first CONTRIB, the time of the latest NEED or of the partial (R258). -/
structure LntBuf where
  launch  : Nat
  got     : List LntIn
  acc     : List Word          -- running accumulator under ARRIVAL
  parts   : List LntIn
  own     : Option (List Word × Nat)      -- words, bytes
  result  : Option (List Word)
  first   : Nat
  needAt  : Nat
deriving DecidableEq, Repr

/-- A Lantern context of this rack (R247, R250, R260). -/
structure LntCtx where
  num     : Nat
  ctx     : Nat                -- the plan's collective context
  slice   : Nat
  ordinal : Nat
  gen     : Nat
  racks   : List Nat
  legs    : Nat × Nat × Nat × Nat   -- XP, XM, YP, YM
  d       : Nat                -- last launch completed here (R254)
  live    : Bool
  bufs    : List LntBuf
deriving DecidableEq, Repr

/-- The Lantern's state. -/
structure LntState where
  ctxs   : List LntCtx
  planes : List (Nat × Nat)    -- endpoint index, Lantern plane last written (R248)
  latMax : Nat                 -- longest launch of this flash, ns
  hopsLost : Nat               -- hops not sent for want of a path (R251)
  discards : Nat               -- launch buffers discarded after a second mismatch (R256)
deriving DecidableEq, Repr

/-- No Lantern context. -/
def LntState.reset : LntState := { ctxs := [], planes := [], latMax := 0, hopsLost := 0, discards := 0 }


/-! ### The agents of the rack (17_filis_agent.md) -/

/-- What an agent does toward its own chip. -/
inductive ChipAct where
  /-- result data, or a table of R201, written to the endpoint's memory -/
  | store (addr : Nat) (words : List Word)
  /-- a run of bytes of the endpoint's memory cleared (R201) -/
  | clear (addr bytes : Nat)
  /-- the own block copied locally (R201) -/
  | copy (src dst bytes : Nat)
  /-- a completion record written (R207) -/
  | complete (addr : Nat) (words : List Word)
  /-- further instructions that name a slot are held, or let go (R205) -/
  | hold (slot : Nat) (on : Bool)
  /-- the weight key of an envelope is released, by its LABEL (R357) -/
  | releaseKey (label : List Byte)
  /-- the weight key of an envelope is withdrawn (R357) -/
  | withdrawKey (label : List Byte)
  /-- a packet of the endpoint's own use (R55) -/
  | deliver (p : Packet)
deriving DecidableEq, Repr

/-- The last write an agent took with a tag (R443). -/
structure KeptWrite where
  tag    : Nat
  gen    : Nat
  addr   : Nat
  words  : Nat
  status : Nat
  reply  : List Word
deriving DecidableEq, Repr

/-- An event that waits for its acknowledgement (R445, R446). -/
structure KeptEvent where
  seq     : Nat
  cls     : Nat
  flash   : Nat
  offset  : Nat
  subject : Nat
  arg     : Word
  body    : List Word
  sends   : Nat
deriving DecidableEq, Repr

/-- A journal record (R379): the flash in which the write was taken, and its four words. -/
structure AgRec where
  flash : Nat
  words : List Word
deriving DecidableEq, Repr

/-- The seal an FA3 endpoint holds (R356, R358): its bytes, its flashes, the flash of the lighting that superseded it. -/
structure HeldSeal where
  bytes  : List Byte
  issue  : Nat
  expiry : Nat
  past   : Option Nat
deriving DecidableEq, Repr

/-- A port of an agent (R440): its state and lanes, HOLD and PARK_MAX as written, the found neighbour, the lane sets, the error counts, what its
ingress discarded in this flash (R314, R444), its egress with the packets buffered toward it (R58 to R63), the bytes sent in this flash (R316). -/
structure AgPort where
  num      : Nat
  st       : Nat
  lanes    : Nat
  hold     : Nat
  parkMax  : Nat
  found    : Word
  active   : Nat
  failed   : Nat
  parked   : Nat
  hcrc     : Nat
  fcs      : Nat
  unroute  : Nat
  mismatch : Nat
  source   : Nat
  refused  : Nat          -- broadcast writes refused (R444)
  lcbSeq   : Nat          -- sequence number of the next link control block (R94)
  sent     : List Nat     -- bytes sent in this flash: all, SVC 2 and 3, VC1, VC0
  eg       : Egress
deriving DecidableEq, Repr

/-- Units per VC that the receiver at the far end of an agent's port provides: a Keeper's 130 at ports 132 and 133 of a switch, else 65 (R62). -/
def farUnits (port : Nat) : Nat := if port = 132 ∨ port = 133 then 130 else 65

/-- Port n after reset. -/
def AgPort.fresh (n : Nat) : AgPort :=
  { num := n, st := 0, lanes := 0, hold := 0, parkMax := 0, found := 0, active := 0, failed := 0, parked := 0, hcrc := 0, fcs := 0, unroute := 0,
    mismatch := 0, source := 0, refused := 0, lcbSeq := 0, sent := [0, 0, 0, 0], eg := Egress.reset (farUnits n) }

/-- A launch in progress at a slot (R205 to R207, R257, R267): LAUNCH, the counter, the next entry, a queued launch and its tiles, FREEZE, the
entries fired and not sent, the pieces sent with the credits they hold (plane, piece), what has been taken of the results, RECOVERED, the Lantern
attempt in progress, whether the agent was reset and the slot has started nothing since (R277). -/
structure AgSlot where
  slot     : Nat
  launch   : Nat
  running  : Bool
  done     : Nat            -- the last launch whose completion record is written
  counter  : Nat
  next     : Nat
  queued   : Bool
  pendingTiles : Nat
  frozen   : Bool
  fired    : List Nat       -- entries fired that wait for credits
  sent     : List Nat       -- pieces sent in the launch
  credits  : List (Nat × Nat)
  map      : List Nat       -- the result map: source × 2^16 + packet
  got      : Nat            -- result bytes taken
  lasts    : List (Nat × Nat)   -- source member whose LAST packet came, bytes received
  overs    : List (Nat × Nat)   -- source member, bytes dropped
  released : Bool
  touched  : Bool
  attempt  : Option Nat     -- Lantern: retries of the CONTRIB in progress
  ends     : List Nat       -- source members whose block's LAST packet came (R207)
  early    : List (List Word)   -- prefixes of blocks taken for a launch not yet started here (R192)
  enabling : Bool           -- ENABLE_FLASH is written and E has not opened (R189)
  started  : Nat            -- launches started since installation (R212)
  reborn   : Bool
deriving DecidableEq, Repr

/-- A slot that has started nothing. -/
def AgSlot.fresh (n : Nat) (reborn : Bool) : AgSlot :=
  { slot := n, launch := 0, running := false, done := 0, counter := 0, next := 0, queued := false, pendingTiles := 0, frozen := false, fired := [],
    sent := [], credits := [], map := [], got := 0, lasts := [], overs := [], released := false, touched := false, attempt := none, ends := [],
    early := [], enabling := false, started := 0, reborn := reborn }

/-- What a switch agent holds for a programme (R199, R208, R265, R266, R274): its piece places, its done maps, the credits it holds at the next
consumer (consumer's step, launch, piece), the arrivals of a barrier, FREEZE, the lag sums of the flash in 2^-8 ns by member index. -/
structure AgProg where
  ctx      : Nat
  newest   : Nat
  places   : List Place
  done     : List (Nat × List Nat)
  credits  : List (Nat × Nat × Nat)
  arrivals : List Nat
  frozen   : Bool
  lags     : List (Nat × Nat)
  enabling : Bool           -- its slot-enable is written and E has not opened (R209)
deriving DecidableEq, Repr

/-- A programme that has taken nothing. -/
def AgProg.fresh (ctx : Nat) : AgProg :=
  { ctx := ctx, newest := 0, places := [], done := [], credits := [], arrivals := [], frozen := false, lags := [], enabling := false }

/-- An agent of the rack (R438 to R461). `mem` holds the words of its space that software writes and reads back and that differ from their reset
value, by ascending address. -/
structure Agent where
  addr     : Addr
  serve    : Bool
  mem      : List (Nat × Word)
  lit      : Nat
  armed    : Bool
  go       : Bool
  hold     : Bool
  paused   : Bool
  guard    : Option Nat        -- the drain set of the guard after a lighting (R145)
  checking : Bool
  check    : BitVec 64
  heldSeal : Option HeldSeal
  staged   : List (Nat × Word)
  verifying : Option Nat       -- LEN of the commit being verified
  refuse   : Nat
  envelopes : List (List Byte)
  released : List (List Byte)  -- envelopes whose key is released
  flash    : Nat
  slew     : Int               -- phase still to slew, 2^-12 ns
  rate     : Word
  step     : Option (Nat × Nat)
  nextSeq  : Nat
  events   : List KeptEvent
  dropped  : Nat
  kept     : List KeptWrite
  journal  : List AgRec        -- newest first, at most 256
  jcount   : Nat
  overflow : Bool
  cause    : Nat
  reborn   : Bool
  resetOwed : Bool             -- RESET is still to be sent (R460)
  ports    : List AgPort
  slots    : List AgSlot
  progs    : List AgProg
  flows    : List Flow
  nosend   : Nat
  stale    : Nat               -- packets discarded under R57 and R65
  malformed : Nat              -- management requests and packets dropped under R17
  retx     : Nat
  fill     : Nat
  window   : Nat               -- packets of a flow's window, 1 to 64 (R64)
  turn     : List (Nat × Nat)  -- weighted round per destination rack (R133)
deriving DecidableEq, Repr

/-- An agent as it comes up (R439, R460): in INIT, with everything zero; the remaps hold the identity. -/
def Agent.fresh (a : Addr) : Agent :=
  { addr := a, serve := false, mem := [], lit := 0, armed := false, go := false, hold := false, paused := false, guard := none, checking := false,
    check := 0, heldSeal := none, staged := [], verifying := none, refuse := 0, envelopes := [], released := [], flash := 0, slew := 0, rate := 0,
    step := none, nextSeq := 0, events := [], dropped := 0, kept := [], journal := [], jcount := 0, overflow := false, cause := 0, reborn := false,
    resetOwed := false, ports := [], slots := [], progs := [], flows := [], nosend := 0, stale := 0, malformed := 0, retx := 0, fill := 0, window := 64,
    turn := [] }


/-! ### Outputs -/

/-- What the block sends out, the newest first in `State.outbox` (log entry 2). -/
inductive Out where
  /-- a packet on a Keeper port, as its frame (R53, R93, R113) -/
  | packet (port : Nat) (f : WireFrame)
  /-- a link control block on a port (R94) -/
  | lcb (port : Nat) (block : BitVec 128)
  /-- a HELLO or a CONFIRM in the training frames of an encrypted port (R344) -/
  | secure (port : Nat) (bytes : List Byte)
  /-- the request to a far Keeper to hold its end of a port in test, or to let it go, on the port toward it over the overlay (R119, log entry 39) -/
  | testHold (via : Nat) (dest : Addr) (port : Nat) (hold : Bool)
  /-- the answer to such a request, by the same way (R119) -/
  | testAgree (via : Nat) (dest : Addr) (port : Nat) (agrees : Bool)
  /-- credits returned to the sender on a port: VC and units (R62) -/
  | credits (port : Nat) (vc : Nat) (units : Nat)
  /-- a KEEPER_MSG to this unit itself, which comes back as a command on port 21 (R138, log entry 2) -/
  | own (p : Packet)
  /-- with a MOOR_COMMIT packet, the sender's or the partner's image state as MOR_STATE codes it, which no field of R371 carries (log entry 44) -/
  | moorImage (image : Nat)
  /-- an MSI-X message (R472) -/
  | msix (vector : Nat) (addr : BitVec 64) (data : Word)
  /-- a DMA read of host memory asked for (R475) -/
  | dmaRead (addr : BitVec 64) (len : Nat)
  /-- words written to host memory (R476) -/
  | dmaWrite (addr : BitVec 64) (words : List Word)
  /-- the data a host read returns (R8, R433) -/
  | readData (value : BitVec 64)
  /-- a proposal request issued to a Pilot core (R31) -/
  | propRequest (stage : StageId) (request : Nat)
  /-- bytes returned on SMBus (R367) -/
  | smbus (bytes : List Byte)
  /-- a packet an agent sends: the agent's address, its port or plane, the packet (R442, R446) -/
  | agentPacket (agent : Addr) (port : Nat) (p : Packet)
  /-- credits an agent returns to the sender at one of its ports: VC and units (R62) -/
  | agentCredits (agent : Addr) (port : Nat) (vc : Nat) (units : Nat)
  /-- a link control block an agent sends on a port (R94, R95) -/
  | agentLcb (agent : Addr) (port : Nat) (block : BitVec 128)
  /-- an action of an agent toward its own chip (R205, R207, R357) -/
  | chip (agent : Addr) (act : ChipAct)
  /-- a statement handed to the Warden core (R351) -/
  | warden (words : List Word)
deriving DecidableEq, Repr


/-! ### Time, redundancy, reset: placeholders -/
/-- An agent of the rack as the Keeper judges its time (R298, R303): 0 UNALIGNED, 1 ALIGNED, 2 HOLDOVER; flashes in a row without a valid record. -/
structure TimAgent where
  addr   : Addr
  st     : Nat
  silent : Nat
deriving DecidableEq, Repr

/-- A TIME_EXCHANGE REPLY taken in this flash (R296, R300): its port and source, its round trip, the source's count less the own one, both in
units of 2^-8 ns and the latter twice, the source's state and bound, the flash of its report, the records and phases it carries. -/
structure TimExch where
  port   : Nat
  src    : Addr
  rtt    : Int
  theta2 : Int
  state  : Nat
  bound  : Nat
  repFlash : Word
  recs   : List Word
  phis   : List Word
deriving DecidableEq, Repr

/-- A forward step that the next local boundary takes (R303, R304): by twice a number of units, or to a flash by a cold start. -/
inductive TimStep where
  | by2 (theta2 : Int)
  | cold (flash : Nat)
deriving DecidableEq, Repr

/-- Fabric time and calibration (11_time_calibration.md). TIM_STATE and the other registers stand in `State.regs`. -/
structure TimState where
  flash    : Nat
  offset   : Nat
  periodUs : Nat
  periods  : List (Nat × Nat × Nat)  -- first flash of each period, newest first, with its µs and the count of 2^-8 ns at its boundary (R289)
  agents   : List TimAgent
  iTerm    : Rat               -- I, ps per flash (R301)
  ownRecs  : List Word         -- link time records of ports 0 to 20 for the flash that ended (R294)
  recFlash : Nat
  phis     : List (Nat × Rat)  -- phase error of the rack's switches from the last solve, ps (R298)
  exch     : List TimExch      -- replies taken in this flash
  requests : List (Nat × Nat)  -- tag, flash of the REQUESTs sent
  nextTag  : Nat
  acq      : List (Int × Int)  -- exchanges taken in ACQUIRING: round trip, twice the source's count less the own (R303)
  acqQuiet : Nat               -- flashes in a row in ACQUIRING without an exchange
  noSource : Nat               -- local flashes without a usable source (R304)
  lockRun  : Nat               -- flashes in a row with abs(e) at most 5 ps in LOCKING
  holdRun  : Nat               -- flashes in HOLDOVER
  step     : Option TimStep
  wall     : Option WallEnt    -- the newest wall change (R310)
  rootHeard : Bool             -- a ROOT field has been heard since reset (R299)
deriving DecidableEq, Repr

/-- Fabric time after reset: UNALIGNED, flash 0, offset 0, a period of 10 µs until a chart is lit (R303, R513, log entry 3). -/
def TimState.reset : TimState :=
  { flash := 0, offset := 0, periodUs := 10, periods := [(0, 10, 0)], agents := [], iTerm := 0, ownRecs := [], recFlash := 0, phis := [], exch := [], requests := [],
    nextTag := 0, acq := [], acqQuiet := 0, noSource := 0, lockRun := 0, holdRun := 0, step := none, wall := none, rootHeard := false }

/-- Time state of an agent as judged by the Keeper: 0 UNALIGNED, 1 ALIGNED, 2 HOLDOVER (R298, R440). -/
def TimState.agentState (t : TimState) (a : Addr) : Nat :=
  match t.agents.find? fun x => x.addr == a with
  | some x => x.st
  | none => 0

/-! ### Redundancy (14_redundancy.md) -/

/-- An item of the state image: a region, an offset in it, its new bytes (R369, R370). -/
structure ImgItem where
  region : Nat
  offset : Nat
  data   : List Byte
deriving DecidableEq, Repr

/-- An item of the standby's applied image as it stands in the HBM: its region, offset and length, and its page (R342, R369). -/
structure HeldItem where
  region : Nat
  offset : Nat
  len    : Nat
  page   : Nat
deriving DecidableEq, Repr

/-- A delta that the active has still to send, in whole or in part (R370, R371, R373): its flash, its packets left, what its COMMIT says. -/
structure Delta where
  flash   : Nat
  packets : List (List Word)
  total   : Nat                -- packets in all
  bytes   : Nat
  digest  : List Byte
  check   : Digest
  final   : Bool
deriving DecidableEq, Repr

/-- A staging buffer of the standby (R372): its flash and, by SEQ, the item bytes and items of the packets received. -/
structure Staging where
  flash   : Nat
  packets : List (Nat × List Byte × List ImgItem)
deriving DecidableEq, Repr

/-- A committed delta not yet applied (R372): its flash, its items, the digest of check region CHECK at the active. -/
structure Committed where
  flash : Nat
  items : List ImgItem
  check : Digest
deriving DecidableEq, Repr

/-- A MIRROR_SELECT packet (R375, R376): its OPTAG, the flash of its change, its KIND, its payload, the switch it was sent by. -/
structure SelPkt where
  tag   : Nat
  flash : Nat
  kind  : Nat
  words : List Word
  plane : Nat
deriving DecidableEq, Repr

/-- Mooring and redundancy. MOR_STATE, MOR_HEALTH and the other registers stand in `State.regs`. -/
structure MorState where
  lit       : Bool             -- this unit's driver asserts LIT_N (R363)
  grant     : Bool             -- ARB_GNT_N asserted
  otherLit  : Bool             -- LIT_N asserted by the partner
  published : List ImgItem     -- the image's items as published at the last boundary
  owed      : List Delta       -- deltas to send, oldest first (R373)
  uncommitted : List Nat       -- flashes whose COMMIT is not acknowledged
  quiet     : Nat              -- flashes without an ACK or a STATUS at the active, without a COMMIT at the standby (R374)
  heard     : Bool
  partnerDigests : List Digest -- digests of the partner's CHECKED slots (R85, R371)
  staging   : List Staging     -- at most four, by F mod 4 (R372)
  committed : List Committed   -- oldest first
  image     : List HeldItem    -- the applied image
  imageFlash : Nat             -- K, the newest committed flash at the standby
  pages     : Option (List ImgItem)  -- resynchronisation at the active: items still to send (R384)
  pagesAll  : Nat              -- how many there were
  lastPage  : Option Nat       -- flash of the delta that carried the last page
  selPub    : List (Nat × List Word)  -- the selective set as of the last boundary: KIND and entry (R375)
  selWait   : List SelPkt      -- waiting for the links' share
  selOut    : List SelPkt      -- sent, not acknowledged
  selTag    : Nat
  selMirrored : Nat            -- newest flash counted as mirrored (R376)
  selSet    : List (Nat × List Word)  -- received at the partner, in order
  taking    : Option Nat       -- G of a takeover whose image is not yet taken (R378)
  waitFinal : Bool             -- the FINAL commit is awaited (R380)
  journals  : List Addr        -- agents whose journal is not yet read (R379)
  rebuild   : Bool             -- a takeover with the selective set: the dark bank is not rebuilt (R382)
  reports   : Nat              -- SMBus HEALTH report count (R367)
deriving DecidableEq, Repr

/-- Redundancy after reset: no LIT, no grant, no image (R388, R389). -/
def MorState.reset : MorState :=
  { lit := false, grant := false, otherLit := false, published := [], owed := [], uncommitted := [], quiet := 0, heard := false,
    partnerDigests := [], staging := [], committed := [], image := [], imageFlash := 0, pages := none, pagesAll := 0, lastPage := none,
    selPub := [], selWait := [], selOut := [], selTag := 0, selMirrored := 0, selSet := [], taking := none, waitFinal := false,
    journals := [], rebuild := false, reports := 0 }

/-! ### Hang detection and reset domains (15_faults_reset.md) -/

/-- An engine (R391): its PROGRESS, the value at the last boundary, flashes since it moved, boundaries RST_TEST still holds it for, the flashes
of its level-2 and level-1 resets and of its last level-3 reset, the level of the reset in progress, the windows that wait for it with the level
each asked for, the flash it began in, its slice, the slices suspect at it. -/
structure Engine where
  id       : Nat
  progress : BitVec 32
  last     : BitVec 32
  still    : Nat
  stalled  : Nat
  hung     : Bool
  hangs    : List Nat
  ctxHangs : List Nat
  level3   : Option Nat
  inReset  : Nat
  wins     : List (Nat × Nat)
  began    : Nat
  slice    : Nat
  resets   : Nat
  suspect  : List (Nat × Nat)  -- slice, flash of its level-3 reset
deriving DecidableEq, Repr

/-- Engine id after reset. -/
def Engine.fresh (id : Nat) : Engine :=
  { id := id, progress := 0, last := 0, still := 0, stalled := 0, hung := false, hangs := [], ctxHangs := [], level3 := none, inReset := 0,
    wins := [], began := 0, slice := 0, resets := 0, suspect := [] }

/-- The engine numbers of R391. -/
def engineIds : List Nat := (List.range 14).map (· + 1) ++ (List.range 19).map (· + 16)

/-- A reset of level 4, 5 or 6 that is asked for or in progress (R397 to R404): its level, cause, the engine and slice it is recorded with, the
windows that wait, its flash, FORCE, whether it is deferred, whether it has started, whether the pin MOD_RESET_N holds it. -/
structure PartReset where
  level    : Nat
  cause    : Nat
  engine   : Nat
  slice    : Nat
  wins     : List (Nat × Nat)
  began    : Nat
  force    : Bool
  deferred : Bool
  started  : Bool
  pin      : Bool
  held     : Bool          -- the chip has restarted and waits for the pin (R497)
deriving DecidableEq, Repr

/-- A context reset in progress (R390, R395, R405): its engine, CTX_KIND, context or tag, the windows that wait, the flash it began in. -/
structure CtxReset where
  engine : Nat
  kind   : Nat
  ctx    : Nat
  wins   : List (Nat × Nat)
  began  : Nat
deriving DecidableEq, Repr

/-- A sample that waits for the staging room (R406): its 128 records. -/
structure SampleJob where
  engine : Nat
  records : List LogEvt
deriving DecidableEq, Repr

/-- Reset and health. RST_STATE and the other registers stand in `State.regs`. -/
structure RstState where
  engines  : List Engine
  part     : Option PartReset
  sincePart : Option Nat       -- boundaries since the last level-4 reset ended (R397)
  sinceChip : Option Nat       -- boundaries since the last level-5 reset, kept in the always-on domain (R397)
  ctxs     : List CtxReset
  samples  : List SampleJob
  faults   : List (Nat × Nat × Nat)   -- detection errors kept for R414 and R415: kind (0 row, 1 page, 2 channel), place, flash
  copies   : List (Nat × Nat)         -- pseudo-channel, spare it is copied to (R414)
  withdrawn : Nat                     -- 2 GiB ranges withdrawn for want of a spare (R414)
  withheld : List (Nat × Nat)         -- class, unit retired while AUTO_SPARE is 0 (R412)
  mgenFlash : Option Nat              -- flash of the last advance of MGEN (R408)
  fitWins  : List (Nat × Nat)         -- windows whose level-4 reset completes when the unit is fit, with the level asked for (R405)
  fitFlash : Nat                      -- the flash that reset started in
  lost     : List (Nat × Nat)         -- units withdrawn with a row (R415): 1 lamp-store unit, 2 context, 3 table line; its number
  channels : List (Nat × Nat)         -- pseudo-channel retired, the spare in its range (R414)
  short    : Nat                      -- self-tests that left a pool short, bit per test (R386)
  blocks   : List (Nat × Nat)         -- NVM block, its store count (R416)
deriving DecidableEq, Repr

/-- After reset: every engine running. -/
def RstState.reset : RstState :=
  { engines := engineIds.map Engine.fresh, part := none, sincePart := none, sinceChip := none, ctxs := [], samples := [], faults := [],
    copies := [], withdrawn := 0, withheld := [], mgenFlash := none, fitWins := [], fitFlash := 0, lost := [],
    channels := [], short := 0, blocks := [] }

/-! ### Power (19_physical.md) -/

/-- The power stage (R491, R493, R501). -/
inductive PwrStage where
  /-- VIN below its start -/
  | off
  /-- a rail failed once; the retry is due -/
  | retry
  /-- the rails are up -/
  | on
  /-- the rails are down until VIN is removed -/
  | locked
deriving DecidableEq, Repr

/-- Power, thermal and clock state beside the PWR registers: the power stage, a dip in progress, the shutdown in progress, how long the throttle
condition has held, has been clear, and the level has stood, in microseconds of boundaries (R500). -/
structure PwrState where
  stage   : PwrStage
  dip     : Bool
  closing : Bool
  hot     : Nat
  cool    : Nat
  stood   : Nat
deriving DecidableEq, Repr

/-- Power after reset: the rails are up (log entry 8). -/
def PwrState.reset : PwrState := { stage := .on, dip := false, closing := false, hot := 0, cool := 0, stood := 0 }


/-- Per-slice counts of a flash (R318): bytes dropped, members with bytes dropped, launches completed, members that completed AG or XC launches. -/
structure TelSlice where
  slice    : Nat
  bytes    : Nat
  members  : List Nat
  launches : Nat
  agxc     : Nat
deriving DecidableEq, Repr

/-- A frame in a ring (R318, R320), with the slices as lit where its filter looks (R325). -/
structure Frame where
  words : List Word
  views : List SliceView
deriving DecidableEq, Repr

/-- What telemetry took of the flash that ended (R315, R317, R327): the flash, the own ports' entries (20 of two words), LEVEL and WHERE of the
gauges, the slices' counts, the slices as lit, the stragglers' own lag sums stand in the plans. -/
structure TelOwn where
  flash   : Nat
  entries : List Word
  levels  : List (Nat × Nat)
  counts  : List TelSlice
  views   : List SliceView
deriving DecidableEq, Repr

/-- The batch in progress (R315): the frame of a flash, and its discards for TEL_UNROUTABLE and TEL_MISMATCH. -/
structure TelBatch where
  flash    : Nat
  frame    : Frame
  unroute  : Nat
  mismatch : Nat
deriving DecidableEq, Repr

/-- Telemetry (12_telemetry_saturation.md): the reports kept for the next intake, the slices' counts of the flash in progress, what was taken of
the flash that ended, the batch in progress, the runs of the gauges, both rings by slot. -/
structure TelState where
  reports : List LoadReport
  parts   : List (Addr × Nat × Nat × List Word)   -- parts of reports that are not all in: agent, flash, part, words (R445)
  counts  : List TelSlice
  own     : Option TelOwn
  making  : Option TelBatch
  runs    : List Nat                   -- flashes in a row at or above WARN_PM, per gauge (R328)
  fine    : List (Nat × Frame)
  coarse  : List (Nat × Frame)
deriving DecidableEq, Repr

/-- Telemetry after reset: both rings empty (R321). -/
def TelState.reset : TelState :=
  { reports := [], parts := [], counts := [], own := none, making := none, runs := List.replicate 9 0, fine := [], coarse := [] }

/-- A word of the fine ring by byte offset: slots of 40 KiB (R318, R320); an empty slot reads 0. -/
def TelState.fineWord (t : TelState) (off : Nat) : Word :=
  match lookupNat (off / 40960) t.fine with
  | some f => wordAt f.words (off % 40960 / 4)
  | none => 0
/-- A word of the coarse ring by byte offset (R320). -/
def TelState.coarseWord (t : TelState) (off : Nat) : Word :=
  match lookupNat (off / 40960) t.coarse with
  | some f => wordAt f.words (off % 40960 / 4)
  | none => 0

/-! ### The Warden core (13_security.md) -/

/-- A statement queued for signature (R351): a link CONFIRM, a seal, or an attestation report. -/
inductive SignFor where
  | confirm (port : Nat)
  | seal (slice : Nat)
  | report (win : Nat)
deriving DecidableEq, Repr

/-- An entry of the signing queue (R345, R351): what it is, its place in the order of R351 (1 CONFIRM, 2 lighting or takeover, 3 low renewal,
4 command, 5 renewal), its content once taken, and for a seal the flash and epoch of the content and its expiry; for a report its flash. -/
structure SignJob where
  what   : SignFor
  rank   : Nat
  body   : Option (List Byte)
  tail   : List Byte           -- the layout block a report is followed by (R345)
  flash  : Nat
  epoch  : Nat
  expiry : Nat
  done   : Nat                 -- flash in which the signature was completed (R351)
deriving DecidableEq, Repr

/-- The newest published seal of a slice (R350 to R353): its flashes, epoch and bytes, the broadcasts sent, the FA3 members that have not shown
it, whether its renewal was queued and it was found low, whether this unit published it. -/
structure Seal where
  slice   : Nat
  issue   : Nat
  expiry  : Nat
  epoch   : Nat
  bytes   : List Byte
  sent    : Nat
  missing : List Addr
  renewed : Bool
  low     : Bool
  own     : Bool
deriving DecidableEq, Repr

/-- An ISSUE_SEAL that waits for a seal (R354): its window, slice, RENEW, address and length, and the least ISSUE_FLASH it waits for. -/
structure SealWait where
  win   : Nat
  slice : Nat
  addr  : Nat
  len   : Nat
  since : Nat
deriving DecidableEq, Repr

/-- Key state of a tenant slice (R341, R343): creation epoch, KEYGEN, the older live generation, a rotation held pending. -/
structure SliceKey where
  slice   : Nat
  epoch   : Nat
  gen     : Nat
  old     : Option Nat
  pending : Bool
deriving DecidableEq, Repr

/-- An enrolment in progress (R338): its slot and action, the endorsement once fetched, the reason of the verification once it has ended. -/
structure Enrol where
  slot   : Nat
  action : Nat
  bytes  : Option (List Byte)
  reason : Option Nat
deriving DecidableEq, Repr

/-- The Warden core: whether it runs its firmware, the digest of the lit bank it has recorded as verified, the signing queue, the statement being
signed, seals signed and not published, the seals, the commands that wait, the slices' keys, the enrolment in progress, the Pilot image the
cores are released with. -/
structure WdnState where
  serving  : Bool
  verified : Option Digest
  chart    : Option Digest       -- the lit chart as measured at the Warden core's start (R33)
  queue    : List SignJob
  signing  : Option SignJob
  signed   : List SignJob
  seals    : List Seal
  waits    : List SealWait
  keys     : List SliceKey
  enrol    : Option Enrol
  pilot    : List Byte
deriving DecidableEq, Repr

/-- The Warden core after reset: not serving until it has started (R33). -/
def WdnState.reset : WdnState :=
  { serving := false, verified := none, chart := none, queue := [], signing := none, signed := [], seals := [], waits := [], keys := [], enrol := none, pilot := [] }

/-- The state image's content (14_redundancy.md, The state image): the Keeper state that enters the delta, block by block: every register but the
log book's, and the state of the stages and the streaming paths, without piece places, launch buffers, telemetry history, the log book, keys and Warden
SRAM. -/
structure Image where
  flash    : Nat
  regs     : List (Nat × Word)
  hif      : Hif
  work     : Work
  litDigest : Option Digest
  chartArm : Option Arming
  announce : Option ChartAnnounce
  acting   : Bool
  deputyActs : Bool
  link     : LinkState
  mgmt     : MgmtState
  mgen     : Nat
  slv      : SlvState
  slc      : SliceState
  clp      : ClpState
  lmp      : LmpState
  lntCtxs  : List LntCtx
  lntPlanes : List (Nat × Nat)
  tim      : TimState
  rst      : RstState
  pwr      : PwrState
  seals    : List Seal
deriving DecidableEq, Repr

/-- What a selective set gives a unit that takes over (R375): the slice table, the seals, the plans as this rack and as the head hold them, and
the lit bank's epoch, flash and digest. -/
structure SelImage where
  table   : List SliceRec
  seals   : List Seal
  plans   : List Plan
  live    : List HeadPlan
  adms    : List Admission
  lntCtxs : List LntCtx
  epoch   : Nat
  litFlash : Nat
  digest  : Digest
deriving DecidableEq, Repr


/-! ### The whole state -/

/-- The state of the block: one Keeper unit and the agents of its rack. -/
structure State where
  pending : List Instr                 -- commands waiting, first in first out (the model's own)
  outbox  : List Out                   -- what the block has sent, newest first (the model's own, log entry 2)
  freeCtr : Nat                        -- counter of the free values (the model's own, log entry 9)
  regs    : List (Nat × Word)          -- BAR0 registers that differ from their reset value, by ascending offset
  tim     : TimState
  hif     : Hif
  work    : Work
  chart   : ChartState
  link    : LinkState
  mgmt    : MgmtState
  slv     : SlvState
  slc     : SliceState
  clp     : ClpState
  lmp     : LmpState
  hbm     : List HbmPage               -- the encrypted pages in use, by ascending number (R342)
  lnt     : LntState
  mor     : MorState
  rst     : RstState
  pwr     : PwrState
  wdn     : WdnState
  log     : LogState
  tel     : TelState
  agents  : List Agent                 -- an agent not listed is as it comes up
deriving DecidableEq, Repr

/-- The machine right after reset: every register at the reset value of its table (R7, R484 and the other register rules), no
chart lit, nothing waiting. -/
def State.reset : State :=
  { pending := [], outbox := [], freeCtr := 0, regs := [(Reg.PWR_RAILS, 0xFF)], tim := TimState.reset, hif := Hif.reset, work := Work.reset,
    chart := ChartState.reset, link := LinkState.reset, mgmt := MgmtState.reset, slv := SlvState.reset, slc := SliceState.reset, clp := ClpState.reset, lmp := LmpState.reset, hbm := [], lnt := LntState.reset, mor := MorState.reset,
    rst := RstState.reset, pwr := PwrState.reset, wdn := WdnState.reset, log := LogState.reset, tel := TelState.reset, agents := [] }

/-- No command of this block faults: the spec gives every command an effect. The type stands for the host's interface. -/
inductive Fault where
  /-- Never raised by any meaning; safe. -/
  | none
deriving DecidableEq, Repr

/-- Refusals. -/
inductive Refusal where
  /-- Raised by exec's arm for a command without a meaning yet; safe: the machine stops. -/
  | notModelled (mnemonic : String)
deriving DecidableEq, Repr

end Sys2Proof.Machine
end

