-- ==== Sys2Proof/Machine/Ops.lean ====
section
/-! DEFINITION. Machine/Ops.lean: the operations every meaning shares: registers and their fields (R7 to R15), interrupts and
MSI-X (R472, R473), the host interface's error status, outputs, fabric time, window completions (R28, R470). -/
namespace Sys2Proof.Machine

/-! ### Registers -/

/-- Whether a row of the register index covers an offset. -/
def RegRow.covers (r : RegRow) (off : Nat) : Bool :=
  r.off ≤ off && (off - r.off) % r.stride == 0 && (off - r.off) / r.stride < r.count

/-- The row of the register index that covers a BAR0 offset; none for a reserved address (R511). -/
def regRow (off : Nat) : Option RegRow := (regRowsAt off).find? fun r => r.covers off

/-- The reset value of the register at an offset (the Reset columns; 0 at a reserved address). -/
def resetOf (off : Nat) : Word :=
  match regRow off with
  | some r => r.reset
  | none => 0

/-- The value a register holds. -/
def State.getReg (s : State) (off : Nat) : Word :=
  match lookupNat off s.regs with
  | some v => v
  | none => resetOf off

/-- The register file with one register written, in its canonical form. -/
def regsWith (off : Nat) (v : Word) (regs : List (Nat × Word)) : List (Nat × Word) :=
  if v = resetOf off then eraseNat off regs else insertNat off v regs

/-- The state with one register written. -/
def State.setReg (s : State) (off : Nat) (v : Word) : State := { s with regs := regsWith off v s.regs }

/-- A field of a register, as a number. -/
def State.getF (s : State) (f : Fld) : Nat := bitsOf (s.getReg f.off) f.lo f.width

/-- A one-bit field. -/
def State.flag (s : State) (f : Fld) : Bool := bitAt (s.getReg f.off) f.lo

/-- The state with one field written; the value is truncated to the field. -/
def State.setF (s : State) (f : Fld) (v : Nat) : State := s.setReg f.off (putBits (s.getReg f.off) f.lo f.width v)

/-- Field n of a run of registers 4 bytes apart. -/
def Fld.at (f : Fld) (n : Nat) : Fld := { f with off := f.off + 4 * n }

/-- A counter field raised by n, holding at its maximum (R15). -/
def State.count (s : State) (f : Fld) (n : Nat) : State := s.setF f (satAdd (2 ^ f.width - 1) (s.getF f) n)

/-- A counter register raised by n, holding at its maximum (R15). -/
def State.countReg (s : State) (off : Nat) (n : Nat) : State :=
  s.setReg off (w32 (satAdd (2 ^ 32 - 1) (s.getReg off).toNat n))

/-- A 64-bit pair written, low half at the offset (R7). -/
def State.setPair (s : State) (off : Nat) (v : Nat) : State := (s.setReg off (loHalf v)).setReg (off + 4) (hiHalf v)

/-- A 64-bit pair read whole. -/
def State.getPair (s : State) (off : Nat) : Nat := (s.getReg off).toNat + (s.getReg (off + 4)).toNat * 2 ^ 32

/-- The 16 digest registers from an offset, byte 0 in the first [7:0]. -/
def State.setDigest (s : State) (off : Nat) (d : Digest) : State :=
  (List.range 16).foldl (fun s i => s.setReg (off + 4 * i) (d.extractLsb' (32 * i) 32)) s

/-- The eight registers of a slice set, slice n in register n / 32, bit n mod 32. -/
def State.setSliceSet (s : State) (off : Nat) (d : SliceSet) : State :=
  (List.range 8).foldl (fun s i => s.setReg (off + 4 * i) (d.extractLsb' (32 * i) 32)) s

/-! ### Outputs -/

/-- One more output. -/
def State.send (s : State) (o : Out) : State := { s with outbox := o :: s.outbox }

/-- The next free value of Config, and the counter advanced. -/
def State.fresh (s : State) : Word × State := (Config.freeWord s.freeCtr, { s with freeCtr := s.freeCtr + 1 })

/-! ### Interrupts (R472, R473) -/

/-- The vector of a block's status register (R472, R510); 64 for a register that drives none. -/
def vectorOf (off : Nat) : Nat :=
  if off = Reg.HIF_INT_STATUS then 16 else if off = Reg.CHT_INT_STATUS then 17 else if off = Reg.DSC_INT_STATUS then 18
  else if off = Reg.SLV_INT_STATUS then 19 else if off = Reg.WDN_INT_STATUS then 20 else if off = Reg.WDN_SEC_INT_STATUS then 21
  else if off = Reg.CLP_INT_STATUS then 22 else if off = Reg.CLP_FAULT_STATUS then 23 else if off = Reg.LMP_INT_STATUS then 24
  else if off = Reg.LNT_INT_STATUS then 25 else if off = Reg.TIM_INT_STATUS then 26 else if off = Reg.TEL_INT_STATUS then 27
  else if off = Reg.MOR_INT_STATUS then 28 else if off = Reg.RST_INT_STATUS then 29 else if off = Reg.LOG_INT_STATUS then 30
  else if off = Reg.PWR_INT_STATUS then 31 else 64

/-- The status registers in vector order, 16 to 31. -/
def statusRegs : List Nat :=
  [Reg.HIF_INT_STATUS, Reg.CHT_INT_STATUS, Reg.DSC_INT_STATUS, Reg.SLV_INT_STATUS, Reg.WDN_INT_STATUS, Reg.WDN_SEC_INT_STATUS,
   Reg.CLP_INT_STATUS, Reg.CLP_FAULT_STATUS, Reg.LMP_INT_STATUS, Reg.LNT_INT_STATUS, Reg.TIM_INT_STATUS, Reg.TEL_INT_STATUS,
   Reg.MOR_INT_STATUS, Reg.RST_INT_STATUS, Reg.LOG_INT_STATUS, Reg.PWR_INT_STATUS]

/-- Whether a block vector is asserted: a bit set in both its status and its enable register (R473). -/
def State.asserted (s : State) (v : Nat) : Bool :=
  match statusRegs[v - 16]? with
  | some off => (s.getReg off &&& s.getReg (off + 4)) != 0
  | none => false

/-- One vector's record, changed. -/
def State.onVec (s : State) (v : Nat) (f : Vec → Vec) : State :=
  { s with hif := { s.hif with vecs := modifyAt f v s.hif.vecs } }

/-- A vector's record. -/
def State.vec (s : State) (v : Nat) : Vec := s.hif.vecs.getD v Vec.reset

/-- A vector's message falls due: pended when masked, owed in D3hot (R465), due within the 1 µs spacing, else sent (R473). -/
def State.signal (s : State) (v : Nat) : State :=
  let e := s.vec v
  if e.ctrl.getLsbD 0 then s.onVec v fun e => { e with pending := true }
  else if s.hif.d3hot then { s with hif := { s.hif with owed := if s.hif.owed.contains v then s.hif.owed else s.hif.owed ++ [v] } }
  else if e.spacing then s.onVec v fun e => { e with due := true }
  else (s.send (.msix v e.addr e.data)).onVec v fun e => { e with spacing := true, due := false, pending := false }

/-- A status bit the Keeper sets in this core cycle (R12). -/
def State.noteSet (s : State) (f : Fld) : State := { s with hif := { s.hif with sets := (f.off, f.lo) :: s.hif.sets } }

/-- The core cycle ends (R12, R13). -/
def State.endCycle (s : State) : State :=
  { s with hif := { s.hif with sets := [], again := [] }, work := { s.work with opening := false } }

/-- The core cycle in which a flash boundary falls begins (R21). -/
def State.openCycle (s : State) : State :=
  { s with hif := { s.hif with sets := [], again := [] }, work := { s.work with opening := true } }

/-- The Keeper has cleared a request bit on completing the request; a host write that set it again in the same core cycle leaves it set and is a
new request, which the given act takes (R13). -/
def State.renew (s : State) (f : Fld) (act : State → State) : State :=
  if s.hif.again.contains (f.off, f.lo) then
    act ({ s with hif := { s.hif with again := s.hif.again.filter fun x => x != (f.off, f.lo) } }.setF f 1)
  else s

/-- The Keeper sets a status bit: it stays set until the host clears it, and an enabled bit that rises signals its vector
(R10, R473). -/
def State.raise (s : State) (f : Fld) : State :=
  let t := (s.setF f 1).noteSet f
  if s.flag f then t
  else if bitAt (s.getReg (f.off + 4)) f.lo then t.signal (vectorOf f.off) else t

/-- Raise when a condition holds. -/
def State.raiseIf (s : State) (b : Bool) (f : Fld) : State := if b then s.raise f else s

/-! ### The host interface's error status (R484, R485) -/

/-- An access recorded in HIF_ERR_STATUS: HIF_ERR_WHERE takes the first one since the status was 0, HIF_ERR_COUNT counts it,
and a bit gained raises HIF_INT_STATUS.ERROR. -/
def State.recordErr (s : State) (f : Fld) (bar off : Nat) : State :=
  let first := s.getReg Reg.HIF_ERR_STATUS == 0 || !s.hif.seen
  let gained := !(s.flag f)
  let s := if first then s.setReg Reg.HIF_ERR_WHERE (w32 (off / 4 * 4 + bar)) else s
  let s : State := { s with hif := { s.hif with seen := true } }
  let s := ((s.setF f 1).noteSet f).countReg Reg.HIF_ERR_COUNT 1
  s.raiseIf gained Fld.HIF_INT_STATUS_ERROR

/-- A DMA error: HIF_ERR_STATUS.DMA and HIF_DMA_ERR (R475). -/
def State.dmaErr (s : State) (win kind : Nat) : State :=
  let gained := !(s.flag Fld.HIF_ERR_STATUS_DMA)
  let s : State := { s with hif := { s.hif with seen := s.hif.seen && s.getReg Reg.HIF_ERR_STATUS != 0 } }
  let s := (((s.setF Fld.HIF_ERR_STATUS_DMA 1).noteSet Fld.HIF_ERR_STATUS_DMA).setF Fld.HIF_DMA_ERR_WINDOW win).setF Fld.HIF_DMA_ERR_KIND kind
  s.raiseIf gained Fld.HIF_INT_STATUS_ERROR

/-! ### Identity and fabric time -/

/-- Role of this unit: 0 A, 1 B (R362, R490). -/
def State.role (s : State) : Nat := s.getF Fld.PWR_STRAPS_ROLE

/-- X of this rack (R490). -/
def State.rx (s : State) : Nat := s.getF Fld.PWR_STRAPS_POS_X

/-- Y of this rack (R490). -/
def State.ry (s : State) : Nat := s.getF Fld.PWR_STRAPS_POS_Y

/-- A coordinate address (R47). -/
def mkAddr (kind x y index : Nat) : Addr :=
  BitVec.ofNat 16 ((kind % 4) * 2 ^ 14 + (x % 8) * 2 ^ 11 + (y % 8) * 2 ^ 8 + index % 256)

/-- Kind of a coordinate address. -/
def addrKind (a : Addr) : Nat := a.toNat / 2 ^ 14
/-- rx of a coordinate address. -/
def addrX (a : Addr) : Nat := a.toNat / 2 ^ 11 % 8
/-- ry of a coordinate address. -/
def addrY (a : Addr) : Nat := a.toNat / 2 ^ 8 % 8
/-- Index of a coordinate address. -/
def addrIndex (a : Addr) : Nat := a.toNat % 256

/-- This unit's own coordinate address, by role (R47, R48). -/
def State.self (s : State) : Addr := mkAddr 2 s.rx s.ry s.role

/-- The source of a management request: index 0x02, whichever Keeper holds LIT (R48). -/
def State.selfLit (s : State) : Addr := mkAddr 2 s.rx s.ry 2

/-- This unit holds LIT (R363). -/
def State.lit (s : State) : Bool := s.mor.lit

/-- Units of fabric time, 2^-8 ns, in one flash (R289). -/
def State.flashUnits (s : State) : Nat := s.tim.periodUs * 256000

/-- The period that holds a flash, as its first flash, its µs and the count at its boundary (R289). -/
def State.periodOf (s : State) (flash : Nat) : Nat × Nat × Nat := (s.tim.periods.find? fun p => p.1 ≤ flash).getD (0, s.tim.periodUs, 0)

/-- A stamp as one count of 2^-8 ns, reckoned through the periods of the flashes before it (R289). -/
def State.absTime (s : State) (flash offset : Nat) : Nat :=
  let p := s.periodOf flash
  p.2.2 + (flash - p.1) * (p.2.1 * 256000) + offset

/-- The flash and the offset of such a count (R289). -/
def State.timeAt (s : State) (t : Nat) : Nat × Nat :=
  let p := (s.tim.periods.find? fun p => p.2.2 ≤ t).getD (0, s.tim.periodUs, 0)
  let u := max 1 (p.2.1 * 256000)
  (p.1 + (t - p.2.2) / u, (t - p.2.2) % u)

/-- The flash nearest now whose low half is a word. -/
def State.flashNear (s : State) (w : Word) : Nat :=
  let d := (w - BitVec.ofNat 32 s.tim.flash).toNat
  if d < 2 ^ 31 then s.tim.flash + d else s.tim.flash + d - 2 ^ 32

/-- A period of P µs in force from a flash on (R20, R289). -/
def State.setPeriod (s : State) (flash us : Nat) : State :=
  if us = s.tim.periodUs then s
  else { s with tim := { s.tim with periodUs := us, periods := (flash, us, s.absTime flash 0) :: s.tim.periods.filter fun p => p.1 < flash } }

/-- Now, as one count of 2^-8 ns. -/
def State.now (s : State) : Nat := s.absTime s.tim.flash s.tim.offset

/-- Flash and offset of now. -/
def State.stamp (s : State) : Nat × Nat := (s.tim.flash, s.tim.offset)

/-- The time since a flash and an offset, in units of 2^-8 ns. -/
def State.since (s : State) (x : Nat × Nat) : Nat := s.now - s.absTime x.1 x.2

/-- The stage parameters of the lit chart; the defaults while none is lit (R79). -/
def State.params (s : State) : StageParams :=
  match s.chart.lit with
  | some c => c.params
  | none => StageParams.default

/-- Axis sizes of the lit chart; 1 by 1 while none is lit. -/
def State.axes (s : State) : Nat × Nat :=
  match s.chart.lit with
  | some c => (c.install.sx, c.install.sy)
  | none => (1, 1)

/-- Rack number r = SX × y + x (R74). -/
def State.rackNo (s : State) (x y : Nat) : Nat := s.axes.1 * y + x

/-- This rack's number. -/
def State.myRack (s : State) : Nat := s.rackNo s.rx s.ry

/-- How many racks the cluster has; 1 while no chart is lit. -/
def State.rackCount (s : State) : Nat := s.axes.1 * s.axes.2

/-- The head rack of the lit chart is this one (R73). -/
def State.inHeadRack (s : State) : Bool :=
  match s.chart.lit with
  | some c => c.install.headX == s.rx && c.install.headY == s.ry
  | none => false

/-- The deputy rack of the lit chart is this one (R73). -/
def State.inDeputyRack (s : State) : Bool :=
  match s.chart.lit with
  | some c => c.install.depX == s.rx && c.install.depY == s.ry
  | none => false

/-- This Keeper serves as head or acting head (R73). -/
def State.isHead (s : State) : Bool := s.lit && (s.inHeadRack && !s.chart.deputyActs || s.chart.acting)

/-- The head serialises changes: not an acting head between the announcement of the handback and its flash (R73). -/
def State.serialises (s : State) : Bool := s.isHead && !(s.chart.acting && s.chart.handback.isSome)

/-! ### Flash stages and progress -/

/-- One stage's record, changed. -/
def State.onStage (s : State) (id : StageId) (f : Stage → Stage) : State :=
  { s with work := { s.work with stages := s.work.stages.map fun g => if g.id = id then f g else g } }

/-- An input reaches a flash stage: it waits, under its stamp, for the next intake (R21, R22, log entry 10). -/
def State.stageInput (s : State) (id : StageId) (job : Job) : State :=
  s.onStage id fun g => { g with waiting := g.waiting ++ [(s.tim.flash, job)] }

/-- A result that joins the batch in progress and is published with it; after the close point, or with no batch taken yet, it waits for the next
batch (R23). -/
def State.stageResult (s : State) (id : StageId) (job : Job) : State :=
  s.onStage id fun g => if g.closed then { g with waiting := g.waiting ++ [(s.tim.flash, job)] } else { g with batch := g.batch ++ [(s.tim.flash, job)] }

/-- What an input asks, without the window that waits for it (R466). -/
def Job.detach (j : Job) : Job :=
  match j with
  | .light _ slot => .light 16 slot
  | .wake _ slice ns => .wake 16 slice ns
  | j => j

/-- The flash stages' inputs without the windows that wait for them (R466). -/
def Work.detach (w : Work) : Work :=
  let jobs := fun (l : List (Nat × Job)) => l.map fun (x : Nat × Job) => (x.1, x.2.detach)
  { w with stages := w.stages.map fun (g : Stage) => { g with waiting := jobs g.waiting, batch := jobs g.batch } }

/-- Whether a stage's batch still takes results: it has not passed its close point (R23, R31). -/
def State.stageOpen (s : State) (g : StageId) : Bool := s.work.stages.any fun x => x.id == g && !x.closed

/-- An engine's record, changed (R391). -/
def State.onEngine (s : State) (id : Nat) (f : Engine → Engine) : State :=
  { s with rst := { s.rst with engines := s.rst.engines.map fun e => if e.id = id then f e else e } }

/-- An engine completes a work item: PROGRESS rises by 1 and wraps (R393). -/
def State.progress (s : State) (id : Nat) : State :=
  s.onEngine id fun e => if e.stalled > 0 then e else { e with progress := e.progress + 1 }

/-! ### Command windows and completions (R468, R470) -/

/-- A window's record. -/
def State.window (s : State) (w : Nat) : Window := s.hif.windows.getD w Window.reset

/-- One window's record, changed. -/
def State.onWindow (s : State) (w : Nat) (f : Window → Window) : State :=
  { s with hif := { s.hif with windows := modifyAt f w s.hif.windows } }

/-- Word i of a window's committed command block. -/
def State.arg (s : State) (w i : Nat) : Word := wordAt (s.window w).copy i

/-- Sixteen result words from those given. -/
def padResults (rs : List Word) : List Word := (rs ++ List.replicate 16 0).take 16

/-- The completion of a BUSY window: results, flash and status, then DONE, then its vector when IRQ was set (R470). Nothing
happens for a window that is not BUSY (its command was discarded, R466). -/
def State.complete (s : State) (w : Nat) (error reason : Nat) (results : List Word) (unmirrored : Bool) : State :=
  if (s.window w).st = .busy then
    let irq := bitAt (s.arg w 0) 8
    let s := s.onWindow w fun x => { x with st := .done, error := BitVec.ofNat 8 error, reason := BitVec.ofNat 8 reason,
                                            unmirrored := unmirrored, doneFlash := s.tim.flash, results := padResults results }
    let s := s.progress 0x01
    if irq then s.signal w else s
  else s

/-- The partner's image takes every change: mirroring is on, full, and the partner is CURRENT (R28, R374, R375). -/
def State.mirrorsAll (s : State) : Bool :=
  s.flag Fld.MOR_CTRL_MIRROR_EN && s.getF Fld.MOR_STATE_PARTNER == 2 && s.getF Fld.MOR_STATE_MODE == 1

/-- A change is mirrored: in full; by the deltas of a resynchronisation, which a partner that is not STALE commits too (R384); or in a selective
mirroring when it concerns the slice table, a plan or a seal of a slice (R28, R375); 256 stands for a change outside the selective set. -/
def State.mirrors (s : State) (slice : Nat) : Bool :=
  let mode := s.getF Fld.MOR_STATE_MODE
  s.mirrorsAll || (s.flag Fld.MOR_CTRL_MIRROR_EN && mode == 3 && s.getF Fld.MOR_STATE_PARTNER == 1)
    || (s.flag Fld.MOR_CTRL_MIRROR_EN && (mode == 2 || mode == 3) && slice < 256)

/-- A command that changed Keeper state has done so in the delta of a flash: its completion waits for the commit of that delta,
or, unmirrored, for its publication (R28). -/
def State.completeAfter (s : State) (w delta slice : Nat) (results : List Word) : State :=
  { s with hif := { s.hif with
      waits := s.hif.waits ++ [{ win := w, delta := delta, mirrored := s.mirrors slice, sel := slice < 256, error := 0, reason := 0, results := results }] } }

/-- The waiting completions that satisfy a test are written, in order; the others stay. -/
def State.releaseWaits (s : State) (p : Wait → Bool) (unmirrored : Bool) : State :=
  let go := s.hif.waits.filter p
  let s := { s with hif := { s.hif with waits := s.hif.waits.filter fun x => !p x } }
  go.foldl (fun s x => s.complete x.win x.error.toNat x.reason.toNat x.results unmirrored) s

/-- A refusal of a host command (R475). -/
def State.refuse (s : State) (w error reason : Nat) : State := s.complete w error reason [] false

end Sys2Proof.Machine
end

