-- ==== Sys2Proof/Machine/PacketOps.lean ====
section
/-! DEFINITION. Machine/PacketOps.lean: packets as words, their checks, and what OPKIND allows (R53 to R56, R93, R94). -/
namespace Sys2Proof.Machine

/-- The words of a packet header in order (R53). -/
def hdrWords (h : Hdr) : List Word :=
  [fieldAt 0 16 h.dest.toNat ||| fieldAt 16 16 h.src.toNat,
   fieldAt 0 8 h.slice.toNat ||| fieldAt 8 3 h.vc.toNat ||| fieldAt 11 3 h.svc.toNat ||| fieldAt 14 6 h.gen.toNat
     ||| fieldAt 20 12 h.wseq.toNat,
   fieldAt 0 8 h.opkind.toNat ||| fieldAt 8 6 h.len.toNat ||| fieldAt 14 1 (b2n h.amode) ||| fieldAt 15 1 (b2n h.rsv)
     ||| fieldAt 16 16 h.optag.toNat,
   fieldAt 0 16 h.tstx.toNat ||| fieldAt 16 16 h.hcrc.toNat]

/-- The header that four words hold (R53). -/
def hdrOfWords (ws : List Word) : Hdr :=
  let f := fun (i lo w : Nat) => bitsOf (wordAt ws i) lo w
  { dest := BitVec.ofNat 16 (f 0 0 16), src := BitVec.ofNat 16 (f 0 16 16), slice := BitVec.ofNat 8 (f 1 0 8),
    vc := BitVec.ofNat 3 (f 1 8 3), svc := BitVec.ofNat 3 (f 1 11 3), gen := BitVec.ofNat 6 (f 1 14 6), wseq := BitVec.ofNat 12 (f 1 20 12),
    opkind := BitVec.ofNat 8 (f 2 0 8), len := BitVec.ofNat 6 (f 2 8 6), amode := bitAt (wordAt ws 2) 14, rsv := bitAt (wordAt ws 2) 15,
    optag := BitVec.ofNat 16 (f 2 16 16), tstx := BitVec.ofNat 16 (f 3 0 16), hcrc := BitVec.ofNat 16 (f 3 16 16) }

/-- One bit into a most-significant-first remainder of a width, by polynomial division without its top bit. -/
def crcBit (width poly rem : Nat) (bit : Bool) : Nat :=
  let top := rem.testBit (width - 1) != bit
  let sh := rem * 2 % 2 ^ width
  if top then sh ^^^ poly else sh

/-- One byte into a remainder, most significant bit first. -/
def crcByte (width poly rem : Nat) (b : Byte) : Nat :=
  [7, 6, 5, 4, 3, 2, 1, 0].foldl (fun r i => crcBit width poly r (b.getLsbD i)) rem

/-- An unreflected CRC without final XOR. -/
def crc (width poly init : Nat) (bs : List Byte) : Nat := bs.foldl (crcByte width poly) init

/-- HCRC over header bytes: polynomial 0x1021, initial value 0xFFFF (R54). -/
def crc16 (bs : List Byte) : Nat := crc 16 0x1021 0xFFFF bs

/-- HCRC of a header as it stands: over its bytes 0 to 13 (R54). -/
def hcrcOf (h : Hdr) : BitVec 16 := BitVec.ofNat 16 (crc16 ((bytesOfWords (hdrWords h)).take 14))

/-- The header as the transmitting port writes it: TSTX, then HCRC over it (R54). -/
def stampHdr (h : Hdr) (offset : Nat) : Hdr :=
  let h := { h with tstx := BitVec.ofNat 16 offset }
  { h with hcrc := hcrcOf h }

/-! ### Frames (R93, R113) -/

/-- A number of n bits with its bits in the other order. -/
def reflectBits (n v : Nat) : Nat := (List.range n).foldl (fun acc i => acc * 2 + b2n (v.testBit i)) 0

/-- The frame check: CRC-32 with polynomial 0x04C11DB7 over the payload in stored order; start value, bit order and final combination are open
(R93, log entry 102). -/
def frameCheck (ws : List Word) : Word :=
  let order := if Config.fcsReflected then [0, 1, 2, 3, 4, 5, 6, 7] else [7, 6, 5, 4, 3, 2, 1, 0]
  let r := (bytesOfWords ws).foldl (fun r b => order.foldl (fun r i => crcBit 32 0x04C11DB7 r (b.getLsbD i)) r) Config.fcsInit.toNat
  w32 (if Config.fcsReflected then reflectBits 32 r else r) ^^^ Config.fcsXor

/-- The additional data of an encrypted packet: header words 0 to 2 (R113). -/
def frameAad (h : Hdr) : List Byte := bytesOfWords ((hdrWords h).take 3)

/-- The 16-byte tag of a ciphertext (R113). -/
def frameTag (key : List Byte) (dir counter : Nat) (h : Hdr) (ws : List Word) : List Byte :=
  (List.range 16).map (Config.gcmTagByte key dir counter (frameAad h) (bytesOfWords ws))

/-- A packet as a frame in clear (R93). -/
def plainFrame (p : Packet) : WireFrame := { hdr := p.hdr, payload := p.payload, check := frameCheck p.payload, tag := [] }

/-- A packet as a frame of an encrypted port: the payload encrypted, the frame check over what the wire carries, the tag after it (R93, R113, log
entry 102). -/
def sealedFrame (key : List Byte) (dir counter : Nat) (p : Packet) : WireFrame :=
  let bs := bytesOfWords p.payload
  let ws := wordsOfBytes ((List.range bs.length).map (Config.gcmByte key dir counter (frameAad p.hdr) bs))
  { hdr := p.hdr, payload := ws, check := frameCheck ws, tag := frameTag key dir counter p.hdr ws }

/-- A frame's check is wrong: it does not end with the granules its header announces, or its CRC fails (R93). -/
def frameWrong (f : WireFrame) : Bool := f.payload.length != 16 * (f.hdr.len.toNat + 1) || f.check != frameCheck f.payload

/-- A header is cut short, or its HCRC is wrong (R54). -/
def headerWrong (ws : List Word) : Bool := decide (ws.length < 4) || (hdrOfWords ws).hcrc != hcrcOf (hdrOfWords ws)

/-! ### Link control blocks (R94) -/

/-- Bits of a block's body by its TYPE; a TYPE above 6 or 0 is reserved (R94). -/
def lcbBits (type : Nat) : Nat := [0, 9, 0, 64, 2, 0, 32].getD type 0

/-- A link control block: TYPE, sequence number, body (R94). -/
def lcbBlock (type seq body : Nat) : BitVec 128 := BitVec.ofNat 128 (type + 256 * (seq % 256) + 65536 * (body % 2 ^ lcbBits type))

/-- A block has a defined TYPE, and only the bits named for it are set (R94). -/
def lcbValid (b : BitVec 128) : Bool :=
  let type := b.toNat % 256
  1 ≤ type && type ≤ 6 && decide (b.toNat / 65536 < 2 ^ lcbBits type)

/-- Bytes of a packet on the link: header and payload (R60). -/
def packetBytes (h : Hdr) : Nat := 16 + 64 * (h.len.toNat + 1)

/-- Credit units a packet occupies (R62). -/
def packetUnits (h : Hdr) : Nat := h.len.toNat + 2

/-- Whether OPKIND is one of R55's values. -/
def opkindKnown (k : Nat) : Bool :=
  [0x01, 0x02, 0x03, 0x04, 0x05, 0x06, 0x10, 0x11, 0x12, 0x13, 0x20, 0x21, 0x22, 0x23, 0x24, 0x30, 0x31, 0x40, 0x50, 0x51, 0x52].contains k

/-- Whether a kind may travel in an AMODE on an SVC (R55). -/
def opkindModeOk (k : Nat) (amode : Bool) (svc : Nat) : Bool :=
  if [0x01, 0x02, 0x03, 0x04, 0x05, 0x06, 0x40, 0x50, 0x51, 0x52].contains k then amode && svc == 0
  else if [0x10, 0x11, 0x12].contains k then !amode && 4 ≤ svc && svc ≤ 6
  else if k = 0x13 then 2 ≤ svc && svc ≤ 6
  else if [0x20, 0x21, 0x22, 0x23, 0x24].contains k then svc == 2 || svc == 3
  else if k = 0x30 || k = 0x31 then amode && svc == 1
  else false

/-- The OPTAG bits a kind names; the others are reserved (R55). -/
def optagMask (k : Nat) : Nat :=
  if [0x02, 0x03, 0x04, 0x06, 0x40, 0x50].contains k then 0x0FFF
  else if [0x10, 0x11, 0x12].contains k then 0xFFFF
  else if [0x20, 0x21, 0x22, 0x23, 0x24].contains k then 0x07FF
  else if k = 0x30 || k = 0x31 then 0x00FF
  else 0

/-- Whether a coordinate address has a defined index (R47). -/
def indexOk (a : Addr) : Bool :=
  let i := a.toNat % 256
  let k := a.toNat / 2 ^ 14
  if k = 0 then i ≤ 0x7F else if k = 1 then i ≤ 0x0F else i ≤ 2

/-- The reason a received packet is refused for its header (R17, R47, R53, R55, R56), in EV_PACKET_REFUSED's coding (R424); 0 none. -/
def headerRefusal (mooring : Bool) (h : Hdr) : Nat :=
  let k := h.opkind.toNat
  let moorKind := k == 0x51 || k == 0x52
  if !opkindKnown k then 1
  else if mooring && !moorKind then 1
  else if !mooring && (k == 0x51 || k == 0x52) then 1
  else if h.rsv || (h.optag.toNat &&& (0xFFFF - optagMask k)) != 0
       || (!h.amode && (h.dest.toNat / 2 ^ 14 != 0 || h.src.toNat / 2 ^ 14 != 0)) then 2
  else if h.amode && !(indexOk h.dest && indexOk h.src) then 3
  else if !opkindModeOk k h.amode h.svc.toNat || (h.vc != h.svc && !(h.vc == 7 && 2 ≤ h.svc.toNat && h.svc.toNat ≤ 6)) then 4
  else 0

end Sys2Proof.Machine
end

