-- ==== Sys2Proof/Machine/EgressOps.lean ====
section
/-! DEFINITION. Machine/EgressOps.lean: an egress, of a Keeper port, a switch port or an endpoint link: its buckets, its turns, its choice (R58 to R62,
R202). -/
namespace Sys2Proof.Machine

/-! ### Buckets (R60) -/

/-- A bucket filled to now: its share, in per cent, of the rate of some lanes at 224 Gb/s over the time since it was last filled, 8,224 bytes at
most (R60). -/
def State.fillBucket (s : State) (percent lanes : Nat) (b : Bucket) : Bucket :=
  let e := b.part + 28 * percent * lanes * s.since b.filled
  { bytes := min 8224 (b.bytes + e / 25600), part := e % 25600, filled := s.stamp }

/-- Both buckets of an egress filled to now, at the lane count of the time that ends (R60). -/
def State.fillEgress (s : State) (lanes : Nat) (q : Egress) : Egress :=
  { q with bucket0 := s.fillBucket 2 lanes q.bucket0, bucket1 := s.fillBucket 3 lanes q.bucket1 }

/-- A bucket with a packet's bytes taken. -/
def Bucket.take (b : Bucket) (n : Nat) : Bucket := { b with bytes := b.bytes - n }

/-! ### Waiting packets -/

/-- A packet joins an egress under its virtual channel and, on VC2 and VC3, its group (SLICE, OPTAG) (R59, R202). -/
def Egress.join (q : Egress) (came : Option (Nat × Nat)) (p : Packet) : Egress :=
  let group := p.hdr.slice.toNat * 2048 + p.hdr.optag.toNat % 2048
  { q with queue := q.queue ++ [{ vc := p.hdr.vc.toNat, group := if p.hdr.vc = 2 ∨ p.hdr.vc = 3 then group else 0, came := came, pkt := p }] }

/-- The input a packet came by, in the round among inputs: 0 for a packet formed here. -/
def Waiting.input (w : Waiting) : Nat := match w.came with
  | some c => c.1 + 1
  | none => 0

/-- The place of a VC and group in `inTurn`. -/
def Waiting.turnKey (w : Waiting) : Nat := 2 ^ 20 * w.vc + w.group

/-- The least number of a list; none of an empty one. -/
def leastOf (xs : List Nat) : Option Nat := xs.foldl (fun acc x => match acc with
  | none => some x
  | some y => some (min x y)) none

/-- The number whose turn it is after the last one served: the next above it, else the least. -/
def turnAfter (last : Nat) (xs : List Nat) : Option Nat := (leastOf (xs.filter (last < ·))).orElse fun _ => leastOf xs

/-- The packet of a VC that is next: on VC2 and VC3 the next group after the last one served takes its turn, and in it the next input (R61, R202). -/
def Egress.nextOf (q : Egress) (vc : Nat) : Option Waiting :=
  let ws := q.queue.filter fun w => w.vc == vc
  if vc = 2 ∨ vc = 3 then
    (turnAfter (q.groupTurn.getD (vc - 2) 0) (ws.map (·.group))).bind fun g =>
      let mine := ws.filter fun w => w.group == g
      (turnAfter ((lookupNat (2 ^ 20 * vc + g) q.inTurn).getD 0) (mine.map Waiting.input)).bind fun i => mine.find? fun w => w.input == i
  else ws.head?

/-- Whether the egress holds credits for a whole packet on its VC (R62). -/
def Egress.credit (q : Egress) (w : Waiting) : Bool := packetUnits w.pkt.hdr ≤ q.credits.getD w.vc 0

/-- The turn passes to the next VC of the round. -/
def Egress.nextTurn (q : Egress) : Egress := { q with turn := if q.turn = 7 then 2 else q.turn + 1, granted := false }

/-- The weighted round: deficit round-robin among VC2 to VC7 (R61). A VC gets one quantum at each turn and sends while its deficit holds; then the turn
passes on. A VC with no packet waiting has its deficit reset; one whose packet waits for credits is passed over without a quantum (log entry 38). Fuel
bounds the visits. -/
def roundRobin (weight : Nat → Nat) : Nat → Egress → Option (Waiting × Egress)
  | 0, _ => none
  | n + 1, p =>
    let v := p.turn
    match p.nextOf v with
    | none => roundRobin weight n ({ p with deficits := modifyAt (fun _ => 0) (v - 2) p.deficits } : Egress).nextTurn
    | some w =>
      if ¬ p.credit w then roundRobin weight n p.nextTurn
      else
        let q := if p.granted then p else { p with deficits := modifyAt (fun d => d + weight v * 1024) (v - 2) p.deficits, granted := true }
        let bytes := packetBytes w.pkt.hdr
        if bytes ≤ q.deficits.getD (v - 2) 0 then some (w, { q with deficits := modifyAt (fun d => d - bytes) (v - 2) q.deficits })
        else roundRobin weight n q.nextTurn

/-- The next packet: VC0 while its bucket allows, VC1 while its bucket allows, then the weighted round, each with the credits for the whole packet (R59,
R60, R62). `capped` is false at the mooring port, which applies no caps (R58); `only0` says that the link carries VC0 only (R96). -/
def Egress.pick (q : Egress) (weight : Nat → Nat) (capped only0 : Bool) : Option (Waiting × Egress) :=
  match (q.nextOf 0).filter fun w => q.credit w && (!capped || packetBytes w.pkt.hdr ≤ q.bucket0.bytes) with
  | some w => some (w, { q with bucket0 := if capped then q.bucket0.take (packetBytes w.pkt.hdr) else q.bucket0 })
  | none =>
    if only0 then none
    else match (q.nextOf 1).filter fun w => q.credit w && packetBytes w.pkt.hdr ≤ q.bucket1.bytes with
      | some w => some (w, { q with bucket1 := q.bucket1.take (packetBytes w.pkt.hdr) })
      | none => roundRobin weight 64 q

/-- The next packet among those that may start now; none during a resync (R95). -/
def Egress.choose (q : Egress) (weight : Nat → Nat) (capped only0 : Bool) (may : Waiting → Bool) : Option (Waiting × Egress) :=
  if q.resyncing then none
  else (({ q with queue := q.queue.filter may } : Egress).pick weight capped only0).map fun x => (x.1, { x.2 with queue := q.queue })

/-- A packet has left: out of the queue, its credits taken, the turns of its group and input noted (R61, R62, R202). -/
def Egress.taken (q : Egress) (w : Waiting) : Egress :=
  let rest := q.queue.erase w
  let rr := w.vc = 2 ∨ w.vc = 3
  { q with
    queue := rest, credits := modifyAt (fun c => c - packetUnits w.pkt.hdr) w.vc q.credits,
    groupTurn := if rr then modifyAt (fun _ => w.group) (w.vc - 2) q.groupTurn else q.groupTurn,
    inTurn := (if rr then insertNat w.turnKey w.input q.inTurn else q.inTurn).filter fun x => rest.any fun k => k.turnKey == x.1 }

/-- Bytes sent in the flash with one more packet, its frame check counted: all, SVC 2 and 3, VC1, VC0 (R316). -/
def countSent (w : Waiting) (sent : List Nat) : List Nat :=
  let counted := fun (k : Nat) => k = 0 ∨ (k = 1 ∧ (w.pkt.hdr.svc = 2 ∨ w.pkt.hdr.svc = 3)) ∨ (k = 2 ∧ w.vc = 1) ∨ (k = 3 ∧ w.vc = 0)
  sent.zipIdx.map fun x => if counted x.2 then x.1 + packetBytes w.pkt.hdr + 4 else x.1

/-- T1 of a TIME_EXCHANGE REQUEST and T3 of a REPLY are written at the egress, from the sender's flash and offset (R296). -/
def stampTime (flash offset : Nat) (p : Packet) : Packet :=
  let k := bitsOf (wordAt p.payload 0) 0 2
  if p.hdr.opkind = 0x06 ∧ k < 2 then
    let i := if k = 0 then 1 else 7
    { p with payload := p.payload.take i ++ [loHalf flash, fieldAt 0 16 (flash / 2 ^ 32), fieldAt 0 25 offset] ++ p.payload.drop (i + 3) }
  else p

end Sys2Proof.Machine
end

