-- ==== Sys2Proof/Machine/LogOps.lean ====
section
/-! DEFINITION. Machine/LogOps.lean: taking an event into the log book: header, flags, repeats, staging (R419 to R429). -/
namespace Sys2Proof.Machine

/-- The body words, beside word 0, that make the key of a code (R424); none for a record that is never a repeat. -/
def logKeyWords (code : Nat) (bodyLen : Nat) : Option (List Nat) :=
  if code ≥ 0x080 ∧ code ≤ 0x0FF then some (List.range bodyLen)
  else if [0x017, 0x032, 0x033, 0x050].contains code then some [1, 2]
  else if [0x010, 0x011, 0x012, 0x013, 0x014, 0x015, 0x016, 0x022, 0x030, 0x041, 0x042, 0x052, 0x063, 0x070].contains code then some [1]
  else none

/-- The subject word (R422). -/
def subjectWord (party : Addr) (slice engine : Nat) : Word :=
  fieldAt 0 16 party.toNat ||| fieldAt 16 8 slice ||| fieldAt 24 8 engine

/-- The length of a record in bytes: header and body in whole 16-byte units (R419). -/
def recordLength (bodyWords : Nat) : Nat := (16 + 4 * bodyWords + 15) / 16 * 16

/-- Header word 0 of a record (R420). -/
def LogRec.header0 (r : LogRec) : Word :=
  fieldAt 0 10 r.code ||| fieldAt 10 6 (r.length / 16 - 1) ||| fieldAt 16 1 (b2n r.conc) ||| fieldAt 17 1 (b2n r.outorder)
    ||| fieldAt 18 1 (b2n r.isLocal) ||| fieldAt 19 1 (b2n r.wallback) ||| fieldAt 20 1 (b2n r.lost) ||| fieldAt 21 1 (b2n r.submitted)
    ||| fieldAt 22 10 r.wgen

/-- The words of a record as stored (R420). -/
def LogRec.words (r : LogRec) : List Word :=
  let ws := [r.header0, loHalf r.flash, fieldAt 0 16 (r.flash / 2 ^ 32) ||| fieldAt 16 16 r.rep, fieldAt 0 25 r.offset] ++ r.body
  (ws ++ List.replicate (r.length / 4) 0).take (r.length / 4)

/-- Bytes of staging held by records of one share: samples, or everything else (R428). -/
def LogState.used (l : LogState) (sample : Bool) : Nat :=
  ((l.staging.filter fun r => l.sampleStaged.contains r.seq == sample).map (·.length)).foldl (· + ·) 0

/-- Bytes of staging held by Pilot records. -/
def LogState.pilotUsed (l : LogState) : Nat :=
  ((l.staging.filter fun r => l.pilotStaged.contains r.seq).map (·.length)).foldl (· + ·) 0

/-- LOG_STAGE shows the bytes of staging in use (R437). -/
def State.showStage (s : State) : State := s.setF Fld.LOG_STAGE_USED (s.log.used true + s.log.used false)

/-- A stamp of this party is taken before acquisition, or in HOLDOVER with DEGRADED set (R421, R303). -/
def State.stampLocal (s : State) (party : Addr) : Bool :=
  if addrKind party = 2 then
    let st := s.getF Fld.TIM_STATE_STATE
    st == 0 || st == 1 || st == 6 || (st == 4 && s.flag Fld.TIM_STATE_DEGRADED)
  else s.tim.agentState party != 1 && s.tim.agentState party != 2

/-- Two stamps of different parties are concurrent: at most 12 units apart, or 127 when an FA2 agent gave one (R309). -/
def concurrent (fa2 : Bool) (a b : Nat) : Bool := (if a ≤ b then b - a else a - b) ≤ (if fa2 then 127 else 12)

/-- A stamp may be ordered against the preceding record's: a LOCAL one only against the same party's (R309, R421). -/
def LogStamp.ordered (l : LogStamp) (party : Addr) (loc : Bool) : Bool := l.party == party || !(l.loc || loc)

/-- CONC of a stamp after the preceding record's: concurrent, from another party (R309, R421). -/
def State.stampConc (s : State) (l e : LogStamp) : Bool :=
  l.ordered e.party e.loc && l.party != e.party && concurrent (e.fa2 || l.fa2) (s.absTime l.flash l.offset) (s.absTime e.flash e.offset)

/-- OUTORDER of a stamp after the preceding record's: earlier, and not concurrent (R421). -/
def State.stampOut (s : State) (l e : LogStamp) : Bool :=
  l.ordered e.party e.loc && decide (s.absTime e.flash e.offset < s.absTime l.flash l.offset) && !s.stampConc l e

/-- WALLBACK: the wall entry of the newest change has BACK set (R423). -/
def State.wallBack (s : State) : Bool :=
  let change := (s.getReg Reg.LOG_WALL_CHANGE).toNat
  match lookupNat (change % 1024) s.log.walls with
  | some w => w.back && w.change == change
  | none => false

/-- The stamp of a record, as the next record's flags compare with it. -/
def LogRec.stamp (r : LogRec) : LogStamp :=
  { flash := r.flash, offset := r.offset, party := (wordAt r.body 0).extractLsb' 0 16, fa2 := r.fa2, loc := r.isLocal }

/-- The place an entry of the repeat cache names is raised by one, in staging or in the ring (R426, R427). -/
def LogState.bump (l : LogState) (seq : Nat) : LogState :=
  let up := fun (r : LogRec) => if r.seq = seq then { r with rep := r.rep + 1 } else r
  { l with staging := l.staging.map up, ring := l.ring.map fun x => (x.1, up x.2) }

/-- REPEAT of a record that is still held. -/
def LogState.repOf (l : LogState) (seq : Nat) : Nat :=
  match (l.staging ++ l.ring.map (·.2)).find? fun r => r.seq = seq with
  | some r => r.rep
  | none => 0

/-- A record enters staging and becomes the preceding record; a keyed one enters the cache of 64 (R426, R428). -/
def State.stageRecord (s : State) (e : LogEvt) (submitted sample loc : Bool) : State :=
  let subj := subjectWord e.party e.slice.toNat e.engine.toNat
  let body := subj :: e.body
  let change := (s.getReg Reg.LOG_WALL_CHANGE).toNat
  let n := s.log.nextSeq
  let t : LogStamp := { flash := e.flash.toNat, offset := e.offset.toNat, party := e.party, fa2 := e.fa2, loc := loc }
  let r : LogRec := { seq := n, code := e.code.toNat, conc := s.log.last.any fun l => s.stampConc l t, outorder := s.log.last.any fun l => s.stampOut l t,
                      isLocal := loc, wallback := s.wallBack, lost := false, submitted := submitted, wgen := change % 1024, flash := e.flash.toNat,
                      offset := e.offset.toNat, rep := 0, body := body, length := recordLength body.length, fa2 := e.fa2, bad := [], badHead := false }
  let cache := match logKeyWords e.code.toNat body.length with
    | some ks => ({ key := w32 e.code.toNat :: subj :: ks.map (wordAt body), flash := e.flash.toNat, offset := e.offset.toNat, seq := n }
        :: s.log.cache).take 64
    | none => s.log.cache
  let s := { s with log := { s.log with
    nextSeq := n + 1, staging := s.log.staging ++ [r], last := some t, cache := cache,
    pilotStaged := if submitted then n :: s.log.pilotStaged else s.log.pilotStaged,
    sampleStaged := if sample then n :: s.log.sampleStaged else s.log.sampleStaged } }
  let s := (s.progress 0x0C).showStage
  s.raiseIf (bitAt (s.getReg Reg.LOG_NOTIFY) (e.code.toNat / 16 % 16)) Fld.LOG_INT_STATUS_NOTIFY

/-- EV_LOG_DROPPED: the records dropped for lack of room since the last such record (R428). -/
def State.stageDropped (s : State) : State :=
  if s.log.dropRoom = 0 then s
  else
    let e : LogEvt := { code := 0x003, party := s.self, fa2 := false, flash := BitVec.ofNat 48 s.tim.flash,
                        offset := BitVec.ofNat 25 s.tim.offset, slice := 0, engine := 0x0C,
                        body := [w32 s.log.dropRoom, w32 s.log.dropPilot] }
    let s := s.stageRecord e false false (s.stampLocal s.self)
    { s with log := { s.log with dropRoom := 0, dropPilot := 0 } }

/-- The records numbered here leave the repeat cache; their places stay among the 64 (R426). -/
def LogState.uncache (l : LogState) (gone : Nat → Bool) : LogState :=
  { l with cache := l.cache.map fun c => if gone c.seq then { c with key := [] } else c }

/-- Two stamps lie at most win flashes apart (R426). -/
def stampsWithin (win fa oa fb ob : Nat) : Bool :=
  if fa < fb then fb - fa < win || (fb - fa == win && ob ≤ oa)
  else if fb < fa then fa - fb < win || (fa - fb == win && oa ≤ ob)
  else true

/-- The cached record an event repeats: same code, subject and key words, stamp within REPEAT_WINDOW × 1,024 flashes (R426). -/
def State.repeatOf (s : State) (e : LogEvt) : Option Nat :=
  let subj := subjectWord e.party e.slice.toNat e.engine.toNat
  let body := subj :: e.body
  let win := s.getF Fld.LOG_CTRL_REPEAT_WINDOW * 1024
  match logKeyWords e.code.toNat body.length with
  | some ks =>
    let key := w32 e.code.toNat :: subj :: ks.map (wordAt body)
    (s.log.cache.find? fun c => c.key == key && stampsWithin win c.flash c.offset e.flash.toNat e.offset.toNat).map (·.seq)
  | none => none

/-- LOG takes an event: a repeat is counted on its record (R426); a new record takes room in its share of staging, or is
dropped and counted (R428); EV_LOG_DROPPED goes before the next record when room returns. -/
def State.takeLog (s : State) (e : LogEvt) (submitted sample loc : Bool) : State :=
  match if s.flag Fld.LOG_CTRL_REPEAT_EN then s.repeatOf e else none with
  | some seq =>
    let s := { s with log := s.log.bump seq }
    let s := if s.log.repOf seq ≥ 65535
             then { s with log := s.log.uncache fun n => n == seq } else s
    s.countReg Reg.LOG_REPEATS 1
  | none =>
    let len := recordLength (e.body.length + 1)
    let need := if s.log.dropRoom = 0 then len else len + 32
    let room := if sample then s.log.used true + len ≤ 68 * 1024
                else s.log.used false + need ≤ 188 * 1024 && (!submitted || s.log.pilotUsed + len ≤ 32 * 1024)
    if room then (if sample ∧ 188 * 1024 < s.log.used false + 32 then s else s.stageDropped).stageRecord e submitted sample loc
    else
      let s := s.count Fld.LOG_DROPPED_RECORDS 1
      let s := if submitted then s.count Fld.LOG_DROPPED_PILOT 1 else s
      let s := { s with log := { s.log with dropRoom := s.log.dropRoom + 1,
                                            dropPilot := s.log.dropPilot + b2n submitted } }
      s.raise Fld.LOG_INT_STATUS_DROPPED

/-- An event of a record that stands already adds to its repeat count (R201, R426). -/
def State.takeAgain (s : State) (e : LogEvt) : State :=
  match s.repeatOf e with
  | some seq => ({ s with log := s.log.bump seq }).countReg Reg.LOG_REPEATS 1
  | none => s

/-- The order in which LOG takes the events of one core cycle: engine, then Keeper port (R421). -/
def LogIn.rank (x : LogIn) : Nat :=
  256 * x.evt.engine.toNat + (if x.evt.engine.toNat = 0x03 ∧ 0x010 ≤ x.evt.code.toNat ∧ x.evt.code.toNat ≤ 0x017 then bitsOf (wordAt x.evt.body 0) 0 8 else 0)

/-- An event placed behind those that LOG takes before it. -/
def insertLog (x : LogIn) : List LogIn → List LogIn
  | [] => [x]
  | y :: rest => if y.rank ≤ x.rank then y :: insertLog x rest else x :: y :: rest

/-- An event arrives: it is taken at once, but with the others of its core cycle in their order while a flash boundary's work lasts (R421). -/
def State.logIn (s : State) (x : LogIn) : State :=
  match s.log.arriving with
  | some xs => { s with log := { s.log with arriving := some (insertLog x xs) } }
  | none => if x.again then s.takeAgain x.evt else s.takeLog x.evt x.submitted x.sample x.loc

/-- An event arrives to be recorded. -/
def State.logEvt (s : State) (e : LogEvt) (submitted sample : Bool) : State :=
  s.logIn { evt := e, submitted := submitted, sample := sample, again := false, loc := s.stampLocal e.party }

/-- The events that arrive are held until the cycle's are known (R421). -/
def State.gatherLog (s : State) : State := { s with log := { s.log with arriving := some [] } }

/-- The events of the cycle are taken, in order (R421). -/
def State.takeGathered (s : State) : State :=
  match s.log.arriving with
  | some xs => xs.foldl (fun s x => s.logIn x) { s with log := { s.log with arriving := none } }
  | none => s

/-- An event of the Keeper's own at its own time: code, engine, slice, body words from word 1 on (R421, R422). -/
def State.ownEvt (s : State) (code engine slice : Nat) (body : List Word) : LogEvt :=
  { code := BitVec.ofNat 10 code, party := s.self, fa2 := false, flash := BitVec.ofNat 48 s.tim.flash, offset := BitVec.ofNat 25 s.tim.offset,
    slice := BitVec.ofNat 8 slice, engine := BitVec.ofNat 8 engine, body := body }

/-- The Keeper logs an event of its own. -/
def State.logOwn (s : State) (code engine slice : Nat) (body : List Word) : State := s.logEvt (s.ownEvt code engine slice body) false false

/-- An event that is recorded once: a later one only adds to the record's repeat count, while LOG still knows the record (R201, R426). -/
def State.logAgain (s : State) (code engine slice : Nat) (body : List Word) : State :=
  s.logIn { evt := s.ownEvt code engine slice body, submitted := false, sample := false, again := true, loc := false }

/-- One port's record, changed. -/
def State.onPort (s : State) (n : Nat) (f : Port → Port) : State :=
  { s with link := { s.link with ports := modifyAt f n s.link.ports } }

/-- A port's record. -/
def State.port (s : State) (n : Nat) : Port := s.link.ports.getD n (Port.reset n)

/-- A packet refused under R17: discarded, its credits returned on discard (R62), counted per port, recorded with
EV_PACKET_REFUSED (R424). -/
def State.refusePacket (s : State) (port : Nat) (h : Hdr) (reason : Nat) : State :=
  let s := s.onPort port fun p => { p with refused := p.refused + 1, discards := p.discards + 1 }
  let s := s.send (.credits port h.vc.toNat (h.len.toNat + 2))
  s.logOwn 0x017 0x03 0 ([fieldAt 0 8 port ||| fieldAt 8 8 h.opkind.toNat ||| fieldAt 16 4 reason, w32 h.src.toNat] ++ hdrWords h)

end Sys2Proof.Machine
end

