-- ==== Sys2Proof/Machine/AddrOps.lean ====
section
/-! DEFINITION. Machine/AddrOps.lean: the addresses of the rack's agents and of the cluster's Keepers (R5, R47, R48, R73, R74). -/
namespace Sys2Proof.Machine

/-- The address of switch i of this rack. -/
def State.switchAddr (s : State) (i : Nat) : Addr := mkAddr 1 s.rx s.ry i

/-- The address of endpoint i of this rack. -/
def State.epAddr (s : State) (i : Nat) : Addr := mkAddr 0 s.rx s.ry i

/-- The 16 switches of this rack (R5). -/
def State.rackSwitches (s : State) : List Addr := (List.range 16).map s.switchAddr

/-- The CABLING record of a rack of the lit chart. -/
def State.rackRec (s : State) (r : Nat) : Option RackRec :=
  match s.chart.lit with
  | some c => c.racks[r]?
  | none => none

/-- The endpoints of this rack that the lit chart says are present (R74). -/
def State.rackEndpoints (s : State) : List Addr :=
  match s.rackRec s.myRack with
  | some k => (bitIndices k.epPresent 128).map s.epAddr
  | none => []

/-- Generation an agent declares. -/
def agentGen (a : Addr) : Nat := bitsOf (Config.agentId a) 0 4
/-- An offset of fabric time as an agent gives it: an FA2 agent's low four bits are 0 (R308, R461). -/
def agentOffset (a : Addr) (offset : Nat) : Nat := if agentGen a = 2 then offset / 16 * 16 else offset

/-- A format an agent declares. -/
def agentFormat (a : Addr) (code : Nat) : Bool := bitAt (Config.agentCaps1 a) code
/-- ARRIVAL of an agent. -/
def agentArrival (a : Addr) : Bool := bitAt (Config.agentCaps1 a) 12
/-- STOCH of an agent. -/
def agentStoch (a : Addr) : Bool := bitAt (Config.agentCaps1 a) 13
/-- ADDER_CHECK of a switch agent is 1 or 2 (R450). -/
def agentChecked (a : Addr) : Bool := let c := bitsOf (Config.agentCaps1 a) 20 2
                                     c == 1 || c == 2
/-- Reduction memory of a switch agent in 64-byte units. -/
def redmemUnits (a : Addr) : Nat := bitsOf (Config.agentCaps0 a) 16 16 * 1024
/-- Slots of an endpoint agent. -/
def agentSlots (a : Addr) : Nat := bitsOf (Config.agentCaps0 a) 0 9
/-- Programmes of a switch agent. -/
def agentProgrammes (a : Addr) : Nat := bitsOf (Config.agentCaps0 a) 0 12
/-- Chain entries of an endpoint agent. -/
def agentChain (a : Addr) : Nat := bitsOf (Config.agentCaps0 a) 9 9 * 64
/-- Group memory of an endpoint agent in 64-byte units. -/
def agentGroup (a : Addr) : Nat := bitsOf (Config.agentCaps0 a) 18 14 * 16

/-- Every agent of this rack. -/
def State.rackAgents (s : State) : List Addr := s.rackSwitches ++ s.rackEndpoints

/-- The agents of this rack that take part in bank cycles: not counted out (R135). -/
def State.bankAgents (s : State) : List Addr := s.rackAgents.filter fun a => !s.slv.out.contains a

/-- The Keeper of rack r that holds LIT, by its role, as Keeper-to-Keeper traffic names it: the role it last wrote from; this unit's own role before
it has written (R48, log entry 23). -/
def State.keeperOf (s : State) (r : Nat) : Addr :=
  mkAddr 2 (r % s.axes.1) (r / s.axes.1) (match lookupNat r s.link.litRole with
    | some i => i
    | none => s.role)

/-- The rack number of a coordinate address. -/
def State.rackOf (s : State) (a : Addr) : Nat := s.rackNo (addrX a) (addrY a)

/-- The head rack's number (R72). -/
def State.headRack (s : State) : Nat :=
  match s.chart.lit with
  | some c => s.rackNo c.install.headX c.install.headY
  | none => s.myRack

/-- The address of the Keeper that holds LIT in the head rack, or in the deputy rack while an acting head serves (R48, R73). -/
def State.headAddr (s : State) : Addr :=
  match s.chart.lit with
  | some c => s.keeperOf (if s.chart.deputyActs then s.rackNo c.install.depX c.install.depY else s.rackNo c.install.headX c.install.headY)
  | none => s.self

end Sys2Proof.Machine
end

