-- ==== Sys2Proof/Machine/LampOps.lean ====
section
/-! DEFINITION. Machine/LampOps.lean: the reduction arithmetic of every reduction point: element formats, exact sums, rounding, blocks,
the tree of FORMAT and the accumulation of ARRIVAL (R223 to R235). -/
namespace Sys2Proof.Machine

/-! ### Exact values -/

/-- A value of an element: NaN, an infinity, or ± mant × 2^expo. -/
inductive EVal where
  | nan
  | inf (neg : Bool)
  | fin (neg : Bool) (mant : Nat) (expo : Int)
deriving DecidableEq, Repr

/-- Integer of a finite value over 2^e, for e at most its exponent. -/
def scaledTo (neg : Bool) (mant : Nat) (expo e : Int) : Int :=
  let v : Int := (mant * 2 ^ (expo - e).toNat : Nat)
  if neg then -v else v

/-- The exact sum (R232): a NaN, opposite infinities, an infinity, an exact zero that is −0 only when both operands are −0. -/
def EVal.add : EVal → EVal → EVal
  | .nan, _ => .nan
  | _, .nan => .nan
  | .inf a, .inf b => if a = b then .inf a else .nan
  | .inf a, .fin .. => .inf a
  | .fin .., .inf b => .inf b
  | .fin na ma ea, .fin nb mb eb =>
    let e := min ea eb
    let v := scaledTo na ma ea e + scaledTo nb mb eb e
    if v = 0 then .fin (na && nb) 0 e else .fin (decide (v < 0)) v.natAbs e

/-! ### Element formats (R223, R224) -/

/-- A floating-point element format: exponent and fraction bits, bias, and its specials: 0 infinities and NaNs, 1 one NaN only, 2 none. -/
structure FloatFmt where
  eb   : Nat
  fb   : Nat
  bias : Nat
  spec : Nat
deriving DecidableEq, Repr

/-- The float format of a code (R224); FP32 for a code that has none. -/
def floatFmt (code : Nat) : FloatFmt :=
  if code = 2 then { eb := 5, fb := 10, bias := 15, spec := 0 }
  else if code = 3 then { eb := 8, fb := 7, bias := 127, spec := 0 }
  else if code = 4 then { eb := 4, fb := 3, bias := 7, spec := 1 }
  else if code = 5 then { eb := 5, fb := 2, bias := 15, spec := 0 }
  else if code = 7 then { eb := 2, fb := 3, bias := 1, spec := 2 }
  else if code = 8 then { eb := 3, fb := 2, bias := 3, spec := 2 }
  else if code = 9 then { eb := 2, fb := 1, bias := 1, spec := 2 }
  else { eb := 8, fb := 23, bias := 127, spec := 0 }

/-- Bits of an element, sign included. -/
def FloatFmt.width (f : FloatFmt) : Nat := 1 + f.eb + f.fb

/-- The code of the largest finite magnitude. -/
def FloatFmt.maxCode (f : FloatFmt) : Nat :=
  if f.spec = 0 then (2 ^ f.eb - 1) * 2 ^ f.fb - 1 else if f.spec = 1 then 2 ^ (f.eb + f.fb) - 2 else 2 ^ (f.eb + f.fb) - 1

/-- The value of an encoding (R224). -/
def FloatFmt.decode (f : FloatFmt) (v : Nat) : EVal :=
  let neg := v.testBit (f.eb + f.fb)
  let ex := v / 2 ^ f.fb % 2 ^ f.eb
  let fr := v % 2 ^ f.fb
  if v % 2 ^ (f.eb + f.fb) > f.maxCode then (if f.spec = 0 ∧ fr = 0 then .inf neg else .nan)
  else if ex = 0 then .fin neg fr (1 - (f.bias : Int) - f.fb)
  else .fin neg (2 ^ f.fb + fr) ((ex : Int) - f.bias - f.fb)

/-- The canonical NaN (R232); a format without a NaN has none to give, and takes its largest code. -/
def FloatFmt.canonicalNan (f : FloatFmt) : Nat :=
  if f.spec = 0 then (2 ^ f.eb - 1) * 2 ^ f.fb + 2 ^ (f.fb - 1) else 2 ^ (f.eb + f.fb) - 1

/-- Rounding of n + rem / den, a magnitude, to an integer: to nearest even, or by the 32 random bits r toward the greater of the two
neighbours of the signed value (R231, R233). -/
def roundUnit (rand : Option Nat) (neg : Bool) (n rem den : Nat) : Nat :=
  if rem = 0 then n
  else match rand with
  | none => if 2 * rem > den ∨ (2 * rem = den ∧ n % 2 = 1) then n + 1 else n
  | some r =>
    if neg then (if r < 2 ^ 32 * (den - rem) / den then n else n + 1)
    else (if r < 2 ^ 32 * rem / den then n + 1 else n)

/-- A magnitude mant × 2^expo over 2^q: quotient, remainder, denominator. -/
def overPow (mant : Nat) (expo q : Int) : Nat × Nat × Nat :=
  if q ≤ expo then (mant * 2 ^ (expo - q).toNat, 0, 1)
  else let d := 2 ^ (q - expo).toNat
       (mant / d, mant % d, d)

/-- A value rounded into a float format: its encoding, and whether it saturated (R231 to R233). -/
def FloatFmt.encode (f : FloatFmt) (rand : Option Nat) (x : EVal) : Nat × Bool :=
  let sign := fun (neg : Bool) => if neg then 2 ^ (f.eb + f.fb) else 0
  match x with
  | .nan => (f.canonicalNan, false)
  | .inf neg => if f.spec = 0 then (sign neg + (2 ^ f.eb - 1) * 2 ^ f.fb, false) else (f.canonicalNan, false)
  | .fin neg m e =>
    if m = 0 then (sign neg, false)
    else
      let emin : Int := 1 - (f.bias : Int)
      let q := max ((Nat.log2 m : Int) + e) emin - f.fb
      let d := overPow m e q
      let base := (q - (emin - f.fb)).toNat * 2 ^ f.fb
      let code := base + roundUnit rand neg d.1 d.2.1 d.2.2
      let beyond := code > f.maxCode || (rand.isSome && (base + d.1 > f.maxCode || (base + d.1 = f.maxCode && d.2.1 != 0)))
      if beyond then (if f.spec = 0 then (sign neg + (2 ^ f.eb - 1) * 2 ^ f.fb, false) else (sign neg + f.maxCode, true))
      else (sign neg + code, false)

/-- The code is one of an integer format (R223). -/
def isIntFmt (code : Nat) : Bool := code == 10 || code == 11

/-- The code is one of a block format (R223). -/
def isBlockFmt (code : Nat) : Bool := 6 ≤ code && code ≤ 9

/-- Bits of an element of a non-block format. -/
def elemBits (code : Nat) : Nat := if code = 10 then 32 else if code = 11 then 8 else (floatFmt code).width

/-- Blocks in a segment (R226). -/
def segBlocks (code : Nat) : Nat := if code = 6 then 122 else if code = 9 then 237 else 161

/-- Element bytes of a block (R226). -/
def blockBytes (code : Nat) : Nat := if code = 6 then 32 else if code = 9 then 16 else 24

/-- Elements of one data packet (R226, R243). -/
def packetElems (code : Nat) : Nat := if isBlockFmt code then 32 * segBlocks code else 4032 * 8 / elemBits code

/-- Elements in a number of bytes of a contribution; block bytes are whole segments. -/
def elemsIn (code bytes : Nat) : Nat := if isBlockFmt code then bytes / 4032 * packetElems code else bytes * 8 / elemBits code

/-! ### Packing (R225, R226) -/

/-- The number a run of bytes holds, the first byte lowest. -/
def numOfBytes (bs : List Nat) : Nat := bs.foldr (fun b acc => b + 256 * acc) 0

/-- Elements of a width packed from the lowest bit of a number on. -/
def unpackBits (width : Nat) : Nat → Nat → List Nat
  | 0, _ => []
  | n + 1, v => v % 2 ^ width :: unpackBits width n (v / 2 ^ width)

/-- The number that packs elements of a width, the first lowest. -/
def packBits (width : Nat) (es : List Nat) : Nat := es.foldr (fun e acc => e % 2 ^ width + 2 ^ width * acc) 0

/-- n words of a number, lowest first. -/
def wordsOfNum : Nat → Nat → List Word
  | 0, _ => []
  | n + 1, v => BitVec.ofNat 32 v :: wordsOfNum n (v / 2 ^ 32)

/-- The number that words hold, the first lowest. -/
def numOfWords (ws : List Word) : Nat := ws.foldr (fun w acc => w.toNat + 2 ^ 32 * acc) 0

/-- The element codes that words hold in a non-block format. -/
def unpackElems (code : Nat) (ws : List Word) : List Nat := ws.flatMap fun w => unpackBits (elemBits code) (32 / elemBits code) w.toNat

/-- Words of element codes of a non-block format. -/
def packElems (code : Nat) : Nat → List Nat → List Word
  | 0, _ => []
  | n + 1, es => if es.isEmpty then [] else
      BitVec.ofNat 32 (packBits (elemBits code) (es.take (32 / elemBits code))) :: packElems code n (es.drop (32 / elemBits code))

/-- A block: its scale byte and its 32 element codes. -/
abbrev Block := Nat × List Nat

/-- Element width of a block format. -/
def blockElemBits (code : Nat) : Nat := blockBytes code / 4

/-- The blocks of a segment (R226). -/
def unpackSegment (code : Nat) (ws : List Word) : List Block :=
  let bb := blockBytes code
  (List.range (segBlocks code)).map fun b =>
    (byteAt ws (bb * segBlocks code + b),
     unpackBits (blockElemBits code) 32 (numOfWords ((ws.drop (bb * b / 4)).take (bb / 4 + 1)) / 2 ^ (8 * (bb * b % 4)) % 2 ^ (8 * bb)))

/-- The words of a segment that holds blocks (R226). -/
def packSegment (code : Nat) (bs : List Block) : List Word :=
  let bb := blockBytes code
  let elems := bs.foldr (fun b acc => packBits (blockElemBits code) b.2 + 2 ^ (8 * bb) * acc) 0
  let scales := packBits 8 (bs.map (·.1))
  wordsOfNum 1008 (elems + 2 ^ (8 * bb * segBlocks code) * scales)

/-- Every pad byte of a segment is 0 (R226). -/
def padClean (code : Nat) (ws : List Word) : Bool :=
  let first := (blockBytes code + 1) * segBlocks code
  (List.range (4032 - first)).all fun i => byteAt ws (first + i) == 0

/-! ### Blocks (R224, R235) -/

/-- An element code of a block as a signed value and the exponent it stands over, before the scale. -/
def blockElem (code v : Nat) : EVal :=
  if code = 6 then (if v ≥ 128 then .fin true (256 - v) 0 else .fin false v 0) else (floatFmt code).decode v

/-- A value times 2^k. -/
def EVal.shift (k : Int) : EVal → EVal
  | .fin n m e => .fin n m (e + k)
  | x => x

/-- The exponent a scale byte gives to the elements (R224). -/
def scaleExp (code scale : Nat) : Int := if code = 6 then (scale : Int) - 133 else (scale : Int) - 127

/-- The 32 values of a block; a NaN block gives NaNs (R224). -/
def decodeBlock (code : Nat) (b : Block) : List EVal :=
  if b.1 = 0xFF then List.replicate 32 .nan else b.2.map fun v => (blockElem code v).shift (scaleExp code b.1)

/-- floor(log2) of a finite non-zero magnitude; none of zero. -/
def EVal.log2 : EVal → Option Int
  | .fin _ m e => if m = 0 then none else some ((Nat.log2 m : Int) + e)
  | _ => none

/-- EMAX (R235). -/
def blockEmax (code : Nat) : Int := if code = 6 then 0 else if code = 8 then 4 else 2

/-- A NaN block (R232). -/
def nanBlock : Block := (0xFF, List.replicate 32 0)

/-- One element of a block under a scale (R235): its code, and whether it saturated. -/
def encodeElem (code scale : Nat) (rand : Option Nat) (x : EVal) : Nat × Bool :=
  let y := x.shift (-(scaleExp code scale))
  if code = 6 then
    match y with
    | .fin neg m e =>
      let d := overPow m e 0
      let v := roundUnit rand neg d.1 d.2.1 d.2.2
      if v > 127 then (if neg then 129 else 127, true) else (if neg ∧ v ≠ 0 then 256 - v else v, false)
    | _ => (0, false)
  else (floatFmt code).encode rand y

/-- A block from 32 values (R235): the block, and for each element whether it saturated. -/
def encodeBlock (code : Nat) (rand : Nat → Option Nat) (xs : List EVal) : Block × List Bool :=
  let special := xs.any fun x => match x with
    | .fin .. => false
    | _ => true
  if special then (nanBlock, List.replicate 32 false)
  else
    match (xs.filterMap EVal.log2).foldl (fun acc v => match acc with
      | none => some v
      | some w => some (max v w)) none with
    | none => ((0x7F, List.replicate 32 0), List.replicate 32 false)
    | some l =>
      let e := l - blockEmax code + 127
      let scale := if e < 0 then 0 else if e > 254 then 254 else e.toNat
      let es := xs.zipIdx.map fun x => encodeElem code scale (rand x.2) x.1
      ((scale, es.map (·.1)), es.map (·.2))

/-! ### Random bits (R233) -/

/-- sr_bits of R233. -/
def srBits (seed launch step node elem : Nat) : Nat :=
  let M := 2 ^ 64
  let x := (seed * 2 ^ 32) ^^^ (launch * 2 ^ 16) ^^^ (step * 2 ^ 8) ^^^ node
  let x := x ^^^ (elem * 0x9E3779B97F4A7C15 % M)
  let x := x ^^^ (x / 2 ^ 33)
  let x := x * 0xFF51AFD7ED558CCD % M
  let x := x ^^^ (x / 2 ^ 33)
  let x := x * 0xC4CEB9FE1A85EC53 % M
  let x := x ^^^ (x / 2 ^ 33)
  x % 2 ^ 32

/-- How a rounding draws its bits: the plan's ROUND and SEED, the launch, the step. -/
structure Rounding where
  stoch  : Bool
  seed   : Nat
  launch : Nat
  step   : Nat
deriving DecidableEq, Repr

/-- The bits for an element at a node; none for rounding to nearest. -/
def Rounding.bits (r : Rounding) (node elem : Nat) : Option Nat :=
  if r.stoch then some (srBits r.seed r.launch r.step node elem) else none

/-! ### Sums in the data format (R228) -/

/-- One addition of two element codes in a non-block format: the code, and whether it saturated; integers wrap (R230). -/
def addElem (code : Nat) (rand : Option Nat) (a b : Nat) : Nat × Bool :=
  if isIntFmt code then ((a + b) % 2 ^ 32, false)
  else (floatFmt code).encode rand (((floatFmt code).decode a).add ((floatFmt code).decode b))

/-- One addition of two packets in the data format, from an element index on (R228): the words, and for each element whether it saturated.
Partials of INT8S32 are INT32. -/
def addPacket (code : Nat) (r : Rounding) (node base : Nat) (a b : List Word) : List Word × List Bool :=
  if isBlockFmt code then
    let rs := ((unpackSegment code a).zip (unpackSegment code b)).zipIdx.map fun x =>
      encodeBlock code (fun i => r.bits node (base + 32 * x.2 + i))
        (((decodeBlock code x.1.1).zip (decodeBlock code x.1.2)).map fun y => y.1.add y.2)
    (packSegment code (rs.map (·.1)), rs.flatMap (·.2))
  else
    let c := if code = 11 then 10 else code
    let rs := ((unpackElems c a).zip (unpackElems c b)).zipIdx.map fun x => addElem c (r.bits node (base + x.2)) x.1.1 x.1.2
    (packElems c 1024 (rs.map (·.1)), rs.map (·.2))

/-- An element saturated in one of two additions. -/
def orFlags : List Bool → List Bool → List Bool
  | [], bs => bs
  | as, [] => as
  | a :: as, b :: bs => (a || b) :: orFlags as bs

/-- How many elements saturated: each counts once (R232). -/
def satCount (fs : List Bool) : Nat := (fs.filter id).length

/-- One level of the tree of R228: pairs added, an odd last one kept; nodes are numbered in the order of evaluation. -/
def treeLevel (code : Nat) (r : Rounding) (base : Nat) : Nat → List (List Word) → List (List Word) × Nat × List Bool
  | node, a :: b :: rest =>
    let x := addPacket code r node base a b
    let y := treeLevel code r base (node + 1) rest
    (x.1 :: y.1, y.2.1, orFlags x.2 y.2.2)
  | node, xs => (xs, node, [])

/-- The tree of R228 over packets in input order: the sum, and for each element whether an addition saturated it (R232). -/
def treeSum (code : Nat) (r : Rounding) (base : Nat) : Nat → Nat → List (List Word) → List Word × List Bool
  | 0, _, xs => (xs.headD [], [])
  | _, _, [] => ([], [])
  | _, _, [x] => (x, [])
  | fuel + 1, node, xs =>
    let l := treeLevel code r base node xs
    let t := treeSum code r base fuel l.2.1 l.1
    (t.1, orFlags l.2.2 t.2)

/-! ### Accumulators (R229, R230) -/

/-- The accumulator words of data in a format: FP32 for the float codes, INT32 for the integer codes (R229). -/
def toAcc (code : Nat) (ws : List Word) : List Word :=
  if code = 11 then (unpackElems 11 ws).map fun v => BitVec.ofNat 32 (if v ≥ 128 then 2 ^ 32 - 256 + v else v)
  else if code = 10 ∨ code = 1 then ws
  else
    let nums := if isBlockFmt code then
        (chunks' 1008 (ws.length / 1008 + 1) ws).flatMap fun seg => (unpackSegment code seg).flatMap (decodeBlock code)
      else (unpackElems code ws).map (floatFmt code).decode
    nums.map fun x => BitVec.ofNat 32 ((floatFmt 1).encode none x).1
where
  /-- Words in runs of n. -/
  chunks' (n : Nat) : Nat → List Word → List (List Word)
    | 0, _ => []
    | k + 1, ws => if ws.isEmpty then [] else ws.take n :: chunks' n k (ws.drop n)

/-- One accumulator addition, over packets (R229, R231): code 1 rounds by the plan's ROUND, every other float code to nearest. -/
def accumulate (code : Nat) (r : Rounding) (node base : Nat) (acc inp : List Word) : List Word :=
  if isIntFmt code then (addPacket 10 r node base acc inp).1
  else (addPacket 1 (if code = 1 then r else { r with stoch := false }) node base acc inp).1

/-- The tree of R228 over accumulator partials (R255). -/
def accTree (code : Nat) (r : Rounding) (base : Nat) (xs : List (List Word)) : List Word :=
  if isIntFmt code then (treeSum 10 r base 7 0 xs).1
  else (treeSum 1 (if code = 1 then r else { r with stoch := false }) base 7 0 xs).1

/-- Blocks from accumulator words, 32 elements each. -/
def accBlocks (code : Nat) (r : Rounding) : Nat → Nat → List Word → List (Block × List Bool)
  | 0, _, _ => []
  | n + 1, elem, ws =>
    if ws.isEmpty then [] else
      encodeBlock code (fun i => r.bits 0 (elem + i)) ((ws.take 32).map fun w => (floatFmt 1).decode w.toNat) ::
        accBlocks code r n (elem + 32) (ws.drop 32)

/-- Segments of blocks as words. -/
def packSegments (code : Nat) : Nat → List Block → List Word
  | 0, _ => []
  | n + 1, bs => if bs.isEmpty then [] else packSegment code (bs.take (segBlocks code)) ++ packSegments code n (bs.drop (segBlocks code))

/-- The final rounding of accumulator words into the data format, from an element index on (R230): the words, and how many elements
saturated. INT8S32 and INT32 leave as INT32; FP32 leaves as it is. -/
def finalRound (code : Nat) (r : Rounding) (elem : Nat) (acc : List Word) : List Word × Nat :=
  if isIntFmt code ∨ code = 1 then (acc, 0)
  else if isBlockFmt code then
    let bs := accBlocks code r (acc.length / 32 + 1) elem acc
    (packSegments code (acc.length / packetElems code + 1) (bs.map (·.1)), satCount (bs.flatMap (·.2)))
  else
    let rs := acc.zipIdx.map fun x => (floatFmt code).encode (r.bits 0 (elem + x.2)) ((floatFmt 1).decode x.1.toNat)
    (packElems code (acc.length + 1) (rs.map (·.1)), (rs.filter (·.2)).length)

/-- How many elements of data words are NaN: a NaN block counts for its 32 elements (R232). -/
def nanCount (code : Nat) (ws : List Word) : Nat :=
  if isIntFmt code then 0
  else if isBlockFmt code then
    32 * ((toAcc.chunks' 1008 (ws.length / 1008 + 1) ws).map fun seg => ((unpackSegment code seg).filter fun b => b.1 == 0xFF).length).sum
  else ((unpackElems code ws).filter fun v => (floatFmt code).decode v == .nan).length

end Sys2Proof.Machine
end

