-- ==== Sys2Proof/Machine/ChartImage.lean ====
section
/-! DEFINITION. Machine/ChartImage.lean: the check of a chart image in the order of R70, section by section (R66 to R79), with the
reason code of R71 and the byte offset of the first failure. -/
namespace Sys2Proof.Machine

/-- The result of a check: the chart, or the reason code and the byte offset at which it was found (R70). -/
inductive ImgCheck where
  | ok (c : Chart)
  | bad (code off : Nat)
deriving DecidableEq, Repr

/-- The first test that fails, of a list of (fails, code, byte offset). -/
def firstBad (ts : List (Bool × Nat × Nat)) : Option (Nat × Nat) := (ts.find? fun t => t.1).map (·.2)

/-- A section of the image: TYPE, byte offset, byte length (R67). -/
structure SecEnt where
  type : Nat
  off  : Nat
  len  : Nat
deriving DecidableEq, Repr

/-- Words of the image from a byte offset, for a byte length. -/
def imgWords (img : List Word) (off len : Nat) : List Word := (img.drop (off / 4)).take (len / 4)

/-- Bytes of the header by format (R66). -/
def headerBytes (format : Nat) : Nat := if format = 3 then 64 else 32

/-- Check 1: MAGIC, FORMAT, the header's reserved words. -/
def checkHeader (img : List Word) : Option (Nat × Nat) :=
  let fmt := bitsOf (wordAt img 1) 0 8
  firstBad ([(wordAt img 0 != 0x54524843, 0x01, 0), (fmt != 2 && fmt != 3, 0x02, 4), (bitsOf (wordAt img 1) 8 8 != 0, 0x08, 4),
             (fmt == 2 && wordAt img 6 != 0, 0x08, 24), (wordAt img 7 != 0, 0x08, 28)]
    ++ (List.range 6).map fun i => (fmt == 3 && wordAt img (10 + i) != 0, 0x08, 40 + 4 * i))

/-- Check 2: the lengths and counts, code 0x03. -/
def checkLengths (img : List Word) (hostLen : Nat) : Option (Nat × Nat) :=
  let fmt := bitsOf (wordAt img 1) 0 8
  let count := bitsOf (wordAt img 1) 16 16
  let total := (wordAt img 2).toNat
  let sig := (wordAt img 3).toNat
  firstBad [(total > 4 * 2 ^ 20 || total != hostLen, 0x03, 8), (sig + 128 != total || sig % 4 != 0, 0x03, 12),
            (count < 1 || count > 16, 0x03, 4), (headerBytes fmt + 16 * count > sig, 0x03, 4)]

/-- The image's KEY_ID (R66). -/
def imgKeyId (img : List Word) : BitVec 64 := BitVec.ofNat 64 (pairAt img 4)

/-- Checks 3 and 4: the key is enrolled, the signature verifies, bytes 114 to 127 of the block are zero. -/
def checkSignature (keys : List (List Byte)) (img : List Word) : Option (Nat × Nat) :=
  let sig := (wordAt img 3).toNat
  let block := imgWords img sig 128
  let key := keys.find? fun k => Config.keyId k == imgKeyId img
  firstBad ([(key.isNone, 0x04, 16),
             (!Config.ed448Verify (key.getD []) "Orvon-KX2 chart" (bytesOfWords (img.take (sig / 4))) ((bytesOfWords block).take 114), 0x05, sig)]
    ++ (List.range 14).map fun i => (byteAt block (114 + i) != 0, 0x08, sig + 114 + i))

/-- The section table (R67). -/
def sections (img : List Word) : List SecEnt :=
  let base := headerBytes (bitsOf (wordAt img 1) 0 8) / 4
  (List.range (bitsOf (wordAt img 1) 16 16)).map fun i =>
    { type := bitsOf (wordAt img (base + 4 * i)) 0 16, off := (wordAt img (base + 4 * i + 1)).toNat,
      len := (wordAt img (base + 4 * i + 2)).toNat }

/-- Whether a section type is allowed in a format (R68). -/
def typeAllowed (format type : Nat) : Bool := (1 ≤ type && type ≤ 7) && !(format == 2 && type == 5)

/-- Check 5: the entries one by one, the missing sections, the bytes between sections (R67, R68). R70 gives no byte offset for a missing section:
CHT_REFUSE_OFFSET holds the section table's start (DESIGN CHOICE, log entry 98). -/
def checkTable (img : List Word) : Option (Nat × Nat) :=
  let fmt := bitsOf (wordAt img 1) 0 8
  let secs := sections img
  let sig := (wordAt img 3).toNat
  let tab := headerBytes fmt
  let first := tab + 16 * secs.length
  let entry := fun (i : Nat) (e : SecEnt) =>
    let prevEnd := match i with
      | 0 => first
      | j + 1 => (secs.getD j ⟨0, 0, 0⟩).off + (secs.getD j ⟨0, 0, 0⟩).len
    [(bitsOf (wordAt img (tab / 4 + 4 * i)) 16 16 != 0, 0x08, tab + 16 * i),
     (!typeAllowed fmt e.type || ((secs.take i).map (·.type)).contains e.type, 0x07, tab + 16 * i),
     (e.off % 4 != 0 || e.off < prevEnd, 0x03, tab + 16 * i + 4),
     (e.len % 4 != 0 || e.off + e.len > sig, 0x03, tab + 16 * i + 8),
     (wordAt img (tab / 4 + 4 * i + 3) != 0, 0x08, tab + 16 * i + 12)]
  let missing := [1, 2, 3, 4, 6].map fun t => (!(secs.map (·.type)).contains t, 0x06, tab)
  let gapByte := (List.range (sig - first)).find? fun k =>
    let b := first + k
    byteAt img b != 0 && !(secs.any fun e => e.off ≤ b && b < e.off + e.len)
  match firstBad ((secs.zipIdx.flatMap fun x => entry x.2 x.1) ++ missing) with
  | some r => some r
  | none => gapByte.map fun k => (0x08, first + k)

/-- INSTALL (R72): its content. -/
def parseInstall (w : List Word) : Install :=
  let w0 := wordAt w 0
  { sx := bitsOf w0 0 3 + 1, sy := bitsOf w0 3 3 + 1, headX := bitsOf w0 6 3, headY := bitsOf w0 9 3, depX := bitsOf w0 12 3,
    depY := bitsOf w0 15 3, flashUs := bitsOf (wordAt w 1) 0 7,
    weights := (List.range 5).map fun i => bitsOf (wordAt w 2) (4 * i) 4, word0 := w0 }

/-- INSTALL's rules (R72): reserved bits and weights 0x08, FLASH_US 0x09, everything else 0x16. -/
def checkInstall (off : Nat) (w : List Word) : Option (Nat × Nat) :=
  let i := parseInstall w
  firstBad [(w.length != 3, 0x16, off), (bitsOf (wordAt w 0) 18 14 != 0, 0x08, off), (bitsOf (wordAt w 1) 7 25 != 0, 0x08, off + 4),
            (bitsOf (wordAt w 2) 20 12 != 0, 0x08, off + 8), (i.weights.any (· == 0), 0x08, off + 8),
            (i.headX ≥ i.sx || i.headY ≥ i.sy || i.depX ≥ i.sx || i.depY ≥ i.sy, 0x16, off),
            (i.sx * i.sy ≥ 2 && i.headX == i.depX && i.headY == i.depY, 0x16, off),
            (i.sx * i.sy == 1 && !(i.headX == i.depX && i.headY == i.depY), 0x16, off),
            (i.flashUs < 5 || i.flashUs > 100, 0x09, off + 4)]

/-- One CABLING record (R74). -/
def parseRack (w : List Word) : RackRec :=
  { x := bitsOf (wordAt w 0) 0 3, y := bitsOf (wordAt w 0) 3 3, epCount := bitsOf (wordAt w 0) 6 8,
    epPresent := numOfWords ((w.drop 1).take 4), uplinks := numOfWords ((w.drop 5).take 2),
    kportA := bitsOf (wordAt w 7) 0 4, kportB := bitsOf (wordAt w 7) 4 4,
    links := (List.range 128).map fun i => bitsOf (wordAt w (8 + i)) 0 16,
    resv := (List.range 128).map fun i => bitsOf (wordAt w (8 + i)) 16 2 }

/-- The rack one step in direction d (0 +X, 1 −X, 2 +Y, 3 −Y) on an SX by SY torus (R41). -/
def stepRack (sx sy x y d : Nat) : Nat × Nat :=
  if d = 0 then ((x + 1) % sx, y) else if d = 1 then ((x + sx - 1) % sx, y)
  else if d = 2 then (x, (y + 1) % sy) else (x, (y + sy - 1) % sy)

/-- The racks of CABLING in rack order (R74). -/
def parseCabling (i : Install) (w : List Word) : List RackRec :=
  (List.range (i.sx * i.sy)).map fun r => parseRack ((w.drop (136 * r)).take 136)

/-- The rules of one CABLING record against its place and its neighbours (R74). -/
def rackBad (i : Install) (racks : List RackRec) (r : Nat) (k : RackRec) : Bool :=
  let empty : RackRec := parseRack []
  let nb := fun (d : Nat) => let p := stepRack i.sx i.sy k.x k.y d; racks.getD (i.sx * p.2 + p.1) empty
  let dirs := [0, 2]
  let absent := (if i.sx == 1 then [0, 1] else []) ++ (if i.sy == 1 then [2, 3] else [])
  k.x != r % i.sx || k.y != r / i.sx || k.epCount < 1 || k.epCount > 128 || popCount k.epPresent 128 != k.epCount
    || ((List.range 128).any fun e => !k.epPresent.testBit e && (k.links.getD e 0 != 0 || k.resv.getD e 0 != 0))
    || ((List.range 128).any fun e => k.epPresent.testBit e && k.links.getD e 0 == 0)
    || ((List.range 16).any fun sw => dirs.any fun d => k.uplinks.testBit (4 * sw + d) != (nb d).uplinks.testBit (4 * sw + d + 1))
    || (dirs.any fun d => k.kportA.testBit d != (nb d).kportA.testBit (d + 1) || k.kportB.testBit d != (nb d).kportB.testBit (d + 1))
    || (absent.any fun d => k.kportA.testBit d || k.kportB.testBit d || (List.range 16).any fun sw => k.uplinks.testBit (4 * sw + d))

/-- CABLING's rules (R74). The byte offset of a condition on a whole record is the record's start (DESIGN CHOICE, log entry 98). -/
def checkCabling (i : Install) (off : Nat) (w : List Word) : Option (Nat × Nat) :=
  let n := i.sx * i.sy
  let racks := parseCabling i w
  let rsv := fun (r : Nat) =>
    [(bitsOf (wordAt w (136 * r)) 14 18 != 0, 0x08, off + 544 * r), (bitsOf (wordAt w (136 * r + 7)) 8 24 != 0, 0x08, off + 544 * r + 28)]
      ++ (List.range 128).map fun e => (bitsOf (wordAt w (136 * r + 8 + e)) 18 14 != 0, 0x08, off + 544 * r + 32 + 4 * e)
  firstBad ((w.length != 136 * n, 0x0A, off) :: ((List.range n).flatMap rsv
    ++ racks.zipIdx.map fun x => (rackBad i racks x.2 x.1, 0x0A, off + 544 * x.2)))

/-- EN_MAP's rules (R75). Bit 14, given as 0 without being called reserved, is refused with 0x08 (DESIGN CHOICE, log entry 99). -/
def checkEnMap (racks : List RackRec) (off : Nat) (w : List Word) : Option (Nat × Nat) :=
  let n := racks.length * 128
  let h := (List.range n).map (halfAt w)
  let rule := fun (k v : Nat) =>
    let present := (racks.getD (k / 128) (parseRack [])).epPresent.testBit (k % 128)
    let isNone := v / 2 ^ 15 == 1
    isNone == present || (isNone && v % 2 ^ 14 != 0) || (!isNone && (h.take k).contains v)
  firstBad ((w.length != n / 2, 0x0B, off) :: (h.zipIdx.flatMap fun x =>
    [(x.1 / 2 ^ 14 % 2 != 0, 0x08, off + 2 * x.2), (rule x.2 x.1, 0x0B, off + 2 * x.2)]))

/-- One POOLS word (R76). -/
def parsePool (w : Word) : Pool :=
  { resource := bitsOf w 0 4, pool := bitsOf w 4 3, classes := bitsOf w 7 3, count := bitsOf w 10 12 }

/-- The working total of a resource (R76). -/
def poolTotal (resource : Nat) : Nat :=
  if resource = 1 then 64 else if resource = 2 then 32 else if resource = 3 then 256 else 2048

/-- POOLS' rules (R76). -/
def checkPools (off : Nat) (w : List Word) : Option (Nat × Nat) :=
  let ps := w.map parsePool
  let sum := fun (r : Nat) => ((ps.filter fun p => p.resource == r).map (·.count)).foldl (· + ·) 0
  firstBad ((decide (w.length > 32), 0x0C, off) :: (w.zipIdx.flatMap fun x =>
      let p := parsePool x.1
      [(decide (bitsOf x.1 22 10 ≠ 0 ∨ p.resource > 4), 0x08, off + 4 * x.2),
       (p.resource == 0 || decide (p.count < 1) || ((ps.take x.2).any fun q => q.resource == p.resource && q.pool == p.pool), 0x0C, off + 4 * x.2)])
    ++ [1, 2, 3, 4].map fun r => (decide (sum r > poolTotal r), 0x0C, off))

/-- ROTATION records from a section (R77), with the byte offset of each; fuel bounds their number. -/
def parseRotations : Nat → List Word → Nat → List (Nat × Rotation)
  | 0, _, _ => []
  | _, [], _ => []
  | fuel + 1, w :: ws, off =>
    let n := bitsOf w 4 7
    let body := ws.drop 1
    (off, { engine := bitsOf w 0 4, cycles := bitsOf (wordAt ws 0) 0 24, owners := (List.range n).map (byteAt body) })
      :: parseRotations fuel (body.drop ((n + 3) / 4)) (off + 8 + (n + 3) / 4 * 4)

/-- ROTATION's rules (R77). Non-zero padding bytes, which R77 gives as 0 without calling them reserved, are refused with 0x08 (DESIGN CHOICE, log entry
99). -/
def checkRotation (flashUs off : Nat) (w : List Word) : Option (Nat × Nat) :=
  let rs := parseRotations 4 w off
  let used := (rs.map fun x => 2 + (x.2.owners.length + 3) / 4).foldl (· + ·) 0
  firstBad ((w.length != used, 0x0D, off) :: (rs.zipIdx.flatMap fun y =>
    let o := y.1.1
    let r := y.1.2
    let k := (o - off) / 4
    let n := r.owners.length
    [(bitsOf (wordAt w k) 11 21 != 0 || r.engine > 3, 0x08, o), (bitsOf (wordAt w (k + 1)) 24 8 != 0, 0x08, o + 4),
     (r.engine == 0 || n < 1 || n > 64 || ((rs.take y.2).any fun z => z.2.engine == r.engine), 0x0D, o),
     (r.cycles < 256 || n * r.cycles > 2000 * flashUs, 0x0D, o + 4)]
      ++ (r.owners.zipIdx.map fun b => (b.1 > 0x3F && b.1 != 0xFF, 0x08, o + 8 + b.2))
      ++ (List.range ((n + 3) / 4 * 4 - n)).map fun p => (byteAt w (4 * k + 8 + n + p) != 0, 0x08, o + 8 + n + p)))

/-- One TEMPLATES record (R78). -/
def parseTemplate (w : List Word) : Template :=
  let w0 := wordAt w 0
  let w1 := wordAt w 1
  let w2 := wordAt w 2
  let w3 := wordAt w 3
  { num := bitsOf w0 0 8, cls := bitsOf w0 8 2, maxEp := bitsOf w0 16 16, slvPool := bitsOf w1 0 4, lmpPool := bitsOf w1 4 4,
    lntPool := bitsOf w1 8 4, ctxPool := bitsOf w1 12 4, maxCtx := bitsOf w1 16 16, lmpSeats := bitsOf w2 0 6, lntSeats := bitsOf w2 8 6,
    clpSeats := bitsOf w2 16 6, ownVcs := bitsOf w3 2 5, sealLifeMs := bitsOf w3 16 16 }

/-- The v2 rotation: 8 slots of 1,250 cycles, 0 to 3 belonging to seats 0 to 3, 4 to 7 shared (R77). -/
def v2Rotation (engine : Nat) : Rotation := { engine := engine, cycles := 1250, owners := [0, 1, 2, 3, 0xFF, 0xFF, 0xFF, 0xFF] }

/-- The rotation of an engine: its record, or the v2 rotation (R77). -/
def rotationOf (rs : List Rotation) (engine : Nat) : Rotation :=
  match rs.find? fun r => r.engine == engine with
  | some r => r
  | none => v2Rotation engine

/-- The distinct seat numbers of a rotation. -/
def Rotation.seats (r : Rotation) : List Nat := (r.owners.filter (· ≤ 0x3F)).dedup

/-- The rules of one TEMPLATES record (R78), code 0x0E. -/
def templateBad (format : Nat) (pools : List Pool) (rots : List Rotation) (t : Template) (w : List Word) : Bool :=
  let pool := fun (r n : Nat) => pools.find? fun p => p.resource == r && p.pool == n
  let poolBad := fun (r n : Nat) => match pool r n with
    | some p => !p.classes.testBit t.cls
    | none => true
  let seatBad := fun (e n : Nat) => n < 1 || n > (rotationOf rots e).seats.length
  t.maxEp < 1 || t.maxEp > 8192 || t.maxCtx < 1 || t.maxCtx > 2048 || poolBad 1 t.slvPool || poolBad 2 t.lmpPool
    || poolBad 3 t.lntPool || poolBad 4 t.ctxPool
    || (match pool 4 t.ctxPool with
        | some p => t.maxCtx > p.count
        | none => true)
    || (t.cls == 0 && (wordAt w 2 != 0 || wordAt w 3 != 0))
    || (t.cls == 1 && (t.ownVcs != 0 || t.sealLifeMs != 0))
    || (t.cls == 2 && (t.ownVcs % 4 != 3 || t.sealLifeMs == 0))
    || (t.cls != 0 && (seatBad 1 t.lmpSeats || seatBad 2 t.lntSeats || seatBad 3 t.clpSeats))
    || (format == 2 && t.cls == 2)

/-- TEMPLATES' rules (R78). The byte offset of a condition on a whole record is the record's start (DESIGN CHOICE, log entry 98). -/
def checkTemplates (format : Nat) (pools : List Pool) (rots : List Rotation) (off : Nat) (w : List Word) : Option (Nat × Nat) :=
  let n := w.length / 4
  let recs := (List.range n).map fun i => (w.drop (4 * i)).take 4
  firstBad ((w.length % 4 != 0 || n > 64, 0x0E, off) :: (recs.zipIdx.flatMap fun x =>
    let t := parseTemplate x.1
    let o := off + 16 * x.2
    [(bitsOf (wordAt x.1 0) 10 6 != 0 || t.cls == 3, 0x08, o),
     (bitsOf (wordAt x.1 2) 6 2 != 0 || bitsOf (wordAt x.1 2) 14 2 != 0 || bitsOf (wordAt x.1 2) 22 10 != 0, 0x08, o + 8),
     (bitsOf (wordAt x.1 3) 0 2 != 0 || bitsOf (wordAt x.1 3) 7 9 != 0, 0x08, o + 12),
     (templateBad format pools rots t x.1 || ((recs.take x.2).any fun r => (parseTemplate r).num == t.num), 0x0E, o)]))

/-- Whether a value is in a stage parameter's range, and whether v2 has the parameter (R79); none for an unknown ID. -/
def stageParam (id v : Nat) : Option (Bool × Bool) :=
  if id = 0x0001 then some (1 ≤ v && v ≤ 16, true) else if id = 0x0002 then some (2 ≤ v && v ≤ 64, true)
  else if id = 0x0003 then some (3 ≤ v && v ≤ 64, true) else if id = 0x0004 then some (4 ≤ v && v ≤ 1024, false)
  else if id = 0x0010 then some (64 ≤ v && v ≤ 256 && v % 64 == 0, true)
  else if id = 0x0011 then some (256 * 1024 ≤ v && v ≤ 64 * 2 ^ 20 && v == 2 ^ Nat.log2 v, true)
  else if id = 0x0012 then some (64 * 1024 ≤ v && v ≤ 8 * 2 ^ 20 && v % (64 * 1024) == 0, true)
  else if id = 0x0013 then some (v ≤ 1, false) else none

/-- STAGE's rules (R79), code 0x0F; bits [31:16] of a record's first word, given as 0 without being called reserved, take 0x08 (DESIGN CHOICE, log
entry 99). -/
def checkStage (format off : Nat) (w : List Word) : Option (Nat × Nat) :=
  let n := w.length / 2
  let ids := (List.range n).map fun i => bitsOf (wordAt w (2 * i)) 0 16
  firstBad ((w.length % 2 != 0, 0x0F, off) :: (ids.zipIdx.flatMap fun x =>
    let o := off + 8 * x.2
    [(bitsOf (wordAt w (2 * x.2)) 16 16 != 0, 0x08, o),
     (match stageParam x.1 (wordAt w (2 * x.2 + 1)).toNat with
      | some (inRange, v2) => !inRange || (format == 2 && !v2) || (ids.take x.2).contains x.1
      | none => true, 0x0F, o)]))

/-- The stage parameters of a section, defaults where it has no record (R79). -/
def parseStage (w : List Word) : StageParams :=
  let d := StageParams.default
  let get := fun (id dflt : Nat) =>
    match (List.range (w.length / 2)).find? fun i => bitsOf (wordAt w (2 * i)) 0 16 == id with
    | some i => (wordAt w (2 * i + 1)).toNat
    | none => dflt
  { budget := get 0x0001 d.budget, hangWindow := get 0x0002 d.hangWindow, lightLead := get 0x0003 d.lightLead,
    headLoss := get 0x0004 d.headLoss, lanternMax := get 0x0010 d.lanternMax, innetMax := get 0x0011 d.innetMax,
    pieceMax := get 0x0012 d.pieceMax, stochRound := get 0x0013 d.stochRound }

/-- The bytes of an image's section of a type; empty when absent. -/
def secOf (img : List Word) (type : Nat) : Nat × List Word :=
  match (sections img).find? fun e => e.type == type with
  | some e => (e.off, imgWords img e.off e.len)
  | none => (0, [])

/-- Checks 6 and 7, in TYPE order, then the installation limits of R5 across the sections. -/
def checkSections (img : List Word) : Option (Nat × Nat) :=
  let fmt := bitsOf (wordAt img 1) 0 8
  let sec := secOf img
  let inst := parseInstall (sec 1).2
  let racks := parseCabling inst (sec 2).2
  let pools := (sec 4).2.map parsePool
  let rots := (parseRotations 4 (sec 5).2 0).map (·.2)
  let eps := (racks.map (·.epCount)).foldl (· + ·) 0
  let rest := fun (_ : Unit) =>
    [checkCabling inst (sec 2).1 (sec 2).2, checkEnMap racks (sec 3).1 (sec 3).2, checkPools (sec 4).1 (sec 4).2,
     if (sec 5).2.isEmpty then none else checkRotation inst.flashUs (sec 5).1 (sec 5).2,
     checkTemplates fmt pools rots (sec 6).1 (sec 6).2, checkStage fmt (sec 7).1 (sec 7).2,
     if eps > 8192 then some (0x09, (sec 2).1) else none]
  match checkInstall (sec 1).1 (sec 1).2 with
  | some r => some r
  | none => (rest ()).findSome? id

/-- The chart of an image that passes every check. -/
def parseChart (img : List Word) : Chart :=
  let fmt := bitsOf (wordAt img 1) 0 8
  let inst := parseInstall (secOf img 1).2
  let racks := parseCabling inst (secOf img 2).2
  { format := fmt, serial := if fmt = 3 then (wordAt img 6).toNat else 0, keyId := imgKeyId img,
    installId := if fmt = 3 then BitVec.ofNat 64 (pairAt img 8) else 0,
    digest := Config.shake256 (bytesOfWords (img.take ((wordAt img 2).toNat / 4))), install := inst, racks := racks,
    enMap := (List.range (racks.length * 128)).map (halfAt (secOf img 3).2), pools := (secOf img 4).2.map parsePool,
    rotations := (parseRotations 4 (secOf img 5).2 0).map (·.2),
    templates := (List.range ((secOf img 6).2.length / 4)).map fun i => parseTemplate (((secOf img 6).2.drop (4 * i)).take 4),
    params := parseStage (secOf img 7).2 }

/-- The check of an image against the enrolled keys, in the order of R70; it stops at the first failure. -/
def checkImage (keys : List (List Byte)) (img : List Word) (hostLen : Nat) : ImgCheck :=
  let fail := fun (r : Nat × Nat) => ImgCheck.bad r.1 r.2
  match checkHeader img with
  | some r => fail r
  | none =>
  match checkLengths img hostLen with
  | some r => fail r
  | none =>
  match checkSignature keys img with
  | some r => fail r
  | none =>
  match checkTable img with
  | some r => fail r
  | none =>
  match checkSections img with
  | some r => fail r
  | none => .ok (parseChart img)

end Sys2Proof.Machine
end

