-- ==== Sys2Proof/Machine/RouteOps.lean ====
section
/-! DEFINITION. Machine/RouteOps.lean: rings, trees, loads and the tables of a bank (R122 to R134), link ownership (R155), port slice
maps (R159), check values (R449) and the bank digest. -/
namespace Sys2Proof.Machine

/-! ### The cluster graph -/

/-- The opposite of a direction (R41). -/
def oppDir (d : Nat) : Nat := if d % 2 = 0 then d + 1 else d - 1

/-- The rack number one step in a direction. -/
def nbrRack (sx sy r d : Nat) : Nat :=
  let p := stepRack sx sy (r % sx) (r / sx) d
  sx * p.2 + p.1

/-- A lane count of the graph; 0 for a link with no entry. -/
def lanesAt (k : Nat) (l : List (Nat × Nat)) : Nat :=
  match lookupNat k l with
  | some n => n
  | none => 0

/-- The key of an uplink end: rack, switch, direction. -/
def upKey (r sw d : Nat) : Nat := r * 64 + 4 * sw + d
/-- The key of an endpoint link: rack, index, link. -/
def epKey (r i l : Nat) : Nat := r * 2048 + 16 * i + l
/-- The key of a Keeper switch link: rack, switch, role. -/
def kpKey (r sw role : Nat) : Nat := r * 32 + 2 * sw + role

/-- Lanes of a cable: the lower report of its two ends, 0 when either reports 0 (R107). -/
def Graph.cableLanes (g : Graph) (sx sy r sw d : Nat) : Nat :=
  min (lanesAt (upKey r sw d) g.uplinks) (lanesAt (upKey (nbrRack sx sy r d) sw (oppDir d)) g.uplinks)

/-- A cable's number, from either of its ends: the rack of its + end, its axis, its plane (R41, R155). -/
def cableOf (sx sy r sw d : Nat) : Nat :=
  let plus := if d % 2 = 0 then r else nbrRack sx sy r d
  (plus * 2 + d / 2) * 16 + sw

/-- A link record (R137): KIND, rack coordinates, SWITCH, PORT, LANES. -/
def linkRecord (kind x y sw port lanes : Nat) : Word :=
  fieldAt 0 2 kind ||| fieldAt 2 3 x ||| fieldAt 5 3 y ||| fieldAt 8 4 sw ||| fieldAt 12 8 port ||| fieldAt 20 4 lanes

/-- The rack of a link record. -/
def recRack (sx : Nat) (w : Word) : Nat := sx * bitsOf w 5 3 + bitsOf w 2 3

/-- A link record entered in the graph (R107, R137); KIND 3 is reserved and enters nothing. -/
def Graph.apply (sx : Nat) (g : Graph) (w : Word) : Graph :=
  let r := recRack sx w
  let sw := bitsOf w 8 4
  let port := bitsOf w 12 8
  let n := bitsOf w 20 4
  let kind := bitsOf w 0 2
  if kind = 0 then { g with eps := insertNat (epKey r port sw) n g.eps }
  else if kind = 1 then { g with uplinks := insertNat (upKey r sw (port % 4)) n g.uplinks }
  else if kind = 2 then { g with keepers := insertNat (kpKey r sw (port % 2)) n g.keepers }
  else g

/-! ### Link ownership (R155) -/

/-- State of a cable's ownership record. -/
inductive Owner where
  | free
  | tenant (t n : Nat)
  | sealed (s : Nat)
deriving DecidableEq, Repr

/-- The ownership record of a cable: what the claims of the slice table make it (R155, R156). -/
def ownerIn (views : List SliceView) (cable : Nat) : Owner :=
  match views.find? fun v => v.cls == 2 && v.claims.contains cable with
  | some v => .sealed v.id
  | none =>
    match views.filter fun v => v.cls == 1 && v.claims.contains cable with
    | [] => .free
    | v :: vs => .tenant v.tenant (vs.length + 1)

/-- Whether an ownership record admits a slice (R155). -/
def Owner.admits (o : Owner) (v : SliceView) : Bool :=
  match o with
  | .free => v.cls == 0
  | .tenant t _ => v.cls != 2 && v.tenant == t
  | .sealed s => v.cls == 2 && v.id == s

/-- What a solve reads (R127). -/
structure SolveCtx where
  sx    : Nat
  sy    : Nat
  graph : Graph
  views : List SliceView
deriving DecidableEq, Repr

/-- A link is admissible for a slice: at least 4 lanes, and its record admits the slice (R124). -/
def SolveCtx.linkOk (c : SolveCtx) (v : SliceView) (plane r d : Nat) : Bool :=
  4 ≤ c.graph.cableLanes c.sx c.sy r plane d && (ownerIn c.views (cableOf c.sx c.sy r plane d)).admits v

/-! ### Rings (R124) -/

/-- Links from a to t in the + direction on a ring of n. -/
def plusLinks (n a t : Nat) : List Nat := (List.range ((t + n - a) % n)).map fun i => (a + i) % n

/-- Links from a to t in the − direction. -/
def minusLinks (n a t : Nat) : List Nat := (List.range ((a + n - t) % n)).map fun i => (a + n - 1 - i) % n

/-- The way from position a to target t: direction (true +) and links. With a cut, the way that avoids it; in a split ring, the way
whose links are all admissible (R124, R125). -/
def ringPath (n : Nat) (cut : Option Nat) (ok : Nat → Bool) (a t : Nat) : Option (Bool × List Nat) :=
  if a = t then some (true, [])
  else
    let p := plusLinks n a t
    let m := minusLinks n a t
    match cut with
    | some k => if p.contains k then (if m.all ok then some (false, m) else none) else (if p.all ok then some (true, p) else none)
    | none => if p.all ok then some (true, p) else if m.all ok then some (false, m) else none

/-- The candidate cuts of a ring: every other link admissible (R124). -/
def ringCuts (n : Nat) (ok : Nat → Bool) : List Nat := (List.range n).filter fun k => (List.range n).all fun j => j == k || ok j

/-- Hops of a way; none has none. -/
def pathHops (p : Option (Bool × List Nat)) : Nat :=
  match p with
  | some x => x.2.length
  | none => 0

/-- Of candidates (cost, load, choice): lowest cost; among those lowest load when loads count, the first sweep's choice before the
others; an even plane takes the lowest-numbered choice, an odd plane the highest (R125). Where the first sweep's choice is not among the least loaded,
R125 names no winner among these: the parity of the plane decides (DESIGN CHOICE, log entry 106). -/
def pickChoice (plane : Nat) (useLoad : Bool) (cs : List (Nat × Nat × Nat)) : Option Nat :=
  match cs with
  | [] => none
  | c0 :: _ =>
    let best := cs.foldl (fun b c => min b c.1) c0.1
    let ties := cs.filter fun c => c.1 == best
    let parity := fun (xs : List (Nat × Nat × Nat)) =>
      if plane % 2 = 0 then xs.foldl (fun b c => min b c.2.2) 4096 else xs.foldl (fun b c => max b c.2.2) 0
    let first := parity ties
    if useLoad then
      let low := ties.foldl (fun b c => min b c.2.1) (2 ^ 64)
      let rest := ties.filter fun c => c.2.1 == low
      if rest.any fun c => c.2.2 == first then some first else some (parity rest)
    else some first

/-! ### Trees (R125) -/

/-- Members of a slice in a rack. -/
def SliceView.count (v : SliceView) (r : Nat) : Nat :=
  match lookupNat r v.members with
  | some m => popCount m 128
  | none => 0

/-- The member racks of a slice, in ascending order. -/
def SliceView.racks (v : SliceView) : List Nat := v.members.map (·.1)

/-- Whether an endpoint (rack, index) is a member. -/
def SliceView.has (v : SliceView) (r i : Nat) : Bool :=
  match lookupNat r v.members with
  | some m => m.testBit i
  | none => false

/-- A load of a directed uplink, for comparison: 840 × 8 × traffic / lanes, exact for 4 to 8 lanes (R126). -/
def SolveCtx.load (c : SolveCtx) (plane : Nat) (traffic : List (Nat × Nat)) (r d : Nat) : Nat :=
  let lanes := c.graph.cableLanes c.sx c.sy r plane d
  if lanes = 0 then 0 else 840 * 8 * lanesAt (upKey r plane d) traffic / lanes

/-- Direction of a hop on an axis. -/
def axisDir (axis : Nat) (plus : Bool) : Nat := 2 * axis + (if plus then 0 else 1)

/-- The hops of a way along row y (axis 0) or column x (axis 1) from position a: the sending rack, the direction, ESC on the
dateline link n − 1 (R123). -/
def pathHopList (sx n axis fixed a : Nat) (p : Option (Bool × List Nat)) : List Hop :=
  match p with
  | none => []
  | some (plus, links) =>
    (links.zipIdx).map fun x =>
      let pos := if plus then (a + x.2) % n else (a + n - x.2) % n
      { rack := if axis = 0 then sx * fixed + pos else sx * pos + fixed, dir := axisDir axis plus, esc := x.1 == n - 1 }

/-- The greatest load along hops. -/
def SolveCtx.maxLoad (c : SolveCtx) (plane : Nat) (traffic : List (Nat × Nat)) (hops : List Hop) : Nat :=
  hops.foldl (fun b h => max b (c.load plane traffic h.rack h.dir)) 0

/-- Member sources in row y: x position and members, the target rack left out. -/
def SolveCtx.rowSources (c : SolveCtx) (v : SliceView) (t y : Nat) : List (Nat × Nat) :=
  ((List.range c.sx).map fun x => (x, if c.sx * y + x = t then 0 else v.count (c.sx * y + x))).filter fun p => p.2 > 0

/-- A row's cut and way for each source, given the column's cut (R125 step 2): the X dateline is cut when the column path crosses
the Y dateline; otherwise the candidate of lowest cost. -/
def SolveCtx.rowCut (c : SolveCtx) (v : SliceView) (plane t y : Nat) (col : Option Nat) (traffic : Option (List (Nat × Nat))) :
    Option Nat :=
  let tx := t % c.sx
  let okX := fun k => c.linkOk v plane (c.sx * y + k) 0
  let okY := fun k => c.linkOk v plane (c.sx * k + tx) 2
  let colPath := ringPath c.sy col okY y (t / c.sx)
  let crosses := match colPath with
    | some p => p.2.contains (c.sy - 1)
    | none => false
  if crosses then some (c.sx - 1)
  else
    let src := c.rowSources v t y
    let way := fun k (x : Nat) => ringPath c.sx (some k) okX x tx
    pickChoice plane traffic.isSome ((ringCuts c.sx okX).map fun k =>
      ((src.map fun p => p.2 * pathHops (way k p.1)).foldl (· + ·) 0,
       match traffic with
       | some tr => c.maxLoad plane tr (src.flatMap fun p => pathHopList c.sx c.sx 0 y p.1 (way k p.1))
       | none => 0,
       k))

/-- What a column cut gives: the rows' cuts, the hops, the sources without a route, the cost (R125 step 3). -/
def SolveCtx.column (c : SolveCtx) (v : SliceView) (plane t : Nat) (col : Option Nat) (traffic : Option (List (Nat × Nat))) :
    List (Nat × Option Nat) × List Hop × List Nat × Nat :=
  let tx := t % c.sx
  let ty := t / c.sx
  let okY := fun k => c.linkOk v plane (c.sx * k + tx) 2
  let rows := (List.range c.sy).filter fun y => !(c.rowSources v t y).isEmpty
  rows.foldl (fun acc y =>
    let okX := fun k => c.linkOk v plane (c.sx * y + k) 0
    let cut := c.rowCut v plane t y col traffic
    let colPath := ringPath c.sy col okY y ty
    let colHops := pathHopList c.sx c.sy 1 tx y colPath
    (c.rowSources v t y).foldl (fun acc p =>
      let way := ringPath c.sx cut okX p.1 tx
      if colPath.isSome && way.isSome then
        (acc.1, (pathHopList c.sx c.sx 0 y p.1 way ++ colHops).foldl (fun hs h => if hs.contains h then hs else hs ++ [h]) acc.2.1,
         acc.2.2.1, acc.2.2.2 + p.2 * (pathHops way + pathHops colPath))
      else (acc.1, acc.2.1, acc.2.2.1 ++ [c.sx * y + p.1], acc.2.2.2))
      (acc.1 ++ [(y, cut)], acc.2)) ([], [], [], 0)

/-- The tree of a slice, plane and destination rack (R125). A column cut that leaves fewer member endpoints without a route comes
before a cheaper one (DEDUCED, log entry 20); loads, when given, break ties (second sweep and repair). -/
def SolveCtx.buildTree (c : SolveCtx) (v : SliceView) (plane t : Nat) (traffic : Option (List (Nat × Nat))) : Tree :=
  let okY := fun k => c.linkOk v plane (c.sx * k + t % c.sx) 2
  let cost := fun (r : List (Nat × Option Nat) × List Hop × List Nat × Nat) =>
    ((r.2.2.1.map v.count).foldl (· + ·) 0) * 2 ^ 32 + r.2.2.2
  let col := pickChoice plane traffic.isSome ((ringCuts c.sy okY).map fun k =>
    let r := c.column v plane t (some k) traffic
    (cost r, match traffic with
      | some tr => c.maxLoad plane tr r.2.1
      | none => 0, k))
  let r := c.column v plane t col traffic
  { slice := v.id, plane := plane, target := t, col := col, rows := r.1, hops := r.2.1, lost := r.2.2.1 }

/-- The next rack of a hop. -/
def Hop.next (sx sy : Nat) (h : Hop) : Nat := nbrRack sx sy h.rack h.dir

/-- The hop of a tree at a rack. -/
def Tree.at (t : Tree) (r : Nat) : Option Hop := t.hops.find? fun h => h.rack == r

/-- The hops from a rack to the target, with fuel. -/
def Tree.pathFrom (sx sy : Nat) (t : Tree) : Nat → Nat → List Hop
  | 0, _ => []
  | n + 1, r => if r = t.target then [] else
    match t.at r with
    | some h => h :: Tree.pathFrom sx sy t n (h.next sx sy)
    | none => []

/-- Whether a rack is on a routed path of the tree: it has a hop there, or is the target. -/
def Tree.routes (t : Tree) (r : Nat) : Bool := r == t.target || (t.at r).isSome

/-- Traffic of every directed uplink: Σ m_src × m_dst over the paths that use it (R126). -/
def trafficOf (c : SolveCtx) (trees : List Tree) : List (Nat × Nat) :=
  trees.foldl (fun acc t =>
    match c.views.find? fun v => v.id == t.slice with
    | none => acc
    | some v => v.racks.foldl (fun acc r =>
        if r = t.target ∨ t.lost.contains r then acc
        else (t.pathFrom c.sx c.sy 16 r).foldl (fun acc h =>
          let k := upKey h.rack t.plane h.dir
          insertNat k (lanesAt k acc + v.count r * v.count t.target) acc) acc) acc) []

/-- Every tree of the slices in a list (R122): slice, plane, destination rack. -/
def treeKeys (views : List SliceView) : List (SliceView × Nat × Nat) :=
  views.flatMap fun v => (List.range 16).flatMap fun p => v.racks.map fun t => (v, p, t)

/-- A full solve: every tree in two sweeps (R125, R128). -/
def SolveCtx.solveFull (c : SolveCtx) : List Tree :=
  let first := (treeKeys c.views).map fun k => c.buildTree k.1 k.2.1 k.2.2 none
  let tr := trafficOf c first
  (treeKeys c.views).map fun k => c.buildTree k.1 k.2.1 k.2.2 (some tr)

/-- A repair rebuilds a tree when its lit version uses a link now at 0 lanes, or whose ownership changed, when an endpoint link of
a destination fell to 0 lanes, or when its slice was created, destroyed or changed (R126, R128). -/
def SolveCtx.needsRepair (c : SolveCtx) (lit : BankSrc) (changed : List Nat) (v : SliceView) (plane t : Nat) : Bool :=
  changed.contains v.id ||
  match lit.trees.find? fun x => x.slice == v.id && x.plane == plane && x.target == t with
  | none => true
  | some x =>
    (x.hops.any fun h => c.graph.cableLanes c.sx c.sy h.rack plane h.dir == 0
      || ownerIn lit.slices (cableOf c.sx c.sy h.rack plane h.dir) != ownerIn c.views (cableOf c.sx c.sy h.rack plane h.dir)) ||
    (List.range 128).any fun i => v.has t i && lanesAt (epKey t i plane) c.graph.eps == 0
      && lanesAt (epKey t i plane) lit.graph.eps != 0

/-- A repair solve: one sweep, ties by the loads of the lit trees; every other tree is kept (R128). -/
def SolveCtx.solveRepair (c : SolveCtx) (lit : BankSrc) (changed : List Nat) : List Tree :=
  let tr := trafficOf { c with views := lit.slices } lit.trees
  (treeKeys c.views).map fun k =>
    if c.needsRepair lit changed k.1 k.2.1 k.2.2 then c.buildTree k.1 k.2.1 k.2.2 (some tr)
    else match lit.trees.find? fun x => x.slice == k.1.id && x.plane == k.2.1 && x.target == k.2.2 with
      | some x => x
      | none => c.buildTree k.1 k.2.1 k.2.2 (some tr)

/-- Links at 0 lanes alone cut a plane for a source rack: under the ownership of the lit bank the tree over the present graph loses it too (R158,
R169). -/
def SolveCtx.cutByLanes (c : SolveCtx) (lit : BankSrc) (v : SliceView) (plane t r : Nat) : Bool :=
  (({ c with views := lit.slices } : SolveCtx).buildTree v plane t none).lost.contains r

/-- Trees a solve builds. -/
def SolveCtx.toBuild (c : SolveCtx) (lit : BankSrc) (full : Bool) (changed : List Nat) : List (SliceView × Nat × Nat) :=
  if full then treeKeys c.views else (treeKeys c.views).filter fun k => c.needsRepair lit changed k.1 k.2.1 k.2.2

/-- a / b rounded up. -/
def ceilDiv (a b : Nat) : Nat := (a + b - 1) / b

/-- Flashes of a solve of T trees in a pool of L lanes (R129). -/
def solveFlashes (full : Bool) (trees lanes periodUs : Nat) : Nat :=
  if full then 4 + ceilDiv (384 * trees) (2000 * lanes * periodUs) else 1 + ceilDiv (192 * trees) (2000 * lanes * periodUs)

/-! ### Tables of a bank (R131, R132, R159) -/

/-- The EN of an endpoint; none when NONE is set or it has no entry (R75). -/
def enOf (enMap : List Nat) (r i : Nat) : Option Nat :=
  match enMap[128 * r + i]? with
  | some h => if h / 2 ^ 15 % 2 = 1 then none else some (h % 2 ^ 14)
  | none => none

/-- The endpoint of an EN: rack × 128 + index. -/
def endpointOf (enMap : List Nat) (en : Nat) : Option Nat := enMap.findIdx? fun h => h == en

/-- The slice an endpoint is a member of; 0 none. -/
def BankSrc.sliceAt (b : BankSrc) (r i : Nat) : Nat :=
  match b.slices.find? fun v => v.has r i with
  | some v => v.id
  | none => 0

/-- A slice's view. -/
def BankSrc.view (b : BankSrc) (slice : Nat) : Option SliceView := b.slices.find? fun v => v.id == slice

/-- The tree of a slice, plane and destination rack. -/
def BankSrc.tree (b : BankSrc) (slice plane t : Nat) : Option Tree :=
  b.trees.find? fun x => x.slice == slice && x.plane == plane && x.target == t

/-- The entry of switch p of rack r for a destination EN (R126, R131). -/
def BankSrc.switchEntry (b : BankSrc) (r p en : Nat) : Word :=
  match endpointOf b.enMap en with
  | none => 0
  | some e =>
    let dr := e / 128
    let di := e % 128
    let sl := b.sliceAt dr di
    if sl = 0 ∨ lanesAt (epKey dr di p) b.graph.eps < 4 then 0
    else match b.tree sl p dr with
      | none => 0
      | some t =>
        if r = dr then fieldAt 0 8 di ||| fieldAt 9 1 1 ||| fieldAt 16 8 sl
        else match t.at r with
          | some h => fieldAt 0 8 (128 + h.dir) ||| fieldAt 8 1 (b2n h.esc) ||| fieldAt 9 1 1 ||| fieldAt 16 8 sl
          | none => 0

/-- The endpoint entry of a port slice map (R159). -/
def BankSrc.mapEntry (b : BankSrc) (r i : Nat) : Word :=
  match enOf b.enMap r i with
  | none => 0
  | some en =>
    let sl := b.sliceAt r i
    let vcs := match b.view sl with
      | some v => if v.cls = 2 then v.vcs else 0x1F
      | none => 0x1F
    fieldAt 0 14 en ||| fieldAt 14 1 1 ||| fieldAt 16 8 sl ||| fieldAt 24 5 vcs

/-- The ingress mask of uplink d of switch p in rack r: the slices with a tree that enters over it (R159). -/
def BankSrc.ingressMask (b : BankSrc) (sx sy r p d : Nat) : Nat :=
  let q := nbrRack sx sy r d
  maskOf (((b.trees.filter fun t => t.plane == p && (match t.at q with
    | some h => h.dir == oppDir d
    | none => false)).map (·.slice)).dedup)

/-- The 160 words of a port slice map (R159). -/
def BankSrc.sliceMap (b : BankSrc) (sx sy r p : Nat) : List Word :=
  ((List.range 128).map fun i => b.mapEntry r i)
    ++ (List.range 4).flatMap fun d => (List.range 8).map fun k => BitVec.ofNat 32 (b.ingressMask sx sy r p d / 2 ^ (32 * k))

/-- Weight by lanes (R132). -/
def laneWeight (lanes : Nat) : Nat := if lanes ≥ 8 then 3 else if lanes ≥ 6 then 2 else if lanes ≥ 4 then 1 else 0

/-- The weight of plane p at endpoint (r, i) for a destination rack (R132). -/
def BankSrc.planeWeight (b : BankSrc) (sx sy r i dest p : Nat) : Nat :=
  let own := lanesAt (epKey r i p) b.graph.eps
  match b.view (b.sliceAt r i) with
  | none => 0
  | some v =>
    if !v.racks.contains dest then 0
    else if dest = r then laneWeight own
    else match b.tree v.id p dest with
      | none => 0
      | some t =>
        if t.lost.contains r ∨ (t.at r).isNone then 0
        else laneWeight ((t.pathFrom sx sy 16 r).foldl (fun n h => min n (b.graph.cableLanes sx sy h.rack p h.dir)) own)

/-- PLANE_WT of an endpoint (R132). -/
def BankSrc.planeWt (b : BankSrc) (sx sy r i : Nat) : List Word :=
  (List.range 64).map fun dest => (List.range 16).foldl (fun w p => w ||| fieldAt (2 * p) 2 (b.planeWeight sx sy r i dest p)) 0

/-- One byte of EN_RACK at an endpoint: the rack of an EN of its own slice, VALID (R132). -/
def BankSrc.enRackByte (b : BankSrc) (r i en : Nat) : Nat :=
  let own := b.sliceAt r i
  match endpointOf b.enMap en with
  | some e => if own ≠ 0 ∧ b.sliceAt (e / 128) (e % 128) = own then 0x80 + e / 128 % 64 else 0
  | none => 0

/-- EN_RACK of an endpoint as words (R16, R132). -/
def BankSrc.enRack (b : BankSrc) (r i : Nat) : List Word :=
  (List.range 4096).map fun k => (List.range 4).foldl (fun w j => w ||| fieldAt (8 * j) 8 (b.enRackByte r i (4 * k + j))) 0

/-- FA_SELF of an endpoint: its EN and slice (R440). -/
def BankSrc.selfWord (b : BankSrc) (r i : Nat) : Word :=
  match enOf b.enMap r i with
  | some en => fieldAt 0 14 en ||| fieldAt 16 8 (b.sliceAt r i)
  | none => 0

/-- A switch's entries in EN order. -/
def BankSrc.switchBank (b : BankSrc) (r p : Nat) : List Word := (List.range 16384).map fun en => b.switchEntry r p en

/-- An agent's banked structure in the order of its check value (R449). -/
def BankSrc.agentWords (b : BankSrc) (sx sy : Nat) (agent : Addr) : List Word :=
  let r := sx * addrY agent + addrX agent
  if addrKind agent = 1 then b.switchBank r (addrIndex agent) ++ b.sliceMap sx sy r (addrIndex agent)
  else b.enRack r (addrIndex agent) ++ b.planeWt sx sy r (addrIndex agent) ++ [b.selfWord r (addrIndex agent)]

/-- The agent-space address of word k of that structure in a bank (R448, R439). -/
def bankAddr (agent : Addr) (bank k : Nat) : Nat :=
  if addrKind agent = 1 then
    if k < 16384 then 0x100000 + 0x10000 * bank + 4 * k else 0x120000 + 0x400 * bank + 4 * (k - 16384)
  else if k < 4096 then 0x100000 + 0x4000 * bank + 4 * k
  else if k < 4160 then 0x108000 + 0x100 * bank + 4 * (k - 4096)
  else 0x10 + 4 * bank

/-- The bank digest of a rack (R134). -/
def BankSrc.digest (b : BankSrc) (sx sy r : Nat) (present : List Nat) : Digest :=
  Config.shake256 (((List.range 16).flatMap fun p => bytesOfWords (b.switchBank r p ++ b.sliceMap sx sy r p))
    ++ present.flatMap fun i => bytesOfWords (b.enRack r i ++ b.planeWt sx sy r i))

/-- A check value: CRC-64, initial value all ones, inverted at the end (R449). -/
def crc64 (bs : List Byte) : BitVec 64 := ~~~ BitVec.ofNat 64 (crc 64 0x42F0E1EBA9EA3693 (2 ^ 64 - 1) bs)

/-- Runs of addresses 4 apart with their words, each of at most 1,020 words (R441). -/
def writeRuns : List (Nat × Word) → List (Nat × List Word)
  | [] => []
  | (a, w) :: rest =>
    match writeRuns rest with
    | (b, ws) :: more => if b = a + 4 ∧ ws.length < 1020 then (a, w :: ws) :: more else (a, [w]) :: (b, ws) :: more
    | [] => [(a, [w])]

/-- The words that differ between two structures, by index. -/
def diffWords (old new : List Word) : List (Nat × Word) :=
  ((old.zip new).zipIdx.filter fun x => x.1.1 != x.1.2).map fun x => (x.2, x.1.2)

/-- How many entries of an agent's tables differ between two banks: words of a switch's entries and of its port slice map, bytes of EN_RACK and words of
PLANE_WT of an endpoint (R131, R132, R134, R138). -/
def entriesChanged (old new : BankSrc) (sx sy : Nat) (a : Addr) : Nat :=
  let r := sx * addrY a + addrX a
  let i := addrIndex a
  let differ := fun (x y : List Nat) => ((x.zip y).filter fun z => z.1 != z.2).length
  if addrKind a = 1 then (diffWords (old.agentWords sx sy a) (new.agentWords sx sy a)).length
  else differ ((List.range 16384).map (old.enRackByte r i)) ((List.range 16384).map (new.enRackByte r i))
    + (diffWords (old.planeWt sx sy r i) (new.planeWt sx sy r i)).length

/-- The drain set of the own rack: slices with a switch entry or port-slice-map entry that differs (R142). -/
def ownDrainSet (old new : BankSrc) (sx sy r : Nat) : Nat :=
  let ids := ((old.slices ++ new.slices).map (·.id)).dedup
  let ends := fun (b : BankSrc) (id : Nat) => match b.view id with
    | some v => v.members
    | none => []
  maskOf (ids.filter fun id =>
    (((ends old id ++ ends new id).any fun m => (bitIndices m.2 128).any fun i =>
        match enOf new.enMap m.1 i with
        | some en => (List.range 16).any fun p => old.switchEntry r p en != new.switchEntry r p en
        | none => false) ||
     ((List.range 128).any fun i => old.mapEntry r i != new.mapEntry r i && (old.sliceAt r i == id || new.sliceAt r i == id)) ||
     ((List.range 16).any fun p => (List.range 4).any fun d =>
        (old.ingressMask sx sy r p d).testBit id != (new.ingressMask sx sy r p d).testBit id)))

/-! ### The Sector Verifier's invariants (R169) -/

/-- A path obeys R123: X hops, then Y hops, at most one dateline, ESC exactly there. -/
def pathLegal (sx sy : Nat) (hs : List Hop) : Bool :=
  let date := fun (h : Hop) =>
    if h.dir = 0 then h.rack % sx == sx - 1 else if h.dir = 1 then h.rack % sx == 0
    else if h.dir = 2 then h.rack / sx == sy - 1 else h.rack / sx == 0
  ((hs.zip hs.tail).all fun p => !(p.1.dir ≥ 2 && p.2.dir < 2)) && (hs.filter date).length ≤ 1 && hs.all fun h => h.esc == date h

/-- The channels a path takes, in order: an uplink, and whether the packet is on VC7 there, which it is from its dateline hop on (R56, R123). -/
def pathChannels (plane : Nat) (hs : List Hop) : List Nat :=
  (hs.foldl (fun (acc : List Nat × Bool) h =>
    let esc := acc.2 || h.esc
    (acc.1 ++ [2 * upKey h.rack plane h.dir + (if esc then 1 else 0)], esc)) ([], false)).1

/-- A channel dependency graph, as its edges, has no cycle: edges into channels without a successor are taken off until none is left (R169). -/
def acyclic : Nat → List (Nat × Nat) → Bool
  | 0, es => es.isEmpty
  | n + 1, es =>
    let keep := es.filter fun e => es.any fun d => d.1 == e.2
    es.isEmpty || (keep.length != es.length && acyclic n keep)

/-- A finding of the Sector Verifier: code, slice, rack, switch, port (R169, R177). -/
abbrev Finding := Nat × Nat × Nat × Nat × Nat

/-- No invariant fails. -/
def noFinding : Finding := (0, 0, 0, 0, 0)

/-- The place of a hop of a tree: the uplink port it leaves by. -/
def hopAt (code : Nat) (t : Tree) (h : Hop) : Finding := (code, t.slice, h.rack, t.plane, 128 + h.dir)

/-- MEMBERSHIP: the bank is of the slice table and the EN map, and no endpoint is in two slices (R169). -/
def findMembership (c : SolveCtx) (enMap : List Nat) (new : BankSrc) : Finding :=
  if new.enMap ≠ enMap ∨ new.slices ≠ c.views then (1, 0, 0, 0, 0)
  else ((new.slices.findSome? fun v => (v.members.find? fun m => new.slices.any fun u => u.id != v.id && (bitIndices m.2 128).any fun i => u.has m.1 i).map
    fun m => ((1, v.id, m.1, 0, 0) : Finding))).getD noFinding

/-- ADMISSIBLE: every hop crosses a link admissible for the tree's slice (R155, R169). -/
def findAdmissible (c : SolveCtx) (new : BankSrc) : Finding :=
  (new.trees.findSome? fun t => match new.view t.slice with
    | some v => (t.hops.find? fun h => !c.linkOk v t.plane h.rack h.dir).map (hopAt 2 t)
    | none => some (2, t.slice, t.target, t.plane, 0)).getD noFinding

/-- EXCLUSIVE: a cable of a SEALED slice carries that slice only, and the slice crosses only its own (R169). -/
def findExclusive (c : SolveCtx) (new : BankSrc) : Finding :=
  (new.trees.findSome? fun t => match new.view t.slice with
    | some v => (t.hops.find? fun h =>
        match ownerIn c.views (cableOf c.sx c.sy h.rack t.plane h.dir) with
        | .sealed k => k != v.id || v.cls != 2
        | _ => v.cls == 2).map (hopAt 3 t)
    | none => none).getD noFinding

/-- ACYCLIC: every tree obeys R123 and ends at its target, and the channel dependency graph of all trees has no cycle (R169). -/
def findCycle (c : SolveCtx) (new : BankSrc) : Finding :=
  let paths := new.trees.flatMap fun t => match new.view t.slice with
    | some v => (v.racks.filter fun r => !t.lost.contains r).map fun r => (t, r, t.pathFrom c.sx c.sy 16 r)
    | none => []
  match paths.find? fun p => !(pathLegal c.sx c.sy p.2.2 && p.2.2.foldl (fun _ h => h.next c.sx c.sy) p.2.1 == p.1.target) with
  | some p => (4, p.1.slice, p.2.1, p.1.plane, 0)
  | none =>
    let edges := (paths.flatMap fun p => let ks := pathChannels p.1.plane p.2.2
                                         ks.zip ks.tail).dedup
    if acyclic edges.length edges then noFinding else (4, 0, 0, 0, 0)

/-- REACH: every pair of member racks of a live slice keeps the planes in which the lit bank joins it, but for planes cut by links at 0 lanes and slices
whose own layout changes (R169). -/
def findReach (c : SolveCtx) (lit new : BankSrc) (changed : List Nat) : Finding :=
  (lit.trees.findSome? fun t => if changed.contains t.slice then none
    else match new.view t.slice, new.tree t.slice t.plane t.target with
    | some v, some u => (v.racks.find? fun r => u.lost.contains r && !t.lost.contains r && !c.cutByLanes lit v t.plane t.target r).map
        fun r => ((5, t.slice, r, t.plane, 0) : Finding)
    | _, _ => none).getD noFinding

/-- The first invariant of R169 that a bank fails, with its place; DIGEST compares the digest the Verifier computed with BANK_READY's. -/
def firstFinding (c : SolveCtx) (enMap : List Nat) (lit new : BankSrc) (changed : List Nat) : Finding :=
  let all := [findMembership c enMap new, findAdmissible c new, findExclusive c new, findCycle c new, findReach c lit new changed]
  (all.find? fun f => f.1 != 0).getD noFinding

/-! ### Slice views of the state -/

/-- The axes of the lit chart as a solve context over a graph and a slice table. -/
def State.solveCtx (s : State) (g : Graph) (views : List SliceView) : SolveCtx :=
  { sx := s.axes.1, sy := s.axes.2, graph := g, views := views }

/-- The slice table as the next bank will have it: every change in place (R162). -/
def SliceState.nextViews (c : SliceState) : List SliceView :=
  c.table.filterMap fun r => match r.chg with
    | some (_, some l) => some l.view
    | some (_, none) => none
    | none => r.lay.map (·.view)

/-- The slice table with the changes of one epoch in place, and no later ones. -/
def SliceState.viewsAt (c : SliceState) (epoch : Nat) : List SliceView :=
  c.table.filterMap fun r => match r.chg with
    | some (e, l) => if e == epoch then l.map (·.view) else r.lay.map (·.view)
    | none => r.lay.map (·.view)

/-- One entry of the slice table. -/
def State.slice (s : State) (id : Nat) : Option SliceRec := s.slc.table.find? fun r => r.id == id

/-- The state code of a slice: FREE when it has no entry (R165, R177). -/
def State.sliceState (s : State) (id : Nat) : Nat :=
  match s.slice id with
  | some r => r.state
  | none => 0

/-- One entry of the slice table, changed; an entry that becomes FREE is dropped. -/
def State.onSlice (s : State) (id : Nat) (f : SliceRec → SliceRec) : State :=
  { s with slc := { s.slc with table := (s.slc.table.map fun r => if r.id = id then f r else r).filter fun r => r.state != 0 } }

/-- The lit view of a slice. -/
def State.litView (s : State) (id : Nat) : Option SliceView := s.slv.lit.view id

/-- A slice touches a rack: it has members there, or a lit tree passes through one of its switches (06_slices_isolation.md). -/
def State.touches (s : State) (id r : Nat) : Bool :=
  (match s.litView id with
   | some v => v.racks.contains r
   | none => false) || s.slv.lit.trees.any fun t => t.slice == id && t.routes r

/-- The endpoints of this rack that are members of a slice. -/
def State.memberAgents (s : State) (id : Nat) : List Addr :=
  match s.slice id with
  | some r => match r.lay with
    | some l => match lookupNat s.myRack l.view.members with
      | some m => (bitIndices m 128).map s.epAddr
      | none => []
    | none => []
  | none => []

/-- The template of the lit chart with a number (R78). -/
def State.template (s : State) (n : Nat) : Option Template :=
  match s.chart.lit with
  | some c => c.templates.find? fun t => t.num == n
  | none => none

/-- Units in service of a pool of a resource (R76); the working total when the chart has no such pool. -/
def State.poolCount (s : State) (resource pool : Nat) : Nat :=
  match s.chart.lit with
  | some c => match c.pools.find? fun p => p.resource == resource && p.pool == pool with
    | some p => p.count
    | none => 0
  | none => 0

/-- The sweep-lane pool of a slice's template (R78). -/
def State.slvPool (s : State) (template : Nat) : Nat :=
  match s.template template with
  | some t => t.slvPool
  | none => 0

/-- The pool of the chart a sweep lane below 64 belongs to: lanes are dealt to the pools in turn (DESIGN CHOICE, log entry 21). -/
def State.poolOfSlot (s : State) (lane : Nat) : Nat :=
  match s.chart.lit with
  | none => 0
  | some c =>
    let ps := c.pools.filter fun p => p.resource == 1
    (ps.foldl (fun acc p => if acc.2 then acc else if lane < acc.1.1 + p.count then ((acc.1.1, p.pool), true) else ((acc.1.1 + p.count, 0), false))
      ((0, 0), false)).1.2

/-- The pool a sweep lane belongs to: a spare lane serves the pool of the retired lane whose place it took (R130); fuel bounds the chain. -/
def State.poolOfLane (s : State) : Nat → Nat → Nat
  | 0, lane => s.poolOfSlot lane
  | n + 1, lane =>
    if lane < 64 then s.poolOfSlot lane
    else match s.slv.retiredLanes[lane - 64]? with
      | some old => State.poolOfLane s n old
      | none => 0

/-- Sweep lanes in service of a pool: its count less its retired lanes that no spare replaced, at least 1 (R129, R130). -/
def State.sweepLanes (s : State) (pool : Nat) : Nat :=
  let n := match s.chart.lit with
    | some _ => s.poolCount 1 pool
    | none => 64
  max 1 (n - ((s.slv.retiredLanes.drop s.slv.spareLanes).filter fun l => s.poolOfLane 4 l == pool).length)

/-- Flashes a solve takes: the slowest pool's (R129). -/
def State.solveLength (s : State) (full : Bool) (keys : List (SliceView × Nat × Nat)) : Nat :=
  let pools := (keys.map fun k => s.slvPool k.1.template).dedup
  max (solveFlashes full 0 1 1)
    ((pools.map fun p => solveFlashes full (keys.filter fun k => s.slvPool k.1.template == p).length (s.sweepLanes p) s.tim.periodUs).foldl max 0)

end Sys2Proof.Machine
end

