-- ==== Sys2Proof/Machine/SendOps.lean ====
section
/-! DEFINITION. Machine/SendOps.lean: the Keeper's egress queues, the paths of its packets and its messages to other Keepers (R40, R43 to R45, R48,
R59, R137, R139, R251). -/
namespace Sys2Proof.Machine

/-! ### Ports and paths -/

/-- A packet of the Keeper waits at a port's egress (R59, R202). -/
def State.enqueue (s : State) (port : Nat) (p : Packet) : State := s.onPort port fun x => { x with eg := x.eg.join none p }

/-- The port is LIT. -/
def State.portLit (s : State) (n : Nat) : Bool := (s.port n).st == .lit

/-- The lowest plane whose uplink of this rack in a direction is lit, by way of a lit switch port (R251). -/
def State.planeToward (s : State) (dir : Nat) : Option Nat :=
  (List.range 16).find? fun p => s.portLit p && s.slv.graph.cableLanes s.axes.1 s.axes.2 s.myRack p dir != 0

/-- The Keeper port a hop to the neighbouring rack in a direction takes: port 16 to 19 when it is LIT and the neighbour's last
beacon shows LIT_HOLDER, else the lowest plane whose uplink there is lit; none when neither path exists (R251). -/
def State.hopPort (s : State) (dir : Nat) : Option Nat :=
  if s.portLit (16 + dir) && (s.port (16 + dir)).litHolder then some (16 + dir) else s.planeToward dir

/-- The direction of the first hop of coordinate routing to a rack: X first, never across a dateline (R50). -/
def State.coordDir (s : State) (r : Nat) : Option Nat :=
  let x := r % s.axes.1
  let y := r / s.axes.1
  if x > s.rx then some 0 else if x < s.rx then some 1 else if y > s.ry then some 2 else if y < s.ry then some 3 else none

/-- The port a packet to the Keeper of another rack takes: as a hop to a neighbour, else a plane by coordinate routing (R192, R251). -/
def State.keeperPort (s : State) (r : Nat) : Option Nat :=
  match (List.range 4).find? fun d => r != s.myRack && nbrRack s.axes.1 s.axes.2 s.myRack d == r with
  | some d => s.hopPort d
  | none => match s.coordDir r with
    | some d => s.planeToward d
    | none => none

/-- The address of the Keeper of rack r, index 0x02. -/
def State.keeper2 (s : State) (r : Nat) : Addr := mkAddr 2 (r % s.axes.1) (r / s.axes.1) 2

/-- Payload words padded to whole granules; one granule at least (R53). -/
def granules (ws : List Word) : List Word := ws ++ List.replicate ((16 - ws.length % 16) % 16 + (if ws.isEmpty then 16 else 0)) 0

/-- A coordinate-mode packet of the Keeper. TSTX and HCRC are written at the egress (R54). -/
def mkPacket (dest src : Addr) (svc : Nat) (slice : Byte) (gen : BitVec 6) (wseq opkind optag : Nat) (ws : List Word) : Packet :=
  let g := granules ws
  { hdr := { dest := dest, src := src, slice := slice, vc := BitVec.ofNat 3 svc, svc := BitVec.ofNat 3 svc, gen := gen, wseq := BitVec.ofNat 12 wseq,
             opkind := BitVec.ofNat 8 opkind, len := BitVec.ofNat 6 (g.length / 16 - 1), amode := true, rsv := false,
             optag := BitVec.ofNat 16 optag, tstx := 0, hcrc := 0 },
    payload := g }

/-! ### A packet arrives -/

/-- A packet has come in on a port: its hop delay enters calibration when the sample is valid, and one other than a beacon keeps the link from
parking (R117, R292, R294). -/
def State.received (s : State) (port : Nat) (h : Hdr) : State :=
  let d := (s.tim.offset % 65536 + 65536 - h.tstx.toNat) % 65536
  let valid := 32768 ≤ s.tim.offset ∧ d < 30720
  s.onPort port fun p => { p with samples := if valid then p.samples + 1 else p.samples, sampleSum := if valid then p.sampleSum + d else p.sampleSum,
                                  busy := p.busy || h.opkind != 0x01, rxPackets := p.rxPackets + 1 }

/-- Credits of a received packet go back to the sender (R62). -/
def State.returnCredits (s : State) (port : Nat) (h : Hdr) : State := s.send (.credits port h.vc.toNat (packetUnits h))

/-- The general checks of a received packet (R17, R47, R53, R55): none when it may be taken. While a level-4 reset lasts, the link layer discards
every packet, returns its credits and counts it (R402). -/
def State.refused (s : State) (port : Nat) (h : Hdr) : Option State :=
  let r := headerRefusal (port == 20) h
  if s.rst.part.any fun q => q.started && q.level == 4 then some ((s.onPort port fun p => { p with discards := p.discards + 1 }).returnCredits port h)
  else if r = 0 then none else some (s.refusePacket port h r)

/-- A packet whose GEN or context does not match is discarded and counted (R57). -/
def State.staleGen (s : State) (port : Nat) (h : Hdr) : State :=
  ({ s with link := { s.link with staleGen := s.link.staleGen + 1 } }).returnCredits port h

/-! ### KEEPER_MSG as words (R137) -/

/-- The types R138, R168 and R387 lay down; every other type is reserved. -/
def kmsgTypes : List Nat :=
  [0x01, 0x02, 0x03, 0x04, 0x05, 0x06, 0x07, 0x08, 0x09, 0x0A, 0x0B, 0x0C, 0x20, 0x21, 0x22, 0x23, 0x24, 0x25, 0x30, 0x31, 0x32, 0x33, 0x34, 0x35, 0x40,
   0x41, 0x42, 0x43, 0x44, 0x45, 0x46, 0x47, 0x50, 0x51, 0x52, 0x53, 0x54, 0x55]

/-- Types flooded over the Keeper ports (R138, R168, R387). -/
def floodTypes : List Nat := [0x05, 0x08, 0x09, 0x0B, 0x22, 0x23, 0x25, 0x50, 0x52]

/-- Types a Keeper sends to the head (R138, R168, R186, R284, R286, R387). -/
def headTypes : List Nat := [0x01, 0x04, 0x06, 0x07, 0x0A, 0x0C, 0x20, 0x24, 0x30, 0x32, 0x34, 0x40, 0x42, 0x45, 0x47, 0x51, 0x54]

/-- Types whose COUNT holds entries, a reason or a state; in every other type with records it is their number (R138, R168, R186, log entry 94). -/
def countTypes : List Nat := [0x04, 0x07, 0x21, 0x23, 0x25, 0x32, 0x34, 0x35]

/-- Link records stand in these types (R138, R382). -/
def linkTypes : List Nat := [0x01, 0x02, 0x03, 0x55]

/-- The payload words of a message, padded to whole granules; zeros at the end are left out (R137). -/
def kmsgPayload (m : KMsg) : List Word :=
  let ws := [fieldAt 0 8 m.mtype.toNat ||| fieldAt 8 1 (b2n m.subject) ||| fieldAt 9 1 (b2n m.full), m.litEpoch, m.epoch, loHalf m.flash.toNat,
      fieldAt 0 16 (m.flash.toNat / 2 ^ 32), fieldAt 0 16 m.part.toNat ||| fieldAt 16 16 m.parts.toNat, m.count, 0]
    ++ ((List.range 8).map fun i => m.set.extractLsb' (32 * i) 32) ++ ((List.range 16).map fun i => m.digest.extractLsb' (32 * i) 32) ++ m.words
  granules (ws.reverse.dropWhile (· == 0)).reverse

/-- The message a payload holds (R137). -/
def kmsgOf (ws : List Word) : KMsg :=
  let w := wordAt ws
  let mtype := bitsOf (w 0) 0 8
  let part := bitsOf (w 5) 0 16
  let n := if countTypes.contains mtype then ws.length - 32 else min 992 ((w 6).toNat - 992 * part)
  { mtype := BitVec.ofNat 8 mtype, subject := bitAt (w 0) 8, full := bitAt (w 0) 9, litEpoch := w 1, epoch := w 2,
    flash := BitVec.ofNat 48 ((w 3).toNat + 2 ^ 32 * bitsOf (w 4) 0 16), part := BitVec.ofNat 16 part, parts := BitVec.ofNat 16 (bitsOf (w 5) 16 16),
    count := w 6, set := BitVec.ofNat 256 (numOfWords ((List.range 8).map fun i => w (8 + i))),
    digest := BitVec.ofNat 512 (numOfWords ((List.range 16).map fun i => w (16 + i))), words := (List.range n).map fun i => w (32 + i) }

/-- A link record keeps its encodings: KIND 0 to 2, PORT of its KIND, LANES 0 or 4 to 8, bits [31:24] 0 (R137). -/
def linkRecordClean (w : Word) : Bool :=
  let kind := bitsOf w 0 2
  let port := bitsOf w 12 8
  let lanes := bitsOf w 20 4
  bitsOf w 24 8 == 0 && (lanes == 0 || (4 ≤ lanes && lanes ≤ 8))
    && (if kind = 0 then decide (port < 128) else if kind = 1 then decide (128 ≤ port ∧ port < 132) else kind == 2 && (port == 132 || port == 133))

/-- A payload keeps every reserved field 0 and every encoding defined (R17, R137, R138). -/
def kmsgClean (ws : List Word) : Bool :=
  let m := kmsgOf ws
  let t := m.mtype.toNat
  kmsgTypes.contains t && bitsOf (wordAt ws 0) 10 22 == 0 && bitsOf (wordAt ws 4) 16 16 == 0 && wordAt ws 7 == 0 && (!m.full || t == 0x02)
    && (!linkTypes.contains t || m.words.all linkRecordClean) && (t != 0x07 || (1 ≤ bitsOf m.count 0 8 && bitsOf m.count 0 8 ≤ 7))

/-- The packet of a message between two Keepers; its OPTAG is 0 (log entry 94). -/
def kmsgPacket (m : KMsg) (dest src : Addr) : Packet := mkPacket dest src 0 0 0 0 0x40 0 (kmsgPayload m)

/-! ### The overlay (R43 to R45) -/

/-- The direction from a rack to its overlay parent: along Y first, never across a dateline; none at the head (R43). -/
def State.treeDir (s : State) (r : Nat) : Option Nat :=
  match s.chart.lit with
  | none => none
  | some c =>
    let x := r % s.axes.1
    let y := r / s.axes.1
    if y < c.install.headY then some 2 else if c.install.headY < y then some 3 else if x < c.install.headX then some 0
    else if c.install.headX < x then some 1 else none

/-- The racks from one up to the head along the tree, the head last (R43); fuel bounds the steps. -/
def State.treePath (s : State) : Nat → Nat → List Nat
  | 0, r => [r]
  | n + 1, r => match s.treeDir r with
    | some d => r :: State.treePath s n (nbrRack s.axes.1 s.axes.2 r d)
    | none => [r]

/-- The direction of the overlay parent; none at the head (R43). -/
def State.overlayDir (s : State) : Option Nat := s.treeDir s.myRack

/-- The direction in which the tree leads from this rack to another: down to the child whose subtree holds it, else up to the parent (R43, R44). -/
def State.treeHop (s : State) (r : Nat) : Option Nat :=
  let below := (s.treePath 16 r).takeWhile (· != s.myRack)
  if below.length < (s.treePath 16 r).length then (below.getLast?.bind s.treeDir).map oppDir else s.overlayDir

/-- A Keeper-port link carries traffic: LIT, HELD or PARKED (R45, R96). -/
def State.portUp (s : State) (n : Nat) : Bool := [PortState.lit, .held, .parked].contains (s.port n).st

/-- The neighbouring rack's direction; none for a rack that is no neighbour. -/
def State.nbrDir (s : State) (r : Nat) : Option Nat := (List.range 4).find? fun d => r != s.myRack && nbrRack s.axes.1 s.axes.2 s.myRack d == r

/-- Traffic to a Keeper goes over the overlay: this Keeper is in overlay state, or the destination has declared that it is in its last message, which
a neighbour's beacon shows (R44, R101). -/
def State.byOverlay (s : State) (dest : Addr) : Bool :=
  s.link.overlay || match s.nbrDir (s.rackOf dest) with
    | some d => addrIndex dest == s.role && (s.port (16 + d)).farOverlay
    | none => false

/-- The port and the DEST of a message's next hop: over the overlay by the tree's link, or with that link dark by the lowest plane whose uplink there
is lit, to the parent itself when the message goes up to the head; else directly to a same-role neighbour, or by coordinate routing through a plane
(R44, R45, R50, log entry 95). -/
def State.keeperRoute (s : State) (dest : Addr) : Option (Nat × Addr) :=
  let r := s.rackOf dest
  let plane := (s.coordDir r).bind s.planeToward
  if s.byOverlay dest then
    match s.treeHop r with
    | none => none
    | some d =>
      if s.portUp (16 + d) then some (16 + d, dest)
      else
        let up := s.overlayDir == some d && dest == s.headAddr
        if up then (s.planeToward d).map fun p => (p, mkAddr 2 (nbrRack s.axes.1 s.axes.2 s.myRack d % s.axes.1)
          (nbrRack s.axes.1 s.axes.2 s.myRack d / s.axes.1) s.role)
        else plane.map fun p => (p, dest)
  else
    match s.nbrDir r with
    | some d => if addrIndex dest == s.role && s.portUp (16 + d) then some (16 + d, dest) else plane.map fun p => (p, dest)
    | none => plane.map fun p => (p, dest)

/-- The port of the overlay hop toward a rack: the tree's link, or with that link dark a plane there (R44, R45). -/
def State.overlayPort (s : State) (r : Nat) : Option Nat :=
  match s.treeHop r with
  | some d => if s.portUp (16 + d) then some (16 + d) else s.planeToward d
  | none => none

/-! ### Messages (R44, R137, R139) -/

/-- A KEEPER_MSG of a type with the fields every message carries (R137). -/
def State.kmsg (s : State) (mtype : Nat) : KMsg :=
  { mtype := BitVec.ofNat 8 mtype, subject := false, full := false, litEpoch := s.getReg Reg.SLV_LIT_EPOCH, epoch := 0, flash := 0,
    part := 0, parts := 0, count := 0, set := 0, digest := 0, words := [] }

/-- An address lies in this rack. -/
def State.isHere (s : State) (a : Addr) : Bool := addrX a == s.rx && addrY a == s.ry

/-- A message takes its next hop; with no path it is not sent, and what sends again each flash tries again (R45). -/
def State.hopMsg (s : State) (dest src : Addr) (m : KMsg) : State :=
  match s.keeperRoute dest with
  | some (port, d) => s.enqueue port (kmsgPacket m d src)
  | none => s

/-- A message to one Keeper, sent only while this unit holds LIT (R364); one for this rack comes back as this unit's own (log entry 2). -/
def State.tell (s : State) (dest : Addr) (m : KMsg) : State :=
  if !s.lit then s
  else if s.isHere dest then s.send (.own (kmsgPacket m dest s.self))
  else s.hopMsg dest s.self m

/-- A message to the head Keeper. -/
def State.tellHead (s : State) (m : KMsg) : State := s.tell s.headAddr m

/-- A message to every Keeper of the cluster, this one included (R138). -/
def State.tellAll (s : State) (m : KMsg) : State := (List.range s.rackCount).foldl (fun s r => s.tell (s.keeperOf r) m) s

/-- A flooded message goes once on each lit Keeper port 16 to 19, to the Keeper there (R139). -/
def State.forward (s : State) (src : Addr) (m : KMsg) : State :=
  if !s.lit then s
  else (List.range 4).foldl (fun s d =>
    let r := nbrRack s.axes.1 s.axes.2 s.myRack d
    if s.portLit (16 + d) then s.enqueue (16 + d) (kmsgPacket m (mkAddr 2 (r % s.axes.1) (r / s.axes.1) s.role) src) else s) s

/-- A flooded message is noted with the flash of its arrival; copies older than 16 flashes are forgotten (R139, log entry 25). -/
def State.noteFlood (s : State) (m : KMsg) : State :=
  { s with link := { s.link with seen := (s.tim.flash, m) :: s.link.seen.filter fun x => s.tim.flash ≤ x.1 + 16 } }

/-- A flooded message starts here: on every lit Keeper port, and to this unit itself (R139). -/
def State.flood (s : State) (m : KMsg) : State :=
  if s.lit then ((s.noteFlood m).forward s.self m).send (.own (kmsgPacket m s.self s.self)) else s

/-- A flooded message is forwarded once and later copies are discarded (R139): whether this is its first arrival, and the state
with it noted. A message with the same content is a copy when it arrives within 16 flashes (DESIGN CHOICE, log entry 25). -/
def State.firstFlood (s : State) (src : Addr) (m : KMsg) : Bool × State :=
  if s.link.seen.any fun x => s.tim.flash ≤ x.1 + 16 && x.2 == m then (false, s) else (true, (s.noteFlood m).forward src m)

/-- Words in parts of at most n. -/
def chunks (n : Nat) : Nat → List Word → List (List Word)
  | 0, _ => []
  | k + 1, ws => ws.take n :: (if ws.length ≤ n then [] else chunks n k (ws.drop n))

/-- The parts of a message with records: 992 words each, PART and PARTS set (R137). -/
def partsOf (m : KMsg) (ws : List Word) : List KMsg :=
  let cs := chunks 992 (ws.length / 992 + 1) ws
  cs.zipIdx.map fun x => { m with part := BitVec.ofNat 16 x.2, parts := BitVec.ofNat 16 cs.length, words := x.1, count := w32 ws.length }

end Sys2Proof.Machine
end

