-- ==== Sys2Proof/Machine/MgmtOps.lean ====
section
/-! DEFINITION. Machine/MgmtOps.lean: management requests as packets, their prefix, agents' events (R17, R40, R48, R395, R407, R441, R445, R446). -/
namespace Sys2Proof.Machine

/-- A tag not held by an operation in flight nor by one reset within 4 flashes; tags are taken in turn (R395, R408). -/
def MgmtState.freeTag (m : MgmtState) : Nat :=
  match (List.range 4096).find? fun i => !(m.ops.any fun o => o.tag == (m.nextTag + i) % 4096) &&
      !(m.cool.any fun c => c.1 == (m.nextTag + i) % 4096) with
  | some i => (m.nextTag + i) % 4096
  | none => m.nextTag

/-- The switch port, and with it the plane, that a packet for an agent leaves on: a switch is reached in its own plane only (R40, R50); an endpoint of
this rack by the lowest plane whose two links are LIT, HELD or PARKED, another rack's by the lowest plane toward it (log entry 96). -/
def State.agentPort (s : State) (a : Addr) : Nat :=
  let here := addrX a == s.rx && addrY a == s.ry
  let able := fun (p : Nat) => s.portUp p && (s.link.nbrs.any fun r => r.agent == s.switchAddr p && r.port == addrIndex a && 4 ≤ r.state && r.state ≤ 6)
  let lit := (List.range 16).find? s.portUp
  if addrKind a = 1 then addrIndex a
  else if addrKind a = 0 ∧ here then (((List.range 16).find? able).orElse fun _ => lit).getD 0
  else if here then lit.getD 0
  else (((s.coordDir (s.rackOf a)).bind s.planeToward).orElse fun _ => lit).getD 0

/-- A management request as a packet: SRC index 0x02, SLICE 0x00, VC0, its tag and MGEN, the prefix and the data words (R48, R408, R441). -/
def MgmtOp.packet (op : MgmtOp) (src : Addr) : Packet :=
  mkPacket op.agent src 0 0 (BitVec.ofNat 6 op.gen) 0 (if op.write then 0x03 else 0x02) op.tag
    ([w32 op.addr, fieldAt 0 10 (if op.write then op.words.length else op.count) ||| fieldAt 12 4 op.cls, 0, 0] ++ op.words)

/-- A request goes out: a rack broadcast to switches on every lit switch port, since each plane reaches its own switch, anything else on one port
(R40, R47, R50). -/
def State.sendMgmt (s : State) (op : MgmtOp) : State :=
  let p := op.packet s.selfLit
  if addrKind op.agent = 3 ∧ addrIndex op.agent ≠ 0 then ((List.range 16).filter s.portUp).foldl (fun s n => s.enqueue n p) s
  else s.enqueue (s.agentPort op.agent) p

/-- Wake times of the depths, in ns (R115). -/
def wakeNs (d : Nat) : Nat := [0, 200, 20000, 4000000].getD d 0

/-- The current depth of an agent's link as its port record shows it: PARKED stands at the depth last allowed, EXTRA at 3 (R116, R118). -/
def Nbr.depth (r : Nbr) : Nat := if r.state = 6 then r.parkMax else if r.state = 8 then 3 else 0

/-- The wake time of the deepest depth on the path to an agent, in ns (R118, R395). -/
def State.pathWake (s : State) (a : Addr) : Nat :=
  let n := s.agentPort a
  let links := s.link.nbrs.filter fun r => addrKind a == 0 && (r.agent == s.switchAddr n && r.port == addrIndex a || r.agent == a && r.port == n)
  links.foldl (fun w r => max w (wakeNs r.depth)) (wakeNs (s.port n).depth)

/-- How long a request waits for its reply before it is sent again: MGMT_RETRY_US, after the first send the wake time of the path more (R118,
R395). -/
def State.resendTime (s : State) (a : Addr) (first : Bool) : Nat :=
  256000 * s.getF Fld.RST_MGMT_MGMT_RETRY_US + (if first then 256 * s.pathWake a else 0)

/-- A management request is sent and stays in flight until its reply (R395), under the current MGEN (R407); a Keeper that does
not hold LIT sends none (R364). -/
def State.request (s : State) (agent : Addr) (write : Bool) (addr : Nat) (words : List Word) (count cls slice engine : Nat)
    (purpose : MgmtFor) : State :=
  if s.lit then
    let tag := s.mgmt.freeTag
    let op : MgmtOp := { tag := tag, agent := agent, write := write, addr := addr, words := words, count := count, cls := cls,
                         slice := slice, engine := engine, gen := s.getF Fld.RST_STATE_MGEN, sends := 1, sent := s.stamp, wait := s.resendTime agent true, purpose := purpose }
    { s with mgmt := { s.mgmt with ops := s.mgmt.ops ++ [op], nextTag := (tag + 1) % 4096 } }.sendMgmt op
  else s

/-- A management write (R441). -/
def State.mgmtWrite (s : State) (agent : Addr) (addr : Nat) (words : List Word) (cls slice engine : Nat) (purpose : MgmtFor) : State :=
  s.request agent true addr words 0 cls slice engine purpose

/-- A management read (R441). -/
def State.mgmtRead (s : State) (agent : Addr) (addr count engine : Nat) (purpose : MgmtFor) : State :=
  s.request agent false addr [] count 0 0 engine purpose

/-- The same write to several agents. -/
def State.mgmtAll (s : State) (agents : List Addr) (addr : Nat) (words : List Word) (cls slice engine : Nat) (purpose : MgmtFor) :
    State :=
  agents.foldl (fun s a => s.mgmtWrite a addr words cls slice engine purpose) s

/-- A rack-broadcast write: to all endpoints (0), all switches (1) or all agents (2) of the rack; no reply is owed (R47, R444). -/
def State.broadcastTo (s : State) (index addr : Nat) (words : List Word) (cls : Nat) : State :=
  if s.lit then
    let op : MgmtOp := { tag := 0, agent := mkAddr 3 s.rx s.ry index, write := true, addr := addr, words := words, count := 0, cls := cls,
                         slice := 0, engine := 0, gen := s.getF Fld.RST_STATE_MGEN, sends := 1, sent := s.stamp, wait := 0, purpose := .upkeep }
    s.sendMgmt op
  else s

/-- A rack-broadcast write to every agent of the rack. -/
def State.broadcast (s : State) (addr : Nat) (words : List Word) (cls : Nat) : State := s.broadcastTo 2 addr words cls

/-! ### Packets from agents (R17, R441, R445, R446) -/

/-- A management prefix keeps its reserved fields and STATUS encodings: of a reply, KIND 0 or 1, STATUS up to 0x07, the words it carries (R17, R441). -/
def replyClean (ws : List Word) : Bool :=
  let w1 := wordAt ws 1
  bitAt (wordAt ws 0) 0 == false && bitAt (wordAt ws 0) 1 == false && bitsOf w1 10 2 == 0 && bitsOf w1 16 2 ≤ 1 && bitsOf w1 18 6 == 0
    && bitsOf w1 24 8 ≤ 7 && wordAt ws 2 == 0 && wordAt ws 3 == 0 && bitsOf w1 0 10 + 4 ≤ ws.length

/-- The event an MGMT_EVENT payload holds (R445). -/
def eventOf (src : Addr) (ws : List Word) : AgentEvent :=
  let w := wordAt ws
  { agent := src, cls := bitsOf (w 0) 0 8, seq := bitsOf (w 0) 8 12, part := bitsOf (w 0) 20 4, parts := bitsOf (w 0) 24 4 + 1,
    flash := BitVec.ofNat 48 ((w 1).toNat + 2 ^ 32 * bitsOf (w 2) 0 16), offset := BitVec.ofNat 25 (bitsOf (w 3) 0 25),
    subject := (w 4).toNat + 2 ^ 32 * bitsOf (w 5) 0 16, arg := w 6, body := ws.drop 8 }

/-- An event keeps every reserved field 0, its CLASS is defined, and the named bits of its body words only are set (R17, R445). -/
def eventClean (ws : List Word) : Bool :=
  let w := wordAt ws
  let c := bitsOf (w 0) 0 8
  let inBits := fun (n : Nat) (x : Word) => decide (x.toNat < 2 ^ n)
  let body := if c = 2 then (ws.drop 8).all (inBits 16) else if c = 5 then inBits 20 (w 8) else if c = 6 then bitsOf (w 9) 0 4 == 1 || bitsOf (w 9) 0 4 == 2
    else if c = 8 then bitsOf (w 8) 14 2 == 0 else true
  1 ≤ c && c ≤ 8 && bitsOf (w 0) 28 4 == 0 && bitsOf (w 2) 16 16 == 0 && bitsOf (w 3) 25 7 == 0 && bitsOf (w 5) 16 16 == 0 && w 7 == 0
    && (c == 1 || bitsOf (w 0) 20 8 == 0) && body

/-- The event acknowledged: a MGMT_REPLY of KIND ACK, OPTAG its SEQ, WORDS 0 (R446); only the Keeper that holds LIT sends it (R364). -/
def State.ackEvent (s : State) (ev : AgentEvent) : State :=
  if s.lit then
    s.enqueue (s.agentPort ev.agent) (mkPacket ev.agent s.selfLit 0 0 (BitVec.ofNat 6 (s.getF Fld.RST_STATE_MGEN)) 0 0x04 ev.seq [0, fieldAt 16 2 1, 0, 0])
  else s

/-- An acknowledged event of an agent: acknowledged, again when it is a duplicate of one of the last 64; the first part says that it is
new (R446). -/
def State.takeEvent (s : State) (ev : AgentEvent) : Bool × State :=
  let s := s.ackEvent ev
  let mine := (s.mgmt.acked.filter fun x => x.1 == ev.agent).take 64
  if mine.any fun x => x.2 == ev.seq then (false, s)
  else (true, { s with mgmt := { s.mgmt with
    acked := (ev.agent, ev.seq) :: (mine.take 63 ++ s.mgmt.acked.filter fun x => x.1 != ev.agent) } })

/-- The flash stage an event of an agent is an input of, by its CLASS (R18, R445). -/
def eventStage (cls : Nat) : StageId :=
  if cls = 1 then .tel else if cls = 2 then .dsc else if cls = 3 then .rst else if cls = 4 then .slv else if cls = 7 then .wdn else .clp

/-- An event as it arrives on a port: stamped as an input of its stage (R21); refused under R17, else taken once (R17, R62, R445, R446). -/
def State.takeAgentEvent (s : State) (cls port : Nat) (p : Packet) (act : State → AgentEvent → State) : State :=
  let s := s.received port p.hdr
  match s.refused port p.hdr with
  | some s => s
  | none =>
    if ¬ eventClean p.payload ∨ bitsOf (wordAt p.payload 0) 0 8 ≠ cls then s.refusePacket port p.hdr 2
    else
      let ev := eventOf p.hdr.src p.payload
      let r := (s.returnCredits port p.hdr).takeEvent ev
      if r.1 then act (r.2.stageInput (eventStage cls) .acted) ev else r.2

end Sys2Proof.Machine
end

