-- ==== Sys2Proof/Machine/FlowOps.lean ====
section
/-! DEFINITION. Machine/FlowOps.lean: the Keeper's own packets: ports and egress queues, flows and their windows at both ends (R56, R59, R64,
R65, R251, R264). -/
namespace Sys2Proof.Machine

/-! ### Source flows (R64) -/

/-- The flows with one changed where a test holds. -/
def State.onFlow (s : State) (p : Flow → Bool) (f : Flow → Flow) : State :=
  { s with link := { s.link with flows := s.link.flows.map fun x => if p x then f x else x } }

/-- A source flow of this Keeper. -/
def Flow.isOurs (f : Flow) (src dest : Addr) (svc : Nat) : Bool := f.isSource && f.src == src && f.dest == dest && f.svc == svc

/-- Waiting packets of source flows leave while fewer than 64 of the flow's packets are unacknowledged (R64). -/
def State.pumpFlow : Nat → Addr → Addr → Nat → State → State
  | 0, _, _, _, s => s
  | n + 1, src, dest, svc, s =>
    match s.link.flows.find? fun f => f.isOurs src dest svc with
    | none => s
    | some f =>
      match f.wait with
      | [] => s
      | w :: rest =>
        if f.sent.length ≥ 64 then s
        else
          let p : Packet := { w.pkt with hdr := { w.pkt.hdr with wseq := BitVec.ofNat 12 f.next } }
          let s := s.onFlow (fun x => x.isOurs src dest svc) fun x =>
            { x with next := (x.next + 1) % 4096, wait := rest, sent := x.sent ++ [{ w with wseq := x.next, pkt := p, sends := 1, stamp := s.now }] }
          State.pumpFlow n src dest svc (s.enqueue f.port p)

/-- A collective packet enters its flow: the flow is opened when it is the first, and the packet leaves when the window has room (R64,
R194). -/
def State.sendFlow (s : State) (port : Nat) (dest : Addr) (svc : Nat) (slice : Byte) (gen : BitVec 6) (opkind optag : Nat) (ws : List Word)
    (ctx launch piece : Nat) : State :=
  let src := s.selfLit
  let w : SentPkt := { wseq := 0, pkt := mkPacket dest src svc slice gen 0 opkind optag ws, sends := 0, ctx := ctx, launch := launch, piece := piece, stamp := 0 }
  let s := if s.link.flows.any fun f => f.isOurs src dest svc then
      s.onFlow (fun f => f.isOurs src dest svc) fun f => { f with wait := f.wait ++ [w], port := port }
    else { s with link := { s.link with
      flows := s.link.flows.concat { src := src, dest := dest, svc := svc, slice := slice, gen := gen, isSource := true, next := 0, map := 0, sent := [],
                                     wait := [w], ackFlash := 0, port := port } } }
  State.pumpFlow 64 src dest svc s

/-- Packets of a context, launch and piece that are sent and not acknowledged, or wait for the window. -/
def State.outstanding (s : State) (ctx launch piece : Nat) : Bool :=
  s.link.flows.any fun f => f.isSource && (f.sent ++ f.wait).any fun x => x.ctx == ctx && x.launch == launch && x.piece == piece

/-- Unacknowledged packets that satisfy a test are dropped from every source flow (R272, R283). -/
def State.dropSent (s : State) (p : SentPkt → Bool) : State :=
  s.onFlow (fun f => f.isSource) fun f => { f with sent := f.sent.filter fun x => !p x, wait := f.wait.filter fun x => !p x }

/-- The distance from a base to a WSEQ, modulo 4,096. -/
def wseqAhead (base n : Nat) : Nat := (n + 4096 - base) % 4096

/-- Whether an acknowledgement's next expected WSEQ and map cover a sent WSEQ (R64). -/
def ackCovers (next map n : Nat) : Bool :=
  let d := wseqAhead next n
  2048 ≤ d || (1 ≤ d && d ≤ 64 && map.testBit (d - 1))

/-- The flows with an agent that has been reset end: numbering starts from 0 with the next packet (R64). What was not acknowledged is recovered by the
collective it belongs to (R264, R277). -/
def State.closeFlows (s : State) (a : Addr) : State :=
  { s with link := { s.link with flows := s.link.flows.filter fun f => f.src != a && f.dest != a } }

/-! ### Destination flows (R65) -/

/-- A WINDOW_ACK for a destination flow: SRC and DEST exchanged, the flow's SVC, SLICE and GEN; payload word 0 the next expected WSEQ,
words 1 and 2 the map (R64, log entry 27). -/
def State.sendAck (s : State) (f : Flow) : State :=
  s.enqueue f.port (mkPacket f.src f.dest f.svc f.slice f.gen 0 0x13 0 [w32 f.next, loHalf f.map, hiHalf f.map])

/-- A destination flow. -/
def Flow.isFrom (f : Flow) (src dest : Addr) (svc : Nat) : Bool := !f.isSource && f.src == src && f.dest == dest && f.svc == svc

/-- The base and map after taking a WSEQ at a distance ahead. -/
def advanceMap : Nat → Nat → Nat → Nat × Nat
  | 0, next, map => (next, map)
  | n + 1, next, map => if map % 2 = 1 then advanceMap n ((next + 1) % 4096) (map / 2) else (next, map / 2)

/-- The flow of a packet, opened when it is the first (R65). -/
def State.openDest (s : State) (port : Nat) (h : Hdr) : State :=
  if s.link.flows.any fun f => f.isFrom h.src h.dest h.svc.toNat then s
  else { s with link := { s.link with
    flows := s.link.flows.concat { src := h.src, dest := h.dest, svc := h.svc.toNat, slice := h.slice, gen := h.gen, isSource := false, next := 0, map := 0,
                                   sent := [], wait := [], ackFlash := 0, port := port } } }

/-- A packet lies in its window and is no duplicate (R65). -/
def State.inWindow (s : State) (h : Hdr) : Bool :=
  match s.link.flows.find? fun f => f.isFrom h.src h.dest h.svc.toNat with
  | none => h.wseq.toNat < 64
  | some f => let d := wseqAhead f.next h.wseq.toNat
              d == 0 || (d < 64 && !f.map.testBit (d - 1))

/-- A packet is taken into its window and acknowledged (R64, R65, R265). -/
def State.takeWseq (s : State) (port : Nat) (h : Hdr) : State :=
  let s := (s.openDest port h).onFlow (fun f => f.isFrom h.src h.dest h.svc.toNat) fun f =>
    let d := wseqAhead f.next h.wseq.toNat
    let f := { f with slice := h.slice, gen := h.gen, port := port }
    if d = 0 then
      let r := advanceMap 64 ((f.next + 1) % 4096) f.map
      { f with next := r.1, map := r.2 }
    else { f with map := f.map ||| 1 <<< (d - 1) }
  match s.link.flows.find? fun f => f.isFrom h.src h.dest h.svc.toNat with
  | some f => s.sendAck f
  | none => s

/-- A packet outside its window or received before is counted, and the latest acknowledgement goes out again, at most once per flash
(R65). -/
def State.reAck (s : State) (h : Hdr) : State :=
  let s := { s with link := { s.link with noFlow := s.link.noFlow + 1 } }
  match s.link.flows.find? fun f => f.isFrom h.src h.dest h.svc.toNat with
  | some f =>
    if f.ackFlash = s.tim.flash + 1 then s
    else (s.onFlow (fun x => x.isFrom h.src h.dest h.svc.toNat) fun x => { x with ackFlash := s.tim.flash + 1 }).sendAck f
  | none => s

end Sys2Proof.Machine
end

