-- ==== Sys2Proof/Machine/HbmOps.lean ====
section
/-! DEFINITION. Machine/HbmOps.lean: the encrypted pages of the HBM, those of the spill area and of the state image (R222, R341 to R343; log entry
118). -/
namespace Sys2Proof.Machine

/-- A number as n bytes, most significant first (R331). -/
def beBytes (n v : Nat) : List Byte := (List.range n).map fun i => BitVec.ofNat 8 (v / 2 ^ (8 * (n - 1 - i)))

/-- The ASCII bytes of a string, without a terminator (R332). -/
def ascii (t : String) : List Byte := t.toList.map fun c => BitVec.ofNat 8 c.toNat

/-- derive(root, label, info) of R341. -/
def derive (root : List Byte) (label : String) (info : List Byte) : List Byte := Config.shake 32 (root ++ ascii label ++ info)

/-- The key state of a slice; slice 0x00, and a slice this Keeper has made no key for, take creation epoch 0 and KEYGEN 0 (R341, log entry 118). -/
def State.sliceKey (s : State) (slice : Nat) : SliceKey :=
  (s.wdn.keys.find? fun k => k.slice == slice).getD { slice := slice, epoch := 0, gen := 0, old := none, pending := false }

/-- The page key of a slice under a generation (R341). -/
def pageKey (k : SliceKey) (gen : Nat) : List Byte :=
  derive ((List.range 32).map Config.memRoot) "MEM" (BitVec.ofNat 8 k.slice :: beBytes 4 k.epoch ++ beBytes 2 gen)

/-- The tag of a generation: KEYGEN mod 2 (R342). -/
def genTag (gen : Nat) : Bool := gen % 2 == 1

/-- The live generation that a page's tag selects (R343). -/
def SliceKey.select (k : SliceKey) (tag : Bool) : Nat := if genTag k.gen == tag then k.gen else k.old.getD k.gen

/-- A page's plaintext from its words, zeros behind them. -/
def pageBits (ws : List Word) : BitVec 32768 := BitVec.ofNat 32768 ((ws.take 1024).zipIdx.map fun x => x.1.toNat * 2 ^ (32 * x.2)).sum

/-- The words of a page's plaintext. -/
def pageWords (b : BitVec 32768) : List Word := (List.range 1024).map fun i => b.extractLsb' (32 * i) 32

/-- The detection codes of a page's 64 lines (R222). -/
def pageCodes (b : BitVec 32768) : List Nat := (List.range 64).map fun i => Config.lineCode (b.extractLsb' (512 * i) 512)

/-- A page as a write leaves it: under the slice's newest key and its tag, with the codes of its plaintext (R342, R343). -/
def sealPage (k : SliceKey) (number : Nat) (b : BitVec 32768) : HbmPage :=
  { number := number, slice := k.slice, tag := genTag k.gen, cipher := Config.xtsPage (pageKey k k.gen) number b, codes := pageCodes b }

/-- A page's plaintext, under the key that its tag selects (R342, R343). -/
def openPage (k : SliceKey) (g : HbmPage) : BitVec 32768 := (Config.xtsPage (pageKey k (k.select g.tag)) g.number).symm g.cipher

/-- A page put into the page table, by ascending number. -/
def insertPage (g : HbmPage) : List HbmPage → List HbmPage
  | [] => [g]
  | x :: xs => if x.number < g.number then x :: insertPage g xs else if x.number = g.number then g :: xs else g :: x :: xs

/-- Words written to a page of a slice. -/
def State.hbmWrite (s : State) (slice number : Nat) (ws : List Word) : State :=
  { s with hbm := insertPage (sealPage (s.sliceKey slice) number (pageBits ws)) s.hbm }

/-- The words of a page, checked after decryption; none when a line's code fails, or no such page stands (R222, R342). -/
def State.hbmRead (s : State) (number : Nat) : Option (List Word) :=
  (s.hbm.find? fun g => g.number == number).bind fun g =>
    let b := openPage (s.sliceKey g.slice) g
    if pageCodes b = g.codes then some (pageWords b) else none

/-- The lowest page number that is not in use. -/
def State.freePage (s : State) : Nat := ((List.range (s.hbm.length + 1)).find? fun n => !(s.hbm.any fun g => g.number == n)).getD 0

/-- Runs of at most 1,024 words, a page each. Fuel: the words. -/
def pageRuns : Nat → List Word → List (List Word)
  | 0, _ => []
  | n + 1, ws => if ws.isEmpty then [] else ws.take 1024 :: pageRuns n (ws.drop 1024)

/-- Data written to fresh pages of a slice (R220, R343). -/
def State.spillData (s : State) (slice : Nat) (ws : List Word) : State × Datum :=
  let r := (pageRuns ws.length ws).foldl (fun (acc : State × List Nat) w =>
    let n := acc.1.freePage
    (acc.1.hbmWrite slice n w, acc.2 ++ [n])) (s, [])
  (r.1, .pages r.2 ws.length)

/-- The data of a place; none when a line's code fails (R222). -/
def State.readData (s : State) (d : Datum) : Option (List Word) :=
  match d with
  | .words ws => some ws
  | .pages ns len => ((ns.mapM s.hbmRead).map fun ps => (ps.flatMap id).take len)

/-- The data of a place, as they stand. -/
def State.dataOf (s : State) (d : Datum) : List Word := (s.readData d).getD []

/-- The pages of some data. -/
def Datum.numbers : Datum → List Nat
  | .words _ => []
  | .pages ns _ => ns

/-- Pages that piece places of the spill area and the state image hold. -/
def State.heldPages (s : State) : List Nat :=
  (s.clp.plans.flatMap fun p => p.places.flatMap fun (x : Place) => (x.ins.flatMap fun (i : PlaceIn) => i.data.numbers) ++ x.sums.flatMap fun y => y.2.numbers)
    ++ s.mor.image.map fun i => i.page

/-- Pages that nothing holds any more are free. -/
def State.tidyPages (s : State) : State :=
  let held := s.heldPages
  { s with hbm := s.hbm.filter fun g => held.contains g.number }

/-- Pages in use that are still under the old generation of a slice (R343). -/
def State.oldPages (s : State) (slice : Nat) : List HbmPage :=
  let k := s.sliceKey slice
  if k.old.isSome then
    let held := s.heldPages
    s.hbm.filter fun g => g.slice == slice && g.tag != genTag k.gen && held.contains g.number
  else []

/-- A page re-encrypted under the new key, with the new tag (R343). -/
def State.scrubPage (s : State) (g : HbmPage) : State :=
  let k := s.sliceKey g.slice
  { s with hbm := insertPage { sealPage k g.number (openPage k g) with codes := g.codes } s.hbm }

/-- Every page of a slice is freed (R343). -/
def State.dropPages (s : State) (slice : Nat) : State := { s with hbm := s.hbm.filter fun g => g.slice != slice }

end Sys2Proof.Machine
end

