-- ==== Sys2Proof/Machine/HostOps.lean ====
section
/-! DEFINITION. Machine/HostOps.lean: the command windows' commit, host DMA, and the host's writes and reads of MSI-X
(R8, R9, R464 to R475). -/
namespace Sys2Proof.Machine

/-! ### What reaches the unit (R465, R496, R512) -/

/-- The level of the reset in progress (R390, R512). -/
def State.resetLevel (s : State) : Nat := s.getF Fld.RST_STATE_LEVEL

/-- A host request reaches the unit: memory space is on, the link is trained and not held in reset, and no level-5 or level-6 reset or power-down has
taken it (R403, R465, R496, R512). -/
def State.hostReaches (s : State) : Bool := !s.hif.d3hot && !s.hif.perst && s.hif.linkUp && decide (s.resetLevel < 5) && s.pwr.stage == .on

/-! ### The window commit (R467, R468) -/

/-- A host write of one command-block word: taken unless the window is BUSY, when CMD_LOCKED is recorded (R468). -/
def State.writeCmdWord (s : State) (w i : Nat) (v : Word) : State :=
  if (s.window w).st = .busy then s.recordErr Fld.HIF_ERR_STATUS_CMD_LOCKED 1 (0x1000 * w + 0x40 + 4 * i)
  else s.onWindow w fun x => { x with block := modifyAt (fun _ => v) i x.block }

/-- Whether a write of a SEQ commits the window: STATE IDLE or DONE, and the SEQ differs from LAST_SEQ (R468). -/
def State.commits (s : State) (w : Nat) (seq : BitVec 16) : Bool :=
  (s.window w).st != .busy && (s.window w).lastSeq != seq

/-- The commit, in one core cycle: the block is copied, LAST_SEQ set, the status block and results cleared, STATE BUSY, the
command stamped (R21, R468). -/
def State.commit (s : State) (w : Nat) (seq : BitVec 16) : State :=
  let s := s.onWindow w fun x =>
    { x with seqReg := seq, copy := x.block, st := .busy, unmirrored := false, opcode := (wordAt x.block 0).extractLsb' 0 8,
             error := 0, reason := 0, lastSeq := seq, stamp := s.tim.flash, doneFlash := 0, results := List.replicate 16 0 }
  (s.countReg Reg.HIF_COMMANDS 1).progress 0x01

/-- A host write of WIN_SEQ that does not commit: ignored and recorded while BUSY; no effect for an equal SEQ (R468). -/
def State.writeSeqIdle (s : State) (w : Nat) : State :=
  if (s.window w).st = .busy then s.recordErr Fld.HIF_ERR_STATUS_WINDOW_BUSY 1 (0x1000 * w) else s

/-- A host command as the host issues it: the words of the block from word 0 on, then WIN_SEQ; when that commits, the
command runs on the committed copy (R468, R469). -/
def State.issue (s : State) (c : HostCmd) (opcode : Nat) (run : Nat → State → State) : State :=
  if ¬ s.hostReaches then s
  else
  let w := c.win.toNat
  let w0 := fieldAt 0 8 opcode ||| fieldAt 8 1 (b2n c.irq)
  let s := ((w0 :: c.args.take 31).zipIdx).foldl (fun s x => s.writeCmdWord w x.2 x.1) s
  if s.commits w c.seq then run w (s.commit w c.seq) else s.writeSeqIdle w

/-! ### DMA (R475) -/

/-- A DMA read for a window is started, or refused with DMA 5 while DMA_EN is 0; `undo` puts back what the command had
begun. -/
def State.startDma (s : State) (w : Nat) (purpose : DmaFor) (addr : Nat) (len : Nat) (undo : State → State) : State :=
  if s.flag Fld.HIF_CTRL_DMA_EN then
    let d : Dma := { win := w, purpose := purpose, addr := BitVec.ofNat 64 addr, len := len, got := [] }
    { s with hif := { s.hif with dma := s.hif.dma ++ [d] } }.send (.dmaRead (BitVec.ofNat 64 addr) len)
  else (undo (s.dmaErr w 5)).refuse w 4 5

/-- Words written to host memory for a window; with DMA_EN 0 nothing is written and the answer says so. -/
def State.dmaWrite (s : State) (addr : Nat) (words : List Word) : State := s.send (.dmaWrite (BitVec.ofNat 64 addr) words)

/-- The DMA transfer at a place in the list, and the list without it. -/
def State.takeDma (s : State) (k : Nat) : Option Dma × State :=
  (s.hif.dma[k]?, { s with hif := { s.hif with dma := s.hif.dma.eraseIdx k } })

/-! ### MSI-X table (R464, R473) -/

/-- A host write of one word of the MSI-X table; unmasking a vector whose pending bit is set sends its message (R473). -/
def State.writeMsix (s : State) (off : Nat) (v : Word) : State :=
  let n := (off - 0x8000) / 16
  let k := (off - 0x8000) % 16 / 4
  let was := (s.vec n).ctrl.getLsbD 0
  let s := s.onVec n fun e =>
    if k = 0 then { e with addr := (e.addr.extractLsb' 32 32) ++ v }
    else if k = 1 then { e with addr := v ++ (e.addr.extractLsb' 0 32) }
    else if k = 2 then { e with data := v } else { e with ctrl := v &&& 1 }
  if k = 3 ∧ was ∧ ¬ v.getLsbD 0 ∧ (s.vec n).pending then (s.onVec n fun e => { e with pending := false }).signal n else s

/-- A word of the MSI-X table or of the pending-bit array. -/
def State.readMsix (s : State) (off : Nat) : Word :=
  if off < 0x9000 then
    let e := s.vec ((off - 0x8000) / 16)
    let k := (off - 0x8000) % 16 / 4
    if k = 0 then e.addr.extractLsb' 0 32 else if k = 1 then e.addr.extractLsb' 32 32 else if k = 2 then e.data else e.ctrl
  else w32 (maskOf ((List.range 32).filter fun i => (s.vec (i + 8 * (off - 0x9000))).pending))

/-! ### Generic register writes (R10, R14, R511) -/

/-- A register write by access code: RW fields take the value unless it is a reserved encoding, W1C bits written 1 clear, W1S
bits written 1 set; RO and RSV bits ignore it (R10, R11, R14). A W1C bit that the Keeper sets in the same core cycle stays set (R12). The second
part says whether a field held. -/
def regWriteValue (row : RegRow) (old v justSet : Word) : Word × Bool :=
  let bad := row.lims.filter fun l => bitsOf v l.lo l.width < l.min || bitsOf v l.lo l.width > l.max
  let badMask := w32 (maskOf (bad.flatMap fun l => (List.range l.width).map (· + l.lo)))
  let rw := row.rw &&& ~~~ badMask
  (((old &&& ~~~ rw) ||| (v &&& rw)) &&& ~~~ (v &&& row.w1c &&& ~~~ justSet) ||| (v &&& row.w1s), !bad.isEmpty)

/-- Registers that a level-4 reset leaves serving: HIF, RST and the always-on ones (R512). -/
def servedInLevel4 (off : Nat) : Bool :=
  off < 0x10000 || (0xF0000 ≤ off && off < 0x100000) || off == Reg.PWR_STATE || off == Reg.PWR_RAILS || off == Reg.PWR_STRAPS

/-- Reserved encodings that no range gives: a TJ_THROTTLE below the TJ_WARN that results (R509), an engine ID of RST_ENGINE_SEL or RST_TEST that
R391 reserves (R418). The field stays as it was. -/
def throttleHeld (off : Nat) (old new : Word) : Word × Bool :=
  if (off = Reg.RST_ENGINE_SEL ∨ off = Reg.RST_TEST) ∧ ¬ engineIds.contains (bitsOf new 0 8)
  then (putBits new 0 8 (bitsOf old 0 8), true)
  else if off = Reg.PWR_TLIMIT ∧ bitsOf new 8 8 < bitsOf new 0 8
  then (putBits new 8 8 (bitsOf old 8 8), true) else (new, false)

/-- A 32-bit aligned host write to BAR0 by the register's access codes: reserved addresses are ignored and recorded (R511), as
are all but the served registers in a level-4 reset (R512); reserved encodings are recorded (R14); a status or enable register
left asserted signals its vector (R473). A request bit set again while it is set is noted for its completion in this core cycle (R13). -/
def State.writeReg (s : State) (off : Nat) (v : Word) (same : Bool) : State :=
  if 0x8000 ≤ off ∧ off < 0x8400 then s.writeMsix off v
  else if off = 0x9000 ∨ off = 0x9004 then s
  else match regRow off with
  | none => s.recordErr Fld.HIF_ERR_STATUS_IGNORED 0 off
  | some row =>
    if s.resetLevel = 4 ∧ ¬ servedInLevel4 off then s.recordErr Fld.HIF_ERR_STATUS_IGNORED 0 off
    else
      let old := s.getReg off
      let r := regWriteValue row old v (if same then w32 (maskOf ((s.hif.sets.filter fun x => x.1 == off).map (·.2))) else 0)
      let t := throttleHeld off old r.1
      let s := s.setReg off t.1
      let twice := (bitIndices (v &&& row.w1s &&& old).toNat 32).map fun i => (off, i)
      let s : State := { s with hif := { s.hif with again := twice ++ s.hif.again } }
      let s := if r.2 || t.2 then s.recordErr Fld.HIF_ERR_STATUS_ENCODING 0 off else s
      let vec := if vectorOf off < 64 then vectorOf off else vectorOf (off - 4)
      if vec < 64 ∧ s.asserted vec then s.signal vec else s

/-- A write discards the latches its pair holds (R8). -/
def State.dropLatch (s : State) (off : Nat) : State :=
  { s with hif := { s.hif with latches := s.hif.latches.filter fun x => x.1 != off && x.1 + 4 != off } }

/-- The bytes addressed within a register. -/
def subWord (v : Word) (off bytes : Nat) : Nat := bitsOf v (8 * (off % 4)) (8 * bytes)

/-- Whether a BAR0 read is aligned, or lies narrow within one register (R9). -/
def readAligned (off bytes : Nat) : Bool :=
  (bytes == 4 && off % 4 == 0) || (bytes == 8 && off % 8 == 0) || ((bytes == 1 || bytes == 2 || bytes == 3) && off % 4 + bytes ≤ 4)

/-- Whether a BAR0 write is a 32-bit or 64-bit aligned access (R9). -/
def writeAligned (off bytes : Nat) : Bool := (bytes == 4 && off % 4 == 0) || (bytes == 8 && off % 8 == 0)

end Sys2Proof.Machine
end

