-- ==== Sys2Proof/Machine/SliceOps.lean ====
section
/-! DEFINITION. Machine/SliceOps.lean: slice descriptors, admission at the head, seats, and the state of a slice (R154 to R173). -/
namespace Sys2Proof.Machine

/-! ### The descriptor (R161) -/

/-- A rack record of a descriptor: rack number (none outside the axes), COUNT, member mask, whether its reserved bits are 0. -/
structure DescRack where
  rack  : Option Nat
  count : Nat
  mask  : Nat
  clean : Bool
deriving DecidableEq, Repr

/-- A slice descriptor's RACKS. -/
def descRacks (w : List Word) : Nat := bitsOf (wordAt w 2) 0 7
/-- A slice descriptor's CLAIMS. -/
def descClaims (w : List Word) : Nat := bitsOf (wordAt w 2) 8 9
/-- A slice descriptor's length in bytes (R161). -/
def descBytes (w : List Word) : Nat := 16 + 20 * descRacks w + 4 * descClaims w
/-- PLACE of a descriptor. -/
def descPlace (w : List Word) : Bool := bitAt (wordAt w 0) 10
/-- CLASS of a descriptor. -/
def descClass (w : List Word) : Nat := bitsOf (wordAt w 0) 8 2
/-- TEMPLATE of a descriptor. -/
def descTemplate (w : List Word) : Nat := bitsOf (wordAt w 0) 16 8
/-- TENANT of a descriptor. -/
def descTenant (w : List Word) : Nat := bitsOf (wordAt w 1) 0 16
/-- DEFCLAIM of a descriptor. -/
def descDefClaim (w : List Word) : Bool := bitAt (wordAt w 2) 24

/-- The rack records of a descriptor. -/
def descRackRecs (sx sy : Nat) (w : List Word) : List DescRack :=
  (List.range (descRacks w)).map fun i =>
    let w0 := wordAt w (4 + 5 * i)
    let x := bitsOf w0 0 3
    let y := bitsOf w0 3 3
    { rack := if x < sx ∧ y < sy then some (sx * y + x) else none, count := bitsOf w0 6 8,
      mask := numOfWords ((w.drop (5 + 5 * i)).take 4), clean := bitsOf w0 14 18 == 0 && 1 ≤ bitsOf w0 6 8 && bitsOf w0 6 8 ≤ 128 }

/-- The claim words of a descriptor. -/
def descClaimWords (w : List Word) : List Word := (w.drop (4 + 5 * descRacks w)).take (descClaims w)

/-- Reserved fields of the fixed part and of the claim words are 0, RACKS and CLAIMS in range (R161). R161 gives the ranges of RACKS and CLAIMS and no
code for a value outside them: it is refused as the reserved fields are, with 0x05 (DESIGN CHOICE, log entry 109). -/
def descClean (w : List Word) : Bool :=
  bitsOf (wordAt w 0) 11 5 == 0 && bitsOf (wordAt w 0) 24 8 == 0 && bitsOf (wordAt w 1) 16 16 == 0 && bitsOf (wordAt w 2) 7 1 == 0
    && bitsOf (wordAt w 2) 17 7 == 0 && bitsOf (wordAt w 2) 25 7 == 0 && wordAt w 3 == 0
    && 1 ≤ descRacks w && descRacks w ≤ 64 && descClaims w ≤ 256 && (descClaimWords w).all fun c => bitsOf c 24 8 == 0

/-- The cables a claim word names; none when one is not cabled, or its rack is outside the axes (R156, code 0x13). -/
def State.claimCables (s : State) (c : Word) : Option (List Nat) :=
  let sx := s.axes.1
  let sy := s.axes.2
  let x := bitsOf c 0 3
  let y := bitsOf c 3 3
  let d := bitsOf c 6 2
  let planes := bitIndices (bitsOf c 8 16) 16
  if x < sx ∧ y < sy then
    match s.rackRec (sx * y + x) with
    | some k => if planes.all fun p => k.uplinks.testBit (4 * p + d) then some (planes.map fun p => cableOf sx sy (sx * y + x) p d) else none
    | none => none
  else none

/-- The default claim set of member racks: every cabled uplink cable whose two ends lie in them (R157). -/
def State.defaultClaims (s : State) (racks : List Nat) : List Nat :=
  let sx := s.axes.1
  let sy := s.axes.2
  (racks.flatMap fun r => [0, 2].flatMap fun d => (List.range 16).filterMap fun p =>
    match s.rackRec r with
    | some k => if k.uplinks.testBit (4 * p + d) && racks.contains (nbrRack sx sy r d) then some (cableOf sx sy r p d) else none
    | none => none).dedup

/-- Claim words that name a set of cables, one per rack and + direction. -/
def State.claimWords (s : State) (cables : List Nat) : List Word :=
  let sx := s.axes.1
  ((cables.map fun c => c / 16).dedup).map fun e =>
    let r := e / 2
    fieldAt 0 3 (r % sx) ||| fieldAt 3 3 (r / sx) ||| fieldAt 6 2 (2 * (e % 2))
      ||| fieldAt 8 16 (maskOf ((cables.filter fun c => c / 16 == e).map (· % 16)))

/-- The admitted descriptor: the request with its members filled in, PLACE cleared, and the default set expanded into claim words, which stand after the
explicit ones; DEFCLAIM is cleared with it (R161; that it is cleared and where the words stand: DESIGN CHOICE, log entry 110). -/
def State.admittedWords (s : State) (w : List Word) (members : List (Nat × Nat)) : List Word :=
  let dflt := if descDefClaim w then s.claimWords (s.defaultClaims (members.map (·.1))) else []
  let claims := descClaimWords w ++ dflt
  let mask := fun (w0 : Word) => lanesAt (s.axes.1 * bitsOf w0 3 3 + bitsOf w0 0 3) members
  [putBits (wordAt w 0) 10 1 0, wordAt w 1, putBits (putBits (wordAt w 2) 8 9 claims.length) 24 1 0, wordAt w 3]
    ++ ((List.range (descRacks w)).flatMap fun i =>
        let w0 := wordAt w (4 + 5 * i)
        w0 :: (List.range 4).map fun k => BitVec.ofNat 32 (mask w0 / 2 ^ (32 * k)))
    ++ claims

/-- The layout an admitted descriptor describes. -/
def State.layoutOf (s : State) (w : List Word) : Layout :=
  let recs := descRackRecs s.axes.1 s.axes.2 w
  let vcs := match s.template (descTemplate w) with
    | some t => t.ownVcs
    | none => 0x1F
  { view := { id := bitsOf (wordAt w 0) 0 8, cls := descClass w, template := descTemplate w, tenant := descTenant w, vcs := vcs,
              members := (recs.filterMap fun r => r.rack.map fun k => (k, r.mask)).foldl (fun acc m => insertNat m.1 m.2 acc) [],
              claims := ((descClaimWords w).filterMap s.claimCables).flatten.dedup },
    desc := w }

/-! ### Seats (R172) -/

/-- Seats of an engine's rotation: the seat numbers that own a slot (R77, R172). -/
def State.rotationSeats (s : State) (engine : Nat) : List Nat :=
  let rot := match s.chart.lit with
    | some c => rotationOf c.rotations engine
    | none => v2Rotation engine
  (List.range 64).filter rot.seats.contains

/-- The free seats of an engine in a rack: seats of its rotation bound to no other slice there. -/
def State.freeSeats (s : State) (engine : Nat) (pick : RackSeats → List Nat) (slice r : Nat) : List Nat :=
  let used := s.slc.table.flatMap fun t => if t.id = slice then [] else t.seats.flatMap fun q => if q.rack = r then pick q else []
  (s.rotationSeats engine).filter fun n => !used.contains n

/-- The seats a template takes in a rack; none when too few are free. -/
def State.seatsFor (s : State) (t : Template) (slice r : Nat) : Option RackSeats :=
  let l := s.freeSeats 1 (·.lmp) slice r
  let n := s.freeSeats 2 (·.lnt) slice r
  let c := s.freeSeats 3 (·.clp) slice r
  if t.lmpSeats ≤ l.length ∧ t.lntSeats ≤ n.length ∧ t.clpSeats ≤ c.length
  then some { rack := r, lmp := l.take t.lmpSeats, lnt := n.take t.lntSeats, clp := c.take t.clpSeats } else none

/-- Seats are bound in each member rack; a rack that keeps members keeps its binding, a rack left releases it (R172). -/
def State.bindSeats (s : State) (id : Nat) (v : SliceView) : State :=
  match s.template v.template with
  | none => s
  | some t =>
    if v.cls = 0 then s
    else v.racks.foldl (fun s r => s.onSlice id fun e =>
      if e.seats.any fun q => q.rack == r then e
      else match s.seatsFor t id r with
        | some q => { e with seats := e.seats ++ [q] }
        | none => e) (s.onSlice id fun e => { e with seats := e.seats.filter fun q => v.racks.contains q.rack })

/-! ### Admission (R162) -/

/-- Whether the slice table leaves a pool room in every member rack: the amounts other GUARDED and SEALED slices reserve there and
this one's stay within the pool (R173). -/
def State.poolRoom (s : State) (resource : Nat) (pool : Template → Nat) (amount : Template → Nat) (t : Template) (id : Nat)
    (racks : List Nat) : Bool :=
  racks.all fun r =>
    let others := (s.slc.nextViews.filter fun v => v.id != id && v.cls != 0 && v.racks.contains r).map fun v =>
      match s.template v.template with
      | some u => if pool u = pool t then amount u else 0
      | none => 0
    others.foldl (· + ·) 0 + amount t ≤ s.poolCount resource (pool t)

/-- Whether every member rack has seats for the slice beside those that the slice table as the next bank will have it gives to others; a rack where
the slice holds its seats has them (R162, R172). -/
def State.seatRoom (s : State) (t : Template) (id : Nat) (racks : List Nat) : Bool :=
  racks.all fun r =>
    let bound := match s.slice id with
      | some x => x.seats.any fun q => q.rack == r
      | none => false
    let fits := fun (engine : Nat) (amount : Template → Nat) =>
      let others := (s.slc.nextViews.filter fun v => v.id != id && v.cls != 0 && v.racks.contains r).map fun v => ((s.template v.template).map amount).getD 0
      decide (others.foldl (· + ·) 0 + amount t ≤ (s.rotationSeats engine).length)
    bound || (fits 1 (·.lmpSeats) && fits 2 (·.lntSeats) && fits 3 (·.clpSeats))

/-- Check 1, the state rule (R165): 0 when the operation may go on. A command in progress comes first (DEDUCED, log entry 22). -/
def State.stateRule (s : State) (op id : Nat) : Nat :=
  let st := s.sliceState id
  if id = 0 then 0x01
  else if st = 1 ∨ st = 3 ∨ st = 4 ∨ st = 6 then 0x0E
  else if op = 1 then (if st = 0 then 0 else 0x02)
  else if op = 2 then (if st = 2 ∨ st = 5 then 0 else 0x0F)
  else if op = 3 then (if st = 2 then 0 else 0x0F)
  else if op = 4 then (if st = 5 then 0 else 0x0F)
  else 0x0F

/-- Check 2, template and class; a re-layout keeps class, template and tenant (R164, R165). -/
def State.templateRule (s : State) (op id : Nat) (w : List Word) : Nat :=
  let keeps := match s.slice id with
    | some r => match r.lay with
      | some l => l.view.cls == descClass w && l.view.template == descTemplate w && l.view.tenant == descTenant w
      | none => true
    | none => true
  if op == 2 && !keeps then 0x0F
  else match s.template (descTemplate w) with
    | none => 0x03
    | some t => 
      let v2 := match s.chart.lit with
        | some c => c.format == 2
        | none => false
      if t.cls != descClass w || (descClass w == 2 && v2) then 0x04 else 0

/-- The form of the member part: reserved fields, racks inside the axes and named once, masks of COUNT present endpoints (R161,
R164). -/
def State.memberForm (s : State) (w : List Word) : Nat :=
  let recs := descRackRecs s.axes.1 s.axes.2 w
  let present := fun (r : Nat) => match s.rackRec r with
    | some k => k.epPresent
    | none => 0
  let bad := fun (r : DescRack) => match r.rack with
    | none => true
    | some k => !r.clean || (if descPlace w then r.mask != 0 || popCount (present k) 128 < r.count
        else popCount r.mask 128 != r.count || (bitIndices r.mask 128).any fun i => !(present k).testBit i)
  if !descClean w || recs.any bad || (recs.filterMap (·.rack)).dedup.length != recs.length then 0x05 else 0

/-- Endpoints (rack × 128 + index) that belong to another slice. -/
def State.taken (s : State) (id e : Nat) : Bool := s.slc.nextViews.any fun v => v.id != id && v.has (e / 128) (e % 128)

/-- The built-in placement: the lowest-numbered free present endpoints of each listed rack; none when too few are free (R161). -/
def State.defaultPlacement (s : State) (id : Nat) (w : List Word) : Option (List Nat) :=
  (descRackRecs s.axes.1 s.axes.2 w).foldl (fun acc r => match acc, r.rack with
    | some es, some k =>
      let free := (bitIndices (match s.rackRec k with
        | some q => q.epPresent
        | none => 0) 128).filter fun i => !s.taken id (128 * k + i)
      if r.count ≤ free.length then some (es ++ (free.take r.count).map fun i => 128 * k + i) else none
    | _, _ => none) (some [])

/-- Members per rack from a list of endpoints. -/
def membersOf (es : List Nat) : List (Nat × Nat) :=
  es.foldl (fun acc e => insertNat (e / 128) (lanesAt (e / 128) acc ||| (1 <<< (e % 128))) acc) []

/-- Claims against the ownership records of every other slice (R156): 0x13, then 0x0B. R156 refuses a claim word in an OPEN descriptor; DEFCLAIM claims
too, and is refused there with the same code (DESIGN CHOICE, log entry 108). -/
def State.claimRule (s : State) (id : Nat) (w : List Word) (racks : List Nat) : Nat × List Nat :=
  let cls := descClass w
  if cls = 0 ∧ (descClaims w ≠ 0 ∨ descDefClaim w) then (0x0B, [])
  else if (descClaimWords w).any fun c => (s.claimCables c).isNone then (0x13, [])
  else
    let cables := (((descClaimWords w).filterMap s.claimCables).flatten ++ (if descDefClaim w then s.defaultClaims racks else [])).dedup
    let others := s.slc.nextViews.filter fun v => v.id != id
    let conflict := cables.any fun c => match ownerIn others c with
      | .free => false
      | .tenant t _ => !(cls == 1 && t == descTenant w)
      | .sealed _ => true
    if conflict then (0x0B, []) else (0, cables)

/-- The trees of the admission solve: the cluster graph of the head, the table with the request's layout, repaired from the lit
bank (R162). -/
def State.admissionTrees (s : State) (l : Layout) : SolveCtx × List Tree :=
  let views := (s.slc.nextViews.filter fun v => v.id != l.view.id) ++ [l.view]
  let c := s.solveCtx s.slv.graph views
  (c, c.solveRepair s.slv.lit [l.view.id])

/-- Checks 3 to 7 for a create or a re-layout whose members are known: the reason, and the admitted layout (R162). -/
def State.admitCheck (s : State) (id : Nat) (w : List Word) (es : List Nat) : Nat × Layout :=
  let members := membersOf es
  let racks := members.map (·.1)
  let claims := s.claimRule id w racks
  let lay := s.layoutOf (s.admittedWords w members)
  match s.template (descTemplate w) with
  | none => (0x03, lay)
  | some t =>
    let trees := (s.admissionTrees lay).2
    let crowded := (List.range s.rackCount).any fun r =>
      (((s.slc.nextViews.filter fun v => v.id != id) ++ [lay.view]).filter fun v =>
        v.racks.contains r || trees.any fun x => x.slice == v.id && x.routes r).length > 64
    let code :=
      if es.any fun e => s.taken id e then 0x06
      else if es.length > t.maxEp then 0x07
      else if crowded then 0x08
      else if t.cls ≠ 0 ∧ !(s.poolRoom 4 (·.ctxPool) (·.maxCtx) t id racks && s.poolRoom 3 (·.lntPool) (fun u => 4 * u.lntSeats) t id racks)
      then 0x09
      else if t.cls ≠ 0 ∧ !s.seatRoom t id racks then 0x0A
      else claims.1
    (code, lay)

/-- What the admission solve shows (R158, R162): 0x0D when a pair of the slice's own racks is joined in no plane, 0x0C when a pair
of another live slice loses a plane in which its lit bank joins it, unless links at 0 lanes cut that plane for it. -/
def State.solveVerdict (s : State) (l : Layout) : Nat :=
  let c := (s.admissionTrees l).1
  let trees := (s.admissionTrees l).2
  let own := l.view.racks
  let unjoined := own.any fun r => own.any fun t => r != t && (List.range 16).all fun p =>
    match trees.find? fun x => x.slice == l.view.id && x.plane == p && x.target == t with
    | some x => x.lost.contains r
    | none => true
  let strands := s.slv.lit.trees.any fun t => t.slice != l.view.id &&
    match c.views.find? fun v => v.id == t.slice, trees.find? fun x => x.slice == t.slice && x.plane == t.plane && x.target == t.target with
    | some v, some u => v.racks.any fun r => u.lost.contains r && !t.lost.contains r && !c.cutByLanes s.slv.lit v t.plane t.target r
    | _, _ => false
  if unjoined then 0x0D else if strands then 0x0C else 0

/-! ### Replies and changes at the head -/

/-- The set that names one slice. -/
def sliceBit (id : Nat) : SliceSet := BitVec.ofNat 256 (1 <<< id)

/-- SLICE_REPLY to the issuing rack (R168). -/
def State.sliceReply (s : State) (q : SliceReq) (reason epoch : Nat) : State :=
  let s := { s with slc := { s.slc with
    answered := (q.rack, q.tag, q.origin, reason, epoch) :: s.slc.answered.filter fun x => !(x.1 == q.rack && x.2.1 == q.tag) } }
  let s := s.raiseIf (reason != 0) Fld.WDN_INT_STATUS_ADMIT_REFUSED
  let m : KMsg := { s.kmsg 0x21 with
    count := fieldAt 0 8 reason ||| fieldAt 8 12 q.tag, epoch := w32 epoch, set := sliceBit q.slice }
  s.tell (s.keeperOf q.rack) m

/-- An entry of the table is made or changed: state, pending layout. -/
def State.changeSlice (s : State) (id state : Nat) (chg : Nat × Option Layout) (issuer : Option (Nat × Nat)) : State :=
  match s.slice id with
  | some _ => s.onSlice id fun r =>
    { r with prior := if r.chg.isSome then r.prior else r.state, state := state, chg := some chg,
             issuer := match issuer with
               | some i => some i
               | none => r.issuer }
  | none => { s with slc := { s.slc with
      table := s.slc.table ++ [{ id := id, state := state, forced := false, epoch := 0, lay := none, chg := some chg, prior := 0, issuer := issuer, born := 0, bornEpoch := 0, seats := [] }] } }

/-- A slice that touches the rack changed state (R177). -/
def State.noteSlice (s : State) (id : Nat) : State :=
  s.raiseIf (s.touches id s.myRack || match s.slice id with
    | some r => match r.chg with
      | some (_, some l) => l.view.racks.contains s.myRack
      | _ => false
    | none => false) Fld.WDN_INT_STATUS_SLICE_CHANGE

/-- The head admits a request into the next epoch and answers it (R162, R165). -/
def State.takeSliceReq (s : State) (q : SliceReq) (l : Option Layout) : State :=
  let e := s.slv.head.epoch + 1
  let st := if q.op = 1 then 1 else if q.op = 2 then 3 else 6
  let s := (s.changeSlice q.slice st (e, l) (some (q.rack, q.tag))).noteSlice q.slice
  let s := { s with slv := { s.slv with head := { s.slv.head with sliceChanges := s.slv.head.sliceChanges ++ [q.slice] } } }
  s.sliceReply q 0 e

/-- SLICE_DRAIN admitted: DRAINING, DRAIN_NOTICE flooded (R166). -/
def State.admitDrain (s : State) (q : SliceReq) : State :=
  let s := (s.onSlice q.slice fun r => { r with state := 4, prior := r.state, forced := false, issuer := some (q.rack, q.tag) }).noteSlice q.slice
  let s := { s with slc := { s.slc with
    drains := s.slc.drains.concat { slice := q.slice, flash := s.tim.flash, reports := [], forced := false } } }
  let s := s.sliceReply q 0 0
  s.flood ({ s.kmsg 0x23 with flash := BitVec.ofNat 48 s.tim.flash, set := sliceBit q.slice } : KMsg)

/-- A proposal request is issued, at a batch intake (R31). -/
def State.askProposal (s : State) (stage : StageId) (decision subject bound : Nat) : State :=
  let n := s.work.nextReq
  let p : PropReq := { request := n, stage := stage, decision := decision, subject := subject, bound := bound, flash := s.tim.flash, held := none,
                       answer := none, fell := false }
  { s with work := { s.work with requests := s.work.requests ++ [p], nextReq := n + 1 } }.send (.propRequest stage n)

/-- The first waiting request at the head (R162). At a publication it is refused, drained or destroyed; at an intake it is sent to placement, or
taken to the admission solve (R22, R31). The second part says whether the head may take the next. -/
def State.takeReq (s : State) (pub : Bool) (q : SliceReq) : State × Bool :=
  let drop := { s with slc := { s.slc with reqs := s.slc.reqs.tail } }
  let give := fun (t : State) => if pub then (t, true) else (s, false)
  let rule := s.stateRule q.op q.slice
  if s.slv.head.heldChanges then give (drop.sliceReply q 0x10 0)
  else if rule ≠ 0 then give (drop.sliceReply q rule 0)
  else if q.op = 3 then give (drop.admitDrain q)
  else if q.op = 4 then give (drop.takeSliceReq q none)
  else
    let form := let t := s.templateRule q.op q.slice q.words
                if t ≠ 0 then t else s.memberForm q.words
    if form ≠ 0 then give (drop.sliceReply q form 0)
    else
      let members : Option (List Nat) :=
        if descPlace q.words then q.placed
        else some ((descRackRecs s.axes.1 s.axes.2 q.words).flatMap fun r => match r.rack with
          | some k => (bitIndices r.mask 128).map fun i => 128 * k + i
          | none => [])
      match members with
      | none =>
        if pub || q.asked then (s, false)
        else
          let s := { s with slc := { s.slc with reqs := modifyAt (fun x => { x with asked := true }) 0 s.slc.reqs } }
          (s.askProposal .slv 1 q.slice ((descRackRecs s.axes.1 s.axes.2 q.words).map (·.count)).sum, false)
      | some es =>
        let c := s.admitCheck q.slice q.words es
        if c.1 ≠ 0 then give (drop.sliceReply q c.1 0)
        else if pub then (s, false)
        else
          let ctx := (s.admissionTrees c.2).1
          let keys := ctx.toBuild s.slv.lit false [q.slice]
          ({ drop with slc := { drop.slc with solving := some (q, c.2, s.solveLength false keys) } }, false)

/-- The head takes waiting requests in order, at a publication or an intake, until one must wait for a placement, is in the admission solve, or is for
the other of the two (R22, R162); fuel bounds how many. -/
def State.admitNext (pub : Bool) : Nat → State → State
  | 0, s => s
  | n + 1, s =>
    if s.slc.solving.isSome ∨ ¬ s.serialises then s
    else match s.slc.reqs with
      | [] => s
      | q :: _ => let r := s.takeReq pub q
                  if r.2 then State.admitNext pub n r.1 else r.1

/-- The waiting requests with one more, in order of flash, rack and TAG (R162). -/
def insertReq (q : SliceReq) (qs : List SliceReq) : List SliceReq :=
  match qs with
  | [] => [q]
  | p :: rest =>
    if p.flash = q.flash ∧ !p.asked ∧ (q.rack < p.rack ∨ q.rack = p.rack ∧ q.tag < p.tag) then q :: p :: rest else p :: insertReq q rest

/-! ### Messages to agents -/

/-- The Keeper writes FA_PAUSE at each member endpoint agent of a slice; again for a forced drain (R166, log entry 113). -/
def State.pauseMembers (s : State) (id : Nat) (on : Bool) : State :=
  s.mgmtAll (s.memberAgents id) 0x3C [w32 (b2n on)] 6 id 0x05 (.pause id)

/-- WDN_SLICES_LIVE, WDN_RACK_SET and WDN_SEATS_FREE follow the table (R176). -/
def State.showSlices (s : State) : State :=
  let here := s.slc.table.filter fun r => s.touches r.id s.myRack
  let s := (s.setF Fld.WDN_SLICES_LIVE_CLUSTER s.slc.table.length).setF Fld.WDN_SLICES_LIVE_RACK here.length
  let s := s.setSliceSet (Reg.WDN_RACK_SET 0) (BitVec.ofNat 256 (maskOf (here.map (·.id))))
  let s := s.setF Fld.WDN_SEATS_FREE_LMP (s.freeSeats 1 (·.lmp) 0 s.myRack).length
  let s := s.setF Fld.WDN_SEATS_FREE_LNT (s.freeSeats 2 (·.lnt) 0 s.myRack).length
  s.setF Fld.WDN_SEATS_FREE_CLP (s.freeSeats 3 (·.clp) 0 s.myRack).length

end Sys2Proof.Machine
end

