-- ==== Sys2Proof/Machine/ChartOps.lean ====
section
/-! DEFINITION. Machine/ChartOps.lean: slots, arming, the head's announcement of a chart, lighting (R80 to R92). -/
namespace Sys2Proof.Machine

/-! ### Fitness (R366) -/

/-- An unfit reason is set or cleared; MOR_STATE.FIT and ARB_HEALTHY_N follow, and a change of FIT is raised (R366, R388). -/
def State.setUnfit (s : State) (bit : Nat) (on : Bool) : State :=
  let old := s.getF Fld.MOR_HEALTH_UNFIT
  let new := if on then old ||| (1 <<< bit) else old &&& (0xFF - (1 <<< bit))
  let fit := b2n (new == 0)
  let was := s.getF Fld.MOR_STATE_FIT
  let s := ((s.setF Fld.MOR_HEALTH_UNFIT new).setF Fld.MOR_STATE_FIT fit).setF Fld.MOR_PINS_HEALTHY fit
  s.raiseIf (fit != was) Fld.MOR_INT_STATUS_HEALTH_CHANGE

/-! ### Slots (R81, R82, R92) -/

/-- One slot, changed. -/
def State.onSlot (s : State) (n : Nat) (f : Slot → Slot) : State :=
  { s with chart := { s.chart with slots := modifyAt f n s.chart.slots } }

/-- A slot's record. -/
def State.slot (s : State) (n : Nat) : Slot := s.chart.slots.getD n Slot.empty

/-- A slot is locked: LOADING, being stored, holding the lit chart, or armed (R81). -/
def State.slotLocked (s : State) (n : Nat) : Bool :=
  (s.slot n).shadow == .loading
    || (match s.chart.store with
        | some j => j.slots.contains n
        | none => false)
    || (s.chart.storeQueue.any fun j => j.slots.contains n)
    || (s.chart.lit.isSome && s.getF Fld.CHT_STATE_LIT_SLOT == n)
    || (match s.chart.arm with
        | some a => a.slot == n
        | none => false)

/-- CHT_SLOTn_STATUS of a slot (R92). -/
def State.slotStatus (s : State) (n : Nat) : Word :=
  let x := s.slot n
  let sh := match x.shadow with
    | .empty => 0
    | .loading => 1
    | .checked => 2
    | .refused => 3
  let nv := match x.nvm with
    | .empty => 0
    | .valid => 1
    | .corrupt => 2
    | .writing => 3
  fieldAt 0 2 sh ||| fieldAt 2 2 nv ||| fieldAt 4 1 (b2n (s.slotLocked n)) ||| fieldAt 5 3 (if x.shadow = .empty then 0 else x.format)
    ||| fieldAt 8 8 x.reason

/-- The enrolled installation keys: those in NVM (R338). -/
def State.enrolled (s : State) : List (List Byte) := s.chart.keys.filterMap (·.nvm)

/-- A refusal of a check or a command: the slot's REASON, REFUSED, CHT_REFUSE_COUNT, CHT_REFUSE_OFFSET (0 for a command), EV_CHART_REFUSED (R71, R90,
R424). -/
def State.chartRefused (s : State) (slot code off : Nat) : State :=
  let s := s.onSlot slot fun x => { x with reason := code }
  let s := (s.countReg Reg.CHT_REFUSE_COUNT 1).setReg Reg.CHT_REFUSE_OFFSET (w32 off)
  let s := s.raise Fld.CHT_INT_STATUS_REFUSED
  s.logOwn 0x022 0x02 0 [fieldAt 0 2 slot ||| fieldAt 8 8 code, w32 off]

/-- A slot's image is checked (R70): CHECKED with its chart, or REFUSED with the code; the second part is the code, 0 for none. -/
def State.checkSlot (s : State) (n : Nat) : State × Nat :=
  let x := s.slot n
  match checkImage s.enrolled x.image x.loadLen with
  | .ok c => (s.onSlot n fun x => { x with shadow := .checked, chart := some c, format := c.format, reason := 0 }, 0)
  | .bad code off =>
    ((s.onSlot n fun x => { x with shadow := .refused, chart := none, format := bitsOf (wordAt x.image 1) 0 3, reason := code }).chartRefused
      n code off, code)

/-! ### Arming (R85) -/

/-- SERIAL of a chart for the floor: a v2 chart counts as 0 (R84). -/
def Chart.floorSerial (c : Chart) : Nat := if c.format = 3 then c.serial else 0

/-- The range of numbers of a pool: the pools of a resource take numbers in pool order, pool 0 the lowest (R181, R215, R247). -/
def Chart.poolRange (c : Chart) (resource pool : Nat) : Nat × Nat :=
  let ps := c.pools.filter fun p => p.resource == resource
  let lo := ((ps.filter fun p => p.pool < pool).map (·.count)).sum
  (lo, lo + (match ps.find? fun p => p.pool == pool with
    | some p => p.count
    | none => 0))

/-- The template of a number in a chart. -/
def Chart.template (c : Chart) (n : Nat) : Option Template := c.templates.find? fun t => t.num == n

/-- Contexts of a resource that plans of OPEN slices of this rack hold and whose slices' templates name a pool in a chart (R85). -/
def State.openHeld (s : State) (c : Chart) (resource num : Nat) (pool : Template → Nat) : Nat :=
  (s.clp.plans.filter fun p => (match s.slc.nextViews.find? fun v => v.id == p.slice with
    | some v => v.cls == 0 && (c.template v.template).any fun t => pool t == num
    | none => false) && if resource = 4 then decide (p.ctx < 2048) else p.lnt.isSome).length

/-- The current allocation of a pool of contexts in a rack, as a chart's pools count it: what GUARDED and SEALED slices have reserved under the lit
chart, and what plans of OPEN slices hold, where this rack knows them (R85). -/
def State.allocated (s : State) (c : Chart) (resource num rack : Nat) (pool : Template → Nat) (amount : Template → Nat) : Nat :=
  ((s.slc.nextViews.filter fun v => v.cls != 0 && v.racks.contains rack && (c.template v.template).any fun t => pool t == num).map fun v =>
    match s.template v.template with
    | some t => amount t
    | none => 0).sum + if rack = s.myRack then s.openHeld c resource num pool else 0

/-- Whether a chart would remove a template a live slice uses, or cut a pool below its current allocation: contexts reserved or held, in number and
each within its pool's new range; lamps and sweep lanes 1 for a live slice (R85). -/
def State.cutsAllocation (s : State) (c : Chart) : Bool :=
  let views := s.slc.nextViews
  let gone := views.any fun v => (c.template v.template).isNone
  let short := fun (resource : Nat) (pool : Template → Nat) (amount : Template → Nat) =>
    (List.range s.rackCount).any fun k => (List.range 16).any fun n =>
      let r := c.poolRange resource n
      decide (r.2 - r.1 < s.allocated c resource n k pool amount)
  let unit := fun (resource : Nat) (pool : Template → Nat) => views.any fun v => match c.template v.template with
    | none => true
    | some t => let r := c.poolRange resource (pool t)
                r.2 - r.1 < 1
  let inPool := fun (resource : Nat) (pool : Template → Nat) (slice num : Nat) => match views.find? fun v => v.id == slice with
    | some v => match c.template v.template with
      | some t => let r := c.poolRange resource (pool t)
                  decide (r.1 ≤ num) && decide (num < r.2)
      | none => false
    | none => true
  let moved := (s.clp.plans.any fun p => decide (p.ctx < 2048) && !inPool 4 (·.ctxPool) p.slice p.ctx)
    || (s.clp.plans.any fun p => match p.lnt with
        | some k => !inPool 3 (·.lntPool) p.slice k
        | none => false)
    || (s.clp.lntSlices.any fun x => x.2.any fun k => !inPool 3 (·.lntPool) x.1 k)
  gone || moved || short 4 (·.ctxPool) (·.maxCtx) || short 3 (·.lntPool) (fun t => 4 * t.lntSeats) || unit 2 (·.lmpPool) || unit 1 (·.slvPool)

/-- The check of LIGHT_CHART, in its order (R85): 0 when the slot may be armed. -/
def State.armRule (s : State) (n : Nat) : Nat :=
  match (s.slot n).chart with
  | none => 0x14
  | some c =>
    let floor := (s.getReg Reg.CHT_SERIAL_FLOOR).toNat
    let otherInstall := match s.chart.lit with
      | some l => l.format == 3 && c.installId != l.installId
      | none => false
    if (s.slot n).shadow ≠ .checked then 0x14
    else if c.floorSerial < floor then 0x10
    else if otherInstall then 0x11
    else if s.cutsAllocation c then 0x12
    else 0

/-- Nothing armed: STATE back to LIT (NONE while none is lit), ARM_SLOT, ARM_UNMIRRORED, CHT_ARM_FLASH and the armed digest 0. -/
def State.disarm (s : State) : State :=
  let s := { s with chart := { s.chart with arm := none } }
  let s := ((s.setF Fld.CHT_STATE_STATE (b2n s.chart.lit.isSome)).setF Fld.CHT_STATE_ARM_SLOT 0).setF Fld.CHT_STATE_ARM_UNMIRRORED 0
  (s.setPair Reg.CHT_ARM_FLASH_LO 0).setDigest (Reg.CHT_ARM_DIGEST 0) 0

/-- The partner holds a CHECKED slot with a digest (R85). -/
def State.partnerHas (s : State) (d : Digest) : Bool := s.mor.partnerDigests.contains d

/-- The partner is CURRENT (R374). -/
def State.partnerCurrent (s : State) : Bool := s.getF Fld.MOR_STATE_PARTNER == 2

/-- An arming completes when the partner holds the digest; with a stale or absent partner it completes unmirrored (R85). -/
def State.completeArming (s : State) : State :=
  match s.chart.arm with
  | none => s
  | some a =>
    if a.complete then s
    else if s.partnerHas a.digest then { s with chart := { s.chart with arm := some { a with complete := true } } }
    else if s.partnerCurrent then s
    else ({ s with chart := { s.chart with arm := some { a with complete := true } } }).setF Fld.CHT_STATE_ARM_UNMIRRORED 1

/-- The period of an armed chart that differs from the one in force, written with its F to every agent of the rack; 0 takes it back (R457). -/
def State.writePeriod (s : State) (next f : Nat) : State :=
  if next = s.tim.periodUs then s else s.broadcast 0x28 [fieldAt 0 7 s.tim.periodUs ||| fieldAt 8 7 next, w32 f] 11

/-- The flash period of the armed chart; the one in force where its slot holds none. -/
def State.armedPeriod (s : State) (a : Arming) : Nat :=
  match (s.slot a.slot).chart with
  | some c => c.install.flashUs
  | none => s.tim.periodUs

/-- An announced F is taken when armed with its digest: CHT_ARM_FLASH, and the agents learn a period that changes (R86, R91, R457). -/
def State.takeChartFlash (s : State) (d : Digest) (f : Nat) : State :=
  match s.chart.arm with
  | some a => if a.digest = d then
      (({ s with chart := { s.chart with arm := some { a with flash := f } } }).setPair Reg.CHT_ARM_FLASH_LO f).writePeriod (s.armedPeriod a) f
    else s
  | none => s

/-- A slot is armed with its digest for the LIGHT_CHART of a window (R85). -/
def State.armSlot (s : State) (n win : Nat) : State :=
  match (s.slot n).chart with
  | none => s
  | some c =>
    let s := { s with chart := { s.chart with arm := some { slot := n, digest := c.digest, complete := false, flash := 0, confirmed := false, win := win } } }
    let s := (((s.setF Fld.CHT_STATE_STATE 2).setF Fld.CHT_STATE_ARM_SLOT n).setDigest (Reg.CHT_ARM_DIGEST 0) c.digest).onSlot n fun x => { x with reason := 0 }
    let s := match s.chart.heard with
      | some h => if h.digest = c.digest ∧ s.tim.flash < h.f then s.takeChartFlash h.digest h.f else s
      | none => s
    s.completeArming

/-- A message about a chart (R138). -/
def State.chartMsg (s : State) (mtype : Nat) (d : Digest) (flash : Nat) : KMsg :=
  { s.kmsg mtype with subject := true, digest := d, flash := BitVec.ofNat 48 flash }

/-- The head floods WITHDRAW for a chart digest it has announced (R87). -/
def State.withdrawChart (s : State) (d : Digest) : State :=
  match s.chart.announce with
  | some a => if a.digest = d ∧ s.isHead then ({ s with chart := { s.chart with announce := none } }).flood (s.chartMsg 0x0B d 0) else s
  | none => s

/-- The armed head announces its digest with F = now + LIGHT_LEAD (R86). -/
def State.announceChart (s : State) : State :=
  match s.chart.arm, s.chart.announce with
  | some a, none =>
    if s.serialises ∧ a.complete then
      let f := s.tim.flash + s.params.lightLead
      let s := { s with chart := { s.chart with
        announce := some { digest := a.digest, first := s.tim.flash, f := f, postponed := 0, ready := [], confirmed := false } } }
      s.flood (s.chartMsg 0x05 a.digest f)
    else s
  | _, _ => s

/-- The chart part of a check and arming, for a window (R85): an earlier arming is replaced, or the command held after CONFIRM. -/
def State.lightCommand (s : State) (w n : Nat) : State :=
  match s.chart.arm with
  | some a =>
    if a.confirmed then { s with chart := { s.chart with held := s.chart.held ++ [(w, n)] } }
    else
      let code := s.armRule n
      if code ≠ 0 then (s.chartRefused n code 0).refuse w 5 code
      else
        let s := if a.win < 16 then (s.chartRefused a.slot 0x15 0).refuse a.win 5 0x15 else s
        let s := (s.withdrawChart a.digest).disarm
        (s.armSlot n w).announceChart
  | none =>
    let code := s.armRule n
    if code ≠ 0 then (s.chartRefused n code 0).refuse w 5 code else (s.armSlot n w).announceChart

/-- A chart's lighting at this Keeper (R83, R88): the lit-chart state and registers, the new period, parameters, pools, templates
and rotation, the head rack as the root rack until a ROOT field is heard (R299), and with a first chart the NO_CHART reason cleared. -/
def State.lightLocal (s : State) (n : Nat) (c : Chart) : State :=
  let s := { s with chart := { s.chart with lit := some c } }.setPeriod s.tim.flash c.install.flashUs
  let s := if s.tim.rootHeard then s else s.setF Fld.TIM_STATE_ROOT_RACK (s.rackNo c.install.headX c.install.headY)
  let s := s.disarm
  let s := (s.setF Fld.CHT_STATE_STATE 1).setF Fld.CHT_STATE_LIT_SLOT n
  let s := (s.setReg Reg.CHT_LIT_SERIAL (w32 c.serial)).setPair Reg.CHT_LIT_FLASH_LO s.tim.flash
  let s := (s.setReg Reg.CHT_INSTALL c.install.word0).setDigest (Reg.CHT_LIT_DIGEST 0) c.digest
  let s := s.setF Fld.RST_STATE_HANG_WINDOW c.params.hangWindow
  let s := { s with slv := { s.slv with head := { s.slv.head with fullNext := true } } }
  (s.setUnfit 0 false).raise Fld.CHT_INT_STATUS_LIT

/-- The Keeper writes the chart's VC weights to its switches (R61, R88). -/
def State.writeWeights (s : State) : State :=
  match s.chart.lit with
  | none => s
  | some c =>
    let w := (c.install.weights.zipIdx.map fun x => fieldAt (4 * x.2) 4 x.1).foldl (· ||| ·) 0
    s.mgmtAll s.rackSwitches 0x24 [w] 11 0 0x02 .upkeep

/-- HEAD_MISMATCH follows the comparison of the own and the head's lit-chart digest, as HEAD_BEAT gives it or as the CONFIRM of the chart that has lit
at the head (log entry 97); with it the Keeper is in overlay state (R44, R89). -/
def State.judgeMismatch (s : State) : State :=
  let s := match s.chart.headNext with
    | some (d, f) => if f ≤ s.tim.flash then { s with chart := { s.chart with headDigest := some d, headNext := none } } else s
    | none => s
  match s.chart.lit, s.chart.headDigest with
  | some c, some d =>
    if c.digest = d ∨ s.isHead then s.setF Fld.CHT_STATE_HEAD_MISMATCH 0
    else if s.flag Fld.CHT_STATE_HEAD_MISMATCH then s
    else ({ s with link := { s.link with overlay := true } }.setF Fld.CHT_STATE_HEAD_MISMATCH 1).raise Fld.CHT_INT_STATUS_HEAD_MISMATCH
  | _, _ => s

/-! ### The exchange for a chart (R86, R142) -/

/-- This Keeper is armed with a digest and its arming is complete. -/
def State.armedWith (s : State) (d : Digest) : Bool :=
  match s.chart.arm with
  | some a => a.digest == d && a.complete
  | none => false

/-- The answer to a chart announcement, at the close point of the flash in which it came: READY when armed with the digest, else NOT_READY with reason
0x06 (R86, R138). -/
def State.answerAnnounce (s : State) : State :=
  match s.chart.heard with
  | some h =>
    if h.answered then s
    else
      let s := { s with chart := { s.chart with heard := some { h with answered := true } } }
      if s.armedWith h.digest then s.tellHead (s.chartMsg 0x06 h.digest h.f) else s.tellHead ({ s.chartMsg 0x07 h.digest h.f with count := 6 } : KMsg)
  | none => s

/-- An announcement of a chart: its F is taken when armed with the digest, and it is answered at the close point, or at once behind it (R86). -/
def State.chartAnnounced (s : State) (d : Digest) (f : Nat) : State :=
  let s := { s with chart := { s.chart with heard := some { digest := d, f := f, flash := s.tim.flash, answered := false } } }
  let s := s.takeChartFlash d f
  if s.stageOpen .cht then s else s.answerAnnounce

/-- A postponement of a chart: the new F (R86). -/
def State.chartPostponed (s : State) (d : Digest) (f : Nat) : State :=
  let s := { s with chart := { s.chart with heard := s.chart.heard.map fun (h : ChartHeard) => if h.digest = d then { h with f := f } else h } }
  s.takeChartFlash d f

/-- CONFIRM of a chart: the chart the head lights at F is known to every Keeper (R86, R89). -/
def State.chartConfirmed (s : State) (d : Digest) (f : Nat) : State :=
  let s := { s with chart := { s.chart with headNext := some (d, f), heard := none } }
  match s.chart.arm with
  | some a => if a.digest = d then { s with chart := { s.chart with arm := some { a with flash := f, confirmed := true } } } else s
  | none => s

/-- WITHDRAW of a chart digest (R87): disarmed, ARM_WITHDRAWN, EV_CHART_REFUSED 0x15, the LIGHT_CHART in progress refused. -/
def State.chartWithdrawn (s : State) (d : Digest) : State :=
  let s := { s with chart := { s.chart with heard := s.chart.heard.filter fun h => h.digest != d } }
  match s.chart.arm with
  | some a =>
    if a.digest = d then
      let s := if s.armedPeriod a = s.tim.periodUs then s else s.writePeriod 0 0
      let s := s.disarm.raise Fld.CHT_INT_STATUS_ARM_WITHDRAWN
      if a.win < 16 then (s.chartRefused a.slot 0x15 0).refuse a.win 5 0x15
      else s.logOwn 0x022 0x02 0 [fieldAt 0 2 a.slot ||| fieldAt 8 8 0x15, 0]
    else s
  | none => s

/-- The head postpones a chart to flash now + LIGHT_LEAD, once a flash however many racks are not ready; eight times at most (R86, R87). -/
def State.postponeChart (s : State) : State :=
  match s.chart.announce with
  | some a =>
    let f := s.tim.flash + s.params.lightLead
    if a.confirmed ∨ ¬ s.isHead ∨ a.postponed ≥ 8 ∨ a.f = f then s
    else
      let s := { s with chart := { s.chart with announce := some { a with f := f, postponed := a.postponed + 1 } } }
      (s.raise Fld.CHT_INT_STATUS_POSTPONED).flood (s.chartMsg 0x08 a.digest f)
  | none => s

/-- A READY for a chart at the head (R86). -/
def State.chartReady (s : State) (rack : Nat) (d : Digest) : State :=
  match s.chart.announce with
  | some a => if a.digest = d ∧ ¬ a.ready.contains rack then
      { s with chart := { s.chart with announce := some { a with ready := rack :: a.ready } } } else s
  | none => s

/-- With every READY held by F − 2, the head publishes CONFIRM at the boundary of F − 1 (R86, R142). -/
def State.confirmChart (s : State) : State :=
  match s.chart.announce with
  | some a =>
    if s.isHead ∧ ¬ a.confirmed ∧ s.tim.flash + 1 = a.f ∧ (List.range s.rackCount).all (fun r => a.ready.contains r) then
      ({ s with chart := { s.chart with announce := some { a with confirmed := true } } }).flood (s.chartMsg 0x09 a.digest a.f)
    else s
  | none => s

end Sys2Proof.Machine
end

