-- ==== Sys2Proof/Machine/PlanOps.lean ====
section
/-! DEFINITION. Machine/PlanOps.lean: plan descriptors, algorithms, pieces, memory, and the words of slots, chains and programmes (R178 to
R208, R246, R247). -/
namespace Sys2Proof.Machine

/-! ### The descriptor (R183) -/

/-- A plan descriptor, field by field. -/
structure PlanDesc where
  op      : Nat
  oper    : Nat
  slice   : Nat
  group   : Nat
  format  : Nat
  disc    : Nat
  round   : Nat
  slot    : Nat
  alg     : Nat
  ordinal : Nat
  bytes   : Nat
  tile    : Nat
  seed    : Nat
  src     : Nat
  dst     : Nat
  cpl     : Nat
  stride  : Nat
  m       : Nat
  members : List Nat
deriving DecidableEq, Repr

/-- A descriptor from its words. -/
def planDesc (w : List Word) : PlanDesc :=
  let f := fun (i lo n : Nat) => bitsOf (wordAt w i) lo n
  { op := f 0 0 4, oper := f 0 4 4, slice := f 0 8 8, group := f 0 16 12, format := f 1 0 4, disc := f 1 4 1, round := f 1 5 1,
    slot := f 1 8 8, alg := f 1 16 3, ordinal := f 2 0 32, bytes := f 3 0 32, tile := f 4 0 32, seed := f 5 0 32,
    src := pairAt w 6, dst := pairAt w 8, cpl := pairAt w 10, stride := f 12 0 32, m := f 13 0 14,
    members := (List.range (f 13 0 14)).map fun i => halfAt (w.drop 16) i }

/-- Bytes of a descriptor of M members: 64 B and the member list in whole words (R183). -/
def planDescBytes (w : List Word) : Nat := 64 + (bitsOf (wordAt w 13) 0 14 + 1) / 2 * 4

/-- Words of a member list. -/
def memberWords (ms : List Nat) : List Word :=
  (List.range ((ms.length + 1) / 2)).map fun i => fieldAt 0 16 (ms.getD (2 * i) 0) ||| fieldAt 16 16 (ms.getD (2 * i + 1) 0)

/-- The descriptor with its member list filled in. -/
def withMembers (w : List Word) (ms : List Nat) : List Word :=
  (w.take 13) ++ [fieldAt 0 14 ms.length, 0, 0] ++ memberWords ms

/-- Reserved encodings and fields of a descriptor (R183, R223): true when none is set. -/
def planClean (w : List Word) : Bool :=
  let d := planDesc w
  let w1 := wordAt w 1
  if d.op = 2 then
    bitsOf (wordAt w 0) 4 4 == 0 && bitsOf (wordAt w 0) 28 4 == 0 && w1 == 0 && (w.drop 3).all (· == 0) && d.slice != 0
  else
    d.op == 1 && 1 ≤ d.oper && d.oper ≤ 4 && d.slice != 0 && bitsOf (wordAt w 0) 28 4 == 0 && bitsOf w1 6 2 == 0 && bitsOf w1 19 13 == 0
      && d.alg ≤ 4 && d.format ≤ 11 && (d.oper == 1 || d.format == 0) && d.ordinal == 0 && bitsOf (wordAt w 13) 14 18 == 0
      && wordAt w 14 == 0 && wordAt w 15 == 0
      && (d.m % 2 == 0 || bitsOf (wordAt w (16 + d.m / 2)) 16 16 == 0)

/-! ### Members and racks -/

/-- The endpoint (rack × 128 + index) of an EN under the lit EN_MAP. -/
def State.endpoint (s : State) (en : Nat) : Option Nat := endpointOf s.slv.lit.enMap en

/-- The rack of an EN; the number of racks when the map does not hold it. -/
def State.rackOfEn (s : State) (en : Nat) : Nat :=
  match s.endpoint en with
  | some e => e / 128
  | none => s.rackCount

/-- The member racks of a list of ENs, ascending. -/
def State.memberRacks (s : State) (ms : List Nat) : List Nat :=
  (List.range s.rackCount).filter fun r => ms.any fun e => s.rackOfEn e == r

/-- The members of a rack: member index and endpoint index, in member order. -/
def State.membersIn (s : State) (ms : List Nat) (r : Nat) : List (Nat × Nat) :=
  ms.zipIdx.filterMap fun x => match s.endpoint x.1 with
    | some e => if e / 128 = r then some (x.2, e % 128) else none
    | none => none

/-- The member racks form a grid (R191). -/
def State.isGrid (s : State) (racks : List Nat) : Bool :=
  let sx := s.axes.1
  racks.all fun a => racks.all fun b => racks.contains (sx * (b / sx) + a % sx)

/-- The INNET ring order: rows by ascending y, alternately by ascending and descending x (R192). -/
def State.ringOrder (s : State) (racks : List Nat) : List Nat :=
  let sx := s.axes.1
  let rows := (List.range s.axes.2).filter fun y => racks.any fun r => r / sx == y
  rows.zipIdx.flatMap fun x =>
    let row := racks.filter fun r => r / sx == x.1
    if x.2 % 2 = 0 then row else row.reverse

/-- The member after an item in a list, cyclically. -/
def nextIn (l : List Nat) (a : Nat) : Nat :=
  match l.findIdx? (· == a) with
  | some i => l.getD ((i + 1) % l.length) a
  | none => a

/-- The member before an item in a list, cyclically. -/
def prevIn (l : List Nat) (a : Nat) : Nat :=
  match l.findIdx? (· == a) with
  | some i => l.getD ((i + l.length - 1) % l.length) a
  | none => a

/-! ### Agents' declarations (R440) -/

/-- The address of switch p of rack r. -/
def State.switchOf (s : State) (r p : Nat) : Addr := mkAddr 1 (r % s.axes.1) (r / s.axes.1) p
/-- The address of endpoint i of rack r. -/
def State.epOf (s : State) (r i : Nat) : Addr := mkAddr 0 (r % s.axes.1) (r / s.axes.1) i

/-! ### Planes and the algorithm (R190, R191, R246) -/

/-- PLANES: the planes in which the slice's lit trees join every pair of member racks; a plane whose switch guards no adder counts out
for RS and barrier plans (R190, R450). -/
def State.planPlanes (s : State) (slice oper : Nat) (racks : List Nat) : Nat :=
  maskOf ((List.range 16).filter fun p =>
    (racks.all fun r => racks.all fun t => r == t || match s.slv.lit.tree slice p t with
      | some x => x.routes r
      | none => false)
    && ((oper != 1 && oper != 4) || racks.all fun r => agentChecked (s.switchOf r p)))

/-- The Lantern's own limits (R246): 0 when they hold, 0x05 for the discipline, 0x10 for any other. -/
def State.lanternRule (s : State) (d : PlanDesc) (members : List Nat) (racks : List Nat) : Nat :=
  let fa3 := members.all fun en => match s.endpoint en with
    | some e => agentGen (s.epOf (e / 128) (e % 128)) == 3
    | none => false
  if d.oper == 3 || racks.length > 64 || (d.oper == 1 && d.bytes > s.params.lanternMax)
     || (d.oper == 2 && (d.bytes > s.params.lanternMax || members.length * (d.bytes + 4) > 1024))
     || isBlockFmt d.format then 0x10
  else if d.disc == 1 && !fa3 then 0x05 else 0

/-- Lantern numbers taken in any of the racks: by admitted plans and admissions, and by the reservations of other slices (R247). -/
def State.lntTaken (s : State) (slice : Nat) (racks : List Nat) : List Nat :=
  (s.clp.live.filterMap fun p => if p.racks.any racks.contains then p.lnt else none)
    ++ (s.clp.adms.filterMap fun p => if p.racks.any racks.contains then p.lnt else none)
    ++ s.clp.lntSlices.flatMap fun x => if x.1 ≠ slice ∧ racks.any (fun r => s.touches x.1 r) then x.2 else []

/-- The Lantern context number a plan takes, when one is free (R247). -/
def State.lntNumber (s : State) (slice : Nat) (racks : List Nat) : Option Nat :=
  match s.litView slice with
  | none => none
  | some v =>
    let taken := s.lntTaken slice racks
    let own := match lookupNat slice s.clp.lntSlices with
      | some ns => ns
      | none => []
    let cands := match s.chart.lit, s.template v.template with
      | some c, some t => if v.cls = 0 then
          let r := c.poolRange 3 t.lntPool
          (List.range (r.2 - r.1)).map (· + r.1)
        else own
      | _, _ => own
    cands.find? fun n => !taken.contains n

/-- The contexts a GUARDED or SEALED slice reserves at its creation: the lowest numbers of its LNT_POOL free in every member rack
(R173, R247). -/
def State.reserveLantern (s : State) (id : Nat) : State :=
  match s.litView id, s.chart.lit with
  | some v, some c =>
    match s.template v.template with
    | some t =>
      if v.cls = 0 ∨ (lookupNat id s.clp.lntSlices).isSome then s
      else
        let r := c.poolRange 3 t.lntPool
        let taken := s.lntTaken id v.racks
        let ns := (((List.range (r.2 - r.1)).map (· + r.1)).filter fun n => !taken.contains n).take (4 * t.lntSeats)
        { s with clp := { s.clp with lntSlices := s.clp.lntSlices ++ [(id, ns)] } }
    | none => s
  | _, _ => s

/-! ### Pieces (R196) -/

/-- Packets of the nominal piece. -/
def qNominal (pieceMax bytes np : Nat) : Nat := max 1 (min (pieceMax / 4032) (ceilDiv bytes (np * 4032)))

/-- Pieces of a contribution. -/
def pieceCount (bytes q : Nat) : Nat := max 1 (ceilDiv bytes (q * 4032))

/-- rounds(q, f) on the busiest plane. -/
def rounds (bytes np q f : Nat) : Nat := ceilDiv (ceilDiv (pieceCount bytes q) np) f

/-- STRETCH in units of 1/256. -/
def stretchOf (bytes np qnom q f : Nat) : Nat := ceilDiv (256 * rounds bytes np q f) (rounds bytes np qnom 2)

/-- Bytes of piece n. -/
def pieceBytes (bytes q n : Nat) : Nat := min (q * 4032) (bytes - n * (q * 4032))

/-- The planes of a mask, ascending. -/
def planeList (mask : Nat) : List Nat := bitIndices mask 16

/-- The plane of piece n: the k-th of PLANES, k = n mod NP. -/
def planeOf (mask n : Nat) : Nat := (planeList mask).getD (n % max 1 (planeList mask).length) 0

/-- The plan has reduction points: an RS plan off the Lantern. -/
def hasPoints (oper alg : Nat) : Bool := oper == 1 && (alg == 2 || alg == 3)

/-- Bytes one packet of a piece needs at a point of a fan-in (R197). -/
def needPerPacket (d : PlanDesc) (fan : Nat) : Nat := if d.disc = 1 then 4 * packetElems d.format else fan * 4032

/-- The fan-in at a switch of a rack: the group's members there; a RING switch takes the larger of its steps (R197). -/
def switchFan (alg members : Nat) : Nat := if alg = 3 then max members 2 else members

/-- The pieces a plane carries, ascending. -/
def planePieces (planes bytes q p : Nat) : List Nat := (List.range (pieceCount bytes q)).filter fun n => planeOf planes n == p

/-! ### Memory (R173, R197, R219, R220) -/

/-- Lamp seats of a slice in this rack. -/
def State.lampSeats (s : State) (slice : Nat) : List Nat :=
  match s.slice slice with
  | some r => r.seats.flatMap fun q => if q.rack = s.myRack then q.lmp else []
  | none => []

/-- Lamp seats bound in this rack. -/
def State.boundSeats (s : State) : List Nat :=
  s.slc.table.flatMap fun r => r.seats.flatMap fun q => if q.rack = s.myRack then q.lmp else []

/-- The slice has regions of its own: it is GUARDED or SEALED. -/
def State.isFixed (s : State) (slice : Nat) : Bool :=
  match s.litView slice with
  | some v => v.cls != 0
  | none => false

/-- What the plans that share a slice's regions hold, but for one. -/
def State.heldBy (s : State) (slice except : Nat) (f : Plan → Nat) : Nat :=
  ((s.clp.plans.filter fun p => p.ctx != except && (if s.isFixed slice then p.slice == slice else !s.isFixed p.slice)).map f).sum

/-- Reduction memory a plan of the slice may take at each switch of this rack, in 64-byte units. -/
def State.switchRoom (s : State) (slice planes except : Nat) : Nat :=
  let total := (planeList planes).foldl (fun acc p => min acc (redmemUnits (s.switchOf s.myRack p))) (65535 * 1024)
  let part := if s.isFixed slice then total * (s.lampSeats slice).length / 64 else total - total * s.boundSeats.length / 64
  part - s.heldBy slice except (·.switchUnits)

/-- The Lamp seats whose regions a slice's plans use here: its own when it is GUARDED or SEALED, else those no slice is bound to (R173, R219). -/
def State.regionSeats (s : State) (slice : Nat) : List Nat :=
  if s.isFixed slice then s.lampSeats slice else (List.range 64).filter fun n => !s.boundSeats.contains n

/-- The regions of a memory of `total` units, 1/64 of it for a seat, that a slice's plans use here: one for each own seat; the runs of adjacent unbound
seats, which together are the shared region (R173, R219). -/
def State.regions (s : State) (slice total : Nat) : List (Nat × Nat) :=
  let seats := s.regionSeats slice
  if s.isFixed slice then seats.map fun n => (n * total / 64, (n + 1) * total / 64)
  else (seats.filter fun n => n = 0 ∨ !seats.contains (n - 1)).map fun n =>
    (n * total / 64, (((List.range (64 - n)).map (· + n)).find? fun k => !seats.contains k).getD 64 * total / 64)

/-- The lowest base at which a run of units meets none of the busy runs (base, length): 0 or the end of one of them. -/
def firstFit (busy : List (Nat × Nat)) (lo len : Nat) : Nat :=
  let fits := fun (b : Nat) => busy.all fun x => x.2 == 0 || b + len ≤ x.1 || x.1 + x.2 ≤ b
  let cands := (lo :: (busy.map fun x => x.1 + x.2).filter fun b => lo < b)
  (cands.filter fits).foldl (fun acc b => match acc with
    | none => some b
    | some a => some (min a b)) none |>.getD lo

/-- The lowest base in some regions (from, to), ascending, at which a run of units lies whole in one of them and meets none of the busy runs. -/
def fitIn (regions : List (Nat × Nat)) (busy : List (Nat × Nat)) (len : Nat) : Option Nat :=
  regions.findSome? fun r => let b := firstFit busy r.1 len
                             if b + len ≤ r.2 then some b else none

/-- Lamp-store units a plan of the slice may take. -/
def State.storeRoom (s : State) (slice except : Nat) : Nat :=
  (if s.isFixed slice then (s.lampSeats slice).length * 49152 else (64 - s.boundSeats.length) * 49152)
    - s.heldBy slice except (·.storeUnits) - (s.rst.lost.filter fun x => x.1 == 1).length

/-- Spill units a plan of the slice may take. -/
def State.spillRoom (s : State) (slice except : Nat) : Nat :=
  (if s.isFixed slice then (s.lampSeats slice).length * 8388608 else 268435456 - 33554432 * (s.rst.withdrawn - 1) + (64 - s.boundSeats.length) * 8388608)
    - s.heldBy slice except (·.spillUnits)

/-- 64-byte units of a number of bytes. -/
def units64 (bytes : Nat) : Nat := (bytes + 63) / 64

/-- Units a switch reserves for q and IN_FLIGHT. -/
def State.switchNeed (s : State) (d : PlanDesc) (alg q f : Nat) : Nat :=
  if hasPoints d.oper alg then f * units64 (q * needPerPacket d (switchFan alg (s.membersIn d.members s.myRack).length)) else 0

/-- Units the Keeper root reserves for q and IN_FLIGHT: an INNET RS plan over more than one rack (R197). -/
def rootNeed (d : PlanDesc) (alg np racks q f : Nat) : Nat :=
  if d.oper = 1 ∧ alg = 2 ∧ racks > 1 then f * np * units64 (q * needPerPacket d 2) else 0

/-- The largest q at most qnom whose need fits n times into the switches' room; qnom where the plan has no reduction point. -/
def State.fitSwitch (s : State) (d : PlanDesc) (alg planes qnom n : Nat) : Nat :=
  let per := needPerPacket d (switchFan alg (s.membersIn d.members s.myRack).length)
  if hasPoints d.oper alg then min qnom (s.switchRoom d.slice planes 2048 * 64 / (n * per)) else qnom

/-- Q2 (n = 2) and Q1 (n = 1) of this rack: the least over its points, the Keeper root among them (R187, R220). -/
def State.offerQ (s : State) (d : PlanDesc) (alg planes qnom racks n : Nat) : Nat :=
  let root := rootNeed d alg (planeList planes).length racks qnom n ≤ s.storeRoom d.slice 2048 + s.spillRoom d.slice 2048
  if root then s.fitSwitch d alg planes qnom n else 0

/-! ### Contexts (R181) -/

/-- The context a plan of the slice takes in this rack: the lowest free number of its pool that its class may draw; none when exhausted. -/
def State.freeCtx (s : State) (slice : Nat) : Option Nat :=
  match s.litView slice, s.chart.lit with
  | some v, some c =>
    match s.template v.template with
    | none => none
    | some t =>
      let r := c.poolRange 4 t.ctxPool
      let used := s.clp.plans.map (·.ctx) ++ (s.rst.lost.filter fun x => x.1 == 2).map (·.2)
      let free := ((List.range (r.2 - r.1)).map (· + r.1)).filter fun n => !used.contains n
      let mine := (s.clp.plans.filter fun p => p.slice == slice).length
      let owed := (s.slc.table.map fun e => match e.lay with
        | some l => if l.view.cls ≠ 0 ∧ l.view.racks.contains s.myRack then
            match s.template l.view.template with
            | some u => if u.ctxPool = t.ctxPool then u.maxCtx - (s.clp.plans.filter fun p => p.slice == e.id).length else 0
            | none => 0
          else 0
        | none => 0).sum
      let ok := if v.cls = 0 then owed < free.length else mine < t.maxCtx
      if ok then free.head? else none
  | _, _ => none

/-! ### What the Keeper writes (R203, R204, R208) -/

/-- A plan's record. -/
def State.plan (s : State) (ctx : Nat) : Option Plan := s.clp.plans.find? fun p => p.ctx == ctx

/-- The plan of an ordinal of a slice. -/
def State.planOf (s : State) (slice ordinal : Nat) : Option Plan :=
  s.clp.plans.find? fun p => p.slice == slice && p.ordinal == ordinal

/-- One plan's record, changed. -/
def State.onPlan (s : State) (ctx : Nat) (f : Plan → Plan) : State :=
  { s with clp := { s.clp with plans := s.clp.plans.map fun p => if p.ctx = ctx then f p else p } }

/-- Chain entries a member holds (R204). -/
def chainCount (d : PlanDesc) (alg q : Nat) : Nat := if alg = 1 ∨ d.oper = 3 ∨ d.oper = 4 then 1 else pieceCount d.bytes q

/-- EXPECT of a slot (R203, R227). -/
def expectBytes (d : PlanDesc) : Nat :=
  if d.oper = 1 then (if d.format = 11 then 4 * (d.bytes / max 1 d.m) else d.bytes / max 1 d.m) else 0

/-- A slot record of a member (R203). -/
def Plan.slotWords (p : Plan) (member state enable : Nat) : List Word :=
  let d := planDesc p.desc
  [fieldAt 0 2 state ||| fieldAt 2 3 d.oper ||| fieldAt 5 3 p.alg ||| fieldAt 8 8 d.slice ||| fieldAt 16 6 p.gen,
   fieldAt 0 16 (chainCount d p.alg p.q), fieldAt 0 16 p.chainBase ||| fieldAt 16 16 p.groupBase,
   fieldAt 0 14 member ||| fieldAt 16 14 d.m, w32 d.bytes, w32 (if d.tile = 0 then d.bytes else d.tile), fieldAt 0 23 (p.q * 4032),
   w32 enable, loHalf d.src, hiHalf d.src, loHalf d.dst, hiHalf d.dst, loHalf d.cpl, hiHalf d.cpl, w32 d.stride, w32 (expectBytes d)]

/-- A member's chain entries (R204): its own EN, the consumer's context. The spec gives an XC_SWEEP entry no THRESH: 1 is the model's choice (DESIGN
CHOICE, log entry 112). -/
def Plan.chainWords (p : Plan) (member : Nat) : List Word :=
  let d := planDesc p.desc
  let en := d.members.getD member 0
  let tile := if d.tile = 0 then d.bytes else d.tile
  if d.oper = 3 then [fieldAt 0 16 1 ||| fieldAt 16 4 3, fieldAt 20 11 d.slot, 0, 0]
  else if d.oper = 4 then
    [fieldAt 0 16 1 ||| fieldAt 16 4 2,
     fieldAt 0 14 en ||| fieldAt 16 4 (planeOf p.planes 0) ||| fieldAt 20 11 (p.lnt.getD p.ctx), 0, 0]
  else if p.alg = 1 then
    [fieldAt 0 16 (ceilDiv d.bytes (max 1 tile)) ||| fieldAt 16 4 1, fieldAt 0 14 en ||| fieldAt 20 11 (p.lnt.getD 0), 0, 0]
  else (List.range (pieceCount d.bytes p.q)).flatMap fun n =>
    [fieldAt 0 16 (ceilDiv (n * (p.q * 4032) + pieceBytes d.bytes p.q n) (max 1 tile)) ||| fieldAt 16 4 1,
     fieldAt 0 14 en ||| fieldAt 16 4 (planeOf p.planes n) ||| fieldAt 20 11 p.ctx, w32 (n * (p.q * 4032)), fieldAt 0 16 n]

/-- The group table (R203). -/
def Plan.groupWords (p : Plan) : List Word := memberWords (planDesc p.desc).members

/-- A remap as two words (R451). -/
def remapWords (r : List Nat) : List Word := [w32 (packBits 4 (r.take 8)), w32 (packBits 4 (r.drop 8))]

/-- The first member of a rack: its anchor (R195). -/
def State.anchorOf (s : State) (d : PlanDesc) (r : Nat) : Nat :=
  match s.membersIn d.members r with
  | x :: _ => d.members.getD x.1 0
  | [] => 0

/-- A switch programme of this rack (R208). -/
def State.programmeWords (s : State) (p : Plan) (plane state : Nat) : List Word :=
  let d := planDesc p.desc
  let racks := s.memberRacks d.members
  let sx := s.axes.1
  let me := s.myRack
  let row := racks.filter fun r => r / sx == me / sx
  let col := racks.filter fun r => r % sx == me % sx
  let here := s.membersIn d.members me
  let pieces := planePieces p.planes d.bytes p.q plane
  let ring := p.alg = 3
  let mode := if ring then 2 else if racks.length > 1 then 1 else 0
  let ctxAt := fun r => (lookupNat r p.ctxs).getD p.ctx
  let up := if ring then s.anchorOf d (nextIn row me) else if mode = 1 then (mkAddr 2 s.rx s.ry 2).toNat else 0
  [fieldAt 0 2 state ||| fieldAt 2 3 d.oper ||| fieldAt 5 3 p.alg ||| fieldAt 8 4 d.format ||| fieldAt 12 1 d.disc ||| fieldAt 13 1 d.round
     ||| fieldAt 14 2 p.inFlight ||| fieldAt 16 8 d.slice ||| fieldAt 24 6 p.gen,
   fieldAt 0 8 here.length ||| fieldAt 8 4 (if ring then row.length - 1 else 0) ||| fieldAt 12 4 (if ring then col.length - 1 else 0)
     ||| fieldAt 16 16 pieces.length,
   fieldAt 0 16 p.q, fieldAt 0 23 (match pieces.getLast? with
     | some n => pieceBytes d.bytes p.q n
     | none => 0),
   fieldAt 0 24 p.memBase,
   fieldAt 0 16 up ||| fieldAt 16 2 mode ||| fieldAt 18 11 (if ring then ctxAt (nextIn row me) else if mode = 1 then p.ctx else d.slot),
   (if ring then fieldAt 0 16 (s.anchorOf d (nextIn col me)) ||| fieldAt 16 11 (ctxAt (nextIn col me)) else 0),
   fieldAt 0 16 p.groupBase ||| fieldAt 16 14 (if d.oper = 1 then d.bytes / max 1 d.m / 64 else 0), w32 d.seed, w32 d.bytes, 0, 0]

/-- Whether the plan puts programmes into switches: RS, AG and barrier plans off the Lantern. -/
def usesSwitches (oper alg : Nat) : Bool := oper != 3 && (alg == 2 || alg == 3)

/-- Units of group memory of a plan. -/
def Plan.groupUnits (p : Plan) : Nat := units64 (2 * (planDesc p.desc).m)

/-- A plan's places in this rack's agents: chain, group and reduction memory, first fit among the plans that share the agents (log
entry 31). -/
def State.placePlan (s : State) (p : Plan) : Plan :=
  let d := planDesc p.desc
  let here := s.membersIn d.members s.myRack
  let shares := fun (q : Plan) => (s.membersIn (planDesc q.desc).members s.myRack).any fun x => here.any fun y => y.2 == x.2
  let others := s.clp.plans.filter fun q => q.ctx != p.ctx
  let chain := firstFit ((others.filter shares).map fun q => (q.chainBase, chainCount (planDesc q.desc) q.alg q.q)) 0
    (chainCount d p.alg p.q)
  let group := firstFit (others.map fun q => (q.groupBase, q.groupUnits)) 0 p.groupUnits
  let total := (planeList p.planes).foldl (fun acc k => min acc (redmemUnits (s.switchOf s.myRack k))) (65535 * 1024)
  let mem := fitIn (s.regions d.slice total) (others.map fun q => (q.memBase, q.switchUnits)) p.switchUnits
  { p with chainBase := chain, groupBase := group, memBase := mem.getD total }

/-- An agent of the rack lacks memory for a plan: slots, chain or group memory at a member; a programme, or a run of reduction memory in the slice's
regions, at a switch (R173, R184, 0x0B). -/
def State.lacksMemory (s : State) (p : Plan) : Bool :=
  let d := planDesc p.desc
  ((usesSwitches d.oper p.alg && (planeList p.planes).any fun k => let a := s.switchOf s.myRack k
      agentProgrammes a ≤ p.ctx || (p.switchUnits != 0 && redmemUnits a < p.memBase + p.switchUnits))
    || (s.membersIn d.members s.myRack).any fun x =>
    let a := s.epAddr x.2
    agentSlots a ≤ d.slot || agentChain a < p.chainBase + chainCount d p.alg p.q || agentGroup a < p.groupBase + p.groupUnits)

/-! ### Counts for telemetry (R318, R327) -/

/-- A slice's counts of the flash in progress, changed. -/
def State.onTelSlice (s : State) (slice : Nat) (f : TelSlice → TelSlice) : State :=
  let c := s.tel.counts
  let c := if c.any fun x => x.slice == slice then c else c ++ [{ slice := slice, bytes := 0, members := [], launches := 0, agxc := 0 }]
  { s with tel := { s.tel with counts := c.map fun x => if x.slice = slice then f x else x } }

/-- A launch of a plan completed in this rack. -/
def State.countLaunch (s : State) (p : Plan) : State :=
  let d := planDesc p.desc
  let n := if d.oper = 2 ∨ d.oper = 3 then (s.membersIn d.members s.myRack).length else 0
  s.onTelSlice p.slice fun c => { c with launches := c.launches + 1, agxc := c.agxc + n }

/-- Bytes a member dropped for overflow (R201). -/
def State.countDrop (s : State) (slice member bytes : Nat) : State :=
  s.onTelSlice slice fun c => { c with bytes := c.bytes + bytes, members := if c.members.contains member then c.members else member :: c.members }

end Sys2Proof.Machine
end

