-- ==== Sys2Proof/Machine/ReserveOps.lean ====
section
/-! DEFINITION. Machine/ReserveOps.lean: spare units brought in and reserves that run out (R411, R412). -/
namespace Sys2Proof.Machine

/-- Spares of a reserve class, in the order of R412. -/
def reserveTotal (c : Nat) : Nat := [24, 3, 8, 2, 4, 2, 4, 2048, 64].getD c 0

/-- USED of a reserve class. -/
def reserveUsed (c : Nat) : Fld := { off := 0xF0040 + 4 * (c % 9), lo := 16, width := 16 }

/-- A spare of a class takes a retired unit's place: EV_RESERVE, USED, RESERVE, and RESERVE_OUT when it was the last (R411, R412). -/
def State.reserve (s : State) (c retired spare : Nat) : State :=
  let s := (s.logOwn 0x054 0x0E 0 [fieldAt 0 4 c ||| fieldAt 8 24 retired, w32 spare]).count (reserveUsed c) 1
  let s := s.raise Fld.RST_INT_STATUS_RESERVE
  s.raiseIf (s.getF (reserveUsed c) ≥ reserveTotal c) Fld.RST_INT_STATUS_RESERVE_OUT

/-- A unit retires and no spare of its class is left (R412). -/
def State.reserveOut (s : State) : State := s.raise Fld.RST_INT_STATUS_RESERVE_OUT

end Sys2Proof.Machine
end

