-- ==== Sys2Proof/Machine/CollOps.lean ====
section
/-! DEFINITION. Machine/CollOps.lean: the Keeper root of a plan: piece places, maps, lamp units, results, releases (R192, R198 to R200, R215 to
R241, R264 to R266). -/
namespace Sys2Proof.Machine

/-! ### The piece prefix (R200) -/

/-- The piece prefix of a packet. -/
structure PiecePrefix where
  piece   : Nat
  step    : Nat
  last    : Bool
  release : Bool
  launch  : Nat
  member  : Nat
  offset  : Nat
  bytes   : Nat
  blockLen : Nat
  dropped : Nat
  clean   : Bool
deriving DecidableEq, Repr

/-- The prefix from a payload. -/
def piecePrefix (w : List Word) : PiecePrefix :=
  let f := fun (i lo n : Nat) => bitsOf (wordAt w i) lo n
  { piece := f 0 0 16, step := f 0 16 8, last := bitAt (wordAt w 0) 24, release := bitAt (wordAt w 0) 25, launch := f 1 0 16, member := f 1 16 14,
    offset := f 2 0 32, bytes := f 3 0 13, blockLen := f 4 0 32, dropped := f 5 0 32,
    clean := f 0 26 6 == 0 && f 1 30 2 == 0 && f 3 13 19 == 0 && f 3 0 13 ≤ 4032 && (List.range 10).all fun i => wordAt w (6 + i) == 0 }

/-- The words of a prefix. -/
def PiecePrefix.words (p : PiecePrefix) : List Word :=
  [fieldAt 0 16 p.piece ||| fieldAt 16 8 p.step ||| fieldAt 24 1 (b2n p.last) ||| fieldAt 25 1 (b2n p.release),
   fieldAt 0 16 p.launch ||| fieldAt 16 14 p.member, w32 p.offset, fieldAt 0 13 p.bytes, w32 p.blockLen, w32 p.dropped]
    ++ List.replicate 10 0

/-- The data words that follow the prefix. -/
def prefixData (w : List Word) : List Word := (w.drop 16).take ((bitsOf (wordAt w 3) 0 13 + 3) / 4)

/-! ### Launch numbers (R205, R266) -/

/-- How far a launch lies behind another, modulo 65,536. -/
def launchBehind (newest l : Nat) : Nat := (newest + 65536 - l) % 65536

/-- The done map of a launch. -/
def Plan.doneOf (p : Plan) (l : Nat) : List Nat := (lookupNat l p.done).getD []

/-- A launch number is seen: a newer one becomes the newest, and done maps more than 3 behind it are cleared (R266). -/
def Plan.seeLaunch (p : Plan) (l : Nat) : Plan :=
  let ahead := (l + 65536 - p.newest) % 65536
  if ahead = 0 ∨ ahead ≥ 32768 then p
  else { p with newest := l, launches := p.launches + ahead, done := p.done.filter fun x => launchBehind l x.1 ≤ 3 }

/-- A piece has completed: the plan does not stall, and a STALL it reported is not sent again (R276, R286). -/
def Plan.moved (p : Plan) : Plan := { p with quiet := 0, stallSent := false, reqs := p.reqs.filter fun ws => bitsOf (wordAt ws 1) 0 4 != 4 }

/-- A packet of a piece is late: its done bit is set, or its launch is more than 3 below the newest seen (R266). -/
def Plan.late (p : Plan) (l piece : Nat) : Bool :=
  let b := launchBehind p.newest l
  (3 < b && b < 32768) || (p.doneOf l).contains piece

/-! ### The parts of a piece's sums -/

/-- Sums leave in the accumulator format: ARRIVAL, and INT32 for INT8S32 (R228, R229). -/
def accSums (d : PlanDesc) : Bool := d.disc == 1 || d.format == 11

/-- The byte of a piece's sums that a byte of its contribution stands at. -/
def sumByte (d : PlanDesc) (rel : Nat) : Nat := if accSums d then 4 * elemsIn d.format rel else rel

/-- A part of a piece's sums: a sum packet, 1,008 accumulators or one data packet, cut where the rack that owns its bytes changes (R192, R228,
R229): its packet, its first byte and its bytes within the sums, its first element within the contribution, its owner's rack. -/
structure SumPart where
  pkt   : Nat
  off   : Nat
  bytes : Nat
  elem  : Nat
  owner : Nat
deriving DecidableEq, Repr

/-- The runs of a piece's bytes that one rack owns: the first byte within the piece, the rack (R178, R192). -/
def State.ownerRuns (s : State) (d : PlanDesc) (base bytes : Nat) : List (Nat × Nat) :=
  let shard := max 1 (d.bytes / max 1 d.m)
  let first := base / shard
  let rack := fun (j : Nat) => s.rackOfEn (d.members.getD j 0)
  (List.range ((base + bytes - 1) / shard - first + 1)).filterMap fun i =>
    if i = 0 then some (0, rack first)
    else if rack (first + i) = rack (first + i - 1) then none else some ((first + i) * shard - base, rack (first + i))

/-- The parts of a piece's sums, in order. -/
def State.sumParts (s : State) (d : PlanDesc) (q piece : Nat) : List SumPart :=
  let bytes := pieceBytes d.bytes q piece
  let base := piece * (q * 4032)
  let total := sumByte d bytes
  let runs := s.ownerRuns d base bytes
  (List.range (ceilDiv total 4032)).flatMap fun k =>
    runs.zipIdx.filterMap fun x =>
      let lo := max (4032 * k) (sumByte d x.1.1)
      let hi := min (min total (4032 * (k + 1))) (match runs[x.2 + 1]? with
        | some y => sumByte d y.1
        | none => total)
      if lo < hi then
        some { pkt := k, off := lo, bytes := hi - lo, elem := elemsIn d.format base + (if accSums d then lo / 4 else elemsIn d.format lo), owner := x.1.2 }
      else none

/-- The parts of a piece of a plan. -/
def State.pieceParts (s : State) (p : Plan) (piece : Nat) : List SumPart := s.sumParts (planDesc p.desc) p.q piece

/-- The ring of a part starts at the rack after its owner's: whether it needs a partial from the ring here (R192). -/
def State.needsRing (s : State) (p : Plan) (x : SumPart) : Bool := nextIn p.ring x.owner != s.myRack

/-- Whether a part goes on to the next Keeper from here. -/
def State.goesOn (s : State) (x : SumPart) : Bool := x.owner != s.myRack

/-- Whether a part completes here. -/
def State.endsHere (s : State) (x : SumPart) : Bool := x.owner == s.myRack

/-- The words of a run of bytes of data; offsets and lengths are whole words. -/
def wordsIn (ws : List Word) (off bytes : Nat) : List Word := (ws.drop (off / 4)).take ((bytes + 3) / 4)

/-! ### Places -/

/-- The place of a launch and piece. -/
def Plan.place (p : Plan) (launch piece : Nat) : Option Place := p.places.find? fun x => x.launch == launch && x.piece == piece

/-- One place, changed. -/
def State.onPlace (s : State) (ctx launch piece : Nat) (f : Place → Place) : State :=
  s.onPlan ctx fun p => { p with places := p.places.map fun x => if x.launch = launch ∧ x.piece = piece then f x else x }

/-- Runs of the lamp store that are taken: the places of this rack's plans, the units withdrawn (R219, R415). -/
def State.storeBusy (s : State) : List (Nat × Nat) :=
  (s.clp.plans.flatMap fun p => (p.places.filter fun x => !x.spill).map fun x => (x.base, x.units))
    ++ (s.rst.lost.filter fun x => x.1 == 1).map fun x => (x.2, 1)

/-- A place for a launch and piece, made when it is the first packet: it takes the lowest free number; within the plan's share of the lamp store it lies
whole in one region of its slice, else in the spill area (R199, R219, R220). -/
def State.openPlace (s : State) (ctx launch piece plane : Nat) : State :=
  s.onPlan ctx fun p =>
    if (p.place launch piece).isSome then p
    else
      let d := planDesc p.desc
      let n := ((List.range (p.places.length + 1)).find? fun i => !(p.places.any fun x => x.slot == i)).getD 0
      let need := if d.oper = 1 then units64 (p.q * needPerPacket d 2) else 0
      let base := if n < p.storeUnits / max 1 need then fitIn (s.regions p.slice 3145728) s.storeBusy need else none
      let x : Place := { slot := n, spill := need != 0 && base.isNone, base := base.getD 0, units := need, launch := launch, piece := piece, plane := plane,
                         step := 0, ins := [], sums := [], map := [], lasts := [], senders := [], phase := .gather, out := [] }
      { p with places := p.places ++ [x] }

/-! ### Lamps (R215, R217, R238 to R240) -/

/-- The working lamp whose place a lamp takes: itself, or the lamp a spare replaces. -/
def State.lampPlace (s : State) (lamp : Nat) : Nat := (lookupNat lamp s.lmp.spares).getD lamp

/-- The pool that holds a working lamp's place in the lit chart (R215). -/
def State.lampPool (s : State) (lamp : Nat) : Option Nat :=
  match s.chart.lit with
  | some c => (List.range 8).find? fun n => let r := c.poolRange 2 n
                                            r.1 ≤ s.lampPlace lamp && s.lampPlace lamp < r.2
  | none => none

/-- A lamp serves. -/
def State.lampServes (s : State) (lamp : Nat) : Bool :=
  !s.lmp.retired.contains lamp && (lamp < 32 || (s.lmp.spares.any fun x => x.1 == lamp))

/-- The lamp pool a slice's units run in (R170). -/
def State.lampPoolOf (s : State) (slice : Nat) : Option Nat :=
  match s.litView slice with
  | some v => (s.template v.template).map (·.lmpPool)
  | none => none

/-- A pool of the lit chart is fixed-slot: its CLASSES include GUARDED or SEALED (R170). -/
def State.fixedSlot (s : State) (resource pool : Nat) : Bool :=
  match s.chart.lit with
  | some c => c.pools.any fun p => p.resource == resource && p.pool == pool && (p.classes.testBit 1 || p.classes.testBit 2)
  | none => false

/-- The seat that owns the slot an engine's rotation is in; none for a shared slot: the rotation starts at the flash boundary and repeats, a slot lasts
its number of core cycles (R77, R170). -/
def State.slotSeat (s : State) (engine : Nat) : Option Nat :=
  let r := match s.chart.lit with
    | some c => rotationOf c.rotations engine
    | none => v2Rotation engine
  let owner := r.owners.getD (s.tim.offset / 128 / max 1 r.cycles % max 1 r.owners.length) 0xFF
  if owner ≤ 0x3F then some owner else none

/-- The slice bound in this rack to the seat that owns the present slot of the Lamp array's rotation (R170, R172). -/
def State.lampSlotSlice (s : State) : Option Nat :=
  (s.slotSeat 1).bind fun n => (s.slc.table.find? fun r => r.seats.any fun q => q.rack == s.myRack && q.lmp.contains n).map (·.id)

/-- The present slot of the Lamp array serves a slice: always on a free pool; on a fixed-slot pool the slice of a bound seat only, in other slots the
OPEN slices and slice 0x00 (R170). -/
def State.lampSlotServes (s : State) (slice : Nat) : Bool :=
  if !(s.lampPoolOf slice).any (s.fixedSlot 2) then true
  else match s.lampSlotSlice with
    | some n => n == slice
    | none => !s.isFixed slice

/-- The present slot lets the spill path serve a slice: a bound seat's slice only in its slots, the OPEN slices and slice 0x00 in the others (R221). -/
def State.spillServes (s : State) (slice : Nat) : Bool :=
  match s.lampSlotSlice with
  | some n => n == slice
  | none => !s.isFixed slice

/-- Spill traffic at its cap, which throttle level 2 halves, in 64-byte units a flash (R37, R221, R500). -/
def State.spillCap (s : State) : Nat := (if s.getF Fld.PWR_STATE_LEVEL = 2 then 21875 else 43750) * s.tim.periodUs

/-- So much spill traffic still fits under the flash's cap (R37, R221). -/
def State.spillFits (s : State) (units : Nat) : Bool := s.lmp.spillUnits + units ≤ s.spillCap

/-- Spill traffic waits at the cap (R221). -/
def State.holdSpill (s : State) : State := { s with lmp := { s.lmp with spillHeld := true } }

/-- IN_SERVICE of LMP_POOLn (R245). -/
def lampPoolFld (n : Nat) : Fld := { off := Reg.LMP_POOL n, lo := 8, width := 6 }

/-- LMP_LAMPS, LMP_RESERVE and LMP_POOLn follow the lamps (R244). -/
def State.showLamps (s : State) : State :=
  let on := (List.range 34).filter s.lampServes
  let s := (s.setReg Reg.LMP_LAMPS_LO (w32 (maskOf (on.filter (· < 32))))).setF Fld.LMP_LAMPS_HI_IN_SERVICE (maskOf (on.filterMap fun n => if n < 32 then none else some (n - 32)))
  let s := (s.setF Fld.LMP_RESERVE_SPARES_USED s.lmp.spares.length).setF Fld.LMP_RESERVE_RETIRED s.lmp.retired.length
  (List.range 8).foldl (fun s n => s.setF (lampPoolFld n) (on.filter fun l => s.lampPool l == some n).length) s

/-- A retired lamp's place is taken by the lowest spare left (R215, R238). -/
def State.bringLamp (s : State) (lamp : Nat) : State × Nat :=
  match [32, 33].find? fun (n : Nat) => !s.lmp.retired.contains n && !(s.lmp.spares.any fun (x : Nat × Nat) => x.1 == n) with
  | some n =>
    let s := { s with lmp := { s.lmp with spares := (s.lmp.spares.filter fun (x : Nat × Nat) => x.1 != lamp) ++ [(n, s.lampPlace lamp)] } }
    (s.reserve 3 lamp n, n)
  | none => (s.reserveOut.raise Fld.LMP_INT_STATUS_NO_SPARE, 0x3F)

/-- A lamp retires for a cause (0 recompute, 1 soft, 2 self-test); a spare comes in unless AUTO_SPARE withholds it (R238 to R240, R412). -/
def State.retireLamp (s : State) (lamp cause : Nat) : State :=
  if s.lmp.retired.contains lamp then s
  else
    let pool := s.lampPool lamp
    let s := { s with lmp := { s.lmp with retired := s.lmp.retired ++ [lamp], soft := s.lmp.soft.filter fun x => x.1 != lamp } }
    let r := if s.flag Fld.LMP_CTRL_AUTO_SPARE then s.bringLamp lamp else (s, 0x3F)
    let s := (r.1.logOwn 0x031 0x07 0 [fieldAt 0 6 lamp ||| fieldAt 8 6 r.2 ||| fieldAt 16 2 cause]).raise Fld.LMP_INT_STATUS_LAMP_RETIRED
    let empty := match pool with
      | some n => !((List.range 34).any fun l => s.lampServes l && s.lampPool l == some n)
      | none => false
    (s.raiseIf empty Fld.LMP_INT_STATUS_POOL_EMPTY).showLamps

/-! ### Sending -/

/-- The Keeper's own packet toward a party of its rack through switch p, on port p (R192, R195). -/
def State.sendDown (s : State) (p : Plan) (plane : Nat) (dest : Addr) (svc opkind optag : Nat) (ws : List Word) (launch piece : Nat) : State :=
  s.sendFlow plane dest svc (BitVec.ofNat 8 p.slice) (BitVec.ofNat 6 p.gen) opkind optag ws p.ctx launch piece

/-- A packet to the Keeper of another member rack (R192, R251); with no path it waits in the flow of port 0's queue for its resend. -/
def State.sendRing (s : State) (p : Plan) (r svc opkind : Nat) (ws : List Word) (launch piece : Nat) : State :=
  s.sendFlow ((s.keeperPort r).getD 0) (s.keeper2 r) svc (BitVec.ofNat 8 p.slice) (BitVec.ofNat 6 p.gen) opkind ((lookupNat r p.ctxs).getD 0) ws p.ctx launch piece

/-- A launch number that no piece of a plan uses: releases are not tied to a place. -/
def noLaunch : Nat := 65536

/-- The release of a piece place to its senders (R198). -/
def State.sendReleases (s : State) (p : Plan) (x : Place) : State :=
  let w : PiecePrefix := { piece := x.piece, step := 4, last := false, release := true, launch := x.launch, member := 0x3FFF, offset := 0, bytes := 0,
                           blockLen := 0, dropped := 0, clean := true }
  x.senders.foldl (fun s a =>
    if addrKind a.1 = 2 then s.sendRing p (s.rackOf a.1) 3 0x21 w.words noLaunch 0
    else s.sendDown p x.plane a.1 3 0x21 a.2 w.words noLaunch 0) s

/-- The results of a piece's bytes that members of this rack own, packet by packet: member, offset, words, bytes, last (R192, R230). -/
def State.resultPackets (s : State) (d : PlanDesc) (q piece : Nat) (res : List Word) : List (Nat × Nat × List Word × Nat × Bool) :=
  let scale := if d.format = 11 then 4 else 1
  let bytes := pieceBytes d.bytes q piece
  let shard := max 1 (d.bytes / max 1 d.m)
  let base := piece * (q * 4032)
  (s.membersIn d.members s.myRack).flatMap fun x =>
    let lo := max base (x.1 * shard) - base
    let hi := min (base + bytes) ((x.1 + 1) * shard) - base
    if hi ≤ lo ∨ base + bytes ≤ x.1 * shard then []
    else
      let lo := scale * lo
      let hi := scale * hi
      let ks := (List.range (ceilDiv (scale * bytes) 4032)).filter fun k => lo < 4032 * (k + 1) && 4032 * k < hi
      ks.map fun k =>
        let a := max lo (4032 * k)
        let b := min hi (4032 * (k + 1))
        (x.1, a, wordsIn res a (b - a), b - a, k + 1 == ceilDiv hi 4032)

/-- A piece's results in the data format (R228, R230), 0 where another rack owns them, and how many elements saturated in the final rounding. -/
def State.finalSums (s : State) (d : PlanDesc) (q mine : Nat) (x : Place) (sums : List Word) : List Word × Nat :=
  let bytes := pieceBytes d.bytes q x.piece
  let base := x.piece * (q * 4032)
  let r : Rounding := { stoch := d.round == 1, seed := d.seed, launch := x.launch, step := x.step }
  let runs := s.ownerRuns d base bytes
  let outs := runs.zipIdx.map fun y =>
    let hi := match runs[y.2 + 1]? with
      | some z => z.1
      | none => bytes
    let ws := wordsIn sums (sumByte d y.1.1) (sumByte d hi - sumByte d y.1.1)
    if y.1.2 ≠ mine then (List.replicate ((if d.format = 11 then 4 else 1) * (hi - y.1.1) / 4) 0, 0)
    else if d.disc = 1 then finalRound d.format r (elemsIn d.format (base + y.1.1)) ws
    else (ws, 0)
  (outs.flatMap (·.1), (outs.map (·.2)).sum)

/-- The piece's place is free: its done bit is set, its senders are released, a waiting piece may take its credits (R198, R266). -/
def State.freePlace (s : State) (ctx launch piece : Nat) : State :=
  match s.plan ctx with
  | none => s
  | some p =>
    match p.place launch piece with
    | none => s
    | some x =>
      let s := s.onPlan ctx fun p => { p.moved with
        places := p.places.filter fun y => !(y.launch == launch && y.piece == piece),
        done := insertNat launch (piece :: p.doneOf launch) p.done }
      let d := planDesc p.desc
      let s := if (p.doneOf launch).length + 1 = pieceCount d.bytes p.q then s.countLaunch p else s
      s.sendReleases p x

/-- Rounding units of a piece that completes here: ROUND over 1,008 accumulators, ENCODE over 16 blocks (R217, R230). -/
def State.roundUnits (s : State) (p : Plan) (x : Place) : List LampUnit :=
  let d := planDesc p.desc
  let parts := s.pieceParts p x.piece
  if d.disc ≠ 1 ∨ d.format = 1 ∨ isIntFmt d.format ∨ !parts.any s.endsHere then []
  else
    let unit := fun (kind i : Nat) => ({ kind := kind, ctx := p.ctx, launch := x.launch, piece := x.piece, idx := i, rerun := false } : LampUnit)
    if isBlockFmt d.format then (List.range (ceilDiv ((parts.filter s.endsHere).map (·.bytes)).sum 2048)).map (unit 3)
    else (parts.zipIdx.filter fun k => s.endsHere k.1).map fun k => unit 2 k.2

/-- Units that wait for a piece. -/
def State.unitsOf (s : State) (ctx launch piece : Nat) : List LampUnit :=
  s.lmp.units.filter fun u => u.ctx == ctx && u.launch == launch && u.piece == piece

/-- A part's sum; none while none stands (R342). -/
def State.sumOf (s : State) (x : Place) (idx : Nat) : Option (List Word) := (lookupNat idx x.sums).map s.dataOf

/-- A part's sum written into its place; in the spill area it takes fresh pages, and its inputs' pages are free (R218, R220). -/
def State.keepSum (s : State) (ctx slice launch piece idx : Nat) (ws : List Word) : State :=
  if ((s.plan ctx).bind fun p => p.place launch piece).any (·.spill) then
    let r := s.spillData slice ws
    r.1.onPlace ctx launch piece fun y => { y with
      sums := insertNat idx r.2 y.sums, ins := y.ins.map fun i => if i.idx = idx then { i with data := .words [] } else i }
  else s.onPlace ctx launch piece fun y => { y with sums := insertNat idx (.words ws) y.sums }

/-- A part's sum stands: every input it needs has come, and no unit of it waits (R228, R229). -/
def State.partDone (s : State) (p : Plan) (x : Place) (k : SumPart × Nat) : Bool :=
  (x.ins.filter fun i => i.idx == k.2).length ≥ (if s.needsRing p k.1 then 2 else 1) && (lookupNat k.2 x.sums).isSome
    && !((s.unitsOf p.ctx x.launch x.piece).any fun u => u.idx == k.2 && u.kind ≤ 1)

/-- The elements of a step's output that are NaN (R232). -/
def outNans (d : PlanDesc) (acc : Bool) (ws : List Word) : Nat :=
  let fmt := if d.format = 11 then 10 else d.format
  if isIntFmt fmt then 0 else if acc then nanCount 1 ws else nanCount fmt (if isBlockFmt fmt then granules ws else ws)

/-- Parts whose sums stand go on to the next Keeper, once the piece holds a piece credit of its plane (R192, R198); LAST is set on the last one. -/
def State.sendParts (s : State) (p : Plan) (x : Place) : State :=
  let d := planDesc p.desc
  let on := (s.pieceParts p x.piece).zipIdx.filter fun k => s.goesOn k.1
  let go := on.filter fun k => !x.out.contains k.2 && s.partDone p x k
  let holds := p.credits.any fun c => c.2.1 == x.launch && c.2.2 == x.piece
  if go.isEmpty then s
  else if !holds && p.inFlight ≤ (p.credits.filter fun c => c.1 == x.plane).length then s.onPlace p.ctx x.launch x.piece fun y => { y with phase := .credit }
  else
    let s := s.onPlan p.ctx fun q => { q with credits := if holds then q.credits else q.credits ++ [(x.plane, x.launch, x.piece)] }
    let s := s.onPlace p.ctx x.launch x.piece fun y => { y with phase := .gather, out := y.out ++ go.map (·.2) }
    let left := (on.filter fun k => !x.out.contains k.2).length
    let s := s.countReg Reg.LMP_NAN_COUNT ((go.map fun k => outNans d (d.disc = 1) ((s.sumOf x k.2).getD [])).sum)
    go.foldl (fun s k =>
      let h : PiecePrefix := { piece := x.piece, step := 3, last := some k == go.getLast? && go.length == left, release := false, launch := x.launch,
                               member := 0x3FFF, offset := k.1.off, bytes := k.1.bytes, blockLen := 0, dropped := 0, clean := true }
      s.sendRing p (nextIn p.ring s.myRack) 2 0x20 (h.words ++ (s.sumOf x k.2).getD []) x.launch x.piece) s

/-- The mark in `out` that a piece's rounding units have been given to the lamps. -/
def roundMark : Nat := 1000000

/-- The parts that complete here go to their owners once all of them stand and are rounded (R192, R218, R230). -/
def State.sendOwners (s : State) (p : Plan) (x : Place) : State :=
  let d := planDesc p.desc
  let parts := (s.pieceParts p x.piece).zipIdx
  let mine := parts.filter fun k => s.endsHere k.1
  if mine.isEmpty ∨ (mine.any fun k => x.out.contains k.2) ∨ !(mine.all (s.partDone p x)) then s
  else
    let us := if x.out.contains roundMark then [] else s.roundUnits p x
    if !us.isEmpty then
      { s.onPlace p.ctx x.launch x.piece fun y => { y with out := roundMark :: y.out } with lmp := { s.lmp with units := s.lmp.units ++ us } }
    else if (s.unitsOf p.ctx x.launch x.piece).any fun u => 2 ≤ u.kind then s
    else
      let sums := parts.flatMap fun k => (s.sumOf x k.2).getD (List.replicate (k.1.bytes / 4) 0)
      let fin := s.finalSums d p.q s.myRack x sums
      let outs := s.resultPackets d p.q x.piece fin.1
      let s := (s.countReg Reg.LMP_NAN_COUNT (outs.map fun o => outNans d false o.2.2.1).sum).countReg Reg.LMP_SAT_COUNT fin.2
      let s := s.onPlace p.ctx x.launch x.piece fun y => { y with out := y.out ++ mine.map (·.2) }
      outs.foldl (fun s o =>
        let idx := (s.endpoint (d.members.getD o.1 0)).getD 0 % 128
        let h : PiecePrefix := { piece := x.piece, step := 4, last := o.2.2.2.2, release := false, launch := x.launch, member := 0x3FFF, offset := o.2.1,
                                 bytes := o.2.2.2.1, blockLen := 0, dropped := 0, clean := true }
        s.sendDown p x.plane (s.epAddr idx) 3 0x21 d.slot (h.words ++ o.2.2.1) x.launch x.piece) s

/-- A piece goes on as its parts stand: to the next Keeper, to the owners of this rack; with everything sent and acknowledged its place is free
(R192, R218, R266). A frozen plan sends nothing (R281). -/
def State.advancePiece (s : State) (ctx launch piece : Nat) : State :=
  let at_ := fun (s : State) => (s.plan ctx).bind fun p => (p.place launch piece).map fun x => (p, x)
  match at_ s with
  | none => s
  | some (p, x) =>
    if p.frozen.isSome ∨ x.phase = .send then s
    else
      let s := s.sendParts p x
      let s := match at_ s with
        | some (p, x) => s.sendOwners p x
        | none => s
      match at_ s with
      | none => s
      | some (p, x) =>
        if (s.pieceParts p piece).zipIdx.all fun k => x.out.contains k.2 then
          let s := s.onPlace ctx launch piece fun y => { y with phase := .send }
          if s.outstanding ctx launch piece then s else s.freePlace ctx launch piece
        else s

/-- An input packet stands in its place: a COPY for the first, a unit for the second (R217, R228, R229). -/
def State.stageSum (s : State) (p : Plan) (launch piece idx : Nat) : State :=
  let d := planDesc p.desc
  match (s.plan p.ctx).bind fun p => p.place launch piece with
  | none => s
  | some x =>
    let ins := x.ins.filter fun i => i.idx == idx
    let unit : LampUnit := { kind := if d.disc = 1 then 1 else 0, ctx := p.ctx, launch := launch, piece := piece, idx := idx, rerun := false }
    let copy := fun (s : State) (d : Datum) =>
      (s.onPlace p.ctx launch piece fun y => { y with sums := insertNat idx d y.sums }).advancePiece p.ctx launch piece
    match ins with
    | [a] => if d.disc = 1 ∨ !((s.pieceParts p piece)[idx]?.any (s.needsRing p)) then copy s a.data else s
    | [_, _] => { s with lmp := { s.lmp with units := s.lmp.units ++ [unit] } }
    | _ => s

/-- A unit's result written into its place: ADD takes the incoming partial first and the own second; ACCUMULATE adds the later
arrival to the earlier (R228, R229). -/
def State.runUnit (s : State) (u : LampUnit) : State :=
  match (s.plan u.ctx).bind fun p => (p.place u.launch u.piece).map fun x => (p, x) with
  | none => s
  | some (p, x) =>
    let d := planDesc p.desc
    let r : Rounding := { stoch := d.round == 1, seed := d.seed, launch := u.launch, step := x.step }
    let elem := ((s.pieceParts p u.piece)[u.idx]?.map (·.elem)).getD 0
    let ins := x.ins.filter fun i => i.idx == u.idx
    if u.kind = 0 then
      match ins.find? (fun i => i.input == 0), ins.find? (fun i => i.input == 1) with
      | some a, some b =>
        let t := addPacket d.format r 0 elem (s.dataOf a.data) (s.dataOf b.data)
        ((s.keepSum u.ctx p.slice u.launch u.piece u.idx t.1).countReg Reg.LMP_SAT_COUNT (satCount t.2)).advancePiece u.ctx u.launch u.piece
      | _, _ => s
    else if u.kind = 1 then
      match ins with
      | [a, b] =>
        (s.keepSum u.ctx p.slice u.launch u.piece u.idx (accumulate d.format r 1 elem (s.dataOf a.data) (s.dataOf b.data))).advancePiece
          u.ctx u.launch u.piece
      | _ => s
    else s.advancePiece u.ctx u.launch u.piece

/-- A RECOVER_REQ message (R286). -/
def State.recoverMsg (s : State) (p : Plan) (ws : List Word) : State :=
  s.tellHead ({ s.kmsg 0x40 with set := sliceBit p.slice, count := w32 ws.length, words := ws } : KMsg)

/-- RECOVER_REQ to the head: kind, launch, and the planes or pieces named (R286); it is sent again each flash until an exchange answers. -/
def State.recoverReq (s : State) (p : Plan) (kind launch : Nat) (items : List Word) : State :=
  let ws := [w32 p.ordinal, fieldAt 0 4 kind ||| fieldAt 16 16 launch] ++ items
  (s.onPlan p.ctx fun q => { q with reqs := if q.reqs.contains ws then q.reqs else q.reqs ++ [ws] }).recoverMsg p ws

/-- A piece place is discarded: its units with it; the piece is recovered by replay (R222, R238, R273). -/
def State.discardPlace (s : State) (ctx launch piece : Nat) : State :=
  match s.plan ctx with
  | none => s
  | some p =>
    let s := s.onPlan ctx fun p => { p with places := p.places.filter fun y => !(y.launch == launch && y.piece == piece) }
    let s := { s with lmp := { s.lmp with units := s.lmp.units.filter fun u => !(u.ctx == ctx && u.launch == launch && u.piece == piece) } }
    let s := s.dropSent fun x => x.ctx == ctx && x.launch == launch && x.piece == piece
    s.recoverReq p 2 launch [w32 piece]

/-! ### Taking packets -/

/-- The live plan a collective packet addresses (R57, R182): its context, slice and generation. -/
def State.addressed (s : State) (h : Hdr) : Option Plan :=
  (s.plan (h.optag.toNat % 2048)).filter fun p => p.slice == h.slice.toNat && p.gen == h.gen.toNat && (p.st == 3 || p.st == 4) && p.enable != 0
    && p.enable ≤ s.tim.flash

/-- The lag of a place's late input, to the member rack whose partial came late (R274, R319): units of 16 ns. -/
def State.blameLag (s : State) (p : Plan) (x : Place) : State :=
  match lookupNat 0 x.lasts, lookupNat 1 x.lasts with
  | some a, some b =>
    let late := if a > b then prevIn p.ring s.myRack else s.myRack
    let lag := (if a > b then a - b else b - a) / 4096
    s.onPlan p.ctx fun p => { p with lags := insertNat late ((lookupNat late p.lags).getD 0 + lag) p.lags }
  | _, _ => s

/-- The packet index of a contribution in its contribution map (R265): of a rack partial, its packet; of the ring's partial, its part, which is a
packet cut where the owner rack changes (log entry 50). -/
def State.contribKey (s : State) (p : Plan) (h : Hdr) (x : PiecePrefix) : Nat :=
  if addrKind h.src = 1 then x.offset / 4032
  else ((s.pieceParts p x.piece).findIdx? fun k => k.off == x.offset).getD (x.offset / 4032)

/-- A contribution is taken into its place: the map bit, the data, the sender (R199, R265). Under spill its credits wait for the spill
write (R221). -/
def State.takeContrib (s : State) (port : Nat) (p : Plan) (h : Hdr) (x : PiecePrefix) (data : List Word) : State :=
  let input := if addrKind h.src = 1 then 1 else 0
  let key := s.contribKey p h x
  let parts := (s.pieceParts p x.piece).zipIdx.filter fun k => if input = 1 then k.1.pkt == key else k.2 == key
  let plane := planeOf p.planes x.piece
  let s := (s.onPlan p.ctx fun p => p.seeLaunch x.launch).openPlace p.ctx x.launch x.piece (if addrKind h.src = 1 then addrIndex h.src else p.remap.getD plane plane)
  let spill := ((s.plan p.ctx).bind fun p => p.place x.launch x.piece).any (·.spill)
  let s := s.onPlace p.ctx x.launch x.piece fun y => { y with
    ins := y.ins ++ parts.map (fun k => { input := input, idx := k.2, data := .words (wordsIn data (k.1.off - x.offset) k.1.bytes) }), map := y.map ++ [65536 * input + key], step := max y.step x.step,
    lasts := if x.last then insertNat input s.now y.lasts else y.lasts,
    senders := if y.senders.any fun a => a.1 == h.src then y.senders else y.senders ++ [(h.src, p.ctx)] }
  let s := if spill then
      let w : SpillIn := { port := port, vc := h.vc.toNat, units := packetUnits h, slice := p.slice, ctx := p.ctx, launch := x.launch, piece := x.piece,
                           input := input, idxs := parts.map fun k => k.2 }
      { s with lmp := { s.lmp with spillQueue := s.lmp.spillQueue ++ [w] } }
    else s.returnCredits port h
  let s := match if x.last then (s.plan p.ctx).bind fun p => p.place x.launch x.piece else none with
    | some y => s.blameLag p y
    | none => s
  parts.foldl (fun s k => s.stageSum p x.launch x.piece k.2) (s.takeWseq port h)

/-- A barrier's release goes down: to the switch of the rack and to the previous Keeper of the ring; the credit held at the next Keeper is free (R192,
R198). -/
def State.releaseBarrier (s : State) (q : Plan) : State :=
  let plane := q.remap.getD (planeOf q.planes 0) 0
  let s := s.onPlan q.ctx fun q => { q.moved with arrivals := [], credits := q.credits.filter fun c => c.2.1 != noLaunch, launches := q.launches + 1 }
  let s := s.sendDown q plane (s.switchAddr plane) 3 0x24 q.ctx [] noLaunch 0
  if q.ring.head? = some s.myRack then s else s.sendRing q (prevIn q.ring s.myRack) 3 0x24 [] noLaunch 0

/-- A barrier whose inputs have all arrived goes on along the ring once a piece credit is held at the next Keeper, or is released at the ring's end; a
frozen plan sends nothing (R192, R198, R281). -/
def State.barrierGo (s : State) (ctx : Nat) : State :=
  match s.plan ctx with
  | none => s
  | some p =>
    let need := if p.ring.head? = some s.myRack then 1 else 2
    let plane := p.remap.getD (planeOf p.planes 0) 0
    if p.frozen.isSome ∨ (planDesc p.desc).oper ≠ 4 ∨ p.arrivals.length < need then s
    else if p.ring.getLast? = some s.myRack then s.releaseBarrier p
    else if (p.credits.any fun c => c.2.1 == noLaunch) || p.inFlight ≤ (p.credits.filter fun c => c.1 == plane).length then s
    else (s.onPlan ctx fun q => { q with credits := q.credits ++ [(plane, noLaunch, 0)] }).sendRing p (nextIn p.ring s.myRack) 2 0x24 [] noLaunch 0

/-- The pieces of a plan, oldest first, and its barrier go on after a credit or a thaw (R198, R283). -/
def State.resumePieces (s : State) (ctx : Nat) : State :=
  match s.plan ctx with
  | none => s
  | some p => (p.places.foldl (fun s x => s.advancePiece ctx x.launch x.piece) s).barrierGo ctx

/-- An acknowledgement leaves no packet of some pieces outstanding: their places are freed (R266). -/
def State.freeAcked (s : State) : State :=
  s.clp.plans.foldl (fun s p => (p.places.filter fun x => x.phase == .send).foldl (fun s x =>
    if s.outstanding p.ctx x.launch x.piece then s else s.freePlace p.ctx x.launch x.piece) s) s

/-- A WINDOW_ACK for a source flow: the packets it covers are released, waiting ones leave, pieces with nothing outstanding are freed
(R64, R266). False for one that names no open flow. -/
def State.ackIn (s : State) (h : Hdr) (payload : List Word) : Bool × State :=
  let mine := fun (f : Flow) => f.isOurs h.dest h.src h.svc.toNat
  if s.link.flows.any mine then
    let next := bitsOf (wordAt payload 0) 0 12
    let map := pairAt payload 1
    let s := s.onFlow mine fun f => { f with sent := f.sent.filter fun x => !ackCovers next map x.wseq }
    (true, (State.pumpFlow 64 h.dest h.src h.svc.toNat s).freeAcked)
  else (false, { s with link := { s.link with noFlow := s.link.noFlow + 1 } })

end Sys2Proof.Machine
end

