-- ==== Sys2Proof/Machine/SolverOps.lean ====
section
/-! DEFINITION. Machine/SolverOps.lean: epochs, the bank cycle of a Keeper and of the head, vetoes (R135 to R150). -/
namespace Sys2Proof.Machine

/-! ### The Keeper's side -/

/-- The cycle's record, changed. -/
def State.onCycle (s : State) (f : Cycle → Cycle) : State := { s with slv := { s.slv with cycle := f s.slv.cycle } }

/-- The head's record, changed. -/
def State.onHead (s : State) (f : HeadCycle → HeadCycle) : State := { s with slv := { s.slv with head := f s.slv.head } }

/-- The cycle's phase, shown in SLV_STATE.PHASE (R140). -/
def State.setPhase (s : State) (p : Phase) : State := (s.onCycle fun c => { c with phase := p }).setF Fld.SLV_STATE_PHASE p.code

/-- NOT_READY to the head for an epoch (R138, R142). -/
def State.notReady (s : State) (epoch reason : Nat) : State :=
  (s.onCycle fun c => { c with told := true }).tellHead ({ s.kmsg 0x07 with epoch := w32 epoch, count := w32 reason } : KMsg)

/-- READY to the head; it is sent again each flash until CONFIRM (R139). -/
def State.sendReady (s : State) : State :=
  (s.onCycle fun c => { c with ready := true }).tellHead ({ s.kmsg 0x06 with epoch := w32 s.slv.cycle.epoch } : KMsg)

/-- GO for F to every agent of the rack as a rack broadcast, only for a verified bank (R141, R144). -/
def State.sendGo (s : State) : State :=
  if s.slv.cycle.verified then s.broadcast 0x70 [w32 s.slv.cycle.f] 2 else s

/-- One agent armed for F and D: D, then F and ARM (R143). -/
def State.armAgent (s : State) (a : Addr) : State :=
  let c := s.slv.cycle
  let d := (List.range 8).map fun i => c.dset.extractLsb' (32 * i) 32
  (s.mgmtWrite a 0x50 d 3 0 0x04 .upkeep).mgmtWrite a 0x44 [loHalf c.f, fieldAt 0 16 (c.f / 2 ^ 32), 1] 3 0 0x04 (.arm c.epoch)

/-- F rewritten at every agent after a postponement (R143). -/
def State.rearmAgents (s : State) : State :=
  let c := s.slv.cycle
  s.mgmtAll s.bankAgents 0x44 [loHalf c.f, fieldAt 0 16 (c.f / 2 ^ 32)] 3 0 0x04 (.arm c.epoch)

/-- SOLVED to ARMED for the announced F and D: the agents are armed; READY follows at the close point (R140, R143). -/
def State.armBank (s : State) : State :=
  let s := (s.setPhase .armed).onCycle fun c => { c with notArmed := s.bankAgents, told := false }
  s.bankAgents.foldl State.armAgent s

/-- The answer to a bank's announcement at the close point: READY with every agent armed, else NOT_READY with reason 0x05, once; READY follows at the
close point by which they are (R140, R142). -/
def State.answerBank (s : State) : State :=
  let c := s.slv.cycle
  if c.phase ≠ .armed ∨ c.ready then s
  else if c.notArmed.isEmpty then s.sendReady
  else if c.told then s else s.notReady c.epoch 5

/-- An agent has not taken its arming: NOT_READY where READY was sent, and it is armed again at the next boundary (R138, R142). -/
def State.armFailed (s : State) (a : Addr) : State :=
  let c := s.slv.cycle
  let s := s.onCycle fun c => { c with notArmed := if c.notArmed.contains a then c.notArmed else a :: c.notArmed, ready := false }
  if c.ready then s.notReady c.epoch 5 else s

/-- The agents that did not take their arming are armed again (R142). -/
def State.armRest (s : State) : State :=
  if s.slv.cycle.phase = .armed then s.slv.cycle.notArmed.foldl (fun s a =>
    if s.mgmt.ops.any fun o => o.agent == a && o.purpose == .arm s.slv.cycle.epoch then s else s.armAgent a) s
  else s

/-- F and D of an announcement are taken and shown (R140, R151). -/
def State.takeAnnounce (s : State) (f : Nat) (d : SliceSet) : State :=
  let s := s.onCycle fun c => { c with f := f, dset := d, late := false }
  ((s.setPair Reg.SLV_LIGHT_FLASH_LO f).setSliceSet (Reg.SLV_DRAIN_SET 0) d).setF Fld.SLV_STATE_LATE 0

/-- CONFIRMED: GO is sent (R140, R144). -/
def State.confirmBank (s : State) : State :=
  ((s.setPhase .confirmed).sendGo).onCycle fun c => { c with go := true, ready := false }

/-- An epoch of which a message tells (R139). -/
def State.learnEpoch (s : State) (e : Nat) : State := { s with slv := { s.slv with top := max s.slv.top e } }

/-- An epoch is held: its EPOCH is in whole, and its SLICE_TABLE with it (R139, R168). -/
def State.holdsEpoch (s : State) (e : Nat) : Bool :=
  decide (e ≤ s.slv.epoch) || (s.slv.waiting.any fun x => x.epoch == e) && s.slc.tables.any fun t => t.1 == e

/-- A Keeper that has learnt of an epoch above E + 1 while holding E sends EPOCH_REQ for each epoch it does not hold, but the one that is just coming
in (R139, R168). -/
def State.askEpochs (s : State) (coming : Nat) : State :=
  let first := s.slv.epoch + 1
  if s.slv.top ≤ first then s
  else (List.range (min 64 (s.slv.top + 1 - first))).foldl (fun s i =>
    if s.holdsEpoch (first + i) || first + i == coming then s
    else s.tellHead ({ s.kmsg 0x0C with epoch := w32 (first + i) } : KMsg)) s

/-- What a Keeper reports each flash of an announced epoch that it does not hold: reason 0x07 until it does, and its requests again (R139). -/
def State.reportGap (s : State) : State :=
  match s.slv.heard with
  | some (e, _) => if s.holdsEpoch e then s else (s.askEpochs 0).notReady e 7
  | none => s

/-- Every message: its rack's role is noted; the head rack's silence ends; a late cycle goes on when LIT_EPOCH shows that the epoch
lit elsewhere; missing epochs are asked for (R48, R139, R140, R383). -/
def State.heard (s : State) (src : Addr) (m : KMsg) : State :=
  let r := s.rackOf src
  let s := { s with link := { s.link with litRole := insertNat r (addrIndex src) s.link.litRole } }
  let fromHead := match s.chart.lit with
    | some c => addrX src == c.install.headX && addrY src == c.install.headY
    | none => false
  let s := if fromHead then { s with chart := { s.chart with silence := 0 } } else s
  let c := s.slv.cycle
  let s := if c.phase = .armed ∧ c.late ∧ c.epoch ≤ m.litEpoch.toNat then s.confirmBank else s
  let s := if s.isHead ∧ s.slv.head.fenced.contains r then
      s.onHead fun h => { h with
        fenced := h.fenced.filter (· != r),
        changes := h.changes ++ (h.reported.uplinks.filter fun u => u.1 / 64 == r && u.2 > 0).map fun u =>
          linkRecord 1 (r % s.axes.1) (r / s.axes.1) (u.1 % 64 / 4) (128 + u.1 % 4) u.2 }
    else s
  let named := if m.subject ∨ ¬ [0x02, 0x05, 0x08, 0x09, 0x22].contains m.mtype.toNat then 0 else m.epoch.toNat
  (s.learnEpoch (max m.litEpoch.toNat named)).askEpochs (if [0x02, 0x22].contains m.mtype.toNat then m.epoch.toNat else 0)

/-- A KEEPER_MSG that reaches this Keeper on a port, or from itself (port 21, log entry 2): refused under R17, passed on by the Keepers of the
overlay when it is for another, discarded when a copy of a flood, else heard; then the message and its source (R17, R44, R45, R62, R137, R139). -/
def State.arriveMsg (s : State) (mtype port : Nat) (p : Packet) : State × Option (Addr × KMsg) :=
  let h := p.hdr
  let m := kmsgOf p.payload
  if port = 21 then (s.heard h.src m, some (h.src, m))
  else
    let s := s.received port h
    match s.refused port h with
    | some s => (s, none)
    | none =>
      if m.mtype.toNat ≠ mtype ∨ ¬ kmsgClean p.payload then (s.refusePacket port h 2, none)
      else
        let s := s.returnCredits port h
        let toHead := headTypes.contains mtype && decide (port < 16) && !s.isHead && !s.isHere s.headAddr
        if ¬ s.isHere h.dest then ((if s.lit then s.hopMsg h.dest h.src m else s), none)
        else if toHead then ((if s.lit then s.hopMsg s.headAddr h.src m else s), none)
        else if floodTypes.contains mtype then
          let f := s.firstFlood h.src m
          if f.1 then (f.2.heard h.src m, some (h.src, m)) else (f.2, none)
        else (s.heard h.src m, some (h.src, m))

/-- The flash stage a message is an input of (R18, R138, R168, R186, R383). -/
def msgStage (m : KMsg) : StageId :=
  let t := m.mtype.toNat
  if m.subject then .cht else if t < 0x20 then .slv else if t < 0x30 then .wdn else if t < 0x50 then .clp else .cht

/-- A message that acts as it arrives, stamped as an input of its stage (R21). -/
def State.takeMsg (s : State) (mtype port : Nat) (p : Packet) (act : State → Addr → KMsg → State) : State :=
  match s.arriveMsg mtype port p with
  | (s, some x) => act (s.stageInput (msgStage x.2) .acted) x.1 x.2
  | (s, none) => s

/-- A message that its flash stage takes at the next intake (R21, R22). -/
def State.stageMsg (s : State) (mtype port : Nat) (p : Packet) : State :=
  match s.arriveMsg mtype port p with
  | (s, some x) => s.stageInput (msgStage x.2) (.message x.1 x.2)
  | (s, none) => s

/-- A part of a message with records is kept; with every part in, the whole is given (R137). -/
def State.collect (s : State) (m : KMsg) : State × Option (List Word) :=
  let ty := m.mtype.toNat
  let e := m.epoch.toNat
  let parts := if s.slv.parts.any fun p => p.1 == ty && p.2.1 == e && p.2.2.1 == m.part.toNat then s.slv.parts
               else (ty, e, m.part.toNat, m.words) :: s.slv.parts
  let mine := parts.filter fun p => p.1 == ty && p.2.1 == e
  if mine.length < max 1 m.parts.toNat then ({ s with slv := { s.slv with parts := parts } }, none)
  else
    let ws := ((List.range mine.length).map fun i => match mine.find? fun p => p.2.2.1 == i with
      | some p => p.2.2.2
      | none => []).flatten
    ({ s with slv := { s.slv with parts := parts.filter fun p => !(p.1 == ty && p.2.1 == e) } }, some ws)

/-- The descriptors of a SLICE_TABLE, one after another (R161, R168); fuel bounds their number. -/
def splitDescs : Nat → List Word → List (List Word)
  | 0, _ => []
  | n + 1, ws =>
    let len := descBytes ws / 4
    if ws.length < 4 ∨ ws.length < len then [] else ws.take len :: splitDescs n (ws.drop len)

/-- The changes of an epoch enter the slice table: a layout makes PENDING or CHANGING, a slice of SET without one ENDING (R165, R168,
log entry 24). -/
def State.takeTable (s : State) (epoch : Nat) (set : SliceSet) (ws : List Word) : State :=
  let lays := (splitDescs 256 ws).map s.layoutOf
  let s := { s with slc := { s.slc with order := lays.map fun l => l.view.id } }
  let s := lays.foldl (fun s l =>
    let st := match s.slice l.view.id with
      | some r => if r.lay.isSome then 3 else 1
      | none => 1
    (s.changeSlice l.view.id st (epoch, some l) none).noteSlice l.view.id) s
  let s : State := (bitIndices set.toNat 256).foldl (fun (s : State) id =>
    if lays.any fun l => l.view.id == id then s
    else match s.slice id with
      | some _ => (s.changeSlice id 6 (epoch, none) none).noteSlice id
      | none => s) s
  s.showSlices

/-- This Keeper enters bank cycles: a chart is lit and its digest is the head's (R150). -/
def State.cycles (s : State) : Bool := s.chart.lit.isSome && !s.flag Fld.CHT_STATE_HEAD_MISMATCH && !s.mor.rebuild

/-- An announcement heard before its epoch came in is taken with it: the Keeper has answered it with NOT_READY, and READY is owed (R140, R142). -/
def State.recallAnnounce (s : State) (epoch : Nat) : State :=
  match s.slv.heard with
  | some (e, f, d) => if e = epoch then ({ s with slv := { s.slv with heard := none } }).takeAnnounce f d else s
  | none => s

/-- The next epoch is taken at batch intake, together with its SLICE_TABLE, and the solve starts (R136, R140, R168). -/
def State.takeEpoch (s : State) : State :=
  let next := s.slv.waiting.find? fun e => e.epoch == s.slv.epoch + 1 && s.slc.tables.any fun t => t.1 == e.epoch
  match next with
  | none => s
  | some e =>
    if (s.slv.cycle.phase ≠ .idle ∧ s.slv.cycle.phase ≠ .refused) ∨ ¬ s.cycles then s
    else
      let tab := s.slc.tables.find? fun t => t.1 == e.epoch
      let s := match tab with
        | some t => s.takeTable e.epoch t.2.1 t.2.2
        | none => s
      let g := e.recs.foldl (Graph.apply s.axes.1) s.slv.graph
      let s := { s with
                        slv := { s.slv with graph := g, epoch := e.epoch, waiting := s.slv.waiting.filter fun x => x.epoch != e.epoch },
                        slc := { s.slc with tables := s.slc.tables.filter fun t => t.1 != e.epoch },
                        link := { s.link with overlay := false } }
      let s := s.setReg Reg.DSC_LIVE_EPOCH (w32 e.epoch)
      let ctx := s.solveCtx g (s.slc.viewsAt e.epoch)
      let changed := s.slc.table.filterMap fun r => match r.chg with
        | some (x, _) => if x == e.epoch then some r.id else none
        | none => none
      let keys := ctx.toBuild s.slv.lit e.full changed
      let s := s.onCycle fun _ => { Cycle.idle with epoch := e.epoch, full := e.full, left := s.solveLength e.full keys, total := keys.length }
      let s := s.recallAnnounce e.epoch
      let s := (s.setPhase .solving).setF Fld.SLV_STATE_KIND (b2n e.full)
      let s := ((s.setReg Reg.SLV_WORK_EPOCH (w32 e.epoch)).setReg Reg.SLV_TREES_TOTAL (w32 keys.length)).setReg Reg.SLV_TREES_DONE 0
      s.count (if e.full then Fld.SLV_SOLVES_FULLS else Fld.SLV_SOLVES_REPAIRS) 1

/-- The solve's result: trees, the dark bank's content, the rack's drain set with the slices the epoch changes, the digest (R127, R134, R142, R167). -/
def State.finishSolve (s : State) : State :=
  let c := s.slv.cycle
  let ctx := s.solveCtx s.slv.graph (s.slc.viewsAt c.epoch)
  let changed := s.slc.table.filterMap fun r => match r.chg with
    | some (x, _) => if x == c.epoch then some r.id else none
    | none => none
  let trees := if c.full then ctx.solveFull else ctx.solveRepair s.slv.lit changed
  let enMap := match s.chart.lit with
    | some k => k.enMap
    | none => []
  let src : BankSrc := { trees := trees, slices := ctx.views, graph := s.slv.graph, enMap := enMap }
  let present := s.rackEndpoints.map addrIndex
  let digest := src.digest ctx.sx ctx.sy s.myRack present
  let own := ownDrainSet s.slv.lit src ctx.sx ctx.sy s.myRack ||| maskOf (changed.filter (· != 0))
  let s := s.onCycle fun c => { c with src := src, digest := digest, own := BitVec.ofNat 256 own }
  ((s.setReg Reg.SLV_TREES_DONE (w32 c.total)).setDigest (Reg.SLV_WORK_DIGEST 0) digest).setPhase .verifying

/-- One solve flash ends (R129). Of the trees built so far, which R152 shows while a solve runs, the spec gives no course: SLV_TREES_DONE takes the share
of the solve's flashes that have passed (DESIGN CHOICE, log entry 107). -/
def State.solveTick (s : State) : State :=
  if s.slv.cycle.phase = .solving then
    let s := s.onCycle fun c => { c with left := c.left - 1 }
    if s.slv.cycle.left = 0 then s.finishSolve
    else
      let c := s.slv.cycle
      let all := solveFlashes c.full 0 1 1 + c.left
      s.setReg Reg.SLV_TREES_DONE (w32 (c.total * (all - c.left) / max 1 all))
  else s

/-- The words of an agent's structure in the cycle's bank, by index. -/
def State.bankDiff (s : State) (a : Addr) : List (Nat × Word) :=
  diffWords (s.slv.dark.agentWords s.axes.1 s.axes.2 a) (s.slv.cycle.src.agentWords s.axes.1 s.axes.2 a)

/-- Words written to an agent's dark bank (R135, R448); the check value is asked for when they are in. -/
def State.writeBank (s : State) (a : Addr) (ws : List (Nat × Word)) : State :=
  let bank := 1 - s.slv.litBank
  let runs := writeRuns (ws.map fun x => (bankAddr a bank x.1, x.2))
  let e := s.slv.cycle.epoch
  let s := runs.foldl (fun s r => s.mgmtWrite a r.1 r.2 10 0 0x04 (.bank e)) s
  if runs.isEmpty then s.mgmtWrite a 0x80 [fieldAt 0 4 (1 + bank) ||| fieldAt 31 1 1] 11 0 0x04 (.check e) else s

/-- LOADING: every entry that differs from what the dark bank holds is written (R135). -/
def State.startLoad (s : State) : State :=
  let s := (s.setPhase .loading).onCycle fun c => { c with
    toLoad := s.bankAgents, verified := true,
    changed := (s.rackAgents.map fun a => entriesChanged s.slv.lit s.slv.cycle.src s.axes.1 s.axes.2 a).sum }
  s.bankAgents.foldl (fun s a => s.writeBank a (s.bankDiff a)) s

/-- The far end of each fabric port of an agent of this rack: the agent there and its port (R39, R41). -/
def State.farEnds (s : State) (a : Addr) : List (Addr × Nat) :=
  let i := addrIndex a
  if addrKind a = 1 then
    (s.rackEndpoints.map fun e => (e, i)) ++ (List.range 4).map fun d =>
      (mkAddr 1 (nbrRack s.axes.1 s.axes.2 s.myRack d % s.axes.1) (nbrRack s.axes.1 s.axes.2 s.myRack d / s.axes.1) i, 128 + oppDir d)
  else (List.range 16).map fun l => (s.switchAddr l, i)

/-- An agent is counted out: its fabric ports and their far ends held QUARANTINED and logged, its links reported at 0 lanes; the cycle goes on without
it (R135). -/
def State.countOut (s : State) (a : Addr) : State :=
  let own := (List.range (if addrKind a = 1 then 132 else 16)).map fun p => (a, p)
  let all := own ++ s.farEnds a
  let s := all.foldl (fun s x => s.mgmtWrite x.1 (0x1000 + 0x20 * x.2) [fieldAt 8 2 1] 11 0 0x04 .upkeep) s
  let s := { s with
    slv := { s.slv with out := if s.slv.out.contains a then s.slv.out else s.slv.out ++ [a] }
    link := { s.link with nbrs := s.link.nbrs.map fun (r : Nbr) => if all.contains (r.agent, r.port) then { r with lanes := 0, hold := 1, parkMax := 0 } else r } }
  let note := fun (s : State) (x : Addr × Nat) => s.logEvt
    { code := 0x013, party := x.1, fa2 := agentGen x.1 == 2, flash := BitVec.ofNat 48 s.tim.flash, offset := BitVec.ofNat 25 s.tim.offset, slice := 0,
      engine := 0x04, body := [fieldAt 0 8 x.2, 0] } false false
  let s := all.foldl note s
  s.onCycle fun c => { c with toLoad := c.toLoad.filter (· != a), notArmed := c.notArmed.filter (· != a) }

/-- A reply in the load of the dark bank (R135): with all its writes in, the check value is asked for, read, and compared; a mismatch
rewrites the agent's dark bank in full, at most three times. -/
def State.bankReply (s : State) (op : MgmtOp) (words : List Word) : State :=
  let c := s.slv.cycle
  let a := op.agent
  let bank := 1 - s.slv.litBank
  match op.purpose with
  | .bank e =>
    if e ≠ c.epoch ∨ c.phase ≠ .loading ∨ s.mgmt.ops.any (fun o => o.agent == a && o.purpose == .bank e) then s
    else s.mgmtWrite a 0x80 [fieldAt 0 4 (1 + bank) ||| fieldAt 31 1 1] 11 0 0x04 (.check e)
  | .check e =>
    if e ≠ c.epoch ∨ c.phase ≠ .loading then s
    else if op.write then s.mgmtRead a 0x80 3 0x04 (.check e)
    else if bitAt (wordAt words 0) 31 then s.mgmtRead a 0x80 3 0x04 (.check e)
    else
      let img := c.src.agentWords s.axes.1 s.axes.2 a
      if BitVec.ofNat 64 (pairAt words 1) = crc64 (bytesOfWords img) then
        s.onCycle fun c => { c with toLoad := c.toLoad.filter (· != a) }
      else
        let n := (c.rewrites.filter fun x => x.1 == a).length
        if n ≥ 3 then s.countOut a
        else (s.onCycle fun c => { c with rewrites := (a, n + 1) :: c.rewrites }).writeBank a (img.zipIdx.map fun x => (x.2, x.1))
  | _ => s

/-- BANK_READY to the head (R138). -/
def State.sendBankReady (s : State) : State :=
  let c := s.slv.cycle
  s.tellHead ({ s.kmsg 0x04 with epoch := w32 c.epoch, count := w32 c.changed, set := c.own, digest := c.digest } : KMsg)

/-- What the agents' dark bank holds: the cycle's bank once it is loaded (R135). -/
def State.darkImage (s : State) : BankSrc :=
  if s.slv.cycle.phase = .solved ∨ s.slv.cycle.phase = .armed ∨ s.slv.cycle.phase = .confirmed then s.slv.cycle.src else s.slv.dark

/-- The dark image is dropped and the agents disarmed (R140). -/
def State.dropCycle (s : State) : State :=
  let armed := s.slv.cycle.phase = .armed
  let s := { s with slv := { s.slv with dark := s.darkImage } }
  let s := if armed then s.mgmtAll s.bankAgents 0x4C [2] 11 0 0x04 .upkeep else s
  let s := (s.onCycle fun _ => Cycle.idle).setPhase .idle
  ((s.setReg Reg.SLV_WORK_EPOCH 0).setPair Reg.SLV_LIGHT_FLASH_LO 0).setF Fld.SLV_STATE_LATE 0

/-- A slice returns to the state before the command in progress: its pending layout is dropped (R163, R165). -/
def State.revertSlice (s : State) (id : Nat) : State :=
  (s.noteSlice id).onSlice id fun r => { r with state := r.prior, chg := none }

/-- Slices whose change an epoch carried return to the state they had (R163, log entry 24). -/
def State.revertSlices (s : State) (epoch : Nat) : State :=
  let ids := s.slc.table.filterMap fun r => match r.chg with
    | some (e, _) => if e == epoch then some r.id else none
    | none => none
  (ids.foldl State.revertSlice s).showSlices

/-! ### Vetoes (R133, R147) -/

/-- The PLANE_VETO halfword of an endpoint toward a destination rack. -/
def State.vetoBits (s : State) (a : Addr) (dest : Nat) : Nat :=
  let sl := s.slv.lit.sliceAt s.myRack (addrIndex a)
  maskOf ((List.range 16).filter fun p => s.slv.vetoes.contains (sl, dest, p) || s.slv.epVetoes.contains (a, p))

/-- A word of PLANE_VETO is written at an endpoint: destination racks 2k and 2k + 1 (R133, R448). -/
def State.writeVeto (s : State) (a : Addr) (k : Nat) : State :=
  s.mgmtWrite a (0x108200 + 4 * k) [fieldAt 0 16 (s.vetoBits a (2 * k)) ||| fieldAt 16 16 (s.vetoBits a (2 * k + 1))] 8
    (s.slv.lit.sliceAt s.myRack (addrIndex a)) 0x04 .upkeep

/-- SLV_VETOES shows the vetoes in force. -/
def State.showVetoes (s : State) : State := s.setF Fld.SLV_VETOES_COUNT (min 65535 s.slv.vetoes.length)

/-- Plane p is vetoed toward a rack for a slice at its endpoints in this rack (R147). -/
def State.vetoTree (s : State) (slice dest p : Nat) : State :=
  if s.slv.vetoes.contains (slice, dest, p) then s
  else
    let s := { s with slv := { s.slv with vetoes := (slice, dest, p) :: s.slv.vetoes } }
    let s := (s.memberAgents slice).foldl (fun s a => s.writeVeto a (dest / 2)) s
    s.showVetoes.raise Fld.SLV_INT_STATUS_VETO

/-- Plane p is vetoed for every destination at one endpoint whose link p fell to 0 lanes (R147). -/
def State.vetoEndpoint (s : State) (a : Addr) (p : Nat) : State :=
  if s.slv.epVetoes.contains (a, p) then s
  else
    let s := { s with slv := { s.slv with epVetoes := (a, p) :: s.slv.epVetoes } }
    ((List.range 32).foldl (fun s k => s.writeVeto a k) s).raise Fld.SLV_INT_STATUS_VETO

/-- A dark uplink: every lit tree whose path from a source in this rack uses it is vetoed here, when VETO_EN is 1 (R147). -/
def State.noticeLink (s : State) (w : Word) : State :=
  if bitsOf w 0 2 = 1 ∧ bitsOf w 20 4 = 0 ∧ s.flag Fld.SLV_CTRL_VETO_EN then
    let sx := s.axes.1
    let sy := s.axes.2
    let cable := cableOf sx sy (recRack sx w) (bitsOf w 8 4) (bitsOf w 12 8 % 4)
    s.slv.lit.trees.foldl (fun s t =>
      match s.slv.lit.view t.slice with
      | some v =>
        if v.racks.contains s.myRack && (t.pathFrom sx sy 16 s.myRack).any fun h => cableOf sx sy h.rack t.plane h.dir == cable
        then s.vetoTree t.slice t.target t.plane else s
      | none => s) s
  else s

/-! ### The head's side (R136, R142, R148, R149) -/

/-- The racks the head waits for: those not fenced (R142, R148). -/
def State.awaited (s : State) : List Nat := (List.range s.rackCount).filter fun r => !s.slv.head.fenced.contains r

/-- SLV_HEAD_STATE, SLV_HEAD_EPOCH and SLV_HEAD_WAIT follow the head's record (R152). -/
def State.showHead (s : State) : State :=
  let h := s.slv.head
  let cyc := if !h.active then 0 else if h.confirmed then 3 else if h.announced then 2 else 1
  let s := (s.setF Fld.SLV_HEAD_STATE_CYCLE cyc).setF Fld.SLV_HEAD_STATE_ACTIVE (b2n s.isHead)
  let s := s.setReg Reg.SLV_HEAD_EPOCH (w32 h.epoch)
  let wait := if h.active then s.awaited.filter fun r => !(if h.announced then h.ready2 else h.ready1).contains r else []
  s.setPair Reg.SLV_HEAD_WAIT_LO (maskOf wait)

/-- The head takes the changes of a rack report; a link gone to 0 lanes is noticed at once (R107, R136, R147). -/
def State.headReport (s : State) (ws : List Word) : State :=
  let sx := s.axes.1
  let s := s.onHead fun h => { h with
    reported := ws.foldl (Graph.apply sx) h.reported,
    changes := h.changes ++ ws.filter fun w => !(h.fenced.contains (recRack sx w) && bitsOf w 0 2 == 1) }
  let dark := ws.filter fun w => bitsOf w 20 4 == 0
  let s := if dark.isEmpty then s else s.tellAll ({ s.kmsg 0x03 with count := w32 dark.length, words := dark } : KMsg)
  s.showHead

/-- An epoch and its SLICE_TABLE go to every Keeper (R136, R168). -/
def State.sendEpoch (s : State) (e : EpochRec) (set : SliceSet) (ws : List Word) (dst : Option Addr) : State :=
  let m : KMsg := { s.kmsg 0x02 with epoch := w32 e.epoch, full := e.full }
  let t : KMsg := { s.kmsg 0x22 with epoch := w32 e.epoch, set := set }
  match dst with
  | some a => ((partsOf m e.recs) ++ partsOf t ws).foldl (fun s m => s.tell a m) s
  | none => (partsOf t ws).foldl (fun s m => s.flood m) ((partsOf m e.recs).foldl (fun s m => s.tellAll m) s)

/-- Whether a repair of the head's changes would rebuild more than REPAIR_MAX_PCT of all trees, or a link rises from 0 (R128). -/
def State.needsFull (s : State) (changes : List Word) (slices : List Nat) : Bool :=
  let g := changes.foldl (Graph.apply s.axes.1) s.slv.graph
  let rises := changes.any fun w => bitsOf w 20 4 > 0 && (
    let one := Graph.apply s.axes.1 { uplinks := [], eps := [], keepers := [] } w
    (one.uplinks.any fun k => lanesAt k.1 s.slv.graph.uplinks == 0) || (one.eps.any fun k => lanesAt k.1 s.slv.graph.eps == 0)
      || (one.keepers.any fun k => lanesAt k.1 s.slv.graph.keepers == 0))
  let ctx := s.solveCtx g s.slc.nextViews
  let all := (treeKeys ctx.views).length
  rises || (ctx.toBuild s.slv.lit false slices).length * 100 > s.getF Fld.SLV_CTRL_REPAIR_MAX_PCT * all

/-- The head publishes the next epoch with its SLICE_TABLE: at most one cycle at a time, nothing while changes are held or a
handback is announced (R73, R136, R149). -/
def State.publishEpoch (s : State) : State :=
  let h := s.slv.head
  if ¬ s.serialises ∨ h.active ∨ h.heldChanges ∨ (h.changes.isEmpty ∧ h.sliceChanges.isEmpty ∧ ¬ h.solve) then s
  else
    let e := h.epoch + 1
    let full := h.fullNext || s.flag Fld.SLV_CTRL_FULL_REQ || s.needsFull h.changes h.sliceChanges
    let set := BitVec.ofNat 256 (maskOf h.sliceChanges)
    let descs := (h.sliceChanges.filterMap fun id => match s.slice id with
      | some r => match r.chg with
        | some (_, some l) => some l.desc
        | _ => none
      | none => none).flatten
    let rec0 : EpochRec := { epoch := e, full := full, recs := h.changes }
    let s := s.onHead fun h => { h with
      epoch := e, active := true, content := h.changes, slices := h.sliceChanges, full := full,
      published := s.tim.flash, announced := false, confirmed := false, f := 0, dset := 0, ready1 := [], ready2 := [], litRacks := [],
      changes := [], sliceChanges := [], fullNext := false, solve := false, sent := (rec0, set, descs) :: h.sent }
    (((s.setF Fld.SLV_CTRL_FULL_REQ 0).renew Fld.SLV_CTRL_FULL_REQ id).sendEpoch rec0 set descs none).showHead

/-- Holding every BANK_READY, the head publishes ANNOUNCE at the next boundary (R142). -/
def State.announceBank (s : State) : State :=
  let h := s.slv.head
  if s.isHead ∧ h.active ∧ ¬ h.announced ∧ s.awaited.all (fun r => h.ready1.contains r) then
    let f := s.tim.flash + s.params.lightLead
    let s := s.onHead fun h => { h with announced := true, f := f, ready2 := [] }
    (s.flood ({ s.kmsg 0x05 with epoch := w32 h.epoch, flash := BitVec.ofNat 48 f, set := h.dset } : KMsg)).showHead
  else s

/-- Holding every READY by F − 2, the head publishes CONFIRM at the boundary that opens F − 1 (R142). -/
def State.confirmHead (s : State) : State :=
  let h := s.slv.head
  if s.isHead ∧ h.active ∧ h.announced ∧ ¬ h.confirmed ∧ s.tim.flash + 1 = h.f ∧ s.awaited.all (fun r => h.ready2.contains r) then
    ((s.onHead fun h => { h with confirmed := true }).flood
      ({ s.kmsg 0x09 with epoch := w32 h.epoch, flash := BitVec.ofNat 48 h.f, set := h.dset } : KMsg)).showHead
  else s

/-- The head postpones to F = now + LIGHT_LEAD, once in a flash, never after CONFIRM (R142). -/
def State.postponeBank (s : State) : State :=
  let h := s.slv.head
  if s.isHead ∧ h.active ∧ h.announced ∧ ¬ h.confirmed then
    let f := s.tim.flash + s.params.lightLead
    if f = h.f then s
    else (s.onHead fun h => { h with f := f }).flood ({ s.kmsg 0x08 with epoch := w32 h.epoch, flash := BitVec.ofNat 48 f } : KMsg)
  else s

/-- The head withdraws its epoch; its content returns in the next one (R148, R149). -/
def State.withdrawEpoch (s : State) (extra : List Word) : State :=
  let h := s.slv.head
  if ¬ h.active then s
  else
    let s := s.flood ({ s.kmsg 0x0B with epoch := w32 h.epoch } : KMsg)
    let s := s.onHead fun h => { h with
      active := false, announced := false, confirmed := false, f := 0,
      changes := h.content ++ extra ++ h.changes, sliceChanges := h.slices ++ h.sliceChanges, fullNext := h.fullNext || h.full,
      solve := h.solve || (h.content.isEmpty && h.slices.isEmpty) }
    let s := { s with
      slc := { s.slc with
      table := s.slc.table.map fun (r : SliceRec) => match r.chg with
      | some (_, l) => { r with chg := some (h.epoch + 1, l) }
      | none => r } }
    s.showHead

/-- The FLASH of a request that was answered last for a rack and TAG. -/
def State.originOf (s : State) (rack tag : Nat) : Nat :=
  match s.slc.answered.find? fun x => x.1 == rack && x.2.1 == tag with
  | some x => x.2.2.1
  | none => 0

/-- Changes are held: every slice request among them is refused with 0x10 and its slice returns to the state before (R149, R163). -/
def State.holdChanges (s : State) : State :=
  let ids := s.slv.head.sliceChanges
  let s := ids.foldl (fun (s : State) id => match s.slice id with
    | some r =>
      let s := match r.issuer with
        | some (rack, tag) =>
          let q : SliceReq := { rack := rack, tag := tag, origin := s.originOf rack tag, op := 0,
                                slice := id, words := [], flash := 0, placed := none, asked := false }
          s.sliceReply q 0x10 0
        | none => s
      s.revertSlice id
    | none => s) s
  let s := s.showSlices
  ((s.onHead fun h => { h with heldChanges := true, sliceChanges := [] }).raise Fld.SLV_INT_STATUS_BANK_REFUSED).showHead

/-- All that an epoch of the head carries: its link records, its slice set and its slice table, claims and all (R136, R149). -/
def State.epochContent (s : State) (e : Nat) : List Word :=
  match s.slv.head.sent.find? fun x => x.1.epoch == e with
  | some x => x.1.recs ++ [w32 x.1.recs.length] ++ ((List.range 8).map fun i => x.2.1.extractLsb' (32 * i) 32) ++ x.2.2
  | none => []

/-- A Keeper's bank was refused twice: the epoch is withdrawn; the third refusal in a row of the same content holds it (R149). -/
def State.refusedBank (s : State) : State :=
  let h := s.slv.head
  if ¬ h.active then s
  else
    let content := s.epochContent h.epoch
    let run := if h.refusedContent = content then h.refusedRun + 1 else 1
    let s := (s.withdrawEpoch []).onHead fun x => { x with refusedRun := run, refusedContent := content }
    if run ≥ 3 then s.holdChanges else s

/-- FULL_REQ at the head releases held changes (R149). -/
def State.releaseHeld (s : State) : State :=
  if s.slv.head.heldChanges then (s.onHead fun h => { h with heldChanges := false, refusedRun := 0, refusedContent := [] }).showHead else s

/-- The head's cycle ends at its own lighting (R136). -/
def State.endHeadCycle (s : State) (epoch : Nat) : State :=
  if s.slv.head.active ∧ s.slv.head.epoch = epoch then
    (s.onHead fun h => { h with active := false, announced := false, confirmed := false, refusedRun := 0, refusedContent := [] }).showHead
  else s

/-! ### Lighting of a bank (R140, R145, R165) -/

/-- SLV_UNREACH and SLV_LOAD_MAX of the lit bank (R152). -/
def State.showBank (s : State) : State :=
  let b := s.slv.lit
  let lost := b.trees.filter fun t => !t.lost.isEmpty
  let rose := lost.length > s.getF Fld.SLV_UNREACH_TREES
  let low := (lost.map (·.slice)).foldl min 255
  let s := (s.setF Fld.SLV_UNREACH_TREES (min 65535 lost.length)).setF Fld.SLV_UNREACH_SLICE (if lost.isEmpty then 0 else low)
  let s := s.raiseIf rose Fld.SLV_INT_STATUS_UNREACH
  let ctx := s.solveCtx b.graph b.slices
  let tr := trafficOf ctx b.trees
  let best := (List.range 64).foldl (fun acc k =>
    let lanes := b.graph.cableLanes ctx.sx ctx.sy s.myRack (k / 4) (k % 4)
    let l := if lanes = 0 then 0 else 8 * lanesAt (upKey s.myRack (k / 4) (k % 4)) tr / lanes
    if l > acc.1 then (l, k) else acc) (0, 0)
  ((s.setF Fld.SLV_LOAD_MAX_LOAD (min 65535 (best.1 / 64))).setF Fld.SLV_LOAD_MAX_PLANE (best.2 / 4)).setF Fld.SLV_LOAD_MAX_DIR (best.2 % 4)

/-- The slices of an epoch take their new layouts: FREE when destroyed, then, in the order of the SLICE_TABLE, LIVE with seats bound (R165, R167,
R172). -/
def State.lightSlices (s : State) (epoch : Nat) : State :=
  let of := s.slc.table.filterMap fun r => match r.chg with
    | some (e, l) => if e == epoch then some (r.id, l) else none
    | none => none
  let ended := of.filter fun x => x.2.isNone
  let s := ended.foldl (fun s x => (s.noteSlice x.1).onSlice x.1 fun r => { r with state := 0 }) s
  let laid := (s.slc.order.filterMap fun id => of.find? fun x => x.1 == id && x.2.isSome) ++ of.filter fun x => x.2.isSome && !s.slc.order.contains x.1
  laid.foldl (fun s x => match x.2 with
    | some l =>
      let s := (s.noteSlice x.1).onSlice x.1 fun r => { r with
        state := 2, lay := some l, chg := none, epoch := epoch, issuer := none, born := if r.lay.isNone then s.tim.flash else r.born,
        bornEpoch := if r.lay.isNone then epoch else r.bornEpoch }
      (s.bindSeats x.1 l.view).noteSlice x.1
    | none => s) s

/-- Slice commands of this Keeper that a lighting completes: those whose slice it made, laid out anew or ended (R165, R476). A request that returned in
a later epoch than its reply named completes with that one (R163). -/
def State.completeSlices (s : State) (epoch : Nat) : State :=
  let lit := fun (i : SliceIssued) => (match i.epoch with
    | some e => decide (e ≤ epoch)
    | none => false) && i.op != 3 && (match s.slice i.slice with
    | some r => i.op != 4 && r.epoch == epoch && r.state == 2
    | none => i.op == 4)
  let go := s.slc.issued.filter lit
  let s := { s with slc := { s.slc with issued := s.slc.issued.filter fun i => !lit i } }
  go.foldl (fun s i =>
    let rs := if i.op = 4 then [0, w32 epoch]
      else [w32 i.slice, w32 epoch, loHalf s.tim.flash, fieldAt 0 16 (s.tim.flash / 2 ^ 32)]
    s.completeAfter i.win s.tim.flash i.slice rs) s

/-- The Keeper's part of a bank's lighting (R140). -/
def State.lightBank (s : State) : State :=
  let c := s.slv.cycle
  let s := { s with
    slv := { s.slv with
    dark := s.slv.lit, lit := c.src, litBank := 1 - s.slv.litBank, litEpoch := c.epoch, litFull := c.full,
    vetoes := [], epVetoes := [] } }
  let s := (s.setReg Reg.SLV_LIT_EPOCH (w32 c.epoch)).setPair Reg.SLV_LIT_FLASH_LO s.tim.flash
  let s := ((s.setDigest (Reg.SLV_LIT_DIGEST 0) c.digest).setReg Reg.SLV_DRAIN_DISCARD 0).showVetoes
  let s := s.lightSlices c.epoch
  let s := (s.showBank.showSlices).raise Fld.SLV_INT_STATUS_BANK_LIT
  let s := s.raiseIf c.late Fld.SLV_INT_STATUS_LATE_LIGHT
  let s := s.logOwn 0x020 0x04 0 ([w32 c.epoch, loHalf c.f, fieldAt 0 16 (c.f / 2 ^ 32), fieldAt 0 1 (b2n c.full) ||| fieldAt 1 1 (b2n c.late)]
    ++ (List.range 8).map fun i => c.dset.extractLsb' (32 * i) 32)
  let s := s.completeSlices c.epoch
  let s := s.tellHead ({ s.kmsg 0x0A with flash := BitVec.ofNat 48 c.f, digest := c.digest } : KMsg)
  let s := ((s.onCycle fun _ => Cycle.idle).setPhase .idle).setReg Reg.SLV_WORK_EPOCH 0
  let s := ((s.setPair Reg.SLV_LIGHT_FLASH_LO 0).setF Fld.SLV_STATE_LATE 0).setF Fld.SLV_STATE_HOLD 0
  (s.endHeadCycle c.epoch).takeEpoch

end Sys2Proof.Machine
end

