-- ==== Sys2Proof/Machine/PlanExch.lean ====
section
/-! DEFINITION. Machine/PlanExch.lean: the admission of plans at the head and their installation at the member Keepers (R184 to R191, R210). -/
namespace Sys2Proof.Machine

/-! ### Small helpers -/

/-- The ClpState's record, changed. -/
def State.onClp (s : State) (f : ClpState → ClpState) : State := { s with clp := f s.clp }

/-- A Keeper message of the planner: SET names the slice, records from word 32 on (R186, R286). -/
def State.planMsg (s : State) (mtype slice : Nat) (ws : List Word) : KMsg :=
  ({ s.kmsg mtype with set := sliceBit slice, count := w32 ws.length, words := ws } : KMsg)

/-- The slice a planner's message names. -/
def msgSlice (m : KMsg) : Nat := (bitIndices m.set.toNat 256).headD 0

/-- CLP_CTX_USED, CLP_PLANS, CLP_HEAD_QUEUE and LNT_CTX_USED follow the plans (R212, R262). -/
def State.showPlans (s : State) : State :=
  let held := s.clp.plans.filter fun p => p.ctx < 2048
  let reserved := (s.slc.table.map fun e => match e.lay with
    | some l => if l.view.cls ≠ 0 ∧ l.view.racks.contains s.myRack then ((s.template l.view.template).map (·.maxCtx)).getD 0 else 0
    | none => 0).sum
  let s := (s.setF Fld.CLP_CTX_USED_USED held.length).setF Fld.CLP_CTX_USED_RESERVED reserved
  let s := s.setF Fld.CLP_PLANS_COUNT (held.filter fun p => p.st == 3 || p.st == 4).length
  let s := (s.setF Fld.CLP_HEAD_QUEUE_WAITING (min 65535 s.clp.queue.length)).setF Fld.CLP_HEAD_QUEUE_BUSY (min 255 s.clp.adms.length)
  let here := (s.clp.lntSlices.filter fun x => s.touches x.1 s.myRack).map fun x => x.2.length
  let s := (s.setF Fld.LNT_CTX_USED_USED (held.filter fun p => p.lnt.isSome).length).setF Fld.LNT_CTX_USED_RESERVED here.sum
  let s := s.setF Fld.LMP_SPILL_USED_MIB (((held.map (·.spillUnits)).sum + 16383) / 16384)
  s.setF Fld.LMP_SHARED_USED_UNITS ((held.filter fun p => !s.isFixed p.slice).map (·.storeUnits)).sum

/-! ### The head: checks (R184, R190, R191) -/

/-- The member list a group number of a slice stands for, while a plan uses it (R180). -/
def State.groupMembers (s : State) (slice group : Nat) : Option (List Nat) :=
  let descs := (s.clp.live.map fun p => (p.slice, p.desc)) ++ s.clp.adms.map fun a => (a.req.slice, a.desc)
  (descs.find? fun x => x.1 == slice && (planDesc x.2).group == group).map fun x => (planDesc x.2).members

/-- The algorithm a request takes (R191): the algorithm, LNT_FALLBACK, and 0 or the code that refuses a forced one. -/
def State.chooseAlg (s : State) (d : PlanDesc) (members racks : List Nat) (noLnt : Bool) : Nat × Bool × Nat :=
  let size := if d.oper = 4 then 0 else d.bytes
  let rule := s.lanternRule d members racks
  let room := (s.lntNumber d.slice racks).isSome
  if d.alg = 0 then
    if d.oper = 3 then (4, false, 0)
    else if size ≤ s.params.lanternMax then (if rule = 0 ∧ room ∧ !noLnt then (1, false, 0) else (2, true, 0))
    else if size ≤ s.params.innetMax then (2, false, 0)
    else if s.isGrid racks then (3, false, 0) else (2, false, 0)
  else if !s.flag Fld.CLP_CTRL_FORCE_EN then (d.alg, false, 0x10)
  else if d.alg = 1 then
    (1, false, if d.oper = 3 ∨ size > s.params.lanternMax then 0x10 else if rule ≠ 0 then rule else if !room then 0x0A else 0)
  else if d.alg = 2 then (2, false, if d.oper = 3 then 0x10 else 0)
  else if d.alg = 3 then (3, false, if (d.oper = 1 ∨ d.oper = 2) ∧ s.isGrid racks then 0 else 0x10)
  else (4, false, if d.oper = 3 then 0 else 0x10)

/-- Code 0x05 (R184, R223, R227, R234). -/
def State.formatRule (s : State) (d : PlanDesc) (alg planes : Nat) (racks : List Nat) : Bool :=
  let points := (planeList planes).flatMap fun p => racks.map fun r => s.switchOf r p
  (d.oper == 1 && d.format == 0) || (d.round == 1 && (s.params.stochRound == 0 || isIntFmt d.format))
    || (hasPoints d.oper alg && points.any fun a =>
          !agentFormat a d.format || (d.disc == 1 && !agentArrival a) || (d.round == 1 && !agentStoch a))

/-- Code 0x06: sizes and addresses (R183, R227). -/
def sizesBad (d : PlanDesc) (m : Nat) : Bool :=
  (d.oper == 1 && (d.bytes == 0 || d.bytes % (64 * max 1 m) != 0 || (isBlockFmt d.format && d.bytes % (4032 * max 1 m) != 0)))
    || ((d.oper == 2 || d.oper == 3) && (d.bytes == 0 || d.bytes % 64 != 0))
    || (d.oper == 4 && d.bytes != 0) || d.tile % 64 != 0
    || (if d.oper = 3 then d.stride < d.bytes || d.stride % 64 != 0 else d.stride != 0)
    || d.src % 64 != 0 || d.dst % 64 != 0 || d.cpl % 64 != 0

/-- Code 0x03: members not in the slice or repeated, or a list whose length differs from M (R184). -/
def State.membersBad (s : State) (d : PlanDesc) (words : List Word) (ms : List Nat) : Bool :=
  let view := s.litView d.slice
  words.length != 16 + (d.m + 1) / 2 || ms.dedup.length != ms.length
    || ms.any fun en => match view, s.endpoint en with
      | some v, some e => !v.has (e / 128) (e % 128)
      | _, _ => true

/-- The slice's state allows a request (R184): 0x01, or 0x13 while it drains or is drained (log entry 29). -/
def State.planSliceRule (s : State) (slice : Nat) : Nat :=
  let st := s.sliceState slice
  if st = 2 then 0 else if st = 4 ∨ st = 5 then 0x13 else 0x01

/-- The head's checks of an INSTALL, in the order of their codes (R184): 0 and what the plan takes, or the reason. -/
def State.installRule (s : State) (q : HeadReq) : Nat × Option Admission :=
  let d := planDesc q.words
  let defined := s.groupMembers d.slice d.group
  let ms := if d.m = 0 then defined.getD [] else d.members
  let racks := s.memberRacks ms
  let alg := s.chooseAlg d ms racks q.noLnt
  let planes := s.planPlanes d.slice d.oper racks
  let np := (planeList planes).length
  let busy := (s.clp.live.any fun p => p.slice == d.slice && (planDesc p.desc).slot == d.slot && (planDesc p.desc).members.any ms.contains)
    || s.clp.adms.any fun a => a.req.slice == d.slice && (planDesc a.desc).slot == d.slot && (planDesc a.desc).members.any ms.contains
  let state := s.planSliceRule d.slice
  let code :=
    if state = 0x01 then 0x01
    else if !planClean q.words then 0x02
    else if s.membersBad d q.words ms then 0x03
    else if (d.m = 0 ∧ defined.isNone) ∨ (d.m ≠ 0 ∧ defined.any fun x => x != ms) then 0x04
    else if s.formatRule { d with m := ms.length } alg.1 planes racks ∨ alg.2.2 = 0x05 then 0x05
    else if sizesBad d ms.length then 0x06
    else if busy then 0x07
    else if alg.2.2 = 0x0A then 0x0A
    else if np = 0 then 0x0D
    else if alg.2.2 ≠ 0 then alg.2.2
    else state
  if code ≠ 0 then (code, none)
  else
    (0, some { req := q, ordinal := 0, desc := withMembers q.words ms, racks := racks, alg := alg.1, planes := planes,
               qnom := qNominal s.params.pieceMax d.bytes np, lnt := if alg.1 = 1 then s.lntNumber d.slice racks else none, fallback := alg.2.1,
               phase := .ordered, refused := 0, asked := s.tim.flash, offers := [], readies := [], q := 0, inFlight := 0, stretch := 0,
               ring := s.ringOrder racks, request := 0 })

/-- The plan a RELEASE names (R183, R184). -/
def State.releaseRule (s : State) (q : HeadReq) : Nat × Option HeadPlan :=
  let d := planDesc q.words
  let state := s.planSliceRule d.slice
  let p := s.clp.live.find? fun p => p.slice == d.slice && p.ordinal == d.ordinal && (planDesc p.desc).group == d.group
  if state = 0x01 then (0x01, none) else if !planClean q.words then (0x02, none) else if q.words.length ≠ 16 then (0x03, none)
  else if p.isNone then (0x0E, none) else if state ≠ 0 then (state, none) else (0, p)

/-! ### The head: the exchange (R185, R186, R189) -/

/-- PLAN_DONE to the member Keepers and the issuing Keeper: reason, TAG and issuing rack, E (R186, log entry 28). -/
def State.planDone (s : State) (racks : List Nat) (q : HeadReq) (ordinal reason e : Nat) : State :=
  let s := s.onClp fun c => { c with
    answered := (q.rack, q.tag, reason, ordinal, e, s.tim.flash) :: c.answered.filter fun x => !(x.1 == q.rack && x.2.1 == q.tag) }
  let m : KMsg := { s.planMsg 0x35 q.slice [w32 ordinal, w32 q.rack] with
    count := fieldAt 0 8 reason ||| fieldAt 8 12 q.tag, flash := BitVec.ofNat 48 e }
  (racks ++ if racks.contains q.rack then [] else [q.rack]).foldl (fun s r => s.tell (s.keeperOf r) m) s

/-- The head's next ordinal of a slice (R180). -/
def State.nextOrdinal (s : State) (slice : Nat) : Nat × State :=
  let n := (lookupNat slice s.clp.ordinals).getD 0 + 1
  (n, s.onClp fun c => { c with ordinals := insertNat slice n c.ordinals })

/-- PLAN_ORDER's records: the ordinal; ALG with the Lantern context and LNT_FALLBACK; PLANES; q_nom; M; the descriptor (R186, log entry 28). -/
def orderWords (a : Admission) : List Word :=
  [w32 a.ordinal, fieldAt 0 3 a.alg ||| fieldAt 8 8 (a.lnt.getD 0) ||| fieldAt 16 1 (b2n a.lnt.isSome) ||| fieldAt 17 1 (b2n a.fallback),
   fieldAt 0 16 a.planes, w32 a.qnom, w32 (planDesc a.desc).m] ++ a.desc

/-- A request taken in its domain's turn: refused at the first failure, or ordered (R184 to R186). -/
def State.startAdmission (s : State) (q : HeadReq) : State :=
  let d := planDesc q.words
  if d.op = 2 then
    match s.releaseRule q with
    | (0, some p) =>
      let a : Admission := { req := q, ordinal := p.ordinal, desc := p.desc, racks := p.racks, alg := p.alg, planes := p.planes, qnom := p.qnom, lnt := p.lnt,
                             fallback := false, phase := .releasing, refused := 0, asked := s.tim.flash, offers := [], readies := [], q := p.q, inFlight := p.inFlight,
                             stretch := 0, ring := [], request := 0 }
      let m := s.planMsg 0x31 q.slice ([w32 p.ordinal, 0, 0, 0, 0] ++ q.words)
      p.racks.foldl (fun s r => s.tell (s.keeperOf r) m) (s.onClp fun c => { c with adms := c.adms ++ [a] })
    | (code, _) => s.planDone [] q d.ordinal code 0
  else
    match s.installRule q with
    | (0, some a) =>
      let (n, s) := s.nextOrdinal q.slice
      let a := { a with ordinal := n }
      let s := (s.raiseIf a.fallback Fld.CLP_INT_STATUS_LNT_FALLBACK).raiseIf
        (a.fallback && s.lanternRule (planDesc a.desc) (planDesc a.desc).members a.racks == 0 && (s.lntNumber q.slice a.racks).isNone) Fld.LNT_INT_STATUS_CTX_SHORT
      let m := s.planMsg 0x31 q.slice (orderWords a)
      a.racks.foldl (fun s r => s.tell (s.keeperOf r) m) (s.onClp fun c => { c with adms := c.adms ++ [a] })
    | (code, _) => (s.raiseIf (code == 0x0A) Fld.LNT_INT_STATUS_CTX_SHORT).planDone [] q 0 code 0

/-- The domain of a slice: its own when GUARDED or SEALED, else the one of the OPEN slices, 0 (R185). -/
def State.domain (s : State) (slice : Nat) : Nat := if s.isFixed slice then slice else 0

/-- The head takes the requests of idle domains in order (R185); fuel bounds how many. -/
def State.admitPlans : Nat → State → State
  | 0, s => s.showPlans
  | n + 1, s =>
    if ¬ s.serialises then s.showPlans
    else match s.clp.queue.find? fun q => !(s.clp.adms.any fun a => s.domain a.req.slice == s.domain q.slice) with
    | none => s.showPlans
    | some q => State.admitPlans n ((s.onClp fun c => { c with queue := c.queue.erase q }).startAdmission q)

/-- The admission of an ordinal of a slice. -/
def State.admission (s : State) (slice ordinal : Nat) : Option Admission :=
  s.clp.adms.find? fun a => a.req.slice == slice && a.ordinal == ordinal

/-- An admission, changed. -/
def State.onAdm (s : State) (a : Admission) (f : Admission → Admission) : State :=
  s.onClp fun c => { c with adms := c.adms.map fun x => if x.req.slice = a.req.slice ∧ x.ordinal = a.ordinal then f x else x }

/-- An admission ends with PLAN_DONE; its domain takes the next request at a publication (R22, R185, R186). -/
def State.endAdmission (s : State) (a : Admission) (reason : Nat) : State :=
  let e := if reason = 0 ∧ a.phase ≠ .releasing then s.tim.flash + 2 else 0
  let s := s.onClp fun c => { c with adms := c.adms.filter fun x => !(x.req.slice == a.req.slice && x.ordinal == a.ordinal) }
  let s := s.onClp fun c =>
    if reason ≠ 0 then c
    else if a.phase = .releasing then { c with live := c.live.filter fun p => !(p.slice == a.req.slice && p.ordinal == a.ordinal) }
    else { c with live := c.live.concat { slice := a.req.slice, ordinal := a.ordinal, desc := a.desc, racks := a.racks, alg := a.alg, planes := a.planes,
                                          qnom := a.qnom, q := a.q, inFlight := a.inFlight, lnt := a.lnt, gen := a.ordinal % 64, genFlash := 0, lost := 0,
                                          remap := List.range 16, stalled := [], gone := 0, thaw := none } }
  s.planDone a.racks a.req a.ordinal reason e

/-- What the batch has gathered for the plans in admission is published: one refused by an offer or a ready report ends, one with every ready report
in is done (R22, R186, R189). -/
def State.settlePlans (s : State) : State :=
  s.clp.adms.foldl (fun s a =>
    if a.refused ≠ 0 then s.endAdmission a a.refused
    else if (a.phase == .committed || a.phase == .releasing) && a.racks.all a.readies.contains then s.endAdmission a 0 else s) s

/-- The head commits an admission (R188, R196): the rack words stand in ring order. -/
def State.commitPlan (s : State) (a : Admission) (q f : Nat) (ring : List Nat) : State :=
  let d := planDesc a.desc
  let np := (planeList a.planes).length
  let points := hasPoints d.oper a.alg
  let stretch := if points then stretchOf d.bytes np a.qnom q f else 256
  let s := s.onAdm a fun x => { x with q := q, inFlight := f, stretch := stretch, ring := ring, phase := .committed, asked := s.tim.flash }
  let racks := ring.map fun r => fieldAt 0 6 r ||| fieldAt 16 11 ((a.offers.find? fun o => o.1 == r).elim 0 (·.2.1))
  let m := s.planMsg 0x33 a.req.slice ([w32 a.ordinal, w32 q, w32 f, w32 stretch] ++ racks)
  a.racks.foldl (fun s r => s.tell (s.keeperOf r) m) s

/-- q and IN_FLIGHT from the offers (R188). -/
def Admission.fit (a : Admission) : Nat × Nat :=
  let q2 := a.offers.map (·.2.2.1)
  let q1 := a.offers.map (·.2.2.2)
  if q2.all (· ≠ 0) then (q2.foldl min a.qnom, 2) else (q1.foldl min a.qnom, 1)

/-! ### A member Keeper (R187 to R189) -/

/-- The record number of a plan that holds no context here: 2,048 and above, one for each slice and ordinal. -/
def deadCtx (slice ordinal : Nat) : Nat := 2048 + 256 * ordinal + slice

/-- PLAN_OFFER, sent again each flash until the exchange goes on (R186, R187). -/
def State.sendOffer (s : State) (p : Plan) : State :=
  s.tellHead ({ s.planMsg 0x32 p.slice [w32 p.ordinal, w32 (if p.ctx < 2048 then p.ctx else 0), fieldAt 0 16 p.q2 ||| fieldAt 16 16 p.q1] with count := w32 p.reason } : KMsg)

/-- PLAN_READY, sent again each flash until the exchange goes on (R186). -/
def State.sendPlanReady (s : State) (p : Plan) : State :=
  s.tellHead ({ s.planMsg 0x34 p.slice [w32 p.ordinal] with count := w32 p.reason } : KMsg)

/-- READY with a reason, from the next boundary on (R22, R188). -/
def State.reportReady (s : State) (ctx reason : Nat) : State := s.onPlan ctx fun p => { p with reason := reason, replied := true }

/-- Words written to an agent in requests of at most 1,020 words (R441). -/
def State.writeRun (s : State) (a : Addr) (addr : Nat) (ws : List Word) (cls slice engine : Nat) (purpose : MgmtFor) : State :=
  (chunks 1020 (ws.length / 1020 + 1) ws).zipIdx.foldl (fun s x =>
    if x.1.isEmpty then s else s.mgmtWrite a (addr + 4080 * x.2) x.1 cls slice engine purpose) s

/-- The member endpoint agents of a plan in this rack, with their member indices. -/
def State.planMembers (s : State) (p : Plan) : List (Addr × Nat) :=
  (s.membersIn (planDesc p.desc).members s.myRack).map fun x => (s.epAddr x.2, x.1)

/-- The switch agents that hold the plan's programmes in this rack. -/
def State.planSwitches (s : State) (p : Plan) : List Addr :=
  if usesSwitches (planDesc p.desc).oper p.alg then (planeList p.planes).map s.switchAddr else []

/-- The structures of a plan at an agent as bytes, as its check value covers them, its slot or programme in a state (R449). -/
def State.planImage (s : State) (p : Plan) (a : Addr) (state enable : Nat) : List Byte :=
  let d := planDesc p.desc
  let grp := (bytesOfWords p.groupWords).take (2 * d.m)
  if addrKind a = 1 then bytesOfWords (s.programmeWords p (addrIndex a) state) ++ grp ++ bytesOfWords (remapWords p.remap)
  else
    let member := ((s.planMembers p).find? fun x => x.1 == a).elim 0 (·.2)
    bytesOfWords (p.slotWords member state enable) ++ bytesOfWords (p.chainWords member) ++ grp ++ bytesOfWords (remapWords p.remap)

/-- An agent's slot or programme, chain, group table and remap are written, then its check value is asked for (R188, R449). -/
def State.installAgent (s : State) (p : Plan) (a : Addr) : State :=
  let d := planDesc p.desc
  let w := fun (s : State) (addr : Nat) (ws : List Word) (cls : Nat) => s.writeRun a addr ws cls p.slice 0x06 (.plan p.ctx)
  if addrKind a = 1 then
    let s := w s (0x400000 + 64 * p.groupBase) p.groupWords 10
    let s := w s (0x240000 + 8 * p.ctx) (remapWords p.remap) 10
    let s := w s (0x200000 + 64 * p.ctx) (s.programmeWords p (addrIndex a) 1) 10
    w s 0x80 [fieldAt 0 4 4 ||| fieldAt 8 11 p.ctx ||| fieldAt 31 1 1] 0
  else
    let member := ((s.planMembers p).find? fun x => x.1 == a).elim 0 (·.2)
    let s := w s (0x400000 + 64 * p.groupBase) p.groupWords 10
    let s := w s (0x300000 + 16 * p.chainBase) (p.chainWords member) 10
    let s := w s (0x240000 + 8 * d.slot) (remapWords p.remap) 10
    let s := w s (0x200000 + 64 * d.slot) (p.slotWords member 1 0) 4
    w s 0x80 [fieldAt 0 4 3 ||| fieldAt 8 11 d.slot ||| fieldAt 31 1 1] 0

/-- A plan's slots, chains, tables and programmes are installed in the rack; memory that is lacking reports 0x0B (R188). -/
def State.installPlan (s : State) (ctx : Nat) : State :=
  match s.plan ctx with
  | none => s
  | some p =>
    if s.lacksMemory p then s.reportReady ctx 0x0B
    else
      let agents := (s.planMembers p).map (·.1) ++ s.planSwitches p
      let s := s.onPlan ctx fun p => { p with toCheck := agents, rewritten := [] }
      agents.foldl (fun s a => s.installAgent p a) s

/-- A reply for a plan's installation: a check value asked for is read; a match is ticked off; a first mismatch is rewritten, a second
reports 0x12 (R188). A failed operation reports 0x12. -/
def State.planReply (s : State) (op : MgmtOp) (ctx status : Nat) (words : List Word) : State :=
  match s.plan ctx with
  | none => s
  | some p =>
    if p.st ≠ 2 ∨ p.replied then s
    else if status ≠ 0 then s.reportReady ctx 0x12
    else if op.write ∧ op.addr = 0x80 ∨ ¬ op.write ∧ bitAt (wordAt words 0) 31 then s.mgmtRead op.agent 0x80 3 0x06 (.plan ctx)
    else if op.write then s
    else if pairAt words 1 = (crc64 (s.planImage p op.agent 1 0)).toNat then
      let s := s.onPlan ctx fun p => { p with toCheck := p.toCheck.filter (· != op.agent) }
      if (s.plan ctx).any fun p => p.toCheck.isEmpty then s.reportReady ctx 0 else s
    else if p.rewritten.contains op.agent then s.reportReady ctx 0x12
    else (s.onPlan ctx fun p => { p with rewritten := op.agent :: p.rewritten }).installAgent p op.agent

/-- STATE of a plan's slots in this rack rewritten: 1 LOADED, 2 ENABLED (R210, R211). -/
def State.writeSlots (s : State) (p : Plan) (state : Nat) : State :=
  (s.planMembers p).foldl (fun s x =>
    s.mgmtWrite x.1 (0x200000 + 64 * (planDesc p.desc).slot) [wordAt (p.slotWords x.2 state p.enable) 0] 4 p.slice 0x06 .upkeep) s

/-- ENABLE_FLASH of a plan's slots, and the slot-enable of its programmes, which each agent takes at E (R189, R209, log entry 30). -/
def State.enableSlots (s : State) (p : Plan) : State :=
  let s := (s.planMembers p).foldl (fun s x =>
    s.mgmtWrite x.1 (0x200000 + 64 * (planDesc p.desc).slot + 28) [w32 p.enable] 4 p.slice 0x06 .upkeep) s
  (s.planSwitches p).foldl (fun s a =>
    s.mgmtWrite a (0x200000 + 64 * p.ctx) [wordAt (s.programmeWords p (addrIndex a) 2) 0] 4 p.slice 0x06 .upkeep) s

/-- A plan's slots set to LOADED: no new launch starts (R210, R211, R271, R273). -/
def State.loadSlots (s : State) (ctx : Nat) : State :=
  match s.plan ctx with
  | some p => if p.loaded then s else (s.onPlan ctx fun p => { p with loaded := true }).writeSlots p 1
  | none => s

/-- A loaded plan's slots set back to ENABLED (R211, R283). -/
def State.unloadSlots (s : State) (ctx : Nat) : State :=
  match s.plan ctx with
  | some p => if p.loaded then (s.onPlan ctx fun p => { p with loaded := false }).writeSlots p 2 else s
  | none => s

/-- What a plan holds in the rack is freed: slots and programmes FREE, the Lantern context, units, places, unacknowledged packets; with
`keep`, its record stays for its ready report (R210). -/
def State.freePlan (s : State) (ctx : Nat) (keep : Bool) : State :=
  match s.plan ctx with
  | none => s
  | some p =>
    let s := if p.st = 1 ∨ ctx ≥ 2048 then s
      else
        let s := s.writeSlots p 0
        (s.planSwitches p).foldl (fun s a => s.mgmtWrite a (0x200000 + 64 * p.ctx) [0] 4 p.slice 0x06 .upkeep) s
    let s := s.dropSent fun x => x.ctx == ctx
    let s := { s with lnt := { s.lnt with ctxs := s.lnt.ctxs.filter fun c => c.ctx != ctx },
                      lmp := { s.lmp with units := s.lmp.units.filter fun u => u.ctx != ctx } }
    let s := s.onClp fun c => { c with
      plans := if keep then c.plans.map fun x =>
        if x.ctx = ctx then { x with ctx := deadCtx x.slice x.ordinal, switchUnits := 0, storeUnits := 0, spillUnits := 0, places := [] } else x
      else c.plans.filter fun x => x.ctx != ctx }
    s.showPlans

/-- A launch of the plan runs or is queued at a member agent of this rack (R205). R210 and R166 wait for it and name no report by which the Keeper
learns of it: it is read where it stands (DEDUCED, log entry 114). -/
def State.memberLaunches (s : State) (p : Plan) : Bool :=
  let d := planDesc p.desc
  p.st != 1 && p.st != 2 && (s.planMembers p).any fun m => s.agents.any fun g =>
    g.addr == m.1 && g.slots.any fun x => x.slot == d.slot && (x.running || x.queued)

/-- A launch of the plan is in progress here: at a member agent; or a piece place or piece of the newest launch is open at the root, or a Lantern
buffer past D holds an input (R210, R276, log entry 32). -/
def State.launchOpen (s : State) (p : Plan) : Bool :=
  let d := planDesc p.desc
  let root := d.oper == 1 && p.alg == 2 && p.ring.length > 1 && p.launches != 0
    && (!p.places.isEmpty || (p.doneOf p.newest).dedup.length < pieceCount d.bytes p.q)
  let lnt := s.lnt.ctxs.any fun c => c.ctx == p.ctx && c.bufs.any fun b => b.result.isNone && (!b.got.isEmpty || !b.parts.isEmpty)
  root || lnt || !p.arrivals.isEmpty || s.memberLaunches p

/-- A RELEASE goes on when no launch is open: the plan is freed and the ready report goes out (R210). -/
def State.tryRelease (s : State) (ctx : Nat) : State :=
  match s.plan ctx with
  | some p =>
    if p.st = 4 ∧ ¬ p.replied ∧ ¬ s.launchOpen p then
      let s := s.freePlan ctx true
      s.reportReady (deadCtx p.slice p.ordinal) 0
    else s
  | none => s

/-- The Lantern legs of this rack toward the member racks (R250). -/
def State.lanternLegs (s : State) (racks : List Nat) : Nat × Nat × Nat × Nat :=
  let sx := s.axes.1
  let sy := s.axes.2
  let axis := fun (n here : Nat) (pos : Nat → Nat) =>
    racks.foldl (fun (acc : Nat × Nat) r =>
      let dx := (pos r + n - here) % n
      if dx ≤ n / 2 then (max acc.1 dx, acc.2) else (acc.1, max acc.2 (n - dx))) (0, 0)
  let x := axis sx s.rx fun r => r % sx
  let y := axis sy s.ry fun r => r / sx
  (x.1, x.2, y.1, y.2)

/-- The plan of a committed PLAN_DONE becomes live: ENABLE_FLASH, programmes, the Lantern context (R189, R247). -/
def State.enablePlan (s : State) (ctx e : Nat) : State :=
  let s := s.onPlan ctx fun p => { p with st := 3, enable := e, replied := false }
  match s.plan ctx with
  | none => s
  | some p =>
    let s := s.enableSlots p
    let s := match p.lnt with
      | some n =>
        let racks := s.memberRacks (planDesc p.desc).members
        { s with lnt := { s.lnt with
          ctxs := s.lnt.ctxs.concat { num := n, ctx := ctx, slice := p.slice, ordinal := p.ordinal, gen := p.gen, racks := racks,
                                      legs := s.lanternLegs racks, d := 0, live := true, bufs := [] } } }
      | none => s
    (s.raise Fld.CLP_INT_STATUS_ADMITTED).showPlans

/-- The result words of PLAN_COLLECTIVE (R189). -/
def Plan.results (p : Plan) (reason : Nat) : List Word :=
  let d := planDesc p.desc
  let np := (planeList p.planes).length
  [w32 p.ordinal,
   fieldAt 0 3 p.alg ||| fieldAt 4 2 p.inFlight ||| fieldAt 6 1 (b2n p.spill) ||| fieldAt 7 1 (b2n p.fallback) ||| fieldAt 16 11 p.ctx,
   fieldAt 0 16 p.q ||| fieldAt 16 16 p.stretch, fieldAt 0 16 p.planes ||| fieldAt 16 16 (ceilDiv (pieceCount d.bytes p.q) (max 1 np)),
   fieldAt 0 8 reason]

/-- PLAN_REQ to the head for an issued command (R186): the op word holds the TAG and whether LNT_EN is 0 here (log entry 28). -/
def State.sendPlanReq (s : State) (i : PlanIssued) : State :=
  if i.abort then
    s.tellHead (s.planMsg 0x47 i.slice [w32 i.ordinal, fieldAt 4 12 i.tag])
  else
    s.tellHead (s.planMsg 0x30 i.slice ((fieldAt 4 12 i.tag ||| fieldAt 16 1 (b2n !(s.flag Fld.LNT_CTRL_LNT_EN))) :: i.words))

/-- A refusal of a planner's command at this Keeper: error 7, CLP_REFUSALS, CLP_LAST_REFUSE, REFUSED (R184, R212). -/
def State.planRefused (s : State) (w reason slice group : Nat) (results : List Word) : State :=
  let s := s.countReg Reg.CLP_REFUSALS 1
  let s := s.setReg Reg.CLP_LAST_REFUSE (fieldAt 0 8 reason ||| fieldAt 8 8 slice ||| fieldAt 16 12 group)
  (s.raise Fld.CLP_INT_STATUS_REFUSED).complete w 7 reason results false

end Sys2Proof.Machine
end

