-- ==== Sys2Proof/Machine/LanternOps.lean ====
section
/-! DEFINITION. Machine/LanternOps.lean: the Lantern: packets, flood and relay, launch buffers, partials and results (R246 to R260). -/
namespace Sys2Proof.Machine

/-! ### The Lantern prefix (R253) -/

/-- The Lantern prefix of a packet. -/
structure LntPrefix where
  launch  : Nat
  kind    : Nat
  attempt : Nat
  member  : Nat
  origin  : Nat
  left    : Nat
  dir     : Nat
  yp      : Nat
  ym      : Nat
  ord     : Nat
  bytes   : Nat
  dropped : Nat
  count   : Nat
  clean   : Bool
deriving DecidableEq, Repr

/-- The prefix from a payload; `clean` says that every field the kind does not use and every reserved field is 0. -/
def lntPrefix (w : List Word) : LntPrefix :=
  let f := fun (i lo n : Nat) => bitsOf (wordAt w i) lo n
  let kind := f 0 16 4
  let flood := kind == 1 || kind == 2
  { launch := f 0 0 16, kind := kind, attempt := f 0 20 4, member := f 1 0 14, origin := f 1 16 6, left := f 2 0 3, dir := f 2 3 2, yp := f 2 5 3,
    ym := f 2 8 3, ord := f 2 16 16, bytes := f 3 0 12, dropped := f 4 0 32, count := f 5 0 14,
    clean := kind ≤ 3 && f 0 24 8 == 0 && f 1 14 2 == 0 && f 1 22 10 == 0 && f 2 11 5 == 0 && f 3 12 20 == 0 && f 5 14 18 == 0
      && (List.range 10).all (fun i => wordAt w (6 + i) == 0) && (flood || (f 1 16 6 == 0 && f 2 0 11 == 0)) && (kind == 0 || f 0 20 4 == 0)
      && (kind == 0 || kind == 3 || f 1 0 14 == 0x3FFF) && (kind == 0 || wordAt w 4 == 0) && (kind == 1 || kind == 3 || wordAt w 5 == 0) }

/-- The words of a prefix. -/
def LntPrefix.words (p : LntPrefix) : List Word :=
  [fieldAt 0 16 p.launch ||| fieldAt 16 4 p.kind ||| fieldAt 20 4 p.attempt, fieldAt 0 14 p.member ||| fieldAt 16 6 p.origin,
   fieldAt 0 3 p.left ||| fieldAt 3 2 p.dir ||| fieldAt 5 3 p.yp ||| fieldAt 8 3 p.ym ||| fieldAt 16 16 p.ord, fieldAt 0 12 p.bytes, w32 p.dropped,
   fieldAt 0 14 p.count] ++ List.replicate 10 0

/-- The first bytes of some words: the last word's other bytes are 0. -/
def cutBytes (n : Nat) (ws : List Word) : List Word :=
  (ws.take (n / 4)) ++ if n % 4 = 0 then [] else [fieldAt 0 (8 * (n % 4)) (bitsOf (wordAt ws (n / 4)) 0 (8 * (n % 4)))]

/-- The data words after the prefix. -/
def lntData (w : List Word) : List Word := cutBytes (bitsOf (wordAt w 3) 0 12) (w.drop 16)

/-! ### Contexts and buffers -/

/-- One Lantern context, changed. -/
def State.onLnt (s : State) (num ctx : Nat) (f : LntCtx → LntCtx) : State :=
  { s with lnt := { s.lnt with ctxs := s.lnt.ctxs.map fun c => if c.num = num ∧ c.ctx = ctx then f c else c } }

/-- The context live for a packet's OPTAG, SLICE and ORD (R250). -/
def State.lntCtx (s : State) (h : Hdr) (ord : Nat) : Option LntCtx :=
  s.lnt.ctxs.find? fun c => c.live && c.num == h.optag.toNat % 256 && c.slice == h.slice.toNat && c.ordinal % 65536 == ord

/-- A launch number lies one or two past D (R254). -/
def LntCtx.accepts (c : LntCtx) (l : Nat) : Bool :=
  let n := (l + 65536 - c.d) % 65536
  n == 1 || n == 2

/-- The buffer of a launch. -/
def LntCtx.buf (c : LntCtx) (l : Nat) : Option LntBuf := c.bufs.find? fun b => b.launch == l

/-- The context with a buffer for a launch: the one of two launches before is cleared (R254). -/
def LntCtx.open (c : LntCtx) (l now : Nat) : LntCtx :=
  if (c.buf l).isSome then c
  else
    let b : LntBuf := { launch := l, got := [], acc := [], parts := [], own := none, result := none, first := now, needAt := now }
    { c with bufs := b :: c.bufs.filter fun x => x.launch % 2 != l % 2 }

/-- The buffer of a launch, changed. -/
def LntCtx.onBuf (c : LntCtx) (l : Nat) (f : LntBuf → LntBuf) : LntCtx :=
  { c with bufs := c.bufs.map fun b => if b.launch = l then f b else b }

/-- LNT_STALE counts a packet that is not taken (R250, R254). -/
def State.lntStale (s : State) : State := s.countReg Reg.LNT_STALE 1

/-! ### Flood and relay (R250, R251) -/

/-- A flood packet sent one hop in a direction; with no path the hop is lost (R251). -/
def State.lntHop (s : State) (num slice gen : Nat) (p : LntPrefix) (data : List Word) (dir left : Nat) : State :=
  match s.hopPort dir with
  | none => ({ s with lnt := { s.lnt with hopsLost := s.lnt.hopsLost + 1 } }).raise Fld.LNT_INT_STATUS_HOP_LOST
  | some port =>
    let dest := s.keeper2 (nbrRack s.axes.1 s.axes.2 s.myRack dir)
    s.enqueue port (mkPacket dest s.selfLit 1 (BitVec.ofNat 8 slice) (BitVec.ofNat 6 gen) 0 0x30 num
      ({ p with left := left, dir := dir }.words ++ data))

/-- Hops in the directions whose leg is not 0, each one short of its leg. -/
def State.lntLegs (s : State) (num slice gen : Nat) (p : LntPrefix) (data : List Word) (legs : List (Nat × Nat)) : State :=
  legs.foldl (fun s x => if x.2 = 0 then s else s.lntHop num slice gen p data x.1 (x.2 - 1)) s

/-- A flood from this rack: PARTIAL or NEED along its own legs (R250). -/
def State.lntFlood (s : State) (c : LntCtx) (kind launch count : Nat) (data : List Word) (bytes : Nat) : State :=
  let p : LntPrefix := { launch := launch, kind := kind, attempt := 0, member := 0x3FFF, origin := s.myRack, left := 0, dir := 0, yp := c.legs.2.2.1,
                         ym := c.legs.2.2.2, ord := c.ordinal % 65536, bytes := bytes, dropped := 0, count := count, clean := true }
  s.lntLegs c.num c.slice c.gen p data [(0, c.legs.1), (1, c.legs.2.1), (2, c.legs.2.2.1), (3, c.legs.2.2.2)]

/-- A received flood packet passed on as its legs direct; LNT_RELAYED counts it (R250). -/
def State.lntRelay (s : State) (h : Hdr) (p : LntPrefix) (data : List Word) : State :=
  let on := (if p.left = 0 then [] else [(p.dir, p.left)]) ++ (if p.dir ≤ 1 then [(2, p.yp), (3, p.ym)] else [])
  let go := on.filter fun x => x.2 != 0
  let s := s.lntLegs (h.optag.toNat % 256) h.slice.toNat h.gen.toNat p data go
  if go.isEmpty then s else s.countReg Reg.LNT_RELAYED 1

/-! ### Arithmetic (R255) -/

/-- How the Lantern draws random bits at a step. -/
def lntRounding (d : PlanDesc) (launch step : Nat) : Rounding :=
  { stoch := d.round == 1, seed := d.seed, launch := launch, step := step }

/-- A contribution as it enters the sum: INT32 for code 11, accumulators under ARRIVAL (R228, R229). -/
def lntInput (d : PlanDesc) (ws : List Word) : List Word := if d.disc = 1 ∨ d.format = 11 then toAcc d.format ws else ws

/-- Contributions in ascending member index or rack number. -/
def insertIn (x : LntIn) : List LntIn → List LntIn
  | [] => [x]
  | y :: rest => if x.who < y.who then x :: y :: rest else y :: insertIn x rest

/-- Inputs sorted by who gave them. -/
def sortIns (xs : List LntIn) : List LntIn := xs.foldr insertIn []

/-- One AG record of a PARTIAL: member and length, bytes dropped, data padded to a word (R253). -/
def agRecord (x : LntIn) : List Word := [fieldAt 0 14 x.who ||| fieldAt 16 9 x.bytes, w32 x.dropped] ++ x.words

/-- The AG records of a PARTIAL. -/
def agRecords : Nat → List Word → List LntIn
  | 0, _ => []
  | n + 1, ws =>
    if ws.length < 2 then []
    else
      let len := bitsOf (wordAt ws 0) 16 9
      { who := bitsOf (wordAt ws 0) 0 14, words := (ws.drop 2).take ((len + 3) / 4), bytes := len, count := 1, dropped := (wordAt ws 1).toNat, plane := 0 }
        :: agRecords n (ws.drop (2 + (len + 3) / 4))

/-- The rack partial of a buffer: its words and bytes, and how many elements saturated (R253, R255). -/
def lntPartial (d : PlanDesc) (b : LntBuf) : List Word × Nat × Nat :=
  let ins := sortIns b.got
  if d.oper = 4 then ([], 0, 0)
  else if d.oper = 2 then
    let ws := ins.flatMap agRecord
    (ws, 4 * ws.length, 0)
  else
    let t := if d.disc = 1 then (b.acc, []) else treeSum d.format (lntRounding d b.launch 0) 0 7 0 (ins.map fun x => lntInput d x.words)
    let bytes := if d.disc = 1 ∧ ¬ isIntFmt d.format then 4 * elemsIn d.format d.bytes
      else if d.format = 11 then 4 * d.bytes else d.bytes
    (t.1, bytes, satCount t.2)

/-- The slots of an AG result and its table: bytes received and dropped per member (R253). -/
def agResult (d : PlanDesc) (ins : List LntIn) : List Word :=
  let slot := d.bytes / 4
  let rec1 := fun (i : Nat) => ins.find? fun x => x.who == i
  ((List.range d.m).flatMap fun i => ((rec1 i).elim [] (·.words) ++ List.replicate slot 0).take slot)
    ++ (List.range d.m).map fun i => (rec1 i).elim 0 fun x => fieldAt 0 9 x.bytes ||| fieldAt 9 23 (min (2 ^ 23 - 1) x.dropped)

/-- The result from every rack partial in ascending rack number (R255), and how many elements saturated. -/
def lntResult (d : PlanDesc) (launch : Nat) (parts : List LntIn) : List Word × Nat :=
  let ps := sortIns parts
  if d.oper = 4 then ([], 0)
  else if d.oper = 2 then (agResult d (ps.flatMap fun p => agRecords d.m p.words), 0)
  else if d.disc = 1 then finalRound d.format (lntRounding d launch 1) 0 (accTree d.format (lntRounding d launch 1) 0 (ps.map (·.words)))
  else
    let t := treeSum d.format (lntRounding d launch 1) 0 7 0 (ps.map (·.words))
    (t.1, satCount t.2)

/-- The shard of a member in an RS result (R178, R227). -/
def lntShard (d : PlanDesc) (member : Nat) (ws : List Word) : List Word × Nat :=
  let bytes := expectBytes d
  (wordsIn ws (member * bytes) bytes, bytes)

/-! ### Results (R252) -/

/-- RESULT to a member of the rack on a plane (R252, R253). -/
def State.sendLntResult (s : State) (c : LntCtx) (p : Plan) (launch member plane : Nat) (res : List Word) : State :=
  let d := planDesc p.desc
  let data := if d.oper = 1 then lntShard d member res else (res, 4 * res.length)
  let h : LntPrefix := { launch := launch, kind := 3, attempt := 0, member := member, origin := 0, left := 0, dir := 0, yp := 0, ym := 0,
                         ord := c.ordinal % 65536, bytes := data.2, dropped := 0, count := d.m, clean := true }
  let idx := (s.endpoint (d.members.getD member 0)).getD 0 % 128
  s.enqueue plane (mkPacket (s.epAddr idx) s.selfLit 1 (BitVec.ofNat 8 c.slice) (BitVec.ofNat 6 c.gen) 0 0x31 c.num (h.words ++ data.1))

/-- Bytes dropped by a member's contribution are counted, for the member and in the rack, and logged once per plan and member (R201). -/
def State.overflow (s : State) (ctx member bytes : Nat) : State :=
  match s.plan ctx with
  | none => s
  | some p =>
    let s := s.onPlan ctx fun p => { p with overs := insertNat member ((lookupNat member p.overs).getD 0 + bytes) p.overs,
                                            overLogged := if p.overLogged.contains member then p.overLogged else member :: p.overLogged }
    let s := s.countDrop p.slice member bytes
    let s := s.setPair Reg.CLP_OVERFLOW_LO (satAdd (2 ^ 64 - 1) (s.getPair Reg.CLP_OVERFLOW_LO) bytes)
    let body := [w32 p.ordinal, fieldAt 0 14 member, w32 bytes]
    let s := if p.overLogged.contains member then s.logAgain 0x033 0x06 p.slice body else s.logOwn 0x033 0x06 p.slice body
    s.raise Fld.CLP_INT_STATUS_OVERFLOW

/-- A launch whose own partial and every other rack's are held completes: the result goes to the rack's members, D moves on (R252, R254). -/
def State.lntComplete (s : State) (c : LntCtx) (launch : Nat) : State :=
  match s.lnt.ctxs.find? fun x => x.num == c.num && x.ctx == c.ctx, s.plan c.ctx with
  | some c, some p =>
    match c.buf launch with
    | none => s
    | some b =>
      match b.own with
      | none => s
      | some own =>
        let d := planDesc p.desc
        if b.result.isSome ∨ b.parts.length + 1 < c.racks.length then s
        else
          let me : LntIn := { who := s.myRack, words := own.1, bytes := own.2, count := 0, dropped := 0, plane := 0 }
          let res := if c.racks.length = 1 ∧ d.oper = 1 then
              (if d.disc = 1 then finalRound d.format (lntRounding d launch 1) 0 own.1 else (own.1, 0))
            else lntResult d launch (me :: b.parts)
          let fmt := if d.format = 11 then 10 else d.format
          let s := (s.countReg Reg.LMP_SAT_COUNT res.2).countReg Reg.LMP_NAN_COUNT (if d.oper = 1 then nanCount fmt res.1 else 0)
          let ns := (s.now - b.first) / 256
          let s := { s with lnt := { s.lnt with latMax := max s.lnt.latMax ns } }
          let s := if ns > 4000 then (s.countReg Reg.LNT_LATE 1).raise Fld.LNT_INT_STATUS_LATE else s
          let s := (s.onLnt c.num c.ctx fun x => { x.onBuf launch (fun y => { y with result := some res.1 }) with d := launch }).countReg Reg.LNT_LAUNCHES 1
          let s := ((s.onPlan c.ctx fun p => (p.seeLaunch launch).moved).progress 0x08).countLaunch p
          b.got.foldl (fun s x => s.sendLntResult c p launch x.who x.plane res.1) s
  | _, _ => s

/-- Every member of the rack is in the bitmap: the rack partial stands; it is the result of a single-rack plan, else it is flooded
(R249). -/
def State.lntRackDone (s : State) (c : LntCtx) (launch : Nat) : State :=
  match s.lnt.ctxs.find? fun x => x.num == c.num && x.ctx == c.ctx, s.plan c.ctx with
  | some c, some p =>
    match c.buf launch with
    | none => s
    | some b =>
      let d := planDesc p.desc
      if b.own.isSome ∨ b.got.length < (s.membersIn d.members s.myRack).length then s
      else
        let t := lntPartial d b
        let fmt := if d.format = 11 then 10 else d.format
        let s := (s.countReg Reg.LMP_SAT_COUNT t.2.2).countReg Reg.LMP_NAN_COUNT
          (if d.oper = 1 ∧ 1 < c.racks.length then nanCount (if d.disc = 1 ∧ ¬ isIntFmt d.format then 1 else fmt) t.1 else 0)
        let s := s.onLnt c.num c.ctx fun x => x.onBuf launch fun y => { y with own := some (t.1, t.2.1), needAt := s.now }
        let s := if c.racks.length ≤ 1 then s else s.lntFlood c 1 launch b.got.length t.1 t.2.1
        s.lntComplete c launch
  | _, _ => s

/-- A residue mismatch in a Lantern unit: logged and recomputed; a second one discards the buffer (R256). The word is coded as
LMP_LAST_RESIDUE, the row in LAMP. -/
def State.lntFault (s : State) (c : LntCtx) (launch : Nat) (w : Word) (twice : Bool) : State :=
  let body := fieldAt 0 6 (bitsOf w 0 6) ||| fieldAt 8 4 (bitsOf w 8 4) ||| fieldAt 12 1 (bitsOf w 12 1) ||| fieldAt 13 1 (b2n twice) ||| fieldAt 16 11 c.ctx
  let s := (s.logOwn 0x030 0x08 c.slice [body]).raise Fld.LNT_INT_STATUS_RESIDUE
  if twice then
    (({ s with lnt := { s.lnt with discards := s.lnt.discards + 1 } } : State).onLnt c.num c.ctx fun x => { x with bufs := x.bufs.filter fun b => b.launch != launch }).raise Fld.LNT_INT_STATUS_BUFFER_DISCARD
  else s

/-! ### Taking packets (R249, R250, R254, R258) -/

/-- A CONTRIB's fields disagree with its context (R254). -/
def State.lntDisagrees (s : State) (p : Plan) (h : Hdr) (x : LntPrefix) (len : Nat) : Bool :=
  let d := planDesc p.desc
  let idx := match s.endpoint (d.members.getD x.member 0x3FFF) with
    | some e => e / 128 == s.myRack && s.epAddr (e % 128) == h.src && x.member < d.m
    | none => false
  !idx || (d.oper == 1 && x.bytes != d.bytes) || (d.oper == 2 && x.bytes > d.bytes) || (d.oper == 4 && x.bytes != 0)
    || len != 16 * (1 + (x.bytes + 63) / 64)

/-- A CONTRIB is taken into its launch buffer, or discarded as stale, disagreeing or duplicate (R249, R254, R257). -/
def State.takeLntContrib (s : State) (port : Nat) (pkt : Packet) (fault : Option (Word × Bool)) : State :=
  let h := pkt.hdr
  let x := lntPrefix pkt.payload
  let s := s.returnCredits port h
  match (s.lntCtx h x.ord).bind fun c => (s.plan c.ctx).map fun p => (c, p) with
  | none => s.lntStale
  | some (c, p) =>
    if c.gen ≠ h.gen.toNat then s.lntStale
    else if s.lntDisagrees p h x pkt.payload.length then
      s.lntStale.logOwn 0x017 0x03 0 ([fieldAt 0 8 port ||| fieldAt 8 8 h.opkind.toNat ||| fieldAt 16 4 6, w32 h.src.toNat] ++ hdrWords h)
    else if ¬ c.accepts x.launch then
      match c.buf x.launch with
      | some b =>
        match b.result with
        | some res => (s.countReg Reg.LNT_DUPLICATES 1).sendLntResult c p x.launch x.member port res
        | none => s.lntStale
      | none => s.lntStale
    else if (c.buf x.launch).any fun b => b.got.any fun y => y.who == x.member then
      s.countReg Reg.LNT_DUPLICATES 1
    else
      let d := planDesc p.desc
      let data := lntData pkt.payload
      let y : LntIn := { who := x.member, words := data, bytes := x.bytes, count := 1, dropped := x.dropped, plane := port }
      let s := s.onLnt c.num c.ctx fun k => (k.open x.launch s.now).onBuf x.launch fun b => { b with
        got := b.got ++ [y],
        acc := if d.oper = 1 ∧ d.disc = 1 then
            (if b.got.isEmpty then lntInput d data else accumulate d.format (lntRounding d x.launch 0) b.got.length 0 b.acc (lntInput d data))
          else b.acc }
      let s := if x.dropped ≠ 0 then s.overflow c.ctx x.member x.dropped else s
      let s := match fault with
        | some f => s.lntFault c x.launch f.1 f.2
        | none => s
      s.lntRackDone c x.launch

/-- A PARTIAL is taken when its context is live here and its origin is another member rack; then it is relayed (R250). -/
def State.takeLntPartial (s : State) (port : Nat) (pkt : Packet) (fault : Option (Word × Bool)) : State :=
  let h := pkt.hdr
  let x := lntPrefix pkt.payload
  let data := lntData pkt.payload
  let s := s.returnCredits port h
  let s := match s.lntCtx h x.ord with
    | none => s
    | some c =>
      if c.gen ≠ h.gen.toNat ∨ x.origin = s.myRack ∨ ¬ c.racks.contains x.origin then s.lntStale
      else if (c.buf x.launch).any fun (b : LntBuf) => b.parts.any fun (y : LntIn) => y.who == x.origin then s.countReg Reg.LNT_DUPLICATES 1
      else if ¬ c.accepts x.launch then s.lntStale
      else
        let y : LntIn := { who := x.origin, words := data, bytes := x.bytes, count := x.count, dropped := 0, plane := port }
        let s := s.onLnt c.num c.ctx fun k => (k.open x.launch s.now).onBuf x.launch fun b => { b with parts := b.parts ++ [y] }
        let s := match fault with
          | some f => s.lntFault c x.launch f.1 f.2
          | none => s
        s.lntComplete c x.launch
  s.lntRelay h x data

/-- A NEED draws the rack partial again from a member that holds it; then it is relayed (R250, R258). -/
def State.takeLntNeed (s : State) (port : Nat) (pkt : Packet) : State :=
  let h := pkt.hdr
  let x := lntPrefix pkt.payload
  let s := s.returnCredits port h
  let s := match s.lntCtx h x.ord with
    | none => s
    | some c =>
      if c.gen ≠ h.gen.toNat ∨ x.origin = s.myRack ∨ ¬ c.racks.contains x.origin then s.lntStale
      else match (c.buf x.launch).bind fun b => b.own.map fun o => (b, o) with
        | some (b, o) => s.lntFlood c 1 x.launch b.got.length o.1 o.2
        | none => s
  s.lntRelay h x []

/-- A LANTERN_UP packet by its kind; a kind that disagrees with its OPKIND falls under R17 (R253). -/
def State.lanternUp (s : State) (port : Nat) (pkt : Packet) (fault : Option (Word × Bool)) : State :=
  let s := s.received port pkt.hdr
  match s.refused port pkt.hdr with
  | some t => t
  | none =>
    let x := lntPrefix pkt.payload
    if ¬ x.clean ∨ x.kind > 2 ∨ pkt.hdr.opkind ≠ 0x30 ∨ pkt.hdr.optag.toNat ≥ 256 then s.refusePacket port pkt.hdr 2
    else if x.kind = 0 then s.takeLntContrib port pkt fault
    else if x.kind = 1 then s.takeLntPartial port pkt fault
    else s.takeLntNeed port pkt

/-! ### Lantern planes (R248) -/

/-- Endpoint i's link to switch p is LIT, as the switch's port record shows it. -/
def State.epLinkLit (s : State) (i p : Nat) : Bool :=
  s.link.nbrs.any fun n => n.agent == s.switchAddr p && n.port == i && n.state == 4

/-- The first plane from the endpoint's index mod 16 on, wrapping, with both links LIT (R248). -/
def State.lanternPlane (s : State) (i : Nat) : Option Nat :=
  ((List.range 16).map fun k => (i + k) % 16).find? fun p => s.epLinkLit i p && s.portLit p

/-- Lantern planes that changed are written, at endpoints where a plane qualifies (R248). -/
def State.writeLanternPlanes (s : State) : State :=
  if ¬ s.lit then s
  else
    s.rackEndpoints.foldl (fun s a =>
      let i := addrIndex a
      match s.lanternPlane i with
      | none => s
      | some p =>
        if lookupNat i s.lnt.planes = some p then s
        else
          let was := (lookupNat i s.lnt.planes).isSome
          let s := { s with lnt := { s.lnt with planes := insertNat i p s.lnt.planes } }
          (s.mgmtWrite a 0x38 [w32 p] 7 0 0x08 .upkeep).raiseIf was Fld.LNT_INT_STATUS_PLANE_MOVED) s

end Sys2Proof.Machine
end

