-- ==== Sys2Proof/Machine/AgentBase.lean ====
section
/-! DEFINITION. Machine/AgentBase.lean: an agent's record, its words, events, journal, time and ports (R438 to R440, R445, R446, R453 to R457). -/
namespace Sys2Proof.Machine

/-! ### The record -/

/-- An agent's record; one not listed is as it comes up. -/
def State.agent (s : State) (a : Addr) : Agent := (s.agents.find? fun x => x.addr == a).getD (Agent.fresh a)

/-- One agent's record, changed. -/
def State.onAgent (s : State) (a : Addr) (f : Agent → Agent) : State :=
  let l := if s.agents.any fun x => x.addr == a then s.agents else s.agents ++ [Agent.fresh a]
  { s with agents := l.map fun x => if x.addr = a then f x else x }

/-- The agent is a switch agent (R440). -/
def isSwitch (a : Addr) : Bool := addrKind a == 1

/-- The agent is an FA3 endpoint agent. -/
def isFa3Endpoint (a : Addr) : Bool := addrKind a == 0 && agentGen a == 3

/-- Slots of an endpoint agent, programmes of a switch agent (R440). -/
def agentUnits (a : Addr) : Nat := if isSwitch a then bitsOf (Config.agentCaps0 a) 0 12 else agentSlots a

/-- The reset value of a word an agent keeps (R439, R451). -/
def agentReset (a : Addr) (addr : Nat) : Word :=
  if addr = 0x18 ∧ isSwitch a then 0x84 else if addr = 0x1C then 0x40400814 else if addr = 0x20 then 0x7D0 else if addr = 0x24 then 0x11233
  else if addr = 0x28 then 10
  else if 0x240000 ≤ addr ∧ addr < 0x240000 + 8 * agentUnits a then (if addr % 8 = 0 then 0x76543210 else 0xFEDCBA98)
  else 0

/-- A word an agent keeps. -/
def Agent.word (a : Agent) (addr : Nat) : Word :=
  match lookupNat addr a.mem with
  | some w => w
  | none => agentReset a.addr addr

/-- A word kept in its canonical form. -/
def Agent.put (a : Agent) (addr : Nat) (w : Word) : Agent :=
  { a with mem := if w = agentReset a.addr addr then eraseNat addr a.mem else insertNat addr w a.mem }

/-- n words from an address on. -/
def Agent.run (a : Agent) (addr n : Nat) : List Word := (List.range n).map fun i => a.word (addr + 4 * i)

/-- A byte an agent keeps. -/
def Agent.byte (a : Agent) (addr : Nat) : Nat := bitsOf (a.word (addr / 4 * 4)) (8 * (addr % 4)) 8

/-- A halfword of group memory: entry i of the table at a base in 64-byte units (R203). -/
def Agent.groupEn (a : Agent) (base i : Nat) : Nat := bitsOf (a.word ((0x400000 + 64 * base + 2 * i) / 4 * 4)) (16 * (i % 2)) 14

/-! ### Registers in use -/

/-- F of the arming (R440). -/
def Agent.armF (a : Agent) : Nat := (a.word 0x44).toNat + bitsOf (a.word 0x48) 0 16 * 2 ^ 32

/-- The drain set D (R439). -/
def Agent.drainSet (a : Agent) : Nat := numOfWords (a.run 0x50 8)

/-- FA_SELF of the lit bank: the endpoint's slice. -/
def Agent.slice (a : Agent) : Nat := bitsOf (a.word (0x10 + 4 * a.lit)) 16 8

/-- FA_SELF of the lit bank: the endpoint's EN. -/
def Agent.en (a : Agent) : Nat := bitsOf (a.word (0x10 + 4 * a.lit)) 0 14

/-- RETX_MAX and RETRY_LIMIT of FA_PARAMS. -/
def Agent.retxMax (a : Agent) : Nat := bitsOf (a.word 0x1C) 8 4
/-- RETRY_LIMIT. -/
def Agent.retryLimit (a : Agent) : Nat := bitsOf (a.word 0x1C) 16 8
/-- SUPERSEDE_FLASHES. -/
def Agent.grace (a : Agent) : Nat := bitsOf (a.word 0x1C) 24 8

/-- The agent's fabric time: its flash, and the offset, which it shares with its Keeper (log entry 51). -/
def State.agentNow (s : State) (a : Agent) : Nat := s.absTime a.flash s.tim.offset

/-! ### Ports -/

/-- A port's record. -/
def Agent.port (a : Agent) (n : Nat) : AgPort := (a.ports.find? fun p => p.num == n).getD (AgPort.fresh n)

/-- One port's record, changed. -/
def Agent.onPort (a : Agent) (n : Nat) (f : AgPort → AgPort) : Agent :=
  let l := if a.ports.any fun p => p.num == n then a.ports else a.ports ++ [AgPort.fresh n]
  { a with ports := l.map fun p => if p.num = n then f p else p }

/-- Ports of an agent: 134 of a switch, 16 links of an endpoint (R39, R439). -/
def agentPorts (a : Addr) : Nat := if isSwitch a then 134 else 16

/-- The state code a port shows: held in QUARANTINED or EXTRA by HOLD (R105, R440). -/
def AgPort.state (p : AgPort) : Nat := if p.hold = 1 then 9 else if p.hold = 2 then 8 else p.st

/-- The port is LIT. -/
def Agent.portLit (a : Agent) (n : Nat) : Bool := (a.port n).state == 4

/-- The n-th plane upward from a plane, wrapping, among those whose own link is LIT (R248, 17_filis_agent.md, Events). -/
def Agent.planeUp (a : Agent) (from_ n : Nat) : Option Nat :=
  let lit := ((List.range 16).map fun k => (from_ + k) % 16).filter a.portLit
  if lit.isEmpty then none else lit[n % lit.length]?

/-- The port an agent's events and reports leave by (17_filis_agent.md, Events): a switch's active-Keeper port, an endpoint's Lantern plane or the
next LIT one. -/
def Agent.eventPort (a : Agent) : Option Nat :=
  if isSwitch a.addr then some (bitsOf (a.word 0x18) 0 8) else a.planeUp (bitsOf (a.word 0x38) 0 4) 0

/-! ### Sending -/

/-- A packet waits at an egress of an agent: one formed here, or one that stands in the buffer of an ingress port and VC (R58, R59, R62, R63). -/
def State.agQueue (s : State) (a : Addr) (port : Nat) (came : Option (Nat × Nat)) (p : Packet) : State :=
  s.onAgent a fun g => g.onPort port fun x => { x with eg := x.eg.join came p }

/-- A packet of an agent's own leaves by a port. -/
def State.agentSend (s : State) (a : Addr) (port : Nat) (p : Packet) : State := s.agQueue a port none p

/-- Credits of an agent's ingress buffer go back to the sender (R62). -/
def State.agCredits (s : State) (a : Addr) (port vc units : Nat) : State := s.send (.agentCredits a port vc units)

/-- The credits of a packet that is taken, or discarded, at an agent's port (R62). -/
def State.agReturn (s : State) (a : Addr) (port : Nat) (h : Hdr) : State := s.agCredits a port h.vc.toNat (packetUnits h)

/-- Packets that wait at an agent's egresses are discarded where a test holds, and their credits are returned (R145, R146). -/
def State.agFlush (s : State) (a : Addr) (gone : AgPort → Waiting → Bool) : State :=
  let ws := (s.agent a).ports.flatMap fun p => p.eg.queue.filter (gone p)
  let s := s.onAgent a fun g => { g with ports := g.ports.map fun (p : AgPort) => { p with eg := { p.eg with queue := p.eg.queue.filter fun w => !gone p w } } }
  ws.foldl (fun s w => match w.came with
    | some c => s.agCredits a c.1 c.2 (packetUnits w.pkt.hdr)
    | none => s) s

/-- Weight of a VC at an agent: FA_VCW for VC2 to VC6, 3 for VC7 (R58, R61). -/
def Agent.vcWeight (g : Agent) (vc : Nat) : Nat := if vc = 7 then 3 else bitsOf (g.word 0x24) (4 * (vc - 2)) 4

/-- A packet may start: a paused endpoint starts none of its slice on SVC 2 to 6 (R143). -/
def Agent.mayStart (g : Agent) (w : Waiting) : Bool := isSwitch g.addr || !g.paused || w.pkt.hdr.svc.toNat < 2 || w.pkt.hdr.svc == 7

/-- A link control block leaves an agent's port (R94). -/
def State.agLcb (s : State) (a : Addr) (n type body : Nat) : State :=
  (s.onAgent a fun g => g.onPort n fun p => { p with lcbSeq := (p.lcbSeq + 1) % 256 }).send (.agentLcb a n (lcbBlock type ((s.agent a).port n).lcbSeq body))

/-- A port's buckets filled to now (R60). -/
def State.agFill (s : State) (a : Addr) (n : Nat) : State := s.onAgent a fun g => g.onPort n fun p => { p with eg := s.fillEgress p.lanes p.eg }

/-- An agent's egress chooses its next packet; it leaves with TSTX and HCRC written, and with it the credits of the buffer it stood in (R54, R59 to R62).
A LIT link carries everything, a HELD one VC0 only (R96). -/
def State.agEmit (s : State) (a : Addr) (n : Nat) : State :=
  let s1 := s.agFill a n
  let g := s1.agent a
  let p := g.port n
  if p.state = 4 ∨ p.state = 5 then
    match p.eg.choose g.vcWeight true (p.state == 5) g.mayStart with
    | none => s1
    | some (w, q) =>
      let s1 := s1.onAgent a fun g => g.onPort n fun p => { p with eg := q.taken w, sent := countSent w p.sent }
      let s1 := match w.came with
        | some c => s1.agCredits a c.1 c.2 (packetUnits w.pkt.hdr)
        | none => s1
      let o := agentOffset a s.tim.offset
      s1.send (.agentPacket a n { stampTime g.flash o w.pkt with hdr := stampHdr w.pkt.hdr o })
  else s1

/-- The MGMT_EVENT packet of a part of an event (R445), padded to whole granules. -/
def eventPacket (a : Addr) (e : KeptEvent) (part parts : Nat) (body : List Word) : Packet :=
  mkPacket (mkAddr 2 (addrX a) (addrY a) 2) a 0 0 0 0 0x05 0
    ([fieldAt 0 8 e.cls ||| fieldAt 8 12 e.seq ||| fieldAt 20 4 part ||| fieldAt 24 4 (parts - 1), loHalf e.flash, fieldAt 0 16 (e.flash / 2 ^ 32),
      fieldAt 0 25 e.offset, loHalf e.subject, fieldAt 0 16 (e.subject / 2 ^ 32), e.arg, 0] ++ body)

/-- An event as it is sent: in packets of at most 1,016 body words (R53, R445). -/
def State.sendEvent (s : State) (a : Addr) (e : KeptEvent) : State :=
  match (s.agent a).eventPort with
  | some n =>
    let parts := chunks 1016 (e.body.length / 1016 + 1) e.body
    parts.zipIdx.foldl (fun s x => s.agentSend a n (eventPacket a e x.2 parts.length x.1)) s
  | none => s

/-- An acknowledged event: kept and sent; dropped and counted when 64 wait (R446). -/
def State.agentEvent (s : State) (a : Addr) (cls subject : Nat) (arg : Word) (body : List Word) : State :=
  let g := s.agent a
  let e : KeptEvent := { seq := g.nextSeq, cls := cls, flash := g.flash, offset := agentOffset a s.tim.offset, subject := subject, arg := arg, body := body, sends := 1 }
  let s := s.onAgent a fun g => { g with nextSeq := (g.nextSeq + 1) % 4096 }
  if g.events.length ≥ 64 then s.onAgent a fun g => { g with dropped := satAdd 65535 g.dropped 1 }
  else (s.onAgent a fun g => { g with events := g.events ++ [e] }).sendEvent a e

/-! ### The journal (R379, R453, R454) -/

/-- A record written: over the oldest when 256 are held, which sets OVERFLOW when that one is less than 4 flashes older. -/
def Agent.journalise (a : Agent) (cls slice tag : Nat) (x y : Word) : Agent :=
  let r : AgRec := { flash := a.flash, words := [loHalf a.flash, fieldAt 0 4 cls ||| fieldAt 8 8 slice ||| fieldAt 16 12 tag, x, y] }
  let lost := 256 ≤ a.journal.length ∧ (a.journal.getLast?.any fun o => decide (a.flash < o.flash + 4))
  { a with journal := (r :: a.journal).take 256, jcount := (a.jcount + 1) % 65536, overflow := a.overflow || decide lost }

/-- The shared TABLE record of a flash: A counts the writes (R453). -/
def Agent.journalTable (a : Agent) (n : Nat) : Agent :=
  match a.journal.findIdx? fun r => r.flash == a.flash && bitsOf (wordAt r.words 1) 0 4 == 10 with
  | some i => { a with journal := modifyAt (fun (r : AgRec) =>
      { r with words := [wordAt r.words 0, wordAt r.words 1, w32 ((wordAt r.words 2).toNat + n), 0] }) i a.journal }
  | none => a.journalise 10 0 0 (w32 n) 0

/-- The journal's word at an offset from 0x3000: record i stands at 16 × (i mod 256). -/
def Agent.journalWord (a : Agent) (off : Nat) : Word :=
  let k := off / 16 % 256
  match a.journal.zipIdx.find? fun x => (a.jcount + 65536 - 1 - x.2) % 256 == k with
  | some x => wordAt x.1.words (off % 16 / 4)
  | none => 0

/-! ### Time (R456) -/

/-- The phase an agent may slew in one flash, in 2^-12 ns: MAX_SLEW_PPM of the Keeper's setting, at most 100 ppm for FA2 (R456, R461). -/
def State.slewLimit (s : State) (a : Addr) : Nat :=
  let ppm := s.getF Fld.TIM_PARAMS_MAX_SLEW_PPM
  (if agentGen a = 2 then min 100 ppm else ppm) * s.tim.periodUs * 4096 / 1000

end Sys2Proof.Machine
end

