-- ==== Sys2Proof/Machine/AgentFlow.lean ====
section
/-! DEFINITION. Machine/AgentFlow.lean: an agent's flows and windows, and how a switch agent routes (R50, R62 to R65, R131, R193 to R195, R264). -/
namespace Sys2Proof.Machine

/-! ### Routing at a switch agent -/

/-- The lit entry of a destination EN (R131). -/
def Agent.entry (a : Agent) (en : Nat) : Word := a.word (0x100000 + 0x10000 * a.lit + 4 * en)

/-- Word w of the lit port slice map (R159). -/
def Agent.sliceMap (a : Agent) (w : Nat) : Word := a.word (0x120000 + 0x400 * a.lit + 4 * w)

/-- Where coordinate routing sends a packet (R50). -/
inductive CoordHop where
  | port (n : Nat)
  | self
  | replicate
  | discard
deriving DecidableEq, Repr

/-- coord_route (R50), with an address outside the axes unroutable (R47). -/
def State.coordRoute (s : State) (a : Agent) (d : Addr) : CoordHop :=
  if s.axes.1 ≤ addrX d ∨ s.axes.2 ≤ addrY d then .discard
  else if addrX d > addrX a.addr then .port 128
  else if addrX d < addrX a.addr then .port 129
  else if addrY d > addrY a.addr then .port 130
  else if addrY d < addrY a.addr then .port 131
  else if addrKind d = 0 then .port (addrIndex d)
  else if addrKind d = 1 then (if addrIndex d = addrIndex a.addr then .self else .discard)
  else if addrKind d = 2 then .port (if addrIndex d = 0 then 132 else if addrIndex d = 1 then 133 else bitsOf (a.word 0x18) 0 8)
  else .replicate

/-- The virtual channel at an egress: VC7 from the hop on at which the route crosses a dateline (R56, R131). -/
def egressVc (h : Hdr) (entry : Word) : BitVec 3 := if h.vc = 7 ∨ bitAt entry 8 then 7 else h.vc

/-- A packet that a switch agent itself originates in EN mode, by its own tables (R195). -/
def State.originate (s : State) (a : Addr) (p : Packet) : State :=
  let e := (s.agent a).entry p.hdr.dest.toNat
  if bitAt e 9 then s.agentSend a (bitsOf e 0 8) { p with hdr := { p.hdr with vc := egressVc p.hdr e } } else s

/-! ### A plane for a packet between endpoints (R132, R133) -/

/-- The byte of EN_RACK of the lit bank. -/
def Agent.enRack (a : Agent) (en : Nat) : Nat := a.byte (0x100000 + 0x4000 * a.lit + en)

/-- The planes of a weighted round toward a rack: each plane as often as its weight, vetoed planes left out. The spec gives no order of the
turns: all of a plane's in a row, planes ascending, are the model's choice (DESIGN CHOICE, log entry 111). -/
def Agent.planeRound (a : Agent) (rack : Nat) : List Nat :=
  let wt := a.word (0x108000 + 0x100 * a.lit + 4 * rack)
  let veto := bitsOf (a.word ((0x108200 + 2 * rack) / 4 * 4)) (16 * (rack % 2)) 16
  (List.range 16).flatMap fun p => if veto.testBit p then [] else List.replicate (bitsOf wt (2 * p) 2) p

/-- The plane of the next packet to an EN, and the round advanced; none when the packet is unroutable, which is counted. -/
def State.choosePlane (s : State) (a : Addr) (en : Nat) : Option Nat × State :=
  let g := s.agent a
  let e := g.enRack en
  let round := if e.testBit 7 then g.planeRound (e % 64) else []
  let turn := (lookupNat (e % 64) g.turn).getD 0
  match round[turn % max 1 round.length]? with
  | some p => (some p, s.onAgent a fun g => { g with turn := insertNat (e % 64) ((turn + 1) % round.length) g.turn })
  | none => (none, s.onAgent a fun g => { g with nosend := g.nosend + 1 })

/-! ### Flows (R64, R65): of a source, a destination, an SVC and a path (log entry 52) -/

/-- The key of a flow's path. Contributions of one endpoint on 16 planes go to 16 consumers under one SRC and DEST, so a flow of an endpoint is of
its plane; packets between endpoints, which change planes freely, have the key 16, coordinate-mode packets 17, and so has every flow of a
switch. -/
def flowKey (a : Addr) (port : Nat) (h : Hdr) : Nat :=
  if h.amode then 17 else if isSwitch a || [0x10, 0x11, 0x12, 0x23].contains h.opkind.toNat then 16 else port

/-- One agent's flows, changed where a test holds. -/
def State.onAgFlow (s : State) (a : Addr) (mine : Flow → Bool) (f : Flow → Flow) : State :=
  s.onAgent a fun g => { g with flows := g.flows.map fun x => if mine x then f x else x }

/-- A coordinate-mode packet that a switch itself forms goes by R50. -/
def State.originateCoord (s : State) (a : Addr) (p : Packet) : State :=
  match s.coordRoute (s.agent a) p.hdr.dest with
  | .port n => s.agentSend a n p
  | _ => s

/-- A packet of an agent leaves: a switch's by its tables or by R50, an endpoint's by its plane, by a plane chosen now, or by the port where the
packet it answers came in. -/
def State.agLeave (s : State) (a : Addr) (key back : Nat) (p : Packet) : State :=
  if isSwitch a then (if p.hdr.amode then s.originateCoord a p else s.originate a p)
  else if key < 16 then s.agentSend a key p
  else if key = 17 then s.agentSend a back p
  else
    let r := s.choosePlane a p.hdr.dest.toNat
    match r.1 with
    | some n => r.2.agentSend a n p
    | none => r.2

/-- The slot or programme is frozen (R281, R452). -/
def Agent.isFrozen (g : Agent) (ctx : Nat) : Bool :=
  if isSwitch g.addr then g.progs.any fun x => x.ctx == ctx && x.frozen else g.slots.any fun x => x.slot == ctx && x.frozen

/-- No new packet of a flow is started: the agent's slice is paused, or the slot or programme is frozen (R64, R143, R166, R281). Under FA_PAUSE what stands
in the window, its resends and acknowledgements go on, or no window would become empty (DEDUCED, log entry 117). -/
def Agent.isHeld (g : Agent) (ctx : Nat) : Bool := g.paused || bitAt (g.word 0x3C) 0 || g.isFrozen ctx

/-- Packets of a flow leave while its window has room (R64). -/
def State.agPump : Nat → Addr → (Flow → Bool) → State → State
  | 0, _, _, s => s
  | n + 1, a, mine, s =>
    let g := s.agent a
    match g.flows.find? fun f => f.isSource && mine f with
    | none => s
    | some f =>
      match f.wait with
      | [] => s
      | w :: rest =>
        if f.sent.length ≥ g.window ∨ g.isHeld w.ctx then s
        else
          let p : Packet := { w.pkt with hdr := { w.pkt.hdr with wseq := BitVec.ofNat 12 f.next } }
          let s := s.onAgFlow a (fun x => x.isSource && mine x) fun x =>
            { x with next := (x.next + 1) % 4096, wait := rest, sent := x.sent ++ [{ w with wseq := x.next, pkt := p, sends := 1, stamp := s.agentNow g }] }
          State.agPump n a mine (s.agLeave a f.port 0 p)

/-- Every flow of an agent pumped, as after a pause, a thaw or an acknowledgement. -/
def State.agPumpAll (s : State) (a : Addr) : State :=
  (s.agent a).flows.foldl (fun s f => State.agPump 64 a (fun x => x.src == f.src && x.dest == f.dest && x.svc == f.svc && x.port == f.port) s) s

/-- A packet as an agent forms it: mode, channels, slice and generation. -/
def agentPkt (amode : Bool) (src dest : Addr) (svc slice gen opkind optag : Nat) (ws : List Word) : Packet :=
  let p := mkPacket dest src svc (BitVec.ofNat 8 slice) (BitVec.ofNat 6 gen) 0 opkind optag ws
  { p with hdr := { p.hdr with amode := amode } }

/-- A packet enters its flow, which is opened when it is the first (R64, R194); port is the plane of an endpoint's packet to a point. -/
def State.agFlowSend (s : State) (a : Addr) (port : Nat) (p : Packet) (ctx launch piece : Nat) : State :=
  let h := p.hdr
  let key := flowKey a port h
  let mine := fun (f : Flow) => f.src == h.src && f.dest == h.dest && f.svc == h.svc.toNat && f.port == key
  let w : SentPkt := { wseq := 0, pkt := p, sends := 0, ctx := ctx, launch := launch, piece := piece, stamp := 0 }
  let opened : Flow := { src := h.src, dest := h.dest, svc := h.svc.toNat, slice := h.slice, gen := h.gen, isSource := true, next := 0, map := 0,
                         sent := [], wait := [w], ackFlash := 0, port := key }
  let s := if (s.agent a).flows.any fun f => f.isSource && mine f then
      s.onAgFlow a (fun f => f.isSource && mine f) fun f => { f with wait := f.wait ++ [w] }
    else s.onAgent a fun g => { g with flows := g.flows ++ [opened] }
  State.agPump 64 a mine s

/-- Packets of a slot or programme, launch and piece that are sent and not acknowledged, or wait for the window. -/
def Agent.outstanding (g : Agent) (p : SentPkt → Bool) : Bool := g.flows.any fun f => f.isSource && (f.sent ++ f.wait).any p

/-- Unacknowledged packets that satisfy a test are dropped (R272, R283). -/
def State.agDrop (s : State) (a : Addr) (p : SentPkt → Bool) : State :=
  s.onAgFlow a (·.isSource) fun f => { f with sent := f.sent.filter fun x => !p x, wait := f.wait.filter fun x => !p x }

/-- The destination flow of a packet under a path key. -/
def destFlow (key : Nat) (h : Hdr) (f : Flow) : Bool :=
  !f.isSource && f.src == h.src && f.dest == h.dest && f.svc == h.svc.toNat && f.port == key

/-- A packet lies in its window and is no duplicate (R65). -/
def Agent.inWindow (g : Agent) (key : Nat) (h : Hdr) : Bool :=
  match g.flows.find? (destFlow key h) with
  | none => h.wseq.toNat < 64
  | some f => let d := wseqAhead f.next h.wseq.toNat
              d == 0 || (d < 64 && !f.map.testBit (d - 1))

/-- WINDOW_ACK of a destination flow (R64, R194), from an EN or an address; a switch agent answers in EN mode under its programme's anchor
(R195). -/
def State.agAck (s : State) (a : Addr) (f : Flow) (back : Nat) (amode : Bool) (src : Addr) : State :=
  s.agLeave a f.port back (agentPkt amode src f.src f.svc f.slice.toNat f.gen.toNat 0x13 0 [w32 f.next, loHalf f.map, hiHalf f.map])

/-- A packet is taken into its window and acknowledged, or acknowledged again at most once a flash when it lies outside or is a duplicate; the
first part says that it was taken (R64, R65). -/
def State.agTake (s : State) (a : Addr) (port : Nat) (h : Hdr) (src : Addr) : Bool × State :=
  let g := s.agent a
  let key := flowKey a port h
  let opened : Flow := { src := h.src, dest := h.dest, svc := h.svc.toNat, slice := h.slice, gen := h.gen, isSource := false, next := 0, map := 0,
                         sent := [], wait := [], ackFlash := 0, port := key }
  if g.inWindow key h then
    let s := if g.flows.any (destFlow key h) then s
      else s.onAgent a fun g => { g with flows := g.flows ++ [opened] }
    let s := s.onAgFlow a (destFlow key h) fun f =>
      let d := wseqAhead f.next h.wseq.toNat
      let f := { f with slice := h.slice, gen := h.gen }
      if d = 0 then
        let r := advanceMap 64 ((f.next + 1) % 4096) f.map
        { f with next := r.1, map := r.2 }
      else { f with map := f.map ||| 1 <<< (d - 1) }
    match (s.agent a).flows.find? (destFlow key h) with
    | some f => (true, s.agAck a f port h.amode src)
    | none => (true, s)
  else
    let s := s.onAgent a fun g => { g with stale := g.stale + 1 }
    match g.flows.find? (destFlow key h) with
    | some f =>
      if f.ackFlash = g.flash + 1 then (false, s)
      else (false, (s.onAgFlow a (destFlow key h) fun f => { f with ackFlash := g.flash + 1 }).agAck a f port h.amode src)
    | none => (false, s)

/-- A WINDOW_ACK at an agent: the packets it covers are released, waiting ones leave (R64). -/
def State.agAckIn (s : State) (a : Addr) (mine : Flow → Bool) (payload : List Word) : State :=
  let next := bitsOf (wordAt payload 0) 0 12
  let map := pairAt payload 1
  let s := s.onAgFlow a (fun f => f.isSource && mine f) fun f => { f with sent := f.sent.filter fun x => !ackCovers next map x.wseq }
  State.agPump 64 a mine s

end Sys2Proof.Machine
end

