-- ==== Sys2Proof/Machine/SwitchOps.lean ====
section
/-! DEFINITION. Machine/SwitchOps.lean: the reduction programmes of a switch agent: contributions, rack partials, rings, results, releases, gathering
and barriers (R192, R195, R198 to R200, R208, R214, R228 to R230, R265, R266, R274, R450). -/
namespace Sys2Proof.Machine

/-! ### A programme as its words give it (R208) -/

/-- A programme, field by field. -/
structure ProgView where
  ctx      : Nat
  state    : Nat
  inFlight : Nat
  gen      : Nat
  fanIn    : Nat
  q        : Nat
  upAddr   : Nat
  upMode   : Nat
  upCtx    : Nat
  yAddr    : Nat
  yCtx     : Nat
  desc     : PlanDesc
deriving DecidableEq, Repr

/-- The plan of the Keeper that a programme was written from. The programme carries neither M of a gathering nor the slot number that R182 puts
into packets toward endpoints; the agent takes them from the plan (log entry 53). -/
def State.progPlan (s : State) (g : Agent) (ctx : Nat) : Option Plan :=
  (s.plan ctx).filter fun p => p.slice == bitsOf (g.word (0x200000 + 64 * ctx)) 16 8

/-- The programme of a context. -/
def State.programme (s : State) (g : Agent) (ctx : Nat) : ProgView :=
  let f := fun (i lo n : Nat) => bitsOf (g.word (0x200000 + 64 * ctx + 4 * i)) lo n
  let bytes := f 9 0 32
  let plan := s.progPlan g ctx
  let m := match plan with
    | some p => (planDesc p.desc).m
    | none => bytes / (64 * max 1 (f 7 16 14))
  let slot := match plan with
    | some p => (planDesc p.desc).slot
    | none => f 5 18 11
  { ctx := ctx, state := f 0 0 2, inFlight := f 0 14 2, gen := f 0 24 6, fanIn := f 1 0 8, q := f 2 0 16, upAddr := f 5 0 16, upMode := f 5 16 2,
    upCtx := f 5 18 11, yAddr := f 6 0 16, yCtx := f 6 16 11,
    desc := { op := 1, oper := f 0 2 3, slice := f 0 16 8, group := 0, format := f 0 8 4, disc := f 0 12 1, round := f 0 13 1, slot := slot,
              alg := f 0 5 3, ordinal := 0, bytes := bytes, tile := 0, seed := f 8 0 32, src := 0, dst := 0, cpl := 0, stride := 0, m := m,
              members := (List.range m).map (g.groupEn (f 7 0 16)) } }

/-- The group's members in this rack: member index and EN, in member order. -/
def State.rackMembers (s : State) (v : ProgView) : List (Nat × Nat) :=
  (s.membersIn v.desc.members s.myRack).map fun x => (x.1, v.desc.members.getD x.1 0)

/-- The anchor: the EN of the lowest-indexed member in the rack (R195). -/
def State.anchor (s : State) (v : ProgView) : Nat := ((s.rackMembers v).head?.map (·.2)).getD 0

/-- What a switch agent holds for a programme. -/
def Agent.prog (g : Agent) (ctx : Nat) : AgProg := (g.progs.find? fun x => x.ctx == ctx).getD (AgProg.fresh ctx)

/-- That, changed. -/
def State.onProg (s : State) (a : Addr) (ctx : Nat) (f : AgProg → AgProg) : State :=
  s.onAgent a fun g =>
    let l := if g.progs.any fun x => x.ctx == ctx then g.progs else g.progs ++ [AgProg.fresh ctx]
    { g with progs := l.map fun x => if x.ctx = ctx then f x else x }

/-- A piece place of a programme. -/
def AgProg.place (p : AgProg) (launch piece : Nat) : Option Place := p.places.find? fun x => x.launch == launch && x.piece == piece

/-- One place of a programme, changed. -/
def State.onSwPlace (s : State) (a : Addr) (ctx launch piece : Nat) (f : Place → Place) : State :=
  s.onProg a ctx fun p => { p with places := p.places.map fun x => if x.launch = launch ∧ x.piece = piece then f x else x }

/-- A packet of a piece is late (R266). -/
def AgProg.late (p : AgProg) (l piece : Nat) : Bool :=
  let b := launchBehind p.newest l
  (3 < b && b < 32768) || ((lookupNat l p.done).getD []).contains piece

/-- A launch number is seen; done maps more than 3 behind are cleared (R266). -/
def AgProg.seeLaunch (p : AgProg) (l : Nat) : AgProg :=
  let ahead := (l + 65536 - p.newest) % 65536
  if ahead = 0 ∨ ahead ≥ 32768 then p else { p with newest := l, done := p.done.filter fun x => launchBehind l x.1 ≤ 3 }

/-! ### Sending (R195) -/

/-- A packet of a programme in EN mode, from its anchor. -/
def State.swSendEn (s : State) (a : Addr) (v : ProgView) (dest svc opkind optag : Nat) (ws : List Word) (launch piece : Nat) : State :=
  s.agFlowSend a 16 (agentPkt false (BitVec.ofNat 16 (s.anchor v)) (BitVec.ofNat 16 dest) svc v.desc.slice v.gen opkind optag ws) v.ctx launch piece

/-- A packet of a programme to the Keeper, from the switch's own address. -/
def State.swSendKeeper (s : State) (a : Addr) (v : ProgView) (svc opkind : Nat) (ws : List Word) (launch piece : Nat) : State :=
  s.agFlowSend a 17
    (agentPkt true a (BitVec.ofNat 16 v.upAddr) svc v.desc.slice v.gen opkind v.upCtx ws) v.ctx launch piece

/-- A prefix of a partial or a result. -/
def swPrefix (piece step launch offset bytes : Nat) (last : Bool) : PiecePrefix :=
  { piece := piece, step := step, last := last, release := false, launch := launch, member := 0x3FFF, offset := offset, bytes := bytes, blockLen := 0,
    dropped := 0, clean := true }

/-! ### Sums -/

/-- How a programme draws random bits at a step. -/
def swRounding (d : PlanDesc) (launch step : Nat) : Rounding := { stoch := d.round == 1, seed := d.seed, launch := launch, step := step }

/-- The sum of one data packet over the rack's members: the tree in member order under FORMAT, in order of arrival under ARRIVAL; none while an
input is missing (R228, R229). -/
def swPacketSum (v : ProgView) (x : Place) (idx : Nat) : Option (List Word) :=
  let d := v.desc
  let ins := x.ins.filter fun i => i.idx == idx && i.input < 128
  let elem := elemsIn d.format (x.piece * (v.q * 4032) + 4032 * idx)
  let r := swRounding d x.launch 0
  if ins.length < v.fanIn then none
  else if d.disc = 1 then
    let steps := ins.zipIdx.map fun i => (toAcc d.format i.1.data.plain, i.2)
    some (steps.foldl (fun acc i => if i.2 = 0 then i.1 else accumulate d.format r i.2 elem acc i.1) [])
  else
    let order := (List.range v.fanIn).filterMap fun k => (ins.find? fun i => i.input == k).map fun i => i.data.plain
    some (treeSum d.format r elem 7 0 (if d.format = 11 then order.map (toAcc 11) else order)).1

/-- The rack partial of a piece, whole. -/
def swRackSum (v : ProgView) (x : Place) : Option (List Word) :=
  let sums := (List.range (ceilDiv (pieceBytes v.desc.bytes v.q x.piece) 4032)).map (swPacketSum v x)
  if sums.all (·.isSome) then some (sums.flatMap fun w => w.getD []) else none

/-- A ring step's addition: the incoming partial first, the own second (R228, R229). -/
def swAdd (d : PlanDesc) (launch step elem : Nat) (incoming own : List Word) : List Word :=
  if d.disc = 1 then accumulate d.format (swRounding d launch step) 1 elem incoming own
  else (addPacket d.format (swRounding d launch step) 0 elem incoming own).1

/-- Inputs of a place: members 0 to 127, the partial of the X ring, the partial of the Y ring. -/
def ringX : Nat := 1000
/-- The partial of the Y ring. -/
def ringY : Nat := 1001

/-- The rack of the row and of the column of this rack that a part passes through to its owner: the row's rack in the owner's column (R192). -/
def State.rowTarget (s : State) (owner : Nat) : Nat := s.axes.1 * s.ry + owner % s.axes.1

/-- The member racks of this rack's row and column, in order. -/
def State.ringRow (s : State) (v : ProgView) : List Nat := (s.memberRacks v.desc.members).filter fun r => r / s.axes.1 == s.ry
/-- The column. -/
def State.ringCol (s : State) (v : ProgView) : List Nat := (s.memberRacks v.desc.members).filter fun r => r % s.axes.1 == s.rx

/-- A part's sum after the X ring: the own rack partial, with the incoming one unless the part starts here; none while it is missing. -/
def State.sumX (s : State) (v : ProgView) (x : Place) (whole : List Word) (k : SumPart × Nat) : Option (List Word) :=
  let own := wordsIn whole k.1.off k.1.bytes
  if nextIn (s.ringRow v) (s.rowTarget k.1.owner) = s.myRack then some own
  else (x.ins.find? fun i => i.input == ringX && i.idx == k.2).map fun i => swAdd v.desc x.launch 2 k.1.elem i.data.plain own

/-- A part's sum after the Y ring, where its row ends here. -/
def State.sumY (s : State) (v : ProgView) (x : Place) (whole : List Word) (k : SumPart × Nat) : Option (List Word) :=
  match s.sumX v x whole k with
  | none => none
  | some own =>
    if nextIn (s.ringCol v) k.1.owner = s.myRack then some own
    else (x.ins.find? fun i => i.input == ringY && i.idx == k.2).map fun i => swAdd v.desc x.launch 3 k.1.elem i.data.plain own

/-! ### A piece goes on -/

/-- Marks in `out`: part k went along X as k, along Y as 10^6 + k; the results or the rack partial went as 2 × 10^6. -/
def markY : Nat := 1000000
/-- Results or the rack partial are sent. -/
def markDone : Nat := 2000000

/-- A piece credit of a step is held, or one is free: the programme holds IN_FLIGHT at each consumer (R198). -/
def AgProg.mayStart (p : AgProg) (v : ProgView) (step launch piece : Nat) : Bool :=
  p.credits.contains (step, launch, piece) || (p.credits.filter fun c => c.1 == step).length < v.inFlight

/-- A credit taken. -/
def AgProg.take (p : AgProg) (step launch piece : Nat) : AgProg :=
  { p with credits := if p.credits.contains (step, launch, piece) then p.credits else p.credits ++ [(step, launch, piece)] }

/-- Results to the owners of this rack (R192, R195). -/
def State.swResults (s : State) (a : Addr) (v : ProgView) (x : Place) (sums : List Word) : State :=
  let fin := s.finalSums v.desc v.q s.myRack x sums
  (s.resultPackets v.desc v.q x.piece fin.1).foldl (fun s o =>
    s.swSendEn a v (v.desc.members.getD o.1 0) 3 0x21 v.desc.slot ((swPrefix x.piece 4 x.launch o.2.1 o.2.2.2.1 o.2.2.2.2).words ++ o.2.2.1) x.launch x.piece) s

/-- The rack partial to the Keeper, packet by packet (INNET step 2). -/
def State.swToKeeper (s : State) (a : Addr) (v : ProgView) (x : Place) (whole : List Word) : State :=
  let total := 4 * whole.length
  let n := ceilDiv total 4032
  (List.range n).foldl (fun s k =>
    let bytes := min total (4032 * (k + 1)) - 4032 * k
    s.swSendKeeper a v 2 0x20 ((swPrefix x.piece 2 x.launch (4032 * k) bytes (k + 1 == n)).words ++ wordsIn whole (4032 * k) bytes) x.launch x.piece) s

/-- Parts that go on along a ring, to its next switch; LAST is set on the last one. -/
def State.swRing (s : State) (a : Addr) (v : ProgView) (x : Place) (step dest optag : Nat) (go : List ((SumPart × Nat) × List Word)) (left : Nat) : State :=
  go.zipIdx.foldl (fun s k =>
    s.swSendEn a v dest 2 0x20 optag ((swPrefix x.piece step x.launch k.1.1.1.off k.1.1.1.bytes (k.2 + 1 == left)).words ++ k.1.2) x.launch x.piece) s

/-- One axis of a ring: the parts ready to go on leave once a credit is held; they are marked in `out`. -/
def State.swAxis (s : State) (a : Addr) (v : ProgView) (x : Place) (step mark dest optag : Nat) (on : List ((SumPart × Nat) × Option (List Word))) : State :=
  let left := on.filter fun k => !x.out.contains (mark + k.1.2)
  let go := left.filterMap fun k => k.2.map fun w => (k.1, w)
  if go.isEmpty ∨ !((s.agent a).prog v.ctx).mayStart v step x.launch x.piece then s
  else
    let s := s.onProg a v.ctx fun p => p.take step x.launch x.piece
    let s := s.onSwPlace a v.ctx x.launch x.piece fun y => { y with out := y.out ++ go.map fun k => mark + k.1.2 }
    s.swRing a v x step dest optag go left.length

/-- A RING piece goes on as its parts stand: along the row, then along the owner's column, then to the owners (R192). -/
def State.swRingGo (s : State) (a : Addr) (v : ProgView) (x : Place) (whole : List Word) : State :=
  let parts := (s.sumParts v.desc v.q x.piece).zipIdx
  let xs := parts.filter fun k => s.rowTarget k.1.owner != s.myRack
  let ys := parts.filter fun k => s.rowTarget k.1.owner == s.myRack && k.1.owner != s.myRack
  let mine := parts.filter fun k => k.1.owner == s.myRack
  let s1 := s.swAxis a v x 2 0 v.upAddr v.upCtx (xs.map fun k => (k, s.sumX v x whole k))
  let s2 := s1.swAxis a v x 3 markY v.yAddr v.yCtx (ys.map fun k => (k, s.sumY v x whole k))
  let ends := mine.map fun k => (k, s.sumY v x whole k)
  if mine.isEmpty ∨ x.out.contains markDone ∨ !(ends.all fun k => k.2.isSome) then s2
  else
    let sums := parts.flatMap fun k => ((ends.find? fun e => e.1.2 == k.2).bind (·.2)).getD (List.replicate (k.1.bytes / 4) 0)
    (s2.onSwPlace a v.ctx x.launch x.piece fun y => { y with out := markDone :: y.out }).swResults a v x sums

/-- Everything a place has to send is sent. -/
def State.swAllSent (s : State) (v : ProgView) (x : Place) : Bool :=
  if v.upMode = 2 then
    (s.sumParts v.desc v.q x.piece).zipIdx.all fun k =>
      if s.rowTarget k.1.owner ≠ s.myRack then x.out.contains k.2
      else if k.1.owner ≠ s.myRack then x.out.contains (markY + k.2) else x.out.contains markDone
  else x.out.contains markDone

/-- A release of a freed place to one sender (R198): an endpoint's slot, or the former switch's context. -/
def State.swRelease (s : State) (a : Addr) (v : ProgView) (x : Place) (to_ : Addr × Nat) : State :=
  let w : PiecePrefix := { swPrefix x.piece 4 x.launch 0 0 false with release := true }
  s.swSendEn a v to_.1.toNat 3 0x21 to_.2 w.words noLaunch 0

/-- The lags of a piece's inputs, by member index (R274). -/
def swLags (members : List (Nat × Nat)) (x : Place) (lags : List (Nat × Nat)) : List (Nat × Nat) :=
  let own := x.lasts.filter fun l => l.1 < 128
  let first := (own.map (·.2)).foldl min ((own.head?.map (·.2)).getD 0)
  own.foldl (fun acc l => match members[l.1]? with
    | some m => insertNat m.1 ((lookupNat m.1 acc).getD 0 + (l.2 - first)) acc
    | none => acc) lags

/-- A piece with everything sent and acknowledged: its done bit is set, its place is free, its senders are released (R198, R266). -/
def State.swFinish (s : State) (a : Addr) (ctx launch piece : Nat) : State :=
  let g := s.agent a
  let v := s.programme g ctx
  match (g.prog ctx).place launch piece with
  | none => s
  | some x =>
    if !s.swAllSent v x || g.outstanding (fun k => k.ctx == ctx && k.launch == launch && k.piece == piece) then s
    else
      let members := s.rackMembers v
      let s := s.onProg a ctx fun p => { p with
        places := p.places.filter fun y => !(y.launch == launch && y.piece == piece),
        done := insertNat launch (piece :: (lookupNat launch p.done).getD []) p.done, lags := swLags members x p.lags }
      x.senders.foldl (fun s k => s.swRelease a v x k) s

/-- A piece goes on as UP_MODE directs (R208); a frozen programme sends nothing (R452). -/
def State.swAdvance (s : State) (a : Addr) (ctx launch piece : Nat) : State :=
  let g := s.agent a
  let v := s.programme g ctx
  let pr := g.prog ctx
  match pr.place launch piece with
  | none => s
  | some x =>
    if pr.frozen then s
    else match swRackSum v x with
    | none => s
    | some whole =>
      let s := if v.upMode = 2 then s.swRingGo a v x whole
        else if x.out.contains markDone then s
        else if v.upMode = 1 then
          if pr.mayStart v 2 launch piece then
            ((s.onProg a ctx fun p => p.take 2 launch piece).onSwPlace a ctx launch piece fun y => { y with out := markDone :: y.out }).swToKeeper a v x whole
          else s
        else (s.onSwPlace a ctx launch piece fun y => { y with out := markDone :: y.out }).swResults a v x whole
      s.swFinish a ctx launch piece

/-- The same packet to every member of the rack but its originator (R192, R201). -/
def State.swReplicate (s : State) (a : Addr) (v : ProgView) (except opkind : Nat) (ws : List Word) : State :=
  ((s.rackMembers v).filter fun m => m.1 != except).foldl (fun s m => s.swSendEn a v m.2 3 opkind v.desc.slot ws noLaunch 0) s

/-- A barrier's release to the rack's members; the credit held at the next point is free (R192, R198). -/
def State.swLetGo (s : State) (a : Addr) (v : ProgView) : State :=
  (s.onProg a v.ctx fun p => { p with arrivals := [], credits := p.credits.filter fun c => c.2.1 != noLaunch }).swReplicate a v 0x3FFF 0x24 []

/-- A barrier whose members have all arrived goes up once a piece credit is held, or is released in a group of one rack (R192, R198); a frozen programme
sends nothing (R452). -/
def State.swBarrierGo (s : State) (a : Addr) (v : ProgView) : State :=
  let pr := (s.agent a).prog v.ctx
  if v.desc.oper ≠ 4 ∨ pr.arrivals.isEmpty ∨ pr.arrivals.length < v.fanIn ∨ pr.frozen then s
  else if v.upMode = 1 then
    if pr.credits.contains (2, noLaunch, 0) || !pr.mayStart v 2 noLaunch 0 then s
    else (s.onProg a v.ctx fun p => p.take 2 noLaunch 0).swSendKeeper a v 2 0x24 [] noLaunch 0
  else s.swLetGo a v

/-- Every piece of a programme and its barrier go on: after a credit, an acknowledgement or a thaw. -/
def State.swResume (s : State) (a : Addr) (ctx : Nat) : State :=
  let s := ((s.agent a).prog ctx).places.foldl (fun s x => s.swAdvance a ctx x.launch x.piece) s
  s.swBarrierGo a (s.programme (s.agent a) ctx)

/-! ### Taking packets -/

/-- A packet an agent refuses for its form is dropped and counted (R17). -/
def State.agMalformed (s : State) (a : Addr) : State := s.onAgent a fun g => { g with malformed := g.malformed + 1 }

/-- A packet of a stale generation is discarded and counted (R57). -/
def State.agStale (s : State) (a : Addr) : State := s.onAgent a fun g => { g with stale := g.stale + 1 }

/-- A place discarded after a fault: PLACE_DISCARDED goes to the Keeper (R450). -/
def State.swDiscard (s : State) (a : Addr) (ctx launch piece reason : Nat) : State :=
  let s := s.onProg a ctx fun p => { p with places := p.places.filter fun y => !(y.launch == launch && y.piece == piece) }
  let s := s.agDrop a fun k => k.ctx == ctx && k.launch == launch && k.piece == piece
  s.agentEvent a 0x06 (s.agent a).flash (w32 ctx) [fieldAt 0 16 piece ||| fieldAt 16 16 launch, fieldAt 0 4 reason]

/-- RS_CONTRIB at a programme: acknowledged; discarded when late or a duplicate, else taken into its place (R199, R265, R266). A fault other than
0 is the second detected fault of a unit (1 memory, 2 adder). -/
def State.swContrib (s : State) (a : Addr) (v : ProgView) (port : Nat) (p : Packet) (fault : Nat) : State :=
  let h := p.hdr
  let x := piecePrefix p.payload
  let data := prefixData p.payload
  let member := if port < 128 then (s.rackMembers v).findIdx? fun m => m.2 == h.src.toNat else none
  let input := match member with
    | some i => i
    | none => if x.step = 3 then ringY else ringX
  let parts := (s.sumParts v.desc v.q x.piece)
  let idx := if input < 128 then x.offset / 4032 else (parts.findIdx? fun k => k.off == x.offset).getD 0
  if ¬ x.clean ∨ (port < 128 ∧ member.isNone) ∨ (v.desc.disc = 0 ∧ isBlockFmt v.desc.format ∧ ¬ padClean v.desc.format data) then s.agMalformed a
  else
    let t := s.agTake a port h (BitVec.ofNat 16 (s.anchor v))
    let s := t.2
    let pr := (s.agent a).prog v.ctx
    if !t.1 || pr.late x.launch x.piece || (pr.place x.launch x.piece).any (fun y => y.map.contains (65536 * input + idx)) then s
    else
      let n := ((List.range (pr.places.length + 1)).find? fun i => !(pr.places.any fun y => y.slot == i)).getD 0
      let fresh : Place := { slot := n, spill := false, base := 0, units := 0, launch := x.launch, piece := x.piece, plane := addrIndex a, step := 0, ins := [], sums := [],
                             map := [], lasts := [], senders := [], phase := .gather, out := [] }
      let s := s.onProg a v.ctx fun p => { p.seeLaunch x.launch with
        places := if (p.place x.launch x.piece).isSome then p.places else p.places ++ [fresh] }
      let now := s.agentNow (s.agent a)
      let back := if input < 128 then v.desc.slot
        else (((s.progPlan (s.agent a) v.ctx).bind fun p => lookupNat (s.rackOfEn h.src.toNat) p.ctxs)).getD v.ctx
      let s := s.onSwPlace a v.ctx x.launch x.piece fun y => { y with
        ins := y.ins ++ [{ input := input, idx := idx, data := .words data }], map := y.map ++ [65536 * input + idx], step := max y.step x.step,
        lasts := if x.last then insertNat input now y.lasts else y.lasts,
        senders := if y.senders.any fun k => k.1 == h.src then y.senders else y.senders ++ [(h.src, back)] }
      if fault ≠ 0 then s.swDiscard a v.ctx x.launch x.piece fault else s.swAdvance a v.ctx x.launch x.piece

/-- A release: the credit of the piece at that consumer is free, and a waiting piece takes it (R198). -/
def State.swCredit (s : State) (a : Addr) (v : ProgView) (src : Addr) (x : PiecePrefix) : State :=
  let step := if v.upMode = 2 ∧ src.toNat = v.yAddr then 3 else 2
  (s.onProg a v.ctx fun p => { p with credits := p.credits.filter fun c => !(c == (step, x.launch, x.piece)) }).swResume a v.ctx

/-- AG_DATA at a programme: replicated to the rack's members, and forwarded: to the Keeper for INNET over several racks, along the column and
then the rows for RING (R192). -/
def State.swGather (s : State) (a : Addr) (v : ProgView) (p : Packet) (fromKeeper : Bool) : State :=
  let x := piecePrefix p.payload
  let origin := s.rackOfEn (v.desc.members.getD x.member 0)
  let here := origin == s.myRack
  if fromKeeper then s.swReplicate a v (if here then x.member else 0x3FFF) 0x22 p.payload
  else if v.upMode = 1 then s.swSendKeeper a v 3 0x22 p.payload noLaunch 0
  else
    let s := s.swReplicate a v (if here then x.member else 0x3FFF) 0x22 p.payload
    if v.upMode ≠ 2 then s
    else
      let row := s.ringRow v
      let col := s.ringCol v
      let inCol := origin % s.axes.1 == s.rx
      let s := if inCol && col.length > 1 && nextIn col s.myRack != origin then s.swSendEn a v v.yAddr 3 0x22 v.yCtx p.payload noLaunch 0 else s
      if row.length > 1 && nextIn row s.myRack % s.axes.1 != origin % s.axes.1 then s.swSendEn a v v.upAddr 3 0x22 v.upCtx p.payload noLaunch 0 else s

/-- A barrier arrival of a member (R192, R265). -/
def State.swBarrier (s : State) (a : Addr) (v : ProgView) (h : Hdr) : State :=
  match (s.rackMembers v).findIdx? fun m => m.2 == h.src.toNat with
  | none => s.agMalformed a
  | some i =>
    let pr := (s.agent a).prog v.ctx
    if pr.arrivals.contains i then s
    else
      (s.onProg a v.ctx fun p => { p with arrivals := p.arrivals ++ [i] }).swBarrierGo a v

/-- A collective packet that an enabled programme takes (R193). -/
def State.swTake (s : State) (a : Addr) (v : ProgView) (port : Nat) (p : Packet) (fault : Nat) : State :=
  let h := p.hdr
  let src := if h.amode then a else BitVec.ofNat 16 (s.anchor v)
  if h.gen.toNat ≠ v.gen then s.agStale a
  else if h.opkind = 0x20 then s.swContrib a v port p fault
  else if h.opkind ≠ 0x24 ∧ ¬ (piecePrefix p.payload).clean then s.agMalformed a
  else
    let t := s.agTake a port h src
    if !t.1 then t.2
    else if h.opkind = 0x21 then t.2.swCredit a v h.src (piecePrefix p.payload)
    else if h.opkind = 0x22 then t.2.swGather a v p h.amode
    else if h.svc = 3 then t.2.swLetGo a v
    else t.2.swBarrier a v h

/-- A WINDOW_ACK for a flow of a switch agent's programmes: pieces with nothing outstanding are freed (R64, R195, R266). -/
def State.swAckIn (s : State) (a : Addr) (h : Hdr) (payload : List Word) : State :=
  let mine := fun (f : Flow) => f.src == h.dest && f.dest == h.src && f.svc == h.svc.toNat
  let s := s.agAckIn a mine payload
  (s.agent a).progs.foldl (fun s p => p.places.foldl (fun s x => s.swFinish a p.ctx x.launch x.piece) s) s

/-! ### TIME_EXCHANGE at an agent (R296, R455) -/

/-- The REPLY to a REQUEST: T1 echoed, T2 and T3 the agent's time; the depth, root and bound of an agent, which the spec does not state, are free
values. -/
def State.agTimeReply (s : State) (a : Addr) (port : Nat) (p : Packet) : State :=
  let g := s.agent a
  let w := fun (i : Nat) => wordAt p.payload i
  if bitsOf (w 0) 0 2 ≠ 0 then s
  else
    let r := s.fresh
    let st := if g.word 0xA0 = 1 then 3 else if g.word 0xA0 = 2 then 4 else 0
    let t := [loHalf g.flash, fieldAt 0 16 (g.flash / 2 ^ 32), fieldAt 0 25 (agentOffset a s.tim.offset)]
    let ws := [1 ||| fieldAt 4 3 st ||| fieldAt 8 4 (bitsOf r.1 8 4) ||| fieldAt 12 6 (bitsOf r.1 12 6), w 1, w 2, w 3] ++ t ++ t
      ++ [g.rate, fieldAt 0 8 (bitsOf r.1 0 8), 0]
    r.2.agentSend a port (mkPacket p.hdr.src a 0 0 0 0 0x06 p.hdr.optag.toNat ws)

end Sys2Proof.Machine
end

