-- ==== Sys2Proof/Machine/AgentColl.lean ====
section
/-! DEFINITION. Machine/AgentColl.lean: launches at an endpoint agent: chain entries, sends, results, completion records, the Lantern's
contributions, freezing and recovery (R198, R200, R201, R203 to R207, R248, R253, R257, R264, R267, R272, R280 to R283, R452). -/
namespace Sys2Proof.Machine

/-! ### A slot as its words give it (R203) -/

/-- A slot record, field by field. -/
structure SlotView where
  slot       : Nat
  state      : Nat
  oper       : Nat
  alg        : Nat
  slice      : Nat
  gen        : Nat
  entries    : Nat
  chainBase  : Nat
  groupBase  : Nat
  member     : Nat
  m          : Nat
  bytes      : Nat
  pieceBytes : Nat
  enable     : Nat
  src        : Nat
  dst        : Nat
  cpl        : Nat
  stride     : Nat
  expect     : Nat
deriving DecidableEq, Repr

/-- The slot record of a slot. -/
def Agent.slotView (g : Agent) (slot : Nat) : SlotView :=
  let ws := g.run (0x200000 + 64 * slot) 16
  let f := fun (i lo n : Nat) => bitsOf (wordAt ws i) lo n
  { slot := slot, state := f 0 0 2, oper := f 0 2 3, alg := f 0 5 3, slice := f 0 8 8, gen := f 0 16 6, entries := f 1 0 16, chainBase := f 2 0 16,
    groupBase := f 2 16 16, member := f 3 0 14, m := f 3 16 14, bytes := f 4 0 32, pieceBytes := f 6 0 23, enable := f 7 0 32, src := pairAt ws 8,
    dst := pairAt ws 10, cpl := pairAt ws 12, stride := f 14 0 32, expect := f 15 0 32 }

/-- The slot is enabled: STATE 2, which an agent takes when E opens (R189). -/
def SlotView.isOpen (v : SlotView) : Bool := v.state == 2

/-- The flash E of a slot has opened; ENABLE_FLASH holds its low 32 bits (R189). -/
def Agent.reached (g : Agent) (enable : Nat) : Bool := (g.flash + 2 ^ 32 - enable) % 2 ^ 32 < 2 ^ 31

/-- The plan of the Keeper that a slot was written from. The slot carries neither IN_FLIGHT nor STRETCH, ORD, N and the cause of an abort, nor the
launches and pieces of a RECOVER_GO; the agent takes them from the plan (log entry 54). -/
def State.slotPlan (s : State) (v : SlotView) : Option Plan :=
  s.clp.plans.find? fun p => p.slice == v.slice && (planDesc p.desc).slot == v.slot

/-- IN_FLIGHT of a slot's plan. -/
def State.slotCredits (s : State) (v : SlotView) : Nat := ((s.slotPlan v).map (·.inFlight)).getD 2

/-- A launch's record. -/
def Agent.slotRec (g : Agent) (slot : Nat) : AgSlot := (g.slots.find? fun x => x.slot == slot).getD (AgSlot.fresh slot g.reborn)

/-- That, changed. -/
def State.onAgSlot (s : State) (a : Addr) (slot : Nat) (f : AgSlot → AgSlot) : State :=
  s.onAgent a fun g =>
    let l := if g.slots.any fun x => x.slot == slot then g.slots else g.slots ++ [AgSlot.fresh slot g.reborn]
    { g with slots := l.map fun x => if x.slot = slot then f x else x }

/-- A word of a chain entry (R204). -/
def Agent.chainField (g : Agent) (v : SlotView) (e i lo n : Nat) : Nat := bitsOf (g.word (0x300000 + 16 * (v.chainBase + e) + 4 * i)) lo n

/-- The plane a plane is led to by the slot's remap (R451). -/
def Agent.remapped (g : Agent) (slot plane : Nat) : Nat := bitsOf (g.word (0x240000 + 8 * slot + 4 * (plane / 8))) (4 * (plane % 8)) 4

/-! ### Source data (R201) -/

/-- Bytes of the source region, as the launch reads them. -/
def srcWords (a : Addr) (slot launch addr bytes : Nat) : List Word :=
  (List.range ((bytes + 3) / 4)).map fun i => Config.chipWord a slot launch (addr + 4 * i)

/-- Where the data of an AG or XC launch begins: past the length table rounded up to 64 bytes. -/
def SlotView.data (v : SlotView) : Nat := v.src + 64 * units64 (4 * (if v.oper = 3 then v.m else 1))

/-- The actual length of the block for a member: the AG word, or word j of the XC table. -/
def SlotView.actual (v : SlotView) (a : Addr) (launch j : Nat) : Nat :=
  (Config.chipWord a v.slot launch (v.src + 4 * (if v.oper = 3 then j else 0))).toNat

/-- A dropped length is reported to the Keeper (R201), and the fill ratio of the flash is kept (R314). -/
def State.noteLength (s : State) (a : Addr) (v : SlotView) (launch actual : Nat) : State :=
  let fill := min 1023 (actual * 1000 / max 1 v.bytes)
  let s := s.onAgent a fun g => { g with fill := max g.fill fill }
  if actual ≤ v.bytes then s
  else s.agentEvent a 0x08 (s.agent a).flash (w32 v.slot) [fieldAt 0 14 v.member ||| fieldAt 16 16 launch, w32 (actual - v.bytes)]

/-! ### Sends -/

/-- A packet of a slot. -/
def State.slotSend (s : State) (a : Addr) (v : SlotView) (port dest svc opkind optag : Nat) (ws : List Word) (launch piece : Nat) : State :=
  s.agFlowSend a port (agentPkt false (BitVec.ofNat 16 (s.agent a).en) (BitVec.ofNat 16 dest) svc v.slice v.gen opkind optag ws) v.slot launch piece

/-- A run of data as packets of at most 4,032 bytes, each under its prefix, LAST on the last; one packet without data when there is none (R196,
R200). -/
def dataPackets (a : Addr) (v : SlotView) (launch piece base addr bytes blockLen dropped : Nat) : List (List Word) :=
  let n := max 1 (ceilDiv bytes 4032)
  (List.range n).map fun k =>
    let len := min bytes (4032 * (k + 1)) - 4032 * k
    let x : PiecePrefix := { piece := piece, step := 0, last := k + 1 == n, release := false, launch := launch, member := v.member, offset := base + 4032 * k,
                             bytes := len, blockLen := blockLen, dropped := dropped, clean := true }
    x.words ++ srcWords a v.slot launch (addr + 4032 * k) len

/-- A PIECE entry of an RS or AG slot is sent on a plane (R192, R204). -/
def State.sendEntry (s : State) (a : Addr) (v : SlotView) (launch e plane : Nat) : State :=
  let g := s.agent a
  let dest := g.chainField v e 1 0 14
  let ctx := g.chainField v e 1 20 11
  let off := g.chainField v e 2 0 32
  let piece := g.chainField v e 3 0 16
  if v.oper = 4 then s.slotSend a v plane dest 2 0x24 ctx [] launch 0
  else if v.oper = 1 then
    (dataPackets a v launch piece 0 (v.src + off) (min v.pieceBytes (v.bytes - off)) 0 0).foldl (fun s w => s.slotSend a v plane dest 2 0x20 ctx w launch piece) s
  else
    let actual := v.actual a launch 0
    let len := min actual v.bytes
    if off ≥ len ∧ off ≠ 0 then s
    else
      (dataPackets a v launch piece 0 (v.data + off) (min v.pieceBytes (len - off)) len (actual - len)).foldl
        (fun s w => s.slotSend a v plane dest 3 0x22 ctx w launch piece) s

/-- The AG or XC block of the member itself is copied locally, and its table entry written (R201). -/
def State.ownBlock (s : State) (a : Addr) (v : SlotView) (launch : Nat) : State :=
  let actual := v.actual a launch v.member
  let len := min actual v.bytes
  let at_ := v.data + (if v.oper = 3 then v.member * v.stride else 0)
  let s := (s.send (.chip a (.copy at_ (v.dst + v.member * v.bytes) len))).send (.chip a (.clear (v.dst + v.member * v.bytes + len) (v.bytes - len)))
  let s := s.send (.chip a (.store (v.dst + v.m * v.bytes + 8 * v.member) [w32 len, w32 (actual - len)]))
  s.onAgSlot a v.slot fun x => { x with overs := if actual > len then insertNat v.member (actual - len) x.overs else x.overs }

/-- A block of XC as its block pieces, in order: PIECE numbers them, OFFSET counts in the block, LAST ends each piece (R200). -/
def blockPackets (a : Addr) (v : SlotView) (launch addr len dropped : Nat) : List (Nat × List Word) :=
  let pb := max 1 v.pieceBytes
  (List.range (max 1 (ceilDiv len pb))).flatMap fun k =>
    (dataPackets a v launch k (k * pb) (addr + k * pb) (min pb (len - k * pb)) len dropped).map fun w => (k, w)

/-- XC_SWEEP: the blocks for members own + 1, own + 2 and so on (R201, R204). -/
def State.sweep (s : State) (a : Addr) (v : SlotView) (launch : Nat) : State :=
  let s := (List.range (v.m - 1)).foldl (fun s k =>
    let j := (v.member + 1 + k) % max 1 v.m
    let actual := v.actual a launch j
    let len := min actual v.bytes
    let dest := (s.agent a).groupEn v.groupBase j
    let s := s.noteLength a v launch actual
    (blockPackets a v launch (v.data + j * v.stride) len (actual - len)).foldl (fun s w => s.slotSend a v 16 dest 2 0x23 v.slot w.2 launch w.1) s) s
  s.ownBlock a v launch

/-! ### The Lantern (R248, R253, R257) -/

/-- CONTRIB of a launch, attempt n, on the n-th plane after the Lantern plane. -/
def State.sendContrib (s : State) (a : Addr) (v : SlotView) (launch n : Nat) : State :=
  let g := s.agent a
  let actual := v.actual a launch 0
  let len := if v.oper = 1 then v.bytes else if v.oper = 2 then min actual v.bytes else 0
  let addr := if v.oper = 2 then v.data else v.src
  let ord := ((s.slotPlan v).map (·.ordinal)).getD 0
  let x : LntPrefix := { launch := launch, kind := 0, attempt := min 15 n, member := v.member, origin := 0, left := 0, dir := 0, yp := 0, ym := 0,
                         ord := ord % 65536, bytes := len, dropped := if v.oper = 2 then actual - len else 0, count := 0, clean := true }
  match g.planeUp (bitsOf (g.word 0x38) 0 4) n with
  | none => s
  | some port =>
    s.agentSend a port (agentPkt true a (mkAddr 2 (addrX a) (addrY a) 2) 1 v.slice v.gen 0x30 (g.chainField v 0 1 20 8) (x.words ++ srcWords a v.slot launch addr len))

/-! ### Firing (R198, R206) -/

/-- A fired entry is sent, when it needs no credit or holds one; the first part says so. -/
def State.tryEntry (s : State) (a : Addr) (v : SlotView) (e : Nat) : Bool × State :=
  let g := s.agent a
  let x := g.slotRec v.slot
  let launch := x.launch
  if g.chainField v e 0 16 4 = 3 then (true, s.sweep a v launch)
  else if v.alg = 1 then (true, (s.sendContrib a v launch 0).onAgSlot a v.slot fun y => { y with attempt := some 0 })
  else
    let plane := g.remapped v.slot (g.chainField v e 1 16 4)
    let piece := g.chainField v e 3 0 16
    let s := if v.oper = 2 ∧ piece = 0 ∧ !x.touched then s.noteLength a v launch (v.actual a launch 0) else s
    let sent := fun (y : AgSlot) => { y with sent := if y.sent.contains piece then y.sent else y.sent ++ [piece] }
    if v.oper = 2 then (true, (s.sendEntry a v launch e plane).onAgSlot a v.slot sent)
    else if (x.credits.filter fun c => c.1 == plane).length < s.slotCredits v then
      (true, (s.onAgSlot a v.slot fun y => { sent y with credits := y.credits ++ [(plane, 65536 * launch + piece)] }).sendEntry a v launch e plane)
    else (false, s)

/-- Fired entries leave in chain order until one waits for a credit (R206). -/
def State.drainFired : Nat → Addr → Nat → State → State
  | 0, _, _, s => s
  | n + 1, a, slot, s =>
    let g := s.agent a
    let x := g.slotRec slot
    match x.fired with
    | [] => s
    | e :: rest =>
      if x.frozen then s
      else
        let r := s.tryEntry a (g.slotView slot) e
        if r.1 then State.drainFired n a slot (r.2.onAgSlot a slot fun y => { y with fired := rest }) else s

/-- Chain entries now due are fired (R206). -/
def State.fire (s : State) (a : Addr) (slot : Nat) : State :=
  let g := s.agent a
  let v := g.slotView slot
  let x := g.slotRec slot
  let left := (List.range (v.entries - x.next)).map (x.next + ·)
  let due := left.takeWhile fun e => g.chainField v e 0 0 16 ≤ x.counter
  let s := s.onAgSlot a slot fun y => { y with next := y.next + due.length, fired := y.fired ++ due }
  State.drainFired (x.fired.length + due.length) a slot s

/-! ### Completion (R207, R285) -/

/-- The completion record of a launch. -/
def State.completion (s : State) (a : Addr) (v : SlotView) (status launch : Nat) (overs : List (Nat × Nat)) : State :=
  let g := s.agent a
  let dropped := (overs.map (·.2)).sum
  let stretch := ((s.slotPlan v).map (·.stretch)).getD 256
  s.send (.chip a (.complete v.cpl
    [fieldAt 0 8 status ||| fieldAt 8 3 v.alg ||| fieldAt 16 16 launch, loHalf g.flash, fieldAt 0 25 (agentOffset a s.tim.offset), w32 dropped,
     fieldAt 0 14 overs.length, fieldAt 0 16 stretch, 0, 0]))

/-- The launch has taken what R207 asks for: of AG and XC, from every other member the whole block with its LAST packet. -/
def AgSlot.hasAll (x : AgSlot) (v : SlotView) : Bool :=
  if v.alg = 1 then x.released
  else if v.oper = 1 then v.expect ≤ x.got
  else if v.oper = 4 then x.released
  else (List.range v.m).all fun j => j == v.member || (lookupNat j x.lasts == some 0 && x.ends.contains j)

/-- A gathered or exchanged block is whole: zero fill and the table's two words (R201). -/
def State.blockDone (s : State) (a : Addr) (v : SlotView) (j len dropped : Nat) : State :=
  let s := (s.send (.chip a (.clear (v.dst + j * v.bytes + len) (v.bytes - len)))).send (.chip a (.store (v.dst + v.m * v.bytes + 8 * j) [w32 len, w32 dropped]))
  s.onAgSlot a v.slot fun y => { y with overs := if dropped > 0 then insertNat j dropped y.overs else y.overs }

/-- The byte of a block at which a packet's data stands: of AG in its piece, of XC in the block (R200). -/
def SlotView.blockOff (v : SlotView) (x : PiecePrefix) : Nat := if v.oper = 3 then x.offset else x.piece * v.pieceBytes + x.offset

/-- The place of a packet in the result map. -/
def SlotView.blockKey (v : SlotView) (x : PiecePrefix) : Nat := 2 ^ 32 * x.member + v.blockOff x

/-- A packet of a block is noted for the launch in progress: its bytes, its LAST, the block's end (R201, R207). -/
def State.noteBlock (s : State) (a : Addr) (v : SlotView) (x : PiecePrefix) : State :=
  let r := (s.agent a).slotRec v.slot
  if r.map.contains (v.blockKey x) then s
  else
    let left := ((lookupNat x.member r.lasts).getD x.blockLen) - x.bytes
    let ends := x.last && decide (v.blockOff x + x.bytes = x.blockLen)
    let s := s.onAgSlot a v.slot fun y => { y with map := v.blockKey x :: y.map, lasts := insertNat x.member left y.lasts,
                                                   ends := if ends then x.member :: y.ends else y.ends }
    if left = 0 then s.blockDone a v x.member x.blockLen x.dropped else s

/-- Every send of the launch is made and acknowledged. -/
def Agent.sentAll (g : Agent) (v : SlotView) (x : AgSlot) : Bool :=
  v.entries ≤ x.next && x.fired.isEmpty && !g.outstanding fun p => p.ctx == v.slot && p.launch == x.launch

/-- A launch begins with a counter (R205); blocks that other members sent ahead of it are its own (R192). -/
def State.startLaunch (s : State) (a : Addr) (slot counter : Nat) : State :=
  let s := s.onAgSlot a slot fun x => { x with
    launch := (x.launch + 1) % 65536, running := true, counter := counter, next := 0, fired := [], sent := [], map := [], got := 0, lasts := [], overs := [],
    released := false, touched := false, attempt := none, ends := [], started := x.started + 1, reborn := false }
  let v := (s.agent a).slotView slot
  let r := (s.agent a).slotRec slot
  let s := if v.oper = 2 ∧ v.alg ≠ 1 then s.ownBlock a v r.launch else s
  let s := (r.early.filter fun w => (piecePrefix w).launch == r.launch).foldl (fun s w => s.noteBlock a v (piecePrefix w)) s
  (s.onAgSlot a slot fun x => { x with early := x.early.filter fun w => (piecePrefix w).launch != x.launch }).fire a slot

/-- A queued launch starts once the slot is idle, enabled and not frozen; instructions are let go (R205). -/
def State.startQueued (s : State) (a : Addr) (slot : Nat) : State :=
  let g := s.agent a
  let x := g.slotRec slot
  if x.queued && !x.running && !x.frozen && (g.slotView slot).isOpen && g.serve then
    ((s.onAgSlot a slot fun y => { y with queued := false, pendingTiles := 0 }).send (.chip a (.hold slot false))).startLaunch a slot x.pendingTiles
  else s

/-- The launch in progress completes when it has everything; no record is written while the slot is frozen (R207, R281). -/
def State.tryComplete (s : State) (a : Addr) (slot : Nat) : State :=
  let g := s.agent a
  let x := g.slotRec slot
  let v := g.slotView slot
  if x.running && !x.frozen && x.hasAll v && g.sentAll v x then
    let s := s.completion a v (if x.touched then 1 else 0) x.launch x.overs
    (s.onAgSlot a slot fun y => { y with running := false, done := y.launch, attempt := none }).startQueued a slot
  else s

/-! ### Freeze, thaw, abort (R281 to R283, R452) -/

/-- The answer to FREEZE: 0 COMPLETE, 1 IDLE, 2 PENDING, with the last started launch; a queued launch counts as started. -/
def AgSlot.answer (x : AgSlot) : Word :=
  let l := if x.queued then (x.launch + 1) % 65536 else x.launch
  let a := if x.running ∨ x.queued then 2 else if x.launch = 0 then 1 else 0
  fieldAt 0 2 a ||| fieldAt 16 16 l

/-- A write of FREEZE at an endpoint (R452). -/
def State.freezeSlot (s : State) (a : Addr) (slot : Nat) : State := s.onAgSlot a slot fun x => { x with frozen := true }

/-- A write of THAW at an endpoint. When the plan's generation is already another, the slot stays quiet until the write that carries it (R283,
log entry 54). -/
def State.thawSlot (s : State) (a : Addr) (slot : Nat) : State :=
  let v := (s.agent a).slotView slot
  if (s.slotPlan v).any fun p => p.gen != v.gen then s
  else
    let s := s.onAgSlot a slot fun x => { x with frozen := false }
    ((State.drainFired 65536 a slot (s.agPumpAll a)).tryComplete a slot).startQueued a slot

/-- An ABORT outcome at a member: records up to N with the cause's status, in launch order; the launch count is N (R277, R283). -/
def State.abortSlot (s : State) (a : Addr) (slot n cause : Nat) : State :=
  let g := s.agent a
  let x := g.slotRec slot
  let v := g.slotView slot
  let owed := (n + 65536 - x.done) % 65536
  let owed := if owed ≥ 32768 then 0 else if x.reborn then min 1 owed else owed
  let s := (List.range owed).foldl (fun s k =>
    let l := (n + 65536 - (owed - 1 - k)) % 65536
    s.completion a v cause l (if l = x.launch then x.overs else [])) s
  let s := s.agDrop a fun p => p.ctx == slot
  let keep := x.queued && (x.launch + 65536 - n) % 65536 < 32768
  let s := if x.queued && !keep then s.send (.chip a (.hold slot false)) else s
  let y := { AgSlot.fresh slot false with
    launch := n, done := n, queued := keep, pendingTiles := if keep then x.pendingTiles else 0, enabling := x.enabling, started := x.started }
  s.onAgSlot a slot fun _ => y

/-! ### Recovery (R272) -/

/-- RECOVER_GO at a member: named pieces already sent are sent again from the start through the remap; their packets and credits are dropped. -/
def State.replayAgSlot (s : State) (a : Addr) (slot : Nat) : State :=
  let g := s.agent a
  let x := g.slotRec slot
  let v := g.slotView slot
  match s.slotPlan v with
  | none => s
  | some p =>
    let first := p.recovered.headD 0
    let last := p.recovered.getD 1 first
    if p.namedPieces.isEmpty ∨ ¬ x.running ∨ (x.launch + 65536 - first) % 65536 > (last + 65536 - first) % 65536 then s
    else
      let s := s.agDrop a fun k => k.ctx == slot && k.launch == x.launch && p.namedPieces.contains k.piece
      let again := (List.range v.entries).filter fun e =>
        let n := g.chainField v e 3 0 16
        x.sent.contains n && p.namedPieces.contains n && !x.fired.contains e
      let s := s.onAgSlot a slot fun y => { y with
        touched := true, fired := again ++ y.fired, sent := y.sent.filter fun n => !p.namedPieces.contains n,
        credits := y.credits.filter fun c => !(c.2 / 65536 == y.launch && p.namedPieces.contains (c.2 % 65536)) }
      State.drainFired (again.length + x.fired.length) a slot s

/-! ### What arrives -/

/-- A release: the credit of the piece at that plane is free (R198). -/
def State.slotCredit (s : State) (a : Addr) (slot plane launch piece : Nat) : State :=
  let s := s.onAgSlot a slot fun x => { x with credits := x.credits.filter fun c => !(c.1 == plane && c.2 == 65536 * launch + piece) }
  (State.drainFired 65536 a slot s).tryComplete a slot

/-- RS_RESULT data (R207, R267): written once, at its place in the member's shard (log entry 55). -/
def State.takeResult (s : State) (a : Addr) (v : SlotView) (x : PiecePrefix) (data : List Word) : State :=
  let r := (s.agent a).slotRec v.slot
  let key := 2 ^ 32 * x.piece + x.offset
  if ¬ r.running ∨ x.launch ≠ r.launch ∨ r.map.contains key then s
  else
    let scale := v.expect / max 1 (v.bytes / max 1 v.m)
    let at_ := v.dst + (scale * (x.piece * v.pieceBytes) + x.offset - v.member * v.expect)
    let s := s.send (.chip a (.store at_ data))
    (s.onAgSlot a v.slot fun y => { y with map := key :: y.map, got := y.got + x.bytes }).tryComplete a v.slot

/-- AG_DATA or XC_DATA: written once into its source's slot; a block of a launch that has not started here is written too, and kept for it (R192, R201,
R207, R267). -/
def State.takeBlock (s : State) (a : Addr) (v : SlotView) (x : PiecePrefix) (data : List Word) : State :=
  let r := (s.agent a).slotRec v.slot
  let off := v.blockOff x
  let mine := r.running && x.launch == r.launch
  let ahead := (x.launch + 65536 - r.launch) % 65536
  if x.member ≥ v.m ∨ off + x.bytes > v.bytes ∨ (mine ∧ r.map.contains (v.blockKey x)) ∨ (!mine ∧ (ahead = 0 ∨ 32768 ≤ ahead ∨ r.early.contains x.words)) then s
  else
    let s := if x.bytes = 0 then s else s.send (.chip a (.store (v.dst + x.member * v.bytes + off) data))
    if mine then (s.noteBlock a v x).tryComplete a v.slot else s.onAgSlot a v.slot fun y => { y with early := y.early ++ [x.words] }

/-- A barrier's release: the launch is released, its credit is free (R198, R207). -/
def State.takeBarrier (s : State) (a : Addr) (v : SlotView) (plane : Nat) : State :=
  let r := (s.agent a).slotRec v.slot
  if ¬ r.running then s
  else (s.onAgSlot a v.slot fun y => { y with released := true }).slotCredit a v.slot plane r.launch 0

/-- A Lantern RESULT (R252, R253): written, lengths and fills as R201 gives them; the launch is complete. -/
def State.takeLantern (s : State) (a : Addr) (v : SlotView) (x : LntPrefix) (data : List Word) : State :=
  let r := (s.agent a).slotRec v.slot
  if ¬ r.running ∨ x.launch ≠ r.launch ∨ x.member ≠ v.member ∨ r.attempt.isNone then s
  else
    let s := if v.oper = 1 then s.send (.chip a (.store v.dst data))
      else if v.oper = 2 then
        let slots := s.send (.chip a (.store v.dst (data.take (v.m * v.bytes / 4))))
        (List.range v.m).foldl (fun s j =>
          let w := wordAt data (v.m * v.bytes / 4 + j)
          s.blockDone a v j (bitsOf w 0 9) (bitsOf w 9 23)) slots
      else s
    (s.onAgSlot a v.slot fun y => { y with released := true }).tryComplete a v.slot

end Sys2Proof.Machine
end

