-- ==== Sys2Proof/Machine/Switch.lean ====
section
/-! DEFINITION. Machine/Switch.lean: a packet that arrives at a switch agent: its checks, interception and forwarding (R17, R46, R49 to R52, R131,
R145, R160, R193, R195). -/
namespace Sys2Proof.Machine

/-! ### Discards and their counts -/

/-- Where a discard is counted, at the ingress port (R314). -/
inductive Discard where
  | unroute | mismatch | source
deriving DecidableEq, Repr

/-- A packet is discarded and counted at its ingress port; its credits are returned (R62). -/
def State.agDiscard (s : State) (a : Addr) (port : Nat) (h : Hdr) (why : Discard) : State :=
  (s.agReturn a port h).onAgent a fun g => g.onPort port fun p => match why with
    | .unroute => { p with unroute := p.unroute + 1 }
    | .mismatch => { p with mismatch := p.mismatch + 1 }
    | .source => { p with source := p.source + 1 }

/-! ### The ingress checks -/

/-- The coordinate address of the endpoint at a port of the switch (R47). -/
def portAddr (a : Addr) (port : Nat) : Addr := mkAddr 0 (addrX a) (addrY a) port

/-- The checks at an endpoint port (R52, R160). -/
def Agent.endpointOk (g : Agent) (port : Nat) (h : Hdr) : Bool :=
  let e := g.sliceMap port
  let svc := h.svc.toNat
  if h.amode then
    h.src == portAddr g.addr port && addrKind h.dest == 2 && (if h.vc = 0 then h.slice == 0 else h.vc == 1 && h.slice.toNat == bitsOf e 16 8)
  else
    bitAt e 14 && h.src.toNat == bitsOf e 0 14 && h.slice.toNat == bitsOf e 16 8 && h.slice != 0 && 2 ≤ svc && bitAt e (24 + (svc - 2))

/-- The checks at an uplink port: an EN-mode packet's slice is one of the ingress mask (R160). -/
def Agent.uplinkOk (g : Agent) (port : Nat) (h : Hdr) : Bool :=
  h.amode || bitAt (g.sliceMap (128 + 8 * (port - 128) + h.slice.toNat / 32)) (h.slice.toNat % 32)

/-- A coordinate packet has a Keeper as a party, and only a Keeper broadcasts, on VC0 (R49). -/
def partyOk (h : Hdr) : Bool :=
  !h.amode || if addrKind h.dest = 3 then addrKind h.src == 2 && h.vc == 0 else addrKind h.src == 2 || addrKind h.dest == 2

/-- Every ingress check of a port (R49, R52, R160). -/
def Agent.ingressOk (g : Agent) (port : Nat) (h : Hdr) : Bool :=
  partyOk h && (if port < 128 then g.endpointOk port h else if port < 132 then g.uplinkOk port h else true)

/-- The packet falls to the guard after a lighting, or to an arming whose GO is missing (R144, R145). -/
def Agent.inGuard (g : Agent) (h : Hdr) : Bool :=
  (match g.guard with
   | some d => d.testBit h.slice.toNat
   | none => false) || (g.hold && g.drainSet.testBit h.slice.toNat)

/-! ### Interception and forwarding -/

/-- The enabled programme a collective packet addresses (R193). -/
def State.addressedProg (s : State) (g : Agent) (h : Hdr) : Option ProgView :=
  let c := h.optag.toNat
  let v := s.programme g c
  if c < agentUnits g.addr ∧ v.state = 2 ∧ v.desc.slice = h.slice.toNat then some v else none

/-- The kinds a programme takes (R192, R193): XC data has no reduction point and is forwarded. -/
def progKind (h : Hdr) : Bool := h.opkind == 0x20 || h.opkind == 0x21 || h.opkind == 0x22 || h.opkind == 0x24

/-- The programme that intercepts an EN-mode packet (R193). -/
def State.interceptor (s : State) (g : Agent) (h : Hdr) : Option ProgView :=
  let e := g.entry h.dest.toNat
  if progKind h && bitAt e 9 && bitsOf e 0 8 < 128 then s.addressedProg g h else none

/-- A WINDOW_ACK belongs to a flow that one of the agent's programmes opened (R195). -/
def State.ownAck (s : State) (g : Agent) (h : Hdr) : Bool :=
  h.opkind == 0x13 && (h.svc == 2 || h.svc == 3) &&
  (g.flows.any fun f => f.isSource && f.src == h.dest && f.dest == h.src && f.svc == h.svc.toNat) &&
  (List.range (agentUnits g.addr)).any fun c =>
    bitsOf (g.word (0x200000 + 64 * c)) 0 2 == 2 && s.anchor (s.programme g c) == h.dest.toNat

/-- An EN-mode packet goes on by its entry (R46, R56, R131). -/
def State.forwardEn (s : State) (a : Addr) (port : Nat) (p : Packet) : State :=
  let e := (s.agent a).entry p.hdr.dest.toNat
  if !bitAt e 9 then s.agDiscard a port p.hdr .unroute
  else if bitsOf e 16 8 ≠ p.hdr.slice.toNat then s.agDiscard a port p.hdr .mismatch
  else s.agQueue a (bitsOf e 0 8) (some (port, p.hdr.vc.toNat)) { p with hdr := { p.hdr with vc := egressVc p.hdr e } }

/-- A coordinate packet for the switch itself, out of its buffer; management requests and acknowledgements are carried out by their own rows. -/
def State.switchSelf (s : State) (a : Addr) (port : Nat) (p : Packet) (fault : Nat) : State :=
  let h := p.hdr
  let s := if 0x02 ≤ h.opkind.toNat ∧ h.opkind.toNat ≤ 0x04 then s else s.agReturn a port h
  if h.opkind = 0x13 then s.swAckIn a h p.payload
  else if h.opkind = 0x06 then s.agTimeReply a port p
  else if progKind h then
    match s.addressedProg (s.agent a) h with
    | some v => s.swTake a v port p fault
    | none => s.agStale a
  else s

/-- A rack broadcast: copies to the endpoints, by its index (R47, R50); its buffer is free with the last copy. -/
def State.replicate (s : State) (a : Addr) (port : Nat) (p : Packet) : State :=
  let to_ := if addrIndex p.hdr.dest = 1 then [] else (List.range 128).filter (s.agent a).portLit
  if to_.isEmpty then s.agReturn a port p.hdr
  else to_.foldl (fun s n => s.agQueue a n (if some n = to_.getLast? then some (port, p.hdr.vc.toNat) else none) p) s

/-- A coordinate packet goes on (R50). -/
def State.forwardCoord (s : State) (a : Addr) (port : Nat) (p : Packet) (fault : Nat) : State :=
  match s.coordRoute (s.agent a) p.hdr.dest with
  | .discard => s.agDiscard a port p.hdr .unroute
  | .port n => s.agQueue a n (some (port, p.hdr.vc.toNat)) p
  | .self => s.switchSelf a port p fault
  | .replicate => s.replicate a port p

/-- An EN-mode packet at a switch in SERVE. -/
def State.switchEn (s : State) (a : Addr) (port : Nat) (p : Packet) (fault : Nat) : State :=
  let g := s.agent a
  if s.ownAck g p.hdr then (s.agReturn a port p.hdr).swAckIn a p.hdr p.payload
  else match s.interceptor g p.hdr with
    | some v => (s.agReturn a port p.hdr).swTake a v port p fault
    | none => s.forwardEn a port p

/-- SWITCH_PACKET_INGRESS (R160): a packet that passed its link checks arrives at a port of a switch agent. fault names the second detected fault
of a unit that this packet's reduction meets, 0 for none (R450). -/
def execSwitchPacketIngress (agent : Addr) (port : Nat) (p : Packet) (fault : Nat) (s : State) : Host.Outcome State Fault Refusal :=
  let g := s.agent agent
  let h := p.hdr
  .next <|
    if h.opkind = 0x01 then s.agReturn agent port h
    else if headerRefusal false h ≠ 0 then (s.agReturn agent port h).agMalformed agent
    else if !g.serve && !h.amode then s.agDiscard agent port h .unroute
    else if !g.ingressOk port h then s.agDiscard agent port h .source
    else if g.inGuard h then (s.agReturn agent port h).countReg Reg.SLV_DRAIN_DISCARD 1
    else if h.amode then s.forwardCoord agent port p fault
    else s.switchEn agent port p fault

end Sys2Proof.Machine
end

