-- ==== Sys2Proof/Machine/Endpoint.lean ====
section
/-! DEFINITION. Machine/Endpoint.lean: what arrives at an endpoint agent, and the fused instructions, tiles and deadlines of its slots (R17, R57,
R64, R65, R205, R206, R257, R458). -/
namespace Sys2Proof.Machine

/-! ### Arrivals -/

/-- R458: an FA3 endpoint takes packets of its own slice, and management packets of a Keeper on VC0. -/
def Agent.sliceOk (g : Agent) (h : Hdr) : Bool :=
  agentGen g.addr != 3 || h.slice.toNat == g.slice || (h.slice == 0 && h.vc == 0 && h.amode && addrKind h.src == 2)

/-- WINDOW_ACK at an endpoint: of the flow toward its SRC when packets of one are outstanding, otherwise of the flow on the plane it came on (log
entry 52); one that names no flow is counted (R64). -/
def State.endpointAck (s : State) (a : Addr) (port : Nat) (h : Hdr) (payload : List Word) : State :=
  let g := s.agent a
  let peer := fun (f : Flow) => f.port == 16 && f.src == h.dest && f.dest == h.src && f.svc == h.svc.toNat
  let point := fun (f : Flow) => f.port == port && f.src == h.dest && f.svc == h.svc.toNat
  let s := if g.flows.any fun f => f.isSource && peer f && !f.sent.isEmpty then s.agAckIn a peer payload
    else if g.flows.any fun f => f.isSource && point f then s.agAckIn a point payload
    else s.agStale a
  g.slots.foldl (fun s x => s.tryComplete a x.slot) s

/-- A collective packet for a slot (R57, R182): its GEN and SLICE are the slot's. -/
def State.endpointColl (s : State) (a : Addr) (port : Nat) (p : Packet) : State :=
  let g := s.agent a
  let h := p.hdr
  let v := g.slotView h.optag.toNat
  let x := piecePrefix p.payload
  if h.optag.toNat ≥ agentUnits a ∨ v.state = 0 ∨ v.slice ≠ h.slice.toNat ∨ v.gen ≠ h.gen.toNat ∨ h.opkind = 0x20 then s.agStale a
  else if h.opkind ≠ 0x24 ∧ ¬ x.clean then s.agMalformed a
  else
    let t := s.agTake a port h (if h.amode then a else BitVec.ofNat 16 g.en)
    if !t.1 then t.2
    else if h.opkind = 0x24 then t.2.takeBarrier a v port
    else if h.opkind = 0x21 then (if x.release then t.2.slotCredit a v.slot port x.launch x.piece else t.2.takeResult a v x (prefixData p.payload))
    else t.2.takeBlock a v x (prefixData p.payload)

/-- A Lantern RESULT for the slot whose chain entry names its context (R252, R253). -/
def State.endpointLantern (s : State) (a : Addr) (p : Packet) : State :=
  let g := s.agent a
  let h := p.hdr
  let x := lntPrefix p.payload
  let mine := fun (r : AgSlot) =>
    let v := g.slotView r.slot
    v.alg == 1 && v.slice == h.slice.toNat && v.gen == h.gen.toNat && g.chainField v 0 1 20 8 == h.optag.toNat
  if ¬ x.clean ∨ x.kind ≠ 3 then s.agMalformed a
  else match g.slots.find? mine with
    | some r => s.takeLantern a (g.slotView r.slot) x (lntData p.payload)
    | none => s.agStale a

/-- A packet of the chips' own use: taken into its window and delivered (R55, R64, R65). -/
def State.endpointBulk (s : State) (a : Addr) (port : Nat) (p : Packet) : State :=
  let t := s.agTake a port p.hdr (BitVec.ofNat 16 (s.agent a).en)
  if t.1 then t.2.send (.chip a (.deliver p)) else t.2

/-- ENDPOINT_PACKET_ARRIVAL (R458): a packet that passed its link checks arrives at an endpoint agent; it leaves its buffer, and its credits go
back (R62). Management requests and acknowledgements are carried out by their own rows. -/
def execEndpointPacketArrival (agent : Addr) (port : Nat) (p : Packet) (s : State) : Host.Outcome State Fault Refusal :=
  let g := s.agent agent
  let h := p.hdr
  let k := h.opkind.toNat
  let s := if 0x02 ≤ k ∧ k ≤ 0x04 ∧ headerRefusal false h = 0 ∧ g.sliceOk h then s else s.agReturn agent port h
  .next <|
    if k = 0x01 then s
    else if headerRefusal false h ≠ 0 then s.agMalformed agent
    else if !g.sliceOk h then s.onAgent agent fun g => g.onPort port fun p => { p with mismatch := p.mismatch + 1 }
    else if !g.serve && !h.amode then s.agStale agent
    else if 0x02 ≤ k ∧ k ≤ 0x05 then s
    else if k = 0x06 then s.agTimeReply agent port p
    else if k = 0x13 then s.endpointAck agent port h p.payload
    else if 0x10 ≤ k ∧ k ≤ 0x12 then s.endpointBulk agent port p
    else if 0x20 ≤ k ∧ k ≤ 0x24 then s.endpointColl agent port p
    else if k = 0x31 then s.endpointLantern agent p
    else s.agMalformed agent

/-! ### Fused instructions, tiles, deadlines -/

/-- AGENT_LAUNCH (R205): a launch starts, or is queued behind the one in progress while further instructions are held; at a slot that is not enabled
a NOT_LIVE record is written, whose LAUNCH the spec does not state. -/
def execAgentLaunch (agent : Addr) (slot : Nat) (s : State) : Host.Outcome State Fault Refusal :=
  let g := s.agent agent
  let v := g.slotView slot
  let x := g.slotRec slot
  .next <|
    if !g.serve || !v.isOpen then
      let r := s.fresh
      r.2.completion agent v 0x11 (bitsOf r.1 0 16) []
    else if x.queued then s
    else if x.running || x.frozen then
      (s.onAgSlot agent slot fun y => { y with queued := true, pendingTiles := 0 }).send (.chip agent (.hold slot true))
    else (s.startLaunch agent slot 0).tryComplete agent slot

/-- AGENT_TILE_DONE (R206): the counter of the launch in progress rises and entries due are fired; with a launch queued and nothing left to fire, the
tile is the queued launch's. -/
def execAgentTileDone (agent : Addr) (slot : Nat) (s : State) : Host.Outcome State Fault Refusal :=
  let g := s.agent agent
  let v := g.slotView slot
  let x := g.slotRec slot
  .next <|
    if x.queued && (!x.running || v.entries ≤ x.next) then s.onAgSlot agent slot fun y => { y with pendingTiles := y.pendingTiles + 1 }
    else if x.running then ((s.onAgSlot agent slot fun y => { y with counter := y.counter + 1 }).fire agent slot).tryComplete agent slot
    else s

/-- AGENT_LANTERN_DEADLINE (R257): the contribution goes out again on the next plane, or after RETRY_LIMIT attempts the launch completes with
TIMEOUT. -/
def execAgentLanternDeadline (agent : Addr) (slot : Nat) (s : State) : Host.Outcome State Fault Refusal :=
  let g := s.agent agent
  let v := g.slotView slot
  let x := g.slotRec slot
  .next <| match x.attempt with
    | none => s
    | some n =>
      if !x.running || x.frozen || x.released then s
      else if g.retryLimit ≤ n + 1 then
        ((s.completion agent v 0x12 x.launch x.overs).onAgSlot agent slot fun y => { y with running := false, done := y.launch, attempt := none }).startQueued
          agent slot
      else (s.sendContrib agent v x.launch (n + 1)).onAgSlot agent slot fun y => { y with attempt := some (n + 1) }

end Sys2Proof.Machine
end

