-- ==== Sys2Proof/Machine/RecoverOps.lean ====
section
/-! DEFINITION. Machine/RecoverOps.lean: lost planes, recovery and abort exchanges, at the head and at the member Keepers (R264 to R286). -/
namespace Sys2Proof.Machine

/-! ### Launch numbers and planes -/

/-- The later of two launch numbers, modulo 65,536. -/
def laterLaunch (a b : Nat) : Nat := if (b + 65536 - a) % 65536 < 32768 then b else a

/-- A launch number lies in a range, modulo 65,536. -/
def inLaunches (first last l : Nat) : Bool := (l + 65536 - first) % 65536 ≤ (last + 65536 - first) % 65536

/-- The substitute of a lost plane: the first plane after it within PLANES, wrapping, that is not lost (R271). -/
def substitute (planes lost p : Nat) : Option Nat :=
  ((List.range 16).map fun i => (p + 1 + i) % 16).find? fun q => planes.testBit q && !lost.testBit q

/-- The remap after planes are newly lost, ascending; none when no plane is left (R271). -/
def remapLost (planes lost : Nat) (remap newly : List Nat) : Option (List Nat) :=
  newly.foldl (fun acc p => acc.bind fun m => (substitute planes lost p).map fun q => m.map fun e => if e = p then q else e) (some remap)

/-- The two words of a remap: 16 entries of 4 bits (R286, R451). -/
def remapOf (w0 w1 : Word) : List Nat := (List.range 16).map fun i => if i < 8 then bitsOf w0 (4 * i) 4 else bitsOf w1 (4 * (i - 8)) 4

/-- Pieces a plan has on planes that a remap leads to some planes. -/
def piecesOn (desc : List Word) (planes q : Nat) (remap lost : List Nat) : List Nat :=
  let d := planDesc desc
  (List.range (pieceCount d.bytes q)).filter fun n => lost.contains (remap.getD (planeOf planes n) 0)

/-! ### A member Keeper: losses (R264, R269, R270) -/

/-- A plane is lost to a plan here: noted, raised, reported to the head (R269, R270). Lantern plans recover by their own retries. -/
def State.losePlane (s : State) (ctx plane : Nat) : State :=
  match s.plan ctx with
  | none => s
  | some p =>
    if p.st ≠ 3 ∨ p.alg = 1 ∨ ¬ p.planes.testBit plane ∨ p.lost.testBit plane then s
    else
      let s := (s.onPlan ctx fun p => { p with lost := p.lost ||| 1 <<< plane }).raise Fld.CLP_FAULT_STATUS_PLANE_LOST
      s.recoverReq p 1 p.newest [w32 (1 <<< plane)]

/-- A link between endpoint i of this rack and switch `plane` has left LIT for a state other than PARKED (R269). -/
def State.memberLinkLost (s : State) (i plane : Nat) : State :=
  (s.clp.plans.filter fun p => (s.planMembers p).any fun x => x.1 == s.epAddr i).foldl (fun s p => s.losePlane p.ctx plane) s

/-- The Keeper's switch link `plane` has left LIT for a state other than PARKED: lost to INNET plans with a root here (R269). -/
def State.keeperLinkLost (s : State) (plane : Nat) : State :=
  (s.clp.plans.filter fun p => p.alg == 2).foldl (fun s p => s.losePlane p.ctx plane) s

/-- A switch of this rack was reset: its plane is lost to the plans it is a point of (R269, R278). -/
def State.switchLost (s : State) (plane : Nat) : State :=
  (s.clp.plans.filter fun p => usesSwitches (planDesc p.desc).oper p.alg).foldl (fun s p => s.losePlane p.ctx plane) s

/-- A LINK_NOTICE names an uplink at rack r of a plane: lost to the RING plans whose steps cross it (R269). -/
def State.ringUplinkLost (s : State) (r dir plane : Nat) : State :=
  let n := nbrRack s.axes.1 s.axes.2 r dir
  (s.clp.plans.filter fun p => p.alg == 3 && p.ring.contains r && p.ring.contains n).foldl (fun s p => s.losePlane p.ctx plane) s

/-- Launches of a plan in progress at its root here: of the four newest seen, those with pieces that are not done (R266, R278). -/
def Plan.openLaunches (p : Plan) : List Nat :=
  let n := pieceCount (planDesc p.desc).bytes p.q
  if p.launches = 0 then []
  else ((List.range (min 4 p.launches)).map fun i => (p.newest + 65536 - i) % 65536).filter fun l => (p.doneOf l).dedup.length < n

/-- The pieces of the launches in progress whose root step is in this rack are asked to be replayed: the root context was reset, or this Keeper has taken
over (R270, R278). -/
def State.replayRoot (s : State) (p : Plan) : State :=
  let d := planDesc p.desc
  if p.st ≠ 3 ∨ d.oper ≠ 1 ∨ p.alg ≠ 2 ∨ p.ring.length ≤ 1 then s
  else p.openLaunches.foldl (fun s l =>
    s.recoverReq p 2 l (((List.range (pieceCount d.bytes p.q)).filter fun n => !(p.doneOf l).contains n).map w32)) s

/-- A broken flow of the Keeper: toward a switch its plane is lost, toward an owner or another Keeper the plan cannot go on (R264, R269,
R281). -/
def State.keeperFlowBroken (s : State) (p : Plan) (dest : Addr) (launch : Nat) : State :=
  let s := s.raise Fld.CLP_FAULT_STATUS_FLOW_BROKEN
  if addrKind dest = 1 then s.losePlane p.ctx (addrIndex dest) else s.recoverReq p 5 launch []

/-! ### A member Keeper: the recovery exchange (R272) -/

/-- The remap of a plan written to the switches and the members of this rack (R272, R451); the write also carries the clearing and, at
RECOVER_GO, the order to send again (log entry 33). -/
def State.writeRemaps (s : State) (p : Plan) (agents : List Addr) (purpose : MgmtFor) : State :=
  agents.foldl (fun s a =>
    let n := if addrKind a = 1 then p.ctx else (planDesc p.desc).slot
    s.mgmtWrite a (0x240000 + 8 * n) (remapWords p.remap) 10 p.slice 0x06 purpose) s

/-- RECOVER_CLEARED (R286). -/
def State.sendCleared (s : State) (p : Plan) : State :=
  s.tellHead (s.planMsg 0x42 p.slice [w32 p.ordinal, w32 p.recovery])

/-- The clearing at this Keeper's points is complete: RECOVER_CLEARED is sent (R270). -/
def State.tryCleared (s : State) (ctx : Nat) : State :=
  match s.plan ctx with
  | none => s
  | some p =>
    if p.clearing && !(s.mgmt.ops.any fun o => o.purpose == .plan ctx) then
      (s.onPlan ctx fun p => { p with clearing := false }).sendCleared p
    else s

/-- The places, map bits and done bits of named pieces of named launches are cleared at the root context (R272). -/
def State.clearPieces (s : State) (ctx first last : Nat) (pieces : List Nat) : State :=
  let hit := fun (l n : Nat) => inLaunches first last l && pieces.contains n
  let s := s.onPlan ctx fun p => { p with
    places := p.places.filter fun x => !hit x.launch x.piece,
    done := p.done.map fun x => (x.1, x.2.filter fun n => !hit x.1 n),
    credits := p.credits.filter fun c => !hit c.2.1 c.2.2 }
  { s with lmp := { s.lmp with units := s.lmp.units.filter fun u => !(u.ctx == ctx && hit u.launch u.piece) } }

/-! ### A member Keeper: the abort exchange (R281, R283) -/

/-- FROZEN: the rack's counts and its highest launch (R281). A member that completed or idles below the rack's highest launch counts as
pending (log entry 34). -/
def State.sendFrozen (s : State) (p : Plan) : State :=
  let high := p.answers.foldl (fun h a => laterLaunch h a.2.2) (p.answers.headD (0, 0, 0)).2.2
  let at1 := fun (k : Nat) => (p.answers.filter fun a => a.2.1 == k && a.2.2 == high).length
  let pending := p.answers.length - at1 0 - at1 1
  s.tellHead (s.planMsg 0x45 p.slice [w32 p.ordinal, w32 (at1 0), w32 (at1 1), w32 pending, w32 high])

/-- With the answer of every member of the rack, FROZEN is sent (R281). -/
def State.tryFrozen (s : State) (ctx : Nat) : State :=
  match s.plan ctx with
  | none => s
  | some p =>
    if p.frozen.isSome && !p.frozenSent && (s.planMembers p).all fun x => p.answers.any fun a => a.1 == x.1 then
      (s.onPlan ctx fun p => { p with frozenSent := true }).sendFrozen p
    else s

/-- An agent's answer to FREEZE; a failed write counts as pending (R281, R408, R452). -/
def State.freezeReply (s : State) (op : MgmtOp) (ctx status : Nat) (words : List Word) : State :=
  if bitAt (wordAt op.words 0) 12 ∧ addrKind op.agent = 0 then
    let w := wordAt words 0
    let a := (op.agent, if status = 0 then bitsOf w 0 2 else 2, if status = 0 then bitsOf w 16 16 else 0)
    (s.onPlan ctx fun p => { p with answers := (p.answers.filter fun x => x.1 != op.agent) ++ [a] }).tryFrozen ctx
  else s

/-- FREEZE or THAW written to the plan's slots and programmes in this rack (R281, R452). -/
def State.writeFreeze (s : State) (p : Plan) (bit : Nat) : State :=
  let s := (s.planMembers p).foldl (fun s x =>
    s.mgmtWrite x.1 0x74 [fieldAt 0 11 (planDesc p.desc).slot ||| fieldAt bit 1 1] 5 p.slice 0x06 (.freeze p.ctx)) s
  (s.planSwitches p).foldl (fun s a => s.mgmtWrite a 0x74 [fieldAt 0 11 p.ctx ||| fieldAt bit 1 1] 5 p.slice 0x06 (.freeze p.ctx)) s

/-- The slots and programmes rewritten with the plan's GEN and E (R283, R452). -/
def State.rewritePlan (s : State) (p : Plan) : State :=
  let s := (s.planMembers p).foldl (fun s x =>
    s.writeRun x.1 (0x200000 + 64 * (planDesc p.desc).slot) (p.slotWords x.2 (if p.loaded then 1 else 2) p.enable) 4 p.slice 0x06 .upkeep) s
  (s.planSwitches p).foldl (fun s a =>
    s.writeRun a (0x200000 + 64 * p.ctx) (s.programmeWords p (addrIndex a) 2) 10 p.slice 0x06 .upkeep) s

/-- An ABORT outcome at a member Keeper: everything of the aborted launches is cleared, the new generation, N and E are taken (R283). -/
def State.thawAbort (s : State) (ctx cause gen n e : Nat) : State :=
  let s := s.onPlan ctx fun p => { p with
    places := [], done := [], credits := [], arrivals := [], gen := gen, enable := if e = 0 then p.enable else e, loaded := p.loaded || e == 0,
    newest := n, abortCause := cause, launches := max p.launches n, quiet := 0, stallSent := false, recovered := [], recovery := 0, clearing := false, namedPieces := [] }
  let s := { s with lmp := { s.lmp with units := s.lmp.units.filter fun u => u.ctx != ctx },
                    lnt := { s.lnt with ctxs := s.lnt.ctxs.map fun (c : LntCtx) => if c.ctx = ctx then { c with bufs := [], d := n, gen := gen } else c } }
  let s := s.dropSent fun x => x.ctx == ctx
  match s.plan ctx with
  | none => s
  | some p =>
    let s := s.logOwn 0x034 0x06 p.slice [w32 p.ordinal, fieldAt 0 8 cause ||| fieldAt 16 16 n]
    let s := (s.countReg Reg.CLP_ABORTS 1).setReg Reg.CLP_LAST_ABORT (fieldAt 0 16 n ||| fieldAt 16 8 p.slice ||| fieldAt 24 8 cause)
    let s := s.raise Fld.CLP_FAULT_STATUS_ABORTED
    (s.raiseIf (cause == 0x17) Fld.CLP_FAULT_STATUS_NO_PLANE).rewritePlan p

/-! ### The head: recovery (R270, R271, R273) -/

/-- The plan of a slice and ordinal at the head. -/
def State.livePlan (s : State) (slice ordinal : Nat) : Option HeadPlan := s.clp.live.find? fun p => p.slice == slice && p.ordinal == ordinal

/-- A plan at the head, changed. -/
def State.onLive (s : State) (slice ordinal : Nat) (f : HeadPlan → HeadPlan) : State :=
  s.onClp fun c => { c with live := c.live.map fun p => if p.slice = slice ∧ p.ordinal = ordinal then f p else p }

/-- A message to every member Keeper of a plan. -/
def State.tellRacks (s : State) (p : HeadPlan) (m : KMsg) : State := p.racks.foldl (fun s r => s.tell (s.keeperOf r) m) s

/-- FREEZE (R286). -/
def State.sendFreeze (s : State) (p : HeadPlan) (cause : Nat) : State :=
  s.tellRacks p (s.planMsg 0x44 p.slice [w32 p.ordinal, w32 cause])

/-- An abort exchange starts, or merges into the one in progress; recovery exchanges of the plan that have not reached RECOVER_GO are
dropped; it waits while the plan's GEN advanced less than 4 flashes ago (R279, R281). -/
def State.startAbort (s : State) (slice ordinal cause : Nat) : State :=
  match s.livePlan slice ordinal with
  | none => s
  | some p =>
    let member := cause == 0x13
    if s.clp.aborts.any fun a => a.slice == slice && a.ordinal == ordinal then
      s.onClp fun c => { c with aborts := c.aborts.map fun a =>
        if a.slice = slice ∧ a.ordinal = ordinal then { a with memberReset := a.memberReset || member } else a }
    else
      let wait := p.genFlash ≠ 0 ∧ s.tim.flash < p.genFlash + 4
      let s := s.onClp fun c => { c with
        recoveries := c.recoveries.filter fun r => !(r.slice == slice && r.ordinal == ordinal && !r.gone),
        aborts := c.aborts.concat { slice := slice, ordinal := ordinal, cause := cause, replies := [], flash := s.tim.flash, waiting := decide wait,
                                    memberReset := member } }
      if wait then s else s.sendFreeze p cause

/-- RECOVER_CLEAR (R286): the launches named are a range, first and last (log entry 33). -/
def State.sendClear (s : State) (p : HeadPlan) (r : Recovery) : State :=
  s.tellRacks p (s.planMsg 0x41 p.slice ([w32 p.ordinal, w32 r.number, w32 r.launch] ++ remapWords p.remap ++ r.pieces.map w32))

/-- The next recovery exchange of a plan goes out when none of it is in progress and no abort is (R270). -/
def State.pumpRecovery (s : State) (slice ordinal : Nat) : State :=
  let mine := fun (r : Recovery) => r.slice == slice && r.ordinal == ordinal
  if (s.clp.recoveries.any fun r => mine r && r.number != 0) || s.clp.aborts.any fun a => a.slice == slice && a.ordinal == ordinal then s
  else
    match s.livePlan slice ordinal, s.clp.recoveries.find? mine with
    | some p, some r =>
      let r := { r with number := s.clp.nextRecovery, flash := s.tim.flash }
      let s := s.onClp fun c => { c with nextRecovery := c.nextRecovery + 1, recoveries := (c.recoveries.filter fun x => !mine x) ++ [r] }
      s.sendClear p r
    | _, _ => s

/-- A range of launches, first + 65,536 × last, that takes in one more. -/
def widenLaunches (range launch : Nat) : Nat :=
  let first := range % 65536
  let last := range / 65536
  if inLaunches first last launch then range else if laterLaunch last launch = launch then first + 65536 * launch else launch + 65536 * last

/-- A request joins the recovery exchange of its plan that has not sent RECOVER_CLEAR (R270). -/
def State.wantRecovery (s : State) (p : HeadPlan) (planes launch : Nat) (pieces : List Nat) : State :=
  let mine := fun (r : Recovery) => r.slice == p.slice && r.ordinal == p.ordinal && r.number == 0
  let join := fun (r : Recovery) =>
    if mine r then { r with planes := r.planes ||| planes, pieces := (r.pieces ++ pieces).dedup, launch := widenLaunches r.launch launch } else r
  let fresh : Recovery := { slice := p.slice, ordinal := p.ordinal, number := 0, planes := planes, pieces := pieces, launch := launch + 65536 * launch,
                            cleared := [], flash := s.tim.flash, gone := false }
  let s := s.onClp fun c => { c with recoveries := if c.recoveries.any mine then c.recoveries.map join else c.recoveries ++ [fresh] }
  s.pumpRecovery p.slice p.ordinal

/-- Planes newly lost, at the head: the remap, and a recovery of their pieces; no plane left aborts with NO_PLANE (R271). -/
def State.headPlaneLost (s : State) (p : HeadPlan) (planes launch : Nat) : State :=
  let newly := (planeList planes).filter fun q => p.planes.testBit q && !p.lost.testBit q
  if newly.isEmpty then s
  else
    let lost := p.lost ||| maskOf newly
    match remapLost p.planes lost p.remap newly with
    | none => (s.onLive p.slice p.ordinal fun x => { x with lost := lost }).startAbort p.slice p.ordinal 0x17
    | some m =>
      let pieces := piecesOn p.desc p.planes p.q p.remap newly
      let s := s.onLive p.slice p.ordinal fun x => { x with lost := lost, remap := m }
      match s.livePlan p.slice p.ordinal with
      | some q => s.wantRecovery q (maskOf newly) launch pieces
      | none => s

/-- A piece place was discarded: the third time for a piece of a launch, or a root whose pool is empty, aborts with ROOT_LOST; else its
pieces are replayed (R273). A discard already named in an open exchange is the same request sent again. -/
def State.headDiscard (s : State) (p : HeadPlan) (launch : Nat) (pieces : List Nat) : State :=
  if pieces.isEmpty then s.startAbort p.slice p.ordinal 0x16
  else
    let opened := s.clp.recoveries.filter fun r => r.slice == p.slice && r.ordinal == p.ordinal && !r.gone
    let fresh := pieces.filter fun n => !(opened.any fun r => inLaunches (r.launch % 65536) (r.launch / 65536) launch && r.pieces.contains n)
    if fresh.isEmpty then s
    else
      let same := fun (n : Nat) (x : DiscardCount) => x.slice == p.slice && x.ordinal == p.ordinal && x.launch == launch && x.piece == n
      let s := fresh.foldl (fun s n => s.onClp fun c =>
        let was := (c.discards.find? (same n)).elim 0 (·.count)
        { c with discards := (c.discards.filter fun x => !same n x).concat { slice := p.slice, ordinal := p.ordinal, launch := launch, piece := n, count := was + 1 } }) s
      if fresh.any fun n => (s.clp.discards.find? (same n)).elim 0 (·.count) ≥ 3 then s.startAbort p.slice p.ordinal 0x16
      else s.wantRecovery p 0 launch fresh

/-- A RECOVER_REQ at the head, by its kind (R270, R273, R276, R277, R281, R286). -/
def State.headRequest (s : State) (p : HeadPlan) (rack kind launch : Nat) (items : List Word) : State :=
  if kind = 1 then s.headPlaneLost p ((items.headD 0).toNat % 65536) launch
  else if kind = 2 then s.headDiscard p launch (items.map BitVec.toNat)
  else if kind = 3 then s.startAbort p.slice p.ordinal 0x13
  else if kind = 4 then
    let s := s.onLive p.slice p.ordinal fun x => { x with
      stalled := (x.stalled.filter fun y => y % 64 != rack) ++ [rack + (if wordAt items 0 = 1 then 64 else 0)] }
    match s.livePlan p.slice p.ordinal with
    | some q =>
      if (q.racks.all fun r => q.stalled.any fun y => y % 64 == r) && q.stalled.any (64 ≤ ·) then
        (s.onLive p.slice p.ordinal fun x => { x with stalled := [] }).startAbort p.slice p.ordinal 0x14
      else s
    | none => s
  else if kind = 5 then s.startAbort p.slice p.ordinal 0x18
  else s

/-! ### The head: the abort's decision (R282, R283) -/

/-- THAW (R286): outcome coded as R284 codes it, the counts of R284's word 2, a refusal's reason; FLASH = E (log entry 28). -/
def State.thawMsg (s : State) (slice ordinal outcome gen n completed aborted reason e : Nat) : KMsg :=
  ({ s.planMsg 0x46 slice [w32 ordinal, w32 outcome, w32 gen, w32 n, fieldAt 0 14 completed ||| fieldAt 16 14 aborted, w32 reason] with
    flash := BitVec.ofNat 48 e } : KMsg)

/-- THAW to every member Keeper, kept for a rack that has not got it (R286). -/
def State.sendThaw (s : State) (p : HeadPlan) (m : KMsg) : State :=
  (s.onLive p.slice p.ordinal fun x => { x with thaw := some m }).tellRacks p m

/-- With FROZEN from every member Keeper the head decides and sends THAW; E = 0 leaves the slots LOADED (R271, R273, R281 to R283). -/
def State.decideAbort (s : State) (a : AbortEx) : State :=
  match s.livePlan a.slice a.ordinal with
  | none => s.onClp fun c => { c with aborts := c.aborts.filter fun x => !(x.slice == a.slice && x.ordinal == a.ordinal) }
  | some p =>
    if !(p.racks.all fun r => a.replies.any fun x => x.1 == r) then s
    else
      let n := a.replies.foldl (fun h x => laterLaunch h x.2.2.2.2) ((a.replies.headD (0, 0, 0, 0, 0)).2.2.2.2)
      let same := a.replies.all fun x => x.2.2.2.2 == n
      let pending := (a.replies.map fun x => x.2.2.2.1).sum
      let idle := (a.replies.map fun x => x.2.2.1).sum
      let complete := ((a.replies.filter fun x => x.2.2.2.2 == n).map fun x => x.2.1).sum
      let none1 := same && pending == 0 && !a.memberReset && (idle == 0 || complete == 0)
      let m := (planDesc p.desc).members.length
      let gen := if none1 then p.gen else (p.gen + 1) % 64
      let loaded := a.cause == 0x17 || (a.cause == 0x16 && (s.clp.discards.all fun x => !(x.slice == a.slice && x.ordinal == a.ordinal && x.count ≥ 3)))
      let outcome := if !none1 then 0 else if idle = 0 then 1 else 2
      let s := s.onLive a.slice a.ordinal fun x => { x with gen := gen, genFlash := if none1 then x.genFlash else s.tim.flash, stalled := [] }
      let s := s.onClp fun c => { c with
        aborts := c.aborts.filter fun x => !(x.slice == a.slice && x.ordinal == a.ordinal),
        discards := if none1 then c.discards else c.discards.filter fun x => !(x.slice == a.slice && x.ordinal == a.ordinal) }
      let e := if loaded then 0 else s.tim.flash + 2
      s.sendThaw p (s.thawMsg a.slice a.ordinal outcome gen n complete (if none1 then 0 else m - complete) 0 e)

/-- Recovery and abort messages that go out again each flash until the next message of their exchange comes (R286). -/
def State.resendRecovery (s : State) : State :=
  let s := s.clp.plans.foldl (fun s p =>
    let s := p.reqs.foldl (fun s ws => s.recoverMsg p ws) s
    let s := if p.recovery ≠ 0 ∧ ¬ p.clearing ∧ ¬ p.gone then s.sendCleared p else s
    if p.frozen.isSome && p.frozenSent then s.sendFrozen p else s) s
  if ¬ s.isHead then s
  else
    let s := s.clp.recoveries.foldl (fun s r =>
      match s.livePlan r.slice r.ordinal with
      | some p => if r.number = 0 ∨ r.gone then s else s.sendClear p r
      | none => s) s
    s.clp.aborts.foldl (fun s a =>
      match s.livePlan a.slice a.ordinal with
      | some p => if a.waiting then s else s.sendFreeze p a.cause
      | none => s) s

end Sys2Proof.Machine
end

