-- ==== Sys2Proof/Machine/MoorDown.lean ====
section
/-! DEFINITION. Machine/MoorDown.lean: what the loss of the mooring link, of a commit or of the image changes at either end (R372 to R375). -/
namespace Sys2Proof.Machine

/-- A standby marks its own image STALE (R365, R372, R374). -/
def State.selfStale (s : State) : State :=
  let was := s.getF Fld.MOR_STATE_IMAGE
  let s := ((s.setF Fld.MOR_STATE_IMAGE 3).setF Fld.MOR_HEALTH_STALE 1).setF Fld.MOR_HEALTH_RESYNCING 0
  s.raiseIf (was != 3) Fld.MOR_INT_STATUS_STALE

/-- The active marks its partner STALE and changes to selective mirroring when it is enabled; no delta is owed any more, and completions that
waited for one go out unmirrored unless the selective set holds their change (R28, R373, R375). -/
def State.partnerStale (s : State) : State :=
  let was := s.getF Fld.MOR_STATE_PARTNER
  let sel := s.flag Fld.MOR_CTRL_SELECT_EN && s.flag Fld.MOR_CTRL_MIRROR_EN
  let s := (s.setF Fld.MOR_STATE_PARTNER 3).setF Fld.MOR_STATE_MODE (if sel then 2 else 0)
  let s := { s with
    mor := { s.mor with owed := [], uncommitted := [], pages := none, lastPage := none }
    hif := { s.hif with waits := s.hif.waits.map fun (x : Wait) => { x with mirrored := x.mirrored && x.sel && sel } } }
  (s.setF Fld.MOR_LAG_UNCOMMITTED 0).raiseIf (was != 3) Fld.MOR_INT_STATUS_STALE

/-- EV_MOORING_DEGRADED with its reason (R374, R424). -/
def State.mooringDegraded (s : State) (reason : Nat) : State := s.logOwn 0x041 0x0B 0 [fieldAt 0 4 reason]

/-- The mooring link is marked down: the standby becomes STALE, the active's partner does (R374). -/
def State.mooringDown (s : State) (reason : Nat) : State :=
  if s.flag Fld.MOR_HEALTH_MOORING_DOWN then s
  else
    let s := (s.setF Fld.MOR_HEALTH_MOORING_DOWN 1).raise Fld.MOR_INT_STATUS_MOORING_DOWN
    let s := s.mooringDegraded reason
    if s.lit then s.partnerStale else s.selfStale

end Sys2Proof.Machine
end

