-- ==== Sys2Proof/Machine/LinkOps.lean ====
section
/-! DEFINITION. Machine/LinkOps.lean: the Keeper's own ports and lanes, neighbours, the rack record, egress, parking (R39 to R45, R59 to R63, R93 to
R119). -/
namespace Sys2Proof.Machine

/-! ### Expected neighbours (R104) -/

/-- A neighbour as beacon word 0 names it: ADDR, PORT, TYPE (R101). -/
def nbrWord (type : Nat) (a : Addr) (port : Nat) : Word := fieldAt 0 16 a.toNat ||| fieldAt 16 8 port ||| fieldAt 24 4 type

/-- The coordinate address of index i of kind k at rack r. -/
def State.addrAt (s : State) (kind r i : Nat) : Addr := mkAddr kind (r % s.axes.1) (r / s.axes.1) i

/-- The expected neighbour of Keeper port k; none where the chart cables nothing (R74, R104). -/
def State.expectedOwn (s : State) (k : Nat) : Option Word :=
  match s.rackRec s.myRack with
  | none => none
  | some rec =>
    if k < 16 then some (nbrWord 1 (s.switchAddr k) (132 + s.role))
    else if k = 20 then some (nbrWord 2 (mkAddr 2 s.rx s.ry (1 - s.role)) 20)
    else
      let d := k - 16
      if (if s.role = 0 then rec.kportA else rec.kportB).testBit d then
        some (nbrWord 2 (s.addrAt 2 (nbrRack s.axes.1 s.axes.2 s.myRack d) s.role) (16 + oppDir d))
      else none

/-- The expected neighbour of an agent's port (R104). -/
def State.expectedAgent (s : State) (a : Addr) (port : Nat) : Option Word :=
  match s.rackRec s.myRack with
  | none => none
  | some rec =>
    let i := addrIndex a
    if addrKind a = 0 then
      if rec.epPresent.testBit i && (rec.links.getD i 0).testBit port then some (nbrWord 1 (s.switchAddr port) i) else none
    else if port < 128 then
      if rec.epPresent.testBit port && (rec.links.getD port 0).testBit i then some (nbrWord 0 (s.epAddr port) i) else none
    else if port < 132 then
      let d := port - 128
      if rec.uplinks.testBit (4 * i + d) then some (nbrWord 1 (s.addrAt 1 (nbrRack s.axes.1 s.axes.2 s.myRack d) i) (128 + oppDir d)) else none
    else some (nbrWord 2 (mkAddr 2 s.rx s.ry (port - 132)) i)

/-- The two words of the lit chart tag, 0 when none is lit (R101). -/
def State.chartTag (s : State) : Word × Word :=
  match s.chart.lit with
  | some c => (c.digest.extractLsb' 0 32, c.digest.extractLsb' 32 32)
  | none => (0, 0)

/-- An event of an agent's port: the agent is the party, the Keeper's clock the stamp (R422, log entry 36). -/
def State.logAgent (s : State) (a : Addr) (code engine slice : Nat) (body : List Word) : State :=
  s.logEvt { code := BitVec.ofNat 10 code, party := a, fa2 := agentGen a == 2, flash := BitVec.ofNat 48 s.tim.flash,
             offset := BitVec.ofNat 25 s.tim.offset, slice := BitVec.ofNat 8 slice, engine := BitVec.ofNat 8 engine, body := body } false false

/-! ### Lanes (R94, R98, R109, R110) -/

/-- A link control block goes out on a port with the next sequence number (R94). -/
def State.sendLcb (s : State) (n type body : Nat) : State :=
  (s.onPort n fun p => { p with lcbSeq := (p.lcbSeq + 1) % 256 }).send (.lcb n (lcbBlock type (s.port n).lcbSeq body))

/-- The active lanes: the lowest-numbered lanes outside a failed set, up to 8 (R109). -/
def laneMap (failed : Nat) : Nat := maskOf (((List.range 9).filter fun l => !failed.testBit l).take 8)

/-- The bits of a mask that another lacks. -/
def maskMinus (a b : Nat) : Nat := maskOf ((List.range 32).filter fun i => a.testBit i && !b.testBit i)

/-- How many lanes are healthy. -/
def healthyLanes (failed : Nat) : Nat := 9 - popCount failed 9

/-- A credit resync starts: RESYNC_MARK after the last packet, no new packet until the grant (R95). -/
def State.resync (s : State) (n : Nat) : State :=
  (s.onPort n fun p => { p with eg := { p.eg with resyncing := true }, resyncDue := false, unclean := true }).sendLcb n 0x02 0

/-- The lanes of a port in service: active and not parked (R110, R117). -/
def Port.serving (p : Port) : Nat := popCount (maskMinus p.active p.parked) 9

/-- Both buckets of a port filled to now, at the lane count of the time that ends (R60). -/
def State.fillBuckets (s : State) (n : Nat) : State :=
  s.onPort n fun p => { p with eg := s.fillEgress p.serving p.eg }

/-- The body words of a link event: PORT, LANE, OLD, NEW (R424). -/
def linkEventWord (port lane old new : Nat) : Word := fieldAt 0 8 port ||| fieldAt 8 4 lane ||| fieldAt 12 4 old ||| fieldAt 16 4 new

/-! ### Port states (R96) -/

/-- Training starts where a place is free, at most 8 at once, once the lasers are up (R97). -/
def State.pumpTraining (s : State) : State :=
  if !s.link.lasersUp then s
  else
    let room := 8 - s.link.training.length
    let go := s.link.toTrain.take room
    let s := { s with link := { s.link with toTrain := s.link.toTrain.drop room, training := s.link.training ++ go } }
    go.foldl (fun s n => s.onPort n fun p => { p with retrains := p.retrains + 1 }) s

/-- The Keeper asks for the neighbour record of every port of switch n (R99). -/
def State.readNeighbours (s : State) (n : Nat) : State :=
  (List.range 134).foldl (fun s p => s.mgmtRead (s.switchAddr n) (0x1000 + 0x20 * p) 3 0x03 (.nbr p)) s

/-- PORTS: fewer than MIN_SWITCH_PORTS of ports 0 to 15 are LIT (R366). -/
def State.judgePorts (s : State) : State :=
  s.setUnfit 5 (decide (((List.range 16).filter s.portLit).length < s.getF Fld.MOR_PARAMS_MIN_SWITCH_PORTS))

/-- A port changes state: LINK_CHANGE, the link events, the resync and the neighbour records on LIT, the planes that plans lose when a switch
link leaves LIT for a state other than PARKED (R95, R96, R99, R269, R424). -/
def State.portTo (s : State) (n : Nat) (st : PortState) (reason : Nat) : State :=
  let p := s.port n
  if p.st = st then s
  else
    let s := (s.fillBuckets n).onPort n fun p => { p with
      st := st, unclean := true, failReason := if reason ≠ 0 then reason else if st = .lit then 0 else p.failReason, missing := 0, waking := false, idle := 0,
      depth := if st = .extra then 3 else if st = .parked then p.depth else 0,
      lastBeacon := if st = .verify then none else p.lastBeacon,
      found := if st = .train then none else p.found,
      litHolder := st == .lit && p.litHolder,
      eg := { p.eg with resyncing := p.eg.resyncing && (st == .lit || st == .held) },
      parked := if st = .parked then p.parked ||| p.active else if st = .extra then maskMinus 511 (p.failed ||| p.farFailed)
        else if st = .off ∨ st = .train ∨ st = .dark ∨ st = .quarantined then 0 else p.parked,
      active := if st = .lit ∨ st = .held ∨ st = .parked ∨ st = .verify ∨ st = .secure then p.active else 0,
      keys := if st = .train then none else p.keys, hello := if st = .train then none else p.hello, peer := if st = .train then none else p.peer }
    let s := (s.raise Fld.DSC_INT_STATUS_LINK_CHANGE).stageInput .dsc .acted
    let s := if n < 16 then s.judgePorts else s
    let w := linkEventWord n 0 p.st.code st.code
    let s := if st = .dark then s.logOwn 0x012 0x03 0 [w, fieldAt 0 4 reason]
      else if st = .quarantined then (s.logOwn 0x013 0x03 0 [w, fieldAt 0 4 reason]).raise Fld.DSC_INT_STATUS_QUARANTINE else s
    let s := if p.st = .lit ∧ st ≠ .parked ∧ n < 16 then s.keeperLinkLost n else s
    let s := if p.st = .lit ∧ st ≠ .parked ∧ n = 20 then s.mooringDown 2 else s
    if st = .lit then
      let s := s.resync n
      if n < 16 ∧ s.lit then s.readNeighbours n else s
    else s

/-- A port goes to TRAIN and waits for a training place (R96, R97). -/
def State.trainPort (s : State) (n : Nat) : State :=
  let s := s.portTo n .train 0
  let s := { s with link := { s.link with training := s.link.training.filter (· != n), toTrain := (s.link.toTrain.filter (· != n)) ++ [n] } }
  s.pumpTraining

/-- The event of a class: MISSING, EXTRA, MISWIRED; none for the others (R104, R424). -/
def classEvent (cls : Nat) : Option Nat := if cls = 2 then some 0x014 else if cls = 3 then some 0x015 else if cls = 4 then some 0x016 else none

/-- A port is judged: its class event is recorded at the transition into the class and, with the same body, adds to the record's repeat count at each
retry that finds it in the class again (R104, R106). -/
def State.portClass (s : State) (n cls old new : Nat) : State :=
  let p := s.port n
  let found := match p.found with
    | some f => f.w0 &&& 0x0FFFFFFF
    | none => 0
  let body := if p.cls = cls then p.clsBody else [linkEventWord n 0 old new, if cls = 2 then (s.expectedOwn n).getD 0 else found]
  let s := s.onPort n fun p => { p with cls := cls, clsBody := body }
  match classEvent cls with
  | some code => s.logOwn code 0x03 0 body
  | none => s

/-! ### Positions and lasers (R111, R112) -/

/-- One position's record, changed. -/
def State.onPos (s : State) (k : Nat) (f : Position → Position) : State :=
  { s with link := { s.link with positions := modifyAt f k s.link.positions } }

/-- A position's record. -/
def State.pos (s : State) (k : Nat) : Position := s.link.positions.getD k (Position.reset k)

/-- The free spare positions: 21 to 23, carrying nothing, not failed, no move toward them. -/
def State.sparePositions (s : State) : List Nat :=
  [21, 22, 23].filter fun k => (s.pos k).logical == 0x1F && !(s.pos k).quar && !(s.link.moving.any fun m => m.2 == k)

/-- A port stands at a quarantined position: it does not train there (R112). -/
def State.atBroken (s : State) (n : Nat) : Bool := (s.pos (s.port n).position).quar

/-- A position fails: quarantined and logged. With AUTO_SPARE_PORT and a free spare position the selector starts to move its port there; with no spare
free the port stays DARK; with the spare withheld it is QUARANTINED (R96, R112, log entry 37). -/
def State.positionFails (s : State) (k : Nat) : State :=
  let n := (s.pos k).logical
  let s := (s.onPos k fun x => { x with quar := true }).raise Fld.DSC_INT_STATUS_QUARANTINE
  let st := (s.port n).st.code
  let note := fun (s : State) => s.logOwn 0x013 0x03 0 [linkEventWord n 0 st st, fieldAt 0 4 (s.port n).failReason]
  if 21 ≤ n then note s
  else match s.sparePositions with
  | m :: _ =>
    if s.flag Fld.DSC_CTRL_AUTO_SPARE_PORT then note { s with link := { s.link with moving := s.link.moving ++ [(n, m)] } }
    else s.portTo n .quarantined (s.port n).failReason
  | [] => (note s).reserveOut

/-- A lane change: both ends' failed sets joined, the lowest healthy lanes active; a spare in, lanes dropped, or DARK (R109, R110). -/
def State.applyLanes (s : State) (n : Nat) (newly : Nat) : State :=
  let p := s.port n
  let union := p.failed ||| p.farFailed
  let st := p.st.code
  let s := s.raise Fld.DSC_INT_STATUS_LANE_CHANGE
  if healthyLanes union < 4 then (s.onPort n fun p => { p with active := laneMap union }).portTo n .dark 3
  else
    let s := (s.fillBuckets n).onPort n fun p => { p with
      active := laneMap union, parked := maskMinus (p.parked &&& p.active) union, unclean := true }
    let gone := bitIndices newly 9
    let s := if healthyLanes union ≥ 8 then
        gone.foldl (fun s l => (s.logOwn 0x010 0x03 0 [linkEventWord n l st st, fieldAt 0 9 union]).reserve 0 (16 * p.position + l) (16 * p.position + 8)) s
      else gone.foldl (fun s l => s.logOwn 0x011 0x03 0 [linkEventWord n l st st, fieldAt 0 9 union]) s
    s.resync n

/-- Lanes found failed at this end: LANE_CHANGE with the full set goes out and the new map applies (R108, R109). -/
def State.failLanes (s : State) (n lanes : Nat) : State :=
  let p := s.port n
  let newly := maskMinus lanes (p.failed ||| p.farFailed)
  if (p.st = .lit ∨ p.st = .held) ∧ newly ≠ 0 then
    let s := s.onPort n fun p => { p with failed := p.failed ||| lanes }
    (s.sendLcb n 0x01 (p.failed ||| lanes)).applyLanes n newly
  else s.onPort n fun p => { p with failed := p.failed ||| lanes }

/-! ### A chart lights (R96, R104) -/

/-- The found neighbour of a port compared with the expected one: its class (R104). -/
def nbrClass (expected found : Option Word) : Nat :=
  match expected, found with
  | none, none => 0
  | none, some _ => 3
  | some _, none => 2
  | some e, some f => if e = f then 1 else 4

/-- The found neighbour's word of a port. -/
def Port.foundWord (p : Port) : Option Word := p.found.map fun f => f.w0 &&& 0x0FFFFFFF

/-- An agent's port record as the Keeper holds it; a port never read is OFF. -/
def State.nbr (s : State) (a : Addr) (port : Nat) : Nbr :=
  (s.link.nbrs.find? fun r => r.agent == a && r.port == port).getD
    { agent := a, port := port, state := 0, lanes := 0, found := none, cls := 0, parkMax := 0, clsBody := [], hold := 0, hostHold := false }

/-- The record written or replaced. -/
def State.setNbr (s : State) (r : Nbr) : State :=
  { s with link := { s.link with nbrs := (s.link.nbrs.filter fun x => !(x.agent == r.agent && x.port == r.port)) ++ [r] } }

/-- Word 0 of a port record as the Keeper writes it: HOLD and PARK_MAX (R105, R116, R440). -/
def Nbr.word (r : Nbr) : Word := fieldAt 8 2 r.hold ||| fieldAt 12 2 r.parkMax

/-- The far end of a MISWIRED link of an own port is quarantined too, when it is an agent's port of this rack (R105). -/
def State.holdFarEnd (s : State) (f : Word) : State :=
  let far : Addr := f.extractLsb' 0 16
  if bitsOf f 24 4 ≤ 1 ∧ addrX far = s.rx ∧ addrY far = s.ry then
    let r := { s.nbr far (bitsOf f 16 8) with hold := 1, hostHold := false }
    (s.setNbr r).mgmtWrite far (0x1000 + 0x20 * bitsOf f 16 8) [r.word] 11 0 0x03 .upkeep
  else s

/-- An own port is MISWIRED: QUARANTINED, and its far end with it (R96, R103, R105). -/
def State.miswired (s : State) (n : Nat) : State :=
  let p := s.port n
  let s := ((s.portTo n .quarantined 6).portClass n 4 p.st.code PortState.quarantined.code).raiseIf (p.cls != 4) Fld.DSC_INT_STATUS_NEIGHBOUR
  s.holdFarEnd (p.foundWord.getD 0)

/-- A port with a found neighbour is judged: LIT or HELD by the chart tags on a match, EXTRA or QUARANTINED else (R96, R103, R104). -/
def State.judgePort (s : State) (n : Nat) : State :=
  let p := s.port n
  let cls := nbrClass (s.expectedOwn n) p.foundWord
  let old := p.st.code
  if cls = 1 then
    let tag := s.chartTag
    let same := p.found.any fun f => f.w4 == tag.1 && f.w5 == tag.2
    let st := if p.st = .parked then .parked else if same then .lit else .held
    (s.portClass n 1 old st.code).portTo n st 0
  else if cls = 3 then ((s.portTo n .extra 0).portClass n 3 old PortState.extra.code).raiseIf (p.cls != 3) Fld.DSC_INT_STATUS_NEIGHBOUR
  else if cls = 4 then s.miswired n
  else s

/-! ### Agents' ports (R99, R105, R107, R116) -/

/-- The Keeper holds an agent's port (R105). -/
def State.holdPort (s : State) (a : Addr) (port hold : Nat) : State :=
  let r := { s.nbr a port with hold := hold, hostHold := false }
  (s.setNbr r).mgmtWrite a (0x1000 + 0x20 * port) [r.word] 11 0 0x03 .upkeep

/-- The slice of the endpoint on a link: 0 for an uplink or a Keeper port (R422). -/
def State.linkSlice (s : State) (a : Addr) (port : Nat) : Nat :=
  if addrKind a = 0 then s.slv.lit.sliceAt s.myRack (addrIndex a)
  else if port < 128 then s.slv.lit.sliceAt s.myRack port else 0

/-- The class of an agent's port by its record: none is found, and none judged again, while it trains (R104). -/
def State.recordClass (s : State) (old : Nbr) (st : Nat) (found : Option Word) : Nat :=
  if st = 1 ∨ st = 2 ∨ st = 3 then old.cls else nbrClass (s.expectedAgent old.agent old.port) found

/-- What the Keeper does at an agent's port that it finds MISWIRED or EXTRA: it holds the port there, and a MISWIRED link's far end with it, an
agent's port of this rack or this Keeper's own port, whatever its class (R105). -/
def State.holdClass (s : State) (a : Addr) (port cls : Nat) (f : Word) : State :=
  if cls = 4 then
    let s := (s.holdPort a port 1).holdFarEnd f
    let n := bitsOf f 16 8
    if bitsOf f 24 4 = 2 ∧ f.extractLsb' 0 16 = s.self ∧ n < 20 then s.portTo n .quarantined 6 else s
  else if cls = 3 then s.holdPort a port 2 else s

/-- A port record has been read: its class, the events of its change, the holds of R105, the planes that plans lose (R99, R104 to R106, R269). A class
event is recorded at the transition into the class; a record read after another training repeats it. -/
def State.nbrRead (s : State) (a : Addr) (port : Nat) (words : List Word) : State :=
  let old := s.nbr a port
  let st := bitsOf (wordAt words 0) 0 4
  let lanes := if st = 4 then bitsOf (wordAt words 0) 4 4 else if st = 6 then max old.lanes (bitsOf (wordAt words 0) 4 4) else 0
  let found := if wordAt words 1 = 0 then none else some (wordAt words 1 &&& 0x0FFFFFFF)
  let cls := s.recordClass old st found
  let slice := s.linkSlice a port
  let w := linkEventWord port 0 old.state st
  let body := if old.cls = cls then old.clsBody else [w, if cls = 2 then (s.expectedAgent a port).getD 0 else found.getD 0]
  let s := s.setNbr { old with state := st, lanes := lanes, found := found, cls := cls, clsBody := body }
  let s := if old.state ≠ 7 ∧ st = 7 then s.logAgent a 0x012 0x03 slice [w, 0] else s
  let s := if old.state ≠ 9 ∧ st = 9 then s.logAgent a 0x013 0x03 slice [w, 0] else s
  let retried := (old.state = 1 ∨ old.state = 2 ∨ old.state = 3) ∧ ¬ (st = 1 ∨ st = 2 ∨ st = 3)
  let s := match classEvent cls with
    | some code => if cls ≠ old.cls ∨ retried then s.logAgent a code 0x03 slice body else s
    | none => s
  let s := s.raiseIf (cls != old.cls && 2 ≤ cls) Fld.DSC_INT_STATUS_NEIGHBOUR
  let s := if old.hold = 0 then s.holdClass a port cls (found.getD 0) else s
  if old.state = 4 ∧ st ≠ 4 ∧ st ≠ 6 then
    if addrKind a = 0 then s.memberLinkLost (addrIndex a) port
    else if port < 128 then s.memberLinkLost port (addrIndex a) else s
  else s

/-- Every hold the Keeper set on agents' ports ends when a chart is lit (R96, R135). -/
def State.clearHolds (s : State) : State :=
  (s.link.nbrs.filter fun r => r.hold != 0).foldl (fun s r => s.holdPort r.agent r.port 0) s

/-- The rack record: lanes of each endpoint link, uplink and Keeper switch link as its own switch reports them, 0 left out (R107). -/
def State.rackRecord (s : State) : List (Addr × Nat × Nat) :=
  s.rackSwitches.flatMap fun a => (List.range 134).filterMap fun p =>
    let r := s.nbr a p
    if (r.state = 4 ∨ r.state = 6) ∧ r.hold = 0 ∧ r.lanes ≠ 0 then some (a, p, r.lanes) else none

/-- The link record of an entry of the rack record (R137). -/
def State.recordOf (s : State) (e : Addr × Nat × Nat) : Word :=
  let kind := if e.2.1 < 128 then 0 else if e.2.1 < 132 then 1 else 2
  linkRecord kind s.rx s.ry (addrIndex e.1) e.2.1 e.2.2

/-- The rack record is published at a boundary by the Keeper that holds LIT: changes go to the head, links of endpoints that fell to 0 lanes
are vetoed at their endpoint (R107, R147). -/
def State.publishRack (s : State) : State :=
  if ¬ s.lit then s
  else
    let new := s.rackRecord
    let gone := (s.link.published.filter fun e => !(new.any fun x => x.1 == e.1 && x.2.1 == e.2.1)).map fun e => (e.1, e.2.1, 0)
    let changed := (new.filter fun e => !s.link.published.contains e) ++ gone
    let s := { s with link := { s.link with published := new } }
    if changed.isEmpty then s
    else
      let s := gone.foldl (fun s e => if e.2.1 < 128 then s.vetoEndpoint (s.epAddr e.2.1) (addrIndex e.1) else s) s
      (partsOf ({ s.kmsg 0x01 with flash := BitVec.ofNat 48 s.tim.flash } : KMsg) (changed.map s.recordOf)).foldl (fun s m => s.tellHead m) s

/-! ### Overlay (R43 to R45) -/

/-- Cut off from the overlay: neither the port toward the parent nor a plane there is lit; recorded at every flash (R45). -/
def State.overlayCheck (s : State) : State :=
  match s.overlayDir with
  | none => s
  | some d =>
    if s.portLit (16 + d) ∨ (s.planeToward d).isSome then s
    else
      let st := (s.port (16 + d)).st.code
      s.logOwn 0x014 0x03 0 [linkEventWord (16 + d) 0 st st, nbrWord 2 (s.addrAt 2 (nbrRack s.axes.1 s.axes.2 s.myRack d) s.role) (16 + oppDir d)]

/-! ### Parking (R115 to R118) -/

/-- The deepest depth whose wake time and 1 µs fit a latency, 0 when none does (R116). -/
def depthFor (ns : Nat) : Nat := ([3, 2, 1, 0].find? fun d => wakeNs d + 1000 ≤ ns).getD 0

/-- L of a link that routes of some slices cross: the lowest latency stated, 0 without a statement; 10 ms when no tenant route crosses it
(R116). -/
def State.linkLatency (s : State) (slices : List Nat) : Nat :=
  (slices.filter (· != 0)).foldl (fun l n => min l ((lookupNat n s.link.wake).getD 0)) 10000000

/-- A depth a Pilot core proposed for a slice caps the slice's links below the allowed depth (R31, R116). -/
def State.parkCap (s : State) (slices : List Nat) (d : Nat) : Nat :=
  (slices.filter (· != 0)).foldl (fun d n => min d ((lookupNat n s.link.parkAt).getD 3)) d

/-- The slices whose lit routes cross a fabric link of an agent of this rack (R116). -/
def State.slicesOn (s : State) (a : Addr) (port : Nat) : List Nat :=
  if addrKind a = 0 then [s.slv.lit.sliceAt s.myRack (addrIndex a)]
  else if port < 128 then [s.slv.lit.sliceAt s.myRack port]
  else if port < 132 then
    (s.slv.lit.trees.filter fun t => t.plane == addrIndex a && (t.hops.any fun h => (h.rack == s.myRack && h.dir == port - 128)
      || (Hop.next s.axes.1 s.axes.2 h == s.myRack && oppDir h.dir == port - 128))).map (·.slice)
  else []

/-- The allowed depth of an agent's fabric port (R116): Keeper switch links at most 1. -/
def State.parkMaxOf (s : State) (a : Addr) (port : Nat) : Nat :=
  let sl := s.slicesOn a port
  if addrKind a = 1 ∧ 132 ≤ port then 1 else s.parkCap sl (depthFor (s.linkLatency sl))

/-- A decision on the depth of a slice's links is open: its batch has not published one (R31). -/
def State.depthOpen (s : State) (slice : Nat) : Bool := s.work.requests.any fun r => r.decision == 3 && r.subject == slice

/-- PARK_MAX is written at the agents' ports where the allowed depth changed; a link whose depth a Pilot core has been asked for waits for the answer
or the fallback (R31, R116, R440). -/
def State.writeParkMax (s : State) : State :=
  if ¬ s.lit then s
  else s.link.nbrs.foldl (fun s r =>
    let d := if r.cls = 3 then 3 else s.parkMaxOf r.agent r.port
    if d = r.parkMax || (s.slicesOn r.agent r.port).any s.depthOpen then s
    else
      let r := { r with parkMax := d }
      (s.setNbr r).mgmtWrite r.agent (0x1000 + 0x20 * r.port) [r.word] 11 0 0x03 .upkeep) s

/-- The allowed depth of a Keeper port: no tenant route crosses one (R116). -/
def State.ownDepth (s : State) (n : Nat) : Nat := if (s.port n).st = .extra then 3 else if n = 20 then 0 else min 1 (depthFor 10000000)

/-! ### Beacons (R101, R102) -/

/-- The beacon payload of a port (R101); while a level-4 reset lasts, words 4 to 6 are the last ones (R402). -/
def State.beaconWords (s : State) (n : Nat) : List Word :=
  let p := s.port n
  let tag := s.link.lastTag.getD (s.chartTag.1, s.chartTag.2, w32 s.slv.epoch)
  [fieldAt 0 16 s.self.toNat ||| fieldAt 16 8 n ||| fieldAt 24 4 2 ||| fieldAt 28 4 1,
   fieldAt 0 4 p.st.code ||| fieldAt 4 4 (popCount p.active 9) ||| fieldAt 8 9 p.failed, loHalf s.tim.flash, hiHalf s.tim.flash &&& 0xFFFF, tag.1, tag.2.1,
   tag.2.2, fieldAt 0 1 (b2n s.lit) ||| fieldAt 1 1 (b2n s.link.overlay)] ++ List.replicate 8 0

/-- A beacon's payload keeps every reserved field 0 and every encoding defined (R17, R101). -/
def beaconClean (w : List Word) : Bool :=
  bitsOf (wordAt w 0) 28 4 == 1 && bitsOf (wordAt w 0) 24 4 ≤ 2 && bitsOf (wordAt w 1) 0 4 ≤ 9 && bitsOf (wordAt w 1) 17 15 == 0
    && bitsOf (wordAt w 3) 16 16 == 0 && bitsOf (wordAt w 7) 2 30 == 0 && (List.range 8).all fun i => wordAt w (8 + i) == 0

/-! ### Egress (R59 to R61) -/

/-- Weight of a VC in the weighted round: the chart's for VC2 to VC6, 3 for VC7 (R58, R61). -/
def State.vcWeight (s : State) (vc : Nat) : Nat :=
  if vc = 7 then 3
  else match s.chart.lit with
    | some c => c.install.weights.getD (vc - 2) 1
    | none => [3, 3, 2, 1, 1].getD (vc - 2) 1

/-- The next packet at a port's egress (R59 to R62). The mooring port applies no caps (R58); a HELD port carries VC0 only, one in VERIFY its beacons
(R96). -/
def State.choose (s : State) (n : Nat) : Option (Waiting × Port) :=
  let p := (s.fillBuckets n).port n
  if p.st == .lit || p.st == .held || p.st == .verify then
    (p.eg.choose s.vcWeight (n != 20) (p.st != .lit) fun w => p.st != .verify || w.pkt.hdr.opkind == 0x01).map fun x => (x.1, { p with eg := x.2 })
  else none

/-- The frame of a packet on a port: TSTX and HCRC written, the payload encrypted under the packet counter on a port with keys (R54, R93, R113). -/
def State.frame (s : State) (n : Nat) (p : Packet) : WireFrame :=
  let p : Packet := { stampTime s.tim.flash s.tim.offset p with hdr := stampHdr p.hdr s.tim.offset }
  match (s.port n).keys with
  | some k => sealedFrame k.tx (if k.low then 0 else 1) (s.port n).txPackets p
  | none => plainFrame p

/-- A packet leaves as its frame, credits taken, counted (R54, R62, R93, R114, R316). -/
def State.emit (s : State) (n : Nat) (w : Waiting) (p : Port) : State :=
  let f := s.frame n w.pkt
  let p := { p with eg := p.eg.taken w, txPackets := p.txPackets + 1, busy := p.busy || w.pkt.hdr.opkind != 0x01, sent := countSent w p.sent }
  (s.onPort n fun _ => p).send (.packet n f)

/-- Units of received packets still buffered for the spill path, per port and VC (R95, R221). -/
def State.buffered (s : State) (n vc : Nat) : Nat := ((s.lmp.spillQueue.filter fun x => x.port == n && x.vc == vc).map fun x => x.units).sum

/-- A packet in error counts against the lanes that carried its bad codewords (R54, R93, R108). -/
def State.badLanes (s : State) (n lanes : Nat) : State :=
  s.onPort n fun p => { p with uncor := p.uncor.zipIdx.map fun x => if lanes.testBit x.2 then x.1 + 1 else x.1 }

end Sys2Proof.Machine
end

