-- ==== Sys2Proof/Machine/SecOps.lean ====
section
/-! DEFINITION. Machine/SecOps.lean: statements as byte strings, the daymark, key agreement of encrypted ports (R331 to R336, R341, R344). -/
namespace Sys2Proof.Machine

/-! ### Byte strings (R331, R333) -/

/-- The number that bytes spell, most significant first (R331). -/
def beNat (bs : List Byte) : Nat := bs.foldl (fun acc b => acc * 256 + b.toNat) 0

/-- n zero bytes. -/
def zeros (n : Nat) : List Byte := List.replicate n 0

/-- Bytes off to off + n - 1 of a statement. -/
def bytesIn (bs : List Byte) (off n : Nat) : List Byte := (bs.drop off).take n

/-- Whether some bytes of a statement are zero. -/
def zeroIn (bs : List Byte) (off n : Nat) : Bool := (bytesIn bs off n).all (· == 0)

/-- The header of a typed statement: TYPE, VERSION 1, LENGTH (R333). -/
def stmtHeader (type len : Nat) : List Byte := [BitVec.ofNat 8 type, 1] ++ beBytes 2 len

/-- A statement's bytes padded with zeros to a multiple of 8 (R333). -/
def padStmt (bs : List Byte) : List Byte := bs ++ zeros ((8 - bs.length % 8) % 8)

/-- A typed statement passes the checks of R333: its type, version and length, and its stored length. -/
def stmtOk (type len : Nat) (signed : Bool) (bs : List Byte) : Bool :=
  bs.take 4 == stmtHeader type len && bs.length == (len + (if signed then 114 else 0) + 7) / 8 * 8 && zeroIn bs (len + (if signed then 114 else 0)) 8

/-- A signed statement: its bytes, the signature of the identity key under a context, the padding (R332, R333). -/
def signStmt (ctx : String) (bs : List Byte) : List Byte := padStmt (bs ++ (List.range 114).map (Config.ed448Sign ctx bs))

/-- The signature of a signed statement verifies under a key (R332, R333). -/
def stmtVerifies (key : List Byte) (ctx : String) (len : Nat) (bs : List Byte) : Bool :=
  Config.ed448Verify key ctx (bs.take len) (bytesIn bs len 114)

/-- A 64-bit number's bytes with byte 0 in bits [7:0], as KEY_IDs are kept (R337). -/
def idBytes (v : BitVec 64) : List Byte := (List.range 8).map fun i => v.extractLsb' (8 * i) 8

/-- A KEY_ID from its 8 bytes. -/
def idOfBytes (bs : List Byte) : BitVec 64 := BitVec.ofNat 64 ((bs.take 8).foldr (fun b acc => b.toNat + 256 * acc) 0)

/-- A digest's 64 bytes in order. -/
def digestBytes (d : Digest) : List Byte := (List.range 64).map fun i => d.extractLsb' (8 * i) 8

/-! ### The daymark (R334, R335) -/

/-- The identity public key of this part, 57 bytes (R334). -/
def ownKey : List Byte := (List.range 57).map Config.idKeyByte

/-- Manufacturing key k in the ROM (R335). -/
def mfgKey (k : Nat) : List Byte := (List.range 57).map (Config.mfgKeyByte k)

/-- The signed bytes of this part's daymark (R335). -/
def daymarkBody : List Byte :=
  stmtHeader 0x01 0x68 ++ ascii "ORV-KX2-L64" ++ zeros 5 ++ beBytes 2 (bitsOf Config.fuses 0 16) ++ [Config.fuses.extractLsb' 16 8]
    ++ [BitVec.ofNat 8 (b2n Config.debugFused)] ++ beBytes 8 Config.serial.toNat ++ ownKey ++ zeros 7 ++ idBytes (Config.keyId (mfgKey Config.daymarkMfg.val))

/-- This part's daymark, 224 bytes (R335). -/
def daymark : List Byte := padStmt (daymarkBody ++ (List.range 114).map Config.daymarkSig)

/-- A daymark verifies: its form, and its signature under one of the four manufacturing keys it names (R333, R335). -/
def daymarkOk (d : List Byte) : Bool :=
  stmtOk 0x01 0x68 true d && (d.getD 23 0).toNat < 2 && zeroIn d 89 7
    && match (List.range 4).find? fun k => Config.keyId (mfgKey k) == idOfBytes (bytesIn d 96 8) with
       | some k => stmtVerifies (mfgKey k) "Orvon-KX2 daymark" 0x68 d
       | none => false

/-- ID_KEY of a daymark. -/
def daymarkKey (d : List Byte) : List Byte := bytesIn d 32 57

/-! ### Keys (R341, R344) -/

/-- This unit's DEBUG_LOCKED (R336). -/
def State.debugLocked (s : State) : Bool := s.flag Fld.WDN_SEC_STATE_DEBUG_LOCKED

/-- RACK, ROLE and a flag, as HELLO, WHERE and ISSUER carry them (R344, R346, R350). -/
def State.whereByte (s : State) (flag : Bool) : Byte := BitVec.ofNat 8 (s.myRack % 64 + 64 * s.role + 128 * b2n flag)

/-- Bytes of entropy: free values (R341). -/
def State.entropy : Nat → State → List Byte × State
  | 0, s => ([], s)
  | n + 1, s =>
    let r := s.fresh
    let rest := State.entropy n r.2
    (bytesOfWord r.1 ++ rest.1, rest.2)

/-- SECURE begins on an encrypted port: a fresh ephemeral scalar, and HELLO goes out (R341, R344). -/
def State.startSecure (s : State) (n : Nat) : State :=
  let e := State.entropy 8 s
  let scalar := derive ((List.range 32).map Config.linkRoot) "LINK" (BitVec.ofNat 8 n :: e.1)
  let hello := stmtHeader 0x06 0x138 ++ daymark ++ (List.range 56).map (Config.x448Public scalar) ++ [BitVec.ofNat 8 n, e.2.whereByte e.2.debugLocked]
    ++ zeros 26
  (e.2.onPort n fun p => { p with scalar := scalar, ownHello := hello, hello := none }).send (.secure n hello)

/-- Whether byte strings stand in ascending order. -/
def bytesLt (a b : List Byte) : Bool := beNat a < beNat b

/-- T: SHAKE256 of the two HELLOs in ascending order of ID_KEY bytes (R344). -/
def helloDigest (a b : List Byte) : List Byte :=
  let key := fun (h : List Byte) => daymarkKey (bytesIn h 4 224)
  Config.shake 64 (if bytesLt (key a) (key b) then a ++ b else b ++ a)

/-- The keys of a port from the agreement (R344). -/
def linkKeys (scalar own far : List Byte) : LinkKeys :=
  let out := Config.shake 96 ((List.range 56).map (Config.x448Shared scalar (bytesIn far 228 56)) ++ helloDigest own far)
  let low := bytesLt (daymarkKey (bytesIn own 4 224)) (daymarkKey (bytesIn far 4 224))
  { tx := bytesIn out (if low then 0 else 32) 32, rx := bytesIn out (if low then 32 else 0) 32, ratchet := bytesIn out 64 32, low := low }

/-- The key of a direction at a key epoch (R344). -/
def epochKey (ratchet : List Byte) (dir epoch : Nat) : List Byte := derive ratchet "EPOCH" (BitVec.ofNat 8 dir :: beBytes 4 epoch)

/-- An identity is refused: QUARANTINED, WDN_SEC_INT_STATUS.IDENTITY (R96, R344, R361). -/
def State.refuseIdentity (s : State) (n : Nat) : State := (s.portTo n .quarantined 5).raise Fld.WDN_SEC_INT_STATUS_IDENTITY

end Sys2Proof.Machine
end

