-- ==== Sys2Proof/Machine/UpkeepOps.lean ====
section
/-! DEFINITION. Machine/UpkeepOps.lean: what the Keeper writes to an agent to make it serve (R101, R135, R277, R440, R457, R460). -/
namespace Sys2Proof.Machine

/-- The FA_PARAMS word (R440). -/
def State.paramsWord (s : State) : Word :=
  fieldAt 0 8 (s.getF Fld.CLP_FAULT_CTRL_RETX_US) ||| fieldAt 8 4 (s.getF Fld.CLP_FAULT_CTRL_RETX_MAX)
    ||| fieldAt 16 8 (s.getF Fld.LNT_CTRL_RETRY_LIMIT) ||| fieldAt 24 8 (s.getF Fld.WDN_SEAL_CTRL_SUPERSEDE_FLASHES)

/-- The FA_PARAMS word goes to every agent of the rack (R440, R444). -/
def State.writeParams (s : State) : State := s.broadcast 0x1C [s.paramsWord] 11

/-- FA_GUARD goes to every agent of the rack (R145, R440). -/
def State.writeGuard (s : State) : State := s.broadcast 0x20 [fieldAt 0 13 (s.getF Fld.SLV_PARAMS_DRAIN_GUARD_NS)] 11

/-- The VC weights as FA_VCW holds them (R72, R440). -/
def State.weightsWord (s : State) : Word :=
  match s.chart.lit with
  | some c => (c.install.weights.zipIdx.map fun x => fieldAt (4 * x.2) 4 x.1).foldl (· ||| ·) 0
  | none => 0

/-- The lit chart tag goes to every agent of the rack (R101). -/
def State.writeTags (s : State) : State := s.mgmtAll s.rackAgents 0x30 [s.chartTag.1, s.chartTag.2] 11 0 0x02 .upkeep

/-- FA_KEEPER_PORT of the switches names the port of the Keeper that holds LIT: 132 + role (R51, R438). -/
def State.writeKeeperPort (s : State) : State := s.mgmtAll s.rackSwitches 0x18 [w32 (132 + s.role)] 11 0 0x0B .upkeep

/-- A bank of an agent written in full (R135). -/
def State.writeWholeBank (s : State) (a : Addr) (bank : Nat) (src : BankSrc) (purpose : MgmtFor) : State :=
  let ws := src.agentWords s.axes.1 s.axes.2 a
  (writeRuns (ws.zipIdx.map fun x => (bankAddr a bank x.2, x.1))).foldl
    (fun s r => s.writeRun a r.1 r.2 10 0 0x04 purpose) s

/-- An armed bank armed again at an agent, and GO once the bank is confirmed (R135, R143, R144). -/
def State.armAgain (s : State) (a : Addr) : State :=
  let c := s.slv.cycle
  if c.phase = .armed ∨ c.phase = .confirmed then
    let d := (List.range 8).map fun i => c.dset.extractLsb' (32 * i) 32
    let s := (s.mgmtWrite a 0x50 d 3 0 0x04 .upkeep).mgmtWrite a 0x44 [loHalf c.f, fieldAt 0 16 (c.f / 2 ^ 32), 1] 3 0 0x04 (.arm c.epoch)
    if c.phase = .confirmed then s.mgmtWrite a 0x70 [w32 c.f] 2 0 0x04 .go else s
  else s

/-- Both banks of an agent in INIT, the lit one set, SERVE written (R135, R448, R460). -/
def State.restoreBanks (s : State) (a : Addr) : State :=
  let s := s.writeWholeBank a s.slv.litBank s.slv.lit .upkeep
  let dark := 1 - s.slv.litBank
  let s := if s.slv.cycle.phase = .loading then s.writeBank a ((s.slv.cycle.src.agentWords s.axes.1 s.axes.2 a).zipIdx.map fun x => (x.2, x.1))
    else s.writeWholeBank a dark s.darkImage .upkeep
  let s := s.mgmtWrite a 0x4C [fieldAt 2 1 1 ||| fieldAt 3 1 s.slv.litBank] 11 0 0x04 .upkeep
  (s.mgmtWrite a 0x0C [1] 11 0 0x04 .upkeep).armAgain a

/-- An agent counted out of the bank cycle returns: both its banks are rewritten before it serves again (R135). -/
def State.countIn (s : State) (a : Addr) : State :=
  if s.slv.out.contains a then ({ s with slv := { s.slv with out := s.slv.out.filter (· != a) } }.mgmtWrite a 0x0C [0] 11 0 0x04 .upkeep).restoreBanks a
  else s

/-- A lit bank found to differ at an agent: SERVE 0, both banks rewritten, SET_LIT, SERVE 1 (R135). -/
def State.repairLit (s : State) (a : Addr) : State := (s.mgmtWrite a 0x0C [0] 11 0 0x04 .upkeep).restoreBanks a

/-- An armed dark bank found to differ: disarmed, rewritten, armed again (R135). -/
def State.repairDark (s : State) (a : Addr) : State :=
  let armed := s.slv.cycle.phase = .armed ∨ s.slv.cycle.phase = .confirmed
  let s := if armed then s.mgmtWrite a 0x4C [2] 11 0 0x04 .upkeep else s
  let ws := s.darkImage.agentWords s.axes.1 s.axes.2 a
  let dark := 1 - s.slv.litBank
  let s := (writeRuns (ws.zipIdx.map fun x => (bankAddr a dark x.2, x.1))).foldl (fun s r => s.writeRun a r.1 r.2 10 0 0x04 .upkeep) s
  s.armAgain a

/-- A plan's structures at one agent, its slot or programme in a state (R188, R277). -/
def State.rewritePlanAt (s : State) (p : Plan) (a : Addr) (state : Nat) : State :=
  let d := planDesc p.desc
  let w := fun (s : State) (addr : Nat) (ws : List Word) (cls : Nat) => s.writeRun a addr ws cls p.slice 0x06 .upkeep
  let s := w s (0x400000 + 64 * p.groupBase) p.groupWords 10
  if addrKind a = 1 then
    w (w s (0x240000 + 8 * p.ctx) (remapWords p.remap) 10) (0x200000 + 64 * p.ctx) (s.programmeWords p (addrIndex a) state) 10
  else
    let member := ((s.planMembers p).find? fun x => x.1 == a).elim 0 (·.2)
    let s := w s (0x300000 + 16 * p.chainBase) (p.chainWords member) 10
    w (w s (0x240000 + 8 * d.slot) (remapWords p.remap) 10) (0x200000 + 64 * d.slot) (p.slotWords member state p.enable) 4

/-- The plans installed or enabled here of which an endpoint is a member. -/
def State.plansOf (s : State) (a : Addr) : List Plan :=
  s.clp.plans.filter fun p => p.st != 1 && (s.planMembers p).any fun x => x.1 == a

/-- What an endpoint holds beside its structures is rewritten: vetoes, a pause for a drain, its Lantern plane (R379, R460). -/
def State.rewriteEndpoint (s : State) (a : Addr) : State :=
  let slice := s.slv.lit.sliceAt s.myRack (addrIndex a)
  let s := ((s.slv.vetoes.filter fun v => v.1 == slice).map fun v => v.2.1 / 2).dedup.foldl (fun s k => s.writeVeto a k) s
  let drained := match s.slice slice with
    | some r => r.state == 4 || r.state == 5 || ((r.state == 3 || r.state == 6) && r.prior == 5)
    | none => false
  let s := if drained then s.mgmtWrite a 0x3C [1] 6 slice 0x05 (.pause slice) else s
  match lookupNat (addrIndex a) s.lnt.planes with
  | some p => s.mgmtWrite a 0x38 [w32 p] 7 0 0x08 .upkeep
  | none => s

/-- An agent that reset is rewritten: parameters, period, chart tag, banks, vetoes, pause, Lantern plane, slots LOADED, SERVE
(R135, R277, R440, R460). -/
def State.rewriteAgent (s : State) (a : Addr) : State :=
  let up := fun (s : State) (addr : Nat) (w : Word) => s.mgmtWrite a addr [w] 11 0 0x0E .upkeep
  let s := up (up (up s 0x1C s.paramsWord) 0x20 (fieldAt 0 13 (s.getF Fld.SLV_PARAMS_DRAIN_GUARD_NS))) 0x28 (fieldAt 0 7 s.tim.periodUs)
  let s := s.mgmtWrite a 0x30 [s.chartTag.1, s.chartTag.2] 11 0 0x02 .upkeep
  if addrKind a = 1 then (up (up s 0x18 (w32 (132 + s.role))) 0x24 s.weightsWord).restoreBanks a
  else
    let s := (s.plansOf a).foldl (fun s p => s.rewritePlanAt p a 1) (s.rewriteEndpoint a)
    s.restoreBanks a

end Sys2Proof.Machine
end

