-- ==== Sys2Proof/Machine/SealOps.lean ====
section
/-! DEFINITION. Machine/SealOps.lean: the Warden core's signing queue, reports, seals and their delivery, key generations, enrolment
(R337 to R354). -/
namespace Sys2Proof.Machine

/-! ### What the registers show (R360, R361) -/

/-- The 16 registers of a digest from an offset, as a digest. -/
def State.digestAt (s : State) (off : Nat) : Digest := digestOfWords ((List.range 16).map fun i => s.getReg (off + 4 * i))

/-- The queue's length shows in WDN_SEC_STATE. -/
def State.showQueue (s : State) : State := s.setF Fld.WDN_SEC_STATE_QUEUE (min 255 (s.wdn.queue.length + (if s.wdn.signing.isSome then 1 else 0)))

/-- KEYS, PENDING and the KEY_IDs follow the key slots. -/
def State.showKeys (s : State) : State :=
  let ks := s.chart.keys
  let s := s.setF Fld.WDN_SEC_STATE_KEYS (maskOf ((List.range 4).filter fun n => ((ks[n]?).bind (·.nvm)).isSome))
  let s := s.setF Fld.WDN_SEC_STATE_PENDING (maskOf ((List.range 4).filter fun n => ((ks[n]?).bind (·.pend)).isSome))
  (List.range 4).foldl (fun s n =>
    let id := match (ks[n]?).bind (·.nvm) with
      | some k => Config.keyId k
      | none => 0
    (s.setReg (Reg.WDN_KEY_ID (2 * n)) (id.extractLsb' 0 32)).setReg (Reg.WDN_KEY_ID (2 * n + 1)) (id.extractLsb' 32 32)) s

/-- WARDEN_FW and PILOT_FW as bytes (R339). -/
def State.wardenFw (s : State) : List Byte := digestBytes (s.digestAt (Reg.WDN_WARDEN_DIGEST 0))
/-- PILOT_FW. -/
def State.pilotFw (s : State) : List Byte := digestBytes (s.digestAt (Reg.WDN_PILOT_DIGEST 0))

/-! ### The layout block (R347) -/

/-- Numbers in ascending order. -/
def insertNum (n : Nat) : List Nat → List Nat
  | [] => [n]
  | m :: rest => if n < m then n :: m :: rest else if n = m then m :: rest else m :: insertNum n rest

/-- Sorted, without repeats. -/
def sortNums (ns : List Nat) : List Nat := ns.foldl (fun acc n => insertNum n acc) []

/-- The member ENs of a slice as lit. -/
def State.memberEns (s : State) (v : SliceView) : List Nat :=
  sortNums (v.members.flatMap fun m => (bitIndices m.2 128).filterMap fun i => enOf s.slv.lit.enMap m.1 i)

/-- A cable word: X, Y, AXIS, PLANE of its + end (R347). -/
def State.cableWord (s : State) (c : Nat) : Nat :=
  let rack := c / 32
  rack % s.axes.1 + 8 * (rack / s.axes.1) + 64 * (c / 16 % 2) + 256 * (c % 16)

/-- The cables owned: SEALED S, or TENANT t of the slice's tenant. -/
def State.ownedCables (s : State) (v : SliceView) : List Nat :=
  ((s.slv.lit.slices.flatMap (·.claims)).dedup).filter fun c => match ownerIn s.slv.lit.slices c with
    | .sealed n => n == v.id
    | .tenant t _ => t == v.tenant
    | .free => false

/-- The layout block of a slice as lit. -/
def State.layoutBlock (s : State) (slice : Nat) : List Byte :=
  match s.litView slice with
  | none => beBytes 2 0 ++ beBytes 2 0
  | some v =>
    let ens := s.memberEns v
    let cs := sortNums ((s.ownedCables v).map s.cableWord)
    beBytes 2 ens.length ++ ens.flatMap (beBytes 2) ++ beBytes 2 cs.length ++ cs.flatMap (beBytes 4)

/-- The digest of this rack's lit bank, as bytes. -/
def State.bankDigest (s : State) : List Byte := digestBytes (s.digestAt (Reg.SLV_LIT_DIGEST 0))

/-- The layout digest. -/
def State.layoutDigest (s : State) (slice : Nat) : List Byte :=
  Config.shake 64 (s.layoutBlock slice ++ s.bankDigest ++ beBytes 4 s.slv.litEpoch)

/-! ### The attestation report (R345, R346) -/

/-- DEBUG_LOCKED in bit lo, DEBUG_FUSED in bit fu. -/
def State.debugByte (s : State) (lo fu : Nat) : Byte :=
  BitVec.ofNat 8 (b2n s.debugLocked * 2 ^ lo + s.getF Fld.WDN_SEC_STATE_DEBUG_FUSED * 2 ^ fu)

/-- Class, tenant and state of a slice, as a report carries them. -/
def State.sliceFacts (s : State) (slice : Nat) : List Byte :=
  match s.litView slice with
  | none => BitVec.ofNat 8 slice :: 0 :: BitVec.ofNat 8 (s.sliceState slice) :: zeros 3
  | some v => [BitVec.ofNat 8 slice, BitVec.ofNat 8 v.cls, BitVec.ofNat 8 (s.sliceState slice), 0] ++ beBytes 2 v.tenant

/-- KEYGEN of a slice at this Keeper; 0 for slice 0x00 (R341). -/
def State.keygen (s : State) (slice : Nat) : Nat := ((s.wdn.keys.find? fun k => k.slice == slice).map (·.gen)).getD 0

/-- The signed bytes of a report (R346). -/
def State.reportBody (s : State) (nonce : List Byte) (slice : Nat) : List Byte :=
  let keys := s.chart.keys.map (·.nvm)
  let ids := (List.range 4).flatMap fun n => match (keys[n]?).bind id with
    | some k => idBytes (Config.keyId k)
    | none => zeros 8
  stmtHeader 0x02 0x2B4 ++ daymark ++ nonce ++ s.wardenFw ++ s.pilotFw
    ++ (match s.chart.lit with
        | some c => digestBytes c.digest
        | none => zeros 64)
    ++ zeros 2 ++ beBytes 6 s.tim.flash ++ [s.debugByte 1 0, s.whereByte s.lit] ++ beBytes 2 (bitsOf Config.fuses 0 16)
    ++ [BitVec.ofNat 8 (s.getF Fld.WDN_SEC_STATE_KEYS)] ++ zeros 3 ++ ids
    ++ ((List.range 9).flatMap fun c => beBytes 2 (s.getF (reserveUsed c))) ++ zeros 2
    ++ beBytes 4 s.slv.litEpoch ++ s.bankDigest
    ++ (if slice = 0 then zeros 72 else s.sliceFacts slice ++ beBytes 2 (s.keygen slice) ++ s.layoutDigest slice)

/-! ### Seals (R349 to R352) -/

/-- The life of a slice's seals in flashes (R350). -/
def State.sealLife (s : State) (slice : Nat) : Nat :=
  match (s.litView slice).bind fun v => s.template v.template with
  | some t => t.sealLifeMs * 1000 / s.tim.periodUs
  | none => 0

/-- The slice is SEALED as lit. -/
def State.isSealed (s : State) (slice : Nat) : Bool :=
  match s.litView slice with
  | some v => v.cls == 2
  | none => false

/-- The conditions under which the Warden core signs a seal (R349). -/
def State.sealable (s : State) (slice : Nat) : Bool :=
  s.lit && s.isSealed slice && 2 ≤ s.sliceState slice && s.wdn.verified == some (s.digestAt (Reg.SLV_LIT_DIGEST 0))
    && match s.litView slice with
       | some v => v.racks.contains s.myRack
       | none => false

/-- The signed bytes of a seal (R350). -/
def State.sealBody (s : State) (slice : Nat) : List Byte :=
  let block := s.layoutBlock slice
  let tenant := ((s.litView slice).map (·.tenant)).getD 0
  stmtHeader 0x03 (388 + block.length) ++ daymark ++ s.wardenFw ++ [BitVec.ofNat 8 slice, 2, s.debugByte 0 1, s.whereByte false]
    ++ beBytes 2 tenant ++ zeros 2 ++ beBytes 4 s.slv.litEpoch ++ beBytes 8 s.tim.flash ++ beBytes 8 (s.tim.flash + s.sealLife slice)
    ++ zeros 4 ++ s.bankDigest ++ block

/-! ### The signing queue (R351) -/

/-- The Warden core's record, changed. -/
def State.onWdn (s : State) (f : WdnState → WdnState) : State := { s with wdn := f s.wdn }

/-- An entry queued; a request for a slice replaces the one queued, at the better rank. -/
def State.pushSign (s : State) (j : SignJob) : State :=
  let old := s.wdn.queue.find? fun k => k.what == j.what
  let j := match old with
    | some k => { j with rank := min j.rank k.rank }
    | none => j
  (s.onWdn fun w => { w with queue := (w.queue.filter fun k => k.what != j.what) ++ [j] }).showQueue

/-- The slice of a seal's job. -/
def SignJob.slice (j : SignJob) : Nat :=
  match j.what with
  | .seal n => n
  | _ => 0

/-- The window of a report's job. -/
def SignJob.window (j : SignJob) : Option Nat :=
  match j.what with
  | .report w => some w
  | _ => none

/-- A job without content. -/
def signJob (what : SignFor) (rank : Nat) : SignJob := { what := what, rank := rank, body := none, tail := [], flash := 0, epoch := 0, expiry := 0, done := 0 }

/-- A seal request of a rank for a slice. -/
def State.askSeal (s : State) (slice rank : Nat) : State := s.pushSign (signJob (.seal slice) rank)

/-- The first entry of the best rank. -/
def bestJob (js : List SignJob) : Option SignJob :=
  js.foldl (fun (b : Option SignJob) j => match b with
    | some k => if j.rank < k.rank then some j else b
    | none => some j) none

/-- The ISSUE_SEALs that wait for a seal of a slice which will not be signed complete with the reason (R348). -/
def State.refuseSealWaits (s : State) (slice : Nat) : State :=
  let reason := if s.litView slice = none then 2 else if s.isSealed slice then 1 else 3
  (s.wdn.waits.filter fun w => w.slice == slice).foldl (fun s w => s.complete w.win 8 reason [fieldAt 16 8 reason] false)
    (s.onWdn fun w => { w with waits := w.waits.filter fun y => y.slice != slice })

/-- The Warden core takes the next entry: a CONFIRM or a report with its content at once, a seal with its content at a batch intake. A seal
whose conditions do not hold at its content flash is not signed (R349, R351). Fuel: the entries. -/
def State.startSign : Nat → Bool → State → State
  | 0, _, s => s.showQueue
  | n + 1, intake, s =>
    if ¬ s.wdn.serving ∨ s.wdn.signing.isSome then s.showQueue
    else match bestJob s.wdn.queue with
      | none => s.showQueue
      | some j =>
        let take := fun (k : SignJob) => (s.onWdn fun w => { w with queue := w.queue.filter fun x => x.what != j.what, signing := some k }).showQueue
        match j.what with
        | .confirm _ => take j
        | .report _ => if j.body.isSome then take j else s.showQueue
        | .seal slice =>
          if ¬ intake then s.showQueue
          else if s.sealable slice then
            take { j with body := some (s.sealBody slice), flash := s.tim.flash, epoch := s.slv.litEpoch, expiry := s.tim.flash + s.sealLife slice }
          else State.startSign n intake ((s.onWdn fun w => { w with queue := w.queue.filter fun x => x.what != j.what }).refuseSealWaits slice)

/-- A link CONFIRM queued for signature; the Warden core takes it at once when it is free (R344, R351). -/
def State.askConfirm (s : State) (port : Nat) : State := State.startSign 1 false (s.pushSign (signJob (.confirm port) 1))

/-- Batch intake of the Warden core: queued reports take their content, and a seal may start (R345, R351). -/
def State.wardenIntake (s : State) : State :=
  let q := s.wdn.queue.map fun j => match j.what, j.body with
    | .report w, none =>
      let slice := bitsOf (s.arg w 1) 0 8
      let nonce := bytesOfWords ((List.range 16).map fun i => s.arg w (16 + i))
      { j with body := some (s.reportBody nonce slice), tail := if slice = 0 then [] else s.layoutBlock slice, flash := s.tim.flash }
    | _, _ => j
  State.startSign 257 true (s.onWdn fun w => { w with queue := q })

/-! ### Delivery (R352, R353) -/

/-- FA3 endpoints of this rack that are members of a slice. -/
def State.fa3Members (s : State) (slice : Nat) : List Addr := (s.memberAgents slice).filter fun a => agentGen a == 3

/-- One slice's seal, changed. -/
def State.onSeal (s : State) (slice : Nat) (f : Seal → Seal) : State :=
  s.onWdn fun w => { w with seals := w.seals.map fun x => if x.slice = slice then f x else x }

/-- The newest seal of a slice. -/
def State.seal (s : State) (slice : Nat) : Option Seal := s.wdn.seals.find? fun x => x.slice == slice

/-- Words cut after each 1,020. -/
def runs1020 : Nat → List Word → List (List Word)
  | 0, _ => []
  | n + 1, ws => if ws.isEmpty then [] else ws.take 1020 :: runs1020 n (ws.drop 1020)

/-- A seal's words in runs for the staging region, each with its address (R459). -/
def stagingRuns (bytes : List Byte) : List (Nat × List Word) :=
  (runs1020 9 (wordsOfBytes bytes)).zipIdx.map fun x => (0x8000 + 4 * 1020 * x.2, x.1)

/-- One broadcast of a seal: its bytes into the staging region, then its length into FA_SEAL_COMMIT (R353, R459). -/
def State.broadcastSeal (s : State) (x : Seal) : State :=
  let s := (stagingRuns x.bytes).foldl (fun s r => s.broadcastTo 0 r.1 r.2 0) s
  let s := s.broadcastTo 0 0x98 [fieldAt 0 16 x.bytes.length] 0
  s.onSeal x.slice fun y => { y with sent := y.sent + 1 }

/-- The agents that have not shown a seal are asked for FA_SEAL. -/
def State.pollSeal (s : State) (x : Seal) : State :=
  x.missing.foldl (fun s a => s.mgmtRead a 0x90 1 0x05 (.sealRead x.slice)) s

/-- Delivery goes on once per flash until every FA3 member shows the seal, up to DELIVER_MAX times (R353). -/
def State.deliverSeals (s : State) : State :=
  if ¬ s.lit then s
  else (s.wdn.seals.filter fun x => x.own && !x.missing.isEmpty).foldl (fun s x =>
    let s := if x.sent < s.getF Fld.WDN_SEAL_CTRL_DELIVER_MAX then s.broadcastSeal x else s
    s.pollSeal x) s

/-- An ISSUE_SEAL is answered from a seal: one just published is a change of Keeper state, so the completion waits for its commit (R28, R354). -/
def State.answerSeal (s : State) (w : SealWait) (x : Seal) (new : Bool) : State :=
  let no := fun (s : State) r => s.complete w.win 8 r [fieldAt 16 8 r] false
  if w.len < x.bytes.length then no s 5
  else if ¬ s.flag Fld.HIF_CTRL_DMA_EN then (s.dmaErr w.win 5).refuse w.win 4 5
  else
    let s := s.dmaWrite w.addr (wordsOfBytes x.bytes)
    let res := [fieldAt 0 16 x.bytes.length, loHalf x.issue, fieldAt 0 16 (x.issue / 2 ^ 32), loHalf x.expiry, fieldAt 0 16 (x.expiry / 2 ^ 32)]
    if new then s.completeAfter w.win s.tim.flash w.slice res else s.complete w.win 0 0 res false

/-- A signed seal is published: counted, logged, broadcast; the commands that waited for it are answered (R351 to R354). -/
def State.publishSeal (s : State) (j : SignJob) (slice : Nat) : State :=
  let bytes := signStmt "Orvon-KX2 seal" (j.body.getD [])
  let x : Seal := { slice := slice, issue := j.flash, expiry := j.expiry, epoch := j.epoch, bytes := bytes, sent := 0,
                    missing := s.fa3Members slice, renewed := false, low := false, own := true }
  let s := s.onWdn fun w => { w with seals := (w.seals.filter fun y => y.slice != slice) ++ [x] }
  let s := ((s.countReg Reg.WDN_SEALS 1).raise Fld.WDN_SEC_INT_STATUS_SEAL_ISSUED).progress 0x22
  let s := s.logOwn 0x062 0x22 slice [w32 j.epoch, loHalf j.flash, fieldAt 0 16 (j.flash / 2 ^ 32), loHalf j.expiry, fieldAt 0 16 (j.expiry / 2 ^ 32)]
  let s := s.broadcastSeal x
  let due := s.wdn.waits.filter fun w => w.slice == slice && w.since ≤ j.flash
  due.foldl (fun s w => s.answerSeal w x true) (s.onWdn fun w => { w with waits := w.waits.filter fun y => !(y.slice == slice && y.since ≤ j.flash) })

/-! ### Key generations (R341 to R343) -/

/-- One slice's key state, changed. -/
def State.onKey (s : State) (slice : Nat) (f : SliceKey → SliceKey) : State :=
  s.onWdn fun w => { w with keys := w.keys.map fun k => if k.slice = slice then f k else k }

/-- A rotation starts: every page of the slice falls under the old generation (R343). -/
def State.startRotation (s : State) (slice : Nat) : State :=
  s.onKey slice fun k => { k with gen := (k.gen + 1) % 65536, old := some k.gen, pending := false }

/-- A rotation is asked for: it starts, or is held pending while two generations are live (R343). -/
def State.rotate (s : State) (slice : Nat) : State :=
  match s.wdn.keys.find? fun k => k.slice == slice with
  | none => s
  | some k => if k.old.isSome then s.onKey slice fun k => { k with pending := true } else s.startRotation slice

/-- An old generation that no page stands under any more retires (R343). -/
def State.retireKey (s : State) (slice : Nat) : State :=
  match (s.sliceKey slice).old with
  | some g => if (s.oldPages slice).isEmpty then
      (((s.onKey slice fun k => { k with old := none }).logOwn 0x064 0x22 slice [w32 g]).raise Fld.WDN_SEC_INT_STATUS_KEYGEN_RETIRED)
    else s
  | none => s

/-- Pages the scrubber handles in a flash, slices in ascending number, pages in ascending number (R343, log entry 118). -/
def State.scrubList (s : State) : List HbmPage :=
  if s.flag Fld.WDN_SCRUB_SCRUB_EN then
    ((List.range 256).flatMap s.oldPages).take (s.getF Fld.WDN_SCRUB_PAGES_PER_FLASH)
  else []

/-- The scrubber's share of a flash: pages nothing holds are free, rotations held pending start, pages are re-encrypted, generations without pages retire
(R343). -/
def State.scrub (s : State) : State :=
  let s := s.tidyPages
  let s := (s.wdn.keys.filter fun k => k.pending && k.old.isNone).foldl (fun s k => s.startRotation k.slice) s
  let s := s.scrubList.foldl State.scrubPage s
  s.wdn.keys.foldl (fun s k => s.retireKey k.slice) s

/-- The keys of a slice that a lighting creates, and the erasure at its destruction (R341, R343). -/
def State.makeKey (s : State) (slice epoch : Nat) : State :=
  s.onWdn fun w => { w with keys := (w.keys.filter fun k => k.slice != slice) ++
    [{ slice := slice, epoch := epoch, gen := 1, old := none, pending := false }] }

/-- Both keys of a destroyed slice are erased, its pages freed without scrubbing (R343); its seals go with it. -/
def State.dropKey (s : State) (slice : Nat) : State :=
  ((s.dropPages slice).onWdn fun w => { w with keys := w.keys.filter fun k => k.slice != slice, seals := w.seals.filter fun x => x.slice != slice }).refuseSealWaits slice

/-! ### Enrolment (R337, R338) -/

/-- An endorsement's form (R333, R338). -/
def endorsementOk (signed : Bool) (b : List Byte) : Bool :=
  stmtOk 0x04 0x58 signed b && zeroIn b 6 2 && zeroIn b 81 7 && ((b.getD 4 0) == 1 || (b.getD 4 0) == 2) && (b.getD 5 0).toNat < 4

/-- The reason an enrolment or a revocation is refused; 0 when it is accepted (R337, R361, log entry 43). -/
def State.enrolReason (s : State) (e : Enrol) (b : List Byte) : Nat :=
  let ks := s.enrolled
  let unsigned := beNat (bytesIn b 16 8) == 0
  let form := endorsementOk (!unsigned) b && (b.getD 4 0).toNat == e.action && (b.getD 5 0).toNat == e.slot
  let key := bytesIn b 24 57
  let held := ((s.chart.keys[e.slot]?).bind (·.nvm))
  let target := bytesIn b 8 8
  let signer := ks.find? fun k => Config.keyId k == idOfBytes (bytesIn b 16 8)
  let signedBy := match signer with
    | some k => !(e.action == 2 && k == key) && stmtVerifies k "Orvon-KX2 enrol" 0x58 b
    | none => false
  let endorsed := if e.action = 1 ∧ ks.isEmpty then unsigned else !unsigned && signedBy
  let armedKey := s.chart.arm.bind fun a => (s.slot a.slot).chart.map (·.keyId)
  let signs := (s.chart.lit.map (·.keyId)) == some (Config.keyId key) || armedKey == some (Config.keyId key)
  if ¬ form then 5
  else if e.action = 1 ∧ held.isSome then 1
  else if e.action = 2 ∧ held.isNone then 6
  else if ¬ endorsed ∨ (e.action = 2 ∧ held ≠ some key) then 2
  else if beNat target ≠ 0 ∧ beNat target ≠ Config.serial.toNat then 4
  else if e.action = 2 ∧ signs then 3
  else 0

/-- The verification of an enrolment has ended with a reason; the next boundary shows it (R338). -/
def State.enrolJudged (s : State) (reason : Nat) : State :=
  s.onWdn fun w => { w with enrol := w.enrol.map fun (e : Enrol) => { e with reason := e.reason.or (some reason) } }

/-- The result of an enrolment: pending until a STORE, or refused (R338). -/
def State.enrolResult (s : State) (e : Enrol) (reason : Nat) (key : List Byte) : State :=
  let s := s.onWdn fun w => { w with enrol := none }
  let s := (s.setF Fld.WDN_ENROL_CTRL_GO 0).setReg Reg.WDN_ENROL_STATUS (fieldAt 0 2 (if reason = 0 then 1 else 2) ||| fieldAt 4 4 reason)
  if reason = 0 then
    let change : Option (List Byte) := if e.action = 1 then some key else none
    let s := { s with chart := { s.chart with keys := modifyAt (fun k => { k with pend := some change }) e.slot s.chart.keys } }
    s.showKeys.raise Fld.WDN_SEC_INT_STATUS_ENROL_DONE
  else s.raise Fld.WDN_SEC_INT_STATUS_ENROL_REFUSED

end Sys2Proof.Machine
end

