-- ==== Sys2Proof/Machine/AgentOps.lean ====
section
/-! DEFINITION. Machine/AgentOps.lean: the agent space: reads and writes, banks and lighting, check values, seals and keys, the journal, replies (R143
to R146, R355 to R358, R439 to R444, R448 to R460). -/
namespace Sys2Proof.Machine

/-! ### Regions (R439, R448) -/

/-- The bank whose structures an address lies in, with FA_SELFb; none outside the banks (R448). -/
def bankAt (a : Addr) (addr : Nat) : Option Nat :=
  if isSwitch a then
    if 0x100000 ≤ addr ∧ addr < 0x120000 then some ((addr - 0x100000) / 0x10000)
    else if 0x120000 ≤ addr ∧ addr < 0x120800 ∧ (addr - 0x120000) % 0x400 < 640 then some ((addr - 0x120000) / 0x400)
    else none
  else if addr = 0x10 ∨ addr = 0x14 then some ((addr - 0x10) / 4)
  else if 0x100000 ≤ addr ∧ addr < 0x108000 then some ((addr - 0x100000) / 0x4000)
  else if 0x108000 ≤ addr ∧ addr < 0x108200 then some ((addr - 0x108000) / 0x100)
  else none

/-- PLANE_VETO of an endpoint. -/
def isVeto (a : Addr) (addr : Nat) : Bool := !isSwitch a && 0x108200 ≤ addr && addr < 0x108280

/-- Slots and programmes: 16 words of a slot, 12 of a programme. -/
def isUnit (a : Addr) (addr : Nat) : Bool :=
  0x200000 ≤ addr && addr < 0x200000 + 64 * agentUnits a && (!isSwitch a || (addr - 0x200000) % 64 < 48)

/-- Remaps. -/
def isRemap (a : Addr) (addr : Nat) : Bool := 0x240000 ≤ addr && addr < 0x240000 + 8 * agentUnits a

/-- Chain memory. -/
def isChain (a : Addr) (addr : Nat) : Bool := !isSwitch a && 0x300000 ≤ addr && addr < 0x300000 + 16 * agentChain a

/-- Group memory: what the endpoint declares; at a switch, what GROUP_BASE can name. -/
def isGroup (a : Addr) (addr : Nat) : Bool := 0x400000 ≤ addr && addr < 0x400000 + 64 * (if isSwitch a then 65536 else agentGroup a)

/-- Port records. -/
def isPort (a : Addr) (addr : Nat) : Bool := 0x1000 ≤ addr && addr < 0x1000 + 0x20 * agentPorts a

/-- Seal staging: an endpoint's; FA2 accepts and ignores it (R461). -/
def isStaging (a : Addr) (addr : Nat) : Bool := !isSwitch a && 0x8000 ≤ addr && addr < 0x10000

/-! ### Seals and keys (R355 to R358) -/

/-- SUPERSEDE_FLASHES after the lighting that superseded it, a seal is past its grace. -/
def Agent.pastGrace (g : Agent) (x : HeldSeal) : Bool :=
  match x.past with
  | some f => decide (f + g.grace ≤ g.flash)
  | none => false

/-- The held seal is valid: its standing conditions, which its acceptance established, and those that change (R356). -/
def Agent.sealValid (g : Agent) : Bool :=
  match g.heldSeal with
  | some x => g.word 0xA0 == 1 && decide (g.flash < x.expiry) && !g.pastGrace x && (x.bytes.getD 292 0).toNat == g.slice
  | none => false

/-- An envelope's weight key may be released under a seal (R355, R357). -/
def Agent.envelopeOk (g : Agent) (x : HeldSeal) (e : List Byte) : Bool :=
  let b := fun (i : Nat) => (e.getD i 0).toNat
  let sf := (x.bytes.getD 294 0).toNat
  e.length == 380 && e.take 4 == [0x10, 0x01, 0x01, 0x4C] && beNat (bytesIn e 4 2) == g.en && b 6 == g.slice
    && bytesIn e 8 2 == bytesIn x.bytes 296 2
    && ((List.range (min 4 (b 10))).any fun k => bytesIn e (20 + 64 * k) 64 == bytesIn x.bytes 228 64)
    && (b 7 % 2 == 0 || sf % 4 == 3) && Config.envelopeOpens g.addr e

/-- LABEL of an envelope. -/
def envelopeLabel (e : List Byte) : List Byte := bytesIn e 12 8

/-- Keys are released while a valid seal meets their envelopes, and withdrawn otherwise (R357). -/
def State.keysNow (s : State) (a : Addr) : State :=
  let g := s.agent a
  let want := match g.heldSeal with
    | some x => if g.sealValid then g.envelopes.filter (g.envelopeOk x) else []
    | none => []
  let s := (g.released.filter fun e => !want.contains e).foldl (fun s e => s.send (.chip a (.withdrawKey (envelopeLabel e)))) s
  let s := (want.filter fun e => !g.released.contains e).foldl (fun s e => s.send (.chip a (.releaseKey (envelopeLabel e)))) s
  s.onAgent a fun g => { g with released := want }

/-- The staged bytes of a commit. -/
def Agent.stagedBytes (g : Agent) (len : Nat) : List Byte :=
  (bytesOfWords ((List.range ((len + 3) / 4)).map fun i => (lookupNat (4 * i) g.staged).getD 0)).take len

/-- Why a staged seal is refused, in FA_SEAL_STATE's coding; 0 when it is taken (R356, R358, R440). A seal whose form is not R350's fails its
signature. -/
def State.sealRefusal (s : State) (g : Agent) (b : List Byte) : Nat :=
  let len := beNat (bytesIn b 2 2)
  let mark := bytesIn b 4 224
  let issue := beNat (bytesIn b 304 8)
  let members := (List.range (beNat (bytesIn b 388 2))).map fun i => beNat (bytesIn b (390 + 2 * i) 2)
  if !daymarkOk mark then 1
  else if !(stmtOk 0x03 len true b && stmtVerifies (daymarkKey mark) "Orvon-KX2 seal" len b) then 2
  else if (b.getD 295 0).toNat % 64 ≠ s.rackNo (addrX g.addr) (addrY g.addr) then 3
  else if (b.getD 292 0).toNat ≠ g.slice then 4
  else if !members.contains g.en then 5
  else if beNat (bytesIn b 312 8) ≤ g.flash then 6
  else if g.word 0xA0 ≠ 1 then 7
  else match g.heldSeal with
    | some x => if issue < x.issue ∨ (x.past.any fun f => decide (issue < f)) then 8 else 0
    | none => 0

/-- The verification of a staged seal ends (R356, R358, R459). -/
def State.verifySeal (s : State) (a : Addr) (len : Nat) : State :=
  let g := s.agent a
  let b := g.stagedBytes len
  let r := s.sealRefusal g b
  if r ≠ 0 then s.onAgent a fun g => { g with refuse := r, verifying := none }
  else
    let x : HeldSeal := { bytes := b, issue := beNat (bytesIn b 304 8), expiry := beNat (bytesIn b 312 8), past := none }
    s.onAgent a fun g => ({ g with refuse := 0, verifying := none, heldSeal := some x }).journalise 9 g.slice 0 0 (loHalf x.issue)

/-! ### Lighting (R143 to R146, R448) -/

/-- Sending goes on: every flow is pumped. -/
def State.agResume (s : State) (a : Addr) : State := (s.onAgent a fun g => { g with paused := false }).agPumpAll a

/-- A packet of a slice in D (R145). -/
def inDrain (d : Nat) (w : Waiting) : Bool := d.testBit w.pkt.hdr.slice.toNat

/-- A switch agent discards what it holds of slices in D, which SLV_DRAIN_DISCARD totals (R144, R145). -/
def State.flushDrain (s : State) (a : Addr) (d : Nat) : State :=
  if isSwitch a then
    (s.agFlush a fun _ w => inDrain d w).countReg Reg.SLV_DRAIN_DISCARD ((s.agent a).ports.map fun p => (p.eg.queue.filter (inDrain d)).length).sum
  else s

/-- The dark bank is lit in one core cycle (R448); a switch discards what it holds of slices in D and toward ports that are not LIT (R145, R146). -/
def State.agLight (s : State) (a : Addr) : State :=
  let g := s.agent a
  if isSwitch a && !g.serve then s
  else
    let d := g.drainSet
    let s := if isSwitch a then (s.flushDrain a d).agFlush a fun p _ => p.state != 4 else s
    let g := s.agent a
    let bank := 1 - g.lit
    let was := g.slice
    let inD := d.testBit was
    let mem := g.mem.filter fun m => !isVeto a m.1
    let g := { g with lit := bank, mem := mem, armed := false, go := false, hold := false, guard := some d }
    let held := if g.slice ≠ was then none
      else if inD then g.heldSeal.map fun (x : HeldSeal) => { x with past := some g.armF } else g.heldSeal
    let g := ({ g with heldSeal := held, paused := g.paused || inD && !isSwitch a }).journalise 1 (if isSwitch a then 0 else g.slice) 0 (w32 bank) 0
    (s.onAgent a fun _ => g).keysNow a

/-! ### Check values (R449) -/

/-- The bytes of the structure a check value is asked for. -/
def State.checkBytes (s : State) (g : Agent) : List Byte :=
  let w := g.word 0x80
  let i := bitsOf w 8 11
  let b := bitsOf w 0 4 - 1
  let halves := fun (base n : Nat) => (bytesOfWords (g.run (0x400000 + 64 * base) ((n + 1) / 2))).take (2 * n)
  if bitsOf w 0 4 ≤ 2 then
    if isSwitch g.addr then bytesOfWords (g.run (0x100000 + 0x10000 * b) 16384 ++ g.run (0x120000 + 0x400 * b) 160)
    else bytesOfWords (g.run (0x100000 + 0x4000 * b) 4096 ++ g.run (0x108000 + 0x100 * b) 64 ++ g.run (0x10 + 4 * b) 1)
  else if bitsOf w 0 4 = 3 then
    let v := g.slotView i
    bytesOfWords (g.run (0x200000 + 64 * i) 16 ++ g.run (0x300000 + 16 * v.chainBase) (4 * v.entries)) ++ halves v.groupBase v.m
      ++ bytesOfWords (g.run (0x240000 + 8 * i) 2)
  else
    let v := s.programme g i
    bytesOfWords (g.run (0x200000 + 64 * i) 12) ++ halves (bitsOf (g.word (0x200000 + 64 * i + 28)) 0 16) v.desc.m ++ bytesOfWords (g.run (0x240000 + 8 * i) 2)

/-- A write at an address meets a check value being computed over its region (R449). -/
def State.checkBusy (s : State) (g : Agent) (addr : Nat) : Bool :=
  let w := g.word 0x80
  let i := bitsOf w 8 11
  let within := fun (lo n : Nat) => decide (lo ≤ addr ∧ addr < lo + n)
  g.checking && (
    if bitsOf w 0 4 ≤ 2 then bankAt g.addr addr == some (bitsOf w 0 4 - 1)
    else if bitsOf w 0 4 = 3 then
      let v := g.slotView i
      within (0x200000 + 64 * i) 64 || within (0x300000 + 16 * v.chainBase) (16 * v.entries) || within (0x400000 + 64 * v.groupBase) (2 * v.m)
        || within (0x240000 + 8 * i) 8
    else
      within (0x200000 + 64 * i) 48 || within (0x400000 + 64 * bitsOf (g.word (0x200000 + 64 * i + 28)) 0 16) (2 * (s.programme g i).desc.m)
        || within (0x240000 + 8 * i) 8)

/-! ### Reads (R439, R442) -/

/-- A word of a port record (R440). -/
def AgPort.word (p : AgPort) (i : Nat) : Word :=
  if i = 0 then fieldAt 0 4 p.state ||| fieldAt 4 4 p.lanes ||| fieldAt 8 2 p.hold ||| fieldAt 12 2 p.parkMax
  else if i = 1 then p.found
  else if i = 2 then fieldAt 0 9 p.active ||| fieldAt 9 9 p.failed ||| fieldAt 18 9 p.parked
  else if i = 3 then w32 (min (2 ^ 32 - 1) p.hcrc)
  else if i = 4 then w32 (min (2 ^ 32 - 1) p.fcs)
  else 0

/-- The control page's write-only registers. -/
def isWriteOnly (a : Addr) (addr : Nat) : Bool :=
  [0x4C, 0x70, 0x74, 0xA4, 0xAC, 0xB0, 0xB4].contains addr || (!isSwitch a && addr == 0x98) || isStaging a addr

/-- The control page's read-only registers, with the journal and the RO words of a port record. -/
def isReadOnly (a : Addr) (addr : Nat) : Bool :=
  [0x00, 0x04, 0x08, 0x40, 0x84, 0x88, 0xB8, 0xBC, 0xC0, 0xD0, 0xD4, 0xD8].contains addr || (!isSwitch a && (addr == 0x90 || addr == 0x94))
    || (0x3000 ≤ addr && addr < 0x4000) || (isPort a addr && 4 ≤ addr % 0x20 && addr % 0x20 < 0x14)

/-- Registers kept as written. -/
def isKept (a : Addr) (addr : Nat) : Bool :=
  [0x1C, 0x20, 0x24, 0x28, 0x2C, 0x30, 0x34, 0x44, 0x48, 0x50, 0x54, 0x58, 0x5C, 0x60, 0x64, 0x68, 0x6C, 0xA0, 0xA8].contains addr
    || (isSwitch a && addr == 0x18) || (!isSwitch a && (addr == 0x38 || addr == 0x3C))

/-- An address a row of R439 covers. -/
def isImplemented (a : Addr) (addr : Nat) : Bool :=
  isWriteOnly a addr || isReadOnly a addr || isKept a addr || [0x0C, 0x80].contains addr || (bankAt a addr).isSome || isVeto a addr || isUnit a addr
    || isRemap a addr || isChain a addr || isGroup a addr || isPort a addr

/-- What a read of a readable address gives (R440). -/
def State.agRead (s : State) (a : Addr) (addr : Nat) : Word :=
  let g := s.agent a
  if addr = 0x00 then Config.agentId a else if addr = 0x04 then Config.agentCaps0 a else if addr = 0x08 then Config.agentCaps1 a
  else if addr = 0x0C then fieldAt 0 1 (b2n g.serve)
  else if addr = 0x40 then fieldAt 0 1 g.lit ||| fieldAt 1 1 (b2n g.armed) ||| fieldAt 2 1 (b2n g.go) ||| fieldAt 3 1 (b2n g.hold) ||| fieldAt 4 1 (b2n g.paused)
  else if addr = 0x80 then g.word 0x80 ||| fieldAt 31 1 (b2n g.checking)
  else if addr = 0x84 then g.check.extractLsb' 0 32 else if addr = 0x88 then g.check.extractLsb' 32 32
  else if addr = 0x90 then (match g.heldSeal with
    | some x => loHalf x.issue
    | none => 0)
  else if addr = 0x94 then fieldAt 0 1 (b2n g.sealValid) ||| fieldAt 1 1 (b2n (g.heldSeal.any fun x => x.past.isSome))
    ||| fieldAt 2 1 (b2n !g.released.isEmpty) ||| fieldAt 4 4 g.refuse
  else if addr = 0xB8 then loHalf g.flash else if addr = 0xBC then fieldAt 0 16 (g.flash / 2 ^ 32) else if addr = 0xC0 then fieldAt 0 25 (agentOffset a s.tim.offset)
  else if addr = 0xD0 then fieldAt 0 16 g.jcount ||| fieldAt 16 1 (b2n g.overflow)
  else if addr = 0xD4 then fieldAt 0 8 g.events.length ||| fieldAt 16 16 g.dropped
  else if addr = 0xD8 then fieldAt 0 4 g.cause
  else if 0x3000 ≤ addr ∧ addr < 0x4000 then g.journalWord (addr - 0x3000)
  else if isPort a addr then (g.port ((addr - 0x1000) / 0x20)).word (addr % 0x20 / 4)
  else g.word addr

/-- Status and words of a read (R441, R442). -/
def State.agReadAll (s : State) (a : Addr) (addr count : Nat) : Nat × List Word :=
  let addrs := (List.range count).map fun i => addr + 4 * i
  if addr % 4 ≠ 0 ∨ 1020 < count then (4, [])
  else if !(addrs.all (isImplemented a)) then (1, [])
  else if addrs.any (isWriteOnly a) then (2, [])
  else (0, addrs.map (s.agRead a))

/-! ### Writes (R440, R442) -/

/-- The bits of a word that R439 to R448 give a meaning to; every other bit is reserved. -/
def writeMask (a : Addr) (addr : Nat) : Nat :=
  if addr = 0x0C ∨ addr = 0x3C then 1 else if addr = 0x18 then 0xFF else if addr = 0x1C then 0xFFFF0FFF else if addr = 0x20 then 0x1FFF
  else if addr = 0x24 then 0xFFFFF else if addr = 0x28 then 0x7F7F else if addr = 0x38 then 0xF else if addr = 0x48 ∨ addr = 0x98 ∨ addr = 0xB0 then 0xFFFF
  else if addr = 0x4C then 0xF else if addr = 0x74 then 0x37FF else if addr = 0x80 then 0x8007FF0F else if addr = 0xA0 then 3 else if addr = 0xA4 then 0xFFFFF
  else if addr = 0xB4 then 0x1FFFFFF else if addr = 0x10 ∨ addr = 0x14 then 0xFF3FFF
  else if isPort a addr then (if addr % 0x20 = 0 then 0x33FF else 0)
  else if isSwitch a && 0x100000 ≤ addr && addr < 0x120000 then 0xFF03FF
  else if isSwitch a && 0x120000 ≤ addr && addr < 0x120800 then
    let w := (addr - 0x120000) % 0x400 / 4
    if w < 128 then 0x1FFF7FFF else if w % 8 = 0 then 0xFFFFFFFE else 0xFFFFFFFF
  else if !isSwitch a && 0x100000 ≤ addr && addr < 0x108000 then 0xBFBFBFBF
  else if isUnit a addr then
    let w := (addr - 0x200000) % 64 / 4
    if isSwitch a then [0x3FFFFFFF, 0xFFFFFFFF, 0xFFFF, 0x7FFFFF, 0xFFFFFF, 0x1FFFFFFF, 0x7FFFFFF, 0x3FFFFFFF, 0xFFFFFFFF, 0xFFFFFFFF, 0, 0].getD w 0
    else [0x3FFFFF, 0xFFFF, 0xFFFFFFFF, 0x3FFF3FFF, 0xFFFFFFFF, 0xFFFFFFFF, 0x7FFFFF].getD w 0xFFFFFFFF
  else if isChain a addr then [0xFFFFF, 0x7FFF3FFF, 0xFFFFFFFF, 0xFFFF].getD (addr % 16 / 4) 0
  else if isGroup a addr then 0x3FFF3FFF
  else 0xFFFFFFFF

/-- A value that R440 and the tables behind it leave reserved, or outside a stated range (R14). -/
def reservedValue (a : Addr) (addr : Nat) (w : Word) : Bool :=
  let f := bitsOf w
  (w.toNat &&& (0xFFFFFFFF - writeMask a addr)) != 0
  || (addr == 0x18 && f 0 8 != 132 && f 0 8 != 133)
  || (addr == 0x24 && (List.range 5).any fun i => f (4 * i) 4 == 0)
  || (addr == 0x28 && (f 0 7 < 5 || 100 < f 0 7 || (f 8 7 != 0 && (f 8 7 < 5 || 100 < f 8 7))))
  || (addr == 0x4C && 1 < b2n (bitAt w 0) + b2n (bitAt w 1) + b2n (bitAt w 2))
  || (addr == 0x74 && (f 12 2 == 3 || agentUnits a ≤ f 0 11))
  || (addr == 0x80 && (4 < f 0 4 || f 0 4 == (if isSwitch a then 3 else 4) || (f 0 4 == 0 && bitAt w 31) || (3 ≤ f 0 4 && agentUnits a ≤ f 8 11)))
  || (addr == 0xA0 && f 0 2 == 3)
  || (isPort a addr && addr % 0x20 == 0 && f 8 2 == 3)
  || (isSwitch a && 0x100000 ≤ addr && addr < 0x120000 && ((!bitAt w 9 && w != 0) || 131 < f 0 8 || (bitAt w 8 && f 0 8 < 128)))
  || (isSwitch a && isUnit a addr && (addr - 0x200000) % 64 == 0 && (f 0 2 == 3 || 4 < f 2 3 || 4 < f 5 3))
  || (isSwitch a && isUnit a addr && (addr - 0x200000) % 64 == 20 && f 16 2 == 3)
  || (!isSwitch a && isUnit a addr && (addr - 0x200000) % 64 == 0 && (f 0 2 == 3 || 4 < f 2 3 || 4 < f 5 3))
  || (isChain a addr && addr % 16 == 0 && (3 < f 16 4 || (f 16 4 == 0 && w != 0)))

/-- A write to the lit or the armed bank while serving (R448). -/
def Agent.bankBusy (g : Agent) (addr : Nat) : Bool :=
  match bankAt g.addr addr with
  | some b => g.serve && (b == g.lit || g.armed)
  | none => false

/-- A write that the agent's state does not allow (R440, R448, R456). -/
def State.wrongState (s : State) (g : Agent) (addr : Nat) (w : Word) : Bool :=
  (addr == 0x28 && g.serve && bitsOf w 0 7 != bitsOf (g.word 0x28) 0 7)
  || (addr == 0x4C && ((bitAt w 2 && g.serve) || (bitAt w 0 && (!g.serve || decide (g.armF ≤ g.flash)))))
  || (addr == 0xB4 && decide (s.absTime ((g.word 0xAC).toNat + bitsOf (g.word 0xB0) 0 16 * 2 ^ 32) w.toNat ≤ s.agentNow g))

/-- Why a write of one word is refused, in STATUS's coding; 0 when it is taken (R441). The order of the causes is the model's (log entry 56). -/
def State.pokeStatus (s : State) (a : Addr) (addr : Nat) (w : Word) : Nat :=
  let g := s.agent a
  if !isImplemented a addr then 1
  else if isReadOnly a addr then 2
  else if isStaging a addr then 0
  else if addr = 0x98 ∧ 0x8000 < w.toNat then 4
  else if reservedValue a addr w then 6
  else if g.bankBusy addr then 3
  else if s.checkBusy g addr || (addr == 0x80 && g.checking) then 7
  else if s.wrongState g addr w then 5
  else 0

/-- ARM, DISARM or SET_LIT (R448). -/
def State.armCtrl (s : State) (a : Addr) (w : Word) : State :=
  if bitAt w 0 then s.onAgent a fun g => { g with armed := true, go := false, hold := false }
  else if bitAt w 1 then (s.onAgent a fun g => { g with armed := false, go := false, hold := false }).agResume a
  else if bitAt w 2 then s.onAgent a fun g => { g with lit := bitsOf w 3 1, armed := false, go := false, hold := false }
  else s

/-- GO for F: held when F is armed, with a GO record; it lights at once when F has passed (R144, R448). A GO for any other F is taken without
effect. -/
def State.takeGo (s : State) (a : Addr) (w : Word) : State :=
  let g := s.agent a
  if !g.armed || loHalf g.armF != w || g.go then s
  else
    let s := s.onAgent a fun g => ({ g with go := true }).journalise 2 (if isSwitch a then 0 else g.slice) 0 (w32 (1 - g.lit)) w
    if g.hold then s.agLight a else s

/-- FREEZE or THAW, and the word of its reply (R452). -/
def State.freezeWord (s : State) (a : Addr) (w : Word) : State × List Word :=
  let i := bitsOf w 0 11
  if bitAt w 12 then
    if isSwitch a then (s.onProg a i fun p => { p with frozen := true }, [1])
    else (s.freezeSlot a i, [((s.agent a).slotRec i).answer])
  else if bitAt w 13 then
    if isSwitch a then (((s.onProg a i fun p => { p with frozen := false }).agPumpAll a).swResume a i, [])
    else (s.thawSlot a i, [])
  else (s, [])

/-- A word taken by an agent: the state after it, and a word of the reply to FA_FREEZE. PAUSE written again to a paused endpoint is the forced drain:
its unacknowledged packets are discarded (R166; FA_PAUSE has no other bit to say so: DEDUCED, log entry 113). -/
def State.poke (s : State) (a : Addr) (addr : Nat) (w : Word) : State × List Word :=
  let g := s.agent a
  let keep := fun (v : Word) => s.onAgent a fun g => g.put addr v
  if addr = 0x0C then (s.onAgent a fun g => { g with serve := bitAt w 0, overflow := g.overflow && !bitAt w 0, reborn := g.reborn && !bitAt w 0 }, [])
  else if addr = 0x44 ∨ addr = 0x48 then
    let s := keep w
    (if g.armed then (s.onAgent a fun g => { g with go := false, hold := false }).agResume a else s, [])
  else if addr = 0x4C then (s.armCtrl a w, [])
  else if addr = 0x70 then (s.takeGo a w, [])
  else if addr = 0x74 then s.freezeWord a w
  else if addr = 0x80 then
    (s.onAgent a fun g => { g.put 0x80 (putBits w 31 1 0) with checking := g.checking || bitAt w 31 }, [])
  else if isStaging a addr then (if agentGen a = 3 then s.onAgent a fun g => { g with staged := insertNat (addr - 0x8000) w g.staged } else s, [])
  else if addr = 0x98 then (if agentGen a = 3 then s.onAgent a fun g => { g with verifying := some w.toNat } else s, [])
  else if addr = 0xA0 ∨ addr = 0x10 ∨ addr = 0x14 then
    let s := (keep w).onAgent a fun h => if h.slice ≠ g.slice then { h with heldSeal := none } else h
    (s.keysNow a, [])
  else if addr = 0xA4 then (s.onAgent a fun g => { g with slew := g.slew + signedField w 0 20 }, [])
  else if addr = 0xB4 then
    (s.onAgent a fun g => { g.put 0xB4 w with step := some ((g.word 0xAC).toNat + bitsOf (g.word 0xB0) 0 16 * 2 ^ 32, w.toNat) }, [])
  else if addr = 0x3C then
    (if bitAt w 0 then (if bitAt (g.word 0x3C) 0 then (keep w).agDrop a fun _ => true else keep w) else (keep w).agPumpAll a, [])
  else if isPort a addr then
    (if addr % 0x20 = 0 then s.onAgent a fun g => g.onPort ((addr - 0x1000) / 0x20) fun p => { p with hold := bitsOf w 8 2, parkMax := bitsOf w 12 2 } else s, [])
  else (keep w, [])

/-- Words written in ascending order: the status of the first that is refused, the state, the reply's words (R442). -/
def State.pokeAll (a : Addr) : Nat → List Word → State → Nat × State × List Word
  | _, [], s => (0, s, [])
  | addr, w :: ws, s =>
    let st := s.pokeStatus a addr w
    if st ≠ 0 then (st, s, [])
    else
      let r := s.poke a addr w
      let t := State.pokeAll a (addr + 4) ws r.1
      (t.1, t.2.1, r.2 ++ t.2.2)

/-! ### What a whole write brings about at slots, programmes and remaps -/

/-- The endpoint's source flows hold no unacknowledged packet: its window for the slice is empty (R166). -/
def Agent.windowEmpty (g : Agent) : Bool := g.flows.all fun f => !f.isSource || f.sent.isEmpty

/-- DRAIN_EMPTY is reported when a paused endpoint's window has become empty (R166, R445). -/
def State.drainCheck (s : State) (a : Addr) (before : Bool) : State :=
  let g := s.agent a
  if !isSwitch a && bitAt (g.word 0x3C) 0 && !before && g.windowEmpty then s.agentEvent a 0x07 g.flash (w32 g.slice) [] else s

/-- STATE of a slot or programme set by the agent itself (R189, R209). -/
def State.setUnit (s : State) (a : Addr) (i state : Nat) : State :=
  s.onAgent a fun g => g.put (0x200000 + 64 * i) (putBits (g.word (0x200000 + 64 * i)) 0 2 state)

/-- A word of a unit's record lies in a write of n words. -/
def wordWritten (i word addr n : Nat) : Bool := let x := 0x200000 + 64 * i + 4 * word
                                              decide (addr ≤ x ∧ x < addr + 4 * n)

/-- A write that enables a slot: STATE 2, or ENABLE_FLASH of a LOADED slot. The slot is ENABLED at once when E has opened, else it stays LOADED until the
boundary that opens E (R189). -/
def State.enableSlot (s : State) (a : Addr) (slot addr n : Nat) : State :=
  let g := s.agent a
  let v := g.slotView slot
  let w0 := wordWritten slot 0 addr n
  let w7 := wordWritten slot 7 addr n
  if (w0 && v.state == 2) || (w7 && v.state == 1 && (!w0 || v.enable != 0)) then
    let on := g.reached v.enable
    (s.setUnit a slot (if on then 2 else 1)).onAgSlot a slot fun x => { x with enabling := !on }
  else if w0 && v.state == 1 then s.onAgSlot a slot fun x => { x with enabling := false }
  else s

/-- A write of n words touched a slot record: freed, installed anew, given another generation, or enabled (R189, R203, R205, R283). -/
def State.slotWritten (s0 s : State) (a : Addr) (addr n slot : Nat) : State :=
  let old := (s0.agent a).slotView slot
  let new := (s.agent a).slotView slot
  let s := if new.state = 0 then
      (s.onAgent a fun g => { g with slots := g.slots.filter fun x => x.slot != slot }).agDrop a fun p => p.ctx == slot
    else if old.state = 0 then s.onAgSlot a slot fun _ => AgSlot.fresh slot (s.agent a).reborn
    else if old.gen ≠ new.gen then
      match s.slotPlan new with
      | some p => s.abortSlot a slot p.newest p.abortCause
      | none => s.abortSlot a slot ((s.agent a).slotRec slot).launch 0x10
    else s
  (s.enableSlot a slot addr n).startQueued a slot

/-- A write of STATE 2 to a programme: it is enabled at once when the plan's E has opened, else at the boundary that opens it (R209, log entry 30). -/
def State.enableProg (s : State) (a : Addr) (ctx addr n : Nat) : State :=
  let g := s.agent a
  if !wordWritten ctx 0 addr n then s
  else
    let ahead := (s.programme g ctx).state == 2 && (s.progPlan g ctx).any fun p => decide (g.flash < p.enable)
    if ahead then (s.setUnit a ctx 1).onProg a ctx fun p => { p with enabling := true }
    else s.onAgent a fun g => { g with progs := g.progs.map fun (p : AgProg) => if p.ctx = ctx then { p with enabling := false } else p }

/-- A write of n words touched a programme: what it held is cleared when it is freed, installed anew or given another generation (R208, R209, R283). -/
def State.programmeWritten (s0 s : State) (a : Addr) (addr n ctx : Nat) : State :=
  let old := s0.programme (s0.agent a) ctx
  let new := s.programme (s.agent a) ctx
  let s := if new.state = 0 ∨ old.state = 0 ∨ old.gen ≠ new.gen then
      (s.onAgent a fun g => { g with progs := g.progs.filter fun x => x.ctx != ctx }).agDrop a fun p => p.ctx == ctx
    else s
  s.enableProg a ctx addr n

/-- Slots and programmes whose E opens with the agent's flash are enabled (R189, R209). -/
def State.enableDue (s : State) (a : Addr) : State :=
  let g := s.agent a
  if isSwitch a then
    (g.progs.filter fun p => p.enabling && (s.progPlan g p.ctx).any fun q => decide (q.enable ≤ g.flash)).foldl (fun s p =>
      (s.setUnit a p.ctx 2).onProg a p.ctx fun q => { q with enabling := false }) s
  else
    (g.slots.filter fun x => x.enabling && g.reached (g.slotView x.slot).enable).foldl (fun s x =>
      (s.setUnit a x.slot 2).onAgSlot a x.slot fun y => { y with enabling := false }) s

/-- A programme's remap was written: the places, map bits and done bits of the pieces that RECOVER_CLEAR names are cleared (R272, log entry 33). -/
def State.programmeCleared (s : State) (a : Addr) (ctx : Nat) : State :=
  match s.progPlan (s.agent a) ctx with
  | none => s
  | some p =>
    let first := p.recovered.headD 0
    let last := p.recovered.getD 1 first
    let hit := fun (l n : Nat) => !p.recovered.isEmpty && inLaunches first last l && p.namedPieces.contains n
    (s.onProg a ctx fun q => { q with
      places := q.places.filter fun x => !hit x.launch x.piece, done := q.done.map fun d => (d.1, d.2.filter fun n => !hit d.1 n),
      credits := q.credits.filter fun c => !hit c.2.1 c.2.2 }).agDrop a fun x => x.ctx == ctx && hit x.launch x.piece

/-- Indexes of the units of a region that a write touches. -/
def unitsTouched (base stride addr n : Nat) (isIn : Nat → Bool) : List Nat :=
  (((List.range n).map fun i => addr + 4 * i).filterMap fun x => if isIn x then some ((x - base) / stride) else none).dedup

/-- After a whole write was taken. -/
def State.afterWrite (s0 s : State) (a : Addr) (addr n : Nat) : State :=
  let units := unitsTouched 0x200000 64 addr n (isUnit a)
  let remaps := unitsTouched 0x240000 8 addr n (isRemap a)
  if isSwitch a then remaps.foldl (fun s i => s.programmeCleared a i) (units.foldl (fun s i => State.programmeWritten s0 s a addr n i) s)
  else remaps.foldl (fun s i => s.replayAgSlot a i) (units.foldl (fun s i => State.slotWritten s0 s a addr n i) s)

/-- A write of words: all of it, or none of it with the status of the first refused word (R442). A refused write leaves the agent as it was. -/
def State.agWriteAll (s : State) (a : Addr) (addr : Nat) (words : List Word) : Nat × State × List Word :=
  if addr % 4 ≠ 0 ∨ 1020 < words.length then (4, s, [])
  else
    let r := State.pokeAll a addr words s
    if r.1 ≠ 0 then (r.1, s, [])
    else (0, (State.afterWrite s r.2.1 a addr words.length).drainCheck a ((s.agent a).windowEmpty && bitAt ((s.agent a).word 0x3C) 0), r.2.2)

/-! ### The journal record of a write (R379, R453) -/

/-- Class, slice and A, B of a write's record. -/
def State.journalWrite (s : State) (a : Addr) (h : MgmtHead) (addr : Nat) (words : List Word) : State :=
  let g := s.agent a
  let w := wordAt words 0
  let own := if isSwitch a then 0 else g.slice
  let c := h.cls.toNat
  let slot := (addr - 0x200000) / 64
  let v := g.slotView slot
  let tag := h.tag.toNat
  if c = 0 then s
  else s.onAgent a fun g =>
    if c = 10 then g.journalTable 1
    else if c = 3 then g.journalise 3 own tag (w32 (1 - g.lit)) (loHalf g.armF)
    else if c = 4 then g.journalise 4 v.slice tag (fieldAt 0 8 slot ||| fieldAt 8 2 v.state ||| fieldAt 16 6 v.gen) (w32 v.enable)
    else if c = 5 then g.journalise 5 (if isSwitch a then own else (g.slotView (bitsOf w 0 11)).slice) tag (fieldAt 0 8 (bitsOf w 0 11) ||| fieldAt 8 1 (bitsOf w 12 1)) 0
    else if c = 6 then g.journalise 6 own tag (fieldAt 0 1 (bitsOf w 0 1)) 0
    else if c = 7 then g.journalise 7 own tag (fieldAt 0 4 (bitsOf w 0 4)) 0
    else if c = 8 then g.journalise 8 own tag (w32 ((addr - 0x108200) / 2)) w
    else if c = 11 then g.journalise 11 own tag (w32 (addr / 4)) 0
    else g.journalise c own tag 0 0

/-! ### Replies (R441 to R444) -/

/-- MGMT_REPLY to the request's source, by the way the request came. -/
def State.mgmtReply (s : State) (a : Addr) (h : MgmtHead) (addr status : Nat) (words : List Word) : State :=
  let p := mkPacket h.src a 0 0 h.gen 0 0x04 h.tag.toNat
    ([w32 addr, fieldAt 0 10 words.length ||| fieldAt 24 8 status, 0, 0] ++ words)
  if isSwitch a then s.originateCoord a p else s.agentSend a h.port p

/-- An address at which a broadcast write is allowed (R444). -/
def broadcastOk (a : Addr) (addr : Nat) : Bool :=
  [0x70, 0xA8, 0x1C, 0x20, 0x24, 0x28, 0x2C, 0x98].contains addr || isStaging a addr

/-- Credit units of a management packet that carries some data words after its prefix (R62, R441). -/
def mgmtUnits (words : Nat) : Nat := 1 + ceilDiv (4 + words) 16

/-- A management write: malformed ones are dropped; a broadcast owes no reply, and a refused one is counted; one already taken under its tag is
answered from the cache; any other is applied whole or refused, answered and cached (R442 to R444, R453). -/
def State.agentWrite (s : State) (a : Addr) (h : MgmtHead) (addr : Nat) (words : List Word) : State :=
  let s := s.agCredits a h.port 0 (mgmtUnits words.length)
  if h.reserved then s.agMalformed a
  else if h.broadcast then
    let r := s.agWriteAll a addr words
    if r.1 ≠ 0 ∨ !((List.range words.length).all fun i => broadcastOk a (addr + 4 * i)) then
      s.onAgent a fun g => g.onPort h.port fun p => { p with refused := p.refused + 1 }
    else r.2.1.journalWrite a h addr words
  else
    let mine := fun (k : KeptWrite) => k.tag == h.tag.toNat
    match (s.agent a).kept.find? fun k => mine k && k.gen == h.gen.toNat && k.addr == addr && k.words == words.length with
    | some k => s.mgmtReply a h addr k.status k.reply
    | none =>
      let r := s.agWriteAll a addr words
      let s := if r.1 = 0 then r.2.1.journalWrite a h addr words else s
      let k : KeptWrite := { tag := h.tag.toNat, gen := h.gen.toNat, addr := addr, words := words.length, status := r.1, reply := r.2.2.take 1 }
      (s.onAgent a fun g => { g with kept := (g.kept.filter fun x => !mine x) ++ [k] }).mgmtReply a h addr r.1 r.2.2

/-- A management read (R441, R442). -/
def State.agentRead (s : State) (a : Addr) (h : MgmtHead) (addr count : Nat) : State :=
  let s := s.agCredits a h.port 0 (mgmtUnits 0)
  if h.reserved then s.agMalformed a
  else
    let r := s.agReadAll a addr count
    s.mgmtReply a h addr r.1 r.2

end Sys2Proof.Machine
end

