-- ==== Sys2Proof/Machine/Lantern.lean ====
section
/-! DEFINITION. Machine/Lantern.lean: the commands of the Lantern: its three uplink packet kinds and the NEED timer (R249 to R258). -/
namespace Sys2Proof.Machine

/-- LANTERN_CONTRIB: a member's contribution arrives on a switch port (R249, R254, R257). -/
def execLanternContrib (port : Nat) (p : Packet) (fault : Option (Word × Bool)) (s : State) : Host.Outcome State Fault Refusal :=
  .next ((s.lanternUp port p fault).progress 0x08)

/-- LANTERN_PARTIAL: a rack partial arrives from another Keeper, is taken where it belongs and relayed (R250, R252). -/
def execLanternPartial (port : Nat) (p : Packet) (fault : Option (Word × Bool)) (s : State) : Host.Outcome State Fault Refusal :=
  .next ((s.lanternUp port p fault).progress 0x08)

/-- LANTERN_NEED: a NEED draws the rack partial held here again, and is relayed (R250, R258). -/
def execLanternNeed (port : Nat) (p : Packet) (s : State) : Host.Outcome State Fault Refusal :=
  .next ((s.lanternUp port p none).progress 0x08)

/-- NEED_TIMER: launches of a context whose rack partial has been held NEED_NS without a result flood a NEED, again every NEED_NS (R258). -/
def execNeedTimer (ctx : Nat) (s : State) : Host.Outcome State Fault Refusal :=
  let wait := s.getF Fld.LNT_CTRL_NEED_NS * 256
  match s.lnt.ctxs.find? fun c => c.ctx == ctx && c.live with
  | none => .next s
  | some c =>
    .next ((c.bufs.filter fun b => b.own.isSome && b.result.isNone && c.racks.length > 1 && b.needAt + wait ≤ s.now).foldl (fun s b =>
      let s := s.onLnt c.num c.ctx fun x => x.onBuf b.launch fun y => { y with needAt := s.now }
      ((s.lntFlood c 2 b.launch 0 [] 0).countReg Reg.LNT_NEEDS 1).raise Fld.LNT_INT_STATUS_NEED) s)

end Sys2Proof.Machine
end

