-- ==== Sys2Proof/Machine/Links.lean ====
section
/-! DEFINITION. Machine/Links.lean: meanings of the commands of the Keeper's ports: training, key agreement, beacons, lanes, lasers, parking,
the fabric test, egress and the agents' events about ports, resets and GO (R54, R59 to R64, R93 to R121, R144, R277, R344). -/
namespace Sys2Proof.Machine

/-! ### Training and key agreement (R96, R97, R112, R344) -/

/-- LASERS_READY: training starts in order, up to 8 ports at once (R97). -/
def execLasersReady (s : State) : Host.Outcome State Fault Refusal :=
  .next (if s.chart.lit.isSome then ({ s with link := { s.link with lasersUp := true } } : State).pumpTraining else s)

/-- Training of a port ends with the lanes that failed: 4 healthy lanes go on to SECURE or VERIFY (R96, R98). -/
def State.trained (s : State) (n failed : Nat) : State :=
  let s := s.onPort n fun p => { p with
    failed := failed, farFailed := 0, active := laneMap failed, parked := if failed = 0 then 1 <<< 8 else 0, trainFails := 0 }
  if 16 ≤ n then (s.portTo n .secure 0).startSecure n else s.portTo n .verify 0

/-- A training with fewer than 4 lanes: DARK and MISSING where the chart cables the port, OFF else; the position fails when the limit of
trainings is reached and its loopback test fails (R96, R104, R112). -/
def State.trainFailed (s : State) (n failed : Nat) (loopbackOk : Bool) : State :=
  let s := s.onPort n fun p => { p with failed := failed, farFailed := 0 }
  let p := s.port n
  if (s.expectedOwn n).isSome then
    let atLimit := s.getF Fld.DSC_TIMING_RETRAIN_LIMIT ≤ p.trainFails + 1
    let broken := atLimit ∧ ¬ loopbackOk
    let s := s.onPort n fun p => { p with trainFails := p.trainFails + 1 }
    let s := ((s.portTo n .dark (if broken then 7 else 1)).portClass n 2 1 7).raiseIf (p.cls != 2) Fld.DSC_INT_STATUS_NEIGHBOUR
    if broken then (s.onPos p.position fun x => { x with loopbackFail := true }).positionFails p.position else s
  else (s.onPort n fun p => { p with cls := 0, trainFails := 0, found := none }).portTo n .off 0

/-- PORT_TRAIN_DONE: the training place is free again and the next port starts (R96, R97). -/
def execPortTrainDone (port : Nat) (failed : Nat) (loopbackOk : Bool) (s : State) : Host.Outcome State Fault Refusal :=
  if s.link.training.contains port ∧ (s.port port).st = .train then
    let failed := failed % 512
    let s := { s with link := { s.link with training := s.link.training.filter (· != port) } }
    let s := if 4 ≤ healthyLanes failed then s.trained port failed else s.trainFailed port failed loopbackOk
    .next s.pumpTraining
  else .next s

/-- HELLO: the partner's daymark is verified; CONFIRM goes out, or the identity is refused (R333, R344). -/
def execHello (port : Nat) (bytes : List Byte) (s : State) : Host.Outcome State Fault Refusal :=
  if (s.port port).st = .secure then
    let where_ := (bytes.getD 285 0).toNat
    let form := stmtOk 0x06 0x138 false bytes && zeroIn bytes 286 26
    let debug := s.debugLocked && where_ < 128
    let partner := port == 20 && (where_ % 64 != s.myRack % 64 || where_ / 64 % 2 == s.role)
    if form && daymarkOk (bytesIn bytes 4 224) && !debug && !partner then
      .next ((s.onPort port fun p => { p with hello := some bytes }).askConfirm port)
    else .next (s.refuseIdentity port)
  else .next s

/-- LINK_CONFIRM: verified under the partner's ID_KEY and compared with T; the keys are taken; port 20 goes to LIT, ports 16 to 19 to VERIFY
(R96, R344). -/
def execLinkConfirm (port : Nat) (bytes : List Byte) (s : State) : Host.Outcome State Fault Refusal :=
  let p := s.port port
  if p.st = .secure then
    match p.hello with
    | none => .next (s.refuseIdentity port)
    | some far =>
      let ok := stmtOk 0x05 0x44 true bytes && bytesIn bytes 4 64 == helloDigest p.ownHello far
        && stmtVerifies (daymarkKey (bytesIn far 4 224)) "Orvon-KX2 link" 0x44 bytes
      if ok then
        let s := s.onPort port fun p => { p with
          keys := some (linkKeys p.scalar p.ownHello far), scalar := [], keyEpoch := 0, farEpoch := 0, txPackets := 0, rxPackets := 0, keyFlash := s.tim.flash,
          secureFails := 0, peer := some (BitVec.ofNat 64 (beNat (bytesIn far 28 8))) }
        .next (if port = 20 then (s.onPort 20 fun p => { p with cls := 1 }).portTo 20 .lit 0 else s.portTo port .verify 0)
      else .next (s.refuseIdentity port)
  else .next s

/-- KEY_AGREEMENT_TIMEOUT: back to TRAIN, or QUARANTINED after the second failure in a row (R96, R97). -/
def execKeyAgreementTimeout (port : Nat) (s : State) : Host.Outcome State Fault Refusal :=
  let p := s.port port
  if p.st = .secure then
    if p.secureFails = 0 then .next ((s.onPort port fun p => { p with secureFails := 1 }).trainPort port)
    else .next ((s.onPort port fun p => { p with secureFails := 0 }).portTo port .quarantined 5)
  else .next s

/-! ### Beacons (R101 to R104) -/

/-- A beacon in VERIFY: three equal ones in a row, the last with LSTATE VERIFY, LIT or HELD, name the found neighbour (R103). -/
def State.verifyBeacon (s : State) (n : Nat) (f : Found) (lstate : Nat) : State :=
  let run := match (s.port n).lastBeacon with
    | some (g, k, _) => if g = f then k + 1 else 1
    | none => 1
  let s := s.onPort n fun p => { p with lastBeacon := some (f, run, lstate) }
  if 3 ≤ run ∧ (lstate = 3 ∨ lstate = 4 ∨ lstate = 5) then (s.onPort n fun p => { p with found := some f }).judgePort n else s

/-- A beacon in LIT or HELD: a change of word 0 quarantines the port; the chart tags choose between LIT and HELD (R96, R103). -/
def State.litBeacon (s : State) (n : Nat) (f : Found) : State :=
  let p := s.port n
  if p.found.any fun g => g.w0 != f.w0 then
    (s.onPort n fun p => { p with found := some f }).miswired n
  else
    let s := s.onPort n fun p => { p with found := some f }
    let tag := s.chartTag
    s.portTo n (if f.w4 = tag.1 ∧ f.w5 = tag.2 then .lit else .held) 0

/-- BEACON: checked as any packet (R17), then by the port's state (R102, R103). -/
def execBeacon (port : Nat) (p : Packet) (s : State) : Host.Outcome State Fault Refusal :=
  let s := s.received port p.hdr
  match s.refused port p.hdr with
  | some s => .next s
  | none =>
    let w := p.payload
    if ¬ beaconClean w then .next (s.refusePacket port p.hdr 2)
    else
      let s := s.returnCredits port p.hdr
      let f : Found := { w0 := wordAt w 0, w4 := wordAt w 4, w5 := wordAt w 5 }
      let s := s.onPort port fun x => { x with heard := true, missing := 0, litHolder := bitAt (wordAt w 7) 0, farOverlay := bitAt (wordAt w 7) 1,
                                               farEpochHeld := (wordAt w 6).toNat }
      match (s.port port).st with
      | .verify => .next (s.verifyBeacon port f (bitsOf (wordAt w 1) 0 4))
      | .lit => .next (s.litBeacon port f)
      | .held => .next (s.litBeacon port f)
      | _ => .next s

/-- BEACON_SEND: a port in VERIFY, LIT or HELD sends its beacon; the mooring port sends none (R55, R102). -/
def execBeaconSend (port : Nat) (s : State) : Host.Outcome State Fault Refusal :=
  let st := (s.port port).st
  .next (if (st = .verify ∨ st = .lit ∨ st = .held) ∧ port < 20 then
    s.enqueue port (mkPacket s.self s.self 0 0 0 0 0x01 0 (s.beaconWords port)) else s)

/-- VERIFY_TIMEOUT: DARK and MISSING (R96, R104). FAIL_REASON has no code for it: 2, beacon loss, is the model's choice (DESIGN CHOICE, log entry
103). -/
def execVerifyTimeout (port : Nat) (s : State) : Host.Outcome State Fault Refusal :=
  let p := s.port port
  if p.st = .verify then
    let s := s.portTo port .dark 2
    if (s.expectedOwn port).isSome then .next ((s.portClass port 2 3 7).raiseIf (p.cls != 2) Fld.DSC_INT_STATUS_NEIGHBOUR) else .next s
  else .next s

/-- BEACON_LOSS: DARK after the limit of flashes without a valid beacon (R102). -/
def execBeaconLoss (port : Nat) (s : State) : Host.Outcome State Fault Refusal :=
  let p := s.port port
  .next (if (p.st = .lit ∨ p.st = .held) ∧ port < 20 ∧ s.getF Fld.DSC_TIMING_BEACON_LOSS ≤ p.missing then s.portTo port .dark 2 else s)

/-- Whether a port is held in test at either end (R119). -/
def State.inTest (s : State) (n : Nat) : Bool := (s.port n).testHold || s.link.test.any fun t => t.port == n

/-- DARK_RETRY: a DARK port retrains when RETRY_EN is 1, but not at a quarantined position (R96, R106, R112). That a port held in test does not train
is the model's choice (DESIGN CHOICE, log entry 39). -/
def execDarkRetry (port : Nat) (s : State) : Host.Outcome State Fault Refusal :=
  .next (if (s.port port).st = .dark ∧ s.flag Fld.DSC_CTRL_RETRY_EN ∧ ¬ s.inTest port ∧ ¬ s.atBroken port then s.trainPort port else s)

/-! ### Positions, lanes, lasers (R108 to R112) -/

/-- SPARE_POSITION_MOVE_DONE: the port stands at its spare position and retrains at once (R96, R112). -/
def execSparePositionMoveDone (port : Nat) (s : State) : Host.Outcome State Fault Refusal :=
  match s.link.moving.find? fun m => m.1 == port with
  | none => .next s
  | some (_, k) =>
    let old := (s.port port).position
    let s := { s with link := { s.link with moving := s.link.moving.filter fun m => m.1 != port } }
    let s := (s.onPos old fun x => { x with logical := 0x1F }).onPos k fun x => { x with logical := port }
    let s := ((s.onPort port fun p => { p with position := k, trainFails := 0 }).reserve 1 old k).raise Fld.DSC_INT_STATUS_SPARE_PORT
    .next (if (s.port port).st = .dark then s.trainPort port else s)

/-- LANE_SIGNAL_LOSS: an active lane is held failed at once (R108, R109). -/
def execLaneSignalLoss (port : Nat) (lane : Nat) (s : State) : Host.Outcome State Fault Refusal :=
  .next (if lane < 9 ∧ (s.port port).active.testBit lane then s.failLanes port (1 <<< lane) else s)

/-- LANE_CHANGE: the far end's failed set joins the own (R109, R110). -/
def execLaneChange (port : Nat) (failed : Nat) (s : State) : Host.Outcome State Fault Refusal :=
  let p := s.port port
  if p.st = .lit ∨ p.st = .held then
    let newly := maskMinus (failed % 512) (p.failed ||| p.farFailed)
    .next ((s.onPort port fun p => { p with farFailed := failed % 512 }).applyLanes port newly)
  else .next s

/-- LASER_FAULT: the position moves to a spare laser of its engine and its port retrains at once; without one the position fails
(R96, R111, R112). -/
def execLaserFault (position : Nat) (s : State) : Host.Outcome State Fault Refusal :=
  if 24 ≤ position then .next s
  else
    let engine := position / 6
    let n := (s.pos position).logical
    let st := (s.port n).st
    let dark := fun (s : State) => if st = .lit ∨ st = .held ∨ st = .parked then s.portTo n .dark 8 else s
    match [1, 2].find? fun l => !s.link.spentLasers.contains (engine, l) with
    | none => .next ((dark s).positionFails position)
    | some l =>
      let s := { s with link := { s.link with spentLasers := s.link.spentLasers ++ [(engine, l)] } }
      let s := (dark (s.onPos position fun x => { x with laser := l })).reserve 2 position l
      .next (if (s.port n).st = .dark ∧ ¬ s.atBroken n then s.trainPort n else s)

/-- A write of DSC_CLEAR: the port's position leaves QUAR, and a port in EXTRA, QUARANTINED or DARK trains again (R112, R121). -/
def State.clearQuar (s : State) (value : Word) : State :=
  let n := bitsOf value 0 5
  let p := s.port n
  if bitAt value 8 ∧ n < 21 then
    let s := s.onPos p.position fun x => { x with quar := false, loopbackFail := false }
    if p.st = .extra ∨ p.st = .quarantined ∨ p.st = .dark then s.trainPort n else s
  else s

/-! ### Rekeying (R114) -/

/-- REKEY_DUE: this end announces the next key epoch and uses it from its next packet. -/
def execRekeyDue (port : Nat) (s : State) : Host.Outcome State Fault Refusal :=
  let p := s.port port
  match p.keys with
  | none => .next s
  | some k =>
    let e := p.keyEpoch + 1
    let dir := if k.low then 0 else 1
    let s := s.onPort port fun p => { p with
      keys := some { k with tx := epochKey k.ratchet dir e }, keyEpoch := e, txPackets := 0, keyFlash := s.tim.flash }
    .next (s.sendLcb port 0x06 e)

/-- REKEY: the receiver uses the new key epoch from the next packet. -/
def execRekey (port : Nat) (epoch : Word) (s : State) : Host.Outcome State Fault Refusal :=
  match (s.port port).keys with
  | none => .next s
  | some k =>
    let dir := if k.low then 1 else 0
    .next (s.onPort port fun p => { p with keys := some { k with rx := epochKey k.ratchet dir epoch.toNat }, farEpoch := epoch.toNat, rxPackets := 0 })

/-! ### Parking (R115 to R118) -/

/-- The load of a port over the last flash is below P1_LOAD_PCT per cent of the rate of k lanes, 224 Gb/s each (R117). -/
def State.lowLoad (s : State) (n k : Nat) : Bool :=
  decide ((s.port n).load * 100 < s.getF Fld.DSC_PARK_P1_LOAD_PCT * k * 28000 * s.tim.periodUs)

/-- PARK_ENTRY: a LIT link parks as a whole after PARK_IDLE idle flashes, or under a low load the lanes above the lowest k park at depth 1
(R116, R117). -/
def execParkEntry (port : Nat) (lanes : Option Nat) (s : State) : Host.Outcome State Fault Refusal :=
  let p := s.port port
  if p.st = .lit ∧ s.flag Fld.DSC_CTRL_PARK_EN ∧ s.ownDepth port ≠ 0 then
    match lanes with
    | some k =>
      if 4 ≤ k ∧ k ≤ 7 ∧ s.lowLoad port k then
        let keep := maskOf ((bitIndices p.active 9).take k)
        .next ((s.fillBuckets port).onPort port fun p => { p with parked := maskMinus p.parked p.active ||| maskMinus p.active keep })
      else .next s
    | none =>
      if s.getF Fld.DSC_PARK_PARK_IDLE ≤ p.idle ∧ p.eg.queue = [] then
        let s := (s.onPort port fun p => { p with depth := s.ownDepth port }).portTo port .parked 0
        .next (s.sendLcb port 0x04 (s.port port).depth)
      else .next s
  else .next s

/-- PARK: the far end enters the depth, which is at most the allowed one (R116, R118). -/
def execPark (port : Nat) (depth : Nat) (s : State) : Host.Outcome State Fault Refusal :=
  .next (if (s.port port).st = .lit ∧ 1 ≤ depth ∧ depth ≤ s.ownDepth port then (s.onPort port fun p => { p with depth := depth }).portTo port .parked 0 else s)

/-- LINK_WAKE_REQUEST: a packet waits; WAKE goes out, or at depth 3 the laser is powered (R118). -/
def execLinkWakeRequest (port : Nat) (s : State) : Host.Outcome State Fault Refusal :=
  let p := s.port port
  if p.st = .parked ∧ p.eg.queue ≠ [] ∧ ¬ p.waking then
    let s := s.onPort port fun p => { p with waking := true }
    .next (if p.depth < 3 then s.sendLcb port 0x05 0 else s)
  else .next s

/-- WAKE: the far end, or detected light, wakes the link (R118). -/
def execWake (port : Nat) (s : State) : Host.Outcome State Fault Refusal :=
  .next (if (s.port port).st = .parked then s.onPort port fun p => { p with waking := true } else s)

/-- WAKE_COMPLETE: LIT again, or DARK with fewer than 4 healthy lanes (R96). -/
def execWakeComplete (port : Nat) (failed : Nat) (s : State) : Host.Outcome State Fault Refusal :=
  let p := s.port port
  if p.st = .parked ∧ p.waking then
    let union := p.failed ||| failed % 512 ||| p.farFailed
    let s := s.onPort port fun p => { p with failed := p.failed ||| failed % 512, active := laneMap union, parked := if union = 0 then 1 <<< 8 else 0 }
    .next (if healthyLanes union < 4 then s.portTo port .dark 3 else s.portTo port .lit 0)
  else .next s

/-! ### Fabric test (R119) -/

/-- The Keeper of the same role at the far end of port 16 to 19. -/
def State.farKeeper (s : State) (n : Nat) : Addr := s.addrAt 2 (nbrRack s.axes.1 s.axes.2 s.myRack (n - 16)) s.role

/-- A request or an answer about the far end of port 16 to 19 goes over the overlay; with no way there it is not sent (R44, R119, log entry 39). -/
def State.sendFar (s : State) (n : Nat) (req : Nat → Addr → Nat → Out) : State :=
  match s.overlayPort (s.rackOf (s.farKeeper n)) with
  | some via => s.send (req via (s.farKeeper n) (16 + oppDir (n - 16)))
  | none => s

/-- The test ends: its result is posted, START clears, the far end is let go (R119, R121). -/
def State.endTest (s : State) (n result lanes : Nat) : State :=
  let s := { s with link := { s.link with test := none } }
  let s := ((s.setF Fld.DSC_TEST_STATUS_STATE 2).setF Fld.DSC_TEST_STATUS_RESULT result).setF Fld.DSC_TEST_STATUS_LANE_FAIL lanes
  let s := (s.setF Fld.DSC_TEST_CTRL_START 0).raise Fld.DSC_INT_STATUS_TEST_DONE
  if 16 ≤ n ∧ n < 20 ∧ result < 2 then s.sendFar n fun via a p => .testHold via a p false else s

/-- DSC_TEST_CTRL.START: a fabric test begins on a port that is DARK, EXTRA or QUARANTINED; on a Keeper link the far Keeper is asked to hold its
end (R119). -/
def State.testAct (s : State) : State :=
  if ¬ s.flag Fld.DSC_TEST_CTRL_START ∨ s.link.test.isSome then s
  else
    let n := s.getF Fld.DSC_TEST_CTRL_PORT
    let st := (s.port n).st
    if 21 ≤ n ∨ ¬ (st = .dark ∨ st = .extra ∨ st = .quarantined) then s.endTest n 3 0
    else
      let far := 16 ≤ n ∧ n < 20
      let s := { s with link := { s.link with test := some { port := n, left := s.getF Fld.DSC_TEST_CTRL_FLASHES, waited := 0, agreed := !far } } }
      let s := ((s.setF Fld.DSC_TEST_STATUS_STATE 1).setF Fld.DSC_TEST_STATUS_RESULT 0).setF Fld.DSC_TEST_STATUS_LANE_FAIL 0
      if far then s.sendFar n fun via a p => .testHold via a p true else s

/-- The lanes that fail a test in which each lane sent some bits: those whose bit error ratio exceeds 10^-COR_EXP (R119). -/
def State.testFails (s : State) (bits : Nat) (errors : List Nat) : Nat :=
  maskOf ((List.range 9).filter fun l => decide (bits < errors.getD l 0 * 10 ^ s.getF Fld.DSC_HEALTH_COR_EXP))

/-- FABRIC_TEST_END: the FLASHES are over and the lanes are judged by the bit errors counted, or the far Keeper did not agree within 4 flashes; before
that the test goes on (R119). -/
def execFabricTestEnd (bits : Nat) (errors : List Nat) (s : State) : Host.Outcome State Fault Refusal :=
  match s.link.test with
  | none => .next s
  | some t =>
    if ¬ t.agreed ∧ 4 ≤ t.waited then .next ((s.endTest t.port 2 0).renew Fld.DSC_TEST_CTRL_START State.testAct)
    else if t.agreed ∧ t.left = 0 then
      let lanes := s.testFails bits errors
      .next ((s.endTest t.port (if lanes = 0 then 0 else 1) lanes).renew Fld.DSC_TEST_CTRL_START State.testAct)
    else .next s

/-- TEST_HOLD_REQUEST: this Keeper holds its end in test when the port carries nothing, and answers (R119). -/
def execTestHoldRequest (port : Nat) (hold : Bool) (s : State) : Host.Outcome State Fault Refusal :=
  if 16 ≤ port ∧ port < 20 then
    let st := (s.port port).st
    let ok := st = .dark ∨ st = .extra ∨ st = .quarantined
    let s := s.onPort port fun p => { p with testHold := hold && decide ok }
    .next (if hold then s.sendFar port fun via a p => .testAgree via a p (decide ok) else s)
  else .next s

/-- TEST_HOLD_AGREE: the test of the port proceeds (R119). -/
def execTestHoldAgree (port : Nat) (agrees : Bool) (s : State) : Host.Outcome State Fault Refusal :=
  match s.link.test with
  | some t => .next (if t.port = port ∧ agrees then { s with link := { s.link with test := some { t with agreed := true } } } else s)
  | none => .next s

/-! ### Egress, credits, errors (R54, R55, R59 to R64, R93 to R95, R114) -/

/-- LINK_CONTROL_BLOCK_INVALID: a block with a reserved TYPE or a reserved bit set is ignored and counted as a link error; a block that is neither is no
such block and counts nothing (R94). -/
def execLinkControlBlockInvalid (port : Nat) (block : BitVec 128) (s : State) : Host.Outcome State Fault Refusal :=
  .next (if lcbValid block then s else s.onPort port fun p => { p with lcbErrors := p.lcbErrors + 1 })

/-- HCRC_ERROR: a packet whose header is cut short or fails its HCRC is discarded and counted, no credit is returned; a resync falls due; a header that
passes counts nothing here (R54, R95). -/
def execHcrcError (port : Nat) (header : List Word) (lanes : Nat) (s : State) : Host.Outcome State Fault Refusal :=
  .next (if headerWrong header then
    (s.onPort port fun p => { p with hcrc := satAdd (2 ^ 32 - 1) p.hcrc 1, resyncDue := true, unclean := true, discards := p.discards + 1,
                                     rxPackets := p.rxPackets + 1 }).badLanes port lanes
  else s)

/-- The tag of a frame received on an encrypted port is wrong (R113). -/
def State.tagWrong (s : State) (n : Nat) (f : WireFrame) : Bool :=
  match (s.port n).keys with
  | some k => f.tag != frameTag k.rx (if k.low then 1 else 0) (s.port n).rxPackets f.hdr f.payload
  | none => false

/-- FRAME_CHECK_ERROR: a packet whose frame check is wrong is discarded, its credits are returned, the error counts against the port and its lanes; one
whose tag is wrong is discarded and counts toward AUTH_LIMIT, at which the port goes DARK and retrains (R62, R93, R114). A frame in which nothing is
wrong counts nothing here. -/
def execFrameCheckError (port : Nat) (f : WireFrame) (lanes : Nat) (s : State) : Host.Outcome State Fault Refusal :=
  let tag := s.tagWrong port f
  let next := fun (p : Port) => { p with rxPackets := p.rxPackets + 1 }
  if frameWrong f then
    .next ((((s.returnCredits port f.hdr).onPort port next).onPort port fun x =>
      { x with fcs := satAdd (2 ^ 32 - 1) x.fcs 1, unclean := true }).badLanes port lanes)
  else if tag then
    let s := ((s.returnCredits port f.hdr).onPort port next).onPort port fun x =>
      { x with auth := satAdd (2 ^ 32 - 1) x.auth 1, tagFails := x.tagFails + 1 }
    let x := s.port port
    if s.getF Fld.DSC_HEALTH_AUTH_LIMIT ≤ x.tagFails ∧ (x.st = .lit ∨ x.st = .held) then
      .next ((s.portTo port .dark 4).raise Fld.DSC_INT_STATUS_AUTH)
    else .next s
  else .next s

/-- RESERVED_OPKIND_PACKET: refused by its header under R17 and R55. -/
def execReservedOpkindPacket (port : Nat) (p : Packet) (s : State) : Host.Outcome State Fault Refusal :=
  let s := s.received port p.hdr
  let r := headerRefusal (port == 20) p.hdr
  .next (s.refusePacket port p.hdr (if r = 0 then 1 else r))

/-- WINDOW_ACK: window space comes free; an acknowledgement that names no open flow is discarded and counted (R64). -/
def execWindowAck (port : Nat) (p : Packet) (s : State) : Host.Outcome State Fault Refusal :=
  let s := s.received port p.hdr
  match s.refused port p.hdr with
  | some s => .next s
  | none => .next ((s.ackIn p.hdr p.payload).2.returnCredits port p.hdr)

/-! ### Agents' events (R99, R144, R277, R445) -/

/-- PORT_CHANGE_EVENT: the Keeper reads again the records the event names (R99). -/
def execPortChangeEvent (port : Nat) (p : Packet) (s : State) : Host.Outcome State Fault Refusal :=
  .next (s.takeAgentEvent 2 port p fun s ev =>
    (ev.body.take ev.arg.toNat).foldl (fun s w => s.mgmtRead ev.agent (0x1000 + 0x20 * bitsOf w 0 8) 3 0x03 (.nbr (bitsOf w 0 8))) s)

/-- The flash a GO_MISSING names is the confirmed or the lit F: HOLD shows that the agent waits, and GO goes to it again (R144, R152). -/
def State.goMissing (s : State) (ev : AgentEvent) : State :=
  let c := s.slv.cycle
  let f := wordAt ev.body 0
  let held := (c.phase = .armed ∨ c.phase = .confirmed) ∧ w32 c.f = f
  let lit := s.slv.litEpoch ≠ 0 ∧ s.getReg Reg.SLV_LIT_FLASH_LO = f
  let s := if held ∨ lit then
      ({ s with slv := { s.slv with holds := if s.slv.holds.contains ev.agent then s.slv.holds else ev.agent :: s.slv.holds } }).setF Fld.SLV_STATE_HOLD 1
    else s
  if (held ∧ c.phase = .confirmed) ∨ lit then s.mgmtWrite ev.agent 0x70 [f] 2 0 0x04 .go else s

/-- GO_MISSING_EVENT: an agent holds D for want of GO (R144, R152). -/
def execGoMissingEvent (port : Nat) (p : Packet) (s : State) : Host.Outcome State Fault Refusal := .next (s.takeAgentEvent 4 port p State.goMissing)

/-- An agent of this rack has been reset: it is rewritten, its plans ask for the abort exchange, a switch loses its plane, its time is acquired again
(R135, R269, R277, R278, R303, R460). -/
def State.agentWasReset (s : State) (ev : AgentEvent) : State :=
  if addrX ev.agent ≠ s.rx ∨ addrY ev.agent ≠ s.ry then s
  else
    let s := (s.rewriteAgent ev.agent).closeFlows ev.agent
    let s := { s with tim := { s.tim with agents := s.tim.agents.map fun (t : TimAgent) => if t.addr = ev.agent then { t with st := 0, silent := 0 } else t } }
    if addrKind ev.agent = 1 then s.switchLost (addrIndex ev.agent)
    else ((s.plansOf ev.agent).filter fun p => p.enable != 0).foldl (fun s p => s.recoverReq p 3 p.newest []) s

/-- AGENT_RESET_EVENT (R460). -/
def execAgentResetEvent (port : Nat) (p : Packet) (s : State) : Host.Outcome State Fault Refusal := .next (s.takeAgentEvent 3 port p State.agentWasReset)

end Sys2Proof.Machine
end

