-- ==== Sys2Proof/Machine/TimeOps.lean ====
section
/-! DEFINITION. Machine/TimeOps.lean: link time records, the rack solve, estimates toward parents, steering, time states, wall time (R290 to
R310, R423). -/
namespace Sys2Proof.Machine

/-! ### Numbers -/

/-- One unit of 2^-12 ns in ps. -/
def unit12 : Rat := 1000 / 4096

/-- A rational to the nearest integer, ties upward (log entry 40). -/
def roundRat (q : Rat) : Int := (q + 1 / 2).floor

/-- A rational held between -b and b. -/
def clampRat (b q : Rat) : Rat := max (-b) (min b q)

/-- The mean of a list, none when it is empty. -/
def meanRat (qs : List Rat) : Option Rat := if qs.isEmpty then none else some (qs.foldl (· + ·) 0 / qs.length)

/-- Insertion into an ascending list. -/
def insertRat (q : Rat) : List Rat → List Rat
  | [] => [q]
  | x :: xs => if q ≤ x then q :: x :: xs else x :: insertRat q xs

/-- The median: the middle value, or the mean of the middle two (log entry 40). -/
def medianRat (qs : List Rat) : Rat :=
  let s := qs.foldr insertRat []
  let n := s.length
  if n % 2 = 1 then s.getD (n / 2) 0 else (s.getD (n / 2 - 1) 0 + s.getD (n / 2) 0) / 2

/-- The estimates within OUTLIER_PS of their median, and how many were excluded (R300). -/
def State.inliers (s : State) (qs : List Rat) : List Rat × Nat :=
  let m := medianRat qs
  let keep := qs.filter fun q => decide (|q - m| ≤ (s.getF Fld.TIM_PARAMS_OUTLIER_PS : Rat))
  (keep, qs.length - keep.length)

/-! ### Link time records (R294) -/

/-- VALID of a link time record. -/
def recValid (w : Word) : Bool := bitAt w 28

/-- MEAN of a link time record, in units of 2^-12 ns. -/
def recMean (w : Word) : Rat := bitsOf w 0 20

/-- The record an own port forms at the boundary for the flash that ends (R294). -/
def State.portRecord (s : State) (p : Port) : Word :=
  let mean := if p.samples = 0 then 0 else p.sampleSum * 16 / p.samples
  let clean := p.st == .lit && !p.unclean
  fieldAt 0 20 mean ||| fieldAt 20 8 (min 255 (p.samples / 16)) ||| fieldAt 28 1 (b2n (clean && s.getF Fld.TIM_PARAMS_FILL_SAMPLES ≤ p.samples))

/-- The own ports' records of the flash that ends are formed and the sums start afresh (R294). -/
def State.formRecords (s : State) : State :=
  let s := { s with tim := { s.tim with ownRecs := s.link.ports.map s.portRecord, recFlash := s.tim.flash } }
  { s with link := { s.link with ports := s.link.ports.map fun (p : Port) => { p with samples := 0, sampleSum := 0, unclean := false } } }

/-- The load report of an agent for a flash, as taken (R313, R315). -/
def State.report (s : State) (a : Addr) (f : Nat) : Option LoadReport :=
  s.tel.reports.find? fun r => r.agent == a && r.flash == BitVec.ofNat 48 f

/-- The link time record of an agent's port in its report; absent reads 0 (R296, R314). -/
def State.timeRec (s : State) (a : Addr) (port f : Nat) : Word :=
  match s.report a f with
  | some r => wordAt r.words (if addrKind a = 1 then 402 + port else 32 + port)
  | none => 0

/-! ### The rack solve (R298) -/

/-- o(Y, X) in ps from the record measured at Y and the one measured at X; none unless both are valid. -/
def offsetOf (atY atX : Word) : Option Rat := if recValid atY && recValid atX then some ((recMean atY - recMean atX) / 2 * unit12) else none

/-- φ of switch p: its offset against the Keeper (R298). -/
def State.switchPhi (s : State) (f p : Nat) : Option Rat :=
  if s.tim.recFlash = f then offsetOf (s.timeRec (s.switchAddr p) (132 + s.role) f) (wordAt s.tim.ownRecs p) else none

/-- φ of endpoint i: the mean over its links of φ of the switch and the endpoint's offset against it (R298). -/
def State.endpointPhi (s : State) (f i : Nat) (phis : List (Nat × Rat)) : Option Rat :=
  meanRat ((List.range 16).filterMap fun l => (lookupNat l phis).bind fun p =>
    (offsetOf (s.timeRec (s.epAddr i) l f) (s.timeRec (s.switchAddr l) i f)).map fun o => p + o)

/-- An agent's time record at the Keeper; UNALIGNED when it was never heard. -/
def State.timAgent (s : State) (a : Addr) : TimAgent := (s.tim.agents.find? fun x => x.addr == a).getD { addr := a, st := 0, silent := 0 }

/-- That record, written. -/
def State.setTimAgent (s : State) (t : TimAgent) : State :=
  { s with tim := { s.tim with agents := (s.tim.agents.filter fun x => x.addr != t.addr) ++ [t] } }

/-- FA_TIME_STATE written as the Keeper judges (R440, R456). -/
def State.judgeAgent (s : State) (a : Addr) (st : Nat) : State :=
  (s.setTimAgent { s.timAgent a with st := st }).mgmtWrite a 0xA0 [w32 st] 11 0 0x09 .upkeep

/-- One agent after the solve: its estimate becomes a phase trim; without one, another flash passes (R298). -/
def State.trimAgent (s : State) (a : Addr) (phi : Option Rat) : State :=
  let t := s.timAgent a
  match phi with
  | none => s.setTimAgent { t with silent := t.silent + 1 }
  | some q =>
    let s := s.setTimAgent { t with silent := 0 }
    if t.st = 0 then s
    else
      let s := if t.st = 2 then s.judgeAgent a 1 else s
      let lim : Rat := s.getF Fld.TIM_PARAMS_MAX_SLEW_PPM * s.tim.periodUs
      let trim := roundRat (clampRat lim (-q) / unit12)
      if s.flag Fld.TIM_CTRL_CAL_EN then s.mgmtWrite a 0xA4 [fieldAt 0 20 (toTwos 20 trim)] 11 0 0x09 .upkeep else s

/-- TIM_AGENTS and TIM_WORST follow the rack's agents (R312). -/
def State.showAgents (s : State) (phis : List (Nat × Rat)) : State :=
  let n := fun (st : Nat) => ((s.rackAgents.filter fun a => (s.timAgent a).st == st)).length
  let s := ((s.setF Fld.TIM_AGENTS_ALIGNED (n 1)).setF Fld.TIM_AGENTS_HOLDOVER (n 2)).setF Fld.TIM_AGENTS_UNALIGNED (n 0)
  let worst := phis.foldl (fun (acc : Nat × Rat) x => if decide (|acc.2| < |x.2|) then x else acc) (0, 0)
  (s.setF Fld.TIM_WORST_ERR (toTwos 20 (roundRat (worst.2 / unit12)))).setF Fld.TIM_WORST_AGENT worst.1

/-- The Keeper holding LIT solves its rack from the records of a flash and writes the trims (R298). -/
def State.solveRack (s : State) (f : Nat) : State :=
  let sw := (List.range 16).filterMap fun p => (s.switchPhi f p).map fun q => (p, q)
  let ep := s.rackEndpoints.filterMap fun a => (s.endpointPhi f (addrIndex a) sw).map fun q => (addrIndex a, q)
  let s := { s with tim := { s.tim with phis := sw } }
  let s := (List.range 16).foldl (fun s p => s.trimAgent (s.switchAddr p) (lookupNat p sw)) s
  let s := s.rackEndpoints.foldl (fun s a => s.trimAgent a (lookupNat (addrIndex a) ep)) s
  s.showAgents (ep ++ sw.map fun x => (128 + x.1, x.2))

/-! ### Parents and estimates (R299, R300, R302) -/

/-- Steps along a ring of n from a to b by the shorter way. -/
def ringDist (n a b : Nat) : Nat := let d := if a ≤ b then b - a else a - b; min d (n - d)

/-- The direction of the parent along an axis: the step that lowers the distance, the minus one when both do (R299). -/
def parentDir (n a b axis : Nat) : Option Nat :=
  let d := ringDist n a b
  if d = 0 then none
  else if ringDist n ((a + n - 1) % n) b < d then some (2 * axis + 1)
  else if ringDist n ((a + 1) % n) b < d then some (2 * axis) else none

/-- The directions of the time parents toward the root rack (R299). -/
def State.parents (s : State) : List Nat :=
  let root := s.getF Fld.TIM_STATE_ROOT_RACK
  let sx := s.axes.1
  (parentDir sx s.rx (root % sx) 0).toList ++ (parentDir s.axes.2 s.ry (root / sx) 1).toList

/-- Time depth (R299). -/
def State.timeDepth (s : State) : Nat :=
  let root := s.getF Fld.TIM_STATE_ROOT_RACK
  ringDist s.axes.1 s.rx (root % s.axes.1) + ringDist s.axes.2 s.ry (root / s.axes.1)

/-- The Keeper serialises for the cluster: the time root (R299). -/
def State.isRoot (s : State) : Bool := s.isHead

/-- STATE of TIM_STATE. -/
def State.timeState (s : State) : Nat := s.getF Fld.TIM_STATE_STATE

/-- A source is usable: ALIGNED, HOLDOVER or ROOT (R299). -/
def usableSource (state : Nat) : Bool := state == 3 || state == 4 || state == 5

/-- The replies of this flash from a usable parent in a direction. -/
def State.parentExch (s : State) (d : Nat) : List TimExch :=
  let r := nbrRack s.axes.1 s.axes.2 s.myRack d
  s.tim.exch.filter fun x => addrKind x.src == 2 && s.rackOf x.src == r && usableSource x.state

/-- The reply with the smallest round trip. -/
def bestExch (xs : List TimExch) : Option TimExch :=
  xs.foldl (fun acc x => match acc with
    | none => some x
    | some y => if x.rtt < y.rtt then some x else some y) none

/-- The own offset against a reply's sender, in ps. -/
def TimExch.offset (x : TimExch) : Rat := -(x.theta2 : Rat) / 2 * (1000 / 256)

/-- A phase error of a report's granule 2, in ps (R296). -/
def phiOf (w : Word) : Rat := signedField w 0 20 * unit12

/-- The estimates of o(a, b) toward the parent in a direction: the direct port's, and one for each plane with valid records (R300). -/
def State.estimates (s : State) (d f : Nat) : List Rat :=
  let xs := s.parentExch d
  let direct := (bestExch (xs.filter fun x => x.port == 16 + d && s.portLit (16 + d))).map TimExch.offset
  let planes := match xs.find? fun x => x.repFlash == w32 f && !x.recs.isEmpty with
    | none => []
    | some x =>
      if ¬ s.lit then []
      else (List.range 16).filterMap fun p =>
        (offsetOf (s.timeRec (s.switchAddr p) (128 + d) f) (wordAt x.recs p)).bind fun o =>
          (lookupNat p s.tim.phis).map fun v => o - v + phiOf (wordAt x.phis p)
  direct.toList ++ planes

/-- The error toward one parent: the mean of the estimates left, none when fewer than MIN_PATHS remain; how many were used and excluded (R300). -/
def State.parentError (s : State) (d f : Nat) : Option Rat × Nat × Nat :=
  let es := s.estimates d f
  if es.isEmpty then (none, 0, 0)
  else
    let k := s.inliers es
    (if s.getF Fld.TIM_PARAMS_MIN_PATHS ≤ k.1.length then meanRat k.1 else none, k.1.length, k.2)

/-- The best reply of each of the rack's switches that is a usable source (R302). -/
def State.rackReplies (s : State) : List TimExch :=
  (List.range 16).filterMap fun p => bestExch (s.tim.exch.filter fun x => x.src == s.switchAddr p && usableSource x.state)

/-- Without LIT and without a usable parent: the own offset against the rack's switches (R302). -/
def State.rackError (s : State) : Option Rat × Nat :=
  let es := s.rackReplies.map TimExch.offset
  if s.lit || es.isEmpty then (none, 0) else let k := s.inliers es; (meanRat k.1, k.2)

/-! ### Steering and states (R301, R303, R305) -/

/-- A time state is entered: ALIGNED, HOLDOVER and FLOOR are raised; DEGRADED ends with HOLDOVER; the root's bound is 0 (R303, R312). -/
def State.enterTime (s : State) (st : Nat) : State :=
  let s := s.setF Fld.TIM_STATE_STATE st
  let s := { s with tim := { s.tim with lockRun := 0, holdRun := 0 } }
  let s := if st = 4 then s.raise Fld.TIM_INT_STATUS_HOLDOVER else s.setF Fld.TIM_STATE_DEGRADED 0
  let s := if st = 5 then s.setF Fld.TIM_ERR_BOUND_PS 0 else s
  let s := s.raiseIf (st == 3 || st == 5) Fld.TIM_INT_STATUS_ALIGNED
  s.raiseIf (st == 6) Fld.TIM_INT_STATUS_FLOOR

/-- The rate register takes a correction of c ps a flash; the agents take it by rack broadcast when it changes (R298, R301). -/
def State.setRate (s : State) (c : Rat) : State :=
  let lim : Rat := 200 * s.tim.periodUs
  let v := w32 (toTwos 32 (roundRat (clampRat lim c / (s.tim.periodUs * 1000000) * 2 ^ 40)))
  if v = s.getReg Reg.TIM_RATE then s
  else
    let s := s.setReg Reg.TIM_RATE v
    if s.lit then s.broadcast 0xA8 [v] 11 else s

/-- The correction of the coming flash from the error (R301). -/
def State.steer (s : State) (e : Option Rat) : State :=
  let lim : Rat := 200 * s.tim.periodUs
  let slew : Rat := s.getF Fld.TIM_PARAMS_MAX_SLEW_PPM * s.tim.periodUs
  match e with
  | none => s.setRate s.tim.iTerm
  | some q =>
    let i := clampRat lim (s.tim.iTerm - q / 64)
    ({ s with tim := { s.tim with iTerm := i } } : State).setRate (i - clampRat slew (q / 4))

/-- The transitions a boundary makes in LOCKING, ALIGNED and HOLDOVER (R303). -/
def State.timeStates (s : State) (e : Option Rat) : State :=
  let st := s.timeState
  match e with
  | none =>
    if st = 3 then s.enterTime 4
    else if st = 4 then { s with tim := { s.tim with holdRun := s.tim.holdRun + 1 } }
    else { s with tim := { s.tim with lockRun := 0 } }
  | some q =>
    if st = 4 then s.enterTime 2
    else if st = 2 then
      let run := if decide (|q| ≤ (5 : Rat)) then s.tim.lockRun + 1 else 0
      if 8 ≤ run then s.enterTime 3 else { s with tim := { s.tim with lockRun := run } }
    else s

/-- The time root follows head duty; a former root takes the rack of the Keeper that now serialises as the root rack (R299, R303, R305, log entry 121). -/
def State.followRoot (s : State) : State :=
  let st := s.timeState
  let s := if s.isRoot then s.setF Fld.TIM_STATE_ROOT_RACK s.myRack
    else if st = 5 then s.setF Fld.TIM_STATE_ROOT_RACK (s.rackOf s.headAddr) else s
  let s := s.setF Fld.TIM_STATE_DEPTH s.timeDepth
  if s.isRoot ∧ (st = 2 ∨ st = 3 ∨ st = 4) then s.enterTime 5
  else if ¬ s.isRoot ∧ st = 5 then s.enterTime 2 else s

/-- The Keeper counts as ready in time: not UNALIGNED, ACQUIRING or FLOOR, but for a head-rack Keeper during a cold start (R306, log entry 41). -/
def State.judgeTimeFit (s : State) : State :=
  let st := s.timeState
  let cold := st == 0 && s.inHeadRack && s.flag Fld.TIM_CTRL_COLD_EN
  s.setUnfit 2 ((st == 0 || st == 1 || st == 6) && !cold)

/-- Own steering at a boundary, from the records of the flash before the one that ends (R298 to R302). The root never steers: its correction is I as it
stood, DEDUCED from the case without e (R301, log entry 121). -/
def State.steerOwn (s : State) (f : Nat) : State :=
  let st := s.timeState
  if st = 2 ∨ st = 3 ∨ st = 4 then
    let ds := s.parents
    let rs := ds.map fun d => (d, s.parentError d f)
    let used := rs.filterMap fun r => r.2.1.map fun q => (r.1, q)
    let rack := s.rackError
    let e := if used.isEmpty then rack.1 else meanRat (used.map (·.2))
    let excl := (rs.map fun r => r.2.2.2).sum + (if used.isEmpty then rack.2 else 0)
    let bounds := if used.isEmpty then s.rackReplies.map (·.bound) else used.filterMap fun u => (bestExch (s.parentExch u.1)).map (·.bound)
    let s := (s.countReg Reg.TIM_OUTLIERS excl).raiseIf (excl != 0) Fld.TIM_INT_STATUS_OUTLIER
    let s := (s.setF Fld.TIM_PATHS_VALID (rs.map fun r => r.2.2.1).sum).setF Fld.TIM_PATHS_EXCLUDED excl
    let s := match e with
      | some q => (s.setF Fld.TIM_ERR_ERR (toTwos 20 (roundRat (q / unit12)))).setF Fld.TIM_ERR_BOUND_PS (min 255 (bounds.foldl max 0 + 1))
      | none => s
    (s.steer e).timeStates e
  else if st = 5 then s.setRate s.tim.iTerm else s

/-- TIM_PATHS shows the parents (R312). -/
def State.showParents (s : State) : State :=
  let rack := fun (axis : Nat) => match s.parents.find? fun d => d / 2 == axis with
    | some d => if s.isRoot then 0x3F else nbrRack s.axes.1 s.axes.2 s.myRack d
    | none => 0x3F
  (s.setF Fld.TIM_PATHS_PARENT_X (rack 0)).setF Fld.TIM_PATHS_PARENT_Y (rack 1)

/-! ### Exchanges (R296, R303) -/

/-- A TIME_EXCHANGE packet of this Keeper. -/
def State.timePacket (s : State) (dest : Addr) (tag : Nat) (ws : List Word) : Packet := mkPacket dest s.self 0 0 0 0 0x06 tag ws

/-- Word 0 of a TIME_EXCHANGE packet (R296). -/
def State.timeWord0 (s : State) (kind : Nat) (report : Bool) : Word :=
  fieldAt 0 2 kind ||| fieldAt 2 1 (b2n report) ||| fieldAt 4 3 s.timeState ||| fieldAt 8 4 (s.getF Fld.TIM_STATE_DEPTH)
    ||| fieldAt 12 6 (s.getF Fld.TIM_STATE_ROOT_RACK)

/-- A REQUEST goes out on a port; its tag is remembered (R296). T1 is written at the egress. -/
def State.sendRequest (s : State) (port : Nat) (dest : Addr) : State :=
  let tag := s.tim.nextTag % 4096
  let ws := [s.timeWord0 0 false] ++ List.replicate 9 (0 : Word) ++ [s.getReg Reg.TIM_RATE, fieldAt 0 8 (s.getF Fld.TIM_ERR_BOUND_PS)]
  let s := { s with tim := { s.tim with nextTag := (tag + 1) % 4096, requests := s.tim.requests ++ [(tag, s.tim.flash)] } }
  s.enqueue port (s.timePacket dest tag ws)

/-- The exchanges of a flash: with the time parents, without LIT with the rack's switches, with LIT with every UNALIGNED agent (R298, R302,
R303). -/
def State.sendRequests (s : State) : State :=
  if s.chart.lit.isNone then s
  else
    let s := { s with tim := { s.tim with exch := [], requests := s.tim.requests.filter fun r => s.tim.flash ≤ r.2 + 1 } }
    let s := if s.isRoot ∧ s.timeState = 5 then s
      else s.parents.foldl (fun s d => match s.hopPort d with
        | some p => s.sendRequest p (s.addrAt 2 (nbrRack s.axes.1 s.axes.2 s.myRack d) s.role)
        | none => s) s
    if s.lit then
      (s.rackAgents.filter fun a => (s.timAgent a).st == 0).foldl (fun s a =>
        match if addrKind a = 1 then some (addrIndex a) else s.lanternPlane (addrIndex a) with
        | some p => if s.portLit p then s.sendRequest p a else s
        | none => s) s
    else (List.range 16).foldl (fun s p => if s.portLit p then s.sendRequest p (s.switchAddr p) else s) s

/-- A TIME_EXCHANGE payload keeps its reserved fields 0 and its encodings defined (R17, R296). -/
def timeClean (len : Nat) (w : List Word) : Bool :=
  let k := bitsOf (wordAt w 0) 0 2
  k != 3 && bitsOf (wordAt w 0) 3 1 == 0 && bitsOf (wordAt w 0) 4 3 != 7 && bitsOf (wordAt w 0) 7 1 == 0 && bitsOf (wordAt w 0) 18 14 == 0
    && bitsOf (wordAt w 2) 16 16 == 0 && bitsOf (wordAt w 3) 25 7 == 0 && bitsOf (wordAt w 5) 16 16 == 0 && bitsOf (wordAt w 6) 25 7 == 0
    && bitsOf (wordAt w 8) 16 16 == 0 && bitsOf (wordAt w 9) 25 7 == 0 && bitsOf (wordAt w 11) 8 24 == 0
    && (wordAt w 13 == 0 && wordAt w 14 == 0 && wordAt w 15 == 0) && len == (if bitAt (wordAt w 0) 2 then 2 else 0)
    && ((List.range 16).all fun p => bitsOf (wordAt w (16 + p)) 29 3 == 0 && bitsOf (wordAt w (32 + p)) 20 12 == 0)

/-- A stamp of a payload as one count of 2^-8 ns. -/
def State.stampAt (s : State) (w : List Word) (i : Nat) : Int :=
  s.absTime (pairAt w i % 2 ^ 48) (bitsOf (wordAt w (i + 2)) 0 25)

/-- The REPLY to a REQUEST that came in on a port (R296): T1 echoed, T2 now, the report of the flash that ended for a neighbour's Keeper. T3
is written at the egress. -/
def State.answerTime (s : State) (port : Nat) (h : Hdr) (w : List Word) : State :=
  let f := s.tim.recFlash
  let dir := (List.range 4).find? fun d => addrKind h.src == 2 && s.rackOf h.src != s.myRack && nbrRack s.axes.1 s.axes.2 s.myRack d == s.rackOf h.src
  let base := [s.timeWord0 1 dir.isSome, wordAt w 1, wordAt w 2, wordAt w 3, loHalf s.tim.flash, fieldAt 0 16 (s.tim.flash / 2 ^ 32),
    fieldAt 0 25 s.tim.offset, 0, 0, 0, s.getReg Reg.TIM_RATE, fieldAt 0 8 (s.getF Fld.TIM_ERR_BOUND_PS), w32 f, 0, 0, 0]
  let report := match dir with
    | none => []
    | some d =>
      let recs := (List.range 16).map fun p => if s.lit then s.timeRec (s.switchAddr p) (128 + d) f else 0
      let phis := (List.range 16).map fun p => match if s.lit then lookupNat p s.tim.phis else none with
        | some q => fieldAt 0 20 (toTwos 20 (roundRat (q / unit12)))
        | none => 0
      recs ++ phis
  s.enqueue port (s.timePacket h.src (h.optag.toNat % 4096) (base ++ report))

/-- EV_TIMESTEP (R424). -/
def State.logStep (s : State) (kind : Nat) (back : Bool) (old new : Nat) : State :=
  s.logOwn 0x060 0x09 0 [fieldAt 0 2 kind ||| fieldAt 8 1 (b2n back), loHalf old, hiHalf old, loHalf new, hiHalf new]

/-- An UNALIGNED agent steps forward to the Keeper's time at its next boundary and counts as aligned from then on (R303, R456, log entry 42). -/
def State.stepAgent (s : State) (a : Addr) (theta2 : Int) : State :=
  let here := s.timeAt (s.now + theta2 / 2).toNat
  let at_ : Int := s.absTime (here.1 + 1) 0
  let target := s.timeAt (at_ - theta2 / 2).toNat
  let s := if theta2 < 0 then
      let s := s.mgmtWrite a 0xAC [loHalf target.1, fieldAt 0 16 (target.1 / 2 ^ 32), w32 target.2] 11 0 0x09 .upkeep
      (s.countReg Reg.TIM_STEPS 1).logStep 3 false here.1 0
    else s
  s.judgeAgent a 1

/-- A reply's exchange is taken (R300, R302, R303). -/
def State.takeExch (s : State) (x : TimExch) (root : Nat) : State :=
  let agent := addrKind x.src < 2
  if agent ∧ s.lit then if (s.timAgent x.src).st = 0 then s.stepAgent x.src x.theta2 else s
  else
    let s := { s with tim := { s.tim with exch := s.tim.exch ++ [x] } }
    let s := if agent ∨ s.isRoot then s else ({ s with tim := { s.tim with rootHeard := true } } : State).setF Fld.TIM_STATE_ROOT_RACK root
    if usableSource x.state then
      let s := { s with tim := { s.tim with noSource := 0, acqQuiet := 0 } }
      let s := if s.timeState = 0 then (s.enterTime 1) else s
      if s.timeState = 1 then { s with tim := { s.tim with acq := s.tim.acq ++ [(x.rtt, x.theta2)] } } else s
    else s

/-! ### Steps of the count (R290, R303, R304) -/

/-- The boundary opens the next flash, or the flash a forward step names (R289, R303, R304). -/
def State.openFlash (s : State) : State :=
  let old := s.tim.flash
  let next := old + 1
  match s.tim.step with
  | none => { s with tim := { s.tim with flash := next, offset := 0 } }
  | some (.by2 theta2) =>
    let at_ : Int := s.absTime next 0
    let t := ((2 * at_ + theta2) / 2).toNat
    let s := { s with tim := { s.tim with step := none, acq := [] } }
    let s := if 0 < theta2 then
        let s := { s with tim := { s.tim with flash := (s.timeAt t).1, offset := (s.timeAt t).2 } }
        ((s.logStep 0 false old 0).countReg Reg.TIM_STEPS 1).raise Fld.TIM_INT_STATUS_STEP
      else { s with tim := { s.tim with flash := next, offset := 0 } }
    s.enterTime (if s.isRoot then 5 else 2)
  | some (.cold f) =>
    let s := { s with tim := { s.tim with step := none, flash := max next f, offset := 0 } }
    let s := ((s.logStep 1 false old 0).countReg Reg.TIM_STEPS 1).raise Fld.TIM_INT_STATUS_STEP
    (s.setF Fld.TIM_STATE_COLD 1).enterTime 5

/-- The flash counters of acquisition at a boundary (R303, R304). -/
def State.countSilence (s : State) : State :=
  let heard := s.tim.exch.any fun x => usableSource x.state
  { s with tim := { s.tim with noSource := if heard then 0 else s.tim.noSource + 1,
                               acqQuiet := if s.timeState = 1 && !heard then s.tim.acqQuiet + 1 else 0 } }

/-- Fabric time's work at the boundary that ends a flash, before the count moves on (R294, R298 to R303). -/
def State.timeWork (s : State) : State :=
  let f := s.tim.flash - 1
  let s := if s.lit then s.solveRack f else s
  (((s.steerOwn f).countSilence).formRecords).followRoot.showParents

/-! ### Wall time (R310, R423) -/

/-- Wall time now: the newest change's value and the fabric time since, scaled; 0 before the first change (R310). -/
def State.wallNow (s : State) : Nat :=
  match s.tim.wall with
  | none => 0
  | some w =>
    let ns : Rat := ((s.now - s.absTime w.flash w.offset : Nat) : Rat) / 256
    (w.wall + (ns * (1 + (w.ppb : Rat) / 1000000000)).floor.toNat) % 2 ^ 64

/-- A wall change: the wall table takes an entry, and wall time runs from it (R310, R423). -/
def State.openWall (s : State) (wall : Nat) (ppb : Int) : State :=
  let change := (s.getReg Reg.LOG_WALL_CHANGE).toNat + 1
  let e : WallEnt := { flash := s.tim.flash, offset := s.tim.offset, change := change, wall := wall, ppb := ppb, back := decide (wall < s.wallNow) }
  let s := { s with tim := { s.tim with wall := some e }, log := { s.log with walls := insertNat (change % 1024) e s.log.walls } }
  s.setReg Reg.LOG_WALL_CHANGE (w32 change)

/-- WALL_PPB as written. -/
def State.wallPpb (s : State) : Int := signedField (s.getReg Reg.TIM_WALL_CTRL) 8 24

end Sys2Proof.Machine
end

