-- ==== Sys2Proof/Machine/TelOps.lean ====
section
/-! DEFINITION. Machine/TelOps.lean: map entries, gauges, frames, both rings, and the copies READ_LOADMAP makes (R315 to R328). -/
namespace Sys2Proof.Machine

/-! ### Map entries (R316, R317) -/

/-- A rate in per mille of a capacity; 0 for a link with no LIT time; at most 1,023. -/
def perMille (n d : Nat) : Nat := if d = 0 then 0 else min 1023 (n * 1000 / d)

/-- An entry's two words. -/
def entryWords (busy stall lanes discard coll lnt mgmt : Nat) : List Word :=
  [fieldAt 0 10 busy ||| fieldAt 10 10 stall ||| fieldAt 20 4 lanes ||| fieldAt 24 6 (min 63 discard),
   fieldAt 0 10 coll ||| fieldAt 10 10 lnt ||| fieldAt 20 10 mgmt]

/-- The entry of an agent without a report. -/
def norepEntry : List Word := [0x80000000, 0]

/-- The entry of one of the Keeper's own ports for the flash that ends. -/
def State.portEntry (s : State) (m : PortMeas) : List Word :=
  let p := s.port m.port
  let rate := fun i => perMille (p.sent.getD i 0) m.capacity
  entryWords (rate 0) (perMille m.stall s.flashUnits) (if p.st = .lit then popCount p.active 9 else 0) p.discards (rate 1) (rate 2) (rate 3)

/-- The entries of ports 0 to 19. -/
def State.ownEntries (s : State) (ms : List PortMeas) : List Word :=
  (List.range 20).flatMap fun n =>
    s.portEntry ((ms.find? fun m => m.port == n).getD { port := n, capacity := 0, stall := 0, symbols := 0, cor := [], uncor := [] })

/-! ### Gauges (R327) -/

/-- The instance with the highest level, the lowest number on a tie; (0, 0) where there is none. -/
def highest (xs : List (Nat × Nat)) : Nat × Nat :=
  xs.foldl (fun acc x => if acc.1 < x.1 then x else acc) (0, (xs.map (·.2)).headD 0)

/-- The pools of a resource in the lit chart. -/
def State.poolsOf (s : State) (resource : Nat) : List Pool :=
  match s.chart.lit with
  | some c => c.pools.filter fun p => p.resource == resource
  | none => []

/-- Lantern contexts of this rack held by plans or reserved for bound slices. -/
def State.lntHeld (s : State) : List Nat := (s.lnt.ctxs.map (·.num) ++ s.clp.lntSlices.flatMap (·.2)).dedup

/-- Levels of the Lantern pools. -/
def State.lntLevels (s : State) : List (Nat × Nat) :=
  match s.chart.lit with
  | none => []
  | some c => (s.poolsOf 3).map fun p =>
    let r := c.poolRange 3 p.pool
    (perMille (s.lntHeld.filter fun n => r.1 ≤ n && n < r.2).length p.count, p.pool)

/-- Collective contexts that bound slices of a pool hold in reserve beyond their plans (R173). -/
def State.ctxReserved (s : State) (pool : Nat) : Nat :=
  (s.slc.table.map fun e => match e.lay with
    | some l =>
      if l.view.cls ≠ 0 ∧ l.view.racks.contains s.myRack then
        match s.template l.view.template with
        | some u => if u.ctxPool = pool then u.maxCtx - (s.clp.plans.filter fun p => p.slice == e.id).length else 0
        | none => 0
      else 0
    | none => 0).sum

/-- Levels of the context pools. -/
def State.ctxLevels (s : State) : List (Nat × Nat) :=
  match s.chart.lit with
  | none => []
  | some c => (s.poolsOf 4).map fun p =>
    let r := c.poolRange 4 p.pool
    (perMille ((s.clp.plans.filter fun q => r.1 ≤ q.ctx && q.ctx < r.2).length + s.ctxReserved p.pool) p.count, p.pool)

/-- Units reserved by the plans of OPEN slices, and by those of one bound slice. -/
def State.heldOpen (s : State) (f : Plan → Nat) : Nat := ((s.clp.plans.filter fun p => !s.isFixed p.slice).map f).sum
/-- Units reserved by the plans of one slice. -/
def State.heldSlice (s : State) (slice : Nat) (f : Plan → Nat) : Nat := ((s.clp.plans.filter fun p => p.slice == slice).map f).sum

/-- Levels of the lamp-store or spill regions: the shared one, then the bound seats, each slice's regions taken together. -/
def State.seatLevels (s : State) (f : Plan → Nat) (perSeat shared : Nat) : List (Nat × Nat) :=
  (s.slc.table.filterMap fun e =>
    let seats := s.lampSeats e.id
    if s.isFixed e.id ∧ ¬ seats.isEmpty then some (perMille (s.heldSlice e.id f) (seats.length * perSeat), seats.foldl min 63) else none)
  ++ [(perMille (s.heldOpen f) (shared + (64 - s.boundSeats.length) * perSeat), 0xFF)]

/-- Levels of the switches' reduction memory: the shared part, then the bound slices' parts. -/
def State.switchLevels (s : State) : List (Nat × Nat) :=
  (List.range 16).map fun p =>
    let total := redmemUnits (s.switchOf s.myRack p)
    let used := fun (q : Plan) => if q.planes.testBit p then q.switchUnits else 0
    let open_ := perMille (s.heldOpen used) (total - total * s.boundSeats.length / 64)
    let fixed := s.slc.table.map fun e => if s.isFixed e.id then perMille (s.heldSlice e.id used) (total * (s.lampSeats e.id).length / 64) else 0
    (fixed.foldl max open_, p)

/-- Levels of the sweep pools. -/
def State.sweepLevels (s : State) (cycles : List (Nat × Nat)) : List (Nat × Nat) :=
  (s.poolsOf 1).map fun p => (perMille ((lookupNat p.pool cycles).getD 0) (s.sweepLanes p.pool * 2000 * s.tim.periodUs), p.pool)

/-- LEVEL and WHERE of the nine gauges for the flash that ends; gauge 2 waits for the endpoints' reports. -/
def State.gaugeLevels (s : State) (cycles : List (Nat × Nat)) : List (Nat × Nat) :=
  let members := (s.tel.counts.map fun c => c.members.length).sum
  let done := (s.tel.counts.map (·.agxc)).sum
  [highest s.lntLevels, highest s.ctxLevels, (0, 0), highest (s.seatLevels (·.storeUnits) 49152 0), highest s.switchLevels,
   (perMille s.lmp.spillUnits (43750 * s.tim.periodUs), 0), highest (s.seatLevels (·.spillUnits) 8388608 268435456),
   highest (s.sweepLevels cycles), (perMille members done, 0)]

/-- What telemetry takes of the flash that ends. -/
def State.takeOwn (s : State) (m : FlashMeas) : TelOwn :=
  { flash := s.tim.flash, entries := s.ownEntries m.ports, levels := s.gaugeLevels m.sweep, counts := s.tel.counts,
    views := s.slv.lit.slices }

/-! ### Lags and stragglers (R274, R275, R319) -/

/-- The lag records of a switch report: context, member, sum. -/
def lagRecords : Nat → List Word → List (Nat × Nat × Nat)
  | 0, _ => []
  | n + 1, ws =>
    if ws.length < 5 then []
    else ((List.range 4).map fun i => (bitsOf (wordAt ws 0) 0 11, bitsOf (wordAt ws (i + 1)) 0 14, bitsOf (wordAt ws (i + 1)) 16 16))
      ++ lagRecords n (ws.drop 5)

/-- Lag sums of a plan's members: the switches' sums, then the own Keeper steps' on the member of the rack blamed (R319). -/
def State.memberLags (s : State) (p : Plan) (recs : List (Nat × Nat × Nat)) : List (Nat × Nat) :=
  let one := (recs.filter fun r => r.1 == p.ctx && r.2.2 != 0).foldl (fun acc r => insertNat r.2.1 ((lookupNat r.2.1 acc).getD 0 + r.2.2) acc) []
  let ms := (planDesc p.desc).members
  p.prevLags.foldl (fun acc (l : Nat × Nat) =>
    let here := (List.range ms.length).filter fun i => s.rackOfEn (ms.getD i 0) == l.1
    let seen := one.filter fun x => here.contains x.1
    let best := seen.foldl (fun (b : Option (Nat × Nat)) x => match b with
      | some y => if y.2 < x.2 then some x else b
      | none => some x) none
    match (best.map (·.1)).or here.head? with
    | some i => if l.2 = 0 then acc else insertNat i ((lookupNat i acc).getD 0 + l.2) acc
    | none => acc) one

/-- The member with the largest sum, the lower index on a tie. -/
def worstLag (lags : List (Nat × Nat)) : Option (Nat × Nat) :=
  lags.foldl (fun (b : Option (Nat × Nat)) x => match b with
    | some y => if y.2 < x.2 then some x else b
    | none => some x) none

/-- A plan's straggler of the flash; the run of flashes in a row above STRAG_NS; a flash without a launch is skipped (R274, R275). -/
def Plan.judgeLag (p : Plan) (lags : List (Nat × Nat)) (running : Bool) (ns : Nat) : Plan :=
  match worstLag lags with
  | some x =>
    let above := decide (ns < 16 * x.2)
    { p with straggler := x.1, stragLag := min 65535 x.2,
             stragRun := if above then (if p.straggler = x.1 ∧ p.stragRun ≠ 0 then p.stragRun + 1 else 1) else 0 }
  | none => if running then { p with straggler := 0, stragLag := 0, stragRun := 0 } else { p with stragLag := 0 }

/-- A straggler record. -/
def stragWords (ctx slice member lag : Nat) : List Word :=
  [fieldAt 0 11 ctx ||| fieldAt 16 8 slice, fieldAt 0 14 member ||| fieldAt 16 16 (min 65535 lag)]

/-- Straggler records in descending LAG (context, slice, member, lag). -/
def insertLag (x : Nat × Nat × Nat × Nat) : List (Nat × Nat × Nat × Nat) → List (Nat × Nat × Nat × Nat)
  | [] => [x]
  | y :: rest => if y.2.2.2 < x.2.2.2 then x :: y :: rest else y :: insertLag x rest

/-! ### Frames (R318) -/

/-- Words padded with zeros, or cut, to a length. -/
def padTo (n : Nat) (ws : List Word) : List Word := (ws ++ List.replicate (n - ws.length) 0).take n

/-- Word indices of a frame's sections. -/
def frSlices : Nat := 8448
/-- Gauges. -/
def frGauges : Nat := 9472
/-- Stragglers. -/
def frStrags : Nat := 9728
/-- Words of a frame. -/
def frWords : Nat := 10240

/-- A frame from its sections. -/
def frameOf (header entries slices gauges strags : List Word) : List Word :=
  padTo 16 header ++ padTo 8432 entries ++ padTo 1024 slices ++ padTo 256 gauges ++ padTo 512 strags

/-- The header words of a frame. -/
def frameHeader (flash rack norep period covered : Nat) (coarse trunc : Bool) : List Word :=
  [loHalf flash, fieldAt 0 16 (flash / 2 ^ 32), fieldAt 0 6 rack ||| fieldAt 17 1 (b2n coarse) ||| fieldAt 18 1 (b2n trunc), fieldAt 0 8 norep,
   fieldAt 0 7 period, w32 covered]

/-- A slice record. -/
def sliceWords (slice : Nat) (vs : List Nat) : List Word := padTo 16 ((fieldAt 0 8 slice ||| fieldAt 8 1 1) :: vs.map fun v => w32 (min v (2 ^ 32 - 1)))

/-- The report of an agent for a flash among those kept. -/
def State.reportWords (s : State) (a : Addr) (f : Nat) : Option (List Word) := (s.report a f).map (·.words)

/-- The three discard counts of a switch port in a report: UNROUTE, MISMATCH, SOURCE. -/
def discardsAt (ws : List Word) (port : Nat) : Nat × Nat × Nat :=
  let w := wordAt ws (268 + port)
  (bitsOf w 0 10, bitsOf w 10 10, bitsOf w 20 10)

/-- The record of a slice for flash f. -/
def State.sliceRecord (s : State) (own : TelOwn) (f : Nat) (lagOf : Nat → Nat) (id : Nat) : List Word :=
  let idx := match own.views.find? fun v => v.id == id with
    | some v => bitIndices ((lookupNat s.myRack v.members).getD 0) 128
    | none => []
  let ds := idx.flatMap fun i => s.rackSwitches.filterMap fun a => (s.reportWords a f).map fun ws => discardsAt ws i
  let retx := (idx.map fun i => match s.reportWords (s.epAddr i) f with
    | some ws => bitsOf (wordAt ws 48) 0 16
    | none => 0).sum
  let c := (own.counts.find? fun x => x.slice == id).getD { slice := id, bytes := 0, members := [], launches := 0, agxc := 0 }
  sliceWords id [(ds.map fun d => d.1 + d.2.1).sum, (ds.map fun d => d.2.2).sum, retx, c.bytes, c.members.length, c.launches, lagOf id]

/-- The frame of the flash that telemetry took last, from its reports; the plans' stragglers and the source-check discards with it (R177, R315, R318, R319). -/
def State.makeFrame (s : State) (own : TelOwn) : State :=
  let f := own.flash
  let agents := s.rackAgents
  let norep := (agents.filter fun a => (s.report a f).isNone).length
  let sw := s.rackSwitches.flatMap fun a => match s.reportWords a f with
    | some ws => padTo 268 (ws.take 268)
    | none => (List.replicate 134 norepEntry).flatten
  let eps := (List.range 128).flatMap fun i => match s.reportWords (s.epAddr i) f with
    | some ws => padTo 32 (ws.take 32)
    | none => if agents.contains (s.epAddr i) then (List.replicate 16 norepEntry).flatten else List.replicate 32 0
  let ds := s.rackSwitches.filterMap fun a => s.reportWords a f
  let recs := ds.flatMap fun ws => lagRecords 64 (ws.drop 536)
  let lags := s.clp.plans.map fun p => (p, s.memberLags p recs)
  let lagOf := fun id => (lags.map fun x => if x.1.slice = id then (x.2.map (·.2)).sum else 0).sum
  let strags := lags.foldl (fun acc x => match worstLag x.2 with
    | some m => insertLag (x.1.ctx, x.1.slice, m.1, m.2) acc
    | none => acc) []
  let ids := (own.views.map (·.id)).filter fun id => s.touches id s.myRack
  let fills := s.rackEndpoints.filterMap fun a => (s.reportWords a f).map fun ws => (bitsOf (wordAt ws 49) 0 10, addrIndex a)
  let levels := modifyAt (fun _ => highest fills) 2 own.levels
  let words := frameOf (frameHeader f s.myRack norep s.tim.periodUs 1 false (decide (256 < strags.length)))
    (sw ++ eps ++ own.entries)
    ((((List.range 256).filter ids.contains).take 64).flatMap (s.sliceRecord own f lagOf))
    (levels.map fun g => fieldAt 0 10 g.1 ||| fieldAt 24 8 g.2)
    ((strags.take 256).flatMap fun x => stragWords x.1 x.2.1 x.2.2.1 x.2.2.2)
  let ns := s.getF Fld.CLP_STRAG_CTRL_STRAG_NS
  let plans := s.clp.plans.map fun p => p.judgeLag (((lags.find? fun x => x.1.ctx == p.ctx).map (·.2)).getD []) (s.launchOpen p) ns
  let sum := fun (g : Nat × Nat × Nat → Nat) => (ds.flatMap fun ws => (List.range 134).map fun i => g (discardsAt ws i)).sum
  let sources := sum (·.2.2)
  let s := (s.countReg Reg.WDN_SOURCE_DISCARD sources).raiseIf (sources != 0) Fld.WDN_INT_STATUS_SOURCE
  { s with clp := { s.clp with plans := plans },
           tel := { s.tel with making := some { flash := f, frame := { words := words, views := own.views }, unroute := sum (·.1), mismatch := sum (·.2.1) } } }

/-! ### Publication and the rings (R315, R320, R328) -/

/-- Frames of the fine ring: 98,304 less what withdrawn memory took (R320, R414). -/
def State.fineSize (s : State) : Nat := if s.rst.withdrawn = 0 then 98304 else 45876

/-- The flash of a frame. -/
def Frame.flash (f : Frame) : Nat := pairAt f.words 0 % 2 ^ 48

/-- A ring with a frame written to a slot. -/
def putFrame (slot : Nat) (f : Frame) (ring : List (Nat × Frame)) : List (Nat × Frame) := insertNat slot f ring

/-- The mean entry of a window (R320): means of the rates, the lowest LANES, the sum of DISCARD, NOREP where any frame has it. -/
def meanEntry (fs : List Frame) (k : Nat) : List Word :=
  let n := max 1 fs.length
  let w0 := fs.map fun f => wordAt f.words (16 + 2 * k)
  let w1 := fs.map fun f => wordAt f.words (17 + 2 * k)
  let mean := fun (ws : List Word) lo => (ws.map fun w => bitsOf w lo 10).sum / n
  [fieldAt 0 10 (mean w0 0) ||| fieldAt 10 10 (mean w0 10) ||| fieldAt 20 4 ((w0.map fun w => bitsOf w 20 4).foldl min 15)
    ||| fieldAt 24 6 (min 63 (w0.map fun w => bitsOf w 24 6).sum) ||| fieldAt 31 1 (b2n (w0.any fun w => bitAt w 31)),
   fieldAt 0 10 (mean w1 0) ||| fieldAt 10 10 (mean w1 10) ||| fieldAt 20 10 (mean w1 20)]

/-- The records of a slice in a frame, as their words 1 to 7. -/
def Frame.sliceRec (f : Frame) (id : Nat) : Option (List Nat) :=
  ((List.range 64).find? fun i => wordAt f.words (frSlices + 16 * i) == (fieldAt 0 8 id ||| fieldAt 8 1 1)).map fun i =>
    (List.range 7).map fun k => (wordAt f.words (frSlices + 16 * i + 1 + k)).toNat

/-- The straggler records of a frame: context, slice, member, lag. -/
def Frame.strags (f : Frame) : List (Nat × Nat × Nat × Nat) :=
  ((List.range 256).map fun i =>
    let a := wordAt f.words (frStrags + 2 * i)
    let b := wordAt f.words (frStrags + 2 * i + 1)
    (bitsOf a 0 11, bitsOf a 16 8, bitsOf b 0 14, bitsOf b 16 16)).filter fun x => x.2.2.2 != 0

/-- A lag added to the sum of its context and member. -/
def addLag (x : Nat × Nat × Nat × Nat) (acc : List (Nat × Nat × Nat × Nat)) : List (Nat × Nat × Nat × Nat) :=
  if acc.any fun y => y.1 == x.1 && y.2.2.1 == x.2.2.1 then
    acc.map fun y => if y.1 = x.1 ∧ y.2.2.1 = x.2.2.1 then (y.1, y.2.1, y.2.2.1, y.2.2.2 + x.2.2.2) else y
  else acc ++ [x]

/-- The coarse frame of a window from the fine frames held of it, oldest first (R320). -/
def coarseFrame (rack period first : Nat) (fs : List Frame) : Frame :=
  let ids := (List.range 256).filter fun id => fs.any fun f => (f.sliceRec id).isSome
  let slices := (ids.take 64).flatMap fun id => sliceWords id ((List.range 7).map fun k => (fs.map fun f => ((f.sliceRec id).getD []).getD k 0).sum)
  let gauges := (List.range 9).map fun g => fs.foldl (fun (acc : Word) f =>
    let w := wordAt f.words (frGauges + g)
    if bitsOf acc 0 10 < bitsOf w 0 10 then w else acc) ((fs.head?.map fun f => wordAt f.words (frGauges + g)).getD 0)
  let sums := (fs.flatMap Frame.strags).foldl (fun acc x => addLag x acc) []
  let strags := sums.foldl (fun acc x => insertLag x acc) []
  let norep := (fs.map fun f => bitsOf (wordAt f.words 3) 0 8).foldl max 0
  let trunc := decide (256 < strags.length) || fs.any fun f => bitAt (wordAt f.words 2) 18
  { words := frameOf (frameHeader first rack norep period 1024 true trunc) ((List.range 4212).flatMap (meanEntry fs)) slices gauges
      ((strags.take 256).flatMap fun x => stragWords x.1 x.2.1 x.2.2.1 x.2.2.2),
    views := (fs.getLast?.map (·.views)).getD [] }

/-- The window that a frame ends is written as a coarse frame (R320). -/
def State.writeCoarse (s : State) (flash : Nat) : State :=
  let k := flash / 1024
  let fs := ((s.tel.fine.map (·.2)).filter fun f => f.flash / 1024 == k && f.flash != 0).foldl (fun acc f => f :: acc) []
  if flash % 1024 = 1023 ∧ s.flag Fld.TEL_CTRL_COARSE_EN ∧ ¬ fs.isEmpty then
    let sorted := (List.range 1024).filterMap fun i => fs.find? fun f => f.flash == k * 1024 + i
    let s := { s with tel := { s.tel with coarse := putFrame (k % 65536) (coarseFrame s.myRack s.tim.periodUs (k * 1024) sorted) s.tel.coarse } }
    s.setF Fld.TEL_COARSE_INDEX_SLOT (k % 65536)
  else s

/-- Gauge g as published (R328, R330). -/
def State.showGauge (s : State) (w : Word) (g : Nat) : State :=
  let level := bitsOf w 0 10
  let peak := max level (bitsOf (s.getReg (Reg.TEL_GAUGE g)) 12 10)
  let s := s.setReg (Reg.TEL_GAUGE g) (fieldAt 0 10 level ||| fieldAt 12 10 peak ||| fieldAt 24 8 (bitsOf w 24 8))
  let hot := decide (s.getF Fld.TEL_SAT_CTRL_WARN_PM ≤ level)
  let s := { s with tel := { s.tel with runs := modifyAt (fun r => if hot then r + 1 else 0) g s.tel.runs } }
  if hot then s else s.setReg Reg.TEL_SAT_STATUS (s.getReg Reg.TEL_SAT_STATUS &&& ~~~ w32 (1 <<< g))

/-- The map of a flash is published (R315): registers, events, the fine ring, and the coarse one at a window's end. -/
def State.publishFrame (s : State) (b : TelBatch) : State :=
  let ws := b.frame.words
  let s := (s.setReg Reg.TEL_LAST_FLASH_LO (loHalf b.flash)).setReg Reg.TEL_LAST_FLASH_HI (fieldAt 0 16 (b.flash / 2 ^ 32))
  let norep := bitsOf (wordAt ws 3) 0 8
  let s := (s.setF Fld.TEL_NOREP_COUNT norep).raiseIf (norep != 0) Fld.TEL_INT_STATUS_NOREP
  let s := s.raiseIf (bitAt (wordAt ws 2) 18) Fld.TEL_INT_STATUS_STRAG_TRUNC
  let s := (s.countReg Reg.TEL_UNROUTABLE b.unroute).countReg Reg.TEL_MISMATCH b.mismatch
  let s := (List.range 9).foldl (fun s g => s.showGauge (wordAt ws (frGauges + g)) g) s
  if s.flag Fld.TEL_CTRL_HIST_EN then
    let slot := b.flash % s.fineSize
    let s := { s with tel := { s.tel with fine := putFrame slot b.frame s.tel.fine } }
    (s.setF Fld.TEL_FINE_INDEX_SLOT slot).writeCoarse b.flash
  else s.writeCoarse b.flash

/-- Telemetry at the boundary that ends a flash: the batch in progress is published, the reports that came in make the next frame, and what the
flash left is taken (R315). A Keeper without LIT builds no map (R313). -/
def State.telBoundary (s : State) (m : FlashMeas) : State :=
  let s := match s.tel.making with
    | some b => { s.publishFrame b with tel := { (s.publishFrame b).tel with making := none } }
    | none => s
  let s := if s.lit then match s.tel.own with
      | some own => if own.flash + 1 = s.tim.flash then s.makeFrame own else s
      | none => s
    else s
  let own := if s.lit then some (s.takeOwn m) else none
  { s with tel := { s.tel with own := own, counts := [], reports := s.tel.reports.filter fun r => s.tim.flash ≤ r.flash.toNat + 1 },
           clp := { s.clp with plans := s.clp.plans.map fun p => { p with prevLags := p.lags, lags := [] } } }

/-! ### READ_LOADMAP (R322 to R326) -/

/-- An entry with its management share taken out (R325). -/
def unmanaged (w0 w1 : Word) : List Word := [putBits w0 0 10 (bitsOf w0 0 10 - bitsOf w1 20 10), putBits w1 20 10 0]

/-- A masked entry. -/
def maskedEntry : List Word := [0x40000000, 0]

/-- What a filtered read does to entry k of a frame: kept less MGMT for the slice's endpoints and for cables owned by it or its tenant, masked
otherwise (R325). -/
def Frame.filterEntry (f : Frame) (sx sy rack slice k : Nat) : List Word :=
  let keep := match f.views.find? fun v => v.id == slice with
    | none => false
    | some v =>
      if k < 2144 then
        let sw := k / 134
        let port := k % 134
        if port < 128 then v.has rack port
        else if port < 132 then match ownerIn f.views (cableOf sx sy rack sw (port - 128)) with
          | .sealed n => n == slice
          | .tenant t _ => t == v.tenant
          | .free => false
        else false
      else if k < 4192 then v.has rack ((k - 2144) / 16) else false
  if keep then unmanaged (wordAt f.words (16 + 2 * k)) (wordAt f.words (17 + 2 * k)) else maskedEntry

/-- A frame filtered for a slice (R325). -/
def Frame.filter (f : Frame) (sx sy rack slice : Nat) : List Word :=
  let h := f.words.take 16
  let w2 := wordAt h 2 ||| fieldAt 8 8 slice ||| fieldAt 16 1 1
  let rec0 := match f.sliceRec slice with
    | some vs => sliceWords slice vs
    | none => []
  let strags := (f.strags.filter fun x => x.2.1 == slice).flatMap fun x => stragWords x.1 x.2.1 x.2.2.1 x.2.2.2
  frameOf (modifyAt (fun _ => w2) 2 h) ((List.range 4212).flatMap (f.filterEntry sx sy rack slice)) rec0 [] strags

/-- Frames in ascending flash. -/
def insertFrame (f : Frame) : List Frame → List Frame
  | [] => [f]
  | g :: rest => if f.flash < g.flash then f :: g :: rest else g :: insertFrame f rest

/-- The frames a read selects: from FIRST on, or the newest, oldest first (R322). -/
def selectFrames (ring : List (Nat × Frame)) (first count : Nat) : List Frame :=
  let fs := ((ring.map (·.2)).filter fun f => f.flash != 0).foldl (fun acc f => insertFrame f acc) []
  if first = 0 then fs.drop (fs.length - count) else (fs.filter fun f => first ≤ f.flash).take count

/-- READ_LOADMAP on its committed copy. -/
def cmdReadLoadmap (w : Nat) (s : State) : State :=
  let slice := bitsOf (s.arg w 1) 0 8
  let coarse := bitAt (s.arg w 1) 8
  let first := (s.arg w 2).toNat + bitsOf (s.arg w 3) 0 16 * 2 ^ 32
  let count := (s.arg w 4).toNat
  let addr := (s.arg w 5).toNat + (s.arg w 6).toNat * 2 ^ 32
  let len := (s.arg w 7).toNat
  let reserved := bitsOf (s.arg w 1) 9 23 != 0 || bitsOf (s.arg w 3) 16 16 != 0
  let sel := selectFrames (if coarse then s.tel.coarse else s.tel.fine) first count
  let no := fun (s : State) r => s.complete w 0x0B r [0, 0, 0, fieldAt 0 8 r] false
  if count = 0 ∨ count > 1024 then s.refuse w 2 4
  else if addr % 64 ≠ 0 then s.refuse w 2 5
  else if slice ≠ 0 ∧ (s.sliceState slice = 0 ∨ ¬ s.touches slice s.myRack) then no s 1
  else if reserved then no s 2
  else if sel.isEmpty then no s 3
  else if len < count * 40960 then no s 4
  else if ¬ s.flag Fld.HIF_CTRL_DMA_EN then (s.dmaErr w 5).refuse w 4 5
  else
    let born := if slice = 0 then 0 else match s.slice slice with
      | some r => r.born
      | none => 0
    let out := sel.filter fun f => born ≤ f.flash
    let missed := sel.length - out.length
    let words := out.flatMap fun f => if slice = 0 then f.words else f.filter s.axes.1 s.axes.2 s.myRack slice
    let s := if words.isEmpty then s else s.dmaWrite addr words
    let s := (s.setReg Reg.TEL_LAST_READ (fieldAt 0 16 out.length ||| fieldAt 16 16 missed)).raiseIf (missed != 0) Fld.TEL_INT_STATUS_READ_MISSED
    let at_ := (out.head?.map (·.flash)).getD 0
    s.complete w 0 0 [fieldAt 0 16 out.length ||| fieldAt 16 16 missed, loHalf at_, fieldAt 0 16 (at_ / 2 ^ 32), 0] false

end Sys2Proof.Machine
end

