-- ==== Sys2Proof/Machine/AgentReport.lean ====
section
/-! DEFINITION. Machine/AgentReport.lean: an agent's flash boundary: ports, load report, resends (R63, R264, R274, R294, R313, R314, R316, R440,
R446, R456, R460). -/
namespace Sys2Proof.Machine

/-! ### The load report (R314) -/

/-- What a port measured in the flash; a port not named measured nothing. -/
def measOf (ms : List AgPortMeas) (n : Nat) : Option AgPortMeas := ms.find? fun m => m.port == n

/-- The map entry of a port for the flash that ends, with its discards (R316, R317). -/
def State.agEntry (s : State) (p : AgPort) (m : Option AgPortMeas) (discard : Nat) : List Word :=
  match m with
  | none => entryWords 0 0 0 discard 0 0 0
  | some m =>
    let rate := fun i => perMille (p.sent.getD i 0) m.capacity
    entryWords (rate 0) (perMille m.stall s.flashUnits) (if m.st = 4 then m.lanes else 0) discard (rate 1) (rate 2) (rate 3)

/-- The link time record of a port; an FA2 agent's low four bits of a sample are 0 (R294, R308). -/
def State.agTimeRecord (s : State) (m : Option AgPortMeas) : Word :=
  match m with
  | none => 0
  | some m =>
    let mean := if m.samples = 0 then 0 else m.sum * 16 / m.samples
    let valid := decide (s.getF Fld.TIM_PARAMS_FILL_SAMPLES ≤ m.samples) && m.clean && decide (0 < m.samples)
    fieldAt 0 20 mean ||| fieldAt 20 8 (min 255 (m.samples / 16)) ||| fieldAt 28 1 (b2n valid)

/-- Insertion of a lag in descending order, the lower member first on a tie. -/
def insertTop (x : Nat × Nat) : List (Nat × Nat) → List (Nat × Nat)
  | [] => [x]
  | y :: ys => if y.2 < x.2 ∨ (y.2 = x.2 ∧ x.1 < y.1) then x :: y :: ys else y :: insertTop x ys

/-- A programme's four members with the largest lag sums, in units of 16 ns (R314, R319). -/
def AgProg.lagWords (p : AgProg) : List Word :=
  let top := (p.lags.foldl (fun acc x => insertTop x acc) []).take 4
  w32 p.ctx :: (List.range 4).map fun i => match top[i]? with
    | some x => fieldAt 0 14 x.1 ||| fieldAt 16 16 (min 65535 (x.2 / 4096))
    | none => 0

/-- The largest lag sum of a programme. -/
def AgProg.topLag (p : AgProg) : Nat := (p.lags.map (·.2)).foldl max 0

/-- The programmes with lag, by their largest sum, at most 64 (R319). -/
def lagProgs (ps : List AgProg) : List AgProg :=
  let order := (ps.zipIdx.map fun x => (x.2, x.1.topLag)).filter fun x => x.2 != 0
  ((order.foldl (fun acc x => insertTop x acc) []).take 64).filterMap fun x => ps[x.1]?

/-- The body of the load report (R314). -/
def State.reportBody1 (s : State) (g : Agent) (ms : List AgPortMeas) : List Word :=
  let ports := List.range (agentPorts g.addr)
  let times := ports.map fun n => s.agTimeRecord (measOf ms n)
  if isSwitch g.addr then
    (ports.flatMap fun n => let p := g.port n; s.agEntry p (measOf ms n) (p.unroute + p.mismatch + p.source + p.refused))
      ++ (ports.map fun n =>
        let p := g.port n
        fieldAt 0 10 (min 1023 p.unroute) ||| fieldAt 10 10 (min 1023 p.mismatch) ||| fieldAt 20 10 (min 1023 p.source))
      ++ times ++ (lagProgs g.progs).flatMap AgProg.lagWords
  else
    (ports.flatMap fun n => s.agEntry (g.port n) (measOf ms n) (g.nosend + (g.port n).mismatch + (g.port n).refused)) ++ times
      ++ [fieldAt 0 16 (min 65535 g.retx) ||| fieldAt 16 16 (min 65535 g.nosend), fieldAt 0 10 g.fill]

/-- The load report for the flash that ends leaves; it is not acknowledged (R313, R445). -/
def State.sendReport (s : State) (a : Addr) (flash : Nat) (body : List Word) : State :=
  let g := s.agent a
  let e : KeptEvent := { seq := g.nextSeq, cls := 0x01, flash := g.flash, offset := agentOffset a s.tim.offset, subject := flash, arg := 0, body := body, sends := 1 }
  (s.onAgent a fun g => { g with nextSeq := (g.nextSeq + 1) % 4096 }).sendEvent a e

/-! ### Ports -/

/-- A port as its measure shows it. -/
def AgPort.measured (p : AgPort) (m : AgPortMeas) : AgPort :=
  { p with st := m.st, lanes := m.lanes, found := m.found, active := m.active, failed := m.failed, parked := m.parked, hcrc := p.hcrc + m.hcrc,
           fcs := p.fcs + m.fcs, eg := { p.eg with resyncing := p.eg.resyncing && (m.st == 4 || m.st == 5) } }

/-- A credit resync of an agent's port starts: RESYNC_MARK after its last packet, no new packet until the grant (R95). -/
def State.agResync (s : State) (a : Addr) (n : Nat) : State :=
  (s.onAgent a fun g => g.onPort n fun p => { p with eg := { p.eg with resyncing := true } }).agLcb a n 0x02 0

/-- Ports take their new states; changed ones are reported; a port that returns to LIT, changes lanes or received a wrong HCRC runs a credit resync,
one that carries nothing ends it (R95, R445). -/
def State.agPortsNow (s : State) (a : Addr) (ms : List AgPortMeas) : State :=
  let g := s.agent a
  let changed := ms.filter fun m => let p := g.port m.port; p.st != m.st || p.lanes != m.lanes
  let due := ms.filter fun m => let p := g.port m.port; m.st == 4 && (p.st != 4 || p.lanes != m.lanes || m.hcrc != 0)
  let s := ms.foldl (fun s m => s.agFill a m.port) s
  let s := s.onAgent a fun g => ms.foldl (fun (g : Agent) m => g.onPort m.port fun p => p.measured m) g
  let s := if changed.isEmpty then s
    else s.agentEvent a 0x02 (s.agent a).flash (w32 changed.length)
      (changed.map fun m => fieldAt 0 8 m.port ||| fieldAt 8 4 ((s.agent a).port m.port).state ||| fieldAt 12 4 m.lanes)
  due.foldl (fun s m => s.agResync a m.port) s

/-! ### Resends (R264) -/

/-- A packet was last sent RETX_US or more ago. -/
def Agent.overdue (g : Agent) (now : Nat) (x : SentPkt) : Bool := decide (x.stamp + bitsOf (g.word 0x1C) 0 8 * 256000 ≤ now)

/-- Sends of a packet whose flow was reported broken: it is not sent again. -/
def brokenMark : Nat := 255

/-- The packet has not left yet: it waits at an egress of the agent. -/
def Agent.unsent (g : Agent) (k : Packet) : Bool := g.ports.any fun p => p.eg.queue.any fun w => { w.pkt.hdr with vc := k.hdr.vc } == k.hdr

/-- An unacknowledged packet that is overdue goes out again with the same fields, or after RETX_MAX sends its flow is reported broken; a paused endpoint
and a frozen slot or programme send none (R143, R281). -/
def State.agResend (s : State) (a : Addr) (f : Flow) (x : SentPkt) : State :=
  let g := s.agent a
  let mine := fun (y : Flow) => y.isSource && y.src == f.src && y.dest == f.dest && y.svc == f.svc && y.port == f.port
  let mark := fun (n : Nat) (s : State) => s.onAgFlow a mine fun y => { y with sent := y.sent.map fun z =>
    if z.wseq = x.wseq then { z with sends := n, stamp := s.agentNow g } else z }
  if x.sends = brokenMark ∨ g.paused ∨ g.isFrozen x.ctx ∨ g.unsent x.pkt then s
  else if g.retxMax ≤ x.sends then
    let plane := if isSwitch a then addrIndex a else if f.port < 16 then f.port else 0
    (mark brokenMark s).agentEvent a 0x05 g.flash (w32 x.ctx) [fieldAt 0 16 f.dest.toNat ||| fieldAt 16 4 plane, fieldAt 0 16 x.piece ||| fieldAt 16 16 x.launch]
  else ((mark (x.sends + 1) s).onAgent a fun g => { g with retx := g.retx + 1 }).agLeave a f.port 0 x.pkt

/-- Every overdue packet of an agent; the timers are looked at at its flash boundaries (log entry 57). -/
def State.agResends (s : State) (a : Addr) : State :=
  let g := s.agent a
  let now := s.agentNow g
  (g.flows.filter (·.isSource)).foldl (fun s f => (f.sent.filter (g.overdue now)).foldl (fun s x => s.agResend a f x) s) s

/-! ### Time and reset -/

/-- The agent's count, rate and slew at its flash boundary (R456). -/
def Agent.tick (g : Agent) (limit : Nat) : Agent :=
  let g := { g with rate := g.word 0xA8 }
  match g.step with
  | some t => { g with flash := t.1, slew := 0, step := none }
  | none => { g with flash := g.flash + 1, slew := g.slew - max (-(limit : Int)) (min limit g.slew) }

/-- RESET is sent once a link toward the Keeper is LIT (R460). -/
def State.agOwed (s : State) (a : Addr) : State :=
  let g := s.agent a
  if g.resetOwed && g.eventPort.any g.portLit then
    (s.onAgent a fun g => { g with resetOwed := false }).agentEvent a 0x03 g.flash (w32 g.cause) []
  else s

/-- The counts of the flash begin afresh. -/
def Agent.countsClear (g : Agent) : Agent :=
  { g with nosend := 0, fill := 0, retx := 0, ports := g.ports.map fun (p : AgPort) => { p with unroute := 0, mismatch := 0, source := 0, refused := 0, sent := [0, 0, 0, 0] },
           progs := g.progs.map fun (p : AgProg) => { p with lags := [] } }

/-- The boundary that opens an agent's next flash. -/
def State.agBoundary (s : State) (a : Addr) (ms : List AgPortMeas) : State :=
  let g := s.agent a
  let body := s.reportBody1 g ms
  let s := s.onAgent a fun g => (g.tick (s.slewLimit a)).countsClear
  let s := ((s.agPortsNow a ms).agOwed a).sendReport a g.flash body
  let s := (s.agResends a).enableDue a
  let s := (s.agent a).slots.foldl (fun s x => s.startQueued a x.slot) s
  s.keysNow a

end Sys2Proof.Machine
end

