-- ==== Sys2Proof/Machine/Agents.lean ====
section
/-! DEFINITION. Machine/Agents.lean: the agents' rows: management requests, lighting, check values, seals, events, time, reset, the flash boundary
(R143 to R145, R313, R355 to R358, R439 to R460). -/
namespace Sys2Proof.Machine

/-! ### Management requests -/

/-- AGENT_MGMT_READ (R442): words are read, or refused with a STATUS, and the reply goes to the request's source. -/
def execAgentMgmtRead (agent : Addr) (h : MgmtHead) (addr count : Nat) (s : State) : Host.Outcome State Fault Refusal := .next (s.agentRead agent h addr count)

/-- AGENT_MGMT_WRITE (R442, R443): a write is applied whole or refused, journalled, cached and answered. -/
def execAgentMgmtWrite (agent : Addr) (h : MgmtHead) (addr : Nat) (words : List Word) (s : State) : Host.Outcome State Fault Refusal :=
  .next (s.agentWrite agent h addr words)

/-- AGENT_BROADCAST_WRITE (R444): a rack-broadcast write is applied without a reply, or refused and counted. -/
def execAgentBroadcastWrite (agent : Addr) (h : MgmtHead) (addr : Nat) (words : List Word) (s : State) : Host.Outcome State Fault Refusal :=
  .next (s.agentWrite agent { h with broadcast := true } addr words)

/-- AGENT_ARM (R448): a write of FA_ARM_CTRL with ARM. -/
def execAgentArm (agent : Addr) (h : MgmtHead) (value : Word) (s : State) : Host.Outcome State Fault Refusal := .next (s.agentWrite agent h 0x4C [value])

/-- AGENT_DISARM (R448): a write of FA_ARM_CTRL with DISARM. -/
def execAgentDisarm (agent : Addr) (h : MgmtHead) (value : Word) (s : State) : Host.Outcome State Fault Refusal := .next (s.agentWrite agent h 0x4C [value])

/-- AGENT_SET_LIT (R448): a write of SET_LIT with its BANK. -/
def execAgentSetLit (agent : Addr) (h : MgmtHead) (bank : Nat) (s : State) : Host.Outcome State Fault Refusal :=
  .next (s.agentWrite agent h 0x4C [4 ||| fieldAt 3 1 bank])

/-- AGENT_GO (R144, R448): a write of FA_GO. -/
def execAgentGo (agent : Addr) (h : MgmtHead) (value : Word) (s : State) : Host.Outcome State Fault Refusal := .next (s.agentWrite agent h 0x70 [value])

/-- AGENT_FREEZE (R452): a write of FREEZE for a slot or programme. -/
def execAgentFreeze (agent : Addr) (h : MgmtHead) (index : Nat) (s : State) : Host.Outcome State Fault Refusal :=
  .next (s.agentWrite agent h 0x74 [fieldAt 0 11 index ||| fieldAt 12 1 1])

/-- AGENT_THAW (R452): a write of THAW. -/
def execAgentThaw (agent : Addr) (h : MgmtHead) (index : Nat) (s : State) : Host.Outcome State Fault Refusal :=
  .next (s.agentWrite agent h 0x74 [fieldAt 0 11 index ||| fieldAt 13 1 1])

/-- AGENT_CHECK_VALUE (R449): a write of FA_CHECK_CTRL. -/
def execAgentCheckValue (agent : Addr) (h : MgmtHead) (value : Word) (s : State) : Host.Outcome State Fault Refusal := .next (s.agentWrite agent h 0x80 [value])

/-- AGENT_SEAL_COMMIT (R459): a write of FA_SEAL_COMMIT. -/
def execAgentSealCommit (agent : Addr) (h : MgmtHead) (len : Nat) (s : State) : Host.Outcome State Fault Refusal := .next (s.agentWrite agent h 0x98 [w32 len])

/-- AGENT_TRIM (R456): a write of FA_TRIM. -/
def execAgentTrim (agent : Addr) (h : MgmtHead) (value : Word) (s : State) : Host.Outcome State Fault Refusal := .next (s.agentWrite agent h 0xA4 [value])

/-- AGENT_RATE (R456): a write of FA_RATE. -/
def execAgentRate (agent : Addr) (h : MgmtHead) (value : Word) (s : State) : Host.Outcome State Fault Refusal := .next (s.agentWrite agent h 0xA8 [value])

/-- AGENT_STEP (R456): a write of FA_STEP_OFF. -/
def execAgentStep (agent : Addr) (h : MgmtHead) (value : Word) (s : State) : Host.Outcome State Fault Refusal := .next (s.agentWrite agent h 0xB4 [value])

/-- AGENT_SERVE (R460): a write of FA_STATE. -/
def execAgentServe (agent : Addr) (h : MgmtHead) (value : Word) (s : State) : Host.Outcome State Fault Refusal := .next (s.agentWrite agent h 0x0C [value])

/-! ### Lighting -/

/-- AGENT_PAUSE (R143): from the boundary that opens F - 1 an armed endpoint starts no packet of its slice when the slice is in D. -/
def execAgentPause (agent : Addr) (s : State) : Host.Outcome State Fault Refusal :=
  let g := s.agent agent
  .next (if !isSwitch agent && g.armed && decide (g.armF ≤ g.flash + 1) && g.drainSet.testBit g.slice then s.onAgent agent fun g => { g with paused := true } else s)

/-- AGENT_BANK_LIGHT (R144, R448): at F an armed agent that holds GO lights its dark bank; without GO it holds, a switch discards what it has of slices
in D, an endpoint keeps them paused, and GO_MISSING is reported. -/
def execAgentBankLight (agent : Addr) (s : State) : Host.Outcome State Fault Refusal :=
  let g := s.agent agent
  .next <|
    if !g.armed || decide (g.flash < g.armF) || g.hold then s
    else if g.go then s.agLight agent
    else
      let keep := !isSwitch agent && g.drainSet.testBit g.slice
      ((s.flushDrain agent g.drainSet).onAgent agent fun g => { g with hold := true, paused := g.paused || keep }).agentEvent agent 0x04 g.flash (w32 (1 - g.lit)) [loHalf g.armF]

/-- DRAIN_GUARD_END (R145): the guard ends; endpoints go on with the slices in D. -/
def execDrainGuardEnd (agent : Addr) (s : State) : Host.Outcome State Fault Refusal :=
  .next (if (s.agent agent).guard.isNone then s else (s.onAgent agent fun g => { g with guard := none }).agResume agent)

/-! ### Check values, seals -/

/-- AGENT_CHECK_VALUE_DONE (R449): the check value stands in FA_CHECK and GO is cleared. -/
def execAgentCheckValueDone (agent : Addr) (s : State) : Host.Outcome State Fault Refusal :=
  let g := s.agent agent
  .next (if g.checking then s.onAgent agent fun g => { g with checking := false, check := crc64 (s.checkBytes g) } else s)

/-- AGENT_SEAL_VERIFY_DONE (R356 to R358, R459): the staged seal is held or refused; the envelopes the chip presents are taken; keys are released
or withdrawn. -/
def execAgentSealVerifyDone (agent : Addr) (envelopes : List (List Byte)) (s : State) : Host.Outcome State Fault Refusal :=
  let s := s.onAgent agent fun g => { g with envelopes := g.envelopes ++ envelopes.filter fun e => !g.envelopes.contains e }
  let s := match (s.agent agent).verifying with
    | some len => s.verifySeal agent len
    | none => s
  .next (if isFa3Endpoint agent then s.keysNow agent else s)

/-- AGENT_SEAL_EXPIRY (R357): the agent's flash has reached EXPIRY_FLASH; released keys are withdrawn. -/
def execAgentSealExpiry (agent : Addr) (s : State) : Host.Outcome State Fault Refusal :=
  .next (if (s.agent agent).heldSeal.any fun x => decide (x.expiry ≤ (s.agent agent).flash) then s.keysNow agent else s)

/-- AGENT_GRACE_END (R358): SUPERSEDE_FLASHES after the lighting a superseded seal is no longer usable; released keys are withdrawn. -/
def execAgentGraceEnd (agent : Addr) (s : State) : Host.Outcome State Fault Refusal :=
  .next (if (s.agent agent).heldSeal.any (s.agent agent).pastGrace then s.keysNow agent else s)

/-! ### Events -/

/-- AGENT_EVENT_RESEND (R446): an event still unacknowledged goes out again unchanged; after 16 sends it is dropped and counted. -/
def execAgentEventResend (agent : Addr) (seq : Nat) (s : State) : Host.Outcome State Fault Refusal :=
  .next <| match (s.agent agent).events.find? fun e => e.seq == seq with
    | none => s
    | some e =>
      if 16 ≤ e.sends then
        s.onAgent agent fun g => { g with events := g.events.filter fun x => x.seq != seq, dropped := satAdd 65535 g.dropped 1 }
      else
        (s.onAgent agent fun g => { g with events := g.events.map fun (x : KeptEvent) => if x.seq = seq then { x with sends := x.sends + 1 } else x }).sendEvent
          agent e

/-- AGENT_EVENT_ACK (R446): the event is acknowledged and kept no longer. -/
def execAgentEventAck (agent : Addr) (port seq : Nat) (s : State) : Host.Outcome State Fault Refusal :=
  .next ((s.agCredits agent port 0 (mgmtUnits 0)).onAgent agent fun g => { g with events := g.events.filter fun x => x.seq != seq })

/-! ### Time, reset, the flash boundary -/

/-- AGENT_PERIOD_CHANGE (R457): in the flash that FA_PERIOD_F names, CUR_US takes NEXT_US and NEXT_US is cleared. -/
def execAgentPeriodChange (agent : Addr) (s : State) : Host.Outcome State Fault Refusal :=
  let g := s.agent agent
  let next := bitsOf (g.word 0x28) 8 7
  .next (if next ≠ 0 ∧ loHalf g.flash = g.word 0x2C then s.onAgent agent fun g => g.put 0x28 (fieldAt 0 7 next) else s)

/-- The flows of a rack's agents with one that has been reset begin anew (R64): those that name it, or an endpoint's to and from a switch on its plane
(log entry 52). -/
def Agent.forget (g : Agent) (a : Addr) (en : Nat) : Agent :=
  let names := fun (x : Addr) (amode : Bool) => x == a || (!amode && !isSwitch a && x.toNat == en)
  { g with flows := g.flows.filter fun f =>
      !(names f.src (f.port == 17) || names f.dest (f.port == 17) || (isSwitch a && !isSwitch g.addr && f.port == addrIndex a)) }

/-- AGENT_RESET (R460): the agent comes up in INIT; released keys are withdrawn; RESET is owed to its Keeper. -/
def execAgentReset (agent : Addr) (cause : Nat) (s : State) : Host.Outcome State Fault Refusal :=
  let s := (s.agent agent).released.foldl (fun s e => s.send (.chip agent (.withdrawKey (envelopeLabel e)))) s
  let en := (s.agent agent).en
  let s := { s with agents := s.agents.map fun (g : Agent) => g.forget agent en }
  let g := { Agent.fresh agent with cause := cause % 16, reborn := true, resetOwed := true }
  .next ((s.onAgent agent fun _ => g).agOwed agent)

/-- AGENT_FLASH_BOUNDARY (R313): the next flash opens at the agent: its count, ports, load report and resends. -/
def execAgentFlashBoundary (agent : Addr) (ports : List AgPortMeas) (s : State) : Host.Outcome State Fault Refusal := .next (s.agBoundary agent ports)

end Sys2Proof.Machine
end

