-- ==== Sys2Proof/Machine/Drains.lean ====
section
/-! DEFINITION. Machine/Drains.lean: the drain of a slice: its notice, reports and end (R166, R211). -/
namespace Sys2Proof.Machine

/-- A collective of a slice has work in this rack: a launch in progress, an admission, a recovery or an abort exchange (R166). -/
def State.sliceWorks (s : State) (id : Nat) : Bool :=
  s.clp.plans.any fun p => p.slice == id && (p.st == 1 || p.st == 2 || p.st == 4 || p.frozen.isSome || p.clearing || !p.reqs.isEmpty || s.launchOpen p)

/-- A drain of this rack may report (R166): every member agent's window is empty, or was discarded by force, and no collective works. -/
def State.drainDue (s : State) (d : RackDrain) : Bool :=
  !d.reported && (d.forced || (s.memberAgents d.slice).all d.empty.contains) && !s.sliceWorks d.slice

/-- DRAIN_REPORT of the drains of this rack that are due (R166). -/
def State.reportDrains (s : State) : State :=
  let due := s.slc.rackDrains.filter s.drainDue
  let s := { s with slc := { s.slc with rackDrains := s.slc.rackDrains.map fun (d : RackDrain) => if due.any (fun (x : RackDrain) => x.slice == d.slice) then { d with reported := true } else d } }
  due.foldl (fun s d => s.tellHead ({ s.kmsg 0x24 with set := sliceBit d.slice } : KMsg)) s

/-- A rack's DRAIN_REPORT at the head; with those of every rack that has members SLICE_DONE is flooded, DRAINED (R166, R168). -/
def State.headDrained (s : State) (id rack : Nat) : State :=
  match s.slc.drains.find? fun d => d.slice == id with
  | none => s
  | some d =>
    let reports := if d.reports.contains rack then d.reports else rack :: d.reports
    let racks := match (s.slice id).bind (·.lay) with
      | some l => l.view.racks
      | none => []
    if racks.all reports.contains then
      let s := { s with slc := { s.slc with drains := s.slc.drains.filter fun x => x.slice != id } }
      s.flood ({ s.kmsg 0x25 with count := 5, set := sliceBit id } : KMsg)
    else { s with slc := { s.slc with drains := s.slc.drains.map fun x => if x.slice = id then { x with reports := reports } else x } }

/-- SLICE_DONE at a Keeper: the slice takes the state named; the SLICE_DRAIN of this Keeper completes under R28 (R165, R166, R476). -/
def State.sliceDrained (s : State) (id state : Nat) : State :=
  match s.slice id with
  | none => s
  | some r =>
    if r.state ≠ 4 then s
    else
      let s := (s.onSlice id fun e => { e with state := state, prior := 4 }).noteSlice id
      let mine := fun (i : SliceIssued) => i.op == 3 && i.slice == id && i.epoch.isSome
      let ended := s.slc.issued.filter mine
      let s := { s with slc := { s.slc with rackDrains := s.slc.rackDrains.filter (fun (d : RackDrain) => d.slice != id),
                                            drains := s.slc.drains.filter (fun (d : HeadDrain) => d.slice != id),
                                            issued := s.slc.issued.filter fun i => !mine i } }
      let s := s.raise Fld.WDN_INT_STATUS_DRAINED
      ended.foldl (fun s i => s.completeAfter i.win s.tim.flash id [fieldAt 0 1 (b2n r.forced)]) s

/-- DRAIN_NOTICE at a Keeper: the slice drains; where it has members its plans' slots are LOADED, its agents pause; FORCE aborts its
collectives from the head and lets the rack report without empty windows (R166, R211, R281). -/
def State.drainNoticed (s : State) (id : Nat) (force : Bool) : State :=
  let s := if s.sliceState id = 2 then (s.onSlice id fun e => { e with state := 4, prior := e.state }).noteSlice id else s
  let s := if force then (s.onSlice id fun e => { e with forced := true }).raise Fld.WDN_INT_STATUS_DRAIN_FORCED else s
  let s := if force ∧ s.isHead then (s.clp.live.filter fun p => p.slice == id).foldl (fun s p => s.startAbort p.slice p.ordinal 0x15) s else s
  if (s.memberAgents id).isEmpty then s
  else
    let s := if s.slc.rackDrains.any fun d => d.slice == id then
        { s with slc := { s.slc with rackDrains := s.slc.rackDrains.map fun d => if d.slice = id then { d with forced := d.forced || force } else d } }
      else { s with slc := { s.slc with rackDrains := s.slc.rackDrains.concat { slice := id, empty := [], forced := force, reported := false } } }
    let s := (s.clp.plans.filter fun p => p.slice == id && p.st == 3).foldl (fun s p => s.loadSlots p.ctx) s
    (s.pauseMembers id true).reportDrains

/-- DRAIN_NOTICE (R166). -/
def State.gotDrainNotice (s : State) (_src : Addr) (m : KMsg) : State :=
  ((((bitIndices m.set.toNat 256).foldl (fun s id => s.drainNoticed id (bitAt m.count 0)) s).showSlices))

/-- DRAIN_NOTICE as it arrives (R17, R137). -/
def execDrainNotice (port : Nat) (p : Packet) (s : State) : Host.Outcome State Fault Refusal := .next (s.takeMsg 0x23 port p State.gotDrainNotice)

/-- DRAIN_EMPTY_EVENT: the agent's event is acknowledged and the agent counts toward DRAIN_REPORT (R166, R446). -/
def execDrainEmptyEvent (port : Nat) (p : Packet) (s : State) : Host.Outcome State Fault Refusal :=
  .next (s.takeAgentEvent 7 port p fun s ev =>
    let tick := fun (d : RackDrain) => if d.slice == ev.arg.toNat && !d.empty.contains ev.agent then { d with empty := ev.agent :: d.empty } else d
    ({ s with slc := { s.slc with rackDrains := s.slc.rackDrains.map tick } } : State).reportDrains)

/-- DRAIN_REPORT: with reports of every rack that has members, SLICE_DONE is flooded (R166). -/
def State.gotDrainReport (s : State) (src : Addr) (m : KMsg) : State :=
  if ¬ s.isHead then s
  else ((bitIndices m.set.toNat 256).foldl (fun s id => s.headDrained id (s.rackOf src)) s)

/-- DRAIN_REPORT as it arrives (R17, R137). -/
def execDrainReport (port : Nat) (p : Packet) (s : State) : Host.Outcome State Fault Refusal := .next (s.takeMsg 0x24 port p State.gotDrainReport)

/-- SLICE_DONE: the slice takes the state named; the SLICE_DRAIN of this Keeper completes (R165, R166, R168). -/
def State.gotSliceDone (s : State) (_src : Addr) (m : KMsg) : State :=
  (((bitIndices m.set.toNat 256).foldl (fun s id => s.sliceDrained id (bitsOf m.count 0 3)) s).showSlices)

/-- SLICE_DONE as it arrives (R17, R137). -/
def execSliceDone (port : Nat) (p : Packet) (s : State) : Host.Outcome State Fault Refusal := .next (s.takeMsg 0x25 port p State.gotSliceDone)

end Sys2Proof.Machine
end

