-- ==== Sys2Proof/Machine/MoorOps.lean ====
section
/-! DEFINITION. Machine/MoorOps.lean: the state image and its deltas, selective mirroring, taking and losing LIT (14_redundancy.md). -/
namespace Sys2Proof.Config

/-- The items of a state image, ascending by region and offset (R369): the spec does not say where a block's state lies in its regions (log entry
45). -/
opaque imageItems : Machine.Image → List Machine.ImgItem

/-- The image that applied items hold; none while a region is missing (R369, R384). -/
opaque imageOf : List Machine.ImgItem → Option Machine.Image

/-- SHAKE256 over a check region of an image (R371, R372). -/
opaque checkDigest : List Machine.ImgItem → Nat → Digest

/-- The entries of the selective set, each with its KIND (R375, R376). -/
opaque selEntries : Machine.Image → List (Nat × List Word)

/-- What received entries give, in the order of their arrival (R375). -/
opaque selImage : List (Nat × List Word) → Option Machine.SelImage

end Sys2Proof.Config

namespace Sys2Proof.Machine

/-- The redundancy record, changed. -/
def State.onMor (s : State) (f : MorState → MorState) : State := { s with mor := f s.mor }

/-! ### The image (R369, R370) -/

/-- A register that no write of the host changes. -/
def roReg (off : Nat) : Bool :=
  match regRow off with
  | some r => r.rw == 0 && r.w1c == 0 && r.w1s == 0
  | none => false

/-- The registers whose published values are stage outputs: read-only ones of SLV, WDN but for the signing registers, CLP and LNT. -/
def imageReg (off : Nat) : Bool :=
  roReg off && ((0x40000 ≤ off && off < 0x50000) || (0x60000 ≤ off && off < 0x60800) || (0x80000 ≤ off && off < 0x90000)
    || (0xB0000 ≤ off && off < 0xC0000))

/-- A register of the log book (R436). -/
def logReg (off : Nat) : Bool := 0x100000 ≤ off && off < 0x110000

/-- The planner's state without its piece places. -/
def ClpState.mirrored (c : ClpState) : ClpState := { c with plans := c.plans.map fun (p : Plan) => { p with places := [] } }

/-- The state image as it stands (R26, R27, The state image). -/
def State.imageNow (s : State) : Image :=
  { flash := s.tim.flash, regs := s.regs.filter fun r => !logReg r.1, hif := s.hif, work := s.work, litDigest := s.chart.lit.map (·.digest),
    chartArm := s.chart.arm, announce := s.chart.announce, acting := s.chart.acting, deputyActs := s.chart.deputyActs, link := s.link,
    mgmt := s.mgmt, mgen := s.getF Fld.RST_STATE_MGEN, slv := s.slv, slc := s.slc, clp := s.clp.mirrored, lmp := { s.lmp with units := [], spillQueue := [] },
    lntCtxs := s.lnt.ctxs.map fun (c : LntCtx) => { c with bufs := [] }, lntPlanes := s.lnt.planes, tim := s.tim, rst := s.rst, pwr := s.pwr,
    seals := s.wdn.seals }

/-- An item's bytes: header, data, padding (R370). -/
def ImgItem.bytes (i : ImgItem) : List Byte :=
  bytesOfWords [fieldAt 0 8 i.region ||| fieldAt 8 12 i.data.length, w32 i.offset, fieldAt 0 8 (i.offset / 2 ^ 32), 0] ++ i.data
    ++ zeros ((64 - (16 + i.data.length) % 64) % 64)

/-- The items a packet's item bytes hold (R370). Fuel: the packet's granules. -/
def parseItems : Nat → List Byte → List ImgItem
  | 0, _ => []
  | n + 1, bs =>
    if bs.isEmpty then []
    else
      let w := wordsOfBytes (bs.take 16)
      let len := bitsOf (wordAt w 0) 8 12
      { region := bitsOf (wordAt w 0) 0 8, offset := (wordAt w 1).toNat + bitsOf (wordAt w 2) 0 8 * 2 ^ 32, data := (bs.drop 16).take len }
        :: parseItems n (bs.drop ((16 + len + 63) / 64 * 64))

/-- Items packed in order into runs of at most 4,032 bytes: no item spans two packets (R370). -/
def packItems (items : List ImgItem) : List (List Byte) :=
  items.foldl (fun acc i =>
    match acc.getLast? with
    | some b => if b.length + i.bytes.length ≤ 4032 then acc.dropLast ++ [b ++ i.bytes] else acc ++ [i.bytes]
    | none => [i.bytes]) []

/-- The payloads of a delta's packets: prefix, then item bytes (R370). -/
def deltaPackets (flash : Nat) (runs : List (List Byte)) : List (List Word) :=
  runs.zipIdx.map fun x => [loHalf flash, fieldAt 0 16 (flash / 2 ^ 32), w32 x.2, fieldAt 0 13 x.1.length] ++ List.replicate 12 0 ++ wordsOfBytes x.1


/-! ### Sending deltas (R27, R370 to R374, R384) -/

/-- The cap of a flash's delta, in bytes (R27). -/
def State.deltaCap (s : State) : Nat := 64 * (16 * s.tim.periodUs / 5) * 1024

/-- An item of the applied image, read from its page (R342, R369). -/
def State.heldItem (s : State) (h : HeldItem) : ImgItem :=
  { region := h.region, offset := h.offset, data := (bytesOfWords ((s.hbmRead h.page).getD [])).take h.len }

/-- The applied image in plaintext. -/
def State.heldImage (s : State) : List ImgItem := s.mor.image.map s.heldItem

/-- An item applied to the standby's image: its page is written under this unit's own key of the slice it belongs to (R342, R369). -/
def State.holdItem (s : State) (i : ImgItem) : State :=
  let n := ((s.mor.image.find? fun h => h.region == i.region && h.offset == i.offset).map fun h => h.page).getD s.freePage
  (s.hbmWrite (Config.imageSlice i.region i.offset % 256) n (wordsOfBytes i.data)).onMor fun m => { m with
    image := (m.image.filter fun h => !(h.region == i.region && h.offset == i.offset)) ++
      [{ region := i.region, offset := i.offset, len := i.data.length, page := n }] }

/-- Items applied in order. -/
def State.holdItems (s : State) (is : List ImgItem) : State := is.foldl State.holdItem s

/-- A delta's COMMIT (R371). -/
def Delta.commitWords (d : Delta) : List Word :=
  [fieldAt 2 1 (b2n d.final), loHalf d.flash, fieldAt 0 16 (d.flash / 2 ^ 32), w32 d.bytes, w32 d.total] ++ wordsOfBytes d.digest
    ++ [fieldAt 0 16 d.flash, 0, 0, 0, 0, 0, 0] ++ wordsOfDigest d.check

/-- An ACK or a NACK (R371). -/
def ackWords (kind flash : Nat) : List Word := [fieldAt 0 2 kind, loHalf flash, fieldAt 0 16 (flash / 2 ^ 32)] ++ List.replicate 29 0

/-- The delta of a flash from its items (R370, R371). -/
def makeDelta (flash : Nat) (items image : List ImgItem) (final : Bool) : Delta :=
  let runs := packItems items
  let ps := deltaPackets flash runs
  let bytes := runs.flatMap id
  { flash := flash, packets := ps, total := ps.length, bytes := bytes.length, digest := Config.shake 16 bytes,
    check := Config.checkDigest image (flash % 65536), final := final }

/-- A mooring packet leaves by port 20 for the unit of the other role, which it names (R48, R370, R371). -/
def State.moorPacket (s : State) (opkind : Nat) (ws : List Word) : State :=
  s.enqueue 20 (mkPacket (mkAddr 2 s.rx s.ry (1 - s.role)) s.self 0 0 0 0 opkind 0 ws)

/-- A MOOR_COMMIT packet leaves, and with it goes the image state that no field of R371 carries (log entry 44). -/
def State.moorCommitSend (s : State) (ws : List Word) (image : Nat) : State := (s.moorPacket 0x52 ws).send (.moorImage image)

/-- Packets of the owed deltas leave in order while the flash's cap allows, each delta's COMMIT behind its last packet (R373). With a COMMIT
goes whether every page of a resynchronisation has been sent (log entry 44). Fuel: packets and deltas owed. -/
def State.sendDeltas : Nat → Nat → State → State
  | 0, _, s => s
  | n + 1, room, s =>
    match s.mor.owed with
    | [] => s
    | d :: rest =>
      match d.packets with
      | [] =>
        let done := s.getF Fld.MOR_STATE_MODE == 1 || s.mor.lastPage.any fun p => p ≤ d.flash
        State.sendDeltas n room ((s.onMor fun m => { m with owed := rest }).moorCommitSend d.commitWords (if done then 2 else 1))
      | p :: ps =>
        let size := 4 * (p.length - 16)
        if size ≤ room then
          State.sendDeltas n (room - size) ((s.onMor fun m => { m with owed := { d with packets := ps } :: rest }).moorPacket 0x51 p)
        else s

/-- Pages of a resynchronisation that fit beside a delta, each with its current content (R384). -/
def takePages (image : List ImgItem) : Nat → List ImgItem → List ImgItem × List ImgItem
  | _, [] => ([], [])
  | room, p :: ps =>
    let now := (image.find? fun i => i.region == p.region && i.offset == p.offset).getD p
    if now.bytes.length ≤ room then
      let r := takePages image (room - now.bytes.length) ps
      (now :: r.1, r.2)
    else ([], p :: ps)

/-- Deltas owed leave, in order, within the flash's cap (R373). -/
def State.sendOwed (s : State) : State := State.sendDeltas ((s.mor.owed.map fun d => d.packets.length + 1).sum) s.deltaCap s

/-- The delta of the flash that ended is formed and sent (R27, R373, R384). -/
def State.moorSend (s : State) (flash : Nat) (final : Bool) : State :=
  let items := Config.imageItems s.imageNow
  let changed := items.filter fun i => !s.mor.published.contains i
  let size := (changed.map fun i => i.bytes.length).sum
  let mode := s.getF Fld.MOR_STATE_MODE
  let s := s.setF Fld.MOR_IMAGE_SIZE_MIB ((items.map fun i => i.data.length).sum / 2 ^ 20)
  let s := s.onMor fun m => { m with published := items }
  let full := (mode = 1 ∨ mode = 3) ∧ s.flag Fld.MOR_CTRL_MIRROR_EN ∧ (s.port 20).st = .lit
  if ¬ full then s
  else
    let pg := match s.mor.pages with
      | some ps => takePages items (s.deltaCap - size) ps
      | none => ([], [])
    let s := if s.mor.pages.isSome then
        let s := s.onMor fun m => { m with pages := if pg.2.isEmpty then none else some pg.2, lastPage := if pg.2.isEmpty then some flash else none }
        s.setF Fld.MOR_RESYNC_PROGRESS (if s.mor.pagesAll = 0 then 1000 else 1000 * (s.mor.pagesAll - pg.2.length) / s.mor.pagesAll)
      else s
    let extra := pg.1.filter fun i => !changed.contains i
    let d := makeDelta flash (changed ++ extra) items final
    let kib := (d.bytes + 1023) / 1024
    let s := s.setF Fld.MOR_LAG_LAST_KIB (min 65535 kib)
    let s := s.setF Fld.MOR_DELTA_MAX_KIB (max (s.getF Fld.MOR_DELTA_MAX_KIB) (min 65535 kib))
    let s := s.onMor fun m => { m with owed := m.owed ++ [d], uncommitted := m.uncommitted ++ [flash] }
    let s := s.sendOwed
    let s := s.setF Fld.MOR_LAG_UNCOMMITTED (min 4 s.mor.uncommitted.length)
    if s.mor.owed.any fun d => d.flash == flash then (s.countReg Reg.MOR_CARRIES 1).raise Fld.MOR_INT_STATUS_CARRY else s

/-- A resynchronisation starts at the active (R384). -/
def State.startPages (s : State) : State :=
  let items := Config.imageItems s.imageNow
  let s := (s.setF Fld.MOR_STATE_MODE 3).setF Fld.MOR_STATE_PARTNER 1
  (s.setF Fld.MOR_RESYNC_PROGRESS 0).onMor fun m => { m with published := items, pages := some items, pagesAll := items.length, lastPage := none }

/-- A resynchronisation starts at the standby: what it held is dropped, and RESYNC_REQ clears (R384, R389). -/
def State.startResync (s : State) : State :=
  let s := ((s.setF Fld.MOR_STATE_IMAGE 1).setF Fld.MOR_HEALTH_STALE 0).setF Fld.MOR_HEALTH_RESYNCING 1
  (s.setF Fld.MOR_CTRL_RESYNC_REQ 0).onMor fun m => { m with image := [], committed := [], staging := [] }

/-- The standby's STATUS (R371, R374). -/
def State.sendStatus (s : State) : State :=
  let code := fun (n : Nat) => bitsOf (s.slotStatus n) 0 2
  let digest := fun (n : Nat) => match (s.slot n).chart with
    | some c => if code n = 2 then wordsOfDigest c.digest else List.replicate 16 0
    | none => List.replicate 16 0
  s.moorCommitSend ([fieldAt 0 2 2, loHalf s.tim.flash, fieldAt 0 16 (s.tim.flash / 2 ^ 32), 0, 0, 0, 0, 0, 0, 0,
    w32 (code 0 + 4 * code 1 + 16 * code 2 + 64 * code 3)] ++ List.replicate 21 0 ++ (List.range 4).flatMap digest) (s.getF Fld.MOR_STATE_IMAGE)

/-! ### Selective mirroring (R375, R376) -/

/-- The switches whose two Keeper links are both LIT, at most SEL_LINKS of them, in order (R375). -/
def State.selLinks (s : State) : List Nat :=
  ((List.range 16).filter fun n => s.portLit n && s.link.nbrs.any fun r => r.agent == s.switchAddr n && r.port == 132 + (1 - s.role) && r.state == 4).take
    (s.getF Fld.MOR_SEL_CTRL_SEL_LINKS)

/-- A MIRROR_SELECT packet's payload (R376). -/
def selWords (kind flash items : Nat) (ws : List Word) : List Word :=
  [fieldAt 0 4 kind, loHalf flash, fieldAt 0 16 (flash / 2 ^ 32), w32 items] ++ List.replicate 12 0 ++ ws

/-- A MIRROR_SELECT packet to the partner by a switch port (R375). -/
def State.sendSelect (s : State) (n tag : Nat) (ws : List Word) : State :=
  s.enqueue n (mkPacket (mkAddr 2 s.rx s.ry (1 - s.role)) s.self 0 0 0 0 0x50 tag ws)

/-- Bytes of VC0 a link may give to selective mirroring in a flash (R60, R375). -/
def State.selShare (s : State) (n : Nat) : Nat :=
  560 * popCount (s.port n).active 9 * s.tim.periodUs * s.getF Fld.MOR_SEL_CTRL_SEL_SHARE_PCT / 100

/-- Waiting entries leave in order, dealt to the links with room (R375, R376). -/
def State.pumpSelect : Nat → List (Nat × Nat) → State → State
  | 0, _, s => s
  | n + 1, room, s =>
    match s.mor.selWait with
    | [] => s
    | p :: rest =>
      let size := 16 + 4 * (granules p.words).length
      match room.find? fun r => size ≤ r.2 with
      | none => s
      | some r =>
        let s := s.onMor fun m => { m with selWait := rest, selOut := m.selOut ++ [{ p with plane := r.1 }] }
        let room := (room.filter fun x => x.1 != r.1) ++ [(r.1, r.2 - size)]
        State.pumpSelect n room (s.sendSelect r.1 p.tag p.words)

/-- The changes of the flash that ended join the selective set's queue behind their FLASH_END, and what fits is sent (R376). -/
def State.selectSend (s : State) (flash : Nat) : State :=
  let es := Config.selEntries s.imageNow
  let new := es.filter fun e => !s.mor.selPub.contains e
  let all := (new.map fun e => (e.1, selWords e.1 flash 0 e.2)) ++ [(5, selWords 5 flash new.length [])]
  let pkts := all.zipIdx.map fun x => (⟨(s.mor.selTag + x.2) % 4096, flash, x.1.1, x.1.2, 0⟩ : SelPkt)
  let s := s.onMor fun m => { m with selPub := es, selWait := m.selWait ++ pkts, selTag := (m.selTag + pkts.length) % 4096 }
  State.pumpSelect s.mor.selWait.length (s.selLinks.map fun n => (n, s.selShare n)) s

/-- Acknowledged entries: the newest flash whose every packet has been acknowledged counts as mirrored (R376). -/
def State.countMirrored (s : State) : State :=
  let left := (s.mor.selWait ++ s.mor.selOut).map (·.flash)
  let top := match left with
    | [] => s.tim.flash - 1
    | f :: fs => (fs.foldl min f) - 1
  let s := s.onMor fun m => { m with selMirrored := max m.selMirrored top }
  s.releaseWaits (fun x => x.mirrored && x.sel && x.delta ≤ s.mor.selMirrored) false

/-! ### MGEN (R407, R408) -/

/-- Every operation in flight is sent again under the present MGEN (R408). -/
def State.resendAll (s : State) : State :=
  let g := s.getF Fld.RST_STATE_MGEN
  let ops := s.mgmt.ops.map fun (o : MgmtOp) => { o with gen := g, sends := 1 }
  let s := { s with mgmt := { s.mgmt with ops := ops } }
  if s.lit then ops.foldl State.sendMgmt s else s

/-- MGEN advances, at most once a flash (R407, R408). -/
def State.advanceMgen (s : State) : State :=
  if s.rst.mgenFlash = some s.tim.flash then s.resendAll
  else
    let s := s.setF Fld.RST_STATE_MGEN ((s.getF Fld.RST_STATE_MGEN + 1) % 64)
    ({ s with rst := { s.rst with mgenFlash := some s.tim.flash } }).resendAll

/-! ### Losing LIT (R365, R380, R483) -/

/-- Windows whose command is of the LIT class and still BUSY (R476, R483). -/
def State.litWindows (s : State) : List Nat :=
  (List.range 16).filter fun w =>
    let x := s.window w
    x.st == .busy && ([0x02, 0x04, 0x05, 0x06, 0x07, 0x08, 0x09, 0x0C, 0x0E, 0x0F].contains x.opcode.toNat
      || (x.opcode == 0x0B && bitAt (s.arg w 1) 8))

/-- What the owners still held for some windows is dropped; the windows themselves are answered elsewhere. -/
def State.dropWindows (s : State) (ws : List Nat) : State :=
  let gone := fun (w : Nat) => ws.contains w
  { s with
    hif := { s.hif with waits := s.hif.waits.filter fun x => !gone x.win, dma := s.hif.dma.filter fun d => !gone d.win }
    slc := { s.slc with issued := s.slc.issued.filter fun i => !gone i.win }
    clp := { s.clp with issued := s.clp.issued.filter fun i => !gone i.win }
    wdn := { s.wdn with waits := s.wdn.waits.filter fun x => !gone x.win, queue := s.wdn.queue.filter fun j => !(j.window.any gone) }
    chart := { s.chart with
      held := s.chart.held.filter fun w => !gone w.1
      arm := s.chart.arm.map fun (a : Arming) => if gone a.win then { a with win := 16 } else a } }

/-- BUSY windows complete with an error, their commands discarded (R401, R483). -/
def State.failWindows (s : State) (ws : List Nat) (error reason : Nat) : State :=
  ws.foldl (fun s w => s.refuse w error reason) (s.dropWindows ws)

/-- The unit loses LIT: active work stops, LIT commands end, the image is STALE; in a planned handover the last delta goes out as FINAL (R365,
R380, R389, R483). The grant stays or goes as given. -/
def State.loseLit (s : State) (grant : Bool) : State :=
  let planned := s.flag Fld.MOR_CTRL_HANDOVER || bitsOf (s.getReg Reg.MOR_HEALTH) 6 1 == 1
  let s := if planned then s.moorSend s.tim.flash true else s
  let s := (s.onMor fun m => { m with lit := false, grant := grant, owed := if planned then m.owed else [], uncommitted := [], pages := none, lastPage := none, selWait := [], selOut := [],
                                      selPub := [], taking := none, waitFinal := false, journals := [], rebuild := false })
  let s := ((s.setF Fld.MOR_STATE_LIT 0).setF Fld.MOR_PINS_LIT_LINE (b2n s.mor.otherLit)).setF Fld.MOR_LAG_UNCOMMITTED 0
  let s := (s.setF Fld.MOR_STATE_PARTNER 0).setF Fld.MOR_STATE_MODE 0
  let s := (s.failWindows s.litWindows 3 1).selfStale
  let s := { s with mgmt := { s.mgmt with ops := [] }, chart := { s.chart with acting := false } }
  let s := s.setF Fld.CHT_STATE_ACTING_HEAD 0
  let s := s.onWdn fun w => { w with signed := [], queue := w.queue.filter fun j => j.slice == 0 }
  let s := (((s.setF Fld.MOR_CTRL_HANDOVER 0).renew Fld.MOR_CTRL_HANDOVER id).setUnfit 6 false).showQueue
  (s.count Fld.MOR_TAKEOVERS_LOST 1).raise Fld.MOR_INT_STATUS_RELINQUISHED

/-! ### Taking LIT (R363, R378, R407) -/

/-- EV_TAKEOVER (R378, R424): adopted records are not yet known when the grant arrives (log entry 46). -/
def State.logTakeover (s : State) : State :=
  s.logOwn 0x040 0x0B 0 [w32 s.mor.imageFlash, fieldAt 0 3 (s.getF Fld.MOR_STATE_IMAGE), 0]

/-- The grant is seen with the line free: LIT_N is driven, MGEN advances, the switches learn the port, the takeover is logged (R51, R363, R378,
R407). -/
def State.takeLit (s : State) : State :=
  let g := match Config.imageOf s.heldImage with
    | some i => if s.getF Fld.MOR_STATE_IMAGE = 2 then i.mgen else s.getF Fld.RST_STATE_MGEN
    | none => s.getF Fld.RST_STATE_MGEN
  let wait := (s.port 20).st == .lit
  let s := (s.setF Fld.RST_STATE_MGEN g).onMor fun m => { m with lit := true, otherLit := false, taking := some s.tim.flash, waitFinal := wait }
  let s := ((s.setF Fld.MOR_STATE_LIT 1).setF Fld.MOR_PINS_LIT_LINE 1).setPair Reg.MOR_GRANT_FLASH_LO s.tim.flash
  let s := ((s.count Fld.MOR_TAKEOVERS_TAKEN 1).raise Fld.MOR_INT_STATUS_TAKEOVER).advanceMgen
  s.writeKeeperPort.logTakeover

/-- The image shows an arming that this unit cannot keep (R85): ARM_WITHDRAWN; a head withdraws the digest at once; after CONFIRM the unit keeps its lit
chart with HEAD_MISMATCH. -/
def State.armingLost (s : State) (a : Arming) : State :=
  let s := (s.disarm.raise Fld.CHT_INT_STATUS_ARM_WITHDRAWN).withdrawChart a.digest
  if a.confirmed then { s with chart := { s.chart with headNext := some (a.digest, a.flash) } }.judgeMismatch else s

/-- The image's state becomes this unit's: its windows' commands stay those of the host that issued them (R378, R381), and what belongs to a unit's own
circuits, its ports and lanes, clock, sensors, reserves and lamps, stays its own (log entry 45). -/
def State.takeImage (s : State) (i : Image) : State :=
  let slot := fun (d : Digest) => (List.range 4).find? fun n => (s.slot n).shadow == .checked && (s.slot n).chart.any fun c => c.digest == d
  let arm := i.chartArm.bind fun a => (slot a.digest).map fun n => { a with slot := n, win := 16 }
  let regs := (i.regs.filter fun r => imageReg r.1).foldl (fun rs r => regsWith r.1 r.2 rs) (s.regs.filter fun r => !imageReg r.1)
  let jobs := fun (l : List (Nat × Job)) => l.filter fun x => match x.2 with
    | .answer _ => false
    | _ => true
  let s := { s with
    regs := regs
    work := { s.work with stages := i.work.detach.stages.map fun (g : Stage) => { g with waiting := jobs g.waiting, batch := jobs g.batch }, requests := [] }
    chart := { s.chart with arm := arm, announce := i.announce, acting := i.acting, deputyActs := i.deputyActs }
    link := { s.link with nbrs := i.link.nbrs, published := i.link.published, wake := i.link.wake, parkAt := i.link.parkAt, litRole := i.link.litRole }
    mgmt := { i.mgmt with cool := [] }, slv := i.slv
    slc := { i.slc with issued := [] }
    clp := { i.clp with issued := [] }
    lnt := { s.lnt with ctxs := i.lntCtxs, planes := i.lntPlanes }
    wdn := { s.wdn with seals := i.seals.map fun (x : Seal) => { x with own := false } } }
  let s := s.setF Fld.CHT_STATE_ACTING_HEAD (b2n i.acting)
  let s := match arm with
    | some a => (s.setF Fld.CHT_STATE_STATE 2).setF Fld.CHT_STATE_ARM_SLOT a.slot
    | none => s.setF Fld.CHT_STATE_STATE (b2n s.chart.lit.isSome)
  let s := match i.chartArm with
    | some a => if arm.isSome then s else s.armingLost a
    | none => s
  let s := s.resendAll
  let s := (s.clp.adms.filter fun a => a.phase == .deciding).foldl (fun s a =>
    let n := s.work.nextReq
    (s.onAdm a fun x => { x with request := n }).askProposal .clp 2 ((a.offers.find? fun o => o.1 == a.racks.headD 0).elim 0 (·.2.1)) a.q) s
  { s with slc := { s.slc with reqs := s.slc.reqs.map fun (q : SliceReq) => { q with asked := false } } }

/-- GRAPH_REQ for the epoch held: to the head, or to the deputy from the head rack (R382, R410). -/
def State.askGraph (s : State) : State :=
  let dest := match s.chart.lit with
    | some c => if s.inHeadRack then mkAddr 2 c.install.depX c.install.depY 2 else mkAddr 2 c.install.headX c.install.headY 2
    | none => s.headAddr
  s.tell dest { s.kmsg 0x54 with epoch := w32 s.slv.epoch }

/-- A selective set becomes this unit's state; the dark bank is to be rebuilt from the graph (R375, R378, R382). -/
def State.takeSelect (s : State) (i : SelImage) : State :=
  let s := { s with
    slc := { SliceState.reset with table := i.table }
    clp := { ClpState.reset with plans := i.plans, live := i.live, adms := i.adms }
    lnt := { s.lnt with ctxs := i.lntCtxs }
    wdn := { s.wdn with seals := i.seals.map fun (x : Seal) => { x with own := false } }
    slv := { s.slv with litEpoch := i.epoch, epoch := i.epoch, cycle := Cycle.idle } }
  let s := ((s.setReg Reg.SLV_LIT_EPOCH (w32 i.epoch)).setPair Reg.SLV_LIT_FLASH_LO i.litFlash).setDigest (Reg.SLV_LIT_DIGEST 0) i.digest
  let s := (s.setPhase .idle).onMor fun m => { m with rebuild := true }
  let s := (List.range 16).foldl (fun s n => s.readNeighbours n) s
  s.askGraph

/-- Seals of case 2: every SEALED slice with members in the rack (R351). -/
def State.takeoverSeals (s : State) : State :=
  (s.slv.lit.slices.filter fun v => v.cls == 2 && v.racks.contains s.myRack).foldl (fun s v => s.askSeal v.id 2) s

/-- At G + 1 the new active takes its committed image, or its selective set when it is STALE; uncommitted stagings go; the journals of the rack's
agents are read, the root pieces of the launches in progress replayed (R278, R378, R382). A unit that never held an image goes on from its own state. -/
def State.adopt (s : State) : State :=
  if ¬ s.lit ∨ ¬ s.mor.taking.any (· < s.tim.flash) then s
  else
    let code := s.getF Fld.MOR_STATE_IMAGE
    let k := match s.mor.committed.getLast? with
      | some c => c.flash
      | none => s.mor.imageFlash
    let s := s.holdItems (s.mor.committed.flatMap (·.items))
    let img := s.heldImage
    let s := s.onMor fun m => { m with imageFlash := k, committed := [], staging := [], taking := none, waitFinal := false }
    let s := if code = 2 then
        match Config.imageOf img with
        | some i => s.takeImage i
        | none => s
      else if code = 0 then s
      else match Config.selImage s.mor.selSet with
        | some i => s.takeSelect i
        | none => s
    let s := ((s.setF Fld.MOR_STATE_IMAGE 4).setF Fld.MOR_HEALTH_STALE 0).setF Fld.MOR_HEALTH_RESYNCING 0
    let s := (s.setReg Reg.MOR_JOURNAL 0).onMor fun m => { m with journals := s.rackAgents, selSet := [] }
    let s := s.rackAgents.foldl (fun s a => s.mgmtRead a 0xD0 1 0x0B .journal) s
    (s.clp.plans.foldl State.replayRoot s).takeoverSeals

end Sys2Proof.Machine
end

