-- ==== Sys2Proof/Machine/Moor.lean ====
section
/-! DEFINITION. Machine/Moor.lean: the commands of redundancy: the arbiter's, the mooring port's, selective mirroring, the acting head's and the
graph's messages (14_redundancy.md, R150). -/
namespace Sys2Proof.Machine

/-! ### The arbiter (R363 to R368) -/

/-- GRANT_ASSERT: with LIT_N free for 1 µs the unit takes LIT; otherwise, or with no chart lit, its driver stays off (R83, R363, R378). -/
def execGrantAssert (lineFree : Bool) (s : State) : Host.Outcome State Fault Refusal :=
  let s := (s.setF Fld.MOR_STATE_GRANT 1).setF Fld.MOR_PINS_GRANT 1
  let s := (s.onMor fun m => { m with grant := true, otherLit := if m.lit then m.otherLit else !lineFree })
  .next (if lineFree ∧ ¬ s.lit ∧ s.chart.lit.isSome then s.takeLit
    else if lineFree ∧ ¬ s.lit then s else s.setF Fld.MOR_PINS_LIT_LINE 1)

/-- TAKEOVER_ADOPT (R378). -/
def execTakeoverAdopt (s : State) : Host.Outcome State Fault Refusal := .next s.adopt

/-- FINAL_COMMIT_TIMEOUT: the wait of R380 is over, and the unit goes on from its image. -/
def execFinalCommitTimeout (s : State) : Host.Outcome State Fault Refusal := .next (s.onMor fun m => { m with waitFinal := false }).adopt

/-- A number as n bytes, least significant first (R367). -/
def leBytes (n v : Nat) : List Byte := (List.range n).map fun i => BitVec.ofNat 8 (v / 2 ^ (8 * i))

/-- SMBUS_IDENT: 12 bytes (R367). -/
def execSmbusIdent (pecOk : Bool) (s : State) : Host.Outcome State Fault Refusal :=
  let rack := match s.chart.lit with
    | some _ => s.myRack
    | none => 0
  .next (if pecOk then s.send (.smbus (leBytes 8 Config.serial.toNat ++ leBytes 1 s.role ++ leBytes 1 (rack % 64) ++ leBytes 2 (bitsOf Config.fuses 0 16)))
    else s)

/-- The 16 bytes of HEALTH (R367). -/
def State.healthBytes (s : State) : List Byte :=
  let h := s.getReg Reg.MOR_HEALTH
  let age := if s.lit then 0 else min 65535 (s.tim.flash - s.mor.imageFlash)
  leBytes 1 (s.getF Fld.MOR_STATE_FIT + 2 * b2n s.lit + 4 * b2n s.mor.grant + 8 * bitsOf h 8 1 + 16 * bitsOf h 9 1 + 32 * bitsOf h 10 1)
    ++ leBytes 2 (bitsOf h 0 16) ++ leBytes 1 (s.getF Fld.MOR_STATE_IMAGE + 16 * s.getF Fld.MOR_STATE_MODE) ++ leBytes 6 s.tim.flash
    ++ leBytes 2 age ++ leBytes 1 s.timeState ++ leBytes 1 (s.getF Fld.MOR_SELFTEST_FAILED) ++ leBytes 2 (s.mor.reports % 65536)

/-- SMBUS_HEALTH (R367). -/
def execSmbusHealth (pecOk : Bool) (s : State) : Host.Outcome State Fault Refusal :=
  .next (if pecOk then s.send (.smbus s.healthBytes) else s)

/-- SMBUS_NOTE: the decision code is logged as given (R367, R424). -/
def execSmbusNote (code : Byte) (pecOk : Bool) (s : State) : Host.Outcome State Fault Refusal :=
  .next (if pecOk then s.logOwn 0x042 0x0B 0 [fieldAt 0 8 code.toNat] else s)

/-! ### The mooring port (R370 to R374, R384) -/

/-- The unit holds LIT and has its state: the wait of a planned handover for the FINAL commit is over (R378, R380). -/
def State.hasState (s : State) : Bool := s.lit && s.mor.taking.isNone

/-- A mooring packet is taken: its header and the reserved bits the caller names are clean; the first part says so (R17, R55). -/
def State.takeMoor (s : State) (p : Packet) (clean : Bool) : Bool × State :=
  let s := s.received 20 p.hdr
  match s.refused 20 p.hdr with
  | some s => (false, s)
  | none => if clean then (true, s.returnCredits 20 p.hdr) else (false, s.refusePacket 20 p.hdr 2)

/-- A delta packet's reserved fields are 0 and its length holds its item bytes. -/
def deltaClean (w : List Word) : Bool :=
  bitsOf (wordAt w 1) 16 16 == 0 && bitsOf (wordAt w 3) 13 19 == 0 && ((w.drop 4).take 12).all (· == 0) && bitsOf (wordAt w 3) 0 13 ≤ 4 * (w.length - 16)

/-- MOOR_DELTA: the packet's items are staged for its flash; a buffer holds one flash of its number mod 4 (R372). -/
def execMoorDelta (p : Packet) (s : State) : Host.Outcome State Fault Refusal :=
  let (ok, s) := s.takeMoor p (deltaClean p.payload)
  if ¬ ok ∨ s.hasState then .next s
  else
    let w := p.payload
    let f := pairAt w 0
    let bytes := (bytesOfWords (w.drop 16)).take (bitsOf (wordAt w 3) 0 13)
    let seq := (wordAt w 2).toNat
    let entry := (seq, bytes, parseItems 64 bytes)
    let old := s.mor.staging.find? fun x => x.flash == f
    let st : Staging := match old with
      | some x => { x with packets := (x.packets.filter fun y => y.1 != seq) ++ [entry] }
      | none => { flash := f, packets := [entry] }
    .next (s.onMor fun m => { m with staging := (m.staging.filter fun x => x.flash % 4 != f % 4) ++ [st] })

/-- A COMMIT's, ACK's or NACK's reserved bits are 0. -/
def commitClean (w : List Word) : Bool :=
  bitsOf (wordAt w 0) 3 29 == 0 && bitsOf (wordAt w 2) 16 16 == 0 && ((w.drop 11).take 5).all (· == 0)

/-- What is staged for a flash, in SEQ order. -/
def State.staged (s : State) (f : Nat) : List (Nat × List Byte × List ImgItem) :=
  match s.mor.staging.find? fun x => x.flash == f with
  | some x => (List.range x.packets.length).filterMap fun i => x.packets.find? fun y => y.1 == i
  | none => []

/-- MOOR_COMMIT: what is staged is checked against PACKETS, BYTES and DIGEST: committed and acknowledged, or discarded with NACK, the standby
STALE (R372); a resynchronising standby becomes CURRENT at the first commit after the last page (R384). -/
def execMoorCommit (p : Packet) (image : Nat) (s : State) : Host.Outcome State Fault Refusal :=
  let w := p.payload
  let (ok, s) := s.takeMoor p (commitClean w)
  if ¬ ok ∨ s.hasState then .next s
  else
    let f := pairAt w 1
    let st := s.staged f
    let bytes := st.flatMap fun x => x.2.1
    let count := match s.mor.staging.find? fun x => x.flash == f with
      | some x => x.packets.length
      | none => 0
    let good := st.length == count && count == (wordAt w 4).toNat && bytes.length == (wordAt w 3).toNat && wordsOfBytes (Config.shake 16 bytes) == (w.drop 5).take 4
    let s := (s.setF Fld.MOR_HEALTH_MOORING_DOWN 0).onMor fun m => { m with heard := true, staging := m.staging.filter fun x => x.flash != f }
    if good then
      let c : Committed := { flash := f, items := st.flatMap fun x => x.2.2, check := digestOfWords ((w.drop 16).take 16) }
      let s := s.onMor fun m => { m with committed := m.committed ++ [c], imageFlash := max m.imageFlash f,
                                         waitFinal := m.waitFinal && !bitAt (wordAt w 0) 2 }
      let s := s.setPair Reg.MOR_COMMIT_FLASH_LO s.mor.imageFlash
      let s := if image = 2 ∧ s.getF Fld.MOR_STATE_IMAGE = 1 then (s.setF Fld.MOR_STATE_IMAGE 2).setF Fld.MOR_HEALTH_RESYNCING 0 else s
      .next (s.moorCommitSend (ackWords 1 f) (s.getF Fld.MOR_STATE_IMAGE))
    else .next ((s.moorCommitSend (ackWords 3 f) 3).selfStale)

/-- DELTA_APPLY: the oldest committed delta is applied, and one check region compared; a difference makes the standby STALE (R372). An image that
is not CURRENT has no region to compare. -/
def execDeltaApply (s : State) : Host.Outcome State Fault Refusal :=
  match s.mor.committed with
  | [] => .next s
  | c :: rest =>
    let s := (s.onMor fun m => { m with committed := rest }).holdItems c.items
    if s.lit ∨ s.getF Fld.MOR_STATE_IMAGE ≠ 2 then .next s
    else if Config.checkDigest s.heldImage (c.flash % 65536) = c.check then .next (s.count Fld.MOR_CHECKS_PASSED 1)
    else .next (((s.count Fld.MOR_CHECKS_FAILED 1).raise Fld.MOR_INT_STATUS_CHECK_FAIL).mooringDegraded 4).selfStale

/-- The mooring link is heard of again. -/
def State.mooringHeard (s : State) : State := (s.setF Fld.MOR_HEALTH_MOORING_DOWN 0).onMor fun m => { m with heard := true }

/-- MOOR_ACK: the flash is committed; the completions that waited on it are reported; a resynchronisation whose last page it carries is done
(R28, R372, R384). -/
def execMoorAck (p : Packet) (s : State) : Host.Outcome State Fault Refusal :=
  let (ok, s) := s.takeMoor p (commitClean p.payload)
  if ¬ ok ∨ ¬ s.lit then .next s
  else
    let f := pairAt p.payload 1
    let s := s.mooringHeard.onMor fun m => { m with uncommitted := m.uncommitted.filter (· != f) }
    let s := s.setPair Reg.MOR_COMMIT_FLASH_LO (max (s.getPair Reg.MOR_COMMIT_FLASH_LO) f)
    let s := s.setF Fld.MOR_LAG_UNCOMMITTED (min 4 s.mor.uncommitted.length)
    let s := if s.mor.lastPage.any fun l => l ≤ f then
        let s := ((s.setF Fld.MOR_STATE_PARTNER 2).setF Fld.MOR_STATE_MODE 1).setF Fld.MOR_RESYNC_PROGRESS 1000
        ((s.count Fld.MOR_RESYNC_COUNT 1).raise Fld.MOR_INT_STATUS_RESYNC_DONE).onMor fun m => { m with lastPage := none, selWait := [], selOut := [], selPub := [] }
      else s
    .next (s.releaseWaits (fun x => x.mirrored && x.delta ≤ f && !(s.mor.uncommitted.any fun u => u ≤ x.delta)) false)

/-- MOOR_NACK: the partner is STALE (R372). -/
def execMoorNack (p : Packet) (s : State) : Host.Outcome State Fault Refusal :=
  let (ok, s) := s.takeMoor p (commitClean p.payload)
  .next (if ok ∧ s.lit then (s.mooringHeard.mooringDegraded 3).partnerStale else s)

/-- MOOR_STATUS: the partner's CHECKED slots and its image are taken; a partner that asks for a resynchronisation is sent the image (R85, R374,
R384). -/
def execMoorStatus (p : Packet) (image : Nat) (s : State) : Host.Outcome State Fault Refusal :=
  let w := p.payload
  let (ok, s) := s.takeMoor p (bitsOf (wordAt w 0) 2 30 == 0 && bitsOf (wordAt w 2) 16 16 == 0 && bitsOf (wordAt w 10) 8 24 == 0 && ((w.drop 11).take 5).all (· == 0))
  if ¬ ok ∨ ¬ s.lit then .next s
  else
    let ds := ((List.range 4).filter fun n => bitsOf (wordAt w 10) (2 * n) 2 == 2).map fun n => digestOfWords ((w.drop (32 + 16 * n)).take 16)
    let s := s.mooringHeard.onMor fun m => { m with partnerDigests := ds }
    let mode := s.getF Fld.MOR_STATE_MODE
    if ¬ s.flag Fld.MOR_CTRL_MIRROR_EN ∨ (s.port 20).st ≠ .lit then .next s
    else if image = 1 ∧ ¬ (mode = 3 ∧ s.getF Fld.MOR_STATE_PARTNER = 1) then .next s.startPages
    else if image = 3 then .next s.partnerStale
    else .next s

/-- COMMIT_ACK_TIMEOUT: a commit is not acknowledged by the close point of F + 3: the partner is STALE (R373). -/
def execCommitAckTimeout (s : State) : Host.Outcome State Fault Refusal :=
  .next (if s.lit ∧ s.mor.uncommitted.any fun f => f + 3 ≤ s.tim.flash then s.partnerStale else s)

/-- COMMIT_LOSS: nothing heard for COMMIT_LOSS flashes: the mooring link is down (R374). -/
def execCommitLoss (s : State) : Host.Outcome State Fault Refusal :=
  .next (if s.getF Fld.MOR_PARAMS_COMMIT_LOSS ≤ s.mor.quiet then s.mooringDown 1 else s)

/-! ### Selective mirroring (R375, R376) -/

/-- A MIRROR_SELECT packet is taken at a switch port. -/
def State.takeSel (s : State) (port : Nat) (p : Packet) : Bool × State :=
  let s := s.received port p.hdr
  let w := p.payload
  let kind := bitsOf (wordAt w 0) 0 4
  let clean := 1 ≤ kind && kind ≤ 6 && bitsOf (wordAt w 0) 4 28 == 0 && bitsOf (wordAt w 2) 16 16 == 0 && ((w.drop 4).take 12).all (· == 0)
    && (kind == 5 || wordAt w 3 == 0)
  match s.refused port p.hdr with
  | some s => (false, s)
  | none => if clean then (true, s.returnCredits port p.hdr) else (false, s.refusePacket port p.hdr 2)

/-- MIRROR_SELECT: the entry joins the selective set, and is acknowledged under the same OPTAG (R375, R376). -/
def execMirrorSelect (port : Nat) (p : Packet) (s : State) : Host.Outcome State Fault Refusal :=
  let (ok, s) := s.takeSel port p
  let kind := bitsOf (wordAt p.payload 0) 0 4
  if ¬ ok ∨ s.lit ∨ kind = 6 then .next s
  else
    let s := if kind = 5 then s else s.onMor fun m => { m with selSet := m.selSet ++ [(kind, p.payload.drop 16)] }
    .next (s.sendSelect port p.hdr.optag.toNat (selWords 6 (pairAt p.payload 1) 0 []))

/-- MIRROR_SELECT_ACK: the entry is acknowledged; a flash all of whose packets are counts as mirrored (R376). -/
def execMirrorSelectAck (port : Nat) (p : Packet) (s : State) : Host.Outcome State Fault Refusal :=
  let (ok, s) := s.takeSel port p
  if ¬ ok ∨ ¬ s.lit ∨ bitsOf (wordAt p.payload 0) 0 4 ≠ 6 then .next s
  else .next (s.onMor fun m => { m with selOut := m.selOut.filter fun x => x.tag != p.hdr.optag.toNat % 4096 }).countMirrored

/-- MIRROR_RESEND: an entry not acknowledged within 8 µs goes again by the next usable switch (R376). -/
def execMirrorResend (tag : Nat) (s : State) : Host.Outcome State Fault Refusal :=
  match s.mor.selOut.find? fun x => x.tag == tag with
  | none => .next s
  | some x =>
    let links := s.selLinks
    match links.find? fun n => x.plane < n, links with
    | some n, _ => .next ((s.onMor fun m => { m with selOut := m.selOut.map fun y => if y.tag = tag then { y with plane := n } else y }).sendSelect n tag x.words)
    | none, n :: _ => .next ((s.onMor fun m => { m with selOut := m.selOut.map fun y => if y.tag = tag then { y with plane := n } else y }).sendSelect n tag x.words)
    | none, [] => .next s

/-! ### The host's requests (R380, R384) -/

/-- MOR_CTRL: HANDOVER at the holder of LIT starts a planned handover, RESYNC_REQ at a standby a resynchronisation (R380, R384). -/
def State.morAct (s : State) : State :=
  let s := if s.flag Fld.MOR_CTRL_HANDOVER ∧ s.lit then s.setUnfit 6 true else s
  if s.flag Fld.MOR_CTRL_RESYNC_REQ ∧ ¬ s.lit then s.startResync else s

/-! ### The acting head's questions and the graph (R73, R150, R382, R387) -/

/-- One word for each open exchange of this Keeper: kind (1 slice command, 2 plan, 3 recovery, 4 abort), step, ordinal or slice (R387, log entry
47). -/
def State.openExchanges (s : State) : List Word :=
  let w := fun (kind step n : Nat) => fieldAt 0 4 kind ||| fieldAt 4 4 step ||| fieldAt 8 24 n
  (s.slc.issued.map fun i => w 1 (b2n i.epoch.isSome) i.slice) ++ ((s.clp.plans.filter fun p => p.enable == 0).map fun p => w 2 p.st p.ordinal)
    ++ ((s.clp.plans.filter fun p => p.recovery != 0).map fun p => w 3 (b2n (!p.clearing)) p.ordinal)
    ++ ((s.clp.plans.filter fun p => p.frozen.isSome).map fun p => w 4 (b2n p.frozenSent) p.ordinal)

/-- STATE_QUERY: forwarded once and answered with STATE_REPLY to the acting head (R150, R387). -/
def State.gotStateQuery (s : State) (src : Addr) (_m : KMsg) : State :=
  let s := { s with chart := { s.chart with deputyActs := true } }
  let c := s.slv.cycle
  let ws := [s.getReg Reg.SLV_STATE, w32 s.slv.litEpoch, w32 c.epoch, loHalf c.f, fieldAt 0 1 (b2n (c.phase == .confirmed))] ++ s.openExchanges
  (s.tell src ({ s.kmsg 0x51 with count := w32 ws.length, words := ws } : KMsg))

/-- STATE_QUERY as it arrives (R17, R137). -/
def execStateQuery (port : Nat) (p : Packet) (s : State) : Host.Outcome State Fault Refusal := .next (s.takeMsg 0x50 port p State.gotStateQuery)

/-- D of the cycle's bank over the whole cluster: the slices whose entries differ in any rack, with those the epoch changes (R142, R167). -/
def State.clusterDrain (s : State) : SliceSet :=
  let c := s.slv.cycle
  (List.range s.rackCount).foldl (fun d r => d ||| BitVec.ofNat 256 (ownDrainSet s.slv.lit c.src s.axes.1 s.axes.2 r)) c.own

/-- The replies of every rack not fenced are held: an epoch announced and not confirmed anywhere is announced again with a new F (R150). -/
def State.reannounce (s : State) : State :=
  let h := s.slv.head
  let need := s.awaited
  let c := s.slv.cycle
  let works := h.states.map fun x => (wordAt x.2 2).toNat
  let lits := h.states.map fun x => (wordAt x.2 1).toNat
  if ¬ need.all fun r => h.states.any fun x => x.1 == r then s
  else
    let top := (works ++ lits).foldl max h.epoch
    let s := s.onHead fun h => { h with epoch := top, states := [] }
    let announced := h.states.any fun x => (wordAt x.2 2).toNat == c.epoch && wordAt x.2 3 != 0
    let confirmed := h.states.any fun x => (wordAt x.2 2).toNat == c.epoch && bitAt (wordAt x.2 4) 0
    if c.epoch ≠ 0 ∧ announced ∧ ¬ confirmed then
      let f := s.tim.flash + s.params.lightLead
      let d := if c.f ≠ 0 then c.dset else s.clusterDrain
      let s := s.onHead fun h => { h with
        epoch := max top c.epoch, active := true, announced := true, confirmed := false, f := f, dset := d, ready2 := [], full := c.full,
        published := s.tim.flash }
      (s.flood ({ s.kmsg 0x05 with epoch := w32 c.epoch, flash := BitVec.ofNat 48 f, set := d } : KMsg)).showHead
    else s.showHead

/-- STATE_REPLY at the acting head (R150). -/
def State.gotStateReply (s : State) (src : Addr) (m : KMsg) : State :=
  let r := s.rackOf src
  if ¬ s.chart.acting ∨ ¬ s.lit then s
  else (s.onHead fun h => { h with states := (h.states.filter fun x => x.1 != r) ++ [(r, m.words)] }).reannounce

/-- STATE_REPLY as it arrives (R17, R137). -/
def execStateReply (port : Nat) (p : Packet) (s : State) : Host.Outcome State Fault Refusal := .next (s.takeMsg 0x51 port p State.gotStateReply)

/-- The records of every link with lanes, as GRAPH carries them (R137, R382). -/
def State.graphRecords (s : State) : List Word :=
  let g := s.slv.graph
  let sx := s.axes.1
  let some_ := fun (xs : List (Nat × Nat)) => xs.filter fun x => x.2 != 0
  ((some_ g.eps).map fun x => linkRecord 0 (x.1 / 2048 % sx) (x.1 / 2048 / sx) (x.1 % 16) (x.1 % 2048 / 16) x.2)
    ++ ((some_ g.uplinks).map fun x => linkRecord 1 (x.1 / 64 % sx) (x.1 / 64 / sx) (x.1 % 64 / 4) (128 + x.1 % 4) x.2)
    ++ ((some_ g.keepers).map fun x => linkRecord 2 (x.1 / 32 % sx) (x.1 / 32 / sx) (x.1 % 32 / 2) (132 + x.1 % 2) x.2)

/-- GRAPH_REQ at the head or the deputy: the graph goes back in parts (R382). -/
def State.gotGraphReq (s : State) (src : Addr) (m : KMsg) : State :=
  if s.inHeadRack ∨ s.inDeputyRack then
    ((partsOf { s.kmsg 0x55 with epoch := w32 s.slv.epoch } s.graphRecords).foldl (fun s m => s.tell src m) s)
  else s

/-- GRAPH_REQ as it arrives (R17, R137). -/
def execGraphReq (port : Nat) (p : Packet) (s : State) : Host.Outcome State Fault Refusal := .next (s.takeMsg 0x54 port p State.gotGraphReq)

/-- An agent's check value of a bank is asked for (R379, R382, R448). -/
def State.auditAgent (s : State) (a : Addr) : State :=
  [0, 1].foldl (fun s b => s.mgmtWrite a 0x80 [fieldAt 0 4 (1 + b) ||| fieldAt 31 1 1] 11 0 0x04 (.audit b)) s

/-- An agent's check value of a plan's structures is asked for (R188, R379, R401, R449). -/
def State.auditPlan (s : State) (p : Plan) (a : Addr) : State :=
  let w := if addrKind a = 1 then fieldAt 0 4 4 ||| fieldAt 8 11 p.ctx else fieldAt 0 4 3 ||| fieldAt 8 11 (planDesc p.desc).slot
  s.mgmtWrite a 0x80 [w ||| fieldAt 31 1 1] 0 p.slice 0x06 (.auditPlan p.ctx)

/-- GRAPH at a unit that took over with the selective set: the bank is solved again from the graph, every agent's check values are compared, and
bank cycles are entered again (R382); at any other unit the graph replaces one that failed its detection code (R410). -/
def State.gotGraph (s : State) (src : Addr) (m : KMsg) : State :=
  match s.collect m with
  | (s, none) => s
  | (s, some ws) =>
    let g := ws.foldl (Graph.apply s.axes.1) { uplinks := [], eps := [], keepers := [] }
    if ¬ s.mor.rebuild then
      (if m.epoch.toNat = s.slv.epoch then { s with slv := { s.slv with graph := g } } else s)
    else
      let ctx := s.solveCtx g (s.slc.viewsAt m.epoch.toNat)
      let enMap := match s.chart.lit with
        | some k => k.enMap
        | none => []
      let src : BankSrc := { trees := ctx.solveFull, slices := ctx.views, graph := g, enMap := enMap }
      let s := { s with slv := { s.slv with graph := g, epoch := m.epoch.toNat, lit := src, dark := src } }
      let s := (s.setReg Reg.DSC_LIVE_EPOCH m.epoch).onMor fun x => { x with rebuild := false }
      (s.rackAgents.foldl (fun s a => s.auditAgent a) s)

/-- GRAPH as it arrives (R17, R137). -/
def execGraph (port : Nat) (p : Packet) (s : State) : Host.Outcome State Fault Refusal := .next (s.takeMsg 0x55 port p State.gotGraph)

end Sys2Proof.Machine
end

