-- ==== Sys2Proof/Machine/Plans.lean ====
section
/-! DEFINITION. Machine/Plans.lean: the commands of the plan exchange and of the Keeper root's packets (07_collective_plans.md). -/
namespace Sys2Proof.Machine

/-! ### The host's command -/

/-- A plan descriptor has been fetched: refused while planning is disabled or with HEAD_MISMATCH, else forwarded from the next boundary on (R22, R183, R184, R186). -/
def State.planFetched (s : State) (w : Nat) (ws : List Word) : State :=
  let d := planDesc ws
  if d.op = 1 ∧ ¬ s.flag Fld.CLP_CTRL_PLAN_EN then s.planRefused w 0x14 d.slice d.group [0, 0, 0, 0, 0x14]
  else if s.flag Fld.CHT_STATE_HEAD_MISMATCH then s.planRefused w 0x0F d.slice d.group [0, 0, 0, 0, 0x0F]
  else
    let i : PlanIssued := { win := w, tag := s.clp.nextTag, abort := false, slice := d.slice, ordinal := d.ordinal, words := ws, flash := s.tim.flash }
    s.onClp fun c => { c with issued := c.issued ++ [i], nextTag := (c.nextTag + 1) % 4096 }

/-- PLAN_COLLECTIVE in a window: LIT, the arguments, the fetch (R183, R364, R471, R476). -/
def cmdPlanCollective (w : Nat) (s : State) : State :=
  let len := (s.arg w 3).toNat
  if ¬ s.lit then s.refuse w 3 0
  else if (s.arg w 1).toNat % 4 ≠ 0 then s.refuse w 2 1
  else if len < 64 ∨ len > 16448 ∨ len % 4 ≠ 0 then s.refuse w 2 3
  else s.startDma w .plan ((s.arg w 1).toNat + (s.arg w 2).toNat * 2 ^ 32) len id

/-- PLAN_COLLECTIVE (R183, R476). -/
def execPlanCollective (c : HostCmd) (s : State) : Host.Outcome State Fault Refusal := .next (s.issue c 0x08 cmdPlanCollective)

/-! ### The exchange (R186) -/

/-- The requests with one more, in order of flash, rack and TAG (R185). -/
def insertHeadReq (q : HeadReq) : List HeadReq → List HeadReq
  | [] => [q]
  | p :: rest => if p.flash = q.flash ∧ (q.rack < p.rack ∨ q.rack = p.rack ∧ q.tag < p.tag) then q :: p :: rest else p :: insertHeadReq q rest

/-- PLAN_REQ at the intake: the head queues a request once, under its stamp; a copy of one answered in the last 128 flashes is answered again, a later
request of its rack and TAG is a new one (R185, R186, log entry 116). -/
def State.gotPlanReq (s : State) (stamp : Nat) (src : Addr) (m : KMsg) : State :=
  let rack := s.rackOf src
  let tag := bitsOf (wordAt m.words 0) 4 12
  if ¬ s.isHead then s
  else
    match s.clp.answered.find? fun x => x.1 == rack && x.2.1 == tag && decide (stamp ≤ x.2.2.2.2.2 + 128) with
    | some x =>
      (s.tell src ({ s.planMsg 0x35 (msgSlice m) [w32 x.2.2.2.1, w32 rack] with
        count := fieldAt 0 8 x.2.2.1 ||| fieldAt 8 12 tag, flash := BitVec.ofNat 48 x.2.2.2.2.1 } : KMsg))
    | none =>
      if (s.clp.queue.any fun q => q.rack == rack && q.tag == tag) || s.clp.adms.any fun a => a.req.rack == rack && a.req.tag == tag then s
      else
        let ws := m.words.drop 1
        let q : HeadReq := { rack := rack, tag := tag, flash := stamp, slice := (planDesc ws).slice, words := ws, noLnt := bitAt (wordAt m.words 0) 16 }
        s.onClp fun c => { c with queue := insertHeadReq q c.queue }

/-- PLAN_REQ as it arrives: it waits for the next intake (R17, R22, R137). -/
def execPlanReq (port : Nat) (p : Packet) (s : State) : Host.Outcome State Fault Refusal := .next (s.stageMsg 0x30 port p)

/-- An INSTALL ordered here: context, Q2 and Q1, a tentative reservation, the offer (R181, R187). -/
def State.orderInstall (s : State) (m : KMsg) : State :=
  let w1 := wordAt m.words 1
  let desc := m.words.drop 5
  let d := planDesc desc
  let alg := bitsOf w1 0 3
  let planes := bitsOf (wordAt m.words 2) 0 16
  let qnom := (wordAt m.words 3).toNat
  let ordinal := (wordAt m.words 0).toNat
  let racks := s.memberRacks d.members
  let ctx := s.freeCtx d.slice
  let q2 := s.offerQ d alg planes qnom racks.length 2
  let q1 := s.offerQ d alg planes qnom racks.length 1
  let reason := if ctx.isNone then 0x08 else if q1 = 0 then 0x09 else 0
  let f := if q2 = 0 then 1 else 2
  let q := if q2 = 0 then q1 else q2
  let root := if reason = 0 then rootNeed d alg (planeList planes).length racks.length qnom f else 0
  let store := min root (s.storeRoom d.slice 2048)
  let p : Plan :=
    { ctx := if reason = 0 then ctx.getD 0 else deadCtx d.slice ordinal, slice := d.slice, ordinal := ordinal, desc := desc, alg := alg, planes := planes,
      lnt := if bitAt w1 16 then some (bitsOf w1 8 8) else none, fallback := bitAt w1 17, qnom := qnom, q := q, inFlight := f, stretch := 256, st := 1,
      q2 := if reason = 0 then q2 else 0, q1 := if reason = 0 then q1 else 0, reason := reason, ctxs := [], ring := [], spill := decide (store < root),
      switchUnits := if reason = 0 then s.switchNeed d alg q f else 0, storeUnits := store, spillUnits := root - store, memBase := 0, groupBase := 0,
      chainBase := 0, rewritten := [], toCheck := [], enable := 0, gen := ordinal % 64, launches := 0, newest := 0, overs := [], overLogged := [], lost := 0,
      remap := List.range 16, loaded := false, asked := s.tim.flash, replied := true, places := [], done := [], credits := [], arrivals := [],
      frozen := none, answers := [], frozenSent := false, recovery := 0, gone := false, abortCause := 0, clearing := false, recovered := [], namedPieces := [], lags := [], prevLags := [],
      straggler := 0, stragLag := 0, stragRun := 0, quiet := 0, stallSent := false, reqs := [] }
  ((s.onClp fun c => { c with plans := c.plans ++ [p] }).showPlans).sendOffer p

/-- PLAN_ORDER: a new plan is offered for; a RELEASE sets the slots to LOADED and goes on when no launch is open (R187, R210). -/
def State.gotPlanOrder (s : State) (src : Addr) (m : KMsg) : State :=
  let ordinal := (wordAt m.words 0).toNat
  let desc := m.words.drop 5
  match s.planOf (msgSlice m) ordinal with
  | some p =>
    if (planDesc desc).op = 2 then
      if p.st = 4 then (if p.replied then s.sendPlanReady p else s)
      else (((s.loadSlots p.ctx).onPlan p.ctx fun p => { p with st := 4, asked := s.tim.flash, replied := false }).tryRelease p.ctx)
    else (if p.st = 1 then s.sendOffer p else s)
  | none =>
    if (planDesc desc).op = 2 then (s.tellHead ({ s.planMsg 0x34 (msgSlice m) [w32 ordinal] with count := 0 } : KMsg))
    else (s.orderInstall m)

/-- PLAN_ORDER as it arrives: it is taken at the next intake, and what the batch does is published at the boundary after (R17, R22, R137). -/
def execPlanOrder (port : Nat) (p : Packet) (s : State) : Host.Outcome State Fault Refusal := .next (s.stageMsg 0x31 port p)

/-- PLAN_OFFER at the intake: an offer with a reason refuses the plan; every offer held, the head sets q and IN_FLIGHT and takes a proposal (R186,
R188). -/
def State.gotPlanOffer (s : State) (src : Addr) (m : KMsg) : State :=
  let rack := s.rackOf src
  let reason := bitsOf m.count 0 8
  match if s.isHead then s.admission (msgSlice m) (wordAt m.words 0).toNat else none with
  | none => s
  | some a =>
    if a.phase ≠ .ordered ∨ !a.racks.contains rack ∨ (a.offers.any fun o => o.1 == rack) then s
    else if reason ≠ 0 then (s.onAdm a fun x => { x with refused := reason })
    else
      let w2 := wordAt m.words 2
      let offers := a.offers ++ [(rack, (wordAt m.words 1).toNat, bitsOf w2 0 16, bitsOf w2 16 16)]
      let s := s.onAdm a fun x => { x with offers := offers }
      if offers.length < a.racks.length then s
      else
        let fit := { a with offers := offers }.fit
        let n := s.work.nextReq
        let s := s.onAdm a fun x => { x with q := fit.1, inFlight := fit.2, phase := .deciding, request := n }
        (s.askProposal .clp 2 ((offers.find? fun o => o.1 == a.racks.headD 0).elim 0 (·.2.1)) fit.1)

/-- PLAN_OFFER as it arrives: it waits for the next intake (R17, R22, R137). -/
def execPlanOffer (port : Nat) (p : Packet) (s : State) : Host.Outcome State Fault Refusal := .next (s.stageMsg 0x32 port p)

/-- PLAN_COMMIT at the intake: the reservation is trimmed to q and IN_FLIGHT, and the plan is installed (R188, R197, R220). -/
def State.gotPlanCommit (s : State) (src : Addr) (m : KMsg) : State :=
  match s.planOf (msgSlice m) (wordAt m.words 0).toNat with
  | none => s
  | some p =>
    if p.st ≠ 1 ∨ p.reason ≠ 0 then s
    else
      let d := planDesc p.desc
      let q := (wordAt m.words 1).toNat
      let f := (wordAt m.words 2).toNat
      let stretch := (wordAt m.words 3).toNat
      let recs := m.words.drop 4
      let ctxs := recs.map fun w => (bitsOf w 0 6, bitsOf w 16 11)
      let root := rootNeed d p.alg (planeList p.planes).length recs.length q f
      let store := min root (s.storeRoom p.slice p.ctx)
      let t : Plan := { p with st := 2, q := q, inFlight := f, stretch := stretch, ctxs := ctxs, ring := ctxs.map (·.1), replied := false, asked := s.tim.flash,
                               switchUnits := s.switchNeed d p.alg q f, storeUnits := store, spillUnits := root - store, spill := decide (store < root) }
      let s := s.onPlan p.ctx fun _ => s.placePlan t
      let s := (s.raiseIf (256 < stretch) Fld.CLP_INT_STATUS_STRETCHED).raiseIf (store < root) Fld.CLP_INT_STATUS_SPILL
      ((s.showPlans).installPlan p.ctx)

/-- PLAN_COMMIT as it arrives: it waits for the next intake (R17, R22, R137). -/
def execPlanCommit (port : Nat) (p : Packet) (s : State) : Host.Outcome State Fault Refusal := .next (s.stageMsg 0x33 port p)

/-- PLAN_READY at the intake: the report is noted; a reason refuses the plan (R186, R189, R210). -/
def State.gotPlanReady (s : State) (src : Addr) (m : KMsg) : State :=
  let rack := s.rackOf src
  let reason := bitsOf m.count 0 8
  match if s.isHead then s.admission (msgSlice m) (wordAt m.words 0).toNat else none with
  | none => s
  | some a =>
    if !(a.phase == .committed || a.phase == .releasing) || !a.racks.contains rack || a.readies.contains rack then s
    else s.onAdm a fun x => if reason ≠ 0 then { x with refused := reason } else { x with readies := rack :: x.readies }

/-- PLAN_READY as it arrives: it waits for the next intake (R17, R22, R137). -/
def execPlanReady (port : Nat) (p : Packet) (s : State) : Host.Outcome State Fault Refusal := .next (s.stageMsg 0x34 port p)

/-- PLAN_DONE: a plan in installation is enabled at E or released, a RELEASE is ended, the command of the issuing Keeper completes (R186,
R189, R210). -/
def State.gotPlanDone (s : State) (src : Addr) (m : KMsg) : State :=
  let reason := bitsOf m.count 0 8
  let tag := bitsOf m.count 8 12
  let ordinal := (wordAt m.words 0).toNat
  let e := m.flash.toNat
  let mine := fun (i : PlanIssued) => !i.abort && i.tag == tag && (wordAt m.words 1).toNat == s.myRack
  let plan := if ordinal = 0 then none else s.planOf (msgSlice m) ordinal
  let s := match plan with
    | none => s
    | some p =>
      if p.st = 4 then (if reason = 0 then (s.freePlan p.ctx false).raise Fld.CLP_INT_STATUS_RELEASED else s)
      else if p.st = 1 ∨ p.st = 2 then (if reason = 0 ∧ e ≠ 0 then s.enablePlan p.ctx e else s.freePlan p.ctx false)
      else s
  match s.clp.issued.find? mine with
  | none => s
  | some i =>
    let d := planDesc i.words
    let s := s.onClp fun c => { c with issued := c.issued.filter fun x => !mine x }
    if reason ≠ 0 then (s.planRefused i.win reason d.slice d.group [0, 0, 0, 0, w32 reason])
    else
      let res := match plan with
        | some p => p.results 0
        | none => [w32 ordinal, 0, 0, 0, 0]
      let s := s.raiseIf (plan.any (·.fallback)) Fld.CLP_INT_STATUS_LNT_FALLBACK
      (s.completeAfter i.win (if e = 0 then s.tim.flash else e) d.slice res)

/-- PLAN_DONE as it arrives (R17, R137). -/
def execPlanDone (port : Nat) (p : Packet) (s : State) : Host.Outcome State Fault Refusal := .next (s.takeMsg 0x35 port p State.gotPlanDone)

/-- PLAN_MEMBER_SILENT: installs whose offers or ready reports are missing 32 flashes after they were asked for are refused with 0x11
(R186). -/
def execPlanMemberSilent (s : State) : Host.Outcome State Fault Refusal :=
  let late := s.clp.adms.filter fun a => (a.phase == .ordered || a.phase == .committed) && a.asked + 32 ≤ s.tim.flash
  .next (late.foldl (fun s a => s.endAdmission a 0x11) s)

/-- PLAN_REQ_TIMEOUT: PLAN_COLLECTIVEs without PLAN_DONE for 64 flashes complete with 0x0C (R186). -/
def execPlanReqTimeout (s : State) : Host.Outcome State Fault Refusal :=
  let old := fun (i : PlanIssued) => decide (i.flash + 64 ≤ s.tim.flash)
  let late := s.clp.issued.filter old
  let s := s.onClp fun c => { c with issued := c.issued.filter fun i => !old i }
  .next (late.foldl (fun s i =>
    let d := planDesc i.words
    s.planRefused i.win 0x0C i.slice d.group (if i.abort then [0, 0, 0, 0x0C] else [0, 0, 0, 0, 0x0C])) s)

/-! ### Packets at the Keeper root (R192, R198, R199) -/

/-- RS_CONTRIB: checked, acknowledged without being taken when late or a duplicate, else taken into its place (R17, R57, R65, R199, R226, R265,
R266). -/
def execRsContrib (port : Nat) (p : Packet) (s : State) : Host.Outcome State Fault Refusal :=
  let h := p.hdr
  let s := s.received port h
  match s.refused port h with
  | some t => .next t
  | none =>
    match s.addressed h with
    | none => .next (s.staleGen port h)
    | some q =>
      let d := planDesc q.desc
      let x := piecePrefix p.payload
      let data := prefixData p.payload
      let idx := s.contribKey q h x
      let input := if addrKind h.src = 1 then 1 else 0
      if ¬ s.inWindow h then .next ((s.reAck h).returnCredits port h)
      else if ¬ x.clean then .next (s.refusePacket port h 2)
      else if d.disc = 0 ∧ isBlockFmt d.format ∧ ¬ padClean d.format data then .next (s.refusePacket port h 5)
      else if q.late x.launch x.piece then .next ((s.takeWseq port h).returnCredits port h)
      else if (q.place x.launch x.piece).any fun y => y.map.contains (65536 * input + idx) then
        .next (((s.countReg Reg.CLP_DUPLICATES 1).takeWseq port h).returnCredits port h)
      else .next ((s.takeContrib port q h x data).progress 0x07)

/-- RS_RESULT: a release from the next Keeper returns the piece's credit, and a waiting piece takes it (R198). -/
def execRsResult (port : Nat) (p : Packet) (s : State) : Host.Outcome State Fault Refusal :=
  let h := p.hdr
  let s := s.received port h
  match s.refused port h with
  | some t => .next t
  | none =>
    match s.addressed h with
    | none => .next (s.staleGen port h)
    | some q =>
      let x := piecePrefix p.payload
      if ¬ s.inWindow h then .next ((s.reAck h).returnCredits port h)
      else if ¬ x.clean then .next (s.refusePacket port h 2)
      else
        let s := (s.takeWseq port h).returnCredits port h
        let s := s.onPlan q.ctx fun q => { q with credits := q.credits.filter fun c => !(c.2.1 == x.launch && c.2.2 == x.piece) }
        .next (s.resumePieces q.ctx)

/-- AG_DATA: forwarded down to switch p of the rack, and on to the previous Keeper of the ring until it has reached every member rack
(R192). -/
def execAgData (port : Nat) (p : Packet) (s : State) : Host.Outcome State Fault Refusal :=
  let h := p.hdr
  let s := s.received port h
  match s.refused port h with
  | some t => .next t
  | none =>
    match s.addressed h with
    | none => .next (s.staleGen port h)
    | some q =>
      let d := planDesc q.desc
      let x := piecePrefix p.payload
      if ¬ s.inWindow h then .next ((s.reAck h).returnCredits port h)
      else if ¬ x.clean then .next (s.refusePacket port h 2)
      else
        let s := (s.takeWseq port h).returnCredits port h
        let s := s.onPlan q.ctx fun q => q.seeLaunch x.launch
        let plane := q.remap.getD (planeOf q.planes x.piece) 0
        let origin := s.rackOfEn (d.members.getD x.member 0)
        let next := prevIn q.ring s.myRack
        let s := s.sendDown q plane (s.switchAddr plane) 3 0x22 q.ctx p.payload noLaunch 0
        .next (if next = origin ∨ next = s.myRack then s else s.sendRing q next 3 0x22 p.payload noLaunch 0)

/-- BARRIER: on VC2 an arrival of the rack or of the previous Keeper is counted; with all of them the barrier goes on along the ring, or is
released at its end; on VC3 the release comes down (R192, R198, R216, R265). -/
def execBarrier (port : Nat) (p : Packet) (s : State) : Host.Outcome State Fault Refusal :=
  let h := p.hdr
  let s := s.received port h
  match s.refused port h with
  | some t => .next t
  | none =>
    match s.addressed h with
    | none => .next (s.staleGen port h)
    | some q =>
      if ¬ s.inWindow h then .next ((s.reAck h).returnCredits port h)
      else
        let s := (s.takeWseq port h).returnCredits port h
        let input := if addrKind h.src = 1 then 1 else 0
        if h.svc = 3 then .next (s.releaseBarrier q)
        else if q.arrivals.contains input then .next (s.countReg Reg.CLP_DUPLICATES 1)
        else
          .next ((s.onPlan q.ctx fun q => { q with arrivals := input :: q.arrivals }).barrierGo q.ctx)

end Sys2Proof.Machine
end

