-- ==== Sys2Proof/Machine/Solver.lean ====
section
/-! DEFINITION. Machine/Solver.lean: the commands of the route solver and of bank lighting (05_route_solver.md). -/
namespace Sys2Proof.Machine

/-- RACK_REPORT: the head gathers the changes of a rack record; a link at 0 lanes is noticed at once (R107, R136, R147). -/
def State.gotRackReport (s : State) (_src : Addr) (m : KMsg) : State :=
  (if s.isHead then s.headReport m.words else s)

/-- RACK_REPORT as it arrives (R17, R137). -/
def execRackReport (port : Nat) (p : Packet) (s : State) : Host.Outcome State Fault Refusal := .next (s.takeMsg 0x01 port p State.gotRackReport)

/-- EPOCH: kept until all its parts and its SLICE_TABLE are in; taken at a batch intake when the Keeper is IDLE (R136, R139, R140, R168). -/
def State.gotEpoch (s : State) (_src : Addr) (m : KMsg) : State :=
  if m.epoch.toNat ≤ s.slv.epoch then s
  else
    match s.collect m with
    | (s, none) => s
    | (s, some ws) =>
      let e : EpochRec := { epoch := m.epoch.toNat, full := m.full, recs := ws }
      let s := { s with slv := { s.slv with waiting := s.slv.waiting ++ [e] } }
      (if s.mor.rebuild then s.notReady e.epoch 1 else s)

/-- EPOCH as it arrives (R17, R137). -/
def execEpoch (port : Nat) (p : Packet) (s : State) : Host.Outcome State Fault Refusal := .next (s.takeMsg 0x02 port p State.gotEpoch)

/-- EPOCH_REQ: the head sends the missing epoch again (R139). -/
def State.gotEpochReq (s : State) (src : Addr) (m : KMsg) : State :=
  if s.isHead then
    match s.slv.head.sent.find? fun x => x.1.epoch == m.epoch.toNat with
    | some x => (s.sendEpoch x.1 x.2.1 x.2.2 (some src))
    | none => s
  else s

/-- EPOCH_REQ as it arrives (R17, R137). -/
def execEpochReq (port : Nat) (p : Packet) (s : State) : Host.Outcome State Fault Refusal := .next (s.takeMsg 0x0C port p State.gotEpochReq)

/-- A record of a notice: the lit trees that cross the dark uplink are vetoed, and its plane is lost to the RING plans that cross it (R147, R269). -/
def State.uplinkDark (s : State) (w : Word) : State :=
  let s := s.noticeLink w
  if bitsOf w 0 2 = 1 ∧ bitsOf w 20 4 = 0 then s.ringUplinkLost (recRack s.axes.1 w) (bitsOf w 12 8 % 4) (bitsOf w 8 4) else s

/-- LINK_NOTICE: what the dark links it names take away here (R147, R269). -/
def State.gotLinkNotice (s : State) (_src : Addr) (m : KMsg) : State :=
  m.words.foldl State.uplinkDark s

/-- LINK_NOTICE as it arrives (R17, R137). -/
def execLinkNotice (port : Nat) (p : Packet) (s : State) : Host.Outcome State Fault Refusal := .next (s.takeMsg 0x03 port p State.gotLinkNotice)

/-- SECTOR_VERDICT: the Sector Verifier has judged the dark bank; its batch publishes the verdict (R23, R141). -/
def execSectorVerdict (v : Verdict) (s : State) : Host.Outcome State Fault Refusal :=
  .next (if s.slv.cycle.phase = .verifying then s.stageResult .wdn (.judged v) else s)

/-- The Verifier's finding on a bank: the first invariant in code order that fails under the model's own check or in what the verdict brings, a digest
other than the solver's as the last (R169). -/
def State.finding (s : State) (v : Verdict) (changed : List Nat) : Finding :=
  let c := s.slv.cycle
  let ctx := s.solveCtx s.slv.graph (s.slc.viewsAt c.epoch)
  let enMap := match s.chart.lit with
    | some k => k.enMap
    | none => []
  let own := firstFinding ctx enMap s.slv.lit c.src changed
  let told : Finding := (v.invariant.toNat, v.slice.toNat, v.rack, v.switch, v.port)
  let found := if told.1 ≠ 0 ∧ told.1 ≤ 5 ∧ (own.1 = 0 ∨ told.1 < own.1) then told else own
  if found.1 ≠ 0 then found else if v.digest ≠ c.digest then (6, 0, s.myRack, 0, 0) else noFinding

/-- The verdict on the dark bank is published (R140, R141, R169). A pass records the digest as verified and starts the load; a first refusal solves the
refused trees again; a second is EV_BANK_REFUSED and NOT_READY 0x04. The Warden core drives verdicts: while it does not serve, the verdict waits
(R33, R34). -/
def State.publishVerdict (s : State) (v : Verdict) : State :=
  let c := s.slv.cycle
  if c.phase ≠ .verifying then s
  else if ¬ s.wdn.serving then s.stageInput .wdn (.judged v)
  else
    let views := s.slc.viewsAt c.epoch
    let changed := s.slc.table.filterMap fun r => match r.chg with
      | some (x, _) => if x == c.epoch then some r.id else none
      | none => none
    let (inv, slice, rack, switch, port) := s.finding v changed
    let s := s.setReg Reg.WDN_VERDICT_EPOCH (w32 c.epoch)
    let s := (s.setF Fld.WDN_VERDICT_INVARIANT inv).setF Fld.WDN_VERDICT_KIND (b2n c.full)
    if inv = 0 then ((s.setF Fld.WDN_VERDICT_RESULT 1).count Fld.WDN_VERDICT_COUNT_PASSES 1).startLoad
    else
      let s := (s.setF Fld.WDN_VERDICT_RESULT 2).count Fld.WDN_VERDICT_COUNT_REFUSALS 1
      let s := s.setReg Reg.WDN_REFUSE_WHERE (fieldAt 0 8 slice ||| fieldAt 8 6 rack ||| fieldAt 16 4 switch ||| fieldAt 20 8 port)
      let s := (s.raise Fld.WDN_INT_STATUS_REFUSED).countReg Reg.SLV_REFUSALS 1
      if c.refusals = 0 then
        let tr := (treeKeys views).filter fun k => k.1.id == slice && k.2.1 == switch
        let pool := match c.src.view slice with
          | some w => s.slvPool w.template
          | none => 0
        let n := solveFlashes false tr.length (s.sweepLanes pool) s.tim.periodUs
        (s.onCycle fun c => { c with refusals := 1, left := n }).setPhase .solving
      else
        let s := s.setPhase .refused
        let s := s.logOwn 0x021 0x05 slice [w32 c.epoch, s.getReg Reg.WDN_VERDICT, s.getReg Reg.WDN_REFUSE_WHERE]
        (s.raise Fld.SLV_INT_STATUS_BANK_REFUSED).notReady c.epoch 4

/-- BANK_LOAD_DONE: with every agent written and matched, or counted out, the Keeper is SOLVED and sends BANK_READY; an announcement
already received is taken (R135, R140, R142). -/
def execBankLoadDone (s : State) : Host.Outcome State Fault Refusal :=
  let c := s.slv.cycle
  if c.phase = .loading ∧ c.toLoad.isEmpty then
    let s := ((s.setPhase .solved).stageInput .slv .acted).sendBankReady
    .next (if c.f ≠ 0 then s.armBank else s)
  else .next s

/-- BANK_READY: the head notes the rack and its drain set (R142). -/
def State.gotBankReady (s : State) (src : Addr) (m : KMsg) : State :=
  let h := s.slv.head
  if s.isHead ∧ h.active ∧ h.epoch = m.epoch.toNat then
    let r := s.rackOf src
    (s.onHead fun h => { h with ready1 := if h.ready1.contains r then h.ready1 else r :: h.ready1, dset := h.dset ||| m.set }).showHead
  else s

/-- BANK_READY as it arrives (R17, R137). -/
def execBankReady (port : Nat) (p : Packet) (s : State) : Host.Outcome State Fault Refusal := .next (s.takeMsg 0x04 port p State.gotBankReady)

/-- ANNOUNCE: taken once and forwarded; a chart is answered under R86; a bank arms the agents, or NOT_READY gives the reason (R140,
R142). -/
def State.gotAnnounce (s : State) (_src : Addr) (m : KMsg) : State :=
  if m.subject then (s.chartAnnounced m.digest m.flash.toNat)
  else
    let c := s.slv.cycle
    let e := m.epoch.toNat
    if s.mor.rebuild then (s.notReady e 1)
    else if e ≠ c.epoch ∨ c.phase = .idle then
      let s := { s with slv := { s.slv with heard := some (e, m.flash.toNat, m.set) } }
      s.notReady e 7
    else if c.phase = .confirmed then s
    else
      let s := s.takeAnnounce m.flash.toNat m.set
      match c.phase with
      | .solved => s.armBank
      | .armed => s.rearmAgents
      | .solving => (s.notReady e 1)
      | .verifying => (s.notReady e 2)
      | .loading => (s.notReady e 3)
      | _ => (s.notReady e 4)

/-- ANNOUNCE as it arrives (R17, R137). -/
def execAnnounce (port : Nat) (p : Packet) (s : State) : Host.Outcome State Fault Refusal := .next (s.takeMsg 0x05 port p State.gotAnnounce)

/-- READY: the head notes the rack, for a bank or a chart (R86, R142). -/
def State.gotReady (s : State) (src : Addr) (m : KMsg) : State :=
  let r := s.rackOf src
  if ¬ s.isHead then s
  else if m.subject then (s.chartReady r m.digest)
  else if s.slv.head.active ∧ s.slv.head.epoch = m.epoch.toNat then
    (s.onHead fun h => { h with ready2 := if h.ready2.contains r then h.ready2 else r :: h.ready2 }).showHead
  else s

/-- READY as it arrives (R17, R137). -/
def execReady (port : Nat) (p : Packet) (s : State) : Host.Outcome State Fault Refusal := .next (s.takeMsg 0x06 port p State.gotReady)

/-- NOT_READY: the rack's READY no longer stands, and the head postpones, or withdraws the epoch on reason 0x04 (R86, R142, R149). -/
def State.gotNotReady (s : State) (src : Addr) (m : KMsg) : State :=
  if ¬ s.isHead then s
  else if m.subject then
    match s.chart.announce with
    | some a => (if a.digest = m.digest then s.postponeChart else s)
    | none => s
  else if s.slv.head.active ∧ s.slv.head.epoch = m.epoch.toNat then
    let s := (s.onHead fun h => { h with ready2 := h.ready2.filter (· != s.rackOf src) }).showHead
    (if bitsOf m.count 0 8 = 4 then s.refusedBank else s.postponeBank)
  else s

/-- NOT_READY as it arrives (R17, R137). -/
def execNotReady (port : Nat) (p : Packet) (s : State) : Host.Outcome State Fault Refusal := .next (s.takeMsg 0x07 port p State.gotNotReady)

/-- READY_DEADLINE: a READY is missing at the close point of F − 2, so the head postpones (R142). -/
def execReadyDeadline (s : State) : Host.Outcome State Fault Refusal :=
  let h := s.slv.head
  let s := if h.announced ∧ s.tim.flash + 2 ≥ h.f ∧ ¬ s.awaited.all (fun r => h.ready2.contains r) then s.postponeBank else s
  match s.chart.announce with
  | some a => .next (if s.tim.flash + 2 ≥ a.f ∧ ¬ (List.range s.rackCount).all (fun r => a.ready.contains r) then s.postponeChart else s)
  | none => .next s

/-- POSTPONE: the new F is taken; armed agents are re-armed for it (R140, R143). -/
def State.gotPostpone (s : State) (_src : Addr) (m : KMsg) : State :=
  if m.subject then (s.chartPostponed m.digest m.flash.toNat)
  else
    let c := s.slv.cycle
    if c.epoch = m.epoch.toNat ∧ c.phase ≠ .confirmed ∧ c.phase ≠ .idle then
      let s := (s.takeAnnounce m.flash.toNat c.dset).countReg Reg.SLV_POSTPONES 1
      let s := s.raise Fld.SLV_INT_STATUS_POSTPONED
      (if c.phase = .armed then s.rearmAgents else s)
    else match s.slv.heard with
      | some (e, _, d) => if e = m.epoch.toNat then { s with slv := { s.slv with heard := some (e, m.flash.toNat, d) } } else s
      | none => s

/-- POSTPONE as it arrives (R17, R137). -/
def execPostpone (port : Nat) (p : Packet) (s : State) : Host.Outcome State Fault Refusal := .next (s.takeMsg 0x08 port p State.gotPostpone)

/-- CONFIRM: an armed Keeper sends GO to its rack (R140, R144). -/
def State.gotConfirm (s : State) (_src : Addr) (m : KMsg) : State :=
  if m.subject then (s.chartConfirmed m.digest m.flash.toNat)
  else
    let c := s.slv.cycle
    (if c.phase = .armed ∧ c.epoch = m.epoch.toNat ∧ c.f = m.flash.toNat then s.confirmBank else s)

/-- CONFIRM as it arrives (R17, R137). -/
def execConfirm (port : Nat) (p : Packet) (s : State) : Host.Outcome State Fault Refusal := .next (s.takeMsg 0x09 port p State.gotConfirm)

/-- GO_REPEAT: GO is sent a second time, 1 µs after the first (R144). -/
def execGoRepeat (s : State) : Host.Outcome State Fault Refusal :=
  .next (if s.slv.cycle.phase = .confirmed ∧ s.slv.cycle.go then (s.sendGo).onCycle fun c => { c with go := false } else s)

/-- LIT_REPORT: the head notes that a rack lit its bank (R138). -/
def State.gotLitReport (s : State) (src : Addr) (_m : KMsg) : State :=
  let r := s.rackOf src
  (if s.isHead then s.onHead fun h => { h with litRacks := if h.litRacks.contains r then h.litRacks else r :: h.litRacks } else s)

/-- LIT_REPORT as it arrives (R17, R137). -/
def execLitReport (port : Nat) (p : Packet) (s : State) : Host.Outcome State Fault Refusal := .next (s.takeMsg 0x0A port p State.gotLitReport)

/-- WITHDRAW: of a chart announcement (R87), or of an epoch: agents disarmed, the dark image dropped, WITHDRAWN raised (R140). -/
def State.gotWithdraw (s : State) (_src : Addr) (m : KMsg) : State :=
  if m.subject then (s.chartWithdrawn m.digest)
  else
    let c := s.slv.cycle
    let e := m.epoch.toNat
    let s := { s with slv := { s.slv with
      waiting := s.slv.waiting.filter fun x => x.epoch != e, heard := s.slv.heard.filter fun x => x.1 != e, epoch := if s.slv.epoch + 1 = e then e else s.slv.epoch } }
    let s := { s with slc := { s.slc with issued := s.slc.issued.map fun (i : SliceIssued) => if i.epoch = some e then { i with epoch := some (e + 1) } else i } }
    let s := s.revertSlices e
    if c.epoch = e ∧ c.phase ≠ .confirmed ∧ c.phase ≠ .idle then
      (s.dropCycle.raise Fld.SLV_INT_STATUS_WITHDRAWN)
    else (s.raise Fld.SLV_INT_STATUS_WITHDRAWN)

/-- WITHDRAW as it arrives (R17, R137). -/
def execWithdraw (port : Nat) (p : Packet) (s : State) : Host.Outcome State Fault Refusal := .next (s.takeMsg 0x0B port p State.gotWithdraw)

/-- RACK_FENCE: a rack silent for ABANDON_FLASHES after publication: the epoch is withdrawn, and the next one carries the same changes
with every uplink of that rack at 0 lanes (R148). -/
def execRackFence (rack : Nat) (s : State) : Host.Outcome State Fault Refusal :=
  let h := s.slv.head
  if s.isHead ∧ h.active ∧ ¬ h.confirmed ∧ h.published + s.getF Fld.SLV_PARAMS_ABANDON_FLASHES ≤ s.tim.flash
     ∧ ¬ (if h.announced then h.ready2 else h.ready1).contains rack then
    let recs := (List.range 64).map fun k => linkRecord 1 (rack % s.axes.1) (rack / s.axes.1) (k / 4) (128 + k % 4) 0
    let s := s.withdrawEpoch recs
    .next (s.onHead fun h => { h with fenced := if h.fenced.contains rack then h.fenced else rack :: h.fenced })
  else .next s

end Sys2Proof.Machine
end

