-- ==== Sys2Proof/Machine/Lighting.lean ====
section
/-! DEFINITION. Machine/Lighting.lean: the lighting of a bank and of a chart (R83, R86, R88, R89, R140, R165, R167, R211). -/
namespace Sys2Proof.Machine

/-! ### What a bank's lighting does beyond the bank (R167, R172, R211, R247, R343, R351) -/

/-- A member of a plan's group no longer belongs to a slice's layout (R211). -/
def State.memberLeft (s : State) (v : SliceView) (desc : List Word) : Bool :=
  (planDesc desc).members.any fun en => match s.endpoint en with
    | some e => !v.has (e / 128) (e % 128)
    | none => true

/-- Plans are released without PLAN_DONE: at this rack, and in the head's records (R211). -/
def State.releasePlans (s : State) (slice : Nat) (gone : List Word → Bool) : State :=
  let mine := s.clp.plans.filter fun p => p.slice == slice && gone p.desc
  let s := mine.foldl (fun s p => (s.freePlan p.ctx false).raise Fld.CLP_INT_STATUS_RELEASED) s
  let out := (s.clp.live.filter fun p => p.slice == slice && gone p.desc).map (·.ordinal)
  s.onClp fun c => { c with
    live := c.live.filter fun p => !(p.slice == slice && gone p.desc)
    recoveries := c.recoveries.filter fun r => !(r.slice == slice && out.contains r.ordinal)
    aborts := c.aborts.filter fun r => !(r.slice == slice && out.contains r.ordinal) }

/-- A slice just created: its keys and its Lantern contexts (R247, R341). -/
def State.sliceCreated (s : State) (id epoch : Nat) : State := (s.makeKey id epoch).reserveLantern id

/-- A slice lit again, with the members it had: a rotation, plans whose members left released, slots set to LOADED by its drain ENABLED again, the drain's pause lifted
(R165, R211, R343). -/
def State.sliceResealed (s : State) (id : Nat) (drained : Bool) (members : List Addr) : State :=
  let s := s.rotate id
  let s := match s.litView id with
    | some v => s.releasePlans id (s.memberLeft v)
    | none => s
  if drained then
    ((s.clp.plans.filter fun p => p.slice == id && p.st == 3).foldl (fun s p => s.unloadSlots p.ctx) s).mgmtAll
      (members ++ (s.memberAgents id).filter fun a => !members.contains a) 0x3C [0] 6 id 0x05 (.pause id)
  else s

/-- A slice destroyed: its plans, keys, seals, reservations and everything held under its number (R167, R211, R343). -/
def State.sliceDestroyed (s : State) (id : Nat) (members : List Addr) : State :=
  let s := (s.releasePlans id fun _ => true).dropKey id
  let s := s.mgmtAll members 0x3C [0] 6 id 0x05 (.pause id)
  { s with
    link := { s.link with wake := eraseNat id s.link.wake, parkAt := eraseNat id s.link.parkAt }
    slc := { s.slc with drains := s.slc.drains.filter fun d => d.slice != id, rackDrains := s.slc.rackDrains.filter fun d => d.slice != id }
    clp := { s.clp with
      lntSlices := eraseNat id s.clp.lntSlices, ordinals := eraseNat id s.clp.ordinals, adms := s.clp.adms.filter fun a => a.req.slice != id
      queue := s.clp.queue.filter fun q => q.slice != id, discards := s.clp.discards.filter fun d => d.slice != id } }

/-- The bank of the cycle is lit: what R140 says of the Keeper, then what follows for the slices whose change it carries (R165, R167, R211), and
for the SEALED slices of D (R146, R351). -/
def State.lightNow (s : State) : State :=
  let c := s.slv.cycle
  let changed := s.slc.table.filterMap fun r => match r.chg with
    | some (e, l) => if e == c.epoch then some (r.id, r.lay.isSome, l.isSome, r.prior == 5, s.memberAgents r.id) else none
    | none => none
  let serving := s.wdn.serving
  let s := s.lightBank
  let s := s.onWdn fun w => { w with verified := if serving && c.verified then some c.digest else w.verified }
  let s := changed.foldl (fun s x =>
    let (id, was, now, drained, members) := x
    if !now then s.sliceDestroyed id members else if was then s.sliceResealed id drained members else s.sliceCreated id c.epoch) s
  let s := (s.slv.lit.slices.filter fun v => v.cls == 2 && c.dset.getLsbD v.id && v.racks.contains s.myRack).foldl (fun s v => s.askSeal v.id 2) s
  let s := { s with slv := { s.slv with holds := [] } }
  (s.writeParkMax.showPlans.showSlices).stageInput .slv .acted

/-- BANK_LIGHT: at the boundary that opens F, or the next one when late, a confirmed bank is lit (R140); none while the Warden core does not serve
(R34). -/
def execBankLight (s : State) : Host.Outcome State Fault Refusal :=
  let c := s.slv.cycle
  .next (if s.work.opening ∧ s.wdn.serving ∧ c.phase = .confirmed ∧ c.f ≠ 0 ∧ c.f ≤ s.tim.flash then s.lightNow else s)

/-! ### A chart's lighting (R83, R86, R88, R89, R97) -/

/-- The ports as a lighting finds them, in the order of R97: those that carry nothing train, those with a found neighbour are judged against the
new cabling plan (R96, R97, R104). That a port held in test is passed over is the model's choice (DESIGN CHOICE, log entry 39). -/
def State.lightPorts (s : State) : State :=
  ([20] ++ List.range 20).foldl (fun s n =>
    match (s.port n).st with
    | .off | .extra | .quarantined | .dark => if s.inTest n || s.atBroken n then s else s.trainPort n
    | .lit | .held | .parked => if n < 20 then s.judgePort n else s
    | _ => s) s

/-- A chart lights at this Keeper (R88): its content takes effect, the lasers are powered with the first chart, discovery compares the fabric with
the new plan, the head starts a solve when the plan or the EN map changed, the rack's agents take the new weights and the chart tag. -/
def State.lightChart (s : State) (n : Nat) (c : Chart) : State :=
  let old := s.chart.lit
  let same := match old with
    | some o => o.racks == c.racks && o.enMap == c.enMap
    | none => false
  let s := (s.lightLocal n c).setReg Reg.PWR_RAILS (putBits (s.getReg Reg.PWR_RAILS) 8 1 1)
  let s := if same then s else s.onHead fun h => { h with solve := true }
  let s := { s with chart := { s.chart with announce := none } }
  let s := s.showLamps.showPlans.showSlices.judgeMismatch
  let s := if s.lit then s.slv.out.foldl State.countIn s.clearHolds.writeWeights.writeTags else s
  (s.lightPorts.stageInput .cht .acted)

/-- The window of a LIGHT_CHART completes after the lighting, under R28 (R89, R476). -/
def State.chartLightDone (s : State) (win : Nat) : State :=
  if win < 16 then
    s.completeAfter win s.tim.flash 256 [loHalf s.tim.flash, fieldAt 0 16 (s.tim.flash / 2 ^ 32), s.getReg Reg.CHT_LIT_SERIAL]
  else s

/-- The chart that the image shows lit at the active, when this standby holds it in a CHECKED slot and has another lit (R86). -/
def State.mirroredChart (s : State) : Option (Nat × Chart) :=
  match Config.imageOf s.heldImage with
  | none => none
  | some i =>
    (List.range 4).findSome? fun n => match (s.slot n).chart with
      | some c => if (s.slot n).shadow == .checked && i.litDigest == some c.digest && s.chart.lit.map (·.digest) != some c.digest then some (n, c) else none
      | none => none

/-- CHART_LIGHT: at the boundary that opens the confirmed F the armed chart is lit; a standby lights it when its image shows it lit (R86, R88). -/
def execChartLight (s : State) : Host.Outcome State Fault Refusal :=
  if ¬ s.work.opening then .next s
  else match s.chart.arm with
  | some a =>
    match (s.slot a.slot).chart with
    | some c =>
      if a.confirmed ∧ a.flash ≤ s.tim.flash then
        let s := { s with chart := { s.chart with headDigest := some a.digest, headNext := none } }
        .next ((s.lightChart a.slot c).chartLightDone a.win)
      else .next s
    | none => .next s
  | none =>
    if s.lit then .next s
    else match s.mirroredChart with
      | some (n, c) => .next (s.lightChart n c)
      | none => .next s

/-- A slot's NVM copy at reset: loaded into its shadow and checked (R83). -/
def State.loadNvm (s : State) (n : Nat) : State :=
  if (s.slot n).nvm = .valid then
    (((s.onSlot n fun x => { x with image := x.nvmImage, loadLen := 4 * x.nvmImage.length }).checkSlot n).1)
  else s

/-- The first of the boot slots that may be lit; a VALID copy below the floor is recorded and passed over (R83, R84). -/
def State.bootSlots (s : State) : List Nat → State
  | [] => s
  | n :: rest =>
    let s := s.loadNvm n
    match if (s.slot n).shadow = .checked then (s.slot n).chart else none with
    | some c => if c.floorSerial < (s.getReg Reg.CHT_SERIAL_FLOOR).toNat then State.bootSlots (s.chartRefused n 0x10 0) rest else s.lightChart n c
    | none => State.bootSlots s rest

/-- BOOT_CHART_LIGHT: at a flash boundary with no chart lit, BOOT_SLOT is lit locally, else FALLBACK_SLOT when FALLBACK_EN is 1, else the Keeper stays in NONE (R83). -/
def execBootChartLight (s : State) : Host.Outcome State Fault Refusal :=
  if s.chart.lit.isSome ∨ ¬ s.work.opening then .next s
  else
    let second := if s.flag Fld.CHT_BOOT_FALLBACK_EN then [s.getF Fld.CHT_BOOT_FALLBACK_SLOT] else []
    .next (s.bootSlots (s.getF Fld.CHT_BOOT_BOOT_SLOT :: second))

end Sys2Proof.Machine
end

