-- ==== Sys2Proof/Machine/Log.lean ====
section
/-! DEFINITION. Machine/Log.lean: the commands of the log book (16_log_book.md). -/
namespace Sys2Proof.Machine

/-- LOG_EVENT: LOG takes an event (R421). -/
def execLogEvent (e : LogEvt) (s : State) : Host.Outcome State Fault Refusal := .next (s.logEvt e false false)

/-- PILOT_LOG_SUBMIT: codes 0x080 to 0x0FF only, PARTY the Keeper, ENGINE the core; discarded and counted when PILOT_EN is 0;
any other code is no record a Pilot core may submit and is discarded (R425, R428, R29). -/
def execPilotLogSubmit (core : BitVec 8) (code : BitVec 10) (slice : Byte) (body : List Word) (s : State) :
    Host.Outcome State Fault Refusal :=
  if ¬ (0x080 ≤ code.toNat ∧ code.toNat ≤ 0x0FF) then .next s
  else if s.flag Fld.LOG_CTRL_PILOT_EN then
    .next (s.logEvt { code := code, party := s.self, fa2 := false, flash := BitVec.ofNat 48 s.tim.flash,
                      offset := BitVec.ofNat 25 s.tim.offset, slice := slice, engine := core + 0x10, body := body.take 251 } true false)
  else .next ((s.count Fld.LOG_DROPPED_RECORDS 1).count Fld.LOG_DROPPED_PILOT 1)

/-- The ring in bytes (R429). -/
def ringSize : Nat := 2 ^ 30

/-- A record is written at the head of the ring: the oldest records whose bytes it reaches are overwritten and leave the cache,
and LOG_HEAD rises by its length (R426, R429). -/
def State.ringPut (s : State) (r : LogRec) : State :=
  let head := s.log.head + r.length
  let keep := s.log.ring.filter fun x => head ≤ x.1 + ringSize
  let gone := (s.log.ring.filter fun x => ¬ head ≤ x.1 + ringSize).map (·.2.seq)
  let s := { s with log := { s.log with ring := keep ++ [(s.log.head, r)], head := head,
                                        cache := (s.log.uncache gone.contains).cache } }
  s.setPair Reg.LOG_HEAD_LO head

/-- A PAD record that fills the space left at the end of the ring (R424, R429). -/
def padRecord (seq len : Nat) (s : State) : LogRec :=
  { seq := seq, code := 0, conc := false, outorder := false, isLocal := s.stampLocal s.self, wallback := false, lost := false, submitted := false,
    wgen := (s.getReg Reg.LOG_WALL_CHANGE).toNat % 1024, flash := s.tim.flash, offset := s.tim.offset, rep := 0, body := [], length := len,
    fa2 := false, bad := [], badHead := false }

/-- A record's CONC and OUTORDER behind the record whose stamp is given (R421). -/
def LogRec.behind (r : LogRec) (s : State) (l : Option LogStamp) : LogRec :=
  { r with conc := l.any fun x => s.stampConc x r.stamp, outorder := l.any fun x => s.stampOut x r.stamp }

/-- A record moves to the ring; where it does not fit before the end, PAD fills what is left, EV_LOG_WRAP stands at offset 0, and the record's flags
are those behind it (R421, R429). -/
def State.ringMove (s : State) (r : LogRec) : State :=
  let left := if s.log.head % ringSize = 0 ∧ s.log.head ≠ 0 then 0 else ringSize - s.log.head % ringSize
  if r.length ≤ left then s.ringPut r
  else
    let s := s.countReg Reg.LOG_WRAPS 1
    let n := s.log.nextSeq
    let prev := ((s.log.ring.filter fun x => x.2.code != 0).getLast?).map fun x => x.2.stamp
    let wrap : LogRec := { padRecord (n + 1) 32 s with
      code := 0x001, wallback := s.wallBack, body := [subjectWord s.self 0 0x0C, s.getReg Reg.LOG_WRAPS] }
    let s := { s with log := { s.log with nextSeq := n + 2 } }
    let s := if left = 0 then s else s.ringPut (padRecord n left s)
    let s := (s.ringPut (wrap.behind s prev)).ringPut (r.behind s (some wrap.stamp))
    s.raise Fld.LOG_INT_STATUS_WRAP

/-- The oldest staged record is moved to the ring (R428, R429). -/
def State.moveOne (s : State) : State :=
  match s.log.staging with
  | [] => s
  | r :: rest =>
    let s := { s with log := { s.log with staging := rest, pilotStaged := s.log.pilotStaged.filter (· != r.seq),
                                          sampleStaged := s.log.sampleStaged.filter (· != r.seq) } }
    (s.ringMove r).showStage

/-- All of staging is moved to the ring (R430, R431). -/
def State.drainStaging (s : State) : State :=
  let s := s.takeGathered
  (List.range s.log.staging.length).foldl (fun s _ => s.moveOne) s

/-- LOG_COPY shows the areas (R437). -/
def State.showCopies (s : State) : State :=
  let s := s.setF Fld.LOG_COPY_VALID (b2n s.log.areaA.valid + 2 * b2n s.log.areaB.valid)
  s.setF Fld.LOG_COPY_WRITING (b2n s.log.copying.isSome)

/-- The newest copy area is B: the valid one, or the one LOG_COPY names when both are (R431). -/
def State.newestB (s : State) : Bool :=
  s.log.areaB.valid && (!s.log.areaA.valid || s.getF Fld.LOG_COPY_NEWEST == 1)

/-- A copy begins: staging is emptied into the ring, and the area that does not hold the newest valid copy reads WRITING (R431). -/
def State.startCopy (s : State) (why : CopyFor) : State :=
  let s := s.drainStaging
  let toB := s.log.areaA.valid && !s.newestB
  let s := { s with log := { s.log with copying := some (toB, why) } }
  let s := if toB then { s with log := { s.log with areaB := { s.log.areaB with valid := false, writing := true } } }
           else { s with log := { s.log with areaA := { s.log.areaA with valid := false, writing := true } } }
  s.showCopies

/-- The newest whole records up to 8 MiB; where a header line fails, the copy starts behind it (R431, R435). -/
def newestRecords (limit : Nat) : List (Nat × LogRec) → List LogRec
  | [] => []
  | x :: rest =>
    let tail := newestRecords limit rest
    if tail.length = rest.length ∧ ¬ x.2.badHead ∧ ((tail.map (·.length)).foldl (· + ·) 0) + x.2.length ≤ limit then x.2 :: tail else tail

/-- A record as a copy holds it: the failing body lines are zero (R435). -/
def LogRec.copied (r : LogRec) : LogRec := { r with body := r.body.zipIdx.map fun x => if r.bad.contains x.2 then 0 else x.1 }

/-- A copy ends, its header written last: the area is valid and the newest, COPIES rises, COPY_DONE is raised (R431, R437). -/
def State.endCopy (s : State) : State :=
  match s.log.copying with
  | none => s
  | some (toB, _) =>
    let area : LogArea := { valid := true, writing := false, recs := (newestRecords (8 * 2 ^ 20) s.log.ring).map LogRec.copied, walls := s.log.walls }
    let s := { s with log := if toB then { s.log with areaB := area, copying := none } else { s.log with areaA := area, copying := none } }
    let s := (s.showCopies.setF Fld.LOG_COPY_NEWEST (b2n toB)).count Fld.LOG_COPY_COPIES 1
    let s := match area.recs.getLast? with
      | some r => s.setPair Reg.LOG_COPY_FLASH_LO r.flash
      | none => s
    s.raise Fld.LOG_INT_STATUS_COPY_DONE

/-- The words of a list of records placed by their ring offsets, read at a byte offset of a 1 GiB window (R433). -/
def ringWordAt (ring : List (Nat × LogRec)) (off : Nat) : Word :=
  match ring.find? fun x => x.1 % ringSize ≤ off && off < x.1 % ringSize + x.2.length with
  | some x => wordAt x.2.words ((off - x.1 % ringSize) / 4)
  | none => 0

/-- The 8 words of a wall-table entry (R423). -/
def WallEnt.words (w : WallEnt) : List Word :=
  [loHalf w.flash, hiHalf w.flash, fieldAt 0 25 w.offset, w32 w.change, loHalf w.wall, hiHalf w.wall, w32 (toTwos 32 w.ppb),
   fieldAt 0 1 1 ||| fieldAt 1 1 (b2n w.back)]

/-- The wall table read at a byte offset (R423). -/
def wallWordAt (walls : List (Nat × WallEnt)) (off : Nat) : Word :=
  match lookupNat (off / 32) walls with
  | some w => wordAt w.words (off % 32 / 4)
  | none => 0

/-- A copy area read at a byte offset: records first, the wall table at 8 MiB (R433). -/
def LogArea.wordAt (a : LogArea) (off : Nat) : Word :=
  if off < 8 * 2 ^ 20 then Sys2Proof.wordAt (a.recs.flatMap LogRec.words) (off / 4) else wallWordAt a.walls (off - 8 * 2 ^ 20)

/-- What BAR4 shows at an aperture offset, by LOG_BAR4.SELECT (R433); the telemetry rings are those of R320. -/
def State.bar4Word (s : State) (off : Nat) : Word :=
  let sel := s.getF Fld.LOG_BAR4_SELECT
  let newestB := s.newestB
  if sel = 0 then ringWordAt s.log.ring off
  else if sel = 1 then wallWordAt s.log.walls off
  else if sel = 2 then (if newestB then s.log.areaB.wordAt off else if s.log.areaA.valid then s.log.areaA.wordAt off else 0)
  else if sel = 3 then (if newestB then s.log.areaA else s.log.areaB).wordAt off
  else if sel ≤ 7 then s.tel.fineWord ((sel - 4) * 2 ^ 30 + off)
  else s.tel.coarseWord ((sel - 8) * 2 ^ 30 + off)

/-- BAR4_READ: the selected content, or 0xFFFF_FFFF for a line whose detection code fails, counted in RST_DETECT; an unaligned read returns 0 and is
recorded (R9, R433, R435, R464). -/
def execBar4Read (off bytes : Nat) (fails : Bool) (s : State) : Host.Outcome State Fault Refusal :=
  .next (
    if ¬ s.hostReaches then s
    else if ¬ readAligned off bytes then (s.recordErr Fld.HIF_ERR_STATUS_ACCESS 2 off).send (.readData 0)
    else
      let word := fun (o : Nat) => if fails then 0xFFFFFFFF else s.bar4Word o
      let v := if bytes = 8 then word (off + 4) ++ word off else BitVec.ofNat 64 (subWord (word (off / 4 * 4)) off bytes)
      let s := s.send (.readData v)
      if fails then ((s.count Fld.RST_DETECT_HBM 1).raise Fld.RST_INT_STATUS_DETECT).raise Fld.LOG_INT_STATUS_LOST else s)

/-- BAR4_WRITE: ignored and recorded as BAR4_WRITE (R433, R485). -/
def execBar4Write (off : Nat) (value : BitVec 64) (s : State) : Host.Outcome State Fault Refusal :=
  match value with
  | _ => .next (if s.hostReaches then s.recordErr Fld.HIF_ERR_STATUS_BAR4_WRITE 2 off else s)

end Sys2Proof.Machine
end

