-- ==== Sys2Proof/Machine/Sec.lean ====
section
/-! DEFINITION. Machine/Sec.lean: the commands of the Warden core and the processors (01_architecture.md R32 to R35, 13_security.md). -/
namespace Sys2Proof.Machine

/-! ### The processors (R32, R33, R339) -/

/-- The first sixteen cores in service leave reset (R33, R413). -/
def State.releasePilots (s : State) : State :=
  let good := ((List.range 18).filter fun n => !((s.work.pilots[n]?).any (·.retired))).take 16
  { s with work := { s.work with pilots := s.work.pilots.zipIdx.map fun (x : Pilot × Nat) => { x.1 with running := good.contains x.2 } } }

/-- The Warden core's start from its ROM (R33, R34, R336, R339): an image signed, recent enough and of at most 256 KiB is measured and run; then
the Pilot image and the lit chart are measured and the Pilot cores are released, and the lit bank is verified again. Any other image is not run, no
Pilot core runs, and the unit is unfit. -/
def State.wardenStart (s : State) (m : WardenImage) : State :=
  let s := ((s.setReg Reg.WDN_FUSE Config.fuses).setReg Reg.WDN_SERIAL_LO (Config.serial.extractLsb' 0 32)).setReg Reg.WDN_SERIAL_HI
    (Config.serial.extractLsb' 32 32)
  let s := (s.setF Fld.WDN_SEC_STATE_DEBUG_LOCKED (b2n (Config.debugFused || !m.debug))).setF Fld.WDN_SEC_STATE_DEBUG_FUSED (b2n Config.debugFused)
  if m.signed ∧ bitsOf Config.fuses 24 8 ≤ m.svn ∧ m.size ≤ 262144 then
    let s := s.setDigest (Reg.WDN_WARDEN_DIGEST 0) (Config.shake256 m.bytes)
    let s := s.setDigest (Reg.WDN_PILOT_DIGEST 0) (Config.shake256 m.pilot)
    let good := (firstFinding (s.solveCtx s.slv.lit.graph s.slv.lit.slices) s.slv.lit.enMap s.slv.lit s.slv.lit []).1 == 0
    let s := s.onWdn fun w => { w with serving := true, pilot := m.pilot, chart := s.chart.lit.map (·.digest),
                                       verified := if good then some (s.digestAt (Reg.SLV_LIT_DIGEST 0)) else none }
    ((s.setF Fld.WDN_SEC_STATE_SERVING 1).setUnfit 1 false).releasePilots
  else
    let s := { s with work := { s.work with pilots := s.work.pilots.map fun (p : Pilot) => { p with running := false } } }
    ((s.onWdn fun w => { w with serving := false }).setF Fld.WDN_SEC_STATE_SERVING 0).setUnfit 1 true

/-- WARDEN_START. -/
def execWardenStart (m : WardenImage) (s : State) : Host.Outcome State Fault Refusal := .next (s.wardenStart m)

/-- PILOT_FIRMWARE_REPLACE: the cores restart with the new image, measured as they leave reset (R35, R339); a Warden core that does not serve
measures nothing, and they stay in reset (R33). -/
def execPilotFirmwareReplace (image : List Byte) (s : State) : Host.Outcome State Fault Refusal :=
  let s := { s with work := { s.work with pilots := s.work.pilots.map fun (p : Pilot) => { p with running := false } } }
  .next (if s.wdn.serving then
    ((s.setDigest (Reg.WDN_PILOT_DIGEST 0) (Config.shake256 image)).onWdn fun w => { w with pilot := image }).releasePilots
  else s)

/-- PILOT_CORE_STOP: the core answers no more; banks, paths and chart are untouched (R32). -/
def execPilotCoreStop (core : BitVec 8) (s : State) : Host.Outcome State Fault Refusal :=
  .next { s with work := { s.work with pilots := modifyAt (fun (p : Pilot) => { p with running := false }) core.toNat s.work.pilots } }

/-! ### Enrolment and rotation (R337, R338, R343) -/

/-- With WDN_ENROL_CTRL.GO set the endorsement is fetched, and one that cannot be fetched is missing (R338). -/
def State.enrolAct (s : State) : State :=
  if ¬ s.flag Fld.WDN_ENROL_CTRL_GO ∨ s.wdn.enrol.isSome ∨ ¬ s.wdn.serving then s
  else
    let e : Enrol := { slot := s.getF Fld.WDN_ENROL_CTRL_SLOT, action := s.getF Fld.WDN_ENROL_CTRL_ACTION, bytes := none, reason := none }
    let len := s.getF Fld.WDN_ENROL_CTRL_LEN
    let s := s.onWdn fun w => { w with enrol := some e }
    if len = 0 then s.enrolJudged 2
    else if ¬ s.flag Fld.HIF_CTRL_DMA_EN then (s.dmaErr 16 5).enrolJudged 2
    else s.startDma 16 .endorsement (s.getPair Reg.WDN_ENROL_ADDR_LO) len id

/-- ENROL_VERIFY_DONE: the endorsement fetched is judged; the boundary that follows shows the change pending, or refused (R337, R338). -/
def execEnrolVerifyDone (s : State) : Host.Outcome State Fault Refusal :=
  match s.wdn.enrol with
  | some e => match e.bytes with
    | some b => .next (s.enrolJudged (s.enrolReason e b))
    | none => .next s
  | none => .next s

/-- At the boundary after its verification an enrolment shows its result (R338). -/
def State.showEnrol (s : State) : State :=
  match s.wdn.enrol with
  | some e => match e.reason with
    | some r => (s.enrolResult e r (bytesIn (e.bytes.getD []) 24 57)).renew Fld.WDN_ENROL_CTRL_GO State.enrolAct
    | none => s
  | none => s

/-- With WDN_ROTATE.GO set the rotation starts or is held pending, and GO clears (R343, R361). -/
def State.rotateAct (s : State) : State :=
  let slice := s.getF Fld.WDN_ROTATE_SLICE
  if s.flag Fld.WDN_ROTATE_GO ∧ (s.wdn.keys.any fun k => k.slice == slice) then (s.rotate slice).setF Fld.WDN_ROTATE_GO 0 else s

/-! ### Attestation and seals (R345 to R354) -/

/-- A security refusal: its reason also in result word 0 (R348, R354). -/
def State.secRefused (s : State) (w reason : Nat) : State :=
  (if reason = 7 then s.raise Fld.WDN_SEC_INT_STATUS_QUEUE_FULL else s).complete w 8 reason [fieldAt 16 8 reason] false

/-- A slice is FREE or has no member in this rack. -/
def State.offRack (s : State) (slice : Nat) : Bool :=
  match s.litView slice with
  | some v => !(v.racks.contains s.myRack)
  | none => true

/-- The queue is full (R351). -/
def State.signFull (s : State) : Bool := 256 ≤ s.wdn.queue.length

/-- ATTEST on a committed block (R345, R348). -/
def cmdAttest (w : Nat) (s : State) : State :=
  let slice := bitsOf (s.arg w 1) 0 8
  let len := (s.arg w 4).toNat
  let need := 808 + (if slice = 0 then 0 else (s.layoutBlock slice).length)
  if (s.arg w 2).toNat % 64 ≠ 0 then s.refuse w 2 2
  else if ¬ s.wdn.serving then s.secRefused w 1
  else if slice ≠ 0 ∧ s.offRack slice then s.secRefused w 2
  else if len < need then s.secRefused w 5
  else if bitsOf (s.arg w 1) 8 24 ≠ 0 then s.secRefused w 6
  else if s.signFull then s.secRefused w 7
  else State.startSign 1 false (s.pushSign (signJob (.report w) 4))

/-- ATTEST. -/
def execAttest (c : HostCmd) (s : State) : Host.Outcome State Fault Refusal := .next (s.issue c 0x0A cmdAttest)

/-- A seal of case 1 or 2 of a slice that is queued, being signed, or not yet published, and the least ISSUE_FLASH to wait for (R354). -/
def State.sealDue (s : State) (slice : Nat) : Option Nat :=
  let is := fun (j : SignJob) => j.what == .seal slice && j.rank ≤ 2
  match (s.wdn.signed ++ s.wdn.signing.toList).find? is with
  | some j => some j.flash
  | none => if s.wdn.queue.any is then some s.tim.flash else none

/-- ISSUE_SEAL on a committed block (R348, R354). -/
def cmdIssueSeal (w : Nat) (s : State) : State :=
  let slice := bitsOf (s.arg w 1) 0 8
  let renew := bitAt (s.arg w 1) 8
  let wait := fun (since : Nat) => (⟨w, slice, pairAt [s.arg w 2, s.arg w 3] 0, (s.arg w 4).toNat, since⟩ : SealWait)
  let held := fun (s : State) since => s.onWdn fun x => { x with waits := x.waits ++ [wait since] }
  if renew ∧ ¬ s.lit then s.refuse w 3 0
  else if (s.arg w 2).toNat % 64 ≠ 0 then s.refuse w 2 2
  else if ¬ s.wdn.serving then s.secRefused w 1
  else if s.offRack slice then s.secRefused w 2
  else if ¬ s.isSealed slice then s.secRefused w 3
  else if ¬ renew ∧ (s.seal slice).isNone ∧ (s.sealDue slice).isNone then s.secRefused w 4
  else if (s.arg w 4).toNat < (padStmt (zeros (388 + (s.layoutBlock slice).length + 114))).length then s.secRefused w 5
  else if bitsOf (s.arg w 1) 9 23 ≠ 0 then s.secRefused w 6
  else match s.sealDue slice with
    | some since => held s since
    | none =>
      if renew then (if s.signFull then s.secRefused w 7 else (held s s.tim.flash).askSeal slice 4)
      else match s.seal slice with
        | some x => s.answerSeal (wait 0) x false
        | none => s

/-- ISSUE_SEAL. -/
def execIssueSeal (c : HostCmd) (s : State) : Host.Outcome State Fault Refusal := .next (s.issue c 0x0B cmdIssueSeal)

/-- A signed report is written to host memory with the layout block behind it, and its command completes (R345, R348). -/
def State.finishReport (s : State) (w : Nat) (j : SignJob) : State :=
  let bytes := signStmt "Orvon-KX2 attest" (j.body.getD []) ++ j.tail
  let s := (s.countReg Reg.WDN_ATTESTS 1).progress 0x22
  if (s.arg w 4).toNat < bytes.length then s.secRefused w 5
  else if ¬ s.flag Fld.HIF_CTRL_DMA_EN then (s.dmaErr w 5).refuse w 4 5
  else (s.dmaWrite (pairAt [s.arg w 2, s.arg w 3] 0) (wordsOfBytes bytes)).complete w 0 0
    [fieldAt 0 16 bytes.length, loHalf j.flash, fieldAt 0 16 (j.flash / 2 ^ 32)] false

/-- A signed CONFIRM goes out while its port is still in SECURE (R344). -/
def State.finishConfirm (s : State) (port : Nat) : State :=
  let p := s.port port
  match p.hello with
  | some far => if p.st = .secure then
      (s.send (.secure port (signStmt "Orvon-KX2 link" (stmtHeader 0x05 0x44 ++ helloDigest p.ownHello far)))).progress 0x22
    else s
  | none => s

/-- SIGNATURE_DONE: the statement is finished; a seal waits for the boundary; the next entry is taken in the order of R351. -/
def execSignatureDone (s : State) : Host.Outcome State Fault Refusal :=
  match s.wdn.signing with
  | none => .next s
  | some j =>
    let s := s.onWdn fun w => { w with signing := none }
    let s := match j.what with
      | .confirm n => s.finishConfirm n
      | .report w => s.finishReport w j
      | .seal _ => s.onWdn fun w => { w with signed := w.signed ++ [{ j with done := s.tim.flash }] }
    .next (State.startSign 257 false s)

/-- SEAL_PUBLISH: after the boundary that follows its signature a seal is published; one below the lit epoch is discarded, and of two of a slice the later issue
counts (R352, R353). -/
def execSealPublish (s : State) : Host.Outcome State Fault Refusal :=
  let js := s.wdn.signed.filter fun j => decide (j.done < s.tim.flash ∧ s.slv.litEpoch ≤ j.epoch)
  let best := js.filter fun j => !(js.any fun k => k.slice == j.slice && j.flash < k.flash)
  let s := s.onWdn fun w => { w with signed := w.signed.filter fun j => s.tim.flash ≤ j.done }
  .next (if s.lit then best.foldl (fun s j => s.publishSeal j j.slice) s else s)

/-- SEAL_RENEWAL: a seal past half its life is queued for renewal, once (R351). -/
def execSealRenewal (s : State) : Host.Outcome State Fault Refusal :=
  let due := s.wdn.seals.filter fun x => x.own && !x.renewed && x.issue + (x.expiry - x.issue) / 2 ≤ s.tim.flash
  .next (if s.lit then due.foldl (fun s x => (s.onSeal x.slice fun y => { y with renewed := true }).askSeal x.slice 5) s else s)

/-- SEAL_LOW: less than a quarter of a seal's life is left; its renewal moves ahead (R351, R361). -/
def execSealLow (s : State) : Host.Outcome State Fault Refusal :=
  let due := s.wdn.seals.filter fun x => x.own && !x.low && 4 * (x.expiry - s.tim.flash) < x.expiry - x.issue
  .next (due.foldl (fun s x =>
    let s := (s.onSeal x.slice fun y => { y with low := true }).raise Fld.WDN_SEC_INT_STATUS_SEAL_LOW
    s.onWdn fun w => { w with queue := w.queue.map fun j => if j.what = .seal x.slice then { j with rank := min j.rank 3 } else j }) s)

/-- The EN of an endpoint of this rack. -/
def State.enAt (s : State) (a : Addr) : Nat := (enOf s.slv.lit.enMap s.myRack (addrIndex a)).getD 0x3FFF

/-- SEAL_DIRECT_WRITE: each agent that still lacks a seal after its broadcasts is logged, and the seal is written to it directly (R353). -/
def execSealDirectWrite (s : State) : Host.Outcome State Fault Refusal :=
  let due := s.wdn.seals.filter fun x => x.own && !x.missing.isEmpty && s.getF Fld.WDN_SEAL_CTRL_DELIVER_MAX ≤ x.sent
  .next (if ¬ s.lit then s else due.foldl (fun s x =>
    let s := x.missing.foldl (fun s a =>
      let s := (s.logOwn 0x063 0x22 x.slice [fieldAt 0 14 (s.enAt a)]).raise Fld.WDN_SEC_INT_STATUS_SEAL_DIRECT
      let s := (stagingRuns x.bytes).foldl (fun s r => s.mgmtWrite a r.1 r.2 0 x.slice 0x05 (.seal x.slice)) s
      s.mgmtWrite a 0x98 [fieldAt 0 16 x.bytes.length] 0 x.slice 0x05 (.seal x.slice)) s
    s.onSeal x.slice fun y => { y with missing := [] }) s)

end Sys2Proof.Machine
end

