-- ==== Sys2Proof/Machine/ResetOps.lean ====
section
/-! DEFINITION. Machine/ResetOps.lean: samples, resets by level, escalation, retirement of units (15_faults_reset.md). -/
namespace Sys2Proof.Machine

/-- The reset record, changed. -/
def State.onRst (s : State) (f : RstState → RstState) : State := { s with rst := f s.rst }

/-- An engine's record. -/
def State.engine (s : State) (id : Nat) : Engine := (s.rst.engines.find? fun e => e.id == id).getD (Engine.fresh id)

/-- ESC_WINDOW in flashes. -/
def State.escWindow (s : State) : Nat := s.getF Fld.RST_ESC_PARAMS_ESC_WINDOW

/-- RST_LAST_RESET's word (R418). -/
def lastResetWord (level engine slice cause : Nat) : Word := fieldAt 0 3 level ||| fieldAt 8 8 engine ||| fieldAt 16 8 slice ||| fieldAt 24 4 cause

/-- A reset is recorded: RST_LAST_RESET, its flash, EV_RESET_DOMAIN (R418, R424). -/
def State.recordReset (s : State) (level engine slice cause : Nat) : State :=
  let w := lastResetWord level engine slice cause
  ((s.setReg Reg.RST_LAST_RESET w).setPair Reg.RST_LAST_FLASH_LO s.tim.flash).logOwn 0x051 0x0E slice [w]

/-- EV_HANG: KIND 0 engine, 1 context, 2 management, with the agent's address (R424). -/
def State.logHang (s : State) (engine slice kind ctx : Nat) (agent : Addr) : State :=
  (s.logOwn 0x050 engine slice [fieldAt 0 2 kind ||| fieldAt 16 11 ctx, w32 agent.toNat]).raise Fld.RST_INT_STATUS_HANG

/-- The flash stage of an engine (R22). -/
def engineStage (id : Nat) : Option StageId :=
  if id = 2 then some .cht else if id = 3 then some .dsc else if id = 4 then some .slv else if id = 5 then some .wdn else if id = 6 then some .clp
  else if id = 9 then some .tim else if id = 0x0A then some .tel else if id = 0x0B then some .mor else if id = 0x0E then some .rst else none

/-- Inputs queued at an engine (R393, R406). -/
def State.queuedAt (s : State) (id : Nat) : Nat :=
  let stage := match engineStage id with
    | some g => ((s.work.stages.filter fun x => x.id == g).map fun x => x.waiting.length).sum
    | none => 0
  let own :=
    if id = 0x01 then s.hif.dma.length
    else if id = 0x07 then s.lmp.units.length + s.lmp.spillQueue.length
    else if id = 0x0B then s.mor.owed.length + s.mor.committed.length
    else if id = 0x0C then s.log.staging.length
    else if id = 0x0E then s.rst.samples.length
    else if id = 0x22 then s.wdn.queue.length
    else 0
  stage + own

/-- An engine's PROGRESS has stood for HANG_WINDOW boundaries that count: those at which its flash stage was late, or, where it has a streaming path
(R18), those since PROGRESS moved; that it held pending work at them is what a report of a hang with its work item says (R394, log entry 126). -/
def State.hungAt (s : State) (id : Nat) : Bool :=
  let w := s.getF Fld.RST_STATE_HANG_WINDOW
  let stage := match engineStage id with
    | some g => s.work.stages.any fun x => x.id == g && decide (w ≤ x.run)
    | none => false
  stage || (!([2, 4, 5, 0x0A].contains id) && decide (w ≤ (s.engine id).still))

/-! ### Samples (R406) -/

/-- The 128 records of a sample: the summary, then the engine's internal state, which the spec leaves open (free values); a Warden sample holds
the summary alone. -/
def State.sampleRecords (s : State) (engine level cause slice : Nat) (item : Word) : List LogEvt × State :=
  let e := s.engine engine
  let summary := [fieldAt 0 8 engine ||| fieldAt 8 3 level ||| fieldAt 12 4 cause ||| fieldAt 16 8 slice, loHalf s.tim.flash,
    fieldAt 0 16 (s.tim.flash / 2 ^ 32), e.progress, w32 (s.queuedAt engine), fieldAt 0 4 (min 15 e.still), item, fieldAt 0 6 (s.getF Fld.RST_STATE_MGEN)]
    ++ List.replicate 56 0
  let base := s.freeCtr
  let word := fun (i : Nat) => if i < 64 then wordAt summary i else if engine = 0x22 then 0 else Config.freeWord (base + i - 64)
  let num := s.getF Fld.RST_SAMPLES_TAKEN + s.rst.samples.length
  let body := fun (k : Nat) => [fieldAt 0 16 num ||| fieldAt 16 7 k, w32 (512 * k), 0] ++ (List.range 128).map fun i => word (128 * k + i)
  let rec_ := fun (k : Nat) => LogEvt.mk 0x053 s.self false (BitVec.ofNat 48 s.tim.flash) (BitVec.ofNat 25 s.tim.offset)
    (BitVec.ofNat 8 slice) (BitVec.ofNat 8 engine) (body k)
  ((List.range 128).map rec_, { s with freeCtr := s.freeCtr + 16320 })

/-- Samples that wait are staged, each whole, while the sample room has space for one (R406, R428). Fuel: the samples. -/
def State.stageSamples : Nat → State → State
  | 0, s => s
  | n + 1, s =>
    match s.rst.samples with
    | [] => s
    | j :: rest =>
      let need := (j.records.map fun e => recordLength (e.body.length + 1)).sum
      if s.log.used true + need ≤ 68 * 1024 then
        let s := s.onRst fun r => { r with samples := rest }
        let s := j.records.foldl (fun s e => s.logEvt e false true) s
        State.stageSamples n (s.count Fld.RST_SAMPLES_TAKEN 1)
      else s

/-- A sample is taken before a reset when SAMPLE_EN is 1 (R406). -/
def State.sample (s : State) (engine level cause slice : Nat) (item : Word) : State :=
  if s.flag Fld.RST_CTRL_SAMPLE_EN then
    let r := s.sampleRecords engine level cause slice item
    let s := r.2.onRst fun x => { x with samples := x.samples ++ [{ engine := engine, records := r.1 }] }
    State.stageSamples s.rst.samples.length s
  else s

/-- RST_STATE.LEVEL: the highest level in progress (R418). -/
def State.showLevel (s : State) : State :=
  let one := if s.rst.ctxs.isEmpty then 0 else 1
  let part := match s.rst.part with
    | some p => if p.started then p.level else 0
    | none => 0
  s.setF Fld.RST_STATE_LEVEL ((s.rst.engines.map (·.inReset)).foldl max (max one part))

/-! ### Level 1 (R390, R395, R405) -/

/-- The context's working state goes: pieces are replayed, buffers refill from retries (R270, R278, R395). -/
def State.dropContext (s : State) (kind ctx : Nat) : State :=
  if kind = 1 then
    match s.plan ctx with
    | some p =>
      let s := s.onPlan ctx fun p => { p with places := [] }
      let s : State := { s with lmp := { s.lmp with units := s.lmp.units.filter fun u => u.ctx != ctx } }
      (s.dropSent fun x => x.ctx == ctx && x.launch != noLaunch).replayRoot p
    | none => s
  else if kind = 2 then
    { s with lnt := { s.lnt with ctxs := s.lnt.ctxs.map fun (c : LntCtx) => if c.num = ctx then { c with bufs := [] } else c } }
  else s

/-- A context reset at level 1 begins (R390, R395). -/
def State.resetContext (s : State) (engine kind ctx slice cause : Nat) (wins : List (Nat × Nat)) : State :=
  let s := s.sample engine 1 cause slice (fieldAt 16 11 ctx)
  let s := (s.recordReset 1 engine slice cause).count Fld.RST_COUNT_A_CONTEXT 1
  let s := s.onRst fun r => { r with ctxs := r.ctxs ++ [{ engine := engine, kind := kind, ctx := ctx, wins := wins, began := s.tim.flash }] }
  ((s.onEngine engine fun e => { e with ctxHangs := s.tim.flash :: e.ctxHangs }).dropContext kind ctx).showLevel

/-! ### Levels 2 and 3 (R391, R392, R401) -/

/-- An engine bit of RST_HUNG. -/
def State.showHung (s : State) (id : Nat) (on : Bool) : State :=
  let off := if id < 32 then Reg.RST_HUNG_LO else Reg.RST_HUNG_HI
  s.setReg off (putBits (s.getReg off) (id % 32) 1 (b2n on))

/-- Operations in flight that an engine's reset cuts short advance MGEN (R407). -/
def State.resetOps (s : State) (engine : Nat) (slice : Option Nat) : State :=
  if s.mgmt.ops.any fun o => o.engine == engine || slice.any fun n => n == o.slice && n != 0 then s.advanceMgen else s

/-- The batch input of a discarded batch goes back to the head of the queue (R392). -/
def State.returnBatch (s : State) (id : Nat) : State :=
  match engineStage id with
  | some g => s.onStage g fun x => { x with waiting := x.batch ++ x.waiting, batch := [], closed := true }
  | none => s

/-- What a reset of an engine discards beyond R392 (the column of R391). -/
def State.stopEngine (s : State) (id : Nat) : State :=
  if id = 0x07 then s.clp.plans.foldl (fun s p => s.dropContext 1 p.ctx) s
  else if id = 0x08 then { s with lnt := { s.lnt with ctxs := s.lnt.ctxs.map fun (c : LntCtx) => { c with bufs := [] } } }
  else if id = 0x0A then { s with tel := { s.tel with making := none } }
  else if id = 0x0B then (if s.lit then s.partnerStale else s.selfStale)
  else if 0x10 ≤ id ∧ id ≤ 0x21 then { s with work := { s.work with pilots := modifyAt (fun (p : Pilot) => { p with running := false }) (id - 16) s.work.pilots } }
  else if id = 0x22 then
    ((s.onWdn fun w => { w with serving := false, signing := none, verified := none }).setF Fld.WDN_SEC_STATE_SERVING 0).setUnfit 1 true
  else s

/-- A reset of level 2 or 3 of an engine begins, or is merged with one in progress (R392, R400). -/
def State.resetEngine (s : State) (id level slice cause : Nat) (item : Word) (wins : List (Nat × Nat)) : State :=
  let e := s.engine id
  if level ≤ e.inReset then s.onEngine id fun e => { e with wins := e.wins ++ wins }
  else
    let s := s.sample id level cause slice item
    let s := s.resetOps id (if level = 3 then some slice else none)
    let now := s.tim.flash
    let s := s.onEngine id fun e => { e with
      inReset := level, wins := e.wins ++ wins, began := now, slice := slice, stalled := 0, still := 0,
      resets := if level = 2 then min 255 (e.resets + 1) else e.resets, level3 := if level = 3 then some now else e.level3,
      suspect := if level = 3 then (slice, now) :: e.suspect.filter fun x => x.1 != slice else e.suspect }
    let s := (s.recordReset level id slice cause).count (if level = 3 then Fld.RST_COUNT_B_SLICE else Fld.RST_COUNT_A_ENGINE) 1
    ((s.stopEngine id).returnBatch id).showLevel

/-- Windows whose commands an engine holds for a slice (R401). -/
def State.windowsAt (s : State) (engine slice : Nat) : List Nat :=
  if engine = 0x06 then (s.clp.issued.filter fun i => i.slice == slice).map (·.win)
  else if engine = 0x04 ∨ engine = 0x05 then (s.slc.issued.filter fun i => i.slice == slice).map (·.win)
  else if engine = 0x22 then
    (s.wdn.waits.filter fun x => x.slice == slice).map (·.win) ++ (s.wdn.queue.filterMap SignJob.window).filter fun w => bitsOf (s.arg w 1) 0 8 == slice
  else []

/-- An input of a flash stage is of a slice: a message whose SET names it, a wake latency for it (R168, R186, R286, R401). -/
def Job.ofSlice (slice : Nat) : Job → Bool
  | .wake _ n _ => n == slice
  | .message _ m => m.set == BitVec.ofNat 256 (2 ^ slice) && 0x20 ≤ m.mtype.toNat && m.mtype.toNat < 0x48 && m.mtype != 0x22
  | _ => false

/-- The window of a flash stage's input. -/
def Job.window : Job → Option Nat
  | .wake w _ _ => some w
  | .light w _ => some w
  | _ => none

/-- A slice's inputs queued at an engine's flash stage are discarded, host commands among them with the reset error (R401). -/
def State.dropInputs (s : State) (id slice : Nat) : State :=
  match engineStage id with
  | none => s
  | some g =>
    let gone := (s.work.stages.filter fun x => x.id == g).flatMap fun x => x.waiting.filter fun j => j.2.ofSlice slice
    let s := s.onStage g fun x => { x with waiting := x.waiting.filter fun j => !j.2.ofSlice slice }
    s.failWindows ((gone.filterMap fun j => j.2.window).filter fun w => (s.window w).st == .busy) 9 1

/-- A level-3 reset: the engine, the slice's inputs there, its contexts everywhere, its structures at the agents (R401). -/
def State.resetSlice (s : State) (id slice cause : Nat) (item : Word) (wins : List (Nat × Nat)) : State :=
  let s := (s.resetEngine id 3 slice cause item wins).dropInputs id slice
  let s := s.failWindows ((s.windowsAt id slice).filter fun w => (s.window w).st == .busy && !(wins.any fun x => x.1 == w)) 9 1
  let s := (s.clp.plans.filter fun p => p.slice == slice).foldl (fun s p => s.dropContext 1 p.ctx) s
  let s := { s with lnt := { s.lnt with ctxs := s.lnt.ctxs.map fun (c : LntCtx) => if c.slice = slice then { c with bufs := [] } else c } }
  let s := s.rackAgents.foldl (fun s a => s.auditAgent a) s
  (s.clp.plans.filter fun p => p.slice == slice && p.st != 1).foldl (fun s p =>
    ((s.planMembers p).map (·.1) ++ s.planSwitches p).foldl (fun s a => s.auditPlan p a) s) s

/-! ### Levels 4 to 6 (R397 to R404) -/

/-- A partner is present (R398). -/
def State.partnerPresent (s : State) : Bool := [1, 2, 3].contains (s.getF Fld.MOR_STATE_PARTNER)

/-- ESCALATE_RESET's completion: LEVEL carried out, REASON 4 for a request merged into a higher level, the flash it started in (R405). -/
def State.answerReset (s : State) (level began : Nat) (wins : List (Nat × Nat)) : State :=
  wins.foldl (fun s x => s.complete x.1 0 0
    [fieldAt 0 3 level ||| fieldAt 8 8 (if x.2 < level then 4 else 0), loHalf began, fieldAt 0 16 (began / 2 ^ 32)] false) s

/-- A deferral is recorded (R397, R398). -/
def State.deferReset (s : State) (level : Nat) : State :=
  ((s.setF Fld.RST_STATE_DEFERRED 1).logOwn 0x052 0x0E 0 [fieldAt 0 3 level]).raise Fld.RST_INT_STATUS_DEFERRED

/-- The waiting windows of resets that a module-wide reset takes in (R400). -/
def State.takeWins (s : State) : List (Nat × Nat) × State :=
  let ws := (s.rst.engines.flatMap (·.wins)) ++ (s.rst.ctxs.flatMap (·.wins)) ++ s.rst.fitWins
  (ws, s.onRst fun r => { r with
    engines := r.engines.map fun (e : Engine) => { e with wins := [] }
    ctxs := r.ctxs.map fun (c : CtxReset) => { c with wins := [] }
    fitWins := [] })

/-- Chart slots as the NVM check at reset finds them (R82, R91, R513): a copy that was being written has no header and is CORRUPT. -/
def State.readSlots (s : State) (old : ChartState) : State :=
  let keys := old.keys.filterMap (·.nvm)
  let slot := fun (x : Slot) =>
    let nvm : NvmState := if x.nvm = .writing then .corrupt else if x.nvmImage.isEmpty then .empty
      else match checkImage keys x.nvmImage (4 * x.nvmImage.length) with
        | .ok _ => .valid
        | .bad _ _ => .corrupt
    { Slot.empty with nvm := nvm, nvmImage := if x.nvm = .writing then [0] else x.nvmImage }
  let s := { s with chart := { ChartState.reset with
    slots := old.slots.map slot, settingsA := old.settingsA, settingsB := old.settingsB, keys := old.keys.map fun (k : KeySlot) => { k with pend := none } } }
  let s := s.raiseIf (s.chart.slots.any fun x => x.nvm == .corrupt) Fld.CHT_INT_STATUS_SLOT_CORRUPT
  let set := match old.settingsA, old.settingsB with
    | some a, some b => some (if a.age < b.age then b else a)
    | some a, none => some a
    | none, some b => some b
    | none, none => none
  let s := match set with
    | some x => ((s.setReg Reg.CHT_BOOT x.boot).setReg Reg.CHT_SERIAL_FLOOR x.floor).setF Fld.HIF_CTRL_MAX_SPEED x.maxSpeed
    | none => s
  s.showKeys

/-- The newest valid log copy: LOG_COPY and the floor of R303 follow it (R432, R513). -/
def State.readLogCopies (s : State) (newestB : Bool) (copies : Nat) : State :=
  let area := if newestB then s.log.areaB else s.log.areaA
  let s := ((s.setF Fld.LOG_COPY_VALID (b2n s.log.areaA.valid + 2 * b2n s.log.areaB.valid)).setF Fld.LOG_COPY_NEWEST (b2n newestB)).setF Fld.LOG_COPY_COPIES copies
  match if area.valid then area.recs.getLast? else none with
  | some r => (s.setPair Reg.LOG_COPY_FLASH_LO r.flash).setPair Reg.TIM_FLOOR_LO r.flash
  | none => s

/-- EV_LOG_RESTART (R424, R430, R432). -/
def State.logRestart (s : State) (level cause : Nat) : State :=
  let newest := if s.getF Fld.LOG_COPY_NEWEST = 1 then s.log.areaB else s.log.areaA
  let f := match if newest.valid then newest.recs.getLast? else none with
    | some r => r.flash
    | none => 0
  s.logOwn 0x002 0x0C 0 [fieldAt 0 3 level ||| fieldAt 4 4 cause, loHalf f, fieldAt 0 16 (f / 2 ^ 32), fieldAt 0 1 (b2n newest.valid)]

/-- A port of the link layer through a level-4 reset: trained, its queue and traffic gone (R402). -/
def Port.through (p : Port) : Port :=
  { p with eg := { p.eg with queue := [], resyncing := false }, resyncDue := false, samples := 0, sampleSum := 0, unclean := true, busy := false, idle := 0 }

/-- The arbiter's pins as MOR_STATE and MOR_PINS show them (R389). -/
def State.showPins (s : State) : State :=
  let s := (s.setF Fld.MOR_STATE_GRANT (b2n s.mor.grant)).setF Fld.MOR_PINS_GRANT (b2n s.mor.grant)
  (s.setF Fld.MOR_STATE_LIT (b2n s.mor.lit)).setF Fld.MOR_PINS_LIT_LINE (b2n (s.mor.lit || s.mor.otherLit))

/-- What a level-4 reset leaves: the link layer, HBM, the PCIe link and HIF, the RST and always-on registers, NVM, the retirement map; all other
state as after reset (R390, R402, R407, R430, R512). -/
def State.restartPart (s : State) (cause : Nat) : State :=
  let kept := s.regs.filter fun r => servedInLevel4 r.1
  let nb := s.newestB
  let copies := s.getF Fld.LOG_COPY_COPIES
  let change := s.getReg Reg.LOG_WALL_CHANGE
  let r := { State.reset with
    pending := s.pending, outbox := s.outbox, freeCtr := s.freeCtr, regs := kept
    hif := { s.hif with waits := [], dma := [] }
    work := { Work.reset with pilots := s.work.pilots.map fun (p : Pilot) => { p with running := false, hangs := 0 } }
    link := { LinkState.reset with
      ports := s.link.ports.map Port.through, positions := s.link.positions, moving := s.link.moving, lasersUp := s.link.lasersUp
      toTrain := s.link.toTrain, training := s.link.training, spentLasers := s.link.spentLasers
      lastTag := some (s.link.lastTag.getD (s.chartTag.1, s.chartTag.2, w32 s.slv.epoch)) }
    slv := { SlvState.reset with retiredLanes := s.slv.retiredLanes, spareLanes := s.slv.spareLanes }
    lmp := { LmpState.reset with retired := s.lmp.retired, spares := s.lmp.spares }
    mor := { MorState.reset with grant := s.mor.grant, otherLit := s.mor.otherLit, reports := s.mor.reports }
    rst := { s.rst with engines := engineIds.map Engine.fresh, ctxs := [], samples := [], mgenFlash := none }
    pwr := s.pwr, log := { s.log with staging := [], pilotStaged := [], sampleStaged := [] }
    tel := { TelState.reset with fine := s.tel.fine, coarse := s.tel.coarse } }
  let r := ((r.readSlots s.chart).readLogCopies nb copies).setPair Reg.LOG_HEAD_LO s.log.head
  let r := ((r.setReg Reg.LOG_WALL_CHANGE change).setF Fld.RST_STATE_HANG_WINDOW 4).setReg Reg.RST_HUNG_LO 0
  let r := (r.setF Fld.MOR_STATE_ROLE (s.getF Fld.PWR_STRAPS_ROLE)).showPins
  let r := ((r.setF Fld.RST_STATE_MGEN 0).setReg Reg.RST_HUNG_HI 0).setF Fld.MOR_HEALTH_UNFIT 15
  (r.showLamps.logRestart 4 cause)

/-- What a level-5 reset leaves, an area found invalid recorded (R437), or a level-6 reset when the always-on domain kept nothing: NVM, the straps and the arbiter's pins, and at level 5
the always-on state of R403 (R390, R403, R411, R432). -/
def State.restartChip (s : State) (level cause : Nat) : State :=
  let aon := level = 5
  let nb := s.newestB
  let copies := s.getF Fld.LOG_COPY_COPIES
  let r := { State.reset with
    pending := s.pending, outbox := s.outbox, freeCtr := s.freeCtr
    regs := s.regs.filter fun r => r.1 == Reg.PWR_STATE || r.1 == Reg.PWR_RAILS || r.1 == Reg.PWR_STRAPS
    work := if aon then { Work.reset with pilots := s.work.pilots.map fun (p : Pilot) => { p with running := false, hangs := 0 } } else Work.reset
    link := if aon then { LinkState.reset with positions := s.link.positions, spentLasers := s.link.spentLasers } else LinkState.reset
    slv := if aon then { SlvState.reset with retiredLanes := s.slv.retiredLanes, spareLanes := s.slv.spareLanes } else SlvState.reset
    lmp := if aon then { LmpState.reset with retired := s.lmp.retired, spares := s.lmp.spares } else LmpState.reset
    mor := { MorState.reset with grant := s.mor.grant, otherLit := s.mor.otherLit, lit := aon && s.mor.lit }
    rst := if aon then { RstState.reset with
        sinceChip := some 0, faults := [], copies := s.rst.copies, withdrawn := s.rst.withdrawn, withheld := s.rst.withheld, lost := s.rst.lost
        channels := s.rst.channels, blocks := s.rst.blocks }
      else { RstState.reset with blocks := s.rst.blocks }
    pwr := s.pwr, log := { LogState.reset with areaA := s.log.areaA, areaB := s.log.areaB } }
  let r := (r.readSlots s.chart).readLogCopies nb copies
  let r := r.raiseIf (!(r.log.areaA.valid && r.log.areaB.valid)) Fld.LOG_INT_STATUS_COPY_INVALID
  let r := (List.range 9).foldl (fun r c => if aon then r.setF (reserveUsed c) (s.getF (reserveUsed c)) else r) r
  let r := if aon then (r.setF Fld.RST_COUNT_B_CHIP (s.getF Fld.RST_COUNT_B_CHIP)).setF Fld.RST_COUNT_B_PART (s.getF Fld.RST_COUNT_B_PART) else r
  let r := (r.setF Fld.RST_STATE_HANG_WINDOW 4).setF Fld.MOR_STATE_ROLE (s.getF Fld.PWR_STRAPS_ROLE)
  (r.showPins.showLamps.logRestart level cause)

/-- A level-4, 5 or 6 reset starts: at level 4 other BUSY windows end; the reset is recorded; level 4 clears the main die, 5 and 6 make the log copy first
(R397, R402 to R404, R430, R431, R483). -/
def State.startPart (s : State) (p : PartReset) : State :=
  let s := s.setUnfit 3 true
  let r := s.takeWins
  let keep := (if p.level = 4 then p.wins ++ r.1 else []).map (·.1)
  let s := r.2
  let now := s.tim.flash
  let s := if p.cause = 4 ∧ p.engine ≠ 0x0E then s.sample p.engine p.level p.cause p.slice 0 else s
  let s := if p.level = 4 then s else s.answerReset p.level now (p.wins ++ r.1)
  let s := if p.level = 4 then s.failWindows ((List.range 16).filter fun w => (s.window w).st == .busy && !keep.contains w) 9 2 else s
  let s := s.recordReset p.level p.engine p.slice p.cause
  let part := { p with started := true, began := now, wins := if p.level = 4 then p.wins ++ r.1 else [] }
  if p.level = 4 then
    let s := (s.count Fld.RST_COUNT_B_PART 1).drainStaging.setF Fld.RST_STATE_DEFERRED 0
    let s := s.restartPart p.cause
    (s.onRst fun r => { r with part := some part }).showLevel
  else
    let s := (s.onRst fun r => { r with part := some part }).showLevel
    let s := if p.level = 5 then s.count Fld.RST_COUNT_B_CHIP 1 else s
    s.startCopy (if p.level = 5 then .chipReset else .powerCycle)

/-- A reset of level 4 to 6 proceeds: at once without LIT, else as a planned handover that waits for LIT_N (R399). -/
def State.proceedPart (s : State) (p : PartReset) : State :=
  let s := (s.setUnfit 3 true).setF Fld.RST_STATE_DEFERRED 0
  let s := s.onRst fun r => { r with part := some p }
  if s.lit then s.setUnfit 6 true else s.startPart p

/-- A reset of level 4 to 6 is decided (R397, R398, R400): a level-5 trigger soon after another goes to 6; level 6 without PWR_CYC_EN and a reset
without a partner are deferred; a request below one in progress is merged, one above supersedes it. -/
def State.decidePart (s : State) (level0 cause engine slice : Nat) (force : Bool) (wins : List (Nat × Nat)) : State :=
  let level := if level0 = 5 ∧ cause ≠ 0 ∧ (s.rst.sinceChip.any fun n => n ≤ s.escWindow) then 6 else level0
  if level = 6 ∧ cause ≠ 0 ∧ ¬ s.flag Fld.RST_CTRL_PWR_CYC_EN then s.deferReset 6
  else
    let s := s.raise Fld.RST_INT_STATUS_ESCALATED
    let p : PartReset := { level := level, cause := cause, engine := engine, slice := slice, wins := wins, began := s.tim.flash, force := force,
                           deferred := false, started := false, pin := false, held := false }
    match s.rst.part with
    | some q =>
      if level ≤ q.level ∧ ¬ q.deferred then s.onRst fun r => { r with part := some { q with wins := q.wins ++ wins } }
      else if q.deferred ∧ ¬ (s.partnerPresent ∨ force ∨ s.flag Fld.RST_CTRL_ESC_ALONE) then
        (s.onRst fun r => { r with part := some { q with level := max level q.level } }).deferReset (max level q.level)
      else s.proceedPart { p with wins := q.wins ++ wins, level := max level q.level }
    | none =>
      if s.partnerPresent ∨ force ∨ s.flag Fld.RST_CTRL_ESC_ALONE then s.proceedPart p
      else (s.onRst fun r => { r with part := some { p with deferred := true } }).deferReset level

/-! ### Escalation (R397) -/

/-- A flash list holds one within ESC_WINDOW. -/
def State.recent (s : State) (fs : List Nat) : Bool := fs.any fun f => s.tim.flash ≤ f + s.escWindow

/-- A Pilot core is retired: a spare core takes its queues (R413). -/
def State.bringPilot (s : State) (core : Nat) : State :=
  let free := [16, 17].find? fun n => (s.work.pilots[n]?).any fun p => !p.retired && !p.running
  match free with
  | some n =>
    let mine := ((s.work.pilots[core]?).map (·.queues)).getD []
    let s := { s with work := { s.work with pilots := modifyAt (fun (p : Pilot) => { p with running := s.wdn.serving, queues := mine }) n s.work.pilots } }
    s.reserve 5 core n
  | none => s.reserveOut

/-- A pseudo-channel (stack × 32 + channel) gives way to a spare of its stack, page by page; with none left the range is withdrawn, from the fine
ring first (R414). -/
def State.bringChannel (s : State) (ch : Nat) : State :=
  let base := ch / 32 * 2
  match [base, base + 1].find? fun (n : Nat) => !(s.rst.channels.any fun x => x.2 == n) with
  | some n => (s.onRst fun r => { r with channels := r.channels ++ [(ch, n)], copies := r.copies ++ [(ch, n)] }).reserve 6 ch n
  | none =>
    let s := (s.onRst fun r => { r with withdrawn := r.withdrawn + 1 }).reserveOut
    let size := s.fineSize
    { s with tel := { s.tel with fine := s.tel.fine.filter fun x => x.1 < size } }

/-- A unit of classes 5 to 8 gives way to a spare (R412 to R416). -/
def State.bringUnit (s : State) (c unit : Nat) : State :=
  if c = 5 then s.bringPilot unit
  else if c = 6 then s.bringChannel unit
  else
    let used := s.getF (reserveUsed c)
    if used < reserveTotal c then s.reserve c unit used else s.reserveOut

/-- A unit of classes 5 to 8 retires; with AUTO_SPARE 0 its spare is withheld (R412). -/
def State.retireUnit (s : State) (c unit : Nat) : State :=
  if s.flag Fld.RST_CTRL_AUTO_SPARE then s.bringUnit c unit
  else s.onRst fun r => { r with withheld := r.withheld ++ [(c, unit)] }

/-- A Pilot core hung twice, or failed its self-test (R413). -/
def State.retirePilot (s : State) (core : Nat) : State :=
  let s := { s with work := { s.work with pilots := modifyAt (fun (p : Pilot) => { p with retired := true, running := false }) core s.work.pilots } }
  s.retireUnit 5 core

/-- A spare lane comes in for a retired one, while one of the four is left (R130). -/
def State.spareLane (s : State) (lane : Nat) : State :=
  if s.slv.spareLanes < 4 then
    let n := s.slv.spareLanes
    ({ s with slv := { s.slv with spareLanes := n + 1 } }).reserve 4 lane (64 + n)
  else s.reserveOut

/-- A sweep lane retires, and a spare lane of the same pool comes in (R130). -/
def State.retireLane (s : State) (lane : Nat) : State :=
  if s.slv.retiredLanes.contains lane then s
  else
    let s := s.raise Fld.SLV_INT_STATUS_LANE_RETIRED
    let s := { s with slv := { s.slv with retiredLanes := s.slv.retiredLanes ++ [lane] } }
    let s := s.spareLane lane
    (s.setF Fld.SLV_LANES_IN_SERVICE (64 + s.slv.spareLanes - s.slv.retiredLanes.length)).setF Fld.SLV_LANES_SPARES_USED s.slv.spareLanes

/-- A lane fails a tree; the second failure within 64 flashes retires it (R130). -/
def State.laneFailed (s : State) (lane : Nat) : State :=
  if s.slv.laneFails.any fun x => x.1 == lane && s.tim.flash ≤ x.2 + 64 then
    ({ s with slv := { s.slv with laneFails := s.slv.laneFails.filter fun x => x.1 != lane } }).retireLane lane
  else { s with slv := { s.slv with laneFails := (lane, s.tim.flash) :: s.slv.laneFails.filter fun x => x.1 != lane } }

/-- The reset that an engine's hang calls for (R397): the hangs before it, the slice of its work item, and a level-4 reset just past decide. -/
def State.escalate (s : State) (id slice : Nat) (item : Word) : State :=
  let e := s.engine id
  let again := s.recent e.hangs
  let after3 := match e.level3 with
    | some f => s.recent [f]
    | none => false
  let s := s.onEngine id fun e => { e with hangs := s.tim.flash :: (e.hangs.filter fun f => s.tim.flash ≤ f + s.escWindow) }
  let two := fun (s : State) => s.resetEngine id 2 slice 1 item []
  let up := fun (s : State) (level : Nat) =>
    let s := s.decidePart level 4 id slice false []
    if s.rst.part.any (·.deferred) then two s else s
  if 0x10 ≤ id ∧ id ≤ 0x21 then (if again then s.retirePilot (id - 16) else two s)
  else if ¬ s.flag Fld.RST_CTRL_ESC_EN then two s
  else if s.rst.sincePart.any fun n => n ≤ s.escWindow then up s 5
  else if id = 0x22 then (if again then up s 4 else two s)
  else if after3 then up s 4
  else if again then
    (if slice ≠ 0 then (s.raise Fld.RST_INT_STATUS_ESCALATED).resetSlice id slice 4 item [] else up s 4)
  else two s

/-- A context hang, logged with its KIND and the agent concerned (R395, R397, R424): level 1, or at the third in an engine its level 2, which RST
itself does not take (R391). -/
def State.contextHang (s : State) (engine kind ctx slice logKind : Nat) (agent : Addr) : State :=
  let past := ((s.engine engine).ctxHangs.filter fun f => s.tim.flash ≤ f + s.escWindow).length
  let s := s.logHang engine slice logKind ctx agent
  if past ≥ 2 ∧ engine ≠ 0x0E then
    let s := (s.onEngine engine fun e => { e with ctxHangs := [] }).dropContext kind ctx
    s.resetEngine engine 2 slice 4 (fieldAt 16 11 ctx) []
  else s.resetContext engine kind ctx slice 2 []

end Sys2Proof.Machine
end

