-- ==== Sys2Proof/Machine/Chart.lean ====
section
/-! DEFINITION. Machine/Chart.lean: the host's chart commands, NVM stores, the withdrawal of an announcement (R80 to R82, R85, R87, R416, R476 to
R479). -/
namespace Sys2Proof.Machine

/-! ### NVM (R82, R416, R478, R479) -/

/-- The age of the newer settings block that is valid, and whether it is block B (R479). -/
def State.newestSettings (s : State) : Nat × Bool :=
  match s.chart.settingsA, s.chart.settingsB with
  | some a, some b => if a.age < b.age then (b.age, true) else (a.age, false)
  | some a, none => (a.age, false)
  | none, some b => (b.age, true)
  | none, none => (0, true)

/-- The blocks that the write in progress of a STORE takes: data blocks and header of a slot, the key block, or a settings block (R416, log entry
49). -/
def State.storeBlocks (s : State) (j : StoreJob) : List Nat :=
  match j.slots with
  | n :: _ => (List.range ((4 * (s.slot n).image.length + 65535) / 65536 + 1)).map (· + 65 * n)
  | [] => if j.keys then [262] else [if s.newestSettings.2 then 260 else 261]

/-- The store count of an NVM block (R416). -/
def State.blockCount (s : State) (b : Nat) : Nat := (lookupNat b s.rst.blocks).getD 0

/-- A STORE in progress, changed. -/
def State.setStore (s : State) (j : Option StoreJob) : State := { s with chart := { s.chart with store := j } }

/-- The NVM state that a slot's copy shows when a write to it has not begun (R82). -/
def State.nvmState (s : State) (n : Nat) : NvmState :=
  let img := (s.slot n).nvmImage
  if img.isEmpty then .empty
  else match checkImage s.enrolled img (4 * img.length) with
    | .ok _ => .valid
    | .bad _ _ => .corrupt

/-- STOREs run one at a time, in order; the next write of one starts, waits for a load, or ends it with 0x14; the settings are
taken as they stand when their write starts (R81, R478, R513). Fuel: the STOREs. -/
def State.pumpStore : Nat → State → State
  | 0, s => s
  | k + 1, s =>
    match s.chart.store with
    | none =>
      match s.chart.storeQueue with
      | [] => s
      | j :: rest => State.pumpStore k { s with chart := { s.chart with store := some j, storeQueue := rest } }
    | some j =>
      match j.slots with
      | [] =>
        if j.keys ∨ j.settings.isSome then s
        else s.setStore (some { j with settings := some (s.getReg Reg.CHT_BOOT, s.getReg Reg.CHT_SERIAL_FLOOR, s.getF Fld.HIF_CTRL_MAX_SPEED) })
      | n :: _ =>
        let x := s.slot n
        if x.shadow = .loading ∨ x.nvm = .writing then s
        else if x.shadow = .checked then s.onSlot n fun x => { x with nvm := .writing }
        else State.pumpStore k (((s.setStore none).chartRefused n 0x14 0).refuse j.win 5 0x14)

/-- The STOREs that can go on do. -/
def State.storeNext (s : State) : State := State.pumpStore (2 * s.chart.storeQueue.length + 2) s

/-- The blocks are written, each with one more store; `gone` were replaced by spares first (R416). -/
def State.writeBlocks (s : State) (bs gone : List Nat) : State :=
  s.onRst fun r => { r with blocks := bs.foldl (fun acc b =>
    insertNat b ((if gone.contains b then 0 else (lookupNat b acc).getD 0) + 1) acc) r.blocks }

/-- What a finished write of a STORE leaves: the slot's copy VALID, the key changes made, or the settings block (R82, R338, R479). -/
def State.storeStep (s : State) (j : StoreJob) (blocks retired : Nat) : State :=
  let j := { j with written := j.written + blocks, retired := j.retired + retired }
  match j.slots with
  | n :: rest => (s.onSlot n fun x => { x with nvm := .valid, nvmImage := x.image }).setStore (some { j with slots := rest })
  | [] =>
    if j.keys then
      let s := { s with chart := { s.chart with keys := s.chart.keys.map fun (k : KeySlot) => match k.pend with
        | some v => { nvm := v, pend := none }
        | none => k } }
      s.showKeys.setStore (some { j with keys := false })
    else
      let old := s.newestSettings
      let v := j.settings.getD (s.getReg Reg.CHT_BOOT, s.getReg Reg.CHT_SERIAL_FLOOR, s.getF Fld.HIF_CTRL_MAX_SPEED)
      let x : Settings := { age := old.1 + 1, boot := v.1, floor := v.2.1, maxSpeed := v.2.2 }
      let s := { s with chart := if old.2 then { s.chart with settingsA := some x } else { s.chart with settingsB := some x } }
      (s.setStore none).complete j.win 0 0 [w32 j.written, w32 j.retired] false

/-- A write that no spare can carry ends the STORE; what stood in NVM stays readable (R416, R475). -/
def State.storeFailed (s : State) (j : StoreJob) (reason : Nat) : State :=
  let s := match j.slots with
    | n :: _ => s.onSlot n fun x => { x with nvm := s.nvmState n }
    | [] => s
  (s.setStore none).refuse j.win 0x0A reason

/-- STORE_WRITE_DONE: blocks that reached 100,000 stores or failed verification give way to spares, the write stands, the STORE goes on
(R82, R416, R478). -/
def execStoreWriteDone (failedBlocks : Nat) (s : State) : Host.Outcome State Fault Refusal :=
  match s.chart.store with
  | none => .next s
  | some j =>
    let ready := match j.slots with
      | n :: _ => decide ((s.slot n).nvm = .writing)
      | [] => true
    if !ready then .next s
    else
      let bs := s.storeBlocks j
      let worn := bs.filter fun b => 100000 ≤ s.blockCount b
      let failed := (bs.filter fun b => !worn.contains b).take failedBlocks
      let gone := worn ++ failed
      let room := if s.flag Fld.RST_CTRL_AUTO_SPARE then reserveTotal 8 - s.getF (reserveUsed 8) else 0
      let s := gone.foldl (fun s b => s.retireUnit 8 b) s
      let s := if room < gone.length then s.storeFailed j (if failed.isEmpty then 1 else 2)
        else (s.writeBlocks bs gone).storeStep j bs.length gone.length
      .next (s.stageInput .cht .acted).storeNext

/-- STORE on a committed block (R478). -/
def cmdStore (w : Nat) (s : State) : State :=
  let a := (s.arg w 1).toNat
  if 32 ≤ a then s.refuse w 2 1
  else
    let j : StoreJob := { win := w, slots := bitIndices a 4, keys := a.testBit 4, written := 0, retired := 0, settings := none }
    ({ s with chart := { s.chart with storeQueue := s.chart.storeQueue ++ [j] } }).storeNext

/-- STORE (R82, R478). -/
def execStore (c : HostCmd) (s : State) : Host.Outcome State Fault Refusal := .next (s.issue c 0x03 cmdStore)

/-! ### Loading and checking (R70, R80, R81, R477) -/

/-- LOAD_CHART on a committed block: the slot is LOADING while its image is fetched; a locked slot is unchanged (R80, R81, R477). -/
def cmdLoadChart (w : Nat) (s : State) : State :=
  let n := (s.arg w 1).toNat
  let len := (s.arg w 4).toNat
  if 3 < n then s.refuse w 2 1
  else if (s.arg w 2).toNat % 4 ≠ 0 then s.refuse w 2 2
  else if len < 128 ∨ 4 * 2 ^ 20 < len ∨ len % 4 ≠ 0 then s.refuse w 2 4
  else if s.slotLocked n then (s.chartRefused n 0x13 0).refuse w 5 0x13
  else
    let s := s.onSlot n fun x => { x with prev := x.shadow, shadow := .loading, loadLen := len, loadWin := w }
    s.startDma w (.chart n) ((s.arg w 2).toNat + (s.arg w 3).toNat * 2 ^ 32) len fun s =>
      s.onSlot n fun x => { x with shadow := x.prev, loadWin := 16 }

/-- LOAD_CHART (R80, R476). -/
def execLoadChart (c : HostCmd) (s : State) : Host.Outcome State Fault Refusal := .next (s.issue c 0x01 cmdLoadChart)

/-- A slot's image is being fetched. -/
def State.fetching (s : State) (n : Nat) : Bool := s.hif.dma.any fun d => match d.purpose with
  | .chart k => k == n
  | _ => false

/-- The check of a slot's image is published: the shadow becomes CHECKED or REFUSED with its reason, and LOAD_CHART completes (R70, R80, R477). -/
def State.publishCheck (s : State) (slot : Nat) : State :=
  if (s.slot slot).shadow = .loading ∧ ¬ s.fetching slot then
    let w := (s.slot slot).loadWin
    let r := s.checkSlot slot
    let s := r.1.onSlot slot fun x => { x with loadWin := 16 }
    (if r.2 = 0 then s.complete w 0 0 [s.slotStatus slot] false else s.refuse w 5 r.2).storeNext
  else s

/-- CHART_CHECK_DONE: the check of an image that has been fetched ends; the batch publishes its result (R23, R70, R80). -/
def execChartCheckDone (slot : Nat) (s : State) : Host.Outcome State Fault Refusal :=
  .next (if (s.slot slot).shadow = .loading ∧ ¬ s.fetching slot then s.stageResult .cht (.checked slot) else s)

/-! ### Lighting and its withdrawal (R85, R87) -/

/-- LIGHT_CHART on a committed block: the Chart engine takes it at its next intake (R22, R85, R364, R476). -/
def cmdLightChart (w : Nat) (s : State) : State :=
  if ¬ s.lit then s.refuse w 3 0
  else if 3 < (s.arg w 1).toNat then s.refuse w 2 1
  else s.stageInput .cht (.light w (s.arg w 1).toNat)

/-- LIGHT_CHART (R85, R476). -/
def execLightChart (c : HostCmd) (s : State) : Host.Outcome State Fault Refusal := .next (s.issue c 0x02 cmdLightChart)

/-- LIGHT_CHARTs held until the confirmed chart had lit are checked against it at the first boundary after (R85). -/
def State.runHeld (s : State) : State :=
  if s.chart.arm.isSome then s
  else
    let ws := s.chart.held
    ws.foldl (fun s w => s.lightCommand w.1 w.2) { s with chart := { s.chart with held := [] } }

/-- CHART_ANNOUNCE_WITHDRAWAL: after eight postponements, or 64 × LIGHT_LEAD flashes without a CONFIRM, the head withdraws the digest (R87). -/
def execChartAnnounceWithdrawal (s : State) : Host.Outcome State Fault Refusal :=
  match s.chart.announce with
  | none => .next s
  | some a =>
    if s.isHead ∧ ¬ a.confirmed ∧ (8 ≤ a.postponed ∨ a.first + 64 * s.params.lightLead ≤ s.tim.flash) then
      .next ((s.withdrawChart a.digest).chartWithdrawn a.digest)
    else .next s

end Sys2Proof.Machine
end

