-- ==== Sys2Proof/Machine/Egress.lean ====
section
/-! DEFINITION. Machine/Egress.lean: the rows of an egress: a packet boundary, buckets, credits and their resync, at a port of the Keeper or of an agent
of the rack (R58 to R63, R94, R95). -/
namespace Sys2Proof.Machine

/-- EGRESS_PACKET_BOUNDARY: the egress of a Keeper port, or of an agent's, chooses its next packet and sends it (R58 to R62). -/
def execEgressPacketBoundary (party : Option Addr) (port : Nat) (s : State) : Host.Outcome State Fault Refusal :=
  match party with
  | some a => .next (s.agEmit a port)
  | none => match s.choose port with
    | some (w, p) => .next (s.emit port w p)
    | none => .next s

/-- One bucket filled to now at the cap of its VC (R60). -/
def State.refill (s : State) (lanes vc : Nat) (q : Egress) : Egress :=
  if vc = 0 then { q with bucket0 := s.fillBucket 2 lanes q.bucket0 } else if vc = 1 then { q with bucket1 := s.fillBucket 3 lanes q.bucket1 } else q

/-- TOKEN_BUCKET_REFILL: a VC0 or VC1 bucket fills at its cap of the link's current rate, to 8,224 bytes at most (R60). -/
def execTokenBucketRefill (party : Option Addr) (port : Nat) (vc : Nat) (s : State) : Host.Outcome State Fault Refusal :=
  match party with
  | some a => .next (s.onAgent a fun g => g.onPort port fun p => { p with eg := s.refill p.lanes vc p.eg })
  | none => .next (s.onPort port fun p => { p with eg := s.refill p.serving vc p.eg })

/-- Units of a VC come back, up to those the receiver has (R62). -/
def Egress.regain (q : Egress) (most vc units : Nat) : Egress := { q with credits := modifyAt (fun c => min most (c + units)) vc q.credits }

/-- CREDIT_RETURN: units of a VC come back, up to the 130 a Keeper's receiver has and the 65 of an agent's (R62). -/
def execCreditReturn (party : Option Addr) (port : Nat) (vc : Nat) (units : Nat) (s : State) : Host.Outcome State Fault Refusal :=
  match party with
  | some a => .next (s.onAgent a fun g => g.onPort port fun p => { p with eg := p.eg.regain (farUnits port) vc units })
  | none => .next (s.onPort port fun p => { p with eg := p.eg.regain 130 vc units })

/-- The body of RESYNC_GRANT: the free units of each VC, VC0 lowest (R94, R95). -/
def grantBody (free : Nat → Nat) : Nat := (List.range 8).foldl (fun acc vc => acc + free vc * 256 ^ vc) 0

/-- Units of an agent's ingress port and VC that buffered packets hold (R95). -/
def Agent.buffered (g : Agent) (port vc : Nat) : Nat :=
  ((g.ports.flatMap (·.eg.queue)).filter fun w => w.came == some (port, vc)).foldl (fun acc w => acc + packetUnits w.pkt.hdr) 0

/-- RESYNC_MARK: with every earlier packet taken in, the free units per VC are granted (R94, R95). -/
def execResyncMark (party : Option Addr) (port : Nat) (s : State) : Host.Outcome State Fault Refusal :=
  match party with
  | some a => .next (s.agLcb a port 0x03 (grantBody fun vc => 65 - (s.agent a).buffered port vc))
  | none => .next (s.sendLcb port 0x03 (grantBody fun vc => 130 - s.buffered port vc))

/-- A grant taken: the credit counts take the granted values and the sender resumes (R95). -/
def Egress.grant (q : Egress) (units : List Nat) : Egress :=
  if q.resyncing then { q with credits := (List.range 8).map fun vc => units.getD vc 0, resyncing := false } else q

/-- RESYNC_GRANT (R95). -/
def execResyncGrant (party : Option Addr) (port : Nat) (units : List Nat) (s : State) : Host.Outcome State Fault Refusal :=
  match party with
  | some a => .next (s.onAgent a fun g => g.onPort port fun p => { p with eg := p.eg.grant units })
  | none => .next (s.onPort port fun p => { p with eg := p.eg.grant units })

end Sys2Proof.Machine
end

