-- ==== Sys2Proof/Machine/Head.lean ====
section
/-! DEFINITION. Machine/Head.lean: proposals of the Pilot cores and flash-stage batches (R23, R30, R31), the acting head and the handback of head
duty (R73, R305, R383, R387). -/
namespace Sys2Proof.Machine

/-! ### Proposals (R30, R31) -/

/-- The engine of a flash stage (R391). -/
def stageEngine (g : StageId) : Nat :=
  match g with
  | .cht => 0x02 | .dsc => 0x03 | .slv => 0x04 | .wdn => 0x05 | .clp => 0x06 | .tim => 0x09 | .tel => 0x0A | .mor => 0x0B | .rst => 0x0E

/-- A core serves a slice: it runs, and the slice's queue is its own, one it took over, or one no core in service has (R30, R413). -/
def State.serves (s : State) (core slice : Nat) : Bool :=
  match s.work.pilots[core]? with
  | none => false
  | some p =>
    let orphan := fun (q : Nat) => !(s.work.pilots.any fun (x : Pilot) => x.running && x.queues.contains q)
    p.running && (p.queues.any (Config.coreServes · slice) || (List.range 16).any fun q => orphan q && Config.coreServes q slice)

/-- The endpoints of a placement that lie in a rack. -/
def placedIn (es : List Nat) (r : Nat) : Nat := (es.filter fun e => e / 128 == r).length

/-- The amounts a placement makes the slice reserve are there in every rack it names: seats, contexts, Lantern contexts (R30, R172, R173). -/
def State.canReserve (s : State) (q : SliceReq) (es : List Nat) : Bool :=
  match s.template (descTemplate q.words) with
  | none => false
  | some t =>
    let racks := (membersOf es).map (·.1)
    t.cls == 0 || (s.poolRoom 4 (·.ctxPool) (·.maxCtx) t q.slice racks && s.poolRoom 3 (·.lntPool) (fun u => 4 * u.lntSeats) t q.slice racks
      && racks.all fun r => (s.seatsFor t q.slice r).isSome)

/-- The code a proposal for slice placement fails with, 0 for none: the lowest applies (R30). -/
def State.placementRule (s : State) (core : Nat) (r : PropReq) (slice : Nat) (es : List Nat) : Nat :=
  match s.slc.reqs.find? fun q => q.slice == r.subject && q.asked with
  | none => 1
  | some q =>
    let recs := descRackRecs s.axes.1 s.axes.2 q.words
    let present := fun (e : Nat) => match s.rackRec (e / 128) with
      | some k => k.epPresent.testBit (e % 128)
      | none => false
    if ((s.template (descTemplate q.words)).map (·.maxEp)).getD 0 < es.length then 3
    else if slice ≠ r.subject ∨ ¬ s.serves core slice ∨ es.any (fun e => !(present e) || !(recs.any fun x => x.rack == some (e / 128))) then 4
    else if es.any fun e => s.taken slice e then 5
    else if es.dedup.length ≠ es.length ∨ recs.any (fun x => placedIn es (x.rack.getD 64) != x.count) then 6
    else if ¬ s.canReserve q es then 7
    else 0

/-- The code a proposal of plan heuristics fails with, 0 for none: the lowest applies (R30, R188). A context that another plan of the rack holds is
taken; any other but the offered one is outside the scope. -/
def State.heuristicsRule (s : State) (core : Nat) (r : PropReq) (ctx q f : Nat) (ring : List Nat) : Nat :=
  match s.clp.adms.find? fun a => a.request == r.request && a.phase == .deciding with
  | none => 1
  | some a =>
    let bound := ctx != r.subject && s.clp.plans.any fun p => p.ctx == ctx
    if q = 0 ∨ f = 0 ∨ 2 < f then 2
    else if s.params.pieceMax < q then 3
    else if (ctx ≠ r.subject ∧ !bound) ∨ ¬ s.serves core a.req.slice ∨ ring.any (fun x => !a.racks.contains x) then 4
    else if bound then 5
    else if ¬ ring.isEmpty ∧ (ring.dedup.length ≠ ring.length ∨ ring.length ≠ a.racks.length) then 6
    else if a.q < q ∨ a.inFlight < f then 7
    else 0

/-- The code a proposal fails with, 0 for none (R30). -/
def State.proposalRule (s : State) (p : Proposal) (r : PropReq) : Nat :=
  let core := p.core.toNat
  if p.reserved then 2
  else match p.body, r.decision with
    | .placement slice es, 1 => s.placementRule core r slice.toNat es
    | .heuristics ctx q f ring, 2 => s.heuristicsRule core r ctx.toNat q f ring
    | .park slice d, 3 =>
      if 3 < d then 2 else if slice.toNat ≠ r.subject ∨ ¬ s.serves core slice.toNat then 4 else if r.bound < d then 7 else 0
    | .policy _, 4 => 0
    | _, _ => 2

/-- What a proposal that passed its check decides (R30, R31). -/
def State.useProposal (s : State) (r : PropReq) (b : PropBody) : State :=
  match b with
  | .placement _ es =>
    { s with slc := { s.slc with reqs := s.slc.reqs.map fun (q : SliceReq) => if q.slice = r.subject ∧ q.asked then { q with placed := some es } else q } }
  | .heuristics _ q f ring =>
    match s.clp.adms.find? fun a => a.request == r.request && a.phase == .deciding with
    | some a => s.commitPlan a q f (if ring.isEmpty then a.ring else ring)
    | none => s
  | .park slice d => { s with link := { s.link with parkAt := insertNat slice.toNat d s.link.parkAt } }
  | .policy ws => { s with work := { s.work with policies := s.work.policies ++ [ws] } }

/-- A proposal is discarded and logged with its reason and its core (R30, R424). -/
def State.discardProposal (s : State) (stage : StageId) (core reason : Nat) : State :=
  { s with work := { s.work with discarded := s.work.discarded + 1 } }.logOwn 0x070 (stageEngine stage) 0 [fieldAt 0 8 reason ||| fieldAt 8 8 core]

/-- A request is closed. -/
def State.closeRequest (s : State) (n : Nat) : State :=
  { s with work := { s.work with requests := s.work.requests.filter fun q => q.request != n } }

/-- An open request, changed. -/
def State.onRequest (s : State) (n : Nat) (f : PropReq → PropReq) : State :=
  { s with work := { s.work with requests := s.work.requests.map fun q => if q.request = n then f q else q } }

/-- PROPOSAL_ARRIVAL: checked; the batch uses it before the close point, after it it is kept for the next intake, or it is discarded (R30, R31). -/
def execProposalArrival (p : Proposal) (s : State) : Host.Outcome State Fault Refusal :=
  match s.work.requests.find? fun q => q.request == p.request && q.stage == p.stage && q.held.isNone && q.answer.isNone && !q.fell with
  | none => .next (s.discardProposal p.stage p.core.toNat 1)
  | some r =>
    let code := s.proposalRule p r
    if code ≠ 0 then .next (s.discardProposal p.stage p.core.toNat code)
    else
      let s := s.progress (0x10 + p.core.toNat)
      if s.stageOpen p.stage then .next ((s.onRequest r.request fun q => { q with answer := some p }).stageResult p.stage (.answer r.request))
      else .next ((s.onRequest r.request fun q => { q with held := some p }).stageInput p.stage (.answer r.request))

/-- The intake takes a kept proposal into the batch (R31). -/
def State.takeHeld (s : State) (n : Nat) : State :=
  s.onRequest n fun q => if q.answer.isNone then { q with answer := q.held, held := none } else q

/-- The last flash of a request's budget: the flash it was issued in counts as the first (R31, R79). -/
def State.budgetEnd (s : State) (r : PropReq) : Nat := r.flash + s.params.budget - 1

/-- PROPOSAL_FALLBACK: the budget is spent and no proposal is held; the batch applies the stage's default, and the fallback is counted (R31). -/
def execProposalFallback (request : Nat) (s : State) : Host.Outcome State Fault Refusal :=
  match s.work.requests.find? fun q => q.request == request && q.held.isNone && q.answer.isNone && !q.fell with
  | none => .next s
  | some r =>
    if s.tim.flash < s.budgetEnd r then .next s
    else
      let s := s.onRequest request fun q => { q with fell := true }
      let s := s.onStage r.stage fun g => { g with batch := g.batch ++ [(s.tim.flash, .answer request)] }
      .next (if r.decision = 2 then (s.countReg Reg.CLP_FALLBACKS 1).raise Fld.CLP_INT_STATUS_FALLBACK
        else { s with work := { s.work with fallbacks := s.work.fallbacks + 1 } })

/-- The built-in default of a decision (R31): the lowest-numbered free endpoints, or the request refused with 0x06 where too few are free; the
offered q and IN_FLIGHT with the lexicographic ring; the deepest depth allowed; no action. -/
def State.applyDefault (s : State) (r : PropReq) : State :=
  if r.decision = 1 then
    match s.slc.reqs.find? fun q => q.slice == r.subject && q.asked && q.placed.isNone with
    | none => s
    | some q =>
      match s.defaultPlacement q.slice q.words with
      | some es => s.useProposal r (.placement (BitVec.ofNat 8 r.subject) es)
      | none =>
        { s with slc := { s.slc with reqs := s.slc.reqs.filter fun x => !(x.rack == q.rack && x.tag == q.tag) } }.sliceReply q 6 0
  else if r.decision = 2 then
    match s.clp.adms.find? fun a => a.request == r.request && a.phase == .deciding with
    | some a => s.commitPlan a a.q a.inFlight a.ring
    | none => s
  else s

/-- A decision is published: the proposal the batch used, checked once more against the state it is used in, or the default (R30, R31). A proposal
that no longer passes is discarded, and its request stays open. -/
def State.publishAnswer (s : State) (n : Nat) : State :=
  match s.work.requests.find? fun q => q.request == n with
  | none => s
  | some r =>
    match r.answer with
    | some p =>
      let code := s.proposalRule p r
      if code ≠ 0 then (s.onRequest n fun q => { q with answer := none }).discardProposal p.stage p.core.toNat code
      else (s.closeRequest n).useProposal r p.body
    | none => if r.fell then (s.closeRequest n).applyDefault r else s

/-- BATCH_CLOSE: a stage's results stand in its shadow outputs; the close point answers a chart announcement (R86); sweep lanes whose trees failed the check are judged (R23, R130). -/
def execBatchClose (stage : StageId) (failedLanes : List Nat) (s : State) : Host.Outcome State Fault Refusal :=
  let s := s.onStage stage fun g => { g with closed := true }
  let s := if stage = .cht then s.answerAnnounce else if stage = .slv then s.answerBank else s
  .next (if stage = .slv then failedLanes.foldl (fun s l => s.laneFailed l) s else s)

/-! ### The acting head (R73, R150, R305, R383) -/

/-- What a Keeper that becomes head knows of the cluster: the graph and epoch it holds, and the plans its rack is a member of (R150). -/
def State.takeHead (s : State) : State :=
  let own : List HeadPlan := (s.clp.plans.filter fun p => p.st == 3 && !(s.clp.live.any fun l => l.slice == p.slice && l.ordinal == p.ordinal)).map fun p =>
    { slice := p.slice, ordinal := p.ordinal, desc := p.desc, racks := p.ctxs.map (·.1), alg := p.alg, planes := p.planes, qnom := p.qnom, q := p.q,
      inFlight := p.inFlight, lnt := p.lnt, gen := p.gen, genFlash := 0, lost := p.lost, remap := p.remap, stalled := [], gone := 0, thaw := none }
  let s := s.onClp fun c => { c with
    live := c.live ++ own, ordinals := c.plans.foldl (fun o p => insertNat p.slice (max p.ordinal ((lookupNat p.slice o).getD 0)) o) c.ordinals }
  let s := s.onHead fun h => { h with epoch := max h.epoch s.slv.epoch, reported := s.slv.graph, states := [] }
  (s.showHead).followRoot

/-- One of the cases in which the deputy's Keeper acts as head (R73): the head rack has no Keeper holding LIT, as its beacons on a Keeper port show;
HEAD_LOSS flashes without a message from the head rack; the head's lit-chart digest differs (log entry 97). -/
def State.headMissing (s : State) : Bool :=
  let own := s.chart.lit.map (·.digest)
  let beside := (List.range 4).filter fun d => s.portLit (16 + d) && nbrRack s.axes.1 s.axes.2 s.myRack d == s.headRack
  (!beside.isEmpty && beside.all fun d => !(s.port (16 + d)).litHolder) || decide (s.params.headLoss ≤ s.chart.silence)
    || s.chart.headDigest.any fun d => own != some d

/-- ACTING_HEAD_ENTRY: in one of the three cases the Keeper holding LIT in the deputy rack serves as head and asks every Keeper for its state (R73,
R150). -/
def execActingHeadEntry (s : State) : Host.Outcome State Fault Refusal :=
  if s.lit ∧ s.inDeputyRack ∧ ¬ s.inHeadRack ∧ ¬ s.chart.acting ∧ s.headMissing then
    let s := { s with chart := { s.chart with acting := true, deputyActs := true, handback := none } }
    let s := (s.setF Fld.CHT_STATE_ACTING_HEAD 1).takeHead
    .next (s.flood (s.kmsg 0x50))
  else .next s

/-- The acting head announces the handback once a head with its own lit chart is heard again (R73). -/
def State.announceHandback (s : State) : State :=
  let same : Bool := match s.chart.lit, s.chart.headDigest with
    | some c, some d => decide (c.digest = d)
    | _, _ => false
  if s.chart.acting ∧ s.lit ∧ s.chart.handback.isNone ∧ same then
    let f := s.tim.flash + s.params.lightLead
    { s with chart := { s.chart with handback := some f } }.flood ({ s.kmsg 0x52 with flash := BitVec.ofNat 48 f } : KMsg)
  else s

/-- HEAD_BEAT: the head's silence ends, and its lit chart is known (R89, R383). -/
def State.gotHeadBeat (s : State) (_src : Addr) (m : KMsg) : State :=
  (({ s with chart := { s.chart with headDigest := some m.digest } }.judgeMismatch).announceHandback)

/-- HEAD_BEAT as it arrives (R17, R137). -/
def execHeadBeat (port : Nat) (p : Packet) (s : State) : Host.Outcome State Fault Refusal := .next (s.takeMsg 0x53 port p State.gotHeadBeat)

/-- HANDBACK: forwarded once; every Keeper knows the flash at which head duty passes back (R73, R387). -/
def State.gotHandback (s : State) (_src : Addr) (m : KMsg) : State :=
  { s with chart := { s.chart with handback := some m.flash.toNat } }

/-- HANDBACK as it arrives (R17, R137). -/
def execHandback (port : Nat) (p : Packet) (s : State) : Host.Outcome State Fault Refusal := .next (s.takeMsg 0x52 port p State.gotHandback)

/-- HANDBACK_FLASH: at the boundary that opens the announced flash head duty passes back to the head rack; the time root goes with it (R73, R305). -/
def execHandbackFlash (s : State) : Host.Outcome State Fault Refusal :=
  match s.chart.handback with
  | none => .next s
  | some f =>
    if s.tim.flash < f ∨ ¬ s.work.opening then .next s
    else
      let s := { s with chart := { s.chart with acting := false, deputyActs := false, handback := none, silence := 0 } }
      let s := s.setF Fld.CHT_STATE_ACTING_HEAD 0
      .next (if s.isHead then s.takeHead else (s.showHead).followRoot)

end Sys2Proof.Machine
end

