-- ==== Sys2Proof/Machine/Mgmt.lean ====
section
/-! DEFINITION. Machine/Mgmt.lean: replies to management requests and their failure, the journals of a takeover (R135, R188, R281, R353, R379,
R395, R408, R441, R481, R482). -/
namespace Sys2Proof.Machine

/-! ### The journals (R379) -/

/-- A journal record as read: FLASH, CLASS, SLICE, A, B. -/
structure JournalRec where
  flash : Word
  cls   : Nat
  slice : Nat
  a     : Word
  b     : Word
deriving DecidableEq, Repr

/-- The records of a read, 16 bytes each. -/
def journalRecs : Nat → List Word → List JournalRec
  | 0, _ => []
  | n + 1, ws =>
    if ws.length < 4 then []
    else { flash := wordAt ws 0, cls := bitsOf (wordAt ws 1) 0 4, slice := bitsOf (wordAt ws 1) 8 8, a := wordAt ws 2, b := wordAt ws 3 }
      :: journalRecs n (ws.drop 4)

/-- A record's flash is later than K, both taken modulo 2^32. -/
def JournalRec.after (r : JournalRec) (k : Nat) : Bool :=
  let d := (r.flash - w32 k).toNat
  0 < d && d < 2 ^ 31

/-- A record adopted. -/
def State.adopted (s : State) : State := s.count Fld.MOR_JOURNAL_ADOPTED 1

/-- The plan an agent's slot record names: by slot at an endpoint, by context at a switch. -/
def State.journalPlan (s : State) (a : Addr) (n : Nat) : Option Plan :=
  if addrKind a = 1 then s.plan n
  else s.clp.plans.find? fun p => (planDesc p.desc).slot == n && p.st != 1 && (s.planMembers p).any fun x => x.1 == a

/-- A SLOT record: adopted into the plan, or the slot is written FREE (R379). -/
def State.replaySlot (s : State) (a : Addr) (r : JournalRec) : State :=
  let n := bitsOf r.a 0 8
  let state := bitsOf r.a 8 2
  match s.journalPlan a n with
  | none => s.mgmtWrite a (0x200000 + 64 * n) [0] 4 r.slice 0x06 .upkeep
  | some p =>
    let s := s.adopted
    if state = 0 then s.freePlan p.ctx false
    else
      let s := s.onPlan p.ctx fun p => { p with gen := bitsOf r.a 16 6 }
      if p.st = 2 ∧ r.b ≠ 0 then s.enablePlan p.ctx (s.flashNear r.b)
      else if p.st = 3 then s.onPlan p.ctx fun p => { p with loaded := state == 1 && decide (s.flashNear r.b ≤ s.flashNear r.flash) }
      else s

/-- The bank cycle whose F is a record's flash is taken as lit (R379). -/
def State.replayLight (s : State) (r : JournalRec) : State :=
  let c := s.slv.cycle
  if c.f ≠ 0 ∧ w32 c.f = r.flash ∧ (c.phase = .solved ∨ c.phase = .armed ∨ c.phase = .confirmed) then
    s.lightNow.adopted.setPair Reg.SLV_LIT_FLASH_LO c.f
  else s

/-- What an agent holds in registers beside its structures is rewritten (R379, class 11). -/
def State.rewriteRegs (s : State) (a : Addr) : State :=
  let up := fun (s : State) (addr : Nat) (w : Word) => s.mgmtWrite a addr [w] 11 0 0x0B .upkeep
  let s := up (up (up s 0x1C s.paramsWord) 0x20 (fieldAt 0 13 (s.getF Fld.SLV_PARAMS_DRAIN_GUARD_NS))) 0x28 (fieldAt 0 7 s.tim.periodUs)
  let s := s.mgmtWrite a 0x30 [s.chartTag.1, s.chartTag.2] 11 0 0x0B .upkeep
  if addrKind a = 1 then up (up s 0x18 (w32 (132 + s.role))) 0x24 s.weightsWord else s

/-- An agent shows the newest seal of a slice by the low half of its ISSUE_FLASH (R353). -/
def State.sealShown (s : State) (slice : Nat) (a : Addr) (issue : Word) : State :=
  s.onWdn fun w => { w with seals := w.seals.map fun (x : Seal) =>
    if x.slice = slice ∧ loHalf x.issue = issue then { x with missing := x.missing.filter (· != a) } else x }

/-- One record of an agent is replayed by the rule of its class (R379). -/
def State.replay (s : State) (a : Addr) (r : JournalRec) : State :=
  let c := s.slv.cycle
  match r.cls with
  | 1 => s.replayLight r
  | 2 => if c.phase = .armed ∧ w32 c.f = r.b then s.confirmBank.adopted else s
  | 3 => if c.phase = .armed ∨ c.phase = .confirmed then s.armAgain a else s.mgmtWrite a 0x4C [2] 11 0 0x04 .upkeep
  | 4 => s.replaySlot a r
  | 5 => match s.journalPlan a (bitsOf r.a 0 8) with
    | some p => (s.onPlan p.ctx fun p => { p with frozen := if bitAt r.a 8 then some (p.frozen.getD 0) else none }).adopted
    | none => s
  | 6 =>
    if 4 ≤ s.sliceState r.slice then s.adopted else s.mgmtWrite a 0x3C [0] 6 r.slice 0x05 (.pause r.slice)
  | 7 => ({ s with lnt := { s.lnt with planes := insertNat (addrIndex a) (bitsOf r.a 0 4) s.lnt.planes } }).adopted
  | 8 =>
    let slice := s.slv.lit.sliceAt s.myRack (addrIndex a)
    let new := (bitIndices r.b.toNat 16).map fun p => (slice, r.a.toNat, p)
    (({ s with slv := { s.slv with vetoes := s.slv.vetoes ++ new.filter fun v => !s.slv.vetoes.contains v } }).showVetoes).adopted
  | 9 =>
    (s.sealShown r.slice a r.b).adopted
  | 10 =>
    let ps := if addrKind a = 1 then s.clp.plans.filter fun p => (s.planSwitches p).contains a && p.st != 1 else s.plansOf a
    ps.foldl (fun s p => s.auditPlan p a) (s.auditAgent a)
  | 11 => s.rewriteRegs a
  | _ => s

/-- A plan's slot at an agent as read back: its generation and its enable are adopted, a slot that holds no plan yet or is FREE is written from the
image (R379). -/
def State.slotBack (s : State) (a : Addr) (ctx : Nat) (words : List Word) : State :=
  let w := wordAt words 0
  let state := bitsOf w 0 2
  let e := s.flashNear (wordAt words 7)
  let s := if state = 0 then s
    else
      let s := s.onPlan ctx fun p => { p with gen := bitsOf w 16 6 }
      match s.plan ctx with
      | some p => if p.st = 2 ∧ wordAt words 7 ≠ 0 then s.enablePlan ctx e
          else if p.st = 3 then s.onPlan ctx fun p => { p with loaded := state == 1 && decide (e ≤ s.tim.flash) } else s
      | none => s
  match s.plan ctx with
  | some p => s.rewritePlanAt p a (if state = 0 then 1 else state)
  | none => s

/-- An agent whose journal cannot serve leaves SERVE, every structure is rewritten from the image, and its slot states are read back (R135, R379). -/
def State.journalShort (s : State) (a : Addr) : State :=
  let s := ((s.count Fld.MOR_JOURNAL_SHORT 1).mgmtWrite a 0x0C [0] 11 0 0x0B .upkeep).rewriteRegs a
  let s := if addrKind a = 1 then
      (s.clp.plans.filter fun p => (s.planSwitches p).contains a && p.st != 1).foldl (fun s p =>
        s.rewritePlanAt p a (if p.st = 3 ∧ ¬ p.loaded ∧ p.enable ≠ 0 ∧ p.enable ≤ s.tim.flash then 2 else 1)) s
    else
      (s.plansOf a).foldl (fun s p => s.mgmtRead a (0x200000 + 64 * (planDesc p.desc).slot) 8 0x0B (.slotBack p.ctx)) (s.rewriteEndpoint a)
  s.restoreBanks a

/-- A journal's state or records, as read from an agent (R379, R453). -/
def State.journalRead (s : State) (op : MgmtOp) (words : List Word) : State :=
  let a := op.agent
  let done := fun (s : State) => s.onMor fun m => { m with journals := m.journals.filter (· != a) }
  if op.addr = 0xD0 then
    let w := wordAt words 0
    let n := min 256 (bitsOf w 0 16)
    if bitAt w 16 then done (s.journalShort a)
    else if n = 0 then done s
    else
      let s := s.mgmtRead a 0x3000 (4 * min n 255) 0x0B .journal
      if n = 256 then s.mgmtRead a (0x3000 + 4080) 4 0x0B .journal else s
  else
    let rs := (journalRecs 256 words).filter fun r => r.after s.mor.imageFlash
    let flashes := (rs.map (·.flash)).dedup.length
    let s := s.setF Fld.MOR_JOURNAL_FLASHES (max (s.getF Fld.MOR_JOURNAL_FLASHES) (min 7 flashes))
    done (rs.foldl (fun s r => s.replay a r) s)

/-! ### Replies (R395, R408, R441) -/

/-- A check value of an agent's bank, asked for by an audit: read once it is computed, compared, repaired (R135, R379, R382). -/
def State.auditReply (s : State) (op : MgmtOp) (bank : Nat) (words : List Word) : State :=
  let a := op.agent
  if op.write ∨ bitAt (wordAt words 0) 31 then s.mgmtRead a 0x80 3 0x04 (.audit bank)
  else
    let lit := bank == s.slv.litBank
    if !lit && s.slv.cycle.phase == .loading then s
    else
      let src := if lit then s.slv.lit else s.darkImage
      if BitVec.ofNat 64 (pairAt words 1) = crc64 (bytesOfWords (src.agentWords s.axes.1 s.axes.2 a)) then s
      else if lit then s.repairLit a else s.repairDark a

/-- A check value of a plan's structures at an agent, asked for by an audit; a programme that fails it loses its plane (R188, R269, R379, R401). -/
def State.auditPlanReply (s : State) (op : MgmtOp) (ctx : Nat) (words : List Word) : State :=
  match s.plan ctx with
  | none => s
  | some p =>
    if op.write ∨ bitAt (wordAt words 0) 31 then s.mgmtRead op.agent 0x80 3 0x06 (.auditPlan ctx)
    else
      let on := p.st = 3 ∧ ¬ p.loaded ∧ p.enable ≠ 0 ∧ p.enable ≤ s.tim.flash
      let state := if on then 2 else 1
      if pairAt words 1 = (crc64 (s.planImage p op.agent state p.enable)).toNat then s
      else
        let s := s.rewritePlanAt p op.agent state
        if addrKind op.agent = 1 then s.losePlane p.ctx (addrIndex op.agent) else s

/-- A GO taken by an agent that held D: HOLD ends with the last one (R144, R152). -/
def State.goTaken (s : State) (a : Addr) : State :=
  let s := { s with slv := { s.slv with holds := s.slv.holds.filter (· != a) } }
  if s.slv.holds.isEmpty then s.setF Fld.SLV_STATE_HOLD 0 else s

/-- An operation has failed: its engine takes it as failed under its own rules (R395). -/
def State.opFailed (s : State) (op : MgmtOp) : State :=
  match op.purpose with
  | .bank e => if e = s.slv.cycle.epoch ∧ s.slv.cycle.phase = .loading then s.countOut op.agent else s
  | .check e => if e = s.slv.cycle.epoch ∧ s.slv.cycle.phase = .loading then s.countOut op.agent else s
  | .arm e => if e = s.slv.cycle.epoch ∧ s.slv.cycle.phase = .armed then s.armFailed op.agent else s
  | .plan ctx => if (s.plan ctx).any fun p => p.st == 2 then s.planReply op ctx 0xFF [] else s.tryCleared ctx
  | .freeze ctx => s.freezeReply op ctx 0xFF []
  | .hostRead w _ => s.refuse w 0x0C 0xFF
  | .hostWrite w => s.refuse w 0x0C 0xFF
  | .journal => (s.journalShort op.agent).onMor fun m => { m with journals := m.journals.filter (· != op.agent) }
  | _ => s

/-- An operation is answered; STATUS 7 asks again, any other non-zero one fails it (R441). -/
def State.opReply (s : State) (op : MgmtOp) (status : Nat) (words : List Word) : State :=
  let bad := decide (status ≠ 0)
  match op.purpose with
  | .hostRead w addr =>
    if bad then s.refuse w 0x0C status
    else if ¬ s.flag Fld.HIF_CTRL_DMA_EN then (s.dmaErr w 5).refuse w 4 5
    else (s.dmaWrite addr.toNat (words.take op.count)).complete w 0 0 [0, w32 (min words.length op.count)] false
  | .hostWrite w => if bad then s.refuse w 0x0C status else s.completeAfter w s.tim.flash 256 [0]
  | .freeze ctx => s.freezeReply op ctx status words
  | p =>
    if status = 7 then s.request op.agent op.write op.addr op.words op.count op.cls op.slice op.engine op.purpose
    else
      match p with
      | .nbr port => if bad then s else s.nbrRead op.agent port words
      | .bank _ => s.bankReply op (if bad then [] else words)
      | .check _ => s.bankReply op (if bad then [0, 0, 0] else words)
      | .arm _ => if bad then s.opFailed op else
          s.onCycle fun c => { c with notArmed := c.notArmed.filter (· != op.agent) }
      | .go => if bad then s else s.goTaken op.agent
      | .plan ctx => if (s.plan ctx).any fun p => p.st == 2 then s.planReply op ctx status words else s.tryCleared ctx
      | .sealRead slice => if bad then s else s.sealShown slice op.agent (wordAt words 0)
      | .audit bank => if bad then s else s.auditReply op bank words
      | .auditPlan ctx => if bad then s else s.auditPlanReply op ctx words
      | .slotBack ctx => if bad then s else s.slotBack op.agent ctx words
      | .journal => (if bad then s.opFailed op else s.journalRead op words)
      | _ => s

/-- An operation leaves those in flight. -/
def State.dropOp (s : State) (tag : Nat) : State := { s with mgmt := { s.mgmt with ops := s.mgmt.ops.filter fun o => o.tag != tag } }

/-- MGMT_REPLY: refused with a reserved field or STATUS (R17, R441); dropped with a stale GEN (R57, R408) or when no operation in flight with the agent
has its tag; else its operation is answered with the words it carries. -/
def execMgmtReply (port : Nat) (p : Packet) (s : State) : Host.Outcome State Fault Refusal :=
  let h := p.hdr
  let s := s.received port h
  match s.refused port h with
  | some s => .next s
  | none =>
    let w1 := wordAt p.payload 1
    if ¬ replyClean p.payload then .next (s.refusePacket port h 2)
    else if h.gen.toNat ≠ s.getF Fld.RST_STATE_MGEN then .next (s.staleGen port h)
    else
      let s := s.returnCredits port h
      match s.mgmt.ops.find? (fun o => o.tag == h.optag.toNat && o.agent == h.src && bitsOf w1 16 2 == 0) with
      | none => .next s
      | some op => .next (((s.dropOp op.tag).opReply op (bitsOf w1 24 8) ((p.payload.drop 4).take (bitsOf w1 0 10))).progress op.engine)

/-- MGMT_RESEND: a request without a reply goes out again when its interval is over; after MGMT_SENDS sends it is a context hang, and its operation has failed (R395). -/
def execMgmtResend (tag : BitVec 12) (s : State) : Host.Outcome State Fault Refusal :=
  match s.mgmt.ops.find? fun o => o.tag == tag.toNat with
  | none => .next s
  | some op =>
    if s.since op.sent < op.wait then .next s
    else if op.sends < s.getF Fld.RST_MGMT_MGMT_SENDS then
      let again := { op with sends := op.sends + 1, sent := s.stamp, wait := s.resendTime op.agent false }
      let s := { s with mgmt := { s.mgmt with ops := s.mgmt.ops.map fun (o : MgmtOp) => if o.tag = op.tag then again else o } }
      .next (if s.lit then s.sendMgmt again else s)
    else
      let s := s.dropOp op.tag
      let s := { s with mgmt := { s.mgmt with cool := (op.tag, s.tim.flash + 4) :: s.mgmt.cool } }
      .next ((s.contextHang op.engine 3 op.tag op.slice 2 op.agent).opFailed op)

end Sys2Proof.Machine
end

