-- ==== Sys2Proof/Machine/Recovery.lean ====
section
/-! DEFINITION. Machine/Recovery.lean: the commands of retransmission, recovery and abort (10_collective_faults.md, R201, R210). -/
namespace Sys2Proof.Machine

/-! ### The host's command (R284) -/

/-- ABORT_COLLECTIVE in a window: forwarded to the head, or refused with HEAD_MISMATCH (R184, R284, R364). -/
def cmdAbortCollective (w : Nat) (s : State) : State :=
  let slice := (s.arg w 1).toNat
  let ordinal := (s.arg w 2).toNat
  if ¬ s.lit then s.refuse w 3 0
  else if slice > 255 then s.refuse w 2 1
  else if s.flag Fld.CHT_STATE_HEAD_MISMATCH then s.planRefused w 0x0F slice 0 [0, 0, 0, 0x0F]
  else
    let i : PlanIssued := { win := w, tag := s.clp.nextTag, abort := true, slice := slice, ordinal := ordinal, words := [], flash := s.tim.flash }
    s.onClp fun c => { c with issued := c.issued ++ [i], nextTag := (c.nextTag + 1) % 4096 }

/-- ABORT_COLLECTIVE (R284). -/
def execAbortCollective (c : HostCmd) (s : State) : Host.Outcome State Fault Refusal := .next (s.issue c 0x09 cmdAbortCollective)

/-- ABORT_REQ: the head runs the abort exchange, or answers that no such plan is live with THAW and reason 0x0E (R284). -/
def State.gotAbortReq (s : State) (src : Addr) (m : KMsg) : State :=
  let slice := msgSlice m
  let ordinal := (wordAt m.words 0).toNat
  if ¬ s.isHead then s
  else if (s.livePlan slice ordinal).isNone then (s.tell src (s.thawMsg slice ordinal 0 0 0 0 0 0x0E 0))
  else ((s.startAbort slice ordinal 0x10).progress 0x06)

/-- ABORT_REQ as it arrives (R17, R137). -/
def execAbortReq (port : Nat) (p : Packet) (s : State) : Host.Outcome State Fault Refusal := .next (s.takeMsg 0x47 port p State.gotAbortReq)

/-! ### Recovery (R270 to R272) -/

/-- RECOVER_REQ: the head takes the request by its kind (R270). -/
def State.gotRecoverReq (s : State) (src : Addr) (m : KMsg) : State :=
  match if s.isHead then s.livePlan (msgSlice m) (wordAt m.words 0).toNat else none with
  | none => s
  | some p =>
    let w := wordAt m.words 1
    ((s.headRequest p (s.rackOf src) (bitsOf w 0 4) (bitsOf w 16 16) (m.words.drop 2)).progress 0x06)

/-- RECOVER_REQ as it arrives (R17, R137). -/
def execRecoverReq (port : Nat) (p : Packet) (s : State) : Host.Outcome State Fault Refusal := .next (s.takeMsg 0x40 port p State.gotRecoverReq)

/-- RECOVER_CLEAR: the named pieces are cleared at this rack's points, the remap is written, RECOVER_CLEARED follows (R270, R272). -/
def State.gotRecoverClear (s : State) (_src : Addr) (m : KMsg) : State :=
  let w := fun (i : Nat) => wordAt m.words i
  match s.planOf (msgSlice m) (w 0).toNat with
  | none => s
  | some p =>
    if p.recovery = (w 1).toNat then (if p.clearing then s else s.sendCleared p)
    else if p.frozen.isSome then s
    else
      let remap := remapOf (w 3) (w 4)
      let pieces := (m.words.drop 5).map BitVec.toNat
      let lost := maskOf ((planeList p.planes).filter fun q => remap.getD q q != q)
      let s := s.onPlan p.ctx fun p => { p with recovery := (w 1).toNat, gone := false, clearing := true, namedPieces := pieces, remap := remap, lost := p.lost ||| lost,
                                                recovered := [(w 2).toNat % 65536, (w 2).toNat / 65536], reqs := [] }
      let s := (s.clearPieces p.ctx ((w 2).toNat % 65536) ((w 2).toNat / 65536) pieces).countReg Reg.CLP_RECOVERIES 1
      let s := (s.raiseIf ((planeList lost).any fun q => !p.lost.testBit q) Fld.CLP_FAULT_STATUS_PLANE_LOST).raise Fld.CLP_FAULT_STATUS_REPLAY
      let s := match s.plan p.ctx with
        | some q => s.writeRemaps q (s.planSwitches q) (.plan q.ctx)
        | none => s
      ((s.tryCleared p.ctx).progress 0x06)

/-- RECOVER_CLEAR as it arrives (R17, R137). -/
def execRecoverClear (port : Nat) (p : Packet) (s : State) : Host.Outcome State Fault Refusal := .next (s.takeMsg 0x41 port p State.gotRecoverClear)

/-- RECOVER_CLEARED: with every member Keeper's reply the head sends RECOVER_GO, and a waiting exchange of the plan starts; a rack that has not got
RECOVER_GO gets it again (R270, R286). -/
def State.gotRecoverCleared (s : State) (src : Addr) (m : KMsg) : State :=
  let rack := s.rackOf src
  let number := (wordAt m.words 1).toNat
  let mine := fun (r : Recovery) => r.slice == msgSlice m && r.ordinal == (wordAt m.words 0).toNat && r.number == number && number != 0
  match if s.isHead then (s.clp.recoveries.find? mine).bind fun r => (s.livePlan r.slice r.ordinal).map fun p => (r, p) else none with
  | none =>
    match s.livePlan (msgSlice m) (wordAt m.words 0).toNat with
    | some p => if s.isHead ∧ number ≠ 0 ∧ p.gone = number then s.tell src (s.planMsg 0x43 p.slice [w32 p.ordinal, w32 number]) else s
    | none => s
  | some (r, p) =>
    let cleared := if r.cleared.contains rack then r.cleared else rack :: r.cleared
    if p.racks.all cleared.contains then
      let s := (s.onClp fun c => { c with recoveries := c.recoveries.filter fun x => !mine x }).onLive p.slice p.ordinal fun x => { x with gone := number }
      (((s.tellRacks p (s.planMsg 0x43 p.slice [w32 p.ordinal, w32 number])).pumpRecovery p.slice p.ordinal).progress 0x06)
    else (s.onClp fun c => { c with recoveries := c.recoveries.map fun x => if mine x then { x with cleared := cleared } else x })

/-- RECOVER_CLEARED as it arrives (R17, R137). -/
def execRecoverCleared (port : Nat) (p : Packet) (s : State) : Host.Outcome State Fault Refusal := .next (s.takeMsg 0x42 port p State.gotRecoverCleared)

/-- RECOVER_GO: the members of this rack send the named pieces again, and the Keeper drops what it had unacknowledged of them (R272). -/
def State.gotRecoverGo (s : State) (_src : Addr) (m : KMsg) : State :=
  match s.planOf (msgSlice m) (wordAt m.words 0).toNat with
  | none => s
  | some p =>
    if p.recovery ≠ (wordAt m.words 1).toNat ∨ p.gone then s
    else
      let first := p.recovered.headD 0
      let last := p.recovered.getD 1 first
      let s := s.dropSent fun x => x.ctx == p.ctx && inLaunches first last x.launch && p.namedPieces.contains x.piece
      let s := s.onPlan p.ctx fun p => { p with gone := true }
      ((s.writeRemaps p ((s.planMembers p).map (·.1)) .upkeep).progress 0x06)

/-- RECOVER_GO as it arrives (R17, R137). -/
def execRecoverGo (port : Nat) (p : Packet) (s : State) : Host.Outcome State Fault Refusal := .next (s.takeMsg 0x43 port p State.gotRecoverGo)

/-- RECOVERY_REPLY_TIMEOUT: a member Keeper has not replied within 32 flashes: a recovery exchange ends in the abort exchange with status
UNREACHABLE, an abort exchange is refused with 0x11 (R270, R281, R284). -/
def execRecoveryReplyTimeout (s : State) : Host.Outcome State Fault Refusal :=
  if ¬ s.isHead then .next s
  else
    let late := s.clp.recoveries.filter fun r => r.number != 0 && r.flash + 32 ≤ s.tim.flash
    let silent := s.clp.aborts.filter fun a => !a.waiting && a.flash + 32 ≤ s.tim.flash
    let s := late.foldl (fun s r => s.startAbort r.slice r.ordinal 0x18) s
    .next (silent.foldl (fun s a =>
      let s := s.onClp fun c => { c with aborts := c.aborts.filter fun x => !(x.slice == a.slice && x.ordinal == a.ordinal) }
      match s.livePlan a.slice a.ordinal with
      | some p => s.sendThaw p (s.thawMsg a.slice a.ordinal 1 p.gen 0 0 0 0x11 0)
      | none => s) s)

/-! ### Aborts (R281 to R283) -/

/-- FREEZE: the plan's slots, programmes and root context stop sending; the agents' answers are gathered (R281). -/
def State.gotFreeze (s : State) (_src : Addr) (m : KMsg) : State :=
  match s.planOf (msgSlice m) (wordAt m.words 0).toNat with
  | none => s
  | some p =>
    if p.frozen.isSome then (if p.frozenSent then s.sendFrozen p else s)
    else
      let s := s.onPlan p.ctx fun p => { p with frozen := some (wordAt m.words 1).toNat, answers := [], frozenSent := false, reqs := [], clearing := false, recovery := if p.gone then p.recovery else 0 }
      (((s.writeFreeze p 12).tryFrozen p.ctx).progress 0x06)

/-- FREEZE as it arrives (R17, R137). -/
def execFreeze (port : Nat) (p : Packet) (s : State) : Host.Outcome State Fault Refusal := .next (s.takeMsg 0x44 port p State.gotFreeze)

/-- FROZEN: the head gathers the racks' counts and decides with all of them; a rack that has not got THAW gets it again (R281, R282, R286). -/
def State.gotFrozen (s : State) (src : Addr) (m : KMsg) : State :=
  let rack := s.rackOf src
  let w := fun (i : Nat) => (wordAt m.words i).toNat
  let mine := fun (a : AbortEx) => a.slice == msgSlice m && a.ordinal == w 0
  match if s.isHead then s.clp.aborts.find? fun a => mine a && !a.waiting else none with
  | none =>
    match s.livePlan (msgSlice m) (w 0), s.clp.aborts.any mine with
    | some p, false =>
      if s.isHead then
        match p.thaw with
        | some t => s.tell src t
        | none => s
      else s
    | _, _ => s
  | some a =>
    let a := { a with replies := (a.replies.filter fun x => x.1 != rack) ++ [(rack, w 1, w 2, w 3, w 4)] }
    let s := s.onClp fun c => { c with aborts := c.aborts.map fun x => if mine x then a else x }
    ((s.decideAbort a).progress 0x06)

/-- FROZEN as it arrives (R17, R137). -/
def execFrozen (port : Nat) (p : Packet) (s : State) : Host.Outcome State Fault Refusal := .next (s.takeMsg 0x45 port p State.gotFrozen)

/-- The commands of this Keeper that an exchange's THAW ends (R284). -/
def State.endAborts (s : State) (slice ordinal : Nat) (m : KMsg) : State :=
  let w := fun (i : Nat) => wordAt m.words i
  let mine := fun (i : PlanIssued) => i.abort && i.slice == slice && i.ordinal == ordinal
  let ended := s.clp.issued.filter mine
  let reason := bitsOf (w 5) 0 8
  let s := s.onClp fun c => { c with issued := c.issued.filter fun i => !mine i }
  ended.foldl (fun s i =>
    if reason ≠ 0 then s.planRefused i.win reason slice 0 [0, 0, 0, w32 reason]
    else s.completeAfter i.win (if m.flash = 0 then s.tim.flash else m.flash.toNat) slice
      [fieldAt 0 2 (w 1).toNat ||| fieldAt 8 6 (w 2).toNat, fieldAt 0 16 (w 3).toNat, w 4, 0]) s

/-- THAW: an ABORT outcome clears the plan here and enables it at E under the new generation; NONE resumes it; the abort commands of this
Keeper complete (R282 to R284). -/
def State.gotThaw (s : State) (_src : Addr) (m : KMsg) : State :=
  let w := fun (i : Nat) => (wordAt m.words i).toNat
  let slice := msgSlice m
  let s := match s.planOf slice (w 0) with
    | none => s
    | some p =>
      match p.frozen with
      | none => s
      | some cause =>
        let s := s.onPlan p.ctx fun p => { p with frozen := none, frozenSent := false, answers := [] }
        let s := s.writeFreeze p 13
        if w 1 = 0 then (s.thawAbort p.ctx cause (w 2) (w 3) m.flash.toNat).tryRelease p.ctx
        else (s.raiseIf (w 1 == 1) Fld.CLP_FAULT_STATUS_ALREADY_COMPLETE).resumePieces p.ctx
  ((s.endAborts slice (w 0) m).progress 0x06)

/-- THAW as it arrives (R17, R137). -/
def execThaw (port : Nat) (p : Packet) (s : State) : Host.Outcome State Fault Refusal := .next (s.takeMsg 0x46 port p State.gotThaw)

/-- GEN_SPACING_ELAPSED: aborts that waited for the GEN spacing go on (R279). -/
def execGenSpacingElapsed (s : State) : Host.Outcome State Fault Refusal :=
  let ready := s.clp.aborts.filter fun a => a.waiting && (s.livePlan a.slice a.ordinal).all fun p => p.genFlash + 4 ≤ s.tim.flash
  .next (ready.foldl (fun s a =>
    let s := s.onClp fun c => { c with aborts := c.aborts.map fun x =>
      if x.slice = a.slice ∧ x.ordinal = a.ordinal then { x with waiting := false, flash := s.tim.flash } else x }
    match s.livePlan a.slice a.ordinal with
    | some p => s.sendFreeze p a.cause
    | none => s) s)

/-- RELEASE_LIMIT_EXPIRY: a RELEASE whose launch has not ended for RELEASE_LIMIT flashes is aborted with status RELEASED (R210). -/
def execReleaseLimitExpiry (s : State) : Host.Outcome State Fault Refusal :=
  let late := s.clp.adms.filter fun a => a.phase == .releasing && a.asked + s.getF Fld.CLP_CTRL_RELEASE_LIMIT ≤ s.tim.flash
  .next (if s.isHead then late.foldl (fun s a => s.startAbort a.req.slice a.ordinal 0x19) s else s)

/-! ### Stragglers and stalls (R274 to R276) -/

/-- STALL_DETECT: plans whose points have completed no piece for STALL_LIMIT flashes report STALL; a rack with nothing left to do reports
too, and says so (R276, log entry 35). -/
def execStallDetect (s : State) : Host.Outcome State Fault Refusal :=
  let limit := s.getF Fld.CLP_FAULT_CTRL_STALL_LIMIT
  let due := s.clp.plans.filter fun p => p.st == 3 && limit != 0 && limit ≤ p.quiet && !p.stallSent && p.frozen.isNone && p.launches != 0
  .next (due.foldl (fun s p =>
    let busy := s.launchOpen p
    ((s.onPlan p.ctx fun p => { p with stallSent := true }).recoverReq p 4 p.newest [w32 (b2n busy)]).raise Fld.CLP_FAULT_STATUS_STALL) s)

/-- STRAGGLER_DETECT: plans whose straggler has been the same above STRAG_NS for STRAG_RUN flashes log EV_STRAGGLER (R275). -/
def execStragglerDetect (s : State) : Host.Outcome State Fault Refusal :=
  let run := s.getF Fld.CLP_STRAG_CTRL_STRAG_RUN
  let due := s.clp.plans.filter fun p => p.st == 3 && run ≤ p.stragRun
  .next (due.foldl (fun s p =>
    let en := (planDesc p.desc).members.getD p.straggler 0
    let s := s.logOwn 0x032 0x06 p.slice [w32 p.ordinal, fieldAt 0 14 p.straggler ||| fieldAt 16 14 en, w32 p.stragLag]
    (s.setReg Reg.CLP_STRAG_LAST (fieldAt 0 11 p.ctx ||| fieldAt 16 14 p.straggler)).raise Fld.CLP_FAULT_STATUS_STRAGGLER) s)

/-! ### Retransmission and the agents' events (R201, R264, R273) -/

/-- COLLECTIVE_RETRANSMIT: a packet of a Keeper's flow unacknowledged for RETX_US is sent again with the same header fields; after RETX_MAX
sends its flow is broken (R264). -/
def execCollectiveRetransmit (dest : Addr) (svc : Nat) (wseq : Nat) (s : State) : Host.Outcome State Fault Refusal :=
  let mine := fun (f : Flow) => f.isOurs s.selfLit dest svc
  match (s.link.flows.find? mine).bind fun f => (f.sent.find? fun x => x.wseq == wseq).map fun x => (f, x) with
  | none => .next s
  | some (f, x) =>
    let max := s.getF Fld.CLP_FAULT_CTRL_RETX_MAX
    if x.sends > max ∨ s.now < x.stamp + 256000 * s.getF Fld.CLP_FAULT_CTRL_RETX_US then .next s
    else
      let s := s.onFlow mine fun f => { f with sent := f.sent.map fun y => if y.wseq = wseq then { y with sends := y.sends + 1, stamp := s.now } else y }
      if x.sends = max then
        match s.plan x.ctx with
        | some p => .next ((s.keeperFlowBroken p dest x.launch).progress 0x06)
        | none => .next (s.raise Fld.CLP_FAULT_STATUS_FLOW_BROKEN)
      else
        let port := if addrKind dest = 2 then (s.keeperPort (s.rackOf dest)).getD f.port else f.port
        .next ((s.enqueue port x.pkt).countReg Reg.CLP_RETRANSMITS 1)

/-- The plan that a slot number of an endpoint agent or a context of a switch agent names. -/
def State.eventPlan (s : State) (agent : Addr) (n : Nat) : Option Plan :=
  if addrKind agent = 1 then s.plan n
  else s.clp.plans.find? fun p => p.st != 1 && (planDesc p.desc).slot == n && (s.planMembers p).any fun x => x.1 == agent

/-- A flow of an agent is broken: toward a reduction or replication point the plane is lost; toward an owner or XC receiver the plan is aborted
(R264, R269, R281). -/
def State.flowBroken (s : State) (ev : AgentEvent) : State :=
  let w := wordAt ev.body 0
  match s.eventPlan ev.agent ev.arg.toNat with
  | none => s
  | some p =>
    let s := s.raise Fld.CLP_FAULT_STATUS_FLOW_BROKEN
    if bitsOf w 14 2 = 0 then s.recoverReq p 5 (bitsOf (wordAt ev.body 1) 16 16) [] else s.losePlane p.ctx (bitsOf w 16 4)

/-- FLOW_BROKEN_EVENT (R264, R445). -/
def execFlowBrokenEvent (port : Nat) (p : Packet) (s : State) : Host.Outcome State Fault Refusal := .next (s.takeAgentEvent 5 port p State.flowBroken)

/-- A switch agent discarded a piece place: the head is asked for a replay (R270, R273, R450). -/
def State.placeDiscarded (s : State) (ev : AgentEvent) : State :=
  let w := wordAt ev.body 0
  match s.eventPlan ev.agent ev.arg.toNat with
  | none => s
  | some p => s.recoverReq p 2 (bitsOf w 16 16) [w32 (bitsOf w 0 16)]

/-- PLACE_DISCARDED_EVENT (R273, R445). -/
def execPlaceDiscardedEvent (port : Nat) (p : Packet) (s : State) : Host.Outcome State Fault Refusal :=
  .next (s.takeAgentEvent 6 port p State.placeDiscarded)

/-- Bytes dropped by a member are added to its count and the Keeper's, logged once per plan and member (R201). -/
def State.overflowTold (s : State) (ev : AgentEvent) : State :=
  match s.eventPlan ev.agent ev.arg.toNat with
  | none => s
  | some p => s.overflow p.ctx (bitsOf (wordAt ev.body 0) 0 14) (wordAt ev.body 1).toNat

/-- OVERFLOW_EVENT (R201, R445). -/
def execOverflowEvent (port : Nat) (p : Packet) (s : State) : Host.Outcome State Fault Refusal := .next (s.takeAgentEvent 8 port p State.overflowTold)

end Sys2Proof.Machine
end

