-- ==== Sys2Proof/Machine/Lamp.lean ====
section
/-! DEFINITION. Machine/Lamp.lean: the commands of the Lamp array: a unit ends, a spill write ends, a fault is injected (R217, R221, R222,
R237 to R241). -/
namespace Sys2Proof.Machine

/-- The fault a unit meets: the lane and path of its first mismatch and whether the recompute mismatches too; an armed injection for this
lamp decides both (R241). -/
def State.unitFault (s : State) (lamp : Nat) (first : Option (Nat × Nat)) (second : Bool) : Option (Nat × Nat) × Bool × Bool :=
  if s.flag Fld.LMP_INJECT_ARM && s.getF Fld.LMP_INJECT_LAMP == lamp then
    (some (s.getF Fld.LMP_INJECT_LANE, s.getF Fld.LMP_INJECT_PATH), s.flag Fld.LMP_INJECT_BOTH, true)
  else (first, second && first.isSome, false)

/-- A first mismatch: the record, the counter, RECOMPUTE, and the lane's count toward soft retirement (R238, R239). -/
def State.firstMismatch (s : State) (lamp lane path slice ctx : Nat) (second : Bool) : State :=
  let w := fieldAt 0 6 lamp ||| fieldAt 8 4 lane ||| fieldAt 12 1 path ||| fieldAt 13 1 (b2n second) ||| fieldAt 16 11 ctx
  let s := ((s.setReg Reg.LMP_LAST_RESIDUE w).countReg Reg.LMP_RECOMPUTES 1).logOwn 0x030 0x07 slice [w]
  let window := s.getF Fld.LMP_CTRL_SOFT_WINDOW * 1024
  let kept := s.lmp.soft.filter fun x => s.tim.flash < x.2.2 + window
  let soft := (lamp, lane, s.tim.flash) :: kept
  let s := ({ s with lmp := { s.lmp with soft := soft } }).raise Fld.LMP_INT_STATUS_RECOMPUTE
  if (soft.filter fun x => x.1 == lamp && x.2.1 == lane).length ≥ s.getF Fld.LMP_CTRL_SOFT_LIMIT then s.retireLamp lamp 1 else s

/-- Plans whose root steps run in a lamp pool that holds no lamp: the roots are lost and the slots set to LOADED (R240, R273). -/
def State.poolLost (s : State) (pool : Option Nat) : State :=
  match pool with
  | none => s
  | some n =>
    if (List.range 34).any fun l => s.lampServes l && s.lampPool l == some n then s
    else (s.clp.plans.filter fun p => p.st == 3 && p.alg == 2 && p.ring.length > 1 && s.lampPoolOf p.slice == some n).foldl
      (fun s p => (s.loadSlots p.ctx).recoverReq p 2 p.newest []) s

/-- Packets and their credits that a spilled place holds, read by a unit, in 64-byte units. -/
def State.unitReads (s : State) (x : Place) (idx : Nat) : Nat :=
  ((x.ins.filter fun i => i.idx == idx).map fun i => ceilDiv (s.dataOf i.data).length 16).sum

/-- A line that a unit reads from the spill area fails its code, checked after decryption (R222, R342). -/
def State.lineFails (s : State) (x : Place) (idx : Nat) : Bool := x.ins.any fun i => i.idx == idx && (s.readData i.data).isNone

/-- A packet of a spilled place as the spill path has written it: its data stand on pages of its slice (R220, R221, R343). -/
def State.spillPacket (s : State) (w : SpillIn) : State :=
  match (s.plan w.ctx).bind fun p => p.place w.launch w.piece with
  | none => s
  | some x =>
    (x.ins.filter fun i => i.input == w.input && w.idxs.contains i.idx).foldl (fun s i =>
      match i.data with
      | .words (_ :: _) =>
        let r := s.spillData w.slice i.data.plain
        r.1.onPlace w.ctx w.launch w.piece fun y => { y with
          ins := y.ins.map fun (j : PlaceIn) => if j = i then { j with data := r.2 } else j,
          sums := y.sums.map fun (z : Nat × Datum) => if z = (i.idx, i.data) then (z.1, r.2) else z }
      | _ => s) s

/-- LAMP_UNIT_DONE: the unit at a place of the waiting list ends on a lamp of its slice's pool, in a slot that serves the slice; a unit of a spilled
place waits while its reads would pass the spill cap (R170, R218, R221). A line whose code fails discards the piece
place; a first mismatch recomputes; a second retires the lamp and runs the unit again, or discards the piece place when that run
mismatches; else the result is written; at throttle level 2 a unit is issued as two, each over half of its elements (R217, R222, R237, R238, R241, R500). -/
def execLampUnitDone (lamp unit : Nat) (first : Option (Nat × Nat)) (second : Bool) (line : Option Bool) (s : State) :
    Host.Outcome State Fault Refusal :=
  match s.lmp.units[unit]?.bind fun u => (s.plan u.ctx).bind fun p => (p.place u.launch u.piece).map fun x => (u, p, x) with
  | none => .next s
  | some (u, p, x) =>
    let pool := s.lampPoolOf p.slice
    let reads := if x.spill then 2 * s.unitReads x u.idx else 0
    if !s.lampServes lamp || pool.isNone || s.lampPool lamp != pool || !s.lampSlotServes p.slice then .next s
    else if !s.spillFits reads then .next s.holdSpill
    else
      let s := s.progress 0x07
      let s := { s with lmp := { s.lmp with unitCount := s.lmp.unitCount + (if s.getF Fld.PWR_STATE_LEVEL = 2 then 2 else 1),
                                            spillUnits := s.lmp.spillUnits + reads } }
      let lineLost := fun (s : State) (spill : Bool) =>
        (if spill then (s.countReg Reg.LMP_SPILL_ERR 1).raise Fld.LMP_INT_STATUS_SPILL_ERR
         else (s.countReg Reg.LMP_STORE_ERR 1).raise Fld.LMP_INT_STATUS_STORE_ERR).discardPlace u.ctx u.launch u.piece
      match if s.lineFails x u.idx then some true else line with
      | some spill => .next (lineLost s spill)
      | none =>
        let f := s.unitFault lamp first second
        let s := if f.2.2 then (s.setF Fld.LMP_INJECT_ARM 0).raise Fld.LMP_INT_STATUS_INJECT_DONE else s
        let s := match f.1 with
          | some l => s.firstMismatch lamp l.1 l.2 p.slice p.ctx f.2.1
          | none => s
        if f.2.1 then
          if u.rerun then .next ((lineLost s x.spill).poolLost pool)
          else
            let s := { s with lmp := { s.lmp with units := modifyAt (fun v => { v with rerun := true }) unit s.lmp.units } }
            .next ((s.retireLamp lamp 0).poolLost pool)
        else
          let s := ({ s with lmp := { s.lmp with units := s.lmp.units.eraseIdx unit } }).runUnit u
          .next (s.poolLost pool)

/-- SPILL_WRITE_DONE: the spill path has written the oldest packet taken for a spilled place of a slice that the present slot serves, encrypted under
the slice's page key, and its credits go back; at the cap the write waits (R37, R221). -/
def execSpillWriteDone (s : State) : Host.Outcome State Fault Refusal :=
  match s.lmp.spillQueue.find? fun x => s.spillServes x.slice with
  | none => .next s
  | some x =>
    if !s.spillFits (x.units - 1) then .next s.holdSpill
    else
      let s : State := { s with lmp := { s.lmp with spillQueue := s.lmp.spillQueue.erase x, spillUnits := s.lmp.spillUnits + (x.units - 1) } }
      .next (((s.spillPacket x).send (.credits x.port x.vc x.units)).progress 0x07)

/-- The spares withheld for lamps retired while AUTO_SPARE was 0 come in (R245, R412). -/
def State.bringWithheldLamps (s : State) : State :=
  let bare := s.lmp.retired.filter fun l => s.lampPlace l == l && !(s.lmp.spares.any fun x => x.2 == l)
  (bare.foldl (fun s l => (s.bringLamp l).1) s).showLamps

end Sys2Proof.Machine
end

