-- ==== Sys2Proof/Machine/Tel.lean ====
section
/-! DEFINITION. Machine/Tel.lean: meanings of the telemetry commands (R315, R322, R328, R330). -/
namespace Sys2Proof.Machine

/-- A part of a load report; with every part in, a report of F that came in F+1 is kept for the intake, another one is discarded and counted (R315,
R445). A Keeper that does not hold LIT takes none (R313). -/
def State.loadReport (s : State) (ev : AgentEvent) : State :=
  let mine := fun (x : Addr × Nat × Nat × List Word) => x.1 == ev.agent && x.2.1 == ev.subject
  let parts := (s.tel.parts.filter fun x => !(mine x && x.2.2.1 == ev.part)) ++ [(ev.agent, ev.subject, ev.part, ev.body)]
  let have_ := parts.filter mine
  if ¬ s.lit then s
  else if have_.length < ev.parts then { s with tel := { s.tel with parts := parts } }
  else
    let ws := (List.range ev.parts).flatMap fun k => (have_.filter fun x => x.2.2.1 == k).flatMap fun x => x.2.2.2
    let r : LoadReport := { agent := ev.agent, stamp := ev.flash, flash := BitVec.ofNat 48 ev.subject, words := ws }
    let s := { s with tel := { s.tel with parts := parts.filter fun x => !mine x && decide (s.tim.flash ≤ x.2.1 + 1) } }
    if ev.subject + 1 = s.tim.flash then
      { s with tel := { s.tel with reports := (s.tel.reports.filter fun x => x.agent != r.agent || x.flash != r.flash) ++ [r] } }
    else (s.countReg Reg.TEL_LATE 1).raise Fld.TEL_INT_STATUS_LATE

/-- LOAD_REPORT: not acknowledged (R313, R315, R445). -/
def execLoadReport (port : Nat) (p : Packet) (s : State) : Host.Outcome State Fault Refusal :=
  let s := s.received port p.hdr
  match s.refused port p.hdr with
  | some s => .next s
  | none =>
    if ¬ eventClean p.payload ∨ bitsOf (wordAt p.payload 0) 0 8 ≠ 1 then .next (s.refusePacket port p.hdr 2)
    else .next ((s.returnCredits port p.hdr).loadReport (eventOf p.hdr.src p.payload))

/-- SATURATION_WARN: a gauge at or above WARN_PM for WARN_RUN flashes sets its bit and raises SAT (R328). -/
def execSaturationWarn (s : State) : Host.Outcome State Fault Refusal :=
  let due := (List.range 9).filter fun g => decide (s.getF Fld.TEL_SAT_CTRL_WARN_RUN ≤ s.tel.runs.getD g 0) && !bitAt (s.getReg Reg.TEL_SAT_STATUS) g
  .next (if due.isEmpty then s
    else (s.setReg Reg.TEL_SAT_STATUS (s.getReg Reg.TEL_SAT_STATUS ||| w32 (maskOf due))).raise Fld.TEL_INT_STATUS_SAT)

/-- TEL_CTRL.PEAK_CLEAR sets every PEAK to 0 (R330). -/
def State.telAct (s : State) : State :=
  if s.flag Fld.TEL_CTRL_PEAK_CLEAR then
    let s := (List.range 9).foldl (fun s g => s.setReg (Reg.TEL_GAUGE g) (putBits (s.getReg (Reg.TEL_GAUGE g)) 12 10 0)) s
    s.setF Fld.TEL_CTRL_PEAK_CLEAR 0
  else s

/-- READ_LOADMAP (R322). -/
def execReadLoadmap (c : HostCmd) (s : State) : Host.Outcome State Fault Refusal := .next (s.issue c 0x10 cmdReadLoadmap)

end Sys2Proof.Machine
end

