-- ==== Sys2Proof/Machine/Time.lean ====
section
/-! DEFINITION. Machine/Time.lean: meanings of the commands of fabric time (R295, R296, R298, R300, R303, R304, R310). -/
namespace Sys2Proof.Machine

/-- A TIME_EXCHANGE packet's checks (R17, R296): its refusal, or the state with its credits returned. -/
def State.takeTime (s : State) (port : Nat) (p : Packet) : Bool × State :=
  let s := s.received port p.hdr
  match s.refused port p.hdr with
  | some s => (false, s)
  | none => if timeClean p.hdr.len.toNat p.payload then (true, s.returnCredits port p.hdr) else (false, s.refusePacket port p.hdr 2)

/-- TIME_EXCHANGE_REQUEST: answered with a REPLY (R296). -/
def execTimeExchangeRequest (port : Nat) (p : Packet) (s : State) : Host.Outcome State Fault Refusal :=
  let (ok, s) := s.takeTime port p
  .next (if ok ∧ bitsOf (wordAt p.payload 0) 0 2 = 0 then s.answerTime port p.hdr p.payload else s)

/-- TIME_EXCHANGE_REPLY: an exchange is taken unless it comes after the flash that follows its REQUEST (R296, R300, R303). -/
def execTimeExchangeReply (port : Nat) (p : Packet) (s : State) : Host.Outcome State Fault Refusal :=
  let (ok, s) := s.takeTime port p
  let w := p.payload
  let tag := p.hdr.optag.toNat % 4096
  match s.tim.requests.find? fun r => r.1 == tag && s.tim.flash ≤ r.2 + 1 with
  | none => .next s
  | some _ =>
    if ok ∧ bitsOf (wordAt w 0) 0 2 = 1 then
      let s := { s with tim := { s.tim with requests := s.tim.requests.filter fun r => r.1 != tag } }
      let t1 := s.stampAt w 1
      let t2 := s.stampAt w 4
      let t3 := s.stampAt w 7
      let t4 : Int := s.now
      let rep := bitAt (wordAt w 0) 2
      let recs := if rep then (w.drop 16).take 16 else []
      let phis := if rep then (w.drop 32).take 16 else []
      let theta2 := (t2 - t1) + (t3 - t4)
      let rtt := (t4 - t1) - (t3 - t2)
      let state := bitsOf (wordAt w 0) 4 3
      let x : TimExch := { port := port, src := p.hdr.src, rtt := rtt, theta2 := theta2, state := state, bound := bitsOf (wordAt w 11) 0 8, repFlash := wordAt w 12, recs := recs, phis := phis }
      .next (s.takeExch x (bitsOf (wordAt w 0) 12 6))
    else .next s

/-- FILL_PACKET_RECEIVED: only its hop-delay sample counts (R292, R296). -/
def execFillPacketReceived (port : Nat) (p : Packet) (s : State) : Host.Outcome State Fault Refusal := .next (s.takeTime port p).2

/-- TIME_FILL: from 8 µs before the boundary on, a direction short of samples is filled with FILL packets, as many as the VC0 bucket allows (R295). -/
def execTimeFill (port : Nat) (samples : Nat) (s : State) : Host.Outcome State Fault Refusal :=
  let p := (s.fillBuckets port).port port
  if s.flag Fld.TIM_CTRL_FILL_EN ∧ port < 20 ∧ p.st = .lit ∧ s.flashUnits ≤ s.tim.offset + 2048000 then
    let n := min (s.getF Fld.TIM_PARAMS_FILL_SAMPLES - samples) (p.eg.bucket0.bytes / 80)
    let dest := match p.found with
      | some f => f.w0.extractLsb' 0 16
      | none => s.self
    .next ((List.range n).foldl (fun s _ => s.enqueue port (s.timePacket dest 0 [s.timeWord0 2 false])) s)
  else .next s

/-- TIME_ACQUISITION_STEP: the step to the source's time at the next boundary, or FLOOR (R303). -/
def execTimeAcquisitionStep (s : State) : Host.Outcome State Fault Refusal :=
  if s.timeState = 1 ∧ 8 ≤ s.tim.acq.length ∧ s.tim.step = none then
    let best := s.tim.acq.foldl (fun (acc : Option (Int × Int)) x => match acc with
      | none => some x
      | some y => if x.1 < y.1 then some x else some y) none
    match best with
    | none => .next s
    | some x =>
      let source := ((2 * (s.now : Int) + x.2) / 2).toNat
      if (s.timeAt source).1 < s.getPair Reg.TIM_FLOOR_LO then
        .next (({ s with tim := { s.tim with acq := [] } } : State).enterTime 6)
      else .next { s with tim := { s.tim with step := some (.by2 x.2) } }
  else .next s

/-- ACQUISITION_TIMEOUT: 16 flashes without an exchange (R303). -/
def execAcquisitionTimeout (s : State) : Host.Outcome State Fault Refusal :=
  .next (if s.timeState = 1 ∧ 16 ≤ s.tim.acqQuiet ∧ s.tim.step = none then ({ s with tim := { s.tim with acq := [], acqQuiet := 0 } } : State).enterTime 0 else s)

/-- F0 of a cold start: the larger of floor and seed, rounded up to a multiple of 2^20, plus 2^20 (R304). -/
def State.coldFlash (s : State) : Nat := (max (s.getPair Reg.TIM_FLOOR_LO) (s.getPair Reg.TIM_SEED_LO) + (2 ^ 20 - 1)) / 2 ^ 20 * 2 ^ 20 + 2 ^ 20

/-- COLD_START: the Keeper holding LIT in the root rack declares T0 (R304). -/
def execColdStart (s : State) : Host.Outcome State Fault Refusal :=
  .next (if s.lit ∧ s.getF Fld.TIM_STATE_ROOT_RACK = s.myRack ∧ s.isHead ∧ s.timeState = 0 ∧ s.flag Fld.TIM_CTRL_COLD_EN
      ∧ s.getF Fld.TIM_HOLD_ACQ_FLASHES ≤ s.tim.noSource then { s with tim := { s.tim with step := some (.cold s.coldFlash) } } else s)

/-- DEGRADED_ENTRY: HOLDOVER has lasted HOLDOVER_FLASHES (R303). -/
def execDegradedEntry (s : State) : Host.Outcome State Fault Refusal :=
  .next (if s.timeState = 4 ∧ s.getF Fld.TIM_HOLD_HOLDOVER_FLASHES ≤ s.tim.holdRun ∧ ¬ s.flag Fld.TIM_STATE_DEGRADED then
    (s.setF Fld.TIM_STATE_DEGRADED 1).raise Fld.TIM_INT_STATUS_DEGRADED else s)

/-- AGENT_HOLDOVER: 16 flashes without a valid record put an agent in holdover (R298). -/
def execAgentHoldover (agent : Addr) (s : State) : Host.Outcome State Fault Refusal :=
  let t := s.timAgent agent
  .next (if s.lit ∧ t.st = 1 ∧ 16 ≤ t.silent then (s.judgeAgent agent 2).raise Fld.TIM_INT_STATUS_AGENT_HOLD else s)

/-- TIM_CTRL.FLOOR_CLEAR: the floor becomes 0, which is logged; FLOOR goes to ACQUIRING (R303). -/
def State.floorAct (s : State) : State :=
  if s.flag Fld.TIM_CTRL_FLOOR_CLEAR then
    let old := s.getPair Reg.TIM_FLOOR_LO
    let s := ((s.setF Fld.TIM_CTRL_FLOOR_CLEAR 0).setPair Reg.TIM_FLOOR_LO 0).logOwn 0x061 0x09 0 [loHalf old, hiHalf old]
    if s.timeState = 6 then ({ s with tim := { s.tim with acq := [], acqQuiet := 0 } } : State).enterTime 1 else s
  else s

/-- TIM_WALL_CTRL.APPLY takes TIM_WALL_SET, logs both wall times and opens a wall-table entry (R310, R423). -/
def State.wallAct (s : State) : State :=
  if s.flag Fld.TIM_WALL_CTRL_APPLY then
    let old := s.wallNow
    let new := s.getPair Reg.TIM_WALL_SET_LO
    let s := (s.setF Fld.TIM_WALL_CTRL_APPLY 0).openWall new s.wallPpb
    (s.logStep 2 (decide (new < old)) old new).raise Fld.TIM_INT_STATUS_WALL_STEP
  else s

end Sys2Proof.Machine
end

