-- ==== Sys2Proof/Machine/Regs.lean ====
section
/-! DEFINITION. Machine/Regs.lean: host writes of BAR0 registers and what a written register sets off (R8 to R14, R84, R241, R418, R509, R511, R512). -/
namespace Sys2Proof.Machine

/-- The engine that acts on a block's registers (R391). -/
def blockEngine (off : Nat) : Nat :=
  if off < 0x10000 then 0x01 else if off < 0x20000 then 0x02 else if off < 0x40000 then 0x03 else if off < 0x60000 then 0x04
  else if off < 0x80000 then (if off < 0x60800 then 0x05 else 0x22) else if off < 0xA0000 then 0x06 else if off < 0xB0000 then 0x07
  else if off < 0xC0000 then 0x08 else if off < 0xD0000 then 0x09 else if off < 0xE0000 then 0x0A else if off < 0xF0000 then 0x0B
  else if off < 0x100000 then 0x0E else if off < 0x110000 then 0x0C else 0x0D

/-- The units withheld while AUTO_SPARE was 0 give way to spares (R412). -/
def State.bringWithheld (s : State) : State :=
  let us := s.rst.withheld
  us.foldl (fun s u => s.bringUnit u.1 u.2) (s.onRst fun r => { r with withheld := [] })

/-- RST_TEST.STALL holds an engine's PROGRESS for HANG_WINDOW + 1 boundaries (R418). -/
def State.stallAct (s : State) : State :=
  if s.flag Fld.RST_TEST_STALL then
    let n := s.getF Fld.RST_STATE_HANG_WINDOW + 1
    (s.onEngine (s.getF Fld.RST_TEST_ENGINE) fun e => { e with stalled := n }).setF Fld.RST_TEST_STALL 0
  else s

/-- PWR_CTRL.PEAK_CLEAR (R509). -/
def State.peakAct (s : State) : State :=
  if s.flag Fld.PWR_CTRL_PEAK_CLEAR then (s.setF Fld.PWR_POWER_PEAK 0).setF Fld.PWR_CTRL_PEAK_CLEAR 0 else s

/-- The registers whose writes an engine acts on. -/
def actRegs : List Nat :=
  [Reg.DSC_TEST_CTRL, Reg.SLV_CTRL, Reg.WDN_ENROL_CTRL, Reg.WDN_ROTATE, Reg.LMP_CTRL, Reg.TIM_CTRL, Reg.TIM_WALL_CTRL, Reg.TEL_CTRL, Reg.MOR_CTRL,
   Reg.RST_CTRL, Reg.RST_TEST, Reg.PWR_CTRL]

/-- What the owner of a register does with its value: requests are taken, spares withheld come in. -/
def State.regAct (s : State) (off : Nat) : State :=
  if off = Reg.DSC_TEST_CTRL then s.testAct
  else if off = Reg.SLV_CTRL then (if s.flag Fld.SLV_CTRL_FULL_REQ then s.releaseHeld else s)
  else if off = Reg.WDN_ENROL_CTRL then s.enrolAct
  else if off = Reg.WDN_ROTATE then s.rotateAct
  else if off = Reg.LMP_CTRL then (if s.flag Fld.LMP_CTRL_AUTO_SPARE then s.bringWithheldLamps else s)
  else if off = Reg.TIM_CTRL then s.floorAct
  else if off = Reg.TIM_WALL_CTRL then s.wallAct
  else if off = Reg.TEL_CTRL then s.telAct
  else if off = Reg.MOR_CTRL then s.morAct
  else if off = Reg.RST_CTRL then (if s.flag Fld.RST_CTRL_AUTO_SPARE then s.bringWithheld else s)
  else if off = Reg.RST_TEST then s.stallAct
  else if off = Reg.PWR_CTRL then s.peakAct
  else s

/-- An engine under a level-2 or level-3 reset acts on no register until it restarts (R512). -/
def State.engineHeld (s : State) (id : Nat) : Bool := decide (2 ≤ (s.engine id).inReset)

/-- The value a register takes, and whether its own rule turns the write, or a part of it, away: CHT_SERIAL_FLOOR only rises (R84), FULL_REQ is the
head's (R152), an injection names lamps 0 to 33 (R241). -/
def State.ownRule (s : State) (off : Nat) (v : Word) : Option Word × Bool :=
  if off = Reg.CHT_SERIAL_FLOOR ∧ v.toNat < (s.getReg off).toNat then (none, true)
  else if off = Reg.SLV_CTRL ∧ bitAt v 1 ∧ ¬ s.isHead then (some (putBits v 1 1 0), true)
  else if off = Reg.LMP_INJECT ∧ bitsOf v 0 6 > 33 then (none, true)
  else (some v, false)

/-- What a write changes beside the register and its own engine's act: a port leaves quarantine, WALL_PPB opens a wall-table entry, the agents
take changed parameters (R121, R423, R440). -/
def State.writeEffects (s0 s : State) (off : Nat) (v : Word) : State :=
  let s := if off = Reg.DSC_CLEAR then s.clearQuar v else s
  let s := if off = Reg.TIM_WALL_CTRL ∧ ¬ s.flag Fld.TIM_WALL_CTRL_APPLY ∧ s.wallPpb ≠ s0.wallPpb then s.openWall s.wallNow s.wallPpb else s
  let s := if s.paramsWord ≠ s0.paramsWord then s.writeParams else s
  if s.getF Fld.SLV_PARAMS_DRAIN_GUARD_NS ≠ s0.getF Fld.SLV_PARAMS_DRAIN_GUARD_NS then s.writeGuard else s

/-- An access of the host to a register other than a read that a latch answers: the latch of its pair goes, and in block TIM those of TIM_NOW
(R8, R311). -/
def State.dropLatches (s : State) (off : Nat) : State :=
  let s := s.dropLatch off
  if off / 0x10000 = 0xC then { s with hif := { s.hif with nowLatch := none } } else s

/-- A 32-bit aligned host write of a BAR0 register: the register, then its effects; a level-4 reset serves few registers (R512). -/
def State.hostWrite (s : State) (off : Nat) (v : Word) (same : Bool) : State :=
  if ¬ s.hostReaches then s
  else if s.resetLevel = 4 ∧ ¬ servedInLevel4 off then (s.dropLatches off).writeReg off v same
  else
    let s := s.dropLatches off
    let r := s.ownRule off v
    let s0 := s
    let s := if r.2 then s.recordErr Fld.HIF_ERR_STATUS_IGNORED 0 off else s
    match r.1 with
    | none => s
    | some v =>
      let s := s.writeReg off v same
      let s := s0.writeEffects s off v
      if s.engineHeld (blockEngine off) then s else s.regAct off

/-- FABRIC_TEST_START: a host write of DSC_TEST_CTRL (R119). -/
def execFabricTestStart (value : Word) (s : State) : Host.Outcome State Fault Refusal := .next (s.hostWrite Reg.DSC_TEST_CTRL value false)

/-- CLEAR_QUAR: a host write of DSC_CLEAR (R121). -/
def execClearQuar (value : Word) (s : State) : Host.Outcome State Fault Refusal := .next (s.hostWrite Reg.DSC_CLEAR value false)

/-- LMP_INJECT_ARM: a host write of LMP_INJECT (R241). -/
def execLmpInjectArm (value : Word) (s : State) : Host.Outcome State Fault Refusal := .next (s.hostWrite Reg.LMP_INJECT value false)

/-- FLOOR_CLEAR: a host write of TIM_CTRL with FLOOR_CLEAR (R303). -/
def execFloorClear (value : Word) (s : State) : Host.Outcome State Fault Refusal := .next (s.hostWrite Reg.TIM_CTRL value false)

/-- WALL_APPLY: a host write of TIM_WALL_CTRL with APPLY (R310). -/
def execWallApply (value : Word) (s : State) : Host.Outcome State Fault Refusal := .next (s.hostWrite Reg.TIM_WALL_CTRL value false)

/-- TEL_PEAK_CLEAR: a host write of TEL_CTRL with PEAK_CLEAR (R330). -/
def execTelPeakClear (value : Word) (s : State) : Host.Outcome State Fault Refusal := .next (s.hostWrite Reg.TEL_CTRL value false)

/-- AUTO_SPARE: a host write of RST_CTRL or LMP_CTRL with AUTO_SPARE (R412). -/
def execAutoSpare (rst : Bool) (value : Word) (s : State) : Host.Outcome State Fault Refusal :=
  .next (s.hostWrite (if rst then Reg.RST_CTRL else Reg.LMP_CTRL) value false)

/-- ENROL_GO: a host write of WDN_ENROL_CTRL with GO (R338). -/
def execEnrolGo (value : Word) (s : State) : Host.Outcome State Fault Refusal := .next (s.hostWrite Reg.WDN_ENROL_CTRL value false)

/-- KEY_ROTATE: a host write of WDN_ROTATE with GO (R343). -/
def execKeyRotate (value : Word) (s : State) : Host.Outcome State Fault Refusal := .next (s.hostWrite Reg.WDN_ROTATE value false)

/-- HANDOVER: a host write of MOR_CTRL with HANDOVER (R380). -/
def execHandover (value : Word) (s : State) : Host.Outcome State Fault Refusal := .next (s.hostWrite Reg.MOR_CTRL value false)

/-- RESYNC_REQ: a host write of MOR_CTRL with RESYNC_REQ (R384). -/
def execResyncReq (value : Word) (s : State) : Host.Outcome State Fault Refusal := .next (s.hostWrite Reg.MOR_CTRL value false)

/-- RST_TEST_STALL: a host write of RST_TEST with STALL (R418). -/
def execRstTestStall (value : Word) (s : State) : Host.Outcome State Fault Refusal := .next (s.hostWrite Reg.RST_TEST value false)

/-- PWR_PEAK_CLEAR: a host write of PWR_CTRL with PEAK_CLEAR (R509). -/
def execPwrPeakClear (value : Word) (s : State) : Host.Outcome State Fault Refusal := .next (s.hostWrite Reg.PWR_CTRL value false)

/-- SERIAL_FLOOR_WRITE: a host write of CHT_SERIAL_FLOOR (R84). -/
def execSerialFloorWrite (value : Word) (s : State) : Host.Outcome State Fault Refusal := .next (s.hostWrite Reg.CHT_SERIAL_FLOOR value false)

end Sys2Proof.Machine
end

