-- ==== Sys2Proof/Machine/Slices.lean ====
section
/-! DEFINITION. Machine/Slices.lean: the commands of slices: the host's, and the messages between the head and the Keepers
(06_slices_isolation.md). -/
namespace Sys2Proof.Machine

/-- SLICE_REQ goes to the head for an issued command (R162, R168). -/
def State.sendSliceReq (s : State) (i : SliceIssued) : State :=
  let ws := (fieldAt 0 4 i.op ||| fieldAt 4 12 i.tag) :: i.words
  s.tellHead ({ s.kmsg 0x20 with flash := BitVec.ofNat 48 i.flash, set := sliceBit i.slice, count := w32 ws.length, words := ws } : KMsg)

/-- A slice command is issued: SLICE_REQ goes to the head from the next boundary on (R22); with HEAD_MISMATCH it is refused with 0x12 (R162,
R164). -/
def State.issueSlice (s : State) (w op slice : Nat) (words : List Word) : State :=
  if s.flag Fld.CHT_STATE_HEAD_MISMATCH then s.refuse w 6 0x12
  else
    let i : SliceIssued := { win := w, tag := s.slc.nextTag, op := op, slice := slice, words := words, flash := s.tim.flash, epoch := none }
    { s with slc := { s.slc with issued := s.slc.issued ++ [i], nextTag := (s.slc.nextTag + 1) % 4096 } }

/-- A slice descriptor has been fetched: LEN is compared with its own length before anything is forwarded (R161). -/
def State.sliceFetched (s : State) (w : Nat) (reseal : Bool) (ws : List Word) : State :=
  let len := 4 * ws.length
  if len < descBytes ws then s.refuse w 2 3
  else s.issueSlice w (if reseal then 2 else 1) (bitsOf (wordAt ws 0) 0 8) (ws.take (descBytes ws / 4))

/-- SLICE_CREATE and SLICE_RESEAL in a window: LIT, the arguments, the fetch (R161, R364, R471, R476). -/
def cmdSliceFetch (reseal : Bool) (w : Nat) (s : State) : State :=
  let len := (s.arg w 3).toNat
  if ¬ s.lit then s.refuse w 3 0
  else if (s.arg w 1).toNat % 4 ≠ 0 then s.refuse w 2 1
  else if len < 16 ∨ len > 2320 ∨ len % 4 ≠ 0 then s.refuse w 2 3
  else s.startDma w (.slice reseal) ((s.arg w 1).toNat + (s.arg w 2).toNat * 2 ^ 32) len id

/-- SLICE_DRAIN and SLICE_DESTROY in a window (R364, R471, R476). -/
def cmdSliceOp (op w : Nat) (s : State) : State :=
  if ¬ s.lit then s.refuse w 3 0
  else if (s.arg w 1).toNat > 255 then s.refuse w 2 1
  else s.issueSlice w op (s.arg w 1).toNat []

/-- SLICE_CREATE (R161, R165, R476). -/
def execSliceCreate (c : HostCmd) (s : State) : Host.Outcome State Fault Refusal := .next (s.issue c 0x04 (cmdSliceFetch false))

/-- SLICE_RESEAL (R161, R165, R476). -/
def execSliceReseal (c : HostCmd) (s : State) : Host.Outcome State Fault Refusal := .next (s.issue c 0x05 (cmdSliceFetch true))

/-- SLICE_DRAIN (R166, R476). -/
def execSliceDrain (c : HostCmd) (s : State) : Host.Outcome State Fault Refusal := .next (s.issue c 0x06 (cmdSliceOp 3))

/-- SLICE_DESTROY (R167, R476). -/
def execSliceDestroy (c : HostCmd) (s : State) : Host.Outcome State Fault Refusal := .next (s.issue c 0x07 (cmdSliceOp 4))

/-- SLICE_REQ at the intake: the head takes a request once, under its stamp; a copy of an answered one, with its
FLASH, is answered again (R162). -/
def State.gotSliceReq (s : State) (stamp : Nat) (src : Addr) (m : KMsg) : State :=
  let w0 := wordAt m.words 0
  let rack := s.rackOf src
  let tag := bitsOf w0 4 12
  if ¬ s.isHead then s
  else
    match s.slc.answered.find? fun x => x.1 == rack && x.2.1 == tag && x.2.2.1 == m.flash.toNat with
    | some x =>
      (s.tell src ({ s.kmsg 0x21 with count := fieldAt 0 8 x.2.2.2.1 ||| fieldAt 8 12 tag, epoch := w32 x.2.2.2.2, set := m.set } : KMsg))
    | none =>
      let held := (s.slc.reqs.any fun q => q.rack == rack && q.tag == tag) || (match s.slc.solving with
        | some (q, _, _) => q.rack == rack && q.tag == tag
        | none => false)
      if held then s
      else
        let slice := match bitIndices m.set.toNat 256 with
          | i :: _ => i
          | [] => bitsOf (wordAt m.words 1) 0 8
        let q : SliceReq := { rack := rack, tag := tag, origin := m.flash.toNat, op := bitsOf w0 0 4, slice := slice, words := m.words.drop 1,
                              flash := stamp, placed := none, asked := false }
        { s with slc := { s.slc with reqs := insertReq q s.slc.reqs } }

/-- SLICE_REQ as it arrives: it waits for the next intake (R17, R22, R137). -/
def execSliceReq (port : Nat) (p : Packet) (s : State) : Host.Outcome State Fault Refusal := .next (s.stageMsg 0x20 port p)

/-- ADMISSION_SOLVE_DONE: in the last flash of the solve the request is admitted into the next epoch, or refused with 0x0D or 0x0C, or with 0x10 while
the head holds changes; the head goes on with the next at the boundary (R25, R158, R162, R163). -/
def execAdmissionSolveDone (s : State) : Host.Outcome State Fault Refusal :=
  match s.slc.solving with
  | none => .next s
  | some (q, l, left) =>
    if 1 < left then .next s
    else
      let s := { s with slc := { s.slc with solving := none } }
      let code := if s.slv.head.heldChanges then 0x10 else s.solveVerdict l
      let s := if code = 0 then s.takeSliceReq q (some l) else s.sliceReply q code 0
      .next (s.showHead.stageInput .slv .acted)

/-- SLICE_REPLY: a refusal completes the command; an admission leaves it waiting for its epoch, or for SLICE_DONE (R162, R163). A reply
for no command in progress is discarded. -/
def State.gotSliceReply (s : State) (_src : Addr) (m : KMsg) : State :=
  let tag := bitsOf m.count 8 12
  let reason := bitsOf m.count 0 8
  match s.slc.issued.find? fun i => i.tag == tag with
  | none => s
  | some i =>
    if reason ≠ 0 then
      (({ s with slc := { s.slc with issued := s.slc.issued.filter fun x => x.tag != tag } }).refuse i.win 6 reason)
    else
      { s with slc := { s.slc with issued := s.slc.issued.map fun x => if x.tag == tag then { x with epoch := some m.epoch.toNat } else x } }

/-- SLICE_REPLY as it arrives (R17, R137). -/
def execSliceReply (port : Nat) (p : Packet) (s : State) : Host.Outcome State Fault Refusal := .next (s.takeMsg 0x21 port p State.gotSliceReply)

/-- SLICE_REQ_TIMEOUT: commands without a reply for 64 flashes complete with 0x11 (R162). -/
def execSliceReqTimeout (s : State) : Host.Outcome State Fault Refusal :=
  let late := s.slc.issued.filter fun i => i.epoch.isNone && i.flash + 64 ≤ s.tim.flash
  let s := { s with slc := { s.slc with issued := s.slc.issued.filter fun i => !(i.epoch.isNone && i.flash + 64 ≤ s.tim.flash) } }
  .next (late.foldl (fun s i => s.refuse i.win 6 0x11) s)

/-- SLICE_TABLE: kept with its epoch until the epoch is taken (R168). -/
def State.gotSliceTable (s : State) (_src : Addr) (m : KMsg) : State :=
  match s.collect m with
  | (s, none) => s
  | (s, some ws) =>
    if m.epoch.toNat ≤ s.slv.epoch then s
    else { s with slc := { s.slc with tables := s.slc.tables ++ [(m.epoch.toNat, m.set, ws)] } }

/-- SLICE_TABLE as it arrives (R17, R137). -/
def execSliceTable (port : Nat) (p : Packet) (s : State) : Host.Outcome State Fault Refusal := .next (s.takeMsg 0x22 port p State.gotSliceTable)

/-- DRAIN_LIMIT_EXPIRY: drains past DRAIN_LIMIT flashes are forced by DRAIN_NOTICE with FORCE (R166). -/
def execDrainLimitExpiry (s : State) : Host.Outcome State Fault Refusal :=
  let late := fun (d : HeadDrain) => !d.forced && decide (d.flash + s.getF Fld.WDN_CTRL_DRAIN_LIMIT ≤ s.tim.flash)
  let go := s.slc.drains.filter late
  let s := { s with slc := { s.slc with drains := s.slc.drains.map fun d => if late d then { d with forced := true } else d } }
  .next (go.foldl (fun s d =>
    s.flood ({ s.kmsg 0x23 with flash := BitVec.ofNat 48 d.flash, count := 1, set := sliceBit d.slice } : KMsg)) s)

end Sys2Proof.Machine
end

