-- ==== Sys2Proof/Machine/Reset.lean ====
section
/-! DEFINITION. Machine/Reset.lean: the commands of hangs, resets, samples, detection codes, self-tests and log copies (15_faults_reset.md, R386,
R428 to R431, R475, R497). -/
namespace Sys2Proof.Machine

/-! ### Engines (R391 to R394, R397, R401) -/

/-- ENGINE_HANG: an engine not under reset whose PROGRESS has stood for HANG_WINDOW boundaries, while HANG_EN is 1, is hung; the table of R397 says what follows (R394). RST is not resettable below
level 5 (R391): the always-on watchdog judges it. A Pilot core that retires is judged no more. -/
def execEngineHang (engine : Nat) (slice : Byte) (item : Word) (s : State) : Host.Outcome State Fault Refusal :=
  if s.flag Fld.RST_CTRL_HANG_EN ∧ engineIds.contains engine ∧ engine ≠ 0x0E ∧ s.hungAt engine ∧ (s.engine engine).inReset = 0 ∧ ¬ (s.rst.part.any (·.started)) then
    let s := (s.onEngine engine fun e => { e with hung := true }).showHung engine true
    let s := (s.logHang engine slice.toNat 0 0 0).escalate engine slice.toNat item
    if 0x10 ≤ engine ∧ engine ≤ 0x21 ∧ ((s.work.pilots[engine - 16]?).any (·.retired)) then
      .next ((s.onEngine engine fun e => { e with hung := false, still := 0 }).showHung engine false)
    else .next s
  else .next s

/-- What an engine does as it restarts: DSC reads its neighbours again, MOR starts a resynchronisation, a Pilot core runs the measured image; the
Warden core waits for its measured start (R33, R384, R391). -/
def State.restartEngine (s : State) (id : Nat) : State :=
  if id = 3 then
    if s.lit then ((List.range 16).filter s.portLit).foldl State.readNeighbours s else s
  else if id = 0x0B then
    if s.lit then (if s.portLit 20 ∧ s.flag Fld.MOR_CTRL_MIRROR_EN then s.startPages else s) else s.startResync
  else if 0x10 ≤ id ∧ id ≤ 0x21 then
    { s with work := { s.work with pilots := modifyAt (fun (p : Pilot) => { p with running := s.wdn.serving && !p.retired }) (id - 16) s.work.pilots } }
  else s

/-- ENGINE_RESET_DONE: a level-2 or level-3 reset ends; register writes held for the engine take effect, and the requests that waited complete
(R392, R405, R512). -/
def execEngineResetDone (engine : Nat) (s : State) : Host.Outcome State Fault Refusal :=
  let e := s.engine engine
  if e.inReset < 2 then .next s
  else
    let s := s.onEngine engine fun e => { e with inReset := 0, hung := false, still := 0, last := e.progress, wins := [] }
    let s := match engineStage engine with
      | some g => s.onStage g fun x => { x with run := 0 }
      | none => s
    let s := ((s.showHung engine false).restartEngine engine).showLevel
    let s := (actRegs.filter fun r => blockEngine r == engine).foldl State.regAct s
    .next ((s.raise Fld.RST_INT_STATUS_RESET_DONE).answerReset e.inReset e.began e.wins)

/-! ### Contexts (R390, R395, R475) -/

/-- CONTEXT_HANG: kind 1 a root context at LMP, kind 2 a Lantern context at LNT, whose unit has not written back in 2 µs (R395). -/
def execContextHang (kind ctx : Nat) (s : State) : Host.Outcome State Fault Refusal :=
  if kind = 1 then
    match s.plan ctx with
    | some p => .next (if s.lmp.units.any fun u => u.ctx == ctx then s.contextHang 0x07 1 ctx p.slice 1 0 else s)
    | none => .next s
  else if kind = 2 then
    match s.lnt.ctxs.find? fun c => c.num == ctx with
    | some c => .next (s.contextHang 0x08 2 ctx c.slice 1 0)
    | none => .next s
  else .next s

/-- CONTEXT_RESET_DONE: a level-1 reset ends, and the request that waited completes (R390, R405). -/
def execContextResetDone (kind ctx : Nat) (s : State) : Host.Outcome State Fault Refusal :=
  match s.rst.ctxs.find? fun c => c.kind == kind && c.ctx == ctx with
  | none => .next s
  | some c =>
    let s := (s.onRst fun r => { r with ctxs := r.ctxs.erase c }).showLevel
    .next ((s.raise Fld.RST_INT_STATUS_RESET_DONE).answerReset 1 c.began c.wins)

/-- A DMA read ends without its data: its command completes with DMA and the reason; a chart slot is as before the load, an endorsement is missing
(R80, R338, R475). -/
def State.dmaFailed (s : State) (d : Dma) (reason : Nat) : State :=
  let s := s.dmaErr d.win reason
  match d.purpose with
  | .chart n => ((s.onSlot n fun x => { x with shadow := x.prev, loadWin := 16 }).refuse d.win 4 reason).storeNext
  | .endorsement => s.enrolJudged 2
  | _ => s.refuse d.win 4 reason

/-- All the data of a DMA read is there: it goes to the owner (R80, R161, R183, R338). -/
def State.dmaDone (s : State) (d : Dma) (words : List Word) : State :=
  match d.purpose with
  | .chart n => s.onSlot n fun x => { x with image := words }
  | .slice reseal => s.sliceFetched d.win reseal words
  | .plan => s.planFetched d.win words
  | .endorsement => s.onWdn fun w => { w with enrol := w.enrol.map fun (e : Enrol) => { e with bytes := some ((bytesOfWords words).take d.len) } }

/-- HOST_DMA_COMPLETION: data advances the transfer until its length is there; an unsuccessful status ends it, statuses beyond 3 as 1 (R475). -/
def execHostDmaCompletion (slot status : Nat) (words : List Word) (s : State) : Host.Outcome State Fault Refusal :=
  match s.takeDma slot with
  | (none, _) => .next s
  | (some d, t) =>
    if status ≠ 0 then .next (t.dmaFailed d (if status ≤ 3 then status else 1))
    else
      let need := (d.len + 3) / 4
      let got := (d.got ++ words).take need
      if need ≤ got.length then .next ((t.dmaDone d got).progress 0x01)
      else .next { s with hif := { s.hif with dma := modifyAt (fun (x : Dma) => { x with got := got }) slot s.hif.dma } }

/-- HOST_DMA_TIMEOUT: a DMA without progress for 100 µs is a context hang of HIF; its command ends with DMA 4 (R395, R475). -/
def execHostDmaTimeout (slot : Nat) (s : State) : Host.Outcome State Fault Refusal :=
  match s.takeDma slot with
  | (none, _) => .next s
  | (some d, t) => .next ((t.contextHang 0x01 0 slot 0 1 0).dmaFailed d 4)

/-! ### Levels 4 to 6 (R396 to R404, R497) -/

/-- AON_WATCHDOG: no heartbeat for 100 µs: ARB_HEALTHY_N is deasserted, and a level-5 reset follows, whoever is present (R396). -/
def execAonWatchdog (s : State) : Host.Outcome State Fault Refusal :=
  .next ((s.setUnfit 3 true).decidePart 5 5 0x0E 0 true [])

/-- DEFERRED_RESET_START: a partner is present, and the deferred reset starts (R398). -/
def execDeferredResetStart (s : State) : Host.Outcome State Fault Refusal :=
  match s.rst.part with
  | some p => if p.deferred ∧ s.partnerPresent then .next (s.proceedPart { p with deferred := false }) else .next s
  | none => .next s

/-- PART_RESET_START: LIT_N is released, or 10 µs have passed since the watchdog, and the reset starts (R396, R399). -/
def execPartResetStart (s : State) : Host.Outcome State Fault Refusal :=
  match s.rst.part with
  | some p =>
    if p.deferred ∨ p.started ∨ (s.lit ∧ p.cause ≠ 5) then .next s
    else .next ((if s.lit then s.loseLit s.mor.grant else s).startPart p)
  | none => .next s

/-- PART_RESET_END: the engines restart, and the unit joins as a standby; the requests that waited complete once it is fit (R402, R405). -/
def execPartResetEnd (s : State) : Host.Outcome State Fault Refusal :=
  match s.rst.part with
  | some p =>
    if p.started ∧ p.level = 4 then
      let s := s.onRst fun r => { r with part := none, sincePart := some 0, fitWins := p.wins, fitFlash := p.began }
      let s := { s with link := { s.link with lastTag := none } }
      .next (s.showLevel.setUnfit 3 false)
    else .next s
  | none => .next s

/-- PART_FIT_TIMEOUT: not fit 1 s after a level-4 reset: level 5 (R397). -/
def execPartFitTimeout (s : State) : Host.Outcome State Fault Refusal :=
  let due := s.rst.sincePart.isSome ∨ s.rst.part.any fun p => p.started && p.level == 4
  .next (if s.getF Fld.MOR_STATE_FIT = 0 ∧ s.flag Fld.RST_CTRL_ESC_EN ∧ due then s.decidePart 5 4 0x0E 0 false [] else s)

/-- CHIP_RESET: the log copy is done, and everything outside the always-on domain restarts; with MOD_RESET_N asserted the chip then waits for it
(R403, R497). -/
def execChipReset (s : State) : Host.Outcome State Fault Refusal :=
  match s.rst.part with
  | some p =>
    if p.started ∧ p.level = 5 ∧ ¬ p.held ∧ s.log.copying.isNone then
      let s := s.restartChip 5 p.cause
      .next (if p.pin then ((s.onRst fun r => { r with part := some { p with held := true } }).showLevel).setUnfit 3 true else s)
    else .next s
  | none => .next s

/-- CHIP_FIT_TIMEOUT: not fit within CHIP_FIT of a level-5 reset: level 6, or its deferral (R397). -/
def execChipFitTimeout (s : State) : Host.Outcome State Fault Refusal :=
  .next (if s.getF Fld.MOR_STATE_FIT = 0 ∧ s.flag Fld.RST_CTRL_ESC_EN ∧ s.rst.sinceChip.isSome then s.decidePart 6 4 0x0E 0 false [] else s)

/-- MOD_RESET: LIT is released at once without a handover, and a level-5 reset with cause 0 starts with its log copy (R497). -/
def execModReset (s : State) : Host.Outcome State Fault Refusal :=
  let s := (if s.lit then s.loseLit s.mor.grant else s).setUnfit 3 true
  match s.rst.part with
  | some p =>
    if p.started ∧ p.level = 5 then .next (s.onRst fun r => { r with part := some { p with pin := true } })
    else
      let q : PartReset := { level := 5, cause := 0, engine := 0x0E, slice := 0, wins := p.wins, began := s.tim.flash, force := true,
                             deferred := false, started := false, pin := true, held := false }
      .next ((s.raise Fld.RST_INT_STATUS_ESCALATED).startPart q)
  | none =>
    let q : PartReset := { level := 5, cause := 0, engine := 0x0E, slice := 0, wins := [], began := s.tim.flash, force := true,
                           deferred := false, started := false, pin := true, held := false }
    .next ((s.raise Fld.RST_INT_STATUS_ESCALATED).startPart q)

/-- MOD_RESET_DEASSERT: the pin no longer holds the chip (R497). -/
def execModResetDeassert (s : State) : Host.Outcome State Fault Refusal :=
  match s.rst.part with
  | some p =>
    if p.held then .next (((s.onRst fun r => { r with part := none }).showLevel).setUnfit 3 false)
    else .next (s.onRst fun r => { r with part := some { p with pin := false } })
  | none => .next s

/-! ### ESCALATE_RESET (R405) -/

/-- A context or tag of a kind is in use at an engine: root contexts at LMP, Lantern contexts at LNT, tags at their own engine (R395, R405). -/
def State.ctxInUse (s : State) (engine kind ctx : Nat) : Bool :=
  if kind = 1 then engine == 7 && (s.plan ctx).isSome
  else if kind = 2 then engine == 8 && (s.lnt.ctxs.any fun c => c.num == ctx)
  else s.mgmt.ops.any fun o => o.tag == ctx && o.engine == engine

/-- The reason an ESCALATE_RESET is turned away for; 0 for none (R398, R405). -/
def State.escalateRule (s : State) (w1 : Word) (ctx : Nat) : Nat :=
  let level := bitsOf w1 0 3
  let force := bitAt w1 3
  let kind := bitsOf w1 4 2
  let engine := bitsOf w1 8 8
  let slice := bitsOf w1 16 8
  if bitsOf w1 6 2 ≠ 0 ∨ bitsOf w1 24 8 ≠ 0 ∨ level = 0 ∨ level = 7 then 1
  else if level ≤ 3 then
    if ¬ engineIds.contains engine then 1
    else if level = 1 ∧ kind = 0 then 1
    else if engine = 0x0E ∨ (level = 3 ∧ 0x10 ≤ engine ∧ engine ≤ 0x21) then 2
    else if level = 1 ∧ ¬ s.ctxInUse engine kind ctx then 1
    else if level = 3 ∧ slice = 0 then 1
    else if level = 3 ∧ ¬ s.touches slice s.myRack then 5
    else 0
  else if s.partnerPresent ∨ force ∨ s.flag Fld.RST_CTRL_ESC_ALONE then 0
  else 3

/-- A level-1 reset that the host asks for: carried out and recorded as a context hang would be; a management operation fails to its engine
(R395, R405). -/
def State.hostContextReset (s : State) (w engine kind ctx : Nat) : State :=
  if kind = 3 then
    match s.mgmt.ops.find? fun o => o.tag == ctx && o.engine == engine with
    | some op =>
      let s := (s.dropOp ctx).logHang engine op.slice 2 ctx op.agent
      let s := { s with mgmt := { s.mgmt with cool := (ctx, s.tim.flash + 4) :: s.mgmt.cool } }
      (s.resetContext engine 3 ctx op.slice 0 [(w, 1)]).opFailed op
    | none => s
  else
    let slice := if kind = 1 then ((s.plan ctx).map (·.slice)).getD 0 else ((s.lnt.ctxs.find? fun c => c.num == ctx).map (·.slice)).getD 0
    (s.logHang engine slice 1 ctx 0).resetContext engine kind ctx slice 0 [(w, 1)]

/-- ESCALATE_RESET on a committed block: turned away with its reason, merged into a higher level in progress, or carried out (R400, R405). -/
def cmdEscalate (w : Nat) (s : State) : State :=
  let w1 := s.arg w 1
  let level := bitsOf w1 0 3
  let engine := bitsOf w1 8 8
  let slice := bitsOf w1 16 8
  let ctx := (s.arg w 2).toNat
  let r := s.escalateRule w1 ctx
  if r ≠ 0 then s.complete w 0x0D r [fieldAt 8 8 r] false
  else if level ≤ 3 then
    match s.rst.part with
    | some p =>
      if ¬ p.deferred then s.onRst fun x => { x with part := some { p with wins := p.wins ++ [(w, level)] } }
      else if level = 1 ∧ (s.engine engine).inReset = 0 then s.hostContextReset w engine (bitsOf w1 4 2) ctx
      else if level = 1 then s.onEngine engine fun e => { e with wins := e.wins ++ [(w, 1)] }
      else if level = 2 then s.resetEngine engine 2 0 0 0 [(w, 2)]
      else s.resetSlice engine slice 0 0 [(w, 3)]
    | none =>
      if level = 1 ∧ (s.engine engine).inReset = 0 then s.hostContextReset w engine (bitsOf w1 4 2) ctx
      else if level = 1 then s.onEngine engine fun e => { e with wins := e.wins ++ [(w, 1)] }
      else if level = 2 then s.resetEngine engine 2 0 0 0 [(w, 2)]
      else (s.raise Fld.RST_INT_STATUS_ESCALATED).resetSlice engine slice 0 0 [(w, 3)]
  else s.decidePart level 0 0x0E 0 (bitAt w1 3) [(w, level)]

/-- ESCALATE_RESET (R405, R476). -/
def execEscalateReset (c : HostCmd) (s : State) : Host.Outcome State Fault Refusal := .next (s.issue c 0x0D cmdEscalate)

/-! ### Samples and the log copy (R404, R406, R428 to R431, R494) -/

/-- SAMPLE_ROOM_TIMEOUT: the sample that waits is dropped whole (R406). -/
def execSampleRoomTimeout (s : State) : Host.Outcome State Fault Refusal :=
  match s.rst.samples with
  | [] => .next s
  | _ :: rest =>
    let s := (s.onRst fun r => { r with samples := rest }).count Fld.RST_SAMPLES_DROPPED 1
    .next (State.stageSamples rest.length (s.raise Fld.RST_INT_STATUS_SAMPLE_DROP))

/-- LOG_RING_MOVE: the oldest committed record moves from staging to the ring (R429). -/
def execLogRingMove (s : State) : Host.Outcome State Fault Refusal :=
  if s.log.staging.isEmpty then .next s
  else
    let s := (s.moveOne).progress 0x0C
    .next (State.stageSamples s.rst.samples.length s)

/-- The rails fall: the AON rails alone stay good, LIT is released first, and the power stage stands as given (R494, R501, R502). -/
def State.railsDown (s : State) (stage : PwrStage) : State :=
  let s := if s.lit then s.loseLit s.mor.grant else s
  { s.setReg Reg.PWR_RAILS 1 with pwr := { s.pwr with stage := stage, closing := false, dip := false } }

/-- What follows a log copy, whole or cut short: a level-5 reset goes on by CHIP_RESET; a level-6 one asserts PWR_CYC_REQ, and like a shutdown
powers down until VIN has been removed (R404, R494, R501). -/
def State.afterCopy (s : State) (why : CopyFor) : State :=
  match why with
  | .chipReset => s
  | .powerCycle => (s.setF Fld.MOR_PINS_PWR_CYC 1).railsDown .locked
  | .shutdown => s.railsDown .locked

/-- The NVM blocks of copy area A or B (R416, log entry 49). -/
def copyBlocks (areaB : Bool) : List Nat := (List.range 130).map fun i => (if areaB then 393 else 263) + i

/-- LOG_COPY_DONE: the area is valid and each of its blocks has one more store (R416, R431). -/
def execLogCopyDone (s : State) : Host.Outcome State Fault Refusal :=
  match s.log.copying with
  | none => .next s
  | some (b, why) => .next ((s.endCopy.writeBlocks (copyBlocks b) []).afterCopy why)

/-- LOG_COPY_CUT_SHORT: the area is left invalid, and the always-on domain goes on (R431). -/
def execLogCopyCutShort (s : State) : Host.Outcome State Fault Refusal :=
  match s.log.copying with
  | none => .next s
  | some (b, why) =>
    let cut := fun (a : LogArea) => { a with valid := false, writing := false }
    let s := { s with log := if b then { s.log with areaB := cut s.log.areaB, copying := none } else { s.log with areaA := cut s.log.areaA, copying := none } }
    .next (s.showCopies.afterCopy why)

/-! ### Detection errors (R409, R410, R414, R415) -/

/-- The lit chart is taken again from the NVM copy of LIT_SLOT when its digest is the lit one (R410). -/
def State.litFromNvm (s : State) : Option Chart :=
  let x := s.slot (s.getF Fld.CHT_STATE_LIT_SLOT)
  if x.nvm = .valid then
    match checkImage s.enrolled x.nvmImage (4 * x.nvmImage.length) with
    | .ok c => if c.digest = s.digestAt (Reg.CHT_LIT_DIGEST 0) then some c else none
    | .bad _ _ => none
  else none

/-- Keeper state without another source: level 4, from the partner's image (R397, R410). -/
def State.noSource (s : State) : State :=
  if s.flag Fld.RST_CTRL_ESC_EN then s.decidePart 4 3 0x0E 0 false [] else s

/-- An item that failed its detection code is discarded and taken again from its source (R222, R410). -/
def State.retake (s : State) (item : DetItem) : State :=
  match item with
  | .place ctx launch piece => s.discardPlace ctx launch piece
  | .lanternBuffer ctx launch =>
    { s with lnt := { s.lnt with ctxs := s.lnt.ctxs.map fun (c : LntCtx) =>
        if c.ctx = ctx then { c with bufs := c.bufs.filter fun b => b.launch != launch } else c } }
  | .portBuffer port index => s.onPort port fun p => { p with eg := { p.eg with queue := p.eg.queue.eraseIdx index } }
  | .batch stage => s.onStage stage fun g => { g with closed := g.batch.isEmpty }
  | .agentTable a => (s.plansOf a).foldl (fun s p => s.auditPlan p a) (s.auditAgent a)
  | .shadow n => s.onSlot n fun x => { x with shadow := .refused, chart := none, reason := 0 }
  | .litChart => match s.litFromNvm with
    | some c => { s with chart := { s.chart with lit := some c } }
    | none => s.noSource
  | .graph => s.askGraph
  | .image => if s.lit then s else (s.moorCommitSend (ackWords 3 s.mor.imageFlash) 3).selfStale
  | .warden => s.resetEngine 0x22 2 0 3 0 []
  | .logRecord seq header words =>
    let mark := fun (r : LogRec) =>
      if r.seq ≠ seq then r else if header then { r with badHead := true } else { r with lost := true, bad := r.bad ++ words }
    { s with log := { s.log with staging := s.log.staging.map mark, ring := s.log.ring.map fun (x : Nat × LogRec) => (x.1, mark x.2) } }.raise Fld.LOG_INT_STATUS_LOST
  | .frame coarse slot =>
    { s with tel := if coarse then { s.tel with coarse := eraseNat slot s.tel.coarse } else { s.tel with fine := eraseNat slot s.tel.fine } }
  | .other => s.noSource

/-- A place failed before, after its content had been taken afresh. -/
def State.failedBefore (s : State) (kind place : Nat) : Bool := s.rst.faults.any fun x => x.1 == kind && x.2.1 == place

/-- The faults without those of a place. -/
def State.forget (s : State) (kind place : Nat) : State :=
  s.onRst fun r => { r with faults := r.faults.filter fun x => !(x.1 == kind && x.2.1 == place) }

/-- A unit with a row beyond the spares of its macro is withdrawn; without one its engine stops, and the Warden core is unfit (R415). -/
def State.withdrawRow (s : State) (unit : RowUnit) : State :=
  match unit with
  | .lampStore n => s.onRst fun r => { r with lost := r.lost ++ [(1, n)] }
  | .context n => s.onRst fun r => { r with lost := r.lost ++ [(2, n)] }
  | .tableLine n => s.onRst fun r => { r with lost := r.lost ++ [(3, n)] }
  | .engine id => s.onEngine id fun e => { e with stalled := 2 ^ 32 }
  | .warden => s.setUnfit 1 true

/-- Where the error lay: a row that fails again retires; so does a pseudo-channel with a page that fails again or 16 errors within 1,024 flashes
(R414, R415). -/
def State.judgePlace (s : State) (loc : DetLoc) : State :=
  let now := s.tim.flash
  match loc with
  | .row m r spare unit =>
    let k := m * 65536 + r
    if s.failedBefore 0 k then (if spare then (s.forget 0 k).retireUnit 7 k else (s.forget 0 k).withdrawRow unit)
    else s.onRst fun x => { x with faults := (0, k, now) :: x.faults }
  | .page stack channel page =>
    let ch := stack * 32 + channel
    let k := ch * 2 ^ 20 + page
    let again := s.failedBefore 1 k
    let s := s.onRst fun x => { x with faults := (2, ch, now) :: (1, k, now) :: x.faults.filter fun y => y.1 != 2 || now ≤ y.2.2 + 1024 }
    let many := 16 ≤ (s.rst.faults.filter fun y => y.1 == 2 && y.2.1 == ch).length
    if (again ∨ many) ∧ ¬ (s.rst.channels.any fun x => x.1 == ch) then (s.forget 1 k |>.forget 2 ch).retireUnit 6 ch else s

/-- DETECTION_ERROR: counted by its memory, the item taken again, the place judged (R409 to R415). -/
def execDetectionError (item : DetItem) (loc : DetLoc) (s : State) : Host.Outcome State Fault Refusal :=
  let f := match loc with
    | .row _ _ _ _ => Fld.RST_DETECT_SRAM
    | .page _ _ _ => Fld.RST_DETECT_HBM
  let s := (s.count f 1).raise Fld.RST_INT_STATUS_DETECT
  .next ((s.judgePlace loc).retake item)

/-- PSEUDO_CHANNEL_COPY_DONE: the spare alone serves from now on (R414). -/
def execPseudoChannelCopyDone (channel : Nat) (s : State) : Host.Outcome State Fault Refusal :=
  .next (s.onRst fun r => { r with copies := r.copies.filter fun x => x.1 != channel })

/-! ### Self-tests (R385, R386) -/

/-- The bit of a self-test in MOR_SELFTEST (R386). -/
def selfTestFld (test : Nat) : Fld := { off := Reg.MOR_SELFTEST, lo := test, width := 1 }

/-- A unit that failed a self-test retires, and whether its pool is then short with no spare left (R386). -/
def State.failUnit (s : State) (test unit : Nat) : State × Bool :=
  let out := fun (c : Nat) => decide (reserveTotal c ≤ s.getF (reserveUsed c))
  if test = 0 then (s.retireLamp unit 2, out 3)
  else if test = 1 then (s.retireLane unit, decide (4 ≤ s.slv.spareLanes))
  else if test = 2 then (s, true)
  else if test = 3 then (s.retireUnit 7 unit, out 7)
  else if test = 4 then
    (if unit < 4 then (s.onSlot unit fun x => { x with nvm := .corrupt }).raise Fld.CHT_INT_STATUS_SLOT_CORRUPT else s, false)
  else if test = 5 then (s.retirePilot unit, out 5)
  else
    let s := { s with link := { s.link with positions := modifyAt (fun (p : Position) => { p with quar := true }) unit s.link.positions } }
    (s, s.sparePositions.isEmpty)

/-- SELFTEST_RESULT: a test 0 to 6 of a standby ends, with the units that failed it (R385, R386); throttling suspends the tests (R500). -/
def execSelftestResult (test : Nat) (units : List Nat) (s : State) : Host.Outcome State Fault Refusal :=
  if s.lit ∨ ¬ s.flag Fld.MOR_CTRL_SELFTEST_EN ∨ s.getF Fld.PWR_STATE_LEVEL ≠ 0 ∨ 6 < test then .next s
  else
    let r := units.foldl (fun (r : State × Bool) u => let x := r.1.failUnit test u; (x.1, r.2 || x.2)) (s, false)
    let s := r.1
    let s := if units.isEmpty then s.setF (selfTestFld test) 0 else (s.setF (selfTestFld test) 1).raise Fld.MOR_INT_STATUS_SELFTEST_FAIL
    let s := s.onRst fun x => { x with short := if r.2 then x.short ||| (1 <<< test) else if units.isEmpty then x.short &&& (0x7F - (1 <<< test)) else x.short }
    let s := s.setUnfit 7 (s.rst.short != 0)
    .next (if test = 6 then s.count Fld.MOR_SELFTEST_CYCLES 1 else s)

end Sys2Proof.Machine
end

