-- ==== Sys2Proof/Machine/Host.lean ====
section
/-! DEFINITION. Machine/Host.lean: the host's commands on wake latencies and agents, reserved opcodes, window writes, MSI-X spacing, and the PCIe
function's resets, power states and link (R463 to R482, R496). -/
namespace Sys2Proof.Machine

/-! ### The function's identity (R462) -/

/-- A capability the function implements. -/
inductive PcieCap where
  | pciExpress | powerManagement | msix (vectors : Nat) | advancedErrors | serialNumber (serial : Nat)
deriving DecidableEq, Repr

/-- What the function presents in its configuration space (R462). -/
structure PcieId where
  vendor    : Nat
  device    : Nat
  revision  : Nat
  classCode : Nat
  subVendor : Nat
  subDevice : Nat
  caps      : List PcieCap
deriving DecidableEq, Repr

/-- The identity of this unit's function, by its fuses and its role (R335, R462). -/
def State.pcieId (s : State) : PcieId :=
  { vendor := 0x1F3D, device := 0x4B32, revision := s.getF Fld.WDN_FUSE_DIE_REV, classCode := 0x088000, subVendor := 0x1F3D, subDevice := 1 + s.role,
    caps := [.pciExpress, .powerManagement, .msix 64, .advancedErrors, .serialNumber (s.getPair Reg.WDN_SERIAL_LO)] }

/-! ### Commands (R471, R480 to R482) -/

/-- SET_WAKE_LATENCY in a window: LIT and the arguments; DSC takes it at its next intake (R22, R364, R480). -/
def cmdSetWakeLatency (w : Nat) (s : State) : State :=
  let id := (s.arg w 1).toNat
  let ns := (s.arg w 2).toNat
  if ¬ s.lit then s.refuse w 3 0
  else if id = 0 ∨ 255 < id ∨ s.sliceState id = 0 ∨ ¬ s.touches id s.myRack then s.refuse w 2 1
  else if 10000000 < ns then s.refuse w 2 2
  else s.stageInput .dsc (.wake w id ns)

/-- The wake latency of a slice is stated; a Pilot core is asked for the depth (R116, R480). -/
def State.takeWakeLatency (s : State) (w id ns : Nat) : State :=
  if ¬ s.touches id s.myRack then s.refuse w 2 1
  else
    let old := match lookupNat id s.link.wake with
      | some n => w32 n
      | none => 0xFFFFFFFF
    let s := { s with link := { s.link with wake := insertNat id ns s.link.wake, parkAt := eraseNat id s.link.parkAt } }
    (s.askProposal .dsc 3 id (depthFor ns)).completeAfter w s.tim.flash 256 [fieldAt 0 2 (depthFor ns), old]

/-- SET_WAKE_LATENCY (R480). -/
def execSetWakeLatency (c : HostCmd) (s : State) : Host.Outcome State Fault Refusal := .next (s.issue c 0x0C cmdSetWakeLatency)

/-- Whether a coordinate address names a switch or an endpoint of the lit chart (R47, R481). -/
def State.isAgent (s : State) (a : Addr) : Bool :=
  match s.chart.lit with
  | none => false
  | some c =>
    if decide (c.install.sx ≤ addrX a) || decide (c.install.sy ≤ addrY a) then false
    else if addrKind a = 1 then decide (addrIndex a < 16)
    else if addrKind a = 0 then (match s.rackRec (s.rackNo (addrX a) (addrY a)) with
      | some r => decide (addrIndex a < 128) && r.epPresent.testBit (addrIndex a)
      | none => false)
    else false

/-- AGENT_READ (R481): one MGMT_READ; the reply is written to the host. -/
def cmdAgentRead (w : Nat) (s : State) : State :=
  let a : Addr := (s.arg w 1).extractLsb' 0 16
  let n := (s.arg w 3).toNat
  if ¬ s.lit then s.refuse w 3 0
  else if ¬ s.isAgent a then s.refuse w 2 1
  else if (s.arg w 2).toNat % 4 ≠ 0 then s.refuse w 2 2
  else if n = 0 ∨ 1020 < n then s.refuse w 2 3
  else if (s.arg w 4).toNat % 64 ≠ 0 then s.refuse w 2 4
  else if (s.arg w 6).toNat < 4 * n then s.refuse w 2 6
  else s.mgmtRead a (s.arg w 2).toNat n 0x01 (.hostRead w ((s.arg w 5) ++ (s.arg w 4)))

/-- AGENT_READ (R481). -/
def execAgentRead (c : HostCmd) (s : State) : Host.Outcome State Fault Refusal := .next (s.issue c 0x0E cmdAgentRead)

/-- The port whose record's word 0 lies at an address of an agent (R440, R482). -/
def portRecord (a : Addr) (addr : Nat) : Option Nat :=
  let n := (addr - 0x1000) / 0x20
  if 0x1000 ≤ addr ∧ (addr - 0x1000) % 0x20 = 0 ∧ n < (if addrKind a = 1 then 134 else 16) then some n else none

/-- AGENT_WRITE (R482): FA_CHECK_CTRL as it stands; of a port record only HOLD, beside the PARK_MAX the Keeper maintains; a reserved HOLD is for the
agent to refuse. -/
def cmdAgentWrite (w : Nat) (s : State) : State :=
  let a : Addr := (s.arg w 1).extractLsb' 0 16
  let addr := (s.arg w 2).toNat
  let data := s.arg w 4
  if ¬ s.lit then s.refuse w 3 0
  else if ¬ s.isAgent a ∨ addrX a ≠ s.rx ∨ addrY a ≠ s.ry then s.refuse w 2 1
  else if addr = 0x80 then s.mgmtWrite a 0x80 [data] 11 0 0x01 (.hostWrite w)
  else match portRecord a addr with
    | none => s.refuse w 2 2
    | some n =>
      let h := bitsOf data 8 2
      let r := { s.nbr a n with hold := h, hostHold := h != 0 }
      let s := (if h = 3 then s else s.setNbr r).mgmtWrite a addr [r.word] 11 0 0x01 (.hostWrite w)
      if h = 0 ∧ ¬ s.link.nbrs.any fun x => x.agent == a && x.hold != 0 then s.countIn a else s

/-- AGENT_WRITE (R482). -/
def execAgentWrite (c : HostCmd) (s : State) : Host.Outcome State Fault Refusal := .next (s.issue c 0x0F cmdAgentWrite)

/-- A reserved opcode completes with BAD_OPCODE (R471). -/
def cmdReserved (w : Nat) (s : State) : State := s.refuse w 1 0

/-- The command an opcode names (R476). -/
def runOpcode (opcode : Nat) : Nat → State → State :=
  match opcode with
  | 0x01 => cmdLoadChart
  | 0x02 => cmdLightChart
  | 0x03 => cmdStore
  | 0x04 => cmdSliceFetch false
  | 0x05 => cmdSliceFetch true
  | 0x06 => cmdSliceOp 3
  | 0x07 => cmdSliceOp 4
  | 0x08 => cmdPlanCollective
  | 0x09 => cmdAbortCollective
  | 0x0A => cmdAttest
  | 0x0B => cmdIssueSeal
  | 0x0C => cmdSetWakeLatency
  | 0x0D => cmdEscalate
  | 0x0E => cmdAgentRead
  | 0x0F => cmdAgentWrite
  | 0x10 => cmdReadLoadmap
  | _ => cmdReserved

/-- RESERVED_OPCODE: opcode 0x00 and opcodes 0x11 to 0xFF (R471, R476). An opcode that names a command runs that command. -/
def execReservedOpcode (opcode : Byte) (c : HostCmd) (s : State) : Host.Outcome State Fault Refusal :=
  .next (s.issue c opcode.toNat (runOpcode opcode.toNat))

/-! ### Window writes (R467, R468) -/

/-- A 32-bit write of BAR2: WIN_SEQ, a word of the command block, or a place that takes no write. -/
def State.writeWindow (s : State) (off : Nat) (v : Word) : State :=
  let w := off / 0x1000
  let o := off % 0x1000
  if 16 ≤ w then s
  else if o = 0 then
    let seq : BitVec 16 := v.extractLsb' 0 16
    if s.commits w seq then runOpcode (bitsOf (wordAt (s.window w).block 0) 0 8) w (s.commit w seq) else s.writeSeqIdle w
  else if 0x40 ≤ o ∧ o ≤ 0xBC then s.writeCmdWord w ((o - 0x40) / 4) v
  else s

/-- COMMAND_WINDOW_WRITE: a host write of BAR2; a narrow or unaligned one is ignored and recorded; a 64-bit one is taken as its two words, the lower
offset first (R9, R464, R468). -/
def execCommandWindowWrite (off bytes : Nat) (value : BitVec 64) (s : State) : Host.Outcome State Fault Refusal :=
  .next (
    if ¬ s.hostReaches then s
    else if ¬ writeAligned off bytes then s.recordErr Fld.HIF_ERR_STATUS_ACCESS 1 off
    else
      let s := s.writeWindow off (value.extractLsb' 0 32)
      if bytes = 8 then s.writeWindow (off + 4) (value.extractLsb' 32 32) else s)

/-! ### MSI-X (R465, R473) -/

/-- MSIX_SPACING_EXPIRY: 1 µs after a vector's message a message due meanwhile is sent, for a block vector while it is still asserted (R473). -/
def execMsixSpacingExpiry (vector : Nat) (s : State) : Host.Outcome State Fault Refusal :=
  let e := s.vec vector
  let s := s.onVec vector fun e => { e with spacing := false, due := false }
  .next (if e.due ∧ (vector < 16 ∨ s.asserted vector) then s.signal vector else s)

/-- D3HOT_ENTRY: memory space is disabled and messages are held; everything else goes on (R465). -/
def execD3hotEntry (s : State) : Host.Outcome State Fault Refusal := .next { s with hif := { s.hif with d3hot := true } }

/-- D0_RETURN: the messages owed are sent (R465). -/
def execD0Return (s : State) : Host.Outcome State Fault Refusal :=
  let owed := s.hif.owed
  .next (owed.foldl (fun s v => s.signal v) { s with hif := { s.hif with d3hot := false, owed := [] } })

/-! ### Function Level Reset, PERST_N and the link (R463, R466, R496) -/

/-- Pairs of a window and a sequence number, made to name no window. -/
def noWindows (l : List (Nat × Nat)) : List (Nat × Nat) := l.map fun (x : Nat × Nat) => (16, x.2)

/-- The references of the host interface's own waits and transfers. -/
def Hif.detach (h : Hif) : Hif := { h with dma := h.dma.map fun (d : Dma) => { d with win := 16 }, waits := [] }

/-- The references of the chart slots, of the arming and of the NVM stores. -/
def ChartState.detach (c : ChartState) : ChartState :=
  { c with
    slots := c.slots.map fun (x : Slot) => { x with loadWin := 16 }
    arm := c.arm.map fun (a : Arming) => { a with win := 16 }
    held := noWindows c.held
    store := c.store.map fun (j : StoreJob) => { j with win := 16 }
    storeQueue := c.storeQueue.map fun (j : StoreJob) => { j with win := 16 } }

/-- The reference of a management request. -/
def MgmtOp.detach (o : MgmtOp) : MgmtOp :=
  match o.purpose with
  | .hostRead _ a => { o with purpose := .hostRead 16 a }
  | .hostWrite _ => { o with purpose := .hostWrite 16 }
  | _ => o

/-- The reference of a job of the Warden core. -/
def SignJob.detach (j : SignJob) : SignJob :=
  match j.what with
  | .report _ => { j with what := .report 16 }
  | _ => j

/-- The references of the Warden core's queue. -/
def WdnState.detach (w : WdnState) : WdnState :=
  { w with
    queue := w.queue.map SignJob.detach
    signing := w.signing.map SignJob.detach
    signed := w.signed.map SignJob.detach
    waits := w.waits.map fun (x : SealWait) => { x with win := 16 } }

/-- The references of hung engines, of context resets and of a reset that waits. -/
def RstState.detach (r : RstState) : RstState :=
  { r with
    engines := r.engines.map fun (e : Engine) => { e with wins := noWindows e.wins }
    part := r.part.map fun (p : PartReset) => { p with wins := noWindows p.wins }
    ctxs := r.ctxs.map fun (c : CtxReset) => { c with wins := noWindows c.wins }
    fitWins := noWindows r.fitWins }

/-- Every reference of an owner to a window is made to name none: commands passed to their owners run to their end, and their results are
discarded (R466). -/
def State.detachWindows (s : State) : State :=
  { s with
    hif := s.hif.detach, work := s.work.detach, chart := s.chart.detach, wdn := s.wdn.detach, rst := s.rst.detach
    slc := { s.slc with issued := s.slc.issued.map fun (i : SliceIssued) => { i with win := 16 } }
    clp := { s.clp with issued := s.clp.issued.map fun (i : PlanIssued) => { i with win := 16 } }
    mgmt := { s.mgmt with ops := s.mgmt.ops.map MgmtOp.detach } }

/-- Every window IDLE with LAST_SEQ 0, MSI-X at its PCIe reset values (R466). -/
def Hif.functionReset (h : Hif) : Hif :=
  { h with windows := h.windows.map fun (x : Window) => { x with st := .idle, lastSeq := 0 }, vecs := List.replicate 64 Vec.reset, owed := [] }

/-- The effects of R466: every window IDLE with LAST_SEQ 0, MSI-X at its PCIe reset values, HIF reset at level 2. -/
def State.functionReset (s : State) : State :=
  let s := s.detachWindows
  let s := { s with hif := s.hif.functionReset }
  s.resetEngine 0x01 2 0 0 0 []

/-- FUNCTION_LEVEL_RESET (R466). -/
def execFunctionLevelReset (s : State) : Host.Outcome State Fault Refusal := .next s.functionReset

/-- PERST_ASSERT: the PCIe interface is held in reset with the effects of R466 (R496). -/
def execPerstAssert (s : State) : Host.Outcome State Fault Refusal :=
  let s := s.functionReset
  .next { s with hif := { s.hif with perst := true, linkUp := false, d3hot := false } }

/-- PCIE_LINK_TRAINED: HIF_LINK shows the rate, coded as PCIe codes it and at most what MAX_SPEED allows, and the width; SLOW below 16 GT/s or x4
(R463, R479, R485). -/
def execPcieLinkTrained (offered width : Nat) (s : State) : Host.Outcome State Fault Refusal :=
  let rate := min offered (6 - s.getF Fld.HIF_CTRL_MAX_SPEED)
  let old := s.getReg Reg.HIF_LINK
  let s := ((s.setF Fld.HIF_LINK_SPEED rate).setF Fld.HIF_LINK_WIDTH width).setF Fld.HIF_LINK_SLOW (b2n (decide (rate < 4 ∨ width < 4)))
  let s := { s with hif := { s.hif with perst := false, linkUp := true, trained := some (rate, width) } }
  .next (s.raiseIf (s.getReg Reg.HIF_LINK != old) Fld.HIF_INT_STATUS_LINK)

end Sys2Proof.Machine
end

