-- ==== Sys2Proof/Machine/Batch.lean ====
section
/-! DEFINITION. Machine/Batch.lean: the batches of the flash stages: what a stage does with its inputs at the intake, and what its batch publishes at
the boundary after its close point (R18, R22 to R24, log entry 10). -/
namespace Sys2Proof.Machine

/-- A stage takes an input into its batch (R22). -/
def State.takeJob (s : State) (stamp : Nat) (j : Job) : State :=
  match j with
  | .acted => s
  | .checked _ => s
  | .judged _ => s
  | .answer n => s.takeHeld n
  | .light w slot => s.lightCommand w slot
  | .wake w slice ns => s.takeWakeLatency w slice ns
  | .message src m =>
    if m.mtype = 0x20 then s.gotSliceReq stamp src m
    else if m.mtype = 0x30 then s.gotPlanReq stamp src m
    else if m.mtype = 0x32 then s.gotPlanOffer src m
    else if m.mtype = 0x33 then s.gotPlanCommit src m
    else if m.mtype = 0x34 then s.gotPlanReady src m
    else s

/-- A batch publishes what it did with an input (R23). -/
def State.publishJob (s : State) (j : Job) : State :=
  match j with
  | .acted => s
  | .light _ _ => s
  | .wake _ _ _ => s
  | .checked slot => s.publishCheck slot
  | .judged v => s.publishVerdict v
  | .answer n => s.publishAnswer n
  | .message src m => if m.mtype = 0x31 then s.gotPlanOrder src m else s

/-- A stage's record. -/
def State.stageOf (s : State) (id : StageId) : Stage := (s.work.stages.find? fun g => g.id == id).getD (Stage.empty id)

/-- A stage publishes its batch: every result of it in one step (R23); the head's requests and admissions go on (R162, R185, R186). -/
def State.publishBatch (s : State) (id : StageId) : State :=
  let jobs := (s.stageOf id).batch
  let s := s.onStage id fun g => { g with batch := [] }
  let s := jobs.foldl (fun s j => s.publishJob j.2) s
  match id with
  | .wdn => s.admitNext true 64
  | .clp => if s.isHead then s.settlePlans.admitPlans 64 else s
  | _ => s

/-- A stage takes the inputs that wait as its next batch (R22). -/
def State.takeBatch (s : State) (id : StageId) : State :=
  let jobs := (s.stageOf id).waiting
  let s := s.onStage id fun g => { g with batch := jobs, waiting := [], closed := false }
  let s := jobs.foldl (fun s j => s.takeJob j.1 j.2) s
  match id with
  | .wdn => s.admitNext false 64
  | _ => s

end Sys2Proof.Machine
end

