-- ==== Sys2Proof/Machine/Power.lean ====
section
/-! DEFINITION. Machine/Power.lean: the commands of power, cooling and the reference clock (19_physical.md, R365). -/
namespace Sys2Proof.Machine

/-- The power record, changed. -/
def State.onPwr (s : State) (f : PwrState → PwrState) : State := { s with pwr := f s.pwr }

/-! ### Rails (R490, R491, R493, R494) -/

/-- Rails 1 to 8 of the sequence of R493 before VOPT_L: their bits in PWR_RAILS, AON first. -/
def railBits : Nat := 0xFF

/-- The rails come up; one that fails to reach tolerance brings down those already up, for one retry or for good (R493). With all of them up the
main die leaves reset as after a level-6 reset, the always-on record of the last shutdown cleared (R403, R432, R493). -/
def State.railsUp (s : State) (fail : Option Nat) (last : Bool) : State :=
  match fail with
  | some _ => (s.setReg Reg.PWR_RAILS 1).onPwr fun p => { p with stage := if last then .locked else .retry }
  | none =>
    let s := ((s.setReg Reg.PWR_RAILS (w32 railBits)).setReg Reg.PWR_STATE 0).onPwr fun _ => PwrState.reset
    s.restartChip 6 0

/-- POWER_UP: VIN has stood at 54 V for 1 ms: the always-on domain latches its straps, and the rails come up in sequence (R490, R493). -/
def execPowerUp (role x y : Nat) (fail : Option Nat) (s : State) : Host.Outcome State Fault Refusal :=
  if s.pwr.stage = .off then
    let s := ((s.setF Fld.PWR_STRAPS_ROLE role).setF Fld.PWR_STRAPS_POS_X x).setF Fld.PWR_STRAPS_POS_Y y
    .next (s.railsUp fail false)
  else .next s

/-- RAIL_FAIL_RETRY: the one retry, 100 ms after a rail failed; after that the stage stays off until VIN is removed (R493). -/
def execRailFailRetry (fail : Option Nat) (s : State) : Host.Outcome State Fault Refusal :=
  if s.pwr.stage = .retry then .next (s.railsUp fail true) else .next s

/-- VIN_DIP: VIN between 48 V and 54 V raises VIN_LOW (R491). -/
def execVinDip (s : State) : Host.Outcome State Fault Refusal :=
  if s.pwr.stage = .on then .next ((s.raise Fld.PWR_INT_STATUS_VIN_LOW).onPwr fun p => { p with dip := true }) else .next s

/-- VIN_LOSS: VIN below 48 V drops every rail, the LIT driver releases, and no copy is made; a stage held off is free to start again (R491, R501). -/
def execVinLoss (s : State) : Host.Outcome State Fault Refusal :=
  let cut := fun (a : LogArea) => if a.writing then { a with valid := false, writing := false } else a
  let s := { s with log := { s.log with copying := none, areaA := cut s.log.areaA, areaB := cut s.log.areaB } }
  .next (((s.railsDown .off).setReg Reg.PWR_RAILS 0).setF Fld.MOR_PINS_PWR_CYC 0)

/-! ### Shutdown and trip (R501, R502) -/

/-- SHUTDOWN_LIMIT: 1 a junction at 105 °C, 2 PWR_WARN_N, 3 a dip over 10 ms: POWER unfit, the wait for LIT, then the copy (R501). -/
def execShutdownLimit (cause : Nat) (s : State) : Host.Outcome State Fault Refusal :=
  if s.pwr.stage ≠ .on ∨ s.pwr.closing ∨ cause = 0 ∨ 3 < cause ∨ (cause = 3 ∧ ¬ s.pwr.dip) then .next s
  else
    let s := ((s.setF Fld.PWR_STATE_SHUT_CAUSE cause).setUnfit 4 true).onPwr fun p => { p with closing := true }
    .next (if s.lit then s else s.startCopy .shutdown)

/-- SHUTDOWN_RELEASE_TIMEOUT: 10 ms have passed, and the Keeper releases LIT itself (R501). -/
def execShutdownReleaseTimeout (s : State) : Host.Outcome State Fault Refusal :=
  if s.pwr.closing ∧ s.lit then .next ((s.loseLit s.mor.grant).startCopy .shutdown) else .next s

/-- GRANT_WITHDRAW: the driver releases LIT_N; a holder loses LIT, and a shutdown that waited for it makes its copy (R363, R365, R501). -/
def execGrantWithdraw (s : State) : Host.Outcome State Fault Refusal :=
  let s := (s.setF Fld.MOR_STATE_GRANT 0).setF Fld.MOR_PINS_GRANT 0
  if s.lit then
    let s := s.loseLit false
    .next (if s.pwr.closing ∧ s.log.copying.isNone then s.startCopy .shutdown else s)
  else .next (s.onMor fun m => { m with grant := false })

/-- THERMAL_TRIP: a sensor at 112 °C drops every rail but AON at once and releases LIT; no copy is made, TRIPPED is held (R502). -/
def execThermalTrip (s : State) : Host.Outcome State Fault Refusal :=
  if s.pwr.stage = .off then .next s
  else
    let cut := fun (a : LogArea) => if a.writing then { a with valid := false, writing := false } else a
    let s := { s with log := { s.log with copying := none, areaA := cut s.log.areaA, areaB := cut s.log.areaB } }
    .next ((s.railsDown .locked).setF Fld.PWR_STATE_TRIPPED 1)

/-! ### Throttling and the reference (R500, R507) -/

/-- THROTTLE_STEP: up by 1 when THROTTLE_EN is 1, the throttle condition has held at every boundary of 10 ms and the level has stood for 10 ms;
down by 1 when it has been clear for 100 ms (R500). -/
def execThrottleStep (s : State) : Host.Outcome State Fault Refusal :=
  let level := s.getF Fld.PWR_STATE_LEVEL
  if level < 2 ∧ s.flag Fld.PWR_CTRL_THROTTLE_EN ∧ 10000 ≤ s.pwr.hot ∧ 10000 ≤ s.pwr.stood then
    .next (((s.setF Fld.PWR_STATE_LEVEL (level + 1)).raise Fld.PWR_INT_STATUS_THROTTLE).onPwr fun p => { p with stood := 0 })
  else if 0 < level ∧ 100000 ≤ s.pwr.cool then
    .next ((s.setF Fld.PWR_STATE_LEVEL (level - 1)).onPwr fun p => { p with stood := 0 })
  else .next s

/-- FREF_LOSS: with REF_AUTO 1 the clocks move to the internal oscillator; REF_LOST is raised (R507). -/
def execFrefLoss (s : State) : Host.Outcome State Fault Refusal :=
  let s := if s.flag Fld.PWR_CTRL_REF_AUTO then s.setF Fld.PWR_STATE_REF 1 else s
  .next (s.raise Fld.PWR_INT_STATUS_REF_LOST)

/-- FREF_RESTORE: FREF valid for 10 ms: the clocks move back, and REF_BACK is raised (R507). -/
def execFrefRestore (s : State) : Host.Outcome State Fault Refusal :=
  .next (if s.getF Fld.PWR_STATE_REF = 1 then (s.setF Fld.PWR_STATE_REF 0).raise Fld.PWR_INT_STATUS_REF_BACK else s)

end Sys2Proof.Machine
end

