-- ==== Sys2Proof/Machine/Flash.lean ====
section
/-! DEFINITION. Machine/Flash.lean: the flash boundary: what the flash stages publish and take, what the boundary judges and counts, what is sent
again each flash (R22 to R25). -/
namespace Sys2Proof.Machine

/-! ### Flash stages (R22 to R24) -/

/-- A stage's engine makes no progress: it is under reset, or RST_TEST holds it (R392, R418). -/
def State.stopped (s : State) (id : StageId) : Bool :=
  let e := s.engine (stageEngine id)
  e.inReset != 0 || e.stalled != 0

/-- A stage has a batch in progress: inputs it took, a solve that runs over many flashes, a frame being made (R22, R25). -/
def State.batching (s : State) (g : Stage) : Bool :=
  !g.batch.isEmpty || (g.id == .slv && s.slv.cycle.phase == .solving) || (g.id == .tel && s.tel.making.isSome)

/-- A stage that has not closed its batch, or cannot, publishes nothing at this boundary and takes nothing (R24). -/
def State.lateStage (s : State) (g : Stage) : Bool := s.stopped g.id || (s.batching g && !g.closed)

/-- What the boundary counts of a stage: late, the boundary; else its batch, which moves PROGRESS when there was one (R24, R393; that a late boundary
leaves PROGRESS as it is follows R394, log entry 59); late boundaries in a row are what R394 judges a stage by. -/
def State.countStage (s : State) (id : StageId) (late busy : Bool) : State :=
  if ¬ busy then s.onStage id fun x => { x with run := 0 }
  else if late then s.onStage id fun x => { x with late := x.late + 1, run := x.run + 1 }
  else (s.onStage id fun x => { x with published := x.published + 1, run := 0 }).progress (stageEngine id)

/-- The stages in the order in which the model publishes and takes their batches (log entry 10). -/
def stageOrder : List StageId := [.dsc, .slv, .wdn, .cht, .clp, .tim, .tel, .mor, .rst]

/-- The boundary of the flash stages: those that are not late publish their batches, then each takes its next (R22 to R24). -/
def State.turnBatches (s : State) (late : StageId → Bool) : State :=
  let go := stageOrder.filter fun id => !late id
  let s := go.foldl State.publishBatch s
  go.foldl State.takeBatch s

/-! ### Before the count moves: the flash that ends -/

/-- The 16 junction sensors' hottest and its number, the lower one on a tie. -/
def hottest (ts : List Nat) : Nat × Nat :=
  ts.zipIdx.foldl (fun (acc : Nat × Nat) x => if acc.1 < x.1 then x else acc) (ts.headD 0, 0)

/-- The readings of PWR: registers, WARN and POWER_CAP, how long the conditions of R500 have held, and the end of a dip (R491, R499,
R500, R509). -/
def State.senseSensors (s : State) (m : FlashMeas) : State :=
  let tj := hottest m.temps
  let p := s.tim.periodUs
  let s := (s.setF Fld.PWR_INPUT_VIN (min 16383 m.vin)).setF Fld.PWR_INPUT_IIN (min 65535 m.iin)
  let s := (s.setF Fld.PWR_POWER_NOW (min 1023 m.watts)).setF Fld.PWR_POWER_PEAK (max (s.getF Fld.PWR_POWER_PEAK) (min 1023 m.watts))
  let s := ((s.setF Fld.PWR_TEMP_TJ_MAX (min 255 tj.1)).setF Fld.PWR_TEMP_SENSOR tj.2).setF Fld.PWR_TEMP_PLATE (min 255 m.plate)
  let s := s.setReg Reg.PWR_ENERGY (s.getReg Reg.PWR_ENERGY + w32 m.joules)
  let cap := s.getF Fld.PWR_CTRL_POWER_CAP_W
  let limit := s.getF Fld.PWR_TLIMIT_TJ_THROTTLE
  let s := (s.raiseIf (decide (s.getF Fld.PWR_TLIMIT_TJ_WARN ≤ tj.1)) Fld.PWR_INT_STATUS_WARN).raiseIf (decide (cap < m.watts)) Fld.PWR_INT_STATUS_POWER_CAP
  let s := if s.getF Fld.PWR_STATE_LEVEL = 0 then s else s.countReg Reg.PWR_THROTTLED 1
  s.onPwr fun w => { w with
    hot := if limit ≤ tj.1 ∨ cap < m.watts then w.hot + p else 0
    dip := w.dip && decide (m.vin < 5400)
    cool := if tj.1 + 5 ≤ limit ∧ m.watts + 20 ≤ cap then w.cool + p else 0
    stood := w.stood + p }

/-- The last-flash registers of the Lamp array and the Lantern (R221, R245, R262). -/
def State.showFlashCounts (s : State) : State :=
  let s := (s.setReg Reg.LMP_SPILL_FLASH (w32 s.lmp.spillUnits)).setF Fld.LMP_UNITS_COUNT (min (2 ^ 24 - 1) s.lmp.unitCount)
  let s := if s.lmp.spillHeld ∨ s.spillCap ≤ s.lmp.spillUnits then (s.countReg Reg.LMP_SPILL_SATS 1).raise Fld.LMP_INT_STATUS_SPILL_SAT else s
  let s := s.setF Fld.LNT_LAT_MAX_NS (min 65535 s.lnt.latMax)
  { s with lmp := { s.lmp with spillUnits := 0, unitCount := 0, spillHeld := false }, lnt := { s.lnt with latMax := 0 } }

/-- The lanes a port's end holds failed at the boundary: weak in WEAK_FLASHES flashes in a row, or with UNCOR_LIMIT uncorrectable codewords in the
flash (R108). -/
def State.lanesToFail (s : State) (p : Port) : Nat :=
  maskOf ((bitIndices p.active 9).filter fun l =>
    decide (s.getF Fld.DSC_HEALTH_WEAK_FLASHES ≤ p.weak.getD l 0) || decide (s.getF Fld.DSC_HEALTH_UNCOR_LIMIT ≤ p.uncor.getD l 0))

/-- The lane with the most corrected symbols, the lowest of them (R121). -/
def worstLane (cor : List Nat) : Nat :=
  (List.range 9).foldl (fun w l => if cor.getD w 0 < cor.getD l 0 then l else w) 0

/-- What a port measured enters its counts: per lane the flashes in a row above 10^-COR_EXP, the uncorrectable codewords, of which a packet in error
shows at least one (log entry 104), the corrected symbols, the load (R108, R117, R121). -/
def State.measurePort (s : State) (x : PortMeas) (n : Nat) : State :=
  let weak := fun (l : Nat) => decide (x.symbols < x.cor.getD l 0 * 10 ^ s.getF Fld.DSC_HEALTH_COR_EXP)
  s.onPort n fun p => { p with
    weak := p.weak.zipIdx.map fun w => if weak w.2 ∧ p.active.testBit w.2 then w.1 + 1 else 0
    uncor := p.uncor.zipIdx.map fun u => max u.1 (x.uncor.getD u.2 0)
    fecCount := min (2 ^ 24 - 1) (x.cor.take 9).sum, fecWorst := worstLane x.cor
    load := p.sent.headD 0 }

/-- Lanes parked under a low load return when the load is no longer low (R117, log entry 105). -/
def State.unparkLanes (s : State) (n : Nat) : State :=
  let p := s.port n
  if p.st = .lit ∧ p.parked &&& p.active ≠ 0 ∧ ¬ s.lowLoad n p.serving then
    (s.fillBuckets n).onPort n fun p => { p with parked := maskMinus p.parked p.active }
  else s

/-- One port at the boundary: lane health, beacon loss, idleness, the last-flash counts, a resync that fell due (R95, R102, R108, R114, R117,
R121, R316). -/
def State.endPort (s : State) (m : FlashMeas) (n : Nat) : State :=
  let x := (m.ports.find? fun x => x.port == n).getD { port := n, capacity := 0, stall := 0, symbols := 0, cor := [], uncor := [] }
  let s := (s.measurePort x n).onPort n fun p => { p with
    missing := if (p.st = .lit ∨ p.st = .held) ∧ n < 20 then (if p.heard then 0 else p.missing + 1) else 0
    idle := if p.busy then 0 else p.idle + 1 }
  let bad := s.lanesToFail (s.port n)
  let due := (s.port n).resyncDue
  let s := s.onPort n fun p => { p with
    heard := false, busy := false, tagFails := 0, resyncDue := false, sent := [0, 0, 0, 0], discards := 0
    uncor := List.replicate 9 0, weak := p.weak.zipIdx.map fun w => if bad.testBit w.2 then 0 else w.1 }
  let s := (if bad = 0 then s else s.failLanes n bad).unparkLanes n
  if due ∧ ((s.port n).st = .lit ∨ (s.port n).st = .held) then s.resync n else s

/-- Every port, and the flashes of a fabric test: left once the far end agrees, waited for its agreement before (R119). -/
def State.endPorts (s : State) (m : FlashMeas) : State :=
  let s := (List.range 21).foldl (fun s n => s.endPort m n) s
  let tick := fun (t : FabTest) => if t.agreed then { t with left := t.left - 1 } else { t with waited := t.waited + 1 }
  ({ s with link := { s.link with test := s.link.test.map tick } }).judgePorts

/-- The engines: boundaries since PROGRESS moved, boundaries RST_TEST still holds one, and those since the last module resets (R394, R397, R418). -/
def State.endEngines (s : State) : State :=
  s.onRst fun r => { r with
    engines := r.engines.map fun (e : Engine) =>
      { e with still := if e.inReset = 0 ∧ e.progress = e.last then e.still + 1 else 0, last := e.progress, stalled := e.stalled - 1 }
    sincePart := r.sincePart.map (· + 1), sinceChip := r.sinceChip.map (· + 1) }

/-- A unit that became fit answers the level-4 requests that waited for it (R405). -/
def State.answerFit (s : State) : State :=
  if s.getF Fld.MOR_STATE_FIT = 1 ∧ ¬ s.rst.fitWins.isEmpty then
    (s.onRst fun r => { r with fitWins := [] }).answerReset 4 s.rst.fitFlash s.rst.fitWins
  else s

/-! ### The stages' work in the flash that opens -/

/-- The Chart engine: an announcement confirmed or made, arming, commands held for a lighting (R85, R86, R89). -/
def State.chtBoundary (s : State) : State := s.confirmChart.completeArming.runHeld.announceChart.judgeMismatch

/-- The Route Solver: a solve flash ends, an epoch is taken or published, a bank announced or confirmed (R129, R136, R140, R142, R158). -/
def State.slvBoundary (s : State) : State :=
  let s := { s with slc := { s.slc with solving := s.slc.solving.map fun (x : SliceReq × Layout × Nat) => (x.1, x.2.1, x.2.2 - 1) } }
  s.solveTick.takeEpoch.publishEpoch.announceBank.confirmHead

/-- The planner: releases that can go on; flashes without a completed piece (R210, R276). -/
def State.clpBoundary (s : State) : State :=
  let s := s.onClp fun c => { c with plans := c.plans.map fun (p : Plan) => if p.st = 3 then { p with quiet := p.quiet + 1 } else p }
  s.clp.plans.foldl (fun s p => s.tryRelease p.ctx) s

/-- Discovery: the rack record, the overlay, depths and Lantern planes that changed (R45, R107, R116, R248). -/
def State.dscBoundary (s : State) : State := s.publishRack.overlayCheck.writeParkMax.writeLanternPlanes

/-- A boundary F that passes without CONFIRM makes an armed Keeper late: its agents, armed and without GO, hold D (R140, R144, R152). -/
def State.judgeLate (s : State) : State :=
  let c := s.slv.cycle
  if c.phase = .armed ∧ c.f ≠ 0 ∧ c.f ≤ s.tim.flash ∧ ¬ c.late then
    let s := { s with slv := { s.slv with holds := s.bankAgents.filter fun a => !c.notArmed.contains a } }
    ((s.onCycle fun c => { c with late := true }).setF Fld.SLV_STATE_LATE 1).setF Fld.SLV_STATE_HOLD 1
  else s

/-- What is sent again each flash until its exchange goes on (R139, R162, R186, R284, R286, R383). -/
def State.resendEach (s : State) : State :=
  let s := if s.slv.cycle.phase = .solved ∧ s.slv.cycle.f = 0 then s.sendBankReady else s
  let s := if s.slv.cycle.phase = .armed ∧ s.slv.cycle.ready then s.sendReady else s.armRest
  let s := s.reportGap
  let s := match s.chart.arm with
    | some a => if a.complete ∧ ¬ a.confirmed ∧ a.flash ≠ 0 then s.tellHead (s.chartMsg 0x06 a.digest a.flash) else s
    | none => s
  let s := (s.slc.issued.filter fun i => i.epoch.isNone).foldl State.sendSliceReq s
  let s := s.clp.issued.foldl State.sendPlanReq s
  let s := s.clp.plans.foldl (fun s p => if ¬ p.replied then s else if p.st = 1 then s.sendOffer p else s.sendPlanReady p) s
  let s := s.resendRecovery
  match s.chart.lit with
  | some c => if s.lit ∧ s.inHeadRack then
      s.tell (mkAddr 2 c.install.depX c.install.depY 2) ({ s.kmsg 0x53 with epoch := w32 s.slv.litEpoch, digest := c.digest } : KMsg) else s
  | none => s

/-- Redundancy: the delta or the selective set of the flash that ended, a standby's STATUS, the silence of the mooring link, HEALTH's report count
(R27, R367, R373 to R377, R384). -/
def State.morBoundary (s : State) (ended : Nat) : State :=
  let s := s.onMor fun m => { m with quiet := if m.heard then 0 else m.quiet + 1, heard := false, reports := (m.reports + 1) % 2 ^ 16 }
  if s.lit then
    let s := if ¬ s.flag Fld.MOR_CTRL_MIRROR_EN ∧ (s.getF Fld.MOR_STATE_MODE = 1 ∨ s.getF Fld.MOR_STATE_MODE = 3) then s.partnerStale else s
    let mode := s.getF Fld.MOR_STATE_MODE
    let s := s.moorSend ended false
    if mode = 2 ∨ mode = 3 then s.selectSend ended else s
  else if s.portLit 20 then
    let image := s.getF Fld.MOR_STATE_IMAGE
    (if image = 0 ∨ image = 3 then s.sendOwed.startResync else s.sendOwed).sendStatus
  else s

/-! ### FLASH_BOUNDARY -/

/-- What ends with the flash, while its number still stands: time, telemetry, the last-flash registers (R294, R298 to R303, R315). -/
def State.endFlash (s : State) (m : FlashMeas) (late : StageId → Bool) : State :=
  let s := if late .tim then s.formRecords.countSilence else s.timeWork
  (if late .tel then s else s.telBoundary m).showFlashCounts

/-- What the boundary judges and counts: ports, engines, the silence of the head, tags that may be used again, samples that wait (R73, R108, R394, R395,
R406). -/
def State.judgeFlash (s : State) (m : FlashMeas) : State :=
  let s := (s.endPorts m).endEngines
  let s := { s with
    chart := { s.chart with silence := if s.inDeputyRack && !s.inHeadRack then s.chart.silence + 1 else 0 }
    mgmt := { s.mgmt with cool := s.mgmt.cool.filter fun c => s.tim.flash < c.2 } }
  State.stageSamples s.rst.samples.length s

/-- What the flash that opens begins with: each stage's intake and its work, the Warden core's, completions at publication, what is sent again, the
mooring copy (R22, R28, R353). -/
def State.beginFlash (s : State) (late : StageId → Bool) (ended : Nat) : State :=
  let s := s.judgeLate.resendEach
  let s := s.turnBatches late
  let s := s.sendRequests.judgeTimeFit.answerFit
  let s := if (s.engine 0x22).inReset = 0 then s.showEnrol.wardenIntake.deliverSeals.scrub else s
  let s := if late .slv then s else s.slvBoundary
  let s := if late .cht then s else s.chtBoundary
  let s := if late .clp then s else s.clpBoundary
  let s := if late .wdn then s else s.reportDrains
  let s := if late .dsc then s else s.dscBoundary
  let s := s.releaseWaits (fun x => !x.mirrored && decide (x.delta + 1 ≤ s.tim.flash)) true
  if late .mor then s else s.morBoundary ended

/-- FLASH_BOUNDARY: the flash ends and the next one opens: the stages publish their closed batches and take their inputs, links, engines and sensors are
judged, and what each flash brings is done (R22 to R25, R27, R28, R107, R108, R298, R315, R394, R499). A module under a reset of level 4 to 6 counts
and senses only; one without its rails does nothing (R403, R494). In state NONE the only flash stages that serve are CHT and RST (R83). -/
def execFlashBoundary (m : FlashMeas) (s : State) : Host.Outcome State Fault Refusal :=
  if s.pwr.stage ≠ .on then .next s
  else
    let s : State := { s with hif := { s.hif with sets := [] } }
    let s := s.gatherLog.answerAnnounce.answerBank.senseSensors m
    if s.rst.part.any (·.started) then .next s.openFlash.takeGathered.openCycle
    else
      let ended := s.tim.flash
      let marks := s.work.stages.map fun g => (g.id, s.lateStage g, s.batching g)
      let idle := s.chart.lit.isNone
      let late := fun (id : StageId) => (idle && !(id == .cht || id == .rst)) || marks.any fun x => x.1 == id && x.2.1
      let s := marks.foldl (fun s x => s.countStage x.1 x.2.1 x.2.2) (s.endFlash m late)
      .next ((s.openFlash.judgeFlash m).beginFlash late ended).takeGathered.openCycle

end Sys2Proof.Machine
end

