-- ==== Sys2Proof/Machine/ReadRegs.lean ====
section
/-! DEFINITION. Machine/ReadRegs.lean: what a host read of BAR0 returns: registers that show state kept elsewhere, latches, narrow and unaligned
reads (R8, R9, R311, R511, R512). -/
namespace Sys2Proof.Machine

/-! ### Registers that show state -/

/-- HIF_WIN_STATE (R485). -/
def State.winStates (s : State) : Word :=
  (List.range 16).foldl (fun w n =>
    let c := match (s.window n).st with
      | .idle => 0
      | .busy => 1
      | .done => 2
    w ||| fieldAt (2 * n) 2 c) 0

/-- The registers of port n, k being 0 for STATUS to 7 for RETRAINS (R120, R121). -/
def State.portReg (s : State) (n k : Nat) : Word :=
  let p := s.port n
  if k = 0 then fieldAt 0 4 p.st.code ||| fieldAt 4 4 (popCount p.active 9) ||| fieldAt 8 5 p.position ||| fieldAt 13 3 p.cls
    ||| fieldAt 16 2 p.depth ||| fieldAt 18 1 (b2n (decide (16 ≤ n))) ||| fieldAt 20 4 p.failReason
  else if k = 1 then (match p.found with
    | some f => w32 (bitsOf f.w0 0 28)
    | none => 0)
  else if k = 2 then fieldAt 0 9 p.active ||| fieldAt 9 9 (p.failed ||| p.farFailed) ||| fieldAt 18 9 p.parked
  else if k = 3 then w32 (min p.hcrc (2 ^ 32 - 1)) else if k = 4 then w32 (min p.fcs (2 ^ 32 - 1))
  else if k = 5 then fieldAt 0 24 (min p.fecCount (2 ^ 24 - 1)) ||| fieldAt 24 4 p.fecWorst
  else if k = 6 then w32 (min p.auth (2 ^ 32 - 1)) else w32 (min p.retrains (2 ^ 32 - 1))

/-- DSC_POSp_STATUS (R121). -/
def State.posReg (s : State) (p : Nat) : Word :=
  let x := s.pos p
  fieldAt 0 5 x.logical ||| fieldAt 5 2 (p / 6) ||| fieldAt 7 2 x.laser ||| fieldAt 9 1 (b2n x.quar) ||| fieldAt 10 1 (b2n x.loopbackFail)

/-- DSC_RACK_SUMMARY: the ports of the rack, the Keeper's own and its agents', by class (R121, R482). -/
def State.rackSummary (s : State) : Word :=
  let cs := s.link.ports.map (·.cls) ++ s.link.nbrs.map (·.cls)
  let n := fun c => (cs.filter fun x => x == c).length
  fieldAt 0 12 (min 4095 (n 2)) ||| fieldAt 12 10 (min 1023 (n 3)) ||| fieldAt 22 10 (min 1023 (n 4))

/-- DSC_RESERVE: spare lanes, positions and lasers in use, quarantined positions (R121). -/
def State.reserveWord (s : State) : Word :=
  let ps := s.link.positions
  fieldAt 0 8 (s.link.ports.filter fun p => p.active.testBit 8).length ||| fieldAt 8 4 ((ps.drop 21).filter fun x => x.logical != 0x1F).length
    ||| fieldAt 12 4 (ps.filter fun x => x.laser != 0).length ||| fieldAt 16 8 (ps.filter fun x => x.quar).length

/-- The registers of the slice that WDN_SLICE_SEL names, from WDN_SLICE_INFO on (R176, R177). -/
def State.sliceReg (s : State) (k : Nat) : Word :=
  let id := s.getF Fld.WDN_SLICE_SEL_SLICE
  match s.slice id with
  | none => 0
  | some r =>
    let v := match r.lay, r.chg with
      | some l, _ => some l.view
      | none, some (_, some l) => some l.view
      | none, _ => none
    let of := fun (f : SliceView → Nat) => (v.map f).getD 0
    let seats := fun (f : RackSeats → List Nat) => (((r.seats.find? fun x => x.rack == s.myRack).map fun x => maskOf (f x))).getD 0
    if k = 0 then fieldAt 0 3 r.state ||| fieldAt 3 2 (of (·.cls)) ||| fieldAt 5 1 (b2n r.forced) ||| fieldAt 8 8 (of (·.template))
      ||| fieldAt 16 8 (of fun x => x.count s.myRack) ||| fieldAt 24 1 (b2n (s.touches id s.myRack))
    else if k = 1 then fieldAt 0 16 (of (·.tenant)) else if k = 2 then w32 r.epoch
    else if k = 3 then loHalf (seats (·.lmp)) else if k = 4 then hiHalf (seats (·.lmp))
    else if k = 5 then loHalf (seats (·.lnt)) else if k = 6 then hiHalf (seats (·.lnt))
    else if k = 7 then loHalf (seats (·.clp)) else if k = 8 then hiHalf (seats (·.clp))
    else fieldAt 0 12 (of fun x => x.claims.length)

/-- WDN_SLICE_KEYGEN to WDN_SLICE_EXPIRY_HI for the slice selected (R360, R361). -/
def State.sealReg (s : State) (k : Nat) : Word :=
  let id := s.getF Fld.WDN_SLICE_SEL_SLICE
  let key := s.wdn.keys.find? fun x => x.slice == id
  let newest := s.wdn.seals.find? fun x => x.slice == id
  if k = 0 then (match key with
    | some x => fieldAt 0 16 x.gen ||| fieldAt 16 1 (b2n x.old.isSome) ||| fieldAt 17 1 (b2n x.pending)
    | none => 0)
  else if k = 1 then fieldAt 0 24 (min (2 ^ 24 - 1) (s.oldPages id).length)
  else if k = 2 then loHalf ((newest.map (·.issue)).getD 0) else if k = 3 then hiHalf ((newest.map (·.issue)).getD 0)
  else if k = 4 then loHalf ((newest.map (·.expiry)).getD 0) else hiHalf ((newest.map (·.expiry)).getD 0)

/-- Launches of a plan started since its installation: as the root's packets show them, or the member agents of the rack (R212, log entry 114). -/
def State.launchesOf (s : State) (p : Plan) : Nat :=
  let slot := (planDesc p.desc).slot
  ((s.planMembers p).flatMap fun m => (s.agents.filter fun g => g.addr == m.1).flatMap fun g =>
    (g.slots.filter fun x => x.slot == slot).map (·.started)).foldl max p.launches

/-- The registers of the context that CLP_PLAN_SEL names, from CLP_PLAN_INFO on; 0 for a context without a plan (R212, R213). -/
def State.planReg (s : State) (k : Nat) : Word :=
  match s.plan (s.getF Fld.CLP_PLAN_SEL_CTX) with
  | none => 0
  | some p =>
    let d := planDesc p.desc
    let np := popCount p.planes 16
    if k = 0 then fieldAt 0 3 p.st ||| fieldAt 3 4 d.oper ||| fieldAt 7 3 p.alg ||| fieldAt 10 2 p.inFlight ||| fieldAt 12 1 (b2n p.spill)
      ||| fieldAt 16 8 p.slice ||| fieldAt 24 8 d.slot
    else if k = 1 then fieldAt 0 12 d.group ||| fieldAt 16 14 d.m
    else if k = 2 then w32 p.ordinal
    else if k = 3 then fieldAt 0 16 p.q ||| fieldAt 16 16 (if p.q = 0 then 0 else ceilDiv (pieceCount d.bytes p.q) (max 1 np))
    else if k = 4 then fieldAt 0 16 p.stretch ||| fieldAt 16 16 p.planes
    else if k = 5 then w32 (min (s.launchesOf p) (2 ^ 32 - 1))
    else if k = 6 then fieldAt 0 24 p.switchUnits else if k = 7 then fieldAt 0 24 (p.storeUnits + p.spillUnits)
    else w32 (min (2 ^ 32 - 1) (p.overs.map (·.2)).sum)

/-- CLP_PLAN_LOST and CLP_PLAN_STRAG (R287, R288). -/
def State.planFaultReg (s : State) (k : Nat) : Word :=
  match s.plan (s.getF Fld.CLP_PLAN_SEL_CTX) with
  | none => 0
  | some p => if k = 0 then fieldAt 0 16 p.lost else fieldAt 0 14 p.straggler ||| fieldAt 16 16 (min 65535 p.stragLag)

/-- The registers of the Lantern context that LNT_CTX_SEL names, from LNT_CTX_INFO on (R262, R263). -/
def State.lntReg (s : State) (k : Nat) : Word :=
  let num := s.getF Fld.LNT_CTX_SEL_CTX
  match s.lnt.ctxs.find? fun c => c.num == num && c.live with
  | none => if k = 0 ∧ (s.lntHeld.contains num) then 1 else 0
  | some c =>
    let d := ((s.plan c.ctx).map fun p => planDesc p.desc).getD (planDesc [])
    let buf := c.buf ((c.d + 1) % 65536)
    let got := (buf.map fun b => b.got.length).getD 0
    let parts := (buf.map fun b => b.parts.length).getD 0
    if k = 0 then 2 ||| fieldAt 2 4 d.oper ||| fieldAt 6 1 d.disc ||| fieldAt 8 4 d.format ||| fieldAt 16 6 c.gen
      ||| fieldAt 24 6 (c.racks.length - 1)
    else if k = 1 then w32 c.ordinal
    else if k = 2 then fieldAt 0 16 c.d ||| fieldAt 16 8 ((s.membersIn d.members s.myRack).length - got)
      ||| fieldAt 24 7 (c.racks.length - 1 - parts)
    else fieldAt 0 3 c.legs.1 ||| fieldAt 3 3 c.legs.2.1 ||| fieldAt 6 3 c.legs.2.2.1 ||| fieldAt 9 3 c.legs.2.2.2

/-- LNT_POOLn (R263). -/
def State.lntPoolReg (s : State) (n : Nat) : Word :=
  match s.chart.lit, (s.poolsOf 3).find? fun p => p.pool == n with
  | some c, some p =>
    let r := c.poolRange 3 n
    fieldAt 0 9 p.count ||| fieldAt 16 9 (s.lntHeld.filter fun k => r.1 ≤ k && k < r.2).length
      ||| fieldAt 31 1 (b2n (p.classes.testBit 1 || p.classes.testBit 2))
  | _, _ => 0

/-- An engine holds pending work: an input waits, or an item is started and not completed (R393). -/
def State.enginePending (s : State) (id : Nat) : Bool :=
  let stage := match engineStage id with
    | some g => s.work.stages.any fun x => x.id == g && (!x.waiting.isEmpty || (!x.batch.isEmpty && !x.closed))
    | none => false
  let own :=
    if id = 0x01 then !s.hif.dma.isEmpty
    else if id = 0x02 then s.chart.store.isSome || s.chart.slots.any fun x => x.shadow == .loading
    else if id = 0x04 then s.slv.cycle.phase == .solving || s.slc.solving.isSome
    else if id = 0x05 then s.slv.cycle.phase == .verifying
    else if id = 0x07 then !s.lmp.units.isEmpty || !s.lmp.spillQueue.isEmpty
    else if id = 0x0B then !s.mor.owed.isEmpty || !s.mor.committed.isEmpty
    else if id = 0x0C then !s.log.staging.isEmpty || s.log.copying.isSome
    else if id = 0x0E then !s.rst.samples.isEmpty
    else if id = 0x22 then !s.wdn.queue.isEmpty || s.wdn.signing.isSome || s.wdn.enrol.isSome
    else if 0x10 ≤ id ∧ id < 0x22 then
      match s.work.pilots[id - 0x10]? with
      | some p => p.running && s.work.requests.any fun q => q.held.isNone
      | none => false
    else false
  stage || own

/-- RST_ENGINE_STATUS of the engine that RST_ENGINE_SEL names; 0 for a reserved ID (R417, R418). -/
def State.engineReg (s : State) : Word :=
  let id := s.getF Fld.RST_ENGINE_SEL_ENGINE
  if ¬ engineIds.contains id then 0
  else
    let e := s.engine id
    w32 (bitsOf (w32 e.progress.toNat) 0 16) ||| fieldAt 16 1 (b2n (s.enginePending id)) ||| fieldAt 17 1 (b2n e.hung)
      ||| fieldAt 18 1 (b2n (decide (2 ≤ e.inReset))) ||| fieldAt 19 1 (b2n (id != 0x0E)) ||| fieldAt 20 4 (min 15 e.still)
      ||| fieldAt 24 8 (min 255 e.resets)

/-- The value a register reads as: those that show state, the rest as they stand. -/
def State.readNow (s : State) (off : Nat) : Word :=
  if s.resetLevel = 4 ∧ ¬ servedInLevel4 off then 0
  else if 0x8000 ≤ off ∧ off < 0x8400 ∨ off = 0x9000 ∨ off = 0x9004 then s.readMsix off
  else if off = Reg.HIF_WIN_STATE then s.winStates
  else if Reg.CHT_SLOT_STATUS 0 ≤ off ∧ off ≤ Reg.CHT_SLOT_STATUS 3 then s.slotStatus ((off - Reg.CHT_SLOT_STATUS 0) / 4)
  else if off = Reg.DSC_RACK_SUMMARY then s.rackSummary
  else if off = Reg.DSC_RESERVE then s.reserveWord
  else if Reg.DSC_PORT_STATUS 0 ≤ off ∧ off ≤ Reg.DSC_PORT_RETRAINS 20 then s.portReg ((off - 0x20100) / 32) ((off - 0x20100) % 32 / 4)
  else if Reg.DSC_POS_STATUS 0 ≤ off ∧ off ≤ Reg.DSC_POS_STATUS 23 then s.posReg ((off - 0x20400) / 4)
  else if Reg.WDN_SLICE_INFO ≤ off ∧ off ≤ Reg.WDN_SLICE_CLAIMS then s.sliceReg ((off - Reg.WDN_SLICE_INFO) / 4)
  else if Reg.WDN_SLICE_KEYGEN ≤ off ∧ off ≤ Reg.WDN_SLICE_EXPIRY_HI then s.sealReg ((off - Reg.WDN_SLICE_KEYGEN) / 4)
  else if Reg.CLP_PLAN_INFO ≤ off ∧ off ≤ Reg.CLP_PLAN_OVER then s.planReg ((off - Reg.CLP_PLAN_INFO) / 4)
  else if off = Reg.CLP_PLAN_LOST ∨ off = Reg.CLP_PLAN_STRAG then s.planFaultReg ((off - Reg.CLP_PLAN_LOST) / 4)
  else if Reg.LNT_CTX_INFO ≤ off ∧ off ≤ Reg.LNT_CTX_LEGS then s.lntReg ((off - Reg.LNT_CTX_INFO) / 4)
  else if Reg.LNT_POOL 0 ≤ off ∧ off ≤ Reg.LNT_POOL 7 then s.lntPoolReg ((off - Reg.LNT_POOL 0) / 4)
  else if off = Reg.TIM_NOW_LO then loHalf s.tim.flash
  else if off = Reg.TIM_NOW_HI then hiHalf s.tim.flash
  else if off = Reg.TIM_NOW_OFF then fieldAt 0 25 s.tim.offset
  else if off = Reg.TIM_WALL_NOW_LO then loHalf s.wallNow
  else if off = Reg.TIM_WALL_NOW_HI then hiHalf s.wallNow
  else if off = Reg.RST_ENGINE_STATUS then s.engineReg
  else if off = Reg.SLV_BACKLOG then fieldAt 0 16 (min 65535 (s.slv.head.changes.length + s.slv.head.sliceChanges.length))
  else if (regRow off).isSome then s.getReg off else 0

/-! ### Reads (R8, R9, R311) -/

/-- A 32-bit read of an aligned BAR0 offset, with the latches it takes, uses or discards. -/
def State.readWord (s : State) (off : Nat) : Word × State :=
  if off = Reg.TIM_NOW_LO then
    (s.readNow off, { s with hif := { s.hif with nowLatch := some (s.readNow Reg.TIM_NOW_HI, s.readNow Reg.TIM_NOW_OFF, 3) } })
  else if pairLows.contains off then
    let s1 := s.dropLatches off
    (s.readNow off, { s1 with hif := { s1.hif with latches := s1.hif.latches ++ [(off, s.readNow (off + 4))] } })
  else
    let next := s.dropLatches off
    match s.hif.nowLatch with
    | some (hi, o, left) =>
      let keep := fun (rest : Nat) => { s with hif := { s.hif with nowLatch := if rest = 0 then none else some (hi, o, rest) } }
      if off = Reg.TIM_NOW_HI ∧ left % 2 = 1 then (hi, keep (left - 1))
      else if off = Reg.TIM_NOW_OFF ∧ 2 ≤ left then (o, keep (left - 2))
      else (((s.hif.latches.find? fun x => x.1 + 4 == off).map (·.2)).getD (s.readNow off), next)
    | none => (((s.hif.latches.find? fun x => x.1 + 4 == off).map (·.2)).getD (s.readNow off), next)

/-- A host read of BAR0: 32-bit and 64-bit aligned reads, a narrower read within one register; every other is unaligned, returns 0 and is recorded
(R9). A 64-bit read takes the register at the lower offset first. -/
def State.hostRead (s : State) (off bytes : Nat) : State :=
  if ¬ s.hostReaches then s
  else if ¬ readAligned off bytes then (s.recordErr Fld.HIF_ERR_STATUS_ACCESS 0 off).send (.readData 0)
  else if bytes = 8 then
    let a := s.readWord off
    let b := a.2.readWord (off + 4)
    b.2.send (.readData (b.1 ++ a.1))
  else
    let a := s.readWord (off / 4 * 4)
    a.2.send (.readData (BitVec.ofNat 64 (subWord a.1 off bytes)))

/-- LOW_HALF_READ: a host read of BAR0 (R8). -/
def execLowHalfRead (off bytes : Nat) (s : State) : Host.Outcome State Fault Refusal := .next (s.hostRead off bytes)

/-- UNALIGNED_READ: a host read of BAR0 that is not aligned (R9). -/
def execUnalignedRead (off bytes : Nat) (s : State) : Host.Outcome State Fault Refusal := .next (s.hostRead off bytes)

/-- REGISTER_WRITE: a host write of BAR0. A narrow or unaligned one is ignored and recorded; a 64-bit write is taken as its two registers, the lower
offset first (R9, R10). The last operand says whether the write falls in the core cycle of the commands just before it, so that a W1C bit set there
stays set (R12). -/
def execRegisterWrite (off bytes : Nat) (value : BitVec 64) (same : Bool) (s : State) : Host.Outcome State Fault Refusal :=
  .next (
    if ¬ s.hostReaches then s
    else if ¬ writeAligned off bytes then s.recordErr Fld.HIF_ERR_STATUS_ACCESS 0 off
    else
      let s := s.hostWrite off (value.extractLsb' 0 32) same
      if bytes = 8 then s.hostWrite (off + 4) (value.extractLsb' 32 32) same else s)

end Sys2Proof.Machine
end

