-- ==== Sys2Proof/Machine/Dispatch.lean ====
section
/-! DEFINITION. Machine/Dispatch.lean: one arm per command, each a direct call of its meaning. -/
namespace Sys2Proof.Machine

/-- The effect of a command on everything but the queue. -/
def exec (i : Instr) (s : State) : Host.Outcome State Fault Refusal :=
  match i with
  | .registerWrite off bytes value same => Sys2Proof.Machine.execRegisterWrite off bytes value same s
  | .lowHalfRead off bytes => Sys2Proof.Machine.execLowHalfRead off bytes s
  | .unalignedRead off bytes => Sys2Proof.Machine.execUnalignedRead off bytes s
  | .flashBoundary m => Sys2Proof.Machine.execFlashBoundary m s
  | .batchClose stage failedLanes => Sys2Proof.Machine.execBatchClose stage failedLanes s
  | .proposalArrival p => Sys2Proof.Machine.execProposalArrival p s
  | .proposalFallback request => Sys2Proof.Machine.execProposalFallback request s
  | .pilotCoreStop core => Sys2Proof.Machine.execPilotCoreStop core s
  | .wardenStart m => Sys2Proof.Machine.execWardenStart m s
  | .hcrcError port header lanes => Sys2Proof.Machine.execHcrcError port header lanes s
  | .frameCheckError port f lanes => Sys2Proof.Machine.execFrameCheckError port f lanes s
  | .egressPacketBoundary party port => Sys2Proof.Machine.execEgressPacketBoundary party port s
  | .windowAck port p => Sys2Proof.Machine.execWindowAck port p s
  | .resyncMark party port => Sys2Proof.Machine.execResyncMark party port s
  | .resyncGrant party port units => Sys2Proof.Machine.execResyncGrant party port units s
  | .mgmtReply port p => Sys2Proof.Machine.execMgmtReply port p s
  | .mgmtResend tag => Sys2Proof.Machine.execMgmtResend tag s
  | .loadReport port p => Sys2Proof.Machine.execLoadReport port p s
  | .portChangeEvent port p => Sys2Proof.Machine.execPortChangeEvent port p s
  | .agentResetEvent port p => Sys2Proof.Machine.execAgentResetEvent port p s
  | .goMissingEvent port p => Sys2Proof.Machine.execGoMissingEvent port p s
  | .flowBrokenEvent port p => Sys2Proof.Machine.execFlowBrokenEvent port p s
  | .placeDiscardedEvent port p => Sys2Proof.Machine.execPlaceDiscardedEvent port p s
  | .drainEmptyEvent port p => Sys2Proof.Machine.execDrainEmptyEvent port p s
  | .overflowEvent port p => Sys2Proof.Machine.execOverflowEvent port p s
  | .loadChart c => Sys2Proof.Machine.execLoadChart c s
  | .chartCheckDone slot => Sys2Proof.Machine.execChartCheckDone slot s
  | .store c => Sys2Proof.Machine.execStore c s
  | .storeWriteDone failedBlocks => Sys2Proof.Machine.execStoreWriteDone failedBlocks s
  | .bootChartLight => Sys2Proof.Machine.execBootChartLight s
  | .lightChart c => Sys2Proof.Machine.execLightChart c s
  | .chartLight => Sys2Proof.Machine.execChartLight s
  | .chartAnnounceWithdrawal => Sys2Proof.Machine.execChartAnnounceWithdrawal s
  | .serialFloorWrite value => Sys2Proof.Machine.execSerialFloorWrite value s
  | .actingHeadEntry => Sys2Proof.Machine.execActingHeadEntry s
  | .handbackFlash => Sys2Proof.Machine.execHandbackFlash s
  | .handback port p => Sys2Proof.Machine.execHandback port p s
  | .headBeat port p => Sys2Proof.Machine.execHeadBeat port p s
  | .lasersReady => Sys2Proof.Machine.execLasersReady s
  | .portTrainDone port failed loopbackOk => Sys2Proof.Machine.execPortTrainDone port failed loopbackOk s
  | .hello port bytes => Sys2Proof.Machine.execHello port bytes s
  | .linkConfirm port bytes => Sys2Proof.Machine.execLinkConfirm port bytes s
  | .beacon port p => Sys2Proof.Machine.execBeacon port p s
  | .beaconSend port => Sys2Proof.Machine.execBeaconSend port s
  | .verifyTimeout port => Sys2Proof.Machine.execVerifyTimeout port s
  | .beaconLoss port => Sys2Proof.Machine.execBeaconLoss port s
  | .darkRetry port => Sys2Proof.Machine.execDarkRetry port s
  | .sparePositionMoveDone port => Sys2Proof.Machine.execSparePositionMoveDone port s
  | .laneSignalLoss port lane => Sys2Proof.Machine.execLaneSignalLoss port lane s
  | .laneChange port failed => Sys2Proof.Machine.execLaneChange port failed s
  | .laserFault position => Sys2Proof.Machine.execLaserFault position s
  | .rekeyDue port => Sys2Proof.Machine.execRekeyDue port s
  | .rekey port epoch => Sys2Proof.Machine.execRekey port epoch s
  | .parkEntry port lanes => Sys2Proof.Machine.execParkEntry port lanes s
  | .park port depth => Sys2Proof.Machine.execPark port depth s
  | .linkWakeRequest port => Sys2Proof.Machine.execLinkWakeRequest port s
  | .wake port => Sys2Proof.Machine.execWake port s
  | .wakeComplete port failed => Sys2Proof.Machine.execWakeComplete port failed s
  | .fabricTestStart value => Sys2Proof.Machine.execFabricTestStart value s
  | .fabricTestEnd bits errors => Sys2Proof.Machine.execFabricTestEnd bits errors s
  | .clearQuar value => Sys2Proof.Machine.execClearQuar value s
  | .rackReport port p => Sys2Proof.Machine.execRackReport port p s
  | .epoch port p => Sys2Proof.Machine.execEpoch port p s
  | .epochReq port p => Sys2Proof.Machine.execEpochReq port p s
  | .linkNotice port p => Sys2Proof.Machine.execLinkNotice port p s
  | .sectorVerdict v => Sys2Proof.Machine.execSectorVerdict v s
  | .bankLoadDone => Sys2Proof.Machine.execBankLoadDone s
  | .bankReady port p => Sys2Proof.Machine.execBankReady port p s
  | .announce port p => Sys2Proof.Machine.execAnnounce port p s
  | .ready port p => Sys2Proof.Machine.execReady port p s
  | .notReady port p => Sys2Proof.Machine.execNotReady port p s
  | .readyDeadline => Sys2Proof.Machine.execReadyDeadline s
  | .postpone port p => Sys2Proof.Machine.execPostpone port p s
  | .confirm port p => Sys2Proof.Machine.execConfirm port p s
  | .goRepeat => Sys2Proof.Machine.execGoRepeat s
  | .bankLight => Sys2Proof.Machine.execBankLight s
  | .litReport port p => Sys2Proof.Machine.execLitReport port p s
  | .withdraw port p => Sys2Proof.Machine.execWithdraw port p s
  | .rackFence rack => Sys2Proof.Machine.execRackFence rack s
  | .agentPause agent => Sys2Proof.Machine.execAgentPause agent s
  | .agentBankLight agent => Sys2Proof.Machine.execAgentBankLight agent s
  | .drainGuardEnd agent => Sys2Proof.Machine.execDrainGuardEnd agent s
  | .sliceCreate c => Sys2Proof.Machine.execSliceCreate c s
  | .sliceReseal c => Sys2Proof.Machine.execSliceReseal c s
  | .sliceDrain c => Sys2Proof.Machine.execSliceDrain c s
  | .sliceDestroy c => Sys2Proof.Machine.execSliceDestroy c s
  | .sliceReq port p => Sys2Proof.Machine.execSliceReq port p s
  | .admissionSolveDone => Sys2Proof.Machine.execAdmissionSolveDone s
  | .sliceReply port p => Sys2Proof.Machine.execSliceReply port p s
  | .sliceReqTimeout => Sys2Proof.Machine.execSliceReqTimeout s
  | .sliceTable port p => Sys2Proof.Machine.execSliceTable port p s
  | .drainNotice port p => Sys2Proof.Machine.execDrainNotice port p s
  | .drainReport port p => Sys2Proof.Machine.execDrainReport port p s
  | .sliceDone port p => Sys2Proof.Machine.execSliceDone port p s
  | .drainLimitExpiry => Sys2Proof.Machine.execDrainLimitExpiry s
  | .planCollective c => Sys2Proof.Machine.execPlanCollective c s
  | .planReq port p => Sys2Proof.Machine.execPlanReq port p s
  | .planOrder port p => Sys2Proof.Machine.execPlanOrder port p s
  | .planOffer port p => Sys2Proof.Machine.execPlanOffer port p s
  | .planCommit port p => Sys2Proof.Machine.execPlanCommit port p s
  | .planReady port p => Sys2Proof.Machine.execPlanReady port p s
  | .planDone port p => Sys2Proof.Machine.execPlanDone port p s
  | .planMemberSilent => Sys2Proof.Machine.execPlanMemberSilent s
  | .planReqTimeout => Sys2Proof.Machine.execPlanReqTimeout s
  | .releaseLimitExpiry => Sys2Proof.Machine.execReleaseLimitExpiry s
  | .rsContrib port p => Sys2Proof.Machine.execRsContrib port p s
  | .rsResult port p => Sys2Proof.Machine.execRsResult port p s
  | .agData port p => Sys2Proof.Machine.execAgData port p s
  | .barrier port p => Sys2Proof.Machine.execBarrier port p s
  | .lampUnitDone lamp unit first second line => Sys2Proof.Machine.execLampUnitDone lamp unit first second line s
  | .spillWriteDone => Sys2Proof.Machine.execSpillWriteDone s
  | .lmpInjectArm value => Sys2Proof.Machine.execLmpInjectArm value s
  | .lanternContrib port p fault => Sys2Proof.Machine.execLanternContrib port p fault s
  | .lanternPartial port p fault => Sys2Proof.Machine.execLanternPartial port p fault s
  | .lanternNeed port p => Sys2Proof.Machine.execLanternNeed port p s
  | .needTimer ctx => Sys2Proof.Machine.execNeedTimer ctx s
  | .collectiveRetransmit dest svc wseq => Sys2Proof.Machine.execCollectiveRetransmit dest svc wseq s
  | .recoverReq port p => Sys2Proof.Machine.execRecoverReq port p s
  | .recoverClear port p => Sys2Proof.Machine.execRecoverClear port p s
  | .recoverCleared port p => Sys2Proof.Machine.execRecoverCleared port p s
  | .recoverGo port p => Sys2Proof.Machine.execRecoverGo port p s
  | .recoveryReplyTimeout => Sys2Proof.Machine.execRecoveryReplyTimeout s
  | .abortCollective c => Sys2Proof.Machine.execAbortCollective c s
  | .abortReq port p => Sys2Proof.Machine.execAbortReq port p s
  | .freeze port p => Sys2Proof.Machine.execFreeze port p s
  | .frozen port p => Sys2Proof.Machine.execFrozen port p s
  | .thaw port p => Sys2Proof.Machine.execThaw port p s
  | .genSpacingElapsed => Sys2Proof.Machine.execGenSpacingElapsed s
  | .stallDetect => Sys2Proof.Machine.execStallDetect s
  | .stragglerDetect => Sys2Proof.Machine.execStragglerDetect s
  | .timeExchangeRequest port p => Sys2Proof.Machine.execTimeExchangeRequest port p s
  | .timeExchangeReply port p => Sys2Proof.Machine.execTimeExchangeReply port p s
  | .timeFill port samples => Sys2Proof.Machine.execTimeFill port samples s
  | .timeAcquisitionStep => Sys2Proof.Machine.execTimeAcquisitionStep s
  | .acquisitionTimeout => Sys2Proof.Machine.execAcquisitionTimeout s
  | .coldStart => Sys2Proof.Machine.execColdStart s
  | .degradedEntry => Sys2Proof.Machine.execDegradedEntry s
  | .agentHoldover agent => Sys2Proof.Machine.execAgentHoldover agent s
  | .floorClear value => Sys2Proof.Machine.execFloorClear value s
  | .wallApply value => Sys2Proof.Machine.execWallApply value s
  | .saturationWarn => Sys2Proof.Machine.execSaturationWarn s
  | .readLoadmap c => Sys2Proof.Machine.execReadLoadmap c s
  | .telPeakClear value => Sys2Proof.Machine.execTelPeakClear value s
  | .enrolGo value => Sys2Proof.Machine.execEnrolGo value s
  | .enrolVerifyDone => Sys2Proof.Machine.execEnrolVerifyDone s
  | .keyRotate value => Sys2Proof.Machine.execKeyRotate value s
  | .attest c => Sys2Proof.Machine.execAttest c s
  | .issueSeal c => Sys2Proof.Machine.execIssueSeal c s
  | .signatureDone => Sys2Proof.Machine.execSignatureDone s
  | .sealRenewal => Sys2Proof.Machine.execSealRenewal s
  | .sealPublish => Sys2Proof.Machine.execSealPublish s
  | .sealDirectWrite => Sys2Proof.Machine.execSealDirectWrite s
  | .grantAssert lineFree => Sys2Proof.Machine.execGrantAssert lineFree s
  | .grantWithdraw => Sys2Proof.Machine.execGrantWithdraw s
  | .takeoverAdopt => Sys2Proof.Machine.execTakeoverAdopt s
  | .smbusIdent pecOk => Sys2Proof.Machine.execSmbusIdent pecOk s
  | .smbusHealth pecOk => Sys2Proof.Machine.execSmbusHealth pecOk s
  | .smbusNote code pecOk => Sys2Proof.Machine.execSmbusNote code pecOk s
  | .moorDelta p => Sys2Proof.Machine.execMoorDelta p s
  | .moorCommit p image => Sys2Proof.Machine.execMoorCommit p image s
  | .moorAck p => Sys2Proof.Machine.execMoorAck p s
  | .moorNack p => Sys2Proof.Machine.execMoorNack p s
  | .moorStatus p image => Sys2Proof.Machine.execMoorStatus p image s
  | .commitAckTimeout => Sys2Proof.Machine.execCommitAckTimeout s
  | .commitLoss => Sys2Proof.Machine.execCommitLoss s
  | .deltaApply => Sys2Proof.Machine.execDeltaApply s
  | .mirrorSelect port p => Sys2Proof.Machine.execMirrorSelect port p s
  | .mirrorSelectAck port p => Sys2Proof.Machine.execMirrorSelectAck port p s
  | .mirrorResend tag => Sys2Proof.Machine.execMirrorResend tag s
  | .handover value => Sys2Proof.Machine.execHandover value s
  | .finalCommitTimeout => Sys2Proof.Machine.execFinalCommitTimeout s
  | .resyncReq value => Sys2Proof.Machine.execResyncReq value s
  | .stateQuery port p => Sys2Proof.Machine.execStateQuery port p s
  | .stateReply port p => Sys2Proof.Machine.execStateReply port p s
  | .graphReq port p => Sys2Proof.Machine.execGraphReq port p s
  | .graph port p => Sys2Proof.Machine.execGraph port p s
  | .selftestResult test units => Sys2Proof.Machine.execSelftestResult test units s
  | .engineHang engine slice item => Sys2Proof.Machine.execEngineHang engine slice item s
  | .engineResetDone engine => Sys2Proof.Machine.execEngineResetDone engine s
  | .contextHang kind ctx => Sys2Proof.Machine.execContextHang kind ctx s
  | .hostDmaTimeout slot => Sys2Proof.Machine.execHostDmaTimeout slot s
  | .aonWatchdog => Sys2Proof.Machine.execAonWatchdog s
  | .escalateReset c => Sys2Proof.Machine.execEscalateReset c s
  | .deferredResetStart => Sys2Proof.Machine.execDeferredResetStart s
  | .partResetStart => Sys2Proof.Machine.execPartResetStart s
  | .partResetEnd => Sys2Proof.Machine.execPartResetEnd s
  | .partFitTimeout => Sys2Proof.Machine.execPartFitTimeout s
  | .chipReset => Sys2Proof.Machine.execChipReset s
  | .chipFitTimeout => Sys2Proof.Machine.execChipFitTimeout s
  | .sampleRoomTimeout => Sys2Proof.Machine.execSampleRoomTimeout s
  | .detectionError item loc => Sys2Proof.Machine.execDetectionError item loc s
  | .pseudoChannelCopyDone channel => Sys2Proof.Machine.execPseudoChannelCopyDone channel s
  | .rstTestStall value => Sys2Proof.Machine.execRstTestStall value s
  | .logEvent e => Sys2Proof.Machine.execLogEvent e s
  | .pilotLogSubmit core code slice body => Sys2Proof.Machine.execPilotLogSubmit core code slice body s
  | .logRingMove => Sys2Proof.Machine.execLogRingMove s
  | .logCopyDone => Sys2Proof.Machine.execLogCopyDone s
  | .bar4Read off bytes fails => Sys2Proof.Machine.execBar4Read off bytes fails s
  | .bar4Write off value => Sys2Proof.Machine.execBar4Write off value s
  | .agentMgmtRead agent h addr count => Sys2Proof.Machine.execAgentMgmtRead agent h addr count s
  | .agentMgmtWrite agent h addr words => Sys2Proof.Machine.execAgentMgmtWrite agent h addr words s
  | .agentBroadcastWrite agent h addr words => Sys2Proof.Machine.execAgentBroadcastWrite agent h addr words s
  | .agentEventResend agent seq => Sys2Proof.Machine.execAgentEventResend agent seq s
  | .agentArm agent h value => Sys2Proof.Machine.execAgentArm agent h value s
  | .agentDisarm agent h value => Sys2Proof.Machine.execAgentDisarm agent h value s
  | .agentSetLit agent h bank => Sys2Proof.Machine.execAgentSetLit agent h bank s
  | .agentGo agent h value => Sys2Proof.Machine.execAgentGo agent h value s
  | .agentFreeze agent h index => Sys2Proof.Machine.execAgentFreeze agent h index s
  | .agentThaw agent h index => Sys2Proof.Machine.execAgentThaw agent h index s
  | .agentCheckValue agent h value => Sys2Proof.Machine.execAgentCheckValue agent h value s
  | .agentCheckValueDone agent => Sys2Proof.Machine.execAgentCheckValueDone agent s
  | .agentSealCommit agent h len => Sys2Proof.Machine.execAgentSealCommit agent h len s
  | .agentSealVerifyDone agent envelopes => Sys2Proof.Machine.execAgentSealVerifyDone agent envelopes s
  | .agentSealExpiry agent => Sys2Proof.Machine.execAgentSealExpiry agent s
  | .agentGraceEnd agent => Sys2Proof.Machine.execAgentGraceEnd agent s
  | .agentTrim agent h value => Sys2Proof.Machine.execAgentTrim agent h value s
  | .agentRate agent h value => Sys2Proof.Machine.execAgentRate agent h value s
  | .agentStep agent h value => Sys2Proof.Machine.execAgentStep agent h value s
  | .agentPeriodChange agent => Sys2Proof.Machine.execAgentPeriodChange agent s
  | .agentServe agent h value => Sys2Proof.Machine.execAgentServe agent h value s
  | .agentReset agent cause => Sys2Proof.Machine.execAgentReset agent cause s
  | .agentLaunch agent slot => Sys2Proof.Machine.execAgentLaunch agent slot s
  | .agentTileDone agent slot => Sys2Proof.Machine.execAgentTileDone agent slot s
  | .agentLanternDeadline agent slot => Sys2Proof.Machine.execAgentLanternDeadline agent slot s
  | .setWakeLatency c => Sys2Proof.Machine.execSetWakeLatency c s
  | .agentRead c => Sys2Proof.Machine.execAgentRead c s
  | .agentWrite c => Sys2Proof.Machine.execAgentWrite c s
  | .reservedOpcode opcode c => Sys2Proof.Machine.execReservedOpcode opcode c s
  | .msixSpacingExpiry vector => Sys2Proof.Machine.execMsixSpacingExpiry vector s
  | .functionLevelReset => Sys2Proof.Machine.execFunctionLevelReset s
  | .perstAssert => Sys2Proof.Machine.execPerstAssert s
  | .d3hotEntry => Sys2Proof.Machine.execD3hotEntry s
  | .d0Return => Sys2Proof.Machine.execD0Return s
  | .modReset => Sys2Proof.Machine.execModReset s
  | .powerUp role x y fail => Sys2Proof.Machine.execPowerUp role x y fail s
  | .railFailRetry fail => Sys2Proof.Machine.execRailFailRetry fail s
  | .vinDip => Sys2Proof.Machine.execVinDip s
  | .vinLoss => Sys2Proof.Machine.execVinLoss s
  | .shutdownLimit cause => Sys2Proof.Machine.execShutdownLimit cause s
  | .shutdownReleaseTimeout => Sys2Proof.Machine.execShutdownReleaseTimeout s
  | .thermalTrip => Sys2Proof.Machine.execThermalTrip s
  | .throttleStep => Sys2Proof.Machine.execThrottleStep s
  | .frefLoss => Sys2Proof.Machine.execFrefLoss s
  | .frefRestore => Sys2Proof.Machine.execFrefRestore s
  | .pwrPeakClear value => Sys2Proof.Machine.execPwrPeakClear value s
  | .hostDmaCompletion slot status words => Sys2Proof.Machine.execHostDmaCompletion slot status words s
  | .pcieLinkTrained rate width => Sys2Proof.Machine.execPcieLinkTrained rate width s
  | .modResetDeassert => Sys2Proof.Machine.execModResetDeassert s
  | .commandWindowWrite off bytes value => Sys2Proof.Machine.execCommandWindowWrite off bytes value s
  | .keyAgreementTimeout port => Sys2Proof.Machine.execKeyAgreementTimeout port s
  | .testHoldRequest port hold => Sys2Proof.Machine.execTestHoldRequest port hold s
  | .testHoldAgree port agrees => Sys2Proof.Machine.execTestHoldAgree port agrees s
  | .reservedOpkindPacket port p => Sys2Proof.Machine.execReservedOpkindPacket port p s
  | .linkControlBlockInvalid port block => Sys2Proof.Machine.execLinkControlBlockInvalid port block s
  | .creditReturn party port vc units => Sys2Proof.Machine.execCreditReturn party port vc units s
  | .tokenBucketRefill party port vc => Sys2Proof.Machine.execTokenBucketRefill party port vc s
  | .agentEventAck agent port seq => Sys2Proof.Machine.execAgentEventAck agent port seq s
  | .agentFlashBoundary agent ports => Sys2Proof.Machine.execAgentFlashBoundary agent ports s
  | .switchPacketIngress agent port p fault => Sys2Proof.Machine.execSwitchPacketIngress agent port p fault s
  | .endpointPacketArrival agent port p => Sys2Proof.Machine.execEndpointPacketArrival agent port p s
  | .sealLow => Sys2Proof.Machine.execSealLow s
  | .pilotFirmwareReplace image => Sys2Proof.Machine.execPilotFirmwareReplace image s
  | .fillPacketReceived port p => Sys2Proof.Machine.execFillPacketReceived port p s
  | .logCopyCutShort => Sys2Proof.Machine.execLogCopyCutShort s
  | .autoSpare rst value => Sys2Proof.Machine.execAutoSpare rst value s
  | .contextResetDone kind ctx => Sys2Proof.Machine.execContextResetDone kind ctx s

end Sys2Proof.Machine
end

