-- ==== Sys2Proof/Machine/Idle.lean ====
section
/-! DEFINITION. Machine/Idle.lean: what a step does when no command waits. -/
namespace Sys2Proof.Machine

/-- One core cycle passes: fabric time advances 0.5 ns, 128 units of 2^-8 ns, and stands at the end of the period until
FLASH_BOUNDARY opens the next flash (log entry 1). What was set in the cycle that ends can no longer meet a host write of the same cycle (R12,
R13). -/
def State.idle (s : State) : State :=
  { s.endCycle with tim := { s.tim with offset := if s.tim.offset + 128 < s.flashUnits then s.tim.offset + 128 else s.tim.offset } }

end Sys2Proof.Machine
end

