-- ==== Sys2Proof/WellFormed.lean ====
section
/-! DEFINITION. WellFormed.lean: what the operands of a command must be for the command to be one that the interfaces of the spec can carry. The
meanings are total: a term that is not well-formed still has an outcome, but no interface delivers it. -/
namespace Sys2Proof

/-- The Keeper's ports are 0 to 20 (R39). -/
def keeperPortOk (port : Nat) : Bool := decide (port < 21)

/-- A set of the nine lanes of a port (R39). -/
def laneSetOk (lanes : Nat) : Bool := decide (lanes < 512)

/-- Access sizes of the host interface, in bytes (R9). -/
def accessOk (bytes : Nat) : Bool := bytes == 1 || bytes == 2 || bytes == 4 || bytes == 8

/-- Offsets inside BAR0 (R464). -/
def bar0Ok (off : Nat) : Bool := decide (off < 2 ^ 24)

/-- Offsets inside BAR2 (R464). -/
def bar2Ok (off : Nat) : Bool := decide (off < 2 ^ 16)

/-- Offsets inside BAR4 (R464). -/
def bar4Ok (off : Nat) : Bool := decide (off < 2 ^ 30)

/-- Ports of an agent: 134 of a switch, 16 links of an endpoint (R39, R439). -/
def agentPortOk (agent : Addr) (port : Nat) : Bool := decide (port < if agent.toNat / 2 ^ 14 = 1 then 134 else 16)

/-- A port of a party: an agent's, or the Keeper's own. -/
def partyPortOk (party : Option Addr) (port : Nat) : Bool :=
  match party with
  | some a => agentPortOk a port
  | none => keeperPortOk port

/-- What an agent's ports show: each port at most once (R440). -/
def agPortsOk (agent : Addr) (ms : List AgPortMeas) : Bool := (ms.all fun m => agentPortOk agent m.port) && decide ((ms.map (·.port)).Nodup)

/-- The engine numbers of R391. -/
def engineOk (id : Nat) : Bool := (decide (1 ≤ id) && decide (id ≤ 0x0E)) || (decide (0x10 ≤ id) && decide (id ≤ 0x22))

/-- A packet's payload fills the granules that LEN names, 16 words each (R53). -/
def Packet.wf (p : Packet) : Bool := p.payload.length == 16 * (p.hdr.len.toNat + 1)

/-- A command block has words 1 to 31 after its first (R468). -/
def HostCmd.wf (c : HostCmd) : Bool := decide (c.args.length ≤ 31)

/-- A record's body fits its length field: 252 words with the subject word (R419, R420). -/
def LogEvt.wf (e : LogEvt) : Bool := decide (e.body.length ≤ 251)

/-- A verdict that fails names one of the Verifier's invariants, one that passes names none, 0 (R169). -/
def Verdict.wf (v : Verdict) : Bool := decide (v.invariant.toNat ≤ 6)

/-- What a boundary shows: 16 junction sensors, each port at most once (R121, R499). -/
def FlashMeas.wf (m : FlashMeas) : Bool := m.temps.length == 16 && (m.ports.all fun p => keeperPortOk p.port) && decide ((m.ports.map (·.port)).Nodup)

/-- A well-formed command. -/
def Instr.wf (i : Instr) : Bool :=
  match i with
  | .registerWrite off bytes _ _ => bar0Ok off && accessOk bytes
  | .lowHalfRead off bytes => bar0Ok off && accessOk bytes
  | .unalignedRead off bytes => bar0Ok off && accessOk bytes
  | .flashBoundary m => m.wf
  | .batchClose _ _ => true
  | .proposalArrival _ => true
  | .proposalFallback _ => true
  | .pilotCoreStop core => decide (core.toNat < 18)
  | .wardenStart _ => true
  | .hcrcError port header lanes => keeperPortOk port && (header.length == 4) && laneSetOk lanes
  | .frameCheckError port _ lanes => keeperPortOk port && laneSetOk lanes
  | .egressPacketBoundary party port => partyPortOk party port
  | .windowAck port p => keeperPortOk port && p.wf
  | .resyncMark party port => partyPortOk party port
  | .resyncGrant party port units => partyPortOk party port && (units.length == 8)
  | .mgmtReply port p => keeperPortOk port && p.wf
  | .mgmtResend _ => true
  | .loadReport port p => keeperPortOk port && p.wf
  | .portChangeEvent port p => keeperPortOk port && p.wf
  | .agentResetEvent port p => keeperPortOk port && p.wf
  | .goMissingEvent port p => keeperPortOk port && p.wf
  | .flowBrokenEvent port p => keeperPortOk port && p.wf
  | .placeDiscardedEvent port p => keeperPortOk port && p.wf
  | .drainEmptyEvent port p => keeperPortOk port && p.wf
  | .overflowEvent port p => keeperPortOk port && p.wf
  | .loadChart c => c.wf
  | .chartCheckDone slot => decide (slot < 4)
  | .store c => c.wf
  | .storeWriteDone _ => true
  | .bootChartLight => true
  | .lightChart c => c.wf
  | .chartLight => true
  | .chartAnnounceWithdrawal => true
  | .serialFloorWrite _ => true
  | .actingHeadEntry => true
  | .handbackFlash => true
  | .handback port p => keeperPortOk port && p.wf
  | .headBeat port p => keeperPortOk port && p.wf
  | .lasersReady => true
  | .portTrainDone port failed _ => keeperPortOk port && laneSetOk failed
  | .hello port _ => keeperPortOk port
  | .linkConfirm port _ => keeperPortOk port
  | .beacon port p => keeperPortOk port && p.wf
  | .beaconSend port => keeperPortOk port
  | .verifyTimeout port => keeperPortOk port
  | .beaconLoss port => keeperPortOk port
  | .darkRetry port => keeperPortOk port
  | .sparePositionMoveDone port => keeperPortOk port
  | .laneSignalLoss port lane => keeperPortOk port && decide (lane < 9)
  | .laneChange port failed => keeperPortOk port && laneSetOk failed
  | .laserFault position => decide (position < 24)
  | .rekeyDue port => keeperPortOk port
  | .rekey port _ => keeperPortOk port
  | .parkEntry port _ => keeperPortOk port
  | .park port depth => keeperPortOk port && (decide (1 ≤ depth) && decide (depth < 4))
  | .linkWakeRequest port => keeperPortOk port
  | .wake port => keeperPortOk port
  | .wakeComplete port failed => keeperPortOk port && laneSetOk failed
  | .fabricTestStart _ => true
  | .fabricTestEnd _ _ => true
  | .clearQuar _ => true
  | .rackReport port p => keeperPortOk port && p.wf
  | .epoch port p => keeperPortOk port && p.wf
  | .epochReq port p => keeperPortOk port && p.wf
  | .linkNotice port p => keeperPortOk port && p.wf
  | .sectorVerdict v => v.wf
  | .bankLoadDone => true
  | .bankReady port p => keeperPortOk port && p.wf
  | .announce port p => keeperPortOk port && p.wf
  | .ready port p => keeperPortOk port && p.wf
  | .notReady port p => keeperPortOk port && p.wf
  | .readyDeadline => true
  | .postpone port p => keeperPortOk port && p.wf
  | .confirm port p => keeperPortOk port && p.wf
  | .goRepeat => true
  | .bankLight => true
  | .litReport port p => keeperPortOk port && p.wf
  | .withdraw port p => keeperPortOk port && p.wf
  | .rackFence rack => decide (rack < 64)
  | .agentPause _ => true
  | .agentBankLight _ => true
  | .drainGuardEnd _ => true
  | .sliceCreate c => c.wf
  | .sliceReseal c => c.wf
  | .sliceDrain c => c.wf
  | .sliceDestroy c => c.wf
  | .sliceReq port p => keeperPortOk port && p.wf
  | .admissionSolveDone => true
  | .sliceReply port p => keeperPortOk port && p.wf
  | .sliceReqTimeout => true
  | .sliceTable port p => keeperPortOk port && p.wf
  | .drainNotice port p => keeperPortOk port && p.wf
  | .drainReport port p => keeperPortOk port && p.wf
  | .sliceDone port p => keeperPortOk port && p.wf
  | .drainLimitExpiry => true
  | .planCollective c => c.wf
  | .planReq port p => keeperPortOk port && p.wf
  | .planOrder port p => keeperPortOk port && p.wf
  | .planOffer port p => keeperPortOk port && p.wf
  | .planCommit port p => keeperPortOk port && p.wf
  | .planReady port p => keeperPortOk port && p.wf
  | .planDone port p => keeperPortOk port && p.wf
  | .planMemberSilent => true
  | .planReqTimeout => true
  | .releaseLimitExpiry => true
  | .rsContrib port p => keeperPortOk port && p.wf
  | .rsResult port p => keeperPortOk port && p.wf
  | .agData port p => keeperPortOk port && p.wf
  | .barrier port p => keeperPortOk port && p.wf
  | .lampUnitDone lamp _ _ _ _ => decide (lamp < 34)
  | .spillWriteDone => true
  | .lmpInjectArm _ => true
  | .lanternContrib port p _ => keeperPortOk port && p.wf
  | .lanternPartial port p _ => keeperPortOk port && p.wf
  | .lanternNeed port p => keeperPortOk port && p.wf
  | .needTimer _ => true
  | .collectiveRetransmit _ _ _ => true
  | .recoverReq port p => keeperPortOk port && p.wf
  | .recoverClear port p => keeperPortOk port && p.wf
  | .recoverCleared port p => keeperPortOk port && p.wf
  | .recoverGo port p => keeperPortOk port && p.wf
  | .recoveryReplyTimeout => true
  | .abortCollective c => c.wf
  | .abortReq port p => keeperPortOk port && p.wf
  | .freeze port p => keeperPortOk port && p.wf
  | .frozen port p => keeperPortOk port && p.wf
  | .thaw port p => keeperPortOk port && p.wf
  | .genSpacingElapsed => true
  | .stallDetect => true
  | .stragglerDetect => true
  | .timeExchangeRequest port p => keeperPortOk port && p.wf
  | .timeExchangeReply port p => keeperPortOk port && p.wf
  | .timeFill port _ => keeperPortOk port
  | .timeAcquisitionStep => true
  | .acquisitionTimeout => true
  | .coldStart => true
  | .degradedEntry => true
  | .agentHoldover _ => true
  | .floorClear _ => true
  | .wallApply _ => true
  | .saturationWarn => true
  | .readLoadmap c => c.wf
  | .telPeakClear _ => true
  | .enrolGo _ => true
  | .enrolVerifyDone => true
  | .keyRotate _ => true
  | .attest c => c.wf
  | .issueSeal c => c.wf
  | .signatureDone => true
  | .sealRenewal => true
  | .sealPublish => true
  | .sealDirectWrite => true
  | .grantAssert _ => true
  | .grantWithdraw => true
  | .takeoverAdopt => true
  | .smbusIdent _ => true
  | .smbusHealth _ => true
  | .smbusNote _ _ => true
  | .moorDelta p => p.wf
  | .moorCommit p _ => p.wf
  | .moorAck p => p.wf
  | .moorNack p => p.wf
  | .moorStatus p _ => p.wf
  | .commitAckTimeout => true
  | .commitLoss => true
  | .deltaApply => true
  | .mirrorSelect port p => keeperPortOk port && p.wf
  | .mirrorSelectAck port p => keeperPortOk port && p.wf
  | .mirrorResend _ => true
  | .handover _ => true
  | .finalCommitTimeout => true
  | .resyncReq _ => true
  | .stateQuery port p => keeperPortOk port && p.wf
  | .stateReply port p => keeperPortOk port && p.wf
  | .graphReq port p => keeperPortOk port && p.wf
  | .graph port p => keeperPortOk port && p.wf
  | .selftestResult test _ => decide (test < 7)
  | .engineHang engine _ _ => engineOk engine
  | .engineResetDone engine => engineOk engine
  | .contextHang _ _ => true
  | .hostDmaTimeout _ => true
  | .aonWatchdog => true
  | .escalateReset c => c.wf
  | .deferredResetStart => true
  | .partResetStart => true
  | .partResetEnd => true
  | .partFitTimeout => true
  | .chipReset => true
  | .chipFitTimeout => true
  | .sampleRoomTimeout => true
  | .detectionError _ _ => true
  | .pseudoChannelCopyDone _ => true
  | .rstTestStall _ => true
  | .logEvent e => e.wf
  | .pilotLogSubmit core _ _ _ => decide (core.toNat < 18)
  | .logRingMove => true
  | .logCopyDone => true
  | .bar4Read off bytes _ => bar4Ok off && accessOk bytes
  | .bar4Write off _ => bar4Ok off
  | .agentMgmtRead agent h _ count => agentPortOk agent h.port && (decide (1 ≤ count) && decide (count ≤ 1020))
  | .agentMgmtWrite agent h _ _ => agentPortOk agent h.port
  | .agentBroadcastWrite agent h _ _ => agentPortOk agent h.port
  | .agentEventResend _ _ => true
  | .agentArm agent h _ => agentPortOk agent h.port
  | .agentDisarm agent h _ => agentPortOk agent h.port
  | .agentSetLit agent h _ => agentPortOk agent h.port
  | .agentGo agent h _ => agentPortOk agent h.port
  | .agentFreeze agent h _ => agentPortOk agent h.port
  | .agentThaw agent h _ => agentPortOk agent h.port
  | .agentCheckValue agent h _ => agentPortOk agent h.port
  | .agentCheckValueDone _ => true
  | .agentSealCommit agent h _ => agentPortOk agent h.port
  | .agentSealVerifyDone _ _ => true
  | .agentSealExpiry _ => true
  | .agentGraceEnd _ => true
  | .agentTrim agent h _ => agentPortOk agent h.port
  | .agentRate agent h _ => agentPortOk agent h.port
  | .agentStep agent h _ => agentPortOk agent h.port
  | .agentPeriodChange _ => true
  | .agentServe agent h _ => agentPortOk agent h.port
  | .agentReset _ _ => true
  | .agentLaunch _ slot => decide (slot < 256)
  | .agentTileDone _ slot => decide (slot < 256)
  | .agentLanternDeadline _ slot => decide (slot < 256)
  | .setWakeLatency c => c.wf
  | .agentRead c => c.wf
  | .agentWrite c => c.wf
  | .reservedOpcode _ c => c.wf
  | .msixSpacingExpiry vector => decide (vector < 64)
  | .functionLevelReset => true
  | .perstAssert => true
  | .d3hotEntry => true
  | .d0Return => true
  | .modReset => true
  | .powerUp role x y _ => decide (role < 2) && decide (x < 8) && decide (y < 8)
  | .railFailRetry _ => true
  | .vinDip => true
  | .vinLoss => true
  | .shutdownLimit _ => true
  | .shutdownReleaseTimeout => true
  | .thermalTrip => true
  | .throttleStep => true
  | .frefLoss => true
  | .frefRestore => true
  | .pwrPeakClear _ => true
  | .hostDmaCompletion _ _ _ => true
  | .pcieLinkTrained rate width => (decide (1 ≤ rate) && decide (rate ≤ 6)) && (width == 1 || width == 2 || width == 4)
  | .modResetDeassert => true
  | .commandWindowWrite off bytes _ => bar2Ok off && accessOk bytes
  | .keyAgreementTimeout port => keeperPortOk port
  | .testHoldRequest port _ => keeperPortOk port
  | .testHoldAgree port _ => keeperPortOk port
  | .reservedOpkindPacket port p => keeperPortOk port && p.wf
  | .linkControlBlockInvalid port _ => keeperPortOk port
  | .creditReturn party port vc _ => partyPortOk party port && decide (vc < 8)
  | .tokenBucketRefill party port vc => partyPortOk party port && decide (vc < 8)
  | .agentEventAck agent port _ => agentPortOk agent port
  | .agentFlashBoundary agent ports => agPortsOk agent ports
  | .switchPacketIngress _ port p _ => decide (port < 134) && p.wf
  | .endpointPacketArrival _ port p => decide (port < 16) && p.wf
  | .sealLow => true
  | .pilotFirmwareReplace _ => true
  | .fillPacketReceived port p => keeperPortOk port && p.wf
  | .logCopyCutShort => true
  | .autoSpare _ _ => true
  | .contextResetDone _ _ => true

end Sys2Proof
end

