-- ==== Sys2Proof/Safety.lean ====
section
/-! DEFINITION. Safety.lean: what holds in every state a run can reach, in the terms the statements use. -/
namespace Sys2Proof.Machine

/-- The register file is in its canonical form: offsets rise strictly, and no entry holds the register's reset value (State.regs). Equal register
files are then equal lists. -/
def State.regsCanonical (s : State) : Prop := s.regs.Pairwise (fun x y => x.1 < y.1) ∧ ∀ r ∈ s.regs, r.2 ≠ resetOf r.1

/-- A unit drives LIT_N only while the arbiter grants it (R363). -/
def State.litGranted (s : State) : Prop := s.mor.lit = true → s.mor.grant = true

/-- The command windows are sixteen (R467). -/
def State.sixteenWindows (s : State) : Prop := s.hif.windows.length = 16

/-- What every step keeps. -/
def State.Inv (s : State) : Prop := s.regsCanonical ∧ s.litGranted ∧ s.sixteenWindows

/-- The parts of a state beside the queue and the registers. -/
inductive Part where
  | outbox | freeCtr | tim | hif | work | chart | link | mgmt | slv | slc | clp | lmp | hbm | lnt | mor | rst | pwr | wdn | log | tel | agents
deriving DecidableEq, Repr

/-- A part is the same in two states. -/
def State.agrees (s t : State) (p : Part) : Prop :=
  match p with
  | .outbox => t.outbox = s.outbox
  | .freeCtr => t.freeCtr = s.freeCtr
  | .tim => t.tim = s.tim
  | .hif => t.hif = s.hif
  | .work => t.work = s.work
  | .chart => t.chart = s.chart
  | .link => t.link = s.link
  | .mgmt => t.mgmt = s.mgmt
  | .slv => t.slv = s.slv
  | .slc => t.slc = s.slc
  | .clp => t.clp = s.clp
  | .lmp => t.lmp = s.lmp
  | .hbm => t.hbm = s.hbm
  | .lnt => t.lnt = s.lnt
  | .mor => t.mor = s.mor
  | .rst => t.rst = s.rst
  | .pwr => t.pwr = s.pwr
  | .wdn => t.wdn = s.wdn
  | .log => t.log = s.log
  | .tel => t.tel = s.tel
  | .agents => t.agents = s.agents

/-- The 64 KiB block of BAR0 that an offset lies in, one per engine (R511); what lies beyond the last is one block. -/
def regBlock (off : Nat) : Nat := min (off / 0x10000) 31

/-- The register blocks by engine (R511). -/
inductive Blk where
  | HIF | CHT | DSC | SLV | WDN | CLP | LMP | LNT | TIM | TEL | MOR | RST | LOG | PWR
deriving DecidableEq, Repr

/-- The number of a block (R511). -/
def Blk.code : Blk → Nat
  | .HIF => 0 | .CHT => 1 | .DSC => 2 | .SLV => 4 | .WDN => 6 | .CLP => 8 | .LMP => 0xA | .LNT => 0xB | .TIM => 0xC | .TEL => 0xD
  | .MOR => 0xE | .RST => 0xF | .LOG => 0x10 | .PWR => 0x11

/-- From s to t only the listed parts and the registers of the listed blocks may change; the queue stays. -/
structure State.ChangesOnly (s t : State) (parts : List Part) (blocks : List Blk) : Prop where
  queue : t.pending = s.pending
  parts : ∀ p, p ∉ parts → s.agrees t p
  regs : ∀ off, (∀ b ∈ blocks, regBlock off ≠ b.code) → t.getReg off = s.getReg off

/-- The state in which a host command has just committed: its words written to the block, then WIN_SEQ (R468). -/
def State.committed (s : State) (c : HostCmd) (opcode : Nat) : State :=
  (((fieldAt 0 8 opcode ||| fieldAt 8 1 (b2n c.irq)) :: c.args.take 31).zipIdx.foldl (fun s x => s.writeCmdWord c.win.toNat x.2 x.1) s).commit
    c.win.toNat c.seq

/-- A KEEPER_MSG of a type arrives on a port, is accepted and is for this Keeper to act on (R17, R44, R137, R139): v is the state it leaves, stamped as
an input of its stage (R21), src its source and m the message. -/
def State.TakesMsg (s : State) (mtype port : Nat) (p : Packet) (v : State) (src : Addr) (m : KMsg) : Prop :=
  ∃ u, s.arriveMsg mtype port p = (u, some (src, m)) ∧ v = u.stageInput (msgStage m) .acted

/-- A KEEPER_MSG of a type arrives on a port and is accepted, to be taken by its flash stage at the next intake (R22): v is the state it leaves. -/
def State.StagesMsg (s : State) (mtype port : Nat) (p : Packet) (v : State) (src : Addr) (m : KMsg) : Prop :=
  s.arriveMsg mtype port p = (v, some (src, m))

/-- An agent's event of a class arrives on a port, clean, and is taken for the first time (R17, R445, R446): v is the state it leaves, acknowledged
and stamped as an input of its stage. -/
def State.TakesEvent (s : State) (cls port : Nat) (p : Packet) (v : State) (ev : AgentEvent) : Prop :=
  (s.received port p.hdr).refused port p.hdr = none ∧ eventClean p.payload = true ∧ bitsOf (wordAt p.payload 0) 0 8 = cls ∧ ev = eventOf p.hdr.src p.payload
    ∧ ∃ u, (((s.received port p.hdr).returnCredits port p.hdr).takeEvent ev) = (true, u) ∧ v = u.stageInput (eventStage cls) .acted

/-- A collective packet arrives on a port, passes the checks of R17, R47, R55 and R57 and addresses a plan (R199): v is the state its arrival leaves. -/
def State.Addresses (s : State) (port : Nat) (h : Hdr) (v : State) (q : Plan) : Prop :=
  v = s.received port h ∧ v.refused port h = none ∧ v.addressed h = some q

/-- A host command commits in its window (R364, R402, R468): the host's words reach the unit and WIN_SEQ starts it; B is the state in which its
arguments stand. -/
def State.Commits (s : State) (c : HostCmd) (opcode : Nat) (B : State) : Prop :=
  s.hostReaches = true ∧ s.commits c.win.toNat c.seq = true ∧ B = s.committed c opcode

/-- A management write of n words arrives at an agent, well formed, not broadcast, and not one already taken under its tag (R442, R443): v is the
state its arrival leaves. -/
def State.AgentAsks (s : State) (a : Addr) (h : MgmtHead) (addr n : Nat) (v : State) : Prop :=
  v = s.agCredits a h.port 0 (mgmtUnits n) ∧ h.reserved = false ∧ h.broadcast = false
    ∧ (v.agent a).kept.find? (fun k => k.tag == h.tag.toNat && k.gen == h.gen.toNat && k.addr == addr && k.words == n) = none

/-- A management write is kept under its tag and answered with a STATUS and the words of its reply (R442, R443). -/
def State.agAnswered (v : State) (a : Addr) (h : MgmtHead) (addr n status : Nat) (reply : List Word) : State :=
  (v.onAgent a fun g => { g with
    kept := (g.kept.filter fun x => !(x.tag == h.tag.toNat)) ++
      [{ tag := h.tag.toNat, gen := h.gen.toNat, addr := addr, words := n, status := status, reply := reply.take 1 }] }).mgmtReply a h addr status reply

/-- A management write was taken, and u is what it made of v: a window that became empty is reported, the write is journalled, kept and answered
with STATUS 0 (R166, R442, R443, R453). -/
def State.agTaken (v u : State) (a : Addr) (h : MgmtHead) (addr : Nat) (words reply : List Word) : State :=
  ((u.drainCheck a ((v.agent a).windowEmpty && bitAt ((v.agent a).word 0x3C) 0)).journalWrite a h addr words).agAnswered a h addr words.length 0 reply

/-- Every command that waits is one the interfaces can carry. -/
def State.queueWellFormed (s : State) : Prop := ∀ c ∈ s.pending, c.wf = true

end Sys2Proof.Machine
end

