-- ==== Sys2Proof/Certificates/Slice0/Obligations.lean ====
section
/-! DEFINITION. Certificates/Slice0/Obligations.lean: the statements for the provers. Each definition's text says what it states; OBLIGATIONS.json
lists them with the rules of spec/ they rest on. -/
open Sys2Proof Sys2Proof.Machine

/-- From every state that meets State.Inv, whatever command is at the front of the queue (or on an empty queue), a step that answers a next state answers
one that meets State.Inv: the register file stays in its canonical form, the unit's LIT driver is on only while the arbiter grants it (R363), and the
command windows stay sixteen (R467). -/
def Obligations.EveryStepKeepsInv : Prop :=
  ∀ (s t : State), s.Inv → step s = .next t → t.Inv

/-- State.Inv holds of the state after reset: nothing is listed in the register file, LIT is released, sixteen windows. -/
def Obligations.ResetMeetsInv : Prop :=
  State.reset.Inv

/-- For every command c, every list of waiting commands and every state, step with c at the front of the queue is exec of c on the state whose queue is
the rest. -/
def Obligations.StepRunsFrontCommand : Prop :=
  ∀ (c : Instr) (rest : List Instr) (s : State), step { s with pending := c :: rest } = exec c { s with pending := rest }

/-- For every command and every state exec answers a next state, never a fault and never a refusal, and the queue of that state is the queue of the state
it ran on. (The frame statements say for each row what else stays.) -/
def Obligations.ExecAnswersNextAndKeepsQueue : Prop :=
  ∀ (c : Instr) (s : State), ∃ t, exec c s = .next t ∧ t.pending = s.pending

/-- When a command is at the front of the queue, a step answers a next state whose queue is the rest of it, in order. -/
def Obligations.QueueIsFirstInFirstOut : Prop :=
  ∀ (c : Instr) (rest : List Instr) (s : State), s.pending = c :: rest → ∃ t, step s = .next t ∧ t.pending = rest

/-- With no command waiting a step answers the state in which the offset within the flash has advanced by 128 units, one core clock cycle, while that
stays below the flash's length, and in which the core cycle has ended: what the host's writes of that cycle could still meet (R12, R13) and the
opening cycle of a flash are over. Nothing else has changed. That the block idles so is the model's choice (log entry 1). -/
def Obligations.IdleStepRunsTheClock : Prop :=
  ∀ (s : State), s.pending = [] → ∃ t, step s = .next t ∧ t.pending = [] ∧ t.regs = s.regs ∧ (∀ p, p ≠ .tim → p ≠ .hif → p ≠ .work → s.agrees t p) ∧ t.hif = { s.hif with sets := [], again := [] } ∧ t.work = { s.work with opening := false } ∧ t.tim = { s.tim with offset := if s.tim.offset + 128 < s.flashUnits then s.tim.offset + 128 else s.tim.offset }

/-- The operations that count (State.count for a field, State.countReg for a whole register) leave the counter at the smaller of its maximum and the sum:
it never wraps. Every other register is unchanged, and so is every field that shares no bit with the counter. Counts whose description says that they
wrap are not raised by these operations. -/
def Obligations.CountersHoldAtTheirMaximum : Prop :=
  (∀ (s : State) (f : Fld) (n : Nat), f.lo + f.width ≤ 32 → (s.count f n).getF f = min (2 ^ f.width - 1) (s.getF f + n))
  ∧ (∀ (s : State) (f g : Fld) (n : Nat), g.lo + g.width ≤ 32 → (f.off ≠ g.off ∨ f.lo + f.width ≤ g.lo ∨ g.lo + g.width ≤ f.lo) → (s.count f n).getF g = s.getF g)
  ∧ (∀ (s : State) (off n : Nat), ((s.countReg off n).getReg off).toNat = min (2 ^ 32 - 1) ((s.getReg off).toNat + n) ∧ ∀ o, o ≠ off → (s.countReg off n).getReg o = s.getReg o)

/-- UNALIGNED_READ, LOW_HALF_READ and REGISTER_WRITE by width and alignment (R9), for a host request that reaches the unit. A 32-bit read at a multiple of
4 and a 64-bit read at a multiple of 8 take their registers, the lower first. A narrower read within one register leaves the state that the 32-bit
read of it leaves, and its data are the bytes addressed. Every other read answers 0 in every byte, keeps every latch and every register but the error
status (R484), where it is recorded as an access; a narrower or an unaligned write is ignored and recorded so. An aligned write writes its registers,
the lower first. -/
def Obligations.NarrowAndUnalignedAccesses : Prop :=
  (∀ (s : State) (off : Nat), s.hostReaches = true → off % 4 = 0 → exec (.lowHalfRead off 4) s = .next ((s.readWord off).2.send (.readData (BitVec.ofNat 64 (s.readWord off).1.toNat))))
  ∧ (∀ (s : State) (off : Nat), s.hostReaches = true → off % 8 = 0 → exec (.lowHalfRead off 8) s = .next (((s.readWord off).2.readWord (off + 4)).2.send (.readData (((s.readWord off).2.readWord (off + 4)).1 ++ (s.readWord off).1))))
  ∧ (∀ (s : State) (off bytes : Nat), s.hostReaches = true → (0 < bytes ∧ bytes < 4 ∧ off % 4 + bytes ≤ 4) → exec (.lowHalfRead off bytes) s = .next ((s.readWord (off - off % 4)).2.send (.readData (BitVec.ofNat 64 ((s.readWord (off - off % 4)).1.toNat / 2 ^ (8 * (off % 4)) % 2 ^ (8 * bytes))))))
  ∧ (∀ (s : State) (off bytes : Nat), s.hostReaches = true → ((bytes = 4 ∧ off % 4 ≠ 0) ∨ (bytes = 8 ∧ off % 8 ≠ 0) ∨ (0 < bytes ∧ bytes < 4 ∧ 4 < off % 4 + bytes)) → ∃ t, exec (.unalignedRead off bytes) s = .next t ∧ t.outbox.head? = some (.readData 0) ∧ t.hif.latches = s.hif.latches ∧ t.hif.nowLatch = s.hif.nowLatch ∧ t.flag Fld.HIF_ERR_STATUS_ACCESS = true ∧ (t.getReg Reg.HIF_ERR_COUNT).toNat = min (2 ^ 32 - 1) ((s.getReg Reg.HIF_ERR_COUNT).toNat + 1) ∧ (s.getReg Reg.HIF_ERR_STATUS = 0 → t.getReg Reg.HIF_ERR_WHERE = w32 (off / 4 * 4)) ∧ ∀ o, o ≠ Reg.HIF_ERR_STATUS → o ≠ Reg.HIF_ERR_WHERE → o ≠ Reg.HIF_ERR_COUNT → o ≠ Reg.HIF_INT_STATUS → t.getReg o = s.getReg o)
  ∧ (∀ (s : State) (off bytes : Nat) (v : BitVec 64) (same : Bool), s.hostReaches = true → (¬ (bytes = 4 ∧ off % 4 = 0) ∧ ¬ (bytes = 8 ∧ off % 8 = 0)) → ∃ t, exec (.registerWrite off bytes v same) s = .next t ∧ t.hif.latches = s.hif.latches ∧ t.hif.nowLatch = s.hif.nowLatch ∧ t.flag Fld.HIF_ERR_STATUS_ACCESS = true ∧ (t.getReg Reg.HIF_ERR_COUNT).toNat = min (2 ^ 32 - 1) ((s.getReg Reg.HIF_ERR_COUNT).toNat + 1) ∧ (s.getReg Reg.HIF_ERR_STATUS = 0 → t.getReg Reg.HIF_ERR_WHERE = w32 (off / 4 * 4)) ∧ ∀ o, o ≠ Reg.HIF_ERR_STATUS → o ≠ Reg.HIF_ERR_WHERE → o ≠ Reg.HIF_ERR_COUNT → o ≠ Reg.HIF_INT_STATUS → t.getReg o = s.getReg o)
  ∧ (∀ (s : State) (off : Nat) (v : BitVec 64) (same : Bool), s.hostReaches = true → (off % 4 = 0 → exec (.registerWrite off 4 v same) s = .next (s.hostWrite off (v.extractLsb' 0 32) same)) ∧ (off % 8 = 0 → exec (.registerWrite off 8 v same) s = .next ((s.hostWrite off (v.extractLsb' 0 32) same).hostWrite (off + 4) (v.extractLsb' 32 32) same)))

/-- For every register of the index, every value and every state: the operation that a host write goes through (State.writeReg, which every REGISTER_WRITE
that takes its register calls) leaves each bit that has no access code RW, WO, W1C or W1S as it stood. What the register's owner does with the bits
that were written is stated elsewhere (RequestRegisterWrites). -/
def Obligations.ReservedBitsIgnoreWrites : Prop :=
  ∀ (s : State) (off i : Nat) (v : Word) (same : Bool) (row : RegRow), regRow off = some row → i < 32 → bitAt (row.rw ||| row.w1c ||| row.w1s) i = false → bitAt ((s.writeReg off v same).getReg off) i = bitAt (s.getReg off) i

/-- For every bit of the index whose access code is W1C: after the Keeper raises it (State.raise), a host write of its register in the same core cycle
leaves it reading 1, whatever the write holds, so no event is lost to a clear. A write of 1 in another cycle clears it, where the register is served
(R512). -/
def Obligations.EventAndClearInOneCycle : Prop :=
  (∀ (s : State) (f : Fld) (v : Word) (row : RegRow), regRow f.off = some row → (f.width = 1 ∧ f.lo < 32) → (bitAt row.w1c f.lo = true ∧ bitAt row.rw f.lo = false) → ((s.raise f).writeReg f.off v true).flag f = true)
  ∧ (∀ (s : State) (off i : Nat) (v : Word) (row : RegRow), regRow off = some row → i < 32 → (bitAt row.w1c i = true ∧ bitAt (row.rw ||| row.w1s) i = false) → (s.resetLevel = 4 → servedInLevel4 off = true) → bitAt v i = true → bitAt ((s.writeReg off v false).getReg off) i = false)

/-- Each row of host accesses, the host commands without a family of their own and the PCIe events answers a next state with the queue as it was, and
leaves every part of the state but the listed ones, and every register outside the listed register blocks; a row whose effect may write a register of
any block (a host write and what it starts, a reset) leaves the parts that are not listed. -/
def Obligations.HostRowsFrame : Prop :=
  (∀ (off : Nat) (bytes : Nat) (value : BitVec 64) (same : Bool) (s : State), ∃ t, exec (.registerWrite off bytes value same) s = .next t ∧ t.pending = s.pending ∧ ∀ p, p ∉ [Part.outbox, Part.tim, Part.hif, Part.work, Part.link, Part.mgmt, Part.slv, Part.clp, Part.lmp, Part.mor, Part.rst, Part.wdn, Part.log, Part.tel] → s.agrees t p)
  ∧ (∀ (off : Nat) (bytes : Nat) (s : State), ∃ t, exec (.lowHalfRead off bytes) s = .next t ∧ s.ChangesOnly t [.outbox, .hif] [.HIF])
  ∧ (∀ (off : Nat) (bytes : Nat) (s : State), ∃ t, exec (.unalignedRead off bytes) s = .next t ∧ s.ChangesOnly t [.outbox, .hif] [.HIF])
  ∧ (∀ (value : Word) (s : State), ∃ t, exec (.serialFloorWrite value) s = .next t ∧ t.pending = s.pending ∧ ∀ p, p ∉ [Part.outbox, Part.tim, Part.hif, Part.work, Part.link, Part.mgmt, Part.slv, Part.clp, Part.lmp, Part.mor, Part.rst, Part.wdn, Part.log, Part.tel] → s.agrees t p)
  ∧ (∀ (value : Word) (s : State), ∃ t, exec (.fabricTestStart value) s = .next t ∧ t.pending = s.pending ∧ ∀ p, p ∉ [Part.outbox, Part.tim, Part.hif, Part.work, Part.link, Part.mgmt, Part.slv, Part.clp, Part.lmp, Part.mor, Part.rst, Part.wdn, Part.log, Part.tel] → s.agrees t p)
  ∧ (∀ (value : Word) (s : State), ∃ t, exec (.clearQuar value) s = .next t ∧ t.pending = s.pending ∧ ∀ p, p ∉ [Part.outbox, Part.tim, Part.hif, Part.work, Part.link, Part.mgmt, Part.slv, Part.clp, Part.lmp, Part.mor, Part.rst, Part.wdn, Part.log, Part.tel] → s.agrees t p)
  ∧ (∀ (value : Word) (s : State), ∃ t, exec (.lmpInjectArm value) s = .next t ∧ t.pending = s.pending ∧ ∀ p, p ∉ [Part.outbox, Part.tim, Part.hif, Part.work, Part.link, Part.mgmt, Part.slv, Part.clp, Part.lmp, Part.mor, Part.rst, Part.wdn, Part.log, Part.tel] → s.agrees t p)
  ∧ (∀ (value : Word) (s : State), ∃ t, exec (.floorClear value) s = .next t ∧ t.pending = s.pending ∧ ∀ p, p ∉ [Part.outbox, Part.tim, Part.hif, Part.work, Part.link, Part.mgmt, Part.slv, Part.clp, Part.lmp, Part.mor, Part.rst, Part.wdn, Part.log, Part.tel] → s.agrees t p)
  ∧ (∀ (value : Word) (s : State), ∃ t, exec (.wallApply value) s = .next t ∧ t.pending = s.pending ∧ ∀ p, p ∉ [Part.outbox, Part.tim, Part.hif, Part.work, Part.link, Part.mgmt, Part.slv, Part.clp, Part.lmp, Part.mor, Part.rst, Part.wdn, Part.log, Part.tel] → s.agrees t p)
  ∧ (∀ (value : Word) (s : State), ∃ t, exec (.telPeakClear value) s = .next t ∧ t.pending = s.pending ∧ ∀ p, p ∉ [Part.outbox, Part.tim, Part.hif, Part.work, Part.link, Part.mgmt, Part.slv, Part.clp, Part.lmp, Part.mor, Part.rst, Part.wdn, Part.log, Part.tel] → s.agrees t p)
  ∧ (∀ (value : Word) (s : State), ∃ t, exec (.enrolGo value) s = .next t ∧ t.pending = s.pending ∧ ∀ p, p ∉ [Part.outbox, Part.tim, Part.hif, Part.work, Part.link, Part.mgmt, Part.slv, Part.clp, Part.lmp, Part.mor, Part.rst, Part.wdn, Part.log, Part.tel] → s.agrees t p)
  ∧ (∀ (value : Word) (s : State), ∃ t, exec (.keyRotate value) s = .next t ∧ t.pending = s.pending ∧ ∀ p, p ∉ [Part.outbox, Part.tim, Part.hif, Part.work, Part.link, Part.mgmt, Part.slv, Part.clp, Part.lmp, Part.mor, Part.rst, Part.wdn, Part.log, Part.tel] → s.agrees t p)
  ∧ (∀ (value : Word) (s : State), ∃ t, exec (.handover value) s = .next t ∧ t.pending = s.pending ∧ ∀ p, p ∉ [Part.outbox, Part.tim, Part.hif, Part.work, Part.link, Part.mgmt, Part.slv, Part.clp, Part.lmp, Part.mor, Part.rst, Part.wdn, Part.log, Part.tel] → s.agrees t p)
  ∧ (∀ (value : Word) (s : State), ∃ t, exec (.resyncReq value) s = .next t ∧ t.pending = s.pending ∧ ∀ p, p ∉ [Part.outbox, Part.tim, Part.hif, Part.work, Part.link, Part.mgmt, Part.slv, Part.clp, Part.lmp, Part.mor, Part.rst, Part.wdn, Part.log, Part.tel] → s.agrees t p)
  ∧ (∀ (value : Word) (s : State), ∃ t, exec (.rstTestStall value) s = .next t ∧ t.pending = s.pending ∧ ∀ p, p ∉ [Part.outbox, Part.tim, Part.hif, Part.work, Part.link, Part.mgmt, Part.slv, Part.clp, Part.lmp, Part.mor, Part.rst, Part.wdn, Part.log, Part.tel] → s.agrees t p)
  ∧ (∀ (c : HostCmd) (s : State), ∃ t, exec (.setWakeLatency c) s = .next t ∧ s.ChangesOnly t [.outbox, .hif, .work, .rst] [.HIF])
  ∧ (∀ (c : HostCmd) (s : State), ∃ t, exec (.agentRead c) s = .next t ∧ s.ChangesOnly t [.outbox, .hif, .link, .mgmt, .rst] [.HIF])
  ∧ (∀ (c : HostCmd) (s : State), ∃ t, exec (.agentWrite c) s = .next t ∧ s.ChangesOnly t [.outbox, .hif, .link, .mgmt, .slv, .rst] [.HIF])
  ∧ (∀ (opcode : Byte) (c : HostCmd) (s : State), ∃ t, exec (.reservedOpcode opcode c) s = .next t ∧ t.pending = s.pending ∧ ∀ p, p ∉ [Part.outbox, Part.freeCtr, Part.tim, Part.hif, Part.work, Part.chart, Part.link, Part.mgmt, Part.slv, Part.slc, Part.clp, Part.lmp, Part.lnt, Part.mor, Part.rst, Part.pwr, Part.wdn, Part.log, Part.tel, Part.agents, Part.hbm] → s.agrees t p)
  ∧ (∀ (vector : Nat) (s : State), ∃ t, exec (.msixSpacingExpiry vector) s = .next t ∧ s.ChangesOnly t [.outbox, .hif] [])
  ∧ (∀ (s : State), ∃ t, exec .functionLevelReset s = .next t ∧ s.ChangesOnly t [.outbox, .freeCtr, .hif, .work, .chart, .link, .mgmt, .slc, .clp, .lmp, .lnt, .mor, .rst, .wdn, .log, .tel] [.WDN, .MOR, .RST, .LOG])
  ∧ (∀ (s : State), ∃ t, exec .perstAssert s = .next t ∧ s.ChangesOnly t [.outbox, .freeCtr, .hif, .work, .chart, .link, .mgmt, .slc, .clp, .lmp, .lnt, .mor, .rst, .wdn, .log, .tel] [.WDN, .MOR, .RST, .LOG])
  ∧ (∀ (s : State), ∃ t, exec .d3hotEntry s = .next t ∧ s.ChangesOnly t [.hif] [])
  ∧ (∀ (s : State), ∃ t, exec .d0Return s = .next t ∧ s.ChangesOnly t [.outbox, .hif] [])
  ∧ (∀ (value : Word) (s : State), ∃ t, exec (.pwrPeakClear value) s = .next t ∧ t.pending = s.pending ∧ ∀ p, p ∉ [Part.outbox, Part.tim, Part.hif, Part.work, Part.link, Part.mgmt, Part.slv, Part.clp, Part.lmp, Part.mor, Part.rst, Part.wdn, Part.log, Part.tel] → s.agrees t p)
  ∧ (∀ (rate : Nat) (width : Nat) (s : State), ∃ t, exec (.pcieLinkTrained rate width) s = .next t ∧ s.ChangesOnly t [.outbox, .hif] [.HIF])
  ∧ (∀ (off : Nat) (bytes : Nat) (value : BitVec 64) (s : State), ∃ t, exec (.commandWindowWrite off bytes value) s = .next t ∧ t.pending = s.pending ∧ ∀ p, p ∉ [Part.outbox, Part.freeCtr, Part.tim, Part.hif, Part.work, Part.chart, Part.link, Part.mgmt, Part.slv, Part.slc, Part.clp, Part.lmp, Part.lnt, Part.mor, Part.rst, Part.pwr, Part.wdn, Part.log, Part.tel, Part.agents, Part.hbm] → s.agrees t p)
  ∧ (∀ (rst : Bool) (value : Word) (s : State), ∃ t, exec (.autoSpare rst value) s = .next t ∧ t.pending = s.pending ∧ ∀ p, p ∉ [Part.outbox, Part.tim, Part.hif, Part.work, Part.link, Part.mgmt, Part.slv, Part.clp, Part.lmp, Part.mor, Part.rst, Part.wdn, Part.log, Part.tel] → s.agrees t p)

/-- Each row of the flash boundary, batches, proposals, head duty and drains answers a next state with the queue as it was, and leaves every part of the
state but the listed ones, and every register outside the listed register blocks; a row whose effect may write a register of any block (a host write
and what it starts, a reset) leaves the parts that are not listed. -/
def Obligations.FlashAndHeadRowsFrame : Prop :=
  (∀ (m : FlashMeas) (s : State), ∃ t, exec (.flashBoundary m) s = .next t ∧ t.pending = s.pending ∧ ∀ p, p ∉ [Part.outbox, Part.tim, Part.hif, Part.work, Part.chart, Part.link, Part.mgmt, Part.slv, Part.slc, Part.clp, Part.lmp, Part.lnt, Part.mor, Part.rst, Part.pwr, Part.wdn, Part.log, Part.tel, Part.hbm] → s.agrees t p)
  ∧ (∀ (stage : StageId) (failedLanes : List Nat) (s : State), ∃ t, exec (.batchClose stage failedLanes) s = .next t ∧ s.ChangesOnly t [.outbox, .hif, .work, .chart, .link, .slv, .rst, .log] [.SLV, .RST, .LOG])
  ∧ (∀ (p : Proposal) (s : State), ∃ t, exec (.proposalArrival p) s = .next t ∧ s.ChangesOnly t [.outbox, .hif, .work, .rst, .log] [.LOG])
  ∧ (∀ (request : Nat) (s : State), ∃ t, exec (.proposalFallback request) s = .next t ∧ s.ChangesOnly t [.outbox, .hif, .work] [.CLP])
  ∧ (∀ (port : Nat) (p : Packet) (s : State), ∃ t, exec (.drainEmptyEvent port p) s = .next t ∧ s.ChangesOnly t [.outbox, .hif, .work, .link, .mgmt, .slc, .rst, .log] [.LOG])
  ∧ (∀ (s : State), ∃ t, exec .actingHeadEntry s = .next t ∧ s.ChangesOnly t [.outbox, .tim, .hif, .chart, .link, .slv, .clp] [.CHT, .SLV, .TIM])
  ∧ (∀ (s : State), ∃ t, exec .handbackFlash s = .next t ∧ s.ChangesOnly t [.outbox, .tim, .hif, .chart, .slv, .clp] [.CHT, .SLV, .TIM])
  ∧ (∀ (port : Nat) (p : Packet) (s : State), ∃ t, exec (.handback port p) s = .next t ∧ s.ChangesOnly t [.outbox, .hif, .work, .chart, .link, .slv, .rst, .log] [.SLV, .LOG])
  ∧ (∀ (port : Nat) (p : Packet) (s : State), ∃ t, exec (.headBeat port p) s = .next t ∧ s.ChangesOnly t [.outbox, .hif, .work, .chart, .link, .slv, .rst, .log] [.CHT, .SLV, .LOG])
  ∧ (∀ (port : Nat) (p : Packet) (s : State), ∃ t, exec (.drainNotice port p) s = .next t ∧ s.ChangesOnly t [.outbox, .hif, .work, .chart, .link, .mgmt, .slv, .slc, .clp, .rst, .log] [.SLV, .WDN, .LOG])
  ∧ (∀ (port : Nat) (p : Packet) (s : State), ∃ t, exec (.drainReport port p) s = .next t ∧ s.ChangesOnly t [.outbox, .hif, .work, .chart, .link, .slv, .slc, .rst, .log] [.SLV, .LOG])
  ∧ (∀ (port : Nat) (p : Packet) (s : State), ∃ t, exec (.sliceDone port p) s = .next t ∧ s.ChangesOnly t [.outbox, .hif, .work, .chart, .link, .slv, .slc, .rst, .log] [.SLV, .WDN, .LOG])

/-- Each row of charts: load, store, lighting and its withdrawal answers a next state with the queue as it was, and leaves every part of the state but the
listed ones, and every register outside the listed register blocks; a row whose effect may write a register of any block (a host write and what it
starts, a reset) leaves the parts that are not listed. -/
def Obligations.ChartRowsFrame : Prop :=
  (∀ (c : HostCmd) (s : State), ∃ t, exec (.loadChart c) s = .next t ∧ s.ChangesOnly t [.outbox, .hif, .chart, .rst, .log] [.HIF, .CHT, .LOG])
  ∧ (∀ (slot : Nat) (s : State), ∃ t, exec (.chartCheckDone slot) s = .next t ∧ s.ChangesOnly t [.work] [])
  ∧ (∀ (c : HostCmd) (s : State), ∃ t, exec (.store c) s = .next t ∧ s.ChangesOnly t [.outbox, .hif, .chart, .rst, .log] [.HIF, .CHT, .LOG])
  ∧ (∀ (failedBlocks : Nat) (s : State), ∃ t, exec (.storeWriteDone failedBlocks) s = .next t ∧ s.ChangesOnly t [.outbox, .hif, .work, .chart, .rst, .log, .tel] [.CHT, .WDN, .RST, .LOG])
  ∧ (∀ (s : State), ∃ t, exec .bootChartLight s = .next t ∧ s.ChangesOnly t [.outbox, .tim, .hif, .work, .chart, .link, .mgmt, .slv, .clp, .mor, .rst, .log] [.CHT, .DSC, .WDN, .CLP, .LMP, .LNT, .TIM, .MOR, .RST, .LOG, .PWR])
  ∧ (∀ (c : HostCmd) (s : State), ∃ t, exec (.lightChart c) s = .next t ∧ s.ChangesOnly t [.outbox, .hif, .work, .rst] [.HIF])
  ∧ (∀ (s : State), ∃ t, exec .chartLight s = .next t ∧ s.ChangesOnly t [.outbox, .tim, .hif, .work, .chart, .link, .mgmt, .slv, .clp, .mor, .rst, .log] [.CHT, .DSC, .WDN, .CLP, .LMP, .LNT, .TIM, .MOR, .RST, .LOG, .PWR])
  ∧ (∀ (s : State), ∃ t, exec .chartAnnounceWithdrawal s = .next t ∧ s.ChangesOnly t [.outbox, .hif, .chart, .link, .rst, .log] [.CHT, .LOG])
  ∧ (∀ (s : State), ∃ t, exec .bankLight s = .next t ∧ s.ChangesOnly t [.outbox, .hif, .work, .link, .mgmt, .slv, .slc, .clp, .lmp, .lnt, .rst, .wdn, .log, .hbm] [.DSC, .SLV, .WDN, .CLP, .LMP, .LNT, .LOG])

/-- Each row of the Keeper's ports, lanes, lasers, parking and egress answers a next state with the queue as it was, and leaves every part of the state
but the listed ones, and every register outside the listed register blocks; a row whose effect may write a register of any block (a host write and
what it starts, a reset) leaves the parts that are not listed. -/
def Obligations.PortRowsFrame : Prop :=
  (∀ (port : Nat) (header : List Word) (lanes : Nat) (s : State), ∃ t, exec (.hcrcError port header lanes) s = .next t ∧ s.ChangesOnly t [.link] [])
  ∧ (∀ (port : Nat) (f : WireFrame) (lanes : Nat) (s : State), ∃ t, exec (.frameCheckError port f lanes) s = .next t ∧ s.ChangesOnly t [.outbox, .hif, .work, .link, .mgmt, .clp, .mor, .rst, .log] [.DSC, .CLP, .MOR, .LOG])
  ∧ (∀ (party : Option Addr) (port : Nat) (s : State), ∃ t, exec (.egressPacketBoundary party port) s = .next t ∧ s.ChangesOnly t [.outbox, .link, .agents] [])
  ∧ (∀ (port : Nat) (p : Packet) (s : State), ∃ t, exec (.windowAck port p) s = .next t ∧ s.ChangesOnly t [.outbox, .hif, .link, .clp, .rst, .log, .tel] [.LOG])
  ∧ (∀ (party : Option Addr) (port : Nat) (s : State), ∃ t, exec (.resyncMark party port) s = .next t ∧ s.ChangesOnly t [.outbox, .link, .agents] [])
  ∧ (∀ (party : Option Addr) (port : Nat) (units : List Nat) (s : State), ∃ t, exec (.resyncGrant party port units) s = .next t ∧ s.ChangesOnly t [.link, .agents] [])
  ∧ (∀ (port : Nat) (p : Packet) (s : State), ∃ t, exec (.portChangeEvent port p) s = .next t ∧ s.ChangesOnly t [.outbox, .hif, .work, .link, .mgmt, .rst, .log] [.LOG])
  ∧ (∀ (port : Nat) (p : Packet) (s : State), ∃ t, exec (.agentResetEvent port p) s = .next t ∧ s.ChangesOnly t [.outbox, .tim, .hif, .work, .link, .mgmt, .clp, .rst, .log] [.CLP, .LOG])
  ∧ (∀ (port : Nat) (p : Packet) (s : State), ∃ t, exec (.goMissingEvent port p) s = .next t ∧ s.ChangesOnly t [.outbox, .hif, .work, .link, .mgmt, .slv, .rst, .log] [.SLV, .LOG])
  ∧ (∀ (s : State), ∃ t, exec .lasersReady s = .next t ∧ s.ChangesOnly t [.link] [])
  ∧ (∀ (port : Nat) (failed : Nat) (loopbackOk : Bool) (s : State), ∃ t, exec (.portTrainDone port failed loopbackOk) s = .next t ∧ s.ChangesOnly t [.outbox, .freeCtr, .hif, .work, .link, .mgmt, .clp, .mor, .rst, .log] [.DSC, .CLP, .MOR, .RST, .LOG])
  ∧ (∀ (port : Nat) (bytes : List Byte) (s : State), ∃ t, exec (.hello port bytes) s = .next t ∧ s.ChangesOnly t [.outbox, .hif, .work, .link, .mgmt, .clp, .mor, .rst, .wdn, .log] [.DSC, .WDN, .CLP, .MOR, .LOG])
  ∧ (∀ (port : Nat) (bytes : List Byte) (s : State), ∃ t, exec (.linkConfirm port bytes) s = .next t ∧ s.ChangesOnly t [.outbox, .hif, .work, .link, .mgmt, .clp, .mor, .rst, .log] [.DSC, .WDN, .CLP, .MOR, .LOG])
  ∧ (∀ (port : Nat) (p : Packet) (s : State), ∃ t, exec (.beacon port p) s = .next t ∧ s.ChangesOnly t [.outbox, .hif, .work, .link, .mgmt, .clp, .mor, .rst, .log] [.DSC, .CLP, .MOR, .LOG])
  ∧ (∀ (port : Nat) (s : State), ∃ t, exec (.beaconSend port) s = .next t ∧ s.ChangesOnly t [.link] [])
  ∧ (∀ (port : Nat) (s : State), ∃ t, exec (.verifyTimeout port) s = .next t ∧ s.ChangesOnly t [.outbox, .hif, .work, .link, .mgmt, .clp, .mor, .rst, .log] [.DSC, .CLP, .MOR, .LOG])
  ∧ (∀ (port : Nat) (s : State), ∃ t, exec (.beaconLoss port) s = .next t ∧ s.ChangesOnly t [.outbox, .hif, .work, .link, .mgmt, .clp, .mor, .rst, .log] [.DSC, .CLP, .MOR, .LOG])
  ∧ (∀ (port : Nat) (s : State), ∃ t, exec (.darkRetry port) s = .next t ∧ s.ChangesOnly t [.outbox, .hif, .work, .link, .mgmt, .clp, .mor, .rst, .log] [.DSC, .CLP, .MOR, .LOG])
  ∧ (∀ (port : Nat) (s : State), ∃ t, exec (.sparePositionMoveDone port) s = .next t ∧ s.ChangesOnly t [.outbox, .hif, .work, .link, .mgmt, .clp, .mor, .rst, .log] [.DSC, .CLP, .MOR, .RST, .LOG])
  ∧ (∀ (port : Nat) (lane : Nat) (s : State), ∃ t, exec (.laneSignalLoss port lane) s = .next t ∧ s.ChangesOnly t [.outbox, .hif, .work, .link, .mgmt, .clp, .mor, .rst, .log] [.DSC, .CLP, .MOR, .RST, .LOG])
  ∧ (∀ (port : Nat) (failed : Nat) (s : State), ∃ t, exec (.laneChange port failed) s = .next t ∧ s.ChangesOnly t [.outbox, .hif, .work, .link, .mgmt, .clp, .mor, .rst, .log] [.DSC, .CLP, .MOR, .RST, .LOG])
  ∧ (∀ (position : Nat) (s : State), ∃ t, exec (.laserFault position) s = .next t ∧ s.ChangesOnly t [.outbox, .hif, .work, .link, .mgmt, .clp, .mor, .rst, .log] [.DSC, .CLP, .MOR, .RST, .LOG])
  ∧ (∀ (port : Nat) (s : State), ∃ t, exec (.rekeyDue port) s = .next t ∧ s.ChangesOnly t [.outbox, .link] [])
  ∧ (∀ (port : Nat) (epoch : Word) (s : State), ∃ t, exec (.rekey port epoch) s = .next t ∧ s.ChangesOnly t [.link] [])
  ∧ (∀ (port : Nat) (lanes : Option Nat) (s : State), ∃ t, exec (.parkEntry port lanes) s = .next t ∧ s.ChangesOnly t [.outbox, .hif, .work, .link, .mgmt, .clp, .mor, .rst, .log] [.DSC, .CLP, .MOR, .LOG])
  ∧ (∀ (port : Nat) (depth : Nat) (s : State), ∃ t, exec (.park port depth) s = .next t ∧ s.ChangesOnly t [.outbox, .hif, .work, .link, .mgmt, .clp, .mor, .rst, .log] [.DSC, .CLP, .MOR, .LOG])
  ∧ (∀ (port : Nat) (s : State), ∃ t, exec (.linkWakeRequest port) s = .next t ∧ s.ChangesOnly t [.outbox, .link] [])
  ∧ (∀ (port : Nat) (s : State), ∃ t, exec (.wake port) s = .next t ∧ s.ChangesOnly t [.link] [])
  ∧ (∀ (port : Nat) (failed : Nat) (s : State), ∃ t, exec (.wakeComplete port failed) s = .next t ∧ s.ChangesOnly t [.outbox, .hif, .work, .link, .mgmt, .clp, .mor, .rst, .log] [.DSC, .CLP, .MOR, .LOG])
  ∧ (∀ (bits : Nat) (errors : List Nat) (s : State), ∃ t, exec (.fabricTestEnd bits errors) s = .next t ∧ t.pending = s.pending ∧ ∀ p, p ∉ [Part.outbox, Part.hif, Part.link] → s.agrees t p)
  ∧ (∀ (port : Nat) (s : State), ∃ t, exec (.keyAgreementTimeout port) s = .next t ∧ s.ChangesOnly t [.outbox, .hif, .work, .link, .mgmt, .clp, .mor, .rst, .log] [.DSC, .CLP, .MOR, .LOG])
  ∧ (∀ (port : Nat) (hold : Bool) (s : State), ∃ t, exec (.testHoldRequest port hold) s = .next t ∧ s.ChangesOnly t [.outbox, .link] [])
  ∧ (∀ (port : Nat) (agrees : Bool) (s : State), ∃ t, exec (.testHoldAgree port agrees) s = .next t ∧ s.ChangesOnly t [.link] [])
  ∧ (∀ (port : Nat) (p : Packet) (s : State), ∃ t, exec (.reservedOpkindPacket port p) s = .next t ∧ s.ChangesOnly t [.outbox, .hif, .link, .rst, .log] [.LOG])
  ∧ (∀ (port : Nat) (block : BitVec 128) (s : State), ∃ t, exec (.linkControlBlockInvalid port block) s = .next t ∧ s.ChangesOnly t [.link] [])
  ∧ (∀ (party : Option Addr) (port : Nat) (vc : Nat) (units : Nat) (s : State), ∃ t, exec (.creditReturn party port vc units) s = .next t ∧ s.ChangesOnly t [.link, .agents] [])
  ∧ (∀ (party : Option Addr) (port : Nat) (vc : Nat) (s : State), ∃ t, exec (.tokenBucketRefill party port vc) s = .next t ∧ s.ChangesOnly t [.link, .agents] [])

/-- Each row of the route solver, the bank cycle and slices answers a next state with the queue as it was, and leaves every part of the state but the
listed ones, and every register outside the listed register blocks; a row whose effect may write a register of any block (a host write and what it
starts, a reset) leaves the parts that are not listed. -/
def Obligations.SolverRowsFrame : Prop :=
  (∀ (port : Nat) (p : Packet) (s : State), ∃ t, exec (.rackReport port p) s = .next t ∧ s.ChangesOnly t [.outbox, .hif, .work, .chart, .link, .slv, .rst, .log] [.SLV, .LOG])
  ∧ (∀ (port : Nat) (p : Packet) (s : State), ∃ t, exec (.epoch port p) s = .next t ∧ s.ChangesOnly t [.outbox, .hif, .work, .chart, .link, .slv, .rst, .log] [.SLV, .LOG])
  ∧ (∀ (port : Nat) (p : Packet) (s : State), ∃ t, exec (.epochReq port p) s = .next t ∧ s.ChangesOnly t [.outbox, .hif, .work, .chart, .link, .slv, .rst, .log] [.SLV, .LOG])
  ∧ (∀ (port : Nat) (p : Packet) (s : State), ∃ t, exec (.linkNotice port p) s = .next t ∧ s.ChangesOnly t [.outbox, .hif, .work, .chart, .link, .mgmt, .slv, .clp, .rst, .log] [.SLV, .CLP, .LOG])
  ∧ (∀ (v : Verdict) (s : State), ∃ t, exec (.sectorVerdict v) s = .next t ∧ s.ChangesOnly t [.work] [])
  ∧ (∀ (s : State), ∃ t, exec .bankLoadDone s = .next t ∧ s.ChangesOnly t [.outbox, .work, .link, .mgmt, .slv] [.SLV])
  ∧ (∀ (port : Nat) (p : Packet) (s : State), ∃ t, exec (.bankReady port p) s = .next t ∧ s.ChangesOnly t [.outbox, .hif, .work, .chart, .link, .slv, .rst, .log] [.SLV, .LOG])
  ∧ (∀ (port : Nat) (p : Packet) (s : State), ∃ t, exec (.announce port p) s = .next t ∧ s.ChangesOnly t [.outbox, .hif, .work, .chart, .link, .mgmt, .slv, .rst, .log] [.CHT, .SLV, .LOG])
  ∧ (∀ (port : Nat) (p : Packet) (s : State), ∃ t, exec (.ready port p) s = .next t ∧ s.ChangesOnly t [.outbox, .hif, .work, .chart, .link, .slv, .rst, .log] [.SLV, .LOG])
  ∧ (∀ (port : Nat) (p : Packet) (s : State), ∃ t, exec (.notReady port p) s = .next t ∧ s.ChangesOnly t [.outbox, .hif, .work, .chart, .link, .slv, .slc, .rst, .log] [.CHT, .SLV, .WDN, .LOG])
  ∧ (∀ (s : State), ∃ t, exec .readyDeadline s = .next t ∧ s.ChangesOnly t [.outbox, .hif, .chart, .link, .slv] [.CHT])
  ∧ (∀ (port : Nat) (p : Packet) (s : State), ∃ t, exec (.postpone port p) s = .next t ∧ s.ChangesOnly t [.outbox, .hif, .work, .chart, .link, .mgmt, .slv, .rst, .log] [.CHT, .SLV, .LOG])
  ∧ (∀ (port : Nat) (p : Packet) (s : State), ∃ t, exec (.confirm port p) s = .next t ∧ s.ChangesOnly t [.outbox, .hif, .work, .chart, .link, .slv, .rst, .log] [.SLV, .LOG])
  ∧ (∀ (s : State), ∃ t, exec .goRepeat s = .next t ∧ s.ChangesOnly t [.link, .slv] [])
  ∧ (∀ (port : Nat) (p : Packet) (s : State), ∃ t, exec (.litReport port p) s = .next t ∧ s.ChangesOnly t [.outbox, .hif, .work, .chart, .link, .slv, .rst, .log] [.SLV, .LOG])
  ∧ (∀ (port : Nat) (p : Packet) (s : State), ∃ t, exec (.withdraw port p) s = .next t ∧ s.ChangesOnly t [.outbox, .hif, .work, .chart, .link, .mgmt, .slv, .slc, .rst, .log] [.CHT, .SLV, .WDN, .LOG])
  ∧ (∀ (rack : Nat) (s : State), ∃ t, exec (.rackFence rack) s = .next t ∧ s.ChangesOnly t [.outbox, .link, .slv, .slc] [.SLV])
  ∧ (∀ (c : HostCmd) (s : State), ∃ t, exec (.sliceCreate c) s = .next t ∧ s.ChangesOnly t [.outbox, .hif, .rst] [.HIF])
  ∧ (∀ (c : HostCmd) (s : State), ∃ t, exec (.sliceReseal c) s = .next t ∧ s.ChangesOnly t [.outbox, .hif, .rst] [.HIF])
  ∧ (∀ (c : HostCmd) (s : State), ∃ t, exec (.sliceDrain c) s = .next t ∧ s.ChangesOnly t [.outbox, .hif, .slc, .rst] [.HIF])
  ∧ (∀ (c : HostCmd) (s : State), ∃ t, exec (.sliceDestroy c) s = .next t ∧ s.ChangesOnly t [.outbox, .hif, .slc, .rst] [.HIF])
  ∧ (∀ (port : Nat) (p : Packet) (s : State), ∃ t, exec (.sliceReq port p) s = .next t ∧ s.ChangesOnly t [.outbox, .hif, .work, .chart, .link, .slv, .rst, .log] [.SLV, .LOG])
  ∧ (∀ (s : State), ∃ t, exec .admissionSolveDone s = .next t ∧ s.ChangesOnly t [.outbox, .hif, .work, .link, .slv, .slc] [.SLV, .WDN])
  ∧ (∀ (port : Nat) (p : Packet) (s : State), ∃ t, exec (.sliceReply port p) s = .next t ∧ s.ChangesOnly t [.outbox, .hif, .work, .chart, .link, .slv, .slc, .rst, .log] [.SLV, .LOG])
  ∧ (∀ (s : State), ∃ t, exec .sliceReqTimeout s = .next t ∧ s.ChangesOnly t [.outbox, .hif, .slc, .rst] [])
  ∧ (∀ (port : Nat) (p : Packet) (s : State), ∃ t, exec (.sliceTable port p) s = .next t ∧ s.ChangesOnly t [.outbox, .hif, .work, .chart, .link, .slv, .slc, .rst, .log] [.SLV, .LOG])
  ∧ (∀ (s : State), ∃ t, exec .drainLimitExpiry s = .next t ∧ s.ChangesOnly t [.outbox, .link, .slc] [])

/-- Each row of plans, the Lamp array and the Lantern answers a next state with the queue as it was, and leaves every part of the state but the listed
ones, and every register outside the listed register blocks; a row whose effect may write a register of any block (a host write and what it starts, a
reset) leaves the parts that are not listed. -/
def Obligations.CollectiveRowsFrame : Prop :=
  (∀ (c : HostCmd) (s : State), ∃ t, exec (.planCollective c) s = .next t ∧ s.ChangesOnly t [.outbox, .hif, .rst] [.HIF])
  ∧ (∀ (port : Nat) (p : Packet) (s : State), ∃ t, exec (.planReq port p) s = .next t ∧ s.ChangesOnly t [.outbox, .hif, .work, .chart, .link, .slv, .rst, .log] [.SLV, .LOG])
  ∧ (∀ (port : Nat) (p : Packet) (s : State), ∃ t, exec (.planOrder port p) s = .next t ∧ s.ChangesOnly t [.outbox, .hif, .work, .chart, .link, .slv, .rst, .log] [.SLV, .LOG])
  ∧ (∀ (port : Nat) (p : Packet) (s : State), ∃ t, exec (.planOffer port p) s = .next t ∧ s.ChangesOnly t [.outbox, .hif, .work, .chart, .link, .slv, .rst, .log] [.SLV, .LOG])
  ∧ (∀ (port : Nat) (p : Packet) (s : State), ∃ t, exec (.planCommit port p) s = .next t ∧ s.ChangesOnly t [.outbox, .hif, .work, .chart, .link, .slv, .rst, .log] [.SLV, .LOG])
  ∧ (∀ (port : Nat) (p : Packet) (s : State), ∃ t, exec (.planReady port p) s = .next t ∧ s.ChangesOnly t [.outbox, .hif, .work, .chart, .link, .slv, .rst, .log] [.SLV, .LOG])
  ∧ (∀ (port : Nat) (p : Packet) (s : State), ∃ t, exec (.planDone port p) s = .next t ∧ s.ChangesOnly t [.outbox, .hif, .work, .chart, .link, .mgmt, .slv, .clp, .lmp, .lnt, .rst, .log] [.SLV, .CLP, .LMP, .LNT, .LOG])
  ∧ (∀ (s : State), ∃ t, exec .planMemberSilent s = .next t ∧ s.ChangesOnly t [.outbox, .link, .clp] [])
  ∧ (∀ (s : State), ∃ t, exec .planReqTimeout s = .next t ∧ s.ChangesOnly t [.outbox, .hif, .clp, .rst] [.CLP])
  ∧ (∀ (port : Nat) (p : Packet) (s : State), ∃ t, exec (.rsContrib port p) s = .next t ∧ s.ChangesOnly t [.outbox, .hif, .link, .clp, .lmp, .rst, .log, .tel] [.CLP, .LMP, .LOG])
  ∧ (∀ (port : Nat) (p : Packet) (s : State), ∃ t, exec (.rsResult port p) s = .next t ∧ s.ChangesOnly t [.outbox, .hif, .link, .clp, .lmp, .rst, .log, .tel] [.LMP, .LOG])
  ∧ (∀ (port : Nat) (p : Packet) (s : State), ∃ t, exec (.agData port p) s = .next t ∧ s.ChangesOnly t [.outbox, .hif, .link, .clp, .rst, .log] [.LOG])
  ∧ (∀ (port : Nat) (p : Packet) (s : State), ∃ t, exec (.barrier port p) s = .next t ∧ s.ChangesOnly t [.outbox, .hif, .link, .clp, .rst, .log] [.CLP, .LOG])
  ∧ (∀ (lamp : Nat) (unit : Nat) (first : Option (Nat × Nat)) (second : Bool) (line : Option Bool) (s : State), ∃ t, exec (.lampUnitDone lamp unit first second line) s = .next t ∧ s.ChangesOnly t [.outbox, .hif, .link, .mgmt, .clp, .lmp, .rst, .log, .tel, .hbm] [.LMP, .RST, .LOG])
  ∧ (∀ (s : State), ∃ t, exec .spillWriteDone s = .next t ∧ s.ChangesOnly t [.outbox, .clp, .lmp, .rst, .hbm] [])
  ∧ (∀ (port : Nat) (p : Packet) (fault : Option (Word × Bool)) (s : State), ∃ t, exec (.lanternContrib port p fault) s = .next t ∧ s.ChangesOnly t [.outbox, .hif, .link, .clp, .lnt, .rst, .log, .tel] [.CLP, .LMP, .LNT, .LOG])
  ∧ (∀ (port : Nat) (p : Packet) (fault : Option (Word × Bool)) (s : State), ∃ t, exec (.lanternPartial port p fault) s = .next t ∧ s.ChangesOnly t [.outbox, .hif, .link, .clp, .lnt, .rst, .log, .tel] [.CLP, .LMP, .LNT, .LOG])
  ∧ (∀ (port : Nat) (p : Packet) (s : State), ∃ t, exec (.lanternNeed port p) s = .next t ∧ s.ChangesOnly t [.outbox, .hif, .link, .clp, .lnt, .rst, .log, .tel] [.CLP, .LMP, .LNT, .LOG])
  ∧ (∀ (ctx : Nat) (s : State), ∃ t, exec (.needTimer ctx) s = .next t ∧ s.ChangesOnly t [.outbox, .hif, .link, .lnt] [.LNT])

/-- Each row of recovery, aborts, freezes and stragglers answers a next state with the queue as it was, and leaves every part of the state but the listed
ones, and every register outside the listed register blocks; a row whose effect may write a register of any block (a host write and what it starts, a
reset) leaves the parts that are not listed. -/
def Obligations.RecoveryRowsFrame : Prop :=
  (∀ (port : Nat) (p : Packet) (s : State), ∃ t, exec (.flowBrokenEvent port p) s = .next t ∧ s.ChangesOnly t [.outbox, .hif, .work, .link, .mgmt, .clp, .rst, .log] [.CLP, .LOG])
  ∧ (∀ (port : Nat) (p : Packet) (s : State), ∃ t, exec (.placeDiscardedEvent port p) s = .next t ∧ s.ChangesOnly t [.outbox, .hif, .work, .link, .mgmt, .clp, .rst, .log] [.LOG])
  ∧ (∀ (port : Nat) (p : Packet) (s : State), ∃ t, exec (.overflowEvent port p) s = .next t ∧ s.ChangesOnly t [.outbox, .hif, .work, .link, .mgmt, .clp, .rst, .log, .tel] [.CLP, .LOG])
  ∧ (∀ (s : State), ∃ t, exec .releaseLimitExpiry s = .next t ∧ s.ChangesOnly t [.outbox, .link, .clp] [])
  ∧ (∀ (dest : Addr) (svc : Nat) (wseq : Nat) (s : State), ∃ t, exec (.collectiveRetransmit dest svc wseq) s = .next t ∧ s.ChangesOnly t [.outbox, .hif, .link, .clp, .rst] [.CLP])
  ∧ (∀ (port : Nat) (p : Packet) (s : State), ∃ t, exec (.recoverReq port p) s = .next t ∧ s.ChangesOnly t [.outbox, .hif, .work, .chart, .link, .slv, .clp, .rst, .log] [.SLV, .LOG])
  ∧ (∀ (port : Nat) (p : Packet) (s : State), ∃ t, exec (.recoverClear port p) s = .next t ∧ s.ChangesOnly t [.outbox, .hif, .work, .chart, .link, .mgmt, .slv, .clp, .lmp, .rst, .log] [.SLV, .CLP, .LOG])
  ∧ (∀ (port : Nat) (p : Packet) (s : State), ∃ t, exec (.recoverCleared port p) s = .next t ∧ s.ChangesOnly t [.outbox, .hif, .work, .chart, .link, .slv, .clp, .rst, .log] [.SLV, .LOG])
  ∧ (∀ (port : Nat) (p : Packet) (s : State), ∃ t, exec (.recoverGo port p) s = .next t ∧ s.ChangesOnly t [.outbox, .hif, .work, .chart, .link, .mgmt, .slv, .clp, .rst, .log] [.SLV, .LOG])
  ∧ (∀ (s : State), ∃ t, exec .recoveryReplyTimeout s = .next t ∧ s.ChangesOnly t [.outbox, .link, .clp] [])
  ∧ (∀ (c : HostCmd) (s : State), ∃ t, exec (.abortCollective c) s = .next t ∧ s.ChangesOnly t [.outbox, .hif, .clp, .rst] [.HIF, .CLP])
  ∧ (∀ (port : Nat) (p : Packet) (s : State), ∃ t, exec (.abortReq port p) s = .next t ∧ s.ChangesOnly t [.outbox, .hif, .work, .chart, .link, .slv, .clp, .rst, .log] [.SLV, .LOG])
  ∧ (∀ (port : Nat) (p : Packet) (s : State), ∃ t, exec (.freeze port p) s = .next t ∧ s.ChangesOnly t [.outbox, .hif, .work, .chart, .link, .mgmt, .slv, .clp, .rst, .log] [.SLV, .LOG])
  ∧ (∀ (port : Nat) (p : Packet) (s : State), ∃ t, exec (.frozen port p) s = .next t ∧ s.ChangesOnly t [.outbox, .hif, .work, .chart, .link, .slv, .clp, .rst, .log] [.SLV, .LOG])
  ∧ (∀ (port : Nat) (p : Packet) (s : State), ∃ t, exec (.thaw port p) s = .next t ∧ s.ChangesOnly t [.outbox, .hif, .work, .chart, .link, .mgmt, .slv, .clp, .lmp, .lnt, .rst, .log, .tel] [.SLV, .CLP, .LMP, .LNT, .LOG])
  ∧ (∀ (s : State), ∃ t, exec .genSpacingElapsed s = .next t ∧ s.ChangesOnly t [.outbox, .link, .clp] [])
  ∧ (∀ (s : State), ∃ t, exec .stallDetect s = .next t ∧ s.ChangesOnly t [.outbox, .hif, .link, .clp] [.CLP])
  ∧ (∀ (s : State), ∃ t, exec .stragglerDetect s = .next t ∧ s.ChangesOnly t [.outbox, .hif, .rst, .log] [.CLP, .LOG])

/-- Each row of time, telemetry and the log answers a next state with the queue as it was, and leaves every part of the state but the listed ones, and
every register outside the listed register blocks; a row whose effect may write a register of any block (a host write and what it starts, a reset)
leaves the parts that are not listed. -/
def Obligations.TimeTelemetryAndLogRowsFrame : Prop :=
  (∀ (port : Nat) (p : Packet) (s : State), ∃ t, exec (.loadReport port p) s = .next t ∧ s.ChangesOnly t [.outbox, .hif, .link, .rst, .log, .tel] [.TEL, .LOG])
  ∧ (∀ (port : Nat) (p : Packet) (s : State), ∃ t, exec (.timeExchangeRequest port p) s = .next t ∧ s.ChangesOnly t [.outbox, .hif, .link, .rst, .log] [.LOG])
  ∧ (∀ (port : Nat) (p : Packet) (s : State), ∃ t, exec (.timeExchangeReply port p) s = .next t ∧ s.ChangesOnly t [.outbox, .tim, .hif, .link, .mgmt, .rst, .log] [.TIM, .LOG])
  ∧ (∀ (port : Nat) (samples : Nat) (s : State), ∃ t, exec (.timeFill port samples) s = .next t ∧ s.ChangesOnly t [.link] [])
  ∧ (∀ (s : State), ∃ t, exec .timeAcquisitionStep s = .next t ∧ s.ChangesOnly t [.outbox, .tim, .hif] [.TIM])
  ∧ (∀ (s : State), ∃ t, exec .acquisitionTimeout s = .next t ∧ s.ChangesOnly t [.outbox, .tim, .hif] [.TIM])
  ∧ (∀ (s : State), ∃ t, exec .coldStart s = .next t ∧ s.ChangesOnly t [.tim] [])
  ∧ (∀ (s : State), ∃ t, exec .degradedEntry s = .next t ∧ s.ChangesOnly t [.outbox, .hif] [.TIM])
  ∧ (∀ (agent : Addr) (s : State), ∃ t, exec (.agentHoldover agent) s = .next t ∧ s.ChangesOnly t [.outbox, .tim, .hif, .link, .mgmt] [.TIM])
  ∧ (∀ (s : State), ∃ t, exec .saturationWarn s = .next t ∧ s.ChangesOnly t [.outbox, .hif] [.TEL])
  ∧ (∀ (c : HostCmd) (s : State), ∃ t, exec (.readLoadmap c) s = .next t ∧ s.ChangesOnly t [.outbox, .hif, .rst] [.HIF, .TEL])
  ∧ (∀ (e : LogEvt) (s : State), ∃ t, exec (.logEvent e) s = .next t ∧ s.ChangesOnly t [.outbox, .hif, .rst, .log] [.LOG])
  ∧ (∀ (core : BitVec 8) (code : BitVec 10) (slice : Byte) (body : List Word) (s : State), ∃ t, exec (.pilotLogSubmit core code slice body) s = .next t ∧ s.ChangesOnly t [.outbox, .hif, .rst, .log] [.LOG])
  ∧ (∀ (off : Nat) (bytes : Nat) (fails : Bool) (s : State), ∃ t, exec (.bar4Read off bytes fails) s = .next t ∧ s.ChangesOnly t [.outbox, .hif] [.HIF, .RST, .LOG])
  ∧ (∀ (off : Nat) (value : BitVec 64) (s : State), ∃ t, exec (.bar4Write off value) s = .next t ∧ s.ChangesOnly t [.outbox, .hif] [.HIF])
  ∧ (∀ (port : Nat) (p : Packet) (s : State), ∃ t, exec (.fillPacketReceived port p) s = .next t ∧ s.ChangesOnly t [.outbox, .hif, .link, .rst, .log] [.LOG])

/-- Each row of the Warden, seals, identity and the Pilot cores answers a next state with the queue as it was, and leaves every part of the state but the
listed ones, and every register outside the listed register blocks; a row whose effect may write a register of any block (a host write and what it
starts, a reset) leaves the parts that are not listed. -/
def Obligations.WardenRowsFrame : Prop :=
  (∀ (core : BitVec 8) (s : State), ∃ t, exec (.pilotCoreStop core) s = .next t ∧ s.ChangesOnly t [.work] [])
  ∧ (∀ (m : WardenImage) (s : State), ∃ t, exec (.wardenStart m) s = .next t ∧ s.ChangesOnly t [.outbox, .hif, .work, .wdn] [.WDN, .MOR])
  ∧ (∀ (s : State), ∃ t, exec .enrolVerifyDone s = .next t ∧ s.ChangesOnly t [.wdn] [])
  ∧ (∀ (c : HostCmd) (s : State), ∃ t, exec (.attest c) s = .next t ∧ s.ChangesOnly t [.outbox, .hif, .rst, .wdn] [.HIF, .WDN])
  ∧ (∀ (c : HostCmd) (s : State), ∃ t, exec (.issueSeal c) s = .next t ∧ s.ChangesOnly t [.outbox, .hif, .rst, .wdn] [.HIF, .WDN])
  ∧ (∀ (s : State), ∃ t, exec .signatureDone s = .next t ∧ s.ChangesOnly t [.outbox, .hif, .rst, .wdn] [.HIF, .WDN])
  ∧ (∀ (s : State), ∃ t, exec .sealRenewal s = .next t ∧ s.ChangesOnly t [.wdn] [.WDN])
  ∧ (∀ (s : State), ∃ t, exec .sealPublish s = .next t ∧ s.ChangesOnly t [.outbox, .hif, .link, .rst, .wdn, .log] [.HIF, .WDN, .LOG])
  ∧ (∀ (s : State), ∃ t, exec .sealDirectWrite s = .next t ∧ s.ChangesOnly t [.outbox, .hif, .link, .mgmt, .rst, .wdn, .log] [.WDN, .LOG])
  ∧ (∀ (s : State), ∃ t, exec .sealLow s = .next t ∧ s.ChangesOnly t [.outbox, .hif, .wdn] [.WDN])
  ∧ (∀ (image : List Byte) (s : State), ∃ t, exec (.pilotFirmwareReplace image) s = .next t ∧ s.ChangesOnly t [.work, .wdn] [.WDN])

/-- Each row of redundancy: the mooring, SMBus and takeover answers a next state with the queue as it was, and leaves every part of the state but the
listed ones, and every register outside the listed register blocks; a row whose effect may write a register of any block (a host write and what it
starts, a reset) leaves the parts that are not listed. -/
def Obligations.MooringRowsFrame : Prop :=
  (∀ (lineFree : Bool) (s : State), ∃ t, exec (.grantAssert lineFree) s = .next t ∧ s.ChangesOnly t [.outbox, .hif, .link, .mgmt, .mor, .rst, .log] [.MOR, .RST, .LOG])
  ∧ (∀ (s : State), ∃ t, exec .takeoverAdopt s = .next t ∧ t.pending = s.pending ∧ ∀ p, p ∉ [Part.outbox, Part.hif, Part.work, Part.chart, Part.link, Part.mgmt, Part.slv, Part.slc, Part.clp, Part.lnt, Part.mor, Part.wdn, Part.hbm] → s.agrees t p)
  ∧ (∀ (pecOk : Bool) (s : State), ∃ t, exec (.smbusIdent pecOk) s = .next t ∧ s.ChangesOnly t [.outbox] [])
  ∧ (∀ (pecOk : Bool) (s : State), ∃ t, exec (.smbusHealth pecOk) s = .next t ∧ s.ChangesOnly t [.outbox] [])
  ∧ (∀ (code : Byte) (pecOk : Bool) (s : State), ∃ t, exec (.smbusNote code pecOk) s = .next t ∧ s.ChangesOnly t [.outbox, .hif, .rst, .log] [.LOG])
  ∧ (∀ (p : Packet) (s : State), ∃ t, exec (.moorDelta p) s = .next t ∧ s.ChangesOnly t [.outbox, .hif, .link, .mor, .rst, .log] [.LOG])
  ∧ (∀ (p : Packet) (image : Nat) (s : State), ∃ t, exec (.moorCommit p image) s = .next t ∧ s.ChangesOnly t [.outbox, .hif, .link, .mor, .rst, .log] [.MOR, .LOG])
  ∧ (∀ (p : Packet) (s : State), ∃ t, exec (.moorAck p) s = .next t ∧ s.ChangesOnly t [.outbox, .hif, .link, .mor, .rst, .log] [.MOR, .LOG])
  ∧ (∀ (p : Packet) (s : State), ∃ t, exec (.moorNack p) s = .next t ∧ s.ChangesOnly t [.outbox, .hif, .link, .mor, .rst, .log] [.MOR, .LOG])
  ∧ (∀ (p : Packet) (image : Nat) (s : State), ∃ t, exec (.moorStatus p image) s = .next t ∧ s.ChangesOnly t [.outbox, .hif, .link, .mor, .rst, .log] [.MOR, .LOG])
  ∧ (∀ (s : State), ∃ t, exec .commitAckTimeout s = .next t ∧ s.ChangesOnly t [.outbox, .hif, .mor] [.MOR])
  ∧ (∀ (s : State), ∃ t, exec .commitLoss s = .next t ∧ s.ChangesOnly t [.outbox, .hif, .mor, .rst, .log] [.MOR, .LOG])
  ∧ (∀ (s : State), ∃ t, exec .deltaApply s = .next t ∧ s.ChangesOnly t [.outbox, .hif, .mor, .rst, .log, .hbm] [.MOR, .LOG])
  ∧ (∀ (port : Nat) (p : Packet) (s : State), ∃ t, exec (.mirrorSelect port p) s = .next t ∧ s.ChangesOnly t [.outbox, .hif, .link, .mor, .rst, .log] [.LOG])
  ∧ (∀ (port : Nat) (p : Packet) (s : State), ∃ t, exec (.mirrorSelectAck port p) s = .next t ∧ s.ChangesOnly t [.outbox, .hif, .link, .mor, .rst, .log] [.LOG])
  ∧ (∀ (tag : Nat) (s : State), ∃ t, exec (.mirrorResend tag) s = .next t ∧ s.ChangesOnly t [.link, .mor] [])
  ∧ (∀ (s : State), ∃ t, exec .finalCommitTimeout s = .next t ∧ t.pending = s.pending ∧ ∀ p, p ∉ [Part.outbox, Part.hif, Part.work, Part.chart, Part.link, Part.mgmt, Part.slv, Part.slc, Part.clp, Part.lnt, Part.mor, Part.wdn, Part.hbm] → s.agrees t p)
  ∧ (∀ (port : Nat) (p : Packet) (s : State), ∃ t, exec (.stateQuery port p) s = .next t ∧ s.ChangesOnly t [.outbox, .hif, .work, .chart, .link, .slv, .rst, .log] [.SLV, .LOG])
  ∧ (∀ (port : Nat) (p : Packet) (s : State), ∃ t, exec (.stateReply port p) s = .next t ∧ s.ChangesOnly t [.outbox, .hif, .work, .chart, .link, .slv, .rst, .log] [.SLV, .LOG])
  ∧ (∀ (port : Nat) (p : Packet) (s : State), ∃ t, exec (.graphReq port p) s = .next t ∧ s.ChangesOnly t [.outbox, .hif, .work, .chart, .link, .slv, .rst, .log] [.SLV, .LOG])
  ∧ (∀ (port : Nat) (p : Packet) (s : State), ∃ t, exec (.graph port p) s = .next t ∧ s.ChangesOnly t [.outbox, .hif, .work, .chart, .link, .mgmt, .slv, .mor, .rst, .log] [.DSC, .SLV, .LOG])

/-- Each row of resets, faults and power answers a next state with the queue as it was, and leaves every part of the state but the listed ones, and every
register outside the listed register blocks; a row whose effect may write a register of any block (a host write and what it starts, a reset) leaves
the parts that are not listed. -/
def Obligations.ResetAndPowerRowsFrame : Prop :=
  (∀ (s : State), ∃ t, exec .grantWithdraw s = .next t ∧ t.pending = s.pending ∧ ∀ p, p ∉ [Part.outbox, Part.hif, Part.chart, Part.link, Part.mgmt, Part.slc, Part.clp, Part.mor, Part.rst, Part.wdn, Part.log] → s.agrees t p)
  ∧ (∀ (test : Nat) (units : List Nat) (s : State), ∃ t, exec (.selftestResult test units) s = .next t ∧ s.ChangesOnly t [.outbox, .hif, .work, .chart, .link, .slv, .lmp, .rst, .log, .tel] [.CHT, .SLV, .LMP, .MOR, .RST, .LOG])
  ∧ (∀ (engine : Nat) (slice : Byte) (item : Word) (s : State), ∃ t, exec (.engineHang engine slice item) s = .next t ∧ t.pending = s.pending ∧ ∀ p, p ∉ [Part.outbox, Part.freeCtr, Part.tim, Part.hif, Part.work, Part.chart, Part.link, Part.mgmt, Part.slv, Part.slc, Part.clp, Part.lmp, Part.lnt, Part.mor, Part.rst, Part.pwr, Part.wdn, Part.log, Part.tel, Part.agents, Part.hbm] → s.agrees t p)
  ∧ (∀ (engine : Nat) (s : State), ∃ t, exec (.engineResetDone engine) s = .next t ∧ s.ChangesOnly t [.outbox, .tim, .hif, .work, .link, .mgmt, .slv, .lmp, .mor, .rst, .wdn, .log, .tel] [.HIF, .DSC, .SLV, .WDN, .LMP, .TIM, .TEL, .MOR, .RST, .LOG, .PWR])
  ∧ (∀ (kind : Nat) (ctx : Nat) (s : State), ∃ t, exec (.contextHang kind ctx) s = .next t ∧ s.ChangesOnly t [.outbox, .freeCtr, .hif, .work, .link, .mgmt, .clp, .lmp, .lnt, .mor, .rst, .wdn, .log, .tel] [.WDN, .MOR, .RST, .LOG])
  ∧ (∀ (slot : Nat) (s : State), ∃ t, exec (.hostDmaTimeout slot) s = .next t ∧ s.ChangesOnly t [.outbox, .freeCtr, .hif, .work, .chart, .link, .mgmt, .clp, .lmp, .lnt, .mor, .rst, .wdn, .log, .tel] [.HIF, .CHT, .WDN, .MOR, .RST, .LOG])
  ∧ (∀ (s : State), ∃ t, exec .aonWatchdog s = .next t ∧ t.pending = s.pending ∧ ∀ p, p ∉ [Part.outbox, Part.freeCtr, Part.tim, Part.hif, Part.work, Part.chart, Part.link, Part.mgmt, Part.slv, Part.slc, Part.clp, Part.lmp, Part.lnt, Part.mor, Part.rst, Part.pwr, Part.wdn, Part.log, Part.tel, Part.agents, Part.hbm] → s.agrees t p)
  ∧ (∀ (c : HostCmd) (s : State), ∃ t, exec (.escalateReset c) s = .next t ∧ t.pending = s.pending ∧ ∀ p, p ∉ [Part.outbox, Part.freeCtr, Part.tim, Part.hif, Part.work, Part.chart, Part.link, Part.mgmt, Part.slv, Part.slc, Part.clp, Part.lmp, Part.lnt, Part.mor, Part.rst, Part.pwr, Part.wdn, Part.log, Part.tel, Part.agents, Part.hbm] → s.agrees t p)
  ∧ (∀ (s : State), ∃ t, exec .deferredResetStart s = .next t ∧ t.pending = s.pending ∧ ∀ p, p ∉ [Part.outbox, Part.freeCtr, Part.tim, Part.hif, Part.work, Part.chart, Part.link, Part.mgmt, Part.slv, Part.slc, Part.clp, Part.lmp, Part.lnt, Part.mor, Part.rst, Part.pwr, Part.wdn, Part.log, Part.tel, Part.agents, Part.hbm] → s.agrees t p)
  ∧ (∀ (s : State), ∃ t, exec .partResetStart s = .next t ∧ t.pending = s.pending ∧ ∀ p, p ∉ [Part.outbox, Part.freeCtr, Part.tim, Part.hif, Part.work, Part.chart, Part.link, Part.mgmt, Part.slv, Part.slc, Part.clp, Part.lmp, Part.lnt, Part.mor, Part.rst, Part.pwr, Part.wdn, Part.log, Part.tel, Part.agents, Part.hbm] → s.agrees t p)
  ∧ (∀ (s : State), ∃ t, exec .partResetEnd s = .next t ∧ s.ChangesOnly t [.outbox, .hif, .link, .rst] [.MOR, .RST])
  ∧ (∀ (s : State), ∃ t, exec .partFitTimeout s = .next t ∧ t.pending = s.pending ∧ ∀ p, p ∉ [Part.outbox, Part.freeCtr, Part.tim, Part.hif, Part.work, Part.chart, Part.link, Part.mgmt, Part.slv, Part.slc, Part.clp, Part.lmp, Part.lnt, Part.mor, Part.rst, Part.pwr, Part.wdn, Part.log, Part.tel, Part.agents, Part.hbm] → s.agrees t p)
  ∧ (∀ (s : State), ∃ t, exec .chipReset s = .next t ∧ t.pending = s.pending ∧ ∀ p, p ∉ [Part.outbox, Part.freeCtr, Part.tim, Part.hif, Part.work, Part.chart, Part.link, Part.mgmt, Part.slv, Part.slc, Part.clp, Part.lmp, Part.lnt, Part.mor, Part.rst, Part.pwr, Part.wdn, Part.log, Part.tel, Part.agents, Part.hbm] → s.agrees t p)
  ∧ (∀ (s : State), ∃ t, exec .chipFitTimeout s = .next t ∧ t.pending = s.pending ∧ ∀ p, p ∉ [Part.outbox, Part.freeCtr, Part.tim, Part.hif, Part.work, Part.chart, Part.link, Part.mgmt, Part.slv, Part.slc, Part.clp, Part.lmp, Part.lnt, Part.mor, Part.rst, Part.pwr, Part.wdn, Part.log, Part.tel, Part.agents, Part.hbm] → s.agrees t p)
  ∧ (∀ (s : State), ∃ t, exec .sampleRoomTimeout s = .next t ∧ s.ChangesOnly t [.outbox, .hif, .rst, .log] [.RST, .LOG])
  ∧ (∀ (item : DetItem) (loc : DetLoc) (s : State), ∃ t, exec (.detectionError item loc) s = .next t ∧ t.pending = s.pending ∧ ∀ p, p ∉ [Part.outbox, Part.freeCtr, Part.tim, Part.hif, Part.work, Part.chart, Part.link, Part.mgmt, Part.slv, Part.slc, Part.clp, Part.lmp, Part.lnt, Part.mor, Part.rst, Part.pwr, Part.wdn, Part.log, Part.tel, Part.agents, Part.hbm] → s.agrees t p)
  ∧ (∀ (channel : Nat) (s : State), ∃ t, exec (.pseudoChannelCopyDone channel) s = .next t ∧ s.ChangesOnly t [.rst] [])
  ∧ (∀ (s : State), ∃ t, exec .logRingMove s = .next t ∧ s.ChangesOnly t [.outbox, .hif, .rst, .log] [.RST, .LOG])
  ∧ (∀ (s : State), ∃ t, exec .logCopyDone s = .next t ∧ t.pending = s.pending ∧ ∀ p, p ∉ [Part.outbox, Part.hif, Part.chart, Part.link, Part.mgmt, Part.slc, Part.clp, Part.mor, Part.rst, Part.pwr, Part.wdn, Part.log] → s.agrees t p)
  ∧ (∀ (s : State), ∃ t, exec .modReset s = .next t ∧ t.pending = s.pending ∧ ∀ p, p ∉ [Part.outbox, Part.freeCtr, Part.tim, Part.hif, Part.work, Part.chart, Part.link, Part.mgmt, Part.slv, Part.slc, Part.clp, Part.lmp, Part.lnt, Part.mor, Part.rst, Part.pwr, Part.wdn, Part.log, Part.tel, Part.agents, Part.hbm] → s.agrees t p)
  ∧ (∀ (role x y : Nat) (fail : Option Nat) (s : State), ∃ t, exec (.powerUp role x y fail) s = .next t ∧ t.pending = s.pending ∧ ∀ p, p ∉ [Part.outbox, Part.freeCtr, Part.tim, Part.hif, Part.work, Part.chart, Part.link, Part.mgmt, Part.slv, Part.slc, Part.clp, Part.lmp, Part.lnt, Part.mor, Part.rst, Part.pwr, Part.wdn, Part.log, Part.tel, Part.agents, Part.hbm] → s.agrees t p)
  ∧ (∀ (fail : Option Nat) (s : State), ∃ t, exec (.railFailRetry fail) s = .next t ∧ t.pending = s.pending ∧ ∀ p, p ∉ [Part.outbox, Part.freeCtr, Part.tim, Part.hif, Part.work, Part.chart, Part.link, Part.mgmt, Part.slv, Part.slc, Part.clp, Part.lmp, Part.lnt, Part.mor, Part.rst, Part.pwr, Part.wdn, Part.log, Part.tel, Part.agents, Part.hbm] → s.agrees t p)
  ∧ (∀ (s : State), ∃ t, exec .vinDip s = .next t ∧ s.ChangesOnly t [.outbox, .hif, .pwr] [.PWR])
  ∧ (∀ (s : State), ∃ t, exec .vinLoss s = .next t ∧ t.pending = s.pending ∧ ∀ p, p ∉ [Part.outbox, Part.hif, Part.chart, Part.link, Part.mgmt, Part.slc, Part.clp, Part.mor, Part.rst, Part.pwr, Part.wdn, Part.log] → s.agrees t p)
  ∧ (∀ (cause : Nat) (s : State), ∃ t, exec (.shutdownLimit cause) s = .next t ∧ s.ChangesOnly t [.outbox, .hif, .rst, .pwr, .log] [.MOR, .LOG, .PWR])
  ∧ (∀ (s : State), ∃ t, exec .shutdownReleaseTimeout s = .next t ∧ t.pending = s.pending ∧ ∀ p, p ∉ [Part.outbox, Part.hif, Part.chart, Part.link, Part.mgmt, Part.slc, Part.clp, Part.mor, Part.rst, Part.wdn, Part.log] → s.agrees t p)
  ∧ (∀ (s : State), ∃ t, exec .thermalTrip s = .next t ∧ t.pending = s.pending ∧ ∀ p, p ∉ [Part.outbox, Part.hif, Part.chart, Part.link, Part.mgmt, Part.slc, Part.clp, Part.mor, Part.rst, Part.pwr, Part.wdn, Part.log] → s.agrees t p)
  ∧ (∀ (s : State), ∃ t, exec .throttleStep s = .next t ∧ s.ChangesOnly t [.outbox, .hif, .pwr] [.PWR])
  ∧ (∀ (s : State), ∃ t, exec .frefLoss s = .next t ∧ s.ChangesOnly t [.outbox, .hif] [.PWR])
  ∧ (∀ (s : State), ∃ t, exec .frefRestore s = .next t ∧ s.ChangesOnly t [.outbox, .hif] [.PWR])
  ∧ (∀ (slot : Nat) (status : Nat) (words : List Word) (s : State), ∃ t, exec (.hostDmaCompletion slot status words) s = .next t ∧ s.ChangesOnly t [.outbox, .hif, .chart, .slc, .clp, .rst, .wdn, .log] [.HIF, .CHT, .CLP, .LOG])
  ∧ (∀ (s : State), ∃ t, exec .modResetDeassert s = .next t ∧ s.ChangesOnly t [.outbox, .hif, .rst] [.MOR, .RST])
  ∧ (∀ (s : State), ∃ t, exec .logCopyCutShort s = .next t ∧ t.pending = s.pending ∧ ∀ p, p ∉ [Part.outbox, Part.hif, Part.chart, Part.link, Part.mgmt, Part.slc, Part.clp, Part.mor, Part.rst, Part.pwr, Part.wdn, Part.log] → s.agrees t p)
  ∧ (∀ (kind : Nat) (ctx : Nat) (s : State), ∃ t, exec (.contextResetDone kind ctx) s = .next t ∧ s.ChangesOnly t [.outbox, .hif, .rst] [.RST])

/-- Each row of the agents of the rack and management operations answers a next state with the queue as it was, and leaves every part of the state but the
listed ones, and every register outside the listed register blocks; a row whose effect may write a register of any block (a host write and what it
starts, a reset) leaves the parts that are not listed. -/
def Obligations.AgentRowsFrame : Prop :=
  (∀ (port : Nat) (p : Packet) (s : State), ∃ t, exec (.mgmtReply port p) s = .next t ∧ s.ChangesOnly t [.outbox, .hif, .work, .link, .mgmt, .slv, .slc, .clp, .lmp, .lnt, .mor, .rst, .wdn, .log, .hbm] [.HIF, .DSC, .SLV, .WDN, .CLP, .LMP, .LNT, .MOR, .LOG])
  ∧ (∀ (tag : BitVec 12) (s : State), ∃ t, exec (.mgmtResend tag) s = .next t ∧ s.ChangesOnly t [.outbox, .freeCtr, .hif, .work, .link, .mgmt, .slv, .clp, .lmp, .lnt, .mor, .rst, .wdn, .log, .tel] [.WDN, .MOR, .RST, .LOG])
  ∧ (∀ (agent : Addr) (s : State), ∃ t, exec (.agentPause agent) s = .next t ∧ s.ChangesOnly t [.agents] [])
  ∧ (∀ (agent : Addr) (s : State), ∃ t, exec (.agentBankLight agent) s = .next t ∧ s.ChangesOnly t [.outbox, .agents] [.SLV])
  ∧ (∀ (agent : Addr) (s : State), ∃ t, exec (.drainGuardEnd agent) s = .next t ∧ s.ChangesOnly t [.agents] [])
  ∧ (∀ (agent : Addr) (h : MgmtHead) (addr : Nat) (count : Nat) (s : State), ∃ t, exec (.agentMgmtRead agent h addr count) s = .next t ∧ s.ChangesOnly t [.outbox, .agents] [])
  ∧ (∀ (agent : Addr) (h : MgmtHead) (addr : Nat) (words : List Word) (s : State), ∃ t, exec (.agentMgmtWrite agent h addr words) s = .next t ∧ s.ChangesOnly t [.outbox, .agents] [.SLV])
  ∧ (∀ (agent : Addr) (h : MgmtHead) (addr : Nat) (words : List Word) (s : State), ∃ t, exec (.agentBroadcastWrite agent h addr words) s = .next t ∧ s.ChangesOnly t [.outbox, .agents] [.SLV])
  ∧ (∀ (agent : Addr) (seq : Nat) (s : State), ∃ t, exec (.agentEventResend agent seq) s = .next t ∧ s.ChangesOnly t [.agents] [])
  ∧ (∀ (agent : Addr) (h : MgmtHead) (value : Word) (s : State), ∃ t, exec (.agentArm agent h value) s = .next t ∧ s.ChangesOnly t [.outbox, .agents] [.SLV])
  ∧ (∀ (agent : Addr) (h : MgmtHead) (value : Word) (s : State), ∃ t, exec (.agentDisarm agent h value) s = .next t ∧ s.ChangesOnly t [.outbox, .agents] [.SLV])
  ∧ (∀ (agent : Addr) (h : MgmtHead) (bank : Nat) (s : State), ∃ t, exec (.agentSetLit agent h bank) s = .next t ∧ s.ChangesOnly t [.outbox, .agents] [.SLV])
  ∧ (∀ (agent : Addr) (h : MgmtHead) (value : Word) (s : State), ∃ t, exec (.agentGo agent h value) s = .next t ∧ s.ChangesOnly t [.outbox, .agents] [.SLV])
  ∧ (∀ (agent : Addr) (h : MgmtHead) (index : Nat) (s : State), ∃ t, exec (.agentFreeze agent h index) s = .next t ∧ s.ChangesOnly t [.outbox, .agents] [.SLV])
  ∧ (∀ (agent : Addr) (h : MgmtHead) (index : Nat) (s : State), ∃ t, exec (.agentThaw agent h index) s = .next t ∧ s.ChangesOnly t [.outbox, .agents] [.SLV])
  ∧ (∀ (agent : Addr) (h : MgmtHead) (value : Word) (s : State), ∃ t, exec (.agentCheckValue agent h value) s = .next t ∧ s.ChangesOnly t [.outbox, .agents] [.SLV])
  ∧ (∀ (agent : Addr) (s : State), ∃ t, exec (.agentCheckValueDone agent) s = .next t ∧ s.ChangesOnly t [.agents] [])
  ∧ (∀ (agent : Addr) (h : MgmtHead) (len : Nat) (s : State), ∃ t, exec (.agentSealCommit agent h len) s = .next t ∧ s.ChangesOnly t [.outbox, .agents] [.SLV])
  ∧ (∀ (agent : Addr) (envelopes : List (List Byte)) (s : State), ∃ t, exec (.agentSealVerifyDone agent envelopes) s = .next t ∧ s.ChangesOnly t [.outbox, .agents] [])
  ∧ (∀ (agent : Addr) (s : State), ∃ t, exec (.agentSealExpiry agent) s = .next t ∧ s.ChangesOnly t [.outbox, .agents] [])
  ∧ (∀ (agent : Addr) (s : State), ∃ t, exec (.agentGraceEnd agent) s = .next t ∧ s.ChangesOnly t [.outbox, .agents] [])
  ∧ (∀ (agent : Addr) (h : MgmtHead) (value : Word) (s : State), ∃ t, exec (.agentTrim agent h value) s = .next t ∧ s.ChangesOnly t [.outbox, .agents] [.SLV])
  ∧ (∀ (agent : Addr) (h : MgmtHead) (value : Word) (s : State), ∃ t, exec (.agentRate agent h value) s = .next t ∧ s.ChangesOnly t [.outbox, .agents] [.SLV])
  ∧ (∀ (agent : Addr) (h : MgmtHead) (value : Word) (s : State), ∃ t, exec (.agentStep agent h value) s = .next t ∧ s.ChangesOnly t [.outbox, .agents] [.SLV])
  ∧ (∀ (agent : Addr) (s : State), ∃ t, exec (.agentPeriodChange agent) s = .next t ∧ s.ChangesOnly t [.agents] [])
  ∧ (∀ (agent : Addr) (h : MgmtHead) (value : Word) (s : State), ∃ t, exec (.agentServe agent h value) s = .next t ∧ s.ChangesOnly t [.outbox, .agents] [.SLV])
  ∧ (∀ (agent : Addr) (cause : Nat) (s : State), ∃ t, exec (.agentReset agent cause) s = .next t ∧ s.ChangesOnly t [.outbox, .agents] [])
  ∧ (∀ (agent : Addr) (slot : Nat) (s : State), ∃ t, exec (.agentLaunch agent slot) s = .next t ∧ s.ChangesOnly t [.outbox, .freeCtr, .agents] [])
  ∧ (∀ (agent : Addr) (slot : Nat) (s : State), ∃ t, exec (.agentTileDone agent slot) s = .next t ∧ s.ChangesOnly t [.outbox, .agents] [])
  ∧ (∀ (agent : Addr) (slot : Nat) (s : State), ∃ t, exec (.agentLanternDeadline agent slot) s = .next t ∧ s.ChangesOnly t [.outbox, .agents] [])
  ∧ (∀ (agent : Addr) (port : Nat) (seq : Nat) (s : State), ∃ t, exec (.agentEventAck agent port seq) s = .next t ∧ s.ChangesOnly t [.outbox, .agents] [])
  ∧ (∀ (agent : Addr) (ports : List AgPortMeas) (s : State), ∃ t, exec (.agentFlashBoundary agent ports) s = .next t ∧ s.ChangesOnly t [.outbox, .agents] [])
  ∧ (∀ (agent : Addr) (port : Nat) (p : Packet) (fault : Nat) (s : State), ∃ t, exec (.switchPacketIngress agent port p fault) s = .next t ∧ s.ChangesOnly t [.outbox, .freeCtr, .agents] [.SLV])
  ∧ (∀ (agent : Addr) (port : Nat) (p : Packet) (s : State), ∃ t, exec (.endpointPacketArrival agent port p) s = .next t ∧ s.ChangesOnly t [.outbox, .freeCtr, .agents] [])

/-- LASERS_READY lets the ports that wait train; PORT_TRAIN_DONE with 4 healthy lanes or more brings a training port up, with fewer it fails, and the next
one trains. In SECURE a HELLO or LINK_CONFIRM that passes its checks goes on to the next state, one that fails quarantines the port; a second
KEY_AGREEMENT_TIMEOUT quarantines it. VERIFY_TIMEOUT makes the port DARK, DARK_RETRY trains it. REKEY_DUE and REKEY advance the keys sent and received
under. -/
def Obligations.PortTrainingAndKeys : Prop :=
  (∀ (s : State) (c : Chart), s.chart.lit = some c → exec .lasersReady s = .next (({ s with link := { s.link with lasersUp := true } } : State).pumpTraining))
  ∧ (∀ (s : State) (port f : Nat) (ok : Bool) (z : State), (s.link.training.contains port = true ∧ (s.port port).st = .train) → z = { s with link := { s.link with training := s.link.training.filter (· != port) } } → 4 ≤ healthyLanes (f % 512) → exec (.portTrainDone port f ok) s = .next ((z.trained port (f % 512)).pumpTraining))
  ∧ (∀ (s : State) (port f : Nat) (ok : Bool) (z : State), (s.link.training.contains port = true ∧ (s.port port).st = .train) → z = { s with link := { s.link with training := s.link.training.filter (· != port) } } → healthyLanes (f % 512) < 4 → exec (.portTrainDone port f ok) s = .next ((z.trainFailed port (f % 512) ok).pumpTraining))
  ∧ (∀ (s : State) (port : Nat) (bytes : List Byte), (s.port port).st = .secure → exec (.hello port bytes) s = .next (if (stmtOk 0x06 0x138 false bytes && zeroIn bytes 286 26) && daymarkOk (bytesIn bytes 4 224) && !(s.debugLocked && decide ((bytes.getD 285 0).toNat < 128)) && !(port == 20 && ((bytes.getD 285 0).toNat % 64 != s.myRack % 64 || (bytes.getD 285 0).toNat / 64 % 2 == s.role)) then (s.onPort port fun p => { p with hello := some bytes }).askConfirm port else s.refuseIdentity port))
  ∧ (∀ (s : State) (port : Nat) (bytes far : List Byte) (z : State), ((s.port port).st = .secure ∧ (s.port port).hello = some far) → (z = s.onPort port (fun p => { p with keys := some (linkKeys p.scalar p.ownHello far), scalar := [], keyEpoch := 0, farEpoch := 0, txPackets := 0, rxPackets := 0, keyFlash := s.tim.flash, secureFails := 0, peer := some (BitVec.ofNat 64 (beNat (bytesIn far 28 8))) })) → exec (.linkConfirm port bytes) s = .next (if (stmtOk 0x05 0x44 true bytes && bytesIn bytes 4 64 == helloDigest (s.port port).ownHello far && stmtVerifies (daymarkKey (bytesIn far 4 224)) "Orvon-KX2 link" 0x44 bytes) = true then (if port = 20 then (z.onPort 20 fun p => { p with cls := 1 }).portTo 20 .lit 0 else z.portTo port .verify 0) else s.refuseIdentity port))
  ∧ (∀ (s : State) (port : Nat) (bytes : List Byte), ((s.port port).st = .secure ∧ (s.port port).hello = none) → exec (.linkConfirm port bytes) s = .next (s.refuseIdentity port))
  ∧ (∀ (s : State) (port : Nat), (s.port port).st = .secure → exec (.keyAgreementTimeout port) s = .next (if (s.port port).secureFails = 0 then (s.onPort port fun p => { p with secureFails := 1 }).trainPort port else (s.onPort port fun p => { p with secureFails := 0 }).portTo port .quarantined 5))
  ∧ (∀ (s : State) (port : Nat), (s.port port).st = .verify → exec (.verifyTimeout port) s = .next (if ((s.portTo port .dark 2).expectedOwn port).isSome then (((s.portTo port .dark 2).portClass port 2 3 7).raiseIf ((s.port port).cls != 2) Fld.DSC_INT_STATUS_NEIGHBOUR) else s.portTo port .dark 2))
  ∧ (∀ (s : State) (port : Nat), ((s.port port).st = .dark ∧ s.flag Fld.DSC_CTRL_RETRY_EN = true) → (s.inTest port = false ∧ s.atBroken port = false) → exec (.darkRetry port) s = .next (s.trainPort port))
  ∧ (∀ (s : State) (port : Nat) (k : LinkKeys), (s.port port).keys = some k → exec (.rekeyDue port) s = .next ((s.onPort port fun p => { p with keys := some { k with tx := epochKey k.ratchet (if k.low then 0 else 1) ((s.port port).keyEpoch + 1) }, keyEpoch := (s.port port).keyEpoch + 1, txPackets := 0, keyFlash := s.tim.flash }).sendLcb port 0x06 ((s.port port).keyEpoch + 1)))
  ∧ (∀ (s : State) (port : Nat) (e : Word) (k : LinkKeys), (s.port port).keys = some k → exec (.rekey port e) s = .next (s.onPort port fun p => { p with keys := some { k with rx := epochKey k.ratchet (if k.low then 1 else 0) e.toNat }, farEpoch := e.toNat, rxPackets := 0 }))

/-- A clean beacon is noted and judged in VERIFY, LIT and HELD; BEACON_LOSS makes the port DARK. A lane that lost its signal, and those the far end
failed, leave the active set; a laser fault brings in the next laser, with none left its position fails; a position move puts the port on the spare
position. PARK_ENTRY parks an idle link, or lanes under a low load; PARK follows the far end, LINK_WAKE_REQUEST and WAKE start a wake, WAKE_COMPLETE
returns the link. -/
def Obligations.BeaconsLanesAndLasers : Prop :=
  (∀ (s : State) (port : Nat) (p : Packet) (v z : State), (v = s.received port p.hdr ∧ v.refused port p.hdr = none) → beaconClean p.payload = true → (z = (v.returnCredits port p.hdr).onPort port (fun x => { x with heard := true, missing := 0, litHolder := bitAt (wordAt p.payload 7) 0, farOverlay := bitAt (wordAt p.payload 7) 1, farEpochHeld := (wordAt p.payload 6).toNat })) → (z.port port).st = .verify → exec (.beacon port p) s = .next (z.verifyBeacon port { w0 := wordAt p.payload 0, w4 := wordAt p.payload 4, w5 := wordAt p.payload 5 } (bitsOf (wordAt p.payload 1) 0 4)))
  ∧ (∀ (s : State) (port : Nat) (p : Packet) (v z : State), (v = s.received port p.hdr ∧ v.refused port p.hdr = none) → beaconClean p.payload = true → (z = (v.returnCredits port p.hdr).onPort port (fun x => { x with heard := true, missing := 0, litHolder := bitAt (wordAt p.payload 7) 0, farOverlay := bitAt (wordAt p.payload 7) 1, farEpochHeld := (wordAt p.payload 6).toNat })) → (z.port port).st = .lit → exec (.beacon port p) s = .next (z.litBeacon port { w0 := wordAt p.payload 0, w4 := wordAt p.payload 4, w5 := wordAt p.payload 5 }))
  ∧ (∀ (s : State) (port : Nat) (p : Packet) (v z : State), (v = s.received port p.hdr ∧ v.refused port p.hdr = none) → beaconClean p.payload = true → (z = (v.returnCredits port p.hdr).onPort port (fun x => { x with heard := true, missing := 0, litHolder := bitAt (wordAt p.payload 7) 0, farOverlay := bitAt (wordAt p.payload 7) 1, farEpochHeld := (wordAt p.payload 6).toNat })) → (z.port port).st = .held → exec (.beacon port p) s = .next (z.litBeacon port { w0 := wordAt p.payload 0, w4 := wordAt p.payload 4, w5 := wordAt p.payload 5 }))
  ∧ (∀ (s : State) (port : Nat) (p : Packet) (v z : State), (v = s.received port p.hdr ∧ v.refused port p.hdr = none) → beaconClean p.payload = true → (z = (v.returnCredits port p.hdr).onPort port (fun x => { x with heard := true, missing := 0, litHolder := bitAt (wordAt p.payload 7) 0, farOverlay := bitAt (wordAt p.payload 7) 1, farEpochHeld := (wordAt p.payload 6).toNat })) → (z.port port).st = .dark → exec (.beacon port p) s = .next (z))
  ∧ (∀ (s : State) (port : Nat), (((s.port port).st = .verify ∨ (s.port port).st = .lit ∨ (s.port port).st = .held) ∧ port < 20) → exec (.beaconSend port) s = .next (s.enqueue port (mkPacket s.self s.self 0 0 0 0 0x01 0 (s.beaconWords port))))
  ∧ (∀ (s : State) (port : Nat), (((s.port port).st = .lit ∨ (s.port port).st = .held) ∧ port < 20) → s.getF Fld.DSC_TIMING_BEACON_LOSS ≤ (s.port port).missing → exec (.beaconLoss port) s = .next (s.portTo port .dark 2))
  ∧ (∀ (s : State) (port k old : Nat) (y z : State), (s.link.moving.find? (fun m => m.1 == port) = some (port, k) ∧ old = (s.port port).position) → (y = { s with link := { s.link with moving := s.link.moving.filter fun m => m.1 != port } }) → (z = (((((y.onPos old fun x => { x with logical := 0x1F }).onPos k fun x => { x with logical := port }).onPort port fun p => { p with position := k, trainFails := 0 }).reserve 1 old k).raise Fld.DSC_INT_STATUS_SPARE_PORT)) → exec (.sparePositionMoveDone port) s = .next (if (z.port port).st = .dark then z.trainPort port else z))
  ∧ (∀ (s : State) (port lane : Nat), (lane < 9 ∧ (s.port port).active.testBit lane = true) → exec (.laneSignalLoss port lane) s = .next (s.failLanes port (1 <<< lane)))
  ∧ (∀ (s : State) (port f : Nat), ((s.port port).st = .lit ∨ (s.port port).st = .held) → exec (.laneChange port f) s = .next ((s.onPort port fun p => { p with farFailed := f % 512 }).applyLanes port (maskMinus (f % 512) ((s.port port).failed ||| (s.port port).farFailed))))
  ∧ (∀ (s : State) (q n l : Nat) (y z : State), (q < 24 ∧ n = (s.pos q).logical) → ([1, 2].find? (fun l => !s.link.spentLasers.contains (q / 6, l)) = some l) → (y = ({ s with link := { s.link with spentLasers := s.link.spentLasers ++ [(q / 6, l)] } } : State).onPos q (fun x => { x with laser := l })) → (z = (if (s.port n).st = .lit ∨ (s.port n).st = .held ∨ (s.port n).st = .parked then (y).portTo n .dark 8 else y).reserve 2 q l) → exec (.laserFault q) s = .next (if (z.port n).st = .dark ∧ z.atBroken n = false then z.trainPort n else z))
  ∧ (∀ (s : State) (q n : Nat), (q < 24 ∧ n = (s.pos q).logical) → ([1, 2].find? (fun l => !s.link.spentLasers.contains (q / 6, l)) = none) → exec (.laserFault q) s = .next ((if (s.port n).st = .lit ∨ (s.port n).st = .held ∨ (s.port n).st = .parked then (s).portTo n .dark 8 else s).positionFails q))
  ∧ (∀ (s : State) (port k : Nat), ((s.port port).st = .lit ∧ s.flag Fld.DSC_CTRL_PARK_EN = true ∧ s.ownDepth port ≠ 0) → (4 ≤ k ∧ k ≤ 7 ∧ s.lowLoad port k = true) → exec (.parkEntry port (some k)) s = .next ((s.fillBuckets port).onPort port fun p => { p with parked := maskMinus p.parked p.active ||| maskMinus p.active (maskOf ((bitIndices (s.port port).active 9).take k)) }))
  ∧ (∀ (s : State) (port : Nat) (z : State), ((s.port port).st = .lit ∧ s.flag Fld.DSC_CTRL_PARK_EN = true ∧ s.ownDepth port ≠ 0) → (s.getF Fld.DSC_PARK_PARK_IDLE ≤ (s.port port).idle ∧ (s.port port).eg.queue = []) → (z = ((s.onPort port fun p => { p with depth := s.ownDepth port }).portTo port .parked 0)) → exec (.parkEntry port none) s = .next (z.sendLcb port 0x04 (z.port port).depth))
  ∧ (∀ (s : State) (port d : Nat), ((s.port port).st = .lit ∧ 1 ≤ d ∧ d ≤ s.ownDepth port) → exec (.park port d) s = .next ((s.onPort port fun p => { p with depth := d }).portTo port .parked 0))
  ∧ (∀ (s : State) (port : Nat), ((s.port port).st = .parked ∧ (s.port port).eg.queue ≠ [] ∧ (s.port port).waking = false) → exec (.linkWakeRequest port) s = .next (if (s.port port).depth < 3 then (s.onPort port fun p => { p with waking := true }).sendLcb port 0x05 0 else s.onPort port fun p => { p with waking := true }))
  ∧ (∀ (s : State) (port : Nat), (s.port port).st = .parked → exec (.wake port) s = .next (s.onPort port fun p => { p with waking := true }))
  ∧ (∀ (s : State) (port f u : Nat) (z : State), ((s.port port).st = .parked ∧ (s.port port).waking = true) → u = (s.port port).failed ||| f % 512 ||| (s.port port).farFailed → (z = s.onPort port (fun p => { p with failed := p.failed ||| f % 512, active := laneMap u, parked := if u = 0 then 1 <<< 8 else 0 })) → exec (.wakeComplete port f) s = .next (if healthyLanes u < 4 then z.portTo port .dark 3 else z.portTo port .lit 0))

/-- FABRIC_TEST_END ends a test that ran its time or was not agreed to; the far end's requests and agreements are taken. A wrong header or frame, a wrong
tag, an invalid control block and a reserved opkind are counted and discarded; WINDOW_ACK is taken; a port change event reads the records it names;
GO_MISSING and AGENT_RESET events are taken by their operations. EGRESS_PACKET_BOUNDARY sends the packet chosen, at an agent's port or one of the
Keeper's; with none eligible nothing leaves. TOKEN_BUCKET_REFILL fills the bucket by the rate of the lanes in service, CREDIT_RETURN adds the units to
their VC up to what the far receiver provides, RESYNC_MARK is answered with a grant of the units free at the receiver, RESYNC_GRANT sets the credits
and ends the resynchronisation. -/
def Obligations.FabricTestEgressAndCredits : Prop :=
  (∀ (s : State) (bits : Nat) (errors : List Nat) (t : FabTest), s.link.test = some t → (t.agreed = true ∧ t.left = 0) → exec (.fabricTestEnd bits errors) s = .next ((s.endTest t.port (if s.testFails bits errors = 0 then 0 else 1) (s.testFails bits errors)).renew Fld.DSC_TEST_CTRL_START State.testAct))
  ∧ (∀ (s : State) (bits : Nat) (errors : List Nat) (t : FabTest), s.link.test = some t → (t.agreed = false ∧ 4 ≤ t.waited) → exec (.fabricTestEnd bits errors) s = .next ((s.endTest t.port 2 0).renew Fld.DSC_TEST_CTRL_START State.testAct))
  ∧ (∀ (s : State) (port : Nat) (ok : Bool) (z : State), (16 ≤ port ∧ port < 20) → (ok = decide ((s.port port).st = .dark ∨ (s.port port).st = .extra ∨ (s.port port).st = .quarantined)) → (z = s.onPort port (fun p => { p with testHold := ok })) → exec (.testHoldRequest port true) s = .next (z.sendFar port fun via a p => .testAgree via a p ok))
  ∧ (∀ (s : State) (port : Nat), (16 ≤ port ∧ port < 20) → exec (.testHoldRequest port false) s = .next (s.onPort port fun p => { p with testHold := false }))
  ∧ (∀ (s : State) (port : Nat) (t : FabTest), (s.link.test = some t ∧ t.port = port) → exec (.testHoldAgree port true) s = .next ({ s with link := { s.link with test := some { t with agreed := true } } }))
  ∧ (∀ (s : State) (port : Nat) (b : BitVec 128), lcbValid b = false → exec (.linkControlBlockInvalid port b) s = .next (s.onPort port fun p => { p with lcbErrors := p.lcbErrors + 1 }))
  ∧ (∀ (s : State) (port : Nat) (ws : List Word) (lanes : Nat), headerWrong ws = true → exec (.hcrcError port ws lanes) s = .next ((s.onPort port fun p => { p with hcrc := satAdd (2 ^ 32 - 1) p.hcrc 1, resyncDue := true, unclean := true, discards := p.discards + 1, rxPackets := p.rxPackets + 1 }).badLanes port lanes))
  ∧ (∀ (s : State) (port : Nat) (f : WireFrame) (lanes : Nat), frameWrong f = true → exec (.frameCheckError port f lanes) s = .next ((((s.returnCredits port f.hdr).onPort port fun p => { p with rxPackets := p.rxPackets + 1 }).onPort port fun x => { x with fcs := satAdd (2 ^ 32 - 1) x.fcs 1, unclean := true }).badLanes port lanes))
  ∧ (∀ (s : State) (port : Nat) (f : WireFrame) (lanes : Nat) (z : State), (frameWrong f = false ∧ s.tagWrong port f = true) → (z = ((s.returnCredits port f.hdr).onPort port fun p => { p with rxPackets := p.rxPackets + 1 }).onPort port (fun x => { x with auth := satAdd (2 ^ 32 - 1) x.auth 1, tagFails := x.tagFails + 1 })) → exec (.frameCheckError port f lanes) s = .next (if z.getF Fld.DSC_HEALTH_AUTH_LIMIT ≤ (z.port port).tagFails ∧ ((z.port port).st = .lit ∨ (z.port port).st = .held) then (z.portTo port .dark 4).raise Fld.DSC_INT_STATUS_AUTH else z))
  ∧ (∀ (s : State) (port : Nat) (p : Packet), opkindKnown p.hdr.opkind.toNat = false → exec (.reservedOpkindPacket port p) s = .next ((s.received port p.hdr).refusePacket port p.hdr 1))
  ∧ (∀ (s : State) (port : Nat) (p : Packet) (v : State), (v = s.received port p.hdr ∧ v.refused port p.hdr = none) → exec (.windowAck port p) s = .next ((v.ackIn p.hdr p.payload).2.returnCredits port p.hdr))
  ∧ (∀ (s v : State) (port : Nat) (p : Packet) (ev : AgentEvent), s.TakesEvent 2 port p v ev → exec (.portChangeEvent port p) s = .next ((ev.body.take ev.arg.toNat).foldl (fun v w => v.mgmtRead ev.agent (0x1000 + 0x20 * bitsOf w 0 8) 3 0x03 (.nbr (bitsOf w 0 8))) v))
  ∧ (∀ (s v : State) (port : Nat) (p : Packet) (ev : AgentEvent), s.TakesEvent 4 port p v ev → exec (.goMissingEvent port p) s = .next (v.goMissing ev))
  ∧ (∀ (s v : State) (port : Nat) (p : Packet) (ev : AgentEvent), s.TakesEvent 3 port p v ev → exec (.agentResetEvent port p) s = .next (v.agentWasReset ev))
  ∧ (∀ (s : State) (port : Nat) (w : Waiting) (p : Port), s.choose port = some (w, p) → exec (.egressPacketBoundary none port) s = .next (s.emit port w p))
  ∧ (∀ (s : State) (port : Nat), s.choose port = none → exec (.egressPacketBoundary none port) s = .next (s))
  ∧ (∀ (s : State) (a : Addr) (port : Nat), exec (.egressPacketBoundary (some a) port) s = .next (s.agEmit a port))
  ∧ (∀ (s : State) (port vc : Nat), exec (.tokenBucketRefill none port vc) s = .next (s.onPort port fun p => { p with eg := s.refill p.serving vc p.eg }))
  ∧ (∀ (s : State) (a : Addr) (port vc : Nat), exec (.tokenBucketRefill (some a) port vc) s = .next (s.onAgent a fun g => g.onPort port fun p => { p with eg := s.refill p.lanes vc p.eg }))
  ∧ (∀ (s : State) (port vc n : Nat), (port < s.link.ports.length ∧ vc < 8 ∧ vc < (s.port port).eg.credits.length) → ∃ t, exec (.creditReturn none port vc n) s = .next t ∧ (t.port port).eg.credits.getD vc 0 = min 130 ((s.port port).eg.credits.getD vc 0 + n) ∧ ∀ m, m ≠ port → t.port m = s.port m)
  ∧ (∀ (s : State) (a : Addr) (port vc n : Nat), exec (.creditReturn (some a) port vc n) s = .next (s.onAgent a fun g => g.onPort port fun p => { p with eg := p.eg.regain (farUnits port) vc n }))
  ∧ (∀ (s : State) (port : Nat), exec (.resyncMark none port) s = .next (s.sendLcb port 0x03 (grantBody fun vc => 130 - s.buffered port vc)))
  ∧ (∀ (s : State) (a : Addr) (port : Nat), exec (.resyncMark (some a) port) s = .next (s.agLcb a port 0x03 (grantBody fun vc => 65 - (s.agent a).buffered port vc)))
  ∧ (∀ (s : State) (port : Nat) (units : List Nat), port < s.link.ports.length → ∃ t, exec (.resyncGrant none port units) s = .next t ∧ (t.port port).eg = (s.port port).eg.grant units ∧ (t.port port).eg.resyncing = false ∧ ∀ m, m ≠ port → t.port m = s.port m)
  ∧ (∀ (s : State) (a : Addr) (port : Nat) (units : List Nat), exec (.resyncGrant (some a) port units) s = .next (s.onAgent a fun g => g.onPort port fun p => { p with eg := p.eg.grant units }))

/-- FABRIC_TEST_START, LMP_INJECT_ARM, FLOOR_CLEAR, WALL_APPLY, TEL_PEAK_CLEAR, AUTO_SPARE, ENROL_GO, KEY_ROTATE, HANDOVER, RESYNC_REQ, RST_TEST_STALL and
PWR_PEAK_CLEAR: a host write that reaches the unit, in no level-4 reset and with the owner's engine not held in reset, completes; the register takes
what its access codes make of the value written (regWriteValue), and the owner's request action runs on that state. CLEAR_QUAR releases the position
that the port named stands on. SERIAL_FLOOR_WRITE of a value not lower takes it; of a lower one changes nothing but the record of the ignored write. -/
def Obligations.RequestRegisterWrites : Prop :=
  (∀ (s : State) (v : Word), s.hostReaches = true → s.resetLevel ≠ 4 → s.engineHeld (blockEngine Reg.DSC_TEST_CTRL) = false → ∃ u : State, exec (.fabricTestStart v) s = .next u.testAct ∧ ((regRow Reg.DSC_TEST_CTRL).map fun r => (regWriteValue r (s.getReg Reg.DSC_TEST_CTRL) v 0).1) = some (u.getReg Reg.DSC_TEST_CTRL))
  ∧ (∀ (s : State) (v : Word), s.hostReaches = true → s.resetLevel ≠ 4 → s.engineHeld (blockEngine Reg.LMP_INJECT) = false → bitsOf v 0 6 ≤ 33 → ∃ u : State, exec (.lmpInjectArm v) s = .next u ∧ ((regRow Reg.LMP_INJECT).map fun r => (regWriteValue r (s.getReg Reg.LMP_INJECT) v 0).1) = some (u.getReg Reg.LMP_INJECT))
  ∧ (∀ (s : State) (v : Word), s.hostReaches = true → s.resetLevel ≠ 4 → s.engineHeld (blockEngine Reg.TIM_CTRL) = false → ∃ u : State, exec (.floorClear v) s = .next u.floorAct ∧ ((regRow Reg.TIM_CTRL).map fun r => (regWriteValue r (s.getReg Reg.TIM_CTRL) v 0).1) = some (u.getReg Reg.TIM_CTRL))
  ∧ (∀ (s : State) (v : Word), s.hostReaches = true → s.resetLevel ≠ 4 → s.engineHeld (blockEngine Reg.TIM_WALL_CTRL) = false → ∃ u : State, exec (.wallApply v) s = .next u.wallAct ∧ ((regRow Reg.TIM_WALL_CTRL).map fun r => (regWriteValue r (s.getReg Reg.TIM_WALL_CTRL) v 0).1) = some (u.getReg Reg.TIM_WALL_CTRL))
  ∧ (∀ (s : State) (v : Word), s.hostReaches = true → s.resetLevel ≠ 4 → s.engineHeld (blockEngine Reg.TEL_CTRL) = false → ∃ u : State, exec (.telPeakClear v) s = .next u.telAct ∧ ((regRow Reg.TEL_CTRL).map fun r => (regWriteValue r (s.getReg Reg.TEL_CTRL) v 0).1) = some (u.getReg Reg.TEL_CTRL))
  ∧ (∀ (s : State) (v : Word), s.hostReaches = true → s.resetLevel ≠ 4 → s.engineHeld (blockEngine Reg.RST_CTRL) = false → ∃ u : State, exec (.autoSpare true v) s = .next (if u.flag Fld.RST_CTRL_AUTO_SPARE then u.bringWithheld else u) ∧ ((regRow Reg.RST_CTRL).map fun r => (regWriteValue r (s.getReg Reg.RST_CTRL) v 0).1) = some (u.getReg Reg.RST_CTRL))
  ∧ (∀ (s : State) (v : Word), s.hostReaches = true → s.resetLevel ≠ 4 → s.engineHeld (blockEngine Reg.LMP_CTRL) = false → ∃ u : State, exec (.autoSpare false v) s = .next (if u.flag Fld.LMP_CTRL_AUTO_SPARE then u.bringWithheldLamps else u) ∧ ((regRow Reg.LMP_CTRL).map fun r => (regWriteValue r (s.getReg Reg.LMP_CTRL) v 0).1) = some (u.getReg Reg.LMP_CTRL))
  ∧ (∀ (s : State) (v : Word), s.hostReaches = true → s.resetLevel ≠ 4 → s.engineHeld (blockEngine Reg.WDN_ENROL_CTRL) = false → ∃ u : State, exec (.enrolGo v) s = .next u.enrolAct ∧ ((regRow Reg.WDN_ENROL_CTRL).map fun r => (regWriteValue r (s.getReg Reg.WDN_ENROL_CTRL) v 0).1) = some (u.getReg Reg.WDN_ENROL_CTRL))
  ∧ (∀ (s : State) (v : Word), s.hostReaches = true → s.resetLevel ≠ 4 → s.engineHeld (blockEngine Reg.WDN_ROTATE) = false → ∃ u : State, exec (.keyRotate v) s = .next u.rotateAct ∧ ((regRow Reg.WDN_ROTATE).map fun r => (regWriteValue r (s.getReg Reg.WDN_ROTATE) v 0).1) = some (u.getReg Reg.WDN_ROTATE))
  ∧ (∀ (s : State) (v : Word), s.hostReaches = true → s.resetLevel ≠ 4 → s.engineHeld (blockEngine Reg.MOR_CTRL) = false → ∃ u : State, exec (.handover v) s = .next u.morAct ∧ ((regRow Reg.MOR_CTRL).map fun r => (regWriteValue r (s.getReg Reg.MOR_CTRL) v 0).1) = some (u.getReg Reg.MOR_CTRL))
  ∧ (∀ (s : State) (v : Word), s.hostReaches = true → s.resetLevel ≠ 4 → s.engineHeld (blockEngine Reg.MOR_CTRL) = false → ∃ u : State, exec (.resyncReq v) s = .next u.morAct ∧ ((regRow Reg.MOR_CTRL).map fun r => (regWriteValue r (s.getReg Reg.MOR_CTRL) v 0).1) = some (u.getReg Reg.MOR_CTRL))
  ∧ (∀ (s : State) (v : Word), s.hostReaches = true → s.resetLevel ≠ 4 → s.engineHeld (blockEngine Reg.RST_TEST) = false → ∃ u : State, exec (.rstTestStall v) s = .next u.stallAct ∧ ((regRow Reg.RST_TEST).map fun r => (throttleHeld Reg.RST_TEST (s.getReg Reg.RST_TEST) (regWriteValue r (s.getReg Reg.RST_TEST) v 0).1).1) = some (u.getReg Reg.RST_TEST))
  ∧ (∀ (s : State) (v : Word), s.hostReaches = true → s.resetLevel ≠ 4 → s.engineHeld (blockEngine Reg.PWR_CTRL) = false → ∃ u : State, exec (.pwrPeakClear v) s = .next u.peakAct ∧ ((regRow Reg.PWR_CTRL).map fun r => (regWriteValue r (s.getReg Reg.PWR_CTRL) v 0).1) = some (u.getReg Reg.PWR_CTRL))
  ∧ (∀ (s : State) (v : Word), s.hostReaches = true → s.resetLevel ≠ 4 → (bitAt v 8 = true ∧ bitsOf v 0 5 < 21) → (s.port (bitsOf v 0 5)).position < s.link.positions.length → ∃ t, exec (.clearQuar v) s = .next t ∧ (t.pos (s.port (bitsOf v 0 5)).position).quar = false ∧ (t.pos (s.port (bitsOf v 0 5)).position).loopbackFail = false)
  ∧ (∀ (s : State) (v : Word), s.hostReaches = true → s.resetLevel ≠ 4 → (s.getReg Reg.CHT_SERIAL_FLOOR).toNat ≤ v.toNat → s.engineHeld (blockEngine Reg.CHT_SERIAL_FLOOR) = false → ∃ t, exec (.serialFloorWrite v) s = .next t ∧ t.getReg Reg.CHT_SERIAL_FLOOR = v)
  ∧ (∀ (s : State) (v : Word), s.hostReaches = true → s.resetLevel ≠ 4 → v.toNat < (s.getReg Reg.CHT_SERIAL_FLOOR).toNat → ∃ t, exec (.serialFloorWrite v) s = .next t ∧ t.getReg Reg.CHT_SERIAL_FLOOR = s.getReg Reg.CHT_SERIAL_FLOOR ∧ t.flag Fld.HIF_ERR_STATUS_IGNORED = true)

/-- D3HOT_ENTRY disables memory space and D0_RETURN ends it with no message left owed. MSIX_SPACING_EXPIRY ends a vector's spacing; with nothing due no
message goes. FUNCTION_LEVEL_RESET and PERST_ASSERT make every window IDLE with LAST_SEQ 0, all vectors as PCIe resets them and no completion waiting,
then reset HIF at level 2 (State.resetEngine); PERST_ASSERT holds the link down. PCIE_LINK_TRAINED shows the rate offered, or the highest that
MAX_SPEED allows, and the width. A write of WIN_SEQ commits the window: BUSY, LAST_SEQ and the stamp; one of a block word that is not BUSY writes it.
RESERVED_OPCODE commits and completes with BAD_OPCODE. -/
def Obligations.PcieFunctionEvents : Prop :=
  (∀ (s : State), ∃ t, exec .d3hotEntry s = .next t ∧ t.hif.d3hot = true ∧ t.hif.windows = s.hif.windows ∧ t.outbox = s.outbox)
  ∧ (∀ (s : State), ∃ t, exec .d0Return s = .next t ∧ t.hif.d3hot = false ∧ t.hif.owed = [])
  ∧ (∀ (s : State) (n : Nat), n < s.hif.vecs.length → (s.vec n).due = false → ∃ t, exec (.msixSpacingExpiry n) s = .next t ∧ (t.vec n).spacing = false ∧ t.outbox = s.outbox)
  ∧ (∀ (s : State) (n : Nat), n < 16 → n < s.hif.vecs.length → (s.vec n).due = true → (s.vec n).ctrl = 0 → s.hif.d3hot = false → ∃ t, exec (.msixSpacingExpiry n) s = .next t ∧ t.outbox = .msix n (s.vec n).addr (s.vec n).data :: s.outbox ∧ (t.vec n).spacing = true ∧ (t.vec n).due = false)
  ∧ (∀ (s : State), ∃ u : State, exec .functionLevelReset s = .next (u.resetEngine 0x01 2 0 0 0 []) ∧ (∀ x ∈ u.hif.windows, x.st = .idle ∧ x.lastSeq = 0) ∧ u.hif.vecs = List.replicate 64 Vec.reset ∧ u.hif.waits = [] ∧ u.regs = s.regs)
  ∧ (∀ (s : State), ∃ u t : State, exec .perstAssert s = .next t ∧ t = { (u.resetEngine 0x01 2 0 0 0 []) with hif := { (u.resetEngine 0x01 2 0 0 0 []).hif with perst := true, linkUp := false, d3hot := false } } ∧ (∀ x ∈ u.hif.windows, x.st = .idle ∧ x.lastSeq = 0) ∧ u.hif.vecs = List.replicate 64 Vec.reset ∧ u.hif.waits = [] ∧ u.regs = s.regs)
  ∧ (∀ (s : State) (offered width rate : Nat), rate = min offered (6 - s.getF Fld.HIF_CTRL_MAX_SPEED) → width < 64 → ∃ t, exec (.pcieLinkTrained offered width) s = .next t ∧ t.getF Fld.HIF_LINK_SPEED = rate ∧ t.getF Fld.HIF_LINK_WIDTH = width ∧ t.getF Fld.HIF_LINK_SLOW = (if rate < 4 ∨ width < 4 then 1 else 0))
  ∧ (∀ (s : State) (w : Nat) (value : BitVec 64) (x : Word), s.hostReaches = true → w < 16 → x = value.extractLsb' 0 32 → s.commits w (x.extractLsb' 0 16) = true → exec (.commandWindowWrite (0x1000 * w) 4 value) s = .next (runOpcode (bitsOf (wordAt (s.window w).block 0) 0 8) w (s.commit w (x.extractLsb' 0 16))))
  ∧ (∀ (s : State) (w i : Nat) (value : BitVec 64), s.hostReaches = true → w < 16 → i < 32 → w < s.hif.windows.length → (s.window w).st ≠ .busy → ∃ t, exec (.commandWindowWrite (0x1000 * w + 0x40 + 4 * i) 4 value) s = .next t ∧ (t.window w).block = modifyAt (fun _ => value.extractLsb' 0 32) i (s.window w).block ∧ (t.window w).st = (s.window w).st ∧ (t.window w).lastSeq = (s.window w).lastSeq)
  ∧ (∀ (s : State) (c : HostCmd) (op : Byte), s.hostReaches = true → s.commits c.win.toNat c.seq = true → (op = 0 ∨ 0x10 < op.toNat) → exec (.reservedOpcode op c) s = .next ((s.committed c op.toNat).complete c.win.toNat 1 0 [] false))
  ∧ (∀ (s : State) (c : HostCmd) (op : Nat), c.win.toNat < s.hif.windows.length → (s.window c.win.toNat).block.length = 32 → (s.window c.win.toNat).st ≠ .busy → c.args.length ≤ 31 → ((s.committed c op).window c.win.toNat).st = .busy ∧ ((s.committed c op).window c.win.toNat).lastSeq = c.seq ∧ ((s.committed c op).window c.win.toNat).stamp = s.tim.flash ∧ ((s.committed c op).window c.win.toNat).results = List.replicate 16 0 ∧ ∀ i < c.args.length, (s.committed c op).arg c.win.toNat (i + 1) = wordAt c.args i)

/-- A host command whose window commits (State.Commits) with arguments in their ranges takes its own effect. LOAD_CHART marks the slot LOADING and starts
the read of the file; LIGHT_CHART is an input of CHT's next batch; STORE queues its job; SLICE_CREATE, SLICE_RESEAL and PLAN_COLLECTIVE start the read
of their descriptor, SLICE_DRAIN and SLICE_DESTROY issue their request under the slice's ID, ABORT_COLLECTIVE adds its request with the next tag. The
chart commands need no lit chart, the others need one. -/
def Obligations.HostCommandsOnChartsAndSlicesRun : Prop :=
  (∀ (s B : State) (c : HostCmd), s.Commits c 0x01 B → (B.arg c.win.toNat 1).toNat ≤ 3 → ((B.arg c.win.toNat 2).toNat % 4 = 0 ∧ 128 ≤ (B.arg c.win.toNat 4).toNat ∧ (B.arg c.win.toNat 4).toNat ≤ 4194304 ∧ (B.arg c.win.toNat 4).toNat % 4 = 0) → B.slotLocked (B.arg c.win.toNat 1).toNat = false → exec (.loadChart c) s = .next ((B.onSlot (B.arg c.win.toNat 1).toNat fun x => { x with prev := x.shadow, shadow := .loading, loadLen := (B.arg c.win.toNat 4).toNat, loadWin := c.win.toNat }).startDma c.win.toNat (.chart (B.arg c.win.toNat 1).toNat) ((B.arg c.win.toNat 2).toNat + (B.arg c.win.toNat 3).toNat * 2 ^ 32) (B.arg c.win.toNat 4).toNat fun s => s.onSlot (B.arg c.win.toNat 1).toNat fun x => { x with shadow := x.prev, loadWin := 16 }))
  ∧ (∀ (s B : State) (c : HostCmd), s.Commits c 0x02 B → B.lit = true → (B.arg c.win.toNat 1).toNat ≤ 3 → exec (.lightChart c) s = .next (B.stageInput .cht (.light c.win.toNat (B.arg c.win.toNat 1).toNat)))
  ∧ (∀ (s B : State) (c : HostCmd), s.Commits c 0x03 B → (B.arg c.win.toNat 1).toNat < 32 → exec (.store c) s = .next (({ B with chart := { B.chart with storeQueue := B.chart.storeQueue ++ [{ win := c.win.toNat, slots := bitIndices (B.arg c.win.toNat 1).toNat 4, keys := (B.arg c.win.toNat 1).toNat.testBit 4, written := 0, retired := 0, settings := none }] } } : State).storeNext))
  ∧ (∀ (s B : State) (c : HostCmd), s.Commits c 0x04 B → B.lit = true → (B.arg c.win.toNat 1).toNat % 4 = 0 → (16 ≤ (B.arg c.win.toNat 3).toNat ∧ (B.arg c.win.toNat 3).toNat ≤ 2320 ∧ (B.arg c.win.toNat 3).toNat % 4 = 0) → exec (.sliceCreate c) s = .next (B.startDma c.win.toNat (.slice false) ((B.arg c.win.toNat 1).toNat + (B.arg c.win.toNat 2).toNat * 2 ^ 32) (B.arg c.win.toNat 3).toNat id))
  ∧ (∀ (s B : State) (c : HostCmd), s.Commits c 0x05 B → B.lit = true → (B.arg c.win.toNat 1).toNat % 4 = 0 → (16 ≤ (B.arg c.win.toNat 3).toNat ∧ (B.arg c.win.toNat 3).toNat ≤ 2320 ∧ (B.arg c.win.toNat 3).toNat % 4 = 0) → exec (.sliceReseal c) s = .next (B.startDma c.win.toNat (.slice true) ((B.arg c.win.toNat 1).toNat + (B.arg c.win.toNat 2).toNat * 2 ^ 32) (B.arg c.win.toNat 3).toNat id))
  ∧ (∀ (s B : State) (c : HostCmd), s.Commits c 0x06 B → B.lit = true → (B.arg c.win.toNat 1).toNat ≤ 255 → exec (.sliceDrain c) s = .next (B.issueSlice c.win.toNat 3 (B.arg c.win.toNat 1).toNat []))
  ∧ (∀ (s B : State) (c : HostCmd), s.Commits c 0x07 B → B.lit = true → (B.arg c.win.toNat 1).toNat ≤ 255 → exec (.sliceDestroy c) s = .next (B.issueSlice c.win.toNat 4 (B.arg c.win.toNat 1).toNat []))
  ∧ (∀ (s B : State) (c : HostCmd), s.Commits c 0x08 B → B.lit = true → (B.arg c.win.toNat 1).toNat % 4 = 0 → (64 ≤ (B.arg c.win.toNat 3).toNat ∧ (B.arg c.win.toNat 3).toNat ≤ 16448 ∧ (B.arg c.win.toNat 3).toNat % 4 = 0) → exec (.planCollective c) s = .next (B.startDma c.win.toNat .plan ((B.arg c.win.toNat 1).toNat + (B.arg c.win.toNat 2).toNat * 2 ^ 32) (B.arg c.win.toNat 3).toNat id))
  ∧ (∀ (s B : State) (c : HostCmd), s.Commits c 0x09 B → B.lit = true → (B.arg c.win.toNat 1).toNat ≤ 255 → B.flag Fld.CHT_STATE_HEAD_MISMATCH = false → ∃ t, exec (.abortCollective c) s = .next t ∧ t.clp.issued = B.clp.issued ++ [{ win := c.win.toNat, tag := B.clp.nextTag, abort := true, slice := (B.arg c.win.toNat 1).toNat, ordinal := (B.arg c.win.toNat 2).toNat, words := [], flash := B.tim.flash }] ∧ t.clp.nextTag = (B.clp.nextTag + 1) % 4096)

/-- A host command whose window commits (State.Commits), with arguments in their ranges, takes its own effect. ATTEST and a renewal by ISSUE_SEAL queue
for the signature path, and ISSUE_SEAL of a slice whose seal stands answers with it; SET_WAKE_LATENCY is an input of DSC's next batch, which keeps the
statement of the slice and no other; ESCALATE_RESET requests its reset under the command's own cause; AGENT_READ issues one management read,
AGENT_WRITE of FA_CHECK_CTRL one write; READ_LOADMAP writes the frames selected and completes with their count. -/
def Obligations.HostCommandsOnSecurityAndResetRun : Prop :=
  (∀ (s B : State) (c : HostCmd), s.Commits c 0x0A B → (B.wdn.serving = true ∧ B.signFull = false) → ((B.arg c.win.toNat 2).toNat % 64 = 0 ∧ bitsOf (B.arg c.win.toNat 1) 8 24 = 0 ∧ ((bitsOf (B.arg c.win.toNat 1) 0 8) = 0 ∨ B.offRack (bitsOf (B.arg c.win.toNat 1) 0 8) = false)) → 808 + (if (bitsOf (B.arg c.win.toNat 1) 0 8) = 0 then 0 else (B.layoutBlock (bitsOf (B.arg c.win.toNat 1) 0 8)).length) ≤ (B.arg c.win.toNat 4).toNat → exec (.attest c) s = .next (State.startSign 1 false (B.pushSign (signJob (.report c.win.toNat) 4))))
  ∧ (∀ (s B : State) (c : HostCmd) (x : Seal), s.Commits c 0x0B B → (B.lit = true ∧ B.wdn.serving = true ∧ B.offRack (bitsOf (B.arg c.win.toNat 1) 0 8) = false ∧ B.isSealed (bitsOf (B.arg c.win.toNat 1) 0 8) = true) → (bitsOf (B.arg c.win.toNat 1) 9 23 = 0 ∧ (B.arg c.win.toNat 2).toNat % 64 = 0 ∧ (padStmt (zeros (388 + (B.layoutBlock (bitsOf (B.arg c.win.toNat 1) 0 8)).length + 114))).length ≤ (B.arg c.win.toNat 4).toNat) → B.sealDue (bitsOf (B.arg c.win.toNat 1) 0 8) = none → (bitAt (B.arg c.win.toNat 1) 8 = false ∧ B.seal (bitsOf (B.arg c.win.toNat 1) 0 8) = some x) → exec (.issueSeal c) s = .next (B.answerSeal { win := c.win.toNat, slice := (bitsOf (B.arg c.win.toNat 1) 0 8), addr := pairAt [B.arg c.win.toNat 2, B.arg c.win.toNat 3] 0, len := (B.arg c.win.toNat 4).toNat, since := 0 } x false))
  ∧ (∀ (s B : State) (c : HostCmd), s.Commits c 0x0B B → (B.lit = true ∧ B.wdn.serving = true ∧ B.offRack (bitsOf (B.arg c.win.toNat 1) 0 8) = false ∧ B.isSealed (bitsOf (B.arg c.win.toNat 1) 0 8) = true) → (bitsOf (B.arg c.win.toNat 1) 9 23 = 0 ∧ (B.arg c.win.toNat 2).toNat % 64 = 0 ∧ (padStmt (zeros (388 + (B.layoutBlock (bitsOf (B.arg c.win.toNat 1) 0 8)).length + 114))).length ≤ (B.arg c.win.toNat 4).toNat) → B.sealDue (bitsOf (B.arg c.win.toNat 1) 0 8) = none → (bitAt (B.arg c.win.toNat 1) 8 = true ∧ B.signFull = false) → exec (.issueSeal c) s = .next ((B.onWdn fun x => { x with waits := x.waits ++ [{ win := c.win.toNat, slice := (bitsOf (B.arg c.win.toNat 1) 0 8), addr := pairAt [B.arg c.win.toNat 2, B.arg c.win.toNat 3] 0, len := (B.arg c.win.toNat 4).toNat, since := B.tim.flash }] }).askSeal (bitsOf (B.arg c.win.toNat 1) 0 8) 4))
  ∧ (∀ (s B : State) (c : HostCmd), s.Commits c 0x0C B → B.lit = true → ((B.arg c.win.toNat 1).toNat ≠ 0 ∧ (B.arg c.win.toNat 1).toNat ≤ 255 ∧ B.sliceState (B.arg c.win.toNat 1).toNat ≠ 0 ∧ B.touches (B.arg c.win.toNat 1).toNat B.myRack = true) → (B.arg c.win.toNat 2).toNat ≤ 10000000 → exec (.setWakeLatency c) s = .next (B.stageInput .dsc (.wake c.win.toNat (B.arg c.win.toNat 1).toNat (B.arg c.win.toNat 2).toNat)))
  ∧ (∀ (v : State) (stamp w id ns : Nat), v.touches id v.myRack = true → ∃ t, v.takeJob stamp (.wake w id ns) = t ∧ lookupNat id t.link.wake = some ns ∧ ∀ k, k ≠ id → lookupNat k t.link.wake = lookupNat k v.link.wake)
  ∧ (∀ (s B : State) (c : HostCmd), s.Commits c 0x0D B → B.escalateRule (B.arg c.win.toNat 1) (B.arg c.win.toNat 2).toNat = 0 → bitsOf (B.arg c.win.toNat 1) 0 3 = 2 → B.rst.part = none → exec (.escalateReset c) s = .next (B.resetEngine (bitsOf (B.arg c.win.toNat 1) 8 8) 2 0 0 0 [(c.win.toNat, 2)]))
  ∧ (∀ (s B : State) (c : HostCmd), s.Commits c 0x0D B → B.escalateRule (B.arg c.win.toNat 1) (B.arg c.win.toNat 2).toNat = 0 → 3 < bitsOf (B.arg c.win.toNat 1) 0 3 → exec (.escalateReset c) s = .next (B.decidePart (bitsOf (B.arg c.win.toNat 1) 0 3) 0 0x0E 0 (bitAt (B.arg c.win.toNat 1) 3) [(c.win.toNat, bitsOf (B.arg c.win.toNat 1) 0 3)]))
  ∧ (∀ (s B : State) (c : HostCmd), s.Commits c 0x0E B → (B.lit = true ∧ B.isAgent ((B.arg c.win.toNat 1).extractLsb' 0 16) = true) → ((B.arg c.win.toNat 2).toNat % 4 = 0 ∧ (B.arg c.win.toNat 4).toNat % 64 = 0) → (1 ≤ (B.arg c.win.toNat 3).toNat ∧ (B.arg c.win.toNat 3).toNat ≤ 1020 ∧ 4 * (B.arg c.win.toNat 3).toNat ≤ (B.arg c.win.toNat 6).toNat) → exec (.agentRead c) s = .next (B.mgmtRead ((B.arg c.win.toNat 1).extractLsb' 0 16) (B.arg c.win.toNat 2).toNat (B.arg c.win.toNat 3).toNat 0x01 (.hostRead c.win.toNat ((B.arg c.win.toNat 5) ++ (B.arg c.win.toNat 4)))))
  ∧ (∀ (s B : State) (c : HostCmd), s.Commits c 0x0F B → (B.lit = true ∧ B.isAgent ((B.arg c.win.toNat 1).extractLsb' 0 16) = true) → (addrX ((B.arg c.win.toNat 1).extractLsb' 0 16) = B.rx ∧ addrY ((B.arg c.win.toNat 1).extractLsb' 0 16) = B.ry) → (B.arg c.win.toNat 2).toNat = 0x80 → exec (.agentWrite c) s = .next (B.mgmtWrite ((B.arg c.win.toNat 1).extractLsb' 0 16) 0x80 [B.arg c.win.toNat 4] 11 0 0x01 (.hostWrite c.win.toNat)))
  ∧ (∀ (s B : State) (c : HostCmd) (fs : List Frame) (z : State), s.Commits c 0x10 B → (B.arg c.win.toNat 1 = 0 ∧ bitsOf (B.arg c.win.toNat 3) 16 16 = 0) → (1 ≤ (B.arg c.win.toNat 4).toNat ∧ (B.arg c.win.toNat 4).toNat ≤ 1024 ∧ ((B.arg c.win.toNat 5).toNat + (B.arg c.win.toNat 6).toNat * 2 ^ 32) % 64 = 0 ∧ (B.arg c.win.toNat 4).toNat * 40960 ≤ (B.arg c.win.toNat 7).toNat) → B.flag Fld.HIF_CTRL_DMA_EN = true → (fs = selectFrames B.tel.fine ((B.arg c.win.toNat 2).toNat + bitsOf (B.arg c.win.toNat 3) 0 16 * 2 ^ 32) (B.arg c.win.toNat 4).toNat ∧ fs ≠ []) → z = ((if fs.flatMap (·.words) = [] then B else B.dmaWrite ((B.arg c.win.toNat 5).toNat + (B.arg c.win.toNat 6).toNat * 2 ^ 32) (fs.flatMap (·.words))).setReg Reg.TEL_LAST_READ (fieldAt 0 16 fs.length)).raiseIf false Fld.TEL_INT_STATUS_READ_MISSED → exec (.readLoadmap c) s = .next (z.complete c.win.toNat 0 0 [fieldAt 0 16 fs.length, loHalf ((fs.head?.map (·.flash)).getD 0), fieldAt 0 16 (((fs.head?.map (·.flash)).getD 0) / 2 ^ 32), 0] false))

/-- A KEEPER_MSG that is accepted and for this Keeper (State.TakesMsg: v is the state its arrival leaves, src its source, m the message) has the effect
its type gives it: the head takes a RACK_REPORT; a whole EPOCH waits for the next intake; an EPOCH_REQ is answered with the epoch; a LINK_NOTICE takes
the dark links away; BANK_READY and READY are noted with their rack; ANNOUNCE arms the agents of a solved Keeper and is refused with NOT_READY 7 for
another epoch; NOT_READY 4 withdraws and any other reason postpones; POSTPONE arms again for the new flash; CONFIRM sends GO; LIT_REPORT is noted;
WITHDRAW raises WITHDRAWN. -/
def Obligations.SolverMessagesTakeEffect : Prop :=
  (∀ (s v : State) (port : Nat) (p : Packet) (src : Addr) (m : KMsg), s.TakesMsg 0x01 port p v src m → v.isHead = true → exec (.rackReport port p) s = .next (v.headReport m.words))
  ∧ (∀ (s v : State) (port : Nat) (p : Packet) (src : Addr) (m : KMsg) (u : State) (ws : List Word), s.TakesMsg 0x02 port p v src m → v.slv.epoch < m.epoch.toNat → v.collect m = (u, some ws) → u.mor.rebuild = false → ∃ t, exec (.epoch port p) s = .next t ∧ t.slv.waiting = u.slv.waiting ++ [{ epoch := m.epoch.toNat, full := m.full, recs := ws }])
  ∧ (∀ (s v : State) (port : Nat) (p : Packet) (src : Addr) (m : KMsg) (x : EpochRec × SliceSet × List Word), s.TakesMsg 0x0C port p v src m → v.isHead = true → (v.slv.head.sent.find? (fun x => x.1.epoch == m.epoch.toNat) = some x) → exec (.epochReq port p) s = .next (v.sendEpoch x.1 x.2.1 x.2.2 (some src)))
  ∧ (∀ (s v : State) (port : Nat) (p : Packet) (src : Addr) (m : KMsg), s.TakesMsg 0x03 port p v src m → exec (.linkNotice port p) s = .next (m.words.foldl State.uplinkDark v))
  ∧ (∀ (s v : State) (port : Nat) (p : Packet) (src : Addr) (m : KMsg), s.TakesMsg 0x04 port p v src m → (v.isHead = true ∧ v.slv.head.active = true ∧ v.slv.head.epoch = m.epoch.toNat) → ∃ t, exec (.bankReady port p) s = .next t ∧ t.slv.head.ready1.contains (v.rackOf src) = true ∧ t.slv.head.dset = v.slv.head.dset ||| m.set)
  ∧ (∀ (s v : State) (port : Nat) (p : Packet) (src : Addr) (m : KMsg), s.TakesMsg 0x05 port p v src m → (m.subject = false ∧ v.mor.rebuild = false ∧ m.epoch.toNat = v.slv.cycle.epoch ∧ v.slv.cycle.phase = .solved) → exec (.announce port p) s = .next ((v.takeAnnounce m.flash.toNat m.set).armBank))
  ∧ (∀ (s v : State) (port : Nat) (p : Packet) (src : Addr) (m : KMsg), s.TakesMsg 0x05 port p v src m → (m.subject = false ∧ v.mor.rebuild = false ∧ m.epoch.toNat ≠ v.slv.cycle.epoch) → exec (.announce port p) s = .next (({ v with slv := { v.slv with heard := some (m.epoch.toNat, m.flash.toNat, m.set) } } : State).notReady m.epoch.toNat 7))
  ∧ (∀ (s v : State) (port : Nat) (p : Packet) (src : Addr) (m : KMsg), s.TakesMsg 0x06 port p v src m → (v.isHead = true ∧ m.subject = false ∧ v.slv.head.active = true ∧ v.slv.head.epoch = m.epoch.toNat) → ∃ t, exec (.ready port p) s = .next t ∧ t.slv.head.ready2.contains (v.rackOf src) = true)
  ∧ (∀ (s v : State) (port : Nat) (p : Packet) (src : Addr) (m : KMsg) (z : State), s.TakesMsg 0x07 port p v src m → (v.isHead = true ∧ m.subject = false ∧ v.slv.head.active = true ∧ v.slv.head.epoch = m.epoch.toNat) → (z = (v.onHead fun h => { h with ready2 := h.ready2.filter (· != v.rackOf src) }).showHead) → exec (.notReady port p) s = .next (if bitsOf m.count 0 8 = 4 then z.refusedBank else z.postponeBank))
  ∧ (∀ (s v : State) (port : Nat) (p : Packet) (src : Addr) (m : KMsg), s.TakesMsg 0x08 port p v src m → (m.subject = false ∧ v.slv.cycle.epoch = m.epoch.toNat ∧ v.slv.cycle.phase = .armed) → exec (.postpone port p) s = .next ((((v.takeAnnounce m.flash.toNat v.slv.cycle.dset).countReg Reg.SLV_POSTPONES 1).raise Fld.SLV_INT_STATUS_POSTPONED).rearmAgents))
  ∧ (∀ (s v : State) (port : Nat) (p : Packet) (src : Addr) (m : KMsg), s.TakesMsg 0x09 port p v src m → (m.subject = false ∧ v.slv.cycle.phase = .armed ∧ v.slv.cycle.epoch = m.epoch.toNat ∧ v.slv.cycle.f = m.flash.toNat) → exec (.confirm port p) s = .next (v.confirmBank))
  ∧ (∀ (s v : State) (port : Nat) (p : Packet) (src : Addr) (m : KMsg), s.TakesMsg 0x0A port p v src m → v.isHead = true → ∃ t, exec (.litReport port p) s = .next t ∧ t.slv.head.litRacks.contains (v.rackOf src) = true)
  ∧ (∀ (s v : State) (port : Nat) (p : Packet) (src : Addr) (m : KMsg), s.TakesMsg 0x0B port p v src m → m.subject = false → ∃ t, exec (.withdraw port p) s = .next t ∧ t.flag Fld.SLV_INT_STATUS_WITHDRAWN = true)

/-- As for the epoch exchange: a SLICE_REPLY with a reason completes the command it answers with CAPACITY or the reason's error, one without notes the
epoch; a whole SLICE_TABLE waits for its epoch; a DRAIN_NOTICE drains each slice of its set; a DRAIN_REPORT is counted for its rack at the head;
SLICE_DONE gives each slice of its set its state; an agent's DRAIN_EMPTY event is counted and the drains that are due are reported. SLICE_REQ waits,
under its stamp, for the next intake of its stage, which gives it to the head's queue. -/
def Obligations.SliceMessagesTakeEffect : Prop :=
  (∀ (s v : State) (port : Nat) (p : Packet) (src : Addr) (m : KMsg) (i : SliceIssued), s.TakesMsg 0x21 port p v src m → (v.slc.issued.find? (fun i => i.tag == bitsOf m.count 8 12) = some i) → bitsOf m.count 0 8 ≠ 0 → exec (.sliceReply port p) s = .next (({ v with slc := { v.slc with issued := v.slc.issued.filter fun x => x.tag != bitsOf m.count 8 12 } } : State).refuse i.win 6 (bitsOf m.count 0 8)))
  ∧ (∀ (s v : State) (port : Nat) (p : Packet) (src : Addr) (m : KMsg) (i : SliceIssued), s.TakesMsg 0x21 port p v src m → (v.slc.issued.find? (fun i => i.tag == bitsOf m.count 8 12) = some i) → bitsOf m.count 0 8 = 0 → ∃ t, exec (.sliceReply port p) s = .next t ∧ t.slc.issued = v.slc.issued.map fun x => if x.tag == bitsOf m.count 8 12 then { x with epoch := some m.epoch.toNat } else x)
  ∧ (∀ (s v : State) (port : Nat) (p : Packet) (src : Addr) (m : KMsg) (u : State) (ws : List Word), s.TakesMsg 0x22 port p v src m → v.collect m = (u, some ws) → u.slv.epoch < m.epoch.toNat → ∃ t, exec (.sliceTable port p) s = .next t ∧ t.slc.tables = u.slc.tables ++ [(m.epoch.toNat, m.set, ws)])
  ∧ (∀ (s v : State) (port : Nat) (p : Packet) (src : Addr) (m : KMsg), s.TakesMsg 0x23 port p v src m → exec (.drainNotice port p) s = .next (((bitIndices m.set.toNat 256).foldl (fun s id => s.drainNoticed id (bitAt m.count 0)) v).showSlices))
  ∧ (∀ (s v : State) (port : Nat) (p : Packet) (src : Addr) (m : KMsg), s.TakesMsg 0x24 port p v src m → v.isHead = true → exec (.drainReport port p) s = .next ((bitIndices m.set.toNat 256).foldl (fun s id => s.headDrained id (s.rackOf src)) v))
  ∧ (∀ (s v : State) (port : Nat) (p : Packet) (src : Addr) (m : KMsg), s.TakesMsg 0x25 port p v src m → exec (.sliceDone port p) s = .next (((bitIndices m.set.toNat 256).foldl (fun s id => s.sliceDrained id (bitsOf m.count 0 3)) v).showSlices))
  ∧ (∀ (s v : State) (port : Nat) (p : Packet) (src : Addr) (m : KMsg), s.StagesMsg 0x20 port p v src m → exec (.sliceReq port p) s = .next (v.stageInput (msgStage m) (.message src m)))
  ∧ (∀ (v : State) (stamp : Nat) (src : Addr) (m : KMsg), m.mtype = 0x20 → v.takeJob stamp (.message src m) = v.gotSliceReq stamp src m)
  ∧ (∀ (s v : State) (port : Nat) (p : Packet) (ev : AgentEvent), s.TakesEvent 7 port p v ev → exec (.drainEmptyEvent port p) s = .next (({ v with slc := { v.slc with rackDrains := v.slc.rackDrains.map fun (d : RackDrain) => if d.slice == ev.arg.toNat && !d.empty.contains ev.agent then { d with empty := ev.agent :: d.empty } else d } } : State).reportDrains))

/-- PLAN_REQ, PLAN_ORDER, PLAN_OFFER, PLAN_COMMIT and PLAN_READY that are accepted (State.StagesMsg) wait, under the stamp of their flash, for the next
intake of their stage, and the batch then gives each to the operation of its type (State.takeJob; a PLAN_ORDER is answered when the batch publishes,
State.publishJob). PLAN_DONE acts as it arrives: it enables a plan in installation at its flash, frees one that was refused, ends a RELEASE, and
completes the command of the issuing Keeper; with a reason that command is refused. -/
def Obligations.PlanMessagesTakeEffect : Prop :=
  (∀ (s v : State) (port : Nat) (p : Packet) (src : Addr) (m : KMsg), s.StagesMsg 0x30 port p v src m → exec (.planReq port p) s = .next (v.stageInput (msgStage m) (.message src m)))
  ∧ (∀ (v : State) (stamp : Nat) (src : Addr) (m : KMsg), m.mtype = 0x30 → v.takeJob stamp (.message src m) = v.gotPlanReq stamp src m)
  ∧ (∀ (s v : State) (port : Nat) (p : Packet) (src : Addr) (m : KMsg), s.StagesMsg 0x31 port p v src m → exec (.planOrder port p) s = .next (v.stageInput (msgStage m) (.message src m)))
  ∧ (∀ (v : State) (src : Addr) (m : KMsg), m.mtype = 0x31 → v.publishJob (.message src m) = v.gotPlanOrder src m)
  ∧ (∀ (s v : State) (port : Nat) (p : Packet) (src : Addr) (m : KMsg), s.StagesMsg 0x32 port p v src m → exec (.planOffer port p) s = .next (v.stageInput (msgStage m) (.message src m)))
  ∧ (∀ (v : State) (stamp : Nat) (src : Addr) (m : KMsg), m.mtype = 0x32 → v.takeJob stamp (.message src m) = v.gotPlanOffer src m)
  ∧ (∀ (s v : State) (port : Nat) (p : Packet) (src : Addr) (m : KMsg), s.StagesMsg 0x33 port p v src m → exec (.planCommit port p) s = .next (v.stageInput (msgStage m) (.message src m)))
  ∧ (∀ (v : State) (stamp : Nat) (src : Addr) (m : KMsg), m.mtype = 0x33 → v.takeJob stamp (.message src m) = v.gotPlanCommit src m)
  ∧ (∀ (s v : State) (port : Nat) (p : Packet) (src : Addr) (m : KMsg), s.StagesMsg 0x34 port p v src m → exec (.planReady port p) s = .next (v.stageInput (msgStage m) (.message src m)))
  ∧ (∀ (v : State) (stamp : Nat) (src : Addr) (m : KMsg), m.mtype = 0x34 → v.takeJob stamp (.message src m) = v.gotPlanReady src m)
  ∧ (∀ (s v : State) (port : Nat) (p : Packet) (src : Addr) (m : KMsg) (q : Plan) (z : State), s.TakesMsg 0x35 port p v src m → (wordAt m.words 0 ≠ 0 ∧ v.planOf (msgSlice m) (wordAt m.words 0).toNat = some q) → ((q.st = 1 ∨ q.st = 2) ∧ bitsOf m.count 0 8 = 0 ∧ m.flash ≠ 0) → z = v.enablePlan q.ctx m.flash.toNat → (z.clp.issued.find? (fun i => !i.abort && i.tag == bitsOf m.count 8 12 && (wordAt m.words 1).toNat == v.myRack) = none) → exec (.planDone port p) s = .next (z))
  ∧ (∀ (s v : State) (port : Nat) (p : Packet) (src : Addr) (m : KMsg) (q : Plan) (z : State), s.TakesMsg 0x35 port p v src m → (wordAt m.words 0 ≠ 0 ∧ v.planOf (msgSlice m) (wordAt m.words 0).toNat = some q) → (q.st = 4 ∧ bitsOf m.count 0 8 = 0) → z = (v.freePlan q.ctx false).raise Fld.CLP_INT_STATUS_RELEASED → (z.clp.issued.find? (fun i => !i.abort && i.tag == bitsOf m.count 8 12 && (wordAt m.words 1).toNat == v.myRack) = none) → exec (.planDone port p) s = .next (z))
  ∧ (∀ (s v : State) (port : Nat) (p : Packet) (src : Addr) (m : KMsg) (i : PlanIssued), s.TakesMsg 0x35 port p v src m → (wordAt m.words 0 = 0 ∧ bitsOf m.count 0 8 ≠ 0) → (v.clp.issued.find? (fun i => !i.abort && i.tag == bitsOf m.count 8 12 && (wordAt m.words 1).toNat == v.myRack) = some i) → exec (.planDone port p) s = .next ((v.onClp fun c => { c with issued := c.issued.filter fun x => !(!x.abort && x.tag == bitsOf m.count 8 12 && (wordAt m.words 1).toNat == v.myRack) }).planRefused i.win (bitsOf m.count 0 8) (planDesc i.words).slice (planDesc i.words).group [0, 0, 0, 0, w32 (bitsOf m.count 0 8)]))

/-- At the head ABORT_REQ starts the abort exchange of a live plan, or answers THAW with reason 0x0E where there is none; RECOVER_REQ is taken by its
kind; RECOVER_CLEARED of the last member rack sends RECOVER_GO; FROZEN is gathered and the exchange decided with all of them. At a member Keeper
RECOVER_CLEAR notes the exchange and clears its pieces once; RECOVER_GO lets the members send again, once; FREEZE holds the plan and gathers the
agents' answers; THAW ends the freeze and the abort commands of this Keeper. -/
def Obligations.RecoveryMessagesTakeEffect : Prop :=
  (∀ (s v : State) (port : Nat) (p : Packet) (src : Addr) (m : KMsg), s.TakesMsg 0x47 port p v src m → v.isHead = true → exec (.abortReq port p) s = .next (if (v.livePlan (msgSlice m) (wordAt m.words 0).toNat).isNone then v.tell src (v.thawMsg (msgSlice m) (wordAt m.words 0).toNat 0 0 0 0 0 0x0E 0) else (v.startAbort (msgSlice m) (wordAt m.words 0).toNat 0x10).progress 0x06))
  ∧ (∀ (s v : State) (port : Nat) (p : Packet) (src : Addr) (m : KMsg) (q : HeadPlan), s.TakesMsg 0x40 port p v src m → v.isHead = true → v.livePlan (msgSlice m) (wordAt m.words 0).toNat = some q → exec (.recoverReq port p) s = .next ((v.headRequest q (v.rackOf src) (bitsOf (wordAt m.words 1) 0 4) (bitsOf (wordAt m.words 1) 16 16) (m.words.drop 2)).progress 0x06))
  ∧ (∀ (s v : State) (port : Nat) (p : Packet) (src : Addr) (m : KMsg) (q : Plan), s.TakesMsg 0x41 port p v src m → v.planOf (msgSlice m) (wordAt m.words 0).toNat = some q → q.recovery = (wordAt m.words 1).toNat → exec (.recoverClear port p) s = .next (if q.clearing then v else v.sendCleared q))
  ∧ (∀ (s v : State) (port : Nat) (p : Packet) (src : Addr) (m : KMsg) (q : Plan) (z : State) (r : Plan), s.TakesMsg 0x41 port p v src m → v.planOf (msgSlice m) (wordAt m.words 0).toNat = some q → (q.recovery ≠ (wordAt m.words 1).toNat ∧ q.frozen = none) → (z = ((((v.onPlan q.ctx fun p => { p with recovery := (wordAt m.words 1).toNat, gone := false, clearing := true, namedPieces := (m.words.drop 5).map BitVec.toNat, remap := remapOf (wordAt m.words 3) (wordAt m.words 4), lost := p.lost ||| maskOf ((planeList q.planes).filter fun i => (remapOf (wordAt m.words 3) (wordAt m.words 4)).getD i i != i), recovered := [(wordAt m.words 2).toNat % 65536, (wordAt m.words 2).toNat / 65536], reqs := [] }).clearPieces q.ctx ((wordAt m.words 2).toNat % 65536) ((wordAt m.words 2).toNat / 65536) ((m.words.drop 5).map BitVec.toNat)).countReg Reg.CLP_RECOVERIES 1).raiseIf ((planeList (maskOf ((planeList q.planes).filter fun i => (remapOf (wordAt m.words 3) (wordAt m.words 4)).getD i i != i))).any fun i => !q.lost.testBit i) Fld.CLP_FAULT_STATUS_PLANE_LOST).raise Fld.CLP_FAULT_STATUS_REPLAY) → z.plan q.ctx = some r → exec (.recoverClear port p) s = .next (((z.writeRemaps r (z.planSwitches r) (.plan r.ctx)).tryCleared q.ctx).progress 0x06))
  ∧ (∀ (s v : State) (port : Nat) (p : Packet) (src : Addr) (m : KMsg) (r : Recovery) (q : HeadPlan), s.TakesMsg 0x42 port p v src m → v.isHead = true → (v.clp.recoveries.find? (fun r => r.slice == msgSlice m && r.ordinal == (wordAt m.words 0).toNat && r.number == (wordAt m.words 1).toNat && (wordAt m.words 1).toNat != 0) = some r) → v.livePlan r.slice r.ordinal = some q → (q.racks.all (fun k => k == v.rackOf src || r.cleared.contains k) = false) → ∃ t, exec (.recoverCleared port p) s = .next t ∧ t.clp.recoveries = v.clp.recoveries.map fun x => if x.slice == msgSlice m && x.ordinal == (wordAt m.words 0).toNat && x.number == (wordAt m.words 1).toNat && (wordAt m.words 1).toNat != 0 then { x with cleared := if r.cleared.contains (v.rackOf src) then r.cleared else v.rackOf src :: r.cleared } else x)
  ∧ (∀ (s v : State) (port : Nat) (p : Packet) (src : Addr) (m : KMsg) (r : Recovery) (q : HeadPlan), s.TakesMsg 0x42 port p v src m → v.isHead = true → (v.clp.recoveries.find? (fun r => r.slice == msgSlice m && r.ordinal == (wordAt m.words 0).toNat && r.number == (wordAt m.words 1).toNat && (wordAt m.words 1).toNat != 0) = some r) → v.livePlan r.slice r.ordinal = some q → (q.racks.all (fun k => k == v.rackOf src || r.cleared.contains k) = true) → exec (.recoverCleared port p) s = .next ((((((v.onClp fun c => { c with recoveries := c.recoveries.filter fun x => !(x.slice == msgSlice m && x.ordinal == (wordAt m.words 0).toNat && x.number == (wordAt m.words 1).toNat && (wordAt m.words 1).toNat != 0) }).onLive q.slice q.ordinal fun x => { x with gone := (wordAt m.words 1).toNat }).tellRacks q (v.planMsg 0x43 q.slice [w32 q.ordinal, w32 (wordAt m.words 1).toNat])).pumpRecovery q.slice q.ordinal).progress 0x06)))
  ∧ (∀ (s v : State) (port : Nat) (p : Packet) (src : Addr) (m : KMsg) (q : Plan) (z : State), s.TakesMsg 0x43 port p v src m → v.planOf (msgSlice m) (wordAt m.words 0).toNat = some q → (q.recovery = (wordAt m.words 1).toNat ∧ q.gone = false) → (z = (v.dropSent fun x => x.ctx == q.ctx && inLaunches (q.recovered.headD 0) (q.recovered.getD 1 (q.recovered.headD 0)) x.launch && q.namedPieces.contains x.piece).onPlan q.ctx fun p => { p with gone := true }) → exec (.recoverGo port p) s = .next ((z.writeRemaps q ((z.planMembers q).map (·.1)) .upkeep).progress 0x06))
  ∧ (∀ (s v : State) (port : Nat) (p : Packet) (src : Addr) (m : KMsg) (q : Plan), s.TakesMsg 0x44 port p v src m → v.planOf (msgSlice m) (wordAt m.words 0).toNat = some q → q.frozen = none → exec (.freeze port p) s = .next ((((v.onPlan q.ctx fun p => { p with frozen := some (wordAt m.words 1).toNat, answers := [], frozenSent := false, reqs := [], clearing := false, recovery := if p.gone then p.recovery else 0 }).writeFreeze q 12).tryFrozen q.ctx).progress 0x06))
  ∧ (∀ (s v : State) (port : Nat) (p : Packet) (src : Addr) (m : KMsg) (a b : AbortEx), s.TakesMsg 0x45 port p v src m → v.isHead = true → (v.clp.aborts.find? (fun a => (a.slice == msgSlice m && a.ordinal == (wordAt m.words 0).toNat) && !a.waiting) = some a) → (b = { a with replies := (a.replies.filter fun x => x.1 != v.rackOf src) ++ [(v.rackOf src, (wordAt m.words 1).toNat, (wordAt m.words 2).toNat, (wordAt m.words 3).toNat, (wordAt m.words 4).toNat)] }) → exec (.frozen port p) s = .next (((v.onClp fun c => { c with aborts := c.aborts.map fun x => if x.slice == msgSlice m && x.ordinal == (wordAt m.words 0).toNat then b else x }).decideAbort b).progress 0x06))
  ∧ (∀ (s v : State) (port : Nat) (p : Packet) (src : Addr) (m : KMsg) (q : Plan) (c : Nat), s.TakesMsg 0x46 port p v src m → v.planOf (msgSlice m) (wordAt m.words 0).toNat = some q → q.frozen = some c → wordAt m.words 1 ≠ 0 → exec (.thaw port p) s = .next (((((((v.onPlan q.ctx fun p => { p with frozen := none, frozenSent := false, answers := [] }).writeFreeze q 13).raiseIf ((wordAt m.words 1).toNat == 1) Fld.CLP_FAULT_STATUS_ALREADY_COMPLETE).resumePieces q.ctx).endAborts (msgSlice m) (wordAt m.words 0).toNat m).progress 0x06)))
  ∧ (∀ (s v : State) (port : Nat) (p : Packet) (src : Addr) (m : KMsg) (q : Plan) (c : Nat), s.TakesMsg 0x46 port p v src m → v.planOf (msgSlice m) (wordAt m.words 0).toNat = some q → q.frozen = some c → wordAt m.words 1 = 0 → exec (.thaw port p) s = .next (((((((v.onPlan q.ctx fun p => { p with frozen := none, frozenSent := false, answers := [] }).writeFreeze q 13).thawAbort q.ctx c (wordAt m.words 2).toNat (wordAt m.words 3).toNat m.flash.toNat).tryRelease q.ctx).endAborts (msgSlice m) (wordAt m.words 0).toNat m).progress 0x06)))

/-- HEAD_BEAT makes the head's lit chart known; HANDBACK the flash at which head duty passes back; STATE_QUERY is answered to the acting head with this
Keeper's state; STATE_REPLY is kept by the acting head, which announces again once it has every reply; GRAPH_REQ is answered in parts by the head and
the deputy; a whole GRAPH replaces the graph held for its epoch, or at a unit that rebuilds, is solved again. -/
def Obligations.HeadMessagesTakeEffect : Prop :=
  (∀ (s v : State) (port : Nat) (p : Packet) (src : Addr) (m : KMsg), s.TakesMsg 0x53 port p v src m → v.chart.headNext = none → ∃ t, exec (.headBeat port p) s = .next t ∧ t.chart.headDigest = some m.digest)
  ∧ (∀ (s v : State) (port : Nat) (p : Packet) (src : Addr) (m : KMsg), s.TakesMsg 0x52 port p v src m → ∃ t, exec (.handback port p) s = .next t ∧ t.chart = { v.chart with handback := some m.flash.toNat } ∧ t.regs = v.regs ∧ t.outbox = v.outbox)
  ∧ (∀ (s v : State) (port : Nat) (p : Packet) (src : Addr) (m : KMsg) (z : State) (ws : List Word), s.TakesMsg 0x50 port p v src m → z = ({ v with chart := { v.chart with deputyActs := true } } : State) → ws = [z.getReg Reg.SLV_STATE, w32 z.slv.litEpoch, w32 z.slv.cycle.epoch, loHalf z.slv.cycle.f, fieldAt 0 1 (b2n (z.slv.cycle.phase == .confirmed))] ++ z.openExchanges → exec (.stateQuery port p) s = .next (z.tell src { z.kmsg 0x51 with count := w32 ws.length, words := ws }))
  ∧ (∀ (s v : State) (port : Nat) (p : Packet) (src : Addr) (m : KMsg), s.TakesMsg 0x51 port p v src m → (v.chart.acting = true ∧ v.lit = true) → exec (.stateReply port p) s = .next ((v.onHead fun h => { h with states := (h.states.filter fun x => x.1 != v.rackOf src) ++ [(v.rackOf src, m.words)] }).reannounce))
  ∧ (∀ (s v : State) (port : Nat) (p : Packet) (src : Addr) (m : KMsg), s.TakesMsg 0x54 port p v src m → (v.inHeadRack = true ∨ v.inDeputyRack = true) → exec (.graphReq port p) s = .next ((partsOf { v.kmsg 0x55 with epoch := w32 v.slv.epoch } v.graphRecords).foldl (fun s m => s.tell src m) v))
  ∧ (∀ (s v : State) (port : Nat) (p : Packet) (src : Addr) (m : KMsg) (u : State) (ws : List Word), s.TakesMsg 0x55 port p v src m → v.collect m = (u, some ws) → u.mor.rebuild = false → m.epoch.toNat = u.slv.epoch → ∃ t, exec (.graph port p) s = .next t ∧ t.slv = { u.slv with graph := ws.foldl (Graph.apply u.axes.1) { uplinks := [], eps := [], keepers := [] } } ∧ t.regs = u.regs)

/-- FLASH_BOUNDARY with the rails up closes the flash: what was gathered is answered, the sensors are read, and unless a reset of the module is in
progress every stage's intake is judged late or not, the flash that ended is closed and the next one opened. BATCH_CLOSE marks its stage closed. A
proposal that answers an open request and passes every check is kept under its request until its batch uses it; one that answers none is discarded.
With the budget spent PROPOSAL_FALLBACK makes the stage take its own choice and counts it. A deputy that misses the head acts as head from that step;
at the handback flash it stops. -/
def Obligations.FlashAndPilotCommandsRun : Prop :=
  (∀ (s : State) (f : FlashMeas) (z u : State) (marks : List (StageId × Bool × Bool)) (late : StageId → Bool), s.pwr.stage = .on → z = (({ s with hif := { s.hif with sets := [] } } : State).gatherLog.answerAnnounce.answerBank.senseSensors f) → z.rst.part.any (·.started) = false → (marks = z.work.stages.map (fun g => (g.id, z.lateStage g, z.batching g)) ∧ late = (fun id => (z.chart.lit.isNone && !(id == .cht || id == .rst)) || marks.any fun x => x.1 == id && x.2.1)) → (u = marks.foldl (fun s x => s.countStage x.1 x.2.1 x.2.2) (z.endFlash f late)) → exec (.flashBoundary f) s = .next (((u.openFlash.judgeFlash f).beginFlash late z.tim.flash).takeGathered.openCycle))
  ∧ (∀ (s : State) (f : FlashMeas) (z : State), s.pwr.stage = .on → z = (({ s with hif := { s.hif with sets := [] } } : State).gatherLog.answerAnnounce.answerBank.senseSensors f) → z.rst.part.any (·.started) = true → exec (.flashBoundary f) s = .next (z.openFlash.takeGathered.openCycle))
  ∧ (∀ (s : State) (g : StageId) (v : State), (g ≠ .cht ∧ g ≠ .slv) → (v = s.onStage g fun x => { x with closed := true }) → exec (.batchClose g []) s = .next (v))
  ∧ (∀ (s : State) (lanes : List Nat), exec (.batchClose .slv lanes) s = .next (lanes.foldl (fun s l => s.laneFailed l) (s.onStage .slv fun x => { x with closed := true }).answerBank))
  ∧ (∀ (s : State) (lanes : List Nat), exec (.batchClose .cht lanes) s = .next ((s.onStage .cht fun x => { x with closed := true }).answerAnnounce))
  ∧ (∀ (s : State) (p : Proposal), (s.work.requests.find? (fun q => q.request == p.request && q.stage == p.stage && q.held.isNone && q.answer.isNone && !q.fell) = none) → exec (.proposalArrival p) s = .next (s.discardProposal p.stage p.core.toNat 1))
  ∧ (∀ (s : State) (p : Proposal) (r : PropReq), (s.work.requests.find? (fun q => q.request == p.request && q.stage == p.stage && q.held.isNone && q.answer.isNone && !q.fell) = some r) → s.proposalRule p r = 0 → (s.progress (0x10 + p.core.toNat)).stageOpen p.stage = false → exec (.proposalArrival p) s = .next ((((s.progress (0x10 + p.core.toNat)).onRequest r.request fun q => { q with held := some p }).stageInput p.stage (.answer r.request))))
  ∧ (∀ (s : State) (p : Proposal) (r : PropReq), (s.work.requests.find? (fun q => q.request == p.request && q.stage == p.stage && q.held.isNone && q.answer.isNone && !q.fell) = some r) → s.proposalRule p r = 0 → (s.progress (0x10 + p.core.toNat)).stageOpen p.stage = true → exec (.proposalArrival p) s = .next ((((s.progress (0x10 + p.core.toNat)).onRequest r.request fun q => { q with answer := some p }).stageResult p.stage (.answer r.request))))
  ∧ (∀ (s : State) (p : Proposal) (r : PropReq), (s.work.requests.find? (fun q => q.request == p.request && q.stage == p.stage && q.held.isNone && q.answer.isNone && !q.fell) = some r) → s.proposalRule p r ≠ 0 → exec (.proposalArrival p) s = .next (s.discardProposal p.stage p.core.toNat (s.proposalRule p r)))
  ∧ (∀ (s : State) (n : Nat) (r : PropReq) (z : State), (s.work.requests.find? (fun q => q.request == n && q.held.isNone && q.answer.isNone && !q.fell) = some r) → (s.budgetEnd r ≤ s.tim.flash ∧ r.decision = 2) → (z = ((s.onRequest n fun q => { q with fell := true }).onStage r.stage fun g => { g with batch := g.batch ++ [(s.tim.flash, .answer n)] })) → exec (.proposalFallback n) s = .next ((z.countReg Reg.CLP_FALLBACKS 1).raise Fld.CLP_INT_STATUS_FALLBACK))
  ∧ (∀ (s : State) (n : Nat) (r : PropReq) (z : State), (s.work.requests.find? (fun q => q.request == n && q.held.isNone && q.answer.isNone && !q.fell) = some r) → (s.budgetEnd r ≤ s.tim.flash ∧ r.decision ≠ 2) → (z = ((s.onRequest n fun q => { q with fell := true }).onStage r.stage fun g => { g with batch := g.batch ++ [(s.tim.flash, .answer n)] })) → exec (.proposalFallback n) s = .next ({ z with work := { z.work with fallbacks := z.work.fallbacks + 1 } }))
  ∧ (∀ (s : State) (z : State), (s.lit = true ∧ s.inDeputyRack = true ∧ s.inHeadRack = false) → (s.chart.acting = false ∧ s.headMissing = true) → z = ((({ s with chart := { s.chart with acting := true, deputyActs := true, handback := none } } : State).setF Fld.CHT_STATE_ACTING_HEAD 1).takeHead) → exec .actingHeadEntry s = .next (z.flood (z.kmsg 0x50)))
  ∧ (∀ (s : State) (f : Nat) (z : State), s.chart.handback = some f → (f ≤ s.tim.flash ∧ s.work.opening = true) → z = (({ s with chart := { s.chart with acting := false, deputyActs := false, handback := none, silence := 0 } } : State).setF Fld.CHT_STATE_ACTING_HEAD 0) → z.isHead = false → exec .handbackFlash s = .next (z.showHead.followRoot))

/-- CHART_CHECK_DONE of a slot whose file is in gives the check's result to the batch; STORE_WRITE_DONE writes, retires and goes on with the block of the
store job; CHART_ANNOUNCE_WITHDRAWAL withdraws an announcement postponed eight times or standing too long. At a flash's opening BANK_LIGHT lights the
confirmed bank at its F with the Warden serving, CHART_LIGHT the confirmed chart at its flash, BOOT_CHART_LIGHT the first good boot slot.
SECTOR_VERDICT gives the verdict to the batch; BANK_LOAD_DONE reports the bank solved; at the deadline a bank or chart not ready everywhere is
postponed; GO_REPEAT sends GO again once; RACK_FENCE fences a silent rack with all its uplinks at 0 lanes. -/
def Obligations.ChartAndRouteEventsRun : Prop :=
  (∀ (s : State) (n : Nat), ((s.slot n).shadow = .loading ∧ s.fetching n = false) → exec (.chartCheckDone n) s = .next (s.stageResult .cht (.checked n)))
  ∧ (∀ (s : State) (j : StoreJob) (n : Nat) (rest : List Nat) (z : State), (s.chart.store = some j ∧ j.slots = n :: rest) → (s.slot n).nvm = .writing → ((s.storeBlocks j).filter (fun b => 100000 ≤ s.blockCount b) = []) → z = ((((s.writeBlocks (s.storeBlocks j) []).storeStep j (s.storeBlocks j).length 0).stageInput .cht .acted).storeNext) → exec (.storeWriteDone 0) s = .next (z))
  ∧ (∀ (s : State) (a : ChartAnnounce), s.chart.announce = some a → (s.isHead = true ∧ a.confirmed = false) → (8 ≤ a.postponed ∨ a.first + 64 * s.params.lightLead ≤ s.tim.flash) → exec .chartAnnounceWithdrawal s = .next ((s.withdrawChart a.digest).chartWithdrawn a.digest))
  ∧ (∀ (s : State), (s.work.opening = true ∧ s.wdn.serving = true) → (s.slv.cycle.phase = .confirmed ∧ s.slv.cycle.f ≠ 0 ∧ s.slv.cycle.f ≤ s.tim.flash) → exec .bankLight s = .next (s.lightNow))
  ∧ (∀ (s : State) (a : Arming) (c : Chart), s.work.opening = true → (s.chart.arm = some a ∧ (s.slot a.slot).chart = some c) → (a.confirmed = true ∧ a.flash ≤ s.tim.flash) → exec .chartLight s = .next (((({ s with chart := { s.chart with headDigest := some a.digest, headNext := none } } : State).lightChart a.slot c).chartLightDone a.win)))
  ∧ (∀ (s : State), (s.chart.lit = none ∧ s.work.opening = true) → exec .bootChartLight s = .next (s.bootSlots (s.getF Fld.CHT_BOOT_BOOT_SLOT :: (if s.flag Fld.CHT_BOOT_FALLBACK_EN then [s.getF Fld.CHT_BOOT_FALLBACK_SLOT] else []))))
  ∧ (∀ (s : State) (x : Verdict), s.slv.cycle.phase = .verifying → exec (.sectorVerdict x) s = .next (s.stageResult .wdn (.judged x)))
  ∧ (∀ (s : State), (s.slv.cycle.phase = .loading ∧ s.slv.cycle.toLoad = []) → s.slv.cycle.f = 0 → exec .bankLoadDone s = .next (((s.setPhase .solved).stageInput .slv .acted).sendBankReady))
  ∧ (∀ (s : State), (s.slv.cycle.phase = .loading ∧ s.slv.cycle.toLoad = []) → s.slv.cycle.f ≠ 0 → exec .bankLoadDone s = .next (((s.setPhase .solved).stageInput .slv .acted).sendBankReady.armBank))
  ∧ (∀ (s : State), (s.slv.head.announced = true ∧ s.slv.head.f ≤ s.tim.flash + 2) → (s.awaited.all (fun r => s.slv.head.ready2.contains r) = false) → s.postponeBank.chart.announce = none → exec .readyDeadline s = .next (s.postponeBank))
  ∧ (∀ (s : State) (a : ChartAnnounce), s.slv.head.announced = false → (s.chart.announce = some a ∧ a.f ≤ s.tim.flash + 2) → ((List.range s.rackCount).all (fun r => a.ready.contains r) = false) → exec .readyDeadline s = .next (s.postponeChart))
  ∧ (∀ (s : State), (s.slv.cycle.phase = .confirmed ∧ s.slv.cycle.go = true) → exec .goRepeat s = .next (s.sendGo.onCycle fun c => { c with go := false }))
  ∧ (∀ (s : State) (r : Nat), (s.isHead = true ∧ s.slv.head.active = true ∧ s.slv.head.confirmed = false) → s.slv.head.published + s.getF Fld.SLV_PARAMS_ABANDON_FLASHES ≤ s.tim.flash → (if s.slv.head.announced then s.slv.head.ready2 else s.slv.head.ready1).contains r = false → exec (.rackFence r) s = .next ((s.withdrawEpoch ((List.range 64).map fun k => linkRecord 1 (r % s.axes.1) (r / s.axes.1) (k / 4) (128 + k % 4) 0)).onHead fun h => { h with fenced := if h.fenced.contains r then h.fenced else r :: h.fenced }))

/-- The end of an admission solve admits the request or refuses it with the verdict's code; a slice request 64 flashes unanswered is refused with 0x11; a
drain past its limit is forced. A member silent for 32 flashes ends the admission with 0x11; a plan request 64 flashes unanswered is refused with
0x0C. At the head a recovery without all replies in 32 flashes starts an abort with cause 0x18, an abort exchange without all answers ends in a THAW
with 0x11; with the generation spacing elapsed FREEZE goes out; a RELEASE over its limit starts an abort with 0x19. A stall at a live plan reports
itself once, and a straggler of STRAG_RUN flashes is logged. Each is stated for the one item that is due. -/
def Obligations.SliceAndPlanTimersRun : Prop :=
  (∀ (s : State) (q : SliceReq) (l : Layout) (z : State), s.slc.solving = some (q, l, 1) → z = { s with slc := { s.slc with solving := none } } → (z.slv.head.heldChanges = false ∧ z.solveVerdict l = 0) → exec .admissionSolveDone s = .next ((z.takeSliceReq q (some l)).showHead.stageInput .slv .acted))
  ∧ (∀ (s : State) (q : SliceReq) (l : Layout) (z : State), s.slc.solving = some (q, l, 1) → z = { s with slc := { s.slc with solving := none } } → z.slv.head.heldChanges = true → exec .admissionSolveDone s = .next ((z.sliceReply q 0x10 0).showHead.stageInput .slv .acted))
  ∧ (∀ (s : State) (i : SliceIssued) (z : State), (s.slc.issued.filter (fun i => i.epoch.isNone && i.flash + 64 ≤ s.tim.flash) = [i]) → (z = { s with slc := { s.slc with issued := s.slc.issued.filter fun i => !(i.epoch.isNone && i.flash + 64 ≤ s.tim.flash) } }) → exec .sliceReqTimeout s = .next (z.refuse i.win 6 0x11))
  ∧ (∀ (s : State) (d : HeadDrain) (z : State), (s.slc.drains.filter (fun d => !d.forced && decide (d.flash + s.getF Fld.WDN_CTRL_DRAIN_LIMIT ≤ s.tim.flash)) = [d]) → (z = { s with slc := { s.slc with drains := s.slc.drains.map fun d => if !d.forced && decide (d.flash + s.getF Fld.WDN_CTRL_DRAIN_LIMIT ≤ s.tim.flash) then { d with forced := true } else d } }) → exec .drainLimitExpiry s = .next (z.flood ({ z.kmsg 0x23 with flash := BitVec.ofNat 48 d.flash, count := 1, set := sliceBit d.slice } : KMsg)))
  ∧ (∀ (s : State) (a : Admission), (s.clp.adms.filter (fun a => (a.phase == .ordered || a.phase == .committed) && decide (a.asked + 32 ≤ s.tim.flash)) = [a]) → exec .planMemberSilent s = .next (s.endAdmission a 0x11))
  ∧ (∀ (s : State) (i : PlanIssued) (z : State), (s.clp.issued.filter (fun i => decide (i.flash + 64 ≤ s.tim.flash)) = [i]) → (z = s.onClp fun c => { c with issued := c.issued.filter fun i => !decide (i.flash + 64 ≤ s.tim.flash) }) → exec .planReqTimeout s = .next (z.planRefused i.win 0x0C i.slice (planDesc i.words).group (if i.abort then [0, 0, 0, 0x0C] else [0, 0, 0, 0, 0x0C])))
  ∧ (∀ (s : State) (r : Recovery), s.isHead = true → (s.clp.recoveries.filter (fun r => r.number != 0 && decide (r.flash + 32 ≤ s.tim.flash)) = [r]) → (s.clp.aborts.filter (fun a => !a.waiting && decide (a.flash + 32 ≤ s.tim.flash)) = []) → exec .recoveryReplyTimeout s = .next (s.startAbort r.slice r.ordinal 0x18))
  ∧ (∀ (s : State) (a : AbortEx) (p : HeadPlan) (z : State), s.isHead = true → (s.clp.recoveries.filter (fun r => r.number != 0 && decide (r.flash + 32 ≤ s.tim.flash)) = []) → (s.clp.aborts.filter (fun a => !a.waiting && decide (a.flash + 32 ≤ s.tim.flash)) = [a]) → (z = s.onClp (fun c => { c with aborts := c.aborts.filter fun x => !(x.slice == a.slice && x.ordinal == a.ordinal) })) → z.livePlan a.slice a.ordinal = some p → exec .recoveryReplyTimeout s = .next (z.sendThaw p (z.thawMsg a.slice a.ordinal 1 p.gen 0 0 0 0x11 0)))
  ∧ (∀ (s : State) (a : AbortEx) (p : HeadPlan) (z : State), (s.clp.aborts.filter (fun a => a.waiting && (s.livePlan a.slice a.ordinal).all fun p => decide (p.genFlash + 4 ≤ s.tim.flash)) = [a]) → (z = s.onClp (fun c => { c with aborts := c.aborts.map fun x => if x.slice = a.slice ∧ x.ordinal = a.ordinal then { x with waiting := false, flash := s.tim.flash } else x })) → z.livePlan a.slice a.ordinal = some p → exec .genSpacingElapsed s = .next (z.sendFreeze p a.cause))
  ∧ (∀ (s : State) (a : Admission), s.isHead = true → (s.clp.adms.filter (fun a => a.phase == .releasing && decide (a.asked + s.getF Fld.CLP_CTRL_RELEASE_LIMIT ≤ s.tim.flash)) = [a]) → exec .releaseLimitExpiry s = .next (s.startAbort a.req.slice a.ordinal 0x19))
  ∧ (∀ (s : State) (p : Plan), (s.clp.plans.filter (fun p => p.st == 3 && s.getF Fld.CLP_FAULT_CTRL_STALL_LIMIT != 0 && decide (s.getF Fld.CLP_FAULT_CTRL_STALL_LIMIT ≤ p.quiet) && !p.stallSent && p.frozen.isNone && p.launches != 0) = [p]) → exec .stallDetect s = .next (((s.onPlan p.ctx fun p => { p with stallSent := true }).recoverReq p 4 p.newest [w32 (b2n (s.launchOpen p))]).raise Fld.CLP_FAULT_STATUS_STALL))
  ∧ (∀ (s : State) (p : Plan), (s.clp.plans.filter (fun p => p.st == 3 && decide (s.getF Fld.CLP_STRAG_CTRL_STRAG_RUN ≤ p.stragRun)) = [p]) → exec .stragglerDetect s = .next ((((s.logOwn 0x032 0x06 p.slice [w32 p.ordinal, fieldAt 0 14 p.straggler ||| fieldAt 16 14 ((planDesc p.desc).members.getD p.straggler 0), w32 p.stragLag]).setReg Reg.CLP_STRAG_LAST (fieldAt 0 11 p.ctx ||| fieldAt 16 14 p.straggler)).raise Fld.CLP_FAULT_STATUS_STRAGGLER)))

/-- A collective packet that addresses an enabled plan (State.Addresses), in its window and with a clean prefix, is acted on. RS_CONTRIB of an open place,
not taken before, gives its input; RS_RESULT releases the piece's credits and lets pieces go on; AG_DATA goes down to its plane's switch and on to the
ring's next rack until that is the origin; a BARRIER of a new input counts toward the point, one on VC3 releases the members. COLLECTIVE_RETRANSMIT
sends the packet again once its time is over, at most RETX_MAX times, then the flow is broken. FLOW_BROKEN, PLACE_DISCARDED and OVERFLOW events ask
the head for recovery, lose the plane, or add the bytes dropped. -/
def Obligations.CollectivePacketsRun : Prop :=
  (∀ (s v : State) (port : Nat) (p : Packet) (q : Plan), s.Addresses port p.hdr v q → (v.inWindow p.hdr = true ∧ (piecePrefix p.payload).clean = true) → (isBlockFmt (planDesc q.desc).format = false ∨ (planDesc q.desc).disc ≠ 0 ∨ padClean (planDesc q.desc).format (prefixData p.payload) = true) → q.late (piecePrefix p.payload).launch (piecePrefix p.payload).piece = false → ((q.place (piecePrefix p.payload).launch (piecePrefix p.payload).piece).any (fun y => y.map.contains (65536 * (if addrKind p.hdr.src = 1 then 1 else 0) + v.contribKey q p.hdr (piecePrefix p.payload))) = false) → exec (.rsContrib port p) s = .next ((v.takeContrib port q p.hdr (piecePrefix p.payload) (prefixData p.payload)).progress 0x07))
  ∧ (∀ (s v : State) (port : Nat) (p : Packet) (q : Plan), s.Addresses port p.hdr v q → (v.inWindow p.hdr = true ∧ (piecePrefix p.payload).clean = true) → (isBlockFmt (planDesc q.desc).format = false ∨ (planDesc q.desc).disc ≠ 0 ∨ padClean (planDesc q.desc).format (prefixData p.payload) = true) → q.late (piecePrefix p.payload).launch (piecePrefix p.payload).piece = false → ((q.place (piecePrefix p.payload).launch (piecePrefix p.payload).piece).any (fun y => y.map.contains (65536 * (if addrKind p.hdr.src = 1 then 1 else 0) + v.contribKey q p.hdr (piecePrefix p.payload))) = true) → exec (.rsContrib port p) s = .next (((v.countReg Reg.CLP_DUPLICATES 1).takeWseq port p.hdr).returnCredits port p.hdr))
  ∧ (∀ (s v : State) (port : Nat) (p : Packet) (q : Plan), s.Addresses port p.hdr v q → (v.inWindow p.hdr = true ∧ (piecePrefix p.payload).clean = true) → exec (.rsResult port p) s = .next ((((v.takeWseq port p.hdr).returnCredits port p.hdr).onPlan q.ctx fun q => { q with credits := q.credits.filter fun c => !(c.2.1 == (piecePrefix p.payload).launch && c.2.2 == (piecePrefix p.payload).piece) }).resumePieces q.ctx))
  ∧ (∀ (s v : State) (port : Nat) (p : Packet) (q : Plan) (z u : State) (plane : Nat), s.Addresses port p.hdr v q → (v.inWindow p.hdr = true ∧ (piecePrefix p.payload).clean = true) → (z = ((v.takeWseq port p.hdr).returnCredits port p.hdr).onPlan q.ctx (fun q => q.seeLaunch (piecePrefix p.payload).launch)) → plane = q.remap.getD (planeOf q.planes (piecePrefix p.payload).piece) 0 → u = z.sendDown q plane (z.switchAddr plane) 3 0x22 q.ctx p.payload noLaunch 0 → exec (.agData port p) s = .next (if prevIn q.ring z.myRack = z.rackOfEn ((planDesc q.desc).members.getD (piecePrefix p.payload).member 0) ∨ prevIn q.ring z.myRack = u.myRack then u else u.sendRing q (prevIn q.ring z.myRack) 3 0x22 p.payload noLaunch 0))
  ∧ (∀ (s v : State) (port : Nat) (p : Packet) (q : Plan) (z : State), s.Addresses port p.hdr v q → (v.inWindow p.hdr = true ∧ p.hdr.svc ≠ 3 ∧ q.arrivals.contains (if addrKind p.hdr.src = 1 then 1 else 0) = false) → z = (v.takeWseq port p.hdr).returnCredits port p.hdr → exec (.barrier port p) s = .next ((z.onPlan q.ctx fun q => { q with arrivals := (if addrKind p.hdr.src = 1 then 1 else 0) :: q.arrivals }).barrierGo q.ctx))
  ∧ (∀ (s v : State) (port : Nat) (p : Packet) (q : Plan), s.Addresses port p.hdr v q → (v.inWindow p.hdr = true ∧ p.hdr.svc = 3) → exec (.barrier port p) s = .next (((v.takeWseq port p.hdr).returnCredits port p.hdr).releaseBarrier q))
  ∧ (∀ (s : State) (dest : Addr) (svc wseq : Nat) (f : Flow) (x : SentPkt) (z : State), ((s.link.flows.find? (fun f => f.isOurs s.selfLit dest svc)).bind (fun f => (f.sent.find? fun x => x.wseq == wseq).map fun x => (f, x)) = some (f, x)) → (x.sends < s.getF Fld.CLP_FAULT_CTRL_RETX_MAX ∧ x.stamp + 256000 * s.getF Fld.CLP_FAULT_CTRL_RETX_US ≤ s.now) → (z = s.onFlow (fun f => f.isOurs s.selfLit dest svc) (fun f => { f with sent := f.sent.map fun y => if y.wseq = wseq then { y with sends := y.sends + 1, stamp := s.now } else y })) → exec (.collectiveRetransmit dest svc wseq) s = .next ((z.enqueue (if addrKind dest = 2 then (z.keeperPort (z.rackOf dest)).getD f.port else f.port) x.pkt).countReg Reg.CLP_RETRANSMITS 1))
  ∧ (∀ (s : State) (dest : Addr) (svc wseq : Nat) (f : Flow) (x : SentPkt) (q : Plan) (z : State), ((s.link.flows.find? (fun f => f.isOurs s.selfLit dest svc)).bind (fun f => (f.sent.find? fun x => x.wseq == wseq).map fun x => (f, x)) = some (f, x)) → (x.sends = s.getF Fld.CLP_FAULT_CTRL_RETX_MAX ∧ x.stamp + 256000 * s.getF Fld.CLP_FAULT_CTRL_RETX_US ≤ s.now) → (z = s.onFlow (fun f => f.isOurs s.selfLit dest svc) (fun f => { f with sent := f.sent.map fun y => if y.wseq = wseq then { y with sends := y.sends + 1, stamp := s.now } else y })) → z.plan x.ctx = some q → exec (.collectiveRetransmit dest svc wseq) s = .next ((z.keeperFlowBroken q dest x.launch).progress 0x06))
  ∧ (∀ (s v : State) (port : Nat) (p : Packet) (ev : AgentEvent) (q : Plan), s.TakesEvent 5 port p v ev → v.eventPlan ev.agent ev.arg.toNat = some q → exec (.flowBrokenEvent port p) s = .next (if bitsOf (wordAt ev.body 0) 14 2 = 0 then (v.raise Fld.CLP_FAULT_STATUS_FLOW_BROKEN).recoverReq q 5 (bitsOf (wordAt ev.body 1) 16 16) [] else (v.raise Fld.CLP_FAULT_STATUS_FLOW_BROKEN).losePlane q.ctx (bitsOf (wordAt ev.body 0) 16 4)))
  ∧ (∀ (s v : State) (port : Nat) (p : Packet) (ev : AgentEvent) (q : Plan), s.TakesEvent 6 port p v ev → v.eventPlan ev.agent ev.arg.toNat = some q → exec (.placeDiscardedEvent port p) s = .next (v.recoverReq q 2 (bitsOf (wordAt ev.body 0) 16 16) [w32 (bitsOf (wordAt ev.body 0) 0 16)]))
  ∧ (∀ (s v : State) (port : Nat) (p : Packet) (ev : AgentEvent) (q : Plan), s.TakesEvent 8 port p v ev → v.eventPlan ev.agent ev.arg.toNat = some q → exec (.overflowEvent port p) s = .next (v.overflow q.ctx (bitsOf (wordAt ev.body 0) 0 14) (wordAt ev.body 1).toNat))

/-- A lamp that serves its slice's pool runs the unit that waits, once both runs agree, and takes it off the queue; a spilled packet is written while it
fits under the flash's cap, and its credits go back. A LANTERN_UP packet is taken by its kind; the NEED timer floods NEED for a launch whose result is
late. A TIME_EXCHANGE REQUEST is answered, a REPLY asked for in this or the last flash is taken with its round trip and offset, fill packets leave up
to the samples asked for; acquisition steps to the exchange of shortest round trip, 16 quiet flashes end it, a cold start waits ACQ_FLASHES, holdover
degrades after HOLDOVER_FLASHES, and an agent silent for 16 flashes is held over. -/
def Obligations.LampLanternAndTimeRun : Prop :=
  (∀ (s : State) (lamp unit : Nat) (second : Bool) (u : LampUnit) (p : Plan) (x : Place) (n : Nat) (y z : State), (s.lmp.units[unit]?.bind (fun u => (s.plan u.ctx).bind fun p => (p.place u.launch u.piece).map fun x => (u, p, x)) = some (u, p, x)) → (s.lampServes lamp = true ∧ s.lampPoolOf p.slice = some n ∧ s.lampPool lamp = some n ∧ s.lampSlotServes p.slice = true) → s.spillFits (if x.spill then 2 * s.unitReads x u.idx else 0) = true → y = s.progress 0x07 → z = { y with lmp := { y.lmp with unitCount := y.lmp.unitCount + (if y.getF Fld.PWR_STATE_LEVEL = 2 then 2 else 1), spillUnits := y.lmp.spillUnits + (if x.spill then 2 * s.unitReads x u.idx else 0) } } → (z.lineFails x u.idx = false ∧ z.flag Fld.LMP_INJECT_ARM = false) → exec (.lampUnitDone lamp unit none second none) s = .next ((({ z with lmp := { z.lmp with units := z.lmp.units.eraseIdx unit } } : State).runUnit u).poolLost (some n)))
  ∧ (∀ (s : State) (x : SpillIn) (z : State), (s.lmp.spillQueue.find? (fun x => s.spillServes x.slice) = some x) → s.spillFits (x.units - 1) = true → z = { s with lmp := { s.lmp with spillQueue := s.lmp.spillQueue.erase x, spillUnits := s.lmp.spillUnits + (x.units - 1) } } → exec .spillWriteDone s = .next (((z.spillPacket x).send (.credits x.port x.vc x.units)).progress 0x07))
  ∧ (∀ (s : State) (port : Nat) (p : Packet) (fault : Option (Word × Bool)) (v : State), (v = s.received port p.hdr ∧ v.refused port p.hdr = none) → ((lntPrefix p.payload).clean = true ∧ p.hdr.opkind = 0x30 ∧ p.hdr.optag.toNat < 256) → (lntPrefix p.payload).kind = 0 → exec (.lanternContrib port p fault) s = .next ((v.takeLntContrib port p fault).progress 0x08))
  ∧ (∀ (s : State) (port : Nat) (p : Packet) (fault : Option (Word × Bool)) (v : State), (v = s.received port p.hdr ∧ v.refused port p.hdr = none) → ((lntPrefix p.payload).clean = true ∧ p.hdr.opkind = 0x30 ∧ p.hdr.optag.toNat < 256) → (lntPrefix p.payload).kind = 1 → exec (.lanternPartial port p fault) s = .next ((v.takeLntPartial port p fault).progress 0x08))
  ∧ (∀ (s : State) (port : Nat) (p : Packet) (v : State), (v = s.received port p.hdr ∧ v.refused port p.hdr = none) → ((lntPrefix p.payload).clean = true ∧ p.hdr.opkind = 0x30 ∧ p.hdr.optag.toNat < 256) → (lntPrefix p.payload).kind = 2 → exec (.lanternNeed port p) s = .next ((v.takeLntNeed port p).progress 0x08))
  ∧ (∀ (s : State) (n : Nat) (c : LntCtx) (b : LntBuf) (z : State), (s.lnt.ctxs.find? (fun c => c.ctx == n && c.live) = some c) → (c.bufs.filter (fun b => b.own.isSome && b.result.isNone && c.racks.length > 1 && b.needAt + s.getF Fld.LNT_CTRL_NEED_NS * 256 ≤ s.now) = [b]) → (z = s.onLnt c.num c.ctx (fun x => x.onBuf b.launch fun y => { y with needAt := s.now })) → exec (.needTimer n) s = .next (((z.lntFlood c 2 b.launch 0 [] 0).countReg Reg.LNT_NEEDS 1).raise Fld.LNT_INT_STATUS_NEED))
  ∧ (∀ (s : State) (port : Nat) (p : Packet) (v : State), s.takeTime port p = (true, v) → bitsOf (wordAt p.payload 0) 0 2 = 0 → exec (.timeExchangeRequest port p) s = .next (v.answerTime port p.hdr p.payload))
  ∧ (∀ (s : State) (port : Nat) (p : Packet) (v z : State) (r : Nat × Nat), s.takeTime port p = (true, v) → (v.tim.requests.find? (fun r => r.1 == p.hdr.optag.toNat % 4096 && v.tim.flash ≤ r.2 + 1) = some r) → bitsOf (wordAt p.payload 0) 0 2 = 1 → (z = { v with tim := { v.tim with requests := v.tim.requests.filter fun r => r.1 != p.hdr.optag.toNat % 4096 } }) → exec (.timeExchangeReply port p) s = .next (z.takeExch { port := port, src := p.hdr.src, rtt := ((z.now : Int) - z.stampAt p.payload 1) - (z.stampAt p.payload 7 - z.stampAt p.payload 4), theta2 := (z.stampAt p.payload 4 - z.stampAt p.payload 1) + (z.stampAt p.payload 7 - (z.now : Int)), state := bitsOf (wordAt p.payload 0) 4 3, bound := bitsOf (wordAt p.payload 11) 0 8, repFlash := wordAt p.payload 12, recs := (if bitAt (wordAt p.payload 0) 2 then (p.payload.drop 16).take 16 else []), phis := (if bitAt (wordAt p.payload 0) 2 then (p.payload.drop 32).take 16 else []) } (bitsOf (wordAt p.payload 0) 12 6)))
  ∧ (∀ (s : State) (port : Nat) (p : Packet), (s.received port p.hdr).refused port p.hdr = none → timeClean p.hdr.len.toNat p.payload = true → exec (.fillPacketReceived port p) s = .next ((s.received port p.hdr).returnCredits port p.hdr))
  ∧ (∀ (s : State) (port n : Nat) (z : State) (p : Port) (x : Found), (z = s.fillBuckets port ∧ p = z.port port) → (s.flag Fld.TIM_CTRL_FILL_EN = true ∧ port < 20 ∧ p.st = .lit ∧ s.flashUnits ≤ s.tim.offset + 2048000) → p.found = some x → exec (.timeFill port n) s = .next ((List.range (min (s.getF Fld.TIM_PARAMS_FILL_SAMPLES - n) (p.eg.bucket0.bytes / 80))).foldl (fun s _ => s.enqueue port (s.timePacket (x.w0.extractLsb' 0 16) 0 [s.timeWord0 2 false])) s))
  ∧ (∀ (s : State) (port n : Nat) (z : State) (p : Port) (a : Addr), (z = s.fillBuckets port ∧ p = z.port port) → (s.flag Fld.TIM_CTRL_FILL_EN = true ∧ port < 20 ∧ p.st = .lit ∧ s.flashUnits ≤ s.tim.offset + 2048000) → p.found = none → a = s.self → exec (.timeFill port n) s = .next ((List.range (min (s.getF Fld.TIM_PARAMS_FILL_SAMPLES - n) (p.eg.bucket0.bytes / 80))).foldl (fun s _ => s.enqueue port (s.timePacket (a) 0 [s.timeWord0 2 false])) s))
  ∧ (∀ (s : State) (x : Int × Int), (s.timeState = 1 ∧ 8 ≤ s.tim.acq.length ∧ s.tim.step = none) → (s.tim.acq.foldl (fun (acc : Option (Int × Int)) x => match acc with
  | none => some x
  | some y => if x.1 < y.1 then some x else some y) none = some x) → s.getPair Reg.TIM_FLOOR_LO ≤ (s.timeAt ((2 * (s.now : Int) + x.2) / 2).toNat).1 → exec .timeAcquisitionStep s = .next ({ s with tim := { s.tim with step := some (.by2 x.2) } }))
  ∧ (∀ (s : State), (s.timeState = 1 ∧ 16 ≤ s.tim.acqQuiet ∧ s.tim.step = none) → exec .acquisitionTimeout s = .next (({ s with tim := { s.tim with acq := [], acqQuiet := 0 } } : State).enterTime 0))
  ∧ (∀ (s : State), (s.lit = true ∧ s.getF Fld.TIM_STATE_ROOT_RACK = s.myRack ∧ s.isHead = true ∧ s.timeState = 0) → (s.flag Fld.TIM_CTRL_COLD_EN = true ∧ s.getF Fld.TIM_HOLD_ACQ_FLASHES ≤ s.tim.noSource) → exec .coldStart s = .next ({ s with tim := { s.tim with step := some (.cold s.coldFlash) } }))
  ∧ (∀ (s : State), (s.timeState = 4 ∧ s.getF Fld.TIM_HOLD_HOLDOVER_FLASHES ≤ s.tim.holdRun ∧ s.flag Fld.TIM_STATE_DEGRADED = false) → exec .degradedEntry s = .next ((s.setF Fld.TIM_STATE_DEGRADED 1).raise Fld.TIM_INT_STATUS_DEGRADED))
  ∧ (∀ (s : State) (a : Addr), (s.lit = true ∧ (s.timAgent a).st = 1 ∧ 16 ≤ (s.timAgent a).silent) → exec (.agentHoldover a) s = .next ((s.judgeAgent a 2).raise Fld.TIM_INT_STATUS_AGENT_HOLD))

/-- GRANT_ASSERT with the line free and a chart lit takes LIT; TAKEOVER_ADOPT and FINAL_COMMIT_TIMEOUT adopt the image. An SMBus request with a right PEC
is answered, a note is logged. On a standby MOOR_DELTA stages its items under its flash, MOOR_COMMIT takes what is staged whole and acknowledges it,
and the oldest commit is applied; on the holder of LIT MOOR_ACK takes its flash off the uncommitted ones, MOOR_NACK makes the partner STALE,
MOOR_STATUS tells the partner's charts and starts its pages, three flashes without an acknowledgement make it STALE, COMMIT_LOSS takes the mooring
down. MIRROR_SELECT keeps its entry and acknowledges it, its acknowledgement ends it, MIRROR_RESEND sends it on the next link. -/
def Obligations.MooringCommandsRun : Prop :=
  (∀ (s : State) (z : State), (z = ((s.setF Fld.MOR_STATE_GRANT 1).setF Fld.MOR_PINS_GRANT 1).onMor (fun m => { m with grant := true, otherLit := if m.lit then m.otherLit else !true })) → (z.lit = false ∧ z.chart.lit.isSome = true) → exec (.grantAssert true) s = .next (z.takeLit))
  ∧ (∀ (s : State) (z : State), (z = ((s.setF Fld.MOR_STATE_GRANT 1).setF Fld.MOR_PINS_GRANT 1).onMor (fun m => { m with grant := true, otherLit := if m.lit then m.otherLit else !true })) → (z.lit = false ∧ z.chart.lit = none) → exec (.grantAssert true) s = .next (z))
  ∧ (∀ (s : State) (z : State), (z = ((s.setF Fld.MOR_STATE_GRANT 1).setF Fld.MOR_PINS_GRANT 1).onMor (fun m => { m with grant := true, otherLit := if m.lit then m.otherLit else !false })) → exec (.grantAssert false) s = .next (z.setF Fld.MOR_PINS_LIT_LINE 1))
  ∧ (∀ (s : State), exec .takeoverAdopt s = .next (s.adopt))
  ∧ (∀ (s : State), exec .finalCommitTimeout s = .next ((s.onMor fun m => { m with waitFinal := false }).adopt))
  ∧ (∀ (s : State) (code : Byte), exec (.smbusHealth true) s = .next (s.send (.smbus s.healthBytes)) ∧ exec (.smbusNote code true) s = .next (s.logOwn 0x042 0x0B 0 [fieldAt 0 8 code.toNat]))
  ∧ (∀ (s : State) (c : Chart), s.chart.lit = some c → exec (.smbusIdent true) s = .next (s.send (.smbus (leBytes 8 Config.serial.toNat ++ leBytes 1 s.role ++ leBytes 1 (s.myRack % 64) ++ leBytes 2 (bitsOf Config.fuses 0 16)))))
  ∧ (∀ (s : State) (p : Packet) (v : State) (bytes : List Byte), s.takeMoor p (deltaClean p.payload) = (true, v) → v.hasState = false → bytes = (bytesOfWords (p.payload.drop 16)).take (bitsOf (wordAt p.payload 3) 0 13) → (v.mor.staging.find? (fun x => x.flash == pairAt p.payload 0) = none) → exec (.moorDelta p) s = .next (v.onMor fun m => { m with staging := (m.staging.filter fun x => x.flash % 4 != pairAt p.payload 0 % 4) ++ [{ flash := pairAt p.payload 0, packets := [((wordAt p.payload 2).toNat, bytes, parseItems 64 bytes)] }] }))
  ∧ (∀ (s : State) (p : Packet) (v : State) (bytes : List Byte) (x : Staging), s.takeMoor p (deltaClean p.payload) = (true, v) → v.hasState = false → bytes = (bytesOfWords (p.payload.drop 16)).take (bitsOf (wordAt p.payload 3) 0 13) → (v.mor.staging.find? (fun x => x.flash == pairAt p.payload 0) = some x) → exec (.moorDelta p) s = .next (v.onMor fun m => { m with staging := (m.staging.filter fun x => x.flash % 4 != pairAt p.payload 0 % 4) ++ [{ x with packets := (x.packets.filter fun y => y.1 != (wordAt p.payload 2).toNat) ++ [((wordAt p.payload 2).toNat, bytes, parseItems 64 bytes)] }] }))
  ∧ (∀ (s : State) (p : Packet) (image : Nat) (v u z : State) (x : Staging) (bytes : List Byte), s.takeMoor p (commitClean p.payload) = (true, v) → v.hasState = false → (v.mor.staging.find? (fun x => x.flash == pairAt p.payload 1) = some x) → bytes = (v.staged (pairAt p.payload 1)).flatMap (·.2.1) → ((v.staged (pairAt p.payload 1)).length == x.packets.length && x.packets.length == (wordAt p.payload 4).toNat && bytes.length == (wordAt p.payload 3).toNat && wordsOfBytes (Config.shake 16 bytes) == (p.payload.drop 5).take 4) = true → (u = ((v.setF Fld.MOR_HEALTH_MOORING_DOWN 0).onMor (fun m => { m with heard := true, staging := m.staging.filter fun x => x.flash != pairAt p.payload 1 })).onMor (fun m => { m with committed := m.committed ++ [{ flash := pairAt p.payload 1, items := (v.staged (pairAt p.payload 1)).flatMap (·.2.2), check := digestOfWords ((p.payload.drop 16).take 16) }], imageFlash := max m.imageFlash (pairAt p.payload 1), waitFinal := m.waitFinal && !bitAt (wordAt p.payload 0) 2 })) → (z = (if image = 2 ∧ (u.setPair Reg.MOR_COMMIT_FLASH_LO u.mor.imageFlash).getF Fld.MOR_STATE_IMAGE = 1 then ((u.setPair Reg.MOR_COMMIT_FLASH_LO u.mor.imageFlash).setF Fld.MOR_STATE_IMAGE 2).setF Fld.MOR_HEALTH_RESYNCING 0 else u.setPair Reg.MOR_COMMIT_FLASH_LO u.mor.imageFlash)) → exec (.moorCommit p image) s = .next (z.moorCommitSend (ackWords 1 (pairAt p.payload 1)) (z.getF Fld.MOR_STATE_IMAGE)))
  ∧ (∀ (s : State) (c : Committed) (rest : List Committed) (z : State), s.mor.committed = c :: rest → (z = (s.onMor fun m => { m with committed := rest }).holdItems c.items) → (z.lit = true ∨ z.getF Fld.MOR_STATE_IMAGE ≠ 2) → exec .deltaApply s = .next (z))
  ∧ (∀ (s : State) (p : Packet) (v : State), s.takeMoor p (commitClean p.payload) = (true, v) → v.lit = true → exec (.moorNack p) s = .next ((v.mooringHeard.mooringDegraded 3).partnerStale))
  ∧ (∀ (s : State) (p : Packet) (v y z : State), s.takeMoor p (commitClean p.payload) = (true, v) → v.lit = true → (y = (v.mooringHeard.onMor fun m => { m with uncommitted := m.uncommitted.filter (· != pairAt p.payload 1) })) → z = (y.setPair Reg.MOR_COMMIT_FLASH_LO (max (y.getPair Reg.MOR_COMMIT_FLASH_LO) (pairAt p.payload 1))).setF Fld.MOR_LAG_UNCOMMITTED (min 4 (y.setPair Reg.MOR_COMMIT_FLASH_LO (max (y.getPair Reg.MOR_COMMIT_FLASH_LO) (pairAt p.payload 1))).mor.uncommitted.length) → z.mor.lastPage = none → exec (.moorAck p) s = .next (z.releaseWaits (fun x => x.mirrored && x.delta ≤ pairAt p.payload 1 && !(z.mor.uncommitted.any fun u => u ≤ x.delta)) false))
  ∧ (∀ (s : State) (p : Packet) (image : Nat) (v z : State), s.takeMoor p (bitsOf (wordAt p.payload 0) 2 30 == 0 && bitsOf (wordAt p.payload 2) 16 16 == 0 && bitsOf (wordAt p.payload 10) 8 24 == 0 && ((p.payload.drop 11).take 5).all (· == 0)) = (true, v) → v.lit = true → (z = v.mooringHeard.onMor (fun m => { m with partnerDigests := ((List.range 4).filter fun n => bitsOf (wordAt p.payload 10) (2 * n) 2 == 2).map fun n => digestOfWords ((p.payload.drop (32 + 16 * n)).take 16) })) → (z.flag Fld.MOR_CTRL_MIRROR_EN = false ∨ (z.port 20).st ≠ .lit) → exec (.moorStatus p image) s = .next (z))
  ∧ (∀ (s : State) (p : Packet) (v z : State), s.takeMoor p (bitsOf (wordAt p.payload 0) 2 30 == 0 && bitsOf (wordAt p.payload 2) 16 16 == 0 && bitsOf (wordAt p.payload 10) 8 24 == 0 && ((p.payload.drop 11).take 5).all (· == 0)) = (true, v) → v.lit = true → (z = v.mooringHeard.onMor (fun m => { m with partnerDigests := ((List.range 4).filter fun n => bitsOf (wordAt p.payload 10) (2 * n) 2 == 2).map fun n => digestOfWords ((p.payload.drop (32 + 16 * n)).take 16) })) → (z.flag Fld.MOR_CTRL_MIRROR_EN = true ∧ (z.port 20).st = .lit) → exec (.moorStatus p 3) s = .next (z.partnerStale))
  ∧ (∀ (s : State), s.lit = true → (s.mor.uncommitted.any (fun f => f + 3 ≤ s.tim.flash) = true) → exec .commitAckTimeout s = .next (s.partnerStale))
  ∧ (∀ (s : State), s.getF Fld.MOR_PARAMS_COMMIT_LOSS ≤ s.mor.quiet → exec .commitLoss s = .next (s.mooringDown 1))
  ∧ (∀ (s : State) (port : Nat) (p : Packet) (v : State), s.takeSel port p = (true, v) → v.lit = false → bitsOf (wordAt p.payload 0) 0 4 < 5 → exec (.mirrorSelect port p) s = .next ((v.onMor fun m => { m with selSet := m.selSet ++ [(bitsOf (wordAt p.payload 0) 0 4, p.payload.drop 16)] }).sendSelect port p.hdr.optag.toNat (selWords 6 (pairAt p.payload 1) 0 [])))
  ∧ (∀ (s : State) (port : Nat) (p : Packet) (v : State), s.takeSel port p = (true, v) → v.lit = true → bitsOf (wordAt p.payload 0) 0 4 = 6 → exec (.mirrorSelectAck port p) s = .next ((v.onMor fun m => { m with selOut := m.selOut.filter fun x => x.tag != p.hdr.optag.toNat % 4096 }).countMirrored))
  ∧ (∀ (s : State) (tag n : Nat) (x : SelPkt), (s.mor.selOut.find? (fun x => x.tag == tag) = some x) → (s.selLinks.find? (fun n => x.plane < n) = some n ∨ (s.selLinks.find? (fun n => x.plane < n) = none ∧ s.selLinks.head? = some n)) → exec (.mirrorResend tag) s = .next ((s.onMor fun m => { m with selOut := m.selOut.map fun y => if y.tag = tag then { y with plane := n } else y }).sendSelect n tag x.words))

/-- A MGMT_REPLY of the current MGEN ends its operation and answers it with the words it carries; an operation unanswered for its time is sent again, and
after MGMT_SENDS sends it hangs and fails. A LOAD_REPORT's part is taken; gauges that stood WARN_RUN flashes at or over WARN_PM raise SAT once.
LOG_EVENT takes its record with its local time; a Pilot core's record is taken while PILOT_EN is 1, else counted as dropped. A read of BAR4 answers
with the log copy's words, a misaligned one with 0; a write of BAR4 is recorded. -/
def Obligations.ManagementTelemetryAndLogRun : Prop :=
  (∀ (s : State) (port : Nat) (p : Packet) (v : State) (op : MgmtOp), (v = s.received port p.hdr ∧ v.refused port p.hdr = none) → (replyClean p.payload = true ∧ p.hdr.gen.toNat = v.getF Fld.RST_STATE_MGEN) → ((v.returnCredits port p.hdr).mgmt.ops.find? (fun o => o.tag == p.hdr.optag.toNat && o.agent == p.hdr.src && bitsOf (wordAt p.payload 1) 16 2 == 0) = some op) → exec (.mgmtReply port p) s = .next (((((v.returnCredits port p.hdr).dropOp op.tag).opReply op (bitsOf (wordAt p.payload 1) 24 8) ((p.payload.drop 4).take (bitsOf (wordAt p.payload 1) 0 10))).progress op.engine)))
  ∧ (∀ (s : State) (tag : BitVec 12) (op again : MgmtOp) (z : State), (s.mgmt.ops.find? (fun o => o.tag == tag.toNat) = some op) → (op.wait ≤ s.since op.sent ∧ op.sends < s.getF Fld.RST_MGMT_MGMT_SENDS ∧ s.lit = true) → again = { op with sends := op.sends + 1, sent := s.stamp, wait := s.resendTime op.agent false } → (z = { s with mgmt := { s.mgmt with ops := s.mgmt.ops.map fun (o : MgmtOp) => if o.tag = op.tag then again else o } }) → exec (.mgmtResend tag) s = .next (z.sendMgmt again))
  ∧ (∀ (s : State) (tag : BitVec 12) (op : MgmtOp) (z : State), (s.mgmt.ops.find? (fun o => o.tag == tag.toNat) = some op) → (op.wait ≤ s.since op.sent ∧ s.getF Fld.RST_MGMT_MGMT_SENDS ≤ op.sends) → z = { s.dropOp op.tag with mgmt := { (s.dropOp op.tag).mgmt with cool := (op.tag, (s.dropOp op.tag).tim.flash + 4) :: (s.dropOp op.tag).mgmt.cool } } → exec (.mgmtResend tag) s = .next ((z.contextHang op.engine 3 op.tag op.slice 2 op.agent).opFailed op))
  ∧ (∀ (s : State) (port : Nat) (p : Packet) (v : State), (v = s.received port p.hdr ∧ v.refused port p.hdr = none) → (eventClean p.payload = true ∧ bitsOf (wordAt p.payload 0) 0 8 = 1) → exec (.loadReport port p) s = .next ((v.returnCredits port p.hdr).loadReport (eventOf p.hdr.src p.payload)))
  ∧ (∀ (s : State) (due : List Nat), (due = (List.range 9).filter (fun g => decide (s.getF Fld.TEL_SAT_CTRL_WARN_RUN ≤ s.tel.runs.getD g 0) && !bitAt (s.getReg Reg.TEL_SAT_STATUS) g)) → due ≠ [] → exec .saturationWarn s = .next ((s.setReg Reg.TEL_SAT_STATUS (s.getReg Reg.TEL_SAT_STATUS ||| w32 (maskOf due))).raise Fld.TEL_INT_STATUS_SAT))
  ∧ (∀ (s : State) (e : LogEvt), exec (.logEvent e) s = .next (s.logIn { evt := e, submitted := false, sample := false, again := false, loc := s.stampLocal e.party }))
  ∧ (∀ (s : State) (core : BitVec 8) (code : BitVec 10) (slice : Byte) (body : List Word), (0x080 ≤ code.toNat ∧ code.toNat ≤ 0x0FF) → s.flag Fld.LOG_CTRL_PILOT_EN = true → exec (.pilotLogSubmit core code slice body) s = .next (s.logIn { evt := { code := code, party := s.self, fa2 := false, flash := BitVec.ofNat 48 s.tim.flash, offset := BitVec.ofNat 25 s.tim.offset, slice := slice, engine := core + 0x10, body := body.take 251 }, submitted := true, sample := false, again := false, loc := s.stampLocal s.self }))
  ∧ (∀ (s : State) (core : BitVec 8) (code : BitVec 10) (slice : Byte) (body : List Word), (0x080 ≤ code.toNat ∧ code.toNat ≤ 0x0FF) → s.flag Fld.LOG_CTRL_PILOT_EN = false → exec (.pilotLogSubmit core code slice body) s = .next ((s.count Fld.LOG_DROPPED_RECORDS 1).count Fld.LOG_DROPPED_PILOT 1))
  ∧ (∀ (s : State) (off : Nat), s.hostReaches = true → (off % 4 = 0 ∧ readAligned off 4 = true) → exec (.bar4Read off 4 false) s = .next (s.send (.readData (BitVec.ofNat 64 (subWord (s.bar4Word (off / 4 * 4)) off 4)))))
  ∧ (∀ (s : State) (off n : Nat) (f : Bool), s.hostReaches = true → readAligned off n = false → exec (.bar4Read off n f) s = .next ((s.recordErr Fld.HIF_ERR_STATUS_ACCESS 2 off).send (.readData 0)))
  ∧ (∀ (s : State) (off : Nat), s.hostReaches = true → readAligned off 4 = true → exec (.bar4Read off 4 true) s = .next (((((s.send (.readData (BitVec.ofNat 64 (subWord 0xFFFFFFFF off 4)))).count Fld.RST_DETECT_HBM 1).raise Fld.RST_INT_STATUS_DETECT).raise Fld.LOG_INT_STATUS_LOST)))
  ∧ (∀ (s : State) (off : Nat) (x : BitVec 64), s.hostReaches = true → exec (.bar4Write off x) s = .next (s.recordErr Fld.HIF_ERR_STATUS_BAR4_WRITE 2 off))

/-- A hung engine is shown, recorded and escalated; ENGINE_RESET_DONE returns the engine, restarts it and answers the windows that wait; a context hang
resets its context, CONTEXT_RESET_DONE answers. A host DMA completion gives its words, a failure or a timeout fails the command. AON_WATCHDOG asks for
level 5 with force; a deferred reset goes on once a partner is present, PART_RESET_START starts what waits once LIT is given up, PART_RESET_END ends
level 4, CHIP_RESET restarts the chip at level 5, the fit timeouts escalate; MOD_RESET_N gives up LIT and starts level 5, and its release ends a held
one. -/
def Obligations.EngineAndPartResetsRun : Prop :=
  (∀ (s : State) (e : Nat) (slice : Byte) (item : Word), (s.flag Fld.RST_CTRL_HANG_EN = true ∧ engineIds.contains e = true ∧ e ≠ 0x0E ∧ s.hungAt e = true ∧ (s.engine e).inReset = 0) → s.rst.part.any (·.started) = false → (e < 0x10 ∨ 0x21 < e) → exec (.engineHang e slice item) s = .next (((((s.onEngine e fun e => { e with hung := true }).showHung e true).logHang e slice.toNat 0 0 0).escalate e slice.toNat item)))
  ∧ (∀ (s : State) (e : Nat) (x : Engine) (y z : State), (x = s.engine e ∧ 2 ≤ x.inReset) → (y = s.onEngine e (fun w => { w with inReset := 0, hung := false, still := 0, last := w.progress, wins := [] })) → (engineStage e = none ∧ z = (((y.showHung e false).restartEngine e).showLevel)) → exec (.engineResetDone e) s = .next (((((actRegs.filter fun r => blockEngine r == e).foldl State.regAct z).raise Fld.RST_INT_STATUS_RESET_DONE).answerReset x.inReset x.began x.wins)))
  ∧ (∀ (s : State) (e : Nat) (g : StageId) (x : Engine) (y z : State), (x = s.engine e ∧ 2 ≤ x.inReset) → (y = (s.onEngine e fun w => { w with inReset := 0, hung := false, still := 0, last := w.progress, wins := [] }).onStage g (fun w => { w with run := 0 })) → (engineStage e = some g ∧ z = (((y.showHung e false).restartEngine e).showLevel)) → exec (.engineResetDone e) s = .next (((((actRegs.filter fun r => blockEngine r == e).foldl State.regAct z).raise Fld.RST_INT_STATUS_RESET_DONE).answerReset x.inReset x.began x.wins)))
  ∧ (∀ (s : State) (n : Nat) (p : Plan), s.plan n = some p → (s.lmp.units.any (fun u => u.ctx == n) = true) → exec (.contextHang 1 n) s = .next (s.contextHang 0x07 1 n p.slice 1 0))
  ∧ (∀ (s : State) (n : Nat) (c : LntCtx), (s.lnt.ctxs.find? (fun c => c.num == n) = some c) → exec (.contextHang 2 n) s = .next (s.contextHang 0x08 2 n c.slice 1 0))
  ∧ (∀ (s : State) (kind n : Nat) (c : CtxReset), (s.rst.ctxs.find? (fun c => c.kind == kind && c.ctx == n) = some c) → exec (.contextResetDone kind n) s = .next (((((s.onRst fun r => { r with ctxs := r.ctxs.erase c }).showLevel).raise Fld.RST_INT_STATUS_RESET_DONE).answerReset 1 c.began c.wins)))
  ∧ (∀ (s : State) (slot : Nat) (ws : List Word) (d : Dma) (t : State), s.takeDma slot = (some d, t) → (d.len + 3) / 4 ≤ d.got.length + ws.length → exec (.hostDmaCompletion slot 0 ws) s = .next ((t.dmaDone d ((d.got ++ ws).take ((d.len + 3) / 4))).progress 0x01))
  ∧ (∀ (s : State) (slot : Nat) (ws : List Word) (d : Dma) (t : State), s.takeDma slot = (some d, t) → d.got.length + ws.length < (d.len + 3) / 4 → exec (.hostDmaCompletion slot 0 ws) s = .next ({ s with hif := { s.hif with dma := modifyAt (fun (x : Dma) => { x with got := d.got ++ ws }) slot s.hif.dma } }))
  ∧ (∀ (s : State) (slot n : Nat) (ws : List Word) (d : Dma) (t : State), s.takeDma slot = (some d, t) → n ≠ 0 → exec (.hostDmaCompletion slot n ws) s = .next (t.dmaFailed d (if n ≤ 3 then n else 1)))
  ∧ (∀ (s : State) (slot : Nat) (d : Dma) (t : State), s.takeDma slot = (some d, t) → exec (.hostDmaTimeout slot) s = .next ((t.contextHang 0x01 0 slot 0 1 0).dmaFailed d 4))
  ∧ (∀ (s : State), exec .aonWatchdog s = .next ((s.setUnfit 3 true).decidePart 5 5 0x0E 0 true []))
  ∧ (∀ (s : State) (p : PartReset), (s.rst.part = some p ∧ p.deferred = true ∧ s.partnerPresent = true) → exec .deferredResetStart s = .next (s.proceedPart { p with deferred := false }))
  ∧ (∀ (s : State) (p : PartReset), (s.rst.part = some p ∧ p.deferred = false ∧ p.started = false) → (s.lit = false ∨ p.cause = 5) → exec .partResetStart s = .next ((if s.lit then s.loseLit s.mor.grant else s).startPart p))
  ∧ (∀ (s : State) (p : PartReset) (y : State), (s.rst.part = some p ∧ p.started = true ∧ p.level = 4) → (y = s.onRst (fun r => { r with part := none, sincePart := some 0, fitWins := p.wins, fitFlash := p.began })) → exec .partResetEnd s = .next ((({ y with link := { y.link with lastTag := none } } : State).showLevel).setUnfit 3 false))
  ∧ (∀ (s : State), (s.getF Fld.MOR_STATE_FIT = 0 ∧ s.flag Fld.RST_CTRL_ESC_EN = true) → s.rst.sincePart.isSome = true → exec .partFitTimeout s = .next (s.decidePart 5 4 0x0E 0 false []))
  ∧ (∀ (s : State), (s.getF Fld.MOR_STATE_FIT = 0 ∧ s.flag Fld.RST_CTRL_ESC_EN = true) → s.rst.sinceChip.isSome = true → exec .chipFitTimeout s = .next (s.decidePart 6 4 0x0E 0 false []))
  ∧ (∀ (s : State) (p : PartReset), (s.rst.part = some p ∧ p.started = true ∧ p.level = 5 ∧ p.held = false) → (s.log.copying = none ∧ p.pin = false) → exec .chipReset s = .next (s.restartChip 5 p.cause))
  ∧ (∀ (s : State) (p : PartReset), (s.rst.part = some p ∧ p.started = true ∧ p.level = 5 ∧ p.held = false) → (s.log.copying = none ∧ p.pin = true) → exec .chipReset s = .next (((((s.restartChip 5 p.cause).onRst fun r => { r with part := some { p with held := true } }).showLevel).setUnfit 3 true)))
  ∧ (∀ (s : State) (z : State), z = (if s.lit then s.loseLit s.mor.grant else s).setUnfit 3 true → z.rst.part = none → exec .modReset s = .next ((z.raise Fld.RST_INT_STATUS_ESCALATED).startPart { level := 5, cause := 0, engine := 0x0E, slice := 0, wins := [], began := z.tim.flash, force := true, deferred := false, started := false, pin := true, held := false }))
  ∧ (∀ (s : State) (p : PartReset), s.rst.part = some p → exec .modResetDeassert s = .next (if p.held then ((s.onRst fun r => { r with part := none }).showLevel).setUnfit 3 false else s.onRst fun r => { r with part := some { p with pin := false } }))

/-- LOG_RING_MOVE moves one record to the ring; a copy that ends is marked and what it was made for goes on, one cut short loses its area. A sample
without room is dropped and counted. A detection counts at its memory, is judged for retirement and its item retaken; a pseudo-channel copy ends.
SELFTEST_RESULT clears or sets the test's bit and unfitness. WARDEN_START measures the image; a Pilot image is measured by a serving Warden and the
cores released, one core stops alone; an enrolment is judged; a signature goes to what it is for and the next starts; seals are published, renewed at
half their life, hurried when low and written directly after DELIVER_MAX sends. -/
def Obligations.CopySelfTestAndSecurityEventsRun : Prop :=
  (∀ (s : State) (r : LogRec) (rest : List LogRec) (z : State), s.log.staging = r :: rest → z = s.moveOne.progress 0x0C → exec .logRingMove s = .next (State.stageSamples z.rst.samples.length z))
  ∧ (∀ (s : State) (b : Bool) (why : CopyFor), s.log.copying = some (b, why) → exec .logCopyDone s = .next (((s.endCopy.writeBlocks (copyBlocks b) []).afterCopy why)))
  ∧ (∀ (s : State) (why : CopyFor), s.log.copying = some (true, why) → exec .logCopyCutShort s = .next ((({ s with log := { s.log with areaB := { s.log.areaB with valid := false, writing := false }, copying := none } } : State).showCopies.afterCopy why)))
  ∧ (∀ (s : State) (why : CopyFor), s.log.copying = some (false, why) → exec .logCopyCutShort s = .next ((({ s with log := { s.log with areaA := { s.log.areaA with valid := false, writing := false }, copying := none } } : State).showCopies.afterCopy why)))
  ∧ (∀ (s : State) (x : SampleJob) (rest : List SampleJob), s.rst.samples = x :: rest → exec .sampleRoomTimeout s = .next (State.stageSamples rest.length (((s.onRst fun r => { r with samples := rest }).count Fld.RST_SAMPLES_DROPPED 1).raise Fld.RST_INT_STATUS_SAMPLE_DROP)))
  ∧ (∀ (s : State) (item : DetItem) (a b c : Nat) (x : Bool) (d : RowUnit), exec (.detectionError item (.row a b x d)) s = .next (((((s.count Fld.RST_DETECT_SRAM 1).raise Fld.RST_INT_STATUS_DETECT).judgePlace (.row a b x d)).retake item)) ∧ exec (.detectionError item (.page a b c)) s = .next (((((s.count Fld.RST_DETECT_HBM 1).raise Fld.RST_INT_STATUS_DETECT).judgePlace (.page a b c)).retake item)))
  ∧ (∀ (s : State) (n : Nat), ∃ t, exec (.pseudoChannelCopyDone n) s = .next t ∧ (∀ x ∈ t.rst.copies, x.1 ≠ n) ∧ (∀ x ∈ s.rst.copies, x.1 ≠ n → x ∈ t.rst.copies))
  ∧ (∀ (s : State) (n : Nat) (z : State), (s.lit = false ∧ s.flag Fld.MOR_CTRL_SELFTEST_EN = true ∧ s.getF Fld.PWR_STATE_LEVEL = 0 ∧ n < 6) → (z = (s.setF (selfTestFld n) 0).onRst (fun x => { x with short := x.short &&& (0x7F - (1 <<< n)) })) → exec (.selftestResult n []) s = .next (z.setUnfit 7 (z.rst.short != 0)))
  ∧ (∀ (s : State) (n u : Nat) (us : List Nat) (r : State × Bool) (z : State), (s.lit = false ∧ s.flag Fld.MOR_CTRL_SELFTEST_EN = true ∧ s.getF Fld.PWR_STATE_LEVEL = 0 ∧ n < 6) → (r = (u :: us).foldl (fun (r : State × Bool) u => ((r.1.failUnit n u).1, r.2 || (r.1.failUnit n u).2)) (s, false)) → (z = ((r.1.setF (selfTestFld n) 1).raise Fld.MOR_INT_STATUS_SELFTEST_FAIL).onRst (fun x => { x with short := if r.2 then x.short ||| (1 <<< n) else x.short })) → exec (.selftestResult n (u :: us)) s = .next (z.setUnfit 7 (z.rst.short != 0)))
  ∧ (∀ (s : State) (m : WardenImage), exec (.wardenStart m) s = .next (s.wardenStart m))
  ∧ (∀ (s : State) (image : List Byte) (z : State), s.wdn.serving = true → (z = { s with work := { s.work with pilots := s.work.pilots.map fun (p : Pilot) => { p with running := false } } }) → exec (.pilotFirmwareReplace image) s = .next ((((z.setDigest (Reg.WDN_PILOT_DIGEST 0) (Config.shake256 image)).onWdn fun w => { w with pilot := image }).releasePilots)))
  ∧ (∀ (s : State) (image : List Byte), s.wdn.serving = false → exec (.pilotFirmwareReplace image) s = .next ({ s with work := { s.work with pilots := s.work.pilots.map fun (p : Pilot) => { p with running := false } } }))
  ∧ (∀ (s : State) (core : BitVec 8), core.toNat < s.work.pilots.length → ∃ t p, exec (.pilotCoreStop core) s = .next t ∧ t.work.pilots[core.toNat]? = some p ∧ p.running = false ∧ ∀ n, n ≠ core.toNat → t.work.pilots[n]? = s.work.pilots[n]?)
  ∧ (∀ (s : State) (e : Enrol) (b : List Byte), (s.wdn.enrol = some e ∧ e.bytes = some b) → exec .enrolVerifyDone s = .next (s.enrolJudged (s.enrolReason e b)))
  ∧ (∀ (s : State) (j : SignJob) (z : State), s.wdn.signing = some j → (z = s.onWdn (fun w => { w with signing := none })) → exec .signatureDone s = .next (State.startSign 257 false (match j.what with
  | .confirm n => z.finishConfirm n
  | .report w => z.finishReport w j
  | .seal _ => z.onWdn fun w => { w with signed := w.signed ++ [{ j with done := z.tim.flash }] })))
  ∧ (∀ (s : State) (js : List SignJob) (z : State), (js = s.wdn.signed.filter (fun j => decide (j.done < s.tim.flash ∧ s.slv.litEpoch ≤ j.epoch))) → (z = s.onWdn (fun w => { w with signed := w.signed.filter fun j => s.tim.flash ≤ j.done })) → z.lit = true → exec .sealPublish s = .next ((js.filter fun j => !(js.any fun k => k.slice == j.slice && decide (j.flash < k.flash))).foldl (fun s j => s.publishSeal j j.slice) z))
  ∧ (∀ (s : State) (x : Seal), (s.wdn.seals.filter (fun x => x.own && !x.renewed && decide (x.issue + (x.expiry - x.issue) / 2 ≤ s.tim.flash)) = [x]) → s.lit = true → exec .sealRenewal s = .next ((s.onSeal x.slice fun y => { y with renewed := true }).askSeal x.slice 5))
  ∧ (∀ (s : State) (x : Seal) (z : State), (s.wdn.seals.filter (fun x => x.own && !x.low && decide (4 * (x.expiry - s.tim.flash) < x.expiry - x.issue)) = [x]) → (z = (s.onSeal x.slice fun y => { y with low := true }).raise Fld.WDN_SEC_INT_STATUS_SEAL_LOW) → exec .sealLow s = .next (z.onWdn fun w => { w with queue := w.queue.map fun j => if j.what = .seal x.slice then { j with rank := min j.rank 3 } else j }))
  ∧ (∀ (s : State) (x : Seal) (a : Addr) (y : State), (s.wdn.seals.filter (fun x => x.own && !x.missing.isEmpty && decide (s.getF Fld.WDN_SEAL_CTRL_DELIVER_MAX ≤ x.sent)) = [x] ∧ x.missing = [a]) → s.lit = true → y = (s.logOwn 0x063 0x22 x.slice [fieldAt 0 14 (s.enAt a)]).raise Fld.WDN_SEC_INT_STATUS_SEAL_DIRECT → exec .sealDirectWrite s = .next ((((stagingRuns x.bytes).foldl (fun s r => s.mgmtWrite a r.1 r.2 0 x.slice 0x05 (.seal x.slice)) y).mgmtWrite a 0x98 [fieldAt 0 16 x.bytes.length] 0 x.slice 0x05 (.seal x.slice)).onSeal x.slice fun y => { y with missing := [] }))

/-- POWER_UP latches the straps and brings the rails up, after which the die restarts as from a level-6 reset; a rail that fails leaves AON alone for one
retry, RAIL_FAIL_RETRY, after which the stage is locked. VIN_DIP raises VIN_LOW. VIN_LOSS, THERMAL_TRIP and GRANT_WITHDRAW release LIT at once, the
first two drop the rails and cut a log copy short, a trip holds TRIPPED. SHUTDOWN_LIMIT records its cause and makes the copy as soon as LIT is free,
SHUTDOWN_RELEASE_TIMEOUT releases it. THROTTLE_STEP moves LEVEL by 1. FREF_LOSS and FREF_RESTORE move the clocks and raise their bits. -/
def Obligations.PowerAndReferenceEvents : Prop :=
  (∀ (s : State) (role x y : Nat), s.pwr.stage = .off → (role < 2 ∧ x < 8 ∧ y < 8) → ∃ u : State, exec (.powerUp role x y none) s = .next (u.restartChip 6 0) ∧ u.getF Fld.PWR_STRAPS_ROLE = role ∧ u.getF Fld.PWR_STRAPS_POS_X = x ∧ u.getF Fld.PWR_STRAPS_POS_Y = y ∧ u.getReg Reg.PWR_RAILS = 0xFF ∧ u.getReg Reg.PWR_STATE = 0 ∧ u.pwr = PwrState.reset)
  ∧ (∀ (s : State) (role x y r : Nat), s.pwr.stage = .off → ∃ t, exec (.powerUp role x y (some r)) s = .next t ∧ t.pwr.stage = .retry ∧ t.getReg Reg.PWR_RAILS = 1)
  ∧ (∀ (s : State), s.pwr.stage = .retry → ∃ u : State, exec (.railFailRetry none) s = .next (u.restartChip 6 0) ∧ u.getReg Reg.PWR_RAILS = 0xFF ∧ u.pwr = PwrState.reset)
  ∧ (∀ (s : State) (r : Nat), s.pwr.stage = .retry → ∃ t, exec (.railFailRetry (some r)) s = .next t ∧ t.pwr.stage = .locked ∧ t.getReg Reg.PWR_RAILS = 1)
  ∧ (∀ (s : State), s.pwr.stage = .on → ∃ t, exec .vinDip s = .next t ∧ t.pwr.dip = true ∧ t.flag Fld.PWR_INT_STATUS_VIN_LOW = true)
  ∧ (∀ (s : State), ∃ t, exec .vinLoss s = .next t ∧ t.pwr.stage = .off ∧ t.mor.lit = false ∧ t.getReg Reg.PWR_RAILS = 0)
  ∧ (∀ (s : State) (cause : Nat), s.pwr.stage = .on → s.pwr.closing = false → (cause = 1 ∨ cause = 2 ∨ (cause = 3 ∧ s.pwr.dip = true)) → s.mor.lit = false → ∃ u : State, exec (.shutdownLimit cause) s = .next (u.startCopy .shutdown) ∧ u.getF Fld.PWR_STATE_SHUT_CAUSE = cause ∧ u.pwr.closing = true)
  ∧ (∀ (s : State) (cause : Nat), s.pwr.stage = .on → s.pwr.closing = false → (cause = 1 ∨ cause = 2 ∨ (cause = 3 ∧ s.pwr.dip = true)) → s.mor.lit = true → ∃ t, exec (.shutdownLimit cause) s = .next t ∧ t.getF Fld.PWR_STATE_SHUT_CAUSE = cause ∧ t.pwr.closing = true ∧ t.mor.lit = true ∧ t.log = s.log)
  ∧ (∀ (s : State), s.pwr.closing = true → s.mor.lit = true → exec .shutdownReleaseTimeout s = .next ((s.loseLit s.mor.grant).startCopy .shutdown) ∧ (s.loseLit s.mor.grant).mor.lit = false)
  ∧ (∀ (s : State), s.pwr.closing = false → ∃ t, exec .grantWithdraw s = .next t ∧ t.mor.lit = false ∧ t.mor.grant = false)
  ∧ (∀ (s : State), s.pwr.stage ≠ .off → ∃ t, exec .thermalTrip s = .next t ∧ t.pwr.stage = .locked ∧ t.mor.lit = false ∧ t.getReg Reg.PWR_RAILS = 1 ∧ t.flag Fld.PWR_STATE_TRIPPED = true ∧ t.log.copying = none)
  ∧ (∀ (s : State), s.getF Fld.PWR_STATE_LEVEL < 2 → s.flag Fld.PWR_CTRL_THROTTLE_EN = true → (10000 ≤ s.pwr.hot ∧ 10000 ≤ s.pwr.stood) → ∃ t, exec .throttleStep s = .next t ∧ t.getF Fld.PWR_STATE_LEVEL = s.getF Fld.PWR_STATE_LEVEL + 1 ∧ t.flag Fld.PWR_INT_STATUS_THROTTLE = true ∧ t.pwr.stood = 0)
  ∧ (∀ (s : State), (0 < s.getF Fld.PWR_STATE_LEVEL ∧ s.getF Fld.PWR_STATE_LEVEL ≤ 2) → s.pwr.hot = 0 → 100000 ≤ s.pwr.cool → ∃ t, exec .throttleStep s = .next t ∧ t.getF Fld.PWR_STATE_LEVEL = s.getF Fld.PWR_STATE_LEVEL - 1 ∧ t.pwr.stood = 0)
  ∧ (∀ (s : State), ∃ t, exec .frefLoss s = .next t ∧ t.flag Fld.PWR_INT_STATUS_REF_LOST = true ∧ t.getF Fld.PWR_STATE_REF = (if s.flag Fld.PWR_CTRL_REF_AUTO then 1 else s.getF Fld.PWR_STATE_REF))
  ∧ (∀ (s : State), s.getF Fld.PWR_STATE_REF = 1 → ∃ t, exec .frefRestore s = .next t ∧ t.flag Fld.PWR_INT_STATUS_REF_BACK = true ∧ t.getF Fld.PWR_STATE_REF = 0)

/-- A write that is well formed, owes a reply and was not taken before under its tag is applied whole, journalled, kept and answered with STATUS 0, or,
when a word of it is refused, changes nothing and is answered with the refusing STATUS. So AGENT_MGMT_WRITE; and by its own effect each control-page
row: ARM, DISARM and SET_LIT by FA_ARM_CTRL, GO, FREEZE and THAW (whose index an agent's declared units bound), the check value's GO, the seal's
commit (taken without effect by FA2), the trim, the rate, the step and SERVE. -/
def Obligations.AgentWritesRun : Prop :=
  (∀ (s : State) (agent : Addr) (h : MgmtHead) (v : State) (addr : Nat) (words : List Word) (r : Nat × State × List Word), s.AgentAsks agent h addr words.length v → r = v.agWriteAll agent addr words → r.1 = 0 → exec (.agentMgmtWrite agent h addr words) s = .next ((r.2.1.journalWrite agent h addr words).agAnswered agent h addr words.length 0 r.2.2))
  ∧ (∀ (s : State) (agent : Addr) (h : MgmtHead) (v : State) (addr : Nat) (w : Word), s.AgentAsks agent h addr 1 v → addr % 4 = 0 → v.pokeStatus agent addr w ≠ 0 → exec (.agentMgmtWrite agent h addr [w]) s = .next (v.agAnswered agent h addr 1 (v.pokeStatus agent addr w) []))
  ∧ (∀ (s : State) (agent : Addr) (h : MgmtHead) (v : State) (value : Word), s.AgentAsks agent h 0x4C 1 v → v.pokeStatus agent 0x4C value = 0 → exec (.agentArm agent h value) s = .next (v.agTaken (v.armCtrl agent value) agent h 0x4C [value] []))
  ∧ (∀ (s : State) (agent : Addr) (h : MgmtHead) (v : State) (value : Word), s.AgentAsks agent h 0x4C 1 v → v.pokeStatus agent 0x4C value = 0 → exec (.agentDisarm agent h value) s = .next (v.agTaken (v.armCtrl agent value) agent h 0x4C [value] []))
  ∧ (∀ (s : State) (agent : Addr) (h : MgmtHead) (v : State) (bank : Nat), s.AgentAsks agent h 0x4C 1 v → v.pokeStatus agent 0x4C (4 ||| fieldAt 3 1 bank) = 0 → exec (.agentSetLit agent h bank) s = .next (v.agTaken (v.armCtrl agent (4 ||| fieldAt 3 1 bank)) agent h 0x4C [(4 ||| fieldAt 3 1 bank)] []))
  ∧ (∀ (s : State) (agent : Addr) (h : MgmtHead) (v : State) (value : Word), s.AgentAsks agent h 0x70 1 v → v.pokeStatus agent 0x70 value = 0 → exec (.agentGo agent h value) s = .next (v.agTaken (v.takeGo agent value) agent h 0x70 [value] []))
  ∧ (∀ (s : State) (agent : Addr) (h : MgmtHead) (v : State) (value : Word), s.AgentAsks agent h 0x80 1 v → v.pokeStatus agent 0x80 value = 0 → exec (.agentCheckValue agent h value) s = .next (v.agTaken (v.onAgent agent fun g => { g.put 0x80 (putBits value 31 1 0) with checking := g.checking || bitAt value 31 }) agent h 0x80 [value] []))
  ∧ (∀ (s : State) (agent : Addr) (h : MgmtHead) (v : State) (len : Nat), s.AgentAsks agent h 0x98 1 v → v.pokeStatus agent 0x98 (w32 len) = 0 → exec (.agentSealCommit agent h len) s = .next (v.agTaken (if agentGen agent = 3 then v.onAgent agent fun g => { g with verifying := some (w32 len).toNat } else v) agent h 0x98 [(w32 len)] []))
  ∧ (∀ (s : State) (agent : Addr) (h : MgmtHead) (v : State) (value : Word), s.AgentAsks agent h 0xA4 1 v → v.pokeStatus agent 0xA4 value = 0 → exec (.agentTrim agent h value) s = .next (v.agTaken (v.onAgent agent fun g => { g with slew := g.slew + signedField value 0 20 }) agent h 0xA4 [value] []))
  ∧ (∀ (s : State) (agent : Addr) (h : MgmtHead) (v : State) (value : Word), s.AgentAsks agent h 0xA8 1 v → v.pokeStatus agent 0xA8 value = 0 → exec (.agentRate agent h value) s = .next (v.agTaken (v.onAgent agent fun g => g.put 0xA8 value) agent h 0xA8 [value] []))
  ∧ (∀ (s : State) (agent : Addr) (h : MgmtHead) (v : State) (value : Word), s.AgentAsks agent h 0xB4 1 v → v.pokeStatus agent 0xB4 value = 0 → exec (.agentStep agent h value) s = .next (v.agTaken (v.onAgent agent fun g => { g.put 0xB4 value with step := some ((g.word 0xAC).toNat + bitsOf (g.word 0xB0) 0 16 * 2 ^ 32, value.toNat) }) agent h 0xB4 [value] []))
  ∧ (∀ (s : State) (agent : Addr) (h : MgmtHead) (v : State) (value : Word), s.AgentAsks agent h 0x0C 1 v → v.pokeStatus agent 0x0C value = 0 → exec (.agentServe agent h value) s = .next (v.agTaken (v.onAgent agent fun g => { g with serve := bitAt value 0, overflow := g.overflow && !bitAt value 0, reborn := g.reborn && !bitAt value 0 }) agent h 0x0C [value] []))
  ∧ (∀ (s : State) (agent : Addr) (h : MgmtHead) (v : State) (index : Nat) (r : State × List Word), s.AgentAsks agent h 0x74 1 v → r = v.freezeWord agent (fieldAt 0 11 index ||| fieldAt 12 1 1) → exec (.agentFreeze agent h index) s = .next (if v.pokeStatus agent 0x74 (fieldAt 0 11 index ||| fieldAt 12 1 1) = 0 then v.agTaken r.1 agent h 0x74 [(fieldAt 0 11 index ||| fieldAt 12 1 1)] r.2 else v.agAnswered agent h 0x74 1 (v.pokeStatus agent 0x74 (fieldAt 0 11 index ||| fieldAt 12 1 1)) []))
  ∧ (∀ (s : State) (agent : Addr) (h : MgmtHead) (v : State) (index : Nat) (r : State × List Word), s.AgentAsks agent h 0x74 1 v → r = v.freezeWord agent (fieldAt 0 11 index ||| fieldAt 13 1 1) → exec (.agentThaw agent h index) s = .next (if v.pokeStatus agent 0x74 (fieldAt 0 11 index ||| fieldAt 13 1 1) = 0 then v.agTaken r.1 agent h 0x74 [(fieldAt 0 11 index ||| fieldAt 13 1 1)] r.2 else v.agAnswered agent h 0x74 1 (v.pokeStatus agent 0x74 (fieldAt 0 11 index ||| fieldAt 13 1 1)) []))

/-- A read is answered with its words or its STATUS; a broadcast write with allowed addresses is applied and journalled without a reply, else refused and
counted. A paused endpoint, a bank lit at F or held without GO, the guard's end, the check value, the seal's verification, expiry and grace, an
event's resend, drop and acknowledgement, the period change, the reset and the flash boundary each do to the agent what its rule says. -/
def Obligations.AgentEventsRun : Prop :=
  (∀ (s v : State) (agent : Addr) (h : MgmtHead) (addr count : Nat), v = s.agCredits agent h.port 0 (mgmtUnits 0) → h.reserved = false → exec (.agentMgmtRead agent h addr count) s = .next (v.mgmtReply agent h addr (v.agReadAll agent addr count).1 (v.agReadAll agent addr count).2))
  ∧ (∀ (s v : State) (agent : Addr) (h : MgmtHead) (addr : Nat) (words : List Word) (r : Nat × State × List Word), v = s.agCredits agent h.port 0 (mgmtUnits words.length) → h.reserved = false → r = v.agWriteAll agent addr words → exec (.agentBroadcastWrite agent h addr words) s = .next (if r.1 = 0 ∧ (List.range words.length).all (fun i => broadcastOk agent (addr + 4 * i)) = true then r.2.1.journalWrite agent { h with broadcast := true } addr words else v.onAgent agent fun g => g.onPort h.port fun p => { p with refused := p.refused + 1 }))
  ∧ (∀ (s : State) (agent : Addr) (g : Agent), g = s.agent agent → (isSwitch agent = false ∧ g.armed = true ∧ g.armF ≤ g.flash + 1 ∧ g.drainSet.testBit g.slice = true) → exec (.agentPause agent) s = .next (s.onAgent agent fun g => { g with paused := true }))
  ∧ (∀ (s : State) (agent : Addr) (g : Agent), g = s.agent agent → (g.armed = true ∧ g.armF ≤ g.flash ∧ g.hold = false) → g.go = true → exec (.agentBankLight agent) s = .next (s.agLight agent))
  ∧ (∀ (s : State) (agent : Addr) (g : Agent), g = s.agent agent → (g.armed = true ∧ g.armF ≤ g.flash ∧ g.hold = false) → g.go = false → exec (.agentBankLight agent) s = .next (((s.flushDrain agent g.drainSet).onAgent agent fun x => { x with hold := true, paused := x.paused || (!isSwitch agent && g.drainSet.testBit g.slice) }).agentEvent agent 0x04 g.flash (w32 (1 - g.lit)) [loHalf g.armF]))
  ∧ (∀ (s : State) (agent : Addr), (s.agent agent).guard.isSome = true → exec (.drainGuardEnd agent) s = .next ((s.onAgent agent fun g => { g with guard := none }).agResume agent))
  ∧ (∀ (s : State) (agent : Addr) (g : Agent), g = s.agent agent → g.checking = true → exec (.agentCheckValueDone agent) s = .next (s.onAgent agent fun x => { x with checking := false, check := crc64 (s.checkBytes x) }))
  ∧ (∀ (s : State) (agent : Addr) (envelopes : List (List Byte)) (z : State) (len : Nat), (z = s.onAgent agent (fun g => { g with envelopes := g.envelopes ++ envelopes.filter fun e => !g.envelopes.contains e })) → (z.agent agent).verifying = some len → exec (.agentSealVerifyDone agent envelopes) s = .next (if isFa3Endpoint agent then (z.verifySeal agent len).keysNow agent else z.verifySeal agent len))
  ∧ (∀ (s : State) (agent : Addr) (envelopes : List (List Byte)) (z : State), (z = s.onAgent agent (fun g => { g with envelopes := g.envelopes ++ envelopes.filter fun e => !g.envelopes.contains e })) → (z.agent agent).verifying = none → exec (.agentSealVerifyDone agent envelopes) s = .next (if isFa3Endpoint agent then z.keysNow agent else z))
  ∧ (∀ (s : State) (agent : Addr), ((s.agent agent).heldSeal.any (fun x => decide (x.expiry ≤ (s.agent agent).flash)) = true) → exec (.agentSealExpiry agent) s = .next (s.keysNow agent))
  ∧ (∀ (s : State) (agent : Addr), (s.agent agent).heldSeal.any (s.agent agent).pastGrace = true → exec (.agentGraceEnd agent) s = .next (s.keysNow agent))
  ∧ (∀ (s : State) (agent : Addr) (seq : Nat) (e : KeptEvent), ((s.agent agent).events.find? (fun e => e.seq == seq) = some e) → e.sends < 16 → exec (.agentEventResend agent seq) s = .next ((s.onAgent agent fun g => { g with events := g.events.map fun (x : KeptEvent) => if x.seq = seq then { x with sends := x.sends + 1 } else x }).sendEvent agent e))
  ∧ (∀ (s : State) (agent : Addr) (seq : Nat) (e : KeptEvent), ((s.agent agent).events.find? (fun e => e.seq == seq) = some e) → 16 ≤ e.sends → exec (.agentEventResend agent seq) s = .next (s.onAgent agent fun g => { g with events := g.events.filter fun x => x.seq != seq, dropped := satAdd 65535 g.dropped 1 }))
  ∧ (∀ (s : State) (agent : Addr) (port seq : Nat), exec (.agentEventAck agent port seq) s = .next ((s.agCredits agent port 0 (mgmtUnits 0)).onAgent agent fun g => { g with events := g.events.filter fun x => x.seq != seq }))
  ∧ (∀ (s : State) (agent : Addr) (g : Agent) (next : Nat), g = s.agent agent → next = bitsOf (g.word 0x28) 8 7 → (next ≠ 0 ∧ loHalf g.flash = g.word 0x2C) → exec (.agentPeriodChange agent) s = .next (s.onAgent agent fun g => g.put 0x28 (fieldAt 0 7 next)))
  ∧ (∀ (s : State) (agent : Addr) (cause : Nat) (z : State), (z = (s.agent agent).released.foldl (fun s e => s.send (.chip agent (.withdrawKey (envelopeLabel e)))) s) → exec (.agentReset agent cause) s = .next ((({ z with agents := z.agents.map fun (g : Agent) => g.forget agent (z.agent agent).en }).onAgent agent fun _ => { Agent.fresh agent with cause := cause % 16, reborn := true, resetOwed := true }).agOwed agent))
  ∧ (∀ (s : State) (agent : Addr) (ports : List AgPortMeas), exec (.agentFlashBoundary agent ports) s = .next (s.agBoundary agent ports))

/-- AGENT_LAUNCH starts a launch at an open slot, queues it behind one that runs and holds the chip, or writes NOT_LIVE at a slot that is not enabled.
AGENT_TILE_DONE counts the tile and fires entries due, or keeps it for the queued launch. AGENT_LANTERN_DEADLINE sends the contribution again or
completes with TIMEOUT. A packet at an endpoint in SERVE goes by its OPKIND to the time answer, the window, the chip, the slot or the Lantern; at a
switch in SERVE it is forwarded, intercepted or discarded by its checks, its credits returned. -/
def Obligations.EndpointAndSwitchRun : Prop :=
  (∀ (s : State) (agent : Addr) (slot : Nat) (v : SlotView) (x : AgSlot), (v = (s.agent agent).slotView slot ∧ x = (s.agent agent).slotRec slot) → ((s.agent agent).serve = true ∧ v.isOpen = true) → (x.queued = false ∧ x.running = false ∧ x.frozen = false) → exec (.agentLaunch agent slot) s = .next ((s.startLaunch agent slot 0).tryComplete agent slot))
  ∧ (∀ (s : State) (agent : Addr) (slot : Nat) (v : SlotView) (x : AgSlot), (v = (s.agent agent).slotView slot ∧ x = (s.agent agent).slotRec slot) → ((s.agent agent).serve = true ∧ v.isOpen = true) → (x.queued = false ∧ (x.running = true ∨ x.frozen = true)) → exec (.agentLaunch agent slot) s = .next ((s.onAgSlot agent slot fun y => { y with queued := true, pendingTiles := 0 }).send (.chip agent (.hold slot true))))
  ∧ (∀ (s : State) (agent : Addr) (slot : Nat) (v : SlotView) (x : AgSlot), (v = (s.agent agent).slotView slot ∧ x = (s.agent agent).slotRec slot) → ((s.agent agent).serve = false ∨ v.isOpen = false) → exec (.agentLaunch agent slot) s = .next (s.fresh.2.completion agent v 0x11 (bitsOf s.fresh.1 0 16) []))
  ∧ (∀ (s : State) (agent : Addr) (slot : Nat) (v : SlotView) (x : AgSlot), (v = (s.agent agent).slotView slot ∧ x = (s.agent agent).slotRec slot) → (x.queued = true ∧ (x.running = false ∨ v.entries ≤ x.next)) → exec (.agentTileDone agent slot) s = .next (s.onAgSlot agent slot fun y => { y with pendingTiles := y.pendingTiles + 1 }))
  ∧ (∀ (s : State) (agent : Addr) (slot : Nat) (v : SlotView) (x : AgSlot), (v = (s.agent agent).slotView slot ∧ x = (s.agent agent).slotRec slot) → (x.running = true ∧ (x.queued = false ∨ x.next < v.entries)) → exec (.agentTileDone agent slot) s = .next (((s.onAgSlot agent slot fun y => { y with counter := y.counter + 1 }).fire agent slot).tryComplete agent slot))
  ∧ (∀ (s : State) (agent : Addr) (slot : Nat) (v : SlotView) (x : AgSlot) (n : Nat), (v = (s.agent agent).slotView slot ∧ x = (s.agent agent).slotRec slot) → (x.attempt = some n ∧ x.running = true ∧ x.frozen = false ∧ x.released = false) → n + 1 < (s.agent agent).retryLimit → exec (.agentLanternDeadline agent slot) s = .next ((s.sendContrib agent v x.launch (n + 1)).onAgSlot agent slot fun y => { y with attempt := some (n + 1) }))
  ∧ (∀ (s : State) (agent : Addr) (slot : Nat) (v : SlotView) (x : AgSlot) (n : Nat), (v = (s.agent agent).slotView slot ∧ x = (s.agent agent).slotRec slot) → (x.attempt = some n ∧ x.running = true ∧ x.frozen = false ∧ x.released = false) → (s.agent agent).retryLimit ≤ n + 1 → exec (.agentLanternDeadline agent slot) s = .next (((s.completion agent v 0x12 x.launch x.overs).onAgSlot agent slot fun y => { y with running := false, done := y.launch, attempt := none }).startQueued agent slot))
  ∧ (∀ (s : State) (agent : Addr) (port : Nat) (p : Packet) (z : State), headerRefusal false p.hdr = 0 → z = s.agReturn agent port p.hdr → ((s.agent agent).sliceOk p.hdr = true ∧ ((s.agent agent).serve = true ∨ p.hdr.amode = true)) → p.hdr.opkind.toNat = 0x06 → exec (.endpointPacketArrival agent port p) s = .next (z.agTimeReply agent port p))
  ∧ (∀ (s : State) (agent : Addr) (port : Nat) (p : Packet) (z : State), headerRefusal false p.hdr = 0 → z = s.agReturn agent port p.hdr → ((s.agent agent).sliceOk p.hdr = true ∧ ((s.agent agent).serve = true ∨ p.hdr.amode = true)) → p.hdr.opkind.toNat = 0x13 → exec (.endpointPacketArrival agent port p) s = .next (z.endpointAck agent port p.hdr p.payload))
  ∧ (∀ (s : State) (agent : Addr) (port : Nat) (p : Packet) (z : State), headerRefusal false p.hdr = 0 → z = s.agReturn agent port p.hdr → ((s.agent agent).sliceOk p.hdr = true ∧ ((s.agent agent).serve = true ∨ p.hdr.amode = true)) → ((p.hdr.opkind.toNat = 0x10 ∨ p.hdr.opkind.toNat = 0x11 ∨ p.hdr.opkind.toNat = 0x12)) → exec (.endpointPacketArrival agent port p) s = .next (z.endpointBulk agent port p))
  ∧ (∀ (s : State) (agent : Addr) (port : Nat) (p : Packet) (z : State), headerRefusal false p.hdr = 0 → z = s.agReturn agent port p.hdr → ((s.agent agent).sliceOk p.hdr = true ∧ ((s.agent agent).serve = true ∨ p.hdr.amode = true)) → ((p.hdr.opkind.toNat = 0x20 ∨ p.hdr.opkind.toNat = 0x21 ∨ p.hdr.opkind.toNat = 0x22 ∨ p.hdr.opkind.toNat = 0x23 ∨ p.hdr.opkind.toNat = 0x24)) → exec (.endpointPacketArrival agent port p) s = .next (z.endpointColl agent port p))
  ∧ (∀ (s : State) (agent : Addr) (port : Nat) (p : Packet) (z : State), headerRefusal false p.hdr = 0 → z = s.agReturn agent port p.hdr → ((s.agent agent).sliceOk p.hdr = true ∧ ((s.agent agent).serve = true ∨ p.hdr.amode = true)) → p.hdr.opkind.toNat = 0x31 → exec (.endpointPacketArrival agent port p) s = .next (z.endpointLantern agent p))
  ∧ (∀ (s : State) (agent : Addr) (port : Nat) (p : Packet), headerRefusal false p.hdr ≠ 0 → p.hdr.opkind.toNat ≠ 1 → exec (.endpointPacketArrival agent port p) s = .next ((s.agReturn agent port p.hdr).agMalformed agent))
  ∧ (∀ (s : State) (agent : Addr) (port : Nat) (p : Packet) (z : State), headerRefusal false p.hdr = 0 → z = s.agReturn agent port p.hdr → (p.hdr.slice.toNat ≠ (s.agent agent).slice ∧ p.hdr.vc ≠ 0) → ((s.agent agent).serve = true ∧ 0x10 ≤ p.hdr.opkind.toNat ∧ p.hdr.opkind.toNat ≤ 0x12) → exec (.endpointPacketArrival agent port p) s = .next (if agentGen agent = 3 then z.onAgent agent fun g => g.onPort port fun p => { p with mismatch := p.mismatch + 1 } else z.endpointBulk agent port p))
  ∧ (∀ (s : State) (agent : Addr) (port : Nat) (p : Packet) (fault : Nat) (g : Agent), g = s.agent agent → (headerRefusal false p.hdr = 0 ∧ p.hdr.opkind ≠ 1) → (g.serve = false ∧ p.hdr.amode = false) → exec (.switchPacketIngress agent port p fault) s = .next (s.agDiscard agent port p.hdr .unroute))
  ∧ (∀ (s : State) (agent : Addr) (port : Nat) (p : Packet) (fault : Nat) (g : Agent), g = s.agent agent → (headerRefusal false p.hdr = 0 ∧ p.hdr.opkind ≠ 1) → (g.serve = true ∨ p.hdr.amode = true) → g.ingressOk port p.hdr = false → exec (.switchPacketIngress agent port p fault) s = .next (s.agDiscard agent port p.hdr .source))
  ∧ (∀ (s : State) (agent : Addr) (port : Nat) (p : Packet) (fault : Nat) (g : Agent), g = s.agent agent → (headerRefusal false p.hdr = 0 ∧ p.hdr.opkind ≠ 1) → (g.serve = true ∨ p.hdr.amode = true) → g.ingressOk port p.hdr = true → g.inGuard p.hdr = true → exec (.switchPacketIngress agent port p fault) s = .next ((s.agReturn agent port p.hdr).countReg Reg.SLV_DRAIN_DISCARD 1))
  ∧ (∀ (s : State) (agent : Addr) (port : Nat) (p : Packet) (fault : Nat) (g : Agent), g = s.agent agent → (headerRefusal false p.hdr = 0 ∧ p.hdr.opkind ≠ 1) → g.ingressOk port p.hdr = true → g.inGuard p.hdr = false → p.hdr.amode = true → exec (.switchPacketIngress agent port p fault) s = .next (s.forwardCoord agent port p fault))
  ∧ (∀ (s : State) (agent : Addr) (port : Nat) (p : Packet) (fault : Nat) (g : Agent), g = s.agent agent → (headerRefusal false p.hdr = 0 ∧ p.hdr.opkind ≠ 1) → g.ingressOk port p.hdr = true → g.inGuard p.hdr = false → (g.serve = true ∧ p.hdr.amode = false) → exec (.switchPacketIngress agent port p fault) s = .next (s.switchEn agent port p fault))
end

