-- ==== Sys2Proof/Laws/Lists.lean ====
section
/-! SUPPORT. Laws/Lists.lean: the association lists and list updates of Word.lean. -/
namespace Sys2Proof

theorem lookupNat_insertNat {α : Type} (k j : Nat) (v : α) (l : List (Nat × α)) :
    lookupNat j (insertNat k v l) = if k = j then some v else lookupNat j l := by
  induction l with
  | nil => simp [insertNat, lookupNat]
  | cons x l ih =>
    obtain ⟨k', v'⟩ := x
    simp only [insertNat]
    split
    · simp [lookupNat]
    · split
      · subst_vars; simp only [lookupNat]; split <;> simp_all
      · simp only [lookupNat, ih]; split <;> simp_all

theorem lookupNat_eraseNat {α : Type} (k j : Nat) (l : List (Nat × α)) :
    lookupNat j (eraseNat k l) = if k = j then none else lookupNat j l := by
  induction l with
  | nil => simp [eraseNat, lookupNat]
  | cons x l ih =>
    obtain ⟨k', v'⟩ := x
    simp only [eraseNat]
    split
    · simp only [lookupNat, ih]; split <;> simp_all
    · simp only [lookupNat, ih]; split <;> simp_all; omega

/-- Every entry of an erased list is an entry of the list. -/
theorem mem_of_mem_eraseNat {α : Type} {k : Nat} {l : List (Nat × α)} {x : Nat × α} (h : x ∈ eraseNat k l) : x ∈ l := by
  induction l with
  | nil => exact h
  | cons y l ih =>
    simp only [eraseNat] at h
    split at h
    · exact List.mem_cons_of_mem _ (ih h)
    · rcases List.mem_cons.mp h with h | h
      · exact h ▸ List.mem_cons_self
      · exact List.mem_cons_of_mem _ (ih h)

/-- An entry of a list with one written is that one, or an entry of the list. -/
theorem mem_insertNat {α : Type} {k : Nat} {v : α} {l : List (Nat × α)} {x : Nat × α} (h : x ∈ insertNat k v l) :
    x = (k, v) ∨ x ∈ l := by
  induction l with
  | nil => simpa [insertNat] using h
  | cons y l ih =>
    simp only [insertNat] at h
    split at h
    · simpa using h
    · split at h
      · rcases List.mem_cons.mp h with h | h
        · exact .inl h
        · exact .inr (List.mem_cons_of_mem _ h)
      · rcases List.mem_cons.mp h with h | h
        · exact .inr (h ▸ List.mem_cons_self)
        · exact (ih h).imp id (List.mem_cons_of_mem _)

/-- Rising keys. -/
abbrev Rising {α : Type} (l : List (Nat × α)) : Prop := l.Pairwise fun x y => x.1 < y.1

theorem Rising.eraseNat {α : Type} {k : Nat} {l : List (Nat × α)} (h : Rising l) : Rising (Sys2Proof.eraseNat k l) := by
  induction l with
  | nil => exact h
  | cons x l ih =>
    have h' := List.pairwise_cons.mp h
    simp only [Sys2Proof.eraseNat]
    split
    · exact ih h'.2
    · exact List.pairwise_cons.mpr ⟨fun y hy => h'.1 y (mem_of_mem_eraseNat hy), ih h'.2⟩

theorem Rising.insertNat {α : Type} {k : Nat} {v : α} {l : List (Nat × α)} (h : Rising l) : Rising (Sys2Proof.insertNat k v l) := by
  induction l with
  | nil => simp [Sys2Proof.insertNat, Rising]
  | cons x l ih =>
    have h' := List.pairwise_cons.mp h
    simp only [Sys2Proof.insertNat]
    split
    · refine List.pairwise_cons.mpr ⟨fun y hy => ?_, h⟩
      rcases List.mem_cons.mp hy with rfl | hy
      · assumption
      · exact Nat.lt_trans ‹_› (h'.1 y hy)
    · split
      · subst_vars; exact List.pairwise_cons.mpr ⟨h'.1, h'.2⟩
      · refine List.pairwise_cons.mpr ⟨fun y hy => ?_, ih h'.2⟩
        rcases mem_insertNat hy with rfl | hy
        · simp only; omega
        · exact h'.1 y hy

@[simp] theorem length_modifyAt {α : Type} (f : α → α) (n : Nat) (l : List α) : (modifyAt f n l).length = l.length := by
  induction l generalizing n with
  | nil => cases n <;> rfl
  | cons x l ih => cases n <;> simp [modifyAt, ih]

theorem getElem?_modifyAt {α : Type} (f : α → α) (n m : Nat) (l : List α) :
    (modifyAt f n l)[m]? = if n = m then l[m]?.map f else l[m]? := by
  induction l generalizing n m with
  | nil => cases n <;> simp [modifyAt]
  | cons x l ih =>
    cases n <;> cases m <;> simp [modifyAt, ih]

end Sys2Proof
end

