-- ==== Sys2Proof/Laws/Kept.lean ====
section
/-! SUPPORT. Laws/Kept.lean: what an operation may change, as one property of the state after it, and the ways this property passes through the
shapes that the meanings are written in. Each operation has one lemma, in the files Laws/Kept*.lean, that says which parts it may change. -/
namespace Sys2Proof.Machine

/-- A state t that differs from o only in the parts whose bits F names: bits 0 to 20 the records in the order below, bits 32 to 63 the
registers of the blocks 0 to 31. -/
structure State.SameBut (F : Nat) (o t : State) : Prop where
  regs : ∀ off, F.testBit (32 + regBlock off) = false → t.getReg off = o.getReg off
  outbox : F.testBit 0 = false → t.outbox = o.outbox
  freeCtr : F.testBit 1 = false → t.freeCtr = o.freeCtr
  tim : F.testBit 2 = false → t.tim = o.tim
  hif : F.testBit 3 = false → t.hif = o.hif
  work : F.testBit 4 = false → t.work = o.work
  chart : F.testBit 5 = false → t.chart = o.chart
  link : F.testBit 6 = false → t.link = o.link
  mgmt : F.testBit 7 = false → t.mgmt = o.mgmt
  slv : F.testBit 8 = false → t.slv = o.slv
  slc : F.testBit 9 = false → t.slc = o.slc
  clp : F.testBit 10 = false → t.clp = o.clp
  lmp : F.testBit 11 = false → t.lmp = o.lmp
  lnt : F.testBit 12 = false → t.lnt = o.lnt
  mor : F.testBit 13 = false → t.mor = o.mor
  rst : F.testBit 14 = false → t.rst = o.rst
  pwr : F.testBit 15 = false → t.pwr = o.pwr
  wdn : F.testBit 16 = false → t.wdn = o.wdn
  log : F.testBit 17 = false → t.log = o.log
  tel : F.testBit 18 = false → t.tel = o.tel
  agents : F.testBit 19 = false → t.agents = o.agents
  hbm : F.testBit 20 = false → t.hbm = o.hbm

/-- The queue is qu, the invariant holds if it held in o, and only the parts that F names differ from o. -/
structure State.Kept (qu : List Instr) (F : Nat) (o t : State) : Prop where
  queue : t.pending = qu
  inv : o.Inv → t.Inv
  same : State.SameBut F o t

/-- An outcome that is a next state with these properties. -/
def Runs (qu : List Instr) (F : Nat) (o : State) (r : Host.Outcome State Fault Refusal) : Prop := ∃ t, r = .next t ∧ State.Kept qu F o t

theorem State.SameBut.refl (F : Nat) (o : State) : State.SameBut F o o := by
  constructor <;> intros <;> rfl

/-- A state keeps its own queue and parts. -/
theorem State.Kept.refl (F : Nat) (o : State) : State.Kept o.pending F o o := ⟨rfl, id, .refl F o⟩

theorem bit_of {m F k : Nat} (h : m ||| F = F) (hk : m.testBit k = true) : F.testBit k = true := by
  rw [← h, Nat.testBit_or, hk, Bool.true_or]

theorem sub_of {c m F : Nat} (h : m ||| F = F) (hc : c ||| m = m) : c ||| F = F := by
  rw [← h, ← Nat.or_assoc, hc]

/-- All the register blocks. -/
abbrev allBlocks : Nat := 0xFFFFFFFF00000000

theorem allBlocks_bit (off : Nat) : allBlocks.testBit (32 + regBlock off) = true := by
  have h : regBlock off ≤ 31 := Nat.min_le_right _ _
  generalize regBlock off = b at h
  interval_cases b <;> rfl

theorem bit_all {m F off : Nat} (h : m ||| F = F) (hm : allBlocks ||| m = m) : F.testBit (32 + regBlock off) = true :=
  bit_of (sub_of h hm) (allBlocks_bit off)

theorem bit_blk {m F off b : Nat} (h : m ||| F = F) (hm : m.testBit (32 + b) = true) (hb : regBlock off = b) :
    F.testBit (32 + regBlock off) = true := by
  rw [hb]
  exact bit_of h hm

theorem runs_next {qu : List Instr} {F : Nat} {o t : State} (h : State.Kept qu F o t) : Runs qu F o (.next t) := ⟨t, rfl, h⟩

/-! ### Changes of one record -/

theorem State.kept_outbox {qu : List Instr} {F : Nat} {o s : State} {ob : List Out} (hF : F.testBit 0 = true) (hk : State.Kept qu F o s) :
    State.Kept qu F o (.mk s.pending ob s.freeCtr s.regs s.tim s.hif s.work s.chart s.link s.mgmt s.slv s.slc s.clp s.lmp s.hbm s.lnt s.mor s.rst s.pwr s.wdn s.log s.tel s.agents) :=
  ⟨hk.queue, hk.inv, ⟨hk.same.regs, fun h => absurd (h.symm.trans hF) Bool.false_ne_true, hk.same.freeCtr, hk.same.tim, hk.same.hif, hk.same.work, hk.same.chart, hk.same.link, hk.same.mgmt, hk.same.slv, hk.same.slc, hk.same.clp, hk.same.lmp, hk.same.lnt, hk.same.mor, hk.same.rst, hk.same.pwr, hk.same.wdn, hk.same.log, hk.same.tel, hk.same.agents, hk.same.hbm⟩⟩

theorem State.kept_freeCtr {qu : List Instr} {F : Nat} {o s : State} {fc : Nat} (hF : F.testBit 1 = true) (hk : State.Kept qu F o s) :
    State.Kept qu F o (.mk s.pending s.outbox fc s.regs s.tim s.hif s.work s.chart s.link s.mgmt s.slv s.slc s.clp s.lmp s.hbm s.lnt s.mor s.rst s.pwr s.wdn s.log s.tel s.agents) :=
  ⟨hk.queue, hk.inv, ⟨hk.same.regs, hk.same.outbox, fun h => absurd (h.symm.trans hF) Bool.false_ne_true, hk.same.tim, hk.same.hif, hk.same.work, hk.same.chart, hk.same.link, hk.same.mgmt, hk.same.slv, hk.same.slc, hk.same.clp, hk.same.lmp, hk.same.lnt, hk.same.mor, hk.same.rst, hk.same.pwr, hk.same.wdn, hk.same.log, hk.same.tel, hk.same.agents, hk.same.hbm⟩⟩

theorem State.kept_tim {qu : List Instr} {F : Nat} {o s : State} {ti : TimState} (hF : F.testBit 2 = true) (hk : State.Kept qu F o s) :
    State.Kept qu F o (.mk s.pending s.outbox s.freeCtr s.regs ti s.hif s.work s.chart s.link s.mgmt s.slv s.slc s.clp s.lmp s.hbm s.lnt s.mor s.rst s.pwr s.wdn s.log s.tel s.agents) :=
  ⟨hk.queue, hk.inv, ⟨hk.same.regs, hk.same.outbox, hk.same.freeCtr, fun h => absurd (h.symm.trans hF) Bool.false_ne_true, hk.same.hif, hk.same.work, hk.same.chart, hk.same.link, hk.same.mgmt, hk.same.slv, hk.same.slc, hk.same.clp, hk.same.lmp, hk.same.lnt, hk.same.mor, hk.same.rst, hk.same.pwr, hk.same.wdn, hk.same.log, hk.same.tel, hk.same.agents, hk.same.hbm⟩⟩

theorem State.kept_hif {qu : List Instr} {F : Nat} {o s : State} {hf : Hif} (hF : F.testBit 3 = true) (hk : State.Kept qu F o s) (hw : hf.windows.length = s.hif.windows.length) :
    State.Kept qu F o (.mk s.pending s.outbox s.freeCtr s.regs s.tim hf s.work s.chart s.link s.mgmt s.slv s.slc s.clp s.lmp s.hbm s.lnt s.mor s.rst s.pwr s.wdn s.log s.tel s.agents) :=
  ⟨hk.queue, fun ho => ⟨(hk.inv ho).1, (hk.inv ho).2.1, hw.trans (hk.inv ho).2.2⟩, ⟨hk.same.regs, hk.same.outbox, hk.same.freeCtr, hk.same.tim, fun h => absurd (h.symm.trans hF) Bool.false_ne_true, hk.same.work, hk.same.chart, hk.same.link, hk.same.mgmt, hk.same.slv, hk.same.slc, hk.same.clp, hk.same.lmp, hk.same.lnt, hk.same.mor, hk.same.rst, hk.same.pwr, hk.same.wdn, hk.same.log, hk.same.tel, hk.same.agents, hk.same.hbm⟩⟩

theorem State.kept_work {qu : List Instr} {F : Nat} {o s : State} {wo : Work} (hF : F.testBit 4 = true) (hk : State.Kept qu F o s) :
    State.Kept qu F o (.mk s.pending s.outbox s.freeCtr s.regs s.tim s.hif wo s.chart s.link s.mgmt s.slv s.slc s.clp s.lmp s.hbm s.lnt s.mor s.rst s.pwr s.wdn s.log s.tel s.agents) :=
  ⟨hk.queue, hk.inv, ⟨hk.same.regs, hk.same.outbox, hk.same.freeCtr, hk.same.tim, hk.same.hif, fun h => absurd (h.symm.trans hF) Bool.false_ne_true, hk.same.chart, hk.same.link, hk.same.mgmt, hk.same.slv, hk.same.slc, hk.same.clp, hk.same.lmp, hk.same.lnt, hk.same.mor, hk.same.rst, hk.same.pwr, hk.same.wdn, hk.same.log, hk.same.tel, hk.same.agents, hk.same.hbm⟩⟩

theorem State.kept_chart {qu : List Instr} {F : Nat} {o s : State} {ch : ChartState} (hF : F.testBit 5 = true) (hk : State.Kept qu F o s) :
    State.Kept qu F o (.mk s.pending s.outbox s.freeCtr s.regs s.tim s.hif s.work ch s.link s.mgmt s.slv s.slc s.clp s.lmp s.hbm s.lnt s.mor s.rst s.pwr s.wdn s.log s.tel s.agents) :=
  ⟨hk.queue, hk.inv, ⟨hk.same.regs, hk.same.outbox, hk.same.freeCtr, hk.same.tim, hk.same.hif, hk.same.work, fun h => absurd (h.symm.trans hF) Bool.false_ne_true, hk.same.link, hk.same.mgmt, hk.same.slv, hk.same.slc, hk.same.clp, hk.same.lmp, hk.same.lnt, hk.same.mor, hk.same.rst, hk.same.pwr, hk.same.wdn, hk.same.log, hk.same.tel, hk.same.agents, hk.same.hbm⟩⟩

theorem State.kept_link {qu : List Instr} {F : Nat} {o s : State} {li : LinkState} (hF : F.testBit 6 = true) (hk : State.Kept qu F o s) :
    State.Kept qu F o (.mk s.pending s.outbox s.freeCtr s.regs s.tim s.hif s.work s.chart li s.mgmt s.slv s.slc s.clp s.lmp s.hbm s.lnt s.mor s.rst s.pwr s.wdn s.log s.tel s.agents) :=
  ⟨hk.queue, hk.inv, ⟨hk.same.regs, hk.same.outbox, hk.same.freeCtr, hk.same.tim, hk.same.hif, hk.same.work, hk.same.chart, fun h => absurd (h.symm.trans hF) Bool.false_ne_true, hk.same.mgmt, hk.same.slv, hk.same.slc, hk.same.clp, hk.same.lmp, hk.same.lnt, hk.same.mor, hk.same.rst, hk.same.pwr, hk.same.wdn, hk.same.log, hk.same.tel, hk.same.agents, hk.same.hbm⟩⟩

theorem State.kept_mgmt {qu : List Instr} {F : Nat} {o s : State} {mg : MgmtState} (hF : F.testBit 7 = true) (hk : State.Kept qu F o s) :
    State.Kept qu F o (.mk s.pending s.outbox s.freeCtr s.regs s.tim s.hif s.work s.chart s.link mg s.slv s.slc s.clp s.lmp s.hbm s.lnt s.mor s.rst s.pwr s.wdn s.log s.tel s.agents) :=
  ⟨hk.queue, hk.inv, ⟨hk.same.regs, hk.same.outbox, hk.same.freeCtr, hk.same.tim, hk.same.hif, hk.same.work, hk.same.chart, hk.same.link, fun h => absurd (h.symm.trans hF) Bool.false_ne_true, hk.same.slv, hk.same.slc, hk.same.clp, hk.same.lmp, hk.same.lnt, hk.same.mor, hk.same.rst, hk.same.pwr, hk.same.wdn, hk.same.log, hk.same.tel, hk.same.agents, hk.same.hbm⟩⟩

theorem State.kept_slv {qu : List Instr} {F : Nat} {o s : State} {sv : SlvState} (hF : F.testBit 8 = true) (hk : State.Kept qu F o s) :
    State.Kept qu F o (.mk s.pending s.outbox s.freeCtr s.regs s.tim s.hif s.work s.chart s.link s.mgmt sv s.slc s.clp s.lmp s.hbm s.lnt s.mor s.rst s.pwr s.wdn s.log s.tel s.agents) :=
  ⟨hk.queue, hk.inv, ⟨hk.same.regs, hk.same.outbox, hk.same.freeCtr, hk.same.tim, hk.same.hif, hk.same.work, hk.same.chart, hk.same.link, hk.same.mgmt, fun h => absurd (h.symm.trans hF) Bool.false_ne_true, hk.same.slc, hk.same.clp, hk.same.lmp, hk.same.lnt, hk.same.mor, hk.same.rst, hk.same.pwr, hk.same.wdn, hk.same.log, hk.same.tel, hk.same.agents, hk.same.hbm⟩⟩

theorem State.kept_slc {qu : List Instr} {F : Nat} {o s : State} {sl : SliceState} (hF : F.testBit 9 = true) (hk : State.Kept qu F o s) :
    State.Kept qu F o (.mk s.pending s.outbox s.freeCtr s.regs s.tim s.hif s.work s.chart s.link s.mgmt s.slv sl s.clp s.lmp s.hbm s.lnt s.mor s.rst s.pwr s.wdn s.log s.tel s.agents) :=
  ⟨hk.queue, hk.inv, ⟨hk.same.regs, hk.same.outbox, hk.same.freeCtr, hk.same.tim, hk.same.hif, hk.same.work, hk.same.chart, hk.same.link, hk.same.mgmt, hk.same.slv, fun h => absurd (h.symm.trans hF) Bool.false_ne_true, hk.same.clp, hk.same.lmp, hk.same.lnt, hk.same.mor, hk.same.rst, hk.same.pwr, hk.same.wdn, hk.same.log, hk.same.tel, hk.same.agents, hk.same.hbm⟩⟩

theorem State.kept_clp {qu : List Instr} {F : Nat} {o s : State} {cl : ClpState} (hF : F.testBit 10 = true) (hk : State.Kept qu F o s) :
    State.Kept qu F o (.mk s.pending s.outbox s.freeCtr s.regs s.tim s.hif s.work s.chart s.link s.mgmt s.slv s.slc cl s.lmp s.hbm s.lnt s.mor s.rst s.pwr s.wdn s.log s.tel s.agents) :=
  ⟨hk.queue, hk.inv, ⟨hk.same.regs, hk.same.outbox, hk.same.freeCtr, hk.same.tim, hk.same.hif, hk.same.work, hk.same.chart, hk.same.link, hk.same.mgmt, hk.same.slv, hk.same.slc, fun h => absurd (h.symm.trans hF) Bool.false_ne_true, hk.same.lmp, hk.same.lnt, hk.same.mor, hk.same.rst, hk.same.pwr, hk.same.wdn, hk.same.log, hk.same.tel, hk.same.agents, hk.same.hbm⟩⟩

theorem State.kept_lmp {qu : List Instr} {F : Nat} {o s : State} {lm : LmpState} (hF : F.testBit 11 = true) (hk : State.Kept qu F o s) :
    State.Kept qu F o (.mk s.pending s.outbox s.freeCtr s.regs s.tim s.hif s.work s.chart s.link s.mgmt s.slv s.slc s.clp lm s.hbm s.lnt s.mor s.rst s.pwr s.wdn s.log s.tel s.agents) :=
  ⟨hk.queue, hk.inv, ⟨hk.same.regs, hk.same.outbox, hk.same.freeCtr, hk.same.tim, hk.same.hif, hk.same.work, hk.same.chart, hk.same.link, hk.same.mgmt, hk.same.slv, hk.same.slc, hk.same.clp, fun h => absurd (h.symm.trans hF) Bool.false_ne_true, hk.same.lnt, hk.same.mor, hk.same.rst, hk.same.pwr, hk.same.wdn, hk.same.log, hk.same.tel, hk.same.agents, hk.same.hbm⟩⟩

theorem State.kept_lnt {qu : List Instr} {F : Nat} {o s : State} {ln : LntState} (hF : F.testBit 12 = true) (hk : State.Kept qu F o s) :
    State.Kept qu F o (.mk s.pending s.outbox s.freeCtr s.regs s.tim s.hif s.work s.chart s.link s.mgmt s.slv s.slc s.clp s.lmp s.hbm ln s.mor s.rst s.pwr s.wdn s.log s.tel s.agents) :=
  ⟨hk.queue, hk.inv, ⟨hk.same.regs, hk.same.outbox, hk.same.freeCtr, hk.same.tim, hk.same.hif, hk.same.work, hk.same.chart, hk.same.link, hk.same.mgmt, hk.same.slv, hk.same.slc, hk.same.clp, hk.same.lmp, fun h => absurd (h.symm.trans hF) Bool.false_ne_true, hk.same.mor, hk.same.rst, hk.same.pwr, hk.same.wdn, hk.same.log, hk.same.tel, hk.same.agents, hk.same.hbm⟩⟩

theorem State.kept_mor {qu : List Instr} {F : Nat} {o s : State} {mo : MorState} (hF : F.testBit 13 = true) (hk : State.Kept qu F o s) (hl : mo.lit = s.mor.lit) (hg : mo.grant = s.mor.grant) :
    State.Kept qu F o (.mk s.pending s.outbox s.freeCtr s.regs s.tim s.hif s.work s.chart s.link s.mgmt s.slv s.slc s.clp s.lmp s.hbm s.lnt mo s.rst s.pwr s.wdn s.log s.tel s.agents) :=
  ⟨hk.queue, fun ho => ⟨(hk.inv ho).1, fun h => hg.trans ((hk.inv ho).2.1 (hl.symm.trans h)), (hk.inv ho).2.2⟩, ⟨hk.same.regs, hk.same.outbox, hk.same.freeCtr, hk.same.tim, hk.same.hif, hk.same.work, hk.same.chart, hk.same.link, hk.same.mgmt, hk.same.slv, hk.same.slc, hk.same.clp, hk.same.lmp, hk.same.lnt, fun h => absurd (h.symm.trans hF) Bool.false_ne_true, hk.same.rst, hk.same.pwr, hk.same.wdn, hk.same.log, hk.same.tel, hk.same.agents, hk.same.hbm⟩⟩

theorem State.kept_rst {qu : List Instr} {F : Nat} {o s : State} {rs : RstState} (hF : F.testBit 14 = true) (hk : State.Kept qu F o s) :
    State.Kept qu F o (.mk s.pending s.outbox s.freeCtr s.regs s.tim s.hif s.work s.chart s.link s.mgmt s.slv s.slc s.clp s.lmp s.hbm s.lnt s.mor rs s.pwr s.wdn s.log s.tel s.agents) :=
  ⟨hk.queue, hk.inv, ⟨hk.same.regs, hk.same.outbox, hk.same.freeCtr, hk.same.tim, hk.same.hif, hk.same.work, hk.same.chart, hk.same.link, hk.same.mgmt, hk.same.slv, hk.same.slc, hk.same.clp, hk.same.lmp, hk.same.lnt, hk.same.mor, fun h => absurd (h.symm.trans hF) Bool.false_ne_true, hk.same.pwr, hk.same.wdn, hk.same.log, hk.same.tel, hk.same.agents, hk.same.hbm⟩⟩

theorem State.kept_pwr {qu : List Instr} {F : Nat} {o s : State} {pw : PwrState} (hF : F.testBit 15 = true) (hk : State.Kept qu F o s) :
    State.Kept qu F o (.mk s.pending s.outbox s.freeCtr s.regs s.tim s.hif s.work s.chart s.link s.mgmt s.slv s.slc s.clp s.lmp s.hbm s.lnt s.mor s.rst pw s.wdn s.log s.tel s.agents) :=
  ⟨hk.queue, hk.inv, ⟨hk.same.regs, hk.same.outbox, hk.same.freeCtr, hk.same.tim, hk.same.hif, hk.same.work, hk.same.chart, hk.same.link, hk.same.mgmt, hk.same.slv, hk.same.slc, hk.same.clp, hk.same.lmp, hk.same.lnt, hk.same.mor, hk.same.rst, fun h => absurd (h.symm.trans hF) Bool.false_ne_true, hk.same.wdn, hk.same.log, hk.same.tel, hk.same.agents, hk.same.hbm⟩⟩

theorem State.kept_wdn {qu : List Instr} {F : Nat} {o s : State} {wd : WdnState} (hF : F.testBit 16 = true) (hk : State.Kept qu F o s) :
    State.Kept qu F o (.mk s.pending s.outbox s.freeCtr s.regs s.tim s.hif s.work s.chart s.link s.mgmt s.slv s.slc s.clp s.lmp s.hbm s.lnt s.mor s.rst s.pwr wd s.log s.tel s.agents) :=
  ⟨hk.queue, hk.inv, ⟨hk.same.regs, hk.same.outbox, hk.same.freeCtr, hk.same.tim, hk.same.hif, hk.same.work, hk.same.chart, hk.same.link, hk.same.mgmt, hk.same.slv, hk.same.slc, hk.same.clp, hk.same.lmp, hk.same.lnt, hk.same.mor, hk.same.rst, hk.same.pwr, fun h => absurd (h.symm.trans hF) Bool.false_ne_true, hk.same.log, hk.same.tel, hk.same.agents, hk.same.hbm⟩⟩

theorem State.kept_log {qu : List Instr} {F : Nat} {o s : State} {lo : LogState} (hF : F.testBit 17 = true) (hk : State.Kept qu F o s) :
    State.Kept qu F o (.mk s.pending s.outbox s.freeCtr s.regs s.tim s.hif s.work s.chart s.link s.mgmt s.slv s.slc s.clp s.lmp s.hbm s.lnt s.mor s.rst s.pwr s.wdn lo s.tel s.agents) :=
  ⟨hk.queue, hk.inv, ⟨hk.same.regs, hk.same.outbox, hk.same.freeCtr, hk.same.tim, hk.same.hif, hk.same.work, hk.same.chart, hk.same.link, hk.same.mgmt, hk.same.slv, hk.same.slc, hk.same.clp, hk.same.lmp, hk.same.lnt, hk.same.mor, hk.same.rst, hk.same.pwr, hk.same.wdn, fun h => absurd (h.symm.trans hF) Bool.false_ne_true, hk.same.tel, hk.same.agents, hk.same.hbm⟩⟩

theorem State.kept_tel {qu : List Instr} {F : Nat} {o s : State} {te : TelState} (hF : F.testBit 18 = true) (hk : State.Kept qu F o s) :
    State.Kept qu F o (.mk s.pending s.outbox s.freeCtr s.regs s.tim s.hif s.work s.chart s.link s.mgmt s.slv s.slc s.clp s.lmp s.hbm s.lnt s.mor s.rst s.pwr s.wdn s.log te s.agents) :=
  ⟨hk.queue, hk.inv, ⟨hk.same.regs, hk.same.outbox, hk.same.freeCtr, hk.same.tim, hk.same.hif, hk.same.work, hk.same.chart, hk.same.link, hk.same.mgmt, hk.same.slv, hk.same.slc, hk.same.clp, hk.same.lmp, hk.same.lnt, hk.same.mor, hk.same.rst, hk.same.pwr, hk.same.wdn, hk.same.log, fun h => absurd (h.symm.trans hF) Bool.false_ne_true, hk.same.agents, hk.same.hbm⟩⟩

theorem State.kept_agents {qu : List Instr} {F : Nat} {o s : State} {ag : List Agent} (hF : F.testBit 19 = true) (hk : State.Kept qu F o s) :
    State.Kept qu F o (.mk s.pending s.outbox s.freeCtr s.regs s.tim s.hif s.work s.chart s.link s.mgmt s.slv s.slc s.clp s.lmp s.hbm s.lnt s.mor s.rst s.pwr s.wdn s.log s.tel ag) :=
  ⟨hk.queue, hk.inv, ⟨hk.same.regs, hk.same.outbox, hk.same.freeCtr, hk.same.tim, hk.same.hif, hk.same.work, hk.same.chart, hk.same.link, hk.same.mgmt, hk.same.slv, hk.same.slc, hk.same.clp, hk.same.lmp, hk.same.lnt, hk.same.mor, hk.same.rst, hk.same.pwr, hk.same.wdn, hk.same.log, hk.same.tel, fun h => absurd (h.symm.trans hF) Bool.false_ne_true, hk.same.hbm⟩⟩

theorem State.kept_hbm {qu : List Instr} {F : Nat} {o s : State} {hb : List HbmPage} (hF : F.testBit 20 = true) (hk : State.Kept qu F o s) :
    State.Kept qu F o (.mk s.pending s.outbox s.freeCtr s.regs s.tim s.hif s.work s.chart s.link s.mgmt s.slv s.slc s.clp s.lmp hb s.lnt s.mor s.rst s.pwr s.wdn s.log s.tel s.agents) :=
  ⟨hk.queue, hk.inv, ⟨hk.same.regs, hk.same.outbox, hk.same.freeCtr, hk.same.tim, hk.same.hif, hk.same.work, hk.same.chart, hk.same.link, hk.same.mgmt, hk.same.slv, hk.same.slc, hk.same.clp, hk.same.lmp, hk.same.lnt, hk.same.mor, hk.same.rst, hk.same.pwr, hk.same.wdn, hk.same.log, hk.same.tel, hk.same.agents, fun h => absurd (h.symm.trans hF) Bool.false_ne_true⟩⟩

/-- Changes of several records at once. -/
theorem State.kept_with {qu : List Instr} {F : Nat} {o s : State} {ob : List Out} {fc : Nat} {ti : TimState} {hf : Hif} {wo : Work} {ch : ChartState} {li : LinkState} {mg : MgmtState} {sv : SlvState} {sl : SliceState} {cl : ClpState} {lm : LmpState} {ln : LntState} {mo : MorState} {rs : RstState} {pw : PwrState} {wd : WdnState} {lo : LogState} {te : TelState} {ag : List Agent} {hb : List HbmPage}
    (hk : State.Kept qu F o s)
    (hs : State.SameBut F s (.mk s.pending ob fc s.regs ti hf wo ch li mg sv sl cl lm hb ln mo rs pw wd lo te ag))
    (h1 : hf.windows.length = s.hif.windows.length) (h2 : mo.lit = s.mor.lit) (h3 : mo.grant = s.mor.grant) :
    State.Kept qu F o (.mk s.pending ob fc s.regs ti hf wo ch li mg sv sl cl lm hb ln mo rs pw wd lo te ag) := by
  refine ⟨hk.queue, fun ho => ⟨(hk.inv ho).1, fun h => h3.trans ((hk.inv ho).2.1 (h2.symm.trans h)), h1.trans (hk.inv ho).2.2⟩, ⟨hk.same.regs, ?_, ?_, ?_, ?_, ?_, ?_, ?_, ?_, ?_, ?_, ?_, ?_, ?_, ?_, ?_, ?_, ?_, ?_, ?_, ?_, ?_⟩⟩
  · exact fun h => (hs.outbox h).trans (hk.same.outbox h)
  · exact fun h => (hs.freeCtr h).trans (hk.same.freeCtr h)
  · exact fun h => (hs.tim h).trans (hk.same.tim h)
  · exact fun h => (hs.hif h).trans (hk.same.hif h)
  · exact fun h => (hs.work h).trans (hk.same.work h)
  · exact fun h => (hs.chart h).trans (hk.same.chart h)
  · exact fun h => (hs.link h).trans (hk.same.link h)
  · exact fun h => (hs.mgmt h).trans (hk.same.mgmt h)
  · exact fun h => (hs.slv h).trans (hk.same.slv h)
  · exact fun h => (hs.slc h).trans (hk.same.slc h)
  · exact fun h => (hs.clp h).trans (hk.same.clp h)
  · exact fun h => (hs.lmp h).trans (hk.same.lmp h)
  · exact fun h => (hs.lnt h).trans (hk.same.lnt h)
  · exact fun h => (hs.mor h).trans (hk.same.mor h)
  · exact fun h => (hs.rst h).trans (hk.same.rst h)
  · exact fun h => (hs.pwr h).trans (hk.same.pwr h)
  · exact fun h => (hs.wdn h).trans (hk.same.wdn h)
  · exact fun h => (hs.log h).trans (hk.same.log h)
  · exact fun h => (hs.tel h).trans (hk.same.tel h)
  · exact fun h => (hs.agents h).trans (hk.same.agents h)
  · exact fun h => (hs.hbm h).trans (hk.same.hbm h)

/-- Any state with this queue whose registers are canonical, with sixteen windows, and granted when it holds LIT. -/
theorem State.kept_mk {qu : List Instr} {F : Nat} {o : State} {rg : List (Nat × Word)} {ob : List Out} {fc : Nat} {ti : TimState} {hf : Hif} {wo : Work} {ch : ChartState} {li : LinkState} {mg : MgmtState} {sv : SlvState} {sl : SliceState} {cl : ClpState} {lm : LmpState} {ln : LntState} {mo : MorState} {rs : RstState} {pw : PwrState} {wd : WdnState} {lo : LogState} {te : TelState} {ag : List Agent} {hb : List HbmPage}
    (hi : o.Inv → (rg.Pairwise (fun x y => x.1 < y.1) ∧ ∀ r ∈ rg, r.2 ≠ resetOf r.1) ∧ (mo.lit = true → mo.grant = true) ∧ hf.windows.length = 16)
    (hs : State.SameBut F o (.mk qu ob fc rg ti hf wo ch li mg sv sl cl lm hb ln mo rs pw wd lo te ag)) : State.Kept qu F o (.mk qu ob fc rg ti hf wo ch li mg sv sl cl lm hb ln mo rs pw wd lo te ag) :=
  ⟨rfl, hi, hs⟩

/-- A change of everything. -/
theorem State.sameBut_all {F : Nat} {o t : State} (hF : 0xFFFFFFFF001FFFFF ||| F = F) : State.SameBut F o t := by
  constructor
  · exact fun off h => absurd (h.symm.trans (bit_all (m := 0xFFFFFFFF001FFFFF) hF rfl)) Bool.false_ne_true
  · exact fun h => absurd (h.symm.trans (bit_of hF rfl)) Bool.false_ne_true
  · exact fun h => absurd (h.symm.trans (bit_of hF rfl)) Bool.false_ne_true
  · exact fun h => absurd (h.symm.trans (bit_of hF rfl)) Bool.false_ne_true
  · exact fun h => absurd (h.symm.trans (bit_of hF rfl)) Bool.false_ne_true
  · exact fun h => absurd (h.symm.trans (bit_of hF rfl)) Bool.false_ne_true
  · exact fun h => absurd (h.symm.trans (bit_of hF rfl)) Bool.false_ne_true
  · exact fun h => absurd (h.symm.trans (bit_of hF rfl)) Bool.false_ne_true
  · exact fun h => absurd (h.symm.trans (bit_of hF rfl)) Bool.false_ne_true
  · exact fun h => absurd (h.symm.trans (bit_of hF rfl)) Bool.false_ne_true
  · exact fun h => absurd (h.symm.trans (bit_of hF rfl)) Bool.false_ne_true
  · exact fun h => absurd (h.symm.trans (bit_of hF rfl)) Bool.false_ne_true
  · exact fun h => absurd (h.symm.trans (bit_of hF rfl)) Bool.false_ne_true
  · exact fun h => absurd (h.symm.trans (bit_of hF rfl)) Bool.false_ne_true
  · exact fun h => absurd (h.symm.trans (bit_of hF rfl)) Bool.false_ne_true
  · exact fun h => absurd (h.symm.trans (bit_of hF rfl)) Bool.false_ne_true
  · exact fun h => absurd (h.symm.trans (bit_of hF rfl)) Bool.false_ne_true
  · exact fun h => absurd (h.symm.trans (bit_of hF rfl)) Bool.false_ne_true
  · exact fun h => absurd (h.symm.trans (bit_of hF rfl)) Bool.false_ne_true
  · exact fun h => absurd (h.symm.trans (bit_of hF rfl)) Bool.false_ne_true
  · exact fun h => absurd (h.symm.trans (bit_of hF rfl)) Bool.false_ne_true
  · exact fun h => absurd (h.symm.trans (bit_of hF rfl)) Bool.false_ne_true

/-- Changes of several records and of the registers at once. -/
theorem State.kept_withRegs {qu : List Instr} {F : Nat} {o s : State} {rg : List (Nat × Word)} {ob : List Out} {fc : Nat} {ti : TimState} {hf : Hif} {wo : Work} {ch : ChartState} {li : LinkState} {mg : MgmtState} {sv : SlvState} {sl : SliceState} {cl : ClpState} {lm : LmpState} {ln : LntState} {mo : MorState} {rs : RstState} {pw : PwrState} {wd : WdnState} {lo : LogState} {te : TelState} {ag : List Agent} {hb : List HbmPage}
    (hk : State.Kept qu F o s) (hr : o.Inv → rg.Pairwise (fun x y => x.1 < y.1) ∧ ∀ r ∈ rg, r.2 ≠ resetOf r.1)
    (hs : State.SameBut F s (.mk s.pending ob fc rg ti hf wo ch li mg sv sl cl lm hb ln mo rs pw wd lo te ag))
    (h1 : hf.windows.length = s.hif.windows.length) (h2 : mo.lit = s.mor.lit) (h3 : mo.grant = s.mor.grant) :
    State.Kept qu F o (.mk s.pending ob fc rg ti hf wo ch li mg sv sl cl lm hb ln mo rs pw wd lo te ag) := by
  refine ⟨hk.queue, fun ho => ⟨hr ho, fun h => h3.trans ((hk.inv ho).2.1 (h2.symm.trans h)), h1.trans (hk.inv ho).2.2⟩, ⟨?_, ?_, ?_, ?_, ?_, ?_, ?_, ?_, ?_, ?_, ?_, ?_, ?_, ?_, ?_, ?_, ?_, ?_, ?_, ?_, ?_, ?_⟩⟩
  · exact fun off h => (hs.regs off h).trans (hk.same.regs off h)
  · exact fun h => (hs.outbox h).trans (hk.same.outbox h)
  · exact fun h => (hs.freeCtr h).trans (hk.same.freeCtr h)
  · exact fun h => (hs.tim h).trans (hk.same.tim h)
  · exact fun h => (hs.hif h).trans (hk.same.hif h)
  · exact fun h => (hs.work h).trans (hk.same.work h)
  · exact fun h => (hs.chart h).trans (hk.same.chart h)
  · exact fun h => (hs.link h).trans (hk.same.link h)
  · exact fun h => (hs.mgmt h).trans (hk.same.mgmt h)
  · exact fun h => (hs.slv h).trans (hk.same.slv h)
  · exact fun h => (hs.slc h).trans (hk.same.slc h)
  · exact fun h => (hs.clp h).trans (hk.same.clp h)
  · exact fun h => (hs.lmp h).trans (hk.same.lmp h)
  · exact fun h => (hs.lnt h).trans (hk.same.lnt h)
  · exact fun h => (hs.mor h).trans (hk.same.mor h)
  · exact fun h => (hs.rst h).trans (hk.same.rst h)
  · exact fun h => (hs.pwr h).trans (hk.same.pwr h)
  · exact fun h => (hs.wdn h).trans (hk.same.wdn h)
  · exact fun h => (hs.log h).trans (hk.same.log h)
  · exact fun h => (hs.tel h).trans (hk.same.tel h)
  · exact fun h => (hs.agents h).trans (hk.same.agents h)
  · exact fun h => (hs.hbm h).trans (hk.same.hbm h)

theorem State.kept_ite {qu : List Instr} {F : Nat} {o : State} {c : Prop} [Decidable c] {a b : State} (ha : c → State.Kept qu F o a)
    (hb : ¬c → State.Kept qu F o b) : State.Kept qu F o (if c then a else b) := by
  split
  · exact ha ‹_›
  · exact hb ‹_›

theorem runs_ite {qu : List Instr} {F : Nat} {o : State} {c : Prop} [Decidable c] {a b : Host.Outcome State Fault Refusal}
    (ha : c → Runs qu F o a) (hb : ¬c → Runs qu F o b) : Runs qu F o (if c then a else b) := by
  split
  · exact ha ‹_›
  · exact hb ‹_›

theorem State.kept_foldl {qu : List Instr} {F : Nat} {o : State} {α : Type} {f : State → α → State} {l : List α} {s : State}
    (hk : State.Kept qu F o s) (hf : ∀ s x, State.Kept qu F o s → State.Kept qu F o (f s x)) : State.Kept qu F o (l.foldl f s) := by
  induction l generalizing s with
  | nil => exact hk
  | cons x l ih => exact ih (hf s x hk)

theorem State.kept_foldl_range {qu : List Instr} {F : Nat} {o : State} {f : State → Nat → State} {n : Nat} {s : State}
    (hk : State.Kept qu F o s) (hf : ∀ s i, i < n → State.Kept qu F o s → State.Kept qu F o (f s i)) : State.Kept qu F o ((List.range n).foldl f s) := by
  have : ∀ (l : List Nat) (s : State), (∀ i ∈ l, i < n) → State.Kept qu F o s → State.Kept qu F o (l.foldl f s) := by
    intro l
    induction l with
    | nil => exact fun s _ h => h
    | cons x l ih => exact fun s hl h => ih _ (fun i hi => hl i (List.mem_cons_of_mem _ hi)) (hf s x (hl x List.mem_cons_self) h)
  exact this _ _ (fun i hi => List.mem_range.mp hi) hk

theorem State.kept_foldl_fst {qu : List Instr} {F : Nat} {o : State} {α β : Type} {f : State × β → α → State × β} {l : List α} {s : State × β}
    (hk : State.Kept qu F o s.1) (hf : ∀ s x, State.Kept qu F o s.1 → State.Kept qu F o (f s x).1) : State.Kept qu F o (l.foldl f s).1 := by
  induction l generalizing s with
  | nil => exact hk
  | cons x l ih => exact ih (hf s x hk)

theorem State.kept_foldl_snd {qu : List Instr} {F : Nat} {o : State} {α β : Type} {f : β × State → α → β × State} {l : List α} {s : β × State}
    (hk : State.Kept qu F o s.2) (hf : ∀ s x, State.Kept qu F o s.2 → State.Kept qu F o (f s x).2) : State.Kept qu F o (l.foldl f s).2 := by
  induction l generalizing s with
  | nil => exact hk
  | cons x l ih => exact ih (hf s x hk)

/-! ### Registers -/

theorem State.getReg_setReg (s : State) (off off' : Nat) (v : Word) : (s.setReg off v).getReg off' = if off = off' then v else s.getReg off' := by
  have key : lookupNat off' (regsWith off v s.regs) = if off = off' then (if v = resetOf off then none else some v) else lookupNat off' s.regs := by
    unfold regsWith
    split
    · rw [lookupNat_eraseNat]
    · rw [lookupNat_insertNat]
  show (match lookupNat off' (regsWith off v s.regs) with | some v => v | none => resetOf off') = _
  rw [key]
  by_cases h : off = off'
  · subst h
    by_cases hv : v = resetOf off <;> simp [hv]
  · simp only [h, if_false]
    rfl

theorem regsWith_canonical {off : Nat} {v : Word} {l : List (Nat × Word)}
    (h : l.Pairwise (fun x y => x.1 < y.1) ∧ ∀ r ∈ l, r.2 ≠ resetOf r.1) :
    (regsWith off v l).Pairwise (fun x y => x.1 < y.1) ∧ ∀ r ∈ (regsWith off v l), r.2 ≠ resetOf r.1 := by
  unfold regsWith
  split
  · exact ⟨Rising.eraseNat h.1, fun r hr => h.2 r (mem_of_mem_eraseNat hr)⟩
  · refine ⟨Rising.insertNat h.1, fun r hr => ?_⟩
    rcases mem_insertNat hr with rfl | hr
    · assumption
    · exact h.2 r hr

theorem canonical_filter {q : Nat × Word → Bool} {l : List (Nat × Word)} (h : l.Pairwise (fun x y => x.1 < y.1) ∧ ∀ r ∈ l, r.2 ≠ resetOf r.1) :
    (l.filter q).Pairwise (fun x y => x.1 < y.1) ∧ ∀ r ∈ (l.filter q), r.2 ≠ resetOf r.1 :=
  ⟨h.1.filter q, fun r hr => h.2 r (List.mem_of_mem_filter hr)⟩

theorem canonical_foldl {ws l : List (Nat × Word)} (h : l.Pairwise (fun x y => x.1 < y.1) ∧ ∀ r ∈ l, r.2 ≠ resetOf r.1) :
    (ws.foldl (fun rs r => regsWith r.1 r.2 rs) l).Pairwise (fun x y => x.1 < y.1) ∧ ∀ r ∈ (ws.foldl (fun rs r => regsWith r.1 r.2 rs) l), r.2 ≠ resetOf r.1 := by
  induction ws generalizing l with
  | nil => exact h
  | cons w ws ih => exact ih (regsWith_canonical h)

theorem State.setReg_kept {qu : List Instr} {F : Nat} {o s : State} {off : Nat} {v : Word} (hb : F.testBit (32 + regBlock off) = true)
    (hk : State.Kept qu F o s) : State.Kept qu F o (s.setReg off v) := by
  refine ⟨hk.queue, fun ho => ⟨regsWith_canonical (hk.inv ho).1, (hk.inv ho).2⟩, ⟨fun off' h => ?_, hk.same.outbox, hk.same.freeCtr, hk.same.tim, hk.same.hif, hk.same.work, hk.same.chart, hk.same.link, hk.same.mgmt, hk.same.slv, hk.same.slc, hk.same.clp, hk.same.lmp, hk.same.lnt, hk.same.mor, hk.same.rst, hk.same.pwr, hk.same.wdn, hk.same.log, hk.same.tel, hk.same.agents, hk.same.hbm⟩⟩
  rw [State.getReg_setReg]
  split
  · subst_vars; exact absurd (h.symm.trans hb) Bool.false_ne_true
  · exact hk.same.regs off' h

theorem State.setF_kept {qu : List Instr} {F : Nat} {o s : State} {f : Fld} {v : Nat} (hb : F.testBit (32 + regBlock f.off) = true)
    (hk : State.Kept qu F o s) : State.Kept qu F o (s.setF f v) := State.setReg_kept hb hk

theorem State.count_kept {qu : List Instr} {F : Nat} {o s : State} {f : Fld} {n : Nat} (hb : F.testBit (32 + regBlock f.off) = true)
    (hk : State.Kept qu F o s) : State.Kept qu F o (s.count f n) := State.setReg_kept hb hk

theorem State.countReg_kept {qu : List Instr} {F : Nat} {o s : State} {off n : Nat} (hb : F.testBit (32 + regBlock off) = true)
    (hk : State.Kept qu F o s) : State.Kept qu F o (s.countReg off n) := State.setReg_kept hb hk

theorem State.setPair_kept {qu : List Instr} {F : Nat} {o s : State} {off v : Nat} (hb : F.testBit (32 + regBlock off) = true)
    (hb' : F.testBit (32 + regBlock (off + 4)) = true) (hk : State.Kept qu F o s) : State.Kept qu F o (s.setPair off v) :=
  State.setReg_kept hb' (State.setReg_kept hb hk)

theorem regBlock_run {off n i : Nat} (h : off / 0x10000 = (off + n) / 0x10000) (hi : i ≤ n) : regBlock (off + i) = regBlock off := by
  unfold regBlock
  omega

theorem State.kept_run {qu : List Instr} {F : Nat} {o s : State} {off n : Nat} {v : Nat → Word} (hb : F.testBit (32 + regBlock off) = true)
    (he : off / 0x10000 = (off + 60) / 0x10000) (hn : n ≤ 16) (hk : State.Kept qu F o s) :
    State.Kept qu F o ((List.range n).foldl (fun s i => s.setReg (off + 4 * i) (v i)) s) := by
  induction n generalizing s with
  | zero => exact hk
  | succ n ih =>
    rw [List.range_succ, List.foldl_append]
    refine State.setReg_kept ?_ (ih (by omega) hk)
    rw [regBlock_run he (by omega)]
    exact hb

theorem State.setDigest_kept {qu : List Instr} {F : Nat} {o s : State} {off : Nat} {d : Digest} (hb : F.testBit (32 + regBlock off) = true)
    (he : off / 0x10000 = (off + 60) / 0x10000) (hk : State.Kept qu F o s) : State.Kept qu F o (s.setDigest off d) :=
  State.kept_run hb he (by omega) hk

theorem State.setSliceSet_kept {qu : List Instr} {F : Nat} {o s : State} {off : Nat} {d : SliceSet} (hb : F.testBit (32 + regBlock off) = true)
    (he : off / 0x10000 = (off + 60) / 0x10000) (hk : State.Kept qu F o s) : State.Kept qu F o (s.setSliceSet off d) :=
  State.kept_run hb he (by omega) hk

/-! ### Windows, LIT, vectors -/

theorem State.onWindow_kept {qu : List Instr} {F : Nat} {o s : State} {w : Nat} {f : Window → Window} (hF : 8 ||| F = F)
    (hk : State.Kept qu F o s) : State.Kept qu F o (s.onWindow w f) :=
  State.kept_hif (bit_of hF rfl) hk (length_modifyAt _ _ _)

/-- A change of the redundancy state that leaves LIT and the grant as they are. -/
theorem State.onMor_kept {qu : List Instr} {F : Nat} {o s : State} {f : MorState → MorState} (hF : 0x2000 ||| F = F) (hk : State.Kept qu F o s)
    (h1 : ∀ m, (f m).lit = m.lit) (h2 : ∀ m, (f m).grant = m.grant) : State.Kept qu F o (s.onMor f) :=
  State.kept_mor (bit_of hF rfl) hk (h1 _) (h2 _)

/-- A change of the redundancy state after which a unit that holds LIT is granted it. -/
theorem State.onMor_keptOf {qu : List Instr} {F : Nat} {o s : State} {f : MorState → MorState} (hF : 0x2000 ||| F = F) (hk : State.Kept qu F o s)
    (hl : o.Inv → (f s.mor).lit = true → (f s.mor).grant = true) : State.Kept qu F o (s.onMor f) :=
  ⟨hk.queue, fun ho => ⟨(hk.inv ho).1, hl ho, (hk.inv ho).2.2⟩, ⟨hk.same.regs, hk.same.outbox, hk.same.freeCtr, hk.same.tim, hk.same.hif, hk.same.work, hk.same.chart, hk.same.link, hk.same.mgmt, hk.same.slv, hk.same.slc, hk.same.clp, hk.same.lmp, hk.same.lnt, fun h => absurd (h.symm.trans (bit_of hF rfl)) Bool.false_ne_true, hk.same.rst, hk.same.pwr, hk.same.wdn, hk.same.log, hk.same.tel, hk.same.agents, hk.same.hbm⟩⟩

theorem State.onVec_kept {qu : List Instr} {F : Nat} {o s : State} {v : Nat} {f : Vec → Vec} (hF : 8 ||| F = F) (hk : State.Kept qu F o s) :
    State.Kept qu F o (s.onVec v f) := State.kept_hif (bit_of hF rfl) hk rfl

theorem State.send_kept {qu : List Instr} {F : Nat} {o s : State} {x : Out} (hF : 1 ||| F = F) (hk : State.Kept qu F o s) :
    State.Kept qu F o (s.send x) := State.kept_outbox (bit_of hF rfl) hk

theorem State.signal_kept {qu : List Instr} {F : Nat} {o s : State} {v : Nat} (hF : 9 ||| F = F) (hk : State.Kept qu F o s) :
    State.Kept qu F o (s.signal v) := by
  unfold State.signal
  extract_lets e
  split
  · exact State.onVec_kept (sub_of hF rfl) hk
  · split
    · exact State.kept_hif (bit_of hF rfl) hk rfl
    · split
      · exact State.onVec_kept (sub_of hF rfl) hk
      · exact State.onVec_kept (sub_of hF rfl) (State.send_kept (sub_of hF rfl) hk)

theorem State.raise_kept {qu : List Instr} {F : Nat} {o s : State} {f : Fld} (hF : 9 ||| F = F) (hb : F.testBit (32 + regBlock f.off) = true)
    (hk : State.Kept qu F o s) : State.Kept qu F o (s.raise f) := by
  unfold State.raise
  extract_lets t
  have ht : State.Kept qu F o t := State.kept_hif (bit_of hF rfl) (State.setF_kept hb hk) rfl
  split
  · exact ht
  · split
    · exact State.signal_kept hF ht
    · exact ht

theorem State.raiseIf_kept {qu : List Instr} {F : Nat} {o s : State} {b : Bool} {f : Fld} (hF : 9 ||| F = F)
    (hb : F.testBit (32 + regBlock f.off) = true) (hk : State.Kept qu F o s) : State.Kept qu F o (s.raiseIf b f) := by
  unfold State.raiseIf
  split
  · exact State.raise_kept hF hb hk
  · exact hk

end Sys2Proof.Machine
end

