-- ==== Sys2Proof/Laws/Frame.lean ====
section
/-! SUPPORT. Laws/Frame.lean: from the masks of Laws/Kept.lean to the frames of Safety.lean. -/
namespace Sys2Proof.Machine

/-- The bit of a part in a mask of Laws/Kept.lean. -/
def Part.bit : Part → Nat
  | .outbox => 0 | .freeCtr => 1 | .tim => 2 | .hif => 3 | .work => 4 | .chart => 5 | .link => 6 | .mgmt => 7 | .slv => 8 | .slc => 9
  | .clp => 10 | .lmp => 11 | .lnt => 12 | .mor => 13 | .rst => 14 | .pwr => 15 | .wdn => 16 | .log => 17 | .tel => 18 | .agents => 19 | .hbm => 20

/-- Every part. -/
def Part.every : List Part :=
  [.outbox, .freeCtr, .tim, .hif, .work, .chart, .link, .mgmt, .slv, .slc, .clp, .lmp, .hbm, .lnt, .mor, .rst, .pwr, .wdn, .log, .tel, .agents]

theorem Part.mem_every (p : Part) : p ∈ Part.every := by
  cases p <;> decide

theorem State.SameBut.agrees {F : Nat} {s t : State} (h : State.SameBut F s t) (p : Part) (hp : F.testBit p.bit = false) : s.agrees t p := by
  cases p
  · exact h.outbox hp
  · exact h.freeCtr hp
  · exact h.tim hp
  · exact h.hif hp
  · exact h.work hp
  · exact h.chart hp
  · exact h.link hp
  · exact h.mgmt hp
  · exact h.slv hp
  · exact h.slc hp
  · exact h.clp hp
  · exact h.lmp hp
  · exact h.hbm hp
  · exact h.lnt hp
  · exact h.mor hp
  · exact h.rst hp
  · exact h.pwr hp
  · exact h.wdn hp
  · exact h.log hp
  · exact h.tel hp
  · exact h.agents hp

/-- What a mask leaves out does not change. -/
theorem State.Kept.changesOnly {F : Nat} {s t : State} {ps : List Part} {bs : List Blk} (hk : State.Kept s.pending F s t)
    (hp : (Part.every.all fun p => ps.contains p || !F.testBit p.bit) = true)
    (hb : ((List.range 32).all fun b => (bs.map Blk.code).contains b || !F.testBit (32 + b)) = true) : s.ChangesOnly t ps bs := by
  refine ⟨hk.queue, fun p h => ?_, fun off h => ?_⟩
  · have h1 := List.all_eq_true.mp hp p (Part.mem_every p)
    rw [Bool.or_eq_true, Bool.not_eq_true'] at h1
    rcases h1 with h1 | h1
    · exact absurd (List.contains_iff_mem.mp h1) h
    · exact hk.same.agrees p h1
  · have h1 := List.all_eq_true.mp hb (regBlock off) (List.mem_range.mpr (Nat.lt_succ_of_le (Nat.min_le_right _ _)))
    rw [Bool.or_eq_true, Bool.not_eq_true'] at h1
    rcases h1 with h1 | h1
    · obtain ⟨b, hb, he⟩ := List.mem_map.mp (List.contains_iff_mem.mp h1)
      exact absurd he.symm (h b hb)
    · exact hk.same.regs off h1

/-- A meaning's lemma, read as a frame. -/
theorem Runs.changesOnly {F : Nat} {s t : State} {r : Host.Outcome State Fault Refusal} {ps : List Part} {bs : List Blk}
    (hr : Runs s.pending F s r) (ht : r = .next t) (hp : (Part.every.all fun p => ps.contains p || !F.testBit p.bit) = true)
    (hb : ((List.range 32).all fun b => (bs.map Blk.code).contains b || !F.testBit (32 + b)) = true) : s.ChangesOnly t ps bs := by
  obtain ⟨u, hu, hk⟩ := hr
  cases hu.symm.trans ht
  exact hk.changesOnly hp hb

end Sys2Proof.Machine
end

