-- ==== Sys2Proof/Laws/State.lean ====
section
/-! SUPPORT. Laws/State.lean: what each update of the state leaves as it was, one lemma per field and update. -/
namespace Sys2Proof.Machine

variable (s : State)

/-! setReg -/
@[simp] theorem State.setReg_pending (off : Nat) (v : Word) : (s.setReg off v).pending = s.pending := rfl
@[simp] theorem State.setReg_outbox (off : Nat) (v : Word) : (s.setReg off v).outbox = s.outbox := rfl
@[simp] theorem State.setReg_freeCtr (off : Nat) (v : Word) : (s.setReg off v).freeCtr = s.freeCtr := rfl
@[simp] theorem State.setReg_tim (off : Nat) (v : Word) : (s.setReg off v).tim = s.tim := rfl
@[simp] theorem State.setReg_hif (off : Nat) (v : Word) : (s.setReg off v).hif = s.hif := rfl
@[simp] theorem State.setReg_work (off : Nat) (v : Word) : (s.setReg off v).work = s.work := rfl
@[simp] theorem State.setReg_chart (off : Nat) (v : Word) : (s.setReg off v).chart = s.chart := rfl
@[simp] theorem State.setReg_link (off : Nat) (v : Word) : (s.setReg off v).link = s.link := rfl
@[simp] theorem State.setReg_mgmt (off : Nat) (v : Word) : (s.setReg off v).mgmt = s.mgmt := rfl
@[simp] theorem State.setReg_slv (off : Nat) (v : Word) : (s.setReg off v).slv = s.slv := rfl
@[simp] theorem State.setReg_slc (off : Nat) (v : Word) : (s.setReg off v).slc = s.slc := rfl
@[simp] theorem State.setReg_clp (off : Nat) (v : Word) : (s.setReg off v).clp = s.clp := rfl
@[simp] theorem State.setReg_lmp (off : Nat) (v : Word) : (s.setReg off v).lmp = s.lmp := rfl
@[simp] theorem State.setReg_hbm (off : Nat) (v : Word) : (s.setReg off v).hbm = s.hbm := rfl
@[simp] theorem State.setReg_lnt (off : Nat) (v : Word) : (s.setReg off v).lnt = s.lnt := rfl
@[simp] theorem State.setReg_mor (off : Nat) (v : Word) : (s.setReg off v).mor = s.mor := rfl
@[simp] theorem State.setReg_rst (off : Nat) (v : Word) : (s.setReg off v).rst = s.rst := rfl
@[simp] theorem State.setReg_pwr (off : Nat) (v : Word) : (s.setReg off v).pwr = s.pwr := rfl
@[simp] theorem State.setReg_wdn (off : Nat) (v : Word) : (s.setReg off v).wdn = s.wdn := rfl
@[simp] theorem State.setReg_log (off : Nat) (v : Word) : (s.setReg off v).log = s.log := rfl
@[simp] theorem State.setReg_tel (off : Nat) (v : Word) : (s.setReg off v).tel = s.tel := rfl
@[simp] theorem State.setReg_agents (off : Nat) (v : Word) : (s.setReg off v).agents = s.agents := rfl

/-! setF -/
@[simp] theorem State.setF_pending (f : Fld) (v : Nat) : (s.setF f v).pending = s.pending := rfl
@[simp] theorem State.setF_outbox (f : Fld) (v : Nat) : (s.setF f v).outbox = s.outbox := rfl
@[simp] theorem State.setF_freeCtr (f : Fld) (v : Nat) : (s.setF f v).freeCtr = s.freeCtr := rfl
@[simp] theorem State.setF_tim (f : Fld) (v : Nat) : (s.setF f v).tim = s.tim := rfl
@[simp] theorem State.setF_hif (f : Fld) (v : Nat) : (s.setF f v).hif = s.hif := rfl
@[simp] theorem State.setF_work (f : Fld) (v : Nat) : (s.setF f v).work = s.work := rfl
@[simp] theorem State.setF_chart (f : Fld) (v : Nat) : (s.setF f v).chart = s.chart := rfl
@[simp] theorem State.setF_link (f : Fld) (v : Nat) : (s.setF f v).link = s.link := rfl
@[simp] theorem State.setF_mgmt (f : Fld) (v : Nat) : (s.setF f v).mgmt = s.mgmt := rfl
@[simp] theorem State.setF_slv (f : Fld) (v : Nat) : (s.setF f v).slv = s.slv := rfl
@[simp] theorem State.setF_slc (f : Fld) (v : Nat) : (s.setF f v).slc = s.slc := rfl
@[simp] theorem State.setF_clp (f : Fld) (v : Nat) : (s.setF f v).clp = s.clp := rfl
@[simp] theorem State.setF_lmp (f : Fld) (v : Nat) : (s.setF f v).lmp = s.lmp := rfl
@[simp] theorem State.setF_hbm (f : Fld) (v : Nat) : (s.setF f v).hbm = s.hbm := rfl
@[simp] theorem State.setF_lnt (f : Fld) (v : Nat) : (s.setF f v).lnt = s.lnt := rfl
@[simp] theorem State.setF_mor (f : Fld) (v : Nat) : (s.setF f v).mor = s.mor := rfl
@[simp] theorem State.setF_rst (f : Fld) (v : Nat) : (s.setF f v).rst = s.rst := rfl
@[simp] theorem State.setF_pwr (f : Fld) (v : Nat) : (s.setF f v).pwr = s.pwr := rfl
@[simp] theorem State.setF_wdn (f : Fld) (v : Nat) : (s.setF f v).wdn = s.wdn := rfl
@[simp] theorem State.setF_log (f : Fld) (v : Nat) : (s.setF f v).log = s.log := rfl
@[simp] theorem State.setF_tel (f : Fld) (v : Nat) : (s.setF f v).tel = s.tel := rfl
@[simp] theorem State.setF_agents (f : Fld) (v : Nat) : (s.setF f v).agents = s.agents := rfl

/-! count -/
@[simp] theorem State.count_pending (f : Fld) (n : Nat) : (s.count f n).pending = s.pending := rfl
@[simp] theorem State.count_outbox (f : Fld) (n : Nat) : (s.count f n).outbox = s.outbox := rfl
@[simp] theorem State.count_freeCtr (f : Fld) (n : Nat) : (s.count f n).freeCtr = s.freeCtr := rfl
@[simp] theorem State.count_tim (f : Fld) (n : Nat) : (s.count f n).tim = s.tim := rfl
@[simp] theorem State.count_hif (f : Fld) (n : Nat) : (s.count f n).hif = s.hif := rfl
@[simp] theorem State.count_work (f : Fld) (n : Nat) : (s.count f n).work = s.work := rfl
@[simp] theorem State.count_chart (f : Fld) (n : Nat) : (s.count f n).chart = s.chart := rfl
@[simp] theorem State.count_link (f : Fld) (n : Nat) : (s.count f n).link = s.link := rfl
@[simp] theorem State.count_mgmt (f : Fld) (n : Nat) : (s.count f n).mgmt = s.mgmt := rfl
@[simp] theorem State.count_slv (f : Fld) (n : Nat) : (s.count f n).slv = s.slv := rfl
@[simp] theorem State.count_slc (f : Fld) (n : Nat) : (s.count f n).slc = s.slc := rfl
@[simp] theorem State.count_clp (f : Fld) (n : Nat) : (s.count f n).clp = s.clp := rfl
@[simp] theorem State.count_lmp (f : Fld) (n : Nat) : (s.count f n).lmp = s.lmp := rfl
@[simp] theorem State.count_hbm (f : Fld) (n : Nat) : (s.count f n).hbm = s.hbm := rfl
@[simp] theorem State.count_lnt (f : Fld) (n : Nat) : (s.count f n).lnt = s.lnt := rfl
@[simp] theorem State.count_mor (f : Fld) (n : Nat) : (s.count f n).mor = s.mor := rfl
@[simp] theorem State.count_rst (f : Fld) (n : Nat) : (s.count f n).rst = s.rst := rfl
@[simp] theorem State.count_pwr (f : Fld) (n : Nat) : (s.count f n).pwr = s.pwr := rfl
@[simp] theorem State.count_wdn (f : Fld) (n : Nat) : (s.count f n).wdn = s.wdn := rfl
@[simp] theorem State.count_log (f : Fld) (n : Nat) : (s.count f n).log = s.log := rfl
@[simp] theorem State.count_tel (f : Fld) (n : Nat) : (s.count f n).tel = s.tel := rfl
@[simp] theorem State.count_agents (f : Fld) (n : Nat) : (s.count f n).agents = s.agents := rfl

/-! countReg -/
@[simp] theorem State.countReg_pending (off n : Nat) : (s.countReg off n).pending = s.pending := rfl
@[simp] theorem State.countReg_outbox (off n : Nat) : (s.countReg off n).outbox = s.outbox := rfl
@[simp] theorem State.countReg_freeCtr (off n : Nat) : (s.countReg off n).freeCtr = s.freeCtr := rfl
@[simp] theorem State.countReg_tim (off n : Nat) : (s.countReg off n).tim = s.tim := rfl
@[simp] theorem State.countReg_hif (off n : Nat) : (s.countReg off n).hif = s.hif := rfl
@[simp] theorem State.countReg_work (off n : Nat) : (s.countReg off n).work = s.work := rfl
@[simp] theorem State.countReg_chart (off n : Nat) : (s.countReg off n).chart = s.chart := rfl
@[simp] theorem State.countReg_link (off n : Nat) : (s.countReg off n).link = s.link := rfl
@[simp] theorem State.countReg_mgmt (off n : Nat) : (s.countReg off n).mgmt = s.mgmt := rfl
@[simp] theorem State.countReg_slv (off n : Nat) : (s.countReg off n).slv = s.slv := rfl
@[simp] theorem State.countReg_slc (off n : Nat) : (s.countReg off n).slc = s.slc := rfl
@[simp] theorem State.countReg_clp (off n : Nat) : (s.countReg off n).clp = s.clp := rfl
@[simp] theorem State.countReg_lmp (off n : Nat) : (s.countReg off n).lmp = s.lmp := rfl
@[simp] theorem State.countReg_hbm (off n : Nat) : (s.countReg off n).hbm = s.hbm := rfl
@[simp] theorem State.countReg_lnt (off n : Nat) : (s.countReg off n).lnt = s.lnt := rfl
@[simp] theorem State.countReg_mor (off n : Nat) : (s.countReg off n).mor = s.mor := rfl
@[simp] theorem State.countReg_rst (off n : Nat) : (s.countReg off n).rst = s.rst := rfl
@[simp] theorem State.countReg_pwr (off n : Nat) : (s.countReg off n).pwr = s.pwr := rfl
@[simp] theorem State.countReg_wdn (off n : Nat) : (s.countReg off n).wdn = s.wdn := rfl
@[simp] theorem State.countReg_log (off n : Nat) : (s.countReg off n).log = s.log := rfl
@[simp] theorem State.countReg_tel (off n : Nat) : (s.countReg off n).tel = s.tel := rfl
@[simp] theorem State.countReg_agents (off n : Nat) : (s.countReg off n).agents = s.agents := rfl

/-! setPair -/
@[simp] theorem State.setPair_pending (off v : Nat) : (s.setPair off v).pending = s.pending := rfl
@[simp] theorem State.setPair_outbox (off v : Nat) : (s.setPair off v).outbox = s.outbox := rfl
@[simp] theorem State.setPair_freeCtr (off v : Nat) : (s.setPair off v).freeCtr = s.freeCtr := rfl
@[simp] theorem State.setPair_tim (off v : Nat) : (s.setPair off v).tim = s.tim := rfl
@[simp] theorem State.setPair_hif (off v : Nat) : (s.setPair off v).hif = s.hif := rfl
@[simp] theorem State.setPair_work (off v : Nat) : (s.setPair off v).work = s.work := rfl
@[simp] theorem State.setPair_chart (off v : Nat) : (s.setPair off v).chart = s.chart := rfl
@[simp] theorem State.setPair_link (off v : Nat) : (s.setPair off v).link = s.link := rfl
@[simp] theorem State.setPair_mgmt (off v : Nat) : (s.setPair off v).mgmt = s.mgmt := rfl
@[simp] theorem State.setPair_slv (off v : Nat) : (s.setPair off v).slv = s.slv := rfl
@[simp] theorem State.setPair_slc (off v : Nat) : (s.setPair off v).slc = s.slc := rfl
@[simp] theorem State.setPair_clp (off v : Nat) : (s.setPair off v).clp = s.clp := rfl
@[simp] theorem State.setPair_lmp (off v : Nat) : (s.setPair off v).lmp = s.lmp := rfl
@[simp] theorem State.setPair_hbm (off v : Nat) : (s.setPair off v).hbm = s.hbm := rfl
@[simp] theorem State.setPair_lnt (off v : Nat) : (s.setPair off v).lnt = s.lnt := rfl
@[simp] theorem State.setPair_mor (off v : Nat) : (s.setPair off v).mor = s.mor := rfl
@[simp] theorem State.setPair_rst (off v : Nat) : (s.setPair off v).rst = s.rst := rfl
@[simp] theorem State.setPair_pwr (off v : Nat) : (s.setPair off v).pwr = s.pwr := rfl
@[simp] theorem State.setPair_wdn (off v : Nat) : (s.setPair off v).wdn = s.wdn := rfl
@[simp] theorem State.setPair_log (off v : Nat) : (s.setPair off v).log = s.log := rfl
@[simp] theorem State.setPair_tel (off v : Nat) : (s.setPair off v).tel = s.tel := rfl
@[simp] theorem State.setPair_agents (off v : Nat) : (s.setPair off v).agents = s.agents := rfl

/-! send -/
@[simp] theorem State.send_pending (x : Out) : (s.send x).pending = s.pending := rfl
@[simp] theorem State.send_freeCtr (x : Out) : (s.send x).freeCtr = s.freeCtr := rfl
@[simp] theorem State.send_regs (x : Out) : (s.send x).regs = s.regs := rfl
@[simp] theorem State.send_tim (x : Out) : (s.send x).tim = s.tim := rfl
@[simp] theorem State.send_hif (x : Out) : (s.send x).hif = s.hif := rfl
@[simp] theorem State.send_work (x : Out) : (s.send x).work = s.work := rfl
@[simp] theorem State.send_chart (x : Out) : (s.send x).chart = s.chart := rfl
@[simp] theorem State.send_link (x : Out) : (s.send x).link = s.link := rfl
@[simp] theorem State.send_mgmt (x : Out) : (s.send x).mgmt = s.mgmt := rfl
@[simp] theorem State.send_slv (x : Out) : (s.send x).slv = s.slv := rfl
@[simp] theorem State.send_slc (x : Out) : (s.send x).slc = s.slc := rfl
@[simp] theorem State.send_clp (x : Out) : (s.send x).clp = s.clp := rfl
@[simp] theorem State.send_lmp (x : Out) : (s.send x).lmp = s.lmp := rfl
@[simp] theorem State.send_hbm (x : Out) : (s.send x).hbm = s.hbm := rfl
@[simp] theorem State.send_lnt (x : Out) : (s.send x).lnt = s.lnt := rfl
@[simp] theorem State.send_mor (x : Out) : (s.send x).mor = s.mor := rfl
@[simp] theorem State.send_rst (x : Out) : (s.send x).rst = s.rst := rfl
@[simp] theorem State.send_pwr (x : Out) : (s.send x).pwr = s.pwr := rfl
@[simp] theorem State.send_wdn (x : Out) : (s.send x).wdn = s.wdn := rfl
@[simp] theorem State.send_log (x : Out) : (s.send x).log = s.log := rfl
@[simp] theorem State.send_tel (x : Out) : (s.send x).tel = s.tel := rfl
@[simp] theorem State.send_agents (x : Out) : (s.send x).agents = s.agents := rfl

/-! noteSet -/
@[simp] theorem State.noteSet_pending (f : Fld) : (s.noteSet f).pending = s.pending := rfl
@[simp] theorem State.noteSet_outbox (f : Fld) : (s.noteSet f).outbox = s.outbox := rfl
@[simp] theorem State.noteSet_freeCtr (f : Fld) : (s.noteSet f).freeCtr = s.freeCtr := rfl
@[simp] theorem State.noteSet_regs (f : Fld) : (s.noteSet f).regs = s.regs := rfl
@[simp] theorem State.noteSet_tim (f : Fld) : (s.noteSet f).tim = s.tim := rfl
@[simp] theorem State.noteSet_work (f : Fld) : (s.noteSet f).work = s.work := rfl
@[simp] theorem State.noteSet_chart (f : Fld) : (s.noteSet f).chart = s.chart := rfl
@[simp] theorem State.noteSet_link (f : Fld) : (s.noteSet f).link = s.link := rfl
@[simp] theorem State.noteSet_mgmt (f : Fld) : (s.noteSet f).mgmt = s.mgmt := rfl
@[simp] theorem State.noteSet_slv (f : Fld) : (s.noteSet f).slv = s.slv := rfl
@[simp] theorem State.noteSet_slc (f : Fld) : (s.noteSet f).slc = s.slc := rfl
@[simp] theorem State.noteSet_clp (f : Fld) : (s.noteSet f).clp = s.clp := rfl
@[simp] theorem State.noteSet_lmp (f : Fld) : (s.noteSet f).lmp = s.lmp := rfl
@[simp] theorem State.noteSet_hbm (f : Fld) : (s.noteSet f).hbm = s.hbm := rfl
@[simp] theorem State.noteSet_lnt (f : Fld) : (s.noteSet f).lnt = s.lnt := rfl
@[simp] theorem State.noteSet_mor (f : Fld) : (s.noteSet f).mor = s.mor := rfl
@[simp] theorem State.noteSet_rst (f : Fld) : (s.noteSet f).rst = s.rst := rfl
@[simp] theorem State.noteSet_pwr (f : Fld) : (s.noteSet f).pwr = s.pwr := rfl
@[simp] theorem State.noteSet_wdn (f : Fld) : (s.noteSet f).wdn = s.wdn := rfl
@[simp] theorem State.noteSet_log (f : Fld) : (s.noteSet f).log = s.log := rfl
@[simp] theorem State.noteSet_tel (f : Fld) : (s.noteSet f).tel = s.tel := rfl
@[simp] theorem State.noteSet_agents (f : Fld) : (s.noteSet f).agents = s.agents := rfl

/-! onVec -/
@[simp] theorem State.onVec_pending (v : Nat) (f : Vec → Vec) : (s.onVec v f).pending = s.pending := rfl
@[simp] theorem State.onVec_outbox (v : Nat) (f : Vec → Vec) : (s.onVec v f).outbox = s.outbox := rfl
@[simp] theorem State.onVec_freeCtr (v : Nat) (f : Vec → Vec) : (s.onVec v f).freeCtr = s.freeCtr := rfl
@[simp] theorem State.onVec_regs (v : Nat) (f : Vec → Vec) : (s.onVec v f).regs = s.regs := rfl
@[simp] theorem State.onVec_tim (v : Nat) (f : Vec → Vec) : (s.onVec v f).tim = s.tim := rfl
@[simp] theorem State.onVec_work (v : Nat) (f : Vec → Vec) : (s.onVec v f).work = s.work := rfl
@[simp] theorem State.onVec_chart (v : Nat) (f : Vec → Vec) : (s.onVec v f).chart = s.chart := rfl
@[simp] theorem State.onVec_link (v : Nat) (f : Vec → Vec) : (s.onVec v f).link = s.link := rfl
@[simp] theorem State.onVec_mgmt (v : Nat) (f : Vec → Vec) : (s.onVec v f).mgmt = s.mgmt := rfl
@[simp] theorem State.onVec_slv (v : Nat) (f : Vec → Vec) : (s.onVec v f).slv = s.slv := rfl
@[simp] theorem State.onVec_slc (v : Nat) (f : Vec → Vec) : (s.onVec v f).slc = s.slc := rfl
@[simp] theorem State.onVec_clp (v : Nat) (f : Vec → Vec) : (s.onVec v f).clp = s.clp := rfl
@[simp] theorem State.onVec_lmp (v : Nat) (f : Vec → Vec) : (s.onVec v f).lmp = s.lmp := rfl
@[simp] theorem State.onVec_hbm (v : Nat) (f : Vec → Vec) : (s.onVec v f).hbm = s.hbm := rfl
@[simp] theorem State.onVec_lnt (v : Nat) (f : Vec → Vec) : (s.onVec v f).lnt = s.lnt := rfl
@[simp] theorem State.onVec_mor (v : Nat) (f : Vec → Vec) : (s.onVec v f).mor = s.mor := rfl
@[simp] theorem State.onVec_rst (v : Nat) (f : Vec → Vec) : (s.onVec v f).rst = s.rst := rfl
@[simp] theorem State.onVec_pwr (v : Nat) (f : Vec → Vec) : (s.onVec v f).pwr = s.pwr := rfl
@[simp] theorem State.onVec_wdn (v : Nat) (f : Vec → Vec) : (s.onVec v f).wdn = s.wdn := rfl
@[simp] theorem State.onVec_log (v : Nat) (f : Vec → Vec) : (s.onVec v f).log = s.log := rfl
@[simp] theorem State.onVec_tel (v : Nat) (f : Vec → Vec) : (s.onVec v f).tel = s.tel := rfl
@[simp] theorem State.onVec_agents (v : Nat) (f : Vec → Vec) : (s.onVec v f).agents = s.agents := rfl

/-! onWindow -/
@[simp] theorem State.onWindow_pending (w : Nat) (f : Window → Window) : (s.onWindow w f).pending = s.pending := rfl
@[simp] theorem State.onWindow_outbox (w : Nat) (f : Window → Window) : (s.onWindow w f).outbox = s.outbox := rfl
@[simp] theorem State.onWindow_freeCtr (w : Nat) (f : Window → Window) : (s.onWindow w f).freeCtr = s.freeCtr := rfl
@[simp] theorem State.onWindow_regs (w : Nat) (f : Window → Window) : (s.onWindow w f).regs = s.regs := rfl
@[simp] theorem State.onWindow_tim (w : Nat) (f : Window → Window) : (s.onWindow w f).tim = s.tim := rfl
@[simp] theorem State.onWindow_work (w : Nat) (f : Window → Window) : (s.onWindow w f).work = s.work := rfl
@[simp] theorem State.onWindow_chart (w : Nat) (f : Window → Window) : (s.onWindow w f).chart = s.chart := rfl
@[simp] theorem State.onWindow_link (w : Nat) (f : Window → Window) : (s.onWindow w f).link = s.link := rfl
@[simp] theorem State.onWindow_mgmt (w : Nat) (f : Window → Window) : (s.onWindow w f).mgmt = s.mgmt := rfl
@[simp] theorem State.onWindow_slv (w : Nat) (f : Window → Window) : (s.onWindow w f).slv = s.slv := rfl
@[simp] theorem State.onWindow_slc (w : Nat) (f : Window → Window) : (s.onWindow w f).slc = s.slc := rfl
@[simp] theorem State.onWindow_clp (w : Nat) (f : Window → Window) : (s.onWindow w f).clp = s.clp := rfl
@[simp] theorem State.onWindow_lmp (w : Nat) (f : Window → Window) : (s.onWindow w f).lmp = s.lmp := rfl
@[simp] theorem State.onWindow_hbm (w : Nat) (f : Window → Window) : (s.onWindow w f).hbm = s.hbm := rfl
@[simp] theorem State.onWindow_lnt (w : Nat) (f : Window → Window) : (s.onWindow w f).lnt = s.lnt := rfl
@[simp] theorem State.onWindow_mor (w : Nat) (f : Window → Window) : (s.onWindow w f).mor = s.mor := rfl
@[simp] theorem State.onWindow_rst (w : Nat) (f : Window → Window) : (s.onWindow w f).rst = s.rst := rfl
@[simp] theorem State.onWindow_pwr (w : Nat) (f : Window → Window) : (s.onWindow w f).pwr = s.pwr := rfl
@[simp] theorem State.onWindow_wdn (w : Nat) (f : Window → Window) : (s.onWindow w f).wdn = s.wdn := rfl
@[simp] theorem State.onWindow_log (w : Nat) (f : Window → Window) : (s.onWindow w f).log = s.log := rfl
@[simp] theorem State.onWindow_tel (w : Nat) (f : Window → Window) : (s.onWindow w f).tel = s.tel := rfl
@[simp] theorem State.onWindow_agents (w : Nat) (f : Window → Window) : (s.onWindow w f).agents = s.agents := rfl

/-! onStage -/
@[simp] theorem State.onStage_pending (id : StageId) (f : Stage → Stage) : (s.onStage id f).pending = s.pending := rfl
@[simp] theorem State.onStage_outbox (id : StageId) (f : Stage → Stage) : (s.onStage id f).outbox = s.outbox := rfl
@[simp] theorem State.onStage_freeCtr (id : StageId) (f : Stage → Stage) : (s.onStage id f).freeCtr = s.freeCtr := rfl
@[simp] theorem State.onStage_regs (id : StageId) (f : Stage → Stage) : (s.onStage id f).regs = s.regs := rfl
@[simp] theorem State.onStage_tim (id : StageId) (f : Stage → Stage) : (s.onStage id f).tim = s.tim := rfl
@[simp] theorem State.onStage_hif (id : StageId) (f : Stage → Stage) : (s.onStage id f).hif = s.hif := rfl
@[simp] theorem State.onStage_chart (id : StageId) (f : Stage → Stage) : (s.onStage id f).chart = s.chart := rfl
@[simp] theorem State.onStage_link (id : StageId) (f : Stage → Stage) : (s.onStage id f).link = s.link := rfl
@[simp] theorem State.onStage_mgmt (id : StageId) (f : Stage → Stage) : (s.onStage id f).mgmt = s.mgmt := rfl
@[simp] theorem State.onStage_slv (id : StageId) (f : Stage → Stage) : (s.onStage id f).slv = s.slv := rfl
@[simp] theorem State.onStage_slc (id : StageId) (f : Stage → Stage) : (s.onStage id f).slc = s.slc := rfl
@[simp] theorem State.onStage_clp (id : StageId) (f : Stage → Stage) : (s.onStage id f).clp = s.clp := rfl
@[simp] theorem State.onStage_lmp (id : StageId) (f : Stage → Stage) : (s.onStage id f).lmp = s.lmp := rfl
@[simp] theorem State.onStage_hbm (id : StageId) (f : Stage → Stage) : (s.onStage id f).hbm = s.hbm := rfl
@[simp] theorem State.onStage_lnt (id : StageId) (f : Stage → Stage) : (s.onStage id f).lnt = s.lnt := rfl
@[simp] theorem State.onStage_mor (id : StageId) (f : Stage → Stage) : (s.onStage id f).mor = s.mor := rfl
@[simp] theorem State.onStage_rst (id : StageId) (f : Stage → Stage) : (s.onStage id f).rst = s.rst := rfl
@[simp] theorem State.onStage_pwr (id : StageId) (f : Stage → Stage) : (s.onStage id f).pwr = s.pwr := rfl
@[simp] theorem State.onStage_wdn (id : StageId) (f : Stage → Stage) : (s.onStage id f).wdn = s.wdn := rfl
@[simp] theorem State.onStage_log (id : StageId) (f : Stage → Stage) : (s.onStage id f).log = s.log := rfl
@[simp] theorem State.onStage_tel (id : StageId) (f : Stage → Stage) : (s.onStage id f).tel = s.tel := rfl
@[simp] theorem State.onStage_agents (id : StageId) (f : Stage → Stage) : (s.onStage id f).agents = s.agents := rfl

/-! stageInput -/
@[simp] theorem State.stageInput_pending (id : StageId) (job : Job) : (s.stageInput id job).pending = s.pending := rfl
@[simp] theorem State.stageInput_outbox (id : StageId) (job : Job) : (s.stageInput id job).outbox = s.outbox := rfl
@[simp] theorem State.stageInput_freeCtr (id : StageId) (job : Job) : (s.stageInput id job).freeCtr = s.freeCtr := rfl
@[simp] theorem State.stageInput_regs (id : StageId) (job : Job) : (s.stageInput id job).regs = s.regs := rfl
@[simp] theorem State.stageInput_tim (id : StageId) (job : Job) : (s.stageInput id job).tim = s.tim := rfl
@[simp] theorem State.stageInput_hif (id : StageId) (job : Job) : (s.stageInput id job).hif = s.hif := rfl
@[simp] theorem State.stageInput_chart (id : StageId) (job : Job) : (s.stageInput id job).chart = s.chart := rfl
@[simp] theorem State.stageInput_link (id : StageId) (job : Job) : (s.stageInput id job).link = s.link := rfl
@[simp] theorem State.stageInput_mgmt (id : StageId) (job : Job) : (s.stageInput id job).mgmt = s.mgmt := rfl
@[simp] theorem State.stageInput_slv (id : StageId) (job : Job) : (s.stageInput id job).slv = s.slv := rfl
@[simp] theorem State.stageInput_slc (id : StageId) (job : Job) : (s.stageInput id job).slc = s.slc := rfl
@[simp] theorem State.stageInput_clp (id : StageId) (job : Job) : (s.stageInput id job).clp = s.clp := rfl
@[simp] theorem State.stageInput_lmp (id : StageId) (job : Job) : (s.stageInput id job).lmp = s.lmp := rfl
@[simp] theorem State.stageInput_hbm (id : StageId) (job : Job) : (s.stageInput id job).hbm = s.hbm := rfl
@[simp] theorem State.stageInput_lnt (id : StageId) (job : Job) : (s.stageInput id job).lnt = s.lnt := rfl
@[simp] theorem State.stageInput_mor (id : StageId) (job : Job) : (s.stageInput id job).mor = s.mor := rfl
@[simp] theorem State.stageInput_rst (id : StageId) (job : Job) : (s.stageInput id job).rst = s.rst := rfl
@[simp] theorem State.stageInput_pwr (id : StageId) (job : Job) : (s.stageInput id job).pwr = s.pwr := rfl
@[simp] theorem State.stageInput_wdn (id : StageId) (job : Job) : (s.stageInput id job).wdn = s.wdn := rfl
@[simp] theorem State.stageInput_log (id : StageId) (job : Job) : (s.stageInput id job).log = s.log := rfl
@[simp] theorem State.stageInput_tel (id : StageId) (job : Job) : (s.stageInput id job).tel = s.tel := rfl
@[simp] theorem State.stageInput_agents (id : StageId) (job : Job) : (s.stageInput id job).agents = s.agents := rfl

/-! stageResult -/
@[simp] theorem State.stageResult_pending (id : StageId) (job : Job) : (s.stageResult id job).pending = s.pending := rfl
@[simp] theorem State.stageResult_outbox (id : StageId) (job : Job) : (s.stageResult id job).outbox = s.outbox := rfl
@[simp] theorem State.stageResult_freeCtr (id : StageId) (job : Job) : (s.stageResult id job).freeCtr = s.freeCtr := rfl
@[simp] theorem State.stageResult_regs (id : StageId) (job : Job) : (s.stageResult id job).regs = s.regs := rfl
@[simp] theorem State.stageResult_tim (id : StageId) (job : Job) : (s.stageResult id job).tim = s.tim := rfl
@[simp] theorem State.stageResult_hif (id : StageId) (job : Job) : (s.stageResult id job).hif = s.hif := rfl
@[simp] theorem State.stageResult_chart (id : StageId) (job : Job) : (s.stageResult id job).chart = s.chart := rfl
@[simp] theorem State.stageResult_link (id : StageId) (job : Job) : (s.stageResult id job).link = s.link := rfl
@[simp] theorem State.stageResult_mgmt (id : StageId) (job : Job) : (s.stageResult id job).mgmt = s.mgmt := rfl
@[simp] theorem State.stageResult_slv (id : StageId) (job : Job) : (s.stageResult id job).slv = s.slv := rfl
@[simp] theorem State.stageResult_slc (id : StageId) (job : Job) : (s.stageResult id job).slc = s.slc := rfl
@[simp] theorem State.stageResult_clp (id : StageId) (job : Job) : (s.stageResult id job).clp = s.clp := rfl
@[simp] theorem State.stageResult_lmp (id : StageId) (job : Job) : (s.stageResult id job).lmp = s.lmp := rfl
@[simp] theorem State.stageResult_hbm (id : StageId) (job : Job) : (s.stageResult id job).hbm = s.hbm := rfl
@[simp] theorem State.stageResult_lnt (id : StageId) (job : Job) : (s.stageResult id job).lnt = s.lnt := rfl
@[simp] theorem State.stageResult_mor (id : StageId) (job : Job) : (s.stageResult id job).mor = s.mor := rfl
@[simp] theorem State.stageResult_rst (id : StageId) (job : Job) : (s.stageResult id job).rst = s.rst := rfl
@[simp] theorem State.stageResult_pwr (id : StageId) (job : Job) : (s.stageResult id job).pwr = s.pwr := rfl
@[simp] theorem State.stageResult_wdn (id : StageId) (job : Job) : (s.stageResult id job).wdn = s.wdn := rfl
@[simp] theorem State.stageResult_log (id : StageId) (job : Job) : (s.stageResult id job).log = s.log := rfl
@[simp] theorem State.stageResult_tel (id : StageId) (job : Job) : (s.stageResult id job).tel = s.tel := rfl
@[simp] theorem State.stageResult_agents (id : StageId) (job : Job) : (s.stageResult id job).agents = s.agents := rfl

/-! onEngine -/
@[simp] theorem State.onEngine_pending (id : Nat) (f : Engine → Engine) : (s.onEngine id f).pending = s.pending := rfl
@[simp] theorem State.onEngine_outbox (id : Nat) (f : Engine → Engine) : (s.onEngine id f).outbox = s.outbox := rfl
@[simp] theorem State.onEngine_freeCtr (id : Nat) (f : Engine → Engine) : (s.onEngine id f).freeCtr = s.freeCtr := rfl
@[simp] theorem State.onEngine_regs (id : Nat) (f : Engine → Engine) : (s.onEngine id f).regs = s.regs := rfl
@[simp] theorem State.onEngine_tim (id : Nat) (f : Engine → Engine) : (s.onEngine id f).tim = s.tim := rfl
@[simp] theorem State.onEngine_hif (id : Nat) (f : Engine → Engine) : (s.onEngine id f).hif = s.hif := rfl
@[simp] theorem State.onEngine_work (id : Nat) (f : Engine → Engine) : (s.onEngine id f).work = s.work := rfl
@[simp] theorem State.onEngine_chart (id : Nat) (f : Engine → Engine) : (s.onEngine id f).chart = s.chart := rfl
@[simp] theorem State.onEngine_link (id : Nat) (f : Engine → Engine) : (s.onEngine id f).link = s.link := rfl
@[simp] theorem State.onEngine_mgmt (id : Nat) (f : Engine → Engine) : (s.onEngine id f).mgmt = s.mgmt := rfl
@[simp] theorem State.onEngine_slv (id : Nat) (f : Engine → Engine) : (s.onEngine id f).slv = s.slv := rfl
@[simp] theorem State.onEngine_slc (id : Nat) (f : Engine → Engine) : (s.onEngine id f).slc = s.slc := rfl
@[simp] theorem State.onEngine_clp (id : Nat) (f : Engine → Engine) : (s.onEngine id f).clp = s.clp := rfl
@[simp] theorem State.onEngine_lmp (id : Nat) (f : Engine → Engine) : (s.onEngine id f).lmp = s.lmp := rfl
@[simp] theorem State.onEngine_hbm (id : Nat) (f : Engine → Engine) : (s.onEngine id f).hbm = s.hbm := rfl
@[simp] theorem State.onEngine_lnt (id : Nat) (f : Engine → Engine) : (s.onEngine id f).lnt = s.lnt := rfl
@[simp] theorem State.onEngine_mor (id : Nat) (f : Engine → Engine) : (s.onEngine id f).mor = s.mor := rfl
@[simp] theorem State.onEngine_pwr (id : Nat) (f : Engine → Engine) : (s.onEngine id f).pwr = s.pwr := rfl
@[simp] theorem State.onEngine_wdn (id : Nat) (f : Engine → Engine) : (s.onEngine id f).wdn = s.wdn := rfl
@[simp] theorem State.onEngine_log (id : Nat) (f : Engine → Engine) : (s.onEngine id f).log = s.log := rfl
@[simp] theorem State.onEngine_tel (id : Nat) (f : Engine → Engine) : (s.onEngine id f).tel = s.tel := rfl
@[simp] theorem State.onEngine_agents (id : Nat) (f : Engine → Engine) : (s.onEngine id f).agents = s.agents := rfl

/-! progress -/
@[simp] theorem State.progress_pending (id : Nat) : (s.progress id).pending = s.pending := rfl
@[simp] theorem State.progress_outbox (id : Nat) : (s.progress id).outbox = s.outbox := rfl
@[simp] theorem State.progress_freeCtr (id : Nat) : (s.progress id).freeCtr = s.freeCtr := rfl
@[simp] theorem State.progress_regs (id : Nat) : (s.progress id).regs = s.regs := rfl
@[simp] theorem State.progress_tim (id : Nat) : (s.progress id).tim = s.tim := rfl
@[simp] theorem State.progress_hif (id : Nat) : (s.progress id).hif = s.hif := rfl
@[simp] theorem State.progress_work (id : Nat) : (s.progress id).work = s.work := rfl
@[simp] theorem State.progress_chart (id : Nat) : (s.progress id).chart = s.chart := rfl
@[simp] theorem State.progress_link (id : Nat) : (s.progress id).link = s.link := rfl
@[simp] theorem State.progress_mgmt (id : Nat) : (s.progress id).mgmt = s.mgmt := rfl
@[simp] theorem State.progress_slv (id : Nat) : (s.progress id).slv = s.slv := rfl
@[simp] theorem State.progress_slc (id : Nat) : (s.progress id).slc = s.slc := rfl
@[simp] theorem State.progress_clp (id : Nat) : (s.progress id).clp = s.clp := rfl
@[simp] theorem State.progress_lmp (id : Nat) : (s.progress id).lmp = s.lmp := rfl
@[simp] theorem State.progress_hbm (id : Nat) : (s.progress id).hbm = s.hbm := rfl
@[simp] theorem State.progress_lnt (id : Nat) : (s.progress id).lnt = s.lnt := rfl
@[simp] theorem State.progress_mor (id : Nat) : (s.progress id).mor = s.mor := rfl
@[simp] theorem State.progress_pwr (id : Nat) : (s.progress id).pwr = s.pwr := rfl
@[simp] theorem State.progress_wdn (id : Nat) : (s.progress id).wdn = s.wdn := rfl
@[simp] theorem State.progress_log (id : Nat) : (s.progress id).log = s.log := rfl
@[simp] theorem State.progress_tel (id : Nat) : (s.progress id).tel = s.tel := rfl
@[simp] theorem State.progress_agents (id : Nat) : (s.progress id).agents = s.agents := rfl

/-! completeAfter -/
@[simp] theorem State.completeAfter_pending (w delta slice : Nat) (rs : List Word) : (s.completeAfter w delta slice rs).pending = s.pending := rfl
@[simp] theorem State.completeAfter_outbox (w delta slice : Nat) (rs : List Word) : (s.completeAfter w delta slice rs).outbox = s.outbox := rfl
@[simp] theorem State.completeAfter_freeCtr (w delta slice : Nat) (rs : List Word) : (s.completeAfter w delta slice rs).freeCtr = s.freeCtr := rfl
@[simp] theorem State.completeAfter_regs (w delta slice : Nat) (rs : List Word) : (s.completeAfter w delta slice rs).regs = s.regs := rfl
@[simp] theorem State.completeAfter_tim (w delta slice : Nat) (rs : List Word) : (s.completeAfter w delta slice rs).tim = s.tim := rfl
@[simp] theorem State.completeAfter_work (w delta slice : Nat) (rs : List Word) : (s.completeAfter w delta slice rs).work = s.work := rfl
@[simp] theorem State.completeAfter_chart (w delta slice : Nat) (rs : List Word) : (s.completeAfter w delta slice rs).chart = s.chart := rfl
@[simp] theorem State.completeAfter_link (w delta slice : Nat) (rs : List Word) : (s.completeAfter w delta slice rs).link = s.link := rfl
@[simp] theorem State.completeAfter_mgmt (w delta slice : Nat) (rs : List Word) : (s.completeAfter w delta slice rs).mgmt = s.mgmt := rfl
@[simp] theorem State.completeAfter_slv (w delta slice : Nat) (rs : List Word) : (s.completeAfter w delta slice rs).slv = s.slv := rfl
@[simp] theorem State.completeAfter_slc (w delta slice : Nat) (rs : List Word) : (s.completeAfter w delta slice rs).slc = s.slc := rfl
@[simp] theorem State.completeAfter_clp (w delta slice : Nat) (rs : List Word) : (s.completeAfter w delta slice rs).clp = s.clp := rfl
@[simp] theorem State.completeAfter_lmp (w delta slice : Nat) (rs : List Word) : (s.completeAfter w delta slice rs).lmp = s.lmp := rfl
@[simp] theorem State.completeAfter_hbm (w delta slice : Nat) (rs : List Word) : (s.completeAfter w delta slice rs).hbm = s.hbm := rfl
@[simp] theorem State.completeAfter_lnt (w delta slice : Nat) (rs : List Word) : (s.completeAfter w delta slice rs).lnt = s.lnt := rfl
@[simp] theorem State.completeAfter_mor (w delta slice : Nat) (rs : List Word) : (s.completeAfter w delta slice rs).mor = s.mor := rfl
@[simp] theorem State.completeAfter_rst (w delta slice : Nat) (rs : List Word) : (s.completeAfter w delta slice rs).rst = s.rst := rfl
@[simp] theorem State.completeAfter_pwr (w delta slice : Nat) (rs : List Word) : (s.completeAfter w delta slice rs).pwr = s.pwr := rfl
@[simp] theorem State.completeAfter_wdn (w delta slice : Nat) (rs : List Word) : (s.completeAfter w delta slice rs).wdn = s.wdn := rfl
@[simp] theorem State.completeAfter_log (w delta slice : Nat) (rs : List Word) : (s.completeAfter w delta slice rs).log = s.log := rfl
@[simp] theorem State.completeAfter_tel (w delta slice : Nat) (rs : List Word) : (s.completeAfter w delta slice rs).tel = s.tel := rfl
@[simp] theorem State.completeAfter_agents (w delta slice : Nat) (rs : List Word) : (s.completeAfter w delta slice rs).agents = s.agents := rfl

/-! onPort -/
@[simp] theorem State.onPort_pending (n : Nat) (f : Port → Port) : (s.onPort n f).pending = s.pending := rfl
@[simp] theorem State.onPort_outbox (n : Nat) (f : Port → Port) : (s.onPort n f).outbox = s.outbox := rfl
@[simp] theorem State.onPort_freeCtr (n : Nat) (f : Port → Port) : (s.onPort n f).freeCtr = s.freeCtr := rfl
@[simp] theorem State.onPort_regs (n : Nat) (f : Port → Port) : (s.onPort n f).regs = s.regs := rfl
@[simp] theorem State.onPort_tim (n : Nat) (f : Port → Port) : (s.onPort n f).tim = s.tim := rfl
@[simp] theorem State.onPort_hif (n : Nat) (f : Port → Port) : (s.onPort n f).hif = s.hif := rfl
@[simp] theorem State.onPort_work (n : Nat) (f : Port → Port) : (s.onPort n f).work = s.work := rfl
@[simp] theorem State.onPort_chart (n : Nat) (f : Port → Port) : (s.onPort n f).chart = s.chart := rfl
@[simp] theorem State.onPort_mgmt (n : Nat) (f : Port → Port) : (s.onPort n f).mgmt = s.mgmt := rfl
@[simp] theorem State.onPort_slv (n : Nat) (f : Port → Port) : (s.onPort n f).slv = s.slv := rfl
@[simp] theorem State.onPort_slc (n : Nat) (f : Port → Port) : (s.onPort n f).slc = s.slc := rfl
@[simp] theorem State.onPort_clp (n : Nat) (f : Port → Port) : (s.onPort n f).clp = s.clp := rfl
@[simp] theorem State.onPort_lmp (n : Nat) (f : Port → Port) : (s.onPort n f).lmp = s.lmp := rfl
@[simp] theorem State.onPort_hbm (n : Nat) (f : Port → Port) : (s.onPort n f).hbm = s.hbm := rfl
@[simp] theorem State.onPort_lnt (n : Nat) (f : Port → Port) : (s.onPort n f).lnt = s.lnt := rfl
@[simp] theorem State.onPort_mor (n : Nat) (f : Port → Port) : (s.onPort n f).mor = s.mor := rfl
@[simp] theorem State.onPort_rst (n : Nat) (f : Port → Port) : (s.onPort n f).rst = s.rst := rfl
@[simp] theorem State.onPort_pwr (n : Nat) (f : Port → Port) : (s.onPort n f).pwr = s.pwr := rfl
@[simp] theorem State.onPort_wdn (n : Nat) (f : Port → Port) : (s.onPort n f).wdn = s.wdn := rfl
@[simp] theorem State.onPort_log (n : Nat) (f : Port → Port) : (s.onPort n f).log = s.log := rfl
@[simp] theorem State.onPort_tel (n : Nat) (f : Port → Port) : (s.onPort n f).tel = s.tel := rfl
@[simp] theorem State.onPort_agents (n : Nat) (f : Port → Port) : (s.onPort n f).agents = s.agents := rfl

/-! onPos -/
@[simp] theorem State.onPos_pending (k : Nat) (f : Position → Position) : (s.onPos k f).pending = s.pending := rfl
@[simp] theorem State.onPos_outbox (k : Nat) (f : Position → Position) : (s.onPos k f).outbox = s.outbox := rfl
@[simp] theorem State.onPos_freeCtr (k : Nat) (f : Position → Position) : (s.onPos k f).freeCtr = s.freeCtr := rfl
@[simp] theorem State.onPos_regs (k : Nat) (f : Position → Position) : (s.onPos k f).regs = s.regs := rfl
@[simp] theorem State.onPos_tim (k : Nat) (f : Position → Position) : (s.onPos k f).tim = s.tim := rfl
@[simp] theorem State.onPos_hif (k : Nat) (f : Position → Position) : (s.onPos k f).hif = s.hif := rfl
@[simp] theorem State.onPos_work (k : Nat) (f : Position → Position) : (s.onPos k f).work = s.work := rfl
@[simp] theorem State.onPos_chart (k : Nat) (f : Position → Position) : (s.onPos k f).chart = s.chart := rfl
@[simp] theorem State.onPos_mgmt (k : Nat) (f : Position → Position) : (s.onPos k f).mgmt = s.mgmt := rfl
@[simp] theorem State.onPos_slv (k : Nat) (f : Position → Position) : (s.onPos k f).slv = s.slv := rfl
@[simp] theorem State.onPos_slc (k : Nat) (f : Position → Position) : (s.onPos k f).slc = s.slc := rfl
@[simp] theorem State.onPos_clp (k : Nat) (f : Position → Position) : (s.onPos k f).clp = s.clp := rfl
@[simp] theorem State.onPos_lmp (k : Nat) (f : Position → Position) : (s.onPos k f).lmp = s.lmp := rfl
@[simp] theorem State.onPos_hbm (k : Nat) (f : Position → Position) : (s.onPos k f).hbm = s.hbm := rfl
@[simp] theorem State.onPos_lnt (k : Nat) (f : Position → Position) : (s.onPos k f).lnt = s.lnt := rfl
@[simp] theorem State.onPos_mor (k : Nat) (f : Position → Position) : (s.onPos k f).mor = s.mor := rfl
@[simp] theorem State.onPos_rst (k : Nat) (f : Position → Position) : (s.onPos k f).rst = s.rst := rfl
@[simp] theorem State.onPos_pwr (k : Nat) (f : Position → Position) : (s.onPos k f).pwr = s.pwr := rfl
@[simp] theorem State.onPos_wdn (k : Nat) (f : Position → Position) : (s.onPos k f).wdn = s.wdn := rfl
@[simp] theorem State.onPos_log (k : Nat) (f : Position → Position) : (s.onPos k f).log = s.log := rfl
@[simp] theorem State.onPos_tel (k : Nat) (f : Position → Position) : (s.onPos k f).tel = s.tel := rfl
@[simp] theorem State.onPos_agents (k : Nat) (f : Position → Position) : (s.onPos k f).agents = s.agents := rfl

/-! onFlow -/
@[simp] theorem State.onFlow_pending (p : Flow → Bool) (f : Flow → Flow) : (s.onFlow p f).pending = s.pending := rfl
@[simp] theorem State.onFlow_outbox (p : Flow → Bool) (f : Flow → Flow) : (s.onFlow p f).outbox = s.outbox := rfl
@[simp] theorem State.onFlow_freeCtr (p : Flow → Bool) (f : Flow → Flow) : (s.onFlow p f).freeCtr = s.freeCtr := rfl
@[simp] theorem State.onFlow_regs (p : Flow → Bool) (f : Flow → Flow) : (s.onFlow p f).regs = s.regs := rfl
@[simp] theorem State.onFlow_tim (p : Flow → Bool) (f : Flow → Flow) : (s.onFlow p f).tim = s.tim := rfl
@[simp] theorem State.onFlow_hif (p : Flow → Bool) (f : Flow → Flow) : (s.onFlow p f).hif = s.hif := rfl
@[simp] theorem State.onFlow_work (p : Flow → Bool) (f : Flow → Flow) : (s.onFlow p f).work = s.work := rfl
@[simp] theorem State.onFlow_chart (p : Flow → Bool) (f : Flow → Flow) : (s.onFlow p f).chart = s.chart := rfl
@[simp] theorem State.onFlow_mgmt (p : Flow → Bool) (f : Flow → Flow) : (s.onFlow p f).mgmt = s.mgmt := rfl
@[simp] theorem State.onFlow_slv (p : Flow → Bool) (f : Flow → Flow) : (s.onFlow p f).slv = s.slv := rfl
@[simp] theorem State.onFlow_slc (p : Flow → Bool) (f : Flow → Flow) : (s.onFlow p f).slc = s.slc := rfl
@[simp] theorem State.onFlow_clp (p : Flow → Bool) (f : Flow → Flow) : (s.onFlow p f).clp = s.clp := rfl
@[simp] theorem State.onFlow_lmp (p : Flow → Bool) (f : Flow → Flow) : (s.onFlow p f).lmp = s.lmp := rfl
@[simp] theorem State.onFlow_hbm (p : Flow → Bool) (f : Flow → Flow) : (s.onFlow p f).hbm = s.hbm := rfl
@[simp] theorem State.onFlow_lnt (p : Flow → Bool) (f : Flow → Flow) : (s.onFlow p f).lnt = s.lnt := rfl
@[simp] theorem State.onFlow_mor (p : Flow → Bool) (f : Flow → Flow) : (s.onFlow p f).mor = s.mor := rfl
@[simp] theorem State.onFlow_rst (p : Flow → Bool) (f : Flow → Flow) : (s.onFlow p f).rst = s.rst := rfl
@[simp] theorem State.onFlow_pwr (p : Flow → Bool) (f : Flow → Flow) : (s.onFlow p f).pwr = s.pwr := rfl
@[simp] theorem State.onFlow_wdn (p : Flow → Bool) (f : Flow → Flow) : (s.onFlow p f).wdn = s.wdn := rfl
@[simp] theorem State.onFlow_log (p : Flow → Bool) (f : Flow → Flow) : (s.onFlow p f).log = s.log := rfl
@[simp] theorem State.onFlow_tel (p : Flow → Bool) (f : Flow → Flow) : (s.onFlow p f).tel = s.tel := rfl
@[simp] theorem State.onFlow_agents (p : Flow → Bool) (f : Flow → Flow) : (s.onFlow p f).agents = s.agents := rfl

/-! onMor -/
@[simp] theorem State.onMor_pending (f : MorState → MorState) : (s.onMor f).pending = s.pending := rfl
@[simp] theorem State.onMor_outbox (f : MorState → MorState) : (s.onMor f).outbox = s.outbox := rfl
@[simp] theorem State.onMor_freeCtr (f : MorState → MorState) : (s.onMor f).freeCtr = s.freeCtr := rfl
@[simp] theorem State.onMor_regs (f : MorState → MorState) : (s.onMor f).regs = s.regs := rfl
@[simp] theorem State.onMor_tim (f : MorState → MorState) : (s.onMor f).tim = s.tim := rfl
@[simp] theorem State.onMor_hif (f : MorState → MorState) : (s.onMor f).hif = s.hif := rfl
@[simp] theorem State.onMor_work (f : MorState → MorState) : (s.onMor f).work = s.work := rfl
@[simp] theorem State.onMor_chart (f : MorState → MorState) : (s.onMor f).chart = s.chart := rfl
@[simp] theorem State.onMor_link (f : MorState → MorState) : (s.onMor f).link = s.link := rfl
@[simp] theorem State.onMor_mgmt (f : MorState → MorState) : (s.onMor f).mgmt = s.mgmt := rfl
@[simp] theorem State.onMor_slv (f : MorState → MorState) : (s.onMor f).slv = s.slv := rfl
@[simp] theorem State.onMor_slc (f : MorState → MorState) : (s.onMor f).slc = s.slc := rfl
@[simp] theorem State.onMor_clp (f : MorState → MorState) : (s.onMor f).clp = s.clp := rfl
@[simp] theorem State.onMor_lmp (f : MorState → MorState) : (s.onMor f).lmp = s.lmp := rfl
@[simp] theorem State.onMor_hbm (f : MorState → MorState) : (s.onMor f).hbm = s.hbm := rfl
@[simp] theorem State.onMor_lnt (f : MorState → MorState) : (s.onMor f).lnt = s.lnt := rfl
@[simp] theorem State.onMor_rst (f : MorState → MorState) : (s.onMor f).rst = s.rst := rfl
@[simp] theorem State.onMor_pwr (f : MorState → MorState) : (s.onMor f).pwr = s.pwr := rfl
@[simp] theorem State.onMor_wdn (f : MorState → MorState) : (s.onMor f).wdn = s.wdn := rfl
@[simp] theorem State.onMor_log (f : MorState → MorState) : (s.onMor f).log = s.log := rfl
@[simp] theorem State.onMor_tel (f : MorState → MorState) : (s.onMor f).tel = s.tel := rfl
@[simp] theorem State.onMor_agents (f : MorState → MorState) : (s.onMor f).agents = s.agents := rfl

/-! onRst -/
@[simp] theorem State.onRst_pending (f : RstState → RstState) : (s.onRst f).pending = s.pending := rfl
@[simp] theorem State.onRst_outbox (f : RstState → RstState) : (s.onRst f).outbox = s.outbox := rfl
@[simp] theorem State.onRst_freeCtr (f : RstState → RstState) : (s.onRst f).freeCtr = s.freeCtr := rfl
@[simp] theorem State.onRst_regs (f : RstState → RstState) : (s.onRst f).regs = s.regs := rfl
@[simp] theorem State.onRst_tim (f : RstState → RstState) : (s.onRst f).tim = s.tim := rfl
@[simp] theorem State.onRst_hif (f : RstState → RstState) : (s.onRst f).hif = s.hif := rfl
@[simp] theorem State.onRst_work (f : RstState → RstState) : (s.onRst f).work = s.work := rfl
@[simp] theorem State.onRst_chart (f : RstState → RstState) : (s.onRst f).chart = s.chart := rfl
@[simp] theorem State.onRst_link (f : RstState → RstState) : (s.onRst f).link = s.link := rfl
@[simp] theorem State.onRst_mgmt (f : RstState → RstState) : (s.onRst f).mgmt = s.mgmt := rfl
@[simp] theorem State.onRst_slv (f : RstState → RstState) : (s.onRst f).slv = s.slv := rfl
@[simp] theorem State.onRst_slc (f : RstState → RstState) : (s.onRst f).slc = s.slc := rfl
@[simp] theorem State.onRst_clp (f : RstState → RstState) : (s.onRst f).clp = s.clp := rfl
@[simp] theorem State.onRst_lmp (f : RstState → RstState) : (s.onRst f).lmp = s.lmp := rfl
@[simp] theorem State.onRst_hbm (f : RstState → RstState) : (s.onRst f).hbm = s.hbm := rfl
@[simp] theorem State.onRst_lnt (f : RstState → RstState) : (s.onRst f).lnt = s.lnt := rfl
@[simp] theorem State.onRst_mor (f : RstState → RstState) : (s.onRst f).mor = s.mor := rfl
@[simp] theorem State.onRst_pwr (f : RstState → RstState) : (s.onRst f).pwr = s.pwr := rfl
@[simp] theorem State.onRst_wdn (f : RstState → RstState) : (s.onRst f).wdn = s.wdn := rfl
@[simp] theorem State.onRst_log (f : RstState → RstState) : (s.onRst f).log = s.log := rfl
@[simp] theorem State.onRst_tel (f : RstState → RstState) : (s.onRst f).tel = s.tel := rfl
@[simp] theorem State.onRst_agents (f : RstState → RstState) : (s.onRst f).agents = s.agents := rfl

/-! onPwr -/
@[simp] theorem State.onPwr_pending (f : PwrState → PwrState) : (s.onPwr f).pending = s.pending := rfl
@[simp] theorem State.onPwr_outbox (f : PwrState → PwrState) : (s.onPwr f).outbox = s.outbox := rfl
@[simp] theorem State.onPwr_freeCtr (f : PwrState → PwrState) : (s.onPwr f).freeCtr = s.freeCtr := rfl
@[simp] theorem State.onPwr_regs (f : PwrState → PwrState) : (s.onPwr f).regs = s.regs := rfl
@[simp] theorem State.onPwr_tim (f : PwrState → PwrState) : (s.onPwr f).tim = s.tim := rfl
@[simp] theorem State.onPwr_hif (f : PwrState → PwrState) : (s.onPwr f).hif = s.hif := rfl
@[simp] theorem State.onPwr_work (f : PwrState → PwrState) : (s.onPwr f).work = s.work := rfl
@[simp] theorem State.onPwr_chart (f : PwrState → PwrState) : (s.onPwr f).chart = s.chart := rfl
@[simp] theorem State.onPwr_link (f : PwrState → PwrState) : (s.onPwr f).link = s.link := rfl
@[simp] theorem State.onPwr_mgmt (f : PwrState → PwrState) : (s.onPwr f).mgmt = s.mgmt := rfl
@[simp] theorem State.onPwr_slv (f : PwrState → PwrState) : (s.onPwr f).slv = s.slv := rfl
@[simp] theorem State.onPwr_slc (f : PwrState → PwrState) : (s.onPwr f).slc = s.slc := rfl
@[simp] theorem State.onPwr_clp (f : PwrState → PwrState) : (s.onPwr f).clp = s.clp := rfl
@[simp] theorem State.onPwr_lmp (f : PwrState → PwrState) : (s.onPwr f).lmp = s.lmp := rfl
@[simp] theorem State.onPwr_hbm (f : PwrState → PwrState) : (s.onPwr f).hbm = s.hbm := rfl
@[simp] theorem State.onPwr_lnt (f : PwrState → PwrState) : (s.onPwr f).lnt = s.lnt := rfl
@[simp] theorem State.onPwr_mor (f : PwrState → PwrState) : (s.onPwr f).mor = s.mor := rfl
@[simp] theorem State.onPwr_rst (f : PwrState → PwrState) : (s.onPwr f).rst = s.rst := rfl
@[simp] theorem State.onPwr_wdn (f : PwrState → PwrState) : (s.onPwr f).wdn = s.wdn := rfl
@[simp] theorem State.onPwr_log (f : PwrState → PwrState) : (s.onPwr f).log = s.log := rfl
@[simp] theorem State.onPwr_tel (f : PwrState → PwrState) : (s.onPwr f).tel = s.tel := rfl
@[simp] theorem State.onPwr_agents (f : PwrState → PwrState) : (s.onPwr f).agents = s.agents := rfl

/-! onWdn -/
@[simp] theorem State.onWdn_pending (f : WdnState → WdnState) : (s.onWdn f).pending = s.pending := rfl
@[simp] theorem State.onWdn_outbox (f : WdnState → WdnState) : (s.onWdn f).outbox = s.outbox := rfl
@[simp] theorem State.onWdn_freeCtr (f : WdnState → WdnState) : (s.onWdn f).freeCtr = s.freeCtr := rfl
@[simp] theorem State.onWdn_regs (f : WdnState → WdnState) : (s.onWdn f).regs = s.regs := rfl
@[simp] theorem State.onWdn_tim (f : WdnState → WdnState) : (s.onWdn f).tim = s.tim := rfl
@[simp] theorem State.onWdn_hif (f : WdnState → WdnState) : (s.onWdn f).hif = s.hif := rfl
@[simp] theorem State.onWdn_work (f : WdnState → WdnState) : (s.onWdn f).work = s.work := rfl
@[simp] theorem State.onWdn_chart (f : WdnState → WdnState) : (s.onWdn f).chart = s.chart := rfl
@[simp] theorem State.onWdn_link (f : WdnState → WdnState) : (s.onWdn f).link = s.link := rfl
@[simp] theorem State.onWdn_mgmt (f : WdnState → WdnState) : (s.onWdn f).mgmt = s.mgmt := rfl
@[simp] theorem State.onWdn_slv (f : WdnState → WdnState) : (s.onWdn f).slv = s.slv := rfl
@[simp] theorem State.onWdn_slc (f : WdnState → WdnState) : (s.onWdn f).slc = s.slc := rfl
@[simp] theorem State.onWdn_clp (f : WdnState → WdnState) : (s.onWdn f).clp = s.clp := rfl
@[simp] theorem State.onWdn_lmp (f : WdnState → WdnState) : (s.onWdn f).lmp = s.lmp := rfl
@[simp] theorem State.onWdn_hbm (f : WdnState → WdnState) : (s.onWdn f).hbm = s.hbm := rfl
@[simp] theorem State.onWdn_lnt (f : WdnState → WdnState) : (s.onWdn f).lnt = s.lnt := rfl
@[simp] theorem State.onWdn_mor (f : WdnState → WdnState) : (s.onWdn f).mor = s.mor := rfl
@[simp] theorem State.onWdn_rst (f : WdnState → WdnState) : (s.onWdn f).rst = s.rst := rfl
@[simp] theorem State.onWdn_pwr (f : WdnState → WdnState) : (s.onWdn f).pwr = s.pwr := rfl
@[simp] theorem State.onWdn_log (f : WdnState → WdnState) : (s.onWdn f).log = s.log := rfl
@[simp] theorem State.onWdn_tel (f : WdnState → WdnState) : (s.onWdn f).tel = s.tel := rfl
@[simp] theorem State.onWdn_agents (f : WdnState → WdnState) : (s.onWdn f).agents = s.agents := rfl

/-! onClp -/
@[simp] theorem State.onClp_pending (f : ClpState → ClpState) : (s.onClp f).pending = s.pending := rfl
@[simp] theorem State.onClp_outbox (f : ClpState → ClpState) : (s.onClp f).outbox = s.outbox := rfl
@[simp] theorem State.onClp_freeCtr (f : ClpState → ClpState) : (s.onClp f).freeCtr = s.freeCtr := rfl
@[simp] theorem State.onClp_regs (f : ClpState → ClpState) : (s.onClp f).regs = s.regs := rfl
@[simp] theorem State.onClp_tim (f : ClpState → ClpState) : (s.onClp f).tim = s.tim := rfl
@[simp] theorem State.onClp_hif (f : ClpState → ClpState) : (s.onClp f).hif = s.hif := rfl
@[simp] theorem State.onClp_work (f : ClpState → ClpState) : (s.onClp f).work = s.work := rfl
@[simp] theorem State.onClp_chart (f : ClpState → ClpState) : (s.onClp f).chart = s.chart := rfl
@[simp] theorem State.onClp_link (f : ClpState → ClpState) : (s.onClp f).link = s.link := rfl
@[simp] theorem State.onClp_mgmt (f : ClpState → ClpState) : (s.onClp f).mgmt = s.mgmt := rfl
@[simp] theorem State.onClp_slv (f : ClpState → ClpState) : (s.onClp f).slv = s.slv := rfl
@[simp] theorem State.onClp_slc (f : ClpState → ClpState) : (s.onClp f).slc = s.slc := rfl
@[simp] theorem State.onClp_lmp (f : ClpState → ClpState) : (s.onClp f).lmp = s.lmp := rfl
@[simp] theorem State.onClp_hbm (f : ClpState → ClpState) : (s.onClp f).hbm = s.hbm := rfl
@[simp] theorem State.onClp_lnt (f : ClpState → ClpState) : (s.onClp f).lnt = s.lnt := rfl
@[simp] theorem State.onClp_mor (f : ClpState → ClpState) : (s.onClp f).mor = s.mor := rfl
@[simp] theorem State.onClp_rst (f : ClpState → ClpState) : (s.onClp f).rst = s.rst := rfl
@[simp] theorem State.onClp_pwr (f : ClpState → ClpState) : (s.onClp f).pwr = s.pwr := rfl
@[simp] theorem State.onClp_wdn (f : ClpState → ClpState) : (s.onClp f).wdn = s.wdn := rfl
@[simp] theorem State.onClp_log (f : ClpState → ClpState) : (s.onClp f).log = s.log := rfl
@[simp] theorem State.onClp_tel (f : ClpState → ClpState) : (s.onClp f).tel = s.tel := rfl
@[simp] theorem State.onClp_agents (f : ClpState → ClpState) : (s.onClp f).agents = s.agents := rfl

/-! onPlan -/
@[simp] theorem State.onPlan_pending (ctx : Nat) (f : Plan → Plan) : (s.onPlan ctx f).pending = s.pending := rfl
@[simp] theorem State.onPlan_outbox (ctx : Nat) (f : Plan → Plan) : (s.onPlan ctx f).outbox = s.outbox := rfl
@[simp] theorem State.onPlan_freeCtr (ctx : Nat) (f : Plan → Plan) : (s.onPlan ctx f).freeCtr = s.freeCtr := rfl
@[simp] theorem State.onPlan_regs (ctx : Nat) (f : Plan → Plan) : (s.onPlan ctx f).regs = s.regs := rfl
@[simp] theorem State.onPlan_tim (ctx : Nat) (f : Plan → Plan) : (s.onPlan ctx f).tim = s.tim := rfl
@[simp] theorem State.onPlan_hif (ctx : Nat) (f : Plan → Plan) : (s.onPlan ctx f).hif = s.hif := rfl
@[simp] theorem State.onPlan_work (ctx : Nat) (f : Plan → Plan) : (s.onPlan ctx f).work = s.work := rfl
@[simp] theorem State.onPlan_chart (ctx : Nat) (f : Plan → Plan) : (s.onPlan ctx f).chart = s.chart := rfl
@[simp] theorem State.onPlan_link (ctx : Nat) (f : Plan → Plan) : (s.onPlan ctx f).link = s.link := rfl
@[simp] theorem State.onPlan_mgmt (ctx : Nat) (f : Plan → Plan) : (s.onPlan ctx f).mgmt = s.mgmt := rfl
@[simp] theorem State.onPlan_slv (ctx : Nat) (f : Plan → Plan) : (s.onPlan ctx f).slv = s.slv := rfl
@[simp] theorem State.onPlan_slc (ctx : Nat) (f : Plan → Plan) : (s.onPlan ctx f).slc = s.slc := rfl
@[simp] theorem State.onPlan_lmp (ctx : Nat) (f : Plan → Plan) : (s.onPlan ctx f).lmp = s.lmp := rfl
@[simp] theorem State.onPlan_hbm (ctx : Nat) (f : Plan → Plan) : (s.onPlan ctx f).hbm = s.hbm := rfl
@[simp] theorem State.onPlan_lnt (ctx : Nat) (f : Plan → Plan) : (s.onPlan ctx f).lnt = s.lnt := rfl
@[simp] theorem State.onPlan_mor (ctx : Nat) (f : Plan → Plan) : (s.onPlan ctx f).mor = s.mor := rfl
@[simp] theorem State.onPlan_rst (ctx : Nat) (f : Plan → Plan) : (s.onPlan ctx f).rst = s.rst := rfl
@[simp] theorem State.onPlan_pwr (ctx : Nat) (f : Plan → Plan) : (s.onPlan ctx f).pwr = s.pwr := rfl
@[simp] theorem State.onPlan_wdn (ctx : Nat) (f : Plan → Plan) : (s.onPlan ctx f).wdn = s.wdn := rfl
@[simp] theorem State.onPlan_log (ctx : Nat) (f : Plan → Plan) : (s.onPlan ctx f).log = s.log := rfl
@[simp] theorem State.onPlan_tel (ctx : Nat) (f : Plan → Plan) : (s.onPlan ctx f).tel = s.tel := rfl
@[simp] theorem State.onPlan_agents (ctx : Nat) (f : Plan → Plan) : (s.onPlan ctx f).agents = s.agents := rfl

/-! onCycle -/
@[simp] theorem State.onCycle_pending (f : Cycle → Cycle) : (s.onCycle f).pending = s.pending := rfl
@[simp] theorem State.onCycle_outbox (f : Cycle → Cycle) : (s.onCycle f).outbox = s.outbox := rfl
@[simp] theorem State.onCycle_freeCtr (f : Cycle → Cycle) : (s.onCycle f).freeCtr = s.freeCtr := rfl
@[simp] theorem State.onCycle_regs (f : Cycle → Cycle) : (s.onCycle f).regs = s.regs := rfl
@[simp] theorem State.onCycle_tim (f : Cycle → Cycle) : (s.onCycle f).tim = s.tim := rfl
@[simp] theorem State.onCycle_hif (f : Cycle → Cycle) : (s.onCycle f).hif = s.hif := rfl
@[simp] theorem State.onCycle_work (f : Cycle → Cycle) : (s.onCycle f).work = s.work := rfl
@[simp] theorem State.onCycle_chart (f : Cycle → Cycle) : (s.onCycle f).chart = s.chart := rfl
@[simp] theorem State.onCycle_link (f : Cycle → Cycle) : (s.onCycle f).link = s.link := rfl
@[simp] theorem State.onCycle_mgmt (f : Cycle → Cycle) : (s.onCycle f).mgmt = s.mgmt := rfl
@[simp] theorem State.onCycle_slc (f : Cycle → Cycle) : (s.onCycle f).slc = s.slc := rfl
@[simp] theorem State.onCycle_clp (f : Cycle → Cycle) : (s.onCycle f).clp = s.clp := rfl
@[simp] theorem State.onCycle_lmp (f : Cycle → Cycle) : (s.onCycle f).lmp = s.lmp := rfl
@[simp] theorem State.onCycle_hbm (f : Cycle → Cycle) : (s.onCycle f).hbm = s.hbm := rfl
@[simp] theorem State.onCycle_lnt (f : Cycle → Cycle) : (s.onCycle f).lnt = s.lnt := rfl
@[simp] theorem State.onCycle_mor (f : Cycle → Cycle) : (s.onCycle f).mor = s.mor := rfl
@[simp] theorem State.onCycle_rst (f : Cycle → Cycle) : (s.onCycle f).rst = s.rst := rfl
@[simp] theorem State.onCycle_pwr (f : Cycle → Cycle) : (s.onCycle f).pwr = s.pwr := rfl
@[simp] theorem State.onCycle_wdn (f : Cycle → Cycle) : (s.onCycle f).wdn = s.wdn := rfl
@[simp] theorem State.onCycle_log (f : Cycle → Cycle) : (s.onCycle f).log = s.log := rfl
@[simp] theorem State.onCycle_tel (f : Cycle → Cycle) : (s.onCycle f).tel = s.tel := rfl
@[simp] theorem State.onCycle_agents (f : Cycle → Cycle) : (s.onCycle f).agents = s.agents := rfl

/-! onHead -/
@[simp] theorem State.onHead_pending (f : HeadCycle → HeadCycle) : (s.onHead f).pending = s.pending := rfl
@[simp] theorem State.onHead_outbox (f : HeadCycle → HeadCycle) : (s.onHead f).outbox = s.outbox := rfl
@[simp] theorem State.onHead_freeCtr (f : HeadCycle → HeadCycle) : (s.onHead f).freeCtr = s.freeCtr := rfl
@[simp] theorem State.onHead_regs (f : HeadCycle → HeadCycle) : (s.onHead f).regs = s.regs := rfl
@[simp] theorem State.onHead_tim (f : HeadCycle → HeadCycle) : (s.onHead f).tim = s.tim := rfl
@[simp] theorem State.onHead_hif (f : HeadCycle → HeadCycle) : (s.onHead f).hif = s.hif := rfl
@[simp] theorem State.onHead_work (f : HeadCycle → HeadCycle) : (s.onHead f).work = s.work := rfl
@[simp] theorem State.onHead_chart (f : HeadCycle → HeadCycle) : (s.onHead f).chart = s.chart := rfl
@[simp] theorem State.onHead_link (f : HeadCycle → HeadCycle) : (s.onHead f).link = s.link := rfl
@[simp] theorem State.onHead_mgmt (f : HeadCycle → HeadCycle) : (s.onHead f).mgmt = s.mgmt := rfl
@[simp] theorem State.onHead_slc (f : HeadCycle → HeadCycle) : (s.onHead f).slc = s.slc := rfl
@[simp] theorem State.onHead_clp (f : HeadCycle → HeadCycle) : (s.onHead f).clp = s.clp := rfl
@[simp] theorem State.onHead_lmp (f : HeadCycle → HeadCycle) : (s.onHead f).lmp = s.lmp := rfl
@[simp] theorem State.onHead_hbm (f : HeadCycle → HeadCycle) : (s.onHead f).hbm = s.hbm := rfl
@[simp] theorem State.onHead_lnt (f : HeadCycle → HeadCycle) : (s.onHead f).lnt = s.lnt := rfl
@[simp] theorem State.onHead_mor (f : HeadCycle → HeadCycle) : (s.onHead f).mor = s.mor := rfl
@[simp] theorem State.onHead_rst (f : HeadCycle → HeadCycle) : (s.onHead f).rst = s.rst := rfl
@[simp] theorem State.onHead_pwr (f : HeadCycle → HeadCycle) : (s.onHead f).pwr = s.pwr := rfl
@[simp] theorem State.onHead_wdn (f : HeadCycle → HeadCycle) : (s.onHead f).wdn = s.wdn := rfl
@[simp] theorem State.onHead_log (f : HeadCycle → HeadCycle) : (s.onHead f).log = s.log := rfl
@[simp] theorem State.onHead_tel (f : HeadCycle → HeadCycle) : (s.onHead f).tel = s.tel := rfl
@[simp] theorem State.onHead_agents (f : HeadCycle → HeadCycle) : (s.onHead f).agents = s.agents := rfl

/-! onSlot -/
@[simp] theorem State.onSlot_pending (n : Nat) (f : Slot → Slot) : (s.onSlot n f).pending = s.pending := rfl
@[simp] theorem State.onSlot_outbox (n : Nat) (f : Slot → Slot) : (s.onSlot n f).outbox = s.outbox := rfl
@[simp] theorem State.onSlot_freeCtr (n : Nat) (f : Slot → Slot) : (s.onSlot n f).freeCtr = s.freeCtr := rfl
@[simp] theorem State.onSlot_regs (n : Nat) (f : Slot → Slot) : (s.onSlot n f).regs = s.regs := rfl
@[simp] theorem State.onSlot_tim (n : Nat) (f : Slot → Slot) : (s.onSlot n f).tim = s.tim := rfl
@[simp] theorem State.onSlot_hif (n : Nat) (f : Slot → Slot) : (s.onSlot n f).hif = s.hif := rfl
@[simp] theorem State.onSlot_work (n : Nat) (f : Slot → Slot) : (s.onSlot n f).work = s.work := rfl
@[simp] theorem State.onSlot_link (n : Nat) (f : Slot → Slot) : (s.onSlot n f).link = s.link := rfl
@[simp] theorem State.onSlot_mgmt (n : Nat) (f : Slot → Slot) : (s.onSlot n f).mgmt = s.mgmt := rfl
@[simp] theorem State.onSlot_slv (n : Nat) (f : Slot → Slot) : (s.onSlot n f).slv = s.slv := rfl
@[simp] theorem State.onSlot_slc (n : Nat) (f : Slot → Slot) : (s.onSlot n f).slc = s.slc := rfl
@[simp] theorem State.onSlot_clp (n : Nat) (f : Slot → Slot) : (s.onSlot n f).clp = s.clp := rfl
@[simp] theorem State.onSlot_lmp (n : Nat) (f : Slot → Slot) : (s.onSlot n f).lmp = s.lmp := rfl
@[simp] theorem State.onSlot_hbm (n : Nat) (f : Slot → Slot) : (s.onSlot n f).hbm = s.hbm := rfl
@[simp] theorem State.onSlot_lnt (n : Nat) (f : Slot → Slot) : (s.onSlot n f).lnt = s.lnt := rfl
@[simp] theorem State.onSlot_mor (n : Nat) (f : Slot → Slot) : (s.onSlot n f).mor = s.mor := rfl
@[simp] theorem State.onSlot_rst (n : Nat) (f : Slot → Slot) : (s.onSlot n f).rst = s.rst := rfl
@[simp] theorem State.onSlot_pwr (n : Nat) (f : Slot → Slot) : (s.onSlot n f).pwr = s.pwr := rfl
@[simp] theorem State.onSlot_wdn (n : Nat) (f : Slot → Slot) : (s.onSlot n f).wdn = s.wdn := rfl
@[simp] theorem State.onSlot_log (n : Nat) (f : Slot → Slot) : (s.onSlot n f).log = s.log := rfl
@[simp] theorem State.onSlot_tel (n : Nat) (f : Slot → Slot) : (s.onSlot n f).tel = s.tel := rfl
@[simp] theorem State.onSlot_agents (n : Nat) (f : Slot → Slot) : (s.onSlot n f).agents = s.agents := rfl

/-! onAgent -/
@[simp] theorem State.onAgent_pending (a : Addr) (f : Agent → Agent) : (s.onAgent a f).pending = s.pending := rfl
@[simp] theorem State.onAgent_outbox (a : Addr) (f : Agent → Agent) : (s.onAgent a f).outbox = s.outbox := rfl
@[simp] theorem State.onAgent_freeCtr (a : Addr) (f : Agent → Agent) : (s.onAgent a f).freeCtr = s.freeCtr := rfl
@[simp] theorem State.onAgent_regs (a : Addr) (f : Agent → Agent) : (s.onAgent a f).regs = s.regs := rfl
@[simp] theorem State.onAgent_tim (a : Addr) (f : Agent → Agent) : (s.onAgent a f).tim = s.tim := rfl
@[simp] theorem State.onAgent_hif (a : Addr) (f : Agent → Agent) : (s.onAgent a f).hif = s.hif := rfl
@[simp] theorem State.onAgent_work (a : Addr) (f : Agent → Agent) : (s.onAgent a f).work = s.work := rfl
@[simp] theorem State.onAgent_chart (a : Addr) (f : Agent → Agent) : (s.onAgent a f).chart = s.chart := rfl
@[simp] theorem State.onAgent_link (a : Addr) (f : Agent → Agent) : (s.onAgent a f).link = s.link := rfl
@[simp] theorem State.onAgent_mgmt (a : Addr) (f : Agent → Agent) : (s.onAgent a f).mgmt = s.mgmt := rfl
@[simp] theorem State.onAgent_slv (a : Addr) (f : Agent → Agent) : (s.onAgent a f).slv = s.slv := rfl
@[simp] theorem State.onAgent_slc (a : Addr) (f : Agent → Agent) : (s.onAgent a f).slc = s.slc := rfl
@[simp] theorem State.onAgent_clp (a : Addr) (f : Agent → Agent) : (s.onAgent a f).clp = s.clp := rfl
@[simp] theorem State.onAgent_lmp (a : Addr) (f : Agent → Agent) : (s.onAgent a f).lmp = s.lmp := rfl
@[simp] theorem State.onAgent_hbm (a : Addr) (f : Agent → Agent) : (s.onAgent a f).hbm = s.hbm := rfl
@[simp] theorem State.onAgent_lnt (a : Addr) (f : Agent → Agent) : (s.onAgent a f).lnt = s.lnt := rfl
@[simp] theorem State.onAgent_mor (a : Addr) (f : Agent → Agent) : (s.onAgent a f).mor = s.mor := rfl
@[simp] theorem State.onAgent_rst (a : Addr) (f : Agent → Agent) : (s.onAgent a f).rst = s.rst := rfl
@[simp] theorem State.onAgent_pwr (a : Addr) (f : Agent → Agent) : (s.onAgent a f).pwr = s.pwr := rfl
@[simp] theorem State.onAgent_wdn (a : Addr) (f : Agent → Agent) : (s.onAgent a f).wdn = s.wdn := rfl
@[simp] theorem State.onAgent_log (a : Addr) (f : Agent → Agent) : (s.onAgent a f).log = s.log := rfl
@[simp] theorem State.onAgent_tel (a : Addr) (f : Agent → Agent) : (s.onAgent a f).tel = s.tel := rfl

end Sys2Proof.Machine
end

