-- ==== Sys2Proof/Laws/Regs.lean ====
section
/-! SUPPORT. Laws/Regs.lean: registers and their fields after a write. -/
namespace Sys2Proof

theorem testBit_bitsOf (w : Word) (lo width i : Nat) : (bitsOf w lo width).testBit i = (decide (i < width) && w.getLsbD (lo + i)) := by
  unfold bitsOf
  rw [Nat.testBit_mod_two_pow, Nat.testBit_div_two_pow, BitVec.testBit_toNat, Nat.add_comm]

theorem getLsbD_putBits (w : Word) (lo width v i : Nat) (hi : i < 32) :
    (putBits w lo width v).getLsbD i = if lo ≤ i ∧ i < lo + width then v.testBit (i - lo) else w.getLsbD i := by
  unfold putBits
  simp only [BitVec.getLsbD_or, BitVec.getLsbD_and, BitVec.getLsbD_not, BitVec.getLsbD_ofNat, hi, decide_true, Bool.true_and,
    Nat.testBit_mul_two_pow, Nat.testBit_two_pow_sub_one, Nat.testBit_mod_two_pow]
  by_cases h1 : lo ≤ i
  · by_cases h2 : i < lo + width
    · have h3 : i - lo < width := by omega
      simp [h1, h2, h3]
    · have h3 : ¬ i - lo < width := by omega
      simp [h1, h2, h3]
  · simp [h1]

/-- A field reads as what was written, within its width. -/
theorem bitsOf_putBits (w : Word) (lo width v : Nat) (h : lo + width ≤ 32) : bitsOf (putBits w lo width v) lo width = v % 2 ^ width := by
  apply Nat.eq_of_testBit_eq
  intro i
  rw [testBit_bitsOf, Nat.testBit_mod_two_pow]
  by_cases hi : i < width
  · rw [getLsbD_putBits _ _ _ _ _ (by omega)]
    simp [hi]
  · simp [hi]

/-- A write of one field leaves another that shares no bit with it as it was. -/
theorem bitsOf_putBits_of_disjoint (w : Word) (lo width v lo' width' : Nat) (h : lo' + width' ≤ 32)
    (hd : lo + width ≤ lo' ∨ lo' + width' ≤ lo) : bitsOf (putBits w lo width v) lo' width' = bitsOf w lo' width' := by
  apply Nat.eq_of_testBit_eq
  intro i
  rw [testBit_bitsOf, testBit_bitsOf]
  by_cases hi : i < width'
  · rw [getLsbD_putBits _ _ _ _ _ (by omega), if_neg (by omega)]
  · simp [hi]

theorem bitAt_putBits (w : Word) (lo width v i : Nat) (hi : i < 32) :
    bitAt (putBits w lo width v) i = if lo ≤ i ∧ i < lo + width then v.testBit (i - lo) else bitAt w i := getLsbD_putBits _ _ _ _ _ hi

namespace Machine

/-- Two fields that lie in different registers, or share no bit. -/
def Fld.apart (f g : Fld) : Bool := f.off != g.off || decide (f.lo + f.width ≤ g.lo) || decide (g.lo + g.width ≤ f.lo)

theorem State.getReg_setReg_self (s : State) (off : Nat) (v : Word) : (s.setReg off v).getReg off = v := by
  rw [State.getReg_setReg, if_pos rfl]

theorem State.getReg_setReg_ne (s : State) {off off' : Nat} (v : Word) (h : off ≠ off') : (s.setReg off v).getReg off' = s.getReg off' := by
  rw [State.getReg_setReg, if_neg h]

theorem State.getReg_setF_ne (s : State) {f : Fld} {off : Nat} (v : Nat) (h : f.off ≠ off) : (s.setF f v).getReg off = s.getReg off :=
  State.getReg_setReg_ne _ _ h

theorem State.getF_setF_self (s : State) (f : Fld) (v : Nat) (h : f.lo + f.width ≤ 32) : (s.setF f v).getF f = v % 2 ^ f.width := by
  unfold State.getF State.setF
  rw [State.getReg_setReg_self, bitsOf_putBits _ _ _ _ h]

theorem State.getF_setF_apart (s : State) {f g : Fld} (v : Nat) (h : f.apart g = true) (hg : g.lo + g.width ≤ 32) :
    (s.setF f v).getF g = s.getF g := by
  unfold State.getF State.setF
  rw [State.getReg_setReg]
  split
  · rename_i ho
    rw [ho]
    refine bitsOf_putBits_of_disjoint _ _ _ _ _ _ hg ?_
    simpa [Fld.apart, ho] using h
  · rfl

theorem State.getF_setReg_ne (s : State) {f : Fld} {off : Nat} (v : Word) (h : off ≠ f.off) : (s.setReg off v).getF f = s.getF f := by
  unfold State.getF
  rw [State.getReg_setReg_ne _ _ h]

theorem State.getF_eq_of_getReg {s t : State} {f : Fld} (h : t.getReg f.off = s.getReg f.off) : t.getF f = s.getF f := by
  unfold State.getF
  rw [h]

theorem State.flag_eq_getF (s : State) (f : Fld) (h : f.width = 1) : s.flag f = (s.getF f == 1) := by
  unfold State.flag State.getF bitAt bitsOf
  rw [h, BitVec.getLsbD, Nat.testBit_eq_decide_div_mod_eq]
  rfl

/-- Only the regs list decides what a register holds. -/
theorem State.getReg_congr {s t : State} (h : t.regs = s.regs) (off : Nat) : t.getReg off = s.getReg off := by
  unfold State.getReg
  rw [h]

/-- A message of an interrupt vector touches no register. -/
theorem State.getReg_signal (s : State) (v off : Nat) : (s.signal v).getReg off = s.getReg off := by
  unfold State.signal
  dsimp only
  split
  · rfl
  · split
    · rfl
    · split <;> rfl

/-- A raised status bit reads 1; every other register reads as before. -/
theorem State.getReg_raise (s : State) (f : Fld) (off : Nat) : (s.raise f).getReg off = (s.setF f 1).getReg off := by
  unfold State.raise
  dsimp only
  split
  · exact State.getReg_congr rfl off
  · split
    · rw [State.getReg_signal]
      exact State.getReg_congr rfl off
    · exact State.getReg_congr rfl off

theorem State.getF_raise_self (s : State) (f : Fld) (h : f.lo + f.width ≤ 32) : (s.raise f).getF f = 1 % 2 ^ f.width :=
  (State.getF_eq_of_getReg (State.getReg_raise s f f.off)).trans (State.getF_setF_self s f 1 h)

theorem State.getF_raise_apart (s : State) {f g : Fld} (h : f.apart g = true) (hg : g.lo + g.width ≤ 32) : (s.raise f).getF g = s.getF g :=
  (State.getF_eq_of_getReg (State.getReg_raise s f g.off)).trans (State.getF_setF_apart s 1 h hg)

/-- A counter field after it was raised (R15). -/
theorem State.getF_count_self (s : State) (f : Fld) (n : Nat) (h : f.lo + f.width ≤ 32) :
    (s.count f n).getF f = satAdd (2 ^ f.width - 1) (s.getF f) n := by
  unfold State.count
  rw [State.getF_setF_self _ _ _ h, Nat.mod_eq_of_lt]
  have hp : 0 < 2 ^ f.width := Nat.two_pow_pos _
  unfold satAdd
  split <;> omega

theorem State.getF_count_apart (s : State) {f g : Fld} (n : Nat) (h : f.apart g = true) (hg : g.lo + g.width ≤ 32) :
    (s.count f n).getF g = s.getF g := State.getF_setF_apart _ _ h hg

/-- A counter register after it was raised (R15). -/
theorem State.getReg_countReg_self (s : State) (off n : Nat) :
    (s.countReg off n).getReg off = w32 (satAdd (2 ^ 32 - 1) (s.getReg off).toNat n) := State.getReg_setReg_self _ _ _

theorem State.getReg_countReg_ne (s : State) {off off' : Nat} (n : Nat) (h : off ≠ off') : (s.countReg off n).getReg off' = s.getReg off' :=
  State.getReg_setReg_ne _ _ h

end Machine
end Sys2Proof
end

