-- ==== Sys2Proof/Laws/HostWrite.lean ====
section
/-! SUPPORT. Laws/HostWrite.lean: what a register holds after a host write of it. -/
namespace Sys2Proof

/-- A bit of a mask of bit numbers. -/
theorem testBit_maskOf_fold (is : List Nat) (m i : Nat) :
    (is.foldl (fun acc j => acc ||| (1 <<< j)) m).testBit i = (m.testBit i || is.contains i) := by
  induction is generalizing m with
  | nil => simp
  | cons j is ih =>
    rw [List.foldl_cons, ih, Nat.testBit_or, Nat.one_shiftLeft, Nat.testBit_two_pow]
    simp only [List.contains_cons, Bool.or_assoc, BEq.comm (a := i)]
    congr 1

theorem testBit_maskOf (is : List Nat) (i : Nat) : (maskOf is).testBit i = is.contains i := by
  unfold maskOf
  rw [testBit_maskOf_fold]
  simp

end Sys2Proof

namespace Sys2Proof.Machine

/-- The error registers of the host interface, which a write in error may change beside the register written. -/
def errorRegs : List Nat := [Reg.HIF_ERR_STATUS, Reg.HIF_ERR_WHERE, Reg.HIF_ERR_COUNT, Reg.HIF_INT_STATUS]

/-- A recorded error touches no register but those of the error status. -/
theorem State.getReg_recordErr (s : State) (f : Fld) (bar off o : Nat) (hf : f.off = Reg.HIF_ERR_STATUS) (ho : o ∉ errorRegs) :
    (s.recordErr f bar off).getReg o = s.getReg o := by
  simp only [errorRegs, List.mem_cons, List.not_mem_nil, or_false, not_or] at ho
  obtain ⟨a1, a2, a3, a4⟩ := ho
  unfold State.recordErr
  extract_lets first gained A B C D
  have hr : ∀ (t : State) (b : Bool), (t.raiseIf b Fld.HIF_INT_STATUS_ERROR).getReg o = t.getReg o := by
    intro t b
    unfold State.raiseIf
    split
    · rw [State.getReg_raise]
      exact State.getReg_setF_ne _ _ (Ne.symm a4)
    · rfl
  rw [hr, State.getReg_countReg_ne _ _ (Ne.symm a3)]
  have hn : ((C.setF f 1).noteSet f).getReg o = (C.setF f 1).getReg o := State.getReg_congr rfl o
  rw [hn, State.getReg_setF_ne _ _ (by rw [hf]; exact Ne.symm a1)]
  change (if first = true then s.setReg Reg.HIF_ERR_WHERE (w32 (off / 4 * 4 + bar)) else s).getReg o = s.getReg o
  split
  · exact State.getReg_setReg_ne _ _ (Ne.symm a2)
  · rfl

/-- A register of the index lies outside the windows of the interrupt vectors. -/
theorem regRow_apart {off : Nat} {row : RegRow} (h : regRow off = some row) :
    ¬ (0x8000 ≤ off ∧ off < 0x8400) ∧ ¬ (off = 0x9000 ∨ off = 0x9004) := by
  have hh : off < 0x10000 → off < 0x2C := by
    intro hl
    unfold regRow regRowsAt at h
    rw [if_pos hl] at h
    have hc := List.find?_some h
    have hm := List.mem_of_find?_eq_some h
    have hall : ∀ r ∈ regRowsHif, r.count = 1 ∧ r.stride = 4 ∧ r.off ≤ 0x28 := by decide
    obtain ⟨b1, b2, b3⟩ := hall row hm
    unfold RegRow.covers at hc
    simp only [b1, b2, Bool.and_eq_true, decide_eq_true_eq] at hc
    omega
  constructor <;> intro hx <;> omega

/-- What a register holds after a host write of it: the value by its access codes, with the reserved encodings of R391 and R509 held, or what it
held where a level-4 reset does not serve it. -/
theorem State.getReg_writeReg (s : State) (off : Nat) (v : Word) (same : Bool) (row : RegRow) (hr : regRow off = some row) :
    (s.writeReg off v same).getReg off = if s.resetLevel = 4 ∧ ¬ servedInLevel4 off then s.getReg off
      else (throttleHeld off (s.getReg off)
        (regWriteValue row (s.getReg off) v (if same then w32 (maskOf ((s.hif.sets.filter fun x => x.1 == off).map (·.2))) else 0)).1).1 := by
  obtain ⟨hm, hp⟩ := regRow_apart hr
  unfold State.writeReg
  rw [if_neg hm, if_neg hp, hr]
  dsimp only
  split
  · rename_i hx
    refine State.getReg_recordErr _ _ _ _ _ rfl fun hmem => ?_
    have : servedInLevel4 off = true := by
      simp only [errorRegs, List.mem_cons, List.not_mem_nil, or_false] at hmem
      rcases hmem with rfl | rfl | rfl | rfl <;> decide
    exact hx.2 this
  · have hs : ∀ (A : State) (c : Prop) [Decidable c] (n : Nat), (if c then A.signal n else A).getReg off = A.getReg off := by
      intro A c _ n
      split
      · exact State.getReg_signal _ _ _
      · rfl
    rw [hs]
    by_cases hmem : off ∈ errorRegs
    · have hz : (∀ x : Word, (regWriteValue row (s.getReg off) v x).2 = false) ∧ ∀ y : Word, (throttleHeld off (s.getReg off) y).2 = false := by
        simp only [errorRegs, List.mem_cons, List.not_mem_nil, or_false] at hmem
        have hrow : row.lims = [] := by
          rcases hmem with rfl | rfl | rfl | rfl <;> (cases hr; rfl)
        constructor
        · intro x
          unfold regWriteValue
          rw [hrow]
          rfl
        · intro y
          unfold throttleHeld
          rw [if_neg, if_neg]
          · rcases hmem with rfl | rfl | rfl | rfl <;> exact fun h => absurd h.1 (by decide)
          · rcases hmem with rfl | rfl | rfl | rfl <;> exact fun h => absurd h.1 (by decide)
      rw [hz.1, hz.2]
      exact (State.getReg_congr rfl off).trans (State.getReg_setReg_self _ _ _)
    · have he : ∀ (A : State) (b : Bool), (if b then A.recordErr Fld.HIF_ERR_STATUS_ENCODING 0 off else A).getReg off = A.getReg off := by
        intro A b
        split
        · exact State.getReg_recordErr _ _ _ _ _ rfl hmem
        · rfl
      rw [he]
      exact (State.getReg_congr rfl off).trans (State.getReg_setReg_self _ _ _)

end Sys2Proof.Machine
end

