-- ==== Sys2Proof/Laws/KeptOps.lean ====
section
/-! SUPPORT. Laws/KeptOps.lean: each operation of Machine/Ops.lean keeps the queue and the invariant. -/
namespace Sys2Proof.Machine

theorem State.fresh_kept {qu : List Instr} {F : Nat} {o : State} {s : State} (hF : 0x2 ||| F = F) (hk : State.Kept qu F o s) : State.Kept qu F o (State.fresh s).2 := by
  unfold State.fresh
  dsimp only
  refine State.kept_freeCtr (bit_of hF rfl) ?_
  with_reducible assumption

theorem State.noteSet_kept {qu : List Instr} {F : Nat} {o : State} {s : State} {f : Fld} (hF : 0x8 ||| F = F) (hk : State.Kept qu F o s) : State.Kept qu F o (State.noteSet s f) := by
  unfold State.noteSet
  refine State.kept_hif (bit_of hF rfl) ?_ rfl
  with_reducible assumption

theorem State.endCycle_kept {qu : List Instr} {F : Nat} {o : State} {s : State} (hF : 0x18 ||| F = F) (hk : State.Kept qu F o s) : State.Kept qu F o (State.endCycle s) := by
  unfold State.endCycle
  refine State.kept_with ?_ (by constructor <;> first | exact fun _ => rfl | exact fun _ _ => rfl | exact fun h => absurd (h.symm.trans (bit_of hF rfl)) Bool.false_ne_true) rfl rfl rfl
  with_reducible assumption

theorem State.openCycle_kept {qu : List Instr} {F : Nat} {o : State} {s : State} (hF : 0x18 ||| F = F) (hk : State.Kept qu F o s) : State.Kept qu F o (State.openCycle s) := by
  unfold State.openCycle
  refine State.kept_with ?_ (by constructor <;> first | exact fun _ => rfl | exact fun _ _ => rfl | exact fun h => absurd (h.symm.trans (bit_of hF rfl)) Bool.false_ne_true) rfl rfl rfl
  with_reducible assumption

theorem State.renew_kept {qu : List Instr} {F : Nat} {o : State} {s : State} {f : Fld} {act : State → State} (hF : 0xffffffff00000008 ||| F = F) (hk : State.Kept qu F o s) (h_act : ∀ a0, State.Kept qu F o a0 → State.Kept qu F o (act a0)) : State.Kept qu F o (State.renew s f act) := by
  unfold State.renew
  refine State.kept_ite (fun _ => ?_) (fun _ => ?_)
  · apply h_act
    refine State.setF_kept (bit_all hF rfl) ?_
    refine State.kept_hif (bit_of hF rfl) ?_ rfl
    with_reducible assumption
  · with_reducible assumption

theorem State.recordErr_kept {qu : List Instr} {F : Nat} {o s : State} {f : Fld} {bar off : Nat} (hF : 0x100000009 ||| F = F) (hb : F.testBit (32 + regBlock f.off) = true) (hk : State.Kept qu F o s) :
    State.Kept qu F o (s.recordErr f bar off) := by
  unfold State.recordErr
  extract_lets first gained s1 hif s2 s3
  have h1 : State.Kept qu F o s1 := State.kept_ite (fun _ => State.setReg_kept (bit_of hF rfl) hk) (fun _ => hk)
  have h2 : State.Kept qu F o s2 := State.kept_hif (bit_of hF rfl) h1 rfl
  exact State.raiseIf_kept (sub_of hF rfl) (bit_of hF rfl) (State.countReg_kept (bit_of hF rfl) (State.noteSet_kept (sub_of hF rfl) (State.setF_kept hb h2)))

theorem State.dmaErr_kept {qu : List Instr} {F : Nat} {o : State} {s : State} {win kind : Nat} (hF : 0x100000009 ||| F = F) (hk : State.Kept qu F o s) : State.Kept qu F o (State.dmaErr s win kind) := by
  unfold State.dmaErr
  extract_lets +onlyGivenNames v80
  clear_value v80
  extract_lets +onlyGivenNames v79
  extract_lets +onlyGivenNames v78
  have hv78 : State.Kept qu F o v78 := by
    unfold v78
    refine State.kept_hif (bit_of hF rfl) ?_ rfl
    with_reducible assumption
  clear_value v78
  extract_lets +onlyGivenNames v77
  have hv77 : State.Kept qu F o v77 := by
    unfold v77
    refine State.setF_kept (bit_of hF rfl) ?_
    refine State.setF_kept (bit_of hF rfl) ?_
    refine State.noteSet_kept (sub_of hF rfl) ?_
    refine State.setF_kept (bit_of hF rfl) ?_
    with_reducible assumption
  clear_value v77
  refine State.raiseIf_kept (sub_of hF rfl) (bit_of hF rfl) ?_
  with_reducible assumption

theorem State.setPeriod_kept {qu : List Instr} {F : Nat} {o : State} {s : State} {flash us : Nat} (hF : 0x4 ||| F = F) (hk : State.Kept qu F o s) : State.Kept qu F o (State.setPeriod s flash us) := by
  unfold State.setPeriod
  refine State.kept_ite (fun _ => ?_) (fun _ => ?_)
  · with_reducible assumption
  · refine State.kept_tim (bit_of hF rfl) ?_
    with_reducible assumption

theorem State.onStage_kept {qu : List Instr} {F : Nat} {o : State} {s : State} {id : StageId} {f : Stage → Stage} (hF : 0x10 ||| F = F) (hk : State.Kept qu F o s) : State.Kept qu F o (State.onStage s id f) := by
  unfold State.onStage
  refine State.kept_work (bit_of hF rfl) ?_
  with_reducible assumption

theorem State.stageInput_kept {qu : List Instr} {F : Nat} {o : State} {s : State} {id : StageId} {job : Job} (hF : 0x10 ||| F = F) (hk : State.Kept qu F o s) : State.Kept qu F o (State.stageInput s id job) := by
  unfold State.stageInput
  refine State.onStage_kept (sub_of hF rfl) ?_
  with_reducible assumption

theorem State.stageResult_kept {qu : List Instr} {F : Nat} {o : State} {s : State} {id : StageId} {job : Job} (hF : 0x10 ||| F = F) (hk : State.Kept qu F o s) : State.Kept qu F o (State.stageResult s id job) := by
  unfold State.stageResult
  refine State.onStage_kept (sub_of hF rfl) ?_
  with_reducible assumption

theorem State.onEngine_kept {qu : List Instr} {F : Nat} {o : State} {s : State} {id : Nat} {f : Engine → Engine} (hF : 0x4000 ||| F = F) (hk : State.Kept qu F o s) : State.Kept qu F o (State.onEngine s id f) := by
  unfold State.onEngine
  refine State.kept_rst (bit_of hF rfl) ?_
  with_reducible assumption

theorem State.progress_kept {qu : List Instr} {F : Nat} {o : State} {s : State} {id : Nat} (hF : 0x4000 ||| F = F) (hk : State.Kept qu F o s) : State.Kept qu F o (State.progress s id) := by
  unfold State.progress
  refine State.onEngine_kept (sub_of hF rfl) ?_
  with_reducible assumption

theorem State.complete_kept {qu : List Instr} {F : Nat} {o : State} {s : State} {w : Nat} {error reason : Nat} {results : List Word} {unmirrored : Bool} (hF : 0x4009 ||| F = F) (hk : State.Kept qu F o s) : State.Kept qu F o (State.complete s w error reason results unmirrored) := by
  unfold State.complete
  refine State.kept_ite (fun _ => ?_) (fun _ => ?_)
  · extract_lets +onlyGivenNames v79
    clear_value v79
    extract_lets +onlyGivenNames v78
    have hv78 : State.Kept qu F o v78 := by
      unfold v78
      refine State.onWindow_kept (sub_of hF rfl) ?_
      with_reducible assumption
    clear_value v78
    extract_lets +onlyGivenNames v77
    have hv77 : State.Kept qu F o v77 := by
      unfold v77
      refine State.progress_kept (sub_of hF rfl) ?_
      with_reducible assumption
    clear_value v77
    refine State.kept_ite (fun _ => ?_) (fun _ => ?_)
    · refine State.signal_kept (sub_of hF rfl) ?_
      with_reducible assumption
    · with_reducible assumption
  · with_reducible assumption

theorem State.completeAfter_kept {qu : List Instr} {F : Nat} {o : State} {s : State} {w delta slice : Nat} {results : List Word} (hF : 0x8 ||| F = F) (hk : State.Kept qu F o s) : State.Kept qu F o (State.completeAfter s w delta slice results) := by
  unfold State.completeAfter
  refine State.kept_hif (bit_of hF rfl) ?_ rfl
  with_reducible assumption

theorem State.releaseWaits_kept {qu : List Instr} {F : Nat} {o : State} {s : State} {p : Wait → Bool} {unmirrored : Bool} (hF : 0x4009 ||| F = F) (hk : State.Kept qu F o s) : State.Kept qu F o (State.releaseWaits s p unmirrored) := by
  unfold State.releaseWaits
  extract_lets +onlyGivenNames v80
  clear_value v80
  extract_lets +onlyGivenNames v79
  extract_lets +onlyGivenNames v78
  have hv78 : State.Kept qu F o v78 := by
    unfold v78
    refine State.kept_hif (bit_of hF rfl) ?_ rfl
    with_reducible assumption
  clear_value v78
  refine State.kept_foldl ?_ ?_
  · with_reducible assumption
  · intro s76 x75 h74
    refine State.complete_kept (sub_of hF rfl) ?_
    with_reducible assumption

theorem State.refuse_kept {qu : List Instr} {F : Nat} {o : State} {s : State} {w error reason : Nat} (hF : 0x4009 ||| F = F) (hk : State.Kept qu F o s) : State.Kept qu F o (State.refuse s w error reason) := by
  unfold State.refuse
  refine State.complete_kept (sub_of hF rfl) ?_
  with_reducible assumption

end Sys2Proof.Machine
end

