-- ==== Sys2Proof/Laws/KeptLogOps.lean ====
section
/-! SUPPORT. Laws/KeptLogOps.lean: each operation of Machine/LogOps.lean keeps the queue and the invariant. -/
namespace Sys2Proof.Machine

theorem State.showStage_kept {qu : List Instr} {F : Nat} {o : State} {s : State} (hF : 0x1000000000000 ||| F = F) (hk : State.Kept qu F o s) : State.Kept qu F o (State.showStage s) := by
  unfold State.showStage
  refine State.setF_kept (bit_of hF rfl) ?_
  with_reducible assumption

theorem State.stageRecord_kept {qu : List Instr} {F : Nat} {o : State} {s : State} {e : LogEvt} {submitted sample loc : Bool} (hF : 0x1000000024009 ||| F = F) (hk : State.Kept qu F o s) : State.Kept qu F o (State.stageRecord s e submitted sample loc) := by
  unfold State.stageRecord
  extract_lets +onlyGivenNames v80
  clear_value v80
  extract_lets +onlyGivenNames v79
  clear_value v79
  extract_lets +onlyGivenNames v78
  clear_value v78
  extract_lets +onlyGivenNames v77
  clear_value v77
  extract_lets +onlyGivenNames v76
  clear_value v76
  extract_lets +onlyGivenNames v75
  clear_value v75
  extract_lets +onlyGivenNames v74
  clear_value v74
  extract_lets +onlyGivenNames v73
  clear_value v73
  extract_lets +onlyGivenNames v72
  have hv72 : State.Kept qu F o v72 := by
    unfold v72
    refine State.kept_log (bit_of hF rfl) ?_
    with_reducible assumption
  clear_value v72
  extract_lets +onlyGivenNames v71
  have hv71 : State.Kept qu F o v71 := by
    unfold v71
    refine State.showStage_kept (sub_of hF rfl) ?_
    refine State.progress_kept (sub_of hF rfl) ?_
    with_reducible assumption
  clear_value v71
  refine State.raiseIf_kept (sub_of hF rfl) (bit_of hF rfl) ?_
  with_reducible assumption

theorem State.stageDropped_kept {qu : List Instr} {F : Nat} {o : State} {s : State} (hF : 0x1000000024009 ||| F = F) (hk : State.Kept qu F o s) : State.Kept qu F o (State.stageDropped s) := by
  unfold State.stageDropped
  refine State.kept_ite (fun _ => ?_) (fun _ => ?_)
  · with_reducible assumption
  · extract_lets +onlyGivenNames v79
    clear_value v79
    extract_lets +onlyGivenNames v78
    have hv78 : State.Kept qu F o v78 := by
      unfold v78
      refine State.stageRecord_kept (sub_of hF rfl) ?_
      with_reducible assumption
    clear_value v78
    refine State.kept_log (bit_of hF rfl) ?_
    with_reducible assumption

theorem State.takeLog_kept {qu : List Instr} {F : Nat} {o : State} {s : State} {e : LogEvt} {submitted sample loc : Bool} (hF : 0x1000000024009 ||| F = F) (hk : State.Kept qu F o s) : State.Kept qu F o (State.takeLog s e submitted sample loc) := by
  unfold State.takeLog
  split
  · extract_lets +onlyGivenNames v79
    have hv79 : State.Kept qu F o v79 := by
      unfold v79
      refine State.kept_log (bit_of hF rfl) ?_
      with_reducible assumption
    extract_lets +onlyGivenNames v78
    have hv78 : State.Kept qu F o v78 := by
      unfold v78
      refine State.kept_ite (fun _ => ?_) (fun _ => ?_)
      · refine State.kept_log (bit_of hF rfl) ?_
        with_reducible assumption
      · with_reducible assumption
    clear_value v78
    refine State.countReg_kept (bit_of hF rfl) ?_
    with_reducible assumption
  · extract_lets +onlyGivenNames v79
    clear_value v79
    extract_lets +onlyGivenNames v78
    clear_value v78
    extract_lets +onlyGivenNames v77
    refine State.kept_ite (fun _ => ?_) (fun _ => ?_)
    · refine State.stageRecord_kept (sub_of hF rfl) ?_
      refine State.kept_ite (fun _ => ?_) (fun _ => ?_)
      · with_reducible assumption
      · refine State.stageDropped_kept (sub_of hF rfl) ?_
        with_reducible assumption
    · extract_lets +onlyGivenNames v75
      have hv75 : State.Kept qu F o v75 := by
        unfold v75
        refine State.count_kept (bit_of hF rfl) ?_
        with_reducible assumption
      clear_value v75
      extract_lets +onlyGivenNames v74
      have hv74 : State.Kept qu F o v74 := by
        unfold v74
        refine State.kept_ite (fun _ => ?_) (fun _ => ?_)
        · refine State.count_kept (bit_of hF rfl) ?_
          with_reducible assumption
        · with_reducible assumption
      clear_value v74
      extract_lets +onlyGivenNames v73
      clear_value v73
      extract_lets +onlyGivenNames v72
      have hv72 : State.Kept qu F o v72 := by
        unfold v72
        refine State.kept_log (bit_of hF rfl) ?_
        with_reducible assumption
      clear_value v72
      refine State.raise_kept (sub_of hF rfl) (bit_of hF rfl) ?_
      with_reducible assumption

theorem State.takeAgain_kept {qu : List Instr} {F : Nat} {o : State} {s : State} {e : LogEvt} (hF : 0x1000000020000 ||| F = F) (hk : State.Kept qu F o s) : State.Kept qu F o (State.takeAgain s e) := by
  unfold State.takeAgain
  split
  · refine State.countReg_kept (bit_of hF rfl) ?_
    refine State.kept_log (bit_of hF rfl) ?_
    with_reducible assumption
  · with_reducible assumption

theorem State.logIn_kept {qu : List Instr} {F : Nat} {o : State} {s : State} {x : LogIn} (hF : 0x1000000024009 ||| F = F) (hk : State.Kept qu F o s) : State.Kept qu F o (State.logIn s x) := by
  unfold State.logIn
  split
  · refine State.kept_log (bit_of hF rfl) ?_
    with_reducible assumption
  · refine State.kept_ite (fun _ => ?_) (fun _ => ?_)
    · refine State.takeAgain_kept (sub_of hF rfl) ?_
      with_reducible assumption
    · refine State.takeLog_kept (sub_of hF rfl) ?_
      with_reducible assumption

theorem State.logEvt_kept {qu : List Instr} {F : Nat} {o : State} {s : State} {e : LogEvt} {submitted sample : Bool} (hF : 0x1000000024009 ||| F = F) (hk : State.Kept qu F o s) : State.Kept qu F o (State.logEvt s e submitted sample) := by
  unfold State.logEvt
  refine State.logIn_kept (sub_of hF rfl) ?_
  with_reducible assumption

theorem State.gatherLog_kept {qu : List Instr} {F : Nat} {o : State} {s : State} (hF : 0x20000 ||| F = F) (hk : State.Kept qu F o s) : State.Kept qu F o (State.gatherLog s) := by
  unfold State.gatherLog
  refine State.kept_log (bit_of hF rfl) ?_
  with_reducible assumption

theorem State.takeGathered_kept {qu : List Instr} {F : Nat} {o : State} {s : State} (hF : 0x1000000024009 ||| F = F) (hk : State.Kept qu F o s) : State.Kept qu F o (State.takeGathered s) := by
  unfold State.takeGathered
  split
  · refine State.kept_foldl ?_ ?_
    · refine State.kept_log (bit_of hF rfl) ?_
      with_reducible assumption
    · intro s78 x77 h76
      refine State.logIn_kept (sub_of hF rfl) ?_
      with_reducible assumption
  · with_reducible assumption

theorem State.logOwn_kept {qu : List Instr} {F : Nat} {o : State} {s : State} {code engine slice : Nat} {body : List Word} (hF : 0x1000000024009 ||| F = F) (hk : State.Kept qu F o s) : State.Kept qu F o (State.logOwn s code engine slice body) := by
  unfold State.logOwn
  refine State.logEvt_kept (sub_of hF rfl) ?_
  with_reducible assumption

theorem State.logAgain_kept {qu : List Instr} {F : Nat} {o : State} {s : State} {code engine slice : Nat} {body : List Word} (hF : 0x1000000024009 ||| F = F) (hk : State.Kept qu F o s) : State.Kept qu F o (State.logAgain s code engine slice body) := by
  unfold State.logAgain
  refine State.logIn_kept (sub_of hF rfl) ?_
  with_reducible assumption

theorem State.onPort_kept {qu : List Instr} {F : Nat} {o : State} {s : State} {n : Nat} {f : Port → Port} (hF : 0x40 ||| F = F) (hk : State.Kept qu F o s) : State.Kept qu F o (State.onPort s n f) := by
  unfold State.onPort
  refine State.kept_link (bit_of hF rfl) ?_
  with_reducible assumption

theorem State.refusePacket_kept {qu : List Instr} {F : Nat} {o : State} {s : State} {port : Nat} {h : Hdr} {reason : Nat} (hF : 0x1000000024049 ||| F = F) (hk : State.Kept qu F o s) : State.Kept qu F o (State.refusePacket s port h reason) := by
  unfold State.refusePacket
  extract_lets +onlyGivenNames v80
  have hv80 : State.Kept qu F o v80 := by
    unfold v80
    refine State.onPort_kept (sub_of hF rfl) ?_
    with_reducible assumption
  clear_value v80
  extract_lets +onlyGivenNames v79
  have hv79 : State.Kept qu F o v79 := by
    unfold v79
    refine State.send_kept (sub_of hF rfl) ?_
    with_reducible assumption
  clear_value v79
  refine State.logOwn_kept (sub_of hF rfl) ?_
  with_reducible assumption

end Sys2Proof.Machine
end

