-- ==== Sys2Proof/Laws/KeptHostOps.lean ====
section
/-! SUPPORT. Laws/KeptHostOps.lean: each operation of Machine/HostOps.lean keeps the queue and the invariant. -/
namespace Sys2Proof.Machine

theorem State.writeCmdWord_kept {qu : List Instr} {F : Nat} {o : State} {s : State} {w i : Nat} {v : Word} (hF : 0x100000009 ||| F = F) (hk : State.Kept qu F o s) : State.Kept qu F o (State.writeCmdWord s w i v) := by
  unfold State.writeCmdWord
  refine State.kept_ite (fun _ => ?_) (fun _ => ?_)
  · refine State.recordErr_kept (sub_of hF rfl) (bit_of hF rfl) ?_
    with_reducible assumption
  · refine State.onWindow_kept (sub_of hF rfl) ?_
    with_reducible assumption

theorem State.commit_kept {qu : List Instr} {F : Nat} {o : State} {s : State} {w : Nat} {seq : BitVec 16} (hF : 0x100004008 ||| F = F) (hk : State.Kept qu F o s) : State.Kept qu F o (State.commit s w seq) := by
  unfold State.commit
  extract_lets +onlyGivenNames v80
  have hv80 : State.Kept qu F o v80 := by
    unfold v80
    refine State.onWindow_kept (sub_of hF rfl) ?_
    with_reducible assumption
  clear_value v80
  refine State.progress_kept (sub_of hF rfl) ?_
  refine State.countReg_kept (bit_of hF rfl) ?_
  with_reducible assumption

theorem State.writeSeqIdle_kept {qu : List Instr} {F : Nat} {o : State} {s : State} {w : Nat} (hF : 0x100000009 ||| F = F) (hk : State.Kept qu F o s) : State.Kept qu F o (State.writeSeqIdle s w) := by
  unfold State.writeSeqIdle
  refine State.kept_ite (fun _ => ?_) (fun _ => ?_)
  · refine State.recordErr_kept (sub_of hF rfl) (bit_of hF rfl) ?_
    with_reducible assumption
  · with_reducible assumption

theorem State.issue_kept {qu : List Instr} {F : Nat} {o : State} {s : State} {c : HostCmd} {opcode : Nat} {run : Nat → State → State} (hF : 0x100004009 ||| F = F) (hk : State.Kept qu F o s) (h_run : ∀ a0 a1, State.Kept qu F o a1 → State.Kept qu F o (run a0 a1)) : State.Kept qu F o (State.issue s c opcode run) := by
  unfold State.issue
  refine State.kept_ite (fun _ => ?_) (fun _ => ?_)
  · with_reducible assumption
  · extract_lets +onlyGivenNames v79
    clear_value v79
    extract_lets +onlyGivenNames v78
    clear_value v78
    extract_lets +onlyGivenNames v77
    have hv77 : State.Kept qu F o v77 := by
      unfold v77
      refine State.kept_foldl ?_ ?_
      · with_reducible assumption
      · intro s75 x74 h73
        refine State.writeCmdWord_kept (sub_of hF rfl) ?_
        with_reducible assumption
    clear_value v77
    refine State.kept_ite (fun _ => ?_) (fun _ => ?_)
    · apply h_run
      refine State.commit_kept (sub_of hF rfl) ?_
      with_reducible assumption
    · refine State.writeSeqIdle_kept (sub_of hF rfl) ?_
      with_reducible assumption

theorem State.startDma_kept {qu : List Instr} {F : Nat} {o : State} {s : State} {w : Nat} {purpose : DmaFor} {addr : Nat} {len : Nat} {undo : State → State} (hF : 0x100004009 ||| F = F) (hk : State.Kept qu F o s) (h_undo : ∀ a0, State.Kept qu F o a0 → State.Kept qu F o (undo a0)) : State.Kept qu F o (State.startDma s w purpose addr len undo) := by
  unfold State.startDma
  refine State.kept_ite (fun _ => ?_) (fun _ => ?_)
  · extract_lets +onlyGivenNames v79
    clear_value v79
    refine State.send_kept (sub_of hF rfl) ?_
    refine State.kept_hif (bit_of hF rfl) ?_ rfl
    with_reducible assumption
  · refine State.refuse_kept (sub_of hF rfl) ?_
    apply h_undo
    refine State.dmaErr_kept (sub_of hF rfl) ?_
    with_reducible assumption

theorem State.dmaWrite_kept {qu : List Instr} {F : Nat} {o : State} {s : State} {addr : Nat} {words : List Word} (hF : 0x1 ||| F = F) (hk : State.Kept qu F o s) : State.Kept qu F o (State.dmaWrite s addr words) := by
  unfold State.dmaWrite
  refine State.send_kept (sub_of hF rfl) ?_
  with_reducible assumption

theorem State.takeDma_kept {qu : List Instr} {F : Nat} {o : State} {s : State} {k : Nat} (hF : 0x8 ||| F = F) (hk : State.Kept qu F o s) : State.Kept qu F o (State.takeDma s k).2 := by
  unfold State.takeDma
  dsimp only
  refine State.kept_hif (bit_of hF rfl) ?_ rfl
  with_reducible assumption

theorem State.writeMsix_kept {qu : List Instr} {F : Nat} {o : State} {s : State} {off : Nat} {v : Word} (hF : 0x9 ||| F = F) (hk : State.Kept qu F o s) : State.Kept qu F o (State.writeMsix s off v) := by
  unfold State.writeMsix
  extract_lets +onlyGivenNames v80
  clear_value v80
  extract_lets +onlyGivenNames v79
  clear_value v79
  extract_lets +onlyGivenNames v78
  clear_value v78
  extract_lets +onlyGivenNames v77
  have hv77 : State.Kept qu F o v77 := by
    unfold v77
    refine State.onVec_kept (sub_of hF rfl) ?_
    with_reducible assumption
  clear_value v77
  refine State.kept_ite (fun _ => ?_) (fun _ => ?_)
  · refine State.signal_kept (sub_of hF rfl) ?_
    refine State.onVec_kept (sub_of hF rfl) ?_
    with_reducible assumption
  · with_reducible assumption

theorem State.writeReg_kept {qu : List Instr} {F : Nat} {o : State} {s : State} {off : Nat} {v : Word} {same : Bool} (hF : 0xffffffff00000009 ||| F = F) (hk : State.Kept qu F o s) : State.Kept qu F o (State.writeReg s off v same) := by
  unfold State.writeReg
  refine State.kept_ite (fun _ => ?_) (fun _ => ?_)
  · refine State.writeMsix_kept (sub_of hF rfl) ?_
    with_reducible assumption
  · refine State.kept_ite (fun _ => ?_) (fun _ => ?_)
    · with_reducible assumption
    · split
      · refine State.recordErr_kept (sub_of hF rfl) (bit_of hF rfl) ?_
        with_reducible assumption
      · refine State.kept_ite (fun _ => ?_) (fun _ => ?_)
        · refine State.recordErr_kept (sub_of hF rfl) (bit_of hF rfl) ?_
          with_reducible assumption
        · extract_lets +onlyGivenNames v76
          clear_value v76
          extract_lets +onlyGivenNames v75
          clear_value v75
          extract_lets +onlyGivenNames v74
          clear_value v74
          extract_lets +onlyGivenNames v73
          have hv73 : State.Kept qu F o v73 := by
            unfold v73
            refine State.setReg_kept (bit_all hF rfl) ?_
            with_reducible assumption
          clear_value v73
          extract_lets +onlyGivenNames v72
          clear_value v72
          extract_lets +onlyGivenNames v71
          extract_lets +onlyGivenNames v70
          have hv70 : State.Kept qu F o v70 := by
            unfold v70
            refine State.kept_hif (bit_of hF rfl) ?_ rfl
            with_reducible assumption
          clear_value v70
          extract_lets +onlyGivenNames v69
          have hv69 : State.Kept qu F o v69 := by
            unfold v69
            refine State.kept_ite (fun _ => ?_) (fun _ => ?_)
            · refine State.recordErr_kept (sub_of hF rfl) (bit_of hF rfl) ?_
              with_reducible assumption
            · with_reducible assumption
          clear_value v69
          extract_lets +onlyGivenNames v68
          clear_value v68
          refine State.kept_ite (fun _ => ?_) (fun _ => ?_)
          · refine State.signal_kept (sub_of hF rfl) ?_
            with_reducible assumption
          · with_reducible assumption

theorem State.dropLatch_kept {qu : List Instr} {F : Nat} {o : State} {s : State} {off : Nat} (hF : 0x8 ||| F = F) (hk : State.Kept qu F o s) : State.Kept qu F o (State.dropLatch s off) := by
  unfold State.dropLatch
  refine State.kept_hif (bit_of hF rfl) ?_ rfl
  with_reducible assumption

end Sys2Proof.Machine
end

