-- ==== Sys2Proof/Laws/KeptRouteOps.lean ====
section
/-! SUPPORT. Laws/KeptRouteOps.lean: each operation of Machine/RouteOps.lean keeps the queue and the invariant. -/
namespace Sys2Proof.Machine

theorem State.onSlice_kept {qu : List Instr} {F : Nat} {o : State} {s : State} {id : Nat} {f : SliceRec → SliceRec} (hF : 0x200 ||| F = F) (hk : State.Kept qu F o s) : State.Kept qu F o (State.onSlice s id f) := by
  unfold State.onSlice
  refine State.kept_slc (bit_of hF rfl) ?_
  with_reducible assumption

end Sys2Proof.Machine
end

