-- ==== Sys2Proof/Laws/KeptSendOps.lean ====
section
/-! SUPPORT. Laws/KeptSendOps.lean: each operation of Machine/SendOps.lean keeps the queue and the invariant. -/
namespace Sys2Proof.Machine

theorem State.enqueue_kept {qu : List Instr} {F : Nat} {o : State} {s : State} {port : Nat} {p : Packet} (hF : 0x40 ||| F = F) (hk : State.Kept qu F o s) : State.Kept qu F o (State.enqueue s port p) := by
  unfold State.enqueue
  refine State.onPort_kept (sub_of hF rfl) ?_
  with_reducible assumption

theorem State.received_kept {qu : List Instr} {F : Nat} {o : State} {s : State} {port : Nat} {h : Hdr} (hF : 0x40 ||| F = F) (hk : State.Kept qu F o s) : State.Kept qu F o (State.received s port h) := by
  unfold State.received
  extract_lets +onlyGivenNames v80
  clear_value v80
  extract_lets +onlyGivenNames v79
  refine State.onPort_kept (sub_of hF rfl) ?_
  with_reducible assumption

theorem State.returnCredits_kept {qu : List Instr} {F : Nat} {o : State} {s : State} {port : Nat} {h : Hdr} (hF : 0x1 ||| F = F) (hk : State.Kept qu F o s) : State.Kept qu F o (State.returnCredits s port h) := by
  unfold State.returnCredits
  refine State.send_kept (sub_of hF rfl) ?_
  with_reducible assumption

theorem State.refused_kept {qu : List Instr} {F : Nat} {o : State} {s : State} {port : Nat} {h : Hdr} (hF : 0x1000000024049 ||| F = F) (hk : State.Kept qu F o s) :
    ∀ t, s.refused port h = some t → State.Kept qu F o t := by
  intro t ht
  simp only [State.refused] at ht
  split at ht
  · cases ht
    refine State.returnCredits_kept (sub_of hF rfl) ?_
    refine State.onPort_kept (sub_of hF rfl) ?_
    with_reducible assumption
  · split at ht
    · cases ht
    · cases ht
      refine State.refusePacket_kept (sub_of hF rfl) ?_
      with_reducible assumption

theorem State.staleGen_kept {qu : List Instr} {F : Nat} {o : State} {s : State} {port : Nat} {h : Hdr} (hF : 0x41 ||| F = F) (hk : State.Kept qu F o s) : State.Kept qu F o (State.staleGen s port h) := by
  unfold State.staleGen
  refine State.returnCredits_kept (sub_of hF rfl) ?_
  refine State.kept_link (bit_of hF rfl) ?_
  with_reducible assumption

theorem State.hopMsg_kept {qu : List Instr} {F : Nat} {o : State} {s : State} {dest src : Addr} {m : KMsg} (hF : 0x40 ||| F = F) (hk : State.Kept qu F o s) : State.Kept qu F o (State.hopMsg s dest src m) := by
  unfold State.hopMsg
  split
  · refine State.enqueue_kept (sub_of hF rfl) ?_
    with_reducible assumption
  · with_reducible assumption

theorem State.tell_kept {qu : List Instr} {F : Nat} {o : State} {s : State} {dest : Addr} {m : KMsg} (hF : 0x41 ||| F = F) (hk : State.Kept qu F o s) : State.Kept qu F o (State.tell s dest m) := by
  unfold State.tell
  refine State.kept_ite (fun _ => ?_) (fun _ => ?_)
  · with_reducible assumption
  · refine State.kept_ite (fun _ => ?_) (fun _ => ?_)
    · refine State.send_kept (sub_of hF rfl) ?_
      with_reducible assumption
    · refine State.hopMsg_kept (sub_of hF rfl) ?_
      with_reducible assumption

theorem State.tellHead_kept {qu : List Instr} {F : Nat} {o : State} {s : State} {m : KMsg} (hF : 0x41 ||| F = F) (hk : State.Kept qu F o s) : State.Kept qu F o (State.tellHead s m) := by
  unfold State.tellHead
  refine State.tell_kept (sub_of hF rfl) ?_
  with_reducible assumption

theorem State.tellAll_kept {qu : List Instr} {F : Nat} {o : State} {s : State} {m : KMsg} (hF : 0x41 ||| F = F) (hk : State.Kept qu F o s) : State.Kept qu F o (State.tellAll s m) := by
  unfold State.tellAll
  refine State.kept_foldl_range ?_ ?_
  · with_reducible assumption
  · intro s79 x78 x77 h76
    refine State.tell_kept (sub_of hF rfl) ?_
    with_reducible assumption

theorem State.forward_kept {qu : List Instr} {F : Nat} {o : State} {s : State} {src : Addr} {m : KMsg} (hF : 0x40 ||| F = F) (hk : State.Kept qu F o s) : State.Kept qu F o (State.forward s src m) := by
  unfold State.forward
  refine State.kept_ite (fun _ => ?_) (fun _ => ?_)
  · with_reducible assumption
  · refine State.kept_foldl_range ?_ ?_
    · with_reducible assumption
    · intro s78 x77 x76 h75
      extract_lets +onlyGivenNames v74
      clear_value v74
      refine State.kept_ite (fun _ => ?_) (fun _ => ?_)
      · refine State.enqueue_kept (sub_of hF rfl) ?_
        with_reducible assumption
      · with_reducible assumption

theorem State.noteFlood_kept {qu : List Instr} {F : Nat} {o : State} {s : State} {m : KMsg} (hF : 0x40 ||| F = F) (hk : State.Kept qu F o s) : State.Kept qu F o (State.noteFlood s m) := by
  unfold State.noteFlood
  refine State.kept_link (bit_of hF rfl) ?_
  with_reducible assumption

theorem State.flood_kept {qu : List Instr} {F : Nat} {o : State} {s : State} {m : KMsg} (hF : 0x41 ||| F = F) (hk : State.Kept qu F o s) : State.Kept qu F o (State.flood s m) := by
  unfold State.flood
  refine State.kept_ite (fun _ => ?_) (fun _ => ?_)
  · refine State.send_kept (sub_of hF rfl) ?_
    refine State.forward_kept (sub_of hF rfl) ?_
    refine State.noteFlood_kept (sub_of hF rfl) ?_
    with_reducible assumption
  · with_reducible assumption

theorem State.firstFlood_kept {qu : List Instr} {F : Nat} {o : State} {s : State} {src : Addr} {m : KMsg} (hF : 0x40 ||| F = F) (hk : State.Kept qu F o s) : State.Kept qu F o (State.firstFlood s src m).2 := by
  unfold State.firstFlood
  rw [apply_ite Prod.snd]
  refine State.kept_ite (fun _ => ?_) (fun _ => ?_)
  · with_reducible assumption
  · dsimp only
    refine State.forward_kept (sub_of hF rfl) ?_
    refine State.noteFlood_kept (sub_of hF rfl) ?_
    with_reducible assumption

end Sys2Proof.Machine
end

