-- ==== Sys2Proof/Laws/KeptMgmtOps.lean ====
section
/-! SUPPORT. Laws/KeptMgmtOps.lean: each operation of Machine/MgmtOps.lean keeps the queue and the invariant. -/
namespace Sys2Proof.Machine

theorem State.sendMgmt_kept {qu : List Instr} {F : Nat} {o : State} {s : State} {op : MgmtOp} (hF : 0x40 ||| F = F) (hk : State.Kept qu F o s) : State.Kept qu F o (State.sendMgmt s op) := by
  unfold State.sendMgmt
  extract_lets +onlyGivenNames v80
  clear_value v80
  refine State.kept_ite (fun _ => ?_) (fun _ => ?_)
  · refine State.kept_foldl ?_ ?_
    · with_reducible assumption
    · intro s77 x76 h75
      refine State.enqueue_kept (sub_of hF rfl) ?_
      with_reducible assumption
  · refine State.enqueue_kept (sub_of hF rfl) ?_
    with_reducible assumption

theorem State.request_kept {qu : List Instr} {F : Nat} {o : State} {s : State} {agent : Addr} {write : Bool} {addr : Nat} {words : List Word} {count cls slice engine : Nat} {purpose : MgmtFor} (hF : 0xc0 ||| F = F) (hk : State.Kept qu F o s) : State.Kept qu F o (State.request s agent write addr words count cls slice engine purpose) := by
  unfold State.request
  refine State.kept_ite (fun _ => ?_) (fun _ => ?_)
  · extract_lets +onlyGivenNames v79
    clear_value v79
    extract_lets +onlyGivenNames v78
    clear_value v78
    refine State.sendMgmt_kept (sub_of hF rfl) ?_
    refine State.kept_mgmt (bit_of hF rfl) ?_
    with_reducible assumption
  · with_reducible assumption

theorem State.mgmtWrite_kept {qu : List Instr} {F : Nat} {o : State} {s : State} {agent : Addr} {addr : Nat} {words : List Word} {cls slice engine : Nat} {purpose : MgmtFor} (hF : 0xc0 ||| F = F) (hk : State.Kept qu F o s) : State.Kept qu F o (State.mgmtWrite s agent addr words cls slice engine purpose) := by
  unfold State.mgmtWrite
  refine State.request_kept (sub_of hF rfl) ?_
  with_reducible assumption

theorem State.mgmtRead_kept {qu : List Instr} {F : Nat} {o : State} {s : State} {agent : Addr} {addr count engine : Nat} {purpose : MgmtFor} (hF : 0xc0 ||| F = F) (hk : State.Kept qu F o s) : State.Kept qu F o (State.mgmtRead s agent addr count engine purpose) := by
  unfold State.mgmtRead
  refine State.request_kept (sub_of hF rfl) ?_
  with_reducible assumption

theorem State.mgmtAll_kept {qu : List Instr} {F : Nat} {o : State} {s : State} {agents : List Addr} {addr : Nat} {words : List Word} {cls slice engine : Nat} {purpose : MgmtFor} (hF : 0xc0 ||| F = F) (hk : State.Kept qu F o s) : State.Kept qu F o (State.mgmtAll s agents addr words cls slice engine purpose) := by
  unfold State.mgmtAll
  refine State.kept_foldl ?_ ?_
  · with_reducible assumption
  · intro s79 x78 h77
    refine State.mgmtWrite_kept (sub_of hF rfl) ?_
    with_reducible assumption

theorem State.broadcastTo_kept {qu : List Instr} {F : Nat} {o : State} {s : State} {index addr : Nat} {words : List Word} {cls : Nat} (hF : 0x40 ||| F = F) (hk : State.Kept qu F o s) : State.Kept qu F o (State.broadcastTo s index addr words cls) := by
  unfold State.broadcastTo
  refine State.kept_ite (fun _ => ?_) (fun _ => ?_)
  · extract_lets +onlyGivenNames v79
    clear_value v79
    refine State.sendMgmt_kept (sub_of hF rfl) ?_
    with_reducible assumption
  · with_reducible assumption

theorem State.broadcast_kept {qu : List Instr} {F : Nat} {o : State} {s : State} {addr : Nat} {words : List Word} {cls : Nat} (hF : 0x40 ||| F = F) (hk : State.Kept qu F o s) : State.Kept qu F o (State.broadcast s addr words cls) := by
  unfold State.broadcast
  refine State.broadcastTo_kept (sub_of hF rfl) ?_
  with_reducible assumption

theorem State.ackEvent_kept {qu : List Instr} {F : Nat} {o : State} {s : State} {ev : AgentEvent} (hF : 0x40 ||| F = F) (hk : State.Kept qu F o s) : State.Kept qu F o (State.ackEvent s ev) := by
  unfold State.ackEvent
  refine State.kept_ite (fun _ => ?_) (fun _ => ?_)
  · refine State.enqueue_kept (sub_of hF rfl) ?_
    with_reducible assumption
  · with_reducible assumption

theorem State.takeEvent_kept {qu : List Instr} {F : Nat} {o : State} {s : State} {ev : AgentEvent} (hF : 0xc0 ||| F = F) (hk : State.Kept qu F o s) : State.Kept qu F o (State.takeEvent s ev).2 := by
  unfold State.takeEvent
  extract_lets +onlyGivenNames v80
  have hv80 : State.Kept qu F o v80 := by
    unfold v80
    refine State.ackEvent_kept (sub_of hF rfl) ?_
    with_reducible assumption
  clear_value v80
  extract_lets +onlyGivenNames v79
  clear_value v79
  rw [apply_ite Prod.snd]
  refine State.kept_ite (fun _ => ?_) (fun _ => ?_)
  · with_reducible assumption
  · dsimp only
    refine State.kept_mgmt (bit_of hF rfl) ?_
    with_reducible assumption

theorem State.takeAgentEvent_kept {qu : List Instr} {F : Nat} {o : State} {s : State} {cls port : Nat} {p : Packet} {act : State → AgentEvent → State} (hF : 0x10000000240d9 ||| F = F) (hk : State.Kept qu F o s) (h_act : ∀ a0 a1, State.Kept qu F o a0 → State.Kept qu F o (act a0 a1)) : State.Kept qu F o (State.takeAgentEvent s cls port p act) := by
  unfold State.takeAgentEvent
  extract_lets +onlyGivenNames v80
  have hv80 : State.Kept qu F o v80 := by
    unfold v80
    refine State.received_kept (sub_of hF rfl) ?_
    with_reducible assumption
  clear_value v80
  split
  · rename_i n79_0 n79_1 n79_2
    have hn79_2 : State.Kept qu F o n79_1 := by
      refine State.refused_kept (sub_of hF rfl) ?_ _ n79_2
      with_reducible assumption
    with_reducible assumption
  · refine State.kept_ite (fun _ => ?_) (fun _ => ?_)
    · refine State.refusePacket_kept (sub_of hF rfl) ?_
      with_reducible assumption
    · extract_lets +onlyGivenNames v77
      clear_value v77
      extract_lets +onlyGivenNames v76
      have hv76 : State.Kept qu F o v76.2 := by
        unfold v76
        refine State.takeEvent_kept (sub_of hF rfl) ?_
        refine State.returnCredits_kept (sub_of hF rfl) ?_
        with_reducible assumption
      clear_value v76
      refine State.kept_ite (fun _ => ?_) (fun _ => ?_)
      · apply h_act
        refine State.stageInput_kept (sub_of hF rfl) ?_
        with_reducible assumption
      · with_reducible assumption

end Sys2Proof.Machine
end

