-- ==== Sys2Proof/Laws/KeptSliceOps.lean ====
section
/-! SUPPORT. Laws/KeptSliceOps.lean: each operation of Machine/SliceOps.lean keeps the queue and the invariant. -/
namespace Sys2Proof.Machine

theorem State.bindSeats_kept {qu : List Instr} {F : Nat} {o : State} {s : State} {id : Nat} {v : SliceView} (hF : 0x200 ||| F = F) (hk : State.Kept qu F o s) : State.Kept qu F o (State.bindSeats s id v) := by
  unfold State.bindSeats
  split
  · with_reducible assumption
  · refine State.kept_ite (fun _ => ?_) (fun _ => ?_)
    · with_reducible assumption
    · refine State.kept_foldl ?_ ?_
      · refine State.onSlice_kept (sub_of hF rfl) ?_
        with_reducible assumption
      · intro s77 x76 h75
        refine State.onSlice_kept (sub_of hF rfl) ?_
        with_reducible assumption

theorem State.sliceReply_kept {qu : List Instr} {F : Nat} {o : State} {s : State} {q : SliceReq} {reason epoch : Nat} (hF : 0x4000000249 ||| F = F) (hk : State.Kept qu F o s) : State.Kept qu F o (State.sliceReply s q reason epoch) := by
  unfold State.sliceReply
  extract_lets +onlyGivenNames v80
  clear_value v80
  extract_lets +onlyGivenNames v79
  have hv79 : State.Kept qu F o v79 := by
    unfold v79
    refine State.kept_slc (bit_of hF rfl) ?_
    with_reducible assumption
  clear_value v79
  extract_lets +onlyGivenNames v78
  have hv78 : State.Kept qu F o v78 := by
    unfold v78
    refine State.raiseIf_kept (sub_of hF rfl) (bit_of hF rfl) ?_
    with_reducible assumption
  clear_value v78
  extract_lets +onlyGivenNames v77
  clear_value v77
  extract_lets +onlyGivenNames v76
  clear_value v76
  refine State.tell_kept (sub_of hF rfl) ?_
  with_reducible assumption

theorem State.changeSlice_kept {qu : List Instr} {F : Nat} {o : State} {s : State} {id state : Nat} {chg : Nat × Option Layout} {issuer : Option (Nat × Nat)} (hF : 0x200 ||| F = F) (hk : State.Kept qu F o s) : State.Kept qu F o (State.changeSlice s id state chg issuer) := by
  unfold State.changeSlice
  split
  · refine State.onSlice_kept (sub_of hF rfl) ?_
    with_reducible assumption
  · refine State.kept_slc (bit_of hF rfl) ?_
    with_reducible assumption

theorem State.noteSlice_kept {qu : List Instr} {F : Nat} {o : State} {s : State} {id : Nat} (hF : 0x4000000009 ||| F = F) (hk : State.Kept qu F o s) : State.Kept qu F o (State.noteSlice s id) := by
  unfold State.noteSlice
  refine State.raiseIf_kept (sub_of hF rfl) (bit_of hF rfl) ?_
  with_reducible assumption

theorem State.takeSliceReq_kept {qu : List Instr} {F : Nat} {o : State} {s : State} {q : SliceReq} {l : Option Layout} (hF : 0x4000000349 ||| F = F) (hk : State.Kept qu F o s) : State.Kept qu F o (State.takeSliceReq s q l) := by
  unfold State.takeSliceReq
  extract_lets +onlyGivenNames v80
  clear_value v80
  extract_lets +onlyGivenNames v79
  clear_value v79
  extract_lets +onlyGivenNames v78
  have hv78 : State.Kept qu F o v78 := by
    unfold v78
    refine State.noteSlice_kept (sub_of hF rfl) ?_
    refine State.changeSlice_kept (sub_of hF rfl) ?_
    with_reducible assumption
  clear_value v78
  extract_lets +onlyGivenNames v77
  clear_value v77
  extract_lets +onlyGivenNames v76
  clear_value v76
  extract_lets +onlyGivenNames v75
  have hv75 : State.Kept qu F o v75 := by
    unfold v75
    refine State.kept_slv (bit_of hF rfl) ?_
    with_reducible assumption
  clear_value v75
  refine State.sliceReply_kept (sub_of hF rfl) ?_
  with_reducible assumption

theorem State.admitDrain_kept {qu : List Instr} {F : Nat} {o : State} {s : State} {q : SliceReq} (hF : 0x4000000249 ||| F = F) (hk : State.Kept qu F o s) : State.Kept qu F o (State.admitDrain s q) := by
  unfold State.admitDrain
  extract_lets +onlyGivenNames v80
  have hv80 : State.Kept qu F o v80 := by
    unfold v80
    refine State.noteSlice_kept (sub_of hF rfl) ?_
    refine State.onSlice_kept (sub_of hF rfl) ?_
    with_reducible assumption
  clear_value v80
  extract_lets +onlyGivenNames v79
  clear_value v79
  extract_lets +onlyGivenNames v78
  have hv78 : State.Kept qu F o v78 := by
    unfold v78
    refine State.kept_slc (bit_of hF rfl) ?_
    with_reducible assumption
  clear_value v78
  extract_lets +onlyGivenNames v77
  have hv77 : State.Kept qu F o v77 := by
    unfold v77
    refine State.sliceReply_kept (sub_of hF rfl) ?_
    with_reducible assumption
  clear_value v77
  refine State.flood_kept (sub_of hF rfl) ?_
  with_reducible assumption

theorem State.askProposal_kept {qu : List Instr} {F : Nat} {o : State} {s : State} {stage : StageId} {decision subject bound : Nat} (hF : 0x11 ||| F = F) (hk : State.Kept qu F o s) : State.Kept qu F o (State.askProposal s stage decision subject bound) := by
  unfold State.askProposal
  extract_lets +onlyGivenNames v80
  clear_value v80
  extract_lets +onlyGivenNames v79
  clear_value v79
  refine State.send_kept (sub_of hF rfl) ?_
  refine State.kept_work (bit_of hF rfl) ?_
  with_reducible assumption

theorem State.takeReq_kept {qu : List Instr} {F : Nat} {o : State} {s : State} {pub : Bool} {q : SliceReq} (hF : 0x4000000359 ||| F = F) (hk : State.Kept qu F o s) : State.Kept qu F o (State.takeReq s pub q).1 := by
  unfold State.takeReq
  extract_lets +onlyGivenNames v80
  clear_value v80
  extract_lets +onlyGivenNames v79
  have hv79 : State.Kept qu F o v79 := by
    unfold v79
    refine State.kept_slc (bit_of hF rfl) ?_
    with_reducible assumption
  clear_value v79
  extract_lets +onlyGivenNames v78
  extract_lets +onlyGivenNames v77
  clear_value v77
  rw [apply_ite Prod.fst]
  refine State.kept_ite (fun _ => ?_) (fun _ => ?_)
  · unfold v78
    rw [apply_ite Prod.fst]
    refine State.kept_ite (fun _ => ?_) (fun _ => ?_)
    · dsimp only
      refine State.sliceReply_kept (sub_of hF rfl) ?_
      with_reducible assumption
    · with_reducible assumption
  · rw [apply_ite Prod.fst]
    refine State.kept_ite (fun _ => ?_) (fun _ => ?_)
    · unfold v78
      rw [apply_ite Prod.fst]
      refine State.kept_ite (fun _ => ?_) (fun _ => ?_)
      · dsimp only
        refine State.sliceReply_kept (sub_of hF rfl) ?_
        with_reducible assumption
      · with_reducible assumption
    · rw [apply_ite Prod.fst]
      refine State.kept_ite (fun _ => ?_) (fun _ => ?_)
      · unfold v78
        rw [apply_ite Prod.fst]
        refine State.kept_ite (fun _ => ?_) (fun _ => ?_)
        · dsimp only
          refine State.admitDrain_kept (sub_of hF rfl) ?_
          with_reducible assumption
        · with_reducible assumption
      · rw [apply_ite Prod.fst]
        refine State.kept_ite (fun _ => ?_) (fun _ => ?_)
        · unfold v78
          rw [apply_ite Prod.fst]
          refine State.kept_ite (fun _ => ?_) (fun _ => ?_)
          · dsimp only
            refine State.takeSliceReq_kept (sub_of hF rfl) ?_
            with_reducible assumption
          · with_reducible assumption
        · extract_lets +onlyGivenNames v68
          clear_value v68
          extract_lets +onlyGivenNames v67
          clear_value v67
          rw [apply_ite Prod.fst]
          refine State.kept_ite (fun _ => ?_) (fun _ => ?_)
          · unfold v78
            rw [apply_ite Prod.fst]
            refine State.kept_ite (fun _ => ?_) (fun _ => ?_)
            · dsimp only
              refine State.sliceReply_kept (sub_of hF rfl) ?_
              with_reducible assumption
            · with_reducible assumption
          · extract_lets +onlyGivenNames v64
            clear_value v64
            split
            · rw [apply_ite Prod.fst]
              refine State.kept_ite (fun _ => ?_) (fun _ => ?_)
              · with_reducible assumption
              · extract_lets +onlyGivenNames v60
                have hv60 : State.Kept qu F o v60 := by
                  unfold v60
                  refine State.kept_slc (bit_of hF rfl) ?_
                  with_reducible assumption
                clear_value v60
                dsimp only
                refine State.askProposal_kept (sub_of hF rfl) ?_
                with_reducible assumption
            · extract_lets +onlyGivenNames v62
              clear_value v62
              rw [apply_ite Prod.fst]
              refine State.kept_ite (fun _ => ?_) (fun _ => ?_)
              · unfold v78
                rw [apply_ite Prod.fst]
                refine State.kept_ite (fun _ => ?_) (fun _ => ?_)
                · dsimp only
                  refine State.sliceReply_kept (sub_of hF rfl) ?_
                  with_reducible assumption
                · with_reducible assumption
              · rw [apply_ite Prod.fst]
                refine State.kept_ite (fun _ => ?_) (fun _ => ?_)
                · with_reducible assumption
                · extract_lets +onlyGivenNames v57
                  clear_value v57
                  extract_lets +onlyGivenNames v56
                  clear_value v56
                  dsimp only
                  refine State.kept_slc (bit_of hF rfl) ?_
                  with_reducible assumption

theorem State.admitNext_kept {qu : List Instr} {F : Nat} {o : State} {pub : Bool} {n : Nat} {s : State} (hF : 0x4000000359 ||| F = F) (hk : State.Kept qu F o s) : State.Kept qu F o (State.admitNext pub n s) := by
  induction n generalizing s with
  | zero =>
    rw [State.admitNext]
    with_reducible assumption
  | succ n ih =>
    rw [State.admitNext]
    refine State.kept_ite (fun _ => ?_) (fun _ => ?_)
    · with_reducible assumption
    · split
      · with_reducible assumption
      · extract_lets +onlyGivenNames v78
        have hv78 : State.Kept qu F o v78.1 := by
          unfold v78
          refine State.takeReq_kept (sub_of hF rfl) ?_
          with_reducible assumption
        clear_value v78
        refine State.kept_ite (fun _ => ?_) (fun _ => ?_)
        · apply ih
          with_reducible assumption
        · with_reducible assumption

theorem State.pauseMembers_kept {qu : List Instr} {F : Nat} {o : State} {s : State} {id : Nat} {on : Bool} (hF : 0xc0 ||| F = F) (hk : State.Kept qu F o s) : State.Kept qu F o (State.pauseMembers s id on) := by
  unfold State.pauseMembers
  refine State.mgmtAll_kept (sub_of hF rfl) ?_
  with_reducible assumption

theorem State.showSlices_kept {qu : List Instr} {F : Nat} {o : State} {s : State} (hF : 0x4000000000 ||| F = F) (hk : State.Kept qu F o s) : State.Kept qu F o (State.showSlices s) := by
  unfold State.showSlices
  extract_lets +onlyGivenNames v80
  clear_value v80
  extract_lets +onlyGivenNames v79
  have hv79 : State.Kept qu F o v79 := by
    unfold v79
    refine State.setF_kept (bit_of hF rfl) ?_
    refine State.setF_kept (bit_of hF rfl) ?_
    with_reducible assumption
  clear_value v79
  extract_lets +onlyGivenNames v78
  have hv78 : State.Kept qu F o v78 := by
    unfold v78
    refine State.setSliceSet_kept (bit_of hF rfl) rfl ?_
    with_reducible assumption
  clear_value v78
  extract_lets +onlyGivenNames v77
  have hv77 : State.Kept qu F o v77 := by
    unfold v77
    refine State.setF_kept (bit_of hF rfl) ?_
    with_reducible assumption
  clear_value v77
  extract_lets +onlyGivenNames v76
  have hv76 : State.Kept qu F o v76 := by
    unfold v76
    refine State.setF_kept (bit_of hF rfl) ?_
    with_reducible assumption
  clear_value v76
  refine State.setF_kept (bit_of hF rfl) ?_
  with_reducible assumption

end Sys2Proof.Machine
end

