-- ==== Sys2Proof/Laws/KeptChartOps.lean ====
section
/-! SUPPORT. Laws/KeptChartOps.lean: each operation of Machine/ChartOps.lean keeps the queue and the invariant. -/
namespace Sys2Proof.Machine

theorem State.setUnfit_kept {qu : List Instr} {F : Nat} {o : State} {s : State} {bit : Nat} {on : Bool} (hF : 0x400000000009 ||| F = F) (hk : State.Kept qu F o s) : State.Kept qu F o (State.setUnfit s bit on) := by
  unfold State.setUnfit
  extract_lets +onlyGivenNames v80
  clear_value v80
  extract_lets +onlyGivenNames v79
  clear_value v79
  extract_lets +onlyGivenNames v78
  clear_value v78
  extract_lets +onlyGivenNames v77
  clear_value v77
  extract_lets +onlyGivenNames v76
  have hv76 : State.Kept qu F o v76 := by
    unfold v76
    refine State.setF_kept (bit_of hF rfl) ?_
    refine State.setF_kept (bit_of hF rfl) ?_
    refine State.setF_kept (bit_of hF rfl) ?_
    with_reducible assumption
  clear_value v76
  refine State.raiseIf_kept (sub_of hF rfl) (bit_of hF rfl) ?_
  with_reducible assumption

theorem State.onSlot_kept {qu : List Instr} {F : Nat} {o : State} {s : State} {n : Nat} {f : Slot → Slot} (hF : 0x20 ||| F = F) (hk : State.Kept qu F o s) : State.Kept qu F o (State.onSlot s n f) := by
  unfold State.onSlot
  refine State.kept_chart (bit_of hF rfl) ?_
  with_reducible assumption

theorem State.chartRefused_kept {qu : List Instr} {F : Nat} {o : State} {s : State} {slot code off : Nat} (hF : 0x1000200024029 ||| F = F) (hk : State.Kept qu F o s) : State.Kept qu F o (State.chartRefused s slot code off) := by
  unfold State.chartRefused
  extract_lets +onlyGivenNames v80
  have hv80 : State.Kept qu F o v80 := by
    unfold v80
    refine State.onSlot_kept (sub_of hF rfl) ?_
    with_reducible assumption
  clear_value v80
  extract_lets +onlyGivenNames v79
  have hv79 : State.Kept qu F o v79 := by
    unfold v79
    refine State.setReg_kept (bit_of hF rfl) ?_
    refine State.countReg_kept (bit_of hF rfl) ?_
    with_reducible assumption
  clear_value v79
  extract_lets +onlyGivenNames v78
  have hv78 : State.Kept qu F o v78 := by
    unfold v78
    refine State.raise_kept (sub_of hF rfl) (bit_of hF rfl) ?_
    with_reducible assumption
  clear_value v78
  refine State.logOwn_kept (sub_of hF rfl) ?_
  with_reducible assumption

theorem State.checkSlot_kept {qu : List Instr} {F : Nat} {o : State} {s : State} {n : Nat} (hF : 0x1000200024029 ||| F = F) (hk : State.Kept qu F o s) : State.Kept qu F o (State.checkSlot s n).1 := by
  unfold State.checkSlot
  extract_lets +onlyGivenNames v80
  clear_value v80
  split
  · dsimp only
    refine State.onSlot_kept (sub_of hF rfl) ?_
    with_reducible assumption
  · dsimp only
    refine State.chartRefused_kept (sub_of hF rfl) ?_
    refine State.onSlot_kept (sub_of hF rfl) ?_
    with_reducible assumption

theorem State.disarm_kept {qu : List Instr} {F : Nat} {o : State} {s : State} (hF : 0x200000020 ||| F = F) (hk : State.Kept qu F o s) : State.Kept qu F o (State.disarm s) := by
  unfold State.disarm
  extract_lets +onlyGivenNames v80
  clear_value v80
  extract_lets +onlyGivenNames v79
  have hv79 : State.Kept qu F o v79 := by
    unfold v79
    refine State.kept_chart (bit_of hF rfl) ?_
    with_reducible assumption
  clear_value v79
  extract_lets +onlyGivenNames v78
  have hv78 : State.Kept qu F o v78 := by
    unfold v78
    refine State.setF_kept (bit_of hF rfl) ?_
    refine State.setF_kept (bit_of hF rfl) ?_
    refine State.setF_kept (bit_of hF rfl) ?_
    with_reducible assumption
  clear_value v78
  refine State.setDigest_kept (bit_of hF rfl) rfl ?_
  refine State.setPair_kept (bit_of hF rfl) (bit_of hF rfl) ?_
  with_reducible assumption

theorem State.completeArming_kept {qu : List Instr} {F : Nat} {o : State} {s : State} (hF : 0x200000020 ||| F = F) (hk : State.Kept qu F o s) : State.Kept qu F o (State.completeArming s) := by
  unfold State.completeArming
  split
  · with_reducible assumption
  · refine State.kept_ite (fun _ => ?_) (fun _ => ?_)
    · with_reducible assumption
    · refine State.kept_ite (fun _ => ?_) (fun _ => ?_)
      · refine State.kept_chart (bit_of hF rfl) ?_
        with_reducible assumption
      · refine State.kept_ite (fun _ => ?_) (fun _ => ?_)
        · with_reducible assumption
        · refine State.setF_kept (bit_of hF rfl) ?_
          refine State.kept_chart (bit_of hF rfl) ?_
          with_reducible assumption

theorem State.writePeriod_kept {qu : List Instr} {F : Nat} {o : State} {s : State} {next f : Nat} (hF : 0x40 ||| F = F) (hk : State.Kept qu F o s) : State.Kept qu F o (State.writePeriod s next f) := by
  unfold State.writePeriod
  refine State.kept_ite (fun _ => ?_) (fun _ => ?_)
  · with_reducible assumption
  · refine State.broadcast_kept (sub_of hF rfl) ?_
    with_reducible assumption

theorem State.takeChartFlash_kept {qu : List Instr} {F : Nat} {o : State} {s : State} {d : Digest} {f : Nat} (hF : 0x200000060 ||| F = F) (hk : State.Kept qu F o s) : State.Kept qu F o (State.takeChartFlash s d f) := by
  unfold State.takeChartFlash
  split
  · refine State.kept_ite (fun _ => ?_) (fun _ => ?_)
    · refine State.writePeriod_kept (sub_of hF rfl) ?_
      refine State.setPair_kept (bit_of hF rfl) (bit_of hF rfl) ?_
      refine State.kept_chart (bit_of hF rfl) ?_
      with_reducible assumption
    · with_reducible assumption
  · with_reducible assumption

theorem State.armSlot_kept {qu : List Instr} {F : Nat} {o : State} {s : State} {n win : Nat} (hF : 0x200000060 ||| F = F) (hk : State.Kept qu F o s) : State.Kept qu F o (State.armSlot s n win) := by
  unfold State.armSlot
  split
  · with_reducible assumption
  · extract_lets +onlyGivenNames v79
    clear_value v79
    extract_lets +onlyGivenNames v78
    have hv78 : State.Kept qu F o v78 := by
      unfold v78
      refine State.kept_chart (bit_of hF rfl) ?_
      with_reducible assumption
    clear_value v78
    extract_lets +onlyGivenNames v77
    have hv77 : State.Kept qu F o v77 := by
      unfold v77
      refine State.onSlot_kept (sub_of hF rfl) ?_
      refine State.setDigest_kept (bit_of hF rfl) rfl ?_
      refine State.setF_kept (bit_of hF rfl) ?_
      refine State.setF_kept (bit_of hF rfl) ?_
      with_reducible assumption
    clear_value v77
    extract_lets +onlyGivenNames v76
    have hv76 : State.Kept qu F o v76 := by
      unfold v76
      split
      · refine State.kept_ite (fun _ => ?_) (fun _ => ?_)
        · refine State.takeChartFlash_kept (sub_of hF rfl) ?_
          with_reducible assumption
        · with_reducible assumption
      · with_reducible assumption
    clear_value v76
    refine State.completeArming_kept (sub_of hF rfl) ?_
    with_reducible assumption

theorem State.withdrawChart_kept {qu : List Instr} {F : Nat} {o : State} {s : State} {d : Digest} (hF : 0x61 ||| F = F) (hk : State.Kept qu F o s) : State.Kept qu F o (State.withdrawChart s d) := by
  unfold State.withdrawChart
  split
  · refine State.kept_ite (fun _ => ?_) (fun _ => ?_)
    · refine State.flood_kept (sub_of hF rfl) ?_
      refine State.kept_chart (bit_of hF rfl) ?_
      with_reducible assumption
    · with_reducible assumption
  · with_reducible assumption

theorem State.announceChart_kept {qu : List Instr} {F : Nat} {o : State} {s : State} (hF : 0x61 ||| F = F) (hk : State.Kept qu F o s) : State.Kept qu F o (State.announceChart s) := by
  unfold State.announceChart
  split
  · refine State.kept_ite (fun _ => ?_) (fun _ => ?_)
    · extract_lets +onlyGivenNames v78
      clear_value v78
      extract_lets +onlyGivenNames v77
      clear_value v77
      extract_lets +onlyGivenNames v76
      have hv76 : State.Kept qu F o v76 := by
        unfold v76
        refine State.kept_chart (bit_of hF rfl) ?_
        with_reducible assumption
      clear_value v76
      refine State.flood_kept (sub_of hF rfl) ?_
      with_reducible assumption
    · with_reducible assumption
  · with_reducible assumption

theorem State.lightCommand_kept {qu : List Instr} {F : Nat} {o : State} {s : State} {w n : Nat} (hF : 0x1000200024069 ||| F = F) (hk : State.Kept qu F o s) : State.Kept qu F o (State.lightCommand s w n) := by
  unfold State.lightCommand
  split
  · refine State.kept_ite (fun _ => ?_) (fun _ => ?_)
    · refine State.kept_chart (bit_of hF rfl) ?_
      with_reducible assumption
    · extract_lets +onlyGivenNames v78
      clear_value v78
      refine State.kept_ite (fun _ => ?_) (fun _ => ?_)
      · refine State.refuse_kept (sub_of hF rfl) ?_
        refine State.chartRefused_kept (sub_of hF rfl) ?_
        with_reducible assumption
      · extract_lets +onlyGivenNames v76
        have hv76 : State.Kept qu F o v76 := by
          unfold v76
          refine State.kept_ite (fun _ => ?_) (fun _ => ?_)
          · refine State.refuse_kept (sub_of hF rfl) ?_
            refine State.chartRefused_kept (sub_of hF rfl) ?_
            with_reducible assumption
          · with_reducible assumption
        clear_value v76
        extract_lets +onlyGivenNames v75
        have hv75 : State.Kept qu F o v75 := by
          unfold v75
          refine State.disarm_kept (sub_of hF rfl) ?_
          refine State.withdrawChart_kept (sub_of hF rfl) ?_
          with_reducible assumption
        clear_value v75
        refine State.announceChart_kept (sub_of hF rfl) ?_
        refine State.armSlot_kept (sub_of hF rfl) ?_
        with_reducible assumption
  · extract_lets +onlyGivenNames v79
    clear_value v79
    refine State.kept_ite (fun _ => ?_) (fun _ => ?_)
    · refine State.refuse_kept (sub_of hF rfl) ?_
      refine State.chartRefused_kept (sub_of hF rfl) ?_
      with_reducible assumption
    · refine State.announceChart_kept (sub_of hF rfl) ?_
      refine State.armSlot_kept (sub_of hF rfl) ?_
      with_reducible assumption

theorem State.lightLocal_kept {qu : List Instr} {F : Nat} {o : State} {s : State} {n : Nat} {c : Chart} (hF : 0xd0020000012d ||| F = F) (hk : State.Kept qu F o s) : State.Kept qu F o (State.lightLocal s n c) := by
  unfold State.lightLocal
  extract_lets +onlyGivenNames v80
  clear_value v80
  extract_lets +onlyGivenNames v79
  have hv79 : State.Kept qu F o v79 := by
    unfold v79
    refine State.setPeriod_kept (sub_of hF rfl) ?_
    refine State.kept_chart (bit_of hF rfl) ?_
    with_reducible assumption
  clear_value v79
  extract_lets +onlyGivenNames v78
  have hv78 : State.Kept qu F o v78 := by
    unfold v78
    refine State.kept_ite (fun _ => ?_) (fun _ => ?_)
    · with_reducible assumption
    · refine State.setF_kept (bit_of hF rfl) ?_
      with_reducible assumption
  clear_value v78
  extract_lets +onlyGivenNames v77
  have hv77 : State.Kept qu F o v77 := by
    unfold v77
    refine State.disarm_kept (sub_of hF rfl) ?_
    with_reducible assumption
  clear_value v77
  extract_lets +onlyGivenNames v76
  have hv76 : State.Kept qu F o v76 := by
    unfold v76
    refine State.setF_kept (bit_of hF rfl) ?_
    refine State.setF_kept (bit_of hF rfl) ?_
    with_reducible assumption
  clear_value v76
  extract_lets +onlyGivenNames v75
  have hv75 : State.Kept qu F o v75 := by
    unfold v75
    refine State.setPair_kept (bit_of hF rfl) (bit_of hF rfl) ?_
    refine State.setReg_kept (bit_of hF rfl) ?_
    with_reducible assumption
  clear_value v75
  extract_lets +onlyGivenNames v74
  have hv74 : State.Kept qu F o v74 := by
    unfold v74
    refine State.setDigest_kept (bit_of hF rfl) rfl ?_
    refine State.setReg_kept (bit_of hF rfl) ?_
    with_reducible assumption
  clear_value v74
  extract_lets +onlyGivenNames v73
  have hv73 : State.Kept qu F o v73 := by
    unfold v73
    refine State.setF_kept (bit_of hF rfl) ?_
    with_reducible assumption
  clear_value v73
  extract_lets +onlyGivenNames v72
  clear_value v72
  extract_lets +onlyGivenNames v71
  clear_value v71
  extract_lets +onlyGivenNames v70
  have hv70 : State.Kept qu F o v70 := by
    unfold v70
    refine State.kept_slv (bit_of hF rfl) ?_
    with_reducible assumption
  clear_value v70
  refine State.raise_kept (sub_of hF rfl) (bit_of hF rfl) ?_
  refine State.setUnfit_kept (sub_of hF rfl) ?_
  with_reducible assumption

theorem State.writeWeights_kept {qu : List Instr} {F : Nat} {o : State} {s : State} (hF : 0xc0 ||| F = F) (hk : State.Kept qu F o s) : State.Kept qu F o (State.writeWeights s) := by
  unfold State.writeWeights
  split
  · with_reducible assumption
  · extract_lets +onlyGivenNames v79
    clear_value v79
    refine State.mgmtAll_kept (sub_of hF rfl) ?_
    with_reducible assumption

theorem State.judgeMismatch_kept {qu : List Instr} {F : Nat} {o : State} {s : State} (hF : 0x200000069 ||| F = F) (hk : State.Kept qu F o s) : State.Kept qu F o (State.judgeMismatch s) := by
  unfold State.judgeMismatch
  extract_lets +onlyGivenNames v80
  clear_value v80
  extract_lets +onlyGivenNames v79
  have hv79 : State.Kept qu F o v79 := by
    unfold v79
    split
    · refine State.kept_ite (fun _ => ?_) (fun _ => ?_)
      · refine State.kept_chart (bit_of hF rfl) ?_
        with_reducible assumption
      · with_reducible assumption
    · with_reducible assumption
  clear_value v79
  split
  · refine State.kept_ite (fun _ => ?_) (fun _ => ?_)
    · refine State.setF_kept (bit_of hF rfl) ?_
      with_reducible assumption
    · refine State.kept_ite (fun _ => ?_) (fun _ => ?_)
      · with_reducible assumption
      · refine State.raise_kept (sub_of hF rfl) (bit_of hF rfl) ?_
        refine State.setF_kept (bit_of hF rfl) ?_
        refine State.kept_link (bit_of hF rfl) ?_
        with_reducible assumption
  · with_reducible assumption

theorem State.answerAnnounce_kept {qu : List Instr} {F : Nat} {o : State} {s : State} (hF : 0x61 ||| F = F) (hk : State.Kept qu F o s) : State.Kept qu F o (State.answerAnnounce s) := by
  unfold State.answerAnnounce
  split
  · refine State.kept_ite (fun _ => ?_) (fun _ => ?_)
    · with_reducible assumption
    · extract_lets +onlyGivenNames v78
      clear_value v78
      extract_lets +onlyGivenNames v77
      have hv77 : State.Kept qu F o v77 := by
        unfold v77
        refine State.kept_chart (bit_of hF rfl) ?_
        with_reducible assumption
      clear_value v77
      refine State.kept_ite (fun _ => ?_) (fun _ => ?_)
      · refine State.tellHead_kept (sub_of hF rfl) ?_
        with_reducible assumption
      · refine State.tellHead_kept (sub_of hF rfl) ?_
        with_reducible assumption
  · with_reducible assumption

theorem State.chartAnnounced_kept {qu : List Instr} {F : Nat} {o : State} {s : State} {d : Digest} {f : Nat} (hF : 0x200000061 ||| F = F) (hk : State.Kept qu F o s) : State.Kept qu F o (State.chartAnnounced s d f) := by
  unfold State.chartAnnounced
  extract_lets +onlyGivenNames v80
  clear_value v80
  extract_lets +onlyGivenNames v79
  have hv79 : State.Kept qu F o v79 := by
    unfold v79
    refine State.kept_chart (bit_of hF rfl) ?_
    with_reducible assumption
  clear_value v79
  extract_lets +onlyGivenNames v78
  have hv78 : State.Kept qu F o v78 := by
    unfold v78
    refine State.takeChartFlash_kept (sub_of hF rfl) ?_
    with_reducible assumption
  clear_value v78
  refine State.kept_ite (fun _ => ?_) (fun _ => ?_)
  · with_reducible assumption
  · refine State.answerAnnounce_kept (sub_of hF rfl) ?_
    with_reducible assumption

theorem State.chartPostponed_kept {qu : List Instr} {F : Nat} {o : State} {s : State} {d : Digest} {f : Nat} (hF : 0x200000060 ||| F = F) (hk : State.Kept qu F o s) : State.Kept qu F o (State.chartPostponed s d f) := by
  unfold State.chartPostponed
  extract_lets +onlyGivenNames v80
  clear_value v80
  extract_lets +onlyGivenNames v79
  have hv79 : State.Kept qu F o v79 := by
    unfold v79
    refine State.kept_chart (bit_of hF rfl) ?_
    with_reducible assumption
  clear_value v79
  refine State.takeChartFlash_kept (sub_of hF rfl) ?_
  with_reducible assumption

theorem State.chartConfirmed_kept {qu : List Instr} {F : Nat} {o : State} {s : State} {d : Digest} {f : Nat} (hF : 0x20 ||| F = F) (hk : State.Kept qu F o s) : State.Kept qu F o (State.chartConfirmed s d f) := by
  unfold State.chartConfirmed
  extract_lets +onlyGivenNames v80
  clear_value v80
  extract_lets +onlyGivenNames v79
  have hv79 : State.Kept qu F o v79 := by
    unfold v79
    refine State.kept_chart (bit_of hF rfl) ?_
    with_reducible assumption
  clear_value v79
  split
  · refine State.kept_ite (fun _ => ?_) (fun _ => ?_)
    · refine State.kept_chart (bit_of hF rfl) ?_
      with_reducible assumption
    · with_reducible assumption
  · with_reducible assumption

theorem State.chartWithdrawn_kept {qu : List Instr} {F : Nat} {o : State} {s : State} {d : Digest} (hF : 0x1000200024069 ||| F = F) (hk : State.Kept qu F o s) : State.Kept qu F o (State.chartWithdrawn s d) := by
  unfold State.chartWithdrawn
  extract_lets +onlyGivenNames v80
  clear_value v80
  extract_lets +onlyGivenNames v79
  have hv79 : State.Kept qu F o v79 := by
    unfold v79
    refine State.kept_chart (bit_of hF rfl) ?_
    with_reducible assumption
  clear_value v79
  split
  · refine State.kept_ite (fun _ => ?_) (fun _ => ?_)
    · extract_lets +onlyGivenNames v76
      have hv76 : State.Kept qu F o v76 := by
        unfold v76
        refine State.kept_ite (fun _ => ?_) (fun _ => ?_)
        · with_reducible assumption
        · refine State.writePeriod_kept (sub_of hF rfl) ?_
          with_reducible assumption
      clear_value v76
      extract_lets +onlyGivenNames v75
      have hv75 : State.Kept qu F o v75 := by
        unfold v75
        refine State.raise_kept (sub_of hF rfl) (bit_of hF rfl) ?_
        refine State.disarm_kept (sub_of hF rfl) ?_
        with_reducible assumption
      clear_value v75
      refine State.kept_ite (fun _ => ?_) (fun _ => ?_)
      · refine State.refuse_kept (sub_of hF rfl) ?_
        refine State.chartRefused_kept (sub_of hF rfl) ?_
        with_reducible assumption
      · refine State.logOwn_kept (sub_of hF rfl) ?_
        with_reducible assumption
    · with_reducible assumption
  · with_reducible assumption

theorem State.postponeChart_kept {qu : List Instr} {F : Nat} {o : State} {s : State} (hF : 0x200000069 ||| F = F) (hk : State.Kept qu F o s) : State.Kept qu F o (State.postponeChart s) := by
  unfold State.postponeChart
  split
  · extract_lets +onlyGivenNames v79
    clear_value v79
    refine State.kept_ite (fun _ => ?_) (fun _ => ?_)
    · with_reducible assumption
    · extract_lets +onlyGivenNames v77
      clear_value v77
      extract_lets +onlyGivenNames v76
      have hv76 : State.Kept qu F o v76 := by
        unfold v76
        refine State.kept_chart (bit_of hF rfl) ?_
        with_reducible assumption
      clear_value v76
      refine State.flood_kept (sub_of hF rfl) ?_
      refine State.raise_kept (sub_of hF rfl) (bit_of hF rfl) ?_
      with_reducible assumption
  · with_reducible assumption

theorem State.chartReady_kept {qu : List Instr} {F : Nat} {o : State} {s : State} {rack : Nat} {d : Digest} (hF : 0x20 ||| F = F) (hk : State.Kept qu F o s) : State.Kept qu F o (State.chartReady s rack d) := by
  unfold State.chartReady
  split
  · refine State.kept_ite (fun _ => ?_) (fun _ => ?_)
    · refine State.kept_chart (bit_of hF rfl) ?_
      with_reducible assumption
    · with_reducible assumption
  · with_reducible assumption

theorem State.confirmChart_kept {qu : List Instr} {F : Nat} {o : State} {s : State} (hF : 0x61 ||| F = F) (hk : State.Kept qu F o s) : State.Kept qu F o (State.confirmChart s) := by
  unfold State.confirmChart
  split
  · refine State.kept_ite (fun _ => ?_) (fun _ => ?_)
    · refine State.flood_kept (sub_of hF rfl) ?_
      refine State.kept_chart (bit_of hF rfl) ?_
      with_reducible assumption
    · with_reducible assumption
  · with_reducible assumption

end Sys2Proof.Machine
end

