-- ==== Sys2Proof/Laws/KeptFlowOps.lean ====
section
/-! SUPPORT. Laws/KeptFlowOps.lean: each operation of Machine/FlowOps.lean keeps the queue and the invariant. -/
namespace Sys2Proof.Machine

theorem State.onFlow_kept {qu : List Instr} {F : Nat} {o : State} {s : State} {p : Flow → Bool} {f : Flow → Flow} (hF : 0x40 ||| F = F) (hk : State.Kept qu F o s) : State.Kept qu F o (State.onFlow s p f) := by
  unfold State.onFlow
  refine State.kept_link (bit_of hF rfl) ?_
  with_reducible assumption

theorem State.pumpFlow_kept {qu : List Instr} {F : Nat} {o : State}  {n : Nat} {a1 : Addr} {a2 : Addr} {a3 : Nat} {s : State} (hF : 0x40 ||| F = F) (hk : State.Kept qu F o s) : State.Kept qu F o (State.pumpFlow  n a1 a2 a3 s) := by
  induction n generalizing a1 a2 a3 s with
  | zero =>
    rw [State.pumpFlow]
    with_reducible assumption
  | succ n ih =>
    rw [State.pumpFlow]
    split
    · with_reducible assumption
    · split
      · with_reducible assumption
      · refine State.kept_ite (fun _ => ?_) (fun _ => ?_)
        · with_reducible assumption
        · extract_lets +onlyGivenNames v77
          clear_value v77
          extract_lets +onlyGivenNames v76
          clear_value v76
          extract_lets +onlyGivenNames v75
          clear_value v75
          extract_lets +onlyGivenNames v74
          have hv74 : State.Kept qu F o v74 := by
            unfold v74
            refine State.onFlow_kept (sub_of hF rfl) ?_
            with_reducible assumption
          clear_value v74
          apply ih
          refine State.enqueue_kept (sub_of hF rfl) ?_
          with_reducible assumption

theorem State.sendFlow_kept {qu : List Instr} {F : Nat} {o : State} {s : State} {port : Nat} {dest : Addr} {svc : Nat} {slice : Byte} {gen : BitVec 6} {opkind optag : Nat} {ws : List Word} {ctx launch piece : Nat} (hF : 0x40 ||| F = F) (hk : State.Kept qu F o s) : State.Kept qu F o (State.sendFlow s port dest svc slice gen opkind optag ws ctx launch piece) := by
  unfold State.sendFlow
  extract_lets +onlyGivenNames v80
  clear_value v80
  extract_lets +onlyGivenNames v79
  clear_value v79
  extract_lets +onlyGivenNames v78
  clear_value v78
  extract_lets +onlyGivenNames v77
  have hv77 : State.Kept qu F o v77 := by
    unfold v77
    refine State.kept_ite (fun _ => ?_) (fun _ => ?_)
    · refine State.onFlow_kept (sub_of hF rfl) ?_
      with_reducible assumption
    · refine State.kept_link (bit_of hF rfl) ?_
      with_reducible assumption
  clear_value v77
  refine State.pumpFlow_kept (sub_of hF rfl) ?_
  with_reducible assumption

theorem State.dropSent_kept {qu : List Instr} {F : Nat} {o : State} {s : State} {p : SentPkt → Bool} (hF : 0x40 ||| F = F) (hk : State.Kept qu F o s) : State.Kept qu F o (State.dropSent s p) := by
  unfold State.dropSent
  refine State.onFlow_kept (sub_of hF rfl) ?_
  with_reducible assumption

theorem State.closeFlows_kept {qu : List Instr} {F : Nat} {o : State} {s : State} {a : Addr} (hF : 0x40 ||| F = F) (hk : State.Kept qu F o s) : State.Kept qu F o (State.closeFlows s a) := by
  unfold State.closeFlows
  refine State.kept_link (bit_of hF rfl) ?_
  with_reducible assumption

theorem State.sendAck_kept {qu : List Instr} {F : Nat} {o : State} {s : State} {f : Flow} (hF : 0x40 ||| F = F) (hk : State.Kept qu F o s) : State.Kept qu F o (State.sendAck s f) := by
  unfold State.sendAck
  refine State.enqueue_kept (sub_of hF rfl) ?_
  with_reducible assumption

theorem State.openDest_kept {qu : List Instr} {F : Nat} {o : State} {s : State} {port : Nat} {h : Hdr} (hF : 0x40 ||| F = F) (hk : State.Kept qu F o s) : State.Kept qu F o (State.openDest s port h) := by
  unfold State.openDest
  refine State.kept_ite (fun _ => ?_) (fun _ => ?_)
  · with_reducible assumption
  · refine State.kept_link (bit_of hF rfl) ?_
    with_reducible assumption

theorem State.takeWseq_kept {qu : List Instr} {F : Nat} {o : State} {s : State} {port : Nat} {h : Hdr} (hF : 0x40 ||| F = F) (hk : State.Kept qu F o s) : State.Kept qu F o (State.takeWseq s port h) := by
  unfold State.takeWseq
  extract_lets +onlyGivenNames v80
  have hv80 : State.Kept qu F o v80 := by
    unfold v80
    refine State.onFlow_kept (sub_of hF rfl) ?_
    refine State.openDest_kept (sub_of hF rfl) ?_
    with_reducible assumption
  clear_value v80
  split
  · refine State.sendAck_kept (sub_of hF rfl) ?_
    with_reducible assumption
  · with_reducible assumption

theorem State.reAck_kept {qu : List Instr} {F : Nat} {o : State} {s : State} {h : Hdr} (hF : 0x40 ||| F = F) (hk : State.Kept qu F o s) : State.Kept qu F o (State.reAck s h) := by
  unfold State.reAck
  extract_lets +onlyGivenNames v80
  clear_value v80
  extract_lets +onlyGivenNames v79
  have hv79 : State.Kept qu F o v79 := by
    unfold v79
    refine State.kept_link (bit_of hF rfl) ?_
    with_reducible assumption
  clear_value v79
  split
  · refine State.kept_ite (fun _ => ?_) (fun _ => ?_)
    · with_reducible assumption
    · refine State.sendAck_kept (sub_of hF rfl) ?_
      refine State.onFlow_kept (sub_of hF rfl) ?_
      with_reducible assumption
  · with_reducible assumption

end Sys2Proof.Machine
end

