-- ==== Sys2Proof/Laws/KeptHbmOps.lean ====
section
/-! SUPPORT. Laws/KeptHbmOps.lean: each operation of Machine/HbmOps.lean keeps the queue and the invariant. -/
namespace Sys2Proof.Machine

theorem State.hbmWrite_kept {qu : List Instr} {F : Nat} {o : State} {s : State} {slice number : Nat} {ws : List Word} (hF : 0x100000 ||| F = F) (hk : State.Kept qu F o s) : State.Kept qu F o (State.hbmWrite s slice number ws) := by
  unfold State.hbmWrite
  refine State.kept_hbm (bit_of hF rfl) ?_
  with_reducible assumption

theorem State.spillData_kept {qu : List Instr} {F : Nat} {o : State} {s : State} {slice : Nat} {ws : List Word} (hF : 0x100000 ||| F = F) (hk : State.Kept qu F o s) : State.Kept qu F o (State.spillData s slice ws).1 := by
  unfold State.spillData
  extract_lets +onlyGivenNames v80
  have hv80 : State.Kept qu F o v80.1 := by
    unfold v80
    refine State.kept_foldl_fst ?_ ?_
    · with_reducible assumption
    · intro x78 x77 h76
      extract_lets +onlyGivenNames v75
      clear_value v75
      dsimp only
      refine State.hbmWrite_kept (sub_of hF rfl) ?_
      with_reducible assumption
  clear_value v80
  with_reducible assumption

theorem State.tidyPages_kept {qu : List Instr} {F : Nat} {o : State} {s : State} (hF : 0x100000 ||| F = F) (hk : State.Kept qu F o s) : State.Kept qu F o (State.tidyPages s) := by
  unfold State.tidyPages
  extract_lets +onlyGivenNames v80
  clear_value v80
  refine State.kept_hbm (bit_of hF rfl) ?_
  with_reducible assumption

theorem State.scrubPage_kept {qu : List Instr} {F : Nat} {o : State} {s : State} {g : HbmPage} (hF : 0x100000 ||| F = F) (hk : State.Kept qu F o s) : State.Kept qu F o (State.scrubPage s g) := by
  unfold State.scrubPage
  extract_lets +onlyGivenNames v80
  clear_value v80
  refine State.kept_hbm (bit_of hF rfl) ?_
  with_reducible assumption

theorem State.dropPages_kept {qu : List Instr} {F : Nat} {o : State} {s : State} {slice : Nat} (hF : 0x100000 ||| F = F) (hk : State.Kept qu F o s) : State.Kept qu F o (State.dropPages s slice) := by
  unfold State.dropPages
  refine State.kept_hbm (bit_of hF rfl) ?_
  with_reducible assumption

end Sys2Proof.Machine
end

