-- ==== Sys2Proof/Laws/KeptPlanOps.lean ====
section
/-! SUPPORT. Laws/KeptPlanOps.lean: each operation of Machine/PlanOps.lean keeps the queue and the invariant. -/
namespace Sys2Proof.Machine

theorem State.reserveLantern_kept {qu : List Instr} {F : Nat} {o : State} {s : State} {id : Nat} (hF : 0x400 ||| F = F) (hk : State.Kept qu F o s) : State.Kept qu F o (State.reserveLantern s id) := by
  unfold State.reserveLantern
  split
  · split
    · refine State.kept_ite (fun _ => ?_) (fun _ => ?_)
      · with_reducible assumption
      · extract_lets +onlyGivenNames v77
        clear_value v77
        extract_lets +onlyGivenNames v76
        clear_value v76
        extract_lets +onlyGivenNames v75
        clear_value v75
        refine State.kept_clp (bit_of hF rfl) ?_
        with_reducible assumption
    · with_reducible assumption
  · with_reducible assumption

theorem State.onPlan_kept {qu : List Instr} {F : Nat} {o : State} {s : State} {ctx : Nat} {f : Plan → Plan} (hF : 0x400 ||| F = F) (hk : State.Kept qu F o s) : State.Kept qu F o (State.onPlan s ctx f) := by
  unfold State.onPlan
  refine State.kept_clp (bit_of hF rfl) ?_
  with_reducible assumption

theorem State.onTelSlice_kept {qu : List Instr} {F : Nat} {o : State} {s : State} {slice : Nat} {f : TelSlice → TelSlice} (hF : 0x40000 ||| F = F) (hk : State.Kept qu F o s) : State.Kept qu F o (State.onTelSlice s slice f) := by
  unfold State.onTelSlice
  extract_lets +onlyGivenNames v80
  clear_value v80
  extract_lets +onlyGivenNames v79
  clear_value v79
  refine State.kept_tel (bit_of hF rfl) ?_
  with_reducible assumption

theorem State.countLaunch_kept {qu : List Instr} {F : Nat} {o : State} {s : State} {p : Plan} (hF : 0x40000 ||| F = F) (hk : State.Kept qu F o s) : State.Kept qu F o (State.countLaunch s p) := by
  unfold State.countLaunch
  extract_lets +onlyGivenNames v80
  clear_value v80
  extract_lets +onlyGivenNames v79
  clear_value v79
  refine State.onTelSlice_kept (sub_of hF rfl) ?_
  with_reducible assumption

theorem State.countDrop_kept {qu : List Instr} {F : Nat} {o : State} {s : State} {slice member bytes : Nat} (hF : 0x40000 ||| F = F) (hk : State.Kept qu F o s) : State.Kept qu F o (State.countDrop s slice member bytes) := by
  unfold State.countDrop
  refine State.onTelSlice_kept (sub_of hF rfl) ?_
  with_reducible assumption

end Sys2Proof.Machine
end

