-- ==== Sys2Proof/Laws/KeptReserveOps.lean ====
section
/-! SUPPORT. Laws/KeptReserveOps.lean: each operation of Machine/ReserveOps.lean keeps the queue and the invariant. -/
namespace Sys2Proof.Machine

theorem State.reserve_kept {qu : List Instr} {F : Nat} {o : State} {s : State} {c retired spare : Nat} (hF : 0x1800000024009 ||| F = F) (hk : State.Kept qu F o s) : State.Kept qu F o (State.reserve s c retired spare) := by
  unfold State.reserve
  extract_lets +onlyGivenNames v80
  have hv80 : State.Kept qu F o v80 := by
    unfold v80
    refine State.count_kept (bit_blk (b := 15) hF rfl (by unfold regBlock; simp only [reserveUsed]; omega)) ?_
    refine State.logOwn_kept (sub_of hF rfl) ?_
    with_reducible assumption
  clear_value v80
  extract_lets +onlyGivenNames v79
  have hv79 : State.Kept qu F o v79 := by
    unfold v79
    refine State.raise_kept (sub_of hF rfl) (bit_of hF rfl) ?_
    with_reducible assumption
  clear_value v79
  refine State.raiseIf_kept (sub_of hF rfl) (bit_of hF rfl) ?_
  with_reducible assumption

theorem State.reserveOut_kept {qu : List Instr} {F : Nat} {o : State} {s : State} (hF : 0x800000000009 ||| F = F) (hk : State.Kept qu F o s) : State.Kept qu F o (State.reserveOut s) := by
  unfold State.reserveOut
  refine State.raise_kept (sub_of hF rfl) (bit_of hF rfl) ?_
  with_reducible assumption

end Sys2Proof.Machine
end

