-- ==== Sys2Proof/Laws/KeptCollOps.lean ====
section
/-! SUPPORT. Laws/KeptCollOps.lean: each operation of Machine/CollOps.lean keeps the queue and the invariant. -/
namespace Sys2Proof.Machine

theorem State.onPlace_kept {qu : List Instr} {F : Nat} {o : State} {s : State} {ctx launch piece : Nat} {f : Place → Place} (hF : 0x400 ||| F = F) (hk : State.Kept qu F o s) : State.Kept qu F o (State.onPlace s ctx launch piece f) := by
  unfold State.onPlace
  refine State.onPlan_kept (sub_of hF rfl) ?_
  with_reducible assumption

theorem State.openPlace_kept {qu : List Instr} {F : Nat} {o : State} {s : State} {ctx launch piece plane : Nat} (hF : 0x400 ||| F = F) (hk : State.Kept qu F o s) : State.Kept qu F o (State.openPlace s ctx launch piece plane) := by
  unfold State.openPlace
  refine State.onPlan_kept (sub_of hF rfl) ?_
  with_reducible assumption

theorem State.holdSpill_kept {qu : List Instr} {F : Nat} {o : State} {s : State} (hF : 0x800 ||| F = F) (hk : State.Kept qu F o s) : State.Kept qu F o (State.holdSpill s) := by
  unfold State.holdSpill
  refine State.kept_lmp (bit_of hF rfl) ?_
  with_reducible assumption

theorem State.showLamps_kept {qu : List Instr} {F : Nat} {o : State} {s : State} (hF : 0x40000000000 ||| F = F) (hk : State.Kept qu F o s) : State.Kept qu F o (State.showLamps s) := by
  unfold State.showLamps
  extract_lets +onlyGivenNames v80
  clear_value v80
  extract_lets +onlyGivenNames v79
  have hv79 : State.Kept qu F o v79 := by
    unfold v79
    refine State.setF_kept (bit_of hF rfl) ?_
    refine State.setReg_kept (bit_of hF rfl) ?_
    with_reducible assumption
  clear_value v79
  extract_lets +onlyGivenNames v78
  have hv78 : State.Kept qu F o v78 := by
    unfold v78
    refine State.setF_kept (bit_of hF rfl) ?_
    refine State.setF_kept (bit_of hF rfl) ?_
    with_reducible assumption
  clear_value v78
  refine State.kept_foldl_range ?_ ?_
  · with_reducible assumption
  · intro s76 x75 x74 h73
    refine State.setF_kept (bit_blk (b := 10) hF rfl (by unfold regBlock; simp only [lampPoolFld, Reg.LMP_POOL]; omega)) ?_
    with_reducible assumption

theorem State.bringLamp_kept {qu : List Instr} {F : Nat} {o : State} {s : State} {lamp : Nat} (hF : 0x1840000024809 ||| F = F) (hk : State.Kept qu F o s) : State.Kept qu F o (State.bringLamp s lamp).1 := by
  unfold State.bringLamp
  split
  · extract_lets +onlyGivenNames v79
    clear_value v79
    extract_lets +onlyGivenNames v78
    have hv78 : State.Kept qu F o v78 := by
      unfold v78
      refine State.kept_lmp (bit_of hF rfl) ?_
      with_reducible assumption
    clear_value v78
    dsimp only
    refine State.reserve_kept (sub_of hF rfl) ?_
    with_reducible assumption
  · dsimp only
    refine State.raise_kept (sub_of hF rfl) (bit_of hF rfl) ?_
    refine State.reserveOut_kept (sub_of hF rfl) ?_
    with_reducible assumption

theorem State.retireLamp_kept {qu : List Instr} {F : Nat} {o : State} {s : State} {lamp cause : Nat} (hF : 0x1840000024809 ||| F = F) (hk : State.Kept qu F o s) : State.Kept qu F o (State.retireLamp s lamp cause) := by
  unfold State.retireLamp
  refine State.kept_ite (fun _ => ?_) (fun _ => ?_)
  · with_reducible assumption
  · extract_lets +onlyGivenNames v79
    clear_value v79
    extract_lets +onlyGivenNames v78
    clear_value v78
    extract_lets +onlyGivenNames v77
    have hv77 : State.Kept qu F o v77 := by
      unfold v77
      refine State.kept_lmp (bit_of hF rfl) ?_
      with_reducible assumption
    clear_value v77
    extract_lets +onlyGivenNames v76
    have hv76 : State.Kept qu F o v76.1 := by
      unfold v76
      rw [apply_ite Prod.fst]
      refine State.kept_ite (fun _ => ?_) (fun _ => ?_)
      · refine State.bringLamp_kept (sub_of hF rfl) ?_
        with_reducible assumption
      · with_reducible assumption
    clear_value v76
    extract_lets +onlyGivenNames v75
    have hv75 : State.Kept qu F o v75 := by
      unfold v75
      refine State.raise_kept (sub_of hF rfl) (bit_of hF rfl) ?_
      refine State.logOwn_kept (sub_of hF rfl) ?_
      with_reducible assumption
    clear_value v75
    extract_lets +onlyGivenNames v74
    clear_value v74
    refine State.showLamps_kept (sub_of hF rfl) ?_
    refine State.raiseIf_kept (sub_of hF rfl) (bit_of hF rfl) ?_
    with_reducible assumption

theorem State.sendDown_kept {qu : List Instr} {F : Nat} {o : State} {s : State} {p : Plan} {plane : Nat} {dest : Addr} {svc opkind optag : Nat} {ws : List Word} {launch piece : Nat} (hF : 0x40 ||| F = F) (hk : State.Kept qu F o s) : State.Kept qu F o (State.sendDown s p plane dest svc opkind optag ws launch piece) := by
  unfold State.sendDown
  refine State.sendFlow_kept (sub_of hF rfl) ?_
  with_reducible assumption

theorem State.sendRing_kept {qu : List Instr} {F : Nat} {o : State} {s : State} {p : Plan} {r svc opkind : Nat} {ws : List Word} {launch piece : Nat} (hF : 0x40 ||| F = F) (hk : State.Kept qu F o s) : State.Kept qu F o (State.sendRing s p r svc opkind ws launch piece) := by
  unfold State.sendRing
  refine State.sendFlow_kept (sub_of hF rfl) ?_
  with_reducible assumption

theorem State.sendReleases_kept {qu : List Instr} {F : Nat} {o : State} {s : State} {p : Plan} {x : Place} (hF : 0x40 ||| F = F) (hk : State.Kept qu F o s) : State.Kept qu F o (State.sendReleases s p x) := by
  unfold State.sendReleases
  extract_lets +onlyGivenNames v80
  clear_value v80
  refine State.kept_foldl ?_ ?_
  · with_reducible assumption
  · intro s78 x77 h76
    refine State.kept_ite (fun _ => ?_) (fun _ => ?_)
    · refine State.sendRing_kept (sub_of hF rfl) ?_
      with_reducible assumption
    · refine State.sendDown_kept (sub_of hF rfl) ?_
      with_reducible assumption

theorem State.freePlace_kept {qu : List Instr} {F : Nat} {o : State} {s : State} {ctx launch piece : Nat} (hF : 0x40440 ||| F = F) (hk : State.Kept qu F o s) : State.Kept qu F o (State.freePlace s ctx launch piece) := by
  unfold State.freePlace
  split
  · with_reducible assumption
  · split
    · with_reducible assumption
    · extract_lets +onlyGivenNames v78
      have hv78 : State.Kept qu F o v78 := by
        unfold v78
        refine State.onPlan_kept (sub_of hF rfl) ?_
        with_reducible assumption
      clear_value v78
      extract_lets +onlyGivenNames v77
      clear_value v77
      extract_lets +onlyGivenNames v76
      have hv76 : State.Kept qu F o v76 := by
        unfold v76
        refine State.kept_ite (fun _ => ?_) (fun _ => ?_)
        · refine State.countLaunch_kept (sub_of hF rfl) ?_
          with_reducible assumption
        · with_reducible assumption
      clear_value v76
      refine State.sendReleases_kept (sub_of hF rfl) ?_
      with_reducible assumption

theorem State.keepSum_kept {qu : List Instr} {F : Nat} {o : State} {s : State} {ctx slice launch piece idx : Nat} {ws : List Word} (hF : 0x100400 ||| F = F) (hk : State.Kept qu F o s) : State.Kept qu F o (State.keepSum s ctx slice launch piece idx ws) := by
  unfold State.keepSum
  refine State.kept_ite (fun _ => ?_) (fun _ => ?_)
  · extract_lets +onlyGivenNames v79
    have hv79 : State.Kept qu F o v79.1 := by
      unfold v79
      refine State.spillData_kept (sub_of hF rfl) ?_
      with_reducible assumption
    clear_value v79
    refine State.onPlace_kept (sub_of hF rfl) ?_
    with_reducible assumption
  · refine State.onPlace_kept (sub_of hF rfl) ?_
    with_reducible assumption

theorem State.sendParts_kept {qu : List Instr} {F : Nat} {o : State} {s : State} {p : Plan} {x : Place} (hF : 0x40000000440 ||| F = F) (hk : State.Kept qu F o s) : State.Kept qu F o (State.sendParts s p x) := by
  unfold State.sendParts
  extract_lets +onlyGivenNames v80
  clear_value v80
  extract_lets +onlyGivenNames v79
  clear_value v79
  extract_lets +onlyGivenNames v78
  clear_value v78
  extract_lets +onlyGivenNames v77
  clear_value v77
  refine State.kept_ite (fun _ => ?_) (fun _ => ?_)
  · with_reducible assumption
  · refine State.kept_ite (fun _ => ?_) (fun _ => ?_)
    · refine State.onPlace_kept (sub_of hF rfl) ?_
      with_reducible assumption
    · extract_lets +onlyGivenNames v74
      have hv74 : State.Kept qu F o v74 := by
        unfold v74
        refine State.onPlan_kept (sub_of hF rfl) ?_
        with_reducible assumption
      clear_value v74
      extract_lets +onlyGivenNames v73
      have hv73 : State.Kept qu F o v73 := by
        unfold v73
        refine State.onPlace_kept (sub_of hF rfl) ?_
        with_reducible assumption
      clear_value v73
      extract_lets +onlyGivenNames v72
      clear_value v72
      extract_lets +onlyGivenNames v71
      have hv71 : State.Kept qu F o v71 := by
        unfold v71
        refine State.countReg_kept (bit_of hF rfl) ?_
        with_reducible assumption
      clear_value v71
      refine State.kept_foldl ?_ ?_
      · with_reducible assumption
      · intro s69 x68 h67
        extract_lets +onlyGivenNames v66
        clear_value v66
        refine State.sendRing_kept (sub_of hF rfl) ?_
        with_reducible assumption

theorem State.sendOwners_kept {qu : List Instr} {F : Nat} {o : State} {s : State} {p : Plan} {x : Place} (hF : 0x40000000c40 ||| F = F) (hk : State.Kept qu F o s) : State.Kept qu F o (State.sendOwners s p x) := by
  unfold State.sendOwners
  extract_lets +onlyGivenNames v80
  clear_value v80
  extract_lets +onlyGivenNames v79
  clear_value v79
  extract_lets +onlyGivenNames v78
  clear_value v78
  refine State.kept_ite (fun _ => ?_) (fun _ => ?_)
  · with_reducible assumption
  · extract_lets +onlyGivenNames v76
    clear_value v76
    refine State.kept_ite (fun _ => ?_) (fun _ => ?_)
    · extract_lets +onlyGivenNames v74
      have hv74 : State.Kept qu F o v74 := by
        unfold v74
        refine State.onPlace_kept (sub_of hF rfl) ?_
        with_reducible assumption
      clear_value v74
      refine State.kept_lmp (bit_of hF rfl) ?_
      with_reducible assumption
    · refine State.kept_ite (fun _ => ?_) (fun _ => ?_)
      · with_reducible assumption
      · extract_lets +onlyGivenNames v73
        clear_value v73
        extract_lets +onlyGivenNames v72
        clear_value v72
        extract_lets +onlyGivenNames v71
        clear_value v71
        extract_lets +onlyGivenNames v70
        have hv70 : State.Kept qu F o v70 := by
          unfold v70
          refine State.countReg_kept (bit_of hF rfl) ?_
          refine State.countReg_kept (bit_of hF rfl) ?_
          with_reducible assumption
        clear_value v70
        extract_lets +onlyGivenNames v69
        have hv69 : State.Kept qu F o v69 := by
          unfold v69
          refine State.onPlace_kept (sub_of hF rfl) ?_
          with_reducible assumption
        clear_value v69
        refine State.kept_foldl ?_ ?_
        · with_reducible assumption
        · intro s67 x66 h65
          extract_lets +onlyGivenNames v64
          clear_value v64
          extract_lets +onlyGivenNames v63
          clear_value v63
          refine State.sendDown_kept (sub_of hF rfl) ?_
          with_reducible assumption

theorem State.advancePiece_kept {qu : List Instr} {F : Nat} {o : State} {s : State} {ctx launch piece : Nat} (hF : 0x40000040c40 ||| F = F) (hk : State.Kept qu F o s) : State.Kept qu F o (State.advancePiece s ctx launch piece) := by
  unfold State.advancePiece
  extract_lets +onlyGivenNames v80
  split
  · with_reducible assumption
  · refine State.kept_ite (fun _ => ?_) (fun _ => ?_)
    · with_reducible assumption
    · extract_lets +onlyGivenNames v77
      have hv77 : State.Kept qu F o v77 := by
        unfold v77
        refine State.sendParts_kept (sub_of hF rfl) ?_
        with_reducible assumption
      clear_value v77
      extract_lets +onlyGivenNames v76
      have hv76 : State.Kept qu F o v76 := by
        unfold v76
        split
        · refine State.sendOwners_kept (sub_of hF rfl) ?_
          with_reducible assumption
        · with_reducible assumption
      clear_value v76
      split
      · with_reducible assumption
      · refine State.kept_ite (fun _ => ?_) (fun _ => ?_)
        · extract_lets +onlyGivenNames v73
          have hv73 : State.Kept qu F o v73 := by
            unfold v73
            refine State.onPlace_kept (sub_of hF rfl) ?_
            with_reducible assumption
          clear_value v73
          refine State.kept_ite (fun _ => ?_) (fun _ => ?_)
          · with_reducible assumption
          · refine State.freePlace_kept (sub_of hF rfl) ?_
            with_reducible assumption
        · with_reducible assumption

theorem State.stageSum_kept {qu : List Instr} {F : Nat} {o : State} {s : State} {p : Plan} {launch piece idx : Nat} (hF : 0x40000040c40 ||| F = F) (hk : State.Kept qu F o s) : State.Kept qu F o (State.stageSum s p launch piece idx) := by
  unfold State.stageSum
  extract_lets +onlyGivenNames v80
  clear_value v80
  split
  · with_reducible assumption
  · extract_lets +onlyGivenNames v78
    clear_value v78
    extract_lets +onlyGivenNames v77
    clear_value v77
    extract_lets +onlyGivenNames v76
    split
    · refine State.kept_ite (fun _ => ?_) (fun _ => ?_)
      · unfold v76
        refine State.advancePiece_kept (sub_of hF rfl) ?_
        refine State.onPlace_kept (sub_of hF rfl) ?_
        with_reducible assumption
      · with_reducible assumption
    · refine State.kept_lmp (bit_of hF rfl) ?_
      with_reducible assumption
    · with_reducible assumption

theorem State.runUnit_kept {qu : List Instr} {F : Nat} {o : State} {s : State} {u : LampUnit} (hF : 0x40000140c40 ||| F = F) (hk : State.Kept qu F o s) : State.Kept qu F o (State.runUnit s u) := by
  unfold State.runUnit
  split
  · with_reducible assumption
  · extract_lets +onlyGivenNames v79
    clear_value v79
    extract_lets +onlyGivenNames v78
    clear_value v78
    extract_lets +onlyGivenNames v77
    clear_value v77
    extract_lets +onlyGivenNames v76
    clear_value v76
    refine State.kept_ite (fun _ => ?_) (fun _ => ?_)
    · split
      · extract_lets +onlyGivenNames v73
        clear_value v73
        refine State.advancePiece_kept (sub_of hF rfl) ?_
        refine State.countReg_kept (bit_of hF rfl) ?_
        refine State.keepSum_kept (sub_of hF rfl) ?_
        with_reducible assumption
      · with_reducible assumption
    · refine State.kept_ite (fun _ => ?_) (fun _ => ?_)
      · split
        · refine State.advancePiece_kept (sub_of hF rfl) ?_
          refine State.keepSum_kept (sub_of hF rfl) ?_
          with_reducible assumption
        · with_reducible assumption
      · refine State.advancePiece_kept (sub_of hF rfl) ?_
        with_reducible assumption

theorem State.recoverMsg_kept {qu : List Instr} {F : Nat} {o : State} {s : State} {p : Plan} {ws : List Word} (hF : 0x41 ||| F = F) (hk : State.Kept qu F o s) : State.Kept qu F o (State.recoverMsg s p ws) := by
  unfold State.recoverMsg
  refine State.tellHead_kept (sub_of hF rfl) ?_
  with_reducible assumption

theorem State.recoverReq_kept {qu : List Instr} {F : Nat} {o : State} {s : State} {p : Plan} {kind launch : Nat} {items : List Word} (hF : 0x441 ||| F = F) (hk : State.Kept qu F o s) : State.Kept qu F o (State.recoverReq s p kind launch items) := by
  unfold State.recoverReq
  extract_lets +onlyGivenNames v80
  clear_value v80
  refine State.recoverMsg_kept (sub_of hF rfl) ?_
  refine State.onPlan_kept (sub_of hF rfl) ?_
  with_reducible assumption

theorem State.discardPlace_kept {qu : List Instr} {F : Nat} {o : State} {s : State} {ctx launch piece : Nat} (hF : 0xc41 ||| F = F) (hk : State.Kept qu F o s) : State.Kept qu F o (State.discardPlace s ctx launch piece) := by
  unfold State.discardPlace
  split
  · with_reducible assumption
  · extract_lets +onlyGivenNames v79
    have hv79 : State.Kept qu F o v79 := by
      unfold v79
      refine State.onPlan_kept (sub_of hF rfl) ?_
      with_reducible assumption
    clear_value v79
    extract_lets +onlyGivenNames v78
    clear_value v78
    extract_lets +onlyGivenNames v77
    have hv77 : State.Kept qu F o v77 := by
      unfold v77
      refine State.kept_lmp (bit_of hF rfl) ?_
      with_reducible assumption
    clear_value v77
    extract_lets +onlyGivenNames v76
    have hv76 : State.Kept qu F o v76 := by
      unfold v76
      refine State.dropSent_kept (sub_of hF rfl) ?_
      with_reducible assumption
    clear_value v76
    refine State.recoverReq_kept (sub_of hF rfl) ?_
    with_reducible assumption

theorem State.blameLag_kept {qu : List Instr} {F : Nat} {o : State} {s : State} {p : Plan} {x : Place} (hF : 0x400 ||| F = F) (hk : State.Kept qu F o s) : State.Kept qu F o (State.blameLag s p x) := by
  unfold State.blameLag
  split
  · extract_lets +onlyGivenNames v79
    clear_value v79
    extract_lets +onlyGivenNames v78
    clear_value v78
    refine State.onPlan_kept (sub_of hF rfl) ?_
    with_reducible assumption
  · with_reducible assumption

theorem State.takeContrib_kept {qu : List Instr} {F : Nat} {o : State} {s : State} {port : Nat} {p : Plan} {h : Hdr} {x : PiecePrefix} {data : List Word} (hF : 0x40000040c41 ||| F = F) (hk : State.Kept qu F o s) : State.Kept qu F o (State.takeContrib s port p h x data) := by
  unfold State.takeContrib
  extract_lets +onlyGivenNames v80
  extract_lets +onlyGivenNames v79
  clear_value v79
  extract_lets +onlyGivenNames v78
  clear_value v78
  extract_lets +onlyGivenNames v77
  clear_value v77
  extract_lets +onlyGivenNames v76
  have hv76 : State.Kept qu F o v76 := by
    unfold v76
    refine State.openPlace_kept (sub_of hF rfl) ?_
    refine State.onPlan_kept (sub_of hF rfl) ?_
    with_reducible assumption
  clear_value v76
  extract_lets +onlyGivenNames v75
  clear_value v75
  extract_lets +onlyGivenNames v74
  have hv74 : State.Kept qu F o v74 := by
    unfold v74
    refine State.onPlace_kept (sub_of hF rfl) ?_
    with_reducible assumption
  clear_value v74
  extract_lets +onlyGivenNames v73
  clear_value v73
  extract_lets +onlyGivenNames v72
  clear_value v72
  extract_lets +onlyGivenNames v71
  have hv71 : State.Kept qu F o v71 := by
    unfold v71
    refine State.kept_ite (fun _ => ?_) (fun _ => ?_)
    · refine State.kept_lmp (bit_of hF rfl) ?_
      with_reducible assumption
    · refine State.returnCredits_kept (sub_of hF rfl) ?_
      with_reducible assumption
  clear_value v71
  extract_lets +onlyGivenNames v70
  have hv70 : State.Kept qu F o v70 := by
    unfold v70
    split
    · refine State.blameLag_kept (sub_of hF rfl) ?_
      with_reducible assumption
    · with_reducible assumption
  clear_value v70
  refine State.kept_foldl ?_ ?_
  · refine State.takeWseq_kept (sub_of hF rfl) ?_
    with_reducible assumption
  · intro s68 x67 h66
    refine State.stageSum_kept (sub_of hF rfl) ?_
    with_reducible assumption

theorem State.releaseBarrier_kept {qu : List Instr} {F : Nat} {o : State} {s : State} {q : Plan} (hF : 0x440 ||| F = F) (hk : State.Kept qu F o s) : State.Kept qu F o (State.releaseBarrier s q) := by
  unfold State.releaseBarrier
  extract_lets +onlyGivenNames v80
  clear_value v80
  extract_lets +onlyGivenNames v79
  have hv79 : State.Kept qu F o v79 := by
    unfold v79
    refine State.onPlan_kept (sub_of hF rfl) ?_
    with_reducible assumption
  clear_value v79
  extract_lets +onlyGivenNames v78
  have hv78 : State.Kept qu F o v78 := by
    unfold v78
    refine State.sendDown_kept (sub_of hF rfl) ?_
    with_reducible assumption
  clear_value v78
  refine State.kept_ite (fun _ => ?_) (fun _ => ?_)
  · with_reducible assumption
  · refine State.sendRing_kept (sub_of hF rfl) ?_
    with_reducible assumption

theorem State.barrierGo_kept {qu : List Instr} {F : Nat} {o : State} {s : State} {ctx : Nat} (hF : 0x440 ||| F = F) (hk : State.Kept qu F o s) : State.Kept qu F o (State.barrierGo s ctx) := by
  unfold State.barrierGo
  split
  · with_reducible assumption
  · extract_lets +onlyGivenNames v79
    clear_value v79
    extract_lets +onlyGivenNames v78
    clear_value v78
    refine State.kept_ite (fun _ => ?_) (fun _ => ?_)
    · with_reducible assumption
    · refine State.kept_ite (fun _ => ?_) (fun _ => ?_)
      · refine State.releaseBarrier_kept (sub_of hF rfl) ?_
        with_reducible assumption
      · refine State.kept_ite (fun _ => ?_) (fun _ => ?_)
        · with_reducible assumption
        · refine State.sendRing_kept (sub_of hF rfl) ?_
          refine State.onPlan_kept (sub_of hF rfl) ?_
          with_reducible assumption

theorem State.resumePieces_kept {qu : List Instr} {F : Nat} {o : State} {s : State} {ctx : Nat} (hF : 0x40000040c40 ||| F = F) (hk : State.Kept qu F o s) : State.Kept qu F o (State.resumePieces s ctx) := by
  unfold State.resumePieces
  split
  · with_reducible assumption
  · refine State.barrierGo_kept (sub_of hF rfl) ?_
    refine State.kept_foldl ?_ ?_
    · with_reducible assumption
    · intro s77 x76 h75
      refine State.advancePiece_kept (sub_of hF rfl) ?_
      with_reducible assumption

theorem State.freeAcked_kept {qu : List Instr} {F : Nat} {o : State} {s : State} (hF : 0x40440 ||| F = F) (hk : State.Kept qu F o s) : State.Kept qu F o (State.freeAcked s) := by
  unfold State.freeAcked
  refine State.kept_foldl ?_ ?_
  · with_reducible assumption
  · intro s79 x78 h77
    refine State.kept_foldl ?_ ?_
    · with_reducible assumption
    · intro s75 x74 h73
      refine State.kept_ite (fun _ => ?_) (fun _ => ?_)
      · with_reducible assumption
      · refine State.freePlace_kept (sub_of hF rfl) ?_
        with_reducible assumption

theorem State.ackIn_kept {qu : List Instr} {F : Nat} {o : State} {s : State} {h : Hdr} {payload : List Word} (hF : 0x40440 ||| F = F) (hk : State.Kept qu F o s) : State.Kept qu F o (State.ackIn s h payload).2 := by
  unfold State.ackIn
  extract_lets +onlyGivenNames v80
  clear_value v80
  rw [apply_ite Prod.snd]
  refine State.kept_ite (fun _ => ?_) (fun _ => ?_)
  · extract_lets +onlyGivenNames v77
    clear_value v77
    extract_lets +onlyGivenNames v76
    clear_value v76
    extract_lets +onlyGivenNames v75
    have hv75 : State.Kept qu F o v75 := by
      unfold v75
      refine State.onFlow_kept (sub_of hF rfl) ?_
      with_reducible assumption
    clear_value v75
    dsimp only
    refine State.freeAcked_kept (sub_of hF rfl) ?_
    refine State.pumpFlow_kept (sub_of hF rfl) ?_
    with_reducible assumption
  · dsimp only
    refine State.kept_link (bit_of hF rfl) ?_
    with_reducible assumption

end Sys2Proof.Machine
end

