-- ==== Sys2Proof/Laws/KeptAgentBase.lean ====
section
/-! SUPPORT. Laws/KeptAgentBase.lean: each operation of Machine/AgentBase.lean keeps the queue and the invariant. -/
namespace Sys2Proof.Machine

theorem State.onAgent_kept {qu : List Instr} {F : Nat} {o : State} {s : State} {a : Addr} {f : Agent → Agent} (hF : 0x80000 ||| F = F) (hk : State.Kept qu F o s) : State.Kept qu F o (State.onAgent s a f) := by
  unfold State.onAgent
  extract_lets +onlyGivenNames v80
  clear_value v80
  refine State.kept_agents (bit_of hF rfl) ?_
  with_reducible assumption

theorem State.agQueue_kept {qu : List Instr} {F : Nat} {o : State} {s : State} {a : Addr} {port : Nat} {came : Option (Nat × Nat)} {p : Packet} (hF : 0x80000 ||| F = F) (hk : State.Kept qu F o s) : State.Kept qu F o (State.agQueue s a port came p) := by
  unfold State.agQueue
  refine State.onAgent_kept (sub_of hF rfl) ?_
  with_reducible assumption

theorem State.agentSend_kept {qu : List Instr} {F : Nat} {o : State} {s : State} {a : Addr} {port : Nat} {p : Packet} (hF : 0x80000 ||| F = F) (hk : State.Kept qu F o s) : State.Kept qu F o (State.agentSend s a port p) := by
  unfold State.agentSend
  refine State.agQueue_kept (sub_of hF rfl) ?_
  with_reducible assumption

theorem State.agCredits_kept {qu : List Instr} {F : Nat} {o : State} {s : State} {a : Addr} {port vc units : Nat} (hF : 0x1 ||| F = F) (hk : State.Kept qu F o s) : State.Kept qu F o (State.agCredits s a port vc units) := by
  unfold State.agCredits
  refine State.send_kept (sub_of hF rfl) ?_
  with_reducible assumption

theorem State.agReturn_kept {qu : List Instr} {F : Nat} {o : State} {s : State} {a : Addr} {port : Nat} {h : Hdr} (hF : 0x1 ||| F = F) (hk : State.Kept qu F o s) : State.Kept qu F o (State.agReturn s a port h) := by
  unfold State.agReturn
  refine State.agCredits_kept (sub_of hF rfl) ?_
  with_reducible assumption

theorem State.agFlush_kept {qu : List Instr} {F : Nat} {o : State} {s : State} {a : Addr} {gone : AgPort → Waiting → Bool} (hF : 0x80001 ||| F = F) (hk : State.Kept qu F o s) : State.Kept qu F o (State.agFlush s a gone) := by
  unfold State.agFlush
  extract_lets +onlyGivenNames v80
  clear_value v80
  extract_lets +onlyGivenNames v79
  have hv79 : State.Kept qu F o v79 := by
    unfold v79
    refine State.onAgent_kept (sub_of hF rfl) ?_
    with_reducible assumption
  clear_value v79
  refine State.kept_foldl ?_ ?_
  · with_reducible assumption
  · intro s77 x76 h75
    split
    · refine State.agCredits_kept (sub_of hF rfl) ?_
      with_reducible assumption
    · with_reducible assumption

theorem State.agLcb_kept {qu : List Instr} {F : Nat} {o : State} {s : State} {a : Addr} {n type body : Nat} (hF : 0x80001 ||| F = F) (hk : State.Kept qu F o s) : State.Kept qu F o (State.agLcb s a n type body) := by
  unfold State.agLcb
  refine State.send_kept (sub_of hF rfl) ?_
  refine State.onAgent_kept (sub_of hF rfl) ?_
  with_reducible assumption

theorem State.agFill_kept {qu : List Instr} {F : Nat} {o : State} {s : State} {a : Addr} {n : Nat} (hF : 0x80000 ||| F = F) (hk : State.Kept qu F o s) : State.Kept qu F o (State.agFill s a n) := by
  unfold State.agFill
  refine State.onAgent_kept (sub_of hF rfl) ?_
  with_reducible assumption

theorem State.agEmit_kept {qu : List Instr} {F : Nat} {o : State} {s : State} {a : Addr} {n : Nat} (hF : 0x80001 ||| F = F) (hk : State.Kept qu F o s) : State.Kept qu F o (State.agEmit s a n) := by
  unfold State.agEmit
  extract_lets +onlyGivenNames v80
  have hv80 : State.Kept qu F o v80 := by
    unfold v80
    refine State.agFill_kept (sub_of hF rfl) ?_
    with_reducible assumption
  clear_value v80
  extract_lets +onlyGivenNames v79
  clear_value v79
  extract_lets +onlyGivenNames v78
  clear_value v78
  refine State.kept_ite (fun _ => ?_) (fun _ => ?_)
  · split
    · with_reducible assumption
    · extract_lets +onlyGivenNames v75
      have hv75 : State.Kept qu F o v75 := by
        unfold v75
        refine State.onAgent_kept (sub_of hF rfl) ?_
        with_reducible assumption
      clear_value v75
      extract_lets +onlyGivenNames v74
      have hv74 : State.Kept qu F o v74 := by
        unfold v74
        split
        · refine State.agCredits_kept (sub_of hF rfl) ?_
          with_reducible assumption
        · with_reducible assumption
      clear_value v74
      extract_lets +onlyGivenNames v73
      clear_value v73
      refine State.send_kept (sub_of hF rfl) ?_
      with_reducible assumption
  · with_reducible assumption

theorem State.sendEvent_kept {qu : List Instr} {F : Nat} {o : State} {s : State} {a : Addr} {e : KeptEvent} (hF : 0x80000 ||| F = F) (hk : State.Kept qu F o s) : State.Kept qu F o (State.sendEvent s a e) := by
  unfold State.sendEvent
  split
  · extract_lets +onlyGivenNames v79
    clear_value v79
    refine State.kept_foldl ?_ ?_
    · with_reducible assumption
    · intro s77 x76 h75
      refine State.agentSend_kept (sub_of hF rfl) ?_
      with_reducible assumption
  · with_reducible assumption

theorem State.agentEvent_kept {qu : List Instr} {F : Nat} {o : State} {s : State} {a : Addr} {cls subject : Nat} {arg : Word} {body : List Word} (hF : 0x80000 ||| F = F) (hk : State.Kept qu F o s) : State.Kept qu F o (State.agentEvent s a cls subject arg body) := by
  unfold State.agentEvent
  extract_lets +onlyGivenNames v80
  clear_value v80
  extract_lets +onlyGivenNames v79
  clear_value v79
  extract_lets +onlyGivenNames v78
  have hv78 : State.Kept qu F o v78 := by
    unfold v78
    refine State.onAgent_kept (sub_of hF rfl) ?_
    with_reducible assumption
  clear_value v78
  refine State.kept_ite (fun _ => ?_) (fun _ => ?_)
  · refine State.onAgent_kept (sub_of hF rfl) ?_
    with_reducible assumption
  · refine State.sendEvent_kept (sub_of hF rfl) ?_
    refine State.onAgent_kept (sub_of hF rfl) ?_
    with_reducible assumption

end Sys2Proof.Machine
end

