-- ==== Sys2Proof/Laws/KeptAgentFlow.lean ====
section
/-! SUPPORT. Laws/KeptAgentFlow.lean: each operation of Machine/AgentFlow.lean keeps the queue and the invariant. -/
namespace Sys2Proof.Machine

theorem State.originate_kept {qu : List Instr} {F : Nat} {o : State} {s : State} {a : Addr} {p : Packet} (hF : 0x80000 ||| F = F) (hk : State.Kept qu F o s) : State.Kept qu F o (State.originate s a p) := by
  unfold State.originate
  extract_lets +onlyGivenNames v80
  clear_value v80
  refine State.kept_ite (fun _ => ?_) (fun _ => ?_)
  · refine State.agentSend_kept (sub_of hF rfl) ?_
    with_reducible assumption
  · with_reducible assumption

theorem State.choosePlane_kept {qu : List Instr} {F : Nat} {o : State} {s : State} {a : Addr} {en : Nat} (hF : 0x80000 ||| F = F) (hk : State.Kept qu F o s) : State.Kept qu F o (State.choosePlane s a en).2 := by
  unfold State.choosePlane
  extract_lets +onlyGivenNames v80
  clear_value v80
  extract_lets +onlyGivenNames v79
  clear_value v79
  extract_lets +onlyGivenNames v78
  clear_value v78
  extract_lets +onlyGivenNames v77
  clear_value v77
  split
  · dsimp only
    refine State.onAgent_kept (sub_of hF rfl) ?_
    with_reducible assumption
  · dsimp only
    refine State.onAgent_kept (sub_of hF rfl) ?_
    with_reducible assumption

theorem State.onAgFlow_kept {qu : List Instr} {F : Nat} {o : State} {s : State} {a : Addr} {mine : Flow → Bool} {f : Flow → Flow} (hF : 0x80000 ||| F = F) (hk : State.Kept qu F o s) : State.Kept qu F o (State.onAgFlow s a mine f) := by
  unfold State.onAgFlow
  refine State.onAgent_kept (sub_of hF rfl) ?_
  with_reducible assumption

theorem State.originateCoord_kept {qu : List Instr} {F : Nat} {o : State} {s : State} {a : Addr} {p : Packet} (hF : 0x80000 ||| F = F) (hk : State.Kept qu F o s) : State.Kept qu F o (State.originateCoord s a p) := by
  unfold State.originateCoord
  split
  · refine State.agentSend_kept (sub_of hF rfl) ?_
    with_reducible assumption
  · with_reducible assumption

theorem State.agLeave_kept {qu : List Instr} {F : Nat} {o : State} {s : State} {a : Addr} {key back : Nat} {p : Packet} (hF : 0x80000 ||| F = F) (hk : State.Kept qu F o s) : State.Kept qu F o (State.agLeave s a key back p) := by
  unfold State.agLeave
  refine State.kept_ite (fun _ => ?_) (fun _ => ?_)
  · refine State.kept_ite (fun _ => ?_) (fun _ => ?_)
    · refine State.originateCoord_kept (sub_of hF rfl) ?_
      with_reducible assumption
    · refine State.originate_kept (sub_of hF rfl) ?_
      with_reducible assumption
  · refine State.kept_ite (fun _ => ?_) (fun _ => ?_)
    · refine State.agentSend_kept (sub_of hF rfl) ?_
      with_reducible assumption
    · refine State.kept_ite (fun _ => ?_) (fun _ => ?_)
      · refine State.agentSend_kept (sub_of hF rfl) ?_
        with_reducible assumption
      · extract_lets +onlyGivenNames v77
        have hv77 : State.Kept qu F o v77.2 := by
          unfold v77
          refine State.choosePlane_kept (sub_of hF rfl) ?_
          with_reducible assumption
        clear_value v77
        split
        · refine State.agentSend_kept (sub_of hF rfl) ?_
          with_reducible assumption
        · with_reducible assumption

theorem State.agPump_kept {qu : List Instr} {F : Nat} {o : State}  {n : Nat} {a1 : Addr} {a2 : (Flow → Bool)} {s : State} (hF : 0x80000 ||| F = F) (hk : State.Kept qu F o s) : State.Kept qu F o (State.agPump  n a1 a2 s) := by
  induction n generalizing a1 a2 s with
  | zero =>
    rw [State.agPump]
    with_reducible assumption
  | succ n ih =>
    rw [State.agPump]
    split
    · with_reducible assumption
    · split
      · with_reducible assumption
      · refine State.kept_ite (fun _ => ?_) (fun _ => ?_)
        · with_reducible assumption
        · extract_lets +onlyGivenNames v77
          clear_value v77
          extract_lets +onlyGivenNames v76
          clear_value v76
          extract_lets +onlyGivenNames v75
          clear_value v75
          extract_lets +onlyGivenNames v74
          have hv74 : State.Kept qu F o v74 := by
            unfold v74
            refine State.onAgFlow_kept (sub_of hF rfl) ?_
            with_reducible assumption
          clear_value v74
          apply ih
          refine State.agLeave_kept (sub_of hF rfl) ?_
          with_reducible assumption

theorem State.agPumpAll_kept {qu : List Instr} {F : Nat} {o : State} {s : State} {a : Addr} (hF : 0x80000 ||| F = F) (hk : State.Kept qu F o s) : State.Kept qu F o (State.agPumpAll s a) := by
  unfold State.agPumpAll
  refine State.kept_foldl ?_ ?_
  · with_reducible assumption
  · intro s79 x78 h77
    refine State.agPump_kept (sub_of hF rfl) ?_
    with_reducible assumption

theorem State.agFlowSend_kept {qu : List Instr} {F : Nat} {o : State} {s : State} {a : Addr} {port : Nat} {p : Packet} {ctx launch piece : Nat} (hF : 0x80000 ||| F = F) (hk : State.Kept qu F o s) : State.Kept qu F o (State.agFlowSend s a port p ctx launch piece) := by
  unfold State.agFlowSend
  extract_lets +onlyGivenNames v80
  clear_value v80
  extract_lets +onlyGivenNames v79
  clear_value v79
  extract_lets +onlyGivenNames v78
  clear_value v78
  extract_lets +onlyGivenNames v77
  clear_value v77
  extract_lets +onlyGivenNames v76
  clear_value v76
  extract_lets +onlyGivenNames v75
  have hv75 : State.Kept qu F o v75 := by
    unfold v75
    refine State.kept_ite (fun _ => ?_) (fun _ => ?_)
    · refine State.onAgFlow_kept (sub_of hF rfl) ?_
      with_reducible assumption
    · refine State.onAgent_kept (sub_of hF rfl) ?_
      with_reducible assumption
  clear_value v75
  refine State.agPump_kept (sub_of hF rfl) ?_
  with_reducible assumption

theorem State.agDrop_kept {qu : List Instr} {F : Nat} {o : State} {s : State} {a : Addr} {p : SentPkt → Bool} (hF : 0x80000 ||| F = F) (hk : State.Kept qu F o s) : State.Kept qu F o (State.agDrop s a p) := by
  unfold State.agDrop
  refine State.onAgFlow_kept (sub_of hF rfl) ?_
  with_reducible assumption

theorem State.agAck_kept {qu : List Instr} {F : Nat} {o : State} {s : State} {a : Addr} {f : Flow} {back : Nat} {amode : Bool} {src : Addr} (hF : 0x80000 ||| F = F) (hk : State.Kept qu F o s) : State.Kept qu F o (State.agAck s a f back amode src) := by
  unfold State.agAck
  refine State.agLeave_kept (sub_of hF rfl) ?_
  with_reducible assumption

theorem State.agTake_kept {qu : List Instr} {F : Nat} {o : State} {s : State} {a : Addr} {port : Nat} {h : Hdr} {src : Addr} (hF : 0x80000 ||| F = F) (hk : State.Kept qu F o s) : State.Kept qu F o (State.agTake s a port h src).2 := by
  unfold State.agTake
  extract_lets +onlyGivenNames v80
  clear_value v80
  extract_lets +onlyGivenNames v79
  clear_value v79
  extract_lets +onlyGivenNames v78
  clear_value v78
  rw [apply_ite Prod.snd]
  refine State.kept_ite (fun _ => ?_) (fun _ => ?_)
  · extract_lets +onlyGivenNames v75
    have hv75 : State.Kept qu F o v75 := by
      unfold v75
      refine State.kept_ite (fun _ => ?_) (fun _ => ?_)
      · with_reducible assumption
      · refine State.onAgent_kept (sub_of hF rfl) ?_
        with_reducible assumption
    clear_value v75
    extract_lets +onlyGivenNames v74
    have hv74 : State.Kept qu F o v74 := by
      unfold v74
      refine State.onAgFlow_kept (sub_of hF rfl) ?_
      with_reducible assumption
    clear_value v74
    split
    · dsimp only
      refine State.agAck_kept (sub_of hF rfl) ?_
      with_reducible assumption
    · with_reducible assumption
  · extract_lets +onlyGivenNames v75
    have hv75 : State.Kept qu F o v75 := by
      unfold v75
      refine State.onAgent_kept (sub_of hF rfl) ?_
      with_reducible assumption
    clear_value v75
    split
    · rw [apply_ite Prod.snd]
      refine State.kept_ite (fun _ => ?_) (fun _ => ?_)
      · with_reducible assumption
      · dsimp only
        refine State.agAck_kept (sub_of hF rfl) ?_
        refine State.onAgFlow_kept (sub_of hF rfl) ?_
        with_reducible assumption
    · with_reducible assumption

theorem State.agAckIn_kept {qu : List Instr} {F : Nat} {o : State} {s : State} {a : Addr} {mine : Flow → Bool} {payload : List Word} (hF : 0x80000 ||| F = F) (hk : State.Kept qu F o s) : State.Kept qu F o (State.agAckIn s a mine payload) := by
  unfold State.agAckIn
  extract_lets +onlyGivenNames v80
  clear_value v80
  extract_lets +onlyGivenNames v79
  clear_value v79
  extract_lets +onlyGivenNames v78
  have hv78 : State.Kept qu F o v78 := by
    unfold v78
    refine State.onAgFlow_kept (sub_of hF rfl) ?_
    with_reducible assumption
  clear_value v78
  refine State.agPump_kept (sub_of hF rfl) ?_
  with_reducible assumption

end Sys2Proof.Machine
end

