-- ==== Sys2Proof/Laws/KeptSolverOps.lean ====
section
/-! SUPPORT. Laws/KeptSolverOps.lean: each operation of Machine/SolverOps.lean keeps the queue and the invariant. -/
namespace Sys2Proof.Machine

theorem State.onCycle_kept {qu : List Instr} {F : Nat} {o : State} {s : State} {f : Cycle → Cycle} (hF : 0x100 ||| F = F) (hk : State.Kept qu F o s) : State.Kept qu F o (State.onCycle s f) := by
  unfold State.onCycle
  refine State.kept_slv (bit_of hF rfl) ?_
  with_reducible assumption

theorem State.onHead_kept {qu : List Instr} {F : Nat} {o : State} {s : State} {f : HeadCycle → HeadCycle} (hF : 0x100 ||| F = F) (hk : State.Kept qu F o s) : State.Kept qu F o (State.onHead s f) := by
  unfold State.onHead
  refine State.kept_slv (bit_of hF rfl) ?_
  with_reducible assumption

theorem State.setPhase_kept {qu : List Instr} {F : Nat} {o : State} {s : State} {p : Phase} (hF : 0x1000000100 ||| F = F) (hk : State.Kept qu F o s) : State.Kept qu F o (State.setPhase s p) := by
  unfold State.setPhase
  refine State.setF_kept (bit_of hF rfl) ?_
  refine State.onCycle_kept (sub_of hF rfl) ?_
  with_reducible assumption

theorem State.notReady_kept {qu : List Instr} {F : Nat} {o : State} {s : State} {epoch reason : Nat} (hF : 0x141 ||| F = F) (hk : State.Kept qu F o s) : State.Kept qu F o (State.notReady s epoch reason) := by
  unfold State.notReady
  refine State.tellHead_kept (sub_of hF rfl) ?_
  refine State.onCycle_kept (sub_of hF rfl) ?_
  with_reducible assumption

theorem State.sendReady_kept {qu : List Instr} {F : Nat} {o : State} {s : State} (hF : 0x141 ||| F = F) (hk : State.Kept qu F o s) : State.Kept qu F o (State.sendReady s) := by
  unfold State.sendReady
  refine State.tellHead_kept (sub_of hF rfl) ?_
  refine State.onCycle_kept (sub_of hF rfl) ?_
  with_reducible assumption

theorem State.sendGo_kept {qu : List Instr} {F : Nat} {o : State} {s : State} (hF : 0x40 ||| F = F) (hk : State.Kept qu F o s) : State.Kept qu F o (State.sendGo s) := by
  unfold State.sendGo
  refine State.kept_ite (fun _ => ?_) (fun _ => ?_)
  · refine State.broadcast_kept (sub_of hF rfl) ?_
    with_reducible assumption
  · with_reducible assumption

theorem State.armAgent_kept {qu : List Instr} {F : Nat} {o : State} {s : State} {a : Addr} (hF : 0xc0 ||| F = F) (hk : State.Kept qu F o s) : State.Kept qu F o (State.armAgent s a) := by
  unfold State.armAgent
  extract_lets +onlyGivenNames v80
  clear_value v80
  extract_lets +onlyGivenNames v79
  clear_value v79
  refine State.mgmtWrite_kept (sub_of hF rfl) ?_
  refine State.mgmtWrite_kept (sub_of hF rfl) ?_
  with_reducible assumption

theorem State.rearmAgents_kept {qu : List Instr} {F : Nat} {o : State} {s : State} (hF : 0xc0 ||| F = F) (hk : State.Kept qu F o s) : State.Kept qu F o (State.rearmAgents s) := by
  unfold State.rearmAgents
  extract_lets +onlyGivenNames v80
  clear_value v80
  refine State.mgmtAll_kept (sub_of hF rfl) ?_
  with_reducible assumption

theorem State.armBank_kept {qu : List Instr} {F : Nat} {o : State} {s : State} (hF : 0x10000001c0 ||| F = F) (hk : State.Kept qu F o s) : State.Kept qu F o (State.armBank s) := by
  unfold State.armBank
  extract_lets +onlyGivenNames v80
  have hv80 : State.Kept qu F o v80 := by
    unfold v80
    refine State.onCycle_kept (sub_of hF rfl) ?_
    refine State.setPhase_kept (sub_of hF rfl) ?_
    with_reducible assumption
  clear_value v80
  refine State.kept_foldl ?_ ?_
  · with_reducible assumption
  · intro s78 x77 h76
    refine State.armAgent_kept (sub_of hF rfl) ?_
    with_reducible assumption

theorem State.answerBank_kept {qu : List Instr} {F : Nat} {o : State} {s : State} (hF : 0x141 ||| F = F) (hk : State.Kept qu F o s) : State.Kept qu F o (State.answerBank s) := by
  unfold State.answerBank
  extract_lets +onlyGivenNames v80
  clear_value v80
  refine State.kept_ite (fun _ => ?_) (fun _ => ?_)
  · with_reducible assumption
  · refine State.kept_ite (fun _ => ?_) (fun _ => ?_)
    · refine State.sendReady_kept (sub_of hF rfl) ?_
      with_reducible assumption
    · refine State.kept_ite (fun _ => ?_) (fun _ => ?_)
      · with_reducible assumption
      · refine State.notReady_kept (sub_of hF rfl) ?_
        with_reducible assumption

theorem State.armFailed_kept {qu : List Instr} {F : Nat} {o : State} {s : State} {a : Addr} (hF : 0x141 ||| F = F) (hk : State.Kept qu F o s) : State.Kept qu F o (State.armFailed s a) := by
  unfold State.armFailed
  extract_lets +onlyGivenNames v80
  clear_value v80
  extract_lets +onlyGivenNames v79
  have hv79 : State.Kept qu F o v79 := by
    unfold v79
    refine State.onCycle_kept (sub_of hF rfl) ?_
    with_reducible assumption
  clear_value v79
  refine State.kept_ite (fun _ => ?_) (fun _ => ?_)
  · refine State.notReady_kept (sub_of hF rfl) ?_
    with_reducible assumption
  · with_reducible assumption

theorem State.armRest_kept {qu : List Instr} {F : Nat} {o : State} {s : State} (hF : 0xc0 ||| F = F) (hk : State.Kept qu F o s) : State.Kept qu F o (State.armRest s) := by
  unfold State.armRest
  refine State.kept_ite (fun _ => ?_) (fun _ => ?_)
  · refine State.kept_foldl ?_ ?_
    · with_reducible assumption
    · intro s78 x77 h76
      refine State.kept_ite (fun _ => ?_) (fun _ => ?_)
      · with_reducible assumption
      · refine State.armAgent_kept (sub_of hF rfl) ?_
        with_reducible assumption
  · with_reducible assumption

theorem State.takeAnnounce_kept {qu : List Instr} {F : Nat} {o : State} {s : State} {f : Nat} {d : SliceSet} (hF : 0x1000000100 ||| F = F) (hk : State.Kept qu F o s) : State.Kept qu F o (State.takeAnnounce s f d) := by
  unfold State.takeAnnounce
  extract_lets +onlyGivenNames v80
  have hv80 : State.Kept qu F o v80 := by
    unfold v80
    refine State.onCycle_kept (sub_of hF rfl) ?_
    with_reducible assumption
  clear_value v80
  refine State.setF_kept (bit_of hF rfl) ?_
  refine State.setSliceSet_kept (bit_of hF rfl) rfl ?_
  refine State.setPair_kept (bit_of hF rfl) (bit_of hF rfl) ?_
  with_reducible assumption

theorem State.confirmBank_kept {qu : List Instr} {F : Nat} {o : State} {s : State} (hF : 0x1000000140 ||| F = F) (hk : State.Kept qu F o s) : State.Kept qu F o (State.confirmBank s) := by
  unfold State.confirmBank
  refine State.onCycle_kept (sub_of hF rfl) ?_
  refine State.sendGo_kept (sub_of hF rfl) ?_
  refine State.setPhase_kept (sub_of hF rfl) ?_
  with_reducible assumption

theorem State.learnEpoch_kept {qu : List Instr} {F : Nat} {o : State} {s : State} {e : Nat} (hF : 0x100 ||| F = F) (hk : State.Kept qu F o s) : State.Kept qu F o (State.learnEpoch s e) := by
  unfold State.learnEpoch
  refine State.kept_slv (bit_of hF rfl) ?_
  with_reducible assumption

theorem State.askEpochs_kept {qu : List Instr} {F : Nat} {o : State} {s : State} {coming : Nat} (hF : 0x41 ||| F = F) (hk : State.Kept qu F o s) : State.Kept qu F o (State.askEpochs s coming) := by
  unfold State.askEpochs
  extract_lets +onlyGivenNames v80
  clear_value v80
  refine State.kept_ite (fun _ => ?_) (fun _ => ?_)
  · with_reducible assumption
  · refine State.kept_foldl_range ?_ ?_
    · with_reducible assumption
    · intro s77 x76 x75 h74
      refine State.kept_ite (fun _ => ?_) (fun _ => ?_)
      · with_reducible assumption
      · refine State.tellHead_kept (sub_of hF rfl) ?_
        with_reducible assumption

theorem State.reportGap_kept {qu : List Instr} {F : Nat} {o : State} {s : State} (hF : 0x141 ||| F = F) (hk : State.Kept qu F o s) : State.Kept qu F o (State.reportGap s) := by
  unfold State.reportGap
  split
  · refine State.kept_ite (fun _ => ?_) (fun _ => ?_)
    · with_reducible assumption
    · refine State.notReady_kept (sub_of hF rfl) ?_
      refine State.askEpochs_kept (sub_of hF rfl) ?_
      with_reducible assumption
  · with_reducible assumption

theorem State.heard_kept {qu : List Instr} {F : Nat} {o : State} {s : State} {src : Addr} {m : KMsg} (hF : 0x1000000161 ||| F = F) (hk : State.Kept qu F o s) : State.Kept qu F o (State.heard s src m) := by
  unfold State.heard
  extract_lets +onlyGivenNames v80
  extract_lets +onlyGivenNames v79
  extract_lets +onlyGivenNames v78
  have hv78 : State.Kept qu F o v78 := by
    unfold v78
    refine State.kept_link (bit_of hF rfl) ?_
    with_reducible assumption
  extract_lets +onlyGivenNames v77
  extract_lets +onlyGivenNames v76
  extract_lets +onlyGivenNames v75
  have hv75 : State.Kept qu F o v75 := by
    unfold v75
    refine State.kept_ite (fun _ => ?_) (fun _ => ?_)
    · refine State.kept_chart (bit_of hF rfl) ?_
      with_reducible assumption
    · with_reducible assumption
  extract_lets +onlyGivenNames v74
  extract_lets +onlyGivenNames v73
  have hv73 : State.Kept qu F o v73 := by
    unfold v73
    refine State.kept_ite (fun _ => ?_) (fun _ => ?_)
    · refine State.confirmBank_kept (sub_of hF rfl) ?_
      with_reducible assumption
    · with_reducible assumption
  extract_lets +onlyGivenNames v72
  have hv72 : State.Kept qu F o v72 := by
    unfold v72
    refine State.kept_ite (fun _ => ?_) (fun _ => ?_)
    · refine State.onHead_kept (sub_of hF rfl) ?_
      with_reducible assumption
    · with_reducible assumption
  clear_value v72
  extract_lets +onlyGivenNames v71
  clear_value v71
  refine State.askEpochs_kept (sub_of hF rfl) ?_
  refine State.learnEpoch_kept (sub_of hF rfl) ?_
  with_reducible assumption

theorem State.arriveMsg_kept {qu : List Instr} {F : Nat} {o : State} {s : State} {mtype port : Nat} {p : Packet} (hF : 0x1001000024169 ||| F = F) (hk : State.Kept qu F o s) : State.Kept qu F o (State.arriveMsg s mtype port p).1 := by
  unfold State.arriveMsg
  extract_lets +onlyGivenNames v80
  clear_value v80
  extract_lets +onlyGivenNames v79
  clear_value v79
  rw [apply_ite Prod.fst]
  refine State.kept_ite (fun _ => ?_) (fun _ => ?_)
  · dsimp only
    refine State.heard_kept (sub_of hF rfl) ?_
    with_reducible assumption
  · extract_lets +onlyGivenNames v76
    have hv76 : State.Kept qu F o v76 := by
      unfold v76
      refine State.received_kept (sub_of hF rfl) ?_
      with_reducible assumption
    clear_value v76
    split
    · rename_i n75_0 n75_1 n75_2
      have hn75_2 : State.Kept qu F o n75_1 := by
        refine State.refused_kept (sub_of hF rfl) ?_ _ n75_2
        with_reducible assumption
      with_reducible assumption
    · rw [apply_ite Prod.fst]
      refine State.kept_ite (fun _ => ?_) (fun _ => ?_)
      · dsimp only
        refine State.refusePacket_kept (sub_of hF rfl) ?_
        with_reducible assumption
      · extract_lets +onlyGivenNames v72
        have hv72 : State.Kept qu F o v72 := by
          unfold v72
          refine State.returnCredits_kept (sub_of hF rfl) ?_
          with_reducible assumption
        clear_value v72
        extract_lets +onlyGivenNames v71
        clear_value v71
        rw [apply_ite Prod.fst]
        refine State.kept_ite (fun _ => ?_) (fun _ => ?_)
        · dsimp only
          refine State.kept_ite (fun _ => ?_) (fun _ => ?_)
          · refine State.hopMsg_kept (sub_of hF rfl) ?_
            with_reducible assumption
          · with_reducible assumption
        · rw [apply_ite Prod.fst]
          refine State.kept_ite (fun _ => ?_) (fun _ => ?_)
          · dsimp only
            refine State.kept_ite (fun _ => ?_) (fun _ => ?_)
            · refine State.hopMsg_kept (sub_of hF rfl) ?_
              with_reducible assumption
            · with_reducible assumption
          · rw [apply_ite Prod.fst]
            refine State.kept_ite (fun _ => ?_) (fun _ => ?_)
            · extract_lets +onlyGivenNames v64
              have hv64 : State.Kept qu F o v64.2 := by
                unfold v64
                refine State.firstFlood_kept (sub_of hF rfl) ?_
                with_reducible assumption
              clear_value v64
              rw [apply_ite Prod.fst]
              refine State.kept_ite (fun _ => ?_) (fun _ => ?_)
              · dsimp only
                refine State.heard_kept (sub_of hF rfl) ?_
                with_reducible assumption
              · with_reducible assumption
            · dsimp only
              refine State.heard_kept (sub_of hF rfl) ?_
              with_reducible assumption

theorem State.takeMsg_kept {qu : List Instr} {F : Nat} {o : State} {s : State} {mtype port : Nat} {p : Packet} {act : State → Addr → KMsg → State} (hF : 0x1001000024179 ||| F = F) (hk : State.Kept qu F o s) (h_act : ∀ a0 a1 a2, State.Kept qu F o a0 → State.Kept qu F o (act a0 a1 a2)) : State.Kept qu F o (State.takeMsg s mtype port p act) := by
  unfold State.takeMsg
  split
  · rename_i n80_0 n80_1 n80_2 n80_3
    have hn80_3 : State.Kept qu F o n80_1 := by
      have en80_3 := congrArg (fun z => z.1) n80_3
      rw [show n80_1 = _ from en80_3.symm]
      beta_reduce
      refine State.arriveMsg_kept (sub_of hF rfl) ?_
      with_reducible assumption
    apply h_act
    refine State.stageInput_kept (sub_of hF rfl) ?_
    with_reducible assumption
  · rename_i n80_0 n80_1 n80_2
    have hn80_2 : State.Kept qu F o n80_1 := by
      have en80_2 := congrArg (fun z => z.1) n80_2
      rw [show n80_1 = _ from en80_2.symm]
      beta_reduce
      refine State.arriveMsg_kept (sub_of hF rfl) ?_
      with_reducible assumption
    with_reducible assumption

theorem State.stageMsg_kept {qu : List Instr} {F : Nat} {o : State} {s : State} {mtype port : Nat} {p : Packet} (hF : 0x1001000024179 ||| F = F) (hk : State.Kept qu F o s) : State.Kept qu F o (State.stageMsg s mtype port p) := by
  unfold State.stageMsg
  split
  · rename_i n80_0 n80_1 n80_2 n80_3
    have hn80_3 : State.Kept qu F o n80_1 := by
      have en80_3 := congrArg (fun z => z.1) n80_3
      rw [show n80_1 = _ from en80_3.symm]
      beta_reduce
      refine State.arriveMsg_kept (sub_of hF rfl) ?_
      with_reducible assumption
    refine State.stageInput_kept (sub_of hF rfl) ?_
    with_reducible assumption
  · rename_i n80_0 n80_1 n80_2
    have hn80_2 : State.Kept qu F o n80_1 := by
      have en80_2 := congrArg (fun z => z.1) n80_2
      rw [show n80_1 = _ from en80_2.symm]
      beta_reduce
      refine State.arriveMsg_kept (sub_of hF rfl) ?_
      with_reducible assumption
    with_reducible assumption

theorem State.collect_kept {qu : List Instr} {F : Nat} {o : State} {s : State} {m : KMsg} (hF : 0x100 ||| F = F) (hk : State.Kept qu F o s) : State.Kept qu F o (State.collect s m).1 := by
  unfold State.collect
  extract_lets +onlyGivenNames v80
  clear_value v80
  extract_lets +onlyGivenNames v79
  clear_value v79
  extract_lets +onlyGivenNames v78
  clear_value v78
  extract_lets +onlyGivenNames v77
  clear_value v77
  rw [apply_ite Prod.fst]
  refine State.kept_ite (fun _ => ?_) (fun _ => ?_)
  · dsimp only
    refine State.kept_slv (bit_of hF rfl) ?_
    with_reducible assumption
  · extract_lets +onlyGivenNames v74
    clear_value v74
    dsimp only
    refine State.kept_slv (bit_of hF rfl) ?_
    with_reducible assumption

theorem State.takeTable_kept {qu : List Instr} {F : Nat} {o : State} {s : State} {epoch : Nat} {set : SliceSet} {ws : List Word} (hF : 0x4000000209 ||| F = F) (hk : State.Kept qu F o s) : State.Kept qu F o (State.takeTable s epoch set ws) := by
  unfold State.takeTable
  extract_lets +onlyGivenNames v80
  clear_value v80
  extract_lets +onlyGivenNames v79
  clear_value v79
  extract_lets +onlyGivenNames v78
  have hv78 : State.Kept qu F o v78 := by
    unfold v78
    refine State.kept_slc (bit_of hF rfl) ?_
    with_reducible assumption
  clear_value v78
  extract_lets +onlyGivenNames v77
  have hv77 : State.Kept qu F o v77 := by
    unfold v77
    refine State.kept_foldl ?_ ?_
    · with_reducible assumption
    · intro s75 x74 h73
      extract_lets +onlyGivenNames v72
      clear_value v72
      refine State.noteSlice_kept (sub_of hF rfl) ?_
      refine State.changeSlice_kept (sub_of hF rfl) ?_
      with_reducible assumption
  clear_value v77
  extract_lets +onlyGivenNames v76
  have hv76 : State.Kept qu F o v76 := by
    unfold v76
    refine State.kept_foldl ?_ ?_
    · with_reducible assumption
    · intro s74 x73 h72
      refine State.kept_ite (fun _ => ?_) (fun _ => ?_)
      · with_reducible assumption
      · split
        · refine State.noteSlice_kept (sub_of hF rfl) ?_
          refine State.changeSlice_kept (sub_of hF rfl) ?_
          with_reducible assumption
        · with_reducible assumption
  clear_value v76
  refine State.showSlices_kept (sub_of hF rfl) ?_
  with_reducible assumption

theorem State.recallAnnounce_kept {qu : List Instr} {F : Nat} {o : State} {s : State} {epoch : Nat} (hF : 0x1000000100 ||| F = F) (hk : State.Kept qu F o s) : State.Kept qu F o (State.recallAnnounce s epoch) := by
  unfold State.recallAnnounce
  split
  · refine State.kept_ite (fun _ => ?_) (fun _ => ?_)
    · refine State.takeAnnounce_kept (sub_of hF rfl) ?_
      refine State.kept_slv (bit_of hF rfl) ?_
      with_reducible assumption
    · with_reducible assumption
  · with_reducible assumption

theorem State.takeEpoch_kept {qu : List Instr} {F : Nat} {o : State} {s : State} (hF : 0x5400000349 ||| F = F) (hk : State.Kept qu F o s) : State.Kept qu F o (State.takeEpoch s) := by
  unfold State.takeEpoch
  extract_lets +onlyGivenNames v80
  clear_value v80
  split
  · with_reducible assumption
  · refine State.kept_ite (fun _ => ?_) (fun _ => ?_)
    · with_reducible assumption
    · extract_lets +onlyGivenNames v77
      clear_value v77
      extract_lets +onlyGivenNames v76
      have hv76 : State.Kept qu F o v76 := by
        unfold v76
        split
        · refine State.takeTable_kept (sub_of hF rfl) ?_
          with_reducible assumption
        · with_reducible assumption
      clear_value v76
      extract_lets +onlyGivenNames v75
      clear_value v75
      extract_lets +onlyGivenNames v74
      clear_value v74
      extract_lets +onlyGivenNames v73
      clear_value v73
      extract_lets +onlyGivenNames v72
      clear_value v72
      extract_lets +onlyGivenNames v71
      have hv71 : State.Kept qu F o v71 := by
        unfold v71
        refine State.kept_with ?_ (by constructor <;> first | exact fun _ => rfl | exact fun _ _ => rfl | exact fun h => absurd (h.symm.trans (bit_of hF rfl)) Bool.false_ne_true) rfl rfl rfl
        with_reducible assumption
      clear_value v71
      extract_lets +onlyGivenNames v70
      have hv70 : State.Kept qu F o v70 := by
        unfold v70
        refine State.setReg_kept (bit_of hF rfl) ?_
        with_reducible assumption
      clear_value v70
      extract_lets +onlyGivenNames v69
      clear_value v69
      extract_lets +onlyGivenNames v68
      clear_value v68
      extract_lets +onlyGivenNames v67
      clear_value v67
      extract_lets +onlyGivenNames v66
      clear_value v66
      extract_lets +onlyGivenNames v65
      have hv65 : State.Kept qu F o v65 := by
        unfold v65
        refine State.onCycle_kept (sub_of hF rfl) ?_
        with_reducible assumption
      clear_value v65
      extract_lets +onlyGivenNames v64
      have hv64 : State.Kept qu F o v64 := by
        unfold v64
        refine State.recallAnnounce_kept (sub_of hF rfl) ?_
        with_reducible assumption
      clear_value v64
      extract_lets +onlyGivenNames v63
      have hv63 : State.Kept qu F o v63 := by
        unfold v63
        refine State.setF_kept (bit_of hF rfl) ?_
        refine State.setPhase_kept (sub_of hF rfl) ?_
        with_reducible assumption
      clear_value v63
      extract_lets +onlyGivenNames v62
      have hv62 : State.Kept qu F o v62 := by
        unfold v62
        refine State.setReg_kept (bit_of hF rfl) ?_
        refine State.setReg_kept (bit_of hF rfl) ?_
        refine State.setReg_kept (bit_of hF rfl) ?_
        with_reducible assumption
      clear_value v62
      refine State.count_kept (by split <;> exact bit_of hF rfl) ?_
      with_reducible assumption

theorem State.finishSolve_kept {qu : List Instr} {F : Nat} {o : State} {s : State} (hF : 0x1000000100 ||| F = F) (hk : State.Kept qu F o s) : State.Kept qu F o (State.finishSolve s) := by
  unfold State.finishSolve
  extract_lets +onlyGivenNames v80
  clear_value v80
  extract_lets +onlyGivenNames v79
  clear_value v79
  extract_lets +onlyGivenNames v78
  clear_value v78
  extract_lets +onlyGivenNames v77
  clear_value v77
  extract_lets +onlyGivenNames v76
  clear_value v76
  extract_lets +onlyGivenNames v75
  clear_value v75
  extract_lets +onlyGivenNames v74
  clear_value v74
  extract_lets +onlyGivenNames v73
  clear_value v73
  extract_lets +onlyGivenNames v72
  clear_value v72
  extract_lets +onlyGivenNames v71
  have hv71 : State.Kept qu F o v71 := by
    unfold v71
    refine State.onCycle_kept (sub_of hF rfl) ?_
    with_reducible assumption
  clear_value v71
  refine State.setPhase_kept (sub_of hF rfl) ?_
  refine State.setDigest_kept (bit_of hF rfl) rfl ?_
  refine State.setReg_kept (bit_of hF rfl) ?_
  with_reducible assumption

theorem State.solveTick_kept {qu : List Instr} {F : Nat} {o : State} {s : State} (hF : 0x1000000100 ||| F = F) (hk : State.Kept qu F o s) : State.Kept qu F o (State.solveTick s) := by
  unfold State.solveTick
  refine State.kept_ite (fun _ => ?_) (fun _ => ?_)
  · extract_lets +onlyGivenNames v79
    have hv79 : State.Kept qu F o v79 := by
      unfold v79
      refine State.onCycle_kept (sub_of hF rfl) ?_
      with_reducible assumption
    clear_value v79
    refine State.kept_ite (fun _ => ?_) (fun _ => ?_)
    · refine State.finishSolve_kept (sub_of hF rfl) ?_
      with_reducible assumption
    · extract_lets +onlyGivenNames v77
      clear_value v77
      extract_lets +onlyGivenNames v76
      clear_value v76
      refine State.setReg_kept (bit_of hF rfl) ?_
      with_reducible assumption
  · with_reducible assumption

theorem State.writeBank_kept {qu : List Instr} {F : Nat} {o : State} {s : State} {a : Addr} {ws : List (Nat × Word)} (hF : 0xc0 ||| F = F) (hk : State.Kept qu F o s) : State.Kept qu F o (State.writeBank s a ws) := by
  unfold State.writeBank
  extract_lets +onlyGivenNames v80
  clear_value v80
  extract_lets +onlyGivenNames v79
  clear_value v79
  extract_lets +onlyGivenNames v78
  clear_value v78
  extract_lets +onlyGivenNames v77
  have hv77 : State.Kept qu F o v77 := by
    unfold v77
    refine State.kept_foldl ?_ ?_
    · with_reducible assumption
    · intro s75 x74 h73
      refine State.mgmtWrite_kept (sub_of hF rfl) ?_
      with_reducible assumption
  clear_value v77
  refine State.kept_ite (fun _ => ?_) (fun _ => ?_)
  · refine State.mgmtWrite_kept (sub_of hF rfl) ?_
    with_reducible assumption
  · with_reducible assumption

theorem State.startLoad_kept {qu : List Instr} {F : Nat} {o : State} {s : State} (hF : 0x10000001c0 ||| F = F) (hk : State.Kept qu F o s) : State.Kept qu F o (State.startLoad s) := by
  unfold State.startLoad
  extract_lets +onlyGivenNames v80
  have hv80 : State.Kept qu F o v80 := by
    unfold v80
    refine State.onCycle_kept (sub_of hF rfl) ?_
    refine State.setPhase_kept (sub_of hF rfl) ?_
    with_reducible assumption
  clear_value v80
  refine State.kept_foldl ?_ ?_
  · with_reducible assumption
  · intro s78 x77 h76
    refine State.writeBank_kept (sub_of hF rfl) ?_
    with_reducible assumption

theorem State.countOut_kept {qu : List Instr} {F : Nat} {o : State} {s : State} {a : Addr} (hF : 0x10000000241c9 ||| F = F) (hk : State.Kept qu F o s) : State.Kept qu F o (State.countOut s a) := by
  unfold State.countOut
  extract_lets +onlyGivenNames v80
  clear_value v80
  extract_lets +onlyGivenNames v79
  clear_value v79
  extract_lets +onlyGivenNames v78
  have hv78 : State.Kept qu F o v78 := by
    unfold v78
    refine State.kept_foldl ?_ ?_
    · with_reducible assumption
    · intro s76 x75 h74
      refine State.mgmtWrite_kept (sub_of hF rfl) ?_
      with_reducible assumption
  clear_value v78
  extract_lets +onlyGivenNames v77
  clear_value v77
  extract_lets +onlyGivenNames v76
  clear_value v76
  extract_lets +onlyGivenNames v75
  have hv75 : State.Kept qu F o v75 := by
    unfold v75
    refine State.kept_with ?_ (by constructor <;> first | exact fun _ => rfl | exact fun _ _ => rfl | exact fun h => absurd (h.symm.trans (bit_of hF rfl)) Bool.false_ne_true) rfl rfl rfl
    with_reducible assumption
  clear_value v75
  extract_lets +onlyGivenNames v74
  extract_lets +onlyGivenNames v73
  have hv73 : State.Kept qu F o v73 := by
    unfold v73
    refine State.kept_foldl ?_ ?_
    · with_reducible assumption
    · intro s71 x70 h69
      unfold v74
      refine State.logEvt_kept (sub_of hF rfl) ?_
      with_reducible assumption
  clear_value v73
  refine State.onCycle_kept (sub_of hF rfl) ?_
  with_reducible assumption

theorem State.bankReply_kept {qu : List Instr} {F : Nat} {o : State} {s : State} {op : MgmtOp} {words : List Word} (hF : 0x10000000241c9 ||| F = F) (hk : State.Kept qu F o s) : State.Kept qu F o (State.bankReply s op words) := by
  unfold State.bankReply
  extract_lets +onlyGivenNames v80
  clear_value v80
  extract_lets +onlyGivenNames v79
  clear_value v79
  extract_lets +onlyGivenNames v78
  clear_value v78
  split
  · refine State.kept_ite (fun _ => ?_) (fun _ => ?_)
    · with_reducible assumption
    · refine State.mgmtWrite_kept (sub_of hF rfl) ?_
      with_reducible assumption
  · refine State.kept_ite (fun _ => ?_) (fun _ => ?_)
    · with_reducible assumption
    · refine State.kept_ite (fun _ => ?_) (fun _ => ?_)
      · refine State.mgmtRead_kept (sub_of hF rfl) ?_
        with_reducible assumption
      · refine State.kept_ite (fun _ => ?_) (fun _ => ?_)
        · refine State.mgmtRead_kept (sub_of hF rfl) ?_
          with_reducible assumption
        · extract_lets +onlyGivenNames v73
          clear_value v73
          refine State.kept_ite (fun _ => ?_) (fun _ => ?_)
          · refine State.onCycle_kept (sub_of hF rfl) ?_
            with_reducible assumption
          · extract_lets +onlyGivenNames v71
            clear_value v71
            refine State.kept_ite (fun _ => ?_) (fun _ => ?_)
            · refine State.countOut_kept (sub_of hF rfl) ?_
              with_reducible assumption
            · refine State.writeBank_kept (sub_of hF rfl) ?_
              refine State.onCycle_kept (sub_of hF rfl) ?_
              with_reducible assumption
  · with_reducible assumption

theorem State.sendBankReady_kept {qu : List Instr} {F : Nat} {o : State} {s : State} (hF : 0x41 ||| F = F) (hk : State.Kept qu F o s) : State.Kept qu F o (State.sendBankReady s) := by
  unfold State.sendBankReady
  extract_lets +onlyGivenNames v80
  clear_value v80
  refine State.tellHead_kept (sub_of hF rfl) ?_
  with_reducible assumption

theorem State.dropCycle_kept {qu : List Instr} {F : Nat} {o : State} {s : State} (hF : 0x10000001c0 ||| F = F) (hk : State.Kept qu F o s) : State.Kept qu F o (State.dropCycle s) := by
  unfold State.dropCycle
  extract_lets +onlyGivenNames v80
  extract_lets +onlyGivenNames v79
  clear_value v79
  extract_lets +onlyGivenNames v78
  have hv78 : State.Kept qu F o v78 := by
    unfold v78
    refine State.kept_slv (bit_of hF rfl) ?_
    with_reducible assumption
  clear_value v78
  extract_lets +onlyGivenNames v77
  have hv77 : State.Kept qu F o v77 := by
    unfold v77
    refine State.kept_ite (fun _ => ?_) (fun _ => ?_)
    · refine State.mgmtAll_kept (sub_of hF rfl) ?_
      with_reducible assumption
    · with_reducible assumption
  clear_value v77
  extract_lets +onlyGivenNames v76
  have hv76 : State.Kept qu F o v76 := by
    unfold v76
    refine State.setPhase_kept (sub_of hF rfl) ?_
    refine State.onCycle_kept (sub_of hF rfl) ?_
    with_reducible assumption
  clear_value v76
  refine State.setF_kept (bit_of hF rfl) ?_
  refine State.setPair_kept (bit_of hF rfl) (bit_of hF rfl) ?_
  refine State.setReg_kept (bit_of hF rfl) ?_
  with_reducible assumption

theorem State.revertSlice_kept {qu : List Instr} {F : Nat} {o : State} {s : State} {id : Nat} (hF : 0x4000000209 ||| F = F) (hk : State.Kept qu F o s) : State.Kept qu F o (State.revertSlice s id) := by
  unfold State.revertSlice
  refine State.onSlice_kept (sub_of hF rfl) ?_
  refine State.noteSlice_kept (sub_of hF rfl) ?_
  with_reducible assumption

theorem State.revertSlices_kept {qu : List Instr} {F : Nat} {o : State} {s : State} {epoch : Nat} (hF : 0x4000000209 ||| F = F) (hk : State.Kept qu F o s) : State.Kept qu F o (State.revertSlices s epoch) := by
  unfold State.revertSlices
  extract_lets +onlyGivenNames v80
  clear_value v80
  refine State.showSlices_kept (sub_of hF rfl) ?_
  refine State.kept_foldl ?_ ?_
  · with_reducible assumption
  · intro s77 x76 h75
    refine State.revertSlice_kept (sub_of hF rfl) ?_
    with_reducible assumption

theorem State.writeVeto_kept {qu : List Instr} {F : Nat} {o : State} {s : State} {a : Addr} {k : Nat} (hF : 0xc0 ||| F = F) (hk : State.Kept qu F o s) : State.Kept qu F o (State.writeVeto s a k) := by
  unfold State.writeVeto
  refine State.mgmtWrite_kept (sub_of hF rfl) ?_
  with_reducible assumption

theorem State.showVetoes_kept {qu : List Instr} {F : Nat} {o : State} {s : State} (hF : 0x1000000000 ||| F = F) (hk : State.Kept qu F o s) : State.Kept qu F o (State.showVetoes s) := by
  unfold State.showVetoes
  refine State.setF_kept (bit_of hF rfl) ?_
  with_reducible assumption

theorem State.vetoTree_kept {qu : List Instr} {F : Nat} {o : State} {s : State} {slice dest p : Nat} (hF : 0x10000001c9 ||| F = F) (hk : State.Kept qu F o s) : State.Kept qu F o (State.vetoTree s slice dest p) := by
  unfold State.vetoTree
  refine State.kept_ite (fun _ => ?_) (fun _ => ?_)
  · with_reducible assumption
  · extract_lets +onlyGivenNames v79
    clear_value v79
    extract_lets +onlyGivenNames v78
    have hv78 : State.Kept qu F o v78 := by
      unfold v78
      refine State.kept_slv (bit_of hF rfl) ?_
      with_reducible assumption
    clear_value v78
    extract_lets +onlyGivenNames v77
    have hv77 : State.Kept qu F o v77 := by
      unfold v77
      refine State.kept_foldl ?_ ?_
      · with_reducible assumption
      · intro s75 x74 h73
        refine State.writeVeto_kept (sub_of hF rfl) ?_
        with_reducible assumption
    clear_value v77
    refine State.raise_kept (sub_of hF rfl) (bit_of hF rfl) ?_
    refine State.showVetoes_kept (sub_of hF rfl) ?_
    with_reducible assumption

theorem State.vetoEndpoint_kept {qu : List Instr} {F : Nat} {o : State} {s : State} {a : Addr} {p : Nat} (hF : 0x10000001c9 ||| F = F) (hk : State.Kept qu F o s) : State.Kept qu F o (State.vetoEndpoint s a p) := by
  unfold State.vetoEndpoint
  refine State.kept_ite (fun _ => ?_) (fun _ => ?_)
  · with_reducible assumption
  · extract_lets +onlyGivenNames v79
    clear_value v79
    extract_lets +onlyGivenNames v78
    have hv78 : State.Kept qu F o v78 := by
      unfold v78
      refine State.kept_slv (bit_of hF rfl) ?_
      with_reducible assumption
    clear_value v78
    refine State.raise_kept (sub_of hF rfl) (bit_of hF rfl) ?_
    refine State.kept_foldl_range ?_ ?_
    · with_reducible assumption
    · intro s75 x74 x73 h72
      refine State.writeVeto_kept (sub_of hF rfl) ?_
      with_reducible assumption

theorem State.noticeLink_kept {qu : List Instr} {F : Nat} {o : State} {s : State} {w : Word} (hF : 0x10000001c9 ||| F = F) (hk : State.Kept qu F o s) : State.Kept qu F o (State.noticeLink s w) := by
  unfold State.noticeLink
  refine State.kept_ite (fun _ => ?_) (fun _ => ?_)
  · extract_lets +onlyGivenNames v79
    clear_value v79
    extract_lets +onlyGivenNames v78
    clear_value v78
    extract_lets +onlyGivenNames v77
    clear_value v77
    refine State.kept_foldl ?_ ?_
    · with_reducible assumption
    · intro s75 x74 h73
      split
      · refine State.kept_ite (fun _ => ?_) (fun _ => ?_)
        · refine State.vetoTree_kept (sub_of hF rfl) ?_
          with_reducible assumption
        · with_reducible assumption
      · with_reducible assumption
  · with_reducible assumption

theorem State.showHead_kept {qu : List Instr} {F : Nat} {o : State} {s : State} (hF : 0x1000000000 ||| F = F) (hk : State.Kept qu F o s) : State.Kept qu F o (State.showHead s) := by
  unfold State.showHead
  extract_lets +onlyGivenNames v80
  clear_value v80
  extract_lets +onlyGivenNames v79
  clear_value v79
  extract_lets +onlyGivenNames v78
  have hv78 : State.Kept qu F o v78 := by
    unfold v78
    refine State.setF_kept (bit_of hF rfl) ?_
    refine State.setF_kept (bit_of hF rfl) ?_
    with_reducible assumption
  clear_value v78
  extract_lets +onlyGivenNames v77
  have hv77 : State.Kept qu F o v77 := by
    unfold v77
    refine State.setReg_kept (bit_of hF rfl) ?_
    with_reducible assumption
  clear_value v77
  extract_lets +onlyGivenNames v76
  clear_value v76
  refine State.setPair_kept (bit_of hF rfl) (bit_of hF rfl) ?_
  with_reducible assumption

theorem State.headReport_kept {qu : List Instr} {F : Nat} {o : State} {s : State} {ws : List Word} (hF : 0x1000000141 ||| F = F) (hk : State.Kept qu F o s) : State.Kept qu F o (State.headReport s ws) := by
  unfold State.headReport
  extract_lets +onlyGivenNames v80
  clear_value v80
  extract_lets +onlyGivenNames v79
  have hv79 : State.Kept qu F o v79 := by
    unfold v79
    refine State.onHead_kept (sub_of hF rfl) ?_
    with_reducible assumption
  clear_value v79
  extract_lets +onlyGivenNames v78
  clear_value v78
  extract_lets +onlyGivenNames v77
  clear_value v77
  extract_lets +onlyGivenNames v76
  have hv76 : State.Kept qu F o v76 := by
    unfold v76
    refine State.kept_ite (fun _ => ?_) (fun _ => ?_)
    · with_reducible assumption
    · refine State.tellAll_kept (sub_of hF rfl) ?_
      with_reducible assumption
  clear_value v76
  refine State.showHead_kept (sub_of hF rfl) ?_
  with_reducible assumption

theorem State.sendEpoch_kept {qu : List Instr} {F : Nat} {o : State} {s : State} {e : EpochRec} {set : SliceSet} {ws : List Word} {dst : Option Addr} (hF : 0x41 ||| F = F) (hk : State.Kept qu F o s) : State.Kept qu F o (State.sendEpoch s e set ws dst) := by
  unfold State.sendEpoch
  extract_lets +onlyGivenNames v80
  clear_value v80
  extract_lets +onlyGivenNames v79
  clear_value v79
  extract_lets +onlyGivenNames v78
  clear_value v78
  extract_lets +onlyGivenNames v77
  clear_value v77
  split
  · refine State.kept_foldl ?_ ?_
    · with_reducible assumption
    · intro s74 x73 h72
      refine State.tell_kept (sub_of hF rfl) ?_
      with_reducible assumption
  · refine State.kept_foldl ?_ ?_
    · refine State.kept_foldl ?_ ?_
      · with_reducible assumption
      · intro s73 x72 h71
        refine State.tellAll_kept (sub_of hF rfl) ?_
        with_reducible assumption
    · intro s74 x73 h72
      refine State.flood_kept (sub_of hF rfl) ?_
      with_reducible assumption

theorem State.publishEpoch_kept {qu : List Instr} {F : Nat} {o : State} {s : State} (hF : 0xffffffff00000149 ||| F = F) (hk : State.Kept qu F o s) : State.Kept qu F o (State.publishEpoch s) := by
  unfold State.publishEpoch
  extract_lets +onlyGivenNames v80
  clear_value v80
  refine State.kept_ite (fun _ => ?_) (fun _ => ?_)
  · with_reducible assumption
  · extract_lets +onlyGivenNames v78
    clear_value v78
    extract_lets +onlyGivenNames v77
    clear_value v77
    extract_lets +onlyGivenNames v76
    clear_value v76
    extract_lets +onlyGivenNames v75
    clear_value v75
    extract_lets +onlyGivenNames v74
    clear_value v74
    extract_lets +onlyGivenNames v73
    have hv73 : State.Kept qu F o v73 := by
      unfold v73
      refine State.onHead_kept (sub_of hF rfl) ?_
      with_reducible assumption
    clear_value v73
    refine State.showHead_kept (sub_of hF rfl) ?_
    refine State.sendEpoch_kept (sub_of hF rfl) ?_
    refine State.renew_kept (sub_of hF rfl) ?_ ?_
    · refine State.setF_kept (bit_of hF rfl) ?_
      with_reducible assumption
    · intro s69 h68
      unfold id
      with_reducible assumption

theorem State.announceBank_kept {qu : List Instr} {F : Nat} {o : State} {s : State} (hF : 0x1000000141 ||| F = F) (hk : State.Kept qu F o s) : State.Kept qu F o (State.announceBank s) := by
  unfold State.announceBank
  extract_lets +onlyGivenNames v80
  clear_value v80
  refine State.kept_ite (fun _ => ?_) (fun _ => ?_)
  · extract_lets +onlyGivenNames v78
    clear_value v78
    extract_lets +onlyGivenNames v77
    have hv77 : State.Kept qu F o v77 := by
      unfold v77
      refine State.onHead_kept (sub_of hF rfl) ?_
      with_reducible assumption
    clear_value v77
    refine State.showHead_kept (sub_of hF rfl) ?_
    refine State.flood_kept (sub_of hF rfl) ?_
    with_reducible assumption
  · with_reducible assumption

theorem State.confirmHead_kept {qu : List Instr} {F : Nat} {o : State} {s : State} (hF : 0x1000000141 ||| F = F) (hk : State.Kept qu F o s) : State.Kept qu F o (State.confirmHead s) := by
  unfold State.confirmHead
  extract_lets +onlyGivenNames v80
  clear_value v80
  refine State.kept_ite (fun _ => ?_) (fun _ => ?_)
  · refine State.showHead_kept (sub_of hF rfl) ?_
    refine State.flood_kept (sub_of hF rfl) ?_
    refine State.onHead_kept (sub_of hF rfl) ?_
    with_reducible assumption
  · with_reducible assumption

theorem State.postponeBank_kept {qu : List Instr} {F : Nat} {o : State} {s : State} (hF : 0x141 ||| F = F) (hk : State.Kept qu F o s) : State.Kept qu F o (State.postponeBank s) := by
  unfold State.postponeBank
  extract_lets +onlyGivenNames v80
  clear_value v80
  refine State.kept_ite (fun _ => ?_) (fun _ => ?_)
  · extract_lets +onlyGivenNames v78
    clear_value v78
    refine State.kept_ite (fun _ => ?_) (fun _ => ?_)
    · with_reducible assumption
    · refine State.flood_kept (sub_of hF rfl) ?_
      refine State.onHead_kept (sub_of hF rfl) ?_
      with_reducible assumption
  · with_reducible assumption

theorem State.withdrawEpoch_kept {qu : List Instr} {F : Nat} {o : State} {s : State} {extra : List Word} (hF : 0x1000000341 ||| F = F) (hk : State.Kept qu F o s) : State.Kept qu F o (State.withdrawEpoch s extra) := by
  unfold State.withdrawEpoch
  extract_lets +onlyGivenNames v80
  clear_value v80
  refine State.kept_ite (fun _ => ?_) (fun _ => ?_)
  · with_reducible assumption
  · extract_lets +onlyGivenNames v78
    clear_value v78
    extract_lets +onlyGivenNames v77
    have hv77 : State.Kept qu F o v77 := by
      unfold v77
      refine State.flood_kept (sub_of hF rfl) ?_
      with_reducible assumption
    clear_value v77
    extract_lets +onlyGivenNames v76
    have hv76 : State.Kept qu F o v76 := by
      unfold v76
      refine State.onHead_kept (sub_of hF rfl) ?_
      with_reducible assumption
    clear_value v76
    extract_lets +onlyGivenNames v75
    clear_value v75
    extract_lets +onlyGivenNames v74
    have hv74 : State.Kept qu F o v74 := by
      unfold v74
      refine State.kept_slc (bit_of hF rfl) ?_
      with_reducible assumption
    clear_value v74
    refine State.showHead_kept (sub_of hF rfl) ?_
    with_reducible assumption

theorem State.holdChanges_kept {qu : List Instr} {F : Nat} {o : State} {s : State} (hF : 0x5000000349 ||| F = F) (hk : State.Kept qu F o s) : State.Kept qu F o (State.holdChanges s) := by
  unfold State.holdChanges
  extract_lets +onlyGivenNames v80
  clear_value v80
  extract_lets +onlyGivenNames v79
  have hv79 : State.Kept qu F o v79 := by
    unfold v79
    refine State.kept_foldl ?_ ?_
    · with_reducible assumption
    · intro s77 x76 h75
      split
      · extract_lets +onlyGivenNames v73
        have hv73 : State.Kept qu F o v73 := by
          unfold v73
          split
          · extract_lets +onlyGivenNames v71
            clear_value v71
            refine State.sliceReply_kept (sub_of hF rfl) ?_
            with_reducible assumption
          · with_reducible assumption
        clear_value v73
        refine State.revertSlice_kept (sub_of hF rfl) ?_
        with_reducible assumption
      · with_reducible assumption
  clear_value v79
  extract_lets +onlyGivenNames v78
  have hv78 : State.Kept qu F o v78 := by
    unfold v78
    refine State.showSlices_kept (sub_of hF rfl) ?_
    with_reducible assumption
  clear_value v78
  refine State.showHead_kept (sub_of hF rfl) ?_
  refine State.raise_kept (sub_of hF rfl) (bit_of hF rfl) ?_
  refine State.onHead_kept (sub_of hF rfl) ?_
  with_reducible assumption

theorem State.refusedBank_kept {qu : List Instr} {F : Nat} {o : State} {s : State} (hF : 0x5000000349 ||| F = F) (hk : State.Kept qu F o s) : State.Kept qu F o (State.refusedBank s) := by
  unfold State.refusedBank
  extract_lets +onlyGivenNames v80
  clear_value v80
  refine State.kept_ite (fun _ => ?_) (fun _ => ?_)
  · with_reducible assumption
  · extract_lets +onlyGivenNames v78
    clear_value v78
    extract_lets +onlyGivenNames v77
    clear_value v77
    extract_lets +onlyGivenNames v76
    have hv76 : State.Kept qu F o v76 := by
      unfold v76
      refine State.onHead_kept (sub_of hF rfl) ?_
      refine State.withdrawEpoch_kept (sub_of hF rfl) ?_
      with_reducible assumption
    clear_value v76
    refine State.kept_ite (fun _ => ?_) (fun _ => ?_)
    · refine State.holdChanges_kept (sub_of hF rfl) ?_
      with_reducible assumption
    · with_reducible assumption

theorem State.releaseHeld_kept {qu : List Instr} {F : Nat} {o : State} {s : State} (hF : 0x1000000100 ||| F = F) (hk : State.Kept qu F o s) : State.Kept qu F o (State.releaseHeld s) := by
  unfold State.releaseHeld
  refine State.kept_ite (fun _ => ?_) (fun _ => ?_)
  · refine State.showHead_kept (sub_of hF rfl) ?_
    refine State.onHead_kept (sub_of hF rfl) ?_
    with_reducible assumption
  · with_reducible assumption

theorem State.endHeadCycle_kept {qu : List Instr} {F : Nat} {o : State} {s : State} {epoch : Nat} (hF : 0x1000000100 ||| F = F) (hk : State.Kept qu F o s) : State.Kept qu F o (State.endHeadCycle s epoch) := by
  unfold State.endHeadCycle
  refine State.kept_ite (fun _ => ?_) (fun _ => ?_)
  · refine State.showHead_kept (sub_of hF rfl) ?_
    refine State.onHead_kept (sub_of hF rfl) ?_
    with_reducible assumption
  · with_reducible assumption

theorem State.showBank_kept {qu : List Instr} {F : Nat} {o : State} {s : State} (hF : 0x1000000009 ||| F = F) (hk : State.Kept qu F o s) : State.Kept qu F o (State.showBank s) := by
  unfold State.showBank
  extract_lets +onlyGivenNames v80
  clear_value v80
  extract_lets +onlyGivenNames v79
  clear_value v79
  extract_lets +onlyGivenNames v78
  extract_lets +onlyGivenNames v77
  clear_value v77
  extract_lets +onlyGivenNames v76
  have hv76 : State.Kept qu F o v76 := by
    unfold v76
    refine State.setF_kept (bit_of hF rfl) ?_
    refine State.setF_kept (bit_of hF rfl) ?_
    with_reducible assumption
  clear_value v76
  extract_lets +onlyGivenNames v75
  have hv75 : State.Kept qu F o v75 := by
    unfold v75
    refine State.raiseIf_kept (sub_of hF rfl) (bit_of hF rfl) ?_
    with_reducible assumption
  clear_value v75
  extract_lets +onlyGivenNames v74
  clear_value v74
  extract_lets +onlyGivenNames v73
  clear_value v73
  extract_lets +onlyGivenNames v72
  clear_value v72
  refine State.setF_kept (bit_of hF rfl) ?_
  refine State.setF_kept (bit_of hF rfl) ?_
  refine State.setF_kept (bit_of hF rfl) ?_
  with_reducible assumption

theorem State.lightSlices_kept {qu : List Instr} {F : Nat} {o : State} {s : State} {epoch : Nat} (hF : 0x4000000209 ||| F = F) (hk : State.Kept qu F o s) : State.Kept qu F o (State.lightSlices s epoch) := by
  unfold State.lightSlices
  extract_lets +onlyGivenNames v80
  clear_value v80
  extract_lets +onlyGivenNames v79
  clear_value v79
  extract_lets +onlyGivenNames v78
  have hv78 : State.Kept qu F o v78 := by
    unfold v78
    refine State.kept_foldl ?_ ?_
    · with_reducible assumption
    · intro s76 x75 h74
      refine State.onSlice_kept (sub_of hF rfl) ?_
      refine State.noteSlice_kept (sub_of hF rfl) ?_
      with_reducible assumption
  clear_value v78
  extract_lets +onlyGivenNames v77
  clear_value v77
  refine State.kept_foldl ?_ ?_
  · with_reducible assumption
  · intro s75 x74 h73
    split
    · extract_lets +onlyGivenNames v71
      have hv71 : State.Kept qu F o v71 := by
        unfold v71
        refine State.onSlice_kept (sub_of hF rfl) ?_
        refine State.noteSlice_kept (sub_of hF rfl) ?_
        with_reducible assumption
      clear_value v71
      refine State.noteSlice_kept (sub_of hF rfl) ?_
      refine State.bindSeats_kept (sub_of hF rfl) ?_
      with_reducible assumption
    · with_reducible assumption

theorem State.completeSlices_kept {qu : List Instr} {F : Nat} {o : State} {s : State} {epoch : Nat} (hF : 0x208 ||| F = F) (hk : State.Kept qu F o s) : State.Kept qu F o (State.completeSlices s epoch) := by
  unfold State.completeSlices
  extract_lets +onlyGivenNames v80
  clear_value v80
  extract_lets +onlyGivenNames v79
  clear_value v79
  extract_lets +onlyGivenNames v78
  clear_value v78
  extract_lets +onlyGivenNames v77
  have hv77 : State.Kept qu F o v77 := by
    unfold v77
    refine State.kept_slc (bit_of hF rfl) ?_
    with_reducible assumption
  clear_value v77
  refine State.kept_foldl ?_ ?_
  · with_reducible assumption
  · intro s75 x74 h73
    extract_lets +onlyGivenNames v72
    clear_value v72
    refine State.completeAfter_kept (sub_of hF rfl) ?_
    with_reducible assumption

theorem State.lightBank_kept {qu : List Instr} {F : Nat} {o : State} {s : State} (hF : 0x1005400024349 ||| F = F) (hk : State.Kept qu F o s) : State.Kept qu F o (State.lightBank s) := by
  unfold State.lightBank
  extract_lets +onlyGivenNames v80
  clear_value v80
  extract_lets +onlyGivenNames v79
  clear_value v79
  extract_lets +onlyGivenNames v78
  have hv78 : State.Kept qu F o v78 := by
    unfold v78
    refine State.kept_slv (bit_of hF rfl) ?_
    with_reducible assumption
  clear_value v78
  extract_lets +onlyGivenNames v77
  have hv77 : State.Kept qu F o v77 := by
    unfold v77
    refine State.setPair_kept (bit_of hF rfl) (bit_of hF rfl) ?_
    refine State.setReg_kept (bit_of hF rfl) ?_
    with_reducible assumption
  clear_value v77
  extract_lets +onlyGivenNames v76
  have hv76 : State.Kept qu F o v76 := by
    unfold v76
    refine State.showVetoes_kept (sub_of hF rfl) ?_
    refine State.setReg_kept (bit_of hF rfl) ?_
    refine State.setDigest_kept (bit_of hF rfl) rfl ?_
    with_reducible assumption
  clear_value v76
  extract_lets +onlyGivenNames v75
  have hv75 : State.Kept qu F o v75 := by
    unfold v75
    refine State.lightSlices_kept (sub_of hF rfl) ?_
    with_reducible assumption
  clear_value v75
  extract_lets +onlyGivenNames v74
  have hv74 : State.Kept qu F o v74 := by
    unfold v74
    refine State.raise_kept (sub_of hF rfl) (bit_of hF rfl) ?_
    refine State.showSlices_kept (sub_of hF rfl) ?_
    refine State.showBank_kept (sub_of hF rfl) ?_
    with_reducible assumption
  clear_value v74
  extract_lets +onlyGivenNames v73
  have hv73 : State.Kept qu F o v73 := by
    unfold v73
    refine State.raiseIf_kept (sub_of hF rfl) (bit_of hF rfl) ?_
    with_reducible assumption
  clear_value v73
  extract_lets +onlyGivenNames v72
  have hv72 : State.Kept qu F o v72 := by
    unfold v72
    refine State.logOwn_kept (sub_of hF rfl) ?_
    with_reducible assumption
  clear_value v72
  extract_lets +onlyGivenNames v71
  have hv71 : State.Kept qu F o v71 := by
    unfold v71
    refine State.completeSlices_kept (sub_of hF rfl) ?_
    with_reducible assumption
  clear_value v71
  extract_lets +onlyGivenNames v70
  clear_value v70
  extract_lets +onlyGivenNames v69
  have hv69 : State.Kept qu F o v69 := by
    unfold v69
    refine State.tellHead_kept (sub_of hF rfl) ?_
    with_reducible assumption
  clear_value v69
  extract_lets +onlyGivenNames v68
  have hv68 : State.Kept qu F o v68 := by
    unfold v68
    refine State.setReg_kept (bit_of hF rfl) ?_
    refine State.setPhase_kept (sub_of hF rfl) ?_
    refine State.onCycle_kept (sub_of hF rfl) ?_
    with_reducible assumption
  clear_value v68
  extract_lets +onlyGivenNames v67
  have hv67 : State.Kept qu F o v67 := by
    unfold v67
    refine State.setF_kept (bit_of hF rfl) ?_
    refine State.setF_kept (bit_of hF rfl) ?_
    refine State.setPair_kept (bit_of hF rfl) (bit_of hF rfl) ?_
    with_reducible assumption
  clear_value v67
  refine State.takeEpoch_kept (sub_of hF rfl) ?_
  refine State.endHeadCycle_kept (sub_of hF rfl) ?_
  with_reducible assumption

end Sys2Proof.Machine
end

