-- ==== Sys2Proof/Laws/KeptPlanExch.lean ====
section
/-! SUPPORT. Laws/KeptPlanExch.lean: each operation of Machine/PlanExch.lean keeps the queue and the invariant. -/
namespace Sys2Proof.Machine

theorem State.onClp_kept {qu : List Instr} {F : Nat} {o : State} {s : State} {f : ClpState → ClpState} (hF : 0x400 ||| F = F) (hk : State.Kept qu F o s) : State.Kept qu F o (State.onClp s f) := by
  unfold State.onClp
  refine State.kept_clp (bit_of hF rfl) ?_
  with_reducible assumption

theorem State.showPlans_kept {qu : List Instr} {F : Nat} {o : State} {s : State} (hF : 0xd0000000000 ||| F = F) (hk : State.Kept qu F o s) : State.Kept qu F o (State.showPlans s) := by
  unfold State.showPlans
  extract_lets +onlyGivenNames v80
  clear_value v80
  extract_lets +onlyGivenNames v79
  clear_value v79
  extract_lets +onlyGivenNames v78
  have hv78 : State.Kept qu F o v78 := by
    unfold v78
    refine State.setF_kept (bit_of hF rfl) ?_
    refine State.setF_kept (bit_of hF rfl) ?_
    with_reducible assumption
  clear_value v78
  extract_lets +onlyGivenNames v77
  have hv77 : State.Kept qu F o v77 := by
    unfold v77
    refine State.setF_kept (bit_of hF rfl) ?_
    with_reducible assumption
  clear_value v77
  extract_lets +onlyGivenNames v76
  have hv76 : State.Kept qu F o v76 := by
    unfold v76
    refine State.setF_kept (bit_of hF rfl) ?_
    refine State.setF_kept (bit_of hF rfl) ?_
    with_reducible assumption
  clear_value v76
  extract_lets +onlyGivenNames v75
  clear_value v75
  extract_lets +onlyGivenNames v74
  have hv74 : State.Kept qu F o v74 := by
    unfold v74
    refine State.setF_kept (bit_of hF rfl) ?_
    refine State.setF_kept (bit_of hF rfl) ?_
    with_reducible assumption
  clear_value v74
  extract_lets +onlyGivenNames v73
  have hv73 : State.Kept qu F o v73 := by
    unfold v73
    refine State.setF_kept (bit_of hF rfl) ?_
    with_reducible assumption
  clear_value v73
  refine State.setF_kept (bit_of hF rfl) ?_
  with_reducible assumption

theorem State.planDone_kept {qu : List Instr} {F : Nat} {o : State} {s : State} {racks : List Nat} {q : HeadReq} {ordinal reason e : Nat} (hF : 0x441 ||| F = F) (hk : State.Kept qu F o s) : State.Kept qu F o (State.planDone s racks q ordinal reason e) := by
  unfold State.planDone
  extract_lets +onlyGivenNames v80
  have hv80 : State.Kept qu F o v80 := by
    unfold v80
    refine State.onClp_kept (sub_of hF rfl) ?_
    with_reducible assumption
  clear_value v80
  extract_lets +onlyGivenNames v79
  clear_value v79
  extract_lets +onlyGivenNames v78
  clear_value v78
  refine State.kept_foldl ?_ ?_
  · with_reducible assumption
  · intro s76 x75 h74
    refine State.tell_kept (sub_of hF rfl) ?_
    with_reducible assumption

theorem State.nextOrdinal_kept {qu : List Instr} {F : Nat} {o : State} {s : State} {slice : Nat} (hF : 0x400 ||| F = F) (hk : State.Kept qu F o s) : State.Kept qu F o (State.nextOrdinal s slice).2 := by
  unfold State.nextOrdinal
  extract_lets +onlyGivenNames v80
  clear_value v80
  dsimp only
  refine State.onClp_kept (sub_of hF rfl) ?_
  with_reducible assumption

theorem State.startAdmission_kept {qu : List Instr} {F : Nat} {o : State} {s : State} {q : HeadReq} (hF : 0x90000000449 ||| F = F) (hk : State.Kept qu F o s) : State.Kept qu F o (State.startAdmission s q) := by
  unfold State.startAdmission
  extract_lets +onlyGivenNames v80
  clear_value v80
  refine State.kept_ite (fun _ => ?_) (fun _ => ?_)
  · split
    · extract_lets +onlyGivenNames v77
      clear_value v77
      extract_lets +onlyGivenNames v76
      clear_value v76
      refine State.kept_foldl ?_ ?_
      · refine State.onClp_kept (sub_of hF rfl) ?_
        with_reducible assumption
      · intro s74 x73 h72
        refine State.tell_kept (sub_of hF rfl) ?_
        with_reducible assumption
    · refine State.planDone_kept (sub_of hF rfl) ?_
      with_reducible assumption
  · split
    · split
      rename_i n77_0 n77_1 n77_2 n77_3
      have hn77_3 : State.Kept qu F o n77_2 := by
        have en77_3 := congrArg (fun z => z.2) n77_3
        rw [show n77_2 = _ from en77_3.symm]
        beta_reduce
        refine State.nextOrdinal_kept (sub_of hF rfl) ?_
        with_reducible assumption
      extract_lets +onlyGivenNames v76
      clear_value v76
      extract_lets +onlyGivenNames v75
      have hv75 : State.Kept qu F o v75 := by
        unfold v75
        refine State.raiseIf_kept (sub_of hF rfl) (bit_of hF rfl) ?_
        refine State.raiseIf_kept (sub_of hF rfl) (bit_of hF rfl) ?_
        with_reducible assumption
      clear_value v75
      extract_lets +onlyGivenNames v74
      clear_value v74
      refine State.kept_foldl ?_ ?_
      · refine State.onClp_kept (sub_of hF rfl) ?_
        with_reducible assumption
      · intro s72 x71 h70
        refine State.tell_kept (sub_of hF rfl) ?_
        with_reducible assumption
    · refine State.planDone_kept (sub_of hF rfl) ?_
      refine State.raiseIf_kept (sub_of hF rfl) (bit_of hF rfl) ?_
      with_reducible assumption

theorem State.admitPlans_kept {qu : List Instr} {F : Nat} {o : State}  {n : Nat} {s : State} (hF : 0xd0000000449 ||| F = F) (hk : State.Kept qu F o s) : State.Kept qu F o (State.admitPlans  n s) := by
  induction n generalizing s with
  | zero =>
    rw [State.admitPlans]
    refine State.showPlans_kept (sub_of hF rfl) ?_
    with_reducible assumption
  | succ n ih =>
    rw [State.admitPlans]
    refine State.kept_ite (fun _ => ?_) (fun _ => ?_)
    · refine State.showPlans_kept (sub_of hF rfl) ?_
      with_reducible assumption
    · split
      · refine State.showPlans_kept (sub_of hF rfl) ?_
        with_reducible assumption
      · apply ih
        refine State.startAdmission_kept (sub_of hF rfl) ?_
        refine State.onClp_kept (sub_of hF rfl) ?_
        with_reducible assumption

theorem State.onAdm_kept {qu : List Instr} {F : Nat} {o : State} {s : State} {a : Admission} {f : Admission → Admission} (hF : 0x400 ||| F = F) (hk : State.Kept qu F o s) : State.Kept qu F o (State.onAdm s a f) := by
  unfold State.onAdm
  refine State.onClp_kept (sub_of hF rfl) ?_
  with_reducible assumption

theorem State.endAdmission_kept {qu : List Instr} {F : Nat} {o : State} {s : State} {a : Admission} {reason : Nat} (hF : 0x441 ||| F = F) (hk : State.Kept qu F o s) : State.Kept qu F o (State.endAdmission s a reason) := by
  unfold State.endAdmission
  extract_lets +onlyGivenNames v80
  clear_value v80
  extract_lets +onlyGivenNames v79
  have hv79 : State.Kept qu F o v79 := by
    unfold v79
    refine State.onClp_kept (sub_of hF rfl) ?_
    with_reducible assumption
  clear_value v79
  extract_lets +onlyGivenNames v78
  have hv78 : State.Kept qu F o v78 := by
    unfold v78
    refine State.onClp_kept (sub_of hF rfl) ?_
    with_reducible assumption
  clear_value v78
  refine State.planDone_kept (sub_of hF rfl) ?_
  with_reducible assumption

theorem State.settlePlans_kept {qu : List Instr} {F : Nat} {o : State} {s : State} (hF : 0x441 ||| F = F) (hk : State.Kept qu F o s) : State.Kept qu F o (State.settlePlans s) := by
  unfold State.settlePlans
  refine State.kept_foldl ?_ ?_
  · with_reducible assumption
  · intro s79 x78 h77
    refine State.kept_ite (fun _ => ?_) (fun _ => ?_)
    · refine State.endAdmission_kept (sub_of hF rfl) ?_
      with_reducible assumption
    · refine State.kept_ite (fun _ => ?_) (fun _ => ?_)
      · refine State.endAdmission_kept (sub_of hF rfl) ?_
        with_reducible assumption
      · with_reducible assumption

theorem State.commitPlan_kept {qu : List Instr} {F : Nat} {o : State} {s : State} {a : Admission} {q f : Nat} {ring : List Nat} (hF : 0x441 ||| F = F) (hk : State.Kept qu F o s) : State.Kept qu F o (State.commitPlan s a q f ring) := by
  unfold State.commitPlan
  extract_lets +onlyGivenNames v80
  clear_value v80
  extract_lets +onlyGivenNames v79
  clear_value v79
  extract_lets +onlyGivenNames v78
  clear_value v78
  extract_lets +onlyGivenNames v77
  clear_value v77
  extract_lets +onlyGivenNames v76
  have hv76 : State.Kept qu F o v76 := by
    unfold v76
    refine State.onAdm_kept (sub_of hF rfl) ?_
    with_reducible assumption
  clear_value v76
  extract_lets +onlyGivenNames v75
  clear_value v75
  extract_lets +onlyGivenNames v74
  clear_value v74
  refine State.kept_foldl ?_ ?_
  · with_reducible assumption
  · intro s72 x71 h70
    refine State.tell_kept (sub_of hF rfl) ?_
    with_reducible assumption

theorem State.sendOffer_kept {qu : List Instr} {F : Nat} {o : State} {s : State} {p : Plan} (hF : 0x41 ||| F = F) (hk : State.Kept qu F o s) : State.Kept qu F o (State.sendOffer s p) := by
  unfold State.sendOffer
  refine State.tellHead_kept (sub_of hF rfl) ?_
  with_reducible assumption

theorem State.sendPlanReady_kept {qu : List Instr} {F : Nat} {o : State} {s : State} {p : Plan} (hF : 0x41 ||| F = F) (hk : State.Kept qu F o s) : State.Kept qu F o (State.sendPlanReady s p) := by
  unfold State.sendPlanReady
  refine State.tellHead_kept (sub_of hF rfl) ?_
  with_reducible assumption

theorem State.reportReady_kept {qu : List Instr} {F : Nat} {o : State} {s : State} {ctx reason : Nat} (hF : 0x400 ||| F = F) (hk : State.Kept qu F o s) : State.Kept qu F o (State.reportReady s ctx reason) := by
  unfold State.reportReady
  refine State.onPlan_kept (sub_of hF rfl) ?_
  with_reducible assumption

theorem State.writeRun_kept {qu : List Instr} {F : Nat} {o : State} {s : State} {a : Addr} {addr : Nat} {ws : List Word} {cls slice engine : Nat} {purpose : MgmtFor} (hF : 0xc0 ||| F = F) (hk : State.Kept qu F o s) : State.Kept qu F o (State.writeRun s a addr ws cls slice engine purpose) := by
  unfold State.writeRun
  refine State.kept_foldl ?_ ?_
  · with_reducible assumption
  · intro s79 x78 h77
    refine State.kept_ite (fun _ => ?_) (fun _ => ?_)
    · with_reducible assumption
    · refine State.mgmtWrite_kept (sub_of hF rfl) ?_
      with_reducible assumption

theorem State.installAgent_kept {qu : List Instr} {F : Nat} {o : State} {s : State} {p : Plan} {a : Addr} (hF : 0xc0 ||| F = F) (hk : State.Kept qu F o s) : State.Kept qu F o (State.installAgent s p a) := by
  unfold State.installAgent
  extract_lets +onlyGivenNames v80
  clear_value v80
  extract_lets +onlyGivenNames v79
  refine State.kept_ite (fun _ => ?_) (fun _ => ?_)
  · extract_lets +onlyGivenNames v77
    have hv77 : State.Kept qu F o v77 := by
      unfold v77
      unfold v79
      refine State.writeRun_kept (sub_of hF rfl) ?_
      with_reducible assumption
    clear_value v77
    extract_lets +onlyGivenNames v76
    have hv76 : State.Kept qu F o v76 := by
      unfold v76
      unfold v79
      refine State.writeRun_kept (sub_of hF rfl) ?_
      with_reducible assumption
    clear_value v76
    extract_lets +onlyGivenNames v75
    have hv75 : State.Kept qu F o v75 := by
      unfold v75
      unfold v79
      refine State.writeRun_kept (sub_of hF rfl) ?_
      with_reducible assumption
    clear_value v75
    unfold v79
    refine State.writeRun_kept (sub_of hF rfl) ?_
    with_reducible assumption
  · extract_lets +onlyGivenNames v77
    clear_value v77
    extract_lets +onlyGivenNames v76
    have hv76 : State.Kept qu F o v76 := by
      unfold v76
      unfold v79
      refine State.writeRun_kept (sub_of hF rfl) ?_
      with_reducible assumption
    clear_value v76
    extract_lets +onlyGivenNames v75
    have hv75 : State.Kept qu F o v75 := by
      unfold v75
      unfold v79
      refine State.writeRun_kept (sub_of hF rfl) ?_
      with_reducible assumption
    clear_value v75
    extract_lets +onlyGivenNames v74
    have hv74 : State.Kept qu F o v74 := by
      unfold v74
      unfold v79
      refine State.writeRun_kept (sub_of hF rfl) ?_
      with_reducible assumption
    clear_value v74
    extract_lets +onlyGivenNames v73
    have hv73 : State.Kept qu F o v73 := by
      unfold v73
      unfold v79
      refine State.writeRun_kept (sub_of hF rfl) ?_
      with_reducible assumption
    clear_value v73
    unfold v79
    refine State.writeRun_kept (sub_of hF rfl) ?_
    with_reducible assumption

theorem State.installPlan_kept {qu : List Instr} {F : Nat} {o : State} {s : State} {ctx : Nat} (hF : 0x4c0 ||| F = F) (hk : State.Kept qu F o s) : State.Kept qu F o (State.installPlan s ctx) := by
  unfold State.installPlan
  split
  · with_reducible assumption
  · refine State.kept_ite (fun _ => ?_) (fun _ => ?_)
    · refine State.reportReady_kept (sub_of hF rfl) ?_
      with_reducible assumption
    · extract_lets +onlyGivenNames v78
      clear_value v78
      extract_lets +onlyGivenNames v77
      have hv77 : State.Kept qu F o v77 := by
        unfold v77
        refine State.onPlan_kept (sub_of hF rfl) ?_
        with_reducible assumption
      clear_value v77
      refine State.kept_foldl ?_ ?_
      · with_reducible assumption
      · intro s75 x74 h73
        refine State.installAgent_kept (sub_of hF rfl) ?_
        with_reducible assumption

theorem State.planReply_kept {qu : List Instr} {F : Nat} {o : State} {s : State} {op : MgmtOp} {ctx status : Nat} {words : List Word} (hF : 0x4c0 ||| F = F) (hk : State.Kept qu F o s) : State.Kept qu F o (State.planReply s op ctx status words) := by
  unfold State.planReply
  split
  · with_reducible assumption
  · refine State.kept_ite (fun _ => ?_) (fun _ => ?_)
    · with_reducible assumption
    · refine State.kept_ite (fun _ => ?_) (fun _ => ?_)
      · refine State.reportReady_kept (sub_of hF rfl) ?_
        with_reducible assumption
      · refine State.kept_ite (fun _ => ?_) (fun _ => ?_)
        · refine State.mgmtRead_kept (sub_of hF rfl) ?_
          with_reducible assumption
        · refine State.kept_ite (fun _ => ?_) (fun _ => ?_)
          · with_reducible assumption
          · refine State.kept_ite (fun _ => ?_) (fun _ => ?_)
            · extract_lets +onlyGivenNames v74
              have hv74 : State.Kept qu F o v74 := by
                unfold v74
                refine State.onPlan_kept (sub_of hF rfl) ?_
                with_reducible assumption
              clear_value v74
              refine State.kept_ite (fun _ => ?_) (fun _ => ?_)
              · refine State.reportReady_kept (sub_of hF rfl) ?_
                with_reducible assumption
              · with_reducible assumption
            · refine State.kept_ite (fun _ => ?_) (fun _ => ?_)
              · refine State.reportReady_kept (sub_of hF rfl) ?_
                with_reducible assumption
              · refine State.installAgent_kept (sub_of hF rfl) ?_
                refine State.onPlan_kept (sub_of hF rfl) ?_
                with_reducible assumption

theorem State.writeSlots_kept {qu : List Instr} {F : Nat} {o : State} {s : State} {p : Plan} {state : Nat} (hF : 0xc0 ||| F = F) (hk : State.Kept qu F o s) : State.Kept qu F o (State.writeSlots s p state) := by
  unfold State.writeSlots
  refine State.kept_foldl ?_ ?_
  · with_reducible assumption
  · intro s79 x78 h77
    refine State.mgmtWrite_kept (sub_of hF rfl) ?_
    with_reducible assumption

theorem State.enableSlots_kept {qu : List Instr} {F : Nat} {o : State} {s : State} {p : Plan} (hF : 0xc0 ||| F = F) (hk : State.Kept qu F o s) : State.Kept qu F o (State.enableSlots s p) := by
  unfold State.enableSlots
  extract_lets +onlyGivenNames v80
  have hv80 : State.Kept qu F o v80 := by
    unfold v80
    refine State.kept_foldl ?_ ?_
    · with_reducible assumption
    · intro s78 x77 h76
      refine State.mgmtWrite_kept (sub_of hF rfl) ?_
      with_reducible assumption
  clear_value v80
  refine State.kept_foldl ?_ ?_
  · with_reducible assumption
  · intro s78 x77 h76
    refine State.mgmtWrite_kept (sub_of hF rfl) ?_
    with_reducible assumption

theorem State.loadSlots_kept {qu : List Instr} {F : Nat} {o : State} {s : State} {ctx : Nat} (hF : 0x4c0 ||| F = F) (hk : State.Kept qu F o s) : State.Kept qu F o (State.loadSlots s ctx) := by
  unfold State.loadSlots
  split
  · refine State.kept_ite (fun _ => ?_) (fun _ => ?_)
    · with_reducible assumption
    · refine State.writeSlots_kept (sub_of hF rfl) ?_
      refine State.onPlan_kept (sub_of hF rfl) ?_
      with_reducible assumption
  · with_reducible assumption

theorem State.unloadSlots_kept {qu : List Instr} {F : Nat} {o : State} {s : State} {ctx : Nat} (hF : 0x4c0 ||| F = F) (hk : State.Kept qu F o s) : State.Kept qu F o (State.unloadSlots s ctx) := by
  unfold State.unloadSlots
  split
  · refine State.kept_ite (fun _ => ?_) (fun _ => ?_)
    · refine State.writeSlots_kept (sub_of hF rfl) ?_
      refine State.onPlan_kept (sub_of hF rfl) ?_
      with_reducible assumption
    · with_reducible assumption
  · with_reducible assumption

theorem State.freePlan_kept {qu : List Instr} {F : Nat} {o : State} {s : State} {ctx : Nat} {keep : Bool} (hF : 0xd0000001cc0 ||| F = F) (hk : State.Kept qu F o s) : State.Kept qu F o (State.freePlan s ctx keep) := by
  unfold State.freePlan
  split
  · with_reducible assumption
  · extract_lets +onlyGivenNames v79
    have hv79 : State.Kept qu F o v79 := by
      unfold v79
      refine State.writeSlots_kept (sub_of hF rfl) ?_
      with_reducible assumption
    clear_value v79
    extract_lets +onlyGivenNames v78
    have hv78 : State.Kept qu F o v78 := by
      unfold v78
      refine State.kept_ite (fun _ => ?_) (fun _ => ?_)
      · with_reducible assumption
      · refine State.kept_foldl ?_ ?_
        · with_reducible assumption
        · intro s75 x74 h73
          refine State.mgmtWrite_kept (sub_of hF rfl) ?_
          with_reducible assumption
    clear_value v78
    extract_lets +onlyGivenNames v77
    have hv77 : State.Kept qu F o v77 := by
      unfold v77
      refine State.dropSent_kept (sub_of hF rfl) ?_
      with_reducible assumption
    clear_value v77
    extract_lets +onlyGivenNames v76
    clear_value v76
    extract_lets +onlyGivenNames v75
    clear_value v75
    extract_lets +onlyGivenNames v74
    have hv74 : State.Kept qu F o v74 := by
      unfold v74
      refine State.kept_with ?_ (by constructor <;> first | exact fun _ => rfl | exact fun _ _ => rfl | exact fun h => absurd (h.symm.trans (bit_of hF rfl)) Bool.false_ne_true) rfl rfl rfl
      with_reducible assumption
    clear_value v74
    extract_lets +onlyGivenNames v73
    have hv73 : State.Kept qu F o v73 := by
      unfold v73
      refine State.onClp_kept (sub_of hF rfl) ?_
      with_reducible assumption
    clear_value v73
    refine State.showPlans_kept (sub_of hF rfl) ?_
    with_reducible assumption

theorem State.tryRelease_kept {qu : List Instr} {F : Nat} {o : State} {s : State} {ctx : Nat} (hF : 0xd0000001cc0 ||| F = F) (hk : State.Kept qu F o s) : State.Kept qu F o (State.tryRelease s ctx) := by
  unfold State.tryRelease
  split
  · refine State.kept_ite (fun _ => ?_) (fun _ => ?_)
    · extract_lets +onlyGivenNames v78
      have hv78 : State.Kept qu F o v78 := by
        unfold v78
        refine State.freePlan_kept (sub_of hF rfl) ?_
        with_reducible assumption
      clear_value v78
      refine State.reportReady_kept (sub_of hF rfl) ?_
      with_reducible assumption
    · with_reducible assumption
  · with_reducible assumption

theorem State.enablePlan_kept {qu : List Instr} {F : Nat} {o : State} {s : State} {ctx e : Nat} (hF : 0xd00000014c9 ||| F = F) (hk : State.Kept qu F o s) : State.Kept qu F o (State.enablePlan s ctx e) := by
  unfold State.enablePlan
  extract_lets +onlyGivenNames v80
  have hv80 : State.Kept qu F o v80 := by
    unfold v80
    refine State.onPlan_kept (sub_of hF rfl) ?_
    with_reducible assumption
  clear_value v80
  split
  · with_reducible assumption
  · extract_lets +onlyGivenNames v78
    have hv78 : State.Kept qu F o v78 := by
      unfold v78
      refine State.enableSlots_kept (sub_of hF rfl) ?_
      with_reducible assumption
    clear_value v78
    extract_lets +onlyGivenNames v77
    clear_value v77
    extract_lets +onlyGivenNames v76
    clear_value v76
    extract_lets +onlyGivenNames v75
    have hv75 : State.Kept qu F o v75 := by
      unfold v75
      split
      · refine State.kept_lnt (bit_of hF rfl) ?_
        with_reducible assumption
      · with_reducible assumption
    clear_value v75
    refine State.showPlans_kept (sub_of hF rfl) ?_
    refine State.raise_kept (sub_of hF rfl) (bit_of hF rfl) ?_
    with_reducible assumption

theorem State.sendPlanReq_kept {qu : List Instr} {F : Nat} {o : State} {s : State} {i : PlanIssued} (hF : 0x41 ||| F = F) (hk : State.Kept qu F o s) : State.Kept qu F o (State.sendPlanReq s i) := by
  unfold State.sendPlanReq
  refine State.kept_ite (fun _ => ?_) (fun _ => ?_)
  · refine State.tellHead_kept (sub_of hF rfl) ?_
    with_reducible assumption
  · refine State.tellHead_kept (sub_of hF rfl) ?_
    with_reducible assumption

theorem State.planRefused_kept {qu : List Instr} {F : Nat} {o : State} {s : State} {w reason slice group : Nat} {results : List Word} (hF : 0x10000004009 ||| F = F) (hk : State.Kept qu F o s) : State.Kept qu F o (State.planRefused s w reason slice group results) := by
  unfold State.planRefused
  extract_lets +onlyGivenNames v80
  have hv80 : State.Kept qu F o v80 := by
    unfold v80
    refine State.countReg_kept (bit_of hF rfl) ?_
    with_reducible assumption
  clear_value v80
  extract_lets +onlyGivenNames v79
  have hv79 : State.Kept qu F o v79 := by
    unfold v79
    refine State.setReg_kept (bit_of hF rfl) ?_
    with_reducible assumption
  clear_value v79
  refine State.complete_kept (sub_of hF rfl) ?_
  refine State.raise_kept (sub_of hF rfl) (bit_of hF rfl) ?_
  with_reducible assumption

end Sys2Proof.Machine
end

