-- ==== Sys2Proof/Laws/KeptLanternOps.lean ====
section
/-! SUPPORT. Laws/KeptLanternOps.lean: each operation of Machine/LanternOps.lean keeps the queue and the invariant. -/
namespace Sys2Proof.Machine

theorem State.onLnt_kept {qu : List Instr} {F : Nat} {o : State} {s : State} {num ctx : Nat} {f : LntCtx → LntCtx} (hF : 0x1000 ||| F = F) (hk : State.Kept qu F o s) : State.Kept qu F o (State.onLnt s num ctx f) := by
  unfold State.onLnt
  refine State.kept_lnt (bit_of hF rfl) ?_
  with_reducible assumption

theorem State.lntStale_kept {qu : List Instr} {F : Nat} {o : State} {s : State} (hF : 0x80000000000 ||| F = F) (hk : State.Kept qu F o s) : State.Kept qu F o (State.lntStale s) := by
  unfold State.lntStale
  refine State.countReg_kept (bit_of hF rfl) ?_
  with_reducible assumption

theorem State.lntHop_kept {qu : List Instr} {F : Nat} {o : State} {s : State} {num slice gen : Nat} {p : LntPrefix} {data : List Word} {dir left : Nat} (hF : 0x80000001049 ||| F = F) (hk : State.Kept qu F o s) : State.Kept qu F o (State.lntHop s num slice gen p data dir left) := by
  unfold State.lntHop
  split
  · refine State.raise_kept (sub_of hF rfl) (bit_of hF rfl) ?_
    refine State.kept_lnt (bit_of hF rfl) ?_
    with_reducible assumption
  · extract_lets +onlyGivenNames v79
    clear_value v79
    refine State.enqueue_kept (sub_of hF rfl) ?_
    with_reducible assumption

theorem State.lntLegs_kept {qu : List Instr} {F : Nat} {o : State} {s : State} {num slice gen : Nat} {p : LntPrefix} {data : List Word} {legs : List (Nat × Nat)} (hF : 0x80000001049 ||| F = F) (hk : State.Kept qu F o s) : State.Kept qu F o (State.lntLegs s num slice gen p data legs) := by
  unfold State.lntLegs
  refine State.kept_foldl ?_ ?_
  · with_reducible assumption
  · intro s79 x78 h77
    refine State.kept_ite (fun _ => ?_) (fun _ => ?_)
    · with_reducible assumption
    · refine State.lntHop_kept (sub_of hF rfl) ?_
      with_reducible assumption

theorem State.lntFlood_kept {qu : List Instr} {F : Nat} {o : State} {s : State} {c : LntCtx} {kind launch count : Nat} {data : List Word} {bytes : Nat} (hF : 0x80000001049 ||| F = F) (hk : State.Kept qu F o s) : State.Kept qu F o (State.lntFlood s c kind launch count data bytes) := by
  unfold State.lntFlood
  extract_lets +onlyGivenNames v80
  clear_value v80
  refine State.lntLegs_kept (sub_of hF rfl) ?_
  with_reducible assumption

theorem State.lntRelay_kept {qu : List Instr} {F : Nat} {o : State} {s : State} {h : Hdr} {p : LntPrefix} {data : List Word} (hF : 0x80000001049 ||| F = F) (hk : State.Kept qu F o s) : State.Kept qu F o (State.lntRelay s h p data) := by
  unfold State.lntRelay
  extract_lets +onlyGivenNames v80
  clear_value v80
  extract_lets +onlyGivenNames v79
  clear_value v79
  extract_lets +onlyGivenNames v78
  have hv78 : State.Kept qu F o v78 := by
    unfold v78
    refine State.lntLegs_kept (sub_of hF rfl) ?_
    with_reducible assumption
  clear_value v78
  refine State.kept_ite (fun _ => ?_) (fun _ => ?_)
  · with_reducible assumption
  · refine State.countReg_kept (bit_of hF rfl) ?_
    with_reducible assumption

theorem State.sendLntResult_kept {qu : List Instr} {F : Nat} {o : State} {s : State} {c : LntCtx} {p : Plan} {launch member plane : Nat} {res : List Word} (hF : 0x40 ||| F = F) (hk : State.Kept qu F o s) : State.Kept qu F o (State.sendLntResult s c p launch member plane res) := by
  unfold State.sendLntResult
  extract_lets +onlyGivenNames v80
  clear_value v80
  extract_lets +onlyGivenNames v79
  clear_value v79
  extract_lets +onlyGivenNames v78
  clear_value v78
  extract_lets +onlyGivenNames v77
  clear_value v77
  refine State.enqueue_kept (sub_of hF rfl) ?_
  with_reducible assumption

theorem State.overflow_kept {qu : List Instr} {F : Nat} {o : State} {s : State} {ctx member bytes : Nat} (hF : 0x1010000064409 ||| F = F) (hk : State.Kept qu F o s) : State.Kept qu F o (State.overflow s ctx member bytes) := by
  unfold State.overflow
  split
  · with_reducible assumption
  · extract_lets +onlyGivenNames v79
    have hv79 : State.Kept qu F o v79 := by
      unfold v79
      refine State.onPlan_kept (sub_of hF rfl) ?_
      with_reducible assumption
    clear_value v79
    extract_lets +onlyGivenNames v78
    have hv78 : State.Kept qu F o v78 := by
      unfold v78
      refine State.countDrop_kept (sub_of hF rfl) ?_
      with_reducible assumption
    clear_value v78
    extract_lets +onlyGivenNames v77
    have hv77 : State.Kept qu F o v77 := by
      unfold v77
      refine State.setPair_kept (bit_of hF rfl) (bit_of hF rfl) ?_
      with_reducible assumption
    clear_value v77
    extract_lets +onlyGivenNames v76
    clear_value v76
    extract_lets +onlyGivenNames v75
    have hv75 : State.Kept qu F o v75 := by
      unfold v75
      refine State.kept_ite (fun _ => ?_) (fun _ => ?_)
      · refine State.logAgain_kept (sub_of hF rfl) ?_
        with_reducible assumption
      · refine State.logOwn_kept (sub_of hF rfl) ?_
        with_reducible assumption
    clear_value v75
    refine State.raise_kept (sub_of hF rfl) (bit_of hF rfl) ?_
    with_reducible assumption

theorem State.lntComplete_kept {qu : List Instr} {F : Nat} {o : State} {s : State} {c : LntCtx} {launch : Nat} (hF : 0xc0000045449 ||| F = F) (hk : State.Kept qu F o s) : State.Kept qu F o (State.lntComplete s c launch) := by
  unfold State.lntComplete
  split
  · split
    · with_reducible assumption
    · split
      · with_reducible assumption
      · extract_lets +onlyGivenNames v77
        clear_value v77
        refine State.kept_ite (fun _ => ?_) (fun _ => ?_)
        · with_reducible assumption
        · extract_lets +onlyGivenNames v75
          clear_value v75
          extract_lets +onlyGivenNames v74
          clear_value v74
          extract_lets +onlyGivenNames v73
          clear_value v73
          extract_lets +onlyGivenNames v72
          have hv72 : State.Kept qu F o v72 := by
            unfold v72
            refine State.countReg_kept (bit_of hF rfl) ?_
            refine State.countReg_kept (bit_of hF rfl) ?_
            with_reducible assumption
          clear_value v72
          extract_lets +onlyGivenNames v71
          clear_value v71
          extract_lets +onlyGivenNames v70
          clear_value v70
          extract_lets +onlyGivenNames v69
          have hv69 : State.Kept qu F o v69 := by
            unfold v69
            refine State.kept_lnt (bit_of hF rfl) ?_
            with_reducible assumption
          clear_value v69
          extract_lets +onlyGivenNames v68
          have hv68 : State.Kept qu F o v68 := by
            unfold v68
            refine State.kept_ite (fun _ => ?_) (fun _ => ?_)
            · refine State.raise_kept (sub_of hF rfl) (bit_of hF rfl) ?_
              refine State.countReg_kept (bit_of hF rfl) ?_
              with_reducible assumption
            · with_reducible assumption
          clear_value v68
          extract_lets +onlyGivenNames v67
          have hv67 : State.Kept qu F o v67 := by
            unfold v67
            refine State.countReg_kept (bit_of hF rfl) ?_
            refine State.onLnt_kept (sub_of hF rfl) ?_
            with_reducible assumption
          clear_value v67
          extract_lets +onlyGivenNames v66
          have hv66 : State.Kept qu F o v66 := by
            unfold v66
            refine State.countLaunch_kept (sub_of hF rfl) ?_
            refine State.progress_kept (sub_of hF rfl) ?_
            refine State.onPlan_kept (sub_of hF rfl) ?_
            with_reducible assumption
          clear_value v66
          refine State.kept_foldl ?_ ?_
          · with_reducible assumption
          · intro s64 x63 h62
            refine State.sendLntResult_kept (sub_of hF rfl) ?_
            with_reducible assumption
  · with_reducible assumption

theorem State.lntRackDone_kept {qu : List Instr} {F : Nat} {o : State} {s : State} {c : LntCtx} {launch : Nat} (hF : 0xc0000045449 ||| F = F) (hk : State.Kept qu F o s) : State.Kept qu F o (State.lntRackDone s c launch) := by
  unfold State.lntRackDone
  split
  · split
    · with_reducible assumption
    · extract_lets +onlyGivenNames v78
      clear_value v78
      refine State.kept_ite (fun _ => ?_) (fun _ => ?_)
      · with_reducible assumption
      · extract_lets +onlyGivenNames v76
        clear_value v76
        extract_lets +onlyGivenNames v75
        clear_value v75
        extract_lets +onlyGivenNames v74
        have hv74 : State.Kept qu F o v74 := by
          unfold v74
          refine State.countReg_kept (bit_of hF rfl) ?_
          refine State.countReg_kept (bit_of hF rfl) ?_
          with_reducible assumption
        clear_value v74
        extract_lets +onlyGivenNames v73
        have hv73 : State.Kept qu F o v73 := by
          unfold v73
          refine State.onLnt_kept (sub_of hF rfl) ?_
          with_reducible assumption
        clear_value v73
        extract_lets +onlyGivenNames v72
        have hv72 : State.Kept qu F o v72 := by
          unfold v72
          refine State.kept_ite (fun _ => ?_) (fun _ => ?_)
          · with_reducible assumption
          · refine State.lntFlood_kept (sub_of hF rfl) ?_
            with_reducible assumption
        clear_value v72
        refine State.lntComplete_kept (sub_of hF rfl) ?_
        with_reducible assumption
  · with_reducible assumption

theorem State.lntFault_kept {qu : List Instr} {F : Nat} {o : State} {s : State} {c : LntCtx} {launch : Nat} {w : Word} {twice : Bool} (hF : 0x1080000025009 ||| F = F) (hk : State.Kept qu F o s) : State.Kept qu F o (State.lntFault s c launch w twice) := by
  unfold State.lntFault
  extract_lets +onlyGivenNames v80
  clear_value v80
  extract_lets +onlyGivenNames v79
  have hv79 : State.Kept qu F o v79 := by
    unfold v79
    refine State.raise_kept (sub_of hF rfl) (bit_of hF rfl) ?_
    refine State.logOwn_kept (sub_of hF rfl) ?_
    with_reducible assumption
  clear_value v79
  refine State.kept_ite (fun _ => ?_) (fun _ => ?_)
  · refine State.raise_kept (sub_of hF rfl) (bit_of hF rfl) ?_
    refine State.onLnt_kept (sub_of hF rfl) ?_
    refine State.kept_lnt (bit_of hF rfl) ?_
    with_reducible assumption
  · with_reducible assumption

theorem State.takeLntContrib_kept {qu : List Instr} {F : Nat} {o : State} {s : State} {port : Nat} {pkt : Packet} {fault : Option (Word × Bool)} (hF : 0x10d0000065449 ||| F = F) (hk : State.Kept qu F o s) : State.Kept qu F o (State.takeLntContrib s port pkt fault) := by
  unfold State.takeLntContrib
  extract_lets +onlyGivenNames v80
  clear_value v80
  extract_lets +onlyGivenNames v79
  clear_value v79
  extract_lets +onlyGivenNames v78
  have hv78 : State.Kept qu F o v78 := by
    unfold v78
    refine State.returnCredits_kept (sub_of hF rfl) ?_
    with_reducible assumption
  clear_value v78
  split
  · refine State.lntStale_kept (sub_of hF rfl) ?_
    with_reducible assumption
  · refine State.kept_ite (fun _ => ?_) (fun _ => ?_)
    · refine State.lntStale_kept (sub_of hF rfl) ?_
      with_reducible assumption
    · refine State.kept_ite (fun _ => ?_) (fun _ => ?_)
      · refine State.logOwn_kept (sub_of hF rfl) ?_
        refine State.lntStale_kept (sub_of hF rfl) ?_
        with_reducible assumption
      · refine State.kept_ite (fun _ => ?_) (fun _ => ?_)
        · split
          · split
            · refine State.sendLntResult_kept (sub_of hF rfl) ?_
              refine State.countReg_kept (bit_of hF rfl) ?_
              with_reducible assumption
            · refine State.lntStale_kept (sub_of hF rfl) ?_
              with_reducible assumption
          · refine State.lntStale_kept (sub_of hF rfl) ?_
            with_reducible assumption
        · refine State.kept_ite (fun _ => ?_) (fun _ => ?_)
          · refine State.countReg_kept (bit_of hF rfl) ?_
            with_reducible assumption
          · extract_lets +onlyGivenNames v72
            clear_value v72
            extract_lets +onlyGivenNames v71
            clear_value v71
            extract_lets +onlyGivenNames v70
            clear_value v70
            extract_lets +onlyGivenNames v69
            have hv69 : State.Kept qu F o v69 := by
              unfold v69
              refine State.onLnt_kept (sub_of hF rfl) ?_
              with_reducible assumption
            clear_value v69
            extract_lets +onlyGivenNames v68
            have hv68 : State.Kept qu F o v68 := by
              unfold v68
              refine State.kept_ite (fun _ => ?_) (fun _ => ?_)
              · refine State.overflow_kept (sub_of hF rfl) ?_
                with_reducible assumption
              · with_reducible assumption
            clear_value v68
            extract_lets +onlyGivenNames v67
            have hv67 : State.Kept qu F o v67 := by
              unfold v67
              split
              · refine State.lntFault_kept (sub_of hF rfl) ?_
                with_reducible assumption
              · with_reducible assumption
            clear_value v67
            refine State.lntRackDone_kept (sub_of hF rfl) ?_
            with_reducible assumption

theorem State.takeLntPartial_kept {qu : List Instr} {F : Nat} {o : State} {s : State} {port : Nat} {pkt : Packet} {fault : Option (Word × Bool)} (hF : 0x10c0000065449 ||| F = F) (hk : State.Kept qu F o s) : State.Kept qu F o (State.takeLntPartial s port pkt fault) := by
  unfold State.takeLntPartial
  extract_lets +onlyGivenNames v80
  clear_value v80
  extract_lets +onlyGivenNames v79
  clear_value v79
  extract_lets +onlyGivenNames v78
  clear_value v78
  extract_lets +onlyGivenNames v77
  have hv77 : State.Kept qu F o v77 := by
    unfold v77
    refine State.returnCredits_kept (sub_of hF rfl) ?_
    with_reducible assumption
  clear_value v77
  extract_lets +onlyGivenNames v76
  clear_value v76
  extract_lets +onlyGivenNames v75
  have hv75 : State.Kept qu F o v75 := by
    unfold v75
    split
    · with_reducible assumption
    · refine State.kept_ite (fun _ => ?_) (fun _ => ?_)
      · refine State.lntStale_kept (sub_of hF rfl) ?_
        with_reducible assumption
      · refine State.kept_ite (fun _ => ?_) (fun _ => ?_)
        · refine State.countReg_kept (bit_of hF rfl) ?_
          with_reducible assumption
        · refine State.kept_ite (fun _ => ?_) (fun _ => ?_)
          · refine State.lntStale_kept (sub_of hF rfl) ?_
            with_reducible assumption
          · extract_lets +onlyGivenNames v70
            have hv70 : State.Kept qu F o v70 := by
              unfold v70
              refine State.onLnt_kept (sub_of hF rfl) ?_
              with_reducible assumption
            clear_value v70
            extract_lets +onlyGivenNames v69
            have hv69 : State.Kept qu F o v69 := by
              unfold v69
              split
              · refine State.lntFault_kept (sub_of hF rfl) ?_
                with_reducible assumption
              · with_reducible assumption
            clear_value v69
            refine State.lntComplete_kept (sub_of hF rfl) ?_
            with_reducible assumption
  clear_value v75
  refine State.lntRelay_kept (sub_of hF rfl) ?_
  with_reducible assumption

theorem State.takeLntNeed_kept {qu : List Instr} {F : Nat} {o : State} {s : State} {port : Nat} {pkt : Packet} (hF : 0x80000001049 ||| F = F) (hk : State.Kept qu F o s) : State.Kept qu F o (State.takeLntNeed s port pkt) := by
  unfold State.takeLntNeed
  extract_lets +onlyGivenNames v80
  clear_value v80
  extract_lets +onlyGivenNames v79
  clear_value v79
  extract_lets +onlyGivenNames v78
  have hv78 : State.Kept qu F o v78 := by
    unfold v78
    refine State.returnCredits_kept (sub_of hF rfl) ?_
    with_reducible assumption
  clear_value v78
  extract_lets +onlyGivenNames v77
  have hv77 : State.Kept qu F o v77 := by
    unfold v77
    split
    · with_reducible assumption
    · refine State.kept_ite (fun _ => ?_) (fun _ => ?_)
      · refine State.lntStale_kept (sub_of hF rfl) ?_
        with_reducible assumption
      · split
        · refine State.lntFlood_kept (sub_of hF rfl) ?_
          with_reducible assumption
        · with_reducible assumption
  clear_value v77
  refine State.lntRelay_kept (sub_of hF rfl) ?_
  with_reducible assumption

theorem State.lanternUp_kept {qu : List Instr} {F : Nat} {o : State} {s : State} {port : Nat} {pkt : Packet} {fault : Option (Word × Bool)} (hF : 0x10d0000065449 ||| F = F) (hk : State.Kept qu F o s) : State.Kept qu F o (State.lanternUp s port pkt fault) := by
  unfold State.lanternUp
  extract_lets +onlyGivenNames v80
  have hv80 : State.Kept qu F o v80 := by
    unfold v80
    refine State.received_kept (sub_of hF rfl) ?_
    with_reducible assumption
  clear_value v80
  split
  · rename_i n79_0 n79_1 n79_2
    have hn79_2 : State.Kept qu F o n79_1 := by
      refine State.refused_kept (sub_of hF rfl) ?_ _ n79_2
      with_reducible assumption
    with_reducible assumption
  · extract_lets +onlyGivenNames v78
    clear_value v78
    refine State.kept_ite (fun _ => ?_) (fun _ => ?_)
    · refine State.refusePacket_kept (sub_of hF rfl) ?_
      with_reducible assumption
    · refine State.kept_ite (fun _ => ?_) (fun _ => ?_)
      · refine State.takeLntContrib_kept (sub_of hF rfl) ?_
        with_reducible assumption
      · refine State.kept_ite (fun _ => ?_) (fun _ => ?_)
        · refine State.takeLntPartial_kept (sub_of hF rfl) ?_
          with_reducible assumption
        · refine State.takeLntNeed_kept (sub_of hF rfl) ?_
          with_reducible assumption

theorem State.writeLanternPlanes_kept {qu : List Instr} {F : Nat} {o : State} {s : State} (hF : 0x800000010c9 ||| F = F) (hk : State.Kept qu F o s) : State.Kept qu F o (State.writeLanternPlanes s) := by
  unfold State.writeLanternPlanes
  refine State.kept_ite (fun _ => ?_) (fun _ => ?_)
  · with_reducible assumption
  · refine State.kept_foldl ?_ ?_
    · with_reducible assumption
    · intro s78 x77 h76
      extract_lets +onlyGivenNames v75
      clear_value v75
      split
      · with_reducible assumption
      · refine State.kept_ite (fun _ => ?_) (fun _ => ?_)
        · with_reducible assumption
        · extract_lets +onlyGivenNames v72
          clear_value v72
          extract_lets +onlyGivenNames v71
          clear_value v71
          extract_lets +onlyGivenNames v70
          have hv70 : State.Kept qu F o v70 := by
            unfold v70
            refine State.kept_lnt (bit_of hF rfl) ?_
            with_reducible assumption
          clear_value v70
          refine State.raiseIf_kept (sub_of hF rfl) (bit_of hF rfl) ?_
          refine State.mgmtWrite_kept (sub_of hF rfl) ?_
          with_reducible assumption

end Sys2Proof.Machine
end

