-- ==== Sys2Proof/Laws/KeptSwitchOps.lean ====
section
/-! SUPPORT. Laws/KeptSwitchOps.lean: each operation of Machine/SwitchOps.lean keeps the queue and the invariant. -/
namespace Sys2Proof.Machine

theorem State.onProg_kept {qu : List Instr} {F : Nat} {o : State} {s : State} {a : Addr} {ctx : Nat} {f : AgProg → AgProg} (hF : 0x80000 ||| F = F) (hk : State.Kept qu F o s) : State.Kept qu F o (State.onProg s a ctx f) := by
  unfold State.onProg
  refine State.onAgent_kept (sub_of hF rfl) ?_
  with_reducible assumption

theorem State.onSwPlace_kept {qu : List Instr} {F : Nat} {o : State} {s : State} {a : Addr} {ctx launch piece : Nat} {f : Place → Place} (hF : 0x80000 ||| F = F) (hk : State.Kept qu F o s) : State.Kept qu F o (State.onSwPlace s a ctx launch piece f) := by
  unfold State.onSwPlace
  refine State.onProg_kept (sub_of hF rfl) ?_
  with_reducible assumption

theorem State.swSendEn_kept {qu : List Instr} {F : Nat} {o : State} {s : State} {a : Addr} {v : ProgView} {dest svc opkind optag : Nat} {ws : List Word} {launch piece : Nat} (hF : 0x80000 ||| F = F) (hk : State.Kept qu F o s) : State.Kept qu F o (State.swSendEn s a v dest svc opkind optag ws launch piece) := by
  unfold State.swSendEn
  refine State.agFlowSend_kept (sub_of hF rfl) ?_
  with_reducible assumption

theorem State.swSendKeeper_kept {qu : List Instr} {F : Nat} {o : State} {s : State} {a : Addr} {v : ProgView} {svc opkind : Nat} {ws : List Word} {launch piece : Nat} (hF : 0x80000 ||| F = F) (hk : State.Kept qu F o s) : State.Kept qu F o (State.swSendKeeper s a v svc opkind ws launch piece) := by
  unfold State.swSendKeeper
  refine State.agFlowSend_kept (sub_of hF rfl) ?_
  with_reducible assumption

theorem State.swResults_kept {qu : List Instr} {F : Nat} {o : State} {s : State} {a : Addr} {v : ProgView} {x : Place} {sums : List Word} (hF : 0x80000 ||| F = F) (hk : State.Kept qu F o s) : State.Kept qu F o (State.swResults s a v x sums) := by
  unfold State.swResults
  extract_lets +onlyGivenNames v80
  clear_value v80
  refine State.kept_foldl ?_ ?_
  · with_reducible assumption
  · intro s78 x77 h76
    refine State.swSendEn_kept (sub_of hF rfl) ?_
    with_reducible assumption

theorem State.swToKeeper_kept {qu : List Instr} {F : Nat} {o : State} {s : State} {a : Addr} {v : ProgView} {x : Place} {whole : List Word} (hF : 0x80000 ||| F = F) (hk : State.Kept qu F o s) : State.Kept qu F o (State.swToKeeper s a v x whole) := by
  unfold State.swToKeeper
  extract_lets +onlyGivenNames v80
  clear_value v80
  extract_lets +onlyGivenNames v79
  clear_value v79
  refine State.kept_foldl_range ?_ ?_
  · with_reducible assumption
  · intro s77 x76 x75 h74
    extract_lets +onlyGivenNames v73
    clear_value v73
    refine State.swSendKeeper_kept (sub_of hF rfl) ?_
    with_reducible assumption

theorem State.swRing_kept {qu : List Instr} {F : Nat} {o : State} {s : State} {a : Addr} {v : ProgView} {x : Place} {step dest optag : Nat} {go : List ((SumPart × Nat) × List Word)} {left : Nat} (hF : 0x80000 ||| F = F) (hk : State.Kept qu F o s) : State.Kept qu F o (State.swRing s a v x step dest optag go left) := by
  unfold State.swRing
  refine State.kept_foldl ?_ ?_
  · with_reducible assumption
  · intro s79 x78 h77
    refine State.swSendEn_kept (sub_of hF rfl) ?_
    with_reducible assumption

theorem State.swAxis_kept {qu : List Instr} {F : Nat} {o : State} {s : State} {a : Addr} {v : ProgView} {x : Place} {step mark dest optag : Nat} {on : List ((SumPart × Nat) × Option (List Word))} (hF : 0x80000 ||| F = F) (hk : State.Kept qu F o s) : State.Kept qu F o (State.swAxis s a v x step mark dest optag on) := by
  unfold State.swAxis
  extract_lets +onlyGivenNames v80
  clear_value v80
  extract_lets +onlyGivenNames v79
  clear_value v79
  refine State.kept_ite (fun _ => ?_) (fun _ => ?_)
  · with_reducible assumption
  · extract_lets +onlyGivenNames v77
    have hv77 : State.Kept qu F o v77 := by
      unfold v77
      refine State.onProg_kept (sub_of hF rfl) ?_
      with_reducible assumption
    clear_value v77
    extract_lets +onlyGivenNames v76
    have hv76 : State.Kept qu F o v76 := by
      unfold v76
      refine State.onSwPlace_kept (sub_of hF rfl) ?_
      with_reducible assumption
    clear_value v76
    refine State.swRing_kept (sub_of hF rfl) ?_
    with_reducible assumption

theorem State.swRingGo_kept {qu : List Instr} {F : Nat} {o : State} {s : State} {a : Addr} {v : ProgView} {x : Place} {whole : List Word} (hF : 0x80000 ||| F = F) (hk : State.Kept qu F o s) : State.Kept qu F o (State.swRingGo s a v x whole) := by
  unfold State.swRingGo
  extract_lets +onlyGivenNames v80
  clear_value v80
  extract_lets +onlyGivenNames v79
  clear_value v79
  extract_lets +onlyGivenNames v78
  clear_value v78
  extract_lets +onlyGivenNames v77
  clear_value v77
  extract_lets +onlyGivenNames v76
  have hv76 : State.Kept qu F o v76 := by
    unfold v76
    refine State.swAxis_kept (sub_of hF rfl) ?_
    with_reducible assumption
  clear_value v76
  extract_lets +onlyGivenNames v75
  have hv75 : State.Kept qu F o v75 := by
    unfold v75
    refine State.swAxis_kept (sub_of hF rfl) ?_
    with_reducible assumption
  clear_value v75
  extract_lets +onlyGivenNames v74
  clear_value v74
  refine State.kept_ite (fun _ => ?_) (fun _ => ?_)
  · with_reducible assumption
  · extract_lets +onlyGivenNames v72
    clear_value v72
    refine State.swResults_kept (sub_of hF rfl) ?_
    refine State.onSwPlace_kept (sub_of hF rfl) ?_
    with_reducible assumption

theorem State.swRelease_kept {qu : List Instr} {F : Nat} {o : State} {s : State} {a : Addr} {v : ProgView} {x : Place} {to_ : Addr × Nat} (hF : 0x80000 ||| F = F) (hk : State.Kept qu F o s) : State.Kept qu F o (State.swRelease s a v x to_) := by
  unfold State.swRelease
  extract_lets +onlyGivenNames v80
  clear_value v80
  extract_lets +onlyGivenNames v79
  clear_value v79
  refine State.swSendEn_kept (sub_of hF rfl) ?_
  with_reducible assumption

theorem State.swFinish_kept {qu : List Instr} {F : Nat} {o : State} {s : State} {a : Addr} {ctx launch piece : Nat} (hF : 0x80000 ||| F = F) (hk : State.Kept qu F o s) : State.Kept qu F o (State.swFinish s a ctx launch piece) := by
  unfold State.swFinish
  extract_lets +onlyGivenNames v80
  clear_value v80
  extract_lets +onlyGivenNames v79
  clear_value v79
  split
  · with_reducible assumption
  · refine State.kept_ite (fun _ => ?_) (fun _ => ?_)
    · with_reducible assumption
    · extract_lets +onlyGivenNames v76
      clear_value v76
      extract_lets +onlyGivenNames v75
      have hv75 : State.Kept qu F o v75 := by
        unfold v75
        refine State.onProg_kept (sub_of hF rfl) ?_
        with_reducible assumption
      clear_value v75
      refine State.kept_foldl ?_ ?_
      · with_reducible assumption
      · intro s73 x72 h71
        refine State.swRelease_kept (sub_of hF rfl) ?_
        with_reducible assumption

theorem State.swAdvance_kept {qu : List Instr} {F : Nat} {o : State} {s : State} {a : Addr} {ctx launch piece : Nat} (hF : 0x80000 ||| F = F) (hk : State.Kept qu F o s) : State.Kept qu F o (State.swAdvance s a ctx launch piece) := by
  unfold State.swAdvance
  extract_lets +onlyGivenNames v80
  clear_value v80
  extract_lets +onlyGivenNames v79
  clear_value v79
  extract_lets +onlyGivenNames v78
  clear_value v78
  split
  · with_reducible assumption
  · refine State.kept_ite (fun _ => ?_) (fun _ => ?_)
    · with_reducible assumption
    · split
      · with_reducible assumption
      · extract_lets +onlyGivenNames v74
        have hv74 : State.Kept qu F o v74 := by
          unfold v74
          refine State.kept_ite (fun _ => ?_) (fun _ => ?_)
          · refine State.swRingGo_kept (sub_of hF rfl) ?_
            with_reducible assumption
          · refine State.kept_ite (fun _ => ?_) (fun _ => ?_)
            · with_reducible assumption
            · refine State.kept_ite (fun _ => ?_) (fun _ => ?_)
              · refine State.kept_ite (fun _ => ?_) (fun _ => ?_)
                · refine State.swToKeeper_kept (sub_of hF rfl) ?_
                  refine State.onSwPlace_kept (sub_of hF rfl) ?_
                  refine State.onProg_kept (sub_of hF rfl) ?_
                  with_reducible assumption
                · with_reducible assumption
              · refine State.swResults_kept (sub_of hF rfl) ?_
                refine State.onSwPlace_kept (sub_of hF rfl) ?_
                with_reducible assumption
        clear_value v74
        refine State.swFinish_kept (sub_of hF rfl) ?_
        with_reducible assumption

theorem State.swReplicate_kept {qu : List Instr} {F : Nat} {o : State} {s : State} {a : Addr} {v : ProgView} {except opkind : Nat} {ws : List Word} (hF : 0x80000 ||| F = F) (hk : State.Kept qu F o s) : State.Kept qu F o (State.swReplicate s a v except opkind ws) := by
  unfold State.swReplicate
  refine State.kept_foldl ?_ ?_
  · with_reducible assumption
  · intro s79 x78 h77
    refine State.swSendEn_kept (sub_of hF rfl) ?_
    with_reducible assumption

theorem State.swLetGo_kept {qu : List Instr} {F : Nat} {o : State} {s : State} {a : Addr} {v : ProgView} (hF : 0x80000 ||| F = F) (hk : State.Kept qu F o s) : State.Kept qu F o (State.swLetGo s a v) := by
  unfold State.swLetGo
  refine State.swReplicate_kept (sub_of hF rfl) ?_
  refine State.onProg_kept (sub_of hF rfl) ?_
  with_reducible assumption

theorem State.swBarrierGo_kept {qu : List Instr} {F : Nat} {o : State} {s : State} {a : Addr} {v : ProgView} (hF : 0x80000 ||| F = F) (hk : State.Kept qu F o s) : State.Kept qu F o (State.swBarrierGo s a v) := by
  unfold State.swBarrierGo
  extract_lets +onlyGivenNames v80
  clear_value v80
  refine State.kept_ite (fun _ => ?_) (fun _ => ?_)
  · with_reducible assumption
  · refine State.kept_ite (fun _ => ?_) (fun _ => ?_)
    · refine State.kept_ite (fun _ => ?_) (fun _ => ?_)
      · with_reducible assumption
      · refine State.swSendKeeper_kept (sub_of hF rfl) ?_
        refine State.onProg_kept (sub_of hF rfl) ?_
        with_reducible assumption
    · refine State.swLetGo_kept (sub_of hF rfl) ?_
      with_reducible assumption

theorem State.swResume_kept {qu : List Instr} {F : Nat} {o : State} {s : State} {a : Addr} {ctx : Nat} (hF : 0x80000 ||| F = F) (hk : State.Kept qu F o s) : State.Kept qu F o (State.swResume s a ctx) := by
  unfold State.swResume
  extract_lets +onlyGivenNames v80
  have hv80 : State.Kept qu F o v80 := by
    unfold v80
    refine State.kept_foldl ?_ ?_
    · with_reducible assumption
    · intro s78 x77 h76
      refine State.swAdvance_kept (sub_of hF rfl) ?_
      with_reducible assumption
  clear_value v80
  refine State.swBarrierGo_kept (sub_of hF rfl) ?_
  with_reducible assumption

theorem State.agMalformed_kept {qu : List Instr} {F : Nat} {o : State} {s : State} {a : Addr} (hF : 0x80000 ||| F = F) (hk : State.Kept qu F o s) : State.Kept qu F o (State.agMalformed s a) := by
  unfold State.agMalformed
  refine State.onAgent_kept (sub_of hF rfl) ?_
  with_reducible assumption

theorem State.agStale_kept {qu : List Instr} {F : Nat} {o : State} {s : State} {a : Addr} (hF : 0x80000 ||| F = F) (hk : State.Kept qu F o s) : State.Kept qu F o (State.agStale s a) := by
  unfold State.agStale
  refine State.onAgent_kept (sub_of hF rfl) ?_
  with_reducible assumption

theorem State.swDiscard_kept {qu : List Instr} {F : Nat} {o : State} {s : State} {a : Addr} {ctx launch piece reason : Nat} (hF : 0x80000 ||| F = F) (hk : State.Kept qu F o s) : State.Kept qu F o (State.swDiscard s a ctx launch piece reason) := by
  unfold State.swDiscard
  extract_lets +onlyGivenNames v80
  have hv80 : State.Kept qu F o v80 := by
    unfold v80
    refine State.onProg_kept (sub_of hF rfl) ?_
    with_reducible assumption
  clear_value v80
  extract_lets +onlyGivenNames v79
  have hv79 : State.Kept qu F o v79 := by
    unfold v79
    refine State.agDrop_kept (sub_of hF rfl) ?_
    with_reducible assumption
  clear_value v79
  refine State.agentEvent_kept (sub_of hF rfl) ?_
  with_reducible assumption

theorem State.swContrib_kept {qu : List Instr} {F : Nat} {o : State} {s : State} {a : Addr} {v : ProgView} {port : Nat} {p : Packet} {fault : Nat} (hF : 0x80000 ||| F = F) (hk : State.Kept qu F o s) : State.Kept qu F o (State.swContrib s a v port p fault) := by
  unfold State.swContrib
  extract_lets +onlyGivenNames v80
  clear_value v80
  extract_lets +onlyGivenNames v79
  clear_value v79
  extract_lets +onlyGivenNames v78
  clear_value v78
  extract_lets +onlyGivenNames v77
  clear_value v77
  extract_lets +onlyGivenNames v76
  clear_value v76
  extract_lets +onlyGivenNames v75
  clear_value v75
  extract_lets +onlyGivenNames v74
  clear_value v74
  refine State.kept_ite (fun _ => ?_) (fun _ => ?_)
  · refine State.agMalformed_kept (sub_of hF rfl) ?_
    with_reducible assumption
  · extract_lets +onlyGivenNames v72
    have hv72 : State.Kept qu F o v72.2 := by
      unfold v72
      refine State.agTake_kept (sub_of hF rfl) ?_
      with_reducible assumption
    clear_value v72
    extract_lets +onlyGivenNames v71
    have hv71 : State.Kept qu F o v71 := by
      unfold v71
      with_reducible assumption
    clear_value v71
    extract_lets +onlyGivenNames v70
    clear_value v70
    refine State.kept_ite (fun _ => ?_) (fun _ => ?_)
    · with_reducible assumption
    · extract_lets +onlyGivenNames v68
      clear_value v68
      extract_lets +onlyGivenNames v67
      clear_value v67
      extract_lets +onlyGivenNames v66
      have hv66 : State.Kept qu F o v66 := by
        unfold v66
        refine State.onProg_kept (sub_of hF rfl) ?_
        with_reducible assumption
      clear_value v66
      extract_lets +onlyGivenNames v65
      clear_value v65
      extract_lets +onlyGivenNames v64
      clear_value v64
      extract_lets +onlyGivenNames v63
      have hv63 : State.Kept qu F o v63 := by
        unfold v63
        refine State.onSwPlace_kept (sub_of hF rfl) ?_
        with_reducible assumption
      clear_value v63
      refine State.kept_ite (fun _ => ?_) (fun _ => ?_)
      · refine State.swDiscard_kept (sub_of hF rfl) ?_
        with_reducible assumption
      · refine State.swAdvance_kept (sub_of hF rfl) ?_
        with_reducible assumption

theorem State.swCredit_kept {qu : List Instr} {F : Nat} {o : State} {s : State} {a : Addr} {v : ProgView} {src : Addr} {x : PiecePrefix} (hF : 0x80000 ||| F = F) (hk : State.Kept qu F o s) : State.Kept qu F o (State.swCredit s a v src x) := by
  unfold State.swCredit
  extract_lets +onlyGivenNames v80
  clear_value v80
  refine State.swResume_kept (sub_of hF rfl) ?_
  refine State.onProg_kept (sub_of hF rfl) ?_
  with_reducible assumption

theorem State.swGather_kept {qu : List Instr} {F : Nat} {o : State} {s : State} {a : Addr} {v : ProgView} {p : Packet} {fromKeeper : Bool} (hF : 0x80000 ||| F = F) (hk : State.Kept qu F o s) : State.Kept qu F o (State.swGather s a v p fromKeeper) := by
  unfold State.swGather
  extract_lets +onlyGivenNames v80
  clear_value v80
  extract_lets +onlyGivenNames v79
  clear_value v79
  extract_lets +onlyGivenNames v78
  clear_value v78
  refine State.kept_ite (fun _ => ?_) (fun _ => ?_)
  · refine State.swReplicate_kept (sub_of hF rfl) ?_
    with_reducible assumption
  · refine State.kept_ite (fun _ => ?_) (fun _ => ?_)
    · refine State.swSendKeeper_kept (sub_of hF rfl) ?_
      with_reducible assumption
    · extract_lets +onlyGivenNames v75
      have hv75 : State.Kept qu F o v75 := by
        unfold v75
        refine State.swReplicate_kept (sub_of hF rfl) ?_
        with_reducible assumption
      clear_value v75
      refine State.kept_ite (fun _ => ?_) (fun _ => ?_)
      · with_reducible assumption
      · extract_lets +onlyGivenNames v73
        clear_value v73
        extract_lets +onlyGivenNames v72
        clear_value v72
        extract_lets +onlyGivenNames v71
        clear_value v71
        extract_lets +onlyGivenNames v70
        have hv70 : State.Kept qu F o v70 := by
          unfold v70
          refine State.kept_ite (fun _ => ?_) (fun _ => ?_)
          · refine State.swSendEn_kept (sub_of hF rfl) ?_
            with_reducible assumption
          · with_reducible assumption
        clear_value v70
        refine State.kept_ite (fun _ => ?_) (fun _ => ?_)
        · refine State.swSendEn_kept (sub_of hF rfl) ?_
          with_reducible assumption
        · with_reducible assumption

theorem State.swBarrier_kept {qu : List Instr} {F : Nat} {o : State} {s : State} {a : Addr} {v : ProgView} {h : Hdr} (hF : 0x80000 ||| F = F) (hk : State.Kept qu F o s) : State.Kept qu F o (State.swBarrier s a v h) := by
  unfold State.swBarrier
  split
  · refine State.agMalformed_kept (sub_of hF rfl) ?_
    with_reducible assumption
  · extract_lets +onlyGivenNames v79
    clear_value v79
    refine State.kept_ite (fun _ => ?_) (fun _ => ?_)
    · with_reducible assumption
    · refine State.swBarrierGo_kept (sub_of hF rfl) ?_
      refine State.onProg_kept (sub_of hF rfl) ?_
      with_reducible assumption

theorem State.swTake_kept {qu : List Instr} {F : Nat} {o : State} {s : State} {a : Addr} {v : ProgView} {port : Nat} {p : Packet} {fault : Nat} (hF : 0x80000 ||| F = F) (hk : State.Kept qu F o s) : State.Kept qu F o (State.swTake s a v port p fault) := by
  unfold State.swTake
  extract_lets +onlyGivenNames v80
  clear_value v80
  extract_lets +onlyGivenNames v79
  clear_value v79
  refine State.kept_ite (fun _ => ?_) (fun _ => ?_)
  · refine State.agStale_kept (sub_of hF rfl) ?_
    with_reducible assumption
  · refine State.kept_ite (fun _ => ?_) (fun _ => ?_)
    · refine State.swContrib_kept (sub_of hF rfl) ?_
      with_reducible assumption
    · refine State.kept_ite (fun _ => ?_) (fun _ => ?_)
      · refine State.agMalformed_kept (sub_of hF rfl) ?_
        with_reducible assumption
      · extract_lets +onlyGivenNames v75
        have hv75 : State.Kept qu F o v75.2 := by
          unfold v75
          refine State.agTake_kept (sub_of hF rfl) ?_
          with_reducible assumption
        clear_value v75
        refine State.kept_ite (fun _ => ?_) (fun _ => ?_)
        · with_reducible assumption
        · refine State.kept_ite (fun _ => ?_) (fun _ => ?_)
          · refine State.swCredit_kept (sub_of hF rfl) ?_
            with_reducible assumption
          · refine State.kept_ite (fun _ => ?_) (fun _ => ?_)
            · refine State.swGather_kept (sub_of hF rfl) ?_
              with_reducible assumption
            · refine State.kept_ite (fun _ => ?_) (fun _ => ?_)
              · refine State.swLetGo_kept (sub_of hF rfl) ?_
                with_reducible assumption
              · refine State.swBarrier_kept (sub_of hF rfl) ?_
                with_reducible assumption

theorem State.swAckIn_kept {qu : List Instr} {F : Nat} {o : State} {s : State} {a : Addr} {h : Hdr} {payload : List Word} (hF : 0x80000 ||| F = F) (hk : State.Kept qu F o s) : State.Kept qu F o (State.swAckIn s a h payload) := by
  unfold State.swAckIn
  extract_lets +onlyGivenNames v80
  clear_value v80
  extract_lets +onlyGivenNames v79
  have hv79 : State.Kept qu F o v79 := by
    unfold v79
    refine State.agAckIn_kept (sub_of hF rfl) ?_
    with_reducible assumption
  clear_value v79
  refine State.kept_foldl ?_ ?_
  · with_reducible assumption
  · intro s77 x76 h75
    refine State.kept_foldl ?_ ?_
    · with_reducible assumption
    · intro s73 x72 h71
      refine State.swFinish_kept (sub_of hF rfl) ?_
      with_reducible assumption

theorem State.agTimeReply_kept {qu : List Instr} {F : Nat} {o : State} {s : State} {a : Addr} {port : Nat} {p : Packet} (hF : 0x80002 ||| F = F) (hk : State.Kept qu F o s) : State.Kept qu F o (State.agTimeReply s a port p) := by
  unfold State.agTimeReply
  extract_lets +onlyGivenNames v80
  clear_value v80
  extract_lets +onlyGivenNames v79
  clear_value v79
  refine State.kept_ite (fun _ => ?_) (fun _ => ?_)
  · with_reducible assumption
  · extract_lets +onlyGivenNames v77
    have hv77 : State.Kept qu F o v77.2 := by
      unfold v77
      refine State.fresh_kept (sub_of hF rfl) ?_
      with_reducible assumption
    clear_value v77
    extract_lets +onlyGivenNames v76
    clear_value v76
    extract_lets +onlyGivenNames v75
    clear_value v75
    extract_lets +onlyGivenNames v74
    clear_value v74
    refine State.agentSend_kept (sub_of hF rfl) ?_
    with_reducible assumption

end Sys2Proof.Machine
end

