-- ==== Sys2Proof/Laws/KeptAgentColl.lean ====
section
/-! SUPPORT. Laws/KeptAgentColl.lean: each operation of Machine/AgentColl.lean keeps the queue and the invariant. -/
namespace Sys2Proof.Machine

theorem State.onAgSlot_kept {qu : List Instr} {F : Nat} {o : State} {s : State} {a : Addr} {slot : Nat} {f : AgSlot → AgSlot} (hF : 0x80000 ||| F = F) (hk : State.Kept qu F o s) : State.Kept qu F o (State.onAgSlot s a slot f) := by
  unfold State.onAgSlot
  refine State.onAgent_kept (sub_of hF rfl) ?_
  with_reducible assumption

theorem State.noteLength_kept {qu : List Instr} {F : Nat} {o : State} {s : State} {a : Addr} {v : SlotView} {launch actual : Nat} (hF : 0x80000 ||| F = F) (hk : State.Kept qu F o s) : State.Kept qu F o (State.noteLength s a v launch actual) := by
  unfold State.noteLength
  extract_lets +onlyGivenNames v80
  clear_value v80
  extract_lets +onlyGivenNames v79
  have hv79 : State.Kept qu F o v79 := by
    unfold v79
    refine State.onAgent_kept (sub_of hF rfl) ?_
    with_reducible assumption
  clear_value v79
  refine State.kept_ite (fun _ => ?_) (fun _ => ?_)
  · with_reducible assumption
  · refine State.agentEvent_kept (sub_of hF rfl) ?_
    with_reducible assumption

theorem State.slotSend_kept {qu : List Instr} {F : Nat} {o : State} {s : State} {a : Addr} {v : SlotView} {port dest svc opkind optag : Nat} {ws : List Word} {launch piece : Nat} (hF : 0x80000 ||| F = F) (hk : State.Kept qu F o s) : State.Kept qu F o (State.slotSend s a v port dest svc opkind optag ws launch piece) := by
  unfold State.slotSend
  refine State.agFlowSend_kept (sub_of hF rfl) ?_
  with_reducible assumption

theorem State.sendEntry_kept {qu : List Instr} {F : Nat} {o : State} {s : State} {a : Addr} {v : SlotView} {launch e plane : Nat} (hF : 0x80000 ||| F = F) (hk : State.Kept qu F o s) : State.Kept qu F o (State.sendEntry s a v launch e plane) := by
  unfold State.sendEntry
  extract_lets +onlyGivenNames v80
  clear_value v80
  extract_lets +onlyGivenNames v79
  clear_value v79
  extract_lets +onlyGivenNames v78
  clear_value v78
  extract_lets +onlyGivenNames v77
  clear_value v77
  extract_lets +onlyGivenNames v76
  clear_value v76
  refine State.kept_ite (fun _ => ?_) (fun _ => ?_)
  · refine State.slotSend_kept (sub_of hF rfl) ?_
    with_reducible assumption
  · refine State.kept_ite (fun _ => ?_) (fun _ => ?_)
    · refine State.kept_foldl ?_ ?_
      · with_reducible assumption
      · intro s72 x71 h70
        refine State.slotSend_kept (sub_of hF rfl) ?_
        with_reducible assumption
    · extract_lets +onlyGivenNames v73
      clear_value v73
      extract_lets +onlyGivenNames v72
      clear_value v72
      refine State.kept_ite (fun _ => ?_) (fun _ => ?_)
      · with_reducible assumption
      · refine State.kept_foldl ?_ ?_
        · with_reducible assumption
        · intro s69 x68 h67
          refine State.slotSend_kept (sub_of hF rfl) ?_
          with_reducible assumption

theorem State.ownBlock_kept {qu : List Instr} {F : Nat} {o : State} {s : State} {a : Addr} {v : SlotView} {launch : Nat} (hF : 0x80001 ||| F = F) (hk : State.Kept qu F o s) : State.Kept qu F o (State.ownBlock s a v launch) := by
  unfold State.ownBlock
  extract_lets +onlyGivenNames v80
  clear_value v80
  extract_lets +onlyGivenNames v79
  clear_value v79
  extract_lets +onlyGivenNames v78
  clear_value v78
  extract_lets +onlyGivenNames v77
  have hv77 : State.Kept qu F o v77 := by
    unfold v77
    refine State.send_kept (sub_of hF rfl) ?_
    refine State.send_kept (sub_of hF rfl) ?_
    with_reducible assumption
  clear_value v77
  extract_lets +onlyGivenNames v76
  have hv76 : State.Kept qu F o v76 := by
    unfold v76
    refine State.send_kept (sub_of hF rfl) ?_
    with_reducible assumption
  clear_value v76
  refine State.onAgSlot_kept (sub_of hF rfl) ?_
  with_reducible assumption

theorem State.sweep_kept {qu : List Instr} {F : Nat} {o : State} {s : State} {a : Addr} {v : SlotView} {launch : Nat} (hF : 0x80001 ||| F = F) (hk : State.Kept qu F o s) : State.Kept qu F o (State.sweep s a v launch) := by
  unfold State.sweep
  extract_lets +onlyGivenNames v80
  have hv80 : State.Kept qu F o v80 := by
    unfold v80
    refine State.kept_foldl_range ?_ ?_
    · with_reducible assumption
    · intro s78 x77 x76 h75
      extract_lets +onlyGivenNames v74
      clear_value v74
      extract_lets +onlyGivenNames v73
      clear_value v73
      extract_lets +onlyGivenNames v72
      clear_value v72
      extract_lets +onlyGivenNames v71
      clear_value v71
      extract_lets +onlyGivenNames v70
      have hv70 : State.Kept qu F o v70 := by
        unfold v70
        refine State.noteLength_kept (sub_of hF rfl) ?_
        with_reducible assumption
      clear_value v70
      refine State.kept_foldl ?_ ?_
      · with_reducible assumption
      · intro s68 x67 h66
        refine State.slotSend_kept (sub_of hF rfl) ?_
        with_reducible assumption
  clear_value v80
  refine State.ownBlock_kept (sub_of hF rfl) ?_
  with_reducible assumption

theorem State.sendContrib_kept {qu : List Instr} {F : Nat} {o : State} {s : State} {a : Addr} {v : SlotView} {launch n : Nat} (hF : 0x80000 ||| F = F) (hk : State.Kept qu F o s) : State.Kept qu F o (State.sendContrib s a v launch n) := by
  unfold State.sendContrib
  extract_lets +onlyGivenNames v80
  clear_value v80
  extract_lets +onlyGivenNames v79
  clear_value v79
  extract_lets +onlyGivenNames v78
  clear_value v78
  extract_lets +onlyGivenNames v77
  clear_value v77
  extract_lets +onlyGivenNames v76
  clear_value v76
  extract_lets +onlyGivenNames v75
  clear_value v75
  split
  · with_reducible assumption
  · refine State.agentSend_kept (sub_of hF rfl) ?_
    with_reducible assumption

theorem State.tryEntry_kept {qu : List Instr} {F : Nat} {o : State} {s : State} {a : Addr} {v : SlotView} {e : Nat} (hF : 0x80001 ||| F = F) (hk : State.Kept qu F o s) : State.Kept qu F o (State.tryEntry s a v e).2 := by
  unfold State.tryEntry
  extract_lets +onlyGivenNames v80
  clear_value v80
  extract_lets +onlyGivenNames v79
  clear_value v79
  extract_lets +onlyGivenNames v78
  clear_value v78
  rw [apply_ite Prod.snd]
  refine State.kept_ite (fun _ => ?_) (fun _ => ?_)
  · dsimp only
    refine State.sweep_kept (sub_of hF rfl) ?_
    with_reducible assumption
  · rw [apply_ite Prod.snd]
    refine State.kept_ite (fun _ => ?_) (fun _ => ?_)
    · dsimp only
      refine State.onAgSlot_kept (sub_of hF rfl) ?_
      refine State.sendContrib_kept (sub_of hF rfl) ?_
      with_reducible assumption
    · extract_lets +onlyGivenNames v73
      clear_value v73
      extract_lets +onlyGivenNames v72
      clear_value v72
      extract_lets +onlyGivenNames v71
      have hv71 : State.Kept qu F o v71 := by
        unfold v71
        refine State.kept_ite (fun _ => ?_) (fun _ => ?_)
        · refine State.noteLength_kept (sub_of hF rfl) ?_
          with_reducible assumption
        · with_reducible assumption
      clear_value v71
      extract_lets +onlyGivenNames v70
      clear_value v70
      rw [apply_ite Prod.snd]
      refine State.kept_ite (fun _ => ?_) (fun _ => ?_)
      · dsimp only
        refine State.onAgSlot_kept (sub_of hF rfl) ?_
        refine State.sendEntry_kept (sub_of hF rfl) ?_
        with_reducible assumption
      · rw [apply_ite Prod.snd]
        refine State.kept_ite (fun _ => ?_) (fun _ => ?_)
        · dsimp only
          refine State.sendEntry_kept (sub_of hF rfl) ?_
          refine State.onAgSlot_kept (sub_of hF rfl) ?_
          with_reducible assumption
        · with_reducible assumption

theorem State.drainFired_kept {qu : List Instr} {F : Nat} {o : State}  {n : Nat} {a1 : Addr} {a2 : Nat} {s : State} (hF : 0x80001 ||| F = F) (hk : State.Kept qu F o s) : State.Kept qu F o (State.drainFired  n a1 a2 s) := by
  induction n generalizing a1 a2 s with
  | zero =>
    rw [State.drainFired]
    with_reducible assumption
  | succ n ih =>
    rw [State.drainFired]
    split
    · with_reducible assumption
    · refine State.kept_ite (fun _ => ?_) (fun _ => ?_)
      · with_reducible assumption
      · extract_lets +onlyGivenNames v78
        have hv78 : State.Kept qu F o v78.2 := by
          unfold v78
          refine State.tryEntry_kept (sub_of hF rfl) ?_
          with_reducible assumption
        clear_value v78
        refine State.kept_ite (fun _ => ?_) (fun _ => ?_)
        · apply ih
          refine State.onAgSlot_kept (sub_of hF rfl) ?_
          with_reducible assumption
        · with_reducible assumption

theorem State.fire_kept {qu : List Instr} {F : Nat} {o : State} {s : State} {a : Addr} {slot : Nat} (hF : 0x80001 ||| F = F) (hk : State.Kept qu F o s) : State.Kept qu F o (State.fire s a slot) := by
  unfold State.fire
  extract_lets +onlyGivenNames v80
  clear_value v80
  extract_lets +onlyGivenNames v79
  clear_value v79
  extract_lets +onlyGivenNames v78
  clear_value v78
  extract_lets +onlyGivenNames v77
  clear_value v77
  extract_lets +onlyGivenNames v76
  clear_value v76
  extract_lets +onlyGivenNames v75
  have hv75 : State.Kept qu F o v75 := by
    unfold v75
    refine State.onAgSlot_kept (sub_of hF rfl) ?_
    with_reducible assumption
  clear_value v75
  refine State.drainFired_kept (sub_of hF rfl) ?_
  with_reducible assumption

theorem State.completion_kept {qu : List Instr} {F : Nat} {o : State} {s : State} {a : Addr} {v : SlotView} {status launch : Nat} {overs : List (Nat × Nat)} (hF : 0x1 ||| F = F) (hk : State.Kept qu F o s) : State.Kept qu F o (State.completion s a v status launch overs) := by
  unfold State.completion
  extract_lets +onlyGivenNames v80
  clear_value v80
  extract_lets +onlyGivenNames v79
  clear_value v79
  extract_lets +onlyGivenNames v78
  clear_value v78
  refine State.send_kept (sub_of hF rfl) ?_
  with_reducible assumption

theorem State.blockDone_kept {qu : List Instr} {F : Nat} {o : State} {s : State} {a : Addr} {v : SlotView} {j len dropped : Nat} (hF : 0x80001 ||| F = F) (hk : State.Kept qu F o s) : State.Kept qu F o (State.blockDone s a v j len dropped) := by
  unfold State.blockDone
  extract_lets +onlyGivenNames v80
  have hv80 : State.Kept qu F o v80 := by
    unfold v80
    refine State.send_kept (sub_of hF rfl) ?_
    refine State.send_kept (sub_of hF rfl) ?_
    with_reducible assumption
  clear_value v80
  refine State.onAgSlot_kept (sub_of hF rfl) ?_
  with_reducible assumption

theorem State.noteBlock_kept {qu : List Instr} {F : Nat} {o : State} {s : State} {a : Addr} {v : SlotView} {x : PiecePrefix} (hF : 0x80001 ||| F = F) (hk : State.Kept qu F o s) : State.Kept qu F o (State.noteBlock s a v x) := by
  unfold State.noteBlock
  extract_lets +onlyGivenNames v80
  clear_value v80
  refine State.kept_ite (fun _ => ?_) (fun _ => ?_)
  · with_reducible assumption
  · extract_lets +onlyGivenNames v78
    clear_value v78
    extract_lets +onlyGivenNames v77
    clear_value v77
    extract_lets +onlyGivenNames v76
    have hv76 : State.Kept qu F o v76 := by
      unfold v76
      refine State.onAgSlot_kept (sub_of hF rfl) ?_
      with_reducible assumption
    clear_value v76
    refine State.kept_ite (fun _ => ?_) (fun _ => ?_)
    · refine State.blockDone_kept (sub_of hF rfl) ?_
      with_reducible assumption
    · with_reducible assumption

theorem State.startLaunch_kept {qu : List Instr} {F : Nat} {o : State} {s : State} {a : Addr} {slot counter : Nat} (hF : 0x80001 ||| F = F) (hk : State.Kept qu F o s) : State.Kept qu F o (State.startLaunch s a slot counter) := by
  unfold State.startLaunch
  extract_lets +onlyGivenNames v80
  have hv80 : State.Kept qu F o v80 := by
    unfold v80
    refine State.onAgSlot_kept (sub_of hF rfl) ?_
    with_reducible assumption
  clear_value v80
  extract_lets +onlyGivenNames v79
  clear_value v79
  extract_lets +onlyGivenNames v78
  clear_value v78
  extract_lets +onlyGivenNames v77
  have hv77 : State.Kept qu F o v77 := by
    unfold v77
    refine State.kept_ite (fun _ => ?_) (fun _ => ?_)
    · refine State.ownBlock_kept (sub_of hF rfl) ?_
      with_reducible assumption
    · with_reducible assumption
  clear_value v77
  extract_lets +onlyGivenNames v76
  have hv76 : State.Kept qu F o v76 := by
    unfold v76
    refine State.kept_foldl ?_ ?_
    · with_reducible assumption
    · intro s74 x73 h72
      refine State.noteBlock_kept (sub_of hF rfl) ?_
      with_reducible assumption
  clear_value v76
  refine State.fire_kept (sub_of hF rfl) ?_
  refine State.onAgSlot_kept (sub_of hF rfl) ?_
  with_reducible assumption

theorem State.startQueued_kept {qu : List Instr} {F : Nat} {o : State} {s : State} {a : Addr} {slot : Nat} (hF : 0x80001 ||| F = F) (hk : State.Kept qu F o s) : State.Kept qu F o (State.startQueued s a slot) := by
  unfold State.startQueued
  extract_lets +onlyGivenNames v80
  clear_value v80
  extract_lets +onlyGivenNames v79
  clear_value v79
  refine State.kept_ite (fun _ => ?_) (fun _ => ?_)
  · refine State.startLaunch_kept (sub_of hF rfl) ?_
    refine State.send_kept (sub_of hF rfl) ?_
    refine State.onAgSlot_kept (sub_of hF rfl) ?_
    with_reducible assumption
  · with_reducible assumption

theorem State.tryComplete_kept {qu : List Instr} {F : Nat} {o : State} {s : State} {a : Addr} {slot : Nat} (hF : 0x80001 ||| F = F) (hk : State.Kept qu F o s) : State.Kept qu F o (State.tryComplete s a slot) := by
  unfold State.tryComplete
  extract_lets +onlyGivenNames v80
  clear_value v80
  extract_lets +onlyGivenNames v79
  clear_value v79
  extract_lets +onlyGivenNames v78
  clear_value v78
  refine State.kept_ite (fun _ => ?_) (fun _ => ?_)
  · extract_lets +onlyGivenNames v76
    have hv76 : State.Kept qu F o v76 := by
      unfold v76
      refine State.completion_kept (sub_of hF rfl) ?_
      with_reducible assumption
    clear_value v76
    refine State.startQueued_kept (sub_of hF rfl) ?_
    refine State.onAgSlot_kept (sub_of hF rfl) ?_
    with_reducible assumption
  · with_reducible assumption

theorem State.freezeSlot_kept {qu : List Instr} {F : Nat} {o : State} {s : State} {a : Addr} {slot : Nat} (hF : 0x80000 ||| F = F) (hk : State.Kept qu F o s) : State.Kept qu F o (State.freezeSlot s a slot) := by
  unfold State.freezeSlot
  refine State.onAgSlot_kept (sub_of hF rfl) ?_
  with_reducible assumption

theorem State.thawSlot_kept {qu : List Instr} {F : Nat} {o : State} {s : State} {a : Addr} {slot : Nat} (hF : 0x80001 ||| F = F) (hk : State.Kept qu F o s) : State.Kept qu F o (State.thawSlot s a slot) := by
  unfold State.thawSlot
  extract_lets +onlyGivenNames v80
  clear_value v80
  refine State.kept_ite (fun _ => ?_) (fun _ => ?_)
  · with_reducible assumption
  · extract_lets +onlyGivenNames v78
    have hv78 : State.Kept qu F o v78 := by
      unfold v78
      refine State.onAgSlot_kept (sub_of hF rfl) ?_
      with_reducible assumption
    clear_value v78
    refine State.startQueued_kept (sub_of hF rfl) ?_
    refine State.tryComplete_kept (sub_of hF rfl) ?_
    refine State.drainFired_kept (sub_of hF rfl) ?_
    refine State.agPumpAll_kept (sub_of hF rfl) ?_
    with_reducible assumption

theorem State.abortSlot_kept {qu : List Instr} {F : Nat} {o : State} {s : State} {a : Addr} {slot n cause : Nat} (hF : 0x80001 ||| F = F) (hk : State.Kept qu F o s) : State.Kept qu F o (State.abortSlot s a slot n cause) := by
  unfold State.abortSlot
  extract_lets +onlyGivenNames v80
  clear_value v80
  extract_lets +onlyGivenNames v79
  clear_value v79
  extract_lets +onlyGivenNames v78
  clear_value v78
  extract_lets +onlyGivenNames v77
  clear_value v77
  extract_lets +onlyGivenNames v76
  clear_value v76
  extract_lets +onlyGivenNames v75
  have hv75 : State.Kept qu F o v75 := by
    unfold v75
    refine State.kept_foldl_range ?_ ?_
    · with_reducible assumption
    · intro s73 x72 x71 h70
      extract_lets +onlyGivenNames v69
      clear_value v69
      refine State.completion_kept (sub_of hF rfl) ?_
      with_reducible assumption
  clear_value v75
  extract_lets +onlyGivenNames v74
  have hv74 : State.Kept qu F o v74 := by
    unfold v74
    refine State.agDrop_kept (sub_of hF rfl) ?_
    with_reducible assumption
  clear_value v74
  extract_lets +onlyGivenNames v73
  clear_value v73
  extract_lets +onlyGivenNames v72
  have hv72 : State.Kept qu F o v72 := by
    unfold v72
    refine State.kept_ite (fun _ => ?_) (fun _ => ?_)
    · refine State.send_kept (sub_of hF rfl) ?_
      with_reducible assumption
    · with_reducible assumption
  clear_value v72
  extract_lets +onlyGivenNames v71
  clear_value v71
  extract_lets +onlyGivenNames v70
  clear_value v70
  refine State.onAgSlot_kept (sub_of hF rfl) ?_
  with_reducible assumption

theorem State.replayAgSlot_kept {qu : List Instr} {F : Nat} {o : State} {s : State} {a : Addr} {slot : Nat} (hF : 0x80001 ||| F = F) (hk : State.Kept qu F o s) : State.Kept qu F o (State.replayAgSlot s a slot) := by
  unfold State.replayAgSlot
  extract_lets +onlyGivenNames v80
  clear_value v80
  extract_lets +onlyGivenNames v79
  clear_value v79
  extract_lets +onlyGivenNames v78
  clear_value v78
  split
  · with_reducible assumption
  · extract_lets +onlyGivenNames v76
    clear_value v76
    extract_lets +onlyGivenNames v75
    clear_value v75
    refine State.kept_ite (fun _ => ?_) (fun _ => ?_)
    · with_reducible assumption
    · extract_lets +onlyGivenNames v73
      have hv73 : State.Kept qu F o v73 := by
        unfold v73
        refine State.agDrop_kept (sub_of hF rfl) ?_
        with_reducible assumption
      clear_value v73
      extract_lets +onlyGivenNames v72
      clear_value v72
      extract_lets +onlyGivenNames v71
      have hv71 : State.Kept qu F o v71 := by
        unfold v71
        refine State.onAgSlot_kept (sub_of hF rfl) ?_
        with_reducible assumption
      clear_value v71
      refine State.drainFired_kept (sub_of hF rfl) ?_
      with_reducible assumption

theorem State.slotCredit_kept {qu : List Instr} {F : Nat} {o : State} {s : State} {a : Addr} {slot plane launch piece : Nat} (hF : 0x80001 ||| F = F) (hk : State.Kept qu F o s) : State.Kept qu F o (State.slotCredit s a slot plane launch piece) := by
  unfold State.slotCredit
  extract_lets +onlyGivenNames v80
  have hv80 : State.Kept qu F o v80 := by
    unfold v80
    refine State.onAgSlot_kept (sub_of hF rfl) ?_
    with_reducible assumption
  clear_value v80
  refine State.tryComplete_kept (sub_of hF rfl) ?_
  refine State.drainFired_kept (sub_of hF rfl) ?_
  with_reducible assumption

theorem State.takeResult_kept {qu : List Instr} {F : Nat} {o : State} {s : State} {a : Addr} {v : SlotView} {x : PiecePrefix} {data : List Word} (hF : 0x80001 ||| F = F) (hk : State.Kept qu F o s) : State.Kept qu F o (State.takeResult s a v x data) := by
  unfold State.takeResult
  extract_lets +onlyGivenNames v80
  clear_value v80
  extract_lets +onlyGivenNames v79
  clear_value v79
  refine State.kept_ite (fun _ => ?_) (fun _ => ?_)
  · with_reducible assumption
  · extract_lets +onlyGivenNames v77
    clear_value v77
    extract_lets +onlyGivenNames v76
    clear_value v76
    extract_lets +onlyGivenNames v75
    have hv75 : State.Kept qu F o v75 := by
      unfold v75
      refine State.send_kept (sub_of hF rfl) ?_
      with_reducible assumption
    clear_value v75
    refine State.tryComplete_kept (sub_of hF rfl) ?_
    refine State.onAgSlot_kept (sub_of hF rfl) ?_
    with_reducible assumption

theorem State.takeBlock_kept {qu : List Instr} {F : Nat} {o : State} {s : State} {a : Addr} {v : SlotView} {x : PiecePrefix} {data : List Word} (hF : 0x80001 ||| F = F) (hk : State.Kept qu F o s) : State.Kept qu F o (State.takeBlock s a v x data) := by
  unfold State.takeBlock
  extract_lets +onlyGivenNames v80
  clear_value v80
  extract_lets +onlyGivenNames v79
  clear_value v79
  extract_lets +onlyGivenNames v78
  clear_value v78
  extract_lets +onlyGivenNames v77
  clear_value v77
  refine State.kept_ite (fun _ => ?_) (fun _ => ?_)
  · with_reducible assumption
  · extract_lets +onlyGivenNames v75
    have hv75 : State.Kept qu F o v75 := by
      unfold v75
      refine State.kept_ite (fun _ => ?_) (fun _ => ?_)
      · with_reducible assumption
      · refine State.send_kept (sub_of hF rfl) ?_
        with_reducible assumption
    clear_value v75
    refine State.kept_ite (fun _ => ?_) (fun _ => ?_)
    · refine State.tryComplete_kept (sub_of hF rfl) ?_
      refine State.noteBlock_kept (sub_of hF rfl) ?_
      with_reducible assumption
    · refine State.onAgSlot_kept (sub_of hF rfl) ?_
      with_reducible assumption

theorem State.takeBarrier_kept {qu : List Instr} {F : Nat} {o : State} {s : State} {a : Addr} {v : SlotView} {plane : Nat} (hF : 0x80001 ||| F = F) (hk : State.Kept qu F o s) : State.Kept qu F o (State.takeBarrier s a v plane) := by
  unfold State.takeBarrier
  extract_lets +onlyGivenNames v80
  clear_value v80
  refine State.kept_ite (fun _ => ?_) (fun _ => ?_)
  · with_reducible assumption
  · refine State.slotCredit_kept (sub_of hF rfl) ?_
    refine State.onAgSlot_kept (sub_of hF rfl) ?_
    with_reducible assumption

theorem State.takeLantern_kept {qu : List Instr} {F : Nat} {o : State} {s : State} {a : Addr} {v : SlotView} {x : LntPrefix} {data : List Word} (hF : 0x80001 ||| F = F) (hk : State.Kept qu F o s) : State.Kept qu F o (State.takeLantern s a v x data) := by
  unfold State.takeLantern
  extract_lets +onlyGivenNames v80
  clear_value v80
  refine State.kept_ite (fun _ => ?_) (fun _ => ?_)
  · with_reducible assumption
  · extract_lets +onlyGivenNames v78
    have hv78 : State.Kept qu F o v78 := by
      unfold v78
      refine State.send_kept (sub_of hF rfl) ?_
      with_reducible assumption
    clear_value v78
    extract_lets +onlyGivenNames v77
    have hv77 : State.Kept qu F o v77 := by
      unfold v77
      refine State.kept_ite (fun _ => ?_) (fun _ => ?_)
      · refine State.send_kept (sub_of hF rfl) ?_
        with_reducible assumption
      · refine State.kept_ite (fun _ => ?_) (fun _ => ?_)
        · refine State.kept_foldl_range ?_ ?_
          · with_reducible assumption
          · intro s73 x72 x71 h70
            extract_lets +onlyGivenNames v69
            clear_value v69
            refine State.blockDone_kept (sub_of hF rfl) ?_
            with_reducible assumption
        · with_reducible assumption
    clear_value v77
    refine State.tryComplete_kept (sub_of hF rfl) ?_
    refine State.onAgSlot_kept (sub_of hF rfl) ?_
    with_reducible assumption

end Sys2Proof.Machine
end

