-- ==== Sys2Proof/Laws/KeptSwitch.lean ====
section
/-! SUPPORT. Laws/KeptSwitch.lean: each operation of Machine/Switch.lean keeps the queue and the invariant. -/
namespace Sys2Proof.Machine

theorem State.agDiscard_kept {qu : List Instr} {F : Nat} {o : State} {s : State} {a : Addr} {port : Nat} {h : Hdr} {why : Discard} (hF : 0x80001 ||| F = F) (hk : State.Kept qu F o s) : State.Kept qu F o (State.agDiscard s a port h why) := by
  unfold State.agDiscard
  refine State.onAgent_kept (sub_of hF rfl) ?_
  refine State.agReturn_kept (sub_of hF rfl) ?_
  with_reducible assumption

theorem State.forwardEn_kept {qu : List Instr} {F : Nat} {o : State} {s : State} {a : Addr} {port : Nat} {p : Packet} (hF : 0x80001 ||| F = F) (hk : State.Kept qu F o s) : State.Kept qu F o (State.forwardEn s a port p) := by
  unfold State.forwardEn
  extract_lets +onlyGivenNames v80
  clear_value v80
  refine State.kept_ite (fun _ => ?_) (fun _ => ?_)
  · refine State.agDiscard_kept (sub_of hF rfl) ?_
    with_reducible assumption
  · refine State.kept_ite (fun _ => ?_) (fun _ => ?_)
    · refine State.agDiscard_kept (sub_of hF rfl) ?_
      with_reducible assumption
    · refine State.agQueue_kept (sub_of hF rfl) ?_
      with_reducible assumption

theorem State.switchSelf_kept {qu : List Instr} {F : Nat} {o : State} {s : State} {a : Addr} {port : Nat} {p : Packet} {fault : Nat} (hF : 0x80003 ||| F = F) (hk : State.Kept qu F o s) : State.Kept qu F o (State.switchSelf s a port p fault) := by
  unfold State.switchSelf
  extract_lets +onlyGivenNames v80
  clear_value v80
  extract_lets +onlyGivenNames v79
  have hv79 : State.Kept qu F o v79 := by
    unfold v79
    refine State.kept_ite (fun _ => ?_) (fun _ => ?_)
    · with_reducible assumption
    · refine State.agReturn_kept (sub_of hF rfl) ?_
      with_reducible assumption
  clear_value v79
  refine State.kept_ite (fun _ => ?_) (fun _ => ?_)
  · refine State.swAckIn_kept (sub_of hF rfl) ?_
    with_reducible assumption
  · refine State.kept_ite (fun _ => ?_) (fun _ => ?_)
    · refine State.agTimeReply_kept (sub_of hF rfl) ?_
      with_reducible assumption
    · refine State.kept_ite (fun _ => ?_) (fun _ => ?_)
      · split
        · refine State.swTake_kept (sub_of hF rfl) ?_
          with_reducible assumption
        · refine State.agStale_kept (sub_of hF rfl) ?_
          with_reducible assumption
      · with_reducible assumption

theorem State.replicate_kept {qu : List Instr} {F : Nat} {o : State} {s : State} {a : Addr} {port : Nat} {p : Packet} (hF : 0x80001 ||| F = F) (hk : State.Kept qu F o s) : State.Kept qu F o (State.replicate s a port p) := by
  unfold State.replicate
  extract_lets +onlyGivenNames v80
  clear_value v80
  refine State.kept_ite (fun _ => ?_) (fun _ => ?_)
  · refine State.agReturn_kept (sub_of hF rfl) ?_
    with_reducible assumption
  · refine State.kept_foldl ?_ ?_
    · with_reducible assumption
    · intro s77 x76 h75
      refine State.agQueue_kept (sub_of hF rfl) ?_
      with_reducible assumption

theorem State.forwardCoord_kept {qu : List Instr} {F : Nat} {o : State} {s : State} {a : Addr} {port : Nat} {p : Packet} {fault : Nat} (hF : 0x80003 ||| F = F) (hk : State.Kept qu F o s) : State.Kept qu F o (State.forwardCoord s a port p fault) := by
  unfold State.forwardCoord
  split
  · refine State.agDiscard_kept (sub_of hF rfl) ?_
    with_reducible assumption
  · refine State.agQueue_kept (sub_of hF rfl) ?_
    with_reducible assumption
  · refine State.switchSelf_kept (sub_of hF rfl) ?_
    with_reducible assumption
  · refine State.replicate_kept (sub_of hF rfl) ?_
    with_reducible assumption

theorem State.switchEn_kept {qu : List Instr} {F : Nat} {o : State} {s : State} {a : Addr} {port : Nat} {p : Packet} {fault : Nat} (hF : 0x80001 ||| F = F) (hk : State.Kept qu F o s) : State.Kept qu F o (State.switchEn s a port p fault) := by
  unfold State.switchEn
  extract_lets +onlyGivenNames v80
  clear_value v80
  refine State.kept_ite (fun _ => ?_) (fun _ => ?_)
  · refine State.swAckIn_kept (sub_of hF rfl) ?_
    refine State.agReturn_kept (sub_of hF rfl) ?_
    with_reducible assumption
  · split
    · refine State.swTake_kept (sub_of hF rfl) ?_
      refine State.agReturn_kept (sub_of hF rfl) ?_
      with_reducible assumption
    · refine State.forwardEn_kept (sub_of hF rfl) ?_
      with_reducible assumption

theorem execSwitchPacketIngress_kept {qu : List Instr} {F : Nat} {o : State} {agent : Addr} {port : Nat} {p : Packet} {fault : Nat} {s : State} (hF : 0x1000080003 ||| F = F) (hk : State.Kept qu F o s) : Runs qu F o (execSwitchPacketIngress agent port p fault s) := by
  unfold execSwitchPacketIngress
  extract_lets +onlyGivenNames v80
  clear_value v80
  extract_lets +onlyGivenNames v79
  clear_value v79
  refine runs_next ?_
  refine State.kept_ite (fun _ => ?_) (fun _ => ?_)
  · refine State.agReturn_kept (sub_of hF rfl) ?_
    with_reducible assumption
  · refine State.kept_ite (fun _ => ?_) (fun _ => ?_)
    · refine State.agMalformed_kept (sub_of hF rfl) ?_
      refine State.agReturn_kept (sub_of hF rfl) ?_
      with_reducible assumption
    · refine State.kept_ite (fun _ => ?_) (fun _ => ?_)
      · refine State.agDiscard_kept (sub_of hF rfl) ?_
        with_reducible assumption
      · refine State.kept_ite (fun _ => ?_) (fun _ => ?_)
        · refine State.agDiscard_kept (sub_of hF rfl) ?_
          with_reducible assumption
        · refine State.kept_ite (fun _ => ?_) (fun _ => ?_)
          · refine State.countReg_kept (bit_of hF rfl) ?_
            refine State.agReturn_kept (sub_of hF rfl) ?_
            with_reducible assumption
          · refine State.kept_ite (fun _ => ?_) (fun _ => ?_)
            · refine State.forwardCoord_kept (sub_of hF rfl) ?_
              with_reducible assumption
            · refine State.switchEn_kept (sub_of hF rfl) ?_
              with_reducible assumption

end Sys2Proof.Machine
end

