-- ==== Sys2Proof/Laws/KeptEndpoint.lean ====
section
/-! SUPPORT. Laws/KeptEndpoint.lean: each operation of Machine/Endpoint.lean keeps the queue and the invariant. -/
namespace Sys2Proof.Machine

theorem State.endpointAck_kept {qu : List Instr} {F : Nat} {o : State} {s : State} {a : Addr} {port : Nat} {h : Hdr} {payload : List Word} (hF : 0x80001 ||| F = F) (hk : State.Kept qu F o s) : State.Kept qu F o (State.endpointAck s a port h payload) := by
  unfold State.endpointAck
  extract_lets +onlyGivenNames v80
  clear_value v80
  extract_lets +onlyGivenNames v79
  clear_value v79
  extract_lets +onlyGivenNames v78
  clear_value v78
  extract_lets +onlyGivenNames v77
  have hv77 : State.Kept qu F o v77 := by
    unfold v77
    refine State.kept_ite (fun _ => ?_) (fun _ => ?_)
    · refine State.agAckIn_kept (sub_of hF rfl) ?_
      with_reducible assumption
    · refine State.kept_ite (fun _ => ?_) (fun _ => ?_)
      · refine State.agAckIn_kept (sub_of hF rfl) ?_
        with_reducible assumption
      · refine State.agStale_kept (sub_of hF rfl) ?_
        with_reducible assumption
  clear_value v77
  refine State.kept_foldl ?_ ?_
  · with_reducible assumption
  · intro s75 x74 h73
    refine State.tryComplete_kept (sub_of hF rfl) ?_
    with_reducible assumption

theorem State.endpointColl_kept {qu : List Instr} {F : Nat} {o : State} {s : State} {a : Addr} {port : Nat} {p : Packet} (hF : 0x80001 ||| F = F) (hk : State.Kept qu F o s) : State.Kept qu F o (State.endpointColl s a port p) := by
  unfold State.endpointColl
  extract_lets +onlyGivenNames v80
  clear_value v80
  extract_lets +onlyGivenNames v79
  clear_value v79
  extract_lets +onlyGivenNames v78
  clear_value v78
  extract_lets +onlyGivenNames v77
  clear_value v77
  refine State.kept_ite (fun _ => ?_) (fun _ => ?_)
  · refine State.agStale_kept (sub_of hF rfl) ?_
    with_reducible assumption
  · refine State.kept_ite (fun _ => ?_) (fun _ => ?_)
    · refine State.agMalformed_kept (sub_of hF rfl) ?_
      with_reducible assumption
    · extract_lets +onlyGivenNames v74
      have hv74 : State.Kept qu F o v74.2 := by
        unfold v74
        refine State.agTake_kept (sub_of hF rfl) ?_
        with_reducible assumption
      clear_value v74
      refine State.kept_ite (fun _ => ?_) (fun _ => ?_)
      · with_reducible assumption
      · refine State.kept_ite (fun _ => ?_) (fun _ => ?_)
        · refine State.takeBarrier_kept (sub_of hF rfl) ?_
          with_reducible assumption
        · refine State.kept_ite (fun _ => ?_) (fun _ => ?_)
          · refine State.kept_ite (fun _ => ?_) (fun _ => ?_)
            · refine State.slotCredit_kept (sub_of hF rfl) ?_
              with_reducible assumption
            · refine State.takeResult_kept (sub_of hF rfl) ?_
              with_reducible assumption
          · refine State.takeBlock_kept (sub_of hF rfl) ?_
            with_reducible assumption

theorem State.endpointLantern_kept {qu : List Instr} {F : Nat} {o : State} {s : State} {a : Addr} {p : Packet} (hF : 0x80001 ||| F = F) (hk : State.Kept qu F o s) : State.Kept qu F o (State.endpointLantern s a p) := by
  unfold State.endpointLantern
  extract_lets +onlyGivenNames v80
  clear_value v80
  extract_lets +onlyGivenNames v79
  clear_value v79
  extract_lets +onlyGivenNames v78
  clear_value v78
  extract_lets +onlyGivenNames v77
  clear_value v77
  refine State.kept_ite (fun _ => ?_) (fun _ => ?_)
  · refine State.agMalformed_kept (sub_of hF rfl) ?_
    with_reducible assumption
  · split
    · refine State.takeLantern_kept (sub_of hF rfl) ?_
      with_reducible assumption
    · refine State.agStale_kept (sub_of hF rfl) ?_
      with_reducible assumption

theorem State.endpointBulk_kept {qu : List Instr} {F : Nat} {o : State} {s : State} {a : Addr} {port : Nat} {p : Packet} (hF : 0x80001 ||| F = F) (hk : State.Kept qu F o s) : State.Kept qu F o (State.endpointBulk s a port p) := by
  unfold State.endpointBulk
  extract_lets +onlyGivenNames v80
  have hv80 : State.Kept qu F o v80.2 := by
    unfold v80
    refine State.agTake_kept (sub_of hF rfl) ?_
    with_reducible assumption
  clear_value v80
  refine State.kept_ite (fun _ => ?_) (fun _ => ?_)
  · refine State.send_kept (sub_of hF rfl) ?_
    with_reducible assumption
  · with_reducible assumption

theorem execEndpointPacketArrival_kept {qu : List Instr} {F : Nat} {o : State} {agent : Addr} {port : Nat} {p : Packet} {s : State} (hF : 0x80003 ||| F = F) (hk : State.Kept qu F o s) : Runs qu F o (execEndpointPacketArrival agent port p s) := by
  unfold execEndpointPacketArrival
  extract_lets +onlyGivenNames v80
  clear_value v80
  extract_lets +onlyGivenNames v79
  clear_value v79
  extract_lets +onlyGivenNames v78
  clear_value v78
  extract_lets +onlyGivenNames v77
  have hv77 : State.Kept qu F o v77 := by
    unfold v77
    refine State.kept_ite (fun _ => ?_) (fun _ => ?_)
    · with_reducible assumption
    · refine State.agReturn_kept (sub_of hF rfl) ?_
      with_reducible assumption
  clear_value v77
  refine runs_next ?_
  refine State.kept_ite (fun _ => ?_) (fun _ => ?_)
  · with_reducible assumption
  · refine State.kept_ite (fun _ => ?_) (fun _ => ?_)
    · refine State.agMalformed_kept (sub_of hF rfl) ?_
      with_reducible assumption
    · refine State.kept_ite (fun _ => ?_) (fun _ => ?_)
      · refine State.onAgent_kept (sub_of hF rfl) ?_
        with_reducible assumption
      · refine State.kept_ite (fun _ => ?_) (fun _ => ?_)
        · refine State.agStale_kept (sub_of hF rfl) ?_
          with_reducible assumption
        · refine State.kept_ite (fun _ => ?_) (fun _ => ?_)
          · with_reducible assumption
          · refine State.kept_ite (fun _ => ?_) (fun _ => ?_)
            · refine State.agTimeReply_kept (sub_of hF rfl) ?_
              with_reducible assumption
            · refine State.kept_ite (fun _ => ?_) (fun _ => ?_)
              · refine State.endpointAck_kept (sub_of hF rfl) ?_
                with_reducible assumption
              · refine State.kept_ite (fun _ => ?_) (fun _ => ?_)
                · refine State.endpointBulk_kept (sub_of hF rfl) ?_
                  with_reducible assumption
                · refine State.kept_ite (fun _ => ?_) (fun _ => ?_)
                  · refine State.endpointColl_kept (sub_of hF rfl) ?_
                    with_reducible assumption
                  · refine State.kept_ite (fun _ => ?_) (fun _ => ?_)
                    · refine State.endpointLantern_kept (sub_of hF rfl) ?_
                      with_reducible assumption
                    · refine State.agMalformed_kept (sub_of hF rfl) ?_
                      with_reducible assumption

theorem execAgentLaunch_kept {qu : List Instr} {F : Nat} {o : State} {agent : Addr} {slot : Nat} {s : State} (hF : 0x80003 ||| F = F) (hk : State.Kept qu F o s) : Runs qu F o (execAgentLaunch agent slot s) := by
  unfold execAgentLaunch
  extract_lets +onlyGivenNames v80
  clear_value v80
  extract_lets +onlyGivenNames v79
  clear_value v79
  extract_lets +onlyGivenNames v78
  clear_value v78
  refine runs_next ?_
  refine State.kept_ite (fun _ => ?_) (fun _ => ?_)
  · extract_lets +onlyGivenNames v75
    have hv75 : State.Kept qu F o v75.2 := by
      unfold v75
      refine State.fresh_kept (sub_of hF rfl) ?_
      with_reducible assumption
    clear_value v75
    refine State.completion_kept (sub_of hF rfl) ?_
    with_reducible assumption
  · refine State.kept_ite (fun _ => ?_) (fun _ => ?_)
    · with_reducible assumption
    · refine State.kept_ite (fun _ => ?_) (fun _ => ?_)
      · refine State.send_kept (sub_of hF rfl) ?_
        refine State.onAgSlot_kept (sub_of hF rfl) ?_
        with_reducible assumption
      · refine State.tryComplete_kept (sub_of hF rfl) ?_
        refine State.startLaunch_kept (sub_of hF rfl) ?_
        with_reducible assumption

theorem execAgentTileDone_kept {qu : List Instr} {F : Nat} {o : State} {agent : Addr} {slot : Nat} {s : State} (hF : 0x80001 ||| F = F) (hk : State.Kept qu F o s) : Runs qu F o (execAgentTileDone agent slot s) := by
  unfold execAgentTileDone
  extract_lets +onlyGivenNames v80
  clear_value v80
  extract_lets +onlyGivenNames v79
  clear_value v79
  extract_lets +onlyGivenNames v78
  clear_value v78
  refine runs_next ?_
  refine State.kept_ite (fun _ => ?_) (fun _ => ?_)
  · refine State.onAgSlot_kept (sub_of hF rfl) ?_
    with_reducible assumption
  · refine State.kept_ite (fun _ => ?_) (fun _ => ?_)
    · refine State.tryComplete_kept (sub_of hF rfl) ?_
      refine State.fire_kept (sub_of hF rfl) ?_
      refine State.onAgSlot_kept (sub_of hF rfl) ?_
      with_reducible assumption
    · with_reducible assumption

theorem execAgentLanternDeadline_kept {qu : List Instr} {F : Nat} {o : State} {agent : Addr} {slot : Nat} {s : State} (hF : 0x80001 ||| F = F) (hk : State.Kept qu F o s) : Runs qu F o (execAgentLanternDeadline agent slot s) := by
  unfold execAgentLanternDeadline
  extract_lets +onlyGivenNames v80
  clear_value v80
  extract_lets +onlyGivenNames v79
  clear_value v79
  extract_lets +onlyGivenNames v78
  clear_value v78
  refine runs_next ?_
  split
  · with_reducible assumption
  · refine State.kept_ite (fun _ => ?_) (fun _ => ?_)
    · with_reducible assumption
    · refine State.kept_ite (fun _ => ?_) (fun _ => ?_)
      · refine State.startQueued_kept (sub_of hF rfl) ?_
        refine State.onAgSlot_kept (sub_of hF rfl) ?_
        refine State.completion_kept (sub_of hF rfl) ?_
        with_reducible assumption
      · refine State.onAgSlot_kept (sub_of hF rfl) ?_
        refine State.sendContrib_kept (sub_of hF rfl) ?_
        with_reducible assumption

end Sys2Proof.Machine
end

