-- ==== Sys2Proof/Laws/KeptMoorDown.lean ====
section
/-! SUPPORT. Laws/KeptMoorDown.lean: each operation of Machine/MoorDown.lean keeps the queue and the invariant. -/
namespace Sys2Proof.Machine

theorem State.selfStale_kept {qu : List Instr} {F : Nat} {o : State} {s : State} (hF : 0x400000000009 ||| F = F) (hk : State.Kept qu F o s) : State.Kept qu F o (State.selfStale s) := by
  unfold State.selfStale
  extract_lets +onlyGivenNames v80
  clear_value v80
  extract_lets +onlyGivenNames v79
  have hv79 : State.Kept qu F o v79 := by
    unfold v79
    refine State.setF_kept (bit_of hF rfl) ?_
    refine State.setF_kept (bit_of hF rfl) ?_
    refine State.setF_kept (bit_of hF rfl) ?_
    with_reducible assumption
  clear_value v79
  refine State.raiseIf_kept (sub_of hF rfl) (bit_of hF rfl) ?_
  with_reducible assumption

theorem State.partnerStale_kept {qu : List Instr} {F : Nat} {o : State} {s : State} (hF : 0x400000002009 ||| F = F) (hk : State.Kept qu F o s) : State.Kept qu F o (State.partnerStale s) := by
  unfold State.partnerStale
  extract_lets +onlyGivenNames v80
  clear_value v80
  extract_lets +onlyGivenNames v79
  clear_value v79
  extract_lets +onlyGivenNames v78
  have hv78 : State.Kept qu F o v78 := by
    unfold v78
    refine State.setF_kept (bit_of hF rfl) ?_
    refine State.setF_kept (bit_of hF rfl) ?_
    with_reducible assumption
  clear_value v78
  extract_lets +onlyGivenNames v77
  extract_lets +onlyGivenNames v76
  extract_lets +onlyGivenNames v75
  have hv75 : State.Kept qu F o v75 := by
    unfold v75
    refine State.kept_with ?_ (by constructor <;> first | exact fun _ => rfl | exact fun _ _ => rfl | exact fun h => absurd (h.symm.trans (bit_of hF rfl)) Bool.false_ne_true) rfl rfl rfl
    with_reducible assumption
  clear_value v75
  refine State.raiseIf_kept (sub_of hF rfl) (bit_of hF rfl) ?_
  refine State.setF_kept (bit_of hF rfl) ?_
  with_reducible assumption

theorem State.mooringDegraded_kept {qu : List Instr} {F : Nat} {o : State} {s : State} {reason : Nat} (hF : 0x1000000024009 ||| F = F) (hk : State.Kept qu F o s) : State.Kept qu F o (State.mooringDegraded s reason) := by
  unfold State.mooringDegraded
  refine State.logOwn_kept (sub_of hF rfl) ?_
  with_reducible assumption

theorem State.mooringDown_kept {qu : List Instr} {F : Nat} {o : State} {s : State} {reason : Nat} (hF : 0x1400000026009 ||| F = F) (hk : State.Kept qu F o s) : State.Kept qu F o (State.mooringDown s reason) := by
  unfold State.mooringDown
  refine State.kept_ite (fun _ => ?_) (fun _ => ?_)
  · with_reducible assumption
  · extract_lets +onlyGivenNames v79
    have hv79 : State.Kept qu F o v79 := by
      unfold v79
      refine State.raise_kept (sub_of hF rfl) (bit_of hF rfl) ?_
      refine State.setF_kept (bit_of hF rfl) ?_
      with_reducible assumption
    clear_value v79
    extract_lets +onlyGivenNames v78
    have hv78 : State.Kept qu F o v78 := by
      unfold v78
      refine State.mooringDegraded_kept (sub_of hF rfl) ?_
      with_reducible assumption
    clear_value v78
    refine State.kept_ite (fun _ => ?_) (fun _ => ?_)
    · refine State.partnerStale_kept (sub_of hF rfl) ?_
      with_reducible assumption
    · refine State.selfStale_kept (sub_of hF rfl) ?_
      with_reducible assumption

end Sys2Proof.Machine
end

