-- ==== Sys2Proof/Laws/KeptRecoverOps.lean ====
section
/-! SUPPORT. Laws/KeptRecoverOps.lean: each operation of Machine/RecoverOps.lean keeps the queue and the invariant. -/
namespace Sys2Proof.Machine

theorem State.losePlane_kept {qu : List Instr} {F : Nat} {o : State} {s : State} {ctx plane : Nat} (hF : 0x10000000449 ||| F = F) (hk : State.Kept qu F o s) : State.Kept qu F o (State.losePlane s ctx plane) := by
  unfold State.losePlane
  split
  · with_reducible assumption
  · refine State.kept_ite (fun _ => ?_) (fun _ => ?_)
    · with_reducible assumption
    · extract_lets +onlyGivenNames v78
      have hv78 : State.Kept qu F o v78 := by
        unfold v78
        refine State.raise_kept (sub_of hF rfl) (bit_of hF rfl) ?_
        refine State.onPlan_kept (sub_of hF rfl) ?_
        with_reducible assumption
      clear_value v78
      refine State.recoverReq_kept (sub_of hF rfl) ?_
      with_reducible assumption

theorem State.memberLinkLost_kept {qu : List Instr} {F : Nat} {o : State} {s : State} {i plane : Nat} (hF : 0x10000000449 ||| F = F) (hk : State.Kept qu F o s) : State.Kept qu F o (State.memberLinkLost s i plane) := by
  unfold State.memberLinkLost
  refine State.kept_foldl ?_ ?_
  · with_reducible assumption
  · intro s79 x78 h77
    refine State.losePlane_kept (sub_of hF rfl) ?_
    with_reducible assumption

theorem State.keeperLinkLost_kept {qu : List Instr} {F : Nat} {o : State} {s : State} {plane : Nat} (hF : 0x10000000449 ||| F = F) (hk : State.Kept qu F o s) : State.Kept qu F o (State.keeperLinkLost s plane) := by
  unfold State.keeperLinkLost
  refine State.kept_foldl ?_ ?_
  · with_reducible assumption
  · intro s79 x78 h77
    refine State.losePlane_kept (sub_of hF rfl) ?_
    with_reducible assumption

theorem State.switchLost_kept {qu : List Instr} {F : Nat} {o : State} {s : State} {plane : Nat} (hF : 0x10000000449 ||| F = F) (hk : State.Kept qu F o s) : State.Kept qu F o (State.switchLost s plane) := by
  unfold State.switchLost
  refine State.kept_foldl ?_ ?_
  · with_reducible assumption
  · intro s79 x78 h77
    refine State.losePlane_kept (sub_of hF rfl) ?_
    with_reducible assumption

theorem State.ringUplinkLost_kept {qu : List Instr} {F : Nat} {o : State} {s : State} {r dir plane : Nat} (hF : 0x10000000449 ||| F = F) (hk : State.Kept qu F o s) : State.Kept qu F o (State.ringUplinkLost s r dir plane) := by
  unfold State.ringUplinkLost
  extract_lets +onlyGivenNames v80
  clear_value v80
  refine State.kept_foldl ?_ ?_
  · with_reducible assumption
  · intro s78 x77 h76
    refine State.losePlane_kept (sub_of hF rfl) ?_
    with_reducible assumption

theorem State.replayRoot_kept {qu : List Instr} {F : Nat} {o : State} {s : State} {p : Plan} (hF : 0x441 ||| F = F) (hk : State.Kept qu F o s) : State.Kept qu F o (State.replayRoot s p) := by
  unfold State.replayRoot
  extract_lets +onlyGivenNames v80
  clear_value v80
  refine State.kept_ite (fun _ => ?_) (fun _ => ?_)
  · with_reducible assumption
  · refine State.kept_foldl ?_ ?_
    · with_reducible assumption
    · intro s77 x76 h75
      refine State.recoverReq_kept (sub_of hF rfl) ?_
      with_reducible assumption

theorem State.keeperFlowBroken_kept {qu : List Instr} {F : Nat} {o : State} {s : State} {p : Plan} {dest : Addr} {launch : Nat} (hF : 0x10000000449 ||| F = F) (hk : State.Kept qu F o s) : State.Kept qu F o (State.keeperFlowBroken s p dest launch) := by
  unfold State.keeperFlowBroken
  extract_lets +onlyGivenNames v80
  have hv80 : State.Kept qu F o v80 := by
    unfold v80
    refine State.raise_kept (sub_of hF rfl) (bit_of hF rfl) ?_
    with_reducible assumption
  clear_value v80
  refine State.kept_ite (fun _ => ?_) (fun _ => ?_)
  · refine State.losePlane_kept (sub_of hF rfl) ?_
    with_reducible assumption
  · refine State.recoverReq_kept (sub_of hF rfl) ?_
    with_reducible assumption

theorem State.writeRemaps_kept {qu : List Instr} {F : Nat} {o : State} {s : State} {p : Plan} {agents : List Addr} {purpose : MgmtFor} (hF : 0xc0 ||| F = F) (hk : State.Kept qu F o s) : State.Kept qu F o (State.writeRemaps s p agents purpose) := by
  unfold State.writeRemaps
  refine State.kept_foldl ?_ ?_
  · with_reducible assumption
  · intro s79 x78 h77
    extract_lets +onlyGivenNames v76
    clear_value v76
    refine State.mgmtWrite_kept (sub_of hF rfl) ?_
    with_reducible assumption

theorem State.sendCleared_kept {qu : List Instr} {F : Nat} {o : State} {s : State} {p : Plan} (hF : 0x41 ||| F = F) (hk : State.Kept qu F o s) : State.Kept qu F o (State.sendCleared s p) := by
  unfold State.sendCleared
  refine State.tellHead_kept (sub_of hF rfl) ?_
  with_reducible assumption

theorem State.tryCleared_kept {qu : List Instr} {F : Nat} {o : State} {s : State} {ctx : Nat} (hF : 0x441 ||| F = F) (hk : State.Kept qu F o s) : State.Kept qu F o (State.tryCleared s ctx) := by
  unfold State.tryCleared
  split
  · with_reducible assumption
  · refine State.kept_ite (fun _ => ?_) (fun _ => ?_)
    · refine State.sendCleared_kept (sub_of hF rfl) ?_
      refine State.onPlan_kept (sub_of hF rfl) ?_
      with_reducible assumption
    · with_reducible assumption

theorem State.clearPieces_kept {qu : List Instr} {F : Nat} {o : State} {s : State} {ctx first last : Nat} {pieces : List Nat} (hF : 0xc00 ||| F = F) (hk : State.Kept qu F o s) : State.Kept qu F o (State.clearPieces s ctx first last pieces) := by
  unfold State.clearPieces
  extract_lets +onlyGivenNames v80
  clear_value v80
  extract_lets +onlyGivenNames v79
  have hv79 : State.Kept qu F o v79 := by
    unfold v79
    refine State.onPlan_kept (sub_of hF rfl) ?_
    with_reducible assumption
  clear_value v79
  refine State.kept_lmp (bit_of hF rfl) ?_
  with_reducible assumption

theorem State.sendFrozen_kept {qu : List Instr} {F : Nat} {o : State} {s : State} {p : Plan} (hF : 0x41 ||| F = F) (hk : State.Kept qu F o s) : State.Kept qu F o (State.sendFrozen s p) := by
  unfold State.sendFrozen
  extract_lets +onlyGivenNames v80
  clear_value v80
  extract_lets +onlyGivenNames v79
  clear_value v79
  extract_lets +onlyGivenNames v78
  clear_value v78
  refine State.tellHead_kept (sub_of hF rfl) ?_
  with_reducible assumption

theorem State.tryFrozen_kept {qu : List Instr} {F : Nat} {o : State} {s : State} {ctx : Nat} (hF : 0x441 ||| F = F) (hk : State.Kept qu F o s) : State.Kept qu F o (State.tryFrozen s ctx) := by
  unfold State.tryFrozen
  split
  · with_reducible assumption
  · refine State.kept_ite (fun _ => ?_) (fun _ => ?_)
    · refine State.sendFrozen_kept (sub_of hF rfl) ?_
      refine State.onPlan_kept (sub_of hF rfl) ?_
      with_reducible assumption
    · with_reducible assumption

theorem State.freezeReply_kept {qu : List Instr} {F : Nat} {o : State} {s : State} {op : MgmtOp} {ctx status : Nat} {words : List Word} (hF : 0x441 ||| F = F) (hk : State.Kept qu F o s) : State.Kept qu F o (State.freezeReply s op ctx status words) := by
  unfold State.freezeReply
  refine State.kept_ite (fun _ => ?_) (fun _ => ?_)
  · extract_lets +onlyGivenNames v79
    clear_value v79
    extract_lets +onlyGivenNames v78
    clear_value v78
    refine State.tryFrozen_kept (sub_of hF rfl) ?_
    refine State.onPlan_kept (sub_of hF rfl) ?_
    with_reducible assumption
  · with_reducible assumption

theorem State.writeFreeze_kept {qu : List Instr} {F : Nat} {o : State} {s : State} {p : Plan} {bit : Nat} (hF : 0xc0 ||| F = F) (hk : State.Kept qu F o s) : State.Kept qu F o (State.writeFreeze s p bit) := by
  unfold State.writeFreeze
  extract_lets +onlyGivenNames v80
  have hv80 : State.Kept qu F o v80 := by
    unfold v80
    refine State.kept_foldl ?_ ?_
    · with_reducible assumption
    · intro s78 x77 h76
      refine State.mgmtWrite_kept (sub_of hF rfl) ?_
      with_reducible assumption
  clear_value v80
  refine State.kept_foldl ?_ ?_
  · with_reducible assumption
  · intro s78 x77 h76
    refine State.mgmtWrite_kept (sub_of hF rfl) ?_
    with_reducible assumption

theorem State.rewritePlan_kept {qu : List Instr} {F : Nat} {o : State} {s : State} {p : Plan} (hF : 0xc0 ||| F = F) (hk : State.Kept qu F o s) : State.Kept qu F o (State.rewritePlan s p) := by
  unfold State.rewritePlan
  extract_lets +onlyGivenNames v80
  have hv80 : State.Kept qu F o v80 := by
    unfold v80
    refine State.kept_foldl ?_ ?_
    · with_reducible assumption
    · intro s78 x77 h76
      refine State.writeRun_kept (sub_of hF rfl) ?_
      with_reducible assumption
  clear_value v80
  refine State.kept_foldl ?_ ?_
  · with_reducible assumption
  · intro s78 x77 h76
    refine State.writeRun_kept (sub_of hF rfl) ?_
    with_reducible assumption

theorem State.thawAbort_kept {qu : List Instr} {F : Nat} {o : State} {s : State} {ctx cause gen n e : Nat} (hF : 0x1010000025cc9 ||| F = F) (hk : State.Kept qu F o s) : State.Kept qu F o (State.thawAbort s ctx cause gen n e) := by
  unfold State.thawAbort
  extract_lets +onlyGivenNames v80
  have hv80 : State.Kept qu F o v80 := by
    unfold v80
    refine State.onPlan_kept (sub_of hF rfl) ?_
    with_reducible assumption
  clear_value v80
  extract_lets +onlyGivenNames v79
  clear_value v79
  extract_lets +onlyGivenNames v78
  clear_value v78
  extract_lets +onlyGivenNames v77
  have hv77 : State.Kept qu F o v77 := by
    unfold v77
    refine State.kept_with ?_ (by constructor <;> first | exact fun _ => rfl | exact fun _ _ => rfl | exact fun h => absurd (h.symm.trans (bit_of hF rfl)) Bool.false_ne_true) rfl rfl rfl
    with_reducible assumption
  clear_value v77
  extract_lets +onlyGivenNames v76
  have hv76 : State.Kept qu F o v76 := by
    unfold v76
    refine State.dropSent_kept (sub_of hF rfl) ?_
    with_reducible assumption
  clear_value v76
  split
  · with_reducible assumption
  · extract_lets +onlyGivenNames v74
    have hv74 : State.Kept qu F o v74 := by
      unfold v74
      refine State.logOwn_kept (sub_of hF rfl) ?_
      with_reducible assumption
    clear_value v74
    extract_lets +onlyGivenNames v73
    have hv73 : State.Kept qu F o v73 := by
      unfold v73
      refine State.setReg_kept (bit_of hF rfl) ?_
      refine State.countReg_kept (bit_of hF rfl) ?_
      with_reducible assumption
    clear_value v73
    extract_lets +onlyGivenNames v72
    have hv72 : State.Kept qu F o v72 := by
      unfold v72
      refine State.raise_kept (sub_of hF rfl) (bit_of hF rfl) ?_
      with_reducible assumption
    clear_value v72
    refine State.rewritePlan_kept (sub_of hF rfl) ?_
    refine State.raiseIf_kept (sub_of hF rfl) (bit_of hF rfl) ?_
    with_reducible assumption

theorem State.onLive_kept {qu : List Instr} {F : Nat} {o : State} {s : State} {slice ordinal : Nat} {f : HeadPlan → HeadPlan} (hF : 0x400 ||| F = F) (hk : State.Kept qu F o s) : State.Kept qu F o (State.onLive s slice ordinal f) := by
  unfold State.onLive
  refine State.onClp_kept (sub_of hF rfl) ?_
  with_reducible assumption

theorem State.tellRacks_kept {qu : List Instr} {F : Nat} {o : State} {s : State} {p : HeadPlan} {m : KMsg} (hF : 0x41 ||| F = F) (hk : State.Kept qu F o s) : State.Kept qu F o (State.tellRacks s p m) := by
  unfold State.tellRacks
  refine State.kept_foldl ?_ ?_
  · with_reducible assumption
  · intro s79 x78 h77
    refine State.tell_kept (sub_of hF rfl) ?_
    with_reducible assumption

theorem State.sendFreeze_kept {qu : List Instr} {F : Nat} {o : State} {s : State} {p : HeadPlan} {cause : Nat} (hF : 0x41 ||| F = F) (hk : State.Kept qu F o s) : State.Kept qu F o (State.sendFreeze s p cause) := by
  unfold State.sendFreeze
  refine State.tellRacks_kept (sub_of hF rfl) ?_
  with_reducible assumption

theorem State.startAbort_kept {qu : List Instr} {F : Nat} {o : State} {s : State} {slice ordinal cause : Nat} (hF : 0x441 ||| F = F) (hk : State.Kept qu F o s) : State.Kept qu F o (State.startAbort s slice ordinal cause) := by
  unfold State.startAbort
  split
  · with_reducible assumption
  · extract_lets +onlyGivenNames v79
    clear_value v79
    refine State.kept_ite (fun _ => ?_) (fun _ => ?_)
    · refine State.onClp_kept (sub_of hF rfl) ?_
      with_reducible assumption
    · extract_lets +onlyGivenNames v77
      extract_lets +onlyGivenNames v76
      have hv76 : State.Kept qu F o v76 := by
        unfold v76
        refine State.onClp_kept (sub_of hF rfl) ?_
        with_reducible assumption
      clear_value v76
      refine State.kept_ite (fun _ => ?_) (fun _ => ?_)
      · with_reducible assumption
      · refine State.sendFreeze_kept (sub_of hF rfl) ?_
        with_reducible assumption

theorem State.sendClear_kept {qu : List Instr} {F : Nat} {o : State} {s : State} {p : HeadPlan} {r : Recovery} (hF : 0x41 ||| F = F) (hk : State.Kept qu F o s) : State.Kept qu F o (State.sendClear s p r) := by
  unfold State.sendClear
  refine State.tellRacks_kept (sub_of hF rfl) ?_
  with_reducible assumption

theorem State.pumpRecovery_kept {qu : List Instr} {F : Nat} {o : State} {s : State} {slice ordinal : Nat} (hF : 0x441 ||| F = F) (hk : State.Kept qu F o s) : State.Kept qu F o (State.pumpRecovery s slice ordinal) := by
  unfold State.pumpRecovery
  extract_lets +onlyGivenNames v80
  clear_value v80
  refine State.kept_ite (fun _ => ?_) (fun _ => ?_)
  · with_reducible assumption
  · split
    · extract_lets +onlyGivenNames v77
      clear_value v77
      extract_lets +onlyGivenNames v76
      have hv76 : State.Kept qu F o v76 := by
        unfold v76
        refine State.onClp_kept (sub_of hF rfl) ?_
        with_reducible assumption
      clear_value v76
      refine State.sendClear_kept (sub_of hF rfl) ?_
      with_reducible assumption
    · with_reducible assumption

theorem State.wantRecovery_kept {qu : List Instr} {F : Nat} {o : State} {s : State} {p : HeadPlan} {planes launch : Nat} {pieces : List Nat} (hF : 0x441 ||| F = F) (hk : State.Kept qu F o s) : State.Kept qu F o (State.wantRecovery s p planes launch pieces) := by
  unfold State.wantRecovery
  extract_lets +onlyGivenNames v80
  clear_value v80
  extract_lets +onlyGivenNames v79
  clear_value v79
  extract_lets +onlyGivenNames v78
  clear_value v78
  extract_lets +onlyGivenNames v77
  have hv77 : State.Kept qu F o v77 := by
    unfold v77
    refine State.onClp_kept (sub_of hF rfl) ?_
    with_reducible assumption
  clear_value v77
  refine State.pumpRecovery_kept (sub_of hF rfl) ?_
  with_reducible assumption

theorem State.headPlaneLost_kept {qu : List Instr} {F : Nat} {o : State} {s : State} {p : HeadPlan} {planes launch : Nat} (hF : 0x441 ||| F = F) (hk : State.Kept qu F o s) : State.Kept qu F o (State.headPlaneLost s p planes launch) := by
  unfold State.headPlaneLost
  extract_lets +onlyGivenNames v80
  clear_value v80
  refine State.kept_ite (fun _ => ?_) (fun _ => ?_)
  · with_reducible assumption
  · extract_lets +onlyGivenNames v78
    clear_value v78
    split
    · refine State.startAbort_kept (sub_of hF rfl) ?_
      refine State.onLive_kept (sub_of hF rfl) ?_
      with_reducible assumption
    · extract_lets +onlyGivenNames v76
      clear_value v76
      extract_lets +onlyGivenNames v75
      have hv75 : State.Kept qu F o v75 := by
        unfold v75
        refine State.onLive_kept (sub_of hF rfl) ?_
        with_reducible assumption
      clear_value v75
      split
      · refine State.wantRecovery_kept (sub_of hF rfl) ?_
        with_reducible assumption
      · with_reducible assumption

theorem State.headDiscard_kept {qu : List Instr} {F : Nat} {o : State} {s : State} {p : HeadPlan} {launch : Nat} {pieces : List Nat} (hF : 0x441 ||| F = F) (hk : State.Kept qu F o s) : State.Kept qu F o (State.headDiscard s p launch pieces) := by
  unfold State.headDiscard
  refine State.kept_ite (fun _ => ?_) (fun _ => ?_)
  · refine State.startAbort_kept (sub_of hF rfl) ?_
    with_reducible assumption
  · extract_lets +onlyGivenNames v79
    clear_value v79
    extract_lets +onlyGivenNames v78
    clear_value v78
    refine State.kept_ite (fun _ => ?_) (fun _ => ?_)
    · with_reducible assumption
    · extract_lets +onlyGivenNames v76
      clear_value v76
      extract_lets +onlyGivenNames v75
      have hv75 : State.Kept qu F o v75 := by
        unfold v75
        refine State.kept_foldl ?_ ?_
        · with_reducible assumption
        · intro s73 x72 h71
          refine State.onClp_kept (sub_of hF rfl) ?_
          with_reducible assumption
      clear_value v75
      refine State.kept_ite (fun _ => ?_) (fun _ => ?_)
      · refine State.startAbort_kept (sub_of hF rfl) ?_
        with_reducible assumption
      · refine State.wantRecovery_kept (sub_of hF rfl) ?_
        with_reducible assumption

theorem State.headRequest_kept {qu : List Instr} {F : Nat} {o : State} {s : State} {p : HeadPlan} {rack kind launch : Nat} {items : List Word} (hF : 0x441 ||| F = F) (hk : State.Kept qu F o s) : State.Kept qu F o (State.headRequest s p rack kind launch items) := by
  unfold State.headRequest
  refine State.kept_ite (fun _ => ?_) (fun _ => ?_)
  · refine State.headPlaneLost_kept (sub_of hF rfl) ?_
    with_reducible assumption
  · refine State.kept_ite (fun _ => ?_) (fun _ => ?_)
    · refine State.headDiscard_kept (sub_of hF rfl) ?_
      with_reducible assumption
    · refine State.kept_ite (fun _ => ?_) (fun _ => ?_)
      · refine State.startAbort_kept (sub_of hF rfl) ?_
        with_reducible assumption
      · refine State.kept_ite (fun _ => ?_) (fun _ => ?_)
        · extract_lets +onlyGivenNames v76
          have hv76 : State.Kept qu F o v76 := by
            unfold v76
            refine State.onLive_kept (sub_of hF rfl) ?_
            with_reducible assumption
          clear_value v76
          split
          · refine State.kept_ite (fun _ => ?_) (fun _ => ?_)
            · refine State.startAbort_kept (sub_of hF rfl) ?_
              refine State.onLive_kept (sub_of hF rfl) ?_
              with_reducible assumption
            · with_reducible assumption
          · with_reducible assumption
        · refine State.kept_ite (fun _ => ?_) (fun _ => ?_)
          · refine State.startAbort_kept (sub_of hF rfl) ?_
            with_reducible assumption
          · with_reducible assumption

theorem State.sendThaw_kept {qu : List Instr} {F : Nat} {o : State} {s : State} {p : HeadPlan} {m : KMsg} (hF : 0x441 ||| F = F) (hk : State.Kept qu F o s) : State.Kept qu F o (State.sendThaw s p m) := by
  unfold State.sendThaw
  refine State.tellRacks_kept (sub_of hF rfl) ?_
  refine State.onLive_kept (sub_of hF rfl) ?_
  with_reducible assumption

theorem State.decideAbort_kept {qu : List Instr} {F : Nat} {o : State} {s : State} {a : AbortEx} (hF : 0x441 ||| F = F) (hk : State.Kept qu F o s) : State.Kept qu F o (State.decideAbort s a) := by
  unfold State.decideAbort
  split
  · refine State.onClp_kept (sub_of hF rfl) ?_
    with_reducible assumption
  · refine State.kept_ite (fun _ => ?_) (fun _ => ?_)
    · with_reducible assumption
    · extract_lets +onlyGivenNames v78
      clear_value v78
      extract_lets +onlyGivenNames v77
      clear_value v77
      extract_lets +onlyGivenNames v76
      clear_value v76
      extract_lets +onlyGivenNames v75
      clear_value v75
      extract_lets +onlyGivenNames v74
      clear_value v74
      extract_lets +onlyGivenNames v73
      clear_value v73
      extract_lets +onlyGivenNames v72
      clear_value v72
      extract_lets +onlyGivenNames v71
      clear_value v71
      extract_lets +onlyGivenNames v70
      clear_value v70
      extract_lets +onlyGivenNames v69
      clear_value v69
      extract_lets +onlyGivenNames v68
      have hv68 : State.Kept qu F o v68 := by
        unfold v68
        refine State.onLive_kept (sub_of hF rfl) ?_
        with_reducible assumption
      clear_value v68
      extract_lets +onlyGivenNames v67
      have hv67 : State.Kept qu F o v67 := by
        unfold v67
        refine State.onClp_kept (sub_of hF rfl) ?_
        with_reducible assumption
      clear_value v67
      extract_lets +onlyGivenNames v66
      clear_value v66
      refine State.sendThaw_kept (sub_of hF rfl) ?_
      with_reducible assumption

theorem State.resendRecovery_kept {qu : List Instr} {F : Nat} {o : State} {s : State} (hF : 0x41 ||| F = F) (hk : State.Kept qu F o s) : State.Kept qu F o (State.resendRecovery s) := by
  unfold State.resendRecovery
  extract_lets +onlyGivenNames v80
  have hv80 : State.Kept qu F o v80 := by
    unfold v80
    refine State.kept_foldl ?_ ?_
    · with_reducible assumption
    · intro s78 x77 h76
      extract_lets +onlyGivenNames v75
      have hv75 : State.Kept qu F o v75 := by
        unfold v75
        refine State.kept_foldl ?_ ?_
        · with_reducible assumption
        · intro s73 x72 h71
          refine State.recoverMsg_kept (sub_of hF rfl) ?_
          with_reducible assumption
      clear_value v75
      extract_lets +onlyGivenNames v74
      have hv74 : State.Kept qu F o v74 := by
        unfold v74
        refine State.kept_ite (fun _ => ?_) (fun _ => ?_)
        · refine State.sendCleared_kept (sub_of hF rfl) ?_
          with_reducible assumption
        · with_reducible assumption
      clear_value v74
      refine State.kept_ite (fun _ => ?_) (fun _ => ?_)
      · refine State.sendFrozen_kept (sub_of hF rfl) ?_
        with_reducible assumption
      · with_reducible assumption
  clear_value v80
  refine State.kept_ite (fun _ => ?_) (fun _ => ?_)
  · with_reducible assumption
  · extract_lets +onlyGivenNames v78
    have hv78 : State.Kept qu F o v78 := by
      unfold v78
      refine State.kept_foldl ?_ ?_
      · with_reducible assumption
      · intro s76 x75 h74
        split
        · refine State.kept_ite (fun _ => ?_) (fun _ => ?_)
          · with_reducible assumption
          · refine State.sendClear_kept (sub_of hF rfl) ?_
            with_reducible assumption
        · with_reducible assumption
    clear_value v78
    refine State.kept_foldl ?_ ?_
    · with_reducible assumption
    · intro s76 x75 h74
      split
      · refine State.kept_ite (fun _ => ?_) (fun _ => ?_)
        · with_reducible assumption
        · refine State.sendFreeze_kept (sub_of hF rfl) ?_
          with_reducible assumption
      · with_reducible assumption

end Sys2Proof.Machine
end

