-- ==== Sys2Proof/Laws/KeptLinkOps.lean ====
section
/-! SUPPORT. Laws/KeptLinkOps.lean: each operation of Machine/LinkOps.lean keeps the queue and the invariant. -/
namespace Sys2Proof.Machine

theorem State.logAgent_kept {qu : List Instr} {F : Nat} {o : State} {s : State} {a : Addr} {code engine slice : Nat} {body : List Word} (hF : 0x1000000024009 ||| F = F) (hk : State.Kept qu F o s) : State.Kept qu F o (State.logAgent s a code engine slice body) := by
  unfold State.logAgent
  refine State.logEvt_kept (sub_of hF rfl) ?_
  with_reducible assumption

theorem State.sendLcb_kept {qu : List Instr} {F : Nat} {o : State} {s : State} {n type body : Nat} (hF : 0x41 ||| F = F) (hk : State.Kept qu F o s) : State.Kept qu F o (State.sendLcb s n type body) := by
  unfold State.sendLcb
  refine State.send_kept (sub_of hF rfl) ?_
  refine State.onPort_kept (sub_of hF rfl) ?_
  with_reducible assumption

theorem State.resync_kept {qu : List Instr} {F : Nat} {o : State} {s : State} {n : Nat} (hF : 0x41 ||| F = F) (hk : State.Kept qu F o s) : State.Kept qu F o (State.resync s n) := by
  unfold State.resync
  refine State.sendLcb_kept (sub_of hF rfl) ?_
  refine State.onPort_kept (sub_of hF rfl) ?_
  with_reducible assumption

theorem State.fillBuckets_kept {qu : List Instr} {F : Nat} {o : State} {s : State} {n : Nat} (hF : 0x40 ||| F = F) (hk : State.Kept qu F o s) : State.Kept qu F o (State.fillBuckets s n) := by
  unfold State.fillBuckets
  refine State.onPort_kept (sub_of hF rfl) ?_
  with_reducible assumption

theorem State.pumpTraining_kept {qu : List Instr} {F : Nat} {o : State} {s : State} (hF : 0x40 ||| F = F) (hk : State.Kept qu F o s) : State.Kept qu F o (State.pumpTraining s) := by
  unfold State.pumpTraining
  refine State.kept_ite (fun _ => ?_) (fun _ => ?_)
  · with_reducible assumption
  · extract_lets +onlyGivenNames v79
    clear_value v79
    extract_lets +onlyGivenNames v78
    clear_value v78
    extract_lets +onlyGivenNames v77
    clear_value v77
    extract_lets +onlyGivenNames v76
    have hv76 : State.Kept qu F o v76 := by
      unfold v76
      refine State.kept_link (bit_of hF rfl) ?_
      with_reducible assumption
    clear_value v76
    refine State.kept_foldl ?_ ?_
    · with_reducible assumption
    · intro s74 x73 h72
      refine State.onPort_kept (sub_of hF rfl) ?_
      with_reducible assumption

theorem State.readNeighbours_kept {qu : List Instr} {F : Nat} {o : State} {s : State} {n : Nat} (hF : 0xc0 ||| F = F) (hk : State.Kept qu F o s) : State.Kept qu F o (State.readNeighbours s n) := by
  unfold State.readNeighbours
  refine State.kept_foldl_range ?_ ?_
  · with_reducible assumption
  · intro s79 x78 x77 h76
    refine State.mgmtRead_kept (sub_of hF rfl) ?_
    with_reducible assumption

theorem State.judgePorts_kept {qu : List Instr} {F : Nat} {o : State} {s : State} (hF : 0x400000000009 ||| F = F) (hk : State.Kept qu F o s) : State.Kept qu F o (State.judgePorts s) := by
  unfold State.judgePorts
  refine State.setUnfit_kept (sub_of hF rfl) ?_
  with_reducible assumption

theorem State.portTo_kept {qu : List Instr} {F : Nat} {o : State} {s : State} {n : Nat} {st : PortState} {reason : Nat} (hF : 0x14104000264d9 ||| F = F) (hk : State.Kept qu F o s) : State.Kept qu F o (State.portTo s n st reason) := by
  unfold State.portTo
  extract_lets +onlyGivenNames v80
  clear_value v80
  refine State.kept_ite (fun _ => ?_) (fun _ => ?_)
  · with_reducible assumption
  · extract_lets +onlyGivenNames v78
    have hv78 : State.Kept qu F o v78 := by
      unfold v78
      refine State.onPort_kept (sub_of hF rfl) ?_
      refine State.fillBuckets_kept (sub_of hF rfl) ?_
      with_reducible assumption
    clear_value v78
    extract_lets +onlyGivenNames v77
    have hv77 : State.Kept qu F o v77 := by
      unfold v77
      refine State.stageInput_kept (sub_of hF rfl) ?_
      refine State.raise_kept (sub_of hF rfl) (bit_of hF rfl) ?_
      with_reducible assumption
    clear_value v77
    extract_lets +onlyGivenNames v76
    have hv76 : State.Kept qu F o v76 := by
      unfold v76
      refine State.kept_ite (fun _ => ?_) (fun _ => ?_)
      · refine State.judgePorts_kept (sub_of hF rfl) ?_
        with_reducible assumption
      · with_reducible assumption
    clear_value v76
    extract_lets +onlyGivenNames v75
    clear_value v75
    extract_lets +onlyGivenNames v74
    have hv74 : State.Kept qu F o v74 := by
      unfold v74
      refine State.kept_ite (fun _ => ?_) (fun _ => ?_)
      · refine State.logOwn_kept (sub_of hF rfl) ?_
        with_reducible assumption
      · refine State.kept_ite (fun _ => ?_) (fun _ => ?_)
        · refine State.raise_kept (sub_of hF rfl) (bit_of hF rfl) ?_
          refine State.logOwn_kept (sub_of hF rfl) ?_
          with_reducible assumption
        · with_reducible assumption
    clear_value v74
    extract_lets +onlyGivenNames v73
    have hv73 : State.Kept qu F o v73 := by
      unfold v73
      refine State.kept_ite (fun _ => ?_) (fun _ => ?_)
      · refine State.keeperLinkLost_kept (sub_of hF rfl) ?_
        with_reducible assumption
      · with_reducible assumption
    clear_value v73
    extract_lets +onlyGivenNames v72
    have hv72 : State.Kept qu F o v72 := by
      unfold v72
      refine State.kept_ite (fun _ => ?_) (fun _ => ?_)
      · refine State.mooringDown_kept (sub_of hF rfl) ?_
        with_reducible assumption
      · with_reducible assumption
    clear_value v72
    refine State.kept_ite (fun _ => ?_) (fun _ => ?_)
    · extract_lets +onlyGivenNames v70
      have hv70 : State.Kept qu F o v70 := by
        unfold v70
        refine State.resync_kept (sub_of hF rfl) ?_
        with_reducible assumption
      clear_value v70
      refine State.kept_ite (fun _ => ?_) (fun _ => ?_)
      · refine State.readNeighbours_kept (sub_of hF rfl) ?_
        with_reducible assumption
      · with_reducible assumption
    · with_reducible assumption

theorem State.trainPort_kept {qu : List Instr} {F : Nat} {o : State} {s : State} {n : Nat} (hF : 0x14104000264d9 ||| F = F) (hk : State.Kept qu F o s) : State.Kept qu F o (State.trainPort s n) := by
  unfold State.trainPort
  extract_lets +onlyGivenNames v80
  have hv80 : State.Kept qu F o v80 := by
    unfold v80
    refine State.portTo_kept (sub_of hF rfl) ?_
    with_reducible assumption
  clear_value v80
  extract_lets +onlyGivenNames v79
  clear_value v79
  extract_lets +onlyGivenNames v78
  have hv78 : State.Kept qu F o v78 := by
    unfold v78
    refine State.kept_link (bit_of hF rfl) ?_
    with_reducible assumption
  clear_value v78
  refine State.pumpTraining_kept (sub_of hF rfl) ?_
  with_reducible assumption

theorem State.portClass_kept {qu : List Instr} {F : Nat} {o : State} {s : State} {n cls old new : Nat} (hF : 0x1000000024049 ||| F = F) (hk : State.Kept qu F o s) : State.Kept qu F o (State.portClass s n cls old new) := by
  unfold State.portClass
  extract_lets +onlyGivenNames v80
  clear_value v80
  extract_lets +onlyGivenNames v79
  clear_value v79
  extract_lets +onlyGivenNames v78
  clear_value v78
  extract_lets +onlyGivenNames v77
  have hv77 : State.Kept qu F o v77 := by
    unfold v77
    refine State.onPort_kept (sub_of hF rfl) ?_
    with_reducible assumption
  clear_value v77
  split
  · refine State.logOwn_kept (sub_of hF rfl) ?_
    with_reducible assumption
  · with_reducible assumption

theorem State.onPos_kept {qu : List Instr} {F : Nat} {o : State} {s : State} {k : Nat} {f : Position → Position} (hF : 0x40 ||| F = F) (hk : State.Kept qu F o s) : State.Kept qu F o (State.onPos s k f) := by
  unfold State.onPos
  refine State.kept_link (bit_of hF rfl) ?_
  with_reducible assumption

theorem State.positionFails_kept {qu : List Instr} {F : Nat} {o : State} {s : State} {k : Nat} (hF : 0x1c104000264d9 ||| F = F) (hk : State.Kept qu F o s) : State.Kept qu F o (State.positionFails s k) := by
  unfold State.positionFails
  extract_lets +onlyGivenNames v80
  clear_value v80
  extract_lets +onlyGivenNames v79
  have hv79 : State.Kept qu F o v79 := by
    unfold v79
    refine State.raise_kept (sub_of hF rfl) (bit_of hF rfl) ?_
    refine State.onPos_kept (sub_of hF rfl) ?_
    with_reducible assumption
  clear_value v79
  extract_lets +onlyGivenNames v78
  clear_value v78
  extract_lets +onlyGivenNames v77
  refine State.kept_ite (fun _ => ?_) (fun _ => ?_)
  · unfold v77
    refine State.logOwn_kept (sub_of hF rfl) ?_
    with_reducible assumption
  · split
    · refine State.kept_ite (fun _ => ?_) (fun _ => ?_)
      · unfold v77
        refine State.logOwn_kept (sub_of hF rfl) ?_
        refine State.kept_link (bit_of hF rfl) ?_
        with_reducible assumption
      · refine State.portTo_kept (sub_of hF rfl) ?_
        with_reducible assumption
    · refine State.reserveOut_kept (sub_of hF rfl) ?_
      unfold v77
      refine State.logOwn_kept (sub_of hF rfl) ?_
      with_reducible assumption

theorem State.applyLanes_kept {qu : List Instr} {F : Nat} {o : State} {s : State} {n : Nat} {newly : Nat} (hF : 0x1c104000264d9 ||| F = F) (hk : State.Kept qu F o s) : State.Kept qu F o (State.applyLanes s n newly) := by
  unfold State.applyLanes
  extract_lets +onlyGivenNames v80
  clear_value v80
  extract_lets +onlyGivenNames v79
  clear_value v79
  extract_lets +onlyGivenNames v78
  clear_value v78
  extract_lets +onlyGivenNames v77
  have hv77 : State.Kept qu F o v77 := by
    unfold v77
    refine State.raise_kept (sub_of hF rfl) (bit_of hF rfl) ?_
    with_reducible assumption
  clear_value v77
  refine State.kept_ite (fun _ => ?_) (fun _ => ?_)
  · refine State.portTo_kept (sub_of hF rfl) ?_
    refine State.onPort_kept (sub_of hF rfl) ?_
    with_reducible assumption
  · extract_lets +onlyGivenNames v75
    have hv75 : State.Kept qu F o v75 := by
      unfold v75
      refine State.onPort_kept (sub_of hF rfl) ?_
      refine State.fillBuckets_kept (sub_of hF rfl) ?_
      with_reducible assumption
    clear_value v75
    extract_lets +onlyGivenNames v74
    clear_value v74
    extract_lets +onlyGivenNames v73
    have hv73 : State.Kept qu F o v73 := by
      unfold v73
      refine State.kept_ite (fun _ => ?_) (fun _ => ?_)
      · refine State.kept_foldl ?_ ?_
        · with_reducible assumption
        · intro s70 x69 h68
          refine State.reserve_kept (sub_of hF rfl) ?_
          refine State.logOwn_kept (sub_of hF rfl) ?_
          with_reducible assumption
      · refine State.kept_foldl ?_ ?_
        · with_reducible assumption
        · intro s70 x69 h68
          refine State.logOwn_kept (sub_of hF rfl) ?_
          with_reducible assumption
    clear_value v73
    refine State.resync_kept (sub_of hF rfl) ?_
    with_reducible assumption

theorem State.failLanes_kept {qu : List Instr} {F : Nat} {o : State} {s : State} {n lanes : Nat} (hF : 0x1c104000264d9 ||| F = F) (hk : State.Kept qu F o s) : State.Kept qu F o (State.failLanes s n lanes) := by
  unfold State.failLanes
  extract_lets +onlyGivenNames v80
  clear_value v80
  extract_lets +onlyGivenNames v79
  clear_value v79
  refine State.kept_ite (fun _ => ?_) (fun _ => ?_)
  · extract_lets +onlyGivenNames v77
    have hv77 : State.Kept qu F o v77 := by
      unfold v77
      refine State.onPort_kept (sub_of hF rfl) ?_
      with_reducible assumption
    clear_value v77
    refine State.applyLanes_kept (sub_of hF rfl) ?_
    refine State.sendLcb_kept (sub_of hF rfl) ?_
    with_reducible assumption
  · refine State.onPort_kept (sub_of hF rfl) ?_
    with_reducible assumption

theorem State.setNbr_kept {qu : List Instr} {F : Nat} {o : State} {s : State} {r : Nbr} (hF : 0x40 ||| F = F) (hk : State.Kept qu F o s) : State.Kept qu F o (State.setNbr s r) := by
  unfold State.setNbr
  refine State.kept_link (bit_of hF rfl) ?_
  with_reducible assumption

theorem State.holdFarEnd_kept {qu : List Instr} {F : Nat} {o : State} {s : State} {f : Word} (hF : 0xc0 ||| F = F) (hk : State.Kept qu F o s) : State.Kept qu F o (State.holdFarEnd s f) := by
  unfold State.holdFarEnd
  extract_lets +onlyGivenNames v80
  clear_value v80
  refine State.kept_ite (fun _ => ?_) (fun _ => ?_)
  · extract_lets +onlyGivenNames v78
    clear_value v78
    extract_lets +onlyGivenNames v77
    clear_value v77
    refine State.mgmtWrite_kept (sub_of hF rfl) ?_
    refine State.setNbr_kept (sub_of hF rfl) ?_
    with_reducible assumption
  · with_reducible assumption

theorem State.miswired_kept {qu : List Instr} {F : Nat} {o : State} {s : State} {n : Nat} (hF : 0x14104000264d9 ||| F = F) (hk : State.Kept qu F o s) : State.Kept qu F o (State.miswired s n) := by
  unfold State.miswired
  extract_lets +onlyGivenNames v80
  clear_value v80
  extract_lets +onlyGivenNames v79
  have hv79 : State.Kept qu F o v79 := by
    unfold v79
    refine State.raiseIf_kept (sub_of hF rfl) (bit_of hF rfl) ?_
    refine State.portClass_kept (sub_of hF rfl) ?_
    refine State.portTo_kept (sub_of hF rfl) ?_
    with_reducible assumption
  clear_value v79
  refine State.holdFarEnd_kept (sub_of hF rfl) ?_
  with_reducible assumption

theorem State.judgePort_kept {qu : List Instr} {F : Nat} {o : State} {s : State} {n : Nat} (hF : 0x14104000264d9 ||| F = F) (hk : State.Kept qu F o s) : State.Kept qu F o (State.judgePort s n) := by
  unfold State.judgePort
  extract_lets +onlyGivenNames v80
  clear_value v80
  extract_lets +onlyGivenNames v79
  clear_value v79
  extract_lets +onlyGivenNames v78
  clear_value v78
  refine State.kept_ite (fun _ => ?_) (fun _ => ?_)
  · extract_lets +onlyGivenNames v76
    clear_value v76
    extract_lets +onlyGivenNames v75
    clear_value v75
    extract_lets +onlyGivenNames v74
    clear_value v74
    refine State.portTo_kept (sub_of hF rfl) ?_
    refine State.portClass_kept (sub_of hF rfl) ?_
    with_reducible assumption
  · refine State.kept_ite (fun _ => ?_) (fun _ => ?_)
    · refine State.raiseIf_kept (sub_of hF rfl) (bit_of hF rfl) ?_
      refine State.portClass_kept (sub_of hF rfl) ?_
      refine State.portTo_kept (sub_of hF rfl) ?_
      with_reducible assumption
    · refine State.kept_ite (fun _ => ?_) (fun _ => ?_)
      · refine State.miswired_kept (sub_of hF rfl) ?_
        with_reducible assumption
      · with_reducible assumption

theorem State.holdPort_kept {qu : List Instr} {F : Nat} {o : State} {s : State} {a : Addr} {port hold : Nat} (hF : 0xc0 ||| F = F) (hk : State.Kept qu F o s) : State.Kept qu F o (State.holdPort s a port hold) := by
  unfold State.holdPort
  extract_lets +onlyGivenNames v80
  clear_value v80
  extract_lets +onlyGivenNames v79
  clear_value v79
  refine State.mgmtWrite_kept (sub_of hF rfl) ?_
  refine State.setNbr_kept (sub_of hF rfl) ?_
  with_reducible assumption

theorem State.holdClass_kept {qu : List Instr} {F : Nat} {o : State} {s : State} {a : Addr} {port cls : Nat} {f : Word} (hF : 0x14104000264d9 ||| F = F) (hk : State.Kept qu F o s) : State.Kept qu F o (State.holdClass s a port cls f) := by
  unfold State.holdClass
  refine State.kept_ite (fun _ => ?_) (fun _ => ?_)
  · extract_lets +onlyGivenNames v79
    have hv79 : State.Kept qu F o v79 := by
      unfold v79
      refine State.holdFarEnd_kept (sub_of hF rfl) ?_
      refine State.holdPort_kept (sub_of hF rfl) ?_
      with_reducible assumption
    clear_value v79
    extract_lets +onlyGivenNames v78
    clear_value v78
    refine State.kept_ite (fun _ => ?_) (fun _ => ?_)
    · refine State.portTo_kept (sub_of hF rfl) ?_
      with_reducible assumption
    · with_reducible assumption
  · refine State.kept_ite (fun _ => ?_) (fun _ => ?_)
    · refine State.holdPort_kept (sub_of hF rfl) ?_
      with_reducible assumption
    · with_reducible assumption

theorem State.nbrRead_kept {qu : List Instr} {F : Nat} {o : State} {s : State} {a : Addr} {port : Nat} {words : List Word} (hF : 0x14104000264d9 ||| F = F) (hk : State.Kept qu F o s) : State.Kept qu F o (State.nbrRead s a port words) := by
  unfold State.nbrRead
  extract_lets +onlyGivenNames v80
  clear_value v80
  extract_lets +onlyGivenNames v79
  clear_value v79
  extract_lets +onlyGivenNames v78
  clear_value v78
  extract_lets +onlyGivenNames v77
  clear_value v77
  extract_lets +onlyGivenNames v76
  clear_value v76
  extract_lets +onlyGivenNames v75
  clear_value v75
  extract_lets +onlyGivenNames v74
  clear_value v74
  extract_lets +onlyGivenNames v73
  clear_value v73
  extract_lets +onlyGivenNames v72
  have hv72 : State.Kept qu F o v72 := by
    unfold v72
    refine State.setNbr_kept (sub_of hF rfl) ?_
    with_reducible assumption
  clear_value v72
  extract_lets +onlyGivenNames v71
  have hv71 : State.Kept qu F o v71 := by
    unfold v71
    refine State.kept_ite (fun _ => ?_) (fun _ => ?_)
    · refine State.logAgent_kept (sub_of hF rfl) ?_
      with_reducible assumption
    · with_reducible assumption
  clear_value v71
  extract_lets +onlyGivenNames v70
  have hv70 : State.Kept qu F o v70 := by
    unfold v70
    refine State.kept_ite (fun _ => ?_) (fun _ => ?_)
    · refine State.logAgent_kept (sub_of hF rfl) ?_
      with_reducible assumption
    · with_reducible assumption
  clear_value v70
  extract_lets +onlyGivenNames v69
  extract_lets +onlyGivenNames v68
  have hv68 : State.Kept qu F o v68 := by
    unfold v68
    split
    · refine State.kept_ite (fun _ => ?_) (fun _ => ?_)
      · refine State.logAgent_kept (sub_of hF rfl) ?_
        with_reducible assumption
      · with_reducible assumption
    · with_reducible assumption
  clear_value v68
  extract_lets +onlyGivenNames v67
  have hv67 : State.Kept qu F o v67 := by
    unfold v67
    refine State.raiseIf_kept (sub_of hF rfl) (bit_of hF rfl) ?_
    with_reducible assumption
  clear_value v67
  extract_lets +onlyGivenNames v66
  have hv66 : State.Kept qu F o v66 := by
    unfold v66
    refine State.kept_ite (fun _ => ?_) (fun _ => ?_)
    · refine State.holdClass_kept (sub_of hF rfl) ?_
      with_reducible assumption
    · with_reducible assumption
  clear_value v66
  refine State.kept_ite (fun _ => ?_) (fun _ => ?_)
  · refine State.kept_ite (fun _ => ?_) (fun _ => ?_)
    · refine State.memberLinkLost_kept (sub_of hF rfl) ?_
      with_reducible assumption
    · refine State.kept_ite (fun _ => ?_) (fun _ => ?_)
      · refine State.memberLinkLost_kept (sub_of hF rfl) ?_
        with_reducible assumption
      · with_reducible assumption
  · with_reducible assumption

theorem State.clearHolds_kept {qu : List Instr} {F : Nat} {o : State} {s : State} (hF : 0xc0 ||| F = F) (hk : State.Kept qu F o s) : State.Kept qu F o (State.clearHolds s) := by
  unfold State.clearHolds
  refine State.kept_foldl ?_ ?_
  · with_reducible assumption
  · intro s79 x78 h77
    refine State.holdPort_kept (sub_of hF rfl) ?_
    with_reducible assumption

theorem State.publishRack_kept {qu : List Instr} {F : Nat} {o : State} {s : State} (hF : 0x10000001c9 ||| F = F) (hk : State.Kept qu F o s) : State.Kept qu F o (State.publishRack s) := by
  unfold State.publishRack
  refine State.kept_ite (fun _ => ?_) (fun _ => ?_)
  · with_reducible assumption
  · extract_lets +onlyGivenNames v79
    clear_value v79
    extract_lets +onlyGivenNames v78
    clear_value v78
    extract_lets +onlyGivenNames v77
    clear_value v77
    extract_lets +onlyGivenNames v76
    clear_value v76
    extract_lets +onlyGivenNames v75
    have hv75 : State.Kept qu F o v75 := by
      unfold v75
      refine State.kept_link (bit_of hF rfl) ?_
      with_reducible assumption
    clear_value v75
    refine State.kept_ite (fun _ => ?_) (fun _ => ?_)
    · with_reducible assumption
    · extract_lets +onlyGivenNames v73
      have hv73 : State.Kept qu F o v73 := by
        unfold v73
        refine State.kept_foldl ?_ ?_
        · with_reducible assumption
        · intro s71 x70 h69
          refine State.kept_ite (fun _ => ?_) (fun _ => ?_)
          · refine State.vetoEndpoint_kept (sub_of hF rfl) ?_
            with_reducible assumption
          · with_reducible assumption
      clear_value v73
      refine State.kept_foldl ?_ ?_
      · with_reducible assumption
      · intro s71 x70 h69
        refine State.tellHead_kept (sub_of hF rfl) ?_
        with_reducible assumption

theorem State.overlayCheck_kept {qu : List Instr} {F : Nat} {o : State} {s : State} (hF : 0x1000000024009 ||| F = F) (hk : State.Kept qu F o s) : State.Kept qu F o (State.overlayCheck s) := by
  unfold State.overlayCheck
  split
  · with_reducible assumption
  · refine State.kept_ite (fun _ => ?_) (fun _ => ?_)
    · with_reducible assumption
    · extract_lets +onlyGivenNames v78
      clear_value v78
      refine State.logOwn_kept (sub_of hF rfl) ?_
      with_reducible assumption

theorem State.writeParkMax_kept {qu : List Instr} {F : Nat} {o : State} {s : State} (hF : 0xc0 ||| F = F) (hk : State.Kept qu F o s) : State.Kept qu F o (State.writeParkMax s) := by
  unfold State.writeParkMax
  refine State.kept_ite (fun _ => ?_) (fun _ => ?_)
  · with_reducible assumption
  · refine State.kept_foldl ?_ ?_
    · with_reducible assumption
    · intro s78 x77 h76
      extract_lets +onlyGivenNames v75
      clear_value v75
      refine State.kept_ite (fun _ => ?_) (fun _ => ?_)
      · with_reducible assumption
      · extract_lets +onlyGivenNames v73
        clear_value v73
        refine State.mgmtWrite_kept (sub_of hF rfl) ?_
        refine State.setNbr_kept (sub_of hF rfl) ?_
        with_reducible assumption

theorem State.emit_kept {qu : List Instr} {F : Nat} {o : State} {s : State} {n : Nat} {w : Waiting} {p : Port} (hF : 0x41 ||| F = F) (hk : State.Kept qu F o s) : State.Kept qu F o (State.emit s n w p) := by
  unfold State.emit
  extract_lets +onlyGivenNames v80
  clear_value v80
  extract_lets +onlyGivenNames v79
  clear_value v79
  refine State.send_kept (sub_of hF rfl) ?_
  refine State.onPort_kept (sub_of hF rfl) ?_
  with_reducible assumption

theorem State.badLanes_kept {qu : List Instr} {F : Nat} {o : State} {s : State} {n lanes : Nat} (hF : 0x40 ||| F = F) (hk : State.Kept qu F o s) : State.Kept qu F o (State.badLanes s n lanes) := by
  unfold State.badLanes
  refine State.onPort_kept (sub_of hF rfl) ?_
  with_reducible assumption

end Sys2Proof.Machine
end

