-- ==== Sys2Proof/Laws/KeptSecOps.lean ====
section
/-! SUPPORT. Laws/KeptSecOps.lean: each operation of Machine/SecOps.lean keeps the queue and the invariant. -/
namespace Sys2Proof.Machine

theorem State.entropy_kept {qu : List Instr} {F : Nat} {o : State} {n : Nat} {s : State} (hF : 0x2 ||| F = F) (hk : State.Kept qu F o s) : State.Kept qu F o (State.entropy n s).2 := by
  induction n generalizing s with
  | zero =>
    rw [State.entropy]
    with_reducible assumption
  | succ n ih =>
    rw [State.entropy]
    dsimp only
    apply ih
    refine State.fresh_kept (sub_of hF rfl) ?_
    with_reducible assumption

theorem State.startSecure_kept {qu : List Instr} {F : Nat} {o : State} {s : State} {n : Nat} (hF : 0x43 ||| F = F) (hk : State.Kept qu F o s) : State.Kept qu F o (State.startSecure s n) := by
  unfold State.startSecure
  extract_lets +onlyGivenNames v80
  have hv80 : State.Kept qu F o v80.2 := by
    unfold v80
    refine State.entropy_kept (sub_of hF rfl) ?_
    with_reducible assumption
  clear_value v80
  extract_lets +onlyGivenNames v79
  clear_value v79
  extract_lets +onlyGivenNames v78
  clear_value v78
  refine State.send_kept (sub_of hF rfl) ?_
  refine State.onPort_kept (sub_of hF rfl) ?_
  with_reducible assumption

theorem State.refuseIdentity_kept {qu : List Instr} {F : Nat} {o : State} {s : State} {n : Nat} (hF : 0x14144000264d9 ||| F = F) (hk : State.Kept qu F o s) : State.Kept qu F o (State.refuseIdentity s n) := by
  unfold State.refuseIdentity
  refine State.raise_kept (sub_of hF rfl) (bit_of hF rfl) ?_
  refine State.portTo_kept (sub_of hF rfl) ?_
  with_reducible assumption

end Sys2Proof.Machine
end

