-- ==== Sys2Proof/Laws/KeptUpkeepOps.lean ====
section
/-! SUPPORT. Laws/KeptUpkeepOps.lean: each operation of Machine/UpkeepOps.lean keeps the queue and the invariant. -/
namespace Sys2Proof.Machine

theorem State.writeParams_kept {qu : List Instr} {F : Nat} {o : State} {s : State} (hF : 0x40 ||| F = F) (hk : State.Kept qu F o s) : State.Kept qu F o (State.writeParams s) := by
  unfold State.writeParams
  refine State.broadcast_kept (sub_of hF rfl) ?_
  with_reducible assumption

theorem State.writeGuard_kept {qu : List Instr} {F : Nat} {o : State} {s : State} (hF : 0x40 ||| F = F) (hk : State.Kept qu F o s) : State.Kept qu F o (State.writeGuard s) := by
  unfold State.writeGuard
  refine State.broadcast_kept (sub_of hF rfl) ?_
  with_reducible assumption

theorem State.writeTags_kept {qu : List Instr} {F : Nat} {o : State} {s : State} (hF : 0xc0 ||| F = F) (hk : State.Kept qu F o s) : State.Kept qu F o (State.writeTags s) := by
  unfold State.writeTags
  refine State.mgmtAll_kept (sub_of hF rfl) ?_
  with_reducible assumption

theorem State.writeKeeperPort_kept {qu : List Instr} {F : Nat} {o : State} {s : State} (hF : 0xc0 ||| F = F) (hk : State.Kept qu F o s) : State.Kept qu F o (State.writeKeeperPort s) := by
  unfold State.writeKeeperPort
  refine State.mgmtAll_kept (sub_of hF rfl) ?_
  with_reducible assumption

theorem State.writeWholeBank_kept {qu : List Instr} {F : Nat} {o : State} {s : State} {a : Addr} {bank : Nat} {src : BankSrc} {purpose : MgmtFor} (hF : 0xc0 ||| F = F) (hk : State.Kept qu F o s) : State.Kept qu F o (State.writeWholeBank s a bank src purpose) := by
  unfold State.writeWholeBank
  extract_lets +onlyGivenNames v80
  clear_value v80
  refine State.kept_foldl ?_ ?_
  · with_reducible assumption
  · intro s78 x77 h76
    refine State.writeRun_kept (sub_of hF rfl) ?_
    with_reducible assumption

theorem State.armAgain_kept {qu : List Instr} {F : Nat} {o : State} {s : State} {a : Addr} (hF : 0xc0 ||| F = F) (hk : State.Kept qu F o s) : State.Kept qu F o (State.armAgain s a) := by
  unfold State.armAgain
  extract_lets +onlyGivenNames v80
  clear_value v80
  refine State.kept_ite (fun _ => ?_) (fun _ => ?_)
  · extract_lets +onlyGivenNames v78
    clear_value v78
    extract_lets +onlyGivenNames v77
    have hv77 : State.Kept qu F o v77 := by
      unfold v77
      refine State.mgmtWrite_kept (sub_of hF rfl) ?_
      refine State.mgmtWrite_kept (sub_of hF rfl) ?_
      with_reducible assumption
    clear_value v77
    refine State.kept_ite (fun _ => ?_) (fun _ => ?_)
    · refine State.mgmtWrite_kept (sub_of hF rfl) ?_
      with_reducible assumption
    · with_reducible assumption
  · with_reducible assumption

theorem State.restoreBanks_kept {qu : List Instr} {F : Nat} {o : State} {s : State} {a : Addr} (hF : 0xc0 ||| F = F) (hk : State.Kept qu F o s) : State.Kept qu F o (State.restoreBanks s a) := by
  unfold State.restoreBanks
  extract_lets +onlyGivenNames v80
  have hv80 : State.Kept qu F o v80 := by
    unfold v80
    refine State.writeWholeBank_kept (sub_of hF rfl) ?_
    with_reducible assumption
  clear_value v80
  extract_lets +onlyGivenNames v79
  clear_value v79
  extract_lets +onlyGivenNames v78
  have hv78 : State.Kept qu F o v78 := by
    unfold v78
    refine State.kept_ite (fun _ => ?_) (fun _ => ?_)
    · refine State.writeBank_kept (sub_of hF rfl) ?_
      with_reducible assumption
    · refine State.writeWholeBank_kept (sub_of hF rfl) ?_
      with_reducible assumption
  clear_value v78
  extract_lets +onlyGivenNames v77
  have hv77 : State.Kept qu F o v77 := by
    unfold v77
    refine State.mgmtWrite_kept (sub_of hF rfl) ?_
    with_reducible assumption
  clear_value v77
  refine State.armAgain_kept (sub_of hF rfl) ?_
  refine State.mgmtWrite_kept (sub_of hF rfl) ?_
  with_reducible assumption

theorem State.countIn_kept {qu : List Instr} {F : Nat} {o : State} {s : State} {a : Addr} (hF : 0x1c0 ||| F = F) (hk : State.Kept qu F o s) : State.Kept qu F o (State.countIn s a) := by
  unfold State.countIn
  refine State.kept_ite (fun _ => ?_) (fun _ => ?_)
  · refine State.restoreBanks_kept (sub_of hF rfl) ?_
    refine State.mgmtWrite_kept (sub_of hF rfl) ?_
    refine State.kept_slv (bit_of hF rfl) ?_
    with_reducible assumption
  · with_reducible assumption

theorem State.repairLit_kept {qu : List Instr} {F : Nat} {o : State} {s : State} {a : Addr} (hF : 0xc0 ||| F = F) (hk : State.Kept qu F o s) : State.Kept qu F o (State.repairLit s a) := by
  unfold State.repairLit
  refine State.restoreBanks_kept (sub_of hF rfl) ?_
  refine State.mgmtWrite_kept (sub_of hF rfl) ?_
  with_reducible assumption

theorem State.repairDark_kept {qu : List Instr} {F : Nat} {o : State} {s : State} {a : Addr} (hF : 0xc0 ||| F = F) (hk : State.Kept qu F o s) : State.Kept qu F o (State.repairDark s a) := by
  unfold State.repairDark
  extract_lets +onlyGivenNames v80
  extract_lets +onlyGivenNames v79
  have hv79 : State.Kept qu F o v79 := by
    unfold v79
    refine State.kept_ite (fun _ => ?_) (fun _ => ?_)
    · refine State.mgmtWrite_kept (sub_of hF rfl) ?_
      with_reducible assumption
    · with_reducible assumption
  clear_value v79
  extract_lets +onlyGivenNames v78
  clear_value v78
  extract_lets +onlyGivenNames v77
  clear_value v77
  extract_lets +onlyGivenNames v76
  have hv76 : State.Kept qu F o v76 := by
    unfold v76
    refine State.kept_foldl ?_ ?_
    · with_reducible assumption
    · intro s74 x73 h72
      refine State.writeRun_kept (sub_of hF rfl) ?_
      with_reducible assumption
  clear_value v76
  refine State.armAgain_kept (sub_of hF rfl) ?_
  with_reducible assumption

theorem State.rewritePlanAt_kept {qu : List Instr} {F : Nat} {o : State} {s : State} {p : Plan} {a : Addr} {state : Nat} (hF : 0xc0 ||| F = F) (hk : State.Kept qu F o s) : State.Kept qu F o (State.rewritePlanAt s p a state) := by
  unfold State.rewritePlanAt
  extract_lets +onlyGivenNames v80
  clear_value v80
  extract_lets +onlyGivenNames v79
  extract_lets +onlyGivenNames v78
  have hv78 : State.Kept qu F o v78 := by
    unfold v78
    unfold v79
    refine State.writeRun_kept (sub_of hF rfl) ?_
    with_reducible assumption
  clear_value v78
  refine State.kept_ite (fun _ => ?_) (fun _ => ?_)
  · unfold v79
    refine State.writeRun_kept (sub_of hF rfl) ?_
    refine State.writeRun_kept (sub_of hF rfl) ?_
    with_reducible assumption
  · extract_lets +onlyGivenNames v76
    clear_value v76
    extract_lets +onlyGivenNames v75
    have hv75 : State.Kept qu F o v75 := by
      unfold v75
      unfold v79
      refine State.writeRun_kept (sub_of hF rfl) ?_
      with_reducible assumption
    clear_value v75
    unfold v79
    refine State.writeRun_kept (sub_of hF rfl) ?_
    refine State.writeRun_kept (sub_of hF rfl) ?_
    with_reducible assumption

theorem State.rewriteEndpoint_kept {qu : List Instr} {F : Nat} {o : State} {s : State} {a : Addr} (hF : 0xc0 ||| F = F) (hk : State.Kept qu F o s) : State.Kept qu F o (State.rewriteEndpoint s a) := by
  unfold State.rewriteEndpoint
  extract_lets +onlyGivenNames v80
  clear_value v80
  extract_lets +onlyGivenNames v79
  have hv79 : State.Kept qu F o v79 := by
    unfold v79
    refine State.kept_foldl ?_ ?_
    · with_reducible assumption
    · intro s77 x76 h75
      refine State.writeVeto_kept (sub_of hF rfl) ?_
      with_reducible assumption
  clear_value v79
  extract_lets +onlyGivenNames v78
  clear_value v78
  extract_lets +onlyGivenNames v77
  have hv77 : State.Kept qu F o v77 := by
    unfold v77
    refine State.kept_ite (fun _ => ?_) (fun _ => ?_)
    · refine State.mgmtWrite_kept (sub_of hF rfl) ?_
      with_reducible assumption
    · with_reducible assumption
  clear_value v77
  split
  · refine State.mgmtWrite_kept (sub_of hF rfl) ?_
    with_reducible assumption
  · with_reducible assumption

theorem State.rewriteAgent_kept {qu : List Instr} {F : Nat} {o : State} {s : State} {a : Addr} (hF : 0xc0 ||| F = F) (hk : State.Kept qu F o s) : State.Kept qu F o (State.rewriteAgent s a) := by
  unfold State.rewriteAgent
  extract_lets +onlyGivenNames v80
  extract_lets +onlyGivenNames v79
  have hv79 : State.Kept qu F o v79 := by
    unfold v79
    unfold v80
    refine State.mgmtWrite_kept (sub_of hF rfl) ?_
    refine State.mgmtWrite_kept (sub_of hF rfl) ?_
    refine State.mgmtWrite_kept (sub_of hF rfl) ?_
    with_reducible assumption
  clear_value v79
  extract_lets +onlyGivenNames v78
  have hv78 : State.Kept qu F o v78 := by
    unfold v78
    refine State.mgmtWrite_kept (sub_of hF rfl) ?_
    with_reducible assumption
  clear_value v78
  refine State.kept_ite (fun _ => ?_) (fun _ => ?_)
  · refine State.restoreBanks_kept (sub_of hF rfl) ?_
    unfold v80
    refine State.mgmtWrite_kept (sub_of hF rfl) ?_
    refine State.mgmtWrite_kept (sub_of hF rfl) ?_
    with_reducible assumption
  · extract_lets +onlyGivenNames v76
    have hv76 : State.Kept qu F o v76 := by
      unfold v76
      refine State.kept_foldl ?_ ?_
      · refine State.rewriteEndpoint_kept (sub_of hF rfl) ?_
        with_reducible assumption
      · intro s74 x73 h72
        refine State.rewritePlanAt_kept (sub_of hF rfl) ?_
        with_reducible assumption
    clear_value v76
    refine State.restoreBanks_kept (sub_of hF rfl) ?_
    with_reducible assumption

end Sys2Proof.Machine
end

