-- ==== Sys2Proof/Laws/KeptSealOps.lean ====
section
/-! SUPPORT. Laws/KeptSealOps.lean: each operation of Machine/SealOps.lean keeps the queue and the invariant. -/
namespace Sys2Proof.Machine

theorem State.showQueue_kept {qu : List Instr} {F : Nat} {o : State} {s : State} (hF : 0x4000000000 ||| F = F) (hk : State.Kept qu F o s) : State.Kept qu F o (State.showQueue s) := by
  unfold State.showQueue
  refine State.setF_kept (bit_of hF rfl) ?_
  with_reducible assumption

theorem State.showKeys_kept {qu : List Instr} {F : Nat} {o : State} {s : State} (hF : 0x4000000000 ||| F = F) (hk : State.Kept qu F o s) : State.Kept qu F o (State.showKeys s) := by
  unfold State.showKeys
  extract_lets +onlyGivenNames v80
  clear_value v80
  extract_lets +onlyGivenNames v79
  have hv79 : State.Kept qu F o v79 := by
    unfold v79
    refine State.setF_kept (bit_of hF rfl) ?_
    with_reducible assumption
  clear_value v79
  extract_lets +onlyGivenNames v78
  have hv78 : State.Kept qu F o v78 := by
    unfold v78
    refine State.setF_kept (bit_of hF rfl) ?_
    with_reducible assumption
  clear_value v78
  refine State.kept_foldl_range ?_ ?_
  · with_reducible assumption
  · intro s76 x75 x74 h73
    extract_lets +onlyGivenNames v72
    clear_value v72
    refine State.setReg_kept (bit_blk (b := 6) hF rfl (by unfold regBlock; simp only [Reg.WDN_KEY_ID]; omega)) ?_
    refine State.setReg_kept (bit_blk (b := 6) hF rfl (by unfold regBlock; simp only [Reg.WDN_KEY_ID]; omega)) ?_
    with_reducible assumption

theorem State.onWdn_kept {qu : List Instr} {F : Nat} {o : State} {s : State} {f : WdnState → WdnState} (hF : 0x10000 ||| F = F) (hk : State.Kept qu F o s) : State.Kept qu F o (State.onWdn s f) := by
  unfold State.onWdn
  refine State.kept_wdn (bit_of hF rfl) ?_
  with_reducible assumption

theorem State.pushSign_kept {qu : List Instr} {F : Nat} {o : State} {s : State} {j : SignJob} (hF : 0x4000010000 ||| F = F) (hk : State.Kept qu F o s) : State.Kept qu F o (State.pushSign s j) := by
  unfold State.pushSign
  extract_lets +onlyGivenNames v80
  clear_value v80
  extract_lets +onlyGivenNames v79
  clear_value v79
  refine State.showQueue_kept (sub_of hF rfl) ?_
  refine State.onWdn_kept (sub_of hF rfl) ?_
  with_reducible assumption

theorem State.askSeal_kept {qu : List Instr} {F : Nat} {o : State} {s : State} {slice rank : Nat} (hF : 0x4000010000 ||| F = F) (hk : State.Kept qu F o s) : State.Kept qu F o (State.askSeal s slice rank) := by
  unfold State.askSeal
  refine State.pushSign_kept (sub_of hF rfl) ?_
  with_reducible assumption

theorem State.refuseSealWaits_kept {qu : List Instr} {F : Nat} {o : State} {s : State} {slice : Nat} (hF : 0x14009 ||| F = F) (hk : State.Kept qu F o s) : State.Kept qu F o (State.refuseSealWaits s slice) := by
  unfold State.refuseSealWaits
  extract_lets +onlyGivenNames v80
  clear_value v80
  refine State.kept_foldl ?_ ?_
  · refine State.onWdn_kept (sub_of hF rfl) ?_
    with_reducible assumption
  · intro s78 x77 h76
    refine State.complete_kept (sub_of hF rfl) ?_
    with_reducible assumption

theorem State.startSign_kept {qu : List Instr} {F : Nat} {o : State}  {n : Nat} {a1 : Bool} {s : State} (hF : 0x4000014009 ||| F = F) (hk : State.Kept qu F o s) : State.Kept qu F o (State.startSign  n a1 s) := by
  induction n generalizing a1 s with
  | zero =>
    rw [State.startSign]
    refine State.showQueue_kept (sub_of hF rfl) ?_
    with_reducible assumption
  | succ n ih =>
    rw [State.startSign]
    refine State.kept_ite (fun _ => ?_) (fun _ => ?_)
    · refine State.showQueue_kept (sub_of hF rfl) ?_
      with_reducible assumption
    · split
      · refine State.showQueue_kept (sub_of hF rfl) ?_
        with_reducible assumption
      · extract_lets +onlyGivenNames v78
        split
        · unfold v78
          refine State.showQueue_kept (sub_of hF rfl) ?_
          refine State.onWdn_kept (sub_of hF rfl) ?_
          with_reducible assumption
        · refine State.kept_ite (fun _ => ?_) (fun _ => ?_)
          · unfold v78
            refine State.showQueue_kept (sub_of hF rfl) ?_
            refine State.onWdn_kept (sub_of hF rfl) ?_
            with_reducible assumption
          · refine State.showQueue_kept (sub_of hF rfl) ?_
            with_reducible assumption
        · refine State.kept_ite (fun _ => ?_) (fun _ => ?_)
          · refine State.showQueue_kept (sub_of hF rfl) ?_
            with_reducible assumption
          · refine State.kept_ite (fun _ => ?_) (fun _ => ?_)
            · unfold v78
              refine State.showQueue_kept (sub_of hF rfl) ?_
              refine State.onWdn_kept (sub_of hF rfl) ?_
              with_reducible assumption
            · apply ih
              refine State.refuseSealWaits_kept (sub_of hF rfl) ?_
              refine State.onWdn_kept (sub_of hF rfl) ?_
              with_reducible assumption

theorem State.askConfirm_kept {qu : List Instr} {F : Nat} {o : State} {s : State} {port : Nat} (hF : 0x4000014009 ||| F = F) (hk : State.Kept qu F o s) : State.Kept qu F o (State.askConfirm s port) := by
  unfold State.askConfirm
  refine State.startSign_kept (sub_of hF rfl) ?_
  refine State.pushSign_kept (sub_of hF rfl) ?_
  with_reducible assumption

theorem State.wardenIntake_kept {qu : List Instr} {F : Nat} {o : State} {s : State} (hF : 0x4000014009 ||| F = F) (hk : State.Kept qu F o s) : State.Kept qu F o (State.wardenIntake s) := by
  unfold State.wardenIntake
  extract_lets +onlyGivenNames v80
  clear_value v80
  refine State.startSign_kept (sub_of hF rfl) ?_
  refine State.onWdn_kept (sub_of hF rfl) ?_
  with_reducible assumption

theorem State.onSeal_kept {qu : List Instr} {F : Nat} {o : State} {s : State} {slice : Nat} {f : Seal → Seal} (hF : 0x10000 ||| F = F) (hk : State.Kept qu F o s) : State.Kept qu F o (State.onSeal s slice f) := by
  unfold State.onSeal
  refine State.onWdn_kept (sub_of hF rfl) ?_
  with_reducible assumption

theorem State.broadcastSeal_kept {qu : List Instr} {F : Nat} {o : State} {s : State} {x : Seal} (hF : 0x10040 ||| F = F) (hk : State.Kept qu F o s) : State.Kept qu F o (State.broadcastSeal s x) := by
  unfold State.broadcastSeal
  extract_lets +onlyGivenNames v80
  have hv80 : State.Kept qu F o v80 := by
    unfold v80
    refine State.kept_foldl ?_ ?_
    · with_reducible assumption
    · intro s78 x77 h76
      refine State.broadcastTo_kept (sub_of hF rfl) ?_
      with_reducible assumption
  clear_value v80
  extract_lets +onlyGivenNames v79
  have hv79 : State.Kept qu F o v79 := by
    unfold v79
    refine State.broadcastTo_kept (sub_of hF rfl) ?_
    with_reducible assumption
  clear_value v79
  refine State.onSeal_kept (sub_of hF rfl) ?_
  with_reducible assumption

theorem State.pollSeal_kept {qu : List Instr} {F : Nat} {o : State} {s : State} {x : Seal} (hF : 0xc0 ||| F = F) (hk : State.Kept qu F o s) : State.Kept qu F o (State.pollSeal s x) := by
  unfold State.pollSeal
  refine State.kept_foldl ?_ ?_
  · with_reducible assumption
  · intro s79 x78 h77
    refine State.mgmtRead_kept (sub_of hF rfl) ?_
    with_reducible assumption

theorem State.deliverSeals_kept {qu : List Instr} {F : Nat} {o : State} {s : State} (hF : 0x100c0 ||| F = F) (hk : State.Kept qu F o s) : State.Kept qu F o (State.deliverSeals s) := by
  unfold State.deliverSeals
  refine State.kept_ite (fun _ => ?_) (fun _ => ?_)
  · with_reducible assumption
  · refine State.kept_foldl ?_ ?_
    · with_reducible assumption
    · intro s78 x77 h76
      extract_lets +onlyGivenNames v75
      have hv75 : State.Kept qu F o v75 := by
        unfold v75
        refine State.kept_ite (fun _ => ?_) (fun _ => ?_)
        · refine State.broadcastSeal_kept (sub_of hF rfl) ?_
          with_reducible assumption
        · with_reducible assumption
      clear_value v75
      refine State.pollSeal_kept (sub_of hF rfl) ?_
      with_reducible assumption

theorem State.answerSeal_kept {qu : List Instr} {F : Nat} {o : State} {s : State} {w : SealWait} {x : Seal} {new : Bool} (hF : 0x100004009 ||| F = F) (hk : State.Kept qu F o s) : State.Kept qu F o (State.answerSeal s w x new) := by
  unfold State.answerSeal
  extract_lets +onlyGivenNames v80
  refine State.kept_ite (fun _ => ?_) (fun _ => ?_)
  · unfold v80
    refine State.complete_kept (sub_of hF rfl) ?_
    with_reducible assumption
  · refine State.kept_ite (fun _ => ?_) (fun _ => ?_)
    · refine State.refuse_kept (sub_of hF rfl) ?_
      refine State.dmaErr_kept (sub_of hF rfl) ?_
      with_reducible assumption
    · extract_lets +onlyGivenNames v77
      have hv77 : State.Kept qu F o v77 := by
        unfold v77
        refine State.dmaWrite_kept (sub_of hF rfl) ?_
        with_reducible assumption
      clear_value v77
      extract_lets +onlyGivenNames v76
      clear_value v76
      refine State.kept_ite (fun _ => ?_) (fun _ => ?_)
      · refine State.completeAfter_kept (sub_of hF rfl) ?_
        with_reducible assumption
      · refine State.complete_kept (sub_of hF rfl) ?_
        with_reducible assumption

theorem State.publishSeal_kept {qu : List Instr} {F : Nat} {o : State} {s : State} {j : SignJob} {slice : Nat} (hF : 0x1004100034049 ||| F = F) (hk : State.Kept qu F o s) : State.Kept qu F o (State.publishSeal s j slice) := by
  unfold State.publishSeal
  extract_lets +onlyGivenNames v80
  clear_value v80
  extract_lets +onlyGivenNames v79
  clear_value v79
  extract_lets +onlyGivenNames v78
  have hv78 : State.Kept qu F o v78 := by
    unfold v78
    refine State.onWdn_kept (sub_of hF rfl) ?_
    with_reducible assumption
  clear_value v78
  extract_lets +onlyGivenNames v77
  have hv77 : State.Kept qu F o v77 := by
    unfold v77
    refine State.progress_kept (sub_of hF rfl) ?_
    refine State.raise_kept (sub_of hF rfl) (bit_of hF rfl) ?_
    refine State.countReg_kept (bit_of hF rfl) ?_
    with_reducible assumption
  clear_value v77
  extract_lets +onlyGivenNames v76
  have hv76 : State.Kept qu F o v76 := by
    unfold v76
    refine State.logOwn_kept (sub_of hF rfl) ?_
    with_reducible assumption
  clear_value v76
  extract_lets +onlyGivenNames v75
  have hv75 : State.Kept qu F o v75 := by
    unfold v75
    refine State.broadcastSeal_kept (sub_of hF rfl) ?_
    with_reducible assumption
  clear_value v75
  extract_lets +onlyGivenNames v74
  clear_value v74
  refine State.kept_foldl ?_ ?_
  · refine State.onWdn_kept (sub_of hF rfl) ?_
    with_reducible assumption
  · intro s72 x71 h70
    refine State.answerSeal_kept (sub_of hF rfl) ?_
    with_reducible assumption

theorem State.onKey_kept {qu : List Instr} {F : Nat} {o : State} {s : State} {slice : Nat} {f : SliceKey → SliceKey} (hF : 0x10000 ||| F = F) (hk : State.Kept qu F o s) : State.Kept qu F o (State.onKey s slice f) := by
  unfold State.onKey
  refine State.onWdn_kept (sub_of hF rfl) ?_
  with_reducible assumption

theorem State.startRotation_kept {qu : List Instr} {F : Nat} {o : State} {s : State} {slice : Nat} (hF : 0x10000 ||| F = F) (hk : State.Kept qu F o s) : State.Kept qu F o (State.startRotation s slice) := by
  unfold State.startRotation
  refine State.onKey_kept (sub_of hF rfl) ?_
  with_reducible assumption

theorem State.rotate_kept {qu : List Instr} {F : Nat} {o : State} {s : State} {slice : Nat} (hF : 0x10000 ||| F = F) (hk : State.Kept qu F o s) : State.Kept qu F o (State.rotate s slice) := by
  unfold State.rotate
  split
  · with_reducible assumption
  · refine State.kept_ite (fun _ => ?_) (fun _ => ?_)
    · refine State.onKey_kept (sub_of hF rfl) ?_
      with_reducible assumption
    · refine State.startRotation_kept (sub_of hF rfl) ?_
      with_reducible assumption

theorem State.retireKey_kept {qu : List Instr} {F : Nat} {o : State} {s : State} {slice : Nat} (hF : 0x1004000034009 ||| F = F) (hk : State.Kept qu F o s) : State.Kept qu F o (State.retireKey s slice) := by
  unfold State.retireKey
  split
  · refine State.kept_ite (fun _ => ?_) (fun _ => ?_)
    · refine State.raise_kept (sub_of hF rfl) (bit_of hF rfl) ?_
      refine State.logOwn_kept (sub_of hF rfl) ?_
      refine State.onKey_kept (sub_of hF rfl) ?_
      with_reducible assumption
    · with_reducible assumption
  · with_reducible assumption

theorem State.scrub_kept {qu : List Instr} {F : Nat} {o : State} {s : State} (hF : 0x1004000134009 ||| F = F) (hk : State.Kept qu F o s) : State.Kept qu F o (State.scrub s) := by
  unfold State.scrub
  extract_lets +onlyGivenNames v80
  have hv80 : State.Kept qu F o v80 := by
    unfold v80
    refine State.tidyPages_kept (sub_of hF rfl) ?_
    with_reducible assumption
  clear_value v80
  extract_lets +onlyGivenNames v79
  have hv79 : State.Kept qu F o v79 := by
    unfold v79
    refine State.kept_foldl ?_ ?_
    · with_reducible assumption
    · intro s77 x76 h75
      refine State.startRotation_kept (sub_of hF rfl) ?_
      with_reducible assumption
  clear_value v79
  extract_lets +onlyGivenNames v78
  have hv78 : State.Kept qu F o v78 := by
    unfold v78
    refine State.kept_foldl ?_ ?_
    · with_reducible assumption
    · intro s76 x75 h74
      refine State.scrubPage_kept (sub_of hF rfl) ?_
      with_reducible assumption
  clear_value v78
  refine State.kept_foldl ?_ ?_
  · with_reducible assumption
  · intro s76 x75 h74
    refine State.retireKey_kept (sub_of hF rfl) ?_
    with_reducible assumption

theorem State.makeKey_kept {qu : List Instr} {F : Nat} {o : State} {s : State} {slice epoch : Nat} (hF : 0x10000 ||| F = F) (hk : State.Kept qu F o s) : State.Kept qu F o (State.makeKey s slice epoch) := by
  unfold State.makeKey
  refine State.onWdn_kept (sub_of hF rfl) ?_
  with_reducible assumption

theorem State.dropKey_kept {qu : List Instr} {F : Nat} {o : State} {s : State} {slice : Nat} (hF : 0x114009 ||| F = F) (hk : State.Kept qu F o s) : State.Kept qu F o (State.dropKey s slice) := by
  unfold State.dropKey
  refine State.refuseSealWaits_kept (sub_of hF rfl) ?_
  refine State.onWdn_kept (sub_of hF rfl) ?_
  refine State.dropPages_kept (sub_of hF rfl) ?_
  with_reducible assumption

theorem State.enrolJudged_kept {qu : List Instr} {F : Nat} {o : State} {s : State} {reason : Nat} (hF : 0x10000 ||| F = F) (hk : State.Kept qu F o s) : State.Kept qu F o (State.enrolJudged s reason) := by
  unfold State.enrolJudged
  refine State.onWdn_kept (sub_of hF rfl) ?_
  with_reducible assumption

theorem State.enrolResult_kept {qu : List Instr} {F : Nat} {o : State} {s : State} {e : Enrol} {reason : Nat} {key : List Byte} (hF : 0x4000010029 ||| F = F) (hk : State.Kept qu F o s) : State.Kept qu F o (State.enrolResult s e reason key) := by
  unfold State.enrolResult
  extract_lets +onlyGivenNames v80
  have hv80 : State.Kept qu F o v80 := by
    unfold v80
    refine State.onWdn_kept (sub_of hF rfl) ?_
    with_reducible assumption
  clear_value v80
  extract_lets +onlyGivenNames v79
  have hv79 : State.Kept qu F o v79 := by
    unfold v79
    refine State.setReg_kept (bit_of hF rfl) ?_
    refine State.setF_kept (bit_of hF rfl) ?_
    with_reducible assumption
  clear_value v79
  refine State.kept_ite (fun _ => ?_) (fun _ => ?_)
  · extract_lets +onlyGivenNames v77
    clear_value v77
    extract_lets +onlyGivenNames v76
    clear_value v76
    extract_lets +onlyGivenNames v75
    have hv75 : State.Kept qu F o v75 := by
      unfold v75
      refine State.kept_chart (bit_of hF rfl) ?_
      with_reducible assumption
    clear_value v75
    refine State.raise_kept (sub_of hF rfl) (bit_of hF rfl) ?_
    refine State.showKeys_kept (sub_of hF rfl) ?_
    with_reducible assumption
  · refine State.raise_kept (sub_of hF rfl) (bit_of hF rfl) ?_
    with_reducible assumption

end Sys2Proof.Machine
end

