-- ==== Sys2Proof/Laws/KeptAgentOps.lean ====
section
/-! SUPPORT. Laws/KeptAgentOps.lean: each operation of Machine/AgentOps.lean keeps the queue and the invariant. -/
namespace Sys2Proof.Machine

theorem State.keysNow_kept {qu : List Instr} {F : Nat} {o : State} {s : State} {a : Addr} (hF : 0x80001 ||| F = F) (hk : State.Kept qu F o s) : State.Kept qu F o (State.keysNow s a) := by
  unfold State.keysNow
  extract_lets +onlyGivenNames v80
  clear_value v80
  extract_lets +onlyGivenNames v79
  clear_value v79
  extract_lets +onlyGivenNames v78
  have hv78 : State.Kept qu F o v78 := by
    unfold v78
    refine State.kept_foldl ?_ ?_
    · with_reducible assumption
    · intro s76 x75 h74
      refine State.send_kept (sub_of hF rfl) ?_
      with_reducible assumption
  clear_value v78
  extract_lets +onlyGivenNames v77
  have hv77 : State.Kept qu F o v77 := by
    unfold v77
    refine State.kept_foldl ?_ ?_
    · with_reducible assumption
    · intro s75 x74 h73
      refine State.send_kept (sub_of hF rfl) ?_
      with_reducible assumption
  clear_value v77
  refine State.onAgent_kept (sub_of hF rfl) ?_
  with_reducible assumption

theorem State.verifySeal_kept {qu : List Instr} {F : Nat} {o : State} {s : State} {a : Addr} {len : Nat} (hF : 0x80000 ||| F = F) (hk : State.Kept qu F o s) : State.Kept qu F o (State.verifySeal s a len) := by
  unfold State.verifySeal
  extract_lets +onlyGivenNames v80
  clear_value v80
  extract_lets +onlyGivenNames v79
  clear_value v79
  extract_lets +onlyGivenNames v78
  clear_value v78
  refine State.kept_ite (fun _ => ?_) (fun _ => ?_)
  · refine State.onAgent_kept (sub_of hF rfl) ?_
    with_reducible assumption
  · extract_lets +onlyGivenNames v76
    clear_value v76
    refine State.onAgent_kept (sub_of hF rfl) ?_
    with_reducible assumption

theorem State.agResume_kept {qu : List Instr} {F : Nat} {o : State} {s : State} {a : Addr} (hF : 0x80000 ||| F = F) (hk : State.Kept qu F o s) : State.Kept qu F o (State.agResume s a) := by
  unfold State.agResume
  refine State.agPumpAll_kept (sub_of hF rfl) ?_
  refine State.onAgent_kept (sub_of hF rfl) ?_
  with_reducible assumption

theorem State.flushDrain_kept {qu : List Instr} {F : Nat} {o : State} {s : State} {a : Addr} {d : Nat} (hF : 0x1000080001 ||| F = F) (hk : State.Kept qu F o s) : State.Kept qu F o (State.flushDrain s a d) := by
  unfold State.flushDrain
  refine State.kept_ite (fun _ => ?_) (fun _ => ?_)
  · refine State.countReg_kept (bit_of hF rfl) ?_
    refine State.agFlush_kept (sub_of hF rfl) ?_
    with_reducible assumption
  · with_reducible assumption

theorem State.agLight_kept {qu : List Instr} {F : Nat} {o : State} {s : State} {a : Addr} (hF : 0x1000080001 ||| F = F) (hk : State.Kept qu F o s) : State.Kept qu F o (State.agLight s a) := by
  unfold State.agLight
  extract_lets +onlyGivenNames v80
  clear_value v80
  refine State.kept_ite (fun _ => ?_) (fun _ => ?_)
  · with_reducible assumption
  · extract_lets +onlyGivenNames v78
    clear_value v78
    extract_lets +onlyGivenNames v77
    have hv77 : State.Kept qu F o v77 := by
      unfold v77
      refine State.kept_ite (fun _ => ?_) (fun _ => ?_)
      · refine State.agFlush_kept (sub_of hF rfl) ?_
        refine State.flushDrain_kept (sub_of hF rfl) ?_
        with_reducible assumption
      · with_reducible assumption
    clear_value v77
    extract_lets +onlyGivenNames v76
    clear_value v76
    extract_lets +onlyGivenNames v75
    clear_value v75
    extract_lets +onlyGivenNames v74
    clear_value v74
    extract_lets +onlyGivenNames v73
    clear_value v73
    extract_lets +onlyGivenNames v72
    extract_lets +onlyGivenNames v71
    clear_value v71
    extract_lets +onlyGivenNames v70
    clear_value v70
    extract_lets +onlyGivenNames v69
    clear_value v69
    refine State.keysNow_kept (sub_of hF rfl) ?_
    refine State.onAgent_kept (sub_of hF rfl) ?_
    with_reducible assumption

theorem State.armCtrl_kept {qu : List Instr} {F : Nat} {o : State} {s : State} {a : Addr} {w : Word} (hF : 0x80000 ||| F = F) (hk : State.Kept qu F o s) : State.Kept qu F o (State.armCtrl s a w) := by
  unfold State.armCtrl
  refine State.kept_ite (fun _ => ?_) (fun _ => ?_)
  · refine State.onAgent_kept (sub_of hF rfl) ?_
    with_reducible assumption
  · refine State.kept_ite (fun _ => ?_) (fun _ => ?_)
    · refine State.agResume_kept (sub_of hF rfl) ?_
      refine State.onAgent_kept (sub_of hF rfl) ?_
      with_reducible assumption
    · refine State.kept_ite (fun _ => ?_) (fun _ => ?_)
      · refine State.onAgent_kept (sub_of hF rfl) ?_
        with_reducible assumption
      · with_reducible assumption

theorem State.takeGo_kept {qu : List Instr} {F : Nat} {o : State} {s : State} {a : Addr} {w : Word} (hF : 0x1000080001 ||| F = F) (hk : State.Kept qu F o s) : State.Kept qu F o (State.takeGo s a w) := by
  unfold State.takeGo
  extract_lets +onlyGivenNames v80
  clear_value v80
  refine State.kept_ite (fun _ => ?_) (fun _ => ?_)
  · with_reducible assumption
  · extract_lets +onlyGivenNames v78
    have hv78 : State.Kept qu F o v78 := by
      unfold v78
      refine State.onAgent_kept (sub_of hF rfl) ?_
      with_reducible assumption
    clear_value v78
    refine State.kept_ite (fun _ => ?_) (fun _ => ?_)
    · refine State.agLight_kept (sub_of hF rfl) ?_
      with_reducible assumption
    · with_reducible assumption

theorem State.freezeWord_kept {qu : List Instr} {F : Nat} {o : State} {s : State} {a : Addr} {w : Word} (hF : 0x80001 ||| F = F) (hk : State.Kept qu F o s) : State.Kept qu F o (State.freezeWord s a w).1 := by
  unfold State.freezeWord
  extract_lets +onlyGivenNames v80
  clear_value v80
  rw [apply_ite Prod.fst]
  refine State.kept_ite (fun _ => ?_) (fun _ => ?_)
  · rw [apply_ite Prod.fst]
    refine State.kept_ite (fun _ => ?_) (fun _ => ?_)
    · dsimp only
      refine State.onProg_kept (sub_of hF rfl) ?_
      with_reducible assumption
    · dsimp only
      refine State.freezeSlot_kept (sub_of hF rfl) ?_
      with_reducible assumption
  · rw [apply_ite Prod.fst]
    refine State.kept_ite (fun _ => ?_) (fun _ => ?_)
    · rw [apply_ite Prod.fst]
      refine State.kept_ite (fun _ => ?_) (fun _ => ?_)
      · dsimp only
        refine State.swResume_kept (sub_of hF rfl) ?_
        refine State.agPumpAll_kept (sub_of hF rfl) ?_
        refine State.onProg_kept (sub_of hF rfl) ?_
        with_reducible assumption
      · dsimp only
        refine State.thawSlot_kept (sub_of hF rfl) ?_
        with_reducible assumption
    · with_reducible assumption

theorem State.poke_kept {qu : List Instr} {F : Nat} {o : State} {s : State} {a : Addr} {addr : Nat} {w : Word} (hF : 0x1000080001 ||| F = F) (hk : State.Kept qu F o s) : State.Kept qu F o (State.poke s a addr w).1 := by
  unfold State.poke
  extract_lets +onlyGivenNames v80
  clear_value v80
  extract_lets +onlyGivenNames v79
  rw [apply_ite Prod.fst]
  refine State.kept_ite (fun _ => ?_) (fun _ => ?_)
  · dsimp only
    refine State.onAgent_kept (sub_of hF rfl) ?_
    with_reducible assumption
  · rw [apply_ite Prod.fst]
    refine State.kept_ite (fun _ => ?_) (fun _ => ?_)
    · extract_lets +onlyGivenNames v74
      have hv74 : State.Kept qu F o v74 := by
        unfold v74
        unfold v79
        refine State.onAgent_kept (sub_of hF rfl) ?_
        with_reducible assumption
      clear_value v74
      dsimp only
      refine State.kept_ite (fun _ => ?_) (fun _ => ?_)
      · refine State.agResume_kept (sub_of hF rfl) ?_
        refine State.onAgent_kept (sub_of hF rfl) ?_
        with_reducible assumption
      · with_reducible assumption
    · rw [apply_ite Prod.fst]
      refine State.kept_ite (fun _ => ?_) (fun _ => ?_)
      · dsimp only
        refine State.armCtrl_kept (sub_of hF rfl) ?_
        with_reducible assumption
      · rw [apply_ite Prod.fst]
        refine State.kept_ite (fun _ => ?_) (fun _ => ?_)
        · dsimp only
          refine State.takeGo_kept (sub_of hF rfl) ?_
          with_reducible assumption
        · rw [apply_ite Prod.fst]
          refine State.kept_ite (fun _ => ?_) (fun _ => ?_)
          · refine State.freezeWord_kept (sub_of hF rfl) ?_
            with_reducible assumption
          · rw [apply_ite Prod.fst]
            refine State.kept_ite (fun _ => ?_) (fun _ => ?_)
            · dsimp only
              refine State.onAgent_kept (sub_of hF rfl) ?_
              with_reducible assumption
            · rw [apply_ite Prod.fst]
              refine State.kept_ite (fun _ => ?_) (fun _ => ?_)
              · dsimp only
                refine State.kept_ite (fun _ => ?_) (fun _ => ?_)
                · refine State.onAgent_kept (sub_of hF rfl) ?_
                  with_reducible assumption
                · with_reducible assumption
              · rw [apply_ite Prod.fst]
                refine State.kept_ite (fun _ => ?_) (fun _ => ?_)
                · dsimp only
                  refine State.kept_ite (fun _ => ?_) (fun _ => ?_)
                  · refine State.onAgent_kept (sub_of hF rfl) ?_
                    with_reducible assumption
                  · with_reducible assumption
                · rw [apply_ite Prod.fst]
                  refine State.kept_ite (fun _ => ?_) (fun _ => ?_)
                  · extract_lets +onlyGivenNames v60
                    have hv60 : State.Kept qu F o v60 := by
                      unfold v60
                      refine State.onAgent_kept (sub_of hF rfl) ?_
                      unfold v79
                      refine State.onAgent_kept (sub_of hF rfl) ?_
                      with_reducible assumption
                    clear_value v60
                    dsimp only
                    refine State.keysNow_kept (sub_of hF rfl) ?_
                    with_reducible assumption
                  · rw [apply_ite Prod.fst]
                    refine State.kept_ite (fun _ => ?_) (fun _ => ?_)
                    · dsimp only
                      refine State.onAgent_kept (sub_of hF rfl) ?_
                      with_reducible assumption
                    · rw [apply_ite Prod.fst]
                      refine State.kept_ite (fun _ => ?_) (fun _ => ?_)
                      · dsimp only
                        refine State.onAgent_kept (sub_of hF rfl) ?_
                        with_reducible assumption
                      · rw [apply_ite Prod.fst]
                        refine State.kept_ite (fun _ => ?_) (fun _ => ?_)
                        · dsimp only
                          refine State.kept_ite (fun _ => ?_) (fun _ => ?_)
                          · refine State.kept_ite (fun _ => ?_) (fun _ => ?_)
                            · refine State.agDrop_kept (sub_of hF rfl) ?_
                              unfold v79
                              refine State.onAgent_kept (sub_of hF rfl) ?_
                              with_reducible assumption
                            · unfold v79
                              refine State.onAgent_kept (sub_of hF rfl) ?_
                              with_reducible assumption
                          · refine State.agPumpAll_kept (sub_of hF rfl) ?_
                            unfold v79
                            refine State.onAgent_kept (sub_of hF rfl) ?_
                            with_reducible assumption
                        · rw [apply_ite Prod.fst]
                          refine State.kept_ite (fun _ => ?_) (fun _ => ?_)
                          · dsimp only
                            refine State.kept_ite (fun _ => ?_) (fun _ => ?_)
                            · refine State.onAgent_kept (sub_of hF rfl) ?_
                              with_reducible assumption
                            · with_reducible assumption
                          · dsimp only
                            unfold v79
                            refine State.onAgent_kept (sub_of hF rfl) ?_
                            with_reducible assumption

theorem State.pokeAll_kept {qu : List Instr} {F : Nat} {o : State} {a : Addr} {addr : Nat} {ws : List Word} {s : State} (hF : 0x1000080001 ||| F = F) (hk : State.Kept qu F o s) :
    State.Kept qu F o (State.pokeAll a addr ws s).2.1 := by
  induction ws generalizing addr s with
  | nil =>
    rw [State.pokeAll]
    with_reducible assumption
  | cons w ws ih =>
    rw [State.pokeAll]
    split
    · with_reducible assumption
    · extract_lets +onlyGivenNames v79
      have hv79 : State.Kept qu F o v79.1 := by
        unfold v79
        refine State.poke_kept (sub_of hF rfl) ?_
        with_reducible assumption
      clear_value v79
      extract_lets +onlyGivenNames v78
      have hv78 : State.Kept qu F o v78.2.1 := by
        unfold v78
        apply ih
        with_reducible assumption
      clear_value v78
      with_reducible assumption

theorem State.drainCheck_kept {qu : List Instr} {F : Nat} {o : State} {s : State} {a : Addr} {before : Bool} (hF : 0x80000 ||| F = F) (hk : State.Kept qu F o s) : State.Kept qu F o (State.drainCheck s a before) := by
  unfold State.drainCheck
  extract_lets +onlyGivenNames v80
  clear_value v80
  refine State.kept_ite (fun _ => ?_) (fun _ => ?_)
  · refine State.agentEvent_kept (sub_of hF rfl) ?_
    with_reducible assumption
  · with_reducible assumption

theorem State.setUnit_kept {qu : List Instr} {F : Nat} {o : State} {s : State} {a : Addr} {i state : Nat} (hF : 0x80000 ||| F = F) (hk : State.Kept qu F o s) : State.Kept qu F o (State.setUnit s a i state) := by
  unfold State.setUnit
  refine State.onAgent_kept (sub_of hF rfl) ?_
  with_reducible assumption

theorem State.enableSlot_kept {qu : List Instr} {F : Nat} {o : State} {s : State} {a : Addr} {slot addr n : Nat} (hF : 0x80000 ||| F = F) (hk : State.Kept qu F o s) : State.Kept qu F o (State.enableSlot s a slot addr n) := by
  unfold State.enableSlot
  extract_lets +onlyGivenNames v80
  clear_value v80
  extract_lets +onlyGivenNames v79
  clear_value v79
  extract_lets +onlyGivenNames v78
  clear_value v78
  extract_lets +onlyGivenNames v77
  clear_value v77
  refine State.kept_ite (fun _ => ?_) (fun _ => ?_)
  · extract_lets +onlyGivenNames v75
    clear_value v75
    refine State.onAgSlot_kept (sub_of hF rfl) ?_
    refine State.setUnit_kept (sub_of hF rfl) ?_
    with_reducible assumption
  · refine State.kept_ite (fun _ => ?_) (fun _ => ?_)
    · refine State.onAgSlot_kept (sub_of hF rfl) ?_
      with_reducible assumption
    · with_reducible assumption

theorem State.slotWritten_kept {qu : List Instr} {F : Nat} {o : State} {s0 s : State} {a : Addr} {addr n slot : Nat} (hF : 0x80001 ||| F = F) (hk : State.Kept qu F o s) : State.Kept qu F o (State.slotWritten s0 s a addr n slot) := by
  unfold State.slotWritten
  extract_lets +onlyGivenNames v80
  clear_value v80
  extract_lets +onlyGivenNames v79
  clear_value v79
  extract_lets +onlyGivenNames v78
  have hv78 : State.Kept qu F o v78 := by
    unfold v78
    refine State.kept_ite (fun _ => ?_) (fun _ => ?_)
    · refine State.agDrop_kept (sub_of hF rfl) ?_
      refine State.onAgent_kept (sub_of hF rfl) ?_
      with_reducible assumption
    · refine State.kept_ite (fun _ => ?_) (fun _ => ?_)
      · refine State.onAgSlot_kept (sub_of hF rfl) ?_
        with_reducible assumption
      · refine State.kept_ite (fun _ => ?_) (fun _ => ?_)
        · split
          · refine State.abortSlot_kept (sub_of hF rfl) ?_
            with_reducible assumption
          · refine State.abortSlot_kept (sub_of hF rfl) ?_
            with_reducible assumption
        · with_reducible assumption
  clear_value v78
  refine State.startQueued_kept (sub_of hF rfl) ?_
  refine State.enableSlot_kept (sub_of hF rfl) ?_
  with_reducible assumption

theorem State.enableProg_kept {qu : List Instr} {F : Nat} {o : State} {s : State} {a : Addr} {ctx addr n : Nat} (hF : 0x80000 ||| F = F) (hk : State.Kept qu F o s) : State.Kept qu F o (State.enableProg s a ctx addr n) := by
  unfold State.enableProg
  extract_lets +onlyGivenNames v80
  clear_value v80
  refine State.kept_ite (fun _ => ?_) (fun _ => ?_)
  · with_reducible assumption
  · extract_lets +onlyGivenNames v78
    clear_value v78
    refine State.kept_ite (fun _ => ?_) (fun _ => ?_)
    · refine State.onProg_kept (sub_of hF rfl) ?_
      refine State.setUnit_kept (sub_of hF rfl) ?_
      with_reducible assumption
    · refine State.onAgent_kept (sub_of hF rfl) ?_
      with_reducible assumption

theorem State.programmeWritten_kept {qu : List Instr} {F : Nat} {o : State} {s0 s : State} {a : Addr} {addr n ctx : Nat} (hF : 0x80000 ||| F = F) (hk : State.Kept qu F o s) : State.Kept qu F o (State.programmeWritten s0 s a addr n ctx) := by
  unfold State.programmeWritten
  extract_lets +onlyGivenNames v80
  clear_value v80
  extract_lets +onlyGivenNames v79
  clear_value v79
  extract_lets +onlyGivenNames v78
  have hv78 : State.Kept qu F o v78 := by
    unfold v78
    refine State.kept_ite (fun _ => ?_) (fun _ => ?_)
    · refine State.agDrop_kept (sub_of hF rfl) ?_
      refine State.onAgent_kept (sub_of hF rfl) ?_
      with_reducible assumption
    · with_reducible assumption
  clear_value v78
  refine State.enableProg_kept (sub_of hF rfl) ?_
  with_reducible assumption

theorem State.enableDue_kept {qu : List Instr} {F : Nat} {o : State} {s : State} {a : Addr} (hF : 0x80000 ||| F = F) (hk : State.Kept qu F o s) : State.Kept qu F o (State.enableDue s a) := by
  unfold State.enableDue
  extract_lets +onlyGivenNames v80
  clear_value v80
  refine State.kept_ite (fun _ => ?_) (fun _ => ?_)
  · refine State.kept_foldl ?_ ?_
    · with_reducible assumption
    · intro s77 x76 h75
      refine State.onProg_kept (sub_of hF rfl) ?_
      refine State.setUnit_kept (sub_of hF rfl) ?_
      with_reducible assumption
  · refine State.kept_foldl ?_ ?_
    · with_reducible assumption
    · intro s77 x76 h75
      refine State.onAgSlot_kept (sub_of hF rfl) ?_
      refine State.setUnit_kept (sub_of hF rfl) ?_
      with_reducible assumption

theorem State.programmeCleared_kept {qu : List Instr} {F : Nat} {o : State} {s : State} {a : Addr} {ctx : Nat} (hF : 0x80000 ||| F = F) (hk : State.Kept qu F o s) : State.Kept qu F o (State.programmeCleared s a ctx) := by
  unfold State.programmeCleared
  split
  · with_reducible assumption
  · extract_lets +onlyGivenNames v79
    clear_value v79
    extract_lets +onlyGivenNames v78
    clear_value v78
    extract_lets +onlyGivenNames v77
    clear_value v77
    refine State.agDrop_kept (sub_of hF rfl) ?_
    refine State.onProg_kept (sub_of hF rfl) ?_
    with_reducible assumption

theorem State.afterWrite_kept {qu : List Instr} {F : Nat} {o : State} {s0 s : State} {a : Addr} {addr n : Nat} (hF : 0x80001 ||| F = F) (hk : State.Kept qu F o s) : State.Kept qu F o (State.afterWrite s0 s a addr n) := by
  unfold State.afterWrite
  extract_lets +onlyGivenNames v80
  clear_value v80
  extract_lets +onlyGivenNames v79
  clear_value v79
  refine State.kept_ite (fun _ => ?_) (fun _ => ?_)
  · refine State.kept_foldl ?_ ?_
    · refine State.kept_foldl ?_ ?_
      · with_reducible assumption
      · intro s75 x74 h73
        refine State.programmeWritten_kept (sub_of hF rfl) ?_
        with_reducible assumption
    · intro s76 x75 h74
      refine State.programmeCleared_kept (sub_of hF rfl) ?_
      with_reducible assumption
  · refine State.kept_foldl ?_ ?_
    · refine State.kept_foldl ?_ ?_
      · with_reducible assumption
      · intro s75 x74 h73
        refine State.slotWritten_kept (sub_of hF rfl) ?_
        with_reducible assumption
    · intro s76 x75 h74
      refine State.replayAgSlot_kept (sub_of hF rfl) ?_
      with_reducible assumption

theorem State.agWriteAll_kept {qu : List Instr} {F : Nat} {o : State} {s : State} {a : Addr} {addr : Nat} {words : List Word} (hF : 0x1000080001 ||| F = F) (hk : State.Kept qu F o s) : State.Kept qu F o (State.agWriteAll s a addr words).2.1 := by
  unfold State.agWriteAll
  split
  · with_reducible assumption
  · extract_lets +onlyGivenNames v79
    have hv79 : State.Kept qu F o v79.2.1 := by
      unfold v79
      refine State.pokeAll_kept (sub_of hF rfl) ?_
      with_reducible assumption
    clear_value v79
    split
    · with_reducible assumption
    · dsimp only
      refine State.drainCheck_kept (sub_of hF rfl) ?_
      refine State.afterWrite_kept (sub_of hF rfl) ?_
      with_reducible assumption

theorem State.journalWrite_kept {qu : List Instr} {F : Nat} {o : State} {s : State} {a : Addr} {h : MgmtHead} {addr : Nat} {words : List Word} (hF : 0x80000 ||| F = F) (hk : State.Kept qu F o s) : State.Kept qu F o (State.journalWrite s a h addr words) := by
  unfold State.journalWrite
  extract_lets +onlyGivenNames v80
  clear_value v80
  extract_lets +onlyGivenNames v79
  clear_value v79
  extract_lets +onlyGivenNames v78
  clear_value v78
  extract_lets +onlyGivenNames v77
  clear_value v77
  extract_lets +onlyGivenNames v76
  clear_value v76
  extract_lets +onlyGivenNames v75
  clear_value v75
  extract_lets +onlyGivenNames v74
  clear_value v74
  refine State.kept_ite (fun _ => ?_) (fun _ => ?_)
  · with_reducible assumption
  · refine State.onAgent_kept (sub_of hF rfl) ?_
    with_reducible assumption

theorem State.mgmtReply_kept {qu : List Instr} {F : Nat} {o : State} {s : State} {a : Addr} {h : MgmtHead} {addr status : Nat} {words : List Word} (hF : 0x80000 ||| F = F) (hk : State.Kept qu F o s) : State.Kept qu F o (State.mgmtReply s a h addr status words) := by
  unfold State.mgmtReply
  extract_lets +onlyGivenNames v80
  clear_value v80
  refine State.kept_ite (fun _ => ?_) (fun _ => ?_)
  · refine State.originateCoord_kept (sub_of hF rfl) ?_
    with_reducible assumption
  · refine State.agentSend_kept (sub_of hF rfl) ?_
    with_reducible assumption

theorem State.agentWrite_kept {qu : List Instr} {F : Nat} {o : State} {s : State} {a : Addr} {h : MgmtHead} {addr : Nat} {words : List Word} (hF : 0x1000080001 ||| F = F) (hk : State.Kept qu F o s) : State.Kept qu F o (State.agentWrite s a h addr words) := by
  unfold State.agentWrite
  extract_lets +onlyGivenNames v80
  have hv80 : State.Kept qu F o v80 := by
    unfold v80
    refine State.agCredits_kept (sub_of hF rfl) ?_
    with_reducible assumption
  clear_value v80
  refine State.kept_ite (fun _ => ?_) (fun _ => ?_)
  · refine State.agMalformed_kept (sub_of hF rfl) ?_
    with_reducible assumption
  · refine State.kept_ite (fun _ => ?_) (fun _ => ?_)
    · extract_lets +onlyGivenNames v77
      have hv77 : State.Kept qu F o v77.2.1 := by
        unfold v77
        refine State.agWriteAll_kept (sub_of hF rfl) ?_
        with_reducible assumption
      clear_value v77
      refine State.kept_ite (fun _ => ?_) (fun _ => ?_)
      · refine State.onAgent_kept (sub_of hF rfl) ?_
        with_reducible assumption
      · refine State.journalWrite_kept (sub_of hF rfl) ?_
        with_reducible assumption
    · extract_lets +onlyGivenNames v77
      clear_value v77
      split
      · refine State.mgmtReply_kept (sub_of hF rfl) ?_
        with_reducible assumption
      · extract_lets +onlyGivenNames v75
        have hv75 : State.Kept qu F o v75.2.1 := by
          unfold v75
          refine State.agWriteAll_kept (sub_of hF rfl) ?_
          with_reducible assumption
        clear_value v75
        extract_lets +onlyGivenNames v74
        have hv74 : State.Kept qu F o v74 := by
          unfold v74
          refine State.kept_ite (fun _ => ?_) (fun _ => ?_)
          · refine State.journalWrite_kept (sub_of hF rfl) ?_
            with_reducible assumption
          · with_reducible assumption
        clear_value v74
        extract_lets +onlyGivenNames v73
        clear_value v73
        refine State.mgmtReply_kept (sub_of hF rfl) ?_
        refine State.onAgent_kept (sub_of hF rfl) ?_
        with_reducible assumption

theorem State.agentRead_kept {qu : List Instr} {F : Nat} {o : State} {s : State} {a : Addr} {h : MgmtHead} {addr count : Nat} (hF : 0x80001 ||| F = F) (hk : State.Kept qu F o s) : State.Kept qu F o (State.agentRead s a h addr count) := by
  unfold State.agentRead
  extract_lets +onlyGivenNames v80
  have hv80 : State.Kept qu F o v80 := by
    unfold v80
    refine State.agCredits_kept (sub_of hF rfl) ?_
    with_reducible assumption
  clear_value v80
  refine State.kept_ite (fun _ => ?_) (fun _ => ?_)
  · refine State.agMalformed_kept (sub_of hF rfl) ?_
    with_reducible assumption
  · extract_lets +onlyGivenNames v78
    clear_value v78
    refine State.mgmtReply_kept (sub_of hF rfl) ?_
    with_reducible assumption

end Sys2Proof.Machine
end

