-- ==== Sys2Proof/Laws/KeptLantern.lean ====
section
/-! SUPPORT. Laws/KeptLantern.lean: each operation of Machine/Lantern.lean keeps the queue and the invariant. -/
namespace Sys2Proof.Machine

theorem execLanternContrib_kept {qu : List Instr} {F : Nat} {o : State} {port : Nat} {p : Packet} {fault : Option (Word × Bool)} {s : State} (hF : 0x10d0000065449 ||| F = F) (hk : State.Kept qu F o s) : Runs qu F o (execLanternContrib port p fault s) := by
  unfold execLanternContrib
  refine runs_next ?_
  refine State.progress_kept (sub_of hF rfl) ?_
  refine State.lanternUp_kept (sub_of hF rfl) ?_
  with_reducible assumption

theorem execLanternPartial_kept {qu : List Instr} {F : Nat} {o : State} {port : Nat} {p : Packet} {fault : Option (Word × Bool)} {s : State} (hF : 0x10d0000065449 ||| F = F) (hk : State.Kept qu F o s) : Runs qu F o (execLanternPartial port p fault s) := by
  unfold execLanternPartial
  refine runs_next ?_
  refine State.progress_kept (sub_of hF rfl) ?_
  refine State.lanternUp_kept (sub_of hF rfl) ?_
  with_reducible assumption

theorem execLanternNeed_kept {qu : List Instr} {F : Nat} {o : State} {port : Nat} {p : Packet} {s : State} (hF : 0x10d0000065449 ||| F = F) (hk : State.Kept qu F o s) : Runs qu F o (execLanternNeed port p s) := by
  unfold execLanternNeed
  refine runs_next ?_
  refine State.progress_kept (sub_of hF rfl) ?_
  refine State.lanternUp_kept (sub_of hF rfl) ?_
  with_reducible assumption

theorem execNeedTimer_kept {qu : List Instr} {F : Nat} {o : State} {ctx : Nat} {s : State} (hF : 0x80000001049 ||| F = F) (hk : State.Kept qu F o s) : Runs qu F o (execNeedTimer ctx s) := by
  unfold execNeedTimer
  extract_lets +onlyGivenNames v80
  clear_value v80
  split
  · refine runs_next ?_
    with_reducible assumption
  · refine runs_next ?_
    refine State.kept_foldl ?_ ?_
    · with_reducible assumption
    · intro s76 x75 h74
      extract_lets +onlyGivenNames v73
      have hv73 : State.Kept qu F o v73 := by
        unfold v73
        refine State.onLnt_kept (sub_of hF rfl) ?_
        with_reducible assumption
      clear_value v73
      refine State.raise_kept (sub_of hF rfl) (bit_of hF rfl) ?_
      refine State.countReg_kept (bit_of hF rfl) ?_
      refine State.lntFlood_kept (sub_of hF rfl) ?_
      with_reducible assumption

end Sys2Proof.Machine
end

