-- ==== Sys2Proof/Laws/KeptLinks.lean ====
section
/-! SUPPORT. Laws/KeptLinks.lean: each operation of Machine/Links.lean keeps the queue and the invariant. -/
namespace Sys2Proof.Machine

theorem execLasersReady_kept {qu : List Instr} {F : Nat} {o : State} {s : State} (hF : 0x40 ||| F = F) (hk : State.Kept qu F o s) : Runs qu F o (execLasersReady s) := by
  unfold execLasersReady
  refine runs_next ?_
  refine State.kept_ite (fun _ => ?_) (fun _ => ?_)
  · refine State.pumpTraining_kept (sub_of hF rfl) ?_
    refine State.kept_link (bit_of hF rfl) ?_
    with_reducible assumption
  · with_reducible assumption

theorem State.trained_kept {qu : List Instr} {F : Nat} {o : State} {s : State} {n failed : Nat} (hF : 0x14104000264db ||| F = F) (hk : State.Kept qu F o s) : State.Kept qu F o (State.trained s n failed) := by
  unfold State.trained
  extract_lets +onlyGivenNames v80
  have hv80 : State.Kept qu F o v80 := by
    unfold v80
    refine State.onPort_kept (sub_of hF rfl) ?_
    with_reducible assumption
  clear_value v80
  refine State.kept_ite (fun _ => ?_) (fun _ => ?_)
  · refine State.startSecure_kept (sub_of hF rfl) ?_
    refine State.portTo_kept (sub_of hF rfl) ?_
    with_reducible assumption
  · refine State.portTo_kept (sub_of hF rfl) ?_
    with_reducible assumption

theorem State.trainFailed_kept {qu : List Instr} {F : Nat} {o : State} {s : State} {n failed : Nat} {loopbackOk : Bool} (hF : 0x1c104000264d9 ||| F = F) (hk : State.Kept qu F o s) : State.Kept qu F o (State.trainFailed s n failed loopbackOk) := by
  unfold State.trainFailed
  extract_lets +onlyGivenNames v80
  have hv80 : State.Kept qu F o v80 := by
    unfold v80
    refine State.onPort_kept (sub_of hF rfl) ?_
    with_reducible assumption
  clear_value v80
  extract_lets +onlyGivenNames v79
  clear_value v79
  refine State.kept_ite (fun _ => ?_) (fun _ => ?_)
  · extract_lets +onlyGivenNames v77
    extract_lets +onlyGivenNames v76
    extract_lets +onlyGivenNames v75
    have hv75 : State.Kept qu F o v75 := by
      unfold v75
      refine State.onPort_kept (sub_of hF rfl) ?_
      with_reducible assumption
    clear_value v75
    extract_lets +onlyGivenNames v74
    have hv74 : State.Kept qu F o v74 := by
      unfold v74
      refine State.raiseIf_kept (sub_of hF rfl) (bit_of hF rfl) ?_
      refine State.portClass_kept (sub_of hF rfl) ?_
      refine State.portTo_kept (sub_of hF rfl) ?_
      with_reducible assumption
    clear_value v74
    refine State.kept_ite (fun _ => ?_) (fun _ => ?_)
    · refine State.positionFails_kept (sub_of hF rfl) ?_
      refine State.onPos_kept (sub_of hF rfl) ?_
      with_reducible assumption
    · with_reducible assumption
  · refine State.portTo_kept (sub_of hF rfl) ?_
    refine State.onPort_kept (sub_of hF rfl) ?_
    with_reducible assumption

theorem execPortTrainDone_kept {qu : List Instr} {F : Nat} {o : State} {port : Nat} {failed : Nat} {loopbackOk : Bool} {s : State} (hF : 0x1c104000264db ||| F = F) (hk : State.Kept qu F o s) : Runs qu F o (execPortTrainDone port failed loopbackOk s) := by
  unfold execPortTrainDone
  refine runs_ite (fun _ => ?_) (fun _ => ?_)
  · extract_lets +onlyGivenNames v79
    clear_value v79
    extract_lets +onlyGivenNames v78
    clear_value v78
    extract_lets +onlyGivenNames v77
    have hv77 : State.Kept qu F o v77 := by
      unfold v77
      refine State.kept_link (bit_of hF rfl) ?_
      with_reducible assumption
    clear_value v77
    extract_lets +onlyGivenNames v76
    have hv76 : State.Kept qu F o v76 := by
      unfold v76
      refine State.kept_ite (fun _ => ?_) (fun _ => ?_)
      · refine State.trained_kept (sub_of hF rfl) ?_
        with_reducible assumption
      · refine State.trainFailed_kept (sub_of hF rfl) ?_
        with_reducible assumption
    clear_value v76
    refine runs_next ?_
    refine State.pumpTraining_kept (sub_of hF rfl) ?_
    with_reducible assumption
  · refine runs_next ?_
    with_reducible assumption

theorem execHello_kept {qu : List Instr} {F : Nat} {o : State} {port : Nat} {bytes : List Byte} {s : State} (hF : 0x14144000364d9 ||| F = F) (hk : State.Kept qu F o s) : Runs qu F o (execHello port bytes s) := by
  unfold execHello
  refine runs_ite (fun _ => ?_) (fun _ => ?_)
  · extract_lets +onlyGivenNames v79
    clear_value v79
    extract_lets +onlyGivenNames v78
    clear_value v78
    extract_lets +onlyGivenNames v77
    clear_value v77
    extract_lets +onlyGivenNames v76
    clear_value v76
    refine runs_ite (fun _ => ?_) (fun _ => ?_)
    · refine runs_next ?_
      refine State.askConfirm_kept (sub_of hF rfl) ?_
      refine State.onPort_kept (sub_of hF rfl) ?_
      with_reducible assumption
    · refine runs_next ?_
      refine State.refuseIdentity_kept (sub_of hF rfl) ?_
      with_reducible assumption
  · refine runs_next ?_
    with_reducible assumption

theorem execLinkConfirm_kept {qu : List Instr} {F : Nat} {o : State} {port : Nat} {bytes : List Byte} {s : State} (hF : 0x14144000264d9 ||| F = F) (hk : State.Kept qu F o s) : Runs qu F o (execLinkConfirm port bytes s) := by
  unfold execLinkConfirm
  extract_lets +onlyGivenNames v80
  clear_value v80
  refine runs_ite (fun _ => ?_) (fun _ => ?_)
  · split
    · refine runs_next ?_
      refine State.refuseIdentity_kept (sub_of hF rfl) ?_
      with_reducible assumption
    · extract_lets +onlyGivenNames v77
      clear_value v77
      refine runs_ite (fun _ => ?_) (fun _ => ?_)
      · extract_lets +onlyGivenNames v75
        have hv75 : State.Kept qu F o v75 := by
          unfold v75
          refine State.onPort_kept (sub_of hF rfl) ?_
          with_reducible assumption
        clear_value v75
        refine runs_next ?_
        refine State.kept_ite (fun _ => ?_) (fun _ => ?_)
        · refine State.portTo_kept (sub_of hF rfl) ?_
          refine State.onPort_kept (sub_of hF rfl) ?_
          with_reducible assumption
        · refine State.portTo_kept (sub_of hF rfl) ?_
          with_reducible assumption
      · refine runs_next ?_
        refine State.refuseIdentity_kept (sub_of hF rfl) ?_
        with_reducible assumption
  · refine runs_next ?_
    with_reducible assumption

theorem execKeyAgreementTimeout_kept {qu : List Instr} {F : Nat} {o : State} {port : Nat} {s : State} (hF : 0x14104000264d9 ||| F = F) (hk : State.Kept qu F o s) : Runs qu F o (execKeyAgreementTimeout port s) := by
  unfold execKeyAgreementTimeout
  extract_lets +onlyGivenNames v80
  clear_value v80
  refine runs_ite (fun _ => ?_) (fun _ => ?_)
  · refine runs_ite (fun _ => ?_) (fun _ => ?_)
    · refine runs_next ?_
      refine State.trainPort_kept (sub_of hF rfl) ?_
      refine State.onPort_kept (sub_of hF rfl) ?_
      with_reducible assumption
    · refine runs_next ?_
      refine State.portTo_kept (sub_of hF rfl) ?_
      refine State.onPort_kept (sub_of hF rfl) ?_
      with_reducible assumption
  · refine runs_next ?_
    with_reducible assumption

theorem State.verifyBeacon_kept {qu : List Instr} {F : Nat} {o : State} {s : State} {n : Nat} {f : Found} {lstate : Nat} (hF : 0x14104000264d9 ||| F = F) (hk : State.Kept qu F o s) : State.Kept qu F o (State.verifyBeacon s n f lstate) := by
  unfold State.verifyBeacon
  extract_lets +onlyGivenNames v80
  clear_value v80
  extract_lets +onlyGivenNames v79
  have hv79 : State.Kept qu F o v79 := by
    unfold v79
    refine State.onPort_kept (sub_of hF rfl) ?_
    with_reducible assumption
  clear_value v79
  refine State.kept_ite (fun _ => ?_) (fun _ => ?_)
  · refine State.judgePort_kept (sub_of hF rfl) ?_
    refine State.onPort_kept (sub_of hF rfl) ?_
    with_reducible assumption
  · with_reducible assumption

theorem State.litBeacon_kept {qu : List Instr} {F : Nat} {o : State} {s : State} {n : Nat} {f : Found} (hF : 0x14104000264d9 ||| F = F) (hk : State.Kept qu F o s) : State.Kept qu F o (State.litBeacon s n f) := by
  unfold State.litBeacon
  extract_lets +onlyGivenNames v80
  clear_value v80
  refine State.kept_ite (fun _ => ?_) (fun _ => ?_)
  · refine State.miswired_kept (sub_of hF rfl) ?_
    refine State.onPort_kept (sub_of hF rfl) ?_
    with_reducible assumption
  · extract_lets +onlyGivenNames v78
    have hv78 : State.Kept qu F o v78 := by
      unfold v78
      refine State.onPort_kept (sub_of hF rfl) ?_
      with_reducible assumption
    clear_value v78
    extract_lets +onlyGivenNames v77
    clear_value v77
    refine State.portTo_kept (sub_of hF rfl) ?_
    with_reducible assumption

theorem execBeacon_kept {qu : List Instr} {F : Nat} {o : State} {port : Nat} {p : Packet} {s : State} (hF : 0x14104000264d9 ||| F = F) (hk : State.Kept qu F o s) : Runs qu F o (execBeacon port p s) := by
  unfold execBeacon
  extract_lets +onlyGivenNames v80
  have hv80 : State.Kept qu F o v80 := by
    unfold v80
    refine State.received_kept (sub_of hF rfl) ?_
    with_reducible assumption
  clear_value v80
  split
  · rename_i n79_0 n79_1 n79_2
    have hn79_2 : State.Kept qu F o n79_1 := by
      refine State.refused_kept (sub_of hF rfl) ?_ _ n79_2
      with_reducible assumption
    refine runs_next ?_
    with_reducible assumption
  · extract_lets +onlyGivenNames v78
    clear_value v78
    refine runs_ite (fun _ => ?_) (fun _ => ?_)
    · refine runs_next ?_
      refine State.refusePacket_kept (sub_of hF rfl) ?_
      with_reducible assumption
    · extract_lets +onlyGivenNames v76
      have hv76 : State.Kept qu F o v76 := by
        unfold v76
        refine State.returnCredits_kept (sub_of hF rfl) ?_
        with_reducible assumption
      clear_value v76
      extract_lets +onlyGivenNames v75
      clear_value v75
      extract_lets +onlyGivenNames v74
      have hv74 : State.Kept qu F o v74 := by
        unfold v74
        refine State.onPort_kept (sub_of hF rfl) ?_
        with_reducible assumption
      clear_value v74
      split
      · refine runs_next ?_
        refine State.verifyBeacon_kept (sub_of hF rfl) ?_
        with_reducible assumption
      · refine runs_next ?_
        refine State.litBeacon_kept (sub_of hF rfl) ?_
        with_reducible assumption
      · refine runs_next ?_
        refine State.litBeacon_kept (sub_of hF rfl) ?_
        with_reducible assumption
      · refine runs_next ?_
        with_reducible assumption

theorem execBeaconSend_kept {qu : List Instr} {F : Nat} {o : State} {port : Nat} {s : State} (hF : 0x40 ||| F = F) (hk : State.Kept qu F o s) : Runs qu F o (execBeaconSend port s) := by
  unfold execBeaconSend
  extract_lets +onlyGivenNames v80
  clear_value v80
  refine runs_next ?_
  refine State.kept_ite (fun _ => ?_) (fun _ => ?_)
  · refine State.enqueue_kept (sub_of hF rfl) ?_
    with_reducible assumption
  · with_reducible assumption

theorem execVerifyTimeout_kept {qu : List Instr} {F : Nat} {o : State} {port : Nat} {s : State} (hF : 0x14104000264d9 ||| F = F) (hk : State.Kept qu F o s) : Runs qu F o (execVerifyTimeout port s) := by
  unfold execVerifyTimeout
  extract_lets +onlyGivenNames v80
  clear_value v80
  refine runs_ite (fun _ => ?_) (fun _ => ?_)
  · extract_lets +onlyGivenNames v78
    have hv78 : State.Kept qu F o v78 := by
      unfold v78
      refine State.portTo_kept (sub_of hF rfl) ?_
      with_reducible assumption
    clear_value v78
    refine runs_ite (fun _ => ?_) (fun _ => ?_)
    · refine runs_next ?_
      refine State.raiseIf_kept (sub_of hF rfl) (bit_of hF rfl) ?_
      refine State.portClass_kept (sub_of hF rfl) ?_
      with_reducible assumption
    · refine runs_next ?_
      with_reducible assumption
  · refine runs_next ?_
    with_reducible assumption

theorem execBeaconLoss_kept {qu : List Instr} {F : Nat} {o : State} {port : Nat} {s : State} (hF : 0x14104000264d9 ||| F = F) (hk : State.Kept qu F o s) : Runs qu F o (execBeaconLoss port s) := by
  unfold execBeaconLoss
  extract_lets +onlyGivenNames v80
  clear_value v80
  refine runs_next ?_
  refine State.kept_ite (fun _ => ?_) (fun _ => ?_)
  · refine State.portTo_kept (sub_of hF rfl) ?_
    with_reducible assumption
  · with_reducible assumption

theorem execDarkRetry_kept {qu : List Instr} {F : Nat} {o : State} {port : Nat} {s : State} (hF : 0x14104000264d9 ||| F = F) (hk : State.Kept qu F o s) : Runs qu F o (execDarkRetry port s) := by
  unfold execDarkRetry
  refine runs_next ?_
  refine State.kept_ite (fun _ => ?_) (fun _ => ?_)
  · refine State.trainPort_kept (sub_of hF rfl) ?_
    with_reducible assumption
  · with_reducible assumption

theorem execSparePositionMoveDone_kept {qu : List Instr} {F : Nat} {o : State} {port : Nat} {s : State} (hF : 0x1c104000264d9 ||| F = F) (hk : State.Kept qu F o s) : Runs qu F o (execSparePositionMoveDone port s) := by
  unfold execSparePositionMoveDone
  split
  · refine runs_next ?_
    with_reducible assumption
  · extract_lets +onlyGivenNames v1079
    extract_lets +onlyGivenNames v1078
    extract_lets +onlyGivenNames v1077
    have hv1077 : State.Kept qu F o v1077 := by
      unfold v1077
      refine State.kept_link (bit_of hF rfl) ?_
      with_reducible assumption
    extract_lets +onlyGivenNames v1076
    have hv1076 : State.Kept qu F o v1076 := by
      unfold v1076
      refine State.onPos_kept (sub_of hF rfl) ?_
      refine State.onPos_kept (sub_of hF rfl) ?_
      with_reducible assumption
    extract_lets +onlyGivenNames v1075
    have hv1075 : State.Kept qu F o v1075 := by
      unfold v1075
      refine State.raise_kept (sub_of hF rfl) (bit_of hF rfl) ?_
      refine State.reserve_kept (sub_of hF rfl) ?_
      refine State.onPort_kept (sub_of hF rfl) ?_
      with_reducible assumption
    refine runs_next ?_
    refine State.kept_ite (fun _ => ?_) (fun _ => ?_)
    · refine State.trainPort_kept (sub_of hF rfl) ?_
      with_reducible assumption
    · with_reducible assumption

theorem execLaneSignalLoss_kept {qu : List Instr} {F : Nat} {o : State} {port : Nat} {lane : Nat} {s : State} (hF : 0x1c104000264d9 ||| F = F) (hk : State.Kept qu F o s) : Runs qu F o (execLaneSignalLoss port lane s) := by
  unfold execLaneSignalLoss
  refine runs_next ?_
  refine State.kept_ite (fun _ => ?_) (fun _ => ?_)
  · refine State.failLanes_kept (sub_of hF rfl) ?_
    with_reducible assumption
  · with_reducible assumption

theorem execLaneChange_kept {qu : List Instr} {F : Nat} {o : State} {port : Nat} {failed : Nat} {s : State} (hF : 0x1c104000264d9 ||| F = F) (hk : State.Kept qu F o s) : Runs qu F o (execLaneChange port failed s) := by
  unfold execLaneChange
  extract_lets +onlyGivenNames v80
  clear_value v80
  refine runs_ite (fun _ => ?_) (fun _ => ?_)
  · extract_lets +onlyGivenNames v78
    clear_value v78
    refine runs_next ?_
    refine State.applyLanes_kept (sub_of hF rfl) ?_
    refine State.onPort_kept (sub_of hF rfl) ?_
    with_reducible assumption
  · refine runs_next ?_
    with_reducible assumption

theorem execLaserFault_kept {qu : List Instr} {F : Nat} {o : State} {position : Nat} {s : State} (hF : 0x1c104000264d9 ||| F = F) (hk : State.Kept qu F o s) : Runs qu F o (execLaserFault position s) := by
  unfold execLaserFault
  refine runs_ite (fun _ => ?_) (fun _ => ?_)
  · refine runs_next ?_
    with_reducible assumption
  · extract_lets +onlyGivenNames v79
    clear_value v79
    extract_lets +onlyGivenNames v78
    clear_value v78
    extract_lets +onlyGivenNames v77
    clear_value v77
    extract_lets +onlyGivenNames v76
    split
    · refine runs_next ?_
      refine State.positionFails_kept (sub_of hF rfl) ?_
      unfold v76
      refine State.kept_ite (fun _ => ?_) (fun _ => ?_)
      · refine State.portTo_kept (sub_of hF rfl) ?_
        with_reducible assumption
      · with_reducible assumption
    · extract_lets +onlyGivenNames v74
      clear_value v74
      extract_lets +onlyGivenNames v73
      have hv73 : State.Kept qu F o v73 := by
        unfold v73
        refine State.kept_link (bit_of hF rfl) ?_
        with_reducible assumption
      clear_value v73
      extract_lets +onlyGivenNames v72
      have hv72 : State.Kept qu F o v72 := by
        unfold v72
        refine State.reserve_kept (sub_of hF rfl) ?_
        unfold v76
        refine State.kept_ite (fun _ => ?_) (fun _ => ?_)
        · refine State.portTo_kept (sub_of hF rfl) ?_
          refine State.onPos_kept (sub_of hF rfl) ?_
          with_reducible assumption
        · refine State.onPos_kept (sub_of hF rfl) ?_
          with_reducible assumption
      clear_value v72
      refine runs_next ?_
      refine State.kept_ite (fun _ => ?_) (fun _ => ?_)
      · refine State.trainPort_kept (sub_of hF rfl) ?_
        with_reducible assumption
      · with_reducible assumption

theorem State.clearQuar_kept {qu : List Instr} {F : Nat} {o : State} {s : State} {value : Word} (hF : 0x14104000264d9 ||| F = F) (hk : State.Kept qu F o s) : State.Kept qu F o (State.clearQuar s value) := by
  unfold State.clearQuar
  extract_lets +onlyGivenNames v80
  clear_value v80
  extract_lets +onlyGivenNames v79
  clear_value v79
  refine State.kept_ite (fun _ => ?_) (fun _ => ?_)
  · extract_lets +onlyGivenNames v77
    have hv77 : State.Kept qu F o v77 := by
      unfold v77
      refine State.onPos_kept (sub_of hF rfl) ?_
      with_reducible assumption
    clear_value v77
    refine State.kept_ite (fun _ => ?_) (fun _ => ?_)
    · refine State.trainPort_kept (sub_of hF rfl) ?_
      with_reducible assumption
    · with_reducible assumption
  · with_reducible assumption

theorem execRekeyDue_kept {qu : List Instr} {F : Nat} {o : State} {port : Nat} {s : State} (hF : 0x41 ||| F = F) (hk : State.Kept qu F o s) : Runs qu F o (execRekeyDue port s) := by
  unfold execRekeyDue
  extract_lets +onlyGivenNames v80
  clear_value v80
  split
  · refine runs_next ?_
    with_reducible assumption
  · extract_lets +onlyGivenNames v78
    clear_value v78
    extract_lets +onlyGivenNames v77
    clear_value v77
    extract_lets +onlyGivenNames v76
    have hv76 : State.Kept qu F o v76 := by
      unfold v76
      refine State.onPort_kept (sub_of hF rfl) ?_
      with_reducible assumption
    clear_value v76
    refine runs_next ?_
    refine State.sendLcb_kept (sub_of hF rfl) ?_
    with_reducible assumption

theorem execRekey_kept {qu : List Instr} {F : Nat} {o : State} {port : Nat} {epoch : Word} {s : State} (hF : 0x40 ||| F = F) (hk : State.Kept qu F o s) : Runs qu F o (execRekey port epoch s) := by
  unfold execRekey
  split
  · refine runs_next ?_
    with_reducible assumption
  · extract_lets +onlyGivenNames v79
    clear_value v79
    refine runs_next ?_
    refine State.onPort_kept (sub_of hF rfl) ?_
    with_reducible assumption

theorem execParkEntry_kept {qu : List Instr} {F : Nat} {o : State} {port : Nat} {lanes : Option Nat} {s : State} (hF : 0x14104000264d9 ||| F = F) (hk : State.Kept qu F o s) : Runs qu F o (execParkEntry port lanes s) := by
  unfold execParkEntry
  extract_lets +onlyGivenNames v80
  clear_value v80
  refine runs_ite (fun _ => ?_) (fun _ => ?_)
  · split
    · refine runs_ite (fun _ => ?_) (fun _ => ?_)
      · extract_lets +onlyGivenNames v76
        clear_value v76
        refine runs_next ?_
        refine State.onPort_kept (sub_of hF rfl) ?_
        refine State.fillBuckets_kept (sub_of hF rfl) ?_
        with_reducible assumption
      · refine runs_next ?_
        with_reducible assumption
    · refine runs_ite (fun _ => ?_) (fun _ => ?_)
      · extract_lets +onlyGivenNames v76
        have hv76 : State.Kept qu F o v76 := by
          unfold v76
          refine State.portTo_kept (sub_of hF rfl) ?_
          refine State.onPort_kept (sub_of hF rfl) ?_
          with_reducible assumption
        clear_value v76
        refine runs_next ?_
        refine State.sendLcb_kept (sub_of hF rfl) ?_
        with_reducible assumption
      · refine runs_next ?_
        with_reducible assumption
  · refine runs_next ?_
    with_reducible assumption

theorem execPark_kept {qu : List Instr} {F : Nat} {o : State} {port : Nat} {depth : Nat} {s : State} (hF : 0x14104000264d9 ||| F = F) (hk : State.Kept qu F o s) : Runs qu F o (execPark port depth s) := by
  unfold execPark
  refine runs_next ?_
  refine State.kept_ite (fun _ => ?_) (fun _ => ?_)
  · refine State.portTo_kept (sub_of hF rfl) ?_
    refine State.onPort_kept (sub_of hF rfl) ?_
    with_reducible assumption
  · with_reducible assumption

theorem execLinkWakeRequest_kept {qu : List Instr} {F : Nat} {o : State} {port : Nat} {s : State} (hF : 0x41 ||| F = F) (hk : State.Kept qu F o s) : Runs qu F o (execLinkWakeRequest port s) := by
  unfold execLinkWakeRequest
  extract_lets +onlyGivenNames v80
  clear_value v80
  refine runs_ite (fun _ => ?_) (fun _ => ?_)
  · extract_lets +onlyGivenNames v78
    have hv78 : State.Kept qu F o v78 := by
      unfold v78
      refine State.onPort_kept (sub_of hF rfl) ?_
      with_reducible assumption
    clear_value v78
    refine runs_next ?_
    refine State.kept_ite (fun _ => ?_) (fun _ => ?_)
    · refine State.sendLcb_kept (sub_of hF rfl) ?_
      with_reducible assumption
    · with_reducible assumption
  · refine runs_next ?_
    with_reducible assumption

theorem execWake_kept {qu : List Instr} {F : Nat} {o : State} {port : Nat} {s : State} (hF : 0x40 ||| F = F) (hk : State.Kept qu F o s) : Runs qu F o (execWake port s) := by
  unfold execWake
  refine runs_next ?_
  refine State.kept_ite (fun _ => ?_) (fun _ => ?_)
  · refine State.onPort_kept (sub_of hF rfl) ?_
    with_reducible assumption
  · with_reducible assumption

theorem execWakeComplete_kept {qu : List Instr} {F : Nat} {o : State} {port : Nat} {failed : Nat} {s : State} (hF : 0x14104000264d9 ||| F = F) (hk : State.Kept qu F o s) : Runs qu F o (execWakeComplete port failed s) := by
  unfold execWakeComplete
  extract_lets +onlyGivenNames v80
  clear_value v80
  refine runs_ite (fun _ => ?_) (fun _ => ?_)
  · extract_lets +onlyGivenNames v78
    clear_value v78
    extract_lets +onlyGivenNames v77
    have hv77 : State.Kept qu F o v77 := by
      unfold v77
      refine State.onPort_kept (sub_of hF rfl) ?_
      with_reducible assumption
    clear_value v77
    refine runs_next ?_
    refine State.kept_ite (fun _ => ?_) (fun _ => ?_)
    · refine State.portTo_kept (sub_of hF rfl) ?_
      with_reducible assumption
    · refine State.portTo_kept (sub_of hF rfl) ?_
      with_reducible assumption
  · refine runs_next ?_
    with_reducible assumption

theorem State.sendFar_kept {qu : List Instr} {F : Nat} {o : State} {s : State} {n : Nat} {req : Nat → Addr → Nat → Out} (hF : 0x1 ||| F = F) (hk : State.Kept qu F o s) : State.Kept qu F o (State.sendFar s n req) := by
  unfold State.sendFar
  split
  · refine State.send_kept (sub_of hF rfl) ?_
    with_reducible assumption
  · with_reducible assumption

theorem State.endTest_kept {qu : List Instr} {F : Nat} {o : State} {s : State} {n result lanes : Nat} (hF : 0x400000049 ||| F = F) (hk : State.Kept qu F o s) : State.Kept qu F o (State.endTest s n result lanes) := by
  unfold State.endTest
  extract_lets +onlyGivenNames v80
  clear_value v80
  extract_lets +onlyGivenNames v79
  have hv79 : State.Kept qu F o v79 := by
    unfold v79
    refine State.kept_link (bit_of hF rfl) ?_
    with_reducible assumption
  clear_value v79
  extract_lets +onlyGivenNames v78
  have hv78 : State.Kept qu F o v78 := by
    unfold v78
    refine State.setF_kept (bit_of hF rfl) ?_
    refine State.setF_kept (bit_of hF rfl) ?_
    refine State.setF_kept (bit_of hF rfl) ?_
    with_reducible assumption
  clear_value v78
  extract_lets +onlyGivenNames v77
  have hv77 : State.Kept qu F o v77 := by
    unfold v77
    refine State.raise_kept (sub_of hF rfl) (bit_of hF rfl) ?_
    refine State.setF_kept (bit_of hF rfl) ?_
    with_reducible assumption
  clear_value v77
  refine State.kept_ite (fun _ => ?_) (fun _ => ?_)
  · refine State.sendFar_kept (sub_of hF rfl) ?_
    with_reducible assumption
  · with_reducible assumption

theorem State.testAct_kept {qu : List Instr} {F : Nat} {o : State} {s : State} (hF : 0x400000049 ||| F = F) (hk : State.Kept qu F o s) : State.Kept qu F o (State.testAct s) := by
  unfold State.testAct
  refine State.kept_ite (fun _ => ?_) (fun _ => ?_)
  · with_reducible assumption
  · extract_lets +onlyGivenNames v79
    clear_value v79
    extract_lets +onlyGivenNames v78
    clear_value v78
    refine State.kept_ite (fun _ => ?_) (fun _ => ?_)
    · refine State.endTest_kept (sub_of hF rfl) ?_
      with_reducible assumption
    · extract_lets +onlyGivenNames v76
      extract_lets +onlyGivenNames v75
      clear_value v75
      extract_lets +onlyGivenNames v74
      have hv74 : State.Kept qu F o v74 := by
        unfold v74
        refine State.kept_link (bit_of hF rfl) ?_
        with_reducible assumption
      clear_value v74
      extract_lets +onlyGivenNames v73
      have hv73 : State.Kept qu F o v73 := by
        unfold v73
        refine State.setF_kept (bit_of hF rfl) ?_
        refine State.setF_kept (bit_of hF rfl) ?_
        refine State.setF_kept (bit_of hF rfl) ?_
        with_reducible assumption
      clear_value v73
      refine State.kept_ite (fun _ => ?_) (fun _ => ?_)
      · refine State.sendFar_kept (sub_of hF rfl) ?_
        with_reducible assumption
      · with_reducible assumption

theorem execFabricTestEnd_kept {qu : List Instr} {F : Nat} {o : State} {bits : Nat} {errors : List Nat} {s : State} (hF : 0xffffffff00000049 ||| F = F) (hk : State.Kept qu F o s) : Runs qu F o (execFabricTestEnd bits errors s) := by
  unfold execFabricTestEnd
  split
  · refine runs_next ?_
    with_reducible assumption
  · refine runs_ite (fun _ => ?_) (fun _ => ?_)
    · refine runs_next ?_
      refine State.renew_kept (sub_of hF rfl) ?_ ?_
      · refine State.endTest_kept (sub_of hF rfl) ?_
        with_reducible assumption
      · intro s76 h75
        refine State.testAct_kept (sub_of hF rfl) ?_
        with_reducible assumption
    · refine runs_ite (fun _ => ?_) (fun _ => ?_)
      · extract_lets +onlyGivenNames v77
        clear_value v77
        refine runs_next ?_
        refine State.renew_kept (sub_of hF rfl) ?_ ?_
        · refine State.endTest_kept (sub_of hF rfl) ?_
          with_reducible assumption
        · intro s74 h73
          refine State.testAct_kept (sub_of hF rfl) ?_
          with_reducible assumption
      · refine runs_next ?_
        with_reducible assumption

theorem execTestHoldRequest_kept {qu : List Instr} {F : Nat} {o : State} {port : Nat} {hold : Bool} {s : State} (hF : 0x41 ||| F = F) (hk : State.Kept qu F o s) : Runs qu F o (execTestHoldRequest port hold s) := by
  unfold execTestHoldRequest
  refine runs_ite (fun _ => ?_) (fun _ => ?_)
  · extract_lets +onlyGivenNames v79
    clear_value v79
    extract_lets +onlyGivenNames v78
    extract_lets +onlyGivenNames v77
    have hv77 : State.Kept qu F o v77 := by
      unfold v77
      refine State.onPort_kept (sub_of hF rfl) ?_
      with_reducible assumption
    clear_value v77
    refine runs_next ?_
    refine State.kept_ite (fun _ => ?_) (fun _ => ?_)
    · refine State.sendFar_kept (sub_of hF rfl) ?_
      with_reducible assumption
    · with_reducible assumption
  · refine runs_next ?_
    with_reducible assumption

theorem execTestHoldAgree_kept {qu : List Instr} {F : Nat} {o : State} {port : Nat} {agrees : Bool} {s : State} (hF : 0x40 ||| F = F) (hk : State.Kept qu F o s) : Runs qu F o (execTestHoldAgree port agrees s) := by
  unfold execTestHoldAgree
  split
  · refine runs_next ?_
    refine State.kept_ite (fun _ => ?_) (fun _ => ?_)
    · refine State.kept_link (bit_of hF rfl) ?_
      with_reducible assumption
    · with_reducible assumption
  · refine runs_next ?_
    with_reducible assumption

theorem execLinkControlBlockInvalid_kept {qu : List Instr} {F : Nat} {o : State} {port : Nat} {block : BitVec 128} {s : State} (hF : 0x40 ||| F = F) (hk : State.Kept qu F o s) : Runs qu F o (execLinkControlBlockInvalid port block s) := by
  unfold execLinkControlBlockInvalid
  refine runs_next ?_
  refine State.kept_ite (fun _ => ?_) (fun _ => ?_)
  · with_reducible assumption
  · refine State.onPort_kept (sub_of hF rfl) ?_
    with_reducible assumption

theorem execHcrcError_kept {qu : List Instr} {F : Nat} {o : State} {port : Nat} {header : List Word} {lanes : Nat} {s : State} (hF : 0x40 ||| F = F) (hk : State.Kept qu F o s) : Runs qu F o (execHcrcError port header lanes s) := by
  unfold execHcrcError
  refine runs_next ?_
  refine State.kept_ite (fun _ => ?_) (fun _ => ?_)
  · refine State.badLanes_kept (sub_of hF rfl) ?_
    refine State.onPort_kept (sub_of hF rfl) ?_
    with_reducible assumption
  · with_reducible assumption

theorem execFrameCheckError_kept {qu : List Instr} {F : Nat} {o : State} {port : Nat} {f : WireFrame} {lanes : Nat} {s : State} (hF : 0x14104000264d9 ||| F = F) (hk : State.Kept qu F o s) : Runs qu F o (execFrameCheckError port f lanes s) := by
  unfold execFrameCheckError
  extract_lets +onlyGivenNames v80
  clear_value v80
  extract_lets +onlyGivenNames v79
  clear_value v79
  refine runs_ite (fun _ => ?_) (fun _ => ?_)
  · refine runs_next ?_
    refine State.badLanes_kept (sub_of hF rfl) ?_
    refine State.onPort_kept (sub_of hF rfl) ?_
    refine State.onPort_kept (sub_of hF rfl) ?_
    refine State.returnCredits_kept (sub_of hF rfl) ?_
    with_reducible assumption
  · refine runs_ite (fun _ => ?_) (fun _ => ?_)
    · extract_lets +onlyGivenNames v76
      have hv76 : State.Kept qu F o v76 := by
        unfold v76
        refine State.onPort_kept (sub_of hF rfl) ?_
        refine State.onPort_kept (sub_of hF rfl) ?_
        refine State.returnCredits_kept (sub_of hF rfl) ?_
        with_reducible assumption
      clear_value v76
      extract_lets +onlyGivenNames v75
      clear_value v75
      refine runs_ite (fun _ => ?_) (fun _ => ?_)
      · refine runs_next ?_
        refine State.raise_kept (sub_of hF rfl) (bit_of hF rfl) ?_
        refine State.portTo_kept (sub_of hF rfl) ?_
        with_reducible assumption
      · refine runs_next ?_
        with_reducible assumption
    · refine runs_next ?_
      with_reducible assumption

theorem execReservedOpkindPacket_kept {qu : List Instr} {F : Nat} {o : State} {port : Nat} {p : Packet} {s : State} (hF : 0x1000000024049 ||| F = F) (hk : State.Kept qu F o s) : Runs qu F o (execReservedOpkindPacket port p s) := by
  unfold execReservedOpkindPacket
  extract_lets +onlyGivenNames v80
  have hv80 : State.Kept qu F o v80 := by
    unfold v80
    refine State.received_kept (sub_of hF rfl) ?_
    with_reducible assumption
  clear_value v80
  extract_lets +onlyGivenNames v79
  clear_value v79
  refine runs_next ?_
  refine State.refusePacket_kept (sub_of hF rfl) ?_
  with_reducible assumption

theorem execWindowAck_kept {qu : List Instr} {F : Nat} {o : State} {port : Nat} {p : Packet} {s : State} (hF : 0x1000000064449 ||| F = F) (hk : State.Kept qu F o s) : Runs qu F o (execWindowAck port p s) := by
  unfold execWindowAck
  extract_lets +onlyGivenNames v80
  have hv80 : State.Kept qu F o v80 := by
    unfold v80
    refine State.received_kept (sub_of hF rfl) ?_
    with_reducible assumption
  clear_value v80
  split
  · rename_i n79_0 n79_1 n79_2
    have hn79_2 : State.Kept qu F o n79_1 := by
      refine State.refused_kept (sub_of hF rfl) ?_ _ n79_2
      with_reducible assumption
    refine runs_next ?_
    with_reducible assumption
  · refine runs_next ?_
    refine State.returnCredits_kept (sub_of hF rfl) ?_
    refine State.ackIn_kept (sub_of hF rfl) ?_
    with_reducible assumption

theorem execPortChangeEvent_kept {qu : List Instr} {F : Nat} {o : State} {port : Nat} {p : Packet} {s : State} (hF : 0x10000000240d9 ||| F = F) (hk : State.Kept qu F o s) : Runs qu F o (execPortChangeEvent port p s) := by
  unfold execPortChangeEvent
  refine runs_next ?_
  refine State.takeAgentEvent_kept (sub_of hF rfl) ?_ ?_
  · with_reducible assumption
  · intro s78 x77 h76
    refine State.kept_foldl ?_ ?_
    · with_reducible assumption
    · intro s74 x73 h72
      refine State.mgmtRead_kept (sub_of hF rfl) ?_
      with_reducible assumption

theorem State.goMissing_kept {qu : List Instr} {F : Nat} {o : State} {s : State} {ev : AgentEvent} (hF : 0x10000001c0 ||| F = F) (hk : State.Kept qu F o s) : State.Kept qu F o (State.goMissing s ev) := by
  unfold State.goMissing
  extract_lets +onlyGivenNames v80
  clear_value v80
  extract_lets +onlyGivenNames v79
  clear_value v79
  extract_lets +onlyGivenNames v78
  extract_lets +onlyGivenNames v77
  extract_lets +onlyGivenNames v76
  clear_value v76
  extract_lets +onlyGivenNames v75
  have hv75 : State.Kept qu F o v75 := by
    unfold v75
    refine State.kept_ite (fun _ => ?_) (fun _ => ?_)
    · refine State.setF_kept (bit_of hF rfl) ?_
      refine State.kept_slv (bit_of hF rfl) ?_
      with_reducible assumption
    · with_reducible assumption
  clear_value v75
  refine State.kept_ite (fun _ => ?_) (fun _ => ?_)
  · refine State.mgmtWrite_kept (sub_of hF rfl) ?_
    with_reducible assumption
  · with_reducible assumption

theorem execGoMissingEvent_kept {qu : List Instr} {F : Nat} {o : State} {port : Nat} {p : Packet} {s : State} (hF : 0x10010000241d9 ||| F = F) (hk : State.Kept qu F o s) : Runs qu F o (execGoMissingEvent port p s) := by
  unfold execGoMissingEvent
  refine runs_next ?_
  refine State.takeAgentEvent_kept (sub_of hF rfl) ?_ ?_
  · with_reducible assumption
  · intro s78 x77 h76
    refine State.goMissing_kept (sub_of hF rfl) ?_
    with_reducible assumption

theorem State.agentWasReset_kept {qu : List Instr} {F : Nat} {o : State} {s : State} {ev : AgentEvent} (hF : 0x100000004cd ||| F = F) (hk : State.Kept qu F o s) : State.Kept qu F o (State.agentWasReset s ev) := by
  unfold State.agentWasReset
  refine State.kept_ite (fun _ => ?_) (fun _ => ?_)
  · with_reducible assumption
  · extract_lets +onlyGivenNames v79
    have hv79 : State.Kept qu F o v79 := by
      unfold v79
      refine State.closeFlows_kept (sub_of hF rfl) ?_
      refine State.rewriteAgent_kept (sub_of hF rfl) ?_
      with_reducible assumption
    clear_value v79
    extract_lets +onlyGivenNames v78
    clear_value v78
    extract_lets +onlyGivenNames v77
    have hv77 : State.Kept qu F o v77 := by
      unfold v77
      refine State.kept_tim (bit_of hF rfl) ?_
      with_reducible assumption
    clear_value v77
    refine State.kept_ite (fun _ => ?_) (fun _ => ?_)
    · refine State.switchLost_kept (sub_of hF rfl) ?_
      with_reducible assumption
    · refine State.kept_foldl ?_ ?_
      · with_reducible assumption
      · intro s74 x73 h72
        refine State.recoverReq_kept (sub_of hF rfl) ?_
        with_reducible assumption

theorem execAgentResetEvent_kept {qu : List Instr} {F : Nat} {o : State} {port : Nat} {p : Packet} {s : State} (hF : 0x10100000244dd ||| F = F) (hk : State.Kept qu F o s) : Runs qu F o (execAgentResetEvent port p s) := by
  unfold execAgentResetEvent
  refine runs_next ?_
  refine State.takeAgentEvent_kept (sub_of hF rfl) ?_ ?_
  · with_reducible assumption
  · intro s78 x77 h76
    refine State.agentWasReset_kept (sub_of hF rfl) ?_
    with_reducible assumption

end Sys2Proof.Machine
end

