-- ==== Sys2Proof/Laws/KeptTimeOps.lean ====
section
/-! SUPPORT. Laws/KeptTimeOps.lean: each operation of Machine/TimeOps.lean keeps the queue and the invariant. -/
namespace Sys2Proof.Machine

theorem State.formRecords_kept {qu : List Instr} {F : Nat} {o : State} {s : State} (hF : 0x44 ||| F = F) (hk : State.Kept qu F o s) : State.Kept qu F o (State.formRecords s) := by
  unfold State.formRecords
  extract_lets +onlyGivenNames v80
  clear_value v80
  extract_lets +onlyGivenNames v79
  have hv79 : State.Kept qu F o v79 := by
    unfold v79
    refine State.kept_tim (bit_of hF rfl) ?_
    with_reducible assumption
  clear_value v79
  refine State.kept_link (bit_of hF rfl) ?_
  with_reducible assumption

theorem State.setTimAgent_kept {qu : List Instr} {F : Nat} {o : State} {s : State} {t : TimAgent} (hF : 0x4 ||| F = F) (hk : State.Kept qu F o s) : State.Kept qu F o (State.setTimAgent s t) := by
  unfold State.setTimAgent
  refine State.kept_tim (bit_of hF rfl) ?_
  with_reducible assumption

theorem State.judgeAgent_kept {qu : List Instr} {F : Nat} {o : State} {s : State} {a : Addr} {st : Nat} (hF : 0xc4 ||| F = F) (hk : State.Kept qu F o s) : State.Kept qu F o (State.judgeAgent s a st) := by
  unfold State.judgeAgent
  refine State.mgmtWrite_kept (sub_of hF rfl) ?_
  refine State.setTimAgent_kept (sub_of hF rfl) ?_
  with_reducible assumption

theorem State.trimAgent_kept {qu : List Instr} {F : Nat} {o : State} {s : State} {a : Addr} {phi : Option Rat} (hF : 0xc4 ||| F = F) (hk : State.Kept qu F o s) : State.Kept qu F o (State.trimAgent s a phi) := by
  unfold State.trimAgent
  extract_lets +onlyGivenNames v80
  clear_value v80
  split
  · refine State.setTimAgent_kept (sub_of hF rfl) ?_
    with_reducible assumption
  · extract_lets +onlyGivenNames v78
    have hv78 : State.Kept qu F o v78 := by
      unfold v78
      refine State.setTimAgent_kept (sub_of hF rfl) ?_
      with_reducible assumption
    clear_value v78
    refine State.kept_ite (fun _ => ?_) (fun _ => ?_)
    · with_reducible assumption
    · extract_lets +onlyGivenNames v76
      have hv76 : State.Kept qu F o v76 := by
        unfold v76
        refine State.kept_ite (fun _ => ?_) (fun _ => ?_)
        · refine State.judgeAgent_kept (sub_of hF rfl) ?_
          with_reducible assumption
        · with_reducible assumption
      clear_value v76
      extract_lets +onlyGivenNames v75
      clear_value v75
      extract_lets +onlyGivenNames v74
      clear_value v74
      refine State.kept_ite (fun _ => ?_) (fun _ => ?_)
      · refine State.mgmtWrite_kept (sub_of hF rfl) ?_
        with_reducible assumption
      · with_reducible assumption

theorem State.showAgents_kept {qu : List Instr} {F : Nat} {o : State} {s : State} {phis : List (Nat × Rat)} (hF : 0x100000000000 ||| F = F) (hk : State.Kept qu F o s) : State.Kept qu F o (State.showAgents s phis) := by
  unfold State.showAgents
  extract_lets +onlyGivenNames v80
  clear_value v80
  extract_lets +onlyGivenNames v79
  have hv79 : State.Kept qu F o v79 := by
    unfold v79
    refine State.setF_kept (bit_of hF rfl) ?_
    refine State.setF_kept (bit_of hF rfl) ?_
    refine State.setF_kept (bit_of hF rfl) ?_
    with_reducible assumption
  clear_value v79
  extract_lets +onlyGivenNames v78
  clear_value v78
  refine State.setF_kept (bit_of hF rfl) ?_
  refine State.setF_kept (bit_of hF rfl) ?_
  with_reducible assumption

theorem State.solveRack_kept {qu : List Instr} {F : Nat} {o : State} {s : State} {f : Nat} (hF : 0x1000000000c4 ||| F = F) (hk : State.Kept qu F o s) : State.Kept qu F o (State.solveRack s f) := by
  unfold State.solveRack
  extract_lets +onlyGivenNames v80
  clear_value v80
  extract_lets +onlyGivenNames v79
  clear_value v79
  extract_lets +onlyGivenNames v78
  clear_value v78
  extract_lets +onlyGivenNames v77
  have hv77 : State.Kept qu F o v77 := by
    unfold v77
    refine State.kept_tim (bit_of hF rfl) ?_
    with_reducible assumption
  clear_value v77
  extract_lets +onlyGivenNames v76
  have hv76 : State.Kept qu F o v76 := by
    unfold v76
    refine State.kept_foldl_range ?_ ?_
    · with_reducible assumption
    · intro s74 x73 x72 h71
      refine State.trimAgent_kept (sub_of hF rfl) ?_
      with_reducible assumption
  clear_value v76
  extract_lets +onlyGivenNames v75
  have hv75 : State.Kept qu F o v75 := by
    unfold v75
    refine State.kept_foldl ?_ ?_
    · with_reducible assumption
    · intro s73 x72 h71
      refine State.trimAgent_kept (sub_of hF rfl) ?_
      with_reducible assumption
  clear_value v75
  refine State.showAgents_kept (sub_of hF rfl) ?_
  with_reducible assumption

theorem State.enterTime_kept {qu : List Instr} {F : Nat} {o : State} {s : State} {st : Nat} (hF : 0x10000000000d ||| F = F) (hk : State.Kept qu F o s) : State.Kept qu F o (State.enterTime s st) := by
  unfold State.enterTime
  extract_lets +onlyGivenNames v80
  have hv80 : State.Kept qu F o v80 := by
    unfold v80
    refine State.setF_kept (bit_of hF rfl) ?_
    with_reducible assumption
  clear_value v80
  extract_lets +onlyGivenNames v79
  clear_value v79
  extract_lets +onlyGivenNames v78
  have hv78 : State.Kept qu F o v78 := by
    unfold v78
    refine State.kept_tim (bit_of hF rfl) ?_
    with_reducible assumption
  clear_value v78
  extract_lets +onlyGivenNames v77
  have hv77 : State.Kept qu F o v77 := by
    unfold v77
    refine State.kept_ite (fun _ => ?_) (fun _ => ?_)
    · refine State.raise_kept (sub_of hF rfl) (bit_of hF rfl) ?_
      with_reducible assumption
    · refine State.setF_kept (bit_of hF rfl) ?_
      with_reducible assumption
  clear_value v77
  extract_lets +onlyGivenNames v76
  have hv76 : State.Kept qu F o v76 := by
    unfold v76
    refine State.kept_ite (fun _ => ?_) (fun _ => ?_)
    · refine State.setF_kept (bit_of hF rfl) ?_
      with_reducible assumption
    · with_reducible assumption
  clear_value v76
  extract_lets +onlyGivenNames v75
  have hv75 : State.Kept qu F o v75 := by
    unfold v75
    refine State.raiseIf_kept (sub_of hF rfl) (bit_of hF rfl) ?_
    with_reducible assumption
  clear_value v75
  refine State.raiseIf_kept (sub_of hF rfl) (bit_of hF rfl) ?_
  with_reducible assumption

theorem State.setRate_kept {qu : List Instr} {F : Nat} {o : State} {s : State} {c : Rat} (hF : 0x100000000040 ||| F = F) (hk : State.Kept qu F o s) : State.Kept qu F o (State.setRate s c) := by
  unfold State.setRate
  extract_lets +onlyGivenNames v80
  clear_value v80
  extract_lets +onlyGivenNames v79
  clear_value v79
  refine State.kept_ite (fun _ => ?_) (fun _ => ?_)
  · with_reducible assumption
  · extract_lets +onlyGivenNames v77
    have hv77 : State.Kept qu F o v77 := by
      unfold v77
      refine State.setReg_kept (bit_of hF rfl) ?_
      with_reducible assumption
    clear_value v77
    refine State.kept_ite (fun _ => ?_) (fun _ => ?_)
    · refine State.broadcast_kept (sub_of hF rfl) ?_
      with_reducible assumption
    · with_reducible assumption

theorem State.steer_kept {qu : List Instr} {F : Nat} {o : State} {s : State} {e : Option Rat} (hF : 0x100000000044 ||| F = F) (hk : State.Kept qu F o s) : State.Kept qu F o (State.steer s e) := by
  unfold State.steer
  extract_lets +onlyGivenNames v80
  clear_value v80
  extract_lets +onlyGivenNames v79
  clear_value v79
  split
  · refine State.setRate_kept (sub_of hF rfl) ?_
    with_reducible assumption
  · extract_lets +onlyGivenNames v77
    clear_value v77
    refine State.setRate_kept (sub_of hF rfl) ?_
    refine State.kept_tim (bit_of hF rfl) ?_
    with_reducible assumption

theorem State.timeStates_kept {qu : List Instr} {F : Nat} {o : State} {s : State} {e : Option Rat} (hF : 0x10000000000d ||| F = F) (hk : State.Kept qu F o s) : State.Kept qu F o (State.timeStates s e) := by
  unfold State.timeStates
  extract_lets +onlyGivenNames v80
  clear_value v80
  split
  · refine State.kept_ite (fun _ => ?_) (fun _ => ?_)
    · refine State.enterTime_kept (sub_of hF rfl) ?_
      with_reducible assumption
    · refine State.kept_ite (fun _ => ?_) (fun _ => ?_)
      · refine State.kept_tim (bit_of hF rfl) ?_
        with_reducible assumption
      · refine State.kept_tim (bit_of hF rfl) ?_
        with_reducible assumption
  · refine State.kept_ite (fun _ => ?_) (fun _ => ?_)
    · refine State.enterTime_kept (sub_of hF rfl) ?_
      with_reducible assumption
    · refine State.kept_ite (fun _ => ?_) (fun _ => ?_)
      · extract_lets +onlyGivenNames v76
        clear_value v76
        refine State.kept_ite (fun _ => ?_) (fun _ => ?_)
        · refine State.enterTime_kept (sub_of hF rfl) ?_
          with_reducible assumption
        · refine State.kept_tim (bit_of hF rfl) ?_
          with_reducible assumption
      · with_reducible assumption

theorem State.followRoot_kept {qu : List Instr} {F : Nat} {o : State} {s : State} (hF : 0x10000000000d ||| F = F) (hk : State.Kept qu F o s) : State.Kept qu F o (State.followRoot s) := by
  unfold State.followRoot
  extract_lets +onlyGivenNames v80
  clear_value v80
  extract_lets +onlyGivenNames v79
  have hv79 : State.Kept qu F o v79 := by
    unfold v79
    refine State.kept_ite (fun _ => ?_) (fun _ => ?_)
    · refine State.setF_kept (bit_of hF rfl) ?_
      with_reducible assumption
    · refine State.kept_ite (fun _ => ?_) (fun _ => ?_)
      · refine State.setF_kept (bit_of hF rfl) ?_
        with_reducible assumption
      · with_reducible assumption
  clear_value v79
  extract_lets +onlyGivenNames v78
  have hv78 : State.Kept qu F o v78 := by
    unfold v78
    refine State.setF_kept (bit_of hF rfl) ?_
    with_reducible assumption
  clear_value v78
  refine State.kept_ite (fun _ => ?_) (fun _ => ?_)
  · refine State.enterTime_kept (sub_of hF rfl) ?_
    with_reducible assumption
  · refine State.kept_ite (fun _ => ?_) (fun _ => ?_)
    · refine State.enterTime_kept (sub_of hF rfl) ?_
      with_reducible assumption
    · with_reducible assumption

theorem State.judgeTimeFit_kept {qu : List Instr} {F : Nat} {o : State} {s : State} (hF : 0x400000000009 ||| F = F) (hk : State.Kept qu F o s) : State.Kept qu F o (State.judgeTimeFit s) := by
  unfold State.judgeTimeFit
  extract_lets +onlyGivenNames v80
  clear_value v80
  extract_lets +onlyGivenNames v79
  clear_value v79
  refine State.setUnfit_kept (sub_of hF rfl) ?_
  with_reducible assumption

theorem State.steerOwn_kept {qu : List Instr} {F : Nat} {o : State} {s : State} {f : Nat} (hF : 0x10000000004d ||| F = F) (hk : State.Kept qu F o s) : State.Kept qu F o (State.steerOwn s f) := by
  unfold State.steerOwn
  extract_lets +onlyGivenNames v80
  clear_value v80
  refine State.kept_ite (fun _ => ?_) (fun _ => ?_)
  · extract_lets +onlyGivenNames v78
    clear_value v78
    extract_lets +onlyGivenNames v77
    clear_value v77
    extract_lets +onlyGivenNames v76
    clear_value v76
    extract_lets +onlyGivenNames v75
    clear_value v75
    extract_lets +onlyGivenNames v74
    clear_value v74
    extract_lets +onlyGivenNames v73
    clear_value v73
    extract_lets +onlyGivenNames v72
    clear_value v72
    extract_lets +onlyGivenNames v71
    have hv71 : State.Kept qu F o v71 := by
      unfold v71
      refine State.raiseIf_kept (sub_of hF rfl) (bit_of hF rfl) ?_
      refine State.countReg_kept (bit_of hF rfl) ?_
      with_reducible assumption
    clear_value v71
    extract_lets +onlyGivenNames v70
    have hv70 : State.Kept qu F o v70 := by
      unfold v70
      refine State.setF_kept (bit_of hF rfl) ?_
      refine State.setF_kept (bit_of hF rfl) ?_
      with_reducible assumption
    clear_value v70
    extract_lets +onlyGivenNames v69
    have hv69 : State.Kept qu F o v69 := by
      unfold v69
      split
      · refine State.setF_kept (bit_of hF rfl) ?_
        refine State.setF_kept (bit_of hF rfl) ?_
        with_reducible assumption
      · with_reducible assumption
    clear_value v69
    refine State.timeStates_kept (sub_of hF rfl) ?_
    refine State.steer_kept (sub_of hF rfl) ?_
    with_reducible assumption
  · refine State.kept_ite (fun _ => ?_) (fun _ => ?_)
    · refine State.setRate_kept (sub_of hF rfl) ?_
      with_reducible assumption
    · with_reducible assumption

theorem State.showParents_kept {qu : List Instr} {F : Nat} {o : State} {s : State} (hF : 0x100000000000 ||| F = F) (hk : State.Kept qu F o s) : State.Kept qu F o (State.showParents s) := by
  unfold State.showParents
  extract_lets +onlyGivenNames v80
  clear_value v80
  refine State.setF_kept (bit_of hF rfl) ?_
  refine State.setF_kept (bit_of hF rfl) ?_
  with_reducible assumption

theorem State.sendRequest_kept {qu : List Instr} {F : Nat} {o : State} {s : State} {port : Nat} {dest : Addr} (hF : 0x44 ||| F = F) (hk : State.Kept qu F o s) : State.Kept qu F o (State.sendRequest s port dest) := by
  unfold State.sendRequest
  extract_lets +onlyGivenNames v80
  clear_value v80
  extract_lets +onlyGivenNames v79
  clear_value v79
  extract_lets +onlyGivenNames v78
  clear_value v78
  extract_lets +onlyGivenNames v77
  have hv77 : State.Kept qu F o v77 := by
    unfold v77
    refine State.kept_tim (bit_of hF rfl) ?_
    with_reducible assumption
  clear_value v77
  refine State.enqueue_kept (sub_of hF rfl) ?_
  with_reducible assumption

theorem State.sendRequests_kept {qu : List Instr} {F : Nat} {o : State} {s : State} (hF : 0x44 ||| F = F) (hk : State.Kept qu F o s) : State.Kept qu F o (State.sendRequests s) := by
  unfold State.sendRequests
  refine State.kept_ite (fun _ => ?_) (fun _ => ?_)
  · with_reducible assumption
  · extract_lets +onlyGivenNames v79
    clear_value v79
    extract_lets +onlyGivenNames v78
    have hv78 : State.Kept qu F o v78 := by
      unfold v78
      refine State.kept_tim (bit_of hF rfl) ?_
      with_reducible assumption
    extract_lets +onlyGivenNames v77
    have hv77 : State.Kept qu F o v77 := by
      unfold v77
      refine State.kept_ite (fun _ => ?_) (fun _ => ?_)
      · with_reducible assumption
      · refine State.kept_foldl ?_ ?_
        · with_reducible assumption
        · intro s74 x73 h72
          split
          · refine State.sendRequest_kept (sub_of hF rfl) ?_
            with_reducible assumption
          · with_reducible assumption
    clear_value v77
    refine State.kept_ite (fun _ => ?_) (fun _ => ?_)
    · refine State.kept_foldl ?_ ?_
      · with_reducible assumption
      · intro s74 x73 h72
        split
        · refine State.kept_ite (fun _ => ?_) (fun _ => ?_)
          · refine State.sendRequest_kept (sub_of hF rfl) ?_
            with_reducible assumption
          · with_reducible assumption
        · with_reducible assumption
    · refine State.kept_foldl_range ?_ ?_
      · with_reducible assumption
      · intro s74 x73 x72 h71
        refine State.kept_ite (fun _ => ?_) (fun _ => ?_)
        · refine State.sendRequest_kept (sub_of hF rfl) ?_
          with_reducible assumption
        · with_reducible assumption

theorem State.answerTime_kept {qu : List Instr} {F : Nat} {o : State} {s : State} {port : Nat} {h : Hdr} {w : List Word} (hF : 0x40 ||| F = F) (hk : State.Kept qu F o s) : State.Kept qu F o (State.answerTime s port h w) := by
  unfold State.answerTime
  extract_lets +onlyGivenNames v80
  clear_value v80
  extract_lets +onlyGivenNames v79
  clear_value v79
  extract_lets +onlyGivenNames v78
  clear_value v78
  extract_lets +onlyGivenNames v77
  clear_value v77
  extract_lets +onlyGivenNames v76
  clear_value v76
  refine State.enqueue_kept (sub_of hF rfl) ?_
  with_reducible assumption

theorem State.logStep_kept {qu : List Instr} {F : Nat} {o : State} {s : State} {kind : Nat} {back : Bool} {old new : Nat} (hF : 0x1000000024009 ||| F = F) (hk : State.Kept qu F o s) : State.Kept qu F o (State.logStep s kind back old new) := by
  unfold State.logStep
  refine State.logOwn_kept (sub_of hF rfl) ?_
  with_reducible assumption

theorem State.stepAgent_kept {qu : List Instr} {F : Nat} {o : State} {s : State} {a : Addr} {theta2 : Int} (hF : 0x11000000240cd ||| F = F) (hk : State.Kept qu F o s) : State.Kept qu F o (State.stepAgent s a theta2) := by
  unfold State.stepAgent
  extract_lets +onlyGivenNames v80
  clear_value v80
  extract_lets +onlyGivenNames v79
  clear_value v79
  extract_lets +onlyGivenNames v78
  clear_value v78
  extract_lets +onlyGivenNames v77
  have hv77 : State.Kept qu F o v77 := by
    unfold v77
    refine State.mgmtWrite_kept (sub_of hF rfl) ?_
    with_reducible assumption
  clear_value v77
  extract_lets +onlyGivenNames v76
  have hv76 : State.Kept qu F o v76 := by
    unfold v76
    refine State.kept_ite (fun _ => ?_) (fun _ => ?_)
    · refine State.logStep_kept (sub_of hF rfl) ?_
      refine State.countReg_kept (bit_of hF rfl) ?_
      with_reducible assumption
    · with_reducible assumption
  clear_value v76
  refine State.judgeAgent_kept (sub_of hF rfl) ?_
  with_reducible assumption

theorem State.takeExch_kept {qu : List Instr} {F : Nat} {o : State} {s : State} {x : TimExch} {root : Nat} (hF : 0x11000000240cd ||| F = F) (hk : State.Kept qu F o s) : State.Kept qu F o (State.takeExch s x root) := by
  unfold State.takeExch
  extract_lets +onlyGivenNames v1080
  refine State.kept_ite (fun _ => ?_) (fun _ => ?_)
  · refine State.kept_ite (fun _ => ?_) (fun _ => ?_)
    · refine State.stepAgent_kept (sub_of hF rfl) ?_
      with_reducible assumption
    · with_reducible assumption
  · extract_lets +onlyGivenNames v1078
    extract_lets +onlyGivenNames v1077
    have hv1077 : State.Kept qu F o v1077 := by
      unfold v1077
      refine State.kept_tim (bit_of hF rfl) ?_
      with_reducible assumption
    extract_lets +onlyGivenNames v1076
    extract_lets +onlyGivenNames v1075
    have hv1075 : State.Kept qu F o v1075 := by
      unfold v1075
      refine State.kept_ite (fun _ => ?_) (fun _ => ?_)
      · with_reducible assumption
      · refine State.setF_kept (bit_of hF rfl) ?_
        refine State.kept_tim (bit_of hF rfl) ?_
        with_reducible assumption
    refine State.kept_ite (fun _ => ?_) (fun _ => ?_)
    · extract_lets +onlyGivenNames v1073
      extract_lets +onlyGivenNames v1072
      have hv1072 : State.Kept qu F o v1072 := by
        unfold v1072
        refine State.kept_tim (bit_of hF rfl) ?_
        with_reducible assumption
      extract_lets +onlyGivenNames v1071
      have hv1071 : State.Kept qu F o v1071 := by
        unfold v1071
        refine State.kept_ite (fun _ => ?_) (fun _ => ?_)
        · refine State.enterTime_kept (sub_of hF rfl) ?_
          with_reducible assumption
        · with_reducible assumption
      refine State.kept_ite (fun _ => ?_) (fun _ => ?_)
      · refine State.kept_tim (bit_of hF rfl) ?_
        with_reducible assumption
      · with_reducible assumption
    · with_reducible assumption

theorem State.openFlash_kept {qu : List Instr} {F : Nat} {o : State} {s : State} (hF : 0x110000002400d ||| F = F) (hk : State.Kept qu F o s) : State.Kept qu F o (State.openFlash s) := by
  unfold State.openFlash
  extract_lets +onlyGivenNames v80
  clear_value v80
  extract_lets +onlyGivenNames v79
  clear_value v79
  split
  · refine State.kept_tim (bit_of hF rfl) ?_
    with_reducible assumption
  · extract_lets +onlyGivenNames v77
    clear_value v77
    extract_lets +onlyGivenNames v76
    clear_value v76
    extract_lets +onlyGivenNames v75
    clear_value v75
    extract_lets +onlyGivenNames v74
    have hv74 : State.Kept qu F o v74 := by
      unfold v74
      refine State.kept_tim (bit_of hF rfl) ?_
      with_reducible assumption
    clear_value v74
    extract_lets +onlyGivenNames v73
    clear_value v73
    extract_lets +onlyGivenNames v72
    have hv72 : State.Kept qu F o v72 := by
      unfold v72
      refine State.kept_tim (bit_of hF rfl) ?_
      with_reducible assumption
    clear_value v72
    extract_lets +onlyGivenNames v71
    have hv71 : State.Kept qu F o v71 := by
      unfold v71
      refine State.kept_ite (fun _ => ?_) (fun _ => ?_)
      · refine State.raise_kept (sub_of hF rfl) (bit_of hF rfl) ?_
        refine State.countReg_kept (bit_of hF rfl) ?_
        refine State.logStep_kept (sub_of hF rfl) ?_
        with_reducible assumption
      · refine State.kept_tim (bit_of hF rfl) ?_
        with_reducible assumption
    clear_value v71
    refine State.enterTime_kept (sub_of hF rfl) ?_
    with_reducible assumption
  · extract_lets +onlyGivenNames v77
    clear_value v77
    extract_lets +onlyGivenNames v76
    have hv76 : State.Kept qu F o v76 := by
      unfold v76
      refine State.kept_tim (bit_of hF rfl) ?_
      with_reducible assumption
    clear_value v76
    extract_lets +onlyGivenNames v75
    have hv75 : State.Kept qu F o v75 := by
      unfold v75
      refine State.raise_kept (sub_of hF rfl) (bit_of hF rfl) ?_
      refine State.countReg_kept (bit_of hF rfl) ?_
      refine State.logStep_kept (sub_of hF rfl) ?_
      with_reducible assumption
    clear_value v75
    refine State.enterTime_kept (sub_of hF rfl) ?_
    refine State.setF_kept (bit_of hF rfl) ?_
    with_reducible assumption

theorem State.countSilence_kept {qu : List Instr} {F : Nat} {o : State} {s : State} (hF : 0x4 ||| F = F) (hk : State.Kept qu F o s) : State.Kept qu F o (State.countSilence s) := by
  unfold State.countSilence
  extract_lets +onlyGivenNames v80
  clear_value v80
  refine State.kept_tim (bit_of hF rfl) ?_
  with_reducible assumption

theorem State.timeWork_kept {qu : List Instr} {F : Nat} {o : State} {s : State} (hF : 0x1000000000cd ||| F = F) (hk : State.Kept qu F o s) : State.Kept qu F o (State.timeWork s) := by
  unfold State.timeWork
  extract_lets +onlyGivenNames v80
  clear_value v80
  extract_lets +onlyGivenNames v79
  have hv79 : State.Kept qu F o v79 := by
    unfold v79
    refine State.kept_ite (fun _ => ?_) (fun _ => ?_)
    · refine State.solveRack_kept (sub_of hF rfl) ?_
      with_reducible assumption
    · with_reducible assumption
  clear_value v79
  refine State.showParents_kept (sub_of hF rfl) ?_
  refine State.followRoot_kept (sub_of hF rfl) ?_
  refine State.formRecords_kept (sub_of hF rfl) ?_
  refine State.countSilence_kept (sub_of hF rfl) ?_
  refine State.steerOwn_kept (sub_of hF rfl) ?_
  with_reducible assumption

theorem State.openWall_kept {qu : List Instr} {F : Nat} {o : State} {s : State} {wall : Nat} {ppb : Int} (hF : 0x1000000020004 ||| F = F) (hk : State.Kept qu F o s) : State.Kept qu F o (State.openWall s wall ppb) := by
  unfold State.openWall
  extract_lets +onlyGivenNames v80
  clear_value v80
  extract_lets +onlyGivenNames v79
  clear_value v79
  extract_lets +onlyGivenNames v78
  clear_value v78
  extract_lets +onlyGivenNames v77
  clear_value v77
  extract_lets +onlyGivenNames v76
  have hv76 : State.Kept qu F o v76 := by
    unfold v76
    refine State.kept_with ?_ (by constructor <;> first | exact fun _ => rfl | exact fun _ _ => rfl | exact fun h => absurd (h.symm.trans (bit_of hF rfl)) Bool.false_ne_true) rfl rfl rfl
    with_reducible assumption
  clear_value v76
  refine State.setReg_kept (bit_of hF rfl) ?_
  with_reducible assumption

end Sys2Proof.Machine
end

