-- ==== Sys2Proof/Laws/KeptTelOps.lean ====
section
/-! SUPPORT. Laws/KeptTelOps.lean: each operation of Machine/TelOps.lean keeps the queue and the invariant. -/
namespace Sys2Proof.Machine

theorem State.makeFrame_kept {qu : List Instr} {F : Nat} {o : State} {s : State} {own : TelOwn} (hF : 0x4000040409 ||| F = F) (hk : State.Kept qu F o s) : State.Kept qu F o (State.makeFrame s own) := by
  unfold State.makeFrame
  extract_lets +onlyGivenNames v80
  clear_value v80
  extract_lets +onlyGivenNames v79
  clear_value v79
  extract_lets +onlyGivenNames v78
  clear_value v78
  extract_lets +onlyGivenNames v77
  clear_value v77
  extract_lets +onlyGivenNames v76
  clear_value v76
  extract_lets +onlyGivenNames v75
  clear_value v75
  extract_lets +onlyGivenNames v74
  clear_value v74
  extract_lets +onlyGivenNames v73
  clear_value v73
  extract_lets +onlyGivenNames v72
  clear_value v72
  extract_lets +onlyGivenNames v71
  clear_value v71
  extract_lets +onlyGivenNames v70
  clear_value v70
  extract_lets +onlyGivenNames v69
  clear_value v69
  extract_lets +onlyGivenNames v68
  clear_value v68
  extract_lets +onlyGivenNames v67
  clear_value v67
  extract_lets +onlyGivenNames v66
  clear_value v66
  extract_lets +onlyGivenNames v65
  clear_value v65
  extract_lets +onlyGivenNames v64
  clear_value v64
  extract_lets +onlyGivenNames v63
  clear_value v63
  extract_lets +onlyGivenNames v62
  have hv62 : State.Kept qu F o v62 := by
    unfold v62
    refine State.raiseIf_kept (sub_of hF rfl) (bit_of hF rfl) ?_
    refine State.countReg_kept (bit_of hF rfl) ?_
    with_reducible assumption
  clear_value v62
  refine State.kept_with ?_ (by constructor <;> first | exact fun _ => rfl | exact fun _ _ => rfl | exact fun h => absurd (h.symm.trans (bit_of hF rfl)) Bool.false_ne_true) rfl rfl rfl
  with_reducible assumption

theorem State.writeCoarse_kept {qu : List Instr} {F : Nat} {o : State} {s : State} {flash : Nat} (hF : 0x200000040000 ||| F = F) (hk : State.Kept qu F o s) : State.Kept qu F o (State.writeCoarse s flash) := by
  unfold State.writeCoarse
  extract_lets +onlyGivenNames v80
  clear_value v80
  extract_lets +onlyGivenNames v79
  clear_value v79
  refine State.kept_ite (fun _ => ?_) (fun _ => ?_)
  · extract_lets +onlyGivenNames v77
    clear_value v77
    extract_lets +onlyGivenNames v76
    clear_value v76
    extract_lets +onlyGivenNames v75
    have hv75 : State.Kept qu F o v75 := by
      unfold v75
      refine State.kept_tel (bit_of hF rfl) ?_
      with_reducible assumption
    clear_value v75
    refine State.setF_kept (bit_of hF rfl) ?_
    with_reducible assumption
  · with_reducible assumption

theorem State.showGauge_kept {qu : List Instr} {F : Nat} {o s : State} {w : Word} {g : Nat} (hF : 0x200000040000 ||| F = F) (hg : g < 9) (hk : State.Kept qu F o s) :
    State.Kept qu F o (State.showGauge s w g) := by
  unfold State.showGauge
  extract_lets +onlyGivenNames v80
  clear_value v80
  extract_lets +onlyGivenNames v79
  clear_value v79
  extract_lets +onlyGivenNames v78
  have hv78 : State.Kept qu F o v78 := by
    unfold v78
    refine State.setReg_kept (bit_blk (b := 13) hF rfl (by unfold regBlock; simp only [Reg.TEL_GAUGE]; omega)) ?_
    with_reducible assumption
  clear_value v78
  extract_lets +onlyGivenNames v77
  clear_value v77
  extract_lets +onlyGivenNames v76
  clear_value v76
  extract_lets +onlyGivenNames v75
  have hv75 : State.Kept qu F o v75 := by
    unfold v75
    refine State.kept_tel (bit_of hF rfl) ?_
    with_reducible assumption
  clear_value v75
  refine State.kept_ite (fun _ => ?_) (fun _ => ?_)
  · with_reducible assumption
  · refine State.setReg_kept (bit_of hF rfl) ?_
    with_reducible assumption

theorem State.publishFrame_kept {qu : List Instr} {F : Nat} {o : State} {s : State} {b : TelBatch} (hF : 0x200000040009 ||| F = F) (hk : State.Kept qu F o s) : State.Kept qu F o (State.publishFrame s b) := by
  unfold State.publishFrame
  extract_lets +onlyGivenNames v80
  clear_value v80
  extract_lets +onlyGivenNames v79
  have hv79 : State.Kept qu F o v79 := by
    unfold v79
    refine State.setReg_kept (bit_of hF rfl) ?_
    refine State.setReg_kept (bit_of hF rfl) ?_
    with_reducible assumption
  clear_value v79
  extract_lets +onlyGivenNames v78
  clear_value v78
  extract_lets +onlyGivenNames v77
  have hv77 : State.Kept qu F o v77 := by
    unfold v77
    refine State.raiseIf_kept (sub_of hF rfl) (bit_of hF rfl) ?_
    refine State.setF_kept (bit_of hF rfl) ?_
    with_reducible assumption
  clear_value v77
  extract_lets +onlyGivenNames v76
  have hv76 : State.Kept qu F o v76 := by
    unfold v76
    refine State.raiseIf_kept (sub_of hF rfl) (bit_of hF rfl) ?_
    with_reducible assumption
  clear_value v76
  extract_lets +onlyGivenNames v75
  have hv75 : State.Kept qu F o v75 := by
    unfold v75
    refine State.countReg_kept (bit_of hF rfl) ?_
    refine State.countReg_kept (bit_of hF rfl) ?_
    with_reducible assumption
  clear_value v75
  extract_lets +onlyGivenNames v74
  have hv74 : State.Kept qu F o v74 := by
    unfold v74
    refine State.kept_foldl_range ?_ ?_
    · with_reducible assumption
    · intro s72 x71 x70 h69
      refine State.showGauge_kept (sub_of hF rfl) ?_ ?_
      · assumption
      · with_reducible assumption
  clear_value v74
  refine State.kept_ite (fun _ => ?_) (fun _ => ?_)
  · extract_lets +onlyGivenNames v72
    clear_value v72
    extract_lets +onlyGivenNames v71
    clear_value v71
    extract_lets +onlyGivenNames v70
    have hv70 : State.Kept qu F o v70 := by
      unfold v70
      refine State.kept_tel (bit_of hF rfl) ?_
      with_reducible assumption
    clear_value v70
    refine State.writeCoarse_kept (sub_of hF rfl) ?_
    refine State.setF_kept (bit_of hF rfl) ?_
    with_reducible assumption
  · refine State.writeCoarse_kept (sub_of hF rfl) ?_
    with_reducible assumption

theorem State.telBoundary_kept {qu : List Instr} {F : Nat} {o : State} {s : State} {m : FlashMeas} (hF : 0x204000040409 ||| F = F) (hk : State.Kept qu F o s) : State.Kept qu F o (State.telBoundary s m) := by
  unfold State.telBoundary
  extract_lets +onlyGivenNames v80
  have hv80 : State.Kept qu F o v80 := by
    unfold v80
    split
    · extract_lets +onlyGivenNames v78
      have hv78 : State.Kept qu F o v78 := by
        unfold v78
        refine State.publishFrame_kept (sub_of hF rfl) ?_
        with_reducible assumption
      clear_value v78
      refine State.kept_tel (bit_of hF rfl) ?_
      with_reducible assumption
    · with_reducible assumption
  clear_value v80
  extract_lets +onlyGivenNames v79
  have hv79 : State.Kept qu F o v79 := by
    unfold v79
    refine State.kept_ite (fun _ => ?_) (fun _ => ?_)
    · split
      · refine State.kept_ite (fun _ => ?_) (fun _ => ?_)
        · refine State.makeFrame_kept (sub_of hF rfl) ?_
          with_reducible assumption
        · with_reducible assumption
      · with_reducible assumption
    · with_reducible assumption
  clear_value v79
  extract_lets +onlyGivenNames v78
  clear_value v78
  refine State.kept_with ?_ (by constructor <;> first | exact fun _ => rfl | exact fun _ _ => rfl | exact fun h => absurd (h.symm.trans (bit_of hF rfl)) Bool.false_ne_true) rfl rfl rfl
  with_reducible assumption

theorem cmdReadLoadmap_kept {qu : List Instr} {F : Nat} {o : State} {w : Nat} {s : State} (hF : 0x200100004009 ||| F = F) (hk : State.Kept qu F o s) : State.Kept qu F o (cmdReadLoadmap w s) := by
  unfold cmdReadLoadmap
  extract_lets +onlyGivenNames v80
  clear_value v80
  extract_lets +onlyGivenNames v79
  clear_value v79
  extract_lets +onlyGivenNames v78
  clear_value v78
  extract_lets +onlyGivenNames v77
  clear_value v77
  extract_lets +onlyGivenNames v76
  extract_lets +onlyGivenNames v75
  clear_value v75
  extract_lets +onlyGivenNames v74
  clear_value v74
  extract_lets +onlyGivenNames v73
  clear_value v73
  extract_lets +onlyGivenNames v72
  refine State.kept_ite (fun _ => ?_) (fun _ => ?_)
  · refine State.refuse_kept (sub_of hF rfl) ?_
    with_reducible assumption
  · refine State.kept_ite (fun _ => ?_) (fun _ => ?_)
    · refine State.refuse_kept (sub_of hF rfl) ?_
      with_reducible assumption
    · refine State.kept_ite (fun _ => ?_) (fun _ => ?_)
      · unfold v72
        refine State.complete_kept (sub_of hF rfl) ?_
        with_reducible assumption
      · refine State.kept_ite (fun _ => ?_) (fun _ => ?_)
        · unfold v72
          refine State.complete_kept (sub_of hF rfl) ?_
          with_reducible assumption
        · refine State.kept_ite (fun _ => ?_) (fun _ => ?_)
          · unfold v72
            refine State.complete_kept (sub_of hF rfl) ?_
            with_reducible assumption
          · refine State.kept_ite (fun _ => ?_) (fun _ => ?_)
            · unfold v72
              refine State.complete_kept (sub_of hF rfl) ?_
              with_reducible assumption
            · refine State.kept_ite (fun _ => ?_) (fun _ => ?_)
              · refine State.refuse_kept (sub_of hF rfl) ?_
                refine State.dmaErr_kept (sub_of hF rfl) ?_
                with_reducible assumption
              · extract_lets +onlyGivenNames v64
                clear_value v64
                extract_lets +onlyGivenNames v63
                clear_value v63
                extract_lets +onlyGivenNames v62
                clear_value v62
                extract_lets +onlyGivenNames v61
                clear_value v61
                extract_lets +onlyGivenNames v60
                have hv60 : State.Kept qu F o v60 := by
                  unfold v60
                  refine State.kept_ite (fun _ => ?_) (fun _ => ?_)
                  · with_reducible assumption
                  · refine State.dmaWrite_kept (sub_of hF rfl) ?_
                    with_reducible assumption
                clear_value v60
                extract_lets +onlyGivenNames v59
                have hv59 : State.Kept qu F o v59 := by
                  unfold v59
                  refine State.raiseIf_kept (sub_of hF rfl) (bit_of hF rfl) ?_
                  refine State.setReg_kept (bit_of hF rfl) ?_
                  with_reducible assumption
                clear_value v59
                extract_lets +onlyGivenNames v58
                clear_value v58
                refine State.complete_kept (sub_of hF rfl) ?_
                with_reducible assumption

end Sys2Proof.Machine
end

