-- ==== Sys2Proof/Laws/KeptAgentReport.lean ====
section
/-! SUPPORT. Laws/KeptAgentReport.lean: each operation of Machine/AgentReport.lean keeps the queue and the invariant. -/
namespace Sys2Proof.Machine

theorem State.sendReport_kept {qu : List Instr} {F : Nat} {o : State} {s : State} {a : Addr} {flash : Nat} {body : List Word} (hF : 0x80000 ||| F = F) (hk : State.Kept qu F o s) : State.Kept qu F o (State.sendReport s a flash body) := by
  unfold State.sendReport
  extract_lets +onlyGivenNames v80
  clear_value v80
  extract_lets +onlyGivenNames v79
  clear_value v79
  refine State.sendEvent_kept (sub_of hF rfl) ?_
  refine State.onAgent_kept (sub_of hF rfl) ?_
  with_reducible assumption

theorem State.agResync_kept {qu : List Instr} {F : Nat} {o : State} {s : State} {a : Addr} {n : Nat} (hF : 0x80001 ||| F = F) (hk : State.Kept qu F o s) : State.Kept qu F o (State.agResync s a n) := by
  unfold State.agResync
  refine State.agLcb_kept (sub_of hF rfl) ?_
  refine State.onAgent_kept (sub_of hF rfl) ?_
  with_reducible assumption

theorem State.agPortsNow_kept {qu : List Instr} {F : Nat} {o : State} {s : State} {a : Addr} {ms : List AgPortMeas} (hF : 0x80001 ||| F = F) (hk : State.Kept qu F o s) : State.Kept qu F o (State.agPortsNow s a ms) := by
  unfold State.agPortsNow
  extract_lets +onlyGivenNames v80
  clear_value v80
  extract_lets +onlyGivenNames v79
  clear_value v79
  extract_lets +onlyGivenNames v78
  clear_value v78
  extract_lets +onlyGivenNames v77
  have hv77 : State.Kept qu F o v77 := by
    unfold v77
    refine State.kept_foldl ?_ ?_
    · with_reducible assumption
    · intro s75 x74 h73
      refine State.agFill_kept (sub_of hF rfl) ?_
      with_reducible assumption
  clear_value v77
  extract_lets +onlyGivenNames v76
  have hv76 : State.Kept qu F o v76 := by
    unfold v76
    refine State.onAgent_kept (sub_of hF rfl) ?_
    with_reducible assumption
  clear_value v76
  extract_lets +onlyGivenNames v75
  have hv75 : State.Kept qu F o v75 := by
    unfold v75
    refine State.kept_ite (fun _ => ?_) (fun _ => ?_)
    · with_reducible assumption
    · refine State.agentEvent_kept (sub_of hF rfl) ?_
      with_reducible assumption
  clear_value v75
  refine State.kept_foldl ?_ ?_
  · with_reducible assumption
  · intro s73 x72 h71
    refine State.agResync_kept (sub_of hF rfl) ?_
    with_reducible assumption

theorem State.agResend_kept {qu : List Instr} {F : Nat} {o : State} {s : State} {a : Addr} {f : Flow} {x : SentPkt} (hF : 0x80000 ||| F = F) (hk : State.Kept qu F o s) : State.Kept qu F o (State.agResend s a f x) := by
  unfold State.agResend
  extract_lets +onlyGivenNames v80
  clear_value v80
  extract_lets +onlyGivenNames v79
  clear_value v79
  extract_lets +onlyGivenNames v78
  refine State.kept_ite (fun _ => ?_) (fun _ => ?_)
  · with_reducible assumption
  · refine State.kept_ite (fun _ => ?_) (fun _ => ?_)
    · extract_lets +onlyGivenNames v75
      clear_value v75
      refine State.agentEvent_kept (sub_of hF rfl) ?_
      unfold v78
      refine State.onAgFlow_kept (sub_of hF rfl) ?_
      with_reducible assumption
    · refine State.agLeave_kept (sub_of hF rfl) ?_
      refine State.onAgent_kept (sub_of hF rfl) ?_
      unfold v78
      refine State.onAgFlow_kept (sub_of hF rfl) ?_
      with_reducible assumption

theorem State.agResends_kept {qu : List Instr} {F : Nat} {o : State} {s : State} {a : Addr} (hF : 0x80000 ||| F = F) (hk : State.Kept qu F o s) : State.Kept qu F o (State.agResends s a) := by
  unfold State.agResends
  extract_lets +onlyGivenNames v80
  clear_value v80
  extract_lets +onlyGivenNames v79
  clear_value v79
  refine State.kept_foldl ?_ ?_
  · with_reducible assumption
  · intro s77 x76 h75
    refine State.kept_foldl ?_ ?_
    · with_reducible assumption
    · intro s73 x72 h71
      refine State.agResend_kept (sub_of hF rfl) ?_
      with_reducible assumption

theorem State.agOwed_kept {qu : List Instr} {F : Nat} {o : State} {s : State} {a : Addr} (hF : 0x80000 ||| F = F) (hk : State.Kept qu F o s) : State.Kept qu F o (State.agOwed s a) := by
  unfold State.agOwed
  extract_lets +onlyGivenNames v80
  clear_value v80
  refine State.kept_ite (fun _ => ?_) (fun _ => ?_)
  · refine State.agentEvent_kept (sub_of hF rfl) ?_
    refine State.onAgent_kept (sub_of hF rfl) ?_
    with_reducible assumption
  · with_reducible assumption

theorem State.agBoundary_kept {qu : List Instr} {F : Nat} {o : State} {s : State} {a : Addr} {ms : List AgPortMeas} (hF : 0x80001 ||| F = F) (hk : State.Kept qu F o s) : State.Kept qu F o (State.agBoundary s a ms) := by
  unfold State.agBoundary
  extract_lets +onlyGivenNames v80
  clear_value v80
  extract_lets +onlyGivenNames v79
  clear_value v79
  extract_lets +onlyGivenNames v78
  have hv78 : State.Kept qu F o v78 := by
    unfold v78
    refine State.onAgent_kept (sub_of hF rfl) ?_
    with_reducible assumption
  clear_value v78
  extract_lets +onlyGivenNames v77
  have hv77 : State.Kept qu F o v77 := by
    unfold v77
    refine State.sendReport_kept (sub_of hF rfl) ?_
    refine State.agOwed_kept (sub_of hF rfl) ?_
    refine State.agPortsNow_kept (sub_of hF rfl) ?_
    with_reducible assumption
  clear_value v77
  extract_lets +onlyGivenNames v76
  have hv76 : State.Kept qu F o v76 := by
    unfold v76
    refine State.enableDue_kept (sub_of hF rfl) ?_
    refine State.agResends_kept (sub_of hF rfl) ?_
    with_reducible assumption
  clear_value v76
  extract_lets +onlyGivenNames v75
  have hv75 : State.Kept qu F o v75 := by
    unfold v75
    refine State.kept_foldl ?_ ?_
    · with_reducible assumption
    · intro s73 x72 h71
      refine State.startQueued_kept (sub_of hF rfl) ?_
      with_reducible assumption
  clear_value v75
  refine State.keysNow_kept (sub_of hF rfl) ?_
  with_reducible assumption

end Sys2Proof.Machine
end

