-- ==== Sys2Proof/Laws/KeptAgents.lean ====
section
/-! SUPPORT. Laws/KeptAgents.lean: each operation of Machine/Agents.lean keeps the queue and the invariant. -/
namespace Sys2Proof.Machine

theorem execAgentMgmtRead_kept {qu : List Instr} {F : Nat} {o : State} {agent : Addr} {h : MgmtHead} {addr count : Nat} {s : State} (hF : 0x80001 ||| F = F) (hk : State.Kept qu F o s) : Runs qu F o (execAgentMgmtRead agent h addr count s) := by
  unfold execAgentMgmtRead
  refine runs_next ?_
  refine State.agentRead_kept (sub_of hF rfl) ?_
  with_reducible assumption

theorem execAgentMgmtWrite_kept {qu : List Instr} {F : Nat} {o : State} {agent : Addr} {h : MgmtHead} {addr : Nat} {words : List Word} {s : State} (hF : 0x1000080001 ||| F = F) (hk : State.Kept qu F o s) : Runs qu F o (execAgentMgmtWrite agent h addr words s) := by
  unfold execAgentMgmtWrite
  refine runs_next ?_
  refine State.agentWrite_kept (sub_of hF rfl) ?_
  with_reducible assumption

theorem execAgentBroadcastWrite_kept {qu : List Instr} {F : Nat} {o : State} {agent : Addr} {h : MgmtHead} {addr : Nat} {words : List Word} {s : State} (hF : 0x1000080001 ||| F = F) (hk : State.Kept qu F o s) : Runs qu F o (execAgentBroadcastWrite agent h addr words s) := by
  unfold execAgentBroadcastWrite
  refine runs_next ?_
  refine State.agentWrite_kept (sub_of hF rfl) ?_
  with_reducible assumption

theorem execAgentArm_kept {qu : List Instr} {F : Nat} {o : State} {agent : Addr} {h : MgmtHead} {value : Word} {s : State} (hF : 0x1000080001 ||| F = F) (hk : State.Kept qu F o s) : Runs qu F o (execAgentArm agent h value s) := by
  unfold execAgentArm
  refine runs_next ?_
  refine State.agentWrite_kept (sub_of hF rfl) ?_
  with_reducible assumption

theorem execAgentDisarm_kept {qu : List Instr} {F : Nat} {o : State} {agent : Addr} {h : MgmtHead} {value : Word} {s : State} (hF : 0x1000080001 ||| F = F) (hk : State.Kept qu F o s) : Runs qu F o (execAgentDisarm agent h value s) := by
  unfold execAgentDisarm
  refine runs_next ?_
  refine State.agentWrite_kept (sub_of hF rfl) ?_
  with_reducible assumption

theorem execAgentSetLit_kept {qu : List Instr} {F : Nat} {o : State} {agent : Addr} {h : MgmtHead} {bank : Nat} {s : State} (hF : 0x1000080001 ||| F = F) (hk : State.Kept qu F o s) : Runs qu F o (execAgentSetLit agent h bank s) := by
  unfold execAgentSetLit
  refine runs_next ?_
  refine State.agentWrite_kept (sub_of hF rfl) ?_
  with_reducible assumption

theorem execAgentGo_kept {qu : List Instr} {F : Nat} {o : State} {agent : Addr} {h : MgmtHead} {value : Word} {s : State} (hF : 0x1000080001 ||| F = F) (hk : State.Kept qu F o s) : Runs qu F o (execAgentGo agent h value s) := by
  unfold execAgentGo
  refine runs_next ?_
  refine State.agentWrite_kept (sub_of hF rfl) ?_
  with_reducible assumption

theorem execAgentFreeze_kept {qu : List Instr} {F : Nat} {o : State} {agent : Addr} {h : MgmtHead} {index : Nat} {s : State} (hF : 0x1000080001 ||| F = F) (hk : State.Kept qu F o s) : Runs qu F o (execAgentFreeze agent h index s) := by
  unfold execAgentFreeze
  refine runs_next ?_
  refine State.agentWrite_kept (sub_of hF rfl) ?_
  with_reducible assumption

theorem execAgentThaw_kept {qu : List Instr} {F : Nat} {o : State} {agent : Addr} {h : MgmtHead} {index : Nat} {s : State} (hF : 0x1000080001 ||| F = F) (hk : State.Kept qu F o s) : Runs qu F o (execAgentThaw agent h index s) := by
  unfold execAgentThaw
  refine runs_next ?_
  refine State.agentWrite_kept (sub_of hF rfl) ?_
  with_reducible assumption

theorem execAgentCheckValue_kept {qu : List Instr} {F : Nat} {o : State} {agent : Addr} {h : MgmtHead} {value : Word} {s : State} (hF : 0x1000080001 ||| F = F) (hk : State.Kept qu F o s) : Runs qu F o (execAgentCheckValue agent h value s) := by
  unfold execAgentCheckValue
  refine runs_next ?_
  refine State.agentWrite_kept (sub_of hF rfl) ?_
  with_reducible assumption

theorem execAgentSealCommit_kept {qu : List Instr} {F : Nat} {o : State} {agent : Addr} {h : MgmtHead} {len : Nat} {s : State} (hF : 0x1000080001 ||| F = F) (hk : State.Kept qu F o s) : Runs qu F o (execAgentSealCommit agent h len s) := by
  unfold execAgentSealCommit
  refine runs_next ?_
  refine State.agentWrite_kept (sub_of hF rfl) ?_
  with_reducible assumption

theorem execAgentTrim_kept {qu : List Instr} {F : Nat} {o : State} {agent : Addr} {h : MgmtHead} {value : Word} {s : State} (hF : 0x1000080001 ||| F = F) (hk : State.Kept qu F o s) : Runs qu F o (execAgentTrim agent h value s) := by
  unfold execAgentTrim
  refine runs_next ?_
  refine State.agentWrite_kept (sub_of hF rfl) ?_
  with_reducible assumption

theorem execAgentRate_kept {qu : List Instr} {F : Nat} {o : State} {agent : Addr} {h : MgmtHead} {value : Word} {s : State} (hF : 0x1000080001 ||| F = F) (hk : State.Kept qu F o s) : Runs qu F o (execAgentRate agent h value s) := by
  unfold execAgentRate
  refine runs_next ?_
  refine State.agentWrite_kept (sub_of hF rfl) ?_
  with_reducible assumption

theorem execAgentStep_kept {qu : List Instr} {F : Nat} {o : State} {agent : Addr} {h : MgmtHead} {value : Word} {s : State} (hF : 0x1000080001 ||| F = F) (hk : State.Kept qu F o s) : Runs qu F o (execAgentStep agent h value s) := by
  unfold execAgentStep
  refine runs_next ?_
  refine State.agentWrite_kept (sub_of hF rfl) ?_
  with_reducible assumption

theorem execAgentServe_kept {qu : List Instr} {F : Nat} {o : State} {agent : Addr} {h : MgmtHead} {value : Word} {s : State} (hF : 0x1000080001 ||| F = F) (hk : State.Kept qu F o s) : Runs qu F o (execAgentServe agent h value s) := by
  unfold execAgentServe
  refine runs_next ?_
  refine State.agentWrite_kept (sub_of hF rfl) ?_
  with_reducible assumption

theorem execAgentPause_kept {qu : List Instr} {F : Nat} {o : State} {agent : Addr} {s : State} (hF : 0x80000 ||| F = F) (hk : State.Kept qu F o s) : Runs qu F o (execAgentPause agent s) := by
  unfold execAgentPause
  extract_lets +onlyGivenNames v80
  clear_value v80
  refine runs_next ?_
  refine State.kept_ite (fun _ => ?_) (fun _ => ?_)
  · refine State.onAgent_kept (sub_of hF rfl) ?_
    with_reducible assumption
  · with_reducible assumption

theorem execAgentBankLight_kept {qu : List Instr} {F : Nat} {o : State} {agent : Addr} {s : State} (hF : 0x1000080001 ||| F = F) (hk : State.Kept qu F o s) : Runs qu F o (execAgentBankLight agent s) := by
  unfold execAgentBankLight
  extract_lets +onlyGivenNames v80
  clear_value v80
  refine runs_next ?_
  refine State.kept_ite (fun _ => ?_) (fun _ => ?_)
  · with_reducible assumption
  · refine State.kept_ite (fun _ => ?_) (fun _ => ?_)
    · refine State.agLight_kept (sub_of hF rfl) ?_
      with_reducible assumption
    · extract_lets +onlyGivenNames v76
      clear_value v76
      refine State.agentEvent_kept (sub_of hF rfl) ?_
      refine State.onAgent_kept (sub_of hF rfl) ?_
      refine State.flushDrain_kept (sub_of hF rfl) ?_
      with_reducible assumption

theorem execDrainGuardEnd_kept {qu : List Instr} {F : Nat} {o : State} {agent : Addr} {s : State} (hF : 0x80000 ||| F = F) (hk : State.Kept qu F o s) : Runs qu F o (execDrainGuardEnd agent s) := by
  unfold execDrainGuardEnd
  refine runs_next ?_
  refine State.kept_ite (fun _ => ?_) (fun _ => ?_)
  · with_reducible assumption
  · refine State.agResume_kept (sub_of hF rfl) ?_
    refine State.onAgent_kept (sub_of hF rfl) ?_
    with_reducible assumption

theorem execAgentCheckValueDone_kept {qu : List Instr} {F : Nat} {o : State} {agent : Addr} {s : State} (hF : 0x80000 ||| F = F) (hk : State.Kept qu F o s) : Runs qu F o (execAgentCheckValueDone agent s) := by
  unfold execAgentCheckValueDone
  extract_lets +onlyGivenNames v80
  clear_value v80
  refine runs_next ?_
  refine State.kept_ite (fun _ => ?_) (fun _ => ?_)
  · refine State.onAgent_kept (sub_of hF rfl) ?_
    with_reducible assumption
  · with_reducible assumption

theorem execAgentSealVerifyDone_kept {qu : List Instr} {F : Nat} {o : State} {agent : Addr} {envelopes : List (List Byte)} {s : State} (hF : 0x80001 ||| F = F) (hk : State.Kept qu F o s) : Runs qu F o (execAgentSealVerifyDone agent envelopes s) := by
  unfold execAgentSealVerifyDone
  extract_lets +onlyGivenNames v80
  have hv80 : State.Kept qu F o v80 := by
    unfold v80
    refine State.onAgent_kept (sub_of hF rfl) ?_
    with_reducible assumption
  clear_value v80
  extract_lets +onlyGivenNames v79
  have hv79 : State.Kept qu F o v79 := by
    unfold v79
    split
    · refine State.verifySeal_kept (sub_of hF rfl) ?_
      with_reducible assumption
    · with_reducible assumption
  clear_value v79
  refine runs_next ?_
  refine State.kept_ite (fun _ => ?_) (fun _ => ?_)
  · refine State.keysNow_kept (sub_of hF rfl) ?_
    with_reducible assumption
  · with_reducible assumption

theorem execAgentSealExpiry_kept {qu : List Instr} {F : Nat} {o : State} {agent : Addr} {s : State} (hF : 0x80001 ||| F = F) (hk : State.Kept qu F o s) : Runs qu F o (execAgentSealExpiry agent s) := by
  unfold execAgentSealExpiry
  refine runs_next ?_
  refine State.kept_ite (fun _ => ?_) (fun _ => ?_)
  · refine State.keysNow_kept (sub_of hF rfl) ?_
    with_reducible assumption
  · with_reducible assumption

theorem execAgentGraceEnd_kept {qu : List Instr} {F : Nat} {o : State} {agent : Addr} {s : State} (hF : 0x80001 ||| F = F) (hk : State.Kept qu F o s) : Runs qu F o (execAgentGraceEnd agent s) := by
  unfold execAgentGraceEnd
  refine runs_next ?_
  refine State.kept_ite (fun _ => ?_) (fun _ => ?_)
  · refine State.keysNow_kept (sub_of hF rfl) ?_
    with_reducible assumption
  · with_reducible assumption

theorem execAgentEventResend_kept {qu : List Instr} {F : Nat} {o : State} {agent : Addr} {seq : Nat} {s : State} (hF : 0x80000 ||| F = F) (hk : State.Kept qu F o s) : Runs qu F o (execAgentEventResend agent seq s) := by
  unfold execAgentEventResend
  refine runs_next ?_
  split
  · with_reducible assumption
  · refine State.kept_ite (fun _ => ?_) (fun _ => ?_)
    · refine State.onAgent_kept (sub_of hF rfl) ?_
      with_reducible assumption
    · refine State.sendEvent_kept (sub_of hF rfl) ?_
      refine State.onAgent_kept (sub_of hF rfl) ?_
      with_reducible assumption

theorem execAgentEventAck_kept {qu : List Instr} {F : Nat} {o : State} {agent : Addr} {port seq : Nat} {s : State} (hF : 0x80001 ||| F = F) (hk : State.Kept qu F o s) : Runs qu F o (execAgentEventAck agent port seq s) := by
  unfold execAgentEventAck
  refine runs_next ?_
  refine State.onAgent_kept (sub_of hF rfl) ?_
  refine State.agCredits_kept (sub_of hF rfl) ?_
  with_reducible assumption

theorem execAgentPeriodChange_kept {qu : List Instr} {F : Nat} {o : State} {agent : Addr} {s : State} (hF : 0x80000 ||| F = F) (hk : State.Kept qu F o s) : Runs qu F o (execAgentPeriodChange agent s) := by
  unfold execAgentPeriodChange
  extract_lets +onlyGivenNames v80
  clear_value v80
  extract_lets +onlyGivenNames v79
  clear_value v79
  refine runs_next ?_
  refine State.kept_ite (fun _ => ?_) (fun _ => ?_)
  · refine State.onAgent_kept (sub_of hF rfl) ?_
    with_reducible assumption
  · with_reducible assumption

theorem execAgentReset_kept {qu : List Instr} {F : Nat} {o : State} {agent : Addr} {cause : Nat} {s : State} (hF : 0x80001 ||| F = F) (hk : State.Kept qu F o s) : Runs qu F o (execAgentReset agent cause s) := by
  unfold execAgentReset
  extract_lets +onlyGivenNames v80
  have hv80 : State.Kept qu F o v80 := by
    unfold v80
    refine State.kept_foldl ?_ ?_
    · with_reducible assumption
    · intro s78 x77 h76
      refine State.send_kept (sub_of hF rfl) ?_
      with_reducible assumption
  clear_value v80
  extract_lets +onlyGivenNames v79
  clear_value v79
  extract_lets +onlyGivenNames v78
  have hv78 : State.Kept qu F o v78 := by
    unfold v78
    refine State.kept_agents (bit_of hF rfl) ?_
    with_reducible assumption
  clear_value v78
  extract_lets +onlyGivenNames v77
  clear_value v77
  extract_lets +onlyGivenNames v76
  clear_value v76
  refine runs_next ?_
  refine State.agOwed_kept (sub_of hF rfl) ?_
  refine State.onAgent_kept (sub_of hF rfl) ?_
  with_reducible assumption

theorem execAgentFlashBoundary_kept {qu : List Instr} {F : Nat} {o : State} {agent : Addr} {ports : List AgPortMeas} {s : State} (hF : 0x80001 ||| F = F) (hk : State.Kept qu F o s) : Runs qu F o (execAgentFlashBoundary agent ports s) := by
  unfold execAgentFlashBoundary
  refine runs_next ?_
  refine State.agBoundary_kept (sub_of hF rfl) ?_
  with_reducible assumption

end Sys2Proof.Machine
end

