-- ==== Sys2Proof/Laws/KeptDrains.lean ====
section
/-! SUPPORT. Laws/KeptDrains.lean: each operation of Machine/Drains.lean keeps the queue and the invariant. -/
namespace Sys2Proof.Machine

theorem State.reportDrains_kept {qu : List Instr} {F : Nat} {o : State} {s : State} (hF : 0x241 ||| F = F) (hk : State.Kept qu F o s) : State.Kept qu F o (State.reportDrains s) := by
  unfold State.reportDrains
  extract_lets +onlyGivenNames v80
  clear_value v80
  extract_lets +onlyGivenNames v79
  clear_value v79
  extract_lets +onlyGivenNames v78
  have hv78 : State.Kept qu F o v78 := by
    unfold v78
    refine State.kept_slc (bit_of hF rfl) ?_
    with_reducible assumption
  clear_value v78
  refine State.kept_foldl ?_ ?_
  · with_reducible assumption
  · intro s76 x75 h74
    refine State.tellHead_kept (sub_of hF rfl) ?_
    with_reducible assumption

theorem State.headDrained_kept {qu : List Instr} {F : Nat} {o : State} {s : State} {id rack : Nat} (hF : 0x241 ||| F = F) (hk : State.Kept qu F o s) : State.Kept qu F o (State.headDrained s id rack) := by
  unfold State.headDrained
  split
  · with_reducible assumption
  · extract_lets +onlyGivenNames v79
    clear_value v79
    extract_lets +onlyGivenNames v78
    clear_value v78
    refine State.kept_ite (fun _ => ?_) (fun _ => ?_)
    · extract_lets +onlyGivenNames v76
      clear_value v76
      extract_lets +onlyGivenNames v75
      have hv75 : State.Kept qu F o v75 := by
        unfold v75
        refine State.kept_slc (bit_of hF rfl) ?_
        with_reducible assumption
      clear_value v75
      refine State.flood_kept (sub_of hF rfl) ?_
      with_reducible assumption
    · refine State.kept_slc (bit_of hF rfl) ?_
      with_reducible assumption

theorem State.sliceDrained_kept {qu : List Instr} {F : Nat} {o : State} {s : State} {id state : Nat} (hF : 0x4000000209 ||| F = F) (hk : State.Kept qu F o s) : State.Kept qu F o (State.sliceDrained s id state) := by
  unfold State.sliceDrained
  split
  · with_reducible assumption
  · refine State.kept_ite (fun _ => ?_) (fun _ => ?_)
    · with_reducible assumption
    · extract_lets +onlyGivenNames v78
      have hv78 : State.Kept qu F o v78 := by
        unfold v78
        refine State.noteSlice_kept (sub_of hF rfl) ?_
        refine State.onSlice_kept (sub_of hF rfl) ?_
        with_reducible assumption
      clear_value v78
      extract_lets +onlyGivenNames v77
      clear_value v77
      extract_lets +onlyGivenNames v76
      clear_value v76
      extract_lets +onlyGivenNames v75
      clear_value v75
      extract_lets +onlyGivenNames v74
      have hv74 : State.Kept qu F o v74 := by
        unfold v74
        refine State.kept_slc (bit_of hF rfl) ?_
        with_reducible assumption
      clear_value v74
      extract_lets +onlyGivenNames v73
      have hv73 : State.Kept qu F o v73 := by
        unfold v73
        refine State.raise_kept (sub_of hF rfl) (bit_of hF rfl) ?_
        with_reducible assumption
      clear_value v73
      refine State.kept_foldl ?_ ?_
      · with_reducible assumption
      · intro s71 x70 h69
        refine State.completeAfter_kept (sub_of hF rfl) ?_
        with_reducible assumption

theorem State.drainNoticed_kept {qu : List Instr} {F : Nat} {o : State} {s : State} {id : Nat} {force : Bool} (hF : 0x40000006c9 ||| F = F) (hk : State.Kept qu F o s) : State.Kept qu F o (State.drainNoticed s id force) := by
  unfold State.drainNoticed
  extract_lets +onlyGivenNames v80
  have hv80 : State.Kept qu F o v80 := by
    unfold v80
    refine State.kept_ite (fun _ => ?_) (fun _ => ?_)
    · refine State.noteSlice_kept (sub_of hF rfl) ?_
      refine State.onSlice_kept (sub_of hF rfl) ?_
      with_reducible assumption
    · with_reducible assumption
  clear_value v80
  extract_lets +onlyGivenNames v79
  have hv79 : State.Kept qu F o v79 := by
    unfold v79
    refine State.kept_ite (fun _ => ?_) (fun _ => ?_)
    · refine State.raise_kept (sub_of hF rfl) (bit_of hF rfl) ?_
      refine State.onSlice_kept (sub_of hF rfl) ?_
      with_reducible assumption
    · with_reducible assumption
  clear_value v79
  extract_lets +onlyGivenNames v78
  have hv78 : State.Kept qu F o v78 := by
    unfold v78
    refine State.kept_ite (fun _ => ?_) (fun _ => ?_)
    · refine State.kept_foldl ?_ ?_
      · with_reducible assumption
      · intro s75 x74 h73
        refine State.startAbort_kept (sub_of hF rfl) ?_
        with_reducible assumption
    · with_reducible assumption
  clear_value v78
  refine State.kept_ite (fun _ => ?_) (fun _ => ?_)
  · with_reducible assumption
  · extract_lets +onlyGivenNames v76
    clear_value v76
    extract_lets +onlyGivenNames v75
    have hv75 : State.Kept qu F o v75 := by
      unfold v75
      refine State.kept_ite (fun _ => ?_) (fun _ => ?_)
      · refine State.kept_slc (bit_of hF rfl) ?_
        with_reducible assumption
      · refine State.kept_slc (bit_of hF rfl) ?_
        with_reducible assumption
    clear_value v75
    extract_lets +onlyGivenNames v74
    have hv74 : State.Kept qu F o v74 := by
      unfold v74
      refine State.kept_foldl ?_ ?_
      · with_reducible assumption
      · intro s72 x71 h70
        refine State.loadSlots_kept (sub_of hF rfl) ?_
        with_reducible assumption
    clear_value v74
    refine State.reportDrains_kept (sub_of hF rfl) ?_
    refine State.pauseMembers_kept (sub_of hF rfl) ?_
    with_reducible assumption

theorem State.gotDrainNotice_kept {qu : List Instr} {F : Nat} {o : State} {s : State} {_src : Addr} {m : KMsg} (hF : 0x40000006c9 ||| F = F) (hk : State.Kept qu F o s) : State.Kept qu F o (State.gotDrainNotice s _src m) := by
  unfold State.gotDrainNotice
  refine State.showSlices_kept (sub_of hF rfl) ?_
  refine State.kept_foldl ?_ ?_
  · with_reducible assumption
  · intro s78 x77 h76
    refine State.drainNoticed_kept (sub_of hF rfl) ?_
    with_reducible assumption

theorem execDrainNotice_kept {qu : List Instr} {F : Nat} {o : State} {port : Nat} {p : Packet} {s : State} (hF : 0x10050000247f9 ||| F = F) (hk : State.Kept qu F o s) : Runs qu F o (execDrainNotice port p s) := by
  unfold execDrainNotice
  refine runs_next ?_
  refine State.takeMsg_kept (sub_of hF rfl) ?_ ?_
  · with_reducible assumption
  · intro s78 x77 x76 h75
    refine State.gotDrainNotice_kept (sub_of hF rfl) ?_
    with_reducible assumption

theorem execDrainEmptyEvent_kept {qu : List Instr} {F : Nat} {o : State} {port : Nat} {p : Packet} {s : State} (hF : 0x10000000242d9 ||| F = F) (hk : State.Kept qu F o s) : Runs qu F o (execDrainEmptyEvent port p s) := by
  unfold execDrainEmptyEvent
  refine runs_next ?_
  refine State.takeAgentEvent_kept (sub_of hF rfl) ?_ ?_
  · with_reducible assumption
  · intro s78 x77 h76
    extract_lets +onlyGivenNames v75
    clear_value v75
    refine State.reportDrains_kept (sub_of hF rfl) ?_
    refine State.kept_slc (bit_of hF rfl) ?_
    with_reducible assumption

theorem State.gotDrainReport_kept {qu : List Instr} {F : Nat} {o : State} {s : State} {src : Addr} {m : KMsg} (hF : 0x241 ||| F = F) (hk : State.Kept qu F o s) : State.Kept qu F o (State.gotDrainReport s src m) := by
  unfold State.gotDrainReport
  refine State.kept_ite (fun _ => ?_) (fun _ => ?_)
  · with_reducible assumption
  · refine State.kept_foldl ?_ ?_
    · with_reducible assumption
    · intro s78 x77 h76
      refine State.headDrained_kept (sub_of hF rfl) ?_
      with_reducible assumption

theorem execDrainReport_kept {qu : List Instr} {F : Nat} {o : State} {port : Nat} {p : Packet} {s : State} (hF : 0x1001000024379 ||| F = F) (hk : State.Kept qu F o s) : Runs qu F o (execDrainReport port p s) := by
  unfold execDrainReport
  refine runs_next ?_
  refine State.takeMsg_kept (sub_of hF rfl) ?_ ?_
  · with_reducible assumption
  · intro s78 x77 x76 h75
    refine State.gotDrainReport_kept (sub_of hF rfl) ?_
    with_reducible assumption

theorem State.gotSliceDone_kept {qu : List Instr} {F : Nat} {o : State} {s : State} {_src : Addr} {m : KMsg} (hF : 0x4000000209 ||| F = F) (hk : State.Kept qu F o s) : State.Kept qu F o (State.gotSliceDone s _src m) := by
  unfold State.gotSliceDone
  refine State.showSlices_kept (sub_of hF rfl) ?_
  refine State.kept_foldl ?_ ?_
  · with_reducible assumption
  · intro s78 x77 h76
    refine State.sliceDrained_kept (sub_of hF rfl) ?_
    with_reducible assumption

theorem execSliceDone_kept {qu : List Instr} {F : Nat} {o : State} {port : Nat} {p : Packet} {s : State} (hF : 0x1005000024379 ||| F = F) (hk : State.Kept qu F o s) : Runs qu F o (execSliceDone port p s) := by
  unfold execSliceDone
  refine runs_next ?_
  refine State.takeMsg_kept (sub_of hF rfl) ?_ ?_
  · with_reducible assumption
  · intro s78 x77 x76 h75
    refine State.gotSliceDone_kept (sub_of hF rfl) ?_
    with_reducible assumption

end Sys2Proof.Machine
end

