-- ==== Sys2Proof/Laws/KeptMoorOps.lean ====
section
/-! SUPPORT. Laws/KeptMoorOps.lean: each operation of Machine/MoorOps.lean keeps the queue and the invariant. -/
namespace Sys2Proof.Machine

theorem State.holdItem_kept {qu : List Instr} {F : Nat} {o : State} {s : State} {i : ImgItem} (hF : 0x102000 ||| F = F) (hk : State.Kept qu F o s) : State.Kept qu F o (State.holdItem s i) := by
  unfold State.holdItem
  extract_lets +onlyGivenNames v80
  clear_value v80
  refine State.onMor_kept (sub_of hF rfl) ?_ ?_ ?_
  · refine State.hbmWrite_kept (sub_of hF rfl) ?_
    with_reducible assumption
  · intro x78
    rfl
  · intro x78
    rfl

theorem State.holdItems_kept {qu : List Instr} {F : Nat} {o : State} {s : State} {is : List ImgItem} (hF : 0x102000 ||| F = F) (hk : State.Kept qu F o s) : State.Kept qu F o (State.holdItems s is) := by
  unfold State.holdItems
  refine State.kept_foldl ?_ ?_
  · with_reducible assumption
  · intro s79 x78 h77
    refine State.holdItem_kept (sub_of hF rfl) ?_
    with_reducible assumption

theorem State.moorPacket_kept {qu : List Instr} {F : Nat} {o : State} {s : State} {opkind : Nat} {ws : List Word} (hF : 0x40 ||| F = F) (hk : State.Kept qu F o s) : State.Kept qu F o (State.moorPacket s opkind ws) := by
  unfold State.moorPacket
  refine State.enqueue_kept (sub_of hF rfl) ?_
  with_reducible assumption

theorem State.moorCommitSend_kept {qu : List Instr} {F : Nat} {o : State} {s : State} {ws : List Word} {image : Nat} (hF : 0x41 ||| F = F) (hk : State.Kept qu F o s) : State.Kept qu F o (State.moorCommitSend s ws image) := by
  unfold State.moorCommitSend
  refine State.send_kept (sub_of hF rfl) ?_
  refine State.moorPacket_kept (sub_of hF rfl) ?_
  with_reducible assumption

theorem State.sendDeltas_kept {qu : List Instr} {F : Nat} {o : State}  {n : Nat} {a1 : Nat} {s : State} (hF : 0x2041 ||| F = F) (hk : State.Kept qu F o s) : State.Kept qu F o (State.sendDeltas  n a1 s) := by
  induction n generalizing a1 s with
  | zero =>
    rw [State.sendDeltas]
    with_reducible assumption
  | succ n ih =>
    rw [State.sendDeltas]
    split
    · with_reducible assumption
    · split
      · extract_lets +onlyGivenNames v78
        clear_value v78
        apply ih
        refine State.moorCommitSend_kept (sub_of hF rfl) ?_
        refine State.onMor_kept (sub_of hF rfl) ?_ ?_ ?_
        · with_reducible assumption
        · intro x74
          rfl
        · intro x74
          rfl
      · extract_lets +onlyGivenNames v78
        clear_value v78
        refine State.kept_ite (fun _ => ?_) (fun _ => ?_)
        · apply ih
          refine State.moorPacket_kept (sub_of hF rfl) ?_
          refine State.onMor_kept (sub_of hF rfl) ?_ ?_ ?_
          · with_reducible assumption
          · intro x73
            rfl
          · intro x73
            rfl
        · with_reducible assumption

theorem State.sendOwed_kept {qu : List Instr} {F : Nat} {o : State} {s : State} (hF : 0x2041 ||| F = F) (hk : State.Kept qu F o s) : State.Kept qu F o (State.sendOwed s) := by
  unfold State.sendOwed
  refine State.sendDeltas_kept (sub_of hF rfl) ?_
  with_reducible assumption

theorem State.moorSend_kept {qu : List Instr} {F : Nat} {o : State} {s : State} {flash : Nat} {final : Bool} (hF : 0x400000002049 ||| F = F) (hk : State.Kept qu F o s) : State.Kept qu F o (State.moorSend s flash final) := by
  unfold State.moorSend
  extract_lets +onlyGivenNames v80
  clear_value v80
  extract_lets +onlyGivenNames v79
  clear_value v79
  extract_lets +onlyGivenNames v78
  clear_value v78
  extract_lets +onlyGivenNames v77
  clear_value v77
  extract_lets +onlyGivenNames v76
  have hv76 : State.Kept qu F o v76 := by
    unfold v76
    refine State.setF_kept (bit_of hF rfl) ?_
    with_reducible assumption
  clear_value v76
  extract_lets +onlyGivenNames v75
  have hv75 : State.Kept qu F o v75 := by
    unfold v75
    refine State.onMor_kept (sub_of hF rfl) ?_ ?_ ?_
    · with_reducible assumption
    · intro x73
      rfl
    · intro x73
      rfl
  clear_value v75
  extract_lets +onlyGivenNames v74
  refine State.kept_ite (fun _ => ?_) (fun _ => ?_)
  · with_reducible assumption
  · extract_lets +onlyGivenNames v72
    clear_value v72
    extract_lets +onlyGivenNames v71
    have hv71 : State.Kept qu F o v71 := by
      unfold v71
      refine State.onMor_kept (sub_of hF rfl) ?_ ?_ ?_
      · with_reducible assumption
      · intro x69
        rfl
      · intro x69
        rfl
    clear_value v71
    extract_lets +onlyGivenNames v70
    have hv70 : State.Kept qu F o v70 := by
      unfold v70
      refine State.kept_ite (fun _ => ?_) (fun _ => ?_)
      · refine State.setF_kept (bit_of hF rfl) ?_
        with_reducible assumption
      · with_reducible assumption
    clear_value v70
    extract_lets +onlyGivenNames v69
    clear_value v69
    extract_lets +onlyGivenNames v68
    clear_value v68
    extract_lets +onlyGivenNames v67
    clear_value v67
    extract_lets +onlyGivenNames v66
    have hv66 : State.Kept qu F o v66 := by
      unfold v66
      refine State.setF_kept (bit_of hF rfl) ?_
      with_reducible assumption
    clear_value v66
    extract_lets +onlyGivenNames v65
    have hv65 : State.Kept qu F o v65 := by
      unfold v65
      refine State.setF_kept (bit_of hF rfl) ?_
      with_reducible assumption
    clear_value v65
    extract_lets +onlyGivenNames v64
    have hv64 : State.Kept qu F o v64 := by
      unfold v64
      refine State.onMor_kept (sub_of hF rfl) ?_ ?_ ?_
      · with_reducible assumption
      · intro x62
        rfl
      · intro x62
        rfl
    clear_value v64
    extract_lets +onlyGivenNames v63
    have hv63 : State.Kept qu F o v63 := by
      unfold v63
      refine State.sendOwed_kept (sub_of hF rfl) ?_
      with_reducible assumption
    clear_value v63
    extract_lets +onlyGivenNames v62
    have hv62 : State.Kept qu F o v62 := by
      unfold v62
      refine State.setF_kept (bit_of hF rfl) ?_
      with_reducible assumption
    clear_value v62
    refine State.kept_ite (fun _ => ?_) (fun _ => ?_)
    · refine State.raise_kept (sub_of hF rfl) (bit_of hF rfl) ?_
      refine State.countReg_kept (bit_of hF rfl) ?_
      with_reducible assumption
    · with_reducible assumption

theorem State.startPages_kept {qu : List Instr} {F : Nat} {o : State} {s : State} (hF : 0x400000002000 ||| F = F) (hk : State.Kept qu F o s) : State.Kept qu F o (State.startPages s) := by
  unfold State.startPages
  extract_lets +onlyGivenNames v80
  clear_value v80
  extract_lets +onlyGivenNames v79
  have hv79 : State.Kept qu F o v79 := by
    unfold v79
    refine State.setF_kept (bit_of hF rfl) ?_
    refine State.setF_kept (bit_of hF rfl) ?_
    with_reducible assumption
  clear_value v79
  refine State.onMor_kept (sub_of hF rfl) ?_ ?_ ?_
  · refine State.setF_kept (bit_of hF rfl) ?_
    with_reducible assumption
  · intro x77
    rfl
  · intro x77
    rfl

theorem State.startResync_kept {qu : List Instr} {F : Nat} {o : State} {s : State} (hF : 0x400000002000 ||| F = F) (hk : State.Kept qu F o s) : State.Kept qu F o (State.startResync s) := by
  unfold State.startResync
  extract_lets +onlyGivenNames v80
  have hv80 : State.Kept qu F o v80 := by
    unfold v80
    refine State.setF_kept (bit_of hF rfl) ?_
    refine State.setF_kept (bit_of hF rfl) ?_
    refine State.setF_kept (bit_of hF rfl) ?_
    with_reducible assumption
  clear_value v80
  refine State.onMor_kept (sub_of hF rfl) ?_ ?_ ?_
  · refine State.setF_kept (bit_of hF rfl) ?_
    with_reducible assumption
  · intro x78
    rfl
  · intro x78
    rfl

theorem State.sendStatus_kept {qu : List Instr} {F : Nat} {o : State} {s : State} (hF : 0x41 ||| F = F) (hk : State.Kept qu F o s) : State.Kept qu F o (State.sendStatus s) := by
  unfold State.sendStatus
  extract_lets +onlyGivenNames v80
  clear_value v80
  extract_lets +onlyGivenNames v79
  clear_value v79
  refine State.moorCommitSend_kept (sub_of hF rfl) ?_
  with_reducible assumption

theorem State.sendSelect_kept {qu : List Instr} {F : Nat} {o : State} {s : State} {n tag : Nat} {ws : List Word} (hF : 0x40 ||| F = F) (hk : State.Kept qu F o s) : State.Kept qu F o (State.sendSelect s n tag ws) := by
  unfold State.sendSelect
  refine State.enqueue_kept (sub_of hF rfl) ?_
  with_reducible assumption

theorem State.pumpSelect_kept {qu : List Instr} {F : Nat} {o : State}  {n : Nat} {a1 : List (Nat × Nat)} {s : State} (hF : 0x2040 ||| F = F) (hk : State.Kept qu F o s) : State.Kept qu F o (State.pumpSelect  n a1 s) := by
  induction n generalizing a1 s with
  | zero =>
    rw [State.pumpSelect]
    with_reducible assumption
  | succ n ih =>
    rw [State.pumpSelect]
    split
    · with_reducible assumption
    · extract_lets +onlyGivenNames v79
      clear_value v79
      split
      · with_reducible assumption
      · extract_lets +onlyGivenNames v77
        have hv77 : State.Kept qu F o v77 := by
          unfold v77
          refine State.onMor_kept (sub_of hF rfl) ?_ ?_ ?_
          · with_reducible assumption
          · intro x75
            rfl
          · intro x75
            rfl
        clear_value v77
        extract_lets +onlyGivenNames v76
        clear_value v76
        apply ih
        refine State.sendSelect_kept (sub_of hF rfl) ?_
        with_reducible assumption

theorem State.selectSend_kept {qu : List Instr} {F : Nat} {o : State} {s : State} {flash : Nat} (hF : 0x2040 ||| F = F) (hk : State.Kept qu F o s) : State.Kept qu F o (State.selectSend s flash) := by
  unfold State.selectSend
  extract_lets +onlyGivenNames v80
  clear_value v80
  extract_lets +onlyGivenNames v79
  clear_value v79
  extract_lets +onlyGivenNames v78
  clear_value v78
  extract_lets +onlyGivenNames v77
  clear_value v77
  extract_lets +onlyGivenNames v76
  have hv76 : State.Kept qu F o v76 := by
    unfold v76
    refine State.onMor_kept (sub_of hF rfl) ?_ ?_ ?_
    · with_reducible assumption
    · intro x74
      rfl
    · intro x74
      rfl
  clear_value v76
  refine State.pumpSelect_kept (sub_of hF rfl) ?_
  with_reducible assumption

theorem State.countMirrored_kept {qu : List Instr} {F : Nat} {o : State} {s : State} (hF : 0x6009 ||| F = F) (hk : State.Kept qu F o s) : State.Kept qu F o (State.countMirrored s) := by
  unfold State.countMirrored
  extract_lets +onlyGivenNames v80
  clear_value v80
  extract_lets +onlyGivenNames v79
  clear_value v79
  extract_lets +onlyGivenNames v78
  have hv78 : State.Kept qu F o v78 := by
    unfold v78
    refine State.onMor_kept (sub_of hF rfl) ?_ ?_ ?_
    · with_reducible assumption
    · intro x76
      rfl
    · intro x76
      rfl
  clear_value v78
  refine State.releaseWaits_kept (sub_of hF rfl) ?_
  with_reducible assumption

theorem State.resendAll_kept {qu : List Instr} {F : Nat} {o : State} {s : State} (hF : 0xc0 ||| F = F) (hk : State.Kept qu F o s) : State.Kept qu F o (State.resendAll s) := by
  unfold State.resendAll
  extract_lets +onlyGivenNames v80
  clear_value v80
  extract_lets +onlyGivenNames v79
  clear_value v79
  extract_lets +onlyGivenNames v78
  clear_value v78
  extract_lets +onlyGivenNames v77
  have hv77 : State.Kept qu F o v77 := by
    unfold v77
    refine State.kept_mgmt (bit_of hF rfl) ?_
    with_reducible assumption
  clear_value v77
  refine State.kept_ite (fun _ => ?_) (fun _ => ?_)
  · refine State.kept_foldl ?_ ?_
    · with_reducible assumption
    · intro s74 x73 h72
      refine State.sendMgmt_kept (sub_of hF rfl) ?_
      with_reducible assumption
  · with_reducible assumption

theorem State.advanceMgen_kept {qu : List Instr} {F : Nat} {o : State} {s : State} (hF : 0x8000000040c0 ||| F = F) (hk : State.Kept qu F o s) : State.Kept qu F o (State.advanceMgen s) := by
  unfold State.advanceMgen
  refine State.kept_ite (fun _ => ?_) (fun _ => ?_)
  · refine State.resendAll_kept (sub_of hF rfl) ?_
    with_reducible assumption
  · extract_lets +onlyGivenNames v79
    have hv79 : State.Kept qu F o v79 := by
      unfold v79
      refine State.setF_kept (bit_of hF rfl) ?_
      with_reducible assumption
    clear_value v79
    refine State.resendAll_kept (sub_of hF rfl) ?_
    refine State.kept_rst (bit_of hF rfl) ?_
    with_reducible assumption

theorem State.dropWindows_kept {qu : List Instr} {F : Nat} {o : State} {s : State} {ws : List Nat} (hF : 0x10628 ||| F = F) (hk : State.Kept qu F o s) : State.Kept qu F o (State.dropWindows s ws) := by
  unfold State.dropWindows
  extract_lets +onlyGivenNames v80
  clear_value v80
  refine State.kept_with ?_ (by constructor <;> first | exact fun _ => rfl | exact fun _ _ => rfl | exact fun h => absurd (h.symm.trans (bit_of hF rfl)) Bool.false_ne_true) rfl rfl rfl
  with_reducible assumption

theorem State.failWindows_kept {qu : List Instr} {F : Nat} {o : State} {s : State} {ws : List Nat} {error reason : Nat} (hF : 0x14629 ||| F = F) (hk : State.Kept qu F o s) : State.Kept qu F o (State.failWindows s ws error reason) := by
  unfold State.failWindows
  refine State.kept_foldl ?_ ?_
  · refine State.dropWindows_kept (sub_of hF rfl) ?_
    with_reducible assumption
  · intro s79 x78 h77
    refine State.refuse_kept (sub_of hF rfl) ?_
    with_reducible assumption

theorem State.loseLit_kept {qu : List Instr} {F : Nat} {o : State} {s : State} {grant : Bool} (hF : 0xffffffff000166e9 ||| F = F) (hk : State.Kept qu F o s) : State.Kept qu F o (State.loseLit s grant) := by
  unfold State.loseLit
  extract_lets +onlyGivenNames v80
  clear_value v80
  extract_lets +onlyGivenNames v79
  have hv79 : State.Kept qu F o v79 := by
    unfold v79
    refine State.kept_ite (fun _ => ?_) (fun _ => ?_)
    · refine State.moorSend_kept (sub_of hF rfl) ?_
      with_reducible assumption
    · with_reducible assumption
  clear_value v79
  extract_lets +onlyGivenNames v78
  have hv78 : State.Kept qu F o v78 := by
    unfold v78
    refine State.onMor_keptOf (sub_of hF rfl) ?_ (by first | exact fun _ _ => rfl | exact fun _ _ => hg | exact fun _ h => absurd h Bool.false_ne_true | exact fun _ h => absurd h ‹_›)
    with_reducible assumption
  clear_value v78
  extract_lets +onlyGivenNames v77
  have hv77 : State.Kept qu F o v77 := by
    unfold v77
    refine State.setF_kept (bit_of hF rfl) ?_
    refine State.setF_kept (bit_of hF rfl) ?_
    refine State.setF_kept (bit_of hF rfl) ?_
    with_reducible assumption
  clear_value v77
  extract_lets +onlyGivenNames v76
  have hv76 : State.Kept qu F o v76 := by
    unfold v76
    refine State.setF_kept (bit_of hF rfl) ?_
    refine State.setF_kept (bit_of hF rfl) ?_
    with_reducible assumption
  clear_value v76
  extract_lets +onlyGivenNames v75
  have hv75 : State.Kept qu F o v75 := by
    unfold v75
    refine State.selfStale_kept (sub_of hF rfl) ?_
    refine State.failWindows_kept (sub_of hF rfl) ?_
    with_reducible assumption
  clear_value v75
  extract_lets +onlyGivenNames v74
  clear_value v74
  extract_lets +onlyGivenNames v73
  clear_value v73
  extract_lets +onlyGivenNames v72
  have hv72 : State.Kept qu F o v72 := by
    unfold v72
    refine State.kept_with ?_ (by constructor <;> first | exact fun _ => rfl | exact fun _ _ => rfl | exact fun h => absurd (h.symm.trans (bit_of hF rfl)) Bool.false_ne_true) rfl rfl rfl
    with_reducible assumption
  clear_value v72
  extract_lets +onlyGivenNames v71
  have hv71 : State.Kept qu F o v71 := by
    unfold v71
    refine State.setF_kept (bit_of hF rfl) ?_
    with_reducible assumption
  clear_value v71
  extract_lets +onlyGivenNames v70
  have hv70 : State.Kept qu F o v70 := by
    unfold v70
    refine State.onWdn_kept (sub_of hF rfl) ?_
    with_reducible assumption
  clear_value v70
  extract_lets +onlyGivenNames v69
  have hv69 : State.Kept qu F o v69 := by
    unfold v69
    refine State.showQueue_kept (sub_of hF rfl) ?_
    refine State.setUnfit_kept (sub_of hF rfl) ?_
    refine State.renew_kept (sub_of hF rfl) ?_ ?_
    · refine State.setF_kept (bit_of hF rfl) ?_
      with_reducible assumption
    · intro s65 h64
      unfold id
      with_reducible assumption
  clear_value v69
  refine State.raise_kept (sub_of hF rfl) (bit_of hF rfl) ?_
  refine State.count_kept (bit_of hF rfl) ?_
  with_reducible assumption

theorem State.logTakeover_kept {qu : List Instr} {F : Nat} {o : State} {s : State} (hF : 0x1000000024009 ||| F = F) (hk : State.Kept qu F o s) : State.Kept qu F o (State.logTakeover s) := by
  unfold State.logTakeover
  refine State.logOwn_kept (sub_of hF rfl) ?_
  with_reducible assumption

theorem State.takeLit_kept {qu : List Instr} {F : Nat} {o : State} {s : State} (hF : 0x1c000000260c9 ||| F = F) (hk : State.Kept qu F o s) (hg : s.mor.grant = true) : State.Kept qu F o (State.takeLit s) := by
  unfold State.takeLit
  extract_lets +onlyGivenNames v1080
  extract_lets +onlyGivenNames v1079
  extract_lets +onlyGivenNames v1078
  have hv1078 : State.Kept qu F o v1078 := by
    unfold v1078
    refine State.onMor_keptOf (sub_of hF rfl) ?_ (by first | exact fun _ _ => rfl | exact fun _ _ => hg | exact fun _ h => absurd h Bool.false_ne_true | exact fun _ h => absurd h ‹_›)
    refine State.setF_kept (bit_of hF rfl) ?_
    with_reducible assumption
  extract_lets +onlyGivenNames v1077
  have hv1077 : State.Kept qu F o v1077 := by
    unfold v1077
    refine State.setPair_kept (bit_of hF rfl) (bit_of hF rfl) ?_
    refine State.setF_kept (bit_of hF rfl) ?_
    refine State.setF_kept (bit_of hF rfl) ?_
    with_reducible assumption
  extract_lets +onlyGivenNames v1076
  have hv1076 : State.Kept qu F o v1076 := by
    unfold v1076
    refine State.advanceMgen_kept (sub_of hF rfl) ?_
    refine State.raise_kept (sub_of hF rfl) (bit_of hF rfl) ?_
    refine State.count_kept (bit_of hF rfl) ?_
    with_reducible assumption
  refine State.logTakeover_kept (sub_of hF rfl) ?_
  refine State.writeKeeperPort_kept (sub_of hF rfl) ?_
  with_reducible assumption

theorem State.armingLost_kept {qu : List Instr} {F : Nat} {o : State} {s : State} {a : Arming} (hF : 0x200000069 ||| F = F) (hk : State.Kept qu F o s) : State.Kept qu F o (State.armingLost s a) := by
  unfold State.armingLost
  extract_lets +onlyGivenNames v80
  have hv80 : State.Kept qu F o v80 := by
    unfold v80
    refine State.withdrawChart_kept (sub_of hF rfl) ?_
    refine State.raise_kept (sub_of hF rfl) (bit_of hF rfl) ?_
    refine State.disarm_kept (sub_of hF rfl) ?_
    with_reducible assumption
  clear_value v80
  refine State.kept_ite (fun _ => ?_) (fun _ => ?_)
  · refine State.judgeMismatch_kept (sub_of hF rfl) ?_
    refine State.kept_chart (bit_of hF rfl) ?_
    with_reducible assumption
  · with_reducible assumption

theorem State.takeImage_kept {qu : List Instr} {F : Nat} {o : State} {s : State} {i : Image} (hF : 0xffffffff000117f9 ||| F = F) (hk : State.Kept qu F o s) : State.Kept qu F o (State.takeImage s i) := by
  unfold State.takeImage
  extract_lets +onlyGivenNames v80
  clear_value v80
  extract_lets +onlyGivenNames v79
  clear_value v79
  extract_lets +onlyGivenNames v78
  extract_lets +onlyGivenNames v77
  clear_value v77
  extract_lets +onlyGivenNames v76
  clear_value v76
  extract_lets +onlyGivenNames v75
  clear_value v75
  extract_lets +onlyGivenNames v74
  clear_value v74
  extract_lets +onlyGivenNames v73
  clear_value v73
  extract_lets +onlyGivenNames v72
  clear_value v72
  extract_lets +onlyGivenNames v71
  clear_value v71
  extract_lets +onlyGivenNames v70
  clear_value v70
  extract_lets +onlyGivenNames v69
  clear_value v69
  extract_lets +onlyGivenNames v68
  have hv68 : State.Kept qu F o v68 := by
    unfold v68
    refine State.kept_withRegs ?_ (fun ho => canonical_foldl (canonical_filter (hk.inv ho).1)) (by constructor <;> first | exact fun _ => rfl | exact fun h => absurd (h.symm.trans (bit_of hF rfl)) Bool.false_ne_true | exact fun _ h => absurd (h.symm.trans (bit_all hF rfl)) Bool.false_ne_true) rfl rfl rfl
    with_reducible assumption
  clear_value v68
  extract_lets +onlyGivenNames v67
  have hv67 : State.Kept qu F o v67 := by
    unfold v67
    refine State.setF_kept (bit_of hF rfl) ?_
    with_reducible assumption
  clear_value v67
  extract_lets +onlyGivenNames v66
  have hv66 : State.Kept qu F o v66 := by
    unfold v66
    split
    · refine State.setF_kept (bit_of hF rfl) ?_
      refine State.setF_kept (bit_of hF rfl) ?_
      with_reducible assumption
    · refine State.setF_kept (bit_of hF rfl) ?_
      with_reducible assumption
  clear_value v66
  extract_lets +onlyGivenNames v65
  have hv65 : State.Kept qu F o v65 := by
    unfold v65
    split
    · refine State.kept_ite (fun _ => ?_) (fun _ => ?_)
      · with_reducible assumption
      · refine State.armingLost_kept (sub_of hF rfl) ?_
        with_reducible assumption
    · with_reducible assumption
  clear_value v65
  extract_lets +onlyGivenNames v64
  have hv64 : State.Kept qu F o v64 := by
    unfold v64
    refine State.resendAll_kept (sub_of hF rfl) ?_
    with_reducible assumption
  clear_value v64
  extract_lets +onlyGivenNames v63
  have hv63 : State.Kept qu F o v63 := by
    unfold v63
    refine State.kept_foldl ?_ ?_
    · with_reducible assumption
    · intro s61 x60 h59
      extract_lets +onlyGivenNames v58
      clear_value v58
      refine State.askProposal_kept (sub_of hF rfl) ?_
      refine State.onAdm_kept (sub_of hF rfl) ?_
      with_reducible assumption
  clear_value v63
  refine State.kept_slc (bit_of hF rfl) ?_
  with_reducible assumption

theorem State.askGraph_kept {qu : List Instr} {F : Nat} {o : State} {s : State} (hF : 0x41 ||| F = F) (hk : State.Kept qu F o s) : State.Kept qu F o (State.askGraph s) := by
  unfold State.askGraph
  extract_lets +onlyGivenNames v80
  clear_value v80
  refine State.tell_kept (sub_of hF rfl) ?_
  with_reducible assumption

theorem State.takeSelect_kept {qu : List Instr} {F : Nat} {o : State} {s : State} {i : SelImage} (hF : 0x10000137c1 ||| F = F) (hk : State.Kept qu F o s) : State.Kept qu F o (State.takeSelect s i) := by
  unfold State.takeSelect
  extract_lets +onlyGivenNames v80
  clear_value v80
  extract_lets +onlyGivenNames v79
  clear_value v79
  extract_lets +onlyGivenNames v78
  clear_value v78
  extract_lets +onlyGivenNames v77
  clear_value v77
  extract_lets +onlyGivenNames v76
  clear_value v76
  extract_lets +onlyGivenNames v75
  have hv75 : State.Kept qu F o v75 := by
    unfold v75
    refine State.kept_with ?_ (by constructor <;> first | exact fun _ => rfl | exact fun _ _ => rfl | exact fun h => absurd (h.symm.trans (bit_of hF rfl)) Bool.false_ne_true) rfl rfl rfl
    with_reducible assumption
  clear_value v75
  extract_lets +onlyGivenNames v74
  have hv74 : State.Kept qu F o v74 := by
    unfold v74
    refine State.setDigest_kept (bit_of hF rfl) rfl ?_
    refine State.setPair_kept (bit_of hF rfl) (bit_of hF rfl) ?_
    refine State.setReg_kept (bit_of hF rfl) ?_
    with_reducible assumption
  clear_value v74
  extract_lets +onlyGivenNames v73
  have hv73 : State.Kept qu F o v73 := by
    unfold v73
    refine State.onMor_kept (sub_of hF rfl) ?_ ?_ ?_
    · refine State.setPhase_kept (sub_of hF rfl) ?_
      with_reducible assumption
    · intro x71
      rfl
    · intro x71
      rfl
  clear_value v73
  extract_lets +onlyGivenNames v72
  have hv72 : State.Kept qu F o v72 := by
    unfold v72
    refine State.kept_foldl_range ?_ ?_
    · with_reducible assumption
    · intro s70 x69 x68 h67
      refine State.readNeighbours_kept (sub_of hF rfl) ?_
      with_reducible assumption
  clear_value v72
  refine State.askGraph_kept (sub_of hF rfl) ?_
  with_reducible assumption

theorem State.takeoverSeals_kept {qu : List Instr} {F : Nat} {o : State} {s : State} (hF : 0x4000010000 ||| F = F) (hk : State.Kept qu F o s) : State.Kept qu F o (State.takeoverSeals s) := by
  unfold State.takeoverSeals
  refine State.kept_foldl ?_ ?_
  · with_reducible assumption
  · intro s79 x78 h77
    refine State.askSeal_kept (sub_of hF rfl) ?_
    with_reducible assumption

theorem State.adopt_kept {qu : List Instr} {F : Nat} {o : State} {s : State} (hF : 0xffffffff001137f9 ||| F = F) (hk : State.Kept qu F o s) : State.Kept qu F o (State.adopt s) := by
  unfold State.adopt
  refine State.kept_ite (fun _ => ?_) (fun _ => ?_)
  · with_reducible assumption
  · extract_lets +onlyGivenNames v79
    clear_value v79
    extract_lets +onlyGivenNames v78
    clear_value v78
    extract_lets +onlyGivenNames v77
    have hv77 : State.Kept qu F o v77 := by
      unfold v77
      refine State.holdItems_kept (sub_of hF rfl) ?_
      with_reducible assumption
    clear_value v77
    extract_lets +onlyGivenNames v76
    clear_value v76
    extract_lets +onlyGivenNames v75
    have hv75 : State.Kept qu F o v75 := by
      unfold v75
      refine State.onMor_kept (sub_of hF rfl) ?_ ?_ ?_
      · with_reducible assumption
      · intro x73
        rfl
      · intro x73
        rfl
    clear_value v75
    extract_lets +onlyGivenNames v74
    have hv74 : State.Kept qu F o v74 := by
      unfold v74
      refine State.kept_ite (fun _ => ?_) (fun _ => ?_)
      · split
        · refine State.takeImage_kept (sub_of hF rfl) ?_
          with_reducible assumption
        · with_reducible assumption
      · refine State.kept_ite (fun _ => ?_) (fun _ => ?_)
        · with_reducible assumption
        · split
          · refine State.takeSelect_kept (sub_of hF rfl) ?_
            with_reducible assumption
          · with_reducible assumption
    clear_value v74
    extract_lets +onlyGivenNames v73
    have hv73 : State.Kept qu F o v73 := by
      unfold v73
      refine State.setF_kept (bit_of hF rfl) ?_
      refine State.setF_kept (bit_of hF rfl) ?_
      refine State.setF_kept (bit_of hF rfl) ?_
      with_reducible assumption
    clear_value v73
    extract_lets +onlyGivenNames v72
    have hv72 : State.Kept qu F o v72 := by
      unfold v72
      refine State.onMor_kept (sub_of hF rfl) ?_ ?_ ?_
      · refine State.setReg_kept (bit_of hF rfl) ?_
        with_reducible assumption
      · intro x70
        rfl
      · intro x70
        rfl
    clear_value v72
    extract_lets +onlyGivenNames v71
    have hv71 : State.Kept qu F o v71 := by
      unfold v71
      refine State.kept_foldl ?_ ?_
      · with_reducible assumption
      · intro s69 x68 h67
        refine State.mgmtRead_kept (sub_of hF rfl) ?_
        with_reducible assumption
    clear_value v71
    refine State.takeoverSeals_kept (sub_of hF rfl) ?_
    refine State.kept_foldl ?_ ?_
    · with_reducible assumption
    · intro s68 x67 h66
      refine State.replayRoot_kept (sub_of hF rfl) ?_
      with_reducible assumption

end Sys2Proof.Machine
end

