-- ==== Sys2Proof/Laws/KeptMoor.lean ====
section
/-! SUPPORT. Laws/KeptMoor.lean: each operation of Machine/Moor.lean keeps the queue and the invariant. -/
namespace Sys2Proof.Machine

theorem execGrantAssert_kept {qu : List Instr} {F : Nat} {o : State} {lineFree : Bool} {s : State} (hF : 0x1c000000260c9 ||| F = F) (hk : State.Kept qu F o s) : Runs qu F o (execGrantAssert lineFree s) := by
  unfold execGrantAssert
  extract_lets +onlyGivenNames v1080
  have hv1080 : State.Kept qu F o v1080 := by
    unfold v1080
    refine State.setF_kept (bit_of hF rfl) ?_
    refine State.setF_kept (bit_of hF rfl) ?_
    with_reducible assumption
  extract_lets +onlyGivenNames v1079
  have hv1079 : State.Kept qu F o v1079 := by
    unfold v1079
    refine State.onMor_keptOf (sub_of hF rfl) ?_ (by first | exact fun _ _ => rfl | exact fun _ _ => hg | exact fun _ h => absurd h Bool.false_ne_true | exact fun _ h => absurd h ‹_›)
    with_reducible assumption
  refine runs_next ?_
  refine State.kept_ite (fun _ => ?_) (fun _ => ?_)
  · refine State.takeLit_kept (sub_of hF rfl) ?_ ?_
    · with_reducible assumption
    · rfl
  · refine State.kept_ite (fun _ => ?_) (fun _ => ?_)
    · with_reducible assumption
    · refine State.setF_kept (bit_of hF rfl) ?_
      with_reducible assumption

theorem execTakeoverAdopt_kept {qu : List Instr} {F : Nat} {o : State} {s : State} (hF : 0xffffffff001137f9 ||| F = F) (hk : State.Kept qu F o s) : Runs qu F o (execTakeoverAdopt s) := by
  unfold execTakeoverAdopt
  refine runs_next ?_
  refine State.adopt_kept (sub_of hF rfl) ?_
  with_reducible assumption

theorem execFinalCommitTimeout_kept {qu : List Instr} {F : Nat} {o : State} {s : State} (hF : 0xffffffff001137f9 ||| F = F) (hk : State.Kept qu F o s) : Runs qu F o (execFinalCommitTimeout s) := by
  unfold execFinalCommitTimeout
  refine runs_next ?_
  refine State.adopt_kept (sub_of hF rfl) ?_
  refine State.onMor_kept (sub_of hF rfl) ?_ ?_ ?_
  · with_reducible assumption
  · intro x77
    rfl
  · intro x77
    rfl

theorem execSmbusIdent_kept {qu : List Instr} {F : Nat} {o : State} {pecOk : Bool} {s : State} (hF : 0x1 ||| F = F) (hk : State.Kept qu F o s) : Runs qu F o (execSmbusIdent pecOk s) := by
  unfold execSmbusIdent
  extract_lets +onlyGivenNames v80
  clear_value v80
  refine runs_next ?_
  refine State.kept_ite (fun _ => ?_) (fun _ => ?_)
  · refine State.send_kept (sub_of hF rfl) ?_
    with_reducible assumption
  · with_reducible assumption

theorem execSmbusHealth_kept {qu : List Instr} {F : Nat} {o : State} {pecOk : Bool} {s : State} (hF : 0x1 ||| F = F) (hk : State.Kept qu F o s) : Runs qu F o (execSmbusHealth pecOk s) := by
  unfold execSmbusHealth
  refine runs_next ?_
  refine State.kept_ite (fun _ => ?_) (fun _ => ?_)
  · refine State.send_kept (sub_of hF rfl) ?_
    with_reducible assumption
  · with_reducible assumption

theorem execSmbusNote_kept {qu : List Instr} {F : Nat} {o : State} {code : Byte} {pecOk : Bool} {s : State} (hF : 0x1000000024009 ||| F = F) (hk : State.Kept qu F o s) : Runs qu F o (execSmbusNote code pecOk s) := by
  unfold execSmbusNote
  refine runs_next ?_
  refine State.kept_ite (fun _ => ?_) (fun _ => ?_)
  · refine State.logOwn_kept (sub_of hF rfl) ?_
    with_reducible assumption
  · with_reducible assumption

theorem State.takeMoor_kept {qu : List Instr} {F : Nat} {o : State} {s : State} {p : Packet} {clean : Bool} (hF : 0x1000000024049 ||| F = F) (hk : State.Kept qu F o s) : State.Kept qu F o (State.takeMoor s p clean).2 := by
  unfold State.takeMoor
  extract_lets +onlyGivenNames v80
  have hv80 : State.Kept qu F o v80 := by
    unfold v80
    refine State.received_kept (sub_of hF rfl) ?_
    with_reducible assumption
  clear_value v80
  split
  · rename_i n79_0 n79_1 n79_2
    have hn79_2 : State.Kept qu F o n79_1 := by
      refine State.refused_kept (sub_of hF rfl) ?_ _ n79_2
      with_reducible assumption
    with_reducible assumption
  · rw [apply_ite Prod.snd]
    refine State.kept_ite (fun _ => ?_) (fun _ => ?_)
    · dsimp only
      refine State.returnCredits_kept (sub_of hF rfl) ?_
      with_reducible assumption
    · dsimp only
      refine State.refusePacket_kept (sub_of hF rfl) ?_
      with_reducible assumption

theorem execMoorDelta_kept {qu : List Instr} {F : Nat} {o : State} {p : Packet} {s : State} (hF : 0x1000000026049 ||| F = F) (hk : State.Kept qu F o s) : Runs qu F o (execMoorDelta p s) := by
  unfold execMoorDelta
  split
  rename_i n80_0 n80_1 n80_2 n80_3
  have hn80_3 : State.Kept qu F o n80_2 := by
    have en80_3 := congrArg (fun z => z.2) n80_3
    rw [show n80_2 = _ from en80_3.symm]
    beta_reduce
    refine State.takeMoor_kept (sub_of hF rfl) ?_
    with_reducible assumption
  refine runs_ite (fun _ => ?_) (fun _ => ?_)
  · refine runs_next ?_
    with_reducible assumption
  · extract_lets +onlyGivenNames v78
    clear_value v78
    extract_lets +onlyGivenNames v77
    clear_value v77
    extract_lets +onlyGivenNames v76
    clear_value v76
    extract_lets +onlyGivenNames v75
    clear_value v75
    extract_lets +onlyGivenNames v74
    clear_value v74
    extract_lets +onlyGivenNames v73
    clear_value v73
    extract_lets +onlyGivenNames v72
    clear_value v72
    refine runs_next ?_
    refine State.onMor_kept (sub_of hF rfl) ?_ ?_ ?_
    · with_reducible assumption
    · intro x69
      rfl
    · intro x69
      rfl

theorem execMoorCommit_kept {qu : List Instr} {F : Nat} {o : State} {p : Packet} {image : Nat} {s : State} (hF : 0x1400000026049 ||| F = F) (hk : State.Kept qu F o s) : Runs qu F o (execMoorCommit p image s) := by
  unfold execMoorCommit
  extract_lets +onlyGivenNames v80
  clear_value v80
  split
  rename_i n79_0 n79_1 n79_2 n79_3
  have hn79_3 : State.Kept qu F o n79_2 := by
    have en79_3 := congrArg (fun z => z.2) n79_3
    rw [show n79_2 = _ from en79_3.symm]
    beta_reduce
    refine State.takeMoor_kept (sub_of hF rfl) ?_
    with_reducible assumption
  refine runs_ite (fun _ => ?_) (fun _ => ?_)
  · refine runs_next ?_
    with_reducible assumption
  · extract_lets +onlyGivenNames v77
    clear_value v77
    extract_lets +onlyGivenNames v76
    clear_value v76
    extract_lets +onlyGivenNames v75
    clear_value v75
    extract_lets +onlyGivenNames v74
    clear_value v74
    extract_lets +onlyGivenNames v73
    clear_value v73
    extract_lets +onlyGivenNames v72
    have hv72 : State.Kept qu F o v72 := by
      unfold v72
      refine State.onMor_kept (sub_of hF rfl) ?_ ?_ ?_
      · refine State.setF_kept (bit_of hF rfl) ?_
        with_reducible assumption
      · intro x70
        rfl
      · intro x70
        rfl
    clear_value v72
    refine runs_ite (fun _ => ?_) (fun _ => ?_)
    · extract_lets +onlyGivenNames v70
      clear_value v70
      extract_lets +onlyGivenNames v69
      have hv69 : State.Kept qu F o v69 := by
        unfold v69
        refine State.onMor_kept (sub_of hF rfl) ?_ ?_ ?_
        · with_reducible assumption
        · intro x67
          rfl
        · intro x67
          rfl
      clear_value v69
      extract_lets +onlyGivenNames v68
      have hv68 : State.Kept qu F o v68 := by
        unfold v68
        refine State.setPair_kept (bit_of hF rfl) (bit_of hF rfl) ?_
        with_reducible assumption
      clear_value v68
      extract_lets +onlyGivenNames v67
      have hv67 : State.Kept qu F o v67 := by
        unfold v67
        refine State.kept_ite (fun _ => ?_) (fun _ => ?_)
        · refine State.setF_kept (bit_of hF rfl) ?_
          refine State.setF_kept (bit_of hF rfl) ?_
          with_reducible assumption
        · with_reducible assumption
      clear_value v67
      refine runs_next ?_
      refine State.moorCommitSend_kept (sub_of hF rfl) ?_
      with_reducible assumption
    · refine runs_next ?_
      refine State.selfStale_kept (sub_of hF rfl) ?_
      refine State.moorCommitSend_kept (sub_of hF rfl) ?_
      with_reducible assumption

theorem execDeltaApply_kept {qu : List Instr} {F : Nat} {o : State} {s : State} (hF : 0x1400000126009 ||| F = F) (hk : State.Kept qu F o s) : Runs qu F o (execDeltaApply s) := by
  unfold execDeltaApply
  split
  · refine runs_next ?_
    with_reducible assumption
  · extract_lets +onlyGivenNames v79
    have hv79 : State.Kept qu F o v79 := by
      unfold v79
      refine State.holdItems_kept (sub_of hF rfl) ?_
      refine State.onMor_kept (sub_of hF rfl) ?_ ?_ ?_
      · with_reducible assumption
      · intro x76
        rfl
      · intro x76
        rfl
    clear_value v79
    refine runs_ite (fun _ => ?_) (fun _ => ?_)
    · refine runs_next ?_
      with_reducible assumption
    · refine runs_ite (fun _ => ?_) (fun _ => ?_)
      · refine runs_next ?_
        refine State.count_kept (bit_of hF rfl) ?_
        with_reducible assumption
      · refine runs_next ?_
        refine State.selfStale_kept (sub_of hF rfl) ?_
        refine State.mooringDegraded_kept (sub_of hF rfl) ?_
        refine State.raise_kept (sub_of hF rfl) (bit_of hF rfl) ?_
        refine State.count_kept (bit_of hF rfl) ?_
        with_reducible assumption

theorem State.mooringHeard_kept {qu : List Instr} {F : Nat} {o : State} {s : State} (hF : 0x400000002000 ||| F = F) (hk : State.Kept qu F o s) : State.Kept qu F o (State.mooringHeard s) := by
  unfold State.mooringHeard
  refine State.onMor_kept (sub_of hF rfl) ?_ ?_ ?_
  · refine State.setF_kept (bit_of hF rfl) ?_
    with_reducible assumption
  · intro x79
    rfl
  · intro x79
    rfl

theorem execMoorAck_kept {qu : List Instr} {F : Nat} {o : State} {p : Packet} {s : State} (hF : 0x1400000026049 ||| F = F) (hk : State.Kept qu F o s) : Runs qu F o (execMoorAck p s) := by
  unfold execMoorAck
  split
  rename_i n80_0 n80_1 n80_2 n80_3
  have hn80_3 : State.Kept qu F o n80_2 := by
    have en80_3 := congrArg (fun z => z.2) n80_3
    rw [show n80_2 = _ from en80_3.symm]
    beta_reduce
    refine State.takeMoor_kept (sub_of hF rfl) ?_
    with_reducible assumption
  refine runs_ite (fun _ => ?_) (fun _ => ?_)
  · refine runs_next ?_
    with_reducible assumption
  · extract_lets +onlyGivenNames v78
    clear_value v78
    extract_lets +onlyGivenNames v77
    have hv77 : State.Kept qu F o v77 := by
      unfold v77
      refine State.onMor_kept (sub_of hF rfl) ?_ ?_ ?_
      · refine State.mooringHeard_kept (sub_of hF rfl) ?_
        with_reducible assumption
      · intro x75
        rfl
      · intro x75
        rfl
    clear_value v77
    extract_lets +onlyGivenNames v76
    have hv76 : State.Kept qu F o v76 := by
      unfold v76
      refine State.setPair_kept (bit_of hF rfl) (bit_of hF rfl) ?_
      with_reducible assumption
    clear_value v76
    extract_lets +onlyGivenNames v75
    have hv75 : State.Kept qu F o v75 := by
      unfold v75
      refine State.setF_kept (bit_of hF rfl) ?_
      with_reducible assumption
    clear_value v75
    extract_lets +onlyGivenNames v74
    have hv74 : State.Kept qu F o v74 := by
      unfold v74
      refine State.setF_kept (bit_of hF rfl) ?_
      refine State.setF_kept (bit_of hF rfl) ?_
      refine State.setF_kept (bit_of hF rfl) ?_
      with_reducible assumption
    clear_value v74
    extract_lets +onlyGivenNames v73
    have hv73 : State.Kept qu F o v73 := by
      unfold v73
      refine State.kept_ite (fun _ => ?_) (fun _ => ?_)
      · refine State.onMor_kept (sub_of hF rfl) ?_ ?_ ?_
        · refine State.raise_kept (sub_of hF rfl) (bit_of hF rfl) ?_
          refine State.count_kept (bit_of hF rfl) ?_
          with_reducible assumption
        · intro x70
          rfl
        · intro x70
          rfl
      · with_reducible assumption
    clear_value v73
    refine runs_next ?_
    refine State.releaseWaits_kept (sub_of hF rfl) ?_
    with_reducible assumption

theorem execMoorNack_kept {qu : List Instr} {F : Nat} {o : State} {p : Packet} {s : State} (hF : 0x1400000026049 ||| F = F) (hk : State.Kept qu F o s) : Runs qu F o (execMoorNack p s) := by
  unfold execMoorNack
  split
  rename_i n80_0 n80_1 n80_2 n80_3
  have hn80_3 : State.Kept qu F o n80_2 := by
    have en80_3 := congrArg (fun z => z.2) n80_3
    rw [show n80_2 = _ from en80_3.symm]
    beta_reduce
    refine State.takeMoor_kept (sub_of hF rfl) ?_
    with_reducible assumption
  refine runs_next ?_
  refine State.kept_ite (fun _ => ?_) (fun _ => ?_)
  · refine State.partnerStale_kept (sub_of hF rfl) ?_
    refine State.mooringDegraded_kept (sub_of hF rfl) ?_
    refine State.mooringHeard_kept (sub_of hF rfl) ?_
    with_reducible assumption
  · with_reducible assumption

theorem execMoorStatus_kept {qu : List Instr} {F : Nat} {o : State} {p : Packet} {image : Nat} {s : State} (hF : 0x1400000026049 ||| F = F) (hk : State.Kept qu F o s) : Runs qu F o (execMoorStatus p image s) := by
  unfold execMoorStatus
  extract_lets +onlyGivenNames v80
  clear_value v80
  split
  rename_i n79_0 n79_1 n79_2 n79_3
  have hn79_3 : State.Kept qu F o n79_2 := by
    have en79_3 := congrArg (fun z => z.2) n79_3
    rw [show n79_2 = _ from en79_3.symm]
    beta_reduce
    refine State.takeMoor_kept (sub_of hF rfl) ?_
    with_reducible assumption
  refine runs_ite (fun _ => ?_) (fun _ => ?_)
  · refine runs_next ?_
    with_reducible assumption
  · extract_lets +onlyGivenNames v77
    clear_value v77
    extract_lets +onlyGivenNames v76
    have hv76 : State.Kept qu F o v76 := by
      unfold v76
      refine State.onMor_kept (sub_of hF rfl) ?_ ?_ ?_
      · refine State.mooringHeard_kept (sub_of hF rfl) ?_
        with_reducible assumption
      · intro x74
        rfl
      · intro x74
        rfl
    clear_value v76
    extract_lets +onlyGivenNames v75
    clear_value v75
    refine runs_ite (fun _ => ?_) (fun _ => ?_)
    · refine runs_next ?_
      with_reducible assumption
    · refine runs_ite (fun _ => ?_) (fun _ => ?_)
      · refine runs_next ?_
        refine State.startPages_kept (sub_of hF rfl) ?_
        with_reducible assumption
      · refine runs_ite (fun _ => ?_) (fun _ => ?_)
        · refine runs_next ?_
          refine State.partnerStale_kept (sub_of hF rfl) ?_
          with_reducible assumption
        · refine runs_next ?_
          with_reducible assumption

theorem execCommitAckTimeout_kept {qu : List Instr} {F : Nat} {o : State} {s : State} (hF : 0x400000002009 ||| F = F) (hk : State.Kept qu F o s) : Runs qu F o (execCommitAckTimeout s) := by
  unfold execCommitAckTimeout
  refine runs_next ?_
  refine State.kept_ite (fun _ => ?_) (fun _ => ?_)
  · refine State.partnerStale_kept (sub_of hF rfl) ?_
    with_reducible assumption
  · with_reducible assumption

theorem execCommitLoss_kept {qu : List Instr} {F : Nat} {o : State} {s : State} (hF : 0x1400000026009 ||| F = F) (hk : State.Kept qu F o s) : Runs qu F o (execCommitLoss s) := by
  unfold execCommitLoss
  refine runs_next ?_
  refine State.kept_ite (fun _ => ?_) (fun _ => ?_)
  · refine State.mooringDown_kept (sub_of hF rfl) ?_
    with_reducible assumption
  · with_reducible assumption

theorem State.takeSel_kept {qu : List Instr} {F : Nat} {o : State} {s : State} {port : Nat} {p : Packet} (hF : 0x1000000024049 ||| F = F) (hk : State.Kept qu F o s) : State.Kept qu F o (State.takeSel s port p).2 := by
  unfold State.takeSel
  extract_lets +onlyGivenNames v80
  have hv80 : State.Kept qu F o v80 := by
    unfold v80
    refine State.received_kept (sub_of hF rfl) ?_
    with_reducible assumption
  clear_value v80
  extract_lets +onlyGivenNames v79
  clear_value v79
  extract_lets +onlyGivenNames v78
  clear_value v78
  extract_lets +onlyGivenNames v77
  clear_value v77
  split
  · rename_i n76_0 n76_1 n76_2
    have hn76_2 : State.Kept qu F o n76_1 := by
      refine State.refused_kept (sub_of hF rfl) ?_ _ n76_2
      with_reducible assumption
    with_reducible assumption
  · rw [apply_ite Prod.snd]
    refine State.kept_ite (fun _ => ?_) (fun _ => ?_)
    · dsimp only
      refine State.returnCredits_kept (sub_of hF rfl) ?_
      with_reducible assumption
    · dsimp only
      refine State.refusePacket_kept (sub_of hF rfl) ?_
      with_reducible assumption

theorem execMirrorSelect_kept {qu : List Instr} {F : Nat} {o : State} {port : Nat} {p : Packet} {s : State} (hF : 0x1000000026049 ||| F = F) (hk : State.Kept qu F o s) : Runs qu F o (execMirrorSelect port p s) := by
  unfold execMirrorSelect
  split
  rename_i n80_0 n80_1 n80_2 n80_3
  have hn80_3 : State.Kept qu F o n80_2 := by
    have en80_3 := congrArg (fun z => z.2) n80_3
    rw [show n80_2 = _ from en80_3.symm]
    beta_reduce
    refine State.takeSel_kept (sub_of hF rfl) ?_
    with_reducible assumption
  extract_lets +onlyGivenNames v79
  clear_value v79
  refine runs_ite (fun _ => ?_) (fun _ => ?_)
  · refine runs_next ?_
    with_reducible assumption
  · extract_lets +onlyGivenNames v77
    have hv77 : State.Kept qu F o v77 := by
      unfold v77
      refine State.kept_ite (fun _ => ?_) (fun _ => ?_)
      · with_reducible assumption
      · refine State.onMor_kept (sub_of hF rfl) ?_ ?_ ?_
        · with_reducible assumption
        · intro x74
          rfl
        · intro x74
          rfl
    clear_value v77
    refine runs_next ?_
    refine State.sendSelect_kept (sub_of hF rfl) ?_
    with_reducible assumption

theorem execMirrorSelectAck_kept {qu : List Instr} {F : Nat} {o : State} {port : Nat} {p : Packet} {s : State} (hF : 0x1000000026049 ||| F = F) (hk : State.Kept qu F o s) : Runs qu F o (execMirrorSelectAck port p s) := by
  unfold execMirrorSelectAck
  split
  rename_i n80_0 n80_1 n80_2 n80_3
  have hn80_3 : State.Kept qu F o n80_2 := by
    have en80_3 := congrArg (fun z => z.2) n80_3
    rw [show n80_2 = _ from en80_3.symm]
    beta_reduce
    refine State.takeSel_kept (sub_of hF rfl) ?_
    with_reducible assumption
  refine runs_ite (fun _ => ?_) (fun _ => ?_)
  · refine runs_next ?_
    with_reducible assumption
  · refine runs_next ?_
    refine State.countMirrored_kept (sub_of hF rfl) ?_
    refine State.onMor_kept (sub_of hF rfl) ?_ ?_ ?_
    · with_reducible assumption
    · intro x75
      rfl
    · intro x75
      rfl

theorem execMirrorResend_kept {qu : List Instr} {F : Nat} {o : State} {tag : Nat} {s : State} (hF : 0x2040 ||| F = F) (hk : State.Kept qu F o s) : Runs qu F o (execMirrorResend tag s) := by
  unfold execMirrorResend
  split
  · refine runs_next ?_
    with_reducible assumption
  · extract_lets +onlyGivenNames v79
    clear_value v79
    split
    · refine runs_next ?_
      refine State.sendSelect_kept (sub_of hF rfl) ?_
      refine State.onMor_kept (sub_of hF rfl) ?_ ?_ ?_
      · with_reducible assumption
      · intro x74
        rfl
      · intro x74
        rfl
    · refine runs_next ?_
      refine State.sendSelect_kept (sub_of hF rfl) ?_
      refine State.onMor_kept (sub_of hF rfl) ?_ ?_ ?_
      · with_reducible assumption
      · intro x74
        rfl
      · intro x74
        rfl
    · refine runs_next ?_
      with_reducible assumption

theorem State.morAct_kept {qu : List Instr} {F : Nat} {o : State} {s : State} (hF : 0x400000002009 ||| F = F) (hk : State.Kept qu F o s) : State.Kept qu F o (State.morAct s) := by
  unfold State.morAct
  extract_lets +onlyGivenNames v80
  have hv80 : State.Kept qu F o v80 := by
    unfold v80
    refine State.kept_ite (fun _ => ?_) (fun _ => ?_)
    · refine State.setUnfit_kept (sub_of hF rfl) ?_
      with_reducible assumption
    · with_reducible assumption
  clear_value v80
  refine State.kept_ite (fun _ => ?_) (fun _ => ?_)
  · refine State.startResync_kept (sub_of hF rfl) ?_
    with_reducible assumption
  · with_reducible assumption

theorem State.gotStateQuery_kept {qu : List Instr} {F : Nat} {o : State} {s : State} {src : Addr} {_m : KMsg} (hF : 0x61 ||| F = F) (hk : State.Kept qu F o s) : State.Kept qu F o (State.gotStateQuery s src _m) := by
  unfold State.gotStateQuery
  extract_lets +onlyGivenNames v80
  clear_value v80
  extract_lets +onlyGivenNames v79
  have hv79 : State.Kept qu F o v79 := by
    unfold v79
    refine State.kept_chart (bit_of hF rfl) ?_
    with_reducible assumption
  clear_value v79
  extract_lets +onlyGivenNames v78
  clear_value v78
  extract_lets +onlyGivenNames v77
  clear_value v77
  refine State.tell_kept (sub_of hF rfl) ?_
  with_reducible assumption

theorem execStateQuery_kept {qu : List Instr} {F : Nat} {o : State} {port : Nat} {p : Packet} {s : State} (hF : 0x1001000024179 ||| F = F) (hk : State.Kept qu F o s) : Runs qu F o (execStateQuery port p s) := by
  unfold execStateQuery
  refine runs_next ?_
  refine State.takeMsg_kept (sub_of hF rfl) ?_ ?_
  · with_reducible assumption
  · intro s78 x77 x76 h75
    refine State.gotStateQuery_kept (sub_of hF rfl) ?_
    with_reducible assumption

theorem State.reannounce_kept {qu : List Instr} {F : Nat} {o : State} {s : State} (hF : 0x1000000141 ||| F = F) (hk : State.Kept qu F o s) : State.Kept qu F o (State.reannounce s) := by
  unfold State.reannounce
  extract_lets +onlyGivenNames v80
  clear_value v80
  extract_lets +onlyGivenNames v79
  clear_value v79
  extract_lets +onlyGivenNames v78
  clear_value v78
  extract_lets +onlyGivenNames v77
  clear_value v77
  extract_lets +onlyGivenNames v76
  clear_value v76
  refine State.kept_ite (fun _ => ?_) (fun _ => ?_)
  · with_reducible assumption
  · extract_lets +onlyGivenNames v74
    clear_value v74
    extract_lets +onlyGivenNames v73
    have hv73 : State.Kept qu F o v73 := by
      unfold v73
      refine State.onHead_kept (sub_of hF rfl) ?_
      with_reducible assumption
    clear_value v73
    extract_lets +onlyGivenNames v72
    clear_value v72
    extract_lets +onlyGivenNames v71
    clear_value v71
    refine State.kept_ite (fun _ => ?_) (fun _ => ?_)
    · extract_lets +onlyGivenNames v69
      clear_value v69
      extract_lets +onlyGivenNames v68
      clear_value v68
      extract_lets +onlyGivenNames v67
      have hv67 : State.Kept qu F o v67 := by
        unfold v67
        refine State.onHead_kept (sub_of hF rfl) ?_
        with_reducible assumption
      clear_value v67
      refine State.showHead_kept (sub_of hF rfl) ?_
      refine State.flood_kept (sub_of hF rfl) ?_
      with_reducible assumption
    · refine State.showHead_kept (sub_of hF rfl) ?_
      with_reducible assumption

theorem State.gotStateReply_kept {qu : List Instr} {F : Nat} {o : State} {s : State} {src : Addr} {m : KMsg} (hF : 0x1000000141 ||| F = F) (hk : State.Kept qu F o s) : State.Kept qu F o (State.gotStateReply s src m) := by
  unfold State.gotStateReply
  extract_lets +onlyGivenNames v80
  clear_value v80
  refine State.kept_ite (fun _ => ?_) (fun _ => ?_)
  · with_reducible assumption
  · refine State.reannounce_kept (sub_of hF rfl) ?_
    refine State.onHead_kept (sub_of hF rfl) ?_
    with_reducible assumption

theorem execStateReply_kept {qu : List Instr} {F : Nat} {o : State} {port : Nat} {p : Packet} {s : State} (hF : 0x1001000024179 ||| F = F) (hk : State.Kept qu F o s) : Runs qu F o (execStateReply port p s) := by
  unfold execStateReply
  refine runs_next ?_
  refine State.takeMsg_kept (sub_of hF rfl) ?_ ?_
  · with_reducible assumption
  · intro s78 x77 x76 h75
    refine State.gotStateReply_kept (sub_of hF rfl) ?_
    with_reducible assumption

theorem State.gotGraphReq_kept {qu : List Instr} {F : Nat} {o : State} {s : State} {src : Addr} {m : KMsg} (hF : 0x41 ||| F = F) (hk : State.Kept qu F o s) : State.Kept qu F o (State.gotGraphReq s src m) := by
  unfold State.gotGraphReq
  refine State.kept_ite (fun _ => ?_) (fun _ => ?_)
  · refine State.kept_foldl ?_ ?_
    · with_reducible assumption
    · intro s78 x77 h76
      refine State.tell_kept (sub_of hF rfl) ?_
      with_reducible assumption
  · with_reducible assumption

theorem execGraphReq_kept {qu : List Instr} {F : Nat} {o : State} {port : Nat} {p : Packet} {s : State} (hF : 0x1001000024179 ||| F = F) (hk : State.Kept qu F o s) : Runs qu F o (execGraphReq port p s) := by
  unfold execGraphReq
  refine runs_next ?_
  refine State.takeMsg_kept (sub_of hF rfl) ?_ ?_
  · with_reducible assumption
  · intro s78 x77 x76 h75
    refine State.gotGraphReq_kept (sub_of hF rfl) ?_
    with_reducible assumption

theorem State.auditAgent_kept {qu : List Instr} {F : Nat} {o : State} {s : State} {a : Addr} (hF : 0xc0 ||| F = F) (hk : State.Kept qu F o s) : State.Kept qu F o (State.auditAgent s a) := by
  unfold State.auditAgent
  refine State.kept_foldl ?_ ?_
  · with_reducible assumption
  · intro s79 x78 h77
    refine State.mgmtWrite_kept (sub_of hF rfl) ?_
    with_reducible assumption

theorem State.auditPlan_kept {qu : List Instr} {F : Nat} {o : State} {s : State} {p : Plan} {a : Addr} (hF : 0xc0 ||| F = F) (hk : State.Kept qu F o s) : State.Kept qu F o (State.auditPlan s p a) := by
  unfold State.auditPlan
  extract_lets +onlyGivenNames v80
  clear_value v80
  refine State.mgmtWrite_kept (sub_of hF rfl) ?_
  with_reducible assumption

theorem State.gotGraph_kept {qu : List Instr} {F : Nat} {o : State} {s : State} {src : Addr} {m : KMsg} (hF : 0x4000021c0 ||| F = F) (hk : State.Kept qu F o s) : State.Kept qu F o (State.gotGraph s src m) := by
  unfold State.gotGraph
  split
  · rename_i n80_0 n80_1 n80_2
    have hn80_2 : State.Kept qu F o n80_1 := by
      have en80_2 := congrArg (fun z => z.1) n80_2
      rw [show n80_1 = _ from en80_2.symm]
      beta_reduce
      refine State.collect_kept (sub_of hF rfl) ?_
      with_reducible assumption
    with_reducible assumption
  · rename_i n80_0 n80_1 n80_2 n80_3
    have hn80_3 : State.Kept qu F o n80_1 := by
      have en80_3 := congrArg (fun z => z.1) n80_3
      rw [show n80_1 = _ from en80_3.symm]
      beta_reduce
      refine State.collect_kept (sub_of hF rfl) ?_
      with_reducible assumption
    extract_lets +onlyGivenNames v79
    clear_value v79
    refine State.kept_ite (fun _ => ?_) (fun _ => ?_)
    · refine State.kept_ite (fun _ => ?_) (fun _ => ?_)
      · refine State.kept_slv (bit_of hF rfl) ?_
        with_reducible assumption
      · with_reducible assumption
    · extract_lets +onlyGivenNames v77
      clear_value v77
      extract_lets +onlyGivenNames v76
      clear_value v76
      extract_lets +onlyGivenNames v75
      clear_value v75
      extract_lets +onlyGivenNames v74
      clear_value v74
      extract_lets +onlyGivenNames v73
      have hv73 : State.Kept qu F o v73 := by
        unfold v73
        refine State.kept_slv (bit_of hF rfl) ?_
        with_reducible assumption
      clear_value v73
      extract_lets +onlyGivenNames v72
      have hv72 : State.Kept qu F o v72 := by
        unfold v72
        refine State.onMor_kept (sub_of hF rfl) ?_ ?_ ?_
        · refine State.setReg_kept (bit_of hF rfl) ?_
          with_reducible assumption
        · intro x70
          rfl
        · intro x70
          rfl
      clear_value v72
      refine State.kept_foldl ?_ ?_
      · with_reducible assumption
      · intro s70 x69 h68
        refine State.auditAgent_kept (sub_of hF rfl) ?_
        with_reducible assumption

theorem execGraph_kept {qu : List Instr} {F : Nat} {o : State} {port : Nat} {p : Packet} {s : State} (hF : 0x10014000261f9 ||| F = F) (hk : State.Kept qu F o s) : Runs qu F o (execGraph port p s) := by
  unfold execGraph
  refine runs_next ?_
  refine State.takeMsg_kept (sub_of hF rfl) ?_ ?_
  · with_reducible assumption
  · intro s78 x77 x76 h75
    refine State.gotGraph_kept (sub_of hF rfl) ?_
    with_reducible assumption

end Sys2Proof.Machine
end

