-- ==== Sys2Proof/Laws/KeptPlans.lean ====
section
/-! SUPPORT. Laws/KeptPlans.lean: each operation of Machine/Plans.lean keeps the queue and the invariant. -/
namespace Sys2Proof.Machine

theorem State.planFetched_kept {qu : List Instr} {F : Nat} {o : State} {s : State} {w : Nat} {ws : List Word} (hF : 0x10000004409 ||| F = F) (hk : State.Kept qu F o s) : State.Kept qu F o (State.planFetched s w ws) := by
  unfold State.planFetched
  extract_lets +onlyGivenNames v80
  clear_value v80
  refine State.kept_ite (fun _ => ?_) (fun _ => ?_)
  · refine State.planRefused_kept (sub_of hF rfl) ?_
    with_reducible assumption
  · refine State.kept_ite (fun _ => ?_) (fun _ => ?_)
    · refine State.planRefused_kept (sub_of hF rfl) ?_
      with_reducible assumption
    · extract_lets +onlyGivenNames v77
      clear_value v77
      refine State.onClp_kept (sub_of hF rfl) ?_
      with_reducible assumption

theorem cmdPlanCollective_kept {qu : List Instr} {F : Nat} {o : State} {w : Nat} {s : State} (hF : 0x100004009 ||| F = F) (hk : State.Kept qu F o s) : State.Kept qu F o (cmdPlanCollective w s) := by
  unfold cmdPlanCollective
  extract_lets +onlyGivenNames v80
  clear_value v80
  refine State.kept_ite (fun _ => ?_) (fun _ => ?_)
  · refine State.refuse_kept (sub_of hF rfl) ?_
    with_reducible assumption
  · refine State.kept_ite (fun _ => ?_) (fun _ => ?_)
    · refine State.refuse_kept (sub_of hF rfl) ?_
      with_reducible assumption
    · refine State.kept_ite (fun _ => ?_) (fun _ => ?_)
      · refine State.refuse_kept (sub_of hF rfl) ?_
        with_reducible assumption
      · refine State.startDma_kept (sub_of hF rfl) ?_ ?_
        · with_reducible assumption
        · intro s75 h74
          unfold id
          with_reducible assumption

theorem execPlanCollective_kept {qu : List Instr} {F : Nat} {o : State} {c : HostCmd} {s : State} (hF : 0x100004009 ||| F = F) (hk : State.Kept qu F o s) : Runs qu F o (execPlanCollective c s) := by
  unfold execPlanCollective
  refine runs_next ?_
  refine State.issue_kept (sub_of hF rfl) ?_ ?_
  · with_reducible assumption
  · intro x78 s77 h76
    refine cmdPlanCollective_kept (sub_of hF rfl) ?_
    with_reducible assumption

theorem State.gotPlanReq_kept {qu : List Instr} {F : Nat} {o : State} {s : State} {stamp : Nat} {src : Addr} {m : KMsg} (hF : 0x441 ||| F = F) (hk : State.Kept qu F o s) : State.Kept qu F o (State.gotPlanReq s stamp src m) := by
  unfold State.gotPlanReq
  extract_lets +onlyGivenNames v80
  clear_value v80
  extract_lets +onlyGivenNames v79
  clear_value v79
  refine State.kept_ite (fun _ => ?_) (fun _ => ?_)
  · with_reducible assumption
  · split
    · refine State.tell_kept (sub_of hF rfl) ?_
      with_reducible assumption
    · refine State.kept_ite (fun _ => ?_) (fun _ => ?_)
      · with_reducible assumption
      · extract_lets +onlyGivenNames v75
        clear_value v75
        extract_lets +onlyGivenNames v74
        clear_value v74
        refine State.onClp_kept (sub_of hF rfl) ?_
        with_reducible assumption

theorem execPlanReq_kept {qu : List Instr} {F : Nat} {o : State} {port : Nat} {p : Packet} {s : State} (hF : 0x1001000024179 ||| F = F) (hk : State.Kept qu F o s) : Runs qu F o (execPlanReq port p s) := by
  unfold execPlanReq
  refine runs_next ?_
  refine State.stageMsg_kept (sub_of hF rfl) ?_
  with_reducible assumption

theorem State.orderInstall_kept {qu : List Instr} {F : Nat} {o : State} {s : State} {m : KMsg} (hF : 0xd0000000441 ||| F = F) (hk : State.Kept qu F o s) : State.Kept qu F o (State.orderInstall s m) := by
  unfold State.orderInstall
  extract_lets +onlyGivenNames v80
  extract_lets +onlyGivenNames v79
  extract_lets +onlyGivenNames v78
  extract_lets +onlyGivenNames v77
  extract_lets +onlyGivenNames v76
  extract_lets +onlyGivenNames v75
  extract_lets +onlyGivenNames v74
  clear_value v74
  extract_lets +onlyGivenNames v73
  extract_lets +onlyGivenNames v72
  extract_lets +onlyGivenNames v71
  clear_value v71
  extract_lets +onlyGivenNames v70
  extract_lets +onlyGivenNames v69
  extract_lets +onlyGivenNames v68
  clear_value v68
  extract_lets +onlyGivenNames v67
  clear_value v67
  extract_lets +onlyGivenNames v66
  clear_value v66
  extract_lets +onlyGivenNames v65
  clear_value v65
  extract_lets +onlyGivenNames v64
  clear_value v64
  refine State.sendOffer_kept (sub_of hF rfl) ?_
  refine State.showPlans_kept (sub_of hF rfl) ?_
  refine State.onClp_kept (sub_of hF rfl) ?_
  with_reducible assumption

theorem State.gotPlanOrder_kept {qu : List Instr} {F : Nat} {o : State} {s : State} {src : Addr} {m : KMsg} (hF : 0xd0000001cc1 ||| F = F) (hk : State.Kept qu F o s) : State.Kept qu F o (State.gotPlanOrder s src m) := by
  unfold State.gotPlanOrder
  extract_lets +onlyGivenNames v80
  clear_value v80
  extract_lets +onlyGivenNames v79
  clear_value v79
  split
  · refine State.kept_ite (fun _ => ?_) (fun _ => ?_)
    · refine State.kept_ite (fun _ => ?_) (fun _ => ?_)
      · refine State.kept_ite (fun _ => ?_) (fun _ => ?_)
        · refine State.sendPlanReady_kept (sub_of hF rfl) ?_
          with_reducible assumption
        · with_reducible assumption
      · refine State.tryRelease_kept (sub_of hF rfl) ?_
        refine State.onPlan_kept (sub_of hF rfl) ?_
        refine State.loadSlots_kept (sub_of hF rfl) ?_
        with_reducible assumption
    · refine State.kept_ite (fun _ => ?_) (fun _ => ?_)
      · refine State.sendOffer_kept (sub_of hF rfl) ?_
        with_reducible assumption
      · with_reducible assumption
  · refine State.kept_ite (fun _ => ?_) (fun _ => ?_)
    · refine State.tellHead_kept (sub_of hF rfl) ?_
      with_reducible assumption
    · refine State.orderInstall_kept (sub_of hF rfl) ?_
      with_reducible assumption

theorem execPlanOrder_kept {qu : List Instr} {F : Nat} {o : State} {port : Nat} {p : Packet} {s : State} (hF : 0x1001000024179 ||| F = F) (hk : State.Kept qu F o s) : Runs qu F o (execPlanOrder port p s) := by
  unfold execPlanOrder
  refine runs_next ?_
  refine State.stageMsg_kept (sub_of hF rfl) ?_
  with_reducible assumption

theorem State.gotPlanOffer_kept {qu : List Instr} {F : Nat} {o : State} {s : State} {src : Addr} {m : KMsg} (hF : 0x411 ||| F = F) (hk : State.Kept qu F o s) : State.Kept qu F o (State.gotPlanOffer s src m) := by
  unfold State.gotPlanOffer
  extract_lets +onlyGivenNames v80
  clear_value v80
  extract_lets +onlyGivenNames v79
  clear_value v79
  split
  · with_reducible assumption
  · refine State.kept_ite (fun _ => ?_) (fun _ => ?_)
    · with_reducible assumption
    · refine State.kept_ite (fun _ => ?_) (fun _ => ?_)
      · refine State.onAdm_kept (sub_of hF rfl) ?_
        with_reducible assumption
      · extract_lets +onlyGivenNames v75
        clear_value v75
        extract_lets +onlyGivenNames v74
        clear_value v74
        extract_lets +onlyGivenNames v73
        have hv73 : State.Kept qu F o v73 := by
          unfold v73
          refine State.onAdm_kept (sub_of hF rfl) ?_
          with_reducible assumption
        clear_value v73
        refine State.kept_ite (fun _ => ?_) (fun _ => ?_)
        · with_reducible assumption
        · extract_lets +onlyGivenNames v71
          clear_value v71
          extract_lets +onlyGivenNames v70
          clear_value v70
          extract_lets +onlyGivenNames v69
          have hv69 : State.Kept qu F o v69 := by
            unfold v69
            refine State.onAdm_kept (sub_of hF rfl) ?_
            with_reducible assumption
          clear_value v69
          refine State.askProposal_kept (sub_of hF rfl) ?_
          with_reducible assumption

theorem execPlanOffer_kept {qu : List Instr} {F : Nat} {o : State} {port : Nat} {p : Packet} {s : State} (hF : 0x1001000024179 ||| F = F) (hk : State.Kept qu F o s) : Runs qu F o (execPlanOffer port p s) := by
  unfold execPlanOffer
  refine runs_next ?_
  refine State.stageMsg_kept (sub_of hF rfl) ?_
  with_reducible assumption

theorem State.gotPlanCommit_kept {qu : List Instr} {F : Nat} {o : State} {s : State} {src : Addr} {m : KMsg} (hF : 0xd00000004c9 ||| F = F) (hk : State.Kept qu F o s) : State.Kept qu F o (State.gotPlanCommit s src m) := by
  unfold State.gotPlanCommit
  split
  · with_reducible assumption
  · refine State.kept_ite (fun _ => ?_) (fun _ => ?_)
    · with_reducible assumption
    · extract_lets +onlyGivenNames v78
      clear_value v78
      extract_lets +onlyGivenNames v77
      clear_value v77
      extract_lets +onlyGivenNames v76
      clear_value v76
      extract_lets +onlyGivenNames v75
      clear_value v75
      extract_lets +onlyGivenNames v74
      clear_value v74
      extract_lets +onlyGivenNames v73
      clear_value v73
      extract_lets +onlyGivenNames v72
      clear_value v72
      extract_lets +onlyGivenNames v71
      clear_value v71
      extract_lets +onlyGivenNames v70
      clear_value v70
      extract_lets +onlyGivenNames v69
      have hv69 : State.Kept qu F o v69 := by
        unfold v69
        refine State.onPlan_kept (sub_of hF rfl) ?_
        with_reducible assumption
      clear_value v69
      extract_lets +onlyGivenNames v68
      have hv68 : State.Kept qu F o v68 := by
        unfold v68
        refine State.raiseIf_kept (sub_of hF rfl) (bit_of hF rfl) ?_
        refine State.raiseIf_kept (sub_of hF rfl) (bit_of hF rfl) ?_
        with_reducible assumption
      clear_value v68
      refine State.installPlan_kept (sub_of hF rfl) ?_
      refine State.showPlans_kept (sub_of hF rfl) ?_
      with_reducible assumption

theorem execPlanCommit_kept {qu : List Instr} {F : Nat} {o : State} {port : Nat} {p : Packet} {s : State} (hF : 0x1001000024179 ||| F = F) (hk : State.Kept qu F o s) : Runs qu F o (execPlanCommit port p s) := by
  unfold execPlanCommit
  refine runs_next ?_
  refine State.stageMsg_kept (sub_of hF rfl) ?_
  with_reducible assumption

theorem State.gotPlanReady_kept {qu : List Instr} {F : Nat} {o : State} {s : State} {src : Addr} {m : KMsg} (hF : 0x400 ||| F = F) (hk : State.Kept qu F o s) : State.Kept qu F o (State.gotPlanReady s src m) := by
  unfold State.gotPlanReady
  extract_lets +onlyGivenNames v80
  clear_value v80
  extract_lets +onlyGivenNames v79
  clear_value v79
  split
  · with_reducible assumption
  · refine State.kept_ite (fun _ => ?_) (fun _ => ?_)
    · with_reducible assumption
    · refine State.onAdm_kept (sub_of hF rfl) ?_
      with_reducible assumption

theorem execPlanReady_kept {qu : List Instr} {F : Nat} {o : State} {port : Nat} {p : Packet} {s : State} (hF : 0x1001000024179 ||| F = F) (hk : State.Kept qu F o s) : Runs qu F o (execPlanReady port p s) := by
  unfold execPlanReady
  refine runs_next ?_
  refine State.stageMsg_kept (sub_of hF rfl) ?_
  with_reducible assumption

theorem State.gotPlanDone_kept {qu : List Instr} {F : Nat} {o : State} {s : State} {src : Addr} {m : KMsg} (hF : 0xd0000005cc9 ||| F = F) (hk : State.Kept qu F o s) : State.Kept qu F o (State.gotPlanDone s src m) := by
  unfold State.gotPlanDone
  extract_lets +onlyGivenNames v80
  clear_value v80
  extract_lets +onlyGivenNames v79
  clear_value v79
  extract_lets +onlyGivenNames v78
  clear_value v78
  extract_lets +onlyGivenNames v77
  clear_value v77
  extract_lets +onlyGivenNames v76
  clear_value v76
  extract_lets +onlyGivenNames v75
  clear_value v75
  extract_lets +onlyGivenNames v74
  have hv74 : State.Kept qu F o v74 := by
    unfold v74
    split
    · with_reducible assumption
    · refine State.kept_ite (fun _ => ?_) (fun _ => ?_)
      · refine State.kept_ite (fun _ => ?_) (fun _ => ?_)
        · refine State.raise_kept (sub_of hF rfl) (bit_of hF rfl) ?_
          refine State.freePlan_kept (sub_of hF rfl) ?_
          with_reducible assumption
        · with_reducible assumption
      · refine State.kept_ite (fun _ => ?_) (fun _ => ?_)
        · refine State.kept_ite (fun _ => ?_) (fun _ => ?_)
          · refine State.enablePlan_kept (sub_of hF rfl) ?_
            with_reducible assumption
          · refine State.freePlan_kept (sub_of hF rfl) ?_
            with_reducible assumption
        · with_reducible assumption
  clear_value v74
  split
  · with_reducible assumption
  · extract_lets +onlyGivenNames v72
    clear_value v72
    extract_lets +onlyGivenNames v71
    have hv71 : State.Kept qu F o v71 := by
      unfold v71
      refine State.onClp_kept (sub_of hF rfl) ?_
      with_reducible assumption
    clear_value v71
    refine State.kept_ite (fun _ => ?_) (fun _ => ?_)
    · refine State.planRefused_kept (sub_of hF rfl) ?_
      with_reducible assumption
    · extract_lets +onlyGivenNames v69
      clear_value v69
      extract_lets +onlyGivenNames v68
      have hv68 : State.Kept qu F o v68 := by
        unfold v68
        refine State.raiseIf_kept (sub_of hF rfl) (bit_of hF rfl) ?_
        with_reducible assumption
      clear_value v68
      refine State.completeAfter_kept (sub_of hF rfl) ?_
      with_reducible assumption

theorem execPlanDone_kept {qu : List Instr} {F : Nat} {o : State} {port : Nat} {p : Packet} {s : State} (hF : 0x10d1000025df9 ||| F = F) (hk : State.Kept qu F o s) : Runs qu F o (execPlanDone port p s) := by
  unfold execPlanDone
  refine runs_next ?_
  refine State.takeMsg_kept (sub_of hF rfl) ?_ ?_
  · with_reducible assumption
  · intro s78 x77 x76 h75
    refine State.gotPlanDone_kept (sub_of hF rfl) ?_
    with_reducible assumption

theorem execPlanMemberSilent_kept {qu : List Instr} {F : Nat} {o : State} {s : State} (hF : 0x441 ||| F = F) (hk : State.Kept qu F o s) : Runs qu F o (execPlanMemberSilent s) := by
  unfold execPlanMemberSilent
  extract_lets +onlyGivenNames v80
  clear_value v80
  refine runs_next ?_
  refine State.kept_foldl ?_ ?_
  · with_reducible assumption
  · intro s77 x76 h75
    refine State.endAdmission_kept (sub_of hF rfl) ?_
    with_reducible assumption

theorem execPlanReqTimeout_kept {qu : List Instr} {F : Nat} {o : State} {s : State} (hF : 0x10000004409 ||| F = F) (hk : State.Kept qu F o s) : Runs qu F o (execPlanReqTimeout s) := by
  unfold execPlanReqTimeout
  extract_lets +onlyGivenNames v80
  clear_value v80
  extract_lets +onlyGivenNames v79
  clear_value v79
  extract_lets +onlyGivenNames v78
  have hv78 : State.Kept qu F o v78 := by
    unfold v78
    refine State.onClp_kept (sub_of hF rfl) ?_
    with_reducible assumption
  clear_value v78
  refine runs_next ?_
  refine State.kept_foldl ?_ ?_
  · with_reducible assumption
  · intro s75 x74 h73
    extract_lets +onlyGivenNames v72
    clear_value v72
    refine State.planRefused_kept (sub_of hF rfl) ?_
    with_reducible assumption

theorem execRsContrib_kept {qu : List Instr} {F : Nat} {o : State} {port : Nat} {p : Packet} {s : State} (hF : 0x1050000064c49 ||| F = F) (hk : State.Kept qu F o s) : Runs qu F o (execRsContrib port p s) := by
  unfold execRsContrib
  extract_lets +onlyGivenNames v80
  clear_value v80
  extract_lets +onlyGivenNames v79
  have hv79 : State.Kept qu F o v79 := by
    unfold v79
    refine State.received_kept (sub_of hF rfl) ?_
    with_reducible assumption
  clear_value v79
  split
  · rename_i n78_0 n78_1 n78_2
    have hn78_2 : State.Kept qu F o n78_1 := by
      refine State.refused_kept (sub_of hF rfl) ?_ _ n78_2
      with_reducible assumption
    refine runs_next ?_
    with_reducible assumption
  · split
    · refine runs_next ?_
      refine State.staleGen_kept (sub_of hF rfl) ?_
      with_reducible assumption
    · extract_lets +onlyGivenNames v76
      clear_value v76
      extract_lets +onlyGivenNames v75
      clear_value v75
      extract_lets +onlyGivenNames v74
      clear_value v74
      extract_lets +onlyGivenNames v73
      clear_value v73
      extract_lets +onlyGivenNames v72
      clear_value v72
      refine runs_ite (fun _ => ?_) (fun _ => ?_)
      · refine runs_next ?_
        refine State.returnCredits_kept (sub_of hF rfl) ?_
        refine State.reAck_kept (sub_of hF rfl) ?_
        with_reducible assumption
      · refine runs_ite (fun _ => ?_) (fun _ => ?_)
        · refine runs_next ?_
          refine State.refusePacket_kept (sub_of hF rfl) ?_
          with_reducible assumption
        · refine runs_ite (fun _ => ?_) (fun _ => ?_)
          · refine runs_next ?_
            refine State.refusePacket_kept (sub_of hF rfl) ?_
            with_reducible assumption
          · refine runs_ite (fun _ => ?_) (fun _ => ?_)
            · refine runs_next ?_
              refine State.returnCredits_kept (sub_of hF rfl) ?_
              refine State.takeWseq_kept (sub_of hF rfl) ?_
              with_reducible assumption
            · refine runs_ite (fun _ => ?_) (fun _ => ?_)
              · refine runs_next ?_
                refine State.returnCredits_kept (sub_of hF rfl) ?_
                refine State.takeWseq_kept (sub_of hF rfl) ?_
                refine State.countReg_kept (bit_of hF rfl) ?_
                with_reducible assumption
              · refine runs_next ?_
                refine State.progress_kept (sub_of hF rfl) ?_
                refine State.takeContrib_kept (sub_of hF rfl) ?_
                with_reducible assumption

theorem execRsResult_kept {qu : List Instr} {F : Nat} {o : State} {port : Nat} {p : Packet} {s : State} (hF : 0x1040000064c49 ||| F = F) (hk : State.Kept qu F o s) : Runs qu F o (execRsResult port p s) := by
  unfold execRsResult
  extract_lets +onlyGivenNames v80
  clear_value v80
  extract_lets +onlyGivenNames v79
  have hv79 : State.Kept qu F o v79 := by
    unfold v79
    refine State.received_kept (sub_of hF rfl) ?_
    with_reducible assumption
  clear_value v79
  split
  · rename_i n78_0 n78_1 n78_2
    have hn78_2 : State.Kept qu F o n78_1 := by
      refine State.refused_kept (sub_of hF rfl) ?_ _ n78_2
      with_reducible assumption
    refine runs_next ?_
    with_reducible assumption
  · split
    · refine runs_next ?_
      refine State.staleGen_kept (sub_of hF rfl) ?_
      with_reducible assumption
    · extract_lets +onlyGivenNames v76
      clear_value v76
      refine runs_ite (fun _ => ?_) (fun _ => ?_)
      · refine runs_next ?_
        refine State.returnCredits_kept (sub_of hF rfl) ?_
        refine State.reAck_kept (sub_of hF rfl) ?_
        with_reducible assumption
      · refine runs_ite (fun _ => ?_) (fun _ => ?_)
        · refine runs_next ?_
          refine State.refusePacket_kept (sub_of hF rfl) ?_
          with_reducible assumption
        · extract_lets +onlyGivenNames v73
          have hv73 : State.Kept qu F o v73 := by
            unfold v73
            refine State.returnCredits_kept (sub_of hF rfl) ?_
            refine State.takeWseq_kept (sub_of hF rfl) ?_
            with_reducible assumption
          clear_value v73
          extract_lets +onlyGivenNames v72
          have hv72 : State.Kept qu F o v72 := by
            unfold v72
            refine State.onPlan_kept (sub_of hF rfl) ?_
            with_reducible assumption
          clear_value v72
          refine runs_next ?_
          refine State.resumePieces_kept (sub_of hF rfl) ?_
          with_reducible assumption

theorem execAgData_kept {qu : List Instr} {F : Nat} {o : State} {port : Nat} {p : Packet} {s : State} (hF : 0x1000000024449 ||| F = F) (hk : State.Kept qu F o s) : Runs qu F o (execAgData port p s) := by
  unfold execAgData
  extract_lets +onlyGivenNames v80
  clear_value v80
  extract_lets +onlyGivenNames v79
  have hv79 : State.Kept qu F o v79 := by
    unfold v79
    refine State.received_kept (sub_of hF rfl) ?_
    with_reducible assumption
  clear_value v79
  split
  · rename_i n78_0 n78_1 n78_2
    have hn78_2 : State.Kept qu F o n78_1 := by
      refine State.refused_kept (sub_of hF rfl) ?_ _ n78_2
      with_reducible assumption
    refine runs_next ?_
    with_reducible assumption
  · split
    · refine runs_next ?_
      refine State.staleGen_kept (sub_of hF rfl) ?_
      with_reducible assumption
    · extract_lets +onlyGivenNames v76
      clear_value v76
      extract_lets +onlyGivenNames v75
      clear_value v75
      refine runs_ite (fun _ => ?_) (fun _ => ?_)
      · refine runs_next ?_
        refine State.returnCredits_kept (sub_of hF rfl) ?_
        refine State.reAck_kept (sub_of hF rfl) ?_
        with_reducible assumption
      · refine runs_ite (fun _ => ?_) (fun _ => ?_)
        · refine runs_next ?_
          refine State.refusePacket_kept (sub_of hF rfl) ?_
          with_reducible assumption
        · extract_lets +onlyGivenNames v72
          have hv72 : State.Kept qu F o v72 := by
            unfold v72
            refine State.returnCredits_kept (sub_of hF rfl) ?_
            refine State.takeWseq_kept (sub_of hF rfl) ?_
            with_reducible assumption
          clear_value v72
          extract_lets +onlyGivenNames v71
          have hv71 : State.Kept qu F o v71 := by
            unfold v71
            refine State.onPlan_kept (sub_of hF rfl) ?_
            with_reducible assumption
          clear_value v71
          extract_lets +onlyGivenNames v70
          clear_value v70
          extract_lets +onlyGivenNames v69
          clear_value v69
          extract_lets +onlyGivenNames v68
          clear_value v68
          extract_lets +onlyGivenNames v67
          have hv67 : State.Kept qu F o v67 := by
            unfold v67
            refine State.sendDown_kept (sub_of hF rfl) ?_
            with_reducible assumption
          clear_value v67
          refine runs_next ?_
          refine State.kept_ite (fun _ => ?_) (fun _ => ?_)
          · with_reducible assumption
          · refine State.sendRing_kept (sub_of hF rfl) ?_
            with_reducible assumption

theorem execBarrier_kept {qu : List Instr} {F : Nat} {o : State} {port : Nat} {p : Packet} {s : State} (hF : 0x1010000024449 ||| F = F) (hk : State.Kept qu F o s) : Runs qu F o (execBarrier port p s) := by
  unfold execBarrier
  extract_lets +onlyGivenNames v80
  clear_value v80
  extract_lets +onlyGivenNames v79
  have hv79 : State.Kept qu F o v79 := by
    unfold v79
    refine State.received_kept (sub_of hF rfl) ?_
    with_reducible assumption
  clear_value v79
  split
  · rename_i n78_0 n78_1 n78_2
    have hn78_2 : State.Kept qu F o n78_1 := by
      refine State.refused_kept (sub_of hF rfl) ?_ _ n78_2
      with_reducible assumption
    refine runs_next ?_
    with_reducible assumption
  · split
    · refine runs_next ?_
      refine State.staleGen_kept (sub_of hF rfl) ?_
      with_reducible assumption
    · refine runs_ite (fun _ => ?_) (fun _ => ?_)
      · refine runs_next ?_
        refine State.returnCredits_kept (sub_of hF rfl) ?_
        refine State.reAck_kept (sub_of hF rfl) ?_
        with_reducible assumption
      · extract_lets +onlyGivenNames v75
        have hv75 : State.Kept qu F o v75 := by
          unfold v75
          refine State.returnCredits_kept (sub_of hF rfl) ?_
          refine State.takeWseq_kept (sub_of hF rfl) ?_
          with_reducible assumption
        clear_value v75
        extract_lets +onlyGivenNames v74
        clear_value v74
        refine runs_ite (fun _ => ?_) (fun _ => ?_)
        · refine runs_next ?_
          refine State.releaseBarrier_kept (sub_of hF rfl) ?_
          with_reducible assumption
        · refine runs_ite (fun _ => ?_) (fun _ => ?_)
          · refine runs_next ?_
            refine State.countReg_kept (bit_of hF rfl) ?_
            with_reducible assumption
          · refine runs_next ?_
            refine State.barrierGo_kept (sub_of hF rfl) ?_
            refine State.onPlan_kept (sub_of hF rfl) ?_
            with_reducible assumption

end Sys2Proof.Machine
end

