-- ==== Sys2Proof/Laws/KeptSolver.lean ====
section
/-! SUPPORT. Laws/KeptSolver.lean: each operation of Machine/Solver.lean keeps the queue and the invariant. -/
namespace Sys2Proof.Machine

theorem State.gotRackReport_kept {qu : List Instr} {F : Nat} {o : State} {s : State} {_src : Addr} {m : KMsg} (hF : 0x1000000141 ||| F = F) (hk : State.Kept qu F o s) : State.Kept qu F o (State.gotRackReport s _src m) := by
  unfold State.gotRackReport
  refine State.kept_ite (fun _ => ?_) (fun _ => ?_)
  · refine State.headReport_kept (sub_of hF rfl) ?_
    with_reducible assumption
  · with_reducible assumption

theorem execRackReport_kept {qu : List Instr} {F : Nat} {o : State} {port : Nat} {p : Packet} {s : State} (hF : 0x1001000024179 ||| F = F) (hk : State.Kept qu F o s) : Runs qu F o (execRackReport port p s) := by
  unfold execRackReport
  refine runs_next ?_
  refine State.takeMsg_kept (sub_of hF rfl) ?_ ?_
  · with_reducible assumption
  · intro s78 x77 x76 h75
    refine State.gotRackReport_kept (sub_of hF rfl) ?_
    with_reducible assumption

theorem State.gotEpoch_kept {qu : List Instr} {F : Nat} {o : State} {s : State} {_src : Addr} {m : KMsg} (hF : 0x141 ||| F = F) (hk : State.Kept qu F o s) : State.Kept qu F o (State.gotEpoch s _src m) := by
  unfold State.gotEpoch
  refine State.kept_ite (fun _ => ?_) (fun _ => ?_)
  · with_reducible assumption
  · split
    · rename_i n79_0 n79_1 n79_2
      have hn79_2 : State.Kept qu F o n79_1 := by
        have en79_2 := congrArg (fun z => z.1) n79_2
        rw [show n79_1 = _ from en79_2.symm]
        beta_reduce
        refine State.collect_kept (sub_of hF rfl) ?_
        with_reducible assumption
      with_reducible assumption
    · rename_i n79_0 n79_1 n79_2 n79_3
      have hn79_3 : State.Kept qu F o n79_1 := by
        have en79_3 := congrArg (fun z => z.1) n79_3
        rw [show n79_1 = _ from en79_3.symm]
        beta_reduce
        refine State.collect_kept (sub_of hF rfl) ?_
        with_reducible assumption
      extract_lets +onlyGivenNames v78
      clear_value v78
      extract_lets +onlyGivenNames v77
      clear_value v77
      extract_lets +onlyGivenNames v76
      have hv76 : State.Kept qu F o v76 := by
        unfold v76
        refine State.kept_slv (bit_of hF rfl) ?_
        with_reducible assumption
      clear_value v76
      refine State.kept_ite (fun _ => ?_) (fun _ => ?_)
      · refine State.notReady_kept (sub_of hF rfl) ?_
        with_reducible assumption
      · with_reducible assumption

theorem execEpoch_kept {qu : List Instr} {F : Nat} {o : State} {port : Nat} {p : Packet} {s : State} (hF : 0x1001000024179 ||| F = F) (hk : State.Kept qu F o s) : Runs qu F o (execEpoch port p s) := by
  unfold execEpoch
  refine runs_next ?_
  refine State.takeMsg_kept (sub_of hF rfl) ?_ ?_
  · with_reducible assumption
  · intro s78 x77 x76 h75
    refine State.gotEpoch_kept (sub_of hF rfl) ?_
    with_reducible assumption

theorem State.gotEpochReq_kept {qu : List Instr} {F : Nat} {o : State} {s : State} {src : Addr} {m : KMsg} (hF : 0x41 ||| F = F) (hk : State.Kept qu F o s) : State.Kept qu F o (State.gotEpochReq s src m) := by
  unfold State.gotEpochReq
  refine State.kept_ite (fun _ => ?_) (fun _ => ?_)
  · split
    · refine State.sendEpoch_kept (sub_of hF rfl) ?_
      with_reducible assumption
    · with_reducible assumption
  · with_reducible assumption

theorem execEpochReq_kept {qu : List Instr} {F : Nat} {o : State} {port : Nat} {p : Packet} {s : State} (hF : 0x1001000024179 ||| F = F) (hk : State.Kept qu F o s) : Runs qu F o (execEpochReq port p s) := by
  unfold execEpochReq
  refine runs_next ?_
  refine State.takeMsg_kept (sub_of hF rfl) ?_ ?_
  · with_reducible assumption
  · intro s78 x77 x76 h75
    refine State.gotEpochReq_kept (sub_of hF rfl) ?_
    with_reducible assumption

theorem State.uplinkDark_kept {qu : List Instr} {F : Nat} {o : State} {s : State} {w : Word} (hF : 0x110000005c9 ||| F = F) (hk : State.Kept qu F o s) : State.Kept qu F o (State.uplinkDark s w) := by
  unfold State.uplinkDark
  extract_lets +onlyGivenNames v80
  have hv80 : State.Kept qu F o v80 := by
    unfold v80
    refine State.noticeLink_kept (sub_of hF rfl) ?_
    with_reducible assumption
  clear_value v80
  refine State.kept_ite (fun _ => ?_) (fun _ => ?_)
  · refine State.ringUplinkLost_kept (sub_of hF rfl) ?_
    with_reducible assumption
  · with_reducible assumption

theorem State.gotLinkNotice_kept {qu : List Instr} {F : Nat} {o : State} {s : State} {_src : Addr} {m : KMsg} (hF : 0x110000005c9 ||| F = F) (hk : State.Kept qu F o s) : State.Kept qu F o (State.gotLinkNotice s _src m) := by
  unfold State.gotLinkNotice
  refine State.kept_foldl ?_ ?_
  · with_reducible assumption
  · intro s79 x78 h77
    refine State.uplinkDark_kept (sub_of hF rfl) ?_
    with_reducible assumption

theorem execLinkNotice_kept {qu : List Instr} {F : Nat} {o : State} {port : Nat} {p : Packet} {s : State} (hF : 0x10110000245f9 ||| F = F) (hk : State.Kept qu F o s) : Runs qu F o (execLinkNotice port p s) := by
  unfold execLinkNotice
  refine runs_next ?_
  refine State.takeMsg_kept (sub_of hF rfl) ?_ ?_
  · with_reducible assumption
  · intro s78 x77 x76 h75
    refine State.gotLinkNotice_kept (sub_of hF rfl) ?_
    with_reducible assumption

theorem execSectorVerdict_kept {qu : List Instr} {F : Nat} {o : State} {v : Verdict} {s : State} (hF : 0x10 ||| F = F) (hk : State.Kept qu F o s) : Runs qu F o (execSectorVerdict v s) := by
  unfold execSectorVerdict
  refine runs_next ?_
  refine State.kept_ite (fun _ => ?_) (fun _ => ?_)
  · refine State.stageResult_kept (sub_of hF rfl) ?_
    with_reducible assumption
  · with_reducible assumption

theorem State.publishVerdict_kept {qu : List Instr} {F : Nat} {o : State} {s : State} {v : Verdict} (hF : 0x10050000241d9 ||| F = F) (hk : State.Kept qu F o s) : State.Kept qu F o (State.publishVerdict s v) := by
  unfold State.publishVerdict
  extract_lets +onlyGivenNames v80
  clear_value v80
  refine State.kept_ite (fun _ => ?_) (fun _ => ?_)
  · with_reducible assumption
  · refine State.kept_ite (fun _ => ?_) (fun _ => ?_)
    · refine State.stageInput_kept (sub_of hF rfl) ?_
      with_reducible assumption
    · extract_lets +onlyGivenNames v77
      clear_value v77
      extract_lets +onlyGivenNames v76
      clear_value v76
      split
      extract_lets +onlyGivenNames v74
      have hv74 : State.Kept qu F o v74 := by
        unfold v74
        refine State.setReg_kept (bit_of hF rfl) ?_
        with_reducible assumption
      clear_value v74
      extract_lets +onlyGivenNames v73
      have hv73 : State.Kept qu F o v73 := by
        unfold v73
        refine State.setF_kept (bit_of hF rfl) ?_
        refine State.setF_kept (bit_of hF rfl) ?_
        with_reducible assumption
      clear_value v73
      refine State.kept_ite (fun _ => ?_) (fun _ => ?_)
      · refine State.startLoad_kept (sub_of hF rfl) ?_
        refine State.count_kept (bit_of hF rfl) ?_
        refine State.setF_kept (bit_of hF rfl) ?_
        with_reducible assumption
      · extract_lets +onlyGivenNames v71
        have hv71 : State.Kept qu F o v71 := by
          unfold v71
          refine State.count_kept (bit_of hF rfl) ?_
          refine State.setF_kept (bit_of hF rfl) ?_
          with_reducible assumption
        clear_value v71
        extract_lets +onlyGivenNames v70
        have hv70 : State.Kept qu F o v70 := by
          unfold v70
          refine State.setReg_kept (bit_of hF rfl) ?_
          with_reducible assumption
        clear_value v70
        extract_lets +onlyGivenNames v69
        have hv69 : State.Kept qu F o v69 := by
          unfold v69
          refine State.countReg_kept (bit_of hF rfl) ?_
          refine State.raise_kept (sub_of hF rfl) (bit_of hF rfl) ?_
          with_reducible assumption
        clear_value v69
        refine State.kept_ite (fun _ => ?_) (fun _ => ?_)
        · extract_lets +onlyGivenNames v67
          clear_value v67
          extract_lets +onlyGivenNames v66
          clear_value v66
          extract_lets +onlyGivenNames v65
          clear_value v65
          refine State.setPhase_kept (sub_of hF rfl) ?_
          refine State.onCycle_kept (sub_of hF rfl) ?_
          with_reducible assumption
        · extract_lets +onlyGivenNames v67
          have hv67 : State.Kept qu F o v67 := by
            unfold v67
            refine State.setPhase_kept (sub_of hF rfl) ?_
            with_reducible assumption
          clear_value v67
          extract_lets +onlyGivenNames v66
          have hv66 : State.Kept qu F o v66 := by
            unfold v66
            refine State.logOwn_kept (sub_of hF rfl) ?_
            with_reducible assumption
          clear_value v66
          refine State.notReady_kept (sub_of hF rfl) ?_
          refine State.raise_kept (sub_of hF rfl) (bit_of hF rfl) ?_
          with_reducible assumption

theorem execBankLoadDone_kept {qu : List Instr} {F : Nat} {o : State} {s : State} (hF : 0x10000001d1 ||| F = F) (hk : State.Kept qu F o s) : Runs qu F o (execBankLoadDone s) := by
  unfold execBankLoadDone
  extract_lets +onlyGivenNames v80
  clear_value v80
  refine runs_ite (fun _ => ?_) (fun _ => ?_)
  · extract_lets +onlyGivenNames v78
    have hv78 : State.Kept qu F o v78 := by
      unfold v78
      refine State.sendBankReady_kept (sub_of hF rfl) ?_
      refine State.stageInput_kept (sub_of hF rfl) ?_
      refine State.setPhase_kept (sub_of hF rfl) ?_
      with_reducible assumption
    clear_value v78
    refine runs_next ?_
    refine State.kept_ite (fun _ => ?_) (fun _ => ?_)
    · refine State.armBank_kept (sub_of hF rfl) ?_
      with_reducible assumption
    · with_reducible assumption
  · refine runs_next ?_
    with_reducible assumption

theorem State.gotBankReady_kept {qu : List Instr} {F : Nat} {o : State} {s : State} {src : Addr} {m : KMsg} (hF : 0x1000000100 ||| F = F) (hk : State.Kept qu F o s) : State.Kept qu F o (State.gotBankReady s src m) := by
  unfold State.gotBankReady
  extract_lets +onlyGivenNames v80
  clear_value v80
  refine State.kept_ite (fun _ => ?_) (fun _ => ?_)
  · extract_lets +onlyGivenNames v78
    clear_value v78
    refine State.showHead_kept (sub_of hF rfl) ?_
    refine State.onHead_kept (sub_of hF rfl) ?_
    with_reducible assumption
  · with_reducible assumption

theorem execBankReady_kept {qu : List Instr} {F : Nat} {o : State} {port : Nat} {p : Packet} {s : State} (hF : 0x1001000024179 ||| F = F) (hk : State.Kept qu F o s) : Runs qu F o (execBankReady port p s) := by
  unfold execBankReady
  refine runs_next ?_
  refine State.takeMsg_kept (sub_of hF rfl) ?_ ?_
  · with_reducible assumption
  · intro s78 x77 x76 h75
    refine State.gotBankReady_kept (sub_of hF rfl) ?_
    with_reducible assumption

theorem State.gotAnnounce_kept {qu : List Instr} {F : Nat} {o : State} {s : State} {_src : Addr} {m : KMsg} (hF : 0x12000001e1 ||| F = F) (hk : State.Kept qu F o s) : State.Kept qu F o (State.gotAnnounce s _src m) := by
  unfold State.gotAnnounce
  refine State.kept_ite (fun _ => ?_) (fun _ => ?_)
  · refine State.chartAnnounced_kept (sub_of hF rfl) ?_
    with_reducible assumption
  · extract_lets +onlyGivenNames v79
    clear_value v79
    extract_lets +onlyGivenNames v78
    clear_value v78
    refine State.kept_ite (fun _ => ?_) (fun _ => ?_)
    · refine State.notReady_kept (sub_of hF rfl) ?_
      with_reducible assumption
    · refine State.kept_ite (fun _ => ?_) (fun _ => ?_)
      · extract_lets +onlyGivenNames v75
        clear_value v75
        extract_lets +onlyGivenNames v74
        have hv74 : State.Kept qu F o v74 := by
          unfold v74
          refine State.kept_slv (bit_of hF rfl) ?_
          with_reducible assumption
        clear_value v74
        refine State.notReady_kept (sub_of hF rfl) ?_
        with_reducible assumption
      · refine State.kept_ite (fun _ => ?_) (fun _ => ?_)
        · with_reducible assumption
        · extract_lets +onlyGivenNames v74
          have hv74 : State.Kept qu F o v74 := by
            unfold v74
            refine State.takeAnnounce_kept (sub_of hF rfl) ?_
            with_reducible assumption
          clear_value v74
          split
          · refine State.armBank_kept (sub_of hF rfl) ?_
            with_reducible assumption
          · refine State.rearmAgents_kept (sub_of hF rfl) ?_
            with_reducible assumption
          · refine State.notReady_kept (sub_of hF rfl) ?_
            with_reducible assumption
          · refine State.notReady_kept (sub_of hF rfl) ?_
            with_reducible assumption
          · refine State.notReady_kept (sub_of hF rfl) ?_
            with_reducible assumption
          · refine State.notReady_kept (sub_of hF rfl) ?_
            with_reducible assumption

theorem execAnnounce_kept {qu : List Instr} {F : Nat} {o : State} {port : Nat} {p : Packet} {s : State} (hF : 0x10012000241f9 ||| F = F) (hk : State.Kept qu F o s) : Runs qu F o (execAnnounce port p s) := by
  unfold execAnnounce
  refine runs_next ?_
  refine State.takeMsg_kept (sub_of hF rfl) ?_ ?_
  · with_reducible assumption
  · intro s78 x77 x76 h75
    refine State.gotAnnounce_kept (sub_of hF rfl) ?_
    with_reducible assumption

theorem State.gotReady_kept {qu : List Instr} {F : Nat} {o : State} {s : State} {src : Addr} {m : KMsg} (hF : 0x1000000120 ||| F = F) (hk : State.Kept qu F o s) : State.Kept qu F o (State.gotReady s src m) := by
  unfold State.gotReady
  extract_lets +onlyGivenNames v80
  clear_value v80
  refine State.kept_ite (fun _ => ?_) (fun _ => ?_)
  · with_reducible assumption
  · refine State.kept_ite (fun _ => ?_) (fun _ => ?_)
    · refine State.chartReady_kept (sub_of hF rfl) ?_
      with_reducible assumption
    · refine State.kept_ite (fun _ => ?_) (fun _ => ?_)
      · refine State.showHead_kept (sub_of hF rfl) ?_
        refine State.onHead_kept (sub_of hF rfl) ?_
        with_reducible assumption
      · with_reducible assumption

theorem execReady_kept {qu : List Instr} {F : Nat} {o : State} {port : Nat} {p : Packet} {s : State} (hF : 0x1001000024179 ||| F = F) (hk : State.Kept qu F o s) : Runs qu F o (execReady port p s) := by
  unfold execReady
  refine runs_next ?_
  refine State.takeMsg_kept (sub_of hF rfl) ?_ ?_
  · with_reducible assumption
  · intro s78 x77 x76 h75
    refine State.gotReady_kept (sub_of hF rfl) ?_
    with_reducible assumption

theorem State.gotNotReady_kept {qu : List Instr} {F : Nat} {o : State} {s : State} {src : Addr} {m : KMsg} (hF : 0x5200000369 ||| F = F) (hk : State.Kept qu F o s) : State.Kept qu F o (State.gotNotReady s src m) := by
  unfold State.gotNotReady
  refine State.kept_ite (fun _ => ?_) (fun _ => ?_)
  · with_reducible assumption
  · refine State.kept_ite (fun _ => ?_) (fun _ => ?_)
    · split
      · refine State.kept_ite (fun _ => ?_) (fun _ => ?_)
        · refine State.postponeChart_kept (sub_of hF rfl) ?_
          with_reducible assumption
        · with_reducible assumption
      · with_reducible assumption
    · refine State.kept_ite (fun _ => ?_) (fun _ => ?_)
      · extract_lets +onlyGivenNames v77
        have hv77 : State.Kept qu F o v77 := by
          unfold v77
          refine State.showHead_kept (sub_of hF rfl) ?_
          refine State.onHead_kept (sub_of hF rfl) ?_
          with_reducible assumption
        clear_value v77
        refine State.kept_ite (fun _ => ?_) (fun _ => ?_)
        · refine State.refusedBank_kept (sub_of hF rfl) ?_
          with_reducible assumption
        · refine State.postponeBank_kept (sub_of hF rfl) ?_
          with_reducible assumption
      · with_reducible assumption

theorem execNotReady_kept {qu : List Instr} {F : Nat} {o : State} {port : Nat} {p : Packet} {s : State} (hF : 0x1005200024379 ||| F = F) (hk : State.Kept qu F o s) : Runs qu F o (execNotReady port p s) := by
  unfold execNotReady
  refine runs_next ?_
  refine State.takeMsg_kept (sub_of hF rfl) ?_ ?_
  · with_reducible assumption
  · intro s78 x77 x76 h75
    refine State.gotNotReady_kept (sub_of hF rfl) ?_
    with_reducible assumption

theorem execReadyDeadline_kept {qu : List Instr} {F : Nat} {o : State} {s : State} (hF : 0x200000169 ||| F = F) (hk : State.Kept qu F o s) : Runs qu F o (execReadyDeadline s) := by
  unfold execReadyDeadline
  extract_lets +onlyGivenNames v80
  clear_value v80
  extract_lets +onlyGivenNames v79
  have hv79 : State.Kept qu F o v79 := by
    unfold v79
    refine State.kept_ite (fun _ => ?_) (fun _ => ?_)
    · refine State.postponeBank_kept (sub_of hF rfl) ?_
      with_reducible assumption
    · with_reducible assumption
  clear_value v79
  split
  · refine runs_next ?_
    refine State.kept_ite (fun _ => ?_) (fun _ => ?_)
    · refine State.postponeChart_kept (sub_of hF rfl) ?_
      with_reducible assumption
    · with_reducible assumption
  · refine runs_next ?_
    with_reducible assumption

theorem State.gotPostpone_kept {qu : List Instr} {F : Nat} {o : State} {s : State} {_src : Addr} {m : KMsg} (hF : 0x12000001e9 ||| F = F) (hk : State.Kept qu F o s) : State.Kept qu F o (State.gotPostpone s _src m) := by
  unfold State.gotPostpone
  refine State.kept_ite (fun _ => ?_) (fun _ => ?_)
  · refine State.chartPostponed_kept (sub_of hF rfl) ?_
    with_reducible assumption
  · extract_lets +onlyGivenNames v79
    clear_value v79
    refine State.kept_ite (fun _ => ?_) (fun _ => ?_)
    · extract_lets +onlyGivenNames v77
      have hv77 : State.Kept qu F o v77 := by
        unfold v77
        refine State.countReg_kept (bit_of hF rfl) ?_
        refine State.takeAnnounce_kept (sub_of hF rfl) ?_
        with_reducible assumption
      clear_value v77
      extract_lets +onlyGivenNames v76
      have hv76 : State.Kept qu F o v76 := by
        unfold v76
        refine State.raise_kept (sub_of hF rfl) (bit_of hF rfl) ?_
        with_reducible assumption
      clear_value v76
      refine State.kept_ite (fun _ => ?_) (fun _ => ?_)
      · refine State.rearmAgents_kept (sub_of hF rfl) ?_
        with_reducible assumption
      · with_reducible assumption
    · split
      · refine State.kept_ite (fun _ => ?_) (fun _ => ?_)
        · refine State.kept_slv (bit_of hF rfl) ?_
          with_reducible assumption
        · with_reducible assumption
      · with_reducible assumption

theorem execPostpone_kept {qu : List Instr} {F : Nat} {o : State} {port : Nat} {p : Packet} {s : State} (hF : 0x10012000241f9 ||| F = F) (hk : State.Kept qu F o s) : Runs qu F o (execPostpone port p s) := by
  unfold execPostpone
  refine runs_next ?_
  refine State.takeMsg_kept (sub_of hF rfl) ?_ ?_
  · with_reducible assumption
  · intro s78 x77 x76 h75
    refine State.gotPostpone_kept (sub_of hF rfl) ?_
    with_reducible assumption

theorem State.gotConfirm_kept {qu : List Instr} {F : Nat} {o : State} {s : State} {_src : Addr} {m : KMsg} (hF : 0x1000000160 ||| F = F) (hk : State.Kept qu F o s) : State.Kept qu F o (State.gotConfirm s _src m) := by
  unfold State.gotConfirm
  refine State.kept_ite (fun _ => ?_) (fun _ => ?_)
  · refine State.chartConfirmed_kept (sub_of hF rfl) ?_
    with_reducible assumption
  · extract_lets +onlyGivenNames v79
    clear_value v79
    refine State.kept_ite (fun _ => ?_) (fun _ => ?_)
    · refine State.confirmBank_kept (sub_of hF rfl) ?_
      with_reducible assumption
    · with_reducible assumption

theorem execConfirm_kept {qu : List Instr} {F : Nat} {o : State} {port : Nat} {p : Packet} {s : State} (hF : 0x1001000024179 ||| F = F) (hk : State.Kept qu F o s) : Runs qu F o (execConfirm port p s) := by
  unfold execConfirm
  refine runs_next ?_
  refine State.takeMsg_kept (sub_of hF rfl) ?_ ?_
  · with_reducible assumption
  · intro s78 x77 x76 h75
    refine State.gotConfirm_kept (sub_of hF rfl) ?_
    with_reducible assumption

theorem execGoRepeat_kept {qu : List Instr} {F : Nat} {o : State} {s : State} (hF : 0x140 ||| F = F) (hk : State.Kept qu F o s) : Runs qu F o (execGoRepeat s) := by
  unfold execGoRepeat
  refine runs_next ?_
  refine State.kept_ite (fun _ => ?_) (fun _ => ?_)
  · refine State.onCycle_kept (sub_of hF rfl) ?_
    refine State.sendGo_kept (sub_of hF rfl) ?_
    with_reducible assumption
  · with_reducible assumption

theorem State.gotLitReport_kept {qu : List Instr} {F : Nat} {o : State} {s : State} {src : Addr} {_m : KMsg} (hF : 0x100 ||| F = F) (hk : State.Kept qu F o s) : State.Kept qu F o (State.gotLitReport s src _m) := by
  unfold State.gotLitReport
  extract_lets +onlyGivenNames v80
  clear_value v80
  refine State.kept_ite (fun _ => ?_) (fun _ => ?_)
  · refine State.onHead_kept (sub_of hF rfl) ?_
    with_reducible assumption
  · with_reducible assumption

theorem execLitReport_kept {qu : List Instr} {F : Nat} {o : State} {port : Nat} {p : Packet} {s : State} (hF : 0x1001000024179 ||| F = F) (hk : State.Kept qu F o s) : Runs qu F o (execLitReport port p s) := by
  unfold execLitReport
  refine runs_next ?_
  refine State.takeMsg_kept (sub_of hF rfl) ?_ ?_
  · with_reducible assumption
  · intro s78 x77 x76 h75
    refine State.gotLitReport_kept (sub_of hF rfl) ?_
    with_reducible assumption

theorem State.gotWithdraw_kept {qu : List Instr} {F : Nat} {o : State} {s : State} {_src : Addr} {m : KMsg} (hF : 0x10052000243e9 ||| F = F) (hk : State.Kept qu F o s) : State.Kept qu F o (State.gotWithdraw s _src m) := by
  unfold State.gotWithdraw
  refine State.kept_ite (fun _ => ?_) (fun _ => ?_)
  · refine State.chartWithdrawn_kept (sub_of hF rfl) ?_
    with_reducible assumption
  · extract_lets +onlyGivenNames v79
    clear_value v79
    extract_lets +onlyGivenNames v78
    clear_value v78
    extract_lets +onlyGivenNames v77
    clear_value v77
    extract_lets +onlyGivenNames v76
    have hv76 : State.Kept qu F o v76 := by
      unfold v76
      refine State.kept_slv (bit_of hF rfl) ?_
      with_reducible assumption
    clear_value v76
    extract_lets +onlyGivenNames v75
    clear_value v75
    extract_lets +onlyGivenNames v74
    have hv74 : State.Kept qu F o v74 := by
      unfold v74
      refine State.kept_slc (bit_of hF rfl) ?_
      with_reducible assumption
    clear_value v74
    extract_lets +onlyGivenNames v73
    have hv73 : State.Kept qu F o v73 := by
      unfold v73
      refine State.revertSlices_kept (sub_of hF rfl) ?_
      with_reducible assumption
    clear_value v73
    refine State.kept_ite (fun _ => ?_) (fun _ => ?_)
    · refine State.raise_kept (sub_of hF rfl) (bit_of hF rfl) ?_
      refine State.dropCycle_kept (sub_of hF rfl) ?_
      with_reducible assumption
    · refine State.raise_kept (sub_of hF rfl) (bit_of hF rfl) ?_
      with_reducible assumption

theorem execWithdraw_kept {qu : List Instr} {F : Nat} {o : State} {port : Nat} {p : Packet} {s : State} (hF : 0x10052000243f9 ||| F = F) (hk : State.Kept qu F o s) : Runs qu F o (execWithdraw port p s) := by
  unfold execWithdraw
  refine runs_next ?_
  refine State.takeMsg_kept (sub_of hF rfl) ?_ ?_
  · with_reducible assumption
  · intro s78 x77 x76 h75
    refine State.gotWithdraw_kept (sub_of hF rfl) ?_
    with_reducible assumption

theorem execRackFence_kept {qu : List Instr} {F : Nat} {o : State} {rack : Nat} {s : State} (hF : 0x1000000341 ||| F = F) (hk : State.Kept qu F o s) : Runs qu F o (execRackFence rack s) := by
  unfold execRackFence
  extract_lets +onlyGivenNames v80
  clear_value v80
  refine runs_ite (fun _ => ?_) (fun _ => ?_)
  · extract_lets +onlyGivenNames v78
    clear_value v78
    extract_lets +onlyGivenNames v77
    have hv77 : State.Kept qu F o v77 := by
      unfold v77
      refine State.withdrawEpoch_kept (sub_of hF rfl) ?_
      with_reducible assumption
    clear_value v77
    refine runs_next ?_
    refine State.onHead_kept (sub_of hF rfl) ?_
    with_reducible assumption
  · refine runs_next ?_
    with_reducible assumption

end Sys2Proof.Machine
end

