-- ==== Sys2Proof/Laws/KeptLighting.lean ====
section
/-! SUPPORT. Laws/KeptLighting.lean: each operation of Machine/Lighting.lean keeps the queue and the invariant. -/
namespace Sys2Proof.Machine

theorem State.releasePlans_kept {qu : List Instr} {F : Nat} {o : State} {s : State} {slice : Nat} {gone : List Word → Bool} (hF : 0xd0000001cc9 ||| F = F) (hk : State.Kept qu F o s) : State.Kept qu F o (State.releasePlans s slice gone) := by
  unfold State.releasePlans
  extract_lets +onlyGivenNames v80
  clear_value v80
  extract_lets +onlyGivenNames v79
  have hv79 : State.Kept qu F o v79 := by
    unfold v79
    refine State.kept_foldl ?_ ?_
    · with_reducible assumption
    · intro s77 x76 h75
      refine State.raise_kept (sub_of hF rfl) (bit_of hF rfl) ?_
      refine State.freePlan_kept (sub_of hF rfl) ?_
      with_reducible assumption
  clear_value v79
  extract_lets +onlyGivenNames v78
  clear_value v78
  refine State.onClp_kept (sub_of hF rfl) ?_
  with_reducible assumption

theorem State.sliceCreated_kept {qu : List Instr} {F : Nat} {o : State} {s : State} {id epoch : Nat} (hF : 0x10400 ||| F = F) (hk : State.Kept qu F o s) : State.Kept qu F o (State.sliceCreated s id epoch) := by
  unfold State.sliceCreated
  refine State.reserveLantern_kept (sub_of hF rfl) ?_
  refine State.makeKey_kept (sub_of hF rfl) ?_
  with_reducible assumption

theorem State.sliceResealed_kept {qu : List Instr} {F : Nat} {o : State} {s : State} {id : Nat} {drained : Bool} {members : List Addr} (hF : 0xd0000011cc9 ||| F = F) (hk : State.Kept qu F o s) : State.Kept qu F o (State.sliceResealed s id drained members) := by
  unfold State.sliceResealed
  extract_lets +onlyGivenNames v80
  have hv80 : State.Kept qu F o v80 := by
    unfold v80
    refine State.rotate_kept (sub_of hF rfl) ?_
    with_reducible assumption
  clear_value v80
  extract_lets +onlyGivenNames v79
  have hv79 : State.Kept qu F o v79 := by
    unfold v79
    split
    · refine State.releasePlans_kept (sub_of hF rfl) ?_
      with_reducible assumption
    · with_reducible assumption
  clear_value v79
  refine State.kept_ite (fun _ => ?_) (fun _ => ?_)
  · refine State.mgmtAll_kept (sub_of hF rfl) ?_
    refine State.kept_foldl ?_ ?_
    · with_reducible assumption
    · intro s75 x74 h73
      refine State.unloadSlots_kept (sub_of hF rfl) ?_
      with_reducible assumption
  · with_reducible assumption

theorem State.sliceDestroyed_kept {qu : List Instr} {F : Nat} {o : State} {s : State} {id : Nat} {members : List Addr} (hF : 0xd0000115ec9 ||| F = F) (hk : State.Kept qu F o s) : State.Kept qu F o (State.sliceDestroyed s id members) := by
  unfold State.sliceDestroyed
  extract_lets +onlyGivenNames v80
  have hv80 : State.Kept qu F o v80 := by
    unfold v80
    refine State.dropKey_kept (sub_of hF rfl) ?_
    refine State.releasePlans_kept (sub_of hF rfl) ?_
    with_reducible assumption
  clear_value v80
  extract_lets +onlyGivenNames v79
  have hv79 : State.Kept qu F o v79 := by
    unfold v79
    refine State.mgmtAll_kept (sub_of hF rfl) ?_
    with_reducible assumption
  clear_value v79
  refine State.kept_with ?_ (by constructor <;> first | exact fun _ => rfl | exact fun _ _ => rfl | exact fun h => absurd (h.symm.trans (bit_of hF rfl)) Bool.false_ne_true) rfl rfl rfl
  with_reducible assumption

theorem State.lightNow_kept {qu : List Instr} {F : Nat} {o : State} {s : State} (hF : 0x10d5400135fd9 ||| F = F) (hk : State.Kept qu F o s) : State.Kept qu F o (State.lightNow s) := by
  unfold State.lightNow
  extract_lets +onlyGivenNames v80
  clear_value v80
  extract_lets +onlyGivenNames v79
  clear_value v79
  extract_lets +onlyGivenNames v78
  clear_value v78
  extract_lets +onlyGivenNames v77
  have hv77 : State.Kept qu F o v77 := by
    unfold v77
    refine State.lightBank_kept (sub_of hF rfl) ?_
    with_reducible assumption
  clear_value v77
  extract_lets +onlyGivenNames v76
  have hv76 : State.Kept qu F o v76 := by
    unfold v76
    refine State.onWdn_kept (sub_of hF rfl) ?_
    with_reducible assumption
  clear_value v76
  extract_lets +onlyGivenNames v75
  have hv75 : State.Kept qu F o v75 := by
    unfold v75
    refine State.kept_foldl ?_ ?_
    · with_reducible assumption
    · intro s73 x72 h71
      split
      refine State.kept_ite (fun _ => ?_) (fun _ => ?_)
      · refine State.sliceDestroyed_kept (sub_of hF rfl) ?_
        with_reducible assumption
      · refine State.kept_ite (fun _ => ?_) (fun _ => ?_)
        · refine State.sliceResealed_kept (sub_of hF rfl) ?_
          with_reducible assumption
        · refine State.sliceCreated_kept (sub_of hF rfl) ?_
          with_reducible assumption
  clear_value v75
  extract_lets +onlyGivenNames v74
  have hv74 : State.Kept qu F o v74 := by
    unfold v74
    refine State.kept_foldl ?_ ?_
    · with_reducible assumption
    · intro s72 x71 h70
      refine State.askSeal_kept (sub_of hF rfl) ?_
      with_reducible assumption
  clear_value v74
  extract_lets +onlyGivenNames v73
  clear_value v73
  extract_lets +onlyGivenNames v72
  have hv72 : State.Kept qu F o v72 := by
    unfold v72
    refine State.kept_slv (bit_of hF rfl) ?_
    with_reducible assumption
  clear_value v72
  refine State.stageInput_kept (sub_of hF rfl) ?_
  refine State.showSlices_kept (sub_of hF rfl) ?_
  refine State.showPlans_kept (sub_of hF rfl) ?_
  refine State.writeParkMax_kept (sub_of hF rfl) ?_
  with_reducible assumption

theorem execBankLight_kept {qu : List Instr} {F : Nat} {o : State} {s : State} (hF : 0x10d5400135fd9 ||| F = F) (hk : State.Kept qu F o s) : Runs qu F o (execBankLight s) := by
  unfold execBankLight
  extract_lets +onlyGivenNames v80
  clear_value v80
  refine runs_next ?_
  refine State.kept_ite (fun _ => ?_) (fun _ => ?_)
  · refine State.lightNow_kept (sub_of hF rfl) ?_
    with_reducible assumption
  · with_reducible assumption

theorem State.lightPorts_kept {qu : List Instr} {F : Nat} {o : State} {s : State} (hF : 0x14104000264d9 ||| F = F) (hk : State.Kept qu F o s) : State.Kept qu F o (State.lightPorts s) := by
  unfold State.lightPorts
  refine State.kept_foldl ?_ ?_
  · with_reducible assumption
  · intro s79 x78 h77
    split
    · refine State.kept_ite (fun _ => ?_) (fun _ => ?_)
      · with_reducible assumption
      · refine State.trainPort_kept (sub_of hF rfl) ?_
        with_reducible assumption
    · refine State.kept_ite (fun _ => ?_) (fun _ => ?_)
      · with_reducible assumption
      · refine State.trainPort_kept (sub_of hF rfl) ?_
        with_reducible assumption
    · refine State.kept_ite (fun _ => ?_) (fun _ => ?_)
      · with_reducible assumption
      · refine State.trainPort_kept (sub_of hF rfl) ?_
        with_reducible assumption
    · refine State.kept_ite (fun _ => ?_) (fun _ => ?_)
      · with_reducible assumption
      · refine State.trainPort_kept (sub_of hF rfl) ?_
        with_reducible assumption
    · refine State.kept_ite (fun _ => ?_) (fun _ => ?_)
      · refine State.judgePort_kept (sub_of hF rfl) ?_
        with_reducible assumption
      · with_reducible assumption
    · refine State.kept_ite (fun _ => ?_) (fun _ => ?_)
      · refine State.judgePort_kept (sub_of hF rfl) ?_
        with_reducible assumption
      · with_reducible assumption
    · refine State.kept_ite (fun _ => ?_) (fun _ => ?_)
      · refine State.judgePort_kept (sub_of hF rfl) ?_
        with_reducible assumption
      · with_reducible assumption
    · with_reducible assumption

theorem State.lightChart_kept {qu : List Instr} {F : Nat} {o : State} {s : State} {n : Nat} {c : Chart} (hF : 0x3dd46000265fd ||| F = F) (hk : State.Kept qu F o s) : State.Kept qu F o (State.lightChart s n c) := by
  unfold State.lightChart
  extract_lets +onlyGivenNames v80
  clear_value v80
  extract_lets +onlyGivenNames v79
  clear_value v79
  extract_lets +onlyGivenNames v78
  have hv78 : State.Kept qu F o v78 := by
    unfold v78
    refine State.setReg_kept (bit_of hF rfl) ?_
    refine State.lightLocal_kept (sub_of hF rfl) ?_
    with_reducible assumption
  clear_value v78
  extract_lets +onlyGivenNames v77
  have hv77 : State.Kept qu F o v77 := by
    unfold v77
    refine State.kept_ite (fun _ => ?_) (fun _ => ?_)
    · with_reducible assumption
    · refine State.onHead_kept (sub_of hF rfl) ?_
      with_reducible assumption
  clear_value v77
  extract_lets +onlyGivenNames v76
  clear_value v76
  extract_lets +onlyGivenNames v75
  have hv75 : State.Kept qu F o v75 := by
    unfold v75
    refine State.kept_chart (bit_of hF rfl) ?_
    with_reducible assumption
  clear_value v75
  extract_lets +onlyGivenNames v74
  have hv74 : State.Kept qu F o v74 := by
    unfold v74
    refine State.judgeMismatch_kept (sub_of hF rfl) ?_
    refine State.showSlices_kept (sub_of hF rfl) ?_
    refine State.showPlans_kept (sub_of hF rfl) ?_
    refine State.showLamps_kept (sub_of hF rfl) ?_
    with_reducible assumption
  clear_value v74
  extract_lets +onlyGivenNames v73
  have hv73 : State.Kept qu F o v73 := by
    unfold v73
    refine State.kept_ite (fun _ => ?_) (fun _ => ?_)
    · refine State.kept_foldl ?_ ?_
      · refine State.writeTags_kept (sub_of hF rfl) ?_
        refine State.writeWeights_kept (sub_of hF rfl) ?_
        refine State.clearHolds_kept (sub_of hF rfl) ?_
        with_reducible assumption
      · intro s70 x69 h68
        refine State.countIn_kept (sub_of hF rfl) ?_
        with_reducible assumption
    · with_reducible assumption
  clear_value v73
  refine State.stageInput_kept (sub_of hF rfl) ?_
  refine State.lightPorts_kept (sub_of hF rfl) ?_
  with_reducible assumption

theorem State.chartLightDone_kept {qu : List Instr} {F : Nat} {o : State} {s : State} {win : Nat} (hF : 0x8 ||| F = F) (hk : State.Kept qu F o s) : State.Kept qu F o (State.chartLightDone s win) := by
  unfold State.chartLightDone
  refine State.kept_ite (fun _ => ?_) (fun _ => ?_)
  · refine State.completeAfter_kept (sub_of hF rfl) ?_
    with_reducible assumption
  · with_reducible assumption

theorem execChartLight_kept {qu : List Instr} {F : Nat} {o : State} {s : State} (hF : 0x3dd46000265fd ||| F = F) (hk : State.Kept qu F o s) : Runs qu F o (execChartLight s) := by
  unfold execChartLight
  refine runs_ite (fun _ => ?_) (fun _ => ?_)
  · refine runs_next ?_
    with_reducible assumption
  · split
    · split
      · refine runs_ite (fun _ => ?_) (fun _ => ?_)
        · extract_lets +onlyGivenNames v76
          clear_value v76
          extract_lets +onlyGivenNames v75
          have hv75 : State.Kept qu F o v75 := by
            unfold v75
            refine State.kept_chart (bit_of hF rfl) ?_
            with_reducible assumption
          clear_value v75
          refine runs_next ?_
          refine State.chartLightDone_kept (sub_of hF rfl) ?_
          refine State.lightChart_kept (sub_of hF rfl) ?_
          with_reducible assumption
        · refine runs_next ?_
          with_reducible assumption
      · refine runs_next ?_
        with_reducible assumption
    · refine runs_ite (fun _ => ?_) (fun _ => ?_)
      · refine runs_next ?_
        with_reducible assumption
      · split
        · refine runs_next ?_
          refine State.lightChart_kept (sub_of hF rfl) ?_
          with_reducible assumption
        · refine runs_next ?_
          with_reducible assumption

theorem State.loadNvm_kept {qu : List Instr} {F : Nat} {o : State} {s : State} {n : Nat} (hF : 0x1000200024029 ||| F = F) (hk : State.Kept qu F o s) : State.Kept qu F o (State.loadNvm s n) := by
  unfold State.loadNvm
  refine State.kept_ite (fun _ => ?_) (fun _ => ?_)
  · refine State.checkSlot_kept (sub_of hF rfl) ?_
    refine State.onSlot_kept (sub_of hF rfl) ?_
    with_reducible assumption
  · with_reducible assumption

theorem State.bootSlots_kept {qu : List Instr} {F : Nat} {o : State} {ns : List Nat} {s : State} (hF : 0x3dd46000265fd ||| F = F) (hk : State.Kept qu F o s) : State.Kept qu F o (State.bootSlots s ns) := by
  induction ns generalizing s with
  | nil =>
    rw [State.bootSlots]
    with_reducible assumption
  | cons n ns ih =>
    rw [State.bootSlots]
    split
    · refine State.kept_ite (fun _ => ?_) (fun _ => ?_)
      · apply ih
        refine State.chartRefused_kept (sub_of hF rfl) ?_
        refine State.loadNvm_kept (sub_of hF rfl) ?_
        with_reducible assumption
      · refine State.lightChart_kept (sub_of hF rfl) ?_
        refine State.loadNvm_kept (sub_of hF rfl) ?_
        with_reducible assumption
    · apply ih
      refine State.loadNvm_kept (sub_of hF rfl) ?_
      with_reducible assumption

theorem execBootChartLight_kept {qu : List Instr} {F : Nat} {o : State} {s : State} (hF : 0x3dd46000265fd ||| F = F) (hk : State.Kept qu F o s) : Runs qu F o (execBootChartLight s) := by
  unfold execBootChartLight
  refine runs_ite (fun _ => ?_) (fun _ => ?_)
  · refine runs_next ?_
    with_reducible assumption
  · extract_lets +onlyGivenNames v79
    clear_value v79
    refine runs_next ?_
    refine State.bootSlots_kept (sub_of hF rfl) ?_
    with_reducible assumption

end Sys2Proof.Machine
end

