-- ==== Sys2Proof/Laws/KeptLog.lean ====
section
/-! SUPPORT. Laws/KeptLog.lean: each operation of Machine/Log.lean keeps the queue and the invariant. -/
namespace Sys2Proof.Machine

theorem execLogEvent_kept {qu : List Instr} {F : Nat} {o : State} {e : LogEvt} {s : State} (hF : 0x1000000024009 ||| F = F) (hk : State.Kept qu F o s) : Runs qu F o (execLogEvent e s) := by
  unfold execLogEvent
  refine runs_next ?_
  refine State.logEvt_kept (sub_of hF rfl) ?_
  with_reducible assumption

theorem execPilotLogSubmit_kept {qu : List Instr} {F : Nat} {o : State} {core : BitVec 8} {code : BitVec 10} {slice : Byte} {body : List Word} {s : State} (hF : 0x1000000024009 ||| F = F) (hk : State.Kept qu F o s) : Runs qu F o (execPilotLogSubmit core code slice body s) := by
  unfold execPilotLogSubmit
  refine runs_ite (fun _ => ?_) (fun _ => ?_)
  · refine runs_next ?_
    with_reducible assumption
  · refine runs_ite (fun _ => ?_) (fun _ => ?_)
    · refine runs_next ?_
      refine State.logEvt_kept (sub_of hF rfl) ?_
      with_reducible assumption
    · refine runs_next ?_
      refine State.count_kept (bit_of hF rfl) ?_
      refine State.count_kept (bit_of hF rfl) ?_
      with_reducible assumption

theorem State.ringPut_kept {qu : List Instr} {F : Nat} {o : State} {s : State} {r : LogRec} (hF : 0x1000000020000 ||| F = F) (hk : State.Kept qu F o s) : State.Kept qu F o (State.ringPut s r) := by
  unfold State.ringPut
  extract_lets +onlyGivenNames v80
  clear_value v80
  extract_lets +onlyGivenNames v79
  clear_value v79
  extract_lets +onlyGivenNames v78
  clear_value v78
  extract_lets +onlyGivenNames v77
  clear_value v77
  extract_lets +onlyGivenNames v76
  have hv76 : State.Kept qu F o v76 := by
    unfold v76
    refine State.kept_log (bit_of hF rfl) ?_
    with_reducible assumption
  clear_value v76
  refine State.setPair_kept (bit_of hF rfl) (bit_of hF rfl) ?_
  with_reducible assumption

theorem State.ringMove_kept {qu : List Instr} {F : Nat} {o : State} {s : State} {r : LogRec} (hF : 0x1000000020009 ||| F = F) (hk : State.Kept qu F o s) : State.Kept qu F o (State.ringMove s r) := by
  unfold State.ringMove
  extract_lets +onlyGivenNames v80
  clear_value v80
  refine State.kept_ite (fun _ => ?_) (fun _ => ?_)
  · refine State.ringPut_kept (sub_of hF rfl) ?_
    with_reducible assumption
  · extract_lets +onlyGivenNames v78
    have hv78 : State.Kept qu F o v78 := by
      unfold v78
      refine State.countReg_kept (bit_of hF rfl) ?_
      with_reducible assumption
    clear_value v78
    extract_lets +onlyGivenNames v77
    clear_value v77
    extract_lets +onlyGivenNames v76
    clear_value v76
    extract_lets +onlyGivenNames v75
    clear_value v75
    extract_lets +onlyGivenNames v74
    clear_value v74
    extract_lets +onlyGivenNames v73
    clear_value v73
    extract_lets +onlyGivenNames v72
    have hv72 : State.Kept qu F o v72 := by
      unfold v72
      refine State.kept_log (bit_of hF rfl) ?_
      with_reducible assumption
    clear_value v72
    extract_lets +onlyGivenNames v71
    have hv71 : State.Kept qu F o v71 := by
      unfold v71
      refine State.kept_ite (fun _ => ?_) (fun _ => ?_)
      · with_reducible assumption
      · refine State.ringPut_kept (sub_of hF rfl) ?_
        with_reducible assumption
    clear_value v71
    extract_lets +onlyGivenNames v70
    have hv70 : State.Kept qu F o v70 := by
      unfold v70
      refine State.ringPut_kept (sub_of hF rfl) ?_
      refine State.ringPut_kept (sub_of hF rfl) ?_
      with_reducible assumption
    clear_value v70
    refine State.raise_kept (sub_of hF rfl) (bit_of hF rfl) ?_
    with_reducible assumption

theorem State.moveOne_kept {qu : List Instr} {F : Nat} {o : State} {s : State} (hF : 0x1000000020009 ||| F = F) (hk : State.Kept qu F o s) : State.Kept qu F o (State.moveOne s) := by
  unfold State.moveOne
  split
  · with_reducible assumption
  · extract_lets +onlyGivenNames v79
    clear_value v79
    extract_lets +onlyGivenNames v78
    have hv78 : State.Kept qu F o v78 := by
      unfold v78
      refine State.kept_log (bit_of hF rfl) ?_
      with_reducible assumption
    clear_value v78
    refine State.showStage_kept (sub_of hF rfl) ?_
    refine State.ringMove_kept (sub_of hF rfl) ?_
    with_reducible assumption

theorem State.drainStaging_kept {qu : List Instr} {F : Nat} {o : State} {s : State} (hF : 0x1000000024009 ||| F = F) (hk : State.Kept qu F o s) : State.Kept qu F o (State.drainStaging s) := by
  unfold State.drainStaging
  extract_lets +onlyGivenNames v80
  have hv80 : State.Kept qu F o v80 := by
    unfold v80
    refine State.takeGathered_kept (sub_of hF rfl) ?_
    with_reducible assumption
  clear_value v80
  refine State.kept_foldl_range ?_ ?_
  · with_reducible assumption
  · intro s78 x77 x76 h75
    refine State.moveOne_kept (sub_of hF rfl) ?_
    with_reducible assumption

theorem State.showCopies_kept {qu : List Instr} {F : Nat} {o : State} {s : State} (hF : 0x1000000000000 ||| F = F) (hk : State.Kept qu F o s) : State.Kept qu F o (State.showCopies s) := by
  unfold State.showCopies
  extract_lets +onlyGivenNames v80
  have hv80 : State.Kept qu F o v80 := by
    unfold v80
    refine State.setF_kept (bit_of hF rfl) ?_
    with_reducible assumption
  clear_value v80
  refine State.setF_kept (bit_of hF rfl) ?_
  with_reducible assumption

theorem State.startCopy_kept {qu : List Instr} {F : Nat} {o : State} {s : State} {why : CopyFor} (hF : 0x1000000024009 ||| F = F) (hk : State.Kept qu F o s) : State.Kept qu F o (State.startCopy s why) := by
  unfold State.startCopy
  extract_lets +onlyGivenNames v80
  have hv80 : State.Kept qu F o v80 := by
    unfold v80
    refine State.drainStaging_kept (sub_of hF rfl) ?_
    with_reducible assumption
  clear_value v80
  extract_lets +onlyGivenNames v79
  clear_value v79
  extract_lets +onlyGivenNames v78
  clear_value v78
  extract_lets +onlyGivenNames v77
  have hv77 : State.Kept qu F o v77 := by
    unfold v77
    refine State.kept_log (bit_of hF rfl) ?_
    with_reducible assumption
  clear_value v77
  extract_lets +onlyGivenNames v76
  clear_value v76
  extract_lets +onlyGivenNames v75
  clear_value v75
  extract_lets +onlyGivenNames v74
  clear_value v74
  extract_lets +onlyGivenNames v73
  have hv73 : State.Kept qu F o v73 := by
    unfold v73
    refine State.kept_ite (fun _ => ?_) (fun _ => ?_)
    · refine State.kept_log (bit_of hF rfl) ?_
      with_reducible assumption
    · refine State.kept_log (bit_of hF rfl) ?_
      with_reducible assumption
  clear_value v73
  refine State.showCopies_kept (sub_of hF rfl) ?_
  with_reducible assumption

theorem State.endCopy_kept {qu : List Instr} {F : Nat} {o : State} {s : State} (hF : 0x1000000020009 ||| F = F) (hk : State.Kept qu F o s) : State.Kept qu F o (State.endCopy s) := by
  unfold State.endCopy
  split
  · with_reducible assumption
  · extract_lets +onlyGivenNames v79
    clear_value v79
    extract_lets +onlyGivenNames v78
    clear_value v78
    extract_lets +onlyGivenNames v77
    have hv77 : State.Kept qu F o v77 := by
      unfold v77
      refine State.kept_log (bit_of hF rfl) ?_
      with_reducible assumption
    clear_value v77
    extract_lets +onlyGivenNames v76
    have hv76 : State.Kept qu F o v76 := by
      unfold v76
      refine State.count_kept (bit_of hF rfl) ?_
      refine State.setF_kept (bit_of hF rfl) ?_
      refine State.showCopies_kept (sub_of hF rfl) ?_
      with_reducible assumption
    clear_value v76
    extract_lets +onlyGivenNames v75
    have hv75 : State.Kept qu F o v75 := by
      unfold v75
      split
      · refine State.setPair_kept (bit_of hF rfl) (bit_of hF rfl) ?_
        with_reducible assumption
      · with_reducible assumption
    clear_value v75
    refine State.raise_kept (sub_of hF rfl) (bit_of hF rfl) ?_
    with_reducible assumption

theorem execBar4Read_kept {qu : List Instr} {F : Nat} {o : State} {off bytes : Nat} {fails : Bool} {s : State} (hF : 0x1800100000009 ||| F = F) (hk : State.Kept qu F o s) : Runs qu F o (execBar4Read off bytes fails s) := by
  unfold execBar4Read
  refine runs_next ?_
  refine State.kept_ite (fun _ => ?_) (fun _ => ?_)
  · with_reducible assumption
  · refine State.kept_ite (fun _ => ?_) (fun _ => ?_)
    · refine State.send_kept (sub_of hF rfl) ?_
      refine State.recordErr_kept (sub_of hF rfl) (bit_of hF rfl) ?_
      with_reducible assumption
    · extract_lets +onlyGivenNames v77
      clear_value v77
      extract_lets +onlyGivenNames v76
      clear_value v76
      extract_lets +onlyGivenNames v75
      have hv75 : State.Kept qu F o v75 := by
        unfold v75
        refine State.send_kept (sub_of hF rfl) ?_
        with_reducible assumption
      clear_value v75
      refine State.kept_ite (fun _ => ?_) (fun _ => ?_)
      · refine State.raise_kept (sub_of hF rfl) (bit_of hF rfl) ?_
        refine State.raise_kept (sub_of hF rfl) (bit_of hF rfl) ?_
        refine State.count_kept (bit_of hF rfl) ?_
        with_reducible assumption
      · with_reducible assumption

theorem execBar4Write_kept {qu : List Instr} {F : Nat} {o : State} {off : Nat} {value : BitVec 64} {s : State} (hF : 0x100000009 ||| F = F) (hk : State.Kept qu F o s) : Runs qu F o (execBar4Write off value s) := by
  unfold execBar4Write
  split
  refine runs_next ?_
  refine State.kept_ite (fun _ => ?_) (fun _ => ?_)
  · refine State.recordErr_kept (sub_of hF rfl) (bit_of hF rfl) ?_
    with_reducible assumption
  · with_reducible assumption

end Sys2Proof.Machine
end

