-- ==== Sys2Proof/Laws/KeptSec.lean ====
section
/-! SUPPORT. Laws/KeptSec.lean: each operation of Machine/Sec.lean keeps the queue and the invariant. -/
namespace Sys2Proof.Machine

theorem State.releasePilots_kept {qu : List Instr} {F : Nat} {o : State} {s : State} (hF : 0x10 ||| F = F) (hk : State.Kept qu F o s) : State.Kept qu F o (State.releasePilots s) := by
  unfold State.releasePilots
  extract_lets +onlyGivenNames v80
  clear_value v80
  refine State.kept_work (bit_of hF rfl) ?_
  with_reducible assumption

theorem State.wardenStart_kept {qu : List Instr} {F : Nat} {o : State} {s : State} {m : WardenImage} (hF : 0x404000010019 ||| F = F) (hk : State.Kept qu F o s) : State.Kept qu F o (State.wardenStart s m) := by
  unfold State.wardenStart
  extract_lets +onlyGivenNames v80
  have hv80 : State.Kept qu F o v80 := by
    unfold v80
    refine State.setReg_kept (bit_of hF rfl) ?_
    refine State.setReg_kept (bit_of hF rfl) ?_
    refine State.setReg_kept (bit_of hF rfl) ?_
    with_reducible assumption
  clear_value v80
  extract_lets +onlyGivenNames v79
  have hv79 : State.Kept qu F o v79 := by
    unfold v79
    refine State.setF_kept (bit_of hF rfl) ?_
    refine State.setF_kept (bit_of hF rfl) ?_
    with_reducible assumption
  clear_value v79
  refine State.kept_ite (fun _ => ?_) (fun _ => ?_)
  · extract_lets +onlyGivenNames v77
    have hv77 : State.Kept qu F o v77 := by
      unfold v77
      refine State.setDigest_kept (bit_of hF rfl) rfl ?_
      with_reducible assumption
    clear_value v77
    extract_lets +onlyGivenNames v76
    have hv76 : State.Kept qu F o v76 := by
      unfold v76
      refine State.setDigest_kept (bit_of hF rfl) rfl ?_
      with_reducible assumption
    clear_value v76
    extract_lets +onlyGivenNames v75
    clear_value v75
    extract_lets +onlyGivenNames v74
    have hv74 : State.Kept qu F o v74 := by
      unfold v74
      refine State.onWdn_kept (sub_of hF rfl) ?_
      with_reducible assumption
    clear_value v74
    refine State.releasePilots_kept (sub_of hF rfl) ?_
    refine State.setUnfit_kept (sub_of hF rfl) ?_
    refine State.setF_kept (bit_of hF rfl) ?_
    with_reducible assumption
  · extract_lets +onlyGivenNames v77
    clear_value v77
    extract_lets +onlyGivenNames v76
    have hv76 : State.Kept qu F o v76 := by
      unfold v76
      refine State.kept_work (bit_of hF rfl) ?_
      with_reducible assumption
    clear_value v76
    refine State.setUnfit_kept (sub_of hF rfl) ?_
    refine State.setF_kept (bit_of hF rfl) ?_
    refine State.onWdn_kept (sub_of hF rfl) ?_
    with_reducible assumption

theorem execWardenStart_kept {qu : List Instr} {F : Nat} {o : State} {m : WardenImage} {s : State} (hF : 0x404000010019 ||| F = F) (hk : State.Kept qu F o s) : Runs qu F o (execWardenStart m s) := by
  unfold execWardenStart
  refine runs_next ?_
  refine State.wardenStart_kept (sub_of hF rfl) ?_
  with_reducible assumption

theorem execPilotFirmwareReplace_kept {qu : List Instr} {F : Nat} {o : State} {image : List Byte} {s : State} (hF : 0x4000010010 ||| F = F) (hk : State.Kept qu F o s) : Runs qu F o (execPilotFirmwareReplace image s) := by
  unfold execPilotFirmwareReplace
  extract_lets +onlyGivenNames v80
  clear_value v80
  extract_lets +onlyGivenNames v79
  have hv79 : State.Kept qu F o v79 := by
    unfold v79
    refine State.kept_work (bit_of hF rfl) ?_
    with_reducible assumption
  clear_value v79
  refine runs_next ?_
  refine State.kept_ite (fun _ => ?_) (fun _ => ?_)
  · refine State.releasePilots_kept (sub_of hF rfl) ?_
    refine State.onWdn_kept (sub_of hF rfl) ?_
    refine State.setDigest_kept (bit_of hF rfl) rfl ?_
    with_reducible assumption
  · with_reducible assumption

theorem execPilotCoreStop_kept {qu : List Instr} {F : Nat} {o : State} {core : BitVec 8} {s : State} (hF : 0x10 ||| F = F) (hk : State.Kept qu F o s) : Runs qu F o (execPilotCoreStop core s) := by
  unfold execPilotCoreStop
  refine runs_next ?_
  refine State.kept_work (bit_of hF rfl) ?_
  with_reducible assumption

theorem State.enrolAct_kept {qu : List Instr} {F : Nat} {o : State} {s : State} (hF : 0x100014009 ||| F = F) (hk : State.Kept qu F o s) : State.Kept qu F o (State.enrolAct s) := by
  unfold State.enrolAct
  refine State.kept_ite (fun _ => ?_) (fun _ => ?_)
  · with_reducible assumption
  · extract_lets +onlyGivenNames v79
    clear_value v79
    extract_lets +onlyGivenNames v78
    clear_value v78
    extract_lets +onlyGivenNames v77
    have hv77 : State.Kept qu F o v77 := by
      unfold v77
      refine State.onWdn_kept (sub_of hF rfl) ?_
      with_reducible assumption
    clear_value v77
    refine State.kept_ite (fun _ => ?_) (fun _ => ?_)
    · refine State.enrolJudged_kept (sub_of hF rfl) ?_
      with_reducible assumption
    · refine State.kept_ite (fun _ => ?_) (fun _ => ?_)
      · refine State.enrolJudged_kept (sub_of hF rfl) ?_
        refine State.dmaErr_kept (sub_of hF rfl) ?_
        with_reducible assumption
      · refine State.startDma_kept (sub_of hF rfl) ?_ ?_
        · with_reducible assumption
        · intro s73 h72
          unfold id
          with_reducible assumption

theorem execEnrolVerifyDone_kept {qu : List Instr} {F : Nat} {o : State} {s : State} (hF : 0x10000 ||| F = F) (hk : State.Kept qu F o s) : Runs qu F o (execEnrolVerifyDone s) := by
  unfold execEnrolVerifyDone
  split
  · split
    · refine runs_next ?_
      refine State.enrolJudged_kept (sub_of hF rfl) ?_
      with_reducible assumption
    · refine runs_next ?_
      with_reducible assumption
  · refine runs_next ?_
    with_reducible assumption

theorem State.showEnrol_kept {qu : List Instr} {F : Nat} {o : State} {s : State} (hF : 0xffffffff00014029 ||| F = F) (hk : State.Kept qu F o s) : State.Kept qu F o (State.showEnrol s) := by
  unfold State.showEnrol
  split
  · split
    · refine State.renew_kept (sub_of hF rfl) ?_ ?_
      · refine State.enrolResult_kept (sub_of hF rfl) ?_
        with_reducible assumption
      · intro s77 h76
        refine State.enrolAct_kept (sub_of hF rfl) ?_
        with_reducible assumption
    · with_reducible assumption
  · with_reducible assumption

theorem State.rotateAct_kept {qu : List Instr} {F : Nat} {o : State} {s : State} (hF : 0x4000010000 ||| F = F) (hk : State.Kept qu F o s) : State.Kept qu F o (State.rotateAct s) := by
  unfold State.rotateAct
  extract_lets +onlyGivenNames v80
  clear_value v80
  refine State.kept_ite (fun _ => ?_) (fun _ => ?_)
  · refine State.setF_kept (bit_of hF rfl) ?_
    refine State.rotate_kept (sub_of hF rfl) ?_
    with_reducible assumption
  · with_reducible assumption

theorem State.secRefused_kept {qu : List Instr} {F : Nat} {o : State} {s : State} {w reason : Nat} (hF : 0x4000004009 ||| F = F) (hk : State.Kept qu F o s) : State.Kept qu F o (State.secRefused s w reason) := by
  unfold State.secRefused
  refine State.complete_kept (sub_of hF rfl) ?_
  refine State.kept_ite (fun _ => ?_) (fun _ => ?_)
  · refine State.raise_kept (sub_of hF rfl) (bit_of hF rfl) ?_
    with_reducible assumption
  · with_reducible assumption

theorem cmdAttest_kept {qu : List Instr} {F : Nat} {o : State} {w : Nat} {s : State} (hF : 0x4000014009 ||| F = F) (hk : State.Kept qu F o s) : State.Kept qu F o (cmdAttest w s) := by
  unfold cmdAttest
  extract_lets +onlyGivenNames v80
  clear_value v80
  extract_lets +onlyGivenNames v79
  clear_value v79
  extract_lets +onlyGivenNames v78
  clear_value v78
  refine State.kept_ite (fun _ => ?_) (fun _ => ?_)
  · refine State.refuse_kept (sub_of hF rfl) ?_
    with_reducible assumption
  · refine State.kept_ite (fun _ => ?_) (fun _ => ?_)
    · refine State.secRefused_kept (sub_of hF rfl) ?_
      with_reducible assumption
    · refine State.kept_ite (fun _ => ?_) (fun _ => ?_)
      · refine State.secRefused_kept (sub_of hF rfl) ?_
        with_reducible assumption
      · refine State.kept_ite (fun _ => ?_) (fun _ => ?_)
        · refine State.secRefused_kept (sub_of hF rfl) ?_
          with_reducible assumption
        · refine State.kept_ite (fun _ => ?_) (fun _ => ?_)
          · refine State.secRefused_kept (sub_of hF rfl) ?_
            with_reducible assumption
          · refine State.kept_ite (fun _ => ?_) (fun _ => ?_)
            · refine State.secRefused_kept (sub_of hF rfl) ?_
              with_reducible assumption
            · refine State.startSign_kept (sub_of hF rfl) ?_
              refine State.pushSign_kept (sub_of hF rfl) ?_
              with_reducible assumption

theorem execAttest_kept {qu : List Instr} {F : Nat} {o : State} {c : HostCmd} {s : State} (hF : 0x4100014009 ||| F = F) (hk : State.Kept qu F o s) : Runs qu F o (execAttest c s) := by
  unfold execAttest
  refine runs_next ?_
  refine State.issue_kept (sub_of hF rfl) ?_ ?_
  · with_reducible assumption
  · intro x78 s77 h76
    refine cmdAttest_kept (sub_of hF rfl) ?_
    with_reducible assumption

theorem cmdIssueSeal_kept {qu : List Instr} {F : Nat} {o : State} {w : Nat} {s : State} (hF : 0x4100014009 ||| F = F) (hk : State.Kept qu F o s) : State.Kept qu F o (cmdIssueSeal w s) := by
  unfold cmdIssueSeal
  extract_lets +onlyGivenNames v80
  clear_value v80
  extract_lets +onlyGivenNames v79
  clear_value v79
  extract_lets +onlyGivenNames v78
  clear_value v78
  extract_lets +onlyGivenNames v77
  refine State.kept_ite (fun _ => ?_) (fun _ => ?_)
  · refine State.refuse_kept (sub_of hF rfl) ?_
    with_reducible assumption
  · refine State.kept_ite (fun _ => ?_) (fun _ => ?_)
    · refine State.refuse_kept (sub_of hF rfl) ?_
      with_reducible assumption
    · refine State.kept_ite (fun _ => ?_) (fun _ => ?_)
      · refine State.secRefused_kept (sub_of hF rfl) ?_
        with_reducible assumption
      · refine State.kept_ite (fun _ => ?_) (fun _ => ?_)
        · refine State.secRefused_kept (sub_of hF rfl) ?_
          with_reducible assumption
        · refine State.kept_ite (fun _ => ?_) (fun _ => ?_)
          · refine State.secRefused_kept (sub_of hF rfl) ?_
            with_reducible assumption
          · refine State.kept_ite (fun _ => ?_) (fun _ => ?_)
            · refine State.secRefused_kept (sub_of hF rfl) ?_
              with_reducible assumption
            · refine State.kept_ite (fun _ => ?_) (fun _ => ?_)
              · refine State.secRefused_kept (sub_of hF rfl) ?_
                with_reducible assumption
              · refine State.kept_ite (fun _ => ?_) (fun _ => ?_)
                · refine State.secRefused_kept (sub_of hF rfl) ?_
                  with_reducible assumption
                · split
                  · unfold v77
                    refine State.onWdn_kept (sub_of hF rfl) ?_
                    with_reducible assumption
                  · refine State.kept_ite (fun _ => ?_) (fun _ => ?_)
                    · refine State.kept_ite (fun _ => ?_) (fun _ => ?_)
                      · refine State.secRefused_kept (sub_of hF rfl) ?_
                        with_reducible assumption
                      · refine State.askSeal_kept (sub_of hF rfl) ?_
                        unfold v77
                        refine State.onWdn_kept (sub_of hF rfl) ?_
                        with_reducible assumption
                    · split
                      · refine State.answerSeal_kept (sub_of hF rfl) ?_
                        with_reducible assumption
                      · with_reducible assumption

theorem execIssueSeal_kept {qu : List Instr} {F : Nat} {o : State} {c : HostCmd} {s : State} (hF : 0x4100014009 ||| F = F) (hk : State.Kept qu F o s) : Runs qu F o (execIssueSeal c s) := by
  unfold execIssueSeal
  refine runs_next ?_
  refine State.issue_kept (sub_of hF rfl) ?_ ?_
  · with_reducible assumption
  · intro x78 s77 h76
    refine cmdIssueSeal_kept (sub_of hF rfl) ?_
    with_reducible assumption

theorem State.finishReport_kept {qu : List Instr} {F : Nat} {o : State} {s : State} {w : Nat} {j : SignJob} (hF : 0x4100004009 ||| F = F) (hk : State.Kept qu F o s) : State.Kept qu F o (State.finishReport s w j) := by
  unfold State.finishReport
  extract_lets +onlyGivenNames v80
  clear_value v80
  extract_lets +onlyGivenNames v79
  have hv79 : State.Kept qu F o v79 := by
    unfold v79
    refine State.progress_kept (sub_of hF rfl) ?_
    refine State.countReg_kept (bit_of hF rfl) ?_
    with_reducible assumption
  clear_value v79
  refine State.kept_ite (fun _ => ?_) (fun _ => ?_)
  · refine State.secRefused_kept (sub_of hF rfl) ?_
    with_reducible assumption
  · refine State.kept_ite (fun _ => ?_) (fun _ => ?_)
    · refine State.refuse_kept (sub_of hF rfl) ?_
      refine State.dmaErr_kept (sub_of hF rfl) ?_
      with_reducible assumption
    · refine State.complete_kept (sub_of hF rfl) ?_
      refine State.dmaWrite_kept (sub_of hF rfl) ?_
      with_reducible assumption

theorem State.finishConfirm_kept {qu : List Instr} {F : Nat} {o : State} {s : State} {port : Nat} (hF : 0x4001 ||| F = F) (hk : State.Kept qu F o s) : State.Kept qu F o (State.finishConfirm s port) := by
  unfold State.finishConfirm
  extract_lets +onlyGivenNames v80
  clear_value v80
  split
  · refine State.kept_ite (fun _ => ?_) (fun _ => ?_)
    · refine State.progress_kept (sub_of hF rfl) ?_
      refine State.send_kept (sub_of hF rfl) ?_
      with_reducible assumption
    · with_reducible assumption
  · with_reducible assumption

theorem execSignatureDone_kept {qu : List Instr} {F : Nat} {o : State} {s : State} (hF : 0x4100014009 ||| F = F) (hk : State.Kept qu F o s) : Runs qu F o (execSignatureDone s) := by
  unfold execSignatureDone
  split
  · refine runs_next ?_
    with_reducible assumption
  · extract_lets +onlyGivenNames v79
    have hv79 : State.Kept qu F o v79 := by
      unfold v79
      refine State.onWdn_kept (sub_of hF rfl) ?_
      with_reducible assumption
    clear_value v79
    extract_lets +onlyGivenNames v78
    have hv78 : State.Kept qu F o v78 := by
      unfold v78
      split
      · refine State.finishConfirm_kept (sub_of hF rfl) ?_
        with_reducible assumption
      · refine State.finishReport_kept (sub_of hF rfl) ?_
        with_reducible assumption
      · refine State.onWdn_kept (sub_of hF rfl) ?_
        with_reducible assumption
    clear_value v78
    refine runs_next ?_
    refine State.startSign_kept (sub_of hF rfl) ?_
    with_reducible assumption

theorem execSealPublish_kept {qu : List Instr} {F : Nat} {o : State} {s : State} (hF : 0x1004100034049 ||| F = F) (hk : State.Kept qu F o s) : Runs qu F o (execSealPublish s) := by
  unfold execSealPublish
  extract_lets +onlyGivenNames v80
  clear_value v80
  extract_lets +onlyGivenNames v79
  clear_value v79
  extract_lets +onlyGivenNames v78
  have hv78 : State.Kept qu F o v78 := by
    unfold v78
    refine State.onWdn_kept (sub_of hF rfl) ?_
    with_reducible assumption
  clear_value v78
  refine runs_next ?_
  refine State.kept_ite (fun _ => ?_) (fun _ => ?_)
  · refine State.kept_foldl ?_ ?_
    · with_reducible assumption
    · intro s74 x73 h72
      refine State.publishSeal_kept (sub_of hF rfl) ?_
      with_reducible assumption
  · with_reducible assumption

theorem execSealRenewal_kept {qu : List Instr} {F : Nat} {o : State} {s : State} (hF : 0x4000010000 ||| F = F) (hk : State.Kept qu F o s) : Runs qu F o (execSealRenewal s) := by
  unfold execSealRenewal
  extract_lets +onlyGivenNames v80
  clear_value v80
  refine runs_next ?_
  refine State.kept_ite (fun _ => ?_) (fun _ => ?_)
  · refine State.kept_foldl ?_ ?_
    · with_reducible assumption
    · intro s76 x75 h74
      refine State.askSeal_kept (sub_of hF rfl) ?_
      refine State.onSeal_kept (sub_of hF rfl) ?_
      with_reducible assumption
  · with_reducible assumption

theorem execSealLow_kept {qu : List Instr} {F : Nat} {o : State} {s : State} (hF : 0x4000010009 ||| F = F) (hk : State.Kept qu F o s) : Runs qu F o (execSealLow s) := by
  unfold execSealLow
  extract_lets +onlyGivenNames v80
  clear_value v80
  refine runs_next ?_
  refine State.kept_foldl ?_ ?_
  · with_reducible assumption
  · intro s77 x76 h75
    extract_lets +onlyGivenNames v74
    have hv74 : State.Kept qu F o v74 := by
      unfold v74
      refine State.raise_kept (sub_of hF rfl) (bit_of hF rfl) ?_
      refine State.onSeal_kept (sub_of hF rfl) ?_
      with_reducible assumption
    clear_value v74
    refine State.onWdn_kept (sub_of hF rfl) ?_
    with_reducible assumption

theorem execSealDirectWrite_kept {qu : List Instr} {F : Nat} {o : State} {s : State} (hF : 0x10040000340c9 ||| F = F) (hk : State.Kept qu F o s) : Runs qu F o (execSealDirectWrite s) := by
  unfold execSealDirectWrite
  extract_lets +onlyGivenNames v80
  clear_value v80
  refine runs_next ?_
  refine State.kept_ite (fun _ => ?_) (fun _ => ?_)
  · with_reducible assumption
  · refine State.kept_foldl ?_ ?_
    · with_reducible assumption
    · intro s76 x75 h74
      extract_lets +onlyGivenNames v73
      have hv73 : State.Kept qu F o v73 := by
        unfold v73
        refine State.kept_foldl ?_ ?_
        · with_reducible assumption
        · intro s71 x70 h69
          extract_lets +onlyGivenNames v68
          have hv68 : State.Kept qu F o v68 := by
            unfold v68
            refine State.raise_kept (sub_of hF rfl) (bit_of hF rfl) ?_
            refine State.logOwn_kept (sub_of hF rfl) ?_
            with_reducible assumption
          clear_value v68
          extract_lets +onlyGivenNames v67
          have hv67 : State.Kept qu F o v67 := by
            unfold v67
            refine State.kept_foldl ?_ ?_
            · with_reducible assumption
            · intro s65 x64 h63
              refine State.mgmtWrite_kept (sub_of hF rfl) ?_
              with_reducible assumption
          clear_value v67
          refine State.mgmtWrite_kept (sub_of hF rfl) ?_
          with_reducible assumption
      clear_value v73
      refine State.onSeal_kept (sub_of hF rfl) ?_
      with_reducible assumption

end Sys2Proof.Machine
end

