-- ==== Sys2Proof/Laws/KeptResetOps.lean ====
section
/-! SUPPORT. Laws/KeptResetOps.lean: each operation of Machine/ResetOps.lean keeps the queue and the invariant. -/
namespace Sys2Proof.Machine

theorem State.onRst_kept {qu : List Instr} {F : Nat} {o : State} {s : State} {f : RstState → RstState} (hF : 0x4000 ||| F = F) (hk : State.Kept qu F o s) : State.Kept qu F o (State.onRst s f) := by
  unfold State.onRst
  refine State.kept_rst (bit_of hF rfl) ?_
  with_reducible assumption

theorem State.recordReset_kept {qu : List Instr} {F : Nat} {o : State} {s : State} {level engine slice cause : Nat} (hF : 0x1800000024009 ||| F = F) (hk : State.Kept qu F o s) : State.Kept qu F o (State.recordReset s level engine slice cause) := by
  unfold State.recordReset
  extract_lets +onlyGivenNames v80
  clear_value v80
  refine State.logOwn_kept (sub_of hF rfl) ?_
  refine State.setPair_kept (bit_of hF rfl) (bit_of hF rfl) ?_
  refine State.setReg_kept (bit_of hF rfl) ?_
  with_reducible assumption

theorem State.logHang_kept {qu : List Instr} {F : Nat} {o : State} {s : State} {engine slice kind ctx : Nat} {agent : Addr} (hF : 0x1800000024009 ||| F = F) (hk : State.Kept qu F o s) : State.Kept qu F o (State.logHang s engine slice kind ctx agent) := by
  unfold State.logHang
  refine State.raise_kept (sub_of hF rfl) (bit_of hF rfl) ?_
  refine State.logOwn_kept (sub_of hF rfl) ?_
  with_reducible assumption

theorem State.sampleRecords_kept {qu : List Instr} {F : Nat} {o : State} {s : State} {engine level cause slice : Nat} {item : Word} (hF : 0x2 ||| F = F) (hk : State.Kept qu F o s) : State.Kept qu F o (State.sampleRecords s engine level cause slice item).2 := by
  unfold State.sampleRecords
  extract_lets +onlyGivenNames v80
  clear_value v80
  extract_lets +onlyGivenNames v79
  clear_value v79
  extract_lets +onlyGivenNames v78
  clear_value v78
  extract_lets +onlyGivenNames v77
  clear_value v77
  extract_lets +onlyGivenNames v76
  clear_value v76
  extract_lets +onlyGivenNames v75
  clear_value v75
  extract_lets +onlyGivenNames v74
  clear_value v74
  dsimp only
  refine State.kept_freeCtr (bit_of hF rfl) ?_
  with_reducible assumption

theorem State.stageSamples_kept {qu : List Instr} {F : Nat} {o : State}  {n : Nat} {s : State} (hF : 0x1800000024009 ||| F = F) (hk : State.Kept qu F o s) : State.Kept qu F o (State.stageSamples  n s) := by
  induction n generalizing s with
  | zero =>
    rw [State.stageSamples]
    with_reducible assumption
  | succ n ih =>
    rw [State.stageSamples]
    split
    · with_reducible assumption
    · extract_lets +onlyGivenNames v79
      clear_value v79
      refine State.kept_ite (fun _ => ?_) (fun _ => ?_)
      · extract_lets +onlyGivenNames v77
        have hv77 : State.Kept qu F o v77 := by
          unfold v77
          refine State.onRst_kept (sub_of hF rfl) ?_
          with_reducible assumption
        clear_value v77
        extract_lets +onlyGivenNames v76
        have hv76 : State.Kept qu F o v76 := by
          unfold v76
          refine State.kept_foldl ?_ ?_
          · with_reducible assumption
          · intro s74 x73 h72
            refine State.logEvt_kept (sub_of hF rfl) ?_
            with_reducible assumption
        clear_value v76
        apply ih
        refine State.count_kept (bit_of hF rfl) ?_
        with_reducible assumption
      · with_reducible assumption

theorem State.sample_kept {qu : List Instr} {F : Nat} {o : State} {s : State} {engine level cause slice : Nat} {item : Word} (hF : 0x180000002400b ||| F = F) (hk : State.Kept qu F o s) : State.Kept qu F o (State.sample s engine level cause slice item) := by
  unfold State.sample
  refine State.kept_ite (fun _ => ?_) (fun _ => ?_)
  · extract_lets +onlyGivenNames v79
    have hv79 : State.Kept qu F o v79.2 := by
      unfold v79
      refine State.sampleRecords_kept (sub_of hF rfl) ?_
      with_reducible assumption
    clear_value v79
    extract_lets +onlyGivenNames v78
    have hv78 : State.Kept qu F o v78 := by
      unfold v78
      refine State.onRst_kept (sub_of hF rfl) ?_
      with_reducible assumption
    clear_value v78
    refine State.stageSamples_kept (sub_of hF rfl) ?_
    with_reducible assumption
  · with_reducible assumption

theorem State.showLevel_kept {qu : List Instr} {F : Nat} {o : State} {s : State} (hF : 0x800000000000 ||| F = F) (hk : State.Kept qu F o s) : State.Kept qu F o (State.showLevel s) := by
  unfold State.showLevel
  extract_lets +onlyGivenNames v80
  clear_value v80
  extract_lets +onlyGivenNames v79
  clear_value v79
  refine State.setF_kept (bit_of hF rfl) ?_
  with_reducible assumption

theorem State.dropContext_kept {qu : List Instr} {F : Nat} {o : State} {s : State} {kind ctx : Nat} (hF : 0x1c41 ||| F = F) (hk : State.Kept qu F o s) : State.Kept qu F o (State.dropContext s kind ctx) := by
  unfold State.dropContext
  refine State.kept_ite (fun _ => ?_) (fun _ => ?_)
  · split
    · extract_lets +onlyGivenNames v78
      have hv78 : State.Kept qu F o v78 := by
        unfold v78
        refine State.onPlan_kept (sub_of hF rfl) ?_
        with_reducible assumption
      clear_value v78
      extract_lets +onlyGivenNames v77
      clear_value v77
      extract_lets +onlyGivenNames v76
      have hv76 : State.Kept qu F o v76 := by
        unfold v76
        refine State.kept_lmp (bit_of hF rfl) ?_
        with_reducible assumption
      clear_value v76
      refine State.replayRoot_kept (sub_of hF rfl) ?_
      refine State.dropSent_kept (sub_of hF rfl) ?_
      with_reducible assumption
    · with_reducible assumption
  · refine State.kept_ite (fun _ => ?_) (fun _ => ?_)
    · refine State.kept_lnt (bit_of hF rfl) ?_
      with_reducible assumption
    · with_reducible assumption

theorem State.resetContext_kept {qu : List Instr} {F : Nat} {o : State} {s : State} {engine kind ctx slice cause : Nat} {wins : List (Nat × Nat)} (hF : 0x1800000025c4b ||| F = F) (hk : State.Kept qu F o s) : State.Kept qu F o (State.resetContext s engine kind ctx slice cause wins) := by
  unfold State.resetContext
  extract_lets +onlyGivenNames v80
  have hv80 : State.Kept qu F o v80 := by
    unfold v80
    refine State.sample_kept (sub_of hF rfl) ?_
    with_reducible assumption
  clear_value v80
  extract_lets +onlyGivenNames v79
  have hv79 : State.Kept qu F o v79 := by
    unfold v79
    refine State.count_kept (bit_of hF rfl) ?_
    refine State.recordReset_kept (sub_of hF rfl) ?_
    with_reducible assumption
  clear_value v79
  extract_lets +onlyGivenNames v78
  have hv78 : State.Kept qu F o v78 := by
    unfold v78
    refine State.onRst_kept (sub_of hF rfl) ?_
    with_reducible assumption
  clear_value v78
  refine State.showLevel_kept (sub_of hF rfl) ?_
  refine State.dropContext_kept (sub_of hF rfl) ?_
  refine State.onEngine_kept (sub_of hF rfl) ?_
  with_reducible assumption

theorem State.showHung_kept {qu : List Instr} {F : Nat} {o s : State} {id : Nat} {on : Bool} (hF : 0x800000000000 ||| F = F) (hk : State.Kept qu F o s) :
    State.Kept qu F o (State.showHung s id on) := by
  unfold State.showHung
  dsimp only
  by_cases h : id < 32
  · simp only [h, if_true]
    exact State.setReg_kept (bit_of hF rfl) hk
  · simp only [h, if_false]
    exact State.setReg_kept (bit_of hF rfl) hk

theorem State.resetOps_kept {qu : List Instr} {F : Nat} {o : State} {s : State} {engine : Nat} {slice : Option Nat} (hF : 0x8000000040c0 ||| F = F) (hk : State.Kept qu F o s) : State.Kept qu F o (State.resetOps s engine slice) := by
  unfold State.resetOps
  refine State.kept_ite (fun _ => ?_) (fun _ => ?_)
  · refine State.advanceMgen_kept (sub_of hF rfl) ?_
    with_reducible assumption
  · with_reducible assumption

theorem State.returnBatch_kept {qu : List Instr} {F : Nat} {o : State} {s : State} {id : Nat} (hF : 0x10 ||| F = F) (hk : State.Kept qu F o s) : State.Kept qu F o (State.returnBatch s id) := by
  unfold State.returnBatch
  split
  · refine State.onStage_kept (sub_of hF rfl) ?_
    with_reducible assumption
  · with_reducible assumption

theorem State.stopEngine_kept {qu : List Instr} {F : Nat} {o : State} {s : State} {id : Nat} (hF : 0x404000053c59 ||| F = F) (hk : State.Kept qu F o s) : State.Kept qu F o (State.stopEngine s id) := by
  unfold State.stopEngine
  refine State.kept_ite (fun _ => ?_) (fun _ => ?_)
  · refine State.kept_foldl ?_ ?_
    · with_reducible assumption
    · intro s78 x77 h76
      refine State.dropContext_kept (sub_of hF rfl) ?_
      with_reducible assumption
  · refine State.kept_ite (fun _ => ?_) (fun _ => ?_)
    · refine State.kept_lnt (bit_of hF rfl) ?_
      with_reducible assumption
    · refine State.kept_ite (fun _ => ?_) (fun _ => ?_)
      · refine State.kept_tel (bit_of hF rfl) ?_
        with_reducible assumption
      · refine State.kept_ite (fun _ => ?_) (fun _ => ?_)
        · refine State.kept_ite (fun _ => ?_) (fun _ => ?_)
          · refine State.partnerStale_kept (sub_of hF rfl) ?_
            with_reducible assumption
          · refine State.selfStale_kept (sub_of hF rfl) ?_
            with_reducible assumption
        · refine State.kept_ite (fun _ => ?_) (fun _ => ?_)
          · refine State.kept_work (bit_of hF rfl) ?_
            with_reducible assumption
          · refine State.kept_ite (fun _ => ?_) (fun _ => ?_)
            · refine State.setUnfit_kept (sub_of hF rfl) ?_
              refine State.setF_kept (bit_of hF rfl) ?_
              refine State.onWdn_kept (sub_of hF rfl) ?_
              with_reducible assumption
            · with_reducible assumption

theorem State.resetEngine_kept {qu : List Instr} {F : Nat} {o : State} {s : State} {id level slice cause : Nat} {item : Word} {wins : List (Nat × Nat)} (hF : 0x1c04000077cdb ||| F = F) (hk : State.Kept qu F o s) : State.Kept qu F o (State.resetEngine s id level slice cause item wins) := by
  unfold State.resetEngine
  extract_lets +onlyGivenNames v80
  clear_value v80
  refine State.kept_ite (fun _ => ?_) (fun _ => ?_)
  · refine State.onEngine_kept (sub_of hF rfl) ?_
    with_reducible assumption
  · extract_lets +onlyGivenNames v78
    have hv78 : State.Kept qu F o v78 := by
      unfold v78
      refine State.sample_kept (sub_of hF rfl) ?_
      with_reducible assumption
    clear_value v78
    extract_lets +onlyGivenNames v77
    have hv77 : State.Kept qu F o v77 := by
      unfold v77
      refine State.resetOps_kept (sub_of hF rfl) ?_
      with_reducible assumption
    clear_value v77
    extract_lets +onlyGivenNames v76
    clear_value v76
    extract_lets +onlyGivenNames v75
    have hv75 : State.Kept qu F o v75 := by
      unfold v75
      refine State.onEngine_kept (sub_of hF rfl) ?_
      with_reducible assumption
    clear_value v75
    extract_lets +onlyGivenNames v74
    have hv74 : State.Kept qu F o v74 := by
      unfold v74
      refine State.count_kept (by split <;> exact bit_of hF rfl) ?_
      refine State.recordReset_kept (sub_of hF rfl) ?_
      with_reducible assumption
    clear_value v74
    refine State.showLevel_kept (sub_of hF rfl) ?_
    refine State.returnBatch_kept (sub_of hF rfl) ?_
    refine State.stopEngine_kept (sub_of hF rfl) ?_
    with_reducible assumption

theorem State.dropInputs_kept {qu : List Instr} {F : Nat} {o : State} {s : State} {id slice : Nat} (hF : 0x14639 ||| F = F) (hk : State.Kept qu F o s) : State.Kept qu F o (State.dropInputs s id slice) := by
  unfold State.dropInputs
  split
  · with_reducible assumption
  · extract_lets +onlyGivenNames v79
    clear_value v79
    extract_lets +onlyGivenNames v78
    have hv78 : State.Kept qu F o v78 := by
      unfold v78
      refine State.onStage_kept (sub_of hF rfl) ?_
      with_reducible assumption
    clear_value v78
    refine State.failWindows_kept (sub_of hF rfl) ?_
    with_reducible assumption

theorem State.resetSlice_kept {qu : List Instr} {F : Nat} {o : State} {s : State} {id slice cause : Nat} {item : Word} {wins : List (Nat × Nat)} (hF : 0x1c04000077efb ||| F = F) (hk : State.Kept qu F o s) : State.Kept qu F o (State.resetSlice s id slice cause item wins) := by
  unfold State.resetSlice
  extract_lets +onlyGivenNames v80
  have hv80 : State.Kept qu F o v80 := by
    unfold v80
    refine State.dropInputs_kept (sub_of hF rfl) ?_
    refine State.resetEngine_kept (sub_of hF rfl) ?_
    with_reducible assumption
  clear_value v80
  extract_lets +onlyGivenNames v79
  have hv79 : State.Kept qu F o v79 := by
    unfold v79
    refine State.failWindows_kept (sub_of hF rfl) ?_
    with_reducible assumption
  clear_value v79
  extract_lets +onlyGivenNames v78
  have hv78 : State.Kept qu F o v78 := by
    unfold v78
    refine State.kept_foldl ?_ ?_
    · with_reducible assumption
    · intro s76 x75 h74
      refine State.dropContext_kept (sub_of hF rfl) ?_
      with_reducible assumption
  clear_value v78
  extract_lets +onlyGivenNames v77
  clear_value v77
  extract_lets +onlyGivenNames v76
  have hv76 : State.Kept qu F o v76 := by
    unfold v76
    refine State.kept_lnt (bit_of hF rfl) ?_
    with_reducible assumption
  clear_value v76
  extract_lets +onlyGivenNames v75
  have hv75 : State.Kept qu F o v75 := by
    unfold v75
    refine State.kept_foldl ?_ ?_
    · with_reducible assumption
    · intro s73 x72 h71
      refine State.auditAgent_kept (sub_of hF rfl) ?_
      with_reducible assumption
  clear_value v75
  refine State.kept_foldl ?_ ?_
  · with_reducible assumption
  · intro s73 x72 h71
    refine State.kept_foldl ?_ ?_
    · with_reducible assumption
    · intro s69 x68 h67
      refine State.auditPlan_kept (sub_of hF rfl) ?_
      with_reducible assumption

theorem State.answerReset_kept {qu : List Instr} {F : Nat} {o : State} {s : State} {level began : Nat} {wins : List (Nat × Nat)} (hF : 0x4009 ||| F = F) (hk : State.Kept qu F o s) : State.Kept qu F o (State.answerReset s level began wins) := by
  unfold State.answerReset
  refine State.kept_foldl ?_ ?_
  · with_reducible assumption
  · intro s79 x78 h77
    refine State.complete_kept (sub_of hF rfl) ?_
    with_reducible assumption

theorem State.deferReset_kept {qu : List Instr} {F : Nat} {o : State} {s : State} {level : Nat} (hF : 0x1800000024009 ||| F = F) (hk : State.Kept qu F o s) : State.Kept qu F o (State.deferReset s level) := by
  unfold State.deferReset
  refine State.raise_kept (sub_of hF rfl) (bit_of hF rfl) ?_
  refine State.logOwn_kept (sub_of hF rfl) ?_
  refine State.setF_kept (bit_of hF rfl) ?_
  with_reducible assumption

theorem State.takeWins_kept {qu : List Instr} {F : Nat} {o : State} {s : State} (hF : 0x4000 ||| F = F) (hk : State.Kept qu F o s) : State.Kept qu F o (State.takeWins s).2 := by
  unfold State.takeWins
  extract_lets +onlyGivenNames v80
  clear_value v80
  dsimp only
  refine State.onRst_kept (sub_of hF rfl) ?_
  with_reducible assumption

theorem State.readSlots_kept {qu : List Instr} {F : Nat} {o : State} {s : State} {old : ChartState} (hF : 0x4300000029 ||| F = F) (hk : State.Kept qu F o s) : State.Kept qu F o (State.readSlots s old) := by
  unfold State.readSlots
  extract_lets +onlyGivenNames v80
  clear_value v80
  extract_lets +onlyGivenNames v79
  clear_value v79
  extract_lets +onlyGivenNames v78
  clear_value v78
  extract_lets +onlyGivenNames v77
  clear_value v77
  extract_lets +onlyGivenNames v76
  have hv76 : State.Kept qu F o v76 := by
    unfold v76
    refine State.kept_chart (bit_of hF rfl) ?_
    with_reducible assumption
  clear_value v76
  extract_lets +onlyGivenNames v75
  have hv75 : State.Kept qu F o v75 := by
    unfold v75
    refine State.raiseIf_kept (sub_of hF rfl) (bit_of hF rfl) ?_
    with_reducible assumption
  clear_value v75
  extract_lets +onlyGivenNames v74
  clear_value v74
  extract_lets +onlyGivenNames v73
  have hv73 : State.Kept qu F o v73 := by
    unfold v73
    split
    · refine State.setF_kept (bit_of hF rfl) ?_
      refine State.setReg_kept (bit_of hF rfl) ?_
      refine State.setReg_kept (bit_of hF rfl) ?_
      with_reducible assumption
    · with_reducible assumption
  clear_value v73
  refine State.showKeys_kept (sub_of hF rfl) ?_
  with_reducible assumption

theorem State.readLogCopies_kept {qu : List Instr} {F : Nat} {o : State} {s : State} {newestB : Bool} {copies : Nat} (hF : 0x1100000000000 ||| F = F) (hk : State.Kept qu F o s) : State.Kept qu F o (State.readLogCopies s newestB copies) := by
  unfold State.readLogCopies
  extract_lets +onlyGivenNames v80
  clear_value v80
  extract_lets +onlyGivenNames v79
  have hv79 : State.Kept qu F o v79 := by
    unfold v79
    refine State.setF_kept (bit_of hF rfl) ?_
    refine State.setF_kept (bit_of hF rfl) ?_
    refine State.setF_kept (bit_of hF rfl) ?_
    with_reducible assumption
  clear_value v79
  split
  · refine State.setPair_kept (bit_of hF rfl) (bit_of hF rfl) ?_
    refine State.setPair_kept (bit_of hF rfl) (bit_of hF rfl) ?_
    with_reducible assumption
  · with_reducible assumption

theorem State.logRestart_kept {qu : List Instr} {F : Nat} {o : State} {s : State} {level cause : Nat} (hF : 0x1000000024009 ||| F = F) (hk : State.Kept qu F o s) : State.Kept qu F o (State.logRestart s level cause) := by
  unfold State.logRestart
  extract_lets +onlyGivenNames v80
  clear_value v80
  extract_lets +onlyGivenNames v79
  clear_value v79
  refine State.logOwn_kept (sub_of hF rfl) ?_
  with_reducible assumption

theorem State.showPins_kept {qu : List Instr} {F : Nat} {o : State} {s : State} (hF : 0x400000000000 ||| F = F) (hk : State.Kept qu F o s) : State.Kept qu F o (State.showPins s) := by
  unfold State.showPins
  extract_lets +onlyGivenNames v80
  have hv80 : State.Kept qu F o v80 := by
    unfold v80
    refine State.setF_kept (bit_of hF rfl) ?_
    refine State.setF_kept (bit_of hF rfl) ?_
    with_reducible assumption
  clear_value v80
  refine State.setF_kept (bit_of hF rfl) ?_
  refine State.setF_kept (bit_of hF rfl) ?_
  with_reducible assumption

theorem State.restartPart_kept {qu : List Instr} {F : Nat} {o : State} {s : State} {cause : Nat} (hF : 0xffffffff001fffff ||| F = F) (hk : State.Kept qu F o s) : State.Kept qu F o (State.restartPart s cause) := by
  unfold State.restartPart
  extract_lets +onlyGivenNames v80
  extract_lets +onlyGivenNames v79
  clear_value v79
  extract_lets +onlyGivenNames v78
  clear_value v78
  extract_lets +onlyGivenNames v77
  clear_value v77
  extract_lets +onlyGivenNames v76
  extract_lets +onlyGivenNames v75
  extract_lets +onlyGivenNames v74
  clear_value v74
  extract_lets +onlyGivenNames v73
  clear_value v73
  extract_lets +onlyGivenNames v72
  clear_value v72
  extract_lets +onlyGivenNames v71
  clear_value v71
  extract_lets +onlyGivenNames v70
  extract_lets +onlyGivenNames v69
  clear_value v69
  extract_lets +onlyGivenNames v68
  clear_value v68
  extract_lets +onlyGivenNames v67
  clear_value v67
  extract_lets +onlyGivenNames v66
  have hv66 : State.Kept qu F o v66 := by
    unfold v66
    exact hk.queue ▸ State.kept_mk (fun ho => ⟨canonical_filter (hk.inv ho).1, by first | exact fun h => absurd h Bool.false_ne_true | exact (hk.inv ho).2.1 | exact fun h => (hk.inv ho).2.1 (Bool.and_elim_right h), by first | exact (hk.inv ho).2.2 | rfl⟩) (State.sameBut_all hF)
  clear_value v66
  extract_lets +onlyGivenNames v65
  have hv65 : State.Kept qu F o v65 := by
    unfold v65
    refine State.setPair_kept (bit_of hF rfl) (bit_of hF rfl) ?_
    refine State.readLogCopies_kept (sub_of hF rfl) ?_
    refine State.readSlots_kept (sub_of hF rfl) ?_
    with_reducible assumption
  clear_value v65
  extract_lets +onlyGivenNames v64
  have hv64 : State.Kept qu F o v64 := by
    unfold v64
    refine State.setReg_kept (bit_of hF rfl) ?_
    refine State.setF_kept (bit_of hF rfl) ?_
    refine State.setReg_kept (bit_of hF rfl) ?_
    with_reducible assumption
  clear_value v64
  extract_lets +onlyGivenNames v63
  have hv63 : State.Kept qu F o v63 := by
    unfold v63
    refine State.showPins_kept (sub_of hF rfl) ?_
    refine State.setF_kept (bit_of hF rfl) ?_
    with_reducible assumption
  clear_value v63
  extract_lets +onlyGivenNames v62
  have hv62 : State.Kept qu F o v62 := by
    unfold v62
    refine State.setF_kept (bit_of hF rfl) ?_
    refine State.setReg_kept (bit_of hF rfl) ?_
    refine State.setF_kept (bit_of hF rfl) ?_
    with_reducible assumption
  clear_value v62
  refine State.logRestart_kept (sub_of hF rfl) ?_
  refine State.showLamps_kept (sub_of hF rfl) ?_
  with_reducible assumption

theorem State.restartChip_kept {qu : List Instr} {F : Nat} {o : State} {s : State} {level cause : Nat} (hF : 0xffffffff001fffff ||| F = F) (hk : State.Kept qu F o s) : State.Kept qu F o (State.restartChip s level cause) := by
  unfold State.restartChip
  extract_lets +onlyGivenNames v80
  extract_lets +onlyGivenNames v79
  clear_value v79
  extract_lets +onlyGivenNames v78
  clear_value v78
  extract_lets +onlyGivenNames v77
  extract_lets +onlyGivenNames v76
  clear_value v76
  extract_lets +onlyGivenNames v75
  clear_value v75
  extract_lets +onlyGivenNames v74
  clear_value v74
  extract_lets +onlyGivenNames v73
  clear_value v73
  extract_lets +onlyGivenNames v72
  extract_lets +onlyGivenNames v71
  clear_value v71
  extract_lets +onlyGivenNames v70
  clear_value v70
  extract_lets +onlyGivenNames v69
  have hv69 : State.Kept qu F o v69 := by
    unfold v69
    exact hk.queue ▸ State.kept_mk (fun ho => ⟨canonical_filter (hk.inv ho).1, by first | exact fun h => absurd h Bool.false_ne_true | exact (hk.inv ho).2.1 | exact fun h => (hk.inv ho).2.1 (Bool.and_elim_right h), by first | exact (hk.inv ho).2.2 | rfl⟩) (State.sameBut_all hF)
  clear_value v69
  extract_lets +onlyGivenNames v68
  have hv68 : State.Kept qu F o v68 := by
    unfold v68
    refine State.readLogCopies_kept (sub_of hF rfl) ?_
    refine State.readSlots_kept (sub_of hF rfl) ?_
    with_reducible assumption
  clear_value v68
  extract_lets +onlyGivenNames v67
  have hv67 : State.Kept qu F o v67 := by
    unfold v67
    refine State.raiseIf_kept (sub_of hF rfl) (bit_of hF rfl) ?_
    with_reducible assumption
  clear_value v67
  extract_lets +onlyGivenNames v66
  have hv66 : State.Kept qu F o v66 := by
    unfold v66
    refine State.kept_foldl_range ?_ ?_
    · with_reducible assumption
    · intro s64 x63 x62 h61
      refine State.kept_ite (fun _ => ?_) (fun _ => ?_)
      · refine State.setF_kept (bit_all hF rfl) ?_
        with_reducible assumption
      · with_reducible assumption
  clear_value v66
  extract_lets +onlyGivenNames v65
  have hv65 : State.Kept qu F o v65 := by
    unfold v65
    refine State.kept_ite (fun _ => ?_) (fun _ => ?_)
    · refine State.setF_kept (bit_of hF rfl) ?_
      refine State.setF_kept (bit_of hF rfl) ?_
      with_reducible assumption
    · with_reducible assumption
  clear_value v65
  extract_lets +onlyGivenNames v64
  have hv64 : State.Kept qu F o v64 := by
    unfold v64
    refine State.setF_kept (bit_of hF rfl) ?_
    refine State.setF_kept (bit_of hF rfl) ?_
    with_reducible assumption
  clear_value v64
  refine State.logRestart_kept (sub_of hF rfl) ?_
  refine State.showLamps_kept (sub_of hF rfl) ?_
  refine State.showPins_kept (sub_of hF rfl) ?_
  with_reducible assumption

theorem State.startPart_kept {qu : List Instr} {F : Nat} {o : State} {s : State} {p : PartReset} (hF : 0xffffffff001fffff ||| F = F) (hk : State.Kept qu F o s) : State.Kept qu F o (State.startPart s p) := by
  unfold State.startPart
  extract_lets +onlyGivenNames v80
  have hv80 : State.Kept qu F o v80 := by
    unfold v80
    refine State.setUnfit_kept (sub_of hF rfl) ?_
    with_reducible assumption
  clear_value v80
  extract_lets +onlyGivenNames v79
  have hv79 : State.Kept qu F o v79.2 := by
    unfold v79
    refine State.takeWins_kept (sub_of hF rfl) ?_
    with_reducible assumption
  clear_value v79
  extract_lets +onlyGivenNames v78
  clear_value v78
  extract_lets +onlyGivenNames v77
  have hv77 : State.Kept qu F o v77 := by
    unfold v77
    with_reducible assumption
  clear_value v77
  extract_lets +onlyGivenNames v76
  clear_value v76
  extract_lets +onlyGivenNames v75
  have hv75 : State.Kept qu F o v75 := by
    unfold v75
    refine State.kept_ite (fun _ => ?_) (fun _ => ?_)
    · refine State.sample_kept (sub_of hF rfl) ?_
      with_reducible assumption
    · with_reducible assumption
  clear_value v75
  extract_lets +onlyGivenNames v74
  have hv74 : State.Kept qu F o v74 := by
    unfold v74
    refine State.kept_ite (fun _ => ?_) (fun _ => ?_)
    · with_reducible assumption
    · refine State.answerReset_kept (sub_of hF rfl) ?_
      with_reducible assumption
  clear_value v74
  extract_lets +onlyGivenNames v73
  have hv73 : State.Kept qu F o v73 := by
    unfold v73
    refine State.kept_ite (fun _ => ?_) (fun _ => ?_)
    · refine State.failWindows_kept (sub_of hF rfl) ?_
      with_reducible assumption
    · with_reducible assumption
  clear_value v73
  extract_lets +onlyGivenNames v72
  have hv72 : State.Kept qu F o v72 := by
    unfold v72
    refine State.recordReset_kept (sub_of hF rfl) ?_
    with_reducible assumption
  clear_value v72
  extract_lets +onlyGivenNames v71
  clear_value v71
  refine State.kept_ite (fun _ => ?_) (fun _ => ?_)
  · extract_lets +onlyGivenNames v69
    have hv69 : State.Kept qu F o v69 := by
      unfold v69
      refine State.setF_kept (bit_of hF rfl) ?_
      refine State.drainStaging_kept (sub_of hF rfl) ?_
      refine State.count_kept (bit_of hF rfl) ?_
      with_reducible assumption
    clear_value v69
    extract_lets +onlyGivenNames v68
    have hv68 : State.Kept qu F o v68 := by
      unfold v68
      refine State.restartPart_kept (sub_of hF rfl) ?_
      with_reducible assumption
    clear_value v68
    refine State.showLevel_kept (sub_of hF rfl) ?_
    refine State.onRst_kept (sub_of hF rfl) ?_
    with_reducible assumption
  · extract_lets +onlyGivenNames v69
    have hv69 : State.Kept qu F o v69 := by
      unfold v69
      refine State.showLevel_kept (sub_of hF rfl) ?_
      refine State.onRst_kept (sub_of hF rfl) ?_
      with_reducible assumption
    clear_value v69
    extract_lets +onlyGivenNames v68
    have hv68 : State.Kept qu F o v68 := by
      unfold v68
      refine State.kept_ite (fun _ => ?_) (fun _ => ?_)
      · refine State.count_kept (bit_of hF rfl) ?_
        with_reducible assumption
      · with_reducible assumption
    clear_value v68
    refine State.startCopy_kept (sub_of hF rfl) ?_
    with_reducible assumption

theorem State.proceedPart_kept {qu : List Instr} {F : Nat} {o : State} {s : State} {p : PartReset} (hF : 0xffffffff001fffff ||| F = F) (hk : State.Kept qu F o s) : State.Kept qu F o (State.proceedPart s p) := by
  unfold State.proceedPart
  extract_lets +onlyGivenNames v80
  have hv80 : State.Kept qu F o v80 := by
    unfold v80
    refine State.setF_kept (bit_of hF rfl) ?_
    refine State.setUnfit_kept (sub_of hF rfl) ?_
    with_reducible assumption
  clear_value v80
  extract_lets +onlyGivenNames v79
  have hv79 : State.Kept qu F o v79 := by
    unfold v79
    refine State.onRst_kept (sub_of hF rfl) ?_
    with_reducible assumption
  clear_value v79
  refine State.kept_ite (fun _ => ?_) (fun _ => ?_)
  · refine State.setUnfit_kept (sub_of hF rfl) ?_
    with_reducible assumption
  · refine State.startPart_kept (sub_of hF rfl) ?_
    with_reducible assumption

theorem State.decidePart_kept {qu : List Instr} {F : Nat} {o : State} {s : State} {level0 cause engine slice : Nat} {force : Bool} {wins : List (Nat × Nat)} (hF : 0xffffffff001fffff ||| F = F) (hk : State.Kept qu F o s) : State.Kept qu F o (State.decidePart s level0 cause engine slice force wins) := by
  unfold State.decidePart
  extract_lets +onlyGivenNames v80
  clear_value v80
  refine State.kept_ite (fun _ => ?_) (fun _ => ?_)
  · refine State.deferReset_kept (sub_of hF rfl) ?_
    with_reducible assumption
  · extract_lets +onlyGivenNames v78
    have hv78 : State.Kept qu F o v78 := by
      unfold v78
      refine State.raise_kept (sub_of hF rfl) (bit_of hF rfl) ?_
      with_reducible assumption
    clear_value v78
    extract_lets +onlyGivenNames v77
    clear_value v77
    split
    · refine State.kept_ite (fun _ => ?_) (fun _ => ?_)
      · refine State.onRst_kept (sub_of hF rfl) ?_
        with_reducible assumption
      · refine State.kept_ite (fun _ => ?_) (fun _ => ?_)
        · refine State.deferReset_kept (sub_of hF rfl) ?_
          refine State.onRst_kept (sub_of hF rfl) ?_
          with_reducible assumption
        · refine State.proceedPart_kept (sub_of hF rfl) ?_
          with_reducible assumption
    · refine State.kept_ite (fun _ => ?_) (fun _ => ?_)
      · refine State.proceedPart_kept (sub_of hF rfl) ?_
        with_reducible assumption
      · refine State.deferReset_kept (sub_of hF rfl) ?_
        refine State.onRst_kept (sub_of hF rfl) ?_
        with_reducible assumption

theorem State.bringPilot_kept {qu : List Instr} {F : Nat} {o : State} {s : State} {core : Nat} (hF : 0x1800000024019 ||| F = F) (hk : State.Kept qu F o s) : State.Kept qu F o (State.bringPilot s core) := by
  unfold State.bringPilot
  extract_lets +onlyGivenNames v80
  clear_value v80
  split
  · extract_lets +onlyGivenNames v78
    clear_value v78
    extract_lets +onlyGivenNames v77
    clear_value v77
    extract_lets +onlyGivenNames v76
    have hv76 : State.Kept qu F o v76 := by
      unfold v76
      refine State.kept_work (bit_of hF rfl) ?_
      with_reducible assumption
    clear_value v76
    refine State.reserve_kept (sub_of hF rfl) ?_
    with_reducible assumption
  · refine State.reserveOut_kept (sub_of hF rfl) ?_
    with_reducible assumption

theorem State.bringChannel_kept {qu : List Instr} {F : Nat} {o : State} {s : State} {ch : Nat} (hF : 0x1800000064009 ||| F = F) (hk : State.Kept qu F o s) : State.Kept qu F o (State.bringChannel s ch) := by
  unfold State.bringChannel
  extract_lets +onlyGivenNames v80
  clear_value v80
  split
  · refine State.reserve_kept (sub_of hF rfl) ?_
    refine State.onRst_kept (sub_of hF rfl) ?_
    with_reducible assumption
  · extract_lets +onlyGivenNames v78
    have hv78 : State.Kept qu F o v78 := by
      unfold v78
      refine State.reserveOut_kept (sub_of hF rfl) ?_
      refine State.onRst_kept (sub_of hF rfl) ?_
      with_reducible assumption
    clear_value v78
    extract_lets +onlyGivenNames v77
    clear_value v77
    refine State.kept_tel (bit_of hF rfl) ?_
    with_reducible assumption

theorem State.bringUnit_kept {qu : List Instr} {F : Nat} {o : State} {s : State} {c unit : Nat} (hF : 0x1800000064019 ||| F = F) (hk : State.Kept qu F o s) : State.Kept qu F o (State.bringUnit s c unit) := by
  unfold State.bringUnit
  refine State.kept_ite (fun _ => ?_) (fun _ => ?_)
  · refine State.bringPilot_kept (sub_of hF rfl) ?_
    with_reducible assumption
  · refine State.kept_ite (fun _ => ?_) (fun _ => ?_)
    · refine State.bringChannel_kept (sub_of hF rfl) ?_
      with_reducible assumption
    · extract_lets +onlyGivenNames v78
      clear_value v78
      refine State.kept_ite (fun _ => ?_) (fun _ => ?_)
      · refine State.reserve_kept (sub_of hF rfl) ?_
        with_reducible assumption
      · refine State.reserveOut_kept (sub_of hF rfl) ?_
        with_reducible assumption

theorem State.retireUnit_kept {qu : List Instr} {F : Nat} {o : State} {s : State} {c unit : Nat} (hF : 0x1800000064019 ||| F = F) (hk : State.Kept qu F o s) : State.Kept qu F o (State.retireUnit s c unit) := by
  unfold State.retireUnit
  refine State.kept_ite (fun _ => ?_) (fun _ => ?_)
  · refine State.bringUnit_kept (sub_of hF rfl) ?_
    with_reducible assumption
  · refine State.onRst_kept (sub_of hF rfl) ?_
    with_reducible assumption

theorem State.retirePilot_kept {qu : List Instr} {F : Nat} {o : State} {s : State} {core : Nat} (hF : 0x1800000064019 ||| F = F) (hk : State.Kept qu F o s) : State.Kept qu F o (State.retirePilot s core) := by
  unfold State.retirePilot
  extract_lets +onlyGivenNames v80
  clear_value v80
  extract_lets +onlyGivenNames v79
  have hv79 : State.Kept qu F o v79 := by
    unfold v79
    refine State.kept_work (bit_of hF rfl) ?_
    with_reducible assumption
  clear_value v79
  refine State.retireUnit_kept (sub_of hF rfl) ?_
  with_reducible assumption

theorem State.spareLane_kept {qu : List Instr} {F : Nat} {o : State} {s : State} {lane : Nat} (hF : 0x1800000024109 ||| F = F) (hk : State.Kept qu F o s) : State.Kept qu F o (State.spareLane s lane) := by
  unfold State.spareLane
  refine State.kept_ite (fun _ => ?_) (fun _ => ?_)
  · extract_lets +onlyGivenNames v79
    clear_value v79
    refine State.reserve_kept (sub_of hF rfl) ?_
    refine State.kept_slv (bit_of hF rfl) ?_
    with_reducible assumption
  · refine State.reserveOut_kept (sub_of hF rfl) ?_
    with_reducible assumption

theorem State.retireLane_kept {qu : List Instr} {F : Nat} {o : State} {s : State} {lane : Nat} (hF : 0x1801000024109 ||| F = F) (hk : State.Kept qu F o s) : State.Kept qu F o (State.retireLane s lane) := by
  unfold State.retireLane
  refine State.kept_ite (fun _ => ?_) (fun _ => ?_)
  · with_reducible assumption
  · extract_lets +onlyGivenNames v79
    have hv79 : State.Kept qu F o v79 := by
      unfold v79
      refine State.raise_kept (sub_of hF rfl) (bit_of hF rfl) ?_
      with_reducible assumption
    clear_value v79
    extract_lets +onlyGivenNames v78
    clear_value v78
    extract_lets +onlyGivenNames v77
    have hv77 : State.Kept qu F o v77 := by
      unfold v77
      refine State.kept_slv (bit_of hF rfl) ?_
      with_reducible assumption
    clear_value v77
    extract_lets +onlyGivenNames v76
    have hv76 : State.Kept qu F o v76 := by
      unfold v76
      refine State.spareLane_kept (sub_of hF rfl) ?_
      with_reducible assumption
    clear_value v76
    refine State.setF_kept (bit_of hF rfl) ?_
    refine State.setF_kept (bit_of hF rfl) ?_
    with_reducible assumption

theorem State.laneFailed_kept {qu : List Instr} {F : Nat} {o : State} {s : State} {lane : Nat} (hF : 0x1801000024109 ||| F = F) (hk : State.Kept qu F o s) : State.Kept qu F o (State.laneFailed s lane) := by
  unfold State.laneFailed
  refine State.kept_ite (fun _ => ?_) (fun _ => ?_)
  · refine State.retireLane_kept (sub_of hF rfl) ?_
    refine State.kept_slv (bit_of hF rfl) ?_
    with_reducible assumption
  · refine State.kept_slv (bit_of hF rfl) ?_
    with_reducible assumption

theorem State.escalate_kept {qu : List Instr} {F : Nat} {o : State} {s : State} {id slice : Nat} {item : Word} (hF : 0xffffffff001fffff ||| F = F) (hk : State.Kept qu F o s) : State.Kept qu F o (State.escalate s id slice item) := by
  unfold State.escalate
  extract_lets +onlyGivenNames v80
  clear_value v80
  extract_lets +onlyGivenNames v79
  clear_value v79
  extract_lets +onlyGivenNames v78
  clear_value v78
  extract_lets +onlyGivenNames v77
  have hv77 : State.Kept qu F o v77 := by
    unfold v77
    refine State.onEngine_kept (sub_of hF rfl) ?_
    with_reducible assumption
  clear_value v77
  extract_lets +onlyGivenNames v76
  extract_lets +onlyGivenNames v75
  refine State.kept_ite (fun _ => ?_) (fun _ => ?_)
  · refine State.kept_ite (fun _ => ?_) (fun _ => ?_)
    · refine State.retirePilot_kept (sub_of hF rfl) ?_
      with_reducible assumption
    · unfold v76
      refine State.resetEngine_kept (sub_of hF rfl) ?_
      with_reducible assumption
  · refine State.kept_ite (fun _ => ?_) (fun _ => ?_)
    · unfold v76
      refine State.resetEngine_kept (sub_of hF rfl) ?_
      with_reducible assumption
    · refine State.kept_ite (fun _ => ?_) (fun _ => ?_)
      · unfold v75
        extract_lets +onlyGivenNames v70
        have hv70 : State.Kept qu F o v70 := by
          unfold v70
          refine State.decidePart_kept (sub_of hF rfl) ?_
          with_reducible assumption
        clear_value v70
        refine State.kept_ite (fun _ => ?_) (fun _ => ?_)
        · unfold v76
          refine State.resetEngine_kept (sub_of hF rfl) ?_
          with_reducible assumption
        · with_reducible assumption
      · refine State.kept_ite (fun _ => ?_) (fun _ => ?_)
        · refine State.kept_ite (fun _ => ?_) (fun _ => ?_)
          · unfold v75
            extract_lets +onlyGivenNames v68
            have hv68 : State.Kept qu F o v68 := by
              unfold v68
              refine State.decidePart_kept (sub_of hF rfl) ?_
              with_reducible assumption
            clear_value v68
            refine State.kept_ite (fun _ => ?_) (fun _ => ?_)
            · unfold v76
              refine State.resetEngine_kept (sub_of hF rfl) ?_
              with_reducible assumption
            · with_reducible assumption
          · unfold v76
            refine State.resetEngine_kept (sub_of hF rfl) ?_
            with_reducible assumption
        · refine State.kept_ite (fun _ => ?_) (fun _ => ?_)
          · unfold v75
            extract_lets +onlyGivenNames v68
            have hv68 : State.Kept qu F o v68 := by
              unfold v68
              refine State.decidePart_kept (sub_of hF rfl) ?_
              with_reducible assumption
            clear_value v68
            refine State.kept_ite (fun _ => ?_) (fun _ => ?_)
            · unfold v76
              refine State.resetEngine_kept (sub_of hF rfl) ?_
              with_reducible assumption
            · with_reducible assumption
          · refine State.kept_ite (fun _ => ?_) (fun _ => ?_)
            · refine State.kept_ite (fun _ => ?_) (fun _ => ?_)
              · refine State.resetSlice_kept (sub_of hF rfl) ?_
                refine State.raise_kept (sub_of hF rfl) (bit_of hF rfl) ?_
                with_reducible assumption
              · unfold v75
                extract_lets +onlyGivenNames v66
                have hv66 : State.Kept qu F o v66 := by
                  unfold v66
                  refine State.decidePart_kept (sub_of hF rfl) ?_
                  with_reducible assumption
                clear_value v66
                refine State.kept_ite (fun _ => ?_) (fun _ => ?_)
                · unfold v76
                  refine State.resetEngine_kept (sub_of hF rfl) ?_
                  with_reducible assumption
                · with_reducible assumption
            · unfold v76
              refine State.resetEngine_kept (sub_of hF rfl) ?_
              with_reducible assumption

theorem State.contextHang_kept {qu : List Instr} {F : Nat} {o : State} {s : State} {engine kind ctx slice logKind : Nat} {agent : Addr} (hF : 0x1c04000077cdb ||| F = F) (hk : State.Kept qu F o s) : State.Kept qu F o (State.contextHang s engine kind ctx slice logKind agent) := by
  unfold State.contextHang
  extract_lets +onlyGivenNames v80
  clear_value v80
  extract_lets +onlyGivenNames v79
  have hv79 : State.Kept qu F o v79 := by
    unfold v79
    refine State.logHang_kept (sub_of hF rfl) ?_
    with_reducible assumption
  clear_value v79
  refine State.kept_ite (fun _ => ?_) (fun _ => ?_)
  · extract_lets +onlyGivenNames v77
    have hv77 : State.Kept qu F o v77 := by
      unfold v77
      refine State.dropContext_kept (sub_of hF rfl) ?_
      refine State.onEngine_kept (sub_of hF rfl) ?_
      with_reducible assumption
    clear_value v77
    refine State.resetEngine_kept (sub_of hF rfl) ?_
    with_reducible assumption
  · refine State.resetContext_kept (sub_of hF rfl) ?_
    with_reducible assumption

end Sys2Proof.Machine
end

