-- ==== Sys2Proof/Laws/KeptChart.lean ====
section
/-! SUPPORT. Laws/KeptChart.lean: each operation of Machine/Chart.lean keeps the queue and the invariant. -/
namespace Sys2Proof.Machine

theorem State.setStore_kept {qu : List Instr} {F : Nat} {o : State} {s : State} {j : Option StoreJob} (hF : 0x20 ||| F = F) (hk : State.Kept qu F o s) : State.Kept qu F o (State.setStore s j) := by
  unfold State.setStore
  refine State.kept_chart (bit_of hF rfl) ?_
  with_reducible assumption

theorem State.pumpStore_kept {qu : List Instr} {F : Nat} {o : State}  {n : Nat} {s : State} (hF : 0x1000200024029 ||| F = F) (hk : State.Kept qu F o s) : State.Kept qu F o (State.pumpStore  n s) := by
  induction n generalizing s with
  | zero =>
    rw [State.pumpStore]
    with_reducible assumption
  | succ n ih =>
    rw [State.pumpStore]
    split
    · split
      · with_reducible assumption
      · apply ih
        refine State.kept_chart (bit_of hF rfl) ?_
        with_reducible assumption
    · split
      · refine State.kept_ite (fun _ => ?_) (fun _ => ?_)
        · with_reducible assumption
        · refine State.setStore_kept (sub_of hF rfl) ?_
          with_reducible assumption
      · extract_lets +onlyGivenNames v78
        clear_value v78
        refine State.kept_ite (fun _ => ?_) (fun _ => ?_)
        · with_reducible assumption
        · refine State.kept_ite (fun _ => ?_) (fun _ => ?_)
          · refine State.onSlot_kept (sub_of hF rfl) ?_
            with_reducible assumption
          · apply ih
            refine State.refuse_kept (sub_of hF rfl) ?_
            refine State.chartRefused_kept (sub_of hF rfl) ?_
            refine State.setStore_kept (sub_of hF rfl) ?_
            with_reducible assumption

theorem State.storeNext_kept {qu : List Instr} {F : Nat} {o : State} {s : State} (hF : 0x1000200024029 ||| F = F) (hk : State.Kept qu F o s) : State.Kept qu F o (State.storeNext s) := by
  unfold State.storeNext
  refine State.pumpStore_kept (sub_of hF rfl) ?_
  with_reducible assumption

theorem State.writeBlocks_kept {qu : List Instr} {F : Nat} {o : State} {s : State} {bs gone : List Nat} (hF : 0x4000 ||| F = F) (hk : State.Kept qu F o s) : State.Kept qu F o (State.writeBlocks s bs gone) := by
  unfold State.writeBlocks
  refine State.onRst_kept (sub_of hF rfl) ?_
  with_reducible assumption

theorem State.storeStep_kept {qu : List Instr} {F : Nat} {o : State} {s : State} {j : StoreJob} {blocks retired : Nat} (hF : 0x4000004029 ||| F = F) (hk : State.Kept qu F o s) : State.Kept qu F o (State.storeStep s j blocks retired) := by
  unfold State.storeStep
  extract_lets +onlyGivenNames v80
  clear_value v80
  split
  · refine State.setStore_kept (sub_of hF rfl) ?_
    refine State.onSlot_kept (sub_of hF rfl) ?_
    with_reducible assumption
  · refine State.kept_ite (fun _ => ?_) (fun _ => ?_)
    · extract_lets +onlyGivenNames v77
      clear_value v77
      extract_lets +onlyGivenNames v76
      have hv76 : State.Kept qu F o v76 := by
        unfold v76
        refine State.kept_chart (bit_of hF rfl) ?_
        with_reducible assumption
      clear_value v76
      refine State.setStore_kept (sub_of hF rfl) ?_
      refine State.showKeys_kept (sub_of hF rfl) ?_
      with_reducible assumption
    · extract_lets +onlyGivenNames v77
      clear_value v77
      extract_lets +onlyGivenNames v76
      clear_value v76
      extract_lets +onlyGivenNames v75
      clear_value v75
      extract_lets +onlyGivenNames v74
      clear_value v74
      extract_lets +onlyGivenNames v73
      have hv73 : State.Kept qu F o v73 := by
        unfold v73
        refine State.kept_chart (bit_of hF rfl) ?_
        with_reducible assumption
      clear_value v73
      refine State.complete_kept (sub_of hF rfl) ?_
      refine State.setStore_kept (sub_of hF rfl) ?_
      with_reducible assumption

theorem State.storeFailed_kept {qu : List Instr} {F : Nat} {o : State} {s : State} {j : StoreJob} {reason : Nat} (hF : 0x4029 ||| F = F) (hk : State.Kept qu F o s) : State.Kept qu F o (State.storeFailed s j reason) := by
  unfold State.storeFailed
  extract_lets +onlyGivenNames v80
  have hv80 : State.Kept qu F o v80 := by
    unfold v80
    split
    · refine State.onSlot_kept (sub_of hF rfl) ?_
      with_reducible assumption
    · with_reducible assumption
  clear_value v80
  refine State.refuse_kept (sub_of hF rfl) ?_
  refine State.setStore_kept (sub_of hF rfl) ?_
  with_reducible assumption

theorem execStoreWriteDone_kept {qu : List Instr} {F : Nat} {o : State} {failedBlocks : Nat} {s : State} (hF : 0x1804200064039 ||| F = F) (hk : State.Kept qu F o s) : Runs qu F o (execStoreWriteDone failedBlocks s) := by
  unfold execStoreWriteDone
  split
  · refine runs_next ?_
    with_reducible assumption
  · extract_lets +onlyGivenNames v79
    clear_value v79
    refine runs_ite (fun _ => ?_) (fun _ => ?_)
    · refine runs_next ?_
      with_reducible assumption
    · extract_lets +onlyGivenNames v77
      clear_value v77
      extract_lets +onlyGivenNames v76
      clear_value v76
      extract_lets +onlyGivenNames v75
      clear_value v75
      extract_lets +onlyGivenNames v74
      clear_value v74
      extract_lets +onlyGivenNames v73
      clear_value v73
      extract_lets +onlyGivenNames v72
      have hv72 : State.Kept qu F o v72 := by
        unfold v72
        refine State.kept_foldl ?_ ?_
        · with_reducible assumption
        · intro s70 x69 h68
          refine State.retireUnit_kept (sub_of hF rfl) ?_
          with_reducible assumption
      clear_value v72
      extract_lets +onlyGivenNames v71
      have hv71 : State.Kept qu F o v71 := by
        unfold v71
        refine State.kept_ite (fun _ => ?_) (fun _ => ?_)
        · refine State.storeFailed_kept (sub_of hF rfl) ?_
          with_reducible assumption
        · refine State.storeStep_kept (sub_of hF rfl) ?_
          refine State.writeBlocks_kept (sub_of hF rfl) ?_
          with_reducible assumption
      clear_value v71
      refine runs_next ?_
      refine State.storeNext_kept (sub_of hF rfl) ?_
      refine State.stageInput_kept (sub_of hF rfl) ?_
      with_reducible assumption

theorem cmdStore_kept {qu : List Instr} {F : Nat} {o : State} {w : Nat} {s : State} (hF : 0x1000200024029 ||| F = F) (hk : State.Kept qu F o s) : State.Kept qu F o (cmdStore w s) := by
  unfold cmdStore
  extract_lets +onlyGivenNames v80
  clear_value v80
  refine State.kept_ite (fun _ => ?_) (fun _ => ?_)
  · refine State.refuse_kept (sub_of hF rfl) ?_
    with_reducible assumption
  · extract_lets +onlyGivenNames v78
    clear_value v78
    refine State.storeNext_kept (sub_of hF rfl) ?_
    refine State.kept_chart (bit_of hF rfl) ?_
    with_reducible assumption

theorem execStore_kept {qu : List Instr} {F : Nat} {o : State} {c : HostCmd} {s : State} (hF : 0x1000300024029 ||| F = F) (hk : State.Kept qu F o s) : Runs qu F o (execStore c s) := by
  unfold execStore
  refine runs_next ?_
  refine State.issue_kept (sub_of hF rfl) ?_ ?_
  · with_reducible assumption
  · intro x78 s77 h76
    refine cmdStore_kept (sub_of hF rfl) ?_
    with_reducible assumption

theorem cmdLoadChart_kept {qu : List Instr} {F : Nat} {o : State} {w : Nat} {s : State} (hF : 0x1000300024029 ||| F = F) (hk : State.Kept qu F o s) : State.Kept qu F o (cmdLoadChart w s) := by
  unfold cmdLoadChart
  extract_lets +onlyGivenNames v80
  clear_value v80
  extract_lets +onlyGivenNames v79
  clear_value v79
  refine State.kept_ite (fun _ => ?_) (fun _ => ?_)
  · refine State.refuse_kept (sub_of hF rfl) ?_
    with_reducible assumption
  · refine State.kept_ite (fun _ => ?_) (fun _ => ?_)
    · refine State.refuse_kept (sub_of hF rfl) ?_
      with_reducible assumption
    · refine State.kept_ite (fun _ => ?_) (fun _ => ?_)
      · refine State.refuse_kept (sub_of hF rfl) ?_
        with_reducible assumption
      · refine State.kept_ite (fun _ => ?_) (fun _ => ?_)
        · refine State.refuse_kept (sub_of hF rfl) ?_
          refine State.chartRefused_kept (sub_of hF rfl) ?_
          with_reducible assumption
        · extract_lets +onlyGivenNames v74
          have hv74 : State.Kept qu F o v74 := by
            unfold v74
            refine State.onSlot_kept (sub_of hF rfl) ?_
            with_reducible assumption
          clear_value v74
          refine State.startDma_kept (sub_of hF rfl) ?_ ?_
          · with_reducible assumption
          · intro s72 h71
            refine State.onSlot_kept (sub_of hF rfl) ?_
            with_reducible assumption

theorem execLoadChart_kept {qu : List Instr} {F : Nat} {o : State} {c : HostCmd} {s : State} (hF : 0x1000300024029 ||| F = F) (hk : State.Kept qu F o s) : Runs qu F o (execLoadChart c s) := by
  unfold execLoadChart
  refine runs_next ?_
  refine State.issue_kept (sub_of hF rfl) ?_ ?_
  · with_reducible assumption
  · intro x78 s77 h76
    refine cmdLoadChart_kept (sub_of hF rfl) ?_
    with_reducible assumption

theorem State.publishCheck_kept {qu : List Instr} {F : Nat} {o : State} {s : State} {slot : Nat} (hF : 0x1000200024029 ||| F = F) (hk : State.Kept qu F o s) : State.Kept qu F o (State.publishCheck s slot) := by
  unfold State.publishCheck
  refine State.kept_ite (fun _ => ?_) (fun _ => ?_)
  · extract_lets +onlyGivenNames v79
    clear_value v79
    extract_lets +onlyGivenNames v78
    have hv78 : State.Kept qu F o v78.1 := by
      unfold v78
      refine State.checkSlot_kept (sub_of hF rfl) ?_
      with_reducible assumption
    clear_value v78
    extract_lets +onlyGivenNames v77
    have hv77 : State.Kept qu F o v77 := by
      unfold v77
      refine State.onSlot_kept (sub_of hF rfl) ?_
      with_reducible assumption
    clear_value v77
    refine State.storeNext_kept (sub_of hF rfl) ?_
    refine State.kept_ite (fun _ => ?_) (fun _ => ?_)
    · refine State.complete_kept (sub_of hF rfl) ?_
      with_reducible assumption
    · refine State.refuse_kept (sub_of hF rfl) ?_
      with_reducible assumption
  · with_reducible assumption

theorem execChartCheckDone_kept {qu : List Instr} {F : Nat} {o : State} {slot : Nat} {s : State} (hF : 0x10 ||| F = F) (hk : State.Kept qu F o s) : Runs qu F o (execChartCheckDone slot s) := by
  unfold execChartCheckDone
  refine runs_next ?_
  refine State.kept_ite (fun _ => ?_) (fun _ => ?_)
  · refine State.stageResult_kept (sub_of hF rfl) ?_
    with_reducible assumption
  · with_reducible assumption

theorem cmdLightChart_kept {qu : List Instr} {F : Nat} {o : State} {w : Nat} {s : State} (hF : 0x4019 ||| F = F) (hk : State.Kept qu F o s) : State.Kept qu F o (cmdLightChart w s) := by
  unfold cmdLightChart
  refine State.kept_ite (fun _ => ?_) (fun _ => ?_)
  · refine State.refuse_kept (sub_of hF rfl) ?_
    with_reducible assumption
  · refine State.kept_ite (fun _ => ?_) (fun _ => ?_)
    · refine State.refuse_kept (sub_of hF rfl) ?_
      with_reducible assumption
    · refine State.stageInput_kept (sub_of hF rfl) ?_
      with_reducible assumption

theorem execLightChart_kept {qu : List Instr} {F : Nat} {o : State} {c : HostCmd} {s : State} (hF : 0x100004019 ||| F = F) (hk : State.Kept qu F o s) : Runs qu F o (execLightChart c s) := by
  unfold execLightChart
  refine runs_next ?_
  refine State.issue_kept (sub_of hF rfl) ?_ ?_
  · with_reducible assumption
  · intro x78 s77 h76
    refine cmdLightChart_kept (sub_of hF rfl) ?_
    with_reducible assumption

theorem State.runHeld_kept {qu : List Instr} {F : Nat} {o : State} {s : State} (hF : 0x1000200024069 ||| F = F) (hk : State.Kept qu F o s) : State.Kept qu F o (State.runHeld s) := by
  unfold State.runHeld
  refine State.kept_ite (fun _ => ?_) (fun _ => ?_)
  · with_reducible assumption
  · extract_lets +onlyGivenNames v79
    clear_value v79
    refine State.kept_foldl ?_ ?_
    · refine State.kept_chart (bit_of hF rfl) ?_
      with_reducible assumption
    · intro s77 x76 h75
      refine State.lightCommand_kept (sub_of hF rfl) ?_
      with_reducible assumption

theorem execChartAnnounceWithdrawal_kept {qu : List Instr} {F : Nat} {o : State} {s : State} (hF : 0x1000200024069 ||| F = F) (hk : State.Kept qu F o s) : Runs qu F o (execChartAnnounceWithdrawal s) := by
  unfold execChartAnnounceWithdrawal
  split
  · refine runs_next ?_
    with_reducible assumption
  · refine runs_ite (fun _ => ?_) (fun _ => ?_)
    · refine runs_next ?_
      refine State.chartWithdrawn_kept (sub_of hF rfl) ?_
      refine State.withdrawChart_kept (sub_of hF rfl) ?_
      with_reducible assumption
    · refine runs_next ?_
      with_reducible assumption

end Sys2Proof.Machine
end

