-- ==== Sys2Proof/Laws/KeptHead.lean ====
section
/-! SUPPORT. Laws/KeptHead.lean: each operation of Machine/Head.lean keeps the queue and the invariant. -/
namespace Sys2Proof.Machine

theorem State.useProposal_kept {qu : List Instr} {F : Nat} {o : State} {s : State} {r : PropReq} {b : PropBody} (hF : 0x651 ||| F = F) (hk : State.Kept qu F o s) : State.Kept qu F o (State.useProposal s r b) := by
  unfold State.useProposal
  split
  · refine State.kept_slc (bit_of hF rfl) ?_
    with_reducible assumption
  · split
    · refine State.commitPlan_kept (sub_of hF rfl) ?_
      with_reducible assumption
    · with_reducible assumption
  · refine State.kept_link (bit_of hF rfl) ?_
    with_reducible assumption
  · refine State.kept_work (bit_of hF rfl) ?_
    with_reducible assumption

theorem State.discardProposal_kept {qu : List Instr} {F : Nat} {o : State} {s : State} {stage : StageId} {core reason : Nat} (hF : 0x1000000024019 ||| F = F) (hk : State.Kept qu F o s) : State.Kept qu F o (State.discardProposal s stage core reason) := by
  unfold State.discardProposal
  refine State.logOwn_kept (sub_of hF rfl) ?_
  refine State.kept_work (bit_of hF rfl) ?_
  with_reducible assumption

theorem State.closeRequest_kept {qu : List Instr} {F : Nat} {o : State} {s : State} {n : Nat} (hF : 0x10 ||| F = F) (hk : State.Kept qu F o s) : State.Kept qu F o (State.closeRequest s n) := by
  unfold State.closeRequest
  refine State.kept_work (bit_of hF rfl) ?_
  with_reducible assumption

theorem State.onRequest_kept {qu : List Instr} {F : Nat} {o : State} {s : State} {n : Nat} {f : PropReq → PropReq} (hF : 0x10 ||| F = F) (hk : State.Kept qu F o s) : State.Kept qu F o (State.onRequest s n f) := by
  unfold State.onRequest
  refine State.kept_work (bit_of hF rfl) ?_
  with_reducible assumption

theorem execProposalArrival_kept {qu : List Instr} {F : Nat} {o : State} {p : Proposal} {s : State} (hF : 0x1000000024019 ||| F = F) (hk : State.Kept qu F o s) : Runs qu F o (execProposalArrival p s) := by
  unfold execProposalArrival
  split
  · refine runs_next ?_
    refine State.discardProposal_kept (sub_of hF rfl) ?_
    with_reducible assumption
  · extract_lets +onlyGivenNames v79
    clear_value v79
    refine runs_ite (fun _ => ?_) (fun _ => ?_)
    · refine runs_next ?_
      refine State.discardProposal_kept (sub_of hF rfl) ?_
      with_reducible assumption
    · extract_lets +onlyGivenNames v77
      have hv77 : State.Kept qu F o v77 := by
        unfold v77
        refine State.progress_kept (sub_of hF rfl) ?_
        with_reducible assumption
      clear_value v77
      refine runs_ite (fun _ => ?_) (fun _ => ?_)
      · refine runs_next ?_
        refine State.stageResult_kept (sub_of hF rfl) ?_
        refine State.onRequest_kept (sub_of hF rfl) ?_
        with_reducible assumption
      · refine runs_next ?_
        refine State.stageInput_kept (sub_of hF rfl) ?_
        refine State.onRequest_kept (sub_of hF rfl) ?_
        with_reducible assumption

theorem State.takeHeld_kept {qu : List Instr} {F : Nat} {o : State} {s : State} {n : Nat} (hF : 0x10 ||| F = F) (hk : State.Kept qu F o s) : State.Kept qu F o (State.takeHeld s n) := by
  unfold State.takeHeld
  refine State.onRequest_kept (sub_of hF rfl) ?_
  with_reducible assumption

theorem execProposalFallback_kept {qu : List Instr} {F : Nat} {o : State} {request : Nat} {s : State} (hF : 0x10000000019 ||| F = F) (hk : State.Kept qu F o s) : Runs qu F o (execProposalFallback request s) := by
  unfold execProposalFallback
  split
  · refine runs_next ?_
    with_reducible assumption
  · refine runs_ite (fun _ => ?_) (fun _ => ?_)
    · refine runs_next ?_
      with_reducible assumption
    · extract_lets +onlyGivenNames v78
      have hv78 : State.Kept qu F o v78 := by
        unfold v78
        refine State.onRequest_kept (sub_of hF rfl) ?_
        with_reducible assumption
      clear_value v78
      extract_lets +onlyGivenNames v77
      have hv77 : State.Kept qu F o v77 := by
        unfold v77
        refine State.onStage_kept (sub_of hF rfl) ?_
        with_reducible assumption
      clear_value v77
      refine runs_next ?_
      refine State.kept_ite (fun _ => ?_) (fun _ => ?_)
      · refine State.raise_kept (sub_of hF rfl) (bit_of hF rfl) ?_
        refine State.countReg_kept (bit_of hF rfl) ?_
        with_reducible assumption
      · refine State.kept_work (bit_of hF rfl) ?_
        with_reducible assumption

theorem State.applyDefault_kept {qu : List Instr} {F : Nat} {o : State} {s : State} {r : PropReq} (hF : 0x4000000659 ||| F = F) (hk : State.Kept qu F o s) : State.Kept qu F o (State.applyDefault s r) := by
  unfold State.applyDefault
  refine State.kept_ite (fun _ => ?_) (fun _ => ?_)
  · split
    · with_reducible assumption
    · split
      · refine State.useProposal_kept (sub_of hF rfl) ?_
        with_reducible assumption
      · refine State.sliceReply_kept (sub_of hF rfl) ?_
        refine State.kept_slc (bit_of hF rfl) ?_
        with_reducible assumption
  · refine State.kept_ite (fun _ => ?_) (fun _ => ?_)
    · split
      · refine State.commitPlan_kept (sub_of hF rfl) ?_
        with_reducible assumption
      · with_reducible assumption
    · with_reducible assumption

theorem State.publishAnswer_kept {qu : List Instr} {F : Nat} {o : State} {s : State} {n : Nat} (hF : 0x1004000024659 ||| F = F) (hk : State.Kept qu F o s) : State.Kept qu F o (State.publishAnswer s n) := by
  unfold State.publishAnswer
  split
  · with_reducible assumption
  · split
    · extract_lets +onlyGivenNames v78
      clear_value v78
      refine State.kept_ite (fun _ => ?_) (fun _ => ?_)
      · refine State.discardProposal_kept (sub_of hF rfl) ?_
        refine State.onRequest_kept (sub_of hF rfl) ?_
        with_reducible assumption
      · refine State.useProposal_kept (sub_of hF rfl) ?_
        refine State.closeRequest_kept (sub_of hF rfl) ?_
        with_reducible assumption
    · refine State.kept_ite (fun _ => ?_) (fun _ => ?_)
      · refine State.applyDefault_kept (sub_of hF rfl) ?_
        refine State.closeRequest_kept (sub_of hF rfl) ?_
        with_reducible assumption
      · with_reducible assumption

theorem execBatchClose_kept {qu : List Instr} {F : Nat} {o : State} {stage : StageId} {failedLanes : List Nat} {s : State} (hF : 0x1801000024179 ||| F = F) (hk : State.Kept qu F o s) : Runs qu F o (execBatchClose stage failedLanes s) := by
  unfold execBatchClose
  extract_lets +onlyGivenNames v80
  have hv80 : State.Kept qu F o v80 := by
    unfold v80
    refine State.onStage_kept (sub_of hF rfl) ?_
    with_reducible assumption
  clear_value v80
  extract_lets +onlyGivenNames v79
  have hv79 : State.Kept qu F o v79 := by
    unfold v79
    refine State.kept_ite (fun _ => ?_) (fun _ => ?_)
    · refine State.answerAnnounce_kept (sub_of hF rfl) ?_
      with_reducible assumption
    · refine State.kept_ite (fun _ => ?_) (fun _ => ?_)
      · refine State.answerBank_kept (sub_of hF rfl) ?_
        with_reducible assumption
      · with_reducible assumption
  clear_value v79
  refine runs_next ?_
  refine State.kept_ite (fun _ => ?_) (fun _ => ?_)
  · refine State.kept_foldl ?_ ?_
    · with_reducible assumption
    · intro s75 x74 h73
      refine State.laneFailed_kept (sub_of hF rfl) ?_
      with_reducible assumption
  · with_reducible assumption

theorem State.takeHead_kept {qu : List Instr} {F : Nat} {o : State} {s : State} (hF : 0x10100000050d ||| F = F) (hk : State.Kept qu F o s) : State.Kept qu F o (State.takeHead s) := by
  unfold State.takeHead
  extract_lets +onlyGivenNames v80
  clear_value v80
  extract_lets +onlyGivenNames v79
  have hv79 : State.Kept qu F o v79 := by
    unfold v79
    refine State.onClp_kept (sub_of hF rfl) ?_
    with_reducible assumption
  clear_value v79
  extract_lets +onlyGivenNames v78
  have hv78 : State.Kept qu F o v78 := by
    unfold v78
    refine State.onHead_kept (sub_of hF rfl) ?_
    with_reducible assumption
  clear_value v78
  refine State.followRoot_kept (sub_of hF rfl) ?_
  refine State.showHead_kept (sub_of hF rfl) ?_
  with_reducible assumption

theorem execActingHeadEntry_kept {qu : List Instr} {F : Nat} {o : State} {s : State} (hF : 0x10120000056d ||| F = F) (hk : State.Kept qu F o s) : Runs qu F o (execActingHeadEntry s) := by
  unfold execActingHeadEntry
  refine runs_ite (fun _ => ?_) (fun _ => ?_)
  · extract_lets +onlyGivenNames v79
    clear_value v79
    extract_lets +onlyGivenNames v78
    have hv78 : State.Kept qu F o v78 := by
      unfold v78
      refine State.kept_chart (bit_of hF rfl) ?_
      with_reducible assumption
    clear_value v78
    extract_lets +onlyGivenNames v77
    have hv77 : State.Kept qu F o v77 := by
      unfold v77
      refine State.takeHead_kept (sub_of hF rfl) ?_
      refine State.setF_kept (bit_of hF rfl) ?_
      with_reducible assumption
    clear_value v77
    refine runs_next ?_
    refine State.flood_kept (sub_of hF rfl) ?_
    with_reducible assumption
  · refine runs_next ?_
    with_reducible assumption

theorem State.announceHandback_kept {qu : List Instr} {F : Nat} {o : State} {s : State} (hF : 0x61 ||| F = F) (hk : State.Kept qu F o s) : State.Kept qu F o (State.announceHandback s) := by
  unfold State.announceHandback
  extract_lets +onlyGivenNames v80
  clear_value v80
  refine State.kept_ite (fun _ => ?_) (fun _ => ?_)
  · extract_lets +onlyGivenNames v78
    clear_value v78
    refine State.flood_kept (sub_of hF rfl) ?_
    refine State.kept_chart (bit_of hF rfl) ?_
    with_reducible assumption
  · with_reducible assumption

theorem State.gotHeadBeat_kept {qu : List Instr} {F : Nat} {o : State} {s : State} {_src : Addr} {m : KMsg} (hF : 0x200000069 ||| F = F) (hk : State.Kept qu F o s) : State.Kept qu F o (State.gotHeadBeat s _src m) := by
  unfold State.gotHeadBeat
  refine State.announceHandback_kept (sub_of hF rfl) ?_
  refine State.judgeMismatch_kept (sub_of hF rfl) ?_
  refine State.kept_chart (bit_of hF rfl) ?_
  with_reducible assumption

theorem execHeadBeat_kept {qu : List Instr} {F : Nat} {o : State} {port : Nat} {p : Packet} {s : State} (hF : 0x1001200024179 ||| F = F) (hk : State.Kept qu F o s) : Runs qu F o (execHeadBeat port p s) := by
  unfold execHeadBeat
  refine runs_next ?_
  refine State.takeMsg_kept (sub_of hF rfl) ?_ ?_
  · with_reducible assumption
  · intro s78 x77 x76 h75
    refine State.gotHeadBeat_kept (sub_of hF rfl) ?_
    with_reducible assumption

theorem State.gotHandback_kept {qu : List Instr} {F : Nat} {o : State} {s : State} {_src : Addr} {m : KMsg} (hF : 0x20 ||| F = F) (hk : State.Kept qu F o s) : State.Kept qu F o (State.gotHandback s _src m) := by
  unfold State.gotHandback
  refine State.kept_chart (bit_of hF rfl) ?_
  with_reducible assumption

theorem execHandback_kept {qu : List Instr} {F : Nat} {o : State} {port : Nat} {p : Packet} {s : State} (hF : 0x1001000024179 ||| F = F) (hk : State.Kept qu F o s) : Runs qu F o (execHandback port p s) := by
  unfold execHandback
  refine runs_next ?_
  refine State.takeMsg_kept (sub_of hF rfl) ?_ ?_
  · with_reducible assumption
  · intro s78 x77 x76 h75
    refine State.gotHandback_kept (sub_of hF rfl) ?_
    with_reducible assumption

theorem execHandbackFlash_kept {qu : List Instr} {F : Nat} {o : State} {s : State} (hF : 0x10120000052d ||| F = F) (hk : State.Kept qu F o s) : Runs qu F o (execHandbackFlash s) := by
  unfold execHandbackFlash
  split
  · refine runs_next ?_
    with_reducible assumption
  · refine runs_ite (fun _ => ?_) (fun _ => ?_)
    · refine runs_next ?_
      with_reducible assumption
    · extract_lets +onlyGivenNames v78
      clear_value v78
      extract_lets +onlyGivenNames v77
      have hv77 : State.Kept qu F o v77 := by
        unfold v77
        refine State.kept_chart (bit_of hF rfl) ?_
        with_reducible assumption
      clear_value v77
      extract_lets +onlyGivenNames v76
      have hv76 : State.Kept qu F o v76 := by
        unfold v76
        refine State.setF_kept (bit_of hF rfl) ?_
        with_reducible assumption
      clear_value v76
      refine runs_next ?_
      refine State.kept_ite (fun _ => ?_) (fun _ => ?_)
      · refine State.takeHead_kept (sub_of hF rfl) ?_
        with_reducible assumption
      · refine State.followRoot_kept (sub_of hF rfl) ?_
        refine State.showHead_kept (sub_of hF rfl) ?_
        with_reducible assumption

end Sys2Proof.Machine
end

