-- ==== Sys2Proof/Laws/KeptLamp.lean ====
section
/-! SUPPORT. Laws/KeptLamp.lean: each operation of Machine/Lamp.lean keeps the queue and the invariant. -/
namespace Sys2Proof.Machine

theorem State.firstMismatch_kept {qu : List Instr} {F : Nat} {o : State} {s : State} {lamp lane path slice ctx : Nat} {second : Bool} (hF : 0x1840000024809 ||| F = F) (hk : State.Kept qu F o s) : State.Kept qu F o (State.firstMismatch s lamp lane path slice ctx second) := by
  unfold State.firstMismatch
  extract_lets +onlyGivenNames v80
  clear_value v80
  extract_lets +onlyGivenNames v79
  have hv79 : State.Kept qu F o v79 := by
    unfold v79
    refine State.logOwn_kept (sub_of hF rfl) ?_
    refine State.countReg_kept (bit_of hF rfl) ?_
    refine State.setReg_kept (bit_of hF rfl) ?_
    with_reducible assumption
  clear_value v79
  extract_lets +onlyGivenNames v78
  clear_value v78
  extract_lets +onlyGivenNames v77
  clear_value v77
  extract_lets +onlyGivenNames v76
  clear_value v76
  extract_lets +onlyGivenNames v75
  clear_value v75
  extract_lets +onlyGivenNames v74
  have hv74 : State.Kept qu F o v74 := by
    unfold v74
    refine State.raise_kept (sub_of hF rfl) (bit_of hF rfl) ?_
    refine State.kept_lmp (bit_of hF rfl) ?_
    with_reducible assumption
  clear_value v74
  refine State.kept_ite (fun _ => ?_) (fun _ => ?_)
  · refine State.retireLamp_kept (sub_of hF rfl) ?_
    with_reducible assumption
  · with_reducible assumption

theorem State.poolLost_kept {qu : List Instr} {F : Nat} {o : State} {s : State} {pool : Option Nat} (hF : 0x4c1 ||| F = F) (hk : State.Kept qu F o s) : State.Kept qu F o (State.poolLost s pool) := by
  unfold State.poolLost
  split
  · with_reducible assumption
  · refine State.kept_ite (fun _ => ?_) (fun _ => ?_)
    · with_reducible assumption
    · refine State.kept_foldl ?_ ?_
      · with_reducible assumption
      · intro s77 x76 h75
        refine State.recoverReq_kept (sub_of hF rfl) ?_
        refine State.loadSlots_kept (sub_of hF rfl) ?_
        with_reducible assumption

theorem State.spillPacket_kept {qu : List Instr} {F : Nat} {o : State} {s : State} {w : SpillIn} (hF : 0x100400 ||| F = F) (hk : State.Kept qu F o s) : State.Kept qu F o (State.spillPacket s w) := by
  unfold State.spillPacket
  split
  · with_reducible assumption
  · refine State.kept_foldl ?_ ?_
    · with_reducible assumption
    · intro s78 x77 h76
      split
      · extract_lets +onlyGivenNames v74
        have hv74 : State.Kept qu F o v74.1 := by
          unfold v74
          refine State.spillData_kept (sub_of hF rfl) ?_
          with_reducible assumption
        clear_value v74
        refine State.onPlace_kept (sub_of hF rfl) ?_
        with_reducible assumption
      · with_reducible assumption

theorem execLampUnitDone_kept {qu : List Instr} {F : Nat} {o : State} {lamp unit : Nat} {first : Option (Nat × Nat)} {second : Bool} {line : Option Bool} {s : State} (hF : 0x1840000164cc9 ||| F = F) (hk : State.Kept qu F o s) : Runs qu F o (execLampUnitDone lamp unit first second line s) := by
  unfold execLampUnitDone
  split
  · refine runs_next ?_
    with_reducible assumption
  · extract_lets +onlyGivenNames v79
    clear_value v79
    extract_lets +onlyGivenNames v78
    clear_value v78
    refine runs_ite (fun _ => ?_) (fun _ => ?_)
    · refine runs_next ?_
      with_reducible assumption
    · refine runs_ite (fun _ => ?_) (fun _ => ?_)
      · refine runs_next ?_
        refine State.holdSpill_kept (sub_of hF rfl) ?_
        with_reducible assumption
      · extract_lets +onlyGivenNames v75
        have hv75 : State.Kept qu F o v75 := by
          unfold v75
          refine State.progress_kept (sub_of hF rfl) ?_
          with_reducible assumption
        clear_value v75
        extract_lets +onlyGivenNames v74
        clear_value v74
        extract_lets +onlyGivenNames v73
        have hv73 : State.Kept qu F o v73 := by
          unfold v73
          refine State.kept_lmp (bit_of hF rfl) ?_
          with_reducible assumption
        clear_value v73
        extract_lets +onlyGivenNames v72
        split
        · refine runs_next ?_
          unfold v72
          refine State.discardPlace_kept (sub_of hF rfl) ?_
          refine State.kept_ite (fun _ => ?_) (fun _ => ?_)
          · refine State.raise_kept (sub_of hF rfl) (bit_of hF rfl) ?_
            refine State.countReg_kept (bit_of hF rfl) ?_
            with_reducible assumption
          · refine State.raise_kept (sub_of hF rfl) (bit_of hF rfl) ?_
            refine State.countReg_kept (bit_of hF rfl) ?_
            with_reducible assumption
        · extract_lets +onlyGivenNames v70
          clear_value v70
          extract_lets +onlyGivenNames v69
          have hv69 : State.Kept qu F o v69 := by
            unfold v69
            refine State.kept_ite (fun _ => ?_) (fun _ => ?_)
            · refine State.raise_kept (sub_of hF rfl) (bit_of hF rfl) ?_
              refine State.setF_kept (bit_of hF rfl) ?_
              with_reducible assumption
            · with_reducible assumption
          clear_value v69
          extract_lets +onlyGivenNames v68
          have hv68 : State.Kept qu F o v68 := by
            unfold v68
            split
            · refine State.firstMismatch_kept (sub_of hF rfl) ?_
              with_reducible assumption
            · with_reducible assumption
          clear_value v68
          refine runs_ite (fun _ => ?_) (fun _ => ?_)
          · refine runs_ite (fun _ => ?_) (fun _ => ?_)
            · refine runs_next ?_
              refine State.poolLost_kept (sub_of hF rfl) ?_
              unfold v72
              refine State.discardPlace_kept (sub_of hF rfl) ?_
              refine State.kept_ite (fun _ => ?_) (fun _ => ?_)
              · refine State.raise_kept (sub_of hF rfl) (bit_of hF rfl) ?_
                refine State.countReg_kept (bit_of hF rfl) ?_
                with_reducible assumption
              · refine State.raise_kept (sub_of hF rfl) (bit_of hF rfl) ?_
                refine State.countReg_kept (bit_of hF rfl) ?_
                with_reducible assumption
            · extract_lets +onlyGivenNames v65
              clear_value v65
              extract_lets +onlyGivenNames v64
              have hv64 : State.Kept qu F o v64 := by
                unfold v64
                refine State.kept_lmp (bit_of hF rfl) ?_
                with_reducible assumption
              clear_value v64
              refine runs_next ?_
              refine State.poolLost_kept (sub_of hF rfl) ?_
              refine State.retireLamp_kept (sub_of hF rfl) ?_
              with_reducible assumption
          · extract_lets +onlyGivenNames v66
            clear_value v66
            extract_lets +onlyGivenNames v65
            have hv65 : State.Kept qu F o v65 := by
              unfold v65
              refine State.runUnit_kept (sub_of hF rfl) ?_
              refine State.kept_lmp (bit_of hF rfl) ?_
              with_reducible assumption
            clear_value v65
            refine runs_next ?_
            refine State.poolLost_kept (sub_of hF rfl) ?_
            with_reducible assumption

theorem execSpillWriteDone_kept {qu : List Instr} {F : Nat} {o : State} {s : State} (hF : 0x104c01 ||| F = F) (hk : State.Kept qu F o s) : Runs qu F o (execSpillWriteDone s) := by
  unfold execSpillWriteDone
  split
  · refine runs_next ?_
    with_reducible assumption
  · refine runs_ite (fun _ => ?_) (fun _ => ?_)
    · refine runs_next ?_
      refine State.holdSpill_kept (sub_of hF rfl) ?_
      with_reducible assumption
    · extract_lets +onlyGivenNames v78
      clear_value v78
      extract_lets +onlyGivenNames v77
      have hv77 : State.Kept qu F o v77 := by
        unfold v77
        refine State.kept_lmp (bit_of hF rfl) ?_
        with_reducible assumption
      clear_value v77
      refine runs_next ?_
      refine State.progress_kept (sub_of hF rfl) ?_
      refine State.send_kept (sub_of hF rfl) ?_
      refine State.spillPacket_kept (sub_of hF rfl) ?_
      with_reducible assumption

theorem State.bringWithheldLamps_kept {qu : List Instr} {F : Nat} {o : State} {s : State} (hF : 0x1840000024809 ||| F = F) (hk : State.Kept qu F o s) : State.Kept qu F o (State.bringWithheldLamps s) := by
  unfold State.bringWithheldLamps
  extract_lets +onlyGivenNames v80
  clear_value v80
  refine State.showLamps_kept (sub_of hF rfl) ?_
  refine State.kept_foldl ?_ ?_
  · with_reducible assumption
  · intro s77 x76 h75
    refine State.bringLamp_kept (sub_of hF rfl) ?_
    with_reducible assumption

end Sys2Proof.Machine
end

