-- ==== Sys2Proof/Laws/KeptMgmt.lean ====
section
/-! SUPPORT. Laws/KeptMgmt.lean: each operation of Machine/Mgmt.lean keeps the queue and the invariant. -/
namespace Sys2Proof.Machine

theorem State.adopted_kept {qu : List Instr} {F : Nat} {o : State} {s : State} (hF : 0x400000000000 ||| F = F) (hk : State.Kept qu F o s) : State.Kept qu F o (State.adopted s) := by
  unfold State.adopted
  refine State.count_kept (bit_of hF rfl) ?_
  with_reducible assumption

theorem State.replaySlot_kept {qu : List Instr} {F : Nat} {o : State} {s : State} {a : Addr} {r : JournalRec} (hF : 0x4d0000001cc9 ||| F = F) (hk : State.Kept qu F o s) : State.Kept qu F o (State.replaySlot s a r) := by
  unfold State.replaySlot
  extract_lets +onlyGivenNames v80
  clear_value v80
  extract_lets +onlyGivenNames v79
  clear_value v79
  split
  · refine State.mgmtWrite_kept (sub_of hF rfl) ?_
    with_reducible assumption
  · extract_lets +onlyGivenNames v77
    have hv77 : State.Kept qu F o v77 := by
      unfold v77
      refine State.adopted_kept (sub_of hF rfl) ?_
      with_reducible assumption
    clear_value v77
    refine State.kept_ite (fun _ => ?_) (fun _ => ?_)
    · refine State.freePlan_kept (sub_of hF rfl) ?_
      with_reducible assumption
    · extract_lets +onlyGivenNames v75
      have hv75 : State.Kept qu F o v75 := by
        unfold v75
        refine State.onPlan_kept (sub_of hF rfl) ?_
        with_reducible assumption
      clear_value v75
      refine State.kept_ite (fun _ => ?_) (fun _ => ?_)
      · refine State.enablePlan_kept (sub_of hF rfl) ?_
        with_reducible assumption
      · refine State.kept_ite (fun _ => ?_) (fun _ => ?_)
        · refine State.onPlan_kept (sub_of hF rfl) ?_
          with_reducible assumption
        · with_reducible assumption

theorem State.replayLight_kept {qu : List Instr} {F : Nat} {o : State} {s : State} {r : JournalRec} (hF : 0x14d5400135fd9 ||| F = F) (hk : State.Kept qu F o s) : State.Kept qu F o (State.replayLight s r) := by
  unfold State.replayLight
  extract_lets +onlyGivenNames v80
  clear_value v80
  refine State.kept_ite (fun _ => ?_) (fun _ => ?_)
  · refine State.setPair_kept (bit_of hF rfl) (bit_of hF rfl) ?_
    refine State.adopted_kept (sub_of hF rfl) ?_
    refine State.lightNow_kept (sub_of hF rfl) ?_
    with_reducible assumption
  · with_reducible assumption

theorem State.rewriteRegs_kept {qu : List Instr} {F : Nat} {o : State} {s : State} {a : Addr} (hF : 0xc0 ||| F = F) (hk : State.Kept qu F o s) : State.Kept qu F o (State.rewriteRegs s a) := by
  unfold State.rewriteRegs
  extract_lets +onlyGivenNames v80
  extract_lets +onlyGivenNames v79
  have hv79 : State.Kept qu F o v79 := by
    unfold v79
    unfold v80
    refine State.mgmtWrite_kept (sub_of hF rfl) ?_
    refine State.mgmtWrite_kept (sub_of hF rfl) ?_
    refine State.mgmtWrite_kept (sub_of hF rfl) ?_
    with_reducible assumption
  clear_value v79
  extract_lets +onlyGivenNames v78
  have hv78 : State.Kept qu F o v78 := by
    unfold v78
    refine State.mgmtWrite_kept (sub_of hF rfl) ?_
    with_reducible assumption
  clear_value v78
  refine State.kept_ite (fun _ => ?_) (fun _ => ?_)
  · unfold v80
    refine State.mgmtWrite_kept (sub_of hF rfl) ?_
    refine State.mgmtWrite_kept (sub_of hF rfl) ?_
    with_reducible assumption
  · with_reducible assumption

theorem State.sealShown_kept {qu : List Instr} {F : Nat} {o : State} {s : State} {slice : Nat} {a : Addr} {issue : Word} (hF : 0x10000 ||| F = F) (hk : State.Kept qu F o s) : State.Kept qu F o (State.sealShown s slice a issue) := by
  unfold State.sealShown
  refine State.onWdn_kept (sub_of hF rfl) ?_
  with_reducible assumption

theorem State.replay_kept {qu : List Instr} {F : Nat} {o : State} {s : State} {a : Addr} {r : JournalRec} (hF : 0x14d5400135fd9 ||| F = F) (hk : State.Kept qu F o s) : State.Kept qu F o (State.replay s a r) := by
  unfold State.replay
  extract_lets +onlyGivenNames v80
  clear_value v80
  split
  · refine State.replayLight_kept (sub_of hF rfl) ?_
    with_reducible assumption
  · refine State.kept_ite (fun _ => ?_) (fun _ => ?_)
    · refine State.adopted_kept (sub_of hF rfl) ?_
      refine State.confirmBank_kept (sub_of hF rfl) ?_
      with_reducible assumption
    · with_reducible assumption
  · refine State.kept_ite (fun _ => ?_) (fun _ => ?_)
    · refine State.armAgain_kept (sub_of hF rfl) ?_
      with_reducible assumption
    · refine State.mgmtWrite_kept (sub_of hF rfl) ?_
      with_reducible assumption
  · refine State.replaySlot_kept (sub_of hF rfl) ?_
    with_reducible assumption
  · split
    · refine State.adopted_kept (sub_of hF rfl) ?_
      refine State.onPlan_kept (sub_of hF rfl) ?_
      with_reducible assumption
    · with_reducible assumption
  · refine State.kept_ite (fun _ => ?_) (fun _ => ?_)
    · refine State.adopted_kept (sub_of hF rfl) ?_
      with_reducible assumption
    · refine State.mgmtWrite_kept (sub_of hF rfl) ?_
      with_reducible assumption
  · refine State.adopted_kept (sub_of hF rfl) ?_
    refine State.kept_lnt (bit_of hF rfl) ?_
    with_reducible assumption
  · extract_lets +onlyGivenNames v78
    clear_value v78
    extract_lets +onlyGivenNames v77
    clear_value v77
    refine State.adopted_kept (sub_of hF rfl) ?_
    refine State.showVetoes_kept (sub_of hF rfl) ?_
    refine State.kept_slv (bit_of hF rfl) ?_
    with_reducible assumption
  · refine State.adopted_kept (sub_of hF rfl) ?_
    refine State.sealShown_kept (sub_of hF rfl) ?_
    with_reducible assumption
  · extract_lets +onlyGivenNames v78
    clear_value v78
    refine State.kept_foldl ?_ ?_
    · refine State.auditAgent_kept (sub_of hF rfl) ?_
      with_reducible assumption
    · intro s76 x75 h74
      refine State.auditPlan_kept (sub_of hF rfl) ?_
      with_reducible assumption
  · refine State.rewriteRegs_kept (sub_of hF rfl) ?_
    with_reducible assumption
  · with_reducible assumption

theorem State.slotBack_kept {qu : List Instr} {F : Nat} {o : State} {s : State} {a : Addr} {ctx : Nat} {words : List Word} (hF : 0xd00000014c9 ||| F = F) (hk : State.Kept qu F o s) : State.Kept qu F o (State.slotBack s a ctx words) := by
  unfold State.slotBack
  extract_lets +onlyGivenNames v80
  clear_value v80
  extract_lets +onlyGivenNames v79
  clear_value v79
  extract_lets +onlyGivenNames v78
  clear_value v78
  extract_lets +onlyGivenNames v77
  have hv77 : State.Kept qu F o v77 := by
    unfold v77
    refine State.onPlan_kept (sub_of hF rfl) ?_
    with_reducible assumption
  clear_value v77
  extract_lets +onlyGivenNames v76
  have hv76 : State.Kept qu F o v76 := by
    unfold v76
    refine State.kept_ite (fun _ => ?_) (fun _ => ?_)
    · with_reducible assumption
    · split
      · refine State.kept_ite (fun _ => ?_) (fun _ => ?_)
        · refine State.enablePlan_kept (sub_of hF rfl) ?_
          with_reducible assumption
        · refine State.kept_ite (fun _ => ?_) (fun _ => ?_)
          · refine State.onPlan_kept (sub_of hF rfl) ?_
            with_reducible assumption
          · with_reducible assumption
      · with_reducible assumption
  clear_value v76
  split
  · refine State.rewritePlanAt_kept (sub_of hF rfl) ?_
    with_reducible assumption
  · with_reducible assumption

theorem State.journalShort_kept {qu : List Instr} {F : Nat} {o : State} {s : State} {a : Addr} (hF : 0x4000000000c0 ||| F = F) (hk : State.Kept qu F o s) : State.Kept qu F o (State.journalShort s a) := by
  unfold State.journalShort
  extract_lets +onlyGivenNames v80
  have hv80 : State.Kept qu F o v80 := by
    unfold v80
    refine State.rewriteRegs_kept (sub_of hF rfl) ?_
    refine State.mgmtWrite_kept (sub_of hF rfl) ?_
    refine State.count_kept (bit_of hF rfl) ?_
    with_reducible assumption
  clear_value v80
  extract_lets +onlyGivenNames v79
  have hv79 : State.Kept qu F o v79 := by
    unfold v79
    refine State.kept_ite (fun _ => ?_) (fun _ => ?_)
    · refine State.kept_foldl ?_ ?_
      · with_reducible assumption
      · intro s76 x75 h74
        refine State.rewritePlanAt_kept (sub_of hF rfl) ?_
        with_reducible assumption
    · refine State.kept_foldl ?_ ?_
      · refine State.rewriteEndpoint_kept (sub_of hF rfl) ?_
        with_reducible assumption
      · intro s76 x75 h74
        refine State.mgmtRead_kept (sub_of hF rfl) ?_
        with_reducible assumption
  clear_value v79
  refine State.restoreBanks_kept (sub_of hF rfl) ?_
  with_reducible assumption

theorem State.journalRead_kept {qu : List Instr} {F : Nat} {o : State} {s : State} {op : MgmtOp} {words : List Word} (hF : 0x14d5400137fd9 ||| F = F) (hk : State.Kept qu F o s) : State.Kept qu F o (State.journalRead s op words) := by
  unfold State.journalRead
  extract_lets +onlyGivenNames v80
  clear_value v80
  extract_lets +onlyGivenNames v79
  refine State.kept_ite (fun _ => ?_) (fun _ => ?_)
  · extract_lets +onlyGivenNames v77
    clear_value v77
    extract_lets +onlyGivenNames v76
    clear_value v76
    refine State.kept_ite (fun _ => ?_) (fun _ => ?_)
    · unfold v79
      refine State.onMor_kept (sub_of hF rfl) ?_ ?_ ?_
      · refine State.journalShort_kept (sub_of hF rfl) ?_
        with_reducible assumption
      · intro x72
        rfl
      · intro x72
        rfl
    · refine State.kept_ite (fun _ => ?_) (fun _ => ?_)
      · unfold v79
        refine State.onMor_kept (sub_of hF rfl) ?_ ?_ ?_
        · with_reducible assumption
        · intro x71
          rfl
        · intro x71
          rfl
      · extract_lets +onlyGivenNames v73
        have hv73 : State.Kept qu F o v73 := by
          unfold v73
          refine State.mgmtRead_kept (sub_of hF rfl) ?_
          with_reducible assumption
        clear_value v73
        refine State.kept_ite (fun _ => ?_) (fun _ => ?_)
        · refine State.mgmtRead_kept (sub_of hF rfl) ?_
          with_reducible assumption
        · with_reducible assumption
  · extract_lets +onlyGivenNames v77
    clear_value v77
    extract_lets +onlyGivenNames v76
    clear_value v76
    extract_lets +onlyGivenNames v75
    have hv75 : State.Kept qu F o v75 := by
      unfold v75
      refine State.setF_kept (bit_of hF rfl) ?_
      with_reducible assumption
    clear_value v75
    unfold v79
    refine State.onMor_kept (sub_of hF rfl) ?_ ?_ ?_
    · refine State.kept_foldl ?_ ?_
      · with_reducible assumption
      · intro s71 x70 h69
        refine State.replay_kept (sub_of hF rfl) ?_
        with_reducible assumption
    · intro x72
      rfl
    · intro x72
      rfl

theorem State.auditReply_kept {qu : List Instr} {F : Nat} {o : State} {s : State} {op : MgmtOp} {bank : Nat} {words : List Word} (hF : 0xc0 ||| F = F) (hk : State.Kept qu F o s) : State.Kept qu F o (State.auditReply s op bank words) := by
  unfold State.auditReply
  extract_lets +onlyGivenNames v80
  clear_value v80
  refine State.kept_ite (fun _ => ?_) (fun _ => ?_)
  · refine State.mgmtRead_kept (sub_of hF rfl) ?_
    with_reducible assumption
  · extract_lets +onlyGivenNames v78
    clear_value v78
    refine State.kept_ite (fun _ => ?_) (fun _ => ?_)
    · with_reducible assumption
    · extract_lets +onlyGivenNames v76
      clear_value v76
      refine State.kept_ite (fun _ => ?_) (fun _ => ?_)
      · with_reducible assumption
      · refine State.kept_ite (fun _ => ?_) (fun _ => ?_)
        · refine State.repairLit_kept (sub_of hF rfl) ?_
          with_reducible assumption
        · refine State.repairDark_kept (sub_of hF rfl) ?_
          with_reducible assumption

theorem State.auditPlanReply_kept {qu : List Instr} {F : Nat} {o : State} {s : State} {op : MgmtOp} {ctx : Nat} {words : List Word} (hF : 0x100000004c9 ||| F = F) (hk : State.Kept qu F o s) : State.Kept qu F o (State.auditPlanReply s op ctx words) := by
  unfold State.auditPlanReply
  split
  · with_reducible assumption
  · refine State.kept_ite (fun _ => ?_) (fun _ => ?_)
    · refine State.mgmtRead_kept (sub_of hF rfl) ?_
      with_reducible assumption
    · extract_lets +onlyGivenNames v78
      extract_lets +onlyGivenNames v77
      clear_value v77
      refine State.kept_ite (fun _ => ?_) (fun _ => ?_)
      · with_reducible assumption
      · extract_lets +onlyGivenNames v75
        have hv75 : State.Kept qu F o v75 := by
          unfold v75
          refine State.rewritePlanAt_kept (sub_of hF rfl) ?_
          with_reducible assumption
        clear_value v75
        refine State.kept_ite (fun _ => ?_) (fun _ => ?_)
        · refine State.losePlane_kept (sub_of hF rfl) ?_
          with_reducible assumption
        · with_reducible assumption

theorem State.goTaken_kept {qu : List Instr} {F : Nat} {o : State} {s : State} {a : Addr} (hF : 0x1000000100 ||| F = F) (hk : State.Kept qu F o s) : State.Kept qu F o (State.goTaken s a) := by
  unfold State.goTaken
  extract_lets +onlyGivenNames v80
  clear_value v80
  extract_lets +onlyGivenNames v79
  have hv79 : State.Kept qu F o v79 := by
    unfold v79
    refine State.kept_slv (bit_of hF rfl) ?_
    with_reducible assumption
  clear_value v79
  refine State.kept_ite (fun _ => ?_) (fun _ => ?_)
  · refine State.setF_kept (bit_of hF rfl) ?_
    with_reducible assumption
  · with_reducible assumption

theorem State.opFailed_kept {qu : List Instr} {F : Nat} {o : State} {s : State} {op : MgmtOp} (hF : 0x14000000265c9 ||| F = F) (hk : State.Kept qu F o s) : State.Kept qu F o (State.opFailed s op) := by
  unfold State.opFailed
  split
  · refine State.kept_ite (fun _ => ?_) (fun _ => ?_)
    · refine State.countOut_kept (sub_of hF rfl) ?_
      with_reducible assumption
    · with_reducible assumption
  · refine State.kept_ite (fun _ => ?_) (fun _ => ?_)
    · refine State.countOut_kept (sub_of hF rfl) ?_
      with_reducible assumption
    · with_reducible assumption
  · refine State.kept_ite (fun _ => ?_) (fun _ => ?_)
    · refine State.armFailed_kept (sub_of hF rfl) ?_
      with_reducible assumption
    · with_reducible assumption
  · refine State.kept_ite (fun _ => ?_) (fun _ => ?_)
    · refine State.planReply_kept (sub_of hF rfl) ?_
      with_reducible assumption
    · refine State.tryCleared_kept (sub_of hF rfl) ?_
      with_reducible assumption
  · refine State.freezeReply_kept (sub_of hF rfl) ?_
    with_reducible assumption
  · refine State.refuse_kept (sub_of hF rfl) ?_
    with_reducible assumption
  · refine State.refuse_kept (sub_of hF rfl) ?_
    with_reducible assumption
  · refine State.onMor_kept (sub_of hF rfl) ?_ ?_ ?_
    · refine State.journalShort_kept (sub_of hF rfl) ?_
      with_reducible assumption
    · intro x78
      rfl
    · intro x78
      rfl
  · with_reducible assumption

theorem State.opReply_kept {qu : List Instr} {F : Nat} {o : State} {s : State} {op : MgmtOp} {status : Nat} {words : List Word} (hF : 0x14d5500137fd9 ||| F = F) (hk : State.Kept qu F o s) : State.Kept qu F o (State.opReply s op status words) := by
  unfold State.opReply
  extract_lets +onlyGivenNames v80
  clear_value v80
  split
  · refine State.kept_ite (fun _ => ?_) (fun _ => ?_)
    · refine State.refuse_kept (sub_of hF rfl) ?_
      with_reducible assumption
    · refine State.kept_ite (fun _ => ?_) (fun _ => ?_)
      · refine State.refuse_kept (sub_of hF rfl) ?_
        refine State.dmaErr_kept (sub_of hF rfl) ?_
        with_reducible assumption
      · refine State.complete_kept (sub_of hF rfl) ?_
        refine State.dmaWrite_kept (sub_of hF rfl) ?_
        with_reducible assumption
  · refine State.kept_ite (fun _ => ?_) (fun _ => ?_)
    · refine State.refuse_kept (sub_of hF rfl) ?_
      with_reducible assumption
    · refine State.completeAfter_kept (sub_of hF rfl) ?_
      with_reducible assumption
  · refine State.freezeReply_kept (sub_of hF rfl) ?_
    with_reducible assumption
  · refine State.kept_ite (fun _ => ?_) (fun _ => ?_)
    · refine State.request_kept (sub_of hF rfl) ?_
      with_reducible assumption
    · split
      · refine State.kept_ite (fun _ => ?_) (fun _ => ?_)
        · with_reducible assumption
        · refine State.nbrRead_kept (sub_of hF rfl) ?_
          with_reducible assumption
      · refine State.bankReply_kept (sub_of hF rfl) ?_
        with_reducible assumption
      · refine State.bankReply_kept (sub_of hF rfl) ?_
        with_reducible assumption
      · refine State.kept_ite (fun _ => ?_) (fun _ => ?_)
        · refine State.opFailed_kept (sub_of hF rfl) ?_
          with_reducible assumption
        · refine State.onCycle_kept (sub_of hF rfl) ?_
          with_reducible assumption
      · refine State.kept_ite (fun _ => ?_) (fun _ => ?_)
        · with_reducible assumption
        · refine State.goTaken_kept (sub_of hF rfl) ?_
          with_reducible assumption
      · refine State.kept_ite (fun _ => ?_) (fun _ => ?_)
        · refine State.planReply_kept (sub_of hF rfl) ?_
          with_reducible assumption
        · refine State.tryCleared_kept (sub_of hF rfl) ?_
          with_reducible assumption
      · refine State.kept_ite (fun _ => ?_) (fun _ => ?_)
        · with_reducible assumption
        · refine State.sealShown_kept (sub_of hF rfl) ?_
          with_reducible assumption
      · refine State.kept_ite (fun _ => ?_) (fun _ => ?_)
        · with_reducible assumption
        · refine State.auditReply_kept (sub_of hF rfl) ?_
          with_reducible assumption
      · refine State.kept_ite (fun _ => ?_) (fun _ => ?_)
        · with_reducible assumption
        · refine State.auditPlanReply_kept (sub_of hF rfl) ?_
          with_reducible assumption
      · refine State.kept_ite (fun _ => ?_) (fun _ => ?_)
        · with_reducible assumption
        · refine State.slotBack_kept (sub_of hF rfl) ?_
          with_reducible assumption
      · refine State.kept_ite (fun _ => ?_) (fun _ => ?_)
        · refine State.opFailed_kept (sub_of hF rfl) ?_
          with_reducible assumption
        · refine State.journalRead_kept (sub_of hF rfl) ?_
          with_reducible assumption
      · with_reducible assumption

theorem State.dropOp_kept {qu : List Instr} {F : Nat} {o : State} {s : State} {tag : Nat} (hF : 0x80 ||| F = F) (hk : State.Kept qu F o s) : State.Kept qu F o (State.dropOp s tag) := by
  unfold State.dropOp
  refine State.kept_mgmt (bit_of hF rfl) ?_
  with_reducible assumption

theorem execMgmtReply_kept {qu : List Instr} {F : Nat} {o : State} {port : Nat} {p : Packet} {s : State} (hF : 0x14d5500137fd9 ||| F = F) (hk : State.Kept qu F o s) : Runs qu F o (execMgmtReply port p s) := by
  unfold execMgmtReply
  extract_lets +onlyGivenNames v80
  clear_value v80
  extract_lets +onlyGivenNames v79
  have hv79 : State.Kept qu F o v79 := by
    unfold v79
    refine State.received_kept (sub_of hF rfl) ?_
    with_reducible assumption
  clear_value v79
  split
  · rename_i n78_0 n78_1 n78_2
    have hn78_2 : State.Kept qu F o n78_1 := by
      refine State.refused_kept (sub_of hF rfl) ?_ _ n78_2
      with_reducible assumption
    refine runs_next ?_
    with_reducible assumption
  · extract_lets +onlyGivenNames v77
    clear_value v77
    refine runs_ite (fun _ => ?_) (fun _ => ?_)
    · refine runs_next ?_
      refine State.refusePacket_kept (sub_of hF rfl) ?_
      with_reducible assumption
    · refine runs_ite (fun _ => ?_) (fun _ => ?_)
      · refine runs_next ?_
        refine State.staleGen_kept (sub_of hF rfl) ?_
        with_reducible assumption
      · extract_lets +onlyGivenNames v74
        have hv74 : State.Kept qu F o v74 := by
          unfold v74
          refine State.returnCredits_kept (sub_of hF rfl) ?_
          with_reducible assumption
        clear_value v74
        split
        · refine runs_next ?_
          with_reducible assumption
        · refine runs_next ?_
          refine State.progress_kept (sub_of hF rfl) ?_
          refine State.opReply_kept (sub_of hF rfl) ?_
          refine State.dropOp_kept (sub_of hF rfl) ?_
          with_reducible assumption

theorem execMgmtResend_kept {qu : List Instr} {F : Nat} {o : State} {tag : BitVec 12} {s : State} (hF : 0x1c04000077ddb ||| F = F) (hk : State.Kept qu F o s) : Runs qu F o (execMgmtResend tag s) := by
  unfold execMgmtResend
  split
  · refine runs_next ?_
    with_reducible assumption
  · refine runs_ite (fun _ => ?_) (fun _ => ?_)
    · refine runs_next ?_
      with_reducible assumption
    · refine runs_ite (fun _ => ?_) (fun _ => ?_)
      · extract_lets +onlyGivenNames v77
        clear_value v77
        extract_lets +onlyGivenNames v76
        clear_value v76
        extract_lets +onlyGivenNames v75
        have hv75 : State.Kept qu F o v75 := by
          unfold v75
          refine State.kept_mgmt (bit_of hF rfl) ?_
          with_reducible assumption
        clear_value v75
        refine runs_next ?_
        refine State.kept_ite (fun _ => ?_) (fun _ => ?_)
        · refine State.sendMgmt_kept (sub_of hF rfl) ?_
          with_reducible assumption
        · with_reducible assumption
      · extract_lets +onlyGivenNames v77
        have hv77 : State.Kept qu F o v77 := by
          unfold v77
          refine State.dropOp_kept (sub_of hF rfl) ?_
          with_reducible assumption
        clear_value v77
        extract_lets +onlyGivenNames v76
        clear_value v76
        extract_lets +onlyGivenNames v75
        have hv75 : State.Kept qu F o v75 := by
          unfold v75
          refine State.kept_mgmt (bit_of hF rfl) ?_
          with_reducible assumption
        clear_value v75
        refine runs_next ?_
        refine State.opFailed_kept (sub_of hF rfl) ?_
        refine State.contextHang_kept (sub_of hF rfl) ?_
        with_reducible assumption

end Sys2Proof.Machine
end

