-- ==== Sys2Proof/Laws/KeptRecovery.lean ====
section
/-! SUPPORT. Laws/KeptRecovery.lean: each operation of Machine/Recovery.lean keeps the queue and the invariant. -/
namespace Sys2Proof.Machine

theorem cmdAbortCollective_kept {qu : List Instr} {F : Nat} {o : State} {w : Nat} {s : State} (hF : 0x10000004409 ||| F = F) (hk : State.Kept qu F o s) : State.Kept qu F o (cmdAbortCollective w s) := by
  unfold cmdAbortCollective
  extract_lets +onlyGivenNames v80
  clear_value v80
  extract_lets +onlyGivenNames v79
  clear_value v79
  refine State.kept_ite (fun _ => ?_) (fun _ => ?_)
  · refine State.refuse_kept (sub_of hF rfl) ?_
    with_reducible assumption
  · refine State.kept_ite (fun _ => ?_) (fun _ => ?_)
    · refine State.refuse_kept (sub_of hF rfl) ?_
      with_reducible assumption
    · refine State.kept_ite (fun _ => ?_) (fun _ => ?_)
      · refine State.planRefused_kept (sub_of hF rfl) ?_
        with_reducible assumption
      · extract_lets +onlyGivenNames v75
        clear_value v75
        refine State.onClp_kept (sub_of hF rfl) ?_
        with_reducible assumption

theorem execAbortCollective_kept {qu : List Instr} {F : Nat} {o : State} {c : HostCmd} {s : State} (hF : 0x10100004409 ||| F = F) (hk : State.Kept qu F o s) : Runs qu F o (execAbortCollective c s) := by
  unfold execAbortCollective
  refine runs_next ?_
  refine State.issue_kept (sub_of hF rfl) ?_ ?_
  · with_reducible assumption
  · intro x78 s77 h76
    refine cmdAbortCollective_kept (sub_of hF rfl) ?_
    with_reducible assumption

theorem State.gotAbortReq_kept {qu : List Instr} {F : Nat} {o : State} {s : State} {src : Addr} {m : KMsg} (hF : 0x4441 ||| F = F) (hk : State.Kept qu F o s) : State.Kept qu F o (State.gotAbortReq s src m) := by
  unfold State.gotAbortReq
  extract_lets +onlyGivenNames v80
  clear_value v80
  extract_lets +onlyGivenNames v79
  clear_value v79
  refine State.kept_ite (fun _ => ?_) (fun _ => ?_)
  · with_reducible assumption
  · refine State.kept_ite (fun _ => ?_) (fun _ => ?_)
    · refine State.tell_kept (sub_of hF rfl) ?_
      with_reducible assumption
    · refine State.progress_kept (sub_of hF rfl) ?_
      refine State.startAbort_kept (sub_of hF rfl) ?_
      with_reducible assumption

theorem execAbortReq_kept {qu : List Instr} {F : Nat} {o : State} {port : Nat} {p : Packet} {s : State} (hF : 0x1001000024579 ||| F = F) (hk : State.Kept qu F o s) : Runs qu F o (execAbortReq port p s) := by
  unfold execAbortReq
  refine runs_next ?_
  refine State.takeMsg_kept (sub_of hF rfl) ?_ ?_
  · with_reducible assumption
  · intro s78 x77 x76 h75
    refine State.gotAbortReq_kept (sub_of hF rfl) ?_
    with_reducible assumption

theorem State.gotRecoverReq_kept {qu : List Instr} {F : Nat} {o : State} {s : State} {src : Addr} {m : KMsg} (hF : 0x4441 ||| F = F) (hk : State.Kept qu F o s) : State.Kept qu F o (State.gotRecoverReq s src m) := by
  unfold State.gotRecoverReq
  split
  · with_reducible assumption
  · extract_lets +onlyGivenNames v79
    clear_value v79
    refine State.progress_kept (sub_of hF rfl) ?_
    refine State.headRequest_kept (sub_of hF rfl) ?_
    with_reducible assumption

theorem execRecoverReq_kept {qu : List Instr} {F : Nat} {o : State} {port : Nat} {p : Packet} {s : State} (hF : 0x1001000024579 ||| F = F) (hk : State.Kept qu F o s) : Runs qu F o (execRecoverReq port p s) := by
  unfold execRecoverReq
  refine runs_next ?_
  refine State.takeMsg_kept (sub_of hF rfl) ?_ ?_
  · with_reducible assumption
  · intro s78 x77 x76 h75
    refine State.gotRecoverReq_kept (sub_of hF rfl) ?_
    with_reducible assumption

theorem State.gotRecoverClear_kept {qu : List Instr} {F : Nat} {o : State} {s : State} {_src : Addr} {m : KMsg} (hF : 0x10000004cc9 ||| F = F) (hk : State.Kept qu F o s) : State.Kept qu F o (State.gotRecoverClear s _src m) := by
  unfold State.gotRecoverClear
  extract_lets +onlyGivenNames v80
  clear_value v80
  split
  · with_reducible assumption
  · refine State.kept_ite (fun _ => ?_) (fun _ => ?_)
    · refine State.kept_ite (fun _ => ?_) (fun _ => ?_)
      · with_reducible assumption
      · refine State.sendCleared_kept (sub_of hF rfl) ?_
        with_reducible assumption
    · refine State.kept_ite (fun _ => ?_) (fun _ => ?_)
      · with_reducible assumption
      · extract_lets +onlyGivenNames v76
        clear_value v76
        extract_lets +onlyGivenNames v75
        clear_value v75
        extract_lets +onlyGivenNames v74
        clear_value v74
        extract_lets +onlyGivenNames v73
        have hv73 : State.Kept qu F o v73 := by
          unfold v73
          refine State.onPlan_kept (sub_of hF rfl) ?_
          with_reducible assumption
        clear_value v73
        extract_lets +onlyGivenNames v72
        have hv72 : State.Kept qu F o v72 := by
          unfold v72
          refine State.countReg_kept (bit_of hF rfl) ?_
          refine State.clearPieces_kept (sub_of hF rfl) ?_
          with_reducible assumption
        clear_value v72
        extract_lets +onlyGivenNames v71
        have hv71 : State.Kept qu F o v71 := by
          unfold v71
          refine State.raise_kept (sub_of hF rfl) (bit_of hF rfl) ?_
          refine State.raiseIf_kept (sub_of hF rfl) (bit_of hF rfl) ?_
          with_reducible assumption
        clear_value v71
        extract_lets +onlyGivenNames v70
        have hv70 : State.Kept qu F o v70 := by
          unfold v70
          split
          · refine State.writeRemaps_kept (sub_of hF rfl) ?_
            with_reducible assumption
          · with_reducible assumption
        clear_value v70
        refine State.progress_kept (sub_of hF rfl) ?_
        refine State.tryCleared_kept (sub_of hF rfl) ?_
        with_reducible assumption

theorem execRecoverClear_kept {qu : List Instr} {F : Nat} {o : State} {port : Nat} {p : Packet} {s : State} (hF : 0x1011000024df9 ||| F = F) (hk : State.Kept qu F o s) : Runs qu F o (execRecoverClear port p s) := by
  unfold execRecoverClear
  refine runs_next ?_
  refine State.takeMsg_kept (sub_of hF rfl) ?_ ?_
  · with_reducible assumption
  · intro s78 x77 x76 h75
    refine State.gotRecoverClear_kept (sub_of hF rfl) ?_
    with_reducible assumption

theorem State.gotRecoverCleared_kept {qu : List Instr} {F : Nat} {o : State} {s : State} {src : Addr} {m : KMsg} (hF : 0x4441 ||| F = F) (hk : State.Kept qu F o s) : State.Kept qu F o (State.gotRecoverCleared s src m) := by
  unfold State.gotRecoverCleared
  extract_lets +onlyGivenNames v80
  clear_value v80
  extract_lets +onlyGivenNames v79
  clear_value v79
  extract_lets +onlyGivenNames v78
  clear_value v78
  split
  · split
    · refine State.kept_ite (fun _ => ?_) (fun _ => ?_)
      · refine State.tell_kept (sub_of hF rfl) ?_
        with_reducible assumption
      · with_reducible assumption
    · with_reducible assumption
  · extract_lets +onlyGivenNames v76
    clear_value v76
    refine State.kept_ite (fun _ => ?_) (fun _ => ?_)
    · extract_lets +onlyGivenNames v74
      have hv74 : State.Kept qu F o v74 := by
        unfold v74
        refine State.onLive_kept (sub_of hF rfl) ?_
        refine State.onClp_kept (sub_of hF rfl) ?_
        with_reducible assumption
      clear_value v74
      refine State.progress_kept (sub_of hF rfl) ?_
      refine State.pumpRecovery_kept (sub_of hF rfl) ?_
      refine State.tellRacks_kept (sub_of hF rfl) ?_
      with_reducible assumption
    · refine State.onClp_kept (sub_of hF rfl) ?_
      with_reducible assumption

theorem execRecoverCleared_kept {qu : List Instr} {F : Nat} {o : State} {port : Nat} {p : Packet} {s : State} (hF : 0x1001000024579 ||| F = F) (hk : State.Kept qu F o s) : Runs qu F o (execRecoverCleared port p s) := by
  unfold execRecoverCleared
  refine runs_next ?_
  refine State.takeMsg_kept (sub_of hF rfl) ?_ ?_
  · with_reducible assumption
  · intro s78 x77 x76 h75
    refine State.gotRecoverCleared_kept (sub_of hF rfl) ?_
    with_reducible assumption

theorem State.gotRecoverGo_kept {qu : List Instr} {F : Nat} {o : State} {s : State} {_src : Addr} {m : KMsg} (hF : 0x44c0 ||| F = F) (hk : State.Kept qu F o s) : State.Kept qu F o (State.gotRecoverGo s _src m) := by
  unfold State.gotRecoverGo
  split
  · with_reducible assumption
  · refine State.kept_ite (fun _ => ?_) (fun _ => ?_)
    · with_reducible assumption
    · extract_lets +onlyGivenNames v78
      clear_value v78
      extract_lets +onlyGivenNames v77
      clear_value v77
      extract_lets +onlyGivenNames v76
      have hv76 : State.Kept qu F o v76 := by
        unfold v76
        refine State.dropSent_kept (sub_of hF rfl) ?_
        with_reducible assumption
      clear_value v76
      extract_lets +onlyGivenNames v75
      have hv75 : State.Kept qu F o v75 := by
        unfold v75
        refine State.onPlan_kept (sub_of hF rfl) ?_
        with_reducible assumption
      clear_value v75
      refine State.progress_kept (sub_of hF rfl) ?_
      refine State.writeRemaps_kept (sub_of hF rfl) ?_
      with_reducible assumption

theorem execRecoverGo_kept {qu : List Instr} {F : Nat} {o : State} {port : Nat} {p : Packet} {s : State} (hF : 0x10010000245f9 ||| F = F) (hk : State.Kept qu F o s) : Runs qu F o (execRecoverGo port p s) := by
  unfold execRecoverGo
  refine runs_next ?_
  refine State.takeMsg_kept (sub_of hF rfl) ?_ ?_
  · with_reducible assumption
  · intro s78 x77 x76 h75
    refine State.gotRecoverGo_kept (sub_of hF rfl) ?_
    with_reducible assumption

theorem execRecoveryReplyTimeout_kept {qu : List Instr} {F : Nat} {o : State} {s : State} (hF : 0x441 ||| F = F) (hk : State.Kept qu F o s) : Runs qu F o (execRecoveryReplyTimeout s) := by
  unfold execRecoveryReplyTimeout
  refine runs_ite (fun _ => ?_) (fun _ => ?_)
  · refine runs_next ?_
    with_reducible assumption
  · extract_lets +onlyGivenNames v79
    clear_value v79
    extract_lets +onlyGivenNames v78
    clear_value v78
    extract_lets +onlyGivenNames v77
    have hv77 : State.Kept qu F o v77 := by
      unfold v77
      refine State.kept_foldl ?_ ?_
      · with_reducible assumption
      · intro s75 x74 h73
        refine State.startAbort_kept (sub_of hF rfl) ?_
        with_reducible assumption
    clear_value v77
    refine runs_next ?_
    refine State.kept_foldl ?_ ?_
    · with_reducible assumption
    · intro s74 x73 h72
      extract_lets +onlyGivenNames v71
      have hv71 : State.Kept qu F o v71 := by
        unfold v71
        refine State.onClp_kept (sub_of hF rfl) ?_
        with_reducible assumption
      clear_value v71
      split
      · refine State.sendThaw_kept (sub_of hF rfl) ?_
        with_reducible assumption
      · with_reducible assumption

theorem State.gotFreeze_kept {qu : List Instr} {F : Nat} {o : State} {s : State} {_src : Addr} {m : KMsg} (hF : 0x44c1 ||| F = F) (hk : State.Kept qu F o s) : State.Kept qu F o (State.gotFreeze s _src m) := by
  unfold State.gotFreeze
  split
  · with_reducible assumption
  · refine State.kept_ite (fun _ => ?_) (fun _ => ?_)
    · refine State.kept_ite (fun _ => ?_) (fun _ => ?_)
      · refine State.sendFrozen_kept (sub_of hF rfl) ?_
        with_reducible assumption
      · with_reducible assumption
    · extract_lets +onlyGivenNames v78
      have hv78 : State.Kept qu F o v78 := by
        unfold v78
        refine State.onPlan_kept (sub_of hF rfl) ?_
        with_reducible assumption
      clear_value v78
      refine State.progress_kept (sub_of hF rfl) ?_
      refine State.tryFrozen_kept (sub_of hF rfl) ?_
      refine State.writeFreeze_kept (sub_of hF rfl) ?_
      with_reducible assumption

theorem execFreeze_kept {qu : List Instr} {F : Nat} {o : State} {port : Nat} {p : Packet} {s : State} (hF : 0x10010000245f9 ||| F = F) (hk : State.Kept qu F o s) : Runs qu F o (execFreeze port p s) := by
  unfold execFreeze
  refine runs_next ?_
  refine State.takeMsg_kept (sub_of hF rfl) ?_ ?_
  · with_reducible assumption
  · intro s78 x77 x76 h75
    refine State.gotFreeze_kept (sub_of hF rfl) ?_
    with_reducible assumption

theorem State.gotFrozen_kept {qu : List Instr} {F : Nat} {o : State} {s : State} {src : Addr} {m : KMsg} (hF : 0x4441 ||| F = F) (hk : State.Kept qu F o s) : State.Kept qu F o (State.gotFrozen s src m) := by
  unfold State.gotFrozen
  extract_lets +onlyGivenNames v80
  clear_value v80
  extract_lets +onlyGivenNames v79
  clear_value v79
  extract_lets +onlyGivenNames v78
  clear_value v78
  split
  · split
    · refine State.kept_ite (fun _ => ?_) (fun _ => ?_)
      · split
        · refine State.tell_kept (sub_of hF rfl) ?_
          with_reducible assumption
        · with_reducible assumption
      · with_reducible assumption
    · with_reducible assumption
  · extract_lets +onlyGivenNames v76
    clear_value v76
    extract_lets +onlyGivenNames v75
    have hv75 : State.Kept qu F o v75 := by
      unfold v75
      refine State.onClp_kept (sub_of hF rfl) ?_
      with_reducible assumption
    clear_value v75
    refine State.progress_kept (sub_of hF rfl) ?_
    refine State.decideAbort_kept (sub_of hF rfl) ?_
    with_reducible assumption

theorem execFrozen_kept {qu : List Instr} {F : Nat} {o : State} {port : Nat} {p : Packet} {s : State} (hF : 0x1001000024579 ||| F = F) (hk : State.Kept qu F o s) : Runs qu F o (execFrozen port p s) := by
  unfold execFrozen
  refine runs_next ?_
  refine State.takeMsg_kept (sub_of hF rfl) ?_ ?_
  · with_reducible assumption
  · intro s78 x77 x76 h75
    refine State.gotFrozen_kept (sub_of hF rfl) ?_
    with_reducible assumption

theorem State.endAborts_kept {qu : List Instr} {F : Nat} {o : State} {s : State} {slice ordinal : Nat} {m : KMsg} (hF : 0x10000004409 ||| F = F) (hk : State.Kept qu F o s) : State.Kept qu F o (State.endAborts s slice ordinal m) := by
  unfold State.endAborts
  extract_lets +onlyGivenNames v80
  clear_value v80
  extract_lets +onlyGivenNames v79
  clear_value v79
  extract_lets +onlyGivenNames v78
  clear_value v78
  extract_lets +onlyGivenNames v77
  clear_value v77
  extract_lets +onlyGivenNames v76
  have hv76 : State.Kept qu F o v76 := by
    unfold v76
    refine State.onClp_kept (sub_of hF rfl) ?_
    with_reducible assumption
  clear_value v76
  refine State.kept_foldl ?_ ?_
  · with_reducible assumption
  · intro s74 x73 h72
    refine State.kept_ite (fun _ => ?_) (fun _ => ?_)
    · refine State.planRefused_kept (sub_of hF rfl) ?_
      with_reducible assumption
    · refine State.completeAfter_kept (sub_of hF rfl) ?_
      with_reducible assumption

theorem State.gotThaw_kept {qu : List Instr} {F : Nat} {o : State} {s : State} {_src : Addr} {m : KMsg} (hF : 0x10d0000065cc9 ||| F = F) (hk : State.Kept qu F o s) : State.Kept qu F o (State.gotThaw s _src m) := by
  unfold State.gotThaw
  extract_lets +onlyGivenNames v80
  clear_value v80
  extract_lets +onlyGivenNames v79
  clear_value v79
  extract_lets +onlyGivenNames v78
  have hv78 : State.Kept qu F o v78 := by
    unfold v78
    split
    · with_reducible assumption
    · split
      · with_reducible assumption
      · extract_lets +onlyGivenNames v75
        have hv75 : State.Kept qu F o v75 := by
          unfold v75
          refine State.onPlan_kept (sub_of hF rfl) ?_
          with_reducible assumption
        clear_value v75
        extract_lets +onlyGivenNames v74
        have hv74 : State.Kept qu F o v74 := by
          unfold v74
          refine State.writeFreeze_kept (sub_of hF rfl) ?_
          with_reducible assumption
        clear_value v74
        refine State.kept_ite (fun _ => ?_) (fun _ => ?_)
        · refine State.tryRelease_kept (sub_of hF rfl) ?_
          refine State.thawAbort_kept (sub_of hF rfl) ?_
          with_reducible assumption
        · refine State.resumePieces_kept (sub_of hF rfl) ?_
          refine State.raiseIf_kept (sub_of hF rfl) (bit_of hF rfl) ?_
          with_reducible assumption
  clear_value v78
  refine State.progress_kept (sub_of hF rfl) ?_
  refine State.endAborts_kept (sub_of hF rfl) ?_
  with_reducible assumption

theorem execThaw_kept {qu : List Instr} {F : Nat} {o : State} {port : Nat} {p : Packet} {s : State} (hF : 0x10d1000065df9 ||| F = F) (hk : State.Kept qu F o s) : Runs qu F o (execThaw port p s) := by
  unfold execThaw
  refine runs_next ?_
  refine State.takeMsg_kept (sub_of hF rfl) ?_ ?_
  · with_reducible assumption
  · intro s78 x77 x76 h75
    refine State.gotThaw_kept (sub_of hF rfl) ?_
    with_reducible assumption

theorem execGenSpacingElapsed_kept {qu : List Instr} {F : Nat} {o : State} {s : State} (hF : 0x441 ||| F = F) (hk : State.Kept qu F o s) : Runs qu F o (execGenSpacingElapsed s) := by
  unfold execGenSpacingElapsed
  extract_lets +onlyGivenNames v80
  clear_value v80
  refine runs_next ?_
  refine State.kept_foldl ?_ ?_
  · with_reducible assumption
  · intro s77 x76 h75
    extract_lets +onlyGivenNames v74
    have hv74 : State.Kept qu F o v74 := by
      unfold v74
      refine State.onClp_kept (sub_of hF rfl) ?_
      with_reducible assumption
    clear_value v74
    split
    · refine State.sendFreeze_kept (sub_of hF rfl) ?_
      with_reducible assumption
    · with_reducible assumption

theorem execReleaseLimitExpiry_kept {qu : List Instr} {F : Nat} {o : State} {s : State} (hF : 0x441 ||| F = F) (hk : State.Kept qu F o s) : Runs qu F o (execReleaseLimitExpiry s) := by
  unfold execReleaseLimitExpiry
  extract_lets +onlyGivenNames v80
  clear_value v80
  refine runs_next ?_
  refine State.kept_ite (fun _ => ?_) (fun _ => ?_)
  · refine State.kept_foldl ?_ ?_
    · with_reducible assumption
    · intro s76 x75 h74
      refine State.startAbort_kept (sub_of hF rfl) ?_
      with_reducible assumption
  · with_reducible assumption

theorem execStallDetect_kept {qu : List Instr} {F : Nat} {o : State} {s : State} (hF : 0x10000000449 ||| F = F) (hk : State.Kept qu F o s) : Runs qu F o (execStallDetect s) := by
  unfold execStallDetect
  extract_lets +onlyGivenNames v80
  clear_value v80
  extract_lets +onlyGivenNames v79
  clear_value v79
  refine runs_next ?_
  refine State.kept_foldl ?_ ?_
  · with_reducible assumption
  · intro s76 x75 h74
    extract_lets +onlyGivenNames v73
    clear_value v73
    refine State.raise_kept (sub_of hF rfl) (bit_of hF rfl) ?_
    refine State.recoverReq_kept (sub_of hF rfl) ?_
    refine State.onPlan_kept (sub_of hF rfl) ?_
    with_reducible assumption

theorem execStragglerDetect_kept {qu : List Instr} {F : Nat} {o : State} {s : State} (hF : 0x1010000024009 ||| F = F) (hk : State.Kept qu F o s) : Runs qu F o (execStragglerDetect s) := by
  unfold execStragglerDetect
  extract_lets +onlyGivenNames v80
  clear_value v80
  extract_lets +onlyGivenNames v79
  clear_value v79
  refine runs_next ?_
  refine State.kept_foldl ?_ ?_
  · with_reducible assumption
  · intro s76 x75 h74
    extract_lets +onlyGivenNames v73
    clear_value v73
    extract_lets +onlyGivenNames v72
    have hv72 : State.Kept qu F o v72 := by
      unfold v72
      refine State.logOwn_kept (sub_of hF rfl) ?_
      with_reducible assumption
    clear_value v72
    refine State.raise_kept (sub_of hF rfl) (bit_of hF rfl) ?_
    refine State.setReg_kept (bit_of hF rfl) ?_
    with_reducible assumption

theorem execCollectiveRetransmit_kept {qu : List Instr} {F : Nat} {o : State} {dest : Addr} {svc : Nat} {wseq : Nat} {s : State} (hF : 0x10000004449 ||| F = F) (hk : State.Kept qu F o s) : Runs qu F o (execCollectiveRetransmit dest svc wseq s) := by
  unfold execCollectiveRetransmit
  extract_lets +onlyGivenNames v80
  clear_value v80
  split
  · refine runs_next ?_
    with_reducible assumption
  · extract_lets +onlyGivenNames v78
    clear_value v78
    refine runs_ite (fun _ => ?_) (fun _ => ?_)
    · refine runs_next ?_
      with_reducible assumption
    · extract_lets +onlyGivenNames v76
      have hv76 : State.Kept qu F o v76 := by
        unfold v76
        refine State.onFlow_kept (sub_of hF rfl) ?_
        with_reducible assumption
      clear_value v76
      refine runs_ite (fun _ => ?_) (fun _ => ?_)
      · split
        · refine runs_next ?_
          refine State.progress_kept (sub_of hF rfl) ?_
          refine State.keeperFlowBroken_kept (sub_of hF rfl) ?_
          with_reducible assumption
        · refine runs_next ?_
          refine State.raise_kept (sub_of hF rfl) (bit_of hF rfl) ?_
          with_reducible assumption
      · extract_lets +onlyGivenNames v74
        clear_value v74
        refine runs_next ?_
        refine State.countReg_kept (bit_of hF rfl) ?_
        refine State.enqueue_kept (sub_of hF rfl) ?_
        with_reducible assumption

theorem State.flowBroken_kept {qu : List Instr} {F : Nat} {o : State} {s : State} {ev : AgentEvent} (hF : 0x10000000449 ||| F = F) (hk : State.Kept qu F o s) : State.Kept qu F o (State.flowBroken s ev) := by
  unfold State.flowBroken
  extract_lets +onlyGivenNames v80
  clear_value v80
  split
  · with_reducible assumption
  · extract_lets +onlyGivenNames v78
    have hv78 : State.Kept qu F o v78 := by
      unfold v78
      refine State.raise_kept (sub_of hF rfl) (bit_of hF rfl) ?_
      with_reducible assumption
    clear_value v78
    refine State.kept_ite (fun _ => ?_) (fun _ => ?_)
    · refine State.recoverReq_kept (sub_of hF rfl) ?_
      with_reducible assumption
    · refine State.losePlane_kept (sub_of hF rfl) ?_
      with_reducible assumption

theorem execFlowBrokenEvent_kept {qu : List Instr} {F : Nat} {o : State} {port : Nat} {p : Packet} {s : State} (hF : 0x10100000244d9 ||| F = F) (hk : State.Kept qu F o s) : Runs qu F o (execFlowBrokenEvent port p s) := by
  unfold execFlowBrokenEvent
  refine runs_next ?_
  refine State.takeAgentEvent_kept (sub_of hF rfl) ?_ ?_
  · with_reducible assumption
  · intro s78 x77 h76
    refine State.flowBroken_kept (sub_of hF rfl) ?_
    with_reducible assumption

theorem State.placeDiscarded_kept {qu : List Instr} {F : Nat} {o : State} {s : State} {ev : AgentEvent} (hF : 0x441 ||| F = F) (hk : State.Kept qu F o s) : State.Kept qu F o (State.placeDiscarded s ev) := by
  unfold State.placeDiscarded
  extract_lets +onlyGivenNames v80
  clear_value v80
  split
  · with_reducible assumption
  · refine State.recoverReq_kept (sub_of hF rfl) ?_
    with_reducible assumption

theorem execPlaceDiscardedEvent_kept {qu : List Instr} {F : Nat} {o : State} {port : Nat} {p : Packet} {s : State} (hF : 0x10000000244d9 ||| F = F) (hk : State.Kept qu F o s) : Runs qu F o (execPlaceDiscardedEvent port p s) := by
  unfold execPlaceDiscardedEvent
  refine runs_next ?_
  refine State.takeAgentEvent_kept (sub_of hF rfl) ?_ ?_
  · with_reducible assumption
  · intro s78 x77 h76
    refine State.placeDiscarded_kept (sub_of hF rfl) ?_
    with_reducible assumption

theorem State.overflowTold_kept {qu : List Instr} {F : Nat} {o : State} {s : State} {ev : AgentEvent} (hF : 0x1010000064409 ||| F = F) (hk : State.Kept qu F o s) : State.Kept qu F o (State.overflowTold s ev) := by
  unfold State.overflowTold
  split
  · with_reducible assumption
  · refine State.overflow_kept (sub_of hF rfl) ?_
    with_reducible assumption

theorem execOverflowEvent_kept {qu : List Instr} {F : Nat} {o : State} {port : Nat} {p : Packet} {s : State} (hF : 0x10100000644d9 ||| F = F) (hk : State.Kept qu F o s) : Runs qu F o (execOverflowEvent port p s) := by
  unfold execOverflowEvent
  refine runs_next ?_
  refine State.takeAgentEvent_kept (sub_of hF rfl) ?_ ?_
  · with_reducible assumption
  · intro s78 x77 h76
    refine State.overflowTold_kept (sub_of hF rfl) ?_
    with_reducible assumption

end Sys2Proof.Machine
end

