-- ==== Sys2Proof/Laws/KeptTel.lean ====
section
/-! SUPPORT. Laws/KeptTel.lean: each operation of Machine/Tel.lean keeps the queue and the invariant. -/
namespace Sys2Proof.Machine

theorem State.loadReport_kept {qu : List Instr} {F : Nat} {o : State} {s : State} {ev : AgentEvent} (hF : 0x200000040009 ||| F = F) (hk : State.Kept qu F o s) : State.Kept qu F o (State.loadReport s ev) := by
  unfold State.loadReport
  extract_lets +onlyGivenNames v80
  clear_value v80
  extract_lets +onlyGivenNames v79
  clear_value v79
  extract_lets +onlyGivenNames v78
  clear_value v78
  refine State.kept_ite (fun _ => ?_) (fun _ => ?_)
  · with_reducible assumption
  · refine State.kept_ite (fun _ => ?_) (fun _ => ?_)
    · refine State.kept_tel (bit_of hF rfl) ?_
      with_reducible assumption
    · extract_lets +onlyGivenNames v75
      clear_value v75
      extract_lets +onlyGivenNames v74
      clear_value v74
      extract_lets +onlyGivenNames v73
      clear_value v73
      extract_lets +onlyGivenNames v72
      have hv72 : State.Kept qu F o v72 := by
        unfold v72
        refine State.kept_tel (bit_of hF rfl) ?_
        with_reducible assumption
      clear_value v72
      refine State.kept_ite (fun _ => ?_) (fun _ => ?_)
      · refine State.kept_tel (bit_of hF rfl) ?_
        with_reducible assumption
      · refine State.raise_kept (sub_of hF rfl) (bit_of hF rfl) ?_
        refine State.countReg_kept (bit_of hF rfl) ?_
        with_reducible assumption

theorem execLoadReport_kept {qu : List Instr} {F : Nat} {o : State} {port : Nat} {p : Packet} {s : State} (hF : 0x1200000064049 ||| F = F) (hk : State.Kept qu F o s) : Runs qu F o (execLoadReport port p s) := by
  unfold execLoadReport
  extract_lets +onlyGivenNames v80
  have hv80 : State.Kept qu F o v80 := by
    unfold v80
    refine State.received_kept (sub_of hF rfl) ?_
    with_reducible assumption
  clear_value v80
  split
  · rename_i n79_0 n79_1 n79_2
    have hn79_2 : State.Kept qu F o n79_1 := by
      refine State.refused_kept (sub_of hF rfl) ?_ _ n79_2
      with_reducible assumption
    refine runs_next ?_
    with_reducible assumption
  · refine runs_ite (fun _ => ?_) (fun _ => ?_)
    · refine runs_next ?_
      refine State.refusePacket_kept (sub_of hF rfl) ?_
      with_reducible assumption
    · refine runs_next ?_
      refine State.loadReport_kept (sub_of hF rfl) ?_
      refine State.returnCredits_kept (sub_of hF rfl) ?_
      with_reducible assumption

theorem execSaturationWarn_kept {qu : List Instr} {F : Nat} {o : State} {s : State} (hF : 0x200000000009 ||| F = F) (hk : State.Kept qu F o s) : Runs qu F o (execSaturationWarn s) := by
  unfold execSaturationWarn
  extract_lets +onlyGivenNames v80
  clear_value v80
  refine runs_next ?_
  refine State.kept_ite (fun _ => ?_) (fun _ => ?_)
  · with_reducible assumption
  · refine State.raise_kept (sub_of hF rfl) (bit_of hF rfl) ?_
    refine State.setReg_kept (bit_of hF rfl) ?_
    with_reducible assumption

theorem State.telAct_kept {qu : List Instr} {F : Nat} {o : State} {s : State} (hF : 0x200000000000 ||| F = F) (hk : State.Kept qu F o s) : State.Kept qu F o (State.telAct s) := by
  unfold State.telAct
  refine State.kept_ite (fun _ => ?_) (fun _ => ?_)
  · extract_lets +onlyGivenNames v79
    have hv79 : State.Kept qu F o v79 := by
      unfold v79
      refine State.kept_foldl_range ?_ ?_
      · with_reducible assumption
      · intro s77 x76 x75 h74
        refine State.setReg_kept (bit_blk (b := 13) hF rfl (by unfold regBlock; simp only [Reg.TEL_GAUGE]; omega)) ?_
        with_reducible assumption
    clear_value v79
    refine State.setF_kept (bit_of hF rfl) ?_
    with_reducible assumption
  · with_reducible assumption

theorem execReadLoadmap_kept {qu : List Instr} {F : Nat} {o : State} {c : HostCmd} {s : State} (hF : 0x200100004009 ||| F = F) (hk : State.Kept qu F o s) : Runs qu F o (execReadLoadmap c s) := by
  unfold execReadLoadmap
  refine runs_next ?_
  refine State.issue_kept (sub_of hF rfl) ?_ ?_
  · with_reducible assumption
  · intro x78 s77 h76
    refine cmdReadLoadmap_kept (sub_of hF rfl) ?_
    with_reducible assumption

end Sys2Proof.Machine
end

