-- ==== Sys2Proof/Laws/KeptTime.lean ====
section
/-! SUPPORT. Laws/KeptTime.lean: each operation of Machine/Time.lean keeps the queue and the invariant. -/
namespace Sys2Proof.Machine

theorem State.takeTime_kept {qu : List Instr} {F : Nat} {o : State} {s : State} {port : Nat} {p : Packet} (hF : 0x1000000024049 ||| F = F) (hk : State.Kept qu F o s) : State.Kept qu F o (State.takeTime s port p).2 := by
  unfold State.takeTime
  extract_lets +onlyGivenNames v80
  have hv80 : State.Kept qu F o v80 := by
    unfold v80
    refine State.received_kept (sub_of hF rfl) ?_
    with_reducible assumption
  clear_value v80
  split
  · rename_i n79_0 n79_1 n79_2
    have hn79_2 : State.Kept qu F o n79_1 := by
      refine State.refused_kept (sub_of hF rfl) ?_ _ n79_2
      with_reducible assumption
    with_reducible assumption
  · rw [apply_ite Prod.snd]
    refine State.kept_ite (fun _ => ?_) (fun _ => ?_)
    · dsimp only
      refine State.returnCredits_kept (sub_of hF rfl) ?_
      with_reducible assumption
    · dsimp only
      refine State.refusePacket_kept (sub_of hF rfl) ?_
      with_reducible assumption

theorem execTimeExchangeRequest_kept {qu : List Instr} {F : Nat} {o : State} {port : Nat} {p : Packet} {s : State} (hF : 0x1000000024049 ||| F = F) (hk : State.Kept qu F o s) : Runs qu F o (execTimeExchangeRequest port p s) := by
  unfold execTimeExchangeRequest
  split
  rename_i n80_0 n80_1 n80_2 n80_3
  have hn80_3 : State.Kept qu F o n80_2 := by
    have en80_3 := congrArg (fun z => z.2) n80_3
    rw [show n80_2 = _ from en80_3.symm]
    beta_reduce
    refine State.takeTime_kept (sub_of hF rfl) ?_
    with_reducible assumption
  refine runs_next ?_
  refine State.kept_ite (fun _ => ?_) (fun _ => ?_)
  · refine State.answerTime_kept (sub_of hF rfl) ?_
    with_reducible assumption
  · with_reducible assumption

theorem execTimeExchangeReply_kept {qu : List Instr} {F : Nat} {o : State} {port : Nat} {p : Packet} {s : State} (hF : 0x11000000240cd ||| F = F) (hk : State.Kept qu F o s) : Runs qu F o (execTimeExchangeReply port p s) := by
  unfold execTimeExchangeReply
  split
  rename_i n80_0 n80_1 n80_2 n80_3
  have hn80_3 : State.Kept qu F o n80_2 := by
    have en80_3 := congrArg (fun z => z.2) n80_3
    rw [show n80_2 = _ from en80_3.symm]
    beta_reduce
    refine State.takeTime_kept (sub_of hF rfl) ?_
    with_reducible assumption
  extract_lets +onlyGivenNames v79
  clear_value v79
  extract_lets +onlyGivenNames v78
  clear_value v78
  split
  · refine runs_next ?_
    with_reducible assumption
  · refine runs_ite (fun _ => ?_) (fun _ => ?_)
    · extract_lets +onlyGivenNames v75
      clear_value v75
      extract_lets +onlyGivenNames v74
      have hv74 : State.Kept qu F o v74 := by
        unfold v74
        refine State.kept_tim (bit_of hF rfl) ?_
        with_reducible assumption
      clear_value v74
      extract_lets +onlyGivenNames v73
      clear_value v73
      extract_lets +onlyGivenNames v72
      clear_value v72
      extract_lets +onlyGivenNames v71
      clear_value v71
      extract_lets +onlyGivenNames v70
      clear_value v70
      extract_lets +onlyGivenNames v69
      clear_value v69
      extract_lets +onlyGivenNames v68
      clear_value v68
      extract_lets +onlyGivenNames v67
      clear_value v67
      extract_lets +onlyGivenNames v66
      clear_value v66
      extract_lets +onlyGivenNames v65
      clear_value v65
      extract_lets +onlyGivenNames v64
      clear_value v64
      extract_lets +onlyGivenNames v63
      clear_value v63
      refine runs_next ?_
      refine State.takeExch_kept (sub_of hF rfl) ?_
      with_reducible assumption
    · refine runs_next ?_
      with_reducible assumption

theorem execFillPacketReceived_kept {qu : List Instr} {F : Nat} {o : State} {port : Nat} {p : Packet} {s : State} (hF : 0x1000000024049 ||| F = F) (hk : State.Kept qu F o s) : Runs qu F o (execFillPacketReceived port p s) := by
  unfold execFillPacketReceived
  refine runs_next ?_
  refine State.takeTime_kept (sub_of hF rfl) ?_
  with_reducible assumption

theorem execTimeFill_kept {qu : List Instr} {F : Nat} {o : State} {port : Nat} {samples : Nat} {s : State} (hF : 0x40 ||| F = F) (hk : State.Kept qu F o s) : Runs qu F o (execTimeFill port samples s) := by
  unfold execTimeFill
  extract_lets +onlyGivenNames v80
  clear_value v80
  refine runs_ite (fun _ => ?_) (fun _ => ?_)
  · extract_lets +onlyGivenNames v78
    clear_value v78
    extract_lets +onlyGivenNames v77
    clear_value v77
    refine runs_next ?_
    refine State.kept_foldl_range ?_ ?_
    · with_reducible assumption
    · intro s74 x73 x72 h71
      refine State.enqueue_kept (sub_of hF rfl) ?_
      with_reducible assumption
  · refine runs_next ?_
    with_reducible assumption

theorem execTimeAcquisitionStep_kept {qu : List Instr} {F : Nat} {o : State} {s : State} (hF : 0x10000000000d ||| F = F) (hk : State.Kept qu F o s) : Runs qu F o (execTimeAcquisitionStep s) := by
  unfold execTimeAcquisitionStep
  refine runs_ite (fun _ => ?_) (fun _ => ?_)
  · extract_lets +onlyGivenNames v79
    clear_value v79
    split
    · refine runs_next ?_
      with_reducible assumption
    · extract_lets +onlyGivenNames v77
      clear_value v77
      refine runs_ite (fun _ => ?_) (fun _ => ?_)
      · refine runs_next ?_
        refine State.enterTime_kept (sub_of hF rfl) ?_
        refine State.kept_tim (bit_of hF rfl) ?_
        with_reducible assumption
      · refine runs_next ?_
        refine State.kept_tim (bit_of hF rfl) ?_
        with_reducible assumption
  · refine runs_next ?_
    with_reducible assumption

theorem execAcquisitionTimeout_kept {qu : List Instr} {F : Nat} {o : State} {s : State} (hF : 0x10000000000d ||| F = F) (hk : State.Kept qu F o s) : Runs qu F o (execAcquisitionTimeout s) := by
  unfold execAcquisitionTimeout
  refine runs_next ?_
  refine State.kept_ite (fun _ => ?_) (fun _ => ?_)
  · refine State.enterTime_kept (sub_of hF rfl) ?_
    refine State.kept_tim (bit_of hF rfl) ?_
    with_reducible assumption
  · with_reducible assumption

theorem execColdStart_kept {qu : List Instr} {F : Nat} {o : State} {s : State} (hF : 0x4 ||| F = F) (hk : State.Kept qu F o s) : Runs qu F o (execColdStart s) := by
  unfold execColdStart
  refine runs_next ?_
  refine State.kept_ite (fun _ => ?_) (fun _ => ?_)
  · refine State.kept_tim (bit_of hF rfl) ?_
    with_reducible assumption
  · with_reducible assumption

theorem execDegradedEntry_kept {qu : List Instr} {F : Nat} {o : State} {s : State} (hF : 0x100000000009 ||| F = F) (hk : State.Kept qu F o s) : Runs qu F o (execDegradedEntry s) := by
  unfold execDegradedEntry
  refine runs_next ?_
  refine State.kept_ite (fun _ => ?_) (fun _ => ?_)
  · refine State.raise_kept (sub_of hF rfl) (bit_of hF rfl) ?_
    refine State.setF_kept (bit_of hF rfl) ?_
    with_reducible assumption
  · with_reducible assumption

theorem execAgentHoldover_kept {qu : List Instr} {F : Nat} {o : State} {agent : Addr} {s : State} (hF : 0x1000000000cd ||| F = F) (hk : State.Kept qu F o s) : Runs qu F o (execAgentHoldover agent s) := by
  unfold execAgentHoldover
  extract_lets +onlyGivenNames v80
  clear_value v80
  refine runs_next ?_
  refine State.kept_ite (fun _ => ?_) (fun _ => ?_)
  · refine State.raise_kept (sub_of hF rfl) (bit_of hF rfl) ?_
    refine State.judgeAgent_kept (sub_of hF rfl) ?_
    with_reducible assumption
  · with_reducible assumption

theorem State.floorAct_kept {qu : List Instr} {F : Nat} {o : State} {s : State} (hF : 0x110000002400d ||| F = F) (hk : State.Kept qu F o s) : State.Kept qu F o (State.floorAct s) := by
  unfold State.floorAct
  refine State.kept_ite (fun _ => ?_) (fun _ => ?_)
  · extract_lets +onlyGivenNames v79
    clear_value v79
    extract_lets +onlyGivenNames v78
    have hv78 : State.Kept qu F o v78 := by
      unfold v78
      refine State.logOwn_kept (sub_of hF rfl) ?_
      refine State.setPair_kept (bit_of hF rfl) (bit_of hF rfl) ?_
      refine State.setF_kept (bit_of hF rfl) ?_
      with_reducible assumption
    clear_value v78
    refine State.kept_ite (fun _ => ?_) (fun _ => ?_)
    · refine State.enterTime_kept (sub_of hF rfl) ?_
      refine State.kept_tim (bit_of hF rfl) ?_
      with_reducible assumption
    · with_reducible assumption
  · with_reducible assumption

theorem State.wallAct_kept {qu : List Instr} {F : Nat} {o : State} {s : State} (hF : 0x110000002400d ||| F = F) (hk : State.Kept qu F o s) : State.Kept qu F o (State.wallAct s) := by
  unfold State.wallAct
  refine State.kept_ite (fun _ => ?_) (fun _ => ?_)
  · extract_lets +onlyGivenNames v79
    clear_value v79
    extract_lets +onlyGivenNames v78
    clear_value v78
    extract_lets +onlyGivenNames v77
    have hv77 : State.Kept qu F o v77 := by
      unfold v77
      refine State.openWall_kept (sub_of hF rfl) ?_
      refine State.setF_kept (bit_of hF rfl) ?_
      with_reducible assumption
    clear_value v77
    refine State.raise_kept (sub_of hF rfl) (bit_of hF rfl) ?_
    refine State.logStep_kept (sub_of hF rfl) ?_
    with_reducible assumption
  · with_reducible assumption

end Sys2Proof.Machine
end

