-- ==== Sys2Proof/Laws/KeptRegs.lean ====
section
/-! SUPPORT. Laws/KeptRegs.lean: each operation of Machine/Regs.lean keeps the queue and the invariant. -/
namespace Sys2Proof.Machine

theorem State.bringWithheld_kept {qu : List Instr} {F : Nat} {o : State} {s : State} (hF : 0x1800000064019 ||| F = F) (hk : State.Kept qu F o s) : State.Kept qu F o (State.bringWithheld s) := by
  unfold State.bringWithheld
  extract_lets +onlyGivenNames v80
  clear_value v80
  refine State.kept_foldl ?_ ?_
  · refine State.onRst_kept (sub_of hF rfl) ?_
    with_reducible assumption
  · intro s78 x77 h76
    refine State.bringUnit_kept (sub_of hF rfl) ?_
    with_reducible assumption

theorem State.stallAct_kept {qu : List Instr} {F : Nat} {o : State} {s : State} (hF : 0x800000004000 ||| F = F) (hk : State.Kept qu F o s) : State.Kept qu F o (State.stallAct s) := by
  unfold State.stallAct
  refine State.kept_ite (fun _ => ?_) (fun _ => ?_)
  · extract_lets +onlyGivenNames v79
    clear_value v79
    refine State.setF_kept (bit_of hF rfl) ?_
    refine State.onEngine_kept (sub_of hF rfl) ?_
    with_reducible assumption
  · with_reducible assumption

theorem State.peakAct_kept {qu : List Instr} {F : Nat} {o : State} {s : State} (hF : 0x2000000000000 ||| F = F) (hk : State.Kept qu F o s) : State.Kept qu F o (State.peakAct s) := by
  unfold State.peakAct
  refine State.kept_ite (fun _ => ?_) (fun _ => ?_)
  · refine State.setF_kept (bit_of hF rfl) ?_
    refine State.setF_kept (bit_of hF rfl) ?_
    with_reducible assumption
  · with_reducible assumption

theorem State.regAct_kept {qu : List Instr} {F : Nat} {o : State} {s : State} {off : Nat} (hF : 0x3f4550007695d ||| F = F) (hk : State.Kept qu F o s) : State.Kept qu F o (State.regAct s off) := by
  unfold State.regAct
  refine State.kept_ite (fun _ => ?_) (fun _ => ?_)
  · refine State.testAct_kept (sub_of hF rfl) ?_
    with_reducible assumption
  · refine State.kept_ite (fun _ => ?_) (fun _ => ?_)
    · refine State.kept_ite (fun _ => ?_) (fun _ => ?_)
      · refine State.releaseHeld_kept (sub_of hF rfl) ?_
        with_reducible assumption
      · with_reducible assumption
    · refine State.kept_ite (fun _ => ?_) (fun _ => ?_)
      · refine State.enrolAct_kept (sub_of hF rfl) ?_
        with_reducible assumption
      · refine State.kept_ite (fun _ => ?_) (fun _ => ?_)
        · refine State.rotateAct_kept (sub_of hF rfl) ?_
          with_reducible assumption
        · refine State.kept_ite (fun _ => ?_) (fun _ => ?_)
          · refine State.kept_ite (fun _ => ?_) (fun _ => ?_)
            · refine State.bringWithheldLamps_kept (sub_of hF rfl) ?_
              with_reducible assumption
            · with_reducible assumption
          · refine State.kept_ite (fun _ => ?_) (fun _ => ?_)
            · refine State.floorAct_kept (sub_of hF rfl) ?_
              with_reducible assumption
            · refine State.kept_ite (fun _ => ?_) (fun _ => ?_)
              · refine State.wallAct_kept (sub_of hF rfl) ?_
                with_reducible assumption
              · refine State.kept_ite (fun _ => ?_) (fun _ => ?_)
                · refine State.telAct_kept (sub_of hF rfl) ?_
                  with_reducible assumption
                · refine State.kept_ite (fun _ => ?_) (fun _ => ?_)
                  · refine State.morAct_kept (sub_of hF rfl) ?_
                    with_reducible assumption
                  · refine State.kept_ite (fun _ => ?_) (fun _ => ?_)
                    · refine State.kept_ite (fun _ => ?_) (fun _ => ?_)
                      · refine State.bringWithheld_kept (sub_of hF rfl) ?_
                        with_reducible assumption
                      · with_reducible assumption
                    · refine State.kept_ite (fun _ => ?_) (fun _ => ?_)
                      · refine State.stallAct_kept (sub_of hF rfl) ?_
                        with_reducible assumption
                      · refine State.kept_ite (fun _ => ?_) (fun _ => ?_)
                        · refine State.peakAct_kept (sub_of hF rfl) ?_
                          with_reducible assumption
                        · with_reducible assumption

theorem State.writeEffects_kept {qu : List Instr} {F : Nat} {o : State} {s0 s : State} {off : Nat} {v : Word} (hF : 0x14104000264dd ||| F = F) (hk : State.Kept qu F o s) : State.Kept qu F o (State.writeEffects s0 s off v) := by
  unfold State.writeEffects
  extract_lets +onlyGivenNames v80
  have hv80 : State.Kept qu F o v80 := by
    unfold v80
    refine State.kept_ite (fun _ => ?_) (fun _ => ?_)
    · refine State.clearQuar_kept (sub_of hF rfl) ?_
      with_reducible assumption
    · with_reducible assumption
  clear_value v80
  extract_lets +onlyGivenNames v79
  have hv79 : State.Kept qu F o v79 := by
    unfold v79
    refine State.kept_ite (fun _ => ?_) (fun _ => ?_)
    · refine State.openWall_kept (sub_of hF rfl) ?_
      with_reducible assumption
    · with_reducible assumption
  clear_value v79
  extract_lets +onlyGivenNames v78
  have hv78 : State.Kept qu F o v78 := by
    unfold v78
    refine State.kept_ite (fun _ => ?_) (fun _ => ?_)
    · refine State.writeParams_kept (sub_of hF rfl) ?_
      with_reducible assumption
    · with_reducible assumption
  clear_value v78
  refine State.kept_ite (fun _ => ?_) (fun _ => ?_)
  · refine State.writeGuard_kept (sub_of hF rfl) ?_
    with_reducible assumption
  · with_reducible assumption

theorem State.dropLatches_kept {qu : List Instr} {F : Nat} {o : State} {s : State} {off : Nat} (hF : 0x8 ||| F = F) (hk : State.Kept qu F o s) : State.Kept qu F o (State.dropLatches s off) := by
  unfold State.dropLatches
  extract_lets +onlyGivenNames v80
  have hv80 : State.Kept qu F o v80 := by
    unfold v80
    refine State.dropLatch_kept (sub_of hF rfl) ?_
    with_reducible assumption
  clear_value v80
  refine State.kept_ite (fun _ => ?_) (fun _ => ?_)
  · refine State.kept_hif (bit_of hF rfl) ?_ rfl
    with_reducible assumption
  · with_reducible assumption

theorem State.hostWrite_kept {qu : List Instr} {F : Nat} {o : State} {s : State} {off : Nat} {v : Word} {same : Bool} (hF : 0xffffffff00076ddd ||| F = F) (hk : State.Kept qu F o s) : State.Kept qu F o (State.hostWrite s off v same) := by
  unfold State.hostWrite
  refine State.kept_ite (fun _ => ?_) (fun _ => ?_)
  · with_reducible assumption
  · refine State.kept_ite (fun _ => ?_) (fun _ => ?_)
    · refine State.writeReg_kept (sub_of hF rfl) ?_
      refine State.dropLatches_kept (sub_of hF rfl) ?_
      with_reducible assumption
    · extract_lets +onlyGivenNames v78
      have hv78 : State.Kept qu F o v78 := by
        unfold v78
        refine State.dropLatches_kept (sub_of hF rfl) ?_
        with_reducible assumption
      clear_value v78
      extract_lets +onlyGivenNames v77
      clear_value v77
      extract_lets +onlyGivenNames v76
      have hv76 : State.Kept qu F o v76 := by
        unfold v76
        with_reducible assumption
      clear_value v76
      extract_lets +onlyGivenNames v75
      have hv75 : State.Kept qu F o v75 := by
        unfold v75
        refine State.kept_ite (fun _ => ?_) (fun _ => ?_)
        · refine State.recordErr_kept (sub_of hF rfl) (bit_of hF rfl) ?_
          with_reducible assumption
        · with_reducible assumption
      clear_value v75
      split
      · with_reducible assumption
      · extract_lets +onlyGivenNames v73
        have hv73 : State.Kept qu F o v73 := by
          unfold v73
          refine State.writeReg_kept (sub_of hF rfl) ?_
          with_reducible assumption
        clear_value v73
        extract_lets +onlyGivenNames v72
        have hv72 : State.Kept qu F o v72 := by
          unfold v72
          refine State.writeEffects_kept (sub_of hF rfl) ?_
          with_reducible assumption
        clear_value v72
        refine State.kept_ite (fun _ => ?_) (fun _ => ?_)
        · with_reducible assumption
        · refine State.regAct_kept (sub_of hF rfl) ?_
          with_reducible assumption

theorem execFabricTestStart_kept {qu : List Instr} {F : Nat} {o : State} {value : Word} {s : State} (hF : 0xffffffff00076ddd ||| F = F) (hk : State.Kept qu F o s) : Runs qu F o (execFabricTestStart value s) := by
  unfold execFabricTestStart
  refine runs_next ?_
  refine State.hostWrite_kept (sub_of hF rfl) ?_
  with_reducible assumption

theorem execClearQuar_kept {qu : List Instr} {F : Nat} {o : State} {value : Word} {s : State} (hF : 0xffffffff00076ddd ||| F = F) (hk : State.Kept qu F o s) : Runs qu F o (execClearQuar value s) := by
  unfold execClearQuar
  refine runs_next ?_
  refine State.hostWrite_kept (sub_of hF rfl) ?_
  with_reducible assumption

theorem execLmpInjectArm_kept {qu : List Instr} {F : Nat} {o : State} {value : Word} {s : State} (hF : 0xffffffff00076ddd ||| F = F) (hk : State.Kept qu F o s) : Runs qu F o (execLmpInjectArm value s) := by
  unfold execLmpInjectArm
  refine runs_next ?_
  refine State.hostWrite_kept (sub_of hF rfl) ?_
  with_reducible assumption

theorem execFloorClear_kept {qu : List Instr} {F : Nat} {o : State} {value : Word} {s : State} (hF : 0xffffffff00076ddd ||| F = F) (hk : State.Kept qu F o s) : Runs qu F o (execFloorClear value s) := by
  unfold execFloorClear
  refine runs_next ?_
  refine State.hostWrite_kept (sub_of hF rfl) ?_
  with_reducible assumption

theorem execWallApply_kept {qu : List Instr} {F : Nat} {o : State} {value : Word} {s : State} (hF : 0xffffffff00076ddd ||| F = F) (hk : State.Kept qu F o s) : Runs qu F o (execWallApply value s) := by
  unfold execWallApply
  refine runs_next ?_
  refine State.hostWrite_kept (sub_of hF rfl) ?_
  with_reducible assumption

theorem execTelPeakClear_kept {qu : List Instr} {F : Nat} {o : State} {value : Word} {s : State} (hF : 0xffffffff00076ddd ||| F = F) (hk : State.Kept qu F o s) : Runs qu F o (execTelPeakClear value s) := by
  unfold execTelPeakClear
  refine runs_next ?_
  refine State.hostWrite_kept (sub_of hF rfl) ?_
  with_reducible assumption

theorem execAutoSpare_kept {qu : List Instr} {F : Nat} {o : State} {rst : Bool} {value : Word} {s : State} (hF : 0xffffffff00076ddd ||| F = F) (hk : State.Kept qu F o s) : Runs qu F o (execAutoSpare rst value s) := by
  unfold execAutoSpare
  refine runs_next ?_
  refine State.hostWrite_kept (sub_of hF rfl) ?_
  with_reducible assumption

theorem execEnrolGo_kept {qu : List Instr} {F : Nat} {o : State} {value : Word} {s : State} (hF : 0xffffffff00076ddd ||| F = F) (hk : State.Kept qu F o s) : Runs qu F o (execEnrolGo value s) := by
  unfold execEnrolGo
  refine runs_next ?_
  refine State.hostWrite_kept (sub_of hF rfl) ?_
  with_reducible assumption

theorem execKeyRotate_kept {qu : List Instr} {F : Nat} {o : State} {value : Word} {s : State} (hF : 0xffffffff00076ddd ||| F = F) (hk : State.Kept qu F o s) : Runs qu F o (execKeyRotate value s) := by
  unfold execKeyRotate
  refine runs_next ?_
  refine State.hostWrite_kept (sub_of hF rfl) ?_
  with_reducible assumption

theorem execHandover_kept {qu : List Instr} {F : Nat} {o : State} {value : Word} {s : State} (hF : 0xffffffff00076ddd ||| F = F) (hk : State.Kept qu F o s) : Runs qu F o (execHandover value s) := by
  unfold execHandover
  refine runs_next ?_
  refine State.hostWrite_kept (sub_of hF rfl) ?_
  with_reducible assumption

theorem execResyncReq_kept {qu : List Instr} {F : Nat} {o : State} {value : Word} {s : State} (hF : 0xffffffff00076ddd ||| F = F) (hk : State.Kept qu F o s) : Runs qu F o (execResyncReq value s) := by
  unfold execResyncReq
  refine runs_next ?_
  refine State.hostWrite_kept (sub_of hF rfl) ?_
  with_reducible assumption

theorem execRstTestStall_kept {qu : List Instr} {F : Nat} {o : State} {value : Word} {s : State} (hF : 0xffffffff00076ddd ||| F = F) (hk : State.Kept qu F o s) : Runs qu F o (execRstTestStall value s) := by
  unfold execRstTestStall
  refine runs_next ?_
  refine State.hostWrite_kept (sub_of hF rfl) ?_
  with_reducible assumption

theorem execPwrPeakClear_kept {qu : List Instr} {F : Nat} {o : State} {value : Word} {s : State} (hF : 0xffffffff00076ddd ||| F = F) (hk : State.Kept qu F o s) : Runs qu F o (execPwrPeakClear value s) := by
  unfold execPwrPeakClear
  refine runs_next ?_
  refine State.hostWrite_kept (sub_of hF rfl) ?_
  with_reducible assumption

theorem execSerialFloorWrite_kept {qu : List Instr} {F : Nat} {o : State} {value : Word} {s : State} (hF : 0xffffffff00076ddd ||| F = F) (hk : State.Kept qu F o s) : Runs qu F o (execSerialFloorWrite value s) := by
  unfold execSerialFloorWrite
  refine runs_next ?_
  refine State.hostWrite_kept (sub_of hF rfl) ?_
  with_reducible assumption

end Sys2Proof.Machine
end

