-- ==== Sys2Proof/Laws/KeptSlices.lean ====
section
/-! SUPPORT. Laws/KeptSlices.lean: each operation of Machine/Slices.lean keeps the queue and the invariant. -/
namespace Sys2Proof.Machine

theorem State.sendSliceReq_kept {qu : List Instr} {F : Nat} {o : State} {s : State} {i : SliceIssued} (hF : 0x41 ||| F = F) (hk : State.Kept qu F o s) : State.Kept qu F o (State.sendSliceReq s i) := by
  unfold State.sendSliceReq
  extract_lets +onlyGivenNames v80
  clear_value v80
  refine State.tellHead_kept (sub_of hF rfl) ?_
  with_reducible assumption

theorem State.issueSlice_kept {qu : List Instr} {F : Nat} {o : State} {s : State} {w op slice : Nat} {words : List Word} (hF : 0x4209 ||| F = F) (hk : State.Kept qu F o s) : State.Kept qu F o (State.issueSlice s w op slice words) := by
  unfold State.issueSlice
  refine State.kept_ite (fun _ => ?_) (fun _ => ?_)
  · refine State.refuse_kept (sub_of hF rfl) ?_
    with_reducible assumption
  · extract_lets +onlyGivenNames v79
    clear_value v79
    refine State.kept_slc (bit_of hF rfl) ?_
    with_reducible assumption

theorem State.sliceFetched_kept {qu : List Instr} {F : Nat} {o : State} {s : State} {w : Nat} {reseal : Bool} {ws : List Word} (hF : 0x4209 ||| F = F) (hk : State.Kept qu F o s) : State.Kept qu F o (State.sliceFetched s w reseal ws) := by
  unfold State.sliceFetched
  extract_lets +onlyGivenNames v80
  clear_value v80
  refine State.kept_ite (fun _ => ?_) (fun _ => ?_)
  · refine State.refuse_kept (sub_of hF rfl) ?_
    with_reducible assumption
  · refine State.issueSlice_kept (sub_of hF rfl) ?_
    with_reducible assumption

theorem cmdSliceFetch_kept {qu : List Instr} {F : Nat} {o : State} {reseal : Bool} {w : Nat} {s : State} (hF : 0x100004009 ||| F = F) (hk : State.Kept qu F o s) : State.Kept qu F o (cmdSliceFetch reseal w s) := by
  unfold cmdSliceFetch
  extract_lets +onlyGivenNames v80
  clear_value v80
  refine State.kept_ite (fun _ => ?_) (fun _ => ?_)
  · refine State.refuse_kept (sub_of hF rfl) ?_
    with_reducible assumption
  · refine State.kept_ite (fun _ => ?_) (fun _ => ?_)
    · refine State.refuse_kept (sub_of hF rfl) ?_
      with_reducible assumption
    · refine State.kept_ite (fun _ => ?_) (fun _ => ?_)
      · refine State.refuse_kept (sub_of hF rfl) ?_
        with_reducible assumption
      · refine State.startDma_kept (sub_of hF rfl) ?_ ?_
        · with_reducible assumption
        · intro s75 h74
          unfold id
          with_reducible assumption

theorem cmdSliceOp_kept {qu : List Instr} {F : Nat} {o : State} {op w : Nat} {s : State} (hF : 0x4209 ||| F = F) (hk : State.Kept qu F o s) : State.Kept qu F o (cmdSliceOp op w s) := by
  unfold cmdSliceOp
  refine State.kept_ite (fun _ => ?_) (fun _ => ?_)
  · refine State.refuse_kept (sub_of hF rfl) ?_
    with_reducible assumption
  · refine State.kept_ite (fun _ => ?_) (fun _ => ?_)
    · refine State.refuse_kept (sub_of hF rfl) ?_
      with_reducible assumption
    · refine State.issueSlice_kept (sub_of hF rfl) ?_
      with_reducible assumption

theorem execSliceCreate_kept {qu : List Instr} {F : Nat} {o : State} {c : HostCmd} {s : State} (hF : 0x100004009 ||| F = F) (hk : State.Kept qu F o s) : Runs qu F o (execSliceCreate c s) := by
  unfold execSliceCreate
  refine runs_next ?_
  refine State.issue_kept (sub_of hF rfl) ?_ ?_
  · with_reducible assumption
  · intro x78 s77 h76
    refine cmdSliceFetch_kept (sub_of hF rfl) ?_
    with_reducible assumption

theorem execSliceReseal_kept {qu : List Instr} {F : Nat} {o : State} {c : HostCmd} {s : State} (hF : 0x100004009 ||| F = F) (hk : State.Kept qu F o s) : Runs qu F o (execSliceReseal c s) := by
  unfold execSliceReseal
  refine runs_next ?_
  refine State.issue_kept (sub_of hF rfl) ?_ ?_
  · with_reducible assumption
  · intro x78 s77 h76
    refine cmdSliceFetch_kept (sub_of hF rfl) ?_
    with_reducible assumption

theorem execSliceDrain_kept {qu : List Instr} {F : Nat} {o : State} {c : HostCmd} {s : State} (hF : 0x100004209 ||| F = F) (hk : State.Kept qu F o s) : Runs qu F o (execSliceDrain c s) := by
  unfold execSliceDrain
  refine runs_next ?_
  refine State.issue_kept (sub_of hF rfl) ?_ ?_
  · with_reducible assumption
  · intro x78 s77 h76
    refine cmdSliceOp_kept (sub_of hF rfl) ?_
    with_reducible assumption

theorem execSliceDestroy_kept {qu : List Instr} {F : Nat} {o : State} {c : HostCmd} {s : State} (hF : 0x100004209 ||| F = F) (hk : State.Kept qu F o s) : Runs qu F o (execSliceDestroy c s) := by
  unfold execSliceDestroy
  refine runs_next ?_
  refine State.issue_kept (sub_of hF rfl) ?_ ?_
  · with_reducible assumption
  · intro x78 s77 h76
    refine cmdSliceOp_kept (sub_of hF rfl) ?_
    with_reducible assumption

theorem State.gotSliceReq_kept {qu : List Instr} {F : Nat} {o : State} {s : State} {stamp : Nat} {src : Addr} {m : KMsg} (hF : 0x241 ||| F = F) (hk : State.Kept qu F o s) : State.Kept qu F o (State.gotSliceReq s stamp src m) := by
  unfold State.gotSliceReq
  extract_lets +onlyGivenNames v80
  clear_value v80
  extract_lets +onlyGivenNames v79
  clear_value v79
  extract_lets +onlyGivenNames v78
  clear_value v78
  refine State.kept_ite (fun _ => ?_) (fun _ => ?_)
  · with_reducible assumption
  · split
    · refine State.tell_kept (sub_of hF rfl) ?_
      with_reducible assumption
    · extract_lets +onlyGivenNames v75
      clear_value v75
      refine State.kept_ite (fun _ => ?_) (fun _ => ?_)
      · with_reducible assumption
      · extract_lets +onlyGivenNames v73
        clear_value v73
        extract_lets +onlyGivenNames v72
        clear_value v72
        refine State.kept_slc (bit_of hF rfl) ?_
        with_reducible assumption

theorem execSliceReq_kept {qu : List Instr} {F : Nat} {o : State} {port : Nat} {p : Packet} {s : State} (hF : 0x1001000024179 ||| F = F) (hk : State.Kept qu F o s) : Runs qu F o (execSliceReq port p s) := by
  unfold execSliceReq
  refine runs_next ?_
  refine State.stageMsg_kept (sub_of hF rfl) ?_
  with_reducible assumption

theorem execAdmissionSolveDone_kept {qu : List Instr} {F : Nat} {o : State} {s : State} (hF : 0x5000000359 ||| F = F) (hk : State.Kept qu F o s) : Runs qu F o (execAdmissionSolveDone s) := by
  unfold execAdmissionSolveDone
  split
  · refine runs_next ?_
    with_reducible assumption
  · refine runs_ite (fun _ => ?_) (fun _ => ?_)
    · refine runs_next ?_
      with_reducible assumption
    · extract_lets +onlyGivenNames v78
      extract_lets +onlyGivenNames v77
      have hv77 : State.Kept qu F o v77 := by
        unfold v77
        refine State.kept_slc (bit_of hF rfl) ?_
        with_reducible assumption
      extract_lets +onlyGivenNames v76
      extract_lets +onlyGivenNames v75
      have hv75 : State.Kept qu F o v75 := by
        unfold v75
        refine State.kept_ite (fun _ => ?_) (fun _ => ?_)
        · refine State.takeSliceReq_kept (sub_of hF rfl) ?_
          with_reducible assumption
        · refine State.sliceReply_kept (sub_of hF rfl) ?_
          with_reducible assumption
      clear_value v75
      refine runs_next ?_
      refine State.stageInput_kept (sub_of hF rfl) ?_
      refine State.showHead_kept (sub_of hF rfl) ?_
      with_reducible assumption

theorem State.gotSliceReply_kept {qu : List Instr} {F : Nat} {o : State} {s : State} {_src : Addr} {m : KMsg} (hF : 0x4209 ||| F = F) (hk : State.Kept qu F o s) : State.Kept qu F o (State.gotSliceReply s _src m) := by
  unfold State.gotSliceReply
  extract_lets +onlyGivenNames v80
  clear_value v80
  extract_lets +onlyGivenNames v79
  clear_value v79
  split
  · with_reducible assumption
  · refine State.kept_ite (fun _ => ?_) (fun _ => ?_)
    · refine State.refuse_kept (sub_of hF rfl) ?_
      refine State.kept_slc (bit_of hF rfl) ?_
      with_reducible assumption
    · refine State.kept_slc (bit_of hF rfl) ?_
      with_reducible assumption

theorem execSliceReply_kept {qu : List Instr} {F : Nat} {o : State} {port : Nat} {p : Packet} {s : State} (hF : 0x1001000024379 ||| F = F) (hk : State.Kept qu F o s) : Runs qu F o (execSliceReply port p s) := by
  unfold execSliceReply
  refine runs_next ?_
  refine State.takeMsg_kept (sub_of hF rfl) ?_ ?_
  · with_reducible assumption
  · intro s78 x77 x76 h75
    refine State.gotSliceReply_kept (sub_of hF rfl) ?_
    with_reducible assumption

theorem execSliceReqTimeout_kept {qu : List Instr} {F : Nat} {o : State} {s : State} (hF : 0x4209 ||| F = F) (hk : State.Kept qu F o s) : Runs qu F o (execSliceReqTimeout s) := by
  unfold execSliceReqTimeout
  extract_lets +onlyGivenNames v80
  clear_value v80
  extract_lets +onlyGivenNames v79
  clear_value v79
  extract_lets +onlyGivenNames v78
  have hv78 : State.Kept qu F o v78 := by
    unfold v78
    refine State.kept_slc (bit_of hF rfl) ?_
    with_reducible assumption
  clear_value v78
  refine runs_next ?_
  refine State.kept_foldl ?_ ?_
  · with_reducible assumption
  · intro s75 x74 h73
    refine State.refuse_kept (sub_of hF rfl) ?_
    with_reducible assumption

theorem State.gotSliceTable_kept {qu : List Instr} {F : Nat} {o : State} {s : State} {_src : Addr} {m : KMsg} (hF : 0x300 ||| F = F) (hk : State.Kept qu F o s) : State.Kept qu F o (State.gotSliceTable s _src m) := by
  unfold State.gotSliceTable
  split
  · rename_i n80_0 n80_1 n80_2
    have hn80_2 : State.Kept qu F o n80_1 := by
      have en80_2 := congrArg (fun z => z.1) n80_2
      rw [show n80_1 = _ from en80_2.symm]
      beta_reduce
      refine State.collect_kept (sub_of hF rfl) ?_
      with_reducible assumption
    with_reducible assumption
  · rename_i n80_0 n80_1 n80_2 n80_3
    have hn80_3 : State.Kept qu F o n80_1 := by
      have en80_3 := congrArg (fun z => z.1) n80_3
      rw [show n80_1 = _ from en80_3.symm]
      beta_reduce
      refine State.collect_kept (sub_of hF rfl) ?_
      with_reducible assumption
    refine State.kept_ite (fun _ => ?_) (fun _ => ?_)
    · with_reducible assumption
    · refine State.kept_slc (bit_of hF rfl) ?_
      with_reducible assumption

theorem execSliceTable_kept {qu : List Instr} {F : Nat} {o : State} {port : Nat} {p : Packet} {s : State} (hF : 0x1001000024379 ||| F = F) (hk : State.Kept qu F o s) : Runs qu F o (execSliceTable port p s) := by
  unfold execSliceTable
  refine runs_next ?_
  refine State.takeMsg_kept (sub_of hF rfl) ?_ ?_
  · with_reducible assumption
  · intro s78 x77 x76 h75
    refine State.gotSliceTable_kept (sub_of hF rfl) ?_
    with_reducible assumption

theorem execDrainLimitExpiry_kept {qu : List Instr} {F : Nat} {o : State} {s : State} (hF : 0x241 ||| F = F) (hk : State.Kept qu F o s) : Runs qu F o (execDrainLimitExpiry s) := by
  unfold execDrainLimitExpiry
  extract_lets +onlyGivenNames v80
  clear_value v80
  extract_lets +onlyGivenNames v79
  clear_value v79
  extract_lets +onlyGivenNames v78
  clear_value v78
  extract_lets +onlyGivenNames v77
  have hv77 : State.Kept qu F o v77 := by
    unfold v77
    refine State.kept_slc (bit_of hF rfl) ?_
    with_reducible assumption
  clear_value v77
  refine runs_next ?_
  refine State.kept_foldl ?_ ?_
  · with_reducible assumption
  · intro s74 x73 h72
    refine State.flood_kept (sub_of hF rfl) ?_
    with_reducible assumption

end Sys2Proof.Machine
end

