-- ==== Sys2Proof/Laws/KeptReset.lean ====
section
/-! SUPPORT. Laws/KeptReset.lean: each operation of Machine/Reset.lean keeps the queue and the invariant. -/
namespace Sys2Proof.Machine

theorem execEngineHang_kept {qu : List Instr} {F : Nat} {o : State} {engine : Nat} {slice : Byte} {item : Word} {s : State} (hF : 0xffffffff001fffff ||| F = F) (hk : State.Kept qu F o s) : Runs qu F o (execEngineHang engine slice item s) := by
  unfold execEngineHang
  refine runs_ite (fun _ => ?_) (fun _ => ?_)
  · extract_lets +onlyGivenNames v79
    have hv79 : State.Kept qu F o v79 := by
      unfold v79
      refine State.showHung_kept (sub_of hF rfl) ?_
      refine State.onEngine_kept (sub_of hF rfl) ?_
      with_reducible assumption
    clear_value v79
    extract_lets +onlyGivenNames v78
    have hv78 : State.Kept qu F o v78 := by
      unfold v78
      refine State.escalate_kept (sub_of hF rfl) ?_
      refine State.logHang_kept (sub_of hF rfl) ?_
      with_reducible assumption
    clear_value v78
    refine runs_ite (fun _ => ?_) (fun _ => ?_)
    · refine runs_next ?_
      refine State.showHung_kept (sub_of hF rfl) ?_
      refine State.onEngine_kept (sub_of hF rfl) ?_
      with_reducible assumption
    · refine runs_next ?_
      with_reducible assumption
  · refine runs_next ?_
    with_reducible assumption

theorem State.restartEngine_kept {qu : List Instr} {F : Nat} {o : State} {s : State} {id : Nat} (hF : 0x4000000020d0 ||| F = F) (hk : State.Kept qu F o s) : State.Kept qu F o (State.restartEngine s id) := by
  unfold State.restartEngine
  refine State.kept_ite (fun _ => ?_) (fun _ => ?_)
  · refine State.kept_ite (fun _ => ?_) (fun _ => ?_)
    · refine State.kept_foldl ?_ ?_
      · with_reducible assumption
      · intro s77 x76 h75
        refine State.readNeighbours_kept (sub_of hF rfl) ?_
        with_reducible assumption
    · with_reducible assumption
  · refine State.kept_ite (fun _ => ?_) (fun _ => ?_)
    · refine State.kept_ite (fun _ => ?_) (fun _ => ?_)
      · refine State.kept_ite (fun _ => ?_) (fun _ => ?_)
        · refine State.startPages_kept (sub_of hF rfl) ?_
          with_reducible assumption
        · with_reducible assumption
      · refine State.startResync_kept (sub_of hF rfl) ?_
        with_reducible assumption
    · refine State.kept_ite (fun _ => ?_) (fun _ => ?_)
      · refine State.kept_work (bit_of hF rfl) ?_
        with_reducible assumption
      · with_reducible assumption

theorem execEngineResetDone_kept {qu : List Instr} {F : Nat} {o : State} {engine : Nat} {s : State} (hF : 0x3f455000769dd ||| F = F) (hk : State.Kept qu F o s) : Runs qu F o (execEngineResetDone engine s) := by
  unfold execEngineResetDone
  extract_lets +onlyGivenNames v80
  clear_value v80
  refine runs_ite (fun _ => ?_) (fun _ => ?_)
  · refine runs_next ?_
    with_reducible assumption
  · extract_lets +onlyGivenNames v78
    have hv78 : State.Kept qu F o v78 := by
      unfold v78
      refine State.onEngine_kept (sub_of hF rfl) ?_
      with_reducible assumption
    clear_value v78
    extract_lets +onlyGivenNames v77
    have hv77 : State.Kept qu F o v77 := by
      unfold v77
      split
      · refine State.onStage_kept (sub_of hF rfl) ?_
        with_reducible assumption
      · with_reducible assumption
    clear_value v77
    extract_lets +onlyGivenNames v76
    have hv76 : State.Kept qu F o v76 := by
      unfold v76
      refine State.showLevel_kept (sub_of hF rfl) ?_
      refine State.restartEngine_kept (sub_of hF rfl) ?_
      refine State.showHung_kept (sub_of hF rfl) ?_
      with_reducible assumption
    clear_value v76
    extract_lets +onlyGivenNames v75
    have hv75 : State.Kept qu F o v75 := by
      unfold v75
      refine State.kept_foldl ?_ ?_
      · with_reducible assumption
      · intro s73 x72 h71
        refine State.regAct_kept (sub_of hF rfl) ?_
        with_reducible assumption
    clear_value v75
    refine runs_next ?_
    refine State.answerReset_kept (sub_of hF rfl) ?_
    refine State.raise_kept (sub_of hF rfl) (bit_of hF rfl) ?_
    with_reducible assumption

theorem execContextHang_kept {qu : List Instr} {F : Nat} {o : State} {kind ctx : Nat} {s : State} (hF : 0x1c04000077cdb ||| F = F) (hk : State.Kept qu F o s) : Runs qu F o (execContextHang kind ctx s) := by
  unfold execContextHang
  refine runs_ite (fun _ => ?_) (fun _ => ?_)
  · split
    · refine runs_next ?_
      refine State.kept_ite (fun _ => ?_) (fun _ => ?_)
      · refine State.contextHang_kept (sub_of hF rfl) ?_
        with_reducible assumption
      · with_reducible assumption
    · refine runs_next ?_
      with_reducible assumption
  · refine runs_ite (fun _ => ?_) (fun _ => ?_)
    · split
      · refine runs_next ?_
        refine State.contextHang_kept (sub_of hF rfl) ?_
        with_reducible assumption
      · refine runs_next ?_
        with_reducible assumption
    · refine runs_next ?_
      with_reducible assumption

theorem execContextResetDone_kept {qu : List Instr} {F : Nat} {o : State} {kind ctx : Nat} {s : State} (hF : 0x800000004009 ||| F = F) (hk : State.Kept qu F o s) : Runs qu F o (execContextResetDone kind ctx s) := by
  unfold execContextResetDone
  split
  · refine runs_next ?_
    with_reducible assumption
  · extract_lets +onlyGivenNames v79
    have hv79 : State.Kept qu F o v79 := by
      unfold v79
      refine State.showLevel_kept (sub_of hF rfl) ?_
      refine State.onRst_kept (sub_of hF rfl) ?_
      with_reducible assumption
    clear_value v79
    refine runs_next ?_
    refine State.answerReset_kept (sub_of hF rfl) ?_
    refine State.raise_kept (sub_of hF rfl) (bit_of hF rfl) ?_
    with_reducible assumption

theorem State.dmaFailed_kept {qu : List Instr} {F : Nat} {o : State} {s : State} {d : Dma} {reason : Nat} (hF : 0x1000300034029 ||| F = F) (hk : State.Kept qu F o s) : State.Kept qu F o (State.dmaFailed s d reason) := by
  unfold State.dmaFailed
  extract_lets +onlyGivenNames v80
  have hv80 : State.Kept qu F o v80 := by
    unfold v80
    refine State.dmaErr_kept (sub_of hF rfl) ?_
    with_reducible assumption
  clear_value v80
  split
  · refine State.storeNext_kept (sub_of hF rfl) ?_
    refine State.refuse_kept (sub_of hF rfl) ?_
    refine State.onSlot_kept (sub_of hF rfl) ?_
    with_reducible assumption
  · refine State.enrolJudged_kept (sub_of hF rfl) ?_
    with_reducible assumption
  · refine State.refuse_kept (sub_of hF rfl) ?_
    with_reducible assumption

theorem State.dmaDone_kept {qu : List Instr} {F : Nat} {o : State} {s : State} {d : Dma} {words : List Word} (hF : 0x10000014629 ||| F = F) (hk : State.Kept qu F o s) : State.Kept qu F o (State.dmaDone s d words) := by
  unfold State.dmaDone
  split
  · refine State.onSlot_kept (sub_of hF rfl) ?_
    with_reducible assumption
  · refine State.sliceFetched_kept (sub_of hF rfl) ?_
    with_reducible assumption
  · refine State.planFetched_kept (sub_of hF rfl) ?_
    with_reducible assumption
  · refine State.onWdn_kept (sub_of hF rfl) ?_
    with_reducible assumption

theorem execHostDmaCompletion_kept {qu : List Instr} {F : Nat} {o : State} {slot status : Nat} {words : List Word} {s : State} (hF : 0x1010300034629 ||| F = F) (hk : State.Kept qu F o s) : Runs qu F o (execHostDmaCompletion slot status words s) := by
  unfold execHostDmaCompletion
  split
  · rename_i n80_0 n80_1 n80_2
    have hn80_2 : State.Kept qu F o n80_1 := by
      have en80_2 := congrArg (fun z => z.2) n80_2
      rw [show n80_1 = _ from en80_2.symm]
      beta_reduce
      refine State.takeDma_kept (sub_of hF rfl) ?_
      with_reducible assumption
    refine runs_next ?_
    with_reducible assumption
  · rename_i n80_0 n80_1 n80_2 n80_3
    have hn80_3 : State.Kept qu F o n80_2 := by
      have en80_3 := congrArg (fun z => z.2) n80_3
      rw [show n80_2 = _ from en80_3.symm]
      beta_reduce
      refine State.takeDma_kept (sub_of hF rfl) ?_
      with_reducible assumption
    refine runs_ite (fun _ => ?_) (fun _ => ?_)
    · refine runs_next ?_
      refine State.dmaFailed_kept (sub_of hF rfl) ?_
      with_reducible assumption
    · extract_lets +onlyGivenNames v78
      clear_value v78
      extract_lets +onlyGivenNames v77
      clear_value v77
      refine runs_ite (fun _ => ?_) (fun _ => ?_)
      · refine runs_next ?_
        refine State.progress_kept (sub_of hF rfl) ?_
        refine State.dmaDone_kept (sub_of hF rfl) ?_
        with_reducible assumption
      · refine runs_next ?_
        refine State.kept_hif (bit_of hF rfl) ?_ rfl
        with_reducible assumption

theorem execHostDmaTimeout_kept {qu : List Instr} {F : Nat} {o : State} {slot : Nat} {s : State} (hF : 0x1c04300077cfb ||| F = F) (hk : State.Kept qu F o s) : Runs qu F o (execHostDmaTimeout slot s) := by
  unfold execHostDmaTimeout
  split
  · rename_i n80_0 n80_1 n80_2
    have hn80_2 : State.Kept qu F o n80_1 := by
      have en80_2 := congrArg (fun z => z.2) n80_2
      rw [show n80_1 = _ from en80_2.symm]
      beta_reduce
      refine State.takeDma_kept (sub_of hF rfl) ?_
      with_reducible assumption
    refine runs_next ?_
    with_reducible assumption
  · rename_i n80_0 n80_1 n80_2 n80_3
    have hn80_3 : State.Kept qu F o n80_2 := by
      have en80_3 := congrArg (fun z => z.2) n80_3
      rw [show n80_2 = _ from en80_3.symm]
      beta_reduce
      refine State.takeDma_kept (sub_of hF rfl) ?_
      with_reducible assumption
    refine runs_next ?_
    refine State.dmaFailed_kept (sub_of hF rfl) ?_
    refine State.contextHang_kept (sub_of hF rfl) ?_
    with_reducible assumption

theorem execAonWatchdog_kept {qu : List Instr} {F : Nat} {o : State} {s : State} (hF : 0xffffffff001fffff ||| F = F) (hk : State.Kept qu F o s) : Runs qu F o (execAonWatchdog s) := by
  unfold execAonWatchdog
  refine runs_next ?_
  refine State.decidePart_kept (sub_of hF rfl) ?_
  refine State.setUnfit_kept (sub_of hF rfl) ?_
  with_reducible assumption

theorem execDeferredResetStart_kept {qu : List Instr} {F : Nat} {o : State} {s : State} (hF : 0xffffffff001fffff ||| F = F) (hk : State.Kept qu F o s) : Runs qu F o (execDeferredResetStart s) := by
  unfold execDeferredResetStart
  split
  · refine runs_ite (fun _ => ?_) (fun _ => ?_)
    · refine runs_next ?_
      refine State.proceedPart_kept (sub_of hF rfl) ?_
      with_reducible assumption
    · refine runs_next ?_
      with_reducible assumption
  · refine runs_next ?_
    with_reducible assumption

theorem execPartResetStart_kept {qu : List Instr} {F : Nat} {o : State} {s : State} (hF : 0xffffffff001fffff ||| F = F) (hk : State.Kept qu F o s) : Runs qu F o (execPartResetStart s) := by
  unfold execPartResetStart
  split
  · refine runs_ite (fun _ => ?_) (fun _ => ?_)
    · refine runs_next ?_
      with_reducible assumption
    · refine runs_next ?_
      refine State.startPart_kept (sub_of hF rfl) ?_
      refine State.kept_ite (fun _ => ?_) (fun _ => ?_)
      · refine State.loseLit_kept (sub_of hF rfl) ?_
        with_reducible assumption
      · with_reducible assumption
  · refine runs_next ?_
    with_reducible assumption

theorem execPartResetEnd_kept {qu : List Instr} {F : Nat} {o : State} {s : State} (hF : 0xc00000004049 ||| F = F) (hk : State.Kept qu F o s) : Runs qu F o (execPartResetEnd s) := by
  unfold execPartResetEnd
  split
  · refine runs_ite (fun _ => ?_) (fun _ => ?_)
    · extract_lets +onlyGivenNames v78
      have hv78 : State.Kept qu F o v78 := by
        unfold v78
        refine State.onRst_kept (sub_of hF rfl) ?_
        with_reducible assumption
      clear_value v78
      extract_lets +onlyGivenNames v77
      clear_value v77
      extract_lets +onlyGivenNames v76
      have hv76 : State.Kept qu F o v76 := by
        unfold v76
        refine State.kept_link (bit_of hF rfl) ?_
        with_reducible assumption
      clear_value v76
      refine runs_next ?_
      refine State.setUnfit_kept (sub_of hF rfl) ?_
      refine State.showLevel_kept (sub_of hF rfl) ?_
      with_reducible assumption
    · refine runs_next ?_
      with_reducible assumption
  · refine runs_next ?_
    with_reducible assumption

theorem execPartFitTimeout_kept {qu : List Instr} {F : Nat} {o : State} {s : State} (hF : 0xffffffff001fffff ||| F = F) (hk : State.Kept qu F o s) : Runs qu F o (execPartFitTimeout s) := by
  unfold execPartFitTimeout
  extract_lets +onlyGivenNames v80
  refine runs_next ?_
  refine State.kept_ite (fun _ => ?_) (fun _ => ?_)
  · refine State.decidePart_kept (sub_of hF rfl) ?_
    with_reducible assumption
  · with_reducible assumption

theorem execChipReset_kept {qu : List Instr} {F : Nat} {o : State} {s : State} (hF : 0xffffffff001fffff ||| F = F) (hk : State.Kept qu F o s) : Runs qu F o (execChipReset s) := by
  unfold execChipReset
  split
  · refine runs_ite (fun _ => ?_) (fun _ => ?_)
    · extract_lets +onlyGivenNames v78
      have hv78 : State.Kept qu F o v78 := by
        unfold v78
        refine State.restartChip_kept (sub_of hF rfl) ?_
        with_reducible assumption
      clear_value v78
      refine runs_next ?_
      refine State.kept_ite (fun _ => ?_) (fun _ => ?_)
      · refine State.setUnfit_kept (sub_of hF rfl) ?_
        refine State.showLevel_kept (sub_of hF rfl) ?_
        refine State.onRst_kept (sub_of hF rfl) ?_
        with_reducible assumption
      · with_reducible assumption
    · refine runs_next ?_
      with_reducible assumption
  · refine runs_next ?_
    with_reducible assumption

theorem execChipFitTimeout_kept {qu : List Instr} {F : Nat} {o : State} {s : State} (hF : 0xffffffff001fffff ||| F = F) (hk : State.Kept qu F o s) : Runs qu F o (execChipFitTimeout s) := by
  unfold execChipFitTimeout
  refine runs_next ?_
  refine State.kept_ite (fun _ => ?_) (fun _ => ?_)
  · refine State.decidePart_kept (sub_of hF rfl) ?_
    with_reducible assumption
  · with_reducible assumption

theorem execModReset_kept {qu : List Instr} {F : Nat} {o : State} {s : State} (hF : 0xffffffff001fffff ||| F = F) (hk : State.Kept qu F o s) : Runs qu F o (execModReset s) := by
  unfold execModReset
  extract_lets +onlyGivenNames v80
  have hv80 : State.Kept qu F o v80 := by
    unfold v80
    refine State.setUnfit_kept (sub_of hF rfl) ?_
    refine State.kept_ite (fun _ => ?_) (fun _ => ?_)
    · refine State.loseLit_kept (sub_of hF rfl) ?_
      with_reducible assumption
    · with_reducible assumption
  clear_value v80
  split
  · refine runs_ite (fun _ => ?_) (fun _ => ?_)
    · refine runs_next ?_
      refine State.onRst_kept (sub_of hF rfl) ?_
      with_reducible assumption
    · extract_lets +onlyGivenNames v77
      clear_value v77
      refine runs_next ?_
      refine State.startPart_kept (sub_of hF rfl) ?_
      refine State.raise_kept (sub_of hF rfl) (bit_of hF rfl) ?_
      with_reducible assumption
  · extract_lets +onlyGivenNames v78
    clear_value v78
    refine runs_next ?_
    refine State.startPart_kept (sub_of hF rfl) ?_
    refine State.raise_kept (sub_of hF rfl) (bit_of hF rfl) ?_
    with_reducible assumption

theorem execModResetDeassert_kept {qu : List Instr} {F : Nat} {o : State} {s : State} (hF : 0xc00000004009 ||| F = F) (hk : State.Kept qu F o s) : Runs qu F o (execModResetDeassert s) := by
  unfold execModResetDeassert
  split
  · refine runs_ite (fun _ => ?_) (fun _ => ?_)
    · refine runs_next ?_
      refine State.setUnfit_kept (sub_of hF rfl) ?_
      refine State.showLevel_kept (sub_of hF rfl) ?_
      refine State.onRst_kept (sub_of hF rfl) ?_
      with_reducible assumption
    · refine runs_next ?_
      refine State.onRst_kept (sub_of hF rfl) ?_
      with_reducible assumption
  · refine runs_next ?_
    with_reducible assumption

theorem State.hostContextReset_kept {qu : List Instr} {F : Nat} {o : State} {s : State} {w engine kind ctx : Nat} (hF : 0x1c00000027dcb ||| F = F) (hk : State.Kept qu F o s) : State.Kept qu F o (State.hostContextReset s w engine kind ctx) := by
  unfold State.hostContextReset
  refine State.kept_ite (fun _ => ?_) (fun _ => ?_)
  · split
    · extract_lets +onlyGivenNames v78
      have hv78 : State.Kept qu F o v78 := by
        unfold v78
        refine State.logHang_kept (sub_of hF rfl) ?_
        refine State.dropOp_kept (sub_of hF rfl) ?_
        with_reducible assumption
      clear_value v78
      extract_lets +onlyGivenNames v77
      clear_value v77
      extract_lets +onlyGivenNames v76
      have hv76 : State.Kept qu F o v76 := by
        unfold v76
        refine State.kept_mgmt (bit_of hF rfl) ?_
        with_reducible assumption
      clear_value v76
      refine State.opFailed_kept (sub_of hF rfl) ?_
      refine State.resetContext_kept (sub_of hF rfl) ?_
      with_reducible assumption
    · with_reducible assumption
  · extract_lets +onlyGivenNames v79
    clear_value v79
    refine State.resetContext_kept (sub_of hF rfl) ?_
    refine State.logHang_kept (sub_of hF rfl) ?_
    with_reducible assumption

theorem cmdEscalate_kept {qu : List Instr} {F : Nat} {o : State} {w : Nat} {s : State} (hF : 0xffffffff001fffff ||| F = F) (hk : State.Kept qu F o s) : State.Kept qu F o (cmdEscalate w s) := by
  unfold cmdEscalate
  extract_lets +onlyGivenNames v80
  clear_value v80
  extract_lets +onlyGivenNames v79
  clear_value v79
  extract_lets +onlyGivenNames v78
  clear_value v78
  extract_lets +onlyGivenNames v77
  clear_value v77
  extract_lets +onlyGivenNames v76
  clear_value v76
  extract_lets +onlyGivenNames v75
  clear_value v75
  refine State.kept_ite (fun _ => ?_) (fun _ => ?_)
  · refine State.complete_kept (sub_of hF rfl) ?_
    with_reducible assumption
  · refine State.kept_ite (fun _ => ?_) (fun _ => ?_)
    · split
      · refine State.kept_ite (fun _ => ?_) (fun _ => ?_)
        · refine State.onRst_kept (sub_of hF rfl) ?_
          with_reducible assumption
        · refine State.kept_ite (fun _ => ?_) (fun _ => ?_)
          · refine State.hostContextReset_kept (sub_of hF rfl) ?_
            with_reducible assumption
          · refine State.kept_ite (fun _ => ?_) (fun _ => ?_)
            · refine State.onEngine_kept (sub_of hF rfl) ?_
              with_reducible assumption
            · refine State.kept_ite (fun _ => ?_) (fun _ => ?_)
              · refine State.resetEngine_kept (sub_of hF rfl) ?_
                with_reducible assumption
              · refine State.resetSlice_kept (sub_of hF rfl) ?_
                with_reducible assumption
      · refine State.kept_ite (fun _ => ?_) (fun _ => ?_)
        · refine State.hostContextReset_kept (sub_of hF rfl) ?_
          with_reducible assumption
        · refine State.kept_ite (fun _ => ?_) (fun _ => ?_)
          · refine State.onEngine_kept (sub_of hF rfl) ?_
            with_reducible assumption
          · refine State.kept_ite (fun _ => ?_) (fun _ => ?_)
            · refine State.resetEngine_kept (sub_of hF rfl) ?_
              with_reducible assumption
            · refine State.resetSlice_kept (sub_of hF rfl) ?_
              refine State.raise_kept (sub_of hF rfl) (bit_of hF rfl) ?_
              with_reducible assumption
    · refine State.decidePart_kept (sub_of hF rfl) ?_
      with_reducible assumption

theorem execEscalateReset_kept {qu : List Instr} {F : Nat} {o : State} {c : HostCmd} {s : State} (hF : 0xffffffff001fffff ||| F = F) (hk : State.Kept qu F o s) : Runs qu F o (execEscalateReset c s) := by
  unfold execEscalateReset
  refine runs_next ?_
  refine State.issue_kept (sub_of hF rfl) ?_ ?_
  · with_reducible assumption
  · intro x78 s77 h76
    refine cmdEscalate_kept (sub_of hF rfl) ?_
    with_reducible assumption

theorem execSampleRoomTimeout_kept {qu : List Instr} {F : Nat} {o : State} {s : State} (hF : 0x1800000024009 ||| F = F) (hk : State.Kept qu F o s) : Runs qu F o (execSampleRoomTimeout s) := by
  unfold execSampleRoomTimeout
  split
  · refine runs_next ?_
    with_reducible assumption
  · extract_lets +onlyGivenNames v79
    have hv79 : State.Kept qu F o v79 := by
      unfold v79
      refine State.count_kept (bit_of hF rfl) ?_
      refine State.onRst_kept (sub_of hF rfl) ?_
      with_reducible assumption
    clear_value v79
    refine runs_next ?_
    refine State.stageSamples_kept (sub_of hF rfl) ?_
    refine State.raise_kept (sub_of hF rfl) (bit_of hF rfl) ?_
    with_reducible assumption

theorem execLogRingMove_kept {qu : List Instr} {F : Nat} {o : State} {s : State} (hF : 0x1800000024009 ||| F = F) (hk : State.Kept qu F o s) : Runs qu F o (execLogRingMove s) := by
  unfold execLogRingMove
  refine runs_ite (fun _ => ?_) (fun _ => ?_)
  · refine runs_next ?_
    with_reducible assumption
  · extract_lets +onlyGivenNames v79
    have hv79 : State.Kept qu F o v79 := by
      unfold v79
      refine State.progress_kept (sub_of hF rfl) ?_
      refine State.moveOne_kept (sub_of hF rfl) ?_
      with_reducible assumption
    clear_value v79
    refine runs_next ?_
    refine State.stageSamples_kept (sub_of hF rfl) ?_
    with_reducible assumption

theorem State.railsDown_kept {qu : List Instr} {F : Nat} {o : State} {s : State} {stage : PwrStage} (hF : 0xffffffff0001e6e9 ||| F = F) (hk : State.Kept qu F o s) : State.Kept qu F o (State.railsDown s stage) := by
  unfold State.railsDown
  extract_lets +onlyGivenNames v80
  have hv80 : State.Kept qu F o v80 := by
    unfold v80
    refine State.kept_ite (fun _ => ?_) (fun _ => ?_)
    · refine State.loseLit_kept (sub_of hF rfl) ?_
      with_reducible assumption
    · with_reducible assumption
  clear_value v80
  extract_lets +onlyGivenNames v79
  have hv79 : State.Kept qu F o v79 := by
    unfold v79
    refine State.setReg_kept (bit_of hF rfl) ?_
    with_reducible assumption
  clear_value v79
  refine State.kept_pwr (bit_of hF rfl) ?_
  with_reducible assumption

theorem State.afterCopy_kept {qu : List Instr} {F : Nat} {o : State} {s : State} {why : CopyFor} (hF : 0xffffffff0001e6e9 ||| F = F) (hk : State.Kept qu F o s) : State.Kept qu F o (State.afterCopy s why) := by
  unfold State.afterCopy
  split
  · with_reducible assumption
  · refine State.railsDown_kept (sub_of hF rfl) ?_
    refine State.setF_kept (bit_of hF rfl) ?_
    with_reducible assumption
  · refine State.railsDown_kept (sub_of hF rfl) ?_
    with_reducible assumption

theorem execLogCopyDone_kept {qu : List Instr} {F : Nat} {o : State} {s : State} (hF : 0xffffffff0003e6e9 ||| F = F) (hk : State.Kept qu F o s) : Runs qu F o (execLogCopyDone s) := by
  unfold execLogCopyDone
  split
  · refine runs_next ?_
    with_reducible assumption
  · refine runs_next ?_
    refine State.afterCopy_kept (sub_of hF rfl) ?_
    refine State.writeBlocks_kept (sub_of hF rfl) ?_
    refine State.endCopy_kept (sub_of hF rfl) ?_
    with_reducible assumption

theorem execLogCopyCutShort_kept {qu : List Instr} {F : Nat} {o : State} {s : State} (hF : 0xffffffff0003e6e9 ||| F = F) (hk : State.Kept qu F o s) : Runs qu F o (execLogCopyCutShort s) := by
  unfold execLogCopyCutShort
  split
  · refine runs_next ?_
    with_reducible assumption
  · extract_lets +onlyGivenNames v79
    clear_value v79
    extract_lets +onlyGivenNames v78
    clear_value v78
    extract_lets +onlyGivenNames v77
    have hv77 : State.Kept qu F o v77 := by
      unfold v77
      refine State.kept_log (bit_of hF rfl) ?_
      with_reducible assumption
    clear_value v77
    refine runs_next ?_
    refine State.afterCopy_kept (sub_of hF rfl) ?_
    refine State.showCopies_kept (sub_of hF rfl) ?_
    with_reducible assumption

theorem State.noSource_kept {qu : List Instr} {F : Nat} {o : State} {s : State} (hF : 0xffffffff001fffff ||| F = F) (hk : State.Kept qu F o s) : State.Kept qu F o (State.noSource s) := by
  unfold State.noSource
  refine State.kept_ite (fun _ => ?_) (fun _ => ?_)
  · refine State.decidePart_kept (sub_of hF rfl) ?_
    with_reducible assumption
  · with_reducible assumption

theorem State.retake_kept {qu : List Instr} {F : Nat} {o : State} {s : State} {item : DetItem} (hF : 0xffffffff001fffff ||| F = F) (hk : State.Kept qu F o s) : State.Kept qu F o (State.retake s item) := by
  unfold State.retake
  split
  · refine State.discardPlace_kept (sub_of hF rfl) ?_
    with_reducible assumption
  · refine State.kept_lnt (bit_of hF rfl) ?_
    with_reducible assumption
  · refine State.onPort_kept (sub_of hF rfl) ?_
    with_reducible assumption
  · refine State.onStage_kept (sub_of hF rfl) ?_
    with_reducible assumption
  · refine State.kept_foldl ?_ ?_
    · refine State.auditAgent_kept (sub_of hF rfl) ?_
      with_reducible assumption
    · intro s78 x77 h76
      refine State.auditPlan_kept (sub_of hF rfl) ?_
      with_reducible assumption
  · refine State.onSlot_kept (sub_of hF rfl) ?_
    with_reducible assumption
  · split
    · refine State.kept_chart (bit_of hF rfl) ?_
      with_reducible assumption
    · refine State.noSource_kept (sub_of hF rfl) ?_
      with_reducible assumption
  · refine State.askGraph_kept (sub_of hF rfl) ?_
    with_reducible assumption
  · refine State.kept_ite (fun _ => ?_) (fun _ => ?_)
    · with_reducible assumption
    · refine State.selfStale_kept (sub_of hF rfl) ?_
      refine State.moorCommitSend_kept (sub_of hF rfl) ?_
      with_reducible assumption
  · refine State.resetEngine_kept (sub_of hF rfl) ?_
    with_reducible assumption
  · extract_lets +onlyGivenNames v79
    clear_value v79
    refine State.raise_kept (sub_of hF rfl) (bit_of hF rfl) ?_
    refine State.kept_log (bit_of hF rfl) ?_
    with_reducible assumption
  · refine State.kept_tel (bit_of hF rfl) ?_
    with_reducible assumption
  · refine State.noSource_kept (sub_of hF rfl) ?_
    with_reducible assumption

theorem State.forget_kept {qu : List Instr} {F : Nat} {o : State} {s : State} {kind place : Nat} (hF : 0x4000 ||| F = F) (hk : State.Kept qu F o s) : State.Kept qu F o (State.forget s kind place) := by
  unfold State.forget
  refine State.onRst_kept (sub_of hF rfl) ?_
  with_reducible assumption

theorem State.withdrawRow_kept {qu : List Instr} {F : Nat} {o : State} {s : State} {unit : RowUnit} (hF : 0x400000004009 ||| F = F) (hk : State.Kept qu F o s) : State.Kept qu F o (State.withdrawRow s unit) := by
  unfold State.withdrawRow
  split
  · refine State.onRst_kept (sub_of hF rfl) ?_
    with_reducible assumption
  · refine State.onRst_kept (sub_of hF rfl) ?_
    with_reducible assumption
  · refine State.onRst_kept (sub_of hF rfl) ?_
    with_reducible assumption
  · refine State.onEngine_kept (sub_of hF rfl) ?_
    with_reducible assumption
  · refine State.setUnfit_kept (sub_of hF rfl) ?_
    with_reducible assumption

theorem State.judgePlace_kept {qu : List Instr} {F : Nat} {o : State} {s : State} {loc : DetLoc} (hF : 0x1c00000064019 ||| F = F) (hk : State.Kept qu F o s) : State.Kept qu F o (State.judgePlace s loc) := by
  unfold State.judgePlace
  extract_lets +onlyGivenNames v80
  clear_value v80
  split
  · extract_lets +onlyGivenNames v78
    clear_value v78
    refine State.kept_ite (fun _ => ?_) (fun _ => ?_)
    · refine State.kept_ite (fun _ => ?_) (fun _ => ?_)
      · refine State.retireUnit_kept (sub_of hF rfl) ?_
        refine State.forget_kept (sub_of hF rfl) ?_
        with_reducible assumption
      · refine State.withdrawRow_kept (sub_of hF rfl) ?_
        refine State.forget_kept (sub_of hF rfl) ?_
        with_reducible assumption
    · refine State.onRst_kept (sub_of hF rfl) ?_
      with_reducible assumption
  · extract_lets +onlyGivenNames v78
    clear_value v78
    extract_lets +onlyGivenNames v77
    clear_value v77
    extract_lets +onlyGivenNames v76
    clear_value v76
    extract_lets +onlyGivenNames v75
    have hv75 : State.Kept qu F o v75 := by
      unfold v75
      refine State.onRst_kept (sub_of hF rfl) ?_
      with_reducible assumption
    clear_value v75
    extract_lets +onlyGivenNames v74
    refine State.kept_ite (fun _ => ?_) (fun _ => ?_)
    · refine State.retireUnit_kept (sub_of hF rfl) ?_
      refine State.forget_kept (sub_of hF rfl) ?_
      refine State.forget_kept (sub_of hF rfl) ?_
      with_reducible assumption
    · with_reducible assumption

theorem execDetectionError_kept {qu : List Instr} {F : Nat} {o : State} {item : DetItem} {loc : DetLoc} {s : State} (hF : 0xffffffff001fffff ||| F = F) (hk : State.Kept qu F o s) : Runs qu F o (execDetectionError item loc s) := by
  unfold execDetectionError
  extract_lets +onlyGivenNames v80
  clear_value v80
  extract_lets +onlyGivenNames v79
  have hv79 : State.Kept qu F o v79 := by
    unfold v79
    refine State.raise_kept (sub_of hF rfl) (bit_of hF rfl) ?_
    refine State.count_kept (bit_all hF rfl) ?_
    with_reducible assumption
  clear_value v79
  refine runs_next ?_
  refine State.retake_kept (sub_of hF rfl) ?_
  refine State.judgePlace_kept (sub_of hF rfl) ?_
  with_reducible assumption

theorem execPseudoChannelCopyDone_kept {qu : List Instr} {F : Nat} {o : State} {channel : Nat} {s : State} (hF : 0x4000 ||| F = F) (hk : State.Kept qu F o s) : Runs qu F o (execPseudoChannelCopyDone channel s) := by
  unfold execPseudoChannelCopyDone
  refine runs_next ?_
  refine State.onRst_kept (sub_of hF rfl) ?_
  with_reducible assumption

theorem State.failUnit_kept {qu : List Instr} {F : Nat} {o : State} {s : State} {test unit : Nat} (hF : 0x1841200064979 ||| F = F) (hk : State.Kept qu F o s) : State.Kept qu F o (State.failUnit s test unit).1 := by
  unfold State.failUnit
  extract_lets +onlyGivenNames v80
  clear_value v80
  rw [apply_ite Prod.fst]
  refine State.kept_ite (fun _ => ?_) (fun _ => ?_)
  · dsimp only
    refine State.retireLamp_kept (sub_of hF rfl) ?_
    with_reducible assumption
  · rw [apply_ite Prod.fst]
    refine State.kept_ite (fun _ => ?_) (fun _ => ?_)
    · dsimp only
      refine State.retireLane_kept (sub_of hF rfl) ?_
      with_reducible assumption
    · rw [apply_ite Prod.fst]
      refine State.kept_ite (fun _ => ?_) (fun _ => ?_)
      · with_reducible assumption
      · rw [apply_ite Prod.fst]
        refine State.kept_ite (fun _ => ?_) (fun _ => ?_)
        · dsimp only
          refine State.retireUnit_kept (sub_of hF rfl) ?_
          with_reducible assumption
        · rw [apply_ite Prod.fst]
          refine State.kept_ite (fun _ => ?_) (fun _ => ?_)
          · dsimp only
            refine State.kept_ite (fun _ => ?_) (fun _ => ?_)
            · refine State.raise_kept (sub_of hF rfl) (bit_of hF rfl) ?_
              refine State.onSlot_kept (sub_of hF rfl) ?_
              with_reducible assumption
            · with_reducible assumption
          · rw [apply_ite Prod.fst]
            refine State.kept_ite (fun _ => ?_) (fun _ => ?_)
            · dsimp only
              refine State.retirePilot_kept (sub_of hF rfl) ?_
              with_reducible assumption
            · extract_lets +onlyGivenNames v67
              clear_value v67
              extract_lets +onlyGivenNames v66
              have hv66 : State.Kept qu F o v66 := by
                unfold v66
                refine State.kept_link (bit_of hF rfl) ?_
                with_reducible assumption
              clear_value v66
              with_reducible assumption

theorem execSelftestResult_kept {qu : List Instr} {F : Nat} {o : State} {test : Nat} {units : List Nat} {s : State} (hF : 0x1c41200064979 ||| F = F) (hk : State.Kept qu F o s) : Runs qu F o (execSelftestResult test units s) := by
  unfold execSelftestResult
  refine runs_ite (fun _ => ?_) (fun _ => ?_)
  · refine runs_next ?_
    with_reducible assumption
  · extract_lets +onlyGivenNames v79
    have hv79 : State.Kept qu F o v79.1 := by
      unfold v79
      refine State.kept_foldl_fst ?_ ?_
      · with_reducible assumption
      · intro x77 x76 h75
        extract_lets +onlyGivenNames v74
        have hv74 : State.Kept qu F o v74.1 := by
          unfold v74
          refine State.failUnit_kept (sub_of hF rfl) ?_
          with_reducible assumption
        clear_value v74
        with_reducible assumption
    clear_value v79
    extract_lets +onlyGivenNames v78
    have hv78 : State.Kept qu F o v78 := by
      unfold v78
      with_reducible assumption
    clear_value v78
    extract_lets +onlyGivenNames v77
    have hv77 : State.Kept qu F o v77 := by
      unfold v77
      refine State.kept_ite (fun _ => ?_) (fun _ => ?_)
      · refine State.setF_kept (bit_blk (b := 14) hF rfl (by unfold regBlock; simp only [selfTestFld, Reg.MOR_SELFTEST]; omega)) ?_
        with_reducible assumption
      · refine State.raise_kept (sub_of hF rfl) (bit_of hF rfl) ?_
        refine State.setF_kept (bit_blk (b := 14) hF rfl (by unfold regBlock; simp only [selfTestFld, Reg.MOR_SELFTEST]; omega)) ?_
        with_reducible assumption
    clear_value v77
    extract_lets +onlyGivenNames v76
    have hv76 : State.Kept qu F o v76 := by
      unfold v76
      refine State.onRst_kept (sub_of hF rfl) ?_
      with_reducible assumption
    clear_value v76
    extract_lets +onlyGivenNames v75
    have hv75 : State.Kept qu F o v75 := by
      unfold v75
      refine State.setUnfit_kept (sub_of hF rfl) ?_
      with_reducible assumption
    clear_value v75
    refine runs_next ?_
    refine State.kept_ite (fun _ => ?_) (fun _ => ?_)
    · refine State.count_kept (bit_of hF rfl) ?_
      with_reducible assumption
    · with_reducible assumption

end Sys2Proof.Machine
end

