-- ==== Sys2Proof/Laws/KeptHost.lean ====
section
/-! SUPPORT. Laws/KeptHost.lean: each operation of Machine/Host.lean keeps the queue and the invariant. -/
namespace Sys2Proof.Machine

theorem cmdSetWakeLatency_kept {qu : List Instr} {F : Nat} {o : State} {w : Nat} {s : State} (hF : 0x4019 ||| F = F) (hk : State.Kept qu F o s) : State.Kept qu F o (cmdSetWakeLatency w s) := by
  unfold cmdSetWakeLatency
  extract_lets +onlyGivenNames v80
  clear_value v80
  extract_lets +onlyGivenNames v79
  clear_value v79
  refine State.kept_ite (fun _ => ?_) (fun _ => ?_)
  · refine State.refuse_kept (sub_of hF rfl) ?_
    with_reducible assumption
  · refine State.kept_ite (fun _ => ?_) (fun _ => ?_)
    · refine State.refuse_kept (sub_of hF rfl) ?_
      with_reducible assumption
    · refine State.kept_ite (fun _ => ?_) (fun _ => ?_)
      · refine State.refuse_kept (sub_of hF rfl) ?_
        with_reducible assumption
      · refine State.stageInput_kept (sub_of hF rfl) ?_
        with_reducible assumption

theorem State.takeWakeLatency_kept {qu : List Instr} {F : Nat} {o : State} {s : State} {w id ns : Nat} (hF : 0x4059 ||| F = F) (hk : State.Kept qu F o s) : State.Kept qu F o (State.takeWakeLatency s w id ns) := by
  unfold State.takeWakeLatency
  refine State.kept_ite (fun _ => ?_) (fun _ => ?_)
  · refine State.refuse_kept (sub_of hF rfl) ?_
    with_reducible assumption
  · extract_lets +onlyGivenNames v79
    clear_value v79
    extract_lets +onlyGivenNames v78
    clear_value v78
    extract_lets +onlyGivenNames v77
    have hv77 : State.Kept qu F o v77 := by
      unfold v77
      refine State.kept_link (bit_of hF rfl) ?_
      with_reducible assumption
    clear_value v77
    refine State.completeAfter_kept (sub_of hF rfl) ?_
    refine State.askProposal_kept (sub_of hF rfl) ?_
    with_reducible assumption

theorem execSetWakeLatency_kept {qu : List Instr} {F : Nat} {o : State} {c : HostCmd} {s : State} (hF : 0x100004019 ||| F = F) (hk : State.Kept qu F o s) : Runs qu F o (execSetWakeLatency c s) := by
  unfold execSetWakeLatency
  refine runs_next ?_
  refine State.issue_kept (sub_of hF rfl) ?_ ?_
  · with_reducible assumption
  · intro x78 s77 h76
    refine cmdSetWakeLatency_kept (sub_of hF rfl) ?_
    with_reducible assumption

theorem cmdAgentRead_kept {qu : List Instr} {F : Nat} {o : State} {w : Nat} {s : State} (hF : 0x40c9 ||| F = F) (hk : State.Kept qu F o s) : State.Kept qu F o (cmdAgentRead w s) := by
  unfold cmdAgentRead
  extract_lets +onlyGivenNames v80
  clear_value v80
  extract_lets +onlyGivenNames v79
  clear_value v79
  refine State.kept_ite (fun _ => ?_) (fun _ => ?_)
  · refine State.refuse_kept (sub_of hF rfl) ?_
    with_reducible assumption
  · refine State.kept_ite (fun _ => ?_) (fun _ => ?_)
    · refine State.refuse_kept (sub_of hF rfl) ?_
      with_reducible assumption
    · refine State.kept_ite (fun _ => ?_) (fun _ => ?_)
      · refine State.refuse_kept (sub_of hF rfl) ?_
        with_reducible assumption
      · refine State.kept_ite (fun _ => ?_) (fun _ => ?_)
        · refine State.refuse_kept (sub_of hF rfl) ?_
          with_reducible assumption
        · refine State.kept_ite (fun _ => ?_) (fun _ => ?_)
          · refine State.refuse_kept (sub_of hF rfl) ?_
            with_reducible assumption
          · refine State.kept_ite (fun _ => ?_) (fun _ => ?_)
            · refine State.refuse_kept (sub_of hF rfl) ?_
              with_reducible assumption
            · refine State.mgmtRead_kept (sub_of hF rfl) ?_
              with_reducible assumption

theorem execAgentRead_kept {qu : List Instr} {F : Nat} {o : State} {c : HostCmd} {s : State} (hF : 0x1000040c9 ||| F = F) (hk : State.Kept qu F o s) : Runs qu F o (execAgentRead c s) := by
  unfold execAgentRead
  refine runs_next ?_
  refine State.issue_kept (sub_of hF rfl) ?_ ?_
  · with_reducible assumption
  · intro x78 s77 h76
    refine cmdAgentRead_kept (sub_of hF rfl) ?_
    with_reducible assumption

theorem cmdAgentWrite_kept {qu : List Instr} {F : Nat} {o : State} {w : Nat} {s : State} (hF : 0x41c9 ||| F = F) (hk : State.Kept qu F o s) : State.Kept qu F o (cmdAgentWrite w s) := by
  unfold cmdAgentWrite
  extract_lets +onlyGivenNames v80
  clear_value v80
  extract_lets +onlyGivenNames v79
  clear_value v79
  extract_lets +onlyGivenNames v78
  clear_value v78
  refine State.kept_ite (fun _ => ?_) (fun _ => ?_)
  · refine State.refuse_kept (sub_of hF rfl) ?_
    with_reducible assumption
  · refine State.kept_ite (fun _ => ?_) (fun _ => ?_)
    · refine State.refuse_kept (sub_of hF rfl) ?_
      with_reducible assumption
    · refine State.kept_ite (fun _ => ?_) (fun _ => ?_)
      · refine State.mgmtWrite_kept (sub_of hF rfl) ?_
        with_reducible assumption
      · split
        · refine State.refuse_kept (sub_of hF rfl) ?_
          with_reducible assumption
        · extract_lets +onlyGivenNames v73
          clear_value v73
          extract_lets +onlyGivenNames v72
          clear_value v72
          extract_lets +onlyGivenNames v71
          clear_value v71
          extract_lets +onlyGivenNames v70
          have hv70 : State.Kept qu F o v70 := by
            unfold v70
            refine State.mgmtWrite_kept (sub_of hF rfl) ?_
            refine State.kept_ite (fun _ => ?_) (fun _ => ?_)
            · with_reducible assumption
            · refine State.setNbr_kept (sub_of hF rfl) ?_
              with_reducible assumption
          clear_value v70
          refine State.kept_ite (fun _ => ?_) (fun _ => ?_)
          · refine State.countIn_kept (sub_of hF rfl) ?_
            with_reducible assumption
          · with_reducible assumption

theorem execAgentWrite_kept {qu : List Instr} {F : Nat} {o : State} {c : HostCmd} {s : State} (hF : 0x1000041c9 ||| F = F) (hk : State.Kept qu F o s) : Runs qu F o (execAgentWrite c s) := by
  unfold execAgentWrite
  refine runs_next ?_
  refine State.issue_kept (sub_of hF rfl) ?_ ?_
  · with_reducible assumption
  · intro x78 s77 h76
    refine cmdAgentWrite_kept (sub_of hF rfl) ?_
    with_reducible assumption

theorem cmdReserved_kept {qu : List Instr} {F : Nat} {o : State} {w : Nat} {s : State} (hF : 0x4009 ||| F = F) (hk : State.Kept qu F o s) : State.Kept qu F o (cmdReserved w s) := by
  unfold cmdReserved
  refine State.refuse_kept (sub_of hF rfl) ?_
  with_reducible assumption

theorem runOpcode_kept {qu : List Instr} {F : Nat} {o : State} {opcode w : Nat} {s : State} (hF : 0xffffffff001fffff ||| F = F) (hk : State.Kept qu F o s) : State.Kept qu F o (runOpcode opcode w s) := by
  unfold runOpcode
  split
  · refine cmdLoadChart_kept (sub_of hF rfl) ?_
    with_reducible assumption
  · refine cmdLightChart_kept (sub_of hF rfl) ?_
    with_reducible assumption
  · refine cmdStore_kept (sub_of hF rfl) ?_
    with_reducible assumption
  · refine cmdSliceFetch_kept (sub_of hF rfl) ?_
    with_reducible assumption
  · refine cmdSliceFetch_kept (sub_of hF rfl) ?_
    with_reducible assumption
  · refine cmdSliceOp_kept (sub_of hF rfl) ?_
    with_reducible assumption
  · refine cmdSliceOp_kept (sub_of hF rfl) ?_
    with_reducible assumption
  · refine cmdPlanCollective_kept (sub_of hF rfl) ?_
    with_reducible assumption
  · refine cmdAbortCollective_kept (sub_of hF rfl) ?_
    with_reducible assumption
  · refine cmdAttest_kept (sub_of hF rfl) ?_
    with_reducible assumption
  · refine cmdIssueSeal_kept (sub_of hF rfl) ?_
    with_reducible assumption
  · refine cmdSetWakeLatency_kept (sub_of hF rfl) ?_
    with_reducible assumption
  · refine cmdEscalate_kept (sub_of hF rfl) ?_
    with_reducible assumption
  · refine cmdAgentRead_kept (sub_of hF rfl) ?_
    with_reducible assumption
  · refine cmdAgentWrite_kept (sub_of hF rfl) ?_
    with_reducible assumption
  · refine cmdReadLoadmap_kept (sub_of hF rfl) ?_
    with_reducible assumption
  · refine cmdReserved_kept (sub_of hF rfl) ?_
    with_reducible assumption

theorem execReservedOpcode_kept {qu : List Instr} {F : Nat} {o : State} {opcode : Byte} {c : HostCmd} {s : State} (hF : 0xffffffff001fffff ||| F = F) (hk : State.Kept qu F o s) : Runs qu F o (execReservedOpcode opcode c s) := by
  unfold execReservedOpcode
  refine runs_next ?_
  refine State.issue_kept (sub_of hF rfl) ?_ ?_
  · with_reducible assumption
  · intro x78 s77 h76
    refine runOpcode_kept (sub_of hF rfl) ?_
    with_reducible assumption

theorem State.writeWindow_kept {qu : List Instr} {F : Nat} {o : State} {s : State} {off : Nat} {v : Word} (hF : 0xffffffff001fffff ||| F = F) (hk : State.Kept qu F o s) : State.Kept qu F o (State.writeWindow s off v) := by
  unfold State.writeWindow
  extract_lets +onlyGivenNames v80
  clear_value v80
  extract_lets +onlyGivenNames v79
  clear_value v79
  refine State.kept_ite (fun _ => ?_) (fun _ => ?_)
  · with_reducible assumption
  · refine State.kept_ite (fun _ => ?_) (fun _ => ?_)
    · extract_lets +onlyGivenNames v76
      clear_value v76
      refine State.kept_ite (fun _ => ?_) (fun _ => ?_)
      · refine runOpcode_kept (sub_of hF rfl) ?_
        refine State.commit_kept (sub_of hF rfl) ?_
        with_reducible assumption
      · refine State.writeSeqIdle_kept (sub_of hF rfl) ?_
        with_reducible assumption
    · refine State.kept_ite (fun _ => ?_) (fun _ => ?_)
      · refine State.writeCmdWord_kept (sub_of hF rfl) ?_
        with_reducible assumption
      · with_reducible assumption

theorem execCommandWindowWrite_kept {qu : List Instr} {F : Nat} {o : State} {off bytes : Nat} {value : BitVec 64} {s : State} (hF : 0xffffffff001fffff ||| F = F) (hk : State.Kept qu F o s) : Runs qu F o (execCommandWindowWrite off bytes value s) := by
  unfold execCommandWindowWrite
  refine runs_next ?_
  refine State.kept_ite (fun _ => ?_) (fun _ => ?_)
  · with_reducible assumption
  · refine State.kept_ite (fun _ => ?_) (fun _ => ?_)
    · refine State.recordErr_kept (sub_of hF rfl) (bit_of hF rfl) ?_
      with_reducible assumption
    · extract_lets +onlyGivenNames v77
      have hv77 : State.Kept qu F o v77 := by
        unfold v77
        refine State.writeWindow_kept (sub_of hF rfl) ?_
        with_reducible assumption
      clear_value v77
      refine State.kept_ite (fun _ => ?_) (fun _ => ?_)
      · refine State.writeWindow_kept (sub_of hF rfl) ?_
        with_reducible assumption
      · with_reducible assumption

theorem execMsixSpacingExpiry_kept {qu : List Instr} {F : Nat} {o : State} {vector : Nat} {s : State} (hF : 0x9 ||| F = F) (hk : State.Kept qu F o s) : Runs qu F o (execMsixSpacingExpiry vector s) := by
  unfold execMsixSpacingExpiry
  extract_lets +onlyGivenNames v80
  clear_value v80
  extract_lets +onlyGivenNames v79
  have hv79 : State.Kept qu F o v79 := by
    unfold v79
    refine State.onVec_kept (sub_of hF rfl) ?_
    with_reducible assumption
  clear_value v79
  refine runs_next ?_
  refine State.kept_ite (fun _ => ?_) (fun _ => ?_)
  · refine State.signal_kept (sub_of hF rfl) ?_
    with_reducible assumption
  · with_reducible assumption

theorem execD3hotEntry_kept {qu : List Instr} {F : Nat} {o : State} {s : State} (hF : 0x8 ||| F = F) (hk : State.Kept qu F o s) : Runs qu F o (execD3hotEntry s) := by
  unfold execD3hotEntry
  refine runs_next ?_
  refine State.kept_hif (bit_of hF rfl) ?_ rfl
  with_reducible assumption

theorem execD0Return_kept {qu : List Instr} {F : Nat} {o : State} {s : State} (hF : 0x9 ||| F = F) (hk : State.Kept qu F o s) : Runs qu F o (execD0Return s) := by
  unfold execD0Return
  extract_lets +onlyGivenNames v80
  clear_value v80
  refine runs_next ?_
  refine State.kept_foldl ?_ ?_
  · refine State.kept_hif (bit_of hF rfl) ?_ rfl
    with_reducible assumption
  · intro s77 x76 h75
    refine State.signal_kept (sub_of hF rfl) ?_
    with_reducible assumption

theorem State.detachWindows_kept {qu : List Instr} {F : Nat} {o : State} {s : State} (hF : 0x146b8 ||| F = F) (hk : State.Kept qu F o s) : State.Kept qu F o (State.detachWindows s) := by
  unfold State.detachWindows
  refine State.kept_with ?_ (by constructor <;> first | exact fun _ => rfl | exact fun _ _ => rfl | exact fun h => absurd (h.symm.trans (bit_of hF rfl)) Bool.false_ne_true) rfl rfl rfl
  with_reducible assumption

theorem State.functionReset_kept {qu : List Instr} {F : Nat} {o : State} {s : State} (hF : 0x1c04000077efb ||| F = F) (hk : State.Kept qu F o s) : State.Kept qu F o (State.functionReset s) := by
  unfold State.functionReset
  exact State.resetEngine_kept (sub_of hF rfl) (State.kept_hif (bit_of hF rfl) (State.detachWindows_kept (sub_of hF rfl) hk) (by simp [Hif.functionReset]))

theorem execFunctionLevelReset_kept {qu : List Instr} {F : Nat} {o : State} {s : State} (hF : 0x1c04000077efb ||| F = F) (hk : State.Kept qu F o s) : Runs qu F o (execFunctionLevelReset s) := by
  unfold execFunctionLevelReset
  refine runs_next ?_
  refine State.functionReset_kept (sub_of hF rfl) ?_
  with_reducible assumption

theorem execPerstAssert_kept {qu : List Instr} {F : Nat} {o : State} {s : State} (hF : 0x1c04000077efb ||| F = F) (hk : State.Kept qu F o s) : Runs qu F o (execPerstAssert s) := by
  unfold execPerstAssert
  extract_lets +onlyGivenNames v80
  have hv80 : State.Kept qu F o v80 := by
    unfold v80
    refine State.functionReset_kept (sub_of hF rfl) ?_
    with_reducible assumption
  clear_value v80
  refine runs_next ?_
  refine State.kept_hif (bit_of hF rfl) ?_ rfl
  with_reducible assumption

theorem execPcieLinkTrained_kept {qu : List Instr} {F : Nat} {o : State} {offered width : Nat} {s : State} (hF : 0x100000009 ||| F = F) (hk : State.Kept qu F o s) : Runs qu F o (execPcieLinkTrained offered width s) := by
  unfold execPcieLinkTrained
  extract_lets +onlyGivenNames v80
  clear_value v80
  extract_lets +onlyGivenNames v79
  clear_value v79
  extract_lets +onlyGivenNames v78
  have hv78 : State.Kept qu F o v78 := by
    unfold v78
    refine State.setF_kept (bit_of hF rfl) ?_
    refine State.setF_kept (bit_of hF rfl) ?_
    refine State.setF_kept (bit_of hF rfl) ?_
    with_reducible assumption
  clear_value v78
  extract_lets +onlyGivenNames v77
  extract_lets +onlyGivenNames v76
  have hv76 : State.Kept qu F o v76 := by
    unfold v76
    refine State.kept_hif (bit_of hF rfl) ?_ rfl
    with_reducible assumption
  clear_value v76
  refine runs_next ?_
  refine State.raiseIf_kept (sub_of hF rfl) (bit_of hF rfl) ?_
  with_reducible assumption

end Sys2Proof.Machine
end

