-- ==== Sys2Proof/Laws/KeptBatch.lean ====
section
/-! SUPPORT. Laws/KeptBatch.lean: each operation of Machine/Batch.lean keeps the queue and the invariant. -/
namespace Sys2Proof.Machine

theorem State.takeJob_kept {qu : List Instr} {F : Nat} {o : State} {s : State} {stamp : Nat} {j : Job} (hF : 0x10d02000246f9 ||| F = F) (hk : State.Kept qu F o s) : State.Kept qu F o (State.takeJob s stamp j) := by
  unfold State.takeJob
  split
  · with_reducible assumption
  · with_reducible assumption
  · with_reducible assumption
  · refine State.takeHeld_kept (sub_of hF rfl) ?_
    with_reducible assumption
  · refine State.lightCommand_kept (sub_of hF rfl) ?_
    with_reducible assumption
  · refine State.takeWakeLatency_kept (sub_of hF rfl) ?_
    with_reducible assumption
  · refine State.kept_ite (fun _ => ?_) (fun _ => ?_)
    · refine State.gotSliceReq_kept (sub_of hF rfl) ?_
      with_reducible assumption
    · refine State.kept_ite (fun _ => ?_) (fun _ => ?_)
      · refine State.gotPlanReq_kept (sub_of hF rfl) ?_
        with_reducible assumption
      · refine State.kept_ite (fun _ => ?_) (fun _ => ?_)
        · refine State.gotPlanOffer_kept (sub_of hF rfl) ?_
          with_reducible assumption
        · refine State.kept_ite (fun _ => ?_) (fun _ => ?_)
          · refine State.gotPlanCommit_kept (sub_of hF rfl) ?_
            with_reducible assumption
          · refine State.kept_ite (fun _ => ?_) (fun _ => ?_)
            · refine State.gotPlanReady_kept (sub_of hF rfl) ?_
              with_reducible assumption
            · with_reducible assumption

theorem State.publishJob_kept {qu : List Instr} {F : Nat} {o : State} {s : State} {j : Job} (hF : 0x10d5200025ff9 ||| F = F) (hk : State.Kept qu F o s) : State.Kept qu F o (State.publishJob s j) := by
  unfold State.publishJob
  split
  · with_reducible assumption
  · with_reducible assumption
  · with_reducible assumption
  · refine State.publishCheck_kept (sub_of hF rfl) ?_
    with_reducible assumption
  · refine State.publishVerdict_kept (sub_of hF rfl) ?_
    with_reducible assumption
  · refine State.publishAnswer_kept (sub_of hF rfl) ?_
    with_reducible assumption
  · refine State.kept_ite (fun _ => ?_) (fun _ => ?_)
    · refine State.gotPlanOrder_kept (sub_of hF rfl) ?_
      with_reducible assumption
    · with_reducible assumption

theorem State.publishBatch_kept {qu : List Instr} {F : Nat} {o : State} {s : State} {id : StageId} (hF : 0x10d5200025ff9 ||| F = F) (hk : State.Kept qu F o s) : State.Kept qu F o (State.publishBatch s id) := by
  unfold State.publishBatch
  extract_lets +onlyGivenNames v80
  clear_value v80
  extract_lets +onlyGivenNames v79
  have hv79 : State.Kept qu F o v79 := by
    unfold v79
    refine State.onStage_kept (sub_of hF rfl) ?_
    with_reducible assumption
  clear_value v79
  extract_lets +onlyGivenNames v78
  have hv78 : State.Kept qu F o v78 := by
    unfold v78
    refine State.kept_foldl ?_ ?_
    · with_reducible assumption
    · intro s76 x75 h74
      refine State.publishJob_kept (sub_of hF rfl) ?_
      with_reducible assumption
  clear_value v78
  split
  · refine State.admitNext_kept (sub_of hF rfl) ?_
    with_reducible assumption
  · refine State.kept_ite (fun _ => ?_) (fun _ => ?_)
    · refine State.admitPlans_kept (sub_of hF rfl) ?_
      refine State.settlePlans_kept (sub_of hF rfl) ?_
      with_reducible assumption
    · with_reducible assumption
  · with_reducible assumption

theorem State.takeBatch_kept {qu : List Instr} {F : Nat} {o : State} {s : State} {id : StageId} (hF : 0x10d42000247f9 ||| F = F) (hk : State.Kept qu F o s) : State.Kept qu F o (State.takeBatch s id) := by
  unfold State.takeBatch
  extract_lets +onlyGivenNames v80
  clear_value v80
  extract_lets +onlyGivenNames v79
  have hv79 : State.Kept qu F o v79 := by
    unfold v79
    refine State.onStage_kept (sub_of hF rfl) ?_
    with_reducible assumption
  clear_value v79
  extract_lets +onlyGivenNames v78
  have hv78 : State.Kept qu F o v78 := by
    unfold v78
    refine State.kept_foldl ?_ ?_
    · with_reducible assumption
    · intro s76 x75 h74
      refine State.takeJob_kept (sub_of hF rfl) ?_
      with_reducible assumption
  clear_value v78
  split
  · refine State.admitNext_kept (sub_of hF rfl) ?_
    with_reducible assumption
  · with_reducible assumption

end Sys2Proof.Machine
end

