-- ==== Sys2Proof/Laws/KeptEgress.lean ====
section
/-! SUPPORT. Laws/KeptEgress.lean: each operation of Machine/Egress.lean keeps the queue and the invariant. -/
namespace Sys2Proof.Machine

theorem execEgressPacketBoundary_kept {qu : List Instr} {F : Nat} {o : State} {party : Option Addr} {port : Nat} {s : State} (hF : 0x80041 ||| F = F) (hk : State.Kept qu F o s) : Runs qu F o (execEgressPacketBoundary party port s) := by
  unfold execEgressPacketBoundary
  split
  · refine runs_next ?_
    refine State.agEmit_kept (sub_of hF rfl) ?_
    with_reducible assumption
  · split
    · refine runs_next ?_
      refine State.emit_kept (sub_of hF rfl) ?_
      with_reducible assumption
    · refine runs_next ?_
      with_reducible assumption

theorem execTokenBucketRefill_kept {qu : List Instr} {F : Nat} {o : State} {party : Option Addr} {port : Nat} {vc : Nat} {s : State} (hF : 0x80040 ||| F = F) (hk : State.Kept qu F o s) : Runs qu F o (execTokenBucketRefill party port vc s) := by
  unfold execTokenBucketRefill
  split
  · refine runs_next ?_
    refine State.onAgent_kept (sub_of hF rfl) ?_
    with_reducible assumption
  · refine runs_next ?_
    refine State.onPort_kept (sub_of hF rfl) ?_
    with_reducible assumption

theorem execCreditReturn_kept {qu : List Instr} {F : Nat} {o : State} {party : Option Addr} {port : Nat} {vc : Nat} {units : Nat} {s : State} (hF : 0x80040 ||| F = F) (hk : State.Kept qu F o s) : Runs qu F o (execCreditReturn party port vc units s) := by
  unfold execCreditReturn
  split
  · refine runs_next ?_
    refine State.onAgent_kept (sub_of hF rfl) ?_
    with_reducible assumption
  · refine runs_next ?_
    refine State.onPort_kept (sub_of hF rfl) ?_
    with_reducible assumption

theorem execResyncMark_kept {qu : List Instr} {F : Nat} {o : State} {party : Option Addr} {port : Nat} {s : State} (hF : 0x80041 ||| F = F) (hk : State.Kept qu F o s) : Runs qu F o (execResyncMark party port s) := by
  unfold execResyncMark
  split
  · refine runs_next ?_
    refine State.agLcb_kept (sub_of hF rfl) ?_
    with_reducible assumption
  · refine runs_next ?_
    refine State.sendLcb_kept (sub_of hF rfl) ?_
    with_reducible assumption

theorem execResyncGrant_kept {qu : List Instr} {F : Nat} {o : State} {party : Option Addr} {port : Nat} {units : List Nat} {s : State} (hF : 0x80040 ||| F = F) (hk : State.Kept qu F o s) : Runs qu F o (execResyncGrant party port units s) := by
  unfold execResyncGrant
  split
  · refine runs_next ?_
    refine State.onAgent_kept (sub_of hF rfl) ?_
    with_reducible assumption
  · refine runs_next ?_
    refine State.onPort_kept (sub_of hF rfl) ?_
    with_reducible assumption

end Sys2Proof.Machine
end

