-- ==== Sys2Proof/Laws/KeptPower.lean ====
section
/-! SUPPORT. Laws/KeptPower.lean: each operation of Machine/Power.lean keeps the queue and the invariant. -/
namespace Sys2Proof.Machine

theorem State.onPwr_kept {qu : List Instr} {F : Nat} {o : State} {s : State} {f : PwrState → PwrState} (hF : 0x8000 ||| F = F) (hk : State.Kept qu F o s) : State.Kept qu F o (State.onPwr s f) := by
  unfold State.onPwr
  refine State.kept_pwr (bit_of hF rfl) ?_
  with_reducible assumption

theorem State.railsUp_kept {qu : List Instr} {F : Nat} {o : State} {s : State} {fail : Option Nat} {last : Bool} (hF : 0xffffffff001fffff ||| F = F) (hk : State.Kept qu F o s) : State.Kept qu F o (State.railsUp s fail last) := by
  unfold State.railsUp
  split
  · refine State.onPwr_kept (sub_of hF rfl) ?_
    refine State.setReg_kept (bit_of hF rfl) ?_
    with_reducible assumption
  · extract_lets +onlyGivenNames v79
    have hv79 : State.Kept qu F o v79 := by
      unfold v79
      refine State.onPwr_kept (sub_of hF rfl) ?_
      refine State.setReg_kept (bit_of hF rfl) ?_
      refine State.setReg_kept (bit_of hF rfl) ?_
      with_reducible assumption
    clear_value v79
    refine State.restartChip_kept (sub_of hF rfl) ?_
    with_reducible assumption

theorem execPowerUp_kept {qu : List Instr} {F : Nat} {o : State} {role x y : Nat} {fail : Option Nat} {s : State} (hF : 0xffffffff001fffff ||| F = F) (hk : State.Kept qu F o s) : Runs qu F o (execPowerUp role x y fail s) := by
  unfold execPowerUp
  refine runs_ite (fun _ => ?_) (fun _ => ?_)
  · extract_lets +onlyGivenNames v79
    have hv79 : State.Kept qu F o v79 := by
      unfold v79
      refine State.setF_kept (bit_of hF rfl) ?_
      refine State.setF_kept (bit_of hF rfl) ?_
      refine State.setF_kept (bit_of hF rfl) ?_
      with_reducible assumption
    clear_value v79
    refine runs_next ?_
    refine State.railsUp_kept (sub_of hF rfl) ?_
    with_reducible assumption
  · refine runs_next ?_
    with_reducible assumption

theorem execRailFailRetry_kept {qu : List Instr} {F : Nat} {o : State} {fail : Option Nat} {s : State} (hF : 0xffffffff001fffff ||| F = F) (hk : State.Kept qu F o s) : Runs qu F o (execRailFailRetry fail s) := by
  unfold execRailFailRetry
  refine runs_ite (fun _ => ?_) (fun _ => ?_)
  · refine runs_next ?_
    refine State.railsUp_kept (sub_of hF rfl) ?_
    with_reducible assumption
  · refine runs_next ?_
    with_reducible assumption

theorem execVinDip_kept {qu : List Instr} {F : Nat} {o : State} {s : State} (hF : 0x2000000008009 ||| F = F) (hk : State.Kept qu F o s) : Runs qu F o (execVinDip s) := by
  unfold execVinDip
  refine runs_ite (fun _ => ?_) (fun _ => ?_)
  · refine runs_next ?_
    refine State.onPwr_kept (sub_of hF rfl) ?_
    refine State.raise_kept (sub_of hF rfl) (bit_of hF rfl) ?_
    with_reducible assumption
  · refine runs_next ?_
    with_reducible assumption

theorem execVinLoss_kept {qu : List Instr} {F : Nat} {o : State} {s : State} (hF : 0xffffffff0003e6e9 ||| F = F) (hk : State.Kept qu F o s) : Runs qu F o (execVinLoss s) := by
  unfold execVinLoss
  extract_lets +onlyGivenNames v80
  clear_value v80
  extract_lets +onlyGivenNames v79
  clear_value v79
  extract_lets +onlyGivenNames v78
  have hv78 : State.Kept qu F o v78 := by
    unfold v78
    refine State.kept_log (bit_of hF rfl) ?_
    with_reducible assumption
  clear_value v78
  refine runs_next ?_
  refine State.setF_kept (bit_of hF rfl) ?_
  refine State.setReg_kept (bit_of hF rfl) ?_
  refine State.railsDown_kept (sub_of hF rfl) ?_
  with_reducible assumption

theorem execShutdownLimit_kept {qu : List Instr} {F : Nat} {o : State} {cause : Nat} {s : State} (hF : 0x340000002c009 ||| F = F) (hk : State.Kept qu F o s) : Runs qu F o (execShutdownLimit cause s) := by
  unfold execShutdownLimit
  refine runs_ite (fun _ => ?_) (fun _ => ?_)
  · refine runs_next ?_
    with_reducible assumption
  · extract_lets +onlyGivenNames v79
    have hv79 : State.Kept qu F o v79 := by
      unfold v79
      refine State.onPwr_kept (sub_of hF rfl) ?_
      refine State.setUnfit_kept (sub_of hF rfl) ?_
      refine State.setF_kept (bit_of hF rfl) ?_
      with_reducible assumption
    clear_value v79
    refine runs_next ?_
    refine State.kept_ite (fun _ => ?_) (fun _ => ?_)
    · with_reducible assumption
    · refine State.startCopy_kept (sub_of hF rfl) ?_
      with_reducible assumption

theorem execShutdownReleaseTimeout_kept {qu : List Instr} {F : Nat} {o : State} {s : State} (hF : 0xffffffff000366e9 ||| F = F) (hk : State.Kept qu F o s) : Runs qu F o (execShutdownReleaseTimeout s) := by
  unfold execShutdownReleaseTimeout
  refine runs_ite (fun _ => ?_) (fun _ => ?_)
  · refine runs_next ?_
    refine State.startCopy_kept (sub_of hF rfl) ?_
    refine State.loseLit_kept (sub_of hF rfl) ?_
    with_reducible assumption
  · refine runs_next ?_
    with_reducible assumption

theorem execGrantWithdraw_kept {qu : List Instr} {F : Nat} {o : State} {s : State} (hF : 0xffffffff000366e9 ||| F = F) (hk : State.Kept qu F o s) : Runs qu F o (execGrantWithdraw s) := by
  unfold execGrantWithdraw
  extract_lets +onlyGivenNames v1080
  have hv1080 : State.Kept qu F o v1080 := by
    unfold v1080
    refine State.setF_kept (bit_of hF rfl) ?_
    refine State.setF_kept (bit_of hF rfl) ?_
    with_reducible assumption
  refine runs_ite (fun _ => ?_) (fun _ => ?_)
  · extract_lets +onlyGivenNames v1078
    have hv1078 : State.Kept qu F o v1078 := by
      unfold v1078
      refine State.loseLit_kept (sub_of hF rfl) ?_
      with_reducible assumption
    refine runs_next ?_
    refine State.kept_ite (fun _ => ?_) (fun _ => ?_)
    · refine State.startCopy_kept (sub_of hF rfl) ?_
      with_reducible assumption
    · with_reducible assumption
  · refine runs_next ?_
    refine State.onMor_keptOf (sub_of hF rfl) ?_ (by first | exact fun _ _ => rfl | exact fun _ _ => hg | exact fun _ h => absurd h Bool.false_ne_true | exact fun _ h => absurd h ‹_›)
    with_reducible assumption

theorem execThermalTrip_kept {qu : List Instr} {F : Nat} {o : State} {s : State} (hF : 0xffffffff0003e6e9 ||| F = F) (hk : State.Kept qu F o s) : Runs qu F o (execThermalTrip s) := by
  unfold execThermalTrip
  refine runs_ite (fun _ => ?_) (fun _ => ?_)
  · refine runs_next ?_
    with_reducible assumption
  · extract_lets +onlyGivenNames v79
    clear_value v79
    extract_lets +onlyGivenNames v78
    clear_value v78
    extract_lets +onlyGivenNames v77
    have hv77 : State.Kept qu F o v77 := by
      unfold v77
      refine State.kept_log (bit_of hF rfl) ?_
      with_reducible assumption
    clear_value v77
    refine runs_next ?_
    refine State.setF_kept (bit_of hF rfl) ?_
    refine State.railsDown_kept (sub_of hF rfl) ?_
    with_reducible assumption

theorem execThrottleStep_kept {qu : List Instr} {F : Nat} {o : State} {s : State} (hF : 0x2000000008009 ||| F = F) (hk : State.Kept qu F o s) : Runs qu F o (execThrottleStep s) := by
  unfold execThrottleStep
  extract_lets +onlyGivenNames v80
  clear_value v80
  refine runs_ite (fun _ => ?_) (fun _ => ?_)
  · refine runs_next ?_
    refine State.onPwr_kept (sub_of hF rfl) ?_
    refine State.raise_kept (sub_of hF rfl) (bit_of hF rfl) ?_
    refine State.setF_kept (bit_of hF rfl) ?_
    with_reducible assumption
  · refine runs_ite (fun _ => ?_) (fun _ => ?_)
    · refine runs_next ?_
      refine State.onPwr_kept (sub_of hF rfl) ?_
      refine State.setF_kept (bit_of hF rfl) ?_
      with_reducible assumption
    · refine runs_next ?_
      with_reducible assumption

theorem execFrefLoss_kept {qu : List Instr} {F : Nat} {o : State} {s : State} (hF : 0x2000000000009 ||| F = F) (hk : State.Kept qu F o s) : Runs qu F o (execFrefLoss s) := by
  unfold execFrefLoss
  extract_lets +onlyGivenNames v80
  have hv80 : State.Kept qu F o v80 := by
    unfold v80
    refine State.kept_ite (fun _ => ?_) (fun _ => ?_)
    · refine State.setF_kept (bit_of hF rfl) ?_
      with_reducible assumption
    · with_reducible assumption
  clear_value v80
  refine runs_next ?_
  refine State.raise_kept (sub_of hF rfl) (bit_of hF rfl) ?_
  with_reducible assumption

theorem execFrefRestore_kept {qu : List Instr} {F : Nat} {o : State} {s : State} (hF : 0x2000000000009 ||| F = F) (hk : State.Kept qu F o s) : Runs qu F o (execFrefRestore s) := by
  unfold execFrefRestore
  refine runs_next ?_
  refine State.kept_ite (fun _ => ?_) (fun _ => ?_)
  · refine State.raise_kept (sub_of hF rfl) (bit_of hF rfl) ?_
    refine State.setF_kept (bit_of hF rfl) ?_
    with_reducible assumption
  · with_reducible assumption

end Sys2Proof.Machine
end

