-- ==== Sys2Proof/Laws/KeptFlash.lean ====
section
/-! SUPPORT. Laws/KeptFlash.lean: each operation of Machine/Flash.lean keeps the queue and the invariant. -/
namespace Sys2Proof.Machine

theorem State.countStage_kept {qu : List Instr} {F : Nat} {o : State} {s : State} {id : StageId} {late busy : Bool} (hF : 0x4010 ||| F = F) (hk : State.Kept qu F o s) : State.Kept qu F o (State.countStage s id late busy) := by
  unfold State.countStage
  refine State.kept_ite (fun _ => ?_) (fun _ => ?_)
  · refine State.onStage_kept (sub_of hF rfl) ?_
    with_reducible assumption
  · refine State.kept_ite (fun _ => ?_) (fun _ => ?_)
    · refine State.onStage_kept (sub_of hF rfl) ?_
      with_reducible assumption
    · refine State.progress_kept (sub_of hF rfl) ?_
      refine State.onStage_kept (sub_of hF rfl) ?_
      with_reducible assumption

theorem State.turnBatches_kept {qu : List Instr} {F : Nat} {o : State} {s : State} {late : StageId → Bool} (hF : 0x10d5200025ff9 ||| F = F) (hk : State.Kept qu F o s) : State.Kept qu F o (State.turnBatches s late) := by
  unfold State.turnBatches
  extract_lets +onlyGivenNames v80
  clear_value v80
  extract_lets +onlyGivenNames v79
  have hv79 : State.Kept qu F o v79 := by
    unfold v79
    refine State.kept_foldl ?_ ?_
    · with_reducible assumption
    · intro s77 x76 h75
      refine State.publishBatch_kept (sub_of hF rfl) ?_
      with_reducible assumption
  clear_value v79
  refine State.kept_foldl ?_ ?_
  · with_reducible assumption
  · intro s77 x76 h75
    refine State.takeBatch_kept (sub_of hF rfl) ?_
    with_reducible assumption

theorem State.senseSensors_kept {qu : List Instr} {F : Nat} {o : State} {s : State} {m : FlashMeas} (hF : 0x2000000008009 ||| F = F) (hk : State.Kept qu F o s) : State.Kept qu F o (State.senseSensors s m) := by
  unfold State.senseSensors
  extract_lets +onlyGivenNames v80
  clear_value v80
  extract_lets +onlyGivenNames v79
  clear_value v79
  extract_lets +onlyGivenNames v78
  have hv78 : State.Kept qu F o v78 := by
    unfold v78
    refine State.setF_kept (bit_of hF rfl) ?_
    refine State.setF_kept (bit_of hF rfl) ?_
    with_reducible assumption
  clear_value v78
  extract_lets +onlyGivenNames v77
  have hv77 : State.Kept qu F o v77 := by
    unfold v77
    refine State.setF_kept (bit_of hF rfl) ?_
    refine State.setF_kept (bit_of hF rfl) ?_
    with_reducible assumption
  clear_value v77
  extract_lets +onlyGivenNames v76
  have hv76 : State.Kept qu F o v76 := by
    unfold v76
    refine State.setF_kept (bit_of hF rfl) ?_
    refine State.setF_kept (bit_of hF rfl) ?_
    refine State.setF_kept (bit_of hF rfl) ?_
    with_reducible assumption
  clear_value v76
  extract_lets +onlyGivenNames v75
  have hv75 : State.Kept qu F o v75 := by
    unfold v75
    refine State.setReg_kept (bit_of hF rfl) ?_
    with_reducible assumption
  clear_value v75
  extract_lets +onlyGivenNames v74
  clear_value v74
  extract_lets +onlyGivenNames v73
  clear_value v73
  extract_lets +onlyGivenNames v72
  have hv72 : State.Kept qu F o v72 := by
    unfold v72
    refine State.raiseIf_kept (sub_of hF rfl) (bit_of hF rfl) ?_
    refine State.raiseIf_kept (sub_of hF rfl) (bit_of hF rfl) ?_
    with_reducible assumption
  clear_value v72
  extract_lets +onlyGivenNames v71
  have hv71 : State.Kept qu F o v71 := by
    unfold v71
    refine State.kept_ite (fun _ => ?_) (fun _ => ?_)
    · with_reducible assumption
    · refine State.countReg_kept (bit_of hF rfl) ?_
      with_reducible assumption
  clear_value v71
  refine State.onPwr_kept (sub_of hF rfl) ?_
  with_reducible assumption

theorem State.showFlashCounts_kept {qu : List Instr} {F : Nat} {o : State} {s : State} (hF : 0xc0000001809 ||| F = F) (hk : State.Kept qu F o s) : State.Kept qu F o (State.showFlashCounts s) := by
  unfold State.showFlashCounts
  extract_lets +onlyGivenNames v80
  have hv80 : State.Kept qu F o v80 := by
    unfold v80
    refine State.setF_kept (bit_of hF rfl) ?_
    refine State.setReg_kept (bit_of hF rfl) ?_
    with_reducible assumption
  clear_value v80
  extract_lets +onlyGivenNames v79
  have hv79 : State.Kept qu F o v79 := by
    unfold v79
    refine State.kept_ite (fun _ => ?_) (fun _ => ?_)
    · refine State.raise_kept (sub_of hF rfl) (bit_of hF rfl) ?_
      refine State.countReg_kept (bit_of hF rfl) ?_
      with_reducible assumption
    · with_reducible assumption
  clear_value v79
  extract_lets +onlyGivenNames v78
  have hv78 : State.Kept qu F o v78 := by
    unfold v78
    refine State.setF_kept (bit_of hF rfl) ?_
    with_reducible assumption
  clear_value v78
  refine State.kept_with ?_ (by constructor <;> first | exact fun _ => rfl | exact fun _ _ => rfl | exact fun h => absurd (h.symm.trans (bit_of hF rfl)) Bool.false_ne_true) rfl rfl rfl
  with_reducible assumption

theorem State.measurePort_kept {qu : List Instr} {F : Nat} {o : State} {s : State} {x : PortMeas} {n : Nat} (hF : 0x40 ||| F = F) (hk : State.Kept qu F o s) : State.Kept qu F o (State.measurePort s x n) := by
  unfold State.measurePort
  extract_lets +onlyGivenNames v80
  clear_value v80
  refine State.onPort_kept (sub_of hF rfl) ?_
  with_reducible assumption

theorem State.unparkLanes_kept {qu : List Instr} {F : Nat} {o : State} {s : State} {n : Nat} (hF : 0x40 ||| F = F) (hk : State.Kept qu F o s) : State.Kept qu F o (State.unparkLanes s n) := by
  unfold State.unparkLanes
  extract_lets +onlyGivenNames v80
  clear_value v80
  refine State.kept_ite (fun _ => ?_) (fun _ => ?_)
  · refine State.onPort_kept (sub_of hF rfl) ?_
    refine State.fillBuckets_kept (sub_of hF rfl) ?_
    with_reducible assumption
  · with_reducible assumption

theorem State.endPort_kept {qu : List Instr} {F : Nat} {o : State} {s : State} {m : FlashMeas} {n : Nat} (hF : 0x1c104000264d9 ||| F = F) (hk : State.Kept qu F o s) : State.Kept qu F o (State.endPort s m n) := by
  unfold State.endPort
  extract_lets +onlyGivenNames v80
  clear_value v80
  extract_lets +onlyGivenNames v79
  have hv79 : State.Kept qu F o v79 := by
    unfold v79
    refine State.onPort_kept (sub_of hF rfl) ?_
    refine State.measurePort_kept (sub_of hF rfl) ?_
    with_reducible assumption
  clear_value v79
  extract_lets +onlyGivenNames v78
  clear_value v78
  extract_lets +onlyGivenNames v77
  clear_value v77
  extract_lets +onlyGivenNames v76
  have hv76 : State.Kept qu F o v76 := by
    unfold v76
    refine State.onPort_kept (sub_of hF rfl) ?_
    with_reducible assumption
  clear_value v76
  extract_lets +onlyGivenNames v75
  have hv75 : State.Kept qu F o v75 := by
    unfold v75
    refine State.unparkLanes_kept (sub_of hF rfl) ?_
    refine State.kept_ite (fun _ => ?_) (fun _ => ?_)
    · with_reducible assumption
    · refine State.failLanes_kept (sub_of hF rfl) ?_
      with_reducible assumption
  clear_value v75
  refine State.kept_ite (fun _ => ?_) (fun _ => ?_)
  · refine State.resync_kept (sub_of hF rfl) ?_
    with_reducible assumption
  · with_reducible assumption

theorem State.endPorts_kept {qu : List Instr} {F : Nat} {o : State} {s : State} {m : FlashMeas} (hF : 0x1c104000264d9 ||| F = F) (hk : State.Kept qu F o s) : State.Kept qu F o (State.endPorts s m) := by
  unfold State.endPorts
  extract_lets +onlyGivenNames v80
  have hv80 : State.Kept qu F o v80 := by
    unfold v80
    refine State.kept_foldl_range ?_ ?_
    · with_reducible assumption
    · intro s78 x77 x76 h75
      refine State.endPort_kept (sub_of hF rfl) ?_
      with_reducible assumption
  clear_value v80
  extract_lets +onlyGivenNames v79
  clear_value v79
  refine State.judgePorts_kept (sub_of hF rfl) ?_
  refine State.kept_link (bit_of hF rfl) ?_
  with_reducible assumption

theorem State.endEngines_kept {qu : List Instr} {F : Nat} {o : State} {s : State} (hF : 0x4000 ||| F = F) (hk : State.Kept qu F o s) : State.Kept qu F o (State.endEngines s) := by
  unfold State.endEngines
  refine State.onRst_kept (sub_of hF rfl) ?_
  with_reducible assumption

theorem State.answerFit_kept {qu : List Instr} {F : Nat} {o : State} {s : State} (hF : 0x4009 ||| F = F) (hk : State.Kept qu F o s) : State.Kept qu F o (State.answerFit s) := by
  unfold State.answerFit
  refine State.kept_ite (fun _ => ?_) (fun _ => ?_)
  · refine State.answerReset_kept (sub_of hF rfl) ?_
    refine State.onRst_kept (sub_of hF rfl) ?_
    with_reducible assumption
  · with_reducible assumption

theorem State.chtBoundary_kept {qu : List Instr} {F : Nat} {o : State} {s : State} (hF : 0x1000200024069 ||| F = F) (hk : State.Kept qu F o s) : State.Kept qu F o (State.chtBoundary s) := by
  unfold State.chtBoundary
  refine State.judgeMismatch_kept (sub_of hF rfl) ?_
  refine State.announceChart_kept (sub_of hF rfl) ?_
  refine State.runHeld_kept (sub_of hF rfl) ?_
  refine State.completeArming_kept (sub_of hF rfl) ?_
  refine State.confirmChart_kept (sub_of hF rfl) ?_
  with_reducible assumption

theorem State.slvBoundary_kept {qu : List Instr} {F : Nat} {o : State} {s : State} (hF : 0xffffffff00000349 ||| F = F) (hk : State.Kept qu F o s) : State.Kept qu F o (State.slvBoundary s) := by
  unfold State.slvBoundary
  extract_lets +onlyGivenNames v80
  clear_value v80
  extract_lets +onlyGivenNames v79
  have hv79 : State.Kept qu F o v79 := by
    unfold v79
    refine State.kept_slc (bit_of hF rfl) ?_
    with_reducible assumption
  clear_value v79
  refine State.confirmHead_kept (sub_of hF rfl) ?_
  refine State.announceBank_kept (sub_of hF rfl) ?_
  refine State.publishEpoch_kept (sub_of hF rfl) ?_
  refine State.takeEpoch_kept (sub_of hF rfl) ?_
  refine State.solveTick_kept (sub_of hF rfl) ?_
  with_reducible assumption

theorem State.clpBoundary_kept {qu : List Instr} {F : Nat} {o : State} {s : State} (hF : 0xd0000001cc0 ||| F = F) (hk : State.Kept qu F o s) : State.Kept qu F o (State.clpBoundary s) := by
  unfold State.clpBoundary
  extract_lets +onlyGivenNames v80
  have hv80 : State.Kept qu F o v80 := by
    unfold v80
    refine State.onClp_kept (sub_of hF rfl) ?_
    with_reducible assumption
  clear_value v80
  refine State.kept_foldl ?_ ?_
  · with_reducible assumption
  · intro s78 x77 h76
    refine State.tryRelease_kept (sub_of hF rfl) ?_
    with_reducible assumption

theorem State.dscBoundary_kept {qu : List Instr} {F : Nat} {o : State} {s : State} (hF : 0x10810000251c9 ||| F = F) (hk : State.Kept qu F o s) : State.Kept qu F o (State.dscBoundary s) := by
  unfold State.dscBoundary
  refine State.writeLanternPlanes_kept (sub_of hF rfl) ?_
  refine State.writeParkMax_kept (sub_of hF rfl) ?_
  refine State.overlayCheck_kept (sub_of hF rfl) ?_
  refine State.publishRack_kept (sub_of hF rfl) ?_
  with_reducible assumption

theorem State.judgeLate_kept {qu : List Instr} {F : Nat} {o : State} {s : State} (hF : 0x1000000100 ||| F = F) (hk : State.Kept qu F o s) : State.Kept qu F o (State.judgeLate s) := by
  unfold State.judgeLate
  extract_lets +onlyGivenNames v80
  clear_value v80
  refine State.kept_ite (fun _ => ?_) (fun _ => ?_)
  · extract_lets +onlyGivenNames v78
    clear_value v78
    extract_lets +onlyGivenNames v77
    have hv77 : State.Kept qu F o v77 := by
      unfold v77
      refine State.kept_slv (bit_of hF rfl) ?_
      with_reducible assumption
    clear_value v77
    refine State.setF_kept (bit_of hF rfl) ?_
    refine State.setF_kept (bit_of hF rfl) ?_
    refine State.onCycle_kept (sub_of hF rfl) ?_
    with_reducible assumption
  · with_reducible assumption

theorem State.resendEach_kept {qu : List Instr} {F : Nat} {o : State} {s : State} (hF : 0x1c1 ||| F = F) (hk : State.Kept qu F o s) : State.Kept qu F o (State.resendEach s) := by
  unfold State.resendEach
  extract_lets +onlyGivenNames v80
  have hv80 : State.Kept qu F o v80 := by
    unfold v80
    refine State.kept_ite (fun _ => ?_) (fun _ => ?_)
    · refine State.sendBankReady_kept (sub_of hF rfl) ?_
      with_reducible assumption
    · with_reducible assumption
  clear_value v80
  extract_lets +onlyGivenNames v79
  have hv79 : State.Kept qu F o v79 := by
    unfold v79
    refine State.kept_ite (fun _ => ?_) (fun _ => ?_)
    · refine State.sendReady_kept (sub_of hF rfl) ?_
      with_reducible assumption
    · refine State.armRest_kept (sub_of hF rfl) ?_
      with_reducible assumption
  clear_value v79
  extract_lets +onlyGivenNames v78
  have hv78 : State.Kept qu F o v78 := by
    unfold v78
    refine State.reportGap_kept (sub_of hF rfl) ?_
    with_reducible assumption
  clear_value v78
  extract_lets +onlyGivenNames v77
  have hv77 : State.Kept qu F o v77 := by
    unfold v77
    split
    · refine State.kept_ite (fun _ => ?_) (fun _ => ?_)
      · refine State.tellHead_kept (sub_of hF rfl) ?_
        with_reducible assumption
      · with_reducible assumption
    · with_reducible assumption
  clear_value v77
  extract_lets +onlyGivenNames v76
  have hv76 : State.Kept qu F o v76 := by
    unfold v76
    refine State.kept_foldl ?_ ?_
    · with_reducible assumption
    · intro s74 x73 h72
      refine State.sendSliceReq_kept (sub_of hF rfl) ?_
      with_reducible assumption
  clear_value v76
  extract_lets +onlyGivenNames v75
  have hv75 : State.Kept qu F o v75 := by
    unfold v75
    refine State.kept_foldl ?_ ?_
    · with_reducible assumption
    · intro s73 x72 h71
      refine State.sendPlanReq_kept (sub_of hF rfl) ?_
      with_reducible assumption
  clear_value v75
  extract_lets +onlyGivenNames v74
  have hv74 : State.Kept qu F o v74 := by
    unfold v74
    refine State.kept_foldl ?_ ?_
    · with_reducible assumption
    · intro s72 x71 h70
      refine State.kept_ite (fun _ => ?_) (fun _ => ?_)
      · with_reducible assumption
      · refine State.kept_ite (fun _ => ?_) (fun _ => ?_)
        · refine State.sendOffer_kept (sub_of hF rfl) ?_
          with_reducible assumption
        · refine State.sendPlanReady_kept (sub_of hF rfl) ?_
          with_reducible assumption
  clear_value v74
  extract_lets +onlyGivenNames v73
  have hv73 : State.Kept qu F o v73 := by
    unfold v73
    refine State.resendRecovery_kept (sub_of hF rfl) ?_
    with_reducible assumption
  clear_value v73
  split
  · refine State.kept_ite (fun _ => ?_) (fun _ => ?_)
    · refine State.tell_kept (sub_of hF rfl) ?_
      with_reducible assumption
    · with_reducible assumption
  · with_reducible assumption

theorem State.morBoundary_kept {qu : List Instr} {F : Nat} {o : State} {s : State} {ended : Nat} (hF : 0x400000002049 ||| F = F) (hk : State.Kept qu F o s) : State.Kept qu F o (State.morBoundary s ended) := by
  unfold State.morBoundary
  extract_lets +onlyGivenNames v80
  have hv80 : State.Kept qu F o v80 := by
    unfold v80
    refine State.onMor_kept (sub_of hF rfl) ?_ ?_ ?_
    · with_reducible assumption
    · intro x78
      rfl
    · intro x78
      rfl
  clear_value v80
  refine State.kept_ite (fun _ => ?_) (fun _ => ?_)
  · extract_lets +onlyGivenNames v78
    have hv78 : State.Kept qu F o v78 := by
      unfold v78
      refine State.kept_ite (fun _ => ?_) (fun _ => ?_)
      · refine State.partnerStale_kept (sub_of hF rfl) ?_
        with_reducible assumption
      · with_reducible assumption
    clear_value v78
    extract_lets +onlyGivenNames v77
    clear_value v77
    extract_lets +onlyGivenNames v76
    have hv76 : State.Kept qu F o v76 := by
      unfold v76
      refine State.moorSend_kept (sub_of hF rfl) ?_
      with_reducible assumption
    clear_value v76
    refine State.kept_ite (fun _ => ?_) (fun _ => ?_)
    · refine State.selectSend_kept (sub_of hF rfl) ?_
      with_reducible assumption
    · with_reducible assumption
  · refine State.kept_ite (fun _ => ?_) (fun _ => ?_)
    · extract_lets +onlyGivenNames v77
      clear_value v77
      refine State.sendStatus_kept (sub_of hF rfl) ?_
      refine State.kept_ite (fun _ => ?_) (fun _ => ?_)
      · refine State.startResync_kept (sub_of hF rfl) ?_
        refine State.sendOwed_kept (sub_of hF rfl) ?_
        with_reducible assumption
      · refine State.sendOwed_kept (sub_of hF rfl) ?_
        with_reducible assumption
    · with_reducible assumption

theorem State.endFlash_kept {qu : List Instr} {F : Nat} {o : State} {s : State} {m : FlashMeas} {late : StageId → Bool} (hF : 0x3c4000041ccd ||| F = F) (hk : State.Kept qu F o s) : State.Kept qu F o (State.endFlash s m late) := by
  unfold State.endFlash
  extract_lets +onlyGivenNames v80
  have hv80 : State.Kept qu F o v80 := by
    unfold v80
    refine State.kept_ite (fun _ => ?_) (fun _ => ?_)
    · refine State.countSilence_kept (sub_of hF rfl) ?_
      refine State.formRecords_kept (sub_of hF rfl) ?_
      with_reducible assumption
    · refine State.timeWork_kept (sub_of hF rfl) ?_
      with_reducible assumption
  clear_value v80
  refine State.showFlashCounts_kept (sub_of hF rfl) ?_
  refine State.kept_ite (fun _ => ?_) (fun _ => ?_)
  · with_reducible assumption
  · refine State.telBoundary_kept (sub_of hF rfl) ?_
    with_reducible assumption

theorem State.judgeFlash_kept {qu : List Instr} {F : Nat} {o : State} {s : State} {m : FlashMeas} (hF : 0x1c104000264f9 ||| F = F) (hk : State.Kept qu F o s) : State.Kept qu F o (State.judgeFlash s m) := by
  unfold State.judgeFlash
  extract_lets +onlyGivenNames v80
  have hv80 : State.Kept qu F o v80 := by
    unfold v80
    refine State.endEngines_kept (sub_of hF rfl) ?_
    refine State.endPorts_kept (sub_of hF rfl) ?_
    with_reducible assumption
  clear_value v80
  extract_lets +onlyGivenNames v79
  clear_value v79
  extract_lets +onlyGivenNames v78
  clear_value v78
  extract_lets +onlyGivenNames v77
  have hv77 : State.Kept qu F o v77 := by
    unfold v77
    refine State.kept_with ?_ (by constructor <;> first | exact fun _ => rfl | exact fun _ _ => rfl | exact fun h => absurd (h.symm.trans (bit_of hF rfl)) Bool.false_ne_true) rfl rfl rfl
    with_reducible assumption
  clear_value v77
  refine State.stageSamples_kept (sub_of hF rfl) ?_
  with_reducible assumption

theorem State.beginFlash_kept {qu : List Instr} {F : Nat} {o : State} {s : State} {late : StageId → Bool} {ended : Nat} (hF : 0xffffffff00137ffd ||| F = F) (hk : State.Kept qu F o s) : State.Kept qu F o (State.beginFlash s late ended) := by
  unfold State.beginFlash
  extract_lets +onlyGivenNames v80
  have hv80 : State.Kept qu F o v80 := by
    unfold v80
    refine State.resendEach_kept (sub_of hF rfl) ?_
    refine State.judgeLate_kept (sub_of hF rfl) ?_
    with_reducible assumption
  clear_value v80
  extract_lets +onlyGivenNames v79
  have hv79 : State.Kept qu F o v79 := by
    unfold v79
    refine State.turnBatches_kept (sub_of hF rfl) ?_
    with_reducible assumption
  clear_value v79
  extract_lets +onlyGivenNames v78
  have hv78 : State.Kept qu F o v78 := by
    unfold v78
    refine State.answerFit_kept (sub_of hF rfl) ?_
    refine State.judgeTimeFit_kept (sub_of hF rfl) ?_
    refine State.sendRequests_kept (sub_of hF rfl) ?_
    with_reducible assumption
  clear_value v78
  extract_lets +onlyGivenNames v77
  have hv77 : State.Kept qu F o v77 := by
    unfold v77
    refine State.kept_ite (fun _ => ?_) (fun _ => ?_)
    · refine State.scrub_kept (sub_of hF rfl) ?_
      refine State.deliverSeals_kept (sub_of hF rfl) ?_
      refine State.wardenIntake_kept (sub_of hF rfl) ?_
      refine State.showEnrol_kept (sub_of hF rfl) ?_
      with_reducible assumption
    · with_reducible assumption
  clear_value v77
  extract_lets +onlyGivenNames v76
  have hv76 : State.Kept qu F o v76 := by
    unfold v76
    refine State.kept_ite (fun _ => ?_) (fun _ => ?_)
    · with_reducible assumption
    · refine State.slvBoundary_kept (sub_of hF rfl) ?_
      with_reducible assumption
  clear_value v76
  extract_lets +onlyGivenNames v75
  have hv75 : State.Kept qu F o v75 := by
    unfold v75
    refine State.kept_ite (fun _ => ?_) (fun _ => ?_)
    · with_reducible assumption
    · refine State.chtBoundary_kept (sub_of hF rfl) ?_
      with_reducible assumption
  clear_value v75
  extract_lets +onlyGivenNames v74
  have hv74 : State.Kept qu F o v74 := by
    unfold v74
    refine State.kept_ite (fun _ => ?_) (fun _ => ?_)
    · with_reducible assumption
    · refine State.clpBoundary_kept (sub_of hF rfl) ?_
      with_reducible assumption
  clear_value v74
  extract_lets +onlyGivenNames v73
  have hv73 : State.Kept qu F o v73 := by
    unfold v73
    refine State.kept_ite (fun _ => ?_) (fun _ => ?_)
    · with_reducible assumption
    · refine State.reportDrains_kept (sub_of hF rfl) ?_
      with_reducible assumption
  clear_value v73
  extract_lets +onlyGivenNames v72
  have hv72 : State.Kept qu F o v72 := by
    unfold v72
    refine State.kept_ite (fun _ => ?_) (fun _ => ?_)
    · with_reducible assumption
    · refine State.dscBoundary_kept (sub_of hF rfl) ?_
      with_reducible assumption
  clear_value v72
  extract_lets +onlyGivenNames v71
  have hv71 : State.Kept qu F o v71 := by
    unfold v71
    refine State.releaseWaits_kept (sub_of hF rfl) ?_
    with_reducible assumption
  clear_value v71
  refine State.kept_ite (fun _ => ?_) (fun _ => ?_)
  · with_reducible assumption
  · refine State.morBoundary_kept (sub_of hF rfl) ?_
    with_reducible assumption

theorem execFlashBoundary_kept {qu : List Instr} {F : Nat} {o : State} {m : FlashMeas} {s : State} (hF : 0xffffffff0017fffd ||| F = F) (hk : State.Kept qu F o s) : Runs qu F o (execFlashBoundary m s) := by
  unfold execFlashBoundary
  refine runs_ite (fun _ => ?_) (fun _ => ?_)
  · refine runs_next ?_
    with_reducible assumption
  · extract_lets +onlyGivenNames v79
    extract_lets +onlyGivenNames v78
    have hv78 : State.Kept qu F o v78 := by
      unfold v78
      refine State.kept_hif (bit_of hF rfl) ?_ rfl
      with_reducible assumption
    clear_value v78
    extract_lets +onlyGivenNames v77
    have hv77 : State.Kept qu F o v77 := by
      unfold v77
      refine State.senseSensors_kept (sub_of hF rfl) ?_
      refine State.answerBank_kept (sub_of hF rfl) ?_
      refine State.answerAnnounce_kept (sub_of hF rfl) ?_
      refine State.gatherLog_kept (sub_of hF rfl) ?_
      with_reducible assumption
    clear_value v77
    refine runs_ite (fun _ => ?_) (fun _ => ?_)
    · refine runs_next ?_
      refine State.openCycle_kept (sub_of hF rfl) ?_
      refine State.takeGathered_kept (sub_of hF rfl) ?_
      refine State.openFlash_kept (sub_of hF rfl) ?_
      with_reducible assumption
    · extract_lets +onlyGivenNames v75
      clear_value v75
      extract_lets +onlyGivenNames v74
      clear_value v74
      extract_lets +onlyGivenNames v73
      clear_value v73
      extract_lets +onlyGivenNames v72
      clear_value v72
      extract_lets +onlyGivenNames v71
      have hv71 : State.Kept qu F o v71 := by
        unfold v71
        refine State.kept_foldl ?_ ?_
        · refine State.endFlash_kept (sub_of hF rfl) ?_
          with_reducible assumption
        · intro s69 x68 h67
          refine State.countStage_kept (sub_of hF rfl) ?_
          with_reducible assumption
      clear_value v71
      refine runs_next ?_
      refine State.openCycle_kept (sub_of hF rfl) ?_
      refine State.takeGathered_kept (sub_of hF rfl) ?_
      refine State.beginFlash_kept (sub_of hF rfl) ?_
      refine State.judgeFlash_kept (sub_of hF rfl) ?_
      refine State.openFlash_kept (sub_of hF rfl) ?_
      with_reducible assumption

end Sys2Proof.Machine
end

