-- ==== Sys2Proof/Laws/KeptIdle.lean ====
section
/-! SUPPORT. Laws/KeptIdle.lean: each operation of Machine/Idle.lean keeps the queue and the invariant. -/
namespace Sys2Proof.Machine

theorem State.idle_kept {qu : List Instr} {F : Nat} {o : State} {s : State} (hF : 0x1c ||| F = F) (hk : State.Kept qu F o s) : State.Kept qu F o (State.idle s) := by
  unfold State.idle
  extract_lets +onlyGivenNames v80
  have hv80 : State.Kept qu F o v80 := by
    unfold v80
    refine State.endCycle_kept (sub_of hF rfl) ?_
    with_reducible assumption
  clear_value v80
  refine State.kept_tim (bit_of hF rfl) ?_
  with_reducible assumption

end Sys2Proof.Machine
end

