-- ==== Sys2Proof/Laws/KeptReadRegs.lean ====
section
/-! SUPPORT. Laws/KeptReadRegs.lean: each operation of Machine/ReadRegs.lean keeps the queue and the invariant. -/
namespace Sys2Proof.Machine

theorem State.readWord_kept {qu : List Instr} {F : Nat} {o : State} {s : State} {off : Nat} (hF : 0x8 ||| F = F) (hk : State.Kept qu F o s) : State.Kept qu F o (State.readWord s off).2 := by
  unfold State.readWord
  rw [apply_ite Prod.snd]
  refine State.kept_ite (fun _ => ?_) (fun _ => ?_)
  · dsimp only
    refine State.kept_hif (bit_of hF rfl) ?_ rfl
    with_reducible assumption
  · rw [apply_ite Prod.snd]
    refine State.kept_ite (fun _ => ?_) (fun _ => ?_)
    · extract_lets +onlyGivenNames v76
      have hv76 : State.Kept qu F o v76 := by
        unfold v76
        refine State.dropLatches_kept (sub_of hF rfl) ?_
        with_reducible assumption
      clear_value v76
      dsimp only
      refine State.kept_hif (bit_of hF rfl) ?_ rfl
      with_reducible assumption
    · extract_lets +onlyGivenNames v76
      have hv76 : State.Kept qu F o v76 := by
        unfold v76
        refine State.dropLatches_kept (sub_of hF rfl) ?_
        with_reducible assumption
      clear_value v76
      split
      · extract_lets +onlyGivenNames v74
        extract_lets +onlyGivenNames v73
        rw [apply_ite Prod.snd]
        refine State.kept_ite (fun _ => ?_) (fun _ => ?_)
        · dsimp only
          unfold v73
          refine State.kept_hif (bit_of hF rfl) ?_ rfl
          with_reducible assumption
        · rw [apply_ite Prod.snd]
          refine State.kept_ite (fun _ => ?_) (fun _ => ?_)
          · dsimp only
            unfold v73
            refine State.kept_hif (bit_of hF rfl) ?_ rfl
            with_reducible assumption
          · with_reducible assumption
      · with_reducible assumption

theorem State.hostRead_kept {qu : List Instr} {F : Nat} {o : State} {s : State} {off bytes : Nat} (hF : 0x100000009 ||| F = F) (hk : State.Kept qu F o s) : State.Kept qu F o (State.hostRead s off bytes) := by
  unfold State.hostRead
  refine State.kept_ite (fun _ => ?_) (fun _ => ?_)
  · with_reducible assumption
  · refine State.kept_ite (fun _ => ?_) (fun _ => ?_)
    · refine State.send_kept (sub_of hF rfl) ?_
      refine State.recordErr_kept (sub_of hF rfl) (bit_of hF rfl) ?_
      with_reducible assumption
    · refine State.kept_ite (fun _ => ?_) (fun _ => ?_)
      · extract_lets +onlyGivenNames v77
        have hv77 : State.Kept qu F o v77.2 := by
          unfold v77
          refine State.readWord_kept (sub_of hF rfl) ?_
          with_reducible assumption
        clear_value v77
        extract_lets +onlyGivenNames v76
        have hv76 : State.Kept qu F o v76.2 := by
          unfold v76
          refine State.readWord_kept (sub_of hF rfl) ?_
          with_reducible assumption
        clear_value v76
        refine State.send_kept (sub_of hF rfl) ?_
        with_reducible assumption
      · extract_lets +onlyGivenNames v77
        have hv77 : State.Kept qu F o v77.2 := by
          unfold v77
          refine State.readWord_kept (sub_of hF rfl) ?_
          with_reducible assumption
        clear_value v77
        refine State.send_kept (sub_of hF rfl) ?_
        with_reducible assumption

theorem execLowHalfRead_kept {qu : List Instr} {F : Nat} {o : State} {off bytes : Nat} {s : State} (hF : 0x100000009 ||| F = F) (hk : State.Kept qu F o s) : Runs qu F o (execLowHalfRead off bytes s) := by
  unfold execLowHalfRead
  refine runs_next ?_
  refine State.hostRead_kept (sub_of hF rfl) ?_
  with_reducible assumption

theorem execUnalignedRead_kept {qu : List Instr} {F : Nat} {o : State} {off bytes : Nat} {s : State} (hF : 0x100000009 ||| F = F) (hk : State.Kept qu F o s) : Runs qu F o (execUnalignedRead off bytes s) := by
  unfold execUnalignedRead
  refine runs_next ?_
  refine State.hostRead_kept (sub_of hF rfl) ?_
  with_reducible assumption

theorem execRegisterWrite_kept {qu : List Instr} {F : Nat} {o : State} {off bytes : Nat} {value : BitVec 64} {same : Bool} {s : State} (hF : 0xffffffff00076ddd ||| F = F) (hk : State.Kept qu F o s) : Runs qu F o (execRegisterWrite off bytes value same s) := by
  unfold execRegisterWrite
  refine runs_next ?_
  refine State.kept_ite (fun _ => ?_) (fun _ => ?_)
  · with_reducible assumption
  · refine State.kept_ite (fun _ => ?_) (fun _ => ?_)
    · refine State.recordErr_kept (sub_of hF rfl) (bit_of hF rfl) ?_
      with_reducible assumption
    · extract_lets +onlyGivenNames v77
      have hv77 : State.Kept qu F o v77 := by
        unfold v77
        refine State.hostWrite_kept (sub_of hF rfl) ?_
        with_reducible assumption
      clear_value v77
      refine State.kept_ite (fun _ => ?_) (fun _ => ?_)
      · refine State.hostWrite_kept (sub_of hF rfl) ?_
        with_reducible assumption
      · with_reducible assumption

end Sys2Proof.Machine
end

