-- ==== Sys2Proof/Tests/Slice0.lean ====
section
/-! SUPPORT. Tests/Slice0.lean: small checks: an ill-formed command for every check of WellFormed.lean, worked examples of the manual, and one
witness for the hypotheses of every statement. -/
namespace Sys2Proof.Tests
open Sys2Proof Sys2Proof.Machine
set_option linter.unusedVariables false

/-! ### States for the tests -/

/-- The state after reset with one port's record changed. -/
def withPort (n : Nat) (f : Port → Port) : State := State.reset.onPort n f

/-- The state after reset with fields written. -/
def withF (fs : List (Fld × Nat)) : State := fs.foldl (fun s x => s.setF x.1 x.2) State.reset

/-- A chart of a cluster of 2 by 2 racks, one endpoint in rack 0. -/
def tinyChart : Chart :=
  { format := 1, serial := 1, keyId := 0, installId := 0, digest := 0,
    install := { sx := 2, sy := 2, headX := 0, headY := 0, depX := 1, depY := 0, flashUs := 100, weights := [3, 3, 2, 1, 1], word0 := 0 },
    racks := [{ x := 0, y := 0, epCount := 1, epPresent := 1, uplinks := 0, kportA := 1, kportB := 0, links := [1], resv := [0] }],
    enMap := [], pools := [], rotations := [], templates := [], params := StageParams.default }

/-- The same state with the PCIe link up. -/
def linked (s : State) : State := { s with hif := { s.hif with linkUp := true } }

/-- The state after reset, the link up, with that chart lit. -/
def litState : State := { linked State.reset with chart := { State.reset.chart with lit := some tinyChart } }

/-- The layout of slice 5: endpoint 0 of rack 0. -/
def view5 : SliceView := { id := 5, cls := 0, template := 0, tenant := 1, vcs := 1, members := [(0, 1)], claims := [] }

/-- The unit of rack 0 with LIT, that chart lit and slice 5 lit. -/
def litUnit : State :=
  { litState with
    mor := { litState.mor with lit := true, grant := true }
    slc := { litState.slc with table := [{ id := 5, state := 2, forced := false, epoch := 1, lay := some { view := view5, desc := [] }, chg := none, prior := 0, issuer := none, born := 0, bornEpoch := 1, seats := [] }] }
    slv := { litState.slv with lit := { litState.slv.lit with slices := [view5] } } }

/-- A KEEPER_MSG with these payload words. -/
def msgIn (ws : List Word) : Packet := mkPacket 0 0 0 0 0 0 0x40 0 ws

/-- An event of a class from agent 0 of rack 0. -/
def eventIn (cls : Nat) (body : List Word) : Packet := mkPacket 0 0 0 0 0 0 0x05 0 ([fieldAt 0 8 cls, 0, 0, 0, 0, 0, 0, 0] ++ body)

/-- A KEEPER_MSG about slice 5. -/
def planIn (mtype count : Nat) (ws : List Word) : Packet := msgIn ([w32 mtype, 0, 0, 0, 0, 0, w32 count, 0, 32] ++ List.replicate 23 0 ++ ws)

/-- Plan 1 of slice 5, enabled, in context 3. -/
def plan5 : Plan :=
  { ctx := 3, slice := 5, ordinal := 1, desc := [], alg := 1, planes := 1, lnt := none, fallback := false, qnom := 1, q := 1, inFlight := 1, stretch := 256, st := 3,
    q2 := 1, q1 := 1, reason := 0, ctxs := [(0, 3)], ring := [0], spill := false, switchUnits := 0, storeUnits := 0, spillUnits := 0, memBase := 0, groupBase := 0,
    chainBase := 0, rewritten := [], toCheck := [], enable := 1, gen := 1, launches := 0, newest := 0, overs := [], overLogged := [], lost := 0,
    remap := List.range 16, loaded := false, asked := 0, replied := true, places := [], done := [], credits := [], arrivals := [], frozen := none, answers := [],
    frozenSent := false, recovery := 0, clearing := false, recovered := [], namedPieces := [], gone := false, abortCause := 0, lags := [], prevLags := [],
    straggler := 0, stragLag := 0, stragRun := 0, quiet := 0, stallSent := false, reqs := [] }

/-- The same plan at the head. -/
def headPlan5 : HeadPlan :=
  { slice := 5, ordinal := 1, desc := [], racks := [0], alg := 1, planes := 1, qnom := 1, q := 1, inFlight := 1, lnt := none, gen := 1, genFlash := 0, lost := 0,
    remap := List.range 16, stalled := [], gone := 0, thaw := none }

/-- The unit with that plan, in flash 2. -/
def planUnit (f : Plan → Plan) : State :=
  { litUnit with tim := { litUnit.tim with flash := 2 }, clp := { litUnit.clp with plans := [f plan5], live := [headPlan5] } }

/-- The unit with slice 5 SEALED and the Warden serving. -/
def sealUnit : State :=
  { litUnit with
    slv := { litUnit.slv with lit := { litUnit.slv.lit with slices := [{ view5 with cls := 2 }] } }
    wdn := { litUnit.wdn with serving := true } }

/-- A telemetry frame of flash 7. -/
def telFrame : Frame := { words := 7 :: List.replicate 10239 0, views := [] }

/-- The unit with slice 5 and one frame kept, its host DMA enabled. -/
def telUnit : State := { litUnit with tel := { litUnit.tel with fine := [(0, telFrame)] } }.setF Fld.HIF_CTRL_DMA_EN 1

/-- A seal of slice 5. -/
def seal5 : Seal := { slice := 5, issue := 1, expiry := 9, epoch := 1, bytes := [], sent := 0, missing := [], renewed := false, low := false, own := true }

/-- A flash in which nothing was measured. -/
def quietFlash : FlashMeas := { ports := [], sweep := [], temps := [], plate := 0, vin := 0, iin := 0, watts := 0, joules := 0 }

/-- A policy proposal for request 5, and that request. -/
def prop5 : Proposal := { stage := .clp, core := 0, request := 5, reserved := false, body := .policy [] }
def req5 : PropReq := { request := 5, stage := .clp, decision := 4, subject := 5, bound := 0, flash := 1, held := none, answer := none, fell := false }

/-- The unit with that request open. -/
def propUnit : State := { litUnit with work := { litUnit.work with requests := [req5], stages := litUnit.work.stages.map fun g => { g with closed := true } } }

/-- The unit of the deputy rack, by its position straps. -/
def deputyUnit : State := litUnit.setF Fld.PWR_STRAPS_POS_X 1

/-- The unit storing slot 1. -/
def storeUnit : State :=
  { litUnit with chart := { litUnit.chart with
      store := some { win := 2, slots := [1], keys := false, written := 0, retired := 0, settings := none }
      slots := litUnit.chart.slots.map fun x => { x with nvm := .writing } } }

/-- A chart's announcement for flash 2. -/
def ann5 : ChartAnnounce := { digest := 0, first := 0, f := 2, postponed := 0, ready := [], confirmed := false }

/-- The unit with a bank confirmed for flash 2, and the one with a chart confirmed, each at the opening of flash 2. -/
def bankUnit : State :=
  { sealUnit with
    tim := { sealUnit.tim with flash := 2 }
    work := { sealUnit.work with opening := true }
    slv := { sealUnit.slv with cycle := { sealUnit.slv.cycle with phase := .confirmed, f := 2 } } }
def armUnit : State :=
  { bankUnit with chart := { bankUnit.chart with
      arm := some { slot := 1, digest := 0, complete := true, flash := 2, confirmed := true, win := 16 }
      slots := bankUnit.chart.slots.map fun x => { x with chart := some tinyChart } } }

/-- A verdict that passes. -/
def verdict5 : Verdict := { invariant := 0, slice := 0, rack := 0, switch := 0, port := 0, digest := 0 }

/-- The unit in flash 999, the drain limit set. -/
def lateUnit : State := { litUnit with tim := { litUnit.tim with flash := 999 } }.setF Fld.WDN_CTRL_DRAIN_LIMIT 8

/-- A slice request at the head, its layout, the unit at the end of its solve; an issued slice request; a drain; an issued plan request; an
admission; a recovery; an abort exchange. -/
def sreq5 : SliceReq := { rack := 0, tag := 1, origin := 0, op := 1, slice := 5, words := [], flash := 1, placed := none, asked := false }
def lay5 : Layout := { view := view5, desc := [] }
def solveUnit : State := { litUnit with slc := { litUnit.slc with solving := some (sreq5, lay5, 1) } }
def sis5 : SliceIssued := { win := 2, tag := 1, op := 3, slice := 5, words := [], flash := 1, epoch := none }
def drain5 : HeadDrain := { slice := 5, flash := 1, reports := [], forced := false }
def pis5 : PlanIssued := { win := 2, tag := 1, abort := false, slice := 5, ordinal := 0, words := [], flash := 1 }
def adm5 : Admission :=
  { req := { rack := 0, tag := 1, flash := 1, slice := 5, words := [], noLnt := false }, ordinal := 1, desc := [], racks := [0], alg := 1, planes := 1, qnom := 1, lnt := none,
    fallback := false, phase := .ordered, refused := 0, asked := 1, offers := [], readies := [], q := 1, inFlight := 1, stretch := 256, ring := [0], request := 0 }
def rec5 : Recovery := { slice := 5, ordinal := 1, number := 1, planes := 0, pieces := [], launch := 1, cleared := [], flash := 1, gone := false }
def ab5 : AbortEx := { slice := 5, ordinal := 1, cause := 16, replies := [], flash := 1, waiting := false, memberReset := false }

/-- A collective packet of plan 1 of slice 5 from an address, on a class, with a piece prefix of zeros. -/
def collIn (src : Addr) (svc opkind : Nat) : Packet := mkPacket 0x8000 src svc 5 1 0 opkind 3 (0x01000000 :: List.replicate 15 0)

/-- An event of a class from an address, about context 3. -/
def eventAt (src : Addr) (cls : Nat) : Packet := { eventIn cls [0, 0] with hdr := { (eventIn cls [0, 0]).hdr with src := src }, payload := [fieldAt 0 8 cls, 0, 0, 0, 0, 0, 3, 0, 0, 1, 0, 0, 0, 0, 0, 0] }

/-- Piece 0 of launch 0, its switch input taken. -/
def place5 : Place := { slot := 0, spill := false, base := 0, units := 0, launch := 0, piece := 0, plane := 0, step := 0, ins := [], sums := [], map := [65536], lasts := [], senders := [], phase := .gather, out := [] }

/-- A packet sent once, its flow, the unit of plan 1 with it. -/
def sent5 : SentPkt := { wseq := 1, pkt := collIn 0x8000 2 0x20, sends := 1, ctx := 3, launch := 1, piece := 0, stamp := 0 }
def flow5 : Flow := { src := 0x8002, dest := 0x4000, svc := 2, slice := 5, gen := 1, isSource := true, next := 2, map := 0, sent := [sent5], wait := [], ackFlash := 0, port := 0 }
def flowUnit : State := { planUnit id with link := { (planUnit id).link with flows := [flow5] } }

/-- A TIME_EXCHANGE packet with these payload words, from a neighbour Keeper. -/
def timeIn (w0 : Word) : Packet := mkPacket 0x8000 0x8802 0 0 0 0 0x02 0 (w0 :: List.replicate 15 0)

/-- The unit with a lamp pool for slice 5's template, a place and one unit that waits. -/
def lampChart : Chart :=
  { tinyChart with
    pools := [{ resource := 2, pool := 0, classes := 1, count := 32 }]
    templates := [{ num := 0, cls := 0, maxEp := 0, slvPool := 0, lmpPool := 0, lntPool := 0, ctxPool := 0, maxCtx := 0, lmpSeats := 0, lntSeats := 0, clpSeats := 0, ownVcs := 0, sealLifeMs := 0 }] }
def lampJob : LampUnit := { kind := 0, ctx := 3, launch := 0, piece := 0, idx := 0, rerun := false }
def lampPlan : Plan := { plan5 with places := [place5] }
def lampUnit : State :=
  { planUnit (fun p => { p with places := [place5] }) with
    chart := { litUnit.chart with lit := some lampChart }
    lmp := { litUnit.lmp with units := [lampJob] } }

/-- A Lantern packet of plan 1 from an address of a kind word. -/
def lntIn (w0 : Word) : Packet := mkPacket 0x8000 0x4000 1 5 1 0 0x30 0 (w0 :: 0x3FFF :: List.replicate 14 0)

/-- A Lantern context of plan 1 with a rack sum that waits. -/
def buf5 : LntBuf := { launch := 1, got := [], acc := [], parts := [], own := some ([], 0), result := none, first := 0, needAt := 0 }
def lctx5 : LntCtx := { num := 0, ctx := 3, slice := 5, ordinal := 1, gen := 1, racks := [0, 1], legs := (0, 0, 0, 0), d := 0, live := true, bufs := [buf5] }
def lntUnit : State := { planUnit id with lnt := { litUnit.lnt with ctxs := [lctx5] } }

/-- An item of the spill queue. -/
def spill5 : SpillIn := { port := 0, vc := 2, units := 3, slice := 5, ctx := 3, launch := 0, piece := 0, input := 0, idxs := [] }

/-- The unit in ACQUIRING with eight exchanges taken. -/
def acqUnit : State := { litUnit.setF Fld.TIM_STATE_STATE 1 with tim := { litUnit.tim with acq := (3, 0) :: List.replicate 7 (5, 0) } }

/-- The unit with ports lit, fill on, near the end of its flash. -/
def fillUnit : State :=
  { litUnit.setF Fld.TIM_CTRL_FILL_EN 1 with
    tim := { litUnit.tim with offset := 2559000 }
    link := { litUnit.link with ports := litUnit.link.ports.map fun p => { p with st := .lit } } }

/-- A neighbour found: agent 0 of rack 0. -/
def found5 : Found := { w0 := 0x4000, w4 := 0, w5 := 0 }

/-- A mooring packet of a kind with these payload words. -/
def moorIn (opkind : Nat) (ws : List Word) : Packet := mkPacket 0x8000 0x8001 0 0 0 0 opkind 0 ws

/-- A management operation for agent 0, the unit that waits for its reply, and the reply. -/
def op5 : MgmtOp := { tag := 1, agent := 0x4000, write := false, addr := 0, words := [], count := 1, cls := 1, slice := 0, engine := 1, gen := 0, sends := 1, sent := (0, 0), wait := 0, purpose := .upkeep }
def mgmtUnit : State := { litUnit with mgmt := { litUnit.mgmt with ops := [op5] } }
def replyIn : Packet := { mkPacket 0x8002 0x4000 0 0 0 0 0x04 1 [0, 1, 0, 0, 7] with payload := [0, 1, 0, 0, 7] }

/-- A MOOR_COMMIT of flash 0 with no packets. -/
def commitIn : Packet := moorIn 0x52 ([0, 0, 0, 0, 0] ++ wordsOfBytes (Config.shake 16 []) ++ List.replicate 23 0)

/-- The unit with its mooring lit and mirroring on; the unit with a way to the partner by switch 3 and a MIRROR_SELECT out. -/
def moorUnit : State := { litUnit with link := { litUnit.link with ports := litUnit.link.ports.map fun (p : Port) => { p with st := .lit } } }.setF Fld.MOR_CTRL_MIRROR_EN 1
def selPkt5 : SelPkt := { tag := 1, flash := 1, kind := 1, words := [], plane := 0 }
def nbrSel : Nbr := { (litUnit.nbr 0x4003 133) with agent := 0x4003, port := 133, state := 4 }
def mirrUnit : State :=
  { moorUnit.setF Fld.MOR_SEL_CTRL_SEL_LINKS 4 with link := { moorUnit.link with nbrs := [nbrSel] }, mor := { moorUnit.mor with selOut := [selPkt5] } }

/-- The unit with port 16 in a state, eight lanes active. -/
def portUnit (st : PortState) : State := (litUnit.onPort 16 fun p => { p with st := st, active := 255 }).onPort 20 fun p => { p with st := .lit }

/-- Keys of a secured link. -/
def keys5 : LinkKeys := { ratchet := [], tx := [], rx := [], low := true }

/-- A clean beacon of port 16's neighbour. -/
def beaconIn : Packet := mkPacket 0x8800 0x8800 0 0 0 0 0x01 0 (0x10000000 :: List.replicate 15 0)

/-- A fabric test of port 16 that has run; a packet waiting there. -/
def test5 : FabTest := { port := 16, left := 0, waited := 4, agreed := true }
def wait5 : Waiting := { vc := 0, group := 0, came := none, pkt := beaconIn }
def queueUnit (st : PortState) : State := (portUnit st).onPort 16 fun p => { p with eg := { p.eg with queue := [wait5] } }

/-- A frame whose check is right and whose tag is empty. -/
def frame5 : WireFrame := { hdr := beaconIn.hdr, payload := beaconIn.payload, check := frameCheck beaconIn.payload, tag := [] }

/-- A reset of level 5 that waits, a context reset, the unit with a hung engine, one with a host DMA open, one with a partner. -/
def part5 : PartReset := { level := 5, cause := 4, engine := 14, slice := 0, wins := [], began := 0, force := true, deferred := false, started := false, pin := false, held := false }
def ctx5 : CtxReset := { engine := 7, kind := 1, ctx := 3, wins := [], began := 0 }
def partnerUnit : State := litUnit.setF Fld.MOR_STATE_PARTNER 2

/-- The unit with every engine standing still; one with a host DMA of a word open. -/
def hungUnit : State := ({ litUnit with rst := { litUnit.rst with engines := litUnit.rst.engines.map fun (e : Engine) => { e with still := 99999999 } } } : State).setF Fld.RST_CTRL_HANG_EN 1
def dmaUnit : State := { litUnit with hif := { litUnit.hif with dma := [{ win := 2, purpose := .plan, addr := 0, len := 4, got := [] }] } }

/-- A record of the log, a sample and a signature in progress. -/
def rec6 : LogRec :=
  { seq := 1, code := 0x042, conc := false, outorder := false, isLocal := false, wallback := false, lost := false, submitted := false, wgen := 0, flash := 1, offset := 0, rep := 0,
    body := [0], length := 32, fa2 := false, bad := [], badHead := false }
def sign5 : SignJob := { what := .seal 5, rank := 3, body := none, tail := [], flash := 1, epoch := 1, expiry := 9, done := 0 }

/-- A management request's head. -/
def head0 : MgmtHead := { port := 0, src := 0, tag := 0, gen := 0, cls := 0, broadcast := false, reserved := false }

/-- The unit with endpoint agent 3 of rack 0 as given. -/
def agentUnit (f : Agent → Agent) : State := litUnit.onAgent 3 f

/-- A management write at that agent, serving, with a bank armed for flash 9. -/
def agentServes : State := agentUnit fun g => { (g.put 0x44 9) with serve := true }

/-- A packet of a kind for that agent's slice, with its credits. -/
def agPkt (k svc : Nat) (amode : Bool) : Packet :=
  let p := mkPacket 3 (if amode then 0x8000 else 0) svc 0 0 0 k 0 []
  { p with hdr := { p.hdr with amode := amode } }

/-- The unit with a switch agent in SERVE. -/
def switchServes : State := litUnit.onAgent 0x4000 fun g => { g with serve := true }

/-! ### An ill-formed command for each check of WellFormed.lean -/

/-- A header of zeros. -/
def hdr0 : Hdr :=
  { dest := 0, src := 0, slice := 0, vc := 0, svc := 0, gen := 0, wseq := 0, opkind := 0, len := 0, amode := false, rsv := false, optag := 0,
    tstx := 0, hcrc := 0 }


/-- A boundary with nothing to show. -/
def meas0 : FlashMeas :=
  { ports := [], sweep := [], temps := List.replicate 16 25, plate := 25, vin := 1200, iin := 0, watts := 0, joules := 0 }

/-- A host command with no arguments. -/
def cmd0 : HostCmd := { win := 0, seq := 1, irq := false, args := [] }

/-- A packet whose payload is shorter than its LEN says. -/
def pktShort : Packet := { hdr := hdr0, payload := [] }
/-- A packet of one granule. -/
def pktOne : Packet := { hdr := hdr0, payload := List.replicate 16 0 }

/-- What port 0 of an agent shows in a flash without traffic. -/
def agMeas0 : AgPortMeas :=
  { port := 0, st := 0, lanes := 0, found := 0, active := 0, failed := 0, parked := 0, hcrc := 0, fcs := 0, capacity := 0, stall := 0, samples := 0, sum := 0,
    clean := true }
/-- A record without a body. -/
def evt0 : LogEvt := { code := 0x042, party := 0, fa2 := false, flash := 0, offset := 0, slice := 0, engine := 0, body := [] }

theorem test_wf_bar0 : (Instr.registerWrite (2 ^ 24) 4 0 false).wf = false ∧ (Instr.registerWrite 0 4 0 false).wf = true := by decide
theorem test_wf_bar2 : (Instr.commandWindowWrite (2 ^ 16) 4 0).wf = false ∧ (Instr.commandWindowWrite 0 4 0).wf = true := by decide
theorem test_wf_bar4 : (Instr.bar4Read (2 ^ 30) 4 false).wf = false ∧ (Instr.bar4Write (2 ^ 30) 0).wf = false ∧ (Instr.bar4Write 8 0).wf = true := by decide
theorem test_wf_access : (Instr.lowHalfRead 0 5).wf = false ∧ (Instr.unalignedRead 2 4).wf = true := by decide
theorem test_wf_port : (Instr.beaconSend 21).wf = false ∧ (Instr.beaconSend 20).wf = true := by decide
theorem test_wf_lanes : (Instr.laneChange 0 512).wf = false ∧ (Instr.laneChange 0 511).wf = true := by decide
theorem test_wf_lane : (Instr.laneSignalLoss 0 9).wf = false ∧ (Instr.laneSignalLoss 0 8).wf = true := by decide
theorem test_wf_position : (Instr.laserFault 24).wf = false ∧ (Instr.laserFault 23).wf = true := by decide
theorem test_wf_depth : (Instr.park 0 0).wf = false ∧ (Instr.park 0 4).wf = false ∧ (Instr.park 0 3).wf = true := by decide
theorem test_wf_engine : (Instr.engineHang 0x0F 0 0).wf = false ∧ (Instr.engineHang 0x22 0 0).wf = true := by decide
theorem test_wf_selftest : (Instr.selftestResult 7 []).wf = false ∧ (Instr.selftestResult 6 []).wf = true := by decide
theorem test_wf_packet : (Instr.beacon 0 pktShort).wf = false ∧ (Instr.beacon 0 pktOne).wf = true := by decide
theorem test_wf_message : (Instr.stateReply 21 pktOne).wf = false ∧ (Instr.stateReply 21 pktShort).wf = false ∧ (Instr.stateReply 20 pktOne).wf = true := by decide
theorem test_wf_event : (Instr.drainEmptyEvent 21 pktOne).wf = false ∧ (Instr.drainEmptyEvent 0 pktOne).wf = true := by decide
theorem test_wf_hostCmd : (Instr.attest { cmd0 with args := List.replicate 32 0 }).wf = false ∧ (Instr.attest cmd0).wf = true := by decide
theorem test_wf_verdict : (Instr.sectorVerdict { verdict5 with invariant := 7 }).wf = false ∧ (Instr.sectorVerdict verdict5).wf = true := by decide
theorem test_wf_measures : (Instr.flashBoundary { meas0 with temps := [] }).wf = false ∧ (Instr.flashBoundary meas0).wf = true := by decide
theorem test_wf_units : (Instr.resyncGrant none 0 []).wf = false ∧ (Instr.resyncGrant none 0 (List.replicate 8 0)).wf = true := by decide
theorem test_wf_slot : (Instr.chartCheckDone 4).wf = false ∧ (Instr.chartCheckDone 3).wf = true := by decide
theorem test_wf_rack : (Instr.rackFence 64).wf = false ∧ (Instr.rackFence 63).wf = true := by decide
theorem test_wf_lamp : (Instr.lampUnitDone 34 0 none false none).wf = false ∧ (Instr.lampUnitDone 33 0 none false none).wf = true := by decide
theorem test_wf_readCount : (Instr.agentMgmtRead 0 head0 0 0).wf = false ∧ (Instr.agentMgmtRead 0 head0 0 1020).wf = true := by decide
theorem test_wf_agentPort : (Instr.agentGo 0 { head0 with port := 16 } 0).wf = false ∧ (Instr.agentGo 0x4000 { head0 with port := 133 } 0).wf = true := by decide
theorem test_wf_agentPorts : (Instr.agentFlashBoundary 0 [agMeas0, agMeas0]).wf = false ∧ (Instr.agentFlashBoundary 0 [agMeas0]).wf = true := by decide
theorem test_wf_partyPort : (Instr.egressPacketBoundary (some 0) 16).wf = false ∧ (Instr.egressPacketBoundary none 16).wf = true := by decide
theorem test_wf_agentSlot : (Instr.agentLaunch 0 256).wf = false ∧ (Instr.agentLaunch 0 255).wf = true := by decide
theorem test_wf_vector : (Instr.msixSpacingExpiry 64).wf = false ∧ (Instr.msixSpacingExpiry 63).wf = true := by decide
theorem test_wf_straps : (Instr.powerUp 2 0 0 none).wf = false ∧ (Instr.powerUp 0 8 0 none).wf = false ∧ (Instr.powerUp 1 7 7 none).wf = true := by decide
theorem test_wf_channel : (Instr.creditReturn none 0 8 0).wf = false ∧ (Instr.tokenBucketRefill none 0 7).wf = true := by decide
theorem test_wf_pcie : (Instr.pcieLinkTrained 6 3).wf = false ∧ (Instr.pcieLinkTrained 6 4).wf = true := by decide
theorem test_wf_core : (Instr.pilotCoreStop 18).wf = false ∧ (Instr.pilotCoreStop 17).wf = true := by decide
set_option maxRecDepth 20000 in
theorem test_wf_record : (Instr.logEvent { evt0 with body := List.replicate 252 0 }).wf = false ∧ (Instr.logEvent evt0).wf = true := by decide
theorem test_wf_endpointPort : (Instr.endpointPacketArrival 0 16 pktOne).wf = false ∧ (Instr.switchPacketIngress 0x4000 134 pktOne 0).wf = false := by decide

/-! ### Worked examples of the manual -/

set_option maxRecDepth 20000 in
/-- R55: the check value of the nine digits. -/
theorem test_crc16 : crc16 [0x31, 0x32, 0x33, 0x34, 0x35, 0x36, 0x37, 0x38, 0x39] = 0x29B1 := by decide
set_option maxRecDepth 20000 in
/-- R449: the check value of the nine digits. -/
theorem test_crc64 : crc64 [0x31, 0x32, 0x33, 0x34, 0x35, 0x36, 0x37, 0x38, 0x39] = 0x62EC59E3F1A4F00A := by decide
/-- 04, worked example: lanes 1, 3 and 6 of the two ends have failed; the map has the other six. -/
theorem test_laneMap_union : laneMap 0x4A = 0x1B5 := by decide
/-- 04, R98: with lane 3 failed the eight lanes that are left are active. -/
theorem test_laneMap_spare : laneMap 0x08 = 0x1F7 := by decide
/-- 18, worked example: the write of WIN_CMD2 of window 4 while it is BUSY is recorded as CMD_LOCKED at 0x4049. -/
theorem test_cmdLocked : ((({ State.reset with hif := { State.reset.hif with
    windows := State.reset.hif.windows.map fun (x : Window) => { x with st := .busy } } } : State).writeWindow 0x4048 0x2710).getReg Reg.HIF_ERR_STATUS,
    (({ State.reset with hif := { State.reset.hif with
    windows := State.reset.hif.windows.map fun (x : Window) => { x with st := .busy } } } : State).writeWindow 0x4048 0x2710).getReg Reg.HIF_ERR_WHERE)
    = (0x20, 0x4049) := by decide
/-- 02, worked example: the coordinate address of switch 9 of the rack at (2, 1). -/
theorem test_addr_switch : mkAddr 1 2 1 9 = 0x5109 := by decide
/-- 02, worked example: the Keeper of role index 2 of the rack at (0, 0). -/
theorem test_addr_keeper : mkAddr 2 0 0 2 = 0x8002 := by decide
/-- 02, worked example: endpoint 5 of the rack at (2, 1). -/
theorem test_addr_endpoint : mkAddr 0 2 1 5 = 0x1105 := by decide

/-! ### The hypotheses of the statements can be met -/

set_option maxRecDepth 20000 in
/-- The hypotheses of EveryStepKeepsInv are met. -/
theorem test_hyp_EveryStepKeepsInv :
    (∃ (s t : State), (s.Inv) ∧ (step s = .next t)) :=
  ⟨State.reset, State.reset.idle, ⟨⟨by decide, by decide⟩, fun h => h, rfl⟩, rfl⟩

set_option maxRecDepth 20000 in
/-- The hypotheses of QueueIsFirstInFirstOut are met. -/
theorem test_hyp_QueueIsFirstInFirstOut :
    (∃ (c : Instr) (rest : List Instr) (s : State), (s.pending = c :: rest)) :=
  ⟨(.perstAssert), [], { State.reset with pending := [.perstAssert] }, by decide⟩

set_option maxRecDepth 20000 in
/-- The hypotheses of IdleStepRunsTheClock are met. -/
theorem test_hyp_IdleStepRunsTheClock :
    (∃ (s : State), (s.pending = [])) :=
  ⟨State.reset, by decide⟩

set_option maxRecDepth 20000 in
/-- The hypotheses of CountersHoldAtTheirMaximum are met. -/
theorem test_hyp_CountersHoldAtTheirMaximum :
    (∃ (s : State) (f : Fld) (n : Nat), (f.lo + f.width ≤ 32))
    ∧ (∃ (s : State) (f g : Fld) (n : Nat), (g.lo + g.width ≤ 32) ∧ (f.off ≠ g.off ∨ f.lo + f.width ≤ g.lo ∨ g.lo + g.width ≤ f.lo)) :=
  ⟨⟨State.reset, Fld.HIF_ERR_COUNT_COUNT, 1, by decide⟩,
   ⟨State.reset, Fld.HIF_ERR_COUNT_COUNT, Fld.HIF_COMMANDS_COUNT, 1, by decide, Or.inl (by decide)⟩⟩

set_option maxRecDepth 20000 in
/-- The hypotheses of NarrowAndUnalignedAccesses are met. -/
theorem test_hyp_NarrowAndUnalignedAccesses :
    (∃ (s : State) (off : Nat), (s.hostReaches = true) ∧ (off % 4 = 0))
    ∧ (∃ (s : State) (off : Nat), (s.hostReaches = true) ∧ (off % 8 = 0))
    ∧ (∃ (s : State) (off bytes : Nat), (s.hostReaches = true) ∧ (0 < bytes ∧ bytes < 4 ∧ off % 4 + bytes ≤ 4))
    ∧ (∃ (s : State) (off bytes : Nat), (s.hostReaches = true) ∧ ((bytes = 4 ∧ off % 4 ≠ 0) ∨ (bytes = 8 ∧ off % 8 ≠ 0) ∨ (0 < bytes ∧ bytes < 4 ∧ 4 < off % 4 + bytes)))
    ∧ (∃ (s : State) (off bytes : Nat) (v : BitVec 64) (same : Bool), (s.hostReaches = true) ∧ (¬ (bytes = 4 ∧ off % 4 = 0) ∧ ¬ (bytes = 8 ∧ off % 8 = 0)))
    ∧ (∃ (s : State) (off : Nat) (v : BitVec 64) (same : Bool), (s.hostReaches = true)) :=
  ⟨⟨linked State.reset, 8, by decide, by decide⟩,
   ⟨linked State.reset, 8, by decide, by decide⟩,
   ⟨linked State.reset, 9, 2, by decide, by decide⟩,
   ⟨linked State.reset, 6, 4, by decide, by decide⟩,
   ⟨linked State.reset, 6, 2, 0, false, by decide, by decide⟩,
   ⟨linked State.reset, 8, 0, true, by decide⟩⟩

set_option maxRecDepth 20000 in
/-- The hypotheses of ReservedBitsIgnoreWrites are met. -/
theorem test_hyp_ReservedBitsIgnoreWrites :
    (∃ (s : State) (off i : Nat) (v : Word) (same : Bool) (row : RegRow), (regRow off = some row) ∧ (i < 32) ∧ (bitAt (row.rw ||| row.w1c ||| row.w1s) i = false)) :=
  ⟨State.reset, Reg.HIF_CTRL, 31, 0xffffffff, false, ⟨0x000004, 1, 4, 0x00000001, 0x00000031, 0x00000000, 0x00000000, 0x00000000, [⟨4, 2, 0, 2⟩]⟩, rfl, by decide, by decide⟩

set_option maxRecDepth 20000 in
/-- The hypotheses of EventAndClearInOneCycle are met. -/
theorem test_hyp_EventAndClearInOneCycle :
    (∃ (s : State) (f : Fld) (v : Word) (row : RegRow), (regRow f.off = some row) ∧ (f.width = 1 ∧ f.lo < 32) ∧ (bitAt row.w1c f.lo = true ∧ bitAt row.rw f.lo = false))
    ∧ (∃ (s : State) (off i : Nat) (v : Word) (row : RegRow), (regRow off = some row) ∧ (i < 32) ∧ (bitAt row.w1c i = true ∧ bitAt (row.rw ||| row.w1s) i = false) ∧ (s.resetLevel = 4 → servedInLevel4 off = true) ∧ (bitAt v i = true)) :=
  ⟨⟨State.reset, Fld.HIF_INT_STATUS_ERROR, 0xffffffff, ⟨0x000008, 1, 4, 0x00000000, 0x00000000, 0x00000003, 0x00000000, 0x00000000, []⟩, rfl, by decide, by decide⟩,
   ⟨State.reset, Reg.HIF_INT_STATUS, 1, 2, ⟨0x000008, 1, 4, 0x00000000, 0x00000000, 0x00000003, 0x00000000, 0x00000000, []⟩, rfl, by decide, by decide, by decide, by decide⟩⟩

set_option maxRecDepth 20000 in
/-- The hypotheses of PortTrainingAndKeys are met. -/
theorem test_hyp_PortTrainingAndKeys :
    (∃ (s : State) (c : Chart), (s.chart.lit = some c))
    ∧ (∃ (s : State) (port f : Nat) (ok : Bool) (z : State), (s.link.training.contains port = true ∧ (s.port port).st = .train) ∧ (z = { s with link := { s.link with training := s.link.training.filter (· != port) } }) ∧ (4 ≤ healthyLanes (f % 512)))
    ∧ (∃ (s : State) (port f : Nat) (ok : Bool) (z : State), (s.link.training.contains port = true ∧ (s.port port).st = .train) ∧ (z = { s with link := { s.link with training := s.link.training.filter (· != port) } }) ∧ (healthyLanes (f % 512) < 4))
    ∧ (∃ (s : State) (port : Nat) (bytes : List Byte), ((s.port port).st = .secure))
    ∧ (∃ (s : State) (port : Nat) (bytes far : List Byte) (z : State), ((s.port port).st = .secure ∧ (s.port port).hello = some far) ∧ (z = s.onPort port (fun p => { p with keys := some (linkKeys p.scalar p.ownHello far), scalar := [], keyEpoch := 0, farEpoch := 0, txPackets := 0, rxPackets := 0, keyFlash := s.tim.flash, secureFails := 0, peer := some (BitVec.ofNat 64 (beNat (bytesIn far 28 8))) })))
    ∧ (∃ (s : State) (port : Nat) (bytes : List Byte), ((s.port port).st = .secure ∧ (s.port port).hello = none))
    ∧ (∃ (s : State) (port : Nat), ((s.port port).st = .secure))
    ∧ (∃ (s : State) (port : Nat), ((s.port port).st = .verify))
    ∧ (∃ (s : State) (port : Nat), ((s.port port).st = .dark ∧ s.flag Fld.DSC_CTRL_RETRY_EN = true) ∧ (s.inTest port = false ∧ s.atBroken port = false))
    ∧ (∃ (s : State) (port : Nat) (k : LinkKeys), ((s.port port).keys = some k))
    ∧ (∃ (s : State) (port : Nat) (e : Word) (k : LinkKeys), ((s.port port).keys = some k)) :=
  ⟨⟨litState, tinyChart, rfl⟩,
   ⟨{ portUnit .train with link := { (portUnit .train).link with training := [16] } }, 16, 31, true, _, by decide, rfl, by decide⟩,
   ⟨{ portUnit .train with link := { (portUnit .train).link with training := [16] } }, 16, 63, true, _, by decide, rfl, by decide⟩,
   ⟨(portUnit .secure), 16, [], by decide⟩,
   ⟨((portUnit .secure).onPort 16 fun p => { p with hello := some [] }), 16, [], [], _, by decide, rfl⟩,
   ⟨(portUnit .secure), 16, [], by decide⟩,
   ⟨(portUnit .secure), 16, by decide⟩,
   ⟨(portUnit .verify), 16, by decide⟩,
   ⟨(portUnit .dark).setF Fld.DSC_CTRL_RETRY_EN 1, 16, by decide, by decide⟩,
   ⟨((portUnit .lit).onPort 16 fun p => { p with keys := some keys5 }), 16, keys5, by decide⟩,
   ⟨((portUnit .lit).onPort 16 fun p => { p with keys := some keys5 }), 16, 1, keys5, by decide⟩⟩

set_option maxRecDepth 20000 in
/-- The hypotheses of BeaconsLanesAndLasers are met. -/
theorem test_hyp_BeaconsLanesAndLasers :
    (∃ (s : State) (port : Nat) (p : Packet) (v z : State), (v = s.received port p.hdr ∧ v.refused port p.hdr = none) ∧ (beaconClean p.payload = true) ∧ (z = (v.returnCredits port p.hdr).onPort port (fun x => { x with heard := true, missing := 0, litHolder := bitAt (wordAt p.payload 7) 0, farOverlay := bitAt (wordAt p.payload 7) 1, farEpochHeld := (wordAt p.payload 6).toNat })) ∧ ((z.port port).st = .verify))
    ∧ (∃ (s : State) (port : Nat) (p : Packet) (v z : State), (v = s.received port p.hdr ∧ v.refused port p.hdr = none) ∧ (beaconClean p.payload = true) ∧ (z = (v.returnCredits port p.hdr).onPort port (fun x => { x with heard := true, missing := 0, litHolder := bitAt (wordAt p.payload 7) 0, farOverlay := bitAt (wordAt p.payload 7) 1, farEpochHeld := (wordAt p.payload 6).toNat })) ∧ ((z.port port).st = .lit))
    ∧ (∃ (s : State) (port : Nat) (p : Packet) (v z : State), (v = s.received port p.hdr ∧ v.refused port p.hdr = none) ∧ (beaconClean p.payload = true) ∧ (z = (v.returnCredits port p.hdr).onPort port (fun x => { x with heard := true, missing := 0, litHolder := bitAt (wordAt p.payload 7) 0, farOverlay := bitAt (wordAt p.payload 7) 1, farEpochHeld := (wordAt p.payload 6).toNat })) ∧ ((z.port port).st = .held))
    ∧ (∃ (s : State) (port : Nat) (p : Packet) (v z : State), (v = s.received port p.hdr ∧ v.refused port p.hdr = none) ∧ (beaconClean p.payload = true) ∧ (z = (v.returnCredits port p.hdr).onPort port (fun x => { x with heard := true, missing := 0, litHolder := bitAt (wordAt p.payload 7) 0, farOverlay := bitAt (wordAt p.payload 7) 1, farEpochHeld := (wordAt p.payload 6).toNat })) ∧ ((z.port port).st = .dark))
    ∧ (∃ (s : State) (port : Nat), (((s.port port).st = .verify ∨ (s.port port).st = .lit ∨ (s.port port).st = .held) ∧ port < 20))
    ∧ (∃ (s : State) (port : Nat), (((s.port port).st = .lit ∨ (s.port port).st = .held) ∧ port < 20) ∧ (s.getF Fld.DSC_TIMING_BEACON_LOSS ≤ (s.port port).missing))
    ∧ (∃ (s : State) (port k old : Nat) (y z : State), (s.link.moving.find? (fun m => m.1 == port) = some (port, k) ∧ old = (s.port port).position) ∧ (y = { s with link := { s.link with moving := s.link.moving.filter fun m => m.1 != port } }) ∧ (z = (((((y.onPos old fun x => { x with logical := 0x1F }).onPos k fun x => { x with logical := port }).onPort port fun p => { p with position := k, trainFails := 0 }).reserve 1 old k).raise Fld.DSC_INT_STATUS_SPARE_PORT)))
    ∧ (∃ (s : State) (port lane : Nat), (lane < 9 ∧ (s.port port).active.testBit lane = true))
    ∧ (∃ (s : State) (port f : Nat), ((s.port port).st = .lit ∨ (s.port port).st = .held))
    ∧ (∃ (s : State) (q n l : Nat) (y z : State), (q < 24 ∧ n = (s.pos q).logical) ∧ ([1, 2].find? (fun l => !s.link.spentLasers.contains (q / 6, l)) = some l) ∧ (y = ({ s with link := { s.link with spentLasers := s.link.spentLasers ++ [(q / 6, l)] } } : State).onPos q (fun x => { x with laser := l })) ∧ (z = (if (s.port n).st = .lit ∨ (s.port n).st = .held ∨ (s.port n).st = .parked then (y).portTo n .dark 8 else y).reserve 2 q l))
    ∧ (∃ (s : State) (q n : Nat), (q < 24 ∧ n = (s.pos q).logical) ∧ ([1, 2].find? (fun l => !s.link.spentLasers.contains (q / 6, l)) = none))
    ∧ (∃ (s : State) (port k : Nat), ((s.port port).st = .lit ∧ s.flag Fld.DSC_CTRL_PARK_EN = true ∧ s.ownDepth port ≠ 0) ∧ (4 ≤ k ∧ k ≤ 7 ∧ s.lowLoad port k = true))
    ∧ (∃ (s : State) (port : Nat) (z : State), ((s.port port).st = .lit ∧ s.flag Fld.DSC_CTRL_PARK_EN = true ∧ s.ownDepth port ≠ 0) ∧ (s.getF Fld.DSC_PARK_PARK_IDLE ≤ (s.port port).idle ∧ (s.port port).eg.queue = []) ∧ (z = ((s.onPort port fun p => { p with depth := s.ownDepth port }).portTo port .parked 0)))
    ∧ (∃ (s : State) (port d : Nat), ((s.port port).st = .lit ∧ 1 ≤ d ∧ d ≤ s.ownDepth port))
    ∧ (∃ (s : State) (port : Nat), ((s.port port).st = .parked ∧ (s.port port).eg.queue ≠ [] ∧ (s.port port).waking = false))
    ∧ (∃ (s : State) (port : Nat), ((s.port port).st = .parked))
    ∧ (∃ (s : State) (port f u : Nat) (z : State), ((s.port port).st = .parked ∧ (s.port port).waking = true) ∧ (u = (s.port port).failed ||| f % 512 ||| (s.port port).farFailed) ∧ (z = s.onPort port (fun p => { p with failed := p.failed ||| f % 512, active := laneMap u, parked := if u = 0 then 1 <<< 8 else 0 }))) :=
  ⟨⟨(portUnit .verify), 16, beaconIn, _, _, ⟨rfl, by decide⟩, by decide, rfl, by decide⟩,
   ⟨(portUnit .lit), 16, beaconIn, _, _, ⟨rfl, by decide⟩, by decide, rfl, by decide⟩,
   ⟨(portUnit .held), 16, beaconIn, _, _, ⟨rfl, by decide⟩, by decide, rfl, by decide⟩,
   ⟨(portUnit .dark), 16, beaconIn, _, _, ⟨rfl, by decide⟩, by decide, rfl, by decide⟩,
   ⟨(portUnit .lit), 16, by decide⟩,
   ⟨((portUnit .lit).onPort 16 fun p => { p with missing := 99 }), 16, by decide, by decide⟩,
   ⟨{ portUnit .dark with link := { (portUnit .dark).link with moving := [(16, 21)] } }, 16, 21, 16, _, _, by decide, rfl, rfl⟩,
   ⟨(portUnit .lit), 16, 2, by decide⟩,
   ⟨(portUnit .lit), 16, 2, by decide⟩,
   ⟨portUnit .lit, 16, 16, 1, _, _, by decide, by decide, rfl, rfl⟩,
   ⟨{ portUnit .lit with link := { (portUnit .lit).link with spentLasers := [(2, 1), (2, 2)] } }, 16, 16, by decide, by decide⟩,
   ⟨(((portUnit .lit).setF Fld.DSC_CTRL_PARK_EN 1).setF Fld.DSC_PARK_P1_LOAD_PCT 20), 16, 5, by decide, by decide⟩,
   ⟨(((portUnit .lit).onPort 16 fun p => { p with idle := 99999 }).setF Fld.DSC_CTRL_PARK_EN 1), 16, _, by decide, by decide, rfl⟩,
   ⟨(portUnit .lit), 16, 1, by decide⟩,
   ⟨queueUnit .parked, 16, by decide⟩,
   ⟨(portUnit .parked), 16, by decide⟩,
   ⟨((portUnit .parked).onPort 16 fun p => { p with waking := true }), 16, 0, _, _, by decide, rfl, rfl⟩⟩

set_option maxRecDepth 20000 in
/-- The hypotheses of FabricTestEgressAndCredits are met. -/
theorem test_hyp_FabricTestEgressAndCredits :
    (∃ (s : State) (bits : Nat) (errors : List Nat) (t : FabTest), (s.link.test = some t) ∧ (t.agreed = true ∧ t.left = 0))
    ∧ (∃ (s : State) (bits : Nat) (errors : List Nat) (t : FabTest), (s.link.test = some t) ∧ (t.agreed = false ∧ 4 ≤ t.waited))
    ∧ (∃ (s : State) (port : Nat) (ok : Bool) (z : State), (16 ≤ port ∧ port < 20) ∧ (ok = decide ((s.port port).st = .dark ∨ (s.port port).st = .extra ∨ (s.port port).st = .quarantined)) ∧ (z = s.onPort port (fun p => { p with testHold := ok })))
    ∧ (∃ (s : State) (port : Nat), (16 ≤ port ∧ port < 20))
    ∧ (∃ (s : State) (port : Nat) (t : FabTest), (s.link.test = some t ∧ t.port = port))
    ∧ (∃ (s : State) (port : Nat) (b : BitVec 128), (lcbValid b = false))
    ∧ (∃ (s : State) (port : Nat) (ws : List Word) (lanes : Nat), (headerWrong ws = true))
    ∧ (∃ (s : State) (port : Nat) (f : WireFrame) (lanes : Nat), (frameWrong f = true))
    ∧ (∃ (s : State) (port : Nat) (f : WireFrame) (lanes : Nat) (z : State), (frameWrong f = false ∧ s.tagWrong port f = true) ∧ (z = ((s.returnCredits port f.hdr).onPort port fun p => { p with rxPackets := p.rxPackets + 1 }).onPort port (fun x => { x with auth := satAdd (2 ^ 32 - 1) x.auth 1, tagFails := x.tagFails + 1 })))
    ∧ (∃ (s : State) (port : Nat) (p : Packet), (opkindKnown p.hdr.opkind.toNat = false))
    ∧ (∃ (s : State) (port : Nat) (p : Packet) (v : State), (v = s.received port p.hdr ∧ v.refused port p.hdr = none))
    ∧ (∃ (s v : State) (port : Nat) (p : Packet) (ev : AgentEvent), (s.TakesEvent 2 port p v ev))
    ∧ (∃ (s v : State) (port : Nat) (p : Packet) (ev : AgentEvent), (s.TakesEvent 4 port p v ev))
    ∧ (∃ (s v : State) (port : Nat) (p : Packet) (ev : AgentEvent), (s.TakesEvent 3 port p v ev))
    ∧ (∃ (s : State) (port : Nat) (w : Waiting) (p : Port), (s.choose port = some (w, p)))
    ∧ (∃ (s : State) (port : Nat), (s.choose port = none))
    ∧ (∃ (s : State) (port vc n : Nat), (port < s.link.ports.length ∧ vc < 8 ∧ vc < (s.port port).eg.credits.length))
    ∧ (∃ (s : State) (port : Nat) (units : List Nat), (port < s.link.ports.length)) :=
  ⟨⟨{ portUnit .dark with link := { (portUnit .dark).link with test := some test5 } }, 0, [], test5, by decide, by decide⟩,
   ⟨{ portUnit .dark with link := { (portUnit .dark).link with test := some { test5 with agreed := false } } }, 0, [], { test5 with agreed := false }, by decide, by decide⟩,
   ⟨portUnit .dark, 16, _, _, by decide, rfl, rfl⟩,
   ⟨portUnit .dark, 16, by decide⟩,
   ⟨{ portUnit .dark with link := { (portUnit .dark).link with test := some test5 } }, 16, test5, by decide⟩,
   ⟨portUnit .lit, 16, 0, by decide⟩,
   ⟨portUnit .lit, 16, [], 0, by decide⟩,
   ⟨portUnit .lit, 16, { hdr := beaconIn.hdr, payload := [], check := 0, tag := [] }, 0, by decide⟩,
   ⟨((portUnit .lit).onPort 16 fun p => { p with keys := some keys5 }), 16, frame5, 0, _, ⟨by unfold frameWrong; rw [show frame5.check = frameCheck frame5.payload from rfl]; simp; decide, by decide⟩, rfl⟩,
   ⟨portUnit .lit, 16, moorIn 0x7F [], by decide⟩,
   ⟨planUnit id, 3, { collIn 0x4000 2 0x13 with hdr := { (collIn 0x4000 2 0x13).hdr with optag := 0 } }, _, ⟨rfl, by decide⟩⟩,
   ⟨planUnit id, _, 3, eventAt 0x4000 2, _, ⟨by decide, by decide, by decide, rfl, _, rfl, rfl⟩⟩,
   ⟨planUnit id, _, 3, eventAt 0x4000 4, _, ⟨by decide, by decide, by decide, rfl, _, rfl, rfl⟩⟩,
   ⟨planUnit id, _, 3, eventAt 0x4000 3, _, ⟨by decide, by decide, by decide, rfl, _, rfl, rfl⟩⟩,
   ⟨queueUnit .lit, 16, _, _, rfl⟩,
   ⟨portUnit .lit, 16, by decide⟩,
   ⟨portUnit .lit, 16, 2, 40, by decide⟩,
   ⟨portUnit .lit, 16, [], by decide⟩⟩

set_option maxRecDepth 20000 in
/-- The hypotheses of RequestRegisterWrites are met. -/
theorem test_hyp_RequestRegisterWrites :
    (∃ (s : State) (v : Word), (s.hostReaches = true) ∧ (s.resetLevel ≠ 4) ∧ (s.engineHeld (blockEngine Reg.DSC_TEST_CTRL) = false))
    ∧ (∃ (s : State) (v : Word), (s.hostReaches = true) ∧ (s.resetLevel ≠ 4) ∧ (s.engineHeld (blockEngine Reg.LMP_INJECT) = false) ∧ (bitsOf v 0 6 ≤ 33))
    ∧ (∃ (s : State) (v : Word), (s.hostReaches = true) ∧ (s.resetLevel ≠ 4) ∧ (s.engineHeld (blockEngine Reg.TIM_CTRL) = false))
    ∧ (∃ (s : State) (v : Word), (s.hostReaches = true) ∧ (s.resetLevel ≠ 4) ∧ (s.engineHeld (blockEngine Reg.TIM_WALL_CTRL) = false))
    ∧ (∃ (s : State) (v : Word), (s.hostReaches = true) ∧ (s.resetLevel ≠ 4) ∧ (s.engineHeld (blockEngine Reg.TEL_CTRL) = false))
    ∧ (∃ (s : State) (v : Word), (s.hostReaches = true) ∧ (s.resetLevel ≠ 4) ∧ (s.engineHeld (blockEngine Reg.RST_CTRL) = false))
    ∧ (∃ (s : State) (v : Word), (s.hostReaches = true) ∧ (s.resetLevel ≠ 4) ∧ (s.engineHeld (blockEngine Reg.LMP_CTRL) = false))
    ∧ (∃ (s : State) (v : Word), (s.hostReaches = true) ∧ (s.resetLevel ≠ 4) ∧ (s.engineHeld (blockEngine Reg.WDN_ENROL_CTRL) = false))
    ∧ (∃ (s : State) (v : Word), (s.hostReaches = true) ∧ (s.resetLevel ≠ 4) ∧ (s.engineHeld (blockEngine Reg.WDN_ROTATE) = false))
    ∧ (∃ (s : State) (v : Word), (s.hostReaches = true) ∧ (s.resetLevel ≠ 4) ∧ (s.engineHeld (blockEngine Reg.MOR_CTRL) = false))
    ∧ (∃ (s : State) (v : Word), (s.hostReaches = true) ∧ (s.resetLevel ≠ 4) ∧ (s.engineHeld (blockEngine Reg.MOR_CTRL) = false))
    ∧ (∃ (s : State) (v : Word), (s.hostReaches = true) ∧ (s.resetLevel ≠ 4) ∧ (s.engineHeld (blockEngine Reg.RST_TEST) = false))
    ∧ (∃ (s : State) (v : Word), (s.hostReaches = true) ∧ (s.resetLevel ≠ 4) ∧ (s.engineHeld (blockEngine Reg.PWR_CTRL) = false))
    ∧ (∃ (s : State) (v : Word), (s.hostReaches = true) ∧ (s.resetLevel ≠ 4) ∧ (bitAt v 8 = true ∧ bitsOf v 0 5 < 21) ∧ ((s.port (bitsOf v 0 5)).position < s.link.positions.length))
    ∧ (∃ (s : State) (v : Word), (s.hostReaches = true) ∧ (s.resetLevel ≠ 4) ∧ ((s.getReg Reg.CHT_SERIAL_FLOOR).toNat ≤ v.toNat) ∧ (s.engineHeld (blockEngine Reg.CHT_SERIAL_FLOOR) = false))
    ∧ (∃ (s : State) (v : Word), (s.hostReaches = true) ∧ (s.resetLevel ≠ 4) ∧ (v.toNat < (s.getReg Reg.CHT_SERIAL_FLOOR).toNat)) :=
  ⟨⟨linked State.reset, 1, by decide, by decide, by decide⟩,
   ⟨linked State.reset, 1, by decide, by decide, by decide, by decide⟩,
   ⟨linked State.reset, 1, by decide, by decide, by decide⟩,
   ⟨linked State.reset, 1, by decide, by decide, by decide⟩,
   ⟨linked State.reset, 1, by decide, by decide, by decide⟩,
   ⟨linked State.reset, 1, by decide, by decide, by decide⟩,
   ⟨linked State.reset, 1, by decide, by decide, by decide⟩,
   ⟨linked State.reset, 1, by decide, by decide, by decide⟩,
   ⟨linked State.reset, 1, by decide, by decide, by decide⟩,
   ⟨linked State.reset, 1, by decide, by decide, by decide⟩,
   ⟨linked State.reset, 1, by decide, by decide, by decide⟩,
   ⟨linked State.reset, 1, by decide, by decide, by decide⟩,
   ⟨linked State.reset, 1, by decide, by decide, by decide⟩,
   ⟨linked State.reset, 0x102, by decide, by decide, by decide, by decide⟩,
   ⟨linked State.reset, 9, by decide, by decide, by decide, by decide⟩,
   ⟨(linked State.reset).setReg Reg.CHT_SERIAL_FLOOR 9, 8, by decide, by decide, by decide⟩⟩

set_option maxRecDepth 20000 in
/-- The hypotheses of PcieFunctionEvents are met. -/
theorem test_hyp_PcieFunctionEvents :
    (∃ (s : State) (n : Nat), (n < s.hif.vecs.length) ∧ ((s.vec n).due = false))
    ∧ (∃ (s : State) (n : Nat), (n < 16) ∧ (n < s.hif.vecs.length) ∧ ((s.vec n).due = true) ∧ ((s.vec n).ctrl = 0) ∧ (s.hif.d3hot = false))
    ∧ (∃ (s : State) (offered width rate : Nat), (rate = min offered (6 - s.getF Fld.HIF_CTRL_MAX_SPEED)) ∧ (width < 64))
    ∧ (∃ (s : State) (w : Nat) (value : BitVec 64) (x : Word), (s.hostReaches = true) ∧ (w < 16) ∧ (x = value.extractLsb' 0 32) ∧ (s.commits w (x.extractLsb' 0 16) = true))
    ∧ (∃ (s : State) (w i : Nat) (value : BitVec 64), (s.hostReaches = true) ∧ (w < 16) ∧ (i < 32) ∧ (w < s.hif.windows.length) ∧ ((s.window w).st ≠ .busy))
    ∧ (∃ (s : State) (c : HostCmd) (op : Byte), (s.hostReaches = true) ∧ (s.commits c.win.toNat c.seq = true) ∧ (op = 0 ∨ 0x10 < op.toNat))
    ∧ (∃ (s : State) (c : HostCmd) (op : Nat), (c.win.toNat < s.hif.windows.length) ∧ ((s.window c.win.toNat).block.length = 32) ∧ ((s.window c.win.toNat).st ≠ .busy) ∧ (c.args.length ≤ 31)) :=
  ⟨⟨State.reset, 3, by decide, by decide⟩,
   ⟨{ State.reset with hif := { State.reset.hif with vecs := State.reset.hif.vecs.map fun (x : Vec) => { x with due := true, ctrl := 0 } } }, 4, by decide, by decide, by decide, by decide, by decide⟩,
   ⟨State.reset, 7, 4, 6, rfl, by decide⟩,
   ⟨linked State.reset, 15, 1, 1, by decide, by decide, rfl, by decide⟩,
   ⟨linked State.reset, 15, 31, 7, by decide, by decide, by decide, by decide, by decide⟩,
   ⟨linked State.reset, { win := 3, seq := 1, irq := false, args := [] }, 0x77, by decide, by decide, by decide⟩,
   ⟨linked State.reset, { win := 3, seq := 1, irq := false, args := [7] }, 12, by decide, by decide, by decide, by decide⟩⟩

set_option maxRecDepth 20000 in
/-- The hypotheses of HostCommandsOnChartsAndSlicesRun are met. -/
theorem test_hyp_HostCommandsOnChartsAndSlicesRun :
    (∃ (s B : State) (c : HostCmd), (s.Commits c 0x01 B) ∧ ((B.arg c.win.toNat 1).toNat ≤ 3) ∧ ((B.arg c.win.toNat 2).toNat % 4 = 0 ∧ 128 ≤ (B.arg c.win.toNat 4).toNat ∧ (B.arg c.win.toNat 4).toNat ≤ 4194304 ∧ (B.arg c.win.toNat 4).toNat % 4 = 0) ∧ (B.slotLocked (B.arg c.win.toNat 1).toNat = false))
    ∧ (∃ (s B : State) (c : HostCmd), (s.Commits c 0x02 B) ∧ (B.lit = true) ∧ ((B.arg c.win.toNat 1).toNat ≤ 3))
    ∧ (∃ (s B : State) (c : HostCmd), (s.Commits c 0x03 B) ∧ ((B.arg c.win.toNat 1).toNat < 32))
    ∧ (∃ (s B : State) (c : HostCmd), (s.Commits c 0x04 B) ∧ (B.lit = true) ∧ ((B.arg c.win.toNat 1).toNat % 4 = 0) ∧ (16 ≤ (B.arg c.win.toNat 3).toNat ∧ (B.arg c.win.toNat 3).toNat ≤ 2320 ∧ (B.arg c.win.toNat 3).toNat % 4 = 0))
    ∧ (∃ (s B : State) (c : HostCmd), (s.Commits c 0x05 B) ∧ (B.lit = true) ∧ ((B.arg c.win.toNat 1).toNat % 4 = 0) ∧ (16 ≤ (B.arg c.win.toNat 3).toNat ∧ (B.arg c.win.toNat 3).toNat ≤ 2320 ∧ (B.arg c.win.toNat 3).toNat % 4 = 0))
    ∧ (∃ (s B : State) (c : HostCmd), (s.Commits c 0x06 B) ∧ (B.lit = true) ∧ ((B.arg c.win.toNat 1).toNat ≤ 255))
    ∧ (∃ (s B : State) (c : HostCmd), (s.Commits c 0x07 B) ∧ (B.lit = true) ∧ ((B.arg c.win.toNat 1).toNat ≤ 255))
    ∧ (∃ (s B : State) (c : HostCmd), (s.Commits c 0x08 B) ∧ (B.lit = true) ∧ ((B.arg c.win.toNat 1).toNat % 4 = 0) ∧ (64 ≤ (B.arg c.win.toNat 3).toNat ∧ (B.arg c.win.toNat 3).toNat ≤ 16448 ∧ (B.arg c.win.toNat 3).toNat % 4 = 0))
    ∧ (∃ (s B : State) (c : HostCmd), (s.Commits c 0x09 B) ∧ (B.lit = true) ∧ ((B.arg c.win.toNat 1).toNat ≤ 255) ∧ (B.flag Fld.CHT_STATE_HEAD_MISMATCH = false)) :=
  ⟨⟨litUnit, _, { win := 3, seq := 1, irq := false, args := [1, 4096, 0, 256] }, ⟨by decide, by decide, rfl⟩, by decide, by decide, by decide⟩,
   ⟨litUnit, _, { win := 3, seq := 1, irq := false, args := [1] }, ⟨by decide, by decide, rfl⟩, by decide, by decide⟩,
   ⟨litUnit, _, { win := 3, seq := 1, irq := false, args := [17] }, ⟨by decide, by decide, rfl⟩, by decide⟩,
   ⟨litUnit, _, { win := 3, seq := 1, irq := false, args := [4096, 0, 64] }, ⟨by decide, by decide, rfl⟩, by decide, by decide, by decide⟩,
   ⟨litUnit, _, { win := 3, seq := 1, irq := false, args := [4096, 0, 64] }, ⟨by decide, by decide, rfl⟩, by decide, by decide, by decide⟩,
   ⟨litUnit, _, { win := 3, seq := 1, irq := false, args := [5] }, ⟨by decide, by decide, rfl⟩, by decide, by decide⟩,
   ⟨litUnit, _, { win := 3, seq := 1, irq := false, args := [5] }, ⟨by decide, by decide, rfl⟩, by decide, by decide⟩,
   ⟨litUnit, _, { win := 3, seq := 1, irq := false, args := [4096, 0, 128] }, ⟨by decide, by decide, rfl⟩, by decide, by decide, by decide⟩,
   ⟨litUnit, _, { win := 3, seq := 1, irq := false, args := [5, 1] }, ⟨by decide, by decide, rfl⟩, by decide, by decide, by decide⟩⟩

set_option maxRecDepth 20000 in
/-- The hypotheses of HostCommandsOnSecurityAndResetRun are met. -/
theorem test_hyp_HostCommandsOnSecurityAndResetRun :
    (∃ (s B : State) (c : HostCmd), (s.Commits c 0x0A B) ∧ (B.wdn.serving = true ∧ B.signFull = false) ∧ ((B.arg c.win.toNat 2).toNat % 64 = 0 ∧ bitsOf (B.arg c.win.toNat 1) 8 24 = 0 ∧ ((bitsOf (B.arg c.win.toNat 1) 0 8) = 0 ∨ B.offRack (bitsOf (B.arg c.win.toNat 1) 0 8) = false)) ∧ (808 + (if (bitsOf (B.arg c.win.toNat 1) 0 8) = 0 then 0 else (B.layoutBlock (bitsOf (B.arg c.win.toNat 1) 0 8)).length) ≤ (B.arg c.win.toNat 4).toNat))
    ∧ (∃ (s B : State) (c : HostCmd) (x : Seal), (s.Commits c 0x0B B) ∧ (B.lit = true ∧ B.wdn.serving = true ∧ B.offRack (bitsOf (B.arg c.win.toNat 1) 0 8) = false ∧ B.isSealed (bitsOf (B.arg c.win.toNat 1) 0 8) = true) ∧ (bitsOf (B.arg c.win.toNat 1) 9 23 = 0 ∧ (B.arg c.win.toNat 2).toNat % 64 = 0 ∧ (padStmt (zeros (388 + (B.layoutBlock (bitsOf (B.arg c.win.toNat 1) 0 8)).length + 114))).length ≤ (B.arg c.win.toNat 4).toNat) ∧ (B.sealDue (bitsOf (B.arg c.win.toNat 1) 0 8) = none) ∧ (bitAt (B.arg c.win.toNat 1) 8 = false ∧ B.seal (bitsOf (B.arg c.win.toNat 1) 0 8) = some x))
    ∧ (∃ (s B : State) (c : HostCmd), (s.Commits c 0x0B B) ∧ (B.lit = true ∧ B.wdn.serving = true ∧ B.offRack (bitsOf (B.arg c.win.toNat 1) 0 8) = false ∧ B.isSealed (bitsOf (B.arg c.win.toNat 1) 0 8) = true) ∧ (bitsOf (B.arg c.win.toNat 1) 9 23 = 0 ∧ (B.arg c.win.toNat 2).toNat % 64 = 0 ∧ (padStmt (zeros (388 + (B.layoutBlock (bitsOf (B.arg c.win.toNat 1) 0 8)).length + 114))).length ≤ (B.arg c.win.toNat 4).toNat) ∧ (B.sealDue (bitsOf (B.arg c.win.toNat 1) 0 8) = none) ∧ (bitAt (B.arg c.win.toNat 1) 8 = true ∧ B.signFull = false))
    ∧ (∃ (s B : State) (c : HostCmd), (s.Commits c 0x0C B) ∧ (B.lit = true) ∧ ((B.arg c.win.toNat 1).toNat ≠ 0 ∧ (B.arg c.win.toNat 1).toNat ≤ 255 ∧ B.sliceState (B.arg c.win.toNat 1).toNat ≠ 0 ∧ B.touches (B.arg c.win.toNat 1).toNat B.myRack = true) ∧ ((B.arg c.win.toNat 2).toNat ≤ 10000000))
    ∧ (∃ (v : State) (stamp w id ns : Nat), (v.touches id v.myRack = true))
    ∧ (∃ (s B : State) (c : HostCmd), (s.Commits c 0x0D B) ∧ (B.escalateRule (B.arg c.win.toNat 1) (B.arg c.win.toNat 2).toNat = 0) ∧ (bitsOf (B.arg c.win.toNat 1) 0 3 = 2) ∧ (B.rst.part = none))
    ∧ (∃ (s B : State) (c : HostCmd), (s.Commits c 0x0D B) ∧ (B.escalateRule (B.arg c.win.toNat 1) (B.arg c.win.toNat 2).toNat = 0) ∧ (3 < bitsOf (B.arg c.win.toNat 1) 0 3))
    ∧ (∃ (s B : State) (c : HostCmd), (s.Commits c 0x0E B) ∧ (B.lit = true ∧ B.isAgent ((B.arg c.win.toNat 1).extractLsb' 0 16) = true) ∧ ((B.arg c.win.toNat 2).toNat % 4 = 0 ∧ (B.arg c.win.toNat 4).toNat % 64 = 0) ∧ (1 ≤ (B.arg c.win.toNat 3).toNat ∧ (B.arg c.win.toNat 3).toNat ≤ 1020 ∧ 4 * (B.arg c.win.toNat 3).toNat ≤ (B.arg c.win.toNat 6).toNat))
    ∧ (∃ (s B : State) (c : HostCmd), (s.Commits c 0x0F B) ∧ (B.lit = true ∧ B.isAgent ((B.arg c.win.toNat 1).extractLsb' 0 16) = true) ∧ (addrX ((B.arg c.win.toNat 1).extractLsb' 0 16) = B.rx ∧ addrY ((B.arg c.win.toNat 1).extractLsb' 0 16) = B.ry) ∧ ((B.arg c.win.toNat 2).toNat = 0x80))
    ∧ (∃ (s B : State) (c : HostCmd) (fs : List Frame) (z : State), (s.Commits c 0x10 B) ∧ (B.arg c.win.toNat 1 = 0 ∧ bitsOf (B.arg c.win.toNat 3) 16 16 = 0) ∧ (1 ≤ (B.arg c.win.toNat 4).toNat ∧ (B.arg c.win.toNat 4).toNat ≤ 1024 ∧ ((B.arg c.win.toNat 5).toNat + (B.arg c.win.toNat 6).toNat * 2 ^ 32) % 64 = 0 ∧ (B.arg c.win.toNat 4).toNat * 40960 ≤ (B.arg c.win.toNat 7).toNat) ∧ (B.flag Fld.HIF_CTRL_DMA_EN = true) ∧ (fs = selectFrames B.tel.fine ((B.arg c.win.toNat 2).toNat + bitsOf (B.arg c.win.toNat 3) 0 16 * 2 ^ 32) (B.arg c.win.toNat 4).toNat ∧ fs ≠ []) ∧ (z = ((if fs.flatMap (·.words) = [] then B else B.dmaWrite ((B.arg c.win.toNat 5).toNat + (B.arg c.win.toNat 6).toNat * 2 ^ 32) (fs.flatMap (·.words))).setReg Reg.TEL_LAST_READ (fieldAt 0 16 fs.length)).raiseIf false Fld.TEL_INT_STATUS_READ_MISSED)) :=
  ⟨⟨{ litUnit with wdn := { litUnit.wdn with serving := true } }, _, { win := 3, seq := 1, irq := false, args := [0, 4096, 0, 1024] }, ⟨by decide, by decide, rfl⟩, by decide, by decide, by decide⟩,
   ⟨{ sealUnit with wdn := { sealUnit.wdn with seals := [seal5] } }, _, { win := 3, seq := 1, irq := false, args := [5, 4096, 0, 4096] }, seal5, ⟨by decide, by decide, rfl⟩, by decide, by decide, by decide, by decide⟩,
   ⟨sealUnit, _, { win := 3, seq := 1, irq := false, args := [0x105, 4096, 0, 4096] }, ⟨by decide, by decide, rfl⟩, by decide, by decide, by decide, by decide⟩,
   ⟨litUnit, _, { win := 3, seq := 1, irq := false, args := [5, 25000] }, ⟨by decide, by decide, rfl⟩, by decide, by decide, by decide⟩,
   ⟨litUnit, 0, 0, 5, 0, by decide⟩,
   ⟨litUnit, _, { win := 3, seq := 1, irq := false, args := [0x0402, 0] }, ⟨by decide, by decide, rfl⟩, by decide, by decide, by decide⟩,
   ⟨litUnit, _, { win := 3, seq := 1, irq := false, args := [12, 0] }, ⟨by decide, by decide, rfl⟩, by decide, by decide⟩,
   ⟨litUnit, _, { win := 3, seq := 1, irq := false, args := [0x4000, 0, 1, 0, 0, 4] }, ⟨by decide, by decide, rfl⟩, by decide, by decide, by decide⟩,
   ⟨litUnit, _, { win := 3, seq := 1, irq := false, args := [0x4000, 0x80, 0, 1] }, ⟨by decide, by decide, rfl⟩, by decide, by decide, by decide⟩,
   ⟨telUnit, _, { win := 3, seq := 1, irq := false, args := [0, 0, 0, 1, 4096, 0, 40960] }, _, _, ⟨by decide, by decide, rfl⟩, by decide, by decide, by decide, ⟨rfl, by decide⟩, rfl⟩⟩

set_option maxRecDepth 20000 in
/-- The hypotheses of SolverMessagesTakeEffect are met. -/
theorem test_hyp_SolverMessagesTakeEffect :
    (∃ (s v : State) (port : Nat) (p : Packet) (src : Addr) (m : KMsg), (s.TakesMsg 0x01 port p v src m) ∧ (v.isHead = true))
    ∧ (∃ (s v : State) (port : Nat) (p : Packet) (src : Addr) (m : KMsg) (u : State) (ws : List Word), (s.TakesMsg 0x02 port p v src m) ∧ (v.slv.epoch < m.epoch.toNat) ∧ (v.collect m = (u, some ws)) ∧ (u.mor.rebuild = false))
    ∧ (∃ (s v : State) (port : Nat) (p : Packet) (src : Addr) (m : KMsg) (x : EpochRec × SliceSet × List Word), (s.TakesMsg 0x0C port p v src m) ∧ (v.isHead = true) ∧ (v.slv.head.sent.find? (fun x => x.1.epoch == m.epoch.toNat) = some x))
    ∧ (∃ (s v : State) (port : Nat) (p : Packet) (src : Addr) (m : KMsg), (s.TakesMsg 0x03 port p v src m))
    ∧ (∃ (s v : State) (port : Nat) (p : Packet) (src : Addr) (m : KMsg), (s.TakesMsg 0x04 port p v src m) ∧ (v.isHead = true ∧ v.slv.head.active = true ∧ v.slv.head.epoch = m.epoch.toNat))
    ∧ (∃ (s v : State) (port : Nat) (p : Packet) (src : Addr) (m : KMsg), (s.TakesMsg 0x05 port p v src m) ∧ (m.subject = false ∧ v.mor.rebuild = false ∧ m.epoch.toNat = v.slv.cycle.epoch ∧ v.slv.cycle.phase = .solved))
    ∧ (∃ (s v : State) (port : Nat) (p : Packet) (src : Addr) (m : KMsg), (s.TakesMsg 0x05 port p v src m) ∧ (m.subject = false ∧ v.mor.rebuild = false ∧ m.epoch.toNat ≠ v.slv.cycle.epoch))
    ∧ (∃ (s v : State) (port : Nat) (p : Packet) (src : Addr) (m : KMsg), (s.TakesMsg 0x06 port p v src m) ∧ (v.isHead = true ∧ m.subject = false ∧ v.slv.head.active = true ∧ v.slv.head.epoch = m.epoch.toNat))
    ∧ (∃ (s v : State) (port : Nat) (p : Packet) (src : Addr) (m : KMsg) (z : State), (s.TakesMsg 0x07 port p v src m) ∧ (v.isHead = true ∧ m.subject = false ∧ v.slv.head.active = true ∧ v.slv.head.epoch = m.epoch.toNat) ∧ (z = (v.onHead fun h => { h with ready2 := h.ready2.filter (· != v.rackOf src) }).showHead))
    ∧ (∃ (s v : State) (port : Nat) (p : Packet) (src : Addr) (m : KMsg), (s.TakesMsg 0x08 port p v src m) ∧ (m.subject = false ∧ v.slv.cycle.epoch = m.epoch.toNat ∧ v.slv.cycle.phase = .armed))
    ∧ (∃ (s v : State) (port : Nat) (p : Packet) (src : Addr) (m : KMsg), (s.TakesMsg 0x09 port p v src m) ∧ (m.subject = false ∧ v.slv.cycle.phase = .armed ∧ v.slv.cycle.epoch = m.epoch.toNat ∧ v.slv.cycle.f = m.flash.toNat))
    ∧ (∃ (s v : State) (port : Nat) (p : Packet) (src : Addr) (m : KMsg), (s.TakesMsg 0x0A port p v src m) ∧ (v.isHead = true))
    ∧ (∃ (s v : State) (port : Nat) (p : Packet) (src : Addr) (m : KMsg), (s.TakesMsg 0x0B port p v src m) ∧ (m.subject = false)) :=
  ⟨⟨litUnit, _, 21, msgIn [], _, _, ⟨_, rfl, rfl⟩, by decide⟩,
   ⟨State.reset, _, 21, msgIn [0x02, 0, 1], _, _, _, _, ⟨_, rfl, rfl⟩, by decide, rfl, by decide⟩,
   ⟨{ litUnit with slv := { litUnit.slv with head := { litUnit.slv.head with sent := [({ epoch := 0, full := false, recs := [] }, 0, [])] } } }, _, 21, msgIn [], _, _, ({ epoch := 0, full := false, recs := [] }, 0, []), ⟨_, rfl, rfl⟩, by decide, by decide⟩,
   ⟨State.reset, _, 21, msgIn [], _, _, ⟨_, rfl, rfl⟩⟩,
   ⟨{ litUnit with slv := { litUnit.slv with head := { litUnit.slv.head with active := true, epoch := 1 } } }, _, 21, msgIn [0x04, 0, 1], _, _, ⟨_, rfl, rfl⟩, by decide⟩,
   ⟨{ litUnit with slv := { litUnit.slv with cycle := { litUnit.slv.cycle with phase := .solved, epoch := 1 } } }, _, 21, msgIn [0x05, 0, 1, 5], _, _, ⟨_, rfl, rfl⟩, by decide⟩,
   ⟨litUnit, _, 21, msgIn [0x05, 0, 1, 5], _, _, ⟨_, rfl, rfl⟩, by decide⟩,
   ⟨{ litUnit with slv := { litUnit.slv with head := { litUnit.slv.head with active := true, epoch := 1 } } }, _, 21, msgIn [0x06, 0, 1], _, _, ⟨_, rfl, rfl⟩, by decide⟩,
   ⟨{ litUnit with slv := { litUnit.slv with head := { litUnit.slv.head with active := true, epoch := 1 } } }, _, 21, msgIn [0x07, 0, 1, 0, 0, 0, 4], _, _, _, ⟨_, rfl, rfl⟩, by decide, rfl⟩,
   ⟨{ litUnit with slv := { litUnit.slv with cycle := { litUnit.slv.cycle with phase := .armed, epoch := 1 } } }, _, 21, msgIn [0x08, 0, 1, 9], _, _, ⟨_, rfl, rfl⟩, by decide⟩,
   ⟨{ litUnit with slv := { litUnit.slv with cycle := { litUnit.slv.cycle with phase := .armed, epoch := 1, f := 7 } } }, _, 21, msgIn [0x09, 0, 1, 7], _, _, ⟨_, rfl, rfl⟩, by decide⟩,
   ⟨litUnit, _, 21, msgIn [], _, _, ⟨_, rfl, rfl⟩, by decide⟩,
   ⟨litUnit, _, 21, msgIn [0x0B, 0, 3], _, _, ⟨_, rfl, rfl⟩, by decide⟩⟩

set_option maxRecDepth 20000 in
/-- The hypotheses of SliceMessagesTakeEffect are met. -/
theorem test_hyp_SliceMessagesTakeEffect :
    (∃ (s v : State) (port : Nat) (p : Packet) (src : Addr) (m : KMsg) (i : SliceIssued), (s.TakesMsg 0x21 port p v src m) ∧ (v.slc.issued.find? (fun i => i.tag == bitsOf m.count 8 12) = some i) ∧ (bitsOf m.count 0 8 ≠ 0))
    ∧ (∃ (s v : State) (port : Nat) (p : Packet) (src : Addr) (m : KMsg) (i : SliceIssued), (s.TakesMsg 0x21 port p v src m) ∧ (v.slc.issued.find? (fun i => i.tag == bitsOf m.count 8 12) = some i) ∧ (bitsOf m.count 0 8 = 0))
    ∧ (∃ (s v : State) (port : Nat) (p : Packet) (src : Addr) (m : KMsg) (u : State) (ws : List Word), (s.TakesMsg 0x22 port p v src m) ∧ (v.collect m = (u, some ws)) ∧ (u.slv.epoch < m.epoch.toNat))
    ∧ (∃ (s v : State) (port : Nat) (p : Packet) (src : Addr) (m : KMsg), (s.TakesMsg 0x23 port p v src m))
    ∧ (∃ (s v : State) (port : Nat) (p : Packet) (src : Addr) (m : KMsg), (s.TakesMsg 0x24 port p v src m) ∧ (v.isHead = true))
    ∧ (∃ (s v : State) (port : Nat) (p : Packet) (src : Addr) (m : KMsg), (s.TakesMsg 0x25 port p v src m))
    ∧ (∃ (s v : State) (port : Nat) (p : Packet) (src : Addr) (m : KMsg), (s.StagesMsg 0x20 port p v src m))
    ∧ (∃ (v : State) (stamp : Nat) (src : Addr) (m : KMsg), (m.mtype = 0x20))
    ∧ (∃ (s v : State) (port : Nat) (p : Packet) (ev : AgentEvent), (s.TakesEvent 7 port p v ev)) :=
  ⟨⟨{ litUnit with slc := { litUnit.slc with issued := [{ win := 3, tag := 1, op := 1, slice := 9, words := [], flash := 0, epoch := none }] } }, _, 21, msgIn [0x21, 0, 0, 0, 0, 0, 0x105], _, _, { win := 3, tag := 1, op := 1, slice := 9, words := [], flash := 0, epoch := none }, ⟨_, rfl, rfl⟩, by decide, by decide⟩,
   ⟨{ litUnit with slc := { litUnit.slc with issued := [{ win := 3, tag := 1, op := 1, slice := 9, words := [], flash := 0, epoch := none }] } }, _, 21, msgIn [0x21, 0, 4, 0, 0, 0, 0x100], _, _, { win := 3, tag := 1, op := 1, slice := 9, words := [], flash := 0, epoch := none }, ⟨_, rfl, rfl⟩, by decide, by decide⟩,
   ⟨litUnit, _, 21, msgIn [0x22, 0, 4], _, _, _, _, ⟨_, rfl, rfl⟩, rfl, by decide⟩,
   ⟨State.reset, _, 21, msgIn [], _, _, ⟨_, rfl, rfl⟩⟩,
   ⟨litUnit, _, 21, msgIn [], _, _, ⟨_, rfl, rfl⟩, by decide⟩,
   ⟨State.reset, _, 21, msgIn [], _, _, ⟨_, rfl, rfl⟩⟩,
   ⟨litUnit, _, 21, msgIn [], _, _, rfl⟩,
   ⟨litUnit, 0, 0, kmsgOf [0x20], by decide⟩,
   ⟨litUnit, _, 3, eventIn 7 [], _, ⟨by decide, by decide, by decide, rfl, _, rfl, rfl⟩⟩⟩

set_option maxRecDepth 20000 in
/-- The hypotheses of PlanMessagesTakeEffect are met. -/
theorem test_hyp_PlanMessagesTakeEffect :
    (∃ (s v : State) (port : Nat) (p : Packet) (src : Addr) (m : KMsg), (s.StagesMsg 0x30 port p v src m))
    ∧ (∃ (v : State) (stamp : Nat) (src : Addr) (m : KMsg), (m.mtype = 0x30))
    ∧ (∃ (s v : State) (port : Nat) (p : Packet) (src : Addr) (m : KMsg), (s.StagesMsg 0x31 port p v src m))
    ∧ (∃ (v : State) (src : Addr) (m : KMsg), (m.mtype = 0x31))
    ∧ (∃ (s v : State) (port : Nat) (p : Packet) (src : Addr) (m : KMsg), (s.StagesMsg 0x32 port p v src m))
    ∧ (∃ (v : State) (stamp : Nat) (src : Addr) (m : KMsg), (m.mtype = 0x32))
    ∧ (∃ (s v : State) (port : Nat) (p : Packet) (src : Addr) (m : KMsg), (s.StagesMsg 0x33 port p v src m))
    ∧ (∃ (v : State) (stamp : Nat) (src : Addr) (m : KMsg), (m.mtype = 0x33))
    ∧ (∃ (s v : State) (port : Nat) (p : Packet) (src : Addr) (m : KMsg), (s.StagesMsg 0x34 port p v src m))
    ∧ (∃ (v : State) (stamp : Nat) (src : Addr) (m : KMsg), (m.mtype = 0x34))
    ∧ (∃ (s v : State) (port : Nat) (p : Packet) (src : Addr) (m : KMsg) (q : Plan) (z : State), (s.TakesMsg 0x35 port p v src m) ∧ (wordAt m.words 0 ≠ 0 ∧ v.planOf (msgSlice m) (wordAt m.words 0).toNat = some q) ∧ ((q.st = 1 ∨ q.st = 2) ∧ bitsOf m.count 0 8 = 0 ∧ m.flash ≠ 0) ∧ (z = v.enablePlan q.ctx m.flash.toNat) ∧ (z.clp.issued.find? (fun i => !i.abort && i.tag == bitsOf m.count 8 12 && (wordAt m.words 1).toNat == v.myRack) = none))
    ∧ (∃ (s v : State) (port : Nat) (p : Packet) (src : Addr) (m : KMsg) (q : Plan) (z : State), (s.TakesMsg 0x35 port p v src m) ∧ (wordAt m.words 0 ≠ 0 ∧ v.planOf (msgSlice m) (wordAt m.words 0).toNat = some q) ∧ (q.st = 4 ∧ bitsOf m.count 0 8 = 0) ∧ (z = (v.freePlan q.ctx false).raise Fld.CLP_INT_STATUS_RELEASED) ∧ (z.clp.issued.find? (fun i => !i.abort && i.tag == bitsOf m.count 8 12 && (wordAt m.words 1).toNat == v.myRack) = none))
    ∧ (∃ (s v : State) (port : Nat) (p : Packet) (src : Addr) (m : KMsg) (i : PlanIssued), (s.TakesMsg 0x35 port p v src m) ∧ (wordAt m.words 0 = 0 ∧ bitsOf m.count 0 8 ≠ 0) ∧ (v.clp.issued.find? (fun i => !i.abort && i.tag == bitsOf m.count 8 12 && (wordAt m.words 1).toNat == v.myRack) = some i)) :=
  ⟨⟨litUnit, _, 21, msgIn [], _, _, rfl⟩,
   ⟨litUnit, 0, 0, kmsgOf [0x30], by decide⟩,
   ⟨litUnit, _, 21, msgIn [], _, _, rfl⟩,
   ⟨litUnit, 0, kmsgOf [0x31], by decide⟩,
   ⟨litUnit, _, 21, msgIn [], _, _, rfl⟩,
   ⟨litUnit, 0, 0, kmsgOf [0x32], by decide⟩,
   ⟨litUnit, _, 21, msgIn [], _, _, rfl⟩,
   ⟨litUnit, 0, 0, kmsgOf [0x33], by decide⟩,
   ⟨litUnit, _, 21, msgIn [], _, _, rfl⟩,
   ⟨litUnit, 0, 0, kmsgOf [0x34], by decide⟩,
   ⟨planUnit (fun p => { p with st := 2 }), _, 21, msgIn ([0x35, 0, 0, 5, 0, 0, 0, 0, 32] ++ List.replicate 23 0 ++ [1, 7]), _, _, { plan5 with st := 2 }, _, ⟨_, rfl, rfl⟩, by decide, by decide, rfl, by decide⟩,
   ⟨planUnit (fun p => { p with st := 4 }), _, 21, planIn 0x35 0 [1, 7], _, _, { plan5 with st := 4 }, _, ⟨_, rfl, rfl⟩, by decide, by decide, rfl, by decide⟩,
   ⟨{ planUnit id with clp := { litUnit.clp with issued := [{ win := 2, tag := 1, abort := false, slice := 5, ordinal := 0, words := [], flash := 0 }] } }, _, 21, planIn 0x35 0x103 [0, 0], _, _, { win := 2, tag := 1, abort := false, slice := 5, ordinal := 0, words := [], flash := 0 }, ⟨_, rfl, rfl⟩, by decide, by decide⟩⟩

set_option maxRecDepth 20000 in
/-- The hypotheses of RecoveryMessagesTakeEffect are met. -/
theorem test_hyp_RecoveryMessagesTakeEffect :
    (∃ (s v : State) (port : Nat) (p : Packet) (src : Addr) (m : KMsg), (s.TakesMsg 0x47 port p v src m) ∧ (v.isHead = true))
    ∧ (∃ (s v : State) (port : Nat) (p : Packet) (src : Addr) (m : KMsg) (q : HeadPlan), (s.TakesMsg 0x40 port p v src m) ∧ (v.isHead = true) ∧ (v.livePlan (msgSlice m) (wordAt m.words 0).toNat = some q))
    ∧ (∃ (s v : State) (port : Nat) (p : Packet) (src : Addr) (m : KMsg) (q : Plan), (s.TakesMsg 0x41 port p v src m) ∧ (v.planOf (msgSlice m) (wordAt m.words 0).toNat = some q) ∧ (q.recovery = (wordAt m.words 1).toNat))
    ∧ (∃ (s v : State) (port : Nat) (p : Packet) (src : Addr) (m : KMsg) (q : Plan) (z : State) (r : Plan), (s.TakesMsg 0x41 port p v src m) ∧ (v.planOf (msgSlice m) (wordAt m.words 0).toNat = some q) ∧ (q.recovery ≠ (wordAt m.words 1).toNat ∧ q.frozen = none) ∧ (z = ((((v.onPlan q.ctx fun p => { p with recovery := (wordAt m.words 1).toNat, gone := false, clearing := true, namedPieces := (m.words.drop 5).map BitVec.toNat, remap := remapOf (wordAt m.words 3) (wordAt m.words 4), lost := p.lost ||| maskOf ((planeList q.planes).filter fun i => (remapOf (wordAt m.words 3) (wordAt m.words 4)).getD i i != i), recovered := [(wordAt m.words 2).toNat % 65536, (wordAt m.words 2).toNat / 65536], reqs := [] }).clearPieces q.ctx ((wordAt m.words 2).toNat % 65536) ((wordAt m.words 2).toNat / 65536) ((m.words.drop 5).map BitVec.toNat)).countReg Reg.CLP_RECOVERIES 1).raiseIf ((planeList (maskOf ((planeList q.planes).filter fun i => (remapOf (wordAt m.words 3) (wordAt m.words 4)).getD i i != i))).any fun i => !q.lost.testBit i) Fld.CLP_FAULT_STATUS_PLANE_LOST).raise Fld.CLP_FAULT_STATUS_REPLAY) ∧ (z.plan q.ctx = some r))
    ∧ (∃ (s v : State) (port : Nat) (p : Packet) (src : Addr) (m : KMsg) (r : Recovery) (q : HeadPlan), (s.TakesMsg 0x42 port p v src m) ∧ (v.isHead = true) ∧ (v.clp.recoveries.find? (fun r => r.slice == msgSlice m && r.ordinal == (wordAt m.words 0).toNat && r.number == (wordAt m.words 1).toNat && (wordAt m.words 1).toNat != 0) = some r) ∧ (v.livePlan r.slice r.ordinal = some q) ∧ (q.racks.all (fun k => k == v.rackOf src || r.cleared.contains k) = false))
    ∧ (∃ (s v : State) (port : Nat) (p : Packet) (src : Addr) (m : KMsg) (r : Recovery) (q : HeadPlan), (s.TakesMsg 0x42 port p v src m) ∧ (v.isHead = true) ∧ (v.clp.recoveries.find? (fun r => r.slice == msgSlice m && r.ordinal == (wordAt m.words 0).toNat && r.number == (wordAt m.words 1).toNat && (wordAt m.words 1).toNat != 0) = some r) ∧ (v.livePlan r.slice r.ordinal = some q) ∧ (q.racks.all (fun k => k == v.rackOf src || r.cleared.contains k) = true))
    ∧ (∃ (s v : State) (port : Nat) (p : Packet) (src : Addr) (m : KMsg) (q : Plan) (z : State), (s.TakesMsg 0x43 port p v src m) ∧ (v.planOf (msgSlice m) (wordAt m.words 0).toNat = some q) ∧ (q.recovery = (wordAt m.words 1).toNat ∧ q.gone = false) ∧ (z = (v.dropSent fun x => x.ctx == q.ctx && inLaunches (q.recovered.headD 0) (q.recovered.getD 1 (q.recovered.headD 0)) x.launch && q.namedPieces.contains x.piece).onPlan q.ctx fun p => { p with gone := true }))
    ∧ (∃ (s v : State) (port : Nat) (p : Packet) (src : Addr) (m : KMsg) (q : Plan), (s.TakesMsg 0x44 port p v src m) ∧ (v.planOf (msgSlice m) (wordAt m.words 0).toNat = some q) ∧ (q.frozen = none))
    ∧ (∃ (s v : State) (port : Nat) (p : Packet) (src : Addr) (m : KMsg) (a b : AbortEx), (s.TakesMsg 0x45 port p v src m) ∧ (v.isHead = true) ∧ (v.clp.aborts.find? (fun a => (a.slice == msgSlice m && a.ordinal == (wordAt m.words 0).toNat) && !a.waiting) = some a) ∧ (b = { a with replies := (a.replies.filter fun x => x.1 != v.rackOf src) ++ [(v.rackOf src, (wordAt m.words 1).toNat, (wordAt m.words 2).toNat, (wordAt m.words 3).toNat, (wordAt m.words 4).toNat)] }))
    ∧ (∃ (s v : State) (port : Nat) (p : Packet) (src : Addr) (m : KMsg) (q : Plan) (c : Nat), (s.TakesMsg 0x46 port p v src m) ∧ (v.planOf (msgSlice m) (wordAt m.words 0).toNat = some q) ∧ (q.frozen = some c) ∧ (wordAt m.words 1 ≠ 0))
    ∧ (∃ (s v : State) (port : Nat) (p : Packet) (src : Addr) (m : KMsg) (q : Plan) (c : Nat), (s.TakesMsg 0x46 port p v src m) ∧ (v.planOf (msgSlice m) (wordAt m.words 0).toNat = some q) ∧ (q.frozen = some c) ∧ (wordAt m.words 1 = 0)) :=
  ⟨⟨planUnit id, _, 21, planIn 0x47 1 [1], _, _, ⟨_, rfl, rfl⟩, by decide⟩,
   ⟨planUnit id, _, 21, planIn 0x40 2 [1, 2], _, _, headPlan5, ⟨_, rfl, rfl⟩, by decide, by decide⟩,
   ⟨planUnit (fun p => { p with recovery := 2 }), _, 21, planIn 0x41 2 [1, 2], _, _, { plan5 with recovery := 2 }, ⟨_, rfl, rfl⟩, by decide, by decide⟩,
   ⟨planUnit id, _, 21, planIn 0x41 6 [1, 2, 0, 0x76543210, 0xFEDCBA98, 4], _, _, plan5, _, _, ⟨_, rfl, rfl⟩, by decide, by decide, rfl, rfl⟩,
   ⟨{ planUnit id with clp := { (planUnit id).clp with live := [{ headPlan5 with racks := [0, 1] }], recoveries := [{ slice := 5, ordinal := 1, number := 2, planes := 0, pieces := [], launch := 0, cleared := [], flash := 0, gone := false }] } }, _, 21, planIn 0x42 2 [1, 2], _, _, { slice := 5, ordinal := 1, number := 2, planes := 0, pieces := [], launch := 0, cleared := [], flash := 0, gone := false }, { headPlan5 with racks := [0, 1] }, ⟨_, rfl, rfl⟩, by decide, by decide, by decide, by decide⟩,
   ⟨{ planUnit id with clp := { (planUnit id).clp with recoveries := [{ slice := 5, ordinal := 1, number := 2, planes := 0, pieces := [], launch := 0, cleared := [], flash := 0, gone := false }] } }, _, 21, planIn 0x42 2 [1, 2], _, _, { slice := 5, ordinal := 1, number := 2, planes := 0, pieces := [], launch := 0, cleared := [], flash := 0, gone := false }, headPlan5, ⟨_, rfl, rfl⟩, by decide, by decide, by decide, by decide⟩,
   ⟨planUnit (fun p => { p with recovery := 2 }), _, 21, planIn 0x43 2 [1, 2], _, _, { plan5 with recovery := 2 }, _, ⟨_, rfl, rfl⟩, by decide, by decide, rfl⟩,
   ⟨planUnit id, _, 21, planIn 0x44 2 [1, 2], _, _, plan5, ⟨_, rfl, rfl⟩, by decide, by decide⟩,
   ⟨{ planUnit id with clp := { (planUnit id).clp with aborts := [{ slice := 5, ordinal := 1, cause := 16, replies := [], flash := 0, waiting := false, memberReset := false }] } }, _, 21, planIn 0x45 5 [1, 2, 0, 0, 0], _, _, { slice := 5, ordinal := 1, cause := 16, replies := [], flash := 0, waiting := false, memberReset := false }, _, ⟨_, rfl, rfl⟩, by decide, by decide, rfl⟩,
   ⟨planUnit (fun p => { p with frozen := some 16 }), _, 21, planIn 0x46 6 [1, 1, 0, 0, 0, 0], _, _, { plan5 with frozen := some 16 }, 16, ⟨_, rfl, rfl⟩, by decide, by decide, by decide⟩,
   ⟨planUnit (fun p => { p with frozen := some 16 }), _, 21, planIn 0x46 6 [1, 0, 0, 0, 0, 0], _, _, { plan5 with frozen := some 16 }, 16, ⟨_, rfl, rfl⟩, by decide, by decide, by decide⟩⟩

set_option maxRecDepth 20000 in
/-- The hypotheses of HeadMessagesTakeEffect are met. -/
theorem test_hyp_HeadMessagesTakeEffect :
    (∃ (s v : State) (port : Nat) (p : Packet) (src : Addr) (m : KMsg), (s.TakesMsg 0x53 port p v src m) ∧ (v.chart.headNext = none))
    ∧ (∃ (s v : State) (port : Nat) (p : Packet) (src : Addr) (m : KMsg), (s.TakesMsg 0x52 port p v src m))
    ∧ (∃ (s v : State) (port : Nat) (p : Packet) (src : Addr) (m : KMsg) (z : State) (ws : List Word), (s.TakesMsg 0x50 port p v src m) ∧ (z = ({ v with chart := { v.chart with deputyActs := true } } : State)) ∧ (ws = [z.getReg Reg.SLV_STATE, w32 z.slv.litEpoch, w32 z.slv.cycle.epoch, loHalf z.slv.cycle.f, fieldAt 0 1 (b2n (z.slv.cycle.phase == .confirmed))] ++ z.openExchanges))
    ∧ (∃ (s v : State) (port : Nat) (p : Packet) (src : Addr) (m : KMsg), (s.TakesMsg 0x51 port p v src m) ∧ (v.chart.acting = true ∧ v.lit = true))
    ∧ (∃ (s v : State) (port : Nat) (p : Packet) (src : Addr) (m : KMsg), (s.TakesMsg 0x54 port p v src m) ∧ (v.inHeadRack = true ∨ v.inDeputyRack = true))
    ∧ (∃ (s v : State) (port : Nat) (p : Packet) (src : Addr) (m : KMsg) (u : State) (ws : List Word), (s.TakesMsg 0x55 port p v src m) ∧ (v.collect m = (u, some ws)) ∧ (u.mor.rebuild = false) ∧ (m.epoch.toNat = u.slv.epoch)) :=
  ⟨⟨litUnit, _, 21, msgIn [], _, _, ⟨_, rfl, rfl⟩, by decide⟩,
   ⟨State.reset, _, 21, msgIn [], _, _, ⟨_, rfl, rfl⟩⟩,
   ⟨litUnit, _, 21, msgIn [], _, _, _, _, ⟨_, rfl, rfl⟩, rfl, rfl⟩,
   ⟨{ litUnit with chart := { litUnit.chart with acting := true } }, _, 21, msgIn [], _, _, ⟨_, rfl, rfl⟩, by decide⟩,
   ⟨litUnit, _, 21, msgIn [], _, _, ⟨_, rfl, rfl⟩, by decide⟩,
   ⟨litUnit, _, 21, msgIn [0x55], _, _, _, _, ⟨_, rfl, rfl⟩, rfl, by decide, by decide⟩⟩

set_option maxRecDepth 20000 in
/-- The hypotheses of FlashAndPilotCommandsRun are met. -/
theorem test_hyp_FlashAndPilotCommandsRun :
    (∃ (s : State) (f : FlashMeas) (z u : State) (marks : List (StageId × Bool × Bool)) (late : StageId → Bool), (s.pwr.stage = .on) ∧ (z = (({ s with hif := { s.hif with sets := [] } } : State).gatherLog.answerAnnounce.answerBank.senseSensors f)) ∧ (z.rst.part.any (·.started) = false) ∧ (marks = z.work.stages.map (fun g => (g.id, z.lateStage g, z.batching g)) ∧ late = (fun id => (z.chart.lit.isNone && !(id == .cht || id == .rst)) || marks.any fun x => x.1 == id && x.2.1)) ∧ (u = marks.foldl (fun s x => s.countStage x.1 x.2.1 x.2.2) (z.endFlash f late)))
    ∧ (∃ (s : State) (f : FlashMeas) (z : State), (s.pwr.stage = .on) ∧ (z = (({ s with hif := { s.hif with sets := [] } } : State).gatherLog.answerAnnounce.answerBank.senseSensors f)) ∧ (z.rst.part.any (·.started) = true))
    ∧ (∃ (s : State) (g : StageId) (v : State), (g ≠ .cht ∧ g ≠ .slv) ∧ (v = s.onStage g fun x => { x with closed := true }))
    ∧ (∃ (s : State) (p : Proposal), (s.work.requests.find? (fun q => q.request == p.request && q.stage == p.stage && q.held.isNone && q.answer.isNone && !q.fell) = none))
    ∧ (∃ (s : State) (p : Proposal) (r : PropReq), (s.work.requests.find? (fun q => q.request == p.request && q.stage == p.stage && q.held.isNone && q.answer.isNone && !q.fell) = some r) ∧ (s.proposalRule p r = 0) ∧ ((s.progress (0x10 + p.core.toNat)).stageOpen p.stage = false))
    ∧ (∃ (s : State) (p : Proposal) (r : PropReq), (s.work.requests.find? (fun q => q.request == p.request && q.stage == p.stage && q.held.isNone && q.answer.isNone && !q.fell) = some r) ∧ (s.proposalRule p r = 0) ∧ ((s.progress (0x10 + p.core.toNat)).stageOpen p.stage = true))
    ∧ (∃ (s : State) (p : Proposal) (r : PropReq), (s.work.requests.find? (fun q => q.request == p.request && q.stage == p.stage && q.held.isNone && q.answer.isNone && !q.fell) = some r) ∧ (s.proposalRule p r ≠ 0))
    ∧ (∃ (s : State) (n : Nat) (r : PropReq) (z : State), (s.work.requests.find? (fun q => q.request == n && q.held.isNone && q.answer.isNone && !q.fell) = some r) ∧ (s.budgetEnd r ≤ s.tim.flash ∧ r.decision = 2) ∧ (z = ((s.onRequest n fun q => { q with fell := true }).onStage r.stage fun g => { g with batch := g.batch ++ [(s.tim.flash, .answer n)] })))
    ∧ (∃ (s : State) (n : Nat) (r : PropReq) (z : State), (s.work.requests.find? (fun q => q.request == n && q.held.isNone && q.answer.isNone && !q.fell) = some r) ∧ (s.budgetEnd r ≤ s.tim.flash ∧ r.decision ≠ 2) ∧ (z = ((s.onRequest n fun q => { q with fell := true }).onStage r.stage fun g => { g with batch := g.batch ++ [(s.tim.flash, .answer n)] })))
    ∧ (∃ (s : State) (z : State), (s.lit = true ∧ s.inDeputyRack = true ∧ s.inHeadRack = false) ∧ (s.chart.acting = false ∧ s.headMissing = true) ∧ (z = ((({ s with chart := { s.chart with acting := true, deputyActs := true, handback := none } } : State).setF Fld.CHT_STATE_ACTING_HEAD 1).takeHead)))
    ∧ (∃ (s : State) (f : Nat) (z : State), (s.chart.handback = some f) ∧ (f ≤ s.tim.flash ∧ s.work.opening = true) ∧ (z = (({ s with chart := { s.chart with acting := false, deputyActs := false, handback := none, silence := 0 } } : State).setF Fld.CHT_STATE_ACTING_HEAD 0)) ∧ (z.isHead = false)) :=
  ⟨⟨State.reset, quietFlash, _, _, _, _, by decide, rfl, by decide, ⟨rfl, rfl⟩, rfl⟩,
   ⟨{ State.reset with rst := { State.reset.rst with part := some { level := 5, started := true, deferred := false, wins := [], force := false, engine := 0, cause := 0, slice := 0, began := 0, pin := false, held := false } } }, quietFlash, _, by decide, rfl, by decide⟩,
   ⟨State.reset, .rst, _, by decide, rfl⟩,
   ⟨State.reset, prop5, by decide⟩,
   ⟨propUnit, prop5, req5, by decide, by decide, by decide⟩,
   ⟨{ propUnit with work := { propUnit.work with stages := propUnit.work.stages.map fun g => { g with batch := [(1, .acted)], closed := false } } }, prop5, req5, by decide, by decide, by decide⟩,
   ⟨propUnit, { prop5 with reserved := true }, req5, by decide, by decide⟩,
   ⟨{ propUnit with tim := { propUnit.tim with flash := 999 }, work := { propUnit.work with requests := [{ req5 with decision := 2 }] } }, 5, { req5 with decision := 2 }, _, by decide, by decide, rfl⟩,
   ⟨{ propUnit with tim := { propUnit.tim with flash := 999 }, work := { propUnit.work with requests := [{ req5 with decision := 3 }] } }, 5, { req5 with decision := 3 }, _, by decide, by decide, rfl⟩,
   ⟨{ deputyUnit with chart := { deputyUnit.chart with silence := 999 } }, _, by decide, by decide, rfl⟩,
   ⟨{ deputyUnit with chart := { deputyUnit.chart with handback := some 0 }, work := { deputyUnit.work with opening := true } }, 0, _, rfl, by decide, rfl, by decide⟩⟩

set_option maxRecDepth 20000 in
/-- The hypotheses of ChartAndRouteEventsRun are met. -/
theorem test_hyp_ChartAndRouteEventsRun :
    (∃ (s : State) (n : Nat), ((s.slot n).shadow = .loading ∧ s.fetching n = false))
    ∧ (∃ (s : State) (j : StoreJob) (n : Nat) (rest : List Nat) (z : State), (s.chart.store = some j ∧ j.slots = n :: rest) ∧ ((s.slot n).nvm = .writing) ∧ ((s.storeBlocks j).filter (fun b => 100000 ≤ s.blockCount b) = []) ∧ (z = ((((s.writeBlocks (s.storeBlocks j) []).storeStep j (s.storeBlocks j).length 0).stageInput .cht .acted).storeNext)))
    ∧ (∃ (s : State) (a : ChartAnnounce), (s.chart.announce = some a) ∧ (s.isHead = true ∧ a.confirmed = false) ∧ (8 ≤ a.postponed ∨ a.first + 64 * s.params.lightLead ≤ s.tim.flash))
    ∧ (∃ (s : State), (s.work.opening = true ∧ s.wdn.serving = true) ∧ (s.slv.cycle.phase = .confirmed ∧ s.slv.cycle.f ≠ 0 ∧ s.slv.cycle.f ≤ s.tim.flash))
    ∧ (∃ (s : State) (a : Arming) (c : Chart), (s.work.opening = true) ∧ (s.chart.arm = some a ∧ (s.slot a.slot).chart = some c) ∧ (a.confirmed = true ∧ a.flash ≤ s.tim.flash))
    ∧ (∃ (s : State), (s.chart.lit = none ∧ s.work.opening = true))
    ∧ (∃ (s : State) (x : Verdict), (s.slv.cycle.phase = .verifying))
    ∧ (∃ (s : State), (s.slv.cycle.phase = .loading ∧ s.slv.cycle.toLoad = []) ∧ (s.slv.cycle.f = 0))
    ∧ (∃ (s : State), (s.slv.cycle.phase = .loading ∧ s.slv.cycle.toLoad = []) ∧ (s.slv.cycle.f ≠ 0))
    ∧ (∃ (s : State), (s.slv.head.announced = true ∧ s.slv.head.f ≤ s.tim.flash + 2) ∧ (s.awaited.all (fun r => s.slv.head.ready2.contains r) = false) ∧ (s.postponeBank.chart.announce = none))
    ∧ (∃ (s : State) (a : ChartAnnounce), (s.slv.head.announced = false) ∧ (s.chart.announce = some a ∧ a.f ≤ s.tim.flash + 2) ∧ ((List.range s.rackCount).all (fun r => a.ready.contains r) = false))
    ∧ (∃ (s : State), (s.slv.cycle.phase = .confirmed ∧ s.slv.cycle.go = true))
    ∧ (∃ (s : State) (r : Nat), (s.isHead = true ∧ s.slv.head.active = true ∧ s.slv.head.confirmed = false) ∧ (s.slv.head.published + s.getF Fld.SLV_PARAMS_ABANDON_FLASHES ≤ s.tim.flash) ∧ ((if s.slv.head.announced then s.slv.head.ready2 else s.slv.head.ready1).contains r = false)) :=
  ⟨⟨{ litUnit with chart := { litUnit.chart with slots := litUnit.chart.slots.map fun x => { x with shadow := .loading } } }, 1, by decide⟩,
   ⟨storeUnit, { win := 2, slots := [1], keys := false, written := 0, retired := 0, settings := none }, 1, [], _, ⟨rfl, rfl⟩, by decide, by decide, rfl⟩,
   ⟨{ litUnit with chart := { litUnit.chart with announce := some { ann5 with postponed := 8 } } }, { ann5 with postponed := 8 }, rfl, by decide, by decide⟩,
   ⟨bankUnit, by decide, by decide⟩,
   ⟨armUnit, _, tinyChart, by decide, ⟨rfl, rfl⟩, by decide⟩,
   ⟨{ State.reset with work := { State.reset.work with opening := true } }, by decide⟩,
   ⟨{ litUnit with slv := { litUnit.slv with cycle := { litUnit.slv.cycle with phase := .verifying } } }, verdict5, by decide⟩,
   ⟨{ litUnit with slv := { litUnit.slv with cycle := { litUnit.slv.cycle with phase := .loading } } }, by decide, by decide⟩,
   ⟨{ litUnit with slv := { litUnit.slv with cycle := { litUnit.slv.cycle with phase := .loading, f := 9 } } }, by decide, by decide⟩,
   ⟨{ litUnit with slv := { litUnit.slv with head := { litUnit.slv.head with announced := true, f := 2 } } }, by decide, by decide, by decide⟩,
   ⟨{ litUnit with chart := { litUnit.chart with announce := some ann5 } }, ann5, by decide, ⟨rfl, by decide⟩, by decide⟩,
   ⟨{ litUnit with slv := { litUnit.slv with cycle := { litUnit.slv.cycle with phase := .confirmed, go := true } } }, by decide⟩,
   ⟨{ litUnit with tim := { litUnit.tim with flash := 99999 }, slv := { litUnit.slv with head := { litUnit.slv.head with active := true } } }, 3, by decide, by decide, by decide⟩⟩

set_option maxRecDepth 20000 in
/-- The hypotheses of SliceAndPlanTimersRun are met. -/
theorem test_hyp_SliceAndPlanTimersRun :
    (∃ (s : State) (q : SliceReq) (l : Layout) (z : State), (s.slc.solving = some (q, l, 1)) ∧ (z = { s with slc := { s.slc with solving := none } }) ∧ (z.slv.head.heldChanges = false ∧ z.solveVerdict l = 0))
    ∧ (∃ (s : State) (q : SliceReq) (l : Layout) (z : State), (s.slc.solving = some (q, l, 1)) ∧ (z = { s with slc := { s.slc with solving := none } }) ∧ (z.slv.head.heldChanges = true))
    ∧ (∃ (s : State) (i : SliceIssued) (z : State), (s.slc.issued.filter (fun i => i.epoch.isNone && i.flash + 64 ≤ s.tim.flash) = [i]) ∧ (z = { s with slc := { s.slc with issued := s.slc.issued.filter fun i => !(i.epoch.isNone && i.flash + 64 ≤ s.tim.flash) } }))
    ∧ (∃ (s : State) (d : HeadDrain) (z : State), (s.slc.drains.filter (fun d => !d.forced && decide (d.flash + s.getF Fld.WDN_CTRL_DRAIN_LIMIT ≤ s.tim.flash)) = [d]) ∧ (z = { s with slc := { s.slc with drains := s.slc.drains.map fun d => if !d.forced && decide (d.flash + s.getF Fld.WDN_CTRL_DRAIN_LIMIT ≤ s.tim.flash) then { d with forced := true } else d } }))
    ∧ (∃ (s : State) (a : Admission), (s.clp.adms.filter (fun a => (a.phase == .ordered || a.phase == .committed) && decide (a.asked + 32 ≤ s.tim.flash)) = [a]))
    ∧ (∃ (s : State) (i : PlanIssued) (z : State), (s.clp.issued.filter (fun i => decide (i.flash + 64 ≤ s.tim.flash)) = [i]) ∧ (z = s.onClp fun c => { c with issued := c.issued.filter fun i => !decide (i.flash + 64 ≤ s.tim.flash) }))
    ∧ (∃ (s : State) (r : Recovery), (s.isHead = true) ∧ (s.clp.recoveries.filter (fun r => r.number != 0 && decide (r.flash + 32 ≤ s.tim.flash)) = [r]) ∧ (s.clp.aborts.filter (fun a => !a.waiting && decide (a.flash + 32 ≤ s.tim.flash)) = []))
    ∧ (∃ (s : State) (a : AbortEx) (p : HeadPlan) (z : State), (s.isHead = true) ∧ (s.clp.recoveries.filter (fun r => r.number != 0 && decide (r.flash + 32 ≤ s.tim.flash)) = []) ∧ (s.clp.aborts.filter (fun a => !a.waiting && decide (a.flash + 32 ≤ s.tim.flash)) = [a]) ∧ (z = s.onClp (fun c => { c with aborts := c.aborts.filter fun x => !(x.slice == a.slice && x.ordinal == a.ordinal) })) ∧ (z.livePlan a.slice a.ordinal = some p))
    ∧ (∃ (s : State) (a : AbortEx) (p : HeadPlan) (z : State), (s.clp.aborts.filter (fun a => a.waiting && (s.livePlan a.slice a.ordinal).all fun p => decide (p.genFlash + 4 ≤ s.tim.flash)) = [a]) ∧ (z = s.onClp (fun c => { c with aborts := c.aborts.map fun x => if x.slice = a.slice ∧ x.ordinal = a.ordinal then { x with waiting := false, flash := s.tim.flash } else x })) ∧ (z.livePlan a.slice a.ordinal = some p))
    ∧ (∃ (s : State) (a : Admission), (s.isHead = true) ∧ (s.clp.adms.filter (fun a => a.phase == .releasing && decide (a.asked + s.getF Fld.CLP_CTRL_RELEASE_LIMIT ≤ s.tim.flash)) = [a]))
    ∧ (∃ (s : State) (p : Plan), (s.clp.plans.filter (fun p => p.st == 3 && s.getF Fld.CLP_FAULT_CTRL_STALL_LIMIT != 0 && decide (s.getF Fld.CLP_FAULT_CTRL_STALL_LIMIT ≤ p.quiet) && !p.stallSent && p.frozen.isNone && p.launches != 0) = [p]))
    ∧ (∃ (s : State) (p : Plan), (s.clp.plans.filter (fun p => p.st == 3 && decide (s.getF Fld.CLP_STRAG_CTRL_STRAG_RUN ≤ p.stragRun)) = [p])) :=
  ⟨⟨solveUnit, sreq5, lay5, _, rfl, rfl, by decide⟩,
   ⟨{ solveUnit with slv := { solveUnit.slv with head := { solveUnit.slv.head with heldChanges := true } } }, sreq5, lay5, _, rfl, rfl, by decide⟩,
   ⟨{ lateUnit with slc := { lateUnit.slc with issued := [sis5] } }, sis5, _, by decide, rfl⟩,
   ⟨{ lateUnit with slc := { lateUnit.slc with drains := [drain5] } }, drain5, _, by decide, rfl⟩,
   ⟨{ lateUnit with clp := { lateUnit.clp with adms := [adm5] } }, adm5, by decide⟩,
   ⟨{ lateUnit with clp := { lateUnit.clp with issued := [pis5] } }, pis5, _, by decide, rfl⟩,
   ⟨{ lateUnit with clp := { lateUnit.clp with recoveries := [rec5] } }, rec5, by decide, by decide, by decide⟩,
   ⟨{ lateUnit with clp := { lateUnit.clp with aborts := [ab5], live := [headPlan5] } }, ab5, headPlan5, _, by decide, by decide, by decide, rfl, by decide⟩,
   ⟨{ lateUnit with clp := { lateUnit.clp with aborts := [{ ab5 with waiting := true }], live := [headPlan5] } }, { ab5 with waiting := true }, headPlan5, _, by decide, rfl, by decide⟩,
   ⟨{ lateUnit with clp := { lateUnit.clp with adms := [{ adm5 with phase := .releasing }] } }, { adm5 with phase := .releasing }, by decide, by decide⟩,
   ⟨(planUnit (fun p => { p with quiet := 99, launches := 1 })).setF Fld.CLP_FAULT_CTRL_STALL_LIMIT 8, { plan5 with quiet := 99, launches := 1 }, by decide⟩,
   ⟨planUnit (fun p => { p with stragRun := 9999 }), { plan5 with stragRun := 9999 }, by decide⟩⟩

set_option maxRecDepth 20000 in
/-- The hypotheses of CollectivePacketsRun are met. -/
theorem test_hyp_CollectivePacketsRun :
    (∃ (s v : State) (port : Nat) (p : Packet) (q : Plan), (s.Addresses port p.hdr v q) ∧ (v.inWindow p.hdr = true ∧ (piecePrefix p.payload).clean = true) ∧ (isBlockFmt (planDesc q.desc).format = false ∨ (planDesc q.desc).disc ≠ 0 ∨ padClean (planDesc q.desc).format (prefixData p.payload) = true) ∧ (q.late (piecePrefix p.payload).launch (piecePrefix p.payload).piece = false) ∧ ((q.place (piecePrefix p.payload).launch (piecePrefix p.payload).piece).any (fun y => y.map.contains (65536 * (if addrKind p.hdr.src = 1 then 1 else 0) + v.contribKey q p.hdr (piecePrefix p.payload))) = false))
    ∧ (∃ (s v : State) (port : Nat) (p : Packet) (q : Plan), (s.Addresses port p.hdr v q) ∧ (v.inWindow p.hdr = true ∧ (piecePrefix p.payload).clean = true) ∧ (isBlockFmt (planDesc q.desc).format = false ∨ (planDesc q.desc).disc ≠ 0 ∨ padClean (planDesc q.desc).format (prefixData p.payload) = true) ∧ (q.late (piecePrefix p.payload).launch (piecePrefix p.payload).piece = false) ∧ ((q.place (piecePrefix p.payload).launch (piecePrefix p.payload).piece).any (fun y => y.map.contains (65536 * (if addrKind p.hdr.src = 1 then 1 else 0) + v.contribKey q p.hdr (piecePrefix p.payload))) = true))
    ∧ (∃ (s v : State) (port : Nat) (p : Packet) (q : Plan), (s.Addresses port p.hdr v q) ∧ (v.inWindow p.hdr = true ∧ (piecePrefix p.payload).clean = true))
    ∧ (∃ (s v : State) (port : Nat) (p : Packet) (q : Plan) (z u : State) (plane : Nat), (s.Addresses port p.hdr v q) ∧ (v.inWindow p.hdr = true ∧ (piecePrefix p.payload).clean = true) ∧ (z = ((v.takeWseq port p.hdr).returnCredits port p.hdr).onPlan q.ctx (fun q => q.seeLaunch (piecePrefix p.payload).launch)) ∧ (plane = q.remap.getD (planeOf q.planes (piecePrefix p.payload).piece) 0) ∧ (u = z.sendDown q plane (z.switchAddr plane) 3 0x22 q.ctx p.payload noLaunch 0))
    ∧ (∃ (s v : State) (port : Nat) (p : Packet) (q : Plan) (z : State), (s.Addresses port p.hdr v q) ∧ (v.inWindow p.hdr = true ∧ p.hdr.svc ≠ 3 ∧ q.arrivals.contains (if addrKind p.hdr.src = 1 then 1 else 0) = false) ∧ (z = (v.takeWseq port p.hdr).returnCredits port p.hdr))
    ∧ (∃ (s v : State) (port : Nat) (p : Packet) (q : Plan), (s.Addresses port p.hdr v q) ∧ (v.inWindow p.hdr = true ∧ p.hdr.svc = 3))
    ∧ (∃ (s : State) (dest : Addr) (svc wseq : Nat) (f : Flow) (x : SentPkt) (z : State), ((s.link.flows.find? (fun f => f.isOurs s.selfLit dest svc)).bind (fun f => (f.sent.find? fun x => x.wseq == wseq).map fun x => (f, x)) = some (f, x)) ∧ (x.sends < s.getF Fld.CLP_FAULT_CTRL_RETX_MAX ∧ x.stamp + 256000 * s.getF Fld.CLP_FAULT_CTRL_RETX_US ≤ s.now) ∧ (z = s.onFlow (fun f => f.isOurs s.selfLit dest svc) (fun f => { f with sent := f.sent.map fun y => if y.wseq = wseq then { y with sends := y.sends + 1, stamp := s.now } else y })))
    ∧ (∃ (s : State) (dest : Addr) (svc wseq : Nat) (f : Flow) (x : SentPkt) (q : Plan) (z : State), ((s.link.flows.find? (fun f => f.isOurs s.selfLit dest svc)).bind (fun f => (f.sent.find? fun x => x.wseq == wseq).map fun x => (f, x)) = some (f, x)) ∧ (x.sends = s.getF Fld.CLP_FAULT_CTRL_RETX_MAX ∧ x.stamp + 256000 * s.getF Fld.CLP_FAULT_CTRL_RETX_US ≤ s.now) ∧ (z = s.onFlow (fun f => f.isOurs s.selfLit dest svc) (fun f => { f with sent := f.sent.map fun y => if y.wseq = wseq then { y with sends := y.sends + 1, stamp := s.now } else y })) ∧ (z.plan x.ctx = some q))
    ∧ (∃ (s v : State) (port : Nat) (p : Packet) (ev : AgentEvent) (q : Plan), (s.TakesEvent 5 port p v ev) ∧ (v.eventPlan ev.agent ev.arg.toNat = some q))
    ∧ (∃ (s v : State) (port : Nat) (p : Packet) (ev : AgentEvent) (q : Plan), (s.TakesEvent 6 port p v ev) ∧ (v.eventPlan ev.agent ev.arg.toNat = some q))
    ∧ (∃ (s v : State) (port : Nat) (p : Packet) (ev : AgentEvent) (q : Plan), (s.TakesEvent 8 port p v ev) ∧ (v.eventPlan ev.agent ev.arg.toNat = some q)) :=
  ⟨⟨planUnit id, _, 0, collIn 0x4000 2 0x20, plan5, ⟨rfl, by decide, by decide⟩, by decide, by decide, by decide, by decide⟩,
   ⟨planUnit (fun p => { p with places := [place5] }), _, 0, collIn 0x4000 2 0x20, { plan5 with places := [place5] }, ⟨rfl, by decide, by decide⟩, by decide, by decide, by decide, by decide⟩,
   ⟨planUnit id, _, 0, collIn 0x4000 2 0x21, plan5, ⟨rfl, by decide, by decide⟩, by decide⟩,
   ⟨planUnit id, _, 0, collIn 0x4000 3 0x22, plan5, _, _, _, ⟨rfl, by decide, by decide⟩, by decide, rfl, rfl, rfl⟩,
   ⟨planUnit id, _, 0, collIn 0x4000 2 0x24, plan5, _, ⟨rfl, by decide, by decide⟩, by decide, rfl⟩,
   ⟨planUnit id, _, 0, collIn 0x4000 3 0x24, plan5, ⟨rfl, by decide, by decide⟩, by decide⟩,
   ⟨flowUnit, 0x4000, 2, 1, flow5, sent5, _, by decide, by decide, rfl⟩,
   ⟨flowUnit.setF Fld.CLP_FAULT_CTRL_RETX_MAX 1, 0x4000, 2, 1, flow5, sent5, plan5, _, by decide, by decide, rfl, by decide⟩,
   ⟨planUnit id, _, 3, eventAt 0x4000 5, _, plan5, ⟨by decide, by decide, by decide, rfl, _, rfl, rfl⟩, by decide⟩,
   ⟨planUnit id, _, 3, eventAt 0x4000 6, _, plan5, ⟨by decide, by decide, by decide, rfl, _, rfl, rfl⟩, by decide⟩,
   ⟨planUnit id, _, 3, eventAt 0x4000 8, _, plan5, ⟨by decide, by decide, by decide, rfl, _, rfl, rfl⟩, by decide⟩⟩

set_option maxRecDepth 20000 in
/-- The hypotheses of LampLanternAndTimeRun are met. -/
theorem test_hyp_LampLanternAndTimeRun :
    (∃ (s : State) (lamp unit : Nat) (second : Bool) (u : LampUnit) (p : Plan) (x : Place) (n : Nat) (y z : State), (s.lmp.units[unit]?.bind (fun u => (s.plan u.ctx).bind fun p => (p.place u.launch u.piece).map fun x => (u, p, x)) = some (u, p, x)) ∧ (s.lampServes lamp = true ∧ s.lampPoolOf p.slice = some n ∧ s.lampPool lamp = some n ∧ s.lampSlotServes p.slice = true) ∧ (s.spillFits (if x.spill then 2 * s.unitReads x u.idx else 0) = true) ∧ (y = s.progress 0x07) ∧ (z = { y with lmp := { y.lmp with unitCount := y.lmp.unitCount + (if y.getF Fld.PWR_STATE_LEVEL = 2 then 2 else 1), spillUnits := y.lmp.spillUnits + (if x.spill then 2 * s.unitReads x u.idx else 0) } }) ∧ (z.lineFails x u.idx = false ∧ z.flag Fld.LMP_INJECT_ARM = false))
    ∧ (∃ (s : State) (x : SpillIn) (z : State), (s.lmp.spillQueue.find? (fun x => s.spillServes x.slice) = some x) ∧ (s.spillFits (x.units - 1) = true) ∧ (z = { s with lmp := { s.lmp with spillQueue := s.lmp.spillQueue.erase x, spillUnits := s.lmp.spillUnits + (x.units - 1) } }))
    ∧ (∃ (s : State) (port : Nat) (p : Packet) (fault : Option (Word × Bool)) (v : State), (v = s.received port p.hdr ∧ v.refused port p.hdr = none) ∧ ((lntPrefix p.payload).clean = true ∧ p.hdr.opkind = 0x30 ∧ p.hdr.optag.toNat < 256) ∧ ((lntPrefix p.payload).kind = 0))
    ∧ (∃ (s : State) (port : Nat) (p : Packet) (fault : Option (Word × Bool)) (v : State), (v = s.received port p.hdr ∧ v.refused port p.hdr = none) ∧ ((lntPrefix p.payload).clean = true ∧ p.hdr.opkind = 0x30 ∧ p.hdr.optag.toNat < 256) ∧ ((lntPrefix p.payload).kind = 1))
    ∧ (∃ (s : State) (port : Nat) (p : Packet) (v : State), (v = s.received port p.hdr ∧ v.refused port p.hdr = none) ∧ ((lntPrefix p.payload).clean = true ∧ p.hdr.opkind = 0x30 ∧ p.hdr.optag.toNat < 256) ∧ ((lntPrefix p.payload).kind = 2))
    ∧ (∃ (s : State) (n : Nat) (c : LntCtx) (b : LntBuf) (z : State), (s.lnt.ctxs.find? (fun c => c.ctx == n && c.live) = some c) ∧ (c.bufs.filter (fun b => b.own.isSome && b.result.isNone && c.racks.length > 1 && b.needAt + s.getF Fld.LNT_CTRL_NEED_NS * 256 ≤ s.now) = [b]) ∧ (z = s.onLnt c.num c.ctx (fun x => x.onBuf b.launch fun y => { y with needAt := s.now })))
    ∧ (∃ (s : State) (port : Nat) (p : Packet) (v : State), (s.takeTime port p = (true, v)) ∧ (bitsOf (wordAt p.payload 0) 0 2 = 0))
    ∧ (∃ (s : State) (port : Nat) (p : Packet) (v z : State) (r : Nat × Nat), (s.takeTime port p = (true, v)) ∧ (v.tim.requests.find? (fun r => r.1 == p.hdr.optag.toNat % 4096 && v.tim.flash ≤ r.2 + 1) = some r) ∧ (bitsOf (wordAt p.payload 0) 0 2 = 1) ∧ (z = { v with tim := { v.tim with requests := v.tim.requests.filter fun r => r.1 != p.hdr.optag.toNat % 4096 } }))
    ∧ (∃ (s : State) (port : Nat) (p : Packet), ((s.received port p.hdr).refused port p.hdr = none) ∧ (timeClean p.hdr.len.toNat p.payload = true))
    ∧ (∃ (s : State) (port n : Nat) (z : State) (p : Port) (x : Found), (z = s.fillBuckets port ∧ p = z.port port) ∧ (s.flag Fld.TIM_CTRL_FILL_EN = true ∧ port < 20 ∧ p.st = .lit ∧ s.flashUnits ≤ s.tim.offset + 2048000) ∧ (p.found = some x))
    ∧ (∃ (s : State) (port n : Nat) (z : State) (p : Port) (a : Addr), (z = s.fillBuckets port ∧ p = z.port port) ∧ (s.flag Fld.TIM_CTRL_FILL_EN = true ∧ port < 20 ∧ p.st = .lit ∧ s.flashUnits ≤ s.tim.offset + 2048000) ∧ (p.found = none) ∧ (a = s.self))
    ∧ (∃ (s : State) (x : Int × Int), (s.timeState = 1 ∧ 8 ≤ s.tim.acq.length ∧ s.tim.step = none) ∧ (s.tim.acq.foldl (fun (acc : Option (Int × Int)) x => match acc with
  | none => some x
  | some y => if x.1 < y.1 then some x else some y) none = some x) ∧ (s.getPair Reg.TIM_FLOOR_LO ≤ (s.timeAt ((2 * (s.now : Int) + x.2) / 2).toNat).1))
    ∧ (∃ (s : State), (s.timeState = 1 ∧ 16 ≤ s.tim.acqQuiet ∧ s.tim.step = none))
    ∧ (∃ (s : State), (s.lit = true ∧ s.getF Fld.TIM_STATE_ROOT_RACK = s.myRack ∧ s.isHead = true ∧ s.timeState = 0) ∧ (s.flag Fld.TIM_CTRL_COLD_EN = true ∧ s.getF Fld.TIM_HOLD_ACQ_FLASHES ≤ s.tim.noSource))
    ∧ (∃ (s : State), (s.timeState = 4 ∧ s.getF Fld.TIM_HOLD_HOLDOVER_FLASHES ≤ s.tim.holdRun ∧ s.flag Fld.TIM_STATE_DEGRADED = false))
    ∧ (∃ (s : State) (a : Addr), (s.lit = true ∧ (s.timAgent a).st = 1 ∧ 16 ≤ (s.timAgent a).silent)) :=
  ⟨⟨lampUnit, 0, 0, false, lampJob, lampPlan, place5, 0, _, _, by decide, by decide, by decide, rfl, rfl, by decide⟩,
   ⟨{ lampUnit with lmp := { lampUnit.lmp with spillQueue := [spill5] } }, spill5, _, by decide, by decide, rfl⟩,
   ⟨lntUnit, 0, lntIn 0, none, _, ⟨rfl, by decide⟩, by decide, by decide⟩,
   ⟨lntUnit, 0, lntIn 0x10000, none, _, ⟨rfl, by decide⟩, by decide, by decide⟩,
   ⟨lntUnit, 0, lntIn 0x20000, _, ⟨rfl, by decide⟩, by decide, by decide⟩,
   ⟨lntUnit, 3, lctx5, buf5, _, by decide, by decide, rfl⟩,
   ⟨litUnit, 16, timeIn 0, _, rfl, by decide⟩,
   ⟨{ litUnit with tim := { litUnit.tim with requests := [(0, 0)] } }, 16, timeIn 1, _, _, (0, 0), rfl, by decide, by decide, rfl⟩,
   ⟨litUnit, 16, timeIn 2, by decide, by decide⟩,
   ⟨{ fillUnit with link := { fillUnit.link with ports := fillUnit.link.ports.map fun p => { p with found := some found5 } } }, 3, 0, _, _, found5, ⟨rfl, rfl⟩, by decide, by decide⟩,
   ⟨fillUnit, 3, 0, _, _, _, ⟨rfl, rfl⟩, by decide, by decide, rfl⟩,
   ⟨acqUnit, (3, 0), by decide, by decide, by decide⟩,
   ⟨{ acqUnit with tim := { acqUnit.tim with acqQuiet := 16 } }, by decide⟩,
   ⟨{ (litUnit.setF Fld.TIM_CTRL_COLD_EN 1).setF Fld.TIM_STATE_ROOT_RACK 0 with tim := { litUnit.tim with noSource := 99999 } }, by decide, by decide⟩,
   ⟨{ litUnit.setF Fld.TIM_STATE_STATE 4 with tim := { litUnit.tim with holdRun := 99999 } }, by decide⟩,
   ⟨{ litUnit with tim := { litUnit.tim with agents := [{ addr := 0x4000, st := 1, silent := 16 }] } }, 0x4000, by decide⟩⟩

set_option maxRecDepth 20000 in
/-- The hypotheses of MooringCommandsRun are met. -/
theorem test_hyp_MooringCommandsRun :
    (∃ (s : State) (z : State), (z = ((s.setF Fld.MOR_STATE_GRANT 1).setF Fld.MOR_PINS_GRANT 1).onMor (fun m => { m with grant := true, otherLit := if m.lit then m.otherLit else !true })) ∧ (z.lit = false ∧ z.chart.lit.isSome = true))
    ∧ (∃ (s : State) (z : State), (z = ((s.setF Fld.MOR_STATE_GRANT 1).setF Fld.MOR_PINS_GRANT 1).onMor (fun m => { m with grant := true, otherLit := if m.lit then m.otherLit else !true })) ∧ (z.lit = false ∧ z.chart.lit = none))
    ∧ (∃ (s : State) (z : State), (z = ((s.setF Fld.MOR_STATE_GRANT 1).setF Fld.MOR_PINS_GRANT 1).onMor (fun m => { m with grant := true, otherLit := if m.lit then m.otherLit else !false })))
    ∧ (∃ (s : State) (c : Chart), (s.chart.lit = some c))
    ∧ (∃ (s : State) (p : Packet) (v : State) (bytes : List Byte), (s.takeMoor p (deltaClean p.payload) = (true, v)) ∧ (v.hasState = false) ∧ (bytes = (bytesOfWords (p.payload.drop 16)).take (bitsOf (wordAt p.payload 3) 0 13)) ∧ (v.mor.staging.find? (fun x => x.flash == pairAt p.payload 0) = none))
    ∧ (∃ (s : State) (p : Packet) (v : State) (bytes : List Byte) (x : Staging), (s.takeMoor p (deltaClean p.payload) = (true, v)) ∧ (v.hasState = false) ∧ (bytes = (bytesOfWords (p.payload.drop 16)).take (bitsOf (wordAt p.payload 3) 0 13)) ∧ (v.mor.staging.find? (fun x => x.flash == pairAt p.payload 0) = some x))
    ∧ (∃ (s : State) (p : Packet) (image : Nat) (v u z : State) (x : Staging) (bytes : List Byte), (s.takeMoor p (commitClean p.payload) = (true, v)) ∧ (v.hasState = false) ∧ (v.mor.staging.find? (fun x => x.flash == pairAt p.payload 1) = some x) ∧ (bytes = (v.staged (pairAt p.payload 1)).flatMap (·.2.1)) ∧ (((v.staged (pairAt p.payload 1)).length == x.packets.length && x.packets.length == (wordAt p.payload 4).toNat && bytes.length == (wordAt p.payload 3).toNat && wordsOfBytes (Config.shake 16 bytes) == (p.payload.drop 5).take 4) = true) ∧ (u = ((v.setF Fld.MOR_HEALTH_MOORING_DOWN 0).onMor (fun m => { m with heard := true, staging := m.staging.filter fun x => x.flash != pairAt p.payload 1 })).onMor (fun m => { m with committed := m.committed ++ [{ flash := pairAt p.payload 1, items := (v.staged (pairAt p.payload 1)).flatMap (·.2.2), check := digestOfWords ((p.payload.drop 16).take 16) }], imageFlash := max m.imageFlash (pairAt p.payload 1), waitFinal := m.waitFinal && !bitAt (wordAt p.payload 0) 2 })) ∧ (z = (if image = 2 ∧ (u.setPair Reg.MOR_COMMIT_FLASH_LO u.mor.imageFlash).getF Fld.MOR_STATE_IMAGE = 1 then ((u.setPair Reg.MOR_COMMIT_FLASH_LO u.mor.imageFlash).setF Fld.MOR_STATE_IMAGE 2).setF Fld.MOR_HEALTH_RESYNCING 0 else u.setPair Reg.MOR_COMMIT_FLASH_LO u.mor.imageFlash)))
    ∧ (∃ (s : State) (c : Committed) (rest : List Committed) (z : State), (s.mor.committed = c :: rest) ∧ (z = (s.onMor fun m => { m with committed := rest }).holdItems c.items) ∧ (z.lit = true ∨ z.getF Fld.MOR_STATE_IMAGE ≠ 2))
    ∧ (∃ (s : State) (p : Packet) (v : State), (s.takeMoor p (commitClean p.payload) = (true, v)) ∧ (v.lit = true))
    ∧ (∃ (s : State) (p : Packet) (v y z : State), (s.takeMoor p (commitClean p.payload) = (true, v)) ∧ (v.lit = true) ∧ (y = (v.mooringHeard.onMor fun m => { m with uncommitted := m.uncommitted.filter (· != pairAt p.payload 1) })) ∧ (z = (y.setPair Reg.MOR_COMMIT_FLASH_LO (max (y.getPair Reg.MOR_COMMIT_FLASH_LO) (pairAt p.payload 1))).setF Fld.MOR_LAG_UNCOMMITTED (min 4 (y.setPair Reg.MOR_COMMIT_FLASH_LO (max (y.getPair Reg.MOR_COMMIT_FLASH_LO) (pairAt p.payload 1))).mor.uncommitted.length)) ∧ (z.mor.lastPage = none))
    ∧ (∃ (s : State) (p : Packet) (image : Nat) (v z : State), (s.takeMoor p (bitsOf (wordAt p.payload 0) 2 30 == 0 && bitsOf (wordAt p.payload 2) 16 16 == 0 && bitsOf (wordAt p.payload 10) 8 24 == 0 && ((p.payload.drop 11).take 5).all (· == 0)) = (true, v)) ∧ (v.lit = true) ∧ (z = v.mooringHeard.onMor (fun m => { m with partnerDigests := ((List.range 4).filter fun n => bitsOf (wordAt p.payload 10) (2 * n) 2 == 2).map fun n => digestOfWords ((p.payload.drop (32 + 16 * n)).take 16) })) ∧ (z.flag Fld.MOR_CTRL_MIRROR_EN = false ∨ (z.port 20).st ≠ .lit))
    ∧ (∃ (s : State) (p : Packet) (v z : State), (s.takeMoor p (bitsOf (wordAt p.payload 0) 2 30 == 0 && bitsOf (wordAt p.payload 2) 16 16 == 0 && bitsOf (wordAt p.payload 10) 8 24 == 0 && ((p.payload.drop 11).take 5).all (· == 0)) = (true, v)) ∧ (v.lit = true) ∧ (z = v.mooringHeard.onMor (fun m => { m with partnerDigests := ((List.range 4).filter fun n => bitsOf (wordAt p.payload 10) (2 * n) 2 == 2).map fun n => digestOfWords ((p.payload.drop (32 + 16 * n)).take 16) })) ∧ (z.flag Fld.MOR_CTRL_MIRROR_EN = true ∧ (z.port 20).st = .lit))
    ∧ (∃ (s : State), (s.lit = true) ∧ (s.mor.uncommitted.any (fun f => f + 3 ≤ s.tim.flash) = true))
    ∧ (∃ (s : State), (s.getF Fld.MOR_PARAMS_COMMIT_LOSS ≤ s.mor.quiet))
    ∧ (∃ (s : State) (port : Nat) (p : Packet) (v : State), (s.takeSel port p = (true, v)) ∧ (v.lit = false) ∧ (bitsOf (wordAt p.payload 0) 0 4 < 5))
    ∧ (∃ (s : State) (port : Nat) (p : Packet) (v : State), (s.takeSel port p = (true, v)) ∧ (v.lit = true) ∧ (bitsOf (wordAt p.payload 0) 0 4 = 6))
    ∧ (∃ (s : State) (tag n : Nat) (x : SelPkt), (s.mor.selOut.find? (fun x => x.tag == tag) = some x) ∧ (s.selLinks.find? (fun n => x.plane < n) = some n ∨ (s.selLinks.find? (fun n => x.plane < n) = none ∧ s.selLinks.head? = some n))) :=
  ⟨⟨litState, _, rfl, by decide⟩,
   ⟨State.reset, _, rfl, by decide⟩,
   ⟨State.reset, _, rfl⟩,
   ⟨litState, tinyChart, rfl⟩,
   ⟨State.reset, moorIn 0x51 (List.replicate 16 0), _, _, rfl, by decide, rfl, by decide⟩,
   ⟨{ State.reset with mor := { State.reset.mor with staging := [{ flash := 0, packets := [] }] } }, moorIn 0x51 (List.replicate 16 0), _, _, { flash := 0, packets := [] }, rfl, by decide, rfl, by decide⟩,
   ⟨{ State.reset with mor := { State.reset.mor with staging := [{ flash := 0, packets := [] }] } }, commitIn, 2, _, _, _, { flash := 0, packets := [] }, _, rfl, by decide, by decide, rfl, (by have e : (commitIn.payload.drop 5).take 4 = wordsOfBytes (Config.shake 16 []) := rfl; rw [e]; exact beq_self_eq_true (wordsOfBytes (Config.shake 16 []))), rfl, rfl⟩,
   ⟨{ State.reset with mor := { State.reset.mor with committed := [{ flash := 1, items := [], check := 0 }] } }, { flash := 1, items := [], check := 0 }, [], _, rfl, rfl, by decide⟩,
   ⟨litUnit, moorIn 0x52 (List.replicate 16 0), _, rfl, by decide⟩,
   ⟨litUnit, moorIn 0x52 (List.replicate 16 0), _, _, _, rfl, by decide, rfl, rfl, by decide⟩,
   ⟨litUnit, moorIn 0x52 (List.replicate 16 0), 2, _, _, rfl, by decide, rfl, by decide⟩,
   ⟨moorUnit, moorIn 0x52 (List.replicate 16 0), _, _, rfl, by decide, rfl, by decide⟩,
   ⟨{ lateUnit with mor := { lateUnit.mor with uncommitted := [1] } }, by decide, by decide⟩,
   ⟨{ litUnit with mor := { litUnit.mor with quiet := 999 } }, by decide⟩,
   ⟨State.reset, 3, moorIn 0x50 (1 :: List.replicate 15 0), _, rfl, by decide, by decide⟩,
   ⟨litUnit, 3, moorIn 0x50 (6 :: List.replicate 15 0), _, rfl, by decide, by decide⟩,
   ⟨mirrUnit, 1, 3, selPkt5, by decide, by decide⟩⟩

set_option maxRecDepth 20000 in
/-- The hypotheses of ManagementTelemetryAndLogRun are met. -/
theorem test_hyp_ManagementTelemetryAndLogRun :
    (∃ (s : State) (port : Nat) (p : Packet) (v : State) (op : MgmtOp), (v = s.received port p.hdr ∧ v.refused port p.hdr = none) ∧ (replyClean p.payload = true ∧ p.hdr.gen.toNat = v.getF Fld.RST_STATE_MGEN) ∧ ((v.returnCredits port p.hdr).mgmt.ops.find? (fun o => o.tag == p.hdr.optag.toNat && o.agent == p.hdr.src && bitsOf (wordAt p.payload 1) 16 2 == 0) = some op))
    ∧ (∃ (s : State) (tag : BitVec 12) (op again : MgmtOp) (z : State), (s.mgmt.ops.find? (fun o => o.tag == tag.toNat) = some op) ∧ (op.wait ≤ s.since op.sent ∧ op.sends < s.getF Fld.RST_MGMT_MGMT_SENDS ∧ s.lit = true) ∧ (again = { op with sends := op.sends + 1, sent := s.stamp, wait := s.resendTime op.agent false }) ∧ (z = { s with mgmt := { s.mgmt with ops := s.mgmt.ops.map fun (o : MgmtOp) => if o.tag = op.tag then again else o } }))
    ∧ (∃ (s : State) (tag : BitVec 12) (op : MgmtOp) (z : State), (s.mgmt.ops.find? (fun o => o.tag == tag.toNat) = some op) ∧ (op.wait ≤ s.since op.sent ∧ s.getF Fld.RST_MGMT_MGMT_SENDS ≤ op.sends) ∧ (z = { s.dropOp op.tag with mgmt := { (s.dropOp op.tag).mgmt with cool := (op.tag, (s.dropOp op.tag).tim.flash + 4) :: (s.dropOp op.tag).mgmt.cool } }))
    ∧ (∃ (s : State) (port : Nat) (p : Packet) (v : State), (v = s.received port p.hdr ∧ v.refused port p.hdr = none) ∧ (eventClean p.payload = true ∧ bitsOf (wordAt p.payload 0) 0 8 = 1))
    ∧ (∃ (s : State) (due : List Nat), (due = (List.range 9).filter (fun g => decide (s.getF Fld.TEL_SAT_CTRL_WARN_RUN ≤ s.tel.runs.getD g 0) && !bitAt (s.getReg Reg.TEL_SAT_STATUS) g)) ∧ (due ≠ []))
    ∧ (∃ (s : State) (core : BitVec 8) (code : BitVec 10) (slice : Byte) (body : List Word), (0x080 ≤ code.toNat ∧ code.toNat ≤ 0x0FF) ∧ (s.flag Fld.LOG_CTRL_PILOT_EN = true))
    ∧ (∃ (s : State) (core : BitVec 8) (code : BitVec 10) (slice : Byte) (body : List Word), (0x080 ≤ code.toNat ∧ code.toNat ≤ 0x0FF) ∧ (s.flag Fld.LOG_CTRL_PILOT_EN = false))
    ∧ (∃ (s : State) (off : Nat), (s.hostReaches = true) ∧ (off % 4 = 0 ∧ readAligned off 4 = true))
    ∧ (∃ (s : State) (off n : Nat) (f : Bool), (s.hostReaches = true) ∧ (readAligned off n = false))
    ∧ (∃ (s : State) (off : Nat), (s.hostReaches = true) ∧ (readAligned off 4 = true))
    ∧ (∃ (s : State) (off : Nat) (x : BitVec 64), (s.hostReaches = true)) :=
  ⟨⟨mgmtUnit, 3, replyIn, _, op5, ⟨rfl, by decide⟩, by decide, by decide⟩,
   ⟨mgmtUnit, 1, op5, _, _, by decide, by decide, rfl, rfl⟩,
   ⟨{ mgmtUnit with mgmt := { mgmtUnit.mgmt with ops := [{ op5 with sends := 99 }] } }, 1, { op5 with sends := 99 }, _, by decide, by decide, rfl⟩,
   ⟨litUnit, 3, eventIn 1 [0], _, ⟨rfl, by decide⟩, by decide⟩,
   ⟨{ litUnit with tel := { litUnit.tel with runs := List.replicate 9 999 } }, _, rfl, by decide⟩,
   ⟨litUnit.setF Fld.LOG_CTRL_PILOT_EN 1, 0, 0x80, 0, [], by decide, by decide⟩,
   ⟨litUnit.setF Fld.LOG_CTRL_PILOT_EN 0, 0, 0x80, 0, [], by decide, by decide⟩,
   ⟨litUnit, 8, by decide, by decide⟩,
   ⟨litUnit, 3, 4, false, by decide, by decide⟩,
   ⟨litUnit, 8, by decide, by decide⟩,
   ⟨litUnit, 8, 0, by decide⟩⟩

set_option maxRecDepth 20000 in
/-- The hypotheses of EngineAndPartResetsRun are met. -/
theorem test_hyp_EngineAndPartResetsRun :
    (∃ (s : State) (e : Nat) (slice : Byte) (item : Word), (s.flag Fld.RST_CTRL_HANG_EN = true ∧ engineIds.contains e = true ∧ e ≠ 0x0E ∧ s.hungAt e = true ∧ (s.engine e).inReset = 0) ∧ (s.rst.part.any (·.started) = false) ∧ (e < 0x10 ∨ 0x21 < e))
    ∧ (∃ (s : State) (e : Nat) (x : Engine) (y z : State), (x = s.engine e ∧ 2 ≤ x.inReset) ∧ (y = s.onEngine e (fun w => { w with inReset := 0, hung := false, still := 0, last := w.progress, wins := [] })) ∧ (engineStage e = none ∧ z = (((y.showHung e false).restartEngine e).showLevel)))
    ∧ (∃ (s : State) (e : Nat) (g : StageId) (x : Engine) (y z : State), (x = s.engine e ∧ 2 ≤ x.inReset) ∧ (y = (s.onEngine e fun w => { w with inReset := 0, hung := false, still := 0, last := w.progress, wins := [] }).onStage g (fun w => { w with run := 0 })) ∧ (engineStage e = some g ∧ z = (((y.showHung e false).restartEngine e).showLevel)))
    ∧ (∃ (s : State) (n : Nat) (p : Plan), (s.plan n = some p) ∧ (s.lmp.units.any (fun u => u.ctx == n) = true))
    ∧ (∃ (s : State) (n : Nat) (c : LntCtx), (s.lnt.ctxs.find? (fun c => c.num == n) = some c))
    ∧ (∃ (s : State) (kind n : Nat) (c : CtxReset), (s.rst.ctxs.find? (fun c => c.kind == kind && c.ctx == n) = some c))
    ∧ (∃ (s : State) (slot : Nat) (ws : List Word) (d : Dma) (t : State), (s.takeDma slot = (some d, t)) ∧ ((d.len + 3) / 4 ≤ d.got.length + ws.length))
    ∧ (∃ (s : State) (slot : Nat) (ws : List Word) (d : Dma) (t : State), (s.takeDma slot = (some d, t)) ∧ (d.got.length + ws.length < (d.len + 3) / 4))
    ∧ (∃ (s : State) (slot n : Nat) (ws : List Word) (d : Dma) (t : State), (s.takeDma slot = (some d, t)) ∧ (n ≠ 0))
    ∧ (∃ (s : State) (slot : Nat) (d : Dma) (t : State), (s.takeDma slot = (some d, t)))
    ∧ (∃ (s : State) (p : PartReset), (s.rst.part = some p ∧ p.deferred = true ∧ s.partnerPresent = true))
    ∧ (∃ (s : State) (p : PartReset), (s.rst.part = some p ∧ p.deferred = false ∧ p.started = false) ∧ (s.lit = false ∨ p.cause = 5))
    ∧ (∃ (s : State) (p : PartReset) (y : State), (s.rst.part = some p ∧ p.started = true ∧ p.level = 4) ∧ (y = s.onRst (fun r => { r with part := none, sincePart := some 0, fitWins := p.wins, fitFlash := p.began })))
    ∧ (∃ (s : State), (s.getF Fld.MOR_STATE_FIT = 0 ∧ s.flag Fld.RST_CTRL_ESC_EN = true) ∧ (s.rst.sincePart.isSome = true))
    ∧ (∃ (s : State), (s.getF Fld.MOR_STATE_FIT = 0 ∧ s.flag Fld.RST_CTRL_ESC_EN = true) ∧ (s.rst.sinceChip.isSome = true))
    ∧ (∃ (s : State) (p : PartReset), (s.rst.part = some p ∧ p.started = true ∧ p.level = 5 ∧ p.held = false) ∧ (s.log.copying = none ∧ p.pin = false))
    ∧ (∃ (s : State) (p : PartReset), (s.rst.part = some p ∧ p.started = true ∧ p.level = 5 ∧ p.held = false) ∧ (s.log.copying = none ∧ p.pin = true))
    ∧ (∃ (s : State) (z : State), (z = (if s.lit then s.loseLit s.mor.grant else s).setUnfit 3 true) ∧ (z.rst.part = none))
    ∧ (∃ (s : State) (p : PartReset), (s.rst.part = some p)) :=
  ⟨⟨hungUnit, 6, 0, 0, by decide, by decide, by decide⟩,
   ⟨(hungUnit.onEngine 7 fun e => { e with inReset := 2 }), 7, _, _, _, ⟨rfl, by decide⟩, rfl, ⟨by decide, rfl⟩⟩,
   ⟨(hungUnit.onEngine 6 fun e => { e with inReset := 2 }), 6, .clp, _, _, _, ⟨rfl, by decide⟩, rfl, ⟨by decide, rfl⟩⟩,
   ⟨lampUnit, 3, lampPlan, by decide, by decide⟩,
   ⟨lntUnit, 0, lctx5, by decide⟩,
   ⟨{ litUnit with rst := { litUnit.rst with ctxs := [ctx5] } }, 1, 3, ctx5, by decide⟩,
   ⟨dmaUnit, 0, [1], _, _, rfl, by decide⟩,
   ⟨dmaUnit, 0, [], _, _, rfl, by decide⟩,
   ⟨dmaUnit, 0, 2, [], _, _, rfl, by decide⟩,
   ⟨dmaUnit, 0, _, _, rfl⟩,
   ⟨{ partnerUnit with rst := { partnerUnit.rst with part := some { part5 with deferred := true } } }, { part5 with deferred := true }, by decide⟩,
   ⟨{ litUnit with rst := { litUnit.rst with part := some { part5 with cause := 5 } } }, { part5 with cause := 5 }, by decide, by decide⟩,
   ⟨{ litUnit with rst := { litUnit.rst with part := some { part5 with started := true, level := 4 } } }, { part5 with started := true, level := 4 }, _, by decide, rfl⟩,
   ⟨{ (litUnit.setF Fld.RST_CTRL_ESC_EN 1).setF Fld.MOR_STATE_FIT 0 with rst := { litUnit.rst with sincePart := some 0, sinceChip := some 0 } }, by decide, by decide⟩,
   ⟨{ (litUnit.setF Fld.RST_CTRL_ESC_EN 1).setF Fld.MOR_STATE_FIT 0 with rst := { litUnit.rst with sincePart := some 0, sinceChip := some 0 } }, by decide, by decide⟩,
   ⟨{ litUnit with rst := { litUnit.rst with part := some { part5 with started := true } } }, { part5 with started := true }, by decide, by decide⟩,
   ⟨{ litUnit with rst := { litUnit.rst with part := some { part5 with started := true, pin := true } } }, { part5 with started := true, pin := true }, by decide, by decide⟩,
   ⟨litState, _, rfl, by decide⟩,
   ⟨{ litUnit with rst := { litUnit.rst with part := some part5 } }, part5, by decide⟩⟩

set_option maxRecDepth 20000 in
/-- The hypotheses of CopySelfTestAndSecurityEventsRun are met. -/
theorem test_hyp_CopySelfTestAndSecurityEventsRun :
    (∃ (s : State) (r : LogRec) (rest : List LogRec) (z : State), (s.log.staging = r :: rest) ∧ (z = s.moveOne.progress 0x0C))
    ∧ (∃ (s : State) (b : Bool) (why : CopyFor), (s.log.copying = some (b, why)))
    ∧ (∃ (s : State) (why : CopyFor), (s.log.copying = some (true, why)))
    ∧ (∃ (s : State) (why : CopyFor), (s.log.copying = some (false, why)))
    ∧ (∃ (s : State) (x : SampleJob) (rest : List SampleJob), (s.rst.samples = x :: rest))
    ∧ (∃ (s : State) (n : Nat) (z : State), (s.lit = false ∧ s.flag Fld.MOR_CTRL_SELFTEST_EN = true ∧ s.getF Fld.PWR_STATE_LEVEL = 0 ∧ n < 6) ∧ (z = (s.setF (selfTestFld n) 0).onRst (fun x => { x with short := x.short &&& (0x7F - (1 <<< n)) })))
    ∧ (∃ (s : State) (n u : Nat) (us : List Nat) (r : State × Bool) (z : State), (s.lit = false ∧ s.flag Fld.MOR_CTRL_SELFTEST_EN = true ∧ s.getF Fld.PWR_STATE_LEVEL = 0 ∧ n < 6) ∧ (r = (u :: us).foldl (fun (r : State × Bool) u => ((r.1.failUnit n u).1, r.2 || (r.1.failUnit n u).2)) (s, false)) ∧ (z = ((r.1.setF (selfTestFld n) 1).raise Fld.MOR_INT_STATUS_SELFTEST_FAIL).onRst (fun x => { x with short := if r.2 then x.short ||| (1 <<< n) else x.short })))
    ∧ (∃ (s : State) (image : List Byte) (z : State), (s.wdn.serving = true) ∧ (z = { s with work := { s.work with pilots := s.work.pilots.map fun (p : Pilot) => { p with running := false } } }))
    ∧ (∃ (s : State) (image : List Byte), (s.wdn.serving = false))
    ∧ (∃ (s : State) (core : BitVec 8), (core.toNat < s.work.pilots.length))
    ∧ (∃ (s : State) (e : Enrol) (b : List Byte), (s.wdn.enrol = some e ∧ e.bytes = some b))
    ∧ (∃ (s : State) (j : SignJob) (z : State), (s.wdn.signing = some j) ∧ (z = s.onWdn (fun w => { w with signing := none })))
    ∧ (∃ (s : State) (js : List SignJob) (z : State), (js = s.wdn.signed.filter (fun j => decide (j.done < s.tim.flash ∧ s.slv.litEpoch ≤ j.epoch))) ∧ (z = s.onWdn (fun w => { w with signed := w.signed.filter fun j => s.tim.flash ≤ j.done })) ∧ (z.lit = true))
    ∧ (∃ (s : State) (x : Seal), (s.wdn.seals.filter (fun x => x.own && !x.renewed && decide (x.issue + (x.expiry - x.issue) / 2 ≤ s.tim.flash)) = [x]) ∧ (s.lit = true))
    ∧ (∃ (s : State) (x : Seal) (z : State), (s.wdn.seals.filter (fun x => x.own && !x.low && decide (4 * (x.expiry - s.tim.flash) < x.expiry - x.issue)) = [x]) ∧ (z = (s.onSeal x.slice fun y => { y with low := true }).raise Fld.WDN_SEC_INT_STATUS_SEAL_LOW))
    ∧ (∃ (s : State) (x : Seal) (a : Addr) (y : State), (s.wdn.seals.filter (fun x => x.own && !x.missing.isEmpty && decide (s.getF Fld.WDN_SEAL_CTRL_DELIVER_MAX ≤ x.sent)) = [x] ∧ x.missing = [a]) ∧ (s.lit = true) ∧ (y = (s.logOwn 0x063 0x22 x.slice [fieldAt 0 14 (s.enAt a)]).raise Fld.WDN_SEC_INT_STATUS_SEAL_DIRECT)) :=
  ⟨⟨{ litUnit with log := { litUnit.log with staging := [rec6] } }, rec6, [], _, by decide, rfl⟩,
   ⟨{ litUnit with log := { litUnit.log with copying := some (false, .shutdown) } }, _, _, rfl⟩,
   ⟨{ litUnit with log := { litUnit.log with copying := some (true, .shutdown) } }, _, rfl⟩,
   ⟨{ litUnit with log := { litUnit.log with copying := some (false, .shutdown) } }, _, rfl⟩,
   ⟨{ litUnit with rst := { litUnit.rst with samples := [{ engine := 7, records := [] }] } }, { engine := 7, records := [] }, [], by decide⟩,
   ⟨State.reset.setF Fld.MOR_CTRL_SELFTEST_EN 1, 2, _, by decide, rfl⟩,
   ⟨State.reset.setF Fld.MOR_CTRL_SELFTEST_EN 1, 2, 0, [], _, _, by decide, rfl, rfl⟩,
   ⟨sealUnit, [], _, by decide, rfl⟩,
   ⟨litUnit, [], by decide⟩,
   ⟨litUnit, 3, by decide⟩,
   ⟨{ litUnit with wdn := { litUnit.wdn with enrol := some { slot := 0, action := 1, bytes := some [], reason := none } } }, { slot := 0, action := 1, bytes := some [], reason := none }, [], ⟨rfl, rfl⟩⟩,
   ⟨{ litUnit with wdn := { litUnit.wdn with signing := some sign5 } }, sign5, _, rfl, rfl⟩,
   ⟨litUnit, _, _, rfl, rfl, by decide⟩,
   ⟨{ lateUnit with wdn := { lateUnit.wdn with seals := [seal5] } }, seal5, by decide, by decide⟩,
   ⟨{ lateUnit with wdn := { lateUnit.wdn with seals := [seal5] } }, seal5, _, by decide, rfl⟩,
   ⟨{ lateUnit with wdn := { lateUnit.wdn with seals := [{ seal5 with sent := 999, missing := [0] }] } }, { seal5 with sent := 999, missing := [0] }, 0, _, by decide, by decide, rfl⟩⟩

set_option maxRecDepth 20000 in
/-- The hypotheses of PowerAndReferenceEvents are met. -/
theorem test_hyp_PowerAndReferenceEvents :
    (∃ (s : State) (role x y : Nat), (s.pwr.stage = .off) ∧ (role < 2 ∧ x < 8 ∧ y < 8))
    ∧ (∃ (s : State) (role x y r : Nat), (s.pwr.stage = .off))
    ∧ (∃ (s : State), (s.pwr.stage = .retry))
    ∧ (∃ (s : State) (r : Nat), (s.pwr.stage = .retry))
    ∧ (∃ (s : State), (s.pwr.stage = .on))
    ∧ (∃ (s : State) (cause : Nat), (s.pwr.stage = .on) ∧ (s.pwr.closing = false) ∧ (cause = 1 ∨ cause = 2 ∨ (cause = 3 ∧ s.pwr.dip = true)) ∧ (s.mor.lit = false))
    ∧ (∃ (s : State) (cause : Nat), (s.pwr.stage = .on) ∧ (s.pwr.closing = false) ∧ (cause = 1 ∨ cause = 2 ∨ (cause = 3 ∧ s.pwr.dip = true)) ∧ (s.mor.lit = true))
    ∧ (∃ (s : State), (s.pwr.closing = true) ∧ (s.mor.lit = true))
    ∧ (∃ (s : State), (s.pwr.closing = false))
    ∧ (∃ (s : State), (s.pwr.stage ≠ .off))
    ∧ (∃ (s : State), (s.getF Fld.PWR_STATE_LEVEL < 2) ∧ (s.flag Fld.PWR_CTRL_THROTTLE_EN = true) ∧ (10000 ≤ s.pwr.hot ∧ 10000 ≤ s.pwr.stood))
    ∧ (∃ (s : State), (0 < s.getF Fld.PWR_STATE_LEVEL ∧ s.getF Fld.PWR_STATE_LEVEL ≤ 2) ∧ (s.pwr.hot = 0) ∧ (100000 ≤ s.pwr.cool))
    ∧ (∃ (s : State), (s.getF Fld.PWR_STATE_REF = 1)) :=
  ⟨⟨{ State.reset with pwr := { State.reset.pwr with stage := .off } }, 1, 3, 7, by decide, by decide⟩,
   ⟨{ State.reset with pwr := { State.reset.pwr with stage := .off } }, 1, 3, 7, 2, by decide⟩,
   ⟨{ State.reset with pwr := { State.reset.pwr with stage := .retry } }, by decide⟩,
   ⟨{ State.reset with pwr := { State.reset.pwr with stage := .retry } }, 4, by decide⟩,
   ⟨State.reset, by decide⟩,
   ⟨State.reset, 2, by decide, by decide, by decide, by decide⟩,
   ⟨litUnit, 2, by decide, by decide, by decide, by decide⟩,
   ⟨{ litUnit with pwr := { litUnit.pwr with closing := true } }, by decide, by decide⟩,
   ⟨litUnit, by decide⟩,
   ⟨litUnit, by decide⟩,
   ⟨{ State.reset with pwr := { State.reset.pwr with hot := 10000, stood := 10000 } }.setF Fld.PWR_CTRL_THROTTLE_EN 1, by decide, by decide, by decide⟩,
   ⟨{ State.reset with pwr := { State.reset.pwr with cool := 100000 } }.setF Fld.PWR_STATE_LEVEL 2, by decide, by decide, by decide⟩,
   ⟨State.reset.setF Fld.PWR_STATE_REF 1, by decide⟩⟩

set_option maxRecDepth 20000 in
/-- The hypotheses of AgentWritesRun are met. -/
theorem test_hyp_AgentWritesRun :
    (∃ (s : State) (agent : Addr) (h : MgmtHead) (v : State) (addr : Nat) (words : List Word) (r : Nat × State × List Word), (s.AgentAsks agent h addr words.length v) ∧ (r = v.agWriteAll agent addr words) ∧ (r.1 = 0))
    ∧ (∃ (s : State) (agent : Addr) (h : MgmtHead) (v : State) (addr : Nat) (w : Word), (s.AgentAsks agent h addr 1 v) ∧ (addr % 4 = 0) ∧ (v.pokeStatus agent addr w ≠ 0))
    ∧ (∃ (s : State) (agent : Addr) (h : MgmtHead) (v : State) (value : Word), (s.AgentAsks agent h 0x4C 1 v) ∧ (v.pokeStatus agent 0x4C value = 0))
    ∧ (∃ (s : State) (agent : Addr) (h : MgmtHead) (v : State) (value : Word), (s.AgentAsks agent h 0x4C 1 v) ∧ (v.pokeStatus agent 0x4C value = 0))
    ∧ (∃ (s : State) (agent : Addr) (h : MgmtHead) (v : State) (bank : Nat), (s.AgentAsks agent h 0x4C 1 v) ∧ (v.pokeStatus agent 0x4C (4 ||| fieldAt 3 1 bank) = 0))
    ∧ (∃ (s : State) (agent : Addr) (h : MgmtHead) (v : State) (value : Word), (s.AgentAsks agent h 0x70 1 v) ∧ (v.pokeStatus agent 0x70 value = 0))
    ∧ (∃ (s : State) (agent : Addr) (h : MgmtHead) (v : State) (value : Word), (s.AgentAsks agent h 0x80 1 v) ∧ (v.pokeStatus agent 0x80 value = 0))
    ∧ (∃ (s : State) (agent : Addr) (h : MgmtHead) (v : State) (len : Nat), (s.AgentAsks agent h 0x98 1 v) ∧ (v.pokeStatus agent 0x98 (w32 len) = 0))
    ∧ (∃ (s : State) (agent : Addr) (h : MgmtHead) (v : State) (value : Word), (s.AgentAsks agent h 0xA4 1 v) ∧ (v.pokeStatus agent 0xA4 value = 0))
    ∧ (∃ (s : State) (agent : Addr) (h : MgmtHead) (v : State) (value : Word), (s.AgentAsks agent h 0xA8 1 v) ∧ (v.pokeStatus agent 0xA8 value = 0))
    ∧ (∃ (s : State) (agent : Addr) (h : MgmtHead) (v : State) (value : Word), (s.AgentAsks agent h 0xB4 1 v) ∧ (v.pokeStatus agent 0xB4 value = 0))
    ∧ (∃ (s : State) (agent : Addr) (h : MgmtHead) (v : State) (value : Word), (s.AgentAsks agent h 0x0C 1 v) ∧ (v.pokeStatus agent 0x0C value = 0))
    ∧ (∃ (s : State) (agent : Addr) (h : MgmtHead) (v : State) (index : Nat) (r : State × List Word), (s.AgentAsks agent h 0x74 1 v) ∧ (r = v.freezeWord agent (fieldAt 0 11 index ||| fieldAt 12 1 1)))
    ∧ (∃ (s : State) (agent : Addr) (h : MgmtHead) (v : State) (index : Nat) (r : State × List Word), (s.AgentAsks agent h 0x74 1 v) ∧ (r = v.freezeWord agent (fieldAt 0 11 index ||| fieldAt 13 1 1))) :=
  ⟨⟨agentServes, 3, head0, _, 0x2C, [7], _, ⟨rfl, rfl, rfl, rfl⟩, rfl, by decide⟩,
   ⟨agentServes, 3, head0, _, 0x40, 7, ⟨rfl, rfl, rfl, rfl⟩, by decide, by decide⟩,
   ⟨agentServes, 3, head0, _, 1, ⟨rfl, rfl, rfl, rfl⟩, by decide⟩,
   ⟨agentServes, 3, head0, _, 2, ⟨rfl, rfl, rfl, rfl⟩, by decide⟩,
   ⟨litUnit, 3, head0, _, 1, ⟨rfl, rfl, rfl, rfl⟩, by decide⟩,
   ⟨agentServes, 3, head0, _, 9, ⟨rfl, rfl, rfl, rfl⟩, by decide⟩,
   ⟨agentServes, 3, head0, _, 0x80000001, ⟨rfl, rfl, rfl, rfl⟩, by decide⟩,
   ⟨agentServes, 3, head0, _, 320, ⟨rfl, rfl, rfl, rfl⟩, by decide⟩,
   ⟨agentServes, 3, head0, _, 5, ⟨rfl, rfl, rfl, rfl⟩, by decide⟩,
   ⟨agentServes, 3, head0, _, 5, ⟨rfl, rfl, rfl, rfl⟩, by decide⟩,
   ⟨agentServes, 3, head0, _, 5, ⟨rfl, rfl, rfl, rfl⟩, by decide⟩,
   ⟨litUnit, 3, head0, _, 1, ⟨rfl, rfl, rfl, rfl⟩, by decide⟩,
   ⟨agentServes, 3, head0, _, 0, _, ⟨rfl, rfl, rfl, rfl⟩, rfl⟩,
   ⟨agentServes, 3, head0, _, 0, _, ⟨rfl, rfl, rfl, rfl⟩, rfl⟩⟩

set_option maxRecDepth 20000 in
/-- The hypotheses of AgentEventsRun are met. -/
theorem test_hyp_AgentEventsRun :
    (∃ (s v : State) (agent : Addr) (h : MgmtHead) (addr count : Nat), (v = s.agCredits agent h.port 0 (mgmtUnits 0)) ∧ (h.reserved = false))
    ∧ (∃ (s v : State) (agent : Addr) (h : MgmtHead) (addr : Nat) (words : List Word) (r : Nat × State × List Word), (v = s.agCredits agent h.port 0 (mgmtUnits words.length)) ∧ (h.reserved = false) ∧ (r = v.agWriteAll agent addr words))
    ∧ (∃ (s : State) (agent : Addr) (g : Agent), (g = s.agent agent) ∧ (isSwitch agent = false ∧ g.armed = true ∧ g.armF ≤ g.flash + 1 ∧ g.drainSet.testBit g.slice = true))
    ∧ (∃ (s : State) (agent : Addr) (g : Agent), (g = s.agent agent) ∧ (g.armed = true ∧ g.armF ≤ g.flash ∧ g.hold = false) ∧ (g.go = true))
    ∧ (∃ (s : State) (agent : Addr) (g : Agent), (g = s.agent agent) ∧ (g.armed = true ∧ g.armF ≤ g.flash ∧ g.hold = false) ∧ (g.go = false))
    ∧ (∃ (s : State) (agent : Addr), ((s.agent agent).guard.isSome = true))
    ∧ (∃ (s : State) (agent : Addr) (g : Agent), (g = s.agent agent) ∧ (g.checking = true))
    ∧ (∃ (s : State) (agent : Addr) (envelopes : List (List Byte)) (z : State) (len : Nat), (z = s.onAgent agent (fun g => { g with envelopes := g.envelopes ++ envelopes.filter fun e => !g.envelopes.contains e })) ∧ ((z.agent agent).verifying = some len))
    ∧ (∃ (s : State) (agent : Addr) (envelopes : List (List Byte)) (z : State), (z = s.onAgent agent (fun g => { g with envelopes := g.envelopes ++ envelopes.filter fun e => !g.envelopes.contains e })) ∧ ((z.agent agent).verifying = none))
    ∧ (∃ (s : State) (agent : Addr), ((s.agent agent).heldSeal.any (fun x => decide (x.expiry ≤ (s.agent agent).flash)) = true))
    ∧ (∃ (s : State) (agent : Addr), ((s.agent agent).heldSeal.any (s.agent agent).pastGrace = true))
    ∧ (∃ (s : State) (agent : Addr) (seq : Nat) (e : KeptEvent), ((s.agent agent).events.find? (fun e => e.seq == seq) = some e) ∧ (e.sends < 16))
    ∧ (∃ (s : State) (agent : Addr) (seq : Nat) (e : KeptEvent), ((s.agent agent).events.find? (fun e => e.seq == seq) = some e) ∧ (16 ≤ e.sends))
    ∧ (∃ (s : State) (agent : Addr) (g : Agent) (next : Nat), (g = s.agent agent) ∧ (next = bitsOf (g.word 0x28) 8 7) ∧ (next ≠ 0 ∧ loHalf g.flash = g.word 0x2C))
    ∧ (∃ (s : State) (agent : Addr) (cause : Nat) (z : State), (z = (s.agent agent).released.foldl (fun s e => s.send (.chip agent (.withdrawKey (envelopeLabel e)))) s)) :=
  ⟨⟨agentServes, _, 3, head0, 0x40, 1, rfl, rfl⟩,
   ⟨agentServes, _, 3, head0, 0x70, [9], _, rfl, rfl, rfl⟩,
   ⟨agentUnit (fun g => { (g.put 0x50 1) with armed := true }), 3, _, rfl, by decide⟩,
   ⟨agentUnit (fun g => { g with armed := true, go := true }), 3, _, rfl, by decide, by decide⟩,
   ⟨agentUnit (fun g => { g with armed := true }), 3, _, rfl, by decide, by decide⟩,
   ⟨agentUnit (fun g => { g with guard := some 1 }), 3, by decide⟩,
   ⟨agentUnit (fun g => { g with checking := true }), 3, _, rfl, by decide⟩,
   ⟨agentUnit (fun g => { g with verifying := some 320 }), 3, [], _, 320, rfl, by decide⟩,
   ⟨litUnit, 3, [], _, rfl, by decide⟩,
   ⟨agentUnit (fun g => { g with heldSeal := some { bytes := [], issue := 1, expiry := 0, past := some 0 } }), 3, by decide⟩,
   ⟨agentUnit (fun g => { g with heldSeal := some { bytes := [], issue := 1, expiry := 0, past := some 0 }, flash := 999 }), 3, by decide⟩,
   ⟨agentUnit (fun g => { g with events := [{ seq := 5, cls := 4, flash := 1, offset := 0, subject := 0, arg := 0, body := [], sends := 1 }] }), 3, 5, { seq := 5, cls := 4, flash := 1, offset := 0, subject := 0, arg := 0, body := [], sends := 1 }, by decide, by decide⟩,
   ⟨agentUnit (fun g => { g with events := [{ seq := 5, cls := 4, flash := 1, offset := 0, subject := 0, arg := 0, body := [], sends := 16 }] }), 3, 5, { seq := 5, cls := 4, flash := 1, offset := 0, subject := 0, arg := 0, body := [], sends := 16 }, by decide, by decide⟩,
   ⟨agentUnit (fun g => g.put 0x28 0x140A), 3, _, _, rfl, rfl, by decide⟩,
   ⟨litUnit, 3, 1, _, rfl⟩⟩

set_option maxRecDepth 20000 in
/-- The hypotheses of EndpointAndSwitchRun are met. -/
theorem test_hyp_EndpointAndSwitchRun :
    (∃ (s : State) (agent : Addr) (slot : Nat) (v : SlotView) (x : AgSlot), (v = (s.agent agent).slotView slot ∧ x = (s.agent agent).slotRec slot) ∧ ((s.agent agent).serve = true ∧ v.isOpen = true) ∧ (x.queued = false ∧ x.running = false ∧ x.frozen = false))
    ∧ (∃ (s : State) (agent : Addr) (slot : Nat) (v : SlotView) (x : AgSlot), (v = (s.agent agent).slotView slot ∧ x = (s.agent agent).slotRec slot) ∧ ((s.agent agent).serve = true ∧ v.isOpen = true) ∧ (x.queued = false ∧ (x.running = true ∨ x.frozen = true)))
    ∧ (∃ (s : State) (agent : Addr) (slot : Nat) (v : SlotView) (x : AgSlot), (v = (s.agent agent).slotView slot ∧ x = (s.agent agent).slotRec slot) ∧ ((s.agent agent).serve = false ∨ v.isOpen = false))
    ∧ (∃ (s : State) (agent : Addr) (slot : Nat) (v : SlotView) (x : AgSlot), (v = (s.agent agent).slotView slot ∧ x = (s.agent agent).slotRec slot) ∧ (x.queued = true ∧ (x.running = false ∨ v.entries ≤ x.next)))
    ∧ (∃ (s : State) (agent : Addr) (slot : Nat) (v : SlotView) (x : AgSlot), (v = (s.agent agent).slotView slot ∧ x = (s.agent agent).slotRec slot) ∧ (x.running = true ∧ (x.queued = false ∨ x.next < v.entries)))
    ∧ (∃ (s : State) (agent : Addr) (slot : Nat) (v : SlotView) (x : AgSlot) (n : Nat), (v = (s.agent agent).slotView slot ∧ x = (s.agent agent).slotRec slot) ∧ (x.attempt = some n ∧ x.running = true ∧ x.frozen = false ∧ x.released = false) ∧ (n + 1 < (s.agent agent).retryLimit))
    ∧ (∃ (s : State) (agent : Addr) (slot : Nat) (v : SlotView) (x : AgSlot) (n : Nat), (v = (s.agent agent).slotView slot ∧ x = (s.agent agent).slotRec slot) ∧ (x.attempt = some n ∧ x.running = true ∧ x.frozen = false ∧ x.released = false) ∧ ((s.agent agent).retryLimit ≤ n + 1))
    ∧ (∃ (s : State) (agent : Addr) (port : Nat) (p : Packet) (z : State), (headerRefusal false p.hdr = 0) ∧ (z = s.agReturn agent port p.hdr) ∧ ((s.agent agent).sliceOk p.hdr = true ∧ ((s.agent agent).serve = true ∨ p.hdr.amode = true)) ∧ (p.hdr.opkind.toNat = 0x06))
    ∧ (∃ (s : State) (agent : Addr) (port : Nat) (p : Packet) (z : State), (headerRefusal false p.hdr = 0) ∧ (z = s.agReturn agent port p.hdr) ∧ ((s.agent agent).sliceOk p.hdr = true ∧ ((s.agent agent).serve = true ∨ p.hdr.amode = true)) ∧ (p.hdr.opkind.toNat = 0x13))
    ∧ (∃ (s : State) (agent : Addr) (port : Nat) (p : Packet) (z : State), (headerRefusal false p.hdr = 0) ∧ (z = s.agReturn agent port p.hdr) ∧ ((s.agent agent).sliceOk p.hdr = true ∧ ((s.agent agent).serve = true ∨ p.hdr.amode = true)) ∧ ((p.hdr.opkind.toNat = 0x10 ∨ p.hdr.opkind.toNat = 0x11 ∨ p.hdr.opkind.toNat = 0x12)))
    ∧ (∃ (s : State) (agent : Addr) (port : Nat) (p : Packet) (z : State), (headerRefusal false p.hdr = 0) ∧ (z = s.agReturn agent port p.hdr) ∧ ((s.agent agent).sliceOk p.hdr = true ∧ ((s.agent agent).serve = true ∨ p.hdr.amode = true)) ∧ ((p.hdr.opkind.toNat = 0x20 ∨ p.hdr.opkind.toNat = 0x21 ∨ p.hdr.opkind.toNat = 0x22 ∨ p.hdr.opkind.toNat = 0x23 ∨ p.hdr.opkind.toNat = 0x24)))
    ∧ (∃ (s : State) (agent : Addr) (port : Nat) (p : Packet) (z : State), (headerRefusal false p.hdr = 0) ∧ (z = s.agReturn agent port p.hdr) ∧ ((s.agent agent).sliceOk p.hdr = true ∧ ((s.agent agent).serve = true ∨ p.hdr.amode = true)) ∧ (p.hdr.opkind.toNat = 0x31))
    ∧ (∃ (s : State) (agent : Addr) (port : Nat) (p : Packet), (headerRefusal false p.hdr ≠ 0) ∧ (p.hdr.opkind.toNat ≠ 1))
    ∧ (∃ (s : State) (agent : Addr) (port : Nat) (p : Packet) (z : State), (headerRefusal false p.hdr = 0) ∧ (z = s.agReturn agent port p.hdr) ∧ (p.hdr.slice.toNat ≠ (s.agent agent).slice ∧ p.hdr.vc ≠ 0) ∧ ((s.agent agent).serve = true ∧ 0x10 ≤ p.hdr.opkind.toNat ∧ p.hdr.opkind.toNat ≤ 0x12))
    ∧ (∃ (s : State) (agent : Addr) (port : Nat) (p : Packet) (fault : Nat) (g : Agent), (g = s.agent agent) ∧ (headerRefusal false p.hdr = 0 ∧ p.hdr.opkind ≠ 1) ∧ (g.serve = false ∧ p.hdr.amode = false))
    ∧ (∃ (s : State) (agent : Addr) (port : Nat) (p : Packet) (fault : Nat) (g : Agent), (g = s.agent agent) ∧ (headerRefusal false p.hdr = 0 ∧ p.hdr.opkind ≠ 1) ∧ (g.serve = true ∨ p.hdr.amode = true) ∧ (g.ingressOk port p.hdr = false))
    ∧ (∃ (s : State) (agent : Addr) (port : Nat) (p : Packet) (fault : Nat) (g : Agent), (g = s.agent agent) ∧ (headerRefusal false p.hdr = 0 ∧ p.hdr.opkind ≠ 1) ∧ (g.serve = true ∨ p.hdr.amode = true) ∧ (g.ingressOk port p.hdr = true) ∧ (g.inGuard p.hdr = true))
    ∧ (∃ (s : State) (agent : Addr) (port : Nat) (p : Packet) (fault : Nat) (g : Agent), (g = s.agent agent) ∧ (headerRefusal false p.hdr = 0 ∧ p.hdr.opkind ≠ 1) ∧ (g.ingressOk port p.hdr = true) ∧ (g.inGuard p.hdr = false) ∧ (p.hdr.amode = true))
    ∧ (∃ (s : State) (agent : Addr) (port : Nat) (p : Packet) (fault : Nat) (g : Agent), (g = s.agent agent) ∧ (headerRefusal false p.hdr = 0 ∧ p.hdr.opkind ≠ 1) ∧ (g.ingressOk port p.hdr = true) ∧ (g.inGuard p.hdr = false) ∧ (g.serve = true ∧ p.hdr.amode = false)) :=
  ⟨⟨agentUnit (fun g => { (g.put 0x200000 2) with serve := true }), 3, 0, _, _, ⟨rfl, rfl⟩, by decide, by decide⟩,
   ⟨agentUnit (fun g => { (g.put 0x200000 2) with serve := true, slots := [{ (AgSlot.fresh 0 false) with running := true }] }), 3, 0, _, _, ⟨rfl, rfl⟩, by decide, by decide⟩,
   ⟨litUnit, 3, 0, _, _, ⟨rfl, rfl⟩, by decide⟩,
   ⟨agentUnit (fun g => { (g.put 0x200000 2) with serve := true, slots := [{ (AgSlot.fresh 0 false) with queued := true }] }), 3, 0, _, _, ⟨rfl, rfl⟩, by decide⟩,
   ⟨agentUnit (fun g => { (g.put 0x200000 2) with serve := true, slots := [{ (AgSlot.fresh 0 false) with running := true }] }), 3, 0, _, _, ⟨rfl, rfl⟩, by decide⟩,
   ⟨agentUnit (fun g => { (g.put 0x200000 2) with serve := true, slots := [{ (AgSlot.fresh 0 false) with running := true, attempt := some 0 }] }), 3, 0, _, _, 0, ⟨rfl, rfl⟩, by decide, by decide⟩,
   ⟨agentUnit (fun g => { (g.put 0x200000 2) with serve := true, slots := [{ (AgSlot.fresh 0 false) with running := true, attempt := some 999 }] }), 3, 0, _, _, 999, ⟨rfl, rfl⟩, by decide, by decide⟩,
   ⟨agentServes, 3, 3, (agPkt 6 0 true), _, by decide, rfl, ⟨Bool.or_eq_true_iff.mpr (Or.inl (Bool.or_eq_true_iff.mpr (Or.inr (by decide)))), by decide⟩, by decide⟩,
   ⟨agentServes, 3, 3, (agPkt 0x13 4 false), _, by decide, rfl, ⟨Bool.or_eq_true_iff.mpr (Or.inl (Bool.or_eq_true_iff.mpr (Or.inr (by decide)))), by decide⟩, by decide⟩,
   ⟨agentServes, 3, 3, (agPkt 0x10 4 false), _, by decide, rfl, ⟨Bool.or_eq_true_iff.mpr (Or.inl (Bool.or_eq_true_iff.mpr (Or.inr (by decide)))), by decide⟩, by decide⟩,
   ⟨agentServes, 3, 3, (agPkt 0x21 2 false), _, by decide, rfl, ⟨Bool.or_eq_true_iff.mpr (Or.inl (Bool.or_eq_true_iff.mpr (Or.inr (by decide)))), by decide⟩, by decide⟩,
   ⟨agentServes, 3, 3, (agPkt 0x31 1 true), _, by decide, rfl, ⟨Bool.or_eq_true_iff.mpr (Or.inl (Bool.or_eq_true_iff.mpr (Or.inr (by decide)))), by decide⟩, by decide⟩,
   ⟨agentServes, 3, 3, (agPkt 0x10 0 false), by decide, by decide⟩,
   ⟨agentServes, 3, 3, { (agPkt 0x10 4 false) with hdr := { (agPkt 0x10 4 false).hdr with slice := 5 } }, _, by decide, rfl, by decide, by decide⟩,
   ⟨litUnit, 0x4000, 132, (agPkt 0x10 4 false), 0, _, rfl, by decide, by decide⟩,
   ⟨switchServes, 0x4000, 0, (agPkt 0x10 4 false), 0, _, rfl, by decide, by decide, by decide⟩,
   ⟨switchServes.onAgent 0x4000 (fun g => { g with guard := some 1 }), 0x4000, 132, (agPkt 0x10 4 false), 0, _, rfl, by decide, by decide, by decide, by decide⟩,
   ⟨switchServes, 0x4000, 132, (agPkt 6 0 true), 0, _, rfl, by decide, by decide, by decide, by decide⟩,
   ⟨switchServes, 0x4000, 132, (agPkt 0x10 4 false), 0, _, rfl, by decide, by decide, by decide, by decide⟩⟩

end Sys2Proof.Tests
end

/-! Every command and every step answers a next state, keeps the queue and keeps State.Inv: the lemmas of Laws/Kept* put together over exec. -/
namespace Sys2Proof.Machine

/-- The mask that names every part of the state and every register block. -/
abbrev allParts : Nat := allBlocks ||| 0x1FFFFF

/-- Every command's meaning answers a next state that keeps the queue and the invariant: one lemma of Laws/Kept* per row of the table. -/
theorem exec_kept {qu : List Instr} {o s : State} (c : Instr) (hk : State.Kept qu allParts o s) : Runs qu allParts o (exec c s) :=
  match c with
  | .registerWrite .. => execRegisterWrite_kept rfl hk
  | .lowHalfRead .. => execLowHalfRead_kept rfl hk
  | .unalignedRead .. => execUnalignedRead_kept rfl hk
  | .flashBoundary .. => execFlashBoundary_kept rfl hk
  | .batchClose .. => execBatchClose_kept rfl hk
  | .proposalArrival .. => execProposalArrival_kept rfl hk
  | .proposalFallback .. => execProposalFallback_kept rfl hk
  | .pilotCoreStop .. => execPilotCoreStop_kept rfl hk
  | .wardenStart .. => execWardenStart_kept rfl hk
  | .hcrcError .. => execHcrcError_kept rfl hk
  | .frameCheckError .. => execFrameCheckError_kept rfl hk
  | .egressPacketBoundary .. => execEgressPacketBoundary_kept rfl hk
  | .windowAck .. => execWindowAck_kept rfl hk
  | .resyncMark .. => execResyncMark_kept rfl hk
  | .resyncGrant .. => execResyncGrant_kept rfl hk
  | .mgmtReply .. => execMgmtReply_kept rfl hk
  | .mgmtResend .. => execMgmtResend_kept rfl hk
  | .loadReport .. => execLoadReport_kept rfl hk
  | .portChangeEvent .. => execPortChangeEvent_kept rfl hk
  | .agentResetEvent .. => execAgentResetEvent_kept rfl hk
  | .goMissingEvent .. => execGoMissingEvent_kept rfl hk
  | .flowBrokenEvent .. => execFlowBrokenEvent_kept rfl hk
  | .placeDiscardedEvent .. => execPlaceDiscardedEvent_kept rfl hk
  | .drainEmptyEvent .. => execDrainEmptyEvent_kept rfl hk
  | .overflowEvent .. => execOverflowEvent_kept rfl hk
  | .loadChart .. => execLoadChart_kept rfl hk
  | .chartCheckDone .. => execChartCheckDone_kept rfl hk
  | .store .. => execStore_kept rfl hk
  | .storeWriteDone .. => execStoreWriteDone_kept rfl hk
  | .bootChartLight => execBootChartLight_kept rfl hk
  | .lightChart .. => execLightChart_kept rfl hk
  | .chartLight => execChartLight_kept rfl hk
  | .chartAnnounceWithdrawal => execChartAnnounceWithdrawal_kept rfl hk
  | .serialFloorWrite .. => execSerialFloorWrite_kept rfl hk
  | .actingHeadEntry => execActingHeadEntry_kept rfl hk
  | .handbackFlash => execHandbackFlash_kept rfl hk
  | .handback .. => execHandback_kept rfl hk
  | .headBeat .. => execHeadBeat_kept rfl hk
  | .lasersReady => execLasersReady_kept rfl hk
  | .portTrainDone .. => execPortTrainDone_kept rfl hk
  | .hello .. => execHello_kept rfl hk
  | .linkConfirm .. => execLinkConfirm_kept rfl hk
  | .beacon .. => execBeacon_kept rfl hk
  | .beaconSend .. => execBeaconSend_kept rfl hk
  | .verifyTimeout .. => execVerifyTimeout_kept rfl hk
  | .beaconLoss .. => execBeaconLoss_kept rfl hk
  | .darkRetry .. => execDarkRetry_kept rfl hk
  | .sparePositionMoveDone .. => execSparePositionMoveDone_kept rfl hk
  | .laneSignalLoss .. => execLaneSignalLoss_kept rfl hk
  | .laneChange .. => execLaneChange_kept rfl hk
  | .laserFault .. => execLaserFault_kept rfl hk
  | .rekeyDue .. => execRekeyDue_kept rfl hk
  | .rekey .. => execRekey_kept rfl hk
  | .parkEntry .. => execParkEntry_kept rfl hk
  | .park .. => execPark_kept rfl hk
  | .linkWakeRequest .. => execLinkWakeRequest_kept rfl hk
  | .wake .. => execWake_kept rfl hk
  | .wakeComplete .. => execWakeComplete_kept rfl hk
  | .fabricTestStart .. => execFabricTestStart_kept rfl hk
  | .fabricTestEnd .. => execFabricTestEnd_kept rfl hk
  | .clearQuar .. => execClearQuar_kept rfl hk
  | .rackReport .. => execRackReport_kept rfl hk
  | .epoch .. => execEpoch_kept rfl hk
  | .epochReq .. => execEpochReq_kept rfl hk
  | .linkNotice .. => execLinkNotice_kept rfl hk
  | .sectorVerdict .. => execSectorVerdict_kept rfl hk
  | .bankLoadDone => execBankLoadDone_kept rfl hk
  | .bankReady .. => execBankReady_kept rfl hk
  | .announce .. => execAnnounce_kept rfl hk
  | .ready .. => execReady_kept rfl hk
  | .notReady .. => execNotReady_kept rfl hk
  | .readyDeadline => execReadyDeadline_kept rfl hk
  | .postpone .. => execPostpone_kept rfl hk
  | .confirm .. => execConfirm_kept rfl hk
  | .goRepeat => execGoRepeat_kept rfl hk
  | .bankLight => execBankLight_kept rfl hk
  | .litReport .. => execLitReport_kept rfl hk
  | .withdraw .. => execWithdraw_kept rfl hk
  | .rackFence .. => execRackFence_kept rfl hk
  | .agentPause .. => execAgentPause_kept rfl hk
  | .agentBankLight .. => execAgentBankLight_kept rfl hk
  | .drainGuardEnd .. => execDrainGuardEnd_kept rfl hk
  | .sliceCreate .. => execSliceCreate_kept rfl hk
  | .sliceReseal .. => execSliceReseal_kept rfl hk
  | .sliceDrain .. => execSliceDrain_kept rfl hk
  | .sliceDestroy .. => execSliceDestroy_kept rfl hk
  | .sliceReq .. => execSliceReq_kept rfl hk
  | .admissionSolveDone => execAdmissionSolveDone_kept rfl hk
  | .sliceReply .. => execSliceReply_kept rfl hk
  | .sliceReqTimeout => execSliceReqTimeout_kept rfl hk
  | .sliceTable .. => execSliceTable_kept rfl hk
  | .drainNotice .. => execDrainNotice_kept rfl hk
  | .drainReport .. => execDrainReport_kept rfl hk
  | .sliceDone .. => execSliceDone_kept rfl hk
  | .drainLimitExpiry => execDrainLimitExpiry_kept rfl hk
  | .planCollective .. => execPlanCollective_kept rfl hk
  | .planReq .. => execPlanReq_kept rfl hk
  | .planOrder .. => execPlanOrder_kept rfl hk
  | .planOffer .. => execPlanOffer_kept rfl hk
  | .planCommit .. => execPlanCommit_kept rfl hk
  | .planReady .. => execPlanReady_kept rfl hk
  | .planDone .. => execPlanDone_kept rfl hk
  | .planMemberSilent => execPlanMemberSilent_kept rfl hk
  | .planReqTimeout => execPlanReqTimeout_kept rfl hk
  | .releaseLimitExpiry => execReleaseLimitExpiry_kept rfl hk
  | .rsContrib .. => execRsContrib_kept rfl hk
  | .rsResult .. => execRsResult_kept rfl hk
  | .agData .. => execAgData_kept rfl hk
  | .barrier .. => execBarrier_kept rfl hk
  | .lampUnitDone .. => execLampUnitDone_kept rfl hk
  | .spillWriteDone => execSpillWriteDone_kept rfl hk
  | .lmpInjectArm .. => execLmpInjectArm_kept rfl hk
  | .lanternContrib .. => execLanternContrib_kept rfl hk
  | .lanternPartial .. => execLanternPartial_kept rfl hk
  | .lanternNeed .. => execLanternNeed_kept rfl hk
  | .needTimer .. => execNeedTimer_kept rfl hk
  | .collectiveRetransmit .. => execCollectiveRetransmit_kept rfl hk
  | .recoverReq .. => execRecoverReq_kept rfl hk
  | .recoverClear .. => execRecoverClear_kept rfl hk
  | .recoverCleared .. => execRecoverCleared_kept rfl hk
  | .recoverGo .. => execRecoverGo_kept rfl hk
  | .recoveryReplyTimeout => execRecoveryReplyTimeout_kept rfl hk
  | .abortCollective .. => execAbortCollective_kept rfl hk
  | .abortReq .. => execAbortReq_kept rfl hk
  | .freeze .. => execFreeze_kept rfl hk
  | .frozen .. => execFrozen_kept rfl hk
  | .thaw .. => execThaw_kept rfl hk
  | .genSpacingElapsed => execGenSpacingElapsed_kept rfl hk
  | .stallDetect => execStallDetect_kept rfl hk
  | .stragglerDetect => execStragglerDetect_kept rfl hk
  | .timeExchangeRequest .. => execTimeExchangeRequest_kept rfl hk
  | .timeExchangeReply .. => execTimeExchangeReply_kept rfl hk
  | .timeFill .. => execTimeFill_kept rfl hk
  | .timeAcquisitionStep => execTimeAcquisitionStep_kept rfl hk
  | .acquisitionTimeout => execAcquisitionTimeout_kept rfl hk
  | .coldStart => execColdStart_kept rfl hk
  | .degradedEntry => execDegradedEntry_kept rfl hk
  | .agentHoldover .. => execAgentHoldover_kept rfl hk
  | .floorClear .. => execFloorClear_kept rfl hk
  | .wallApply .. => execWallApply_kept rfl hk
  | .saturationWarn => execSaturationWarn_kept rfl hk
  | .readLoadmap .. => execReadLoadmap_kept rfl hk
  | .telPeakClear .. => execTelPeakClear_kept rfl hk
  | .enrolGo .. => execEnrolGo_kept rfl hk
  | .enrolVerifyDone => execEnrolVerifyDone_kept rfl hk
  | .keyRotate .. => execKeyRotate_kept rfl hk
  | .attest .. => execAttest_kept rfl hk
  | .issueSeal .. => execIssueSeal_kept rfl hk
  | .signatureDone => execSignatureDone_kept rfl hk
  | .sealRenewal => execSealRenewal_kept rfl hk
  | .sealPublish => execSealPublish_kept rfl hk
  | .sealDirectWrite => execSealDirectWrite_kept rfl hk
  | .grantAssert .. => execGrantAssert_kept rfl hk
  | .grantWithdraw => execGrantWithdraw_kept rfl hk
  | .takeoverAdopt => execTakeoverAdopt_kept rfl hk
  | .smbusIdent .. => execSmbusIdent_kept rfl hk
  | .smbusHealth .. => execSmbusHealth_kept rfl hk
  | .smbusNote .. => execSmbusNote_kept rfl hk
  | .moorDelta .. => execMoorDelta_kept rfl hk
  | .moorCommit .. => execMoorCommit_kept rfl hk
  | .moorAck .. => execMoorAck_kept rfl hk
  | .moorNack .. => execMoorNack_kept rfl hk
  | .moorStatus .. => execMoorStatus_kept rfl hk
  | .commitAckTimeout => execCommitAckTimeout_kept rfl hk
  | .commitLoss => execCommitLoss_kept rfl hk
  | .deltaApply => execDeltaApply_kept rfl hk
  | .mirrorSelect .. => execMirrorSelect_kept rfl hk
  | .mirrorSelectAck .. => execMirrorSelectAck_kept rfl hk
  | .mirrorResend .. => execMirrorResend_kept rfl hk
  | .handover .. => execHandover_kept rfl hk
  | .finalCommitTimeout => execFinalCommitTimeout_kept rfl hk
  | .resyncReq .. => execResyncReq_kept rfl hk
  | .stateQuery .. => execStateQuery_kept rfl hk
  | .stateReply .. => execStateReply_kept rfl hk
  | .graphReq .. => execGraphReq_kept rfl hk
  | .graph .. => execGraph_kept rfl hk
  | .selftestResult .. => execSelftestResult_kept rfl hk
  | .engineHang .. => execEngineHang_kept rfl hk
  | .engineResetDone .. => execEngineResetDone_kept rfl hk
  | .contextHang .. => execContextHang_kept rfl hk
  | .hostDmaTimeout .. => execHostDmaTimeout_kept rfl hk
  | .aonWatchdog => execAonWatchdog_kept rfl hk
  | .escalateReset .. => execEscalateReset_kept rfl hk
  | .deferredResetStart => execDeferredResetStart_kept rfl hk
  | .partResetStart => execPartResetStart_kept rfl hk
  | .partResetEnd => execPartResetEnd_kept rfl hk
  | .partFitTimeout => execPartFitTimeout_kept rfl hk
  | .chipReset => execChipReset_kept rfl hk
  | .chipFitTimeout => execChipFitTimeout_kept rfl hk
  | .sampleRoomTimeout => execSampleRoomTimeout_kept rfl hk
  | .detectionError .. => execDetectionError_kept rfl hk
  | .pseudoChannelCopyDone .. => execPseudoChannelCopyDone_kept rfl hk
  | .rstTestStall .. => execRstTestStall_kept rfl hk
  | .logEvent .. => execLogEvent_kept rfl hk
  | .pilotLogSubmit .. => execPilotLogSubmit_kept rfl hk
  | .logRingMove => execLogRingMove_kept rfl hk
  | .logCopyDone => execLogCopyDone_kept rfl hk
  | .bar4Read .. => execBar4Read_kept rfl hk
  | .bar4Write _ value => execBar4Write_kept (value := value) rfl hk
  | .agentMgmtRead .. => execAgentMgmtRead_kept rfl hk
  | .agentMgmtWrite .. => execAgentMgmtWrite_kept rfl hk
  | .agentBroadcastWrite .. => execAgentBroadcastWrite_kept rfl hk
  | .agentEventResend .. => execAgentEventResend_kept rfl hk
  | .agentArm .. => execAgentArm_kept rfl hk
  | .agentDisarm .. => execAgentDisarm_kept rfl hk
  | .agentSetLit .. => execAgentSetLit_kept rfl hk
  | .agentGo .. => execAgentGo_kept rfl hk
  | .agentFreeze .. => execAgentFreeze_kept rfl hk
  | .agentThaw .. => execAgentThaw_kept rfl hk
  | .agentCheckValue .. => execAgentCheckValue_kept rfl hk
  | .agentCheckValueDone .. => execAgentCheckValueDone_kept rfl hk
  | .agentSealCommit .. => execAgentSealCommit_kept rfl hk
  | .agentSealVerifyDone .. => execAgentSealVerifyDone_kept rfl hk
  | .agentSealExpiry .. => execAgentSealExpiry_kept rfl hk
  | .agentGraceEnd .. => execAgentGraceEnd_kept rfl hk
  | .agentTrim .. => execAgentTrim_kept rfl hk
  | .agentRate .. => execAgentRate_kept rfl hk
  | .agentStep .. => execAgentStep_kept rfl hk
  | .agentPeriodChange .. => execAgentPeriodChange_kept rfl hk
  | .agentServe .. => execAgentServe_kept rfl hk
  | .agentReset .. => execAgentReset_kept rfl hk
  | .agentLaunch .. => execAgentLaunch_kept rfl hk
  | .agentTileDone .. => execAgentTileDone_kept rfl hk
  | .agentLanternDeadline .. => execAgentLanternDeadline_kept rfl hk
  | .setWakeLatency .. => execSetWakeLatency_kept rfl hk
  | .agentRead .. => execAgentRead_kept rfl hk
  | .agentWrite .. => execAgentWrite_kept rfl hk
  | .reservedOpcode .. => execReservedOpcode_kept rfl hk
  | .msixSpacingExpiry .. => execMsixSpacingExpiry_kept rfl hk
  | .functionLevelReset => execFunctionLevelReset_kept rfl hk
  | .perstAssert => execPerstAssert_kept rfl hk
  | .d3hotEntry => execD3hotEntry_kept rfl hk
  | .d0Return => execD0Return_kept rfl hk
  | .modReset => execModReset_kept rfl hk
  | .powerUp .. => execPowerUp_kept rfl hk
  | .railFailRetry .. => execRailFailRetry_kept rfl hk
  | .vinDip => execVinDip_kept rfl hk
  | .vinLoss => execVinLoss_kept rfl hk
  | .shutdownLimit .. => execShutdownLimit_kept rfl hk
  | .shutdownReleaseTimeout => execShutdownReleaseTimeout_kept rfl hk
  | .thermalTrip => execThermalTrip_kept rfl hk
  | .throttleStep => execThrottleStep_kept rfl hk
  | .frefLoss => execFrefLoss_kept rfl hk
  | .frefRestore => execFrefRestore_kept rfl hk
  | .pwrPeakClear .. => execPwrPeakClear_kept rfl hk
  | .hostDmaCompletion .. => execHostDmaCompletion_kept rfl hk
  | .pcieLinkTrained .. => execPcieLinkTrained_kept rfl hk
  | .modResetDeassert => execModResetDeassert_kept rfl hk
  | .commandWindowWrite .. => execCommandWindowWrite_kept rfl hk
  | .keyAgreementTimeout .. => execKeyAgreementTimeout_kept rfl hk
  | .testHoldRequest .. => execTestHoldRequest_kept rfl hk
  | .testHoldAgree .. => execTestHoldAgree_kept rfl hk
  | .reservedOpkindPacket .. => execReservedOpkindPacket_kept rfl hk
  | .linkControlBlockInvalid .. => execLinkControlBlockInvalid_kept rfl hk
  | .creditReturn .. => execCreditReturn_kept rfl hk
  | .tokenBucketRefill .. => execTokenBucketRefill_kept rfl hk
  | .agentEventAck .. => execAgentEventAck_kept rfl hk
  | .agentFlashBoundary .. => execAgentFlashBoundary_kept rfl hk
  | .switchPacketIngress .. => execSwitchPacketIngress_kept rfl hk
  | .endpointPacketArrival .. => execEndpointPacketArrival_kept rfl hk
  | .sealLow => execSealLow_kept rfl hk
  | .pilotFirmwareReplace .. => execPilotFirmwareReplace_kept rfl hk
  | .fillPacketReceived .. => execFillPacketReceived_kept rfl hk
  | .logCopyCutShort => execLogCopyCutShort_kept rfl hk
  | .autoSpare .. => execAutoSpare_kept rfl hk
  | .contextResetDone .. => execContextResetDone_kept rfl hk

/-- Taking the front command off the queue changes nothing else. -/
theorem State.kept_dequeue (s : State) (rest : List Instr) : State.Kept rest allParts s { s with pending := rest } :=
  ⟨rfl, id, by constructor <;> intros <;> rfl⟩

/-- A step answers a next state whose queue is the rest of the queue, and keeps the invariant. -/
theorem step_kept (s : State) : Runs s.pending.tail allParts s (step s) := by
  unfold step
  split
  · next hq => exact runs_next (State.idle_kept rfl ⟨by rw [hq]; rfl, id, State.SameBut.refl allParts s⟩)
  · next c rest hq => exact hq ▸ exec_kept c (s.kept_dequeue rest)

/-- Settles O4: the queue is that of the state the command ran on, by exec_kept. -/
theorem execAnswersNextAndKeepsQueue : Obligations.ExecAnswersNextAndKeepsQueue := by
  intro c s
  obtain ⟨t, ht, hk⟩ := exec_kept c (State.Kept.refl allParts s)
  exact ⟨t, ht, hk.queue⟩

/-- Settles O1, from step_kept. -/
theorem everyStepKeepsInv : Obligations.EveryStepKeepsInv := by
  intro s t hs ht
  obtain ⟨u, hu, hk⟩ := step_kept s
  cases hu.symm.trans ht
  exact hk.inv hs

/-- The register file at reset lists PWR_RAILS alone, and not at the reset value of the index. -/
theorem State.reset_regsCanonical : State.reset.regsCanonical := by
  have hregs : State.reset.regs = [(Reg.PWR_RAILS, 0xFF)] := rfl
  have hreset : resetOf Reg.PWR_RAILS ≠ 0xFF := by decide
  simpa [State.regsCanonical, hregs] using hreset.symm

/-- Settles O2: one register listed, LIT off, sixteen windows. -/
theorem resetMeetsInv : Obligations.ResetMeetsInv :=
  ⟨State.reset_regsCanonical, id, rfl⟩

end Sys2Proof.Machine

/-! Counters, and what a host write leaves in a register's bits (R10 to R15). -/
namespace Sys2Proof.Machine

/-- Addition that holds at a maximum is the smaller of the maximum and the sum (R15). -/
theorem satAdd_eq_min (m a b : Nat) : satAdd m a b = min m (a + b) := by
  unfold satAdd
  split <;> omega

theorem Fld.apart_iff (f g : Fld) : f.apart g = true ↔ f.off ≠ g.off ∨ f.lo + f.width ≤ g.lo ∨ g.lo + g.width ≤ f.lo := by
  simp [Fld.apart, or_assoc]

theorem State.toNat_countReg_self (s : State) (off n : Nat) :
    ((s.countReg off n).getReg off).toNat = min (2 ^ 32 - 1) ((s.getReg off).toNat + n) := by
  rw [State.getReg_countReg_self, satAdd_eq_min, BitVec.toNat_ofNat]
  exact Nat.mod_eq_of_lt (by omega)

/-- Settles O7: what count and countReg leave in their own register and in the others. -/
theorem countersHoldAtTheirMaximum : Obligations.CountersHoldAtTheirMaximum := by
  refine ⟨fun s f n hf => ?_, fun s f g n hg hd => ?_, fun s off n => ⟨s.toNat_countReg_self off n, fun o ho => ?_⟩⟩
  · rw [State.getF_count_self s f n hf, satAdd_eq_min]
  · exact State.getF_count_apart s n ((f.apart_iff g).mpr hd) hg
  · exact State.getReg_countReg_ne s n (Ne.symm ho)

/-- A bit outside RW after a host write: W1C clears it unless the Keeper has just set it, W1S sets it (R10, R12). -/
theorem bitAt_regWriteValue (row : RegRow) (old v justSet : Word) (i : Nat) (hi : i < 32) (hrw : bitAt row.rw i = false) :
    bitAt (regWriteValue row old v justSet).1 i
      = (bitAt old i && !(bitAt v i && bitAt row.w1c i && !bitAt justSet i) || bitAt v i && bitAt row.w1s i) := by
  have hrw' : row.rw[i] = false := by simpa [bitAt, hi] using hrw
  simp [regWriteValue, bitAt, hi, hrw']

/-- Where a reserved encoding is held, each bit is the new one or the old one (R14). -/
theorem bitAt_throttleHeld (off : Nat) (old new : Word) (i : Nat) (hi : i < 32) :
    bitAt (throttleHeld off old new).1 i = bitAt new i ∨ bitAt (throttleHeld off old new).1 i = bitAt old i := by
  have hput (lo : Nat) : bitAt (putBits new lo 8 (bitsOf old lo 8)) i = bitAt new i ∨
      bitAt (putBits new lo 8 (bitsOf old lo 8)) i = bitAt old i := by
    rw [bitAt_putBits _ _ _ _ _ hi]
    split
    · next h =>
      right
      rw [testBit_bitsOf, Nat.add_sub_cancel' h.1, decide_eq_true (by omega), Bool.true_and, bitAt]
    · exact .inl rfl
  unfold throttleHeld
  split
  · exact hput 0
  · split
    · exact hput 8
    · exact .inl rfl

/-- No register with a W1C bit has a reserved encoding that throttleHeld holds. -/
theorem throttleHeld_of_w1c {off i : Nat} {row : RegRow} (hr : regRow off = some row) (hc : bitAt row.w1c i = true) (old new : Word) :
    (throttleHeld off old new).1 = new := by
  have hno (o : Nat) (h : (regRow o).map RegRow.w1c = some 0) : off ≠ o := by
    rintro rfl
    rw [hr] at h
    simp only [Option.map_some, Option.some.injEq] at h
    simp [h, bitAt] at hc
  have h1 : off ≠ Reg.RST_ENGINE_SEL := hno _ (by decide)
  have h2 : off ≠ Reg.RST_TEST := hno _ (by decide)
  have h3 : off ≠ Reg.PWR_TLIMIT := hno _ (by decide)
  simp [throttleHeld, h1, h2, h3]

/-- Settles O9: a bit with no write access keeps its value through the access codes and through a held encoding. -/
theorem reservedBitsIgnoreWrites : Obligations.ReservedBitsIgnoreWrites := by
  intro s off i v same row hr hi hres
  simp only [bitAt, BitVec.getLsbD_or, Bool.or_eq_false_iff] at hres
  obtain ⟨⟨hrw, hc⟩, hs⟩ := hres
  rw [State.getReg_writeReg s off v same row hr]
  split
  · rfl
  · have hold (js : Word) : bitAt (regWriteValue row (s.getReg off) v js).1 i = bitAt (s.getReg off) i := by
      rw [bitAt_regWriteValue _ _ _ _ _ hi hrw]
      simp [bitAt, hc, hs]
    rcases bitAt_throttleHeld off (s.getReg off) (regWriteValue row (s.getReg off) v _).1 i hi with h | h
    · exact h.trans (hold _)
    · exact h

theorem State.bitAt_setF_one (s : State) (f : Fld) (hw : f.width = 1) (hlo : f.lo < 32) : bitAt ((s.setF f 1).getReg f.off) f.lo = true := by
  unfold State.setF
  rw [State.getReg_setReg_self, bitAt_putBits _ _ _ _ _ hlo, if_pos ⟨le_rfl, by omega⟩, Nat.sub_self]
  rfl

theorem State.flag_raise_self (s : State) (f : Fld) (hw : f.width = 1) (hlo : f.lo < 32) : (s.raise f).flag f = true := by
  unfold State.flag
  rw [State.getReg_raise]
  exact s.bitAt_setF_one f hw hlo

/-- A message of an interrupt vector changes the vectors and what is owed in D3hot, and nothing else of the host interface. -/
theorem State.signal_hif (s : State) (v : Nat) : ∃ vecs owed, (s.signal v).hif = { s.hif with vecs := vecs, owed := owed } := by
  unfold State.signal
  dsimp only
  split
  · exact ⟨_, _, rfl⟩
  · split
    · exact ⟨_, _, rfl⟩
    · split <;> exact ⟨_, _, rfl⟩

/-- A raised bit is noted among those set in this core cycle (R12). -/
theorem State.raise_hif (s : State) (f : Fld) :
    ∃ vecs owed, (s.raise f).hif = { s.hif with vecs := vecs, owed := owed, sets := (f.off, f.lo) :: s.hif.sets } := by
  unfold State.raise
  dsimp only
  split
  · exact ⟨_, _, rfl⟩
  · split
    · exact State.signal_hif _ _
    · exact ⟨_, _, rfl⟩

theorem State.mem_sets_raise (s : State) (f : Fld) : (f.off, f.lo) ∈ (s.raise f).hif.sets := by
  obtain ⟨vecs, owed, h⟩ := s.raise_hif f
  rw [h]
  exact List.mem_cons_self

/-- The bits of a register that the Keeper set in this core cycle, as a mask (R12). -/
theorem bitAt_justSet {sets : List (Nat × Nat)} {off i : Nat} (hi : i < 32) (h : (off, i) ∈ sets) :
    bitAt (w32 (maskOf ((sets.filter fun x => x.1 == off).map (·.2)))) i = true := by
  rw [bitAt, BitVec.getLsbD_ofNat, testBit_maskOf, decide_eq_true hi, Bool.true_and, List.contains_iff_mem]
  exact List.mem_map.mpr ⟨(off, i), List.mem_filter.mpr ⟨h, by simp⟩, rfl⟩

/-- Settles O10: the write's mask of bits just set spares the raised bit; in another cycle that mask is 0 and W1C clears. -/
theorem eventAndClearInOneCycle : Obligations.EventAndClearInOneCycle := by
  constructor
  · intro s f v row hr ⟨hw, hlo⟩ ⟨hc, hrw⟩
    have hset : bitAt ((s.raise f).getReg f.off) f.lo = true := s.flag_raise_self f hw hlo
    unfold State.flag
    rw [State.getReg_writeReg _ _ _ _ row hr]
    split
    · exact hset
    · rw [throttleHeld_of_w1c hr hc, bitAt_regWriteValue _ _ _ _ _ hlo hrw, hset, if_pos rfl, bitAt_justSet hlo (s.mem_sets_raise f)]
      simp
  · intro s off i v row hr hi ⟨hc, hno⟩ hserved hv
    simp only [bitAt, BitVec.getLsbD_or, Bool.or_eq_false_iff] at hno
    obtain ⟨hrw, hs⟩ := hno
    rw [State.getReg_writeReg _ _ _ _ row hr, if_neg (fun h => h.2 (hserved h.1)), throttleHeld_of_w1c hr hc,
      bitAt_regWriteValue _ _ _ _ _ hi hrw, hv, hc]
    simp [bitAt, hs]

end Sys2Proof.Machine

/-! Recorded errors (R484, R485), and the host's reads and writes by width and alignment (R9). -/
namespace Sys2Proof.Machine

/-- A recorded error changes no latch of a read (R9): of the host interface only the vectors and what R12 and R485 remember. -/
theorem State.recordErr_hif (s : State) (f : Fld) (bar off : Nat) :
    ∃ vecs owed sets, (s.recordErr f bar off).hif = { s.hif with vecs := vecs, owed := owed, sets := sets, seen := true } := by
  unfold State.recordErr State.raiseIf
  extract_lets first gained s1 hif s2 s3
  have h1 : s1.hif = s.hif := by
    unfold s1
    split <;> rfl
  have h3 : s3.hif = { s.hif with sets := (f.off, f.lo) :: s.hif.sets, seen := true } := by
    rw [← h1]
    rfl
  split
  · obtain ⟨vecs, owed, h⟩ := s3.raise_hif Fld.HIF_INT_STATUS_ERROR
    rw [h, h3]
    exact ⟨vecs, owed, _, rfl⟩
  · rw [h3]
    exact ⟨s.hif.vecs, s.hif.owed, _, rfl⟩

theorem State.recordErr_latches (s : State) (f : Fld) (bar off : Nat) :
    (s.recordErr f bar off).hif.latches = s.hif.latches ∧ (s.recordErr f bar off).hif.nowLatch = s.hif.nowLatch := by
  obtain ⟨vecs, owed, sets, h⟩ := s.recordErr_hif f bar off
  rw [h]
  exact ⟨rfl, rfl⟩

theorem State.getReg_raiseIf_ne (s : State) (b : Bool) {f : Fld} {o : Nat} (h : f.off ≠ o) : (s.raiseIf b f).getReg o = s.getReg o := by
  unfold State.raiseIf
  split
  · rw [State.getReg_raise, State.getReg_setF_ne _ _ h]
  · rfl

/-- Whether an error is the first one since the host cleared the status (R485). -/
def State.firstErr (s : State) : Bool := s.getReg Reg.HIF_ERR_STATUS == 0 || !s.hif.seen

/-- What a recorded error leaves in the registers, but for the interrupt status (R484, R485). -/
theorem State.getReg_recordErr_eq (s : State) (f : Fld) (bar off o : Nat) (ho : o ≠ Reg.HIF_INT_STATUS) :
    (s.recordErr f bar off).getReg o =
      (((if s.firstErr then s.setReg Reg.HIF_ERR_WHERE (w32 (off / 4 * 4 + bar)) else s).setF f 1).countReg Reg.HIF_ERR_COUNT 1).getReg o := by
  unfold State.recordErr
  dsimp only
  rw [State.getReg_raiseIf_ne _ _ (Ne.symm ho)]
  exact State.getReg_congr rfl o

/-- A recorded error shows in the error status (R484). -/
theorem State.flag_recordErr (s : State) {f : Fld} (bar off : Nat) (hf : f.off = Reg.HIF_ERR_STATUS) (hw : f.width = 1) (hlo : f.lo < 32) :
    (s.recordErr f bar off).flag f = true := by
  have h1 : f.off ≠ Reg.HIF_INT_STATUS := by rw [hf]; decide
  have h2 : Reg.HIF_ERR_COUNT ≠ f.off := by rw [hf]; decide
  unfold State.flag
  rw [State.getReg_recordErr_eq _ _ _ _ _ h1, State.getReg_countReg_ne _ _ h2]
  exact State.bitAt_setF_one _ _ hw hlo

/-- An access recorded in error (R9, R484, R485): its bit, the count, the place of a first one, and no register beside. -/
theorem State.recordErr_access (s : State) (off : Nat) :
    (s.recordErr Fld.HIF_ERR_STATUS_ACCESS 0 off).flag Fld.HIF_ERR_STATUS_ACCESS = true
    ∧ ((s.recordErr Fld.HIF_ERR_STATUS_ACCESS 0 off).getReg Reg.HIF_ERR_COUNT).toNat
        = min (2 ^ 32 - 1) ((s.getReg Reg.HIF_ERR_COUNT).toNat + 1)
    ∧ (s.getReg Reg.HIF_ERR_STATUS = 0 → (s.recordErr Fld.HIF_ERR_STATUS_ACCESS 0 off).getReg Reg.HIF_ERR_WHERE = w32 (off / 4 * 4))
    ∧ ∀ o, o ≠ Reg.HIF_ERR_STATUS → o ≠ Reg.HIF_ERR_WHERE → o ≠ Reg.HIF_ERR_COUNT → o ≠ Reg.HIF_INT_STATUS →
        (s.recordErr Fld.HIF_ERR_STATUS_ACCESS 0 off).getReg o = s.getReg o := by
  refine ⟨s.flag_recordErr 0 off rfl rfl (by decide), ?_, fun hz => ?_, fun o h1 h2 h3 h4 => ?_⟩
  · rw [State.getReg_recordErr_eq _ _ _ _ _ (by decide), State.toNat_countReg_self, State.getReg_setF_ne _ _ (by decide)]
    split
    · rw [State.getReg_setReg_ne _ _ (by decide)]
    · rfl
  · have hfirst : s.firstErr = true := by simp [State.firstErr, hz]
    rw [State.getReg_recordErr_eq _ _ _ _ _ (by decide), State.getReg_countReg_ne _ _ (by decide), State.getReg_setF_ne _ _ (by decide),
      if_pos hfirst, State.getReg_setReg_self, Nat.add_zero]
  · exact State.getReg_recordErr s _ _ _ _ rfl (by simp [errorRegs, h1, h2, h3, h4])

/-- A host read that reaches the unit and is not aligned. -/
theorem State.hostRead_unaligned (s : State) {off bytes : Nat} (hr : s.hostReaches = true) (ha : readAligned off bytes = false) :
    s.hostRead off bytes = (s.recordErr Fld.HIF_ERR_STATUS_ACCESS 0 off).send (.readData 0) := by
  simp [State.hostRead, hr, ha]

/-- A read that lies in one register takes that register (R9). -/
theorem State.hostRead_inWord (s : State) {off bytes : Nat} (hr : s.hostReaches = true) (ha : readAligned off bytes = true) (h8 : bytes ≠ 8) :
    s.hostRead off bytes = (s.readWord (off / 4 * 4)).2.send (.readData (BitVec.ofNat 64 (subWord (s.readWord (off / 4 * 4)).1 off bytes))) := by
  simp [State.hostRead, hr, ha, h8]

theorem readAligned_iff (off bytes : Nat) : readAligned off bytes = true ↔
    (bytes = 4 ∧ off % 4 = 0) ∨ (bytes = 8 ∧ off % 8 = 0) ∨ (0 < bytes ∧ bytes < 4 ∧ off % 4 + bytes ≤ 4) := by
  simp only [readAligned, Bool.or_eq_true, Bool.and_eq_true, beq_iff_eq, decide_eq_true_eq]
  omega

theorem writeAligned_iff (off bytes : Nat) : writeAligned off bytes = true ↔ (bytes = 4 ∧ off % 4 = 0) ∨ (bytes = 8 ∧ off % 8 = 0) := by
  simp [writeAligned]

/-- The four bytes of a register are the register. -/
theorem subWord_whole (v : Word) {off : Nat} (h : off % 4 = 0) : subWord v off 4 = v.toNat := by
  simp only [subWord, bitsOf, h, Nat.mul_zero, Nat.pow_zero, Nat.div_one]
  exact Nat.mod_eq_of_lt v.isLt

/-- Settles O8: each width and alignment by the branch of hostRead or execRegisterWrite it takes; the recorded error is recordErr_access. -/
theorem narrowAndUnalignedAccesses : Obligations.NarrowAndUnalignedAccesses := by
  refine ⟨fun s off hr ha => ?_, fun s off hr ha => ?_, fun s off bytes hr hb => ?_, fun s off bytes hr hb => ?_,
    fun s off bytes v same hr hb => ?_, fun s off v same hr => ⟨fun ha => ?_, fun ha => ?_⟩⟩
  · have hal : readAligned off 4 = true := (readAligned_iff off 4).mpr (.inl ⟨rfl, ha⟩)
    show Host.Outcome.next (s.hostRead off 4) = _
    rw [s.hostRead_inWord hr hal (by decide), show off / 4 * 4 = off by omega, subWord_whole _ ha]
  · have hal : readAligned off 8 = true := (readAligned_iff off 8).mpr (.inr (.inl ⟨rfl, ha⟩))
    show Host.Outcome.next (s.hostRead off 8) = _
    simp [State.hostRead, hr, hal]
  · have hal : readAligned off bytes = true := (readAligned_iff off bytes).mpr (.inr (.inr hb))
    show Host.Outcome.next (s.hostRead off bytes) = _
    rw [s.hostRead_inWord hr hal (by omega), show off / 4 * 4 = off - off % 4 by omega]
    rfl
  · have hal : readAligned off bytes = false := by
      rw [Bool.eq_false_iff, Ne, readAligned_iff]
      omega
    obtain ⟨hl, hn⟩ := s.recordErr_latches Fld.HIF_ERR_STATUS_ACCESS 0 off
    exact ⟨_, congrArg Host.Outcome.next (s.hostRead_unaligned hr hal), rfl, hl, hn, s.recordErr_access off⟩
  · have hal : writeAligned off bytes = false := by
      rw [Bool.eq_false_iff, Ne, writeAligned_iff]
      exact fun h => h.elim hb.1 hb.2
    obtain ⟨hl, hn⟩ := s.recordErr_latches Fld.HIF_ERR_STATUS_ACCESS 0 off
    refine ⟨s.recordErr Fld.HIF_ERR_STATUS_ACCESS 0 off, ?_, hl, hn, s.recordErr_access off⟩
    show execRegisterWrite off bytes v same s = _
    simp [execRegisterWrite, hr, hal]
  · have hal : writeAligned off 4 = true := (writeAligned_iff off 4).mpr (.inl ⟨rfl, ha⟩)
    show execRegisterWrite off 4 v same s = _
    simp [execRegisterWrite, hr, hal]
  · have hal : writeAligned off 8 = true := (writeAligned_iff off 8).mpr (.inr ⟨rfl, ha⟩)
    show execRegisterWrite off 8 v same s = _
    simp [execRegisterWrite, hr, hal]

end Sys2Proof.Machine

/-! Management replies, telemetry, the log and BAR4. -/
namespace Sys2Proof.Machine

/-- Settles O41: each case gives the conditions under which the meaning takes the branch stated. -/
theorem managementTelemetryAndLogRun : Obligations.ManagementTelemetryAndLogRun := by
  refine ⟨?reply, ?resend, ?resendsSpent, ?loadReport, ?saturation, fun s e => rfl, ?pilotTaken, ?pilotDropped, ?bar4Word, ?bar4Misaligned,
    ?bar4Fails, ?bar4Write⟩
  case reply =>
    rintro s port p v op ⟨rfl, htaken⟩ ⟨hclean, hgen⟩ hop
    show execMgmtReply port p s = _
    simp [execMgmtReply, htaken, hclean, hgen, hop]
  case resend =>
    rintro s tag op again z hop ⟨hwait, hsends, hlit⟩ rfl rfl
    have hmor : s.mor.lit = true := hlit
    show execMgmtResend tag s = _
    simp [execMgmtResend, hop, Nat.not_lt.mpr hwait, hsends, State.lit, hmor]
  case resendsSpent =>
    rintro s tag op z hop ⟨hwait, hspent⟩ rfl
    show execMgmtResend tag s = _
    simp [execMgmtResend, hop, Nat.not_lt.mpr hwait, Nat.not_lt.mpr hspent]
  case loadReport =>
    rintro s port p v ⟨rfl, htaken⟩ ⟨hclean, hcls⟩
    show execLoadReport port p s = _
    simp [execLoadReport, htaken, hclean, hcls]
  case saturation =>
    intro s due hd hdue
    have hne : ¬ due.isEmpty = true := by simpa using hdue
    show execSaturationWarn s = _
    simp only [execSaturationWarn, ← hd, hne]
    rfl
  case pilotTaken =>
    intro s core code slice body hcode hen
    show execPilotLogSubmit core code slice body s = _
    simp only [execPilotLogSubmit, hcode, hen]
    rfl
  case pilotDropped =>
    intro s core code slice body hcode hen
    show execPilotLogSubmit core code slice body s = _
    simp [execPilotLogSubmit, hcode, hen]
  case bar4Word =>
    rintro s off hr ⟨-, hal⟩
    show execBar4Read off 4 false s = _
    simp [execBar4Read, hr, hal]
  case bar4Misaligned =>
    intro s off n f hr hal
    show execBar4Read off n f s = _
    simp [execBar4Read, hr, hal]
  case bar4Fails =>
    intro s off hr hal
    show execBar4Read off 4 true s = _
    simp [execBar4Read, hr, hal]
  case bar4Write =>
    intro s off x hr
    show execBar4Write off x s = _
    simp [execBar4Write, hr]

end Sys2Proof.Machine

/-! Fabric tests, packets in error, agents' events, the egress of a port and its credits. -/
namespace Sys2Proof.Machine

/-- The element a list update rewrites. -/
theorem getD_modifyAt_self {α : Type} (f : α → α) {n : Nat} {l : List α} (d : α) (h : n < l.length) :
    (modifyAt f n l).getD n d = f (l.getD n d) := by
  rw [List.getD_eq_getElem?_getD, List.getD_eq_getElem?_getD, getElem?_modifyAt, if_pos rfl, List.getElem?_eq_getElem h]
  rfl

/-- The elements a list update leaves. -/
theorem getD_modifyAt_ne {α : Type} (f : α → α) {n m : Nat} (l : List α) (d : α) (h : m ≠ n) : (modifyAt f n l).getD m d = l.getD m d := by
  rw [List.getD_eq_getElem?_getD, List.getD_eq_getElem?_getD, getElem?_modifyAt, if_neg (Ne.symm h)]

theorem State.port_onPort_self (s : State) {n : Nat} (f : Port → Port) (hn : n < s.link.ports.length) :
    (s.onPort n f).port n = f (s.port n) := getD_modifyAt_self f _ hn

theorem State.port_onPort_ne (s : State) {n m : Nat} (f : Port → Port) (h : m ≠ n) : (s.onPort n f).port m = s.port m :=
  getD_modifyAt_ne f _ _ h

/-- Units that come back to a VC, up to those the receiver has (R62). -/
theorem Egress.credits_regain (q : Egress) (most : Nat) {vc : Nat} (n : Nat) (h : vc < q.credits.length) :
    (q.regain most vc n).credits.getD vc 0 = min most (q.credits.getD vc 0 + n) := getD_modifyAt_self _ _ h

/-- After a grant no resynchronisation is open (R95). -/
theorem Egress.resyncing_grant (q : Egress) (units : List Nat) : (q.grant units).resyncing = false := by
  unfold Egress.grant
  split
  · rfl
  · next h => exact Bool.eq_false_iff.mpr h

/-- A packet of a reserved OPKIND is refused for reason 1 on every port (R55). -/
theorem headerRefusal_of_unknown (mooring : Bool) {h : Hdr} (hk : opkindKnown h.opkind.toNat = false) : headerRefusal mooring h = 1 := by
  simp [headerRefusal, hk]

/-- An agent's event taken for the first time goes to the act of its row (R445, R446). -/
theorem State.takeAgentEvent_of_takes {s v : State} {cls port : Nat} {p : Packet} {ev : AgentEvent} (act : State → AgentEvent → State)
    (h : s.TakesEvent cls port p v ev) : s.takeAgentEvent cls port p act = act v ev := by
  obtain ⟨htaken, hclean, hcls, rfl, u, hu, rfl⟩ := h
  simp [State.takeAgentEvent, htaken, hclean, hcls, hu]

/-- Settles O25: each case gives the conditions under which the meaning takes the branch stated; credits and grants by what they leave in a port. -/
theorem fabricTestEgressAndCredits : Obligations.FabricTestEgressAndCredits := by
  refine ⟨?testOver, ?testNotAgreed, ?hold, ?release, ?agree, ?lcb, ?hcrc, ?frame, ?tag, ?opkind, ?ack,
    fun s v port p ev h => congrArg Host.Outcome.next (State.takeAgentEvent_of_takes _ h),
    fun s v port p ev h => congrArg Host.Outcome.next (State.takeAgentEvent_of_takes _ h),
    fun s v port p ev h => congrArg Host.Outcome.next (State.takeAgentEvent_of_takes _ h),
    ?emit, ?nothingWaits, fun s a port => rfl, fun s port vc => rfl, fun s a port vc => rfl, ?credit,
    fun s a port vc n => rfl, fun s port => rfl, fun s a port => rfl, ?grant, fun s a port units => rfl⟩
  case testOver =>
    rintro s bits errors t ht ⟨hagreed, hleft⟩
    show execFabricTestEnd bits errors s = _
    simp [execFabricTestEnd, ht, hagreed, hleft]
  case testNotAgreed =>
    rintro s bits errors t ht ⟨hagreed, hwaited⟩
    show execFabricTestEnd bits errors s = _
    simp [execFabricTestEnd, ht, hagreed, hwaited]
  case hold =>
    rintro s port ok z hport rfl rfl
    show execTestHoldRequest port true s = _
    simp [execTestHoldRequest, hport]
  case release =>
    intro s port hport
    show execTestHoldRequest port false s = _
    simp [execTestHoldRequest, hport]
  case agree =>
    rintro s port t ⟨ht, hport⟩
    show execTestHoldAgree port true s = _
    simp [execTestHoldAgree, ht, hport]
  case lcb =>
    intro s port b hb
    show execLinkControlBlockInvalid port b s = _
    simp [execLinkControlBlockInvalid, hb]
  case hcrc =>
    intro s port ws lanes hw
    show execHcrcError port ws lanes s = _
    simp [execHcrcError, hw]
  case frame =>
    intro s port f lanes hf
    show execFrameCheckError port f lanes s = _
    simp [execFrameCheckError, hf]
  case tag =>
    rintro s port f lanes z ⟨hf, htag⟩ rfl
    show execFrameCheckError port f lanes s = _
    simp only [execFrameCheckError, hf, htag, Bool.false_eq_true, if_false, if_true]
    split <;> rfl
  case opkind =>
    intro s port p hk
    show execReservedOpkindPacket port p s = _
    simp [execReservedOpkindPacket, headerRefusal_of_unknown _ hk]
  case ack =>
    rintro s port p v ⟨rfl, htaken⟩
    show execWindowAck port p s = _
    simp [execWindowAck, htaken]
  case emit =>
    intro s port w p h
    show execEgressPacketBoundary none port s = _
    simp [execEgressPacketBoundary, h]
  case nothingWaits =>
    intro s port h
    show execEgressPacketBoundary none port s = _
    simp [execEgressPacketBoundary, h]
  case credit =>
    rintro s port vc n ⟨hport, -, hvc⟩
    refine ⟨_, rfl, ?_, fun m hm => State.port_onPort_ne _ _ hm⟩
    rw [State.port_onPort_self _ _ hport]
    exact Egress.credits_regain _ 130 n hvc
  case grant =>
    intro s port units hport
    refine ⟨_, rfl, ?_, ?_, fun m hm => State.port_onPort_ne _ _ hm⟩
    · rw [State.port_onPort_self _ _ hport]
    · rw [State.port_onPort_self _ _ hport]
      exact Egress.resyncing_grant _ units

end Sys2Proof.Machine

/-! Host writes of request registers: the register, then its owner's act (R10, R121); the floor of serials (R84). -/
namespace Sys2Proof.Machine

/-- An access by the host drops latches and nothing else. -/
theorem State.dropLatches_same (s : State) (off : Nat) : State.SameBut 0x8 s (s.dropLatches off) :=
  (State.dropLatches_kept rfl (State.Kept.refl 0x8 s)).same

theorem State.getReg_dropLatches (s : State) (off o : Nat) : (s.dropLatches off).getReg o = s.getReg o := by
  unfold State.dropLatches
  dsimp only
  split <;> rfl

/-- A register write changes registers, vectors and messages only. -/
theorem State.writeReg_same (s : State) (off : Nat) (v : Word) (same : Bool) :
    State.SameBut 0xffffffff00000009 s (s.writeReg off v same) :=
  (State.writeReg_kept rfl (State.Kept.refl 0xffffffff00000009 s)).same

/-- What a write of a register other than DSC_CLEAR may set off: wall time, packets to the agents, the log and the registers of block LOG (R423,
R440), as a mask of Laws/Kept. -/
abbrev writeEffectParts : Nat := 0x1000000020044

theorem State.writeEffects_same (s0 s : State) {off : Nat} (v : Word) (ho : off ≠ Reg.DSC_CLEAR) :
    State.SameBut writeEffectParts s (s0.writeEffects s off v) := by
  suffices h : State.Kept s.pending writeEffectParts s (s0.writeEffects s off v) from h.same
  unfold State.writeEffects
  rw [if_neg ho]
  have hwall : State.Kept s.pending writeEffectParts s (if off = Reg.TIM_WALL_CTRL ∧ ¬ s.flag Fld.TIM_WALL_CTRL_APPLY ∧ s.wallPpb ≠ s0.wallPpb
      then s.openWall s.wallNow s.wallPpb else s) :=
    State.kept_ite (fun _ => State.openWall_kept rfl (State.Kept.refl _ s)) (fun _ => State.Kept.refl _ s)
  have hparams : ∀ t, State.Kept s.pending writeEffectParts s t →
      State.Kept s.pending writeEffectParts s (if t.paramsWord ≠ s0.paramsWord then t.writeParams else t) := fun t ht =>
    State.kept_ite (fun _ => State.writeParams_kept rfl ht) (fun _ => ht)
  exact State.kept_ite (fun _ => State.writeGuard_kept rfl (hparams _ hwall)) (fun _ => hparams _ hwall)

/-- The state in which the owner of a register acts on a host write of it: latches dropped, the register written, what the write itself sets off. -/
def State.written (s : State) (off : Nat) (v : Word) : State :=
  (s.dropLatches off).writeEffects ((s.dropLatches off).writeReg off v false) off v

/-- A host write that reaches the unit in no level-4 reset and that no rule of its register turns away. -/
theorem State.hostWrite_eq (s : State) {off : Nat} {v : Word} (hr : s.hostReaches = true) (h4 : s.resetLevel ≠ 4)
    (hown : (s.dropLatches off).ownRule off v = (some v, false)) :
    s.hostWrite off v false =
      if (s.written off v).engineHeld (blockEngine off) then s.written off v else (s.written off v).regAct off := by
  unfold State.hostWrite State.written
  rw [if_neg (not_not_intro hr), if_neg (fun h => h4 h.1)]
  dsimp only
  rw [hown]
  rfl

theorem State.written_engineHeld (s : State) {off : Nat} (v : Word) (ho : off ≠ Reg.DSC_CLEAR) (e : Nat) :
    (s.written off v).engineHeld e = s.engineHeld e := by
  have hrst : (s.written off v).rst = s.rst :=
    ((State.writeEffects_same _ _ v ho).rst rfl).trans (((State.writeReg_same _ _ v false).rst rfl).trans ((s.dropLatches_same off).rst rfl))
  unfold State.engineHeld State.engine
  rw [hrst]

/-- The register written holds what its access codes make of the value, whatever else the write sets off (R10). -/
theorem State.getReg_written (s : State) {off : Nat} (v : Word) {row : RegRow} (hrow : regRow off = some row) (h4 : s.resetLevel ≠ 4)
    (ho : off ≠ Reg.DSC_CLEAR) (hblk : Nat.testBit writeEffectParts (32 + regBlock off) = false) :
    (s.written off v).getReg off = (throttleHeld off (s.getReg off) (regWriteValue row (s.getReg off) v 0).1).1 := by
  have hlev : (s.dropLatches off).resetLevel = s.resetLevel := State.getF_eq_of_getReg (s.getReg_dropLatches off _)
  unfold State.written
  rw [(State.writeEffects_same _ _ v ho).regs off hblk, State.getReg_writeReg _ _ _ _ row hrow, hlev, if_neg (fun h => h4 h.1), s.getReg_dropLatches]
  rfl

/-- A request by a host write (R10): the register takes the value by its access codes, then its owner acts. -/
theorem State.hostWrite_request (s : State) {off : Nat} {v : Word} (hr : s.hostReaches = true) (h4 : s.resetLevel ≠ 4)
    (hheld : s.engineHeld (blockEngine off) = false) (hown : (s.dropLatches off).ownRule off v = (some v, false))
    (hrow : (regRow off).isSome = true) (ho : off ≠ Reg.DSC_CLEAR) (hblk : Nat.testBit writeEffectParts (32 + regBlock off) = false) :
    ∃ u : State, s.hostWrite off v false = u.regAct off ∧
      ((regRow off).map fun r => (throttleHeld off (s.getReg off) (regWriteValue r (s.getReg off) v 0).1).1) = some (u.getReg off) := by
  obtain ⟨row, hrow⟩ := Option.isSome_iff_exists.mp hrow
  refine ⟨s.written off v, ?_, ?_⟩
  · rw [s.hostWrite_eq hr h4 hown, s.written_engineHeld v ho, hheld]
    rfl
  · rw [s.getReg_written v hrow h4 ho hblk, hrow]
    rfl

theorem throttleHeld_of_ne {off : Nat} (h : off ∉ [Reg.RST_ENGINE_SEL, Reg.RST_TEST, Reg.PWR_TLIMIT]) (old new : Word) :
    (throttleHeld off old new).1 = new := by
  simp only [List.mem_cons, List.not_mem_nil, or_false, not_or] at h
  obtain ⟨h1, h2, h3⟩ := h
  simp [throttleHeld, h1, h2, h3]

theorem State.ownRule_of_ne (s : State) {off : Nat} (h : off ∉ [Reg.CHT_SERIAL_FLOOR, Reg.SLV_CTRL, Reg.LMP_INJECT]) (v : Word) :
    s.ownRule off v = (some v, false) := by
  simp only [List.mem_cons, List.not_mem_nil, or_false, not_or] at h
  obtain ⟨h1, h2, h3⟩ := h
  simp [State.ownRule, h1, h2, h3]

/-- A request register without a rule or an encoding of its own, whose other effects reach no register of its block. -/
abbrev plainRequest (off : Nat) : Prop :=
  off ∉ [Reg.CHT_SERIAL_FLOOR, Reg.SLV_CTRL, Reg.LMP_INJECT] ∧ off ∉ [Reg.RST_ENGINE_SEL, Reg.RST_TEST, Reg.PWR_TLIMIT]
    ∧ (regRow off).isSome = true ∧ off ≠ Reg.DSC_CLEAR ∧ Nat.testBit writeEffectParts (32 + regBlock off) = false

theorem State.hostWrite_plainRequest {off : Nat} (hp : plainRequest off) (s : State) (v : Word) (hr : s.hostReaches = true)
    (h4 : s.resetLevel ≠ 4) (hheld : s.engineHeld (blockEngine off) = false) :
    ∃ u : State, Host.Outcome.next (φ := Fault) (ρ := Refusal) (s.hostWrite off v false) = .next (u.regAct off) ∧
      ((regRow off).map fun r => (regWriteValue r (s.getReg off) v 0).1) = some (u.getReg off) := by
  obtain ⟨hown, henc, hrow, ho, hblk⟩ := hp
  obtain ⟨u, hu, hreg⟩ := s.hostWrite_request hr h4 hheld (State.ownRule_of_ne _ hown v) hrow ho hblk
  simp only [throttleHeld_of_ne henc] at hreg
  exact ⟨u, congrArg Host.Outcome.next hu, hreg⟩

/-! ### The positions of the lasers -/

theorem State.foldl_positions {α : Type} (f : State → α → State) (hf : ∀ s x, (f s x).link.positions = s.link.positions) (l : List α) (s : State) :
    (l.foldl f s).link.positions = s.link.positions := by
  induction l generalizing s with
  | nil => rfl
  | cons x l ih => exact (ih (f s x)).trans (hf s x)

theorem State.enqueue_positions (s : State) (n : Nat) (p : Packet) : (s.enqueue n p).link.positions = s.link.positions := rfl

theorem State.sendMgmt_positions (s : State) (op : MgmtOp) : (s.sendMgmt op).link.positions = s.link.positions := by
  unfold State.sendMgmt
  dsimp only
  split
  · exact State.foldl_positions _ (fun s n => s.enqueue_positions n _) _ s
  · exact s.enqueue_positions _ _

theorem State.broadcast_positions (s : State) (addr : Nat) (ws : List Word) (cls : Nat) :
    (s.broadcast addr ws cls).link.positions = s.link.positions := by
  unfold State.broadcast State.broadcastTo
  split
  · exact s.sendMgmt_positions _
  · rfl

theorem State.tellHead_positions (s : State) (m : KMsg) : (s.tellHead m).link.positions = s.link.positions := by
  unfold State.tellHead State.tell State.hopMsg
  split
  · rfl
  · split
    · rfl
    · split <;> rfl

/-- A part of the state that a lemma of Laws/Kept* does not name: the links. -/
theorem State.Kept.link_eq {qu : List Instr} {F : Nat} {s t : State} (h : State.Kept qu F s t) (hF : F.testBit 6 = false) : t.link = s.link :=
  h.same.link hF

theorem State.raise_link (s : State) (f : Fld) : (s.raise f).link = s.link :=
  (State.raise_kept (F := 0xffffffff00000009) rfl (bit_all (m := 0xffffffff00000009) rfl rfl) (State.Kept.refl _ s)).link_eq rfl

theorem State.losePlane_positions (s : State) (ctx plane : Nat) : (s.losePlane ctx plane).link.positions = s.link.positions := by
  unfold State.losePlane
  split
  · rfl
  · split
    · rfl
    · unfold State.recoverReq State.recoverMsg
      dsimp only
      rw [State.tellHead_positions, State.onPlan_link, State.raise_link, State.onPlan_link]

theorem State.keeperLinkLost_positions (s : State) (plane : Nat) : (s.keeperLinkLost plane).link.positions = s.link.positions :=
  State.foldl_positions (fun s (p : Plan) => s.losePlane p.ctx plane) (fun s p => s.losePlane_positions p.ctx plane) _ s

/-- An operation done only under a condition. -/
theorem State.ite_positions {c : Prop} [Decidable c] {s t : State} (h : t.link.positions = s.link.positions) :
    (if c then t else s).link.positions = s.link.positions := by
  split
  · exact h
  · rfl

theorem State.logOwn_link (s : State) (code engine slice : Nat) (body : List Word) : (s.logOwn code engine slice body).link = s.link :=
  (State.logOwn_kept (F := 0x1000000024009) rfl (State.Kept.refl _ s)).link_eq rfl

theorem State.judgePorts_link (s : State) : s.judgePorts.link = s.link :=
  (State.judgePorts_kept (F := 0x400000000009) rfl (State.Kept.refl _ s)).link_eq rfl

theorem State.mooringDown_link (s : State) (reason : Nat) : (s.mooringDown reason).link = s.link :=
  (State.mooringDown_kept (F := 0x1400000026009) rfl (State.Kept.refl _ s)).link_eq rfl

/-- A port that goes to TRAIN keeps every laser position as it is. -/
theorem State.portTo_train_positions (s : State) (n reason : Nat) : (s.portTo n .train reason).link.positions = s.link.positions := by
  unfold State.portTo
  extract_lets p s1 s2 s3 w s4 s5 s6
  have h1 : s1.link.positions = s.link.positions := rfl
  have h2 : s2.link.positions = s1.link.positions := congrArg LinkState.positions (s1.raise_link _)
  have h3 : s3.link.positions = s2.link.positions := State.ite_positions (congrArg LinkState.positions s2.judgePorts_link)
  have h4 : s4.link.positions = s3.link.positions := rfl
  have h5 : s5.link.positions = s4.link.positions := State.ite_positions (s4.keeperLinkLost_positions n)
  have h6 : s6.link.positions = s5.link.positions := State.ite_positions (congrArg LinkState.positions (s5.mooringDown_link 2))
  split
  · rfl
  · rw [if_neg (by decide), h6, h5, h4, h3, h2, h1]

theorem State.pumpTraining_positions (s : State) : s.pumpTraining.link.positions = s.link.positions := by
  unfold State.pumpTraining
  split
  · rfl
  · exact State.foldl_positions (fun s n => s.onPort n fun p => { p with retrains := p.retrains + 1 }) (fun _ _ => rfl) _ _

theorem State.trainPort_positions (s : State) (n : Nat) : (s.trainPort n).link.positions = s.link.positions :=
  (State.pumpTraining_positions _).trans (s.portTo_train_positions n 0)

/-- CLEAR_QUAR releases the position the port stands on (R121). -/
theorem State.clearQuar_positions (s : State) {v : Word} (hv : bitAt v 8 = true ∧ bitsOf v 0 5 < 21) :
    (s.clearQuar v).link.positions = modifyAt (fun x => { x with quar := false, loopbackFail := false }) (s.port (bitsOf v 0 5)).position s.link.positions := by
  unfold State.clearQuar
  dsimp only
  rw [if_pos hv]
  split
  · exact State.trainPort_positions _ _
  · rfl

/-- What a write sets off beside DSC_CLEAR leaves the positions. -/
theorem State.writeEffects_clear_positions (s0 s : State) (v : Word) :
    (s0.writeEffects s Reg.DSC_CLEAR v).link.positions = (s.clearQuar v).link.positions :=
  (State.ite_positions (State.broadcast_positions _ _ _ _)).trans
    ((State.ite_positions (State.broadcast_positions _ _ _ _)).trans (State.ite_positions rfl))

/-- CHT_SERIAL_FLOOR takes a value whole. -/
theorem regWriteValue_serialFloor (old v : Word) :
    ((regRow Reg.CHT_SERIAL_FLOOR).map fun r => (regWriteValue r old v 0).1) = some v := by
  have hrow : ∃ row, regRow Reg.CHT_SERIAL_FLOOR = some row ∧ row.rw = BitVec.allOnes 32 ∧ row.w1c = 0 ∧ row.w1s = 0 ∧ row.lims = [] :=
    ⟨_, rfl, by decide⟩
  obtain ⟨row, hrow, hrw, hw1c, hw1s, hlims⟩ := hrow
  have hwhole : ∀ x : Word, x &&& 0xFFFFFFFF#32 = x := fun x => BitVec.and_allOnes
  simp [hrow, regWriteValue, hrw, hw1c, hw1s, hlims, maskOf, hwhole]

/-- CLEAR_QUAR releases the position that the port named stands on (R121). -/
theorem State.hostWrite_clearQuar (s : State) {v : Word} (hr : s.hostReaches = true) (h4 : s.resetLevel ≠ 4)
    (hv : bitAt v 8 = true ∧ bitsOf v 0 5 < 21) :
    (s.hostWrite Reg.DSC_CLEAR v false).link.positions =
      modifyAt (fun x => { x with quar := false, loopbackFail := false }) (s.port (bitsOf v 0 5)).position s.link.positions := by
  have hlink : ((s.dropLatches Reg.DSC_CLEAR).writeReg Reg.DSC_CLEAR v false).link = s.link :=
    ((State.writeReg_same _ _ v false).link rfl).trans ((s.dropLatches_same _).link rfl)
  have hwritten : (s.written Reg.DSC_CLEAR v).link.positions =
      modifyAt (fun x => { x with quar := false, loopbackFail := false }) (s.port (bitsOf v 0 5)).position s.link.positions := by
    unfold State.written State.port
    rw [State.writeEffects_clear_positions, State.clearQuar_positions _ hv, State.port, hlink]
  rw [s.hostWrite_eq hr h4 (State.ownRule_of_ne _ (by decide) v)]
  exact (State.ite_positions (s := (s.written Reg.DSC_CLEAR v).regAct Reg.DSC_CLEAR) rfl).trans hwritten

/-- A serial floor below the one that stands is turned away and recorded (R84). -/
theorem State.hostWrite_lowerFloor (s : State) {v : Word} (hr : s.hostReaches = true) (h4 : s.resetLevel ≠ 4)
    (hlow : v.toNat < (s.getReg Reg.CHT_SERIAL_FLOOR).toNat) :
    s.hostWrite Reg.CHT_SERIAL_FLOOR v false =
      (s.dropLatches Reg.CHT_SERIAL_FLOOR).recordErr Fld.HIF_ERR_STATUS_IGNORED 0 Reg.CHT_SERIAL_FLOOR := by
  have hown : (s.dropLatches Reg.CHT_SERIAL_FLOOR).ownRule Reg.CHT_SERIAL_FLOOR v = (none, true) := if_pos ⟨rfl, hlow⟩
  unfold State.hostWrite
  rw [if_neg (not_not_intro hr), if_neg (fun h => h4 h.1)]
  dsimp only
  rw [hown]
  rfl

/-- Settles O26: a request register goes by hostWrite_request, CLEAR_QUAR by the positions, CHT_SERIAL_FLOOR by its own rule. -/
theorem requestRegisterWrites : Obligations.RequestRegisterWrites := by
  refine ⟨State.hostWrite_plainRequest (by decide), ?lampInject, State.hostWrite_plainRequest (by decide), State.hostWrite_plainRequest (by decide),
    State.hostWrite_plainRequest (by decide), State.hostWrite_plainRequest (by decide), State.hostWrite_plainRequest (by decide),
    State.hostWrite_plainRequest (by decide), State.hostWrite_plainRequest (by decide), State.hostWrite_plainRequest (by decide),
    State.hostWrite_plainRequest (by decide), ?stall, State.hostWrite_plainRequest (by decide), ?clearQuar, ?floorRises, ?floorLower⟩
  case lampInject =>
    intro s v hr h4 hheld hlamp
    have hown : (s.dropLatches Reg.LMP_INJECT).ownRule Reg.LMP_INJECT v = (some v, false) := by
      simp [State.ownRule, Nat.not_lt.mpr hlamp]
    obtain ⟨u, hu, hreg⟩ := s.hostWrite_request hr h4 hheld hown (by decide) (by decide) (by decide)
    exact ⟨u, congrArg Host.Outcome.next hu, hreg⟩
  case stall =>
    intro s v hr h4 hheld
    obtain ⟨u, hu, hreg⟩ := s.hostWrite_request hr h4 hheld (State.ownRule_of_ne _ (by decide) v) (by decide) (by decide) (by decide)
    exact ⟨u, congrArg Host.Outcome.next hu, hreg⟩
  case clearQuar =>
    intro s v hr h4 hv hpos
    refine ⟨_, rfl, ?_⟩
    rw [State.pos, s.hostWrite_clearQuar hr h4 hv, getD_modifyAt_self _ _ hpos]
    exact ⟨rfl, rfl⟩
  case floorRises =>
    intro s v hr h4 hfloor hheld
    have hown : (s.dropLatches Reg.CHT_SERIAL_FLOOR).ownRule Reg.CHT_SERIAL_FLOOR v = (some v, false) :=
      (if_neg fun h => absurd h.2 (Nat.not_lt.mpr hfloor)).trans rfl
    obtain ⟨u, hu, hreg⟩ := s.hostWrite_request hr h4 hheld hown (by decide) (by decide) (by decide)
    exact ⟨u, congrArg Host.Outcome.next hu, Option.some.inj (hreg.symm.trans (regWriteValue_serialFloor _ v))⟩
  case floorLower =>
    intro s v hr h4 hlow
    refine ⟨_, congrArg Host.Outcome.next (s.hostWrite_lowerFloor hr h4 hlow), ?_, State.flag_recordErr _ _ _ rfl rfl (by decide)⟩
    exact State.getReg_recordErr _ _ _ _ _ rfl (by decide)

end Sys2Proof.Machine

/-! A KEEPER_MSG that is taken goes to the act of its type, or waits for its stage's intake (R17, R21, R22, R137). -/
namespace Sys2Proof.Machine

/-- A message that acts as it arrives goes to the act of its type. -/
theorem State.takeMsg_of_takes {s v : State} {mtype port : Nat} {p : Packet} {src : Addr} {m : KMsg} (act : State → Addr → KMsg → State)
    (h : s.TakesMsg mtype port p v src m) : s.takeMsg mtype port p act = act v src m := by
  obtain ⟨u, harrive, rfl⟩ := h
  simp only [State.takeMsg, harrive]

/-- A message of a flash stage waits for the stage's next intake. -/
theorem State.stageMsg_of_stages {s v : State} {mtype port : Nat} {p : Packet} {src : Addr} {m : KMsg}
    (h : s.StagesMsg mtype port p v src m) : s.stageMsg mtype port p = v.stageInput (msgStage m) (.message src m) := by
  have harrive : s.arriveMsg mtype port p = (v, some (src, m)) := h
  simp only [State.stageMsg, harrive]

/-! ### Slices and drains (R162 to R168) -/

/-- A SLICE_REPLY with a reason completes the command it answers with that reason (R162). -/
theorem State.gotSliceReply_of_reason {v : State} {m : KMsg} {i : SliceIssued} (src : Addr)
    (hi : v.slc.issued.find? (fun i => i.tag == bitsOf m.count 8 12) = some i) (hreason : bitsOf m.count 0 8 ≠ 0) :
    v.gotSliceReply src m =
      ({ v with slc := { v.slc with issued := v.slc.issued.filter fun x => x.tag != bitsOf m.count 8 12 } } : State).refuse i.win 6
        (bitsOf m.count 0 8) := by
  simp only [State.gotSliceReply, hi, if_pos hreason]

/-- A SLICE_REPLY without a reason notes the epoch its request was admitted into (R163). -/
theorem State.gotSliceReply_of_admitted {v : State} {m : KMsg} {i : SliceIssued} (src : Addr)
    (hi : v.slc.issued.find? (fun i => i.tag == bitsOf m.count 8 12) = some i) (hreason : bitsOf m.count 0 8 = 0) :
    v.gotSliceReply src m = { v with slc := { v.slc with
      issued := v.slc.issued.map fun x => if x.tag == bitsOf m.count 8 12 then { x with epoch := some m.epoch.toNat } else x } } := by
  simp only [State.gotSliceReply, hi, if_neg (not_not_intro hreason)]

/-- A SLICE_TABLE with all its parts, of an epoch to come, is kept for that epoch (R168). -/
theorem State.gotSliceTable_of_whole {v u : State} {m : KMsg} {ws : List Word} (src : Addr) (hall : v.collect m = (u, some ws))
    (hlater : u.slv.epoch < m.epoch.toNat) :
    v.gotSliceTable src m = { u with slc := { u.slc with tables := u.slc.tables ++ [(m.epoch.toNat, m.set, ws)] } } := by
  simp only [State.gotSliceTable, hall, if_neg (Nat.not_le.mpr hlater)]

/-- Settles O31: a message taken goes to the act of its type (takeMsg_of_takes), an event to that of its row (takeAgentEvent_of_takes), SLICE_REQ
to the intake of its stage. -/
theorem sliceMessagesTakeEffect : Obligations.SliceMessagesTakeEffect := by
  refine ⟨?replyRefused, ?replyAdmitted, ?table, fun s v port p src m h => congrArg Host.Outcome.next (State.takeMsg_of_takes _ h), ?drainReport,
    fun s v port p src m h => congrArg Host.Outcome.next (State.takeMsg_of_takes _ h),
    fun s v port p src m h => congrArg Host.Outcome.next (State.stageMsg_of_stages h), ?intake,
    fun s v port p ev h => congrArg Host.Outcome.next (State.takeAgentEvent_of_takes _ h)⟩
  case replyRefused =>
    intro s v port p src m i h hi hreason
    exact congrArg Host.Outcome.next ((State.takeMsg_of_takes _ h).trans (State.gotSliceReply_of_reason src hi hreason))
  case replyAdmitted =>
    intro s v port p src m i h hi hreason
    exact ⟨_, congrArg Host.Outcome.next ((State.takeMsg_of_takes _ h).trans (State.gotSliceReply_of_admitted src hi hreason)), rfl⟩
  case table =>
    intro s v port p src m u ws h hall hlater
    exact ⟨_, congrArg Host.Outcome.next ((State.takeMsg_of_takes _ h).trans (State.gotSliceTable_of_whole src hall hlater)), rfl⟩
  case drainReport =>
    intro s v port p src m h hhead
    exact congrArg Host.Outcome.next ((State.takeMsg_of_takes _ h).trans (if_neg (not_not_intro hhead)))
  case intake =>
    intro v stamp src m htype
    exact if_pos htype

/-! ### The plan exchange (R185 to R189, R210) -/

/-- What PLAN_DONE makes of the plan it names (R189, R210): one in installation is enabled at the flash given, or freed when it was refused, and one
under RELEASE is ended. -/
def State.planSettled (s : State) (plan : Option Plan) (reason e : Nat) : State :=
  match plan with
  | none => s
  | some q =>
    if q.st = 4 then (if reason = 0 then (s.freePlan q.ctx false).raise Fld.CLP_INT_STATUS_RELEASED else s)
    else if q.st = 1 ∨ q.st = 2 then (if reason = 0 ∧ e ≠ 0 then s.enablePlan q.ctx e else s.freePlan q.ctx false)
    else s

/-- The plan that PLAN_DONE names; ordinal 0 names none (R186). -/
def State.planNamed (s : State) (m : KMsg) : Option Plan :=
  if (wordAt m.words 0).toNat = 0 then none else s.planOf (msgSlice m) (wordAt m.words 0).toNat

/-- The command of this Keeper that PLAN_DONE completes, by its TAG and the issuing rack (R186). -/
def State.planDoneFor (s : State) (m : KMsg) (i : PlanIssued) : Bool :=
  !i.abort && i.tag == bitsOf m.count 8 12 && (wordAt m.words 1).toNat == s.myRack

/-- PLAN_DONE for no command of this Keeper acts on the plan alone. -/
theorem State.gotPlanDone_of_unissued {v : State} {m : KMsg} (src : Addr)
    (hnone : (v.planSettled (v.planNamed m) (bitsOf m.count 0 8) m.flash.toNat).clp.issued.find? (v.planDoneFor m) = none) :
    v.gotPlanDone src m = v.planSettled (v.planNamed m) (bitsOf m.count 0 8) m.flash.toNat := by
  unfold State.gotPlanDone
  extract_lets reason tag ordinal e mine plan z
  have hz : z = v.planSettled (v.planNamed m) reason e := rfl
  have hmine : z.clp.issued.find? mine = none := hnone
  simp only [hmine]
  exact hz

/-- PLAN_DONE with a reason refuses the command it is for (R186). -/
theorem State.gotPlanDone_of_reason {v : State} {m : KMsg} {i : PlanIssued} (src : Addr) (hreason : bitsOf m.count 0 8 ≠ 0)
    (hi : (v.planSettled (v.planNamed m) (bitsOf m.count 0 8) m.flash.toNat).clp.issued.find? (v.planDoneFor m) = some i) :
    v.gotPlanDone src m =
      ((v.planSettled (v.planNamed m) (bitsOf m.count 0 8) m.flash.toNat).onClp fun c => { c with
        issued := c.issued.filter fun x => !v.planDoneFor m x }).planRefused i.win (bitsOf m.count 0 8) (planDesc i.words).slice
          (planDesc i.words).group [0, 0, 0, 0, w32 (bitsOf m.count 0 8)] := by
  unfold State.gotPlanDone
  extract_lets reason tag ordinal e mine plan z
  have hmine : z.clp.issued.find? mine = some i := hi
  simp only [hmine]
  exact if_pos hreason

theorem State.planNamed_of_ne {v : State} {m : KMsg} {o : Option Plan}
    (h : wordAt m.words 0 ≠ 0 ∧ v.planOf (msgSlice m) (wordAt m.words 0).toNat = o) : v.planNamed m = o :=
  (if_neg (fun h0 => h.1 (BitVec.eq_of_toNat_eq h0))).trans h.2

theorem State.planNamed_of_zero {v : State} {m : KMsg} (h : wordAt m.words 0 = 0) : v.planNamed m = none :=
  if_pos (congrArg BitVec.toNat h)

/-- Settles O32: what waits goes by stageMsg_of_stages; PLAN_DONE first settles the plan it names, then completes its command. -/
theorem planMessagesTakeEffect : Obligations.PlanMessagesTakeEffect := by
  refine ⟨fun s v port p src m h => congrArg Host.Outcome.next (State.stageMsg_of_stages h),
    fun v stamp src m htype => by simp [State.takeJob, htype],
    fun s v port p src m h => congrArg Host.Outcome.next (State.stageMsg_of_stages h),
    fun v src m htype => if_pos htype,
    fun s v port p src m h => congrArg Host.Outcome.next (State.stageMsg_of_stages h),
    fun v stamp src m htype => by simp [State.takeJob, htype],
    fun s v port p src m h => congrArg Host.Outcome.next (State.stageMsg_of_stages h),
    fun v stamp src m htype => by simp [State.takeJob, htype],
    fun s v port p src m h => congrArg Host.Outcome.next (State.stageMsg_of_stages h),
    fun v stamp src m htype => by simp [State.takeJob, htype],
    ?enables, ?released, ?refused⟩
  case enables =>
    rintro s v port p src m q z h hplan ⟨hst, hreason, hflash⟩ rfl hnone
    have hz : v.planSettled (v.planNamed m) (bitsOf m.count 0 8) m.flash.toNat = v.enablePlan q.ctx m.flash.toNat := by
      have hst4 : q.st ≠ 4 := by omega
      have he : m.flash.toNat ≠ 0 := fun h0 => hflash (BitVec.eq_of_toNat_eq h0)
      simp only [State.planNamed_of_ne hplan, State.planSettled, if_neg hst4, if_pos hst, if_pos (And.intro hreason he)]
    rw [← hz] at hnone ⊢
    exact congrArg Host.Outcome.next ((State.takeMsg_of_takes _ h).trans (State.gotPlanDone_of_unissued src hnone))
  case released =>
    rintro s v port p src m q z h hplan ⟨hst, hreason⟩ rfl hnone
    have hz : v.planSettled (v.planNamed m) (bitsOf m.count 0 8) m.flash.toNat = (v.freePlan q.ctx false).raise Fld.CLP_INT_STATUS_RELEASED := by
      simp only [State.planNamed_of_ne hplan, State.planSettled, if_pos hst, if_pos hreason]
    rw [← hz] at hnone ⊢
    exact congrArg Host.Outcome.next ((State.takeMsg_of_takes _ h).trans (State.gotPlanDone_of_unissued src hnone))
  case refused =>
    rintro s v port p src m i h ⟨hord, hreason⟩ hi
    have hz : v.planSettled (v.planNamed m) (bitsOf m.count 0 8) m.flash.toNat = v := by
      simp only [State.planNamed_of_zero hord, State.planSettled]
    have hdone := State.gotPlanDone_of_reason (v := v) (m := m) (i := i) src hreason (hz.symm ▸ hi)
    rw [hz] at hdone
    exact congrArg Host.Outcome.next ((State.takeMsg_of_takes _ h).trans hdone)

end Sys2Proof.Machine

/-! The flash boundary, the close of a batch, proposals of the Pilot cores, the acting head. -/
namespace Sys2Proof.Machine

/-- Settles O35: each case gives the conditions under which the meaning takes the branch stated. -/
theorem flashAndPilotCommandsRun : Obligations.FlashAndPilotCommandsRun := by
  refine ⟨?boundary, ?boundaryInReset, ?close, fun s lanes => rfl, fun s lanes => rfl, ?unasked, ?heldForIntake, ?answersBatch, ?failsCheck,
    ?planFallback, ?otherFallback, ?actsAsHead, ?handsBack⟩
  case boundary =>
    rintro s f z u marks late hon rfl hpart ⟨rfl, rfl⟩ rfl
    exact (if_neg (not_not_intro hon)).trans (if_neg (Bool.eq_false_iff.mp hpart))
  case boundaryInReset =>
    rintro s f z hon rfl hpart
    exact (if_neg (not_not_intro hon)).trans (if_pos hpart)
  case close =>
    rintro s g v ⟨hcht, hslv⟩ rfl
    show execBatchClose g [] s = _
    simp [execBatchClose, hcht, hslv]
  case unasked =>
    intro s p hnone
    show execProposalArrival p s = _
    simp only [execProposalArrival, hnone]
  case heldForIntake =>
    intro s p r hr hrule hclosed
    show execProposalArrival p s = _
    simp [execProposalArrival, hr, hrule, hclosed]
  case answersBatch =>
    intro s p r hr hrule hopen
    show execProposalArrival p s = _
    simp [execProposalArrival, hr, hrule, hopen]
  case failsCheck =>
    intro s p r hr hrule
    show execProposalArrival p s = _
    simp [execProposalArrival, hr, hrule]
  case planFallback =>
    rintro s n r z hr ⟨hspent, hplan⟩ rfl
    show execProposalFallback n s = _
    simp only [execProposalFallback, hr, if_neg (Nat.not_lt.mpr hspent), if_pos hplan]
    rfl
  case otherFallback =>
    rintro s n r z hr ⟨hspent, hother⟩ rfl
    show execProposalFallback n s = _
    simp only [execProposalFallback, hr, if_neg (Nat.not_lt.mpr hspent), if_neg hother]
    rfl
  case actsAsHead =>
    rintro s z ⟨hlit, hdeputy, hhead⟩ ⟨hacting, hmissing⟩ rfl
    exact if_pos ⟨hlit, hdeputy, by simp [hhead], by simp [hacting], hmissing⟩
  case handsBack =>
    rintro s f z hf ⟨hdue, hopening⟩ rfl hnot
    show execHandbackFlash s = _
    simp [execHandbackFlash, hf, hdue, hopening, hnot]

end Sys2Proof.Machine

/-! Log copies and samples, detections, self-tests, the Warden core, seals. -/
namespace Sys2Proof.Machine

/-- Settles O43: each case gives the conditions under which the meaning takes the branch stated. -/
theorem copySelfTestAndSecurityEventsRun : Obligations.CopySelfTestAndSecurityEventsRun := by
  refine ⟨?ringMove, ?copyDone, ?cutB, ?cutA, ?sample, fun s item a b c x d => ⟨rfl, rfl⟩, ?channelCopy, ?testPasses, ?testFails,
    fun s m => rfl, ?pilotImage, ?pilotImageUnserved, ?coreStop, ?enrol, ?signature, ?publish, ?renewal, ?low, ?directWrite⟩
  case ringMove =>
    rintro s r rest z hr rfl
    show execLogRingMove s = _
    simp [execLogRingMove, hr]
  case copyDone =>
    intro s b why hcopy
    show execLogCopyDone s = _
    simp only [execLogCopyDone, hcopy]
  case cutB =>
    intro s why hcopy
    show execLogCopyCutShort s = _
    simp only [execLogCopyCutShort, hcopy, if_true]
  case cutA =>
    intro s why hcopy
    show execLogCopyCutShort s = _
    simp only [execLogCopyCutShort, hcopy, Bool.false_eq_true, if_false]
  case sample =>
    intro s x rest hx
    show execSampleRoomTimeout s = _
    simp only [execSampleRoomTimeout, hx]
  case channelCopy =>
    intro s n
    refine ⟨_, rfl, fun x hx => ?_, fun x hx hne => ?_⟩
    · simpa using (List.mem_filter.mp hx).2
    · exact List.mem_filter.mpr ⟨hx, by simpa using hne⟩
  case testPasses =>
    rintro s n z ⟨hlit, hen, hlevel, hn⟩ rfl
    show execSelftestResult n [] s = _
    simp [execSelftestResult, hlit, hen, hlevel, hn.le, hn.ne]
  case testFails =>
    rintro s n u us r z ⟨hlit, hen, hlevel, hn⟩ rfl rfl
    show execSelftestResult n (u :: us) s = _
    simp [execSelftestResult, hlit, hen, hlevel, hn.le, hn.ne]
  case pilotImage =>
    rintro s image z hserving rfl
    exact congrArg Host.Outcome.next (if_pos hserving)
  case pilotImageUnserved =>
    intro s image hserving
    exact congrArg Host.Outcome.next (if_neg (Bool.eq_false_iff.mp hserving))
  case coreStop =>
    intro s core hcore
    refine ⟨_, { s.work.pilots[core.toNat] with running := false }, rfl, ?_, rfl, fun n hn => ?_⟩
    · exact (getElem?_modifyAt ..).trans (by rw [if_pos rfl, List.getElem?_eq_getElem hcore, Option.map_some])
    · exact (getElem?_modifyAt ..).trans (if_neg (Ne.symm hn))
  case enrol =>
    rintro s e b ⟨he, hb⟩
    show execEnrolVerifyDone s = _
    simp only [execEnrolVerifyDone, he, hb]
  case signature =>
    rintro s j z hj rfl
    show execSignatureDone s = _
    cases hwhat : j.what <;> simp only [execSignatureDone, hj, hwhat]
  case publish =>
    rintro s js z rfl rfl hlit
    exact congrArg Host.Outcome.next (if_pos hlit)
  case renewal =>
    intro s x hdue hlit
    show execSealRenewal s = _
    simp only [execSealRenewal, hdue, hlit, if_true, List.foldl_cons, List.foldl_nil]
  case low =>
    rintro s x z hdue rfl
    show execSealLow s = _
    simp only [execSealLow, hdue, List.foldl_cons, List.foldl_nil]
  case directWrite =>
    rintro s x a y ⟨hdue, hmissing⟩ hlit rfl
    show execSealDirectWrite s = _
    simp only [execSealDirectWrite, hdue, hmissing, hlit, not_true_eq_false, if_false, List.foldl_cons, List.foldl_nil]

end Sys2Proof.Machine

/-! Launches, tiles and Lantern deadlines of an endpoint's slots; packets that arrive at an endpoint and at a switch agent. -/
namespace Sys2Proof.Machine

/-- An agent's record bears the address it is looked up by. -/
@[simp] theorem State.agent_addr (s : State) (a : Addr) : (s.agent a).addr = a := by
  unfold State.agent
  cases hfind : s.agents.find? (fun x => x.addr == a) with
  | none => rfl
  | some g => exact eq_of_beq (List.find?_some (p := fun x : Agent => x.addr == a) hfind)

/-- In SERVE or by coordinate, a packet is not refused for want of SERVE. -/
theorem unserved_eq_false {serve amode : Bool} (h : serve = true ∨ amode = true) : (!serve && !amode) = false := by
  rcases h with rfl | rfl
  · rfl
  · exact Bool.and_false _

/-! ### A packet the endpoint takes goes by its OPKIND (R458) -/

/-- What an endpoint does with a packet it takes, once the packet has left its buffer: the part of R458 for the kinds past the management ones. -/
def State.endpointTaken (z : State) (a : Addr) (port : Nat) (p : Packet) : State :=
  let k := p.hdr.opkind.toNat
  if k = 0x06 then z.agTimeReply a port p
  else if k = 0x13 then z.endpointAck a port p.hdr p.payload
  else if 0x10 ≤ k ∧ k ≤ 0x12 then z.endpointBulk a port p
  else if 0x20 ≤ k ∧ k ≤ 0x24 then z.endpointColl a port p
  else if k = 0x31 then z.endpointLantern a p
  else z.agMalformed a

theorem State.endpointTaken_bulk (z : State) (a : Addr) (port : Nat) {p : Packet} (hk : 0x10 ≤ p.hdr.opkind.toNat ∧ p.hdr.opkind.toNat ≤ 0x12) :
    z.endpointTaken a port p = z.endpointBulk a port p := by
  unfold State.endpointTaken
  rw [if_neg (by omega), if_neg (by omega), if_pos hk]

theorem State.endpointTaken_coll (z : State) (a : Addr) (port : Nat) {p : Packet} (hk : 0x20 ≤ p.hdr.opkind.toNat ∧ p.hdr.opkind.toNat ≤ 0x24) :
    z.endpointTaken a port p = z.endpointColl a port p := by
  unfold State.endpointTaken
  rw [if_neg (by omega), if_neg (by omega), if_neg (by omega), if_pos hk]

/-- A packet past the management kinds, well formed, of the endpoint's slice and in SERVE or by coordinate, returns its credits and is taken. -/
theorem execEndpointPacketArrival_of_taken {s : State} {agent : Addr} {port : Nat} {p : Packet} (hform : headerRefusal false p.hdr = 0)
    (hok : (s.agent agent).sliceOk p.hdr = true ∧ ((s.agent agent).serve = true ∨ p.hdr.amode = true)) (hk : 6 ≤ p.hdr.opkind.toNat) :
    execEndpointPacketArrival agent port p s = .next ((s.agReturn agent port p.hdr).endpointTaken agent port p) := by
  obtain ⟨hslice, hserve⟩ := hok
  have hpast : p.hdr.opkind.toNat ≠ 1 ∧ ¬ p.hdr.opkind.toNat ≤ 4 ∧ ¬ p.hdr.opkind.toNat ≤ 5 := by omega
  simp only [execEndpointPacketArrival, State.endpointTaken, hform, hslice, hpast, unserved_eq_false hserve, Bool.not_true, Bool.false_eq_true, ne_eq,
    not_true_eq_false, false_and, and_false, if_false]

/-- R458: an endpoint before FA3 takes packets of every slice. -/
theorem Agent.sliceOk_of_gen_ne {g : Agent} (h : Hdr) (hgen : agentGen g.addr ≠ 3) : g.sliceOk h = true := by
  simp [Agent.sliceOk, hgen]

/-- R458: an FA3 endpoint takes no packet of another slice off VC0. -/
theorem Agent.sliceOk_fa3_foreign {g : Agent} {h : Hdr} (hgen : agentGen g.addr = 3) (hslice : h.slice.toNat ≠ g.slice) (hvc : h.vc ≠ 0) :
    g.sliceOk h = false := by
  simp only [Agent.sliceOk, hgen, bne_self_eq_false, beq_eq_false_iff_ne.mpr hslice, beq_eq_false_iff_ne.mpr hvc, Bool.and_false, Bool.false_and,
    Bool.or_false]

/-! ### A packet that a switch agent does not refuse for its form (R49, R52, R160) -/

/-- A well-formed packet that is no link control goes through the checks of its ingress, SERVE first. -/
theorem execSwitchPacketIngress_of_formed {agent : Addr} {port : Nat} {p : Packet} {fault : Nat} {s : State}
    (h : headerRefusal false p.hdr = 0 ∧ p.hdr.opkind ≠ 1) :
    execSwitchPacketIngress agent port p fault s = .next (
      if !(s.agent agent).serve && !p.hdr.amode then s.agDiscard agent port p.hdr .unroute
      else if !(s.agent agent).ingressOk port p.hdr then s.agDiscard agent port p.hdr .source
      else if (s.agent agent).inGuard p.hdr then (s.agReturn agent port p.hdr).countReg Reg.SLV_DRAIN_DISCARD 1
      else if p.hdr.amode then s.forwardCoord agent port p fault
      else s.switchEn agent port p fault) := by
  obtain ⟨hform, hkind⟩ := h
  exact congrArg Host.Outcome.next ((if_neg hkind).trans (if_neg (not_not_intro hform)))

/-- In SERVE or by coordinate it goes through the checks of the party and the slice, and of the guard. -/
theorem execSwitchPacketIngress_of_served {agent : Addr} {port : Nat} {p : Packet} {fault : Nat} {s : State}
    (h : headerRefusal false p.hdr = 0 ∧ p.hdr.opkind ≠ 1) (hserve : (s.agent agent).serve = true ∨ p.hdr.amode = true) :
    execSwitchPacketIngress agent port p fault s = .next (
      if !(s.agent agent).ingressOk port p.hdr then s.agDiscard agent port p.hdr .source
      else if (s.agent agent).inGuard p.hdr then (s.agReturn agent port p.hdr).countReg Reg.SLV_DRAIN_DISCARD 1
      else if p.hdr.amode then s.forwardCoord agent port p fault
      else s.switchEn agent port p fault) :=
  (execSwitchPacketIngress_of_formed h).trans (congrArg Host.Outcome.next (if_neg (Bool.eq_false_iff.mp (unserved_eq_false hserve))))

/-- Settles O47: each case gives the conditions under which the meaning takes the branch stated. -/
theorem endpointAndSwitchRun : Obligations.EndpointAndSwitchRun := by
  refine ⟨?launchStarts, ?launchQueued, ?launchNotLive, ?tileKept, ?tileCounts, ?deadlineResends, ?deadlineSpent, ?timeReply, ?windowAck, ?bulk,
    ?collective, ?lantern, ?malformed, ?foreignSlice, ?unserved, ?badIngress, ?guarded, ?coordinate, ?enMode⟩
  case launchStarts =>
    rintro s agent slot v x ⟨rfl, rfl⟩ ⟨hserve, hopen⟩ ⟨hqueued, hrunning, hfrozen⟩
    show execAgentLaunch agent slot s = _
    simp [execAgentLaunch, hserve, hopen, hqueued, hrunning, hfrozen]
  case launchQueued =>
    rintro s agent slot v x ⟨rfl, rfl⟩ ⟨hserve, hopen⟩ ⟨hqueued, hbusy⟩
    show execAgentLaunch agent slot s = _
    simp [execAgentLaunch, hserve, hopen, hqueued, hbusy]
  case launchNotLive =>
    rintro s agent slot v x ⟨rfl, rfl⟩ hclosed
    exact congrArg Host.Outcome.next (if_pos (by simpa using hclosed))
  case tileKept =>
    rintro s agent slot v x ⟨rfl, rfl⟩ ⟨hqueued, hspent⟩
    exact congrArg Host.Outcome.next (if_pos (by simpa [hqueued] using hspent))
  case tileCounts =>
    rintro s agent slot v x ⟨rfl, rfl⟩ ⟨hrunning, hleft⟩
    exact congrArg Host.Outcome.next ((if_neg (by simpa [hrunning, or_iff_not_imp_left] using hleft)).trans (if_pos hrunning))
  case deadlineResends =>
    rintro s agent slot v x n ⟨rfl, rfl⟩ ⟨hattempt, hrunning, hfrozen, hreleased⟩ hleft
    show execAgentLanternDeadline agent slot s = _
    simp [execAgentLanternDeadline, hattempt, hrunning, hfrozen, hreleased, Nat.not_le.mpr hleft]
  case deadlineSpent =>
    rintro s agent slot v x n ⟨rfl, rfl⟩ ⟨hattempt, hrunning, hfrozen, hreleased⟩ hspent
    show execAgentLanternDeadline agent slot s = _
    simp [execAgentLanternDeadline, hattempt, hrunning, hfrozen, hreleased, hspent]
  case timeReply =>
    rintro s agent port p z hform rfl hok hk
    refine (execEndpointPacketArrival_of_taken hform hok (by omega)).trans ?_
    simp only [State.endpointTaken, hk, if_true]
  case windowAck =>
    rintro s agent port p z hform rfl hok hk
    refine (execEndpointPacketArrival_of_taken hform hok (by omega)).trans ?_
    simp [State.endpointTaken, hk]
  case bulk =>
    rintro s agent port p z hform rfl hok hk
    exact (execEndpointPacketArrival_of_taken hform hok (by omega)).trans (congrArg _ (State.endpointTaken_bulk _ _ _ (by omega)))
  case collective =>
    rintro s agent port p z hform rfl hok hk
    exact (execEndpointPacketArrival_of_taken hform hok (by omega)).trans (congrArg _ (State.endpointTaken_coll _ _ _ (by omega)))
  case lantern =>
    rintro s agent port p z hform rfl hok hk
    refine (execEndpointPacketArrival_of_taken hform hok (by omega)).trans ?_
    simp [State.endpointTaken, hk]
  case malformed =>
    intro s agent port p hform hk
    show execEndpointPacketArrival agent port p s = _
    simp [execEndpointPacketArrival, hform, hk]
  case foreignSlice =>
    rintro s agent port p z hform rfl ⟨hslice, hvc⟩ ⟨hserve, hlo, hhi⟩
    by_cases hgen : agentGen agent = 3
    · have hrefused : (s.agent agent).sliceOk p.hdr = false := Agent.sliceOk_fa3_foreign (by simpa using hgen) hslice hvc
      show execEndpointPacketArrival agent port p s = _
      simp [execEndpointPacketArrival, hform, hrefused, hgen, show p.hdr.opkind.toNat ≠ 1 by omega]
    · have htaken : (s.agent agent).sliceOk p.hdr = true := Agent.sliceOk_of_gen_ne _ (by simpa using hgen)
      refine (execEndpointPacketArrival_of_taken hform ⟨htaken, .inl hserve⟩ (by omega)).trans ?_
      rw [if_neg hgen, State.endpointTaken_bulk _ _ _ ⟨hlo, hhi⟩]
  case unserved =>
    rintro s agent port p fault g rfl hformed ⟨hserve, hen⟩
    exact (execSwitchPacketIngress_of_formed hformed).trans (by simp [hserve, hen])
  case badIngress =>
    rintro s agent port p fault g rfl hformed hserves hbad
    exact (execSwitchPacketIngress_of_served hformed hserves).trans (by simp [hbad])
  case guarded =>
    rintro s agent port p fault g rfl hformed hserves hok hguard
    exact (execSwitchPacketIngress_of_served hformed hserves).trans (by simp [hok, hguard])
  case coordinate =>
    rintro s agent port p fault g rfl hformed hok hclear hcoord
    exact (execSwitchPacketIngress_of_served hformed (.inr hcoord)).trans (by simp [hok, hclear, hcoord])
  case enMode =>
    rintro s agent port p fault g rfl hformed hok hclear ⟨hserve, hen⟩
    exact (execSwitchPacketIngress_of_served hformed (.inl hserve)).trans (by simp [hok, hclear, hen])

end Sys2Proof.Machine

/-! Host commands on charts, slices and plans. -/
namespace Sys2Proof.Machine

/-! ### A host command that commits (R467, R468) -/

/-- A change of one window that keeps a reading of it keeps that reading of every window. -/
theorem State.window_onWindow_proj {β : Type} (r : Window → β) {f : Window → Window} (hf : ∀ x, r (f x) = r x) (s : State) (w v : Nat) :
    r ((s.onWindow w f).window v) = r (s.window v) := by
  show r ((modifyAt f w s.hif.windows).getD v Window.reset) = r (s.hif.windows.getD v Window.reset)
  by_cases hv : v = w
  · subst hv
    by_cases hlen : v < s.hif.windows.length
    · rw [getD_modifyAt_self f _ hlen, hf]
    · rw [List.getD_eq_default _ _ (by simpa [length_modifyAt] using hlen), List.getD_eq_default _ _ (Nat.not_lt.mp hlen)]
  · rw [getD_modifyAt_ne f _ _ hv]

/-- A word written to the block of a window that may commit leaves it so: the write changes neither STATE nor LAST_SEQ (R468). -/
theorem State.commits_writeCmdWord {s : State} {w : Nat} {seq : BitVec 16} (h : s.commits w seq = true) (i : Nat) (v : Word) :
    (s.writeCmdWord w i v).commits w seq = true := by
  have hfree : (s.window w).st ≠ .busy := by
    intro hbusy
    simp [State.commits, hbusy] at h
  rw [State.writeCmdWord, if_neg hfree]
  refine (State.window_onWindow_proj (fun x => x.st != .busy && x.lastSeq != seq) ?_ s w w).trans h
  exact fun _ => rfl

theorem State.commits_foldl_writeCmdWord {w : Nat} {seq : BitVec 16} (l : List (Word × Nat)) {s : State} (h : s.commits w seq = true) :
    (l.foldl (fun s x => s.writeCmdWord w x.2 x.1) s).commits w seq = true := by
  induction l generalizing s with
  | nil => exact h
  | cons x l ih => exact ih (State.commits_writeCmdWord h x.2 x.1)

/-- A host command that commits runs on the state in which its arguments stand (R468). -/
theorem State.issue_of_commits {s B : State} {c : HostCmd} {opcode : Nat} (h : s.Commits c opcode B) (run : Nat → State → State) :
    s.issue c opcode run = run c.win.toNat B := by
  obtain ⟨hreaches, hcommits, rfl⟩ := h
  exact (if_neg (not_not_intro hreaches)).trans (if_pos (State.commits_foldl_writeCmdWord _ hcommits))

/-! ### What the commands on charts, slices and plans do with arguments in their ranges (R78, R85, R161, R165, R184, R284, R469) -/

/-- LOAD_CHART of a slot that is not locked, with a whole address and a length in range (R78). -/
theorem cmdLoadChart_of_valid {B : State} {w : Nat} (hslot : (B.arg w 1).toNat ≤ 3) (haddr : (B.arg w 2).toNat % 4 = 0)
    (hlen : 128 ≤ (B.arg w 4).toNat ∧ (B.arg w 4).toNat ≤ 4194304 ∧ (B.arg w 4).toNat % 4 = 0)
    (hfree : B.slotLocked (B.arg w 1).toNat = false) :
    cmdLoadChart w B =
      (B.onSlot (B.arg w 1).toNat fun x =>
        { x with prev := x.shadow, shadow := .loading, loadLen := (B.arg w 4).toNat, loadWin := w }).startDma w (.chart (B.arg w 1).toNat)
          ((B.arg w 2).toNat + (B.arg w 3).toNat * 2 ^ 32) (B.arg w 4).toNat fun s =>
            s.onSlot (B.arg w 1).toNat fun x => { x with shadow := x.prev, loadWin := 16 } := by
  simp only [cmdLoadChart, hfree]
  rw [if_neg (by omega), if_neg (by omega), if_neg (by omega), if_neg Bool.false_ne_true]
  rfl

/-- SLICE_CREATE and SLICE_RESEAL read their descriptor (R161). -/
theorem cmdSliceFetch_of_valid {B : State} {w : Nat} (reseal : Bool) (hlit : B.lit = true) (haddr : (B.arg w 1).toNat % 4 = 0)
    (hlen : 16 ≤ (B.arg w 3).toNat ∧ (B.arg w 3).toNat ≤ 2320 ∧ (B.arg w 3).toNat % 4 = 0) :
    cmdSliceFetch reseal w B = B.startDma w (.slice reseal) ((B.arg w 1).toNat + (B.arg w 2).toNat * 2 ^ 32) (B.arg w 3).toNat id := by
  simp only [cmdSliceFetch]
  rw [if_neg (not_not_intro hlit), if_neg (by omega), if_neg (by omega)]

/-- SLICE_DRAIN and SLICE_DESTROY issue their request under the slice's ID (R165). -/
theorem cmdSliceOp_of_valid {B : State} {w : Nat} (op : Nat) (hlit : B.lit = true) (hslice : (B.arg w 1).toNat ≤ 255) :
    cmdSliceOp op w B = B.issueSlice w op (B.arg w 1).toNat [] := by
  rw [cmdSliceOp, if_neg (not_not_intro hlit), if_neg (by omega)]

/-- PLAN_COLLECTIVE reads its descriptor (R184). -/
theorem cmdPlanCollective_of_valid {B : State} {w : Nat} (hlit : B.lit = true) (haddr : (B.arg w 1).toNat % 4 = 0)
    (hlen : 64 ≤ (B.arg w 3).toNat ∧ (B.arg w 3).toNat ≤ 16448 ∧ (B.arg w 3).toNat % 4 = 0) :
    cmdPlanCollective w B = B.startDma w .plan ((B.arg w 1).toNat + (B.arg w 2).toNat * 2 ^ 32) (B.arg w 3).toNat id := by
  simp only [cmdPlanCollective]
  rw [if_neg (not_not_intro hlit), if_neg (by omega), if_neg (by omega)]

/-- The request that ABORT_COLLECTIVE of a window leaves to be sent to the head (R284). -/
def State.abortRequest (B : State) (w : Nat) : PlanIssued :=
  { win := w, tag := B.clp.nextTag, abort := true, slice := (B.arg w 1).toNat, ordinal := (B.arg w 2).toNat, words := [], flash := B.tim.flash }

/-- ABORT_COLLECTIVE adds its request and moves on to the next tag (R284). -/
theorem cmdAbortCollective_of_valid {B : State} {w : Nat} (hlit : B.lit = true) (hslice : (B.arg w 1).toNat ≤ 255)
    (hmatch : B.flag Fld.CHT_STATE_HEAD_MISMATCH = false) :
    cmdAbortCollective w B =
      B.onClp fun c => { c with issued := c.issued ++ [B.abortRequest w], nextTag := (c.nextTag + 1) % 4096 } := by
  simp only [cmdAbortCollective, hmatch]
  rw [if_neg (not_not_intro hlit), if_neg (by omega), if_neg Bool.false_ne_true]
  rfl

/-- Settles O28: a command that commits runs on the state of its arguments (issue_of_commits), and there takes the branch of valid arguments. -/
theorem hostCommandsOnChartsAndSlicesRun : Obligations.HostCommandsOnChartsAndSlicesRun := by
  refine ⟨?loadChart, ?lightChart, ?store, ?sliceCreate, ?sliceReseal, ?sliceDrain, ?sliceDestroy, ?planCollective, ?abortCollective⟩
  case loadChart =>
    rintro s B c h hslot ⟨haddr, hlen⟩ hfree
    exact congrArg Host.Outcome.next ((State.issue_of_commits h _).trans (cmdLoadChart_of_valid hslot haddr hlen hfree))
  case lightChart =>
    intro s B c h hlit hslot
    exact congrArg Host.Outcome.next
      ((State.issue_of_commits h _).trans ((if_neg (not_not_intro hlit)).trans (if_neg (Nat.not_lt.mpr hslot))))
  case store =>
    intro s B c h hslots
    exact congrArg Host.Outcome.next ((State.issue_of_commits h _).trans (if_neg (Nat.not_le.mpr hslots)))
  case sliceCreate =>
    intro s B c h hlit haddr hlen
    exact congrArg Host.Outcome.next ((State.issue_of_commits h _).trans (cmdSliceFetch_of_valid false hlit haddr hlen))
  case sliceReseal =>
    intro s B c h hlit haddr hlen
    exact congrArg Host.Outcome.next ((State.issue_of_commits h _).trans (cmdSliceFetch_of_valid true hlit haddr hlen))
  case sliceDrain =>
    intro s B c h hlit hslice
    exact congrArg Host.Outcome.next ((State.issue_of_commits h _).trans (cmdSliceOp_of_valid 3 hlit hslice))
  case sliceDestroy =>
    intro s B c h hlit hslice
    exact congrArg Host.Outcome.next ((State.issue_of_commits h _).trans (cmdSliceOp_of_valid 4 hlit hslice))
  case planCollective =>
    intro s B c h hlit haddr hlen
    exact congrArg Host.Outcome.next ((State.issue_of_commits h _).trans (cmdPlanCollective_of_valid hlit haddr hlen))
  case abortCollective =>
    intro s B c h hlit hslice hmatch
    exact ⟨_, congrArg Host.Outcome.next ((State.issue_of_commits h _).trans (cmdAbortCollective_of_valid hlit hslice hmatch)), rfl, rfl⟩

end Sys2Proof.Machine

/-! The messages of head duty. -/
namespace Sys2Proof.Machine

/-! ### The chart that the head has lit (R89) -/

theorem State.raise_chart (s : State) (f : Fld) : (s.raise f).chart = s.chart :=
  (State.raise_kept (F := 0xFFFFFFFF00000009) rfl (bit_all (m := 0xFFFFFFFF00000009) rfl rfl) (State.Kept.refl _ s)).same.chart rfl

theorem State.flood_chart (s : State) (m : KMsg) : (s.flood m).chart = s.chart :=
  (State.flood_kept (F := 0x41) rfl (State.Kept.refl _ s)).same.chart rfl

/-- With no chart to come at the head, judging the mismatch changes no chart. -/
theorem State.judgeMismatch_chart {s : State} (hnext : s.chart.headNext = none) : s.judgeMismatch.chart = s.chart := by
  simp only [State.judgeMismatch, hnext]
  split
  · split
    · rfl
    · split
      · rfl
      · rw [State.raise_chart]
        rfl
  · rfl

/-- Announcing the handback leaves the digest of the head's chart. -/
theorem State.announceHandback_headDigest (s : State) : s.announceHandback.chart.headDigest = s.chart.headDigest := by
  unfold State.announceHandback
  extract_lets same
  split
  · rw [State.flood_chart]
  · rfl

/-- HEAD_BEAT makes the head's lit chart known (R89). -/
theorem State.gotHeadBeat_headDigest {v : State} (hnext : v.chart.headNext = none) (src : Addr) (m : KMsg) :
    (v.gotHeadBeat src m).chart.headDigest = some m.digest := by
  rw [State.gotHeadBeat, State.announceHandback_headDigest, State.judgeMismatch_chart]
  exact hnext

/-! ### Graphs and states that Keepers send each other (R382, R383, R387) -/

/-- GRAPH_REQ is answered by the head and the deputy, part by part. -/
theorem State.gotGraphReq_of_answers {v : State} (src : Addr) (m : KMsg) (hrack : v.inHeadRack = true ∨ v.inDeputyRack = true) :
    v.gotGraphReq src m = (partsOf { v.kmsg 0x55 with epoch := w32 v.slv.epoch } v.graphRecords).foldl (fun s m => s.tell src m) v := if_pos hrack

/-- A GRAPH with all its parts, of the epoch held, replaces the graph of a unit that does not rebuild. -/
theorem State.gotGraph_of_whole {v u : State} {m : KMsg} {ws : List Word} (src : Addr) (hall : v.collect m = (u, some ws))
    (hrebuild : u.mor.rebuild = false) (hepoch : m.epoch.toNat = u.slv.epoch) :
    v.gotGraph src m =
      { u with slv := { u.slv with graph := ws.foldl (Graph.apply u.axes.1) { uplinks := [], eps := [], keepers := [] } } } := by
  simp only [State.gotGraph, hall]
  rw [if_pos (Bool.eq_false_iff.mp hrebuild), if_pos hepoch]

/-- Settles O34: a message taken goes to the act of its type (takeMsg_of_takes). -/
theorem headMessagesTakeEffect : Obligations.HeadMessagesTakeEffect := by
  refine ⟨?headBeat, ?handback, ?stateQuery, ?stateReply, ?graphReq, ?graph⟩
  case headBeat =>
    intro s v port p src m h hnext
    exact ⟨_, congrArg Host.Outcome.next (State.takeMsg_of_takes _ h), State.gotHeadBeat_headDigest hnext src m⟩
  case handback =>
    intro s v port p src m h
    exact ⟨_, congrArg Host.Outcome.next (State.takeMsg_of_takes _ h), rfl, rfl, rfl⟩
  case stateQuery =>
    rintro s v port p src m z ws h rfl rfl
    exact congrArg Host.Outcome.next (State.takeMsg_of_takes _ h)
  case stateReply =>
    rintro s v port p src m h ⟨hacting, hlit⟩
    refine congrArg Host.Outcome.next ((State.takeMsg_of_takes _ h).trans (if_neg ?_))
    simp [hacting, hlit]
  case graphReq =>
    intro s v port p src m h hrack
    exact congrArg Host.Outcome.next ((State.takeMsg_of_takes _ h).trans (State.gotGraphReq_of_answers src m hrack))
  case graph =>
    intro s v port p src m u ws h hall hrebuild hepoch
    exact ⟨_, congrArg Host.Outcome.next ((State.takeMsg_of_takes _ h).trans (State.gotGraph_of_whole src hall hrebuild hepoch)), rfl, rfl⟩

end Sys2Proof.Machine

/-! Events of the chart engine and of the route solver. -/
namespace Sys2Proof.Machine

/-- A STORE block written with none worn and none failed (R83): every block counts as written and none as retired. -/
theorem execStoreWriteDone_of_sound {s : State} {j : StoreJob} {n : Nat} {rest : List Nat} (hjob : s.chart.store = some j)
    (hslots : j.slots = n :: rest) (hwriting : (s.slot n).nvm = .writing) (hworn : ((s.storeBlocks j).filter fun b => 100000 ≤ s.blockCount b) = []) :
    execStoreWriteDone 0 s =
      .next ((((s.writeBlocks (s.storeBlocks j) []).storeStep j (s.storeBlocks j).length 0).stageInput .cht .acted).storeNext) := by
  simp [execStoreWriteDone, hjob, hslots, hwriting, hworn]

/-- Settles O36: each case gives the conditions under which the meaning takes the branch stated; STORE_WRITE_DONE by execStoreWriteDone_of_sound. -/
theorem chartAndRouteEventsRun : Obligations.ChartAndRouteEventsRun := by
  refine ⟨?chartChecked, ?storeWritten, ?chartWithdrawn, ?bankLight, ?chartLight, ?bootLight, ?verdict, ?loadedUndated, ?loadedDated,
    ?bankPostponed, ?chartPostponed, ?goAgain, ?fence⟩
  case chartChecked =>
    rintro s n ⟨hloading, hread⟩
    exact congrArg Host.Outcome.next (if_pos ⟨hloading, Bool.eq_false_iff.mp hread⟩)
  case storeWritten =>
    rintro s j n rest z ⟨hjob, hslots⟩ hwriting hworn rfl
    exact execStoreWriteDone_of_sound hjob hslots hwriting hworn
  case chartWithdrawn =>
    rintro s a ha ⟨hhead, hconfirmed⟩ hspent
    show execChartAnnounceWithdrawal s = _
    simp only [execChartAnnounceWithdrawal, ha]
    exact if_pos ⟨hhead, Bool.eq_false_iff.mp hconfirmed, hspent⟩
  case bankLight =>
    rintro s ⟨hopening, hserving⟩ ⟨hphase, hdated, hdue⟩
    exact congrArg Host.Outcome.next (if_pos ⟨hopening, hserving, hphase, hdated, hdue⟩)
  case chartLight =>
    rintro s a c hopening ⟨harm, hchart⟩ hdue
    show execChartLight s = _
    simp only [execChartLight, harm, hchart]
    exact (if_neg (not_not_intro hopening)).trans (if_pos hdue)
  case bootLight =>
    rintro s ⟨hdark, hopening⟩
    refine if_neg ?_
    simp [hdark, hopening]
  case verdict =>
    intro s x hphase
    exact congrArg Host.Outcome.next (if_pos hphase)
  case loadedUndated =>
    rintro s ⟨hphase, hloaded⟩ hdated
    exact (if_pos ⟨hphase, List.isEmpty_iff.mpr hloaded⟩).trans (congrArg Host.Outcome.next (if_neg (not_not_intro hdated)))
  case loadedDated =>
    rintro s ⟨hphase, hloaded⟩ hdated
    exact (if_pos ⟨hphase, List.isEmpty_iff.mpr hloaded⟩).trans (congrArg Host.Outcome.next (if_pos hdated))
  case bankPostponed =>
    rintro s ⟨hannounced, hdue⟩ hmissing hnochart
    show execReadyDeadline s = _
    simp only [execReadyDeadline]
    rw [if_pos ⟨hannounced, hdue, Bool.eq_false_iff.mp hmissing⟩, hnochart]
  case chartPostponed =>
    rintro s a hnobank ⟨ha, hdue⟩ hmissing
    show execReadyDeadline s = _
    simp only [execReadyDeadline]
    rw [if_neg (fun h => Bool.eq_false_iff.mp hnobank h.1), ha]
    exact congrArg Host.Outcome.next (if_pos ⟨hdue, Bool.eq_false_iff.mp hmissing⟩)
  case goAgain =>
    rintro s ⟨hphase, hgo⟩
    exact congrArg Host.Outcome.next (if_pos ⟨hphase, hgo⟩)
  case fence =>
    rintro s r ⟨hhead, hactive, hconfirmed⟩ hspent hsilent
    exact if_pos ⟨hhead, hactive, Bool.eq_false_iff.mp hconfirmed, hspent, Bool.eq_false_iff.mp hsilent⟩

end Sys2Proof.Machine

/-! The messages of the epoch exchange. -/
namespace Sys2Proof.Machine

/-! ### What the head notes of a rack (R138, R142) -/

/-- A rack noted once is in the list of racks noted. -/
theorem contains_noted (r : Nat) (l : List Nat) : (if l.contains r then l else r :: l).contains r = true := by
  split
  · assumption
  · simp

/-- The head's registers follow its record and leave it (R152). -/
@[simp] theorem State.showHead_slv (s : State) : s.showHead.slv = s.slv := rfl

/-- BANK_READY for the epoch in publication adds the rack and its drain set to the head's record (R142). -/
theorem State.gotBankReady_of_active {v : State} {m : KMsg} (src : Addr)
    (h : v.isHead = true ∧ v.slv.head.active = true ∧ v.slv.head.epoch = m.epoch.toNat) :
    (v.gotBankReady src m).slv.head = { v.slv.head with
      ready1 := if v.slv.head.ready1.contains (v.rackOf src) then v.slv.head.ready1 else v.rackOf src :: v.slv.head.ready1
      dset := v.slv.head.dset ||| m.set } := by
  rw [State.gotBankReady, if_pos h]
  rfl

/-- READY for the epoch in publication adds the rack to the head's record (R142). -/
theorem State.gotReady_of_active {v : State} {m : KMsg} (src : Addr) (hhead : v.isHead = true) (hsubject : m.subject = false)
    (hactive : v.slv.head.active = true ∧ v.slv.head.epoch = m.epoch.toNat) :
    (v.gotReady src m).slv.head = { v.slv.head with
      ready2 := if v.slv.head.ready2.contains (v.rackOf src) then v.slv.head.ready2 else v.rackOf src :: v.slv.head.ready2 } := by
  simp only [State.gotReady, hsubject]
  rw [if_neg (not_not_intro hhead), if_neg Bool.false_ne_true, if_pos hactive]
  rfl

/-- LIT_REPORT adds the rack to those that lit their bank (R138). -/
theorem State.gotLitReport_of_head {v : State} (src : Addr) (m : KMsg) (hhead : v.isHead = true) :
    (v.gotLitReport src m).slv.head = { v.slv.head with
      litRacks := if v.slv.head.litRacks.contains (v.rackOf src) then v.slv.head.litRacks else v.rackOf src :: v.slv.head.litRacks } := by
  rw [State.gotLitReport, if_pos hhead]
  rfl

/-- NOT_READY for the epoch in publication: the READY of the rack no longer stands, and the head withdraws or postpones (R142, R149). -/
theorem State.gotNotReady_of_active {v : State} {m : KMsg} (src : Addr) (hhead : v.isHead = true) (hsubject : m.subject = false)
    (hactive : v.slv.head.active = true ∧ v.slv.head.epoch = m.epoch.toNat) :
    v.gotNotReady src m =
      if bitsOf m.count 0 8 = 4 then (v.onHead fun h => { h with ready2 := h.ready2.filter (· != v.rackOf src) }).showHead.refusedBank
      else (v.onHead fun h => { h with ready2 := h.ready2.filter (· != v.rackOf src) }).showHead.postponeBank := by
  simp only [State.gotNotReady, hsubject]
  rw [if_neg (not_not_intro hhead), if_neg Bool.false_ne_true, if_pos hactive]

/-! ### Epochs (R139, R140) -/

/-- An EPOCH with all its parts, of an epoch to come, waits for the intake of a Keeper that does not rebuild (R139). -/
theorem State.gotEpoch_of_whole {v u : State} {m : KMsg} {ws : List Word} (src : Addr) (hlater : v.slv.epoch < m.epoch.toNat)
    (hall : v.collect m = (u, some ws)) (hrebuild : u.mor.rebuild = false) :
    v.gotEpoch src m =
      { u with slv := { u.slv with waiting := u.slv.waiting ++ [{ epoch := m.epoch.toNat, full := m.full, recs := ws }] } } := by
  simp only [State.gotEpoch, hall, if_neg (Nat.not_le.mpr hlater)]
  exact if_neg (Bool.eq_false_iff.mp hrebuild)

/-- EPOCH_REQ is answered by a head that sent the epoch (R139). -/
theorem State.gotEpochReq_of_sent {v : State} {m : KMsg} {x : EpochRec × SliceSet × List Word} (src : Addr) (hhead : v.isHead = true)
    (hsent : v.slv.head.sent.find? (fun x => x.1.epoch == m.epoch.toNat) = some x) :
    v.gotEpochReq src m = v.sendEpoch x.1 x.2.1 x.2.2 (some src) := by
  simp only [State.gotEpochReq, hsent]
  exact if_pos hhead

/-- ANNOUNCE of the epoch that this Keeper has solved arms its agents (R140). -/
theorem State.gotAnnounce_of_solved {v : State} {m : KMsg} (src : Addr) (hsubject : m.subject = false) (hrebuild : v.mor.rebuild = false)
    (hepoch : m.epoch.toNat = v.slv.cycle.epoch) (hsolved : v.slv.cycle.phase = .solved) :
    v.gotAnnounce src m = (v.takeAnnounce m.flash.toNat m.set).armBank := by
  have hheld : ¬ (m.epoch.toNat ≠ v.slv.cycle.epoch ∨ v.slv.cycle.phase = .idle) := by simp [hepoch, hsolved]
  have hopen : v.slv.cycle.phase ≠ .confirmed := by simp [hsolved]
  simp only [State.gotAnnounce, hsubject, hrebuild]
  rw [if_neg Bool.false_ne_true, if_neg Bool.false_ne_true, if_neg hheld, if_neg hopen, hsolved]

/-- ANNOUNCE of another epoch is noted and refused with reason 7 (R142). -/
theorem State.gotAnnounce_of_other {v : State} {m : KMsg} (src : Addr) (hsubject : m.subject = false) (hrebuild : v.mor.rebuild = false)
    (hepoch : m.epoch.toNat ≠ v.slv.cycle.epoch) :
    v.gotAnnounce src m =
      ({ v with slv := { v.slv with heard := some (m.epoch.toNat, m.flash.toNat, m.set) } } : State).notReady m.epoch.toNat 7 := by
  simp only [State.gotAnnounce, hsubject, hrebuild]
  rw [if_neg Bool.false_ne_true, if_neg Bool.false_ne_true, if_pos (.inl hepoch)]

/-- POSTPONE gives armed agents their new flash (R140, R143). -/
theorem State.gotPostpone_of_armed {v : State} {m : KMsg} (src : Addr) (hsubject : m.subject = false) (hepoch : v.slv.cycle.epoch = m.epoch.toNat)
    (harmed : v.slv.cycle.phase = .armed) :
    v.gotPostpone src m =
      (((v.takeAnnounce m.flash.toNat v.slv.cycle.dset).countReg Reg.SLV_POSTPONES 1).raise Fld.SLV_INT_STATUS_POSTPONED).rearmAgents := by
  have hcycle : v.slv.cycle.epoch = m.epoch.toNat ∧ v.slv.cycle.phase ≠ .confirmed ∧ v.slv.cycle.phase ≠ .idle := by simp [hepoch, harmed]
  simp only [State.gotPostpone, hsubject]
  rw [if_neg Bool.false_ne_true, if_pos hcycle, if_pos harmed]

/-- CONFIRM of the epoch and flash that the agents are armed for sends GO (R144). -/
theorem State.gotConfirm_of_armed {v : State} {m : KMsg} (src : Addr) (hsubject : m.subject = false)
    (harmed : v.slv.cycle.phase = .armed ∧ v.slv.cycle.epoch = m.epoch.toNat ∧ v.slv.cycle.f = m.flash.toNat) :
    v.gotConfirm src m = v.confirmBank := by
  simp only [State.gotConfirm, hsubject]
  rw [if_neg Bool.false_ne_true, if_pos harmed]

/-- WITHDRAW of an epoch shows in WITHDRAWN, whether or not the cycle was for that epoch (R140). -/
theorem State.flag_gotWithdraw {v : State} {m : KMsg} (src : Addr) (hsubject : m.subject = false) :
    (v.gotWithdraw src m).flag Fld.SLV_INT_STATUS_WITHDRAWN = true := by
  simp only [State.gotWithdraw, hsubject]
  rw [if_neg Bool.false_ne_true]
  split
  · exact State.flag_raise_self _ _ rfl (by decide)
  · exact State.flag_raise_self _ _ rfl (by decide)

/-- Settles O30: a message taken goes to the act of its type (takeMsg_of_takes), and that takes the branch of the conditions given. -/
theorem solverMessagesTakeEffect : Obligations.SolverMessagesTakeEffect := by
  refine ⟨?rackReport, ?epoch, ?epochReq, fun s v port p src m h => congrArg Host.Outcome.next (State.takeMsg_of_takes _ h), ?bankReady,
    ?announceSolved, ?announceOther, ?ready, ?notReady, ?postpone, ?confirm, ?litReport, ?withdraw⟩
  case rackReport =>
    intro s v port p src m h hhead
    exact congrArg Host.Outcome.next ((State.takeMsg_of_takes _ h).trans (if_pos hhead))
  case epoch =>
    intro s v port p src m u ws h hlater hall hrebuild
    exact ⟨_, congrArg Host.Outcome.next ((State.takeMsg_of_takes _ h).trans (State.gotEpoch_of_whole src hlater hall hrebuild)), rfl⟩
  case epochReq =>
    intro s v port p src m x h hhead hsent
    exact congrArg Host.Outcome.next ((State.takeMsg_of_takes _ h).trans (State.gotEpochReq_of_sent src hhead hsent))
  case bankReady =>
    intro s v port p src m h hactive
    refine ⟨_, congrArg Host.Outcome.next (State.takeMsg_of_takes _ h), ?_⟩
    rw [State.gotBankReady_of_active src hactive]
    exact ⟨contains_noted _ _, rfl⟩
  case announceSolved =>
    rintro s v port p src m h ⟨hsubject, hrebuild, hepoch, hsolved⟩
    exact congrArg Host.Outcome.next ((State.takeMsg_of_takes _ h).trans (State.gotAnnounce_of_solved src hsubject hrebuild hepoch hsolved))
  case announceOther =>
    rintro s v port p src m h ⟨hsubject, hrebuild, hepoch⟩
    exact congrArg Host.Outcome.next ((State.takeMsg_of_takes _ h).trans (State.gotAnnounce_of_other src hsubject hrebuild hepoch))
  case ready =>
    rintro s v port p src m h ⟨hhead, hsubject, hactive⟩
    refine ⟨_, congrArg Host.Outcome.next (State.takeMsg_of_takes _ h), ?_⟩
    rw [State.gotReady_of_active src hhead hsubject hactive]
    exact contains_noted _ _
  case notReady =>
    rintro s v port p src m z h ⟨hhead, hsubject, hactive⟩ rfl
    exact congrArg Host.Outcome.next ((State.takeMsg_of_takes _ h).trans (State.gotNotReady_of_active src hhead hsubject hactive))
  case postpone =>
    rintro s v port p src m h ⟨hsubject, hepoch, harmed⟩
    exact congrArg Host.Outcome.next ((State.takeMsg_of_takes _ h).trans (State.gotPostpone_of_armed src hsubject hepoch harmed))
  case confirm =>
    rintro s v port p src m h ⟨hsubject, harmed⟩
    exact congrArg Host.Outcome.next ((State.takeMsg_of_takes _ h).trans (State.gotConfirm_of_armed src hsubject harmed))
  case litReport =>
    intro s v port p src m h hhead
    refine ⟨_, congrArg Host.Outcome.next (State.takeMsg_of_takes _ h), ?_⟩
    rw [State.gotLitReport_of_head src m hhead]
    exact contains_noted _ _
  case withdraw =>
    intro s v port p src m h hsubject
    exact ⟨_, congrArg Host.Outcome.next (State.takeMsg_of_takes _ h), State.flag_gotWithdraw src hsubject⟩

end Sys2Proof.Machine

/-! Host commands on security, resets, agents and telemetry. -/
namespace Sys2Proof.Machine

/-! ### The signature path (R345, R348, R354) -/

/-- ATTEST of this rack or of a slice in it, at a whole address with room for the report, queues the report (R345, R348). -/
theorem cmdAttest_of_valid {B : State} {w : Nat} (hserving : B.wdn.serving = true) (hroom : B.signFull = false)
    (haddr : (B.arg w 2).toNat % 64 = 0) (hreserved : bitsOf (B.arg w 1) 8 24 = 0)
    (hslice : bitsOf (B.arg w 1) 0 8 = 0 ∨ B.offRack (bitsOf (B.arg w 1) 0 8) = false)
    (hlen : 808 + (if bitsOf (B.arg w 1) 0 8 = 0 then 0 else (B.layoutBlock (bitsOf (B.arg w 1) 0 8)).length) ≤ (B.arg w 4).toNat) :
    cmdAttest w B = State.startSign 1 false (B.pushSign (signJob (.report w) 4)) := by
  have hhere : ¬ (bitsOf (B.arg w 1) 0 8 ≠ 0 ∧ B.offRack (bitsOf (B.arg w 1) 0 8) = true) := by
    rintro ⟨hne, hoff⟩
    exact hslice.elim hne (Bool.eq_false_iff.mp · hoff)
  simp only [cmdAttest, hroom]
  rw [if_neg (not_not_intro haddr), if_neg (not_not_intro hserving), if_neg hhere, if_neg (Nat.not_lt.mpr hlen), if_neg (not_not_intro hreserved),
    if_neg Bool.false_ne_true]

/-- The wait that ISSUE_SEAL of a window opens for its slice (R354). -/
def State.sealWaitOf (B : State) (w since : Nat) : SealWait :=
  { win := w, slice := bitsOf (B.arg w 1) 0 8, addr := pairAt [B.arg w 2, B.arg w 3] 0, len := (B.arg w 4).toNat, since := since }

/-- ISSUE_SEAL that renews, or whose slice has a seal, with none in the making: for a sealed slice of this rack, at a whole address with room for
the seal, RENEW waits for a new seal while the queue has room, and otherwise the seal that stands answers (R354). -/
theorem cmdIssueSeal_of_valid {B : State} {w : Nat} (hlit : B.lit = true) (hserving : B.wdn.serving = true)
    (hrack : B.offRack (bitsOf (B.arg w 1) 0 8) = false) (hsealed : B.isSealed (bitsOf (B.arg w 1) 0 8) = true)
    (hreserved : bitsOf (B.arg w 1) 9 23 = 0) (haddr : (B.arg w 2).toNat % 64 = 0)
    (hlen : (padStmt (zeros (388 + (B.layoutBlock (bitsOf (B.arg w 1) 0 8)).length + 114))).length ≤ (B.arg w 4).toNat)
    (hdue : B.sealDue (bitsOf (B.arg w 1) 0 8) = none) (hseal : bitAt (B.arg w 1) 8 = true ∨ (B.seal (bitsOf (B.arg w 1) 0 8)).isNone = false) :
    cmdIssueSeal w B =
      if bitAt (B.arg w 1) 8 then
        if B.signFull then B.secRefused w 7
        else (B.onWdn fun x => { x with waits := x.waits ++ [B.sealWaitOf w B.tim.flash] }).askSeal (bitsOf (B.arg w 1) 0 8) 4
      else (B.seal (bitsOf (B.arg w 1) 0 8)).elim B fun x => B.answerSeal (B.sealWaitOf w 0) x false := by
  have hstands : ¬ (¬ bitAt (B.arg w 1) 8 = true ∧ (B.seal (bitsOf (B.arg w 1) 0 8)).isNone = true
      ∧ (B.sealDue (bitsOf (B.arg w 1) 0 8)).isNone = true) := by
    rintro ⟨hrenew, hnone, -⟩
    exact hseal.elim hrenew (Bool.eq_false_iff.mp · hnone)
  rw [hdue] at hstands
  simp only [cmdIssueSeal, hdue]
  rw [if_neg (fun h => h.2 hlit), if_neg (not_not_intro haddr), if_neg (not_not_intro hserving), if_neg (Bool.eq_false_iff.mp hrack),
    if_neg (not_not_intro hsealed), if_neg hstands, if_neg (Nat.not_lt.mpr hlen), if_neg (not_not_intro hreserved)]
  cases B.seal (bitsOf (B.arg w 1) 0 8) <;> rfl

/-! ### The wake latency of a slice (R116, R480) -/

/-- SET_WAKE_LATENCY of a slice in use that touches this rack is an input of DSC's next batch (R480). -/
theorem cmdSetWakeLatency_of_valid {B : State} {w : Nat} (hlit : B.lit = true) (hid : (B.arg w 1).toNat ≠ 0 ∧ (B.arg w 1).toNat ≤ 255)
    (hused : B.sliceState (B.arg w 1).toNat ≠ 0) (htouches : B.touches (B.arg w 1).toNat B.myRack = true)
    (hns : (B.arg w 2).toNat ≤ 10000000) :
    cmdSetWakeLatency w B = B.stageInput .dsc (.wake w (B.arg w 1).toNat (B.arg w 2).toNat) := by
  have hslice : ¬ ((B.arg w 1).toNat = 0 ∨ 255 < (B.arg w 1).toNat ∨ B.sliceState (B.arg w 1).toNat = 0
      ∨ ¬ B.touches (B.arg w 1).toNat B.myRack = true) := by
    simp [hid, hused, htouches]
  simp only [cmdSetWakeLatency]
  rw [if_neg (not_not_intro hlit), if_neg hslice, if_neg (Nat.not_lt.mpr hns)]

/-- DSC's batch keeps the statement of the slice, and no other (R480). -/
theorem State.takeWakeLatency_wake {v : State} {id : Nat} (w ns : Nat) (h : v.touches id v.myRack = true) :
    (v.takeWakeLatency w id ns).link.wake = insertNat id ns v.link.wake := by
  rw [State.takeWakeLatency, if_neg (not_not_intro h)]
  rfl

/-! ### Resets by request (R391, R400, R405) -/

/-- ESCALATE_RESET of level 2 resets its engine when no wider reset is in progress (R405). -/
theorem cmdEscalate_of_engine {B : State} {w : Nat} (hrule : B.escalateRule (B.arg w 1) (B.arg w 2).toNat = 0)
    (hlevel : bitsOf (B.arg w 1) 0 3 = 2) (hpart : B.rst.part = none) :
    cmdEscalate w B = B.resetEngine (bitsOf (B.arg w 1) 8 8) 2 0 0 0 [(w, 2)] := by
  simp [cmdEscalate, hrule, hlevel, hpart]

/-- ESCALATE_RESET of level 4 to 6 decides on a reset of that level under the command's own cause (R397, R405). -/
theorem cmdEscalate_of_part {B : State} {w : Nat} (hrule : B.escalateRule (B.arg w 1) (B.arg w 2).toNat = 0)
    (hlevel : 3 < bitsOf (B.arg w 1) 0 3) :
    cmdEscalate w B = B.decidePart (bitsOf (B.arg w 1) 0 3) 0 0x0E 0 (bitAt (B.arg w 1) 3) [(w, bitsOf (B.arg w 1) 0 3)] := by
  simp only [cmdEscalate]
  rw [if_neg (not_not_intro hrule), if_neg (Nat.not_le.mpr hlevel)]

/-! ### Agents of the rack (R481, R482) -/

/-- AGENT_READ of an agent, in words of its registers and with room for them, issues its read (R481). -/
theorem cmdAgentRead_of_valid {B : State} {w : Nat} (hlit : B.lit = true) (hagent : B.isAgent ((B.arg w 1).extractLsb' 0 16) = true)
    (hreg : (B.arg w 2).toNat % 4 = 0) (haddr : (B.arg w 4).toNat % 64 = 0)
    (hcount : 1 ≤ (B.arg w 3).toNat ∧ (B.arg w 3).toNat ≤ 1020) (hlen : 4 * (B.arg w 3).toNat ≤ (B.arg w 6).toNat) :
    cmdAgentRead w B =
      B.mgmtRead ((B.arg w 1).extractLsb' 0 16) (B.arg w 2).toNat (B.arg w 3).toNat 0x01 (.hostRead w ((B.arg w 5) ++ (B.arg w 4))) := by
  simp only [cmdAgentRead]
  rw [if_neg (not_not_intro hlit), if_neg (not_not_intro hagent), if_neg (not_not_intro hreg), if_neg (by omega), if_neg (not_not_intro haddr),
    if_neg (Nat.not_lt.mpr hlen)]

/-- AGENT_WRITE of FA_CHECK_CTRL of an agent of this rack issues its write (R482). -/
theorem cmdAgentWrite_of_checkCtrl {B : State} {w : Nat} (hlit : B.lit = true) (hagent : B.isAgent ((B.arg w 1).extractLsb' 0 16) = true)
    (hrack : addrX ((B.arg w 1).extractLsb' 0 16) = B.rx ∧ addrY ((B.arg w 1).extractLsb' 0 16) = B.ry) (hreg : (B.arg w 2).toNat = 0x80) :
    cmdAgentWrite w B = B.mgmtWrite ((B.arg w 1).extractLsb' 0 16) 0x80 [B.arg w 4] 11 0 0x01 (.hostWrite w) := by
  obtain ⟨hx, hy⟩ := hrack
  have hown : ¬ (¬ B.isAgent ((B.arg w 1).extractLsb' 0 16) = true ∨ addrX ((B.arg w 1).extractLsb' 0 16) ≠ B.rx
      ∨ addrY ((B.arg w 1).extractLsb' 0 16) ≠ B.ry) := by
    simp only [hagent, hx, hy, not_true_eq_false, ne_eq, or_self, not_false_eq_true]
  simp only [cmdAgentWrite]
  rw [if_neg (not_not_intro hlit), if_neg hown, if_pos hreg]

/-! ### The load map (R322, R323) -/

/-- The host address that READ_LOADMAP of a window gives. -/
def State.loadmapAddr (B : State) (w : Nat) : Nat := (B.arg w 5).toNat + (B.arg w 6).toNat * 2 ^ 32

/-- The frames that READ_LOADMAP of a window selects from the fine ring (R322). -/
def State.loadmapFrames (B : State) (w : Nat) : List Frame :=
  selectFrames B.tel.fine ((B.arg w 2).toNat + bitsOf (B.arg w 3) 0 16 * 2 ^ 32) (B.arg w 4).toNat

/-- READ_LOADMAP of whole frames of the fine ring, at a whole address with room for them, writes the frames selected, records how many, and
completes with their count and the flash of the first (R322, R323). -/
theorem cmdReadLoadmap_of_whole {B : State} {w : Nat} (hall : B.arg w 1 = 0) (hreserved : bitsOf (B.arg w 3) 16 16 = 0)
    (hcount : 1 ≤ (B.arg w 4).toNat ∧ (B.arg w 4).toNat ≤ 1024) (haddr : B.loadmapAddr w % 64 = 0)
    (hlen : (B.arg w 4).toNat * 40960 ≤ (B.arg w 7).toNat) (hdma : B.flag Fld.HIF_CTRL_DMA_EN = true) (hfs : B.loadmapFrames w ≠ []) :
    cmdReadLoadmap w B =
      let fs := B.loadmapFrames w
      let z := ((if fs.flatMap (·.words) = [] then B else B.dmaWrite (B.loadmapAddr w) (fs.flatMap (·.words))).setReg Reg.TEL_LAST_READ
        (fieldAt 0 16 fs.length)).raiseIf false Fld.TEL_INT_STATUS_READ_MISSED
      let first := (fs.head?.map (·.flash)).getD 0
      z.complete w 0 0 [fieldAt 0 16 fs.length, loHalf first, fieldAt 0 16 (first / 2 ^ 32), 0] false := by
  have hslice : bitsOf (0 : Word) 0 8 = 0 := rfl
  have hring : bitAt (0 : Word) 8 = false := rfl
  have hflags : (bitsOf (0 : Word) 9 23 != 0 || bitsOf (B.arg w 3) 16 16 != 0) = false := by rw [hreserved]; rfl
  have hsel : (selectFrames B.tel.fine ((B.arg w 2).toNat + bitsOf (B.arg w 3) 0 16 * 2 ^ 32) (B.arg w 4).toNat) = B.loadmapFrames w := rfl
  have haddr' : (B.arg w 5).toNat + (B.arg w 6).toNat * 2 ^ 32 = B.loadmapAddr w := rfl
  have hevery : (B.loadmapFrames w).filter (fun f => decide (0 ≤ f.flash)) = B.loadmapFrames w := List.filter_eq_self.mpr (by simp)
  have hmissed : fieldAt 0 16 (B.loadmapFrames w).length ||| fieldAt 16 16 0 = fieldAt 0 16 (B.loadmapFrames w).length := BitVec.or_zero
  simp only [cmdReadLoadmap, hall, hslice, hring, hflags, Bool.false_eq_true, if_false, if_true, hsel, haddr', hevery, Nat.sub_self, hmissed,
    ne_eq, not_true_eq_false, false_and, List.isEmpty_iff, bne_self_eq_false]
  rw [if_neg (by omega), if_neg (not_not_intro haddr), if_neg hfs, if_neg (Nat.not_lt.mpr hlen), if_neg (not_not_intro hdma)]

/-- Settles O29: a command that commits runs on the state of its arguments (issue_of_commits), and there takes the branch of valid arguments. -/
theorem hostCommandsOnSecurityAndResetRun : Obligations.HostCommandsOnSecurityAndResetRun := by
  refine ⟨?attest, ?sealStands, ?sealRenewal, ?setWakeLatency, ?wakeKept, ?resetEngine, ?resetPart, ?agentRead, ?agentWrite, ?readLoadmap⟩
  case attest =>
    rintro s B c h ⟨hserving, hroom⟩ ⟨haddr, hreserved, hslice⟩ hlen
    exact congrArg Host.Outcome.next ((State.issue_of_commits h _).trans (cmdAttest_of_valid hserving hroom haddr hreserved hslice hlen))
  case sealStands =>
    rintro s B c x h ⟨hlit, hserving, hrack, hsealed⟩ ⟨hreserved, haddr, hlen⟩ hdue ⟨hrenew, hx⟩
    refine congrArg Host.Outcome.next ((State.issue_of_commits h _).trans ?_)
    rw [cmdIssueSeal_of_valid hlit hserving hrack hsealed hreserved haddr hlen hdue (.inr (by rw [hx]; rfl)), hx, if_neg (Bool.eq_false_iff.mp hrenew)]
    rfl
  case sealRenewal =>
    rintro s B c h ⟨hlit, hserving, hrack, hsealed⟩ ⟨hreserved, haddr, hlen⟩ hdue ⟨hrenew, hroom⟩
    refine congrArg Host.Outcome.next ((State.issue_of_commits h _).trans ?_)
    rw [cmdIssueSeal_of_valid hlit hserving hrack hsealed hreserved haddr hlen hdue (.inl hrenew), if_pos hrenew, if_neg (Bool.eq_false_iff.mp hroom)]
    rfl
  case setWakeLatency =>
    rintro s B c h hlit ⟨hne, hle, hused, htouches⟩ hns
    exact congrArg Host.Outcome.next ((State.issue_of_commits h _).trans (cmdSetWakeLatency_of_valid hlit ⟨hne, hle⟩ hused htouches hns))
  case wakeKept =>
    intro v stamp w id ns h
    refine ⟨_, rfl, ?_, fun k hk => ?_⟩
    · show lookupNat id (v.takeWakeLatency w id ns).link.wake = _
      rw [State.takeWakeLatency_wake w ns h, lookupNat_insertNat, if_pos rfl]
    · show lookupNat k (v.takeWakeLatency w id ns).link.wake = _
      rw [State.takeWakeLatency_wake w ns h, lookupNat_insertNat, if_neg (Ne.symm hk)]
  case resetEngine =>
    intro s B c h hrule hlevel hpart
    exact congrArg Host.Outcome.next ((State.issue_of_commits h _).trans (cmdEscalate_of_engine hrule hlevel hpart))
  case resetPart =>
    intro s B c h hrule hlevel
    exact congrArg Host.Outcome.next ((State.issue_of_commits h _).trans (cmdEscalate_of_part hrule hlevel))
  case agentRead =>
    rintro s B c h ⟨hlit, hagent⟩ ⟨hreg, haddr⟩ ⟨hmin, hmax, hlen⟩
    exact congrArg Host.Outcome.next ((State.issue_of_commits h _).trans (cmdAgentRead_of_valid hlit hagent hreg haddr ⟨hmin, hmax⟩ hlen))
  case agentWrite =>
    rintro s B c h ⟨hlit, hagent⟩ hrack hreg
    exact congrArg Host.Outcome.next ((State.issue_of_commits h _).trans (cmdAgentWrite_of_checkCtrl hlit hagent hrack hreg))
  case readLoadmap =>
    rintro s B c fs z h ⟨hall, hreserved⟩ ⟨hmin, hmax, haddr, hlen⟩ hdma ⟨rfl, hfs⟩ rfl
    exact congrArg Host.Outcome.next ((State.issue_of_commits h _).trans (cmdReadLoadmap_of_whole hall hreserved ⟨hmin, hmax⟩ haddr hlen hdma hfs))

end Sys2Proof.Machine

/-! Training, keys and verification of the ports. -/
namespace Sys2Proof.Machine

/-- Settles O23: each case gives the conditions under which the meaning takes the branch stated. -/
theorem portTrainingAndKeys : Obligations.PortTrainingAndKeys := by
  refine ⟨?lasersReady, ?trained, ?trainFailed, ?hello, ?confirm, ?confirmUnheard, ?agreementTimeout, ?verifyTimeout, ?darkRetry, ?rekeyDue, ?rekey⟩
  case lasersReady =>
    intro s c hlit
    exact congrArg Host.Outcome.next (if_pos (by rw [hlit]; rfl))
  case trained =>
    rintro s port f ok z htrains rfl hlanes
    exact (if_pos htrains).trans (congrArg (fun t => Host.Outcome.next (State.pumpTraining t)) (if_pos hlanes))
  case trainFailed =>
    rintro s port f ok z htrains rfl hlanes
    exact (if_pos htrains).trans (congrArg (fun t => Host.Outcome.next (State.pumpTraining t)) (if_neg (Nat.not_le.mpr hlanes)))
  case hello =>
    intro s port bytes hsecure
    exact (if_pos hsecure).trans (apply_ite Host.Outcome.next _ _ _).symm
  case confirm =>
    rintro s port bytes far z ⟨hsecure, hfar⟩ rfl
    show execLinkConfirm port bytes s = _
    simp only [execLinkConfirm, hfar]
    exact (if_pos hsecure).trans (apply_ite Host.Outcome.next _ _ _).symm
  case confirmUnheard =>
    rintro s port bytes ⟨hsecure, hnone⟩
    show execLinkConfirm port bytes s = _
    simp only [execLinkConfirm, hnone]
    exact if_pos hsecure
  case agreementTimeout =>
    intro s port hsecure
    exact (if_pos hsecure).trans (apply_ite Host.Outcome.next _ _ _).symm
  case verifyTimeout =>
    intro s port hverify
    exact (if_pos hverify).trans (apply_ite Host.Outcome.next _ _ _).symm
  case darkRetry =>
    rintro s port ⟨hdark, hretry⟩ ⟨htest, hbroken⟩
    exact congrArg Host.Outcome.next (if_pos ⟨hdark, hretry, Bool.eq_false_iff.mp htest, Bool.eq_false_iff.mp hbroken⟩)
  case rekeyDue =>
    intro s port k hkeys
    show execRekeyDue port s = _
    simp only [execRekeyDue, hkeys]
  case rekey =>
    intro s port e k hkeys
    show execRekey port e s = _
    simp only [execRekey, hkeys]

end Sys2Proof.Machine

/-! Beacons, lanes, lasers and parking of the ports. -/
namespace Sys2Proof.Machine

/-! ### A beacon that is taken (R101 to R103) -/

/-- What a clean beacon leaves noted at its port before it is judged (R101, R102). -/
def State.beaconNoted (v : State) (port : Nat) (p : Packet) : State :=
  (v.returnCredits port p.hdr).onPort port fun x => { x with
    heard := true, missing := 0, litHolder := bitAt (wordAt p.payload 7) 0, farOverlay := bitAt (wordAt p.payload 7) 1,
    farEpochHeld := (wordAt p.payload 6).toNat }

/-- The neighbour that a beacon names (R101). -/
def beaconFound (p : Packet) : Found := { w0 := wordAt p.payload 0, w4 := wordAt p.payload 4, w5 := wordAt p.payload 5 }

/-- A noted beacon is judged by the port's state: towards the found neighbour in VERIFY, for miswiring and the chart tags in LIT and HELD, and not
at all in another (R102, R103). -/
def State.judgeBeacon (z : State) (port : Nat) (p : Packet) : State :=
  match (z.port port).st with
  | .verify => z.verifyBeacon port (beaconFound p) (bitsOf (wordAt p.payload 1) 0 4)
  | .lit => z.litBeacon port (beaconFound p)
  | .held => z.litBeacon port (beaconFound p)
  | _ => z

theorem State.judgeBeacon_verify {z : State} {port : Nat} {p : Packet} (h : (z.port port).st = .verify) :
    z.judgeBeacon port p = z.verifyBeacon port (beaconFound p) (bitsOf (wordAt p.payload 1) 0 4) := by
  simp only [State.judgeBeacon, h]

theorem State.judgeBeacon_lit {z : State} {port : Nat} {p : Packet} (h : (z.port port).st = .lit ∨ (z.port port).st = .held) :
    z.judgeBeacon port p = z.litBeacon port (beaconFound p) := by
  rcases h with h | h <;> simp only [State.judgeBeacon, h]

theorem State.judgeBeacon_dark {z : State} {port : Nat} {p : Packet} (h : (z.port port).st = .dark) : z.judgeBeacon port p = z := by
  simp only [State.judgeBeacon, h]

/-- A beacon that R17 does not refuse and that is clean is noted, then judged. -/
theorem execBeacon_of_clean {s : State} {port : Nat} {p : Packet} (htaken : (s.received port p.hdr).refused port p.hdr = none)
    (hclean : beaconClean p.payload = true) :
    execBeacon port p s = .next (((s.received port p.hdr).beaconNoted port p).judgeBeacon port p) := by
  simp only [execBeacon, htaken]
  rw [if_neg (not_not_intro hclean)]
  unfold State.judgeBeacon State.beaconNoted
  generalize Port.st _ = st
  cases st <;> rfl

/-- Settles O24: a beacon by execBeacon_of_clean, every other case by the conditions under which the meaning takes the branch stated. -/
theorem beaconsLanesAndLasers : Obligations.BeaconsLanesAndLasers := by
  refine ⟨?inVerify, ?inLit, ?inHeld, ?inDark, ?send, ?loss, ?moved, ?signalLoss, ?laneChange, ?nextLaser, ?noLaser, ?parksLanes, ?parksLink,
    ?farParks, ?wakeRequest, ?wake, ?wakeComplete⟩
  case inVerify =>
    rintro s port p v z ⟨rfl, htaken⟩ hclean rfl hst
    refine (execBeacon_of_clean htaken hclean).trans (congrArg Host.Outcome.next ?_)
    exact State.judgeBeacon_verify hst
  case inLit =>
    rintro s port p v z ⟨rfl, htaken⟩ hclean rfl hst
    exact (execBeacon_of_clean htaken hclean).trans (congrArg Host.Outcome.next (State.judgeBeacon_lit (.inl hst)))
  case inHeld =>
    rintro s port p v z ⟨rfl, htaken⟩ hclean rfl hst
    exact (execBeacon_of_clean htaken hclean).trans (congrArg Host.Outcome.next (State.judgeBeacon_lit (.inr hst)))
  case inDark =>
    rintro s port p v z ⟨rfl, htaken⟩ hclean rfl hst
    exact (execBeacon_of_clean htaken hclean).trans (congrArg Host.Outcome.next (State.judgeBeacon_dark hst))
  case send =>
    intro s port hsends
    exact congrArg Host.Outcome.next (if_pos hsends)
  case loss =>
    rintro s port ⟨hst, hport⟩ hmissing
    exact congrArg Host.Outcome.next (if_pos ⟨hst, hport, hmissing⟩)
  case moved =>
    rintro s port k old y z ⟨hmove, rfl⟩ rfl rfl
    show execSparePositionMoveDone port s = _
    simp only [execSparePositionMoveDone, hmove]
  case signalLoss =>
    intro s port lane hlane
    exact congrArg Host.Outcome.next (if_pos hlane)
  case laneChange =>
    intro s port f hst
    exact if_pos hst
  case nextLaser =>
    rintro s q n l y z ⟨hq, rfl⟩ hl rfl rfl
    show execLaserFault q s = _
    simp only [execLaserFault, hl, if_neg (Nat.not_le.mpr hq), Bool.not_eq_true]
  case noLaser =>
    rintro s q n ⟨hq, rfl⟩ hnone
    show execLaserFault q s = _
    simp only [execLaserFault, hnone, if_neg (Nat.not_le.mpr hq)]
  case parksLanes =>
    intro s port k hparks hlow
    exact (if_pos hparks).trans (if_pos hlow)
  case parksLink =>
    rintro s port z hparks hidle rfl
    exact (if_pos hparks).trans (if_pos hidle)
  case farParks =>
    intro s port d hdepth
    exact congrArg Host.Outcome.next (if_pos hdepth)
  case wakeRequest =>
    rintro s port ⟨hparked, hwaits, hasleep⟩
    exact if_pos ⟨hparked, hwaits, Bool.eq_false_iff.mp hasleep⟩
  case wake =>
    intro s port hparked
    exact congrArg Host.Outcome.next (if_pos hparked)
  case wakeComplete =>
    rintro s port f u z hwakes rfl rfl
    exact if_pos hwakes

end Sys2Proof.Machine

/-! Management writes at an agent: what a whole write does, and what each word of the control page does when it is taken. -/
namespace Sys2Proof.Machine

/-! ### A write that is asked of an agent (R442, R443) -/

/-- A write not taken before under its tag is applied and journalled unless a word is refused, and is kept and answered either way. -/
theorem State.agentWrite_of_asks {s v : State} {a : Addr} {h : MgmtHead} {addr : Nat} {words : List Word} (hasks : s.AgentAsks a h addr words.length v) :
    s.agentWrite a h addr words =
      State.agAnswered (if (v.agWriteAll a addr words).1 = 0 then (v.agWriteAll a addr words).2.1.journalWrite a h addr words else v)
        a h addr words.length (v.agWriteAll a addr words).1 (v.agWriteAll a addr words).2.2 := by
  obtain ⟨rfl, hreserved, hbroadcast, hnew⟩ := hasks
  simp only [State.agentWrite, hreserved, hbroadcast, hnew, Bool.false_eq_true, if_false]
  rfl

/-- A write of one word is refused with the word's STATUS, or is the word taken and what follows a whole write. -/
theorem State.agWriteAll_singleton (v : State) (a : Addr) {addr : Nat} (w : Word) (haligned : addr % 4 = 0) :
    v.agWriteAll a addr [w] =
      if v.pokeStatus a addr w = 0 then
        (0, (State.afterWrite v (v.poke a addr w).1 a addr 1).drainCheck a ((v.agent a).windowEmpty && bitAt ((v.agent a).word 0x3C) 0), (v.poke a addr w).2)
      else (v.pokeStatus a addr w, v, []) := by
  by_cases hstatus : v.pokeStatus a addr w = 0
  · simp [State.agWriteAll, State.pokeAll, haligned, hstatus]
  · simp [State.agWriteAll, State.pokeAll, haligned, hstatus]

/-- A word that is refused changes nothing, and its STATUS is the answer. -/
theorem State.agentWrite_refused {s v : State} {a : Addr} {h : MgmtHead} {addr : Nat} {w : Word} (hasks : s.AgentAsks a h addr 1 v)
    (haligned : addr % 4 = 0) (hstatus : v.pokeStatus a addr w ≠ 0) :
    s.agentWrite a h addr [w] = v.agAnswered a h addr 1 (v.pokeStatus a addr w) [] := by
  have hall := v.agWriteAll_singleton a w haligned
  rw [if_neg hstatus] at hall
  rw [State.agentWrite_of_asks (words := [w]) hasks, hall, if_neg hstatus, List.length_singleton]

/-! ### The control page -/

/-- A whole word that lies below the slots and programmes: the control page among them. -/
def controlWord (addr : Nat) : Prop := addr % 4 = 0 ∧ addr < 0x200000

theorem isUnit_eq_false {a : Addr} {addr : Nat} (h : addr < 0x200000) : isUnit a addr = false := by
  simp [isUnit, Nat.not_le.mpr h]

theorem isRemap_eq_false {a : Addr} {addr : Nat} (h : addr < 0x240000) : isRemap a addr = false := by
  simp [isRemap, Nat.not_le.mpr h]

theorem isStaging_eq_false {a : Addr} {addr : Nat} (h : addr < 0x8000) : isStaging a addr = false := by
  simp [isStaging, Nat.not_le.mpr h]

theorem isPort_eq_false {a : Addr} {addr : Nat} (h : addr < 0x1000) : isPort a addr = false := by
  simp [isPort, Nat.not_le.mpr h]

/-- A word below the slots and programmes touches none of them, and no remap. -/
theorem State.afterWrite_controlWord (s0 s : State) (a : Addr) {addr : Nat} (h : addr < 0x200000) : State.afterWrite s0 s a addr 1 = s := by
  simp [State.afterWrite, unitsTouched, isUnit_eq_false h, isRemap_eq_false (h.trans (by decide))]

/-- A control word that is taken has its own effect, then what every taken write brings. -/
theorem State.agentWrite_taken {s v u : State} {a : Addr} {h : MgmtHead} {addr : Nat} {w : Word} {reply : List Word} (haddr : controlWord addr)
    (hasks : s.AgentAsks a h addr 1 v) (hstatus : v.pokeStatus a addr w = 0) (hpoke : v.poke a addr w = (u, reply)) :
    s.agentWrite a h addr [w] = v.agTaken u a h addr [w] reply := by
  obtain ⟨haligned, hlow⟩ := haddr
  have hall := v.agWriteAll_singleton a w haligned
  rw [if_pos hstatus, hpoke, State.afterWrite_controlWord v u a hlow] at hall
  rw [State.agentWrite_of_asks (words := [w]) hasks, hall]
  rfl

/-! What each word of the control page does when it is taken (R440, R448, R449, R452, R456, R459, R460). -/

theorem State.poke_serve (v : State) (a : Addr) (w : Word) : v.poke a 0x0C w =
    (v.onAgent a fun g => { g with serve := bitAt w 0, overflow := g.overflow && !bitAt w 0, reborn := g.reborn && !bitAt w 0 }, []) := rfl

theorem State.poke_armCtrl (v : State) (a : Addr) (w : Word) : v.poke a 0x4C w = (v.armCtrl a w, []) := rfl

theorem State.poke_go (v : State) (a : Addr) (w : Word) : v.poke a 0x70 w = (v.takeGo a w, []) := rfl

theorem State.poke_freeze (v : State) (a : Addr) (w : Word) : v.poke a 0x74 w = v.freezeWord a w := rfl

theorem State.poke_checkCtrl (v : State) (a : Addr) (w : Word) : v.poke a 0x80 w =
    (v.onAgent a fun g => { g.put 0x80 (putBits w 31 1 0) with checking := g.checking || bitAt w 31 }, []) := rfl

theorem State.poke_sealCommit (v : State) (a : Addr) (w : Word) : v.poke a 0x98 w =
    (if agentGen a = 3 then v.onAgent a fun g => { g with verifying := some w.toNat } else v, []) := by
  simp [State.poke, isStaging_eq_false (a := a) (addr := 0x98) (by decide)]

theorem State.poke_trim (v : State) (a : Addr) (w : Word) : v.poke a 0xA4 w =
    (v.onAgent a fun g => { g with slew := g.slew + signedField w 0 20 }, []) := by
  simp [State.poke, isStaging_eq_false (a := a) (addr := 0xA4) (by decide)]

theorem State.poke_rate (v : State) (a : Addr) (w : Word) : v.poke a 0xA8 w = (v.onAgent a fun g => g.put 0xA8 w, []) := by
  simp [State.poke, isStaging_eq_false (a := a) (addr := 0xA8) (by decide), isPort_eq_false (a := a) (addr := 0xA8) (by decide)]

theorem State.poke_stepOff (v : State) (a : Addr) (w : Word) : v.poke a 0xB4 w =
    (v.onAgent a fun g => { g.put 0xB4 w with step := some ((g.word 0xAC).toNat + bitsOf (g.word 0xB0) 0 16 * 2 ^ 32, w.toNat) }, []) := by
  simp [State.poke, isStaging_eq_false (a := a) (addr := 0xB4) (by decide)]

/-- R452: a write of FA_FREEZE is taken with the word of its reply, or refused (an index past the declared units among the causes). -/
theorem State.agentWrite_freeze {s v : State} {a : Addr} {h : MgmtHead} (w : Word) (hasks : s.AgentAsks a h 0x74 1 v) :
    s.agentWrite a h 0x74 [w] =
      if v.pokeStatus a 0x74 w = 0 then v.agTaken (v.freezeWord a w).1 a h 0x74 [w] (v.freezeWord a w).2
      else v.agAnswered a h 0x74 1 (v.pokeStatus a 0x74 w) [] := by
  split
  case isTrue hstatus => exact State.agentWrite_taken ⟨rfl, by decide⟩ hasks hstatus (v.poke_freeze a w)
  case isFalse hstatus => exact State.agentWrite_refused hasks rfl hstatus

/-- Settles O45: a whole write by what a write is asked to do, a control-page row by the effect of its word. -/
theorem agentWritesRun : Obligations.AgentWritesRun := by
  refine ⟨?whole, ?refused, ?arm, ?disarm, ?setLit, ?go, ?checkValue, ?sealCommit, ?trim, ?rate, ?stepOff, ?serve, ?freeze, ?thaw⟩
  case whole =>
    rintro s agent h v addr words r hasks rfl htaken
    refine congrArg Host.Outcome.next ((State.agentWrite_of_asks hasks).trans ?_)
    rw [if_pos htaken, htaken]
  case refused =>
    intro s agent h v addr w hasks haligned hstatus
    exact congrArg Host.Outcome.next (State.agentWrite_refused hasks haligned hstatus)
  case arm =>
    intro s agent h v value hasks hstatus
    exact congrArg Host.Outcome.next (State.agentWrite_taken ⟨rfl, by decide⟩ hasks hstatus (v.poke_armCtrl agent value))
  case disarm =>
    intro s agent h v value hasks hstatus
    exact congrArg Host.Outcome.next (State.agentWrite_taken ⟨rfl, by decide⟩ hasks hstatus (v.poke_armCtrl agent value))
  case setLit =>
    intro s agent h v bank hasks hstatus
    exact congrArg Host.Outcome.next (State.agentWrite_taken ⟨rfl, by decide⟩ hasks hstatus (v.poke_armCtrl agent _))
  case go =>
    intro s agent h v value hasks hstatus
    exact congrArg Host.Outcome.next (State.agentWrite_taken ⟨rfl, by decide⟩ hasks hstatus (v.poke_go agent value))
  case checkValue =>
    intro s agent h v value hasks hstatus
    exact congrArg Host.Outcome.next (State.agentWrite_taken ⟨rfl, by decide⟩ hasks hstatus (v.poke_checkCtrl agent value))
  case sealCommit =>
    intro s agent h v len hasks hstatus
    exact congrArg Host.Outcome.next (State.agentWrite_taken ⟨rfl, by decide⟩ hasks hstatus (v.poke_sealCommit agent (w32 len)))
  case trim =>
    intro s agent h v value hasks hstatus
    exact congrArg Host.Outcome.next (State.agentWrite_taken ⟨rfl, by decide⟩ hasks hstatus (v.poke_trim agent value))
  case rate =>
    intro s agent h v value hasks hstatus
    exact congrArg Host.Outcome.next (State.agentWrite_taken ⟨rfl, by decide⟩ hasks hstatus (v.poke_rate agent value))
  case stepOff =>
    intro s agent h v value hasks hstatus
    exact congrArg Host.Outcome.next (State.agentWrite_taken ⟨rfl, by decide⟩ hasks hstatus (v.poke_stepOff agent value))
  case serve =>
    intro s agent h v value hasks hstatus
    exact congrArg Host.Outcome.next (State.agentWrite_taken ⟨rfl, by decide⟩ hasks hstatus (v.poke_serve agent value))
  case freeze =>
    rintro s agent h v index r hasks rfl
    exact congrArg Host.Outcome.next (State.agentWrite_freeze _ hasks)
  case thaw =>
    rintro s agent h v index r hasks rfl
    exact congrArg Host.Outcome.next (State.agentWrite_freeze _ hasks)

end Sys2Proof.Machine

/-! Reads and broadcasts at an agent, and what its own timers, seals, events and resets do to it. -/
namespace Sys2Proof.Machine

/-- A broadcast write with allowed addresses, all of whose words are taken, is applied and journalled; any other is counted at its port (R444). -/
theorem State.agentWrite_broadcast {s v : State} {a : Addr} {h : MgmtHead} {addr : Nat} {words : List Word}
    (hv : v = s.agCredits a h.port 0 (mgmtUnits words.length)) (hreserved : h.reserved = false) (hbroadcast : h.broadcast = true) :
    s.agentWrite a h addr words =
      if (v.agWriteAll a addr words).1 = 0 ∧ (List.range words.length).all (fun i => broadcastOk a (addr + 4 * i)) = true then
        (v.agWriteAll a addr words).2.1.journalWrite a h addr words
      else v.onAgent a fun g => g.onPort h.port fun p => { p with refused := p.refused + 1 } := by
  subst hv
  simp only [State.agentWrite, hreserved, hbroadcast, Bool.false_eq_true, if_false, if_true]
  split
  case isTrue hrefused =>
    rw [if_neg]
    rintro ⟨hzero, hall⟩
    simp [hzero, hall] at hrefused
  case isFalse htaken =>
    rw [if_pos]
    simpa using htaken

/-- Settles O46: each case gives the conditions under which the meaning takes the branch stated. -/
theorem agentEventsRun : Obligations.AgentEventsRun := by
  refine ⟨?read, ?broadcast, ?pause, ?light, ?holdWithoutGo, ?guardEnd, ?checkValue, ?sealVerified, ?noSealVerified, ?expiry, ?graceEnd, ?resend, ?drop,
    ?ack, ?periodChange, ?reset, ?flashBoundary⟩
  case read =>
    rintro s v agent h addr count rfl hreserved
    exact congrArg Host.Outcome.next (if_neg (Bool.eq_false_iff.mp hreserved))
  case broadcast =>
    rintro s v agent h addr words r hv hreserved rfl
    exact congrArg Host.Outcome.next (State.agentWrite_broadcast (h := { h with broadcast := true }) hv hreserved rfl)
  case pause =>
    rintro s agent g rfl ⟨hendpoint, harmed, hdue, hdrained⟩
    refine congrArg Host.Outcome.next (if_pos ?_)
    simp [hendpoint, harmed, hdue, hdrained]
  case light =>
    rintro s agent g rfl ⟨harmed, hdue, hhold⟩ hgo
    show execAgentBankLight agent s = _
    simp [execAgentBankLight, harmed, hdue, hhold, hgo]
  case holdWithoutGo =>
    rintro s agent g rfl ⟨harmed, hdue, hhold⟩ hgo
    show execAgentBankLight agent s = _
    simp [execAgentBankLight, harmed, hdue, hhold, hgo]
  case guardEnd =>
    intro s agent hguard
    refine congrArg Host.Outcome.next (if_neg ?_)
    simp [Option.isSome_iff_ne_none.mp hguard]
  case checkValue =>
    rintro s agent g rfl hchecking
    exact congrArg Host.Outcome.next (if_pos hchecking)
  case sealVerified =>
    rintro s agent envelopes z len rfl hverifying
    show execAgentSealVerifyDone agent envelopes s = _
    simp only [execAgentSealVerifyDone, hverifying]
  case noSealVerified =>
    rintro s agent envelopes z rfl hverifying
    show execAgentSealVerifyDone agent envelopes s = _
    simp only [execAgentSealVerifyDone, hverifying]
  case expiry =>
    intro s agent hexpired
    exact congrArg Host.Outcome.next (if_pos hexpired)
  case graceEnd =>
    intro s agent hpast
    exact congrArg Host.Outcome.next (if_pos hpast)
  case resend =>
    intro s agent seq e hkept hsends
    show execAgentEventResend agent seq s = _
    simp only [execAgentEventResend, hkept, if_neg (Nat.not_le.mpr hsends)]
  case drop =>
    intro s agent seq e hkept hsends
    show execAgentEventResend agent seq s = _
    simp only [execAgentEventResend, hkept, if_pos hsends]
  case ack =>
    intro s agent port seq
    rfl
  case periodChange =>
    rintro s agent g next rfl rfl hdue
    exact congrArg Host.Outcome.next (if_pos hdue)
  case reset =>
    rintro s agent cause z rfl
    rfl
  case flashBoundary =>
    intro s agent ports
    rfl

end Sys2Proof.Machine

/-! Ends of solves, of requests and of exchanges of slices, plans and recovery: what is due is one item. -/
namespace Sys2Proof.Machine

/-- A timer acts on each due item in turn; where one item is due, it acts once. -/
theorem foldl_of_eq_singleton {α β : Type} {l : List α} {x : α} (f : β → α → β) (b : β) (h : l = [x]) : l.foldl f b = f b x :=
  congrArg (List.foldl f b) h

/-- The end of a solve takes its request or answers it: 0x10 while the head's changes are held, else with the verdict's code (R25, R158, R162, R163). -/
theorem execAdmissionSolveDone_of_last {s z : State} {q : SliceReq} {l : Layout} (hsolving : s.slc.solving = some (q, l, 1))
    (hz : z = { s with slc := { s.slc with solving := none } }) {code : Nat}
    (hcode : (if z.slv.head.heldChanges then 0x10 else z.solveVerdict l) = code) :
    execAdmissionSolveDone s =
      .next ((if code = 0 then z.takeSliceReq q (some l) else z.sliceReply q code 0).showHead.stageInput .slv .acted) := by
  subst hz hcode
  simp only [execAdmissionSolveDone, hsolving]
  rfl

/-- An abort exchange without all its answers goes, and its plan, where it is live, is thawed with reason 0x11 (R284). -/
def State.endSilentAbort (s : State) (a : AbortEx) : State :=
  let s := s.onClp fun c => { c with aborts := c.aborts.filter fun x => !(x.slice == a.slice && x.ordinal == a.ordinal) }
  match s.livePlan a.slice a.ordinal with
  | some p => s.sendThaw p (s.thawMsg a.slice a.ordinal 1 p.gen 0 0 0 0x11 0)
  | none => s

theorem State.endSilentAbort_of_live {s z : State} {a : AbortEx} {p : HeadPlan}
    (hz : z = s.onClp fun c => { c with aborts := c.aborts.filter fun x => !(x.slice == a.slice && x.ordinal == a.ordinal) })
    (hlive : z.livePlan a.slice a.ordinal = some p) :
    s.endSilentAbort a = z.sendThaw p (z.thawMsg a.slice a.ordinal 1 p.gen 0 0 0 0x11 0) := by
  subst hz
  simp only [State.endSilentAbort, hlive]

/-- At the head every recovery without all its replies starts an abort, then every silent abort exchange ends (R270, R281, R284). -/
theorem execRecoveryReplyTimeout_of_isHead {s : State} {late : List Recovery} {silent : List AbortEx} (hhead : s.isHead = true)
    (hlate : (s.clp.recoveries.filter fun r => r.number != 0 && decide (r.flash + 32 ≤ s.tim.flash)) = late)
    (hsilent : (s.clp.aborts.filter fun a => !a.waiting && decide (a.flash + 32 ≤ s.tim.flash)) = silent) :
    execRecoveryReplyTimeout s =
      .next (silent.foldl State.endSilentAbort (late.foldl (fun s r => s.startAbort r.slice r.ordinal 0x18) s)) := by
  subst hlate hsilent
  exact if_neg (not_not_intro hhead)

/-- Settles O37: a solve's end by its code; a timer acts on the one item due (foldl_of_eq_singleton). -/
theorem sliceAndPlanTimersRun : Obligations.SliceAndPlanTimersRun := by
  refine ⟨?admits, ?held, ?sliceReq, ?drainLimit, ?memberSilent, ?planReq, ?noReplies, ?noAnswers, ?spacing, ?release, ?stall, ?straggler⟩
  case admits =>
    rintro s q l z hsolving hz ⟨hfree, hverdict⟩
    exact execAdmissionSolveDone_of_last hsolving hz (code := 0) (by simp [hfree, hverdict])
  case held =>
    intro s q l z hsolving hz hheld
    exact execAdmissionSolveDone_of_last hsolving hz (code := 0x10) (if_pos hheld)
  case sliceReq =>
    rintro s i z hdue rfl
    exact congrArg Host.Outcome.next (foldl_of_eq_singleton _ _ hdue)
  case drainLimit =>
    rintro s d z hdue rfl
    exact congrArg Host.Outcome.next (foldl_of_eq_singleton _ _ hdue)
  case memberSilent =>
    intro s a hdue
    exact congrArg Host.Outcome.next (foldl_of_eq_singleton _ _ hdue)
  case planReq =>
    rintro s i z hdue rfl
    exact congrArg Host.Outcome.next (foldl_of_eq_singleton _ _ hdue)
  case noReplies =>
    intro s r hhead hlate hsilent
    exact execRecoveryReplyTimeout_of_isHead hhead hlate hsilent
  case noAnswers =>
    rintro s a p z hhead hlate hsilent rfl hlive
    exact (execRecoveryReplyTimeout_of_isHead hhead hlate hsilent).trans (congrArg Host.Outcome.next (State.endSilentAbort_of_live rfl hlive))
  case spacing =>
    rintro s a p z hdue rfl hlive
    refine congrArg Host.Outcome.next ((foldl_of_eq_singleton _ _ hdue).trans ?_)
    simp only [hlive]
  case release =>
    intro s a hhead hdue
    exact congrArg Host.Outcome.next ((if_pos hhead).trans (foldl_of_eq_singleton _ _ hdue))
  case stall =>
    intro s p hdue
    exact congrArg Host.Outcome.next (foldl_of_eq_singleton _ _ hdue)
  case straggler =>
    intro s p hdue
    exact congrArg Host.Outcome.next (foldl_of_eq_singleton _ _ hdue)

end Sys2Proof.Machine

/-! Collective packets at the Keeper root, retransmission, and the agents' events that ask for recovery. -/
namespace Sys2Proof.Machine

/-- An RS_CONTRIB in its window, well formed, to an open place counts a duplicate where its input was taken before, else gives its input (R57, R199, R226,
R265). -/
theorem execRsContrib_of_open {s v : State} {port : Nat} {p : Packet} {q : Plan} (haddr : s.Addresses port p.hdr v q)
    (hclean : v.inWindow p.hdr = true ∧ (piecePrefix p.payload).clean = true)
    (hpad : isBlockFmt (planDesc q.desc).format = false ∨ (planDesc q.desc).disc ≠ 0 ∨
      padClean (planDesc q.desc).format (prefixData p.payload) = true)
    (hopen : q.late (piecePrefix p.payload).launch (piecePrefix p.payload).piece = false) {taken : Bool}
    (htaken : (q.place (piecePrefix p.payload).launch (piecePrefix p.payload).piece).any (fun y =>
      y.map.contains (65536 * (if addrKind p.hdr.src = 1 then 1 else 0) + v.contribKey q p.hdr (piecePrefix p.payload))) = taken) :
    execRsContrib port p s =
      if taken then .next (((v.countReg Reg.CLP_DUPLICATES 1).takeWseq port p.hdr).returnCredits port p.hdr)
      else .next ((v.takeContrib port q p.hdr (piecePrefix p.payload) (prefixData p.payload)).progress 0x07) := by
  obtain ⟨rfl, haccepted, hplan⟩ := haddr
  obtain ⟨hwindow, hprefix⟩ := hclean
  have hsound : ¬((planDesc q.desc).disc = 0 ∧ isBlockFmt (planDesc q.desc).format = true ∧
      ¬padClean (planDesc q.desc).format (prefixData p.payload) = true) := by
    rintro ⟨hdisc, hblock, hdirty⟩
    simp [hdisc, hblock, hdirty] at hpad
  subst htaken
  simp only [execRsContrib, haccepted, hplan, if_neg (not_not_intro hwindow), if_neg (not_not_intro hprefix), if_neg hsound,
    if_neg (Bool.eq_false_iff.mp hopen)]

/-- A BARRIER in its window on VC3 releases the members; on another VC its input counts once toward the point (R192, R198, R216, R265). -/
theorem execBarrier_of_inWindow {s v z : State} {port : Nat} {p : Packet} {q : Plan} (haddr : s.Addresses port p.hdr v q)
    (hwindow : v.inWindow p.hdr = true) (hz : z = (v.takeWseq port p.hdr).returnCredits port p.hdr) {input : Nat}
    (hinput : input = if addrKind p.hdr.src = 1 then 1 else 0) :
    execBarrier port p s =
      if p.hdr.svc = 3 then .next (z.releaseBarrier q)
      else if q.arrivals.contains input then .next (z.countReg Reg.CLP_DUPLICATES 1)
      else .next ((z.onPlan q.ctx fun q => { q with arrivals := input :: q.arrivals }).barrierGo q.ctx) := by
  obtain ⟨rfl, haccepted, hplan⟩ := haddr
  subst hz hinput
  simp only [execBarrier, haccepted, hplan, if_neg (not_not_intro hwindow)]

/-- Settles O38: each packet takes the branch its conditions open; an event taken goes to its act (takeAgentEvent_of_takes), which finds the plan it
names. -/
theorem collectivePacketsRun : Obligations.CollectivePacketsRun := by
  refine ⟨?contrib, ?duplicate, ?result, ?agData, ?arrival, ?release, ?resend, ?broken, ?flowBroken, ?discarded, ?overflow⟩
  case contrib =>
    intro s v port p q haddr hclean hpad hopen hnew
    exact execRsContrib_of_open haddr hclean hpad hopen hnew
  case duplicate =>
    intro s v port p q haddr hclean hpad hopen htaken
    exact execRsContrib_of_open haddr hclean hpad hopen htaken
  case result =>
    rintro s v port p q ⟨rfl, haccepted, hplan⟩ ⟨hwindow, hprefix⟩
    show execRsResult port p s = _
    simp only [execRsResult, haccepted, hplan, if_neg (not_not_intro hwindow), if_neg (not_not_intro hprefix)]
  case agData =>
    rintro s v port p q z u plane ⟨rfl, haccepted, hplan⟩ ⟨hwindow, hprefix⟩ rfl rfl rfl
    show execAgData port p s = _
    simp only [execAgData, haccepted, hplan, if_neg (not_not_intro hwindow), if_neg (not_not_intro hprefix)]
  case arrival =>
    rintro s v port p q z haddr ⟨hwindow, hup, hnew⟩ hz
    exact (execBarrier_of_inWindow haddr hwindow hz rfl).trans ((if_neg hup).trans (if_neg (Bool.eq_false_iff.mp hnew)))
  case release =>
    rintro s v port p q haddr ⟨hwindow, hdown⟩
    exact (execBarrier_of_inWindow haddr hwindow rfl rfl).trans (if_pos hdown)
  case resend =>
    rintro s dest svc wseq f x z hfound ⟨hleft, hdue⟩ rfl
    show execCollectiveRetransmit dest svc wseq s = _
    simp only [execCollectiveRetransmit, hfound, if_neg (not_or_intro (Nat.not_lt.mpr hleft.le) (Nat.not_lt.mpr hdue)), if_neg hleft.ne]
  case broken =>
    rintro s dest svc wseq f x q z hfound ⟨hspent, hdue⟩ rfl hplan
    show execCollectiveRetransmit dest svc wseq s = _
    simp only [execCollectiveRetransmit, hfound, if_neg (not_or_intro (Nat.not_lt.mpr hspent.le) (Nat.not_lt.mpr hdue)), if_pos hspent, hplan]
  case flowBroken =>
    intro s v port p ev q htakes hplan
    refine congrArg Host.Outcome.next ((State.takeAgentEvent_of_takes _ htakes).trans ?_)
    simp only [State.flowBroken, hplan]
  case discarded =>
    intro s v port p ev q htakes hplan
    refine congrArg Host.Outcome.next ((State.takeAgentEvent_of_takes _ htakes).trans ?_)
    simp only [State.placeDiscarded, hplan]
  case overflow =>
    intro s v port p ev q htakes hplan
    refine congrArg Host.Outcome.next ((State.takeAgentEvent_of_takes _ htakes).trans ?_)
    simp only [State.overflowTold, hplan]

end Sys2Proof.Machine

/-! Lamp units and spilled packets, Lantern packets and the NEED timer, and the exchanges and states of fabric time. -/
namespace Sys2Proof.Machine

/-! ### Lamps (R217, R221, R241) -/

/-- A unit whose runs agree, with no injection armed, meets no fault (R241). -/
theorem State.unitFault_of_unarmed {s : State} (hunarmed : s.flag Fld.LMP_INJECT_ARM = false) (lamp : Nat) (second : Bool) :
    s.unitFault lamp none second = (none, false, false) := by
  simp [State.unitFault, hunarmed]

/-! ### Lantern packets (R249, R250, R253) -/

/-- A LANTERN_UP packet that passes every check goes to the act of its kind (R253). -/
theorem State.lanternUp_of_taken {s v : State} {port kind : Nat} {p : Packet} (fault : Option (Word × Bool))
    (hv : v = s.received port p.hdr ∧ v.refused port p.hdr = none)
    (hsound : (lntPrefix p.payload).clean = true ∧ p.hdr.opkind = 0x30 ∧ p.hdr.optag.toNat < 256)
    (hkind : (lntPrefix p.payload).kind = kind) (hdefined : kind ≤ 2) :
    s.lanternUp port p fault =
      if kind = 0 then v.takeLntContrib port p fault else if kind = 1 then v.takeLntPartial port p fault else v.takeLntNeed port p := by
  obtain ⟨rfl, htaken⟩ := hv
  obtain ⟨hclean, hopkind, htag⟩ := hsound
  subst hkind
  simp only [State.lanternUp, htaken]
  exact if_neg (by simp [hclean, hopkind, htag, hdefined])

/-! ### Fabric time (R295, R296) -/

/-- A TIME_EXCHANGE packet that passes every check gives its credits back and is taken (R296). -/
theorem State.takeTime_of_taken {s : State} {port : Nat} {p : Packet} (htaken : (s.received port p.hdr).refused port p.hdr = none)
    (hclean : timeClean p.hdr.len.toNat p.payload = true) : s.takeTime port p = (true, (s.received port p.hdr).returnCredits port p.hdr) := by
  simp only [State.takeTime, htaken, if_pos hclean]

/-- A lit port short of samples near the boundary sends FILL packets to its neighbour, or to this Keeper where none is known, as many as are short and
the VC0 bucket allows (R295). -/
theorem execTimeFill_of_lit {s : State} {port n : Nat} {p : Port} {dest : Addr} (hp : p = (s.fillBuckets port).port port)
    (hdue : s.flag Fld.TIM_CTRL_FILL_EN = true ∧ port < 20 ∧ p.st = .lit ∧ s.flashUnits ≤ s.tim.offset + 2048000)
    (hdest : dest = (p.found.map fun f => f.w0.extractLsb' 0 16).getD s.self) :
    execTimeFill port n s =
      .next ((List.range (min (s.getF Fld.TIM_PARAMS_FILL_SAMPLES - n) (p.eg.bucket0.bytes / 80))).foldl
        (fun s _ => s.enqueue port (s.timePacket dest 0 [s.timeWord0 2 false])) s) := by
  subst hp hdest
  refine (if_pos hdue).trans ?_
  cases ((s.fillBuckets port).port port).found <;> rfl

/-- Settles O39: each event takes the branch its conditions open; a lamp's unit meets no fault (unitFault_of_unarmed), a Lantern packet by its kind
(lanternUp_of_taken), the NEED timer on the one launch due (foldl_of_eq_singleton). -/
theorem lampLanternAndTimeRun : Obligations.LampLanternAndTimeRun := by
  refine ⟨?lampUnit, ?spillWrite, ?contrib, ?partialSum, ?need, ?needTimer, ?request, ?reply, ?fill, ?fillNeighbour, ?fillUnknown, ?acquisition,
    ?acquisitionTimeout, ?coldStart, ?degraded, ?agentHoldover⟩
  case lampUnit =>
    rintro s lamp unit second u p x n y z hfound ⟨hlamp, hpool, hplace, hslot⟩ hfits rfl rfl ⟨hline, hunarmed⟩
    have hfault := State.unitFault_of_unarmed hunarmed lamp second
    show execLampUnitDone lamp unit none second none s = _
    simp only [execLampUnitDone, hfound, hlamp, hpool, hplace, hslot, hfits, hline, hfault, Option.isNone_some, bne_self_eq_false, Bool.not_true,
      Bool.or_false, Bool.false_eq_true, if_false]
  case spillWrite =>
    rintro s x z hfound hfits rfl
    show execSpillWriteDone s = _
    simp [execSpillWriteDone, hfound, hfits]
  case contrib =>
    intro s port p fault v hv hsound hkind
    exact congrArg (fun t : State => Host.Outcome.next (t.progress 0x08)) (State.lanternUp_of_taken fault hv hsound hkind (by decide))
  case partialSum =>
    intro s port p fault v hv hsound hkind
    exact congrArg (fun t : State => Host.Outcome.next (t.progress 0x08)) (State.lanternUp_of_taken fault hv hsound hkind (by decide))
  case need =>
    intro s port p v hv hsound hkind
    exact congrArg (fun t : State => Host.Outcome.next (t.progress 0x08)) (State.lanternUp_of_taken none hv hsound hkind (by decide))
  case needTimer =>
    rintro s n c b z hctx hdue rfl
    show execNeedTimer n s = _
    simp only [execNeedTimer, hctx]
    exact congrArg Host.Outcome.next (foldl_of_eq_singleton _ _ hdue)
  case request =>
    intro s port p v htaken hkind
    show execTimeExchangeRequest port p s = _
    simp only [execTimeExchangeRequest, htaken]
    exact congrArg Host.Outcome.next (if_pos ⟨trivial, hkind⟩)
  case reply =>
    rintro s port p v z r htaken hasked hkind rfl
    show execTimeExchangeReply port p s = _
    simp only [execTimeExchangeReply, htaken, hasked]
    exact if_pos ⟨trivial, hkind⟩
  case fill =>
    intro s port p htaken hclean
    exact congrArg (fun r : Bool × State => Host.Outcome.next r.2) (State.takeTime_of_taken htaken hclean)
  case fillNeighbour =>
    rintro s port n z p x ⟨rfl, hp⟩ hdue hfound
    exact execTimeFill_of_lit hp hdue (by rw [hfound]; rfl)
  case fillUnknown =>
    rintro s port n z p a ⟨rfl, hp⟩ hdue hfound rfl
    exact execTimeFill_of_lit hp hdue (by rw [hfound]; rfl)
  case acquisition =>
    intro s x hready hbest hfloor
    refine (if_pos hready).trans ?_
    dsimp only
    split
    · next hnone => exact absurd (hbest.symm.trans hnone) (Option.some_ne_none x)
    · next y hy =>
      obtain rfl : x = y := Option.some.inj (hbest.symm.trans hy)
      exact if_neg (Nat.not_lt.mpr hfloor)
  case acquisitionTimeout =>
    intro s hquiet
    exact congrArg Host.Outcome.next (if_pos hquiet)
  case coldStart =>
    rintro s ⟨hlit, hroot, hhead, hstate⟩ ⟨hcold, hwaited⟩
    exact congrArg Host.Outcome.next (if_pos ⟨hlit, hroot, hhead, hstate, hcold, hwaited⟩)
  case degraded =>
    rintro s ⟨hstate, hlong, hnot⟩
    exact congrArg Host.Outcome.next (if_pos ⟨hstate, hlong, Bool.eq_false_iff.mp hnot⟩)
  case agentHoldover =>
    intro s a hsilent
    exact congrArg Host.Outcome.next (if_pos hsilent)

end Sys2Proof.Machine

/-! The messages of recovery (R270 to R272) and of the abort exchange (R279, R281 to R284, R286). -/
namespace Sys2Proof.Machine

/-! ### At the head -/

/-- A RECOVER_REQ for a live plan is taken by the head, by its kind (R270). -/
theorem State.gotRecoverReq_of_live {v : State} {m : KMsg} {q : HeadPlan} (src : Addr) (hhead : v.isHead = true)
    (hlive : v.livePlan (msgSlice m) (wordAt m.words 0).toNat = some q) :
    v.gotRecoverReq src m =
      (v.headRequest q (v.rackOf src) (bitsOf (wordAt m.words 1) 0 4) (bitsOf (wordAt m.words 1) 16 16) (m.words.drop 2)).progress 0x06 := by
  simp only [State.gotRecoverReq, if_pos hhead, hlive]

/-- The recovery exchange a RECOVER_CLEARED is a reply of, by plan and number; number 0 is that of none (R270, R286). -/
def clearedOf (m : KMsg) (r : Recovery) : Bool :=
  r.slice == msgSlice m && r.ordinal == (wordAt m.words 0).toNat && r.number == (wordAt m.words 1).toNat && (wordAt m.words 1).toNat != 0

/-- A RECOVER_CLEARED adds its rack to those of its exchange; with every member rack the exchange ends in RECOVER_GO, else it waits on (R270). -/
theorem State.gotRecoverCleared_of_found {v : State} {m : KMsg} {r : Recovery} {q : HeadPlan} (src : Addr) (hhead : v.isHead = true)
    (hfound : v.clp.recoveries.find? (clearedOf m) = some r) (hlive : v.livePlan r.slice r.ordinal = some q) :
    v.gotRecoverCleared src m =
      if (q.racks.all fun k => (r.cleared.insert (v.rackOf src)).contains k) = true then
        ((((v.onClp fun c => { c with recoveries := c.recoveries.filter fun x => !clearedOf m x }).onLive q.slice q.ordinal fun x =>
          { x with gone := (wordAt m.words 1).toNat }).tellRacks q
            (v.planMsg 0x43 q.slice [w32 q.ordinal, w32 (wordAt m.words 1).toNat])).pumpRecovery q.slice q.ordinal).progress 0x06
      else v.onClp fun c => { c with
        recoveries := c.recoveries.map fun x => if clearedOf m x then { x with cleared := r.cleared.insert (v.rackOf src) } else x } := by
  unfold State.gotRecoverCleared
  extract_lets rack number mine
  have hmine : v.clp.recoveries.find? mine = some r := hfound
  simp only [if_pos hhead, hmine, Option.bind_some, hlive, Option.map_some]
  rfl

/-- The exchange a FROZEN answers: its plan's, while it is not waiting for the GEN spacing (R279, R281). -/
def frozenOf (m : KMsg) (a : AbortEx) : Bool := (a.slice == msgSlice m && a.ordinal == (wordAt m.words 0).toNat) && !a.waiting

/-- An exchange with the counts of a rack's FROZEN, in place of those it had of that rack (R281). -/
def AbortEx.gather (a : AbortEx) (rack : Nat) (m : KMsg) : AbortEx :=
  { a with replies := (a.replies.filter fun x => x.1 != rack) ++
      [(rack, (wordAt m.words 1).toNat, (wordAt m.words 2).toNat, (wordAt m.words 3).toNat, (wordAt m.words 4).toNat)] }

/-- A FROZEN of an open exchange is gathered, and the exchange decides (R281, R282). -/
theorem State.gotFrozen_of_open {v : State} {m : KMsg} {a : AbortEx} (src : Addr) (hhead : v.isHead = true)
    (hopen : v.clp.aborts.find? (frozenOf m) = some a) :
    v.gotFrozen src m =
      ((v.onClp fun c => { c with
        aborts := c.aborts.map fun x =>
          if x.slice == msgSlice m && x.ordinal == (wordAt m.words 0).toNat then a.gather (v.rackOf src) m else x }).decideAbort
          (a.gather (v.rackOf src) m)).progress 0x06 := by
  unfold State.gotFrozen
  extract_lets rack w mine
  have hmine : (v.clp.aborts.find? fun a => mine a && !a.waiting) = some a := hopen
  simp only [if_pos hhead, hmine]
  rfl

/-! ### At a member Keeper -/

/-- A RECOVER_CLEAR of the exchange the plan already notes clears nothing again: its reply goes again once the clearing is done (R270, R286). -/
theorem State.gotRecoverClear_of_known {v : State} {m : KMsg} {q : Plan} (src : Addr)
    (hplan : v.planOf (msgSlice m) (wordAt m.words 0).toNat = some q) (hknown : q.recovery = (wordAt m.words 1).toNat) :
    v.gotRecoverClear src m = if q.clearing then v else v.sendCleared q := by
  simp only [State.gotRecoverClear, hplan, if_pos hknown]

/-- The planes of a plan that a RECOVER_CLEAR moves to another plane (R272). -/
def Plan.movedBy (q : Plan) (m : KMsg) : Nat :=
  maskOf ((planeList q.planes).filter fun i => (remapOf (wordAt m.words 3) (wordAt m.words 4)).getD i i != i)

/-- What a RECOVER_CLEAR of a new exchange makes of its plan before the remap is written: the exchange is noted, the named pieces are cleared, the
recovery is counted and its faults are raised (R270, R272). -/
def State.beginClear (v : State) (q : Plan) (m : KMsg) : State :=
  let first := (wordAt m.words 2).toNat % 65536
  let last := (wordAt m.words 2).toNat / 65536
  let pieces := (m.words.drop 5).map BitVec.toNat
  let noted := v.onPlan q.ctx fun p =>
    { p with recovery := (wordAt m.words 1).toNat, gone := false, clearing := true, namedPieces := pieces, remap := remapOf (wordAt m.words 3) (wordAt m.words 4),
             lost := p.lost ||| q.movedBy m, recovered := [first, last], reqs := [] }
  (((noted.clearPieces q.ctx first last pieces).countReg Reg.CLP_RECOVERIES 1).raiseIf
    ((planeList (q.movedBy m)).any fun i => !q.lost.testBit i) Fld.CLP_FAULT_STATUS_PLANE_LOST).raise Fld.CLP_FAULT_STATUS_REPLAY

/-- A RECOVER_CLEAR of a new exchange, for a plan that is not frozen, clears, writes the remap to the plan's switches and replies once all is written
(R270, R272). -/
theorem State.gotRecoverClear_of_new {v : State} {m : KMsg} {q r : Plan} (src : Addr)
    (hplan : v.planOf (msgSlice m) (wordAt m.words 0).toNat = some q) (hnew : q.recovery ≠ (wordAt m.words 1).toNat) (hthawed : q.frozen = none)
    (hcleared : (v.beginClear q m).plan q.ctx = some r) :
    v.gotRecoverClear src m =
      (((v.beginClear q m).writeRemaps r ((v.beginClear q m).planSwitches r) (.plan r.ctx)).tryCleared q.ctx).progress 0x06 := by
  have hfrozen : ¬q.frozen.isSome = true := by simp [hthawed]
  simp only [State.beginClear, Plan.movedBy] at hcleared ⊢
  simp only [State.gotRecoverClear, hplan, if_neg hnew, if_neg hfrozen, hcleared]

/-- The first RECOVER_GO of the exchange the plan knows drops the Keeper's own unacknowledged packets and lets the members send again (R272). -/
theorem State.gotRecoverGo_of_cleared {v z : State} {m : KMsg} {q : Plan} (src : Addr)
    (hplan : v.planOf (msgSlice m) (wordAt m.words 0).toNat = some q) (hcleared : q.recovery = (wordAt m.words 1).toNat ∧ q.gone = false)
    (hz : z = (v.dropSent fun x => x.ctx == q.ctx && inLaunches (q.recovered.headD 0) (q.recovered.getD 1 (q.recovered.headD 0)) x.launch &&
      q.namedPieces.contains x.piece).onPlan q.ctx fun p => { p with gone := true }) :
    v.gotRecoverGo src m = (z.writeRemaps q ((z.planMembers q).map (·.1)) .upkeep).progress 0x06 := by
  subst hz
  have hfirst : ¬(q.recovery ≠ (wordAt m.words 1).toNat ∨ q.gone = true) := by simp [hcleared]
  simp only [State.gotRecoverGo, hplan, if_neg hfirst]

/-- FREEZE of a plan that is not frozen freezes it and asks its agents (R281). -/
theorem State.gotFreeze_of_thawed {v : State} {m : KMsg} {q : Plan} (src : Addr)
    (hplan : v.planOf (msgSlice m) (wordAt m.words 0).toNat = some q) (hthawed : q.frozen = none) :
    v.gotFreeze src m =
      (((v.onPlan q.ctx fun p => { p with
        frozen := some (wordAt m.words 1).toNat, answers := [], frozenSent := false, reqs := [], clearing := false,
        recovery := if p.gone then p.recovery else 0 }).writeFreeze q 12).tryFrozen q.ctx).progress 0x06 := by
  have hfrozen : ¬q.frozen.isSome = true := by simp [hthawed]
  simp only [State.gotFreeze, hplan, if_neg hfrozen]

/-- THAW of a frozen plan ends its freeze, then aborts it (outcome 0) or resumes it, and ends this Keeper's abort commands (R282 to R284). -/
theorem State.gotThaw_of_frozen {v z : State} {m : KMsg} {q : Plan} {cause : Nat} (src : Addr)
    (hplan : v.planOf (msgSlice m) (wordAt m.words 0).toNat = some q) (hfrozen : q.frozen = some cause)
    (hz : z = (v.onPlan q.ctx fun p => { p with frozen := none, frozenSent := false, answers := [] }).writeFreeze q 13) :
    v.gotThaw src m =
      ((if (wordAt m.words 1).toNat = 0 then (z.thawAbort q.ctx cause (wordAt m.words 2).toNat (wordAt m.words 3).toNat m.flash.toNat).tryRelease q.ctx
        else (z.raiseIf ((wordAt m.words 1).toNat == 1) Fld.CLP_FAULT_STATUS_ALREADY_COMPLETE).resumePieces q.ctx).endAborts (msgSlice m)
          (wordAt m.words 0).toNat m).progress 0x06 := by
  subst hz
  simp only [State.gotThaw, hplan, hfrozen]

/-- Settles O33: a message taken goes to the act of its type (takeMsg_of_takes), which takes the branch its conditions open. -/
theorem recoveryMessagesTakeEffect : Obligations.RecoveryMessagesTakeEffect := by
  refine ⟨?abortReq, ?recoverReq, ?clearKnown, ?clearNew, ?clearedWaits, ?clearedLast, ?recoverGo, ?freeze, ?frozen, ?thawResumes, ?thawAborts⟩
  case abortReq =>
    intro s v port p src m h hhead
    exact congrArg Host.Outcome.next ((State.takeMsg_of_takes _ h).trans (if_neg (not_not_intro hhead)))
  case recoverReq =>
    intro s v port p src m q h hhead hlive
    exact congrArg Host.Outcome.next ((State.takeMsg_of_takes _ h).trans (State.gotRecoverReq_of_live src hhead hlive))
  case clearKnown =>
    intro s v port p src m q h hplan hknown
    exact congrArg Host.Outcome.next ((State.takeMsg_of_takes _ h).trans (State.gotRecoverClear_of_known src hplan hknown))
  case clearNew =>
    rintro s v port p src m q z r h hplan ⟨hnew, hthawed⟩ rfl hcleared
    exact congrArg Host.Outcome.next ((State.takeMsg_of_takes _ h).trans (State.gotRecoverClear_of_new src hplan hnew hthawed hcleared))
  case clearedWaits =>
    intro s v port p src m r q h hhead hfound hlive hmissing
    have hwaits : (q.racks.all fun k => (r.cleared.insert (v.rackOf src)).contains k) = false := by
      simpa only [List.contains_insert] using hmissing
    refine ⟨_, congrArg Host.Outcome.next ((State.takeMsg_of_takes _ h).trans
      ((State.gotRecoverCleared_of_found src hhead hfound hlive).trans (if_neg (Bool.eq_false_iff.mp hwaits)))), rfl⟩
  case clearedLast =>
    intro s v port p src m r q h hhead hfound hlive hall
    have hlast : (q.racks.all fun k => (r.cleared.insert (v.rackOf src)).contains k) = true := by
      simpa only [List.contains_insert] using hall
    exact congrArg Host.Outcome.next ((State.takeMsg_of_takes _ h).trans
      ((State.gotRecoverCleared_of_found src hhead hfound hlive).trans (if_pos hlast)))
  case recoverGo =>
    intro s v port p src m q z h hplan hcleared hz
    exact congrArg Host.Outcome.next ((State.takeMsg_of_takes _ h).trans (State.gotRecoverGo_of_cleared src hplan hcleared hz))
  case freeze =>
    intro s v port p src m q h hplan hthawed
    exact congrArg Host.Outcome.next ((State.takeMsg_of_takes _ h).trans (State.gotFreeze_of_thawed src hplan hthawed))
  case frozen =>
    rintro s v port p src m a b h hhead hopen rfl
    exact congrArg Host.Outcome.next ((State.takeMsg_of_takes _ h).trans (State.gotFrozen_of_open src hhead hopen))
  case thawResumes =>
    intro s v port p src m q c h hplan hfrozen houtcome
    have hresumes : (wordAt m.words 1).toNat ≠ 0 := fun h0 => houtcome (BitVec.eq_of_toNat_eq h0)
    have hthaw := State.gotThaw_of_frozen src hplan hfrozen rfl
    rw [if_neg hresumes] at hthaw
    exact congrArg Host.Outcome.next ((State.takeMsg_of_takes _ h).trans hthaw)
  case thawAborts =>
    intro s v port p src m q c h hplan hfrozen houtcome
    have haborts : (wordAt m.words 1).toNat = 0 := congrArg BitVec.toNat houtcome
    have hthaw := State.gotThaw_of_frozen src hplan hfrozen rfl
    rw [if_pos haborts] at hthaw
    exact congrArg Host.Outcome.next ((State.takeMsg_of_takes _ h).trans hthaw)

end Sys2Proof.Machine

/-! The clock on an empty queue (log entry 1; R12, R13, R299, R506). -/
namespace Sys2Proof.Machine

theorem step_of_empty {s : State} (hempty : s.pending = []) : step s = .next s.idle := by
  simp only [step, hempty]

/-- The mask of the clock's parts, as State.idle_kept has it, leaves out every other part. -/
theorem testBit_clockParts {p : Part} (htim : p ≠ .tim) (hhif : p ≠ .hif) (hwork : p ≠ .work) : Nat.testBit 0x1c p.bit = false := by
  cases p with
  | tim => exact absurd rfl htim
  | hif => exact absurd rfl hhif
  | work => exact absurd rfl hwork
  | _ => rfl

theorem State.idle_kept_clockParts (s : State) : State.Kept s.pending 0x1c s s.idle :=
  State.idle_kept rfl (State.Kept.refl 0x1c s)

@[simp] theorem State.idle_regs (s : State) : s.idle.regs = s.regs := rfl

@[simp] theorem State.idle_hif (s : State) : s.idle.hif = { s.hif with sets := [], again := [] } := rfl

@[simp] theorem State.idle_work (s : State) : s.idle.work = { s.work with opening := false } := rfl

@[simp] theorem State.idle_tim (s : State) :
    s.idle.tim = { s.tim with offset := if s.tim.offset + 128 < s.flashUnits then s.tim.offset + 128 else s.tim.offset } := rfl

/-- Settles O6: the step runs State.idle, which keeps the queue and all parts but the clock's three (State.idle_kept); those it changes as stated. -/
theorem idleStepRunsTheClock : Obligations.IdleStepRunsTheClock := by
  intro s hempty
  have hkept := s.idle_kept_clockParts
  refine ⟨s.idle, step_of_empty hempty, hkept.queue.trans hempty, s.idle_regs, ?others, s.idle_hif, s.idle_work, s.idle_tim⟩
  case others =>
    intro p htim hhif hwork
    exact hkept.same.agrees p (testBit_clockParts htim hhif hwork)

end Sys2Proof.Machine

/-! The queue: a step runs its front command and keeps the rest (R468, R511). -/
namespace Sys2Proof.Machine

/-- Settles O3: the second arm of step. -/
theorem stepRunsFrontCommand : Obligations.StepRunsFrontCommand := fun _ _ _ => rfl

/-- Settles O5: the queue after a step is the tail of the queue before it, by step_kept. -/
theorem queueIsFirstInFirstOut : Obligations.QueueIsFirstInFirstOut := by
  intro c rest s hq
  obtain ⟨t, ht, hk⟩ := step_kept s
  exact ⟨t, ht, hk.queue.trans (congrArg List.tail hq)⟩

end Sys2Proof.Machine

/-! From a meaning's lemma (Laws/Kept*) to the frame of its row. -/
namespace Sys2Proof.Machine

/-- The mask of Laws/Kept.lean that names some parts. -/
abbrev partsMask (ps : List Part) : Nat := maskOf (ps.map Part.bit)

/-- The mask of Laws/Kept.lean that names some parts and register blocks. -/
abbrev frameMask (ps : List Part) (bs : List Blk) : Nat := maskOf (ps.map Part.bit ++ bs.map fun b => 32 + b.code)

theorem Part.bit_lt (p : Part) : p.bit < 32 := by
  cases p <;> decide

theorem Part.bit_injective : Function.Injective Part.bit := fun p q h =>
  List.inj_on_of_nodup_map (by decide : (Part.every.map Part.bit).Nodup) p.mem_every q.mem_every h

/-- A frame's mask leaves out the parts not listed. -/
theorem testBit_frameMask_part {ps : List Part} {p : Part} (bs : List Blk) (hp : p ∉ ps) : (frameMask ps bs).testBit p.bit = false := by
  have hlt := p.bit_lt
  simp only [frameMask, testBit_maskOf, List.contains_eq_mem, decide_eq_false_iff_not, List.mem_append, List.mem_map, not_or, not_exists, not_and]
  exact ⟨fun q hq h => hp (Part.bit_injective h ▸ hq), fun b _ h => by omega⟩

/-- A frame's mask leaves out the register blocks not listed. -/
theorem testBit_frameMask_block {bs : List Blk} {n : Nat} (ps : List Part) (hn : ∀ b ∈ bs, n ≠ b.code) :
    (frameMask ps bs).testBit (32 + n) = false := by
  simp only [frameMask, testBit_maskOf, List.contains_eq_mem, decide_eq_false_iff_not, List.mem_append, List.mem_map, not_or, not_exists, not_and]
  exact ⟨fun q _ h => by have := q.bit_lt; omega, fun b hb h => hn b hb (by omega)⟩

/-- A meaning that keeps all but what a frame's mask names runs within that frame. -/
theorem Runs.changesFrame {s : State} {ps : List Part} {bs : List Blk} {r : Host.Outcome State Fault Refusal}
    (h : Runs s.pending (frameMask ps bs) s r) : ∃ t, r = .next t ∧ s.ChangesOnly t ps bs := by
  obtain ⟨t, ht, hk⟩ := h
  exact ⟨t, ht, hk.queue, fun p hp => hk.same.agrees p (testBit_frameMask_part bs hp),
    fun off ho => hk.same.regs off (testBit_frameMask_block ps ho)⟩

/-- The same for a row that may write a register of any block. -/
theorem Runs.partsFrame {s : State} {ps : List Part} {r : Host.Outcome State Fault Refusal}
    (h : Runs s.pending (allBlocks ||| partsMask ps) s r) : ∃ t, r = .next t ∧ t.pending = s.pending ∧ ∀ p, p ∉ ps → s.agrees t p := by
  obtain ⟨t, ht, hk⟩ := h
  refine ⟨t, ht, hk.queue, fun p hp => hk.same.agrees p ?_⟩
  have hlow : allBlocks.testBit p.bit = false := by cases p <;> rfl
  have hout : (partsMask ps).testBit p.bit = false := by simpa [frameMask] using testBit_frameMask_part [] hp
  rw [Nat.testBit_or, hlow, hout, Bool.or_false]

/-- Settles O11: row by row, the lemma of the row's meaning (Laws/Kept*) read as a frame. -/
theorem hostRowsFrame : Obligations.HostRowsFrame :=
  ⟨fun _ _ _ _ s => (execRegisterWrite_kept rfl (.refl _ s)).partsFrame,
   fun _ _ s => (execLowHalfRead_kept rfl (.refl _ s)).changesFrame,
   fun _ _ s => (execUnalignedRead_kept rfl (.refl _ s)).changesFrame,
   fun _ s => (execSerialFloorWrite_kept rfl (.refl _ s)).partsFrame,
   fun _ s => (execFabricTestStart_kept rfl (.refl _ s)).partsFrame,
   fun _ s => (execClearQuar_kept rfl (.refl _ s)).partsFrame,
   fun _ s => (execLmpInjectArm_kept rfl (.refl _ s)).partsFrame,
   fun _ s => (execFloorClear_kept rfl (.refl _ s)).partsFrame,
   fun _ s => (execWallApply_kept rfl (.refl _ s)).partsFrame,
   fun _ s => (execTelPeakClear_kept rfl (.refl _ s)).partsFrame,
   fun _ s => (execEnrolGo_kept rfl (.refl _ s)).partsFrame,
   fun _ s => (execKeyRotate_kept rfl (.refl _ s)).partsFrame,
   fun _ s => (execHandover_kept rfl (.refl _ s)).partsFrame,
   fun _ s => (execResyncReq_kept rfl (.refl _ s)).partsFrame,
   fun _ s => (execRstTestStall_kept rfl (.refl _ s)).partsFrame,
   fun _ s => (execSetWakeLatency_kept rfl (.refl _ s)).changesFrame,
   fun _ s => (execAgentRead_kept rfl (.refl _ s)).changesFrame,
   fun _ s => (execAgentWrite_kept rfl (.refl _ s)).changesFrame,
   fun _ _ s => (execReservedOpcode_kept rfl (.refl _ s)).partsFrame,
   fun _ s => (execMsixSpacingExpiry_kept rfl (.refl _ s)).changesFrame,
   fun s => (execFunctionLevelReset_kept rfl (.refl _ s)).changesFrame,
   fun s => (execPerstAssert_kept rfl (.refl _ s)).changesFrame,
   fun s => (execD3hotEntry_kept rfl (.refl _ s)).changesFrame,
   fun s => (execD0Return_kept rfl (.refl _ s)).changesFrame,
   fun _ s => (execPwrPeakClear_kept rfl (.refl _ s)).partsFrame,
   fun _ _ s => (execPcieLinkTrained_kept rfl (.refl _ s)).changesFrame,
   fun _ _ _ s => (execCommandWindowWrite_kept rfl (.refl _ s)).partsFrame,
   fun _ _ s => (execAutoSpare_kept rfl (.refl _ s)).partsFrame⟩

/-- Settles O12: row by row, the lemma of the row's meaning (Laws/Kept*) read as a frame. -/
theorem flashAndHeadRowsFrame : Obligations.FlashAndHeadRowsFrame :=
  ⟨fun _ s => (execFlashBoundary_kept rfl (.refl _ s)).partsFrame,
   fun _ _ s => (execBatchClose_kept rfl (.refl _ s)).changesFrame,
   fun _ s => (execProposalArrival_kept rfl (.refl _ s)).changesFrame,
   fun _ s => (execProposalFallback_kept rfl (.refl _ s)).changesFrame,
   fun _ _ s => (execDrainEmptyEvent_kept rfl (.refl _ s)).changesFrame,
   fun s => (execActingHeadEntry_kept rfl (.refl _ s)).changesFrame,
   fun s => (execHandbackFlash_kept rfl (.refl _ s)).changesFrame,
   fun _ _ s => (execHandback_kept rfl (.refl _ s)).changesFrame,
   fun _ _ s => (execHeadBeat_kept rfl (.refl _ s)).changesFrame,
   fun _ _ s => (execDrainNotice_kept rfl (.refl _ s)).changesFrame,
   fun _ _ s => (execDrainReport_kept rfl (.refl _ s)).changesFrame,
   fun _ _ s => (execSliceDone_kept rfl (.refl _ s)).changesFrame⟩

/-- Settles O13: row by row, the lemma of the row's meaning (Laws/Kept*) read as a frame. -/
theorem chartRowsFrame : Obligations.ChartRowsFrame :=
  ⟨fun _ s => (execLoadChart_kept rfl (.refl _ s)).changesFrame,
   fun _ s => (execChartCheckDone_kept rfl (.refl _ s)).changesFrame,
   fun _ s => (execStore_kept rfl (.refl _ s)).changesFrame,
   fun _ s => (execStoreWriteDone_kept rfl (.refl _ s)).changesFrame,
   fun s => (execBootChartLight_kept rfl (.refl _ s)).changesFrame,
   fun _ s => (execLightChart_kept rfl (.refl _ s)).changesFrame,
   fun s => (execChartLight_kept rfl (.refl _ s)).changesFrame,
   fun s => (execChartAnnounceWithdrawal_kept rfl (.refl _ s)).changesFrame,
   fun s => (execBankLight_kept rfl (.refl _ s)).changesFrame⟩

/-- Settles O14: row by row, the lemma of the row's meaning (Laws/Kept*) read as a frame. -/
theorem portRowsFrame : Obligations.PortRowsFrame :=
  ⟨fun _ _ _ s => (execHcrcError_kept rfl (.refl _ s)).changesFrame,
   fun _ _ _ s => (execFrameCheckError_kept rfl (.refl _ s)).changesFrame,
   fun _ _ s => (execEgressPacketBoundary_kept rfl (.refl _ s)).changesFrame,
   fun _ _ s => (execWindowAck_kept rfl (.refl _ s)).changesFrame,
   fun _ _ s => (execResyncMark_kept rfl (.refl _ s)).changesFrame,
   fun _ _ _ s => (execResyncGrant_kept rfl (.refl _ s)).changesFrame,
   fun _ _ s => (execPortChangeEvent_kept rfl (.refl _ s)).changesFrame,
   fun _ _ s => (execAgentResetEvent_kept rfl (.refl _ s)).changesFrame,
   fun _ _ s => (execGoMissingEvent_kept rfl (.refl _ s)).changesFrame,
   fun s => (execLasersReady_kept rfl (.refl _ s)).changesFrame,
   fun _ _ _ s => (execPortTrainDone_kept rfl (.refl _ s)).changesFrame,
   fun _ _ s => (execHello_kept rfl (.refl _ s)).changesFrame,
   fun _ _ s => (execLinkConfirm_kept rfl (.refl _ s)).changesFrame,
   fun _ _ s => (execBeacon_kept rfl (.refl _ s)).changesFrame,
   fun _ s => (execBeaconSend_kept rfl (.refl _ s)).changesFrame,
   fun _ s => (execVerifyTimeout_kept rfl (.refl _ s)).changesFrame,
   fun _ s => (execBeaconLoss_kept rfl (.refl _ s)).changesFrame,
   fun _ s => (execDarkRetry_kept rfl (.refl _ s)).changesFrame,
   fun _ s => (execSparePositionMoveDone_kept rfl (.refl _ s)).changesFrame,
   fun _ _ s => (execLaneSignalLoss_kept rfl (.refl _ s)).changesFrame,
   fun _ _ s => (execLaneChange_kept rfl (.refl _ s)).changesFrame,
   fun _ s => (execLaserFault_kept rfl (.refl _ s)).changesFrame,
   fun _ s => (execRekeyDue_kept rfl (.refl _ s)).changesFrame,
   fun _ _ s => (execRekey_kept rfl (.refl _ s)).changesFrame,
   fun _ _ s => (execParkEntry_kept rfl (.refl _ s)).changesFrame,
   fun _ _ s => (execPark_kept rfl (.refl _ s)).changesFrame,
   fun _ s => (execLinkWakeRequest_kept rfl (.refl _ s)).changesFrame,
   fun _ s => (execWake_kept rfl (.refl _ s)).changesFrame,
   fun _ _ s => (execWakeComplete_kept rfl (.refl _ s)).changesFrame,
   fun _ _ s => (execFabricTestEnd_kept rfl (.refl _ s)).partsFrame,
   fun _ s => (execKeyAgreementTimeout_kept rfl (.refl _ s)).changesFrame,
   fun _ _ s => (execTestHoldRequest_kept rfl (.refl _ s)).changesFrame,
   fun _ _ s => (execTestHoldAgree_kept rfl (.refl _ s)).changesFrame,
   fun _ _ s => (execReservedOpkindPacket_kept rfl (.refl _ s)).changesFrame,
   fun _ _ s => (execLinkControlBlockInvalid_kept rfl (.refl _ s)).changesFrame,
   fun _ _ _ _ s => (execCreditReturn_kept rfl (.refl _ s)).changesFrame,
   fun _ _ _ s => (execTokenBucketRefill_kept rfl (.refl _ s)).changesFrame⟩

/-- Settles O15: row by row, the lemma of the row's meaning (Laws/Kept*) read as a frame. -/
theorem solverRowsFrame : Obligations.SolverRowsFrame :=
  ⟨fun _ _ s => (execRackReport_kept rfl (.refl _ s)).changesFrame,
   fun _ _ s => (execEpoch_kept rfl (.refl _ s)).changesFrame,
   fun _ _ s => (execEpochReq_kept rfl (.refl _ s)).changesFrame,
   fun _ _ s => (execLinkNotice_kept rfl (.refl _ s)).changesFrame,
   fun _ s => (execSectorVerdict_kept rfl (.refl _ s)).changesFrame,
   fun s => (execBankLoadDone_kept rfl (.refl _ s)).changesFrame,
   fun _ _ s => (execBankReady_kept rfl (.refl _ s)).changesFrame,
   fun _ _ s => (execAnnounce_kept rfl (.refl _ s)).changesFrame,
   fun _ _ s => (execReady_kept rfl (.refl _ s)).changesFrame,
   fun _ _ s => (execNotReady_kept rfl (.refl _ s)).changesFrame,
   fun s => (execReadyDeadline_kept rfl (.refl _ s)).changesFrame,
   fun _ _ s => (execPostpone_kept rfl (.refl _ s)).changesFrame,
   fun _ _ s => (execConfirm_kept rfl (.refl _ s)).changesFrame,
   fun s => (execGoRepeat_kept rfl (.refl _ s)).changesFrame,
   fun _ _ s => (execLitReport_kept rfl (.refl _ s)).changesFrame,
   fun _ _ s => (execWithdraw_kept rfl (.refl _ s)).changesFrame,
   fun _ s => (execRackFence_kept rfl (.refl _ s)).changesFrame,
   fun _ s => (execSliceCreate_kept rfl (.refl _ s)).changesFrame,
   fun _ s => (execSliceReseal_kept rfl (.refl _ s)).changesFrame,
   fun _ s => (execSliceDrain_kept rfl (.refl _ s)).changesFrame,
   fun _ s => (execSliceDestroy_kept rfl (.refl _ s)).changesFrame,
   fun _ _ s => (execSliceReq_kept rfl (.refl _ s)).changesFrame,
   fun s => (execAdmissionSolveDone_kept rfl (.refl _ s)).changesFrame,
   fun _ _ s => (execSliceReply_kept rfl (.refl _ s)).changesFrame,
   fun s => (execSliceReqTimeout_kept rfl (.refl _ s)).changesFrame,
   fun _ _ s => (execSliceTable_kept rfl (.refl _ s)).changesFrame,
   fun s => (execDrainLimitExpiry_kept rfl (.refl _ s)).changesFrame⟩

/-- Settles O16: row by row, the lemma of the row's meaning (Laws/Kept*) read as a frame. -/
theorem collectiveRowsFrame : Obligations.CollectiveRowsFrame :=
  ⟨fun _ s => (execPlanCollective_kept rfl (.refl _ s)).changesFrame,
   fun _ _ s => (execPlanReq_kept rfl (.refl _ s)).changesFrame,
   fun _ _ s => (execPlanOrder_kept rfl (.refl _ s)).changesFrame,
   fun _ _ s => (execPlanOffer_kept rfl (.refl _ s)).changesFrame,
   fun _ _ s => (execPlanCommit_kept rfl (.refl _ s)).changesFrame,
   fun _ _ s => (execPlanReady_kept rfl (.refl _ s)).changesFrame,
   fun _ _ s => (execPlanDone_kept rfl (.refl _ s)).changesFrame,
   fun s => (execPlanMemberSilent_kept rfl (.refl _ s)).changesFrame,
   fun s => (execPlanReqTimeout_kept rfl (.refl _ s)).changesFrame,
   fun _ _ s => (execRsContrib_kept rfl (.refl _ s)).changesFrame,
   fun _ _ s => (execRsResult_kept rfl (.refl _ s)).changesFrame,
   fun _ _ s => (execAgData_kept rfl (.refl _ s)).changesFrame,
   fun _ _ s => (execBarrier_kept rfl (.refl _ s)).changesFrame,
   fun _ _ _ _ _ s => (execLampUnitDone_kept rfl (.refl _ s)).changesFrame,
   fun s => (execSpillWriteDone_kept rfl (.refl _ s)).changesFrame,
   fun _ _ _ s => (execLanternContrib_kept rfl (.refl _ s)).changesFrame,
   fun _ _ _ s => (execLanternPartial_kept rfl (.refl _ s)).changesFrame,
   fun _ _ s => (execLanternNeed_kept rfl (.refl _ s)).changesFrame,
   fun _ s => (execNeedTimer_kept rfl (.refl _ s)).changesFrame⟩

/-- Settles O17: row by row, the lemma of the row's meaning (Laws/Kept*) read as a frame. -/
theorem recoveryRowsFrame : Obligations.RecoveryRowsFrame :=
  ⟨fun _ _ s => (execFlowBrokenEvent_kept rfl (.refl _ s)).changesFrame,
   fun _ _ s => (execPlaceDiscardedEvent_kept rfl (.refl _ s)).changesFrame,
   fun _ _ s => (execOverflowEvent_kept rfl (.refl _ s)).changesFrame,
   fun s => (execReleaseLimitExpiry_kept rfl (.refl _ s)).changesFrame,
   fun _ _ _ s => (execCollectiveRetransmit_kept rfl (.refl _ s)).changesFrame,
   fun _ _ s => (execRecoverReq_kept rfl (.refl _ s)).changesFrame,
   fun _ _ s => (execRecoverClear_kept rfl (.refl _ s)).changesFrame,
   fun _ _ s => (execRecoverCleared_kept rfl (.refl _ s)).changesFrame,
   fun _ _ s => (execRecoverGo_kept rfl (.refl _ s)).changesFrame,
   fun s => (execRecoveryReplyTimeout_kept rfl (.refl _ s)).changesFrame,
   fun _ s => (execAbortCollective_kept rfl (.refl _ s)).changesFrame,
   fun _ _ s => (execAbortReq_kept rfl (.refl _ s)).changesFrame,
   fun _ _ s => (execFreeze_kept rfl (.refl _ s)).changesFrame,
   fun _ _ s => (execFrozen_kept rfl (.refl _ s)).changesFrame,
   fun _ _ s => (execThaw_kept rfl (.refl _ s)).changesFrame,
   fun s => (execGenSpacingElapsed_kept rfl (.refl _ s)).changesFrame,
   fun s => (execStallDetect_kept rfl (.refl _ s)).changesFrame,
   fun s => (execStragglerDetect_kept rfl (.refl _ s)).changesFrame⟩

/-- Settles O18: row by row, the lemma of the row's meaning (Laws/Kept*) read as a frame. -/
theorem timeTelemetryAndLogRowsFrame : Obligations.TimeTelemetryAndLogRowsFrame :=
  ⟨fun _ _ s => (execLoadReport_kept rfl (.refl _ s)).changesFrame,
   fun _ _ s => (execTimeExchangeRequest_kept rfl (.refl _ s)).changesFrame,
   fun _ _ s => (execTimeExchangeReply_kept rfl (.refl _ s)).changesFrame,
   fun _ _ s => (execTimeFill_kept rfl (.refl _ s)).changesFrame,
   fun s => (execTimeAcquisitionStep_kept rfl (.refl _ s)).changesFrame,
   fun s => (execAcquisitionTimeout_kept rfl (.refl _ s)).changesFrame,
   fun s => (execColdStart_kept rfl (.refl _ s)).changesFrame,
   fun s => (execDegradedEntry_kept rfl (.refl _ s)).changesFrame,
   fun _ s => (execAgentHoldover_kept rfl (.refl _ s)).changesFrame,
   fun s => (execSaturationWarn_kept rfl (.refl _ s)).changesFrame,
   fun _ s => (execReadLoadmap_kept rfl (.refl _ s)).changesFrame,
   fun _ s => (execLogEvent_kept rfl (.refl _ s)).changesFrame,
   fun _ _ _ _ s => (execPilotLogSubmit_kept rfl (.refl _ s)).changesFrame,
   fun _ _ _ s => (execBar4Read_kept rfl (.refl _ s)).changesFrame,
   fun _ value s => (execBar4Write_kept (value := value) rfl (.refl _ s)).changesFrame,
   fun _ _ s => (execFillPacketReceived_kept rfl (.refl _ s)).changesFrame⟩

/-- Settles O19: row by row, the lemma of the row's meaning (Laws/Kept*) read as a frame. -/
theorem wardenRowsFrame : Obligations.WardenRowsFrame :=
  ⟨fun _ s => (execPilotCoreStop_kept rfl (.refl _ s)).changesFrame,
   fun _ s => (execWardenStart_kept rfl (.refl _ s)).changesFrame,
   fun s => (execEnrolVerifyDone_kept rfl (.refl _ s)).changesFrame,
   fun _ s => (execAttest_kept rfl (.refl _ s)).changesFrame,
   fun _ s => (execIssueSeal_kept rfl (.refl _ s)).changesFrame,
   fun s => (execSignatureDone_kept rfl (.refl _ s)).changesFrame,
   fun s => (execSealRenewal_kept rfl (.refl _ s)).changesFrame,
   fun s => (execSealPublish_kept rfl (.refl _ s)).changesFrame,
   fun s => (execSealDirectWrite_kept rfl (.refl _ s)).changesFrame,
   fun s => (execSealLow_kept rfl (.refl _ s)).changesFrame,
   fun _ s => (execPilotFirmwareReplace_kept rfl (.refl _ s)).changesFrame⟩

/-- Settles O20: row by row, the lemma of the row's meaning (Laws/Kept*) read as a frame. -/
theorem mooringRowsFrame : Obligations.MooringRowsFrame :=
  ⟨fun _ s => (execGrantAssert_kept rfl (.refl _ s)).changesFrame,
   fun s => (execTakeoverAdopt_kept rfl (.refl _ s)).partsFrame,
   fun _ s => (execSmbusIdent_kept rfl (.refl _ s)).changesFrame,
   fun _ s => (execSmbusHealth_kept rfl (.refl _ s)).changesFrame,
   fun _ _ s => (execSmbusNote_kept rfl (.refl _ s)).changesFrame,
   fun _ s => (execMoorDelta_kept rfl (.refl _ s)).changesFrame,
   fun _ _ s => (execMoorCommit_kept rfl (.refl _ s)).changesFrame,
   fun _ s => (execMoorAck_kept rfl (.refl _ s)).changesFrame,
   fun _ s => (execMoorNack_kept rfl (.refl _ s)).changesFrame,
   fun _ _ s => (execMoorStatus_kept rfl (.refl _ s)).changesFrame,
   fun s => (execCommitAckTimeout_kept rfl (.refl _ s)).changesFrame,
   fun s => (execCommitLoss_kept rfl (.refl _ s)).changesFrame,
   fun s => (execDeltaApply_kept rfl (.refl _ s)).changesFrame,
   fun _ _ s => (execMirrorSelect_kept rfl (.refl _ s)).changesFrame,
   fun _ _ s => (execMirrorSelectAck_kept rfl (.refl _ s)).changesFrame,
   fun _ s => (execMirrorResend_kept rfl (.refl _ s)).changesFrame,
   fun s => (execFinalCommitTimeout_kept rfl (.refl _ s)).partsFrame,
   fun _ _ s => (execStateQuery_kept rfl (.refl _ s)).changesFrame,
   fun _ _ s => (execStateReply_kept rfl (.refl _ s)).changesFrame,
   fun _ _ s => (execGraphReq_kept rfl (.refl _ s)).changesFrame,
   fun _ _ s => (execGraph_kept rfl (.refl _ s)).changesFrame⟩

/-- Settles O21: row by row, the lemma of the row's meaning (Laws/Kept*) read as a frame. -/
theorem resetAndPowerRowsFrame : Obligations.ResetAndPowerRowsFrame :=
  ⟨fun s => (execGrantWithdraw_kept rfl (.refl _ s)).partsFrame,
   fun _ _ s => (execSelftestResult_kept rfl (.refl _ s)).changesFrame,
   fun _ _ _ s => (execEngineHang_kept rfl (.refl _ s)).partsFrame,
   fun _ s => (execEngineResetDone_kept rfl (.refl _ s)).changesFrame,
   fun _ _ s => (execContextHang_kept rfl (.refl _ s)).changesFrame,
   fun _ s => (execHostDmaTimeout_kept rfl (.refl _ s)).changesFrame,
   fun s => (execAonWatchdog_kept rfl (.refl _ s)).partsFrame,
   fun _ s => (execEscalateReset_kept rfl (.refl _ s)).partsFrame,
   fun s => (execDeferredResetStart_kept rfl (.refl _ s)).partsFrame,
   fun s => (execPartResetStart_kept rfl (.refl _ s)).partsFrame,
   fun s => (execPartResetEnd_kept rfl (.refl _ s)).changesFrame,
   fun s => (execPartFitTimeout_kept rfl (.refl _ s)).partsFrame,
   fun s => (execChipReset_kept rfl (.refl _ s)).partsFrame,
   fun s => (execChipFitTimeout_kept rfl (.refl _ s)).partsFrame,
   fun s => (execSampleRoomTimeout_kept rfl (.refl _ s)).changesFrame,
   fun _ _ s => (execDetectionError_kept rfl (.refl _ s)).partsFrame,
   fun _ s => (execPseudoChannelCopyDone_kept rfl (.refl _ s)).changesFrame,
   fun s => (execLogRingMove_kept rfl (.refl _ s)).changesFrame,
   fun s => (execLogCopyDone_kept rfl (.refl _ s)).partsFrame,
   fun s => (execModReset_kept rfl (.refl _ s)).partsFrame,
   fun _ _ _ _ s => (execPowerUp_kept rfl (.refl _ s)).partsFrame,
   fun _ s => (execRailFailRetry_kept rfl (.refl _ s)).partsFrame,
   fun s => (execVinDip_kept rfl (.refl _ s)).changesFrame,
   fun s => (execVinLoss_kept rfl (.refl _ s)).partsFrame,
   fun _ s => (execShutdownLimit_kept rfl (.refl _ s)).changesFrame,
   fun s => (execShutdownReleaseTimeout_kept rfl (.refl _ s)).partsFrame,
   fun s => (execThermalTrip_kept rfl (.refl _ s)).partsFrame,
   fun s => (execThrottleStep_kept rfl (.refl _ s)).changesFrame,
   fun s => (execFrefLoss_kept rfl (.refl _ s)).changesFrame,
   fun s => (execFrefRestore_kept rfl (.refl _ s)).changesFrame,
   fun _ _ _ s => (execHostDmaCompletion_kept rfl (.refl _ s)).changesFrame,
   fun s => (execModResetDeassert_kept rfl (.refl _ s)).changesFrame,
   fun s => (execLogCopyCutShort_kept rfl (.refl _ s)).partsFrame,
   fun _ _ s => (execContextResetDone_kept rfl (.refl _ s)).changesFrame⟩

/-- Settles O22: row by row, the lemma of the row's meaning (Laws/Kept*) read as a frame. -/
theorem agentRowsFrame : Obligations.AgentRowsFrame :=
  ⟨fun _ _ s => (execMgmtReply_kept rfl (.refl _ s)).changesFrame,
   fun _ s => (execMgmtResend_kept rfl (.refl _ s)).changesFrame,
   fun _ s => (execAgentPause_kept rfl (.refl _ s)).changesFrame,
   fun _ s => (execAgentBankLight_kept rfl (.refl _ s)).changesFrame,
   fun _ s => (execDrainGuardEnd_kept rfl (.refl _ s)).changesFrame,
   fun _ _ _ _ s => (execAgentMgmtRead_kept rfl (.refl _ s)).changesFrame,
   fun _ _ _ _ s => (execAgentMgmtWrite_kept rfl (.refl _ s)).changesFrame,
   fun _ _ _ _ s => (execAgentBroadcastWrite_kept rfl (.refl _ s)).changesFrame,
   fun _ _ s => (execAgentEventResend_kept rfl (.refl _ s)).changesFrame,
   fun _ _ _ s => (execAgentArm_kept rfl (.refl _ s)).changesFrame,
   fun _ _ _ s => (execAgentDisarm_kept rfl (.refl _ s)).changesFrame,
   fun _ _ _ s => (execAgentSetLit_kept rfl (.refl _ s)).changesFrame,
   fun _ _ _ s => (execAgentGo_kept rfl (.refl _ s)).changesFrame,
   fun _ _ _ s => (execAgentFreeze_kept rfl (.refl _ s)).changesFrame,
   fun _ _ _ s => (execAgentThaw_kept rfl (.refl _ s)).changesFrame,
   fun _ _ _ s => (execAgentCheckValue_kept rfl (.refl _ s)).changesFrame,
   fun _ s => (execAgentCheckValueDone_kept rfl (.refl _ s)).changesFrame,
   fun _ _ _ s => (execAgentSealCommit_kept rfl (.refl _ s)).changesFrame,
   fun _ _ s => (execAgentSealVerifyDone_kept rfl (.refl _ s)).changesFrame,
   fun _ s => (execAgentSealExpiry_kept rfl (.refl _ s)).changesFrame,
   fun _ s => (execAgentGraceEnd_kept rfl (.refl _ s)).changesFrame,
   fun _ _ _ s => (execAgentTrim_kept rfl (.refl _ s)).changesFrame,
   fun _ _ _ s => (execAgentRate_kept rfl (.refl _ s)).changesFrame,
   fun _ _ _ s => (execAgentStep_kept rfl (.refl _ s)).changesFrame,
   fun _ s => (execAgentPeriodChange_kept rfl (.refl _ s)).changesFrame,
   fun _ _ _ s => (execAgentServe_kept rfl (.refl _ s)).changesFrame,
   fun _ _ s => (execAgentReset_kept rfl (.refl _ s)).changesFrame,
   fun _ _ s => (execAgentLaunch_kept rfl (.refl _ s)).changesFrame,
   fun _ _ s => (execAgentTileDone_kept rfl (.refl _ s)).changesFrame,
   fun _ _ s => (execAgentLanternDeadline_kept rfl (.refl _ s)).changesFrame,
   fun _ _ _ s => (execAgentEventAck_kept rfl (.refl _ s)).changesFrame,
   fun _ _ s => (execAgentFlashBoundary_kept rfl (.refl _ s)).changesFrame,
   fun _ _ _ _ s => (execSwitchPacketIngress_kept rfl (.refl _ s)).changesFrame,
   fun _ _ _ s => (execEndpointPacketArrival_kept rfl (.refl _ s)).changesFrame⟩

end Sys2Proof.Machine

/-! Hangs, resets of contexts, host DMA, and the resets of levels 4 to 6. -/
namespace Sys2Proof.Machine

/-- Settles O42: each case gives the conditions under which the meaning takes the branch stated. -/
theorem engineAndPartResetsRun : Obligations.EngineAndPartResetsRun := by
  refine ⟨?engineHang, ?resetDoneOffStage, ?resetDoneOnStage, ?rootContext, ?lanternContext, ?contextDone, ?dmaWhole, ?dmaPart, ?dmaStatus, ?dmaTimeout,
    fun s => rfl, ?deferred, ?partStart, ?partEnd, ?partFit, ?chipFit, ?chipFree, ?chipHeld, ?modReset, ?modRelease⟩
  case engineHang =>
    rintro s e slice item ⟨hen, hid, hrst, hhung, hreset⟩ hpart hpilot
    have hno (h : 0x10 ≤ e ∧ e ≤ 0x21) : False := by omega
    exact (if_pos ⟨hen, hid, hrst, hhung, hreset, Bool.eq_false_iff.mp hpart⟩).trans (if_neg fun ⟨hlo, hhi, _⟩ => hno ⟨hlo, hhi⟩)
  case resetDoneOffStage =>
    rintro s e x y z ⟨rfl, hreset⟩ rfl ⟨hstage, rfl⟩
    show execEngineResetDone e s = _
    simp only [execEngineResetDone, if_neg (Nat.not_lt.mpr hreset), hstage]
  case resetDoneOnStage =>
    rintro s e g x y z ⟨rfl, hreset⟩ rfl ⟨hstage, rfl⟩
    show execEngineResetDone e s = _
    simp only [execEngineResetDone, if_neg (Nat.not_lt.mpr hreset), hstage]
  case rootContext =>
    intro s n p hplan hunit
    show execContextHang 1 n s = _
    simp only [execContextHang, if_true, hplan, hunit]
  case lanternContext =>
    intro s n c hctx
    show execContextHang 2 n s = _
    simp [execContextHang, hctx]
  case contextDone =>
    intro s kind n c hctx
    show execContextResetDone kind n s = _
    simp only [execContextResetDone, hctx]
  case dmaWhole =>
    intro s slot ws d t hdma hall
    show execHostDmaCompletion slot 0 ws s = _
    simp [execHostDmaCompletion, hdma, hall]
  case dmaPart =>
    intro s slot ws d t hdma hleft
    show execHostDmaCompletion slot 0 ws s = _
    have htake : (d.got ++ ws).take ((d.len + 3) / 4) = d.got ++ ws := List.take_of_length_le (by simp; omega)
    simp [execHostDmaCompletion, hdma, htake, hleft]
  case dmaStatus =>
    intro s slot n ws d t hdma hn
    show execHostDmaCompletion slot n ws s = _
    simp only [execHostDmaCompletion, hdma, if_pos hn]
  case dmaTimeout =>
    intro s slot d t hdma
    show execHostDmaTimeout slot s = _
    simp only [execHostDmaTimeout, hdma]
  case deferred =>
    rintro s p ⟨hp, hdeferred, hpartner⟩
    show execDeferredResetStart s = _
    simp only [execDeferredResetStart, hp, if_pos (And.intro hdeferred hpartner)]
  case partStart =>
    rintro s p ⟨hp, hdeferred, hstarted⟩ hfree
    show execPartResetStart s = _
    have hgo : ¬ (p.deferred ∨ p.started ∨ (s.lit ∧ p.cause ≠ 5)) := by
      rcases hfree with hlit | hcause
      · simp [hdeferred, hstarted, hlit]
      · simp [hdeferred, hstarted, hcause]
    simp only [execPartResetStart, hp, if_neg hgo]
  case partEnd =>
    rintro s p y ⟨hp, hstarted, hlevel⟩ rfl
    show execPartResetEnd s = _
    simp only [execPartResetEnd, hp, if_pos (And.intro hstarted hlevel)]
  case partFit =>
    rintro s ⟨hfit, hesc⟩ hsince
    exact congrArg Host.Outcome.next (if_pos ⟨hfit, hesc, .inl hsince⟩)
  case chipFit =>
    rintro s ⟨hfit, hesc⟩ hsince
    exact congrArg Host.Outcome.next (if_pos ⟨hfit, hesc, hsince⟩)
  case chipFree =>
    rintro s p ⟨hp, hstarted, hlevel, hheld⟩ ⟨hcopy, hpin⟩
    show execChipReset s = _
    simp [execChipReset, hp, hstarted, hlevel, hheld, hcopy, hpin]
  case chipHeld =>
    rintro s p ⟨hp, hstarted, hlevel, hheld⟩ ⟨hcopy, hpin⟩
    show execChipReset s = _
    simp [execChipReset, hp, hstarted, hlevel, hheld, hcopy, hpin]
  case modReset =>
    rintro s z rfl hpart
    show execModReset s = _
    simp only [execModReset, hpart]
  case modRelease =>
    intro s p hp
    show execModResetDeassert s = _
    simp only [execModResetDeassert, hp]
    split <;> rfl

end Sys2Proof.Machine

/-! The grant and the takeover, SMBus, the mooring and selective mirroring (R363 to R384). -/
namespace Sys2Proof.Machine

/-- Settles O40: each case gives the conditions under which the meaning takes the branch stated. -/
theorem mooringCommandsRun : Obligations.MooringCommandsRun := by
  refine ⟨?grantTakes, ?grantWaits, fun s z hz => hz ▸ rfl, fun s => rfl, fun s => rfl, fun s code => ⟨rfl, rfl⟩, ?ident, ?deltaFirst, ?deltaMore,
    ?commit, ?apply, ?nack, ?ack, ?statusUnmirrored, ?statusStale, ?ackTimeout, ?loss, ?select, ?selectAck, ?resend⟩
  case grantTakes =>
    rintro s z rfl ⟨hlit, hchart⟩
    exact congrArg Host.Outcome.next (if_pos ⟨rfl, Bool.eq_false_iff.mp hlit, hchart⟩)
  case grantWaits =>
    rintro s z rfl ⟨hlit, hchart⟩
    refine congrArg Host.Outcome.next ((if_neg ?_).trans (if_pos ⟨rfl, Bool.eq_false_iff.mp hlit⟩))
    rintro ⟨-, -, hsome⟩
    exact Bool.false_ne_true ((congrArg Option.isSome hchart).symm.trans hsome)
  case ident =>
    intro s c hc
    show execSmbusIdent true s = _
    simp only [execSmbusIdent, hc, if_true]
  case deltaFirst =>
    rintro s p v bytes htake hstate rfl hnone
    show execMoorDelta p s = _
    simp only [execMoorDelta, htake, hstate, hnone, not_true_eq_false, Bool.false_eq_true, or_self, if_false]
  case deltaMore =>
    rintro s p v bytes x htake hstate rfl hx
    show execMoorDelta p s = _
    simp only [execMoorDelta, htake, hstate, hx, not_true_eq_false, Bool.false_eq_true, or_self, if_false]
  case commit =>
    rintro s p image v u z x bytes htake hstate hx rfl hgood rfl rfl
    show execMoorCommit p image s = _
    simp only [execMoorCommit, htake, hstate, hx, not_true_eq_false, Bool.false_eq_true, or_self, if_false, if_pos hgood]
  case apply =>
    rintro s c rest z hc rfl hstop
    show execDeltaApply s = _
    simp only [execDeltaApply, hc, if_pos hstop]
  case nack =>
    intro s p v htake hlit
    show execMoorNack p s = _
    simp only [execMoorNack, htake, hlit, and_self, if_true]
  case ack =>
    rintro s p v y z htake hlit rfl rfl hpage
    show execMoorAck p s = _
    simp only [execMoorAck, htake, hlit, not_true_eq_false, or_self, if_false]
    rw [if_neg]
    exact Bool.eq_false_iff.mp (congrArg (Option.any fun l => decide (l ≤ pairAt p.payload 1)) hpage)
  case statusUnmirrored =>
    rintro s p image v z htake hlit rfl hoff
    show execMoorStatus p image s = _
    simp only [execMoorStatus, htake, hlit, not_true_eq_false, or_self, if_false]
    exact if_pos (hoff.imp_left Bool.eq_false_iff.mp)
  case statusStale =>
    rintro s p v z htake hlit rfl ⟨hon, hport⟩
    show execMoorStatus p 3 s = _
    simp only [execMoorStatus, htake, hlit, not_true_eq_false, or_self, if_false]
    rw [if_neg, if_neg, if_pos trivial]
    · simp
    · simp [hon, hport]
  case ackTimeout =>
    intro s hlit hlate
    exact congrArg Host.Outcome.next (if_pos ⟨hlit, hlate⟩)
  case loss =>
    intro s hquiet
    exact congrArg Host.Outcome.next (if_pos hquiet)
  case select =>
    intro s port p v htake hlit hkind
    show execMirrorSelect port p s = _
    have h6 : bitsOf (wordAt p.payload 0) 0 4 ≠ 6 := by omega
    have h5 : bitsOf (wordAt p.payload 0) 0 4 ≠ 5 := by omega
    simp only [execMirrorSelect, htake, hlit, h6, h5, not_true_eq_false, Bool.false_eq_true, or_self, if_false]
  case selectAck =>
    intro s port p v htake hlit hkind
    show execMirrorSelectAck port p s = _
    simp only [execMirrorSelectAck, htake, hlit, hkind, ne_eq, not_true_eq_false, or_self, if_false]
  case resend =>
    intro s tag n x hx hlink
    show execMirrorResend tag s = _
    rcases hlink with hnext | ⟨hlast, hfirst⟩
    · simp only [execMirrorResend, hx, hnext]
    · obtain ⟨rest, hlinks⟩ := List.head?_eq_some_iff.mp hfirst
      rw [hlinks] at hlast
      simp only [execMirrorResend, hx, hlast, hlinks]

end Sys2Proof.Machine

/-! Power-up, rail failures and dips, shutdowns and trips, throttling and the reference clock (R490 to R507). -/
namespace Sys2Proof.Machine

/-! ### What the loss of LIT and a change of fitness leave (R365, R366) -/

/-- A raised status bit changes registers, vectors and messages only. -/
theorem State.raise_same (s : State) (f : Fld) : State.SameBut 0xffffffff00000009 s (s.raise f) :=
  (State.raise_kept rfl (bit_all (m := 0xffffffff00000009) rfl rfl) (State.Kept.refl _ s)).same

theorem State.setUnfit_same (s : State) (bit : Nat) (on : Bool) : State.SameBut 0x400000000009 s (s.setUnfit bit on) :=
  (State.setUnfit_kept rfl (State.Kept.refl _ s)).same

theorem State.selfStale_same (s : State) : State.SameBut 0x400000000009 s s.selfStale :=
  (State.selfStale_kept rfl (State.Kept.refl _ s)).same

theorem State.failWindows_same (s : State) (ws : List Nat) (error reason : Nat) : State.SameBut 0x14629 s (s.failWindows ws error reason) :=
  (State.failWindows_kept rfl (State.Kept.refl _ s)).same

theorem State.loseLit_same (s : State) (grant : Bool) : State.SameBut 0xffffffff000166e9 s (s.loseLit grant) :=
  (State.loseLit_kept rfl (State.Kept.refl _ s)).same

theorem State.renew_mor (s : State) (f : Fld) : (s.renew f id).mor = s.mor :=
  (State.renew_kept (F := 0xffffffff00000008) rfl (State.Kept.refl _ s) fun _ => id).same.mor rfl

/-- A unit that loses LIT drives LIT_N no more, and its grant stands as given (R363, R365). -/
theorem State.loseLit_released (s : State) (grant : Bool) : (s.loseLit grant).mor.lit = false ∧ (s.loseLit grant).mor.grant = grant := by
  unfold State.loseLit
  simp only [(State.raise_same _ _).mor rfl, (State.setUnfit_same _ _ _).mor rfl, (State.selfStale_same _).mor rfl,
    (State.failWindows_same _ _ _ _).mor rfl, State.renew_mor, State.count_mor, State.showQueue, State.setF_mor, State.onWdn_mor, State.onMor, and_self]

/-! ### Rails (R491, R493, R494) -/

theorem State.railsDown_lit (s : State) (stage : PwrStage) : (s.railsDown stage).mor.lit = false := by
  unfold State.railsDown
  dsimp only
  split
  · exact (s.loseLit_released _).1
  · next hlit => exact Bool.eq_false_iff.mpr hlit

theorem State.railsDown_log (s : State) (stage : PwrStage) : (s.railsDown stage).log = s.log := by
  unfold State.railsDown
  dsimp only
  split
  · exact (s.loseLit_same _).log rfl
  · rfl

theorem State.getReg_railsDown_rails (s : State) (stage : PwrStage) : (s.railsDown stage).getReg Reg.PWR_RAILS = 1 :=
  (State.getReg_congr (s := (if s.lit then s.loseLit s.mor.grant else s).setReg Reg.PWR_RAILS 1) rfl _).trans (State.getReg_setReg_self _ _ _)

theorem State.getReg_onPwr (s : State) (f : PwrState → PwrState) (off : Nat) : (s.onPwr f).getReg off = s.getReg off := rfl

theorem State.getF_onPwr (s : State) (f : PwrState → PwrState) (g : Fld) : (s.onPwr f).getF g = s.getF g := rfl

/-- The rails with all of them up, before the main die leaves reset (R493). -/
def State.railsGood (s : State) : State := ((s.setReg Reg.PWR_RAILS (w32 railBits)).setReg Reg.PWR_STATE 0).onPwr fun _ => PwrState.reset

theorem State.railsUp_none (s : State) (last : Bool) : s.railsUp none last = s.railsGood.restartChip 6 0 := rfl

theorem State.getReg_railsGood_rails (s : State) : s.railsGood.getReg Reg.PWR_RAILS = 0xFF := by
  rw [State.railsGood, State.getReg_onPwr, State.getReg_setReg_ne _ _ (by decide), State.getReg_setReg_self]
  rfl

theorem State.getReg_railsGood_state (s : State) : s.railsGood.getReg Reg.PWR_STATE = 0 := by
  rw [State.railsGood, State.getReg_onPwr, State.getReg_setReg_self]

theorem State.getF_railsGood_strap (s : State) {f : Fld} (h : f.off = Reg.PWR_STRAPS) : s.railsGood.getF f = s.getF f := by
  refine State.getF_eq_of_getReg ?_
  rw [State.railsGood, State.getReg_onPwr, State.getReg_setReg_ne _ _ (by rw [h]; decide), State.getReg_setReg_ne _ _ (by rw [h]; decide)]

theorem State.getReg_railsUp_some (s : State) (r : Nat) (last : Bool) : (s.railsUp (some r) last).getReg Reg.PWR_RAILS = 1 := by
  rw [State.railsUp, State.getReg_onPwr, State.getReg_setReg_self]

/-- The straps as the always-on domain latches them (R490). -/
def State.latchStraps (s : State) (role x y : Nat) : State :=
  ((s.setF Fld.PWR_STRAPS_ROLE role).setF Fld.PWR_STRAPS_POS_X x).setF Fld.PWR_STRAPS_POS_Y y

theorem State.getF_latchStraps (s : State) {role x y : Nat} (hrole : role < 2) (hx : x < 8) (hy : y < 8) :
    (s.latchStraps role x y).getF Fld.PWR_STRAPS_ROLE = role ∧ (s.latchStraps role x y).getF Fld.PWR_STRAPS_POS_X = x
      ∧ (s.latchStraps role x y).getF Fld.PWR_STRAPS_POS_Y = y := by
  unfold State.latchStraps
  refine ⟨?_, ?_, ?_⟩
  · rw [State.getF_setF_apart _ _ rfl (by decide), State.getF_setF_apart _ _ rfl (by decide), State.getF_setF_self _ _ _ (by decide)]
    exact Nat.mod_eq_of_lt hrole
  · rw [State.getF_setF_apart _ _ rfl (by decide), State.getF_setF_self _ _ _ (by decide)]
    exact Nat.mod_eq_of_lt hx
  · rw [State.getF_setF_self _ _ _ (by decide)]
    exact Nat.mod_eq_of_lt hy

theorem execPowerUp_of_off {s : State} (h : s.pwr.stage = .off) (role x y : Nat) (fail : Option Nat) :
    execPowerUp role x y fail s = .next ((s.latchStraps role x y).railsUp fail false) := if_pos h

theorem execRailFailRetry_of_retry {s : State} (h : s.pwr.stage = .retry) (fail : Option Nat) :
    execRailFailRetry fail s = .next (s.railsUp fail true) := if_pos h

/-! ### Shutdown (R501) -/

/-- A shutdown decided: its cause shown, POWER unfit, the wait for LIT begun (R501). -/
def State.beginShutdown (s : State) (cause : Nat) : State :=
  ((s.setF Fld.PWR_STATE_SHUT_CAUSE cause).setUnfit 4 true).onPwr fun p => { p with closing := true }

theorem State.getF_beginShutdown_cause (s : State) {cause : Nat} (h : cause < 4) : (s.beginShutdown cause).getF Fld.PWR_STATE_SHUT_CAUSE = cause := by
  have hkeep := State.getF_eq_of_getReg (f := Fld.PWR_STATE_SHUT_CAUSE)
    ((State.setUnfit_same (s.setF Fld.PWR_STATE_SHUT_CAUSE cause) 4 true).regs Reg.PWR_STATE rfl)
  exact hkeep.trans ((State.getF_setF_self _ _ _ (by decide)).trans (Nat.mod_eq_of_lt h))

theorem State.beginShutdown_mor (s : State) (cause : Nat) : (s.beginShutdown cause).mor = s.mor :=
  (State.setUnfit_same _ 4 true).mor rfl

theorem State.beginShutdown_log (s : State) (cause : Nat) : (s.beginShutdown cause).log = s.log :=
  (State.setUnfit_same _ 4 true).log rfl

/-- The causes of R501 on a stage that is on and not closing. -/
theorem execShutdownLimit_of_due {s : State} {cause : Nat} (hon : s.pwr.stage = .on) (hopen : s.pwr.closing = false)
    (hcause : cause = 1 ∨ cause = 2 ∨ (cause = 3 ∧ s.pwr.dip = true)) :
    execShutdownLimit cause s = .next (if s.mor.lit then s.beginShutdown cause else (s.beginShutdown cause).startCopy .shutdown) := by
  have hdue : ¬ (s.pwr.stage ≠ .on ∨ s.pwr.closing ∨ cause = 0 ∨ 3 < cause ∨ (cause = 3 ∧ ¬ s.pwr.dip)) := by
    rcases hcause with rfl | rfl | ⟨rfl, hdip⟩
    · simp [hon, hopen]
    · simp [hon, hopen]
    · simp [hon, hopen, hdip]
  rw [← s.beginShutdown_mor cause]
  exact if_neg hdue

/-- Settles O44: each case gives the state that its meaning answers, and reads the registers and parts stated off it. -/
theorem powerAndReferenceEvents : Obligations.PowerAndReferenceEvents := by
  refine ⟨?powerUp, ?powerUpFails, ?retry, ?retryFails, ?dip, ?loss, ?shutdownFree, ?shutdownLit, ?release, ?withdraw, ?trip, ?throttleUp, ?throttleDown,
    ?refLoss, ?refRestore⟩
  case powerUp =>
    rintro s role x y hoff ⟨hrole, hx, hy⟩
    obtain ⟨r1, r2, r3⟩ := s.getF_latchStraps hrole hx hy
    exact ⟨(s.latchStraps role x y).railsGood, execPowerUp_of_off hoff .., (State.getF_railsGood_strap _ rfl).trans r1,
      (State.getF_railsGood_strap _ rfl).trans r2, (State.getF_railsGood_strap _ rfl).trans r3, State.getReg_railsGood_rails _,
      State.getReg_railsGood_state _, rfl⟩
  case powerUpFails =>
    intro s role x y r hoff
    exact ⟨_, execPowerUp_of_off hoff .., rfl, State.getReg_railsUp_some ..⟩
  case retry =>
    intro s hretry
    exact ⟨s.railsGood, execRailFailRetry_of_retry hretry none, s.getReg_railsGood_rails, rfl⟩
  case retryFails =>
    intro s r hretry
    exact ⟨_, execRailFailRetry_of_retry hretry (some r), rfl, State.getReg_railsUp_some ..⟩
  case dip =>
    intro s hon
    exact ⟨_, if_pos hon, rfl, s.flag_raise_self _ rfl (by decide)⟩
  case loss =>
    intro s
    refine ⟨_, rfl, rfl, State.railsDown_lit _ .off, ?_⟩
    exact (State.getReg_setF_ne _ _ (by decide)).trans (State.getReg_setReg_self _ _ _)
  case shutdownFree =>
    intro s cause hon hopen hcause hlit
    refine ⟨s.beginShutdown cause, (execShutdownLimit_of_due hon hopen hcause).trans ?_, s.getF_beginShutdown_cause (by omega), rfl⟩
    rw [hlit]
    rfl
  case shutdownLit =>
    intro s cause hon hopen hcause hlit
    refine ⟨s.beginShutdown cause, (execShutdownLimit_of_due hon hopen hcause).trans ?_, s.getF_beginShutdown_cause (by omega), rfl,
      (congrArg MorState.lit (s.beginShutdown_mor cause)).trans hlit, s.beginShutdown_log cause⟩
    rw [hlit]
    rfl
  case release =>
    intro s hclosing hlit
    exact ⟨if_pos ⟨hclosing, hlit⟩, (s.loseLit_released _).1⟩
  case withdraw =>
    intro s hopen
    have hwait : ¬ (((s.setF Fld.MOR_STATE_GRANT 0).setF Fld.MOR_PINS_GRANT 0).loseLit false).pwr.closing = true := by
      rw [(State.loseLit_same _ _).pwr rfl]
      exact Bool.eq_false_iff.mp hopen
    cases hlit : s.mor.lit with
    | true => exact ⟨_, (if_pos hlit).trans (congrArg Host.Outcome.next (if_neg fun h => hwait h.1)), State.loseLit_released _ _⟩
    | false => exact ⟨_, if_neg (Bool.eq_false_iff.mp hlit), hlit, rfl⟩
  case trip =>
    intro s hoff
    refine ⟨_, if_neg hoff, rfl, State.railsDown_lit _ .locked, ?_, State.bitAt_setF_one _ _ rfl (by decide), ?_⟩
    · exact (State.getReg_setF_ne _ _ (by decide)).trans (State.getReg_railsDown_rails _ _)
    · exact congrArg LogState.copying (State.railsDown_log _ .locked)
  case throttleUp =>
    rintro s hlevel hen ⟨hhot, hstood⟩
    refine ⟨_, if_pos ⟨hlevel, hen, hhot, hstood⟩, ?_, State.flag_raise_self _ _ rfl (by decide), rfl⟩
    rw [State.getF_onPwr, State.getF_raise_apart _ rfl (by decide), State.getF_setF_self _ _ _ (by decide)]
    exact Nat.mod_eq_of_lt (Nat.lt_of_le_of_lt hlevel (by decide))
  case throttleDown =>
    rintro s ⟨hlow, hhigh⟩ hhot hcool
    have hup : ¬ (s.getF Fld.PWR_STATE_LEVEL < 2 ∧ s.flag Fld.PWR_CTRL_THROTTLE_EN ∧ 10000 ≤ s.pwr.hot ∧ 10000 ≤ s.pwr.stood) := by omega
    refine ⟨_, (if_neg hup).trans (if_pos ⟨hlow, hcool⟩), ?_, rfl⟩
    rw [State.getF_onPwr, State.getF_setF_self _ _ _ (by decide)]
    exact Nat.mod_eq_of_lt (Nat.lt_of_le_of_lt (Nat.sub_le _ 1) (Nat.lt_of_le_of_lt hhigh (by decide)))
  case refLoss =>
    intro s
    refine ⟨_, rfl, State.flag_raise_self _ _ rfl (by decide), (State.getF_raise_apart _ rfl (by decide)).trans ?_⟩
    split
    · exact State.getF_setF_self _ _ _ (by decide)
    · rfl
  case refRestore =>
    intro s href
    refine ⟨_, congrArg Host.Outcome.next (if_pos href), State.flag_raise_self _ _ rfl (by decide), ?_⟩
    exact (State.getF_raise_apart _ rfl (by decide)).trans (State.getF_setF_self _ _ _ (by decide))

end Sys2Proof.Machine

/-! The PCIe function: its power states, resets and link, MSI-X spacing, and the writes of the command windows (R463 to R473, R496). -/
namespace Sys2Proof

/-! ### Words written into a block one after another -/

theorem modifyAt_modifyAt {α : Type} (f g : α → α) (n : Nat) (l : List α) : modifyAt f n (modifyAt g n l) = modifyAt (fun x => f (g x)) n l := by
  induction l generalizing n with
  | nil => cases n <;> rfl
  | cons x l ih =>
    cases n with
    | zero => rfl
    | succ n => exact congrArg (x :: ·) (ih n)

theorem modifyAt_id {α : Type} (n : Nat) (l : List α) : modifyAt (fun x => x) n l = l := by
  induction l generalizing n with
  | nil => cases n <;> rfl
  | cons x l ih =>
    cases n with
    | zero => rfl
    | succ n => exact congrArg (x :: ·) (ih n)

/-- The words a host command writes to its block. -/
def HostCmd.words (c : HostCmd) (op : Nat) : List Word := (fieldAt 0 8 op ||| fieldAt 8 1 (b2n c.irq)) :: c.args.take 31

/-- Words written to a block, each at its place. -/
def writeBlock (l : List (Word × Nat)) (b : List Word) : List Word := l.foldl (fun b x => modifyAt (fun _ => x.1) x.2 b) b

/-- Words written from a place on stand there; the rest of the block is as before. -/
theorem getElem?_writeBlock_zipIdx (l : List Word) (k : Nat) (b : List Word) (hlen : k + l.length ≤ b.length) (i : Nat) :
    (writeBlock (l.zipIdx k) b)[i]? = if k ≤ i ∧ i < k + l.length then l[i - k]? else b[i]? := by
  induction l generalizing k b with
  | nil => rw [if_neg (by simp)]; rfl
  | cons x l ih =>
    rw [List.length_cons] at hlen ⊢
    show (writeBlock (l.zipIdx (k + 1)) (modifyAt (fun _ => x) k b))[i]? = _
    rw [ih (k + 1) _ (by rw [length_modifyAt]; omega), getElem?_modifyAt]
    by_cases hk : k = i
    · subst hk
      rw [if_neg (by omega), if_pos rfl, if_pos (by omega), Nat.sub_self, List.getElem?_eq_getElem (by omega)]
      rfl
    · rw [if_neg hk]
      by_cases hin : k + 1 ≤ i ∧ i < k + 1 + l.length
      · rw [if_pos hin, if_pos (by omega), show i - k = i - (k + 1) + 1 by omega, List.getElem?_cons_succ]
      · rw [if_neg hin, if_neg (by omega)]

end Sys2Proof

namespace Sys2Proof.Machine

/-! ### Command windows (R467, R468) -/

/-- Block words written to a window that is not BUSY all go to its block. -/
theorem State.foldl_writeCmdWord_of_free (l : List (Word × Nat)) {s : State} {w : Nat} (hfree : (s.window w).st ≠ .busy) :
    l.foldl (fun s x => s.writeCmdWord w x.2 x.1) s = s.onWindow w fun x => { x with block := writeBlock l x.block } := by
  induction l generalizing s with
  | nil => exact (congrArg (fun ws => { s with hif := { s.hif with windows := ws } }) (modifyAt_id w s.hif.windows)).symm
  | cons x l ih =>
    have hfree' : ((s.onWindow w fun y => { y with block := modifyAt (fun _ => x.1) x.2 y.block }).window w).st ≠ .busy := by
      refine (State.window_onWindow_proj Window.st ?_ s w w).trans_ne hfree
      exact fun _ => rfl
    rw [List.foldl_cons, State.writeCmdWord, if_neg hfree, ih hfree']
    exact congrArg (fun ws => { s with hif := { s.hif with windows := ws } }) (modifyAt_modifyAt _ _ w s.hif.windows)

theorem State.window_onWindow_self (s : State) {w : Nat} (f : Window → Window) (hw : w < s.hif.windows.length) :
    (s.onWindow w f).window w = f (s.window w) := getD_modifyAt_self f _ hw

/-- What the commit leaves in its window (R21, R468). -/
theorem State.window_commit_self (s : State) {w : Nat} (seq : BitVec 16) (hw : w < s.hif.windows.length) :
    ((s.commit w seq).window w).st = .busy ∧ ((s.commit w seq).window w).lastSeq = seq ∧ ((s.commit w seq).window w).stamp = s.tim.flash
      ∧ ((s.commit w seq).window w).results = List.replicate 16 0 ∧ ((s.commit w seq).window w).copy = (s.window w).block := by
  have h := s.window_onWindow_self (fun x =>
    { x with seqReg := seq, copy := x.block, st := .busy, unmirrored := false, opcode := (wordAt x.block 0).extractLsb' 0 8,
             error := 0, reason := 0, lastSeq := seq, stamp := s.tim.flash, doneFlash := 0, results := List.replicate 16 0 }) hw
  exact ⟨congrArg Window.st h, congrArg Window.lastSeq h, congrArg Window.stamp h, congrArg Window.results h, congrArg Window.copy h⟩

/-- The state in which a host command's words stand in the block of its window. -/
def State.blockWritten (s : State) (c : HostCmd) (op : Nat) : State :=
  s.onWindow c.win.toNat fun x => { x with block := writeBlock (c.words op).zipIdx x.block }

theorem State.committed_of_free {s : State} {c : HostCmd} (op : Nat) (hfree : (s.window c.win.toNat).st ≠ .busy) :
    s.committed c op = (s.blockWritten c op).commit c.win.toNat c.seq :=
  congrArg (State.commit · c.win.toNat c.seq) (State.foldl_writeCmdWord_of_free _ hfree)

theorem State.blockWritten_length (s : State) (c : HostCmd) (op : Nat) : (s.blockWritten c op).hif.windows.length = s.hif.windows.length :=
  length_modifyAt _ _ _

/-- A command's arguments stand in its block behind word 0 (R468, R469). -/
theorem State.blockWritten_arg {s : State} {c : HostCmd} (op : Nat) (hw : c.win.toNat < s.hif.windows.length)
    (hblock : (s.window c.win.toNat).block.length = 32) (hargs : c.args.length ≤ 31) {i : Nat} (hi : i < c.args.length) :
    wordAt ((s.blockWritten c op).window c.win.toNat).block (i + 1) = wordAt c.args i := by
  have hwords : c.words op = (fieldAt 0 8 op ||| fieldAt 8 1 (b2n c.irq)) :: c.args := congrArg _ (List.take_of_length_le hargs)
  have hlen : (c.words op).length = c.args.length + 1 := congrArg List.length hwords
  have hword := getElem?_writeBlock_zipIdx (c.words op) 0 (s.window c.win.toNat).block (by omega) (i + 1)
  rw [if_pos (by omega), Nat.sub_zero, hwords, List.getElem?_cons_succ, ← hwords] at hword
  rw [State.blockWritten, State.window_onWindow_self _ _ hw]
  simp only [wordAt, List.getD_eq_getElem?_getD, hword]

theorem runOpcode_reserved {n : Nat} (h : n = 0 ∨ 0x10 < n) : runOpcode n = cmdReserved := by
  rcases h with rfl | h
  · rfl
  · obtain ⟨k, rfl⟩ := Nat.exists_eq_add_of_le' (show 17 ≤ n from h)
    rfl

/-- An aligned 32-bit write that reaches the unit is taken at its place (R9, R468). -/
theorem execCommandWindowWrite_word {s : State} {off : Nat} (value : BitVec 64) (hr : s.hostReaches = true) (ha : off % 4 = 0) :
    execCommandWindowWrite off 4 value s = .next (s.writeWindow off (value.extractLsb' 0 32)) := by
  have hal : writeAligned off 4 = true := (writeAligned_iff off 4).mpr (.inl ⟨rfl, ha⟩)
  simp [execCommandWindowWrite, hr, hal]

theorem State.writeWindow_seq {s : State} {w : Nat} {v : Word} (hw : w < 16) (hc : s.commits w (v.extractLsb' 0 16) = true) :
    s.writeWindow (0x1000 * w) v = runOpcode (bitsOf (wordAt (s.window w).block 0) 0 8) w (s.commit w (v.extractLsb' 0 16)) := by
  have hwin : 0x1000 * w / 0x1000 = w := by omega
  have hplace : 0x1000 * w % 0x1000 = 0 := by omega
  simp only [State.writeWindow, hwin, hplace, if_neg (Nat.not_le.mpr hw), if_true, hc]

theorem State.writeWindow_block (s : State) {w i : Nat} (v : Word) (hw : w < 16) (hi : i < 32) :
    s.writeWindow (0x1000 * w + 0x40 + 4 * i) v = s.writeCmdWord w i v := by
  have hwin : (0x1000 * w + 0x40 + 4 * i) / 0x1000 = w := by omega
  have hplace : (0x1000 * w + 0x40 + 4 * i) % 0x1000 = 0x40 + 4 * i := by omega
  have hword : (0x40 + 4 * i - 0x40) / 4 = i := by omega
  simp only [State.writeWindow, hwin, hplace, hword]
  rw [if_neg (by omega), if_neg (by omega), if_pos (by omega)]

/-! ### Vectors (R465, R473) -/

theorem State.vec_onVec_self (s : State) {n : Nat} (f : Vec → Vec) (hn : n < s.hif.vecs.length) : (s.onVec n f).vec n = f (s.vec n) :=
  getD_modifyAt_self f _ hn

/-- Out of D3hot a message changes the vectors alone of the host interface. -/
theorem State.signal_awake {s : State} (hawake : s.hif.d3hot = false) (v : Nat) : ∃ vecs, (s.signal v).hif = { s.hif with vecs := vecs } := by
  unfold State.signal
  dsimp only
  split
  · exact ⟨_, rfl⟩
  · rw [if_neg (Bool.eq_false_iff.mp hawake)]
    split <;> exact ⟨_, rfl⟩

theorem State.foldl_signal_awake (l : List Nat) {s : State} (hawake : s.hif.d3hot = false) :
    ∃ vecs, (l.foldl (fun s v => s.signal v) s).hif = { s.hif with vecs := vecs } := by
  induction l generalizing s with
  | nil => exact ⟨_, rfl⟩
  | cons v l ih =>
    obtain ⟨vecs, h⟩ := State.signal_awake hawake v
    obtain ⟨vecs', h'⟩ := ih (s := s.signal v) (by rw [h]; exact hawake)
    exact ⟨vecs', by rw [List.foldl_cons, h', h]⟩

/-- A vector that is neither masked nor within its spacing sends its message out of D3hot (R473). -/
theorem State.signal_sends {s : State} {n : Nat} (hopen : (s.vec n).ctrl = 0) (hawake : s.hif.d3hot = false) (hspacing : (s.vec n).spacing = false) :
    s.signal n = (s.send (.msix n (s.vec n).addr (s.vec n).data)).onVec n fun e => { e with spacing := true, due := false, pending := false } := by
  simp [State.signal, hopen, hawake, hspacing]

/-- The vector whose spacing is over, before a message due meanwhile goes (R473). -/
def State.spacingEnded (s : State) (n : Nat) : State := s.onVec n fun e => { e with spacing := false, due := false }

theorem State.spacingEnded_vec (s : State) {n : Nat} (hn : n < s.hif.vecs.length) :
    (s.spacingEnded n).vec n = { s.vec n with spacing := false, due := false } := s.vec_onVec_self _ hn

theorem State.spacingEnded_length (s : State) (n : Nat) : (s.spacingEnded n).hif.vecs.length = s.hif.vecs.length := length_modifyAt _ _ _

/-! ### The function's reset and its link (R463, R466) -/

/-- The state from which the function's reset of HIF starts: no owner refers to a window, and the windows and vectors are as after reset (R466). -/
def State.functionCleared (s : State) : State := { s.detachWindows with hif := s.detachWindows.hif.functionReset }

theorem State.functionCleared_windows (s : State) : ∀ x ∈ s.functionCleared.hif.windows, x.st = .idle ∧ x.lastSeq = 0 := by
  intro x hx
  obtain ⟨y, -, rfl⟩ := List.mem_map.mp hx
  exact ⟨rfl, rfl⟩

/-- HIF_LINK as it shows a rate and a width (R463, R485). -/
def State.showLink (s : State) (rate width : Nat) : State :=
  ((s.setF Fld.HIF_LINK_SPEED rate).setF Fld.HIF_LINK_WIDTH width).setF Fld.HIF_LINK_SLOW (b2n (decide (rate < 4 ∨ width < 4)))

theorem State.getF_showLink (s : State) {rate width : Nat} (hrate : rate < 16) (hwidth : width < 64) :
    (s.showLink rate width).getF Fld.HIF_LINK_SPEED = rate ∧ (s.showLink rate width).getF Fld.HIF_LINK_WIDTH = width
      ∧ (s.showLink rate width).getF Fld.HIF_LINK_SLOW = (if rate < 4 ∨ width < 4 then 1 else 0) := by
  unfold State.showLink
  refine ⟨?_, ?_, ?_⟩
  · rw [State.getF_setF_apart _ _ rfl (by decide), State.getF_setF_apart _ _ rfl (by decide), State.getF_setF_self _ _ _ (by decide)]
    exact Nat.mod_eq_of_lt hrate
  · rw [State.getF_setF_apart _ _ rfl (by decide), State.getF_setF_self _ _ _ (by decide)]
    exact Nat.mod_eq_of_lt hwidth
  · rw [State.getF_setF_self _ _ _ (by decide)]
    by_cases hslow : rate < 4 ∨ width < 4 <;> simp [hslow, b2n]

/-- HIF_LINK after training, whether or not the change raises its status bit. -/
theorem execPcieLinkTrained_link (s : State) (offered width : Nat) : ∃ t, execPcieLinkTrained offered width s = .next t
    ∧ t.getReg Reg.HIF_LINK = (s.showLink (min offered (6 - s.getF Fld.HIF_CTRL_MAX_SPEED)) width).getReg Reg.HIF_LINK :=
  ⟨_, rfl, (State.getReg_raiseIf_ne _ _ (by decide)).trans (State.getReg_congr rfl _)⟩

/-- Settles O27: windows by the equations of R468 above, messages by signal, resets by the state they start from, the link by HIF_LINK. -/
theorem pcieFunctionEvents : Obligations.PcieFunctionEvents := by
  refine ⟨fun s => ⟨_, rfl, rfl, rfl, rfl⟩, ?d0, ?spacingOver, ?spacingDue, fun s => ⟨s.functionCleared, rfl, s.functionCleared_windows, rfl, rfl, rfl⟩,
    fun s => ⟨s.functionCleared, _, rfl, rfl, s.functionCleared_windows, rfl, rfl, rfl⟩, ?link, ?seq, ?blockWord, ?reserved, ?committed⟩
  case d0 =>
    intro s
    obtain ⟨vecs, h⟩ := State.foldl_signal_awake s.hif.owed (s := { s with hif := { s.hif with d3hot := false, owed := [] } }) rfl
    exact ⟨_, rfl, congrArg Hif.d3hot h, congrArg Hif.owed h⟩
  case spacingOver =>
    intro s n hn hdue
    refine ⟨s.spacingEnded n, congrArg Host.Outcome.next (if_neg fun h => ?_), ?_, rfl⟩
    · exact Bool.eq_false_iff.mp hdue h.1
    · rw [s.spacingEnded_vec hn]
  case spacingDue =>
    intro s n hmsg hn hdue hopen hawake
    have hvec := s.spacingEnded_vec hn
    have hsend := State.signal_sends (s := s.spacingEnded n) (n := n) (by rw [hvec]; exact hopen) hawake (by rw [hvec])
    have hlen : n < (s.spacingEnded n).hif.vecs.length := (s.spacingEnded_length n).symm ▸ hn
    refine ⟨_, congrArg Host.Outcome.next ((if_pos ⟨hdue, .inl hmsg⟩).trans hsend), ?_, ?_, ?_⟩
    · rw [hvec]
      rfl
    · exact congrArg Vec.spacing (State.vec_onVec_self (State.send _ _) _ hlen)
    · exact congrArg Vec.due (State.vec_onVec_self (State.send _ _) _ hlen)
  case link =>
    rintro s offered width rate rfl hwidth
    obtain ⟨t, ht, hlink⟩ := execPcieLinkTrained_link s offered width
    obtain ⟨hspeed, hw, hslow⟩ := s.getF_showLink (rate := min offered (6 - s.getF Fld.HIF_CTRL_MAX_SPEED)) (by omega) hwidth
    exact ⟨t, ht, (State.getF_eq_of_getReg hlink).trans hspeed, (State.getF_eq_of_getReg hlink).trans hw,
      (State.getF_eq_of_getReg hlink).trans hslow⟩
  case seq =>
    rintro s w value x hr hw rfl hc
    exact (execCommandWindowWrite_word value hr (by omega)).trans (congrArg Host.Outcome.next (State.writeWindow_seq hw hc))
  case blockWord =>
    intro s w i value hr hw hi hlen hfree
    refine ⟨_, (execCommandWindowWrite_word value hr (by omega)).trans (congrArg Host.Outcome.next (s.writeWindow_block _ hw hi)), ?_⟩
    rw [State.writeCmdWord, if_neg hfree, State.window_onWindow_self _ _ hlen]
    exact ⟨rfl, rfl, rfl⟩
  case reserved =>
    intro s c op hr hc hop
    show Host.Outcome.next (s.issue c op.toNat (runOpcode op.toNat)) = _
    have hno : op.toNat = 0 ∨ 0x10 < op.toNat := hop.imp_left fun h => by rw [h]; rfl
    rw [runOpcode_reserved hno, State.issue_of_commits ⟨hr, hc, rfl⟩]
    rfl
  case committed =>
    intro s c op hw hblock hfree hargs
    obtain ⟨hst, hseq, hstamp, hresults, hcopy⟩ := (s.blockWritten c op).window_commit_self c.seq (by rw [State.blockWritten_length]; exact hw)
    rw [State.committed_of_free op hfree]
    refine ⟨hst, hseq, hstamp, hresults, fun i hi => ?_⟩
    rw [State.arg, hcopy, State.blockWritten_arg op hw hblock hargs hi]

end Sys2Proof.Machine
